-- ==== Sys2Proof/Word.lean ====
section
/-! DEFINITION. The plain data types of the KB9640: register words and bytes (R6). -/

namespace Sys2Proof

/-- A register word: every register is 32 bits wide (R6). -/
abbrev Word := BitVec 32

/-- One byte of a frame, a block transfer or an addressed RAM. -/
abbrev Byte := BitVec 8

end Sys2Proof
end

