-- ==== Sys2Proof/Syntax.lean ====
section
/-! DEFINITION. The commands of the KB9640: one constructor of Instr for each row of the opcode table, with the operands
that the row's event or access carries. A level, a sample or a converter code that an event depends on is an operand; what the
device itself holds is not. -/

namespace Sys2Proof

/-- The power domains that carry a POR of their own (R82). VPCIE and VPCIEH are one domain. -/
inductive Domain where
  | ao | hv | io | ana | core | pcie
  deriving DecidableEq, Repr

/-- The four host ports (chapter Host Ports). -/
inductive HostPort where
  | pcie | i3cA | i3cB | spi
  deriving DecidableEq, Repr

/-- One of the two I3C/SMBus ports. -/
inductive BusPort where
  | a | b
  deriving DecidableEq, Repr

/-- Who makes a register access: a host port with the context number it attaches (none: BAR0, CTX 0xF or
8 to 0xE, or no field), the JTAG debug bridge, or the Flehaene core (R126, R157). -/
inductive Source where
  | port (p : HostPort) (ctx : Option (Fin 8))
  | jtag
  | core
  deriving DecidableEq, Repr

/-- Why a device reset is requested (R84): GLB_DEVRST, JTAG, or the reset set of a watchdog. -/
inductive ResetReq where
  | sw | jtag | wdt (k : Fin 9)
  deriving DecidableEq, Repr

/-- The PEC byte of an SMBus transfer: not sent, right, or wrong (R185, R191). -/
inductive Pec where
  | absent | good | bad
  deriving DecidableEq, Repr

/-- An SMBus transfer's port and PEC. -/
structure SmbXfer where
  port : BusPort
  pec : Pec
  deriving DecidableEq, Repr

/-- The BARs of the function (R163). -/
inductive Bar where
  | bar0 | bar2 | bar4
  deriving DecidableEq, Repr

/-- One DW of an inbound memory request: its byte enables and, for a write, its data (R164). -/
structure Dw where
  be : BitVec 4
  data : Word
  deriving DecidableEq, Repr

/-- One conversion of IMONk with the same-cycle conversion of IREF, as codes (R219, R220). -/
structure Imon where
  code : Nat
  iref : Nat
  deriving DecidableEq, Repr

/-- What the converters give a loop at a step: the latest telemetry conversion (R243), and the latest IMON samples of phases, 8 ns
apart and oldest first (R219, R251). -/
structure LoopSamples where
  raw : Nat
  imon : List (Fin 64 × List Imon)
  deriving DecidableEq, Repr

/-- What a phase measured over the off-time that ends at a leading edge: its IMON samples, 8 ns apart and oldest first, the time from the
trailing edge to the first of them, and to the edge that is due, in 31.25 ps units. -/
structure OffTime where
  samples : List Imon
  first : Nat
  tOff : Nat
  deriving DecidableEq, Repr

/-- A frame as it arrives: the HDR-DDR command code where one leads it, and its bytes (R170, R177). -/
structure FrameIn where
  hdr : Option Byte
  bytes : List Byte
  deriving DecidableEq, Repr

/-- A private read of a port, with the HDR-DDR command code where one leads it (R177). -/
structure PrivateRead where
  port : BusPort
  hdr : Option Byte
  deriving DecidableEq, Repr

/-- A bus-available condition of a port and the controller's answer to its in-band interrupt (R180). -/
structure IbiTry where
  port : BusPort
  accepted : Bool
  deriving DecidableEq, Repr

/-- A PMBus command code that has no row of its own, with the data byte of a write (R189). -/
structure ByteCommand where
  code : Byte
  data : Option Byte
  deriving DecidableEq, Repr

/-- The sensed voltage of a loop in µV every 8 ns since its comparator was last looked at, oldest first (R324). -/
structure LoopVolts where
  loop : Fin 16
  volts : List Nat
  deriving DecidableEq, Repr

/-- What a write of LOOPn_FLT finds (R347): the sensed voltage now in µV, and the converters. -/
structure FltSense where
  uv : Nat
  samples : LoopSamples
  deriving DecidableEq, Repr

/-- The level of an EFI pin, and for how long it has held, in 8 ns units (R517). -/
structure EfiLevel where
  high : Bool
  held : Nat
  deriving DecidableEq, Repr

/-- Watchdog ticks that have passed for an instance since its last command (R531). -/
structure WdtTicks where
  inst : Fin 9
  dt : Nat
  deriving DecidableEq, Repr

/-- The IMON samples of a pulse, 8 ns apart and oldest first, and the time from its leading edge to the first of them in 31.25 ps units. -/
structure OnTime where
  samples : List Imon
  first : Nat
  deriving DecidableEq, Repr

/-- A phase failure that Loop and Phase Protection detects (R321): the IMON samples taken since the detector last looked, oldest first,
or what the device itself has counted. -/
inductive PhaseDetect where
  | stage
  | overCurrent (samples : List Imon)
  | imonRange (samples : List Imon)
  | openPhase
  | imonModel
  deriving DecidableEq, Repr

/-- What the detectors of a FAILED phase see (R230): the TMON fault comparator, and the latest IMON samples, oldest first. -/
structure FailSeen where
  tmon : Bool
  samples : List Imon
  deriving DecidableEq, Repr

/-- The place in time of a cue: the period counter of its loop, and the off-time so far of each phase that is in its off-time, in
31.25 ps units (R275). -/
structure CueTiming where
  pos : Nat
  off : List (Fin 64 × OffTime)
  deriving DecidableEq, Repr

/-- A loop detector of R321 whose condition may complete, with what it judges since it last looked, oldest first: telemetry conversions,
or I_OUT in 1/1024 A once an ADC cycle. -/
inductive LoopDetect where
  | uv (codes : List Nat)
  | oc (iOut : List Int)
  | ssShort
  | ssTmo
  | pbTmo
  | ot
  deriving DecidableEq, Repr

/-- A loop and the detectors of it that complete in the same LOOP cycle as the command's own (R350). -/
structure LoopAlso where
  loop : Fin 16
  also : List LoopDetect
  deriving DecidableEq, Repr

/-- The same with the telemetry conversions since the UV detector last looked, oldest first (R321). -/
structure UvSeen where
  loop : Fin 16
  codes : List Nat
  also : List LoopDetect
  deriving DecidableEq, Repr

/-- The same with I_OUT in 1/1024 A in the ADC cycles since the OC detector last looked, oldest first (R321). -/
structure OcSeen where
  loop : Fin 16
  iOut : List Int
  also : List LoopDetect
  deriving DecidableEq, Repr

/-- What loop n measured over the switching period that a boundary ends: its telemetry conversions, and I_OUT in 1/1024 A once an ADC
cycle (R247, R305). -/
structure PeriodSamples where
  raws : List Nat
  iOut : List Int
  deriving DecidableEq, Repr

/-- One update slot of a loop: the frame, slot A or B, the sensed voltages of the error conversions since the loop entered regulation in µV,
newest first, and the other samples (R245, R254, R260). -/
structure UpdateSlot where
  frame : Fin 8
  slotB : Bool
  volts : List Int
  samples : LoopSamples
  deriving DecidableEq, Repr

/-- What falls in the LOOP cycle of an interleave boundary with it (R316): a cue that reaches its checks, by its profile, its source and
its timing; a tick boundary; an update slot. -/
structure Coincident where
  cue : Option (Fin 8 × Bool × CueTiming)
  swap : Bool
  update : Option UpdateSlot
  deriving DecidableEq, Repr

/-- What the release of a crowbar depends on, for one loop (R328): the sensed voltage now in µV, the telemetry conversions since it was
last looked at, oldest first, and the time in CROWBAR in µs. -/
structure ReleaseSense where
  uv : Nat
  codes : List Nat
  us : Nat
  deriving DecidableEq, Repr

/-- The monitor conditions of a rail (R366): under-voltage, over-voltage, rise while stopping, powered while off. -/
inductive RailDetect where
  | uv | ov | rise | powered
  deriving DecidableEq, Repr

/-- What the converters read in one thermal scan frame: the on-die sensors in 0.0625 °C units (none: no conversion), and the
TMON and NTC pins in µV (R478). Channels that are not due do not look at their entry. -/
structure ThermFrame where
  die : Vector (Option Int) 8
  tmon : Vector Nat 64
  ntc : Vector Nat 16
  deriving DecidableEq, Repr


/-- A set of 1 µs means of R402: VBUS and VPACK in 10 mV units, ISRC and IBAT in 0.0625 A units. -/
structure HupMeas where
  vbus : Nat
  vpack : Nat
  isrc : Int
  ibat : Int
  deriving DecidableEq, Repr

/-- The 1 µs means at the pins of the hold-up path, in µV: VBUS_SNS and VPACK_SNS after their dividers, and the voltages across the shunts
of ISRC and IBAT (R402). -/
structure HupPins where
  vbus : Rat
  vpack : Rat
  isrc : Rat
  ibat : Rat
  deriving DecidableEq, Repr

/-- The pins of the hold-up port at a sag, and for how long VBUS has been below SAG_THR, in 8 ns units (R404). -/
structure SagPins where
  pins : HupPins
  low : Nat
  deriving DecidableEq, Repr

/-- What wakes the AO domain by itself (R106): the pack current, as the shunt voltage in µV, or a level change of PACK_DET. -/
inductive WakeCause where
  | current (uv : Rat)
  | packDet
  deriving DecidableEq, Repr

/-- How a removal shows (R420): by PACK_DET high for 2 µs, or by two 1 µs means at VPACK_SNS, 10 µs apart, in µV. -/
inductive Removal where
  | det
  | step (before after : Rat)
  deriving DecidableEq, Repr

/-- One second of the always-on converters: the shunt codes of R439, oldest first, and the latest level at VPACK_SNS in µV (R403). -/
structure GaugeSecond where
  codes : List Int
  vpack : Rat
  deriving DecidableEq, Repr


/-- What the samples of a loop window give (R616, R619): V in 0.25 mV, I in 0.125 A, P in 0.5 W, and the FLAGS conditions that
held at some time in the window. -/
structure LoopWin where
  vAvg : Nat
  vMax : Nat
  vMin : Nat
  iAvg : Nat
  iMax : Nat
  pAvg : Nat
  flags : BitVec 9
  deriving DecidableEq, Repr

/-- What the samples of a phase window give (R617, R619): I in 7.8125 mA, TON in 31.25 ps. -/
structure PhaseWin where
  iAvg : Int
  iMax : Int
  iMin : Int
  tonAvg : Nat
  pulses : Nat
  flags : BitVec 9
  deriving DecidableEq, Repr

/-- A window end: its code, what it measured, and whether the timestamp stepped or a clap was captured in it. -/
structure WindowData where
  code : Fin 19
  loops : Vector LoopWin 16
  phases : Vector PhaseWin 64
  tstep : Bool
  clap : Bool
  deriving DecidableEq, Repr

/-- The samples of a loop window, oldest first: the telemetry conversions completed in it (R243), the latest conversion and I_OUT in
1/1024 A in each of its ADC cycles, and the FLAGS conditions that held in it (R616, R619). -/
structure LoopWindow where
  codes : List Nat
  cycles : List (Nat × Int)
  flags : BitVec 9
  deriving DecidableEq, Repr

/-- The samples of a phase window, oldest first: IMON, and TON of the pulses that ended in it (R617). -/
structure PhaseWindow where
  imon : List Imon
  tons : List Nat
  flags : BitVec 9
  deriving DecidableEq, Repr

/-- The end of a window: its code, the samples of its loops and phases (an entry that lists none takes what the device holds), and whether
the timestamp stepped or a clap was captured in it. -/
structure WindowSamples where
  code : Fin 19
  loops : List (Fin 16 × LoopWindow)
  phases : List (Fin 64 × PhaseWindow)
  tstep : Bool
  clap : Bool
  deriving DecidableEq, Repr

/-- What a daily period measured on a loop (R632): energy in J, V in 0.25 mV, I in 0.125 A, T in 0.0625 °C, time in RUN per mille. -/
structure DailyMeas where
  energy : Nat
  vMax : Nat
  vMin : Nat
  iMax : Nat
  tMax : Int
  run : Nat
  deriving DecidableEq, Repr

/-- The RC registers of R620. -/
inductive PeakReg where
  | lpeak (n : Fin 16) | lipeak (n : Fin 16) | ppeak (k : Fin 64)
  deriving DecidableEq, Repr

/-- What triggers the rushes (R626, R627), with its DETAIL. -/
inductive RushCause where
  | cut (rail : Fin 96) | loopFault (n : Fin 16) | incident (c : Fin 64) | freeze (src : Source)
  deriving DecidableEq, Repr


/-- The commands, in the order of the opcode table. -/
inductive Instr where
  /-- DOMAIN_POR_ASSERT. R82, R83, R25: the POR of dom asserts; a required domain takes the device into reset. -/
  | domainPorAssert (dom : Domain)
  /-- DOMAIN_POR_RELEASE. R82: the POR of dom releases. -/
  | domainPorRelease (dom : Domain)
  /-- DEVICE_RESET_ENTRY. R83, R84: device reset is entered for a missing domain or a pending request. -/
  | deviceResetEntry
  /-- DEVICE_RESET_RELEASE. R27, R61, R90: device reset releases; s0 to s2 are the three samples of the straps in GLB_STRAP order. -/
  | deviceResetRelease (s0 : BitVec 4) (s1 : BitVec 4) (s2 : BitVec 4)
  /-- PLL_LOCK. R34, R90: the PLL reports lock. -/
  | pllLock
  /-- PLL_LOCK_TIMEOUT. R91: 5 ms without lock. -/
  | pllLockTimeout
  /-- CLOCK_FAILURE. R35 to R37: the supervisor declares clock failure. -/
  | clockFailure
  /-- TRIM_LOAD. R664, R93: the trim section is judged. -/
  | trimLoad
  /-- OTP_BOOT_SCAN_COMPLETE. R660: the boot scan ends. -/
  | otpBootScanComplete
  /-- GENERATION_SELECT. R92, R95: the loader selects the generation. -/
  | generationSelect
  /-- CALL_SHEET_LOAD. R669: the call sheet is loaded. -/
  | callSheetLoad
  /-- PATCH_INSTALL. R672, R96: patches are installed and the core released. -/
  | patchInstall
  /-- JTAG_CORE_RELEASE. R96: JTAG releases the core. -/
  | jtagCoreRelease
  /-- FIRST_THERMAL_SCAN_COMPLETE. R90: the first thermal scan completes. -/
  | firstThermalScanComplete
  /-- AUTO_START. R99, R100: the auto-start conditions are judged. -/
  | autoStart
  /-- CORE_INIT_COMPLETE. R90: the core is initialised; challenges are what it queues for each watchdog. -/
  | coreInitComplete (challenges : Vector (List (BitVec 16)) 9)
  /-- GLB_DEVRST_WRITE. R89: a write of GLB_DEVRST. -/
  | glbDevrstWrite (src : Source) (data : Word)
  /-- DEVICE_RESET_DEFERRED. R85: the pulse that held a requested device reset back has ended. -/
  | deviceResetDeferred
  /-- JTAG_DEVICE_RESET. R84: the JTAG device reset instruction. -/
  | jtagDeviceReset
  /-- TAP_RESET. R84: TRSTn or five TMS cycles. -/
  | tapReset
  /-- RSTCAUSE_CLEAR. R88: a W1C write of GLB_RSTCAUSE. -/
  | rstcauseClear (src : Source) (be : BitVec 4) (data : Word)
  /-- REGISTER_WRITE. R130: a register write; addr is the byte address, its low two bits taken from the byte enables. -/
  | registerWrite (src : Source) (addr : BitVec 24) (be : BitVec 4) (data : Word)
  /-- HCX_OPEN. R133: a write of HCX_OPEN. -/
  | hcxOpen (src : Source) (data : Word)
  /-- HCX_CLOSE. R135: a write of HCX_CLOSE. -/
  | hcxClose (src : Source) (data : Word)
  /-- HCX_EVICT. R135: a write of HCX_EVICT. -/
  | hcxEvict (src : Source) (data : Word)
  /-- HCX_LEASE_WRITE. R137: a write of HCX_CTXn_LEASE. -/
  | hcxLeaseWrite (src : Source) (n : Fin 8) (be : BitVec 4) (data : Word)
  /-- LEASE_EXPIRY. R138: the lease of context n runs out. -/
  | leaseExpiry (n : Fin 8)
  /-- CONTEXT_QUARANTINE. R146: the ring pauses of the ending context are complete. -/
  | contextQuarantine (n : Fin 8)
  /-- CONTEXT_FREE. R146: 10 ms in QUARANTINE have passed. -/
  | contextFree (n : Fin 8)
  /-- CLAIM_REQUEST. R141: a write of PAGE_OWNER with CLAIMED at 1. -/
  | claimRequest (src : Source) (page : Fin 256) (data : Word)
  /-- CLAIM_RELEASE. R145: a write of PAGE_OWNER with RELEASE at 1. -/
  | claimRelease (src : Source) (page : Fin 256) (data : Word)
  /-- OWNER_POLICY_WRITE. R120: a write of PAGE_OWNER with CLAIMED and RELEASE at 0. -/
  | ownerPolicyWrite (src : Source) (page : Fin 256) (be : BitVec 4) (data : Word)
  /-- CLAIM_ARBITRATION. R143: one round of the claim arbiter. -/
  | claimArbitration
  /-- PAGE_LOCK_WRITE. R124: a write of PAGE_LOCK.ADMIN. -/
  | pageLockWrite (src : Source) (page : Fin 256) (lock : Bool)
  /-- PAGE_FREEZE_WRITE. R117: a write of PAGE_CTL.FREEZE that keeps the other fields. -/
  | pageFreezeWrite (src : Source) (page : Fin 256) (freeze : Bool)
  /-- BLOCK_SOFT_RESET. R84: a write of 1 to PAGE_CTL.SRST that keeps the other fields. -/
  | blockSoftReset (src : Source) (page : Fin 256)
  /-- PCIE_MEM_REQUEST. R164: an inbound memory request; offset is the DW-aligned byte offset in the BAR. -/
  | pcieMemRequest (bar : Bar) (write : Bool) (offset : Nat) (dws : List Dw)
  /-- PCIE_CONFIG_REQUEST. R161: a configuration request for DW reg, a read when write is none. -/
  | pcieConfigRequest (reg : Fin 1024) (write : Option Dw)
  /-- PCIE_FUNDAMENTAL_RESET. R86: PERSTn goes low (true) or high again (false). -/
  | pcieFundamentalReset (low : Bool)
  /-- PCIE_HOT_RESET. R48: hot reset, link down or FLR. -/
  | pcieHotReset
  /-- PCIE_LINK_UP. R561: the endpoint may issue requests again. -/
  | pcieLinkUp
  /-- PCIE_D3HOT_ENTER. R167: the function enters D3hot. -/
  | pcieD3hotEnter
  /-- MSIX_ENABLE. R165: the host writes MSI-X Enable and Function Mask. -/
  | msixEnable (en : Bool) (funcMask : Bool)
  /-- MSIX_UNMASK. R166: the mask of vector v, or the Function Mask, is cleared. -/
  | msixUnmask (v : Option (Fin 16))
  /-- WRITE_FRAME. R170: a write frame as it arrives. -/
  | writeFrame (p : HostPort) (frame : FrameIn)
  /-- READ_FRAME. R172: a read frame as it arrives. -/
  | readFrame (p : HostPort) (frame : FrameIn)
  /-- READ_RESPONSE_READY. R178: the pending response becomes ready. -/
  | readResponseReady (p : HostPort)
  /-- I3C_PRIVATE_READ. R177: a private read of the latest response. -/
  | i3cPrivateRead (x : PrivateRead)
  /-- SPI_FRAME_ABORT. R194: SPI_CSn rises before a frame is complete. -/
  | spiFrameAbort (frame : List Byte)
  /-- SPI_PORT_RESET. R195: four 0xFF bytes ended by SPI_CSn. -/
  | spiPortReset
  /-- I3C_TARGET_RESET. R183: a Target Reset Pattern. -/
  | i3cTargetReset (p : BusPort)
  /-- SMBUS_TIMEOUT_RESET. R185: SCL held low for 25 ms to 35 ms. -/
  | smbusTimeoutReset (p : BusPort)
  /-- ENTDAA. R174: a dynamic address is assigned. -/
  | entdaa (p : BusPort) (addr : BitVec 7)
  /-- SETDASA. R184: a dynamic address from the static address. -/
  | setdasa (p : BusPort) (static : BitVec 7) (addr : BitVec 7)
  /-- SETNEWDA. R182: a new dynamic address. -/
  | setnewda (p : BusPort) (addr : BitVec 7)
  /-- RSTDAA. R182: the dynamic address is cleared. -/
  | rstdaa (p : BusPort)
  /-- BROADCAST_CCC_MODE_SWITCH. R184: the first broadcast CCC to 0x7E. -/
  | broadcastCccModeSwitch (p : BusPort)
  /-- ENEC. R180: events enabled. -/
  | enec (p : BusPort) (intr : Bool) (hotJoin : Bool)
  /-- DISEC. R180: events disabled. -/
  | disec (p : BusPort) (intr : Bool) (hotJoin : Bool)
  /-- SETMWL. R176: maximum write length. -/
  | setmwl (p : BusPort) (len : BitVec 16)
  /-- SETMRL. R176: maximum read length. -/
  | setmrl (p : BusPort) (len : BitVec 16)
  /-- GETMWL. R176. -/
  | getmwl (p : BusPort)
  /-- GETMRL. R176. -/
  | getmrl (p : BusPort)
  /-- GETPID. R176. -/
  | getpid (p : BusPort)
  /-- GETBCR. R176. -/
  | getbcr (p : BusPort)
  /-- GETDCR. R176. -/
  | getdcr (p : BusPort)
  /-- GETSTATUS. R174. -/
  | getstatus (p : BusPort)
  /-- GETMXDS. R176. -/
  | getmxds (p : BusPort)
  /-- RSTACT. R183: a reset action is set. -/
  | rstact (p : BusPort) (action : Byte)
  /-- ENTHDR0. R177: HDR-DDR is entered. -/
  | enthdr0 (p : BusPort)
  /-- IBI_REQUEST. R180: the bus is available to a waiting in-band interrupt, which the controller accepts or refuses. -/
  | ibiRequest (x : IbiTry)
  /-- HOT_JOIN. R181: the first bus-idle condition. -/
  | hotJoin (p : BusPort)
  /-- FRAME_WRITE. R186: SMBus command 0xE0 with the bytes of one frame. -/
  | frameWrite (x : SmbXfer) (frame : List Byte)
  /-- FRAME_READ. R186: SMBus command 0xE1. -/
  | frameRead (x : SmbXfer)
  /-- PMBUS_UNSUPPORTED. R189: an unsupported command code, or OPERATION read (no data) or written with a value that no row of its own names. -/
  | pmbusUnsupported (x : SmbXfer) (y : ByteCommand)
  /-- PAGE. R188. -/
  | pmbusPage (x : SmbXfer) (write : Option Byte)
  /-- OPERATION_IMMEDIATE_OFF. R383: OPERATION 0x00. -/
  | operationImmediateOff (x : SmbXfer)
  /-- OPERATION_SOFT_OFF. R383: OPERATION 0x40. -/
  | operationSoftOff (x : SmbXfer)
  /-- OPERATION_ON. R383: OPERATION 0x80. -/
  | operationOn (x : SmbXfer)
  /-- OPERATION_MARGIN_LOW. R383: OPERATION 0x98. -/
  | operationMarginLow (x : SmbXfer)
  /-- OPERATION_MARGIN_HIGH. R383: OPERATION 0xA8. -/
  | operationMarginHigh (x : SmbXfer)
  /-- CLEAR_FAULTS. R348. -/
  | clearFaults (x : SmbXfer)
  /-- VOUT_MODE. R189. -/
  | voutMode (x : SmbXfer)
  /-- VOUT_COMMAND. R190. -/
  | voutCommand (x : SmbXfer) (write : Option (BitVec 16))
  /-- VOUT_MAX. R189. -/
  | voutMax (x : SmbXfer)
  /-- VOUT_MARGIN_HIGH. R189. -/
  | voutMarginHigh (x : SmbXfer) (write : Option (BitVec 16))
  /-- VOUT_MARGIN_LOW. R189. -/
  | voutMarginLow (x : SmbXfer) (write : Option (BitVec 16))
  /-- VOUT_TRANSITION_RATE. R189. -/
  | voutTransitionRate (x : SmbXfer) (write : Option (BitVec 16))
  /-- VOUT_DROOP. R189. -/
  | voutDroop (x : SmbXfer) (write : Option (BitVec 16))
  /-- FREQUENCY_SWITCH. R271. -/
  | frequencySwitch (x : SmbXfer) (write : Option (BitVec 16))
  /-- VOUT_OV_FAULT_LIMIT. R354. -/
  | voutOvFaultLimit (x : SmbXfer) (write : Option (BitVec 16))
  /-- VOUT_UV_FAULT_LIMIT. R354. -/
  | voutUvFaultLimit (x : SmbXfer) (write : Option (BitVec 16))
  /-- IOUT_OC_FAULT_LIMIT. R354. -/
  | ioutOcFaultLimit (x : SmbXfer) (write : Option (BitVec 16))
  /-- OT_FAULT_LIMIT. R354. -/
  | otFaultLimit (x : SmbXfer) (write : Option (BitVec 16))
  /-- STATUS_BYTE. R354. -/
  | statusByte (x : SmbXfer)
  /-- STATUS_WORD. R354. -/
  | statusWord (x : SmbXfer)
  /-- STATUS_VOUT. R354. -/
  | statusVout (x : SmbXfer)
  /-- STATUS_IOUT. R354. -/
  | statusIout (x : SmbXfer)
  /-- STATUS_TEMPERATURE. R354. -/
  | statusTemperature (x : SmbXfer)
  /-- STATUS_CML. R191. -/
  | statusCml (x : SmbXfer)
  /-- READ_VOUT. R189. -/
  | readVout (x : SmbXfer)
  /-- READ_IOUT. R190. -/
  | readIout (x : SmbXfer)
  /-- READ_TEMPERATURE_1. R189. -/
  | readTemperature1 (x : SmbXfer)
  /-- READ_POUT. R189. -/
  | readPout (x : SmbXfer)
  /-- PMBUS_REVISION. R189. -/
  | pmbusRevision (x : SmbXfer)
  /-- MFR_ID. R189. -/
  | mfrId (x : SmbXfer)
  /-- MFR_MODEL. R189. -/
  | mfrModel (x : SmbXfer)
  /-- INTERLEAVE_BOUNDARY. R227, R316: the period counter of loop n wraps; per is what the period measured, and same what else falls in the
  LOOP cycle. -/
  | interleaveBoundary (n : Fin 16) (per : PeriodSamples) (same : Coincident)
  /-- SHED_DELAY_EXPIRY. R307: the shed counter reaches SHED_DLY. -/
  | shedDelayExpiry (n : Fin 16)
  /-- PULSE_LEADING_EDGE. R201, R213: the scheduled leading edge of phase k, after the off-time off. -/
  | pulseLeadingEdge (k : Fin 64) (off : OffTime)
  /-- PEAK_COMPARATOR_TRIP. R210, R336: the comparator trips ton after the leading edge (31.25 ps units) with V(IMONk) − V(IREF) at diff µV; on
  holds the samples of the pulse. -/
  | peakComparatorTrip (k : Fin 64) (ton : Nat) (diff : Int) (on : OnTime)
  /-- DMAX_LIMIT. R202: the DMAX time elapses. The pulse's samples are codes of IMON, each with its code of IREF, the first taken at `first`. -/
  | dmaxLimit (k : Fin 64) (first : Nat) (codes : List Nat) (irefs : List Nat)
  /-- DIODE_EMULATION_ZERO. R205: an off-time sample at or below 0 A: the codes of IMON and IREF. -/
  | diodeEmulationZero (k : Fin 64) (code : Nat) (iref : Nat)
  /-- DELAY_LINE_CALIBRATION. R200: a recalibration ends. -/
  | delayLineCalibration (k : Fin 64) (ok : Bool)
  /-- PHASE_MAP_WRITE. R225: a write of PHSk_MAP. -/
  | phaseMapWrite (src : Source) (k : Fin 64) (be : BitVec 4) (data : Word)
  /-- LEND_REQUEST. R727: the lend request reaches phase k. -/
  | lendRequest (k : Fin 64)
  /-- PHASE_DISABLE_WRITE. R230: a write of PHSk_CTL.DISABLE. -/
  | phaseDisableWrite (src : Source) (k : Fin 64) (disable : Bool)
  /-- PHASE_CLR_FAIL. R230: a write of PHSk_CTL.CLR_FAIL that keeps DISABLE, while the detectors of the phase see x. -/
  | phaseClrFail (src : Source) (k : Fin 64) (x : FailSeen)
  /-- JOIN_COMPLETE. R208: JOIN_CYC periods are complete. -/
  | joinComplete (k : Fin 64)
  /-- DRAIN_DECAY_COMPLETE. R230: two consecutive IMON samples and their codes of IREF. -/
  | drainDecayComplete (k : Fin 64) (code0 : Nat) (code1 : Nat) (irefs : Nat × Nat)
  /-- DRAIN_TIMEOUT. R230: DRAIN_TMO periods without decay. -/
  | drainTimeout (k : Fin 64)
  /-- STAGE_FAULT. R222, R235: TMONk at 1.800 V for 100 ns. -/
  | stageFault (k : Fin 64)
  /-- PHASE_FAILURE. R342, R343: the failure detections of phase k in one LOOP cycle. -/
  | phaseFailure (k : Fin 64) (dets : List PhaseDetect)
  /-- LOOP_UPDATE. R254: an update slot of loop n; its fields are those of UpdateSlot. -/
  | loopUpdate (n : Fin 16) (frame : Fin 8) (slotB : Bool) (volts : List Int) (samples : LoopSamples)
  /-- BALANCE_UPDATE. R263: the balance slot of phase k. -/
  | balanceUpdate (k : Fin 64) (frame : Fin 8)
  /-- BANK_COMMIT. R265: a write of 1 to LOOPn_BANK.COMMIT. -/
  | bankCommit (src : Source) (n : Fin 16)
  /-- BANK_SWAP. R266: a tick boundary of loop n. -/
  | bankSwap (n : Fin 16)
  /-- SETPOINT_WRITE. R252: a write of LOOPn_CFG (0), LOOPn_VSET (1) or LOOPn_VMARGIN (2). -/
  | setpointWrite (src : Source) (n : Fin 16) (reg : Fin 3) (be : BitVec 4) (data : Word)
  /-- CUE_PIN. R282: a qualified edge of CUE_STB at the place in time t. -/
  | cuePin (pins : BitVec 7) (t : CueTiming)
  /-- CUE_SW. R283: a write of CUE_SW at the place in time t. -/
  | cueSw (src : Source) (data : Word) (t : CueTiming)
  /-- CUE_HOLD_EXPIRY. R277: the HOLD of loop n elapses. -/
  | cueHoldExpiry (n : Fin 16)
  /-- LOOP_ENABLE. R292: the enable of the sequencer reaches loop n. -/
  | loopEnable (n : Fin 16)
  /-- LOOP_SOFT_STOP. R293: a soft stop. -/
  | loopSoftStop (n : Fin 16)
  /-- LOOP_HARD_STOP. R293: a hard stop. -/
  | loopHardStop (n : Fin 16)
  /-- PREBIAS_COMPLETE. R295: the telemetry conversions of PREBIAS since it was last looked at, oldest first. -/
  | prebiasComplete (n : Fin 16) (codes : List Nat)
  /-- PREBIAS_TIMEOUT. R292: PB_TMO. -/
  | prebiasTimeout (x : LoopAlso)
  /-- SOFT_START_COMPLETE. R292: 8 updates within PG_WIN. -/
  | softStartComplete (n : Fin 16)
  /-- SOFT_START_TIMEOUT. R292: SS_TMO. -/
  | softStartTimeout (x : LoopAlso)
  /-- RAMPDOWN_COMPLETE. R292: V_SS at 0 V. -/
  | rampdownComplete (n : Fin 16)
  /-- LOOP_DRAIN_COMPLETE. R292: no owned phase drains. -/
  | loopDrainComplete (n : Fin 16)
  /-- LOOP_LATCHED_RESTART. R301: the FAB cycle after OFF. -/
  | loopLatchedRestart (n : Fin 16)
  /-- LOOP_ENABLE_WRITE. R287: a write of PAGE_CTL.ENABLE of the loop page that keeps FREEZE. -/
  | loopEnableWrite (src : Source) (n : Fin 16) (enable : Bool)
  /-- OV_CROWBAR. R324: the comparator of a loop outside OFF and FAULTED. -/
  | ovCrowbar (x : LoopVolts)
  /-- OV_IDLE. R332: the same in OFF or FAULTED. -/
  | ovIdle (x : LoopVolts)
  /-- CROWBAR_RELEASE. R330: what loop n reads, and the other loops that its release concerns. -/
  | crowbarRelease (n : Fin 16) (own : ReleaseSense) (others : List (Fin 16 × ReleaseSense))
  /-- UV_FAULT. R321. -/
  | uvFault (x : UvSeen)
  /-- LOOP_OC_FAULT. R321. -/
  | loopOcFault (x : OcSeen)
  /-- SS_SHORT_FAULT. R333. -/
  | ssShortFault (x : LoopAlso)
  /-- LOOP_OT_FAULT. R321. -/
  | loopOtFault (x : LoopAlso)
  /-- LOOP_WARNING. R323: the warning thresholds judged on one conversion and its I_OUT. -/
  | loopWarning (n : Fin 16) (x : LoopSamples)
  /-- LOOP_FLT_CLEAR. R347: a W1C write of LOOPn_FLT, and what it finds. -/
  | loopFltClear (src : Source) (n : Fin 16) (be : BitVec 4) (data : Word) (x : FltSense)
  /-- SCENE_REQUEST. R371: a write of SEQ_REQ. -/
  | sceneRequest (src : Source) (data : Word)
  /-- LATCHED_REQUEST_START. R371: the FAB cycle after the running wrap or single-rail request. -/
  | latchedRequestStart
  /-- ENTRY_START. R364: ON_DLY has elapsed; vmon is the VMON code of an external rail. -/
  | entryStart (i : Fin 128) (vmon : Nat)
  /-- RAIL_POWER_GOOD. R365: the VMON codes of an external rail 64 ns apart, oldest first. -/
  | railPowerGood (i : Fin 96) (readings : List Nat)
  /-- WRAP_OFF_DELAY_EXPIRY. R372: OFF_DLY has elapsed; reading is the rail's VMON code or telemetry conversion. -/
  | wrapOffDelayExpiry (i : Fin 128) (reading : Nat)
  /-- WRAP_STEP_ADVANCE. R372: the wrap looks for its next step. -/
  | wrapStepAdvance
  /-- RAIL_DISCHARGED. R367: VMON codes, or telemetry conversions of a loop rail, 64 ns apart, oldest first. -/
  | railDischarged (i : Fin 96) (readings : List Nat)
  /-- ENLATCH_RESTART. R388: the FAB cycle after OFF or FAULTED. -/
  | enlatchRestart (i : Fin 128)
  /-- DISCHARGE_TIMEOUT. R385: DIS_TMO has elapsed. -/
  | dischargeTimeout (i : Fin 96)
  /-- PG_TIMEOUT. R366: PG_TMO has elapsed. -/
  | pgTimeout (i : Fin 96)
  /-- RAIL_MONITOR_FAULT. R366: a monitor condition; readings are VMON codes, or telemetry conversions of a loop rail, 64 ns apart, oldest first. -/
  | railMonitorFault (i : Fin 96) (det : RailDetect) (readings : List Nat)
  /-- RETRY_DELAY_EXPIRY. R378: RETRY_DLY has elapsed. -/
  | retryDelayExpiry
  /-- RAIL_ON. R383: SEQ_RAILREQ OP 1. -/
  | railOn (src : Source) (i : Fin 128)
  /-- RAIL_SOFT_OFF. R383: SEQ_RAILREQ OP 2. -/
  | railSoftOff (src : Source) (i : Fin 128)
  /-- RAIL_IMMEDIATE_OFF. R383: SEQ_RAILREQ OP 3. -/
  | railImmediateOff (src : Source) (i : Fin 128)
  /-- RAIL_CLEAR. R383: SEQ_RAILREQ OP 4. -/
  | railClear (src : Source) (i : Fin 128)
  /-- HELD_RAIL_REQUEST_START. R383: the sequencer is in IDLE. -/
  | heldRailRequestStart
  /-- SEQ_FORCE. R387: a write of SEQ_FORCE. -/
  | seqForce (src : Source) (data : Word)
  /-- TAKE_RESUME. R389: ON_BATT has ended. -/
  | takeResume
  /-- RESET_STRETCH_ELAPSED. R393: the stretch of RSTOk has elapsed. -/
  | resetStretchElapsed (k : Fin 32)
  /-- SRC_CLASS_ADOPT. R405: four consecutive SRC_ID conversions, in mV. -/
  | srcClassAdopt (mv : Vector Nat 4)
  /-- INPUT_LIMIT_THROTTLE. R406: the 10 µs step of the input limit. -/
  | inputLimitThrottle (x : HupPins)
  /-- SOURCE_OVERLOAD_TIMEOUT. R408. -/
  | sourceOverloadTimeout (x : HupPins)
  /-- SHARE_END. R411: converter current below 0.5 A for 1 ms. -/
  | shareEnd (x : HupPins)
  /-- POWER_PATH_DETECT_END. R411: 200 ms after call-sheet load; low: PACK_DET has been low for 200 ms. -/
  | powerPathDetectEnd (low : Bool) (x : HupPins)
  /-- PACK_QUALIFIED. R410, R411: PACK_DET has been low for 200 ms and the other conditions are judged on m. -/
  | packQualified (x : HupPins)
  /-- POWER_PATH_INHIBIT. R412. -/
  | powerPathInhibit (x : HupPins)
  /-- CONVERTER_FAULT. R412 cause 4: for 100 µs. -/
  | converterFault (x : HupPins)
  /-- HUP_ENABLE_WRITE. R413: a write of PAGE_CTL of page 0x040 that keeps FREEZE. -/
  | hupEnableWrite (src : Source) (enable : Bool)
  /-- HUP_ENABLE_DEFERRED. R413. -/
  | hupEnableDeferred
  /-- SAG_DETECT. R404, R415: iL0 is the mean inductor current of a channel in 0.0625 A units. -/
  | sagDetect (x : SagPins) (iL0 : Int)
  /-- SAG_NO_HANDOVER. R414. -/
  | sagNoHandover (x : SagPins)
  /-- START_PULSE_END. R415. -/
  | startPulseEnd
  /-- HANDOVER_COMPLETE. R411: ISRC at or below I_OFF for 1 µs. -/
  | handoverComplete (x : HupPins)
  /-- HANDOVER_TIMEOUT. R411: HO_TMO. -/
  | handoverTimeout
  /-- SOURCE_QUALIFIED. R418. -/
  | sourceQualified (x : HupPins)
  /-- RETURN_COMPLETE. R411: 100 µs after entry to RETURN. -/
  | returnComplete (x : HupPins)
  /-- PACK_EMPTY. R411: for 1 ms. -/
  | packEmpty (x : HupPins)
  /-- PACK_REMOVAL. R420: by the voltage step, or by PACK_DET high for 2 µs. -/
  | packRemoval (how : Removal)
  /-- CHARGER_COMMAND_WRITE. R429: a write of HUP_CHGCMD. -/
  | chargerCommandWrite (src : Source) (be : BitVec 4) (data : Word)
  /-- CHARGER_WATCHDOG_EXPIRY. R429: PERIOD without a write. -/
  | chargerWatchdogExpiry
  /-- CHARGER_QUAL. R430. -/
  | chargerQual (x : HupPins)
  /-- PRECHARGE_DONE. R430: 1 s at or above V_PRE. -/
  | prechargeDone (x : HupPins)
  /-- PRECHARGE_TIMEOUT. R430: PRE_TMAX. -/
  | prechargeTimeout
  /-- CV_REACHED. R430. -/
  | cvReached (x : HupPins)
  /-- CHARGE_TERMINATED. R430: for TERM_T. -/
  | chargeTerminated (x : HupPins)
  /-- RECHARGE. R430. -/
  | recharge (x : HupPins)
  /-- CHARGE_TIMEOUT. R430: CHG_TMAX. -/
  | chargeTimeout
  /-- CHARGER_OV_FAULT. R430. -/
  | chargerOvFault (x : HupPins)
  /-- CHARGER_SUSPEND. R430. -/
  | chargerSuspend (x : HupPins)
  /-- CHARGER_DRAIN_COMPLETE. R430: late: 2 ms after entry. -/
  | chargerDrainComplete (x : HupPins) (late : Bool)
  /-- CHARGER_RESUME. R430, R431. -/
  | chargerResume (x : HupPins)
  /-- CHARGE_BAND_CHANGE. R427. -/
  | chargeBandChange
  /-- AO_WAKE. R106: by the pack current (true) or by a level change of PACK_DET. -/
  | aoWake (how : WakeCause)
  /-- HIBERNATE_ENTER. R105, R445. -/
  | hibernateEnter
  /-- OCV_SAMPLE. R446: the pack-voltage conversion in 10 mV units. -/
  | ocvSample (pin : Rat)
  /-- GAUGE_ANCHOR_WRITE. R443: a write of 1 to GAU_COMMIT.ANCHOR. -/
  | gaugeAnchorWrite (src : Source)
  /-- GAUGE_ESTIMATE_UPDATE. R439 to R455: one second of the AO counters, and the core's update while it runs. -/
  | gaugeEstimateUpdate (sec : GaugeSecond)
  /-- GAUGE_STARVED. R456. -/
  | gaugeStarved
  /-- GAUGE_COMMIT. R464, R467: a write of 1 to GAU_COMMIT.COMMIT. -/
  | gaugeCommit (src : Source)
  /-- GAUGE_COMMIT_COMPLETE. R464, R466: the slot write was inhibited by VAO below its falling threshold. -/
  | gaugeCommitComplete (inhibited : Bool)
  /-- GAUGE_RESTORE. R473: a write of GAU_RESTORE with OP 1; packDet: PACK_DET is high. -/
  | gaugeRestore (src : Source) (key : BitVec 16) (packDet : Bool)
  /-- GAUGE_UNLOAD. R474: a write of GAU_RESTORE with OP 2. -/
  | gaugeUnload (src : Source) (key : BitVec 16)
  /-- GAUGE_NOPACK. R470: PACK_DET high for 200 ms. -/
  | gaugeNopack
  /-- GAUGE_PACK_RETURN. R470: PACK_DET low for 200 ms. -/
  | gaugePackReturn
  /-- GAU_ACC_READ. R477: a read of GAU_ACC_LO. -/
  | gauAccRead (src : Source)
  /-- THERMAL_SCAN_FRAME. R482. -/
  | thermalScanFrame (x : ThermFrame)
  /-- THM_CLR. R488: a write of THM_CLR. -/
  | thmClr (src : Source) (data : Word)
  /-- FAULT_LATCH. R502 to R509: one FAB cycle in which the collector judges its lines. -/
  | faultLatch
  /-- FAULT_LINE_RELEASE. R510: the error line of class c has fallen. -/
  | faultLineRelease (c : Fin 64)
  /-- FAULT_CLEAR. R512: a W1C write of FLT_STAT_LO or FLT_STAT_HI. -/
  | faultClear (src : Source) (hi : Bool) (be : BitVec 4) (data : Word)
  /-- FAULT_INJECT. R499: a write of FLT_INJECT. -/
  | faultInject (src : Source) (data : Word)
  /-- EFI_INPUT. R517: the filtered level of pin EFIm. -/
  | efiInput (m : Fin 8) (x : EfiLevel)
  /-- WDT_ARM. R537: a write of ARM; dt: ticks since the last command of the watchdog. -/
  | wdtArm (k : Fin 9) (src : Source) (dt : Nat)
  /-- WDT_DISARM. R538. -/
  | wdtDisarm (k : Fin 9) (src : Source) (dt : Nat) (key : BitVec 16)
  /-- WDT_CHECKIN. R522, R526. -/
  | wdtCheckin (k : Fin 9) (src : Source) (dt : Nat) (task : BitVec 16)
  /-- WDT_ANSWER. R530. -/
  | wdtAnswer (k : Fin 9) (src : Source) (dt : Nat) (token : BitVec 16)
  /-- WDT_WINDOW_LATE. R525. -/
  | wdtWindowLate (k : Fin 9) (dt : Nat)
  /-- WDT_HOLD_ELAPSED. R531. -/
  | wdtHoldElapsed (x : WdtTicks)
  /-- WDT_CHALLENGE_QUEUE. R544. -/
  | wdtChallengeQueue (k : Fin 9) (src : Source) (chal : BitVec 16)
  /-- EVENT_ARRIVAL. R546. -/
  | eventArrival (e : Fin 256) (payload : Word)
  /-- EVENT_SELECT. R548: the selection of a FAB cycle, where the record write meets no translation fault. -/
  | eventSelect
  /-- EVENT_RECORD_FAULT. R560: as EVENT_SELECT, where the record write meets a translation fault. -/
  | eventRecordFault
  /-- EVENT_EOI. R551. -/
  | eventEoi (t : Fin 9) (src : Source) (e : BitVec 8)
  /-- EVENT_RING_RD_WRITE. R556. -/
  | eventRingRdWrite (t : Fin 9) (src : Source) (rd : BitVec 16)
  /-- EVENT_TARGET_ENABLE. R562: a write of EVC_TCTLt with ENABLE 1 that keeps the other fields. -/
  | eventTargetEnable (t : Fin 9) (src : Source)
  /-- EVENT_TARGET_DISABLE. R563: a write of EVC_TCTLt with ENABLE 0 that keeps the other fields. -/
  | eventTargetDisable (t : Fin 9) (src : Source)
  /-- EVC_RAISE. R567. -/
  | evcRaise (src : Source) (n : Fin 2) (data : Word)
  /-- RING_ENABLE. R569, R591: a write of PAGE_CTL of a ring page that keeps FREEZE. -/
  | ringEnable (src : Source) (r : Fin 32) (enable : Bool)
  /-- RING_DOORBELL. R576. -/
  | ringDoorbell (src : Source) (r : Fin 32)
  /-- RING_PAUSE. R590. -/
  | ringPause (src : Source) (r : Fin 32)
  /-- RING_RESUME. R590. -/
  | ringResume (src : Source) (r : Fin 32)
  /-- DESCRIPTOR_FETCH. R577, R591: a descriptor read returns; host: its words when the descriptors lie in host memory. -/
  | descriptorFetch (r : Fin 32) (host : Vector Word 8)
  /-- BURST_START. R585. -/
  | burstStart
  /-- BURST_COMPLETE. R580, R596: data: the bytes that host reads returned; moved: the bytes done when the link stopped the burst. -/
  | burstComplete (r : Fin 32) (moved : Nat) (data : List Byte)
  /-- WINDOW_ENTRY_WRITE. R601: a write of word 1 (one) or word 0 of an aperture entry. -/
  | windowEntryWrite (src : Source) (e : Fin 1024) (one : Bool) (data : Word)
  /-- XLT_SYNC. R604. -/
  | xltSync (src : Source)
  /-- XLT_SYNC_COMPLETE. R604. -/
  | xltSyncComplete
  /-- TIMESTAMP_READ. R613: a read of SYN_TS_LO. -/
  | timestampRead (src : Source)
  /-- TELEMETRY_WINDOW_END. R615. -/
  | telemetryWindowEnd (x : WindowSamples)
  /-- STREAM_CHANNEL_CONFIG. R624: a write of TLM_SCHc_CFG, _MASK_LO or _MASK_HI. -/
  | streamChannelConfig (src : Source) (c : Fin 8) (word : Fin 3) (be : BitVec 4) (data : Word)
  /-- PEAK_REGISTER_READ. R620. -/
  | peakRegisterRead (src : Source) (reg : PeakReg)
  /-- RUSHES_TRIGGER. R626. -/
  | rushesTrigger (cause : RushCause)
  /-- RUSHES_FROZEN. R627. -/
  | rushesFrozen
  /-- RUSHES_REARM. R628. -/
  | rushesRearm (src : Source)
  /-- DAILY_PERIOD_END. R629, R631. -/
  | dailyPeriodEnd (meas : Vector DailyMeas 16) (battSecs : Nat)
  /-- DAILY_RECORD_WRITE. R630. -/
  | dailyRecordWrite
  /-- PMC_COUNTER_WRAP. R636: counter c counts on from 0xFFFF_FFFF_FFFF. -/
  | pmcCounterWrap (c : Fin 64)
  /-- PMC_COUNTER_READ. R635: a read of PMC_CTRc_LO. -/
  | pmcCounterRead (src : Source) (c : Fin 64)
  /-- PMC_COUNTER_WRITE. R635. -/
  | pmcCounterWrite (src : Source) (c : Fin 64) (hi : Bool) (be : BitVec 4) (data : Word)
  /-- CLAP_EDGE. R642: the rising edge that starts a clap frame. -/
  | clapEdge (fine : Fin 16)
  /-- CLAP_COMMIT. R642. -/
  | clapCommit (num : BitVec 16)
  /-- CLAP_CODE_ERROR. R641. -/
  | clapCodeError
  /-- CLAP_DRIVE. R644: a write of SYN_CTL.CLAP. -/
  | clapDrive (src : Source)
  /-- CLAP_AUTO. R644. -/
  | clapAuto
  /-- SLATE_SNAP. R648: a write of SYN_CTL.SNAP. -/
  | slateSnap (src : Source)
  /-- TIME_FRAME. R650, R651: T of a valid frame and TS_cap. -/
  | timeFrame (t : BitVec 64) (cap : BitVec 64)
  /-- TIME_FRAME_ERROR. R650. -/
  | timeFrameError
  /-- TIME_HOLDOVER. R651. -/
  | timeHoldover
  /-- TIME_FRAME_SEND. R654. -/
  | timeFrameSend
  /-- OTP_RESCAN. R660: a write of OTP_RESCAN. -/
  | otpRescan (src : Source) (data : Word)
  /-- OTP_TEMP_SCAN. R660: DIE_MAX has moved by more than 30 °C. -/
  | otpTempScan
  /-- OTP_SCAN_COMPLETE. R660, R661: the running scan ends. -/
  | otpScanComplete
  /-- PROGRAM. R677: a write of OTP_PCTL with OP 1. -/
  | otpProgram (src : Source) (key : BitVec 16)
  /-- TOPUP. R677: a write of OTP_PCTL with OP 2. -/
  | otpTopup (src : Source) (key : BitVec 16)
  /-- SEAL. R677: a write of OTP_PCTL with OP 3. -/
  | otpSeal (src : Source) (key : BitVec 16) (noChk : Bool)
  /-- BLOW. R677: a write of OTP_PCTL with OP 4. -/
  | otpBlow (src : Source) (key : BitVec 16)
  /-- VERIFY. R677: a write of OTP_PCTL with OP 5. -/
  | otpVerify (src : Source) (key : BitVec 16)
  /-- OTP_STOP. R682: a write of OTP_PCTL with OP 0. -/
  | otpStop (src : Source) (key : BitVec 16)
  /-- OTP_SUPPLY_READY. R681: the supply start ends; ok: the supply is in its range. -/
  | otpSupplyReady (ok : Bool)
  /-- OTP_PULSE_COMPLETE. R679: a pulse and its recovery end; m1 is what the copy's bit reads at M1, ok that the supply stayed in its range. -/
  | otpPulseComplete (m1 : Bool) (ok : Bool)
  /-- OTP_READ. R684: a write of OTP_RADDR. -/
  | otpRead (src : Source) (data : Word)
  /-- OTP_READ_COMPLETE. R684. -/
  | otpReadComplete
  /-- OTP_RELOAD. R674: a write of OTP_RELOAD. -/
  | otpReload (src : Source) (data : Word)
  /-- OTP_RELOAD_DEFERRED. R675: the activity that a reload waited for has ended. -/
  | otpReloadDeferred
  /-- HKC_RESTART. R687: a write of HKC_CTL. -/
  | hkcRestart (src : Source) (data : Word)
  /-- CORE_RESTART_COMPLETE. R673: the restart ends; challenges are what the core queues for each watchdog. -/
  | coreRestartComplete (challenges : Vector (List (BitVec 16)) 9)
  /-- RESERVE_LOW. R424, R390. -/
  | reserveLow (x : HupPins)
  /-- HOST_ERR. R573: a host read ends with an error or times out, after moved bytes. -/
  | hostErr (r : Fin 32) (moved : Nat) (data : List Byte)
  /-- CLK_XFREQ_UPDATE. R103: the count of a 1 ms window. -/
  | clkXfreqUpdate (khz : BitVec 16)
  deriving DecidableEq, Repr

end Sys2Proof
end

