-- ==== Sys2Proof/Decode.lean ====
section
/-! DEFINITION. The command that a word spells by the bits of the opcode table. The table gives its rows no bits, so that no word
spells a command: commands reach the device as events and accesses, not as instruction words. -/

namespace Sys2Proof

/-- The command of the nbits-bit word w: none, since no row of the opcode table has bits. -/
def decodeTableWord (_nbits _w : Nat) : Option Instr := none

end Sys2Proof
end

