-- ==== Sys2Proof/Config.lean ====
section
/-! DEFINITION. What an implementation fixes, and the free values: constants without a body, so that no proof
can lean on a number for a value the spec leaves open. Each is named in a row of notes/assumptions. -/

namespace Sys2Proof.Config
open Sys2Proof

/-- The n-th free word: a value the spec leaves open, drawn by the step that needs it (the counter
freeCount of the device numbers the draws). DESIGN CHOICE. -/
opaque freeWord : Nat → Word

/-- T of R479 in 0.0625 °C units for R_REF, R25, BETA and the pin level in µV, where the formula divides by 0 or takes the logarithm
of 0 and the spec states no result. DESIGN CHOICE. -/
opaque ntcTemp : Nat → Nat → Nat → Nat → Int

/-- A quotient whose divisor is 0 in a formula of the spec, which states no result there. DESIGN CHOICE. -/
opaque divByZero : Rat → Rat

/-- The state of charge, 0.01 %, that the OCV table of temperature index t gives for a cell voltage outside the table, where the
spec states no result. DESIGN CHOICE. -/
opaque ocvBeyond : Nat → Rat → Rat

/-- The state of charge of the relaxation model while no pack temperature exists, where the spec states no result. DESIGN CHOICE. -/
opaque ocvNoTemp : Rat → Rat

/-- The design-centre code of the AO RC trim in the ROM (R93): not given. -/
opaque rcTrimDefault : BitVec 8
/-- The design-centre codes of the ANA reference and ADC gain trims in the ROM, by place in words 8 to 13 (R93): not given. -/
opaque anaTrimDefault : Fin 6 → Word
/-- Elvior's PCI Vendor ID and MIPI manufacturer ID (R162, R176): not given. -/
opaque vendorId : BitVec 16
opaque mipiId : BitVec 15

/-- Words of the configuration space after its reset that R162 does not give, by DW number. DESIGN CHOICE. -/
opaque cfgReset : Nat → Word

/-- The bits of a configuration word that a configuration write changes, by DW number: R162 names the capabilities and gives no layout.
DESIGN CHOICE. -/
opaque cfgMask : Nat → Word

/-- Exactly half way between two whole numbers, whether num / den rounds up where the spec fixes no direction. DESIGN CHOICE. -/
opaque halfUp : Int → Int → Bool

/-- Whether num / den, not a whole number, is reported rounded up, where the spec names no rounding. DESIGN CHOICE. -/
opaque roundUp : Int → Int → Bool

/-- The share of its distance to I_OUT that the droop filter of R250 covers in one update, by LL_TAU and UPD_DIV, within the limits of
Machine.droopShare. The spec gives the time constant and no discrete form. DESIGN CHOICE. -/
opaque droopGain : Nat → Nat → Rat

end Sys2Proof.Config
end

