-- ==== Sys2Proof/Machine/Operands.lean ====
section
/-! DEFINITION. Bit fields of a register word (R3), byte enables (R7, R8), signed fields (R5), clamps
and the CRC-8 of the register frame (R169): the plain helpers every block uses. -/

namespace Sys2Proof.Machine
open Sys2Proof

/-- The mask of bits [hi:lo] of a word (R3). -/
def fieldMask (hi lo : Nat) : Word := BitVec.ofNat 32 ((2 ^ (hi + 1 - lo) - 1) * 2 ^ lo)

/-- Field [hi:lo] of a word, as a number (R3). -/
def bits (w : Word) (hi lo : Nat) : Nat := w.toNat / 2 ^ lo % 2 ^ (hi + 1 - lo)

/-- Bit i of a word (R3). -/
def bit (w : Word) (i : Nat) : Bool := w.getLsbD i

/-- The word with field [hi:lo] replaced by the low bits of v. -/
def setBits (w : Word) (hi lo v : Nat) : Word :=
  (w &&& ~~~(fieldMask hi lo)) ||| (BitVec.ofNat 32 (v * 2 ^ lo) &&& fieldMask hi lo)

/-- A word of zeros with field [hi:lo] holding the low bits of v. -/
def field (hi lo v : Nat) : Word := BitVec.ofNat 32 (v * 2 ^ lo) &&& fieldMask hi lo

/-- The word with bit i set to b. -/
def setBit (w : Word) (i : Nat) (b : Bool) : Word := setBits w i i (if b then 1 else 0)

/-- A flag as a number, for packing into a word. -/
def b2n (b : Bool) : Nat := if b then 1 else 0

/-- A word of zeros with bit i holding b. -/
def flag (i : Nat) (b : Bool) : Word := if b then BitVec.ofNat 32 (2 ^ i) else 0

/-- Field [hi:lo] read as a signed (two's-complement) number (R5). -/
def sbits (w : Word) (hi lo : Nat) : Int :=
  let v := bits w hi lo
  let n := hi + 1 - lo
  if 2 ^ (n - 1) ≤ v then (v : Int) - (2 ^ n : Nat) else v

/-- A signed number as the low n bits of its two's complement (R5). -/
def toField (n : Nat) (v : Int) : Nat := (v % ((2 ^ n : Nat) : Int)).toNat

/-- The mask of the bytes that four byte enables address (R8). -/
def byteMask (be : BitVec 4) : Word :=
  (if be.getLsbD 0 then 0x000000FF#32 else 0) ||| (if be.getLsbD 1 then 0x0000FF00#32 else 0) |||
  (if be.getLsbD 2 then 0x00FF0000#32 else 0) ||| (if be.getLsbD 3 then 0xFF000000#32 else 0)

/-- A byte-enable pattern that is naturally aligned for its width (R7, R164). -/
def alignedBe (be : BitVec 4) : Bool :=
  be == 0b1111#4 || be == 0b0011#4 || be == 0b1100#4 ||
  be == 0b0001#4 || be == 0b0010#4 || be == 0b0100#4 || be == 0b1000#4

/-- The word w with the bits of mask m taken from v. -/
def mergeWord (w v m : Word) : Word := (w &&& ~~~m) ||| (v &&& m)

/-- v limited to the range lo to hi ("written as the nearest limit"). -/
def clampN (lo hi v : Nat) : Nat := max lo (min hi v)

/-- v limited to the range lo to hi, over the integers. -/
def clampI (lo hi v : Int) : Int := max lo (min hi v)

/-- The last n elements of l, which has as many, all satisfy c. -/
def lastAll {α : Type} (n : Nat) (l : List α) (c : α → Bool) : Bool := decide (n ≤ l.length) && (l.drop (l.length - n)).all c

/-- One more than n, saturating at top. -/
def satInc (top n : Nat) : Nat := if n < top then n + 1 else top

/-- n divided by d, rounded to nearest with halves upwards. -/
def divRound (n d : Nat) : Nat := (n + d / 2) / d

/-- One byte of a word, least significant first (R6). -/
def wordByte (w : Word) (i : Nat) : Byte := BitVec.ofNat 8 (bits w (8 * i + 7) (8 * i))

/-- The four bytes of a word, least significant first (R6). -/
def wordBytes (w : Word) : List Byte := [wordByte w 0, wordByte w 1, wordByte w 2, wordByte w 3]

/-- The word that four bytes spell, least significant first (R6). -/
def bytesWord (b0 b1 b2 b3 : Byte) : Word := b3 ++ b2 ++ b1 ++ b0

/-- The words that a list of bytes spells, least significant byte first; a rest of fewer than four bytes is dropped. -/
def wordsOfBytes : List Byte → List Word
  | b0 :: b1 :: b2 :: b3 :: r => bytesWord b0 b1 b2 b3 :: wordsOfBytes r
  | _ => []

/-- One bit step of the CRC-8 of polynomial 0x07, most significant bit first (R169). -/
def crc8Bit (c : Byte) : Byte := if c.getLsbD 7 then (c <<< 1) ^^^ 0x07#8 else c <<< 1

/-- One byte step of the CRC-8 of R169. -/
def crc8Byte (c b : Byte) : Byte :=
  crc8Bit (crc8Bit (crc8Bit (crc8Bit (crc8Bit (crc8Bit (crc8Bit (crc8Bit (c ^^^ b))))))))

/-- The CRC-8 of R169 over a list of bytes: initial value 0x00, no reflection, no final XOR. -/
def crc8 (bs : List Byte) : Byte := bs.foldl crc8Byte 0x00#8

/-- Element i of a vector changed by f. -/
def upd {α : Type} {n : Nat} (v : Vector α n) (i : Fin n) (f : α → α) : Vector α n := v.set i (f v[i])

/-- Every element of a vector changed by f of its index and value. -/
def mapFin {α : Type} {n : Nat} (v : Vector α n) (f : Fin n → α → α) : Vector α n :=
  Vector.ofFn fun i => f i v[i]

/-- Fold over all indices below n, in ascending order. -/
def foldFin {σ : Type} (n : Nat) (f : σ → Fin n → σ) (s : σ) : σ := (List.finRange n).foldl f s

end Sys2Proof.Machine
end

