-- ==== Sys2Proof/Machine/Regs.lean ====
section
/-! DEFINITION. The register map: the pages (R111), the stored registers of each block with their access masks
(R12), and the word each register holds after device reset and after the factory generation is loaded. A register
that the spec defines as a view of other state (a status word) has no stored word of its own: Bus.lean computes it. -/

namespace Sys2Proof.Machine
open Sys2Proof

/-- The blocks of the page map (R111); `table` pages carry no common header (R112). -/
inductive Block where
  | glb | hcx | clk | cnt | otp | hkc | loop | phs | seq | sup | rso | hup | gau | thm | flt | wdt | evc
  | dma | ring | xlt | tlm | pmc | syn | cue
  | shotTable | windowTable | sourceTable | rushesTable | gaugeTable
  deriving DecidableEq, Repr

/-- The first and last page of each block, and its type code (R111). -/
def pageMap : List (Nat × Nat × Block × Nat) :=
  [(0x000, 0x000, .glb, 0x01), (0x001, 0x001, .hcx, 0x02), (0x002, 0x002, .clk, 0x03), (0x003, 0x003, .cnt, 0x04),
   (0x004, 0x005, .otp, 0x05), (0x006, 0x006, .hkc, 0x06), (0x010, 0x01F, .loop, 0x10), (0x020, 0x027, .phs, 0x11),
   (0x030, 0x033, .seq, 0x12), (0x034, 0x036, .sup, 0x13), (0x037, 0x037, .rso, 0x14), (0x040, 0x041, .hup, 0x18),
   (0x044, 0x044, .gau, 0x19), (0x048, 0x049, .thm, 0x1A), (0x050, 0x050, .flt, 0x20), (0x054, 0x05C, .wdt, 0x21),
   (0x060, 0x063, .evc, 0x22), (0x070, 0x070, .dma, 0x28), (0x080, 0x09F, .ring, 0x29), (0x0A0, 0x0A0, .xlt, 0x2A),
   (0x0B0, 0x0B1, .tlm, 0x30), (0x0C0, 0x0C0, .pmc, 0x31), (0x0C4, 0x0C4, .syn, 0x32), (0x0C8, 0x0C8, .cue, 0x33),
   (0x100, 0x101, .shotTable, 0), (0x110, 0x111, .windowTable, 0), (0x120, 0x120, .sourceTable, 0),
   (0x200, 0x23F, .rushesTable, 0), (0x300, 0x300, .gaugeTable, 0)]

/-- The page-map row of page p: first page of the block, the block and its type code (R110, R111). -/
def pageRow (p : Nat) : Option (Nat × Block × Nat) :=
  match pageMap.find? (fun r => r.1 ≤ p && p ≤ r.2.1) with
  | some r => some (r.1, r.2.2.1, r.2.2.2)
  | none => none

/-- The block of page p, none for an unimplemented page (R111). -/
def blockOf (p : Nat) : Option Block := (pageRow p).map (·.2.1)

/-- The instance number of page p in its block (R115). -/
def pageInst (p : Nat) : Nat :=
  match pageRow p with
  | some r => p - r.1
  | none => 0

/-- A page with the common header: an implemented page below 0x100 (R112). -/
def isBlockPage (p : Nat) : Bool := p < 0x100 && (blockOf p).isSome

/-- One stored register, or an array of count registers stride bytes apart: its page offset, the masks of its
RW, RW-L and W1C bits (R12), its reset word and its word after the factory generation. -/
structure RegSpec where
  name : String
  off : Nat
  count : Nat := 1
  stride : Nat := 4
  rw : Word := 0
  rwl : Word := 0
  w1c : Word := 0
  reset : Word := 0
  factory : Word := 0
  deriving DecidableEq, Repr

/-- Whether offset o is one of the registers of row r. -/
def RegSpec.covers (r : RegSpec) (o : Nat) : Bool :=
  r.off ≤ o && (o - r.off) % r.stride == 0 && (o - r.off) / r.stride < r.count

/-- A stored RW register: name, offset, RW mask, word after the factory generation. -/
def rRw (name : String) (off : Nat) (rw factory : Word) : RegSpec := { name, off, rw, factory }

/-- A stored register that software cannot write: its reset word, kept by the loader. -/
def rRo (name : String) (off : Nat) (reset : Word := 0) : RegSpec := { name, off, reset, factory := reset }

/-- GLB, page 0x000: the stored port registers of Host Ports. -/
def glbRegs : List RegSpec :=
  [{ name := "GLB_HPORTA", off := 0x070, rwl := 0x007F8FB0, factory := 0x00000580 },
   { name := "GLB_HPORTB", off := 0x074, rwl := 0x007F8FB0, factory := 0x00000580 },
   { name := "GLB_HPORTSPI", off := 0x078, rwl := 0x00000101, factory := 0x00000001 }]

/-- HCX, page 0x001 (Register Model and Shared Ownership). -/
def hcxRegs : List RegSpec :=
  [{ name := "HCX_PORTCAP", off := 0x050, rwl := 0x000000FF, factory := 0x000000AA },
   { name := "HCX_LEASEDEF", off := 0x054, rwl := 0x0000FFFF, factory := 0x00001388 }]

/-- PHS, pages 0x020 to 0x027 (Phase Engine): registers of phase i of the group at 0x100 + 0x40 i (R236). -/
def phsRegs : List RegSpec :=
  [{ name := "PHSk_MAP", off := 0x100, count := 8, stride := 0x40, rw := 0x0000001F, rwl := 0x00000100, factory := 0x0000011F },
   { name := "PHSk_CFG", off := 0x104, count := 8, stride := 0x40, rw := 0x0FF8FFFF, factory := 0x0C805028 },
   { name := "PHSk_SLOPE", off := 0x108, count := 8, stride := 0x40, rw := 0xCFFFFF00, factory := 0x86006000 },
   { name := "PHSk_IND", off := 0x10C, count := 8, stride := 0x40, rw := 0x3FFFFFFF, factory := 0x0C80C864 },
   { name := "PHSk_IMONCAL", off := 0x110, count := 8, stride := 0x40, rw := 0x00FFFFFF, reset := 0x00001388, factory := 0x00001388 },
   { name := "PHSk_LIMIT", off := 0x114, count := 8, stride := 0x40, rw := 0xFFFF03FF, factory := 0xE01003E8 },
   { name := "PHSk_CTL", off := 0x118, count := 8, stride := 0x40, rw := 0x00000002 }]

/-- LOOP, pages 0x010 to 0x01F (R285). -/
def loopRegs : List RegSpec :=
  [rRw "LOOPn_CFG" 0x040 0x0F300313 0x03200000,
   rRw "LOOPn_VSET" 0x044 0x00003FFF 0x00000C80,
   rRw "LOOPn_VMARGIN" 0x048 0x3FFF3FFF 0x0CE40C1C,
   { name := "LOOPn_VMAX", off := 0x04C, rwl := 0x00003FFF, factory := 0x00000FA0 },
   rRw "LOOPn_SLEW" 0x050 0x000001FF 0x0000000A,
   rRw "LOOPn_LL" 0x054 0xFFFF00FF 0,
   rRw "LOOPn_SCOEF0" 0x060 0xFFFFFFFF 0x00201000,
   rRw "LOOPn_SCOEF1" 0x064 0xFFFFFFFF 0x40000000,
   rRw "LOOPn_SCOEF2" 0x068 0xFFFFFFFF 0x02004000,
   rRw "LOOPn_SCOEF3" 0x06C 0xF7FF0000 0x61500000,
   rRw "LOOPn_SFSW" 0x070 0x0003FFFF 0x00007D00,
   rRo "LOOPn_ACOEF0" 0x080, rRo "LOOPn_ACOEF1" 0x084, rRo "LOOPn_ACOEF2" 0x088, rRo "LOOPn_ACOEF3" 0x08C,
   rRo "LOOPn_AFSW" 0x090,
   { name := "LOOPn_OVUV", off := 0x0C0, rwl := 0x3FFF0000, rw := 0x00003FFF, factory := 0x11300960 },
   rRw "LOOPn_VWARN" 0x0C4 0x3FFF3FFF 0x0E100AF0,
   rRw "LOOPn_OC" 0x0C8 0x1FFF1FFF 0x00C800A0,
   { name := "LOOPn_CB", off := 0x0CC, rwl := 0x8F000000, rw := 0x00FF3FFF, factory := 0x880A04B0 },
   rRw "LOOPn_PTIME" 0x0D0 0xFFFFFF00 0x0A143200,
   { name := "LOOPn_PHPROT", off := 0x0D4, rwl := 0x3F000000, rw := 0x00FFFFFF, factory := 0x0182087D },
   { name := "LOOPn_SS", off := 0x0E0, rwl := 0x70000000, rw := 0x8FFFF1FF, factory := 0x0532200A },
   rRw "LOOPn_SHED" 0x0E4 0xFFFFFFFF 0x01000001,
   { name := "LOOPn_CUEAp", off := 0x100, count := 8, stride := 8, rw := 0xF7FFFFFF },
   { name := "LOOPn_CUEBp", off := 0x104, count := 8, stride := 8, rw := 0x0000FFFF }]

/-- CUE, page 0x0C8. CUE_STAT and CUE_LAST are words the cue port writes. -/
def cueRegs : List RegSpec :=
  [rRw "CUE_CTL" 0x040 0xFFFF0001 0, rRo "CUE_STAT" 0x048, rRo "CUE_LAST" 0x04C]

/-- SEQ, page 0x030 (Sequencer, Supervisors and Resets). -/
def seqRegs : List RegSpec :=
  [{ name := "SEQ_CFG", off := 0x040, rwl := 0x00007700 },
   { name := "SEQ_SCENE0", off := 0x060, reset := 0, factory := 0x80000000 },
   { name := "SEQ_SCENEs", off := 0x064, count := 7, rwl := 0xC7000700, rw := 0x00FF0000 }]

/-- RSO, page 0x037. RSO_POL is RW-L; its word is the retention cell of R58, which State holds apart (Device.held). -/
def rsoRegs : List RegSpec := [{ name := "RSO_POL", off := 0x040, rwl := 0xFFFFFFFF }, rRw "RSO_FORCE" 0x044 0xFFFFFFFF 0]

/-- The shot list (R358): word o of every entry, 64 bytes apart over pages 0x100 and 0x101. -/
def shotRegs : List RegSpec :=
  [{ name := "SHOT_00", off := 0x00, count := 64, stride := 0x40, rw := 0xE03F00FE },
   { name := "SHOT_04", off := 0x04, count := 64, stride := 0x40, rw := 0xFFFFFFFF },
   { name := "SHOT_08", off := 0x08, count := 64, stride := 0x40, rw := 0xFFFFFFFF },
   { name := "SHOT_0C", off := 0x0C, count := 64, stride := 0x40, rw := 0xFFFFFFFF },
   { name := "SHOT_10", off := 0x10, count := 64, stride := 0x40, rw := 0xFFFFFFFF },
   { name := "SHOT_14", off := 0x14, count := 64, stride := 0x40, rw := 0xFFFFFFFF },
   { name := "SHOT_18", off := 0x18, count := 64, stride := 0x40, rw := 0xFFFFFFFF },
   { name := "SHOT_1C", off := 0x1C, count := 64, stride := 0x40, rw := 0xFFFFFFFF },
   { name := "SHOT_20", off := 0x20, count := 64, stride := 0x40, rw := 0x0003FFFF },
   { name := "SHOT_3C", off := 0x3C, count := 64, stride := 0x40, rw := 0xFFFFFFFF }]

/-- THM, page 0x048. -/
def thm0Regs : List RegSpec :=
  [rRw "THM_CFG" 0x040 0xF0FFFFFF 0x40101414,
   { name := "THM_NTCREF", off := 0x080, rwl := 0x0000FFFF, factory := 0x00002710 },
   { name := "THM_DERn", off := 0x0C0, count := 16, rw := 0xFFFFFF00, factory := 0xA4B88000 }]

/-- THM, page 0x049: the NTC parameters, and the channel words whose factory value differs by kind of channel. -/
def thm1Regs : List RegSpec :=
  [{ name := "THM_NTCm", off := 0x040, count := 16, rwl := 0xFFFFFFFF, factory := 0x0D6B2710 },
   { name := "THM_CCFG_DIE", off := 0x100, count := 8, stride := 8, rwl := 0xDF000000, rw := 0x20FFF000, factory := 0xA0002000 },
   { name := "THM_CLIM_DIE", off := 0x104, count := 8, stride := 8, rwl := 0xFF0000FF, rw := 0x00FFFF00, factory := 0xBDAE2C18 }] ++
  (List.range 8).map (fun g =>
    { name := "THM_CCFG_TMON", off := 0x140 + 0x40 * g, count := 8, stride := 8, rwl := 0x5F000000, rw := 0x20FFF000,
      factory := BitVec.ofNat 32 (0x21002000 + 0x01000000 * g) }) ++
  [{ name := "THM_CLIM_TMON", off := 0x144, count := 64, stride := 8, rwl := 0xFF0000FF, rw := 0x00FFFF00, factory := 0xC2B30000 },
   { name := "THM_CCFG_NTC", off := 0x340, count := 12, stride := 8, rwl := 0xDF000000, rw := 0x20FFF000, factory := 0x1F002000 },
   { name := "THM_CLIM_NTC", off := 0x344, count := 12, stride := 8, rwl := 0xFF0000FF, rw := 0x00FFFF00, factory := 0xFFFF0000 },
   { name := "THM_CCFG_PACK", off := 0x3A0, count := 4, stride := 8, rwl := 0xDF000000, rw := 0x20FFF000, factory := 0xE9002000 },
   { name := "THM_CLIM_PACK", off := 0x3A4, count := 4, stride := 8, rwl := 0xFF0000FF, rw := 0x00FFFF00, factory := 0x867C362C }]

/-- FLT, page 0x050: reaction words, force groups and the EFI configuration. Classes 46, 47 and 59 to 62 are reserved. -/
def fltRegs : List RegSpec :=
  [{ name := "FLT_EFICFG", off := 0x064, rwl := 0xFF00FF00, factory := 0x19000000 },
   { name := "FLT_RXc", off := 0x100, count := 46, rwl := 0xFFC0FF00, factory := 0xD0000000 },
   { name := "FLT_RXc", off := 0x1C0, count := 10, rwl := 0xFFC0FF00, factory := 0xD0000000 },
   { name := "FLT_RX58", off := 0x1E8, rwl := 0xFFC0FF00 },
   { name := "FLT_RX63", off := 0x1FC, rwl := 0xFFC0FF00, factory := 0xD0000000 },
   { name := "FLT_GRPg", off := 0x280, count := 32, rwl := 0xFFFFFFFF }]

/-- WDT, pages 0x054 to 0x05B; WDT8_RSTSET and WDT8_RSTO of page 0x05C read 0 and ignore writes (R534). -/
def wdtRegs : List RegSpec :=
  [{ name := "WDTk_WIN", off := 0x040, rwl := 0xFFFFFFFF, factory := 0x00640000 },
   { name := "WDTk_CFG", off := 0x044, rwl := 0xE700FFFF, factory := 0x05000000 },
   { name := "WDTk_RSTSET", off := 0x048, rwl := 0xC000FFFF, factory := 0x00000001 },
   { name := "WDTk_RSTO", off := 0x04C, rwl := 0xFFFFFFFF }]

/-- EVC, page 0x060: the control and base words of the nine targets. -/
def evcRegs : List RegSpec :=
  [{ name := "EVC_TCTLt", off := 0x100, count := 8, stride := 0x20, rw := 0x000007F3 },
   { name := "EVC_TCTL8", off := 0x200, rw := 0x000007F1, reset := 0x00000002, factory := 0x00000002 },
   { name := "EVC_TBASEt_LO", off := 0x104, count := 9, stride := 0x20, rw := 0xFFFFFFFF },
   { name := "EVC_TBASEt_HI", off := 0x108, count := 9, stride := 0x20, rw := 0x000000FF }]

/-- The source table, page 0x120: the configuration word of every source (R545). -/
def sourceRegs : List RegSpec :=
  [{ name := "EVC_SRCs", off := 0x000, count := 16, stride := 8, rw := 0x0101FF0F },
   { name := "EVC_SRCs", off := 0x080, count := 240, stride := 8, rw := 0x0001FF0F }]

/-- HUP, page 0x040. -/
def hup0Regs : List RegSpec :=
  [{ name := "HUP_CFG", off := 0x040, rwl := 0xFF800000, rw := 0x007FF7FF, factory := 0x0C332064 },
   { name := "HUP_SCALE", off := 0x044, rwl := 0xFFFFFFFF, factory := 0x066605A2 },
   { name := "HUP_SHUNT", off := 0x048, rwl := 0xFFFFFFFF, factory := 0x01F401F4 },
   rRw "HUP_WIN" 0x04C 0x03FF03FF 0x024E01D6,
   rRw "HUP_HOLDV" 0x050 0x03FF03FF 0x01CC01C2,
   { name := "HUP_SRC", off := 0x054, rwl := 0xFF000000, rw := 0x000000FF, reset := 0x3C000008, factory := 0x3C000008 },
   { name := "HUP_DIS", off := 0x058, rwl := 0xFFFF00FF, factory := 0x463200BE },
   rRw "HUP_RSV" 0x05C 0xFFFFFFFF 0x00003C50,
   rRw "HUP_LAMP" 0x06C 0x00000FFF 0]

/-- HUP, page 0x041: the charger. HUP_BAND4 and HUP_CHGSTAT share offset 0x060 in the spec: a write there goes to HUP_BAND4, a
read gives HUP_CHGSTAT (DESIGN CHOICE). -/
def hup1Regs : List RegSpec :=
  [{ name := "HUP_CHGCFG", off := 0x040, rwl := 0xF0000000, rw := 0x00FFFFFF, factory := 0xE0080414 },
   { name := "HUP_CHGTIME", off := 0x044, rwl := 0xFFFF0000, rw := 0x0000FFFF, factory := 0x501E3C32 },
   rRw "HUP_CHGCMD" 0x048 0x00FF00FF 0,
   { name := "HUP_CWD", off := 0x04C, rwl := 0xFFFF00FF, factory := 0x0A100078 },
   { name := "HUP_BAND0", off := 0x050, rwl := 0xFFFF00FF },
   { name := "HUP_BAND1", off := 0x054, rwl := 0xFFFF00FF, factory := 0x0020008C },
   { name := "HUP_BAND2", off := 0x058, rwl := 0xFFFF00FF, factory := 0x0AA0008C },
   { name := "HUP_BAND3", off := 0x05C, rwl := 0xFFFF00FF, factory := 0x2D400078 },
   { name := "HUP_BAND4", off := 0x060, rwl := 0xFFFF00FF, factory := 0x37000000 }]

/-- GAU, page 0x044, held in the AO domain. -/
def gauRegs : List RegSpec :=
  [{ name := "GAU_CFG", off := 0x040, rw := 0xFFFFFF01, reset := 0x3C643201, factory := 0x3C643201 },
   { name := "GAU_TIME", off := 0x044, rw := 0xFFFF0000, reset := 0x061E0000, factory := 0x061E0000 },
   { name := "GAU_STAGE", off := 0x070, rw := 0xFFFFFFFF }]

/-- DMA rings, pages 0x080 to 0x09F. -/
def ringRegs : List RegSpec :=
  [rRw "RING_CFG" 0x040 0xE0FF01FF 0, rRw "RING_BASE_LO" 0x044 0xFFFFFFFF 0, rRw "RING_BASE_HI" 0x048 0x000000FF 0]

/-- TLM, page 0x0B0. -/
def tlm0Regs : List RegSpec :=
  [rRw "TLM_RWIN" 0x040 0x00001F1F 0x00000909,
   { name := "TLM_SCHc_CFG", off := 0x080, count := 8, stride := 0x10, rw := 0xC01F0000 },
   { name := "TLM_SCHc_MASK_LO", off := 0x084, count := 8, stride := 0x10, rw := 0xFFFFFFFF },
   { name := "TLM_SCHc_MASK_HI", off := 0x088, count := 8, stride := 0x10, rw := 0xFFFFFFFF }]

/-- TLM, page 0x0B1: rushes and dailies. -/
def tlm1Regs : List RegSpec :=
  [rRw "TLM_RCFG" 0x040 0x80001F1F 0, rRw "TLM_RTRIG" 0x044 0x00071FFF 0x00070400, rRw "TLM_RLMASK" 0x048 0x0000FFFF 0,
   rRw "TLM_RPMASK_LO" 0x04C 0xFFFFFFFF 0, rRw "TLM_RPMASK_HI" 0x050 0xFFFFFFFF 0,
   rRw "TLM_DCFG" 0x080 0xC700FFFF 0x00000E10, rRw "TLM_DMASK" 0x084 0x0000FFFF 0]

/-- PMC, page 0x0C0: control and selections. CHAIN exists on odd counters only. -/
def pmcRegs : List RegSpec :=
  [{ name := "PMC_CTL", off := 0x040, rw := 0x00000007 },
   { name := "PMC_SELc", off := 0x100, count := 32, stride := 8, rw := 0xACFFFFFF },
   { name := "PMC_SELc", off := 0x104, count := 32, stride := 8, rw := 0xECFFFFFF }]

/-- SYN, page 0x0C4. -/
def synRegs : List RegSpec :=
  [{ name := "SYN_CFG", off := 0x040, rwl := 0x50000000, rw := 0xA0000000, factory := 0xA0000000 },
   rRw "SYN_CLAPGEN" 0x044 0x800FFFFF 0x000003E8, { name := "SYN_CLAPNUM", off := 0x048, rw := 0x0000FFFF },
   rRw "SYN_TCFG" 0x050 0xFFFFFFFF 0x007D03E8]

/-- OTP, page 0x004 (One-Time-Programmable Memory and ROM Patching). -/
def otpRegs : List RegSpec :=
  [{ name := "OTP_PCFG", off := 0x048, rw := 0xC00F003F, reset := 0x0004000A, factory := 0x0004000A },
   { name := "OTP_PADDR", off := 0x04C, rw := 0x071F01FF }, { name := "OTP_PDATA", off := 0x050, rw := 0xFFFFFFFF },
   { name := "OTP_RADDR", off := 0x05C, rw := 0x000003FF }]

/-- The stored registers of page i of a block. -/
def blockRegs (b : Block) (i : Nat) : List RegSpec :=
  match b, i with
  | .glb, _ => glbRegs
  | .hcx, _ => hcxRegs
  | .otp, 0 => otpRegs
  | .loop, _ => loopRegs
  | .phs, _ => phsRegs
  | .cue, _ => cueRegs
  | .seq, 0 => seqRegs
  | .rso, _ => rsoRegs
  | .thm, 0 => thm0Regs
  | .thm, _ => thm1Regs
  | .flt, _ => fltRegs
  | .wdt, _ => wdtRegs
  | .evc, 0 => evcRegs
  | .hup, 0 => hup0Regs
  | .hup, _ => hup1Regs
  | .gau, _ => gauRegs
  | .ring, _ => ringRegs
  | .tlm, 0 => tlm0Regs
  | .tlm, _ => tlm1Regs
  | .pmc, _ => pmcRegs
  | .syn, _ => synRegs
  | .shotTable, _ => shotRegs
  | .sourceTable, _ => sourceRegs
  | _, _ => []

/-- The row of the register map that device address a falls on. -/
def regSpec (a : Nat) : Option RegSpec :=
  match blockOf (a / 0x1000) with
  | some b => (blockRegs b (pageInst (a / 0x1000))).find? fun r => r.covers (a % 0x1000)
  | none => none

/-- The word that the stored register at address a holds after device reset. -/
def resetWord (a : Nat) : Word :=
  match regSpec a with
  | some r => r.reset
  | none => 0

/-- The word that the factory generation gives the register at address a. WDT8_RSTSET reads 0 (R534). -/
def factoryWord (a : Nat) : Word :=
  if a = 0x05C048 then 0
  else match regSpec a with
  | some r => r.factory
  | none => 0

end Sys2Proof.Machine
end

