-- ==== Sys2Proof/Machine/State.lean ====
section
/-! DEFINITION. The state of the device as plain data, the state after reset, and the reasons a command can stop. -/

namespace Sys2Proof.Machine
open Sys2Proof

/-! ## Register store and page headers -/

/-- A list of (device address, word) pairs: the registers that hold something other than their default word.
Canonical form: addresses strictly rising, no entry equal to the default (Store.wf). -/
abbrev Store := List (Nat × Word)

/-- The bytes of the addressed RAMs that hold something other than the default: (address, byte) pairs in the canonical form of
Memory.wf. -/
abbrev Memory := List Host.Cell

/-- EXPIRY of PAGE_OWNER. The reserved code 0b11 has no constructor: it is never stored (R120). -/
inductive Expiry where
  | keep | safe | disarm
  deriving DecidableEq, Repr

/-- MODE of PAGE_OWNER. The reserved code 0b11 has no constructor: it is never stored (R120). -/
inductive OwnMode where
  | free | shared | exclusive
  deriving DecidableEq, Repr

/-- A requester as the fabric sees it (R126): a context, JTAG, the core, or an access without an open context. -/
inductive Requester where
  | ctx (n : Fin 8) | jtag | core | anon
  deriving DecidableEq, Repr

/-- Privilege levels (R131). -/
inductive Priv where
  | observer | operator | admin
  deriving DecidableEq, Repr

/-- The header and continuity record of one block page (R116, R152). -/
structure PageHdr where
  /-- PAGE_CTL[31:3] and FREEZE as written; ENABLE in bit 0. SRST is kept apart. -/
  ctl : Word
  /-- PAGE_CTL.SRST: a soft reset in progress. -/
  srst : Bool
  err : Word
  errMask : Word
  expiry : Expiry
  mode : OwnMode
  owner : Option Requester
  lockOtp : Bool
  lockAdmin : Bool
  /-- The requester that set FREEZE (R117). -/
  freezer : Option Requester
  /-- The RO fields that FREEZE holds, by offset (PAGE_CTL.FREEZE). -/
  frozen : Store
  /-- The continuity record: previous and current state code, cause, requester code, entry timestamp, count. -/
  prev : Nat
  cur : Nat
  cause : Nat
  byCode : Nat
  entry : Nat
  count : Nat
  deriving DecidableEq, Repr

/-! ## Supplies, reset and boot -/

/-- Which domains are above their POR thresholds. -/
structure Supplies where
  ao : Bool
  hv : Bool
  io : Bool
  ana : Bool
  core : Bool
  pcie : Bool
  deriving DecidableEq, Repr

/-- Clocks, resets and boot, outside the AO domain. -/
structure Boot where
  up : Supplies
  /-- Device reset is held (R27, R83). -/
  held : Bool
  /-- A device reset requested and waiting for an OTP pulse to end (R85). -/
  request : Option ResetReq
  pllLock : Bool
  /-- The state of R36. -/
  clkFailed : Bool
  /-- TAP controller held in, or just left, its reset state. -/
  tapReset : Bool
  straps : Word
  stage : Nat
  gen : Nat
  marginal : Bool
  patchSkipped : Bool
  trimDefault : Bool
  /-- The ANA reference and ADC gain trims in force, words 8 to 13 of the trim section (R90, R93). -/
  anaTrim : Vector Word 6
  /-- The 150 µs event has passed (R90). -/
  trimJudged : Bool
  autoRun : Bool
  autoBlocked : Bool
  firstScan : Bool
  /-- The Flehaene core runs its firmware (released and not stalled or restarting). -/
  coreUp : Bool
  /-- The reset or halt that keeps the core from running is a restart in progress (R46, R687). -/
  coreRestarting : Bool
  xfreq : Nat
  aoLoss : Nat
  pcieLoss : Nat
  perst : Nat
  deriving DecidableEq, Repr

/-! ## Contexts -/

inductive CtxState where
  | free | opened | ending | quarantine
  deriving DecidableEq, Repr

/-- One host context (HCX_CTXn_STAT, HCX_CTXn_LEASE). -/
structure Ctx where
  st : CtxState
  nonce : BitVec 16
  port : HostPort
  priv : Priv
  pmcUser : Bool
  endCode : Nat
  leaseMs : Nat
  /-- What the lease counter was last reloaded with, ms, and the ADC-cycle count of that reload (R137). -/
  loaded : Nat
  renewed : Nat
  /-- The port was in SMBus mode at the open (R157, R196). -/
  smbus : Bool
  deriving DecidableEq, Repr

/-! ## Host ports -/

/-- A frame response: STATUS, data and CRC bytes, and whether the page has answered yet (R172, R178). -/
structure FrameRsp where
  bytes : List Byte
  ready : Bool
  deriving DecidableEq, Repr

inductive PortMode where
  | smbus | i3c | disabled
  deriving DecidableEq, Repr

/-- Protocol state of one I3C/SMBus port. -/
structure I3cPort where
  mode : PortMode
  /-- MODE_CFG in force since the port's last reset (R198). -/
  modeCfg : Nat
  /-- Static address in force since the port's last reset (R175, R198). -/
  static : BitVec 7
  dyn : Option (BitVec 7)
  mwl : Nat
  mrl : Nat
  intEn : Bool
  hjEn : Bool
  hdr : Bool
  rstAct : Byte
  /-- Context map of the mandatory byte, as last seen by the IBI logic (R179). -/
  ibiMap : Byte
  /-- A rising map bit has not been signalled yet (R180). -/
  ibiWait : Bool
  /-- The hot-join of R181 has been issued since the last reset of the port. -/
  hjDone : Bool
  lastWr : Nat
  rsp : Option FrameRsp
  /-- Bytes that the port returned to its last read, CCC or PMBus read. -/
  reply : List Byte
  /-- Whether the header or command byte of the last transfer was acknowledged. -/
  acked : Bool
  pmPage : Byte
  cml : Byte
  pmCtx : Option (Fin 8)
  deriving DecidableEq, Repr

/-- Protocol state of the SPI port. -/
structure SpiPort where
  /-- ENABLE in force since the port's last reset (R198). -/
  enabled : Bool
  lastWr : Nat
  rsp : Option FrameRsp
  deriving DecidableEq, Repr

/-- The completion that an inbound PCIe request got. -/
inductive PcieCpl where
  | none | success | completerAbort | retry
  deriving DecidableEq, Repr

/-- The PCIe endpoint. -/
structure Pcie where
  perstLow : Bool
  linkUp : Bool
  d3hot : Bool
  msixEn : Bool
  funcMask : Bool
  vecMask : BitVec 16
  pending : BitVec 16
  /-- A Completer Abort was logged in the AER capability (R161). -/
  aerCa : Bool
  cpl : PcieCpl
  /-- Data of the last completion, one word a DW. -/
  data : List Word
  /-- Configuration space, by DW number, where it differs from Config.cfgReset. -/
  cfg : Store
  /-- MSI-X table words, by DW number (R163). -/
  table : Store
  deriving DecidableEq, Repr

/-- What the device sends out by itself: writes to host memory, MSI-X messages, in-band interrupts, hot-joins,
early-edge requests, Daxram frames and SPI or bus acknowledgements of note. Newest first. -/
inductive Outgoing where
  | hostWrite (addr : Nat) (bytes : List Byte)
  | hostRead (addr : Nat) (len : Nat)
  | msix (v : Nat)
  | ibi (p : BusPort) (data : Byte)
  | hotJoin (p : BusPort)
  | clapFrame (num : Nat)
  | timeFrame (ts : Nat)
  deriving DecidableEq, Repr

/-! ## Phases and loops -/

/-- The level of a three-level or tri-state output. -/
inductive Level where
  | low | high | z
  deriving DecidableEq, Repr

/-- Phase states (R229). -/
inductive PhaseState where
  | unpop | off | joining | live | draining | parked | handoff | failed | crowbar | forced
  deriving DecidableEq, Repr

/-- Where a draining phase goes (R230, R232). -/
inductive DrainDest where
  | parked | handoff | off
  deriving DecidableEq, Repr

/-- One phase channel. -/
structure Phase where
  st : PhaseState
  prev : PhaseState
  own : Option (Fin 16)
  failCause : Nat
  joinLatched : Bool
  lrange : Bool
  dlcal : Bool
  slopeHold : Bool
  ilim : Bool
  dmaxHit : Bool
  slot : Option Nat
  /-- Leading edge after the boundary, 31.25 ps units (R227). -/
  edge : Nat
  raw : Nat
  cur : Int
  /-- Learned inductance, 0.0625 nH units. -/
  lLrn : Nat
  /-- Filtered down-slope, A/µs (R213). -/
  sf : Rat
  ramp : Nat
  coarse : Bool
  dac : Nat
  ton : Nat
  /-- Level of the pulse generator. -/
  pulse : Level
  dest : DrainDest
  drainPer : Nat
  joinCyc : Nat
  /-- A lend request on its way (R727). -/
  lendReq : Bool
  /-- The source loop of the lend under way. -/
  lendFrom : Option (Fin 16)
  /-- An add request latched by a cue until the next boundary (R276, R317). -/
  addReq : Bool
  /-- OWNLOOP takes PHSk_MAP.LOOP when the phase next enters OFF or FAILED (R313, R350, R727). -/
  mapHeld : Bool
  iBal : Rat
  /-- Mean current over the last complete period in A (R263). -/
  iMean : Rat
  /-- Sum and number of the current samples of the present period. -/
  curSum : Rat
  curCnt : Nat
  /-- A scheduled leading edge came while the pulse still ran (R204). -/
  edgeDue : Bool
  /-- How far T_OFF_MIN delayed the last leading edge, 31.25 ps units (R204). -/
  edgeLate : Nat
  /-- The present period has its one pulse, which T_OFF_MIN delayed (R204). -/
  onlyPulse : Bool
  /-- ADC cycles since the last trailing edge, up to 256. -/
  offAge : Nat
  /-- A switching period has completed since the last balance update (R261). -/
  perDone : Bool
  openCnt : Nat
  modelCnt : Nat
  /-- Consecutive samples at PH_OCF or above, and outside the window of R68 (R321, R728). -/
  ocfCnt : Nat
  rangeCnt : Nat
  lOut : Nat
  lIn : Nat
  /-- The TMON fault comparator is high. -/
  tmonHigh : Bool
  /-- PHSk_CONT. -/
  contCause : Nat
  contBy : Nat
  contCount : Nat
  entry : Nat
  deriving DecidableEq, Repr

/-- Loop states (R290). -/
inductive LoopState where
  | off | prebias | ramp | rampdown | run | draining | faulted | crowbar
  deriving DecidableEq, Repr

/-- RESULT of LOOPn_LENDSTAT. -/
inductive LendResult where
  | none | draining | handoff | joining | done | refused | failed | endedOff
  deriving DecidableEq, Repr

/-- What the device holds of a loop's sensing: the filtered OV comparator output, the latest telemetry conversion, V_S of R247 in 0.25 mV
units, and I_OUT of R251 in units of 1/1024 A. -/
structure LoopSense where
  ov : Bool
  raw : Nat
  vs : Rat
  iOut : Int
  deriving DecidableEq, Repr

/-- One voltage loop. Voltages are in the unit in which the load line is exact: 1/2,560,000 of a 0.25 mV code
(0.1 µΩ × 1/1024 A); currents in 1/1024 A unless a field says otherwise. -/
structure Loop where
  st : LoopState
  prev : LoopState
  cause : Nat
  en : Bool
  enLatched : Bool
  vPb : Int
  vSs : Int
  vRef : Int
  vTarget : Int
  vLift : Int
  /-- V_LIFT is falling at SLEW (R277). -/
  liftFall : Bool
  integ : Int
  y1 : Int
  y2 : Int
  ePrev : Int
  /-- I_CMD, 7.8125 mA units. -/
  iCmd : Nat
  iLl : Int
  sense : LoopSense
  err : Int
  sat : Bool
  ssDone : Bool
  pgCnt : Nat
  ssShort : Nat
  pending : Bool
  swaps : Nat
  /-- PERIOD that the period counter runs with (R269). -/
  period : Nat
  shedCnt : Nat
  replace : Nat
  liveBefore : Nat
  flt : Word
  first : Nat
  cbCount : Nat
  fltTs : Nat
  lendResult : LendResult
  lendPhase : Nat
  lendDest : Nat
  lendPeriods : Nat
  lends : Nat
  lendStart : Nat
  cueCount : Nat
  cueLast : Nat
  cueActive : Bool
  /-- ADC-cycle count of the last accepted cue. -/
  cueAt : Option Nat
  /-- A cue is accepted in the LOOP cycle of the boundary under way (R318). -/
  cueSeen : Bool
  /-- N as the last boundary left it (R228). -/
  nAct : Nat
  /-- Sum and number of I_OUT in each of the last 16 periods, newest first (R305). -/
  iPer : List (Int × Nat)
  /-- 31.25 ps units since the last boundary, in steps of an ADC cycle. -/
  perPos : Nat
  /-- The words that registers written since the last update still act with (R319), by page offset. -/
  oldCfg : List (Nat × Word)
  /-- Running counts of the detectors: 8 ns units with the OV comparator high, conversions below UV_FLT, ADC cycles at OC_FLT or above, and
  conversions below CB_REL (R321, R328, R728). -/
  ovCnt : Nat
  uvCnt : Nat
  ocCnt : Nat
  relCnt : Nat
  /-- The pre-bias measurement: sum and number of its conversions (R295). -/
  pbSum : Nat
  pbCnt : Nat
  /-- An expiry's SAFE waits for shedding, lending or a cue profile of the loop to complete (R150). -/
  safeWait : Bool
  /-- The OPERATION value last accepted over PMBus (R189). -/
  oper : Byte
  deriving DecidableEq, Repr

/-! ## Sequencer and resets -/

/-- Entry states (R363). -/
inductive EntryState where
  | off | pending | starting | on | stopping | stuck | faulted
  deriving DecidableEq, Repr

/-- One shot-list entry as the sequencer runs it, with the monitor of an external rail. -/
structure Entry where
  st : EntryState
  prev : EntryState
  cause : Nat
  failCause : Nat
  forced : Bool
  nodis : Bool
  enlatch : Bool
  heldOff : Bool
  /-- The stop under way was caused by a failure or a cut (R364). -/
  stopFail : Bool
  /-- Reading at the start of the stop: VMON code, or the loop's telemetry conversion (R366). -/
  vStop : Nat
  /-- Latest VMON conversion code (R362). -/
  vmon : Nat
  /-- VMON code at the last entry to STARTING (R368). -/
  prebias : Nat
  wrnOv : Bool
  wrnUv : Bool
  /-- A transition of the running RAIL request includes the entry (R383). -/
  inRail : Bool
  deriving DecidableEq, Repr

/-- Sequencer states (R369). -/
inductive SeqState where
  | idle | wrap | take | hold | retry | stalled | rail
  deriving DecidableEq, Repr

/-- Single-rail operations (SEQ_RAILREQ.OP, R383). -/
inductive RailOp where
  | on | softOff | immOff | clear
  deriving DecidableEq, Repr

/-- The sequencer. -/
structure Seq where
  st : SeqState
  /-- RETRY: the wrap is over and RETRY_DLY runs (R378). -/
  waiting : Bool
  /-- RAIL: the request takes (true) or wraps (false) its entries. -/
  railOn : Bool
  cur : Nat
  tgt : Nat
  step : Nat
  takes : Nat
  rank : Nat
  reqres : Nat
  result : Nat
  latched : Option (Nat × Nat)
  held : List (RailOp × Nat)
  /-- The running transition was started as a fail scene (R380). -/
  isFail : Bool
  flagged : Bool
  lastFail : Word
  lastFailTs : Word
  deriving DecidableEq, Repr

/-- The reset lines: who asserts each, the pins, and the stretches (R392, R393). -/
structure Rso where
  seqMask : BitVec 32
  fault : BitVec 32
  wdt : BitVec 32
  /-- Lines that some source asserted at the last look. -/
  src : BitVec 32
  pin : BitVec 32
  str : BitVec 32
  /-- The polarity retention cells of R58, in the HV domain. -/
  pol : BitVec 32
  deriving DecidableEq, Repr
/-! ## Temperature channels -/

/-- Channel states (R486). -/
inductive ChanState where
  | absent | valid | hold | standin | novalue
  deriving DecidableEq, Repr

/-- One of the four limits of a channel: whether it is reached, and the running count of R484. -/
structure LimitCount where
  reached : Bool
  cnt : Nat
  deriving DecidableEq, Repr

/-- One temperature channel; temperatures in 0.0625 °C units. -/
structure Chan where
  st : ChanState
  /-- Reported value, or the last VALID value in HOLD. -/
  val : Int
  /-- The latest sample: none when it was out of range. -/
  latest : Option Int
  /-- The THM_BROKENw bit. -/
  broken : Bool
  /-- The break was a plausibility break (R488). -/
  plaus : Bool
  outCnt : Nat
  inCnt : Nat
  xCnt : Nat
  fast : Bool
  leaveCnt : Nat
  sfault : Bool
  /-- SI_OFS as of the channel's latest sample, 0.0625 °C units (R496). -/
  siHeld : Int
  /-- FLT_HI, WRN_HI, WRN_LO, FLT_LO, in this order. -/
  limits : Vector LimitCount 4
  deriving DecidableEq, Repr

/-- The thermal block. -/
structure Thermal where
  chan : Vector Chan 88
  /-- Number of the next scan frame (R482). -/
  frame : Nat
  /-- FRAC in force and I_DER per loop (R494). -/
  frac : Vector Nat 16
  iDer : Vector Nat 16
  deriving DecidableEq, Repr

/-! ## Fault collector -/

/-- The fault collector; its reaction and group words are stored registers. -/
structure Flt where
  /-- The 1.30 ms event has passed (R500). -/
  judging : Bool
  stat : BitVec 64
  /-- The error lines as last judged. -/
  line : BitVec 64
  /-- Unmasked PAGE_ERR of every page as last judged (R504). -/
  seen : Vector Word 256
  first : Word
  firstTs : Nat
  number : Nat
  records : Nat
  /-- History records, word by word (R507). -/
  hist : Vector (Vector Word 4) 32
  histNext : Nat
  histCount : Nat
  wrapped : Bool
  seq : Nat
  cnt : Vector Nat 64
  efi : BitVec 8
  /-- The INJECT line, asserted for one FAB cycle. -/
  inject : Bool
  /-- VAO was lost after the 1.30 ms event (R500). -/
  aoLost : Bool
  deriving DecidableEq, Repr

/-! ## Event controller -/

/-- One event source (R545). -/
structure EvSource where
  pend : Bool
  insvc : Bool
  holder : Option (Fin 9)
  count : Nat
  ts : Nat
  payload : Word
  rr : Nat
  deriving DecidableEq, Repr

/-- One target; its control and base words are stored registers. -/
structure EvTarget where
  rd : Nat
  wr : Nat
  seq : Nat
  wfault : Bool
  lost : Bool
  deriving DecidableEq, Repr

/-- The event controller. -/
structure Evc where
  src : Vector EvSource 256
  tgt : Vector EvTarget 9
  deriving DecidableEq, Repr

/-! ## Watchdogs -/

/-- Watchdog states (R531). -/
inductive WdtState where
  | disarmed | run | warn | tripped
  deriving DecidableEq, Repr

/-- One watchdog. -/
structure Wdt where
  st : WdtState
  prev : WdtState
  tick : Nat
  /-- The window has been served in this tick (R523, R524). -/
  served : Bool
  wcnt : Nat
  done : BitVec 16
  dup : Bool
  answered : Bool
  chal : BitVec 16
  fallback : Bool
  /-- The instance's own LFSR (R44, R528). -/
  lfsr : BitVec 16
  queue : List (BitVec 16)
  armlatch : Bool
  /-- The ticks of HOLD that have passed in TRIPPED (R531). -/
  hold : Nat
  /-- WIN, CFG and SEED as the running window uses them (R540). -/
  win : Word
  cfg : Word
  seed : BitVec 16
  /-- SEED as written. -/
  seedReg : BitVec 16
  exprec : Word
  expWcnt : Nat
  trips : Nat
  warns : Nat
  deriving DecidableEq, Repr

/-! ## Hold-up path, charger and gauge -/

/-- Power-path states (R409). -/
inductive PathState where
  | detect | nopack | standby | charge | share | handover | batt | returning | inhibit | empty
  deriving DecidableEq, Repr

/-- What the four HUP_PWM legs do (R409, R415). -/
inductive Legs where
  | hiz | ready | charging | sharing | startPulse | holding | emulating
  deriving DecidableEq, Repr

/-- The power path. -/
structure Hup where
  st : PathState
  prev : PathState
  /-- PAGE_CTL.ENABLE as it acts (R413). -/
  en : Bool
  /-- A write of 0 to ENABLE waits (R413). -/
  enHeld : Bool
  /-- PACK_PRESENT. -/
  present : Bool
  cls : Nat
  meas : HupMeas
  /-- The level of the filtered sag comparator. -/
  sag : Bool
  sagNoho : Bool
  /-- Inhibit cause 4, and that ENABLE has been written 0 since (R412). -/
  convFault : Bool
  convAck : Bool
  /-- Inhibit cause 2 with its 5 °C of hysteresis. -/
  hot : Bool
  /-- INHIBIT was entered from HANDOVER or BATT (R409). -/
  srcHiz : Bool
  legs : Legs
  /-- Length of the start pulse, ns (R415). -/
  tStart : Nat
  rsvLow : Bool
  qualifying : Bool
  /-- ADC-cycle count at which the qualification timer started. -/
  qualStart : Nat
  srcInWin : Bool
  /-- The hold latches of R57 in the HV domain; none is high impedance. -/
  srcHold : Option Bool
  batHold : Option Bool
  deriving DecidableEq, Repr

/-- Charger states (R430). -/
inductive ChgState where
  | off | qual | prechg | cc | cv | done | draining | fault | suspend
  deriving DecidableEq, Repr

/-- The charger; its command and configuration are stored registers. -/
structure Chg where
  st : ChgState
  prev : ChgState
  fallback : Bool
  /-- The safe charge command acts until the next write of HUP_CHGCMD (R122). -/
  safe : Bool
  latched : Bool
  band : Nat
  /-- The ceiling of R406, 0.125 A units, while it acts. -/
  throttle : Option Nat
  deriving DecidableEq, Repr

/-- Gauge states (R469). -/
inductive GauState where
  | notRestored | seeking | counting | starved | nopack
  deriving DecidableEq, Repr

/-- A commit on its way (R464): the words it will write, and the slot. -/
structure GauCommit where
  slotB : Bool
  fcc : Nat
  cycles : Nat
  seq : Nat
  deriving DecidableEq, Repr

/-- The gauge: its registers, all in the AO domain, and what the core keeps of the estimate. Charges states in 0.01 %. -/
structure Gauge where
  st : GauState
  prev : GauState
  acc : Nat
  abs : Nat
  age : Nat
  hibt : Nat
  restS : Nat
  vOcv : Nat
  vShunt : Int
  vPack : Nat
  ocvReady : Bool
  flat : Bool
  slotB : Bool
  packChanged : Bool
  commitFail : Bool
  starved : Bool
  conf : Nat
  soc : Nat
  u : Nat
  commits : Nat
  commit : Option GauCommit
  unloadWait : Bool
  result : Nat
  accepted : Nat
  rejected : Nat
  fccC : Nat
  /-- The AO domain was in HIBERNATE before the latest access. -/
  wasHib : Bool
  /-- The charger entered DONE from CV since the last update (R452). -/
  fullPoint : Bool
  soc0 : Rat
  u0 : Rat
  acc0 : Nat
  vRc : Rat
  fcc : Nat
  /-- Accumulator and SoC of the last accepted anchor, while a learning span may start there (R462). -/
  spanStart : Option (Nat × Rat)
  /-- The read buffer of R477: ACC_HI, ABS_LO, ABS_HI, AGE, HIBT. -/
  buf : Vector Word 5
  deriving DecidableEq, Repr

/-- The always-on domain outside the gauge. -/
structure AoDomain where
  /-- GLB_RSTCAUSE, GLB_BOOTCNT and the clock-failure flag of R37. -/
  rstCause : Word
  bootCount : Nat
  clkFail : Bool
  /-- ACTIVE, not HIBERNATE (R105). -/
  active : Bool
  /-- A trim has been applied to the RC oscillator, and its code (CLK_STAT). -/
  trimmed : Bool
  rcTrim : Nat
  /-- ADC-cycle times since FIRST and since WDT_INST loaded, saturating at 13: 100 ns have passed (R87). -/
  firstAge : Nat
  instAge : Nat
  deriving DecidableEq, Repr

/-! ## DMA rings and address translation -/

/-- Ring states (R589). -/
inductive RingState where
  | disabled | idle | fetch | active | waitreq | draining | paused | pausedFault | pausedErr
  deriving DecidableEq, Repr

/-- A translation fault: device address, cause code and direction (RING_FADDR). -/
structure XltFault where
  addr : Nat
  cause : Nat
  wr : Bool
  deriving DecidableEq, Repr

/-- A burst in progress: its length, the bytes it may move before a translation fault, the host bus addresses of the pages it
looked up (source pages by device page number, and the destination), and the fault it will end with. -/
structure Burst where
  len : Nat
  limit : Nat
  srcHost : List (Nat × Nat)
  dstHost : Option Nat
  fault : Option XltFault
  deriving DecidableEq, Repr

/-- What a latched ENLATCH will do (R595). -/
inductive RingLatch where
  | enable (who : Nat) | resume (who : Nat)
  deriving DecidableEq, Repr

/-- One ring; its configuration words are stored registers. -/
structure Ring where
  st : RingState
  prev : RingState
  head : Nat
  offset : Nat
  db : Bool
  latch : Option RingLatch
  sw : Bool
  lease : Bool
  host : Bool
  fault : Bool
  err : Bool
  /-- RESULT of the latest fault or error (R573). -/
  res : Nat
  lastRes : Nat
  /-- Requester code of RING_STAT.XCTX. -/
  xctx : Nat
  done : Nat
  faddrLo : Word
  faddrHi : Word
  /-- Bucket level in 1/16 bytes. -/
  tokens : Nat
  desc : Vector Word 8
  /-- A descriptor is loaded: the ring was in ACTIVE or WAITREQ since its last fetch (R593). -/
  work : Bool
  reading : Bool
  burst : Option Burst
  srst : Bool
  /-- Rings whose bursts must end before the first burst of a FENCE descriptor (R574). -/
  fence : BitVec 32
  /-- The requester code of the context whose end set LEASE last (R146, R590). -/
  leaseOf : Nat
  deriving DecidableEq, Repr

/-- The window table's registers outside the table. -/
structure Xlt where
  /-- XLT_TBANK of every requester code (R114). -/
  bank : Vector Bool 16
  /-- Word 1 held for every requester code (R601). -/
  held : Vector (Option Word) 16
  /-- Rings whose bursts the running synchronisation waits for (R604). -/
  sync : Option (BitVec 32)
  finfo : Word
  faddrLo : Word
  faddrHi : Word
  fcount : Nat
  deriving DecidableEq, Repr

/-- The engine: the table, the rings, and for each class the ring that started last. -/
structure Dma where
  ring : Vector Ring 32
  lastStart : Vector Nat 4
  xlt : Xlt
  deriving DecidableEq, Repr

/-! ## Telemetry, counters and synchronisation -/

/-- A stream channel. -/
structure StreamChan where
  /-- The FIFO, 32 bytes a record, oldest first. -/
  fifo : List Byte
  seq : Nat
  drops : Nat
  gap : Bool
  deriving DecidableEq, Repr

/-- Rushes states (R656). -/
inductive RushState where
  | recording | triggered | frozen
  deriving DecidableEq, Repr

/-- The rushes, except the RAM. -/
structure Rushes where
  st : RushState
  next : Nat
  wrapped : Bool
  mark : Nat
  /-- Records still to follow the marker. -/
  left : Nat
  /-- Entries written since the rushes were last empty, saturating at 8,192. -/
  used : Nat
  seq : Nat
  deriving DecidableEq, Repr

/-- What the hardware counts for the daily record of a loop. -/
structure DailyLoop where
  cues : Nat
  phFails : Nat
  faults : Nat
  leastN : Nat
  deriving DecidableEq, Repr

/-- What the hardware counts for the device's daily record. -/
structure DailyDev where
  incidents : Nat
  handovers : Nat
  warnings : Nat
  claps : Nat
  firstClass : Option Nat
  steps : Nat
  drops : Nat
  deriving DecidableEq, Repr

/-- A period that has ended and whose records are not written yet (R630, R631). -/
structure DailyClosed where
  ts : Nat
  periods : Nat
  meas : Vector DailyMeas 16
  loops : Vector DailyLoop 16
  dev : DailyDev
  battSecs : Nat
  deriving DecidableEq, Repr

/-- Telemetry. -/
structure Tlm where
  lavg : Vector Word 16
  lpt : Vector Word 16
  lpeak : Vector Word 16
  lipeak : Vector Word 16
  pavg : Vector Word 64
  ppeak : Vector Word 64
  /-- V avg, I avg and P avg of the latest 1 ms window, for PMBus. -/
  pm : Vector (Nat × Nat × Nat) 16
  sch : Vector StreamChan 8
  rush : Rushes
  dailyLoop : Vector DailyLoop 16
  dailyDev : DailyDev
  closed : Option DailyClosed
  dSeq : Nat
  dLate : Nat
  dNext : Nat
  /-- Energy and charge accumulators (R647). -/
  energy : Vector Nat 16
  charge : Vector Nat 16
  phCharge : Vector Nat 64
  deriving DecidableEq, Repr

/-- A read buffer of a performance counter (R635). -/
structure PmcBuf where
  ctr : Nat
  hi : Word
  pair : Option (Word × Word)
  deriving DecidableEq, Repr

/-- The performance counters; PMC_CTL and PMC_SELc are stored registers. -/
structure Pmc where
  ctr : Vector Nat 64
  ovf : BitVec 64
  /-- One read buffer a requester code. -/
  buf : Vector (Option PmcBuf) 16
  /-- The slots of the wheel that commands have used and that the wheel has not passed yet, and the swaps whose SERVICE slot is to come (R259,
  R262). -/
  slotUsed : BitVec 128
  service : Nat
  deriving DecidableEq, Repr

/-- Discipline states (R651). -/
inductive DiscState where
  | free | acquire | locked | holdover
  deriving DecidableEq, Repr

/-- Claps, the slate and the time discipline; the configuration words are stored registers. -/
structure Syn where
  st : DiscState
  /-- Consecutive frames within STEP_THR in ACQUIRE. -/
  good : Nat
  /-- Counts still to hold back after a backward step, and still to slew. -/
  hold : Nat
  slew : Int
  terr : Int
  lastClap : Nat
  codeErrs : Nat
  tsteps : Nat
  /-- A clap frame is being received. -/
  rxBusy : Bool
  fine : Nat
  hidden : Option (Vector Word 328)
  slate : Vector Word 328
  slates : Nat
  snapWait : Bool
  /-- ADC-cycle count at the start of the latest driven frame. -/
  txAt : Option Nat
  /-- Timestamp [63:32] as read last by every requester code (R613). -/
  tsBuf : Vector Word 16
  /-- The timestamp at the end of the ADC cycle before this one, and the ADC cycle of the latest valid time frame (R615, R651). -/
  tsPrev : Nat
  frameAt : Nat
  deriving DecidableEq, Repr

/-! ## One-time-programmable memory and the core's patches -/

/-- The array (R657): for every physical word the bits that read 1 at M0 and at M1. A bit is unprogrammed, weak (M0 only) or of full
margin (both); the normal read of a weak bit is open (R659). Words not listed are 0. -/
structure OtpArray where
  m0 : Store
  m1 : Store
  deriving DecidableEq, Repr

/-- The operations of R677. -/
inductive OtpKind where
  | program | topup | seal | blow | verify
  deriving DecidableEq, Repr

/-- An operation that has been accepted (R676). -/
structure OtpRun where
  kind : OtpKind
  /-- Logical word, generation and fuse of the operation, as PADDR gave them, with the data and NOCHK. -/
  word : Nat
  gen : Nat
  data : Word
  noChk : Bool
  /-- It has started; otherwise it waits for the array (R684). -/
  started : Bool
  /-- Physical word and bit of every pulse target still to be completed, the one in work first (R679). -/
  todo : List (Nat × Nat)
  /-- Pulses given to the first target. -/
  tries : Nat
  pulsing : Bool
  /-- It ends with ABORTED after the pulse in progress (R682). -/
  stop : Bool
  deriving DecidableEq, Repr

/-- The OTP controller; PCFG, PADDR, PDATA and RADDR are stored registers. -/
structure Otp where
  /-- TRIM_SEAL as read at 150 µs (R663). -/
  trimSeal : Bool
  drift : Bool
  scanning : Bool
  /-- DIE_MAX at the start of the last scan, °C. -/
  tScan : Int
  nMarg : Nat
  marg : Vector Word 32
  jtagLock : Bool
  progLock : Bool
  /-- GEN_SEAL as sampled at boot (R663). -/
  genSeal : BitVec 4
  /-- State of R667 of generations 0 to 4. -/
  gens : Vector Nat 5
  /-- The logical words at the boot scan (R661). -/
  bootVal : Store
  scanDue : Bool
  run : Option OtpRun
  result : Nat
  failBit : Nat
  pulses : Nat
  readDue : Option Nat
  reading : Option Nat
  rNorm : Word
  rM0 : Word
  rM1 : Word
  reloadDue : Bool
  rldResult : Nat
  rldGen : Nat
  rldWrites : Nat
  ldWrites : Nat
  ldIgnored : Nat
  deriving DecidableEq, Repr

/-- The core's control page, its comparators and the code words in its patch area (R671 to R673, R687). -/
structure Hkc where
  restarts : Nat
  skipped : Bool
  dup : Bool
  /-- ROM byte address and replacement word of each enabled comparator. -/
  cmp : Vector (Option (Nat × Word)) 64
  code : List Word
  deriving DecidableEq, Repr

/-! ## Claims and the stores of the call sheet -/

/-- A latched claim request (R141): the page and the context. -/
structure ClaimReq where
  page : Fin 256
  ctx : Fin 8
  deriving DecidableEq, Repr

/-- The claim arbiter (R141 to R145). -/
structure Claims where
  ptr : Nat
  reqs : List ClaimReq
  /-- Pages whose owner wrote RELEASE since the last round. -/
  frees : List (Fin 256)
  deriving DecidableEq, Repr


structure Device where
  regs : Store
  ram : Memory
  hdr : Vector PageHdr 256
  boot : Boot
  ctx : Vector Ctx 8
  phase : Vector Phase 64
  loop : Vector Loop 16
  entry : Vector Entry 128
  seq : Seq
  rso : Rso
  thm : Thermal
  flt : Flt
  evc : Evc
  wdt : Vector Wdt 9
  hup : Hup
  chg : Chg
  gau : Gauge
  ao : AoDomain
  dma : Dma
  tlm : Tlm
  pmc : Pmc
  syn : Syn
  pcie : Pcie
  i3c : Vector I3cPort 2
  spi : SpiPort
  otp : Otp
  hkc : Hkc
  claims : Claims
  /-- HCX_OPENRES of every host port. -/
  openRes : Vector Word 4
  /-- The safe-value store (R122). -/
  safe : Store
  /-- The register words that the call sheet left, for the soft resets that reload them. -/
  sheet : Store
  cntSeq : Word
  ts : Nat
  cycle : Nat
  freeCount : Nat
  out : List Outgoing
  deriving DecidableEq, Repr

/-- The whole state: the device, the one-time-programmable array, and the commands that wait, first in, first out. -/
structure State where
  dev : Device
  fuses : OtpArray
  pending : List Instr
  deriving DecidableEq, Repr

/-- Why a command stops the machine. -/
inductive Fault where
  /-- Raised by no command: every command of the table has an effect in every state. Safe. -/
  | noFault
  deriving DecidableEq, Repr

/-- Why a command has no meaning. -/
inductive Refusal where
  /-- Raised only by an arm of exec whose command has no meaning yet. Safe: the machine stops. -/
  | notModelled (mnemonic : String)
  deriving DecidableEq, Repr

/-! ## The state after reset -/

/-- A limit that is not reached. -/
def limit0 : LimitCount := { reached := false, cnt := 0 }

/-- A channel in ABSENT: nothing of its earlier state is kept (R481). -/
def chan0 : Chan :=
  { st := .absent, val := 0, latest := none, broken := false, plaus := false, outCnt := 0, inCnt := 0, xCnt := 0
    fast := false, leaveCnt := 0, sfault := false, siHeld := 0, limits := Vector.replicate 4 limit0 }

/-- The counts of a daily period that begins. -/
def dailyLoop0 : DailyLoop := { cues := 0, phFails := 0, faults := 0, leastN := 255 }
def dailyDev0 : DailyDev := { incidents := 0, handovers := 0, warnings := 0, claps := 0, firstClass := none, steps := 0, drops := 0 }

/-- The header of page p at device reset, before the call sheet. Ring pages are EXCLUSIVE and page 0x05C belongs to the core (R131). -/
def hdr0 (p : Nat) : PageHdr :=
  { ctl := 0, srst := false, err := 0, errMask := 0x0000000F, expiry := .keep
    mode := if 0x080 ≤ p ∧ p ≤ 0x09F then .exclusive else .free
    owner := if p = 0x05C then some .core else none
    lockOtp := false, lockAdmin := false, freezer := none, frozen := []
    prev := 0, cur := 0, cause := 0, byCode := 0xF, entry := 0, count := 0 }

/-- A phase at device reset: OFF, without a loop (PHSk_STAT, PHSk_CONT). -/
def phase0 : Phase :=
  { st := .off, prev := .unpop, own := none, failCause := 0, joinLatched := false, lrange := false, dlcal := false
    slopeHold := false, ilim := false, dmaxHit := false, slot := none, edge := 0, raw := 0, cur := 0, lLrn := 0, sf := 0
    ramp := 0, coarse := false, dac := 0, ton := 0, pulse := .z, dest := .off, drainPer := 0, joinCyc := 0
    lendReq := false, lendFrom := none, addReq := false, mapHeld := false, iBal := 0, iMean := 0, curSum := 0, curCnt := 0
    edgeDue := false, edgeLate := 0, onlyPulse := false, offAge := 256, perDone := false
    openCnt := 0, modelCnt := 0, ocfCnt := 0, rangeCnt := 0, lOut := 0, lIn := 0, tmonHigh := false, contCause := 0, contBy := 0, contCount := 0, entry := 0 }

/-- A loop at device reset: OFF. -/
def loop0 : Loop :=
  { st := .off, prev := .off, cause := 0, en := false, enLatched := false, vPb := 0, vSs := 0, vRef := 0, vTarget := 0, vLift := 0
    liftFall := false, integ := 0, y1 := 0, y2 := 0, ePrev := 0, iCmd := 0, iLl := 0
    sense := { ov := false, raw := 0, vs := 0, iOut := 0 }
    err := 0, sat := false, ssDone := false, pgCnt := 0, ssShort := 0, pending := false, swaps := 0, period := 0, shedCnt := 0
    replace := 0, liveBefore := 0, flt := 0, first := 0xF, cbCount := 0, fltTs := 0, lendResult := .none, lendPhase := 0, lendDest := 0
    lendPeriods := 0, lends := 0, lendStart := 0, cueCount := 0, cueLast := 0, cueActive := false, cueAt := none, cueSeen := false
    nAct := 0, iPer := [], perPos := 0, oldCfg := [], ovCnt := 0, uvCnt := 0, ocCnt := 0, relCnt := 0, pbSum := 0, pbCnt := 0
    safeWait := false, oper := 0 }

/-- A shot-list entry at device reset: OFF. -/
def entry0 : Entry :=
  { st := .off, prev := .off, cause := 0, failCause := 0, forced := false, nodis := false, enlatch := false, heldOff := false
    stopFail := false, vStop := 0, vmon := 0, prebias := 0, wrnOv := false, wrnUv := false, inRail := false }

/-- The sequencer at device reset: IDLE in scene 0. -/
def seq0 : Seq :=
  { st := .idle, waiting := false, railOn := false, cur := 0, tgt := 0, step := 0, takes := 0, rank := 1, reqres := 0, result := 0
    latched := none, held := [], isFail := false, flagged := false, lastFail := 0, lastFailTs := 0 }

/-- A watchdog at device reset: DISARMED (R98). -/
def wdt0 : Wdt :=
  { st := .disarmed, prev := .disarmed, tick := 0, served := false, wcnt := 0, done := 0, dup := false, answered := false, chal := 0
    fallback := false, lfsr := 1, queue := [], armlatch := false, hold := 0, win := 0, cfg := 0, seed := 0, seedReg := 0, exprec := 0, expWcnt := 0
    trips := 0, warns := 0 }

/-- An event source and a target at device reset. -/
def source0 : EvSource := { pend := false, insvc := false, holder := none, count := 0, ts := 0, payload := 0, rr := 0 }
def target0 : EvTarget := { rd := 0, wr := 0, seq := 0, wfault := false, lost := false }

/-- A ring at device reset: DISABLED, with a full bucket (R588). -/
def ring0 : Ring :=
  { st := .disabled, prev := .disabled, head := 0, offset := 0, db := false, latch := none, sw := false, lease := false, host := false
    fault := false, err := false, res := 0, lastRes := 0, xctx := 0xF, done := 0, faddrLo := 0, faddrHi := 0, tokens := 4096
    desc := Vector.replicate 8 0, work := false, reading := false, burst := none, srst := false, fence := 0, leaseOf := 0xF }

/-- The engine and the window table at device reset. -/
def dma0 : Dma :=
  { ring := Vector.replicate 32 ring0, lastStart := Vector.replicate 4 31
    xlt := { bank := Vector.replicate 16 false, held := Vector.replicate 16 none, sync := none, finfo := 0, faddrLo := 0, faddrHi := 0
             fcount := 0 } }

/-- Telemetry at device reset. The peak registers start cleared (R620). -/
def tlm0 : Tlm :=
  { lavg := Vector.replicate 16 0, lpt := Vector.replicate 16 0, lpeak := Vector.replicate 16 0xFFFF0000
    lipeak := Vector.replicate 16 0, pavg := Vector.replicate 64 0, ppeak := Vector.replicate 64 0x7FFF8000
    pm := Vector.replicate 16 (0, 0, 0)
    sch := Vector.replicate 8 { fifo := [], seq := 0, drops := 0, gap := false }
    rush := { st := .recording, next := 0, wrapped := false, mark := 0, left := 0, used := 0, seq := 0 }
    dailyLoop := Vector.replicate 16 dailyLoop0, dailyDev := dailyDev0, closed := none, dSeq := 0, dLate := 0, dNext := 0
    energy := Vector.replicate 16 0, charge := Vector.replicate 16 0, phCharge := Vector.replicate 64 0 }

/-- Synchronisation at device reset. -/
def syn0 : Syn :=
  { st := .free, good := 0, hold := 0, slew := 0, terr := 0, lastClap := 0, codeErrs := 0, tsteps := 0, rxBusy := false, fine := 0
    hidden := none, slate := Vector.replicate 328 0, slates := 0, snapWait := false, txAt := none, tsBuf := Vector.replicate 16 0
    tsPrev := 0, frameAt := 0 }

/-- The power path at device reset: DETECT, with no hold in the ORing latches unless they kept one (R57). -/
def hup0 (src bat : Option Bool) : Hup :=
  { st := .detect, prev := .detect, en := false, enHeld := false, present := false, cls := 0
    meas := { vbus := 0, vpack := 0, isrc := 0, ibat := 0 }
    sag := false, sagNoho := false, convFault := false, convAck := false, hot := false, srcHiz := false, legs := .hiz, tStart := 0
    rsvLow := false, qualifying := false, qualStart := 0, srcInWin := false, srcHold := src, batHold := bat }

/-- The charger at device reset: OFF. -/
def chg0 : Chg := { st := .off, prev := .off, fallback := false, safe := false, latched := false, band := 0, throttle := none }

/-- The gauge at VAO POR: NOT_RESTORED (R108). -/
def gauge0 : Gauge :=
  { st := .notRestored, prev := .notRestored, acc := 0, abs := 0, age := 0, hibt := 0, restS := 0, vOcv := 0, vShunt := 0, vPack := 0
    ocvReady := false, flat := false, slotB := false, packChanged := false, commitFail := false, starved := false, conf := 0
    soc := 0xFFFF, u := 0xFFFF, commits := 0, commit := none, unloadWait := false, result := 0, accepted := 0, rejected := 0, fccC := 0
    wasHib := false, fullPoint := false, soc0 := 0, u0 := 0, acc0 := 0, vRc := 0, fcc := 0, spanStart := none
    buf := Vector.replicate 5 0 }

/-- The always-on domain at VAO POR (GLB_RSTCAUSE, CLK_STAT). -/
def ao0 : AoDomain :=
  { rstCause := 0x10000001, bootCount := 0, clkFail := false, active := false, trimmed := false, rcTrim := 0, firstAge := 13, instAge := 13 }

/-- The OTP controller and the core's page at device reset. DESIGN CHOICE (log entry 115): the fuses of R663 read 0 until their sample, so the
debug bridge of R197 is open until then. -/
def otp0 : Otp :=
  { trimSeal := false, drift := false, scanning := false, tScan := 0, nMarg := 0, marg := Vector.replicate 32 0, jtagLock := false
    progLock := false, genSeal := 0, gens := Vector.replicate 5 0, bootVal := [], scanDue := false, run := none, result := 0
    failBit := 0, pulses := 0, readDue := none, reading := none, rNorm := 0, rM0 := 0, rM1 := 0, reloadDue := false, rldResult := 0
    rldGen := 0, rldWrites := 0, ldWrites := 0, ldIgnored := 0 }
def hkc0 : Hkc := { restarts := 0, skipped := false, dup := false, cmp := Vector.replicate 64 none, code := [] }

/-- A port at its reset (R176, R184, R185): modeCfg and static are those in force. -/
def i3c0 (modeCfg : Nat) (static : BitVec 7) : I3cPort :=
  { mode := if modeCfg = 1 then .i3c else if modeCfg = 3 then .disabled else .smbus
    modeCfg := modeCfg, static := static, dyn := none, mwl := 38, mrl := 34, intEn := true, hjEn := true, hdr := false
    rstAct := 0, ibiMap := 0, ibiWait := false, hjDone := false, lastWr := 0, rsp := none, reply := [], acked := false, pmPage := 0
    cml := 0, pmCtx := none }

/-- The endpoint in reset (R86): every vector masked. -/
def pcie0 (perstLow : Bool) : Pcie :=
  { perstLow := perstLow, linkUp := false, d3hot := false, msixEn := false, funcMask := false, vecMask := 0xFFFF, pending := 0
    aerCa := false, cpl := .none, data := [], cfg := [], table := [] }

/-- A context in FREE. -/
def ctx0 (endCode : Nat) : Ctx :=
  { st := .free, nonce := 0, port := .pcie, priv := .observer, pmcUser := false, endCode := endCode, leaseMs := 0, loaded := 0, renewed := 0
    smbus := false }

/-- The supplies all above their thresholds, or none. -/
def supplies0 : Supplies := { ao := true, hv := true, io := true, ana := true, core := true, pcie := true }

/-- Boot state while device reset is held (R84). -/
def boot0 (up : Supplies) : Boot :=
  { up := up, held := true, request := none, pllLock := false, clkFailed := false, tapReset := false, straps := 0, stage := 0, gen := 7
    marginal := false, patchSkipped := false, trimDefault := false, anaTrim := Vector.replicate 6 0, trimJudged := false, autoRun := false, autoBlocked := false, firstScan := false
    coreUp := false, coreRestarting := false, xfreq := 0, aoLoss := 0, pcieLoss := 0, perst := 0 }

/-- The device in device reset with both I3C straps low: everything outside the AO domain and the HV latches at its reset value. -/
def device0 : Device :=
  { regs := [], ram := [], hdr := Vector.ofFn fun p => hdr0 p.val, boot := boot0 supplies0, ctx := Vector.replicate 8 (ctx0 0)
    phase := Vector.replicate 64 phase0, loop := Vector.replicate 16 loop0, entry := Vector.replicate 128 entry0, seq := seq0
    rso := { seqMask := 0xFFFFFFFF, fault := 0, wdt := 0, src := 0xFFFFFFFF, pin := 0xFFFFFFFF, str := 0, pol := 0 }
    thm := { chan := Vector.replicate 88 chan0, frame := 0, frac := Vector.replicate 16 256, iDer := Vector.replicate 16 0 }
    flt := { judging := false, stat := 0, line := 0, seen := Vector.replicate 256 0, first := 0, firstTs := 0, number := 0, records := 0
             hist := Vector.replicate 32 (Vector.replicate 4 0), histNext := 0, histCount := 0, wrapped := false, seq := 0
             cnt := Vector.replicate 64 0, efi := 0, inject := false, aoLost := false }
    evc := { src := Vector.replicate 256 source0, tgt := Vector.replicate 9 target0 }
    wdt := Vector.replicate 9 wdt0, hup := hup0 none none, chg := chg0, gau := gauge0, ao := ao0, dma := dma0, tlm := tlm0
    pmc := { ctr := Vector.replicate 64 0, ovf := 0, buf := Vector.replicate 16 none, slotUsed := 0, service := 0 }
    syn := syn0, pcie := pcie0 false, i3c := Vector.ofFn fun p => i3c0 0 (BitVec.ofNat 7 (0x30 + p.val))
    spi := { enabled := true, lastWr := 0, rsp := none }
    otp := otp0, hkc := hkc0, claims := { ptr := 0, reqs := [], frees := [] }, openRes := Vector.replicate 4 0
    safe := [], sheet := [], cntSeq := 0, ts := 0, cycle := 0, freeCount := 0, out := [] }

/-- Logical words of a device as shipped (R662 to R666, R670): both seals of Elvior blown, zero trims and an empty factory generation, each with
its CRC-32. The unique identity is left 0. -/
def shippedWords : Store := [(2, 0x3), (31, 0xc2b526e7), (32, 0xCB040000), (33, 0x607644b5)]

/-- The array of a device as shipped: both copies of every word at full margin (R657, R659). -/
def shippedArray : OtpArray :=
  let w := shippedWords ++ shippedWords.map fun x => (x.1 + 512, x.2)
  { m0 := w, m1 := w }

/-- The machine right after reset: every supply is up, the device is still held in its first device reset (R27, R83), and no
command waits. -/
def State.reset : State := { dev := device0, fuses := shippedArray, pending := [] }

end Sys2Proof.Machine
end

