-- ==== Sys2Proof/Machine/Ops.lean ====
section
/-! DEFINITION. The named operations over the register store and the free values. -/

namespace Sys2Proof.Machine
open Sys2Proof

/-! ## The register store -/

/-- Reading a store: the listed word, or none. -/
def storeFind : Store → Nat → Option Word
  | [], _ => none
  | (a, w) :: r, x => if x = a then some w else storeFind r x

/-- Writing a store, keeping the canonical form: addresses strictly rising, no entry equal to the default word dflt. -/
def storeSet : Store → Nat → Word → Word → Store
  | [], x, w, dflt => if w = dflt then [] else [(x, w)]
  | (a, v) :: r, x, w, dflt =>
    if x < a then (if w = dflt then (a, v) :: r else (x, w) :: (a, v) :: r)
    else if x = a then (if w = dflt then r else (a, w) :: r)
    else (a, v) :: storeSet r x w dflt

/-- The stored word at device address a: its listed word, or the word it holds after device reset. -/
def Device.reg (d : Device) (a : Nat) : Word := (storeFind d.regs a).getD (resetWord a)

/-- The device with the stored word at address a replaced. -/
def Device.setReg (d : Device) (a : Nat) (w : Word) : Device :=
  { d with regs := storeSet d.regs a w (resetWord a) }

/-- The device with field [hi:lo] of the stored word at a replaced. -/
def Device.setRegBits (d : Device) (a hi lo v : Nat) : Device := d.setReg a (setBits (d.reg a) hi lo v)

/-- A word of the safe-value store (R122). -/
def Device.safeWord (d : Device) (a : Nat) : Word := (storeFind d.safe a).getD (resetWord a)

/-- Device address of offset o in page p (R110). -/
def pageAddr (p o : Nat) : Nat := p * 0x1000 + o

/-- A register of loop n at page offset o. -/
def Device.lreg (d : Device) (n : Fin 16) (o : Nat) : Word := d.reg (pageAddr (0x010 + n.val) o)

/-- Device address of register +o of phase k (R236). -/
def phaseAddr (k : Fin 64) (o : Nat) : Nat := pageAddr (0x020 + k.val / 8) (0x100 + 0x40 * (k.val % 8) + o)

/-- A register of phase k at register offset o. -/
def Device.preg (d : Device) (k : Fin 64) (o : Nat) : Word := d.reg (phaseAddr k o)

/-! ## The addressed RAMs

The always-on SRAM, the rushes RAM, the on-chip event rings and the core's buffers, by the device address of each byte. -/

/-- What a byte that nothing has written reads as. The spec gives the RAMs no content after power-on: DESIGN CHOICE. -/
def memDefault : Byte := 0

/-- The canonical form: addresses strictly rising, no entry equal to memDefault. -/
def Memory.wf : Memory → Bool
  | [] => true
  | [(_, b)] => b != memDefault
  | (a, b) :: (a', b') :: r => decide (a < a') && b != memDefault && Memory.wf ((a', b') :: r)

/-- The byte at address x. -/
def memRead : Memory → Nat → Byte
  | [], _ => memDefault
  | (a, b) :: r, x => if x = a then b else memRead r x

/-- The memory with the byte at x replaced, in canonical form. -/
def memWrite : Memory → Nat → Byte → Memory
  | [], x, b => if b = memDefault then [] else [(x, b)]
  | (a, c) :: r, x, b =>
    if x < a then (if b = memDefault then (a, c) :: r else (x, b) :: (a, c) :: r)
    else if x = a then (if b = memDefault then r else (a, b) :: r)
    else (a, c) :: memWrite r x b

/-- The word at byte address x, least significant byte first (R6). -/
def memWord (m : Memory) (x : Nat) : Word := bytesWord (memRead m x) (memRead m (x + 1)) (memRead m (x + 2)) (memRead m (x + 3))

/-- The memory with the word at byte address x replaced. -/
def memPut (m : Memory) (x : Nat) (w : Word) : Memory :=
  memWrite (memWrite (memWrite (memWrite m x (wordByte w 0)) (x + 1) (wordByte w 1)) (x + 2) (wordByte w 2)) (x + 3) (wordByte w 3)

/-- The word of the RAMs at device address a, and its replacement. -/
def Device.ramWord (d : Device) (a : Nat) : Word := memWord d.ram a
def Device.ramPut (d : Device) (a : Nat) (w : Word) : Device := { d with ram := memPut d.ram a w }

/-! ## Free values -/

/-- A free word for a value the spec leaves open, and the device with the draw counted. -/
def Device.draw (d : Device) : Word × Device := (Config.freeWord d.freeCount, { d with freeCount := d.freeCount + 1 })

/-- num / den rounded to nearest; exactly half way the spec fixes no direction, which stays open. -/
def roundNear (num den : Int) : Int :=
  let q := num / den
  let r := num % den
  if 2 * r < den then q else if den < 2 * r then q + 1
  else q + (if Config.halfUp num den then 1 else 0)

/-- num / den as a whole number where the spec names no rounding: the direction stays open. -/
def roundOpen (num den : Int) : Int :=
  let q := num / den
  if num % den = 0 then q else q + (if Config.roundUp num den then 1 else 0)

/-- A rational as a whole number where the spec names no rounding. -/
def ratOpen (x : Rat) : Int := roundOpen x.num x.den

/-- A rational rounded to nearest, exact halves open. -/
def ratNear (x : Rat) : Int := roundNear x.num x.den

/-- x / y, open where y is 0. -/
def ratDiv (x y : Rat) : Rat := if y = 0 then Config.divByZero x else x / y


end Sys2Proof.Machine
end

