-- ==== Sys2Proof/Machine/Flags.lean ====
section
/-! DEFINITION. Page headers, error flags, continuity records and the conditions under which the clocked logic runs. -/

namespace Sys2Proof.Machine
open Sys2Proof

/-! ## Page headers, errors and continuity -/

/-- The header of page p. -/
def Device.head (d : Device) (p : Fin 256) : PageHdr := d.hdr[p]

/-- The header of page p changed by f. -/
def Device.updHdr (d : Device) (p : Fin 256) (f : PageHdr → PageHdr) : Device := { d with hdr := upd d.hdr p f }

/-- Page number n as an index of the headers. -/
def pg (n : Nat) : Fin 256 := Fin.ofNat 256 n

/-- Set bits of PAGE_ERR of page p (R118). -/
def Device.setErr (d : Device) (p : Nat) (m : Word) : Device :=
  d.updHdr (pg p) fun h => { h with err := h.err ||| m }

/-- PAGE_ERR bits of the common header, and the first block-defined ones. -/
def errUnaligned : Word := 0x1
def errAccvio : Word := 0x2
def errOwnvio : Word := 0x4
def errLockvio : Word := 0x8
/-- Block-defined bit i of PAGE_ERR. -/
def errBit (i : Nat) : Word := BitVec.ofNat 32 (2 ^ i)

/-- Requester codes (R126). -/
def Requester.code : Requester → Nat
  | .ctx n => n.val
  | .jtag => 0xD
  | .core => 0xE
  | .anon => 0xF

/-- The hardware's BY code (R152). -/
def byHw : Nat := 0xF

/-- A state transition of page p to code c, recorded in its continuity record and counted in CNT_SEQ (R152, CNT_SEQ). -/
def Device.transition (d : Device) (p : Nat) (c cause who : Nat) : Device :=
  let h := d.head (pg p)
  let h' := { h with
    prev := h.cur, cur := c, cause := cause, byCode := who
    entry := d.ts, count := satInc 0xFFFF h.count }
  { d with hdr := upd d.hdr (pg p) (fun _ => h'), cntSeq := d.cntSeq + 1 }

/-- As transition, but only when the page's state code changes: for pages whose state is a summary of their instances. -/
def Device.syncState (d : Device) (p : Nat) (c cause who : Nat) : Device :=
  if (d.head (pg p)).cur = c then d else d.transition p c cause who

/-- Time in state in µs since timestamp e (R152). DESIGN CHOICE: it is the difference of timestamps, so a step or a hold of the timestamp
(R652) counts in it. -/
def tisMicros (ts e : Nat) : Nat := (ts + 2 ^ 64 - e) % 2 ^ 64 / 125

/-- The exponent and mantissa of R722 for t µs. -/
def tisCode (t : Nat) : Nat × Nat :=
  if t = 0 then (0, 0)
  else if 3 * 4 ^ 15 ≤ t then (15, 3)
  else
    let e := Nat.log2 t / 2
    (e, t / 4 ^ e)

/-- ADC cycles in n ns (8 ns each), rounded down. -/
def nsCycles (n : Nat) : Nat := n / 8

/-! ## Whether the clocks run -/

/-- The supplies whose loss takes the device into device reset are up (R83). -/
def Device.powered (d : Device) : Bool := d.boot.up.hv && d.boot.up.io && d.boot.up.ana && d.boot.up.core

/-- The PLL domains run: device reset is released, the PLL is locked and the device is not in the state of R36. -/
def Device.live (d : Device) : Bool := !d.boot.held && d.boot.pllLock && !d.boot.clkFailed && d.powered

/-- Apply f only while the PLL domains run. -/
def Device.whenLive (d : Device) (f : Device → Device) : Device := if d.live then f d else d

/-- A condition on the state under which an event occurs; where it does not hold the event did not occur. -/
def Device.iff (d : Device) (c : Bool) (f : Device → Device) : Device := if c then f d else d

/-- One more thing sent out. -/
def Device.send (d : Device) (o : Outgoing) : Device := { d with out := o :: d.out }

/-! ## Requested resets -/

/-- A cause of a device reset is latched in the AO domain, while that is up: bit i of GLB_RSTCAUSE and its code of FIRST. Within 100 ns of the
load of FIRST, fewer than 13 ADC-cycle times, the cause with the lower bit number, which has the lower code, replaces it (R87, R88). -/
def Device.latchCause (d : Device) (i code : Nat) : Device :=
  if d.boot.up.ao then
    let w := d.ao.rstCause
    let first := decide (bits w 8 0 = 0)
    let w := if first || decide (d.ao.firstAge < 13 ∧ code < bits w 31 28) then setBits w 31 28 code else w
    { d with ao := { d.ao with rstCause := setBit w i true, firstAge := if first then 0 else d.ao.firstAge } }
  else d

/-- Watchdog k is the instance of a watchdog device reset: WDT_INST loads while bit 6 is 0, and within 100 ns of that load the lower-numbered
instance replaces it (R87). -/
def Device.latchInst (d : Device) (k : Nat) : Device :=
  if d.boot.up.ao then
    let w := d.ao.rstCause
    let first := !bit w 6
    if first || decide (d.ao.instAge < 13 ∧ k < bits w 27 24) then
      { d with ao := { d.ao with rstCause := setBits w 27 24 k, instAge := if first then 0 else d.ao.instAge } }
    else d
  else d

/-- The cause of a requested device reset (R87, GLB_RSTCAUSE). -/
def Device.latchRequest (d : Device) (q : ResetReq) : Device :=
  match q with
  | .sw => d.latchCause 8 9
  | .jtag => d.latchCause 7 8
  | .wdt k =>
    (d.latchInst k.val).latchCause 6 7

/-- A device reset is requested (R84, R85): the first request that waits is kept. -/
def Device.requestReset (d : Device) (q : ResetReq) : Device :=
  let d := d.latchRequest q
  { d with boot := { d.boot with request := some (d.boot.request.getD q) } }

end Sys2Proof.Machine
end

