-- ==== Sys2Proof/Machine/EventsCore.lean ====
section
/-! DEFINITION. The arrival of an event at its source (R546), which every block raises. -/

namespace Sys2Proof.Machine
open Sys2Proof

/-- The configuration word of source s (R545). -/
def Device.srcWord (d : Device) (s : Fin 256) : Word := d.reg (0x120000 + 8 * s.val)

/-- PRIO of source s. -/
def Device.srcPrio (d : Device) (s : Fin 256) : Nat := bits (d.srcWord s) 3 0

/-- PAGE_STAT of page 0x060 (R567). -/
def Device.evcCode (d : Device) : Nat :=
  if d.evc.tgt.toList.any (·.wfault) then 2 else if d.evc.src.toList.any (·.pend) then 1 else 0

/-- The page state of the controller follows its sources and targets, with the cause and the requester of the change (R152, R153). -/
def Device.evcSync (d : Device) (cause : Nat := 0x02) (who : Nat := byHw) : Device := d.syncState 0x060 d.evcCode cause who

/-- Source s changed by f. -/
def Device.updSrc (d : Device) (s : Fin 256) (f : EvSource → EvSource) : Device :=
  { d with evc := { d.evc with src := upd d.evc.src s f } }

/-- An arrival at source s with payload p (R546): ignored while PRIO is 0. -/
def Device.raise (d : Device) (s : Nat) (p : Word) : Device :=
  let i : Fin 256 := Fin.ofNat 256 s
  if d.srcPrio i = 0 then d
  else (d.updSrc i fun e => { e with pend := true, count := satInc 255 e.count, ts := d.ts, payload := p }).evcSync

/-! ## What the device sends on PCIe -/

/-- The endpoint may issue requests (R48, R167, R561). -/
def Device.pcieMayIssue (d : Device) : Bool := d.boot.up.pcie && !d.pcie.perstLow && d.pcie.linkUp && !d.pcie.d3hot && !d.boot.held && !d.boot.clkFailed

/-! ## Performance counters (R633 to R638) -/

/-- PMC_CTL.RUN. -/
def Device.pmcRun (d : Device) : Bool := bit (d.reg 0x0C0040) 0

/-- PMC_SELc. -/
def Device.pmcSel (d : Device) (c : Fin 64) : Word := d.reg (0x0C0100 + 4 * c.val)

/-- Counter c is the lower half of a chained pair (R636). -/
def Device.pmcLower (d : Device) (c : Fin 64) : Bool :=
  if h : c.val % 2 = 0 then bit (d.pmcSel ⟨c.val + 1, by have := c.isLt; omega⟩) 30 else false

/-- Add n to counter c; a wrap sets its OVF bit, unless it is the lower half of a pair, and delivers source 123 (R636). Whether it wrapped. -/
def Device.pmcBump (d : Device) (c : Fin 64) (n : Nat) : Device × Bool :=
  let v := d.pmc.ctr[c] + n
  let d : Device := { d with pmc := { d.pmc with ctr := d.pmc.ctr.set c (v % 2 ^ 48) } }
  if v < 2 ^ 48 then (d, false)
  else
    let d : Device := if d.pmcLower c then d else { d with pmc := { d.pmc with ovf := d.pmc.ovf ||| BitVec.ofNat 64 (2 ^ c.val) } }
    (if bit (d.pmcSel c) 29 then d.raise 123 (BitVec.ofNat 32 c.val) else d, true)

/-- As pmcBump, with the carry into a chained counter (R636). -/
def Device.pmcAdd (d : Device) (c : Fin 64) (n : Nat) : Device :=
  let r := d.pmcBump c n
  if h : r.2 = true ∧ c.val % 2 = 0 then
    let c2 : Fin 64 := ⟨c.val + 1, by have := c.isLt; omega⟩
    if bit (d.pmcSel c2) 30 && bit (d.pmcSel c2) 31 then (r.1.pmcBump c2 1).1 else r.1
  else r.1

/-- Counter c takes event ev of instance inst in its mode (R633, R634); a chained odd counter ignores its EVENT. -/
def Device.pmcTakes (d : Device) (c : Fin 64) (ev inst : Nat) : Bool :=
  let w := d.pmcSel c
  bit w 31 && bits w 23 16 == ev && (bits w 15 8 == 0xFF || bits w 15 8 == inst) && !(c.val % 2 == 1 && bit w 30)

/-- n occurrences of counting event ev (R633 MODE 0). -/
def Device.pmcCount (d : Device) (ev inst n : Nat) : Device :=
  if d.pmcRun && decide (0 < n) then
    foldFin 64 (fun d c => if d.pmcTakes c ev inst && bits (d.pmcSel c) 27 26 == 0 then d.pmcAdd c n else d) d
  else d

/-- An event without instances: INST is ignored (R634). -/
def Device.pmcCountAll (d : Device) (ev n : Nat) : Device :=
  if d.pmcRun && decide (0 < n) then
    foldFin 64 (fun d c =>
      if d.pmcTakes c ev (bits (d.pmcSel c) 15 8) && bits (d.pmcSel c) 27 26 == 0 then d.pmcAdd c n else d) d
  else d

/-- cyc FAB cycles of an occupancy event at occupancy n (R633 MODE 1 and 2); an event without instances ignores INST (R634). -/
def Device.pmcOccupancy (d : Device) (ev : Nat) (inst : Option Nat) (n cyc : Nat) : Device :=
  if d.pmcRun then
    foldFin 64 (fun d c =>
      if d.pmcTakes c ev (inst.getD (bits (d.pmcSel c) 15 8)) then
        match bits (d.pmcSel c) 27 26 with
        | 1 => if bits (d.pmcSel c) 7 0 < n then d.pmcAdd c cyc else d
        | 2 => d.pmcAdd c (n * cyc)
        | _ => d
      else d) d
  else d

/-! ## Requests on the link -/

/-- One transaction-layer packet that the device sends by itself, counted (R638 code 0x30). -/
def Device.sendTlp (d : Device) (o : Outgoing) : Device := (d.send o).pmcCountAll 0x30 1

/-- Signal MSI-X vector v (R165, R166): lost while MSI-X Enable is 0, pending while masked; an unmasked one is lost while no request may be
issued (R167). -/
def Device.msix (d : Device) (v : Fin 16) : Device :=
  if !d.pcie.msixEn then d
  else if d.pcie.funcMask || d.pcie.vecMask.getLsbD v.val then
    { d with pcie := { d.pcie with pending := d.pcie.pending ||| BitVec.ofNat 16 (2 ^ v.val) } }
  else if d.pcieMayIssue then d.sendTlp (.msix v.val) else d

/-! ## Rushes and dailies that other blocks feed -/

/-- The telemetry record changed by f. -/
def Device.updTlm (d : Device) (f : Tlm → Tlm) : Device := { d with tlm := f d.tlm }

/-- PAGE_STAT of page 0x0B1 (R656). -/
def Device.rushCode (d : Device) : Nat :=
  if !bit (d.reg 0x0B1040) 31 then 0
  else match d.tlm.rush.st with
    | .recording => 1 | .triggered => 2 | .frozen => 3

/-- The eight words of a record in the RAM at byte address a. -/
def Device.putRecord (d : Device) (a : Nat) (ws : Vector Word 8) : Device :=
  (List.finRange 8).foldl (fun d i => d.ramPut (a + 4 * i.val) ws[i]) d

/-- One rushes record at NEXT (R625). -/
def Device.rushPut (d : Device) (ws : Vector Word 8) : Device :=
  let r := d.tlm.rush
  (d.putRecord (0x200000 + 32 * r.next) ws).updTlm fun t =>
    { t with rush := { r with next := (r.next + 1) % 8192, wrapped := r.wrapped || decide (8192 ≤ r.used)
                              used := min 8192 (r.used + 1), seq := (r.seq + 1) % 65536 } }

/-- A trigger of the rushes (R626, R627): ignored unless they record. -/
def Device.rushTrigger (d : Device) (cause detail : Nat) : Device :=
  let en := match cause with
    | 1 => bit (d.reg 0x0B1044) 16
    | 2 => bit (d.reg 0x0B1044) 17
    | 3 => bit (d.reg 0x0B1044) 18
    | _ => true
  if en && bit (d.reg 0x0B1040) 31 && d.tlm.rush.st == .recording then
    let m := d.tlm.rush.next
    let d := d.rushPut #v[BitVec.ofNat 32 d.ts, BitVec.ofNat 32 (d.ts / 2 ^ 32), field 15 8 detail ||| field 3 0 cause, 0, 0, 0,
      field 31 16 d.tlm.rush.seq, 0x10]
    let d := d.updTlm fun t => { t with rush := { t.rush with st := .triggered, mark := m, left := bits (d.reg 0x0B1044) 12 0 } }
    d.syncState 0x0B1 d.rushCode 0x11 byHw
  else d

/-- TLM_DCFG.EN. -/
def Device.dayOn (d : Device) : Bool := bit (d.reg 0x0B1080) 31

/-- The daily counts of loop n, and of the device (R629, R632). -/
def Device.dayLoop (d : Device) (n : Fin 16) (f : DailyLoop → DailyLoop) : Device :=
  if d.dayOn && bit (d.reg 0x0B1084) n.val then d.updTlm fun t => { t with dailyLoop := upd t.dailyLoop n f } else d
def Device.dayDev (d : Device) (f : DailyDev → DailyDev) : Device :=
  if d.dayOn then d.updTlm fun t => { t with dailyDev := f t.dailyDev } else d

end Sys2Proof.Machine
end

