-- ==== Sys2Proof/Machine/Phase.lean ====
section
/-! DEFINITION. The phase engine: phase states and requests (R229 to R234), the pulse (R201 to R210), the slope
learner (R211 to R218), current sensing (R219, R220) and the phase-failure conditions (R336 to R344). -/

namespace Sys2Proof.Machine
open Sys2Proof

/-! ## Plain readings of a phase -/

/-- Phase state codes (R229). -/
def PhaseState.code : PhaseState → Nat
  | .unpop => 0 | .off => 1 | .joining => 2 | .live => 3 | .draining => 4 | .parked => 5 | .handoff => 6
  | .failed => 7 | .crowbar => 8 | .forced => 9

/-- Loop state codes (R290). -/
def LoopState.code : LoopState → Nat
  | .off => 0 | .prebias => 1 | .ramp => 2 | .rampdown => 3 | .run => 4 | .draining => 5 | .faulted => 6 | .crowbar => 7

/-- A loop is regulating in RAMP, RUN and RAMPDOWN (R291). -/
def LoopState.regulating : LoopState → Bool
  | .ramp => true | .run => true | .rampdown => true | _ => false

/-- An active phase: JOINING or LIVE (before R226). -/
def PhaseState.active : PhaseState → Bool
  | .joining => true | .live => true | _ => false

/-- Phase k. -/
def Device.ph (d : Device) (k : Fin 64) : Phase := d.phase[k]

/-- Phase k changed by f. -/
def Device.updPh (d : Device) (k : Fin 64) (f : Phase → Phase) : Device := { d with phase := upd d.phase k f }

/-- Loop n. -/
def Device.lp (d : Device) (n : Fin 16) : Loop := d.loop[n]

/-- The word with which the register at offset o of loop n acts: until the next update of the loop the one it held before a write (R319). -/
def Device.leff (d : Device) (n : Fin 16) (o : Nat) : Word := (storeFind (d.lp n).oldCfg o).getD (d.lreg n o)

/-- Loop n changed by f. -/
def Device.updLp (d : Device) (n : Fin 16) (f : Loop → Loop) : Device := { d with loop := upd d.loop n f }

/-- DISABLE of PHSk_CTL. -/
def Device.phDisabled (d : Device) (k : Fin 64) : Bool := bit (d.preg k 0x18) 1

/-- POP of PHSk_MAP. -/
def Device.phPop (d : Device) (k : Fin 64) : Bool := bit (d.preg k 0x00) 8

/-- A LOOP field as an owner: 0 to 15, anything else unassigned (R223). -/
def loopOfCode (v : Nat) : Option (Fin 16) := if h : v < 16 then some ⟨v, h⟩ else none

/-- LOOP of PHSk_MAP. -/
def Device.phMap (d : Device) (k : Fin 64) : Option (Fin 16) := loopOfCode (bits (d.preg k 0x00) 4 0)

/-- The phases of loop n that satisfy c, in ascending index. -/
def Device.phasesOf (d : Device) (n : Fin 16) (c : Phase → Bool) : List (Fin 64) :=
  (List.finRange 64).filter fun k => (d.ph k).own == some n && c (d.ph k)

/-- N: the active phases of loop n (before R226). -/
def Device.activeN (d : Device) (n : Fin 16) : Nat := (d.phasesOf n (·.st.active)).length

/-- The LIVE phases of loop n. -/
def Device.liveN (d : Device) (n : Fin 16) : Nat := (d.phasesOf n (·.st == .live)).length

/-- Some phase owned by loop n is DRAINING. -/
def Device.anyDraining (d : Device) (n : Fin 16) : Bool := !(d.phasesOf n (·.st == .draining)).isEmpty

/-- The phase's current in A by R220 from one sample: OFFSET, TRIM and GAIN of PHSk_IMONCAL. -/
def Device.imonAmps (d : Device) (k : Fin 64) (x : Imon) : Rat :=
  let cal := d.preg k 0x10
  let code : Int := (min x.code 2047 : Nat) - (x.iref : Int) - sbits cal 23 16
  (code : Rat) * 625 * (1 + (sbits cal 31 24 : Rat) / 4096) / (bits cal 15 0 : Nat)

/-- Sample x is the latest of phase k (R219): an UNPOP phase takes none. -/
def Device.takeImon (d : Device) (k : Fin 64) (x : Imon) : Device :=
  if (d.ph k).st == .unpop then d
  else d.updPh k fun p => { p with raw := min x.code 2047, cur := ratOpen (d.imonAmps k x * 128) }

/-- The latest of the samples l, if there is one. -/
def Device.takeLast (d : Device) (k : Fin 64) (l : List Imon) : Device :=
  match l.getLast? with
  | some x => d.takeImon k x
  | none => d

/-- The mean of a list, 0 for none. -/
def meanRat (l : List Rat) : Rat := if l.isEmpty then 0 else l.sum / l.length

/-- The current of phase k averaged over the last 8 of the samples that l lists for it, or the current it holds (R251). -/
def Device.imonMean (d : Device) (k : Fin 64) (l : List (Fin 64 × List Imon)) : Rat :=
  match l.find? fun x => x.1 == k && !x.2.isEmpty with
  | some x => meanRat ((x.2.drop (x.2.length - 8)).map (d.imonAmps k))
  | none => (d.ph k).cur / (128 : Rat)

/-- I_OUT of loop n in 1/1024 A: the sum over its active phases (R251). -/
def Device.iOutOf (d : Device) (n : Fin 16) (l : List (Fin 64 × List Imon)) : Int :=
  ratOpen (1024 * ((d.phasesOf n (·.st.active)).map fun k => d.imonMean k l).sum)

/-- The samples of a step: the latest of each phase, the latest telemetry conversion of loop n, and its I_OUT. -/
def Device.takeSamples (d : Device) (n : Fin 16) (x : LoopSamples) : Device :=
  let i := d.iOutOf n x.imon
  (x.imon.foldl (fun d y => d.takeLast y.1 y.2) d).updLp n fun l => { l with sense := { l.sense with raw := x.raw, iOut := i } }

/-- A raw code outside the IMON window of R68, codes 320 to 1,920 (after R220). -/
def imonOutside (raw : Nat) : Bool := raw < 320 || 1920 < raw

/-- The state code of a PHS page (R239). -/
def Device.phsCode (d : Device) (g : Fin 8) : Nat :=
  let ks := (List.finRange 64).filter fun k => k.val / 8 == g.val
  if ks.any fun k => (d.ph k).st == .failed then 2
  else if ks.any fun k => (d.ph k).st.active then 1 else 0

/-! ## Transitions -/

/-- The lend that LOOPn_LENDSTAT records is still under way (R315). -/
def LendResult.running : LendResult → Bool
  | .draining => true | .handoff => true | .joining => true | _ => false

/-- PERIODS of the lend that loop n records: the elapsed time in switching periods of the slower loop, rounded up, while it runs (R315). -/
def Device.lendElapsed (d : Device) (n : Fin 16) : Nat :=
  let l := d.lp n
  if l.lendResult.running then
    let pDest := match loopOfCode l.lendDest with
      | some m => (d.lp m).period
      | none => 0
    let p := max 1 (max l.period pDest)
    min 255 (((d.cycle - l.lendStart) * 256 + p - 1) / p)
  else l.lendPeriods

/-- LOOPn_LENDSTAT. -/
def Device.lendWord (d : Device) (n : Fin 16) : Word :=
  let l := d.lp n
  field 31 28 (match l.lendResult with
    | .none => 0 | .draining => 1 | .handoff => 2 | .joining => 3 | .done => 4 | .refused => 5 | .failed => 6
    | .endedOff => 7) ||| field 27 22 l.lendPhase ||| field 19 16 l.lendDest ||| field 15 8 (d.lendElapsed n) |||
  field 7 0 l.lends

/-- The end of a lend of loop n arrives at its source (R315, R566). -/
def Device.lendEnded (d : Device) (n : Fin 16) : Device := d.raise (96 + n.val) (d.lendWord n)

/-- The progress of the lend of phase k, in LOOPn_LENDSTAT of its source loop while that records this lend as its latest (R315). -/
def Device.lendRecord (d : Device) (k : Fin 64) (r : LendResult) : Device :=
  match (d.ph k).lendFrom with
  | none => d
  | some n =>
    let e := d.lendElapsed n
    let d := d.updLp n fun l =>
      let l := { l with lends := if r == .done then (l.lends + 1) % 256 else l.lends }
      if l.lendPhase == k.val && l.lendResult.running then { l with lendResult := r, lendPeriods := e } else l
    if r.running then d else (d.updPh k fun q => { q with lendFrom := none }).lendEnded n

/-- What a state change does to the phase itself: the records of R229 and PHSk_CONT, JOIN_LATCHED (R233, R234),
I_BAL (R264), the slot (R228), the pulse level of the new state, and the learner at JOINING and at the exit from
FAILED (R217). vs is V_S of the owning loop in 0.25 mV units, lNom is L_NOM, map the loop of PHSk_MAP. -/
def Phase.enter (p : Phase) (st : PhaseState) (cause who ts : Nat) (vs : Rat) (lNom : Nat) (map : Option (Fin 16)) : Phase :=
  let leaveDrain := p.st == .draining
  let takeMap := p.mapHeld && (st == .off || st == .failed)
  let lLrn := if p.st == .failed then lNom * 16 else p.lLrn
  { p with
    st := st, prev := p.st
    own := if takeMap then map else p.own
    mapHeld := p.mapHeld && !takeMap
    failCause := if p.st == .failed then 0 else p.failCause
    joinLatched := if leaveDrain || st == .failed || st == .crowbar || st == .forced then false else p.joinLatched
    addReq := if leaveDrain && p.joinLatched && (st == .parked || st == .off) then true
              else if st == .joining || st == .failed || st == .crowbar || st == .forced then false else p.addReq
    slot := if st.active then p.slot else none
    pulse := match st with
      | .joining => p.pulse
      | .live => p.pulse
      | .crowbar => .low
      | _ => .z
    iBal := if st == .live && p.st == .live then p.iBal else 0
    joinCyc := 0, drainPer := 0
    lLrn := lLrn
    sf := if st == .joining then (if lLrn = 0 then 0 else 4 * vs / (lLrn : Rat)) else p.sf
    openCnt := if st.active && p.st.active then p.openCnt else 0
    modelCnt := if st == .live then p.modelCnt else 0
    ocfCnt := if st.active || st == .draining then p.ocfCnt else 0
    rangeCnt := if st.active || st == .draining then p.rangeCnt else 0
    curSum := if st.active && p.st.active then p.curSum else 0
    curCnt := if st.active && p.st.active then p.curCnt else 0
    edgeDue := if st.active && p.st.active then p.edgeDue else false
    onlyPulse := if st.active && p.st.active then p.onlyPulse else false
    lendReq := p.lendReq
    contCause := cause, contBy := who, contCount := satInc 0xFFF p.contCount, entry := ts }

/-- Phase k enters state st (R230), with the lend record of R315 and the page state of R239. -/
def Device.phaseTo (d : Device) (k : Fin 64) (st : PhaseState) (cause : Nat) (who : Nat := byHw) : Device :=
  let vs := match (d.ph k).own with
    | some n => (d.lp n).sense.vs
    | none => 0
  let d := d.updPh k fun p => p.enter st cause who (d.ts % 2 ^ 48) vs (bits (d.preg k 0x0C) 9 0) (d.phMap k)
  let d := match st with
    | .draining => d.lendRecord k .draining
    | .handoff => d.lendRecord k .handoff
    | .joining => d.lendRecord k .joining
    | .live => d.lendRecord k .done
    | .failed => d.lendRecord k .failed
    | .off => d.lendRecord k .endedOff
    | _ => d
  let g : Fin 8 := ⟨k.val / 8, by omega⟩
  (d.syncState (0x020 + g.val) (d.phsCode g) cause who).pmcCount 0x16 k.val 1

/-! ## Requests to a phase (R230, R232) -/

/-- A disable request, rank 4: OWNLOOP disabled, or DISABLE set. -/
def Device.phaseDisable (d : Device) (k : Fin 64) (cause : Nat) (who : Nat := byHw) : Device :=
  match (d.ph k).st with
  | .joining => (d.phaseTo k .draining cause who).updPh k fun p => { p with dest := .off }
  | .live => (d.phaseTo k .draining cause who).updPh k fun p => { p with dest := .off }
  | .parked => d.phaseTo k .off cause who
  | .handoff => d.phaseTo k .off cause who
  | .draining => d.updPh k fun p => { p with dest := .off, mapHeld := p.mapHeld || p.lendFrom.isSome }
  | _ => d

/-- A lend request, rank 5. -/
def Device.phaseLend (d : Device) (k : Fin 64) : Device :=
  match (d.ph k).st with
  | .joining => (d.phaseTo k .draining 0x12).updPh k fun p => { p with dest := .handoff }
  | .live => (d.phaseTo k .draining 0x12).updPh k fun p => { p with dest := .handoff }
  | .parked => d.phaseTo k .handoff 0x12
  | .draining => if (d.ph k).dest == .parked then d.updPh k fun p => { p with dest := .handoff } else d
  | _ => d

/-- A shed request, rank 6. -/
def Device.phaseShed (d : Device) (k : Fin 64) : Device :=
  if (d.ph k).st.active then (d.phaseTo k .draining 0x10).updPh k fun p => { p with dest := .parked } else d

/-- A join or add request at an interleave boundary, rank 7: OFF or PARKED with DISABLE 0 enters JOINING; a draining
phase latches it. -/
def Device.phaseJoin (d : Device) (k : Fin 64) : Device :=
  if d.phDisabled k then d
  else match (d.ph k).st with
    | .off => d.phaseTo k .joining 0x11
    | .parked => d.phaseTo k .joining 0x11
    | .draining => d.updPh k fun p => { p with joinLatched := true }
    | _ => d

/-- Entry to FAILED, rank 3 (R231, R240, R344): FAILCAUSE c, PHFAIL of the page and of the owning loop. An active
phase asks for a replacement when REPLACE is 1, and any failure of the loop restarts the shed count (R308, R309). -/
def Device.phaseFail (d : Device) (k : Fin 64) (c cause : Nat) : Device :=
  let p := d.ph k
  let src := match p.lendFrom with
    | some n => if p.st == .joining then p.own else some n
    | none => p.own
  let wasActive := p.st.active
  let d := (d.phaseTo k .failed cause).updPh k fun p => { p with failCause := c }
  let d := (d.setErr (0x020 + k.val / 8) (errBit 10)).raise (112 + k.val / 8) (field 19 16 c ||| field 2 0 (k.val % 8))
  let d := match (d.ph k).own with
    | some n => (d.updLp n fun l => { l with flt := setBit l.flt 21 true, shedCnt := 0 }).dayLoop n
        fun x => { x with phFails := satInc 255 x.phFails }
    | none => d
  match src with
  | some n =>
    if wasActive && bit (d.leff n 0x0E4) 30 then d.updLp n fun l => { l with replace := l.replace + 1 } else d
  | none => d

/-- The OV crowbar of the owning loop, rank 1 (R324, R327): every state but UNPOP and FAILED. A phase draining for a
lend takes PHSk_MAP.LOOP as OWNLOOP on release (R350). -/
def Device.phaseCrowbar (d : Device) (k : Fin 64) : Device :=
  match (d.ph k).st with
  | .unpop => d
  | .failed => d
  | .crowbar => d
  | _ =>
    let d := d.updPh k fun p => { p with mapHeld := p.mapHeld || p.lendFrom.isSome }
    (d.phaseTo k .crowbar 0x1A)

/-- A fault reaction that forces the phase, rank 2, driving level lv. -/
def Device.phaseForce (d : Device) (k : Fin 64) (lv : Level) : Device :=
  match (d.ph k).st with
  | .unpop => d
  | .failed => d
  | .crowbar => d
  | .forced => d.updPh k fun p => { p with pulse := lv }
  | _ =>
    let d := d.updPh k fun p => { p with mapHeld := p.mapHeld || p.lendFrom.isSome }
    (d.phaseTo k .forced 0x03).updPh k fun p => { p with pulse := lv }

/-! ## The peak command (R207, R208) -/

/-- The unclamped peak code for a current of x units of 1/128 A: round(x × G / 0.7 mV). -/
def peakCode (x : Rat) (gain : Nat) : Int := ratNear (x * gain / (128 * 700))

/-- The peak DAC code of phase k and whether the clamp at PK_MAX acts. -/
def Device.peakOf (d : Device) (k : Fin 64) : Nat × Bool :=
  let p := d.ph k
  let cmd : Nat := match p.own with
    | some n => (d.lp n).iCmd
    | none => 0
  let x : Rat := match p.st with
    | .joining =>
      let jc := max 1 (bits (d.preg k 0x04) 23 20)
      (cmd * min (p.joinCyc + 1) jc : Nat) / (jc : Rat)
    | _ => (cmd : Rat) + p.iBal * 128
  let c := peakCode x (bits (d.preg k 0x10) 15 0)
  let top : Nat := bits (d.preg k 0x14) 9 0
  (min top c.toNat, (top : Int) < c)

/-- Phase k loads its peak code; the clamp sets ILIM in whatever part of the period it acts (R207, R209). -/
def Device.loadPeak (d : Device) (k : Fin 64) : Device :=
  if (d.ph k).st.active then
    let c := d.peakOf k
    d.updPh k fun p => { p with dac := c.1, ilim := p.ilim || c.2 }
  else d

/-- The new codes of the active phases of loop n (R209, R257). -/
def Device.loadPeaks (d : Device) (n : Fin 16) : Device := (d.phasesOf n (·.st.active)).foldl (fun d k => d.loadPeak k) d

/-! ## The slope learner (R211 to R218) -/

/-- The magnitude of the least-squares slope of samples 8 ns apart, in A/µs (R211). -/
def fitSlope (xs : List Rat) : Rat :=
  let n : Rat := xs.length
  let r := xs.foldl (fun (acc : Nat × Rat × Rat × Rat × Rat) x =>
    let (j, sj, sx, sjx, sjj) := acc
    (j + 1, sj + j, sx + x, sjx + j * x, sjj + j * j)) (0, 0, 0, 0, 0)
  let (_, sj, sx, sjx, sjj) := r
  let den := n * sjj - sj * sj
  let s := if den = 0 then 0 else (n * sjx - sj * sx) / den
  (if s < 0 then -s else s) * 125

/-- L_LRN in 0.0625 nH units: V_S / Sf (R213). DESIGN CHOICE: it is 0x3FFF where Sf is 0 or the quotient does not fit its 14 bits. -/
def learnedL (vs sf : Rat) : Nat := if sf = 0 then 0x3FFF else min 0x3FFF (ratOpen (4 * vs / sf)).toNat

/-- The ramp code and range for slope sf (R215), or the fixed ones (R216). slope and ind are PHSk_SLOPE and PHSk_IND. -/
def rampOf (slope ind : Word) (gain : Nat) (vs sf : Rat) : Nat × Bool :=
  if bit slope 31 then
    let v : Rat := vs / 4
    let lo := v / max 1 (bits ind 29 20 : Nat)
    let hi := v / max 1 (bits ind 19 10 : Nat)
    let s := max lo (min hi sf)
    let mv := (bits slope 15 8 : Nat) / (128 : Rat) * (gain / 1000) * s
    let fine := ratNear (mv * 5)
    if fine ≤ 255 then (fine.toNat, false) else ((min 255 (ratNear (mv * 5 / 8))).toNat, true)
  else (bits slope 23 16, bit slope 30)

/-- The out-of-range counters and LRANGE of R214 after one measurement. -/
def Phase.judgeL (p : Phase) (ind : Word) : Phase :=
  let out := decide (p.lLrn < bits ind 19 10 * 16) || decide (bits ind 29 20 * 16 < p.lLrn)
  let lOut := if out then satInc 64 p.lOut else 0
  let lIn := if out then 0 else satInc 64 p.lIn
  { p with lOut := lOut, lIn := lIn, lrange := if lOut = 64 then true else if lIn = 64 then false else p.lrange }

/-- The ripple-model judgement of R338, R339 and R341 for one off-time: none when the period is not judged, else
whether the phase disagrees. -/
def modelDisagrees (amps : List Rat) (tOff : Nat) (vs : Rat) (lMax : Nat) (sf : Rat) (zero : Bool) : Option Bool :=
  match amps.head?, amps.getLast? with
  | some a, some b =>
    if amps.length < 4 || zero || tOff ≤ 768 then none
    else
      let meas := (a - b) * tOff / (tOff - 768 : Nat)
      let us : Rat := (tOff : Rat) / 32000
      let pred := max (sf * us) (vs / 4 / max 1 lMax * us)
      let diff := if meas < pred then pred - meas else meas - pred
      some (decide (pred * 2 / 5 < diff))
  | _, _ => none

/-- V_S of the loop that phase k serves, in 0.25 mV units. -/
def Device.vsOf (d : Device) (k : Fin 64) : Rat :=
  match (d.ph k).own with
  | some n => (d.lp n).sense.vs
  | none => 0

/-- Diode emulation is on for phase k: DEM, or the loop is in RAMP or RAMPDOWN (R205, R298). -/
def Device.demOn (d : Device) (k : Fin 64) : Bool :=
  bit (d.preg k 0x04) 19 ||
  match (d.ph k).own with
  | some n => (d.lp n).st == .ramp || (d.lp n).st == .rampdown
  | none => false

/-- The samples of an off-time as times since the trailing edge (31.25 ps units) and currents, up to the zero-current sample of R205, and
whether there was one. -/
def Device.offSamples (d : Device) (k : Fin 64) (off : OffTime) : List (Nat × Rat) × Bool :=
  let l := (off.samples.zip (List.range off.samples.length)).map fun x => (off.first + 256 * x.2, d.imonAmps k x.1)
  match if d.demOn k then l.findIdx? (fun x => decide (x.2 ≤ 0)) else none with
  | some i => (l.take (i + 1), true)
  | none => (l, false)

/-- The currents of the learning window of R211: from 16 ns after the trailing edge to 8 ns before the next leading edge, or to the
zero-current sample. -/
def Device.learnWindow (d : Device) (k : Fin 64) (off : OffTime) : List Rat :=
  ((d.offSamples k off).1.filter fun x => decide (512 ≤ x.1 ∧ x.1 + 256 ≤ off.tOff)).map (·.2)

/-- The learner at the end of an off-time of phase k (R211 to R215, R218), the ramp of the pulse that follows (R215), and the model count
(R340, R341). -/
def Device.learn (d : Device) (k : Fin 64) (off : OffTime) : Device :=
  let vs := d.vsOf k
  let ind := d.preg k 0x0C
  let slope := d.preg k 0x08
  let amps := d.learnWindow k off
  let zero := (d.offSamples k off).2
  let hold := decide (amps.length < 4)
  d.updPh k fun p =>
    let lf := min 10 (bits slope 27 24)
    let sf := if hold then p.sf else p.sf + (fitSlope amps - p.sf) / (2 ^ lf : Nat)
    let r := rampOf slope ind (bits (d.preg k 0x10) 15 0) vs sf
    let p := { p with sf := sf, slopeHold := hold, lLrn := if hold then p.lLrn else learnedL vs sf, ramp := r.1, coarse := r.2 }
    let judged := if p.st == .live then modelDisagrees amps off.tOff vs (bits ind 29 20) sf zero else none
    match judged with
    | some true => { p with modelCnt := satInc 8 p.modelCnt }
    | some false => { p with modelCnt := 0 }
    | none => p

/-! ## Events of a phase -/

/-- T_OFF_MIN and T_BLANK of phase k in 31.25 ps units. -/
def Device.tOffMin (d : Device) (k : Fin 64) : Nat := bits (d.preg k 0x04) 15 8 * 16
def Device.tBlank (d : Device) (k : Fin 64) : Nat := bits (d.preg k 0x04) 7 0 * 16

/-- A time on the grid that the phase's delay line gives: 31.25 ps, or 0.5 ns while DLCAL is set (R199, R200); which of the two neighbours it
takes there stays open. -/
def Phase.grid (p : Phase) (t : Nat) : Nat := if p.dlcal then (roundOpen t 16).toNat * 16 else t

/-- Current samples of the present period (R263). -/
def Phase.addCurrent (p : Phase) (amps : List Rat) : Phase := { p with curSum := p.curSum + amps.sum, curCnt := p.curCnt + amps.length }

/-- The period that a scheduled leading edge ends: its mean current (R261, R263). -/
def Phase.endPeriod (p : Phase) : Phase :=
  { p with iMean := if p.curCnt = 0 then p.iMean else p.curSum / p.curCnt, curSum := 0, curCnt := 0, perDone := true }

/-- What every leading edge of phase k does, scheduled or early: the off-time is learned, its samples are the latest, and the ramp is set
(R206, R211, R215). -/
def Device.offEnds (d : Device) (k : Fin 64) (off : OffTime) : Device :=
  ((d.learn k off).takeLast k off.samples).updPh k fun p => p.addCurrent (off.samples.map (d.imonAmps k))

/-- R201, R203, R204: the leading edge of an active phase that is due off.tOff after its trailing edge. T_OFF_MIN delays it, and the delayed
edge is the period's only pulse; an edge that is due while the pulse still runs waits for the trailing edge. -/
def Device.leadingEdge (d : Device) (k : Fin 64) (off : OffTime) : Device :=
  let before := d.ph k
  if !before.st.active then d
  else if before.pulse == .high then d.updPh k fun p => { p with edgeDue := true }
  else
    let late := d.tOffMin k - off.tOff
    let d := (d.offEnds k { off with tOff := off.tOff + late }).updPh k fun p => (p.endPeriod).judgeL (d.preg k 0x0C)
    let c := d.peakOf k
    let d := if c.1 = 0 then d else d.pmcCount 0x10 k.val 1
    let d := if before.ilim then d.pmcCount 0x11 k.val 1 else d
    let d := if before.dmaxHit then d.pmcCount 0x12 k.val 1 else d
    let d := if (d.ph k).slopeHold then d.pmcCount 0x13 k.val 1 else d
    d.updPh k fun p => { p with
      dac := c.1, ilim := c.2, dmaxHit := false, edgeLate := late, onlyPulse := decide (0 < late) || p.edgeDue, edgeDue := false
      pulse := if c.1 = 0 then (if p.pulse == .high then .low else p.pulse) else .high }

/-- The rise of a judged pulse and the open count (R336, R337). -/
def Device.judgeOpen (d : Device) (k : Fin 64) (judged : List Rat) : Device :=
  match judged.head?, judged.getLast? with
  | some a, some b =>
    if judged.length < 3 then d
    else
      let lim : Nat := match (d.ph k).own with
        | some n => bits (d.lreg n 0x0D4) 15 8
        | none => 0
      d.updPh k fun p => { p with openCnt := if b - a < (lim : Rat) / 8 then satInc 2 p.openCnt else 0 }
  | _, _ => d

/-- The samples of a pulse up to time ton, as times since the leading edge and currents. -/
def Device.onSamples (d : Device) (k : Fin 64) (on : OnTime) (ton : Nat) : List (Nat × Rat) :=
  ((on.samples.zip (List.range on.samples.length)).map fun x => (on.first + 256 * x.2, d.imonAmps k x.1)).filter fun x => decide (x.1 ≤ ton)

/-- The trailing edge of a running pulse: PWMk low, PHSk_PULSE.TON, DMAX_HIT when the limit ended it (R201, R202); the samples after
blanking show whether the phase is open (R336). -/
def Device.trailingEdge (d : Device) (k : Fin 64) (ton : Nat) (on : OnTime) (dmax : Bool) : Device :=
  let p := d.ph k
  if p.st.active && p.pulse == .high then
    let l := d.onSamples k on ton
    let d := (d.takeLast k on.samples).updPh k fun p =>
      { p.addCurrent (l.map (·.2)) with pulse := .low, ton := min 0xFFFF (p.grid ton), dmaxHit := p.dmaxHit || dmax, offAge := 0 }
    d.judgeOpen k ((l.filter fun x => decide (d.tBlank k ≤ x.1)).map (·.2))
  else d

/-- The time of the DMAX limit in 31.25 ps units: DMAX/256 of the switching period (R201). -/
def Device.dmaxTime (d : Device) (k : Fin 64) : Nat :=
  match (d.ph k).own with
  | some n => (roundOpen (bits (d.preg k 0x14) 31 24 * (d.lp n).period : Nat) 256).toNat
  | none => 0

/-- R210: V(IMONk) − V(IREF) at diff µV, ton after the leading edge, meets the DAC voltage less the ramp. -/
def Phase.trips (p : Phase) (ton : Nat) (diff : Int) : Bool :=
  decide ((p.dac * 700 : Nat) - (p.ramp * (if p.coarse then 1600 else 200) * ton : Nat) / (32000 : Rat) ≤ (diff : Rat))

/-- A comparator trip (R201, R210): ignored during blanking; after the DMAX limit the limit has ended the pulse. -/
def Device.comparatorTrip (d : Device) (k : Fin 64) (ton : Nat) (diff : Int) (on : OnTime) : Device :=
  if d.dmaxTime k < ton then d.trailingEdge k (d.dmaxTime k) on true
  else if decide (d.tBlank k ≤ ton) && (d.ph k).trips ton diff then d.trailingEdge k ton on false
  else d

/-- R205: PWMk goes to high impedance at an off-time sample of 0 A or less. -/
def Device.diodeZero (d : Device) (k : Fin 64) (x : Imon) : Device :=
  let p := d.ph k
  let d' := d.takeImon k x
  if p.st.active && p.pulse == .low && d.demOn k && d.imonAmps k x ≤ 0 then d'.updPh k fun p => { p with pulse := .z } else d'

/-- Phase k is in its off-time and past T_OFF_MIN, and its period may have another pulse (R204, R206). -/
def Device.edgeFree (d : Device) (k : Fin 64) (tOff : Nat) : Bool :=
  let p := d.ph k
  p.st.active && p.pulse != .high && !p.onlyPulse && decide (d.tOffMin k ≤ tOff)

/-- R206: an early leading edge requested for a phase in its off-time, which runs the pulse of R201. -/
def Device.earlyEdge (d : Device) (k : Fin 64) (off : OffTime) : Device :=
  if d.edgeFree k off.tOff then
    (((d.offEnds k off).loadPeak k).updPh k fun p => { p with pulse := .high }).pmcCount 0x10 k.val 1
  else d

/-- JOINING completes after JOIN_CYC periods (R208, R230). -/
def Device.joinComplete (d : Device) (k : Fin 64) : Device :=
  let p := d.ph k
  if p.st == .joining && max 1 (bits (d.preg k 0x04) 23 20) ≤ p.joinCyc then d.phaseTo k .live 0x1C else d

/-- The decay of R230: two consecutive samples of magnitude I_DECAY or less. -/
def Device.decayed (d : Device) (k : Fin 64) (x0 x1 : Imon) : Bool :=
  let lim : Rat := (bits (d.preg k 0x14) 23 16 : Nat) / 8
  let ok (x : Imon) : Bool := let a := d.imonAmps k x; decide (-lim ≤ a) && decide (a ≤ lim)
  ok x0 && ok x1

/-- A draining phase ends its decay and goes to its destination (R230, R313). -/
def Device.drainDone (d : Device) (k : Fin 64) : Device :=
  let p := d.ph k
  if p.st == .draining then
    match p.dest with
    | .parked => d.phaseTo k .parked 0x14
    | .off =>
      let d := if p.lendFrom.isSome then d.updPh k fun p => { p with mapHeld := true } else d
      d.phaseTo k .off 0x14
    | .handoff => (d.phaseTo k .handoff 0x14).updPh k fun p => { p with own := d.phMap k }
  else d

/-- A phase in HANDOFF whose new OWNLOOP does not regulate, or whose DISABLE is set, enters OFF in any LOOP cycle
(R230). -/
def Device.handoffCheck (d : Device) (k : Fin 64) : Device :=
  let p := d.ph k
  if p.st == .handoff then
    let reg := match p.own with
      | some n => (d.lp n).st.regulating
      | none => false
    if reg && !d.phDisabled k then d else d.phaseTo k .off 0x02
  else d

/-- PH_OCF of the loop that phase k serves, in A. -/
def Device.phOcf (d : Device) (k : Fin 64) : Rat :=
  match (d.ph k).own with
  | some n => (bits (d.lreg n 0x0D4) 23 16 : Nat)
  | none => 255

/-- A detector's running count up to cap after the samples l, oldest first: a sample without the condition restarts it (R321, R728). -/
def runCount (cap count : Nat) (l : List Bool) : Nat := l.foldl (fun n b => if b then satInc cap n else 0) count

/-- The sample counters of R321 after a detection: each sample is judged against the threshold as it stands (R728). -/
def Device.countDetect (d : Device) (k : Fin 64) (det : PhaseDetect) : Device :=
  if !((d.ph k).st.active || (d.ph k).st == .draining) then d
  else match det with
    | .overCurrent l =>
      (d.takeLast k l).updPh k fun p => { p with ocfCnt := runCount 4 p.ocfCnt (l.map fun x => decide (d.phOcf k ≤ d.imonAmps k x)) }
    | .imonRange l => (d.takeLast k l).updPh k fun p => { p with rangeCnt := runCount 8 p.rangeCnt (l.map fun x => imonOutside x.code) }
    | _ => d

/-- The FAILCAUSE of a detection whose condition of R321 holds. -/
def Device.detected (d : Device) (k : Fin 64) (det : PhaseDetect) : Option Nat :=
  let p := d.ph k
  match det with
  | .stage => if p.st != .unpop then some 4 else none
  | .overCurrent _ => if (p.st.active || p.st == .draining) && 4 ≤ p.ocfCnt then some 6 else none
  | .imonRange _ => if (p.st.active || p.st == .draining) && 8 ≤ p.rangeCnt then some 2 else none
  | .openPhase => if p.st.active && 2 ≤ p.openCnt then some 1 else none
  | .imonModel => if p.st == .live && 8 ≤ p.modelCnt then some 3 else none

/-- The causes of R343 in their order, with their codes of PHSk_CONT. -/
def failOrder : List (Nat × Nat) := [(4, 0x19), (6, 0x1E), (2, 0x17), (1, 0x16), (3, 0x18)]

/-- The first cause, in the order of R343, that one of the detections of a LOOP cycle shows. -/
def Device.firstDetected (d : Device) (k : Fin 64) (dets : List PhaseDetect) : Option (Nat × Nat) :=
  failOrder.find? fun x => dets.any fun det => d.detected k det == some x.1

/-- A failure cause of phase k is still active (R230): the stage fault, or the condition of the recorded cause, IMON range or over-current;
without x, in the samples that the device holds. -/
def Device.failActive (d : Device) (k : Fin 64) (x : Option FailSeen) : Bool :=
  let p := d.ph k
  match x with
  | some x =>
    x.tmon || (p.failCause == 2 && lastAll 8 x.samples fun y => imonOutside y.code) ||
      (p.failCause == 6 && lastAll 4 x.samples fun y => decide (d.phOcf k ≤ d.imonAmps k y))
  | none => p.tmonHigh || (p.failCause == 2 && imonOutside p.raw) || (p.failCause == 6 && decide (d.phOcf k * 128 ≤ (p.cur : Rat)))

/-- CLR_FAIL: FAILED is left when no cause is active (R230): PARKED when OWNLOOP regulates, else OFF. -/
def Device.clrFail (d : Device) (k : Fin 64) (x : Option FailSeen) (who : Nat) : Device :=
  let active := d.failActive k x
  let d := match x with
    | some x => (d.takeLast k x.samples).updPh k fun p => { p with tmonHigh := x.tmon }
    | none => d
  let p := d.ph k
  if p.st == .failed && !active then
    let reg := match p.own with
      | some n => (d.lp n).st.regulating
      | none => false
    d.phaseTo k (if reg then .parked else .off) 0x1D who
  else d

/-- The level of PWMk from its own authorities (R23, R229): the state's level, or the pulse of an active phase. -/
def Device.pwmLevel (d : Device) (k : Fin 64) : Level :=
  if !d.live || !d.boot.up.io then .z
  else match (d.ph k).st with
    | .joining => (d.ph k).pulse
    | .live => (d.ph k).pulse
    | .crowbar => .low
    | .forced => (d.ph k).pulse
    | _ => .z

/-! ## Register views of a phase -/

/-- PHSk_STAT. -/
def Device.phStat (d : Device) (k : Fin 64) : Word :=
  let p := d.ph k
  field 31 26 (p.slot.getD 0x3F) ||| field 25 21 (match p.own with | some n => n.val | none => 0x1F) |||
  field 19 16 p.failCause ||| flag 15 p.joinLatched ||| flag 14 p.lrange ||| flag 13 p.dlcal |||
  flag 12 p.slopeHold ||| flag 11 p.ilim ||| flag 10 p.dmaxHit ||| field 7 4 p.prev.code ||| field 3 0 p.st.code

/-- The word that tracks a time in state: TIS_E and TIS_M of R722, or 0xF while device reset is held. -/
def Device.tisField (d : Device) (entry : Nat) : Word :=
  if d.boot.held then 0xF
  else
    let c := tisCode (tisMicros d.ts entry)
    field 7 4 c.1 ||| field 3 0 c.2

/-- PHSk_CONT. -/
def Device.phCont (d : Device) (k : Fin 64) : Word :=
  let p := d.ph k
  field 31 24 p.contCause ||| field 23 20 (if p.contCount = 0 then 0 else p.contBy) ||| field 19 8 p.contCount |||
  d.tisField p.entry

/-- PHSg_GSTATE. -/
def Device.gState (d : Device) (g : Nat) : Word :=
  (List.finRange 64).foldl (fun w k => if k.val / 8 == g then w ||| field (4 * (k.val % 8) + 3) (4 * (k.val % 8)) (d.ph k).st.code
    else w) 0

/-- The RO registers of phase k, by register offset. -/
def Device.phView (d : Device) (k : Fin 64) (o : Nat) : Option Word :=
  let p := d.ph k
  match o with
  | 0x1C => some (d.phStat k)
  | 0x20 => some (field 26 16 p.raw ||| field 15 0 (toField 16 p.cur))
  | 0x24 => some (field 29 16 p.lLrn ||| flag 8 p.coarse ||| field 7 0 p.ramp)
  | 0x28 => some (field 25 16 p.dac ||| field 15 0 p.ton)
  | 0x2C => some (d.phCont k)
  | _ => none

/-- OWNLOOP takes a new value at once (R225). -/
def Device.takeOwn (d : Device) (k : Fin 64) : Device := d.updPh k fun p => { p with own := d.phMap k }

end Sys2Proof.Machine
end

