-- ==== Sys2Proof/Machine/Loop.lean ====
section
/-! DEFINITION. Voltage loops: targets (R244 to R253), the compensator (R254 to R258), balance (R263), the shadow
bank (R265 to R272), cue-ahead (R273 to R284) and the loop's own life (R290 to R320), without what the sequencer and
the fault collector add to a fault. -/

namespace Sys2Proof.Machine
open Sys2Proof

/-! ## Units and settings -/

/-- One 0.25 mV code in the voltage unit of a loop. -/
def vCode : Int := 2560000

/-- One 12.5 µV step (0.1 mV/µs for 125 ns) in the voltage unit of a loop. -/
def vStep : Int := 128000

/-- The page of loop n. -/
def loopPage (n : Fin 16) : Nat := 0x010 + n.val

/-- UPD_DIV of the active bank. -/
def Device.updDiv (d : Device) (n : Fin 16) : Nat := bits (d.lreg n 0x08C) 26 24

/-- T_UPD in units of 125 ns (R260). -/
def Device.tUpd (d : Device) (n : Fin 16) : Nat := 2 ^ d.updDiv n

/-- GEXP of the active bank. -/
def Device.gexp (d : Device) (n : Fin 16) : Nat := bits (d.lreg n 0x08C) 31 28

/-- ATTEN of loop n (R244), and the factor by which it scales a converter's result. -/
def Device.atten (d : Device) (n : Fin 16) : Bool := bit (d.leff n 0x040) 4
def Device.attenX (d : Device) (n : Fin 16) : Nat := if d.atten n then 2 else 1

/-- A telemetry conversion of loop n in µV (R243, R244). -/
def Device.loopMicrovolts (d : Device) (n : Fin 16) (raw : Nat) : Rat := (raw * 2000000 : Nat) / (4096 : Rat) * d.attenX n

/-- The selected set-point in 0.25 mV codes (R248). -/
def Device.setpoint (d : Device) (n : Fin 16) : Nat :=
  match bits (d.leff n 0x040) 1 0 with
  | 0 => bits (d.leff n 0x044) 13 0
  | 1 => bits (d.leff n 0x048) 13 0
  | 2 => bits (d.leff n 0x048) 29 16
  | _ => bits (d.leff n 0x044) 13 0

/-- LLMODE, R_LL as it lets it act, and LL_OFS likewise in the loop's voltage unit (R250). -/
def Device.llMode (d : Device) (n : Fin 16) : Nat := bits (d.leff n 0x040) 9 8
def Device.rLl (d : Device) (n : Fin 16) : Int := if d.llMode n = 0 then 0 else (bits (d.leff n 0x054) 31 16 : Nat)
def Device.llOfs (d : Device) (n : Fin 16) : Int := if d.llMode n = 0 then 0 else (bits (d.leff n 0x054) 7 0 : Nat) * vCode

/-- V_TARGET of R250, with its clamp to 0.400 V to VMAX. -/
def Device.target (d : Device) (n : Fin 16) (vRef iLl vLift : Int) : Int :=
  clampI (1600 * vCode) ((bits (d.lreg n 0x04C) 13 0 : Nat) * vCode) (vRef + d.llOfs n - d.rLl n * iLl + vLift)

/-- x moved towards goal by at most step (R249). -/
def slewTo (x goal step : Int) : Int := if x < goal then min goal (x + step) else max goal (x - step)

/-! ## Compensator arithmetic (R258) -/

/-- The signed 40-bit format. -/
def sat40 (x : Int) : Int := clampI (-(2 ^ 39)) (2 ^ 39 - 1) x

/-- num / 2^n rounded to nearest, halves away from zero. -/
def roundAway (num : Int) (n : Nat) : Int :=
  let h : Int := 2 ^ n / 2
  if 0 ≤ num then (num + h) / 2 ^ n else -((-num + h) / 2 ^ n)

/-- num / den (den positive) rounded to nearest, halves away from zero. -/
def divAway (num den : Int) : Int := if 0 ≤ num then (2 * num + den) / (2 * den) else -((2 * (-num) + den) / (2 * den))

/-- I_SAT = 256 / 2^(GEXP - 8) counts, with 18 fraction bits. -/
def iSat (gexp : Nat) : Int := 2 ^ (34 - gexp)

/-- i_cmd: y2 × 2^(GEXP - 8) A to the nearest 7.8125 mA, halves up, clamped to 0 to 255.9921875 A. -/
def cmdOf (y2 : Int) (gexp : Nat) : Nat :=
  let s : Int := 2 ^ (19 - gexp)
  (clampI 0 32767 ((2 * y2 + s) / (2 * s))).toNat

/-- One rescale of a compensator state by num / den (R258: round to nearest, saturate). -/
def rescale (x num den : Int) : Int := sat40 (divAway (x * num) den)

/-- One update of the compensator (R254 to R258): e is the sum of the 8 codes (3 fraction bits). -/
def Loop.compensate (l : Loop) (c0 c1 c2 : Word) (gexp : Nat) (freezeUp freezeDown : Bool) (e : Int) : Loop :=
  let kp := sbits c0 15 0
  let ki := sbits c0 31 16
  let kd := sbits c1 15 0
  let a1 := sbits c1 31 16
  let a2 := sbits c2 15 0
  let p := sat40 (kp * e * 2)
  let ke := ki * e * 2
  let integ := if (freezeUp && decide (0 < ke)) || (freezeDown && decide (ke < 0)) then l.integ else sat40 (l.integ + ke)
  let dd := sat40 (kd * (e - l.ePrev) * 2)
  let x := sat40 (sat40 (sat40 (p + integ) + dd) - l.y1)
  let y1 := sat40 (l.y1 + roundAway (a1 * x) 14)
  let y2 := sat40 (l.y2 + roundAway (a2 * sat40 (y1 - l.y2)) 14)
  { l with integ := clampI (-(iSat gexp)) (iSat gexp) integ, ePrev := e, y1 := y1, y2 := y2, iCmd := cmdOf y2 gexp }

/-- More than half of the active phases limited in their last period (R255). -/
def Device.freezeUp (d : Device) (n : Fin 16) : Bool :=
  let act := d.phasesOf n (·.st.active)
  decide (act.length < 2 * (act.filter fun k => (d.ph k).ilim).length)

/-- The rate of UPD_DIV places an update in this slot (R260). -/
def updHere (div frame : Nat) (slotB : Bool) : Bool :=
  match div with
  | 0 => true
  | 1 => !slotB
  | 2 => !slotB && frame % 2 == 0
  | 3 => !slotB && frame % 4 == 0
  | 4 => !slotB && frame == 0
  | _ => false

/-- A slot of the wheel (R262) as the counters see it: one SLOTS event and one of category ev (R638, R639). -/
def Device.countSlot (d : Device) (ev inst : Nat) : Device := (d.pmcCountAll 0x02 1).pmcCount ev inst 1

/-- The owners of slots (R259). -/
inductive SlotOwner where
  | update (n : Fin 16) (slotB : Bool)
  | balance (k : Fin 64)
  | spare
  deriving DecidableEq, Repr

/-- The owner of slot w of a frame (R259). -/
def slotOwner (w : Nat) : SlotOwner :=
  if w < 16 then .update (Fin.ofNat 16 w) false
  else if w < 48 then .balance (Fin.ofNat 64 (w - 16))
  else if w < 62 then .spare
  else if w < 78 then .update (Fin.ofNat 16 (w - 62)) true
  else if w < 110 then .balance (Fin.ofNat 64 (w - 78 + 32))
  else .spare

/-- A command has used the next slot w: the wheel passes it without counting it again. -/
def Device.useSlot (d : Device) (w : Nat) : Device :=
  { d with pmc := { d.pmc with slotUsed := d.pmc.slotUsed ||| BitVec.ofNat 128 (2 ^ w) } }

/-- The wheel passes slot w of a frame (R259, R262): one that no command has used counts as vacant, stalled or idle. -/
def Device.passSlot (d : Device) (frame w : Nat) : Device :=
  if d.pmc.slotUsed.getLsbD w then
    { d with pmc := { d.pmc with slotUsed := d.pmc.slotUsed &&& ~~~(BitVec.ofNat 128 (2 ^ w)) } }
  else match slotOwner w with
    | .update n slotB => d.countSlot (if (d.lp n).st.regulating && updHere (d.updDiv n) frame slotB then 0x05 else 0x04) n.val
    | .balance k => d.countSlot 0x07 k.val
    | .spare =>
      if 0 < d.pmc.service then { d with pmc := { d.pmc with service := d.pmc.service - 1 } }
      else (d.pmcCountAll 0x02 1).pmcCountAll 0x09 1

/-- The four slots of one ADC cycle (R259): frames of 125 slots, numbered modulo 8 from device reset. -/
def Device.passSlots (d : Device) : Device :=
  [0, 1, 2, 3].foldl (fun (d : Device) j =>
    let s := 4 * d.cycle + j
    d.passSlot (s / 125 % 8) (s % 125)) d

/-- The share of the distance to I_OUT that the droop filter of R250 covers in one update, for T_UPD / 2^LL_TAU × 125 ns = x. The spec gives
a first-order time constant and no discrete form: the share is open between those of the backward and the forward difference, x / (1 + x) and
min(1, x), which the exact one, 1 − e^−x, lies between. DESIGN CHOICE. -/
def droopShare (llTau updDiv : Nat) : Rat :=
  let x : Rat := (2 ^ updDiv : Nat) / (2 ^ llTau : Nat)
  max (x / (1 + x)) (min (min 1 x) (Config.droopGain llTau updDiv))

/-- One step of the droop filter (R250). -/
def Device.droop (d : Device) (n : Fin 16) : Int :=
  let l := d.lp n
  l.iLl + ratOpen (droopShare (bits (d.leff n 0x040) 27 24) (d.updDiv n) * (l.sense.iOut - l.iLl : Int))

/-- SLEW over one update (R249). -/
def Device.slewStep (d : Device) (n : Fin 16) : Int := (bits (d.leff n 0x050) 8 0 : Nat) * vStep * (d.tUpd n : Nat)

/-- The reference, load line and lift of one update (R249, R250, R277). -/
def Device.targetStep (d : Device) (n : Fin 16) : Device :=
  let l := d.lp n
  let vRef := slewTo l.vRef ((d.setpoint n : Nat) * vCode) (d.slewStep n)
  let iLl := if d.llMode n = 1 then d.droop n else l.sense.iOut
  let vLift := if l.liftFall then max 0 (l.vLift - d.slewStep n) else l.vLift
  d.updLp n fun l => { l with vRef := vRef, iLl := iLl, vLift := vLift, liftFall := l.liftFall && decide (0 < vLift),
                              vTarget := d.target n vRef iLl vLift }

/-- The soft-start reference of one update (R296, R297, R300) and the counts towards RUN (R292). -/
def Device.softStep (d : Device) (n : Fin 16) : Device :=
  let s : Int := (bits (d.leff n 0x0E0) 8 0 : Nat) * vStep * (d.tUpd n : Nat)
  let win : Rat := (max 1 (bits (d.leff n 0x0E0) 27 24) * 16 : Nat)
  d.updLp n fun l => match l.st with
    | .ramp =>
      let off : Rat := l.sense.vs - (l.vTarget : Rat) / vCode
      let near := decide (-win ≤ off) && decide (off ≤ win)
      if l.ssDone then { l with vSs := min l.vTarget (l.vSs + s), pgCnt := if near then satInc 8 l.pgCnt else 0 }
      else
        let v := min l.vTarget (l.vSs + s)
        { l with vSs := v, ssDone := decide (l.vTarget ≤ v), pgCnt := 0 }
    | .rampdown => { l with vSs := max 0 (l.vSs - s) }
    | _ => l

/-- The target of the error and of the compensator (R250, R297). -/
def Loop.regTarget (l : Loop) : Int := if l.st == .ramp || l.st == .rampdown then min l.vSs l.vTarget else l.vTarget

/-- The short condition of R333 in this update, counted in updates. -/
def Device.shortStep (d : Device) (n : Fin 16) : Device :=
  let up := d.freezeUp n
  d.updLp n fun l =>
    if l.st == .ramp &&
        (up || decide (((bits (d.lreg n 0x0C8) 28 16 * 1024 : Nat) : Int) ≤ l.sense.iOut)) &&
        decide (4 * l.sense.vs * (vCode : Rat) < (l.regTarget : Rat))
    then { l with ssShort := l.ssShort + 1 } else { l with ssShort := 0 }

/-- The error of one conversion at uv µV before its clamp (R244, R245, R297). DEDUCED: the conversions of an update complete before its slot,
so they stand against the target that the update before it left. -/
def Device.errorOf (d : Device) (n : Fin 16) (uv : Int) : Int :=
  roundNear ((d.lp n).regTarget - uv * 10240) (vCode * d.attenX n)

/-- What an update that issues does, with the unclamped errors of its eight conversions, newest first (R246, R254). -/
def Device.updateWith (d : Device) (n : Fin 16) (raw : List Int) : Device :=
  let cs := raw.map (clampI (-512) 511)
  let d := d.updLp n fun l => { l with oldCfg := [] }
  let d := ((d.targetStep n).softStep n).shortStep n
  let d := d.updLp n fun l =>
    { l.compensate (d.lreg n 0x080) (d.lreg n 0x084) (d.lreg n 0x088) (d.gexp n) (d.freezeUp n) (l.iCmd == 0) cs.sum with
      err := cs.headD 0, sat := raw.any fun e => decide (e < -512) || decide (511 < e) }
  d.loadPeaks n

/-- One update slot of loop n (R254, R259 to R262): vacant, stalled, or issued. -/
def Device.loopUpdate (d : Device) (n : Fin 16) (u : UpdateSlot) : Device :=
  let d := (d.takeSamples n u.samples).useSlot (if u.slotB then 62 + n.val else n.val)
  if !(d.lp n).st.regulating || !updHere (d.updDiv n) u.frame.val u.slotB then d.countSlot 0x04 n.val
  else if u.volts.length < 8 then d.countSlot 0x05 n.val
  else (d.countSlot 0x03 n.val).updateWith n ((u.volts.take 8).map (d.errorOf n))

/-! ## Balance (R261, R263) -/

/-- BAL_DIV permits the frame (R261). -/
def balHere (div frame : Nat) : Bool :=
  match div with
  | 0 => true
  | 1 => frame % 2 == 0
  | 2 => frame % 4 == 0
  | _ => false

/-- The balance slot of phase k. -/
def balanceSlot (k : Fin 64) : Nat := if k.val < 32 then 16 + k.val else 46 + k.val

/-- One balance slot of phase k; the new offset acts on the peak code at once (R207, R209). -/
def Device.balance (d : Device) (k : Fin 64) (frame : Nat) : Device :=
  let p := d.ph k
  let d := d.useSlot (balanceSlot k)
  match p.own with
  | none => d.countSlot 0x07 k.val
  | some n =>
    if p.st == .live && balHere (bits (d.leff n 0x040) 21 20) frame && p.perDone then
      let mean := meanRat ((d.phasesOf n (·.st == .live)).map fun j => (d.ph j).iMean)
      let kbal : Rat := (sbits (d.lreg n 0x088) 31 16 : Rat) / 16384
      let mx : Rat := (bits (d.lreg n 0x08C) 23 16 : Nat) / 8
      let v := p.iBal + kbal * (mean - p.iMean)
      ((d.countSlot 0x06 k.val).updPh k fun p => { p with iBal := max (-mx) (min mx v), perDone := false }).loadPeak k
    else d.countSlot 0x07 k.val

/-! ## Banks (R265 to R272) -/

/-- The shadow bank of loop n is valid (R265). -/
def Device.bankValid (d : Device) (n : Fin 16) : Bool :=
  let a1 := bits (d.lreg n 0x064) 31 16
  let a2 := bits (d.lreg n 0x068) 15 0
  let per := bits (d.lreg n 0x070) 17 0
  decide (1 ≤ a1 ∧ a1 ≤ 0x4000) && decide (1 ≤ a2 ∧ a2 ≤ 0x4000) && decide (bits (d.lreg n 0x06C) 26 24 ≤ 4) &&
  decide (8000 ≤ per ∧ per ≤ 160000)

/-- The shadow words copied into the active bank. -/
def Device.copyBank (d : Device) (n : Fin 16) : Device :=
  [0x060, 0x064, 0x068, 0x06C, 0x070].foldl
    (fun d o => d.setReg (pageAddr (loopPage n) (o + 0x20)) (d.lreg n o)) d

/-- A write of 1 to COMMIT (R265, R268): PENDING, or CFGERR for an invalid bank; nothing while PENDING is set. -/
def Device.bankCommit (d : Device) (n : Fin 16) : Device :=
  if (d.lp n).pending then d
  else if d.bankValid n then d.updLp n fun l => { l with pending := true } else d.setErr (loopPage n) (errBit 8)

/-- The swap at a tick boundary with PENDING (R266, R270): the rescale to the new GEXP, which takes the next spare slot, and the copy. -/
def Device.bankSwap (d : Device) (n : Fin 16) : Device :=
  if (d.lp n).pending then
    let g0 := d.gexp n
    let d := d.copyBank n
    let g1 := d.gexp n
    let d : Device := { d with pmc := { d.pmc with service := d.pmc.service + 1 } }
    let d := (d.pmcCountAll 0x02 1).pmcCountAll 0x08 1
    d.updLp n fun l =>
      let f (x : Int) : Int := if g0 = g1 then x else rescale x (2 ^ g0) (2 ^ g1)
      { l with integ := clampI (-(iSat g1)) (iSat g1) (f l.integ), y1 := f l.y1, y2 := f l.y2,
               pending := false, swaps := (l.swaps + 1) % 65536 }
  else d

/-- The active bank at the end of call-sheet loading (R272). -/
def Device.bankInit (d : Device) (n : Fin 16) : Device :=
  let d := if d.bankValid n then d.copyBank n
    else
      let d := d.setErr (loopPage n) (errBit 8)
      [0x060, 0x064, 0x068, 0x06C, 0x070].foldl
        (fun d o => d.setReg (pageAddr (loopPage n) (o + 0x20)) (factoryWord (pageAddr (loopPage n) o))) d
  d.updLp n fun l => { l with period := bits (d.lreg n 0x090) 17 0 }

/-! ## Loop states (R290 to R303) -/

/-- Shedding is held (R308). -/
def Device.shedHold (d : Device) (n : Fin 16) : Bool :=
  !(d.phasesOf n fun p => p.st == .joining || p.st == .draining).isEmpty || (d.lp n).cueActive

/-- LOOPn_STATE. -/
def Device.loopStateWord (d : Device) (n : Fin 16) : Word :=
  let l := d.lp n
  flag 31 (l.st == .run) ||| flag 30 l.enLatched ||| flag 29 l.en ||| flag 28 (d.shedHold n) |||
  field 27 22 l.nAct ||| field 21 16 (d.phasesOf n (·.st == .parked)).length ||| field 15 8 l.cause |||
  field 7 4 l.prev.code ||| field 3 0 l.st.code

/-- What a change to state st does to the loop's own records: the detectors that act only in the state it leaves restart their counts (R321);
a loop that leaves regulation has compensator states of 0 (R270), and its registers act as they stand; PREBIAS starts a measurement (R295). -/
def Loop.enter (l : Loop) (st : LoopState) (cause : Nat) : Loop :=
  let l := { l with prev := l.st, st := st, cause := cause, pgCnt := 0, ssShort := 0, uvCnt := 0
                    ocCnt := if l.st == .run && st == .rampdown then l.ocCnt else 0 }
  let l := if st.regulating then l else { l with integ := 0, y1 := 0, y2 := 0, oldCfg := [] }
  match st with
  | .prebias => { l with pbSum := 0, pbCnt := 0 }
  | .crowbar => { l with relCnt := 0 }
  | _ => l

/-- Loop n enters state st with a cause code, and its page with it (R290, R292). -/
def Device.loopTo (d : Device) (n : Fin 16) (st : LoopState) (cause : Nat) (who : Nat := byHw) : Device :=
  let d := (d.updLp n fun l => l.enter st cause).transition (loopPage n) st.code cause who
  let d := d.raise (48 + n.val) (d.loopStateWord n)
  if st == .faulted || st == .crowbar then
    let d := d.dayLoop n fun x => { x with faults := satInc 255 x.faults }
    if bit (d.reg 0x0B1048) n.val then d.rushTrigger 2 n.val else d
  else d

/-- The disable request to every phase the loop owns (R291, rank 4), and the end of any handoff towards it (R230). -/
def Device.loopDisablePhases (d : Device) (n : Fin 16) (cause : Nat) : Device :=
  (d.phasesOf n fun _ => true).foldl (fun d k => d.phaseDisable k cause) d

/-- The compensator and reference states of R296 at entry to RAMP. DESIGN CHOICE: V_TARGET is that of R250 from the entry on, so the errors
before the first update stand against min(V_SS, V_TARGET) of this start. -/
def Device.enterRamp (d : Device) (n : Fin 16) (vpb : Int) (cause : Nat) : Device :=
  let d := d.loopTo n .ramp cause
  let vRef : Int := (d.setpoint n : Nat) * vCode
  d.updLp n fun l => { l with vRef := vRef, vPb := vpb, vSs := vpb, integ := 0, y1 := 0, y2 := 0, ePrev := 0, iCmd := 0
                              ssDone := false, pgCnt := 0, vTarget := d.target n vRef l.iLl l.vLift }

/-- One telemetry conversion in PREBIAS (R292, R295): V_PB is the mean of the first 16, then each later one; RAMP at or below the selected
set-point. A conversion is 5,000,000 voltage units, so the mean is exact. -/
def Device.prebiasTake (d : Device) (n : Fin 16) (code : Nat) : Device :=
  let l := d.lp n
  if l.st != .prebias then d
  else
    let d := d.updLp n fun l => { l with sense := { l.sense with raw := code }, pbSum := if l.pbCnt < 16 then l.pbSum + code else code
                                         pbCnt := min 17 (l.pbCnt + 1) }
    if (d.lp n).pbCnt < 16 then d
    else
      let v : Int := ((d.lp n).pbSum * d.attenX n * (if l.pbCnt < 16 then 312500 else 5000000) : Nat)
      if v ≤ (d.setpoint n : Nat) * vCode then d.enterRamp n v 0x11 else d.updLp n fun l => { l with vPb := v }

/-- The pre-bias measurement goes on by the conversions codes, oldest first. -/
def Device.prebiasDone (d : Device) (n : Fin 16) (codes : List Nat) : Device := codes.foldl (fun d c => d.prebiasTake n c) d

/-- A fault bit set, with FIRST and TS (R353). -/
def Device.fltSet (d : Device) (n : Fin 16) (b : Nat) : Device :=
  d.updLp n fun l =>
    let first := bits l.flt 8 0 == 0 && b ≤ 8
    { l with flt := setBit l.flt b true, first := if first then b else l.first, fltTs := if first then d.ts % 2 ^ 24 else l.fltTs }

/-- CUE page, and its statistics words. -/
def cuePage : Nat := 0x0C8
def cueStatAddr : Nat := pageAddr 0x0C8 0x048
def cueLastAddr : Nat := pageAddr 0x0C8 0x04C

/-- PAGE_STAT of the CUE page: 1 while any HOLD runs (R289). -/
def Device.cueSync (d : Device) : Device :=
  d.syncState cuePage (if (List.finRange 16).any fun n => (d.lp n).cueActive then 1 else 0) 0x06 byHw

/-- The states from which R292 allows CROWBAR and FAULTED. -/
def LoopState.faultable : LoopState → Bool
  | .prebias => true | .ramp => true | .run => true | .rampdown => true | .draining => true | _ => false

/-- One loop enters CROWBAR and records it (R324, R325, R350). -/
def Device.crowbarOne (d : Device) (n : Fin 16) : Device :=
  if (d.lp n).st.faultable then
    let d := d.loopTo n .crowbar 0x19
    let d := d.updLp n fun l => { l with enLatched := false, cueActive := false, vLift := 0, liftFall := false }
    let d := (d.phasesOf n fun _ => true).foldl (fun d k => d.phaseCrowbar k) d
    let d := (d.fltSet n 0).updLp n fun l => { l with cbCount := satInc 15 l.cbCount }
    (d.setErr (loopPage n) (errBit 9)).cueSync
  else d

/-- LEND_GRP of a loop. -/
def Device.lendGrp (d : Device) (n : Fin 16) : Nat := bits (d.leff n 0x0E0) 30 28

/-- The crowbar of loop n with every loop of its lend group (R325). -/
def Device.crowbar (d : Device) (n : Fin 16) : Device :=
  let d := d.updLp n fun l => { l with sense := { l.sense with ov := true } }
  if (d.lp n).st.faultable then
    let g := d.lendGrp n
    let d := d.crowbarOne n
    if g = 0 then d
    else foldFin 16 (fun d m => if m != n && d.lendGrp m == g then d.crowbarOne m else d) d
  else if (d.lp n).st == .crowbar then (d.fltSet n 0)
  else d

/-- ENABLE of the loop's page (R287). -/
def Device.loopPermitted (d : Device) (n : Fin 16) : Bool := bit (d.head (pg (loopPage n))).ctl 0

/-- OFF is left for PREBIAS; a filtered OV comparator output that is already high fires the crowbar in the same LOOP cycle (R324). -/
def Device.loopStart (d : Device) (n : Fin 16) (cause : Nat) : Device :=
  let d := d.loopTo n .prebias cause
  if (d.lp n).sense.ov then d.crowbar n else d

/-- The enable of the sequencer arrives at loop n (R292, R301, R302). -/
def Device.loopEnable (d : Device) (n : Fin 16) : Device :=
  if d.loopPermitted n then
    let d := d.updLp n fun l => { l with en := true }
    match (d.lp n).st with
    | .off => d.loopStart n 0x10
    | .rampdown => d.updLp n fun l => { l with enLatched := true }
    | .draining => d.updLp n fun l => { l with enLatched := true }
    | _ => d
  else d

/-- The drain of R292 with its disable of the phases. -/
def Device.loopDrain (d : Device) (n : Fin 16) (cause : Nat) : Device := (d.loopTo n .draining cause).loopDisablePhases n 0x02

/-- The enable removed with a soft stop (R292, R293, R300, R301). -/
def Device.loopSoftStop (d : Device) (n : Fin 16) : Device :=
  let d := d.updLp n fun l => { l with en := false, enLatched := false }
  match (d.lp n).st with
  | .prebias => d.loopTo n .off 0x16
  | .ramp =>
    if bit (d.leff n 0x0E0) 31 then (d.loopTo n .rampdown 0x15).updLp n fun l => { l with vSs := min l.vSs l.vTarget }
    else d.loopDrain n 0x16
  | .run =>
    if bit (d.leff n 0x0E0) 31 then (d.loopTo n .rampdown 0x15).updLp n fun l => { l with vSs := min l.vSs l.vTarget }
    else d.loopDrain n 0x16
  | _ => d

/-- The enable removed with a hard stop (R292, R293). -/
def Device.loopHardStop (d : Device) (n : Fin 16) : Device :=
  let d := d.updLp n fun l => { l with en := false, enLatched := false }
  match (d.lp n).st with
  | .prebias => d.loopTo n .off 0x16
  | .ramp => d.loopDrain n 0x16
  | .run => d.loopDrain n 0x16
  | .rampdown => d.loopDrain n 0x16
  | _ => d

/-- A loop in DRAINING with no draining phase enters OFF (R292). -/
def Device.loopDrained (d : Device) (n : Fin 16) : Device :=
  if (d.lp n).st == .draining && !d.anyDraining n then d.loopTo n .off 0x18 else d

/-- The latched enable of R301 acts in the FAB cycle after OFF; a loop whose page has ENABLE 0 stays in OFF (R287). -/
def Device.loopRestart (d : Device) (n : Fin 16) : Device :=
  if (d.lp n).st == .off && (d.lp n).enLatched && d.loopPermitted n then
    (d.updLp n fun l => { l with enLatched := false }).loopStart n 0x1D
  else d

/-- FAULTED is left once LOOPn_FLT[8:0] is 0 and no owned phase drains (R349); the enable then present starts the loop. -/
def Device.loopFaultCleared (d : Device) (n : Fin 16) : Device :=
  if (d.lp n).st == .faulted && bits (d.lp n).flt 8 0 == 0 && !d.anyDraining n then
    let d := d.loopTo n .off 0x1C
    if (d.lp n).en then d.loopEnable n else d
  else d

/-- W1C of LOOPn_FLT: a bit whose cause is active stays (R347); FIRST returns to 0xF when [8:0] is 0 (R353). ov says that the comparator is
high. -/
def Device.fltClear (d : Device) (n : Fin 16) (w : Word) (ov otActive extActive : Bool) : Device :=
  let d := d.updLp n fun l =>
    let hold : Word := flag 0 ov ||| flag 2 (decide (((bits (d.lreg n 0x0C8) 28 16 * 1024 : Nat) : Int) ≤ l.sense.iOut)) |||
      flag 7 otActive ||| flag 8 extActive
    let flt := l.flt &&& ~~~(w &&& 0x003F01FF &&& ~~~hold)
    { l with flt := flt, first := if bits flt 8 0 = 0 then 0xF else l.first }
  d.loopFaultCleared n

/-- The OV comparator of loop n is high at uv µV: above OV_FLT rounded up to 1 mV, or to 2 mV with ATTEN (R323). DESIGN CHOICE: exactly at the
threshold it is low. -/
def Device.ovHigh (d : Device) (n : Fin 16) (uv : Nat) : Bool :=
  let step := 4 * d.attenX n
  decide ((bits (d.lreg n 0x0C0) 29 16 + step - 1) / step * step * 250 < uv)

/-- One 8 ns step of the comparator's filter (R321, R326, R728). DESIGN CHOICE: the filtered output falls with the comparator. -/
def Device.ovSample (d : Device) (n : Fin 16) (uv : Nat) : Device :=
  let high := d.ovHigh n uv
  d.updLp n fun l =>
    let k := if high then satInc 15 l.ovCnt else 0
    { l with ovCnt := k, sense := { l.sense with ov := decide (max 1 (bits (d.lreg n 0x0CC) 27 24) ≤ k) } }

/-- The conversions of loop n that read below CB_REL, counted (R328, R728). -/
def Device.releaseCount (d : Device) (n : Fin 16) (codes : List Nat) : Device :=
  d.updLp n fun l => { l with
    relCnt := runCount 8 l.relCnt (codes.map fun c => decide (d.loopMicrovolts n c < (bits (d.lreg n 0x0CC) 13 0 * 250 : Nat)))
    sense := { l.sense with raw := codes.getLastD l.sense.raw } }

/-- The loop is ready for release at uv µV, us µs after its entry to CROWBAR (R328, R329). -/
def Device.releaseReady (d : Device) (n : Fin 16) (uv us : Nat) : Bool :=
  !d.ovHigh n uv && decide (8 ≤ (d.lp n).relCnt) &&
  (if bit (d.lreg n 0x0CC) 31 then !bit (d.lp n).flt 0 else decide (max 1 (bits (d.lreg n 0x0CC) 23 16) ≤ us))

/-- The release of one loop: FAULTED, and its phases to OFF, or to FORCED while a reaction forces them (R330). -/
def Device.releaseOne (d : Device) (n : Fin 16) (forced : Fin 64 → Option Level) : Device :=
  let d := d.updLp n fun l => { l with ovCnt := 0, sense := { l.sense with ov := false } }
  let d := d.loopTo n .faulted 0x1A
  (d.phasesOf n (·.st == .crowbar)).foldl (fun d k =>
    match forced k with
    | some lv => (d.phaseTo k .forced 0x1B).updPh k fun p => { p with pulse := lv }
    | none => d.phaseTo k .off 0x1B) d

/-! ## Interleave boundary (R227, R299, R304 to R310, R316) -/

/-- Requests of rank 7 to the phases l of loop n; an add request restarts the shed count (R308). -/
def Device.requestPhases (d : Device) (n : Fin 16) (l : List (Fin 64)) (add : Bool) : Device :=
  let d := l.foldl (fun d k => d.phaseJoin k) d
  if add && !l.isEmpty then d.updLp n fun l => { l with shedCnt := 0 } else d

/-- Add requests to cnt phases of loop n: PARKED first, then OFF, each in ascending index (R306, R309). -/
def Device.addPhases (d : Device) (n : Fin 16) (cnt : Nat) : Device :=
  let cand := (d.phasesOf n (·.st == .parked)) ++ (d.phasesOf n (·.st == .off))
  d.requestPhases n ((cand.filter fun k => !d.phDisabled k).take cnt) true

/-- Join requests to every phase in OFF and add requests to every phase in PARKED (R299, R304). -/
def Device.requestAll (d : Device) (n : Fin 16) : Device :=
  (d.requestPhases n (d.phasesOf n (·.st == .off)) false).requestPhases n (d.phasesOf n (·.st == .parked)) true

/-- The slots and leading edges of the active phases, and N (R200, R227, R228). -/
def Device.assignSlots (d : Device) (n : Fin 16) : Device :=
  let act := d.phasesOf n (·.st.active)
  let cnt := act.length
  let p := (d.lp n).period
  let d := (act.zip (List.range cnt)).foldl (fun d ks =>
    d.updPh ks.1 fun q => { q with slot := some ks.2, edge := q.grid ((2 * ks.2 * p + cnt) / (2 * cnt)) }) d
  d.updLp n fun l => { l with nAct := cnt }

/-- The count rescale of R310. -/
def Device.countRescale (d : Device) (n : Fin 16) : Device :=
  let new := d.liveN n
  let old := (d.lp n).liveBefore
  let d := if new < old && 0 < new then
      (d.updLp n fun l =>
        let f (x : Int) : Int := rescale x old new
        { l with integ := clampI (-(iSat (d.gexp n))) (iSat (d.gexp n)) (f l.integ), y1 := f l.y1, y2 := f l.y2,
                 iCmd := min 32767 (divAway (l.iCmd * old) new).toNat }).loadPeaks n
    else d
  d.updLp n fun l => { l with liveBefore := new }

/-- V_S of the period that ends (R247), in 0.25 mV units: a telemetry step is 125/64 of them. -/
def Device.periodMean (d : Device) (n : Fin 16) (raws : List Nat) : Rat :=
  meanRat (raws.map fun r => (r : Rat)) * 125 / 64 * d.attenX n

/-- The period counter of loop n wraps (R226, R247, R269, R305). A period without samples keeps V_S, and counts I_OUT as it stands. -/
def Device.periodEnds (d : Device) (n : Fin 16) (per : PeriodSamples) : Device :=
  let vs := if per.raws.isEmpty then (d.lp n).sense.vs else d.periodMean n per.raws
  d.updLp n fun l => { l with
    period := bits (d.lreg n 0x090) 17 0, perPos := 0
    iPer := ((if per.iOut.isEmpty then (l.sense.iOut, 1) else (per.iOut.sum, per.iOut.length)) :: l.iPer).take 16
    sense := { l.sense with vs := vs, raw := per.raws.getLastD l.sense.raw, iOut := per.iOut.getLastD l.sense.iOut } }

/-- The mean of I_OUT over the last cnt periods of loop n in 1/1024 A (R305). DESIGN CHOICE: over those there have been, while they are fewer. -/
def Loop.meanI (l : Loop) (cnt : Nat) : Rat :=
  let x := l.iPer.take cnt
  ((x.map (·.1)).sum : Rat) / (max 1 (x.map (·.2)).sum : Nat)

/-- One period of loop n counted by its joining and draining phases (R208, R230). -/
def Phase.countPeriod (p : Phase) (n : Fin 16) : Phase :=
  if p.own == some n then
    { p with
      joinCyc := if p.st == .joining then p.joinCyc + 1 else p.joinCyc
      drainPer := if p.st == .draining then p.drainPer + 1 else p.drainPer }
  else p

/-- What takes effect at a boundary of loop n without a request of this LOOP cycle: lends in (R230), and the joins latched before it, which
lapse here where they cannot act (R233). -/
def Device.boundaryJoins (d : Device) (n : Fin 16) : Device :=
  let d := (d.phasesOf n (·.st == .handoff)).foldl
    (fun d k => if (d.lp n).st.regulating && !d.phDisabled k then d.phaseTo k .joining 0x13 else d.handoffCheck k) d
  let l := d.phasesOf n (·.addReq)
  let d := if (d.lp n).st.regulating then l.foldl (fun d k => d.phaseJoin k) d else d
  l.foldl (fun d k => d.updPh k fun p => { p with addReq := false }) d

/-- The shed decision of R307. -/
def Device.shedDecide (d : Device) (n : Fin 16) : Device :=
  let shed := d.leff n 0x0E4
  if (d.lp n).st == .run && bit shed 31 && max 1 (bits shed 7 0) ≤ (d.lp n).shedCnt &&
      max 1 (bits shed 29 24) < d.activeN n && !d.shedHold n then
    match (d.phasesOf n (·.st == .live)).getLast? with
    | some k => (d.phaseShed k).updLp n fun l => { l with shedCnt := 0 }
    | none => d
  else d

/-- The automatic add of R306. -/
def Device.autoAdd (d : Device) (n : Fin 16) : Device :=
  let iAdd : Rat := (bits (d.leff n 0x0E4) 23 16 * 512 : Nat)
  let i1 := (d.lp n).meanI 1
  if 0 < iAdd && (d.activeN n : Rat) * iAdd < i1 then d.addPhases n ((i1 / iAdd).ceil.toNat - d.activeN n) else d

/-- The shed count of R307 and R308: a cue accepted in this LOOP cycle restarts it. -/
def Device.shedCount (d : Device) (n : Fin 16) : Device :=
  let iShed : Rat := (bits (d.leff n 0x0E4) 15 8 * 512 : Nat)
  let below := decide ((d.lp n).meanI 16 < ((d.activeN n : Rat) - 1) * iShed)
  d.updLp n fun l => { l with shedCnt := if l.cueSeen then 0 else if below then l.shedCnt + 1 else 0 }

/-- The requests of the loop itself at a boundary, in the order of R316 step 6 (R299, R300, R304 to R309). -/
def Device.boundaryRequests (d : Device) (n : Fin 16) : Device :=
  let shed := d.leff n 0x0E4
  match (d.lp n).st with
  | .ramp => d.requestAll n
  | .run =>
    let d := if bit shed 30 then d.addPhases n (d.lp n).replace else d
    if !bit shed 31 then d.requestAll n
    else
      let d := (d.autoAdd n).shedCount n
      if (d.lp n).cueSeen then d else d.shedDecide n
  | _ => d

/-- N below N_MIN in RUN (R334). -/
def Device.belowNmin (d : Device) (n : Fin 16) : Bool :=
  (d.lp n).st == .run && decide (d.activeN n < max 1 (bits (d.lreg n 0x0D4) 29 24))

/-! ## Cue-ahead (R273 to R284) -/

/-- A cue rejected or dropped (R273, R281): the counters of CUE_STAT saturate. -/
def Device.cueReject (d : Device) (n : Fin 16) (p : Nat) (sw drop : Bool) : Device :=
  let w := d.reg cueStatAddr
  let d := (d.raise 124 (flag 7 sw ||| field 6 3 n.val ||| field 2 0 p)).pmcCount 0x15 n.val 1
  if drop then d.setReg cueStatAddr (setBits w 23 16 (satInc 255 (bits w 23 16)))
  else d.setReg cueStatAddr (setBits w 31 24 (satInc 255 (bits w 31 24)))

/-- Insertion into a list of pairs in ascending order of the first part, after its equals. -/
def insertBy (x : Nat × OffTime × Fin 64) : List (Nat × OffTime × Fin 64) → List (Nat × OffTime × Fin 64)
  | [] => [x]
  | y :: r => if x.1 < y.1 then x :: y :: r else y :: insertBy x r

/-- The off-times of the LIVE phases of loop n that may take an early edge, nearest scheduled leading edge first (R275). Without a timing of its own
a cue takes the ADC-cycle counts of the period and of the off-times. DESIGN CHOICE: equal distances in ascending phase index. -/
def Device.earlyOrder (d : Device) (n : Fin 16) (t : Option CueTiming) : List (OffTime × Fin 64) :=
  let per := max 1 (d.lp n).period
  let pos := match t with
    | some t => t.pos
    | none => (d.lp n).perPos
  let offOf (k : Fin 64) : Option OffTime := match t with
    | some t => (t.off.find? fun x => x.1 == k).map (·.2)
    | none => some { samples := [], first := 0, tOff := 256 * (d.ph k).offAge }
  ((d.phasesOf n (·.st == .live)).filterMap fun k => (offOf k).bind fun o =>
    if d.edgeFree k o.tOff then some (((d.ph k).edge + per - pos % per) % per, o, k) else none).foldl (fun l x => insertBy x l) [] |>.map (·.2)

/-- The requests of an accepted cue (R275, R276, R300), its records, and the shed count (R308). -/
def Device.cueRequests (d : Device) (n : Fin 16) (p : Nat) (sw : Bool) (t : Option CueTiming) : Device :=
  let a := d.lreg n (0x100 + 8 * p)
  let add := bits a 26 24
  let d := ((d.earlyOrder n t).take (bits a 30 28)).foldl (fun d x => d.earlyEdge x.2 x.1) d
  let parked := if (d.lp n).st == .rampdown then [] else (d.phasesOf n (·.st == .parked)).filter fun k => !d.phDisabled k
  let d := (if add = 7 then parked else parked.take add).foldl (fun d k => d.updPh k fun q => { q with addReq := true }) d
  let d := d.updLp n fun l => { l with cueCount := satInc 255 l.cueCount, cueLast := p, cueAt := some d.cycle, shedCnt := 0 }
  let w := d.reg cueStatAddr
  let d := d.setReg cueStatAddr (setBits w 15 0 (satInc 0xFFFF (bits w 15 0)))
  let d := (d.pmcCount 0x14 n.val 1).dayLoop n fun x => { x with cues := satInc 0xFFFF x.cues }
  d.setReg cueLastAddr (field 31 8 d.ts ||| flag 7 sw ||| field 6 3 n.val ||| field 2 0 p)

/-- The step of an accepted cue: DI and the lift (R274, R277, R278, R284). -/
def Device.cueStep (d : Device) (n : Fin 16) (p : Nat) : Device :=
  let a := d.lreg n (0x100 + 8 * p)
  let di := sbits a 15 0
  let lift := bits a 23 16
  let g := d.gexp n
  let d := d.updLp n fun l =>
    { l with iCmd := (clampI 0 32767 ((l.iCmd : Int) + di * 16)).toNat
             integ := clampI (-(iSat g)) (iSat g) (sat40 (l.integ + di * 2 ^ (23 - g)))
             vLift := if lift = 0 && !l.cueActive then l.vLift else max 0 (min ((lift : Int) * vCode) (d.rLl n * l.iLl))
             cueActive := l.cueActive || decide (0 < lift)
             liftFall := if lift = 0 && !l.cueActive then l.liftFall else false }
  let d := d.updLp n fun l => { l with vTarget := d.target n l.vRef l.iLl l.vLift }
  (d.loadPeaks n).cueSync

/-- What the checks of R273 make of a cue: none when it is accepted, else whether it is dropped rather than rejected. -/
def Device.cueCheck (d : Device) (n : Fin 16) (p : Nat) : Option Bool :=
  let ok := bit (d.reg (pageAddr 0x0C8 0x040)) (16 + n.val) && bit (d.lreg n (0x100 + 8 * p)) 31 && (d.lp n).st.regulating
  let recent := match (d.lp n).cueAt with
    | some c => decide (d.cycle < c + nsCycles 32)
    | none => false
  if !ok then some false else if recent then some true else none

/-- A cue that meets no other event of its loop. -/
def Device.cue (d : Device) (n : Fin 16) (p : Nat) (sw : Bool) (t : Option CueTiming) : Device :=
  match d.cueCheck n p with
  | some drop => d.cueReject n p sw drop
  | none => (d.cueRequests n p sw t).cueStep n p

/-- HOLD elapses (R277): V_LIFT starts to fall. -/
def Device.cueHoldEnd (d : Device) (n : Fin 16) : Device :=
  if (d.lp n).cueActive then (d.updLp n fun l => { l with cueActive := false, liftFall := true }).cueSync else d

/-! ## One LOOP cycle with a boundary (R316 to R318) -/

/-- Steps 5 and 6 of R316 in the LOOP cycle of a boundary of loop n: the cue's requests, then those of the boundary. cueSeen holds whether a cue
was accepted, until boundaryClose. -/
def Device.boundaryOpen (d : Device) (n : Fin 16) (per : PeriodSamples) (same : Coincident) : Device :=
  let d := d.periodEnds n per
  let d : Device := { d with phase := d.phase.map fun (p : Phase) => p.countPeriod n }
  let d := match same.cue with
    | some (p, sw, t) =>
      if !sw && !bit (d.reg (pageAddr cuePage 0x040)) 0 then d
      else match d.cueCheck n p.val with
        | some drop => d.cueReject n p.val sw drop
        | none => (d.cueRequests n p.val sw (some t)).updLp n fun l => { l with cueSeen := true }
    | none => d
  let d := (d.boundaryJoins n).boundaryRequests n
  let d := (d.updLp n fun l => { l with replace := 0 }).pmcCount 0x17 n.val 1
  if (d.lp n).st == .run then d.dayLoop n fun x => { x with leastN := min x.leastN (d.activeN n) } else d

/-- The rest of that LOOP cycle: the slots, then step 7 of R316: the swap, the count rescale, the update, and the cue's step last. -/
def Device.boundaryClose (d : Device) (n : Fin 16) (same : Coincident) : Device :=
  let d := d.assignSlots n
  let d := if same.swap then d.bankSwap n else d
  let d := d.countRescale n
  let d := match same.update with
    | some u => d.loopUpdate n u
    | none => d
  let d := match same.cue with
    | some (p, _, _) => if (d.lp n).cueSeen && (d.lp n).st.regulating then d.cueStep n p.val else d
    | none => d
  d.updLp n fun l => { l with cueSeen := false }

/-! ## Register views and write checks of a LOOP page -/

/-- I_OUT, I_CMD and the other RO words of loop n, by page offset. -/
def Device.lpView (d : Device) (n : Fin 16) (o : Nat) : Option Word :=
  let l := d.lp n
  match o with
  | 0x094 => some (field 31 16 l.swaps ||| flag 1 l.pending)
  | 0x0A0 => some (field 29 16 (roundOpen l.vTarget vCode).toNat ||| field 13 0 (roundOpen l.vRef vCode).toNat)
  | 0x0A4 => some (field 27 16 l.sense.raw ||| field 15 0 (ratOpen l.sense.vs).toNat)
  | 0x0A8 => some (flag 31 l.sat ||| field 9 0 (toField 10 l.err))
  | 0x0AC => some (field 31 16 (min 0xFFFF (roundOpen l.sense.iOut 128).toNat) ||| field 15 0 l.iCmd)
  | 0x0D8 => some l.flt
  | 0x0DC => some (field 31 28 l.first ||| field 27 24 l.cbCount ||| field 23 0 l.fltTs)
  | 0x0E8 => some (d.lendWord n)
  | 0x0EC => some (d.loopStateWord n)
  | 0x140 => some (field 18 16 l.cueLast ||| flag 8 l.cueActive ||| field 7 0 l.cueCount)
  | _ => none

/-- The registers whose writes take effect at the next update of a regulating loop (R319). -/
def updateOffsets : List Nat := [0x040, 0x044, 0x048, 0x050, 0x054, 0x0E0, 0x0E4]

/-- The stored word at offset o of loop n is written with w; the one before it acts until the next update (R319). -/
def Device.putLoop (d : Device) (n : Fin 16) (o : Nat) (w : Word) : Device :=
  let old := d.lreg n o
  let d := if (d.lp n).st.regulating && updateOffsets.contains o && (storeFind (d.lp n).oldCfg o).isNone then
      d.updLp n fun l => { l with oldCfg := (o, old) :: l.oldCfg }
    else d
  d.setReg (pageAddr (loopPage n) o) w

/-- The loop drives a phase (ATTEN of LOOPn_CFG). -/
def Device.drivesAny (d : Device) (n : Fin 16) : Bool :=
  !(d.phasesOf n fun p => p.st.active || p.st == .crowbar).isEmpty

/-- A set-point code within 0.400 V to VMAX, and not above 1.850 V while ATTEN is 0 (R253). -/
def Device.setpointOk (d : Device) (n : Fin 16) (c : Nat) : Bool :=
  decide (1600 ≤ c) && decide (c ≤ bits (d.lreg n 0x04C) 13 0) && (bit (d.lreg n 0x040) 4 || decide (c ≤ 7400))

/-- A write to the bits m reaches field [hi:lo]. -/
def hits (m : Word) (hi lo : Nat) : Bool := m &&& fieldMask hi lo != 0

/-- Whether a write to the bits m that leaves word w in the register at offset o of loop n is within R253, R320, R352 and the reserved codes of
LOOPn_CFG; a set-point, VMAX or a code is judged where the write reaches it. A refused write sets CFGERR. -/
def Device.loopWriteOk (d : Device) (n : Fin 16) (o : Nat) (w : Word) (m : Word := 0xFFFFFFFF) : Bool :=
  match o with
  | 0x040 => (!hits m 1 0 || bits w 1 0 != 3) && (!hits m 9 8 || bits w 9 8 != 3) &&
      (bit w 4 == bit (d.lreg n 0x040) 4 || !d.drivesAny n)
  | 0x044 => !hits m 13 0 || d.setpointOk n (bits w 13 0)
  | 0x048 => (!hits m 13 0 || d.setpointOk n (bits w 13 0)) && (!hits m 29 16 || d.setpointOk n (bits w 29 16))
  | 0x04C =>
    let v := bits w 13 0
    !hits m 13 0 || (decide (bits (d.lreg n 0x044) 13 0 ≤ v) && decide (bits (d.lreg n 0x048) 13 0 ≤ v) &&
    decide (bits (d.lreg n 0x048) 29 16 ≤ v) && decide (v < bits (d.lreg n 0x0C0) 29 16))
  | 0x0C0 => decide (bits (d.lreg n 0x04C) 13 0 < bits w 29 16) && decide (bits w 13 0 < bits w 29 16) &&
      decide (bits (d.lreg n 0x0CC) 13 0 < bits w 29 16)
  | 0x0CC => decide (bits w 13 0 < bits (d.lreg n 0x0C0) 29 16)
  | 0x0E4 => decide (bits w 29 24 ≤ 48) && (!bit w 31 || decide (bits w 15 8 < bits w 23 16))
  | _ => true

/-- The fields that are "written as the nearest limit": LOOPn_SLEW and LOOPn_SS.SS_SLEW. -/
def loopClamp (o : Nat) (w : Word) : Word :=
  match o with
  | 0x050 => setBits w 8 0 (clampN 1 500 (bits w 8 0))
  | 0x0E0 => setBits w 8 0 (clampN 1 500 (bits w 8 0))
  | _ => w

/-- A soft reset of a LOOP page (R287): performed in OFF or FAULTED with no owned phase draining. -/
def Device.loopSoftReset (d : Device) (n : Fin 16) (otActive extActive : Bool) : Device :=
  if ((d.lp n).st == .off || (d.lp n).st == .faulted) && !d.anyDraining n then
    let d := d.updLp n fun l => { l with
      first := 0xF, fltTs := 0, lendResult := .none, lendPhase := 0, lendDest := 0
      lendPeriods := 0, lends := 0, cueCount := 0, cueLast := 0, cueActive := false, enLatched := false, pending := false
      liftFall := l.liftFall || l.cueActive
      integ := 0, y1 := 0, y2 := 0, ePrev := 0, iCmd := 0, vRef := 0 }
    d.cueSync.fltClear n 0xFFFFFFFF (d.lp n).sense.ov otActive extActive
  else d.setErr (loopPage n) (errBit 8)

end Sys2Proof.Machine
end

