-- ==== Sys2Proof/Machine/Thermal.lean ====
section
/-! DEFINITION. Temperature channels: conversion (R478 to R480), the scan frame (R482, R483), limits (R484, R485), cross-checks and
stand-ins (R486 to R490), what the readings feed (R491 to R495), and the pages' views and write checks (R497, R498). -/

namespace Sys2Proof.Machine
open Sys2Proof

/-! ## Configuration of a channel -/

/-- THM_CCFGc and THM_CLIMc. -/
def Device.ccfg (d : Device) (c : Fin 88) : Word := d.reg (0x049100 + 8 * c.val)
def Device.clim (d : Device) (c : Fin 88) : Word := d.reg (0x049104 + 8 * c.val)

/-- THM_CFG. -/
def Device.thmCfg (d : Device) : Word := d.reg 0x048040

/-- Channel c. -/
def Device.ch (d : Device) (c : Fin 88) : Chan := d.thm.chan[c]

/-- Channel c changed by f. -/
def Device.updCh (d : Device) (c : Fin 88) (f : Chan → Chan) : Device :=
  { d with thm := { d.thm with chan := upd d.thm.chan c f } }

/-- The phase whose stage a TMON channel reads (R478). -/
def tmonPhase (c : Fin 88) : Option (Fin 64) := if h : 8 ≤ c.val ∧ c.val < 72 then some ⟨c.val - 8, by omega⟩ else none

/-- The channel of phase k's stage. -/
def tmonChan (k : Fin 64) : Fin 88 := ⟨k.val + 8, by omega⟩

/-- Channel c is present (R481). -/
def Device.chPresent (d : Device) (c : Fin 88) : Bool :=
  match tmonPhase c with
  | some k => d.phPop k
  | none => bit (d.ccfg c) 31

/-- A code of a limit or a curve, v − 64 °C, in 0.0625 °C units. -/
def codeTemp (v : Nat) : Int := ((v : Int) - 64) * 16

/-- Neighbour group of channel c. -/
def Device.chGroup (d : Device) (c : Fin 88) : Nat := bits (d.ccfg c) 28 24

/-- SI_OFS of channel c in 0.0625 °C units. -/
def Device.siOfs (d : Device) (c : Fin 88) : Int := sbits (d.ccfg c) 23 16 * 8

/-! ## Conversion -/

/-- 2^64 ln 2, rounded. -/
def lnTwo : Int := 12786308645202655660

/-- 2^64 ln(a / b) for a and b of like size: 24 terms of 2 (u + u^3 / 3 + u^5 / 5 + …) with u = (a - b) / (a + b). -/
def lnNear (a b : Nat) : Int :=
  let u : Int := ((a : Int) - b) * 2 ^ 64 / ((a : Int) + b)
  let s : Int × Int := (List.range 24).foldl (fun s i => (s.1 * u / 2 ^ 64 * u / 2 ^ 64, s.2 + 2 * s.1 / (2 * i + 1 : Nat))) (u, 0)
  s.2

/-- 2^64 ln(a / b) for a and b above 0, to about 2^-50: the powers of 2 of both are taken out first. DESIGN CHOICE (log entry 73). -/
def lnRatio (a b : Nat) : Int :=
  let i := Nat.log2 a
  let j := Nat.log2 b
  lnNear (a * 2 ^ (j - i)) (b * 2 ^ (i - j)) + ((i : Int) - j) * lnTwo

/-- 1 / T in 1/K of R479, for R_REF, R25, BETA and the pin level in µV. -/
def ntcInverse (rref r25 beta v : Nat) : Rat := 20 / 5963 + (lnRatio (rref * v) ((1500000 - v) * r25) : Rat) / (2 ^ 64 * beta : Nat)

/-- T of R479 in 0.0625 °C units; Config's where a quotient by 0 or a logarithm of 0 leaves it without a value. -/
def ntcDegrees (rref r25 beta v : Nat) : Int :=
  let x := ntcInverse rref r25 beta v
  if rref = 0 ∨ r25 = 0 ∨ beta = 0 ∨ v = 0 ∨ 1500000 ≤ v ∨ x = 0 then Config.ntcTemp rref r25 beta v else ratOpen (16 * (1 / x - 5463 / 20))

/-- The sample of channel c in a frame, in 0.0625 °C units, and whether a stage fault level shows; none: out of range (R69, R479, R480).
Its rounding is Config's. -/
def Device.chSample (d : Device) (c : Fin 88) (x : ThermFrame) : Option Int × Bool :=
  if h : c.val < 8 then (x.die[c.val]'h, false)
  else if h2 : c.val < 72 then
    let v := x.tmon[c.val - 8]'(by omega)
    if v < 200000 then (none, false)
    else if 1800000 ≤ v then (some 2200, true)
    else if 1700000 ≤ v then (some 2200, false)
    else (some (ratOpen (((v : Int) - 600000 : Int) / (500 : Rat))), false)
  else
    let v := x.ntc[c.val - 72]'(by omega)
    if 1450000 < v || v < 20000 then (none, false)
    else
      let w := d.reg (0x049040 + 4 * (c.val - 72))
      (some (ntcDegrees (bits (d.reg 0x048080) 15 0) (bits w 15 0) (bits w 31 16) v), false)

/-! ## Medians and states -/

/-- Insert into an ascending list. -/
def insertSorted (x : Int) : List Int → List Int
  | [] => [x]
  | y :: r => if x ≤ y then x :: y :: r else y :: insertSorted x r

/-- The list in ascending order. -/
def sortInts (l : List Int) : List Int := l.foldr insertSorted []

/-- The median, the mean of the middle two for an even count. -/
def median (l : List Int) : Option Int :=
  let s := sortInts l
  let n := s.length
  if n = 0 then none
  else if n % 2 = 1 then s[n / 2]?
  else match s[n / 2 - 1]?, s[n / 2]? with
    | some a, some b => some (roundOpen (a + b) 2)
    | _, _ => none

/-- The values of the other members of c's group that are VALID and not in ex (R486 to R489). -/
def Device.neighbours (d : Device) (c : Fin 88) (ex : List (Fin 88)) : List Int :=
  let g := d.chGroup c
  if g = 31 then []
  else ((List.finRange 88).filter fun j =>
    j != c && !ex.contains j && d.chGroup j == g && (d.ch j).st == .valid).map fun j => (d.ch j).val

/-- What one sample does to a channel's own counters, before breaks are judged (R486, R488). -/
def Chan.take (p : Chan) (s : Option Int) (sf : Bool) : Chan :=
  match s with
  | some v =>
    let p := { p with latest := some v, outCnt := 0, inCnt := satInc 1000 p.inCnt, sfault := sf }
    match p.st with
    | .absent => { p with st := .valid, val := v }
    | .valid => { p with val := v }
    | .hold => { p with st := .valid, val := v }
    | .standin => if !p.plaus && p.inCnt == 1000 then { p with st := .valid, val := v, broken := false } else p
    | .novalue => if !p.plaus && p.inCnt == 1000 then { p with st := .valid, val := v, broken := false } else p
  | none =>
    let p := { p with latest := none, inCnt := 0, outCnt := satInc 15 p.outCnt, sfault := sf }
    match p.st with
    | .valid => { p with st := .hold, outCnt := 1 }
    | _ => p

/-- A channel breaks: STANDIN at its group median plus SI_OFS, or NOVALUE, with BROKEN and its bit (R487, R490). -/
def Device.chBreak (d : Device) (c : Fin 88) (plaus : Bool) (ex : List (Fin 88)) : Device :=
  let d := d.setErr 0x048 (errBit 10)
  let d := d.raise 216 (BitVec.ofNat 32 c.val)
  match median (d.neighbours c ex) with
  | some m => d.updCh c fun p => { p with st := .standin, val := m + p.siHeld, broken := true, plaus := plaus, inCnt := 0, xCnt := 0 }
  | none =>
    ((d.updCh c fun p => { p with st := .novalue, broken := true, plaus := plaus, inCnt := 0, xCnt := 0 }).setErr 0x048
      (errBit 11)).raise 217 (BitVec.ofNat 32 c.val)

/-- The deviation count of R487 for a channel sampled in this frame. -/
def Device.crossCheck (d : Device) (c : Fin 88) : Device :=
  let n := d.neighbours c []
  let dev : Int := (bits d.thmCfg 15 8 : Nat) * 16
  d.updCh c fun p =>
    match median n with
    | some m => if p.st == .valid && 2 ≤ n.length && decide (dev < (p.val - m).natAbs) then { p with xCnt := p.xCnt + 1 } else { p with xCnt := 0 }
    | none => { p with xCnt := 0 }

/-- Which break a channel sampled in this frame shows: some true for a plausibility break, some false for an electrical one. -/
def Device.breakOf (d : Device) (c : Fin 88) : Option Bool :=
  let p := d.ch c
  if p.st == .hold && max 1 (bits d.thmCfg 31 28) ≤ p.outCnt then some false
  else if p.st == .valid && max 1 (bits d.thmCfg 23 16) ≤ p.xCnt then some true
  else none

/-- STANDIN and NOVALUE after the medians have changed: the stand-in value, the loss of the last VALID member, and the
return to STANDIN (R486). A written SI_OFS acts from the channel's next sample (R496). -/
def Device.standinCheck (d : Device) (c : Fin 88) : Device :=
  match (d.ch c).st, median (d.neighbours c []) with
  | .standin, some m => d.updCh c fun p => { p with val := m + p.siHeld }
  | .standin, none => ((d.updCh c fun p => { p with st := .novalue }).setErr 0x048 (errBit 11)).raise 217 (BitVec.ofNat 32 c.val)
  | .novalue, some m => d.updCh c fun p => { p with st := .standin, val := m + p.siHeld }
  | _, _ => d

/-! ## Reported values, the hottest stage and loops -/

/-- The channel reports a value. -/
def ChanState.reports : ChanState → Bool
  | .valid => true | .hold => true | .standin => true | _ => false

/-- The highest of a list of temperatures. -/
def maxInt : List Int → Option Int
  | [] => none
  | x :: r => some (r.foldl max x)

/-- The lowest of a list of temperatures. -/
def minInt : List Int → Option Int
  | [] => none
  | x :: r => some (r.foldl min x)

/-- The highest temperature that the stages of the phases l report. -/
def Device.hottestOf (d : Device) (l : List (Fin 64)) : Option Int :=
  maxInt (l.filterMap fun k =>
    let p := d.ch (tmonChan k)
    if p.st.reports then some p.val else none)

/-- The hottest stage of loop n (R322). -/
def Device.hottest (d : Device) (n : Fin 16) : Option Int := d.hottestOf (d.phasesOf n (·.st != .unpop))

/-- OT_FLT of loop n in 0.0625 °C units. -/
def Device.otLimit (d : Device) (n : Fin 16) : Int := (bits (d.lreg n 0x0D4) 7 0 * 16 : Nat)

/-- The over-temperature detector and its warning (R321, R323). -/
def Device.otActive (d : Device) (n : Fin 16) : Bool :=
  match d.hottest n with
  | some t => decide (d.otLimit n ≤ t)
  | none => false

def Device.otWarn (d : Device) (n : Fin 16) : Bool :=
  match d.hottest n with
  | some t => decide (d.otLimit n - 160 ≤ t)
  | none => false

/-- The values of the pack sensors (R491). -/
def Device.packVals (d : Device) : List Int :=
  ((List.finRange 88).filter fun c => bit (d.ccfg c) 30 && d.chPresent c && (d.ch c).st.reports).map fun c => (d.ch c).val

/-- The pack temperature (R426, R491). -/
def Device.packTemp (d : Device) : Option Int := maxInt d.packVals

/-! ## Limits and rate -/

/-- The four limits of channel c in 0.0625 °C units: FLT_HI, WRN_HI, WRN_LO, FLT_LO. -/
def Device.limitVals (d : Device) (c : Fin 88) : Vector Int 4 :=
  let w := d.clim c
  #v[codeTemp (bits w 31 24), codeTemp (bits w 23 16), codeTemp (bits w 15 8), codeTemp (bits w 7 0)]

/-- One value against one limit (R484): high limits are the first two. -/
def LimitCount.judge (l : LimitCount) (hi : Bool) (lim v : Int) (filt : Nat) : LimitCount :=
  let atLim := if hi then decide (lim ≤ v) else decide (v ≤ lim)
  let inside := if hi then decide (v ≤ lim - 32) else decide (lim + 32 ≤ v)
  if l.reached then
    if inside then (if filt ≤ l.cnt + 1 then { reached := false, cnt := 0 } else { l with cnt := l.cnt + 1 })
    else { l with cnt := 0 }
  else if atLim then (if filt ≤ l.cnt + 1 then { reached := true, cnt := 0 } else { l with cnt := l.cnt + 1 })
  else { l with cnt := 0 }

/-- Whether a value lies within g of a limit or beyond it. -/
def nearLimit (hi : Bool) (lim v g : Int) : Bool := if hi then decide (lim - g ≤ v) else decide (v ≤ lim + g)

/-- The limits that decide the rate of channel c, with whether each is a high one (R483). -/
def Device.rateLimits (d : Device) (c : Fin 88) : List (Bool × Int) :=
  let l := d.limitVals c
  let loopLims := match tmonPhase c with
    | some k => match (d.ph k).own with
      | some n => [(true, d.otLimit n), (true, d.otLimit n - 160)]
      | none => []
    | none => []
  [(true, l[0]), (true, l[1]), (false, l[2]), (false, l[3])] ++ loopLims

/-- LIM_F and LIM_W of a channel (R485). -/
def Chan.limF (p : Chan) : Bool := p.limits[0].reached || p.limits[3].reached
def Chan.limW (p : Chan) : Bool := p.limits[1].reached || p.limits[2].reached

/-- THM_Tc. -/
def Device.thmT (d : Device) (c : Fin 88) : Word :=
  let p := d.ch c
  field 31 28 (match p.st with | .absent => 0 | .valid => 1 | .hold => 2 | .standin => 3 | .novalue => 4) |||
  flag 27 p.fast ||| flag 26 p.sfault ||| flag 25 p.limF ||| flag 24 p.limW |||
  (if p.st.reports then field 15 0 (toField 16 p.val) else 0)

/-- The limits and the rate of a channel sampled in this frame, on its reported value (R483 to R485, R489). -/
def Device.judgeChan (d : Device) (c : Fin 88) : Device :=
  let p := d.ch c
  if p.st == .valid || p.st == .standin then
    let filt := max 1 (bits (d.ccfg c) 15 12)
    let lv := d.limitVals c
    let before := p.limW
    let limits := Vector.ofFn fun (i : Fin 4) => p.limits[i].judge (decide (i.val < 2)) lv[i] p.val filt
    let g : Int := (bits d.thmCfg 7 0 * 4 : Nat)
    let rl := d.rateLimits c
    let near := rl.any fun x => nearLimit x.1 x.2 p.val g
    let far := rl.all fun x => !nearLimit x.1 x.2 p.val (g + 16)
    let leave := if far then p.leaveCnt + 1 else 0
    let d := d.updCh c fun p => { p with
      limits := limits
      fast := near || (p.fast && leave < 50)
      leaveCnt := if near || !p.fast || 50 ≤ leave then 0 else leave }
    let d := if (d.ch c).limF then d.setErr 0x048 (errBit 9) else d
    if (d.ch c).limW && !before then d.raise (128 + c.val) (d.thmT c) else d
  else d

/-! ## Derating -/

/-- FRAC of R494 for hottest stage t. -/
def Device.fracOf (d : Device) (n : Fin 16) (t : Int) : Nat :=
  let w := d.reg (0x0480C0 + 4 * n.val)
  let a := codeTemp (bits w 31 24)
  let b := codeTemp (bits w 23 16)
  let fl := bits w 15 8
  if t ≤ a then 256
  else if b ≤ t then fl
  else (256 - (256 - fl : Int) * (t - a) / (b - a) - (if (256 - fl : Int) * (t - a) % (b - a) = 0 then 0 else 1)).toNat

/-- THM_DERRn. -/
def Device.derr (d : Device) (n : Fin 16) : Word := field 24 16 d.thm.frac[n] ||| field 15 0 d.thm.iDer[n]

/-- The derating of loop n at a sample of one of its stages. -/
def Device.derate (d : Device) (n : Fin 16) : Device :=
  match d.hottest n with
  | none => d
  | some t =>
    let f := d.fracOf n t
    let old := d.thm.frac[n]
    let new := if f ≤ old then f else if old + 8 ≤ f then f else old
    let i := new * bits (d.lreg n 0x0C8) 12 0 / 256
    let d : Device := { d with thm := { d.thm with frac := d.thm.frac.set n new, iDer := d.thm.iDer.set n i } }
    if new = old then d else d.raise (80 + n.val) (d.derr n)

/-! ## The frame -/

/-- Page state of page 0x048 (R497). -/
def Device.thmCode (d : Device) : Nat :=
  let l := d.thm.chan.toList
  if l.any (·.st == .novalue) then 3 else if l.any fun p => p.st == .hold || p.st == .standin then 2
  else if l.any (·.fast) then 1 else 0

/-- Channel c is due in frame f (R482). -/
def Device.chDue (d : Device) (f : Nat) (c : Fin 88) : Bool :=
  d.chPresent c && ((d.ch c).fast || f % 50 == c.val % 50)

/-- A TMON level below 1.800 V ends a stage fault (R222): the frame shows it for the channels it converts. -/
def Device.tmonFalls (d : Device) (x : ThermFrame) (due : List (Fin 88)) : Device :=
  due.foldl (fun d c => match tmonPhase c with
    | some k => d.updPh k fun p => { p with tmonHigh := p.tmonHigh && decide (1800000 ≤ x.tmon[k]) }
    | none => d) d

/-- One scan frame (R482). -/
def Device.thermalFrame (d : Device) (x : ThermFrame) : Device :=
  let due := (List.finRange 88).filter (d.chDue d.thm.frame)
  let d := (List.finRange 88).foldl (fun d c => if d.chPresent c then d else d.updCh c fun _ => chan0) d
  let d := (due.foldl (fun d c => let s := d.chSample c x; d.updCh c fun p => { p.take s.1 s.2 with siHeld := d.siOfs c }) d).tmonFalls x due
  let d := due.foldl (fun d c => d.crossCheck c) d
  let broken := due.filterMap fun c => (d.breakOf c).map fun b => (c, b)
  let ex := broken.map (·.1)
  let d := broken.foldl (fun d cb => d.chBreak cb.1 cb.2 ex) d
  let d := (List.finRange 88).foldl (fun d c => d.standinCheck c) d
  let d := due.foldl (fun d c => d.judgeChan c) d
  let owned (n : Fin 16) : Bool := due.any fun c =>
    match tmonPhase c with
    | some k => (d.ph k).own == some n
    | none => false
  let d := foldFin 16 (fun d n => if owned n then d.derate n else d) d
  let d : Device := { d with thm := { d.thm with frame := d.thm.frame + 1 } }
  d.syncState 0x048 d.thmCode 0x02 byHw

/-- R488: THM_CLR names a channel latched by a plausibility break. -/
def Device.thmClear (d : Device) (c : Fin 88) (who : Nat) : Device :=
  let p := d.ch c
  match p.latest with
  | some v =>
    if (p.st == .standin || p.st == .novalue) && p.plaus then
      let d := d.updCh c fun p => { p with st := .valid, val := v, broken := false, plaus := false }
      d.syncState 0x048 d.thmCode 0x01 who
    else d
  | none => d

/-- A soft reset of either page (R497). -/
def Device.thmSoftReset (d : Device) (who : Nat) : Device :=
  let d := (List.finRange 88).foldl (fun d c => d.thmClear c who) d
  (List.finRange 88).foldl (fun d c => d.setRegBits (0x049100 + 8 * c.val) 23 16 0) d

/-! ## What the readings feed -/

/-- The values of the present DIE channels; none when one of them reports no value or none is present. -/
def Device.dieVals (d : Device) : Option (List Int) :=
  let l := (List.finRange 88).filter fun c => c.val < 8 && d.chPresent c
  if l.isEmpty || l.any (fun c => !(d.ch c).st.reports) then none else some (l.map fun c => (d.ch c).val)

/-- OTP_OK (R492). -/
def Device.otpOk (d : Device) : Bool :=
  match d.dieVals with
  | some l => l.all fun v => decide (0 ≤ v) && decide (v ≤ 85 * 16)
  | none => false

/-- The highest and the lowest DIE value reported; 0 where none is (R492). -/
def Device.dieHot (d : Device) : Int × Int :=
  let l := ((List.finRange 88).filter fun c => c.val < 8 && d.chPresent c && (d.ch c).st.reports).map fun c => (d.ch c).val
  ((maxInt l).getD 0, (minInt l).getD 0)

/-- Some channel blocks starting (R493). -/
def Device.thmBlocks (d : Device) : Bool :=
  (List.finRange 88).any fun c => bit (d.ccfg c) 29 && ((d.ch c).limW || (d.ch c).st == .novalue)

/-- Word w of a map of the channels that satisfy f. -/
def Device.chanMap (d : Device) (w : Nat) (f : Chan → Bool) : Word :=
  (List.finRange 88).foldl (fun x c => if c.val / 32 == w && f (d.ch c) then x ||| flag (c.val % 32) true else x) 0

/-- The RO words of pages 0x048 and 0x049. -/
def Device.thmView (d : Device) (p o : Nat) : Option Word :=
  if p = 0x048 then
    if o = 0x044 then
      some (flag 31 d.otpOk ||| flag 30 d.packTemp.isNone |||
        field 23 16 ((d.thm.chan.toList.filter (·.broken)).length) ||| field 15 0 (toField 16 (d.packTemp.getD 0)))
    else if o = 0x048 then some (field 31 16 (toField 16 d.dieHot.1) ||| field 15 0 (toField 16 d.dieHot.2))
    else if o = 0x04C then
      some ((List.finRange 16).foldl (fun (x : Word) n => x ||| flag n.val (decide (d.thm.frac[n] < 256))) 0)
    else if 0x050 ≤ o ∧ o < 0x05C then some (d.chanMap ((o - 0x050) / 4) (·.broken))
    else if 0x060 ≤ o ∧ o < 0x06C then some (d.chanMap ((o - 0x060) / 4) (·.fast))
    else if 0x070 ≤ o ∧ o < 0x07C then some (d.chanMap ((o - 0x070) / 4) Chan.limF)
    else if h : 0x100 ≤ o ∧ o < 0x260 then some (d.thmT ⟨(o - 0x100) / 4, by omega⟩)
    else if h : 0x280 ≤ o ∧ o < 0x2C0 then some (d.derr ⟨(o - 0x280) / 4, by omega⟩)
    else none
  else if p = 0x049 then
    if h : 0x100 ≤ o ∧ o < 0x3C0 ∧ o % 8 = 0 then
      let c : Fin 88 := ⟨(o - 0x100) / 8, by omega⟩
      match tmonPhase c with
      | some k => some (setBit (d.ccfg c) 31 (d.phPop k))
      | none => none
    else none
  else none

/-- Whether a write that leaves w at offset o of page p is within R498. -/
def thmWriteOk (p o : Nat) (w : Word) : Bool :=
  if p = 0x048 ∧ 0x0C0 ≤ o ∧ o < 0x100 then decide (bits w 31 24 < bits w 23 16)
  else if p = 0x049 ∧ 0x100 ≤ o ∧ o < 0x3C0 ∧ o % 8 = 4 then
    decide (bits w 7 0 ≤ bits w 15 8 ∧ bits w 15 8 < bits w 23 16 ∧ bits w 23 16 ≤ bits w 31 24)
  else true

/-- A written limit restarts the counts of its channel (R496). -/
def Device.thmWritten (d : Device) (p o : Nat) : Device :=
  if h : p = 0x049 ∧ 0x100 ≤ o ∧ o < 0x3C0 ∧ o % 8 = 4 then
    d.updCh ⟨(o - 0x100) / 8, by omega⟩ fun c => { c with limits := c.limits.map fun (l : LimitCount) => { l with cnt := 0 } }
  else d

end Sys2Proof.Machine
end

