-- ==== Sys2Proof/Machine/Forces.lean ====
section
/-! DEFINITION. What the fault collector's reactions force (R509 to R511): rails, phases, reset lines and the pack path. -/

namespace Sys2Proof.Machine
open Sys2Proof

/-- The page of the fault collector. -/
def fltPage : Nat := 0x050

/-- FLT_RXc. -/
def Device.rx (d : Device) (c : Fin 64) : Word := d.reg (pageAddr fltPage (0x100 + 4 * c.val))

/-- The reaction of class c is held (R510). -/
def Device.reactionHeld (d : Device) (c : Fin 64) : Bool :=
  (d.flt.stat.getLsbD c.val || d.flt.line.getLsbD c.val) && bit (d.rx c) 31 &&
  (if bit (d.rx c) 30 then d.flt.stat.getLsbD c.val else d.flt.line.getLsbD c.val)

/-- The classes whose reaction is held. -/
def Device.heldClasses (d : Device) : List (Fin 64) := (List.finRange 64).filter d.reactionHeld

/-- Word v of the groups that class c names: rails for v up to 2, reset lines for v = 3. -/
def Device.groupWord (d : Device) (c : Fin 64) (v : Nat) : Word :=
  (List.range 8).foldl (fun w g => if bit (d.rx c) (8 + g) then w ||| d.reg (pageAddr fltPage (0x280 + 0x10 * g + 4 * v)) else w) 0

/-- Class c names rail i. -/
def Device.namesRail (d : Device) (c : Fin 64) (i : Nat) : Bool := decide (i < 96) && bit (d.groupWord c (i / 32)) (i % 32)

/-- A held reaction forces rail i off (R509). -/
def Device.railForced (d : Device) (i : Fin 128) : Bool := d.heldClasses.any fun c => d.namesRail c i.val

/-- The reset lines that held reactions assert. -/
def Device.linesForced (d : Device) : BitVec 32 := d.heldClasses.foldl (fun w c => w ||| d.groupWord c 3) 0

/-- A held reaction opens the battery path (PACK_OFF). -/
def Device.packOff (d : Device) : Bool := d.heldClasses.any fun c => bit (d.rx c) 22

/-- A held reaction names loop n. -/
def Device.extActive (d : Device) (n : Fin 16) : Bool := d.railForced ⟨n.val, by omega⟩

/-- The level that held reactions force on the phases of loop n: low when any of them says so (R511). -/
def Device.loopForcedLevel (d : Device) (n : Fin 16) : Option Level :=
  let l := d.heldClasses.filter fun c => d.namesRail c n.val
  if l.isEmpty then none else if l.any fun c => bit (d.rx c) 23 then some .low else some .z

/-- The level forced on phase k. -/
def Device.phaseForcedLevel (d : Device) (k : Fin 64) : Option Level :=
  match (d.ph k).own with
  | some n => d.loopForcedLevel n
  | none => none

end Sys2Proof.Machine
end

