-- ==== Sys2Proof/Machine/Sequencer.lean ====
section
/-! DEFINITION. The sequencer: the shot list (R355 to R362), entry states (R363 to R368), requests and transitions
(R369 to R374), cuts (R375 to R377), take policy (R378 to R382), single-rail requests (R383, R384), shutdown modes
(R385 to R388), source and hold-up (R389, R390) and the reset lines (R392 to R394). -/

namespace Sys2Proof.Machine
open Sys2Proof

/-! ## The shot list -/

/-- Word o of shot-list entry i. -/
def Device.shot (d : Device) (i : Fin 128) (o : Nat) : Word := d.reg (0x100000 + 0x40 * i.val + o)

/-- Entry i. -/
def Device.en (d : Device) (i : Fin 128) : Entry := d.entry[i]

/-- Entry i changed by f. -/
def Device.updEn (d : Device) (i : Fin 128) (f : Entry → Entry) : Device := { d with entry := upd d.entry i f }

/-- Entries 0 to 95 are rails, 0 to 15 of them loops (R355). -/
def isRail (i : Fin 128) : Bool := i.val < 96
def isExt (i : Fin 128) : Bool := 16 ≤ i.val && i.val < 96
def loopOf (i : Fin 128) : Option (Fin 16) := if h : i.val < 16 then some ⟨i.val, h⟩ else none
/-- Rail i among the entries. -/
def railEntry (i : Fin 96) : Fin 128 := ⟨i.val, by omega⟩
/-- Reset entry of line k. -/
def rsoEntry (k : Fin 32) : Fin 128 := ⟨96 + k.val, by omega⟩

def Device.present (d : Device) (i : Fin 128) : Bool := bit (d.shot i 0x00) 31
def Device.essential (d : Device) (i : Fin 128) : Bool := isRail i && bit (d.shot i 0x00) 30
def Device.compatMode (d : Device) (i : Fin 128) : Bool := bit (d.shot i 0x00) 29
def Device.stepOf (d : Device) (i : Fin 128) : Nat := bits (d.shot i 0x00) 21 16

/-- Entry i is in scene s (R356, R357). -/
def Device.inScene (d : Device) (i : Fin 128) (s : Nat) : Bool := d.present i && s != 0 && bit (d.shot i 0x00) s

/-- The entries that entry i names as valid dependencies. -/
def Device.deps (d : Device) (i : Fin 128) : List (Fin 128) :=
  let w := d.shot i 0x04
  [0, 8, 16, 24].filterMap fun lo =>
    if bit w (lo + 7) then some (Fin.ofNat 128 (bits w (lo + 6) lo)) else none

/-- Entries in ascending index that satisfy c. -/
def Device.entriesWhere (d : Device) (c : Fin 128 → Entry → Bool) : List (Fin 128) :=
  (List.finRange 128).filter fun i => c i (d.en i)

/-- The DAC code of threshold t mV of external rail i (R362). -/
def Device.thrCode (d : Device) (i : Fin 128) (t : Nat) : Nat :=
  min 4000 (roundNear ((t * bits (d.shot i 0x10) 31 16 : Nat) * 10) (32768 * 4)).toNat

/-- The comparators of external rail i judge (R362). -/
def Device.judges (d : Device) (i : Fin 128) : Bool := isExt i && d.present i && bits (d.shot i 0x10) 31 16 != 0

/-- The threshold order of R360 and R361, and DIV in range. -/
def Device.thresholdsOk (d : Device) (i : Fin 128) : Bool :=
  let ovF := bits (d.shot i 0x14) 31 16
  let ovW := bits (d.shot i 0x14) 15 0
  let uvW := bits (d.shot i 0x18) 31 16
  let uvF := bits (d.shot i 0x18) 15 0
  let pg := bits (d.shot i 0x1C) 31 16
  let dis := bits (d.shot i 0x1C) 15 0
  decide (dis < uvF ∧ uvF < uvW ∧ uvW < ovW ∧ ovW < ovF) && decide (uvF ≤ pg ∧ pg < ovF)

/-- DIV lies within 0x0001 to 0x8000. -/
def Device.divOk (d : Device) (i : Fin 128) : Bool :=
  let v := bits (d.shot i 0x10) 31 16
  decide (1 ≤ v ∧ v ≤ 0x8000)

/-- No entry of scene s breaks R361. -/
def Device.listOk (d : Device) (s : Nat) : Bool :=
  (List.finRange 128).all fun i =>
    !d.inScene i s ||
      ((d.deps i).all (fun j => d.present j && decide (d.stepOf j < d.stepOf i) && d.inScene j s) &&
       (!isExt i || (d.thresholdsOk i && d.divOk i)))

/-! ## States, records and pins -/

def SeqState.code : SeqState → Nat
  | .idle => 0 | .wrap => 1 | .take => 2 | .hold => 3 | .retry => 4 | .stalled => 5 | .rail => 6
def EntryState.code : EntryState → Nat
  | .off => 0 | .pending => 1 | .starting => 2 | .on => 3 | .stopping => 4 | .stuck => 5 | .faulted => 6
/-- OFF or FAULTED: nothing left to stop. -/
def EntryState.down : EntryState → Bool
  | .off => true | .faulted => true | _ => false
/-- STARTING or ON: the sequencer enables the rail or has released the line (R363). -/
def EntryState.up : EntryState → Bool
  | .starting => true | .on => true | _ => false

/-- The page of the sequencer's control registers. -/
def seqPage : Nat := 0x030

/-- SEQ_STAT. -/
def Device.seqStat (d : Device) : Word :=
  let s := d.seq
  flag 31 s.latched.isSome ||| field 30 28 (match s.latched with | some x => x.1 | none => 0) ||| field 27 25 s.tgt |||
  field 24 22 s.cur ||| field 21 16 s.step ||| field 15 12 s.takes ||| field 11 10 (s.rank - 1) ||| field 9 7 s.reqres |||
  field 6 4 s.result ||| field 3 0 s.st.code

/-- A scene transition has ended with result r (R566). -/
def Device.transitionEnded (d : Device) (r : Nat) : Device :=
  let d : Device := { d with seq := { d.seq with result := r } }
  d.raise 36 d.seqStat

/-- The sequencer enters state st. -/
def Device.seqTo (d : Device) (st : SeqState) (cause : Nat) (who : Nat := byHw) : Device :=
  if d.seq.st = st then d else ({ d with seq := { d.seq with st := st } }).transition seqPage st.code cause who

/-- The sequencer's own bits on the reset lines: present entries outside STARTING and ON (R392). -/
def Device.seqLines (d : Device) : BitVec 32 :=
  (List.finRange 32).foldl (fun w k =>
    let i := rsoEntry k
    if d.present i && !(d.en i).st.up then w ||| BitVec.ofNat 32 (2 ^ k.val) else w) 0

/-- The reset-line record changed by f. -/
def Device.withRso (d : Device) (f : Rso → Rso) : Device := { d with rso := f d.rso }

/-- New levels on the reset lines; a change is an arrival at source 39. -/
def Device.setPins (d : Device) (p : BitVec 32) : Device :=
  if p = d.rso.pin then d else (d.withRso fun r => { r with pin := p }).raise 39 p

/-- The sources, pins and stretches of every reset line after a change of a source (R392, R393). The clock supervisor asserts the lines
past these registers, which keep their values in the state of R36 (R725): Device.rstoAsserted. -/
def Device.rsoSync (d : Device) : Device :=
  let force := d.reg (pageAddr 0x037 0x044)
  let src := d.rso.seqMask ||| force ||| d.rso.fault ||| d.rso.wdt
  let released := d.rso.src &&& ~~~src
  d.setPins (d.rso.pin ||| src) |>.withRso fun r => { r with src := src, str := (r.str ||| released) &&& ~~~src }

/-- As rsoSync, with the sequencer's own bits taken from the entries first. -/
def Device.seqLinesSync (d : Device) : Device :=
  (({ d with rso := { d.rso with seqMask := d.seqLines } }) : Device).rsoSync

/-- RSTOk is asserted: by a source of its line (R392, R393), by the clock supervisor (R36), in device reset and while a required domain is down
(R56, R59). -/
def Device.rstoAsserted (d : Device) (k : Fin 32) : Bool :=
  d.boot.held || d.boot.clkFailed || !d.powered || d.rso.pin.getLsbD k.val

/-- The level that RSTOk drives: its asserted level as the retention cell gives it, or the opposite (R73); high impedance without VHV (R55). -/
def Device.rstoLevel (d : Device) (k : Fin 32) : Level :=
  if !d.boot.up.hv then .z
  else if d.rstoAsserted k == d.rso.pol.getLsbD k.val then .high else .low

/-- Entry i enters state st with a cause (R364, R400). -/
def Device.enTo (d : Device) (i : Fin 128) (st : EntryState) (cause : Nat) : Device :=
  let d := d.updEn i fun e => { e with prev := e.st, st := st, cause := cause, inRail := e.inRail && (st != .faulted || e.enlatch) }
  if isRail i then d else d.seqLinesSync

/-- The sequencer drives ENj high, subject to the reaction that forces rails off and to R36 (R23, R363). -/
def Device.enPin (d : Device) (j : Fin 80) : Bool :=
  let i : Fin 128 := ⟨16 + j.val, by omega⟩
  d.live && d.boot.up.hv && (d.en i).st.up && !d.railForced i

/-- The stop of rail i begins (R363, R364): hard or soft, with its reading for the rise detector. -/
def Device.stopRail (d : Device) (i : Fin 128) (hard fail : Bool) (cause reading : Nat) : Device :=
  let d := (d.enTo i .stopping cause).updEn i fun e => { e with stopFail := fail, vStop := reading }
  match loopOf i with
  | some n => if hard then d.loopHardStop n else d.loopSoftStop n
  | none => d

/-! ## Wraps -/

/-- A member of a cut set in STUCK: the wrap does not wait at its step (R376). -/
def Entry.cutStuck (e : Entry) : Bool := e.st == .stuck && e.stopFail

/-- The entries that the running wrap has to bring down (R372, R378, R383). -/
def Device.wrapSet (d : Device) : List (Fin 128) :=
  match d.seq.st with
  | .wrap => d.entriesWhere fun i e => !e.st.down && !e.cutStuck && !d.inScene i d.seq.tgt
  | .stalled => d.entriesWhere fun i e => !e.st.down && !e.cutStuck && !d.inScene i d.seq.tgt
  | .retry => if d.seq.waiting then [] else d.entriesWhere fun _ e => !e.st.down && e.st != .stuck
  | .rail => if d.seq.railOn then [] else d.entriesWhere fun _ e => e.inRail && !e.st.down && !e.cutStuck
  | _ => []

/-- The highest STEP of a list of entries. -/
def Device.topStep (d : Device) (l : List (Fin 128)) : Nat := l.foldl (fun m i => max m (d.stepOf i)) 0

/-- The lowest STEP of a list of entries, 63 for none. -/
def Device.lowStep (d : Device) (l : List (Fin 128)) : Nat := l.foldl (fun m i => min m (d.stepOf i)) 63

/-- Every entry that names i as a dependency is in OFF or FAULTED (R372). -/
def Device.dependantsDown (d : Device) (i : Fin 128) : Bool :=
  (List.finRange 128).all fun j => (d.en j).st.down || !(d.deps j).contains i

/-- The wrap needs a STUCK dependant of entry i to come down (R372, R386). -/
def Device.stuckDependant (d : Device) (i : Fin 128) : Bool :=
  (d.en i).st.up && (List.finRange 128).any fun j => (d.en j).st == .stuck && (d.deps j).contains i

/-! ## Take phases and their completion -/

/-- Entry i is done for the running take (R373, R730). -/
def Device.takeDone (d : Device) (i : Fin 128) : Bool :=
  let e := d.en i
  !e.enlatch && (e.st == .on || (e.st == .faulted && !d.essential i) || (!isRail i && e.st == .off && e.failCause == 6))

/-- The entries that the running take brings up. -/
def Device.takeSet (d : Device) : List (Fin 128) :=
  if d.seq.st == .rail then d.entriesWhere fun _ e => e.inRail
  else d.entriesWhere fun i _ => d.inScene i d.seq.tgt

/-- BATT_OK of the target and ON_BATT decide between TAKE and HOLD (R389). -/
def Device.holdNeeded (d : Device) : Bool := d.hup.st == .batt && !bit (d.reg (pageAddr seqPage (0x060 + 4 * d.seq.tgt))) 30

/-- A take that the source holds up enters HOLD; one that it no longer holds up resumes (R389). -/
def Device.holdCheck (d : Device) : Device :=
  match d.seq.st with
  | .take => if d.holdNeeded then d.seqTo .hold 0x19 else d
  | .hold => if d.holdNeeded then d else d.seqTo .take 0x1A
  | _ => d

/-- The latest failure (SEQ_LASTFAIL). -/
def Device.recordFail (d : Device) (i : Fin 128) (c : Nat) : Device :=
  let d : Device := { d with seq := { d.seq with
      lastFail := field 31 28 c ||| field 22 16 i.val ||| field 15 12 d.seq.takes ||| field 2 0 d.seq.tgt
      lastFailTs := BitVec.ofNat 32 d.ts } }
  d.raise 37 d.seq.lastFail

/-- The members of the cut set of rail i other than i (R375): everything that names a member as a dependency and is not
down. Dependencies name lower steps, so 64 rounds close the set. -/
def Device.cutMembers (d : Device) (i : Fin 128) : List (Fin 128) :=
  let grow (l : List (Fin 128)) : List (Fin 128) :=
    l ++ (d.entriesWhere fun j e => !l.contains j && !e.st.down && (d.deps j).any fun m => l.contains m)
  ((List.range 64).foldl (fun l _ => grow l) [i]).filter fun j => j != i

/-- One member of a cut set, or of the set of an immediate off (R375, R383), with FAILCAUSE c. -/
def Device.cutOne (d : Device) (j : Fin 128) (c : Nat) (fail : Bool) : Device :=
  let reading : Nat := match loopOf j with
    | some n => (d.lp n).sense.raw
    | none => (d.en j).vmon
  let d := d.updEn j fun e => { e with
    failCause := c, enlatch := e.enlatch && fail, inRail := e.inRail && fail, stopFail := e.stopFail && fail }
  match (d.en j).st with
  | .starting => if isRail j then d.stopRail j true fail 0x16 reading else d.enTo j .off 0x16
  | .on => if isRail j then d.stopRail j true fail 0x16 reading else d.enTo j .off 0x16
  | .pending => d.enTo j (if isRail j && fail then .faulted else .off) 0x16
  | .stopping => match loopOf j with
    | some n => d.loopHardStop n
    | none => d
  | _ => d

/-- The wrap of a failed take begins (R378): PENDING entries return to OFF, and everything else that is up is wrapped. -/
def Device.enterRetry (d : Device) : Device :=
  let d : Device := { d with seq := { d.seq with waiting := false, tgt := if d.seq.st == .idle || d.seq.st == .rail then d.seq.cur else d.seq.tgt } }
  let d := d.seqTo .retry 0x18
  let d : Device := { d with entry := mapFin d.entry fun _ e => { e with inRail := false, enlatch := false } }
  let d := (d.entriesWhere fun _ e => e.st == .pending).foldl (fun d i => d.enTo i .off 0x1C) d
  let w := d.wrapSet
  let d : Device := { d with seq := { d.seq with step := d.topStep w } }
  if w.isEmpty then { d with seq := { d.seq with waiting := true } } else d

/-- The policy of R378 and R379 after the failure or cut of the entries l. SCENE 0 cannot fail (R380): there nothing is retried. -/
def Device.failPolicy (d : Device) (l : List (Fin 128)) : Device :=
  let d : Device := if l.any fun i => !d.essential i then { d with seq := { d.seq with flagged := true } } else d
  let taking := ((d.seq.st == .take || d.seq.st == .hold) && d.seq.tgt != 0) ||
    ((d.seq.st == .idle || (d.seq.st == .rail && d.seq.railOn)) && d.seq.cur != 0)
  if taking && l.any (fun i => d.essential i) then d.enterRetry else d

/-- The failure of rail i with FAILCAUSE c (R366, R375 to R379). -/
def Device.railFail (d : Device) (i : Fin 128) (c : Nat) (reading : Nat) : Device :=
  let d := (d.recordFail i c).setErr seqPage (errBit 10)
  let members := d.cutMembers i
  let d := d.rushTrigger 1 i.val
  let d := d.updEn i fun e => { e with failCause := c }
  let d := match (d.en i).st with
    | .starting => d.stopRail i true true 0x15 reading
    | .on => d.stopRail i true true 0x15 reading
    | .off => d.enTo i .faulted 0x15
    | .pending => d.enTo i .faulted 0x15
    | .stopping => match loopOf i with
      | some n => d.loopHardStop n
      | none => d
    | _ => d
  let d := members.foldl (fun d j => d.cutOne j 6 true) d
  d.failPolicy (i :: members)

/-- The loop rails that fail at once when the take reaches their step (R382). -/
def Device.deadLoops (d : Device) : List (Fin 128) :=
  d.takeSet.filter fun i => (d.en i).st == .pending && decide (d.stepOf i ≤ d.seq.step) &&
    match loopOf i with
    | some n => (d.lp n).st == .faulted || !d.loopPermitted n
    | none => false

/-- The waiting rails that a fault reaction forces off (R366: FAILCAUSE 7). -/
def Device.forcedPending (d : Device) : List (Fin 128) :=
  if d.heldClasses.isEmpty then [] else d.takeSet.filter fun i => (d.en i).st == .pending && d.railForced i

/-- The step of the running take and its completion (R372, R373): the take moves on past the steps that are done. A loop
rail that fails at once (R382) may finish its step, so the look is repeated, at most once for each rail (fuel). -/
def Device.takeLook (d : Device) : Nat → Device
  | 0 => d
  | fuel + 1 =>
    if d.seq.st == .take || d.seq.st == .hold || (d.seq.st == .rail && d.seq.railOn) then
      let left := d.takeSet.filter fun i => !d.takeDone i
      if left.isEmpty then
        if d.seq.st == .rail then d.seqTo .idle 0x02
        else
          let d : Device := { d with seq := { d.seq with cur := d.seq.tgt } }
          (d.seqTo .idle 0x17).transitionEnded 1
      else
        let low := d.lowStep left
        let d : Device := if d.seq.step < low then { d with seq := { d.seq with step := low } } else d
        match d.forcedPending, d.deadLoops with
        | i :: _, _ => (d.railFail i 7 0).takeLook fuel
        | [], i :: _ => (d.railFail i 5 0).takeLook fuel
        | [], [] => d
    else d

/-- The take's progress after an event. -/
def Device.takeProgress (d : Device) : Device := d.takeLook 113

/-- The take phase of R372 for the target: FAULTED entries of the target enter OFF, HELD_OFF and the FAILCAUSE of cut
reset entries clear (R730), entries in OFF enter PENDING, and those still stopping are latched (R388). -/
def Device.takeStart (d : Device) (cause : Nat) : Device :=
  let tgt := d.seq.tgt
  let d : Device := { d with entry := mapFin d.entry fun _ e => { e with heldOff := false } }
  let d := (List.finRange 128).foldl (fun d i =>
    if d.inScene i tgt then
      let d := if (d.en i).st == .faulted then d.enTo i .off cause else d
      let d := if !isRail i && (d.en i).failCause == 6 then d.updEn i fun e => { e with failCause := 0 } else d
      match (d.en i).st with
      | .off => d.enTo i .pending cause
      | .stopping => d.updEn i fun e => { e with enlatch := true }
      | .stuck => d.updEn i fun e => { e with enlatch := true }
      | _ => d
    else d) d
  let pend := d.entriesWhere fun i e => e.st == .pending && d.inScene i tgt
  let d : Device := { d with seq := { d.seq with step := if pend.isEmpty then d.seq.step else d.lowStep pend } }
  ((d.seqTo .take cause).holdCheck).takeProgress

/-- The take phase of an accepted request: TAKES is 1, FLAGGED clears (R374). -/
def Device.firstTake (d : Device) : Device :=
  (({ d with seq := { d.seq with takes := 1, flagged := false } }) : Device).takeStart 0x10

/-- The wrap's progress (R372): the step falls to the highest one left; at the end the take phase, the retry delay or
the end of the single-rail request follows. A latched request takes over the end of a wrap (R371). -/
def Device.wrapProgress (d : Device) : Device :=
  let w := d.wrapSet
  match d.seq.st with
  | .take => d
  | .hold => d
  | .idle => d
  | st =>
    if st == .rail && d.seq.railOn then d
    else if st == .retry && d.seq.waiting then d
    else if w.isEmpty then
      match st with
      | .rail => d.seqTo .idle 0x02
      | .retry => if d.seq.latched.isSome then d else { d with seq := { d.seq with waiting := true } }
      | _ => if d.seq.latched.isSome then d else d.firstTake
    else
      let k := d.topStep w
      let d : Device := { d with seq := { d.seq with step := k } }
      if st == .retry || st == .rail then d
      else
        let stuck := w.any fun i => d.stepOf i == k && ((d.en i).st == .stuck || d.stuckDependant i)
        d.seqTo (if stuck then .stalled else .wrap) (if stuck then 0x14 else 0x11)

/-- A transition to scene s at rank r (R372): PENDING entries outside a running take return to OFF, the wrap phase
begins, and the take phase follows at once when nothing is to be wrapped. -/
def Device.startTransition (d : Device) (s r : Nat) (fail : Bool) (who : Nat := byHw) : Device :=
  let d := (d.entriesWhere fun _ e => e.st == .pending).foldl (fun d i => d.enTo i .off 0x1C) d
  let d : Device := { d with
    seq := { d.seq with tgt := s, rank := r, isFail := fail, waiting := false, held := [] }
    entry := mapFin d.entry fun _ e => { e with inRail := false, enlatch := false } }
  (d.seqTo .wrap 0x10 who).wrapProgress

/-- A scene request of rank r for scene s (R361, R371, R397); who is the requester code. The SAFE scene of a lost owner
(safe) lets a running take complete and is latched (R150). -/
def Device.sceneRequest (d : Device) (s r : Nat) (who : Nat) (safe : Bool := false) : Device :=
  let res (d : Device) (x : Nat) : Device := { d with seq := { d.seq with reqres := x } }
  if r == 4 && !bit (d.head (pg seqPage)).ctl 0 then res d 6
  else if !(s == 0 || bit (d.reg (pageAddr seqPage (0x060 + 4 * s))) 31) then res d 5
  else if !d.listOk s then res d 4
  else
    let running := if d.seq.st == .rail then 4 else d.seq.rank
    let latchedRank := match d.seq.latched with
      | some x => x.2
      | none => 4
    let latch : Device :=
      if r ≤ running && r ≤ latchedRank then res ({ d with seq := { d.seq with latched := some (s, r) } }) 2 else res d 3
    let abort : Device :=
      if r ≤ running then (res (d.transitionEnded 2) 1).startTransition s r false who else res d 3
    match d.seq.st with
    | .idle => (res d 1).startTransition s r false who
    | .take => if safe then latch else abort
    | .hold => if safe then latch else abort
    | .retry => if d.seq.waiting then abort else latch
    | _ => latch

/-- A latched request begins (R371). -/
def Device.latchedStart (d : Device) : Device :=
  match d.seq.latched with
  | none => d
  | some (s, r) =>
    let free := d.seq.st == .idle ||
      ((d.seq.st == .wrap || d.seq.st == .stalled || d.seq.st == .retry) && d.wrapSet.isEmpty)
    if free then (({ d with seq := { d.seq with latched := none } }) : Device).startTransition s r false else d

/-! ## Events of an entry -/

/-- The fault of loop n reaches the sequencer (R346, R366 FAILCAUSE 5). -/
def Device.loopRailFault (d : Device) (n : Fin 16) : Device :=
  let i : Fin 128 := ⟨n.val, by omega⟩
  let st := (d.en i).st
  if d.present i && (st.up || st == .stopping) then (d.railFail i 5 (d.lp n).sense.raw).wrapProgress.takeProgress else d

/-- The loops that have entered CROWBAR since the state before, and that the sequencer hears of (R324, R366). -/
def Device.crowbarsHeard (d before : Device) : Device :=
  foldFin 16 (fun d m => if (before.lp m).st != .crowbar && (d.lp m).st == .crowbar then d.loopRailFault m else d) d

/-- R364: PENDING to STARTING, when the take has reached the step and every dependency is ON. -/
def Device.entryStart (d : Device) (i : Fin 128) (vmon : Nat) : Device :=
  let d := d.holdCheck
  let ok := (d.seq.st == .take || (d.seq.st == .rail && d.seq.railOn)) && (d.en i).st == .pending &&
    decide (d.stepOf i ≤ d.seq.step) && (d.deps i).all fun j => (d.en j).st == .on
  if ok then
    let d := d.enTo i .starting 0x11
    let d := if isExt i then d.updEn i fun e => { e with vmon := vmon, prebias := vmon } else d
    match loopOf i with
    | some n => (d.loopEnable n).crowbarsHeard d
    | none => d
  else d

/-- A VMON reading of external rail i, with the warning thresholds of a rail in ON (R366). -/
def Device.setVmon (d : Device) (i : Fin 128) (code : Nat) : Device :=
  let d := d.updEn i fun e => { e with vmon := code }
  if (d.en i).st == .on && d.judges i then
    let ov := decide (d.thrCode i (bits (d.shot i 0x14) 15 0) < code)
    let uv := decide (code < d.thrCode i (bits (d.shot i 0x18) 31 16))
    let e := d.en i
    let d' := d.updEn i fun e => { e with wrnOv := e.wrnOv || ov, wrnUv := e.wrnUv || uv }
    if (ov && !e.wrnOv) || (uv && !e.wrnUv) then d'.raise 38 (flag 9 ov ||| flag 8 uv ||| field 6 0 i.val) else d'
  else d

/-- VFILT of external rail i in readings 64 ns apart; a loop rail takes 8 telemetry conversions (R366, R367). -/
def Device.filterLen (d : Device) (i : Fin 128) : Nat := if isExt i then max 1 (bits (d.shot i 0x10) 7 0) else 8

/-- The last of readings, as the latest VMON code of an external rail. -/
def Device.setReadings (d : Device) (i : Fin 128) (readings : List Nat) : Device :=
  match isExt i, readings.getLast? with
  | true, some x => d.setVmon i x
  | _, _ => d

/-- R365: a STARTING rail is power-good and enters ON. -/
def Device.railGood (d : Device) (i : Fin 128) (readings : List Nat) : Device :=
  let good := match loopOf i with
    | some n => (d.lp n).st == .run
    | none => d.judges i && lastAll (d.filterLen i) readings fun x =>
        decide (d.thrCode i (bits (d.shot i 0x1C) 31 16) ≤ x) && decide (x < d.thrCode i (bits (d.shot i 0x14) 31 16))
  let d := d.setReadings i readings
  if (d.en i).st == .starting && good then (d.enTo i .on 0x12).takeProgress else d

/-- R372: OFF_DLY has elapsed for an entry of the wrap's step. -/
def Device.wrapStop (d : Device) (i : Fin 128) (reading : Nat) : Device :=
  if d.wrapSet.contains i && d.stepOf i == d.topStep d.wrapSet && (d.en i).st.up && d.dependantsDown i then
    (if isRail i then d.stopRail i false false 0x11 reading else d.enTo i .off 0x11).wrapProgress
  else d

/-- A stop that is over: OFF, or FAULTED when a failure or a cut caused it (R364); the wrap or the take looks on. -/
def Device.stopOver (d : Device) (i : Fin 128) (cause : Nat) : Device :=
  (d.enTo i (if (d.en i).stopFail then .faulted else .off) cause).wrapProgress.takeProgress

/-- R367: the rail is discharged. -/
def Device.railDischarged (d : Device) (i : Fin 128) (readings : List Nat) : Device :=
  let thr := bits (d.shot i 0x1C) 15 0
  let gone := match loopOf i with
    | some n => ((d.lp n).st == .off || (d.lp n).st == .faulted || (d.lp n).st == .crowbar) &&
        lastAll 8 readings fun x => decide (d.loopMicrovolts n x ≤ (thr * 1000 : Nat))
    | none => d.judges i && lastAll (d.filterLen i) readings fun x => decide (x < d.thrCode i thr)
  let d := d.setReadings i readings
  if ((d.en i).st == .stopping || (d.en i).st == .stuck) && gone then d.stopOver i 0x13 else d

/-- R385, R386: DIS_TMO has elapsed. -/
def Device.dischargeTimeout (d : Device) (i : Fin 128) : Device :=
  if (d.en i).st == .stopping then
    let d := d.updEn i fun e => { e with nodis := true }
    if d.compatMode i then ((d.enTo i .stuck 0x14).setErr seqPage (errBit 12)).wrapProgress else d.stopOver i 0x14
  else d

/-- R388: an entry with ENLATCH enters PENDING once it is down. -/
def Device.enlatchRestart (d : Device) (i : Fin 128) : Device :=
  let e := d.en i
  if e.enlatch && e.st.down then
    ((d.enTo i .pending 0x10).updEn i fun e => { e with enlatch := false }).takeProgress
  else d

/-- R366: the state in which a monitor condition counts, and the comparison that shows it in every reading of the filter. -/
def Device.monitorHolds (d : Device) (i : Fin 128) (det : RailDetect) (readings : List Nat) : Option Nat :=
  let st := (d.en i).st
  let off := st == .off || st == .pending || st == .faulted
  let rise : Nat := bits (d.shot i 0x10) 15 8 * 4
  let all (c : Nat → Bool) : Bool := lastAll (d.filterLen i) readings c
  if !d.present i then none
  else match det, loopOf i with
    | .uv, none => if st == .on && d.judges i && all (fun x => decide (x < d.thrCode i (bits (d.shot i 0x18) 15 0))) then some 2 else none
    | .ov, none => if st.up && d.judges i && all (fun x => decide (d.thrCode i (bits (d.shot i 0x14) 31 16) ≤ x)) then some 3 else none
    | .rise, none => if st == .stopping && d.judges i && all (fun x => decide ((d.en i).vStop + d.thrCode i rise < x)) then some 4 else none
    | .powered, none => if off && d.judges i && all (fun x => decide (d.thrCode i (bits (d.shot i 0x1C) 31 16) ≤ x)) then some 4 else none
    | .rise, some n =>
      if st == .stopping && all (fun x => decide (d.loopMicrovolts n (d.en i).vStop + (rise * 1000 : Nat) < d.loopMicrovolts n x))
      then some 4 else none
    | .powered, some n => if off && bit (d.lp n).flt 16 then some 4 else none
    | _, some _ => none

/-- R366: a monitor fault of rail i. -/
def Device.monitorFault (d : Device) (i : Fin 128) (det : RailDetect) (readings : List Nat) : Device :=
  match d.monitorHolds i det readings with
  | some c => ((d.setReadings i readings).railFail i c (readings.getLastD 0)).wrapProgress.takeProgress
  | none => d

/-- R378, R380: RETRY_DLY has elapsed. -/
def Device.retryExpiry (d : Device) : Device :=
  if d.seq.st == .retry && d.seq.waiting then
    let w := d.reg (pageAddr seqPage (0x060 + 4 * d.seq.tgt))
    if d.seq.takes ≤ bits w 26 24 then
      let d := foldFin 16 (fun d n =>
        if d.inScene ⟨n.val, by omega⟩ d.seq.tgt then (d.fltClear n 0xFFFFFFFF (d.lp n).sense.ov (d.otActive n) (d.extActive n)).crowbarsHeard d
        else d) d
      (({ d with seq := { d.seq with takes := d.seq.takes + 1, waiting := false } }) : Device).takeStart 0x10
    else
      let d := (d.transitionEnded 3).setErr seqPage (errBit 11)
      d.startTransition (if d.seq.isFail then 0 else bits w 10 8) d.seq.rank true
  else d

/-! ## Single-rail requests (R383) -/

/-- Rail i and its dependants in the present scene, direct and through other entries. -/
def Device.railFamily (d : Device) (i : Fin 128) : List (Fin 128) :=
  let grow (l : List (Fin 128)) : List (Fin 128) :=
    l ++ (d.entriesWhere fun j _ => !l.contains j && d.inScene j d.seq.cur && (d.deps j).any fun m => l.contains m)
  (List.range 64).foldl (fun l _ => grow l) [i]

/-- The entries that OP 1 starts: rail i and its dependants in the present scene that are down or stopping, not held off,
and whose valid dependencies are ON or themselves started, taken in ascending STEP. -/
def Device.railTakeSet (d : Device) (i : Fin 128) : List (Fin 128) :=
  let family := d.railFamily i
  let cand (l : List (Fin 128)) (k : Nat) : List (Fin 128) :=
    family.filter fun j => d.stepOf j == k && !(d.en j).heldOff &&
      ((d.en j).st == .off || (d.en j).st == .stopping || (d.en j).st == .stuck) &&
      (d.deps j).all fun m => (d.en m).st == .on || l.contains m
  (List.range 64).foldl (fun l k => l ++ cand l k) []

/-- The rail and its transitive dependants in ON (OP 2). -/
def Device.railWrapSet (d : Device) (i : Fin 128) : List (Fin 128) :=
  i :: (d.cutMembers i).filter fun j => (d.en j).st == .on

/-- OP 1. -/
def Device.railOnNow (d : Device) (i : Fin 128) : Device :=
  let d := d.updEn i fun e => { e with heldOff := false }
  if !d.inScene i d.seq.cur then { d with seq := { d.seq with reqres := 5 } }
  else if !d.listOk d.seq.cur then { d with seq := { d.seq with reqres := 4 } }
  else
    let l := d.railTakeSet i
    let d := l.foldl (fun d j =>
      let d := d.updEn j fun e => { e with inRail := true, failCause := if !isRail j && e.failCause == 6 then 0 else e.failCause }
      if (d.en j).st == .off then d.enTo j .pending 0x10 else d.updEn j fun e => { e with enlatch := true }) d
    let d : Device := { d with seq := { d.seq with railOn := true, step := if l.isEmpty then d.seq.step else d.lowStep l } }
    (d.seqTo .rail 0x10).takeProgress

/-- OP 2. -/
def Device.railSoftOffNow (d : Device) (i : Fin 128) : Device :=
  let d := d.updEn i fun e => { e with heldOff := true }
  let d := (d.railWrapSet i).foldl (fun d j => d.updEn j fun e => { e with inRail := true }) d
  let d : Device := { d with seq := { d.seq with railOn := false } }
  (d.seqTo .rail 0x10).wrapProgress

/-- OP 3: the set of R375 at once, every member with FAILCAUSE 8 and ending in OFF. -/
def Device.railImmOffNow (d : Device) (i : Fin 128) : Device :=
  let members := d.cutMembers i
  let d := d.updEn i fun e => { e with heldOff := true }
  let d := (i :: members).foldl (fun d j => d.cutOne j 8 false) d
  d.wrapProgress.takeProgress

/-- OP 4. -/
def Device.railClearNow (d : Device) (i : Fin 128) : Device :=
  if (d.en i).st == .faulted then
    (d.enTo i .off 0x01).updEn i fun e => { e with failCause := 0, nodis := false, forced := false }
  else d

/-- One single-rail operation, at once. -/
def Device.railNow (d : Device) (op : RailOp) (i : Fin 128) : Device :=
  match op with
  | .on => (({ d with entry := mapFin d.entry fun _ e => { e with inRail := false } }) : Device).railOnNow i
  | .softOff => (({ d with entry := mapFin d.entry fun _ e => { e with inRail := false } }) : Device).railSoftOffNow i
  | .immOff => d.railImmOffNow i
  | .clear => d.railClearNow i

/-- A single-rail request: at once in IDLE, OP 3 and OP 4 at once in RAIL too, held otherwise (R383). -/
def Device.railRequest (d : Device) (op : RailOp) (i : Fin 128) : Device :=
  let now := d.seq.st == .idle || (d.seq.st == .rail && (op == .immOff || op == .clear))
  if !isRail i then d.setErr seqPage (errBit 8)
  else if now then d.railNow op i
  else { d with seq := { d.seq with held := d.seq.held ++ [(op, i.val)] } }

/-- The oldest held request runs in IDLE. -/
def Device.heldStart (d : Device) : Device :=
  if d.seq.st == .idle && d.seq.latched.isNone then
    match d.seq.held with
    | [] => d
    | (op, i) :: r => (({ d with seq := { d.seq with held := r } }) : Device).railNow op (Fin.ofNat 128 i)
  else d

/-- SEQ_FORCE with the right key (R387). -/
def Device.seqForce (d : Device) (w : Word) : Device :=
  let l := d.entriesWhere fun i e => e.st == .stuck && (bit w 15 || i.val == bits w 6 0)
  let d := l.foldl (fun d i =>
    (d.updEn i fun e => { e with forced := true }).enTo i (if (d.en i).stopFail then .faulted else .off) 0x1B) d
  if l.isEmpty then d else d.wrapProgress.takeProgress

/-- The stretch of RSTOk has elapsed (R393, R394): a STARTING reset entry enters ON whoever else asserts the line; the
pin deasserts when nobody asserts it. -/
def Device.stretchElapsed (d : Device) (k : Fin 32) : Device :=
  let m : BitVec 32 := BitVec.ofNat 32 (2 ^ k.val)
  let d : Device := if d.rso.src.getLsbD k.val then d
    else (d.withRso fun r => { r with str := r.str &&& ~~~m }).setPins (d.rso.pin &&& ~~~m)
  let i := rsoEntry k
  if (d.en i).st == .starting then (d.enTo i .on 0x12).takeProgress else d

/-- The soft reset of page 0x030 (R397). -/
def Device.seqSoftReset (d : Device) : Device :=
  if d.seq.st == .idle && d.seq.cur == 0 then
    let d : Device := { d with
      seq := { d.seq with takes := 0, result := 0, reqres := 0, flagged := false, latched := none }
      entry := mapFin d.entry fun _ e => { e with heldOff := false, failCause := 0, nodis := false, forced := false } }
    (d.entriesWhere fun _ e => e.st == .faulted).foldl (fun d i => d.enTo i .off 0x01) d
  else d.setErr seqPage (errBit 8)

/-! ## Write checks of the shot list and the scenes -/

/-- Whether a write that leaves w in word o of entry i is allowed, else the PAGE_ERR bit of page 0x030 (R359, R360). -/
def Device.shotWriteOk (d : Device) (i : Fin 128) (o : Nat) (w : Word) : Option Word :=
  let anyTime := o == 0x14 || o == 0x18 || o == 0x1C || o == 0x3C
  let busy := d.seq.st != .idle || !(d.en i).st.down
  let d' := d.setReg (0x100000 + 0x40 * i.val + o) w
  if !anyTime && busy then some (errBit 9)
  else if o == 0x10 && isExt i && d'.present i && !d'.divOk i then some (errBit 8)
  else if o == 0x04 && [0, 8, 16, 24].any (fun lo => bit w (lo + 7) && decide (95 < bits w (lo + 6) lo)) then some (errBit 8)
  else if isRail i && !(d.en i).st.down && (o == 0x14 || o == 0x18 || o == 0x1C) && isExt i && !d'.thresholdsOk i then some (errBit 8)
  else none

/-- A FAIL_SCENE equal to its own scene is refused (SEQ_SCENEs). -/
def sceneWriteOk (s : Nat) (w : Word) : Bool := bits w 10 8 != s

/-! ## Register views -/

/-- SEQ_RSTATi. -/
def Device.rstat (d : Device) (i : Fin 128) : Word :=
  let e := d.en i
  field 31 28 e.failCause ||| flag 22 e.forced ||| flag 21 e.nodis ||| flag 20 e.enlatch ||| flag 19 e.heldOff |||
  field 15 8 e.cause ||| field 7 4 e.prev.code ||| field 3 0 e.st.code

/-- Word w of a map of the entries that satisfy c. -/
def Device.entryMap (d : Device) (w : Nat) (c : Entry → Bool) : Word :=
  (List.finRange 128).foldl (fun x i => if i.val / 32 == w && c (d.en i) then x ||| flag (i.val % 32) true else x) 0

/-- A VMON code at the rail in mV (R362); 0 while the entry is absent or DIV is 0. -/
def Device.railMv (d : Device) (i : Fin 128) (code : Nat) : Nat :=
  if d.judges i then min 0xFFFF (roundOpen ((code * 4 * 32768 : Nat)) ((bits (d.shot i 0x10) 31 16 * 10 : Nat))).toNat else 0

/-- SUPj_WIN. -/
def Device.supWin (d : Device) (j : Fin 80) : Word :=
  let i : Fin 128 := ⟨16 + j.val, by omega⟩
  let e := d.en i
  let cmp (t : Nat) : Nat := d.thrCode i t
  flag 8 (d.enPin j) ||| flag 7 e.wrnOv ||| flag 6 e.wrnUv |||
  (if d.judges i then
    flag 3 (decide (cmp (bits (d.shot i 0x14) 31 16) ≤ e.vmon)) ||| flag 2 (decide (cmp (bits (d.shot i 0x14) 15 0) < e.vmon)) |||
    flag 1 (decide (e.vmon < cmp (bits (d.shot i 0x18) 31 16))) ||| flag 0 (decide (e.vmon < cmp (bits (d.shot i 0x18) 15 0)))
   else 0)

/-- The RO words of the SEQ, SUP and RSO pages, by page and offset. -/
def Device.seqView (d : Device) (p o : Nat) : Option Word :=
  if p = 0x030 then
    if o = 0x048 then some d.seqStat else if o = 0x058 then some (flag 0 d.seq.flagged) else none
  else if p = 0x031 then
    if 0x040 ≤ o && o < 0x240 then some (d.rstat (Fin.ofNat 128 ((o - 0x040) / 4))) else none
  else if p = 0x032 then
    if 0x040 ≤ o && o < 0x050 then some (d.entryMap ((o - 0x040) / 4) (·.st == .on))
    else if 0x050 ≤ o && o < 0x060 then some (d.entryMap ((o - 0x050) / 4) (·.st == .faulted))
    else if 0x060 ≤ o && o < 0x070 then some (d.entryMap ((o - 0x060) / 4) (·.st == .stuck))
    else none
  else if p = 0x033 then
    if o = 0x040 then some d.seq.lastFail else if o = 0x044 then some d.seq.lastFailTs else none
  else if 0x034 ≤ p && p ≤ 0x036 then
    let j := 32 * (p - 0x034) + (o - 0x100) / 8
    if h : 0x100 ≤ o ∧ o < 0x200 ∧ j < 80 then
      let i : Fin 128 := ⟨16 + j, by omega⟩
      if o % 8 = 0 then some (field 31 16 (d.railMv i (d.en i).prebias) ||| field 15 0 (d.railMv i (d.en i).vmon))
      else if o % 8 = 4 then some (d.supWin ⟨j, h.2.2⟩) else none
    else none
  else if p = 0x037 then
    if o = 0x040 then some d.rso.pol
    else if o = 0x048 then some d.rso.pin
    else if o = 0x04C then some d.rso.seqMask
    else if o = 0x050 then some (d.rso.fault ||| d.rso.wdt ||| (if d.boot.clkFailed then 0xFFFFFFFF else 0))
    else if o = 0x054 then some d.rso.str
    else none
  else none

end Sys2Proof.Machine
end

