-- ==== Sys2Proof/Machine/Protection.lean ====
section
/-! DEFINITION. The detectors of the loops (R321), loop faults with their hand-off to the sequencer (R345, R346), the crowbar and its release, and
the warnings (R323). -/

namespace Sys2Proof.Machine
open Sys2Proof

/-- A loop fault: bit b of LOOPn_FLT and the further bits of the detectors that complete in the same LOOP cycle (R350), FAULTED with its cause
code, every phase disabled, EN_LATCHED cleared, LFAULT set; the sequencer hears of it unless a fault reaction named the loop (R345, R346). -/
def Device.loopFault (d : Device) (n : Fin 16) (b cause : Nat) (further : List Nat := []) : Device :=
  if (d.lp n).st.faultable then
    let d := (d.loopTo n .faulted cause).updLp n fun l => { l with enLatched := false }
    let d := d.loopDisablePhases n (if b = 8 then 0x03 else 0x02)
    let d := (further.foldl (fun d b => d.fltSet n b) (d.fltSet n b)).setErr (loopPage n) (errBit 10)
    if b = 8 then d else d.loopRailFault n
  else d

/-! ## The detectors of a loop (R321, R728) -/

/-- UV_DLY, OC_DLY and SS_SHORT of loop n in µs; 0 acts as 1. -/
def Device.uvDly (d : Device) (n : Fin 16) : Nat := max 1 (bits (d.lreg n 0x0D0) 31 24)
def Device.ocDly (d : Device) (n : Fin 16) : Nat := max 1 (bits (d.lreg n 0x0D0) 23 16)
def Device.ssShortDly (d : Device) (n : Fin 16) : Nat := max 1 (bits (d.lreg n 0x0D0) 15 8)

/-- A telemetry conversion below UV_FLT (R323). -/
def Device.uvBelow (d : Device) (n : Fin 16) (code : Nat) : Bool := decide (d.loopMicrovolts n code < (bits (d.lreg n 0x0C0) 13 0 * 250 : Nat))

/-- I_OUT at OC_FLT or above. -/
def Device.ocAbove (d : Device) (n : Fin 16) (i : Int) : Bool := decide (((bits (d.lreg n 0x0C8) 28 16 * 1024 : Nat) : Int) ≤ i)

/-- The running counts after what a detector has judged: telemetry conversions 64 ns apart, or ADC cycles of 8 ns. -/
def Device.loopCount (d : Device) (n : Fin 16) (det : LoopDetect) : Device :=
  match det with
  | .uv codes => d.updLp n fun l => { l with
      uvCnt := if l.st == .run then runCount 4096 l.uvCnt (codes.map (d.uvBelow n)) else 0
      sense := { l.sense with raw := codes.getLastD l.sense.raw } }
  | .oc iOut => d.updLp n fun l => { l with
      ocCnt := if l.st == .run || l.st == .rampdown then runCount 32768 l.ocCnt (iOut.map (d.ocAbove n)) else 0
      sense := { l.sense with iOut := iOut.getLastD l.sense.iOut } }
  | _ => d

/-- The short condition has held for SS_SHORT (R333). -/
def Device.ssShorted (d : Device) (n : Fin 16) : Bool :=
  (d.lp n).st == .ramp && decide (8 * d.ssShortDly n ≤ (d.lp n).ssShort * d.tUpd n)

/-- The bit of LOOPn_FLT, with the cause code of R292, of a detector whose condition has held for its filter. -/
def Device.loopDetected (d : Device) (n : Fin 16) (det : LoopDetect) : Option (Nat × Nat) :=
  let l := d.lp n
  let hit (c : Bool) (b cause : Nat) : Option (Nat × Nat) := if c then some (b, cause) else none
  match det with
  | .uv _ => hit (l.st == .run && decide (125 * d.uvDly n ≤ 8 * l.uvCnt)) 1 0x1B
  | .oc _ => hit ((l.st == .run || l.st == .rampdown) && decide (125 * d.ocDly n ≤ l.ocCnt)) 2 0x1B
  | .ssShort => hit (d.ssShorted n) 3 0x1B
  | .ssTmo => hit (l.st == .ramp) 4 0x14
  | .pbTmo => hit (l.st == .prebias && decide (16 ≤ l.pbCnt) && decide ((d.setpoint n : Nat) * vCode < l.vPb)) 5 0x12
  | .ot => hit (l.st.faultable && d.otActive n) 7 0x1B

/-- Detectors of loop n that complete in one LOOP cycle (R350): every bit is set and FIRST names the lowest. DESIGN CHOICE: the cause code is
that of the lowest bit. -/
def Device.loopDetect (d : Device) (n : Fin 16) (dets : List LoopDetect) : Device :=
  let d := dets.foldl (fun d x => d.loopCount n x) d
  let hits := dets.filterMap (d.loopDetected n)
  match (List.range 9).filter fun b => hits.any fun x => x.1 == b with
  | [] => d
  | b :: r => d.loopFault n b ((hits.find? fun x => x.1 == b).map (·.2) |>.getD 0x1B) r

/-! ## The crowbar and its release -/

/-- The crowbar of loop n and its lend group, and what the sequencer hears (R324, R325, R366). -/
def Device.ovCrowbar (d : Device) (n : Fin 16) : Device := (d.crowbar n).crowbarsHeard d

/-- R332: the comparator is high while the loop is OFF or FAULTED. -/
def Device.ovIdle (d : Device) (n : Fin 16) : Device :=
  let d := d.updLp n fun l => { l with sense := { l.sense with ov := true } }
  if (d.lp n).st == .off || (d.lp n).st == .faulted then
    let d := (d.updLp n fun l => { l with flt := setBit l.flt 16 true }).setErr (loopPage n) (errBit 11)
    d.monitorFault ⟨n.val, by omega⟩ .powered []
  else d

/-- What the filtered comparator output does to loop n while it is high, rose saying that it has just become so: the crowbar on its level (R324),
OV_IDLE once for each rise and clear (R332), and OV again for a rise in CROWBAR (R329). -/
def Device.ovAct (d : Device) (n : Fin 16) (rose : Bool) : Device :=
  match (d.lp n).st with
  | .crowbar => if rose then d.fltSet n 0 else d
  | .off => if rose || !bit (d.lp n).flt 16 then d.ovIdle n else d
  | .faulted => if rose || !bit (d.lp n).flt 16 then d.ovIdle n else d
  | _ => d.ovCrowbar n

/-- The comparator of loop n over the voltages volts, 8 ns apart and oldest first. -/
def Device.ovWatch (d : Device) (n : Fin 16) (volts : List Nat) : Device :=
  volts.foldl (fun (d : Device) v =>
    let was := (d.lp n).sense.ov
    let d := d.ovSample n v
    if (d.lp n).sense.ov then d.ovAct n (!was) else d) d

/-- The loops that a release of loop n concerns: its lend group's loops in CROWBAR, or itself (R330). -/
def Device.releaseGroup (d : Device) (n : Fin 16) : List (Fin 16) :=
  let g := d.lendGrp n
  (List.finRange 16).filter fun m => (d.lp m).st == .crowbar && (m == n || (g != 0 && d.lendGrp m == g))

/-- R330: the release of every crowbarring loop of the group, when each is ready. -/
def Device.crowbarRelease (d : Device) (n : Fin 16) (x : List (Fin 16 × ReleaseSense)) : Device :=
  let l := d.releaseGroup n
  let seen (m : Fin 16) : Option ReleaseSense := (x.find? fun y => y.1 == m).map (·.2)
  let d := l.foldl (fun d m => match seen m with
    | some y => d.releaseCount m y.codes
    | none => d) d
  let ready (m : Fin 16) : Bool := match seen m with
    | some y => d.releaseReady m y.uv y.us
    | none => false
  if (d.lp n).st == .crowbar && l.all ready then
    l.foldl (fun d m => (d.releaseOne m d.phaseForcedLevel).loopFaultCleared m) d
  else d

/-- The warnings of one conversion: threshold comparisons without a filter (R323), as bits of LOOPn_FLT. -/
def Device.loopWarn (d : Device) (n : Fin 16) (x : LoopSamples) : Device :=
  let d := d.takeSamples n x
  let uv : Rat := d.loopMicrovolts n x.raw
  let ovW : Rat := (bits (d.lreg n 0x0C4) 29 16 * 250 : Nat)
  let uvW : Rat := (bits (d.lreg n 0x0C4) 13 0 * 250 : Nat)
  let act := (d.lp n).st.faultable
  let w : Word :=
    flag 17 (act && decide (ovW < uv)) ||| flag 18 ((d.lp n).st == .run && decide (uv < uvW)) |||
    flag 19 (((d.lp n).st == .run || (d.lp n).st == .rampdown) &&
      decide (((bits (d.lreg n 0x0C8) 12 0 * 1024 : Nat) : Int) ≤ (d.lp n).sense.iOut)) |||
    flag 20 (act && d.otWarn n)
  let before := (d.lp n).flt
  let d := d.updLp n fun l => { l with flt := l.flt ||| w }
  if w &&& ~~~before = 0 then d else d.raise (64 + n.val) (d.lp n).flt

end Sys2Proof.Machine
end

