-- ==== Sys2Proof/Machine/Fault.lean ====
section
/-! DEFINITION. The fault collector: lines (R499, R500), latching, incidents and history (R502 to R508), the reactions' entry and
release (R509 to R511), clearing (R512), the pin (R513) and the page (R519). -/

namespace Sys2Proof.Machine
open Sys2Proof

/-! ## Lines -/

/-- The pages whose error lines feed class c (R499). -/
def classPages (c : Nat) : List Nat :=
  if c < 16 then [0x010 + c]
  else if c < 24 then [0x020 + (c - 16)]
  else if 30 ≤ c ∧ c ≤ 38 then [0x054 + (c - 30)]
  else match c with
    | 24 => [0x030, 0x031, 0x032, 0x033]
    | 25 => [0x034, 0x035, 0x036, 0x037]
    | 26 => [0x040]
    | 27 => [0x041]
    | 28 => [0x044]
    | 29 => [0x048, 0x049]
    | 39 => [0x060, 0x061, 0x062, 0x063]
    | 40 => 0x070 :: (List.range 32).map (0x080 + ·)
    | 41 => [0x0A0]
    | 42 => [0x0B0, 0x0B1, 0x0C0, 0x0C4, 0x0C8]
    | 43 => [0x000, 0x001, 0x002, 0x003, 0x050]
    | 44 => [0x004, 0x005]
    | 45 => [0x006]
    | _ => []

/-- PAGE_ERR AND NOT PAGE_ERRMASK of page p: its error line is high while this is not 0 (R118). -/
def Device.unmasked (d : Device) (p : Fin 256) : Word := (d.head p).err &&& ~~~(d.head p).errMask

/-- The present level of the error line of class c (R499). -/
def Device.lineNow (d : Device) (c : Fin 64) : Bool :=
  d.flt.judging &&
  (if 48 ≤ c.val ∧ c.val < 56 then d.flt.efi.getLsbD (c.val - 48)
   else match c.val with
    | 56 => d.boot.up.ao && d.ao.clkFail
    | 57 => d.flt.aoLost && !d.boot.up.ao
    | 58 => !d.boot.up.pcie
    | 63 => d.flt.inject
    | _ => (classPages c.val).any fun p => d.unmasked (pg p) != 0)

/-- All lines as a word. -/
def Device.linesNow (d : Device) : BitVec 64 :=
  (List.finRange 64).foldl (fun w c => if d.lineNow c then w ||| BitVec.ofNat 64 (2 ^ c.val) else w) 0

/-- FAULTn is driven low (R36, R56, R513): not without VHV, where the pin is high impedance (R55, R60), and always without the rest of what the
collector needs. -/
def Device.faultPinLow (d : Device) : Bool :=
  d.boot.up.hv && (!d.powered || d.boot.held || d.boot.clkFailed || !d.flt.judging ||
  (List.finRange 64).any fun c => d.flt.stat.getLsbD c.val && !bit (d.rx c) 29)

/-- A start-blocking class bit is set (R514). -/
def Device.fltBlocks (d : Device) : Bool := (List.finRange 64).any fun c => d.flt.stat.getLsbD c.val && bit (d.rx c) 28

/-! ## Forces: entry and release -/

/-- The phases of loop n at the forced level, or released to OFF (R230). -/
def Device.forcePhases (d : Device) (n : Fin 16) : Device :=
  match d.loopForcedLevel n with
  | some lv => (d.phasesOf n fun _ => true).foldl (fun d k => d.phaseForce k lv) d
  | none => (d.phasesOf n (·.st == .forced)).foldl (fun d k => d.phaseTo k .off 0x03) d

/-- The forces of the held reactions after a change of what is held (R509 to R511): before is the machine before the change. -/
def Device.applyForces (d before : Device) : Device :=
  let d := (d.withRso fun r => { r with fault := d.linesForced }).rsoSync
  let d := foldFin 16 (fun d n =>
    if d.extActive n && !before.extActive n then (d.loopFault n 8 0x1B).forcePhases n
    else if d.extActive n || before.extActive n then d.forcePhases n else d) d
  let new := (List.finRange 128).filter fun i =>
    d.railForced i && !before.railForced i && (d.en i).st != .off && (d.en i).st != .faulted
  let d := new.foldl (fun d i => d.railFail i 7 (match loopOf i with
    | some n => (d.lp n).sense.raw
    | none => (d.en i).vmon)) d
  if new.isEmpty then d else d.wrapProgress.takeProgress

/-! ## Latching -/

/-- One history record for class c, page p and payload w, which opens an incident when the status word was 0 (R503 to R508).
opens says that this latch event opens the incident. -/
def Device.fltRecord (d : Device) (c : Fin 64) (p : Nat) (w : Word) (opens : Bool) : Device :=
  let num := if opens then (d.flt.number + 1) % 65536 else d.flt.number
  let ts := d.ts % 2 ^ 48
  let w0 := field 31 26 c.val ||| flag 25 opens ||| flag 24 (!opens) ||| field 23 16 p ||| field 15 0 num
  let row : Vector Word 4 := #v[w0, BitVec.ofNat 32 ts, field 31 16 d.flt.seq ||| field 15 0 (ts / 2 ^ 32), w]
  let i : Fin 32 := Fin.ofNat 32 d.flt.histNext
  let sq := d.flt.seq
  let d : Device := { d with flt := { d.flt with
    stat := d.flt.stat ||| BitVec.ofNat 64 (2 ^ c.val)
    number := num
    records := if opens then 1 else satInc 255 d.flt.records
    first := if opens then flag 31 true ||| field 29 24 c.val ||| field 23 16 p ||| field 15 0 num else d.flt.first
    firstTs := if opens then ts else d.flt.firstTs
    hist := d.flt.hist.set i row
    histNext := (d.flt.histNext + 1) % 32
    wrapped := d.flt.wrapped || d.flt.histCount == 32
    histCount := min 32 (d.flt.histCount + 1)
    seq := (d.flt.seq + 1) % 65536
    cnt := upd d.flt.cnt c (satInc 255) } }
  let d := (d.raise 9 (field 21 16 c.val ||| field 15 0 sq)).pmcCountAll 0x38 1
  if opens then ((d.dayDev fun x => { x with incidents := satInc 0xFFFF x.incidents, firstClass := some (x.firstClass.getD c.val) }).rushTrigger 3 c.val
    |>.raise 8 (field 21 16 c.val ||| field 15 0 num)).msix 8 else d

/-- The latch events of class c against the lines now (R502, R504): the record pages with their payloads. While the class bit is clear only a
rise of the class's line latches: DEDUCED. -/
def Device.latchEvents (d : Device) (c : Fin 64) (now : BitVec 64) : List (Nat × Word) :=
  if !bit (d.rx c) 31 || !d.flt.judging then []
  else if (classPages c.val).isEmpty then
    if now.getLsbD c.val && !d.flt.line.getLsbD c.val then
      [(0xFF, if 48 ≤ c.val ∧ c.val < 56 then BitVec.ofNat 32 d.flt.efi.toNat else 0)]
    else []
  else
    (classPages c.val).filterMap fun p =>
      let u := d.unmasked (pg p)
      let s := d.flt.seen[pg p]
      if u &&& ~~~s != 0 && (!d.flt.line.getLsbD c.val || d.flt.stat.getLsbD c.val) then some (p, u) else none

/-- One FAB cycle of the collector (R502 to R509): latch events in ascending class order, then the scene request of the lowest
SCENE among the classes newly set, then the forces. -/
def Device.faultLatch (d : Device) : Device :=
  let before := d
  let now := d.linesNow
  let evs := (List.finRange 64).flatMap fun c => (d.latchEvents c now).map fun e => (c, e)
  let opens := decide (d.flt.stat = 0)
  let d := (evs.zip (List.range evs.length)).foldl (fun d x => d.fltRecord x.1.1 x.1.2.1 x.1.2.2 (opens && x.2 == 0)) d
  let d : Device := { d with flt := { d.flt with
    line := now &&& ~~~(BitVec.ofNat 64 (2 ^ 63)), inject := false
    seen := Vector.ofFn fun p => d.unmasked p } }
  let newly := (List.finRange 64).filter fun c => d.flt.stat.getLsbD c.val && !before.flt.stat.getLsbD c.val
  let d := d.applyForces before
  let scenes := (newly.filter fun c => bit (d.rx c) 27).map fun c => bits (d.rx c) 26 24
  let d := match scenes with
    | [] => d
    | x :: r => d.sceneRequest (r.foldl min x) 2 byHw
  d.syncState fltPage (if d.flt.stat = 0 then 0 else 1) 0x03 byHw

/-- The fall of the line of class c: a reaction with LATCH 0 is released (R510). -/
def Device.faultLineFall (d : Device) (c : Fin 64) : Device :=
  if d.flt.line.getLsbD c.val && !d.lineNow c then
    let before := d
    let d : Device := { d with flt := { d.flt with
      line := d.flt.line &&& ~~~(BitVec.ofNat 64 (2 ^ c.val))
      seen := (classPages c.val).foldl (fun v p => v.set (pg p) 0) d.flt.seen } }
    d.applyForces before
  else d

/-- W1C of the status word (R512): a bit clears only while its line is low; bit 56 clears the clock-failure flag with it. The
last bit cleared closes the incident (R503). -/
def Device.faultClear (d : Device) (w : BitVec 64) (who : Nat) : Device :=
  let before := d
  let d : Device := if w.getLsbD 56 then { d with ao := { d.ao with clkFail := false } } else d
  let low := ~~~d.linesNow
  let clr := w &&& low &&& d.flt.stat
  let stat := d.flt.stat &&& ~~~clr
  let seen := Vector.ofFn fun p => d.flt.seen[p] &&& d.unmasked p
  let now := d.linesNow
  let d : Device := { d with flt := { d.flt with stat := stat, line := d.flt.line &&& now, seen := seen } }
  let d := if before.flt.stat ≠ 0 ∧ stat = 0 then d.raise 10 (field 15 0 d.flt.number) else d
  (d.applyForces before).syncState fltPage (if stat = 0 then 0 else 1) 0x01 who

/-- A soft reset of page 0x050 (R519). -/
def Device.fltSoftReset (d : Device) : Device :=
  { d with flt := { d.flt with
      cnt := Vector.replicate 64 0, hist := Vector.replicate 32 (Vector.replicate 4 0)
      histNext := 0, histCount := 0, wrapped := false } }

/-- The level of EFIm, which has held for held × 8 ns, passes its filter (R517): ignored before the 1.30 ms event. -/
def Device.efiInput (d : Device) (m : Fin 8) (high : Bool) (held : Nat) : Device :=
  if d.flt.judging && decide (max 1 (bits (d.reg (pageAddr fltPage 0x064)) 31 24) ≤ held) then
    let act := high == bit (d.reg (pageAddr fltPage 0x064)) (8 + m.val)
    let b : BitVec 8 := BitVec.ofNat 8 (2 ^ m.val)
    { d with flt := { d.flt with efi := if act then d.flt.efi ||| b else d.flt.efi &&& ~~~b } }
  else d

/-- The RO words of page 0x050. -/
def Device.fltView (d : Device) (o : Nat) : Option Word :=
  let f := d.flt
  if o = 0x040 then some (f.stat.setWidth 32)
  else if o = 0x044 then some ((f.stat >>> 32).setWidth 32)
  else if o = 0x048 then some (d.linesNow.setWidth 32)
  else if o = 0x04C then some ((d.linesNow >>> 32).setWidth 32)
  else if o = 0x050 then some f.first
  else if o = 0x054 then some (BitVec.ofNat 32 f.firstTs)
  else if o = 0x058 then some (field 15 0 (f.firstTs / 2 ^ 32))
  else if o = 0x05C then some (flag 31 (decide (f.stat ≠ 0)) ||| field 23 16 f.records ||| field 15 0 f.number)
  else if o = 0x060 then some (flag 31 f.wrapped ||| field 13 8 f.histCount ||| field 4 0 f.histNext)
  else if o = 0x068 then some (BitVec.ofNat 32 f.efi.toNat)
  else if h : 0x080 ≤ o ∧ o < 0x0C0 ∧ o % 4 = 0 then
    let w := (o - 0x080) / 4
    some ((List.finRange 4).foldl (fun (x : Word) b =>
      x ||| field (8 * b.val + 7) (8 * b.val) (f.cnt[4 * w + b.val]'(by have := b.isLt; omega))) 0)
  else if h : 0x400 ≤ o ∧ o < 0x600 ∧ o % 4 = 0 then
    some ((f.hist[(o - 0x400) / 16]'(by omega))[(o - 0x400) / 4 % 4]'(by omega))
  else none

end Sys2Proof.Machine
end

