-- ==== Sys2Proof/Machine/PowerPath.lean ====
section
/-! DEFINITION. The hold-up path: measurement and source classes (R402 to R408), path states (R409 to R414), hand-over (R415 to
R419), presence and removal (R420 to R422), reserve (R423 to R425), the charger (R426 to R431), lamps (R432, R433), and the views and
write checks of pages 0x040 and 0x041 (R435 to R438). -/

namespace Sys2Proof.Machine
open Sys2Proof

/-! ## Settings -/

def hupPage : Nat := 0x040
def chgPage : Nat := 0x041
/-- A register of page 0x040 or 0x041. -/
def Device.hreg (d : Device) (o : Nat) : Word := d.reg (pageAddr hupPage o)
def Device.creg (d : Device) (o : Nat) : Word := d.reg (pageAddr chgPage o)

/-- CELLS. -/
def Device.cells (d : Device) : Nat := bits (d.creg 0x040) 31 28

/-- A per-cell voltage of v (10 mV steps above 2.5 V) over the pack, in 10 mV units. -/
def Device.packAt (d : Device) (v : Nat) : Nat := d.cells * (250 + v)

/-- A charge voltage per cell of v (5 mV steps above 3.5 V) over the pack, in 5 mV units. -/
def Device.packCv (d : Device) (v : Nat) : Nat := d.cells * (700 + v)

/-- V_PACK / CELLS is below V_CUT. -/
def Device.belowCut (d : Device) : Bool := decide (d.hup.meas.vpack < d.packAt (bits (d.hreg 0x058) 23 16))

/-- V_PACK / CELLS lies between V_CUT and 4.25 V. -/
def Device.packInRange (d : Device) : Bool := !d.belowCut && decide (d.hup.meas.vpack ≤ d.cells * 425)

/-- I_LIM in A (R405). -/
def Device.iLim (d : Device) : Nat :=
  match d.hup.cls with
  | 0 => 30 | 1 => 30 | 2 => 45 | 3 => 60 | 4 => 75 | 5 => 90 | 6 => 105
  | _ => bits (d.hreg 0x054) 31 24

/-- ISRC exceeds I_LIM. -/
def Device.overLimit (d : Device) : Bool := decide ((d.iLim * 16 : Nat) < d.hup.meas.isrc)

/-- The band of R405 of a level in mV. -/
def srcBand (mv : Nat) : Nat :=
  if mv < 125 then 0 else if mv < 365 then 1 else if mv < 578 then 2 else if mv < 762 then 3
  else if mv < 940 then 4 else if mv < 1134 then 5 else if mv < 1368 then 6 else 7

/-- The pack temperature lies below T_DIS_MAX. -/
def Device.packCool (d : Device) : Bool :=
  match d.packTemp with
  | some t => decide (t < (bits (d.hreg 0x058) 31 24 * 16 : Nat))
  | none => false

/-- VBUS lies in the source window (R418). -/
def Device.inWindow (d : Device) (m : HupMeas) : Bool :=
  decide (bits (d.hreg 0x04C) 9 0 * 10 ≤ m.vbus) && decide (m.vbus ≤ bits (d.hreg 0x04C) 25 16 * 10)

/-! ## Words -/

def PathState.code : PathState → Nat
  | .detect => 0 | .nopack => 1 | .standby => 2 | .charge => 3 | .share => 4 | .handover => 5 | .batt => 6
  | .returning => 7 | .inhibit => 8 | .empty => 9
def ChgState.code : ChgState → Nat
  | .off => 0 | .qual => 1 | .prechg => 2 | .cc => 3 | .cv => 4 | .done => 5 | .draining => 6 | .fault => 7 | .suspend => 8

/-- PRECHG, CC or CV. -/
def ChgState.charging : ChgState → Bool
  | .prechg => true | .cc => true | .cv => true | _ => false

/-- HUP_MEAS0 and HUP_MEAS1. -/
def measWord0 (m : HupMeas) : Word := field 31 16 m.vbus ||| field 15 0 m.vpack
def measWord1 (m : HupMeas) : Word := field 31 16 (toField 16 m.isrc) ||| field 15 0 (toField 16 m.ibat)

/-- A voltage in 10 mV units from the level in µV at its sense pin, for a divider of ratio / 65,536. -/
def senseVolts (pin : Rat) (ratio : Nat) : Nat := min 0xFFFF (ratOpen (ratDiv (pin * 65536) ((ratio * 10000 : Nat) : Rat))).toNat

/-- V_PACK in 10 mV units from the level at VPACK_SNS (R402, R403). -/
def Device.packVolts (d : Device) (pin : Rat) : Nat := senseVolts pin (bits (d.hreg 0x044) 15 0)

/-- The measurements of R402: the pins' means, scaled by the divider ratios of HUP_SCALE and the shunts of HUP_SHUNT. -/
def Device.scaled (d : Device) (x : HupPins) : HupMeas :=
  let amps (pin : Rat) (ohms : Nat) : Int := clampI (-32768) 32767 (ratOpen (ratDiv (pin * 16) ((ohms : Nat) : Rat)))
  { vbus := senseVolts x.vbus (bits (d.hreg 0x044) 31 16)
    vpack := d.packVolts x.vpack
    isrc := amps x.isrc (bits (d.hreg 0x048) 31 16)
    ibat := amps x.ibat (bits (d.hreg 0x048) 15 0) }

/-- The hold-up record changed by f; the charger record changed by f. -/
def Device.updHup (d : Device) (f : Hup → Hup) : Device := { d with hup := f d.hup }
def Device.updChg (d : Device) (f : Chg → Chg) : Device := { d with chg := f d.chg }

/-- A new set of means: the sag comparator falls when VBUS is back at SAG_THR (R404); in BATT and EMPTY the qualification
timer runs, restarts or stops (R418). -/
def Device.setMeas (d : Device) (m : HupMeas) : Device :=
  let win := d.inWindow m
  let watch := d.hup.st == .batt || d.hup.st == .empty
  d.updHup fun h => { h with
    meas := m
    sag := h.sag && decide (m.vbus < bits (d.hreg 0x050) 25 16 * 10)
    srcInWin := win
    qualStart := if watch && win && !h.qualifying then d.cycle else h.qualStart
    qualifying := watch && win }

/-! ## Charger -/

/-- PAGE_CTL.ENABLE of page 0x041. -/
def Device.chgEnabled (d : Device) : Bool := bit (d.head (pg chgPage)).ctl 0

/-- The command in force: I_CC and V_CV (R429); restored safe values are in force until the next write of HUP_CHGCMD (R122). -/
def Device.chgCommand (d : Device) : Nat × Nat :=
  if d.chg.safe then (bits (d.safeWord (pageAddr chgPage 0x04C)) 23 16, bits (d.safeWord (pageAddr chgPage 0x04C)) 7 0)
  else if d.chg.fallback then (bits (d.creg 0x04C) 23 16, bits (d.creg 0x04C) 7 0)
  else (bits (d.creg 0x048) 23 16, bits (d.creg 0x048) 7 0)

/-- HUP_BANDn. -/
def Device.bandWord (d : Device) (n : Nat) : Word := d.creg (0x050 + 4 * n)

/-- The applied charge current, 0.125 A units, and the applied CV per cell (R428). -/
def Device.iApplied (d : Device) : Nat :=
  let i := min d.chgCommand.1 (bits (d.bandWord d.chg.band) 23 16)
  match d.chg.throttle with
  | some t => min i t
  | none => i
def Device.vApplied (d : Device) : Nat := min d.chgCommand.2 (bits (d.bandWord d.chg.band) 7 0)

/-- The lowest-numbered suspend cause, 0 for none (R430). -/
def Device.suspCause (d : Device) : Nat :=
  if bits (d.bandWord d.chg.band) 23 16 = 0 then 1
  else if d.hup.st != .standby && d.hup.st != .charge then 2
  else if d.chg.throttle == some 0 then 3
  else if d.chgCommand.1 = 0 then 4
  else if d.packTemp.isNone then 5
  else 0

/-- HUP_CHGSTAT. -/
def Device.chgStat (d : Device) : Word :=
  flag 31 d.chg.fallback ||| flag 30 d.chg.latched ||| field 29 27 d.chg.band |||
  field 26 24 (if d.chg.st == .suspend then d.suspCause else 0) ||| field 23 16 d.iApplied ||| field 15 8 d.vApplied |||
  field 7 4 d.chg.prev.code ||| field 3 0 d.chg.st.code

/-- The charger enters st. -/
def Device.chgTo (d : Device) (st : ChgState) (cause : Nat) (who : Nat := byHw) : Device :=
  if d.chg.st = st then d
  else
    let d := (d.updChg fun c => { c with prev := c.st, st := st }).transition chgPage st.code cause who
    d.raise 44 d.chgStat

/-- The pack voltage is at or above the applied CV minus RECHG. -/
def Device.chgFull (d : Device) : Bool :=
  decide (d.packCv d.vApplied ≤ 2 * d.hup.meas.vpack + d.cells * bits (d.creg 0x040) 7 0)

/-! ## The path -/

/-- The lowest-numbered inhibit cause, 0 for none (R412). -/
def Device.inhCause (d : Device) : Nat :=
  if !d.hup.en then 1
  else if d.hup.present && d.hup.hot then 2
  else if d.hup.present && !d.packInRange then 3
  else if d.hup.convFault then 4
  else if d.hup.present && d.packTemp.isNone then 5
  else 0

/-- Inhibit cause 2 follows the pack temperature, with its 5 °C of hysteresis. -/
def Device.hotCheck (d : Device) : Device :=
  match d.packTemp with
  | some t =>
    let lim : Int := (bits (d.hreg 0x058) 31 24 * 16 : Nat)
    d.updHup fun h => { h with hot := decide (lim ≤ t) || (h.hot && decide (lim - 80 < t)) }
  | none => d

/-- The pack is qualified (R410). -/
def Device.packQualified (d : Device) : Bool := d.hup.present && d.packInRange && d.packCool && d.hup.en

/-- RESERVE_LOW as R424 defines it. -/
def Device.reserveNow (d : Device) : Bool :=
  let r := d.hreg 0x05C
  (bits r 31 16 != 0xFFFF && decide (bits r 31 16 < bits r 15 8 * 10)) ||
  decide (d.hup.meas.vpack < d.packAt (bits r 7 0)) ||
  d.hup.st == .nopack || d.hup.st == .inhibit || d.hup.st == .empty

/-- RESERVE_LOW as HUP_STAT shows it: it has its initial value at the end of DETECT. -/
def Device.reserveShown (d : Device) : Bool := d.hup.st != .detect && d.reserveNow

/-- RESERVE_LOW after a change: each rise is an event, and with RSV_SEQ a rank-1 request for HUP_SCENE, which has no effect in
IDLE at that scene (R390, R424). -/
def Device.rsvSync (d : Device) : Device :=
  if d.hup.st == .detect then d
  else
    let now := d.reserveNow
    let rose := now && !d.hup.rsvLow
    let d := d.updHup fun h => { h with rsvLow := now }
    if rose then
      let d := d.raise 43 (d.hreg 0x05C)
      let sc := bits (d.reg (pageAddr seqPage 0x040)) 14 12
      if bit (d.hreg 0x040) 23 && !(d.seq.st == .idle && d.seq.cur == sc) then d.sceneRequest sc 1 byHw else d
    else d

/-- The legs of a path state (R409). -/
def PathState.legs : PathState → Legs
  | .standby => .ready | .charge => .charging | .share => .sharing | .handover => .startPulse | .batt => .emulating
  | .returning => .emulating | _ => .hiz

/-- The path enters st (R409, R411); in NOPACK RSV is 0 (R421, R425). The qualification timer runs on from BATT into EMPTY (R418). -/
def Device.hupSet (d : Device) (st : PathState) (cause : Nat) (who : Nat := byHw) : Device :=
  let d := if st == .nopack then d.setRegBits (pageAddr hupPage 0x05C) 31 16 0 else d
  let d := (d.updHup fun h => { h with
    prev := h.st, st := st, legs := st.legs
    srcHiz := st == .inhibit && (h.st == .handover || h.st == .batt)
    sagNoho := h.sagNoho && st != .standby
    qualifying := h.qualifying && st == .empty }).transition hupPage st.code cause who
  d.rsvSync.holdCheck

/-- The charger stops at once: to SUSPEND at a hand-over, to OFF at removal (R430, R431). -/
def Device.chgStop (d : Device) (st : ChgState) (cause : Nat) : Device :=
  (d.updChg fun c => { c with latched := false }).chgTo st cause

/-- The charger drains (R430). -/
def Device.chgDrain (d : Device) (cause : Nat) : Device := if d.chg.st.charging then d.chgTo .draining cause else d

/-- Sag detection acts (R415): HANDOVER with its start pulse; charging stops at once. iL0 in 0.0625 A units. -/
def Device.handover (d : Device) (iL0 : Int) : Device :=
  let m := d.hup.meas
  let vh : Nat := bits (d.hreg 0x050) 9 0 * 10
  let iL : Rat := ratDiv ((m.isrc * (m.vbus : Nat) : Int) : Rat) ((32 * min m.vpack vh : Nat) : Rat)
  let ns : Rat := ratDiv (((bits (d.hreg 0x040) 19 12 * 20 : Nat) : Rat) * (iL - (iL0 : Rat) / 16) * 100) (m.vpack : Rat)
  let d := if d.chg.st.charging || d.chg.st == .draining then d.chgStop .suspend 0x02 else d
  let d := (d.hupSet .handover 0x12).updHup fun h => { h with tStart := (max 0 (min 1800 (ratOpen ns))).toNat }
  (d.dayDev fun x => { x with handovers := satInc 0xFFFF x.handovers }).raise 40 (measWord0 m)

/-- A path state in which a sag starts the hand-over (R411). -/
def PathState.sagState : PathState → Bool
  | .standby => true | .charge => true | .share => true | .returning => true | _ => false

/-- The path enters st, and hands over at once when a sag is already detected (R411). DEDUCED: no channel carries current at that entry. -/
def Device.hupTo (d : Device) (st : PathState) (cause : Nat) (who : Nat := byHw) : Device :=
  let d := d.hupSet st cause who
  if st.sagState && d.hup.sag then d.handover 0 else d

/-- The path follows the charger: CHARGE while it is in PRECHG, CC, CV or DRAINING (R411). -/
def Device.pathFollow (d : Device) : Device :=
  if d.hup.st == .standby && d.chg.st.charging then d.hupTo .charge 0x1C
  else if d.hup.st == .charge && !d.chg.st.charging && d.chg.st != .draining then d.hupTo .standby 0x1D
  else d

/-- A held write of 0 to ENABLE acts once the path is in STANDBY, NOPACK or INHIBIT (R413). -/
def Device.enableDeferred (d : Device) : Device :=
  if d.hup.enHeld && (d.hup.st == .standby || d.hup.st == .nopack || d.hup.st == .inhibit) then
    let d := d.updHup fun h => { h with en := false, enHeld := false, convAck := true }
    if d.hup.st == .inhibit then d else d.hupTo .inhibit 0x1A
  else d

/-- A write of PAGE_CTL.ENABLE of page 0x040 acts (R412, R413). -/
def Device.hupEnable (d : Device) (on : Bool) (who : Nat) : Device :=
  if on then
    d.updHup fun h => { h with en := true, enHeld := false, convFault := h.convFault && !h.convAck, convAck := false }
  else match d.hup.st with
    | .handover => d.updHup fun h => { h with enHeld := true }
    | .batt => d.updHup fun h => { h with enHeld := true }
    | .returning => d.updHup fun h => { h with enHeld := true }
    | .empty => d.updHup fun h => { h with enHeld := true }
    | .detect => d.updHup fun h => { h with en := false, convAck := true }
    | .inhibit => d.updHup fun h => { h with en := false, convAck := true }
    | _ =>
      let d := d.updHup fun h => { h with en := false, convAck := true }
      let d := d.chgDrain 0x02
      d.hupTo .inhibit 0x1A who

/-! ## Events of the path -/

/-- R405: a source class is adopted. -/
def Device.adoptClass (d : Device) (mv : Vector Nat 4) : Device :=
  let b := srcBand mv[0]
  if mv.toList.all fun v => srcBand v == b then
    let d := d.updHup fun h => { h with cls := b }
    if b = 0 then d.setErr hupPage (errBit 11) else d
  else d

/-- The path enters SHARE where R407 permits it; a charge ends first. -/
def Device.shareEnter (d : Device) : Device :=
  if !d.reserveNow && d.packCool then (d.chgDrain 0x02).hupTo .share 0x18 else d

/-- R406, R407: one 10 µs step of the input limit. DEDUCED: whether ISRC still exceeds I_LIM shows in the step after the one that has cut
the applied current to 0. -/
def Device.throttleStep (d : Device) (m : HupMeas) : Device :=
  let d := (d.setMeas m).hotCheck
  if d.hup.st == .standby || d.hup.st == .charge then
    if d.overLimit then
      let i := d.iApplied
      if i = 0 then (d.updChg fun c => { c with throttle := some 0 }).shareEnter
      else
        let ex : Rat := ratDiv (((m.isrc - (d.iLim * 16 : Nat) : Int) : Rat) / 2 * (m.vbus : Rat)) (m.vpack : Rat)
        let t := (max 0 ((i : Int) - ratOpen ex)).toNat
        d.updChg fun c => { c with throttle := some t }
    else d.updChg fun c => { c with throttle := none }
  else d

/-- R408. -/
def Device.srcOverload (d : Device) (m : HupMeas) : Device :=
  let d := d.setMeas m
  let permitted := (d.hup.st == .standby || d.hup.st == .charge || d.hup.st == .share) && !d.reserveNow && d.packCool
  if d.overLimit && !permitted then d.setErr hupPage (errBit 12) else d

/-- SHARE ends (R411). -/
def Device.shareEnd (d : Device) (m : HupMeas) : Device :=
  let d := d.setMeas m
  if d.hup.st == .share && decide (m.ibat.natAbs < 8) then d.hupTo .standby 0x19 else d

/-- DETECT ends (R411); RESERVE_LOW takes its initial value (R424). -/
def Device.detectEnd (d : Device) (low : Bool) (m : HupMeas) : Device :=
  let d := ((d.setMeas m).updHup fun h => { h with present := low }).hotCheck
  if d.hup.st == .detect then
    let st : PathState := if d.packQualified then .standby else if !low then .nopack else .inhibit
    let d := d.updHup fun h => { h with rsvLow := true }
    let d := d.hupSet st 0x10
    if st.sagState && d.hup.sag then d.handover 0 else d
  else d

/-- The pack becomes qualified (R411). -/
def Device.packQual (d : Device) (m : HupMeas) : Device :=
  let d := ((d.setMeas m).updHup fun h => { h with present := h.present || d.boot.up.ao }).hotCheck
  if (d.hup.st == .nopack || d.hup.st == .inhibit) && d.packQualified && d.inhCause == 0 then
    d.hupTo .standby (if d.hup.st == .nopack then 0x10 else 0x1B)
  else d

/-- An inhibit cause appears (R411, R412). -/
def Device.pathInhibit (d : Device) (m : HupMeas) : Device :=
  let d := (d.setMeas m).hotCheck
  let c := d.inhCause
  match d.hup.st with
  | .nopack => if c = 1 then d.hupTo .inhibit 0x1A else d
  | .standby => if c != 0 then d.hupTo .inhibit 0x1A else d
  | .charge => if c != 0 then (d.chgDrain 0x02).hupTo .inhibit 0x1A else d
  | .share => if c != 0 then d.hupTo .inhibit 0x1A else d
  | _ => d

/-- A converter fault (R412 cause 4). -/
def Device.converterFault (d : Device) (m : HupMeas) : Device :=
  let d := d.setMeas m
  let holds := decide (((bits (d.hreg 0x058) 7 0 * 16 : Nat) : Int) ≤ m.ibat) && decide (m.vbus < bits (d.hreg 0x050) 9 0 * 9)
  let dis := d.hup.st == .handover || d.hup.st == .batt || d.hup.st == .share
  if holds && dis then
    ((d.updHup fun h => { h with convFault := true, convAck := false }).setErr hupPage (errBit 10)).hupTo .inhibit 0x1A
  else d

/-- A state in which a sag starts no hand-over and sets SAG_NOHO (R414). -/
def PathState.noHandover : PathState → Bool
  | .nopack => true | .inhibit => true | .empty => true | .detect => true | _ => false

/-- The comparator has been low for SAG_FILT, low in 8 ns units: 0 acts as 1 (R404, R729). -/
def Device.sagSeen (d : Device) (m : HupMeas) (low : Nat) : Bool :=
  decide (m.vbus < bits (d.hreg 0x050) 25 16 * 10) && decide (max 1 (bits (d.hreg 0x040) 31 24) ≤ low)

/-- A sag is detected (R404, R411, R414). -/
def Device.sagDetect (d : Device) (m : HupMeas) (iL0 : Int) (low : Nat) : Device :=
  if d.sagSeen m low then
    let d := (d.setMeas m).updHup fun h => { h with sag := true, sagNoho := h.sagNoho || h.st.noHandover }
    if d.hup.st.sagState then d.handover iL0 else d
  else d

/-- A sag in NOPACK, INHIBIT, EMPTY or DETECT (R414). -/
def Device.sagNoHandover (d : Device) (m : HupMeas) (low : Nat) : Device :=
  if d.sagSeen m low && d.hup.st.noHandover then (d.setMeas m).updHup fun h => { h with sag := true, sagNoho := true } else d

/-- The start pulse ends (R415). -/
def Device.pulseEnd (d : Device) : Device :=
  if d.hup.st == .handover && d.hup.legs == .startPulse then d.updHup fun h => { h with legs := .holding } else d

/-- ISRC has been at or below I_OFF for 1 µs (R411). -/
def Device.handoverDone (d : Device) (m : HupMeas) : Device :=
  let d := d.setMeas m
  if d.hup.st == .handover && decide (m.isrc ≤ ((bits (d.hreg 0x054) 7 0 * 2 : Nat) : Int)) then d.hupTo .batt 0x13 else d

/-- HO_TMO (R411). -/
def Device.handoverTimeout (d : Device) : Device :=
  if d.hup.st == .handover then (d.hupTo .batt 0x14).setErr hupPage (errBit 9) else d

/-- The qualification time left, ms: QUAL_T as it stands less the running time (R418, R729). -/
def Device.qualLeft (d : Device) : Nat :=
  if d.hup.qualifying then bits (d.hreg 0x040) 10 0 - (d.cycle - d.hup.qualStart) / 125000 else 0

/-- Qualification is complete: every mean has lain in the window for QUAL_T (R418). -/
def Device.sourceQualified (d : Device) (m : HupMeas) : Device :=
  let d := d.setMeas m
  if d.hup.qualifying && d.qualLeft == 0 then let d := d.hupTo .returning 0x15; d.raise 41 (measWord0 m) else d

/-- RETURN ends (R411). -/
def Device.returnDone (d : Device) (m : HupMeas) : Device :=
  let d := (d.setMeas m).hotCheck
  if d.hup.st == .returning then d.hupTo (if d.packQualified then .standby else .inhibit) 0x16 else d

/-- The pack is empty (R411). -/
def Device.packEmpty (d : Device) (m : HupMeas) : Device :=
  let d := d.setMeas m
  if d.hup.st == .batt && d.belowCut then d.hupTo .empty 0x17 else d

/-- What R420 to R422 take for a removal: PACK_DET, judged only while VAO is up, or a step of more than 2.0 V of V_PACK. -/
def Device.removalSeen (d : Device) : Removal → Bool
  | .det => d.boot.up.ao && d.hup.st != .detect && d.hup.st != .nopack
  | .step a b =>
    let v : Rat := ratDiv ((b - a) * 65536) ((bits (d.hreg 0x044) 15 0 : Nat) : Rat)
    (d.hup.st == .standby || d.hup.st == .charge) && decide (2000000 < max v (-v))

/-- The pack is removed (R420 to R422). -/
def Device.packRemoval (d : Device) (how : Removal) : Device :=
  if d.removalSeen how then
    let d := d.chgStop .off 0x02
    let d := d.updHup fun h => { h with present := h.present && !d.boot.up.ao }
    let d := (d.hupSet .nopack 0x11).setErr hupPage (errBit 13)
    d.raise 42 (measWord0 d.hup.meas)
  else d

/-! ## Events of the charger -/

/-- A write of HUP_CHGCMD (R429), with its limits. -/
def Device.chgCommandWrite (d : Device) (w : Word) : Device :=
  let w := setBits (setBits w 23 16 (min 160 (bits w 23 16))) 7 0 (min 140 (bits w 7 0))
  (d.setReg (pageAddr chgPage 0x048) (w &&& 0x00FF00FF)).updChg fun c => { c with fallback := false, safe := false }

/-- PERIOD without a write (R429); restored safe values stay in force, without CWD_FB (R122). -/
def Device.chgFallback (d : Device) : Device :=
  if d.chg.fallback || d.chg.safe then d
  else
    let d := (d.updChg fun c => { c with fallback := true }).setErr chgPage (errBit 10)
    d.raise 45 d.chgStat

/-- QUAL and what follows it (R430). -/
def Device.chgQual (d : Device) (m : HupMeas) : Device :=
  let d := d.setMeas m
  let d := if d.chg.st == .off && d.chgEnabled && d.hup.st == .standby then d.chgTo .qual 0x02 else d
  if d.chg.st == .qual then
    let st : ChgState :=
      if d.suspCause != 0 then .suspend
      else if m.vpack < d.packAt (bits (d.creg 0x044) 7 0) then .prechg
      else if d.chgFull then .done else .cc
    (d.chgTo st (if st = .suspend then 0x02 else 0x20)).pathFollow
  else d

/-- PRECHG ends (R430). -/
def Device.prechgDone (d : Device) (m : HupMeas) : Device :=
  let d := d.setMeas m
  if d.chg.st == .prechg && decide (d.packAt (bits (d.creg 0x044) 7 0) ≤ m.vpack) then d.chgTo .cc 0x21 else d

/-- The charger enters FAULT (R430). -/
def Device.chgFault (d : Device) (cause : Nat) : Device := ((d.chgTo .fault cause).setErr chgPage (errBit 9)).pathFollow

/-- CV is reached (R430). -/
def Device.cvReached (d : Device) (m : HupMeas) : Device :=
  let d := d.setMeas m
  if d.chg.st == .cc && decide (d.packCv d.vApplied ≤ 2 * m.vpack) then d.chgTo .cv 0x22 else d

/-- The charge terminates (R430); entering DONE from CV is the gauge's full-charge point (R452), but for a gauge in NOT_RESTORED or
NOPACK (R475). -/
def Device.chgTerminated (d : Device) (m : HupMeas) : Device :=
  let d := d.setMeas m
  if d.chg.st == .cv && decide (m.ibat.natAbs < bits (d.creg 0x040) 15 8 * 2) then
    let d := (d.chgTo .done 0x23).pathFollow
    let runs := d.gau.st == .seeking || d.gau.st == .counting || d.gau.st == .starved
    { d with gau := { d.gau with fullPoint := d.gau.fullPoint || runs } }
  else d

/-- Recharge (R430). -/
def Device.recharge (d : Device) (m : HupMeas) : Device :=
  let d := d.setMeas m
  if d.chg.st == .done && !d.chgFull then d.chgTo .qual 0x24 else d

/-- The over-voltage fault (R430): above the applied CV + 50 mV per cell while charging. -/
def Device.chgOv (d : Device) (m : HupMeas) : Device :=
  let d := d.setMeas m
  if d.chg.st.charging && decide (d.packCv (d.vApplied + 10) < 2 * m.vpack) then d.chgFault 0x02 else d

/-- A suspend cause (R430). -/
def Device.chgSuspend (d : Device) (m : HupMeas) : Device :=
  let d := d.setMeas m
  if d.suspCause = 0 then d
  else if d.chg.st.charging then d.chgTo .draining 0x02
  else if d.chg.st == .qual then d.chgTo .suspend 0x02
  else d

/-- DRAINING ends (R430, R431). -/
def Device.chgDrained (d : Device) (m : HupMeas) (late : Bool) : Device :=
  let d := d.setMeas m
  if d.chg.st == .draining && (late || decide (m.ibat.natAbs < 4)) then
    let st : ChgState := if d.chg.latched then .qual else if d.chgEnabled then .suspend else .off
    ((d.updChg fun c => { c with latched := false }).chgTo st 0x26).pathFollow
  else d

/-- No suspend cause remains (R430, R431). -/
def Device.chgResume (d : Device) (m : HupMeas) : Device :=
  let d := d.setMeas m
  let d := if d.overLimit then d else d.updChg fun c => { c with throttle := none }
  if d.suspCause = 0 then
    if d.chg.st == .suspend && d.hup.st == .standby then d.chgTo .qual 0x02
    else if d.chg.st == .draining && d.chgEnabled then d.updChg fun c => { c with latched := true }
    else d
  else d

/-- The temperature that decides the band (R426). -/
def Device.bandTemp (d : Device) : Option Int :=
  match d.packTemp with
  | some t => if t < sbits (d.bandWord 2) 31 24 * 16 then minInt d.packVals else some t
  | none => none

/-- The band of temperature t without hysteresis. -/
def Device.bandOf (d : Device) (t : Int) : Nat :=
  [1, 2, 3, 4].foldl (fun b n => if sbits (d.bandWord n) 31 24 * 16 ≤ t then n else b) 0

/-- The band changes (R427). -/
def Device.bandChange (d : Device) : Device :=
  match d.bandTemp with
  | none => d
  | some t =>
    let cur := d.chg.band
    let cand := d.bandOf t
    let new :=
      if cur < cand then (if sbits (d.bandWord (cur + 1)) 31 24 * 16 + 16 ≤ t then cand else cur)
      else if cand < cur then (if t ≤ sbits (d.bandWord cur) 31 24 * 16 - 16 then cand else cur)
      else cur
    let d := d.updChg fun c => { c with band := new }
    if new = cur then d
    else if bits (d.bandWord new) 23 16 = 0 then d.chgDrain 0x25 else d

/-- A write of PAGE_CTL.ENABLE of page 0x041 (R430, R431). -/
def Device.chgEnable (d : Device) (on : Bool) (who : Nat) : Device :=
  if on then
    if d.chg.st == .draining then d.updChg fun c => { c with latched := true } else d
  else
    let d := d.updChg fun c => { c with latched := false }
    if d.chg.st.charging then d.chgTo .draining 0x01 who
    else if d.chg.st == .draining then d
    else d.chgTo .off 0x01 who

/-! ## Pins and lamps -/

/-- The power path commands its ORing outputs: the call sheet is loaded and the clocks run. -/
def Device.hupRuns (d : Device) : Bool := d.live && decide (5 ≤ d.boot.stage) && d.boot.stage != 0xE

/-- BAT_OR and SRC_OR (R409, R509, R36, R57); none is high impedance. While the power path does not run, the hold latches keep them. -/
def Device.batOr (d : Device) : Option Bool :=
  if !d.boot.up.hv then none
  else if !d.hupRuns then d.hup.batHold
  else if d.packOff then some false
  else match d.hup.st with
    | .detect => none | .nopack => some false | .inhibit => some false | .empty => some false | _ => some true
def Device.srcOr (d : Device) : Option Bool :=
  if !d.boot.up.hv then none
  else if !d.hupRuns then d.hup.srcHold
  else match d.hup.st with
    | .detect => none | .handover => some false | .batt => none | .empty => none
    | .inhibit => if d.hup.srcHiz then none else some true
    | _ => some true

/-- The hold latches take the levels the outputs have (R57). -/
def Device.orHold (d : Device) : Device :=
  let b := d.batOr
  let s := d.srcOr
  d.updHup fun h => { h with batHold := b, srcHold := s }

/-- The legs, as far as no higher authority takes them (R29, R36, R509). -/
def Device.hupLegs (d : Device) : Legs := if d.packOff || !d.live then .hiz else d.hup.legs

/-- Lamp patterns (R432). -/
inductive Lamp where
  | off | on | slow | fast | flash
  deriving DecidableEq, Repr

/-- A CODE of HUP_LAMP as a pattern. -/
def lampOf : Nat → Lamp
  | 1 => .on | 2 => .slow | 3 => .fast | 4 => .flash | _ => .off

/-- Lamp m (R432, R433); its pin is released without VHV or VCORE and in device reset (R55, R56). -/
def Device.lamp (d : Device) (m : Fin 3) : Lamp :=
  let w := d.hreg 0x06C
  let e := (d.head (pg hupPage)).err
  if d.boot.held || !d.powered || d.boot.stage < 5 || d.boot.stage == 0xE then .off
  else if bit w (4 * m.val + 3) then lampOf (bits w (4 * m.val + 2) (4 * m.val))
  else match m.val with
    | 0 => if d.hup.st == .share || bit e 12 then .fast
           else if d.hup.st == .batt && d.hup.qualifying then .slow
           else if d.hup.st == .batt || d.hup.st == .empty then .off else .on
    | 1 => if d.hup.st == .nopack then .off
           else if d.reserveShown then .flash
           else if d.chg.st == .suspend && (d.suspCause == 1 || d.suspCause == 5) then .fast
           else if d.chg.st.charging then .slow else .on
    | _ => if d.hup.convFault || d.chg.st == .fault then .on
           else if bit e 13 || bit e 9 then .fast
           else if bit e 11 then .slow
           else if d.chg.fallback then .flash else .off

/-! ## Views and write checks -/

/-- HUP_STAT. -/
def Device.hupStat (d : Device) : Word :=
  let h := d.hup
  flag 31 (h.st == .batt) ||| flag 30 d.reserveShown ||| flag 29 h.qualifying ||| flag 28 h.srcInWin ||| flag 27 h.present |||
  field 26 24 d.inhCause ||| field 23 13 d.qualLeft ||| flag 12 h.sagNoho ||| field 7 4 h.prev.code ||| field 3 0 h.st.code

/-- The RO words of pages 0x040 and 0x041. -/
def Device.hupView (d : Device) (p o : Nat) : Option Word :=
  if p = hupPage then
    match o with
    | 0x054 => some (setBits (d.hreg 0x054) 23 8 (d.iLim * 256 + d.hup.cls))
    | 0x060 => some d.hupStat
    | 0x064 => some (measWord0 d.hup.meas)
    | 0x068 => some (measWord1 d.hup.meas)
    | _ => none
  else if p = chgPage ∧ o = 0x060 then some d.chgStat
  else none

/-- Whether a write that leaves w at offset o of page p is within R438. -/
def Device.hupWriteOk (d : Device) (p o : Nat) (w : Word) : Bool :=
  let a := pageAddr p o
  let d' := d.setReg a w
  if p = hupPage then
    if o = 0x04C ∨ o = 0x050 ∨ o = 0x044 then
      let hold := bits (d'.hreg 0x050) 9 0
      let sag := bits (d'.hreg 0x050) 25 16
      let uv := bits (d'.hreg 0x04C) 9 0
      let ov := bits (d'.hreg 0x04C) 25 16
      decide (hold < sag ∧ sag < uv ∧ uv < ov) &&
      decide (ov * bits (d'.hreg 0x044) 31 16 ≤ 16 * 65536) &&
      decide (d.cells * 425 * bits (d'.hreg 0x044) 15 0 ≤ 160 * 65536)
    else true
  else if o = 0x040 then
    decide (12 ≤ d'.cells ∧ d'.cells ≤ 16) && decide (d'.cells * 425 * bits (d.hreg 0x044) 15 0 ≤ 160 * 65536)
  else if 0x050 ≤ o ∧ o ≤ 0x060 then
    let t (n : Nat) : Int := sbits (d'.bandWord n) 31 24
    decide (t 1 < t 2 ∧ t 2 < t 3 ∧ t 3 < t 4)
  else true

/-- Fields of pages 0x040 and 0x041 that are written as the nearest limit. -/
def hupClamp (p o : Nat) (w : Word) : Word :=
  if p = hupPage ∧ o = 0x040 then setBits w 10 0 (clampN 10 2000 (bits w 10 0))
  else if p = chgPage ∧ o = 0x048 then setBits (setBits w 23 16 (min 160 (bits w 23 16))) 7 0 (min 140 (bits w 7 0))
  else if p = chgPage ∧ o = 0x04C then setBits w 31 24 (clampN 1 100 (bits w 31 24))
  else w

end Sys2Proof.Machine
end

