-- ==== Sys2Proof/Machine/Gauge.lean ====
section
/-! DEFINITION. The gauge: the always-on RAM (R471, R472), counting (R439 to R446), estimation (R447 to R461), learning and the
two-slot commit (R462 to R468), states, restore and unload (R469 to R474), and the page (R476, R477). -/

namespace Sys2Proof.Machine
open Sys2Proof

def gauPage : Nat := 0x044
/-- Device address of offset o of the always-on RAM. -/
def sramAddr (o : Nat) : Nat := 0x300000 + o
/-- Word, half word and byte of the always-on RAM. -/
def Device.sram (d : Device) (o : Nat) : Word := d.ramWord (sramAddr o)
def Device.sramH (d : Device) (o : Nat) : Nat := bits (d.ramWord (sramAddr (o / 4 * 4))) (8 * (o % 4) + 15) (8 * (o % 4))

/-- The gauge record changed by f. -/
def Device.updGau (d : Device) (f : Gauge → Gauge) : Device := { d with gau := f d.gau }

/-! ## Checks over bytes -/

/-- One bit of the CRC-16 of R471. -/
def crc16Bit (c : BitVec 16) : BitVec 16 := if c.getLsbD 15 then (c <<< 1) ^^^ 0x1021#16 else c <<< 1

/-- One byte of the CRC-16 of R471. -/
def crc16Byte (c : BitVec 16) (b : Byte) : BitVec 16 :=
  crc16Bit (crc16Bit (crc16Bit (crc16Bit (crc16Bit (crc16Bit (crc16Bit (crc16Bit (c ^^^ (b.setWidth 16 <<< 8)))))))))

/-- The CRC-16 of R471 over a list of bytes. -/
def crc16 (l : List Byte) : BitVec 16 := l.foldl crc16Byte 0xFFFF#16

/-- One bit of the CRC-32 of IEEE 802.3, reflected. -/
def crc32Bit (c : Word) : Word := if c.getLsbD 0 then (c >>> 1) ^^^ 0xEDB88320#32 else c >>> 1

/-- One byte of the CRC-32 of IEEE 802.3. -/
def crc32Byte (c : Word) (b : Byte) : Word :=
  crc32Bit (crc32Bit (crc32Bit (crc32Bit (crc32Bit (crc32Bit (crc32Bit (crc32Bit (c ^^^ b.setWidth 32))))))))

/-- The CRC-32 of IEEE 802.3 over a list of bytes. -/
def crc32 (l : List Byte) : Word := ~~~(l.foldl crc32Byte 0xFFFFFFFF#32)

/-- The bytes of the RAM at offsets o to o + n − 1. -/
def Device.sramBytes (d : Device) (o n : Nat) : List Byte := (List.range n).map fun i => memRead d.ram (sramAddr (o + i))

/-! ## Parameters of the image (R471), in the units given there -/

def Device.imgDesign (d : Device) : Nat := d.sramH 0x008
def Device.imgGErr (d : Device) : Nat := d.sramH 0x00C
def Device.imgIOfs (d : Device) : Nat := d.sramH 0x00E
def Device.imgUOcv (d : Device) : Nat := d.sramH 0x010
def Device.imgUFull (d : Device) : Nat := d.sramH 0x012
def Device.imgUModel (d : Device) : Nat := d.sramH 0x014
def Device.imgSlope (d : Device) : Nat := d.sramH 0x016
def Device.imgDSoc (d : Device) : Nat := d.sramH 0x018
def Device.imgMaxDev (d : Device) : Nat := d.sramH 0x01A
def Device.imgR0 (d : Device) : Nat := d.sramH 0x01C
def Device.imgR1 (d : Device) : Nat := d.sramH 0x01E
def Device.imgTau (d : Device) : Nat := max 1 (d.sramH 0x020)
/-- Table temperature t, °C. -/
def Device.imgT (d : Device) (t : Nat) : Int := sbits (d.sram 0x024) (8 * t + 7) (8 * t)
/-- OCV point i of temperature t, mV. -/
def Device.ocvPt (d : Device) (t i : Nat) : Nat := d.sramH (0x100 + 0x50 * t + 2 * i)

/-- Offset of a slot (R471). -/
def slotOff (b : Bool) : Nat := if b then 0x090 else 0x080

/-- The CRC of a slot is valid. -/
def Device.slotOk (d : Device) (b : Bool) : Bool := decide ((crc16 (d.sramBytes (slotOff b) 8)).toNat = d.sramH (slotOff b + 8))

/-- The slot that ACTIVE names: true for slot B. -/
def Device.activeB (d : Device) : Bool := bit (d.sram 0x0A0) 0

/-- The image CRC matches (R471). -/
def Device.imageOk (d : Device) : Bool := decide (crc32 (d.sramBytes 0x008 0x38 ++ d.sramBytes 0x100 0x100) = d.sram 0x004)

/-- The capacity of R468: FCC in mAh, the slot in use, and whether SLOT_ERR shows. -/
def Device.capacity (d : Device) : Nat × Bool × Bool :=
  let a := d.activeB
  if d.slotOk a then (d.sramH (slotOff a), a, false)
  else if d.slotOk (!a) then (d.sramH (slotOff (!a)), !a, true)
  else (d.imgDesign, a, true)

/-! ## Arithmetic of the estimate -/

/-- IBAT_R, µΩ. -/
def Device.ibatR (d : Device) : Nat := bits (d.reg (pageAddr 0x040 0x048)) 15 0

/-- Q_LSB in coulombs (R441): 0.1 V / 2^33 s over IBAT_R. -/
def Device.qLsb (d : Device) : Rat := ratDiv 100000 ((2 ^ 33 * d.ibatR : Nat) : Rat)

/-- FCC in coulombs. -/
def Device.fccC (d : Device) : Rat := (d.gau.fcc : Rat) * 18 / 5

/-- a − b modulo 2^48 as a signed number (R447). -/
def accDiff (a b : Nat) : Int :=
  let x : Nat := (a + 2 ^ 48 - b) % 2 ^ 48
  if 2 ^ 47 ≤ x then (x : Int) - 2 ^ 48 else (x : Int)

/-- SoC_c of R447, 0.01 %. -/
def Device.socC (d : Device) : Rat := d.gau.soc0 - ratDiv (10000 * (accDiff d.gau.acc d.gau.acc0 : Rat) * d.qLsb) d.fccC

/-- U_count of R449, 0.01 %. -/
def Device.uCount (d : Device) : Rat :=
  let g := d.gau
  let wakeV := bits (d.reg (pageAddr gauPage 0x040)) 23 16
  let c : Rat := (d.imgGErr : Rat) / 100000 * (g.abs * d.qLsb) + (d.imgIOfs : Rat) / 10000 * g.age +
    ratDiv wakeV d.ibatR * g.hibt
  g.u0 + ratDiv (10000 * c) d.fccC

/-- CONF of R450 for U_rep in 0.01 %: halves upwards. -/
def confOf (u : Rat) : Nat := (max 0 (min 100 (100 - u / 25 + 1 / 2).floor)).toNat

/-- A rational limited to a range. -/
def clampR (lo hi x : Rat) : Rat := if x < lo then lo else if hi < x then hi else x

/-- A charge in 0.01 % as a register value. -/
def pctWord (x : Rat) : Nat := min 0xFFFE (ratOpen (clampR 0 65534 x)).toNat

/-! ## The OCV table (R453) -/

/-- The two table temperatures around t (0.0625 °C units) and the weight of the second (R453). -/
def Device.tempMix (d : Device) (t : Int) : Nat × Nat × Rat :=
  let x : Rat := (t : Rat) / 16
  let t0 : Rat := d.imgT 0
  let t1 : Rat := d.imgT 1
  let t2 : Rat := d.imgT 2
  if x ≤ t0 then (0, 0, 0)
  else if x < t1 then (0, 1, ratDiv (x - t0) (t1 - t0))
  else if x < t2 then (1, 2, ratDiv (x - t1) (t2 - t1))
  else (2, 2, 0)

/-- The segment of table t that holds voltage v (mV): its index, none outside the table. -/
def Device.ocvSeg (d : Device) (t : Nat) (v : Rat) : Option Nat :=
  (List.range 32).find? fun i => decide ((d.ocvPt t i : Rat) ≤ v ∧ v ≤ (d.ocvPt t (i + 1) : Rat))

/-- SoC (0.01 %) of voltage v (mV) in table t. -/
def Device.ocvSoc (d : Device) (t : Nat) (v : Rat) : Rat :=
  match d.ocvSeg t v with
  | some i => (i : Rat) * 625 / 2 + ratDiv ((v - d.ocvPt t i) * 625 / 2) ((d.ocvPt t (i + 1) : Rat) - d.ocvPt t i)
  | none => Config.ocvBeyond t v

/-- The slope of table t at voltage v, 0.01 mV per %: none outside the table. -/
def Device.ocvSlope (d : Device) (t : Nat) (v : Rat) : Option Rat :=
  (d.ocvSeg t v).map fun i => ((d.ocvPt t (i + 1) : Rat) - d.ocvPt t i) * 32

/-- ocv_inverse at a temperature. -/
def Device.ocvInverse (d : Device) (v : Rat) (t : Int) : Rat :=
  let m := d.tempMix t
  d.ocvSoc m.1 v * (1 - m.2.2) + d.ocvSoc m.2.1 v * m.2.2

/-- The table's voltage (mV) at SoC x (0.01 %) and a temperature. -/
def Device.ocvVolt (d : Device) (x : Rat) (t : Int) : Rat :=
  let m := d.tempMix t
  let y := clampR 0 10000 x
  let i := min 31 (y * 2 / 625).floor.toNat
  let f := y * 2 / 625 - i
  let at1 (k : Nat) : Rat := (d.ocvPt k i : Rat) * (1 - f) + (d.ocvPt k (i + 1) : Rat) * f
  at1 m.1 * (1 - m.2.2) + at1 m.2.1 * m.2.2

/-- The integral of the table's voltage between two SoC values, in mV × 0.01 %: exact for the piecewise linear table. -/
def Device.ocvArea (d : Device) (lo hi : Rat) (t : Int) : Rat :=
  (List.range 32).foldl (fun (s : Rat) (i : Nat) =>
    let a := clampR lo hi ((i : Rat) * 625 / 2)
    let b := clampR lo hi (((i : Nat) : Rat) * 625 / 2 + 625 / 2)
    s + (d.ocvVolt a t + d.ocvVolt b t) / 2 * (b - a)) 0

/-! ## States -/

def GauState.code : GauState → Nat
  | .notRestored => 0 | .seeking => 1 | .counting => 2 | .starved => 3 | .nopack => 4

/-- SEEKING, COUNTING or STARVED. -/
def GauState.runs : GauState → Bool
  | .seeking => true | .counting => true | .starved => true | _ => false

/-- GAU_STAT. -/
def Device.gauStat (d : Device) : Word :=
  let g := d.gau
  field 31 24 g.conf ||| flag 20 g.commitFail ||| flag 19 g.packChanged ||| flag 18 g.slotB ||| flag 17 g.flat |||
  flag 16 g.ocvReady ||| flag 15 g.wasHib ||| flag 14 (decide (0 < g.restS)) ||| flag 13 g.starved |||
  flag 12 (g.st == .notRestored) ||| field 7 4 g.prev.code ||| field 3 0 g.st.code

/-- The reported words of a state without an estimate (R469). -/
def Device.gauBlank (d : Device) : Device :=
  match d.gau.st with
  | .notRestored => d.updGau fun g => { g with soc := 0xFFFF, u := 0xFFFF, conf := 0 }
  | .nopack => d.updGau fun g => { g with soc := 0, u := 0xFFFF, conf := 0 }
  | _ => d

/-- The gauge enters st (R470). Entry to SEEKING and STARVED zeroes the model (R458); a span of learning ends with any state
outside COUNTING and STARVED (R462). -/
def Device.gauTo (d : Device) (st : GauState) (cause : Nat) (who : Nat := byHw) : Device :=
  let d := d.updGau fun g => { g with
    prev := g.st, st := st
    vRc := if st == .seeking || st == .starved then 0 else g.vRc
    spanStart := if st == .counting || st == .starved then g.spanStart else none
    ocvReady := g.ocvReady && st != .nopack, fullPoint := g.fullPoint && st.runs }
  let d := (d.transition gauPage st.code cause who).gauBlank
  d.raise 46 d.gauStat

/-- GAU_COMMIT.ANCHOR (R443). -/
def Device.gauAnchor (d : Device) : Device := d.updGau fun g => { g with abs := 0, age := 0, hibt := 0, ocvReady := false }

/-! ## Counting -/

/-- REST_V as a code magnitude: REST_V µV over 100 mV / 2^23. -/
def Device.restCode (d : Device) : Rat := (bits (d.reg (pageAddr gauPage 0x040)) 15 8 : Nat) * 2 ^ 23 / 100000

/-- One second of the always-on counters (R439, R440, R442, R444). -/
def Device.aoSecond (d : Device) (s : GaugeSecond) : Device :=
  if !d.boot.up.ao then d
  else if d.ao.active then
    let codes := s.codes.map (clampI (-(2 ^ 23)) (2 ^ 23 - 1))
    let rest := codes.all fun c => decide ((c.natAbs : Rat) < d.restCode)
    d.updGau fun g => { g with
      acc := (((g.acc : Int) + codes.sum) % 2 ^ 48).toNat
      abs := min (2 ^ 48 - 1) (g.abs + (codes.map Int.natAbs).sum)
      age := min 0xFFFFFFFF (g.age + 1)
      restS := if rest then min 0xFFFF (g.restS + 1) else 0
      vShunt := if codes.isEmpty then g.vShunt else ratOpen ((codes.sum : Rat) / (256 * codes.length : Nat))
      vPack := d.packVolts s.vpack }
  else d.updGau fun g => { g with age := min 0xFFFFFFFF (g.age + 1), hibt := min 0xFFFFFFFF (g.hibt + 1), restS := min 0xFFFF (g.restS + 1) }

/-- The AO domain leaves HIBERNATE (R106); a wake by pack current ends the rest (R445). -/
def Device.aoWake (d : Device) (current : Bool) : Device :=
  if d.boot.up.ao && !d.ao.active then
    let d : Device := { d with ao := { d.ao with active := true } }
    if current then d.updGau fun g => { g with restS := 0 } else d
  else d

/-- What wakes the domain by itself (R106, R445): a shunt voltage above WAKE_V, or PACK_DET. -/
def Device.aoWakeBy (d : Device) : WakeCause → Device
  | .current uv => if (bits (d.reg (pageAddr gauPage 0x040)) 23 16 : Nat) < max uv (-uv) then d.aoWake true else d
  | .packDet => d.aoWake false

/-- An access to page 0x044 or 0x300 wakes the domain, and GAU_STAT.HIBERNATE remembers it (R106, R109). -/
def Device.gauAccess (d : Device) : Device :=
  (d.updGau fun g => { g with wasHib := d.boot.up.ao && !d.ao.active }).aoWake false

/-- No watchdog is armed: every one is DISARMED (R105). -/
def Device.noneArmed (d : Device) : Bool := d.wdt.toList.all (·.st == .disarmed)

/-- HIBERNATE is entered (R105, R445). -/
def Device.hibernate (d : Device) : Device :=
  let w := d.reg (pageAddr gauPage 0x040)
  if d.boot.up.ao && d.ao.active && bit w 0 && decide (max 1 (bits w 31 24) ≤ d.gau.restS) && d.noneArmed then
    { d with ao := { d.ao with active := false } }
  else d

/-- The OCV sample of R446: one, when REST_S reaches 60 × REST_OCV. -/
def Device.ocvSample (d : Device) (v : Nat) : Device :=
  let t := max 1 (bits (d.reg (pageAddr gauPage 0x044)) 23 16)
  if d.boot.up.ao && decide (min 0xFFFF (60 * t) = d.gau.restS) then d.updGau fun g => { g with vOcv := v % 65536, ocvReady := true } else d

/-! ## Estimation -/

/-- U_rep of the present estimate, 0.01 % (R449, R459, R460). -/
def Device.uRep (d : Device) : Rat :=
  match d.gau.st with
  | .seeking => d.imgUModel
  | .starved => max d.uCount d.imgUModel
  | _ => d.uCount

/-- The model's SoC of this second, and v_rc (R457). -/
def Device.modelStep (d : Device) (s : GaugeSecond) : Rat × Rat :=
  let n : Nat := s.codes.length
  let vsh : Rat := ratDiv (s.codes.sum : Rat) n / 2 ^ 23 / 10
  let i : Rat := ratDiv (vsh * 1000000) d.ibatR
  let vRc := d.gau.vRc + (i * (d.imgR1 : Rat) / 10000 - d.gau.vRc) / d.imgTau
  let cell : Rat := ratDiv ((d.packVolts s.vpack : Rat) / 100 + i * (d.imgR0 : Rat) / 10000 + vRc) d.cells * 1000
  (match d.packTemp with
    | some t => d.ocvInverse cell t
    | none => Config.ocvNoTemp cell, vRc)

/-- The reported SoC, 0.01 % (R447, R459, R460), for a model value. -/
def Device.socRep (d : Device) (m : Rat) : Rat :=
  match d.gau.st with
  | .seeking => clampR 0 10000 m
  | .starved => clampR 0 10000 (clampR (d.socC - d.uCount) (d.socC + d.uCount) m)
  | _ => clampR 0 10000 d.socC

/-- A COMMIT (R464, R467). -/
def Device.gauCommitStart (d : Device) : Device :=
  if d.gau.commit.isSome || d.gau.st == .notRestored then d.setErr gauPage (errBit 8)
  else
    let w := d.reg (pageAddr gauPage 0x070)
    let a := d.activeB
    d.updGau fun g => { g with commit := some { slotB := !a, fcc := bits w 15 0, cycles := bits w 31 16,
                                                seq := (d.sramH (slotOff a + 4) + 1) % 65536 } }

/-- Capacity learning at an accepted anchor (R462, R463), before the anchor's own changes: start is the last anchor. -/
def Device.learnSpan (d : Device) (start : Nat × Rat) (soc : Rat) : Device :=
  let dsoc := if soc < start.2 then start.2 - soc else soc - start.2
  if d.gau.hibt = 0 ∧ (d.imgDSoc : Rat) ≤ dsoc then
    let c := ratDiv (((accDiff d.gau.acc start.1).natAbs : Rat) * d.qLsb) (dsoc / 10000) * 5 / 18
    let fcc : Rat := d.gau.fcc
    let dev := if c < fcc then fcc - c else c - fcc
    let d := d.updGau fun g => { g with fccC := min 0xFFFF (ratNear c).toNat }
    if dev ≤ (d.imgMaxDev : Rat) / 10000 * fcc then
      let d := d.updGau fun g => { g with accepted := satInc 255 g.accepted }
      let d := d.setRegBits (pageAddr gauPage 0x070) 15 0 (min 0xFFFF (ratNear (fcc + (c - fcc) / 4)).toNat)
      d.gauCommitStart
    else d.updGau fun g => { g with rejected := satInc 255 g.rejected }
  else d

/-- An accepted anchor (R455). -/
def Device.acceptAnchor (d : Device) (soc u m : Rat) (cause : Nat) : Device :=
  let inSpan := d.gau.st == .counting || d.gau.st == .starved
  let d := match d.gau.spanStart with
    | some s => if inSpan then d.learnSpan s soc else d
    | none => d
  let uRep := d.uRep
  let soc0 := if u < uRep then soc else d.socRep m
  let d := d.updGau fun g => { g with soc0 := soc0, u0 := min u uRep, acc0 := g.acc, starved := false, flat := false
                                      spanStart := if inSpan then some (g.acc, soc) else none }
  d.gauAnchor.gauTo .counting cause

/-- The anchor that this update takes, if any: SoC, U and cause; an OCV point on a flat part of the table only sets FLAT
(R451, R452, R454, R475). -/
def Device.anchors (d : Device) : Device × Option (Rat × Rat × Nat) :=
  let full : Option (Rat × Rat × Nat) := if d.gau.fullPoint then some (10000, d.imgUFull, 0x12) else none
  let d := d.updGau fun g => { g with fullPoint := false }
  if d.gau.ocvReady then
    match d.packTemp with
    | none => (d, full)
    | some t =>
      let cell := ratDiv ((d.gau.vOcv : Rat) * 10) d.cells
      let m := d.tempMix t
      let slope : Option Rat := match d.ocvSlope m.1 cell, d.ocvSlope m.2.1 cell with
        | some a, some b => some (a * (1 - m.2.2) + b * m.2.2)
        | _, _ => none
      let isFlat := match slope with
        | some x => decide (x < d.imgSlope)
        | none => false
      if isFlat then (d.updGau fun g => { g with flat := true, ocvReady := false }, full)
      else
        let ocv : Rat × Rat × Nat := (d.ocvInverse cell t, d.imgUOcv, 0x11)
        match full with
        | some f => (d, some (if f.2.1 < ocv.2.1 then f else ocv))
        | none => (d, some ocv)
  else (d, full)

/-- RSV (R461). -/
def Device.writeReserve (d : Device) (soc u : Rat) : Device :=
  if d.hup.st == .nopack then d
  else
    let v := match d.packTemp with
      | some t =>
        let cut := d.ocvInverse (((250 + bits (d.hreg 0x058) 23 16) * 10 : Nat) : Rat) t
        let hi := soc - u
        if hi ≤ cut then 0
        else
          let j := d.ocvArea (max 0 cut) hi t / 1000 / 10000 * d.fccC * d.cells
          min 0xFFFE (ratOpen (j / 100)).toNat
      | none => bits (d.hreg 0x05C) 31 16
    (d.setRegBits (pageAddr hupPage 0x05C) 31 16 v).rsvSync

/-- The core's update of the estimate (R447 to R461). -/
def Device.coreEstimate (d : Device) (s : GaugeSecond) : Device :=
  if d.gau.st == .notRestored then
    if d.hup.st == .nopack then d else (d.setRegBits (pageAddr hupPage 0x05C) 31 16 0xFFFF).rsvSync
  else if d.gau.st.runs then
    let m := d.modelStep s
    let d := if d.gau.st == .counting then d else d.updGau fun g => { g with vRc := m.2 }
    let a := d.anchors
    let d := match a.2 with
      | some x => a.1.acceptAnchor x.1 x.2.1 m.1 x.2.2
      | none => a.1
    let soc := d.socRep m.1
    let u := d.uRep
    let d := d.updGau fun g => { g with soc := pctWord soc, u := pctWord u, conf := confOf u }
    d.writeReserve soc u
  else d.updGau fun g => { g with fullPoint := false }

/-- R456. -/
def Device.gauStarve (d : Device) : Device :=
  let t := bits (d.reg (pageAddr gauPage 0x044)) 31 24
  if d.boot.coreUp && d.gau.st == .counting && decide (3600 * t ≤ d.gau.age) then
    (d.updGau fun g => { g with starved := true }).gauTo .starved 0x13
  else d

/-! ## Commit, restore, unload -/

/-- UNLOAD takes effect (R470, R474). -/
def Device.unloadNow (d : Device) (cause who : Nat) : Device :=
  (d.updGau fun g => { g with unloadWait := false }).gauTo .notRestored cause who

/-- A commit ends (R464 to R466). -/
def Device.commitDone (d : Device) (inhibited : Bool) : Device :=
  match d.gau.commit with
  | none => d
  | some c =>
    let o := slotOff c.slotB
    let w0 : Word := field 31 16 c.cycles ||| field 15 0 c.fcc
    let w1 : Word := field 15 0 c.seq
    let crc := crc16 (wordBytes w0 ++ wordBytes w1)
    let ok := !inhibited && d.boot.up.ao
    let d := if ok then
        ((((d.ramPut (sramAddr o) w0).ramPut (sramAddr (o + 4)) w1).ramPut (sramAddr (o + 8)) (crc.setWidth 32)).ramPut
          (sramAddr 0x0A0) (setBit (d.sram 0x0A0) 0 c.slotB))
      else d
    let d := d.updGau fun g => { g with
      commit := none, commitFail := !ok
      commits := if ok then (g.commits + 1) % 65536 else g.commits
      slotB := if ok then c.slotB else g.slotB, fcc := if ok then c.fcc else g.fcc }
    let d := d.raise 47 (field 31 16 d.gau.commits)
    if d.gau.unloadWait then d.unloadNow 0x16 byHw else d

/-- A table row is strictly ascending (R473). -/
def Device.rowAscends (d : Device) (t : Nat) : Bool := (List.range 32).all fun i => decide (d.ocvPt t i < d.ocvPt t (i + 1))

/-- The RESULT of a RESTORE (R473). -/
def Device.restoreResult (d : Device) : Nat :=
  if d.gau.st != .notRestored then 5
  else if bits (d.sram 0) 23 0 != 0x014741 then 2
  else if !d.imageOk then 3
  else if d.imgDesign = 0 ∨ d.imgUModel ≤ d.imgUOcv ∨ d.imgUModel ≤ d.imgUFull ∨ ¬(d.imgT 0 < d.imgT 1 ∧ d.imgT 1 < d.imgT 2) ∨
      !(d.rowAscends 0 && d.rowAscends 1 && d.rowAscends 2) then 4
  else 1

/-- The capacity is taken from a slot (R468). -/
def Device.takeCapacity (d : Device) : Device :=
  let c := d.capacity
  let d := d.updGau fun g => { g with fcc := c.1, slotB := c.2.1 }
  if c.2.2 then d.setErr gauPage (errBit 11) else d

/-- RESTORE (R470, R473). -/
def Device.gauRestore (d : Device) (packDet : Bool) (who : Nat) : Device :=
  let r := d.restoreResult
  let d := d.updGau fun g => { g with result := r }
  if r = 1 then
    (d.takeCapacity.updGau fun g => { g with packChanged := false }).gauTo (if packDet then .nopack else .seeking) 0x10 who
  else d

/-- UNLOAD (R474). -/
def Device.gauUnload (d : Device) (who : Nat) : Device :=
  if d.gau.st == .notRestored then d.updGau fun g => { g with result := 5 }
  else
    let d := d.updGau fun g => { g with result := 1 }
    if d.gau.commit.isSome then d.updGau fun g => { g with unloadWait := true } else d.unloadNow 0x16 who

/-- The reconciliation at a start of the core (R468, R470). -/
def Device.gauReconcile (d : Device) : Device :=
  if d.gau.st == .notRestored then d
  else if !d.imageOk then (d.setErr gauPage (errBit 10)).unloadNow 0x17 byHw
  else d.takeCapacity

/-- PACK_DET high for 200 ms (R470). -/
def Device.gauNopack (d : Device) : Device := if d.gau.st.runs then d.gauTo .nopack 0x14 else d

/-- PACK_DET low for 200 ms (R470). -/
def Device.gauPackReturn (d : Device) : Device :=
  if d.gau.st == .nopack then (d.updGau fun g => { g with packChanged := true }).gauTo .seeking 0x15 else d

/-- A soft reset of page 0x044 (R476). -/
def Device.gauSoftReset (d : Device) : Device :=
  if d.gau.st == .notRestored then
    d.updGau fun g => { g with commitFail := false, packChanged := false, flat := false, ocvReady := false, starved := false, wasHib := false
                               accepted := 0, rejected := 0, fccC := 0 }
  else d.setErr gauPage (errBit 8)

/-! ## Views, the read buffer and the RAM's write rule -/

/-- The read of GAU_ACC_LO (R477). -/
def Device.gauAccRead (d : Device) : Device :=
  d.updGau fun g => { g with buf := #v[field 15 0 (g.acc / 2 ^ 32), BitVec.ofNat 32 g.abs, field 15 0 (g.abs / 2 ^ 32),
                                       BitVec.ofNat 32 g.age, BitVec.ofNat 32 g.hibt] }

/-- The RO words of page 0x044. -/
def Device.gauView (d : Device) (o : Nat) : Option Word :=
  let g := d.gau
  match o with
  | 0x048 => some (field 31 16 g.soc ||| field 15 0 g.u)
  | 0x04C => some d.gauStat
  | 0x050 => some (BitVec.ofNat 32 g.acc)
  | 0x054 => some g.buf[0]
  | 0x058 => some g.buf[1]
  | 0x05C => some g.buf[2]
  | 0x060 => some g.buf[3]
  | 0x064 => some g.buf[4]
  | 0x068 => some (field 31 16 g.restS ||| field 15 0 g.vOcv)
  | 0x06C => some (field 31 16 (toField 16 g.vShunt) ||| field 15 0 g.vPack)
  | 0x074 => some (field 31 16 g.commits ||| flag 3 g.commit.isSome)
  | 0x078 => some (field 6 4 g.result)
  | 0x07C => some (field 31 24 g.accepted ||| field 23 16 g.rejected ||| field 15 0 g.fccC)
  | _ => none

/-- Whether a write of the RAM at offset o is performed (R472). -/
def Device.sramWriteOk (d : Device) (o : Nat) : Bool :=
  d.gau.st == .notRestored || !(decide (o < 0x040) || decide (0x080 ≤ o ∧ o < 0x0A4) || decide (0x100 ≤ o ∧ o < 0x200))

/-- Whether a write of page 0x044 is in order, and its limits. -/
def gauWriteOk (o : Nat) (w : Word) : Bool := if o = 0x040 then decide (bits w 15 8 ≤ bits w 23 16) else true
def gauClamp (o : Nat) (w : Word) : Word := if o = 0x044 then setBits w 31 24 (clampN 1 48 (bits w 31 24)) else w

end Sys2Proof.Machine
end

