-- ==== Sys2Proof/Machine/Dma.lean ====
section
/-! DEFINITION. Address translation (R598 to R606), rings and their states (R568 to R578, R589 to R597), descriptor reads, and the
arbitration of bursts (R579, R584 to R588). What a burst moves is in Transfer.lean, above the bus. -/

namespace Sys2Proof.Machine
open Sys2Proof

/-! ## Translation -/

/-- The engine's record, a ring and the translation registers, changed by f. -/
def Device.updDma (d : Device) (f : Dma → Dma) : Device := { d with dma := f d.dma }
def Device.rg (d : Device) (r : Fin 32) : Ring := d.dma.ring[r]
def Device.updRg (d : Device) (r : Fin 32) (f : Ring → Ring) : Device := d.updDma fun x => { x with ring := upd x.ring r f }
def Device.updXlt (d : Device) (f : Xlt → Xlt) : Device := d.updDma fun x => { x with xlt := f x.xlt }

/-- The stored words of window entry e: the model keeps entry e at 0x110000 + 8 e, whatever the bank that shows it (R599). -/
def xltAddr (e : Nat) (w : Nat) : Nat := 0x110000 + 8 * (e % 2048) + 4 * w

/-- A device address is a host-memory address (R598). -/
def isHost (a : Nat) : Bool := decide (0x1000000 ≤ a)

/-- Translation of an access of context c (a requester code) to device address a: the host bus address, or the cause code of the
fault (R598, R600; RING_FADDR_HI.CAUSE). -/
def Device.translate (d : Device) (c a : Nat) (wr : Bool) : Except Nat Nat :=
  if 2 ^ 37 ≤ a then .error 5
  else
    let e := a / 2 ^ 16 % 2048
    let w0 := d.reg (xltAddr e 0)
    let w1 := d.reg (xltAddr e 1)
    if !bit w0 15 then .error 1
    else if bits w0 9 0 != a / 2 ^ 27 % 1024 then .error 2
    else if bits w0 12 10 != c then .error 3
    else if !(if wr then bit w0 14 else bit w0 13) then .error 4
    else .ok (w1.toNat * 2 ^ 32 + bits w0 31 16 * 2 ^ 16 + a % 2 ^ 16)

/-- The records of a translation fault (R606): by a ring, or by the event writer for target ring. -/
def Device.xltFault (d : Device) (evt : Bool) (ring ctx : Nat) (f : XltFault) : Device :=
  let d := d.updXlt fun x => { x with
    finfo := field 31 28 f.cause ||| flag 25 evt ||| flag 24 f.wr ||| field 11 8 ctx ||| field 4 0 ring
    faddrLo := BitVec.ofNat 32 f.addr
    faddrHi := field 7 0 (f.addr / 2 ^ 32)
    fcount := satInc 0xFFFF x.fcount }
  let d := (d.setErr 0x0A0 (errBit 9)).pmcCountAll 0x26 1
  if evt then d else d.raise 125 (field 11 8 ctx ||| field 4 0 ring)

/-! ## Ring words -/

/-- The page of ring r. -/
def ringPage (r : Fin 32) : Nat := 0x080 + r.val
/-- RING_CFG. -/
def Device.rcfg (d : Device) (r : Fin 32) : Word := d.reg (pageAddr (ringPage r) 0x040)
/-- RING_BASE. -/
def Device.rbase (d : Device) (r : Fin 32) : Nat :=
  bits (d.reg (pageAddr (ringPage r) 0x048)) 7 0 * 2 ^ 32 + (d.reg (pageAddr (ringPage r) 0x044)).toNat
/-- LOC: the descriptors are on-chip. -/
def Device.ringLoc (d : Device) (r : Fin 32) : Bool := bit (d.rcfg r) 29
/-- N (R568). -/
def Device.ringN (d : Device) (r : Fin 32) : Nat := if d.ringLoc r then 64 else 16 * 2 ^ bits (d.rcfg r) 19 16
/-- Device address of descriptor i. -/
def Device.descAddr (d : Device) (r : Fin 32) (i : Nat) : Nat :=
  if d.ringLoc r then pageAddr (ringPage r) 0x800 + 32 * (i % 64) else d.rbase r + 32 * i
/-- PAGE_CTL.ENABLE of the ring's page. -/
def Device.ringEnabled (d : Device) (r : Fin 32) : Bool := bit (d.head (pg (ringPage r))).ctl 0

def RingState.code : RingState → Nat
  | .disabled => 0 | .idle => 1 | .fetch => 2 | .active => 3 | .waitreq => 4 | .draining => 5 | .paused => 6
  | .pausedFault => 7 | .pausedErr => 8
def RingState.isPaused : RingState → Bool
  | .paused => true | .pausedFault => true | .pausedErr => true | _ => false

/-- A pause cause is set (R590). -/
def Ring.caused (r : Ring) : Bool := r.sw || r.lease || r.host || r.fault || r.err

/-- The pause state of the causes: FAULT ranks above ERR, and ERR above the others (R591). -/
def Ring.pauseState (r : Ring) : RingState := if r.fault then .pausedFault else if r.err then .pausedErr else .paused

/-- The fields of the loaded descriptor (R571). -/
def Ring.type (r : Ring) : Nat := bits r.desc[0] 28 24
def Ring.length (r : Ring) : Nat := bits r.desc[0] 23 0
def Ring.src (r : Ring) : Nat := bits r.desc[2] 7 0 * 2 ^ 32 + r.desc[1].toNat
def Ring.dst (r : Ring) : Nat := bits r.desc[4] 7 0 * 2 ^ 32 + r.desc[3].toNat
def Ring.isStream (r : Ring) : Bool := r.type == 1

/-- The ring has something in progress. -/
def Ring.busy (r : Ring) : Bool := r.reading || r.burst.isSome

/-- Bursts in progress. -/
def Device.burstCount (d : Device) : Nat := (d.dma.ring.toList.filter (·.burst.isSome)).length
def Device.burstMap (d : Device) : BitVec 32 :=
  (List.finRange 32).foldl (fun (w : BitVec 32) r => if (d.rg r).burst.isSome then w ||| BitVec.ofNat 32 (2 ^ r.val) else w) 0

/-- Ring r enters st (R591); each entry of a pause state is an arrival at source 224 + r (R607). -/
def Device.ringTo (d : Device) (r : Fin 32) (st : RingState) (cause : Nat) (who : Nat := byHw) : Device :=
  let d := (d.updRg r fun x => { x with prev := x.st, st := st, work := match st with
    | .active => true | .waitreq => true | .fetch => false | .idle => false | .disabled => false | _ => x.work }).transition
    (ringPage r) st.code cause who
  if st.isPaused then d.raise (224 + r.val) (field 19 16 st.code ||| field 15 0 (d.rg r).head) else d

/-! ## Writes of the engine to a descriptor -/

/-- A translation fault of ring r: its records, RING_FADDR, cause FAULT and RESULT (R605, R606). -/
def Device.ringFault (d : Device) (r : Fin 32) (f : XltFault) : Device :=
  let d := d.updRg r fun x => { x with
    fault := true, res := if f.wr then 3 else 2
    faddrLo := BitVec.ofNat 32 f.addr
    faddrHi := field 31 28 f.cause ||| flag 24 f.wr ||| field 7 0 (f.addr / 2 ^ 32) }
  (d.setErr (ringPage r) (errBit 9)).xltFault false r.val (d.rg r).xctx f

/-- The engine writes word w of the descriptor at HEAD: on-chip RAM, or a posted write to host memory. -/
def Device.descWrite (d : Device) (r : Fin 32) (w : Nat) (v : Word) : Device :=
  let a := d.descAddr r (d.rg r).head + 4 * w
  let d := d.pmcCountAll 0x22 1
  if d.ringLoc r then d.ramPut a v
  else match d.translate (d.rg r).xctx a true with
    | .ok h => if d.pcieMayIssue then d.sendTlp (.hostWrite h (wordBytes v)) else d
    | .error c => d.ringFault r { addr := a, cause := c, wr := true }

/-- Word 5 with RESULT res and the bytes done (R571, R593). -/
def Device.writeStatus (d : Device) (r : Fin 32) (res : Nat) : Device :=
  let d := d.updRg r fun x => { x with lastRes := res }
  d.descWrite r 5 (field 31 24 res ||| field 23 0 (d.rg r).offset)

/-- RESULT of the cause of highest rank (R593). -/
def Ring.pauseResult (r : Ring) : Nat := if r.fault || r.err then r.res else 1

/-! ## Stops, settling and starts -/

/-- The ring reads the descriptor at HEAD: DB is cleared as the read is issued (R576). -/
def Device.ringFetch (d : Device) (r : Fin 32) (cause : Nat) (who : Nat := byHw) : Device :=
  (d.ringTo r .fetch cause who).updRg r fun x => { x with db := false, reading := true }

/-- HOST is set while the endpoint may issue no request and the ring needs the link (R590). -/
def Device.ringNeedsHost (d : Device) (r : Fin 32) : Bool :=
  let x := d.rg r
  !d.ringLoc r || ((x.work || x.st.isPaused) && (isHost x.dst || (!x.isStream && isHost x.src)))

/-- A write of 1 to ENABLE acts on a ring in DISABLED (R591). -/
def Device.ringRun (d : Device) (r : Fin 32) (who : Nat) : Device :=
  let d := d.updRg r fun x => { x with xctx := who, host := !d.pcieMayIssue && d.ringNeedsHost r }
  if (d.rg r).caused then d.ringTo r (d.rg r).pauseState 0x10 who else d.ringFetch r 0x10 who

/-- RESUME clears SW, FAULT, ERR and LEASE; with the last cause the ring runs (R590, R591). A requester that passes the ownership
check after LEASE was set is the new owner that R590 asks for. With cause HOST left the ring runs once HOST clears, and the requester
of this RESUME, which set it running, is then its XCTX (R570). -/
def Device.ringResume (d : Device) (r : Fin 32) (who : Nat) : Device :=
  let x := d.rg r
  if x.st.isPaused then
    let d := d.updRg r fun x => { x with sw := false, fault := false, err := false, lease := false, xctx := who }
    if (d.rg r).caused then
      if (d.rg r).pauseState = x.st then d else d.ringTo r (d.rg r).pauseState 0x17 who
    else d.ringFetch r 0x1B who
  else if x.st == .draining then d.updRg r fun x => { x with latch := some (.resume who) }
  else d

/-- The latched start of R595, in the cycle after DRAINING. -/
def Device.ringLatched (d : Device) (r : Fin 32) : Device :=
  match (d.rg r).latch with
  | none => d
  | some l =>
    let d := d.updRg r fun x => { x with latch := none }
    match l with
    | .enable who => if (d.rg r).st == .disabled && d.ringEnabled r then d.ringRun r who else d
    | .resume who => d.ringResume r who

/-- An ENABLE written 1 waits in DRAINING for the stop that a write of 0 began (R595). -/
def Ring.enableWaits (x : Ring) : Bool :=
  match x.latch with
  | some (.enable _) => true
  | _ => false

/-- A stop takes effect with nothing in progress (R591, R593, R597). -/
def Device.ringSettle (d : Device) (r : Fin 32) (who : Nat := byHw) : Device :=
  let x := d.rg r
  let wasDraining := x.st == .draining
  let ends (d : Device) (st : RingState) : Device := if (d.rg r).st = st then d else d.ringTo r st 0x1A who
  let d :=
    if x.srst then
      let d := d.updRg r fun x => { x with head := 0, offset := 0, db := false, latch := none, sw := false, lease := false
                                           host := false, fault := false, err := false, srst := false, work := false
                                           tokens := 4096 }
      let d := d.updHdr (pg (ringPage r)) fun h => { h with srst := false }
      ends d (if d.ringEnabled r && (d.head (pg (ringPage r))).owner.isSome then .idle else .disabled)
    else if !d.ringEnabled r || x.enableWaits then
      let d := if x.work && !x.st.isPaused then d.writeStatus r 7 else d
      ends d .disabled
    else if x.caused then
      let d := if x.work && !x.st.isPaused then d.writeStatus r x.pauseResult else d
      let st := (d.rg r).pauseState
      if st = (d.rg r).st then d else d.ringTo r st (if wasDraining then 0x19 else 0x17) who
    else d
  if wasDraining then d.ringLatched r else d

/-- A cause is set, ENABLE is written 0 or a soft reset begins (R591): through DRAINING while a burst or read is in progress.
who is the BY of a transition that a register write causes (R152). -/
def Device.ringStop (d : Device) (r : Fin 32) (who : Nat := byHw) : Device :=
  let x := d.rg r
  match x.st with
  | .draining => d
  | .disabled => if x.srst then d.ringSettle r who else d
  | _ => if x.busy then d.ringTo r .draining 0x17 who else d.ringSettle r who

/-- A write of PAGE_CTL.ENABLE of ring r (R569, R591, R595). The header field is already written. -/
def Device.ringEnable (d : Device) (r : Fin 32) (on : Bool) (who : Nat) : Device :=
  if on then
    match (d.rg r).st with
    | .disabled => d.ringRun r who
    | .draining => d.updRg r fun x => { x with latch := some (.enable who) }
    | _ => d
  else d.ringStop r who

/-- A change of ENABLE from 0 to 1 that R569 refuses. -/
def Device.ringEnableBad (d : Device) (r : Fin 32) : Bool :=
  (d.head (pg (ringPage r))).owner.isNone ||
  (!d.ringLoc r && (!isHost (d.rbase r) || d.rbase r % (32 * d.ringN r) != 0))

/-- R576, R577: a doorbell. -/
def Device.ringDoorbell (d : Device) (r : Fin 32) (who : Nat) : Device :=
  let d := d.updRg r fun x => { x with db := true }
  if (d.rg r).st == .idle then d.ringFetch r 0x11 who else d

/-- RING_CTL.PAUSE (R590). -/
def Device.ringPause (d : Device) (r : Fin 32) (who : Nat) : Device := (d.updRg r fun x => { x with sw := true }).ringStop r who

/-- Cause LEASE (R570, R590): the end of the owner or of the context of XCTX. A RESUME or ENABLE that the ended context left latched
in DRAINING goes with it: only a new owner clears LEASE (R149, R150). -/
def Device.ringLease (d : Device) (r : Fin 32) (who : Nat) : Device :=
  (d.updRg r fun x => { x with lease := true, leaseOf := who, latch := match x.latch with
    | some (.resume w) => if w = who then none else some (.resume w)
    | l => l }).ringStop r

/-- Cause HOST follows the endpoint (R590). -/
def Device.ringHost (d : Device) (r : Fin 32) : Device :=
  if d.pcieMayIssue then
    if (d.rg r).host then
      let x := d.rg r
      let d := d.updRg r fun x => { x with host := false }
      if x.st.isPaused then
        if (d.rg r).caused then (if (d.rg r).pauseState = x.st then d else d.ringTo r (d.rg r).pauseState 0x17) else d.ringFetch r 0x1B
      else d
    else d
  else if d.ringNeedsHost r && (d.rg r).st != .disabled && !(d.rg r).host then
    (d.updRg r fun x => { x with host := true }).ringStop r
  else d

/-- A soft reset of the ring's page (R597). -/
def Device.ringSoftReset (d : Device) (r : Fin 32) (who : Nat) : Device :=
  ((d.updRg r fun x => { x with srst := true }).updHdr (pg (ringPage r)) fun h => { h with srst := true }).ringStop r who

/-- A descriptor completes (R575, R607). -/
def Device.descDone (d : Device) (r : Fin 32) : Device :=
  let x := d.rg r
  let d := d.writeStatus r 0
  let d := d.descWrite r 0 (setBit x.desc[0] 31 false)
  let n := max 1 (d.ringN r)
  let d := d.updRg r fun x => { x with head := (x.head + 1) % n, offset := 0, done := (x.done + 1) % 65536, work := false }
  if bit x.desc[0] 30 then d.raise (224 + r.val) (field 19 16 x.st.code ||| field 15 0 x.head) else d

/-- What follows a completed descriptor: a stop that waits, or the next read (R591). -/
def Device.ringNext (d : Device) (r : Fin 32) (cause : Nat) : Device :=
  let x := d.rg r
  if x.srst || x.caused || !d.ringEnabled r || x.st == .draining then d.ringSettle r else d.ringFetch r cause

/-! ## Streams as producers -/

/-- The bytes the producer of ring r holds, rounded down to whole records (R579, R622); REQSEL 1 to 8 name channels 0 to 7. -/
def Device.streamLevel (d : Device) (r : Fin 32) : Nat :=
  let q := bits (d.rcfg r) 23 20
  if 1 ≤ q ∧ q ≤ 8 then (d.tlm.sch[Fin.ofNat 8 (q - 1)]).fifo.length / 32 * 32 else 0

/-- The request line of ring r (R587). -/
def Device.ringRequest (d : Device) (r : Fin 32) : Bool := decide (32 ≤ d.streamLevel r)

/-! ## Descriptor reads -/

/-- TYPE and its checks (R572, R587). -/
def Device.descValid (d : Device) (r : Fin 32) : Bool :=
  let x := d.rg r
  let q := bits (d.rcfg r) 23 20
  x.type == 0 || x.type == 0x1F || (x.type == 1 && x.length % 32 == 0 && decide (1 ≤ q ∧ q ≤ 8))

/-- A descriptor read returns (R572, R577, R591, R592, R594). While the endpoint may issue no request, a read of host memory is
not issued, or its data is discarded, and the ring pauses with HOST (R167, R596). -/
def Device.descFetch (d : Device) (r : Fin 32) (host : Vector Word 8) : Device :=
  let x := d.rg r
  if !x.reading then d
  else if !d.ringLoc r && !d.pcieMayIssue then
    (d.updRg r fun x => { x with reading := false, host := true }).ringSettle r
  else
    let a := d.descAddr r x.head
    let xl := if d.ringLoc r then Except.ok a else d.translate x.xctx a false
    match xl with
    | .error c =>
      ((d.updRg r fun x => { x with reading := false }).ringFault r { addr := a, cause := c, wr := false }).ringSettle r
    | .ok h =>
      let d := d.pmcCountAll 0x22 2
      let d := if d.ringLoc r then d else (d.sendTlp (.hostRead h 32)).pmcCountAll 0x31 1
      let ws : Vector Word 8 := if d.ringLoc r then Vector.ofFn fun i => d.ramWord (a + 4 * i.val) else host
      let d := d.updRg r fun x => { x with reading := false, desc := ws, fence := d.burstMap }
      let own := bit ws[0] 31
      if (d.rg r).st == .draining then
        let d := if own then d else d.updRg r fun x => { x with offset := 0 }
        d.ringSettle r
      else if !own then
        let d := d.updRg r fun x => { x with offset := 0 }
        if (d.rg r).db then d.ringFetch r 0x13 else d.ringTo r .idle 0x14
      else if !d.descValid r then
        let d := (d.updRg r fun x => { x with err := true, res := 5 }).setErr (ringPage r) (errBit 11)
        let d := d.writeStatus r 5
        d.ringTo r (d.rg r).pauseState 0x18
      else
        let wait := (d.rg r).isStream && !d.ringRequest r
        let d := d.ringTo r (if wait then .waitreq else .active) 0x12
        if (d.rg r).type == 0x1F || (d.rg r).length ≤ (d.rg r).offset then
          let d := if (d.rg r).type == 0x1F then d.updRg r fun x => { x with offset := 0 } else d
          (d.descDone r).ringNext r 0x15
        else d.ringHost r

/-! ## Arbitration (R579, R584 to R586, R588) -/

/-- The length of the next burst of ring r (R579). -/
def Device.burstLen (d : Device) (r : Fin 32) : Nat :=
  let x := d.rg r
  let b := min (256 - (x.dst + x.offset) % 256) (x.length - x.offset)
  if x.isStream then min b (d.streamLevel r) else b

/-- Ring r is ready, with its request sampled (R584). -/
def Device.ringReady (d : Device) (r : Fin 32) : Bool :=
  let x := d.rg r
  (x.st == .active || x.st == .waitreq) && decide (x.offset < x.length) && x.burst.isNone && !x.caused &&
  (!x.isStream || d.ringRequest r) && (!bit x.desc[0] 29 || x.fence == 0 || decide (0 < x.offset)) &&
  decide (0 < d.burstLen r) && (bits (d.rcfg r) 8 0 == 0 || decide (16 * d.burstLen r ≤ x.tokens))

/-- The ring that wins the slot (R585): the highest class, then the first after the class's last. -/
def Device.arbitrate (d : Device) : Option (Fin 32) :=
  [3, 2, 1, 0].findSome? fun c =>
    let last := d.dma.lastStart[Fin.ofNat 4 c]
    ((List.range 32).map fun i => Fin.ofNat 32 (last + 1 + i)).find? fun r => bits (d.rcfg r) 31 30 == c && d.ringReady r

/-- WAITREQ and ACTIVE follow the request of the rings judged for the slot (R586, R591). -/
def Device.sampleRequests (d : Device) : Device :=
  foldFin 32 (fun d r =>
    let x := d.rg r
    if x.isStream && x.burst.isNone && decide (x.offset < x.length) then
      if x.st == .active && !d.ringRequest r then d.ringTo r .waitreq 0x16
      else if x.st == .waitreq && d.ringRequest r then d.ringTo r .active 0x16 else d
    else d) d

/-- The pages that the source side of a burst from address a of n bytes looks up. -/
def pagesOf (a n : Nat) : List Nat := if n = 0 then [] else if a / 65536 = (a + n - 1) / 65536 then [a / 65536] else [a / 65536, a / 65536 + 1]

/-- What the lookups of a burst answer: the host addresses of its pages, how many bytes precede the first refused
address, and that refusal. -/
structure BurstWalk where
  pages : List (Nat × Nat)
  reach : Nat
  fault : Option XltFault

/-- The source side of a burst from s: each host page once, in rising order (R603). Bytes below the host range need no lookup. -/
def Device.burstSource (d : Device) (code s n : Nat) : BurstWalk :=
  let h := max s 0x1000000
  (pagesOf h (s + n - h)).foldl (fun (acc : BurstWalk) (p : Nat) =>
    match acc.fault with
    | some _ => acc
    | none =>
      let a := max s (p * 65536)
      match d.translate code a false with
      | .ok h => { acc with pages := acc.pages ++ [(p, h / 65536)] }
      | .error c => { acc with reach := a - s, fault := some { addr := a, cause := c, wr := false } }) { pages := [], reach := n, fault := none }

/-- The destination side of a burst: its host address, or the refusal (R603). -/
def Device.burstDest (d : Device) (code t : Nat) : Option Nat × Option XltFault :=
  if isHost t then
    match d.translate code t true with
    | .ok h => (some h, none)
    | .error c => (none, some { addr := t, cause := c, wr := true })
  else (none, none)

/-- A burst of n bytes from its source walk and its destination: a destination fault ends it before its first byte (R605). -/
def BurstWalk.join (w : BurstWalk) (n : Nat) : Option Nat × Option XltFault → Burst
  | (_, some f) => { len := n, limit := 0, srcHost := w.pages, dstHost := none, fault := some f }
  | (h, none) => { len := n, limit := w.reach, srcHost := w.pages, dstHost := h, fault := w.fault }

/-- The burst that ring r would start now (R603, R605). -/
def Device.burstPlan (d : Device) (r : Fin 32) : Burst :=
  let x := d.rg r
  let n := d.burstLen r
  let w : BurstWalk := if x.isStream then { pages := [], reach := n, fault := none }
    else d.burstSource x.xctx (x.src + x.offset) n
  w.join n (d.burstDest x.xctx (x.dst + x.offset))

/-- FADDR of a refusal (R605). -/
def faddrWords : XltFault → Word × Word
  | f => (BitVec.ofNat 32 f.addr, field 31 28 f.cause ||| flag 24 f.wr ||| field 7 0 (f.addr / 4294967296))

/-- Ring r holds the burst b. -/
def Ring.begin (x : Ring) (rate : Nat) (b : Burst) : Ring :=
  let f : Word × Word := match b.fault with
    | some e => faddrWords e
    | none => (x.faddrLo, x.faddrHi)
  { x with
    burst := some b
    tokens := if rate = 0 then x.tokens else x.tokens - 16 * b.len
    faddrLo := f.1
    faddrHi := f.2 }

/-- Class c last started ring r. -/
def Dma.started (y : Dma) (c : Fin 4) (r : Nat) : Dma := { y with lastStart := y.lastStart.set c r }

/-- A burst of ring r starts: its length, its lookups and the fault it will meet (R603, R605). -/
def Device.burstStart (d : Device) (r : Fin 32) : Device :=
  let x := d.rg r
  let b := d.burstPlan r
  let d := d.updRg r fun x => x.begin (bits (d.rcfg r) 8 0) b
  let s := x.src + x.offset
  let d := if x.isStream then d else b.srcHost.foldl (fun (d : Device) (p : Nat × Nat) =>
    let lo := max s (p.1 * 65536)
    let hi := min (s + b.limit) ((p.1 + 1) * 65536)
    if lo < hi ∧ d.pcieMayIssue then (d.sendTlp (.hostRead (p.2 * 65536 + lo % 65536) (hi - lo))).pmcCountAll 0x31 1 else d) d
  d.updDma fun y => y.started (Fin.ofNat 4 (bits (d.rcfg r) 31 30)) r.val

/-- One FAB cycle of the arbiter (R585, R609). -/
def Device.dmaArbitrate (d : Device) : Device :=
  if bit (d.head (pg 0x070)).ctl 0 && decide (d.burstCount < 8) then
    let d := d.sampleRequests
    match d.arbitrate with
    | some r => (d.burstStart r).syncState 0x070 1 0x02 byHw
    | none => d
  else d

/-- A burst of ring r is over: fences and a running synchronisation no longer wait for it. -/
def Device.burstOver (d : Device) (r : Fin 32) : Device :=
  let m : BitVec 32 := ~~~(BitVec.ofNat 32 (2 ^ r.val))
  let d := d.updDma fun y => { y with
    ring := mapFin y.ring fun i x => { x with burst := if i = r then none else x.burst, fence := x.fence &&& m }
    xlt := { y.xlt with sync := y.xlt.sync.map (· &&& m) } }
  d.syncState 0x070 (if d.burstCount = 0 then 0 else 1) 0x02 byHw

/-! ## The window table and its synchronisation -/

/-- A write of word one or zero of entry e by requester code who (R601, R602): whether a requester below administrator may. -/
def Device.windowMay (d : Device) (e : Nat) (who : Nat) (admin : Bool) (w : Word) : Bool :=
  admin || ((!bit (d.reg (xltAddr e 0)) 15 || bits (d.reg (xltAddr e 0)) 12 10 == who) && bits w 12 10 == who)

/-- The write itself. -/
def Device.windowWrite (d : Device) (e : Nat) (one : Bool) (who : Nat) (admin : Bool) (w : Word) : Device :=
  let i := Fin.ofNat 16 who
  if one then
    if admin || !bit (d.reg (xltAddr e 0)) 15 || bits (d.reg (xltAddr e 0)) 12 10 == who then
      d.updXlt fun x => { x with held := x.held.set i (some w) }
    else d.setErr 0x0A0 errAccvio
  else if d.windowMay e who admin w then
    let d1 := match d.dma.xlt.held[i] with
      | some v => d.setReg (xltAddr e 1) v
      | none => d
    (d1.setReg (xltAddr e 0) w).updXlt fun x => { x with held := x.held.set i none }
  else d.setErr 0x0A0 errAccvio

/-- XLT_SYNC.SYNC (R604): BUSY waits for the bursts in progress. An event-record write is one command of the model, so none is ever
half done when SYNC is written. -/
def Device.xltSync (d : Device) (who : Nat) : Device :=
  (d.updXlt fun x => { x with sync := some ((x.sync.getD 0) ||| d.burstMap) }).syncState 0x0A0 1 0x01 who

/-- BUSY clears once nothing that began before the write remains (R604). -/
def Device.xltSyncDone (d : Device) : Device :=
  if d.dma.xlt.sync == some 0 then (d.updXlt fun x => { x with sync := none }).syncState 0x0A0 0 0x02 byHw else d

/-! ## Views and write checks -/

/-- RING_STAT. -/
def Device.ringStat (d : Device) (r : Fin 32) : Word :=
  let x := d.rg r
  flag 31 x.db ||| flag 30 x.latch.isSome ||| flag 29 x.burst.isSome ||| flag 28 x.sw ||| flag 27 x.lease ||| flag 26 x.host |||
  flag 25 x.fault ||| flag 24 x.err ||| field 23 16 x.lastRes ||| field 11 8 x.xctx ||| field 7 4 x.prev.code |||
  field 3 0 x.st.code

/-- A map of the rings that satisfy c. -/
def Device.ringMap (d : Device) (c : Ring → Bool) : Word :=
  (List.finRange 32).foldl (fun (w : Word) r => w ||| flag r.val (c (d.rg r))) 0

/-- The RO words of the DMA, RING and XLT pages. -/
def Device.dmaView (d : Device) (p o : Nat) (who : Nat) : Option Word :=
  if p = 0x070 then
    match o with
    | 0x040 => some (field 3 0 d.burstCount)
    | 0x044 => some (d.ringMap fun x => x.st == .fetch || x.st == .active || x.st == .waitreq || x.st == .draining)
    | 0x048 => some (d.ringMap fun x => x.st.isPaused)
    | _ => none
  else if 0x080 ≤ p ∧ p ≤ 0x09F then
    let r := Fin.ofNat 32 (p - 0x080)
    let x := d.rg r
    match o with
    | 0x054 => some (d.ringStat r)
    | 0x058 => some (field 31 16 x.done ||| field 15 0 x.head)
    | 0x05C => some (field 23 0 x.offset)
    | 0x060 => some x.faddrLo
    | 0x064 => some x.faddrHi
    | 0x068 => some (field 12 0 (if bits (d.rcfg r) 8 0 = 0 then 0x1000 else x.tokens))
    | _ => none
  else if p = 0x0A0 then
    let x := d.dma.xlt
    match o with
    | 0x040 => some (flag 0 x.bank[Fin.ofNat 16 who])
    | 0x044 => some (flag 1 x.sync.isSome)
    | 0x048 => some x.finfo
    | 0x04C => some x.faddrLo
    | 0x050 => some x.faddrHi
    | 0x054 => some (field 15 0 x.fcount)
    | _ => none
  else none

/-- A write of LOC, SIZE or REQSEL is refused outside DISABLED (R569). -/
def Device.ringCfgOk (d : Device) (r : Fin 32) (w : Word) : Bool :=
  let o := d.rcfg r
  (d.rg r).st == .disabled || (bit w 29 == bit o 29 && bits w 19 16 == bits o 19 16 && bits w 23 20 == bits o 23 20)

/-- The fields of RING_CFG that are written as a limit. -/
def ringClamp (w : Word) : Word := setBits (setBits w 19 16 (min 12 (bits w 19 16))) 8 0 (min 256 (bits w 8 0))

/-- A soft reset of page 0x0A0 (R611). -/
def Device.xltSoftReset (d : Device) : Device := d.updXlt fun x => { x with fcount := 0, finfo := 0, faddrLo := 0, faddrHi := 0 }

end Sys2Proof.Machine
end

