-- ==== Sys2Proof/Machine/Events.lean ====
section
/-! DEFINITION. The event controller: eligibility and selection (R548 to R552), records and rings (R553 to R556), not-empty
signals (R557), targets that cannot take records (R560 to R564), and its registers (R567). -/

namespace Sys2Proof.Machine
open Sys2Proof

/-! ## Targets -/

def evcPage : Nat := 0x060
def Device.tg (d : Device) (t : Fin 9) : EvTarget := d.evc.tgt[t]
def Device.updTg (d : Device) (t : Fin 9) (f : EvTarget → EvTarget) : Device := { d with evc := { d.evc with tgt := upd d.evc.tgt t f } }
/-- Device address of register +o of target t. -/
def tgtAddr (t : Fin 9) (o : Nat) : Nat := pageAddr evcPage (0x100 + 0x20 * t.val + o)
def Device.tctl (d : Device) (t : Fin 9) : Word := d.reg (tgtAddr t 0)
def Device.tgEnabled (d : Device) (t : Fin 9) : Bool := bit (d.tctl t) 0
/-- The ring of target t is on-chip (R555). -/
def Device.tgLoc (d : Device) (t : Fin 9) : Bool := bit (d.tctl t) 1 || t.val == 8
/-- N of target t (R555). -/
def Device.tgN (d : Device) (t : Fin 9) : Nat := if d.tgLoc t then 32 else 32 * 2 ^ bits (d.tctl t) 10 8
def Device.tgBase (d : Device) (t : Fin 9) : Nat := bits (d.reg (tgtAddr t 8)) 7 0 * 4294967296 + (d.reg (tgtAddr t 4)).toNat
/-- Records in the ring (R554). -/
def EvTarget.held (x : EvTarget) : Nat := (x.wr + 65536 - x.rd) % 65536
def EvTarget.notEmpty (x : EvTarget) : Bool := x.wr != x.rd
def Device.tgFull (d : Device) (t : Fin 9) : Bool := decide ((d.tg t).held = d.tgN t)
/-- HOSTWAIT (R561). -/
def Device.hostWait (d : Device) (t : Fin 9) : Bool := !d.tgLoc t && !d.pcieMayIssue
/-- On-chip ring of target t: device address of its slot i (R555). -/
def ringSlot (t : Fin 9) (i : Nat) : Nat := pageAddr (0x061 + t.val / 3) (0x100 + 0x200 * (t.val % 3) + 16 * i)

/-- The sources that target t holds in service. -/
def Device.heldBy (d : Device) (t : Fin 9) : List (Fin 256) :=
  (List.finRange 256).filter fun s => d.evc.src[s].insvc && d.evc.src[s].holder == some t
/-- The in-service level of target t (R549), always from the PRIO in force (R547). -/
def Device.tgLevel (d : Device) (t : Fin 9) : Nat := (d.heldBy t).foldl (fun m s => max m (d.srcPrio s)) 0

/-! ## Signals -/

/-- CTX t of target t, where it has one. -/
def tgCtx (t : Fin 9) : Option (Fin 8) := if h : t.val < 8 then some ⟨t.val, h⟩ else none

/-- Context n is OPEN. -/
def Device.ctxOpen (d : Device) (n : Fin 8) : Bool := d.ctx[n].st == .opened

/-- The I3C port of a bus-port index. -/
def busPort (p : Fin 2) : HostPort := if p.val = 0 then .i3cA else .i3cB

/-- The map of R179 for port p. -/
def Device.ibiMapNow (d : Device) (p : Fin 2) : Byte :=
  (List.finRange 8).foldl (fun (w : Byte) n =>
    if d.ctxOpen n && d.ctx[n].port == busPort p && (d.tg ⟨n.val, by omega⟩).notEmpty then w ||| BitVec.ofNat 8 (2 ^ n.val) else w) 0

/-- The port's in-band interrupt logic looks at its map: a bit that rises asks for an interrupt (R180). -/
def Device.ibiSync (d : Device) : Device :=
  foldFin 2 (fun d p =>
    let m := d.ibiMapNow p
    { d with i3c := upd d.i3c p fun x =>
      { x with ibiMap := m, ibiWait := (x.ibiWait || (m &&& ~~~x.ibiMap) != 0) && m != 0 } }) d

/-- The not-empty signal of target t is raised (R557). INTn and the core's interrupt are levels. -/
def Device.tgSignal (d : Device) (t : Fin 9) : Device :=
  match tgCtx t with
  | none => d
  | some n =>
    if d.ctxOpen n then
      match d.ctx[n].port with
      | .pcie => d.msix (Fin.ofNat 16 n.val)
      | .i3cA => { d with i3c := upd d.i3c 0 fun x => { x with ibiWait := true } }
      | .i3cB => { d with i3c := upd d.i3c 1 fun x => { x with ibiWait := true } }
      | .spi => d
    else d

/-- INTn is low (R196); without VIO or VCORE, and while device reset is held, it is released (R55, R56). -/
def Device.intLow (d : Device) : Bool :=
  d.powered && !d.boot.held && (List.finRange 8).any fun n =>
    d.ctxOpen n && (d.tg ⟨n.val, by omega⟩).notEmpty &&
    (d.ctx[n].port == .spi || (d.ctx[n].smbus && bit (d.reg 0x000078) 8))

/-- The core's event interrupt (R557). -/
def Device.coreEventIrq (d : Device) : Bool := (d.tg 8).notEmpty

/-! ## Records -/

/-- The phase bit of a record at write index WR of a ring of n records (R553). -/
def EvTarget.phase (x : EvTarget) (n : Nat) : Bool := x.wr / n % 2 == 0

/-- Bits 47:32 of a timestamp. -/
def tsHigh (ts : Nat) : Nat := ts / 2 ^ 32

/-- The words of a record of source number s with priority prio, in a ring of n records (R553). -/
def EvTarget.record (x : EvTarget) (e : EvSource) (n prio s : Nat) (bcast : Bool) : Vector Word 4 :=
  #v[flag 31 (x.phase n) ||| flag 22 x.lost ||| flag 21 (e.count == 255) ||| flag 20 bcast ||| field 19 12 e.count |||
      field 11 8 prio ||| field 7 0 s,
    BitVec.ofNat 32 e.ts,
    field 31 16 x.seq ||| field 15 0 (tsHigh e.ts),
    e.payload]

/-- Record of source s for target t (R553). -/
def Device.evRecord (d : Device) (s : Fin 256) (t : Fin 9) (bcast : Bool) : Vector Word 4 :=
  (d.tg t).record d.evc.src[s] (d.tgN t) (d.srcPrio s) s.val bcast

/-- The device address of the next record of target t in host memory (R555). -/
def Device.evAddr (d : Device) (t : Fin 9) : Nat := d.tgBase t + 16 * ((d.tg t).wr % d.tgN t)

/-- Where the record of target t goes: an address on chip, a host bus address, or the fault of its translation (R555, R560). -/
def Device.evTranslate (d : Device) (t : Fin 9) : Except XltFault Nat :=
  (d.translate t.val (d.evAddr t) true).mapError fun c => { addr := d.evAddr t, cause := c, wr := true }

/-- The write of a record of source s to target t meets a translation fault. -/
def Device.evMeetsFault (d : Device) (t : Fin 9) : Bool :=
  !d.tgLoc t && (match d.evTranslate t with | .ok _ => false | .error _ => true)

/-- WR, SEQ and LOST of target t after a record, and its signal (R554, R557). -/
def Device.evAdvance (d : Device) (t : Fin 9) : Device :=
  let was := (d.tg t).notEmpty
  let d := ((d.updTg t fun x => { x with wr := (x.wr + 1) % 65536, seq := (x.seq + 1) % 65536, lost := false }).pmcCount 0x27 t.val 1).pmcCountAll 0x21 1
  if was then d else d.tgSignal t

/-- One record of source s is written to target t; the answer says whether it was (R549, R560). -/
def Device.evWrite (d : Device) (s : Fin 256) (t : Fin 9) (bcast : Bool) : Device × Bool :=
  let w := d.evRecord s t bcast
  if d.tgLoc t then
    let a := ringSlot t ((d.tg t).wr % 32)
    (((((d.ramPut a w[0]).ramPut (a + 4) w[1]).ramPut (a + 8) w[2]).ramPut (a + 12) w[3]).evAdvance t, true)
  else
    match d.evTranslate t with
    | .ok h => ((d.sendTlp (.hostWrite h (wordBytes w[0] ++ wordBytes w[1] ++ wordBytes w[2] ++ wordBytes w[3]))).evAdvance t, true)
    | .error f => (((d.xltFault true t.val t.val f).updTg t fun x => { x with wfault := true }).setErr evcPage (errBit 10), false)

/-! ## Selection -/

/-- Target t is eligible for source s (R548). -/
def Device.eligible (d : Device) (s : Fin 256) (t : Fin 9) : Bool :=
  bit (d.srcWord s) (8 + t.val) && d.tgEnabled t &&
  (match tgCtx t with | some n => d.ctxOpen n | none => !d.boot.coreRestarting) &&
  !d.tgFull t && !(d.tg t).wfault && !d.hostWait t &&
  decide (bits (d.tctl t) 7 4 < d.srcPrio s) && decide (d.tgLevel t < d.srcPrio s)

/-- Source s is a candidate (R548). -/
def Device.candidate (d : Device) (s : Fin 256) : Bool :=
  d.evc.src[s].pend && !d.evc.src[s].insvc && (List.finRange 9).any (d.eligible s)

/-- Source s broadcasts (R545, R550). -/
def Device.isBcast (d : Device) (s : Fin 256) : Bool := decide (s.val < 16) && bit (d.srcWord s) 24

/-- The selected source: the highest PRIO, then the lowest number (R548). -/
def Device.selectedSource (d : Device) : Option (Fin 256) :=
  ((List.finRange 256).filter d.candidate).foldl (fun (b : Option (Fin 256)) s =>
    match b with
    | none => some s
    | some x => if d.srcPrio x < d.srcPrio s then some s else some x) none

/-- The first eligible target at or after RRPTR (R548). -/
def Device.selectedTarget (d : Device) (s : Fin 256) : Option (Fin 9) :=
  ((List.range 9).map fun i => Fin.ofNat 9 (d.evc.src[s].rr + i)).find? (d.eligible s)

/-- The targets that a broadcast of source s names (R550). -/
def Device.bcastTargets (d : Device) (s : Fin 256) : List (Fin 9) :=
  (List.finRange 9).filter fun t => bit (d.srcWord s) (8 + t.val) && d.tgEnabled t

/-- A copy to target t would be dropped (R550). -/
def Device.copyDrops (d : Device) (t : Fin 9) : Bool := d.tgFull t || (d.tg t).wfault || d.hostWait t

/-- The record of source s for one target (R549, R560). -/
def Device.evUnicast (d : Device) (s : Fin 256) (t : Fin 9) : Device :=
  match d.evWrite s t false with
  | (d, true) => d.updSrc s fun e => { e with count := 0, pend := false, insvc := true, holder := some t }
  | (d, false) => d

/-- One copy of a broadcast (R550, R560); the answer says whether it met a translation fault. -/
def Device.evCopy (d : Device) (s : Fin 256) (t : Fin 9) : Device × Bool :=
  if d.copyDrops t then ((d.updTg t fun x => { x with lost := true }).setErr evcPage (errBit 11), false)
  else
    match d.evWrite s t true with
    | (d, ok) => (d, !ok)

/-- The broadcast of source s (R550): its COUNT and PEND are cleared, except after a copy that met a translation fault (R560). -/
def Device.evBroadcast (d : Device) (s : Fin 256) : Device :=
  let r := (d.bcastTargets s).foldl (fun (a : Device × Bool) t =>
    let c := a.1.evCopy s t
    (c.1, a.2 || c.2)) (d, false)
  if r.2 then r.1 else r.1.updSrc s fun e => { e with count := 0, pend := false }

/-- The records of this selection meet a translation fault. -/
def Device.selectionFaults (d : Device) (s : Fin 256) (t : Fin 9) : Bool :=
  if d.isBcast s then (d.bcastTargets s).any fun t => !d.copyDrops t && d.evMeetsFault t else d.evMeetsFault t

/-- The controller makes selections (R567). -/
def Device.evcRuns (d : Device) : Bool := d.live && bit (d.head (pg evcPage)).ctl 0

/-- The selection of one FAB cycle (R548 to R550), where its records meet a translation fault exactly when faulting. -/
def Device.evSelect (d : Device) (faulting : Bool) : Device :=
  if d.evcRuns then
    match d.selectedSource with
    | none => d
    | some s =>
      match d.selectedTarget s with
      | none => d
      | some t =>
        if d.selectionFaults s t == faulting then
          let d := d.updSrc s fun e => { e with rr := (t.val + 1) % 9 }
          (if d.isBcast s then d.evBroadcast s else d.evUnicast s t).ibiSync.evcSync
        else d
  else d

/-! ## Consumers -/

/-- EOI of source s by target t (R551). -/
def Device.evEoi (d : Device) (t : Fin 9) (s : Fin 256) : Device :=
  if d.evc.src[s].insvc && d.evc.src[s].holder == some t then d.updSrc s fun e => { e with insvc := false, holder := none }
  else d.setErr evcPage (errBit 9)

/-- A write of RD (R556, R557). -/
def Device.evRdWrite (d : Device) (t : Fin 9) (rd : Nat) : Device :=
  let x := d.tg t
  if (rd + 65536 - x.rd) % 65536 ≤ x.held then
    let d := d.updTg t fun x => { x with rd := rd % 65536 }
    (if (d.tg t).notEmpty then d.tgSignal t else d).ibiSync
  else d.setErr evcPage (errBit 8)

/-- Sources that target t holds leave service (R563). -/
def Device.tgRelease (d : Device) (t : Fin 9) : Device :=
  { d with evc := { d.evc with src := d.evc.src.map fun e =>
      if e.insvc && e.holder == some t then { e with insvc := false, holder := none } else e } }

/-- The on-chip ring of target t is zeroed (R556). -/
def Device.tgZero (d : Device) (t : Fin 9) : Device :=
  (List.range 128).foldl (fun d i => d.ramPut (ringSlot t 0 + 4 * i) 0) d

/-- A write of EVC_TCTLt with value w, whose reserved bits are 0 (R562, R563). -/
def Device.tctlWrite (d : Device) (t : Fin 9) (w : Word) : Device :=
  let o := d.tctl t
  let n := if t.val = 8 then w ||| 2 else w
  let big := 16 * (32 * 2 ^ bits n 10 8)
  let bad := if bit o 0 then (bits n 10 8 != bits o 10 8 || bit n 1 != d.tgLoc t)
    else bit n 0 && !bit n 1 && (!isHost (d.tgBase t) || d.tgBase t % big != 0)
  if bad then d.setErr evcPage (errBit 8)
  else
    let d := d.setReg (tgtAddr t 0) n
    let d := if !bit o 0 && bit n 0 then
        let d := d.updTg t fun x => { x with wr := 0, rd := 0, seq := 0, lost := false }
        if d.tgLoc t then d.tgZero t else d
      else d
    (if bit o 0 && !bit n 0 then d.tgRelease t else d).ibiSync

/-- A context end resets every register of target n (R563). -/
def Device.tgReset (d : Device) (t : Fin 9) : Device :=
  let d := d.tgRelease t
  let d := ((d.setReg (tgtAddr t 0) (resetWord (tgtAddr t 0))).setReg (tgtAddr t 4) 0).setReg (tgtAddr t 8) 0
  (d.updTg t fun _ => { rd := 0, wr := 0, seq := 0, wfault := false, lost := false }).ibiSync.evcSync 0x04

/-- WFAULT of target t is cleared by requester code who: the target can take records again (R560). -/
def Device.wfaultClear (d : Device) (t : Fin 9) (who : Nat) : Device :=
  (d.updTg t fun x => { x with wfault := false }).evcSync 0x01 who

/-- A write of the configuration word of source s by requester code who (R547). -/
def Device.srcWritten (d : Device) (s : Fin 256) (who : Nat) : Device :=
  if d.srcPrio s = 0 then (d.updSrc s fun e => { e with pend := false, count := 0 }).evcSync 0x01 who else d

/-- Soft reset of page 0x060 by requester code who (R567). -/
def Device.evcSoftReset (d : Device) (who : Nat) : Device :=
  let d : Device := { d with evc := { d.evc with src := d.evc.src.map fun e => { e with pend := false, count := 0, insvc := false, holder := none } } }
  (d.updHdr (pg evcPage) fun h => { h with err := h.err &&& ~~~(errBit 9) }).evcSync 0x01 who

/-! ## Views -/

def Device.srcMap (d : Device) (w : Nat) (c : EvSource → Bool) : Word :=
  (List.finRange 32).foldl (fun a b => a ||| flag b.val (c d.evc.src[Fin.ofNat 256 (32 * w + b.val)])) 0

/-- EVC_TSTATt. -/
def Device.tstat (d : Device) (t : Fin 9) : Word :=
  let x := d.tg t
  flag 31 x.notEmpty ||| flag 30 (d.tgFull t) ||| flag 29 x.wfault ||| flag 28 (d.hostWait t) ||| flag 27 x.lost |||
  field 15 8 (d.heldBy t).length ||| field 3 0 (d.tgLevel t)

/-- The status word of source s at 0x800 + 4 s of page 0x120 (R545). -/
def EvSource.word (e : EvSource) : Word :=
  flag 31 e.pend ||| flag 30 e.insvc ||| field 27 24 (match e.holder with | some t => t.val | none => 15) ||| field 23 16 e.count

/-- The registers of pages 0x060 to 0x063 that are views of the controller. -/
def Device.evcView (d : Device) (i o : Nat) : Option Word :=
  if i = 0 then
    if 0x040 ≤ o ∧ o < 0x060 then some (d.srcMap ((o - 0x040) / 4) (·.pend))
    else if 0x060 ≤ o ∧ o < 0x080 then some (d.srcMap ((o - 0x060) / 4) (·.insvc))
    else if o = 0x088 then some (field 8 0 (d.evc.src.toList.filter (·.pend)).length)
    else if 0x100 ≤ o ∧ o < 0x220 then
      let t := Fin.ofNat 9 ((o - 0x100) / 0x20)
      match (o - 0x100) % 0x20 with
      | 0x0C => some (field 15 0 (d.tg t).rd)
      | 0x10 => some (field 31 16 (d.tg t).seq ||| field 15 0 (d.tg t).wr)
      | 0x14 => some (d.tstat t)
      | _ => none
    else none
  else if 0x100 ≤ o ∧ o < 0x700 then some (d.ramWord (pageAddr (0x060 + i) o))
  else none

/-- The read-only words of the source table (R545). -/
def Device.srcView (d : Device) (o : Nat) : Option Word :=
  if o < 0x800 then
    if o % 8 = 4 then some (field 3 0 d.evc.src[Fin.ofNat 256 (o / 8)].rr) else none
  else if o < 0xC00 then some d.evc.src[Fin.ofNat 256 ((o - 0x800) / 4)].word
  else none

end Sys2Proof.Machine
end

