-- ==== Sys2Proof/Machine/Telemetry.lean ====
section
/-! DEFINITION. Telemetry windows and records (R614 to R619), register averages and peaks (R620), streams (R621 to R624), rushes
(R625 to R628), dailies (R629 to R632) and the performance counters' registers (R633 to R638). -/

namespace Sys2Proof.Machine
open Sys2Proof

def tlmPage : Nat := 0x0B0
def rushPage : Nat := 0x0B1

/-! ## What a window yields -/

/-- The ADC cycles of a window of code w (R614): W / 8 ns. -/
def windowCycles (w : Nat) : Nat := (match w % 3 with | 0 => 1 | 1 => 2 | _ => 5) * 10 ^ (w / 3) * 125

/-- In the latest ADC cycle the timestamp has reached or passed a multiple of p counts, by its count or by a forward step. -/
def Device.tsReached (d : Device) (p : Nat) : Bool := decide (d.syn.tsPrev / p ≠ d.ts / p)

/-- A window of code w ends here (R615). -/
def Device.windowDue (d : Device) (w : Nat) : Bool := d.tsReached (windowCycles w)

/-- A rational rounded to nearest, halves rounded up (R616). -/
def ratHalfUp (x : Rat) : Int := (x + 1 / 2).floor

/-- A list of samples, or the sample y that the device holds where it lists none. -/
def samplesOr {A : Type} (l : List A) (y : A) : List A := if l.isEmpty then [y] else l

/-- The largest and the smallest of a list. -/
def listMax (l : List Int) : Int := l.foldl max (l.headD 0)
def listMin (l : List Int) : Int := l.foldl min (l.headD 0)

/-- The values of the window x of loop n (R616). FLAGS are the conditions that held in it, those that hold at its end among them (R619). -/
def Device.loopWin (d : Device) (n : Fin 16) (x : LoopWindow) : LoopWin :=
  let l := d.lp n
  let vs := (samplesOr x.codes l.sense.raw).map fun c => d.loopMicrovolts n c / 250
  let cs := samplesOr x.cycles (l.sense.raw, l.sense.iOut)
  let is := cs.map fun c => (max 0 c.2 : Rat) / 128
  let ps := cs.map fun c => d.loopMicrovolts n c.1 * max 0 c.2 / 512000000
  let codes := vs.map ratHalfUp
  { vAvg := (ratHalfUp (meanRat vs)).toNat
    vMax := (listMax codes).toNat
    vMin := (listMin codes).toNat
    iAvg := (ratHalfUp (meanRat is)).toNat
    iMax := (listMax (is.map ratHalfUp)).toNat
    pAvg := (ratHalfUp (meanRat ps)).toNat
    flags := x.flags ||| BitVec.ofNat 9 (32 * b2n (l.st != .run) + 64 * b2n (l.st == .crowbar) + 128 * b2n (l.st == .faulted)) }

/-- The values of the window x of phase k (R617). -/
def Device.phaseWin (d : Device) (k : Fin 64) (x : PhaseWindow) : PhaseWin :=
  let is := if x.imon.isEmpty then [((d.ph k).cur : Rat)] else x.imon.map fun i => d.imonAmps k i * 128
  { iAvg := ratHalfUp (meanRat is)
    iMax := listMax (is.map ratHalfUp)
    iMin := listMin (is.map ratHalfUp)
    tonAvg := (ratHalfUp (meanRat (x.tons.map fun t => (t : Rat)))).toNat
    pulses := x.tons.length
    flags := x.flags ||| BitVec.ofNat 9 (32 * b2n ((d.ph k).st == .failed)) }

/-- What the window of x yields; a forward step over more than one multiple shows in TSTEP (R615). -/
def Device.windowOf (d : Device) (x : WindowSamples) : WindowData :=
  { code := x.code
    loops := Vector.ofFn fun n => d.loopWin n (((x.loops.find? fun y => y.1 == n).map (·.2)).getD { codes := [], cycles := [], flags := 0 })
    phases := Vector.ofFn fun k => d.phaseWin k (((x.phases.find? fun y => y.1 == k).map (·.2)).getD { imon := [], tons := [], flags := 0 })
    tstep := x.tstep || decide (d.syn.tsPrev / windowCycles x.code + 1 < d.ts / windowCycles x.code)
    clap := x.clap }

/-! ## Records -/

/-- A value saturated at 16 bits, and a signed one (R616). -/
def sat16 (n : Nat) : Nat := min 0xFFFF n
def satS16 (x : Int) : Nat := toField 16 (clampI (-32768) 32767 x)

/-- T of loop n: its hottest stage, or 0x8000 (R616). -/
def Device.loopT (d : Device) (n : Fin 16) : Nat :=
  match d.hottest n with
  | some t => satS16 t
  | none => 0x8000

/-- FLAGS of a record (R619): the kind's own bits, TSTEP, clap and GAP. -/
def flagsWord (own : BitVec 9) (w : WindowData) (gap : Bool) : Nat :=
  own.toNat + 512 * b2n w.tstep + 1024 * b2n w.clap + 2048 * b2n gap

/-- The loop record of R618. -/
def Device.loopRecord (d : Device) (n : Fin 16) (w : WindowData) (seq : Nat) (gap : Bool) : Vector Word 8 :=
  let x := w.loops[n]
  #v[BitVec.ofNat 32 d.ts, BitVec.ofNat 32 (d.ts / 4294967296),
    field 31 16 (sat16 x.iAvg) ||| field 15 0 (sat16 x.vAvg),
    field 31 16 (d.loopT n) ||| field 15 0 (sat16 x.pAvg),
    field 31 16 (sat16 x.vMin) ||| field 15 0 (sat16 x.vMax),
    field 31 16 (flagsWord x.flags w gap) ||| field 15 0 (sat16 x.iMax),
    field 31 16 seq ||| field 15 8 (d.lp n).nAct ||| field 7 0 n.val,
    field 12 8 w.code.val ||| 0x01]

/-- The phase record of R618; in UNPOP every value is 0 (R617). -/
def Device.phaseRecord (d : Device) (k : Fin 64) (w : WindowData) (seq : Nat) (gap : Bool) : Vector Word 8 :=
  let x := w.phases[k]
  let p := d.ph k
  let on := p.st != .unpop
  let v (i : Word) : Word := if on then i else 0
  #v[BitVec.ofNat 32 d.ts, BitVec.ofNat 32 (d.ts / 4294967296),
    v (field 31 16 (bits (d.thmT (tmonChan k)) 15 0) ||| field 15 0 (satS16 x.iAvg)),
    v (field 31 16 (satS16 x.iMin) ||| field 15 0 (satS16 x.iMax)),
    v (field 29 16 p.lLrn ||| field 15 0 (sat16 x.tonAvg)),
    v (field 31 16 (sat16 x.pulses)) ||| field 15 0 (flagsWord x.flags w gap),
    field 31 16 seq ||| field 11 8 p.st.code ||| field 7 0 k.val,
    field 12 8 w.code.val ||| 0x02]

/-- The bytes of a record. -/
def recordBytes (ws : Vector Word 8) : List Byte := ws.toList.flatMap wordBytes

/-! ## Streams -/

def Device.schCfg (d : Device) (c : Fin 8) : Word := d.reg (pageAddr tlmPage (0x080 + 0x10 * c.val))
def Device.schMask (d : Device) (c : Fin 8) (hi : Bool) : Word := d.reg (pageAddr tlmPage (0x084 + 0x10 * c.val + 4 * b2n hi))
def Device.updSch (d : Device) (c : Fin 8) (f : StreamChan → StreamChan) : Device :=
  d.updTlm fun t => { t with sch := upd t.sch c f }
def Device.schOn (d : Device) (c : Fin 8) : Bool := bit (d.schCfg c) 31

/-- PAGE_STAT of page 0x0B0 (R656). -/
def Device.tlmSync (d : Device) (cause who : Nat) : Device :=
  d.syncState tlmPage (if (List.finRange 8).any d.schOn then 1 else 0) cause who

/-- A record enters channel c, or is dropped (R622, R623); numbered: it takes the channel's SEQ. -/
def Device.schPut (d : Device) (c : Fin 8) (rec8 : Vector Word 8) (numbered : Bool) : Device :=
  let x := d.tlm.sch[c]
  if 2048 < x.fifo.length + 32 then
    let d := (d.updSch c fun x => { x with drops := satInc 255 x.drops, gap := true }).setErr tlmPage (errBit 9)
    (d.dayDev fun y => { y with drops := satInc 0xFFFF y.drops }).pmcCount 0x33 c.val 1
  else d.updSch c fun x => { x with
    fifo := x.fifo ++ recordBytes rec8
    seq := if numbered then (x.seq + 1) % 65536 else x.seq
    gap := if numbered then false else x.gap }

/-- Channel c at a window end (R621). -/
def Device.schWindow (d : Device) (w : WindowData) (c : Fin 8) : Device :=
  let cfg := d.schCfg c
  if bit cfg 31 && bits cfg 20 16 == w.code.val then
    if bit cfg 30 then
      foldFin 64 (fun d k =>
        if bit (d.schMask c (decide (32 ≤ k.val))) (k.val % 32) then
          let x := d.tlm.sch[c]
          d.schPut c (d.phaseRecord k w x.seq x.gap) true
        else d) d
    else
      foldFin 16 (fun d n =>
        if bit (d.schMask c false) n.val then
          let x := d.tlm.sch[c]
          d.schPut c (d.loopRecord n w x.seq x.gap) true
        else d) d
  else d

/-- The bytes of channel c that bursts in progress have sampled (R586). -/
def Device.schReserved (d : Device) (c : Fin 8) : Nat :=
  (List.finRange 32).foldl (fun (m : Nat) r =>
    if (d.rg r).isStream && bits (d.rcfg r) 23 20 == c.val + 1 then
      match (d.rg r).burst with
      | some b => max m b.len
      | none => m
    else m) 0

/-- EN of channel c goes to 0 (R624). -/
def Device.schStop (d : Device) (c : Fin 8) : Device :=
  d.updSch c fun x => { x with fifo := x.fifo.take (d.schReserved c), seq := 0 }

/-- A write of a word of channel c (R614, R624). -/
def Device.schWrite (d : Device) (c : Fin 8) (word : Fin 3) (v : Word) (who : Nat) : Device :=
  let a := pageAddr tlmPage (0x080 + 0x10 * c.val + 4 * word.val)
  let o := d.schCfg c
  if word.val = 0 then
    if 18 < bits v 20 16 || (bit o 31 && (bit v 30 != bit o 30 || bits v 20 16 != bits o 20 16)) then d.setErr tlmPage (errBit 8)
    else
      let d := d.setReg a v
      (if bit o 31 && !bit v 31 then d.schStop c else d).tlmSync 0x01 who
  else if bit o 31 then d.setErr tlmPage (errBit 8)
  else d.setReg a v

/-! ## Averages and peaks -/

/-- The registers of the windows that TLM_RWIN selects (R620). -/
def Device.windowRegs (d : Device) (w : WindowData) : Device :=
  let rw := d.reg 0x0B0040
  let d := if bits rw 4 0 = w.code.val then
      d.updTlm fun t => { t with
        lavg := mapFin t.lavg fun n _ => field 31 16 (sat16 w.loops[n].iAvg) ||| field 15 0 (sat16 w.loops[n].vAvg)
        lpt := mapFin t.lpt fun n _ => field 31 16 (d.loopT n) ||| field 15 0 (sat16 w.loops[n].pAvg)
        lpeak := mapFin t.lpeak fun n o =>
          field 31 16 (min (bits o 31 16) (sat16 w.loops[n].vMin)) ||| field 15 0 (max (bits o 15 0) (sat16 w.loops[n].vMax))
        lipeak := mapFin t.lipeak fun n o => field 15 0 (max (bits o 15 0) (sat16 w.loops[n].iMax)) }
    else d
  if bits rw 12 8 = w.code.val then
    d.updTlm fun t => { t with
      pavg := mapFin t.pavg fun k _ =>
        if (d.ph k).st == .unpop then 0 else field 31 16 (bits (d.thmT (tmonChan k)) 15 0) ||| field 15 0 (satS16 w.phases[k].iAvg)
      ppeak := mapFin t.ppeak fun k o =>
        let x := w.phases[k]
        let mx := if (d.ph k).st == .unpop then 0 else x.iMax
        let mn := if (d.ph k).st == .unpop then 0 else x.iMin
        field 31 16 (satS16 (min (sbits o 31 16) mn)) ||| field 15 0 (satS16 (max (sbits o 15 0) mx)) }
  else d

/-- The 1 ms averages of PMBus. -/
def Device.windowPm (d : Device) (w : WindowData) : Device :=
  if w.code.val = 9 then
    d.updTlm fun t => { t with pm := mapFin t.pm fun n _ => (sat16 w.loops[n].vAvg, sat16 w.loops[n].iAvg, sat16 w.loops[n].pAvg) }
  else d

/-- The words of R620 after a clearing read. -/
def lpeakClear : Word := 0xFFFF0000
def ppeakClear : Word := 0x7FFF8000

/-- A clearing read of a peak register: its word, and the device after it (R15, R620). -/
def Device.peakRead (d : Device) : PeakReg → Word × Device
  | .lpeak n => (d.tlm.lpeak[n], d.updTlm fun t => { t with lpeak := t.lpeak.set n lpeakClear })
  | .lipeak n => (d.tlm.lipeak[n], d.updTlm fun t => { t with lipeak := t.lipeak.set n 0 })
  | .ppeak k => (d.tlm.ppeak[k], d.updTlm fun t => { t with ppeak := t.ppeak.set k ppeakClear })

/-! ## Rushes -/

def Device.rushOn (d : Device) : Bool := bit (d.reg 0x0B1040) 31

/-- One record of the rushes, while they record or follow a marker (R625, R627). -/
def Device.rushRecord (d : Device) (ws : Vector Word 8) : Device :=
  match d.tlm.rush.st with
  | .recording => d.rushPut ws
  | .triggered =>
    if d.tlm.rush.left = 0 then d
    else (d.rushPut ws).updTlm fun t => { t with rush := { t.rush with left := t.rush.left - 1 } }
  | .frozen => d

/-- The rushes at a window end (R625). -/
def Device.rushWindow (d : Device) (w : WindowData) : Device :=
  if d.rushOn then
    let cfg := d.reg 0x0B1040
    let d := if bits cfg 4 0 = w.code.val then
        foldFin 16 (fun d n => if bit (d.reg 0x0B1048) n.val then d.rushRecord (d.loopRecord n w d.tlm.rush.seq false) else d) d
      else d
    if bits cfg 12 8 = w.code.val then
      foldFin 64 (fun d k =>
        if bit (d.reg (0x0B104C + 4 * (k.val / 32))) (k.val % 32) then d.rushRecord (d.phaseRecord k w d.tlm.rush.seq false) else d) d
    else d
  else d

/-- The end of a window (R615). -/
def Device.windowEnd (d : Device) (w : WindowData) : Device :=
  let d := (d.windowRegs w).windowPm w
  (foldFin 8 (fun d c => d.schWindow w c) d).rushWindow w

/-- TELEMETRY_WINDOW_END (R615): nothing ends where the timestamp has reached no multiple of the window. -/
def Device.windowEnds (d : Device) (x : WindowSamples) : Device :=
  if d.windowDue x.code.val then d.windowEnd (d.windowOf x) else d

/-- CAUSE and DETAIL of a trigger (R627), where it is one (R626). -/
def Device.rushCauseOf (d : Device) : RushCause → Option (Nat × Nat)
  | .cut r => some (1, r.val)
  | .loopFault n => if bit (d.reg 0x0B1048) n.val then some (2, n.val) else none
  | .incident c => some (3, c.val)
  | .freeze _ => some (4, 0)

/-- The rushes freeze after POST records (R627). -/
def Device.rushFreeze (d : Device) : Device :=
  if d.tlm.rush.st == .triggered && d.tlm.rush.left == 0 then
    let d := d.updTlm fun t => { t with rush := { t.rush with st := .frozen } }
    (d.raise 122 (field 12 0 d.tlm.rush.mark)).syncState rushPage d.rushCode 0x12 byHw
  else d

/-- REARM (R628). -/
def Device.rushRearm (d : Device) (who : Nat) : Device :=
  if d.tlm.rush.st == .frozen then
    let d := d.updTlm fun t => { t with rush := { t.rush with st := .recording, wrapped := false, mark := 0, used := 0 } }
    d.syncState rushPage d.rushCode 0x10 who
  else d

/-- A write of TLM_RCTL (R626, R628). -/
def Device.rctlWrite (d : Device) (v : Word) (who : Nat) : Device :=
  let d := if bit v 0 then d.rushTrigger 4 0 else d
  if bit v 1 then d.rushRearm who else d

/-! ## Dailies -/

/-- The accumulations of a period that begins. -/
def Device.dayClear (d : Device) : Device :=
  d.updTlm fun t => { t with dailyLoop := Vector.replicate 16 dailyLoop0, dailyDev := dailyDev0 }

/-- Two periods' measured quantities, the first of n periods (R631). -/
def mergeMeas (n : Nat) (a b : DailyMeas) : DailyMeas :=
  { energy := min 0xFFFFFFFF (a.energy + b.energy)
    vMax := max a.vMax b.vMax
    vMin := min a.vMin b.vMin
    iMax := max a.iMax b.iMax
    tMax := max a.tMax b.tMax
    run := (roundOpen (a.run * n + b.run : Nat) (n + 1 : Nat)).toNat }

def mergeLoop (a b : DailyLoop) : DailyLoop :=
  { cues := min 0xFFFF (a.cues + b.cues)
    phFails := min 255 (a.phFails + b.phFails)
    faults := min 255 (a.faults + b.faults)
    leastN := min a.leastN b.leastN }

def mergeDev (a b : DailyDev) : DailyDev :=
  { incidents := min 0xFFFF (a.incidents + b.incidents)
    handovers := min 0xFFFF (a.handovers + b.handovers)
    warnings := min 0xFFFF (a.warnings + b.warnings)
    claps := min 0xFFFF (a.claps + b.claps)
    firstClass := a.firstClass.orElse fun _ => b.firstClass
    steps := min 255 (a.steps + b.steps)
    drops := min 0xFFFF (a.drops + b.drops) }

/-- A daily period ends here: a multiple of PERIOD seconds has been reached while EN is 1 (R629). -/
def Device.dayDue (d : Device) : Bool := d.dayOn && d.tsReached (125000000 * max 1 (bits (d.reg 0x0B1080) 15 0))

/-- A daily period ends (R629), merged with one whose records are not written yet (R631). -/
def Device.dayEnd (d : Device) (meas : Vector DailyMeas 16) (battSecs : Nat) : Device :=
  if d.dayDue then
    let t := d.tlm
    let new : DailyClosed := { ts := d.ts, periods := 1, meas := meas, loops := t.dailyLoop, dev := t.dailyDev, battSecs := battSecs }
    let d := match t.closed with
      | none => d.updTlm fun t => { t with closed := some new }
      | some o =>
        (d.updTlm fun t => { t with
          closed := some {
            ts := d.ts
            periods := satInc 255 o.periods
            meas := Vector.ofFn fun n => mergeMeas o.periods o.meas[n] meas[n]
            loops := Vector.ofFn fun n => mergeLoop o.loops[n] t.dailyLoop[n]
            dev := mergeDev o.dev t.dailyDev
            battSecs := min 0xFFFFFFFF (o.battSecs + battSecs) }
          dLate := satInc 255 t.dLate }).setErr rushPage (errBit 9)
    d.dayClear
  else d

/-- The loop record of R632. A loop that was never in RUN has no least N: a free value. -/
def loopDaily (c : DailyClosed) (n : Fin 16) (seq : Nat) (free : Word) : Vector Word 8 :=
  let m := c.meas[n]
  let l := c.loops[n]
  #v[BitVec.ofNat 32 c.ts, BitVec.ofNat 32 (c.ts / 4294967296),
    BitVec.ofNat 32 (min 0xFFFFFFFF m.energy),
    field 31 16 (sat16 m.vMin) ||| field 15 0 (sat16 m.vMax),
    field 31 16 (satS16 m.tMax) ||| field 15 0 (sat16 m.iMax),
    field 31 16 l.cues ||| field 9 0 m.run,
    field 31 16 seq ||| field 15 8 (if l.leastN = 255 then bits free 7 0 else l.leastN) ||| field 7 0 n.val,
    field 31 24 c.periods ||| field 23 16 l.faults ||| field 15 8 l.phFails ||| 0x20]

/-- The device record of R632. -/
def devDaily (c : DailyClosed) (seq : Nat) : Vector Word 8 :=
  let x := c.dev
  #v[BitVec.ofNat 32 c.ts, BitVec.ofNat 32 (c.ts / 4294967296),
    field 31 16 x.handovers ||| field 15 0 x.incidents,
    BitVec.ofNat 32 (min 0xFFFFFFFF c.battSecs),
    field 31 16 x.claps ||| field 15 0 x.warnings,
    field 31 16 x.drops ||| field 15 8 x.steps ||| field 7 0 (x.firstClass.getD 0xFF),
    field 31 16 seq ||| field 7 0 0xFF,
    field 31 24 c.periods ||| 0x21]

/-- One daily record is written (R630). -/
def Device.dayPut (d : Device) (ws : Vector Word 8) : Device :=
  let t := d.tlm
  let d := d.putRecord (0x0B1100 + 32 * t.dNext) ws
  let cfg := d.reg 0x0B1080
  let c := Fin.ofNat 8 (bits cfg 26 24)
  let d := if bit cfg 30 && d.schOn c then d.schPut c ws false else d
  (d.updTlm fun t => { t with dNext := (t.dNext + 1) % 32, dSeq := (t.dSeq + 1) % 65536 }).raise 121 (field 15 0 t.dSeq)

/-- The core writes the records of a period (R630). -/
def Device.dayWrite (d : Device) : Device :=
  match d.tlm.closed with
  | none => d
  | some c =>
    if d.boot.coreUp then
      let d := foldFin 16 (fun d n =>
        if bit (d.reg 0x0B1084) n.val then
          let f := if c.loops[n].leastN = 255 then d.draw else (0, d)
          f.2.dayPut (loopDaily c n d.tlm.dSeq f.1)
        else d) d
      (d.dayPut (devDaily c d.tlm.dSeq)).updTlm fun t => { t with closed := none }
    else d

/-! ## The stored words of pages 0x0B0 and 0x0B1 -/

/-- A write of a window code above 18 is refused (R614). -/
def tlmWriteOk (p o : Nat) (w : Word) : Bool :=
  if (p = 0x0B0 ∧ o = 0x040) ∨ (p = 0x0B1 ∧ o = 0x040) then decide (bits w 4 0 ≤ 18) && decide (bits w 12 8 ≤ 18) else true

/-- What follows a performed write: EN of the rushes and of the dailies. -/
def Device.tlmWritten (d : Device) (p o : Nat) (old : Word) (who : Nat) : Device :=
  if p = 0x0B1 then
    if o = 0x040 then d.syncState rushPage d.rushCode (if d.rushOn then 0x10 else 0x01) who
    else if o = 0x080 then (if d.dayOn && !bit old 31 then d.dayClear else d)
    else d
  else d

/-- Soft resets of pages 0x0B0 and 0x0B1 (R656). -/
def Device.tlmSoftReset (d : Device) (who : Nat) : Device :=
  (foldFin 8 (fun d c => (d.setReg (pageAddr tlmPage (0x080 + 0x10 * c.val)) (setBit (d.schCfg c) 31 false)).schStop c) d).tlmSync 0x01 who
def Device.rushSoftReset (d : Device) (who : Nat) : Device :=
  let d := d.rushRearm who
  ((List.range 256).foldl (fun d i => d.ramPut (0x0B1100 + 4 * i) 0) d).updTlm fun t => { t with dNext := 0 }

/-- The RO words of pages 0x0B0 and 0x0B1; the RC registers are read through peakRead. -/
def Device.tlmView (d : Device) (p o : Nat) : Option Word :=
  let t := d.tlm
  if p = 0x0B0 then
    if 0x080 ≤ o ∧ o < 0x100 then
      if o % 16 = 12 then
        let x := t.sch[Fin.ofNat 8 ((o - 0x080) / 16)]
        some (field 31 16 x.seq ||| field 15 8 x.drops ||| field 6 0 (x.fifo.length / 32))
      else none
    else if 0x100 ≤ o ∧ o < 0x200 then
      let n := Fin.ofNat 16 ((o - 0x100) / 16)
      match o % 16 with
      | 0 => some t.lavg[n]
      | 4 => some t.lpt[n]
      | 8 => some t.lpeak[n]
      | 12 => some t.lipeak[n]
      | _ => none
    else if 0x200 ≤ o ∧ o < 0x300 then some t.pavg[Fin.ofNat 64 ((o - 0x200) / 4)]
    else if 0x300 ≤ o ∧ o < 0x400 then some t.ppeak[Fin.ofNat 64 ((o - 0x300) / 4)]
    else none
  else if o = 0x058 then some (flag 31 t.rush.wrapped ||| field 28 16 t.rush.mark ||| field 12 0 t.rush.next)
  else if o = 0x088 then some (field 31 16 t.dSeq ||| field 15 8 t.dLate ||| field 4 0 t.dNext)
  else if 0x100 ≤ o ∧ o < 0x500 then some (d.ramWord (pageAddr rushPage o))
  else none

/-- The RC register at a device address (R620). -/
def peakAt (a : Nat) : Option PeakReg :=
  if 0x0B0100 ≤ a ∧ a < 0x0B0200 then
    let n := Fin.ofNat 16 ((a - 0x0B0100) / 16)
    if a % 16 = 8 then some (.lpeak n) else if a % 16 = 12 then some (.lipeak n) else none
  else if 0x0B0300 ≤ a ∧ a < 0x0B0400 ∧ a % 4 = 0 then some (.ppeak (Fin.ofNat 64 ((a - 0x0B0300) / 4)))
  else none

/-! ## Performance counters -/

def pmcPage : Nat := 0x0C0
/-- The events of R638, and those of them that are occupancies. -/
def pmcOccupancyEvent (e : Nat) : Bool := e == 0x23 || e == 0x24 || e == 0x28 || e == 0x32
def pmcEvent (e : Nat) : Bool :=
  (1 ≤ e && e ≤ 9) || (0x10 ≤ e && e ≤ 0x17) || (0x20 ≤ e && e ≤ 0x28) || (0x30 ≤ e && e ≤ 0x35) || e == 0x38

/-- A selection word that R633 and R638 admit. -/
def pmcSelOk (w : Word) : Bool :=
  pmcEvent (bits w 23 16) && bits w 27 26 != 3 && (bits w 27 26 == 0 || pmcOccupancyEvent (bits w 23 16))

/-- PAGE_STAT of page 0x0C0 follows RUN (R656), with the CAUSE of R153: 0x01 of a register write, 0x02 of a clap strobe. -/
def Device.pmcSync (d : Device) (cause who : Nat) : Device := d.syncState pmcPage (if d.pmcRun then 1 else 0) cause who

/-- Counter c's word: [31:0] or [47:32]. -/
def Device.pmcWord (d : Device) (c : Fin 64) (hi : Bool) : Word :=
  if hi then field 15 0 (d.pmc.ctr[c] / 4294967296) else BitVec.ofNat 32 d.pmc.ctr[c]

/-- The second counter of a chained pair whose first is c (R635, R636). -/
def Device.pmcChained (d : Device) (c : Fin 64) : Option (Fin 64) :=
  if h : c.val % 2 = 0 then
    let c2 : Fin 64 := ⟨c.val + 1, by have := c.isLt; omega⟩
    if bit (d.pmcSel c2) 30 then some c2 else none
  else none

/-- The read buffer of requester code who, changed. -/
def Device.pmcBuffer (d : Device) (who : Nat) (b : PmcBuf) : Device :=
  { d with pmc := { d.pmc with buf := d.pmc.buf.set (Fin.ofNat 16 who) (some b) } }

/-- A read of a counter word (R635): the word, and the device with its read buffer. -/
def Device.pmcRead (d : Device) (c : Fin 64) (hi : Bool) (who : Nat) : Word × Device :=
  let buffered : Option Word :=
    match d.pmc.buf[Fin.ofNat 16 who] with
    | none => none
    | some b =>
      if b.ctr = c.val then (if hi then some b.hi else none)
      else if b.ctr + 1 = c.val then b.pair.map fun p => if hi then p.2 else p.1
      else none
  match buffered with
  | some w => (w, d)
  | none =>
    if hi then (d.pmcWord c true, d)
    else
      let pair := (d.pmcChained c).map fun c2 => (d.pmcWord c2 false, d.pmcWord c2 true)
      (d.pmcWord c false, d.pmcBuffer who { ctr := c.val, hi := d.pmcWord c true, pair := pair })

/-- A write of mask m and data v to a counter word (R635). -/
def Device.pmcWrite (d : Device) (c : Fin 64) (hi : Bool) (m v : Word) : Device :=
  if bit (d.pmcSel c) 31 then d.setErr pmcPage (errBit 8)
  else
    let w := mergeWord (d.pmcWord c hi) v (if hi then m &&& 0xFFFF else m)
    let n := if hi then w.toNat * 4294967296 + d.pmc.ctr[c] % 4294967296 else d.pmc.ctr[c] / 4294967296 * 4294967296 + w.toNat
    { d with pmc := { d.pmc with ctr := d.pmc.ctr.set c n } }

/-- Counter c counts on from its last value (R636). -/
def Device.pmcWrap (d : Device) (c : Fin 64) : Device :=
  if d.pmcRun && bit (d.pmcSel c) 31 && decide (d.pmc.ctr[c] = 0xFFFFFFFFFFFF) then d.pmcAdd c 1 else d

/-- CLAP_START and CLAP_STOP at a capture strobe (R637). With both set the spec does not say what RUN becomes: a free value. -/
def Device.pmcStrobe (d : Device) : Device :=
  let w := d.reg 0x0C0040
  if bit w 1 && bit w 2 then
    let f := d.draw
    (f.2.setReg 0x0C0040 (setBits w 2 0 (bits f.1 0 0))).pmcSync 0x02 byHw
  else if bit w 1 then (d.setReg 0x0C0040 (setBits w 2 0 1)).pmcSync 0x02 byHw
  else if bit w 2 then (d.setReg 0x0C0040 (setBits w 2 0 0)).pmcSync 0x02 byHw
  else d

/-- Soft reset of page 0x0C0 (R656). -/
def Device.pmcSoftReset (d : Device) (who : Nat) : Device :=
  let d := d.setReg 0x0C0040 (setBit (d.reg 0x0C0040) 0 false)
  let d := (List.range 64).foldl (fun d i => d.setReg (0x0C0100 + 4 * i) 0) d
  let d : Device := { d with pmc := { d.pmc with ctr := Vector.replicate 64 0 } }
  d.pmcSync 0x01 who

end Sys2Proof.Machine
end

