-- ==== Sys2Proof/Machine/Sync.lean ====
section
/-! DEFINITION. Claps and the slate (R640 to R649), the time code and its discipline (R650 to R654), and the registers of page 0x0C4. -/

namespace Sys2Proof.Machine
open Sys2Proof

def synPage : Nat := 0x0C4
def Device.synCfg (d : Device) : Word := d.reg 0x0C4040
def Device.updSyn (d : Device) (f : Syn → Syn) : Device := { d with syn := f d.syn }

/-! ## The slate -/

/-- Word i of the slate that a capture strobe latches now (R646); words 0 and 1 are set at the commit. -/
def Device.slateWord (d : Device) (i : Nat) : Word :=
  if i < 2 then 0
  else if i = 2 then BitVec.ofNat 32 d.ts
  else if i = 3 then BitVec.ofNat 32 (d.ts / 4294967296)
  else if i = 4 then BitVec.ofNat 32 d.gau.acc
  else if i = 5 then field 15 0 (d.gau.acc / 4294967296)
  else if i = 6 then measWord0 d.hup.meas
  else if i = 7 then measWord1 d.hup.meas
  else if i < 136 then
    let v := d.pmc.ctr[Fin.ofNat 64 ((i - 8) / 2)]
    if i % 2 = 0 then BitVec.ofNat 32 v else field 15 0 (v / 4294967296)
  else if i < 200 then
    let n := Fin.ofNat 16 ((i - 136) / 4)
    let v := if (i - 136) % 4 < 2 then d.tlm.energy[n] else d.tlm.charge[n]
    if i % 2 = 0 then BitVec.ofNat 32 v else BitVec.ofNat 32 (v / 4294967296)
  else
    let v := d.tlm.phCharge[Fin.ofNat 64 ((i - 200) / 2)]
    if i % 2 = 0 then BitVec.ofNat 32 v else BitVec.ofNat 32 (v / 4294967296)

/-- The slate of a capture strobe. -/
def Device.slateNow (d : Device) : Vector Word 328 := Vector.ofFn fun i => d.slateWord i.val

/-- The bank b becomes visible with its first two words (R642, R643). -/
def Device.slateCommit (d : Device) (b : Vector Word 328) (w0 : Word) (fine : Nat) : Device :=
  d.updSyn fun x =>
    let n := (x.slates + 1) % 65536
    { x with slates := x.slates + 1, slate := Vector.ofFn fun i =>
        if i.val = 0 then w0 else if i.val = 1 then field 19 16 fine ||| field 15 0 n else b[i] }

/-- A local slate (R648). The spec states no FINE for it: a free value. -/
def Device.slateLocal (d : Device) : Device :=
  let f := d.draw
  (f.2.slateCommit d.slateNow 0xC0000000 (bits f.1 3 0)).raise 120 0x10000

/-- A SNAP that waited for the end of a frame (R648). -/
def Device.snapPending (d : Device) : Device :=
  if d.syn.snapWait then (d.updSyn fun x => { x with snapWait := false }).slateLocal else d

/-- SYN_CTL.SNAP (R648). -/
def Device.snap (d : Device) : Device :=
  if d.syn.rxBusy then d.updSyn fun x => { x with snapWait := true } else d.slateLocal

/-! ## Claps -/

/-- The rising edge that starts a clap frame (R642, R637). An edge within a frame is one of its cells. -/
def Device.clapEdge (d : Device) (fine : Nat) : Device :=
  if bit d.synCfg 31 && !d.syn.rxBusy then
    let b := d.slateNow
    let d := d.updSyn fun x => { x with rxBusy := true, fine := fine, hidden := some b }
    (d.dayDev fun y => { y with claps := satInc 0xFFFF y.claps }).pmcStrobe
  else d

/-- The frame proves valid (R642, R643). -/
def Device.clapCommit (d : Device) (num : BitVec 16) : Device :=
  match d.syn.hidden with
  | none => d
  | some b =>
    if d.syn.rxBusy then
      let gap := d.syn.slates != 0 && num.toNat != (d.syn.lastClap + 1) % 65536
      let d := d.slateCommit b (flag 31 true ||| flag 29 gap ||| field 15 0 num.toNat) d.syn.fine
      let d := d.updSyn fun x => { x with rxBusy := false, hidden := none, lastClap := num.toNat }
      ((d.raise 120 (field 15 0 num.toNat)).pmcCountAll 0x34 1).snapPending
    else d

/-- A code error (R641). -/
def Device.clapError (d : Device) : Device :=
  if bit d.synCfg 31 then
    let d := d.updSyn fun x => { x with rxBusy := false, hidden := none, codeErrs := satInc 255 x.codeErrs }
    ((d.setErr synPage (errBit 9)).pmcCountAll 0x35 1).snapPending
  else d

/-- A driven frame or its gap is in progress: 5.0 µs from its start (R640, R644). -/
def Device.txBusy (d : Device) : Bool :=
  match d.syn.txAt with
  | some t => decide (d.cycle < t + 625)
  | none => false

/-- A clap frame is driven (R644). -/
def Device.clapSend (d : Device) : Device :=
  let n := bits (d.reg 0x0C4048) 15 0
  let d := d.send (.clapFrame n)
  (d.setReg 0x0C4048 (BitVec.ofNat 32 ((n + 1) % 65536))).updSyn fun x => { x with txAt := some d.cycle }

/-- SYN_CTL.CLAP (R644). -/
def Device.clapDrive (d : Device) : Device :=
  if bit d.synCfg 30 then (if d.txBusy then d.setErr synPage (errBit 8) else d.clapSend) else d

/-- An AUTO clap falls due and finds no driven frame in progress (R644). -/
def Device.clapDue (d : Device) : Bool :=
  bit d.synCfg 30 && bit (d.reg 0x0C4044) 31 && d.tsReached (125 * bits (d.reg 0x0C4044) 19 0) && !d.txBusy

/-- An AUTO clap (R644). -/
def Device.clapAuto (d : Device) : Device := if d.clapDue then d.clapSend else d

/-! ## The time discipline -/

def DiscState.code : DiscState → Nat
  | .free => 0 | .acquire => 1 | .locked => 2 | .holdover => 3

def Device.discTo (d : Device) (st : DiscState) (cause : Nat) (who : Nat := byHw) : Device :=
  (d.updSyn fun x => { x with st := st, good := 0 }).transition synPage st.code cause who

/-- FREE and ACQUIRE follow TIME_RX and TIME_TX (R651). -/
def Device.discFollow (d : Device) (who : Nat) : Device :=
  let on := bit d.synCfg 29 && !bit d.synCfg 28
  if on && d.syn.st == .free then d.discTo .acquire 0x01 who
  else if !on && d.syn.st != .free then (d.updSyn fun x => { x with hold := 0, slew := 0 }).discTo .free 0x01 who
  else d

/-- A step by e (R652). -/
def Device.timeStep (d : Device) (e : Int) : Device :=
  let d : Device := if 0 < e then { d with ts := (d.ts + e.toNat) % 18446744073709551616 } else d
  let d := d.updSyn fun x => { x with hold := (-e).toNat, slew := 0 }
  d.dayDev fun y => { y with steps := satInc 255 y.steps }

/-- A slew by e (R653). -/
def Device.timeSlew (d : Device) (e : Int) : Device := d.updSyn fun x => { x with hold := 0, slew := e }

/-- The signed difference of two 64-bit timestamps. -/
def timeDiff (t cap : BitVec 64) : Int := (t - cap).toInt

/-- A valid time frame (R651). -/
def Device.timeFrame (d : Device) (t cap : BitVec 64) : Device :=
  let e := timeDiff t cap
  let d := d.updSyn fun x => { x with terr := clampI (-2147483648) 2147483647 e, frameAt := d.cycle }
  let near := decide (e.natAbs ≤ bits (d.reg 0x0C4050) 31 16)
  match d.syn.st with
  | .free => d
  | .acquire =>
    if near then
      let d := (d.timeSlew e).updSyn fun x => { x with good := x.good + 1 }
      if 3 ≤ d.syn.good then d.discTo .locked 0x12 else d
    else (d.timeStep e).updSyn fun x => { x with good := 0 }
  | .locked =>
    if near then d.timeSlew e
    else ((d.timeStep e).updSyn fun x => { x with tsteps := satInc 255 x.tsteps }).setErr synPage (errBit 11)
  | .holdover =>
    if near then (d.discTo .locked 0x12).timeSlew e else (d.discTo .acquire 0x11).timeStep e

/-- TPERIOD in timestamp counts. -/
def Device.timePeriod (d : Device) : Nat := 125000 * max 1 (bits (d.reg 0x0C4050) 15 0)

/-- LOCKED, and the latest valid frame lies 3 × TPERIOD back (R651). -/
def Device.framesMissing (d : Device) : Bool := d.syn.st == .locked && decide (d.syn.frameAt + 3 * d.timePeriod ≤ d.cycle)

/-- No valid frame for 3 × TPERIOD (R651). -/
def Device.timeHoldover (d : Device) : Device := if d.framesMissing then d.discTo .holdover 0x13 else d

/-- A time frame falls due (R654). -/
def Device.timeSend (d : Device) : Device := if bit d.synCfg 28 && d.tsReached d.timePeriod then d.send (.timeFrame d.ts) else d

/-- SYN_TS_LO is read (R613). -/
def Device.tsRead (d : Device) (who : Nat) : Word × Device :=
  (BitVec.ofNat 32 d.ts, d.updSyn fun x => { x with tsBuf := x.tsBuf.set (Fin.ofNat 16 who) (BitVec.ofNat 32 (d.ts / 4294967296)) })

/-! ## Registers -/

/-- PERIOD of SYN_CLAPGEN is written as the nearest limit. -/
def synClamp (o : Nat) (w : Word) : Word := if o = 0x044 then setBits w 19 0 (clampN 5 1000000 (bits w 19 0)) else w

/-- The RO words of page 0x0C4. -/
def Device.synView (d : Device) (o : Nat) (who : Nat) : Option Word :=
  let x := d.syn
  if o = 0x054 then some (field 31 16 x.lastClap ||| field 15 8 x.codeErrs ||| field 7 0 x.tsteps)
  else if o = 0x058 then some (BitVec.ofInt 32 x.terr)
  else if o = 0x064 then some x.tsBuf[Fin.ofNat 16 who]
  else if 0x100 ≤ o ∧ o < 0x620 then some x.slate[Fin.ofNat 328 ((o - 0x100) / 4)]
  else none

/-- Soft reset of page 0x0C4 (R656). -/
def Device.synSoftReset (d : Device) (who : Nat) : Device :=
  let d := d.updSyn fun x => { x with codeErrs := 0, tsteps := 0, hold := 0, slew := 0 }
  (if d.syn.st == .free then d else d.discTo .free 0x01 who).discFollow who

end Sys2Proof.Machine
end

