-- ==== Sys2Proof/Machine/Otp.lean ====
section
/-! DEFINITION. The OTP array (R657 to R665), generations (R666 to R668), scans (R660, R661), the programmer (R676 to R684) and reads
of physical words (R684). The loader is in Boot.lean, above the register map. -/

namespace Sys2Proof.Machine
open Sys2Proof

/-! ## The array -/

/-- What physical word i reads at M0 and at M1 (R659). -/
def OtpArray.atM0 (f : OtpArray) (i : Nat) : Word := (storeFind f.m0 i).getD 0
def OtpArray.atM1 (f : OtpArray) (i : Nat) : Word := (storeFind f.m1 i).getD 0

/-- A physical word is marginal (R659). -/
def OtpArray.marginal (f : OtpArray) (i : Nat) : Bool := f.atM0 i != f.atM1 i

/-- The normal read of physical word i: a bit of full margin reads 1, an unprogrammed one 0, a weak one what the free word says. -/
def OtpArray.normal (f : OtpArray) (free : Word) (i : Nat) : Word :=
  if f.atM0 i = f.atM1 i then f.atM1 i else f.atM1 i ||| (f.atM0 i &&& free)

/-- The value of logical word w: the OR of the normal reads of its copies (R658); the free words are drawn from number base on. -/
def OtpArray.value (f : OtpArray) (base w : Nat) : Word :=
  f.normal (Config.freeWord (base + w)) w ||| f.normal (Config.freeWord (base + 512 + w)) (512 + w)

/-- Programming adds bits: bit b of physical word i now holds some programming, and full margin when strong (R657). -/
def OtpArray.pulse (f : OtpArray) (i b : Nat) (strong : Bool) : OtpArray :=
  let m := BitVec.ofNat 32 (2 ^ b)
  { m0 := storeSet f.m0 i (f.atM0 i ||| m) 0
    m1 := if strong then storeSet f.m1 i (f.atM1 i ||| m) 0 else f.m1 }

/-- The free words of one pass over the array. -/
def Device.drawScan (d : Device) : Nat × Device := (d.freeCount, { d with freeCount := d.freeCount + 1024 })

/-- The logical words read in one pass, where they are not 0. -/
def OtpArray.values (f : OtpArray) (base : Nat) : Store :=
  (List.range 512).foldr (fun w s => let v := f.value base w; if v = 0 then s else (w, v) :: s) []

/-- A logical word of a pass. -/
def wordOf (v : Store) (w : Nat) : Word := (storeFind v w).getD 0

/-! ## Generations (R666 to R668) -/

/-- First logical word and size of generation g, 4 the factory generation (R662). -/
def genBase (g : Nat) : Nat := if g = 4 then 32 else 64 + 112 * g
def genSize (g : Nat) : Nat := if g = 4 then 32 else 112

/-- The bytes of n logical words from word w (R665). -/
def wordsBytes (v : Store) (w n : Nat) : List Byte := (List.range n).flatMap fun i => wordBytes (wordOf v (w + i))

/-- The records of a call sheet are well formed: fuel bounds their number (R668). -/
def recordsOk : Nat → List Word → Bool
  | _, [] => true
  | 0, _ => false
  | n + 1, h :: r =>
    if bits h 23 22 = 0 then
      match bits h 31 30 with
      | 0 => decide (bits h 29 24 + 1 ≤ r.length) && recordsOk n (r.drop (bits h 29 24 + 1))
      | 1 =>
        match r with
        | s :: _ :: t => bits s 31 16 == 0 && bits s 1 0 == 0 && recordsOk n t
        | _ => false
      | _ => false
    else false

/-- The record words of generation g. -/
def genRecords (v : Store) (g : Nat) : List Word :=
  (List.range (bits (wordOf v (genBase g)) 15 8)).map fun i => wordOf v (genBase g + 4 + i)

/-- The conditions of VALID beyond the seal (R667). -/
def genSound (v : Store) (g : Nat) : Bool :=
  let b := genBase g
  let w0 := wordOf v b
  let n := bits w0 15 8
  bits w0 31 24 == 0xCB && bits w0 23 16 == g && decide (n + bits w0 7 0 ≤ genSize g - 4) &&
  decide (crc32 (wordBytes w0 ++ wordBytes (wordOf v (b + 3)) ++ wordsBytes v (b + 4) n) = wordOf v (b + 1)) &&
  recordsOk 256 (genRecords v g)

/-- Seal bit of generation g in word 2 (R663). -/
def sealBit (g : Nat) : Nat := if g = 4 then 1 else 2 + g

/-- The state code of generation g (R667). -/
def genState (v : Store) (g : Nat) : Nat :=
  if bit (wordOf v 2) (sealBit g) then (if genSound v g then 2 else 3)
  else if (List.range (genSize g)).all fun i => wordOf v (genBase g + i) == 0 then 0 else 1

/-- The trim section is valid (R664). -/
def trimValid (v : Store) (trimSeal : Bool) : Bool := trimSeal && decide (crc32 (wordsBytes v 8 23) = wordOf v 31)

/-- The patch section of generation g (R671): none where LEN_PATCH is 0 or it is not valid. -/
def patchSection (v : Store) (g : Nat) : List Word :=
  let w0 := wordOf v (genBase g)
  (List.range (bits w0 7 0)).map fun i => wordOf v (genBase g + 4 + bits w0 15 8 + i)
def patchValid (v : Store) (g : Nat) : Bool :=
  match patchSection v g with
  | [] => true
  | c :: r =>
    decide (crc32 ((c :: r).flatMap wordBytes) = wordOf v (genBase g + 2)) && decide (bits c 7 0 ≤ 64) &&
    (2 * bits c 7 0 + bits c 23 8 == r.length)

/-- The newest valid customer generation, or the factory generation, by BOOT_MODE (R92). -/
def selectGen (v : Store) (customer : Bool) : Option Nat :=
  let l := if customer then [3, 2, 1, 0, 4] else [4]
  l.find? fun g => genState v g == 2

/-! ## The controller -/

def otpPage : Nat := 0x004
def Device.updOtp (d : Device) (f : Otp → Otp) : Device := { d with otp := f d.otp }
def Device.otpState (d : Device) (c : Nat) : Device := d.syncState otpPage c 0x02 byHw

/-- A pulse is in progress (R85). -/
def Device.otpPulsing (d : Device) : Bool :=
  match d.otp.run with
  | some r => r.pulsing
  | none => false

/-- The array serves an activity (R684). -/
def Device.otpBusy (d : Device) : Bool :=
  d.otp.scanning || d.otp.reading.isSome ||
  (match d.otp.run with
   | some r => r.started
   | none => false)

/-- THM_HOT.DIE_MAX in °C, rounded where the spec names no rounding. -/
def Device.dieMaxC (d : Device) : Int := roundOpen d.dieHot.1 16

/-- A scan starts (R660). -/
def Device.scanStart (d : Device) : Device :=
  (d.updOtp fun o => { o with scanning := true, scanDue := false, tScan := d.dieMaxC }).otpState 1

/-- The end of an operation (R683). -/
def Device.otpEnd (d : Device) (result : Nat) : Device :=
  let d := (d.updOtp fun o => { o with run := none, result := result }).raise 3 (BitVec.ofNat 32 result)
  (if result = 1 then d else d.setErr otpPage (errBit 9)).otpState 0

/-- The pulse targets of an operation, with the values of one pass (R677, R679). -/
def runTargets (f : OtpArray) (v : Store) (r : OtpRun) : List (Nat × Nat) :=
  match r.kind with
  | .program => ((List.range 32).filter fun b => bit r.data b && !bit (wordOf v r.word) b).flatMap fun b => [(r.word, b), (512 + r.word, b)]
  | .topup =>
    ((List.range 32).filter fun b => bit (f.atM0 r.word) b || bit (f.atM0 (512 + r.word)) b).flatMap fun b =>
      [(r.word, b), (512 + r.word, b)].filter fun t => !bit (f.atM1 t.1) t.2
  | .seal => [(2, 2 + r.gen), (514, 2 + r.gen)]
  | .blow => [(2, r.gen), (514, r.gen)]
  | .verify => []

/-- The result of an accepted operation that ends before any pulse: a failed check, a comparison, or nothing to program. -/
def earlyResult (v : Store) (r : OtpRun) (todo : List (Nat × Nat)) : Option Nat :=
  match r.kind with
  | .verify => some (if wordOf v r.word = r.data then 1 else 8)
  | .seal => if r.noChk || genSound v r.gen then none else some 7
  | _ => if todo.isEmpty then some 1 else none

/-- GENSTAT from the values of a pass. -/
def gensOf (v : Store) : Vector Nat 5 := Vector.ofFn fun g => genState v g.val

/-- A requested read starts on the free array (R684). -/
def Device.readStart (d : Device) (i : Nat) : Device := (d.updOtp fun o => { o with reading := some i, readDue := none }).otpState 5

/-- On the free array with no operation waiting, a scan that fell due starts, or else a requested read (R684). -/
def Device.otpIdle (d : Device) : Device :=
  match d.otp.scanDue, d.otp.readDue with
  | true, _ => d.scanStart
  | false, some i => d.readStart i
  | false, none => d.otpState 0

/-- An accepted operation starts on the free array (R677, R681). One that ends before any pulse leaves the array free again. -/
def Device.runStart (d : Device) (f : OtpArray) (r : OtpRun) : Device :=
  let b := d.drawScan
  let d := b.2
  let v := f.values b.1
  let todo := runTargets f v r
  let d := d.updOtp fun o => { o with pulses := 0, failBit := 0 }
  match earlyResult v r todo with
  | some c => (d.otpEnd c).otpIdle
  | none => (d.updOtp fun o => { o with run := some { r with started := true, todo := todo, tries := 0 } }).otpState 2

/-- The next activity on a free array (R684). -/
def Device.otpNext (d : Device) (f : OtpArray) : Device :=
  if d.otpBusy then d
  else
    match d.otp.run with
    | some r => d.runStart f r
    | none => d.otpIdle

/-- What follows a scan: an operation or a read requested during it starts when it ends (R684). -/
def Device.otpAfterScan (d : Device) (f : OtpArray) : Device :=
  match d.otp.run, d.otp.readDue with
  | none, some i => d.readStart i
  | _, _ => d.otpNext f

/-- A scan is requested (R660). -/
def Device.scanRequest (d : Device) (f : OtpArray) : Device := (d.updOtp fun o => { o with scanDue := true }).otpNext f

/-- DIE_MAX has moved by more than 30 °C while OTP_OK can be evaluated (R660, R661). -/
def Device.tempScan (d : Device) (f : OtpArray) : Device :=
  if d.dieVals.isSome && decide (480 < (d.dieHot.1 - 16 * d.otp.tScan).natAbs) && !d.otp.scanning then d.scanRequest f else d

/-- The words a drift is judged on: the control block, the trim section and the loaded generation (R661). -/
def Device.watchedWords (d : Device) : List Nat :=
  List.range 32 ++ (if d.boot.gen < 5 then (List.range (genSize d.boot.gen)).map (genBase d.boot.gen + ·) else [])

/-- Word w of the marginal map. -/
def OtpArray.margWord (f : OtpArray) (w : Nat) : Word :=
  (List.range 32).foldl (fun a b => a ||| flag b (f.marginal (32 * w + b))) 0

/-- The margins that a scan finds: OTP_MARGw, N_MARG, and an arrival for each newly marginal word (R660). -/
def Device.scanMargins (d : Device) (f : OtpArray) : Device :=
  let old := d.otp.marg
  let marg : Vector Word 32 := Vector.ofFn fun w => f.margWord w.val
  let found := (List.range 1024).filter f.marginal
  let d := d.updOtp fun o => { o with marg := marg, nMarg := min 255 found.length }
  (found.filter fun i => !bit old[Fin.ofNat 32 (i / 32)] (i % 32)).foldl
    (fun d i => (d.raise 4 (BitVec.ofNat 32 i)).setErr otpPage (errBit 11)) d

/-- The running scan after boot ends (R660, R661). -/
def Device.scanDone (d : Device) (f : OtpArray) : Device :=
  if d.otp.scanning then
    let b := d.drawScan
    let v := f.values b.1
    let d := b.2.scanMargins f
    let d := d.updOtp fun o => { o with scanning := false, gens := gensOf v }
    let d := if d.watchedWords.all fun w => wordOf v w == wordOf d.otp.bootVal w then d
      else (d.updOtp fun o => { o with drift := true }).setErr otpPage (errBit 10)
    d.otpAfterScan f
  else d

/-! ## The programmer -/

/-- An operation that R678 admits; the fuses are those sampled at boot (R663). -/
def Device.otpAdmits (d : Device) (k : OtpKind) (word gen b : Nat) : Bool :=
  let above (g : Nat) : Bool := decide (g < 4) && (List.range 4).all fun g2 => !d.otp.genSeal.getLsbD g2 || decide (g2 < g)
  match k with
  | .program => decide (64 ≤ word) && above ((word - 64) / 112)
  | .topup => word == 2 || decide (64 ≤ word)
  | .seal => above gen
  | .blow => (decide (2 ≤ b) && decide (b ≤ 5)) || b == 8 || b == 9
  | .verify => true

/-- The refusal of a write of OTP_PCTL with CFGERR (R676). -/
def Device.otpRefuse (d : Device) : Device := (d.updOtp fun o => { o with result := 6 }).setErr otpPage (errBit 8)

/-- An operation as accepted. -/
def newRun (k : OtpKind) (word gen : Nat) (data : Word) (noChk : Bool) : OtpRun :=
  { kind := k, word := word, gen := gen, data := data, noChk := noChk
    started := false, todo := [], tries := 0, pulsing := false, stop := false }

/-- A write of OTP_PCTL by the owner of resource 57 that names an operation (R676). -/
def Device.otpRequest (d : Device) (f : OtpArray) (k : OtpKind) (key : Nat) (noChk : Bool) : Device :=
  if key != 0x07B5 || d.otp.progLock then d.setErr otpPage errAccvio
  else
    let a := d.reg 0x00404C
    let b := bits a 20 16
    let gen := if k = .blow then b else bits a 26 24
    if d.otp.run.isSome || !d.otpAdmits k (bits a 8 0) (bits a 26 24) b then d.otpRefuse
    else (d.updOtp fun o => { o with run := some (newRun k (bits a 8 0) gen (d.reg 0x004050) noChk) }).otpNext f

/-- An operation ends early, after the pulse in progress (R682). -/
def Device.otpAbort (d : Device) (f : OtpArray) : Device :=
  match d.otp.run with
  | none => d
  | some r =>
    if r.pulsing then d.updOtp fun o => { o with run := some { r with stop := true } }
    else (d.otpEnd 5).otpNext f

/-- A pulse starts, while OTP_OK is 1 (R680). -/
def Device.pulseStart (d : Device) (f : OtpArray) (r : OtpRun) : Device :=
  if d.otpOk then (d.updOtp fun o => { o with run := some { r with pulsing := true }, pulses := satInc 0xFFFF o.pulses }).otpState 3
  else (d.otpEnd 3).otpNext f

/-- The supply start ends (R681). -/
def Device.supplyReady (d : Device) (f : OtpArray) (ok : Bool) : Device :=
  match d.otp.run with
  | none => d
  | some r =>
    if r.started && !r.pulsing then (if ok then d.pulseStart f r else (d.otpEnd 4).otpNext f) else d

/-- What follows a pulse whose copy has been read at M1 (R679, R680, R681, R682). -/
def Device.afterPulse (d : Device) (f : OtpArray) (r : OtpRun) (ok : Bool) : Device :=
  let d := d.otpState 4
  match r.todo with
  | [] => (d.otpEnd 1).otpNext f
  | (i, b) :: rest =>
    if r.stop || d.boot.request.isSome then (d.otpEnd 5).otpNext f
    else if bit (f.atM1 i) b then
      if rest.isEmpty then
        let d := d.otpEnd 1
        let s := d.drawScan
        let d := if r.kind = .seal then s.2.updOtp fun o => { o with gens := gensOf (f.values s.1) } else d
        d.otpNext f
      else if !ok then (d.otpEnd 4).otpNext f
      else d.pulseStart f { r with todo := rest, tries := 0 }
    else if max 1 (bits (d.reg 0x004048) 19 16) ≤ r.tries then
      ((d.updOtp fun o => { o with failBit := b }).otpEnd 2).otpNext f
    else if !ok then (d.otpEnd 4).otpNext f
    else d.pulseStart f r

/-- A pulse and its recovery end: the bit holds programming, and reads 1 at M1 as m1 says, or as it did before (R657, R679). -/
def Device.pulseDone (d : Device) (f : OtpArray) (m1 ok : Bool) : Device × OtpArray :=
  match d.otp.run with
  | none => (d, f)
  | some r =>
    if r.pulsing then
      match r.todo with
      | [] => (d, f)
      | (i, b) :: _ =>
        let f := f.pulse i b m1
        (d.afterPulse f { r with pulsing := false, tries := r.tries + 1 } ok, f)
    else (d, f)

/-- A pulse is cut (R85, R682): what the bit then holds is open. -/
def Device.pulseCut (d : Device) (f : OtpArray) : Device × OtpArray :=
  match d.otp.run with
  | none => (d, f)
  | some r =>
    match r.pulsing, r.todo with
    | true, (i, b) :: _ =>
      let w := d.draw
      (w.2, if bit w.1 0 then f.pulse i b (bit w.1 1) else f)
    | _, _ => (d, f)

/-- A write of OTP_RADDR requests a read (R684). -/
def Device.otpRead (d : Device) (f : OtpArray) (i : Nat) : Device := (d.updOtp fun o => { o with readDue := some i }).otpNext f

/-- The requested read completes (R684). -/
def Device.otpReadDone (d : Device) (f : OtpArray) : Device :=
  match d.otp.reading with
  | none => d
  | some i =>
    let w := d.draw
    (w.2.updOtp fun o => { o with reading := none, rNorm := f.normal w.1 i, rM0 := f.atM0 i, rM1 := f.atM1 i }).otpNext f

/-! ## Registers -/

/-- SUPPLY 3 is refused, and PW is written as the nearest limit. -/
def otpWriteOk (o : Nat) (w : Word) : Bool := if o = 0x048 then bits w 31 30 != 3 else true
def otpClamp (o : Nat) (w : Word) : Word := if o = 0x048 then setBits w 5 0 (clampN 2 50 (bits w 5 0)) else w

/-- The RO words of pages 0x004 and 0x005. -/
def Device.otpView (d : Device) (p o : Nat) : Option Word :=
  let x := d.otp
  if p = 0x004 then
    match o with
    | 0x040 => some (flag 31 x.drift ||| flag 30 x.scanning ||| field 23 16 (toField 8 x.tScan) ||| field 15 8 x.nMarg |||
        flag 7 x.jtagLock ||| flag 6 x.progLock)
    | 0x044 => some (field 18 16 d.boot.gen ||| field 14 12 x.gens[4] ||| field 11 9 x.gens[3] ||| field 8 6 x.gens[2] |||
        field 5 3 x.gens[1] ||| field 2 0 x.gens[0])
    | 0x058 => some (field 31 28 x.result ||| flag 27 x.run.isSome ||| field 20 16 x.failBit ||| field 15 0 x.pulses)
    | 0x060 => some x.rNorm
    | 0x064 => some x.rM0
    | 0x068 => some x.rM1
    | _ => none
  else if 0x040 ≤ o ∧ o < 0x0C0 then some x.marg[Fin.ofNat 32 ((o - 0x040) / 4)]
  else if o = 0x0C8 then some (field 31 28 x.rldResult ||| field 18 16 x.rldGen ||| field 15 0 x.rldWrites)
  else if o = 0x0CC then some (field 31 16 x.ldWrites ||| field 15 0 x.ldIgnored)
  else none

/-! ## The core's control page -/

/-- PAGE_STAT of page 0x006 (R687). -/
def Device.hkcCode (d : Device) : Nat := if d.boot.coreUp then 1 else if d.boot.coreRestarting then 3 else 0
def Device.hkcSync (d : Device) (cause : Nat) (who : Nat := byHw) : Device := d.syncState 0x006 d.hkcCode cause who

/-- The RO words of page 0x006. -/
def Device.hkcView (d : Device) (o : Nat) : Option Word :=
  let x := d.hkc
  if o = 0x044 then some (field 31 24 x.restarts ||| field 22 16 (x.cmp.toList.filter (·.isSome)).length ||| flag 9 x.dup |||
    flag 8 x.skipped ||| field 3 0 d.hkcCode)
  else if 0x100 ≤ o ∧ o < 0x300 then
    match x.cmp[Fin.ofNat 64 ((o - 0x100) / 8)] with
    | none => some 0
    | some (a, w) => some (if o % 8 = 0 then flag 31 true ||| field 16 0 a else w)
  else none

/-- The comparators of a valid patch section (R671, R672). -/
def patchComparators (s : List Word) : Vector (Option (Nat × Word)) 64 :=
  match s with
  | [] => Vector.replicate 64 none
  | c :: r => Vector.ofFn fun n =>
    if n.val < bits c 7 0 then some (bits (r.getD (2 * n.val) 0) 16 0, r.getD (2 * n.val + 1) 0) else none

/-- The code words of a valid patch section. -/
def patchCode (s : List Word) : List Word :=
  match s with
  | [] => []
  | c :: r => r.drop (2 * bits c 7 0)

/-- Two enabled comparators hold one address (R672). -/
def hasDup : List Nat → Bool
  | [] => false
  | a :: r => r.contains a || hasDup r

/-- What the core fetches from ROM byte address a (R672): the replacement of the lowest comparator, or none for the ROM's own word. -/
def Device.romReplacement (d : Device) (a : Nat) : Option Word :=
  (d.hkc.cmp.toList.findSome? fun c =>
    match c with
    | some (x, w) => if x = a then some w else none
    | none => none)

/-- The patch entries of a section are installed, with its code words (R672). -/
def Device.patchInstall (d : Device) (s : List Word) : Device :=
  let c := patchComparators s
  { d with hkc := { d.hkc with cmp := c, code := patchCode s, dup := hasDup (c.toList.filterMap fun x => x.map (·.1)) } }

end Sys2Proof.Machine
end

