-- ==== Sys2Proof/Machine/Contexts.lean ====
section
/-! DEFINITION. Requesters and privilege (R126 to R132), contexts and leases (R133 to R139), claims (R140 to R145), the end of a context
(R146 to R150), and the checks of a write (R130, R723). -/

namespace Sys2Proof.Machine
open Sys2Proof

/-! ## Requesters -/

/-- The privilege of a requester: none for code 0xF (R127, R128, R131). The core's accesses rank as administrator. -/
def Device.privOf (d : Device) : Requester → Option Priv
  | .ctx n => some d.ctx[n].priv
  | .jtag => some .admin
  | .core => some .admin
  | .anon => none

def Priv.rank : Priv → Nat
  | .observer => 0 | .operator => 1 | .admin => 2

/-- Requester r has at least privilege p. -/
def Device.hasPriv (d : Device) (r : Requester) (p : Priv) : Bool :=
  match d.privOf r with
  | some q => decide (p.rank ≤ q.rank)
  | none => false
def Device.isAdmin (d : Device) (r : Requester) : Bool := d.hasPriv r .admin

/-- Context n is OPEN and was opened through port p (R158). -/
def Device.openOn (d : Device) (n : Fin 8) (p : HostPort) : Bool := d.ctxOpen n && d.ctx[n].port == p

/-- The requester of an access (R158, R197). -/
def Device.requester (d : Device) : Source → Requester
  | .port p (some n) => if d.openOn n p then .ctx n else .anon
  | .port _ none => .anon
  | .jtag => .jtag
  | .core => .core

def Device.updCtx (d : Device) (n : Fin 8) (f : Ctx → Ctx) : Device := { d with ctx := upd d.ctx n f }

/-- An access attributed to an open context reloads its lease counter with LEASE_MS (R137). -/
def Device.renew (d : Device) (r : Requester) : Device :=
  match r with
  | .ctx n => d.updCtx n fun c => { c with loaded := c.leaseMs, renewed := d.cycle }
  | _ => d

/-- ADC cycles left of the lease of context n: a millisecond is 125,000 cycles. The counter holds what it was last reloaded with (R137). -/
def Device.leaseCycles (d : Device) (n : Fin 8) : Nat :=
  let c := d.ctx[n]
  if c.st == .opened then c.loaded * 125000 - (d.cycle - c.renewed) else 0

/-- REMAIN_MS of context n: milliseconds left before expiry. -/
def Device.leaseLeft (d : Device) (n : Fin 8) : Nat := (d.leaseCycles n + 124999) / 125000

/-- The lease of context n ran out 1 ms ago: it has expired by now (R138). -/
def Device.leaseOverdue (d : Device) (n : Fin 8) : Bool :=
  d.ctx[n].st == .opened && decide ((d.ctx[n].loaded + 1) * 125000 ≤ d.cycle - d.ctx[n].renewed)

/-! ## Pages and their owners -/

/-- The page whose claim covers page p (R131); none for a page without an ownership rule. -/
def ownerPage (p : Nat) : Option Nat :=
  if 0x010 ≤ p ∧ p ≤ 0x01F then some p
  else if 0x080 ≤ p ∧ p ≤ 0x09F then some p
  else if 0x054 ≤ p ∧ p ≤ 0x05C then some p
  else if p = 0x004 then some p
  else if (0x030 ≤ p ∧ p ≤ 0x037) ∨ p = 0x100 ∨ p = 0x101 then some 0x030
  else if p = 0x040 ∨ p = 0x041 then some 0x040
  else none

/-- The page whose PAGE_ERR records a refusal on page p: its own, or its block's for a table page (R112, R130, R602). -/
def errPage (p : Nat) : Nat :=
  if p = 0x100 ∨ p = 0x101 then 0x030
  else if p = 0x110 ∨ p = 0x111 then 0x0A0
  else if p = 0x120 then 0x060
  else if 0x200 ≤ p ∧ p ≤ 0x23F then 0x0B1
  else if p = 0x300 then 0x044
  else p

/-- The resource index of a claimable page (R140). -/
def resourceOf (p : Nat) : Option Nat :=
  if 0x010 ≤ p ∧ p ≤ 0x01F then some (p - 0x010)
  else if 0x080 ≤ p ∧ p ≤ 0x09F then some (p - 0x080 + 16)
  else if 0x054 ≤ p ∧ p ≤ 0x05B then some (p - 0x054 + 48)
  else if p = 0x004 then some 57
  else if p = 0x030 then some 58
  else if p = 0x040 then some 59
  else none

/-- The claimable pages in ascending resource index (R140). -/
def claimPages : List Nat :=
  (List.range 16).map (0x010 + ·) ++ (List.range 32).map (0x080 + ·) ++ (List.range 8).map (0x054 + ·) ++ [0x004, 0x030, 0x040]

def Device.ownerOf (d : Device) (p : Nat) : Option Requester := (d.head (pg p)).owner
def Device.ownedBy (d : Device) (p : Nat) (r : Requester) : Bool := d.ownerOf p == some r

/-- The ownership rule of page q, by its MODE (R120, R131). -/
def Device.mayOwn (d : Device) (q : Nat) (r : Requester) : Bool :=
  match (d.head (pg q)).mode with
  | .free => if q = 0x05C then r == .core else true
  | .shared => (match d.ownerOf q with | some o => o == r | none => true)
  | .exclusive => d.ownedBy q r

/-- The phase whose register lies at offset o of PHS page p (R236). -/
def phaseAt (p o : Nat) : Option (Fin 64) :=
  if 0x020 ≤ p ∧ p ≤ 0x027 ∧ 0x100 ≤ o ∧ o < 0x300 then some (Fin.ofNat 64 (8 * (p - 0x020) + (o - 0x100) / 0x40)) else none

/-- The target whose register lies at offset o of page 0x060 (R567). -/
def targetAt (p o : Nat) : Option (Fin 9) :=
  if p = 0x060 ∧ 0x100 ≤ o ∧ o < 0x220 then some (Fin.ofNat 9 ((o - 0x100) / 0x20)) else none

/-- The write passes the ownership check (R130, R131, R224, R544, R564). -/
def Device.ownCheck (d : Device) (r : Requester) (p o : Nat) : Bool :=
  if p = 0x05C then true
  else
    match phaseAt p o with
    | some k =>
      match d.phMap k with
      | some n => d.mayOwn (0x010 + n.val) r
      | none => true
    | none =>
      match ownerPage p with
      | some q => d.mayOwn q r
      | none => true

/-- A context, by its own number. -/
def isCtx (r : Requester) (n : Nat) : Bool :=
  match r with
  | .ctx m => m.val == n
  | _ => false

/-- The write passes the open-context and privilege checks (R128, R130, R131, R544, R564, R602). -/
def Device.privCheck (d : Device) (r : Requester) (p o : Nat) : Bool :=
  match r with
  | .anon => p == 0x001 && o == 0x040
  | _ =>
    if p = 0x003 then false
    else if p = 0x000 ∨ p = 0x002 ∨ (0x004 ≤ p ∧ p ≤ 0x006) ∨ p = 0x070 then d.isAdmin r
    else if p = 0x001 then
      if o = 0x040 then true
      else if o = 0x048 then (match r with | .ctx _ => true | _ => false)
      else if 0x080 ≤ o ∧ o < 0x100 ∧ o % 16 = 4 then isCtx r ((o - 0x080) / 16) || d.isAdmin r
      else d.isAdmin r
    else if 0x054 ≤ p ∧ p ≤ 0x05B then
      if o = 0x078 then r == .core else isCtx r (p - 0x054) || d.isAdmin r
    else if p = 0x05C then
      if o = 0x058 ∨ o = 0x060 ∨ o = 0x078 then r == .core else d.isAdmin r
    else if 0x060 ≤ p ∧ p ≤ 0x063 then
      match targetAt p o with
      | some t => if t.val = 8 then r == .core else isCtx r t.val || (d.isAdmin r && r != .core)
      | none => d.hasPriv r .operator
    else if 0x080 ≤ p ∧ p ≤ 0x09F then true
    else if p = 0x0A0 then (o = 0x040 ∨ o = 0x044) || d.isAdmin r
    else if p = 0x110 ∨ p = 0x111 then true
    else if p = 0x0C0 then
      d.hasPriv r .operator || (match r with | .ctx n => d.ctx[n].pmcUser | _ => false)
    else d.hasPriv r .operator

/-- PAGE_LOCK of page p holds (R123). -/
def Device.locked (d : Device) (p : Nat) : Bool := (d.head (pg p)).lockOtp || (d.head (pg p)).lockAdmin

/-- The first check of R130 that a write fails, as its bit of PAGE_ERR: open context, privilege, ownership, and then the lock, which
judges the RW-L bits rwl that the write reaches and would change (R17, R723). -/
def Device.writeCheck (d : Device) (r : Requester) (p o : Nat) (rwl old m v : Word) : Option Word :=
  if !d.privCheck r p o then some errAccvio
  else if !d.ownCheck r p o then some errOwnvio
  else if d.locked p && ((old ^^^ v) &&& m &&& rwl) != 0 then some errLockvio
  else none

/-! ## Disarming a watchdog -/

def wdtPage (k : Fin 9) : Nat := 0x054 + k.val
def Device.wd (d : Device) (k : Fin 9) : Wdt := d.wdt[k]
def Device.updWd (d : Device) (k : Fin 9) (f : Wdt → Wdt) : Device := { d with wdt := upd d.wdt k f }
def WdtState.code : WdtState → Nat
  | .disarmed => 0 | .run => 1 | .warn => 2 | .tripped => 3

/-- Instance k enters st (R531). -/
def Device.wdtTo (d : Device) (k : Fin 9) (st : WdtState) (cause : Nat) (who : Nat := byHw) : Device :=
  (d.updWd k fun x => { x with prev := x.st, st := st }).transition (wdtPage k) st.code cause who

/-- Instance k is disarmed (R535, R538): EXPREC and EXPCNT stay. -/
def Device.wdtDisarm (d : Device) (k : Fin 9) (cause : Nat) (who : Nat := byHw) : Device :=
  if (d.wd k).st == .disarmed then d else d.wdtTo k .disarmed cause who

/-! ## Release and expiry -/

/-- The safe values of loop n (R122): the set-point, slew, load-line and shedding fields and the ARM bit as writes of them (R319), the coefficients
and the period through the shadow bank. -/
def Device.safeLoop (d : Device) (n : Fin 16) : Device :=
  let a (o : Nat) : Nat := pageAddr (loopPage n) o
  let d := d.updLp n fun l => { l with safeWait := false }
  let d := d.putLoop n 0x040 (setBits (d.reg (a 0x040)) 1 0 (bits (d.safeWord (a 0x040)) 1 0))
  let d := [0x044, 0x048, 0x050, 0x054, 0x0E4, 0x060, 0x064, 0x068, 0x06C, 0x070].foldl
    (fun (d : Device) o => d.putLoop n o (d.safeWord (a o))) d
  let c := pageAddr cuePage 0x040
  let d := d.setReg c (setBit (d.reg c) (16 + n.val) (bit (d.safeWord c) (16 + n.val)))
  d.bankCommit n

/-- Lending, shedding or a cue profile of loop n is in progress (R150): a lend out of it runs or is on its way, one of its phases joins or drains,
or a HOLD runs. -/
def Device.loopBusy (d : Device) (n : Fin 16) : Bool :=
  d.shedHold n || (List.finRange 64).any fun k => (d.ph k).lendFrom == some n || ((d.ph k).lendReq && (d.ph k).own == some n)

/-- SAFE of loop n acts, or waits for what is in progress (R150). -/
def Device.safeLoopStart (d : Device) (n : Fin 16) : Device :=
  if d.loopBusy n then d.updLp n fun l => { l with safeWait := true } else d.safeLoop n

/-- The loops whose SAFE waited and that have settled. -/
def Device.safeSettle (d : Device) : Device :=
  foldFin 16 (fun (d : Device) n => if (d.lp n).safeWait && !d.loopBusy n then d.safeLoop n else d) d

/-- EXPIRY of page p is applied when its owner is lost (R121, R122, R150). -/
def Device.applyExpiry (d : Device) (p : Nat) (who : Nat) : Device :=
  match (d.head (pg p)).expiry with
  | .keep => d
  | .safe =>
    if h : 0x010 ≤ p ∧ p ≤ 0x01F then d.safeLoopStart ⟨p - 0x010, by omega⟩
    else if p = 0x030 then d.sceneRequest (bits (d.safeWord (pageAddr seqPage 0x040)) 10 8) 3 who true
    else if p = 0x040 then (d.updChg fun c => { c with safe := true, fallback := false }).rsvSync
    else d
  | .disarm => if h : 0x054 ≤ p ∧ p ≤ 0x05B then d.wdtDisarm ⟨p - 0x054, by omega⟩ 0x04 else d

/-- The owner of page p is removed (R145, R146); an operation of the programmer ends with its claim (R682). -/
def Device.disown (d : Device) (f : OtpArray) (p : Nat) : Device :=
  let d := d.updHdr (pg p) fun h => { h with owner := none }
  if p = 0x004 then d.otpAbort f else d

/-! ## Opening and ending -/

def PortIdx : HostPort → Fin 4
  | .pcie => 0 | .i3cA => 1 | .i3cB => 2 | .spi => 3

/-- Requester code field PORT. -/
def portCode (p : HostPort) : Nat := (PortIdx p).val

def privOfCode : Nat → Priv
  | 1 => .operator | 2 => .admin | _ => .observer

/-- Page 0x001 follows its contexts: it has no state code of its own. -/
def hcxPage : Nat := 0x001

/-- The result word of HCX_OPENRES. -/
def openWord (nonce c pr result : Nat) : Word := field 31 16 nonce ||| field 11 8 c ||| field 5 4 pr ||| field 2 0 result

/-- An open on port p (R132 to R136, R46, R97), with the event target of the context at reset (R148): the result is kept for the port; the context opened, if any. -/
def Device.ctxOpenOn (d : Device) (p : HostPort) (smbus : Bool) (nonce : BitVec 16) (want : Nat) : Device × Option (Fin 8) :=
  let i := PortIdx p
  let res (d : Device) (w : Word) : Device := { d with openRes := d.openRes.set i w }
  let pr := privOfCode want
  if d.boot.stage < 5 || d.boot.stage == 0xE then (res d (openWord nonce.toNat 0xF 0 5), none)
  else if d.boot.stage != 7 || !d.boot.coreUp then (res d (openWord nonce.toNat 0xF 0 4), none)
  else
    match (List.finRange 8).find? fun n => d.ctx[n].st == .free with
    | none => (res d (openWord nonce.toNat 0xF 0 3), none)
    | some n =>
      let ceil := bits (d.reg 0x001050) (2 * i.val + 1) (2 * i.val)
      let top := if (List.finRange 8).any fun m => d.ctxOpen m && d.ctx[m].priv == .admin then 1 else 2
      let g := min pr.rank (min ceil top)
      let d := d.updCtx n fun c => { c with
        st := .opened, nonce := nonce, port := p, priv := privOfCode g, pmcUser := false
        leaseMs := bits (d.reg 0x001054) 15 0, loaded := bits (d.reg 0x001054) 15 0, renewed := d.cycle, smbus := smbus }
      let d := d.tgReset ⟨n.val, by omega⟩
      let d := res d (openWord nonce.toNat n.val g (if g = pr.rank then 1 else 2))
      (d.raise 1 (field 9 8 g ||| field 7 4 (portCode p) ||| field 3 0 n.val), some n)

/-- FREEZE of a page set by context n clears (R117). -/
def Device.unfreeze (d : Device) (n : Fin 8) : Device :=
  { d with hdr := d.hdr.map fun h => if h.freezer == some (.ctx n) then { h with freezer := none, frozen := [], ctl := setBit h.ctl 2 false } else h }

/-- The end of context n with code e (R146): claims latched and held, EXPIRY, FREEZE, its event target, and its rings. -/
def Device.ctxEnd (d : Device) (f : OtpArray) (n : Fin 8) (e : Nat) : Device :=
  if !d.ctxOpen n then d
  else
    let me : Requester := .ctx n
    let d := d.updCtx n fun c => { c with st := .ending, endCode := e }
    let d : Device := { d with claims := { d.claims with reqs := d.claims.reqs.filter fun r => r.ctx != n } }
    let mine := claimPages.filter fun p => d.ownedBy p me
    let rings := (List.finRange 32).filter fun r => d.ownedBy (ringPage r) me || (d.rg r).xctx == n.val
    let d := mine.foldl (fun (d : Device) p => (d.disown f p).applyExpiry p byHw) d
    let d := d.unfreeze n
    let d : Device := { d with i3c := d.i3c.map fun x => { x with pmCtx := if x.pmCtx = some n then none else x.pmCtx } }
    let d := d.tgReset ⟨n.val, by omega⟩
    let d := rings.foldl (fun (d : Device) r => d.ringLease r n.val) d
    (d.raise 0 (field 7 4 e ||| field 3 0 n.val)).ibiSync

/-- The ring pauses of the ending context are complete (R146). -/
def Device.ctxQuarantine (d : Device) (n : Fin 8) : Device :=
  if d.ctx[n].st == .ending &&
      !(List.finRange 32).any (fun r => (d.rg r).lease && (d.rg r).st == .draining && ((d.rg r).leaseOf == n.val || (d.rg r).xctx == n.val))
    then d.updCtx n fun c => { c with st := .quarantine }
  else d

/-- 10 ms later (R146). -/
def Device.ctxFree (d : Device) (n : Fin 8) : Device :=
  if d.ctx[n].st == .quarantine then d.updCtx n fun c => { c with st := .free } else d

/-- A write of HCX_OPEN (R127, R133). -/
def Device.hcxOpen (d : Device) (src : Source) (w : Word) : Device :=
  match src with
  | .port p _ =>
    let sm := match p with
      | .i3cA => d.i3c[0].mode == .smbus
      | .i3cB => d.i3c[1].mode == .smbus
      | _ => false
    (d.ctxOpenOn p sm (BitVec.ofNat 16 (bits w 31 16)) (bits w 9 8)).1
  | _ => d.setErr hcxPage errAccvio

/-- A write of HCX_CLOSE (R135). -/
def Device.hcxClose (d : Device) (f : OtpArray) (r : Requester) (w : Word) : Device :=
  match r with
  | .ctx n => if bits w 15 0 = 0x5A5A then d.ctxEnd f n 2 else d.setErr hcxPage errAccvio
  | _ => d.setErr hcxPage errAccvio

/-- A write of HCX_EVICT (R135). DESIGN CHOICE: with the right key, a context number 8 to 15 or one that is not OPEN changes nothing and sets no
error. -/
def Device.hcxEvict (d : Device) (f : OtpArray) (r : Requester) (w : Word) : Device :=
  if d.isAdmin r && bits w 31 16 == 0xE71C then
    if h : bits w 3 0 < 8 then
      let n : Fin 8 := ⟨bits w 3 0, h⟩
      d.ctxEnd f n (if r = .ctx n then 2 else 3)
    else d
  else d.setErr hcxPage errAccvio

/-- A write of HCX_CTXn_LEASE (R137); the register keeps its word while the context is not open. -/
def Device.hcxLease (d : Device) (r : Requester) (n : Fin 8) (m v : Word) : Device :=
  let w := mergeWord (BitVec.ofNat 32 d.ctx[n].leaseMs) v m
  let d := d.updCtx n fun c => { c with leaseMs := clampN 1 60000 (bits w 15 0) }
  if r = .ctx n then d.renew r else d

/-- The lease of context n runs out (R138): only once its counter has. -/
def Device.leaseExpiry (d : Device) (f : OtpArray) (n : Fin 8) : Device := if d.leaseCycles n = 0 then d.ctxEnd f n 1 else d

/-! ## Claims -/

/-- The privilege needed to claim page p (R140). -/
def Device.mayClaim (d : Device) (p : Nat) (n : Fin 8) : Bool :=
  if 0x080 ≤ p ∧ p ≤ 0x09F then true
  else if 0x054 ≤ p ∧ p ≤ 0x05B then p - 0x054 == n.val || d.isAdmin (.ctx n)
  else if p = 0x004 then d.isAdmin (.ctx n)
  else d.hasPriv (.ctx n) .operator

/-- A write of 1 to CLAIMED of page p latches a request, which the next round judges (R141); a requester that cannot claim is refused at
once (R127). -/
def Device.claimRequest (d : Device) (r : Requester) (p : Nat) : Device :=
  match r with
  | .ctx n =>
    let q : ClaimReq := { page := pg p, ctx := n }
    if d.claims.reqs.contains q then d else { d with claims := { d.claims with reqs := d.claims.reqs ++ [q] } }
  | _ => d.setErr p errAccvio

/-- A latched request is refused: its page is not claimable, its MODE is FREE, or the context lacks the privilege of R140 (R142). -/
def Device.claimRefused (d : Device) (q : ClaimReq) : Bool :=
  (resourceOf q.page.val).isNone || (d.head q.page).mode == .free || !d.mayClaim q.page.val q.ctx

/-- A write of 1 to RELEASE of page p (R145). -/
def Device.claimRelease (d : Device) (r : Requester) (p : Nat) : Device :=
  if d.ownedBy p r && (resourceOf p).isSome then
    if d.claims.frees.contains (pg p) then d else { d with claims := { d.claims with frees := d.claims.frees ++ [pg p] } }
  else d.setErr p errOwnvio

/-- One page in a round: the requests of reqs for it win or lose (R142 to R144). -/
def Device.arbitratePage (reqs : List ClaimReq) (d : Device) (p : Nat) : Device :=
  let asks := (reqs.filter fun q => q.page == pg p).map (·.ctx)
  if asks.isEmpty then d
  else if (d.ownerOf p).isSome then (if asks.all fun n => d.ownedBy p (.ctx n) then d else d.setErr p errOwnvio)
  else
    match ((List.range 8).map fun i => Fin.ofNat 8 (d.claims.ptr + i)).find? fun n => asks.contains n with
    | none => d
    | some w =>
      let d := d.updHdr (pg p) fun h => { h with owner := some (.ctx w) }
      let d : Device := { d with claims := { d.claims with ptr := (w.val + 1) % 8 } }
      if asks.all fun n => n == w then d else d.setErr p errOwnvio

/-- One round of the claim arbiter: the releases first, then the refusals, then the resources in ascending index (R141 to R147). -/
def Device.claimRound (d : Device) (f : OtpArray) : Device :=
  let d := d.claims.frees.foldl (fun (d : Device) p => d.disown f p.val) d
  let bad := d.claims.reqs.filter d.claimRefused
  let good := d.claims.reqs.filter fun q => !d.claimRefused q
  let d := bad.foldl (fun (d : Device) q => d.setErr q.page.val errAccvio) d
  let d := claimPages.foldl (Device.arbitratePage good) d
  { d with claims := { d.claims with reqs := [], frees := [] } }

/-! ## PAGE_OWNER and PAGE_LOCK -/

def Expiry.code : Expiry → Nat
  | .keep => 0 | .safe => 1 | .disarm => 2
def OwnMode.code : OwnMode → Nat
  | .free => 0 | .shared => 1 | .exclusive => 2

/-- The stored EXPIRY of page p from a written code; 0b11 leaves it, and DISARM is read as KEEP outside the WDT pages (R120). -/
def expiryOf (p : Nat) (old : Expiry) : Nat → Expiry
  | 0 => .keep
  | 1 => .safe
  | 2 => if 0x054 ≤ p ∧ p ≤ 0x05C then .disarm else .keep
  | _ => old

/-- The stored MODE; rings are always EXCLUSIVE and WDT 8 is never claimable (R120, R131). -/
def modeOf (p : Nat) (old : OwnMode) (c : Nat) : OwnMode :=
  if (0x080 ≤ p ∧ p ≤ 0x09F) ∨ p = 0x05C then old
  else
    match c with
    | 0 => .free
    | 1 => .shared
    | 2 => .exclusive
    | _ => old

/-- A write of the policy (R120). -/
def Device.policyWrite (d : Device) (r : Requester) (p : Nat) (m v : Word) : Device :=
  let h := d.head (pg p)
  let old := field 15 14 h.expiry.code ||| field 13 12 h.mode.code
  let w := mergeWord old v m
  let e := expiryOf p h.expiry (bits w 15 14)
  let o := modeOf p h.mode (bits w 13 12)
  if e = h.expiry ∧ o = h.mode then d
  else if !d.isAdmin r then d.setErr p errAccvio
  else if !d.ownCheck r p 0x018 then d.setErr p errOwnvio
  else if d.locked p then d.setErr p errLockvio
  else d.updHdr (pg p) fun h => { h with expiry := e, mode := o }

/-- A write of PAGE_OWNER (R120, R141, R145). DESIGN CHOICE: one that carries both RELEASE and CLAIMED releases first, then claims. -/
def Device.ownerWrite (d : Device) (r : Requester) (p : Nat) (m v : Word) : Device :=
  let w := v &&& m
  if bit w 8 || bit w 10 then
    let d := if bit w 10 then d.claimRelease r p else d
    if bit w 8 then d.claimRequest r p else d
  else d.policyWrite r p m v

/-- A write of PAGE_LOCK (R124, R723). -/
def Device.lockWrite (d : Device) (r : Requester) (p : Nat) (m v : Word) : Device :=
  let h := d.head (pg p)
  let b := if bit m 0 then bit v 0 else h.lockAdmin
  if b = h.lockAdmin then d
  else if !d.isAdmin r then d.setErr p errAccvio
  else d.updHdr (pg p) fun h => { h with lockAdmin := b }

/-- PAGE_OWNER as requester r reads it. -/
def Device.ownerWord (d : Device) (p : Nat) (r : Requester) : Word :=
  let h := d.head (pg p)
  let pending := d.claims.reqs.any fun q => q.page == pg p && r == .ctx q.ctx
  field 15 14 h.expiry.code ||| field 13 12 h.mode.code ||| flag 11 pending |||
  (match h.owner with
   | some o => flag 9 (o != r && (resourceOf p).isSome) ||| flag 8 (resourceOf p).isSome ||| field 3 0 o.code
   | none => field 3 0 0xF)

/-! ## Views of page 0x001 -/

def CtxState.code : CtxState → Nat
  | .free => 0 | .opened => 1 | .ending => 2 | .quarantine => 3

/-- HCX_CTXn_STAT. -/
def Device.ctxStat (d : Device) (n : Fin 8) : Word :=
  let c := d.ctx[n]
  field 31 16 c.nonce.toNat ||| field 15 12 (portCode c.port) ||| field 11 10 c.priv.rank ||| flag 9 c.pmcUser |||
  field 7 4 c.endCode ||| field 2 0 c.st.code

/-- The claims of context n, resources 32 w to 32 w + 31. -/
def Device.claimMap (d : Device) (n : Fin 8) (w : Nat) : Word :=
  claimPages.foldl (fun (a : Word) p =>
    match resourceOf p with
    | some i => if i / 32 = w && d.ownedBy p (.ctx n) then a ||| flag (i % 32) true else a
    | none => a) 0

/-- The words of page 0x001 that are views. HCX_OPENRES is the reading port's own. -/
def Device.hcxView (d : Device) (o : Nat) (src : Source) : Option Word :=
  if o = 0x044 then
    match src with
    | .port p _ => some d.openRes[PortIdx p]
    | _ => some 0
  else if o = 0x060 then some (field 2 0 d.claims.ptr)
  else if 0x080 ≤ o ∧ o < 0x100 then
    let n := Fin.ofNat 8 ((o - 0x080) / 16)
    match o % 16 with
    | 0 => some (d.ctxStat n)
    | 4 => some (field 31 16 (d.leaseLeft n) ||| field 15 0 d.ctx[n].leaseMs)
    | 8 => some (d.claimMap n 0)
    | _ => some (d.claimMap n 1)
  else none

end Sys2Proof.Machine
end

