-- ==== Sys2Proof/Machine/Watchdog.lean ====
section
/-! DEFINITION. Watchdogs: windows (R520 to R527), challenge and token (R528 to R530), escalation (R531 to R536), arming (R537 to R540),
their registers (R542 to R544), and the restart of the core (R84, R534). -/

namespace Sys2Proof.Machine
open Sys2Proof

/-! ## The restart of the core -/

/-- The core restarts (R44, R84, R534, R563, R682): by watchdog 8 or by HKC_CTL. -/
def Device.coreRestart (d : Device) (f : OtpArray) (byWdt : Bool) (who : Nat) : Device :=
  if d.boot.coreUp || d.boot.coreRestarting then
    let d : Device := { d with
      boot := { d.boot with coreUp := false, coreRestarting := true }
      wdt := d.wdt.map fun x => { x with queue := [] }
      hkc := { d.hkc with restarts := satInc 255 d.hkc.restarts, code := [] } }
    let d := ((d.tgRelease 8).otpAbort f).raise 2 (flag 0 byWdt)
    (d.hkcSync (if byWdt then 0x05 else 0x01) who).evcSync
  else d

/-! ## Windows -/

def Device.wdtReg (d : Device) (k : Fin 9) (o : Nat) : Word := d.reg (pageAddr (wdtPage k) o)
def Wdt.close (x : Wdt) : Nat := max 1 (bits x.win 31 16)
def Wdt.openTick (x : Wdt) : Nat := bits x.win 15 0
def Wdt.tasks (x : Wdt) : BitVec 16 := BitVec.ofNat 16 (bits x.cfg 15 0)
def Wdt.chalEn (x : Wdt) : Bool := bit x.cfg 31
def WdtState.armed : WdtState → Bool
  | .run => true | .warn => true | _ => false

/-- Both requirements of the window are met (R522). -/
def Wdt.complete (x : Wdt) : Bool := (x.tasks &&& ~~~x.done) == 0 && (!x.chalEn || x.answered)
/-- Any check-in is the service (R522). -/
def Wdt.anyService (x : Wdt) : Bool := x.tasks == 0 && !x.chalEn

/-- The token of R529. -/
def wdtToken (chal seed : BitVec 16) (wcnt : Nat) : BitVec 16 :=
  let b (v : Nat) : List Byte := [BitVec.ofNat 8 (v / 256), BitVec.ofNat 8 v]
  crc16 (b chal.toNat ++ b seed.toNat ++ b wcnt)

/-- One step of the LFSR of x¹⁶ + x¹⁴ + x¹³ + x¹¹ + 1 (R528). DESIGN CHOICE: the spec gives the polynomial alone; this is its Fibonacci form, shifting
towards bit 0. -/
def lfsrNext (x : BitVec 16) : BitVec 16 :=
  let b := (x ^^^ (x >>> 2) ^^^ (x >>> 3) ^^^ (x >>> 5)) &&& 1
  (x >>> 1) ||| (b <<< 15)

/-- A new window with count wcnt at tick 0 (R523, R528, R540). With the queue empty the challenge is what the LFSR holds, which then steps:
DESIGN CHOICE. -/
def Device.wdtWindow (d : Device) (k : Fin 9) (wcnt : Nat) : Device :=
  let d := d.updWd k fun x => { x with
    tick := 0, served := false, wcnt := wcnt % 65536, done := 0, dup := false, answered := false, chal := 0
    win := d.wdtReg k 0x040, cfg := d.wdtReg k 0x044, seed := x.seedReg }
  let x := d.wd k
  if x.chalEn then
    match x.queue with
    | c :: r => d.updWd k fun x => { x with chal := c, queue := r }
    | [] => d.updWd k fun x => { x with chal := x.lfsr, lfsr := lfsrNext x.lfsr, fallback := true }
  else d

/-- The reset lines that tripped instances name (R533). -/
def Device.wdtLines (d : Device) : BitVec 32 :=
  (List.finRange 9).foldl (fun (a : BitVec 32) k => if k.val < 8 && (d.wd k).st == .tripped then a ||| d.wdtReg k 0x04C else a) 0
def Device.wdtLinesSync (d : Device) : Device := (d.withRso fun r => { r with wdt := d.wdtLines }).rsoSync

/-- WDTk_EXPCNT. -/
def Wdt.expcnt (x : Wdt) : Word := field 31 16 x.expWcnt ||| field 15 8 x.trips ||| field 7 0 x.warns

/-- Entry to TRIPPED (R533, R534). -/
def Device.wdtTrip (d : Device) (f : OtpArray) (k : Fin 9) : Device :=
  let d := (d.updWd k fun x => { x with trips := satInc 255 x.trips, hold := 0 }).wdtTo k .tripped 0x14
  let d := (d.setErr (wdtPage k) (errBit 11)).raise (17 + 2 * k.val) (d.wd k).expcnt
  if h : k.val < 8 then
    let rs := d.wdtReg k 0x048
    let d := d.wdtLinesSync
    let d := if bit rs 30 then d.ctxEnd f ⟨k.val, h⟩ 4 else d
    if bit rs 31 then d.requestReset (.wdt k) else d
  else d.coreRestart f true byHw

/-- The window expires (R524, R525, R532, R533). -/
def Device.wdtExpire (d : Device) (f : OtpArray) (k : Fin 9) (reason : Nat) : Device :=
  let x := d.wd k
  let r := field 31 28 reason ||| flag 27 (x.st == .warn) ||| field 15 0 (x.tasks &&& ~~~x.done).toNat
  let d := d.updWd k fun x => { x with exprec := r, expWcnt := x.wcnt }
  let d := if reason = 1 then d else d.setErr (wdtPage k) (errBit 9)
  let d := if reason = 4 ∨ reason = 5 then d.setErr (wdtPage k) (errBit 10) else d
  match x.st with
  | .run =>
    let d := (d.wdtTo k .warn (if reason = 1 then 0x12 else 0x13)).setErr (wdtPage k) (errBit 8)
    let d := (d.raise (16 + 2 * k.val) r).dayDev fun y => { y with warnings := satInc 0xFFFF y.warnings }
    d.wdtWindow k (x.wcnt + 1)
  | .warn => d.wdtTrip f k
  | _ => d

/-- The instance is armed (R537). -/
def Device.wdtArmNow (d : Device) (k : Fin 9) (cause who : Nat) : Device :=
  let d := (d.updWd k fun x => { x with armlatch := false }).wdtWindow k 0
  (d.wdtTo k .run cause who).aoWake false

/-- HOLD has elapsed (R531, R537): it is counted in ticks, so not while the AO domain is down (R48). -/
def Device.wdtHoldEnd (d : Device) (k : Fin 9) : Device :=
  let x := d.wd k
  if x.st == .tripped && k.val != 8 && d.boot.up.ao then
    let d := if bit (d.wdtReg k 0x044) 30 || x.armlatch then d.wdtArmNow k 0x16 byHw else d.wdtTo k .disarmed 0x16
    d.wdtLinesSync
  else d

/-- dt ticks pass: on an armed instance a served window ends with its tick (R523), and a window past CLOSE expires (R525); a tripped one
counts its HOLD as it stands (R531, R540). n bounds the ends of windows. -/
def Device.wdtRun (f : OtpArray) (k : Fin 9) : Nat → Device → Nat → Device
  | 0, d, _ => d
  | n + 1, d, dt =>
    let x := d.wd k
    if x.st.armed && d.boot.up.ao then
      if x.served && decide (0 < dt) then Device.wdtRun f k n (d.wdtWindow k (x.wcnt + 1)) (dt - 1)
      else if x.tick + dt ≤ x.close || x.served then d.updWd k fun x => { x with tick := x.tick + dt }
      else Device.wdtRun f k n ((d.updWd k fun x => { x with tick := x.close + 1 }).wdtExpire f k 1) (x.tick + dt - (x.close + 1))
    else if x.st == .tripped && k.val != 8 && d.boot.up.ao then
      let h := max 1 (bits (d.wdtReg k 0x048) 15 0)
      if x.hold + dt < h then d.updWd k fun x => { x with hold := x.hold + dt }
      else Device.wdtRun f k n (d.wdtHoldEnd k) (x.hold + dt - h)
    else d
def Device.wdtAdvance (d : Device) (f : OtpArray) (k : Fin 9) (dt : Nat) : Device := Device.wdtRun f k (2 * dt + 4) d dt

/-- The service of the window (R522 to R524, R532). -/
def Device.wdtService (d : Device) (f : OtpArray) (k : Fin 9) : Device :=
  let x := d.wd k
  match x.st with
  | .run =>
    if x.tick < x.openTick then d.wdtExpire f k 2 else d.updWd k fun x => { x with served := true }
  | .warn =>
    (d.updWd k fun x => { x with served := true, warns := satInc 255 x.warns }).wdtTo k .run 0x11
  | _ => d

/-- A check-in (R522, R524, R526). -/
def Device.wdtCheckin (d : Device) (f : OtpArray) (k : Fin 9) (task : BitVec 16) : Device :=
  let x := d.wd k
  if x.st.armed then
    if x.anyService then (if x.served then d.wdtExpire f k 3 else d.wdtService f k)
    else
      let t := task &&& x.tasks
      let was := x.complete
      let d := d.updWd k fun x => { x with done := x.done ||| t, dup := x.dup || (t &&& x.done) != 0 }
      if !was && (d.wd k).complete then d.wdtService f k else d
  else d

/-- An answer (R524, R530). -/
def Device.wdtAnswer (d : Device) (f : OtpArray) (k : Fin 9) (token : BitVec 16) : Device :=
  let x := d.wd k
  if x.st.armed && x.chalEn then
    if x.answered then d.wdtExpire f k 5
    else if token = wdtToken x.chal x.seed x.wcnt then
      let d := d.updWd k fun x => { x with answered := true }
      if (d.wd k).complete then d.wdtService f k else d
    else d.wdtExpire f k 4
  else d

/-! ## Arming -/

/-- A write of ARM (R537). -/
def Device.wdtArm (d : Device) (k : Fin 9) (who : Nat) : Device :=
  match (d.wd k).st with
  | .tripped => d.updWd k fun x => { x with armlatch := true }
  | .warn => d.setErr (wdtPage k) (errBit 12)
  | _ => d.wdtArmNow k 0x10 who

/-- A write of DISARM (R538). -/
def Device.wdtDisarmWrite (d : Device) (k : Fin 9) (key : Nat) (who : Nat) : Device :=
  if key != 0xD15A || d.locked (wdtPage k) then d.setErr (wdtPage k) errAccvio
  else if (d.wd k).st == .tripped then d
  else d.wdtDisarm k 0x15 who

/-- A write of CHALQ (R544). -/
def Device.wdtQueue (d : Device) (k : Fin 9) (c : BitVec 16) : Device :=
  d.updWd k fun x => if x.queue.length < 4 then { x with queue := x.queue ++ [c] } else x

/-- The core fills the queues (R44, R90). -/
def Device.wdtFill (d : Device) (chal : Vector (List (BitVec 16)) 9) : Device :=
  foldFin 9 (fun (d : Device) (k : Fin 9) => chal[k].foldl (fun (d : Device) x => d.wdtQueue k x) d) d

/-! ## Registers -/

/-- A write of OPEN above CLOSE is refused (R542). -/
def wdtWriteOk (o : Nat) (w : Word) : Bool := if o = 0x040 then decide (bits w 15 0 ≤ max 1 (bits w 31 16)) else true

/-- The RO words of a watchdog page. DESIGN CHOICE: while VAO is down TICK shows the count that its POR left, 0 (R25, R33, R84), and in DISARMED it
shows the count kept (R104). -/
def Device.wdtView (d : Device) (k : Fin 9) (o : Nat) : Option Word :=
  let x := d.wd k
  match o with
  | 0x05C => some (field 31 16 x.wcnt ||| field 15 0 x.chal.toNat)
  | 0x064 => some (field 31 16 x.tick ||| flag 15 x.dup ||| flag 14 x.answered ||| flag 13 x.fallback ||| field 12 10 x.queue.length |||
      flag 9 x.armlatch ||| field 7 4 x.prev.code ||| field 3 0 x.st.code)
  | 0x068 => some (field 15 0 x.done.toNat)
  | 0x06C => some x.exprec
  | 0x070 => some x.expcnt
  | _ => none

/-- A soft reset of a watchdog page (R542). -/
def Device.wdtSoftReset (d : Device) (k : Fin 9) : Device :=
  if (d.wd k).st == .disarmed then
    d.updWd k fun x => { x with exprec := 0, expWcnt := 0, trips := 0, warns := 0, fallback := false }
  else d.setErr (wdtPage k) (errBit 12)

end Sys2Proof.Machine
end

