-- ==== Sys2Proof/Machine/Views.lean ====
section
/-! DEFINITION. What a register access reads: the common header, the continuity records and the summary (R110 to R119, R152 to R156), the words
of every page, the hold of PAGE_CTL.FREEZE, and the reads that have an effect (R15, R137, R477, R613, R635). -/

namespace Sys2Proof.Machine
open Sys2Proof

/-! ## The words of the header -/

/-- PAGE_CAP of page p (R724 and the block chapters). -/
def capOf (p : Nat) : Word :=
  match blockOf p with
  | some .glb => 0x00000004
  | some .hcx => 0x00004008
  | some .clk => 0x00000608
  | some .cnt => 0x00000100
  | some .otp => if p = 0x004 then 0x00004004 else 0x00000020
  | some .hkc => 0x00000040
  | some .loop => 0x00000F30
  | some .phs => 0x00000308
  | some .seq => 0x00000880
  | some .sup => if p = 0x036 then 0x00000010 else 0x00000020
  | some .rso => 0x00000020
  | some .hup => 0x00000302
  | some .gau => 0x00000103
  | some .thm => 0x00000158
  | some .flt => 0x00000820
  | some .wdt => 0x00000110
  | some .evc => if p = 0x060 then 0x0001FF09 else 0x00000020
  | some .dma => 0x00000820
  | some .ring => 0x00000140
  | some .xlt => 0x00000800
  | some .tlm => if p = 0x0B0 then 0x00001308 else 0x00202000
  | some .pmc => 0x00000340
  | some .syn => 0x0000000F
  | some .cue => 0x00000310
  | _ => 0

/-- The event sources of page p (R566), lowest first. -/
def evtSources (p : Nat) : List Nat :=
  if p = 0x000 then [5]
  else if p = 0x001 then [0, 1]
  else if p = 0x004 then [3, 4]
  else if p = 0x006 then [2]
  else if 0x010 ≤ p ∧ p ≤ 0x01F then [48 + (p - 0x010), 64 + (p - 0x010), 80 + (p - 0x010), 96 + (p - 0x010)]
  else if 0x020 ≤ p ∧ p ≤ 0x027 then [112 + (p - 0x020)]
  else if p = 0x030 then [36, 37]
  else if p = 0x034 then [38]
  else if p = 0x037 then [39]
  else if p = 0x040 then [40, 41, 42, 43]
  else if p = 0x041 then [44, 45]
  else if p = 0x044 then [46, 47]
  else if p = 0x048 then [216, 217]
  else if p = 0x049 then [128, 129, 130, 131, 132, 133, 134, 135]
  else if p = 0x050 then [8, 9, 10]
  else if 0x054 ≤ p ∧ p ≤ 0x05C then [16 + 2 * (p - 0x054), 17 + 2 * (p - 0x054)]
  else if p = 0x060 then [6, 7]
  else if p = 0x070 then [126]
  else if 0x080 ≤ p ∧ p ≤ 0x09F then [224 + (p - 0x080)]
  else if p = 0x0A0 then [125]
  else if p = 0x0B0 then [121, 122]
  else if p = 0x0C0 then [123]
  else if p = 0x0C4 then [120]
  else if p = 0x0C8 then [124]
  else []

/-- PAGE_EVTk of page p. -/
def Device.pageEvt (d : Device) (p k : Nat) : Word :=
  match (evtSources p)[k]? with
  | some s =>
    let n := Fin.ofNat 256 s
    let e := d.evc.src[n]
    field 23 16 s ||| field 15 8 e.count ||| field 7 4 (d.srcPrio n) ||| flag 1 e.insvc ||| flag 0 e.pend
  | none => 0

/-- PAGE_STAT: no chapter gives a page an operation for BUSY. -/
def Device.pageStat (d : Device) (p : Nat) : Word :=
  flag 5 (decide (d.unmasked (pg p) ≠ 0)) ||| field 3 0 (d.head (pg p)).cur

/-- Header register at offset o of block page p (R116), as requester r reads it. -/
def Device.headerWord (d : Device) (p o : Nat) (r : Requester) : Word :=
  let h := d.head (pg p)
  match o with
  | 0x000 => (match pageRow p with
    | some (first, _, ty) => field 31 24 ty ||| field 23 16 (p - first) ||| 0x0101
    | none => 0)
  | 0x004 => capOf p
  | 0x008 => setBit h.ctl 1 h.srst
  | 0x00C => d.pageStat p
  | 0x010 => h.err
  | 0x014 => h.errMask
  | 0x018 => d.ownerWord p r
  | 0x01C => flag 1 h.lockOtp ||| flag 0 h.lockAdmin
  | _ => d.pageEvt p ((o - 0x020) / 4)

/-- The code of a page's owner. -/
def ownerCode (h : PageHdr) : Nat :=
  match h.owner with
  | some r => r.code
  | none => 0xF

/-- The continuity record of page p (R152). -/
def Device.contWord (d : Device) (p o : Nat) : Word :=
  let h := d.head (pg p)
  match o with
  | 0x7F0 => field 31 24 h.prev ||| field 23 16 h.cur ||| field 15 8 h.cause ||| field 7 4 h.byCode ||| field 3 0 (ownerCode h)
  | 0x7F4 => BitVec.ofNat 32 h.entry
  | 0x7F8 => field 31 16 h.count ||| field 15 0 (h.entry / 2 ^ 32)
  | _ => BitVec.ofNat 32 (min 0xFFFFFFFF (tisMicros d.ts h.entry))

/-- CNT_SUMp (R155, R722). -/
def Device.sumWord (d : Device) (p : Nat) : Word :=
  if isBlockPage p then
    let h := d.head (pg p)
    field 31 24 h.cur ||| field 19 16 (ownerCode h) ||| field 15 8 h.cause ||| d.tisField h.entry
  else 0x000F000F

/-! ## The block-specific words -/

/-- GLB_BOOT. BOOT_COUNT is held in the AO domain, and reads 0 while that is down (R25). -/
def Device.bootWord (d : Device) : Word :=
  let b := d.boot
  field 31 24 (if b.up.ao then d.ao.bootCount else 0) ||| flag 14 b.autoBlocked ||| flag 13 b.autoRun ||| flag 12 b.marginal |||
  flag 11 b.patchSkipped ||| flag 10 b.trimDefault ||| field 6 4 b.gen ||| field 3 0 b.stage

/-- MODE of GLB_HPORTA and GLB_HPORTB. -/
def PortMode.code : PortMode → Nat
  | .smbus => 0 | .i3c => 1 | .disabled => 2

/-- GLB_HPORTA (0) and GLB_HPORTB (1) with their RO fields. -/
def Device.hportWord (d : Device) (p : Fin 2) : Word :=
  let x := d.i3c[p]
  d.reg (0x000070 + 4 * p.val) |||
  (match x.dyn with
   | some a => flag 31 true ||| field 30 24 a.toNat
   | none => 0) ||| field 1 0 x.mode.code

/-- The views of page 0x000. -/
def Device.glbView (d : Device) (o : Nat) : Option Word :=
  match o with
  | 0x060 => some d.boot.straps
  | 0x064 => some (if d.boot.up.ao then d.ao.rstCause else 0)
  | 0x068 => some d.bootWord
  | 0x070 => some (d.hportWord 0)
  | 0x074 => some (d.hportWord 1)
  | _ => none

/-- The views of page 0x002 (R103). -/
def Device.clkView (d : Device) (o : Nat) : Option Word :=
  let b := d.boot
  match o with
  | 0x040 =>
    some (flag 31 b.pllLock ||| flag 30 (b.up.ao && d.ao.clkFail) ||| flag 29 b.up.pcie ||| flag 28 b.up.core ||| flag 27 b.up.ana |||
      flag 26 b.up.io ||| flag 25 b.up.hv ||| flag 24 b.up.ao ||| field 17 16 (b2n (b.up.ao && d.ao.active)) |||
      (if b.up.ao then flag 8 d.ao.trimmed ||| field 7 0 d.ao.rcTrim else 0))
  | 0x044 => some (field 15 0 b.xfreq)
  | 0x048 => some (field 31 24 b.aoLoss ||| field 23 16 b.pcieLoss ||| field 7 0 b.perst)
  | _ => none

/-- The views of page 0x003. -/
def Device.cntView (d : Device) (o : Nat) : Option Word :=
  if o = 0x040 then some d.cntSeq
  else if 0x100 ≤ o ∧ o < 0x500 then some (d.sumWord ((o - 0x100) / 4))
  else none

/-- PMC_OVF_LO and PMC_OVF_HI. -/
def Device.pmcView (d : Device) (o : Nat) : Option Word :=
  if o = 0x048 then some (d.pmc.ovf.setWidth 32)
  else if o = 0x04C then some ((d.pmc.ovf >>> 32).setWidth 32)
  else none

/-- The words at offset o of page p that are views of other state, as src reads them. -/
def Device.blockView (d : Device) (p o : Nat) (src : Source) : Option Word :=
  let who := (d.requester src).code
  match blockOf p with
  | some .glb => d.glbView o
  | some .hcx => d.hcxView o src
  | some .clk => d.clkView o
  | some .cnt => d.cntView o
  | some .otp => d.otpView p o
  | some .hkc => d.hkcView o
  | some .loop => d.lpView (Fin.ofNat 16 (p - 0x010)) o
  | some .phs =>
    if o = 0x040 then some (d.gState (p - 0x020))
    else match phaseAt p o with
      | some k => d.phView k ((o - 0x100) % 0x40)
      | none => none
  | some .seq => d.seqView p o
  | some .sup => d.seqView p o
  | some .rso => d.seqView p o
  | some .hup => d.hupView p o
  | some .gau => if d.boot.up.ao then d.gauView o else some 0
  | some .thm => d.thmView p o
  | some .flt => d.fltView o
  | some .wdt => d.wdtView (Fin.ofNat 9 (p - 0x054)) o
  | some .evc => d.evcView (p - 0x060) o
  | some .dma => d.dmaView p o who
  | some .ring => if 0x800 ≤ o then some (d.ramWord (pageAddr p o)) else d.dmaView p o who
  | some .xlt => d.dmaView p o who
  | some .tlm => d.tlmView p o
  | some .pmc => d.pmcView o
  | some .syn => d.synView o who
  | some .cue => none
  | some .shotTable => none
  | some .windowTable =>
    let e := 1024 * b2n d.dma.xlt.bank[Fin.ofNat 16 who] + (1024 * 4 * (p - 0x110) + o) / 8
    some (d.reg (xltAddr e (o / 4 % 2)))
  | some .sourceTable => d.srcView o
  | some .rushesTable => some (d.ramWord (pageAddr p o))
  | some .gaugeTable => if d.boot.up.ao then some (d.ramWord (pageAddr p o)) else some 0
  | none => none

/-- The live word at block-specific offset o of page p: a view, a stored register, or 0 (R9). -/
def Device.liveWord (d : Device) (p o : Nat) (src : Source) : Word :=
  match d.blockView p o src with
  | some w => w
  | none => if (regSpec (pageAddr p o)).isSome then d.reg (pageAddr p o) else 0

/-! ## FREEZE -/

/-- The bits of the word at offset o of page p that are not RO, and so stay live under FREEZE: the RW, RW-L, W1C and RC fields. -/
def liveMask (p o : Nat) : Word :=
  let stored := match regSpec (pageAddr p o) with
    | some r => r.rw ||| r.rwl ||| r.w1c
    | none => 0
  stored |||
  (match blockOf p with
   | some .glb => if o = 0x064 then 0x000001FF else 0
   | some .hcx => if 0x080 ≤ o ∧ o < 0x100 then (if o % 16 = 0 then 0x00000200 else if o % 16 = 4 then 0x0000FFFF else 0) else 0
   | some .loop => if o = 0x0D8 then 0xFFFFFFFF else 0
   | some .sup => if o % 8 = 4 then 0x000000C0 else 0
   | some .rso => if o = 0x040 then 0xFFFFFFFF else 0
   | some .flt => if o = 0x040 ∨ o = 0x044 then 0xFFFFFFFF else if o = 0x060 then 0x80000000 else 0
   | some .wdt => if o = 0x064 then 0x00002000 else 0
   | some .evc =>
     if p = 0x060 ∧ 0x100 ≤ o ∧ o < 0x220 then
       (if (o - 0x100) % 0x20 = 0x0C then 0x0000FFFF else if (o - 0x100) % 0x20 = 0x14 then 0x20000000 else 0) else 0
   | some .xlt => if o = 0x040 then 1 else 0
   | some .tlm => if (peakAt (pageAddr p o)).isSome then 0xFFFFFFFF else 0
   | some .pmc => if o = 0x048 ∨ o = 0x04C ∨ 0x200 ≤ o then 0xFFFFFFFF else 0
   | _ => 0)

/-- Where the held word of offset o is kept: words that differ by reader have a place for every reader. -/
def frozenKey (d : Device) (p o : Nat) (src : Source) : Nat :=
  if p = 0x001 ∧ o = 0x044 then
    (match src with
     | .port q _ => 0x1000 * (portCode q + 1) + o
     | _ => o)
  else if p = 0x0C4 ∧ o = 0x064 then 0x1000 * ((d.requester src).code + 1) + o
  else o

/-- The words that a write of FREEZE 1 holds. -/
def Device.snapshot (d : Device) (p : Nat) (src : Source) : Store :=
  let base := (List.range 492).foldl (fun (s : Store) i => storeSet s (0x040 + 4 * i) (d.liveWord p (0x040 + 4 * i) src) 0) []
  let base := if p = 0x0C4 then storeSet (storeSet base 0x060 (BitVec.ofNat 32 d.ts) 0) 0x064 (BitVec.ofNat 32 (d.ts / 2 ^ 32)) 0 else base
  if p = 0x001 then
    [HostPort.pcie, .i3cA, .i3cB, .spi].foldl (fun (s : Store) q => storeSet s (0x1000 * (portCode q + 1) + 0x044) d.openRes[PortIdx q] 0) base
  else if p = 0x0C4 then
    (List.finRange 16).foldl (fun (s : Store) w => storeSet s (0x1000 * (w.val + 1) + 0x064) d.syn.tsBuf[w] 0) base
  else base

/-- PAGE_CTL.FREEZE of page p. -/
def Device.isFrozen (d : Device) (p : Nat) : Bool := bit (d.head (pg p)).ctl 2

/-! ## A read -/

/-- The word at DW address a as src reads it, without the effects of the read. -/
def Device.peekWord (d : Device) (src : Source) (a : Nat) : Word :=
  let p := a / 0x1000
  let o := a % 0x1000
  if isBlockPage p then
    if o < 0x040 then d.headerWord p o (d.requester src)
    else if o < 0x7F0 then
      if d.isFrozen p then
        mergeWord ((storeFind (d.head (pg p)).frozen (frozenKey d p o src)).getD 0) (d.liveWord p o src) (liveMask p o)
      else d.liveWord p o src
    else if o < 0x800 then d.contWord p o
    else if 0x080 ≤ p ∧ p ≤ 0x09F then d.liveWord p o src
    else 0
  else d.liveWord p o src

/-- The counter word at address a of page 0x0C0. -/
def pmcCtrAt (a : Nat) : Option (Fin 64 × Bool) :=
  if 0x0C0200 ≤ a ∧ a < 0x0C0400 then some (Fin.ofNat 64 ((a - 0x0C0200) / 8), a / 4 % 2 == 1) else none

/-- The reads that R109 leaves without effect: continuity words, GLB_RSTCAUSE, GLB_BOOT, PAGE_STAT, PAGE_OWNER and the fault history. -/
def quietRead (p o : Nat) : Bool :=
  p == 0x003 || (isBlockPage p && (o == 0x00C || o == 0x018 || decide (0x7F0 ≤ o ∧ o < 0x800))) ||
  (p == 0x000 && (o == 0x064 || o == 0x068)) || (p == 0x050 && decide (0x400 ≤ o ∧ o < 0x600))

/-- A fabric access that reaches a GAU page wakes the AO domain (R106). -/
def Device.gauTouch (d : Device) (p : Nat) : Device :=
  if (p = 0x044 ∨ p = 0x300) ∧ d.boot.up.ao then d.gauAccess else d

/-- A port's access through src reaches the fabric: the lease of its context is renewed, one tier-1 beat is counted unless R109 forbids it,
and a GAU page wakes the AO domain (R106, R109, R137, R638). -/
def Device.accessed (d : Device) (src : Source) (p : Nat) (quiet : Bool := false) : Device :=
  let d := d.renew (d.requester src)
  (if quiet then d else d.pmcCountAll 0x20 1).gauTouch p

/-- A read of the word at DW address a: its value, and what the read does (R15, R477, R613, R635). -/
def Device.readPlain (d : Device) (src : Source) (a : Nat) : Word × Device :=
  let who := (d.requester src).code
  match peakAt a with
  | some k => d.peakRead k
  | none =>
    match pmcCtrAt a with
    | some (c, hi) => d.pmcRead c hi who
    | none =>
      if a = 0x0C4060 then
        let x := d.tsRead who
        (if d.isFrozen 0x0C4 then d.peekWord src a else x.1, x.2)
      else if a = 0x044050 then (d.peekWord src a, if d.boot.up.ao then d.gauAccRead else d)
      else (d.peekWord src a, d)

/-- A port's read of the word at DW address a. -/
def Device.readWord (d : Device) (src : Source) (a : Nat) : Word × Device :=
  (d.accessed src (a / 0x1000) (quietRead (a / 0x1000) (a % 0x1000))).readPlain src a

end Sys2Proof.Machine
end

