-- ==== Sys2Proof/Machine/Loader.lean ====
section
/-! DEFINITION. The loader: what a call-sheet write sets (R670), the records (R668, R669), the judgement at the end of loading (R670, R223,
R272), the safe-value store (R122), and the reload (R674, R675). -/

namespace Sys2Proof.Machine
open Sys2Proof

/-! ## Fields that are written as a limit -/

/-- The word w with every field that is "written as the nearest limit" limited, for offset o of page p. -/
def clampWord (p o : Nat) (w : Word) : Word :=
  match blockOf p with
  | some .loop => loopClamp o w
  | some .phs => if 0x100 ≤ o ∧ o < 0x300 ∧ o % 0x40 = 0x10 then setBits w 15 0 (clampN 2500 10000 (bits w 15 0)) else w
  | some .hup => hupClamp p o w
  | some .gau => gauClamp o w
  | some .ring => if o = 0x040 then ringClamp w else w
  | some .syn => synClamp o w
  | some .otp => if p = 0x004 then otpClamp o w else w
  | some .hcx => if o = 0x054 then setBits w 15 0 (clampN 1 60000 (bits w 15 0)) else w
  | _ => w

/-! ## One loader write -/

/-- Fields that a reload leaves alone (R674). -/
def reloadSkips (a : Nat) : Bool :=
  let p := a / 0x1000
  decide (0x004 ≤ p ∧ p ≤ 0x006) || decide (0x010 ≤ p ∧ p ≤ 0x027) || p == 0x0C8 || decide (0x100000 ≤ a ∧ a < 0x100400)

/-- The requester code under which the model keeps the loader's own aperture bank (R114): a code no requester uses. -/
def loaderCode : Nat := 0xC

/-- A loader write of a header register (R670): none where it holds no field that the loader sets. -/
def Device.loadHeader (d : Device) (reload : Bool) (p o : Nat) (w : Word) : Option Device :=
  match o with
  | 0x008 =>
    let d := d.updHdr (pg p) fun h => { h with ctl := setBits h.ctl 0 0 (bits w 0 0) }
    if bit w 2 then
      some (d.updHdr (pg p) fun h => { h with ctl := setBit h.ctl 2 true, frozen := d.snapshot p .core, freezer := none })
    else some (d.updHdr (pg p) fun h => { h with ctl := setBit h.ctl 2 false, frozen := [], freezer := none })
  | 0x014 => some (d.updHdr (pg p) fun h => { h with errMask := w &&& 0xFFFFFF0F })
  | 0x018 => some (d.updHdr (pg p) fun h => { h with
      expiry := expiryOf p h.expiry (bits w 15 14), mode := modeOf p h.mode (bits w 13 12) })
  | 0x01C => some (d.updHdr (pg p) fun h => { h with lockOtp := if reload then h.lockOtp else bit w 1, lockAdmin := bit w 0 })
  | _ => none

/-- A loader write of a RW field that has no stored register of its own: none where there is none. -/
def Device.loadField (d : Device) (p o : Nat) (w : Word) : Option Device :=
  let a := pageAddr p o
  match blockOf p with
  | some .hcx =>
    if 0x080 ≤ o ∧ o < 0x100 then
      let n := Fin.ofNat 8 ((o - 0x080) / 16)
      if o % 16 = 0 then some (d.updCtx n fun c => { c with pmcUser := bit w 9 })
      else if o % 16 = 4 then some (d.updCtx n fun c => { c with leaseMs := clampN 1 60000 (bits w 15 0) })
      else none
    else none
  | some .rso => if o = 0x040 then some (d.withRso fun r => { r with pol := w }) else none
  | some .evc =>
    if p = 0x060 ∧ 0x100 ≤ o ∧ o < 0x220 ∧ (o - 0x100) % 0x20 = 0x0C then
      some (d.updTg (Fin.ofNat 9 ((o - 0x100) / 0x20)) fun x => { x with rd := bits w 15 0 })
    else none
  | some .ring => if 0x800 ≤ o then some (d.ramPut a w) else none
  | some .xlt => if o = 0x040 then some (d.updXlt fun x => { x with bank := x.bank.set (Fin.ofNat 16 loaderCode) (bit w 0) }) else none
  | some .windowTable =>
    let e := 1024 * b2n d.dma.xlt.bank[Fin.ofNat 16 loaderCode] + (1024 * 4 * (p - 0x110) + o) / 8
    some (d.setReg (xltAddr e (o / 4 % 2)) w)
  | some .pmc =>
    match pmcCtrAt a with
    | some (c, hi) => some (d.pmcWrite c hi 0xFFFFFFFF w)
    | none => none
  | some .gaugeTable => if d.boot.up.ao then some (d.ramPut a w) else none
  | _ => none

/-- One loader write (R670): none where it is ignored. -/
def Device.loadWrite (d : Device) (reload : Bool) (a : Nat) (w : Word) : Option Device :=
  let p := a / 0x1000
  let o := a % 0x1000
  if reload && reloadSkips a then none
  else if isBlockPage p && decide (o < 0x040) then d.loadHeader reload p o w
  else if isBlockPage p && decide (0x7F0 ≤ o) && !(decide (0x080 ≤ p ∧ p ≤ 0x09F) && decide (0x800 ≤ o)) then none
  else
    match (if a = 0x037040 then none else regSpec a) with
    | some r =>
      let m := r.rw ||| r.rwl
      if m = 0 ∨ (p = 0x05C ∧ (o = 0x048 ∨ o = 0x04C)) ∨ (p = 0x044 ∧ !d.boot.up.ao) then none
      else some (d.setReg a (clampWord p o (mergeWord (d.reg a) w m)))
    | none => d.loadField p o w

/-- Writes performed and ignored so far, and the device they leave. -/
structure LoadRun where
  dev : Device
  done : Nat
  ignored : Nat
  deriving DecidableEq, Repr

/-- One more loader write, counted (OTP_LDSTAT). -/
def LoadRun.put (l : LoadRun) (reload : Bool) (a : Nat) (w : Word) : LoadRun :=
  match l.dev.loadWrite reload a w with
  | some d => { dev := d, done := l.done + 1, ignored := l.ignored }
  | none => { dev := l.dev, done := l.done, ignored := l.ignored + 1 }

/-- The records of a call sheet in word order (R668, R669); fuel bounds their number. -/
def loadRecords (reload : Bool) : Nat → List Word → LoadRun → LoadRun
  | 0, _, l => l
  | _, [], l => l
  | n + 1, h :: r, l =>
    let a := 4 * bits h 21 0
    let k := bits h 29 24 + 1
    if bits h 31 30 = 0 then
      loadRecords reload n (r.drop k) ((List.range k).foldl (fun (l : LoadRun) i => l.put reload (a + 4 * i) (r[i]?.getD 0)) l)
    else
      match r with
      | s :: w :: t => loadRecords reload n t ((List.range k).foldl (fun (l : LoadRun) i => l.put reload (a + bits s 15 0 * i) w) l)
      | _ => l

/-! ## The factory values -/

/-- Registers whose reset value is not the call sheet's, and the field RSV of HUP_RSV: the loader's first pass leaves them. -/
def sheetMask (a : Nat) (r : RegSpec) : Word :=
  let p := a / 0x1000
  if p = 0x060 ∨ p = 0x0C0 ∨ (0x004 ≤ p ∧ p ≤ 0x006) ∨ a = 0x04006C ∨ a = 0x041048 ∨ a = 0x044070 ∨ a = 0x037040 ∨ a = 0x037044 ∨ a = 0x0C4048 then 0
  else if 0x020 ≤ p ∧ p ≤ 0x027 ∧ a % 0x40 = 0x18 then 0
  else if a = 0x04005C then 0x0000FFFF
  else r.rw ||| r.rwl

/-- The device addresses of the registers of a row on page p. -/
def RegSpec.addrs (r : RegSpec) (p : Nat) : List Nat := (List.range r.count).map fun i => pageAddr p (r.off + r.stride * i)

/-- First pass of R669 over the stored registers. -/
def Device.factoryRegs (d : Device) (reload : Bool) : Device :=
  pageMap.foldl (fun (d : Device) row =>
    (List.range (row.2.1 + 1 - row.1)).foldl (fun (d : Device) i =>
      (blockRegs row.2.2.1 i).foldl (fun (d : Device) r =>
        (r.addrs (row.1 + i)).foldl (fun (d : Device) a =>
          let m := sheetMask a r
          if m = 0 ∨ (reload && reloadSkips a) ∨ (row.1 = 0x044 ∧ !d.boot.up.ao) then d
          else d.setReg a (mergeWord (d.reg a) (factoryWord a) m)) d) d) d) d

/-- PAGE_CTL.ENABLE after the factory generation (R125), for the pages whose ENABLE the call sheet gives. -/
def factoryEnable (p : Nat) : Bool := decide (0x010 ≤ p ∧ p ≤ 0x01F) || p == 0x060 || p == 0x070

/-- EXPIRY is KEEP everywhere; MODE after the factory generation (R125). -/
def factoryMode (p : Nat) : OwnMode :=
  if 0x080 ≤ p ∧ p ≤ 0x09F then .exclusive
  else if (0x010 ≤ p ∧ p ≤ 0x01F) ∨ (0x054 ≤ p ∧ p ≤ 0x05B) ∨ p = 0x004 ∨ p = 0x030 ∨ p = 0x040 then .shared
  else .free

/-- Pages whose PAGE_CTL.ENABLE is loaded from the call sheet (R125). -/
def sheetEnable (p : Nat) : Bool :=
  decide (0x010 ≤ p ∧ p ≤ 0x01F) || decide (0x080 ≤ p ∧ p ≤ 0x09F) || p == 0x030 || p == 0x040 || p == 0x041 || p == 0x060 || p == 0x070

/-- First pass of R669 over one header. -/
def factoryHdr (reload : Bool) (p : Nat) (h : PageHdr) : PageHdr :=
  if !isBlockPage p || (reload && reloadSkips (pageAddr p 0)) then h
  else { h with
    ctl := if sheetEnable p then setBit h.ctl 0 (factoryEnable p) else h.ctl
    expiry := .keep, mode := factoryMode p
    lockOtp := h.lockOtp && reload }

/-- Both passes of R669 for generation g of the values v. -/
def Device.loadSheet (d : Device) (reload : Bool) (v : Store) (g : Nat) : LoadRun :=
  let d := d.factoryRegs reload
  let d : Device := { d with hdr := mapFin d.hdr fun p h => factoryHdr reload p.val h }
  let win : Device := if reload then
      (List.range 4096).foldl (fun (d : Device) i => d.setReg (0x110000 + 4 * i) 0) d
    else d
  loadRecords reload 256 (genRecords v g) { dev := win, done := 0, ignored := 0 }

/-! ## The judgement at the end of loading -/

/-- Whether the word that loading left at offset o of page p is one that a write could have left there. -/
def Device.wordOk (d : Device) (p o : Nat) : Bool :=
  let w := d.reg (pageAddr p o)
  match blockOf p with
  | some .loop => d.loopWriteOk (Fin.ofNat 16 (p - 0x010)) o w
  | some .phs =>
    if o % 0x40 = 0x0C then decide (0 < bits w 19 10 ∧ bits w 19 10 ≤ bits w 9 0 ∧ bits w 9 0 ≤ bits w 29 20) else true
  | some .seq => if p = 0x030 ∧ 0x064 ≤ o ∧ o < 0x080 then sceneWriteOk ((o - 0x060) / 4) w else true
  | some .hup => d.hupWriteOk p o w
  | some .gau => gauWriteOk o w
  | some .thm => thmWriteOk p o w
  | some .wdt => wdtWriteOk o w
  | some .tlm => tlmWriteOk p o w
  | some .pmc => if 0x100 ≤ o ∧ w ≠ 0 then pmcSelOk w else true
  | some .otp => otpWriteOk o w
  | some .shotTable =>
    let i := Fin.ofNat 128 ((0x1000 * (p - 0x100) + o) / 0x40)
    if o % 0x40 = 0x04 then !([0, 8, 16, 24].any fun lo => bit w (lo + 7) && decide (95 < bits w (lo + 6) lo))
    else if o % 0x40 = 0x10 then !(isExt i && d.present i && !d.divOk i) else true
  | _ => true

/-- The error bit of a block's refusal rule: CFGERR, or MAPERR on a PHS page. -/
def cfgErr (p : Nat) : Word := if 0x054 ≤ p ∧ p ≤ 0x05C then errBit 12 else errBit 8

/-- The judgement of R670 over the stored registers. -/
def Device.judgeRegs (d : Device) (reload : Bool) : Device :=
  pageMap.foldl (fun (d : Device) row =>
    (List.range (row.2.1 + 1 - row.1)).foldl (fun (d : Device) i =>
      (blockRegs row.2.2.1 i).foldl (fun (d : Device) r =>
        (r.addrs (row.1 + i)).foldl (fun (d : Device) a =>
          if (reload && reloadSkips a) || d.wordOk (row.1 + i) (a % 0x1000) then d
          else d.setErr (errPage (row.1 + i)) (cfgErr (row.1 + i))) d) d) d) d

/-- The judgement of ENABLE and of the target rings. -/
def Device.judgeRings (d : Device) : Device :=
  let d := foldFin 32 (fun (d : Device) r =>
    if d.ringEnabled r && (d.rg r).st == .disabled && d.ringEnableBad r then d.setErr (ringPage r) (errBit 8) else d) d
  foldFin 9 (fun (d : Device) t =>
    let bad := d.tgEnabled t && !d.tgLoc t && (!isHost (d.tgBase t) || d.tgBase t % (16 * d.tgN t) != 0)
    if bad || decide ((d.tg t).held > d.tgN t) then d.setErr evcPage (errBit 8) else d) d

/-- The judgement of the phase maps (R223): a reserved loop is not taken, and a loop with more than 48 phases shows MAPERR. -/
def Device.judgeMaps (d : Device) : Device :=
  let d := foldFin 64 (fun (d : Device) k =>
    let l := bits (d.preg k 0x00) 4 0
    if 16 ≤ l ∧ l ≠ 0x1F then
      (d.setReg (phaseAddr k 0) (setBits (d.preg k 0x00) 4 0 0x1F)).setErr (0x020 + k.val / 8) (errBit 8)
    else d) d
  let crowded (k : Fin 64) : Bool :=
    match d.phMap k with
    | some n => d.phPop k && decide (48 < ((List.finRange 64).filter fun j => d.phPop j && d.phMap j == some n).length)
    | none => false
  foldFin 64 (fun (e : Device) k => if crowded k then e.setErr (0x020 + k.val / 8) (errBit 8) else e) d

/-! ## What loading leaves -/

/-- The words that the safe-value store keeps (R122). -/
def safeAddrs : List Nat :=
  (List.finRange 16).flatMap (fun n =>
    [0x040, 0x044, 0x048, 0x050, 0x054, 0x0E4, 0x060, 0x064, 0x068, 0x06C, 0x070].map fun o => pageAddr (loopPage n) o) ++
  [0x0C8040, 0x030040, 0x04104C]

/-- The safe-value store of a device. -/
def Device.safeStore (d : Device) : Store :=
  safeAddrs.foldl (fun (s : Store) a => storeSet s a (d.reg a) (resetWord a)) []

/-- The phases at the end of loading (R217, R223, PHSk_STAT). -/
def Device.loadPhases (d : Device) : Device :=
  foldFin 64 (fun (d : Device) k =>
    d.updPh k fun p => { p with
      own := d.phMap k, st := if d.phPop k then p.st else .unpop
      lLrn := bits (d.preg k 0x0C) 9 0 * 16 }) d

/-- Blocks follow the values that loading left, against the device before. -/
def Device.loadSync (d old : Device) : Device :=
  let d := (d.discFollow byHw).pmcSync 0x02 byHw
  let d := foldFin 8 (fun (d : Device) c => if old.schOn c && !d.schOn c then d.schStop c else d) d
  let d := (d.tlmSync 0x02 byHw).syncState rushPage d.rushCode 0x02 byHw
  let d := foldFin 256 (fun (d : Device) s => if d.srcWord s = old.srcWord s then d else d.srcWritten s byHw) d
  let d := (d.evcSync).ibiSync
  let d := d.applyForces old
  (d.wdtLinesSync).seqLinesSync

/-- ENABLE of pages 0x040 and 0x041 as loading left it. -/
def Device.loadEnables (d old : Device) : Device :=
  let on (e : Device) (p : Nat) : Bool := bit (e.head (pg p)).ctl 0
  let d := if on d 0x040 = on old 0x040 then d else d.hupEnable (on d 0x040) byHw
  let d := if on d 0x041 = on old 0x041 then d else d.chgEnable (on d 0x041) byHw
  foldFin 32 (fun (d : Device) r =>
    if d.ringEnabled r = old.ringEnabled r || (d.ringEnabled r && d.ringEnableBad r) then d
    else d.ringEnable r (d.ringEnabled r) 0xF) d

/-! ## The reload -/

/-- The reload of R674 with the straps as latched: performed now. -/
def Device.reloadNow (d : Device) (f : OtpArray) : Device :=
  let b := d.drawScan
  let v := f.values b.1
  let d := b.2
  match selectGen v (bits d.boot.straps 1 0 == 0) with
  | none => d.updOtp fun o => { o with reloadDue := false, rldResult := 3, rldGen := 7, rldWrites := 0 }
  | some g =>
    let old := d
    let l := d.loadSheet true v g
    let d := (l.dev.judgeRegs true).judgeRings
    let d := (d.loadEnables old).loadSync old
    let keep := old.sheet.filter fun x => decide (x.1 < 0x028000)
    let d : Device := { d with sheet := keep ++ d.regs.filter fun x => decide (0x028000 ≤ x.1) }
    d.updOtp fun o => { o with reloadDue := false, rldResult := 1, rldGen := g, rldWrites := l.done % 65536 }

/-- The reload that waits, once the array is free (R675). -/
def Device.reloadWaiting (d : Device) (f : OtpArray) : Device :=
  if d.otp.reloadDue && !d.otpBusy then
    (if d.seq.st == .idle then d.reloadNow f else d.updOtp fun o => { o with reloadDue := false, rldResult := 2 })
  else d

/-- A write of OTP_RELOAD by requester r (R674, R675). -/
def Device.otpReload (d : Device) (f : OtpArray) (w : Word) : Device :=
  if bits w 31 16 ≠ 0x5E7A then d.setErr 0x005 errAccvio
  else if d.seq.st != .idle then d.updOtp fun o => { o with rldResult := 2 }
  else (d.updOtp fun o => { o with reloadDue := true }).reloadWaiting f

end Sys2Proof.Machine
end

