-- ==== Sys2Proof/Machine/Bus.lean ====
section
/-! DEFINITION. A register write: the checks of R130, and what a write does on every page (R117, R120, R124, R145, and the registers of the
block chapters). -/

namespace Sys2Proof.Machine
open Sys2Proof

/-- What a write depends on and the device does not hold: the place in time of a cue (R275), the sensed voltage in µV and the samples of a loop
(R347), what the detectors of a phase see (R230), PACK_DET high (R473), and the ticks since the last command of a watchdog. A write that does
not name them takes what the device last saw. -/
structure WriteInfo where
  timing : Option CueTiming := none
  fltSense : Option (Nat × LoopSamples) := none
  seen : Option FailSeen := none
  packDet : Option Bool := none
  dt : Nat := 0
  deriving DecidableEq, Repr

/-! ## Stored registers -/

/-- The RW and RW-L bits of the stored register at address a. -/
def storedMask (a : Nat) : Word :=
  match regSpec a with
  | some r => r.rw ||| r.rwl
  | none => 0

/-- The RW-L bits of the stored register at address a. -/
def lockedMask (a : Nat) : Word :=
  match regSpec a with
  | some r => r.rwl
  | none => 0

/-- The word that the register at address a holds: RSO_POL is the retention cell of R58. -/
def Device.heldWord (d : Device) (a : Nat) : Word := if a = 0x037040 then d.rso.pol else d.reg a

/-- The word that a write of v to the bits m leaves in the stored register at offset o of page p, with its limits (R8). -/
def Device.newWord (d : Device) (p o : Nat) (m v : Word) : Word :=
  let a := pageAddr p o
  clampWord p o (mergeWord (d.heldWord a) v (m &&& storedMask a))

/-- The write of a stored register that its block's rule accepts as ok; refused with the error bit e otherwise. -/
def Device.putIf (d : Device) (ok : Bool) (e : Word) (p o : Nat) (m v : Word) : Device :=
  if ok then d.setReg (pageAddr p o) (d.newWord p o m v) else d.setErr (errPage p) e

/-! ## The common header -/

/-- The stored registers of phase k return to their call-sheet words; TRIM of PHSk_IMONCAL stays (R93). -/
def Device.phaseReload (d : Device) (k : Fin 64) : Device :=
  [0x00, 0x04, 0x08, 0x0C, 0x10, 0x14, 0x18].foldl (fun (d : Device) o =>
    let a := phaseAddr k o
    let w := (storeFind d.sheet a).getD (resetWord a)
    d.setReg a (if o = 0x10 then setBits w 31 24 (bits (d.reg a) 31 24) else w)) d

/-- The soft reset of one phase (R217, R230, R238): FAILED is left for OFF, POP decides between OFF and UNPOP, and a stage fault that is still
present fails the phase again. -/
def Device.phaseSoftReset (d : Device) (k : Fin 64) (who : Nat) : Device :=
  let was := (d.ph k).st
  let d := d.phaseReload k
  let d := if was == .failed then d.phaseTo k .off 0x01 who else d
  let d := match d.phPop k, (d.ph k).st with
    | true, .unpop => d.phaseTo k .off 0x01 who
    | false, .off => d.phaseTo k .unpop 0x01 who
    | _, _ => d
  let d := (d.takeOwn k).updPh k fun p => { p with lLrn := bits (d.preg k 0x0C) 9 0 * 16, mapHeld := false }
  if (d.ph k).tmonHigh && was == .failed && (d.ph k).st != .unpop then d.phaseFail k 4 0x19 else d

/-- The soft reset of a PHS page (R238). -/
def Device.phsSoftReset (d : Device) (g : Nat) (who : Nat) : Device :=
  let ks := (List.finRange 64).filter fun k => k.val / 8 == g
  if ks.all fun k => (d.ph k).st == .unpop || (d.ph k).st == .off || (d.ph k).st == .failed then
    ks.foldl (fun (d : Device) k => d.phaseSoftReset k who) d
  else d.setErr (0x020 + g) (errBit 9)

/-- The call-sheet words of the stored registers of page p return. -/
def Device.reloadPage (d : Device) (p : Nat) : Device :=
  match blockOf p with
  | some b => (blockRegs b (pageInst p)).foldl (fun (d : Device) r =>
      (r.addrs p).foldl (fun (d : Device) a => d.setReg a ((storeFind d.sheet a).getD (resetWord a))) d) d
  | none => d

/-- The soft reset of page 0x040 or 0x041 (R436). -/
def Device.hupSoftReset (d : Device) (p : Nat) : Device :=
  if p = hupPage then
    if d.hup.st == .nopack || d.hup.st == .inhibit then
      let d := d.reloadPage p
      (d.updHup fun h => { h with convFault := false, convAck := false, sagNoho := false }).rsvSync
    else d.setErr p (errBit 14)
  else if d.chg.st == .off || d.chg.st == .suspend || d.chg.st == .done || d.chg.st == .fault then
    let d := d.reloadPage p
    d.updChg fun c => { c with latched := false, fallback := false, safe := false }
  else d.setErr p (errBit 11)

/-- A write of 1 to PAGE_CTL.SRST of page p by requester code who (R84). -/
def Device.softReset (d : Device) (p : Nat) (who : Nat) : Device :=
  match blockOf p with
  | some .loop =>
    let n := Fin.ofNat 16 (p - 0x010)
    (d.loopSoftReset n (d.otActive n) (d.extActive n)).crowbarsHeard d
  | some .phs => d.phsSoftReset (p - 0x020) who
  | some .seq => if p = 0x030 then d.seqSoftReset else d.setErr p (errBit 8)
  | some .sup => foldFin 96 (fun (d : Device) j =>
      if 16 ≤ j.val ∧ (j.val - 16) / 32 = p - 0x034 then d.updEn (railEntry j) fun e => { e with wrnOv := false, wrnUv := false } else d) d
  | some .rso => (d.setReg 0x037044 0).rsoSync
  | some .hup => d.hupSoftReset p
  | some .gau => d.gauSoftReset
  | some .thm => d.thmSoftReset who
  | some .flt => d.fltSoftReset
  | some .wdt => d.wdtSoftReset (Fin.ofNat 9 (p - 0x054))
  | some .evc => if p = 0x060 then d.evcSoftReset who else d
  | some .ring => d.ringSoftReset (Fin.ofNat 32 (p - 0x080)) who
  | some .xlt => d.xltSoftReset
  | some .tlm => if p = 0x0B0 then d.tlmSoftReset who else d.rushSoftReset who
  | some .pmc => d.pmcSoftReset who
  | some .syn => d.synSoftReset who
  | some .cue => (d.setReg cueStatAddr 0).setReg cueLastAddr 0
  | some .clk => { d with boot := { d.boot with aoLoss := 0, pcieLoss := 0, perst := 0 } }
  | some .otp => d.setErr p (errBit 8)
  | some .hkc => d.setErr p (errBit 8)
  | _ => d

/-- A write of PAGE_CTL.ENABLE of page p: none where the device refuses it (R287, R436, R591, R595). -/
def Device.enableWrite (d : Device) (p : Nat) (on : Bool) (who : Nat) : Device :=
  let keep (d : Device) : Device := d.updHdr (pg p) fun h => { h with ctl := setBit h.ctl 0 on }
  if on = bit (d.head (pg p)).ctl 0 then (if p = 0x040 then d.hupEnable on who else d)
  else
    match blockOf p with
    | some .loop =>
      let n := Fin.ofNat 16 (p - 0x010)
      if !on && (d.lp n).st != .off && (d.lp n).st != .faulted then d.setErr p (errBit 8) else keep d
    | some .hup => if p = hupPage then (keep d).hupEnable on who else (keep d).chgEnable on who
    | some .ring =>
      let r := Fin.ofNat 32 (p - 0x080)
      if on && d.ringEnableBad r then d.setErr p (errBit 8) else (keep d).ringEnable r on who
    | _ => keep d

/-- A write of PAGE_CTL.FREEZE of page p (R117): a page already frozen keeps the values it holds. -/
def Device.freezeWrite (d : Device) (src : Source) (p : Nat) (on : Bool) : Device :=
  if on = d.isFrozen p then d
  else if on then
    let held := d.snapshot p src
    let r := d.requester src
    d.updHdr (pg p) fun h => { h with ctl := setBit h.ctl 2 true, frozen := held, freezer := some r }
  else d.updHdr (pg p) fun h => { h with ctl := setBit h.ctl 2 false, frozen := [], freezer := none }

/-- A write of PAGE_CTL: ENABLE, then FREEZE, then SRST. -/
def Device.ctlWrite (d : Device) (src : Source) (p : Nat) (m v : Word) : Device :=
  let who := (d.requester src).code
  if !bit m 0 then d
  else
    let d := d.enableWrite p (bit v 0) who
    let d := d.freezeWrite src p (bit v 2)
    if bit v 1 then d.softReset p who else d

/-- A write of a header register of page p (R116 to R124). -/
def Device.headerWrite (d : Device) (src : Source) (p o : Nat) (m v : Word) : Device :=
  let r := d.requester src
  let h := d.head (pg p)
  let anon := r == .anon || p == 0x003
  match o with
  | 0x018 =>
    if anon then d.setErr p errAccvio
    else d.ownerWrite r p m v
  | 0x01C =>
    let changes := bit m 0 && bit v 0 != h.lockAdmin
    if !d.privCheck r p o || (changes && !d.isAdmin r) then d.setErr p errAccvio
    else if !d.ownCheck r p o then d.setErr p errOwnvio
    else d.lockWrite r p m v
  | _ =>
    match d.writeCheck r p o 0 0 m v with
    | some e => d.setErr p e
    | none =>
      match o with
      | 0x008 => d.ctlWrite src p m v
      | 0x010 => d.updHdr (pg p) fun h => { h with err := h.err &&& ~~~(v &&& m) }
      | 0x014 => d.updHdr (pg p) fun h => { h with errMask := mergeWord h.errMask v (m &&& 0xFFFFFF0F) }
      | _ => d

/-! ## The block pages -/

/-- GLB: GLB_RSTCAUSE (R88), GLB_DEVRST (R89) and the port registers. -/
def Device.glbWrite (d : Device) (o : Nat) (m v : Word) : Device :=
  if o = 0x064 then
    if d.boot.up.ao then
      let w := d.ao.rstCause &&& ~~~(v &&& m &&& 0x1FF)
      { d with ao := { d.ao with rstCause := if bits w 8 0 = 0 then setBits w 31 28 0 else w } }
    else d
  else if o = 0x06C then
    if bits (v &&& m) 15 0 = 0xA5C3 then d.requestReset .sw else d.setErr 0x000 errAccvio
  else d.putIf true 0 0x000 o m v

/-- HCX: the open, close and evict commands, the ceilings and leases. -/
def Device.hcxWrite (d : Device) (f : OtpArray) (src : Source) (o : Nat) (m v : Word) : Device :=
  let r := d.requester src
  let w := v &&& m
  if o = 0x040 then d.hcxOpen src w
  else if o = 0x048 then d.hcxClose f r w
  else if o = 0x04C then d.hcxEvict f r w
  else if 0x080 ≤ o ∧ o < 0x100 then
    let n := Fin.ofNat 8 ((o - 0x080) / 16)
    if o % 16 = 0 then (if bit m 9 then d.updCtx n fun c => { c with pmcUser := bit v 9 } else d)
    else if o % 16 = 4 then d.hcxLease r n m v
    else d
  else d.putIf true 0 0x001 o m v

/-- The operation that OTP_PCTL.OP names (R677). -/
def otpKindOf : Nat → Option OtpKind
  | 1 => some .program | 2 => some .topup | 3 => some .seal | 4 => some .blow | 5 => some .verify | _ => none

/-- OTP_PCTL (R676, R682). A code of OP without a name is refused. -/
def Device.pctlWrite (d : Device) (f : OtpArray) (r : Requester) (w : Word) : Device :=
  if !d.ownedBy 0x004 r then d.setErr 0x004 errOwnvio
  else
    match otpKindOf (bits w 2 0) with
    | some k => d.otpRequest f k (bits w 31 16) (bit w 8)
    | none =>
      if bits w 31 16 ≠ 0x07B5 ∨ d.otp.progLock then d.setErr 0x004 errAccvio
      else if bits w 2 0 = 0 then d.otpAbort f
      else d.otpRefuse

/-- OTP, pages 0x004 and 0x005. -/
def Device.otpWrite (d : Device) (f : OtpArray) (r : Requester) (p o : Nat) (m v : Word) : Device :=
  if p = 0x004 then
    if o = 0x054 then d.pctlWrite f r (v &&& m)
    else if o = 0x05C then
      let d := d.putIf true 0 p o m v
      d.otpRead f (bits (d.reg 0x00405C) 9 0)
    else d.putIf (otpWriteOk o (d.newWord p o m v)) (errBit 8) p o m v
  else if o = 0x0C0 then (if bit (v &&& m) 0 then d.scanRequest f else d)
  else if o = 0x0C4 then d.otpReload f (v &&& m)
  else d

/-- HKC_CTL (R687). -/
def Device.hkcWrite (d : Device) (f : OtpArray) (who o : Nat) (w : Word) : Device :=
  if o = 0x040 then
    if bits w 31 16 = 0x4B1C ∧ bit w 0 then d.coreRestart f false who else d.setErr 0x006 errAccvio
  else d

/-- LOOP: BANK, FLT, and the stored registers. -/
def Device.loopWrite (d : Device) (n : Fin 16) (o : Nat) (m v : Word) (x : WriteInfo) : Device :=
  let p := loopPage n
  if o = 0x094 then (if bit (v &&& m) 0 then d.bankCommit n else d)
  else if o = 0x0D8 then
    match x.fltSense with
    | some (uv, y) =>
      let d := d.takeSamples n y
      (d.fltClear n (v &&& m) (d.ovHigh n uv) (d.otActive n) (d.extActive n)).crowbarsHeard d
    | none => (d.fltClear n (v &&& m) (d.lp n).sense.ov (d.otActive n) (d.extActive n)).crowbarsHeard d
  else if d.loopWriteOk n o (d.newWord p o m v) m then d.putLoop n o (d.newWord p o m v)
  else d.setErr p (errBit 8)

/-- Whether a loop would get more than 48 phases with POP 1 (R223). -/
def Device.mapCrowded (d : Device) (k : Fin 64) (n : Fin 16) (pop : Bool) : Bool :=
  pop && decide (48 < ((List.finRange 64).filter fun j => j != k && d.phPop j && d.phMap j == some n).length + 1)

/-- The lend of phase k from loop n to dest may not start (R312). -/
def Device.lendBad (d : Device) (n : Fin 16) (dest : Option (Fin 16)) : Bool :=
  match dest with
  | none => true
  | some m =>
    d.lendGrp n != d.lendGrp m || d.lendGrp n == 0 || (d.lp n).st != .run || (d.lp m).st != .run ||
    decide (d.activeN n < max 1 (bits (d.lreg n 0x0D4) 29 24) + 1)

/-- A write of PHSk_MAP (R223 to R225, R312, R727). -/
def Device.mapWrite (d : Device) (r : Requester) (k : Fin 64) (m v : Word) : Device :=
  let a := phaseAddr k 0
  let p := 0x020 + k.val / 8
  let w := mergeWord (d.reg a) v (m &&& storedMask a)
  let dest := loopOfCode (bits w 4 0)
  let st := (d.ph k).st
  let free := st == .unpop || st == .off || st == .failed
  let foreign := match dest with
    | some n => (match d.ownerOf (0x010 + n.val) with
      | some o => o != r
      | none => false)
    | none => false
  let crowded := match dest with
    | some n => d.mapCrowded k n (bit w 8)
    | none => false
  let lend := st.active && dest != (d.ph k).own
  if foreign then d.setErr p errOwnvio
  else if (16 ≤ bits w 4 0 ∧ bits w 4 0 ≠ 0x1F) || crowded || st == .draining || st == .handoff || st == .crowbar || st == .forced ||
      (!free && !bit w 8) then d.setErr p (errBit 8)
  else if free then
    let d := (d.setReg a w).takeOwn k
    match bit w 8, st with
    | true, .unpop => d.phaseTo k .off 0x01 r.code
    | false, .off => d.phaseTo k .unpop 0x01 r.code
    | false, .failed => d.phaseTo k .unpop 0x01 r.code
    | _, _ => d
  else if st == .parked then
    let d := (d.setReg a w).takeOwn k
    let reg := match dest with
      | some n => (d.lp n).st.regulating
      | none => false
    if reg then d else d.phaseTo k .off 0x01 r.code
  else if lend then
    match (d.ph k).own with
    | none => d.setReg a w
    | some n =>
      let record (d : Device) (x : LendResult) : Device := d.updLp n fun l => { l with
        lendResult := x, lendPhase := k.val, lendDest := bits w 3 0, lendPeriods := 0, lendStart := d.cycle }
      if d.lendBad n dest then (record d .refused).setErr p (errBit 8)
      else (record (d.setReg a w) .draining).updPh k fun q => { q with lendReq := true }
  else d.setReg a w

/-- The lend request reaches phase k (R727). -/
def Device.lendArrive (d : Device) (k : Fin 64) : Device :=
  if !(d.ph k).lendReq then d
  else
    let d := d.updPh k fun p => { p with lendReq := false, lendFrom := p.own }
    match (d.ph k).st with
    | .joining => d.phaseLend k
    | .live => d.phaseLend k
    | .draining =>
      if (d.ph k).dest == .parked then d.phaseLend k
      else (d.lendRecord k .endedOff).updPh k fun p => { p with mapHeld := true }
    | .failed => (d.lendRecord k .failed).takeOwn k
    | .parked =>
      let d := (d.lendRecord k .endedOff).takeOwn k
      let reg := match (d.ph k).own with
        | some n => (d.lp n).st.regulating
        | none => false
      if reg then d else d.phaseTo k .off 0x12
    | .crowbar => (d.lendRecord k .endedOff).updPh k fun p => { p with mapHeld := true }
    | .forced => (d.lendRecord k .endedOff).updPh k fun p => { p with mapHeld := true }
    | _ => (d.lendRecord k .endedOff).takeOwn k

/-- A write of a register of phase k; GAIN and PK_MAX act on the peak code at once (R207, R209). -/
def Device.phsWrite (d : Device) (r : Requester) (k : Fin 64) (p o : Nat) (m v : Word) (x : WriteInfo) : Device :=
  match o % 0x40 with
  | 0x00 => d.mapWrite r k m v
  | 0x18 =>
    let d := if bit m 1 && bit v 1 != d.phDisabled k then
        let d := d.putIf true 0 p o m v
        if bit v 1 then d.phaseDisable k 0x01 r.code else d
      else d
    if bit (v &&& m) 0 then d.clrFail k x.seen r.code else d
  | 0x0C =>
    let w := d.newWord p o m v
    d.putIf (decide (0 < bits w 19 10 ∧ bits w 19 10 ≤ bits w 9 0 ∧ bits w 9 0 ≤ bits w 29 20)) (errBit 8) p o m v
  | 0x10 => (d.putIf true 0 p o m v).loadPeak k
  | 0x14 => (d.putIf true 0 p o m v).loadPeak k
  | _ => d.putIf true 0 p o m v

/-- The operation of SEQ_RAILREQ.OP (R383). -/
def railOpOf : Nat → Option RailOp
  | 1 => some .on | 2 => some .softOff | 3 => some .immOff | 4 => some .clear | _ => none

/-- SEQ, page 0x030. -/
def Device.seqWrite (d : Device) (r : Requester) (o : Nat) (m v : Word) : Device :=
  let w := v &&& m
  if o = 0x044 then d.sceneRequest (bits w 2 0) 4 r.code
  else if o = 0x04C then
    if 95 < bits w 6 0 then d.setErr seqPage (errBit 8)
    else match railOpOf (bits w 31 29) with
      | some op => d.railRequest op (Fin.ofNat 128 (bits w 6 0))
      | none => d
  else if o = 0x050 then
    if bits w 31 16 = 0xF0CE ∧ d.isAdmin r then d.seqForce w else d.setErr seqPage errAccvio
  else if 0x064 ≤ o ∧ o < 0x080 then
    d.putIf (sceneWriteOk ((o - 0x060) / 4) (d.newWord seqPage o m v)) (errBit 8) seqPage o m v
  else d.putIf true 0 seqPage o m v

/-- SUP: the warning flags of an external rail. -/
def Device.supWrite (d : Device) (p o : Nat) (w : Word) : Device :=
  if 0x100 ≤ o ∧ o < 0x200 ∧ o % 8 = 4 then
    let j := 32 * (p - 0x034) + (o - 0x100) / 8
    if j < 80 then
      d.updEn (Fin.ofNat 128 (16 + j)) fun e => { e with wrnOv := e.wrnOv && !bit w 7, wrnUv := e.wrnUv && !bit w 6 }
    else d
  else d

/-- RSO: RSO_POL and RSO_FORCE. -/
def Device.rsoWrite (d : Device) (o : Nat) (m v : Word) : Device :=
  if o = 0x040 then d.withRso fun x => { x with pol := d.newWord 0x037 o m v }
  else (d.putIf true 0 0x037 o m v).rsoSync

/-- HUP, pages 0x040 and 0x041. -/
def Device.hupWrite (d : Device) (p o : Nat) (m v : Word) : Device :=
  if p = chgPage ∧ o = 0x048 then d.chgCommandWrite (mergeWord (d.reg 0x041048) v m)
  else
    let m := if p = hupPage ∧ o = 0x05C ∧ d.hup.st = .nopack then m &&& 0xFFFF else m
    let d := d.putIf (d.hupWriteOk p o (d.newWord p o m v)) (errBit 8) p o m v
    if (p = hupPage ∧ o = 0x05C) ∨ (p = chgPage ∧ o = 0x040) then d.rsvSync else d

/-- GAU, page 0x044. -/
def Device.gauWrite (d : Device) (r : Requester) (o : Nat) (m v : Word) (x : WriteInfo) : Device :=
  let w := v &&& m
  if !d.boot.up.ao then d
  else if o = 0x074 then
    let d := if bit w 2 then d.gauAnchor else d
    if bit w 0 then d.gauCommitStart else d
  else if o = 0x078 then
    if bits w 31 16 ≠ 0x6A17 then d.setErr gauPage errAccvio
    else if bits w 1 0 = 1 then d.gauRestore (x.packDet.getD (!d.hup.present)) r.code
    else if bits w 1 0 = 2 then d.gauUnload r.code
    else d
  else d.putIf (gauWriteOk o (d.newWord gauPage o m v)) (errBit 8) gauPage o m v

/-- THM, pages 0x048 and 0x049. -/
def Device.thmWrite (d : Device) (r : Requester) (p o : Nat) (m v : Word) : Device :=
  if p = 0x048 ∧ o = 0x084 then
    if bits (v &&& m) 6 0 < 88 then d.thmClear (Fin.ofNat 88 (bits (v &&& m) 6 0)) r.code else d
  else
    let ok := thmWriteOk p o (d.newWord p o m v)
    let d := d.putIf ok (errBit 8) p o m v
    if ok then d.thmWritten p o else d

/-- FLT, page 0x050: the status words, the history, the injection, and the reactions, which act at once while they are held. -/
def Device.fltWrite (d : Device) (r : Requester) (o : Nat) (m v : Word) : Device :=
  let w := v &&& m
  if o = 0x040 then d.faultClear (w.setWidth 64) r.code
  else if o = 0x044 then d.faultClear (w.setWidth 64 <<< 32) r.code
  else if o = 0x060 then (if bit w 31 then { d with flt := { d.flt with wrapped := false } } else d)
  else if o = 0x06C then
    if bits w 31 16 = 0x1A7E then { d with flt := { d.flt with inject := true } } else d.setErr fltPage errAccvio
  else (d.putIf true 0 fltPage o m v).applyForces d

/-- WDT k; dt is the number of ticks since the last command of the watchdog. -/
def Device.wdtWrite (d : Device) (f : OtpArray) (r : Requester) (k : Fin 9) (o : Nat) (m v : Word) (x : WriteInfo) : Device :=
  let w := v &&& m
  let p := wdtPage k
  let d := d.wdtAdvance f k x.dt
  match o with
  | 0x050 =>
    if d.locked p then d
    else
      let s := (mergeWord ((d.wd k).seedReg.setWidth 32) v m).setWidth 16
      d.updWd k fun y => { y with seedReg := s }
  | 0x054 =>
    let d := if bit w 1 then d.wdtDisarmWrite k (bits w 31 16) r.code else d
    if bit w 0 then d.wdtArm k r.code else d
  | 0x058 => d.wdtCheckin f k (w.setWidth 16)
  | 0x060 => d.wdtAnswer f k (w.setWidth 16)
  | 0x064 => if bit w 13 then d.updWd k fun y => { y with fallback := false } else d
  | 0x078 => d.wdtQueue k (w.setWidth 16)
  | 0x048 => if k.val = 8 then d else d.putIf true 0 p o m v
  | 0x04C => if k.val = 8 then d else (d.putIf true 0 p o m v).wdtLinesSync
  | _ => d.putIf (wdtWriteOk o (d.newWord p o m v)) (errBit 12) p o m v

/-- EVC, page 0x060. -/
def Device.evcWrite (d : Device) (r : Requester) (o : Nat) (m v : Word) : Device :=
  let w := v &&& m
  if o = 0x080 then d.raise 6 w
  else if o = 0x084 then d.raise 7 w
  else
    match targetAt 0x060 o with
    | none => d
    | some t =>
      match (o - 0x100) % 0x20 with
      | 0x00 => d.tctlWrite t (d.newWord 0x060 o m v)
      | 0x0C => d.evRdWrite t (bits (mergeWord (BitVec.ofNat 32 (d.tg t).rd) v m) 15 0)
      | 0x14 => if bit w 29 then d.wfaultClear t r.code else d
      | 0x18 => d.evEoi t (Fin.ofNat 256 (bits w 7 0))
      | _ => d.putIf true 0 0x060 o m v

/-- RING r, with its descriptors. -/
def Device.ringWrite (d : Device) (r : Requester) (n : Fin 32) (o : Nat) (m v : Word) : Device :=
  let p := ringPage n
  if 0x800 ≤ o then d.ramPut (pageAddr p o) (mergeWord (d.ramWord (pageAddr p o)) v m)
  else if o = 0x04C then d.ringDoorbell n r.code
  else if o = 0x050 then
    let d := if bit (v &&& m) 1 then d.ringPause n r.code else d
    if bit (v &&& m) 0 then d.ringResume n r.code else d
  else if o = 0x040 then
    let d := d.putIf (d.ringCfgOk n (d.newWord p o m v)) (errBit 8) p o m v
    if bits (d.rcfg n) 8 0 = 0 then d.updRg n fun x => { x with tokens := 4096 } else d
  else d.putIf true 0 p o m v

/-- XLT, page 0x0A0: the bank of the requester and the synchronisation. -/
def Device.xltWrite (d : Device) (r : Requester) (o : Nat) (m v : Word) : Device :=
  if o = 0x040 then (if bit m 0 then d.updXlt fun x => { x with bank := x.bank.set (Fin.ofNat 16 r.code) (bit v 0) } else d)
  else if o = 0x044 then (if bit (v &&& m) 0 then d.xltSync r.code else d)
  else d

/-- The window table: word o / 4 mod 2 of the entry that the requester's bank shows (R113, R114, R601, R602). -/
def Device.apertureWrite (d : Device) (r : Requester) (p o : Nat) (m v : Word) : Device :=
  let e := 1024 * b2n d.dma.xlt.bank[Fin.ofNat 16 r.code] + (0x1000 * (p - 0x110) + o) / 8
  let one := decide (o / 4 % 2 = 1)
  let old := if one then (match d.dma.xlt.held[Fin.ofNat 16 r.code] with
    | some w => w
    | none => d.reg (xltAddr e 1)) else d.reg (xltAddr e 0)
  d.windowWrite e one r.code (d.isAdmin r) (mergeWord old v m)

/-- TLM, pages 0x0B0 and 0x0B1. -/
def Device.tlmWrite (d : Device) (r : Requester) (p o : Nat) (m v : Word) : Device :=
  let a := pageAddr p o
  if p = tlmPage ∧ 0x080 ≤ o ∧ o < 0x100 ∧ o % 16 < 12 then
    d.schWrite (Fin.ofNat 8 ((o - 0x080) / 16)) (Fin.ofNat 3 (o % 16 / 4)) (d.newWord p o m v) r.code
  else if p = rushPage ∧ o = 0x054 then d.rctlWrite (v &&& m) r.code
  else
    let ok := tlmWriteOk p o (d.newWord p o m v)
    let old := d.reg a
    let d := d.putIf ok (errBit 8) p o m v
    if ok then d.tlmWritten p o old r.code else d

/-- PMC, page 0x0C0. -/
def Device.pmcPageWrite (d : Device) (r : Requester) (o : Nat) (m v : Word) : Device :=
  let w := v &&& m
  match pmcCtrAt (pageAddr pmcPage o) with
  | some (c, hi) => d.pmcWrite c hi m v
  | none =>
    if o = 0x048 then { d with pmc := { d.pmc with ovf := d.pmc.ovf &&& ~~~(w.setWidth 64) } }
    else if o = 0x04C then { d with pmc := { d.pmc with ovf := d.pmc.ovf &&& ~~~(w.setWidth 64 <<< 32) } }
    else if o = 0x040 then (d.putIf true 0 pmcPage o m v).pmcSync 0x01 r.code
    else if 0x100 ≤ o ∧ o < 0x200 then d.putIf (pmcSelOk (d.newWord pmcPage o m v)) (errBit 8) pmcPage o m v
    else d

/-- SYN, page 0x0C4. -/
def Device.synWrite (d : Device) (r : Requester) (o : Nat) (m v : Word) : Device :=
  if o = 0x04C then
    let d := if bit (v &&& m) 1 then d.snap else d
    if bit (v &&& m) 0 then d.clapDrive else d
  else
    let d := d.putIf true 0 synPage o m v
    if o = 0x040 then d.discFollow r.code else d

/-- CUE_SW (R281, R283): a cue for loop [6:3] with profile [2:0], rejected where another requester has claimed the loop. -/
def Device.cueSwWrite (d : Device) (r : Requester) (w : Word) (t : Option CueTiming) : Device :=
  let n := Fin.ofNat 16 (bits w 6 3)
  match d.ownerOf (0x010 + n.val) with
  | some q => if q = r then d.cue n (bits w 2 0) true t else (d.cueReject n (bits w 2 0) true false).setErr cuePage errOwnvio
  | none => d.cue n (bits w 2 0) true t

/-- CUE, page 0x0C8. -/
def Device.cueWrite (d : Device) (r : Requester) (o : Nat) (m v : Word) (x : WriteInfo) : Device :=
  if o = 0x044 then d.cueSwWrite r (v &&& m) x.timing else d.putIf true 0 cuePage o m v

/-- A write of the shot list (R358); a reset entry that becomes present or absent asserts or releases its line (R356, R357). -/
def Device.shotWrite (d : Device) (p o : Nat) (m v : Word) : Device :=
  let i := Fin.ofNat 128 ((0x1000 * (p - 0x100) + o) / 0x40)
  match d.shotWriteOk i (o % 0x40) (d.newWord p o m v) with
  | some e => d.setErr 0x030 e
  | none => if isRail i then d.putIf true 0 p o m v else (d.putIf true 0 p o m v).seqLinesSync

/-- A write of the source table (R545). -/
def Device.sourceWrite (d : Device) (r : Requester) (o : Nat) (m v : Word) : Device :=
  let d := d.putIf true 0 0x120 o m v
  if o % 8 = 0 then d.srcWritten (Fin.ofNat 256 (o / 8)) r.code else d

/-- A write of the always-on SRAM (R471). -/
def Device.sramWrite (d : Device) (o : Nat) (m v : Word) : Device :=
  if !d.boot.up.ao then d
  else if d.sramWriteOk o then d.ramPut (pageAddr 0x300 o) (mergeWord (d.ramWord (pageAddr 0x300 o)) v m)
  else d.setErr gauPage (errBit 9)

/-- What a write of v to the bits m of offset o of page p does once it has passed its checks. -/
def Device.blockWrite (d : Device) (f : OtpArray) (src : Source) (p o : Nat) (m v : Word) (x : WriteInfo) : Device :=
  let r := d.requester src
  match blockOf p with
  | some .glb => d.glbWrite o m v
  | some .hcx => d.hcxWrite f src o m v
  | some .otp => d.otpWrite f r p o m v
  | some .hkc => d.hkcWrite f r.code o (v &&& m)
  | some .loop => d.loopWrite (Fin.ofNat 16 (p - 0x010)) o m v x
  | some .phs =>
    match phaseAt p o with
    | some k => d.phsWrite r k p o m v x
    | none => d
  | some .seq => if p = 0x030 then d.seqWrite r o m v else d
  | some .sup => d.supWrite p o (v &&& m)
  | some .rso => d.rsoWrite o m v
  | some .hup => d.hupWrite p o m v
  | some .gau => d.gauWrite r o m v x
  | some .thm => d.thmWrite r p o m v
  | some .flt => d.fltWrite r o m v
  | some .wdt => d.wdtWrite f r (Fin.ofNat 9 (p - 0x054)) o m v x
  | some .evc => if p = 0x060 then d.evcWrite r o m v else d
  | some .ring => d.ringWrite r (Fin.ofNat 32 (p - 0x080)) o m v
  | some .xlt => d.xltWrite r o m v
  | some .tlm => d.tlmWrite r p o m v
  | some .pmc => d.pmcPageWrite r o m v
  | some .syn => d.synWrite r o m v
  | some .cue => d.cueWrite r o m v x
  | some .shotTable => d.shotWrite p o m v
  | some .windowTable => d.apertureWrite r p o m v
  | some .sourceTable => d.sourceWrite r o m v
  | some .gaugeTable => d.sramWrite o m v
  | _ => d

/-! ## A write -/

/-- A change of WDTk_RSTSET.DEVRST needs an administrator (R536, R723). -/
def Device.devrstBad (d : Device) (r : Requester) (p o : Nat) (m v : Word) : Bool :=
  decide (0x054 ≤ p ∧ p ≤ 0x05B ∧ o = 0x048) && bit m 31 && (bit v 31 != bit (d.reg (pageAddr p o)) 31) && !d.isAdmin r

/-- The first check of R130 that a write of a block-specific word fails (R723, R602): the bit of PAGE_ERR. -/
def Device.writeBad (d : Device) (src : Source) (a : Nat) (m v : Word) : Option Word :=
  let p := a / 0x1000
  let o := a % 0x1000
  let r := d.requester src
  let rwl := lockedMask a
  if d.devrstBad r p o m v then some errAccvio
  else d.writeCheck r p o rwl (d.heldWord a) m (if rwl = 0 then v else d.newWord p o m v)

/-- A write of v to the bits m of the word at DW address a, by src (R9, R130, R723). -/
def Device.writePlain (d : Device) (f : OtpArray) (src : Source) (a : Nat) (m v : Word) (x : WriteInfo := {}) : Device :=
  let p := a / 0x1000
  let o := a % 0x1000
  if (blockOf p).isNone then d
  else if isBlockPage p && decide (o < 0x040) then d.headerWrite src p o m v
  else
    match d.writeBad src a m v with
    | some e => d.setErr (errPage p) e
    | none => d.blockWrite f src p o m v x

/-- A port's write of the word at DW address a (R137). -/
def Device.writeWord (d : Device) (f : OtpArray) (src : Source) (a : Nat) (m v : Word) (x : WriteInfo := {}) : Device :=
  (d.accessed src (a / 0x1000)).writePlain f src a m v x

/-! ## The gate of the fabric -/

/-- Pages that answer in boot stage 0xE (R95). -/
def bootPage (p : Nat) : Bool := p == 0x000 || p == 0x003 || p == 0x004 || p == 0x005

/-- A host port reaches page p: the clocks run, and the stage is past call-sheet load (R95, R97, R725). -/
def Device.fabricOpen (d : Device) (p : Nat) : Bool :=
  d.live && (if d.boot.stage = 0xE then bootPage p else decide (5 ≤ d.boot.stage))

/-- An access of src reaches page p: a host port as above, the PCIe port only while the endpoint is powered and out of reset (R28, R86), the
debug bridge unless OTP locks it, the core while it runs. -/
def Device.reaches (d : Device) (src : Source) (p : Nat) : Bool :=
  match src with
  | .port .pcie _ => d.boot.up.pcie && !d.pcie.perstLow && d.fabricOpen p
  | .port _ _ => d.fabricOpen p
  | .jtag => d.live && !d.otp.jtagLock
  | .core => d.live && d.boot.coreUp

/-- An access of the debug bridge takes the TAP controller out of its reset state. -/
def Device.tapLeaves (d : Device) (src : Source) : Device :=
  if src = .jtag then { d with boot := { d.boot with tapReset := false } } else d

/-- A register write as a command (R7, R130): refused with UNALIGNED where its width does not fit its address, and nothing where the port
does not reach the fabric. -/
def Device.busWrite (d : Device) (f : OtpArray) (src : Source) (addr : Nat) (be : BitVec 4) (v : Word) (x : WriteInfo := {}) : Device :=
  let p := addr / 0x1000
  let d := d.tapLeaves src
  if !d.reaches src p then d
  else if alignedBe be then d.writeWord f src (addr / 4 * 4) (byteMask be) v x
  else
    let d := d.renew (d.requester src)
    if (blockOf p).isSome then d.setErr (errPage p) errUnaligned else d

/-- A register read as a command: the device after it. -/
def Device.busRead (d : Device) (src : Source) (addr : Nat) : Device :=
  let d := d.tapLeaves src
  if d.reaches src (addr / 0x1000) then (d.readWord src (addr / 4 * 4)).2 else d

end Sys2Proof.Machine
end

