-- ==== Sys2Proof/Machine/Transfer.lean ====
section
/-! DEFINITION. What the bursts of the DMA engine move (R580 to R583, R596, R605), and the errors of host reads (R573). -/

namespace Sys2Proof.Machine
open Sys2Proof

/-! ## The funnel -/

/-- The access that the funnel makes at x before the end e, at most lim bytes wide (R581). -/
def funnelSize (lim x e : Nat) : Nat :=
  match [16, 8, 4, 2].find? fun s => decide (s ≤ lim) && x % s == 0 && decide (x + s ≤ e) with
  | some s => s
  | none => 1

/-- The accesses from x to e, address and size; fuel bounds their number. -/
def funnel (lim : Nat) : Nat → Nat → Nat → List (Nat × Nat)
  | 0, _, _ => []
  | n + 1, x, e => if x < e then (x, funnelSize lim x e) :: funnel lim n (x + funnelSize lim x e) e else []

/-- The widest access at device address x: block pages take 4 bytes (R581). -/
def funnelLimit (x : Nat) : Nat := if x < 0x100000 then 4 else 16

/-- The accesses of n bytes at x. -/
def accessesOf (x n : Nat) : List (Nat × Nat) := funnel (funnelLimit x) 256 x (x + n)

/-- Single words of an access. -/
def wordsOf (a : Nat × Nat) : List (Nat × Nat) := if a.2 ≤ 4 then [a] else (List.range (a.2 / 4)).map fun i => (a.1 + 4 * i, 4)

/-- The requester of a ring's accesses on the chip (R582). -/
def Device.ringSource (d : Device) (code : Nat) : Source :=
  if h : code < 8 then .port d.ctx[code].port (some ⟨code, h⟩)
  else if code = 0xD then .jtag
  else if code = 0xE then .core
  else .port .pcie none

/-- Bytes read or written so far, the device, and whether a write was refused. -/
structure FunnelRun where
  dev : Device
  bytes : List Byte
  done : Nat
  refused : Bool

/-- One read of at most four bytes on the chip. -/
def FunnelRun.read (u : FunnelRun) (src : Source) (x : Nat × Nat) : FunnelRun :=
  let r := (u.dev.gauTouch (x.1 / 0x1000)).readPlain src (x.1 / 4 * 4)
  { dev := r.2, bytes := u.bytes ++ ((wordBytes r.1).drop (x.1 % 4)).take x.2, done := u.done + x.2, refused := u.refused }

/-- The bytes of one access as a word in their lanes. -/
def laneWord (x : Nat) (bs : List Byte) : Word :=
  let l := List.replicate (x % 4) (0 : Byte) ++ bs ++ [0, 0, 0, 0]
  bytesWord (l[0]?.getD 0) (l[1]?.getD 0) (l[2]?.getD 0) (l[3]?.getD 0)

/-- One write of at most four bytes on the chip: only table pages take it, and a refusal of R130 ends the transfer (R582). -/
def FunnelRun.write (u : FunnelRun) (f : OtpArray) (src : Source) (bs : List Byte) (x : Nat × Nat) : FunnelRun :=
  if u.refused then u
  else
    let p := x.1 / 0x1000
    let a := x.1 / 4 * 4
    let m := fieldMask (8 * (x.1 % 4 + x.2) - 1) (8 * (x.1 % 4))
    let v := laneWord x.1 ((bs.drop u.done).take x.2)
    if isBlockPage p || (blockOf p).isNone then { dev := u.dev, bytes := u.bytes, done := u.done, refused := true }
    else if (u.dev.writeBad src a m v).isSome then { dev := u.dev.writePlain f src a m v, bytes := u.bytes, done := u.done, refused := true }
    else { dev := (u.dev.gauTouch p).writePlain f src a m v, bytes := u.bytes, done := u.done + x.2, refused := false }

/-! ## The end of a burst -/

/-- The n source bytes of the burst of ring r: records of its stream, on-chip bytes, or the bytes that host reads returned. -/
def Device.burstRead (d : Device) (r : Fin 32) (n : Nat) (data : List Byte) : List Byte × Device :=
  let x := d.rg r
  if x.isStream then
    let c := Fin.ofNat 8 (bits (d.rcfg r) 23 20 - 1)
    (((d.tlm.sch[c]).fifo).take n, d.updSch c fun y => { y with fifo := y.fifo.drop n })
  else
    let s := x.src + x.offset
    let chip := min n (0x1000000 - s)
    let acc := accessesOf s chip
    let u := (acc.flatMap wordsOf).foldl (fun (u : FunnelRun) a => u.read (d.ringSource x.xctx) a)
      { dev := d, bytes := [], done := 0, refused := false }
    (u.bytes ++ data.take (n - chip), u.dev.pmcCountAll 0x22 (acc.length + (funnel 16 256 (s + chip) (s + n)).length))

/-- The bytes bs go to the destination of the burst of ring r: how many were done, and whether one was refused. -/
def Device.burstWrite (d : Device) (f : OtpArray) (r : Fin 32) (host : Option Nat) (bs : List Byte) : FunnelRun :=
  let x := d.rg r
  let t := x.dst + x.offset
  match host with
  | some h =>
    let d := if bs.isEmpty || !d.pcieMayIssue then d else d.sendTlp (.hostWrite h bs)
    { dev := d.pmcCountAll 0x22 (funnel 16 256 t (t + bs.length)).length, bytes := bs, done := bs.length, refused := false }
  | none =>
    let acc := accessesOf t bs.length
    let u := (acc.flatMap wordsOf).foldl (fun (u : FunnelRun) a => u.write f (d.ringSource x.xctx) bs a)
      { dev := d, bytes := [], done := 0, refused := false }
    { dev := u.dev.pmcCountAll 0x22 acc.length, bytes := bs, done := u.done, refused := u.refused }

/-- Whether the burst of ring r has accesses to host memory. -/
def Burst.usesHost (b : Burst) : Bool := !b.srcHost.isEmpty || b.dstHost.isSome

/-- How many bytes of its burst ring r moves: those before its translation fault, or before the link stopped (R596, R605). -/
def Device.burstBytes (d : Device) (b : Burst) (moved : Nat) : Nat :=
  if b.usesHost && !d.pcieMayIssue then min moved b.limit else b.limit

/-- RESULT HOST_ERR of ring r: cause ERR, HOSTERR of its page and of the engine's, and source 126 (R566, R573, R590, R609). -/
def Device.ringHostErr (d : Device) (r : Fin 32) : Device :=
  let d := (d.updRg r fun x => { x with err := true, res := 4 }).setErr (ringPage r) (errBit 10)
  let d := d.setErr 0x070 (errBit 9)
  d.raise 126 (d.head (pg 0x070)).err

/-- The burst b of ring r moves n bytes and is over; res is the RESULT of a host error that ended it. -/
def Device.burstEnd (d : Device) (f : OtpArray) (r : Fin 32) (b : Burst) (n : Nat) (data : List Byte) (hostErr : Bool) : Device :=
  let s := d.burstRead r n data
  let u := s.2.burstWrite f r b.dstHost s.1
  let d := u.dev.pmcCount 0x25 r.val u.done
  let d := d.updRg r fun x => { x with offset := x.offset + u.done }
  let d := d.burstOver r
  let d := if hostErr then d.ringHostErr r
    else if u.refused then (d.updRg r fun x => { x with err := true, res := 6 }).setErr (ringPage r) (errBit 12)
    else
      match b.fault with
      | some e => if u.done = b.limit then d.ringFault r e else d
      | none => d
  let d := d.ringHost r
  let x := d.rg r
  if x.err || x.fault then (if x.st.isPaused then d else d.ringSettle r)
  else if x.length ≤ x.offset && x.st != .disabled && !x.st.isPaused && !x.srst then (d.descDone r).ringNext r 0x15
  else if x.st == .draining then d.ringSettle r
  else d

/-- BURST_COMPLETE (R580, R591, R596, R605): the last write of the burst of ring r has been issued. -/
def Device.burstComplete (d : Device) (f : OtpArray) (r : Fin 32) (moved : Nat) (data : List Byte) : Device :=
  match (d.rg r).burst with
  | none => d
  | some b => d.burstEnd f r b (d.burstBytes b moved) data false

/-- HOST_ERR (R573): a host read of the burst ended with an error after moved bytes, or that of a descriptor did (R592). -/
def Device.hostError (d : Device) (f : OtpArray) (r : Fin 32) (moved : Nat) (data : List Byte) : Device :=
  match (d.rg r).burst with
  | some b => if b.srcHost.isEmpty then d else d.burstEnd f r b (min moved b.limit) data true
  | none =>
    if (d.rg r).reading && !d.ringLoc r then
      ((d.updRg r fun x => { x with reading := false }).ringHostErr r).ringSettle r
    else d

end Sys2Proof.Machine
end

