-- ==== Sys2Proof/Machine/Boot.lean ====
section
/-! DEFINITION. Supplies and resets (R82 to R88), clock failure (R34 to R37, R91), and the boot (R90 to R101, R663, R664, R669 to R673). -/

namespace Sys2Proof.Machine
open Sys2Proof

/-! ## Boot stages, the clock page and the endpoint in reset -/

/-- GLB_BOOT.STAGE, which the state of page 0x000 equals. -/
def Device.stageTo (d : Device) (s : Nat) : Device :=
  ({ d with boot := { d.boot with stage := s } } : Device).transition 0x000 s 0x02 byHw

/-- The state of page 0x002 (R102). -/
def Device.clkCode (d : Device) : Nat := if !d.boot.up.ao then 2 else if !d.boot.up.pcie then 1 else 0
/-- The record of page 0x002 follows its state while the PLL clocks run (R34, R725). -/
def Device.clkSync (d : Device) : Device := d.whenLive fun d => d.syncState 0x002 d.clkCode 0x02 byHw

/-- The rings follow the link (R590) while the PLL clocks run (R725). -/
def Device.ringsHost (d : Device) : Device := d.whenLive fun d => foldFin 32 (fun (d : Device) r => d.ringHost r) d

/-- Whether requests can be issued has changed: the rings follow, and a change of the link state is an arrival (R561, R590). -/
def Device.linkSet (d : Device) (up : Bool) : Device :=
  if up = d.pcie.linkUp then d.ringsHost
  else (({ d with pcie := { d.pcie with linkUp := up } } : Device).whenLive fun d => d.raise 5 (flag 0 up)).ringsHost

/-- The endpoint and its configuration space are reset (R84, R86); the link is down. -/
def Device.pcieReset (d : Device) : Device :=
  let d := d.linkSet false
  { d with pcie := pcie0 d.pcie.perstLow }

/-! ## Device reset -/

/-- The address lies in the AO domain: page 0x044 and the always-on SRAM. -/
def aoAddr (a : Nat) : Bool := a / 0x1000 == 0x044 || a / 0x1000 == 0x300

/-- Contexts after a device reset: FREE, and END 5 where the number was not FREE (R151, HCX_CTXn_STAT). -/
def Ctx.reset (c : Ctx) : Ctx := ctx0 (if c.st == .free then 0 else 5)

/-- A watchdog after a device reset: DISARMED, with its timer count in the AO domain kept (R84, R98, R104). -/
def Wdt.reset (x : Wdt) : Wdt := { wdt0 with tick := x.tick }

/-- The device after entry to device reset (R83, R84): the AO domain, the ORing and polarity latches are kept, and the reset lines are asserted
(R56, R59). -/
def Device.resetOf (d : Device) : Device :=
  { device0 with
    regs := d.regs.filter fun x => aoAddr x.1
    ram := d.ram.filter fun x => aoAddr x.1
    hdr := upd device0.hdr (pg gauPage) fun h => { h with cur := d.gau.st.code }
    boot := { boot0 d.boot.up with tapReset := d.boot.tapReset }
    ctx := d.ctx.map Ctx.reset
    rso := { device0.rso with pol := d.rso.pol }
    hup := hup0 d.hup.srcHold d.hup.batHold
    gau := d.gau
    ao := d.ao
    wdt := d.wdt.map Wdt.reset
    pcie := pcie0 d.pcie.perstLow
    freeCount := d.freeCount
    out := d.out }

/-- A pulse in progress is cut, and nothing of the operation is left (R85, R682). -/
def Device.cutPulse (d : Device) (f : OtpArray) : Device × OtpArray :=
  let r := d.pulseCut f
  (r.1.updOtp fun o => { o with run := none }, r.2)

/-- A requested device reset takes effect now: no pulse holds it back, and in the state of R36 only the JTAG request ends it (R37, R85). -/
def Device.resetDue (d : Device) : Bool :=
  match d.boot.request with
  | none => false
  | some q => !d.otpPulsing && (!d.boot.clkFailed || q == .jtag)

/-- DEVICE_RESET_ENTRY (R83, R84). -/
def Device.resetEntry (d : Device) : Device := if !d.boot.held && (!d.powered || d.resetDue) then d.orHold.resetOf else d

/-- Majority of three samples of a strap (R61). -/
def majority (a b c : BitVec 4) : BitVec 4 := (a &&& b) ||| (a &&& c) ||| (b &&& c)

/-- DEVICE_RESET_RELEASE (R27, R61, R63, R90, R106): straps, BOOT_COUNT, and the strap-selected addresses of R175. More than 100 ns have passed since
any cause of the reset (R87). -/
def Device.resetRelease (d : Device) (s0 s1 s2 : BitVec 4) : Device :=
  if d.boot.held && d.powered && d.boot.up.ao then
    let m := majority s0 s1 s2
    let w : Word := field 3 0 m.toNat ||| flag 8 (s0 != s1 || s1 != s2)
    let st := if m.getLsbD 2 then 0x32 else 0x30
    let d : Device := { d with
      boot := { d.boot with held := false, straps := w }
      ao := { d.ao with bootCount := satInc 255 d.ao.bootCount, firstAge := 13, instAge := 13 }
      i3c := Vector.ofFn fun p => i3c0 0 (BitVec.ofNat 7 (st + p.val)) }
    (d.aoWake false).stageTo 1
  else d

/-! ## Supplies -/

/-- The VAO POR: the AO domain takes its reset values, the watchdog timers among them (R84, R104, R477). While the PLL clocks run the loss is counted,
and after the 1.30 ms event it is latched (R500); in the state of R36 the CORE registers keep their values (R725). -/
def Device.aoDown (d : Device) : Device :=
  let on := d.live
  let d : Device := { d with
    boot := { d.boot with up := { d.boot.up with ao := false }, aoLoss := if on then satInc 255 d.boot.aoLoss else d.boot.aoLoss }
    ao := ao0
    gau := gauge0
    wdt := d.wdt.map fun x => { x with tick := 0 }
    regs := d.regs.filter fun x => !aoAddr x.1
    ram := d.ram.filter fun x => !aoAddr x.1
    flt := { d.flt with aoLost := d.flt.aoLost || (on && d.flt.judging) } }
  (if d.boot.held then d.updHdr (pg gauPage) fun h => { h with cur := 0 }
   else d.whenLive fun d => d.syncState gauPage 0 0x00 byHw).clkSync

/-- A required supply is lost: the hold latches keep the ORing levels, a pulse is cut, and the cause is latched (R57, R85, R87). -/
def Device.requiredDown (d : Device) (f : OtpArray) (i code : Nat) (down : Supplies → Supplies) : Device × OtpArray :=
  let r := d.orHold.cutPulse f
  let d := r.1.latchCause i code
  ({ d with boot := { d.boot with up := down d.boot.up } }, r.2)

/-- DOMAIN_POR_ASSERT (R82, R83, R25). A domain already in POR stays in it. -/
def Device.porAssert (d : Device) (f : OtpArray) (dom : Domain) : Device × OtpArray :=
  let u := d.boot.up
  match dom with
  | .ao => (if u.ao then d.aoDown else d, f)
  | .pcie =>
    if u.pcie then
      let d := d.pcieReset
      let d : Device := { d with boot := { d.boot with
        up := { d.boot.up with pcie := false }, pcieLoss := if d.live then satInc 255 d.boot.pcieLoss else d.boot.pcieLoss } }
      (d.ringsHost.clkSync, f)
    else (d, f)
  | .hv =>
    if u.hv then
      let r := d.requiredDown f 1 2 fun u => { u with hv := false }
      ((r.1.updHup fun h => { h with srcHold := none, batHold := none }).withRso fun x => { x with pol := 0 }, r.2)
    else (d, f)
  | .io => if u.io then d.requiredDown f 2 3 (fun u => { u with io := false }) else (d, f)
  | .ana => if u.ana then d.requiredDown f 3 4 (fun u => { u with ana := false }) else (d, f)
  | .core => if u.core then d.requiredDown f 4 5 (fun u => { u with core := false }) else (d, f)

/-- More than 100 ns have passed (R82, R87). -/
def Device.causesAged (d : Device) : Device := { d with ao := { d.ao with firstAge := 13, instAge := 13 } }

/-- DOMAIN_POR_RELEASE (R82): the supply has been up for 100 µs. A VCORE loss that no device reset has followed yet is not undone: the reset is still entered. -/
def Device.porRelease (d : Device) (dom : Domain) : Device :=
  let u := d.boot.up
  let set (d : Device) (u : Supplies) : Device := { d.causesAged with boot := { d.boot with up := u } }
  match dom with
  | .ao => (set d { u with ao := true }).clkSync
  | .pcie => (set d { u with pcie := true }).clkSync
  | .hv => if u.hv then d else set d.resetEntry { d.resetEntry.boot.up with hv := true }
  | .io => if u.io then d else set d.resetEntry { d.resetEntry.boot.up with io := true }
  | .ana => if u.ana then d else set d.resetEntry { d.resetEntry.boot.up with ana := true }
  | .core => if u.core then d else set d.resetEntry { d.resetEntry.boot.up with core := true }

/-! ## Clocks -/

/-- PLL_LOCK (R34, R90, R612). -/
def Device.lock (d : Device) : Device :=
  if !d.boot.held && !d.boot.pllLock && !d.boot.clkFailed && d.powered then
    (({ d with boot := { d.boot with pllLock := true }, ts := 0, cycle := 0 } : Device).clkSync).stageTo 2
  else d

/-- The clock supervisor declares clock failure (R35 to R37, R85): the flag and its cause go to the AO domain. -/
def Device.clockFailure (d : Device) (f : OtpArray) : Device × OtpArray :=
  if d.boot.held || d.boot.clkFailed || !d.powered then (d, f)
  else
    let r := d.orHold.cutPulse f
    let d := r.1.latchCause 5 6
    ({ d with
      boot := { d.boot with clkFailed := true }
      ao := if d.boot.up.ao then { d.ao with clkFail := true } else d.ao }, r.2)

/-- PLL_LOCK_TIMEOUT (R91). -/
def Device.lockTimeout (d : Device) (f : OtpArray) : Device × OtpArray := if d.boot.pllLock then (d, f) else d.clockFailure f

/-! ## The boot table -/

/-- A boot event of stage s occurs. -/
def Device.atStage (d : Device) (s : Nat) : Bool := d.live && d.boot.stage == s

/-- TRIM_LOAD (R90, R93, R663, R664): the trims of every phase, of the ANA references and the ADC gains, and the RC trim, which is applied in the AO
domain. -/
def Device.trimLoad (d : Device) (f : OtpArray) : Device :=
  if d.atStage 2 && !d.boot.trimJudged then
    let b := d.drawScan
    let v := f.values b.1
    let weld := bit (wordOf v 2) 0
    let ok := trimValid v weld
    let d := b.2.updOtp fun o => { o with trimSeal := weld }
    let d := foldFin 64 (fun (d : Device) k =>
      let t := if ok then bits (wordOf v (15 + k.val / 4)) (8 * (k.val % 4) + 7) (8 * (k.val % 4)) else 0
      d.setRegBits (phaseAddr k 0x10) 31 24 t) d
    let rc := if ok then bits (wordOf v 14) 7 0 else Config.rcTrimDefault.toNat
    { d with
      boot := { d.boot with
        trimDefault := !ok, trimJudged := true
        anaTrim := Vector.ofFn fun i => if ok then wordOf v (8 + i.val) else Config.anaTrimDefault i }
      ao := if d.boot.up.ao then { d.ao with trimmed := true, rcTrim := rc } else d.ao }
  else d

/-- OTP_BOOT_SCAN_COMPLETE (R660, R663, R667): margins, fuses, and the words as values of this boot. -/
def Device.bootScan (d : Device) (f : OtpArray) : Device :=
  if d.atStage 2 && d.boot.trimJudged then
    let b := d.drawScan
    let v := f.values b.1
    let d := b.2.scanMargins f
    let w := wordOf v 2
    let t := d.dieMaxC
    let differs := bit w 0 != d.otp.trimSeal
    let d := d.updOtp fun o => { o with
      bootVal := v, gens := gensOf v, genSeal := BitVec.ofNat 4 (bits w 5 2), jtagLock := bit w 8, progLock := bit w 9, tScan := t
      drift := o.drift || differs }
    ({ d with boot := { d.boot with marginal := decide (0 < d.otp.nMarg) } } : Device).stageTo 3
  else d

/-- BOOT_MODE as latched (R63). -/
def Device.bootMode (d : Device) : Nat := bits d.boot.straps 1 0

/-- GENERATION_SELECT (R92, R95). -/
def Device.generationSelect (d : Device) : Device :=
  if d.atStage 3 then
    match selectGen d.otp.bootVal (d.bootMode == 0) with
    | some g => ({ d with boot := { d.boot with gen := g } } : Device).stageTo 4
    | none => d.stageTo 0xE
  else d

/-- A bus port at its reset: the fields of GLB_HPORTx in force from now on (R175, R184, R198). -/
def Device.i3cReset (d : Device) (p : Fin 2) : Device :=
  let w := d.reg (0x000070 + 4 * p.val)
  let strap := (if bit d.boot.straps 2 then 0x32 else 0x30) + p.val
  let st := if bit w 15 && d.boot.stage != 0xE then bits w 22 16 else strap
  let old := d.i3c[p]
  let new := { i3c0 (bits w 5 4) (BitVec.ofNat 7 st) with ibiMap := old.ibiMap, ibiWait := old.ibiWait }
  { d with i3c := d.i3c.set p new }

/-- The SPI port at its reset (R195, R198). -/
def Device.spiReset (d : Device) : Device := { d with spi := { enabled := bit (d.reg 0x000078) 0, lastWr := 0, rsp := none } }

/-- CALL_SHEET_LOAD (R122, R500, R669, R670). -/
def Device.callSheetLoad (d : Device) : Device :=
  if d.atStage 4 then
    let old := d
    let l := d.loadSheet false d.otp.bootVal d.boot.gen
    let d := ((l.dev.judgeRegs false).judgeRings).judgeMaps
    let d := d.updOtp fun o => { o with ldWrites := l.done % 65536, ldIgnored := l.ignored % 65536 }
    let d := foldFin 16 (fun (d : Device) n => d.bankInit n) d
    let d := ((d.loadPhases).loadEnables old).loadSync old
    let d : Device := { d with safe := d.safeStore, sheet := d.regs, flt := { d.flt with judging := true } }
    let d := ((d.i3cReset 0).i3cReset 1).spiReset
    (d.stageTo 5).faultLatch
  else d

/-- The core leaves its reset vector: instance 8 starts its first window when the call sheet arms it (R90, R539). -/
def Device.coreRelease (d : Device) : Device :=
  let d : Device := { d with boot := { d.boot with coreUp := true, coreRestarting := false } }
  let d := (d.hkcSync 0x02).stageTo 6
  if bit (d.wdtReg 8 0x044) 29 then d.wdtArmNow 8 0x10 byHw else d

/-- The patch section of the loaded generation, as values v give it, is installed (R94, R671, R672). -/
def Device.patchLoad (d : Device) (v : Store) : Device :=
  if (patchSection v d.boot.gen).isEmpty then d.patchInstall []
  else if patchValid v d.boot.gen then d.patchInstall (patchSection v d.boot.gen)
  else
    let d := d.patchInstall []
    { d with boot := { d.boot with patchSkipped := true }, hkc := { d.hkc with skipped := true } }

/-- PATCH_INSTALL (R90, R94, R96, R672). -/
def Device.patchEvent (d : Device) : Device :=
  if d.atStage 5 then
    let d := d.patchLoad d.otp.bootVal
    if d.bootMode = 3 ∧ !d.otp.jtagLock then d.stageTo 0xD else d.coreRelease
  else d

/-- JTAG_CORE_RELEASE (R96). -/
def Device.jtagRelease (d : Device) : Device := if d.atStage 0xD then d.coreRelease else d

/-- FIRST_THERMAL_SCAN_COMPLETE (R90): after the release of the core, which ends stage 5 and the debug hold. -/
def Device.firstScan (d : Device) : Device :=
  if d.atStage 6 then { d with boot := { d.boot with firstScan := true } } else d

/-- The conditions of R99. -/
def Device.autoStartOk (d : Device) : Bool :=
  let w := wordOf d.otp.bootVal (genBase d.boot.gen + 3)
  let first := if d.boot.up.ao then bits d.ao.rstCause 31 28 else 0
  !bit d.boot.straps 3 && d.bootMode == 0 && decide (d.boot.gen < 4) && bit w 31 && !d.boot.trimDefault &&
  d.boot.firstScan && !d.thmBlocks && !d.fltBlocks && (first != 7 || bit w 16) && (first != 6 || bit w 17)

/-- The auto-start conditions have been judged: the 2.40 ms event has passed (R100). -/
def Device.autoJudged (d : Device) : Bool := d.boot.autoRun || d.boot.autoBlocked

/-- AUTO_START (R90, R99, R100): after the first thermal scan. -/
def Device.autoStart (d : Device) : Device :=
  if d.atStage 6 && d.boot.firstScan && !d.autoJudged then
    if d.autoStartOk then
      let d := d.sceneRequest (bits (wordOf d.otp.bootVal (genBase d.boot.gen + 3)) 26 24) 4 byHw
      let ok := d.seq.reqres == 1 || d.seq.reqres == 2
      { d with boot := { d.boot with autoRun := ok, autoBlocked := !ok } }
    else { d with boot := { d.boot with autoBlocked := true } }
  else d

/-- CORE_INIT_COMPLETE (R90, R539), after the auto-start event: the challenge queues, the gauge, and the instances that the call sheet arms. -/
def Device.coreInit (d : Device) (c : Vector (List (BitVec 16)) 9) : Device :=
  if d.atStage 6 && d.boot.coreUp && d.autoJudged then
    let d := ((d.wdtFill c).gauReconcile).stageTo 7
    foldFin 8 (fun (d : Device) k =>
      let j : Fin 9 := ⟨k.val, by omega⟩
      if bit (d.wdtReg j 0x044) 29 && (d.wd j).st == .disarmed then d.wdtArmNow j 0x10 byHw else d) d
  else d

/-- CORE_RESTART_COMPLETE (R534, R673): the comparators stay, or go with an invalid patch section; instance 8 leaves TRIPPED. -/
def Device.restartComplete (d : Device) (f : OtpArray) (c : Vector (List (BitVec 16)) 9) : Device :=
  if d.live && d.boot.coreRestarting then
    let b := d.drawScan
    let v := f.values b.1
    let s := patchSection v d.boot.gen
    let d := b.2
    let d : Device :=
      if s.isEmpty then d
      else if patchValid v d.boot.gen then { d with hkc := { d.hkc with code := patchCode s } }
      else { d with hkc := { d.hkc with cmp := Vector.replicate 64 none, code := [], skipped := true, dup := false } }
    let d : Device := { d with boot := { d.boot with coreUp := true, coreRestarting := false } }
    let d := (d.hkcSync 0x02).evcSync
    let d := if (d.wd 8).st == .tripped then d.wdtArmNow 8 0x16 byHw else d
    (d.wdtFill c).gauReconcile
  else d

/-! ## JTAG -/

/-- JTAG_DEVICE_RESET (R84). -/
def Device.jtagReset (d : Device) : Device :=
  if d.boot.held || !d.powered then d
  else
    let d := (d.tapLeaves .jtag).requestReset .jtag
    if d.boot.clkFailed then { d with boot := { d.boot with request := some .jtag } } else d

/-- TAP_RESET (R84). -/
def Device.tapHold (d : Device) : Device := { d with boot := { d.boot with tapReset := true } }

end Sys2Proof.Machine
end

