-- ==== Sys2Proof/Machine/Ports.lean ====
section
/-! DEFINITION. The PCIe endpoint (R161 to R167), the register frame on its three ports (R168 to R173, R726), the I3C targets (R174 to R184) and
the SPI port (R192 to R196). -/

namespace Sys2Proof.Machine
open Sys2Proof

/-! ## The PCIe endpoint -/

/-- A request reaches the endpoint: it is powered and out of reset (R86). -/
def Device.pcieAnswers (d : Device) : Bool := d.boot.up.pcie && !d.pcie.perstLow && !d.boot.held && d.powered

/-- The endpoint record changed by f. -/
def Device.updPcie (d : Device) (f : Pcie → Pcie) : Device := { d with pcie := f d.pcie }

/-- A completion with its data. -/
def Device.complete (d : Device) (c : PcieCpl) (ws : List Word) : Device := d.updPcie fun x => { x with cpl := c, data := ws }

/-- A packet that arrives, while counters run, and one that the device answers with (R638 codes 0x30 and 0x31). -/
def Device.tlpIn (d : Device) : Device := d.whenLive fun d => d.pmcCountAll 0x31 1
def Device.tlpOut (d : Device) : Device := d.whenLive fun d => d.pmcCountAll 0x30 1

/-- What R162 and R163 fix of one word of configuration space: the bits they fix, their value at reset, and which of them a write changes. -/
structure CfgRow where
  dw : Nat
  known : Word
  value : Word
  writable : Word

/-- The words of configuration space that R162 and R163 fix: identity, the three 64-bit non-prefetchable BARs, and the capabilities of power
management, MSI-X, PCI Express and AER with what they report. PRESUMED: their places in the words are those of the PCI Express Base
Specification; the chain of capabilities is a DESIGN CHOICE. -/
def cfgRows : List CfgRow :=
  [{ dw := 0, known := 0xFFFFFFFF, value := 0x96400000 ||| Config.vendorId.setWidth 32, writable := 0 },
   { dw := 1, known := 0x00100000, value := 0x00100000, writable := 0 },
   { dw := 2, known := 0xFFFFFF00, value := 0x08800000, writable := 0 },
   { dw := 4, known := 0xFFFFFFFF, value := 0x00000004, writable := 0xFF000000 },
   { dw := 5, known := 0xFFFFFFFF, value := 0, writable := 0xFFFFFFFF },
   { dw := 6, known := 0xFFFFFFFF, value := 0x00000004, writable := 0xFE000000 },
   { dw := 7, known := 0xFFFFFFFF, value := 0, writable := 0xFFFFFFFF },
   { dw := 8, known := 0xFFFFFFFF, value := 0x00000004, writable := 0xFFFFE000 },
   { dw := 9, known := 0xFFFFFFFF, value := 0, writable := 0xFFFFFFFF },
   { dw := 13, known := 0x000000FF, value := 0x40, writable := 0 },
   { dw := 15, known := 0x0000FF00, value := 0, writable := 0 },
   { dw := 16, known := 0x0600FFFF, value := 0x00005001, writable := 0 },
   { dw := 17, known := 0x00000003, value := 0, writable := 0 },
   { dw := 20, known := 0xFFFFFFFF, value := 0x000F7011, writable := 0 },
   { dw := 21, known := 0xFFFFFFFF, value := 0x00000004, writable := 0 },
   { dw := 22, known := 0xFFFFFFFF, value := 0x00001004, writable := 0 }] ++
  [{ dw := 28, known := 0x0000FFFF, value := 0x00000010, writable := 0 },
   { dw := 29, known := 0x10000007, value := 0x10000001, writable := 0 },
   { dw := 30, known := 0x0000F0E0, value := 0x00002000, writable := 0x000070E0 },
   { dw := 31, known := 0x00000FFF, value := 0x00000823, writable := 0 },
   { dw := 37, known := 0x0003000F, value := 0x00000003, writable := 0 },
   { dw := 64, known := 0xFFF0FFFF, value := 0x00000001, writable := 0 },
   { dw := 65, known := 0x00008000, value := 0, writable := 0 }]

/-- Configuration space at its reset: what R162 and R163 fix, the rest open. -/
def cfgWord0 (i : Nat) : Word :=
  match cfgRows.find? (·.dw == i) with
  | some r => (Config.cfgReset i &&& ~~~r.known) ||| r.value
  | none => Config.cfgReset i

/-- The bits of a configuration word that a write stores. -/
def cfgMask (i : Nat) : Word :=
  match cfgRows.find? (·.dw == i) with
  | some r => (Config.cfgMask i &&& ~~~r.known) ||| r.writable
  | none => Config.cfgMask i

/-- The configuration word of DW i, with the power state, MSI-X Enable, Function Mask and the Completer Abort of AER where they live. -/
def Device.cfgWord (d : Device) (i : Nat) : Word :=
  let w := (storeFind d.pcie.cfg i).getD (cfgWord0 i)
  match i with
  | 17 => if d.pcie.d3hot then w ||| 3 else w
  | 20 => w ||| flag 31 d.pcie.msixEn ||| flag 30 d.pcie.funcMask
  | 65 => w ||| flag 15 d.pcie.aerCa
  | _ => w

/-- Vectors that are pending and no longer masked are sent (R166). -/
def Device.msixFlush (d : Device) : Device :=
  foldFin 16 (fun (d : Device) v =>
    if d.pcie.msixEn && !d.pcie.funcMask && d.pcieMayIssue && d.pcie.pending.getLsbD v.val && !d.pcie.vecMask.getLsbD v.val then
      (d.updPcie fun x => { x with pending := x.pending &&& ~~~(BitVec.ofNat 16 (2 ^ v.val)) }).sendTlp (.msix v.val)
    else d) d

/-- The host writes MSI-X Enable and Function Mask (R165): while Enable is 0 no vector is pending. -/
def Device.msixEnable (d : Device) (en fm : Bool) : Device :=
  if d.pcieAnswers then
    (d.updPcie fun x => { x with msixEn := en, funcMask := fm, pending := if en then x.pending else 0 }).msixFlush
  else d

/-- Hot reset, link down or Function Level Reset (R48, R162, R167). -/
def Device.hotReset (d : Device) : Device := if d.pcieAnswers then d.pcieReset else d

/-- D3hot (R167). -/
def Device.d3hotEnter (d : Device) : Device :=
  if d.pcieAnswers then (d.updPcie fun x => { x with d3hot := true }).ringsHost else d

/-- The return to D0 (R167, R590). -/
def Device.d0Enter (d : Device) : Device :=
  if d.pcieAnswers then (d.updPcie fun x => { x with d3hot := false }).ringsHost.msixFlush else d

/-- What a configuration write of v to the bits m of DW i does beside storing: the power state, MSI-X, a Function Level Reset, and the
write of 1 that clears AER's Completer Abort (R161, R162, R165, R167). -/
def Device.cfgEffect (d : Device) (i : Nat) (v m : Word) : Device :=
  match i with
  | 17 =>
    match bits (mergeWord (d.cfgWord 17) v m) 1 0 with
    | 0 => if d.pcie.d3hot then d.d0Enter else d
    | 3 => if d.pcie.d3hot then d else d.d3hotEnter
    | _ => d
  | 20 => let w := mergeWord (d.cfgWord 20) v m; d.msixEnable (bit w 31) (bit w 30)
  | 30 => if bit (v &&& m) 15 then d.hotReset else d
  | 65 => if bit (v &&& m) 15 then d.updPcie fun x => { x with aerCa := false } else d
  | _ => d

/-- A configuration request (R97, R161, R725): Configuration Request Retry Status before stage 5, from the configuration space otherwise. -/
def Device.configRequest (d : Device) (i : Fin 1024) (write : Option Dw) : Device :=
  if !d.pcieAnswers then d.complete .none []
  else
    let d := d.tlpIn.tlpOut
    if decide (d.boot.stage < 5) && !d.boot.clkFailed then d.complete .retry []
    else
      match write with
      | none => d.complete .success [d.cfgWord i.val]
      | some w =>
        ((d.updPcie fun x => { x with
          cfg := storeSet x.cfg i.val (mergeWord ((storeFind x.cfg i.val).getD (cfgWord0 i.val)) w.data (byteMask w.be &&& cfgMask i.val))
            (cfgWord0 i.val) }).cfgEffect i.val w.data (byteMask w.be)).complete .success []

/-- The mask of a vector, or the Function Mask, is cleared (R166). -/
def Device.msixUnmask (d : Device) (v : Option (Fin 16)) : Device :=
  if d.pcieAnswers then
    (d.updPcie fun x => match v with
      | some n => { x with vecMask := x.vecMask &&& ~~~(BitVec.ofNat 16 (2 ^ n.val)) }
      | none => { x with funcMask := false }).msixFlush
  else d

/-- DW i of BAR4 (R163): the table, whose vector control words hold the mask bits, and the pending-bit array. -/
def Device.bar4Read (d : Device) (i : Nat) : Word :=
  if i < 64 then
    let w := (storeFind d.pcie.table i).getD 0
    if i % 4 = 3 then setBit w 0 (d.pcie.vecMask.getLsbD (i / 4)) else w
  else if i = 0x400 then d.pcie.pending.setWidth 32
  else 0

/-- A write of DW i of BAR4: the pending-bit array cannot be written. -/
def Device.bar4Write (d : Device) (i : Nat) (m v : Word) : Device :=
  if i < 64 then
    let w := mergeWord (d.bar4Read i) v m
    if i % 4 = 3 then
      (d.updPcie fun x => { x with
        vecMask := if bit w 0 then x.vecMask ||| BitVec.ofNat 16 (2 ^ (i / 4)) else x.vecMask &&& ~~~(BitVec.ofNat 16 (2 ^ (i / 4)))
        table := storeSet x.table i (setBit w 0 false) 0 }).msixFlush
    else d.updPcie fun x => { x with table := storeSet x.table i w 0 }
  else d

/-- Size of a BAR (R163). -/
def barSize : Bar → Nat
  | .bar0 => 0x1000000 | .bar2 => 0x2000000 | .bar4 => 0x2000

/-- Device address of byte offset o of BAR0 or BAR2, and the source of the access. -/
def barTarget (b : Bar) (o : Nat) : Nat × Source :=
  match b with
  | .bar2 => (o % 0x400000, .port .pcie (some (Fin.ofNat 8 (o / 0x400000))))
  | _ => (o, .port .pcie none)

/-- One DW access of a memory request, with the data read. -/
def Device.dwAccess (d : Device) (f : OtpArray) (bar : Bar) (write : Bool) (o : Nat) (w : Dw) : Device × Word :=
  if w.be = 0 then (d, 0)
  else if bar = .bar4 then
    if write then (d.bar4Write (o / 4) (byteMask w.be) w.data, 0) else (d, d.bar4Read (o / 4) &&& byteMask w.be)
  else
    let t := barTarget bar o
    if write then (d.writeWord f t.2 t.1 (byteMask w.be) w.data, 0)
    else
      let r := d.readWord t.2 t.1
      (r.2, r.1 &&& byteMask w.be)

/-- The page that shows UNALIGNED for a refused request: that of the lowest unaligned DW, or of the first DW of one that is too long (R164).
DESIGN CHOICE: a request that is both shows it on the page of its lowest unaligned DW. -/
def refusedAt (offset : Nat) (dws : List Dw) : Option Nat :=
  match dws.findIdx? fun w => w.be != 0 && !alignedBe w.be with
  | some i => some (offset + 4 * i)
  | none => if 16 < dws.length then some offset else none

/-- A memory request to register space reaches the fabric whole (R95, R97, R725). -/
def Device.barOpen (d : Device) (bar : Bar) (offset n : Nat) : Bool :=
  if bar = .bar4 then d.live && decide (5 ≤ d.boot.stage) && d.boot.stage != 0xE
  else (List.range n).all fun i => d.fabricOpen ((barTarget bar (offset + 4 * i)).1 / 0x1000)

/-- PAGE_ERR.UNALIGNED of the page at device address a, with the lease of an attributed access (R7, R137). -/
def Device.unaligned (d : Device) (src : Source) (a : Nat) : Device :=
  let d := d.renew (d.requester src)
  if (blockOf (a / 0x1000)).isSome then d.setErr (errPage (a / 0x1000)) errUnaligned else d

/-- Every DW of a request is a read that R109 leaves without effect. -/
def quietRequest (bar : Bar) (write : Bool) (o : Nat) (dws : List Dw) : Bool :=
  !write && bar != .bar4 && (List.range dws.length).all fun i =>
    let a := (barTarget bar (o + 4 * i)).1
    quietRead (a / 0x1000) (a % 0x1000)

/-- An inbound memory request (R161, R163, R164); the packets of reads that R109 leaves without effect are not counted. -/
def Device.memRequest (d : Device) (f : OtpArray) (bar : Bar) (write : Bool) (offset : Nat) (dws : List Dw) : Device :=
  let o := offset / 4 * 4
  if !d.pcieAnswers || decide (barSize bar < o + 4 * dws.length) || dws.isEmpty then d.complete .none []
  else
    let quiet := quietRequest bar write o dws
    let reply (d : Device) : Device := if quiet then d else d.tlpOut
    let d := if quiet then d else d.tlpIn
    let refuse (d : Device) : Device :=
      if write then (d.updPcie fun x => { x with aerCa := x.aerCa || !d.boot.clkFailed }).complete .none []
      else (reply d).complete .completerAbort []
    if !d.barOpen bar o dws.length then refuse d
    else
      match refusedAt o dws with
      | some a => refuse (if bar = .bar4 then d else d.unaligned (barTarget bar a).2 (barTarget bar a).1)
      | none =>
        let r := (List.range dws.length).foldl (fun (x : Device × List Word) i =>
          let y := x.1.dwAccess f bar write (o + 4 * i) (dws[i]?.getD { be := 0, data := 0 })
          (y.1, x.2 ++ [y.2])) (d, [])
        if write then r.1.complete .none [] else (reply r.1).complete .success r.2

/-- PERSTn (R86): low resets the endpoint, and each fall is counted. -/
def Device.perst (d : Device) (low : Bool) : Device :=
  if low = d.pcie.perstLow then d
  else
    let d := d.updPcie fun x => { x with perstLow := low }
    if low then
      ({ d with boot := { d.boot with perst := if d.boot.held || d.boot.clkFailed then d.boot.perst else satInc 255 d.boot.perst } } : Device).pcieReset
    else d

/-- The link is trained, or the function is back in D0: requests may be issued again (R167, R561, R590). -/
def Device.linkUp (d : Device) : Device :=
  if d.pcieAnswers then ((d.updPcie fun x => { x with d3hot := false }).linkSet true).msixFlush else d

/-! ## The register frame -/

/-- CMD of a frame. -/
def frameCmd (bs : List Byte) : Byte := bs[0]?.getD 0

/-- RNW of a frame; a frame without its CMD byte is of the kind that the event names. -/
def frameReads (dflt : Bool) (bs : List Byte) : Bool := if bs.isEmpty then dflt else (frameCmd bs).getLsbD 3

/-- Number of words of a frame. -/
def frameWords (bs : List Byte) : Nat := if bs.isEmpty then 0 else (frameCmd bs).toNat % 8 + 1

/-- ADDR of a frame. -/
def frameAddr (bs : List Byte) : Nat :=
  (bs[1]?.getD 0).toNat * 65536 + (bs[2]?.getD 0).toNat * 256 + (bs[3]?.getD 0).toNat

/-- The source that CTX names on port p (R168, R171). -/
def frameSource (p : HostPort) (bs : List Byte) : Source :=
  let c := (frameCmd bs).toNat / 16
  .port p (if h : c < 8 then some ⟨c, h⟩ else none)

/-- DATA of a write frame. -/
def frameData (bs : List Byte) : List Byte := (bs.drop 5).take (4 * frameWords bs)

/-- The limits of a transport: words (R173), bytes of a write and of a read response (R176), and whether the port answers NOT_READY. -/
structure FrameLimits where
  words : Nat
  mwl : Nat
  mrl : Nat
  notReady : Bool

/-- The result of a frame: the first failing condition in the order of R726, conditions 2 to 8, else 0. -/
def frameResult (l : FrameLimits) (reads : Bool) (bs : List Byte) : Nat :=
  let n := frameWords bs
  if bs.length < 5 then 4
  else if crc8 (bs.take 4) ≠ bs[4]?.getD 0 then 3
  else if l.notReady then 2
  else if l.words < n ∨ 0xFFFFFC < frameAddr bs + 4 * (n - 1) ∨ (if reads then l.mrl < 4 * n + 2 else l.mwl < 4 * n + 6) then 4
  else if frameAddr bs % 4 ≠ 0 then 1
  else if reads then 0
  else if bs.length < 4 * n + 6 then 4
  else if crc8 (frameData bs) ≠ bs[4 * n + 5]?.getD 0 then 3
  else 0

/-- The response of R172. -/
def frameResponse (lastWr res : Nat) (data : List Byte) : List Byte :=
  let s := BitVec.ofNat 8 (0x80 + 16 * lastWr + res) :: data
  s ++ [crc8 s]

/-- The words of a read frame, in ascending address order. -/
def Device.frameRead (d : Device) (src : Source) (a n : Nat) : List Byte × Device :=
  (List.range n).foldl (fun (x : List Byte × Device) i =>
    let r := x.2.readWord src (a + 4 * i)
    (x.1 ++ wordBytes r.1, r.2)) ([], d)

/-- The words of a write frame, in ascending address order (R170). -/
def Device.frameWrite (d : Device) (f : OtpArray) (src : Source) (a : Nat) (ws : List Word) : Device :=
  (List.range ws.length).foldl (fun (d : Device) i => d.writeWord f src (a + 4 * i) 0xFFFFFFFF (ws[i]?.getD 0)) d

/-- The pages of a frame whose access takes longer (R160, R178). -/
def frameSlow (bs : List Byte) : Bool :=
  (List.range (frameWords bs)).any fun i =>
    let p := (frameAddr bs + 4 * i) / 0x1000
    p == 0x044 || p == 0x300

/-- What a frame did: the device, the result, and for a read frame its response. -/
structure FrameRun where
  dev : Device
  res : Nat
  rsp : Option FrameRsp

/-- A frame with bytes bs on port p, judged and performed (R168 to R173, R726); lastWr is the port's LASTWR. -/
def Device.runFrame (d : Device) (f : OtpArray) (p : HostPort) (l : FrameLimits) (reads : Bool) (lastWr : Nat) (bs : List Byte) : FrameRun :=
  let res := frameResult l reads bs
  let n := frameWords bs
  let a := frameAddr bs
  let src := frameSource p bs
  let d := if res = 1 then d.unaligned src a else d
  if reads then
    let r := if res = 0 then d.frameRead src a n else (List.replicate (4 * n) 0, d)
    { dev := r.2, res := res, rsp := some { bytes := frameResponse lastWr res r.1, ready := !(res == 0 && frameSlow bs) } }
  else { dev := if res = 0 then d.frameWrite f src a (wordsOfBytes (frameData bs)) else d, res := res, rsp := none }

/-- Every page that a frame names answers (R95). -/
def Device.framePagesOpen (d : Device) (bs : List Byte) : Bool :=
  d.boot.stage != 0xE || (List.range (frameWords bs)).all fun i => bootPage ((frameAddr bs + 4 * i) / 0x1000)

/-! ## The SPI port -/

/-- The pattern of R195. -/
def spiResetPattern : List Byte := [0xFF, 0xFF, 0xFF, 0xFF]

/-- A frame on the SPI port (R161, R192 to R195, R725); lost says that SPI_CSn rose before the response was driven. DESIGN CHOICE: a write
frame in the state of R36 leaves LASTWR as it was. -/
def Device.spiFrame (d : Device) (f : OtpArray) (dflt : Bool) (bs : List Byte) (lost : Bool) : Device :=
  if d.boot.held || !d.powered then d
  else if bs = spiResetPattern then d.whenLive Device.spiReset
  else if !d.spi.enabled then d
  else
    let reads := frameReads dflt bs
    if !d.live then
      let res := if d.boot.clkFailed then 2 else frameResult { words := 8, mwl := 64, mrl := 64, notReady := true } reads bs
      let rsp : FrameRsp := { bytes := frameResponse d.spi.lastWr res (List.replicate (4 * frameWords bs) 0), ready := true }
      { d with spi := { d.spi with
        lastWr := if reads || d.boot.clkFailed then d.spi.lastWr else res
        rsp := if reads && !lost then some rsp else none } }
    else
      let l : FrameLimits := { words := 8, mwl := 64, mrl := 64, notReady := decide (d.boot.stage < 5) || !d.framePagesOpen bs }
      let r := d.runFrame f .spi l reads d.spi.lastWr bs
      { r.dev with spi := { r.dev.spi with
        lastWr := if reads then r.dev.spi.lastWr else r.res
        rsp := if lost then none else r.rsp } }

/-! ## The I3C targets -/

/-- The port record p changed by f. -/
def Device.updI3c (d : Device) (p : Fin 2) (f : I3cPort → I3cPort) : Device := { d with i3c := upd d.i3c p f }

/-- Port a or b as an index. -/
def busIdx : BusPort → Fin 2
  | .a => 0 | .b => 1

/-- Configuration word GLB_HPORTA or GLB_HPORTB. -/
def Device.hportCfg (d : Device) (p : Fin 2) : Word := d.reg (0x000070 + 4 * p.val)

/-- The port answers at its addresses: the clocks run, the call sheet is loaded or the boot has failed, and it is not disabled (R95, R97, R725). -/
def Device.busAnswers (d : Device) (p : Fin 2) : Bool := d.live && decide (5 ≤ d.boot.stage) && d.i3c[p].mode != .disabled

/-- A transfer that the port does not acknowledge. -/
def Device.busNack (d : Device) (p : Fin 2) : Device := d.updI3c p fun x => { x with acked := false, reply := [] }

/-- A transfer that the port acknowledges, with the bytes it returns. -/
def Device.busReply (d : Device) (p : Fin 2) (bs : List Byte) : Device := d.updI3c p fun x => { x with acked := true, reply := bs }

/-- f in I3C mode; otherwise the port does not answer (R184). -/
def Device.inI3c (d : Device) (p : Fin 2) (f : Device → Device) : Device :=
  if d.busAnswers p && d.i3c[p].mode == .i3c then f d else d.busNack p

/-- A broadcast CCC addressed to 0x7E: a port under AUTO in SMBus mode changes to I3C mode (R184). -/
def Device.modeSwitch (d : Device) (p : Fin 2) : Device :=
  if d.busAnswers p && d.i3c[p].modeCfg == 0 then d.updI3c p fun x => { x with mode := .i3c } else d

/-- A transfer of the port in I3C mode in the framing it came in (R177): SDR, which leaves HDR, or HDR-DDR with its command code, which
needs ENTHDR0 before it. -/
def Device.inFraming (d : Device) (p : Fin 2) (hdr : Option Byte) (code : Byte) (f : Device → Device) : Device :=
  d.inI3c p fun d =>
    match hdr with
    | none => f (d.updI3c p fun x => { x with hdr := false })
    | some y => if d.i3c[p].hdr && y == code then f d else d.busNack p

/-- A CCC that the port answers; a CCC is sent in SDR, so HDR has been left. -/
def Device.ccc (d : Device) (p : Fin 2) (f : I3cPort → I3cPort) (bs : List Byte := []) : Device :=
  d.inI3c p fun d => (d.updI3c p fun x => { f x with hdr := false }).busReply p bs

/-- Two bytes, most significant first. -/
def bytes2 (n : Nat) : List Byte := [BitVec.ofNat 8 (n / 256), BitVec.ofNat 8 n]

/-- The board position of the call sheet. -/
def Device.boardPos (d : Device) : Nat := bits (wordOf d.otp.bootVal (genBase d.boot.gen + 3)) 11 0

/-- PID of port p (R176), most significant byte first. -/
def Device.pid (d : Device) (p : Fin 2) : List Byte :=
  let m := Config.mipiId.toNat * 2
  bytes2 m ++ bytes2 0x9640 ++ bytes2 (p.val * 4096 + d.boardPos)

/-- The limits of a frame on a bus port: 8 words and its MWL and MRL in I3C mode (R176), 4 words in SMBus mode (R173, R186). -/
def I3cPort.limits (x : I3cPort) : FrameLimits :=
  let i3c := x.mode == .i3c
  { words := if i3c then 8 else 4, mwl := if i3c then x.mwl else 64, mrl := if i3c then x.mrl else 64, notReady := false }

/-- A frame on port p in the mode it is in (R158, R171, R173, R177, R186). -/
def Device.busFrame (d : Device) (f : OtpArray) (p : Fin 2) (dflt : Bool) (bs : List Byte) : Device :=
  if !d.framePagesOpen bs then d.busNack p
  else
    let x := d.i3c[p]
    let reads := frameReads dflt bs
    let r := d.runFrame f (busPort p) x.limits reads x.lastWr bs
    (r.dev.updI3c p fun x => { x with
      lastWr := if reads then x.lastWr else r.res
      rsp := if reads then r.rsp else x.rsp }).busReply p []

/-- A read of the latest response of port p (R177, R178). -/
def Device.busResponse (d : Device) (p : Fin 2) : Option (List Byte) :=
  match d.i3c[p].rsp with
  | none => some (frameResponse d.i3c[p].lastWr 5 [])
  | some r => if r.ready then some r.bytes else none

/-- A private read in I3C mode, or an HDR-DDR read with command code 0xC0 (R177). -/
def Device.privateRead (d : Device) (p : Fin 2) (hdr : Option Byte) : Device :=
  d.inFraming p hdr 0xC0 fun d => match d.busResponse p with
    | some bs => d.busReply p bs
    | none => d.busNack p

/-- A write or read frame as the bytes arrive on its port; in HDR-DDR it is a write with command code 0x40 (R177). -/
def Device.portFrame (d : Device) (f : OtpArray) (p : HostPort) (dflt : Bool) (hdr : Option Byte) (bs : List Byte) : Device :=
  match p with
  | .pcie => d
  | .i3cA => d.inFraming 0 hdr 0x40 fun d => d.busFrame f 0 dflt bs
  | .i3cB => d.inFraming 1 hdr 0x40 fun d => d.busFrame f 1 dflt bs
  | .spi => d.spiFrame f dflt bs false

/-- The pending response of a port becomes ready (R178, R193). -/
def Device.responseReady (d : Device) (p : HostPort) : Device :=
  let now (r : Option FrameRsp) : Option FrameRsp := r.map fun x => { x with ready := true }
  d.whenLive fun d => match p with
    | .pcie => d
    | .i3cA => d.updI3c 0 fun x => { x with rsp := now x.rsp }
    | .i3cB => d.updI3c 1 fun x => { x with rsp := now x.rsp }
    | .spi => { d with spi := { d.spi with rsp := now d.spi.rsp } }

/-- A port reset of p (R183, R185): its protocol state alone. -/
def Device.busPortReset (d : Device) (p : Fin 2) : Device := d.whenLive fun d => d.i3cReset p

/-- The port takes a dynamic address: not in the boot-failed state, where it answers only at its static one (R95). -/
def Device.addressable (d : Device) : Bool := d.boot.stage != 0xE

/-- ENTDAA (R174): a broadcast CCC; a port without a dynamic address takes one. -/
def Device.entdaa (d : Device) (p : Fin 2) (a : BitVec 7) : Device :=
  let d := d.modeSwitch p
  if d.addressable then d.ccc p fun x => { x with dyn := some (x.dyn.getD a) } else d.busNack p

/-- SETDASA (R175, R184): a port at its static address takes a dynamic one, and an AUTO port changes to I3C mode. -/
def Device.setdasa (d : Device) (p : Fin 2) (st a : BitVec 7) : Device :=
  if d.i3c[p].static = st ∧ d.i3c[p].dyn = none ∧ d.addressable then (d.modeSwitch p).ccc p fun x => { x with dyn := some a } else d.busNack p

/-- RSTDAA (R182): a broadcast CCC. -/
def Device.rstdaa (d : Device) (p : Fin 2) : Device := (d.modeSwitch p).ccc p fun x => { x with dyn := none }

/-- ENTHDR0: accepted while HDR_EN is 1. -/
def Device.enthdr0 (d : Device) (p : Fin 2) : Device :=
  let d := d.modeSwitch p
  if bit (d.hportCfg p) 7 then d.inI3c p fun d => (d.updI3c p fun x => { x with hdr := true }).busReply p [] else d

/-- The bus is available to a waiting in-band interrupt, which the controller accepts or refuses: a refused one is repeated at the next such
time (R179, R180). -/
def Device.ibi (d : Device) (p : Fin 2) (port : BusPort) (accepted : Bool) : Device :=
  let x := d.i3c[p]
  if d.busAnswers p && x.mode == .i3c && x.ibiWait && x.intEn && x.dyn.isSome && accepted then
    (d.updI3c p fun x => { x with ibiWait := false }).send (.ibi port (d.ibiMapNow p))
  else d

/-- The first bus-idle condition after a reset (R181). -/
def Device.hotJoinIdle (d : Device) (p : Fin 2) (port : BusPort) : Device :=
  let x := d.i3c[p]
  if d.busAnswers p && d.addressable && x.mode == .i3c && x.dyn.isNone && !x.hjDone && x.hjEn && bit (d.hportCfg p) 8 then
    (d.updI3c p fun x => { x with hjDone := true }).send (.hotJoin port)
  else d

/-- GETSTATUS: the spec does not give its content, which stays open. -/
def Device.getstatus (d : Device) (p : Fin 2) : Device :=
  d.inI3c p fun d =>
    let w := d.draw
    (w.2.updI3c p fun x => { x with hdr := false }).busReply p (bytes2 (w.1.toNat % 65536))

end Sys2Proof.Machine
end

