-- ==== Sys2Proof/Machine/Pmbus.lean ====
section
/-! DEFINITION. SMBus mode: the frame commands (R186) and PMBus (R185 to R191, R271, R348, R354, R383). -/

namespace Sys2Proof.Machine
open Sys2Proof

/-! ## Numbers (R190) -/

/-- A value in ULINEAR16 with exponent −12 as a code of 0.25 mV, to the nearest step. -/
def codeOfU16 (v : BitVec 16) : Nat := (roundNear ((v.toNat : Int) * 125) 128).toNat

/-- A code of 0.25 mV in ULINEAR16 with exponent −12. -/
def u16OfCode (c : Nat) : Nat := (roundOpen ((c : Int) * 128) 125).toNat % 65536

/-- 2 to the power e. -/
def twoTo (e : Int) : Rat := if 0 ≤ e then ((2 ^ e.toNat : Nat) : Rat) else 1 / ((2 ^ (-e).toNat : Nat) : Rat)

/-- The value of a LINEAR11 word. -/
def ofLinear11 (w : BitVec 16) : Rat :=
  let e := sbits (w.setWidth 32) 15 11
  (sbits (w.setWidth 32) 10 0 : Rat) * twoTo e

/-- x as a LINEAR11 word: the smallest exponent for which the mantissa, rounded to nearest, lies within −1,024 to 1,023. -/
def toLinear11 (x : Rat) : Nat :=
  match (List.range 32).find? fun (i : Nat) =>
    let m := ratNear (x / twoTo ((i : Int) - 16))
    decide (-1024 ≤ m ∧ m ≤ 1023) with
  | some i => toField 5 ((i : Int) - 16) * 2048 + toField 11 (ratNear (x / twoTo ((i : Int) - 16)))
  | none => 0x7FFF

/-- A word as PMBus sends it, low byte first. -/
def word2 (n : Nat) : List Byte := [BitVec.ofNat 8 n, BitVec.ofNat 8 (n / 256)]

/-- A block read: the count, and the bytes. -/
def blockBytes (l : List Byte) : List Byte := BitVec.ofNat 8 l.length :: l

/-! ## Transfers -/

/-- Bits of STATUS_CML set on port p. -/
def Device.setCml (d : Device) (p : Fin 2) (i : Nat) : Device :=
  d.updI3c p fun x => { x with cml := x.cml ||| BitVec.ofNat 8 (2 ^ i) }

/-- f in SMBus mode; otherwise the port does not answer (R161, R184). -/
def Device.inSmbus (d : Device) (p : Fin 2) (f : Device → Device) : Device :=
  if d.busAnswers p && d.i3c[p].mode == .smbus then f d else d.busNack p

/-- The PEC rule (R185, R191): a wrong PEC discards the command with bit 5, a missing one is rejected while PEC_REQ is 1. -/
def Device.withPec (d : Device) (p : Fin 2) (pec : Pec) (f : Device → Device) : Device :=
  match pec with
  | .bad => (d.setCml p 5).busReply p []
  | .absent => if bit (d.hportCfg p) 9 then d.busReply p [] else f d
  | .good => f d

/-- FRAME_WRITE (R186). -/
def Device.smbFrame (d : Device) (f : OtpArray) (x : SmbXfer) (bs : List Byte) : Device :=
  let p := busIdx x.port
  d.inSmbus p fun d => d.withPec p x.pec fun d => d.busFrame f p false bs

/-- FRAME_READ (R186). -/
def Device.smbResponse (d : Device) (x : SmbXfer) : Device :=
  let p := busIdx x.port
  d.inSmbus p fun d => d.withPec p x.pec fun d =>
    match d.busResponse p with
    | some bs => d.busReply p (blockBytes bs)
    | none => d.busNack p

/-- The port's PMBus context, opened when it has none (R187). HCX_OPENRES records only writes of HCX_OPEN. DESIGN CHOICE: a PMBUS_PRIV that
changes while the context is open acts at its next opening. -/
def Device.pmOpen (d : Device) (p : Fin 2) : Device :=
  match d.i3c[p].pmCtx with
  | some _ => d
  | none =>
    let r := d.ctxOpenOn (busPort p) true 0 (let c := bits (d.hportCfg p) 11 10; if c = 1 then 1 else 0)
    ({ r.1 with openRes := d.openRes } : Device).updI3c p fun x => { x with pmCtx := r.2 }

/-- The source of the port's PMBus accesses. -/
def Device.pmSource (d : Device) (p : Fin 2) : Source := .port (busPort p) d.i3c[p].pmCtx

/-- A PMBus command that the port supports (R46, R187): the core interprets it, in the port's context, whose lease it renews. DESIGN CHOICE:
a command that the PEC rule discards, or whose code is not supported, neither opens the context nor renews its lease. -/
def Device.pmCommand (d : Device) (x : SmbXfer) (f : Fin 2 → Source → Device → Device) : Device :=
  let p := busIdx x.port
  d.inSmbus p fun d =>
    if !d.boot.coreUp || d.boot.stage != 7 then d.busNack p
    else d.withPec p x.pec fun d =>
      let d := d.pmOpen p
      let src := d.pmSource p
      f p src (d.renew (d.requester src))

/-- The loops that PAGE addresses for a write (R188). -/
def Device.pmLoops (d : Device) (p : Fin 2) : List (Fin 16) :=
  if d.i3c[p].pmPage = 0xFF then List.finRange 16 else [Fin.ofNat 16 d.i3c[p].pmPage.toNat]

/-- A PMBus write (R187, R191): discarded without a context; what a loop refuses sets bit 6. DESIGN CHOICE: with PAGE 0xFF each loop is
judged alone, and a loop that refuses does not keep the others from changing. -/
def Device.pmWrite (d : Device) (x : SmbXfer) (g : Source → Fin 16 → Device → Device × Bool) : Device :=
  d.pmCommand x fun p src d =>
    if d.i3c[p].pmCtx.isNone then (d.setCml p 1).busReply p []
    else
      let r := (d.pmLoops p).foldl (fun (y : Device × Bool) n =>
        let z := g src n y.1
        (z.1, y.2 && z.2)) (d, true)
      (if r.2 then r.1 else r.1.setCml p 6).busReply p []

/-- A PMBus read of a loop (R188): refused with bit 6 for PAGE 0xFF. -/
def Device.pmRead (d : Device) (x : SmbXfer) (g : Fin 16 → Device → List Byte × Device) : Device :=
  d.pmCommand x fun p _ d =>
    if d.i3c[p].pmPage = 0xFF then (d.setCml p 6).busReply p []
    else
      let r := g (Fin.ofNat 16 d.i3c[p].pmPage.toNat) d
      r.2.busReply p r.1

/-- A PMBus read of the port: R188 refuses it too for PAGE 0xFF. -/
def Device.pmPortRead (d : Device) (x : SmbXfer) (g : I3cPort → List Byte) : Device :=
  d.pmCommand x fun p _ d =>
    if d.i3c[p].pmPage = 0xFF then (d.setCml p 6).busReply p [] else d.busReply p (g d.i3c[p])

/-! ## Fields of the loop registers -/

/-- A write of v to field [hi:lo] of the register at offset o of loop n, as src: none of it where a check of R130 or of the register fails or
the value is outside the register's range (R191, R352). A value that no write of the register can carry, or that the register would
replace by its nearest limit, sets no bit of PAGE_ERR (DESIGN CHOICE). -/
def Device.pmField (d : Device) (f : OtpArray) (src : Source) (n : Fin 16) (o hi lo : Nat) (v : Int) : Device × Bool :=
  let p := loopPage n
  let a := pageAddr p o
  let m := fieldMask hi lo
  if v < 0 ∨ (2 ^ (hi + 1 - lo) : Nat) ≤ v then (d, false)
  else
    let w := setBits (d.reg a) hi lo v.toNat
    if clampWord p o w ≠ w then (d, false)
    else (d.writePlain f src a m w, (d.writeBad src a m w).isNone && d.loopWriteOk n o w m)

/-- A voltage written to a set-point or a limit. -/
def Device.pmVolts (d : Device) (f : OtpArray) (src : Source) (n : Fin 16) (o hi lo : Nat) (v : BitVec 16) : Device × Bool :=
  d.pmField f src n o hi lo (codeOfU16 v)

/-- A voltage read from a set-point or a limit. -/
def Device.pmVoltsAt (d : Device) (n : Fin 16) (o hi lo : Nat) : List Byte := word2 (u16OfCode (bits (d.lreg n o) hi lo))

/-- FREQUENCY_SWITCH (R271): the shadow PERIOD, and a commit. -/
def Device.pmFrequency (d : Device) (f : OtpArray) (src : Source) (n : Fin 16) (v : BitVec 16) : Device × Bool :=
  let x := ofLinear11 v
  if x ≤ 0 then (d, false)
  else
    let t := ratNear (32000000 / x)
    if t < 8000 ∨ 160000 < t then (d, false)
    else
      let r := d.pmField f src n 0x070 17 0 t
      if r.2 then (r.1.writePlain f src (pageAddr (loopPage n) 0x094) 0xFFFFFFFF 1, (r.1.writeBad src (pageAddr (loopPage n) 0x094) 0xFFFFFFFF 1).isNone)
      else r

/-- The write of word w at address a that is part of a PMBus write, where ok; else only what its own refusal records. -/
def Device.pmWhole (d : Device) (f : OtpArray) (src : Source) (ok : Bool) (a : Nat) (w : Word) : Device :=
  if ok || (d.writeBad src a 0xFFFFFFFF w).isSome then d.writePlain f src a 0xFFFFFFFF w else d

/-- A request OP op for rail n as SEQ_RAILREQ takes it. -/
def railReqWord (n : Fin 16) (op : Nat) : Word := field 31 29 op ||| field 6 0 n.val

/-- OPERATION for loop n (R383): VSEL first where the code names one, whatever becomes of the rest; then, unless that write failed a check
(R191), a request for rail n through SEQ_RAILREQ. -/
def Device.pmOperation (d : Device) (f : OtpArray) (src : Source) (n : Fin 16) (vsel : Option Nat) (op : Nat) : Device × Bool :=
  let a := 0x03004C
  let w := railReqWord n op
  let r := match vsel with
    | some v => d.pmField f src n 0x040 1 0 v
    | none => (d, true)
  if r.2 then (r.1.writePlain f src a 0xFFFFFFFF w, (r.1.writeBad src a 0xFFFFFFFF w).isNone) else r

/-- CLEAR_FAULTS for loop n (R348, R383): every W1C bit of LOOPn_FLT, and OP 4 for the rail; neither where either fails a check (R191). -/
def Device.pmClear (d : Device) (f : OtpArray) (src : Source) (n : Fin 16) : Device × Bool :=
  let a := pageAddr (loopPage n) 0x0D8
  let ok := (d.writeBad src a 0xFFFFFFFF 0xFFFFFFFF).isNone && (d.writeBad src 0x03004C 0xFFFFFFFF (railReqWord n 4)).isNone
  ((d.pmWhole f src ok a 0xFFFFFFFF).pmWhole f src ok 0x03004C (railReqWord n 4), ok)

/-- VSEL and OP of the OPERATION values that R189 accepts. -/
def operationOf (v : Byte) : Option (Option Nat × Nat) :=
  match v.toNat with
  | 0x00 => some (none, 3) | 0x40 => some (none, 2) | 0x80 => some (some 0, 1) | 0x98 => some (some 1, 1) | 0xA8 => some (some 2, 1)
  | _ => none

/-- OPERATION (R189, R383): a read answers the last value accepted for the loop (DESIGN CHOICE: the spec does not say what it answers), a
write of another value than the five is refused. -/
def Device.pmOperationByte (d : Device) (f : OtpArray) (x : SmbXfer) (data : Option Byte) : Device :=
  match data with
  | none => d.pmRead x fun n d => ([(d.lp n).oper], d)
  | some v =>
    d.pmWrite x fun src n d =>
      match operationOf v with
      | none => (d, false)
      | some y =>
        let r := d.pmOperation f src n y.1 y.2
        if r.2 then (r.1.updLp n fun l => { l with oper := v }, true) else r

/-! ## Status (R354) -/

/-- STATUS_VOUT of loop n. -/
def Device.statusVout (d : Device) (n : Fin 16) : Nat :=
  let w := (d.lp n).flt
  128 * b2n (bit w 0) + 64 * b2n (bit w 17 || bit w 16) + 32 * b2n (bit w 18) + 16 * b2n (bit w 1) + 4 * b2n (bit w 4 || bit w 5)

/-- STATUS_IOUT of loop n. -/
def Device.statusIout (d : Device) (n : Fin 16) : Nat :=
  let w := (d.lp n).flt
  128 * b2n (bit w 2 || bit w 3) + 32 * b2n (bit w 19)

/-- STATUS_TEMPERATURE of loop n. -/
def Device.statusTemp (d : Device) (n : Fin 16) : Nat :=
  let w := (d.lp n).flt
  128 * b2n (bit w 7) + 64 * b2n (bit w 20)

/-- STATUS_BYTE of loop n, with the STATUS_CML of the port. -/
def Device.statusByte (d : Device) (n : Fin 16) (cml : Byte) : Nat :=
  let w := (d.lp n).flt
  64 * b2n ((d.lp n).st != .run) + 32 * b2n (bit w 0) + 16 * b2n (bit w 2 || bit w 3) + 4 * b2n (bit w 7 || bit w 20) +
  2 * b2n (cml != 0) + b2n (bit w 6 || bit w 8 || bit w 21)

/-- STATUS_WORD of loop n. -/
def Device.statusWord (d : Device) (n : Fin 16) (cml : Byte) : Nat :=
  let w := (d.lp n).flt
  32768 * b2n (d.statusVout n != 0) + 16384 * b2n (d.statusIout n != 0) + 4096 * b2n (bit w 6 || bit w 21) +
  2048 * b2n (!bit (d.loopStateWord n) 31) + d.statusByte n cml

/-- The temperature of the hottest live stage of loop n (R189); where there is none the value stays open. -/
def Device.pmTemperature (d : Device) (n : Fin 16) : List Byte × Device :=
  match d.hottestOf (d.phasesOf n (·.st == .live)) with
  | some t => (word2 (toLinear11 ((t : Rat) / 16)), d)
  | none =>
    let w := d.draw
    (word2 (w.1.toNat % 65536), w.2)

/-- The command codes of R189, with 0xE0 and 0xE1. -/
def pmCodes : List Nat :=
  [0x00, 0x01, 0x03, 0x20, 0x21, 0x24, 0x25, 0x26, 0x27, 0x28, 0x33, 0x40, 0x44, 0x46, 0x4F, 0x78, 0x79, 0x7A, 0x7B, 0x7D, 0x7E, 0x8B, 0x8C,
   0x8D, 0x96, 0x98, 0x99, 0x9A, 0xE0, 0xE1]

/-- A command code that is not supported: not acknowledged at its command byte, with bit 7 (R189). -/
def Device.pmUnsupported (d : Device) (x : SmbXfer) (code : Byte) : Device :=
  let p := busIdx x.port
  if pmCodes.contains code.toNat then d
  else d.inSmbus p fun d => (d.setCml p 7).busNack p

/-- PAGE (R188): a write of another value than 0 to 15 and 0xFF is refused. -/
def Device.pmPageCommand (d : Device) (x : SmbXfer) (write : Option Byte) : Device :=
  match write with
  | none => d.pmPortRead x fun y => [y.pmPage]
  | some b =>
    d.pmCommand x fun p _ d =>
      if d.i3c[p].pmCtx.isNone then (d.setCml p 1).busReply p []
      else if b.toNat < 16 ∨ b = 0xFF then (d.updI3c p fun y => { y with pmPage := b }).busReply p []
      else (d.setCml p 6).busReply p []

/-- A read or write of a word of a loop. -/
def Device.pmWord (d : Device) (x : SmbXfer) (write : Option (BitVec 16)) (rd : Fin 16 → Device → List Byte)
    (wr : Source → Fin 16 → Device → BitVec 16 → Device × Bool) : Device :=
  match write with
  | none => d.pmRead x fun n d => (rd n d, d)
  | some v => d.pmWrite x fun src n d => wr src n d v

end Sys2Proof.Machine
end

