-- ==== Sys2Proof/Machine/Tick.lean ====
section
/-! DEFINITION. One ADC cycle without a command: the timestamp (R612, R652, R653), the accumulators (R647), the buckets of the rings (R588) and the
counters of cycles, slots and occupancies (R633, R638, R639). DESIGN CHOICE: the step on an empty queue. -/

namespace Sys2Proof.Machine
open Sys2Proof

/-- The timestamp ts after one ADC cycle whose number is c: held back by a step, or slewed in one cycle of 1,024 (R652, R653). -/
def Syn.tick (x : Syn) (c ts : Nat) : Syn × Nat :=
  let x := { x with tsPrev := ts }
  if 0 < x.hold then ({ x with hold := x.hold - 1 }, ts)
  else if c % 1024 = 0 ∧ 0 < x.slew then ({ x with slew := x.slew - 1 }, (ts + 2) % 2 ^ 64)
  else if c % 1024 = 0 ∧ x.slew < 0 then ({ x with slew := x.slew + 1 }, ts)
  else (x, (ts + 1) % 2 ^ 64)

/-- The term of E of loop n in this cycle: the telemetry conversion times I_OUT, 0.5 W units (R616, R647). -/
def Device.energyTerm (d : Device) (n : Fin 16) : Nat :=
  let s := (d.lp n).sense
  (ratOpen (d.loopMicrovolts n s.raw * (max 0 s.iOut) / 512000000)).toNat

/-- The term of Q of loop n: I_OUT in 0.125 A units. -/
def Device.chargeTerm (d : Device) (n : Fin 16) : Nat := (roundOpen (max 0 (d.lp n).sense.iOut) 128).toNat

/-- The accumulators take one term (R647). -/
def Device.accumulate (d : Device) : Device :=
  d.updTlm fun t => { t with
    energy := mapFin t.energy fun n e => (e + d.energyTerm n) % 2 ^ 64
    charge := mapFin t.charge fun n q => (q + d.chargeTerm n) % 2 ^ 64
    phCharge := mapFin t.phCharge fun k q => (q + toField 64 (d.ph k).cur) % 2 ^ 64 }

/-- The bucket of every ring gains RATE / 16 bytes in each of the two FAB cycles, up to 256 bytes (R588). -/
def Device.fillBuckets (d : Device) : Device :=
  d.updDma fun y => { y with ring := mapFin y.ring fun r x => { x with tokens := min 4096 (x.tokens + 2 * bits (d.rcfg r) 8 0) } }

/-- What the performance counters count in two FAB cycles in which nothing else happens, with the four compensator slots that the wheel passes
(R259, R638, R639). -/
def Device.countCycle (d : Device) : Device :=
  let d := (d.pmcCountAll 0x01 2).passSlots
  let d := (d.pmcOccupancy 0x24 none d.burstCount 2).pmcOccupancy 0x28 none (d.evc.src.toList.filter (·.pend)).length 2
  foldFin 8 (fun (d : Device) c => d.pmcOccupancy 0x32 (some c.val) (d.tlm.sch[c].fifo.length / 32) 2) d

/-- The periods of the loops and the off-times of the phases advance by one ADC cycle (R226, R204). -/
def Device.agePulses (d : Device) : Device :=
  { d with
    loop := d.loop.map fun (l : Loop) => { l with perPos := l.perPos + 256 }
    phase := d.phase.map fun (p : Phase) => { p with offAge := min 256 (p.offAge + 1) } }

/-- The latches of GLB_RSTCAUSE have been loaded for one more ADC-cycle time, whatever clocks run (R87). -/
def Device.ageCauses (d : Device) : Device :=
  { d with ao := { d.ao with firstAge := min 13 (d.ao.firstAge + 1), instAge := min 13 (d.ao.instAge + 1) } }

/-- Leases that ran out 1 ms ago have expired by now (R138). -/
def Device.leasesOverdue (d : Device) (f : OtpArray) : Device :=
  foldFin 8 (fun (d : Device) n => if d.leaseOverdue n then d.leaseExpiry f n else d) d

/-- One ADC cycle; while the PLL clocks do not run only the latches of the AO domain age. -/
def Device.tick (d : Device) (f : OtpArray) : Device :=
  let d := d.ageCauses
  if d.live then
    let x := d.syn.tick (d.cycle + 1) d.ts
    let d : Device := { d with cycle := d.cycle + 1, ts := x.2, syn := x.1 }
    ((((d.accumulate).fillBuckets).countCycle.agePulses).leasesOverdue f).safeSettle
  else d

end Sys2Proof.Machine
end

