-- ==== Sys2Proof/Machine/BootCommands.lean ====
section
/-! DEFINITION. The meanings of the commands of supplies, clocks, resets and boot (chapter Supplies, Reset and Boot), and of the register model: writes, contexts, claims and page headers. -/

namespace Sys2Proof.Machine
open Sys2Proof

/-- A device effect as the outcome of a command. -/
def State.onDev (s : State) (g : Device → Device) : Host.Outcome State Fault Refusal := .next { s with dev := g s.dev }

/-- An effect on the device and the one-time-programmable array. -/
def State.onBoth (s : State) (g : Device → OtpArray → Device × OtpArray) : Host.Outcome State Fault Refusal :=
  let r := g s.dev s.fuses
  .next { s with dev := r.1, fuses := r.2 }

/-- A register write as a command. -/
def State.bus (s : State) (src : Source) (addr : Nat) (be : BitVec 4) (v : Word) (x : WriteInfo := {}) :
    Host.Outcome State Fault Refusal := s.onDev fun d => d.busWrite s.fuses src addr be v x

/-- A register read as a command. -/
def State.read (s : State) (src : Source) (addr : Nat) : Host.Outcome State Fault Refusal := s.onDev fun d => d.busRead src addr

/-- An event of the blocks that the call sheet configures: it occurs while the clocks run, from boot stage 5 on. -/
def Device.inService (d : Device) (f : Device → Device) : Device := if d.hupRuns then f d else d

/-- PAGE_CTL of page p with SRST 0. -/
def Device.ctlWord (d : Device) (p : Fin 256) : Word := setBit (d.head p).ctl 1 false

/-- DOMAIN_POR_ASSERT. R82, R83, R25: the POR of dom asserts; a required domain takes the device into reset. -/
def execDomainPorAssert (dom : Domain) (s : State) : Host.Outcome State Fault Refusal :=
  s.onBoth fun d f => d.porAssert f dom

/-- DOMAIN_POR_RELEASE. R82: the POR of dom releases. -/
def execDomainPorRelease (dom : Domain) (s : State) : Host.Outcome State Fault Refusal :=
  s.onDev fun d => d.porRelease dom

/-- DEVICE_RESET_ENTRY. R83, R84: device reset is entered for a missing domain or a pending request. -/
def execDeviceResetEntry (s : State) : Host.Outcome State Fault Refusal :=
  s.onDev fun d => d.resetEntry

/-- DEVICE_RESET_RELEASE. R27, R61, R90: device reset releases; s0 to s2 are the three samples of the straps in GLB_STRAP order. -/
def execDeviceResetRelease (s0 : BitVec 4) (s1 : BitVec 4) (s2 : BitVec 4) (s : State) : Host.Outcome State Fault Refusal :=
  s.onDev fun d => d.resetRelease s0 s1 s2

/-- PLL_LOCK. R34, R90: the PLL reports lock. -/
def execPllLock (s : State) : Host.Outcome State Fault Refusal :=
  s.onDev fun d => d.lock

/-- PLL_LOCK_TIMEOUT. R91: 5 ms without lock. -/
def execPllLockTimeout (s : State) : Host.Outcome State Fault Refusal :=
  s.onBoth fun d f => d.lockTimeout f

/-- CLOCK_FAILURE. R35 to R37: the supervisor declares clock failure. -/
def execClockFailure (s : State) : Host.Outcome State Fault Refusal :=
  s.onBoth fun d f => d.clockFailure f

/-- TRIM_LOAD. R664, R93: the trim section is judged. -/
def execTrimLoad (s : State) : Host.Outcome State Fault Refusal :=
  s.onDev fun d => d.trimLoad s.fuses

/-- OTP_BOOT_SCAN_COMPLETE. R660: the boot scan ends. -/
def execOtpBootScanComplete (s : State) : Host.Outcome State Fault Refusal :=
  s.onDev fun d => d.bootScan s.fuses

/-- GENERATION_SELECT. R92, R95: the loader selects the generation. -/
def execGenerationSelect (s : State) : Host.Outcome State Fault Refusal :=
  s.onDev fun d => d.generationSelect

/-- CALL_SHEET_LOAD. R669: the call sheet is loaded. -/
def execCallSheetLoad (s : State) : Host.Outcome State Fault Refusal :=
  s.onDev fun d => d.callSheetLoad

/-- PATCH_INSTALL. R672, R96: patches are installed and the core released. -/
def execPatchInstall (s : State) : Host.Outcome State Fault Refusal :=
  s.onDev fun d => d.patchEvent

/-- JTAG_CORE_RELEASE. R96: JTAG releases the core. -/
def execJtagCoreRelease (s : State) : Host.Outcome State Fault Refusal :=
  s.onDev fun d => d.jtagRelease

/-- FIRST_THERMAL_SCAN_COMPLETE. R90: the first thermal scan completes. -/
def execFirstThermalScanComplete (s : State) : Host.Outcome State Fault Refusal :=
  s.onDev fun d => d.firstScan

/-- AUTO_START. R99, R100: the auto-start conditions are judged. -/
def execAutoStart (s : State) : Host.Outcome State Fault Refusal :=
  s.onDev fun d => d.autoStart

/-- CORE_INIT_COMPLETE. R90: the core is initialised; challenges are what it queues for each watchdog. -/
def execCoreInitComplete (challenges : Vector (List (BitVec 16)) 9) (s : State) : Host.Outcome State Fault Refusal :=
  s.onDev fun d => d.coreInit challenges

/-- GLB_DEVRST_WRITE. R89: a write of GLB_DEVRST. -/
def execGlbDevrstWrite (src : Source) (data : Word) (s : State) : Host.Outcome State Fault Refusal :=
  s.bus src (0x00006C) 0xF (data)

/-- DEVICE_RESET_DEFERRED. R85: the pulse that held a requested device reset back has ended. -/
def execDeviceResetDeferred (s : State) : Host.Outcome State Fault Refusal :=
  s.onDev fun d => if d.boot.request.isSome then d.resetEntry else d

/-- JTAG_DEVICE_RESET. R84: the JTAG device reset instruction. -/
def execJtagDeviceReset (s : State) : Host.Outcome State Fault Refusal :=
  s.onDev fun d => d.jtagReset

/-- TAP_RESET. R84: TRSTn or five TMS cycles. -/
def execTapReset (s : State) : Host.Outcome State Fault Refusal :=
  s.onDev fun d => d.tapHold

/-- RSTCAUSE_CLEAR. R88: a W1C write of GLB_RSTCAUSE. -/
def execRstcauseClear (src : Source) (be : BitVec 4) (data : Word) (s : State) : Host.Outcome State Fault Refusal :=
  s.bus src (0x000064) be (data)

/-- REGISTER_WRITE. R130: a register write; addr is the byte address, its low two bits taken from the byte enables. -/
def execRegisterWrite (src : Source) (addr : BitVec 24) (be : BitVec 4) (data : Word) (s : State) : Host.Outcome State Fault Refusal :=
  s.bus src (addr.toNat) be (data)

/-- HCX_OPEN. R133: a write of HCX_OPEN. -/
def execHcxOpen (src : Source) (data : Word) (s : State) : Host.Outcome State Fault Refusal :=
  s.bus src (0x001040) 0xF (data)

/-- HCX_CLOSE. R135: a write of HCX_CLOSE. -/
def execHcxClose (src : Source) (data : Word) (s : State) : Host.Outcome State Fault Refusal :=
  s.bus src (0x001048) 0xF (data)

/-- HCX_EVICT. R135: a write of HCX_EVICT. -/
def execHcxEvict (src : Source) (data : Word) (s : State) : Host.Outcome State Fault Refusal :=
  s.bus src (0x00104C) 0xF (data)

/-- HCX_LEASE_WRITE. R137: a write of HCX_CTXn_LEASE. -/
def execHcxLeaseWrite (src : Source) (n : Fin 8) (be : BitVec 4) (data : Word) (s : State) : Host.Outcome State Fault Refusal :=
  s.bus src (0x001084 + 16 * n.val) be (data)

/-- LEASE_EXPIRY. R138: the lease of context n runs out. -/
def execLeaseExpiry (n : Fin 8) (s : State) : Host.Outcome State Fault Refusal :=
  s.onDev fun d => d.whenLive fun d => d.leaseExpiry s.fuses n

/-- CONTEXT_QUARANTINE. R146: the ring pauses of the ending context are complete. -/
def execContextQuarantine (n : Fin 8) (s : State) : Host.Outcome State Fault Refusal :=
  s.onDev fun d => d.whenLive fun d => d.ctxQuarantine n

/-- CONTEXT_FREE. R146: 10 ms in QUARANTINE have passed. -/
def execContextFree (n : Fin 8) (s : State) : Host.Outcome State Fault Refusal :=
  s.onDev fun d => d.whenLive fun d => d.ctxFree n

/-- CLAIM_REQUEST. R141: a write of PAGE_OWNER with CLAIMED at 1. -/
def execClaimRequest (src : Source) (page : Fin 256) (data : Word) (s : State) : Host.Outcome State Fault Refusal :=
  s.bus src (pageAddr page.val 0x018) 0xF (setBit (setBit data 8 true) 10 false)

/-- CLAIM_RELEASE. R145: a write of PAGE_OWNER with RELEASE at 1. -/
def execClaimRelease (src : Source) (page : Fin 256) (data : Word) (s : State) : Host.Outcome State Fault Refusal :=
  s.bus src (pageAddr page.val 0x018) 0xF (setBit (setBit data 10 true) 8 false)

/-- OWNER_POLICY_WRITE. R120: a write of PAGE_OWNER with CLAIMED and RELEASE at 0. -/
def execOwnerPolicyWrite (src : Source) (page : Fin 256) (be : BitVec 4) (data : Word) (s : State) : Host.Outcome State Fault Refusal :=
  s.bus src (pageAddr page.val 0x018) be (setBit (setBit data 10 false) 8 false)

/-- CLAIM_ARBITRATION. R143: one round of the claim arbiter. -/
def execClaimArbitration (s : State) : Host.Outcome State Fault Refusal :=
  s.onDev fun d => d.whenLive fun d => d.claimRound s.fuses

/-- PAGE_LOCK_WRITE. R124: a write of PAGE_LOCK.ADMIN. -/
def execPageLockWrite (src : Source) (page : Fin 256) (lock : Bool) (s : State) : Host.Outcome State Fault Refusal :=
  s.bus src (pageAddr page.val 0x01C) 0xF (flag 0 lock)

/-- PAGE_FREEZE_WRITE. R117: a write of PAGE_CTL.FREEZE that keeps the other fields. -/
def execPageFreezeWrite (src : Source) (page : Fin 256) (freeze : Bool) (s : State) : Host.Outcome State Fault Refusal :=
  s.bus src (pageAddr page.val 0x008) 0xF (setBit (s.dev.ctlWord page) 2 freeze)

/-- BLOCK_SOFT_RESET. R84: a write of 1 to PAGE_CTL.SRST that keeps the other fields. -/
def execBlockSoftReset (src : Source) (page : Fin 256) (s : State) : Host.Outcome State Fault Refusal :=
  s.bus src (pageAddr page.val 0x008) 0xF (setBit (s.dev.ctlWord page) 1 true)

end Sys2Proof.Machine
end

