-- ==== Sys2Proof/Machine/PortCommands.lean ====
section
/-! DEFINITION. The meanings of the commands of the host ports (chapter Host Ports): PCIe, register frames, I3C, SMBus and PMBus. -/

namespace Sys2Proof.Machine
open Sys2Proof

/-- PCIE_MEM_REQUEST. R164: an inbound memory request; offset is the DW-aligned byte offset in the BAR. -/
def execPcieMemRequest (bar : Bar) (write : Bool) (offset : Nat) (dws : List Dw) (s : State) : Host.Outcome State Fault Refusal :=
  s.onDev fun d => d.memRequest s.fuses bar write offset dws

/-- PCIE_CONFIG_REQUEST. R161: a configuration request for DW reg, a read when write is none. -/
def execPcieConfigRequest (reg : Fin 1024) (write : Option Dw) (s : State) : Host.Outcome State Fault Refusal :=
  s.onDev fun d => d.configRequest reg write

/-- PCIE_FUNDAMENTAL_RESET. R86: PERSTn goes low (true) or high again (false). -/
def execPcieFundamentalReset (low : Bool) (s : State) : Host.Outcome State Fault Refusal :=
  s.onDev fun d => d.perst low

/-- PCIE_HOT_RESET. R48: hot reset, link down or FLR. -/
def execPcieHotReset (s : State) : Host.Outcome State Fault Refusal :=
  s.onDev fun d => d.hotReset

/-- PCIE_LINK_UP. R561: the endpoint may issue requests again. -/
def execPcieLinkUp (s : State) : Host.Outcome State Fault Refusal :=
  s.onDev fun d => d.linkUp

/-- PCIE_D3HOT_ENTER. R167: the function enters D3hot. -/
def execPcieD3hotEnter (s : State) : Host.Outcome State Fault Refusal :=
  s.onDev fun d => d.d3hotEnter

/-- MSIX_ENABLE. R165: the host writes MSI-X Enable and Function Mask. -/
def execMsixEnable (en : Bool) (funcMask : Bool) (s : State) : Host.Outcome State Fault Refusal :=
  s.onDev fun d => d.msixEnable en funcMask

/-- MSIX_UNMASK. R166: the mask of vector v, or the Function Mask, is cleared. -/
def execMsixUnmask (v : Option (Fin 16)) (s : State) : Host.Outcome State Fault Refusal :=
  s.onDev fun d => d.msixUnmask v

/-- WRITE_FRAME. R170: a write frame as its bytes arrive. -/
def execWriteFrame (p : HostPort) (frame : FrameIn) (s : State) : Host.Outcome State Fault Refusal :=
  s.onDev fun d => d.portFrame s.fuses p false frame.hdr frame.bytes

/-- READ_FRAME. R172: a read frame as its bytes arrive. -/
def execReadFrame (p : HostPort) (frame : FrameIn) (s : State) : Host.Outcome State Fault Refusal :=
  s.onDev fun d => d.portFrame s.fuses p true frame.hdr frame.bytes

/-- READ_RESPONSE_READY. R178: the pending response becomes ready. -/
def execReadResponseReady (p : HostPort) (s : State) : Host.Outcome State Fault Refusal :=
  s.onDev fun d => d.responseReady p

/-- I3C_PRIVATE_READ. R177: a private read of the latest response. -/
def execI3cPrivateRead (x : PrivateRead) (s : State) : Host.Outcome State Fault Refusal :=
  s.onDev fun d => d.privateRead (busIdx x.port) x.hdr

/-- SPI_FRAME_ABORT. R194: SPI_CSn rises before a frame is complete. -/
def execSpiFrameAbort (frame : List Byte) (s : State) : Host.Outcome State Fault Refusal :=
  s.onDev fun d => d.spiFrame s.fuses true frame true

/-- SPI_PORT_RESET. R195: four 0xFF bytes ended by SPI_CSn. -/
def execSpiPortReset (s : State) : Host.Outcome State Fault Refusal :=
  s.onDev fun d => d.whenLive fun d => d.spiReset

/-- I3C_TARGET_RESET. R183: a Target Reset Pattern. -/
def execI3cTargetReset (p : BusPort) (s : State) : Host.Outcome State Fault Refusal :=
  s.onDev fun d => d.busPortReset (busIdx p)

/-- SMBUS_TIMEOUT_RESET. R185: SCL held low for 25 ms to 35 ms. -/
def execSmbusTimeoutReset (p : BusPort) (s : State) : Host.Outcome State Fault Refusal :=
  s.onDev fun d => if d.i3c[(busIdx p)].mode == .smbus then d.busPortReset (busIdx p) else d

/-- ENTDAA. R174: a dynamic address is assigned. -/
def execEntdaa (p : BusPort) (addr : BitVec 7) (s : State) : Host.Outcome State Fault Refusal :=
  s.onDev fun d => d.entdaa (busIdx p) addr

/-- SETDASA. R184: a dynamic address from the static address. -/
def execSetdasa (p : BusPort) (static : BitVec 7) (addr : BitVec 7) (s : State) : Host.Outcome State Fault Refusal :=
  s.onDev fun d => d.setdasa (busIdx p) static addr

/-- SETNEWDA. R182: a new dynamic address. -/
def execSetnewda (p : BusPort) (addr : BitVec 7) (s : State) : Host.Outcome State Fault Refusal :=
  s.onDev fun d => d.ccc (busIdx p) fun x => { x with dyn := x.dyn.map fun _ => addr }

/-- RSTDAA. R182: the dynamic address is cleared. -/
def execRstdaa (p : BusPort) (s : State) : Host.Outcome State Fault Refusal :=
  s.onDev fun d => d.rstdaa (busIdx p)

/-- BROADCAST_CCC_MODE_SWITCH. R184: the first broadcast CCC to 0x7E. -/
def execBroadcastCccModeSwitch (p : BusPort) (s : State) : Host.Outcome State Fault Refusal :=
  s.onDev fun d => d.modeSwitch (busIdx p)

/-- ENEC. R180: events enabled. -/
def execEnec (p : BusPort) (intr : Bool) (hotJoin : Bool) (s : State) : Host.Outcome State Fault Refusal :=
  s.onDev fun d => d.ccc (busIdx p) fun x => { x with intEn := x.intEn || intr, hjEn := x.hjEn || hotJoin }

/-- DISEC. R180: events disabled. -/
def execDisec (p : BusPort) (intr : Bool) (hotJoin : Bool) (s : State) : Host.Outcome State Fault Refusal :=
  s.onDev fun d => d.ccc (busIdx p) fun x => { x with intEn := x.intEn && !intr, hjEn := x.hjEn && !hotJoin }

/-- SETMWL. R176: maximum write length. -/
def execSetmwl (p : BusPort) (len : BitVec 16) (s : State) : Host.Outcome State Fault Refusal :=
  s.onDev fun d => d.ccc (busIdx p) fun x => { x with mwl := if 10 ≤ len.toNat then len.toNat else x.mwl }

/-- SETMRL. R176: maximum read length. -/
def execSetmrl (p : BusPort) (len : BitVec 16) (s : State) : Host.Outcome State Fault Refusal :=
  s.onDev fun d => d.ccc (busIdx p) fun x => { x with mrl := if 6 ≤ len.toNat then len.toNat else x.mrl }

/-- GETMWL. R176. -/
def execGetmwl (p : BusPort) (s : State) : Host.Outcome State Fault Refusal :=
  s.onDev fun d => d.ccc (busIdx p) id (bytes2 d.i3c[(busIdx p)].mwl)

/-- GETMRL. R176. -/
def execGetmrl (p : BusPort) (s : State) : Host.Outcome State Fault Refusal :=
  s.onDev fun d => d.ccc (busIdx p) id (bytes2 d.i3c[(busIdx p)].mrl)

/-- GETPID. R176. -/
def execGetpid (p : BusPort) (s : State) : Host.Outcome State Fault Refusal :=
  s.onDev fun d => d.ccc (busIdx p) id (d.pid (busIdx p))

/-- GETBCR. R176. -/
def execGetbcr (p : BusPort) (s : State) : Host.Outcome State Fault Refusal :=
  s.onDev fun d => d.ccc (busIdx p) id [0x26]

/-- GETDCR. R176. -/
def execGetdcr (p : BusPort) (s : State) : Host.Outcome State Fault Refusal :=
  s.onDev fun d => d.ccc (busIdx p) id [0x00]

/-- GETSTATUS. R174. -/
def execGetstatus (p : BusPort) (s : State) : Host.Outcome State Fault Refusal :=
  s.onDev fun d => d.getstatus (busIdx p)

/-- GETMXDS. R176. -/
def execGetmxds (p : BusPort) (s : State) : Host.Outcome State Fault Refusal :=
  s.onDev fun d => d.ccc (busIdx p) id [0x00, 0x00]

/-- RSTACT. R183: a reset action is set. -/
def execRstact (p : BusPort) (action : Byte) (s : State) : Host.Outcome State Fault Refusal :=
  s.onDev fun d => d.ccc (busIdx p) fun x => { x with rstAct := action }

/-- ENTHDR0. R177: HDR-DDR is entered. -/
def execEnthdr0 (p : BusPort) (s : State) : Host.Outcome State Fault Refusal :=
  s.onDev fun d => d.enthdr0 (busIdx p)

/-- IBI_REQUEST. R180: the bus is available to a waiting in-band interrupt, which the controller accepts or refuses. -/
def execIbiRequest (x : IbiTry) (s : State) : Host.Outcome State Fault Refusal :=
  s.onDev fun d => d.ibi (busIdx x.port) x.port x.accepted

/-- HOT_JOIN. R181: the first bus-idle condition. -/
def execHotJoin (p : BusPort) (s : State) : Host.Outcome State Fault Refusal :=
  s.onDev fun d => d.hotJoinIdle (busIdx p) p

/-- FRAME_WRITE. R186: SMBus command 0xE0 with the bytes of one frame. -/
def execFrameWrite (x : SmbXfer) (frame : List Byte) (s : State) : Host.Outcome State Fault Refusal :=
  s.onDev fun d => d.smbFrame s.fuses x frame

/-- FRAME_READ. R186: SMBus command 0xE1. -/
def execFrameRead (x : SmbXfer) (s : State) : Host.Outcome State Fault Refusal :=
  s.onDev fun d => d.smbResponse x

/-- PMBUS_UNSUPPORTED. R189: an unsupported command code, and OPERATION (0x01) where no row of its own names it: a read (no data), or a
value that is refused. -/
def execPmbusUnsupported (x : SmbXfer) (y : ByteCommand) (s : State) : Host.Outcome State Fault Refusal :=
  s.onDev fun d => if y.code = 0x01 then d.pmOperationByte s.fuses x y.data else d.pmUnsupported x y.code

/-- PAGE. R188. -/
def execPmbusPage (x : SmbXfer) (write : Option Byte) (s : State) : Host.Outcome State Fault Refusal :=
  s.onDev fun d => d.pmPageCommand x write

/-- OPERATION_IMMEDIATE_OFF. R383: OPERATION 0x00. -/
def execOperationImmediateOff (x : SmbXfer) (s : State) : Host.Outcome State Fault Refusal :=
  s.onDev fun d => d.pmOperationByte s.fuses x (some 0x00)

/-- OPERATION_SOFT_OFF. R383: OPERATION 0x40. -/
def execOperationSoftOff (x : SmbXfer) (s : State) : Host.Outcome State Fault Refusal :=
  s.onDev fun d => d.pmOperationByte s.fuses x (some 0x40)

/-- OPERATION_ON. R383: OPERATION 0x80. -/
def execOperationOn (x : SmbXfer) (s : State) : Host.Outcome State Fault Refusal :=
  s.onDev fun d => d.pmOperationByte s.fuses x (some 0x80)

/-- OPERATION_MARGIN_LOW. R383: OPERATION 0x98. -/
def execOperationMarginLow (x : SmbXfer) (s : State) : Host.Outcome State Fault Refusal :=
  s.onDev fun d => d.pmOperationByte s.fuses x (some 0x98)

/-- OPERATION_MARGIN_HIGH. R383: OPERATION 0xA8. -/
def execOperationMarginHigh (x : SmbXfer) (s : State) : Host.Outcome State Fault Refusal :=
  s.onDev fun d => d.pmOperationByte s.fuses x (some 0xA8)

/-- CLEAR_FAULTS. R348. -/
def execClearFaults (x : SmbXfer) (s : State) : Host.Outcome State Fault Refusal :=
  s.onDev fun d => d.pmWrite x fun src n d => d.pmClear s.fuses src n

/-- VOUT_MODE. R189. -/
def execVoutMode (x : SmbXfer) (s : State) : Host.Outcome State Fault Refusal :=
  s.onDev fun d => d.pmRead x fun _ d => ([0x14], d)

/-- VOUT_COMMAND. R190. -/
def execVoutCommand (x : SmbXfer) (write : Option (BitVec 16)) (s : State) : Host.Outcome State Fault Refusal :=
  s.onDev fun d => d.pmWord x write (fun n d => d.pmVoltsAt n 0x044 13 0) fun src n d v => d.pmVolts s.fuses src n 0x044 13 0 v

/-- VOUT_MAX. R189. -/
def execVoutMax (x : SmbXfer) (s : State) : Host.Outcome State Fault Refusal :=
  s.onDev fun d => d.pmRead x fun n d => (d.pmVoltsAt n 0x04C 13 0, d)

/-- VOUT_MARGIN_HIGH. R189. -/
def execVoutMarginHigh (x : SmbXfer) (write : Option (BitVec 16)) (s : State) : Host.Outcome State Fault Refusal :=
  s.onDev fun d => d.pmWord x write (fun n d => d.pmVoltsAt n 0x048 29 16) fun src n d v => d.pmVolts s.fuses src n 0x048 29 16 v

/-- VOUT_MARGIN_LOW. R189. -/
def execVoutMarginLow (x : SmbXfer) (write : Option (BitVec 16)) (s : State) : Host.Outcome State Fault Refusal :=
  s.onDev fun d => d.pmWord x write (fun n d => d.pmVoltsAt n 0x048 13 0) fun src n d v => d.pmVolts s.fuses src n 0x048 13 0 v

/-- VOUT_TRANSITION_RATE. R189. -/
def execVoutTransitionRate (x : SmbXfer) (write : Option (BitVec 16)) (s : State) : Host.Outcome State Fault Refusal :=
  s.onDev fun d => d.pmWord x write (fun n d => word2 (toLinear11 ((bits (d.lreg n 0x050) 8 0 : Nat) / (10 : Rat)))) fun src n d v =>
    d.pmField s.fuses src n 0x050 8 0 (ratOpen (ofLinear11 v * 10))

/-- VOUT_DROOP. R189. -/
def execVoutDroop (x : SmbXfer) (write : Option (BitVec 16)) (s : State) : Host.Outcome State Fault Refusal :=
  s.onDev fun d => d.pmWord x write (fun n d => word2 (toLinear11 ((bits (d.lreg n 0x054) 31 16 : Nat) / (10000 : Rat)))) fun src n d v =>
    d.pmField s.fuses src n 0x054 31 16 (ratOpen (ofLinear11 v * 10000))

/-- FREQUENCY_SWITCH. R271. -/
def execFrequencySwitch (x : SmbXfer) (write : Option (BitVec 16)) (s : State) : Host.Outcome State Fault Refusal :=
  s.onDev fun d => d.pmWord x write (fun n d => word2 (toLinear11 (ratDiv 32000000 (bits (d.lreg n 0x070) 17 0 : Nat)))) fun src n d v =>
    d.pmFrequency s.fuses src n v

/-- VOUT_OV_FAULT_LIMIT. R354. -/
def execVoutOvFaultLimit (x : SmbXfer) (write : Option (BitVec 16)) (s : State) : Host.Outcome State Fault Refusal :=
  s.onDev fun d => d.pmWord x write (fun n d => d.pmVoltsAt n 0x0C0 29 16) fun src n d v => d.pmVolts s.fuses src n 0x0C0 29 16 v

/-- VOUT_UV_FAULT_LIMIT. R354. -/
def execVoutUvFaultLimit (x : SmbXfer) (write : Option (BitVec 16)) (s : State) : Host.Outcome State Fault Refusal :=
  s.onDev fun d => d.pmWord x write (fun n d => d.pmVoltsAt n 0x0C0 13 0) fun src n d v => d.pmVolts s.fuses src n 0x0C0 13 0 v

/-- IOUT_OC_FAULT_LIMIT. R354. -/
def execIoutOcFaultLimit (x : SmbXfer) (write : Option (BitVec 16)) (s : State) : Host.Outcome State Fault Refusal :=
  s.onDev fun d => d.pmWord x write (fun n d => word2 (toLinear11 (bits (d.lreg n 0x0C8) 28 16 : Nat))) fun src n d v =>
    d.pmField s.fuses src n 0x0C8 28 16 (ratNear (ofLinear11 v))

/-- OT_FAULT_LIMIT. R354. -/
def execOtFaultLimit (x : SmbXfer) (write : Option (BitVec 16)) (s : State) : Host.Outcome State Fault Refusal :=
  s.onDev fun d => d.pmWord x write (fun n d => word2 (toLinear11 (bits (d.lreg n 0x0D4) 7 0 : Nat))) fun src n d v =>
    d.pmField s.fuses src n 0x0D4 7 0 (ratNear (ofLinear11 v))

/-- STATUS_BYTE. R354. -/
def execStatusByte (x : SmbXfer) (s : State) : Host.Outcome State Fault Refusal :=
  s.onDev fun d => d.pmRead x fun n d => ([BitVec.ofNat 8 (d.statusByte n d.i3c[busIdx x.port].cml)], d)

/-- STATUS_WORD. R354. -/
def execStatusWord (x : SmbXfer) (s : State) : Host.Outcome State Fault Refusal :=
  s.onDev fun d => d.pmRead x fun n d => (word2 (d.statusWord n d.i3c[busIdx x.port].cml), d)

/-- STATUS_VOUT. R354. -/
def execStatusVout (x : SmbXfer) (s : State) : Host.Outcome State Fault Refusal :=
  s.onDev fun d => d.pmRead x fun n d => ([BitVec.ofNat 8 (d.statusVout n)], d)

/-- STATUS_IOUT. R354. -/
def execStatusIout (x : SmbXfer) (s : State) : Host.Outcome State Fault Refusal :=
  s.onDev fun d => d.pmRead x fun n d => ([BitVec.ofNat 8 (d.statusIout n)], d)

/-- STATUS_TEMPERATURE. R354. -/
def execStatusTemperature (x : SmbXfer) (s : State) : Host.Outcome State Fault Refusal :=
  s.onDev fun d => d.pmRead x fun n d => ([BitVec.ofNat 8 (d.statusTemp n)], d)

/-- STATUS_CML. R191. -/
def execStatusCml (x : SmbXfer) (s : State) : Host.Outcome State Fault Refusal :=
  s.onDev fun d => d.pmPortRead x fun y => [y.cml]

/-- READ_VOUT. R189. -/
def execReadVout (x : SmbXfer) (s : State) : Host.Outcome State Fault Refusal :=
  s.onDev fun d => d.pmRead x fun n d => (word2 (u16OfCode d.tlm.pm[n].1), d)

/-- READ_IOUT. R190. -/
def execReadIout (x : SmbXfer) (s : State) : Host.Outcome State Fault Refusal :=
  s.onDev fun d => d.pmRead x fun n d => (word2 (toLinear11 ((d.tlm.pm[n].2.1 : Nat) / (8 : Rat))), d)

/-- READ_TEMPERATURE_1. R189. -/
def execReadTemperature1 (x : SmbXfer) (s : State) : Host.Outcome State Fault Refusal :=
  s.onDev fun d => d.pmRead x fun n d => d.pmTemperature n

/-- READ_POUT. R189. -/
def execReadPout (x : SmbXfer) (s : State) : Host.Outcome State Fault Refusal :=
  s.onDev fun d => d.pmRead x fun n d => (word2 (toLinear11 ((d.tlm.pm[n].2.2 : Nat) / (2 : Rat))), d)

/-- PMBUS_REVISION. R189. -/
def execPmbusRevision (x : SmbXfer) (s : State) : Host.Outcome State Fault Refusal :=
  s.onDev fun d => d.pmPortRead x fun _ => [0x33]

/-- MFR_ID. R189. -/
def execMfrId (x : SmbXfer) (s : State) : Host.Outcome State Fault Refusal :=
  s.onDev fun d => d.pmPortRead x fun _ => blockBytes [0x45, 0x4C, 0x56, 0x49, 0x4F, 0x52]

/-- MFR_MODEL. R189. -/
def execMfrModel (x : SmbXfer) (s : State) : Host.Outcome State Fault Refusal :=
  s.onDev fun d => d.pmPortRead x fun _ => blockBytes [0x4B, 0x42, 0x39, 0x36, 0x34, 0x30]

end Sys2Proof.Machine
end

