-- ==== Sys2Proof/Machine/PowerCommands.lean ====
section
/-! DEFINITION. The meanings of the commands of the phases, the loops, their protection, and the sequencer (chapters Phase Engine to Sequencer, Supervisors and Resets). -/

namespace Sys2Proof.Machine
open Sys2Proof

/-- What follows when a phase has left DRAINING or JOINING: FAULTED loops whose last draining phase has gone enter OFF when their faults are clear
(R349), and the SAFE of a loop that has settled acts (R150). -/
def Device.loopsSettle (d : Device) : Device :=
  ((foldFin 16 (fun (d : Device) n => d.loopFaultCleared n) d).crowbarsHeard d).safeSettle

/-- DRAIN_DECAY_COMPLETE (R230). -/
def Device.drainDecay (d : Device) (k : Fin 64) (x0 x1 : Imon) : Device :=
  if (d.ph k).st == .draining && d.decayed k x0 x1 then (((d.takeImon k x1).drainDone k).handoffCheck k).loopsSettle
  else d.takeImon k x1

/-- DRAIN_TIMEOUT (R230): FAILCAUSE 5 after DRAIN_TMO periods. -/
def Device.drainExpiry (d : Device) (k : Fin 64) : Device :=
  if (d.ph k).st == .draining && decide (max 4 (bits (d.preg k 0x04) 27 24) ≤ (d.ph k).drainPer) then
    (d.phaseFail k 5 0x15).loopsSettle
  else d

/-- PHASE_FAILURE (R321, R342, R343): a stage fault among the detections of the LOOP cycle leaves the TMON comparator high. -/
def Device.phaseDetect (d : Device) (k : Fin 64) (dets : List PhaseDetect) : Device :=
  let d := dets.foldl (fun d det => d.countDetect k det) d
  let stage := dets.contains .stage && (d.ph k).st != .unpop
  let d' := if stage then d.updPh k fun p => { p with tmonHigh := true } else d
  if (d.ph k).st == .failed then d'
  else match d.firstDetected k dets with
    | some x => (d'.phaseFail k x.1 x.2).loopsSettle
    | none => d

/-- STAGE_FAULT (R222, R235). -/
def Device.stageFault (d : Device) (k : Fin 64) : Device := d.phaseDetect k [.stage]

/-- CUE_PIN (R279, R280): loop [6:3] and profile [2:0], while the port is enabled. -/
def Device.cuePinEdge (d : Device) (w : BitVec 7) (t : CueTiming) : Device :=
  if bit (d.reg (pageAddr cuePage 0x040)) 0 then d.cue (Fin.ofNat 16 (w.toNat / 8)) (w.toNat % 8) false (some t) else d

/-- INTERLEAVE_BOUNDARY (R316, R334): the minimum phase count is judged between the requests and the tick boundary. -/
def Device.boundary (d : Device) (n : Fin 16) (per : PeriodSamples) (same : Coincident) : Device :=
  let d := d.boundaryOpen n per same
  let d := if d.belowNmin n then d.loopFault n 6 0x1B else d
  d.boundaryClose n same

/-- PG_TIMEOUT (R366): FAILCAUSE 1. -/
def Device.pgExpiry (d : Device) (i : Fin 128) : Device :=
  if (d.en i).st == .starting then
    d.railFail i 1 (match loopOf i with
      | some n => (d.lp n).sense.raw
      | none => (d.en i).vmon)
  else d

/-- INTERLEAVE_BOUNDARY. R227, R316: the period counter of loop n wraps; per is what the period measured, same what else falls in the LOOP cycle. -/
def execInterleaveBoundary (n : Fin 16) (per : PeriodSamples) (same : Coincident) (s : State) : Host.Outcome State Fault Refusal :=
  s.onDev fun d => d.inService fun d => (d.boundary n per same).safeSettle

/-- SHED_DELAY_EXPIRY. R307: the shed counter reaches SHED_DLY. -/
def execShedDelayExpiry (n : Fin 16) (s : State) : Host.Outcome State Fault Refusal :=
  s.onDev fun d => d.inService fun d => d.shedDecide n

/-- PULSE_LEADING_EDGE. R201, R213: the scheduled leading edge of phase k, after the off-time off. -/
def execPulseLeadingEdge (k : Fin 64) (off : OffTime) (s : State) : Host.Outcome State Fault Refusal :=
  s.onDev fun d => d.inService fun d => d.leadingEdge k off

/-- PEAK_COMPARATOR_TRIP. R201, R210, R336: the comparator input reaches diff µV ton after the leading edge. -/
def execPeakComparatorTrip (k : Fin 64) (ton : Nat) (diff : Int) (on : OnTime) (s : State) : Host.Outcome State Fault Refusal :=
  s.onDev fun d => d.inService fun d => d.comparatorTrip k ton diff on

/-- DMAX_LIMIT. R201, R202: the DMAX time elapses; each code of IMON goes with its code of IREF. -/
def execDmaxLimit (k : Fin 64) (first : Nat) (codes : List Nat) (irefs : List Nat) (s : State) : Host.Outcome State Fault Refusal :=
  s.onDev fun d => d.inService fun d => d.trailingEdge k (d.dmaxTime k) { samples := List.zipWith Imon.mk codes irefs, first := first } true

/-- DIODE_EMULATION_ZERO. R205: an off-time sample. -/
def execDiodeEmulationZero (k : Fin 64) (code : Nat) (iref : Nat) (s : State) : Host.Outcome State Fault Refusal :=
  s.onDev fun d => d.inService fun d => d.diodeZero k { code := code, iref := iref }

/-- DELAY_LINE_CALIBRATION. R200: a recalibration ends. -/
def execDelayLineCalibration (k : Fin 64) (ok : Bool) (s : State) : Host.Outcome State Fault Refusal :=
  s.onDev fun d => d.whenLive fun d => d.updPh k fun p => { p with dlcal := !ok }

/-- PHASE_MAP_WRITE. R225: a write of PHSk_MAP. -/
def execPhaseMapWrite (src : Source) (k : Fin 64) (be : BitVec 4) (data : Word) (s : State) : Host.Outcome State Fault Refusal :=
  s.bus src (phaseAddr k 0x00) be (data)

/-- LEND_REQUEST. R727: the lend request reaches phase k. -/
def execLendRequest (k : Fin 64) (s : State) : Host.Outcome State Fault Refusal :=
  s.onDev fun d => d.inService fun d => d.lendArrive k

/-- PHASE_DISABLE_WRITE. R230: a write of PHSk_CTL.DISABLE. -/
def execPhaseDisableWrite (src : Source) (k : Fin 64) (disable : Bool) (s : State) : Host.Outcome State Fault Refusal :=
  s.bus src (phaseAddr k 0x18) 0xF (flag 1 disable)

/-- PHASE_CLR_FAIL. R230: a write of PHSk_CTL.CLR_FAIL that keeps DISABLE, while the detectors of the phase see x. -/
def execPhaseClrFail (src : Source) (k : Fin 64) (x : FailSeen) (s : State) : Host.Outcome State Fault Refusal :=
  s.bus src (phaseAddr k 0x18) 0xF (flag 1 (s.dev.phDisabled k) ||| flag 0 true) { seen := some x }

/-- JOIN_COMPLETE. R208: JOIN_CYC periods are complete. -/
def execJoinComplete (k : Fin 64) (s : State) : Host.Outcome State Fault Refusal :=
  s.onDev fun d => d.inService fun d => (d.joinComplete k).safeSettle

/-- DRAIN_DECAY_COMPLETE. R230: two consecutive IMON samples. -/
def execDrainDecayComplete (k : Fin 64) (code0 : Nat) (code1 : Nat) (irefs : Nat × Nat) (s : State) : Host.Outcome State Fault Refusal :=
  s.onDev fun d => d.inService fun d => d.drainDecay k { code := code0, iref := irefs.1 } { code := code1, iref := irefs.2 }

/-- DRAIN_TIMEOUT. R230: DRAIN_TMO periods without decay. -/
def execDrainTimeout (k : Fin 64) (s : State) : Host.Outcome State Fault Refusal :=
  s.onDev fun d => d.inService fun d => d.drainExpiry k

/-- STAGE_FAULT. R222, R235: TMONk at 1.800 V for 100 ns. -/
def execStageFault (k : Fin 64) (s : State) : Host.Outcome State Fault Refusal :=
  s.onDev fun d => d.inService fun d => d.stageFault k

/-- PHASE_FAILURE. R342, R343: the failure detections of one LOOP cycle. -/
def execPhaseFailure (k : Fin 64) (dets : List PhaseDetect) (s : State) : Host.Outcome State Fault Refusal :=
  s.onDev fun d => d.inService fun d => d.phaseDetect k dets

/-- LOOP_UPDATE. R254, R260: an update slot of loop n. -/
def execLoopUpdate (n : Fin 16) (frame : Fin 8) (slotB : Bool) (volts : List Int) (samples : LoopSamples) (s : State) : Host.Outcome State Fault Refusal :=
  s.onDev fun d => d.inService fun d => d.loopUpdate n { frame := frame, slotB := slotB, volts := volts, samples := samples }

/-- BALANCE_UPDATE. R263: the balance slot of phase k. -/
def execBalanceUpdate (k : Fin 64) (frame : Fin 8) (s : State) : Host.Outcome State Fault Refusal :=
  s.onDev fun d => d.inService fun d => d.balance k frame.val

/-- BANK_COMMIT. R265: a write of 1 to LOOPn_BANK.COMMIT. -/
def execBankCommit (src : Source) (n : Fin 16) (s : State) : Host.Outcome State Fault Refusal :=
  s.bus src (pageAddr (loopPage n) 0x094) 0xF (1)

/-- BANK_SWAP. R266: a tick boundary of loop n. -/
def execBankSwap (n : Fin 16) (s : State) : Host.Outcome State Fault Refusal :=
  s.onDev fun d => d.inService fun d => d.bankSwap n

/-- SETPOINT_WRITE. R252: a write of LOOPn_CFG (0), LOOPn_VSET (1) or LOOPn_VMARGIN (2). -/
def execSetpointWrite (src : Source) (n : Fin 16) (reg : Fin 3) (be : BitVec 4) (data : Word) (s : State) : Host.Outcome State Fault Refusal :=
  s.bus src (pageAddr (loopPage n) (0x040 + 4 * reg.val)) be (data)

/-- CUE_PIN. R282: a qualified edge of CUE_STB at the place in time t. -/
def execCuePin (pins : BitVec 7) (t : CueTiming) (s : State) : Host.Outcome State Fault Refusal :=
  s.onDev fun d => d.inService fun d => d.cuePinEdge pins t

/-- CUE_SW. R283: a write of CUE_SW at the place in time t. -/
def execCueSw (src : Source) (data : Word) (t : CueTiming) (s : State) : Host.Outcome State Fault Refusal :=
  s.bus src (0x0C8044) 0xF (data) { timing := some t }

/-- CUE_HOLD_EXPIRY. R277: the HOLD of loop n elapses. -/
def execCueHoldExpiry (n : Fin 16) (s : State) : Host.Outcome State Fault Refusal :=
  s.onDev fun d => d.inService fun d => (d.cueHoldEnd n).safeSettle

/-- LOOP_ENABLE. R292: the enable of the sequencer reaches loop n. -/
def execLoopEnable (n : Fin 16) (s : State) : Host.Outcome State Fault Refusal :=
  s.onDev fun d => d.inService fun d => (d.loopEnable n).crowbarsHeard d

/-- LOOP_SOFT_STOP. R293: a soft stop. -/
def execLoopSoftStop (n : Fin 16) (s : State) : Host.Outcome State Fault Refusal :=
  s.onDev fun d => d.inService fun d => d.loopSoftStop n

/-- LOOP_HARD_STOP. R293: a hard stop. -/
def execLoopHardStop (n : Fin 16) (s : State) : Host.Outcome State Fault Refusal :=
  s.onDev fun d => d.inService fun d => d.loopHardStop n

/-- PREBIAS_COMPLETE. R292, R295: telemetry conversions of PREBIAS, oldest first. -/
def execPrebiasComplete (n : Fin 16) (codes : List Nat) (s : State) : Host.Outcome State Fault Refusal :=
  s.onDev fun d => d.inService fun d => d.prebiasDone n codes

/-- PREBIAS_TIMEOUT. R292: PB_TMO. -/
def execPrebiasTimeout (x : LoopAlso) (s : State) : Host.Outcome State Fault Refusal :=
  s.onDev fun d => d.inService fun d => d.loopDetect x.loop (.pbTmo :: x.also)

/-- SOFT_START_COMPLETE. R292: 8 updates within PG_WIN. -/
def execSoftStartComplete (n : Fin 16) (s : State) : Host.Outcome State Fault Refusal :=
  s.onDev fun d => d.inService fun d => if (d.lp n).st == .ramp && (d.lp n).ssDone && decide (8 ≤ (d.lp n).pgCnt) then d.loopTo n .run 0x13 else d

/-- SOFT_START_TIMEOUT. R292: SS_TMO. -/
def execSoftStartTimeout (x : LoopAlso) (s : State) : Host.Outcome State Fault Refusal :=
  s.onDev fun d => d.inService fun d => d.loopDetect x.loop (.ssTmo :: x.also)

/-- RAMPDOWN_COMPLETE. R292: V_SS at 0 V. -/
def execRampdownComplete (n : Fin 16) (s : State) : Host.Outcome State Fault Refusal :=
  s.onDev fun d => d.inService fun d => if (d.lp n).st == .rampdown && decide ((d.lp n).vSs ≤ 0) then d.loopDrain n 0x17 else d

/-- LOOP_DRAIN_COMPLETE. R292: no owned phase drains. -/
def execLoopDrainComplete (n : Fin 16) (s : State) : Host.Outcome State Fault Refusal :=
  s.onDev fun d => d.inService fun d => d.loopDrained n

/-- LOOP_LATCHED_RESTART. R301: the FAB cycle after OFF. -/
def execLoopLatchedRestart (n : Fin 16) (s : State) : Host.Outcome State Fault Refusal :=
  s.onDev fun d => d.inService fun d => (d.loopRestart n).crowbarsHeard d

/-- LOOP_ENABLE_WRITE. R287: a write of PAGE_CTL.ENABLE of the loop page that keeps FREEZE. -/
def execLoopEnableWrite (src : Source) (n : Fin 16) (enable : Bool) (s : State) : Host.Outcome State Fault Refusal :=
  s.bus src (pageAddr (loopPage n) 0x008) 0xF (setBit (s.dev.ctlWord (pg (loopPage n))) 0 enable)

/-- OV_CROWBAR. R324: the comparator of a loop outside OFF and FAULTED, over voltages 8 ns apart. -/
def execOvCrowbar (x : LoopVolts) (s : State) : Host.Outcome State Fault Refusal :=
  s.onDev fun d => d.inService fun d => if (d.lp x.loop).st == .off || (d.lp x.loop).st == .faulted then d else d.ovWatch x.loop x.volts

/-- OV_IDLE. R332: the same in OFF or FAULTED. -/
def execOvIdle (x : LoopVolts) (s : State) : Host.Outcome State Fault Refusal :=
  s.onDev fun d => d.inService fun d => if (d.lp x.loop).st == .off || (d.lp x.loop).st == .faulted then d.ovWatch x.loop x.volts else d

/-- CROWBAR_RELEASE. R330: what the loops that the release concerns read. -/
def execCrowbarRelease (n : Fin 16) (own : ReleaseSense) (others : List (Fin 16 × ReleaseSense)) (s : State) : Host.Outcome State Fault Refusal :=
  s.onDev fun d => d.inService fun d => (d.crowbarRelease n ((n, own) :: others)).crowbarsHeard d

/-- UV_FAULT. R321: UV for UV_DLY. -/
def execUvFault (x : UvSeen) (s : State) : Host.Outcome State Fault Refusal :=
  s.onDev fun d => d.inService fun d => d.loopDetect x.loop (.uv x.codes :: x.also)

/-- LOOP_OC_FAULT. R321: OC for OC_DLY. -/
def execLoopOcFault (x : OcSeen) (s : State) : Host.Outcome State Fault Refusal :=
  s.onDev fun d => d.inService fun d => d.loopDetect x.loop (.oc x.iOut :: x.also)

/-- SS_SHORT_FAULT. R333. -/
def execSsShortFault (x : LoopAlso) (s : State) : Host.Outcome State Fault Refusal :=
  s.onDev fun d => d.inService fun d => d.loopDetect x.loop (.ssShort :: x.also)

/-- LOOP_OT_FAULT. R321. -/
def execLoopOtFault (x : LoopAlso) (s : State) : Host.Outcome State Fault Refusal :=
  s.onDev fun d => d.inService fun d => d.loopDetect x.loop (.ot :: x.also)

/-- LOOP_WARNING. R323: the warning thresholds judged on one conversion and its I_OUT. -/
def execLoopWarning (n : Fin 16) (x : LoopSamples) (s : State) : Host.Outcome State Fault Refusal :=
  s.onDev fun d => d.inService fun d => d.loopWarn n x

/-- LOOP_FLT_CLEAR. R347: a W1C write of LOOPn_FLT, and what it finds. -/
def execLoopFltClear (src : Source) (n : Fin 16) (be : BitVec 4) (data : Word) (x : FltSense) (s : State) : Host.Outcome State Fault Refusal :=
  s.bus src (pageAddr (loopPage n) 0x0D8) be (data) { fltSense := some (x.uv, x.samples) }

/-- SCENE_REQUEST. R371: a write of SEQ_REQ. -/
def execSceneRequest (src : Source) (data : Word) (s : State) : Host.Outcome State Fault Refusal :=
  s.bus src (0x030044) 0xF (data)

/-- LATCHED_REQUEST_START. R371: the FAB cycle after the running wrap or single-rail request. -/
def execLatchedRequestStart (s : State) : Host.Outcome State Fault Refusal :=
  s.onDev fun d => d.inService fun d => d.latchedStart

/-- ENTRY_START. R364: ON_DLY has elapsed; vmon is the VMON code of an external rail. -/
def execEntryStart (i : Fin 128) (vmon : Nat) (s : State) : Host.Outcome State Fault Refusal :=
  s.onDev fun d => d.inService fun d => d.entryStart i vmon

/-- RAIL_POWER_GOOD. R365: the power-good comparison over readings 64 ns apart. -/
def execRailPowerGood (i : Fin 96) (readings : List Nat) (s : State) : Host.Outcome State Fault Refusal :=
  s.onDev fun d => d.inService fun d => d.railGood (railEntry i) readings

/-- WRAP_OFF_DELAY_EXPIRY. R372: OFF_DLY has elapsed; reading is the rail's VMON code or telemetry conversion. -/
def execWrapOffDelayExpiry (i : Fin 128) (reading : Nat) (s : State) : Host.Outcome State Fault Refusal :=
  s.onDev fun d => d.inService fun d => d.wrapStop i reading

/-- WRAP_STEP_ADVANCE. R372: the wrap or the take looks for its next step. -/
def execWrapStepAdvance (s : State) : Host.Outcome State Fault Refusal :=
  s.onDev fun d => d.inService fun d => d.wrapProgress.takeProgress

/-- RAIL_DISCHARGED. R367: the discharge comparison over readings 64 ns apart. -/
def execRailDischarged (i : Fin 96) (readings : List Nat) (s : State) : Host.Outcome State Fault Refusal :=
  s.onDev fun d => d.inService fun d => d.railDischarged (railEntry i) readings

/-- ENLATCH_RESTART. R388: the FAB cycle after OFF or FAULTED. -/
def execEnlatchRestart (i : Fin 128) (s : State) : Host.Outcome State Fault Refusal :=
  s.onDev fun d => d.inService fun d => d.enlatchRestart i

/-- DISCHARGE_TIMEOUT. R385: DIS_TMO has elapsed. -/
def execDischargeTimeout (i : Fin 96) (s : State) : Host.Outcome State Fault Refusal :=
  s.onDev fun d => d.inService fun d => d.dischargeTimeout (railEntry i)

/-- PG_TIMEOUT. R366: PG_TMO has elapsed. -/
def execPgTimeout (i : Fin 96) (s : State) : Host.Outcome State Fault Refusal :=
  s.onDev fun d => d.inService fun d => d.pgExpiry (railEntry i)

/-- RAIL_MONITOR_FAULT. R366: a monitor condition over readings 64 ns apart. -/
def execRailMonitorFault (i : Fin 96) (det : RailDetect) (readings : List Nat) (s : State) : Host.Outcome State Fault Refusal :=
  s.onDev fun d => d.inService fun d => d.monitorFault (railEntry i) det readings

/-- RETRY_DELAY_EXPIRY. R378: RETRY_DLY has elapsed. -/
def execRetryDelayExpiry (s : State) : Host.Outcome State Fault Refusal :=
  s.onDev fun d => d.inService fun d => d.retryExpiry

/-- RAIL_ON. R383: SEQ_RAILREQ OP 1. -/
def execRailOn (src : Source) (i : Fin 128) (s : State) : Host.Outcome State Fault Refusal :=
  s.bus src (0x03004C) 0xF (field 31 29 1 ||| field 6 0 i.val)

/-- RAIL_SOFT_OFF. R383: SEQ_RAILREQ OP 2. -/
def execRailSoftOff (src : Source) (i : Fin 128) (s : State) : Host.Outcome State Fault Refusal :=
  s.bus src (0x03004C) 0xF (field 31 29 2 ||| field 6 0 i.val)

/-- RAIL_IMMEDIATE_OFF. R383: SEQ_RAILREQ OP 3. -/
def execRailImmediateOff (src : Source) (i : Fin 128) (s : State) : Host.Outcome State Fault Refusal :=
  s.bus src (0x03004C) 0xF (field 31 29 3 ||| field 6 0 i.val)

/-- RAIL_CLEAR. R383: SEQ_RAILREQ OP 4. -/
def execRailClear (src : Source) (i : Fin 128) (s : State) : Host.Outcome State Fault Refusal :=
  s.bus src (0x03004C) 0xF (field 31 29 4 ||| field 6 0 i.val)

/-- HELD_RAIL_REQUEST_START. R383: the sequencer is in IDLE. -/
def execHeldRailRequestStart (s : State) : Host.Outcome State Fault Refusal :=
  s.onDev fun d => d.inService fun d => d.heldStart

/-- SEQ_FORCE. R387: a write of SEQ_FORCE. -/
def execSeqForce (src : Source) (data : Word) (s : State) : Host.Outcome State Fault Refusal :=
  s.bus src (0x030050) 0xF (data)

/-- TAKE_RESUME. R389: ON_BATT has ended. -/
def execTakeResume (s : State) : Host.Outcome State Fault Refusal :=
  s.onDev fun d => d.inService fun d => d.holdCheck.takeProgress

/-- RESET_STRETCH_ELAPSED. R393: the stretch of RSTOk has elapsed. -/
def execResetStretchElapsed (k : Fin 32) (s : State) : Host.Outcome State Fault Refusal :=
  s.onDev fun d => d.inService fun d => d.stretchElapsed k

end Sys2Proof.Machine
end

