-- ==== Sys2Proof/Machine/SystemCommands.lean ====
section
/-! DEFINITION. The meanings of the commands of the hold-up path, the charger, the gauge, the thermal block, the fault collector, the watchdogs, events, DMA, telemetry, synchronisation and one-time-programmable memory. -/

namespace Sys2Proof.Machine
open Sys2Proof

/-- One second of the gauge: the AO counters, and the core's estimate while it runs (R439 to R455). -/
def Device.gaugeSecond (d : Device) (sec : GaugeSecond) : Device :=
  let d := d.aoSecond sec
  if d.boot.up.ao && d.boot.coreUp then d.inService fun d => d.coreEstimate sec else d

/-- Device address of an RC register of R620. -/
def peakAddr : PeakReg → Nat
  | .lpeak n => pageAddr tlmPage (0x108 + 0x10 * n.val)
  | .lipeak n => pageAddr tlmPage (0x10C + 0x10 * n.val)
  | .ppeak k => pageAddr tlmPage (0x300 + 4 * k.val)

/-- A trigger of the rushes (R626, R627). -/
def Device.rushEvent (d : Device) (c : RushCause) : Device :=
  match d.rushCauseOf c with
  | some x => d.rushTrigger x.1 x.2
  | none => d

/-- SRC_CLASS_ADOPT. R405: four consecutive SRC_ID conversions, in mV. -/
def execSrcClassAdopt (mv : Vector Nat 4) (s : State) : Host.Outcome State Fault Refusal :=
  s.onDev fun d => d.inService fun d => d.adoptClass mv

/-- INPUT_LIMIT_THROTTLE. R406: the 10 µs step of the input limit. -/
def execInputLimitThrottle (x : HupPins) (s : State) : Host.Outcome State Fault Refusal :=
  s.onDev fun d => d.inService fun d => d.throttleStep (d.scaled x)

/-- SOURCE_OVERLOAD_TIMEOUT. R408. -/
def execSourceOverloadTimeout (x : HupPins) (s : State) : Host.Outcome State Fault Refusal :=
  s.onDev fun d => d.inService fun d => d.srcOverload (d.scaled x)

/-- SHARE_END. R411: converter current below 0.5 A for 1 ms. -/
def execShareEnd (x : HupPins) (s : State) : Host.Outcome State Fault Refusal :=
  s.onDev fun d => d.inService fun d => d.shareEnd (d.scaled x)

/-- POWER_PATH_DETECT_END. R411: 200 ms after call-sheet load; low: PACK_DET has been low for 200 ms. -/
def execPowerPathDetectEnd (low : Bool) (x : HupPins) (s : State) : Host.Outcome State Fault Refusal :=
  s.onDev fun d => d.inService fun d => d.detectEnd low (d.scaled x)

/-- PACK_QUALIFIED. R410, R411: PACK_DET has been low for 200 ms and the other conditions are judged on m. -/
def execPackQualified (x : HupPins) (s : State) : Host.Outcome State Fault Refusal :=
  s.onDev fun d => d.inService fun d => d.packQual (d.scaled x)

/-- POWER_PATH_INHIBIT. R412. -/
def execPowerPathInhibit (x : HupPins) (s : State) : Host.Outcome State Fault Refusal :=
  s.onDev fun d => d.inService fun d => d.pathInhibit (d.scaled x)

/-- CONVERTER_FAULT. R412 cause 4: for 100 µs. -/
def execConverterFault (x : HupPins) (s : State) : Host.Outcome State Fault Refusal :=
  s.onDev fun d => d.inService fun d => d.converterFault (d.scaled x)

/-- HUP_ENABLE_WRITE. R413: a write of PAGE_CTL of page 0x040 that keeps FREEZE. -/
def execHupEnableWrite (src : Source) (enable : Bool) (s : State) : Host.Outcome State Fault Refusal :=
  s.bus src (pageAddr hupPage 0x008) 0xF (setBit (s.dev.ctlWord (pg hupPage)) 0 enable)

/-- HUP_ENABLE_DEFERRED. R413. -/
def execHupEnableDeferred (s : State) : Host.Outcome State Fault Refusal :=
  s.onDev fun d => d.inService fun d => d.enableDeferred

/-- SAG_DETECT. R404, R415: iL0 is the mean inductor current of a channel in 0.0625 A units. -/
def execSagDetect (x : SagPins) (iL0 : Int) (s : State) : Host.Outcome State Fault Refusal :=
  s.onDev fun d => d.inService fun d => d.sagDetect (d.scaled x.pins) iL0 x.low

/-- SAG_NO_HANDOVER. R414. -/
def execSagNoHandover (x : SagPins) (s : State) : Host.Outcome State Fault Refusal :=
  s.onDev fun d => d.inService fun d => d.sagNoHandover (d.scaled x.pins) x.low

/-- START_PULSE_END. R415. -/
def execStartPulseEnd (s : State) : Host.Outcome State Fault Refusal :=
  s.onDev fun d => d.inService fun d => d.pulseEnd

/-- HANDOVER_COMPLETE. R411: ISRC at or below I_OFF for 1 µs. -/
def execHandoverComplete (x : HupPins) (s : State) : Host.Outcome State Fault Refusal :=
  s.onDev fun d => d.inService fun d => d.handoverDone (d.scaled x)

/-- HANDOVER_TIMEOUT. R411: HO_TMO. -/
def execHandoverTimeout (s : State) : Host.Outcome State Fault Refusal :=
  s.onDev fun d => d.inService fun d => d.handoverTimeout

/-- SOURCE_QUALIFIED. R418. -/
def execSourceQualified (x : HupPins) (s : State) : Host.Outcome State Fault Refusal :=
  s.onDev fun d => d.inService fun d => d.sourceQualified (d.scaled x)

/-- RETURN_COMPLETE. R411: 100 µs after entry to RETURN. -/
def execReturnComplete (x : HupPins) (s : State) : Host.Outcome State Fault Refusal :=
  s.onDev fun d => d.inService fun d => d.returnDone (d.scaled x)

/-- PACK_EMPTY. R411: for 1 ms. -/
def execPackEmpty (x : HupPins) (s : State) : Host.Outcome State Fault Refusal :=
  s.onDev fun d => d.inService fun d => d.packEmpty (d.scaled x)

/-- PACK_REMOVAL. R420: by the voltage step, or by PACK_DET high for 2 µs. -/
def execPackRemoval (how : Removal) (s : State) : Host.Outcome State Fault Refusal :=
  s.onDev fun d => d.inService fun d => d.packRemoval how

/-- CHARGER_COMMAND_WRITE. R429: a write of HUP_CHGCMD. -/
def execChargerCommandWrite (src : Source) (be : BitVec 4) (data : Word) (s : State) : Host.Outcome State Fault Refusal :=
  s.bus src (0x041048) be (data)

/-- CHARGER_WATCHDOG_EXPIRY. R429: PERIOD without a write. -/
def execChargerWatchdogExpiry (s : State) : Host.Outcome State Fault Refusal :=
  s.onDev fun d => d.inService fun d => d.chgFallback

/-- CHARGER_QUAL. R430. -/
def execChargerQual (x : HupPins) (s : State) : Host.Outcome State Fault Refusal :=
  s.onDev fun d => d.inService fun d => d.chgQual (d.scaled x)

/-- PRECHARGE_DONE. R430: 1 s at or above V_PRE. -/
def execPrechargeDone (x : HupPins) (s : State) : Host.Outcome State Fault Refusal :=
  s.onDev fun d => d.inService fun d => d.prechgDone (d.scaled x)

/-- PRECHARGE_TIMEOUT. R430: PRE_TMAX. -/
def execPrechargeTimeout (s : State) : Host.Outcome State Fault Refusal :=
  s.onDev fun d => d.inService fun d => if d.chg.st == .prechg then d.chgFault 0x27 else d

/-- CV_REACHED. R430. -/
def execCvReached (x : HupPins) (s : State) : Host.Outcome State Fault Refusal :=
  s.onDev fun d => d.inService fun d => d.cvReached (d.scaled x)

/-- CHARGE_TERMINATED. R430: for TERM_T. -/
def execChargeTerminated (x : HupPins) (s : State) : Host.Outcome State Fault Refusal :=
  s.onDev fun d => d.inService fun d => d.chgTerminated (d.scaled x)

/-- RECHARGE. R430. -/
def execRecharge (x : HupPins) (s : State) : Host.Outcome State Fault Refusal :=
  s.onDev fun d => d.inService fun d => d.recharge (d.scaled x)

/-- CHARGE_TIMEOUT. R430: CHG_TMAX. -/
def execChargeTimeout (s : State) : Host.Outcome State Fault Refusal :=
  s.onDev fun d => d.inService fun d => if d.chg.st.charging then d.chgFault 0x27 else d

/-- CHARGER_OV_FAULT. R430. -/
def execChargerOvFault (x : HupPins) (s : State) : Host.Outcome State Fault Refusal :=
  s.onDev fun d => d.inService fun d => d.chgOv (d.scaled x)

/-- CHARGER_SUSPEND. R430. -/
def execChargerSuspend (x : HupPins) (s : State) : Host.Outcome State Fault Refusal :=
  s.onDev fun d => d.inService fun d => d.chgSuspend (d.scaled x)

/-- CHARGER_DRAIN_COMPLETE. R430: late: 2 ms after entry. -/
def execChargerDrainComplete (x : HupPins) (late : Bool) (s : State) : Host.Outcome State Fault Refusal :=
  s.onDev fun d => d.inService fun d => d.chgDrained (d.scaled x) late

/-- CHARGER_RESUME. R430, R431. -/
def execChargerResume (x : HupPins) (s : State) : Host.Outcome State Fault Refusal :=
  s.onDev fun d => d.inService fun d => d.chgResume (d.scaled x)

/-- CHARGE_BAND_CHANGE. R427. -/
def execChargeBandChange (s : State) : Host.Outcome State Fault Refusal :=
  s.onDev fun d => d.inService fun d => d.bandChange

/-- AO_WAKE. R106: by the pack current above WAKE_V or by a level change of PACK_DET. -/
def execAoWake (how : WakeCause) (s : State) : Host.Outcome State Fault Refusal :=
  s.onDev fun d => d.aoWakeBy how

/-- HIBERNATE_ENTER. R105, R445. -/
def execHibernateEnter (s : State) : Host.Outcome State Fault Refusal :=
  s.onDev fun d => d.hibernate

/-- OCV_SAMPLE. R446: the pack-voltage conversion, as the level at VPACK_SNS in µV. -/
def execOcvSample (pin : Rat) (s : State) : Host.Outcome State Fault Refusal :=
  s.onDev fun d => d.ocvSample (d.packVolts pin)

/-- GAUGE_ANCHOR_WRITE. R443: a write of 1 to GAU_COMMIT.ANCHOR. -/
def execGaugeAnchorWrite (src : Source) (s : State) : Host.Outcome State Fault Refusal :=
  s.bus src (0x044074) 0xF (4)

/-- GAUGE_ESTIMATE_UPDATE. R439 to R455: one second of the AO counters, and the core's update while it runs. -/
def execGaugeEstimateUpdate (sec : GaugeSecond) (s : State) : Host.Outcome State Fault Refusal :=
  s.onDev fun d => d.gaugeSecond sec

/-- GAUGE_STARVED. R456. -/
def execGaugeStarved (s : State) : Host.Outcome State Fault Refusal :=
  s.onDev fun d => d.inService fun d => d.gauStarve

/-- GAUGE_COMMIT. R464, R467: a write of 1 to GAU_COMMIT.COMMIT. -/
def execGaugeCommit (src : Source) (s : State) : Host.Outcome State Fault Refusal :=
  s.bus src (0x044074) 0xF (1)

/-- GAUGE_COMMIT_COMPLETE. R464, R466: the slot write was inhibited by VAO below its falling threshold. -/
def execGaugeCommitComplete (inhibited : Bool) (s : State) : Host.Outcome State Fault Refusal :=
  s.onDev fun d => d.commitDone inhibited

/-- GAUGE_RESTORE. R473: a write of GAU_RESTORE with OP 1; packDet: PACK_DET is high. -/
def execGaugeRestore (src : Source) (key : BitVec 16) (packDet : Bool) (s : State) : Host.Outcome State Fault Refusal :=
  s.bus src (0x044078) 0xF (field 31 16 key.toNat ||| 1) { packDet := some packDet }

/-- GAUGE_UNLOAD. R474: a write of GAU_RESTORE with OP 2. -/
def execGaugeUnload (src : Source) (key : BitVec 16) (s : State) : Host.Outcome State Fault Refusal :=
  s.bus src (0x044078) 0xF (field 31 16 key.toNat ||| 2)

/-- GAUGE_NOPACK. R470: PACK_DET high for 200 ms. -/
def execGaugeNopack (s : State) : Host.Outcome State Fault Refusal :=
  s.onDev fun d => d.inService fun d => d.gauNopack

/-- GAUGE_PACK_RETURN. R470: PACK_DET low for 200 ms. -/
def execGaugePackReturn (s : State) : Host.Outcome State Fault Refusal :=
  s.onDev fun d => d.inService fun d => d.gauPackReturn

/-- GAU_ACC_READ. R477: a read of GAU_ACC_LO. -/
def execGauAccRead (src : Source) (s : State) : Host.Outcome State Fault Refusal :=
  s.read src 0x044050

/-- THERMAL_SCAN_FRAME. R482. -/
def execThermalScanFrame (x : ThermFrame) (s : State) : Host.Outcome State Fault Refusal :=
  s.onDev fun d => d.inService fun d => d.thermalFrame x

/-- THM_CLR. R488: a write of THM_CLR. -/
def execThmClr (src : Source) (data : Word) (s : State) : Host.Outcome State Fault Refusal :=
  s.bus src (0x048084) 0xF (data)

/-- FAULT_LATCH. R502 to R509: one FAB cycle in which the collector judges its lines. -/
def execFaultLatch (s : State) : Host.Outcome State Fault Refusal :=
  s.onDev fun d => d.whenLive fun d => d.faultLatch

/-- FAULT_LINE_RELEASE. R510: the error line of class c has fallen. -/
def execFaultLineRelease (c : Fin 64) (s : State) : Host.Outcome State Fault Refusal :=
  s.onDev fun d => d.whenLive fun d => d.faultLineFall c

/-- FAULT_CLEAR. R512: a W1C write of FLT_STAT_LO or FLT_STAT_HI. -/
def execFaultClear (src : Source) (hi : Bool) (be : BitVec 4) (data : Word) (s : State) : Host.Outcome State Fault Refusal :=
  s.bus src (if hi then 0x050044 else 0x050040) be (data)

/-- FAULT_INJECT. R499: a write of FLT_INJECT. -/
def execFaultInject (src : Source) (data : Word) (s : State) : Host.Outcome State Fault Refusal :=
  s.bus src (0x05006C) 0xF (data)

/-- EFI_INPUT. R517: the level of pin EFIm, and for how long it has held, in 8 ns units. -/
def execEfiInput (m : Fin 8) (x : EfiLevel) (s : State) : Host.Outcome State Fault Refusal :=
  s.onDev fun d => d.whenLive fun d => d.efiInput m x.high x.held

/-- WDT_ARM. R537: a write of ARM; dt: ticks since the last command of the watchdog. -/
def execWdtArm (k : Fin 9) (src : Source) (dt : Nat) (s : State) : Host.Outcome State Fault Refusal :=
  s.bus src (pageAddr (wdtPage k) 0x054) 0xF (1) { dt := dt }

/-- WDT_DISARM. R538. -/
def execWdtDisarm (k : Fin 9) (src : Source) (dt : Nat) (key : BitVec 16) (s : State) : Host.Outcome State Fault Refusal :=
  s.bus src (pageAddr (wdtPage k) 0x054) 0xF (field 31 16 key.toNat ||| 2) { dt := dt }

/-- WDT_CHECKIN. R522, R526. -/
def execWdtCheckin (k : Fin 9) (src : Source) (dt : Nat) (task : BitVec 16) (s : State) : Host.Outcome State Fault Refusal :=
  s.bus src (pageAddr (wdtPage k) 0x058) 0xF (field 15 0 task.toNat) { dt := dt }

/-- WDT_ANSWER. R530. -/
def execWdtAnswer (k : Fin 9) (src : Source) (dt : Nat) (token : BitVec 16) (s : State) : Host.Outcome State Fault Refusal :=
  s.bus src (pageAddr (wdtPage k) 0x060) 0xF (field 15 0 token.toNat) { dt := dt }

/-- WDT_WINDOW_LATE. R525. -/
def execWdtWindowLate (k : Fin 9) (dt : Nat) (s : State) : Host.Outcome State Fault Refusal :=
  s.onDev fun d => d.whenLive fun d => d.wdtAdvance s.fuses k dt

/-- WDT_HOLD_ELAPSED. R531: dt ticks have passed since the last command of a tripped instance. -/
def execWdtHoldElapsed (x : WdtTicks) (s : State) : Host.Outcome State Fault Refusal :=
  s.onDev fun d => d.whenLive fun d => if (d.wd x.inst).st == .tripped then d.wdtAdvance s.fuses x.inst x.dt else d

/-- WDT_CHALLENGE_QUEUE. R544. -/
def execWdtChallengeQueue (k : Fin 9) (src : Source) (chal : BitVec 16) (s : State) : Host.Outcome State Fault Refusal :=
  s.bus src (pageAddr (wdtPage k) 0x078) 0xF (field 15 0 chal.toNat)

/-- EVENT_ARRIVAL. R546. -/
def execEventArrival (e : Fin 256) (payload : Word) (s : State) : Host.Outcome State Fault Refusal :=
  s.onDev fun d => d.whenLive fun d => d.raise e.val payload

/-- EVENT_SELECT. R548: the selection of a FAB cycle, where the record write meets no translation fault. -/
def execEventSelect (s : State) : Host.Outcome State Fault Refusal :=
  s.onDev fun d => d.whenLive fun d => d.evSelect false

/-- EVENT_RECORD_FAULT. R560: as EVENT_SELECT, where the record write meets a translation fault. -/
def execEventRecordFault (s : State) : Host.Outcome State Fault Refusal :=
  s.onDev fun d => d.whenLive fun d => d.evSelect true

/-- EVENT_EOI. R551. -/
def execEventEoi (t : Fin 9) (src : Source) (e : BitVec 8) (s : State) : Host.Outcome State Fault Refusal :=
  s.bus src (tgtAddr t 0x18) 0xF (field 7 0 e.toNat)

/-- EVENT_RING_RD_WRITE. R556. -/
def execEventRingRdWrite (t : Fin 9) (src : Source) (rd : BitVec 16) (s : State) : Host.Outcome State Fault Refusal :=
  s.bus src (tgtAddr t 0x0C) 0xF (field 15 0 rd.toNat)

/-- EVENT_TARGET_ENABLE. R562: a write of EVC_TCTLt with ENABLE 1 that keeps the other fields. -/
def execEventTargetEnable (t : Fin 9) (src : Source) (s : State) : Host.Outcome State Fault Refusal :=
  s.bus src (tgtAddr t 0x00) 0xF (setBit (s.dev.tctl t) 0 true)

/-- EVENT_TARGET_DISABLE. R563: a write of EVC_TCTLt with ENABLE 0 that keeps the other fields. -/
def execEventTargetDisable (t : Fin 9) (src : Source) (s : State) : Host.Outcome State Fault Refusal :=
  s.bus src (tgtAddr t 0x00) 0xF (setBit (s.dev.tctl t) 0 false)

/-- EVC_RAISE. R567. -/
def execEvcRaise (src : Source) (n : Fin 2) (data : Word) (s : State) : Host.Outcome State Fault Refusal :=
  s.bus src (pageAddr evcPage (0x080 + 4 * n.val)) 0xF (data)

/-- RING_ENABLE. R569, R591: a write of PAGE_CTL of a ring page that keeps FREEZE. -/
def execRingEnable (src : Source) (r : Fin 32) (enable : Bool) (s : State) : Host.Outcome State Fault Refusal :=
  s.bus src (pageAddr (ringPage r) 0x008) 0xF (setBit (s.dev.ctlWord (pg (ringPage r))) 0 enable)

/-- RING_DOORBELL. R576. -/
def execRingDoorbell (src : Source) (r : Fin 32) (s : State) : Host.Outcome State Fault Refusal :=
  s.bus src (pageAddr (ringPage r) 0x04C) 0xF (1)

/-- RING_PAUSE. R590. -/
def execRingPause (src : Source) (r : Fin 32) (s : State) : Host.Outcome State Fault Refusal :=
  s.bus src (pageAddr (ringPage r) 0x050) 0xF (2)

/-- RING_RESUME. R590. -/
def execRingResume (src : Source) (r : Fin 32) (s : State) : Host.Outcome State Fault Refusal :=
  s.bus src (pageAddr (ringPage r) 0x050) 0xF (1)

/-- DESCRIPTOR_FETCH. R577, R591: a descriptor read returns; host: its words when the descriptors lie in host memory. -/
def execDescriptorFetch (r : Fin 32) (host : Vector Word 8) (s : State) : Host.Outcome State Fault Refusal :=
  s.onDev fun d => d.whenLive fun d => d.descFetch r host

/-- BURST_START. R585. -/
def execBurstStart (s : State) : Host.Outcome State Fault Refusal :=
  s.onDev fun d => d.whenLive fun d => d.dmaArbitrate

/-- BURST_COMPLETE. R580, R596: data: the bytes that host reads returned; moved: the bytes done when the link stopped the burst. -/
def execBurstComplete (r : Fin 32) (moved : Nat) (data : List Byte) (s : State) : Host.Outcome State Fault Refusal :=
  s.onDev fun d => d.whenLive fun d => d.burstComplete s.fuses r moved data

/-- WINDOW_ENTRY_WRITE. R601: a write of word 1 (one) or word 0 of an aperture entry. -/
def execWindowEntryWrite (src : Source) (e : Fin 1024) (one : Bool) (data : Word) (s : State) : Host.Outcome State Fault Refusal :=
  s.bus src (0x110000 + 8 * e.val + 4 * b2n one) 0xF (data)

/-- XLT_SYNC. R604. -/
def execXltSync (src : Source) (s : State) : Host.Outcome State Fault Refusal :=
  s.bus src (0x0A0044) 0xF (1)

/-- XLT_SYNC_COMPLETE. R604. -/
def execXltSyncComplete (s : State) : Host.Outcome State Fault Refusal :=
  s.onDev fun d => d.whenLive fun d => d.xltSyncDone

/-- TIMESTAMP_READ. R613: a read of SYN_TS_LO. -/
def execTimestampRead (src : Source) (s : State) : Host.Outcome State Fault Refusal :=
  s.read src 0x0C4060

/-- TELEMETRY_WINDOW_END. R615. -/
def execTelemetryWindowEnd (x : WindowSamples) (s : State) : Host.Outcome State Fault Refusal :=
  s.onDev fun d => d.inService fun d => d.windowEnds x

/-- STREAM_CHANNEL_CONFIG. R624: a write of TLM_SCHc_CFG, _MASK_LO or _MASK_HI. -/
def execStreamChannelConfig (src : Source) (c : Fin 8) (word : Fin 3) (be : BitVec 4) (data : Word) (s : State) : Host.Outcome State Fault Refusal :=
  s.bus src (pageAddr tlmPage (0x080 + 0x10 * c.val + 4 * word.val)) be (data)

/-- PEAK_REGISTER_READ. R620. -/
def execPeakRegisterRead (src : Source) (reg : PeakReg) (s : State) : Host.Outcome State Fault Refusal :=
  s.read src (peakAddr reg)

/-- RUSHES_TRIGGER. R626. -/
def execRushesTrigger (cause : RushCause) (s : State) : Host.Outcome State Fault Refusal :=
  match cause with
  | .freeze src => s.bus src (pageAddr rushPage 0x054) 0xF 1
  | _ => s.onDev fun d => d.inService fun d => d.rushEvent cause

/-- RUSHES_FROZEN. R627. -/
def execRushesFrozen (s : State) : Host.Outcome State Fault Refusal :=
  s.onDev fun d => d.whenLive fun d => d.rushFreeze

/-- RUSHES_REARM. R628. -/
def execRushesRearm (src : Source) (s : State) : Host.Outcome State Fault Refusal :=
  s.bus src (pageAddr rushPage 0x054) 0xF (2)

/-- DAILY_PERIOD_END. R629, R631. -/
def execDailyPeriodEnd (meas : Vector DailyMeas 16) (battSecs : Nat) (s : State) : Host.Outcome State Fault Refusal :=
  s.onDev fun d => d.inService fun d => d.dayEnd meas battSecs

/-- DAILY_RECORD_WRITE. R630. -/
def execDailyRecordWrite (s : State) : Host.Outcome State Fault Refusal :=
  s.onDev fun d => d.whenLive fun d => d.dayWrite

/-- PMC_COUNTER_WRAP. R636: counter c counts on from 0xFFFF_FFFF_FFFF. -/
def execPmcCounterWrap (c : Fin 64) (s : State) : Host.Outcome State Fault Refusal :=
  s.onDev fun d => d.whenLive fun d => d.pmcWrap c

/-- PMC_COUNTER_READ. R635: a read of PMC_CTRc_LO. -/
def execPmcCounterRead (src : Source) (c : Fin 64) (s : State) : Host.Outcome State Fault Refusal :=
  s.read src (pageAddr pmcPage (0x200 + 8 * c.val))

/-- PMC_COUNTER_WRITE. R635. -/
def execPmcCounterWrite (src : Source) (c : Fin 64) (hi : Bool) (be : BitVec 4) (data : Word) (s : State) : Host.Outcome State Fault Refusal :=
  s.bus src (pageAddr pmcPage (0x200 + 8 * c.val + 4 * b2n hi)) be (data)

/-- CLAP_EDGE. R642: the rising edge that starts a clap frame. -/
def execClapEdge (fine : Fin 16) (s : State) : Host.Outcome State Fault Refusal :=
  s.onDev fun d => d.whenLive fun d => d.clapEdge fine.val

/-- CLAP_COMMIT. R642. -/
def execClapCommit (num : BitVec 16) (s : State) : Host.Outcome State Fault Refusal :=
  s.onDev fun d => d.whenLive fun d => d.clapCommit num

/-- CLAP_CODE_ERROR. R641. -/
def execClapCodeError (s : State) : Host.Outcome State Fault Refusal :=
  s.onDev fun d => d.whenLive fun d => d.clapError

/-- CLAP_DRIVE. R644: a write of SYN_CTL.CLAP. -/
def execClapDrive (src : Source) (s : State) : Host.Outcome State Fault Refusal :=
  s.bus src (pageAddr synPage 0x04C) 0xF (1)

/-- CLAP_AUTO. R644. -/
def execClapAuto (s : State) : Host.Outcome State Fault Refusal :=
  s.onDev fun d => d.whenLive fun d => d.clapAuto

/-- SLATE_SNAP. R648: a write of SYN_CTL.SNAP. -/
def execSlateSnap (src : Source) (s : State) : Host.Outcome State Fault Refusal :=
  s.bus src (pageAddr synPage 0x04C) 0xF (2)

/-- TIME_FRAME. R650, R651: T of a valid frame and TS_cap. -/
def execTimeFrame (t : BitVec 64) (cap : BitVec 64) (s : State) : Host.Outcome State Fault Refusal :=
  s.onDev fun d => d.whenLive fun d => if bit d.synCfg 29 then d.timeFrame t cap else d

/-- TIME_FRAME_ERROR. R650. -/
def execTimeFrameError (s : State) : Host.Outcome State Fault Refusal :=
  s.onDev fun d => d.whenLive fun d => if bit d.synCfg 29 then d.setErr synPage (errBit 10) else d

/-- TIME_HOLDOVER. R651. -/
def execTimeHoldover (s : State) : Host.Outcome State Fault Refusal :=
  s.onDev fun d => d.whenLive fun d => d.timeHoldover

/-- TIME_FRAME_SEND. R654. -/
def execTimeFrameSend (s : State) : Host.Outcome State Fault Refusal :=
  s.onDev fun d => d.whenLive fun d => d.timeSend

/-- OTP_RESCAN. R660: a write of OTP_RESCAN. -/
def execOtpRescan (src : Source) (data : Word) (s : State) : Host.Outcome State Fault Refusal :=
  s.bus src (0x0050C0) 0xF (data)

/-- OTP_TEMP_SCAN. R660: DIE_MAX has moved by more than 30 °C. -/
def execOtpTempScan (s : State) : Host.Outcome State Fault Refusal :=
  s.onDev fun d => d.inService fun d => d.tempScan s.fuses

/-- OTP_SCAN_COMPLETE. R660, R661: the running scan ends. -/
def execOtpScanComplete (s : State) : Host.Outcome State Fault Refusal :=
  s.onDev fun d => d.whenLive fun d => d.scanDone s.fuses

/-- PROGRAM. R677: a write of OTP_PCTL with OP 1. -/
def execOtpProgram (src : Source) (key : BitVec 16) (s : State) : Host.Outcome State Fault Refusal :=
  s.bus src (0x004054) 0xF (field 31 16 key.toNat ||| 1)

/-- TOPUP. R677: a write of OTP_PCTL with OP 2. -/
def execOtpTopup (src : Source) (key : BitVec 16) (s : State) : Host.Outcome State Fault Refusal :=
  s.bus src (0x004054) 0xF (field 31 16 key.toNat ||| 2)

/-- SEAL. R677: a write of OTP_PCTL with OP 3. -/
def execOtpSeal (src : Source) (key : BitVec 16) (noChk : Bool) (s : State) : Host.Outcome State Fault Refusal :=
  s.bus src (0x004054) 0xF (field 31 16 key.toNat ||| flag 8 noChk ||| 3)

/-- BLOW. R677: a write of OTP_PCTL with OP 4. -/
def execOtpBlow (src : Source) (key : BitVec 16) (s : State) : Host.Outcome State Fault Refusal :=
  s.bus src (0x004054) 0xF (field 31 16 key.toNat ||| 4)

/-- VERIFY. R677: a write of OTP_PCTL with OP 5. -/
def execOtpVerify (src : Source) (key : BitVec 16) (s : State) : Host.Outcome State Fault Refusal :=
  s.bus src (0x004054) 0xF (field 31 16 key.toNat ||| 5)

/-- OTP_STOP. R682: a write of OTP_PCTL with OP 0. -/
def execOtpStop (src : Source) (key : BitVec 16) (s : State) : Host.Outcome State Fault Refusal :=
  s.bus src (0x004054) 0xF (field 31 16 key.toNat)

/-- OTP_SUPPLY_READY. R681: the supply start ends; ok: the supply is in its range. -/
def execOtpSupplyReady (ok : Bool) (s : State) : Host.Outcome State Fault Refusal :=
  s.onDev fun d => d.whenLive fun d => d.supplyReady s.fuses ok

/-- OTP_PULSE_COMPLETE. R679: a pulse and its recovery end; m1 is what the copy's bit reads at M1, ok that the supply stayed in its range. -/
def execOtpPulseComplete (m1 : Bool) (ok : Bool) (s : State) : Host.Outcome State Fault Refusal :=
  s.onBoth fun d f => if d.live then d.pulseDone f m1 ok else (d, f)

/-- OTP_READ. R684: a write of OTP_RADDR. -/
def execOtpRead (src : Source) (data : Word) (s : State) : Host.Outcome State Fault Refusal :=
  s.bus src (0x00405C) 0xF (data)

/-- OTP_READ_COMPLETE. R684. -/
def execOtpReadComplete (s : State) : Host.Outcome State Fault Refusal :=
  s.onDev fun d => d.whenLive fun d => d.otpReadDone s.fuses

/-- OTP_RELOAD. R674: a write of OTP_RELOAD. -/
def execOtpReload (src : Source) (data : Word) (s : State) : Host.Outcome State Fault Refusal :=
  s.bus src (0x0050C4) 0xF (data)

/-- OTP_RELOAD_DEFERRED. R675: the activity that a reload waited for has ended. -/
def execOtpReloadDeferred (s : State) : Host.Outcome State Fault Refusal :=
  s.onDev fun d => d.whenLive fun d => d.reloadWaiting s.fuses

/-- HKC_RESTART. R687: a write of HKC_CTL. -/
def execHkcRestart (src : Source) (data : Word) (s : State) : Host.Outcome State Fault Refusal :=
  s.bus src (0x006040) 0xF (data)

/-- CORE_RESTART_COMPLETE. R673: the restart ends; challenges are what the core queues for each watchdog. -/
def execCoreRestartComplete (challenges : Vector (List (BitVec 16)) 9) (s : State) : Host.Outcome State Fault Refusal :=
  s.onDev fun d => d.restartComplete s.fuses challenges

/-- RESERVE_LOW. R424, R390. -/
def execReserveLow (x : HupPins) (s : State) : Host.Outcome State Fault Refusal :=
  s.onDev fun d => d.inService fun d => (d.setMeas (d.scaled x)).rsvSync

/-- HOST_ERR. R573: a host read ends with an error or times out, after moved bytes. -/
def execHostErr (r : Fin 32) (moved : Nat) (data : List Byte) (s : State) : Host.Outcome State Fault Refusal :=
  s.onDev fun d => d.whenLive fun d => d.hostError s.fuses r moved data

/-- CLK_XFREQ_UPDATE. R103: the count of a 1 ms window. -/
def execClkXfreqUpdate (khz : BitVec 16) (s : State) : Host.Outcome State Fault Refusal :=
  s.onDev fun d => if d.boot.held || d.boot.clkFailed then d else { d with boot := { d.boot with xfreq := khz.toNat } }

end Sys2Proof.Machine
end

