-- ==== Sys2Proof/Machine/Dispatch.lean ====
section
/-! DEFINITION. One arm per command: its meaning. -/

namespace Sys2Proof.Machine
open Sys2Proof

/-- The effect of a command on everything but the queue. -/
def exec (i : Instr) (s : State) : Host.Outcome State Fault Refusal :=
  match i with
  | .domainPorAssert dom => Sys2Proof.Machine.execDomainPorAssert dom s
  | .domainPorRelease dom => Sys2Proof.Machine.execDomainPorRelease dom s
  | .deviceResetEntry => Sys2Proof.Machine.execDeviceResetEntry s
  | .deviceResetRelease s0 s1 s2 => Sys2Proof.Machine.execDeviceResetRelease s0 s1 s2 s
  | .pllLock => Sys2Proof.Machine.execPllLock s
  | .pllLockTimeout => Sys2Proof.Machine.execPllLockTimeout s
  | .clockFailure => Sys2Proof.Machine.execClockFailure s
  | .trimLoad => Sys2Proof.Machine.execTrimLoad s
  | .otpBootScanComplete => Sys2Proof.Machine.execOtpBootScanComplete s
  | .generationSelect => Sys2Proof.Machine.execGenerationSelect s
  | .callSheetLoad => Sys2Proof.Machine.execCallSheetLoad s
  | .patchInstall => Sys2Proof.Machine.execPatchInstall s
  | .jtagCoreRelease => Sys2Proof.Machine.execJtagCoreRelease s
  | .firstThermalScanComplete => Sys2Proof.Machine.execFirstThermalScanComplete s
  | .autoStart => Sys2Proof.Machine.execAutoStart s
  | .coreInitComplete challenges => Sys2Proof.Machine.execCoreInitComplete challenges s
  | .glbDevrstWrite src data => Sys2Proof.Machine.execGlbDevrstWrite src data s
  | .deviceResetDeferred => Sys2Proof.Machine.execDeviceResetDeferred s
  | .jtagDeviceReset => Sys2Proof.Machine.execJtagDeviceReset s
  | .tapReset => Sys2Proof.Machine.execTapReset s
  | .rstcauseClear src be data => Sys2Proof.Machine.execRstcauseClear src be data s
  | .registerWrite src addr be data => Sys2Proof.Machine.execRegisterWrite src addr be data s
  | .hcxOpen src data => Sys2Proof.Machine.execHcxOpen src data s
  | .hcxClose src data => Sys2Proof.Machine.execHcxClose src data s
  | .hcxEvict src data => Sys2Proof.Machine.execHcxEvict src data s
  | .hcxLeaseWrite src n be data => Sys2Proof.Machine.execHcxLeaseWrite src n be data s
  | .leaseExpiry n => Sys2Proof.Machine.execLeaseExpiry n s
  | .contextQuarantine n => Sys2Proof.Machine.execContextQuarantine n s
  | .contextFree n => Sys2Proof.Machine.execContextFree n s
  | .claimRequest src page data => Sys2Proof.Machine.execClaimRequest src page data s
  | .claimRelease src page data => Sys2Proof.Machine.execClaimRelease src page data s
  | .ownerPolicyWrite src page be data => Sys2Proof.Machine.execOwnerPolicyWrite src page be data s
  | .claimArbitration => Sys2Proof.Machine.execClaimArbitration s
  | .pageLockWrite src page lock => Sys2Proof.Machine.execPageLockWrite src page lock s
  | .pageFreezeWrite src page freeze => Sys2Proof.Machine.execPageFreezeWrite src page freeze s
  | .blockSoftReset src page => Sys2Proof.Machine.execBlockSoftReset src page s
  | .pcieMemRequest bar write offset dws => Sys2Proof.Machine.execPcieMemRequest bar write offset dws s
  | .pcieConfigRequest reg write => Sys2Proof.Machine.execPcieConfigRequest reg write s
  | .pcieFundamentalReset low => Sys2Proof.Machine.execPcieFundamentalReset low s
  | .pcieHotReset => Sys2Proof.Machine.execPcieHotReset s
  | .pcieLinkUp => Sys2Proof.Machine.execPcieLinkUp s
  | .pcieD3hotEnter => Sys2Proof.Machine.execPcieD3hotEnter s
  | .msixEnable en funcMask => Sys2Proof.Machine.execMsixEnable en funcMask s
  | .msixUnmask v => Sys2Proof.Machine.execMsixUnmask v s
  | .writeFrame p frame => Sys2Proof.Machine.execWriteFrame p frame s
  | .readFrame p frame => Sys2Proof.Machine.execReadFrame p frame s
  | .readResponseReady p => Sys2Proof.Machine.execReadResponseReady p s
  | .i3cPrivateRead x => Sys2Proof.Machine.execI3cPrivateRead x s
  | .spiFrameAbort frame => Sys2Proof.Machine.execSpiFrameAbort frame s
  | .spiPortReset => Sys2Proof.Machine.execSpiPortReset s
  | .i3cTargetReset p => Sys2Proof.Machine.execI3cTargetReset p s
  | .smbusTimeoutReset p => Sys2Proof.Machine.execSmbusTimeoutReset p s
  | .entdaa p addr => Sys2Proof.Machine.execEntdaa p addr s
  | .setdasa p static addr => Sys2Proof.Machine.execSetdasa p static addr s
  | .setnewda p addr => Sys2Proof.Machine.execSetnewda p addr s
  | .rstdaa p => Sys2Proof.Machine.execRstdaa p s
  | .broadcastCccModeSwitch p => Sys2Proof.Machine.execBroadcastCccModeSwitch p s
  | .enec p intr hotJoin => Sys2Proof.Machine.execEnec p intr hotJoin s
  | .disec p intr hotJoin => Sys2Proof.Machine.execDisec p intr hotJoin s
  | .setmwl p len => Sys2Proof.Machine.execSetmwl p len s
  | .setmrl p len => Sys2Proof.Machine.execSetmrl p len s
  | .getmwl p => Sys2Proof.Machine.execGetmwl p s
  | .getmrl p => Sys2Proof.Machine.execGetmrl p s
  | .getpid p => Sys2Proof.Machine.execGetpid p s
  | .getbcr p => Sys2Proof.Machine.execGetbcr p s
  | .getdcr p => Sys2Proof.Machine.execGetdcr p s
  | .getstatus p => Sys2Proof.Machine.execGetstatus p s
  | .getmxds p => Sys2Proof.Machine.execGetmxds p s
  | .rstact p action => Sys2Proof.Machine.execRstact p action s
  | .enthdr0 p => Sys2Proof.Machine.execEnthdr0 p s
  | .ibiRequest x => Sys2Proof.Machine.execIbiRequest x s
  | .hotJoin p => Sys2Proof.Machine.execHotJoin p s
  | .frameWrite x frame => Sys2Proof.Machine.execFrameWrite x frame s
  | .frameRead x => Sys2Proof.Machine.execFrameRead x s
  | .pmbusUnsupported x y => Sys2Proof.Machine.execPmbusUnsupported x y s
  | .pmbusPage x write => Sys2Proof.Machine.execPmbusPage x write s
  | .operationImmediateOff x => Sys2Proof.Machine.execOperationImmediateOff x s
  | .operationSoftOff x => Sys2Proof.Machine.execOperationSoftOff x s
  | .operationOn x => Sys2Proof.Machine.execOperationOn x s
  | .operationMarginLow x => Sys2Proof.Machine.execOperationMarginLow x s
  | .operationMarginHigh x => Sys2Proof.Machine.execOperationMarginHigh x s
  | .clearFaults x => Sys2Proof.Machine.execClearFaults x s
  | .voutMode x => Sys2Proof.Machine.execVoutMode x s
  | .voutCommand x write => Sys2Proof.Machine.execVoutCommand x write s
  | .voutMax x => Sys2Proof.Machine.execVoutMax x s
  | .voutMarginHigh x write => Sys2Proof.Machine.execVoutMarginHigh x write s
  | .voutMarginLow x write => Sys2Proof.Machine.execVoutMarginLow x write s
  | .voutTransitionRate x write => Sys2Proof.Machine.execVoutTransitionRate x write s
  | .voutDroop x write => Sys2Proof.Machine.execVoutDroop x write s
  | .frequencySwitch x write => Sys2Proof.Machine.execFrequencySwitch x write s
  | .voutOvFaultLimit x write => Sys2Proof.Machine.execVoutOvFaultLimit x write s
  | .voutUvFaultLimit x write => Sys2Proof.Machine.execVoutUvFaultLimit x write s
  | .ioutOcFaultLimit x write => Sys2Proof.Machine.execIoutOcFaultLimit x write s
  | .otFaultLimit x write => Sys2Proof.Machine.execOtFaultLimit x write s
  | .statusByte x => Sys2Proof.Machine.execStatusByte x s
  | .statusWord x => Sys2Proof.Machine.execStatusWord x s
  | .statusVout x => Sys2Proof.Machine.execStatusVout x s
  | .statusIout x => Sys2Proof.Machine.execStatusIout x s
  | .statusTemperature x => Sys2Proof.Machine.execStatusTemperature x s
  | .statusCml x => Sys2Proof.Machine.execStatusCml x s
  | .readVout x => Sys2Proof.Machine.execReadVout x s
  | .readIout x => Sys2Proof.Machine.execReadIout x s
  | .readTemperature1 x => Sys2Proof.Machine.execReadTemperature1 x s
  | .readPout x => Sys2Proof.Machine.execReadPout x s
  | .pmbusRevision x => Sys2Proof.Machine.execPmbusRevision x s
  | .mfrId x => Sys2Proof.Machine.execMfrId x s
  | .mfrModel x => Sys2Proof.Machine.execMfrModel x s
  | .interleaveBoundary n per same => Sys2Proof.Machine.execInterleaveBoundary n per same s
  | .shedDelayExpiry n => Sys2Proof.Machine.execShedDelayExpiry n s
  | .pulseLeadingEdge k off => Sys2Proof.Machine.execPulseLeadingEdge k off s
  | .peakComparatorTrip k ton diff on => Sys2Proof.Machine.execPeakComparatorTrip k ton diff on s
  | .dmaxLimit k first codes irefs => Sys2Proof.Machine.execDmaxLimit k first codes irefs s
  | .diodeEmulationZero k code iref => Sys2Proof.Machine.execDiodeEmulationZero k code iref s
  | .delayLineCalibration k ok => Sys2Proof.Machine.execDelayLineCalibration k ok s
  | .phaseMapWrite src k be data => Sys2Proof.Machine.execPhaseMapWrite src k be data s
  | .lendRequest k => Sys2Proof.Machine.execLendRequest k s
  | .phaseDisableWrite src k disable => Sys2Proof.Machine.execPhaseDisableWrite src k disable s
  | .phaseClrFail src k x => Sys2Proof.Machine.execPhaseClrFail src k x s
  | .joinComplete k => Sys2Proof.Machine.execJoinComplete k s
  | .drainDecayComplete k code0 code1 irefs => Sys2Proof.Machine.execDrainDecayComplete k code0 code1 irefs s
  | .drainTimeout k => Sys2Proof.Machine.execDrainTimeout k s
  | .stageFault k => Sys2Proof.Machine.execStageFault k s
  | .phaseFailure k dets => Sys2Proof.Machine.execPhaseFailure k dets s
  | .loopUpdate n frame slotB volts samples => Sys2Proof.Machine.execLoopUpdate n frame slotB volts samples s
  | .balanceUpdate k frame => Sys2Proof.Machine.execBalanceUpdate k frame s
  | .bankCommit src n => Sys2Proof.Machine.execBankCommit src n s
  | .bankSwap n => Sys2Proof.Machine.execBankSwap n s
  | .setpointWrite src n reg be data => Sys2Proof.Machine.execSetpointWrite src n reg be data s
  | .cuePin pins t => Sys2Proof.Machine.execCuePin pins t s
  | .cueSw src data t => Sys2Proof.Machine.execCueSw src data t s
  | .cueHoldExpiry n => Sys2Proof.Machine.execCueHoldExpiry n s
  | .loopEnable n => Sys2Proof.Machine.execLoopEnable n s
  | .loopSoftStop n => Sys2Proof.Machine.execLoopSoftStop n s
  | .loopHardStop n => Sys2Proof.Machine.execLoopHardStop n s
  | .prebiasComplete n codes => Sys2Proof.Machine.execPrebiasComplete n codes s
  | .prebiasTimeout x => Sys2Proof.Machine.execPrebiasTimeout x s
  | .softStartComplete n => Sys2Proof.Machine.execSoftStartComplete n s
  | .softStartTimeout x => Sys2Proof.Machine.execSoftStartTimeout x s
  | .rampdownComplete n => Sys2Proof.Machine.execRampdownComplete n s
  | .loopDrainComplete n => Sys2Proof.Machine.execLoopDrainComplete n s
  | .loopLatchedRestart n => Sys2Proof.Machine.execLoopLatchedRestart n s
  | .loopEnableWrite src n enable => Sys2Proof.Machine.execLoopEnableWrite src n enable s
  | .ovCrowbar x => Sys2Proof.Machine.execOvCrowbar x s
  | .ovIdle x => Sys2Proof.Machine.execOvIdle x s
  | .crowbarRelease n own others => Sys2Proof.Machine.execCrowbarRelease n own others s
  | .uvFault x => Sys2Proof.Machine.execUvFault x s
  | .loopOcFault x => Sys2Proof.Machine.execLoopOcFault x s
  | .ssShortFault x => Sys2Proof.Machine.execSsShortFault x s
  | .loopOtFault x => Sys2Proof.Machine.execLoopOtFault x s
  | .loopWarning n x => Sys2Proof.Machine.execLoopWarning n x s
  | .loopFltClear src n be data x => Sys2Proof.Machine.execLoopFltClear src n be data x s
  | .sceneRequest src data => Sys2Proof.Machine.execSceneRequest src data s
  | .latchedRequestStart => Sys2Proof.Machine.execLatchedRequestStart s
  | .entryStart idx vmon => Sys2Proof.Machine.execEntryStart idx vmon s
  | .railPowerGood rail readings => Sys2Proof.Machine.execRailPowerGood rail readings s
  | .wrapOffDelayExpiry idx reading => Sys2Proof.Machine.execWrapOffDelayExpiry idx reading s
  | .wrapStepAdvance => Sys2Proof.Machine.execWrapStepAdvance s
  | .railDischarged rail readings => Sys2Proof.Machine.execRailDischarged rail readings s
  | .enlatchRestart idx => Sys2Proof.Machine.execEnlatchRestart idx s
  | .dischargeTimeout idx => Sys2Proof.Machine.execDischargeTimeout idx s
  | .pgTimeout idx => Sys2Proof.Machine.execPgTimeout idx s
  | .railMonitorFault rail det readings => Sys2Proof.Machine.execRailMonitorFault rail det readings s
  | .retryDelayExpiry => Sys2Proof.Machine.execRetryDelayExpiry s
  | .railOn src idx => Sys2Proof.Machine.execRailOn src idx s
  | .railSoftOff src idx => Sys2Proof.Machine.execRailSoftOff src idx s
  | .railImmediateOff src idx => Sys2Proof.Machine.execRailImmediateOff src idx s
  | .railClear src idx => Sys2Proof.Machine.execRailClear src idx s
  | .heldRailRequestStart => Sys2Proof.Machine.execHeldRailRequestStart s
  | .seqForce src data => Sys2Proof.Machine.execSeqForce src data s
  | .takeResume => Sys2Proof.Machine.execTakeResume s
  | .resetStretchElapsed k => Sys2Proof.Machine.execResetStretchElapsed k s
  | .srcClassAdopt mv => Sys2Proof.Machine.execSrcClassAdopt mv s
  | .inputLimitThrottle x => Sys2Proof.Machine.execInputLimitThrottle x s
  | .sourceOverloadTimeout x => Sys2Proof.Machine.execSourceOverloadTimeout x s
  | .shareEnd x => Sys2Proof.Machine.execShareEnd x s
  | .powerPathDetectEnd low x => Sys2Proof.Machine.execPowerPathDetectEnd low x s
  | .packQualified x => Sys2Proof.Machine.execPackQualified x s
  | .powerPathInhibit x => Sys2Proof.Machine.execPowerPathInhibit x s
  | .converterFault x => Sys2Proof.Machine.execConverterFault x s
  | .hupEnableWrite src enable => Sys2Proof.Machine.execHupEnableWrite src enable s
  | .hupEnableDeferred => Sys2Proof.Machine.execHupEnableDeferred s
  | .sagDetect x iL0 => Sys2Proof.Machine.execSagDetect x iL0 s
  | .sagNoHandover x => Sys2Proof.Machine.execSagNoHandover x s
  | .startPulseEnd => Sys2Proof.Machine.execStartPulseEnd s
  | .handoverComplete x => Sys2Proof.Machine.execHandoverComplete x s
  | .handoverTimeout => Sys2Proof.Machine.execHandoverTimeout s
  | .sourceQualified x => Sys2Proof.Machine.execSourceQualified x s
  | .returnComplete x => Sys2Proof.Machine.execReturnComplete x s
  | .packEmpty x => Sys2Proof.Machine.execPackEmpty x s
  | .packRemoval how => Sys2Proof.Machine.execPackRemoval how s
  | .chargerCommandWrite src be data => Sys2Proof.Machine.execChargerCommandWrite src be data s
  | .chargerWatchdogExpiry => Sys2Proof.Machine.execChargerWatchdogExpiry s
  | .chargerQual x => Sys2Proof.Machine.execChargerQual x s
  | .prechargeDone x => Sys2Proof.Machine.execPrechargeDone x s
  | .prechargeTimeout => Sys2Proof.Machine.execPrechargeTimeout s
  | .cvReached x => Sys2Proof.Machine.execCvReached x s
  | .chargeTerminated x => Sys2Proof.Machine.execChargeTerminated x s
  | .recharge x => Sys2Proof.Machine.execRecharge x s
  | .chargeTimeout => Sys2Proof.Machine.execChargeTimeout s
  | .chargerOvFault x => Sys2Proof.Machine.execChargerOvFault x s
  | .chargerSuspend x => Sys2Proof.Machine.execChargerSuspend x s
  | .chargerDrainComplete x late => Sys2Proof.Machine.execChargerDrainComplete x late s
  | .chargerResume x => Sys2Proof.Machine.execChargerResume x s
  | .chargeBandChange => Sys2Proof.Machine.execChargeBandChange s
  | .aoWake how => Sys2Proof.Machine.execAoWake how s
  | .hibernateEnter => Sys2Proof.Machine.execHibernateEnter s
  | .ocvSample pin => Sys2Proof.Machine.execOcvSample pin s
  | .gaugeAnchorWrite src => Sys2Proof.Machine.execGaugeAnchorWrite src s
  | .gaugeEstimateUpdate sec => Sys2Proof.Machine.execGaugeEstimateUpdate sec s
  | .gaugeStarved => Sys2Proof.Machine.execGaugeStarved s
  | .gaugeCommit src => Sys2Proof.Machine.execGaugeCommit src s
  | .gaugeCommitComplete inhibited => Sys2Proof.Machine.execGaugeCommitComplete inhibited s
  | .gaugeRestore src key packDet => Sys2Proof.Machine.execGaugeRestore src key packDet s
  | .gaugeUnload src key => Sys2Proof.Machine.execGaugeUnload src key s
  | .gaugeNopack => Sys2Proof.Machine.execGaugeNopack s
  | .gaugePackReturn => Sys2Proof.Machine.execGaugePackReturn s
  | .gauAccRead src => Sys2Proof.Machine.execGauAccRead src s
  | .thermalScanFrame x => Sys2Proof.Machine.execThermalScanFrame x s
  | .thmClr src data => Sys2Proof.Machine.execThmClr src data s
  | .faultLatch => Sys2Proof.Machine.execFaultLatch s
  | .faultLineRelease c => Sys2Proof.Machine.execFaultLineRelease c s
  | .faultClear src hi be data => Sys2Proof.Machine.execFaultClear src hi be data s
  | .faultInject src data => Sys2Proof.Machine.execFaultInject src data s
  | .efiInput m x => Sys2Proof.Machine.execEfiInput m x s
  | .wdtArm k src dt => Sys2Proof.Machine.execWdtArm k src dt s
  | .wdtDisarm k src dt key => Sys2Proof.Machine.execWdtDisarm k src dt key s
  | .wdtCheckin k src dt task => Sys2Proof.Machine.execWdtCheckin k src dt task s
  | .wdtAnswer k src dt token => Sys2Proof.Machine.execWdtAnswer k src dt token s
  | .wdtWindowLate k dt => Sys2Proof.Machine.execWdtWindowLate k dt s
  | .wdtHoldElapsed x => Sys2Proof.Machine.execWdtHoldElapsed x s
  | .wdtChallengeQueue k src chal => Sys2Proof.Machine.execWdtChallengeQueue k src chal s
  | .eventArrival e payload => Sys2Proof.Machine.execEventArrival e payload s
  | .eventSelect => Sys2Proof.Machine.execEventSelect s
  | .eventRecordFault => Sys2Proof.Machine.execEventRecordFault s
  | .eventEoi t src e => Sys2Proof.Machine.execEventEoi t src e s
  | .eventRingRdWrite t src rd => Sys2Proof.Machine.execEventRingRdWrite t src rd s
  | .eventTargetEnable t src => Sys2Proof.Machine.execEventTargetEnable t src s
  | .eventTargetDisable t src => Sys2Proof.Machine.execEventTargetDisable t src s
  | .evcRaise src n data => Sys2Proof.Machine.execEvcRaise src n data s
  | .ringEnable src r enable => Sys2Proof.Machine.execRingEnable src r enable s
  | .ringDoorbell src r => Sys2Proof.Machine.execRingDoorbell src r s
  | .ringPause src r => Sys2Proof.Machine.execRingPause src r s
  | .ringResume src r => Sys2Proof.Machine.execRingResume src r s
  | .descriptorFetch r host => Sys2Proof.Machine.execDescriptorFetch r host s
  | .burstStart => Sys2Proof.Machine.execBurstStart s
  | .burstComplete r moved data => Sys2Proof.Machine.execBurstComplete r moved data s
  | .windowEntryWrite src e one data => Sys2Proof.Machine.execWindowEntryWrite src e one data s
  | .xltSync src => Sys2Proof.Machine.execXltSync src s
  | .xltSyncComplete => Sys2Proof.Machine.execXltSyncComplete s
  | .timestampRead src => Sys2Proof.Machine.execTimestampRead src s
  | .telemetryWindowEnd x => Sys2Proof.Machine.execTelemetryWindowEnd x s
  | .streamChannelConfig src c word be data => Sys2Proof.Machine.execStreamChannelConfig src c word be data s
  | .peakRegisterRead src reg => Sys2Proof.Machine.execPeakRegisterRead src reg s
  | .rushesTrigger cause => Sys2Proof.Machine.execRushesTrigger cause s
  | .rushesFrozen => Sys2Proof.Machine.execRushesFrozen s
  | .rushesRearm src => Sys2Proof.Machine.execRushesRearm src s
  | .dailyPeriodEnd meas battSecs => Sys2Proof.Machine.execDailyPeriodEnd meas battSecs s
  | .dailyRecordWrite => Sys2Proof.Machine.execDailyRecordWrite s
  | .pmcCounterWrap c => Sys2Proof.Machine.execPmcCounterWrap c s
  | .pmcCounterRead src c => Sys2Proof.Machine.execPmcCounterRead src c s
  | .pmcCounterWrite src c hi be data => Sys2Proof.Machine.execPmcCounterWrite src c hi be data s
  | .clapEdge fine => Sys2Proof.Machine.execClapEdge fine s
  | .clapCommit num => Sys2Proof.Machine.execClapCommit num s
  | .clapCodeError => Sys2Proof.Machine.execClapCodeError s
  | .clapDrive src => Sys2Proof.Machine.execClapDrive src s
  | .clapAuto => Sys2Proof.Machine.execClapAuto s
  | .slateSnap src => Sys2Proof.Machine.execSlateSnap src s
  | .timeFrame t cap => Sys2Proof.Machine.execTimeFrame t cap s
  | .timeFrameError => Sys2Proof.Machine.execTimeFrameError s
  | .timeHoldover => Sys2Proof.Machine.execTimeHoldover s
  | .timeFrameSend => Sys2Proof.Machine.execTimeFrameSend s
  | .otpRescan src data => Sys2Proof.Machine.execOtpRescan src data s
  | .otpTempScan => Sys2Proof.Machine.execOtpTempScan s
  | .otpScanComplete => Sys2Proof.Machine.execOtpScanComplete s
  | .otpProgram src key => Sys2Proof.Machine.execOtpProgram src key s
  | .otpTopup src key => Sys2Proof.Machine.execOtpTopup src key s
  | .otpSeal src key noChk => Sys2Proof.Machine.execOtpSeal src key noChk s
  | .otpBlow src key => Sys2Proof.Machine.execOtpBlow src key s
  | .otpVerify src key => Sys2Proof.Machine.execOtpVerify src key s
  | .otpStop src key => Sys2Proof.Machine.execOtpStop src key s
  | .otpSupplyReady ok => Sys2Proof.Machine.execOtpSupplyReady ok s
  | .otpPulseComplete m1 ok => Sys2Proof.Machine.execOtpPulseComplete m1 ok s
  | .otpRead src data => Sys2Proof.Machine.execOtpRead src data s
  | .otpReadComplete => Sys2Proof.Machine.execOtpReadComplete s
  | .otpReload src data => Sys2Proof.Machine.execOtpReload src data s
  | .otpReloadDeferred => Sys2Proof.Machine.execOtpReloadDeferred s
  | .hkcRestart src data => Sys2Proof.Machine.execHkcRestart src data s
  | .coreRestartComplete challenges => Sys2Proof.Machine.execCoreRestartComplete challenges s
  | .reserveLow x => Sys2Proof.Machine.execReserveLow x s
  | .hostErr r moved data => Sys2Proof.Machine.execHostErr r moved data s
  | .clkXfreqUpdate khz => Sys2Proof.Machine.execClkXfreqUpdate khz s

end Sys2Proof.Machine
end

