-- ==== Sys2Proof/Machine/Step.lean ====
section
/-! DEFINITION. One step: the command at the front of the queue, or one ADC cycle of the running counters while no command waits. -/

namespace Sys2Proof.Machine
open Sys2Proof

/-- The step. A command is taken from the front of the queue and has its effect on the rest of the state. On an empty queue one ADC
cycle passes (DESIGN CHOICE). -/
def step (s : State) : Host.Outcome State Fault Refusal :=
  match s.pending with
  | [] => .next { s with dev := s.dev.tick s.fuses }
  | c :: rest => exec c { s with pending := rest }

/-- The state with the command that the word w spells at the front of its queue; unchanged where the word spells none. -/
def State.withFetchWord (s : State) (nbits w : Nat) : State :=
  match decodeTableWord nbits w with
  | none => s
  | some c => { s with pending := c :: s.pending }

end Sys2Proof.Machine
end

