-- ==== Sys2Proof/Safety.lean ====
section
/-! DEFINITION. The terms that statements use: a safe run, what a command leaves alone, the canonical forms, and a write that reaches its
register and passes its checks. -/

namespace Sys2Proof.Machine
open Sys2Proof

/-! ## Outcomes -/

/-- The outcome is a next state: the machine neither faults nor refuses. A safe run is one in which every step is safe. -/
def safeOutcome (o : Host.Outcome State Fault Refusal) : Prop := ∃ t, o = .next t

/-! ## What a command leaves alone -/

/-- The kinds of state of the device: one name for each field of Device. -/
inductive Field where
  | regs | ram | hdr | boot | ctx | phase | loop | entry | seq | rso | thm | flt | evc | wdt | hup | chg | gau | ao | dma | tlm | pmc | syn
  | pcie | i3c | spi | otp | hkc | claims | openRes | safe | sheet | cntSeq | ts | cycle | freeCount | out
  deriving DecidableEq, Repr

/-- Two devices agree on a kind of state. -/
def Agree (d e : Device) : Field → Prop
  | .regs => e.regs = d.regs | .ram => e.ram = d.ram | .hdr => e.hdr = d.hdr | .boot => e.boot = d.boot | .ctx => e.ctx = d.ctx
  | .phase => e.phase = d.phase | .loop => e.loop = d.loop | .entry => e.entry = d.entry | .seq => e.seq = d.seq | .rso => e.rso = d.rso
  | .thm => e.thm = d.thm | .flt => e.flt = d.flt | .evc => e.evc = d.evc | .wdt => e.wdt = d.wdt | .hup => e.hup = d.hup
  | .chg => e.chg = d.chg | .gau => e.gau = d.gau | .ao => e.ao = d.ao | .dma => e.dma = d.dma | .tlm => e.tlm = d.tlm
  | .pmc => e.pmc = d.pmc | .syn => e.syn = d.syn | .pcie => e.pcie = d.pcie | .i3c => e.i3c = d.i3c | .spi => e.spi = d.spi
  | .otp => e.otp = d.otp | .hkc => e.hkc = d.hkc | .claims => e.claims = d.claims | .openRes => e.openRes = d.openRes
  | .safe => e.safe = d.safe | .sheet => e.sheet = d.sheet | .cntSeq => e.cntSeq = d.cntSeq | .ts => e.ts = d.ts
  | .cycle => e.cycle = d.cycle | .freeCount => e.freeCount = d.freeCount | .out => e.out = d.out

/-- From d to e, every kind of state outside the list stays as it was. -/
def ChangesOnly (l : List Field) (d e : Device) : Prop := ∀ f : Field, f ∉ l → Agree d e f

/-! ## Canonical forms -/

/-- Addresses strictly rising, and no entry equal to the word that an unlisted address holds. -/
def Store.wf (dflt : Nat → Word) : Store → Bool
  | [] => true
  | [(a, w)] => w != dflt a
  | (a, w) :: (b, v) :: r => decide (a < b) && w != dflt a && Store.wf dflt ((b, v) :: r)

/-- The registers and the addressed RAMs are in canonical form. -/
def Device.canonical (d : Device) : Bool := Store.wf resetWord d.regs && Memory.wf d.ram

/-- The array is in canonical form, and a bit of full margin reads 1 at M0 too (R659). -/
def OtpArray.wf (f : OtpArray) : Prop :=
  Store.wf (fun _ => 0) f.m0 = true ∧ Store.wf (fun _ => 0) f.m1 = true ∧ ∀ i, f.atM1 i &&& ~~~f.atM0 i = 0

/-- No bit that reads 1 at M0 or at M1 reads 0 there later (R657). -/
def OtpArray.grows (f g : OtpArray) : Prop := ∀ i, f.atM0 i &&& ~~~g.atM0 i = 0 ∧ f.atM1 i &&& ~~~g.atM1 i = 0

/-! ## Supplies -/

/-- The level of the POR of a domain: true while its supply is up (R82). -/
def Supplies.level (u : Supplies) : Domain → Bool
  | .ao => u.ao | .hv => u.hv | .io => u.io | .ana => u.ana | .core => u.core | .pcie => u.pcie

/-! ## A write that reaches its register -/

/-- The device as an access by src to DW address a finds it: the TAP controller has left its reset state, the lease is renewed and the
access is counted. -/
def Device.arrive (d : Device) (src : Source) (a : Nat) : Device := (d.tapLeaves src).accessed src (a / 0x1000)

/-- An access by src reaches the page of DW address a. -/
def Device.gets (d : Device) (src : Source) (a : Nat) : Bool := (d.tapLeaves src).reaches src (a / 0x1000)

/-- A write of v to the bits m of the block-specific word at DW address a reaches it and passes every check of R130. -/
def Device.takes (d : Device) (src : Source) (a : Nat) (m v : Word) : Bool := d.gets src a && (d.writeBad src a m v).isNone

/-- A write of the common header at offset o of page p reaches it and passes every check of R130. -/
def Device.takesHead (d : Device) (src : Source) (p o : Nat) (v : Word) : Bool :=
  d.gets src (pageAddr p o) && (d.writeCheck (d.requester src) p o 0 0 0xFFFFFFFF v).isNone

/-! ## PMBus transfers -/

/-- The port of x takes a PMBus command: it is in SMBus mode and answers, the core runs, the PEC rule is met, and the port has a context. -/
def Device.pmReady (d : Device) (x : SmbXfer) : Bool :=
  let p := busIdx x.port
  d.busAnswers p && d.i3c[p].mode == .smbus && d.boot.coreUp && d.boot.stage == 7 &&
    (x.pec == .good || (x.pec == .absent && !bit (d.hportCfg p) 9)) && d.i3c[p].pmCtx.isSome

/-- The device as a PMBus command on port p finds it: the lease of the port's context is renewed. -/
def Device.pmArrive (d : Device) (p : Fin 2) : Device := d.renew (d.requester (d.pmSource p))

/-- The command c completes and its transfer returns the bytes bs. -/
def Replies (s : State) (c : Instr) (x : SmbXfer) (bs : List Byte) : Prop :=
  ∃ t, exec c s = .next t ∧ t.dev.i3c[busIdx x.port].acked = true ∧ t.dev.i3c[busIdx x.port].reply = bs

/-- The value v fits field [hi:lo] of the register at offset o of loop n, and a write of it by the port's context passes every check. -/
def Device.pmFits (d : Device) (p : Fin 2) (n : Fin 16) (o hi lo : Nat) (v : Int) : Prop :=
  let a := pageAddr (loopPage n) o
  let w := setBits (d.reg a) hi lo v.toNat
  0 ≤ v ∧ v < (2 ^ (hi + 1 - lo) : Nat) ∧ clampWord (loopPage n) o w = w ∧ d.loopWriteOk n o w (fieldMask hi lo) = true ∧
    d.writeBad (d.pmSource p) a (fieldMask hi lo) w = none

/-- The command c completes, and of the stored registers it changes field [hi:lo] of the one at offset o of loop n alone, to v. -/
def Stores (s : State) (c : Instr) (n : Fin 16) (o hi lo : Nat) (v : Int) : Prop :=
  ∃ t, exec c s = .next t ∧ t.dev.reg (pageAddr (loopPage n) o) = setBits (s.dev.reg (pageAddr (loopPage n) o)) hi lo v.toNat ∧
    ∀ b, b ≠ pageAddr (loopPage n) o → t.dev.reg b = s.dev.reg b

/-! ## Moves of the state machines -/

/-- From d to e, phase k enters state st with a cause code and a requester code (R229, R233), and no other phase changes. -/
def PhaseMoves (d e : Device) (k : Fin 64) (st : PhaseState) (cause who : Nat) : Prop :=
  (e.ph k).st = st ∧ (e.ph k).prev = (d.ph k).st ∧ (e.ph k).contCause = cause ∧ (e.ph k).contBy = who ∧
    (e.ph k).contCount = satInc 0xFFF (d.ph k).contCount ∧ (e.ph k).entry = d.ts % 2 ^ 48 ∧ ∀ j, j ≠ k → e.ph j = d.ph j

/-- The loop that owns phase k regulates (R291). -/
def Device.ownRegulates (d : Device) (k : Fin 64) : Bool :=
  match (d.ph k).own with
  | some n => (d.lp n).st.regulating
  | none => false

/-- The loop that PHSk_MAP names regulates (R225, R291). -/
def Device.mapRegulates (d : Device) (k : Fin 64) : Bool :=
  match d.phMap k with
  | some n => (d.lp n).st.regulating
  | none => false

/-- What a loop keeps of itself through a move of a phase: all but the record of a lend (R315). -/
def Loop.apart (l : Loop) : Loop := { l with lendResult := .none, lendPeriods := 0, lends := 0 }

/-- From d to e, loop n enters state st with a cause code (R290, R292), and no other loop changes. -/
def LoopMoves (d e : Device) (n : Fin 16) (st : LoopState) (cause : Nat) : Prop :=
  (e.lp n).st = st ∧ (e.lp n).prev = (d.lp n).st ∧ (e.lp n).cause = cause ∧ ∀ m, m ≠ n → (e.lp m).apart = (d.lp m).apart

/-- An update slot of the wheel belongs to loop n: the loop regulates, and UPD_DIV places an update there (R259, R260). -/
def Device.updates (d : Device) (n : Fin 16) (frame : Fin 8) (slotB : Bool) : Bool :=
  (d.lp n).st.regulating && updHere (d.updDiv n) frame.val slotB

/-- A balance slot of phase k is issued: the phase is LIVE, has completed a period, and BAL_DIV permits the frame (R261). -/
def Device.balances (d : Device) (k : Fin 64) (frame : Fin 8) : Bool :=
  match (d.ph k).own with
  | some n => (d.ph k).st == .live && balHere (bits (d.leff n 0x040) 21 20) frame.val && (d.ph k).perDone
  | none => false

/-- A cue of profile p for loop n passes the checks of R273: the loop is enabled for cues, the profile is valid, the loop regulates, and no cue
was accepted in the last 32 ns. -/
def Device.cueTaken (d : Device) (n : Fin 16) (p : Nat) : Bool :=
  bit (d.reg (pageAddr 0x0C8 0x040)) (16 + n.val) && bit (d.lreg n (0x100 + 8 * p)) 31 && (d.lp n).st.regulating &&
    match (d.lp n).cueAt with
    | some c => decide (c + nsCycles 32 ≤ d.cycle)
    | none => true

/-- What a cue of profile p does to the loops from d to e: one that is taken steps I_CMD and the integrator by the profile's current (R274, R275)
and is recorded; one that is not changes no loop and no phase. -/
def CueActs (d e : Device) (n : Fin 16) (p : Nat) : Prop :=
  (∀ m, m ≠ n → e.lp m = d.lp m) ∧ (∀ k, (e.ph k).st = (d.ph k).st) ∧
  (d.cueTaken n p = true →
    let di := sbits (d.lreg n (0x100 + 8 * p)) 15 0
    ((e.lp n).iCmd : Int) = clampI 0 32767 (((d.lp n).iCmd : Int) + di * 16) ∧
    (e.lp n).integ = clampI (-(iSat (d.gexp n))) (iSat (d.gexp n)) (sat40 ((d.lp n).integ + di * 2 ^ (23 - d.gexp n))) ∧
    (e.lp n).cueCount = satInc 255 (d.lp n).cueCount ∧ (e.lp n).cueLast = p ∧ (e.lp n).cueAt = some d.cycle ∧ (e.lp n).st = (d.lp n).st) ∧
  (d.cueTaken n p = false → e.loop = d.loop ∧ e.phase = d.phase)

/-- From d to e, loop n takes fault b of LOOPn_FLT, and the further ones of the same LOOP cycle: it enters FAULTED with a cause code, keeps no
latched enable, records the first fault of its word with its timestamp, and PAGE_ERR shows a loop fault (R345, R346, R350, R353). -/
def LoopFaults (d e : Device) (n : Fin 16) (b cause : Nat) (further : List Nat := []) : Prop :=
  LoopMoves d e n .faulted cause ∧ (e.lp n).enLatched = false ∧
    (e.lp n).flt = further.foldl (fun w i => setBit w i true) (setBit (d.lp n).flt b true) ∧
    (bits (d.lp n).flt 8 0 = 0 → (e.lp n).first = b ∧ (e.lp n).fltTs = d.ts % 2 ^ 24) ∧
    (bits (d.lp n).flt 8 0 ≠ 0 → (e.lp n).first = (d.lp n).first ∧ (e.lp n).fltTs = (d.lp n).fltTs) ∧
    bit (e.head (pg (loopPage n))).err 10 = true

/-- From d to e, the detectors dets of loop n have been judged in one LOOP cycle: with c what they have counted, the loop takes the lowest of the bits
whose conditions hold, the others with it, and the sequencer then hears of it; where none holds, only the counts move (R321, R345, R350, R366). -/
def LoopDetects (d e : Device) (n : Fin 16) (dets : List LoopDetect) : Prop :=
  let c := dets.foldl (fun d x => d.loopCount n x) d
  let hits := dets.filterMap (c.loopDetected n)
  let l := (List.range 9).filter fun b => hits.any fun x => x.1 == b
  (l = [] → e = c) ∧ ∀ b r, l = b :: r → ∃ (x : Device) (cause : Nat), e = x.loopRailFault n ∧ (b, cause) ∈ hits ∧ LoopFaults c x n b cause r

/-- The bits of LOOPn_FLT whose causes are active while the sensed voltage is uv µV and the converters read x, which a W1C leaves set (R347). -/
def Device.fltHeld (d : Device) (n : Fin 16) (uv : Nat) (x : LoopSamples) : Word :=
  flag 0 (d.ovHigh n uv) ||| flag 2 (decide (((bits (d.lreg n 0x0C8) 28 16 * 1024 : Nat) : Int) ≤ d.iOutOf n x.imon)) |||
    flag 7 (d.otActive n) ||| flag 8 (d.extActive n)

/-- From d to e, entry i enters state st with a cause code (R364, R400), and no other entry changes. -/
def EntryMoves (d e : Device) (i : Fin 128) (st : EntryState) (cause : Nat) : Prop :=
  (e.en i).st = st ∧ (e.en i).prev = (d.en i).st ∧ (e.en i).cause = cause ∧ ∀ j, j ≠ i → e.en j = d.en j

/-- From d to e, rail i fails with FAILCAUSE c: SEQ_LASTFAIL records it, and a rail that was starting or on begins a stop that a
failure caused (R366, R375). -/
def RailFails (d e : Device) (i : Fin 128) (c : Nat) : Prop :=
  e.seq.lastFail = (field 31 28 c ||| field 22 16 i.val ||| field 15 12 d.seq.takes ||| field 2 0 d.seq.tgt) ∧
    (e.en i).failCause = c ∧
    ((d.en i).st = .starting ∨ (d.en i).st = .on → (e.en i).st = .stopping ∧ (e.en i).stopFail = true ∧ (e.en i).cause = 0x15) ∧
    ((d.en i).st = .off ∨ (d.en i).st = .pending → (e.en i).st = .faulted ∧ (e.en i).cause = 0x15)

/-! ## The power path and the charger -/

/-- From d to e, the path enters st with a cause (R409, R411): HUP_STAT.STATE and PREV, and the legs that R409 gives the state; a sag that is already
detected hands over at once from a state that R411 names. What the other events decide stays, and the qualification of the source runs on into EMPTY
(R418). While the reserve asks for no scene, PAGE_STATE
of page 0x040 shows the state and the cause. -/
def PathMoves (d e : Device) (st : PathState) (cause : Nat) : Prop :=
  let sags := st.sagState && d.hup.sag
  e.hup.st = (if sags then .handover else st) ∧ e.hup.prev = (if sags then st else d.hup.st) ∧ e.hup.legs = e.hup.st.legs ∧
    e.hup.qualifying = (d.hup.qualifying && st == .empty) ∧
    e.hup.present = d.hup.present ∧ e.hup.en = d.hup.en ∧ e.hup.meas = d.hup.meas ∧ e.hup.cls = d.hup.cls ∧ e.hup.sag = d.hup.sag ∧
    e.hup.convFault = d.hup.convFault ∧ (sags = false → e.chg = d.chg) ∧
    (st = .nopack ∨ st = .inhibit ∨ st = .empty → e.hup.rsvLow = true) ∧
    (sags = false → bit (d.hreg 0x040) 23 = false → (e.head (pg hupPage)).cur = st.code ∧ (e.head (pg hupPage)).cause = cause)

/-- From d to e, the charger enters st with a cause (R430): CHGSTAT.STATE and PREV, and PAGE_STATE of page 0x041. -/
def ChargerMoves (d e : Device) (st : ChgState) (cause : Nat) : Prop :=
  e.chg.st = st ∧ e.chg.prev = d.chg.st ∧ e.chg.fallback = d.chg.fallback ∧ e.chg.throttle = d.chg.throttle ∧ e.chg.band = d.chg.band ∧
    (e.head (pg chgPage)).cur = st.code ∧ (e.head (pg chgPage)).cause = cause

/-- From d to e, the path follows the charger (R411): from STANDBY to CHARGE once it charges, from CHARGE back once it neither charges nor drains. -/
def PathFollows (d e : Device) : Prop :=
  (d.hup.st = .standby → d.chg.st.charging = true → PathMoves d e .charge 0x1C) ∧
    (d.hup.st = .charge → d.chg.st.charging = false → d.chg.st ≠ .draining → PathMoves d e .standby 0x1D) ∧
    (d.hup.st ≠ .standby → d.hup.st ≠ .charge → e = d) ∧ e.gau = d.gau

/-! ## The gauge -/

/-- From d to e, the gauge enters st with a cause (R469, R470): GAU_STAT.STATE and PREV, PAGE_STATE of page 0x044, the words of a state without an estimate, and
the counters of the always-on domain untouched. -/
def GaugeMoves (d e : Device) (st : GauState) (cause : Nat) : Prop :=
  e.gau.st = st ∧ e.gau.prev = d.gau.st ∧ (e.head (pg gauPage)).cur = st.code ∧ (e.head (pg gauPage)).cause = cause ∧
    e.gau.acc = d.gau.acc ∧ e.gau.abs = d.gau.abs ∧ e.gau.age = d.gau.age ∧ e.gau.hibt = d.gau.hibt ∧ e.gau.restS = d.gau.restS ∧
    e.gau.fcc = d.gau.fcc ∧ e.gau.commits = d.gau.commits ∧
    (st = .notRestored → e.gau.soc = 0xFFFF ∧ e.gau.u = 0xFFFF ∧ e.gau.conf = 0) ∧ (st = .nopack → e.gau.soc = 0 ∧ e.gau.u = 0xFFFF ∧ e.gau.conf = 0) ∧
    (st = .seeking ∨ st = .starved → e.gau.vRc = 0) ∧ (st ≠ .counting → st ≠ .starved → e.gau.spanStart = none)

/-- The gauge after an access to one of its pages: GAU_STAT.HIBERNATE remembers whether the domain slept (R106, R109). -/
def Device.gauSeen (d : Device) : Gauge := { d.gau with wasHib := !d.ao.active }

/-! ## Watchdogs -/

/-- HOLD of instance k in ticks; 0 counts as 1 (R531). -/
def Device.wdtHoldTicks (d : Device) (k : Fin 9) : Nat := max 1 (bits (d.wdtReg k 0x048) 15 0)

/-- Instance k is tripped and counts its HOLD: it is no instance 8, and VAO is up (R48, R531). -/
def Device.wdtHolding (d : Device) (k : Fin 9) : Bool := (d.wd k).st == .tripped && k.val != 8 && d.boot.up.ao

/-- Instance k after dt ticks that end no window and no HOLD: while VAO is up an armed instance counts its tick, a tripped one its HOLD. -/
def Device.wdtNow (d : Device) (k : Fin 9) (dt : Nat) : Wdt :=
  if (d.wd k).st.armed && d.boot.up.ao then { d.wd k with tick := (d.wd k).tick + dt }
  else if d.wdtHolding k then { d.wd k with hold := (d.wd k).hold + dt }
  else d.wd k

/-- Nothing of instance k ends within dt ticks: neither a served window, nor one past CLOSE, nor the HOLD of a tripped instance. -/
def Device.wdtCalm (d : Device) (k : Fin 9) (dt : Nat) : Prop :=
  ((d.wd k).st.armed = true → d.boot.up.ao = true → if (d.wd k).served then dt = 0 else (d.wd k).tick + dt ≤ (d.wd k).close) ∧
    (d.wdtHolding k = true → (d.wd k).hold + dt < d.wdtHoldTicks k)

/-- Instance k of e begins a window with a count (R523, R540): tick 0, nothing done, and WIN, CFG and SEED as the registers of d hold them. -/
def WindowBegins (d e : Device) (k : Fin 9) (wcnt : Nat) : Prop :=
  let x := e.wd k
  x.tick = 0 ∧ x.served = false ∧ x.wcnt = wcnt % 65536 ∧ x.done = 0 ∧ x.answered = false ∧ x.win = d.wdtReg k 0x040 ∧ x.cfg = d.wdtReg k 0x044 ∧ x.seed = (d.wd k).seedReg

/-- From d to e, the window of instance k expires for a reason (R525, R532, R533): EXPREC records it; in RUN the instance warns and a new window
begins; in WARN it trips and is counted, its HOLD counts from 0, and it stays tripped unless RSTSET ends its context with it. -/
def WindowExpires (d e : Device) (k : Fin 9) (reason : Nat) : Prop :=
  let x := d.wd k
  ((d.wd k).st = .run → (e.wd k).st = .warn ∧ (e.wd k).prev = .run ∧ WindowBegins d e k (x.wcnt + 1) ∧ (e.wd k).trips = x.trips) ∧
    ((d.wd k).st = .warn → (k.val = 8 ∨ bit (d.wdtReg k 0x048) 30 = false) → (e.wd k).st = .tripped ∧ (e.wd k).prev = .warn ∧ (e.wd k).trips = satInc 255 x.trips ∧ (e.wd k).hold = 0) ∧
    ((d.wd k).st = .run ∨ k.val = 8 ∨ bit (d.wdtReg k 0x048) 30 = false →
      (e.wd k).exprec = (field 31 28 reason ||| flag 27 (x.st == .warn) ||| field 15 0 (x.tasks &&& ~~~x.done).toNat) ∧ (e.wd k).expWcnt = x.wcnt)

/-! ## Rings -/

/-- Ring x as its read of the descriptor at HEAD is issued (R576): DB is cleared. -/
def Ring.fetching (x : Ring) : Ring := { x with prev := x.st, st := .fetch, work := false, db := false, reading := true }

/-- From d to e, ring r becomes x and no other ring changes. -/
def RingIs (d e : Device) (r : Fin 32) (x : Ring) : Prop := e.rg r = x ∧ ∀ j, j ≠ r → e.rg j = d.rg j

/-- Ring r runs plainly: it is enabled, no soft reset and no start waits for it, and its descriptors are on-chip or none is loaded. -/
def Device.ringPlain (d : Device) (r : Fin 32) : Prop :=
  d.ringEnabled r = true ∧ (d.rg r).srst = false ∧ (d.rg r).latch = none ∧ ((d.rg r).work = false ∨ d.ringLoc r = true)

/-- TLM_RTRIG, and for a loop fault TLM_RLMASK, enable a trigger of the rushes by c (R626). -/
def Device.rushEnabled (d : Device) : RushCause → Bool
  | .cut _ => bit (d.reg 0x0B1044) 16
  | .loopFault n => bit (d.reg 0x0B1044) 17 && bit (d.reg 0x0B1048) n.val
  | .incident _ => bit (d.reg 0x0B1044) 18
  | .freeze _ => true

/-! ## The one-time-programmable array -/

/-- Command c requests operation k (R677); NOCHK is a bit of SEAL alone. -/
def AsksOtp (c : Instr) (src : Source) (key : BitVec 16) (noChk : Bool) (k : OtpKind) : Prop :=
  (k = .program ∧ c = .otpProgram src key) ∨ (k = .topup ∧ c = .otpTopup src key) ∨ (k = .seal ∧ c = .otpSeal src key noChk) ∨ (k = .blow ∧ c = .otpBlow src key) ∨
    (k = .verify ∧ c = .otpVerify src key)

/-- The word of OTP_PCTL that requests operation k. -/
def otpOpWord (key : BitVec 16) (noChk : Bool) : OtpKind → Word
  | .program => field 31 16 key.toNat ||| 1
  | .topup => field 31 16 key.toNat ||| 2
  | .seal => field 31 16 key.toNat ||| flag 8 noChk ||| 3
  | .blow => field 31 16 key.toNat ||| 4
  | .verify => field 31 16 key.toNat ||| 5

/-- The operation that OTP_PADDR and OTP_PDATA describe (R676, R677). -/
def Device.otpAsked (d : Device) (k : OtpKind) (noChk : Bool) : OtpRun :=
  newRun k (bits (d.reg 0x00404C) 8 0) (if k = .blow then bits (d.reg 0x00404C) 20 16 else bits (d.reg 0x00404C) 26 24) (d.reg 0x004050) (decide (k = .seal) && noChk)

/-- R678 admits the operation that OTP_PADDR describes. -/
def Device.otpAdmitted (d : Device) (k : OtpKind) : Bool :=
  d.otpAdmits k (bits (d.reg 0x00404C) 8 0) (bits (d.reg 0x00404C) 26 24) (bits (d.reg 0x00404C) 20 16)

/-- The operation has ended with a result. -/
def OtpEnds (d : Device) (result : Nat) : Prop := d.otp.run = none ∧ d.otp.result = result

/-! ## Packets that count -/

/-- The device after the arrival of a packet with a request for one DW, which is counted unless R109 leaves the read without effect. -/
def Device.countedIn (d : Device) (bar : Bar) (write : Bool) (o : Nat) (x : Dw) : Device := if quietRequest bar write o [x] then d else d.tlpIn

/-! ## The frame of every command -/

/-- Every kind of state. -/
def allFields : List Field :=
  [.regs, .ram, .hdr, .boot, .ctx, .phase, .loop, .entry, .seq, .rso, .thm, .flt, .evc, .wdt, .hup, .chg, .gau, .ao, .dma,
   .tlm, .pmc, .syn, .pcie, .i3c, .spi, .otp, .hkc, .claims, .openRes, .safe, .sheet, .cntSeq, .ts, .cycle, .freeCount, .out]

/-- What any access of the fabric may change besides the registers it is for: the flag of the TAP controller, the lease of its context, PAGE_ERR
and the continuity records, the counters, and the events that those raise. -/
def accessFields : List Field := [.hdr, .boot, .ctx, .evc, .pmc, .cntSeq]

/-- The kinds of state that a command may change. -/
def frameOf : Instr → List Field
  | .domainPorAssert .. => [.regs, .ram, .hdr, .boot, .rso, .flt, .evc, .wdt, .hup, .gau, .ao, .dma, .pmc, .pcie, .otp, .cntSeq, .freeCount, .out]
  | .domainPorRelease .. | .deviceResetEntry | .deviceResetDeferred => allFields
  | .deviceResetRelease .. => [.hdr, .boot, .gau, .ao, .i3c, .cntSeq]
  | .pllLock => [.hdr, .boot, .cntSeq, .ts, .cycle]
  | .pllLockTimeout | .clockFailure => [.boot, .hup, .ao, .otp, .freeCount]
  | .trimLoad => [.regs, .boot, .ao, .otp, .freeCount]
  | .otpBootScanComplete => [.hdr, .boot, .evc, .otp, .cntSeq, .freeCount]
  | .generationSelect => [.hdr, .boot, .cntSeq]
  | .callSheetLoad => allFields.filter fun f => f ∉ ([.thm, .wdt, .gau, .ao, .hkc, .claims, .openRes, .ts, .cycle, .freeCount] : List Field)
  | .patchInstall => [.hdr, .boot, .wdt, .gau, .ao, .hkc, .cntSeq]
  | .jtagCoreRelease => [.hdr, .boot, .wdt, .gau, .ao, .cntSeq]
  | .firstThermalScanComplete | .tapReset | .clkXfreqUpdate .. => [.boot]
  | .autoStart => [.ram, .hdr, .boot, .phase, .loop, .entry, .seq, .rso, .evc, .tlm, .pmc, .cntSeq]
  | .coreInitComplete .. => [.hdr, .boot, .evc, .wdt, .gau, .ao, .cntSeq]
  | .glbDevrstWrite .. | .rstcauseClear .. => accessFields ++ [.regs, .ao]
  | .jtagDeviceReset => [.boot, .ao]
  | .registerWrite .. | .pcieMemRequest .. | .frameWrite .. | .pmbusUnsupported .. | .burstComplete .. | .hostErr .. => allFields.filter fun f => f ∉ ([.spi, .safe, .ts, .cycle] : List Field)
  | .hcxOpen .. => accessFields ++ [.regs, .i3c, .openRes]
  | .hcxClose .. | .hcxEvict .. => allFields.filter fun f => f ∉ ([.thm, .flt, .gau, .ao, .syn, .pcie, .spi, .hkc, .openRes, .safe, .sheet, .ts, .cycle] : List Field)
  | .hcxLeaseWrite .. | .loopEnableWrite .. | .eventEoi .. => accessFields
  | .leaseExpiry .. => allFields.filter fun f => f ∉ ([.boot, .thm, .flt, .gau, .ao, .syn, .pcie, .spi, .hkc, .openRes, .safe, .sheet, .ts, .cycle] : List Field)
  | .contextQuarantine .. | .contextFree .. => [.ctx]
  | .claimRequest .. | .claimRelease .. | .ownerPolicyWrite .. => accessFields ++ [.gau, .ao, .claims]
  | .claimArbitration => [.hdr, .evc, .otp, .claims, .cntSeq, .freeCount]
  | .pageLockWrite .. | .gaugeAnchorWrite .. | .gaugeCommit .. | .gaugeRestore .. | .gaugeUnload .. => accessFields ++ [.gau, .ao]
  | .pageFreezeWrite .. => accessFields ++ [.regs, .ram, .phase, .loop, .entry, .seq, .rso, .hup, .chg, .gau, .ao, .tlm]
  | .blockSoftReset .. => allFields.filter fun f => f ∉ ([.pcie, .i3c, .spi, .otp, .hkc, .claims, .openRes, .safe, .sheet, .ts, .cycle, .freeCount] : List Field)
  | .pcieConfigRequest .. | .pcieHotReset | .pcieLinkUp | .pcieD3hotEnter => [.ram, .hdr, .evc, .dma, .pmc, .pcie, .cntSeq, .out]
  | .pcieFundamentalReset .. => [.ram, .hdr, .boot, .evc, .dma, .pmc, .pcie, .cntSeq, .out]
  | .msixEnable .. | .msixUnmask .. => [.hdr, .evc, .pmc, .pcie, .cntSeq, .out]
  | .writeFrame .. | .readFrame .. | .spiFrameAbort .. => allFields.filter fun f => f ∉ ([.safe, .ts, .cycle] : List Field)
  | .readResponseReady .. => [.i3c, .spi]
  | .i3cPrivateRead .. | .i3cTargetReset .. | .smbusTimeoutReset .. | .entdaa .. | .setdasa .. | .setnewda .. | .rstdaa ..
  | .broadcastCccModeSwitch .. | .enec .. | .disec .. | .setmwl .. | .setmrl .. | .getmwl .. | .getmrl .. | .getpid .. | .getbcr .. | .getdcr ..
  | .getmxds .. | .rstact .. | .enthdr0 .. | .frameRead .. => [.i3c]
  | .spiPortReset => [.spi]
  | .getstatus .. => [.i3c, .freeCount]
  | .ibiRequest .. | .hotJoin .. => [.i3c, .out]
  | .pmbusPage .. | .voutMode .. | .voutMax .. | .statusByte .. | .statusWord .. | .statusVout .. | .statusIout .. | .statusTemperature ..
  | .statusCml .. | .readVout .. | .readIout .. | .readPout .. | .pmbusRevision .. | .mfrId .. | .mfrModel .. => [.regs, .hdr, .ctx, .evc, .i3c, .openRes, .cntSeq]
  | .operationImmediateOff .. | .operationSoftOff .. | .operationOn .. | .operationMarginLow .. | .operationMarginHigh .. | .clearFaults .. => [.regs, .ram, .hdr, .ctx, .phase, .loop, .entry, .seq, .rso, .evc, .tlm, .pmc, .i3c, .openRes, .cntSeq]
  | .voutCommand .. | .voutMarginHigh .. | .voutMarginLow .. | .voutTransitionRate .. | .voutDroop .. | .frequencySwitch .. | .voutOvFaultLimit ..
  | .voutUvFaultLimit .. | .ioutOcFaultLimit .. | .otFaultLimit .. => [.regs, .hdr, .ctx, .loop, .evc, .i3c, .openRes, .cntSeq]
  | .readTemperature1 .. => [.regs, .hdr, .ctx, .evc, .i3c, .openRes, .cntSeq, .freeCount]
  | .interleaveBoundary .. | .drainDecayComplete .. | .drainTimeout .. | .stageFault .. | .phaseFailure .. => [.regs, .ram, .hdr, .phase, .loop, .entry, .seq, .rso, .evc, .tlm, .pmc, .cntSeq]
  | .shedDelayExpiry .. | .lendRequest .. | .loopUpdate .. => [.hdr, .phase, .loop, .evc, .pmc, .cntSeq]
  | .pulseLeadingEdge .. | .balanceUpdate .. => [.hdr, .phase, .evc, .pmc, .cntSeq]
  | .peakComparatorTrip .. | .dmaxLimit .. | .diodeEmulationZero .. | .delayLineCalibration .. => [.phase]
  | .phaseMapWrite .. | .phaseDisableWrite .. | .phaseClrFail .. => accessFields ++ [.regs, .phase, .loop]
  | .joinComplete .. => [.regs, .hdr, .phase, .loop, .evc, .pmc, .cntSeq]
  | .bankCommit .. => accessFields ++ [.loop]
  | .bankSwap .. => [.regs, .hdr, .loop, .evc, .pmc, .cntSeq]
  | .setpointWrite .. => accessFields ++ [.regs, .loop]
  | .cuePin .. => [.regs, .hdr, .phase, .loop, .evc, .tlm, .pmc, .cntSeq]
  | .cueSw .. => accessFields ++ [.regs, .phase, .loop, .tlm]
  | .cueHoldExpiry .. => [.regs, .hdr, .loop, .cntSeq]
  | .loopEnable .. | .prebiasTimeout .. | .softStartTimeout .. | .loopLatchedRestart .. | .ovCrowbar .. | .ovIdle .. | .crowbarRelease ..
  | .uvFault .. | .loopOcFault .. | .ssShortFault .. | .loopOtFault .. | .latchedRequestStart | .entryStart .. | .railPowerGood ..
  | .wrapOffDelayExpiry .. | .wrapStepAdvance | .railDischarged .. | .enlatchRestart .. | .dischargeTimeout .. | .pgTimeout .. | .railMonitorFault ..
  | .retryDelayExpiry | .heldRailRequestStart | .takeResume | .resetStretchElapsed .. => [.ram, .hdr, .phase, .loop, .entry, .seq, .rso, .evc, .tlm, .pmc, .cntSeq]
  | .loopSoftStop .. | .loopHardStop .. | .rampdownComplete .. => [.ram, .hdr, .phase, .loop, .evc, .tlm, .pmc, .cntSeq]
  | .prebiasComplete .. | .softStartComplete .. | .loopDrainComplete .. => [.ram, .hdr, .loop, .evc, .tlm, .cntSeq]
  | .loopWarning .. => [.hdr, .phase, .loop, .evc, .cntSeq]
  | .loopFltClear .. | .sceneRequest .. | .railOn .. | .railSoftOff .. | .railImmediateOff .. | .railClear .. | .seqForce .. => accessFields ++ [.ram, .phase, .loop, .entry, .seq, .rso, .tlm]
  | .srcClassAdopt .. | .sourceOverloadTimeout .. => [.hdr, .hup]
  | .inputLimitThrottle .. | .shareEnd .. | .powerPathDetectEnd .. | .packQualified .. | .powerPathInhibit .. | .converterFault ..
  | .hupEnableDeferred | .sagDetect .. | .handoverComplete .. | .handoverTimeout | .sourceQualified .. | .returnComplete .. | .packEmpty ..
  | .packRemoval .. | .chargerQual .. | .prechargeTimeout | .chargeTimeout | .chargerOvFault .. | .chargerDrainComplete .. => [.regs, .ram, .hdr, .phase, .loop, .entry, .seq, .rso, .evc, .hup, .chg, .tlm, .pmc, .cntSeq]
  | .hupEnableWrite .. => accessFields ++ [.regs, .ram, .phase, .loop, .entry, .seq, .rso, .hup, .chg, .tlm]
  | .sagNoHandover .. | .startPulseEnd => [.hup]
  | .chargerCommandWrite .. => accessFields ++ [.regs, .chg]
  | .chargerWatchdogExpiry | .chargeBandChange => [.hdr, .evc, .chg, .cntSeq]
  | .prechargeDone .. | .cvReached .. | .recharge .. | .chargerSuspend .. | .chargerResume .. => [.hdr, .evc, .hup, .chg, .cntSeq]
  | .chargeTerminated .. => [.regs, .ram, .hdr, .phase, .loop, .entry, .seq, .rso, .evc, .hup, .chg, .gau, .tlm, .pmc, .cntSeq]
  | .aoWake .. => [.gau, .ao]
  | .hibernateEnter => [.ao]
  | .ocvSample .. => [.gau]
  | .gaugeEstimateUpdate .. => [.regs, .ram, .hdr, .phase, .loop, .entry, .seq, .rso, .evc, .hup, .gau, .tlm, .pmc, .cntSeq]
  | .gaugeStarved | .gaugeNopack | .gaugePackReturn => [.hdr, .evc, .gau, .cntSeq]
  | .gaugeCommitComplete .. => [.ram, .hdr, .evc, .gau, .cntSeq]
  | .gauAccRead .. | .timestampRead .. | .peakRegisterRead .. | .pmcCounterRead .. => accessFields ++ [.gau, .ao, .tlm, .syn]
  | .thermalScanFrame .. => [.hdr, .phase, .thm, .evc, .cntSeq]
  | .thmClr .. => accessFields ++ [.thm]
  | .faultLatch => [.ram, .hdr, .phase, .loop, .entry, .seq, .rso, .flt, .evc, .tlm, .pmc, .pcie, .cntSeq, .out]
  | .faultLineRelease .. => [.ram, .hdr, .phase, .loop, .entry, .seq, .rso, .flt, .evc, .tlm, .pmc, .cntSeq]
  | .faultClear .. => accessFields ++ [.ram, .phase, .loop, .entry, .seq, .rso, .flt, .ao, .tlm]
  | .faultInject .. => accessFields ++ [.flt]
  | .efiInput .. => [.flt]
  | .wdtArm .. | .wdtDisarm .. | .wdtCheckin .. | .wdtAnswer .. | .wdtWindowLate .. | .wdtHoldElapsed .. | .wdtChallengeQueue .. => allFields.filter fun f => f ∉ ([.thm, .flt, .syn, .pcie, .spi, .openRes, .safe, .sheet, .ts, .cycle] : List Field)
  | .eventArrival .. => [.hdr, .evc, .cntSeq]
  | .eventSelect | .eventRecordFault => [.ram, .hdr, .evc, .dma, .pmc, .pcie, .i3c, .cntSeq, .out]
  | .eventRingRdWrite .. => accessFields ++ [.pcie, .i3c, .out]
  | .eventTargetEnable .. | .eventTargetDisable .. => accessFields ++ [.regs, .ram, .i3c]
  | .evcRaise .. => accessFields ++ [.regs, .ram, .pcie, .i3c, .out]
  | .ringEnable .. | .ringPause .. | .ringResume .. => accessFields ++ [.ram, .dma, .out]
  | .ringDoorbell .. | .xltSync .. => accessFields ++ [.dma]
  | .descriptorFetch .. => [.ram, .hdr, .evc, .dma, .pmc, .cntSeq, .out]
  | .burstStart => [.hdr, .evc, .dma, .pmc, .cntSeq, .out]
  | .windowEntryWrite .. => accessFields ++ [.regs, .dma]
  | .xltSyncComplete => [.hdr, .dma, .cntSeq]
  | .telemetryWindowEnd .. => [.ram, .hdr, .evc, .tlm, .pmc, .cntSeq]
  | .streamChannelConfig .. => accessFields ++ [.regs, .ram, .tlm]
  | .rushesTrigger .. | .rushesRearm .. => accessFields ++ [.ram, .tlm]
  | .rushesFrozen => [.hdr, .evc, .tlm, .cntSeq]
  | .dailyPeriodEnd .. => [.hdr, .tlm]
  | .dailyRecordWrite => [.ram, .hdr, .evc, .tlm, .pmc, .cntSeq, .freeCount]
  | .pmcCounterWrap .. => [.hdr, .evc, .pmc, .cntSeq]
  | .pmcCounterWrite .. => accessFields ++ [.regs]
  | .clapEdge .. => [.regs, .hdr, .tlm, .syn, .cntSeq, .freeCount]
  | .clapCommit .. | .clapCodeError => [.hdr, .evc, .pmc, .syn, .cntSeq, .freeCount]
  | .clapDrive .. | .slateSnap .. => accessFields ++ [.regs, .syn, .freeCount, .out]
  | .clapAuto => [.regs, .syn, .out]
  | .timeFrame .. => [.hdr, .tlm, .syn, .cntSeq, .ts]
  | .timeFrameError => [.hdr]
  | .timeHoldover => [.hdr, .syn, .cntSeq]
  | .timeFrameSend => [.out]
  | .otpRescan .. | .otpProgram .. | .otpTopup .. | .otpSeal .. | .otpBlow .. | .otpVerify .. | .otpStop .. => accessFields ++ [.otp, .freeCount]
  | .otpTempScan | .otpScanComplete | .otpSupplyReady .. | .otpPulseComplete .. | .otpReadComplete => [.hdr, .evc, .otp, .cntSeq, .freeCount]
  | .otpRead .. => accessFields ++ [.regs, .otp, .freeCount]
  | .otpReload .. => allFields.filter fun f => f ∉ ([.thm, .flt, .wdt, .gau, .ao, .pcie, .spi, .hkc, .claims, .openRes, .safe, .ts, .cycle] : List Field)
  | .otpReloadDeferred => allFields.filter fun f => f ∉ ([.boot, .thm, .flt, .wdt, .gau, .ao, .pcie, .spi, .hkc, .claims, .openRes, .safe, .ts, .cycle] : List Field)
  | .hkcRestart .. => accessFields ++ [.wdt, .otp, .hkc, .freeCount]
  | .coreRestartComplete .. => [.hdr, .boot, .evc, .wdt, .gau, .ao, .hkc, .cntSeq, .freeCount]
  | .reserveLow .. => [.ram, .hdr, .phase, .loop, .entry, .seq, .rso, .evc, .hup, .tlm, .pmc, .cntSeq]

end Sys2Proof.Machine
end

