-- ==== Sys2Proof/Certificates/Slice0/Obligations.lean ====
section
/-! DEFINITION. The statements for the provers. -/

open Sys2Proof Sys2Proof.Machine

/-- The step takes the command at the front of the queue and runs it with the queue's rest. -/
def Obligations.StepRunsTheFrontCommand : Prop :=
  ∀ (c : Instr) (s : State), step { s with pending := c :: s.pending } = exec c s

/-- On an empty queue one ADC cycle passes; this is the model's choice (log entries 1 and 125), and no rule of the spec. While the clocks run, the timestamp counts
one, is held back by a step, or slews in one cycle of 1,024 (R612, R652, R653); the accumulators take a term (R647), the buckets of the rings fill
(R588), and the times that loops, phases and the latches of GLB_RSTCAUSE count go on. Then a lease that ran out 1 ms ago expires (R138), and the SAFE of
a loop that has settled acts (R150): where there is neither, nothing more happens. While the clocks do not run, only the latches' times go on. -/
def Obligations.EmptyQueueIsOneCycle : Prop :=
  ∀ s : State, s.pending = [] →
    let ao := { s.dev.ao with firstAge := min 13 (s.dev.ao.firstAge + 1), instAge := min 13 (s.dev.ao.instAge + 1) }
    (s.dev.live = false → step s = .next { s with dev := { s.dev with ao := ao } }) ∧
    (s.dev.live = true → ∃ (t : State) (e : Device), step s = .next t ∧ t.fuses = s.fuses ∧ t.pending = [] ∧ t.dev = (e.leasesOverdue s.fuses).safeSettle ∧
      ((∀ n, e.leaseOverdue n = false) → (∀ n, (e.lp n).safeWait = false) → t.dev = e) ∧
      ChangesOnly [.hdr, .phase, .loop, .evc, .ao, .dma, .tlm, .pmc, .syn, .cntSeq, .ts, .cycle] s.dev e ∧ e.cycle = s.dev.cycle + 1 ∧ e.ao = ao ∧
      (0 < s.dev.syn.hold → e.ts = s.dev.ts ∧ e.syn.hold = s.dev.syn.hold - 1) ∧
      (s.dev.syn.hold = 0 → (s.dev.cycle + 1) % 1024 ≠ 0 ∨ s.dev.syn.slew = 0 → e.ts = (s.dev.ts + 1) % 2 ^ 64 ∧ e.syn = { s.dev.syn with tsPrev := s.dev.ts }) ∧
      (s.dev.syn.hold = 0 → (s.dev.cycle + 1) % 1024 = 0 → 0 < s.dev.syn.slew → e.ts = (s.dev.ts + 2) % 2 ^ 64 ∧ e.syn.slew = s.dev.syn.slew - 1) ∧
      (s.dev.syn.hold = 0 → (s.dev.cycle + 1) % 1024 = 0 → s.dev.syn.slew < 0 → e.ts = s.dev.ts ∧ e.syn.slew = s.dev.syn.slew + 1) ∧
      (∀ n : Fin 16, e.tlm.energy[n] = (s.dev.tlm.energy[n] + s.dev.energyTerm n) % 2 ^ 64 ∧ e.tlm.charge[n] = (s.dev.tlm.charge[n] + s.dev.chargeTerm n) % 2 ^ 64) ∧
      (∀ r : Fin 32, e.rg r = { s.dev.rg r with tokens := min 4096 ((s.dev.rg r).tokens + 2 * bits (s.dev.rcfg r) 8 0) }) ∧
      (∀ n : Fin 16, e.lp n = { s.dev.lp n with perPos := (s.dev.lp n).perPos + 256 }) ∧
      (∀ k : Fin 64, e.ph k = { s.dev.ph k with offAge := min 256 ((s.dev.ph k).offAge + 1) }))

/-- The command table gives its rows no bits: no word spells a command, and withFetchWord leaves the state alone. -/
def Obligations.NoWordSpellsACommand : Prop :=
  ∀ (nbits w : Nat), decodeTableWord nbits w = none ∧ ∀ s : State, s.withFetchWord nbits w = s

/-- The machine at reset: no command waits, the device is in device reset at boot stage 0, every stored register holds its reset word, every watchdog is
disarmed, every context FREE, every loop OFF, and no bit of the array is marginal. The registers without a reset value of the spec hold what the log
names.
Clauses that go beyond the rules named rest on the model's choices in log entries 10, 11 and 12. -/
def Obligations.ResetState : Prop :=
  let s := State.reset
  s.pending = [] ∧ s.dev.boot.held = true ∧ s.dev.boot.stage = 0 ∧ s.dev.boot.pllLock = false ∧ s.dev.boot.clkFailed = false ∧ s.dev.boot.coreUp = false ∧ s.dev.ts = 0 ∧
    (∀ a, s.dev.reg a = resetWord a) ∧ (∀ k, (s.dev.wd k).st = .disarmed) ∧ (∀ n : Fin 8, s.dev.ctx[n].st = .free) ∧ (∀ n, (s.dev.lp n).st = .off) ∧
    (∀ i, s.fuses.marginal i = false)

/-- At reset the registers and the addressed RAMs are in canonical form, and so is the array.
Clauses that go beyond the rules named rest on the model's choices in log entries 11, 13 and 14. -/
def Obligations.ResetIsCanonical : Prop :=
  State.reset.dev.canonical = true ∧ State.reset.fuses.wf

/-- Every command answers a next state, in every state, and takes nothing from the queue.
Clauses that go beyond the rules named rest on the model's choices in log entries 3 and 6. -/
def Obligations.EveryCommandIsSafe : Prop :=
  ∀ (c : Instr) (s : State), safeOutcome (exec c s) ∧ ∀ t, exec c s = .next t → t.pending = s.pending

/-- Every command changes only the kinds of state that frameOf names; an empty queue's cycle is no command. -/
def Obligations.CommandsChangeOnlyTheirState : Prop :=
  ∀ (c : Instr) (s t : State), exec c s = .next t → ChangesOnly (frameOf c) s.dev t.dev

/-- Only the end of a pulse, and what cuts one off, change the one-time-programmable array, and by one pulse (R85, R657, R679, R682). -/
def Obligations.OnlyAPulseChangesTheArray : Prop :=
  ∀ (c : Instr) (s t : State), exec c s = .next t →
    (t.fuses = s.fuses ∨ ∃ i b m1, t.fuses = s.fuses.pulse i b m1) ∧
    ((∀ m1 ok, c ≠ .otpPulseComplete m1 ok) → (∀ dom, c ≠ .domainPorAssert dom) → c ≠ .clockFailure → c ≠ .pllLockTimeout → t.fuses = s.fuses)

/-- R657, in every step from every state whose array is in canonical form: a bit that reads 1 at M0 or at M1 reads 1 there ever after, and the canonical
form stays. -/
def Obligations.ProgrammedBitsStay : Prop :=
  ∀ s t : State, s.fuses.wf → step s = .next t → s.fuses.grows t.fuses ∧ t.fuses.wf

/-- Every step keeps the registers and the addressed RAMs in canonical form. -/
def Obligations.CanonicalFormStays : Prop :=
  ∀ s t : State, s.dev.canonical = true → step s = .next t → t.dev.canonical = true

/-- DOMAIN_POR_ASSERT and DOMAIN_POR_RELEASE complete in every state, and change the level of their domain and of no other (R82). CLOCK_FAILURE completes,
and PLL_LOCK_TIMEOUT while the PLL has not locked: the clocks stop, and the AO domain keeps the flag and the cause (R35 to R37, R91).
Clauses that go beyond the rules named rest on the model's choices in log entries 3 and 10. -/
def Obligations.SupplyAndClockEventsComplete : Prop :=
  (∀ (s : State) (dom : Domain),
      (∃ t, exec (.domainPorAssert dom) s = .next t ∧ ∀ e, t.dev.boot.up.level e = (s.dev.boot.up.level e && e != dom)) ∧
      (∃ t, exec (.domainPorRelease dom) s = .next t ∧ ∀ e, t.dev.boot.up.level e = (s.dev.boot.up.level e || e == dom))) ∧
  (∀ s : State, s.dev.boot.held = false → s.dev.boot.clkFailed = false → s.dev.powered = true →
      (∃ t, exec .clockFailure s = .next t ∧ t.dev.boot.clkFailed = true ∧ t.dev.live = false ∧
        (s.dev.boot.up.ao = true → t.dev.ao.clkFail = true ∧ bit t.dev.ao.rstCause 5 = true)) ∧
      (s.dev.boot.pllLock = false → exec .pllLockTimeout s = exec .clockFailure s))

/-- R83: the loss of VHV, VIO, VANA or VCORE takes the device into device reset; the loss of VAO or of the PCIE domain alone does not. -/
def Obligations.RequiredSupplyLossEntersDeviceReset : Prop :=
  ∀ (s : State) (dom : Domain), s.dev.boot.held = false → s.dev.boot.request = none → s.dev.powered = true → s.dev.boot.up.level dom = true →
    ∃ t u, exec (.domainPorAssert dom) s = .next t ∧ exec .deviceResetEntry t = .next u ∧
      (u.dev.boot.held = true ↔ dom = .hv ∨ dom = .io ∨ dom = .ana ∨ dom = .core)

/-- DEVICE_RESET_ENTRY completes when a required supply is missing, or a reset that no pulse holds back is requested (R83 to R85); and GLB_DEVRST through
DEVICE_RESET_DEFERRED likewise. Boot starts again, every watchdog is disarmed, every context is closed, every reset line is asserted (R56, R59), and the AO domain with the
watchdogs' timer counts (R104), the ORing latches of R57 and the polarities of R58 are kept (R84). JTAG_DEVICE_RESET requests a device reset outside device reset, and TAP_RESET holds the TAP controller (R84,
R87).
Clauses that go beyond the rules named rest on the model's choices in log entries 15, 16 and 17. -/
def Obligations.DeviceResetsComplete : Prop :=
  (∀ s : State, s.dev.boot.held = false →
      (s.dev.powered = false ∨ ∃ q, s.dev.boot.request = some q ∧ s.dev.otpPulsing = false ∧ (s.dev.boot.clkFailed = false ∨ q = .jtag)) →
      ∃ t, exec .deviceResetEntry s = .next t ∧
        (s.dev.boot.request.isSome = true → exec .deviceResetDeferred s = .next t) ∧
        t.dev.boot.held = true ∧ t.dev.boot.stage = 0 ∧ t.dev.boot.request = none ∧ t.dev.boot.pllLock = false ∧ t.dev.boot.up = s.dev.boot.up ∧
        (∀ k, (t.dev.wd k).st = .disarmed ∧ (t.dev.wd k).tick = (s.dev.wd k).tick) ∧ (∀ n : Fin 8, t.dev.ctx[n].st = .free) ∧ (∀ n, (t.dev.lp n).st = .off) ∧
        t.dev.ao = s.dev.ao ∧ t.dev.gau = s.dev.gau ∧ t.dev.rso.pol = s.dev.rso.pol ∧ t.dev.rso.pin = 0xFFFFFFFF ∧ t.dev.rso.seqMask = 0xFFFFFFFF ∧
        t.dev.hup.srcHold = s.dev.orHold.hup.srcHold ∧ t.dev.hup.batHold = s.dev.orHold.hup.batHold ∧
        (∀ a, aoAddr a = true → t.dev.reg a = s.dev.reg a) ∧ t.fuses = s.fuses) ∧
  (∀ s : State,
      (s.dev.boot.held = false → s.dev.powered = true →
        ∃ t, exec .jtagDeviceReset s = .next t ∧ t.dev.boot.request.isSome = true ∧
          (s.dev.boot.clkFailed = true → t.dev.boot.request = some .jtag) ∧ (s.dev.boot.up.ao = true → bit t.dev.ao.rstCause 7 = true)) ∧
      exec .tapReset s = .next { s with dev := { s.dev with boot := { s.dev.boot with tapReset := true } } })

/-- DEVICE_RESET_RELEASE, PLL_LOCK and the stages of the boot table complete, each in its stage (R27, R61, R90, R92, R95): the straps are the majority of
three samples, BOOT_COUNT counts, the timestamp starts at lock; the trims of the trim section, or the defaults of R93, are in force;
the core's initialisation waits for the judgement of the auto-start.
Clauses that go beyond the rules named rest on the model's choices in log entries 20, 21, 25 and 26. -/
def Obligations.BootStagesComplete : Prop :=
  ∀ s : State,
    (∀ s0 s1 s2 : BitVec 4, s.dev.boot.held = true → s.dev.powered = true → s.dev.boot.up.ao = true →
      ∃ t, exec (.deviceResetRelease s0 s1 s2) s = .next t ∧ t.dev.boot.held = false ∧ t.dev.boot.stage = 1 ∧
        t.dev.ao.bootCount = satInc 255 s.dev.ao.bootCount ∧
        ∀ i, i < 4 → bit t.dev.boot.straps i =
          ((s0.getLsbD i && s1.getLsbD i) || (s0.getLsbD i && s2.getLsbD i) || (s1.getLsbD i && s2.getLsbD i))) ∧
    (s.dev.boot.held = false → s.dev.boot.pllLock = false → s.dev.boot.clkFailed = false → s.dev.powered = true →
      ∃ t, exec .pllLock s = .next t ∧ t.dev.boot.pllLock = true ∧ t.dev.boot.stage = 2 ∧ t.dev.ts = 0) ∧
    (s.dev.live = true → s.dev.boot.stage = 2 → s.dev.boot.trimJudged = false →
      ∃ t, exec .trimLoad s = .next t ∧ t.dev.boot.trimJudged = true ∧
        let v := s.fuses.values s.dev.freeCount
        t.dev.boot.trimDefault = !trimValid v (bit (wordOf v 2) 0) ∧
        ∀ i : Fin 6, t.dev.boot.anaTrim[i] = if trimValid v (bit (wordOf v 2) 0) then wordOf v (8 + i.val) else Config.anaTrimDefault i) ∧
    (s.dev.live = true → s.dev.boot.stage = 2 → s.dev.boot.trimJudged = true →
      ∃ t, exec .otpBootScanComplete s = .next t ∧ t.dev.boot.stage = 3 ∧ t.dev.otp.bootVal = s.fuses.values s.dev.freeCount ∧
        t.dev.boot.marginal = decide (0 < t.dev.otp.nMarg)) ∧
    (s.dev.live = true → s.dev.boot.stage = 3 →
      ∃ t, exec .generationSelect s = .next t ∧
        match selectGen s.dev.otp.bootVal (s.dev.bootMode == 0) with
        | some g => t.dev.boot.stage = 4 ∧ t.dev.boot.gen = g
        | none => t.dev.boot.stage = 0xE) ∧
    (s.dev.live = true → s.dev.boot.stage = 4 →
      ∃ t, exec .callSheetLoad s = .next t ∧ t.dev.boot.stage = 5 ∧
        t.dev.otp.ldWrites = (s.dev.loadSheet false s.dev.otp.bootVal s.dev.boot.gen).done % 65536 ∧
        t.dev.otp.ldIgnored = (s.dev.loadSheet false s.dev.otp.bootVal s.dev.boot.gen).ignored % 65536) ∧
    (s.dev.live = true → s.dev.boot.stage = 5 →
      ∃ t, exec .patchInstall s = .next t ∧
        if s.dev.bootMode = 3 ∧ s.dev.otp.jtagLock = false then t.dev.boot.stage = 0xD ∧ t.dev.boot.coreUp = s.dev.boot.coreUp
        else t.dev.boot.stage = 6 ∧ t.dev.boot.coreUp = true) ∧
    (s.dev.live = true → s.dev.boot.stage = 0xD →
      ∃ t, exec .jtagCoreRelease s = .next t ∧ t.dev.boot.stage = 6 ∧ t.dev.boot.coreUp = true) ∧
    (s.dev.live = true → s.dev.boot.stage = 6 →
      exec .firstThermalScanComplete s = .next { s with dev := { s.dev with boot := { s.dev.boot with firstScan := true } } }) ∧
    (∀ c, s.dev.live = true → s.dev.boot.stage = 6 → s.dev.boot.coreUp = true → s.dev.boot.autoRun = true ∨ s.dev.boot.autoBlocked = true →
      ∃ t, exec (.coreInitComplete c) s = .next t ∧ t.dev.boot.stage = 7 ∧
        ∀ k : Fin 9, k.val < 8 → (s.dev.wd k).st = .disarmed → bit (s.dev.wdtReg k 0x044) 29 = true → (t.dev.wd k).st = .run)

/-- AUTO_START completes after the first thermal scan (R90, R99, R100): a condition that fails blocks it; where all hold it is the request of rank 4.
Clauses that go beyond the rules named rest on the model's choices in log entries 21 and 22. -/
def Obligations.AutoStartCompletes : Prop :=
  ∀ s : State, s.dev.live = true → s.dev.boot.stage = 6 → s.dev.boot.firstScan = true → s.dev.boot.autoRun = false → s.dev.boot.autoBlocked = false →
    ∃ t, exec .autoStart s = .next t ∧ t.dev.boot.autoBlocked = !t.dev.boot.autoRun ∧
      (s.dev.autoStartOk = false → t.dev.boot.autoRun = false ∧ t.dev.seq = s.dev.seq) ∧
      (s.dev.autoStartOk = true → t.dev.boot.autoRun = (t.dev.seq.reqres == 1 || t.dev.seq.reqres == 2))

/-- R88: when software clears the last set bit of GLB_RSTCAUSE [8:0], FIRST becomes 0, and the next cause then loads FIRST again. RSTCAUSE_CLEAR completes
wherever its write is taken and the AO domain is up. -/
def Obligations.ClearingTheLastCauseClearsFirst : Prop :=
  ∀ (s : State) (src : Source) (be : BitVec 4) (data : Word), alignedBe be = true → s.dev.takes src 0x000064 (byteMask be) data = true →
    s.dev.boot.up.ao = true →
    ∃ t, exec (.rstcauseClear src be data) s = .next t ∧
      (∀ i, i < 9 → bit t.dev.ao.rstCause i = (bit s.dev.ao.rstCause i && !(bit data i && bit (byteMask be) i))) ∧
      (bits t.dev.ao.rstCause 8 0 = 0 → bits t.dev.ao.rstCause 31 28 = 0) ∧
      (bits t.dev.ao.rstCause 8 0 ≠ 0 → bits t.dev.ao.rstCause 31 28 = bits s.dev.ao.rstCause 31 28) ∧
      (bits t.dev.ao.rstCause 8 0 = 0 → ∀ i code, i < 9 → code < 16 → bits (t.dev.latchCause i code).ao.rstCause 31 28 = code)

/-- GLB_DEVRST_WRITE with the key completes: the reset is requested and its cause latched. R89: any other key, or a requester below administrator, resets
nothing and sets the access-violation error of the GLB page. -/
def Obligations.DevrstNeedsKeyAndAdministrator : Prop :=
  ∀ (s : State) (src : Source) (data : Word), s.dev.gets src 0x00006C = true →
    ∃ t, exec (.glbDevrstWrite src data) s = .next t ∧
      (bits data 15 0 = 0xA5C3 → s.dev.isAdmin (s.dev.requester src) = true →
        t.dev.boot.request.isSome = true ∧ (s.dev.boot.up.ao = true → bit t.dev.ao.rstCause 8 = true)) ∧
      (bits data 15 0 ≠ 0xA5C3 ∨ s.dev.isAdmin (s.dev.requester src) = false →
        t.dev.boot.request = s.dev.boot.request ∧ bit (t.dev.head (pg 0)).err 1 = true)

/-- REGISTER_WRITE of a stored register that no block rule judges completes: the addressed bytes of its writable bits are replaced, within the register's
limits (R8, R12), and every other register, the loops, the phases, the contexts' states and the memories stay.
Clauses that go beyond the rules named rest on the model's choices in log entry 32. -/
def Obligations.PlainRegisterWriteCompletes : Prop :=
  ∀ (s : State) (src : Source) (a : BitVec 24) (be : BitVec 4) (data : Word),
    a.toNat ∈ [0x000070, 0x000074, 0x000078, 0x001050, 0x001054, 0x0C4044, 0x0C4048, 0x0C8040] →
    s.dev.canonical = true → alignedBe be = true → s.dev.takes src a.toNat (byteMask be) data = true →
    ∃ t, exec (.registerWrite src a be data) s = .next t ∧
      t.dev.reg a.toNat = clampWord (a.toNat / 0x1000) (a.toNat % 0x1000)
        (mergeWord (s.dev.reg a.toNat) data (byteMask be &&& storedMask a.toNat)) ∧
      (∀ b, b ≠ a.toNat → t.dev.reg b = s.dev.reg b) ∧
      ChangesOnly [.regs, .hdr, .boot, .ctx, .evc, .gau, .ao, .pmc, .cntSeq] s.dev t.dev ∧
      (∀ n : Fin 8, t.dev.ctx[n].st = s.dev.ctx[n].st ∧ t.dev.ctx[n].priv = s.dev.ctx[n].priv) ∧ t.fuses = s.fuses

/-- R130, for every block-specific word: a write that fails a check changes no register and sets that check's bit in PAGE_ERR of its page.
Clauses that go beyond the rules named rest on the model's choices in log entries 30 and 31. -/
def Obligations.RefusedWriteOnlySetsItsError : Prop :=
  ∀ (s : State) (src : Source) (a : BitVec 24) (be : BitVec 4) (data e : Word),
    s.dev.gets src a.toNat = true → a.toNat % 4 = 0 → alignedBe be = true → (blockOf (a.toNat / 0x1000)).isSome = true →
    (isBlockPage (a.toNat / 0x1000) = false ∨ 0x040 ≤ a.toNat % 0x1000) →
    s.dev.writeBad src a.toNat (byteMask be) data = some e →
    ∃ t, exec (.registerWrite src a be data) s = .next t ∧
      (t.dev.head (pg (errPage (a.toNat / 0x1000)))).err &&& e = e ∧
      (∀ b, t.dev.reg b = s.dev.reg b) ∧ t.fuses = s.fuses ∧
      ChangesOnly [.hdr, .boot, .ctx, .evc, .gau, .ao, .pmc, .cntSeq] s.dev t.dev

/-- A port whose access does not reach the fabric changes nothing; only the debug bridge's TAP controller leaves its reset state (R95, R97). -/
def Obligations.UnreachedWriteChangesNothing : Prop :=
  ∀ (s : State) (src : Source) (a : BitVec 24) (be : BitVec 4) (data : Word), s.dev.gets src a.toNat = false →
    exec (.registerWrite src a be data) s = .next { s with dev := s.dev.tapLeaves src } ∧ (src ≠ .jtag → s.dev.tapLeaves src = s.dev)

/-- R133: HCX_OPEN takes the lowest-numbered context in FREE, records the nonce and the port, and opens it with the default lease. -/
def Obligations.OpenTakesLowestFreeContext : Prop :=
  ∀ (s : State) (p : HostPort) (c : Option (Fin 8)) (data : Word) (n : Fin 8),
    s.dev.takes (.port p c) 0x001040 0xFFFFFFFF data = true → s.dev.boot.stage = 7 → s.dev.boot.coreUp = true →
    s.dev.ctx[n].st = .free → (∀ m : Fin 8, m < n → s.dev.ctx[m].st ≠ .free) →
    ∃ t, exec (.hcxOpen (.port p c) data) s = .next t ∧
      t.dev.ctx[n].st = .opened ∧ t.dev.ctx[n].nonce.toNat = bits data 31 16 ∧ t.dev.ctx[n].port = p ∧
      t.dev.ctx[n].leaseMs = bits (s.dev.reg 0x001054) 15 0 ∧ t.dev.ctx[n].renewed = s.dev.cycle ∧
      bits t.dev.openRes[PortIdx p] 31 16 = bits data 31 16 ∧ bits t.dev.openRes[PortIdx p] 11 8 = n.val ∧
      (∀ m : Fin 8, m ≠ n → t.dev.ctx[m].st = s.dev.ctx[m].st)

/-- HCX_LEASE_WRITE stores the length within its limits, and the context's own write counts the lease from that write, while another's leaves the running count (R137). HCX_CLOSE, HCX_EVICT and
LEASE_EXPIRY, no sooner than its lease has run out, end an open context with their END codes (R135, R138, R146); CONTEXT_QUARANTINE follows when no ring it paused still drains, and
CONTEXT_FREE 10 ms later.
Clauses that go beyond the rules named rest on the model's choices in log entries 38, 39, 40 and 141. -/
def Obligations.LeaseAndContextEndCommandsComplete : Prop :=
  (∀ (s : State) (src : Source) (n : Fin 8) (be : BitVec 4) (data : Word), alignedBe be = true →
      s.dev.takes src (0x001084 + 16 * n.val) (byteMask be) data = true →
      ∃ t, exec (.hcxLeaseWrite src n be data) s = .next t ∧
        t.dev.ctx[n].leaseMs = clampN 1 60000 (bits (mergeWord (BitVec.ofNat 32 s.dev.ctx[n].leaseMs) data (byteMask be)) 15 0) ∧
        (s.dev.requester src = .ctx n → t.dev.ctx[n].renewed = s.dev.cycle ∧ t.dev.ctx[n].loaded = t.dev.ctx[n].leaseMs) ∧
        (s.dev.requester src ≠ .ctx n → t.dev.ctx[n].renewed = s.dev.ctx[n].renewed ∧ t.dev.ctx[n].loaded = s.dev.ctx[n].loaded) ∧ t.dev.ctx[n].st = s.dev.ctx[n].st ∧
        (∀ m : Fin 8, m ≠ n → t.dev.ctx[m].leaseMs = s.dev.ctx[m].leaseMs)) ∧
  (∀ (s : State) (src : Source) (data : Word) (n : Fin 8),
      (s.dev.takes src 0x001048 0xFFFFFFFF data = true → s.dev.requester src = .ctx n → bits data 15 0 = 0x5A5A →
        ∃ t, exec (.hcxClose src data) s = .next t ∧ t.dev.ctx[n].st = .ending ∧ t.dev.ctx[n].endCode = 2) ∧
      (s.dev.takes src 0x00104C 0xFFFFFFFF data = true → s.dev.isAdmin (s.dev.requester src) = true → bits data 31 16 = 0xE71C →
        bits data 3 0 = n.val → s.dev.ctx[n].st = .opened →
        ∃ t, exec (.hcxEvict src data) s = .next t ∧ t.dev.ctx[n].st = .ending ∧
          t.dev.ctx[n].endCode = if s.dev.requester src = .ctx n then 2 else 3) ∧
      (s.dev.live = true → s.dev.ctx[n].st = .opened → s.dev.leaseCycles n = 0 →
        ∃ t, exec (.leaseExpiry n) s = .next t ∧ t.dev.ctx[n].st = .ending ∧ t.dev.ctx[n].endCode = 1) ∧
      (s.dev.live = true → s.dev.leaseCycles n ≠ 0 → exec (.leaseExpiry n) s = .next s) ∧
      (s.dev.live = true → s.dev.ctx[n].st = .ending → (∀ r : Fin 32, (s.dev.rg r).st ≠ .draining) →
        exec (.contextQuarantine n) s = .next { s with dev := s.dev.updCtx n fun c => { c with st := .quarantine } }) ∧
      (s.dev.live = true → s.dev.ctx[n].st = .quarantine →
        exec (.contextFree n) s = .next { s with dev := s.dev.updCtx n fun c => { c with st := .free } }))

/-- CLAIM_REQUEST of any page by a context and CLAIM_RELEASE by an owner latch for the next round, and CLAIM_ARBITRATION resolves the round: a claim of a
free page by one context is won, one that R142 refuses sets ACCVIO and changes no owner, a release frees its page, and nothing stays latched (R141 to
R145).
Clauses that go beyond the rules named rest on the model's choices in log entries 40, 41 and 141. -/
def Obligations.ClaimCommandsComplete : Prop :=
  ∀ (s : State) (src : Source) (page : Fin 256) (data : Word) (n : Fin 8),
    (s.dev.gets src (pageAddr page.val 0x018) = true → isBlockPage page.val = true → page.val ≠ 0x003 → s.dev.requester src = .ctx n →
      ∃ t, exec (.claimRequest src page data) s = .next t ∧ { page := page, ctx := n } ∈ t.dev.claims.reqs ∧
        t.dev.claims.frees = s.dev.claims.frees) ∧
    (s.dev.gets src (pageAddr page.val 0x018) = true → isBlockPage page.val = true → page.val ≠ 0x003 → s.dev.requester src = .ctx n →
      (resourceOf page.val).isSome = true → (s.dev.head page).owner = some (.ctx n) →
      ∃ t, exec (.claimRelease src page data) s = .next t ∧ page ∈ t.dev.claims.frees ∧ t.dev.claims.reqs = s.dev.claims.reqs) ∧
    (s.dev.live = true →
      ∃ t, exec .claimArbitration s = .next t ∧ t.dev.claims.reqs = [] ∧ t.dev.claims.frees = [] ∧
        (s.dev.claims.frees = [] → s.dev.claims.reqs = [{ page := page, ctx := n }] →
          ((resourceOf page.val).isSome = true → (s.dev.head page).mode ≠ .free → s.dev.mayClaim page.val n = true →
            (s.dev.head page).owner = none → (t.dev.head page).owner = some (.ctx n)) ∧
          ((resourceOf page.val).isNone = true ∨ (s.dev.head page).mode = .free ∨ s.dev.mayClaim page.val n = false →
            (t.dev.head page).owner = (s.dev.head page).owner ∧ bit (t.dev.head page).err 1 = true)) ∧
        (s.dev.claims.frees = [page] → s.dev.claims.reqs = [] → (page.val = 0x004 → s.dev.otp.run = none) → (t.dev.head page).owner = none))

/-- The header writes complete: OWNER_POLICY_WRITE stores the policy for an administrator (R120), PAGE_LOCK_WRITE the lock (R124), PAGE_FREEZE_WRITE the
hold (R117), and BLOCK_SOFT_RESET resets its block, here the counters of page 0x002 and the status of page 0x0C8 (R84).
Clauses that go beyond the rules named rest on the model's choices in log entries 33, 34, 41 and 42. -/
def Obligations.HeaderCommandsComplete : Prop :=
  ∀ (s : State) (src : Source) (page : Fin 256) (data : Word) (b : Bool), isBlockPage page.val = true → page.val ≠ 0x003 →
    (s.dev.gets src (pageAddr page.val 0x018) = true → s.dev.isAdmin (s.dev.requester src) = true →
      s.dev.ownCheck (s.dev.requester src) page.val 0x018 = true → s.dev.locked page.val = false →
      ∃ t, exec (.ownerPolicyWrite src page 0xF data) s = .next t ∧
        (t.dev.head page).expiry = expiryOf page.val (s.dev.head page).expiry (bits data 15 14) ∧
        (t.dev.head page).mode = modeOf page.val (s.dev.head page).mode (bits data 13 12) ∧ (t.dev.head page).owner = (s.dev.head page).owner) ∧
    (s.dev.gets src (pageAddr page.val 0x01C) = true → s.dev.isAdmin (s.dev.requester src) = true →
      s.dev.privCheck (s.dev.requester src) page.val 0x01C = true → s.dev.ownCheck (s.dev.requester src) page.val 0x01C = true →
      ∃ t, exec (.pageLockWrite src page b) s = .next t ∧ (t.dev.head page).lockAdmin = b ∧ (t.dev.head page).lockOtp = (s.dev.head page).lockOtp) ∧
    (s.dev.takesHead src page.val 0x008 (setBit (s.dev.ctlWord page) 2 b) = true → (page.val = 0x040 → bit (s.dev.head page).ctl 0 = true) →
      ∃ t, exec (.pageFreezeWrite src page b) s = .next t ∧ bit (t.dev.head page).ctl 2 = b ∧ bit (t.dev.head page).ctl 0 = bit (s.dev.head page).ctl 0) ∧
    (s.dev.takesHead src page.val 0x008 (setBit (s.dev.ctlWord page) 1 true) = true →
      ∃ t, exec (.blockSoftReset src page) s = .next t ∧
        (page.val = 0x002 → t.dev.boot.aoLoss = 0 ∧ t.dev.boot.pcieLoss = 0 ∧ t.dev.boot.perst = 0) ∧
        (page.val = 0x0C8 → s.dev.canonical = true → t.dev.reg cueStatAddr = 0 ∧ t.dev.reg cueLastAddr = 0))

/-- PCIE_CONFIG_REQUEST and PCIE_MEM_REQUEST complete wherever the endpoint answers: Configuration Request Retry Status before stage 5 (R97, R725); a read
of register space returns the enabled bytes of the word, a write is made, and a DW whose byte enables are not aligned is refused with a Completer
Abort, which AER records where the request has no completion, and UNALIGNED (R161, R164). A configuration write stores the bits that the space holds
and sets the power state, MSI-X Enable and Function Mask; a Function Level Reset resets the endpoint (R162, R165, R167). The events of the endpoint complete: PCIE_FUNDAMENTAL_RESET and PCIE_HOT_RESET reset it and take the link down (R48,
R86), PCIE_LINK_UP and PCIE_D3HOT_ENTER change whether it may issue requests (R167), MSIX_ENABLE and MSIX_UNMASK set the host's bits, and a vector
that is pending stays so only while it is masked or no request may be issued (R165, R166).
Clauses that go beyond the rules named rest on the model's choices in log entries 48, 49, 50, 51, 113 and 141. -/
def Obligations.PcieCommandsComplete : Prop :=
  (∀ s : State, s.dev.pcieAnswers = true →
      (∀ (reg : Fin 1024) (w : Option Dw), ∃ t, exec (.pcieConfigRequest reg w) s = .next t ∧ t.dev.regs = s.dev.regs ∧
        (s.dev.boot.stage < 5 ∧ s.dev.boot.clkFailed = false → t.dev.pcie.cpl = .retry ∧ t.dev.pcie.cfg = s.dev.pcie.cfg) ∧
        (5 ≤ s.dev.boot.stage ∨ s.dev.boot.clkFailed = true → t.dev.pcie.cpl = .success ∧
          (w = none → t.dev.pcie.data = [s.dev.cfgWord reg.val] ∧ t.dev.pcie.cfg = s.dev.pcie.cfg) ∧
          (∀ x, w = some x →
            (reg.val ≠ 30 ∨ bit (x.data &&& byteMask x.be) 15 = false → t.dev.pcie.cfg = storeSet s.dev.pcie.cfg reg.val
              (mergeWord ((storeFind s.dev.pcie.cfg reg.val).getD (cfgWord0 reg.val)) x.data (byteMask x.be &&& cfgMask reg.val)) (cfgWord0 reg.val)) ∧
            (reg.val = 30 → bit (x.data &&& byteMask x.be) 15 = true → t.dev.pcie = { pcie0 false with cpl := .success }) ∧
            (reg.val = 17 → x.be.getLsbD 0 = true →
              (bits x.data 1 0 = 3 → t.dev.pcie.d3hot = true) ∧ (bits x.data 1 0 = 0 → t.dev.pcie.d3hot = false)) ∧
            (reg.val = 20 → x.be.getLsbD 3 = true → t.dev.pcie.msixEn = bit x.data 31 ∧ t.dev.pcie.funcMask = bit x.data 30) ∧
            (reg.val = 65 → bit (x.data &&& byteMask x.be) 15 = true → t.dev.pcie.aerCa = false)))) ∧
      (∀ (bar : Bar) (o : Nat) (x : Dw), bar ≠ .bar4 → o % 4 = 0 → o + 4 ≤ barSize bar → x.be ≠ 0 → s.dev.barOpen bar o 1 = true →
        let b := barTarget bar o
        (alignedBe x.be = true →
          (∃ t, exec (.pcieMemRequest bar false o [x]) s = .next t ∧ t.dev.pcie.cpl = .success ∧
            t.dev.pcie.data = [((s.dev.countedIn bar false o x).readWord b.2 b.1).1 &&& byteMask x.be]) ∧
          (∃ t, exec (.pcieMemRequest bar true o [x]) s = .next t ∧
            t.dev = (s.dev.tlpIn.writeWord s.fuses b.2 b.1 (byteMask x.be) x.data).complete .none [])) ∧
        (alignedBe x.be = false →
          (∃ t, exec (.pcieMemRequest bar false o [x]) s = .next t ∧ t.dev.pcie.cpl = .completerAbort ∧ t.dev.regs = s.dev.regs ∧
            ((blockOf (b.1 / 0x1000)).isSome = true → bit (t.dev.head (pg (errPage (b.1 / 0x1000)))).err 0 = true)) ∧
          (∃ t, exec (.pcieMemRequest bar true o [x]) s = .next t ∧ t.dev.pcie.cpl = .none ∧ t.dev.regs = s.dev.regs ∧
            (s.dev.boot.clkFailed = false → t.dev.pcie.aerCa = true) ∧
            ((blockOf (b.1 / 0x1000)).isSome = true → bit (t.dev.head (pg (errPage (b.1 / 0x1000)))).err 0 = true))))) ∧
  (∀ s : State,
      (s.dev.pcie.perstLow = false → ∃ t, exec (.pcieFundamentalReset true) s = .next t ∧ t.dev.pcie = pcie0 true ∧
        t.dev.boot.perst = if s.dev.boot.held || s.dev.boot.clkFailed then s.dev.boot.perst else satInc 255 s.dev.boot.perst) ∧
      (s.dev.pcie.perstLow = true →
        exec (.pcieFundamentalReset false) s = .next { s with dev := { s.dev with pcie := { s.dev.pcie with perstLow := false } } }) ∧
      (s.dev.pcieAnswers = true →
        (∃ t, exec .pcieHotReset s = .next t ∧ t.dev.pcie = pcie0 false) ∧
        (∃ t, exec .pcieLinkUp s = .next t ∧ t.dev.pcie.linkUp = true ∧ t.dev.pcie.d3hot = false) ∧
        (∃ t, exec .pcieD3hotEnter s = .next t ∧ t.dev.pcie = { s.dev.pcie with d3hot := true }) ∧
        (∀ en fm, ∃ t, exec (.msixEnable en fm) s = .next t ∧ t.dev.pcie.msixEn = en ∧ t.dev.pcie.funcMask = fm ∧
          t.dev.pcie.vecMask = s.dev.pcie.vecMask ∧ (en = false → t.dev.pcie.pending = 0)) ∧
        (∀ v, ∃ t, exec (.msixUnmask v) s = .next t ∧
          (v = none → t.dev.pcie.funcMask = false ∧ t.dev.pcie.vecMask = s.dev.pcie.vecMask) ∧
          (∀ n : Fin 16, v = some n → t.dev.pcie.funcMask = s.dev.pcie.funcMask ∧
            ∀ i, t.dev.pcie.vecMask.getLsbD i = (s.dev.pcie.vecMask.getLsbD i && decide (i ≠ n.val))) ∧
          (t.dev.pcieMayIssue = true → t.dev.pcie.msixEn = true → t.dev.pcie.funcMask = false →
            ∀ i, t.dev.pcie.pending.getLsbD i = true → t.dev.pcie.vecMask.getLsbD i = true))))

/-- A frame of R168 whose bytes are built as R170 and R172 say meets no failing condition of R726, and a wrong HCRC, or of a write frame a wrong DCRC, is
CRC_ERR: the frame is then not performed. WRITE_FRAME, READ_FRAME, SPI_FRAME_ABORT, FRAME_WRITE and FRAME_READ complete (R168 to R173, R186, R194): a
frame without a failing condition of R726 writes its words in ascending order or gets the words it reads, and any other frame writes no register and
gets zeros; LASTWR follows the write frames alone. In I3C mode a frame comes in SDR or, after ENTHDR0, in HDR-DDR with command code 0x40; any other
HDR transfer is not acknowledged (R177).
Clauses that go beyond the rules named rest on the model's choices in log entries 52, 53 and 54. -/
def Obligations.FrameCommandsComplete : Prop :=
  (∀ (cmd a2 a1 a0 h c : Byte) (data : List Byte) (l : FrameLimits), l.notReady = false →
      let head := [cmd, a2, a1, a0]
      let n := cmd.toNat % 8 + 1
      let a := a2.toNat * 65536 + a1.toNat * 256 + a0.toNat
      let rd := cmd.getLsbD 3
      (h ≠ crc8 head → frameResult l rd (head ++ [h] ++ data ++ [c]) = 3) ∧
      (n ≤ l.words → a + 4 * (n - 1) ≤ 0xFFFFFC → a % 4 = 0 → 4 * n + 6 ≤ l.mwl → 4 * n + 2 ≤ l.mrl → data.length = 4 * n →
        (rd = true → frameResult l rd (head ++ [crc8 head]) = 0) ∧
        (rd = false → frameResult l rd (head ++ [crc8 head] ++ data ++ [c]) = if c = crc8 data then 0 else 3) ∧
        (rd = false → frameResult l rd (head ++ [crc8 head] ++ data) = 4))) ∧
  (∀ (s : State) (bs : List Byte), bs ≠ [] → s.dev.live = true → 5 ≤ s.dev.boot.stage → s.dev.framePagesOpen bs = true →
      let rd := (frameCmd bs).getLsbD 3
      let words := wordsOfBytes (frameData bs)
      let zeros := List.replicate (4 * frameWords bs) (0 : Byte)
      (s.dev.spi.enabled = true → bs ≠ spiResetPattern → ∀ res, frameResult { words := 8, mwl := 64, mrl := 64, notReady := false } rd bs = res →
        let src := frameSource .spi bs
        ∃ t u, (∀ hdr, exec (.writeFrame .spi ⟨hdr, bs⟩) s = .next t ∧ exec (.readFrame .spi ⟨hdr, bs⟩) s = .next t) ∧ exec (.spiFrameAbort bs) s = .next u ∧
          u.dev.regs = t.dev.regs ∧ u.dev.spi.rsp = none ∧
          (rd = false → t.dev.spi.lastWr = res ∧
            t.dev.regs = if res = 0 then (s.dev.frameWrite s.fuses src (frameAddr bs) words).regs else s.dev.regs) ∧
          (rd = true → t.dev.spi.lastWr = s.dev.spi.lastWr ∧ (res ≠ 0 → t.dev.regs = s.dev.regs) ∧
            t.dev.spi.rsp.map (·.bytes) = some (frameResponse s.dev.spi.lastWr res
              (if res = 0 then (s.dev.frameRead src (frameAddr bs) (frameWords bs)).1 else zeros)))) ∧
      (∀ bus : BusPort, s.dev.busAnswers (busIdx bus) = true →
        let p := busIdx bus
        let x := s.dev.i3c[p]
        let src := frameSource (busPort p) bs
        (∀ y, x.mode = .i3c → x.hdr = false ∨ y ≠ 0x40 →
          exec (.writeFrame (busPort p) ⟨some y, bs⟩) s = .next { s with dev := s.dev.busNack p } ∧
          exec (.readFrame (busPort p) ⟨some y, bs⟩) s = .next { s with dev := s.dev.busNack p }) ∧
        ∀ (c : Instr) (e : Device) (res : Nat), frameResult x.limits rd bs = res →
          (x.mode = .i3c ∧ e = s.dev.updI3c p (fun y => { y with hdr := false }) ∧ (c = .writeFrame (busPort p) ⟨none, bs⟩ ∨ c = .readFrame (busPort p) ⟨none, bs⟩)) ∨
          (x.mode = .i3c ∧ x.hdr = true ∧ e = s.dev ∧ (c = .writeFrame (busPort p) ⟨some 0x40, bs⟩ ∨ c = .readFrame (busPort p) ⟨some 0x40, bs⟩)) ∨
          (x.mode = .smbus ∧ e = s.dev ∧ c = .frameWrite { port := bus, pec := .good } bs) →
        ∃ t, exec c s = .next t ∧ t.dev.i3c[p].acked = true ∧
          (rd = false → t.dev.i3c[p].lastWr = res ∧
            t.dev.regs = if res = 0 then (e.frameWrite s.fuses src (frameAddr bs) words).regs else s.dev.regs) ∧
          (rd = true → t.dev.i3c[p].lastWr = x.lastWr ∧ (res ≠ 0 → t.dev.regs = s.dev.regs) ∧
            t.dev.i3c[p].rsp.map (·.bytes) = some (frameResponse x.lastWr res
              (if res = 0 then (e.frameRead src (frameAddr bs) (frameWords bs)).1 else zeros)))) ∧
      (∀ bus : BusPort, s.dev.busAnswers (busIdx bus) = true → s.dev.i3c[busIdx bus].mode = .smbus → ∀ r, s.dev.busResponse (busIdx bus) = some r →
        Replies s (.frameRead { port := bus, pec := .good }) { port := bus, pec := .good } (blockBytes r)))

/-- The CCCs of R174 to R184 complete on a port in I3C mode, each with its own effect on the port's record and nothing else (in the boot-failed state the port takes no dynamic address, R95); outside I3C mode a directed
CCC is not acknowledged (R184). READ_RESPONSE_READY, I3C_PRIVATE_READ, the port resets, IBI_REQUEST and HOT_JOIN complete: a read in SDR, or in HDR-DDR with
command code 0xC0, gets the latest response, or NO_FRAME where there is none (R172, R177, R178); a reset of a port gives it its protocol state at reset and leaves every register (R183,
R185, R195); an interrupt that waits goes out, and a refused one waits
on (R180); a hot-join that waits goes out once (R181).
Clauses that go beyond the rules named rest on the model's choices in log entries 55, 57, 58, 59, 60 and 61. -/
def Obligations.CccAndPortCommandsComplete : Prop :=
  (∀ (s : State) (bus : BusPort) (a st : BitVec 7) (len : BitVec 16) (act : Byte) (ir hj : Bool),
      let p := busIdx bus
      let x := s.dev.i3c[p]
      let out (y : I3cPort) : Host.Outcome State Fault Refusal := .next { s with dev := s.dev.updI3c p fun _ => y }
      let y : I3cPort := { x with hdr := false, acked := true, reply := [] }
      (s.dev.busAnswers p = true → x.mode = .i3c →
        (s.dev.addressable = true → exec (.entdaa bus a) s = out { y with dyn := some (x.dyn.getD a) }) ∧
        (s.dev.addressable = false → exec (.entdaa bus a) s = .next { s with dev := s.dev.busNack p } ∧ exec (.setdasa bus st a) s = .next { s with dev := s.dev.busNack p }) ∧
        (s.dev.addressable = true → x.static = st → x.dyn = none → exec (.setdasa bus st a) s = out { y with dyn := some a }) ∧
        exec (.setnewda bus a) s = out { y with dyn := x.dyn.map fun _ => a } ∧
        exec (.rstdaa bus) s = out { y with dyn := none } ∧
        exec (.enec bus ir hj) s = out { y with intEn := x.intEn || ir, hjEn := x.hjEn || hj } ∧
        exec (.disec bus ir hj) s = out { y with intEn := x.intEn && !ir, hjEn := x.hjEn && !hj } ∧
        exec (.setmwl bus len) s = out { y with mwl := if 10 ≤ len.toNat then len.toNat else x.mwl } ∧
        exec (.setmrl bus len) s = out { y with mrl := if 6 ≤ len.toNat then len.toNat else x.mrl } ∧
        exec (.getmwl bus) s = out { y with reply := bytes2 x.mwl } ∧
        exec (.getmrl bus) s = out { y with reply := bytes2 x.mrl } ∧
        exec (.getpid bus) s = out { y with reply := s.dev.pid p } ∧
        exec (.getbcr bus) s = out { y with reply := [0x26] } ∧
        exec (.getdcr bus) s = out { y with reply := [0x00] } ∧
        exec (.getmxds bus) s = out { y with reply := [0x00, 0x00] } ∧
        (∃ t v, exec (.getstatus bus) s = .next t ∧ t.dev.i3c[p] = { y with reply := bytes2 v } ∧ v < 65536) ∧
        exec (.rstact bus act) s = out { y with rstAct := act } ∧
        (bit (s.dev.hportCfg p) 7 = true → exec (.enthdr0 bus) s = out { y with hdr := true })) ∧
      (s.dev.busAnswers p = true → x.modeCfg = 0 → exec (.broadcastCccModeSwitch bus) s = out { x with mode := .i3c }) ∧
      (x.mode ≠ .i3c → exec (.setnewda bus a) s = out { x with acked := false, reply := [] })) ∧
  (∀ (s : State) (bus : BusPort), s.dev.live = true →
      let p := busIdx bus
      let x := s.dev.i3c[p]
      (∃ t, exec (.readResponseReady (busPort p)) s = .next t ∧ t.dev.i3c[p] = { x with rsp := x.rsp.map fun r => { r with ready := true } }) ∧
      (∃ t, exec (.readResponseReady .spi) s = .next t ∧ t.dev.spi = { s.dev.spi with rsp := s.dev.spi.rsp.map fun r => { r with ready := true } }) ∧
      (s.dev.busAnswers p = true → x.mode = .i3c →
        (∀ hdr, hdr = none ∨ (hdr = some 0xC0 ∧ x.hdr = true) →
          (∀ r, x.rsp = some r → r.ready = true → Replies s (.i3cPrivateRead ⟨bus, hdr⟩) { port := bus, pec := .absent } r.bytes) ∧
          (x.rsp = none → Replies s (.i3cPrivateRead ⟨bus, hdr⟩) { port := bus, pec := .absent } (frameResponse x.lastWr 5 []))) ∧
        (∀ y, x.hdr = false ∨ y ≠ 0xC0 → exec (.i3cPrivateRead ⟨bus, some y⟩) s = .next { s with dev := s.dev.busNack p })) ∧
      exec .spiPortReset s = .next { s with dev := { s.dev with spi := { enabled := bit (s.dev.reg 0x000078) 0, lastWr := 0, rsp := none } } } ∧
      (∃ t, exec (.i3cTargetReset bus) s = .next t ∧ (x.mode = .smbus → exec (.smbusTimeoutReset bus) s = .next t) ∧ t.dev.regs = s.dev.regs ∧
        let y := t.dev.i3c[p]
        y.dyn = none ∧ y.mwl = 38 ∧ y.mrl = 34 ∧ y.intEn = true ∧ y.rsp = none ∧ y.lastWr = 0 ∧ y.hdr = false ∧ y.pmCtx = none ∧
        y.mode = (if bits (s.dev.reg (0x000070 + 4 * p.val)) 5 4 = 1 then .i3c else if bits (s.dev.reg (0x000070 + 4 * p.val)) 5 4 = 3 then .disabled else .smbus)) ∧
      (s.dev.busAnswers p = true → x.mode = .i3c → x.ibiWait = true → x.intEn = true → x.dyn.isSome = true →
        ∃ t, exec (.ibiRequest ⟨bus, true⟩) s = .next t ∧ t.dev.i3c[p] = { x with ibiWait := false } ∧ t.dev.out = .ibi bus (s.dev.ibiMapNow p) :: s.dev.out) ∧
      exec (.ibiRequest ⟨bus, false⟩) s = .next s ∧
      (s.dev.busAnswers p = true → s.dev.addressable = true → x.mode = .i3c → x.dyn = none → x.hjDone = false → x.hjEn = true → bit (s.dev.hportCfg p) 8 = true →
        ∃ t, exec (.hotJoin bus) s = .next t ∧ t.dev.i3c[p] = { x with hjDone := true } ∧ t.dev.out = .hotJoin bus :: s.dev.out))

/-- The PMBus reads complete: on the loop that PAGE names each returns its own value (R188, R189, R354), and a read of the port returns the port's; with PAGE 0xFF
every read is refused with bit 6 of STATUS_CML (R188). The
PMBus writes complete: a value that fits its register and passes the checks replaces its field, and no other stored register changes (R190, R191);
FREQUENCY_SWITCH replaces the shadow PERIOD (R271); OPERATION and CLEAR_FAULTS do what the register writes of R383 and R348 do, and change nothing where a
check refuses one of their writes (R191), but for a VSEL that went before; PAGE takes 0 to 15 and 0xFF alone; a code that is not supported is not acknowledged and sets bit 7 of STATUS_CML (R189).
Clauses that go beyond the rules named rest on the model's choices in log entries 43, 62, 63 and 114. -/
def Obligations.PmbusCommandsComplete : Prop :=
  (∀ (s : State) (x : SmbXfer) (n : Fin 16), s.dev.pmReady x = true →
      let y := s.dev.i3c[busIdx x.port]
      (y.pmPage.toNat = n.val →
        Replies s (.voutMode x) x [0x14] ∧
        Replies s (.voutCommand x none) x (s.dev.pmVoltsAt n 0x044 13 0) ∧
        Replies s (.voutMax x) x (s.dev.pmVoltsAt n 0x04C 13 0) ∧
        Replies s (.voutMarginHigh x none) x (s.dev.pmVoltsAt n 0x048 29 16) ∧
        Replies s (.voutMarginLow x none) x (s.dev.pmVoltsAt n 0x048 13 0) ∧
        Replies s (.voutOvFaultLimit x none) x (s.dev.pmVoltsAt n 0x0C0 29 16) ∧
        Replies s (.voutUvFaultLimit x none) x (s.dev.pmVoltsAt n 0x0C0 13 0) ∧
        Replies s (.voutTransitionRate x none) x (word2 (toLinear11 ((bits (s.dev.lreg n 0x050) 8 0 : Nat) / (10 : Rat)))) ∧
        Replies s (.voutDroop x none) x (word2 (toLinear11 ((bits (s.dev.lreg n 0x054) 31 16 : Nat) / (10000 : Rat)))) ∧
        Replies s (.frequencySwitch x none) x (word2 (toLinear11 (ratDiv 32000000 (bits (s.dev.lreg n 0x070) 17 0 : Nat)))) ∧
        Replies s (.ioutOcFaultLimit x none) x (word2 (toLinear11 (bits (s.dev.lreg n 0x0C8) 28 16 : Nat))) ∧
        Replies s (.otFaultLimit x none) x (word2 (toLinear11 (bits (s.dev.lreg n 0x0D4) 7 0 : Nat))) ∧
        Replies s (.statusByte x) x [BitVec.ofNat 8 (s.dev.statusByte n y.cml)] ∧
        Replies s (.statusWord x) x (word2 (s.dev.statusWord n y.cml)) ∧
        Replies s (.statusVout x) x [BitVec.ofNat 8 (s.dev.statusVout n)] ∧
        Replies s (.statusIout x) x [BitVec.ofNat 8 (s.dev.statusIout n)] ∧
        Replies s (.statusTemperature x) x [BitVec.ofNat 8 (s.dev.statusTemp n)] ∧
        Replies s (.readVout x) x (word2 (u16OfCode s.dev.tlm.pm[n].1)) ∧
        Replies s (.readIout x) x (word2 (toLinear11 ((s.dev.tlm.pm[n].2.1 : Nat) / (8 : Rat)))) ∧
        Replies s (.readPout x) x (word2 (toLinear11 ((s.dev.tlm.pm[n].2.2 : Nat) / (2 : Rat)))) ∧
        (∀ t, s.dev.hottestOf (s.dev.phasesOf n (·.st == .live)) = some t → Replies s (.readTemperature1 x) x (word2 (toLinear11 ((t : Rat) / 16)))) ∧
        (s.dev.hottestOf (s.dev.phasesOf n (·.st == .live)) = none → ∃ v, Replies s (.readTemperature1 x) x (word2 v)) ∧
        Replies s (.pmbusUnsupported x ⟨0x01, none⟩) x [(s.dev.lp n).oper])) ∧
  (∀ (s : State) (x : SmbXfer) (n : Fin 16) (v : BitVec 16), s.dev.pmReady x = true → s.dev.i3c[busIdx x.port].pmPage.toNat = n.val →
      let p := busIdx x.port
      let src := s.dev.pmSource p
      let d := s.dev.pmArrive p
      let lin := ofLinear11 v
      let same (c : Instr) (e : Device) (oper : Option Byte) : Prop := ∃ t, exec c s = .next t ∧ t.dev.seq = e.seq ∧ t.dev.entry = e.entry ∧
        t.dev.regs = e.regs ∧ t.dev.loop = (match oper with | some b => (e.updLp n fun l => { l with oper := b }).loop | none => e.loop)
      let req (e : Device) (op : Nat) : Device := e.writePlain s.fuses src 0x03004C 0xFFFFFFFF (railReqWord n op)
      let passes (e : Device) (op : Nat) : Bool := (e.writeBad src 0x03004C 0xFFFFFFFF (railReqWord n op)).isNone
      let fltClr (e : Device) : Device := e.writePlain s.fuses src (pageAddr (loopPage n) 0x0D8) 0xFFFFFFFF 0xFFFFFFFF
      let fltPasses : Bool := (d.writeBad src (pageAddr (loopPage n) 0x0D8) 0xFFFFFFFF 0xFFFFFFFF).isNone
      let on (c : Instr) (vsel : Nat) (b : Byte) : Prop :=
        let z := d.pmField s.fuses src n 0x040 1 0 vsel
        (z.2 = true → same c (req z.1 1) (if passes z.1 1 then some b else none)) ∧ (z.2 = false → same c z.1 none)
      (s.dev.canonical = true →
        (s.dev.pmFits p n 0x044 13 0 (codeOfU16 v) → Stores s (.voutCommand x (some v)) n 0x044 13 0 (codeOfU16 v)) ∧
        (s.dev.pmFits p n 0x048 29 16 (codeOfU16 v) → Stores s (.voutMarginHigh x (some v)) n 0x048 29 16 (codeOfU16 v)) ∧
        (s.dev.pmFits p n 0x048 13 0 (codeOfU16 v) → Stores s (.voutMarginLow x (some v)) n 0x048 13 0 (codeOfU16 v)) ∧
        (s.dev.pmFits p n 0x0C0 29 16 (codeOfU16 v) → Stores s (.voutOvFaultLimit x (some v)) n 0x0C0 29 16 (codeOfU16 v)) ∧
        (s.dev.pmFits p n 0x0C0 13 0 (codeOfU16 v) → Stores s (.voutUvFaultLimit x (some v)) n 0x0C0 13 0 (codeOfU16 v)) ∧
        (s.dev.pmFits p n 0x050 8 0 (ratOpen (lin * 10)) → Stores s (.voutTransitionRate x (some v)) n 0x050 8 0 (ratOpen (lin * 10))) ∧
        (s.dev.pmFits p n 0x054 31 16 (ratOpen (lin * 10000)) → Stores s (.voutDroop x (some v)) n 0x054 31 16 (ratOpen (lin * 10000))) ∧
        (s.dev.pmFits p n 0x0C8 28 16 (ratNear lin) → Stores s (.ioutOcFaultLimit x (some v)) n 0x0C8 28 16 (ratNear lin)) ∧
        (s.dev.pmFits p n 0x0D4 7 0 (ratNear lin) → Stores s (.otFaultLimit x (some v)) n 0x0D4 7 0 (ratNear lin)) ∧
        (0 < lin → 8000 ≤ ratNear (32000000 / lin) → ratNear (32000000 / lin) ≤ 160000 → s.dev.pmFits p n 0x070 17 0 (ratNear (32000000 / lin)) →
          Stores s (.frequencySwitch x (some v)) n 0x070 17 0 (ratNear (32000000 / lin)))) ∧
      same (.operationImmediateOff x) (req d 3) (if passes d 3 then some 0x00 else none) ∧
      same (.operationSoftOff x) (req d 2) (if passes d 2 then some 0x40 else none) ∧
      on (.operationOn x) 0 0x80 ∧ on (.operationMarginLow x) 1 0x98 ∧ on (.operationMarginHigh x) 2 0xA8 ∧
      (fltPasses = true → passes d 4 = true → same (.clearFaults x) (req (fltClr d) 4) none) ∧
      (fltPasses = false → passes (fltClr d) 4 = true → same (.clearFaults x) (fltClr d) none) ∧
      (fltPasses = true → passes d 4 = false → same (.clearFaults x) (req d 4) none) ∧
      (∀ b : Byte, operationOf b = none → same (.pmbusUnsupported x ⟨0x01, some b⟩) d none)) ∧
  (∀ (s : State) (x : SmbXfer), s.dev.pmReady x = true →
      let p := busIdx x.port
      let y := s.dev.i3c[p]
      (y.pmPage ≠ 0xFF →
        Replies s (.statusCml x) x [y.cml] ∧ Replies s (.pmbusPage x none) x [y.pmPage] ∧ Replies s (.pmbusRevision x) x [0x33] ∧
        Replies s (.mfrId x) x (blockBytes [0x45, 0x4C, 0x56, 0x49, 0x4F, 0x52]) ∧
        Replies s (.mfrModel x) x (blockBytes [0x4B, 0x42, 0x39, 0x36, 0x34, 0x30])) ∧
      (y.pmPage = 0xFF →
        ∀ c ∈ [Instr.voutMode x, .voutCommand x none, .voutMax x, .voutMarginHigh x none, .voutMarginLow x none, .voutOvFaultLimit x none,
            .voutUvFaultLimit x none, .voutTransitionRate x none, .voutDroop x none, .frequencySwitch x none, .ioutOcFaultLimit x none,
            .otFaultLimit x none, .statusByte x, .statusWord x, .statusVout x, .statusIout x, .statusTemperature x, .readVout x, .readIout x,
            .readPout x, .readTemperature1 x, .pmbusUnsupported x ⟨0x01, none⟩, .statusCml x, .pmbusPage x none, .pmbusRevision x, .mfrId x, .mfrModel x],
          ∃ t, exec c s = .next t ∧ t.dev.i3c[p] = { y with cml := y.cml ||| 0x40, acked := true, reply := [] } ∧ t.dev.regs = s.dev.regs) ∧
      (∀ b : Byte, ∃ t, exec (.pmbusPage x (some b)) s = .next t ∧
        t.dev.i3c[p] = if b.toNat < 16 ∨ b = 0xFF then { y with pmPage := b, acked := true, reply := [] } else
          { y with cml := y.cml ||| 0x40, acked := true, reply := [] }) ∧
      (∀ (code : Byte) (data : Option Byte), pmCodes.contains code.toNat = false →
        ∃ t, exec (.pmbusUnsupported x ⟨code, data⟩) s = .next t ∧ t.dev.i3c[p].acked = false ∧ t.dev.i3c[p].cml.getLsbD 7 = true))

/-- The ends of a phase's states complete (R208, R229, R230, R233): JOIN_COMPLETE after JOIN_CYC periods, DRAIN_DECAY_COMPLETE to the drain's destination
once two samples lie within I_DECAY, and DRAIN_TIMEOUT after DRAIN_TMO periods, with FAILCAUSE 5. A phase that reaches HANDOFF and may not stay there
enters OFF in the same LOOP cycle. PHASE_FAILURE and STAGE_FAULT complete: a phase of which a detector's condition holds, on the samples counted with
it, enters FAILED with the FAILCAUSE that comes first in the order of R343 and leaves PWM at high impedance, and no other phase changes state (R235,
R240, R342 to R344). Detectors whose conditions do not hold change the state of no phase. What waited for the phase then goes on: loops that leave
FAULTED, and a SAFE (R150, R349).
Clauses that go beyond the rules named rest on the model's choices in log entry 66. -/
def Obligations.PhaseStateAndFailureEventsComplete : Prop :=
  (∀ (s : State) (k : Fin 64), s.dev.hupRuns = true →
      ((s.dev.ph k).st = .joining → max 1 (bits (s.dev.preg k 0x04) 23 20) ≤ (s.dev.ph k).joinCyc →
        ∃ (t : State) (e : Device), exec (.joinComplete k) s = .next t ∧ t.dev = e.safeSettle ∧ PhaseMoves s.dev e k .live 0x1C byHw ∧
          (e.ph k).own = (s.dev.ph k).own) ∧
      (∀ x0 x1, (s.dev.ph k).st = .draining → s.dev.decayed k x0 x1 = true →
        ∃ (t : State) (e : Device), exec (.drainDecayComplete k x0.code x1.code (x0.iref, x1.iref)) s = .next t ∧ t.dev = e.loopsSettle ∧ (e.ph k).pulse = .z ∧
          (∀ j, j ≠ k → e.ph j = s.dev.ph j) ∧
          ((s.dev.ph k).dest = .parked → PhaseMoves s.dev e k .parked 0x14 byHw) ∧
          ((s.dev.ph k).dest = .off → PhaseMoves s.dev e k .off 0x14 byHw) ∧
          ((s.dev.ph k).dest = .handoff → (e.ph k).own = s.dev.phMap k ∧
            (s.dev.mapRegulates k = true → s.dev.phDisabled k = false → PhaseMoves s.dev e k .handoff 0x14 byHw) ∧
            (s.dev.mapRegulates k = false ∨ s.dev.phDisabled k = true → (e.ph k).st = .off))) ∧
      (∀ x0 x1, (s.dev.ph k).st ≠ .draining ∨ s.dev.decayed k x0 x1 = false →
        ∃ t, exec (.drainDecayComplete k x0.code x1.code (x0.iref, x1.iref)) s = .next t ∧ (t.dev.ph k).st = (s.dev.ph k).st ∧ ∀ j, j ≠ k → t.dev.ph j = s.dev.ph j) ∧
      ((s.dev.ph k).st = .draining → max 4 (bits (s.dev.preg k 0x04) 27 24) ≤ (s.dev.ph k).drainPer →
        ∃ (t : State) (e : Device), exec (.drainTimeout k) s = .next t ∧ t.dev = e.loopsSettle ∧ PhaseMoves s.dev e k .failed 0x15 byHw ∧
          (e.ph k).failCause = 5)) ∧
  (∀ (s : State) (k : Fin 64), s.dev.hupRuns = true →
      (∀ dets, (s.dev.ph k).st ≠ .failed →
        let c := dets.foldl (fun d det => d.countDetect k det) s.dev
        (∀ fc cause, c.firstDetected k dets = some (fc, cause) →
          ∃ (t : State) (e : Device), exec (.phaseFailure k dets) s = .next t ∧ t.dev = e.loopsSettle ∧ PhaseMoves s.dev e k .failed cause byHw ∧
            (e.ph k).failCause = fc ∧ (e.ph k).pulse = .z ∧ (e.ph k).tmonHigh = ((s.dev.ph k).tmonHigh || (dets.contains .stage && (s.dev.ph k).st != .unpop))) ∧
        (c.firstDetected k dets = none → exec (.phaseFailure k dets) s = .next { s with dev := c } ∧ (c.ph k).st = (s.dev.ph k).st ∧
          ∀ j, j ≠ k → c.ph j = s.dev.ph j)) ∧
      ((s.dev.ph k).st ≠ .unpop → (s.dev.ph k).st ≠ .failed →
        ∃ (t : State) (e : Device), exec (.stageFault k) s = .next t ∧ t.dev = e.loopsSettle ∧ PhaseMoves s.dev e k .failed 0x19 byHw ∧
          (e.ph k).failCause = 4 ∧ (e.ph k).tmonHigh = true) ∧
      ((s.dev.ph k).st = .failed → ∃ t, exec (.stageFault k) s = .next t ∧ t.dev.ph k = { s.dev.ph k with tmonHigh := true } ∧
        ∀ j, j ≠ k → t.dev.ph j = s.dev.ph j))

/-- The pulse of an active phase completes: PULSE_LEADING_EDGE of a phase in its off-time raises PWM unless the peak command is 0 (R203, R210), by
T_OFF_MIN later than it was due and then as the period's only pulse (R204), and of a phase whose pulse runs it waits. PEAK_COMPARATOR_TRIP, once past
T_BLANK and with the comparison of R210, and DMAX_LIMIT end a running pulse and record its length on the delay line's grid (R199 to R202); a trip that
does not compare, or falls in the blanking, changes nothing. DIODE_EMULATION_ZERO lets go of PWM at 0 A (R205). None of them changes the state of a
phase, and none touches another phase. LEND_REQUEST completes where a map write has asked for a lend: an active or draining-to-PARKED phase drains
towards HANDOFF, and any other phase ends the request (R311, R313, R315, R727). DELAY_LINE_CALIBRATION sets DLCAL to whether it failed (R200).
Clauses that go beyond the rules named rest on the model's choices in log entries 65, 73, 116, 118 and 119. -/
def Obligations.PulseLendAndCalibrationComplete : Prop :=
  (∀ (s : State) (k : Fin 64), s.dev.hupRuns = true → (s.dev.ph k).st.active = true →
      (∀ off, (s.dev.ph k).pulse ≠ .high →
        let late := s.dev.tOffMin k - off.tOff
        ∃ t, exec (.pulseLeadingEdge k off) s = .next t ∧ (t.dev.ph k).st = (s.dev.ph k).st ∧ (t.dev.ph k).own = (s.dev.ph k).own ∧
        (t.dev.ph k).dmaxHit = false ∧ (t.dev.ph k).dac = (s.dev.peakOf k).1 ∧ (t.dev.ph k).ilim = (s.dev.peakOf k).2 ∧
        ((s.dev.peakOf k).1 ≠ 0 → (t.dev.ph k).pulse = .high) ∧ ((s.dev.peakOf k).1 = 0 → (t.dev.ph k).pulse ≠ .high) ∧
        (t.dev.ph k).edgeLate = late ∧ (t.dev.ph k).onlyPulse = (decide (0 < late) || (s.dev.ph k).edgeDue) ∧ (t.dev.ph k).edgeDue = false ∧
        (t.dev.ph k).slopeHold = decide ((s.dev.learnWindow k { off with tOff := off.tOff + late }).length < 4) ∧ ∀ j, j ≠ k → t.dev.ph j = s.dev.ph j) ∧
      (∀ off, (s.dev.ph k).pulse = .high →
        exec (.pulseLeadingEdge k off) s = .next { s with dev := s.dev.updPh k fun p => { p with edgeDue := true } }) ∧
      ((s.dev.ph k).pulse = .high →
        (∀ ton diff on, (s.dev.dmaxTime k < ton ∨ (s.dev.tBlank k ≤ ton ∧ (s.dev.ph k).trips ton diff = true)) →
          ∃ t, exec (.peakComparatorTrip k ton diff on) s = .next t ∧ (t.dev.ph k).pulse = .low ∧
            (t.dev.ph k).ton = min 0xFFFF ((s.dev.ph k).grid (min ton (s.dev.dmaxTime k))) ∧
            (t.dev.ph k).dmaxHit = ((s.dev.ph k).dmaxHit || decide (s.dev.dmaxTime k < ton)) ∧ (t.dev.ph k).st = (s.dev.ph k).st ∧
            ∀ j, j ≠ k → t.dev.ph j = s.dev.ph j) ∧
        (∀ ton diff on, ton ≤ s.dev.dmaxTime k → (ton < s.dev.tBlank k ∨ (s.dev.ph k).trips ton diff = false) →
          exec (.peakComparatorTrip k ton diff on) s = .next s) ∧
        (∀ first codes irefs, ∃ t, exec (.dmaxLimit k first codes irefs) s = .next t ∧ (t.dev.ph k).pulse = .low ∧
          (t.dev.ph k).ton = min 0xFFFF ((s.dev.ph k).grid (s.dev.dmaxTime k)) ∧ (t.dev.ph k).dmaxHit = true ∧
          (t.dev.ph k).st = (s.dev.ph k).st ∧ ∀ j, j ≠ k → t.dev.ph j = s.dev.ph j)) ∧
      ((s.dev.ph k).pulse = .low → s.dev.demOn k = true → ∀ x, s.dev.imonAmps k x ≤ 0 →
        ∃ t, exec (.diodeEmulationZero k x.code x.iref) s = .next t ∧ (t.dev.ph k).pulse = .z ∧ (t.dev.ph k).st = (s.dev.ph k).st ∧
          ∀ j, j ≠ k → t.dev.ph j = s.dev.ph j)) ∧
  (∀ (s : State) (k : Fin 64),
      (s.dev.hupRuns = true → (s.dev.ph k).lendReq = true →
        ∃ t, exec (.lendRequest k) s = .next t ∧ (t.dev.ph k).lendReq = false ∧ (∀ j, j ≠ k → t.dev.ph j = s.dev.ph j) ∧
          ((s.dev.ph k).st.active = true → PhaseMoves s.dev t.dev k .draining 0x12 byHw ∧ (t.dev.ph k).dest = .handoff ∧
            (t.dev.ph k).lendFrom = (s.dev.ph k).own) ∧
          ((s.dev.ph k).st = .draining → (s.dev.ph k).dest = .parked → (t.dev.ph k).st = .draining ∧ (t.dev.ph k).dest = .handoff) ∧
          ((s.dev.ph k).st = .parked → (t.dev.ph k).lendFrom = none ∧ (t.dev.ph k).own = s.dev.phMap k ∧
            (t.dev.ph k).st = if s.dev.mapRegulates k then .parked else .off)) ∧
      (s.dev.live = true → ∀ ok, exec (.delayLineCalibration k ok) s = .next { s with dev := s.dev.updPh k fun p => { p with dlcal := !ok } }))

/-- The writes of a phase's page complete: PHASE_MAP_WRITE of an unpopulated, off or failed phase sets its owner and populates or removes it (R222 to
R225, R237), PHASE_DISABLE_WRITE stores DISABLE and drains an active phase towards OFF (R230, R232), and PHASE_CLR_FAIL leaves FAILED once its cause
is gone (R230, R240).
Clauses that go beyond the rules named rest on the model's choices in log entries 45, 66 and 128. -/
def Obligations.PhaseWritesComplete : Prop :=
  ∀ (s : State) (src : Source) (k : Fin 64), s.dev.canonical = true →
    (∀ be data, alignedBe be = true → s.dev.takes src (phaseAddr k 0x00) (byteMask be) data = true →
      (s.dev.ph k).st = .unpop ∨ (s.dev.ph k).st = .off ∨ (s.dev.ph k).st = .failed →
      let w := mergeWord (s.dev.preg k 0x00) data (byteMask be &&& storedMask (phaseAddr k 0x00))
      (bits w 4 0 < 16 ∨ bits w 4 0 = 0x1F) →
      (∀ n : Fin 16, bits w 4 0 = n.val → (s.dev.ownerOf (0x010 + n.val) = none ∨ s.dev.ownerOf (0x010 + n.val) = some (s.dev.requester src)) ∧
        s.dev.mapCrowded k n (bit w 8) = false) →
      ∃ t, exec (.phaseMapWrite src k be data) s = .next t ∧ t.dev.preg k 0x00 = w ∧ (t.dev.ph k).own = loopOfCode (bits w 4 0) ∧
        ((s.dev.ph k).st = .unpop → bit w 8 = true → PhaseMoves s.dev t.dev k .off 0x01 (s.dev.requester src).code) ∧
        ((s.dev.ph k).st ≠ .unpop → bit w 8 = false → PhaseMoves s.dev t.dev k .unpop 0x01 (s.dev.requester src).code) ∧
        (((s.dev.ph k).st = .unpop ↔ bit w 8 = false) → (t.dev.ph k).st = (s.dev.ph k).st) ∧ ∀ j, j ≠ k → t.dev.ph j = s.dev.ph j) ∧
    (∀ off, s.dev.takes src (phaseAddr k 0x18) 0xFFFFFFFF (flag 1 off) = true →
      ∃ t, exec (.phaseDisableWrite src k off) s = .next t ∧ t.dev.phDisabled k = off ∧ (∀ j, j ≠ k → t.dev.ph j = s.dev.ph j) ∧
        (off = false ∨ s.dev.phDisabled k = true → t.dev.ph k = s.dev.ph k) ∧
        (off = true → s.dev.phDisabled k = false →
          ((s.dev.ph k).st.active = true → PhaseMoves s.dev t.dev k .draining 0x01 (s.dev.requester src).code ∧ (t.dev.ph k).dest = .off) ∧
          ((s.dev.ph k).st = .parked ∨ (s.dev.ph k).st = .handoff → PhaseMoves s.dev t.dev k .off 0x01 (s.dev.requester src).code))) ∧
    (∀ x, s.dev.takes src (phaseAddr k 0x18) 0xFFFFFFFF (flag 1 (s.dev.phDisabled k) ||| flag 0 true) = true →
      ∃ t, exec (.phaseClrFail src k x) s = .next t ∧ t.dev.phDisabled k = s.dev.phDisabled k ∧ (∀ j, j ≠ k → t.dev.ph j = s.dev.ph j) ∧
        ((s.dev.ph k).st = .failed → s.dev.failActive k (some x) = false →
          PhaseMoves s.dev t.dev k (if s.dev.ownRegulates k then .parked else .off) 0x1D (s.dev.requester src).code ∧ (t.dev.ph k).failCause = 0) ∧
        ((s.dev.ph k).st ≠ .failed ∨ s.dev.failActive k (some x) = true → (t.dev.ph k).st = (s.dev.ph k).st))

/-- LOOP_UPDATE completes in every update slot: every slot takes the loop's samples; one that is vacant or whose data is late does no more; an issued
one takes the register writes that waited for it, moves V_REF by at most SLEW, sums the clamped errors of its conversions against the target, saturates
the integrator at I_SAT, and clamps I_CMD to 0 to 255.992 A (R244 to R246, R249, R251, R254 to R262, R297, R319). BALANCE_UPDATE moves I_BAL within
BAL_MAX (R263). Neither changes the state of a loop or of a phase, nor a register. INTERLEAVE_BOUNDARY completes: the period counter takes the active
PERIOD, V_S and I_OUT are averaged over the period, the loop then faults when it is in RUN with fewer than N_MIN active phases, and only then, and the
slots, N and the LIVE count of the rescale follow (R227, R228, R247, R269, R305, R310, R316, R334). SHED_DELAY_EXPIRY drains the LIVE phase of highest
index towards PARKED when shedding is permitted (R307, R308).
Clauses that go beyond the rules named rest on the model's choices in log entries 64, 67, 73, 117, 120, 123 and 126. -/
def Obligations.LoopSlotsComplete : Prop :=
  (∀ s : State, s.dev.hupRuns = true →
      (∀ n (u : UpdateSlot),
        let sense := { (s.dev.lp n).sense with raw := u.samples.raw, iOut := s.dev.iOutOf n u.samples.imon }
        let e : Device := s.dev.updLp n fun l => { l with oldCfg := [] }
        let raw := (u.volts.take 8).map (s.dev.errorOf n)
        ∃ t, exec (.loopUpdate n u.frame u.slotB u.volts u.samples) s = .next t ∧ (t.dev.lp n).sense = sense ∧ (t.dev.lp n).st = (s.dev.lp n).st ∧
          (∀ m, m ≠ n → t.dev.lp m = s.dev.lp m) ∧ t.dev.regs = s.dev.regs ∧ (∀ k, (t.dev.ph k).st = (s.dev.ph k).st) ∧
          (s.dev.updates n u.frame u.slotB = false ∨ u.volts.length < 8 →
            t.dev.lp n = { s.dev.lp n with sense := sense } ∧ ∀ k, (t.dev.ph k).dac = (s.dev.ph k).dac) ∧
          (s.dev.updates n u.frame u.slotB = true → 8 ≤ u.volts.length →
            (t.dev.lp n).oldCfg = [] ∧ (t.dev.lp n).vRef = slewTo (s.dev.lp n).vRef ((e.setpoint n : Nat) * vCode) (e.slewStep n) ∧
            -(iSat (s.dev.gexp n)) ≤ (t.dev.lp n).integ ∧ (t.dev.lp n).integ ≤ iSat (s.dev.gexp n) ∧ (t.dev.lp n).iCmd ≤ 32767 ∧
            (t.dev.lp n).iCmd = cmdOf (t.dev.lp n).y2 (s.dev.gexp n) ∧ (t.dev.lp n).err = clampI (-512) 511 (s.dev.errorOf n (u.volts.headD 0)) ∧
            (t.dev.lp n).sat = raw.any fun e => decide (e < -512) || decide (511 < e))) ∧
      (∀ k frame,
        ∃ t, exec (.balanceUpdate k frame) s = .next t ∧ t.dev.loop = s.dev.loop ∧ t.dev.regs = s.dev.regs ∧ (∀ j, j ≠ k → t.dev.ph j = s.dev.ph j) ∧
          (t.dev.ph k).st = (s.dev.ph k).st ∧ (s.dev.balances k frame = false → t.dev.ph k = s.dev.ph k) ∧
          (s.dev.balances k frame = true → (t.dev.ph k).perDone = false ∧ ∀ n (mx : Rat), (s.dev.ph k).own = some n →
            mx = (bits (s.dev.lreg n 0x08C) 23 16 : Nat) / 8 → -mx ≤ (t.dev.ph k).iBal ∧ (t.dev.ph k).iBal ≤ mx))) ∧
  (∀ (s : State) (n : Fin 16), s.dev.hupRuns = true →
      (∀ (per : PeriodSamples) (same : Coincident), ∃ (t : State) (e g f : Device), exec (.interleaveBoundary n per same) s = .next t ∧
        (e.lp n).period = bits (s.dev.lreg n 0x090) 17 0 ∧ (e.lp n).perPos = 0 ∧ (e.lp n).st = (s.dev.lp n).st ∧ (e.lp n).replace = 0 ∧
        (e.lp n).sense.vs = (if per.raws.isEmpty then (s.dev.lp n).sense.vs else s.dev.periodMean n per.raws) ∧
        (e.lp n).iPer = ((if per.iOut.isEmpty then ((s.dev.lp n).sense.iOut, 1) else (per.iOut.sum, per.iOut.length)) :: (s.dev.lp n).iPer).take 16 ∧
        (∀ m, m ≠ n → (e.lp m).apart = (s.dev.lp m).apart) ∧ g = (if e.belowNmin n then e.loopFault n 6 0x1B else e) ∧
        (f.lp n).nAct = g.activeN n ∧ (f.lp n).liveBefore = g.liveN n ∧ (f.lp n).st = (g.lp n).st ∧ (f.lp n).cueSeen = false ∧
        t.dev = f.safeSettle) ∧
      (∀ k, (s.dev.lp n).st = .run → bit (s.dev.leff n 0x0E4) 31 = true → max 1 (bits (s.dev.leff n 0x0E4) 7 0) ≤ (s.dev.lp n).shedCnt →
        max 1 (bits (s.dev.leff n 0x0E4) 29 24) < s.dev.activeN n → s.dev.shedHold n = false →
        (s.dev.phasesOf n (·.st == .live)).getLast? = some k →
        ∃ t, exec (.shedDelayExpiry n) s = .next t ∧ PhaseMoves s.dev t.dev k .draining 0x10 byHw ∧ (t.dev.ph k).dest = .parked ∧
          (t.dev.lp n).shedCnt = 0))

/-- BANK_COMMIT completes: a valid shadow bank is marked pending, an invalid one sets CFGERR, and nothing changes while one is pending (R265, R268). BANK_SWAP at a tick copies the five shadow
words into the active bank, leaves the integrator within I_SAT of the new GEXP, and counts the swap (R266, R270). SETPOINT_WRITE stores the word when
R253 allows it, and sets CFGERR otherwise; a regulating loop acts with the word it held until its next update (R319). CUE_PIN and CUE_SW complete: the cue acts as R273 to R278 say, and software's cue for a loop that another
requester has claimed is rejected with OWNVIO (R279 to R283). CUE_HOLD_EXPIRY ends the hold, and V_LIFT starts to fall (R277).
Clauses that go beyond the rules named rest on the model's choices in log entries 68 and 124. -/
def Obligations.BankSetpointAndCueCommandsComplete : Prop :=
  (∀ (s : State) (n : Fin 16), s.dev.canonical = true →
      (∀ src, s.dev.takes src (pageAddr (loopPage n) 0x094) 0xFFFFFFFF 1 = true →
        ∃ t, exec (.bankCommit src n) s = .next t ∧ t.dev.regs = s.dev.regs ∧ (∀ m, m ≠ n → t.dev.lp m = s.dev.lp m) ∧
          ((s.dev.lp n).pending = true → t.dev.loop = s.dev.loop ∧
            (t.dev.head (pg (loopPage n))).err = (s.dev.head (pg (loopPage n))).err) ∧
          ((s.dev.lp n).pending = false → s.dev.bankValid n = true → t.dev.lp n = { s.dev.lp n with pending := true }) ∧
          ((s.dev.lp n).pending = false → s.dev.bankValid n = false → t.dev.lp n = s.dev.lp n ∧ bit (t.dev.head (pg (loopPage n))).err 8 = true)) ∧
      (s.dev.hupRuns = true →
        ((s.dev.lp n).pending = false → exec (.bankSwap n) s = .next s) ∧
        ((s.dev.lp n).pending = true → ∃ t, exec (.bankSwap n) s = .next t ∧
          (∀ o, o ∈ [0x060, 0x064, 0x068, 0x06C, 0x070] → t.dev.lreg n (o + 0x20) = s.dev.lreg n o) ∧
          (∀ a, (∀ o, o ∈ [0x060, 0x064, 0x068, 0x06C, 0x070] → a ≠ pageAddr (loopPage n) (o + 0x20)) → t.dev.reg a = s.dev.reg a) ∧
          (t.dev.lp n).pending = false ∧ (t.dev.lp n).swaps = ((s.dev.lp n).swaps + 1) % 65536 ∧ (t.dev.lp n).st = (s.dev.lp n).st ∧
          -(iSat (t.dev.gexp n)) ≤ (t.dev.lp n).integ ∧ (t.dev.lp n).integ ≤ iSat (t.dev.gexp n) ∧ ∀ m, m ≠ n → t.dev.lp m = s.dev.lp m)) ∧
      (∀ src (r : Fin 3) be data, alignedBe be = true → s.dev.takes src (pageAddr (loopPage n) (0x040 + 4 * r.val)) (byteMask be) data = true →
        let o := 0x040 + 4 * r.val
        let w := mergeWord (s.dev.lreg n o) data (byteMask be &&& storedMask (pageAddr (loopPage n) o))
        ∃ t, exec (.setpointWrite src n r be data) s = .next t ∧ (∀ m, m ≠ n → t.dev.lp m = s.dev.lp m) ∧
          t.dev.lp n = { s.dev.lp n with oldCfg := (t.dev.lp n).oldCfg } ∧
          ((s.dev.lp n).st.regulating = true → t.dev.leff n o = s.dev.leff n o) ∧
          ((s.dev.lp n).st.regulating = false → t.dev.loop = s.dev.loop) ∧
          (∀ a, a ≠ pageAddr (loopPage n) o → t.dev.reg a = s.dev.reg a) ∧
          (s.dev.loopWriteOk n o w (byteMask be) = true → t.dev.lreg n o = w) ∧
          (s.dev.loopWriteOk n o w (byteMask be) = false → t.dev.lreg n o = s.dev.lreg n o ∧ bit (t.dev.head (pg (loopPage n))).err 8 = true))) ∧
  (∀ (s : State) (c : CueTiming),
      (∀ pins : BitVec 7, s.dev.hupRuns = true →
        (bit (s.dev.reg 0x0C8040) 0 = false → exec (.cuePin pins c) s = .next s) ∧
        (bit (s.dev.reg 0x0C8040) 0 = true → ∃ t, exec (.cuePin pins c) s = .next t ∧
          CueActs s.dev t.dev (Fin.ofNat 16 (pins.toNat / 8)) (pins.toNat % 8))) ∧
      (∀ src data n, s.dev.takes src 0x0C8044 0xFFFFFFFF data = true → n = Fin.ofNat 16 (bits data 6 3) →
        ((s.dev.ownerOf (0x010 + n.val) = none ∨ s.dev.ownerOf (0x010 + n.val) = some (s.dev.requester src)) →
          ∃ t, exec (.cueSw src data c) s = .next t ∧ CueActs s.dev t.dev n (bits data 2 0)) ∧
        (∀ q, s.dev.ownerOf (0x010 + n.val) = some q → q ≠ s.dev.requester src →
          ∃ t, exec (.cueSw src data c) s = .next t ∧ t.dev.loop = s.dev.loop ∧ t.dev.phase = s.dev.phase ∧
            bit (t.dev.head (pg 0x0C8)).err 2 = true)) ∧
      (∀ n, s.dev.hupRuns = true → (s.dev.lp n).cueActive = true →
        ∃ (t : State) (e : Device), exec (.cueHoldExpiry n) s = .next t ∧ e.lp n = { s.dev.lp n with cueActive := false, liftFall := true } ∧
          (∀ m, m ≠ n → e.lp m = s.dev.lp m) ∧ e.phase = s.dev.phase ∧ t.dev = e.safeSettle))

/-- The commands that enable and stop a loop complete (R287, R292, R293, R300 to R302): LOOP_ENABLE starts an OFF loop, is latched by one that is
stopping, and is not obeyed while the page is disabled; a loop that leaves OFF while its OV comparator is high goes on to CROWBAR (R324); LOOP_SOFT_STOP ramps down a loop whose soft stop is on and drains one whose soft stop is off;
LOOP_HARD_STOP drains. A write of the page's ENABLE is refused when it would disable a running loop. The events that move a loop through its states
complete (R292, R295 to R297, R301): each from its own state, when its condition holds, and with its cause code; the pre-bias voltage is the mean of
the first 16 conversions, then each later one, and the reference of RAMP starts at it.
Clauses that go beyond the rules named rest on the model's choices in log entry 72. -/
def Obligations.LoopStateCommandsComplete : Prop :=
  (∀ (s : State) (n : Fin 16),
      (s.dev.hupRuns = true →
        (s.dev.loopPermitted n = false → exec (.loopEnable n) s = .next s) ∧
        (s.dev.loopPermitted n = true → (s.dev.lp n).st = .off → (s.dev.lp n).sense.ov = true →
          ∃ (t : State) (e : Device), exec (.loopEnable n) s = .next t ∧ t.dev = e.crowbarsHeard s.dev ∧ (e.lp n).st = .crowbar ∧ bit (e.lp n).flt 0 = true ∧
            ∀ k, (s.dev.ph k).own = some n → (s.dev.ph k).st ≠ .unpop → (s.dev.ph k).st ≠ .failed → (e.ph k).st = .crowbar) ∧
        (s.dev.loopPermitted n = true → (s.dev.lp n).st ≠ .off ∨ (s.dev.lp n).sense.ov = false → ∃ t, exec (.loopEnable n) s = .next t ∧ (t.dev.lp n).en = true ∧ t.dev.phase = s.dev.phase ∧
          ((s.dev.lp n).st = .off → LoopMoves s.dev t.dev n .prebias 0x10) ∧
          ((s.dev.lp n).st = .rampdown ∨ (s.dev.lp n).st = .draining → (t.dev.lp n).enLatched = true ∧ (t.dev.lp n).st = (s.dev.lp n).st)) ∧
        (∃ t, exec (.loopSoftStop n) s = .next t ∧ (t.dev.lp n).en = false ∧ (t.dev.lp n).enLatched = false ∧
          ((s.dev.lp n).st = .prebias → LoopMoves s.dev t.dev n .off 0x16) ∧
          ((s.dev.lp n).st = .ramp ∨ (s.dev.lp n).st = .run →
            (bit (s.dev.leff n 0x0E0) 31 = true → LoopMoves s.dev t.dev n .rampdown 0x15 ∧ t.dev.phase = s.dev.phase) ∧
            (bit (s.dev.leff n 0x0E0) 31 = false → LoopMoves s.dev t.dev n .draining 0x16)) ∧
          ((s.dev.lp n).st = .rampdown ∨ (s.dev.lp n).st = .draining ∨ (s.dev.lp n).st = .off → (t.dev.lp n).st = (s.dev.lp n).st)) ∧
        (∃ t, exec (.loopHardStop n) s = .next t ∧ (t.dev.lp n).en = false ∧ (t.dev.lp n).enLatched = false ∧
          ((s.dev.lp n).st = .prebias → LoopMoves s.dev t.dev n .off 0x16) ∧
          ((s.dev.lp n).st = .ramp ∨ (s.dev.lp n).st = .run ∨ (s.dev.lp n).st = .rampdown → LoopMoves s.dev t.dev n .draining 0x16))) ∧
      (∀ src b, s.dev.takesHead src (loopPage n) 0x008 (setBit (s.dev.ctlWord (pg (loopPage n))) 0 b) = true →
        ∃ t, exec (.loopEnableWrite src n b) s = .next t ∧ t.dev.loop = s.dev.loop ∧ t.dev.phase = s.dev.phase ∧
          (b = true ∨ (s.dev.lp n).st = .off ∨ (s.dev.lp n).st = .faulted → t.dev.loopPermitted n = b) ∧
          (b = false → (s.dev.lp n).st ≠ .off → (s.dev.lp n).st ≠ .faulted → s.dev.loopPermitted n = true →
            t.dev.loopPermitted n = true ∧ bit (t.dev.head (pg (loopPage n))).err 8 = true))) ∧
  (∀ (s : State) (n : Fin 16), s.dev.hupRuns = true →
      (exec (.prebiasComplete n []) s = .next s ∧ (∀ codes, ∃ t, exec (.prebiasComplete n codes) s = .next t ∧ t.dev.phase = s.dev.phase) ∧
        (∀ c codes t, exec (.prebiasComplete n [c]) s = .next t → exec (.prebiasComplete n (c :: codes)) s = exec (.prebiasComplete n codes) t) ∧
        ∀ c, ((s.dev.lp n).st ≠ .prebias → exec (.prebiasComplete n [c]) s = .next s) ∧
          ((s.dev.lp n).st = .prebias →
            let l := s.dev.lp n
            let sum := if l.pbCnt < 16 then l.pbSum + c else c
            let v : Int := (sum * s.dev.attenX n * (if l.pbCnt < 16 then 312500 else 5000000) : Nat)
            ∃ t, exec (.prebiasComplete n [c]) s = .next t ∧
              (l.pbCnt < 15 → t.dev.lp n = { l with sense := { l.sense with raw := c }, pbSum := sum, pbCnt := l.pbCnt + 1 }) ∧
              (15 ≤ l.pbCnt → (t.dev.lp n).vPb = v ∧
                (v ≤ (s.dev.setpoint n : Nat) * vCode →
                  LoopMoves s.dev t.dev n .ramp 0x11 ∧ (t.dev.lp n).vSs = v ∧ (t.dev.lp n).integ = 0 ∧ (t.dev.lp n).iCmd = 0 ∧
                  (t.dev.lp n).vRef = (s.dev.setpoint n : Nat) * vCode) ∧
                ((s.dev.setpoint n : Nat) * vCode < v → (t.dev.lp n).st = .prebias)))) ∧
      ((s.dev.lp n).st = .ramp → (s.dev.lp n).ssDone = true → 8 ≤ (s.dev.lp n).pgCnt →
        ∃ t, exec (.softStartComplete n) s = .next t ∧ LoopMoves s.dev t.dev n .run 0x13 ∧ t.dev.phase = s.dev.phase) ∧
      ((s.dev.lp n).st = .rampdown → (s.dev.lp n).vSs ≤ 0 → ∃ t, exec (.rampdownComplete n) s = .next t ∧ LoopMoves s.dev t.dev n .draining 0x17) ∧
      ((s.dev.lp n).st = .draining → s.dev.anyDraining n = false →
        ∃ t, exec (.loopDrainComplete n) s = .next t ∧ LoopMoves s.dev t.dev n .off 0x18 ∧ t.dev.phase = s.dev.phase) ∧
      ((s.dev.lp n).st = .off → (s.dev.lp n).enLatched = true →
        (s.dev.loopPermitted n = false → exec (.loopLatchedRestart n) s = .next s) ∧
        (s.dev.loopPermitted n = true → (s.dev.lp n).sense.ov = false →
          ∃ t, exec (.loopLatchedRestart n) s = .next t ∧ LoopMoves s.dev t.dev n .prebias 0x1D ∧ (t.dev.lp n).enLatched = false ∧
            t.dev.phase = s.dev.phase) ∧
        (s.dev.loopPermitted n = true → (s.dev.lp n).sense.ov = true →
          ∃ (t : State) (e : Device), exec (.loopLatchedRestart n) s = .next t ∧ t.dev = e.crowbarsHeard s.dev ∧ (e.lp n).st = .crowbar ∧
            bit (e.lp n).flt 0 = true ∧ ∀ k, (s.dev.ph k).own = some n → (s.dev.ph k).st ≠ .unpop → (s.dev.ph k).st ≠ .failed → (e.ph k).st = .crowbar)))

/-- The loop faults complete, in the states that R321 gives them: each command counts what its detector has read, and the loop faults by every detector
of the LOOP cycle whose condition has then held for its filter, FIRST by the lowest bit (R321, R333, R345, R350, R353); the sequencer then hears of it
(R366). OV_CROWBAR follows the comparator and its filter voltage by voltage: while the filtered output is high it puts the loop and every phase it
drives into CROWBAR, and the sequencer then hears of each loop that entered it (R324 to R326, R329, R366); OV_IDLE records an OV on a loop that is off,
and hands it to the rail's monitor (R332); CROWBAR_RELEASE counts the conversions below CB_REL, and a loop in no lend group that is ready ends in
FAULTED, which it leaves at once where no fault bit is set (R328 to R330, R349).
Clauses that go beyond the rules named rest on the model's choices in log entries 71, 121 and 122. -/
def Obligations.LoopFaultCommandsComplete : Prop :=
  (∀ (s : State) (n : Fin 16) (also : List LoopDetect), s.dev.hupRuns = true →
      (∀ codes, ∃ t, exec (.uvFault ⟨n, codes, also⟩) s = .next t ∧ LoopDetects s.dev t.dev n (.uv codes :: also)) ∧
      (∀ iOut, ∃ t, exec (.loopOcFault ⟨n, iOut, also⟩) s = .next t ∧ LoopDetects s.dev t.dev n (.oc iOut :: also)) ∧
      (∃ t, exec (.ssShortFault ⟨n, also⟩) s = .next t ∧ LoopDetects s.dev t.dev n (.ssShort :: also)) ∧
      (∃ t, exec (.softStartTimeout ⟨n, also⟩) s = .next t ∧ LoopDetects s.dev t.dev n (.ssTmo :: also)) ∧
      (∃ t, exec (.prebiasTimeout ⟨n, also⟩) s = .next t ∧ LoopDetects s.dev t.dev n (.pbTmo :: also)) ∧
      (∃ t, exec (.loopOtFault ⟨n, also⟩) s = .next t ∧ LoopDetects s.dev t.dev n (.ot :: also))) ∧
  (∀ (s : State) (n : Fin 16), s.dev.hupRuns = true →
      let idle := (s.dev.lp n).st == .off || (s.dev.lp n).st == .faulted
      (idle = true → ∀ volts, exec (.ovCrowbar ⟨n, volts⟩) s = .next s) ∧ (idle = false → ∀ volts, exec (.ovIdle ⟨n, volts⟩) s = .next s) ∧
      exec (.ovCrowbar ⟨n, []⟩) s = .next s ∧ exec (.ovIdle ⟨n, []⟩) s = .next s ∧
      (∀ v volts,
        let k := if s.dev.ovHigh n v then satInc 15 (s.dev.lp n).ovCnt else 0
        let high := decide (max 1 (bits (s.dev.lreg n 0x0CC) 27 24) ≤ k)
        ∃ d : Device, d.lp n = { s.dev.lp n with ovCnt := k, sense := { (s.dev.lp n).sense with ov := high } } ∧
          (∀ m, m ≠ n → d.lp m = s.dev.lp m) ∧ d.phase = s.dev.phase ∧
          (idle = false → (high = false → ∃ t, exec (.ovCrowbar ⟨n, v :: volts⟩) s = .next t ∧ t.dev = d.ovWatch n volts) ∧
            (high = true → (s.dev.lp n).st ≠ .crowbar → ∃ (t : State) (e : Device), exec (.ovCrowbar ⟨n, v :: volts⟩) s = .next t ∧
              t.dev = (e.crowbarsHeard d).ovWatch n volts ∧ (e.lp n).st = .crowbar ∧ bit (e.lp n).flt 0 = true ∧ (e.lp n).enLatched = false ∧
              ∀ j, (s.dev.ph j).own = some n → (s.dev.ph j).st ≠ .unpop → (s.dev.ph j).st ≠ .failed → (e.ph j).st = .crowbar) ∧
            (high = true → (s.dev.lp n).st = .crowbar → ∃ (t : State) (e : Device), exec (.ovCrowbar ⟨n, v :: volts⟩) s = .next t ∧
              t.dev = e.ovWatch n volts ∧ (e.lp n).st = .crowbar ∧
              (e.lp n).flt = if (s.dev.lp n).sense.ov then (s.dev.lp n).flt else setBit (s.dev.lp n).flt 0 true)) ∧
          (idle = true →
            (high = false ∨ ((s.dev.lp n).sense.ov = true ∧ bit (s.dev.lp n).flt 16 = true) →
              ∃ t, exec (.ovIdle ⟨n, v :: volts⟩) s = .next t ∧ t.dev = d.ovWatch n volts) ∧
            (high = true → (s.dev.lp n).sense.ov = false ∨ bit (s.dev.lp n).flt 16 = false →
              ∃ (t : State) (e : Device), exec (.ovIdle ⟨n, v :: volts⟩) s = .next t ∧
                t.dev = (e.monitorFault ⟨n.val, by omega⟩ .powered []).ovWatch n volts ∧ (e.lp n).flt = setBit (s.dev.lp n).flt 16 true ∧
                (e.lp n).st = (s.dev.lp n).st ∧ bit (e.head (pg (loopPage n))).err 11 = true ∧ ∀ m, m ≠ n → e.lp m = s.dev.lp m))) ∧
      (∀ own others, (s.dev.lp n).st ≠ .crowbar → ((s.dev.releaseGroup n) = []) → exec (.crowbarRelease n own others) s = .next s) ∧
      (∀ own others, (s.dev.lp n).st = .crowbar → s.dev.lendGrp n = 0 →
          let c := s.dev.releaseCount n own.codes
          (c.releaseReady n own.uv own.us = false → exec (.crowbarRelease n own others) s = .next { s with dev := c }) ∧
          (c.releaseReady n own.uv own.us = true → ∃ (t : State) (e : Device), exec (.crowbarRelease n own others) s = .next t ∧
            t.dev = (e.loopFaultCleared n).crowbarsHeard s.dev ∧ LoopMoves s.dev e n .faulted 0x1A ∧ (e.lp n).flt = (s.dev.lp n).flt ∧
            (e.lp n).sense.ov = false)))

/-- LOOP_WARNING sets the warning bits of one conversion without a filter and clears none (R251, R323), and LOOP_FLT_CLEAR clears the bits written whose
causes are gone (R347, R353); a loop in FAULTED with none of bits 8 to 0 left and no draining phase then leaves FAULTED (R349). -/
def Obligations.LoopStatusCommandsComplete : Prop :=
  ∀ (s : State) (n : Fin 16) (x : LoopSamples),
    let sense := { (s.dev.lp n).sense with raw := x.raw, iOut := s.dev.iOutOf n x.imon }
    (s.dev.hupRuns = true → ∃ t, exec (.loopWarning n x) s = .next t ∧ (t.dev.lp n).st = (s.dev.lp n).st ∧ (t.dev.lp n).sense = sense ∧
      (∀ i, i < 17 ∨ 20 < i → bit (t.dev.lp n).flt i = bit (s.dev.lp n).flt i) ∧
      bit (t.dev.lp n).flt 17 = (bit (s.dev.lp n).flt 17 || ((s.dev.lp n).st.faultable &&
        decide (((bits (s.dev.lreg n 0x0C4) 29 16 * 250 : Nat) : Rat) < s.dev.loopMicrovolts n x.raw))) ∧
      bit (t.dev.lp n).flt 18 = (bit (s.dev.lp n).flt 18 || ((s.dev.lp n).st == .run &&
        decide (s.dev.loopMicrovolts n x.raw < ((bits (s.dev.lreg n 0x0C4) 13 0 * 250 : Nat) : Rat)))) ∧
      bit (t.dev.lp n).flt 19 = (bit (s.dev.lp n).flt 19 || (((s.dev.lp n).st == .run || (s.dev.lp n).st == .rampdown) &&
        decide (((bits (s.dev.lreg n 0x0C8) 12 0 * 1024 : Nat) : Int) ≤ sense.iOut))) ∧
      bit (t.dev.lp n).flt 20 = (bit (s.dev.lp n).flt 20 || ((s.dev.lp n).st.faultable && s.dev.otWarn n)) ∧
      (∀ m, m ≠ n → t.dev.lp m = s.dev.lp m) ∧ (∀ k, (t.dev.ph k).st = (s.dev.ph k).st) ∧ t.dev.regs = s.dev.regs) ∧
    (∀ src be data uv, alignedBe be = true → s.dev.takes src (pageAddr (loopPage n) 0x0D8) (byteMask be) data = true →
      let w := (s.dev.lp n).flt &&& ~~~(data &&& byteMask be &&& 0x003F01FF &&& ~~~(s.dev.fltHeld n uv x))
      ∃ (t : State) (e : Device), exec (.loopFltClear src n be data ⟨uv, x⟩) s = .next t ∧ t.dev = (e.loopFaultCleared n).crowbarsHeard s.dev ∧
        (e.lp n).flt = w ∧ (e.lp n).first = (if bits w 8 0 = 0 then 0xF else (s.dev.lp n).first) ∧ (e.lp n).st = (s.dev.lp n).st ∧
        (∀ m, m ≠ n → e.lp m = s.dev.lp m) ∧
        ((s.dev.lp n).sense.ov = false ∨ (s.dev.lp n).en = false → (t.dev.lp n).flt = w ∧ (t.dev.lp n).first = (e.lp n).first) ∧
        ((s.dev.lp n).st = .faulted → bits w 8 0 = 0 → s.dev.anyDraining n = false → (s.dev.lp n).en = false → LoopMoves s.dev t.dev n .off 0x1C) ∧
        ((s.dev.lp n).st ≠ .faulted ∨ bits w 8 0 ≠ 0 ∨ s.dev.anyDraining n = true → t.dev = e))

/-- SCENE_REQUEST completes with the result that SEQ_STAT.REQRES names: refused while the page is disabled (6), for a scene that is not defined (5) or
whose list breaks R361 (4); accepted at once in IDLE; latched while a wrap runs, where its rank allows it (R361, R371, R374, R397).
LATCHED_REQUEST_START begins the latched transition once nothing is left to wrap (R371).
Clauses that go beyond the rules named rest on the model's choices in log entry 76. -/
def Obligations.SceneRequestsComplete : Prop :=
  ∀ s : State,
    (∀ src data, s.dev.takes src 0x030044 0xFFFFFFFF data = true →
      let x := bits data 2 0
      let on := bit (s.dev.head (pg 0x030)).ctl 0
      let known := x == 0 || bit (s.dev.reg (0x030060 + 4 * x)) 31
      ∃ t, exec (.sceneRequest src data) s = .next t ∧
        (on = false → t.dev.seq = { s.dev.seq with reqres := 6 } ∧ t.dev.entry = s.dev.entry ∧ t.dev.loop = s.dev.loop) ∧
        (on = true → known = false → t.dev.seq = { s.dev.seq with reqres := 5 } ∧ t.dev.entry = s.dev.entry ∧ t.dev.loop = s.dev.loop) ∧
        (on = true → known = true → s.dev.listOk x = false →
          t.dev.seq = { s.dev.seq with reqres := 4 } ∧ t.dev.entry = s.dev.entry ∧ t.dev.loop = s.dev.loop) ∧
        (on = true → known = true → s.dev.listOk x = true →
          (s.dev.seq.st = .idle → ∃ e : Device, t.dev = e.startTransition x 4 false (s.dev.requester src).code ∧
            e.seq = { s.dev.seq with reqres := 1 } ∧ e.entry = s.dev.entry ∧ e.loop = s.dev.loop ∧ e.regs = s.dev.regs) ∧
          (s.dev.seq.st = .wrap → s.dev.seq.rank = 4 → (∀ y, s.dev.seq.latched = some y → y.2 = 4) →
            t.dev.seq = { s.dev.seq with reqres := 2, latched := some (x, 4) } ∧ t.dev.entry = s.dev.entry ∧ t.dev.loop = s.dev.loop))) ∧
    (s.dev.hupRuns = true →
      (s.dev.seq.latched = none → exec .latchedRequestStart s = .next s) ∧
      (∀ x r, s.dev.seq.latched = some (x, r) → s.dev.seq.st = .idle ∨ (s.dev.seq.st = .wrap ∧ s.dev.wrapSet = []) →
        ∃ (t : State) (e : Device), exec .latchedRequestStart s = .next t ∧ t.dev = e.startTransition x r false ∧
          e.seq = { s.dev.seq with latched := none } ∧ e.entry = s.dev.entry))

/-- The events of a take and of a wrap complete (R364, R365, R367, R372, R385, R386, R388): each moves its entry, leaves the other entries alone, and then
lets the transition look on. A monitor's comparison holds for the last VFILT readings, a loop's for its last 8 conversions (R366, R367). An entry that
starts a loop whose OV comparator is high crowbars it, and the sequencer hears of it (R324).
Clauses that go beyond the rules named rest on the model's choices in log entries 74, 77 and 130. -/
def Obligations.EntryEventsComplete : Prop :=
  ∀ s : State, s.dev.hupRuns = true →
    (∀ i vmon, (s.dev.seq.st = .take ∧ s.dev.holdNeeded = false) ∨ (s.dev.seq.st = .rail ∧ s.dev.seq.railOn = true) → (s.dev.en i).st = .pending →
      s.dev.stepOf i ≤ s.dev.seq.step → (∀ j, j ∈ s.dev.deps i → (s.dev.en j).st = .on) →
      ∃ (t : State) (e : Device), exec (.entryStart i vmon) s = .next t ∧ t.dev = e.crowbarsHeard s.dev ∧ EntryMoves s.dev e i .starting 0x11 ∧
        (∀ n, loopOf i = some n → s.dev.loopPermitted n = true → (e.lp n).en = true) ∧ (isExt i = true → (e.en i).prebias = vmon) ∧
        ((∀ n, loopOf i = some n → (s.dev.lp n).sense.ov = false ∨ (s.dev.lp n).st ≠ .off) → t.dev = e)) ∧
    (∀ (i : Fin 96) readings, (s.dev.en (railEntry i)).st = .starting →
      (match loopOf (railEntry i) with
        | some n => (s.dev.lp n).st = .run
        | none => s.dev.judges (railEntry i) = true ∧ lastAll (s.dev.filterLen (railEntry i)) readings (fun x =>
            decide (s.dev.thrCode (railEntry i) (bits (s.dev.shot (railEntry i) 0x1C) 31 16) ≤ x) &&
            decide (x < s.dev.thrCode (railEntry i) (bits (s.dev.shot (railEntry i) 0x14) 31 16))) = true) →
      ∃ (t : State) (e : Device), exec (.railPowerGood i readings) s = .next t ∧ t.dev = e.takeProgress ∧ EntryMoves s.dev e (railEntry i) .on 0x12) ∧
    (∀ i reading, i ∈ s.dev.wrapSet → s.dev.stepOf i = s.dev.topStep s.dev.wrapSet → (s.dev.en i).st.up = true → s.dev.dependantsDown i = true →
      ∃ (t : State) (e : Device), exec (.wrapOffDelayExpiry i reading) s = .next t ∧ t.dev = e.wrapProgress ∧
        EntryMoves s.dev e i (if isRail i then .stopping else .off) 0x11) ∧
    (∀ (i : Fin 96) readings, (s.dev.en (railEntry i)).st = .stopping ∨ (s.dev.en (railEntry i)).st = .stuck →
      (match loopOf (railEntry i) with
        | some n => ((s.dev.lp n).st = .off ∨ (s.dev.lp n).st = .faulted ∨ (s.dev.lp n).st = .crowbar) ∧
            lastAll 8 readings (fun x => decide (s.dev.loopMicrovolts n x ≤ (bits (s.dev.shot (railEntry i) 0x1C) 15 0 * 1000 : Nat))) = true
        | none => s.dev.judges (railEntry i) = true ∧ lastAll (s.dev.filterLen (railEntry i)) readings (fun x =>
            decide (x < s.dev.thrCode (railEntry i) (bits (s.dev.shot (railEntry i) 0x1C) 15 0))) = true) →
      ∃ (t : State) (e : Device), exec (.railDischarged i readings) s = .next t ∧ t.dev = e.wrapProgress.takeProgress ∧
        EntryMoves s.dev e (railEntry i) (if (s.dev.en (railEntry i)).stopFail then .faulted else .off) 0x13) ∧
    (∀ i, (s.dev.en i).enlatch = true → (s.dev.en i).st.down = true →
      ∃ (t : State) (e : Device), exec (.enlatchRestart i) s = .next t ∧ t.dev = e.takeProgress ∧ EntryMoves s.dev e i .pending 0x10 ∧
        (e.en i).enlatch = false) ∧
    (∀ i : Fin 96, (s.dev.en (railEntry i)).st = .stopping →
      ∃ (t : State) (e : Device), exec (.dischargeTimeout i) s = .next t ∧ (e.en (railEntry i)).nodis = true ∧
        (s.dev.compatMode (railEntry i) = true → t.dev = e.wrapProgress ∧ EntryMoves s.dev e (railEntry i) .stuck 0x14 ∧ bit (e.head (pg seqPage)).err 12 = true) ∧
        (s.dev.compatMode (railEntry i) = false → t.dev = e.wrapProgress.takeProgress ∧
          EntryMoves s.dev e (railEntry i) (if (s.dev.en (railEntry i)).stopFail then .faulted else .off) 0x14))

/-- The events of the sequencer itself complete (R372, R378, R380, R383, R389, R393): WRAP_STEP_ADVANCE sets the step to the highest one left, or ends the
wrap; TAKE_RESUME moves between TAKE and HOLD; RETRY_DELAY_EXPIRY takes again or gives up (with the comparators low, no crowbar follows the clear of the faults, R324); RESET_STRETCH_ELAPSED deasserts its line when no source
asserts it.
Clauses that go beyond the rules named rest on the model's choices in log entries 75, 79 and 129. -/
def Obligations.SequencerEventsComplete : Prop :=
  ∀ s : State, s.dev.hupRuns = true →
    ((s.dev.seq.st = .wrap → s.dev.wrapSet ≠ [] → ∃ t, exec .wrapStepAdvance s = .next t ∧ t.dev.seq.step = s.dev.topStep s.dev.wrapSet ∧
        (t.dev.seq.st = .wrap ∨ t.dev.seq.st = .stalled) ∧ t.dev.entry = s.dev.entry) ∧
      (s.dev.seq.st = .rail → s.dev.seq.railOn = false → s.dev.wrapSet = [] → ∃ t, exec .wrapStepAdvance s = .next t ∧ t.dev.seq = { s.dev.seq with st := .idle } ∧
        t.dev.entry = s.dev.entry) ∧
      (s.dev.seq.st = .retry → s.dev.seq.waiting = false → s.dev.seq.latched = none → s.dev.wrapSet = [] →
        ∃ t, exec .wrapStepAdvance s = .next t ∧ t.dev.seq = { s.dev.seq with waiting := true } ∧ t.dev.entry = s.dev.entry)) ∧
    ((s.dev.seq.st = .hold → s.dev.holdNeeded = false → ∃ (t : State) (e : Device), exec .takeResume s = .next t ∧ t.dev = e.takeProgress ∧
        e.seq = { s.dev.seq with st := .take } ∧ e.entry = s.dev.entry) ∧
      (s.dev.seq.st = .take → s.dev.holdNeeded = true → ∃ (t : State) (e : Device), exec .takeResume s = .next t ∧ t.dev = e.takeProgress ∧
        e.seq = { s.dev.seq with st := .hold } ∧ e.entry = s.dev.entry)) ∧
    (s.dev.seq.st = .retry → s.dev.seq.waiting = true →
      let w := s.dev.reg (0x030060 + 4 * s.dev.seq.tgt)
      (s.dev.seq.takes ≤ bits w 26 24 → ∃ (t : State) (e : Device), exec .retryDelayExpiry s = .next t ∧ t.dev = e.takeStart 0x10 ∧
        ((∀ n, (s.dev.lp n).sense.ov = false) → e.seq = { s.dev.seq with takes := s.dev.seq.takes + 1, waiting := false } ∧ e.entry = s.dev.entry)) ∧
      (bits w 26 24 < s.dev.seq.takes → ∃ (t : State) (e : Device), exec .retryDelayExpiry s = .next t ∧
        t.dev = e.startTransition (if s.dev.seq.isFail then 0 else bits w 10 8) s.dev.seq.rank true ∧ e.seq = { s.dev.seq with result := 3 } ∧
        e.entry = s.dev.entry ∧ bit (e.head (pg seqPage)).err 11 = true)) ∧
    (∀ k : Fin 32, s.dev.rso.src.getLsbD k.val = false →
      ∃ (t : State) (e : Device), exec (.resetStretchElapsed k) s = .next t ∧ e.rso.pin.getLsbD k.val = false ∧ e.rso.str.getLsbD k.val = false ∧
        (∀ m : Fin 32, m ≠ k → e.rso.pin.getLsbD m.val = s.dev.rso.pin.getLsbD m.val ∧ e.rso.str.getLsbD m.val = s.dev.rso.str.getLsbD m.val) ∧ e.entry = s.dev.entry ∧
        ((s.dev.en (rsoEntry k)).st ≠ .starting → t.dev = e) ∧
        ((s.dev.en (rsoEntry k)).st = .starting → ∃ g : Device, t.dev = g.takeProgress ∧ EntryMoves s.dev g (rsoEntry k) .on 0x12))

/-- The failures of a rail complete (R366, R375): PG_TIMEOUT of a starting rail with FAILCAUSE 1, and a monitor fault with the FAILCAUSE of its condition;
the policy of R378 and R379 then decides what the take does. A monitor condition that does not hold changes nothing. The single-rail requests complete
(R383, R384): an entry that is no rail is refused with CFGERR; while a transition runs the request is held, and HELD_RAIL_REQUEST_START runs the
oldest one in IDLE; in IDLE, RAIL_CLEAR returns a faulted rail to OFF, RAIL_ON of a rail outside the present scene is refused (5), RAIL_SOFT_OFF and
RAIL_IMMEDIATE_OFF hold the rail off. SEQ_FORCE needs its key and an administrator (R387).
Clauses that go beyond the rules named rest on the model's choices in log entries 46, 75, 77 and 78. -/
def Obligations.RailCommandsComplete : Prop :=
  (∀ (s : State) (i : Fin 96), s.dev.hupRuns = true →
      ((s.dev.en (railEntry i)).st = .starting →
        ∃ (t : State) (e : Device), exec (.pgTimeout i) s = .next t ∧ t.dev = e.failPolicy (railEntry i :: s.dev.cutMembers (railEntry i)) ∧ RailFails s.dev e (railEntry i) 1) ∧
      (∀ det readings c, s.dev.monitorHolds (railEntry i) det readings = some c →
        ∃ (t : State) (e : Device), exec (.railMonitorFault i det readings) s = .next t ∧
          t.dev = (e.failPolicy (railEntry i :: s.dev.cutMembers (railEntry i))).wrapProgress.takeProgress ∧ RailFails s.dev e (railEntry i) c) ∧
      (∀ det readings, s.dev.monitorHolds (railEntry i) det readings = none → exec (.railMonitorFault i det readings) s = .next s)) ∧
  (∀ (s : State) (src : Source) (i : Fin 128),
      (∀ op c, (op, c) ∈ [(RailOp.on, Instr.railOn src i), (.softOff, .railSoftOff src i), (.immOff, .railImmediateOff src i), (.clear, .railClear src i)] →
        ∀ w, w = (field 31 29 (match op with | .on => 1 | .softOff => 2 | .immOff => 3 | .clear => 4) ||| field 6 0 i.val) →
        s.dev.takes src 0x03004C 0xFFFFFFFF w = true → ∃ t, exec c s = .next t ∧
        (isRail i = false → bit (t.dev.head (pg seqPage)).err 8 = true ∧ t.dev.seq = s.dev.seq ∧ t.dev.entry = s.dev.entry) ∧
        (isRail i = true → s.dev.seq.st = .take → t.dev.seq = { s.dev.seq with held := s.dev.seq.held ++ [(op, i.val)] } ∧ t.dev.entry = s.dev.entry) ∧
        (isRail i = true → s.dev.seq.st = .idle →
          (op = .clear → (s.dev.en i).st = .faulted → EntryMoves s.dev t.dev i .off 0x01 ∧ (t.dev.en i).failCause = 0) ∧
          (op = .on → s.dev.inScene i s.dev.seq.cur = false → t.dev.seq = { s.dev.seq with reqres := 5 } ∧ (t.dev.en i).heldOff = false) ∧
          (op = .softOff → ∃ e : Device, t.dev = e.wrapProgress ∧ e.seq.st = .rail ∧ e.seq.railOn = false ∧ (e.en i).heldOff = true) ∧
          (op = .immOff → ∃ e : Device, t.dev = e.wrapProgress.takeProgress ∧ (e.en i).heldOff = true ∧
            ((s.dev.en i).st.up = true → (e.en i).st = .stopping ∧ (e.en i).failCause = 8)))) ∧
      (s.dev.hupRuns = true →
        (s.dev.seq.held = [] → exec .heldRailRequestStart s = .next s) ∧
        (∀ op r, s.dev.seq.held = (op, i.val) :: r → s.dev.seq.st = .idle → s.dev.seq.latched = none →
          ∃ (t : State) (e : Device), exec .heldRailRequestStart s = .next t ∧ t.dev = e.railNow op i ∧ e.seq = { s.dev.seq with held := r } ∧ e.entry = s.dev.entry)) ∧
      (∀ data, s.dev.takes src 0x030050 0xFFFFFFFF data = true → ∃ t, exec (.seqForce src data) s = .next t ∧
        (bits data 31 16 = 0xF0CE → s.dev.isAdmin (s.dev.requester src) = true → bit data 15 = true → (s.dev.en i).st = .stuck →
          ∃ e : Device, t.dev = e.wrapProgress.takeProgress ∧ (e.en i).forced = true ∧ (e.en i).st = if (s.dev.en i).stopFail then .faulted else .off) ∧
        (bits data 31 16 ≠ 0xF0CE ∨ s.dev.isAdmin (s.dev.requester src) = false →
          bit (t.dev.head (pg seqPage)).err 1 = true ∧ t.dev.seq = s.dev.seq ∧ t.dev.entry = s.dev.entry)))

/-- The events that move the hold-up path complete (R409 to R413, R418, R420 to R422): each from its own state, when its condition holds on the means just
taken and scaled (R402), with its cause code; a converter fault, a late hand-over and a removal set their error bits. A write of ENABLE of the hold-up path completes
(R412, R413): 1 enables; 0 takes the path to INHIBIT, draining a charge, or waits while a hand-over, BATT, RETURN or EMPTY lasts; HUP_ENABLE_DEFERRED
performs what waited.
Clauses that go beyond the rules named rest on the model's choices in log entries 80, 82 and 131. -/
def Obligations.PowerPathCommandsComplete : Prop :=
  (∀ (s : State) (x : HupPins), s.dev.hupRuns = true →
      let m := s.dev.scaled x
      let d := s.dev.setMeas m
      let h := d.hotCheck
      (s.dev.hup.st = .share → m.ibat.natAbs < 8 → ∃ t, exec (.shareEnd x) s = .next t ∧ PathMoves d t.dev .standby 0x19) ∧
      (∀ low, s.dev.hup.st = .detect →
        let e := (d.updHup fun h => { h with present := low }).hotCheck
        ∃ t, exec (.powerPathDetectEnd low x) s = .next t ∧ PathMoves e t.dev (if e.packQualified then .standby else if !low then .nopack else .inhibit) 0x10) ∧
      (let e := (d.updHup fun h => { h with present := h.present || d.boot.up.ao }).hotCheck;
        e.packQualified = true → e.inhCause = 0 →
        (s.dev.hup.st = .nopack → ∃ t, exec (.packQualified x) s = .next t ∧ PathMoves e t.dev .standby 0x10) ∧
        (s.dev.hup.st = .inhibit → ∃ t, exec (.packQualified x) s = .next t ∧ PathMoves e t.dev .standby 0x1B)) ∧
      ((s.dev.hup.st = .nopack → h.inhCause = 1 → ∃ t, exec (.powerPathInhibit x) s = .next t ∧ PathMoves h t.dev .inhibit 0x1A) ∧
        (s.dev.hup.st = .standby ∨ s.dev.hup.st = .share → h.inhCause ≠ 0 → ∃ t, exec (.powerPathInhibit x) s = .next t ∧ PathMoves h t.dev .inhibit 0x1A) ∧
        (s.dev.hup.st = .charge → h.inhCause ≠ 0 → ∃ t, exec (.powerPathInhibit x) s = .next t ∧ PathMoves (h.chgDrain 0x02) t.dev .inhibit 0x1A)) ∧
      (s.dev.hup.st = .handover ∨ s.dev.hup.st = .batt ∨ s.dev.hup.st = .share → ((bits (s.dev.hreg 0x058) 7 0 * 16 : Nat) : Int) ≤ m.ibat →
        m.vbus < bits (s.dev.hreg 0x050) 9 0 * 9 →
        ∃ (t : State) (e : Device), exec (.converterFault x) s = .next t ∧ PathMoves e t.dev .inhibit 0x1A ∧
          e.hup = { d.hup with convFault := true, convAck := false } ∧ bit (e.head (pg hupPage)).err 10 = true) ∧
      (s.dev.hup.st = .handover → m.isrc ≤ ((bits (s.dev.hreg 0x054) 7 0 * 2 : Nat) : Int) →
        ∃ t, exec (.handoverComplete x) s = .next t ∧ PathMoves d t.dev .batt 0x13) ∧
      (s.dev.hup.st = .handover → ∃ (t : State) (e : Device), exec .handoverTimeout s = .next t ∧ PathMoves s.dev e .batt 0x14 ∧ t.dev.hup = e.hup ∧
        t.dev.chg = e.chg ∧ bit (t.dev.head (pg hupPage)).err 9 = true) ∧
      (s.dev.hup.st = .batt ∨ s.dev.hup.st = .empty → s.dev.inWindow m = true → s.dev.hup.qualifying = true →
        bits (s.dev.hreg 0x040) 10 0 ≤ (s.dev.cycle - s.dev.hup.qualStart) / 125000 →
        ∃ t, exec (.sourceQualified x) s = .next t ∧ PathMoves d t.dev .returning 0x15) ∧
      (s.dev.hup.st = .returning → ∃ t, exec (.returnComplete x) s = .next t ∧ PathMoves h t.dev (if h.packQualified then .standby else .inhibit) 0x16) ∧
      (s.dev.hup.st = .batt → d.belowCut = true → ∃ t, exec (.packEmpty x) s = .next t ∧ PathMoves d t.dev .empty 0x17) ∧
      (∀ how, s.dev.removalSeen how = true →
        ∃ (t : State) (e : Device), exec (.packRemoval how) s = .next t ∧ PathMoves e t.dev .nopack 0x11 ∧ e.hup = { s.dev.hup with present := s.dev.hup.present && !s.dev.boot.up.ao } ∧
          t.dev.chg.st = .off ∧ (s.dev.canonical = true → bits (t.dev.hreg 0x05C) 31 16 = 0) ∧ bit (t.dev.head (pg hupPage)).err 13 = true)) ∧
  (∀ s : State,
      (∀ src on, s.dev.takesHead src hupPage 0x008 (setBit (s.dev.ctlWord (pg hupPage)) 0 on) = true →
        ∃ t, exec (.hupEnableWrite src on) s = .next t ∧
          (on = true → t.dev.hup = { s.dev.hup with en := true, enHeld := false, convFault := s.dev.hup.convFault && !s.dev.hup.convAck, convAck := false } ∧
            t.dev.chg = s.dev.chg) ∧
          (on = false →
            (s.dev.hup.st = .handover ∨ s.dev.hup.st = .batt ∨ s.dev.hup.st = .returning ∨ s.dev.hup.st = .empty →
              t.dev.hup = { s.dev.hup with enHeld := true } ∧ t.dev.chg = s.dev.chg) ∧
            (s.dev.hup.st = .detect ∨ s.dev.hup.st = .inhibit → t.dev.hup = { s.dev.hup with en := false, convAck := true } ∧ t.dev.chg = s.dev.chg) ∧
            (s.dev.hup.st = .nopack ∨ s.dev.hup.st = .standby ∨ s.dev.hup.st = .charge ∨ s.dev.hup.st = .share →
              ∃ x e : Device, PathMoves x e .inhibit 0x1A ∧ x.hup = { s.dev.hup with en := false, convAck := true } ∧
                (s.dev.chg.st.charging = true → x.chg.st = .draining) ∧ (s.dev.chg.st.charging = false → x.chg = s.dev.chg) ∧
                t.dev.hup = e.hup ∧ t.dev.chg = e.chg))) ∧
      (s.dev.hupRuns = true →
        (s.dev.hup.enHeld = false → exec .hupEnableDeferred s = .next s) ∧
        (s.dev.hup.enHeld = true → ∃ t, exec .hupEnableDeferred s = .next t ∧
          (s.dev.hup.st = .handover ∨ s.dev.hup.st = .batt ∨ s.dev.hup.st = .returning ∨ s.dev.hup.st = .empty → t = s) ∧
          (s.dev.hup.st = .inhibit → t.dev.hup = { s.dev.hup with en := false, enHeld := false, convAck := true }) ∧
          (s.dev.hup.st = .standby ∨ s.dev.hup.st = .nopack →
            ∃ x : Device, PathMoves x t.dev .inhibit 0x1A ∧ x.hup = { s.dev.hup with en := false, enHeld := false, convAck := true }))))

/-- What the source does to the path completes, from every state in which the path runs (R404 to R408, R414, R415, R424): four readings in one band adopt its class, and class 0 is an error; the
input limit throttles the charge by the excess, and shares the load where the charge is already at 0; a source past its limit that the path may not
relieve is an error; a sag that has lasted SAG_FILT hands over from a state that R411 names and is only recorded in the others; the start
pulse gives way to the hold; RESERVE_LOW follows its definition.
Clauses that go beyond the rules named rest on the model's choices in log entry 80. -/
def Obligations.SourceEventsComplete : Prop :=
  ∀ (s : State) (x : HupPins), s.dev.hupRuns = true →
    let m := s.dev.scaled x
    let d := s.dev.setMeas m
    let h := d.hotCheck
    let cut := (max 0 ((h.iApplied : Int) - ratOpen (ratDiv (((m.isrc - (h.iLim * 16 : Nat) : Int) : Rat) / 2 * (m.vbus : Rat)) (m.vpack : Rat)))).toNat
    (∀ mv : Vector Nat 4, ∃ t, exec (.srcClassAdopt mv) s = .next t ∧
      (∀ b, (∀ v, v ∈ mv.toList → srcBand v = b) →
        t.dev.hup = { s.dev.hup with cls := b } ∧ t.dev.chg = s.dev.chg ∧ (b = 0 → bit (t.dev.head (pg hupPage)).err 11 = true)) ∧
      (∀ v, v ∈ mv.toList → srcBand v ≠ srcBand mv[0] → t = s)) ∧
    (∃ t, exec (.inputLimitThrottle x) s = .next t ∧
      (s.dev.hup.st ≠ .standby → s.dev.hup.st ≠ .charge → t = { s with dev := h }) ∧
      (s.dev.hup.st = .standby ∨ s.dev.hup.st = .charge →
        (h.overLimit = false → t.dev.hup = h.hup ∧ t.dev.chg = { s.dev.chg with throttle := none }) ∧
        (h.overLimit = true → h.iApplied ≠ 0 → t.dev.hup = h.hup ∧ t.dev.chg = { s.dev.chg with throttle := some cut }) ∧
        (h.overLimit = true → h.iApplied = 0 → h.reserveNow = false → h.packCool = true → ∃ e : Device,
          PathMoves (e.chgDrain 0x02) t.dev .share 0x18 ∧ e.hup = h.hup ∧ e.chg = { s.dev.chg with throttle := some 0 }) ∧
        (h.overLimit = true → h.iApplied = 0 → h.reserveNow = true ∨ h.packCool = false →
          t.dev.hup = h.hup ∧ t.dev.chg = { s.dev.chg with throttle := some 0 }))) ∧
    (let permitted := (s.dev.hup.st = .standby ∨ s.dev.hup.st = .charge ∨ s.dev.hup.st = .share) ∧ d.reserveNow = false ∧ d.packCool = true;
      ∃ t, exec (.sourceOverloadTimeout x) s = .next t ∧
        (d.overLimit = true → ¬ permitted → t.dev.hup = d.hup ∧ t.dev.chg = s.dev.chg ∧ bit (t.dev.head (pg hupPage)).err 12 = true) ∧
        (d.overLimit = false ∨ permitted → t = { s with dev := d })) ∧
    (∀ low : Nat,
      let sag := m.vbus < bits (s.dev.hreg 0x050) 25 16 * 10 ∧ max 1 (bits (s.dev.hreg 0x040) 31 24) ≤ low
      (∀ iL0, ∃ t, exec (.sagDetect ⟨x, low⟩ iL0) s = .next t ∧
        (sag → s.dev.hup.st.sagState = true → t.dev.hup.st = .handover ∧ t.dev.hup.prev = s.dev.hup.st ∧
          t.dev.hup.legs = .startPulse ∧ t.dev.hup.tStart ≤ 1800 ∧ t.dev.hup.sag = true ∧ t.dev.hup.meas = m ∧
          (s.dev.chg.st.charging = true ∨ s.dev.chg.st = .draining → t.dev.chg.st = .suspend)) ∧
        (sag → s.dev.hup.st.sagState = false →
          t.dev.hup = { d.hup with sag := true, sagNoho := s.dev.hup.sagNoho || s.dev.hup.st.noHandover } ∧ t.dev.chg = s.dev.chg) ∧
        (¬ sag → t = s)) ∧
      (∃ t, exec (.sagNoHandover ⟨x, low⟩) s = .next t ∧
        (sag → s.dev.hup.st = .nopack ∨ s.dev.hup.st = .inhibit ∨ s.dev.hup.st = .empty ∨ s.dev.hup.st = .detect →
          t.dev.hup = { d.hup with sag := true, sagNoho := true } ∧ t.dev.chg = s.dev.chg) ∧
        (¬ sag → t = s))) ∧
    (∃ t, exec .startPulseEnd s = .next t ∧
      (s.dev.hup.st = .handover → s.dev.hup.legs = .startPulse → t.dev.hup = { s.dev.hup with legs := .holding } ∧ t.dev.chg = s.dev.chg) ∧
      (s.dev.hup.st ≠ .handover ∨ s.dev.hup.legs ≠ .startPulse → t = s)) ∧
    (∃ t, exec (.reserveLow x) s = .next t ∧ t.dev.hup = { d.hup with rsvLow := if s.dev.hup.st = .detect then s.dev.hup.rsvLow else d.reserveNow } ∧ t.dev.chg = s.dev.chg)

/-- The charger's command and its watchdog complete (R428, R429): a write of CHGCMD stores the command within its limits and ends the fallback; PERIOD without a write
starts the fallback, once, with its error, where no restored safe values are in force (R122). CHARGE_BAND_CHANGE moves the band with 1 °C of hysteresis and drains a charge whose new
band allows none (R426, R427, R430).
Clauses that go beyond the rules named rest on the model's choices in log entry 83. -/
def Obligations.ChargeCommandAndBandComplete : Prop :=
  ∀ s : State,
    (∀ src be data, alignedBe be = true → s.dev.canonical = true → s.dev.takes src 0x041048 (byteMask be) data = true →
      let w := mergeWord (s.dev.reg 0x041048) data (byteMask be)
      ∃ t, exec (.chargerCommandWrite src be data) s = .next t ∧ t.dev.chg = { s.dev.chg with fallback := false, safe := false } ∧ t.dev.hup = s.dev.hup ∧
        bits (t.dev.reg 0x041048) 23 16 = min 160 (bits w 23 16) ∧ bits (t.dev.reg 0x041048) 7 0 = min 140 (bits w 7 0) ∧
        ∀ a, a ≠ 0x041048 → t.dev.reg a = s.dev.reg a) ∧
    (s.dev.hupRuns = true →
      (s.dev.chg.fallback = true ∨ s.dev.chg.safe = true → exec .chargerWatchdogExpiry s = .next s) ∧
      (s.dev.chg.fallback = false → s.dev.chg.safe = false → ∃ t, exec .chargerWatchdogExpiry s = .next t ∧ t.dev.chg = { s.dev.chg with fallback := true } ∧ t.dev.hup = s.dev.hup ∧
        bit (t.dev.head (pg chgPage)).err 10 = true) ∧
      (s.dev.bandTemp = none → exec .chargeBandChange s = .next s) ∧
      (∀ v, s.dev.bandTemp = some v →
        let cur := s.dev.chg.band
        let cand := s.dev.bandOf v
        ∃ t, exec .chargeBandChange s = .next t ∧ t.dev.hup = s.dev.hup ∧
          (cand = cur → t.dev.chg = s.dev.chg) ∧
          (cur < cand → sbits (s.dev.bandWord (cur + 1)) 31 24 * 16 + 16 ≤ v → t.dev.chg.band = cand) ∧
          (cur < cand → v < sbits (s.dev.bandWord (cur + 1)) 31 24 * 16 + 16 → t.dev.chg = s.dev.chg) ∧
          (cand < cur → v ≤ sbits (s.dev.bandWord cur) 31 24 * 16 - 16 → t.dev.chg.band = cand) ∧
          (cand < cur → sbits (s.dev.bandWord cur) 31 24 * 16 - 16 < v → t.dev.chg = s.dev.chg) ∧
          (t.dev.chg.band ≠ cur → bits (s.dev.bandWord t.dev.chg.band) 23 16 = 0 → s.dev.chg.st.charging = true → t.dev.chg.st = .draining)))

/-- The events that move the charger complete (R430, R431, R452): each from its own state, when its condition holds on the means just taken and scaled (R402), with its
cause code; the path follows (R411), and the gauge learns of a charge that is full.
Clauses that go beyond the rules named rest on the model's choices in log entry 84. -/
def Obligations.ChargerEventsComplete : Prop :=
  ∀ (s : State) (x : HupPins), s.dev.hupRuns = true →
    let m := s.dev.scaled x
    let d := s.dev.setMeas m
    (s.dev.chg.st = .qual ∨ (s.dev.chg.st = .off ∧ s.dev.chgEnabled = true ∧ s.dev.hup.st = .standby) →
      ∃ (t : State) (y e : Device), exec (.chargerQual x) s = .next t ∧ (s.dev.chg.st = .qual → y = d) ∧ (s.dev.chg.st = .off → ChargerMoves d y .qual 0x02) ∧
        y.hup = d.hup ∧ e.hup = d.hup ∧ PathFollows e t.dev ∧
        (y.suspCause ≠ 0 → ChargerMoves y e .suspend 0x02) ∧
        (y.suspCause = 0 → m.vpack < y.packAt (bits (y.creg 0x044) 7 0) → ChargerMoves y e .prechg 0x20) ∧
        (y.suspCause = 0 → y.packAt (bits (y.creg 0x044) 7 0) ≤ m.vpack → y.chgFull = true → ChargerMoves y e .done 0x20) ∧
        (y.suspCause = 0 → y.packAt (bits (y.creg 0x044) 7 0) ≤ m.vpack → y.chgFull = false → ChargerMoves y e .cc 0x20)) ∧
    (s.dev.chg.st = .prechg → d.packAt (bits (d.creg 0x044) 7 0) ≤ m.vpack →
      ∃ t, exec (.prechargeDone x) s = .next t ∧ ChargerMoves d t.dev .cc 0x21 ∧ t.dev.hup = d.hup) ∧
    (s.dev.chg.st = .prechg → ∃ (t : State) (e : Device), exec .prechargeTimeout s = .next t ∧ ChargerMoves s.dev e .fault 0x27 ∧ e.hup = s.dev.hup ∧
      bit (e.head (pg chgPage)).err 9 = true ∧ PathFollows e t.dev) ∧
    (s.dev.chg.st = .cc → d.packCv d.vApplied ≤ 2 * m.vpack → ∃ t, exec (.cvReached x) s = .next t ∧ ChargerMoves d t.dev .cv 0x22 ∧ t.dev.hup = d.hup) ∧
    (s.dev.chg.st = .cv → m.ibat.natAbs < bits (d.creg 0x040) 15 8 * 2 →
      ∃ (t : State) (e g : Device), exec (.chargeTerminated x) s = .next t ∧ ChargerMoves d e .done 0x23 ∧ e.hup = d.hup ∧ PathFollows e g ∧
        t.dev = { g with gau := { s.dev.gau with fullPoint := t.dev.gau.fullPoint } } ∧
        (s.dev.gau.st = .seeking ∨ s.dev.gau.st = .counting ∨ s.dev.gau.st = .starved → t.dev.gau.fullPoint = true)) ∧
    (s.dev.chg.st = .done → d.chgFull = false → ∃ t, exec (.recharge x) s = .next t ∧ ChargerMoves d t.dev .qual 0x24 ∧ t.dev.hup = d.hup) ∧
    (s.dev.chg.st.charging = true → ∃ (t : State) (e : Device), exec .chargeTimeout s = .next t ∧ ChargerMoves s.dev e .fault 0x27 ∧ e.hup = s.dev.hup ∧
      bit (e.head (pg chgPage)).err 9 = true ∧ PathFollows e t.dev) ∧
    (s.dev.chg.st.charging = true → d.packCv (d.vApplied + 10) < 2 * m.vpack →
      ∃ (t : State) (e : Device), exec (.chargerOvFault x) s = .next t ∧ ChargerMoves d e .fault 0x02 ∧ e.hup = d.hup ∧
        bit (e.head (pg chgPage)).err 9 = true ∧ PathFollows e t.dev) ∧
    (d.suspCause ≠ 0 → ∃ t, exec (.chargerSuspend x) s = .next t ∧ t.dev.hup = d.hup ∧
      (s.dev.chg.st.charging = true → ChargerMoves d t.dev .draining 0x02) ∧ (s.dev.chg.st = .qual → ChargerMoves d t.dev .suspend 0x02)) ∧
    (∀ late, s.dev.chg.st = .draining → late = true ∨ m.ibat.natAbs < 4 →
      ∃ (t : State) (e : Device), exec (.chargerDrainComplete x late) s = .next t ∧
        ChargerMoves d e (if s.dev.chg.latched then .qual else if s.dev.chgEnabled then .suspend else .off) 0x26 ∧ e.chg.latched = false ∧
        e.hup = d.hup ∧ PathFollows e t.dev) ∧
    (let e := if d.overLimit then d else d.updChg fun c => { c with throttle := none };
      e.suspCause = 0 →
      (s.dev.chg.st = .suspend → s.dev.hup.st = .standby → ∃ t, exec (.chargerResume x) s = .next t ∧ ChargerMoves e t.dev .qual 0x02 ∧ t.dev.hup = d.hup) ∧
      (s.dev.chg.st = .draining → s.dev.chgEnabled = true → ∃ t, exec (.chargerResume x) s = .next t ∧ t.dev.chg = { e.chg with latched := true } ∧ t.dev.hup = d.hup))

/-- The always-on domain's own events complete while VAO is up (R105, R106, R439 to R446): AO_WAKE by PACK_DET or by a current past WAKE_V, HIBERNATE_ENTER, the OCV sample at REST_OCV,
and one second of the counters, awake or asleep.
Clauses that go beyond the rules named rest on the model's choices in log entries 18 and 39. -/
def Obligations.AlwaysOnEventsComplete : Prop :=
  ∀ s : State,
    ((s.dev.boot.up.ao = true → s.dev.ao.active = false →
        (∃ t, exec (.aoWake .packDet) s = .next t ∧ t.dev.ao = { s.dev.ao with active := true } ∧ t.dev.gau = s.dev.gau) ∧
        (∀ uv : Rat, (bits (s.dev.reg 0x044040) 23 16 : Nat) < max uv (-uv) → ∃ t, exec (.aoWake (.current uv)) s = .next t ∧
          t.dev.ao = { s.dev.ao with active := true } ∧ t.dev.gau = { s.dev.gau with restS := 0 })) ∧
      (∀ uv : Rat, max uv (-uv) ≤ (bits (s.dev.reg 0x044040) 23 16 : Nat) → exec (.aoWake (.current uv)) s = .next s) ∧
      (∀ how, s.dev.boot.up.ao = false ∨ s.dev.ao.active = true → exec (.aoWake how) s = .next s)) ∧
    (let may := s.dev.boot.up.ao && s.dev.ao.active && bit (s.dev.reg 0x044040) 0 && decide (max 1 (bits (s.dev.reg 0x044040) 31 24) ≤ s.dev.gau.restS) && s.dev.noneArmed;
      (may = true → ∃ t, exec .hibernateEnter s = .next t ∧ t.dev.ao = { s.dev.ao with active := false } ∧ t.dev.gau = s.dev.gau) ∧
      (may = false → exec .hibernateEnter s = .next s)) ∧
    (∀ pin, let rest := min 0xFFFF (60 * max 1 (bits (s.dev.reg 0x044044) 23 16));
      (s.dev.boot.up.ao = true → s.dev.gau.restS = rest → ∃ t, exec (.ocvSample pin) s = .next t ∧
          t.dev.gau = { s.dev.gau with vOcv := s.dev.packVolts pin % 65536, ocvReady := true } ∧ t.dev.ao = s.dev.ao) ∧
      (s.dev.gau.restS ≠ rest → exec (.ocvSample pin) s = .next s)) ∧
    (∀ sec : GaugeSecond,
      (s.dev.boot.up.ao = false → exec (.gaugeEstimateUpdate sec) s = .next s) ∧
      (s.dev.boot.up.ao = true → s.dev.boot.coreUp = false → ∃ t, exec (.gaugeEstimateUpdate sec) s = .next t ∧
        (s.dev.ao.active = true →
          let codes := sec.codes.map (clampI (-(2 ^ 23)) (2 ^ 23 - 1))
          t.dev.gau.acc = (((s.dev.gau.acc : Int) + codes.sum) % 2 ^ 48).toNat ∧ t.dev.gau.abs = min (2 ^ 48 - 1) (s.dev.gau.abs + (codes.map Int.natAbs).sum) ∧
            t.dev.gau.age = min 0xFFFFFFFF (s.dev.gau.age + 1) ∧ t.dev.gau.hibt = s.dev.gau.hibt ∧ t.dev.gau.vPack = s.dev.packVolts sec.vpack ∧
            (codes.all (fun c => decide ((c.natAbs : Rat) < s.dev.restCode)) = true → t.dev.gau.restS = min 0xFFFF (s.dev.gau.restS + 1)) ∧
            (codes.all (fun c => decide ((c.natAbs : Rat) < s.dev.restCode)) = false → t.dev.gau.restS = 0)) ∧
        (s.dev.ao.active = false → t.dev.gau = { s.dev.gau with
          age := min 0xFFFFFFFF (s.dev.gau.age + 1), hibt := min 0xFFFFFFFF (s.dev.gau.hibt + 1), restS := min 0xFFFF (s.dev.gau.restS + 1) })))

/-- The estimate's events complete (R447 to R452, R455, R456, R464 to R466, R469, R470): the update of a counting gauge that takes no anchor; a
full-charge point is an anchor; STARVED, NOPACK and the return of the pack; the end of a commit, which writes the slot that was not active, or fails.
The commands to the gauge complete while VAO is up (R443, R464, R467, R473, R474, R477): ANCHOR zeroes the error counters; COMMIT starts the write of
the other slot, or is refused; RESTORE and UNLOAD need the key 0x6A17 and answer in RESULT; a read of GAU_ACC_LO latches the read buffer.
Clauses that go beyond the rules named rest on the model's choices in log entries 70, 73, 85, 86, 132 and 133. -/
def Obligations.GaugeEventsAndCommandsComplete : Prop :=
  (∀ s : State,
      (∀ sec : GaugeSecond, s.dev.boot.up.ao = true → s.dev.boot.coreUp = true → s.dev.hupRuns = true →
        let a := s.dev.aoSecond sec
        (s.dev.gau.st = .counting → s.dev.gau.fullPoint = false → s.dev.gau.ocvReady = false → ∃ t, exec (.gaugeEstimateUpdate sec) s = .next t ∧
          t.dev.gau = { a.gau with soc := pctWord (clampR 0 10000 a.socC), u := pctWord a.uCount, conf := confOf a.uCount }) ∧
        (s.dev.gau.st.runs = true → s.dev.gau.fullPoint = true → s.dev.gau.ocvReady = false → ∃ t, exec (.gaugeEstimateUpdate sec) s = .next t ∧
          t.dev.gau.st = .counting ∧ t.dev.gau.abs = 0 ∧ t.dev.gau.age = 0 ∧ t.dev.gau.hibt = 0 ∧ t.dev.gau.fullPoint = false ∧
          t.dev.gau.acc = a.gau.acc ∧ t.dev.gau.acc0 = a.gau.acc)) ∧
      (s.dev.hupRuns = true →
        (s.dev.boot.coreUp = true → s.dev.gau.st = .counting → 3600 * bits (s.dev.reg 0x044044) 31 24 ≤ s.dev.gau.age →
          ∃ t, exec .gaugeStarved s = .next t ∧ GaugeMoves s.dev t.dev .starved 0x13 ∧ t.dev.gau.starved = true) ∧
        (s.dev.gau.age < 3600 * bits (s.dev.reg 0x044044) 31 24 → exec .gaugeStarved s = .next s) ∧
        (s.dev.gau.st.runs = true → ∃ t, exec .gaugeNopack s = .next t ∧ GaugeMoves s.dev t.dev .nopack 0x14) ∧
        (s.dev.gau.st.runs = false → exec .gaugeNopack s = .next s) ∧
        (s.dev.gau.st = .nopack → ∃ t, exec .gaugePackReturn s = .next t ∧ GaugeMoves s.dev t.dev .seeking 0x15 ∧ t.dev.gau.packChanged = true) ∧
        (s.dev.gau.st ≠ .nopack → exec .gaugePackReturn s = .next s)) ∧
      (∀ inhibited,
        (s.dev.gau.commit = none → exec (.gaugeCommitComplete inhibited) s = .next s) ∧
        (∀ c, s.dev.gau.commit = some c → s.dev.canonical = true → ∃ t, exec (.gaugeCommitComplete inhibited) s = .next t ∧ t.dev.gau.commit = none ∧
          let o := slotOff c.slotB
          let w0 : Word := field 31 16 c.cycles ||| field 15 0 c.fcc
          let w1 : Word := field 15 0 c.seq
          (inhibited = false → s.dev.boot.up.ao = true → t.dev.gau.commitFail = false ∧ t.dev.gau.commits = (s.dev.gau.commits + 1) % 65536 ∧
            t.dev.gau.slotB = c.slotB ∧ t.dev.gau.fcc = c.fcc ∧ t.dev.sram o = w0 ∧ t.dev.sram (o + 4) = w1 ∧
            t.dev.sram (o + 8) = (crc16 (wordBytes w0 ++ wordBytes w1)).setWidth 32 ∧ t.dev.activeB = c.slotB ∧
            ∀ x, (x < sramAddr o ∨ sramAddr (o + 12) ≤ x) → (x < sramAddr 0x0A0 ∨ sramAddr 0x0A4 ≤ x) → memRead t.dev.ram x = memRead s.dev.ram x) ∧
          (inhibited = true ∨ s.dev.boot.up.ao = false → t.dev.gau.commitFail = true ∧ t.dev.gau.commits = s.dev.gau.commits ∧ t.dev.gau.fcc = s.dev.gau.fcc ∧
            t.dev.ram = s.dev.ram)))) ∧
  (∀ (s : State) (src : Source), s.dev.boot.up.ao = true →
      let g := s.dev.gauSeen
      (s.dev.takes src 0x044074 0xFFFFFFFF 4 = true →
        ∃ t, exec (.gaugeAnchorWrite src) s = .next t ∧ t.dev.gau = { g with abs := 0, age := 0, hibt := 0, ocvReady := false }) ∧
      (s.dev.takes src 0x044074 0xFFFFFFFF 1 = true → ∃ t, exec (.gaugeCommit src) s = .next t ∧
        (s.dev.gau.commit.isSome = true ∨ s.dev.gau.st = .notRestored → t.dev.gau = g ∧ bit (t.dev.head (pg gauPage)).err 8 = true) ∧
        (s.dev.gau.commit = none → s.dev.gau.st ≠ .notRestored → t.dev.gau = { g with commit := some {
          slotB := !s.dev.activeB, fcc := bits (s.dev.reg 0x044070) 15 0, cycles := bits (s.dev.reg 0x044070) 31 16,
          seq := (s.dev.sramH (slotOff s.dev.activeB + 4) + 1) % 65536 } })) ∧
      (∀ (key : BitVec 16) packDet, s.dev.takes src 0x044078 0xFFFFFFFF (field 31 16 key.toNat ||| 1) = true →
        ∃ t, exec (.gaugeRestore src key packDet) s = .next t ∧
          (key ≠ 0x6A17 → t.dev.gau = g ∧ bit (t.dev.head (pg gauPage)).err 1 = true) ∧
          (key = 0x6A17 → t.dev.gau.result = s.dev.restoreResult ∧ (s.dev.restoreResult ≠ 1 → t.dev.gau = { g with result := s.dev.restoreResult }) ∧
            (s.dev.restoreResult = 1 → t.dev.gau.st = (if packDet then .nopack else .seeking) ∧ t.dev.gau.fcc = s.dev.capacity.1 ∧
              t.dev.gau.slotB = s.dev.capacity.2.1 ∧ t.dev.gau.packChanged = false))) ∧
      (∀ key : BitVec 16, s.dev.takes src 0x044078 0xFFFFFFFF (field 31 16 key.toNat ||| 2) = true →
        ∃ t, exec (.gaugeUnload src key) s = .next t ∧
          (key ≠ 0x6A17 → t.dev.gau = g ∧ bit (t.dev.head (pg gauPage)).err 1 = true) ∧
          (key = 0x6A17 → (s.dev.gau.st = .notRestored → t.dev.gau = { g with result := 5 }) ∧
            (s.dev.gau.st ≠ .notRestored → s.dev.gau.commit.isSome = true → t.dev.gau = { g with result := 1, unloadWait := true }) ∧
            (s.dev.gau.st ≠ .notRestored → s.dev.gau.commit = none → t.dev.gau.st = .notRestored ∧ t.dev.gau.result = 1 ∧ t.dev.gau.soc = 0xFFFF))) ∧
      (s.dev.gets src 0x044050 = true → ∃ t, exec (.gauAccRead src) s = .next t ∧ t.dev.gau = { g with buf := #v[field 15 0 (s.dev.gau.acc / 2 ^ 32),
        BitVec.ofNat 32 s.dev.gau.abs, field 15 0 (s.dev.gau.abs / 2 ^ 32), BitVec.ofNat 32 s.dev.gau.age, BitVec.ofNat 32 s.dev.gau.hibt] }))

/-- The thermal scan and THM_CLR complete (R481, R482, R486, R488, R494): a frame samples the channels that are due and leaves the others; an absent
channel stays at its reset value; a channel outside every group becomes VALID with its sample, or HOLD and, at the count of THM_CFG, NOVALUE without
one; a loop without a stage that is due keeps its derating. A write of THM_CLR ends a plausibility break of the channel it names.
Clauses that go beyond the rules named rest on the model's choices in log entries 70, 73 and 134. -/
def Obligations.ThermalCommandsComplete : Prop :=
  ∀ s : State,
    (∀ x, s.dev.hupRuns = false → exec (.thermalScanFrame x) s = .next s) ∧
    (∀ x, s.dev.hupRuns = true → ∃ t, exec (.thermalScanFrame x) s = .next t ∧ t.dev.thm.frame = s.dev.thm.frame + 1 ∧
      (t.dev.head (pg 0x048)).cur = t.dev.thmCode ∧
      (∀ c, s.dev.chPresent c = false → t.dev.ch c = chan0) ∧
      (∀ c, s.dev.chPresent c = true → s.dev.chDue s.dev.thm.frame c = false → (s.dev.ch c).st ≠ .standin → (s.dev.ch c).st ≠ .novalue → t.dev.ch c = s.dev.ch c) ∧
      (∀ c, s.dev.chDue s.dev.thm.frame c = true → s.dev.chGroup c = 31 → (s.dev.ch c).st ≠ .standin → (s.dev.ch c).st ≠ .novalue →
        (∀ v, (s.dev.chSample c x).1 = some v → (t.dev.ch c).st = .valid ∧ (t.dev.ch c).val = v ∧ (t.dev.ch c).broken = (s.dev.ch c).broken) ∧
        ((s.dev.chSample c x).1 = none → (s.dev.ch c).st = .valid →
          (bits s.dev.thmCfg 31 28 ≤ 1 → (t.dev.ch c).st = .novalue ∧ (t.dev.ch c).broken = true ∧ (t.dev.ch c).plaus = false) ∧
          (1 < bits s.dev.thmCfg 31 28 → (t.dev.ch c).st = .hold ∧ (t.dev.ch c).outCnt = 1 ∧ (t.dev.ch c).val = (s.dev.ch c).val))) ∧
      ∀ n : Fin 16, (∀ k, (s.dev.ph k).own = some n → s.dev.chDue s.dev.thm.frame (tmonChan k) = false) → t.dev.thm.frac[n] = s.dev.thm.frac[n] ∧ t.dev.thm.iDer[n] = s.dev.thm.iDer[n]) ∧
    (∀ src data, s.dev.takes src 0x048084 0xFFFFFFFF data = true → ∃ t, exec (.thmClr src data) s = .next t ∧
      t.dev.thm.frame = s.dev.thm.frame ∧ t.dev.thm.frac = s.dev.thm.frac ∧ (∀ c : Fin 88, c.val ≠ bits data 6 0 → t.dev.ch c = s.dev.ch c) ∧
      ∀ c : Fin 88, c.val = bits data 6 0 →
        (∀ v, (s.dev.ch c).latest = some v → (s.dev.ch c).st = .standin ∨ (s.dev.ch c).st = .novalue → (s.dev.ch c).plaus = true →
          t.dev.ch c = { s.dev.ch c with st := .valid, val := v, broken := false, plaus := false } ∧ (t.dev.head (pg 0x048)).cur = t.dev.thmCode) ∧
        ((s.dev.ch c).latest = none ∨ (s.dev.ch c).plaus = false ∨ ((s.dev.ch c).st ≠ .standin ∧ (s.dev.ch c).st ≠ .novalue) → t.dev.ch c = s.dev.ch c))

/-- The fault collector's commands complete (R499, R502 to R505, R510, R512, R517): a FAB cycle records its latch events in the status word, the history
and the incident; the fall of a line; the W1C clear, which leaves a bit whose line is high; the injection and its key; a level of an EFI pin
that has held for EFI_FILT.
Clauses that go beyond the rules named rest on the model's choices in log entries 87 and 135. -/
def Obligations.FaultCommandsComplete : Prop :=
  ∀ s : State,
    (s.dev.live = true → ∃ t, exec .faultLatch s = .next t ∧
      let evs := (List.finRange 64).flatMap fun c => (s.dev.latchEvents c s.dev.linesNow).map fun e => (c, e)
      t.dev.flt.stat = evs.foldl (fun w e => w ||| BitVec.ofNat 64 (2 ^ e.1.val)) s.dev.flt.stat ∧ t.dev.flt.inject = false ∧
        t.dev.flt.line = s.dev.linesNow &&& ~~~(BitVec.ofNat 64 (2 ^ 63)) ∧
        (evs = [] → t.dev.flt.hist = s.dev.flt.hist ∧ t.dev.flt.seq = s.dev.flt.seq ∧ t.dev.flt.number = s.dev.flt.number ∧ t.dev.flt.first = s.dev.flt.first) ∧
        (∀ e r, evs = e :: r → t.dev.flt.seq = (s.dev.flt.seq + evs.length) % 65536 ∧
          (s.dev.flt.stat = 0 → t.dev.flt.number = (s.dev.flt.number + 1) % 65536 ∧ t.dev.flt.firstTs = s.dev.ts % 2 ^ 48 ∧
            t.dev.flt.first = (flag 31 true ||| field 29 24 e.1.val ||| field 23 16 e.2.1 ||| field 15 0 ((s.dev.flt.number + 1) % 65536))) ∧
          (s.dev.flt.stat ≠ 0 → t.dev.flt.number = s.dev.flt.number ∧ t.dev.flt.firstTs = s.dev.flt.firstTs ∧ t.dev.flt.first = s.dev.flt.first))) ∧
    (∀ c : Fin 64, s.dev.live = true →
      (s.dev.flt.line.getLsbD c.val = true → s.dev.lineNow c = false → ∃ t, exec (.faultLineRelease c) s = .next t ∧
        t.dev.flt.line = s.dev.flt.line &&& ~~~(BitVec.ofNat 64 (2 ^ c.val)) ∧ t.dev.flt.stat = s.dev.flt.stat ∧ t.dev.flt.hist = s.dev.flt.hist) ∧
      (s.dev.flt.line.getLsbD c.val = false ∨ s.dev.lineNow c = true → exec (.faultLineRelease c) s = .next s)) ∧
    (∀ src hi be data, alignedBe be = true → s.dev.takes src (if hi then 0x050044 else 0x050040) (byteMask be) data = true →
      let a := if hi then 0x050044 else 0x050040
      let w : BitVec 64 := if hi then (data &&& byteMask be).setWidth 64 <<< 32 else (data &&& byteMask be).setWidth 64
      let d := s.dev.arrive src a
      let lines := ({ d with ao := { d.ao with clkFail := d.ao.clkFail && !w.getLsbD 56 } } : Device).linesNow
      ∃ t, exec (.faultClear src hi be data) s = .next t ∧ t.dev.flt.stat = s.dev.flt.stat &&& ~~~(w &&& ~~~lines) ∧
        t.dev.flt.line = s.dev.flt.line &&& lines ∧ t.dev.ao.clkFail = (d.ao.clkFail && !w.getLsbD 56) ∧
        t.dev.flt.hist = s.dev.flt.hist ∧ t.dev.flt.number = s.dev.flt.number ∧ t.dev.flt.cnt = s.dev.flt.cnt) ∧
    (∀ src data, s.dev.takes src 0x05006C 0xFFFFFFFF data = true → ∃ t, exec (.faultInject src data) s = .next t ∧
      (bits data 31 16 = 0x1A7E → t.dev.flt = { s.dev.flt with inject := true }) ∧
      (bits data 31 16 ≠ 0x1A7E → t.dev.flt = s.dev.flt ∧ bit (t.dev.head (pg fltPage)).err 1 = true)) ∧
    (∀ (m : Fin 8) high held, s.dev.live = true →
      let filt := max 1 (bits (s.dev.reg 0x050064) 31 24)
      (s.dev.flt.judging = true → filt ≤ held → ∃ t, exec (.efiInput m ⟨high, held⟩) s = .next t ∧ t = { s with dev := { s.dev with flt := { s.dev.flt with efi := t.dev.flt.efi } } } ∧
        ∀ j : Fin 8, t.dev.flt.efi.getLsbD j.val = if j = m then (high == bit (s.dev.reg 0x050064) (8 + m.val)) else s.dev.flt.efi.getLsbD j.val) ∧
      (s.dev.flt.judging = false ∨ held < filt → exec (.efiInput m ⟨high, held⟩) s = .next s))

/-- Arming, disarming, the queue and the end of HOLD complete (R531, R537, R538, R544): ARM begins a window of count 0 or, when tripped, arms the latch;
DISARM needs its key; HOLD, counted in ticks while VAO is up, arms again or disarms when it has elapsed. Only instance k changes. Service and expiry complete (R522 to R526, R529, R530, R532, R533): a
check-in serves a window that asks for no task or answer, or collects its tasks; an early or a second service, a wrong answer and a late window expire
it; the token answers it. A disarmed or tripped instance takes no service.
Clauses that go beyond the rules named rest on the model's choices in log entries 46, 88, 89 and 90. -/
def Obligations.WatchdogCommandsComplete : Prop :=
  (∀ (s : State) (k : Fin 9) (src : Source) (dt : Nat), s.dev.wdtCalm k dt →
      let x := s.dev.wdtNow k dt
      (s.dev.takes src (pageAddr (wdtPage k) 0x054) 0xFFFFFFFF 1 = true → ∃ t, exec (.wdtArm k src dt) s = .next t ∧ (∀ j, j ≠ k → t.dev.wd j = s.dev.wd j) ∧
        (x.st = .tripped → t.dev.wd k = { x with armlatch := true }) ∧
        (x.st = .warn → t.dev.wd k = x ∧ bit (t.dev.head (pg (wdtPage k))).err 12 = true) ∧
        (x.st = .disarmed ∨ x.st = .run → (t.dev.wd k).st = .run ∧ (t.dev.wd k).prev = x.st ∧ (t.dev.wd k).armlatch = false ∧ WindowBegins s.dev t.dev k 0 ∧
          (s.dev.boot.up.ao = true → t.dev.ao.active = true))) ∧
      (∀ key : BitVec 16, s.dev.takes src (pageAddr (wdtPage k) 0x054) 0xFFFFFFFF (field 31 16 key.toNat ||| 2) = true →
        ∃ t, exec (.wdtDisarm k src dt key) s = .next t ∧ (∀ j, j ≠ k → t.dev.wd j = s.dev.wd j) ∧
          (key ≠ 0xD15A ∨ s.dev.locked (wdtPage k) = true → t.dev.wd k = x ∧ bit (t.dev.head (pg (wdtPage k))).err 1 = true) ∧
          (key = 0xD15A → s.dev.locked (wdtPage k) = false →
            (x.st = .tripped → t.dev.wd k = x) ∧ (x.st ≠ .tripped → (t.dev.wd k).st = .disarmed ∧ (t.dev.wd k).exprec = x.exprec ∧ (t.dev.wd k).expcnt = x.expcnt))) ∧
      (∀ chal : BitVec 16, s.dev.takes src (pageAddr (wdtPage k) 0x078) 0xFFFFFFFF (field 15 0 chal.toNat) = true →
        ∃ t, exec (.wdtChallengeQueue k src chal) s = .next t ∧ (∀ j, j ≠ k → t.dev.wd j = s.dev.wd j) ∧
          t.dev.wd k = if (s.dev.wd k).queue.length < 4 then { s.dev.wd k with queue := (s.dev.wd k).queue ++ [chal] } else s.dev.wd k)) ∧
  (∀ (s : State) (k : Fin 9) (dt : Nat), s.dev.live = true →
      (s.dev.wdtHolding k = true → (s.dev.wd k).hold + dt < s.dev.wdtHoldTicks k →
        ∃ t, exec (.wdtHoldElapsed ⟨k, dt⟩) s = .next t ∧ t.dev.wd k = { s.dev.wd k with hold := (s.dev.wd k).hold + dt } ∧ ∀ j, j ≠ k → t.dev.wd j = s.dev.wd j) ∧
      (s.dev.wdtHolding k = true → (s.dev.wd k).hold + dt = s.dev.wdtHoldTicks k →
        ∃ t, exec (.wdtHoldElapsed ⟨k, dt⟩) s = .next t ∧ (∀ j, j ≠ k → t.dev.wd j = s.dev.wd j) ∧ (t.dev.wd k).prev = .tripped ∧
          (bit (s.dev.wdtReg k 0x044) 30 = true ∨ (s.dev.wd k).armlatch = true → (t.dev.wd k).st = .run ∧ WindowBegins s.dev t.dev k 0) ∧
          (bit (s.dev.wdtReg k 0x044) 30 = false → (s.dev.wd k).armlatch = false → (t.dev.wd k).st = .disarmed)) ∧
      (s.dev.wdtHolding k = false → exec (.wdtHoldElapsed ⟨k, dt⟩) s = .next s)) ∧
  (∀ (s : State) (k : Fin 9) (src : Source) (dt : Nat),
      (s.dev.wdtCalm k dt →
        let x := s.dev.wdtNow k dt
        (∀ task : BitVec 16, s.dev.takes src (pageAddr (wdtPage k) 0x058) 0xFFFFFFFF (field 15 0 task.toNat) = true → ∃ t, exec (.wdtCheckin k src dt task) s = .next t ∧
          (x.st.armed = false → t.dev.wd k = x) ∧
          (x.st.armed = true → x.anyService = true → x.served = true → WindowExpires s.dev t.dev k 3) ∧
          (x.st = .run → x.anyService = true → x.served = false →
            (x.openTick ≤ x.tick → t.dev.wd k = { x with served := true }) ∧ (x.tick < x.openTick → WindowExpires s.dev t.dev k 2)) ∧
          (x.st = .warn → x.anyService = true → x.served = false → t.dev.wd k = { x with served := true, warns := satInc 255 x.warns, prev := .warn, st := .run }) ∧
          (x.st.armed = true → x.anyService = false →
            let y := { x with done := x.done ||| (task &&& x.tasks), dup := x.dup || (task &&& x.tasks &&& x.done) != 0 }
            (y.complete = false ∨ x.complete = true → t.dev.wd k = y) ∧
            (y.complete = true → x.complete = false → x.st = .run → x.openTick ≤ x.tick → t.dev.wd k = { y with served := true }))) ∧
        (∀ token : BitVec 16, s.dev.takes src (pageAddr (wdtPage k) 0x060) 0xFFFFFFFF (field 15 0 token.toNat) = true → ∃ t, exec (.wdtAnswer k src dt token) s = .next t ∧
          (x.st.armed = false ∨ x.chalEn = false → t.dev.wd k = x) ∧
          (x.st.armed = true → x.chalEn = true → x.answered = true → WindowExpires s.dev t.dev k 5) ∧
          (x.st.armed = true → x.chalEn = true → x.answered = false →
            (token ≠ wdtToken x.chal x.seed x.wcnt → WindowExpires s.dev t.dev k 4) ∧
            (token = wdtToken x.chal x.seed x.wcnt → x.tasks &&& ~~~x.done ≠ 0 → t.dev.wd k = { x with answered := true }) ∧
            (token = wdtToken x.chal x.seed x.wcnt → x.tasks &&& ~~~x.done = 0 → x.st = .run → x.openTick ≤ x.tick → t.dev.wd k = { x with answered := true, served := true })))) ∧
      (s.dev.live = true →
        (s.dev.wdtCalm k dt → ∃ t, exec (.wdtWindowLate k dt) s = .next t ∧ t.dev.wd k = s.dev.wdtNow k dt) ∧
        ((s.dev.wd k).st.armed = true → s.dev.boot.up.ao = true → (s.dev.wd k).served = false → (s.dev.wd k).tick ≤ (s.dev.wd k).close → dt = (s.dev.wd k).close + 1 - (s.dev.wd k).tick →
          ∃ t, exec (.wdtWindowLate k dt) s = .next t ∧ WindowExpires s.dev t.dev k 1)))

/-- An arrival and the selection of a FAB cycle complete (R545, R546, R548 to R550, R553 to R556, R560): the arrival sets PEND, the count, the timestamp
and the payload; a selection for one target writes a record, advances WR and SEQ of the target, and takes the source into service; one of a broadcast
to rings on chip advances them for each target named that takes the copy, sets LOST for the others, and ends the source's pending; a translation fault is recorded
against the target, and the source is not taken into service; where nothing can be selected, nothing happens. The commands of the targets and
EVC_RAISE complete (R547, R551, R556, R562, R563, R567): EOI ends the service of its source by its holder; a write of RD moves it over records that
the ring holds; ENABLE begins an empty ring or is refused; its end releases what the target held.
Clauses that go beyond the rules named rest on the model's choices in log entries 50, 91, 92 and 137. -/
def Obligations.EventCommandsComplete : Prop :=
  (∀ (s : State) (e : Fin 256) payload, s.dev.live = true →
      ∃ t, exec (.eventArrival e payload) s = .next t ∧
        (s.dev.srcPrio e = 0 → t = s) ∧
        (s.dev.srcPrio e ≠ 0 → t.dev.evc.tgt = s.dev.evc.tgt ∧ (∀ j, j ≠ e → t.dev.evc.src[j] = s.dev.evc.src[j]) ∧
          t.dev.evc.src[e] = { s.dev.evc.src[e] with pend := true, count := satInc 255 s.dev.evc.src[e].count, ts := s.dev.ts, payload := payload } ∧
          (t.dev.head (pg evcPage)).cur = t.dev.evcCode)) ∧
  (∀ s : State, s.dev.live = true →
      ∃ t, exec .eventSelect s = .next t ∧
        (s.dev.evcRuns = false ∨ s.dev.selectedSource = none → t = s) ∧
        ∀ (e : Fin 256) (g : Fin 9), s.dev.evcRuns = true → s.dev.selectedSource = some e → s.dev.selectedTarget e = some g →
          (s.dev.isBcast e = false → s.dev.evMeetsFault g = false →
            t.dev.evc.src[e].pend = false ∧ t.dev.evc.src[e].count = 0 ∧ t.dev.evc.src[e].insvc = true ∧ t.dev.evc.src[e].holder = some g ∧
            t.dev.tg g = { s.dev.tg g with wr := ((s.dev.tg g).wr + 1) % 65536, seq := ((s.dev.tg g).seq + 1) % 65536, lost := false } ∧ (∀ j, j ≠ g → t.dev.tg j = s.dev.tg j) ∧
            (s.dev.tgLoc g = true → s.dev.canonical = true → ∀ i : Fin 4, t.dev.ramWord (ringSlot g ((s.dev.tg g).wr % 32) + 4 * i.val) = (s.dev.evRecord e g false)[i])) ∧
          (s.dev.isBcast e = true → (∀ j ∈ s.dev.bcastTargets e, s.dev.tgLoc j = true) → t.dev.evc.src[e].pend = false ∧ t.dev.evc.src[e].count = 0 ∧
            ∀ j, t.dev.tg j = if j ∈ s.dev.bcastTargets e then
                (if s.dev.copyDrops j then { s.dev.tg j with lost := true } else
                  { s.dev.tg j with wr := ((s.dev.tg j).wr + 1) % 65536, seq := ((s.dev.tg j).seq + 1) % 65536, lost := false })
              else s.dev.tg j) ∧
          (s.dev.isBcast e = false → s.dev.evMeetsFault g = true → t = s)) ∧
  (∀ s : State, s.dev.live = true →
      ∃ t, exec .eventRecordFault s = .next t ∧
        (s.dev.evcRuns = false ∨ s.dev.selectedSource = none → t = s) ∧
        ∀ (e : Fin 256) (g : Fin 9), s.dev.evcRuns = true → s.dev.selectedSource = some e → s.dev.selectedTarget e = some g →
          (s.dev.isBcast e = false → s.dev.evMeetsFault g = true →
            t.dev.evc.tgt = (s.dev.updTg g fun x => { x with wfault := true }).evc.tgt ∧ bit (t.dev.head (pg evcPage)).err 10 = true ∧ t.dev.evc.src[e].insvc = s.dev.evc.src[e].insvc) ∧
          (s.dev.selectionFaults e g = false → t = s)) ∧
  (∀ (s : State) (g : Fin 9) (src : Source),
      (∀ e : BitVec 8, s.dev.takes src (tgtAddr g 0x18) 0xFFFFFFFF (field 7 0 e.toNat) = true →
        let d := s.dev.arrive src (tgtAddr g 0x18)
        let x := d.evc.src[Fin.ofNat 256 e.toNat]
        ∃ t, exec (.eventEoi g src e) s = .next t ∧ t.dev.evc.tgt = s.dev.evc.tgt ∧
          (x.insvc = true → x.holder = some g → t.dev.evc.src = upd d.evc.src (Fin.ofNat 256 e.toNat) fun y => { y with insvc := false, holder := none }) ∧
          (x.insvc = false ∨ x.holder ≠ some g → t.dev.evc.src = d.evc.src ∧ bit (t.dev.head (pg evcPage)).err 9 = true)) ∧
      (∀ rd : BitVec 16, s.dev.takes src (tgtAddr g 0x0C) 0xFFFFFFFF (field 15 0 rd.toNat) = true →
        let ok := (rd.toNat + 65536 - (s.dev.tg g).rd) % 65536 ≤ (s.dev.tg g).held
        ∃ t, exec (.eventRingRdWrite g src rd) s = .next t ∧ (∀ j, j ≠ g → t.dev.tg j = s.dev.tg j) ∧
          (ok → t.dev.tg g = { s.dev.tg g with rd := rd.toNat }) ∧ (¬ ok → t.dev.tg g = s.dev.tg g ∧ bit (t.dev.head (pg evcPage)).err 8 = true)) ∧
      (s.dev.takes src (tgtAddr g 0) 0xFFFFFFFF (setBit (s.dev.tctl g) 0 true) = true → s.dev.canonical = true →
        let ok := s.dev.tgLoc g = true ∨ (isHost (s.dev.tgBase g) = true ∧ s.dev.tgBase g % (16 * s.dev.tgN g) = 0)
        ∃ t, exec (.eventTargetEnable g src) s = .next t ∧ (∀ j, j ≠ g → t.dev.tg j = s.dev.tg j) ∧
          (s.dev.tgEnabled g = true → t.dev.tgEnabled g = true ∧ t.dev.tg g = s.dev.tg g) ∧
          (s.dev.tgEnabled g = false → ok → t.dev.tgEnabled g = true ∧ t.dev.tg g = { s.dev.tg g with wr := 0, rd := 0, seq := 0, lost := false }) ∧
          (s.dev.tgEnabled g = false → ¬ ok → t.dev.tctl g = s.dev.tctl g ∧ t.dev.tg g = s.dev.tg g ∧ bit (t.dev.head (pg evcPage)).err 8 = true)) ∧
      (s.dev.takes src (tgtAddr g 0) 0xFFFFFFFF (setBit (s.dev.tctl g) 0 false) = true → s.dev.canonical = true →
        let d := s.dev.arrive src (tgtAddr g 0)
        ∃ t, exec (.eventTargetDisable g src) s = .next t ∧ t.dev.tgEnabled g = false ∧ t.dev.evc.tgt = s.dev.evc.tgt ∧
          (s.dev.tgEnabled g = false → t.dev.evc.src = d.evc.src) ∧
          (s.dev.tgEnabled g = true → ∀ e : Fin 256, t.dev.evc.src[e] = if d.evc.src[e].insvc && d.evc.src[e].holder == some g then { d.evc.src[e] with insvc := false, holder := none } else d.evc.src[e])) ∧
      (∀ (n : Fin 2) data, s.dev.takes src (pageAddr evcPage (0x080 + 4 * n.val)) 0xFFFFFFFF data = true →
        let d := s.dev.arrive src (pageAddr evcPage (0x080 + 4 * n.val))
        let i : Fin 256 := ⟨6 + n.val, by omega⟩
        ∃ t, exec (.evcRaise src n data) s = .next t ∧
          (s.dev.srcPrio i = 0 → t.dev.evc = d.evc) ∧
          (s.dev.srcPrio i ≠ 0 → t.dev.evc.src = upd d.evc.src i fun y => { y with pend := true, count := satInc 255 y.count, ts := s.dev.ts, payload := data })))

/-- The commands of a ring complete (R569, R576, R577, R590, R591, R595): a doorbell starts a fetch from IDLE; PAUSE drains what is in progress, or
pauses; RESUME clears its causes and runs; ENABLE runs a disabled ring or is refused, and its end disables the ring.
Clauses that go beyond the rules named rest on the model's choices in log entries 93, 136 and 139. -/
def Obligations.RingCommandsComplete : Prop :=
  ∀ (s : State) (r : Fin 32) (src : Source),
    let x := s.dev.rg r
    let who := (s.dev.requester src).code
    (s.dev.takes src (pageAddr (ringPage r) 0x04C) 0xFFFFFFFF 1 = true → ∃ t, exec (.ringDoorbell src r) s = .next t ∧
      (x.st = .idle → RingIs s.dev t.dev r x.fetching) ∧ (x.st ≠ .idle → RingIs s.dev t.dev r { x with db := true })) ∧
    (s.dev.takes src (pageAddr (ringPage r) 0x050) 0xFFFFFFFF 2 = true → ∃ t, exec (.ringPause src r) s = .next t ∧ (x.srst = false → (t.dev.rg r).sw = true) ∧
      (∀ j, j ≠ r → t.dev.rg j = s.dev.rg j) ∧
      (x.st = .draining ∨ (x.st = .disabled ∧ x.srst = false) → (t.dev.rg r).st = x.st) ∧
      (x.st ≠ .draining → x.st ≠ .disabled → x.busy = true → (t.dev.rg r).st = .draining ∧ (t.dev.rg r).prev = x.st) ∧
      (x.st = .idle ∨ x.st = .active ∨ x.st = .waitreq → x.busy = false → s.dev.ringPlain r → (t.dev.rg r).st = x.pauseState ∧ (t.dev.rg r).prev = x.st)) ∧
    (s.dev.takes src (pageAddr (ringPage r) 0x050) 0xFFFFFFFF 1 = true → ∃ t, exec (.ringResume src r) s = .next t ∧ (∀ j, j ≠ r → t.dev.rg j = s.dev.rg j) ∧
      (x.st.isPaused = true → x.host = false → t.dev.rg r = { x with sw := false, fault := false, err := false, lease := false, xctx := who }.fetching) ∧
      (x.st.isPaused = true → x.host = true → (t.dev.rg r).st = .paused ∧ (t.dev.rg r).caused = true ∧ (t.dev.rg r).sw = false ∧ (t.dev.rg r).lease = false ∧ (t.dev.rg r).xctx = who) ∧
      (x.st = .draining → t.dev.rg r = { x with latch := some (.resume who) }) ∧
      (x.st.isPaused = false → x.st ≠ .draining → t.dev.rg r = x)) ∧
    (∀ on, s.dev.takesHead src (ringPage r) 0x008 (setBit (s.dev.ctlWord (pg (ringPage r))) 0 on) = true →
      ∃ t, exec (.ringEnable src r on) s = .next t ∧ (∀ j, j ≠ r → t.dev.rg j = s.dev.rg j) ∧
        (on = true → s.dev.ringEnabled r = false →
          (s.dev.ringEnableBad r = true → t.dev.ringEnabled r = false ∧ t.dev.rg r = x ∧ bit (t.dev.head (pg (ringPage r))).err 8 = true) ∧
          (s.dev.ringEnableBad r = false → t.dev.ringEnabled r = true ∧ (x.st = .disabled →
            let y := { x with xctx := who, host := !s.dev.pcieMayIssue && s.dev.ringNeedsHost r }
            (y.caused = false → t.dev.rg r = y.fetching) ∧ (y.caused = true → (t.dev.rg r).st = y.pauseState ∧ (t.dev.rg r).prev = .disabled)))) ∧
        (on = false → s.dev.ringEnabled r = true → t.dev.ringEnabled r = false ∧
          (x.st = .idle → x.busy = false → x.srst = false → (t.dev.rg r).st = .disabled ∧ (t.dev.rg r).prev = .idle) ∧
          (x.st ≠ .draining → x.st ≠ .disabled → x.busy = true → (t.dev.rg r).st = .draining)))

/-- The engine's own events complete (R575, R580, R585, R587, R591, R592, R605): a descriptor read that returns; the burst that the arbiter starts; the
end of a burst between host addresses; an error of a host read.
Clauses that go beyond the rules named rest on the model's choices in log entries 50, 93, 94 and 136. -/
def Obligations.DmaEventsComplete : Prop :=
  ∀ (s : State) (r : Fin 32), s.dev.live = true →
    let x := s.dev.rg r
    (∀ host,
      (x.reading = false → exec (.descriptorFetch r host) s = .next s) ∧
      (x.reading = true → x.st ≠ .draining → s.dev.ringLoc r = true →
        let w : Vector Word 8 := Vector.ofFn fun i => s.dev.ramWord (s.dev.descAddr r x.head + 4 * i.val)
        let y := { x with reading := false, desc := w, fence := s.dev.burstMap }
        ∃ t, exec (.descriptorFetch r host) s = .next t ∧ (∀ j, j ≠ r → t.dev.rg j = s.dev.rg j) ∧
          (bit w[0] 31 = false → x.db = false → t.dev.rg r = { y with offset := 0, prev := x.st, st := .idle, work := false }) ∧
          (bit w[0] 31 = false → x.db = true → t.dev.rg r = { y with offset := 0 }.fetching) ∧
          (bit w[0] 31 = true → y.type = 0 → x.offset < y.length → s.dev.pcieMayIssue = true → x.host = false →
            t.dev.rg r = { y with prev := x.st, st := .active, work := true }) ∧
          (bit w[0] 31 = true → y.type ≠ 0 → y.type ≠ 1 → y.type ≠ 0x1F → (t.dev.rg r).err = true ∧ (t.dev.rg r).res = 5 ∧ (t.dev.rg r).lastRes = 5 ∧
            (t.dev.rg r).st = if x.fault then .pausedFault else .pausedErr))) ∧
    (let d := s.dev.sampleRequests;
      (bit (s.dev.head (pg 0x070)).ctl 0 = false ∨ 8 ≤ s.dev.burstCount → exec .burstStart s = .next s) ∧
      (bit (s.dev.head (pg 0x070)).ctl 0 = true → s.dev.burstCount < 8 →
        (d.arbitrate = none → exec .burstStart s = .next { s with dev := d }) ∧
        (d.arbitrate = some r → ∃ t, exec .burstStart s = .next t ∧ RingIs d t.dev r ((d.rg r).begin (bits (d.rcfg r) 8 0) (d.burstPlan r)) ∧
          t.dev.dma.lastStart = d.dma.lastStart.set (bits (d.rcfg r) 31 30) r.val (by unfold bits; omega)))) ∧
    (∀ moved data,
      (x.burst = none → exec (.burstComplete r moved data) s = .next s) ∧
      (∀ b h, x.burst = some b → b.dstHost = some h → b.fault = none → x.isStream = false → 0x1000000 ≤ x.src + x.offset → b.limit ≤ data.length → 0 < b.limit →
        s.dev.pcieMayIssue = true → x.st = .active → x.caused = false → x.srst = false → x.offset + b.limit < x.length →
        ∃ t, exec (.burstComplete r moved data) s = .next t ∧ (t.dev.rg r).burst = none ∧ (t.dev.rg r).offset = x.offset + b.limit ∧ (t.dev.rg r).st = .active ∧
          .hostWrite h (data.take b.limit) ∈ t.dev.out)) ∧
    (∀ moved data,
      (x.burst = none → x.reading = false ∨ s.dev.ringLoc r = true → exec (.hostErr r moved data) s = .next s) ∧
      (x.burst = none → x.reading = true → x.st = .fetch → x.work = false → x.fault = false → s.dev.ringPlain r → s.dev.ringLoc r = false →
        ∃ t, exec (.hostErr r moved data) s = .next t ∧ RingIs s.dev t.dev r { x with reading := false, err := true, res := 4, prev := .fetch, st := .pausedErr } ∧
          bit (t.dev.head (pg (ringPage r))).err 10 = true ∧ bit (t.dev.head (pg 0x070)).err 9 = true))

/-- The window table's commands complete (R601, R602, R604): word 1 is held for its requester until word 0 is written, which stores both, by an
administrator or the context that the entry names; XLT_SYNC waits for the bursts in progress and ends once none of them is left.
Clauses that go beyond the rules named rest on the model's choices in log entry 136. -/
def Obligations.WindowCommandsComplete : Prop :=
  ∀ (s : State) (src : Source),
    (∀ (e : Fin 1024) data,
      let who : Fin 16 := Fin.ofNat 16 (s.dev.requester src).code
      let i := 1024 * b2n s.dev.dma.xlt.bank[who] + e.val
      let admin := s.dev.isAdmin (s.dev.requester src)
      let mine := admin || !bit (s.dev.reg (xltAddr i 0)) 15 || bits (s.dev.reg (xltAddr i 0)) 12 10 == (s.dev.requester src).code
      (s.dev.takes src (0x110000 + 8 * e.val + 4) 0xFFFFFFFF data = true → ∃ t, exec (.windowEntryWrite src e true data) s = .next t ∧ t.dev.regs = s.dev.regs ∧
        (mine = true → t.dev.dma = { s.dev.dma with xlt := { s.dev.dma.xlt with held := s.dev.dma.xlt.held.set who (some data) } }) ∧
        (mine = false → t.dev.dma = s.dev.dma ∧ bit (t.dev.head (pg 0x0A0)).err 1 = true)) ∧
      (s.dev.takes src (0x110000 + 8 * e.val) 0xFFFFFFFF data = true → s.dev.canonical = true → ∃ t, exec (.windowEntryWrite src e false data) s = .next t ∧
        (s.dev.windowMay i (s.dev.requester src).code admin data = true →
          t.dev.dma = { s.dev.dma with xlt := { s.dev.dma.xlt with held := s.dev.dma.xlt.held.set who none } } ∧ t.dev.reg (xltAddr i 0) = data ∧
          t.dev.reg (xltAddr i 1) = s.dev.dma.xlt.held[who].getD (s.dev.reg (xltAddr i 1)) ∧ ∀ a, a ≠ xltAddr i 0 → a ≠ xltAddr i 1 → t.dev.reg a = s.dev.reg a) ∧
        (s.dev.windowMay i (s.dev.requester src).code admin data = false → t.dev.dma = s.dev.dma ∧ t.dev.regs = s.dev.regs ∧ bit (t.dev.head (pg 0x0A0)).err 1 = true))) ∧
    (s.dev.takes src 0x0A0044 0xFFFFFFFF 1 = true → ∃ t, exec (.xltSync src) s = .next t ∧
      t.dev.dma = { s.dev.dma with xlt := { s.dev.dma.xlt with sync := some (s.dev.dma.xlt.sync.getD 0 ||| s.dev.burstMap) } } ∧ (t.dev.head (pg 0x0A0)).cur = 1) ∧
    (s.dev.live = true →
      (s.dev.dma.xlt.sync = some 0 → ∃ t, exec .xltSyncComplete s = .next t ∧ t.dev.dma = { s.dev.dma with xlt := { s.dev.dma.xlt with sync := none } } ∧ (t.dev.head (pg 0x0A0)).cur = 0) ∧
      (s.dev.dma.xlt.sync ≠ some 0 → exec .xltSyncComplete s = .next s))

/-- The telemetry commands complete (R613, R615, R620 to R624): a window that ends, which it does where the timestamp has just reached one of its multiples,
refreshes the averages and the peaks of the windows that TLM_RWIN selects and appends one record per selected loop or phase to the channels of its code; a channel's registers take what R624 allows; a clearing read of a peak
leaves its cleared value, and a read of SYN_TS_LO latches the upper half for its reader.
Clauses that go beyond the rules named rest on the model's choices in log entries 95, 96, 97 and 140. -/
def Obligations.TelemetryCommandsComplete : Prop :=
  ∀ s : State,
    (s.dev.hupRuns = true → ∀ x : WindowSamples, ∃ t, exec (.telemetryWindowEnd x) s = .next t ∧
      (s.dev.windowDue x.code.val = false → t = s) ∧
      (s.dev.windowDue x.code.val = true → let w := s.dev.windowOf x
        (∀ n : Fin 16, bits (s.dev.reg 0x0B0040) 4 0 = w.code.val → t.dev.tlm.lavg[n] = (field 31 16 (sat16 w.loops[n].iAvg) ||| field 15 0 (sat16 w.loops[n].vAvg)) ∧
          t.dev.tlm.lpeak[n] = (field 31 16 (min (bits s.dev.tlm.lpeak[n] 31 16) (sat16 w.loops[n].vMin)) ||| field 15 0 (max (bits s.dev.tlm.lpeak[n] 15 0) (sat16 w.loops[n].vMax))) ∧
          t.dev.tlm.lipeak[n] = field 15 0 (max (bits s.dev.tlm.lipeak[n] 15 0) (sat16 w.loops[n].iMax))) ∧
        (bits (s.dev.reg 0x0B0040) 4 0 ≠ w.code.val → t.dev.tlm.lavg = s.dev.tlm.lavg ∧ t.dev.tlm.lpeak = s.dev.tlm.lpeak ∧ t.dev.tlm.lipeak = s.dev.tlm.lipeak) ∧
        (bits (s.dev.reg 0x0B0040) 12 8 ≠ w.code.val → t.dev.tlm.pavg = s.dev.tlm.pavg ∧ t.dev.tlm.ppeak = s.dev.tlm.ppeak) ∧
        (∀ c : Fin 8, bit (s.dev.schCfg c) 31 = false ∨ bits (s.dev.schCfg c) 20 16 ≠ w.code.val → t.dev.tlm.sch[c] = s.dev.tlm.sch[c]) ∧
        (∀ c : Fin 8, bit (s.dev.schCfg c) 31 = true → bits (s.dev.schCfg c) 20 16 = w.code.val → bit (s.dev.schCfg c) 30 = false →
          ∀ n : Fin 16, (∀ j : Fin 16, bit (s.dev.schMask c false) j.val = decide (j = n)) → s.dev.tlm.sch[c].fifo.length + 32 ≤ 2048 →
            t.dev.tlm.sch[c] = { s.dev.tlm.sch[c] with
              fifo := s.dev.tlm.sch[c].fifo ++ recordBytes (s.dev.loopRecord n w s.dev.tlm.sch[c].seq s.dev.tlm.sch[c].gap), seq := (s.dev.tlm.sch[c].seq + 1) % 65536, gap := false }))) ∧
    (∀ (src : Source) (c : Fin 8) (word : Fin 3) be data, alignedBe be = true → s.dev.canonical = true →
      let o := 0x080 + 0x10 * c.val + 4 * word.val
      let v := s.dev.newWord tlmPage o (byteMask be) data
      let old := s.dev.schCfg c
      s.dev.takes src (pageAddr tlmPage o) (byteMask be) data = true → ∃ t, exec (.streamChannelConfig src c word be data) s = .next t ∧
        (∀ a, a ≠ pageAddr tlmPage o → t.dev.reg a = s.dev.reg a) ∧ (∀ j, j ≠ c → t.dev.tlm.sch[j] = s.dev.tlm.sch[j]) ∧
        ((word.val = 0 ∧ (18 < bits v 20 16 ∨ (bit old 31 = true ∧ (bit v 30 ≠ bit old 30 ∨ bits v 20 16 ≠ bits old 20 16)))) ∨ (word.val ≠ 0 ∧ bit old 31 = true) →
          t.dev.reg (pageAddr tlmPage o) = s.dev.reg (pageAddr tlmPage o) ∧ t.dev.tlm.sch[c] = s.dev.tlm.sch[c] ∧ bit (t.dev.head (pg tlmPage)).err 8 = true) ∧
        (word.val = 0 → bits v 20 16 ≤ 18 → (bit old 31 = true → bit v 30 = bit old 30 ∧ bits v 20 16 = bits old 20 16) → t.dev.reg (pageAddr tlmPage o) = v ∧
          (bit old 31 = true → bit v 31 = false → t.dev.tlm.sch[c].seq = 0 ∧ t.dev.tlm.sch[c].fifo = s.dev.tlm.sch[c].fifo.take (s.dev.schReserved c)) ∧
          (bit old 31 = false ∨ bit v 31 = true → t.dev.tlm.sch[c] = s.dev.tlm.sch[c])) ∧
        (word.val ≠ 0 → bit old 31 = false → t.dev.reg (pageAddr tlmPage o) = v ∧ t.dev.tlm.sch[c] = s.dev.tlm.sch[c])) ∧
    (∀ (src : Source) reg, s.dev.gets src (peakAddr reg) = true → ∃ t, exec (.peakRegisterRead src reg) s = .next t ∧
      t.dev.tlm = match reg with
        | .lpeak n => { s.dev.tlm with lpeak := s.dev.tlm.lpeak.set n lpeakClear }
        | .lipeak n => { s.dev.tlm with lipeak := s.dev.tlm.lipeak.set n 0 }
        | .ppeak k => { s.dev.tlm with ppeak := s.dev.tlm.ppeak.set k ppeakClear }) ∧
    (∀ src : Source, s.dev.gets src 0x0C4060 = true → ∃ t, exec (.timestampRead src) s = .next t ∧
      t.dev.syn = { s.dev.syn with tsBuf := s.dev.syn.tsBuf.set (Fin.ofNat 16 (s.dev.requester src).code) (BitVec.ofNat 32 (s.dev.ts / 4294967296)) })

/-- The commands of the rushes complete (R625 to R628): a trigger that is enabled while they record writes a marker, keeps its place and counts POST
records down; after the last they freeze and event 122 arrives; REARM begins again. The commands of the dailies complete (R629 to R632): the end of a
period closes its accumulations and clears them, merging a period that the core has not written; the core's writing of a closed period numbers one
record per selected loop and one of the device.
Clauses that go beyond the rules named rest on the model's choices in log entries 96, 97, 98, 99 and 140. -/
def Obligations.RushesAndDailyCommandsComplete : Prop :=
  (∀ s : State,
      (s.dev.hupRuns = true → ∀ cause : RushCause, (∀ src, cause ≠ .freeze src) →
        let c := s.dev.rushEnabled cause = true ∧ s.dev.rushOn = true ∧ s.dev.tlm.rush.st = .recording
        ∃ t, exec (.rushesTrigger cause) s = .next t ∧ (¬ c → t = s) ∧
          (c → t.dev.tlm.rush.st = .triggered ∧ t.dev.tlm.rush.mark = s.dev.tlm.rush.next ∧ t.dev.tlm.rush.next = (s.dev.tlm.rush.next + 1) % 8192 ∧
          t.dev.tlm.rush.left = bits (s.dev.reg 0x0B1044) 12 0 ∧ t.dev.tlm.sch = s.dev.tlm.sch ∧ (t.dev.head (pg rushPage)).cur = 2)) ∧
      (∀ src : Source, s.dev.takes src (pageAddr rushPage 0x054) 0xFFFFFFFF 1 = true → ∃ t, exec (.rushesTrigger (.freeze src)) s = .next t ∧
        (s.dev.rushOn = true → s.dev.tlm.rush.st = .recording → t.dev.tlm.rush.st = .triggered ∧ t.dev.tlm.rush.mark = s.dev.tlm.rush.next) ∧
        (s.dev.rushOn = false ∨ s.dev.tlm.rush.st ≠ .recording → t.dev.tlm = s.dev.tlm)) ∧
      (s.dev.live = true →
        let c := s.dev.tlm.rush.st = .triggered ∧ s.dev.tlm.rush.left = 0
        ∃ t, exec .rushesFrozen s = .next t ∧ (¬ c → t = s) ∧
          (c → t.dev.tlm = { s.dev.tlm with rush := { s.dev.tlm.rush with st := .frozen } } ∧
            (t.dev.head (pg rushPage)).cur = (if s.dev.rushOn then 3 else 0) ∧ (s.dev.srcPrio 122 ≠ 0 → t.dev.evc.src[(122 : Fin 256)].pend = true ∧ t.dev.evc.src[(122 : Fin 256)].payload = field 12 0 s.dev.tlm.rush.mark))) ∧
      (∀ src : Source, s.dev.takes src (pageAddr rushPage 0x054) 0xFFFFFFFF 2 = true → ∃ t, exec (.rushesRearm src) s = .next t ∧
        (s.dev.tlm.rush.st = .frozen → t.dev.tlm = { s.dev.tlm with rush := { s.dev.tlm.rush with st := .recording, wrapped := false, mark := 0, used := 0 } }) ∧
        (s.dev.tlm.rush.st ≠ .frozen → t.dev.tlm = s.dev.tlm))) ∧
  (∀ s : State,
      (s.dev.hupRuns = true → ∀ meas batt, ∃ t, exec (.dailyPeriodEnd meas batt) s = .next t ∧
        (s.dev.dayDue = false → t = s) ∧
        (s.dev.dayDue = true → t.dev.tlm.dailyLoop = Vector.replicate 16 dailyLoop0 ∧ t.dev.tlm.dailyDev = dailyDev0 ∧
          (s.dev.tlm.closed = none → t.dev.tlm.closed = some { ts := s.dev.ts, periods := 1, meas := meas, loops := s.dev.tlm.dailyLoop, dev := s.dev.tlm.dailyDev, battSecs := batt } ∧ t.dev.tlm.dLate = s.dev.tlm.dLate) ∧
          (∀ o, s.dev.tlm.closed = some o → (∃ c, t.dev.tlm.closed = some c ∧ c.ts = s.dev.ts ∧ c.periods = satInc 255 o.periods ∧ c.dev = mergeDev o.dev s.dev.tlm.dailyDev ∧
            c.battSecs = min 0xFFFFFFFF (o.battSecs + batt) ∧ ∀ n : Fin 16, c.loops[n] = mergeLoop o.loops[n] s.dev.tlm.dailyLoop[n] ∧ c.meas[n] = mergeMeas o.periods o.meas[n] meas[n]) ∧
            t.dev.tlm.dLate = satInc 255 s.dev.tlm.dLate ∧ bit (t.dev.head (pg rushPage)).err 9 = true))) ∧
      (s.dev.live = true → ∃ t, exec .dailyRecordWrite s = .next t ∧
        (s.dev.tlm.closed = none ∨ s.dev.boot.coreUp = false → t = s) ∧
        (∀ c, s.dev.tlm.closed = some c → s.dev.boot.coreUp = true → t.dev.tlm.closed = none ∧
          let k := ((List.finRange 16).filter fun n => bit (s.dev.reg 0x0B1084) n.val).length + 1
          t.dev.tlm.dSeq % 65536 = (s.dev.tlm.dSeq + k) % 65536 ∧ t.dev.tlm.dNext % 32 = (s.dev.tlm.dNext + k) % 32 ∧ t.dev.tlm.dailyLoop = s.dev.tlm.dailyLoop ∧ t.dev.tlm.rush = s.dev.tlm.rush)))

/-- The commands of the performance counters complete (R635, R636): a running counter at its last value wraps to 0 and sets its OVF bit, unless it is the
lower half of a pair; a read of the low word keeps the high word for its reader; a write of a stopped counter takes the bytes written, and of an
enabled one is refused.
Clauses that go beyond the rules named rest on the model's choices in log entries 35 and 101. -/
def Obligations.PmcCommandsComplete : Prop :=
  ∀ (s : State) (c : Fin 64),
    (s.dev.live = true → ∃ t, exec (.pmcCounterWrap c) s = .next t ∧
      let wraps := s.dev.pmcRun = true ∧ bit (s.dev.pmcSel c) 31 = true ∧ s.dev.pmc.ctr[c] = 0xFFFFFFFFFFFF
      (¬ wraps → t = s) ∧
      (wraps → t.dev.pmc.ctr[c] = 0 ∧
        (s.dev.pmcChained c = none → (∀ j, j ≠ c → t.dev.pmc.ctr[j] = s.dev.pmc.ctr[j]) ∧ t.dev.pmc.ovf = s.dev.pmc.ovf ||| BitVec.ofNat 64 (2 ^ c.val)) ∧
        (∀ c2, s.dev.pmcChained c = some c2 → bit (s.dev.pmcSel c2) 31 = true → s.dev.pmc.ctr[c2] < 0xFFFFFFFFFFFF → t.dev.pmc.ctr[c2] = s.dev.pmc.ctr[c2] + 1 ∧ t.dev.pmc.ovf = s.dev.pmc.ovf))) ∧
    (∀ src : Source, s.dev.gets src (pageAddr pmcPage (0x200 + 8 * c.val)) = true →
      let d := s.dev.arrive src (pageAddr pmcPage (0x200 + 8 * c.val))
      let who := (s.dev.requester src).code
      ∃ t, exec (.pmcCounterRead src c) s = .next t ∧ t.dev.pmc.ctr = d.pmc.ctr ∧
        ((∀ b, d.pmc.buf[Fin.ofNat 16 who] = some b → b.ctr = c.val ∨ b.ctr + 1 ≠ c.val) → t.dev.pmc.buf[Fin.ofNat 16 who] = some { ctr := c.val, hi := d.pmcWord c true, pair := (d.pmcChained c).map fun c2 => (d.pmcWord c2 false, d.pmcWord c2 true) }) ∧
        ∀ j : Fin 16, j ≠ Fin.ofNat 16 who → t.dev.pmc.buf[j] = d.pmc.buf[j]) ∧
    (∀ (src : Source) hi be data, alignedBe be = true → s.dev.takes src (pageAddr pmcPage (0x200 + 8 * c.val + 4 * b2n hi)) (byteMask be) data = true →
      let d := s.dev.arrive src (pageAddr pmcPage (0x200 + 8 * c.val + 4 * b2n hi))
      ∃ t, exec (.pmcCounterWrite src c hi be data) s = .next t ∧
        (bit (s.dev.pmcSel c) 31 = true → t.dev.pmc = d.pmc ∧ bit (t.dev.head (pg pmcPage)).err 8 = true) ∧
        (bit (s.dev.pmcSel c) 31 = false → (∀ j, j ≠ c → t.dev.pmc.ctr[j] = d.pmc.ctr[j]) ∧ t.dev.pmc.buf = d.pmc.buf ∧ t.dev.pmc.ovf = d.pmc.ovf ∧
          (hi = false → t.dev.pmcWord c false = mergeWord (d.pmcWord c false) data (byteMask be)) ∧ (hi = true → be = 0xF → bits (t.dev.pmcWord c true) 15 0 = bits data 15 0)))

/-- The commands of claps and slates complete (R641 to R644, R648): an edge captures; a commit shows the captured bank with its number and its gap, and
event 120 arrives; a code error drops it; a driven frame carries the next number; SNAP takes a local slate, or waits for the frame in progress. The
commands of the time code complete (R650 to R654): a frame within STEP_THR slews and one beyond it steps; the third near frame in ACQUIRE locks; a
missing frame in LOCKED is HOLDOVER; TIME_TX sends the timestamp.
Clauses that go beyond the rules named rest on the model's choices in log entries 100, 102 and 140. -/
def Obligations.ClapAndTimeCommandsComplete : Prop :=
  (∀ s : State,
      (s.dev.live = true →
        (∀ fine,
          (bit s.dev.synCfg 31 = false ∨ s.dev.syn.rxBusy = true → exec (.clapEdge fine) s = .next s) ∧
          (bit s.dev.synCfg 31 = true → s.dev.syn.rxBusy = false → ∃ t, exec (.clapEdge fine) s = .next t ∧
            t.dev.syn = { s.dev.syn with rxBusy := true, fine := fine.val, hidden := some s.dev.slateNow } ∧
            t.dev.tlm.dailyDev = (if s.dev.dayOn then { s.dev.tlm.dailyDev with claps := satInc 0xFFFF s.dev.tlm.dailyDev.claps } else s.dev.tlm.dailyDev) ∧
            (bit (s.dev.reg 0x0C0040) 1 = true → bit (s.dev.reg 0x0C0040) 2 = false → s.dev.canonical = true → t.dev.pmcRun = true) ∧
            (bit (s.dev.reg 0x0C0040) 1 = false → bit (s.dev.reg 0x0C0040) 2 = true → s.dev.canonical = true → t.dev.pmcRun = false) ∧
            (bit (s.dev.reg 0x0C0040) 1 = false → bit (s.dev.reg 0x0C0040) 2 = false → t.dev.regs = s.dev.regs))) ∧
        (∀ num : BitVec 16,
          (s.dev.syn.hidden = none ∨ s.dev.syn.rxBusy = false → exec (.clapCommit num) s = .next s) ∧
          (∀ b, s.dev.syn.hidden = some b → s.dev.syn.rxBusy = true → s.dev.syn.snapWait = false → ∃ t, exec (.clapCommit num) s = .next t ∧
            t.dev.syn.rxBusy = false ∧ t.dev.syn.hidden = none ∧ t.dev.syn.lastClap = num.toNat ∧ t.dev.syn.slates = s.dev.syn.slates + 1 ∧
            t.dev.syn.slate[(0 : Fin 328)] = (flag 31 true ||| flag 29 (s.dev.syn.slates != 0 && num.toNat != (s.dev.syn.lastClap + 1) % 65536) ||| field 15 0 num.toNat) ∧
            t.dev.syn.slate[(1 : Fin 328)] = (field 19 16 s.dev.syn.fine ||| field 15 0 ((s.dev.syn.slates + 1) % 65536)) ∧ (∀ i : Fin 328, 2 ≤ i.val → t.dev.syn.slate[i] = b[i]) ∧
            (s.dev.srcPrio 120 ≠ 0 → t.dev.evc.src[(120 : Fin 256)].pend = true ∧ t.dev.evc.src[(120 : Fin 256)].payload = field 15 0 num.toNat))) ∧
        (bit s.dev.synCfg 31 = false → exec .clapCodeError s = .next s) ∧
        (bit s.dev.synCfg 31 = true → s.dev.syn.snapWait = false → ∃ t, exec .clapCodeError s = .next t ∧
          t.dev.syn = { s.dev.syn with rxBusy := false, hidden := none, codeErrs := satInc 255 s.dev.syn.codeErrs } ∧ bit (t.dev.head (pg synPage)).err 9 = true) ∧
        (s.dev.clapDue = false → exec .clapAuto s = .next s) ∧
        (s.dev.clapDue = true → s.dev.canonical = true → ∃ t, exec .clapAuto s = .next t ∧
          .clapFrame (bits (s.dev.reg 0x0C4048) 15 0) ∈ t.dev.out ∧ t.dev.reg 0x0C4048 = BitVec.ofNat 32 ((bits (s.dev.reg 0x0C4048) 15 0 + 1) % 65536) ∧ t.dev.syn = { s.dev.syn with txAt := some s.dev.cycle })) ∧
      (∀ src : Source, s.dev.takes src (pageAddr synPage 0x04C) 0xFFFFFFFF 1 = true → s.dev.canonical = true → ∃ t, exec (.clapDrive src) s = .next t ∧
        (bit s.dev.synCfg 30 = false → t.dev.syn = s.dev.syn ∧ t.dev.regs = s.dev.regs) ∧
        (bit s.dev.synCfg 30 = true → s.dev.txBusy = true → t.dev.syn = s.dev.syn ∧ t.dev.regs = s.dev.regs ∧ bit (t.dev.head (pg synPage)).err 8 = true) ∧
        (bit s.dev.synCfg 30 = true → s.dev.txBusy = false → .clapFrame (bits (s.dev.reg 0x0C4048) 15 0) ∈ t.dev.out ∧ t.dev.reg 0x0C4048 = BitVec.ofNat 32 ((bits (s.dev.reg 0x0C4048) 15 0 + 1) % 65536) ∧
          t.dev.syn = { s.dev.syn with txAt := some s.dev.cycle })) ∧
      (∀ src : Source, s.dev.takes src (pageAddr synPage 0x04C) 0xFFFFFFFF 2 = true → ∃ t, exec (.slateSnap src) s = .next t ∧
        (s.dev.syn.rxBusy = true → t.dev.syn = { s.dev.syn with snapWait := true }) ∧
        (s.dev.syn.rxBusy = false → t.dev.syn.slates = s.dev.syn.slates + 1 ∧ t.dev.syn.slate[(0 : Fin 328)] = 0xC0000000 ∧ bits t.dev.syn.slate[(1 : Fin 328)] 15 0 = (s.dev.syn.slates + 1) % 65536 ∧
          t.dev.syn.slate[(2 : Fin 328)] = BitVec.ofNat 32 s.dev.ts ∧ t.dev.syn.hidden = s.dev.syn.hidden ∧
          (s.dev.srcPrio 120 ≠ 0 → t.dev.evc.src[(120 : Fin 256)].pend = true ∧ t.dev.evc.src[(120 : Fin 256)].payload = 0x10000)))) ∧
  (∀ s : State, s.dev.live = true →
      (∀ (t cap : BitVec 64),
        let e := timeDiff t cap
        let near := decide (e.natAbs ≤ bits (s.dev.reg 0x0C4050) 31 16)
        let terr := clampI (-2147483648) 2147483647 e
        let now := if 0 < e then (s.dev.ts + e.toNat) % 18446744073709551616 else s.dev.ts
        (bit s.dev.synCfg 29 = false → exec (.timeFrame t cap) s = .next s) ∧
        (bit s.dev.synCfg 29 = true → ∃ u, exec (.timeFrame t cap) s = .next u ∧ u.dev.syn.terr = terr ∧
          (s.dev.syn.st = .free → u.dev.syn = { s.dev.syn with terr := terr, frameAt := s.dev.cycle } ∧ u.dev.ts = s.dev.ts) ∧
          (s.dev.syn.st ≠ .free → near = true → u.dev.syn.slew = e ∧ u.dev.syn.hold = 0 ∧ u.dev.ts = s.dev.ts) ∧
          (s.dev.syn.st ≠ .free → near = false → u.dev.syn.slew = 0 ∧ u.dev.syn.hold = (-e).toNat ∧ u.dev.ts = now ∧
            u.dev.tlm.dailyDev = (if s.dev.dayOn then { s.dev.tlm.dailyDev with steps := satInc 255 s.dev.tlm.dailyDev.steps } else s.dev.tlm.dailyDev)) ∧
          (s.dev.syn.st = .acquire → near = true → s.dev.syn.good < 2 → u.dev.syn.st = .acquire ∧ u.dev.syn.good = s.dev.syn.good + 1) ∧
          (s.dev.syn.st = .acquire → near = true → 2 ≤ s.dev.syn.good → u.dev.syn.st = .locked ∧ (u.dev.head (pg synPage)).cur = 2) ∧
          (s.dev.syn.st = .acquire → near = false → u.dev.syn.st = .acquire ∧ u.dev.syn.good = 0) ∧
          (s.dev.syn.st = .locked → u.dev.syn.st = .locked ∧ (near = false → u.dev.syn.tsteps = satInc 255 s.dev.syn.tsteps ∧ bit (u.dev.head (pg synPage)).err 11 = true)) ∧
          (s.dev.syn.st = .holdover → u.dev.syn.st = if near then .locked else .acquire))) ∧
      (bit s.dev.synCfg 29 = false → exec .timeFrameError s = .next s) ∧
      (bit s.dev.synCfg 29 = true → ∃ u, exec .timeFrameError s = .next u ∧ u.dev.syn = s.dev.syn ∧ u.dev.ts = s.dev.ts ∧ bit (u.dev.head (pg synPage)).err 10 = true) ∧
      (s.dev.framesMissing = false → exec .timeHoldover s = .next s) ∧
      (s.dev.framesMissing = true → ∃ u, exec .timeHoldover s = .next u ∧ u.dev.syn = { s.dev.syn with st := .holdover, good := 0 } ∧ (u.dev.head (pg synPage)).cur = 3) ∧
      ((bit s.dev.synCfg 28 && s.dev.tsReached s.dev.timePeriod) = false → exec .timeFrameSend s = .next s) ∧
      ((bit s.dev.synCfg 28 && s.dev.tsReached s.dev.timePeriod) = true → ∃ u, exec .timeFrameSend s = .next u ∧ .timeFrame s.dev.ts ∈ u.dev.out ∧ u.dev.syn = s.dev.syn))

/-- The commands of scans and reads complete (R660, R661, R684): a requested scan or read starts on a free array and otherwise waits; a scan's end judges
the generations, the margins and the drift; a read's end shows the bit at M0, at M1 and as read.
Clauses that go beyond the rules named rest on the model's choices in log entries 103, 106 and 138. -/
def Obligations.OtpScanAndReadCommandsComplete : Prop :=
  ∀ s : State,
    let o := s.dev.otp
    (∀ (src : Source) (data : Word), s.dev.takes src 0x0050C0 0xFFFFFFFF data = true → ∃ t, exec (.otpRescan src data) s = .next t ∧ t.fuses = s.fuses ∧
      (bit data 0 = false → t.dev.otp = o) ∧
      (bit data 0 = true → s.dev.otpBusy = true → t.dev.otp = { o with scanDue := true }) ∧
      (bit data 0 = true → s.dev.otpBusy = false → o.run = none → t.dev.otp = { o with scanning := true, scanDue := false, tScan := s.dev.dieMaxC } ∧ (t.dev.head (pg otpPage)).cur = 1)) ∧
    (s.dev.hupRuns = true →
      (s.dev.dieVals = none ∨ (s.dev.dieHot.1 - 16 * o.tScan).natAbs ≤ 480 ∨ o.scanning = true → exec .otpTempScan s = .next s) ∧
      (s.dev.dieVals ≠ none → 480 < (s.dev.dieHot.1 - 16 * o.tScan).natAbs → o.scanning = false → ∃ t, exec .otpTempScan s = .next t ∧ t.fuses = s.fuses ∧
        (s.dev.otpBusy = true → t.dev.otp = { o with scanDue := true }) ∧
        (s.dev.otpBusy = false → o.run = none → t.dev.otp = { o with scanning := true, scanDue := false, tScan := s.dev.dieMaxC }))) ∧
    (s.dev.live = true → o.scanning = false → exec .otpScanComplete s = .next s) ∧
    (s.dev.live = true → o.scanning = true → o.reading = none → o.run = none → o.scanDue = false → o.readDue = none → ∃ t, exec .otpScanComplete s = .next t ∧ t.fuses = s.fuses ∧
      t.dev.otp.scanning = false ∧ t.dev.otp.run = none ∧ t.dev.otp.gens = gensOf (s.fuses.values s.dev.freeCount) ∧ (∀ w : Fin 32, t.dev.otp.marg[w] = s.fuses.margWord w.val) ∧
      t.dev.otp.nMarg = min 255 ((List.range 1024).filter s.fuses.marginal).length ∧
      t.dev.otp.drift = (o.drift || s.dev.watchedWords.any fun w => wordOf (s.fuses.values s.dev.freeCount) w != wordOf o.bootVal w) ∧ (t.dev.head (pg otpPage)).cur = 0) ∧
    (∀ (src : Source) (data : Word), s.dev.takes src 0x00405C 0xFFFFFFFF data = true → s.dev.canonical = true → ∃ t, exec (.otpRead src data) s = .next t ∧ t.fuses = s.fuses ∧
      (s.dev.otpBusy = true → t.dev.otp = { o with readDue := some (bits data 9 0) }) ∧
      (s.dev.otpBusy = false → o.run = none → o.scanDue = false → t.dev.otp = { o with reading := some (bits data 9 0), readDue := none } ∧ (t.dev.head (pg otpPage)).cur = 5)) ∧
    (s.dev.live = true → o.reading = none → exec .otpReadComplete s = .next s) ∧
    (∀ i, s.dev.live = true → o.reading = some i → o.scanning = false → o.run = none → o.scanDue = false → o.readDue = none → ∃ t w, exec .otpReadComplete s = .next t ∧ t.fuses = s.fuses ∧
      t.dev.otp = { o with reading := none, rNorm := w, rM0 := s.fuses.atM0 i, rM1 := s.fuses.atM1 i } ∧ (s.fuses.marginal i = false → w = s.fuses.atM1 i) ∧ (t.dev.head (pg otpPage)).cur = 0)

/-- The commands of the programmer complete (R676 to R683): a request by the owner with the key that R678 admits runs or waits, and any other is refused;
a pulse programs one bit of one copy, and the reading at M1, the limit of tries, the supply, the temperature and a stop decide what follows.
Clauses that go beyond the rules named rest on the model's choices in log entries 46, 104, 105 and 106. -/
def Obligations.OtpProgrammerCommandsComplete : Prop :=
  ∀ s : State,
    let o := s.dev.otp
    (∀ (c : Instr) (src : Source) (key : BitVec 16) (noChk : Bool) (k : OtpKind), AsksOtp c src key noChk k → s.dev.takes src 0x004054 0xFFFFFFFF (otpOpWord key noChk k) = true → ∃ t, exec c s = .next t ∧ t.fuses = s.fuses ∧
      (s.dev.ownedBy otpPage (s.dev.requester src) = false → t.dev.otp = o ∧ bit (t.dev.head (pg otpPage)).err 2 = true) ∧
      (s.dev.ownedBy otpPage (s.dev.requester src) = true →
        (key ≠ 0x07B5 ∨ o.progLock = true → t.dev.otp = o ∧ bit (t.dev.head (pg otpPage)).err 1 = true) ∧
        (key = 0x07B5 → o.progLock = false →
          (o.run ≠ none ∨ s.dev.otpAdmitted k = false → t.dev.otp = { o with result := 6 } ∧ bit (t.dev.head (pg otpPage)).err 8 = true) ∧
          (o.run = none → s.dev.otpAdmitted k = true →
            let r := s.dev.otpAsked k noChk
            let v := s.fuses.values s.dev.freeCount
            let todo := runTargets s.fuses v r
            (s.dev.otpBusy = true → t.dev.otp = { o with run := some r }) ∧
            (s.dev.otpBusy = false →
              (∀ c, earlyResult v r todo = some c → OtpEnds t.dev c ∧ t.dev.otp.pulses = 0 ∧ t.dev.otp.failBit = 0) ∧
              (earlyResult v r todo = none → t.dev.otp = { o with run := some { r with started := true, todo := todo, tries := 0 }, pulses := 0, failBit := 0 } ∧
                (t.dev.head (pg otpPage)).cur = 2)))))) ∧
    (∀ (src : Source) (key : BitVec 16), s.dev.takes src 0x004054 0xFFFFFFFF (field 31 16 key.toNat) = true → s.dev.ownedBy otpPage (s.dev.requester src) = true →
      ∃ t, exec (.otpStop src key) s = .next t ∧ t.fuses = s.fuses ∧
        (key ≠ 0x07B5 ∨ o.progLock = true → t.dev.otp = o ∧ bit (t.dev.head (pg otpPage)).err 1 = true) ∧
        (key = 0x07B5 → o.progLock = false →
          (o.run = none → t.dev.otp = o) ∧
          (∀ r, o.run = some r → r.pulsing = true → t.dev.otp = { o with run := some { r with stop := true } }) ∧
          (∀ r, o.run = some r → r.pulsing = false → OtpEnds t.dev 5))) ∧
    (s.dev.live = true →
      (∀ ok,
        (o.run = none → exec (.otpSupplyReady ok) s = .next s) ∧
        (∀ r, o.run = some r → r.started = false ∨ r.pulsing = true → exec (.otpSupplyReady ok) s = .next s) ∧
        (∀ r, o.run = some r → r.started = true → r.pulsing = false → ∃ t, exec (.otpSupplyReady ok) s = .next t ∧ t.fuses = s.fuses ∧
          (ok = false → OtpEnds t.dev 4) ∧ (ok = true → s.dev.otpOk = false → OtpEnds t.dev 3) ∧
          (ok = true → s.dev.otpOk = true → t.dev.otp = { o with run := some { r with pulsing := true }, pulses := satInc 0xFFFF o.pulses } ∧ (t.dev.head (pg otpPage)).cur = 3))) ∧
      (∀ m1 ok,
        (o.run = none → exec (.otpPulseComplete m1 ok) s = .next s) ∧
        (∀ r, o.run = some r → r.pulsing = false → exec (.otpPulseComplete m1 ok) s = .next s) ∧
        (∀ r i b rest, o.run = some r → r.pulsing = true → r.todo = (i, b) :: rest → ∃ t, exec (.otpPulseComplete m1 ok) s = .next t ∧ t.fuses = s.fuses.pulse i b m1 ∧
          (r.stop = true ∨ s.dev.boot.request ≠ none → OtpEnds t.dev 5) ∧
          (r.stop = false → s.dev.boot.request = none →
            (bit (t.fuses.atM1 i) b = true →
              (rest = [] → OtpEnds t.dev 1 ∧ (r.kind = .seal → ∃ n, t.dev.otp.gens = gensOf (t.fuses.values n))) ∧
              (rest ≠ [] → ok = false → OtpEnds t.dev 4) ∧ (rest ≠ [] → ok = true → s.dev.otpOk = false → OtpEnds t.dev 3) ∧
              (rest ≠ [] → ok = true → s.dev.otpOk = true → t.dev.otp = { o with run := some { r with todo := rest, tries := 0 }, pulses := satInc 0xFFFF o.pulses })) ∧
            (bit (t.fuses.atM1 i) b = false →
              (max 1 (bits (s.dev.reg 0x004048) 19 16) ≤ r.tries + 1 → OtpEnds t.dev 2 ∧ t.dev.otp.failBit = b) ∧
              (r.tries + 1 < max 1 (bits (s.dev.reg 0x004048) 19 16) →
                (ok = false → OtpEnds t.dev 4) ∧ (ok = true → s.dev.otpOk = false → OtpEnds t.dev 3) ∧
                (ok = true → s.dev.otpOk = true → t.dev.otp = { o with run := some { r with tries := r.tries + 1 }, pulses := satInc 0xFFFF o.pulses })))))))

/-- The commands of the reload, of the core's restart and of the reference clock complete (R103, R673 to R675, R687): a reload needs its key and a
sequencer in IDLE, waits for the array, and reports the generation it loaded; a restart takes the core down until it completes; the count of a window
is shown, but not in device reset nor in the state of R36, where registers keep their values (R725).
Clauses that go beyond the rules named rest on the model's choices in log entries 26, 29 and 138. -/
def Obligations.ReloadAndRestartCommandsComplete : Prop :=
  ∀ s : State,
    let o := s.dev.otp
    let v := s.fuses.values s.dev.freeCount
    let find := selectGen v (bits s.dev.boot.straps 1 0 == 0)
    (∀ (src : Source) (data : Word), s.dev.takes src 0x0050C4 0xFFFFFFFF data = true → ∃ t, exec (.otpReload src data) s = .next t ∧ t.fuses = s.fuses ∧
      (bits data 31 16 ≠ 0x5E7A → t.dev.otp = o ∧ bit (t.dev.head (pg 0x005)).err 1 = true) ∧
      (bits data 31 16 = 0x5E7A → s.dev.seq.st ≠ .idle → t.dev.otp = { o with rldResult := 2 }) ∧
      (bits data 31 16 = 0x5E7A → s.dev.seq.st = .idle → s.dev.otpBusy = true → t.dev.otp = { o with reloadDue := true }) ∧
      (bits data 31 16 = 0x5E7A → s.dev.seq.st = .idle → s.dev.otpBusy = false →
        (find = none → t.dev.otp = { o with reloadDue := false, rldResult := 3, rldGen := 7, rldWrites := 0 } ∧ t.dev.regs = (s.dev.arrive src 0x0050C4).regs) ∧
        (∀ g, find = some g → t.dev.otp.rldResult = 1 ∧ t.dev.otp.rldGen = g ∧ t.dev.otp.reloadDue = false))) ∧
    (s.dev.live = true →
      (o.reloadDue = false ∨ s.dev.otpBusy = true → exec .otpReloadDeferred s = .next s) ∧
      (o.reloadDue = true → s.dev.otpBusy = false → ∃ t, exec .otpReloadDeferred s = .next t ∧ t.fuses = s.fuses ∧
        (s.dev.seq.st ≠ .idle → t.dev.otp = { o with reloadDue := false, rldResult := 2 }) ∧
        (s.dev.seq.st = .idle →
          (find = none → t.dev.otp = { o with reloadDue := false, rldResult := 3, rldGen := 7, rldWrites := 0 } ∧ t.dev.regs = s.dev.regs) ∧
          (∀ g, find = some g → t.dev.otp.rldResult = 1 ∧ t.dev.otp.rldGen = g ∧ t.dev.otp.reloadDue = false)))) ∧
    (∀ (src : Source) (data : Word), s.dev.takes src 0x006040 0xFFFFFFFF data = true → ∃ t, exec (.hkcRestart src data) s = .next t ∧ t.fuses = s.fuses ∧
      (bits data 31 16 ≠ 0x4B1C ∨ bit data 0 = false → t.dev.boot.coreUp = s.dev.boot.coreUp ∧ t.dev.hkc = s.dev.hkc ∧ bit (t.dev.head (pg 0x006)).err 1 = true) ∧
      (bits data 31 16 = 0x4B1C → bit data 0 = true → s.dev.boot.coreUp = true ∨ s.dev.boot.coreRestarting = true →
        t.dev.boot.coreUp = false ∧ t.dev.boot.coreRestarting = true ∧ t.dev.hkc = { s.dev.hkc with restarts := satInc 255 s.dev.hkc.restarts, code := [] } ∧
        (∀ k, (t.dev.wd k).queue = []) ∧ (o.run = none → t.dev.otp = o) ∧ (t.dev.head (pg 0x006)).cur = 3) ∧
      (bits data 31 16 = 0x4B1C → bit data 0 = true → s.dev.boot.coreUp = false → s.dev.boot.coreRestarting = false →
        t.dev.boot.coreUp = false ∧ t.dev.boot.coreRestarting = false ∧ t.dev.hkc = s.dev.hkc ∧ t.dev.otp = o)) ∧
    (∀ challenges : Vector (List (BitVec 16)) 9,
      (s.dev.live = false ∨ s.dev.boot.coreRestarting = false → exec (.coreRestartComplete challenges) s = .next s) ∧
      (s.dev.live = true → s.dev.boot.coreRestarting = true → ∃ t, exec (.coreRestartComplete challenges) s = .next t ∧ t.fuses = s.fuses ∧
        t.dev.boot.coreUp = true ∧ t.dev.boot.coreRestarting = false ∧
        (patchSection v s.dev.boot.gen = [] → t.dev.hkc = s.dev.hkc) ∧
        (patchSection v s.dev.boot.gen ≠ [] → patchValid v s.dev.boot.gen = true → t.dev.hkc = { s.dev.hkc with code := patchCode (patchSection v s.dev.boot.gen) }) ∧
        (patchSection v s.dev.boot.gen ≠ [] → patchValid v s.dev.boot.gen = false → t.dev.hkc = { s.dev.hkc with cmp := Vector.replicate 64 none, code := [], skipped := true, dup := false }))) ∧
    (∀ khz : BitVec 16,
      (s.dev.boot.held = true ∨ s.dev.boot.clkFailed = true → exec (.clkXfreqUpdate khz) s = .next s) ∧
      (s.dev.boot.held = false → s.dev.boot.clkFailed = false → exec (.clkXfreqUpdate khz) s = .next { s with dev := { s.dev with boot := { s.dev.boot with xfreq := khz.toNat } } }))
end

