-- ==== Sys2Proof/Laws/Bits.lean ====
section
/-! SUPPORT. Bit fields of a word: what each bit of a mask, of a field and of a replaced field is. -/

namespace Sys2Proof.Machine
open Sys2Proof

theorem fieldMask_bit (hi lo i : Nat) : (fieldMask hi lo).getLsbD i = (decide (i < 32) && decide (lo ≤ i) && decide (i - lo < hi + 1 - lo)) := by
  unfold fieldMask
  rw [BitVec.getLsbD_ofNat, Nat.testBit_mul_two_pow, Nat.testBit_two_pow_sub_one, Bool.and_assoc]

theorem setBits_bit (w : Word) (hi lo v i : Nat) :
    (setBits w hi lo v).getLsbD i = if i < 32 ∧ lo ≤ i ∧ i - lo < hi + 1 - lo then v.testBit (i - lo) else w.getLsbD i := by
  unfold setBits
  rw [BitVec.getLsbD_or, BitVec.getLsbD_and, BitVec.getLsbD_and, BitVec.getLsbD_not, fieldMask_bit, BitVec.getLsbD_ofNat, Nat.testBit_mul_two_pow]
  by_cases h1 : i < 32
  · by_cases h2 : lo ≤ i <;> by_cases h3 : i - lo < hi + 1 - lo <;> simp [h1, h2, h3]
  · have : w.getLsbD i = false := BitVec.getLsbD_of_ge w i (by omega)
    simp [h1, this]

theorem bits_testBit (w : Word) (hi lo i : Nat) : (bits w hi lo).testBit i = (decide (i < hi + 1 - lo) && w.getLsbD (i + lo)) := by
  unfold bits
  rw [Nat.testBit_mod_two_pow, Nat.testBit_div_two_pow]
  rfl

/-- The field just replaced reads the low bits of the value. -/
theorem bits_setBits (w : Word) (hi lo v : Nat) (h : hi < 32) : bits (setBits w hi lo v) hi lo = v % 2 ^ (hi + 1 - lo) := by
  apply Nat.eq_of_testBit_eq
  intro i
  rw [bits_testBit, setBits_bit, Nat.testBit_mod_two_pow]
  by_cases hi' : i < hi + 1 - lo
  · rw [if_pos (by omega), Nat.add_sub_cancel]
  · simp [hi']

/-- A field outside the one replaced reads as before. -/
theorem bits_setBits_other (w : Word) (hi lo v h l : Nat) (hd : h < lo ∨ hi < l) : bits (setBits w hi lo v) h l = bits w h l := by
  apply Nat.eq_of_testBit_eq
  intro i
  rw [bits_testBit, bits_testBit, setBits_bit]
  by_cases hi' : i < h + 1 - l
  · rw [if_neg (by omega)]
  · simp [hi']

theorem bit_setBit (w : Word) (i j : Nat) (b : Bool) (h : i < 32) : bit (setBit w i b) j = if j = i then b else bit w j := by
  unfold setBit bit
  rw [setBits_bit]
  by_cases e : j = i
  · subst e; rw [if_pos (by omega), if_pos rfl]; cases b <;> simp
  · rw [if_neg (by omega), if_neg e]

theorem bit_setBits_other (w : Word) (hi lo v i : Nat) (hd : i < lo ∨ hi < i) : bit (setBits w hi lo v) i = bit w i := by
  unfold bit
  rw [setBits_bit, if_neg (by omega)]

theorem bit_mergeWord (w v m : Word) (i : Nat) : bit (mergeWord w v m) i = if bit m i then bit v i else bit w i := by
  unfold mergeWord bit
  rw [BitVec.getLsbD_or, BitVec.getLsbD_and, BitVec.getLsbD_and, BitVec.getLsbD_not]
  by_cases h : i < 32
  · cases m.getLsbD i <;> simp [h]
  · have := BitVec.getLsbD_of_ge w i (by omega)
    cases m.getLsbD i <;> simp [h, this]

theorem bit_and (a b : Word) (i : Nat) : bit (a &&& b) i = (bit a i && bit b i) := BitVec.getLsbD_and
theorem bit_or (a b : Word) (i : Nat) : bit (a ||| b) i = (bit a i || bit b i) := BitVec.getLsbD_or
theorem bit_not (a : Word) (i : Nat) (h : i < 32) : bit (~~~a) i = !bit a i := by
  unfold bit; rw [BitVec.getLsbD_not]; simp [h]

/-- A field is 0 exactly when each of its bits is 0. -/
theorem bits_zero (w : Word) (hi lo : Nat) : bits w hi lo = 0 ↔ ∀ i, lo ≤ i → i ≤ hi → bit w i = false := by
  constructor
  · intro h i h1 h2
    have := congrArg (fun n => n.testBit (i - lo)) h
    simp only [bits_testBit, Nat.zero_testBit] at this
    rw [Nat.sub_add_cancel h1, decide_eq_true (by omega), Bool.true_and] at this
    exact this
  · intro h
    apply Nat.eq_of_testBit_eq
    intro i
    rw [bits_testBit, Nat.zero_testBit]
    by_cases hi' : i < hi + 1 - lo
    · have := h (i + lo) (by omega) (by omega)
      unfold bit at this
      simp [this]
    · simp [hi']

/-- Two words with the same bits have the same fields. -/
theorem bits_congr {w v : Word} {hi lo : Nat} (h : ∀ i, lo ≤ i → i ≤ hi → bit w i = bit v i) : bits w hi lo = bits v hi lo := by
  apply Nat.eq_of_testBit_eq
  intro i
  rw [bits_testBit, bits_testBit]
  by_cases hi' : i < hi + 1 - lo
  · have := h (i + lo) (by omega) (by omega)
    unfold bit at this
    simp [this]
  · simp [hi']

theorem bit_of_bits_le (m : Word) (i : Nat) (h : m = 0xFFFFFFFF#32) (hi : i < 32) : bit m i = true := by
  subst h
  unfold bit
  revert i; decide

end Sys2Proof.Machine
end

