-- ==== Sys2Proof/Laws/Touch.lean ====
section
/-! SUPPORT. Touches m d e: from d to e every kind of state stays as it was, but for those whose bit stands in the mask m (bit i for the i-th
field of Device). The lemmas say how it composes, and that an update of one field touches that field only. -/

namespace Sys2Proof.Machine
open Sys2Proof

/-- The place of a kind of state in a mask. -/
def Field.idx : Field → Nat
  | .regs => 0
  | .ram => 1
  | .hdr => 2
  | .boot => 3
  | .ctx => 4
  | .phase => 5
  | .loop => 6
  | .entry => 7
  | .seq => 8
  | .rso => 9
  | .thm => 10
  | .flt => 11
  | .evc => 12
  | .wdt => 13
  | .hup => 14
  | .chg => 15
  | .gau => 16
  | .ao => 17
  | .dma => 18
  | .tlm => 19
  | .pmc => 20
  | .syn => 21
  | .pcie => 22
  | .i3c => 23
  | .spi => 24
  | .otp => 25
  | .hkc => 26
  | .claims => 27
  | .openRes => 28
  | .safe => 29
  | .sheet => 30
  | .cntSeq => 31
  | .ts => 32
  | .cycle => 33
  | .freeCount => 34
  | .out => 35

/-- Every kind of state whose bit is not in m agrees. -/
def Touches (m : Nat) (d e : Device) : Prop := ∀ f : Field, m.testBit f.idx = false → Agree d e f

theorem Touches.same {m : Nat} (d : Device) : Touches m d d := by intro f _; cases f <;> rfl

theorem Touches.trans {m : Nat} {a b c : Device} (h : Touches m a b) (k : Touches m b c) : Touches m a c := by
  intro f hf; have x := h f hf; have y := k f hf; cases f <;> simp_all [Agree]

theorem Touches.symm {m : Nat} {a b : Device} (h : Touches m a b) : Touches m b a := by
  intro f hf; have x := h f hf; cases f <;> simp_all [Agree]

theorem Touches.iff {m : Nat} {a b c : Device} (h : Touches m b c) : Touches m a c ↔ Touches m a b :=
  ⟨fun x => x.trans h.symm, fun x => x.trans h⟩

@[simp ↓] theorem touches_ite {m : Nat} {d0 a b : Device} (c : Prop) [Decidable c] :
    Touches m d0 (if c then a else b) = (if c then Touches m d0 a else Touches m d0 b) := by split <;> rfl

theorem bit_of_and {f m S : Nat} (hS : m &&& S = m) (hb : S.testBit f = false) : m.testBit f = false := by
  have := congrArg (Nat.testBit · f) hS
  simp only [Nat.testBit_and, hb, Bool.and_false] at this
  exact this.symm

theorem sub_mask {m k S : Nat} (h : m &&& k = m) (hS : k &&& S = k) : m &&& S = m := by
  rw [← h, Nat.and_assoc, hS, h]

theorem Touches.mono {m S : Nat} {d e : Device} (h : Touches m d e) (hS : m &&& S = m) : Touches S d e :=
  fun f hf => h f (bit_of_and hS hf)

theorem Touches.lift {m S : Nat} {d0 d e : Device} (h : Touches m d e) (hS : m &&& S = m) : Touches S d0 e ↔ Touches S d0 d :=
  Touches.iff (h.mono hS)

@[simp ↓] theorem touches_refl {m : Nat} (d : Device) : Touches m d d ↔ True := by simp [Touches.same]

@[simp ↓] theorem touches_ite_fst {α : Type} {m : Nat} {d0 : Device} {a b : Device × α} (c : Prop) [Decidable c] :
    Touches m d0 (if c then a else b).1 = (if c then Touches m d0 a.1 else Touches m d0 b.1) := by split <;> rfl

@[simp ↓] theorem touches_ite_snd {α : Type} {m : Nat} {d0 : Device} {a b : α × Device} (c : Prop) [Decidable c] :
    Touches m d0 (if c then a else b).2 = (if c then Touches m d0 a.2 else Touches m d0 b.2) := by split <;> rfl

@[simp ↓] theorem touches_foldFin {S n : Nat} {d0 : Device} (f : Device → Fin n → Device) (d : Device)
    (h : ∀ e i, Touches S d0 (f e i) ↔ Touches S d0 e) : Touches S d0 (foldFin n f d) ↔ Touches S d0 d := by
  unfold foldFin
  induction List.finRange n generalizing d with
  | nil => rfl
  | cons a l ih => rw [List.foldl_cons, ih, h]

@[simp ↓] theorem touches_foldl {α : Type} {S : Nat} {d0 : Device} (f : Device → α → Device) (l : List α) (d : Device)
    (h : ∀ e i, Touches S d0 (f e i) ↔ Touches S d0 e) : Touches S d0 (l.foldl f d) ↔ Touches S d0 d := by
  induction l generalizing d with
  | nil => rfl
  | cons a l ih => rw [List.foldl_cons, ih, h]

@[simp ↓] theorem touches_foldl_fst {α β : Type} {S : Nat} {d0 : Device} (f : Device × β → α → Device × β) (l : List α) (x : Device × β)
    (h : ∀ e i, Touches S d0 (f e i).1 ↔ Touches S d0 e.1) : Touches S d0 (l.foldl f x).1 ↔ Touches S d0 x.1 := by
  induction l generalizing x with
  | nil => rfl
  | cons a l ih => rw [List.foldl_cons, ih, h]

@[simp ↓] theorem touches_foldl_snd {α β : Type} {S : Nat} {d0 : Device} (f : β × Device → α → β × Device) (l : List α) (x : β × Device)
    (h : ∀ e i, Touches S d0 (f e i).2 ↔ Touches S d0 e.2) : Touches S d0 (l.foldl f x).2 ↔ Touches S d0 x.2 := by
  induction l generalizing x with
  | nil => rfl
  | cons a l ih => rw [List.foldl_cons, ih, h]

@[simp ↓] theorem touches_foldl_load {α : Type} {S : Nat} {d0 : Device} (f : LoadRun → α → LoadRun) (l : List α) (x : LoadRun)
    (h : ∀ e i, Touches S d0 (f e i).dev ↔ Touches S d0 e.dev) : Touches S d0 (l.foldl f x).dev ↔ Touches S d0 x.dev := by
  induction l generalizing x with
  | nil => rfl
  | cons a l ih => rw [List.foldl_cons, ih, h]

@[simp ↓] theorem touches_foldl_funnel {α : Type} {S : Nat} {d0 : Device} (f : FunnelRun → α → FunnelRun) (l : List α) (x : FunnelRun)
    (h : ∀ e i, Touches S d0 (f e i).dev ↔ Touches S d0 e.dev) : Touches S d0 (l.foldl f x).dev ↔ Touches S d0 x.dev := by
  induction l generalizing x with
  | nil => rfl
  | cons a l ih => rw [List.foldl_cons, ih, h]
@[simp ↓] theorem touches_with_regs {S : Nat} {d0 : Device} (d : Device) (v0 : type_of% d.regs) (hS : 1 &&& S = 1) :
    Touches S d0 { d with regs := v0 } ↔ Touches S d0 d :=
  Touches.iff (by intro f hf; have := bit_of_and hS hf; cases f <;> first | rfl | exact absurd this (by decide))

@[simp ↓] theorem touches_with_ram {S : Nat} {d0 : Device} (d : Device) (v0 : type_of% d.ram) (hS : 2 &&& S = 2) :
    Touches S d0 { d with ram := v0 } ↔ Touches S d0 d :=
  Touches.iff (by intro f hf; have := bit_of_and hS hf; cases f <;> first | rfl | exact absurd this (by decide))

@[simp ↓] theorem touches_with_hdr {S : Nat} {d0 : Device} (d : Device) (v0 : type_of% d.hdr) (hS : 4 &&& S = 4) :
    Touches S d0 { d with hdr := v0 } ↔ Touches S d0 d :=
  Touches.iff (by intro f hf; have := bit_of_and hS hf; cases f <;> first | rfl | exact absurd this (by decide))

@[simp ↓] theorem touches_with_boot {S : Nat} {d0 : Device} (d : Device) (v0 : type_of% d.boot) (hS : 8 &&& S = 8) :
    Touches S d0 { d with boot := v0 } ↔ Touches S d0 d :=
  Touches.iff (by intro f hf; have := bit_of_and hS hf; cases f <;> first | rfl | exact absurd this (by decide))

@[simp ↓] theorem touches_with_ctx {S : Nat} {d0 : Device} (d : Device) (v0 : type_of% d.ctx) (hS : 16 &&& S = 16) :
    Touches S d0 { d with ctx := v0 } ↔ Touches S d0 d :=
  Touches.iff (by intro f hf; have := bit_of_and hS hf; cases f <;> first | rfl | exact absurd this (by decide))

@[simp ↓] theorem touches_with_phase {S : Nat} {d0 : Device} (d : Device) (v0 : type_of% d.phase) (hS : 32 &&& S = 32) :
    Touches S d0 { d with phase := v0 } ↔ Touches S d0 d :=
  Touches.iff (by intro f hf; have := bit_of_and hS hf; cases f <;> first | rfl | exact absurd this (by decide))

@[simp ↓] theorem touches_with_loop {S : Nat} {d0 : Device} (d : Device) (v0 : type_of% d.loop) (hS : 64 &&& S = 64) :
    Touches S d0 { d with loop := v0 } ↔ Touches S d0 d :=
  Touches.iff (by intro f hf; have := bit_of_and hS hf; cases f <;> first | rfl | exact absurd this (by decide))

@[simp ↓] theorem touches_with_entry {S : Nat} {d0 : Device} (d : Device) (v0 : type_of% d.entry) (hS : 128 &&& S = 128) :
    Touches S d0 { d with entry := v0 } ↔ Touches S d0 d :=
  Touches.iff (by intro f hf; have := bit_of_and hS hf; cases f <;> first | rfl | exact absurd this (by decide))

@[simp ↓] theorem touches_with_seq {S : Nat} {d0 : Device} (d : Device) (v0 : type_of% d.seq) (hS : 256 &&& S = 256) :
    Touches S d0 { d with seq := v0 } ↔ Touches S d0 d :=
  Touches.iff (by intro f hf; have := bit_of_and hS hf; cases f <;> first | rfl | exact absurd this (by decide))

@[simp ↓] theorem touches_with_rso {S : Nat} {d0 : Device} (d : Device) (v0 : type_of% d.rso) (hS : 512 &&& S = 512) :
    Touches S d0 { d with rso := v0 } ↔ Touches S d0 d :=
  Touches.iff (by intro f hf; have := bit_of_and hS hf; cases f <;> first | rfl | exact absurd this (by decide))

@[simp ↓] theorem touches_with_thm {S : Nat} {d0 : Device} (d : Device) (v0 : type_of% d.thm) (hS : 1024 &&& S = 1024) :
    Touches S d0 { d with thm := v0 } ↔ Touches S d0 d :=
  Touches.iff (by intro f hf; have := bit_of_and hS hf; cases f <;> first | rfl | exact absurd this (by decide))

@[simp ↓] theorem touches_with_flt {S : Nat} {d0 : Device} (d : Device) (v0 : type_of% d.flt) (hS : 2048 &&& S = 2048) :
    Touches S d0 { d with flt := v0 } ↔ Touches S d0 d :=
  Touches.iff (by intro f hf; have := bit_of_and hS hf; cases f <;> first | rfl | exact absurd this (by decide))

@[simp ↓] theorem touches_with_evc {S : Nat} {d0 : Device} (d : Device) (v0 : type_of% d.evc) (hS : 4096 &&& S = 4096) :
    Touches S d0 { d with evc := v0 } ↔ Touches S d0 d :=
  Touches.iff (by intro f hf; have := bit_of_and hS hf; cases f <;> first | rfl | exact absurd this (by decide))

@[simp ↓] theorem touches_with_wdt {S : Nat} {d0 : Device} (d : Device) (v0 : type_of% d.wdt) (hS : 8192 &&& S = 8192) :
    Touches S d0 { d with wdt := v0 } ↔ Touches S d0 d :=
  Touches.iff (by intro f hf; have := bit_of_and hS hf; cases f <;> first | rfl | exact absurd this (by decide))

@[simp ↓] theorem touches_with_hup {S : Nat} {d0 : Device} (d : Device) (v0 : type_of% d.hup) (hS : 16384 &&& S = 16384) :
    Touches S d0 { d with hup := v0 } ↔ Touches S d0 d :=
  Touches.iff (by intro f hf; have := bit_of_and hS hf; cases f <;> first | rfl | exact absurd this (by decide))

@[simp ↓] theorem touches_with_chg {S : Nat} {d0 : Device} (d : Device) (v0 : type_of% d.chg) (hS : 32768 &&& S = 32768) :
    Touches S d0 { d with chg := v0 } ↔ Touches S d0 d :=
  Touches.iff (by intro f hf; have := bit_of_and hS hf; cases f <;> first | rfl | exact absurd this (by decide))

@[simp ↓] theorem touches_with_gau {S : Nat} {d0 : Device} (d : Device) (v0 : type_of% d.gau) (hS : 65536 &&& S = 65536) :
    Touches S d0 { d with gau := v0 } ↔ Touches S d0 d :=
  Touches.iff (by intro f hf; have := bit_of_and hS hf; cases f <;> first | rfl | exact absurd this (by decide))

@[simp ↓] theorem touches_with_ao {S : Nat} {d0 : Device} (d : Device) (v0 : type_of% d.ao) (hS : 131072 &&& S = 131072) :
    Touches S d0 { d with ao := v0 } ↔ Touches S d0 d :=
  Touches.iff (by intro f hf; have := bit_of_and hS hf; cases f <;> first | rfl | exact absurd this (by decide))

@[simp ↓] theorem touches_with_dma {S : Nat} {d0 : Device} (d : Device) (v0 : type_of% d.dma) (hS : 262144 &&& S = 262144) :
    Touches S d0 { d with dma := v0 } ↔ Touches S d0 d :=
  Touches.iff (by intro f hf; have := bit_of_and hS hf; cases f <;> first | rfl | exact absurd this (by decide))

@[simp ↓] theorem touches_with_tlm {S : Nat} {d0 : Device} (d : Device) (v0 : type_of% d.tlm) (hS : 524288 &&& S = 524288) :
    Touches S d0 { d with tlm := v0 } ↔ Touches S d0 d :=
  Touches.iff (by intro f hf; have := bit_of_and hS hf; cases f <;> first | rfl | exact absurd this (by decide))

@[simp ↓] theorem touches_with_pmc {S : Nat} {d0 : Device} (d : Device) (v0 : type_of% d.pmc) (hS : 1048576 &&& S = 1048576) :
    Touches S d0 { d with pmc := v0 } ↔ Touches S d0 d :=
  Touches.iff (by intro f hf; have := bit_of_and hS hf; cases f <;> first | rfl | exact absurd this (by decide))

@[simp ↓] theorem touches_with_syn {S : Nat} {d0 : Device} (d : Device) (v0 : type_of% d.syn) (hS : 2097152 &&& S = 2097152) :
    Touches S d0 { d with syn := v0 } ↔ Touches S d0 d :=
  Touches.iff (by intro f hf; have := bit_of_and hS hf; cases f <;> first | rfl | exact absurd this (by decide))

@[simp ↓] theorem touches_with_pcie {S : Nat} {d0 : Device} (d : Device) (v0 : type_of% d.pcie) (hS : 4194304 &&& S = 4194304) :
    Touches S d0 { d with pcie := v0 } ↔ Touches S d0 d :=
  Touches.iff (by intro f hf; have := bit_of_and hS hf; cases f <;> first | rfl | exact absurd this (by decide))

@[simp ↓] theorem touches_with_i3c {S : Nat} {d0 : Device} (d : Device) (v0 : type_of% d.i3c) (hS : 8388608 &&& S = 8388608) :
    Touches S d0 { d with i3c := v0 } ↔ Touches S d0 d :=
  Touches.iff (by intro f hf; have := bit_of_and hS hf; cases f <;> first | rfl | exact absurd this (by decide))

@[simp ↓] theorem touches_with_spi {S : Nat} {d0 : Device} (d : Device) (v0 : type_of% d.spi) (hS : 16777216 &&& S = 16777216) :
    Touches S d0 { d with spi := v0 } ↔ Touches S d0 d :=
  Touches.iff (by intro f hf; have := bit_of_and hS hf; cases f <;> first | rfl | exact absurd this (by decide))

@[simp ↓] theorem touches_with_otp {S : Nat} {d0 : Device} (d : Device) (v0 : type_of% d.otp) (hS : 33554432 &&& S = 33554432) :
    Touches S d0 { d with otp := v0 } ↔ Touches S d0 d :=
  Touches.iff (by intro f hf; have := bit_of_and hS hf; cases f <;> first | rfl | exact absurd this (by decide))

@[simp ↓] theorem touches_with_hkc {S : Nat} {d0 : Device} (d : Device) (v0 : type_of% d.hkc) (hS : 67108864 &&& S = 67108864) :
    Touches S d0 { d with hkc := v0 } ↔ Touches S d0 d :=
  Touches.iff (by intro f hf; have := bit_of_and hS hf; cases f <;> first | rfl | exact absurd this (by decide))

@[simp ↓] theorem touches_with_claims {S : Nat} {d0 : Device} (d : Device) (v0 : type_of% d.claims) (hS : 134217728 &&& S = 134217728) :
    Touches S d0 { d with claims := v0 } ↔ Touches S d0 d :=
  Touches.iff (by intro f hf; have := bit_of_and hS hf; cases f <;> first | rfl | exact absurd this (by decide))

@[simp ↓] theorem touches_with_openRes {S : Nat} {d0 : Device} (d : Device) (v0 : type_of% d.openRes) (hS : 268435456 &&& S = 268435456) :
    Touches S d0 { d with openRes := v0 } ↔ Touches S d0 d :=
  Touches.iff (by intro f hf; have := bit_of_and hS hf; cases f <;> first | rfl | exact absurd this (by decide))

@[simp ↓] theorem touches_with_safe {S : Nat} {d0 : Device} (d : Device) (v0 : type_of% d.safe) (hS : 536870912 &&& S = 536870912) :
    Touches S d0 { d with safe := v0 } ↔ Touches S d0 d :=
  Touches.iff (by intro f hf; have := bit_of_and hS hf; cases f <;> first | rfl | exact absurd this (by decide))

@[simp ↓] theorem touches_with_sheet {S : Nat} {d0 : Device} (d : Device) (v0 : type_of% d.sheet) (hS : 1073741824 &&& S = 1073741824) :
    Touches S d0 { d with sheet := v0 } ↔ Touches S d0 d :=
  Touches.iff (by intro f hf; have := bit_of_and hS hf; cases f <;> first | rfl | exact absurd this (by decide))

@[simp ↓] theorem touches_with_cntSeq {S : Nat} {d0 : Device} (d : Device) (v0 : type_of% d.cntSeq) (hS : 2147483648 &&& S = 2147483648) :
    Touches S d0 { d with cntSeq := v0 } ↔ Touches S d0 d :=
  Touches.iff (by intro f hf; have := bit_of_and hS hf; cases f <;> first | rfl | exact absurd this (by decide))

@[simp ↓] theorem touches_with_ts {S : Nat} {d0 : Device} (d : Device) (v0 : type_of% d.ts) (hS : 4294967296 &&& S = 4294967296) :
    Touches S d0 { d with ts := v0 } ↔ Touches S d0 d :=
  Touches.iff (by intro f hf; have := bit_of_and hS hf; cases f <;> first | rfl | exact absurd this (by decide))

@[simp ↓] theorem touches_with_cycle {S : Nat} {d0 : Device} (d : Device) (v0 : type_of% d.cycle) (hS : 8589934592 &&& S = 8589934592) :
    Touches S d0 { d with cycle := v0 } ↔ Touches S d0 d :=
  Touches.iff (by intro f hf; have := bit_of_and hS hf; cases f <;> first | rfl | exact absurd this (by decide))

@[simp ↓] theorem touches_with_freeCount {S : Nat} {d0 : Device} (d : Device) (v0 : type_of% d.freeCount) (hS : 17179869184 &&& S = 17179869184) :
    Touches S d0 { d with freeCount := v0 } ↔ Touches S d0 d :=
  Touches.iff (by intro f hf; have := bit_of_and hS hf; cases f <;> first | rfl | exact absurd this (by decide))

@[simp ↓] theorem touches_with_out {S : Nat} {d0 : Device} (d : Device) (v0 : type_of% d.out) (hS : 34359738368 &&& S = 34359738368) :
    Touches S d0 { d with out := v0 } ↔ Touches S d0 d :=
  Touches.iff (by intro f hf; have := bit_of_and hS hf; cases f <;> first | rfl | exact absurd this (by decide))

@[simp ↓] theorem touches_with_hdr_cntSeq {S : Nat} {d0 : Device} (d : Device) (v0 : type_of% d.hdr) (v1 : type_of% d.cntSeq) (hS : 2147483652 &&& S = 2147483652) :
    Touches S d0 { d with hdr := v0, cntSeq := v1 } ↔ Touches S d0 d :=
  Touches.iff (by intro f hf; have := bit_of_and hS hf; cases f <;> first | rfl | exact absurd this (by decide))

@[simp ↓] theorem touches_with_entry_seq {S : Nat} {d0 : Device} (d : Device) (v0 : type_of% d.entry) (v1 : type_of% d.seq) (hS : 384 &&& S = 384) :
    Touches S d0 { d with entry := v0, seq := v1 } ↔ Touches S d0 d :=
  Touches.iff (by intro f hf; have := bit_of_and hS hf; cases f <;> first | rfl | exact absurd this (by decide))

@[simp ↓] theorem touches_with_boot_wdt_hkc {S : Nat} {d0 : Device} (d : Device) (v0 : type_of% d.boot) (v1 : type_of% d.wdt) (v2 : type_of% d.hkc) (hS : 67117064 &&& S = 67117064) :
    Touches S d0 { d with boot := v0, wdt := v1, hkc := v2 } ↔ Touches S d0 d :=
  Touches.iff (by intro f hf; have := bit_of_and hS hf; cases f <;> first | rfl | exact absurd this (by decide))

@[simp ↓] theorem touches_with_boot_ao_i3c {S : Nat} {d0 : Device} (d : Device) (v0 : type_of% d.boot) (v1 : type_of% d.ao) (v2 : type_of% d.i3c) (hS : 8519688 &&& S = 8519688) :
    Touches S d0 { d with boot := v0, ao := v1, i3c := v2 } ↔ Touches S d0 d :=
  Touches.iff (by intro f hf; have := bit_of_and hS hf; cases f <;> first | rfl | exact absurd this (by decide))

@[simp ↓] theorem touches_with_regs_ram_boot_flt_wdt_gau_ao {S : Nat} {d0 : Device} (d : Device) (v0 : type_of% d.regs) (v1 : type_of% d.ram) (v2 : type_of% d.boot) (v3 : type_of% d.flt) (v4 : type_of% d.wdt) (v5 : type_of% d.gau) (v6 : type_of% d.ao) (hS : 206859 &&& S = 206859) :
    Touches S d0 { d with regs := v0, ram := v1, boot := v2, flt := v3, wdt := v4, gau := v5, ao := v6 } ↔ Touches S d0 d :=
  Touches.iff (by intro f hf; have := bit_of_and hS hf; cases f <;> first | rfl | exact absurd this (by decide))

@[simp ↓] theorem touches_with_boot_ts_cycle {S : Nat} {d0 : Device} (d : Device) (v0 : type_of% d.boot) (v1 : type_of% d.ts) (v2 : type_of% d.cycle) (hS : 12884901896 &&& S = 12884901896) :
    Touches S d0 { d with boot := v0, ts := v1, cycle := v2 } ↔ Touches S d0 d :=
  Touches.iff (by intro f hf; have := bit_of_and hS hf; cases f <;> first | rfl | exact absurd this (by decide))

@[simp ↓] theorem touches_with_boot_ao {S : Nat} {d0 : Device} (d : Device) (v0 : type_of% d.boot) (v1 : type_of% d.ao) (hS : 131080 &&& S = 131080) :
    Touches S d0 { d with boot := v0, ao := v1 } ↔ Touches S d0 d :=
  Touches.iff (by intro f hf; have := bit_of_and hS hf; cases f <;> first | rfl | exact absurd this (by decide))

@[simp ↓] theorem touches_with_flt_safe_sheet {S : Nat} {d0 : Device} (d : Device) (v0 : type_of% d.flt) (v1 : type_of% d.safe) (v2 : type_of% d.sheet) (hS : 1610614784 &&& S = 1610614784) :
    Touches S d0 { d with flt := v0, safe := v1, sheet := v2 } ↔ Touches S d0 d :=
  Touches.iff (by intro f hf; have := bit_of_and hS hf; cases f <;> first | rfl | exact absurd this (by decide))

@[simp ↓] theorem touches_with_boot_hkc {S : Nat} {d0 : Device} (d : Device) (v0 : type_of% d.boot) (v1 : type_of% d.hkc) (hS : 67108872 &&& S = 67108872) :
    Touches S d0 { d with boot := v0, hkc := v1 } ↔ Touches S d0 d :=
  Touches.iff (by intro f hf; have := bit_of_and hS hf; cases f <;> first | rfl | exact absurd this (by decide))

@[simp ↓] theorem touches_with_phase_loop {S : Nat} {d0 : Device} (d : Device) (v0 : type_of% d.phase) (v1 : type_of% d.loop) (hS : 96 &&& S = 96) :
    Touches S d0 { d with phase := v0, loop := v1 } ↔ Touches S d0 d :=
  Touches.iff (by intro f hf; have := bit_of_and hS hf; cases f <;> first | rfl | exact absurd this (by decide))

@[simp ↓] theorem touches_with_syn_ts_cycle {S : Nat} {d0 : Device} (d : Device) (v0 : type_of% d.syn) (v1 : type_of% d.ts) (v2 : type_of% d.cycle) (hS : 12886999040 &&& S = 12886999040) :
    Touches S d0 { d with syn := v0, ts := v1, cycle := v2 } ↔ Touches S d0 d :=
  Touches.iff (by intro f hf; have := bit_of_and hS hf; cases f <;> first | rfl | exact absurd this (by decide))

/-- From a mask to a list of the kinds of state that may change. -/
theorem Touches.changesOnly {m : Nat} {d e : Device} {l : List Field} (h : Touches m d e)
    (hl : ∀ f : Field, f ∉ l → m.testBit f.idx = false) : ChangesOnly l d e := fun f hf => h f (hl f hf)

end Sys2Proof.Machine
end

