-- ==== Sys2Proof/Laws/FramesControl.lean ====
section
/-! SUPPORT. What each operation of phases, loops, sequencer, protection and temperature may change: one lemma an operation, with the mask of the kinds of state that
it may touch. -/

set_option maxRecDepth 4000
set_option linter.unusedTactic false
set_option linter.unreachableTactic false

namespace Sys2Proof.Machine
open Sys2Proof

@[simp ↓] theorem Device.setReg_touch {S : Nat} {d0 : Device} (d : Device) (a : Nat) (w : Word) (hS : 1 &&& S = 1) :
    Touches S d0 (Device.setReg d a w) ↔ Touches S d0 d := by
  refine Touches.lift (m := 1) ?_ hS
  simp [Device.setReg]

@[simp ↓] theorem Device.setRegBits_touch {S : Nat} {d0 : Device} (d : Device) (a hi lo v : Nat) (hS : 1 &&& S = 1) :
    Touches S d0 (Device.setRegBits d a hi lo v) ↔ Touches S d0 d := by
  refine Touches.lift (m := 1) ?_ hS
  simp [Device.setRegBits]

@[simp ↓] theorem Device.ramPut_touch {S : Nat} {d0 : Device} (d : Device) (a : Nat) (w : Word) (hS : 2 &&& S = 2) :
    Touches S d0 (Device.ramPut d a w) ↔ Touches S d0 d := by
  refine Touches.lift (m := 2) ?_ hS
  simp [Device.ramPut]

@[simp ↓] theorem Device.draw_touch {S : Nat} {d0 : Device} (d : Device) (hS : 17179869184 &&& S = 17179869184) :
    Touches S d0 (Device.draw d).2 ↔ Touches S d0 d := by
  refine Touches.lift (m := 17179869184) ?_ hS
  simp [Device.draw]

@[simp ↓] theorem Device.updHdr_touch {S : Nat} {d0 : Device} (d : Device) (p : Fin 256) (f : PageHdr → PageHdr) (hS : 4 &&& S = 4) :
    Touches S d0 (Device.updHdr d p f) ↔ Touches S d0 d := by
  refine Touches.lift (m := 4) ?_ hS
  simp [Device.updHdr]

@[simp ↓] theorem Device.setErr_touch {S : Nat} {d0 : Device} (d : Device) (p : Nat) (m : Word) (hS : 4 &&& S = 4) :
    Touches S d0 (Device.setErr d p m) ↔ Touches S d0 d := by
  refine Touches.lift (m := 4) ?_ hS
  simp [Device.setErr]

@[simp ↓] theorem Device.transition_touch {S : Nat} {d0 : Device} (d : Device) (p : Nat) (c cause who : Nat) (hS : 2147483652 &&& S = 2147483652) :
    Touches S d0 (Device.transition d p c cause who) ↔ Touches S d0 d := by
  refine Touches.lift (m := 2147483652) ?_ hS
  simp [Device.transition]

@[simp ↓] theorem Device.syncState_touch {S : Nat} {d0 : Device} (d : Device) (p : Nat) (c cause who : Nat) (hS : 2147483652 &&& S = 2147483652) :
    Touches S d0 (Device.syncState d p c cause who) ↔ Touches S d0 d := by
  refine Touches.lift (m := 2147483652) ?_ hS
  simp [Device.syncState]

@[simp ↓] theorem Device.whenLive_touch {S : Nat} {d0 : Device} (d : Device) (f : Device → Device)
    (h : ∀ e, Touches S d0 (f e) ↔ Touches S d0 e) : Touches S d0 (d.whenLive f) ↔ Touches S d0 d := by
  unfold Device.whenLive; split <;> simp [h]

@[simp ↓] theorem Device.iff_touch {S : Nat} {d0 : Device} (d : Device) (c : Bool) (f : Device → Device)
    (h : ∀ e, Touches S d0 (f e) ↔ Touches S d0 e) : Touches S d0 (d.iff c f) ↔ Touches S d0 d := by
  unfold Device.iff; split <;> simp [h]

@[simp ↓] theorem Device.send_touch {S : Nat} {d0 : Device} (d : Device) (o : Outgoing) (hS : 34359738368 &&& S = 34359738368) :
    Touches S d0 (Device.send d o) ↔ Touches S d0 d := by
  refine Touches.lift (m := 34359738368) ?_ hS
  simp [Device.send]

@[simp ↓] theorem Device.latchCause_touch {S : Nat} {d0 : Device} (d : Device) (i code : Nat) (hS : 131072 &&& S = 131072) :
    Touches S d0 (Device.latchCause d i code) ↔ Touches S d0 d := by
  refine Touches.lift (m := 131072) ?_ hS
  simp [Device.latchCause]

@[simp ↓] theorem Device.latchInst_touch {S : Nat} {d0 : Device} (d : Device) (k : Nat) (hS : 131072 &&& S = 131072) :
    Touches S d0 (Device.latchInst d k) ↔ Touches S d0 d := by
  refine Touches.lift (m := 131072) ?_ hS
  simp [Device.latchInst]

@[simp ↓] theorem Device.latchRequest_touch {S : Nat} {d0 : Device} (d : Device) (q : ResetReq) (hS : 131072 &&& S = 131072) :
    Touches S d0 (Device.latchRequest d q) ↔ Touches S d0 d := by
  refine Touches.lift (m := 131072) ?_ hS
  unfold Device.latchRequest; (repeat' split) <;> simp

@[simp ↓] theorem Device.requestReset_touch {S : Nat} {d0 : Device} (d : Device) (q : ResetReq) (hS : 131080 &&& S = 131080) :
    Touches S d0 (Device.requestReset d q) ↔ Touches S d0 d := by
  refine Touches.lift (m := 131080) ?_ hS
  simp [Device.requestReset]

@[simp ↓] theorem Device.evcSync_touch {S : Nat} {d0 : Device} (d : Device) (cause : Nat) (who : Nat) (hS : 2147483652 &&& S = 2147483652) :
    Touches S d0 (Device.evcSync d cause who) ↔ Touches S d0 d := by
  refine Touches.lift (m := 2147483652) ?_ hS
  simp [Device.evcSync]

@[simp ↓] theorem Device.updSrc_touch {S : Nat} {d0 : Device} (d : Device) (s : Fin 256) (f : EvSource → EvSource) (hS : 4096 &&& S = 4096) :
    Touches S d0 (Device.updSrc d s f) ↔ Touches S d0 d := by
  refine Touches.lift (m := 4096) ?_ hS
  simp [Device.updSrc]

@[simp ↓] theorem Device.raise_touch {S : Nat} {d0 : Device} (d : Device) (s : Nat) (p : Word) (hS : 2147487748 &&& S = 2147487748) :
    Touches S d0 (Device.raise d s p) ↔ Touches S d0 d := by
  refine Touches.lift (m := 2147487748) ?_ hS
  simp [Device.raise]

@[simp ↓] theorem Device.pmcBump_touch {S : Nat} {d0 : Device} (d : Device) (c : Fin 64) (n : Nat) (hS : 2148536324 &&& S = 2148536324) :
    Touches S d0 (Device.pmcBump d c n).1 ↔ Touches S d0 d := by
  refine Touches.lift (m := 2148536324) ?_ hS
  simp [Device.pmcBump]

@[simp ↓] theorem Device.pmcAdd_touch {S : Nat} {d0 : Device} (d : Device) (c : Fin 64) (n : Nat) (hS : 2148536324 &&& S = 2148536324) :
    Touches S d0 (Device.pmcAdd d c n) ↔ Touches S d0 d := by
  refine Touches.lift (m := 2148536324) ?_ hS
  unfold Device.pmcAdd; repeat' first | (simp; done) | split | dsimp only | refine (touches_foldFin _ _ fun e i => ?_).2 ?_ | refine (touches_foldl _ _ _ fun e i => ?_).2 ?_

@[simp ↓] theorem Device.pmcCount_touch {S : Nat} {d0 : Device} (d : Device) (ev inst n : Nat) (hS : 2148536324 &&& S = 2148536324) :
    Touches S d0 (Device.pmcCount d ev inst n) ↔ Touches S d0 d := by
  refine Touches.lift (m := 2148536324) ?_ hS
  simp [Device.pmcCount]

@[simp ↓] theorem Device.pmcCountAll_touch {S : Nat} {d0 : Device} (d : Device) (ev n : Nat) (hS : 2148536324 &&& S = 2148536324) :
    Touches S d0 (Device.pmcCountAll d ev n) ↔ Touches S d0 d := by
  refine Touches.lift (m := 2148536324) ?_ hS
  simp [Device.pmcCountAll]

@[simp ↓] theorem Device.pmcOccupancy_touch {S : Nat} {d0 : Device} (d : Device) (ev : Nat) (inst : Option Nat) (n cyc : Nat) (hS : 2148536324 &&& S = 2148536324) :
    Touches S d0 (Device.pmcOccupancy d ev inst n cyc) ↔ Touches S d0 d := by
  refine Touches.lift (m := 2148536324) ?_ hS
  unfold Device.pmcOccupancy; repeat' first | (simp; done) | split | dsimp only | refine (touches_foldFin _ _ fun e i => ?_).2 ?_ | refine (touches_foldl _ _ _ fun e i => ?_).2 ?_

@[simp ↓] theorem Device.sendTlp_touch {S : Nat} {d0 : Device} (d : Device) (o : Outgoing) (hS : 36508274692 &&& S = 36508274692) :
    Touches S d0 (Device.sendTlp d o) ↔ Touches S d0 d := by
  refine Touches.lift (m := 36508274692) ?_ hS
  simp [Device.sendTlp]

@[simp ↓] theorem Device.msix_touch {S : Nat} {d0 : Device} (d : Device) (v : Fin 16) (hS : 36512468996 &&& S = 36512468996) :
    Touches S d0 (Device.msix d v) ↔ Touches S d0 d := by
  refine Touches.lift (m := 36512468996) ?_ hS
  simp [Device.msix]

@[simp ↓] theorem Device.updTlm_touch {S : Nat} {d0 : Device} (d : Device) (f : Tlm → Tlm) (hS : 524288 &&& S = 524288) :
    Touches S d0 (Device.updTlm d f) ↔ Touches S d0 d := by
  refine Touches.lift (m := 524288) ?_ hS
  simp [Device.updTlm]

@[simp ↓] theorem Device.putRecord_touch {S : Nat} {d0 : Device} (d : Device) (a : Nat) (ws : Vector Word 8) (hS : 2 &&& S = 2) :
    Touches S d0 (Device.putRecord d a ws) ↔ Touches S d0 d := by
  refine Touches.lift (m := 2) ?_ hS
  simp [Device.putRecord]

@[simp ↓] theorem Device.rushPut_touch {S : Nat} {d0 : Device} (d : Device) (ws : Vector Word 8) (hS : 524290 &&& S = 524290) :
    Touches S d0 (Device.rushPut d ws) ↔ Touches S d0 d := by
  refine Touches.lift (m := 524290) ?_ hS
  simp [Device.rushPut]

@[simp ↓] theorem Device.rushTrigger_touch {S : Nat} {d0 : Device} (d : Device) (cause detail : Nat) (hS : 2148007942 &&& S = 2148007942) :
    Touches S d0 (Device.rushTrigger d cause detail) ↔ Touches S d0 d := by
  refine Touches.lift (m := 2148007942) ?_ hS
  simp [Device.rushTrigger]

@[simp ↓] theorem Device.dayLoop_touch {S : Nat} {d0 : Device} (d : Device) (n : Fin 16) (f : DailyLoop → DailyLoop) (hS : 524288 &&& S = 524288) :
    Touches S d0 (Device.dayLoop d n f) ↔ Touches S d0 d := by
  refine Touches.lift (m := 524288) ?_ hS
  simp [Device.dayLoop]

@[simp ↓] theorem Device.dayDev_touch {S : Nat} {d0 : Device} (d : Device) (f : DailyDev → DailyDev) (hS : 524288 &&& S = 524288) :
    Touches S d0 (Device.dayDev d f) ↔ Touches S d0 d := by
  refine Touches.lift (m := 524288) ?_ hS
  simp [Device.dayDev]

@[simp ↓] theorem Device.updPh_touch {S : Nat} {d0 : Device} (d : Device) (k : Fin 64) (f : Phase → Phase) (hS : 32 &&& S = 32) :
    Touches S d0 (Device.updPh d k f) ↔ Touches S d0 d := by
  refine Touches.lift (m := 32) ?_ hS
  simp [Device.updPh]

@[simp ↓] theorem Device.updLp_touch {S : Nat} {d0 : Device} (d : Device) (n : Fin 16) (f : Loop → Loop) (hS : 64 &&& S = 64) :
    Touches S d0 (Device.updLp d n f) ↔ Touches S d0 d := by
  refine Touches.lift (m := 64) ?_ hS
  simp [Device.updLp]

@[simp ↓] theorem Device.takeImon_touch {S : Nat} {d0 : Device} (d : Device) (k : Fin 64) (x : Imon) (hS : 32 &&& S = 32) :
    Touches S d0 (Device.takeImon d k x) ↔ Touches S d0 d := by
  refine Touches.lift (m := 32) ?_ hS
  simp [Device.takeImon]

@[simp ↓] theorem Device.takeLast_touch {S : Nat} {d0 : Device} (d : Device) (k : Fin 64) (l : List Imon) (hS : 32 &&& S = 32) :
    Touches S d0 (Device.takeLast d k l) ↔ Touches S d0 d := by
  refine Touches.lift (m := 32) ?_ hS
  unfold Device.takeLast; (repeat' split) <;> simp

@[simp ↓] theorem Device.takeSamples_touch {S : Nat} {d0 : Device} (d : Device) (n : Fin 16) (x : LoopSamples) (hS : 96 &&& S = 96) :
    Touches S d0 (Device.takeSamples d n x) ↔ Touches S d0 d := by
  refine Touches.lift (m := 96) ?_ hS
  simp [Device.takeSamples]

@[simp ↓] theorem Device.lendEnded_touch {S : Nat} {d0 : Device} (d : Device) (n : Fin 16) (hS : 2147487748 &&& S = 2147487748) :
    Touches S d0 (Device.lendEnded d n) ↔ Touches S d0 d := by
  refine Touches.lift (m := 2147487748) ?_ hS
  simp [Device.lendEnded]

@[simp ↓] theorem Device.lendRecord_touch {S : Nat} {d0 : Device} (d : Device) (k : Fin 64) (r : LendResult) (hS : 2147487844 &&& S = 2147487844) :
    Touches S d0 (Device.lendRecord d k r) ↔ Touches S d0 d := by
  refine Touches.lift (m := 2147487844) ?_ hS
  unfold Device.lendRecord; (repeat' split) <;> simp

@[simp ↓] theorem Device.phaseTo_touch {S : Nat} {d0 : Device} (d : Device) (k : Fin 64) (st : PhaseState) (cause : Nat) (who : Nat) (hS : 2148536420 &&& S = 2148536420) :
    Touches S d0 (Device.phaseTo d k st cause who) ↔ Touches S d0 d := by
  refine Touches.lift (m := 2148536420) ?_ hS
  unfold Device.phaseTo; (repeat' split) <;> simp

@[simp ↓] theorem Device.phaseDisable_touch {S : Nat} {d0 : Device} (d : Device) (k : Fin 64) (cause : Nat) (who : Nat) (hS : 2148536420 &&& S = 2148536420) :
    Touches S d0 (Device.phaseDisable d k cause who) ↔ Touches S d0 d := by
  refine Touches.lift (m := 2148536420) ?_ hS
  unfold Device.phaseDisable; (repeat' split) <;> simp

@[simp ↓] theorem Device.phaseLend_touch {S : Nat} {d0 : Device} (d : Device) (k : Fin 64) (hS : 2148536420 &&& S = 2148536420) :
    Touches S d0 (Device.phaseLend d k) ↔ Touches S d0 d := by
  refine Touches.lift (m := 2148536420) ?_ hS
  unfold Device.phaseLend; (repeat' split) <;> simp

@[simp ↓] theorem Device.phaseShed_touch {S : Nat} {d0 : Device} (d : Device) (k : Fin 64) (hS : 2148536420 &&& S = 2148536420) :
    Touches S d0 (Device.phaseShed d k) ↔ Touches S d0 d := by
  refine Touches.lift (m := 2148536420) ?_ hS
  simp [Device.phaseShed]

@[simp ↓] theorem Device.phaseJoin_touch {S : Nat} {d0 : Device} (d : Device) (k : Fin 64) (hS : 2148536420 &&& S = 2148536420) :
    Touches S d0 (Device.phaseJoin d k) ↔ Touches S d0 d := by
  refine Touches.lift (m := 2148536420) ?_ hS
  unfold Device.phaseJoin; (repeat' split) <;> simp

@[simp ↓] theorem Device.phaseFail_touch {S : Nat} {d0 : Device} (d : Device) (k : Fin 64) (c cause : Nat) (hS : 2149060708 &&& S = 2149060708) :
    Touches S d0 (Device.phaseFail d k c cause) ↔ Touches S d0 d := by
  refine Touches.lift (m := 2149060708) ?_ hS
  unfold Device.phaseFail; repeat' first | (simp; done) | split | dsimp only | refine (touches_foldFin _ _ fun e i => ?_).2 ?_ | refine (touches_foldl _ _ _ fun e i => ?_).2 ?_

@[simp ↓] theorem Device.phaseCrowbar_touch {S : Nat} {d0 : Device} (d : Device) (k : Fin 64) (hS : 2148536420 &&& S = 2148536420) :
    Touches S d0 (Device.phaseCrowbar d k) ↔ Touches S d0 d := by
  refine Touches.lift (m := 2148536420) ?_ hS
  unfold Device.phaseCrowbar; (repeat' split) <;> simp

@[simp ↓] theorem Device.phaseForce_touch {S : Nat} {d0 : Device} (d : Device) (k : Fin 64) (lv : Level) (hS : 2148536420 &&& S = 2148536420) :
    Touches S d0 (Device.phaseForce d k lv) ↔ Touches S d0 d := by
  refine Touches.lift (m := 2148536420) ?_ hS
  unfold Device.phaseForce; (repeat' split) <;> simp

@[simp ↓] theorem Device.loadPeak_touch {S : Nat} {d0 : Device} (d : Device) (k : Fin 64) (hS : 32 &&& S = 32) :
    Touches S d0 (Device.loadPeak d k) ↔ Touches S d0 d := by
  refine Touches.lift (m := 32) ?_ hS
  simp [Device.loadPeak]

@[simp ↓] theorem Device.loadPeaks_touch {S : Nat} {d0 : Device} (d : Device) (n : Fin 16) (hS : 32 &&& S = 32) :
    Touches S d0 (Device.loadPeaks d n) ↔ Touches S d0 d := by
  refine Touches.lift (m := 32) ?_ hS
  simp [Device.loadPeaks]

@[simp ↓] theorem Device.learn_touch {S : Nat} {d0 : Device} (d : Device) (k : Fin 64) (off : OffTime) (hS : 32 &&& S = 32) :
    Touches S d0 (Device.learn d k off) ↔ Touches S d0 d := by
  refine Touches.lift (m := 32) ?_ hS
  simp [Device.learn]

@[simp ↓] theorem Device.offEnds_touch {S : Nat} {d0 : Device} (d : Device) (k : Fin 64) (off : OffTime) (hS : 32 &&& S = 32) :
    Touches S d0 (Device.offEnds d k off) ↔ Touches S d0 d := by
  refine Touches.lift (m := 32) ?_ hS
  simp [Device.offEnds]

@[simp ↓] theorem Device.leadingEdge_touch {S : Nat} {d0 : Device} (d : Device) (k : Fin 64) (off : OffTime) (hS : 2148536356 &&& S = 2148536356) :
    Touches S d0 (Device.leadingEdge d k off) ↔ Touches S d0 d := by
  refine Touches.lift (m := 2148536356) ?_ hS
  simp [Device.leadingEdge]

@[simp ↓] theorem Device.judgeOpen_touch {S : Nat} {d0 : Device} (d : Device) (k : Fin 64) (judged : List Rat) (hS : 32 &&& S = 32) :
    Touches S d0 (Device.judgeOpen d k judged) ↔ Touches S d0 d := by
  refine Touches.lift (m := 32) ?_ hS
  unfold Device.judgeOpen; (repeat' split) <;> simp

@[simp ↓] theorem Device.trailingEdge_touch {S : Nat} {d0 : Device} (d : Device) (k : Fin 64) (ton : Nat) (on : OnTime) (dmax : Bool) (hS : 32 &&& S = 32) :
    Touches S d0 (Device.trailingEdge d k ton on dmax) ↔ Touches S d0 d := by
  refine Touches.lift (m := 32) ?_ hS
  simp [Device.trailingEdge]

@[simp ↓] theorem Device.comparatorTrip_touch {S : Nat} {d0 : Device} (d : Device) (k : Fin 64) (ton : Nat) (diff : Int) (on : OnTime) (hS : 32 &&& S = 32) :
    Touches S d0 (Device.comparatorTrip d k ton diff on) ↔ Touches S d0 d := by
  refine Touches.lift (m := 32) ?_ hS
  simp [Device.comparatorTrip]

@[simp ↓] theorem Device.diodeZero_touch {S : Nat} {d0 : Device} (d : Device) (k : Fin 64) (x : Imon) (hS : 32 &&& S = 32) :
    Touches S d0 (Device.diodeZero d k x) ↔ Touches S d0 d := by
  refine Touches.lift (m := 32) ?_ hS
  simp [Device.diodeZero]

@[simp ↓] theorem Device.earlyEdge_touch {S : Nat} {d0 : Device} (d : Device) (k : Fin 64) (off : OffTime) (hS : 2148536356 &&& S = 2148536356) :
    Touches S d0 (Device.earlyEdge d k off) ↔ Touches S d0 d := by
  refine Touches.lift (m := 2148536356) ?_ hS
  simp [Device.earlyEdge]

@[simp ↓] theorem Device.joinComplete_touch {S : Nat} {d0 : Device} (d : Device) (k : Fin 64) (hS : 2148536420 &&& S = 2148536420) :
    Touches S d0 (Device.joinComplete d k) ↔ Touches S d0 d := by
  refine Touches.lift (m := 2148536420) ?_ hS
  simp [Device.joinComplete]

@[simp ↓] theorem Device.drainDone_touch {S : Nat} {d0 : Device} (d : Device) (k : Fin 64) (hS : 2148536420 &&& S = 2148536420) :
    Touches S d0 (Device.drainDone d k) ↔ Touches S d0 d := by
  refine Touches.lift (m := 2148536420) ?_ hS
  unfold Device.drainDone; repeat' first | (simp; done) | split | dsimp only | refine (touches_foldFin _ _ fun e i => ?_).2 ?_ | refine (touches_foldl _ _ _ fun e i => ?_).2 ?_

@[simp ↓] theorem Device.handoffCheck_touch {S : Nat} {d0 : Device} (d : Device) (k : Fin 64) (hS : 2148536420 &&& S = 2148536420) :
    Touches S d0 (Device.handoffCheck d k) ↔ Touches S d0 d := by
  refine Touches.lift (m := 2148536420) ?_ hS
  simp [Device.handoffCheck]

@[simp ↓] theorem Device.countDetect_touch {S : Nat} {d0 : Device} (d : Device) (k : Fin 64) (det : PhaseDetect) (hS : 32 &&& S = 32) :
    Touches S d0 (Device.countDetect d k det) ↔ Touches S d0 d := by
  refine Touches.lift (m := 32) ?_ hS
  unfold Device.countDetect; (repeat' split) <;> simp

@[simp ↓] theorem Device.clrFail_touch {S : Nat} {d0 : Device} (d : Device) (k : Fin 64) (x : Option FailSeen) (who : Nat) (hS : 2148536420 &&& S = 2148536420) :
    Touches S d0 (Device.clrFail d k x who) ↔ Touches S d0 d := by
  refine Touches.lift (m := 2148536420) ?_ hS
  unfold Device.clrFail; (repeat' split) <;> simp

@[simp ↓] theorem Device.takeOwn_touch {S : Nat} {d0 : Device} (d : Device) (k : Fin 64) (hS : 32 &&& S = 32) :
    Touches S d0 (Device.takeOwn d k) ↔ Touches S d0 d := by
  refine Touches.lift (m := 32) ?_ hS
  simp [Device.takeOwn]

@[simp ↓] theorem Device.countSlot_touch {S : Nat} {d0 : Device} (d : Device) (ev inst : Nat) (hS : 2148536324 &&& S = 2148536324) :
    Touches S d0 (Device.countSlot d ev inst) ↔ Touches S d0 d := by
  refine Touches.lift (m := 2148536324) ?_ hS
  simp [Device.countSlot]

@[simp ↓] theorem Device.useSlot_touch {S : Nat} {d0 : Device} (d : Device) (w : Nat) (hS : 1048576 &&& S = 1048576) :
    Touches S d0 (Device.useSlot d w) ↔ Touches S d0 d := by
  refine Touches.lift (m := 1048576) ?_ hS
  simp [Device.useSlot]

@[simp ↓] theorem Device.passSlot_touch {S : Nat} {d0 : Device} (d : Device) (frame w : Nat) (hS : 2148536324 &&& S = 2148536324) :
    Touches S d0 (Device.passSlot d frame w) ↔ Touches S d0 d := by
  refine Touches.lift (m := 2148536324) ?_ hS
  unfold Device.passSlot; (repeat' split) <;> simp

@[simp ↓] theorem Device.passSlots_touch {S : Nat} {d0 : Device} (d : Device) (hS : 2148536324 &&& S = 2148536324) :
    Touches S d0 (Device.passSlots d) ↔ Touches S d0 d := by
  refine Touches.lift (m := 2148536324) ?_ hS
  simp [Device.passSlots]

@[simp ↓] theorem Device.targetStep_touch {S : Nat} {d0 : Device} (d : Device) (n : Fin 16) (hS : 64 &&& S = 64) :
    Touches S d0 (Device.targetStep d n) ↔ Touches S d0 d := by
  refine Touches.lift (m := 64) ?_ hS
  simp [Device.targetStep]

@[simp ↓] theorem Device.softStep_touch {S : Nat} {d0 : Device} (d : Device) (n : Fin 16) (hS : 64 &&& S = 64) :
    Touches S d0 (Device.softStep d n) ↔ Touches S d0 d := by
  refine Touches.lift (m := 64) ?_ hS
  simp [Device.softStep]

@[simp ↓] theorem Device.shortStep_touch {S : Nat} {d0 : Device} (d : Device) (n : Fin 16) (hS : 64 &&& S = 64) :
    Touches S d0 (Device.shortStep d n) ↔ Touches S d0 d := by
  refine Touches.lift (m := 64) ?_ hS
  simp [Device.shortStep]

@[simp ↓] theorem Device.updateWith_touch {S : Nat} {d0 : Device} (d : Device) (n : Fin 16) (raw : List Int) (hS : 96 &&& S = 96) :
    Touches S d0 (Device.updateWith d n raw) ↔ Touches S d0 d := by
  refine Touches.lift (m := 96) ?_ hS
  simp [Device.updateWith]

@[simp ↓] theorem Device.loopUpdate_touch {S : Nat} {d0 : Device} (d : Device) (n : Fin 16) (u : UpdateSlot) (hS : 2148536420 &&& S = 2148536420) :
    Touches S d0 (Device.loopUpdate d n u) ↔ Touches S d0 d := by
  refine Touches.lift (m := 2148536420) ?_ hS
  simp [Device.loopUpdate]

@[simp ↓] theorem Device.balance_touch {S : Nat} {d0 : Device} (d : Device) (k : Fin 64) (frame : Nat) (hS : 2148536356 &&& S = 2148536356) :
    Touches S d0 (Device.balance d k frame) ↔ Touches S d0 d := by
  refine Touches.lift (m := 2148536356) ?_ hS
  unfold Device.balance; repeat' first | (simp; done) | split | dsimp only | refine (touches_foldFin _ _ fun e i => ?_).2 ?_ | refine (touches_foldl _ _ _ fun e i => ?_).2 ?_

@[simp ↓] theorem Device.copyBank_touch {S : Nat} {d0 : Device} (d : Device) (n : Fin 16) (hS : 1 &&& S = 1) :
    Touches S d0 (Device.copyBank d n) ↔ Touches S d0 d := by
  refine Touches.lift (m := 1) ?_ hS
  simp [Device.copyBank]

@[simp ↓] theorem Device.bankCommit_touch {S : Nat} {d0 : Device} (d : Device) (n : Fin 16) (hS : 68 &&& S = 68) :
    Touches S d0 (Device.bankCommit d n) ↔ Touches S d0 d := by
  refine Touches.lift (m := 68) ?_ hS
  simp [Device.bankCommit]

@[simp ↓] theorem Device.bankSwap_touch {S : Nat} {d0 : Device} (d : Device) (n : Fin 16) (hS : 2148536389 &&& S = 2148536389) :
    Touches S d0 (Device.bankSwap d n) ↔ Touches S d0 d := by
  refine Touches.lift (m := 2148536389) ?_ hS
  simp [Device.bankSwap]

@[simp ↓] theorem Device.bankInit_touch {S : Nat} {d0 : Device} (d : Device) (n : Fin 16) (hS : 69 &&& S = 69) :
    Touches S d0 (Device.bankInit d n) ↔ Touches S d0 d := by
  refine Touches.lift (m := 69) ?_ hS
  simp [Device.bankInit]

@[simp ↓] theorem Device.loopTo_touch {S : Nat} {d0 : Device} (d : Device) (n : Fin 16) (st : LoopState) (cause : Nat) (who : Nat) (hS : 2148012102 &&& S = 2148012102) :
    Touches S d0 (Device.loopTo d n st cause who) ↔ Touches S d0 d := by
  refine Touches.lift (m := 2148012102) ?_ hS
  simp [Device.loopTo]

@[simp ↓] theorem Device.loopDisablePhases_touch {S : Nat} {d0 : Device} (d : Device) (n : Fin 16) (cause : Nat) (hS : 2148536420 &&& S = 2148536420) :
    Touches S d0 (Device.loopDisablePhases d n cause) ↔ Touches S d0 d := by
  refine Touches.lift (m := 2148536420) ?_ hS
  simp [Device.loopDisablePhases]

@[simp ↓] theorem Device.enterRamp_touch {S : Nat} {d0 : Device} (d : Device) (n : Fin 16) (vpb : Int) (cause : Nat) (hS : 2148012102 &&& S = 2148012102) :
    Touches S d0 (Device.enterRamp d n vpb cause) ↔ Touches S d0 d := by
  refine Touches.lift (m := 2148012102) ?_ hS
  simp [Device.enterRamp]

@[simp ↓] theorem Device.prebiasTake_touch {S : Nat} {d0 : Device} (d : Device) (n : Fin 16) (code : Nat) (hS : 2148012102 &&& S = 2148012102) :
    Touches S d0 (Device.prebiasTake d n code) ↔ Touches S d0 d := by
  refine Touches.lift (m := 2148012102) ?_ hS
  simp [Device.prebiasTake]

@[simp ↓] theorem Device.prebiasDone_touch {S : Nat} {d0 : Device} (d : Device) (n : Fin 16) (codes : List Nat) (hS : 2148012102 &&& S = 2148012102) :
    Touches S d0 (Device.prebiasDone d n codes) ↔ Touches S d0 d := by
  refine Touches.lift (m := 2148012102) ?_ hS
  simp [Device.prebiasDone]

@[simp ↓] theorem Device.fltSet_touch {S : Nat} {d0 : Device} (d : Device) (n : Fin 16) (b : Nat) (hS : 64 &&& S = 64) :
    Touches S d0 (Device.fltSet d n b) ↔ Touches S d0 d := by
  refine Touches.lift (m := 64) ?_ hS
  simp [Device.fltSet]

@[simp ↓] theorem Device.cueSync_touch {S : Nat} {d0 : Device} (d : Device) (hS : 2147483652 &&& S = 2147483652) :
    Touches S d0 (Device.cueSync d) ↔ Touches S d0 d := by
  refine Touches.lift (m := 2147483652) ?_ hS
  simp [Device.cueSync]

@[simp ↓] theorem Device.crowbarOne_touch {S : Nat} {d0 : Device} (d : Device) (n : Fin 16) (hS : 2149060710 &&& S = 2149060710) :
    Touches S d0 (Device.crowbarOne d n) ↔ Touches S d0 d := by
  refine Touches.lift (m := 2149060710) ?_ hS
  simp [Device.crowbarOne]

@[simp ↓] theorem Device.crowbar_touch {S : Nat} {d0 : Device} (d : Device) (n : Fin 16) (hS : 2149060710 &&& S = 2149060710) :
    Touches S d0 (Device.crowbar d n) ↔ Touches S d0 d := by
  refine Touches.lift (m := 2149060710) ?_ hS
  simp [Device.crowbar]

@[simp ↓] theorem Device.loopStart_touch {S : Nat} {d0 : Device} (d : Device) (n : Fin 16) (cause : Nat) (hS : 2149060710 &&& S = 2149060710) :
    Touches S d0 (Device.loopStart d n cause) ↔ Touches S d0 d := by
  refine Touches.lift (m := 2149060710) ?_ hS
  simp [Device.loopStart]

@[simp ↓] theorem Device.loopEnable_touch {S : Nat} {d0 : Device} (d : Device) (n : Fin 16) (hS : 2149060710 &&& S = 2149060710) :
    Touches S d0 (Device.loopEnable d n) ↔ Touches S d0 d := by
  refine Touches.lift (m := 2149060710) ?_ hS
  unfold Device.loopEnable; repeat' first | (simp; done) | split | dsimp only | refine (touches_foldFin _ _ fun e i => ?_).2 ?_ | refine (touches_foldl _ _ _ fun e i => ?_).2 ?_

@[simp ↓] theorem Device.loopDrain_touch {S : Nat} {d0 : Device} (d : Device) (n : Fin 16) (cause : Nat) (hS : 2149060710 &&& S = 2149060710) :
    Touches S d0 (Device.loopDrain d n cause) ↔ Touches S d0 d := by
  refine Touches.lift (m := 2149060710) ?_ hS
  simp [Device.loopDrain]

@[simp ↓] theorem Device.loopSoftStop_touch {S : Nat} {d0 : Device} (d : Device) (n : Fin 16) (hS : 2149060710 &&& S = 2149060710) :
    Touches S d0 (Device.loopSoftStop d n) ↔ Touches S d0 d := by
  refine Touches.lift (m := 2149060710) ?_ hS
  unfold Device.loopSoftStop; repeat' first | (simp; done) | split | dsimp only | refine (touches_foldFin _ _ fun e i => ?_).2 ?_ | refine (touches_foldl _ _ _ fun e i => ?_).2 ?_

@[simp ↓] theorem Device.loopHardStop_touch {S : Nat} {d0 : Device} (d : Device) (n : Fin 16) (hS : 2149060710 &&& S = 2149060710) :
    Touches S d0 (Device.loopHardStop d n) ↔ Touches S d0 d := by
  refine Touches.lift (m := 2149060710) ?_ hS
  unfold Device.loopHardStop; repeat' first | (simp; done) | split | dsimp only | refine (touches_foldFin _ _ fun e i => ?_).2 ?_ | refine (touches_foldl _ _ _ fun e i => ?_).2 ?_

@[simp ↓] theorem Device.loopDrained_touch {S : Nat} {d0 : Device} (d : Device) (n : Fin 16) (hS : 2148012102 &&& S = 2148012102) :
    Touches S d0 (Device.loopDrained d n) ↔ Touches S d0 d := by
  refine Touches.lift (m := 2148012102) ?_ hS
  simp [Device.loopDrained]

@[simp ↓] theorem Device.loopRestart_touch {S : Nat} {d0 : Device} (d : Device) (n : Fin 16) (hS : 2149060710 &&& S = 2149060710) :
    Touches S d0 (Device.loopRestart d n) ↔ Touches S d0 d := by
  refine Touches.lift (m := 2149060710) ?_ hS
  simp [Device.loopRestart]

@[simp ↓] theorem Device.loopFaultCleared_touch {S : Nat} {d0 : Device} (d : Device) (n : Fin 16) (hS : 2149060710 &&& S = 2149060710) :
    Touches S d0 (Device.loopFaultCleared d n) ↔ Touches S d0 d := by
  refine Touches.lift (m := 2149060710) ?_ hS
  simp [Device.loopFaultCleared]

@[simp ↓] theorem Device.fltClear_touch {S : Nat} {d0 : Device} (d : Device) (n : Fin 16) (w : Word) (ov otActive extActive : Bool) (hS : 2149060710 &&& S = 2149060710) :
    Touches S d0 (Device.fltClear d n w ov otActive extActive) ↔ Touches S d0 d := by
  refine Touches.lift (m := 2149060710) ?_ hS
  simp [Device.fltClear]

@[simp ↓] theorem Device.ovSample_touch {S : Nat} {d0 : Device} (d : Device) (n : Fin 16) (uv : Nat) (hS : 64 &&& S = 64) :
    Touches S d0 (Device.ovSample d n uv) ↔ Touches S d0 d := by
  refine Touches.lift (m := 64) ?_ hS
  simp [Device.ovSample]

@[simp ↓] theorem Device.releaseCount_touch {S : Nat} {d0 : Device} (d : Device) (n : Fin 16) (codes : List Nat) (hS : 64 &&& S = 64) :
    Touches S d0 (Device.releaseCount d n codes) ↔ Touches S d0 d := by
  refine Touches.lift (m := 64) ?_ hS
  simp [Device.releaseCount]

@[simp ↓] theorem Device.releaseOne_touch {S : Nat} {d0 : Device} (d : Device) (n : Fin 16) (forced : Fin 64 → Option Level) (hS : 2149060710 &&& S = 2149060710) :
    Touches S d0 (Device.releaseOne d n forced) ↔ Touches S d0 d := by
  refine Touches.lift (m := 2149060710) ?_ hS
  unfold Device.releaseOne; repeat' first | (simp; done) | split | dsimp only | refine (touches_foldFin _ _ fun e i => ?_).2 ?_ | refine (touches_foldl _ _ _ fun e i => ?_).2 ?_

@[simp ↓] theorem Device.requestPhases_touch {S : Nat} {d0 : Device} (d : Device) (n : Fin 16) (l : List (Fin 64)) (add : Bool) (hS : 2148536420 &&& S = 2148536420) :
    Touches S d0 (Device.requestPhases d n l add) ↔ Touches S d0 d := by
  refine Touches.lift (m := 2148536420) ?_ hS
  simp [Device.requestPhases]

@[simp ↓] theorem Device.addPhases_touch {S : Nat} {d0 : Device} (d : Device) (n : Fin 16) (cnt : Nat) (hS : 2148536420 &&& S = 2148536420) :
    Touches S d0 (Device.addPhases d n cnt) ↔ Touches S d0 d := by
  refine Touches.lift (m := 2148536420) ?_ hS
  simp [Device.addPhases]

@[simp ↓] theorem Device.requestAll_touch {S : Nat} {d0 : Device} (d : Device) (n : Fin 16) (hS : 2148536420 &&& S = 2148536420) :
    Touches S d0 (Device.requestAll d n) ↔ Touches S d0 d := by
  refine Touches.lift (m := 2148536420) ?_ hS
  simp [Device.requestAll]

@[simp ↓] theorem Device.assignSlots_touch {S : Nat} {d0 : Device} (d : Device) (n : Fin 16) (hS : 96 &&& S = 96) :
    Touches S d0 (Device.assignSlots d n) ↔ Touches S d0 d := by
  refine Touches.lift (m := 96) ?_ hS
  simp [Device.assignSlots]

@[simp ↓] theorem Device.countRescale_touch {S : Nat} {d0 : Device} (d : Device) (n : Fin 16) (hS : 96 &&& S = 96) :
    Touches S d0 (Device.countRescale d n) ↔ Touches S d0 d := by
  refine Touches.lift (m := 96) ?_ hS
  simp [Device.countRescale]

@[simp ↓] theorem Device.periodEnds_touch {S : Nat} {d0 : Device} (d : Device) (n : Fin 16) (per : PeriodSamples) (hS : 64 &&& S = 64) :
    Touches S d0 (Device.periodEnds d n per) ↔ Touches S d0 d := by
  refine Touches.lift (m := 64) ?_ hS
  simp [Device.periodEnds]

@[simp ↓] theorem Device.boundaryJoins_touch {S : Nat} {d0 : Device} (d : Device) (n : Fin 16) (hS : 2148536420 &&& S = 2148536420) :
    Touches S d0 (Device.boundaryJoins d n) ↔ Touches S d0 d := by
  refine Touches.lift (m := 2148536420) ?_ hS
  simp [Device.boundaryJoins]

@[simp ↓] theorem Device.shedDecide_touch {S : Nat} {d0 : Device} (d : Device) (n : Fin 16) (hS : 2148536420 &&& S = 2148536420) :
    Touches S d0 (Device.shedDecide d n) ↔ Touches S d0 d := by
  refine Touches.lift (m := 2148536420) ?_ hS
  unfold Device.shedDecide; (repeat' split) <;> simp

@[simp ↓] theorem Device.autoAdd_touch {S : Nat} {d0 : Device} (d : Device) (n : Fin 16) (hS : 2148536420 &&& S = 2148536420) :
    Touches S d0 (Device.autoAdd d n) ↔ Touches S d0 d := by
  refine Touches.lift (m := 2148536420) ?_ hS
  simp [Device.autoAdd]

@[simp ↓] theorem Device.shedCount_touch {S : Nat} {d0 : Device} (d : Device) (n : Fin 16) (hS : 64 &&& S = 64) :
    Touches S d0 (Device.shedCount d n) ↔ Touches S d0 d := by
  refine Touches.lift (m := 64) ?_ hS
  simp [Device.shedCount]

@[simp ↓] theorem Device.boundaryRequests_touch {S : Nat} {d0 : Device} (d : Device) (n : Fin 16) (hS : 2148536420 &&& S = 2148536420) :
    Touches S d0 (Device.boundaryRequests d n) ↔ Touches S d0 d := by
  refine Touches.lift (m := 2148536420) ?_ hS
  unfold Device.boundaryRequests; (repeat' split) <;> simp

@[simp ↓] theorem Device.cueReject_touch {S : Nat} {d0 : Device} (d : Device) (n : Fin 16) (p : Nat) (sw drop : Bool) (hS : 2148536325 &&& S = 2148536325) :
    Touches S d0 (Device.cueReject d n p sw drop) ↔ Touches S d0 d := by
  refine Touches.lift (m := 2148536325) ?_ hS
  simp [Device.cueReject]

@[simp ↓] theorem Device.cueRequests_touch {S : Nat} {d0 : Device} (d : Device) (n : Fin 16) (p : Nat) (sw : Bool) (t : Option CueTiming) (hS : 2149060709 &&& S = 2149060709) :
    Touches S d0 (Device.cueRequests d n p sw t) ↔ Touches S d0 d := by
  refine Touches.lift (m := 2149060709) ?_ hS
  simp [Device.cueRequests]

@[simp ↓] theorem Device.cueStep_touch {S : Nat} {d0 : Device} (d : Device) (n : Fin 16) (p : Nat) (hS : 2147483748 &&& S = 2147483748) :
    Touches S d0 (Device.cueStep d n p) ↔ Touches S d0 d := by
  refine Touches.lift (m := 2147483748) ?_ hS
  simp [Device.cueStep]

@[simp ↓] theorem Device.cue_touch {S : Nat} {d0 : Device} (d : Device) (n : Fin 16) (p : Nat) (sw : Bool) (t : Option CueTiming) (hS : 2149060709 &&& S = 2149060709) :
    Touches S d0 (Device.cue d n p sw t) ↔ Touches S d0 d := by
  refine Touches.lift (m := 2149060709) ?_ hS
  unfold Device.cue; (repeat' split) <;> simp

@[simp ↓] theorem Device.cueHoldEnd_touch {S : Nat} {d0 : Device} (d : Device) (n : Fin 16) (hS : 2147483716 &&& S = 2147483716) :
    Touches S d0 (Device.cueHoldEnd d n) ↔ Touches S d0 d := by
  refine Touches.lift (m := 2147483716) ?_ hS
  simp [Device.cueHoldEnd]

@[simp ↓] theorem Device.boundaryOpen_touch {S : Nat} {d0 : Device} (d : Device) (n : Fin 16) (per : PeriodSamples) (same : Coincident) (hS : 2149060709 &&& S = 2149060709) :
    Touches S d0 (Device.boundaryOpen d n per same) ↔ Touches S d0 d := by
  refine Touches.lift (m := 2149060709) ?_ hS
  unfold Device.boundaryOpen; dsimp only; (repeat' split) <;> simp

@[simp ↓] theorem Device.boundaryClose_touch {S : Nat} {d0 : Device} (d : Device) (n : Fin 16) (same : Coincident) (hS : 2148536421 &&& S = 2148536421) :
    Touches S d0 (Device.boundaryClose d n same) ↔ Touches S d0 d := by
  refine Touches.lift (m := 2148536421) ?_ hS
  unfold Device.boundaryClose; (repeat' split) <;> simp

@[simp ↓] theorem Device.putLoop_touch {S : Nat} {d0 : Device} (d : Device) (n : Fin 16) (o : Nat) (w : Word) (hS : 65 &&& S = 65) :
    Touches S d0 (Device.putLoop d n o w) ↔ Touches S d0 d := by
  refine Touches.lift (m := 65) ?_ hS
  simp [Device.putLoop]

@[simp ↓] theorem Device.loopSoftReset_touch {S : Nat} {d0 : Device} (d : Device) (n : Fin 16) (otActive extActive : Bool) (hS : 2149060710 &&& S = 2149060710) :
    Touches S d0 (Device.loopSoftReset d n otActive extActive) ↔ Touches S d0 d := by
  refine Touches.lift (m := 2149060710) ?_ hS
  simp [Device.loopSoftReset]

@[simp ↓] theorem Device.updCh_touch {S : Nat} {d0 : Device} (d : Device) (c : Fin 88) (f : Chan → Chan) (hS : 1024 &&& S = 1024) :
    Touches S d0 (Device.updCh d c f) ↔ Touches S d0 d := by
  refine Touches.lift (m := 1024) ?_ hS
  simp [Device.updCh]

@[simp ↓] theorem Device.chBreak_touch {S : Nat} {d0 : Device} (d : Device) (c : Fin 88) (plaus : Bool) (ex : List (Fin 88)) (hS : 2147488772 &&& S = 2147488772) :
    Touches S d0 (Device.chBreak d c plaus ex) ↔ Touches S d0 d := by
  refine Touches.lift (m := 2147488772) ?_ hS
  unfold Device.chBreak; repeat' first | (simp; done) | split | dsimp only | refine (touches_foldFin _ _ fun e i => ?_).2 ?_ | refine (touches_foldl _ _ _ fun e i => ?_).2 ?_

@[simp ↓] theorem Device.crossCheck_touch {S : Nat} {d0 : Device} (d : Device) (c : Fin 88) (hS : 1024 &&& S = 1024) :
    Touches S d0 (Device.crossCheck d c) ↔ Touches S d0 d := by
  refine Touches.lift (m := 1024) ?_ hS
  simp [Device.crossCheck]

@[simp ↓] theorem Device.standinCheck_touch {S : Nat} {d0 : Device} (d : Device) (c : Fin 88) (hS : 2147488772 &&& S = 2147488772) :
    Touches S d0 (Device.standinCheck d c) ↔ Touches S d0 d := by
  refine Touches.lift (m := 2147488772) ?_ hS
  unfold Device.standinCheck; (repeat' split) <;> simp

@[simp ↓] theorem Device.judgeChan_touch {S : Nat} {d0 : Device} (d : Device) (c : Fin 88) (hS : 2147488772 &&& S = 2147488772) :
    Touches S d0 (Device.judgeChan d c) ↔ Touches S d0 d := by
  refine Touches.lift (m := 2147488772) ?_ hS
  simp [Device.judgeChan]

@[simp ↓] theorem Device.derate_touch {S : Nat} {d0 : Device} (d : Device) (n : Fin 16) (hS : 2147488772 &&& S = 2147488772) :
    Touches S d0 (Device.derate d n) ↔ Touches S d0 d := by
  refine Touches.lift (m := 2147488772) ?_ hS
  unfold Device.derate; (repeat' split) <;> simp

@[simp ↓] theorem Device.tmonFalls_touch {S : Nat} {d0 : Device} (d : Device) (x : ThermFrame) (due : List (Fin 88)) (hS : 32 &&& S = 32) :
    Touches S d0 (Device.tmonFalls d x due) ↔ Touches S d0 d := by
  refine Touches.lift (m := 32) ?_ hS
  unfold Device.tmonFalls; repeat' first | (simp; done) | split | dsimp only | refine (touches_foldFin _ _ fun e i => ?_).2 ?_ | refine (touches_foldl _ _ _ fun e i => ?_).2 ?_

@[simp ↓] theorem Device.thermalFrame_touch {S : Nat} {d0 : Device} (d : Device) (x : ThermFrame) (hS : 2147488804 &&& S = 2147488804) :
    Touches S d0 (Device.thermalFrame d x) ↔ Touches S d0 d := by
  refine Touches.lift (m := 2147488804) ?_ hS
  simp [Device.thermalFrame]

@[simp ↓] theorem Device.thmClear_touch {S : Nat} {d0 : Device} (d : Device) (c : Fin 88) (who : Nat) (hS : 2147484676 &&& S = 2147484676) :
    Touches S d0 (Device.thmClear d c who) ↔ Touches S d0 d := by
  refine Touches.lift (m := 2147484676) ?_ hS
  unfold Device.thmClear; repeat' first | (simp; done) | split | dsimp only | refine (touches_foldFin _ _ fun e i => ?_).2 ?_ | refine (touches_foldl _ _ _ fun e i => ?_).2 ?_

@[simp ↓] theorem Device.thmSoftReset_touch {S : Nat} {d0 : Device} (d : Device) (who : Nat) (hS : 2147484677 &&& S = 2147484677) :
    Touches S d0 (Device.thmSoftReset d who) ↔ Touches S d0 d := by
  refine Touches.lift (m := 2147484677) ?_ hS
  simp [Device.thmSoftReset]

@[simp ↓] theorem Device.thmWritten_touch {S : Nat} {d0 : Device} (d : Device) (p o : Nat) (hS : 1024 &&& S = 1024) :
    Touches S d0 (Device.thmWritten d p o) ↔ Touches S d0 d := by
  refine Touches.lift (m := 1024) ?_ hS
  unfold Device.thmWritten; (repeat' split) <;> simp

@[simp ↓] theorem Device.updEn_touch {S : Nat} {d0 : Device} (d : Device) (i : Fin 128) (f : Entry → Entry) (hS : 128 &&& S = 128) :
    Touches S d0 (Device.updEn d i f) ↔ Touches S d0 d := by
  refine Touches.lift (m := 128) ?_ hS
  simp [Device.updEn]

@[simp ↓] theorem Device.transitionEnded_touch {S : Nat} {d0 : Device} (d : Device) (r : Nat) (hS : 2147488004 &&& S = 2147488004) :
    Touches S d0 (Device.transitionEnded d r) ↔ Touches S d0 d := by
  refine Touches.lift (m := 2147488004) ?_ hS
  simp [Device.transitionEnded]

@[simp ↓] theorem Device.seqTo_touch {S : Nat} {d0 : Device} (d : Device) (st : SeqState) (cause : Nat) (who : Nat) (hS : 2147483908 &&& S = 2147483908) :
    Touches S d0 (Device.seqTo d st cause who) ↔ Touches S d0 d := by
  refine Touches.lift (m := 2147483908) ?_ hS
  simp [Device.seqTo]

@[simp ↓] theorem Device.withRso_touch {S : Nat} {d0 : Device} (d : Device) (f : Rso → Rso) (hS : 512 &&& S = 512) :
    Touches S d0 (Device.withRso d f) ↔ Touches S d0 d := by
  refine Touches.lift (m := 512) ?_ hS
  simp [Device.withRso]

@[simp ↓] theorem Device.setPins_touch {S : Nat} {d0 : Device} (d : Device) (p : BitVec 32) (hS : 2147488260 &&& S = 2147488260) :
    Touches S d0 (Device.setPins d p) ↔ Touches S d0 d := by
  refine Touches.lift (m := 2147488260) ?_ hS
  simp [Device.setPins]

@[simp ↓] theorem Device.rsoSync_touch {S : Nat} {d0 : Device} (d : Device) (hS : 2147488260 &&& S = 2147488260) :
    Touches S d0 (Device.rsoSync d) ↔ Touches S d0 d := by
  refine Touches.lift (m := 2147488260) ?_ hS
  simp [Device.rsoSync]

@[simp ↓] theorem Device.seqLinesSync_touch {S : Nat} {d0 : Device} (d : Device) (hS : 2147488260 &&& S = 2147488260) :
    Touches S d0 (Device.seqLinesSync d) ↔ Touches S d0 d := by
  refine Touches.lift (m := 2147488260) ?_ hS
  simp [Device.seqLinesSync]

@[simp ↓] theorem Device.enTo_touch {S : Nat} {d0 : Device} (d : Device) (i : Fin 128) (st : EntryState) (cause : Nat) (hS : 2147488388 &&& S = 2147488388) :
    Touches S d0 (Device.enTo d i st cause) ↔ Touches S d0 d := by
  refine Touches.lift (m := 2147488388) ?_ hS
  simp [Device.enTo]

@[simp ↓] theorem Device.stopRail_touch {S : Nat} {d0 : Device} (d : Device) (i : Fin 128) (hard fail : Bool) (cause reading : Nat) (hS : 2149061350 &&& S = 2149061350) :
    Touches S d0 (Device.stopRail d i hard fail cause reading) ↔ Touches S d0 d := by
  refine Touches.lift (m := 2149061350) ?_ hS
  unfold Device.stopRail; (repeat' split) <;> simp

@[simp ↓] theorem Device.holdCheck_touch {S : Nat} {d0 : Device} (d : Device) (hS : 2147483908 &&& S = 2147483908) :
    Touches S d0 (Device.holdCheck d) ↔ Touches S d0 d := by
  refine Touches.lift (m := 2147483908) ?_ hS
  unfold Device.holdCheck; (repeat' split) <;> simp

@[simp ↓] theorem Device.recordFail_touch {S : Nat} {d0 : Device} (d : Device) (i : Fin 128) (c : Nat) (hS : 2147488004 &&& S = 2147488004) :
    Touches S d0 (Device.recordFail d i c) ↔ Touches S d0 d := by
  refine Touches.lift (m := 2147488004) ?_ hS
  simp [Device.recordFail]

@[simp ↓] theorem Device.cutOne_touch {S : Nat} {d0 : Device} (d : Device) (j : Fin 128) (c : Nat) (fail : Bool) (hS : 2149061350 &&& S = 2149061350) :
    Touches S d0 (Device.cutOne d j c fail) ↔ Touches S d0 d := by
  refine Touches.lift (m := 2149061350) ?_ hS
  unfold Device.cutOne; repeat' first | (simp; done) | split | dsimp only | refine (touches_foldFin _ _ fun e i => ?_).2 ?_ | refine (touches_foldl _ _ _ fun e i => ?_).2 ?_

@[simp ↓] theorem Device.enterRetry_touch {S : Nat} {d0 : Device} (d : Device) (hS : 2147488644 &&& S = 2147488644) :
    Touches S d0 (Device.enterRetry d) ↔ Touches S d0 d := by
  refine Touches.lift (m := 2147488644) ?_ hS
  simp [Device.enterRetry]

@[simp ↓] theorem Device.failPolicy_touch {S : Nat} {d0 : Device} (d : Device) (l : List (Fin 128)) (hS : 2147488644 &&& S = 2147488644) :
    Touches S d0 (Device.failPolicy d l) ↔ Touches S d0 d := by
  refine Touches.lift (m := 2147488644) ?_ hS
  simp [Device.failPolicy]

@[simp ↓] theorem Device.railFail_touch {S : Nat} {d0 : Device} (d : Device) (i : Fin 128) (c : Nat) (reading : Nat) (hS : 2149061606 &&& S = 2149061606) :
    Touches S d0 (Device.railFail d i c reading) ↔ Touches S d0 d := by
  refine Touches.lift (m := 2149061606) ?_ hS
  unfold Device.railFail; repeat' first | (simp; done) | split | dsimp only | refine (touches_foldFin _ _ fun e i => ?_).2 ?_ | refine (touches_foldl _ _ _ fun e i => ?_).2 ?_

@[simp ↓] theorem Device.takeLook_touch {S : Nat} {d0 : Device} (d : Device) (n : Nat) (hS : 2149061606 &&& S = 2149061606) :
    Touches S d0 (Device.takeLook d n) ↔ Touches S d0 d := by
  refine Touches.lift (m := 2149061606) ?_ hS
  induction n generalizing d with
  | zero => exact Touches.same d
  | succ n ih =>
    have ih2 : ∀ d0 d : Device, Touches 2149061606 d0 (Device.takeLook d n) ↔ Touches 2149061606 d0 d := fun _ d => Touches.iff (ih d)
    unfold Device.takeLook
    dsimp only
    split
    · split
      · split <;> simp
      · split <;> simp [ih2]
    · simp

@[simp ↓] theorem Device.takeProgress_touch {S : Nat} {d0 : Device} (d : Device) (hS : 2149061606 &&& S = 2149061606) :
    Touches S d0 (Device.takeProgress d) ↔ Touches S d0 d := by
  refine Touches.lift (m := 2149061606) ?_ hS
  simp [Device.takeProgress]

@[simp ↓] theorem Device.takeStart_touch {S : Nat} {d0 : Device} (d : Device) (cause : Nat) (hS : 2149061606 &&& S = 2149061606) :
    Touches S d0 (Device.takeStart d cause) ↔ Touches S d0 d := by
  refine Touches.lift (m := 2149061606) ?_ hS
  unfold Device.takeStart
  simp only [Device.takeProgress_touch, Device.holdCheck_touch, Device.seqTo_touch, touches_with_seq, Nat.reduceAnd]
  refine (touches_foldl _ _ _ fun e i => ?_).2 ?_
  · split
    · split <;> simp
    · rfl
  · simp

@[simp ↓] theorem Device.firstTake_touch {S : Nat} {d0 : Device} (d : Device) (hS : 2149061606 &&& S = 2149061606) :
    Touches S d0 (Device.firstTake d) ↔ Touches S d0 d := by
  refine Touches.lift (m := 2149061606) ?_ hS
  simp [Device.firstTake]

@[simp ↓] theorem Device.wrapProgress_touch {S : Nat} {d0 : Device} (d : Device) (hS : 2149061606 &&& S = 2149061606) :
    Touches S d0 (Device.wrapProgress d) ↔ Touches S d0 d := by
  refine Touches.lift (m := 2149061606) ?_ hS
  unfold Device.wrapProgress; (repeat' split) <;> simp

@[simp ↓] theorem Device.startTransition_touch {S : Nat} {d0 : Device} (d : Device) (s r : Nat) (fail : Bool) (who : Nat) (hS : 2149061606 &&& S = 2149061606) :
    Touches S d0 (Device.startTransition d s r fail who) ↔ Touches S d0 d := by
  refine Touches.lift (m := 2149061606) ?_ hS
  simp [Device.startTransition]

@[simp ↓] theorem Device.sceneRequest_touch {S : Nat} {d0 : Device} (d : Device) (s r : Nat) (who : Nat) (safe : Bool) (hS : 2149061606 &&& S = 2149061606) :
    Touches S d0 (Device.sceneRequest d s r who safe) ↔ Touches S d0 d := by
  refine Touches.lift (m := 2149061606) ?_ hS
  unfold Device.sceneRequest; (repeat' split) <;> simp

@[simp ↓] theorem Device.latchedStart_touch {S : Nat} {d0 : Device} (d : Device) (hS : 2149061606 &&& S = 2149061606) :
    Touches S d0 (Device.latchedStart d) ↔ Touches S d0 d := by
  refine Touches.lift (m := 2149061606) ?_ hS
  unfold Device.latchedStart; (repeat' split) <;> simp

@[simp ↓] theorem Device.loopRailFault_touch {S : Nat} {d0 : Device} (d : Device) (n : Fin 16) (hS : 2149061606 &&& S = 2149061606) :
    Touches S d0 (Device.loopRailFault d n) ↔ Touches S d0 d := by
  refine Touches.lift (m := 2149061606) ?_ hS
  simp [Device.loopRailFault]

@[simp ↓] theorem Device.crowbarsHeard_touch {S : Nat} {d0 : Device} (d before : Device) (hS : 2149061606 &&& S = 2149061606) :
    Touches S d0 (Device.crowbarsHeard d before) ↔ Touches S d0 d := by
  refine Touches.lift (m := 2149061606) ?_ hS
  simp [Device.crowbarsHeard]

@[simp ↓] theorem Device.entryStart_touch {S : Nat} {d0 : Device} (d : Device) (i : Fin 128) (vmon : Nat) (hS : 2149061606 &&& S = 2149061606) :
    Touches S d0 (Device.entryStart d i vmon) ↔ Touches S d0 d := by
  refine Touches.lift (m := 2149061606) ?_ hS
  unfold Device.entryStart; (repeat' split) <;> simp

@[simp ↓] theorem Device.setVmon_touch {S : Nat} {d0 : Device} (d : Device) (i : Fin 128) (code : Nat) (hS : 2147487876 &&& S = 2147487876) :
    Touches S d0 (Device.setVmon d i code) ↔ Touches S d0 d := by
  refine Touches.lift (m := 2147487876) ?_ hS
  simp [Device.setVmon]

@[simp ↓] theorem Device.setReadings_touch {S : Nat} {d0 : Device} (d : Device) (i : Fin 128) (readings : List Nat) (hS : 2147487876 &&& S = 2147487876) :
    Touches S d0 (Device.setReadings d i readings) ↔ Touches S d0 d := by
  refine Touches.lift (m := 2147487876) ?_ hS
  unfold Device.setReadings; (repeat' split) <;> simp

@[simp ↓] theorem Device.railGood_touch {S : Nat} {d0 : Device} (d : Device) (i : Fin 128) (readings : List Nat) (hS : 2149061606 &&& S = 2149061606) :
    Touches S d0 (Device.railGood d i readings) ↔ Touches S d0 d := by
  refine Touches.lift (m := 2149061606) ?_ hS
  simp [Device.railGood]

@[simp ↓] theorem Device.wrapStop_touch {S : Nat} {d0 : Device} (d : Device) (i : Fin 128) (reading : Nat) (hS : 2149061606 &&& S = 2149061606) :
    Touches S d0 (Device.wrapStop d i reading) ↔ Touches S d0 d := by
  refine Touches.lift (m := 2149061606) ?_ hS
  simp [Device.wrapStop]

@[simp ↓] theorem Device.stopOver_touch {S : Nat} {d0 : Device} (d : Device) (i : Fin 128) (cause : Nat) (hS : 2149061606 &&& S = 2149061606) :
    Touches S d0 (Device.stopOver d i cause) ↔ Touches S d0 d := by
  refine Touches.lift (m := 2149061606) ?_ hS
  simp [Device.stopOver]

@[simp ↓] theorem Device.railDischarged_touch {S : Nat} {d0 : Device} (d : Device) (i : Fin 128) (readings : List Nat) (hS : 2149061606 &&& S = 2149061606) :
    Touches S d0 (Device.railDischarged d i readings) ↔ Touches S d0 d := by
  refine Touches.lift (m := 2149061606) ?_ hS
  simp [Device.railDischarged]

@[simp ↓] theorem Device.dischargeTimeout_touch {S : Nat} {d0 : Device} (d : Device) (i : Fin 128) (hS : 2149061606 &&& S = 2149061606) :
    Touches S d0 (Device.dischargeTimeout d i) ↔ Touches S d0 d := by
  refine Touches.lift (m := 2149061606) ?_ hS
  simp [Device.dischargeTimeout]

@[simp ↓] theorem Device.enlatchRestart_touch {S : Nat} {d0 : Device} (d : Device) (i : Fin 128) (hS : 2149061606 &&& S = 2149061606) :
    Touches S d0 (Device.enlatchRestart d i) ↔ Touches S d0 d := by
  refine Touches.lift (m := 2149061606) ?_ hS
  simp [Device.enlatchRestart]

@[simp ↓] theorem Device.monitorFault_touch {S : Nat} {d0 : Device} (d : Device) (i : Fin 128) (det : RailDetect) (readings : List Nat) (hS : 2149061606 &&& S = 2149061606) :
    Touches S d0 (Device.monitorFault d i det readings) ↔ Touches S d0 d := by
  refine Touches.lift (m := 2149061606) ?_ hS
  unfold Device.monitorFault; (repeat' split) <;> simp

@[simp ↓] theorem Device.retryExpiry_touch {S : Nat} {d0 : Device} (d : Device) (hS : 2149061606 &&& S = 2149061606) :
    Touches S d0 (Device.retryExpiry d) ↔ Touches S d0 d := by
  refine Touches.lift (m := 2149061606) ?_ hS
  simp [Device.retryExpiry]

@[simp ↓] theorem Device.railOnNow_touch {S : Nat} {d0 : Device} (d : Device) (i : Fin 128) (hS : 2149061606 &&& S = 2149061606) :
    Touches S d0 (Device.railOnNow d i) ↔ Touches S d0 d := by
  refine Touches.lift (m := 2149061606) ?_ hS
  simp [Device.railOnNow]

@[simp ↓] theorem Device.railSoftOffNow_touch {S : Nat} {d0 : Device} (d : Device) (i : Fin 128) (hS : 2149061606 &&& S = 2149061606) :
    Touches S d0 (Device.railSoftOffNow d i) ↔ Touches S d0 d := by
  refine Touches.lift (m := 2149061606) ?_ hS
  simp [Device.railSoftOffNow]

@[simp ↓] theorem Device.railImmOffNow_touch {S : Nat} {d0 : Device} (d : Device) (i : Fin 128) (hS : 2149061606 &&& S = 2149061606) :
    Touches S d0 (Device.railImmOffNow d i) ↔ Touches S d0 d := by
  refine Touches.lift (m := 2149061606) ?_ hS
  simp [Device.railImmOffNow]

@[simp ↓] theorem Device.railClearNow_touch {S : Nat} {d0 : Device} (d : Device) (i : Fin 128) (hS : 2147488388 &&& S = 2147488388) :
    Touches S d0 (Device.railClearNow d i) ↔ Touches S d0 d := by
  refine Touches.lift (m := 2147488388) ?_ hS
  simp [Device.railClearNow]

@[simp ↓] theorem Device.railNow_touch {S : Nat} {d0 : Device} (d : Device) (op : RailOp) (i : Fin 128) (hS : 2149061606 &&& S = 2149061606) :
    Touches S d0 (Device.railNow d op i) ↔ Touches S d0 d := by
  refine Touches.lift (m := 2149061606) ?_ hS
  unfold Device.railNow; (repeat' split) <;> simp

@[simp ↓] theorem Device.railRequest_touch {S : Nat} {d0 : Device} (d : Device) (op : RailOp) (i : Fin 128) (hS : 2149061606 &&& S = 2149061606) :
    Touches S d0 (Device.railRequest d op i) ↔ Touches S d0 d := by
  refine Touches.lift (m := 2149061606) ?_ hS
  simp [Device.railRequest]

@[simp ↓] theorem Device.heldStart_touch {S : Nat} {d0 : Device} (d : Device) (hS : 2149061606 &&& S = 2149061606) :
    Touches S d0 (Device.heldStart d) ↔ Touches S d0 d := by
  refine Touches.lift (m := 2149061606) ?_ hS
  unfold Device.heldStart; (repeat' split) <;> simp

@[simp ↓] theorem Device.seqForce_touch {S : Nat} {d0 : Device} (d : Device) (w : Word) (hS : 2149061606 &&& S = 2149061606) :
    Touches S d0 (Device.seqForce d w) ↔ Touches S d0 d := by
  refine Touches.lift (m := 2149061606) ?_ hS
  simp [Device.seqForce]

@[simp ↓] theorem Device.stretchElapsed_touch {S : Nat} {d0 : Device} (d : Device) (k : Fin 32) (hS : 2149061606 &&& S = 2149061606) :
    Touches S d0 (Device.stretchElapsed d k) ↔ Touches S d0 d := by
  refine Touches.lift (m := 2149061606) ?_ hS
  simp [Device.stretchElapsed]

@[simp ↓] theorem Device.seqSoftReset_touch {S : Nat} {d0 : Device} (d : Device) (hS : 2147488644 &&& S = 2147488644) :
    Touches S d0 (Device.seqSoftReset d) ↔ Touches S d0 d := by
  refine Touches.lift (m := 2147488644) ?_ hS
  simp [Device.seqSoftReset]

@[simp ↓] theorem Device.loopFault_touch {S : Nat} {d0 : Device} (d : Device) (n : Fin 16) (b cause : Nat) (further : List Nat) (hS : 2149061606 &&& S = 2149061606) :
    Touches S d0 (Device.loopFault d n b cause further) ↔ Touches S d0 d := by
  refine Touches.lift (m := 2149061606) ?_ hS
  simp [Device.loopFault]

@[simp ↓] theorem Device.loopCount_touch {S : Nat} {d0 : Device} (d : Device) (n : Fin 16) (det : LoopDetect) (hS : 64 &&& S = 64) :
    Touches S d0 (Device.loopCount d n det) ↔ Touches S d0 d := by
  refine Touches.lift (m := 64) ?_ hS
  unfold Device.loopCount; (repeat' split) <;> simp

@[simp ↓] theorem Device.loopDetect_touch {S : Nat} {d0 : Device} (d : Device) (n : Fin 16) (dets : List LoopDetect) (hS : 2149061606 &&& S = 2149061606) :
    Touches S d0 (Device.loopDetect d n dets) ↔ Touches S d0 d := by
  refine Touches.lift (m := 2149061606) ?_ hS
  unfold Device.loopDetect; dsimp only; (repeat' split) <;> simp

@[simp ↓] theorem Device.ovCrowbar_touch {S : Nat} {d0 : Device} (d : Device) (n : Fin 16) (hS : 2149061606 &&& S = 2149061606) :
    Touches S d0 (Device.ovCrowbar d n) ↔ Touches S d0 d := by
  refine Touches.lift (m := 2149061606) ?_ hS
  simp [Device.ovCrowbar]

@[simp ↓] theorem Device.ovIdle_touch {S : Nat} {d0 : Device} (d : Device) (n : Fin 16) (hS : 2149061606 &&& S = 2149061606) :
    Touches S d0 (Device.ovIdle d n) ↔ Touches S d0 d := by
  refine Touches.lift (m := 2149061606) ?_ hS
  simp [Device.ovIdle]

@[simp ↓] theorem Device.ovAct_touch {S : Nat} {d0 : Device} (d : Device) (n : Fin 16) (rose : Bool) (hS : 2149061606 &&& S = 2149061606) :
    Touches S d0 (Device.ovAct d n rose) ↔ Touches S d0 d := by
  refine Touches.lift (m := 2149061606) ?_ hS
  unfold Device.ovAct; (repeat' split) <;> simp

@[simp ↓] theorem Device.ovWatch_touch {S : Nat} {d0 : Device} (d : Device) (n : Fin 16) (volts : List Nat) (hS : 2149061606 &&& S = 2149061606) :
    Touches S d0 (Device.ovWatch d n volts) ↔ Touches S d0 d := by
  refine Touches.lift (m := 2149061606) ?_ hS
  simp [Device.ovWatch]

@[simp ↓] theorem Device.crowbarRelease_touch {S : Nat} {d0 : Device} (d : Device) (n : Fin 16) (x : List (Fin 16 × ReleaseSense)) (hS : 2149060710 &&& S = 2149060710) :
    Touches S d0 (Device.crowbarRelease d n x) ↔ Touches S d0 d := by
  refine Touches.lift (m := 2149060710) ?_ hS
  unfold Device.crowbarRelease; repeat' first | (simp; done) | split | dsimp only | refine (touches_foldFin _ _ fun e i => ?_).2 ?_ | refine (touches_foldl _ _ _ fun e i => ?_).2 ?_

@[simp ↓] theorem Device.loopWarn_touch {S : Nat} {d0 : Device} (d : Device) (n : Fin 16) (x : LoopSamples) (hS : 2147487844 &&& S = 2147487844) :
    Touches S d0 (Device.loopWarn d n x) ↔ Touches S d0 d := by
  refine Touches.lift (m := 2147487844) ?_ hS
  simp [Device.loopWarn]

@[simp ↓] theorem Device.forcePhases_touch {S : Nat} {d0 : Device} (d : Device) (n : Fin 16) (hS : 2148536420 &&& S = 2148536420) :
    Touches S d0 (Device.forcePhases d n) ↔ Touches S d0 d := by
  refine Touches.lift (m := 2148536420) ?_ hS
  unfold Device.forcePhases; (repeat' split) <;> simp

@[simp ↓] theorem Device.applyForces_touch {S : Nat} {d0 : Device} (d before : Device) (hS : 2149061606 &&& S = 2149061606) :
    Touches S d0 (Device.applyForces d before) ↔ Touches S d0 d := by
  refine Touches.lift (m := 2149061606) ?_ hS
  simp [Device.applyForces]

@[simp ↓] theorem Device.fltRecord_touch {S : Nat} {d0 : Device} (d : Device) (c : Fin 64) (p : Nat) (w : Word) (opens : Bool) (hS : 36512995334 &&& S = 36512995334) :
    Touches S d0 (Device.fltRecord d c p w opens) ↔ Touches S d0 d := by
  refine Touches.lift (m := 36512995334) ?_ hS
  simp [Device.fltRecord]

@[simp ↓] theorem Device.faultLatch_touch {S : Nat} {d0 : Device} (d : Device) (hS : 36512996326 &&& S = 36512996326) :
    Touches S d0 (Device.faultLatch d) ↔ Touches S d0 d := by
  refine Touches.lift (m := 36512996326) ?_ hS
  unfold Device.faultLatch
  extract_lets before now evs opens d1 src d2 newly d3 scenes d4
  have h1 : Touches 36512996326 d d1 := (touches_foldl _ _ _ fun e i => Device.fltRecord_touch _ _ _ _ _ (by decide)).2 (Touches.same d)
  have h2 : Touches 36512996326 d d2 := (touches_with_flt _ _ (by decide)).2 h1
  have h3 : Touches 36512996326 d d3 := (Device.applyForces_touch _ _ (by decide)).2 h2
  clear_value scenes
  have h4 : Touches 36512996326 d d4 := by
    cases scenes with
    | nil => exact h3
    | cons x r => exact (Device.sceneRequest_touch _ _ _ _ _ (by decide)).2 h3
  exact (Device.syncState_touch _ _ _ _ _ (by decide)).2 h4

@[simp ↓] theorem Device.faultLineFall_touch {S : Nat} {d0 : Device} (d : Device) (c : Fin 64) (hS : 2149063654 &&& S = 2149063654) :
    Touches S d0 (Device.faultLineFall d c) ↔ Touches S d0 d := by
  refine Touches.lift (m := 2149063654) ?_ hS
  simp [Device.faultLineFall]

@[simp ↓] theorem Device.faultClear_touch {S : Nat} {d0 : Device} (d : Device) (w : BitVec 64) (who : Nat) (hS : 2149194726 &&& S = 2149194726) :
    Touches S d0 (Device.faultClear d w who) ↔ Touches S d0 d := by
  refine Touches.lift (m := 2149194726) ?_ hS
  simp [Device.faultClear]

@[simp ↓] theorem Device.fltSoftReset_touch {S : Nat} {d0 : Device} (d : Device) (hS : 2048 &&& S = 2048) :
    Touches S d0 (Device.fltSoftReset d) ↔ Touches S d0 d := by
  refine Touches.lift (m := 2048) ?_ hS
  simp [Device.fltSoftReset]

@[simp ↓] theorem Device.efiInput_touch {S : Nat} {d0 : Device} (d : Device) (m : Fin 8) (high : Bool) (held : Nat) (hS : 2048 &&& S = 2048) :
    Touches S d0 (Device.efiInput d m high held) ↔ Touches S d0 d := by
  refine Touches.lift (m := 2048) ?_ hS
  simp [Device.efiInput]

end Sys2Proof.Machine
end

