-- ==== Sys2Proof/Laws/FramesPower.lean ====
section
/-! SUPPORT. What each operation of the power path, the charger, the gauge, the rings and the events may change: one lemma an operation, with the mask of the kinds of state that
it may touch. -/

set_option maxRecDepth 4000
set_option linter.unusedTactic false
set_option linter.unreachableTactic false

namespace Sys2Proof.Machine
open Sys2Proof

@[simp ↓] theorem Device.updHup_touch {S : Nat} {d0 : Device} (d : Device) (f : Hup → Hup) (hS : 16384 &&& S = 16384) :
    Touches S d0 (Device.updHup d f) ↔ Touches S d0 d := by
  refine Touches.lift (m := 16384) ?_ hS
  simp [Device.updHup]

@[simp ↓] theorem Device.updChg_touch {S : Nat} {d0 : Device} (d : Device) (f : Chg → Chg) (hS : 32768 &&& S = 32768) :
    Touches S d0 (Device.updChg d f) ↔ Touches S d0 d := by
  refine Touches.lift (m := 32768) ?_ hS
  simp [Device.updChg]

@[simp ↓] theorem Device.setMeas_touch {S : Nat} {d0 : Device} (d : Device) (m : HupMeas) (hS : 16384 &&& S = 16384) :
    Touches S d0 (Device.setMeas d m) ↔ Touches S d0 d := by
  refine Touches.lift (m := 16384) ?_ hS
  simp [Device.setMeas]

@[simp ↓] theorem Device.chgTo_touch {S : Nat} {d0 : Device} (d : Device) (st : ChgState) (cause : Nat) (who : Nat) (hS : 2147520516 &&& S = 2147520516) :
    Touches S d0 (Device.chgTo d st cause who) ↔ Touches S d0 d := by
  refine Touches.lift (m := 2147520516) ?_ hS
  simp [Device.chgTo]

@[simp ↓] theorem Device.hotCheck_touch {S : Nat} {d0 : Device} (d : Device) (hS : 16384 &&& S = 16384) :
    Touches S d0 (Device.hotCheck d) ↔ Touches S d0 d := by
  refine Touches.lift (m := 16384) ?_ hS
  unfold Device.hotCheck; (repeat' split) <;> simp

@[simp ↓] theorem Device.rsvSync_touch {S : Nat} {d0 : Device} (d : Device) (hS : 2149077990 &&& S = 2149077990) :
    Touches S d0 (Device.rsvSync d) ↔ Touches S d0 d := by
  refine Touches.lift (m := 2149077990) ?_ hS
  simp [Device.rsvSync]

@[simp ↓] theorem Device.hupSet_touch {S : Nat} {d0 : Device} (d : Device) (st : PathState) (cause : Nat) (who : Nat) (hS : 2149077991 &&& S = 2149077991) :
    Touches S d0 (Device.hupSet d st cause who) ↔ Touches S d0 d := by
  refine Touches.lift (m := 2149077991) ?_ hS
  simp [Device.hupSet]

@[simp ↓] theorem Device.chgStop_touch {S : Nat} {d0 : Device} (d : Device) (st : ChgState) (cause : Nat) (hS : 2147520516 &&& S = 2147520516) :
    Touches S d0 (Device.chgStop d st cause) ↔ Touches S d0 d := by
  refine Touches.lift (m := 2147520516) ?_ hS
  simp [Device.chgStop]

@[simp ↓] theorem Device.chgDrain_touch {S : Nat} {d0 : Device} (d : Device) (cause : Nat) (hS : 2147520516 &&& S = 2147520516) :
    Touches S d0 (Device.chgDrain d cause) ↔ Touches S d0 d := by
  refine Touches.lift (m := 2147520516) ?_ hS
  simp [Device.chgDrain]

@[simp ↓] theorem Device.handover_touch {S : Nat} {d0 : Device} (d : Device) (iL0 : Int) (hS : 2149110759 &&& S = 2149110759) :
    Touches S d0 (Device.handover d iL0) ↔ Touches S d0 d := by
  refine Touches.lift (m := 2149110759) ?_ hS
  simp [Device.handover]

@[simp ↓] theorem Device.hupTo_touch {S : Nat} {d0 : Device} (d : Device) (st : PathState) (cause : Nat) (who : Nat) (hS : 2149110759 &&& S = 2149110759) :
    Touches S d0 (Device.hupTo d st cause who) ↔ Touches S d0 d := by
  refine Touches.lift (m := 2149110759) ?_ hS
  simp [Device.hupTo]

@[simp ↓] theorem Device.pathFollow_touch {S : Nat} {d0 : Device} (d : Device) (hS : 2149110759 &&& S = 2149110759) :
    Touches S d0 (Device.pathFollow d) ↔ Touches S d0 d := by
  refine Touches.lift (m := 2149110759) ?_ hS
  simp [Device.pathFollow]

@[simp ↓] theorem Device.enableDeferred_touch {S : Nat} {d0 : Device} (d : Device) (hS : 2149110759 &&& S = 2149110759) :
    Touches S d0 (Device.enableDeferred d) ↔ Touches S d0 d := by
  refine Touches.lift (m := 2149110759) ?_ hS
  simp [Device.enableDeferred]

@[simp ↓] theorem Device.hupEnable_touch {S : Nat} {d0 : Device} (d : Device) (on : Bool) (who : Nat) (hS : 2149110759 &&& S = 2149110759) :
    Touches S d0 (Device.hupEnable d on who) ↔ Touches S d0 d := by
  refine Touches.lift (m := 2149110759) ?_ hS
  unfold Device.hupEnable; (repeat' split) <;> simp

@[simp ↓] theorem Device.adoptClass_touch {S : Nat} {d0 : Device} (d : Device) (mv : Vector Nat 4) (hS : 16388 &&& S = 16388) :
    Touches S d0 (Device.adoptClass d mv) ↔ Touches S d0 d := by
  refine Touches.lift (m := 16388) ?_ hS
  simp [Device.adoptClass]

@[simp ↓] theorem Device.shareEnter_touch {S : Nat} {d0 : Device} (d : Device) (hS : 2149110759 &&& S = 2149110759) :
    Touches S d0 (Device.shareEnter d) ↔ Touches S d0 d := by
  refine Touches.lift (m := 2149110759) ?_ hS
  simp [Device.shareEnter]

@[simp ↓] theorem Device.throttleStep_touch {S : Nat} {d0 : Device} (d : Device) (m : HupMeas) (hS : 2149110759 &&& S = 2149110759) :
    Touches S d0 (Device.throttleStep d m) ↔ Touches S d0 d := by
  refine Touches.lift (m := 2149110759) ?_ hS
  simp [Device.throttleStep]

@[simp ↓] theorem Device.srcOverload_touch {S : Nat} {d0 : Device} (d : Device) (m : HupMeas) (hS : 16388 &&& S = 16388) :
    Touches S d0 (Device.srcOverload d m) ↔ Touches S d0 d := by
  refine Touches.lift (m := 16388) ?_ hS
  simp [Device.srcOverload]

@[simp ↓] theorem Device.shareEnd_touch {S : Nat} {d0 : Device} (d : Device) (m : HupMeas) (hS : 2149110759 &&& S = 2149110759) :
    Touches S d0 (Device.shareEnd d m) ↔ Touches S d0 d := by
  refine Touches.lift (m := 2149110759) ?_ hS
  simp [Device.shareEnd]

@[simp ↓] theorem Device.detectEnd_touch {S : Nat} {d0 : Device} (d : Device) (low : Bool) (m : HupMeas) (hS : 2149110759 &&& S = 2149110759) :
    Touches S d0 (Device.detectEnd d low m) ↔ Touches S d0 d := by
  refine Touches.lift (m := 2149110759) ?_ hS
  simp [Device.detectEnd]

@[simp ↓] theorem Device.packQual_touch {S : Nat} {d0 : Device} (d : Device) (m : HupMeas) (hS : 2149110759 &&& S = 2149110759) :
    Touches S d0 (Device.packQual d m) ↔ Touches S d0 d := by
  refine Touches.lift (m := 2149110759) ?_ hS
  simp [Device.packQual]

@[simp ↓] theorem Device.pathInhibit_touch {S : Nat} {d0 : Device} (d : Device) (m : HupMeas) (hS : 2149110759 &&& S = 2149110759) :
    Touches S d0 (Device.pathInhibit d m) ↔ Touches S d0 d := by
  refine Touches.lift (m := 2149110759) ?_ hS
  unfold Device.pathInhibit; repeat' first | (simp; done) | split | dsimp only | refine (touches_foldFin _ _ fun e i => ?_).2 ?_ | refine (touches_foldl _ _ _ fun e i => ?_).2 ?_

@[simp ↓] theorem Device.converterFault_touch {S : Nat} {d0 : Device} (d : Device) (m : HupMeas) (hS : 2149110759 &&& S = 2149110759) :
    Touches S d0 (Device.converterFault d m) ↔ Touches S d0 d := by
  refine Touches.lift (m := 2149110759) ?_ hS
  simp [Device.converterFault]

@[simp ↓] theorem Device.sagDetect_touch {S : Nat} {d0 : Device} (d : Device) (m : HupMeas) (iL0 : Int) (low : Nat) (hS : 2149110759 &&& S = 2149110759) :
    Touches S d0 (Device.sagDetect d m iL0 low) ↔ Touches S d0 d := by
  refine Touches.lift (m := 2149110759) ?_ hS
  simp [Device.sagDetect]

@[simp ↓] theorem Device.sagNoHandover_touch {S : Nat} {d0 : Device} (d : Device) (m : HupMeas) (low : Nat) (hS : 16384 &&& S = 16384) :
    Touches S d0 (Device.sagNoHandover d m low) ↔ Touches S d0 d := by
  refine Touches.lift (m := 16384) ?_ hS
  simp [Device.sagNoHandover]

@[simp ↓] theorem Device.pulseEnd_touch {S : Nat} {d0 : Device} (d : Device) (hS : 16384 &&& S = 16384) :
    Touches S d0 (Device.pulseEnd d) ↔ Touches S d0 d := by
  refine Touches.lift (m := 16384) ?_ hS
  simp [Device.pulseEnd]

@[simp ↓] theorem Device.handoverDone_touch {S : Nat} {d0 : Device} (d : Device) (m : HupMeas) (hS : 2149110759 &&& S = 2149110759) :
    Touches S d0 (Device.handoverDone d m) ↔ Touches S d0 d := by
  refine Touches.lift (m := 2149110759) ?_ hS
  simp [Device.handoverDone]

@[simp ↓] theorem Device.handoverTimeout_touch {S : Nat} {d0 : Device} (d : Device) (hS : 2149110759 &&& S = 2149110759) :
    Touches S d0 (Device.handoverTimeout d) ↔ Touches S d0 d := by
  refine Touches.lift (m := 2149110759) ?_ hS
  simp [Device.handoverTimeout]

@[simp ↓] theorem Device.sourceQualified_touch {S : Nat} {d0 : Device} (d : Device) (m : HupMeas) (hS : 2149110759 &&& S = 2149110759) :
    Touches S d0 (Device.sourceQualified d m) ↔ Touches S d0 d := by
  refine Touches.lift (m := 2149110759) ?_ hS
  simp [Device.sourceQualified]

@[simp ↓] theorem Device.returnDone_touch {S : Nat} {d0 : Device} (d : Device) (m : HupMeas) (hS : 2149110759 &&& S = 2149110759) :
    Touches S d0 (Device.returnDone d m) ↔ Touches S d0 d := by
  refine Touches.lift (m := 2149110759) ?_ hS
  simp [Device.returnDone]

@[simp ↓] theorem Device.packEmpty_touch {S : Nat} {d0 : Device} (d : Device) (m : HupMeas) (hS : 2149110759 &&& S = 2149110759) :
    Touches S d0 (Device.packEmpty d m) ↔ Touches S d0 d := by
  refine Touches.lift (m := 2149110759) ?_ hS
  simp [Device.packEmpty]

@[simp ↓] theorem Device.packRemoval_touch {S : Nat} {d0 : Device} (d : Device) (how : Removal) (hS : 2149110759 &&& S = 2149110759) :
    Touches S d0 (Device.packRemoval d how) ↔ Touches S d0 d := by
  refine Touches.lift (m := 2149110759) ?_ hS
  simp [Device.packRemoval]

@[simp ↓] theorem Device.chgCommandWrite_touch {S : Nat} {d0 : Device} (d : Device) (w : Word) (hS : 32769 &&& S = 32769) :
    Touches S d0 (Device.chgCommandWrite d w) ↔ Touches S d0 d := by
  refine Touches.lift (m := 32769) ?_ hS
  simp [Device.chgCommandWrite]

@[simp ↓] theorem Device.chgFallback_touch {S : Nat} {d0 : Device} (d : Device) (hS : 2147520516 &&& S = 2147520516) :
    Touches S d0 (Device.chgFallback d) ↔ Touches S d0 d := by
  refine Touches.lift (m := 2147520516) ?_ hS
  simp [Device.chgFallback]

@[simp ↓] theorem Device.chgQual_touch {S : Nat} {d0 : Device} (d : Device) (m : HupMeas) (hS : 2149110759 &&& S = 2149110759) :
    Touches S d0 (Device.chgQual d m) ↔ Touches S d0 d := by
  refine Touches.lift (m := 2149110759) ?_ hS
  simp [Device.chgQual]

@[simp ↓] theorem Device.prechgDone_touch {S : Nat} {d0 : Device} (d : Device) (m : HupMeas) (hS : 2147536900 &&& S = 2147536900) :
    Touches S d0 (Device.prechgDone d m) ↔ Touches S d0 d := by
  refine Touches.lift (m := 2147536900) ?_ hS
  simp [Device.prechgDone]

@[simp ↓] theorem Device.chgFault_touch {S : Nat} {d0 : Device} (d : Device) (cause : Nat) (hS : 2149110759 &&& S = 2149110759) :
    Touches S d0 (Device.chgFault d cause) ↔ Touches S d0 d := by
  refine Touches.lift (m := 2149110759) ?_ hS
  simp [Device.chgFault]

@[simp ↓] theorem Device.cvReached_touch {S : Nat} {d0 : Device} (d : Device) (m : HupMeas) (hS : 2147536900 &&& S = 2147536900) :
    Touches S d0 (Device.cvReached d m) ↔ Touches S d0 d := by
  refine Touches.lift (m := 2147536900) ?_ hS
  simp [Device.cvReached]

@[simp ↓] theorem Device.chgTerminated_touch {S : Nat} {d0 : Device} (d : Device) (m : HupMeas) (hS : 2149176295 &&& S = 2149176295) :
    Touches S d0 (Device.chgTerminated d m) ↔ Touches S d0 d := by
  refine Touches.lift (m := 2149176295) ?_ hS
  simp [Device.chgTerminated]

@[simp ↓] theorem Device.recharge_touch {S : Nat} {d0 : Device} (d : Device) (m : HupMeas) (hS : 2147536900 &&& S = 2147536900) :
    Touches S d0 (Device.recharge d m) ↔ Touches S d0 d := by
  refine Touches.lift (m := 2147536900) ?_ hS
  simp [Device.recharge]

@[simp ↓] theorem Device.chgOv_touch {S : Nat} {d0 : Device} (d : Device) (m : HupMeas) (hS : 2149110759 &&& S = 2149110759) :
    Touches S d0 (Device.chgOv d m) ↔ Touches S d0 d := by
  refine Touches.lift (m := 2149110759) ?_ hS
  simp [Device.chgOv]

@[simp ↓] theorem Device.chgSuspend_touch {S : Nat} {d0 : Device} (d : Device) (m : HupMeas) (hS : 2147536900 &&& S = 2147536900) :
    Touches S d0 (Device.chgSuspend d m) ↔ Touches S d0 d := by
  refine Touches.lift (m := 2147536900) ?_ hS
  simp [Device.chgSuspend]

@[simp ↓] theorem Device.chgDrained_touch {S : Nat} {d0 : Device} (d : Device) (m : HupMeas) (late : Bool) (hS : 2149110759 &&& S = 2149110759) :
    Touches S d0 (Device.chgDrained d m late) ↔ Touches S d0 d := by
  refine Touches.lift (m := 2149110759) ?_ hS
  simp [Device.chgDrained]

@[simp ↓] theorem Device.chgResume_touch {S : Nat} {d0 : Device} (d : Device) (m : HupMeas) (hS : 2147536900 &&& S = 2147536900) :
    Touches S d0 (Device.chgResume d m) ↔ Touches S d0 d := by
  refine Touches.lift (m := 2147536900) ?_ hS
  simp [Device.chgResume]

@[simp ↓] theorem Device.bandChange_touch {S : Nat} {d0 : Device} (d : Device) (hS : 2147520516 &&& S = 2147520516) :
    Touches S d0 (Device.bandChange d) ↔ Touches S d0 d := by
  refine Touches.lift (m := 2147520516) ?_ hS
  unfold Device.bandChange; (repeat' split) <;> simp

@[simp ↓] theorem Device.chgEnable_touch {S : Nat} {d0 : Device} (d : Device) (on : Bool) (who : Nat) (hS : 2147520516 &&& S = 2147520516) :
    Touches S d0 (Device.chgEnable d on who) ↔ Touches S d0 d := by
  refine Touches.lift (m := 2147520516) ?_ hS
  simp [Device.chgEnable]

@[simp ↓] theorem Device.orHold_touch {S : Nat} {d0 : Device} (d : Device) (hS : 16384 &&& S = 16384) :
    Touches S d0 (Device.orHold d) ↔ Touches S d0 d := by
  refine Touches.lift (m := 16384) ?_ hS
  simp [Device.orHold]

@[simp ↓] theorem Device.updGau_touch {S : Nat} {d0 : Device} (d : Device) (f : Gauge → Gauge) (hS : 65536 &&& S = 65536) :
    Touches S d0 (Device.updGau d f) ↔ Touches S d0 d := by
  refine Touches.lift (m := 65536) ?_ hS
  simp [Device.updGau]

@[simp ↓] theorem Device.gauBlank_touch {S : Nat} {d0 : Device} (d : Device) (hS : 65536 &&& S = 65536) :
    Touches S d0 (Device.gauBlank d) ↔ Touches S d0 d := by
  refine Touches.lift (m := 65536) ?_ hS
  unfold Device.gauBlank; (repeat' split) <;> simp

@[simp ↓] theorem Device.gauTo_touch {S : Nat} {d0 : Device} (d : Device) (st : GauState) (cause : Nat) (who : Nat) (hS : 2147553284 &&& S = 2147553284) :
    Touches S d0 (Device.gauTo d st cause who) ↔ Touches S d0 d := by
  refine Touches.lift (m := 2147553284) ?_ hS
  simp [Device.gauTo]

@[simp ↓] theorem Device.gauAnchor_touch {S : Nat} {d0 : Device} (d : Device) (hS : 65536 &&& S = 65536) :
    Touches S d0 (Device.gauAnchor d) ↔ Touches S d0 d := by
  refine Touches.lift (m := 65536) ?_ hS
  simp [Device.gauAnchor]

@[simp ↓] theorem Device.aoSecond_touch {S : Nat} {d0 : Device} (d : Device) (s : GaugeSecond) (hS : 65536 &&& S = 65536) :
    Touches S d0 (Device.aoSecond d s) ↔ Touches S d0 d := by
  refine Touches.lift (m := 65536) ?_ hS
  simp [Device.aoSecond]

@[simp ↓] theorem Device.aoWake_touch {S : Nat} {d0 : Device} (d : Device) (current : Bool) (hS : 196608 &&& S = 196608) :
    Touches S d0 (Device.aoWake d current) ↔ Touches S d0 d := by
  refine Touches.lift (m := 196608) ?_ hS
  simp [Device.aoWake]

@[simp ↓] theorem Device.gauAccess_touch {S : Nat} {d0 : Device} (d : Device) (hS : 196608 &&& S = 196608) :
    Touches S d0 (Device.gauAccess d) ↔ Touches S d0 d := by
  refine Touches.lift (m := 196608) ?_ hS
  simp [Device.gauAccess]

@[simp ↓] theorem Device.hibernate_touch {S : Nat} {d0 : Device} (d : Device) (hS : 131072 &&& S = 131072) :
    Touches S d0 (Device.hibernate d) ↔ Touches S d0 d := by
  refine Touches.lift (m := 131072) ?_ hS
  simp [Device.hibernate]

@[simp ↓] theorem Device.ocvSample_touch {S : Nat} {d0 : Device} (d : Device) (v : Nat) (hS : 65536 &&& S = 65536) :
    Touches S d0 (Device.ocvSample d v) ↔ Touches S d0 d := by
  refine Touches.lift (m := 65536) ?_ hS
  simp [Device.ocvSample]

@[simp ↓] theorem Device.gauCommitStart_touch {S : Nat} {d0 : Device} (d : Device) (hS : 65540 &&& S = 65540) :
    Touches S d0 (Device.gauCommitStart d) ↔ Touches S d0 d := by
  refine Touches.lift (m := 65540) ?_ hS
  simp [Device.gauCommitStart]

@[simp ↓] theorem Device.learnSpan_touch {S : Nat} {d0 : Device} (d : Device) (start : Nat × Rat) (soc : Rat) (hS : 65541 &&& S = 65541) :
    Touches S d0 (Device.learnSpan d start soc) ↔ Touches S d0 d := by
  refine Touches.lift (m := 65541) ?_ hS
  simp [Device.learnSpan]

@[simp ↓] theorem Device.acceptAnchor_touch {S : Nat} {d0 : Device} (d : Device) (soc u m : Rat) (cause : Nat) (hS : 2147553285 &&& S = 2147553285) :
    Touches S d0 (Device.acceptAnchor d soc u m cause) ↔ Touches S d0 d := by
  refine Touches.lift (m := 2147553285) ?_ hS
  unfold Device.acceptAnchor; (repeat' split) <;> simp

@[simp ↓] theorem Device.anchors_touch {S : Nat} {d0 : Device} (d : Device) (hS : 65536 &&& S = 65536) :
    Touches S d0 (Device.anchors d).1 ↔ Touches S d0 d := by
  refine Touches.lift (m := 65536) ?_ hS
  unfold Device.anchors; repeat' first | (simp; done) | split | dsimp only | refine (touches_foldFin _ _ fun e i => ?_).2 ?_ | refine (touches_foldl _ _ _ fun e i => ?_).2 ?_

@[simp ↓] theorem Device.writeReserve_touch {S : Nat} {d0 : Device} (d : Device) (soc u : Rat) (hS : 2149077991 &&& S = 2149077991) :
    Touches S d0 (Device.writeReserve d soc u) ↔ Touches S d0 d := by
  refine Touches.lift (m := 2149077991) ?_ hS
  simp [Device.writeReserve]

@[simp ↓] theorem Device.coreEstimate_touch {S : Nat} {d0 : Device} (d : Device) (s : GaugeSecond) (hS : 2149143527 &&& S = 2149143527) :
    Touches S d0 (Device.coreEstimate d s) ↔ Touches S d0 d := by
  refine Touches.lift (m := 2149143527) ?_ hS
  unfold Device.coreEstimate; repeat' first | (simp; done) | split | dsimp only | refine (touches_foldFin _ _ fun e i => ?_).2 ?_ | refine (touches_foldl _ _ _ fun e i => ?_).2 ?_

@[simp ↓] theorem Device.gauStarve_touch {S : Nat} {d0 : Device} (d : Device) (hS : 2147553284 &&& S = 2147553284) :
    Touches S d0 (Device.gauStarve d) ↔ Touches S d0 d := by
  refine Touches.lift (m := 2147553284) ?_ hS
  simp [Device.gauStarve]

@[simp ↓] theorem Device.unloadNow_touch {S : Nat} {d0 : Device} (d : Device) (cause who : Nat) (hS : 2147553284 &&& S = 2147553284) :
    Touches S d0 (Device.unloadNow d cause who) ↔ Touches S d0 d := by
  refine Touches.lift (m := 2147553284) ?_ hS
  simp [Device.unloadNow]

@[simp ↓] theorem Device.commitDone_touch {S : Nat} {d0 : Device} (d : Device) (inhibited : Bool) (hS : 2147553286 &&& S = 2147553286) :
    Touches S d0 (Device.commitDone d inhibited) ↔ Touches S d0 d := by
  refine Touches.lift (m := 2147553286) ?_ hS
  unfold Device.commitDone; (repeat' split) <;> simp

@[simp ↓] theorem Device.takeCapacity_touch {S : Nat} {d0 : Device} (d : Device) (hS : 65540 &&& S = 65540) :
    Touches S d0 (Device.takeCapacity d) ↔ Touches S d0 d := by
  refine Touches.lift (m := 65540) ?_ hS
  simp [Device.takeCapacity]

@[simp ↓] theorem Device.gauRestore_touch {S : Nat} {d0 : Device} (d : Device) (packDet : Bool) (who : Nat) (hS : 2147553284 &&& S = 2147553284) :
    Touches S d0 (Device.gauRestore d packDet who) ↔ Touches S d0 d := by
  refine Touches.lift (m := 2147553284) ?_ hS
  simp [Device.gauRestore]

@[simp ↓] theorem Device.gauUnload_touch {S : Nat} {d0 : Device} (d : Device) (who : Nat) (hS : 2147553284 &&& S = 2147553284) :
    Touches S d0 (Device.gauUnload d who) ↔ Touches S d0 d := by
  refine Touches.lift (m := 2147553284) ?_ hS
  simp [Device.gauUnload]

@[simp ↓] theorem Device.gauReconcile_touch {S : Nat} {d0 : Device} (d : Device) (hS : 2147553284 &&& S = 2147553284) :
    Touches S d0 (Device.gauReconcile d) ↔ Touches S d0 d := by
  refine Touches.lift (m := 2147553284) ?_ hS
  simp [Device.gauReconcile]

@[simp ↓] theorem Device.gauNopack_touch {S : Nat} {d0 : Device} (d : Device) (hS : 2147553284 &&& S = 2147553284) :
    Touches S d0 (Device.gauNopack d) ↔ Touches S d0 d := by
  refine Touches.lift (m := 2147553284) ?_ hS
  simp [Device.gauNopack]

@[simp ↓] theorem Device.gauPackReturn_touch {S : Nat} {d0 : Device} (d : Device) (hS : 2147553284 &&& S = 2147553284) :
    Touches S d0 (Device.gauPackReturn d) ↔ Touches S d0 d := by
  refine Touches.lift (m := 2147553284) ?_ hS
  simp [Device.gauPackReturn]

@[simp ↓] theorem Device.gauSoftReset_touch {S : Nat} {d0 : Device} (d : Device) (hS : 65540 &&& S = 65540) :
    Touches S d0 (Device.gauSoftReset d) ↔ Touches S d0 d := by
  refine Touches.lift (m := 65540) ?_ hS
  simp [Device.gauSoftReset]

@[simp ↓] theorem Device.gauAccRead_touch {S : Nat} {d0 : Device} (d : Device) (hS : 65536 &&& S = 65536) :
    Touches S d0 (Device.gauAccRead d) ↔ Touches S d0 d := by
  refine Touches.lift (m := 65536) ?_ hS
  simp [Device.gauAccRead]

@[simp ↓] theorem Device.updDma_touch {S : Nat} {d0 : Device} (d : Device) (f : Dma → Dma) (hS : 262144 &&& S = 262144) :
    Touches S d0 (Device.updDma d f) ↔ Touches S d0 d := by
  refine Touches.lift (m := 262144) ?_ hS
  simp [Device.updDma]

@[simp ↓] theorem Device.updRg_touch {S : Nat} {d0 : Device} (d : Device) (r : Fin 32) (f : Ring → Ring) (hS : 262144 &&& S = 262144) :
    Touches S d0 (Device.updRg d r f) ↔ Touches S d0 d := by
  refine Touches.lift (m := 262144) ?_ hS
  simp [Device.updRg]

@[simp ↓] theorem Device.updXlt_touch {S : Nat} {d0 : Device} (d : Device) (f : Xlt → Xlt) (hS : 262144 &&& S = 262144) :
    Touches S d0 (Device.updXlt d f) ↔ Touches S d0 d := by
  refine Touches.lift (m := 262144) ?_ hS
  simp [Device.updXlt]

@[simp ↓] theorem Device.xltFault_touch {S : Nat} {d0 : Device} (d : Device) (evt : Bool) (ring ctx : Nat) (f : XltFault) (hS : 2148798468 &&& S = 2148798468) :
    Touches S d0 (Device.xltFault d evt ring ctx f) ↔ Touches S d0 d := by
  refine Touches.lift (m := 2148798468) ?_ hS
  simp [Device.xltFault]

@[simp ↓] theorem Device.ringTo_touch {S : Nat} {d0 : Device} (d : Device) (r : Fin 32) (st : RingState) (cause : Nat) (who : Nat) (hS : 2147749892 &&& S = 2147749892) :
    Touches S d0 (Device.ringTo d r st cause who) ↔ Touches S d0 d := by
  refine Touches.lift (m := 2147749892) ?_ hS
  simp [Device.ringTo]

@[simp ↓] theorem Device.ringFault_touch {S : Nat} {d0 : Device} (d : Device) (r : Fin 32) (f : XltFault) (hS : 2148798468 &&& S = 2148798468) :
    Touches S d0 (Device.ringFault d r f) ↔ Touches S d0 d := by
  refine Touches.lift (m := 2148798468) ?_ hS
  simp [Device.ringFault]

@[simp ↓] theorem Device.descWrite_touch {S : Nat} {d0 : Device} (d : Device) (r : Fin 32) (w : Nat) (v : Word) (hS : 36508536838 &&& S = 36508536838) :
    Touches S d0 (Device.descWrite d r w v) ↔ Touches S d0 d := by
  refine Touches.lift (m := 36508536838) ?_ hS
  unfold Device.descWrite; repeat' first | (simp; done) | split | dsimp only | refine (touches_foldFin _ _ fun e i => ?_).2 ?_ | refine (touches_foldl _ _ _ fun e i => ?_).2 ?_

@[simp ↓] theorem Device.writeStatus_touch {S : Nat} {d0 : Device} (d : Device) (r : Fin 32) (res : Nat) (hS : 36508536838 &&& S = 36508536838) :
    Touches S d0 (Device.writeStatus d r res) ↔ Touches S d0 d := by
  refine Touches.lift (m := 36508536838) ?_ hS
  simp [Device.writeStatus]

@[simp ↓] theorem Device.ringFetch_touch {S : Nat} {d0 : Device} (d : Device) (r : Fin 32) (cause : Nat) (who : Nat) (hS : 2147749892 &&& S = 2147749892) :
    Touches S d0 (Device.ringFetch d r cause who) ↔ Touches S d0 d := by
  refine Touches.lift (m := 2147749892) ?_ hS
  simp [Device.ringFetch]

@[simp ↓] theorem Device.ringRun_touch {S : Nat} {d0 : Device} (d : Device) (r : Fin 32) (who : Nat) (hS : 2147749892 &&& S = 2147749892) :
    Touches S d0 (Device.ringRun d r who) ↔ Touches S d0 d := by
  refine Touches.lift (m := 2147749892) ?_ hS
  simp [Device.ringRun]

@[simp ↓] theorem Device.ringResume_touch {S : Nat} {d0 : Device} (d : Device) (r : Fin 32) (who : Nat) (hS : 2147749892 &&& S = 2147749892) :
    Touches S d0 (Device.ringResume d r who) ↔ Touches S d0 d := by
  refine Touches.lift (m := 2147749892) ?_ hS
  simp [Device.ringResume]

@[simp ↓] theorem Device.ringLatched_touch {S : Nat} {d0 : Device} (d : Device) (r : Fin 32) (hS : 2147749892 &&& S = 2147749892) :
    Touches S d0 (Device.ringLatched d r) ↔ Touches S d0 d := by
  refine Touches.lift (m := 2147749892) ?_ hS
  unfold Device.ringLatched; (repeat' split) <;> simp

@[simp ↓] theorem Device.ringSettle_touch {S : Nat} {d0 : Device} (d : Device) (r : Fin 32) (who : Nat) (hS : 36508536838 &&& S = 36508536838) :
    Touches S d0 (Device.ringSettle d r who) ↔ Touches S d0 d := by
  refine Touches.lift (m := 36508536838) ?_ hS
  simp [Device.ringSettle]

@[simp ↓] theorem Device.ringStop_touch {S : Nat} {d0 : Device} (d : Device) (r : Fin 32) (who : Nat) (hS : 36508536838 &&& S = 36508536838) :
    Touches S d0 (Device.ringStop d r who) ↔ Touches S d0 d := by
  refine Touches.lift (m := 36508536838) ?_ hS
  unfold Device.ringStop; repeat' first | (simp; done) | split | dsimp only | refine (touches_foldFin _ _ fun e i => ?_).2 ?_ | refine (touches_foldl _ _ _ fun e i => ?_).2 ?_

@[simp ↓] theorem Device.ringEnable_touch {S : Nat} {d0 : Device} (d : Device) (r : Fin 32) (on : Bool) (who : Nat) (hS : 36508536838 &&& S = 36508536838) :
    Touches S d0 (Device.ringEnable d r on who) ↔ Touches S d0 d := by
  refine Touches.lift (m := 36508536838) ?_ hS
  unfold Device.ringEnable; (repeat' split) <;> simp

@[simp ↓] theorem Device.ringDoorbell_touch {S : Nat} {d0 : Device} (d : Device) (r : Fin 32) (who : Nat) (hS : 2147749892 &&& S = 2147749892) :
    Touches S d0 (Device.ringDoorbell d r who) ↔ Touches S d0 d := by
  refine Touches.lift (m := 2147749892) ?_ hS
  simp [Device.ringDoorbell]

@[simp ↓] theorem Device.ringPause_touch {S : Nat} {d0 : Device} (d : Device) (r : Fin 32) (who : Nat) (hS : 36508536838 &&& S = 36508536838) :
    Touches S d0 (Device.ringPause d r who) ↔ Touches S d0 d := by
  refine Touches.lift (m := 36508536838) ?_ hS
  simp [Device.ringPause]

@[simp ↓] theorem Device.ringLease_touch {S : Nat} {d0 : Device} (d : Device) (r : Fin 32) (who : Nat) (hS : 36508536838 &&& S = 36508536838) :
    Touches S d0 (Device.ringLease d r who) ↔ Touches S d0 d := by
  refine Touches.lift (m := 36508536838) ?_ hS
  simp [Device.ringLease]

@[simp ↓] theorem Device.ringHost_touch {S : Nat} {d0 : Device} (d : Device) (r : Fin 32) (hS : 36508536838 &&& S = 36508536838) :
    Touches S d0 (Device.ringHost d r) ↔ Touches S d0 d := by
  refine Touches.lift (m := 36508536838) ?_ hS
  simp [Device.ringHost]

@[simp ↓] theorem Device.ringSoftReset_touch {S : Nat} {d0 : Device} (d : Device) (r : Fin 32) (who : Nat) (hS : 36508536838 &&& S = 36508536838) :
    Touches S d0 (Device.ringSoftReset d r who) ↔ Touches S d0 d := by
  refine Touches.lift (m := 36508536838) ?_ hS
  simp [Device.ringSoftReset]

@[simp ↓] theorem Device.descDone_touch {S : Nat} {d0 : Device} (d : Device) (r : Fin 32) (hS : 36508536838 &&& S = 36508536838) :
    Touches S d0 (Device.descDone d r) ↔ Touches S d0 d := by
  refine Touches.lift (m := 36508536838) ?_ hS
  simp [Device.descDone]

@[simp ↓] theorem Device.ringNext_touch {S : Nat} {d0 : Device} (d : Device) (r : Fin 32) (cause : Nat) (hS : 36508536838 &&& S = 36508536838) :
    Touches S d0 (Device.ringNext d r cause) ↔ Touches S d0 d := by
  refine Touches.lift (m := 36508536838) ?_ hS
  simp [Device.ringNext]

@[simp ↓] theorem Device.descFetch_touch {S : Nat} {d0 : Device} (d : Device) (r : Fin 32) (host : Vector Word 8) (hS : 36508536838 &&& S = 36508536838) :
    Touches S d0 (Device.descFetch d r host) ↔ Touches S d0 d := by
  refine Touches.lift (m := 36508536838) ?_ hS
  unfold Device.descFetch
  extract_lets x a xl d1
  have h1 : Touches 36508536838 d d1 := by simp [d1]
  clear_value xl d1
  split
  · exact Touches.same d
  · split
    · simp
    · cases xl with
      | error c => simp
      | ok h =>
        dsimp -zeta only
        extract_lets d2 ws d3 own d4 d5 d6 d7 wait d8 d9
        have h3 : Touches 36508536838 d d3 := by simp [d3, d2, h1]
        clear_value d3
        split
        · simp only [d4, touches_ite, Device.ringSettle_touch, Device.updRg_touch, Nat.reduceAnd, h3, ite_self]
        · split
          · simp only [d5, touches_ite, Device.ringFetch_touch, Device.ringTo_touch, Device.updRg_touch, Nat.reduceAnd, h3, ite_self]
          · split
            · simp only [d7, d6, Device.ringTo_touch, Device.writeStatus_touch, Device.setErr_touch, Device.updRg_touch, Nat.reduceAnd, h3]
            · have h8 : Touches 36508536838 d d8 := by simp only [d8, Device.ringTo_touch, Nat.reduceAnd, h3]
              clear_value d8
              simp only [d9, touches_ite, Device.ringNext_touch, Device.descDone_touch, Device.ringHost_touch, Device.updRg_touch, Nat.reduceAnd, h8, ite_self]

@[simp ↓] theorem Device.sampleRequests_touch {S : Nat} {d0 : Device} (d : Device) (hS : 2147749892 &&& S = 2147749892) :
    Touches S d0 (Device.sampleRequests d) ↔ Touches S d0 d := by
  refine Touches.lift (m := 2147749892) ?_ hS
  simp [Device.sampleRequests]

@[simp ↓] theorem Device.burstStart_touch {S : Nat} {d0 : Device} (d : Device) (r : Fin 32) (hS : 36508536836 &&& S = 36508536836) :
    Touches S d0 (Device.burstStart d r) ↔ Touches S d0 d := by
  refine Touches.lift (m := 36508536836) ?_ hS
  simp [Device.burstStart]

@[simp ↓] theorem Device.dmaArbitrate_touch {S : Nat} {d0 : Device} (d : Device) (hS : 36508536836 &&& S = 36508536836) :
    Touches S d0 (Device.dmaArbitrate d) ↔ Touches S d0 d := by
  refine Touches.lift (m := 36508536836) ?_ hS
  unfold Device.dmaArbitrate; repeat' first | (simp; done) | split | dsimp only | refine (touches_foldFin _ _ fun e i => ?_).2 ?_ | refine (touches_foldl _ _ _ fun e i => ?_).2 ?_

@[simp ↓] theorem Device.burstOver_touch {S : Nat} {d0 : Device} (d : Device) (r : Fin 32) (hS : 2147745796 &&& S = 2147745796) :
    Touches S d0 (Device.burstOver d r) ↔ Touches S d0 d := by
  refine Touches.lift (m := 2147745796) ?_ hS
  simp [Device.burstOver]

@[simp ↓] theorem Device.windowWrite_touch {S : Nat} {d0 : Device} (d : Device) (e : Nat) (one : Bool) (who : Nat) (admin : Bool) (w : Word) (hS : 262149 &&& S = 262149) :
    Touches S d0 (Device.windowWrite d e one who admin w) ↔ Touches S d0 d := by
  refine Touches.lift (m := 262149) ?_ hS
  unfold Device.windowWrite; repeat' first | (simp; done) | split | dsimp only | refine (touches_foldFin _ _ fun e i => ?_).2 ?_ | refine (touches_foldl _ _ _ fun e i => ?_).2 ?_

@[simp ↓] theorem Device.xltSync_touch {S : Nat} {d0 : Device} (d : Device) (who : Nat) (hS : 2147745796 &&& S = 2147745796) :
    Touches S d0 (Device.xltSync d who) ↔ Touches S d0 d := by
  refine Touches.lift (m := 2147745796) ?_ hS
  simp [Device.xltSync]

@[simp ↓] theorem Device.xltSyncDone_touch {S : Nat} {d0 : Device} (d : Device) (hS : 2147745796 &&& S = 2147745796) :
    Touches S d0 (Device.xltSyncDone d) ↔ Touches S d0 d := by
  refine Touches.lift (m := 2147745796) ?_ hS
  simp [Device.xltSyncDone]

@[simp ↓] theorem Device.xltSoftReset_touch {S : Nat} {d0 : Device} (d : Device) (hS : 262144 &&& S = 262144) :
    Touches S d0 (Device.xltSoftReset d) ↔ Touches S d0 d := by
  refine Touches.lift (m := 262144) ?_ hS
  simp [Device.xltSoftReset]

@[simp ↓] theorem Device.updTg_touch {S : Nat} {d0 : Device} (d : Device) (t : Fin 9) (f : EvTarget → EvTarget) (hS : 4096 &&& S = 4096) :
    Touches S d0 (Device.updTg d t f) ↔ Touches S d0 d := by
  refine Touches.lift (m := 4096) ?_ hS
  simp [Device.updTg]

@[simp ↓] theorem Device.ibiSync_touch {S : Nat} {d0 : Device} (d : Device) (hS : 8388608 &&& S = 8388608) :
    Touches S d0 (Device.ibiSync d) ↔ Touches S d0 d := by
  refine Touches.lift (m := 8388608) ?_ hS
  simp [Device.ibiSync]

@[simp ↓] theorem Device.tgSignal_touch {S : Nat} {d0 : Device} (d : Device) (t : Fin 9) (hS : 36520857604 &&& S = 36520857604) :
    Touches S d0 (Device.tgSignal d t) ↔ Touches S d0 d := by
  refine Touches.lift (m := 36520857604) ?_ hS
  unfold Device.tgSignal; (repeat' split) <;> simp

@[simp ↓] theorem Device.evAdvance_touch {S : Nat} {d0 : Device} (d : Device) (t : Fin 9) (hS : 36520857604 &&& S = 36520857604) :
    Touches S d0 (Device.evAdvance d t) ↔ Touches S d0 d := by
  refine Touches.lift (m := 36520857604) ?_ hS
  simp [Device.evAdvance]

@[simp ↓] theorem Device.evWrite_touch {S : Nat} {d0 : Device} (d : Device) (s : Fin 256) (t : Fin 9) (bcast : Bool) (hS : 36521119750 &&& S = 36521119750) :
    Touches S d0 (Device.evWrite d s t bcast).1 ↔ Touches S d0 d := by
  refine Touches.lift (m := 36521119750) ?_ hS
  unfold Device.evWrite; (repeat' split) <;> simp

@[simp ↓] theorem Device.evUnicast_touch {S : Nat} {d0 : Device} (d : Device) (s : Fin 256) (t : Fin 9) (hS : 36521119750 &&& S = 36521119750) :
    Touches S d0 (Device.evUnicast d s t) ↔ Touches S d0 d := by
  refine Touches.lift (m := 36521119750) ?_ hS
  have h := (Device.evWrite_touch (S := 36521119750) (d0 := d) d s t false (by decide)).2 (Touches.same d)
  unfold Device.evUnicast
  split <;> rename_i heq <;> rw [heq] at h <;> simpa using h

@[simp ↓] theorem Device.evCopy_touch {S : Nat} {d0 : Device} (d : Device) (s : Fin 256) (t : Fin 9) (hS : 36521119750 &&& S = 36521119750) :
    Touches S d0 (Device.evCopy d s t).1 ↔ Touches S d0 d := by
  refine Touches.lift (m := 36521119750) ?_ hS
  simp [Device.evCopy]

@[simp ↓] theorem Device.evBroadcast_touch {S : Nat} {d0 : Device} (d : Device) (s : Fin 256) (hS : 36521119750 &&& S = 36521119750) :
    Touches S d0 (Device.evBroadcast d s) ↔ Touches S d0 d := by
  refine Touches.lift (m := 36521119750) ?_ hS
  unfold Device.evBroadcast
  dsimp only
  split <;> simp

@[simp ↓] theorem Device.evSelect_touch {S : Nat} {d0 : Device} (d : Device) (faulting : Bool) (hS : 36521119750 &&& S = 36521119750) :
    Touches S d0 (Device.evSelect d faulting) ↔ Touches S d0 d := by
  refine Touches.lift (m := 36521119750) ?_ hS
  unfold Device.evSelect; (repeat' split) <;> simp

@[simp ↓] theorem Device.evEoi_touch {S : Nat} {d0 : Device} (d : Device) (t : Fin 9) (s : Fin 256) (hS : 4100 &&& S = 4100) :
    Touches S d0 (Device.evEoi d t s) ↔ Touches S d0 d := by
  refine Touches.lift (m := 4100) ?_ hS
  simp [Device.evEoi]

@[simp ↓] theorem Device.evRdWrite_touch {S : Nat} {d0 : Device} (d : Device) (t : Fin 9) (rd : Nat) (hS : 36520857604 &&& S = 36520857604) :
    Touches S d0 (Device.evRdWrite d t rd) ↔ Touches S d0 d := by
  refine Touches.lift (m := 36520857604) ?_ hS
  simp [Device.evRdWrite]

@[simp ↓] theorem Device.tgRelease_touch {S : Nat} {d0 : Device} (d : Device) (t : Fin 9) (hS : 4096 &&& S = 4096) :
    Touches S d0 (Device.tgRelease d t) ↔ Touches S d0 d := by
  refine Touches.lift (m := 4096) ?_ hS
  simp [Device.tgRelease]

@[simp ↓] theorem Device.tgZero_touch {S : Nat} {d0 : Device} (d : Device) (t : Fin 9) (hS : 2 &&& S = 2) :
    Touches S d0 (Device.tgZero d t) ↔ Touches S d0 d := by
  refine Touches.lift (m := 2) ?_ hS
  simp [Device.tgZero]

@[simp ↓] theorem Device.tctlWrite_touch {S : Nat} {d0 : Device} (d : Device) (t : Fin 9) (w : Word) (hS : 8392711 &&& S = 8392711) :
    Touches S d0 (Device.tctlWrite d t w) ↔ Touches S d0 d := by
  refine Touches.lift (m := 8392711) ?_ hS
  simp [Device.tctlWrite]

@[simp ↓] theorem Device.tgReset_touch {S : Nat} {d0 : Device} (d : Device) (t : Fin 9) (hS : 2155876357 &&& S = 2155876357) :
    Touches S d0 (Device.tgReset d t) ↔ Touches S d0 d := by
  refine Touches.lift (m := 2155876357) ?_ hS
  simp [Device.tgReset]

@[simp ↓] theorem Device.wfaultClear_touch {S : Nat} {d0 : Device} (d : Device) (t : Fin 9) (who : Nat) (hS : 2147487748 &&& S = 2147487748) :
    Touches S d0 (Device.wfaultClear d t who) ↔ Touches S d0 d := by
  refine Touches.lift (m := 2147487748) ?_ hS
  simp [Device.wfaultClear]

@[simp ↓] theorem Device.srcWritten_touch {S : Nat} {d0 : Device} (d : Device) (s : Fin 256) (who : Nat) (hS : 2147487748 &&& S = 2147487748) :
    Touches S d0 (Device.srcWritten d s who) ↔ Touches S d0 d := by
  refine Touches.lift (m := 2147487748) ?_ hS
  simp [Device.srcWritten]

@[simp ↓] theorem Device.evcSoftReset_touch {S : Nat} {d0 : Device} (d : Device) (who : Nat) (hS : 2147487748 &&& S = 2147487748) :
    Touches S d0 (Device.evcSoftReset d who) ↔ Touches S d0 d := by
  refine Touches.lift (m := 2147487748) ?_ hS
  simp [Device.evcSoftReset]

end Sys2Proof.Machine
end

