-- ==== Sys2Proof/Laws/FramesSystem.lean ====
section
/-! SUPPORT. What each operation of telemetry, synchronisation, one-time-programmable memory, contexts, watchdogs and reads may change: one lemma an operation, with the mask of the kinds of state that
it may touch. -/

set_option maxRecDepth 4000
set_option linter.unusedTactic false
set_option linter.unreachableTactic false

namespace Sys2Proof.Machine
open Sys2Proof

@[simp ↓] theorem Device.updSch_touch {S : Nat} {d0 : Device} (d : Device) (c : Fin 8) (f : StreamChan → StreamChan) (hS : 524288 &&& S = 524288) :
    Touches S d0 (Device.updSch d c f) ↔ Touches S d0 d := by
  refine Touches.lift (m := 524288) ?_ hS
  simp [Device.updSch]

@[simp ↓] theorem Device.tlmSync_touch {S : Nat} {d0 : Device} (d : Device) (cause who : Nat) (hS : 2147483652 &&& S = 2147483652) :
    Touches S d0 (Device.tlmSync d cause who) ↔ Touches S d0 d := by
  refine Touches.lift (m := 2147483652) ?_ hS
  simp [Device.tlmSync]

@[simp ↓] theorem Device.schPut_touch {S : Nat} {d0 : Device} (d : Device) (c : Fin 8) (rec8 : Vector Word 8) (numbered : Bool) (hS : 2149060612 &&& S = 2149060612) :
    Touches S d0 (Device.schPut d c rec8 numbered) ↔ Touches S d0 d := by
  refine Touches.lift (m := 2149060612) ?_ hS
  simp [Device.schPut]

@[simp ↓] theorem Device.schWindow_touch {S : Nat} {d0 : Device} (d : Device) (w : WindowData) (c : Fin 8) (hS : 2149060612 &&& S = 2149060612) :
    Touches S d0 (Device.schWindow d w c) ↔ Touches S d0 d := by
  refine Touches.lift (m := 2149060612) ?_ hS
  simp [Device.schWindow]

@[simp ↓] theorem Device.schStop_touch {S : Nat} {d0 : Device} (d : Device) (c : Fin 8) (hS : 524288 &&& S = 524288) :
    Touches S d0 (Device.schStop d c) ↔ Touches S d0 d := by
  refine Touches.lift (m := 524288) ?_ hS
  simp [Device.schStop]

@[simp ↓] theorem Device.schWrite_touch {S : Nat} {d0 : Device} (d : Device) (c : Fin 8) (word : Fin 3) (v : Word) (who : Nat) (hS : 2148007941 &&& S = 2148007941) :
    Touches S d0 (Device.schWrite d c word v who) ↔ Touches S d0 d := by
  refine Touches.lift (m := 2148007941) ?_ hS
  simp [Device.schWrite]

@[simp ↓] theorem Device.windowRegs_touch {S : Nat} {d0 : Device} (d : Device) (w : WindowData) (hS : 524288 &&& S = 524288) :
    Touches S d0 (Device.windowRegs d w) ↔ Touches S d0 d := by
  refine Touches.lift (m := 524288) ?_ hS
  simp [Device.windowRegs]

@[simp ↓] theorem Device.windowPm_touch {S : Nat} {d0 : Device} (d : Device) (w : WindowData) (hS : 524288 &&& S = 524288) :
    Touches S d0 (Device.windowPm d w) ↔ Touches S d0 d := by
  refine Touches.lift (m := 524288) ?_ hS
  simp [Device.windowPm]

@[simp ↓] theorem Device.peakRead_touch {S : Nat} {d0 : Device} (d : Device) (r : PeakReg) (hS : 524288 &&& S = 524288) :
    Touches S d0 (Device.peakRead d r).2 ↔ Touches S d0 d := by
  refine Touches.lift (m := 524288) ?_ hS
  cases r <;> simp [Device.peakRead]

@[simp ↓] theorem Device.rushRecord_touch {S : Nat} {d0 : Device} (d : Device) (ws : Vector Word 8) (hS : 524290 &&& S = 524290) :
    Touches S d0 (Device.rushRecord d ws) ↔ Touches S d0 d := by
  refine Touches.lift (m := 524290) ?_ hS
  unfold Device.rushRecord; (repeat' split) <;> simp

@[simp ↓] theorem Device.rushWindow_touch {S : Nat} {d0 : Device} (d : Device) (w : WindowData) (hS : 524290 &&& S = 524290) :
    Touches S d0 (Device.rushWindow d w) ↔ Touches S d0 d := by
  refine Touches.lift (m := 524290) ?_ hS
  simp [Device.rushWindow]

@[simp ↓] theorem Device.windowEnd_touch {S : Nat} {d0 : Device} (d : Device) (w : WindowData) (hS : 2149060614 &&& S = 2149060614) :
    Touches S d0 (Device.windowEnd d w) ↔ Touches S d0 d := by
  refine Touches.lift (m := 2149060614) ?_ hS
  simp [Device.windowEnd]

@[simp ↓] theorem Device.windowEnds_touch {S : Nat} {d0 : Device} (d : Device) (x : WindowSamples) (hS : 2149060614 &&& S = 2149060614) :
    Touches S d0 (Device.windowEnds d x) ↔ Touches S d0 d := by
  refine Touches.lift (m := 2149060614) ?_ hS
  simp [Device.windowEnds]

@[simp ↓] theorem Device.rushFreeze_touch {S : Nat} {d0 : Device} (d : Device) (hS : 2148012036 &&& S = 2148012036) :
    Touches S d0 (Device.rushFreeze d) ↔ Touches S d0 d := by
  refine Touches.lift (m := 2148012036) ?_ hS
  simp [Device.rushFreeze]

@[simp ↓] theorem Device.rushRearm_touch {S : Nat} {d0 : Device} (d : Device) (who : Nat) (hS : 2148007940 &&& S = 2148007940) :
    Touches S d0 (Device.rushRearm d who) ↔ Touches S d0 d := by
  refine Touches.lift (m := 2148007940) ?_ hS
  simp [Device.rushRearm]

@[simp ↓] theorem Device.rctlWrite_touch {S : Nat} {d0 : Device} (d : Device) (v : Word) (who : Nat) (hS : 2148007942 &&& S = 2148007942) :
    Touches S d0 (Device.rctlWrite d v who) ↔ Touches S d0 d := by
  refine Touches.lift (m := 2148007942) ?_ hS
  simp [Device.rctlWrite]

@[simp ↓] theorem Device.dayClear_touch {S : Nat} {d0 : Device} (d : Device) (hS : 524288 &&& S = 524288) :
    Touches S d0 (Device.dayClear d) ↔ Touches S d0 d := by
  refine Touches.lift (m := 524288) ?_ hS
  simp [Device.dayClear]

@[simp ↓] theorem Device.dayEnd_touch {S : Nat} {d0 : Device} (d : Device) (meas : Vector DailyMeas 16) (battSecs : Nat) (hS : 524292 &&& S = 524292) :
    Touches S d0 (Device.dayEnd d meas battSecs) ↔ Touches S d0 d := by
  refine Touches.lift (m := 524292) ?_ hS
  unfold Device.dayEnd; repeat' first | (simp; done) | split | dsimp only | refine (touches_foldFin _ _ fun e i => ?_).2 ?_ | refine (touches_foldl _ _ _ fun e i => ?_).2 ?_

@[simp ↓] theorem Device.dayPut_touch {S : Nat} {d0 : Device} (d : Device) (ws : Vector Word 8) (hS : 2149060614 &&& S = 2149060614) :
    Touches S d0 (Device.dayPut d ws) ↔ Touches S d0 d := by
  refine Touches.lift (m := 2149060614) ?_ hS
  simp [Device.dayPut]

@[simp ↓] theorem Device.dayWrite_touch {S : Nat} {d0 : Device} (d : Device) (hS : 19328929798 &&& S = 19328929798) :
    Touches S d0 (Device.dayWrite d) ↔ Touches S d0 d := by
  refine Touches.lift (m := 19328929798) ?_ hS
  unfold Device.dayWrite; (repeat' split) <;> simp

@[simp ↓] theorem Device.tlmWritten_touch {S : Nat} {d0 : Device} (d : Device) (p o : Nat) (old : Word) (who : Nat) (hS : 2148007940 &&& S = 2148007940) :
    Touches S d0 (Device.tlmWritten d p o old who) ↔ Touches S d0 d := by
  refine Touches.lift (m := 2148007940) ?_ hS
  simp [Device.tlmWritten]

@[simp ↓] theorem Device.tlmSoftReset_touch {S : Nat} {d0 : Device} (d : Device) (who : Nat) (hS : 2148007941 &&& S = 2148007941) :
    Touches S d0 (Device.tlmSoftReset d who) ↔ Touches S d0 d := by
  refine Touches.lift (m := 2148007941) ?_ hS
  simp [Device.tlmSoftReset]

@[simp ↓] theorem Device.rushSoftReset_touch {S : Nat} {d0 : Device} (d : Device) (who : Nat) (hS : 2148007942 &&& S = 2148007942) :
    Touches S d0 (Device.rushSoftReset d who) ↔ Touches S d0 d := by
  refine Touches.lift (m := 2148007942) ?_ hS
  simp [Device.rushSoftReset]

@[simp ↓] theorem Device.pmcSync_touch {S : Nat} {d0 : Device} (d : Device) (cause who : Nat) (hS : 2147483652 &&& S = 2147483652) :
    Touches S d0 (Device.pmcSync d cause who) ↔ Touches S d0 d := by
  refine Touches.lift (m := 2147483652) ?_ hS
  simp [Device.pmcSync]

@[simp ↓] theorem Device.pmcBuffer_touch {S : Nat} {d0 : Device} (d : Device) (who : Nat) (b : PmcBuf) (hS : 1048576 &&& S = 1048576) :
    Touches S d0 (Device.pmcBuffer d who b) ↔ Touches S d0 d := by
  refine Touches.lift (m := 1048576) ?_ hS
  simp [Device.pmcBuffer]

@[simp ↓] theorem Device.pmcRead_touch {S : Nat} {d0 : Device} (d : Device) (c : Fin 64) (hi : Bool) (who : Nat) (hS : 1048576 &&& S = 1048576) :
    Touches S d0 (Device.pmcRead d c hi who).2 ↔ Touches S d0 d := by
  refine Touches.lift (m := 1048576) ?_ hS
  unfold Device.pmcRead; repeat' first | (simp; done) | split | dsimp only | refine (touches_foldFin _ _ fun e i => ?_).2 ?_ | refine (touches_foldl _ _ _ fun e i => ?_).2 ?_

@[simp ↓] theorem Device.pmcWrite_touch {S : Nat} {d0 : Device} (d : Device) (c : Fin 64) (hi : Bool) (m v : Word) (hS : 1048580 &&& S = 1048580) :
    Touches S d0 (Device.pmcWrite d c hi m v) ↔ Touches S d0 d := by
  refine Touches.lift (m := 1048580) ?_ hS
  simp [Device.pmcWrite]

@[simp ↓] theorem Device.pmcWrap_touch {S : Nat} {d0 : Device} (d : Device) (c : Fin 64) (hS : 2148536324 &&& S = 2148536324) :
    Touches S d0 (Device.pmcWrap d c) ↔ Touches S d0 d := by
  refine Touches.lift (m := 2148536324) ?_ hS
  simp [Device.pmcWrap]

@[simp ↓] theorem Device.pmcStrobe_touch {S : Nat} {d0 : Device} (d : Device) (hS : 19327352837 &&& S = 19327352837) :
    Touches S d0 (Device.pmcStrobe d) ↔ Touches S d0 d := by
  refine Touches.lift (m := 19327352837) ?_ hS
  simp [Device.pmcStrobe]

@[simp ↓] theorem Device.pmcSoftReset_touch {S : Nat} {d0 : Device} (d : Device) (who : Nat) (hS : 2148532229 &&& S = 2148532229) :
    Touches S d0 (Device.pmcSoftReset d who) ↔ Touches S d0 d := by
  refine Touches.lift (m := 2148532229) ?_ hS
  simp [Device.pmcSoftReset]

@[simp ↓] theorem Device.updSyn_touch {S : Nat} {d0 : Device} (d : Device) (f : Syn → Syn) (hS : 2097152 &&& S = 2097152) :
    Touches S d0 (Device.updSyn d f) ↔ Touches S d0 d := by
  refine Touches.lift (m := 2097152) ?_ hS
  simp [Device.updSyn]

@[simp ↓] theorem Device.slateCommit_touch {S : Nat} {d0 : Device} (d : Device) (b : Vector Word 328) (w0 : Word) (fine : Nat) (hS : 2097152 &&& S = 2097152) :
    Touches S d0 (Device.slateCommit d b w0 fine) ↔ Touches S d0 d := by
  refine Touches.lift (m := 2097152) ?_ hS
  simp [Device.slateCommit]

@[simp ↓] theorem Device.slateLocal_touch {S : Nat} {d0 : Device} (d : Device) (hS : 19329454084 &&& S = 19329454084) :
    Touches S d0 (Device.slateLocal d) ↔ Touches S d0 d := by
  refine Touches.lift (m := 19329454084) ?_ hS
  simp [Device.slateLocal]

@[simp ↓] theorem Device.snapPending_touch {S : Nat} {d0 : Device} (d : Device) (hS : 19329454084 &&& S = 19329454084) :
    Touches S d0 (Device.snapPending d) ↔ Touches S d0 d := by
  refine Touches.lift (m := 19329454084) ?_ hS
  simp [Device.snapPending]

@[simp ↓] theorem Device.snap_touch {S : Nat} {d0 : Device} (d : Device) (hS : 19329454084 &&& S = 19329454084) :
    Touches S d0 (Device.snap d) ↔ Touches S d0 d := by
  refine Touches.lift (m := 19329454084) ?_ hS
  simp [Device.snap]

@[simp ↓] theorem Device.clapEdge_touch {S : Nat} {d0 : Device} (d : Device) (fine : Nat) (hS : 19329974277 &&& S = 19329974277) :
    Touches S d0 (Device.clapEdge d fine) ↔ Touches S d0 d := by
  refine Touches.lift (m := 19329974277) ?_ hS
  simp [Device.clapEdge]

@[simp ↓] theorem Device.clapCommit_touch {S : Nat} {d0 : Device} (d : Device) (num : BitVec 16) (hS : 19330502660 &&& S = 19330502660) :
    Touches S d0 (Device.clapCommit d num) ↔ Touches S d0 d := by
  refine Touches.lift (m := 19330502660) ?_ hS
  unfold Device.clapCommit; (repeat' split) <;> simp

@[simp ↓] theorem Device.clapError_touch {S : Nat} {d0 : Device} (d : Device) (hS : 19330502660 &&& S = 19330502660) :
    Touches S d0 (Device.clapError d) ↔ Touches S d0 d := by
  refine Touches.lift (m := 19330502660) ?_ hS
  simp [Device.clapError]

@[simp ↓] theorem Device.clapSend_touch {S : Nat} {d0 : Device} (d : Device) (hS : 34361835521 &&& S = 34361835521) :
    Touches S d0 (Device.clapSend d) ↔ Touches S d0 d := by
  refine Touches.lift (m := 34361835521) ?_ hS
  simp [Device.clapSend]

@[simp ↓] theorem Device.clapDrive_touch {S : Nat} {d0 : Device} (d : Device) (hS : 34361835525 &&& S = 34361835525) :
    Touches S d0 (Device.clapDrive d) ↔ Touches S d0 d := by
  refine Touches.lift (m := 34361835525) ?_ hS
  simp [Device.clapDrive]

@[simp ↓] theorem Device.clapAuto_touch {S : Nat} {d0 : Device} (d : Device) (hS : 34361835521 &&& S = 34361835521) :
    Touches S d0 (Device.clapAuto d) ↔ Touches S d0 d := by
  refine Touches.lift (m := 34361835521) ?_ hS
  simp [Device.clapAuto]

@[simp ↓] theorem Device.discTo_touch {S : Nat} {d0 : Device} (d : Device) (st : DiscState) (cause : Nat) (who : Nat) (hS : 2149580804 &&& S = 2149580804) :
    Touches S d0 (Device.discTo d st cause who) ↔ Touches S d0 d := by
  refine Touches.lift (m := 2149580804) ?_ hS
  simp [Device.discTo]

@[simp ↓] theorem Device.discFollow_touch {S : Nat} {d0 : Device} (d : Device) (who : Nat) (hS : 2149580804 &&& S = 2149580804) :
    Touches S d0 (Device.discFollow d who) ↔ Touches S d0 d := by
  refine Touches.lift (m := 2149580804) ?_ hS
  simp [Device.discFollow]

@[simp ↓] theorem Device.timeStep_touch {S : Nat} {d0 : Device} (d : Device) (e : Int) (hS : 4297588736 &&& S = 4297588736) :
    Touches S d0 (Device.timeStep d e) ↔ Touches S d0 d := by
  refine Touches.lift (m := 4297588736) ?_ hS
  simp [Device.timeStep]

@[simp ↓] theorem Device.timeSlew_touch {S : Nat} {d0 : Device} (d : Device) (e : Int) (hS : 2097152 &&& S = 2097152) :
    Touches S d0 (Device.timeSlew d e) ↔ Touches S d0 d := by
  refine Touches.lift (m := 2097152) ?_ hS
  simp [Device.timeSlew]

@[simp ↓] theorem Device.timeFrame_touch {S : Nat} {d0 : Device} (d : Device) (t cap : BitVec 64) (hS : 6445072388 &&& S = 6445072388) :
    Touches S d0 (Device.timeFrame d t cap) ↔ Touches S d0 d := by
  refine Touches.lift (m := 6445072388) ?_ hS
  unfold Device.timeFrame; repeat' first | (simp; done) | split | dsimp only | refine (touches_foldFin _ _ fun e i => ?_).2 ?_ | refine (touches_foldl _ _ _ fun e i => ?_).2 ?_

@[simp ↓] theorem Device.timeHoldover_touch {S : Nat} {d0 : Device} (d : Device) (hS : 2149580804 &&& S = 2149580804) :
    Touches S d0 (Device.timeHoldover d) ↔ Touches S d0 d := by
  refine Touches.lift (m := 2149580804) ?_ hS
  simp [Device.timeHoldover]

@[simp ↓] theorem Device.timeSend_touch {S : Nat} {d0 : Device} (d : Device) (hS : 34359738368 &&& S = 34359738368) :
    Touches S d0 (Device.timeSend d) ↔ Touches S d0 d := by
  refine Touches.lift (m := 34359738368) ?_ hS
  simp [Device.timeSend]

@[simp ↓] theorem Device.tsRead_touch {S : Nat} {d0 : Device} (d : Device) (who : Nat) (hS : 2097152 &&& S = 2097152) :
    Touches S d0 (Device.tsRead d who).2 ↔ Touches S d0 d := by
  refine Touches.lift (m := 2097152) ?_ hS
  simp [Device.tsRead]

@[simp ↓] theorem Device.synSoftReset_touch {S : Nat} {d0 : Device} (d : Device) (who : Nat) (hS : 2149580804 &&& S = 2149580804) :
    Touches S d0 (Device.synSoftReset d who) ↔ Touches S d0 d := by
  refine Touches.lift (m := 2149580804) ?_ hS
  simp [Device.synSoftReset]

@[simp ↓] theorem Device.drawScan_touch {S : Nat} {d0 : Device} (d : Device) (hS : 17179869184 &&& S = 17179869184) :
    Touches S d0 (Device.drawScan d).2 ↔ Touches S d0 d := by
  refine Touches.lift (m := 17179869184) ?_ hS
  simp [Device.drawScan]

@[simp ↓] theorem Device.updOtp_touch {S : Nat} {d0 : Device} (d : Device) (f : Otp → Otp) (hS : 33554432 &&& S = 33554432) :
    Touches S d0 (Device.updOtp d f) ↔ Touches S d0 d := by
  refine Touches.lift (m := 33554432) ?_ hS
  simp [Device.updOtp]

@[simp ↓] theorem Device.otpState_touch {S : Nat} {d0 : Device} (d : Device) (c : Nat) (hS : 2147483652 &&& S = 2147483652) :
    Touches S d0 (Device.otpState d c) ↔ Touches S d0 d := by
  refine Touches.lift (m := 2147483652) ?_ hS
  simp [Device.otpState]

@[simp ↓] theorem Device.scanStart_touch {S : Nat} {d0 : Device} (d : Device) (hS : 2181038084 &&& S = 2181038084) :
    Touches S d0 (Device.scanStart d) ↔ Touches S d0 d := by
  refine Touches.lift (m := 2181038084) ?_ hS
  simp [Device.scanStart]

@[simp ↓] theorem Device.otpEnd_touch {S : Nat} {d0 : Device} (d : Device) (result : Nat) (hS : 2181042180 &&& S = 2181042180) :
    Touches S d0 (Device.otpEnd d result) ↔ Touches S d0 d := by
  refine Touches.lift (m := 2181042180) ?_ hS
  simp [Device.otpEnd]

@[simp ↓] theorem Device.readStart_touch {S : Nat} {d0 : Device} (d : Device) (i : Nat) (hS : 2181038084 &&& S = 2181038084) :
    Touches S d0 (Device.readStart d i) ↔ Touches S d0 d := by
  refine Touches.lift (m := 2181038084) ?_ hS
  simp [Device.readStart]

@[simp ↓] theorem Device.otpIdle_touch {S : Nat} {d0 : Device} (d : Device) (hS : 2181038084 &&& S = 2181038084) :
    Touches S d0 (Device.otpIdle d) ↔ Touches S d0 d := by
  refine Touches.lift (m := 2181038084) ?_ hS
  unfold Device.otpIdle; (repeat' split) <;> simp

@[simp ↓] theorem Device.runStart_touch {S : Nat} {d0 : Device} (d : Device) (f : OtpArray) (r : OtpRun) (hS : 19360911364 &&& S = 19360911364) :
    Touches S d0 (Device.runStart d f r) ↔ Touches S d0 d := by
  refine Touches.lift (m := 19360911364) ?_ hS
  unfold Device.runStart; repeat' first | (simp; done) | split | dsimp only | refine (touches_foldFin _ _ fun e i => ?_).2 ?_ | refine (touches_foldl _ _ _ fun e i => ?_).2 ?_

@[simp ↓] theorem Device.otpNext_touch {S : Nat} {d0 : Device} (d : Device) (f : OtpArray) (hS : 19360911364 &&& S = 19360911364) :
    Touches S d0 (Device.otpNext d f) ↔ Touches S d0 d := by
  refine Touches.lift (m := 19360911364) ?_ hS
  unfold Device.otpNext; (repeat' split) <;> simp

@[simp ↓] theorem Device.otpAfterScan_touch {S : Nat} {d0 : Device} (d : Device) (f : OtpArray) (hS : 19360911364 &&& S = 19360911364) :
    Touches S d0 (Device.otpAfterScan d f) ↔ Touches S d0 d := by
  refine Touches.lift (m := 19360911364) ?_ hS
  unfold Device.otpAfterScan; (repeat' split) <;> simp

@[simp ↓] theorem Device.scanRequest_touch {S : Nat} {d0 : Device} (d : Device) (f : OtpArray) (hS : 19360911364 &&& S = 19360911364) :
    Touches S d0 (Device.scanRequest d f) ↔ Touches S d0 d := by
  refine Touches.lift (m := 19360911364) ?_ hS
  simp [Device.scanRequest]

@[simp ↓] theorem Device.tempScan_touch {S : Nat} {d0 : Device} (d : Device) (f : OtpArray) (hS : 19360911364 &&& S = 19360911364) :
    Touches S d0 (Device.tempScan d f) ↔ Touches S d0 d := by
  refine Touches.lift (m := 19360911364) ?_ hS
  simp [Device.tempScan]

@[simp ↓] theorem Device.scanMargins_touch {S : Nat} {d0 : Device} (d : Device) (f : OtpArray) (hS : 2181042180 &&& S = 2181042180) :
    Touches S d0 (Device.scanMargins d f) ↔ Touches S d0 d := by
  refine Touches.lift (m := 2181042180) ?_ hS
  simp [Device.scanMargins]

@[simp ↓] theorem Device.scanDone_touch {S : Nat} {d0 : Device} (d : Device) (f : OtpArray) (hS : 19360911364 &&& S = 19360911364) :
    Touches S d0 (Device.scanDone d f) ↔ Touches S d0 d := by
  refine Touches.lift (m := 19360911364) ?_ hS
  simp [Device.scanDone]

@[simp ↓] theorem Device.otpRefuse_touch {S : Nat} {d0 : Device} (d : Device) (hS : 33554436 &&& S = 33554436) :
    Touches S d0 (Device.otpRefuse d) ↔ Touches S d0 d := by
  refine Touches.lift (m := 33554436) ?_ hS
  simp [Device.otpRefuse]

@[simp ↓] theorem Device.otpRequest_touch {S : Nat} {d0 : Device} (d : Device) (f : OtpArray) (k : OtpKind) (key : Nat) (noChk : Bool) (hS : 19360911364 &&& S = 19360911364) :
    Touches S d0 (Device.otpRequest d f k key noChk) ↔ Touches S d0 d := by
  refine Touches.lift (m := 19360911364) ?_ hS
  simp [Device.otpRequest]

@[simp ↓] theorem Device.otpAbort_touch {S : Nat} {d0 : Device} (d : Device) (f : OtpArray) (hS : 19360911364 &&& S = 19360911364) :
    Touches S d0 (Device.otpAbort d f) ↔ Touches S d0 d := by
  refine Touches.lift (m := 19360911364) ?_ hS
  unfold Device.otpAbort; (repeat' split) <;> simp

@[simp ↓] theorem Device.pulseStart_touch {S : Nat} {d0 : Device} (d : Device) (f : OtpArray) (r : OtpRun) (hS : 19360911364 &&& S = 19360911364) :
    Touches S d0 (Device.pulseStart d f r) ↔ Touches S d0 d := by
  refine Touches.lift (m := 19360911364) ?_ hS
  simp [Device.pulseStart]

@[simp ↓] theorem Device.supplyReady_touch {S : Nat} {d0 : Device} (d : Device) (f : OtpArray) (ok : Bool) (hS : 19360911364 &&& S = 19360911364) :
    Touches S d0 (Device.supplyReady d f ok) ↔ Touches S d0 d := by
  refine Touches.lift (m := 19360911364) ?_ hS
  unfold Device.supplyReady; (repeat' split) <;> simp

@[simp ↓] theorem Device.afterPulse_touch {S : Nat} {d0 : Device} (d : Device) (f : OtpArray) (r : OtpRun) (ok : Bool) (hS : 19360911364 &&& S = 19360911364) :
    Touches S d0 (Device.afterPulse d f r ok) ↔ Touches S d0 d := by
  refine Touches.lift (m := 19360911364) ?_ hS
  unfold Device.afterPulse; (repeat' split) <;> simp

@[simp ↓] theorem Device.pulseDone_touch {S : Nat} {d0 : Device} (d : Device) (f : OtpArray) (m1 ok : Bool) (hS : 19360911364 &&& S = 19360911364) :
    Touches S d0 (Device.pulseDone d f m1 ok).1 ↔ Touches S d0 d := by
  refine Touches.lift (m := 19360911364) ?_ hS
  unfold Device.pulseDone; (repeat' split) <;> simp

@[simp ↓] theorem Device.pulseCut_touch {S : Nat} {d0 : Device} (d : Device) (f : OtpArray) (hS : 17179869184 &&& S = 17179869184) :
    Touches S d0 (Device.pulseCut d f).1 ↔ Touches S d0 d := by
  refine Touches.lift (m := 17179869184) ?_ hS
  unfold Device.pulseCut; (repeat' split) <;> simp

@[simp ↓] theorem Device.otpRead_touch {S : Nat} {d0 : Device} (d : Device) (f : OtpArray) (i : Nat) (hS : 19360911364 &&& S = 19360911364) :
    Touches S d0 (Device.otpRead d f i) ↔ Touches S d0 d := by
  refine Touches.lift (m := 19360911364) ?_ hS
  simp [Device.otpRead]

@[simp ↓] theorem Device.otpReadDone_touch {S : Nat} {d0 : Device} (d : Device) (f : OtpArray) (hS : 19360911364 &&& S = 19360911364) :
    Touches S d0 (Device.otpReadDone d f) ↔ Touches S d0 d := by
  refine Touches.lift (m := 19360911364) ?_ hS
  unfold Device.otpReadDone; (repeat' split) <;> simp

@[simp ↓] theorem Device.hkcSync_touch {S : Nat} {d0 : Device} (d : Device) (cause : Nat) (who : Nat) (hS : 2147483652 &&& S = 2147483652) :
    Touches S d0 (Device.hkcSync d cause who) ↔ Touches S d0 d := by
  refine Touches.lift (m := 2147483652) ?_ hS
  simp [Device.hkcSync]

@[simp ↓] theorem Device.patchInstall_touch {S : Nat} {d0 : Device} (d : Device) (s : List Word) (hS : 67108864 &&& S = 67108864) :
    Touches S d0 (Device.patchInstall d s) ↔ Touches S d0 d := by
  refine Touches.lift (m := 67108864) ?_ hS
  simp [Device.patchInstall]

@[simp ↓] theorem Device.updCtx_touch {S : Nat} {d0 : Device} (d : Device) (n : Fin 8) (f : Ctx → Ctx) (hS : 16 &&& S = 16) :
    Touches S d0 (Device.updCtx d n f) ↔ Touches S d0 d := by
  refine Touches.lift (m := 16) ?_ hS
  simp [Device.updCtx]

@[simp ↓] theorem Device.renew_touch {S : Nat} {d0 : Device} (d : Device) (r : Requester) (hS : 16 &&& S = 16) :
    Touches S d0 (Device.renew d r) ↔ Touches S d0 d := by
  refine Touches.lift (m := 16) ?_ hS
  unfold Device.renew; (repeat' split) <;> simp

@[simp ↓] theorem Device.updWd_touch {S : Nat} {d0 : Device} (d : Device) (k : Fin 9) (f : Wdt → Wdt) (hS : 8192 &&& S = 8192) :
    Touches S d0 (Device.updWd d k f) ↔ Touches S d0 d := by
  refine Touches.lift (m := 8192) ?_ hS
  simp [Device.updWd]

@[simp ↓] theorem Device.wdtTo_touch {S : Nat} {d0 : Device} (d : Device) (k : Fin 9) (st : WdtState) (cause : Nat) (who : Nat) (hS : 2147491844 &&& S = 2147491844) :
    Touches S d0 (Device.wdtTo d k st cause who) ↔ Touches S d0 d := by
  refine Touches.lift (m := 2147491844) ?_ hS
  simp [Device.wdtTo]

@[simp ↓] theorem Device.wdtDisarm_touch {S : Nat} {d0 : Device} (d : Device) (k : Fin 9) (cause : Nat) (who : Nat) (hS : 2147491844 &&& S = 2147491844) :
    Touches S d0 (Device.wdtDisarm d k cause who) ↔ Touches S d0 d := by
  refine Touches.lift (m := 2147491844) ?_ hS
  simp [Device.wdtDisarm]

@[simp ↓] theorem Device.safeLoop_touch {S : Nat} {d0 : Device} (d : Device) (n : Fin 16) (hS : 69 &&& S = 69) :
    Touches S d0 (Device.safeLoop d n) ↔ Touches S d0 d := by
  refine Touches.lift (m := 69) ?_ hS
  simp [Device.safeLoop]

@[simp ↓] theorem Device.safeLoopStart_touch {S : Nat} {d0 : Device} (d : Device) (n : Fin 16) (hS : 69 &&& S = 69) :
    Touches S d0 (Device.safeLoopStart d n) ↔ Touches S d0 d := by
  refine Touches.lift (m := 69) ?_ hS
  simp [Device.safeLoopStart]

@[simp ↓] theorem Device.safeSettle_touch {S : Nat} {d0 : Device} (d : Device) (hS : 69 &&& S = 69) :
    Touches S d0 (Device.safeSettle d) ↔ Touches S d0 d := by
  refine Touches.lift (m := 69) ?_ hS
  simp [Device.safeSettle]

@[simp ↓] theorem Device.applyExpiry_touch {S : Nat} {d0 : Device} (d : Device) (p : Nat) (who : Nat) (hS : 2149118951 &&& S = 2149118951) :
    Touches S d0 (Device.applyExpiry d p who) ↔ Touches S d0 d := by
  refine Touches.lift (m := 2149118951) ?_ hS
  unfold Device.applyExpiry; (repeat' split) <;> simp

@[simp ↓] theorem Device.disown_touch {S : Nat} {d0 : Device} (d : Device) (f : OtpArray) (p : Nat) (hS : 19360911364 &&& S = 19360911364) :
    Touches S d0 (Device.disown d f p) ↔ Touches S d0 d := by
  refine Touches.lift (m := 19360911364) ?_ hS
  simp [Device.disown]

@[simp ↓] theorem Device.ctxOpenOn_touch {S : Nat} {d0 : Device} (d : Device) (p : HostPort) (smbus : Bool) (nonce : BitVec 16) (want : Nat) (hS : 2424311829 &&& S = 2424311829) :
    Touches S d0 (Device.ctxOpenOn d p smbus nonce want).1 ↔ Touches S d0 d := by
  refine Touches.lift (m := 2424311829) ?_ hS
  unfold Device.ctxOpenOn; repeat' first | (simp; done) | split | dsimp only | refine (touches_foldFin _ _ fun e i => ?_).2 ?_ | refine (touches_foldl _ _ _ fun e i => ?_).2 ?_

@[simp ↓] theorem Device.unfreeze_touch {S : Nat} {d0 : Device} (d : Device) (n : Fin 8) (hS : 4 &&& S = 4) :
    Touches S d0 (Device.unfreeze d n) ↔ Touches S d0 d := by
  refine Touches.lift (m := 4) ?_ hS
  simp [Device.unfreeze]

@[simp ↓] theorem Device.ctxEnd_touch {S : Nat} {d0 : Device} (d : Device) (f : OtpArray) (n : Fin 8) (e : Nat) (hS : 53865149431 &&& S = 53865149431) :
    Touches S d0 (Device.ctxEnd d f n e) ↔ Touches S d0 d := by
  refine Touches.lift (m := 53865149431) ?_ hS
  simp [Device.ctxEnd]

@[simp ↓] theorem Device.ctxQuarantine_touch {S : Nat} {d0 : Device} (d : Device) (n : Fin 8) (hS : 16 &&& S = 16) :
    Touches S d0 (Device.ctxQuarantine d n) ↔ Touches S d0 d := by
  refine Touches.lift (m := 16) ?_ hS
  simp [Device.ctxQuarantine]

@[simp ↓] theorem Device.ctxFree_touch {S : Nat} {d0 : Device} (d : Device) (n : Fin 8) (hS : 16 &&& S = 16) :
    Touches S d0 (Device.ctxFree d n) ↔ Touches S d0 d := by
  refine Touches.lift (m := 16) ?_ hS
  simp [Device.ctxFree]

@[simp ↓] theorem Device.hcxOpen_touch {S : Nat} {d0 : Device} (d : Device) (src : Source) (w : Word) (hS : 2424311829 &&& S = 2424311829) :
    Touches S d0 (Device.hcxOpen d src w) ↔ Touches S d0 d := by
  refine Touches.lift (m := 2424311829) ?_ hS
  unfold Device.hcxOpen; (repeat' split) <;> simp

@[simp ↓] theorem Device.hcxClose_touch {S : Nat} {d0 : Device} (d : Device) (f : OtpArray) (r : Requester) (w : Word) (hS : 53865149431 &&& S = 53865149431) :
    Touches S d0 (Device.hcxClose d f r w) ↔ Touches S d0 d := by
  refine Touches.lift (m := 53865149431) ?_ hS
  unfold Device.hcxClose; (repeat' split) <;> simp

@[simp ↓] theorem Device.hcxEvict_touch {S : Nat} {d0 : Device} (d : Device) (f : OtpArray) (r : Requester) (w : Word) (hS : 53865149431 &&& S = 53865149431) :
    Touches S d0 (Device.hcxEvict d f r w) ↔ Touches S d0 d := by
  refine Touches.lift (m := 53865149431) ?_ hS
  unfold Device.hcxEvict; (repeat' split) <;> simp

@[simp ↓] theorem Device.hcxLease_touch {S : Nat} {d0 : Device} (d : Device) (r : Requester) (n : Fin 8) (m v : Word) (hS : 16 &&& S = 16) :
    Touches S d0 (Device.hcxLease d r n m v) ↔ Touches S d0 d := by
  refine Touches.lift (m := 16) ?_ hS
  simp [Device.hcxLease]

@[simp ↓] theorem Device.leaseExpiry_touch {S : Nat} {d0 : Device} (d : Device) (f : OtpArray) (n : Fin 8) (hS : 53865149431 &&& S = 53865149431) :
    Touches S d0 (Device.leaseExpiry d f n) ↔ Touches S d0 d := by
  refine Touches.lift (m := 53865149431) ?_ hS
  simp [Device.leaseExpiry]

@[simp ↓] theorem Device.claimRequest_touch {S : Nat} {d0 : Device} (d : Device) (r : Requester) (p : Nat) (hS : 134217732 &&& S = 134217732) :
    Touches S d0 (Device.claimRequest d r p) ↔ Touches S d0 d := by
  refine Touches.lift (m := 134217732) ?_ hS
  unfold Device.claimRequest; (repeat' split) <;> simp

@[simp ↓] theorem Device.claimRelease_touch {S : Nat} {d0 : Device} (d : Device) (r : Requester) (p : Nat) (hS : 134217732 &&& S = 134217732) :
    Touches S d0 (Device.claimRelease d r p) ↔ Touches S d0 d := by
  refine Touches.lift (m := 134217732) ?_ hS
  simp [Device.claimRelease]

@[simp ↓] theorem Device.arbitratePage_touch {S : Nat} {d0 : Device} (reqs : List ClaimReq) (d : Device) (p : Nat) (hS : 134217732 &&& S = 134217732) :
    Touches S d0 (Device.arbitratePage reqs d p) ↔ Touches S d0 d := by
  refine Touches.lift (m := 134217732) ?_ hS
  unfold Device.arbitratePage; repeat' first | (simp; done) | split | dsimp only | refine (touches_foldFin _ _ fun e i => ?_).2 ?_ | refine (touches_foldl _ _ _ fun e i => ?_).2 ?_

@[simp ↓] theorem Device.claimRound_touch {S : Nat} {d0 : Device} (d : Device) (f : OtpArray) (hS : 19495129092 &&& S = 19495129092) :
    Touches S d0 (Device.claimRound d f) ↔ Touches S d0 d := by
  refine Touches.lift (m := 19495129092) ?_ hS
  simp [Device.claimRound]

@[simp ↓] theorem Device.policyWrite_touch {S : Nat} {d0 : Device} (d : Device) (r : Requester) (p : Nat) (m v : Word) (hS : 4 &&& S = 4) :
    Touches S d0 (Device.policyWrite d r p m v) ↔ Touches S d0 d := by
  refine Touches.lift (m := 4) ?_ hS
  simp [Device.policyWrite]

@[simp ↓] theorem Device.ownerWrite_touch {S : Nat} {d0 : Device} (d : Device) (r : Requester) (p : Nat) (m v : Word) (hS : 134217732 &&& S = 134217732) :
    Touches S d0 (Device.ownerWrite d r p m v) ↔ Touches S d0 d := by
  refine Touches.lift (m := 134217732) ?_ hS
  simp [Device.ownerWrite]

@[simp ↓] theorem Device.lockWrite_touch {S : Nat} {d0 : Device} (d : Device) (r : Requester) (p : Nat) (m v : Word) (hS : 4 &&& S = 4) :
    Touches S d0 (Device.lockWrite d r p m v) ↔ Touches S d0 d := by
  refine Touches.lift (m := 4) ?_ hS
  simp [Device.lockWrite]

@[simp ↓] theorem Device.coreRestart_touch {S : Nat} {d0 : Device} (d : Device) (f : OtpArray) (byWdt : Bool) (who : Nat) (hS : 19428028428 &&& S = 19428028428) :
    Touches S d0 (Device.coreRestart d f byWdt who) ↔ Touches S d0 d := by
  refine Touches.lift (m := 19428028428) ?_ hS
  simp [Device.coreRestart]

@[simp ↓] theorem Device.wdtWindow_touch {S : Nat} {d0 : Device} (d : Device) (k : Fin 9) (wcnt : Nat) (hS : 8192 &&& S = 8192) :
    Touches S d0 (Device.wdtWindow d k wcnt) ↔ Touches S d0 d := by
  refine Touches.lift (m := 8192) ?_ hS
  unfold Device.wdtWindow; repeat' first | (simp; done) | split | dsimp only | refine (touches_foldFin _ _ fun e i => ?_).2 ?_ | refine (touches_foldl _ _ _ fun e i => ?_).2 ?_

@[simp ↓] theorem Device.wdtLinesSync_touch {S : Nat} {d0 : Device} (d : Device) (hS : 2147488260 &&& S = 2147488260) :
    Touches S d0 (Device.wdtLinesSync d) ↔ Touches S d0 d := by
  refine Touches.lift (m := 2147488260) ?_ hS
  simp [Device.wdtLinesSync]

@[simp ↓] theorem Device.wdtTrip_touch {S : Nat} {d0 : Device} (d : Device) (f : OtpArray) (k : Fin 9) (hS : 53932389375 &&& S = 53932389375) :
    Touches S d0 (Device.wdtTrip d f k) ↔ Touches S d0 d := by
  refine Touches.lift (m := 53932389375) ?_ hS
  unfold Device.wdtTrip; (repeat' split) <;> simp

@[simp ↓] theorem Device.wdtExpire_touch {S : Nat} {d0 : Device} (d : Device) (f : OtpArray) (k : Fin 9) (reason : Nat) (hS : 53932389375 &&& S = 53932389375) :
    Touches S d0 (Device.wdtExpire d f k reason) ↔ Touches S d0 d := by
  refine Touches.lift (m := 53932389375) ?_ hS
  unfold Device.wdtExpire; repeat' first | (simp; done) | split | dsimp only | refine (touches_foldFin _ _ fun e i => ?_).2 ?_ | refine (touches_foldl _ _ _ fun e i => ?_).2 ?_

@[simp ↓] theorem Device.wdtArmNow_touch {S : Nat} {d0 : Device} (d : Device) (k : Fin 9) (cause who : Nat) (hS : 2147688452 &&& S = 2147688452) :
    Touches S d0 (Device.wdtArmNow d k cause who) ↔ Touches S d0 d := by
  refine Touches.lift (m := 2147688452) ?_ hS
  simp [Device.wdtArmNow]

@[simp ↓] theorem Device.wdtHoldEnd_touch {S : Nat} {d0 : Device} (d : Device) (k : Fin 9) (hS : 2147693060 &&& S = 2147693060) :
    Touches S d0 (Device.wdtHoldEnd d k) ↔ Touches S d0 d := by
  refine Touches.lift (m := 2147693060) ?_ hS
  simp [Device.wdtHoldEnd]

@[simp ↓] theorem Device.wdtRun_touch {S : Nat} {d0 : Device} (f : OtpArray) (k : Fin 9) (n : Nat) (d : Device) (dt : Nat) (hS : 53932454911 &&& S = 53932454911) :
    Touches S d0 (Device.wdtRun f k n d dt) ↔ Touches S d0 d := by
  refine Touches.lift (m := 53932454911) ?_ hS
  induction n generalizing d dt with
  | zero => exact Touches.same d
  | succ n ih =>
    have ih2 : ∀ (d0 d : Device) (dt : Nat), Touches 53932454911 d0 (Device.wdtRun f k n d dt) ↔ Touches 53932454911 d0 d :=
      fun _ d dt => Touches.iff (ih d dt)
    unfold Device.wdtRun
    simp [ih2]

@[simp ↓] theorem Device.wdtAdvance_touch {S : Nat} {d0 : Device} (d : Device) (f : OtpArray) (k : Fin 9) (dt : Nat) (hS : 53932454911 &&& S = 53932454911) :
    Touches S d0 (Device.wdtAdvance d f k dt) ↔ Touches S d0 d := by
  refine Touches.lift (m := 53932454911) ?_ hS
  simp [Device.wdtAdvance]

@[simp ↓] theorem Device.wdtService_touch {S : Nat} {d0 : Device} (d : Device) (f : OtpArray) (k : Fin 9) (hS : 53932389375 &&& S = 53932389375) :
    Touches S d0 (Device.wdtService d f k) ↔ Touches S d0 d := by
  refine Touches.lift (m := 53932389375) ?_ hS
  unfold Device.wdtService; repeat' first | (simp; done) | split | dsimp only | refine (touches_foldFin _ _ fun e i => ?_).2 ?_ | refine (touches_foldl _ _ _ fun e i => ?_).2 ?_

@[simp ↓] theorem Device.wdtCheckin_touch {S : Nat} {d0 : Device} (d : Device) (f : OtpArray) (k : Fin 9) (task : BitVec 16) (hS : 53932389375 &&& S = 53932389375) :
    Touches S d0 (Device.wdtCheckin d f k task) ↔ Touches S d0 d := by
  refine Touches.lift (m := 53932389375) ?_ hS
  simp [Device.wdtCheckin]

@[simp ↓] theorem Device.wdtAnswer_touch {S : Nat} {d0 : Device} (d : Device) (f : OtpArray) (k : Fin 9) (token : BitVec 16) (hS : 53932389375 &&& S = 53932389375) :
    Touches S d0 (Device.wdtAnswer d f k token) ↔ Touches S d0 d := by
  refine Touches.lift (m := 53932389375) ?_ hS
  simp [Device.wdtAnswer]

@[simp ↓] theorem Device.wdtArm_touch {S : Nat} {d0 : Device} (d : Device) (k : Fin 9) (who : Nat) (hS : 2147688452 &&& S = 2147688452) :
    Touches S d0 (Device.wdtArm d k who) ↔ Touches S d0 d := by
  refine Touches.lift (m := 2147688452) ?_ hS
  unfold Device.wdtArm; (repeat' split) <;> simp

@[simp ↓] theorem Device.wdtDisarmWrite_touch {S : Nat} {d0 : Device} (d : Device) (k : Fin 9) (key : Nat) (who : Nat) (hS : 2147491844 &&& S = 2147491844) :
    Touches S d0 (Device.wdtDisarmWrite d k key who) ↔ Touches S d0 d := by
  refine Touches.lift (m := 2147491844) ?_ hS
  simp [Device.wdtDisarmWrite]

@[simp ↓] theorem Device.wdtQueue_touch {S : Nat} {d0 : Device} (d : Device) (k : Fin 9) (c : BitVec 16) (hS : 8192 &&& S = 8192) :
    Touches S d0 (Device.wdtQueue d k c) ↔ Touches S d0 d := by
  refine Touches.lift (m := 8192) ?_ hS
  simp [Device.wdtQueue]

@[simp ↓] theorem Device.wdtFill_touch {S : Nat} {d0 : Device} (d : Device) (chal : Vector (List (BitVec 16)) 9) (hS : 8192 &&& S = 8192) :
    Touches S d0 (Device.wdtFill d chal) ↔ Touches S d0 d := by
  refine Touches.lift (m := 8192) ?_ hS
  unfold Device.wdtFill; repeat' first | (simp; done) | split | dsimp only | refine (touches_foldFin _ _ fun e i => ?_).2 ?_ | refine (touches_foldl _ _ _ fun e i => ?_).2 ?_

@[simp ↓] theorem Device.wdtSoftReset_touch {S : Nat} {d0 : Device} (d : Device) (k : Fin 9) (hS : 8196 &&& S = 8196) :
    Touches S d0 (Device.wdtSoftReset d k) ↔ Touches S d0 d := by
  refine Touches.lift (m := 8196) ?_ hS
  simp [Device.wdtSoftReset]

@[simp ↓] theorem Device.gauTouch_touch {S : Nat} {d0 : Device} (d : Device) (p : Nat) (hS : 196608 &&& S = 196608) :
    Touches S d0 (Device.gauTouch d p) ↔ Touches S d0 d := by
  refine Touches.lift (m := 196608) ?_ hS
  simp [Device.gauTouch]

@[simp ↓] theorem Device.accessed_touch {S : Nat} {d0 : Device} (d : Device) (src : Source) (p : Nat) (quiet : Bool) (hS : 2148732948 &&& S = 2148732948) :
    Touches S d0 (Device.accessed d src p quiet) ↔ Touches S d0 d := by
  refine Touches.lift (m := 2148732948) ?_ hS
  simp [Device.accessed]

@[simp ↓] theorem Device.readPlain_touch {S : Nat} {d0 : Device} (d : Device) (src : Source) (a : Nat) (hS : 3735552 &&& S = 3735552) :
    Touches S d0 (Device.readPlain d src a).2 ↔ Touches S d0 d := by
  refine Touches.lift (m := 3735552) ?_ hS
  unfold Device.readPlain; (repeat' split) <;> simp

@[simp ↓] theorem Device.readWord_touch {S : Nat} {d0 : Device} (d : Device) (src : Source) (a : Nat) (hS : 2151354388 &&& S = 2151354388) :
    Touches S d0 (Device.readWord d src a).2 ↔ Touches S d0 d := by
  refine Touches.lift (m := 2151354388) ?_ hS
  simp [Device.readWord]

end Sys2Proof.Machine
end

