-- ==== Sys2Proof/Laws/FramesAccess.lean ====
section
/-! SUPPORT. What each operation of the loader, register writes, transfers, boot, ports and the counters of a cycle may change: one lemma an operation, with the mask of the kinds of state that
it may touch. -/

set_option maxRecDepth 4000
set_option linter.unusedTactic false
set_option linter.unreachableTactic false

namespace Sys2Proof.Machine
open Sys2Proof

theorem Device.loadHeader_touch {S : Nat} {d0 : Device} (d : Device) (reload : Bool) (p o : Nat) (w : Word) (hS : 4 &&& S = 4)
    (e : Device) (he : d.loadHeader reload p o w = some e) : Touches S d0 e ↔ Touches S d0 d := by
  refine Touches.lift (m := 4) ?_ hS
  unfold Device.loadHeader at he
  dsimp only at he
  (repeat' split at he) <;> (try cases he) <;> simp

theorem Device.loadField_touch {S : Nat} {d0 : Device} (d : Device) (p o : Nat) (w : Word) (hS : 1315351 &&& S = 1315351)
    (e : Device) (he : d.loadField p o w = some e) : Touches S d0 e ↔ Touches S d0 d := by
  refine Touches.lift (m := 1315351) ?_ hS
  unfold Device.loadField at he
  dsimp only at he
  (repeat' split at he) <;> (try cases he) <;> simp

theorem Device.loadWrite_touch {S : Nat} {d0 : Device} (d : Device) (reload : Bool) (a : Nat) (w : Word) (hS : 1315351 &&& S = 1315351)
    (e : Device) (he : d.loadWrite reload a w = some e) : Touches S d0 e ↔ Touches S d0 d := by
  refine Touches.lift (m := 1315351) ?_ hS
  unfold Device.loadWrite at he
  dsimp only at he
  (repeat' split at he) <;> first
    | exact (Device.loadHeader_touch _ _ _ _ _ (by decide) _ he).2 (Touches.same d)
    | exact (Device.loadField_touch _ _ _ _ (by decide) _ he).2 (Touches.same d)
    | (cases he; done)
    | (cases he; simp)

@[simp ↓] theorem LoadRun.put_touch {S : Nat} {d0 : Device} (l : LoadRun) (reload : Bool) (a : Nat) (w : Word) (hS : 1315351 &&& S = 1315351) :
    Touches S d0 (l.put reload a w).dev ↔ Touches S d0 l.dev := by
  refine Touches.lift (m := 1315351) ?_ hS
  unfold LoadRun.put
  split
  · rename_i e he
    exact (Device.loadWrite_touch _ _ _ _ (by decide) e he).2 (Touches.same _)
  · exact Touches.same _

@[simp ↓] theorem loadRecords_touch {S : Nat} {d0 : Device} (reload : Bool) (n : Nat) (ws : List Word) (l : LoadRun) (hS : 1315351 &&& S = 1315351) :
    Touches S d0 (loadRecords reload n ws l).dev ↔ Touches S d0 l.dev := by
  refine Touches.lift (m := 1315351) ?_ hS
  induction n generalizing ws l with
  | zero => exact Touches.same _
  | succ n ih =>
    have ih2 : ∀ (d0 : Device) ws l, Touches 1315351 d0 (loadRecords reload n ws l).dev ↔ Touches 1315351 d0 l.dev := fun _ ws l => Touches.iff (ih ws l)
    cases ws with
    | nil => exact Touches.same _
    | cons h r =>
      unfold loadRecords
      dsimp only
      split
      · simp [ih2]
      · split <;> simp [ih2]

@[simp ↓] theorem Device.factoryRegs_touch {S : Nat} {d0 : Device} (d : Device) (reload : Bool) (hS : 1 &&& S = 1) :
    Touches S d0 (Device.factoryRegs d reload) ↔ Touches S d0 d := by
  refine Touches.lift (m := 1) ?_ hS
  unfold Device.factoryRegs
  refine (touches_foldl _ _ _ fun e i => ?_).2 (Touches.same d)
  refine touches_foldl _ _ _ fun e j => ?_
  refine touches_foldl _ _ _ fun e k => ?_
  refine touches_foldl _ _ _ fun e l => ?_
  simp only [touches_ite, Device.setReg_touch, Nat.reduceAnd, ite_self]

@[simp ↓] theorem Device.loadSheet_touch {S : Nat} {d0 : Device} (d : Device) (reload : Bool) (v : Store) (g : Nat) (hS : 1315351 &&& S = 1315351) :
    Touches S d0 (Device.loadSheet d reload v g).dev ↔ Touches S d0 d := by
  refine Touches.lift (m := 1315351) ?_ hS
  simp [Device.loadSheet]

@[simp ↓] theorem Device.judgeRegs_touch {S : Nat} {d0 : Device} (d : Device) (reload : Bool) (hS : 4 &&& S = 4) :
    Touches S d0 (Device.judgeRegs d reload) ↔ Touches S d0 d := by
  refine Touches.lift (m := 4) ?_ hS
  unfold Device.judgeRegs
  refine (touches_foldl _ _ _ fun e i => ?_).2 (Touches.same d)
  refine touches_foldl _ _ _ fun e j => ?_
  refine touches_foldl _ _ _ fun e k => ?_
  refine touches_foldl _ _ _ fun e l => ?_
  simp only [touches_ite, Device.setErr_touch, Nat.reduceAnd, ite_self]

@[simp ↓] theorem Device.judgeRings_touch {S : Nat} {d0 : Device} (d : Device) (hS : 4 &&& S = 4) :
    Touches S d0 (Device.judgeRings d) ↔ Touches S d0 d := by
  refine Touches.lift (m := 4) ?_ hS
  simp [Device.judgeRings]

@[simp ↓] theorem Device.judgeMaps_touch {S : Nat} {d0 : Device} (d : Device) (hS : 5 &&& S = 5) :
    Touches S d0 (Device.judgeMaps d) ↔ Touches S d0 d := by
  refine Touches.lift (m := 5) ?_ hS
  simp [Device.judgeMaps]

@[simp ↓] theorem Device.loadPhases_touch {S : Nat} {d0 : Device} (d : Device) (hS : 32 &&& S = 32) :
    Touches S d0 (Device.loadPhases d) ↔ Touches S d0 d := by
  refine Touches.lift (m := 32) ?_ hS
  simp [Device.loadPhases]

@[simp ↓] theorem Device.loadSync_touch {S : Nat} {d0 : Device} (d old : Device) (hS : 2159547366 &&& S = 2159547366) :
    Touches S d0 (Device.loadSync d old) ↔ Touches S d0 d := by
  refine Touches.lift (m := 2159547366) ?_ hS
  simp [Device.loadSync]

@[simp ↓] theorem Device.loadEnables_touch {S : Nat} {d0 : Device} (d old : Device) (hS : 36509111271 &&& S = 36509111271) :
    Touches S d0 (Device.loadEnables d old) ↔ Touches S d0 d := by
  refine Touches.lift (m := 36509111271) ?_ hS
  simp [Device.loadEnables]

@[simp ↓] theorem Device.reloadNow_touch {S : Nat} {d0 : Device} (d : Device) (f : OtpArray) (hS : 54806762487 &&& S = 54806762487) :
    Touches S d0 (Device.reloadNow d f) ↔ Touches S d0 d := by
  refine Touches.lift (m := 54806762487) ?_ hS
  unfold Device.reloadNow; repeat' first | (simp; done) | split | dsimp only | refine (touches_foldFin _ _ fun e i => ?_).2 ?_ | refine (touches_foldl _ _ _ fun e i => ?_).2 ?_

@[simp ↓] theorem Device.reloadWaiting_touch {S : Nat} {d0 : Device} (d : Device) (f : OtpArray) (hS : 54806762487 &&& S = 54806762487) :
    Touches S d0 (Device.reloadWaiting d f) ↔ Touches S d0 d := by
  refine Touches.lift (m := 54806762487) ?_ hS
  simp [Device.reloadWaiting]

@[simp ↓] theorem Device.otpReload_touch {S : Nat} {d0 : Device} (d : Device) (f : OtpArray) (w : Word) (hS : 54806762487 &&& S = 54806762487) :
    Touches S d0 (Device.otpReload d f w) ↔ Touches S d0 d := by
  refine Touches.lift (m := 54806762487) ?_ hS
  simp [Device.otpReload]

@[simp ↓] theorem Device.putIf_touch {S : Nat} {d0 : Device} (d : Device) (ok : Bool) (e : Word) (p o : Nat) (m v : Word) (hS : 5 &&& S = 5) :
    Touches S d0 (Device.putIf d ok e p o m v) ↔ Touches S d0 d := by
  refine Touches.lift (m := 5) ?_ hS
  simp [Device.putIf]

@[simp ↓] theorem Device.phaseReload_touch {S : Nat} {d0 : Device} (d : Device) (k : Fin 64) (hS : 1 &&& S = 1) :
    Touches S d0 (Device.phaseReload d k) ↔ Touches S d0 d := by
  refine Touches.lift (m := 1) ?_ hS
  simp [Device.phaseReload]

@[simp ↓] theorem Device.phaseSoftReset_touch {S : Nat} {d0 : Device} (d : Device) (k : Fin 64) (who : Nat) (hS : 2149060709 &&& S = 2149060709) :
    Touches S d0 (Device.phaseSoftReset d k who) ↔ Touches S d0 d := by
  refine Touches.lift (m := 2149060709) ?_ hS
  unfold Device.phaseSoftReset; dsimp only; (repeat' split) <;> simp

@[simp ↓] theorem Device.phsSoftReset_touch {S : Nat} {d0 : Device} (d : Device) (g : Nat) (who : Nat) (hS : 2149060709 &&& S = 2149060709) :
    Touches S d0 (Device.phsSoftReset d g who) ↔ Touches S d0 d := by
  refine Touches.lift (m := 2149060709) ?_ hS
  unfold Device.phsSoftReset; repeat' first | (simp; done) | split | dsimp only | refine (touches_foldFin _ _ fun e i => ?_).2 ?_ | refine (touches_foldl _ _ _ fun e i => ?_).2 ?_

@[simp ↓] theorem Device.reloadPage_touch {S : Nat} {d0 : Device} (d : Device) (p : Nat) (hS : 1 &&& S = 1) :
    Touches S d0 (Device.reloadPage d p) ↔ Touches S d0 d := by
  refine Touches.lift (m := 1) ?_ hS
  unfold Device.reloadPage; repeat' first | (simp; done) | split | dsimp only | refine (touches_foldFin _ _ fun e i => ?_).2 ?_ | refine (touches_foldl _ _ _ fun e i => ?_).2 ?_

@[simp ↓] theorem Device.hupSoftReset_touch {S : Nat} {d0 : Device} (d : Device) (p : Nat) (hS : 2149110759 &&& S = 2149110759) :
    Touches S d0 (Device.hupSoftReset d p) ↔ Touches S d0 d := by
  refine Touches.lift (m := 2149110759) ?_ hS
  simp [Device.hupSoftReset]

@[simp ↓] theorem Device.softReset_touch {S : Nat} {d0 : Device} (d : Device) (p : Nat) (who : Nat) (hS : 36511285231 &&& S = 36511285231) :
    Touches S d0 (Device.softReset d p who) ↔ Touches S d0 d := by
  refine Touches.lift (m := 36511285231) ?_ hS
  unfold Device.softReset; (repeat' split) <;> simp

@[simp ↓] theorem Device.enableWrite_touch {S : Nat} {d0 : Device} (d : Device) (p : Nat) (on : Bool) (who : Nat) (hS : 36509111271 &&& S = 36509111271) :
    Touches S d0 (Device.enableWrite d p on who) ↔ Touches S d0 d := by
  refine Touches.lift (m := 36509111271) ?_ hS
  unfold Device.enableWrite; (repeat' split) <;> simp

@[simp ↓] theorem Device.freezeWrite_touch {S : Nat} {d0 : Device} (d : Device) (src : Source) (p : Nat) (on : Bool) (hS : 4 &&& S = 4) :
    Touches S d0 (Device.freezeWrite d src p on) ↔ Touches S d0 d := by
  refine Touches.lift (m := 4) ?_ hS
  simp [Device.freezeWrite]

@[simp ↓] theorem Device.ctlWrite_touch {S : Nat} {d0 : Device} (d : Device) (src : Source) (p : Nat) (m v : Word) (hS : 36511285231 &&& S = 36511285231) :
    Touches S d0 (Device.ctlWrite d src p m v) ↔ Touches S d0 d := by
  refine Touches.lift (m := 36511285231) ?_ hS
  simp [Device.ctlWrite]

@[simp ↓] theorem Device.headerWrite_touch {S : Nat} {d0 : Device} (d : Device) (src : Source) (p o : Nat) (m v : Word) (hS : 36645502959 &&& S = 36645502959) :
    Touches S d0 (Device.headerWrite d src p o m v) ↔ Touches S d0 d := by
  refine Touches.lift (m := 36645502959) ?_ hS
  unfold Device.headerWrite; repeat' first | (simp; done) | split | dsimp only | refine (touches_foldFin _ _ fun e i => ?_).2 ?_ | refine (touches_foldl _ _ _ fun e i => ?_).2 ?_

@[simp ↓] theorem Device.glbWrite_touch {S : Nat} {d0 : Device} (d : Device) (o : Nat) (m v : Word) (hS : 131085 &&& S = 131085) :
    Touches S d0 (Device.glbWrite d o m v) ↔ Touches S d0 d := by
  refine Touches.lift (m := 131085) ?_ hS
  simp [Device.glbWrite]

@[simp ↓] theorem Device.hcxWrite_touch {S : Nat} {d0 : Device} (d : Device) (f : OtpArray) (src : Source) (o : Nat) (m v : Word) (hS : 54133584887 &&& S = 54133584887) :
    Touches S d0 (Device.hcxWrite d f src o m v) ↔ Touches S d0 d := by
  refine Touches.lift (m := 54133584887) ?_ hS
  simp [Device.hcxWrite]

@[simp ↓] theorem Device.pctlWrite_touch {S : Nat} {d0 : Device} (d : Device) (f : OtpArray) (r : Requester) (w : Word) (hS : 19360911364 &&& S = 19360911364) :
    Touches S d0 (Device.pctlWrite d f r w) ↔ Touches S d0 d := by
  refine Touches.lift (m := 19360911364) ?_ hS
  unfold Device.pctlWrite; (repeat' split) <;> simp

@[simp ↓] theorem Device.otpWrite_touch {S : Nat} {d0 : Device} (d : Device) (f : OtpArray) (r : Requester) (p o : Nat) (m v : Word) (hS : 54806762487 &&& S = 54806762487) :
    Touches S d0 (Device.otpWrite d f r p o m v) ↔ Touches S d0 d := by
  refine Touches.lift (m := 54806762487) ?_ hS
  simp [Device.otpWrite]

@[simp ↓] theorem Device.hkcWrite_touch {S : Nat} {d0 : Device} (d : Device) (f : OtpArray) (who o : Nat) (w : Word) (hS : 19428028428 &&& S = 19428028428) :
    Touches S d0 (Device.hkcWrite d f who o w) ↔ Touches S d0 d := by
  refine Touches.lift (m := 19428028428) ?_ hS
  simp [Device.hkcWrite]

@[simp ↓] theorem Device.loopWrite_touch {S : Nat} {d0 : Device} (d : Device) (n : Fin 16) (o : Nat) (m v : Word) (x : WriteInfo) (hS : 2149061607 &&& S = 2149061607) :
    Touches S d0 (Device.loopWrite d n o m v x) ↔ Touches S d0 d := by
  refine Touches.lift (m := 2149061607) ?_ hS
  unfold Device.loopWrite; (repeat' split) <;> simp

@[simp ↓] theorem Device.mapWrite_touch {S : Nat} {d0 : Device} (d : Device) (r : Requester) (k : Fin 64) (m v : Word) (hS : 2148536421 &&& S = 2148536421) :
    Touches S d0 (Device.mapWrite d r k m v) ↔ Touches S d0 d := by
  refine Touches.lift (m := 2148536421) ?_ hS
  unfold Device.mapWrite; repeat' first | (simp; done) | split | dsimp only | refine (touches_foldFin _ _ fun e i => ?_).2 ?_ | refine (touches_foldl _ _ _ fun e i => ?_).2 ?_

@[simp ↓] theorem Device.lendArrive_touch {S : Nat} {d0 : Device} (d : Device) (k : Fin 64) (hS : 2148536420 &&& S = 2148536420) :
    Touches S d0 (Device.lendArrive d k) ↔ Touches S d0 d := by
  refine Touches.lift (m := 2148536420) ?_ hS
  unfold Device.lendArrive; repeat' first | (simp; done) | split | dsimp only | refine (touches_foldFin _ _ fun e i => ?_).2 ?_ | refine (touches_foldl _ _ _ fun e i => ?_).2 ?_

@[simp ↓] theorem Device.phsWrite_touch {S : Nat} {d0 : Device} (d : Device) (r : Requester) (k : Fin 64) (p o : Nat) (m v : Word) (x : WriteInfo) (hS : 2148536421 &&& S = 2148536421) :
    Touches S d0 (Device.phsWrite d r k p o m v x) ↔ Touches S d0 d := by
  refine Touches.lift (m := 2148536421) ?_ hS
  unfold Device.phsWrite; (repeat' split) <;> simp

@[simp ↓] theorem Device.seqWrite_touch {S : Nat} {d0 : Device} (d : Device) (r : Requester) (o : Nat) (m v : Word) (hS : 2149061607 &&& S = 2149061607) :
    Touches S d0 (Device.seqWrite d r o m v) ↔ Touches S d0 d := by
  refine Touches.lift (m := 2149061607) ?_ hS
  unfold Device.seqWrite; repeat' first | (simp; done) | split | dsimp only | refine (touches_foldFin _ _ fun e i => ?_).2 ?_ | refine (touches_foldl _ _ _ fun e i => ?_).2 ?_

@[simp ↓] theorem Device.supWrite_touch {S : Nat} {d0 : Device} (d : Device) (p o : Nat) (w : Word) (hS : 128 &&& S = 128) :
    Touches S d0 (Device.supWrite d p o w) ↔ Touches S d0 d := by
  refine Touches.lift (m := 128) ?_ hS
  simp [Device.supWrite]

@[simp ↓] theorem Device.rsoWrite_touch {S : Nat} {d0 : Device} (d : Device) (o : Nat) (m v : Word) (hS : 2147488261 &&& S = 2147488261) :
    Touches S d0 (Device.rsoWrite d o m v) ↔ Touches S d0 d := by
  refine Touches.lift (m := 2147488261) ?_ hS
  simp [Device.rsoWrite]

@[simp ↓] theorem Device.hupWrite_touch {S : Nat} {d0 : Device} (d : Device) (p o : Nat) (m v : Word) (hS : 2149110759 &&& S = 2149110759) :
    Touches S d0 (Device.hupWrite d p o m v) ↔ Touches S d0 d := by
  refine Touches.lift (m := 2149110759) ?_ hS
  simp [Device.hupWrite]

@[simp ↓] theorem Device.gauWrite_touch {S : Nat} {d0 : Device} (d : Device) (r : Requester) (o : Nat) (m v : Word) (x : WriteInfo) (hS : 2147553285 &&& S = 2147553285) :
    Touches S d0 (Device.gauWrite d r o m v x) ↔ Touches S d0 d := by
  refine Touches.lift (m := 2147553285) ?_ hS
  simp [Device.gauWrite]

@[simp ↓] theorem Device.thmWrite_touch {S : Nat} {d0 : Device} (d : Device) (r : Requester) (p o : Nat) (m v : Word) (hS : 2147484677 &&& S = 2147484677) :
    Touches S d0 (Device.thmWrite d r p o m v) ↔ Touches S d0 d := by
  refine Touches.lift (m := 2147484677) ?_ hS
  simp [Device.thmWrite]

@[simp ↓] theorem Device.fltWrite_touch {S : Nat} {d0 : Device} (d : Device) (r : Requester) (o : Nat) (m v : Word) (hS : 2149194727 &&& S = 2149194727) :
    Touches S d0 (Device.fltWrite d r o m v) ↔ Touches S d0 d := by
  refine Touches.lift (m := 2149194727) ?_ hS
  simp [Device.fltWrite]

@[simp ↓] theorem Device.wdtWrite_touch {S : Nat} {d0 : Device} (d : Device) (f : OtpArray) (r : Requester) (k : Fin 9) (o : Nat) (m v : Word) (x : WriteInfo) (hS : 53932454911 &&& S = 53932454911) :
    Touches S d0 (Device.wdtWrite d f r k o m v x) ↔ Touches S d0 d := by
  refine Touches.lift (m := 53932454911) ?_ hS
  unfold Device.wdtWrite; (repeat' split) <;> simp

@[simp ↓] theorem Device.evcWrite_touch {S : Nat} {d0 : Device} (d : Device) (r : Requester) (o : Nat) (m v : Word) (hS : 36520857607 &&& S = 36520857607) :
    Touches S d0 (Device.evcWrite d r o m v) ↔ Touches S d0 d := by
  refine Touches.lift (m := 36520857607) ?_ hS
  unfold Device.evcWrite; (repeat' split) <;> simp

@[simp ↓] theorem Device.ringWrite_touch {S : Nat} {d0 : Device} (d : Device) (r : Requester) (n : Fin 32) (o : Nat) (m v : Word) (hS : 36508536839 &&& S = 36508536839) :
    Touches S d0 (Device.ringWrite d r n o m v) ↔ Touches S d0 d := by
  refine Touches.lift (m := 36508536839) ?_ hS
  simp [Device.ringWrite]

@[simp ↓] theorem Device.xltWrite_touch {S : Nat} {d0 : Device} (d : Device) (r : Requester) (o : Nat) (m v : Word) (hS : 2147745796 &&& S = 2147745796) :
    Touches S d0 (Device.xltWrite d r o m v) ↔ Touches S d0 d := by
  refine Touches.lift (m := 2147745796) ?_ hS
  simp [Device.xltWrite]

@[simp ↓] theorem Device.apertureWrite_touch {S : Nat} {d0 : Device} (d : Device) (r : Requester) (p o : Nat) (m v : Word) (hS : 262149 &&& S = 262149) :
    Touches S d0 (Device.apertureWrite d r p o m v) ↔ Touches S d0 d := by
  refine Touches.lift (m := 262149) ?_ hS
  simp [Device.apertureWrite]

@[simp ↓] theorem Device.tlmWrite_touch {S : Nat} {d0 : Device} (d : Device) (r : Requester) (p o : Nat) (m v : Word) (hS : 2148007943 &&& S = 2148007943) :
    Touches S d0 (Device.tlmWrite d r p o m v) ↔ Touches S d0 d := by
  refine Touches.lift (m := 2148007943) ?_ hS
  simp [Device.tlmWrite]

@[simp ↓] theorem Device.pmcPageWrite_touch {S : Nat} {d0 : Device} (d : Device) (r : Requester) (o : Nat) (m v : Word) (hS : 2148532229 &&& S = 2148532229) :
    Touches S d0 (Device.pmcPageWrite d r o m v) ↔ Touches S d0 d := by
  refine Touches.lift (m := 2148532229) ?_ hS
  unfold Device.pmcPageWrite; (repeat' split) <;> simp

@[simp ↓] theorem Device.synWrite_touch {S : Nat} {d0 : Device} (d : Device) (r : Requester) (o : Nat) (m v : Word) (hS : 53689192453 &&& S = 53689192453) :
    Touches S d0 (Device.synWrite d r o m v) ↔ Touches S d0 d := by
  refine Touches.lift (m := 53689192453) ?_ hS
  simp [Device.synWrite]

@[simp ↓] theorem Device.cueSwWrite_touch {S : Nat} {d0 : Device} (d : Device) (r : Requester) (w : Word) (t : Option CueTiming) (hS : 2149060709 &&& S = 2149060709) :
    Touches S d0 (Device.cueSwWrite d r w t) ↔ Touches S d0 d := by
  refine Touches.lift (m := 2149060709) ?_ hS
  unfold Device.cueSwWrite; repeat' first | (simp; done) | split | dsimp only | refine (touches_foldFin _ _ fun e i => ?_).2 ?_ | refine (touches_foldl _ _ _ fun e i => ?_).2 ?_

@[simp ↓] theorem Device.cueWrite_touch {S : Nat} {d0 : Device} (d : Device) (r : Requester) (o : Nat) (m v : Word) (x : WriteInfo) (hS : 2149060709 &&& S = 2149060709) :
    Touches S d0 (Device.cueWrite d r o m v x) ↔ Touches S d0 d := by
  refine Touches.lift (m := 2149060709) ?_ hS
  simp [Device.cueWrite]

@[simp ↓] theorem Device.shotWrite_touch {S : Nat} {d0 : Device} (d : Device) (p o : Nat) (m v : Word) (hS : 2147488261 &&& S = 2147488261) :
    Touches S d0 (Device.shotWrite d p o m v) ↔ Touches S d0 d := by
  refine Touches.lift (m := 2147488261) ?_ hS
  unfold Device.shotWrite; dsimp only; split <;> simp

@[simp ↓] theorem Device.sourceWrite_touch {S : Nat} {d0 : Device} (d : Device) (r : Requester) (o : Nat) (m v : Word) (hS : 2147487749 &&& S = 2147487749) :
    Touches S d0 (Device.sourceWrite d r o m v) ↔ Touches S d0 d := by
  refine Touches.lift (m := 2147487749) ?_ hS
  simp [Device.sourceWrite]

@[simp ↓] theorem Device.sramWrite_touch {S : Nat} {d0 : Device} (d : Device) (o : Nat) (m v : Word) (hS : 6 &&& S = 6) :
    Touches S d0 (Device.sramWrite d o m v) ↔ Touches S d0 d := by
  refine Touches.lift (m := 6) ?_ hS
  simp [Device.sramWrite]

@[simp ↓] theorem Device.blockWrite_touch {S : Nat} {d0 : Device} (d : Device) (f : OtpArray) (src : Source) (p o : Nat) (m v : Word) (x : WriteInfo) (hS : 55280926719 &&& S = 55280926719) :
    Touches S d0 (Device.blockWrite d f src p o m v x) ↔ Touches S d0 d := by
  refine Touches.lift (m := 55280926719) ?_ hS
  unfold Device.blockWrite; (repeat' split) <;> simp

@[simp ↓] theorem Device.writePlain_touch {S : Nat} {d0 : Device} (d : Device) (f : OtpArray) (src : Source) (a : Nat) (m v : Word) (x : WriteInfo) (hS : 55280926719 &&& S = 55280926719) :
    Touches S d0 (Device.writePlain d f src a m v x) ↔ Touches S d0 d := by
  refine Touches.lift (m := 55280926719) ?_ hS
  unfold Device.writePlain; (repeat' split) <;> simp

@[simp ↓] theorem Device.writeWord_touch {S : Nat} {d0 : Device} (d : Device) (f : OtpArray) (src : Source) (a : Nat) (m v : Word) (x : WriteInfo) (hS : 55280926719 &&& S = 55280926719) :
    Touches S d0 (Device.writeWord d f src a m v x) ↔ Touches S d0 d := by
  refine Touches.lift (m := 55280926719) ?_ hS
  simp [Device.writeWord]

@[simp ↓] theorem Device.tapLeaves_touch {S : Nat} {d0 : Device} (d : Device) (src : Source) (hS : 8 &&& S = 8) :
    Touches S d0 (Device.tapLeaves d src) ↔ Touches S d0 d := by
  refine Touches.lift (m := 8) ?_ hS
  simp [Device.tapLeaves]

@[simp ↓] theorem Device.busWrite_touch {S : Nat} {d0 : Device} (d : Device) (f : OtpArray) (src : Source) (addr : Nat) (be : BitVec 4) (v : Word) (x : WriteInfo) (hS : 55280926719 &&& S = 55280926719) :
    Touches S d0 (Device.busWrite d f src addr be v x) ↔ Touches S d0 d := by
  refine Touches.lift (m := 55280926719) ?_ hS
  simp [Device.busWrite]

@[simp ↓] theorem Device.busRead_touch {S : Nat} {d0 : Device} (d : Device) (src : Source) (addr : Nat) (hS : 2151354396 &&& S = 2151354396) :
    Touches S d0 (Device.busRead d src addr) ↔ Touches S d0 d := by
  refine Touches.lift (m := 2151354396) ?_ hS
  simp [Device.busRead]

@[simp ↓] theorem FunnelRun.read_touch {S : Nat} {d0 : Device} (u : FunnelRun) (src : Source) (x : Nat × Nat) (hS : 3866624 &&& S = 3866624) :
    Touches S d0 (u.read src x).dev ↔ Touches S d0 u.dev := by
  refine Touches.lift (m := 3866624) ?_ hS
  unfold FunnelRun.read
  simp

@[simp ↓] theorem FunnelRun.write_touch {S : Nat} {d0 : Device} (u : FunnelRun) (f : OtpArray) (src : Source) (bs : List Byte)
    (x : Nat × Nat) (hS : 55280926719 &&& S = 55280926719) : Touches S d0 (u.write f src bs x).dev ↔ Touches S d0 u.dev := by
  refine Touches.lift (m := 55280926719) ?_ hS
  unfold FunnelRun.write
  dsimp only
  repeat' first | (simp; done) | split

@[simp ↓] theorem Device.burstRead_touch {S : Nat} {d0 : Device} (d : Device) (r : Fin 32) (n : Nat) (data : List Byte) (hS : 2151354372 &&& S = 2151354372) :
    Touches S d0 (Device.burstRead d r n data).2 ↔ Touches S d0 d := by
  refine Touches.lift (m := 2151354372) ?_ hS
  simp [Device.burstRead]

@[simp ↓] theorem Device.burstWrite_touch {S : Nat} {d0 : Device} (d : Device) (f : OtpArray) (r : Fin 32) (host : Option Nat) (bs : List Byte) (hS : 55280926719 &&& S = 55280926719) :
    Touches S d0 (Device.burstWrite d f r host bs).dev ↔ Touches S d0 d := by
  refine Touches.lift (m := 55280926719) ?_ hS
  unfold Device.burstWrite; (repeat' split) <;> simp

@[simp ↓] theorem Device.ringHostErr_touch {S : Nat} {d0 : Device} (d : Device) (r : Fin 32) (hS : 2147749892 &&& S = 2147749892) :
    Touches S d0 (Device.ringHostErr d r) ↔ Touches S d0 d := by
  refine Touches.lift (m := 2147749892) ?_ hS
  simp [Device.ringHostErr]

@[simp ↓] theorem Device.burstEnd_touch {S : Nat} {d0 : Device} (d : Device) (f : OtpArray) (r : Fin 32) (b : Burst) (n : Nat) (data : List Byte) (hostErr : Bool) (hS : 55280926719 &&& S = 55280926719) :
    Touches S d0 (Device.burstEnd d f r b n data hostErr) ↔ Touches S d0 d := by
  refine Touches.lift (m := 55280926719) ?_ hS
  unfold Device.burstEnd; (repeat' split) <;> simp

@[simp ↓] theorem Device.burstComplete_touch {S : Nat} {d0 : Device} (d : Device) (f : OtpArray) (r : Fin 32) (moved : Nat) (data : List Byte) (hS : 55280926719 &&& S = 55280926719) :
    Touches S d0 (Device.burstComplete d f r moved data) ↔ Touches S d0 d := by
  refine Touches.lift (m := 55280926719) ?_ hS
  unfold Device.burstComplete; (repeat' split) <;> simp

@[simp ↓] theorem Device.hostError_touch {S : Nat} {d0 : Device} (d : Device) (f : OtpArray) (r : Fin 32) (moved : Nat) (data : List Byte) (hS : 55280926719 &&& S = 55280926719) :
    Touches S d0 (Device.hostError d f r moved data) ↔ Touches S d0 d := by
  refine Touches.lift (m := 55280926719) ?_ hS
  unfold Device.hostError; (repeat' split) <;> simp

@[simp ↓] theorem Device.stageTo_touch {S : Nat} {d0 : Device} (d : Device) (s : Nat) (hS : 2147483660 &&& S = 2147483660) :
    Touches S d0 (Device.stageTo d s) ↔ Touches S d0 d := by
  refine Touches.lift (m := 2147483660) ?_ hS
  simp [Device.stageTo]

@[simp ↓] theorem Device.clkSync_touch {S : Nat} {d0 : Device} (d : Device) (hS : 2147483652 &&& S = 2147483652) :
    Touches S d0 (Device.clkSync d) ↔ Touches S d0 d := by
  refine Touches.lift (m := 2147483652) ?_ hS
  simp [Device.clkSync]

@[simp ↓] theorem Device.ringsHost_touch {S : Nat} {d0 : Device} (d : Device) (hS : 36508536838 &&& S = 36508536838) :
    Touches S d0 (Device.ringsHost d) ↔ Touches S d0 d := by
  refine Touches.lift (m := 36508536838) ?_ hS
  unfold Device.ringsHost
  refine (Device.whenLive_touch _ _ fun e => touches_foldFin _ _ fun e i => ?_).2 (Touches.same d)
  simp

@[simp ↓] theorem Device.linkSet_touch {S : Nat} {d0 : Device} (d : Device) (up : Bool) (hS : 36512731142 &&& S = 36512731142) :
    Touches S d0 (Device.linkSet d up) ↔ Touches S d0 d := by
  refine Touches.lift (m := 36512731142) ?_ hS
  simp [Device.linkSet]

@[simp ↓] theorem Device.pcieReset_touch {S : Nat} {d0 : Device} (d : Device) (hS : 36512731142 &&& S = 36512731142) :
    Touches S d0 (Device.pcieReset d) ↔ Touches S d0 d := by
  refine Touches.lift (m := 36512731142) ?_ hS
  simp [Device.pcieReset]

@[simp ↓] theorem Device.resetOf_touch {S : Nat} {d0 : Device} (d : Device) (hS : 68719476735 &&& S = 68719476735) :
    Touches S d0 (Device.resetOf d) ↔ Touches S d0 d := by
  refine Touches.lift (m := 68719476735) ?_ hS
  intro f hf
  cases f <;> exact absurd hf (by decide)

@[simp ↓] theorem Device.cutPulse_touch {S : Nat} {d0 : Device} (d : Device) (f : OtpArray) (hS : 17213423616 &&& S = 17213423616) :
    Touches S d0 (Device.cutPulse d f).1 ↔ Touches S d0 d := by
  refine Touches.lift (m := 17213423616) ?_ hS
  simp [Device.cutPulse]

@[simp ↓] theorem Device.resetEntry_touch {S : Nat} {d0 : Device} (d : Device) (hS : 68719476735 &&& S = 68719476735) :
    Touches S d0 (Device.resetEntry d) ↔ Touches S d0 d := by
  refine Touches.lift (m := 68719476735) ?_ hS
  simp [Device.resetEntry]

@[simp ↓] theorem Device.resetRelease_touch {S : Nat} {d0 : Device} (d : Device) (s0 s1 s2 : BitVec 4) (hS : 2156068876 &&& S = 2156068876) :
    Touches S d0 (Device.resetRelease d s0 s1 s2) ↔ Touches S d0 d := by
  refine Touches.lift (m := 2156068876) ?_ hS
  simp [Device.resetRelease]

@[simp ↓] theorem Device.aoDown_touch {S : Nat} {d0 : Device} (d : Device) (hS : 2147690511 &&& S = 2147690511) :
    Touches S d0 (Device.aoDown d) ↔ Touches S d0 d := by
  refine Touches.lift (m := 2147690511) ?_ hS
  simp [Device.aoDown]

@[simp ↓] theorem Device.requiredDown_touch {S : Nat} {d0 : Device} (d : Device) (f : OtpArray) (i code : Nat) (down : Supplies → Supplies) (hS : 17213571080 &&& S = 17213571080) :
    Touches S d0 (Device.requiredDown d f i code down).1 ↔ Touches S d0 d := by
  refine Touches.lift (m := 17213571080) ?_ hS
  simp [Device.requiredDown]

@[simp ↓] theorem Device.porAssert_touch {S : Nat} {d0 : Device} (d : Device) (f : OtpArray) (dom : Domain) (hS : 53726378511 &&& S = 53726378511) :
    Touches S d0 (Device.porAssert d f dom).1 ↔ Touches S d0 d := by
  refine Touches.lift (m := 53726378511) ?_ hS
  unfold Device.porAssert; (repeat' split) <;> simp

@[simp ↓] theorem Device.causesAged_touch {S : Nat} {d0 : Device} (d : Device) (hS : 131072 &&& S = 131072) :
    Touches S d0 (Device.causesAged d) ↔ Touches S d0 d := by
  refine Touches.lift (m := 131072) ?_ hS
  simp [Device.causesAged]

@[simp ↓] theorem Device.porRelease_touch {S : Nat} {d0 : Device} (d : Device) (dom : Domain) (hS : 68719476735 &&& S = 68719476735) :
    Touches S d0 (Device.porRelease d dom) ↔ Touches S d0 d := by
  refine Touches.lift (m := 68719476735) ?_ hS
  unfold Device.porRelease; (repeat' split) <;> simp

@[simp ↓] theorem Device.lock_touch {S : Nat} {d0 : Device} (d : Device) (hS : 15032385548 &&& S = 15032385548) :
    Touches S d0 (Device.lock d) ↔ Touches S d0 d := by
  refine Touches.lift (m := 15032385548) ?_ hS
  simp [Device.lock]

@[simp ↓] theorem Device.clockFailure_touch {S : Nat} {d0 : Device} (d : Device) (f : OtpArray) (hS : 17213571080 &&& S = 17213571080) :
    Touches S d0 (Device.clockFailure d f).1 ↔ Touches S d0 d := by
  refine Touches.lift (m := 17213571080) ?_ hS
  simp [Device.clockFailure]

@[simp ↓] theorem Device.lockTimeout_touch {S : Nat} {d0 : Device} (d : Device) (f : OtpArray) (hS : 17213571080 &&& S = 17213571080) :
    Touches S d0 (Device.lockTimeout d f).1 ↔ Touches S d0 d := by
  refine Touches.lift (m := 17213571080) ?_ hS
  simp [Device.lockTimeout]

@[simp ↓] theorem Device.trimLoad_touch {S : Nat} {d0 : Device} (d : Device) (f : OtpArray) (hS : 17213554697 &&& S = 17213554697) :
    Touches S d0 (Device.trimLoad d f) ↔ Touches S d0 d := by
  refine Touches.lift (m := 17213554697) ?_ hS
  simp [Device.trimLoad]

@[simp ↓] theorem Device.bootScan_touch {S : Nat} {d0 : Device} (d : Device) (f : OtpArray) (hS : 19360911372 &&& S = 19360911372) :
    Touches S d0 (Device.bootScan d f) ↔ Touches S d0 d := by
  refine Touches.lift (m := 19360911372) ?_ hS
  simp [Device.bootScan]

@[simp ↓] theorem Device.generationSelect_touch {S : Nat} {d0 : Device} (d : Device) (hS : 2147483660 &&& S = 2147483660) :
    Touches S d0 (Device.generationSelect d) ↔ Touches S d0 d := by
  refine Touches.lift (m := 2147483660) ?_ hS
  unfold Device.generationSelect; (repeat' split) <;> simp

@[simp ↓] theorem Device.i3cReset_touch {S : Nat} {d0 : Device} (d : Device) (p : Fin 2) (hS : 8388608 &&& S = 8388608) :
    Touches S d0 (Device.i3cReset d p) ↔ Touches S d0 d := by
  refine Touches.lift (m := 8388608) ?_ hS
  simp [Device.i3cReset]

@[simp ↓] theorem Device.spiReset_touch {S : Nat} {d0 : Device} (d : Device) (hS : 16777216 &&& S = 16777216) :
    Touches S d0 (Device.spiReset d) ↔ Touches S d0 d := by
  refine Touches.lift (m := 16777216) ?_ hS
  simp [Device.spiReset]

@[simp ↓] theorem Device.callSheetLoad_touch {S : Nat} {d0 : Device} (d : Device) (hS : 38184737791 &&& S = 38184737791) :
    Touches S d0 (Device.callSheetLoad d) ↔ Touches S d0 d := by
  refine Touches.lift (m := 38184737791) ?_ hS
  simp [Device.callSheetLoad]

@[simp ↓] theorem Device.coreRelease_touch {S : Nat} {d0 : Device} (d : Device) (hS : 2147688460 &&& S = 2147688460) :
    Touches S d0 (Device.coreRelease d) ↔ Touches S d0 d := by
  refine Touches.lift (m := 2147688460) ?_ hS
  simp [Device.coreRelease]

@[simp ↓] theorem Device.patchLoad_touch {S : Nat} {d0 : Device} (d : Device) (v : Store) (hS : 67108872 &&& S = 67108872) :
    Touches S d0 (Device.patchLoad d v) ↔ Touches S d0 d := by
  refine Touches.lift (m := 67108872) ?_ hS
  simp [Device.patchLoad]

@[simp ↓] theorem Device.patchEvent_touch {S : Nat} {d0 : Device} (d : Device) (hS : 2214797324 &&& S = 2214797324) :
    Touches S d0 (Device.patchEvent d) ↔ Touches S d0 d := by
  refine Touches.lift (m := 2214797324) ?_ hS
  simp [Device.patchEvent]

@[simp ↓] theorem Device.jtagRelease_touch {S : Nat} {d0 : Device} (d : Device) (hS : 2147688460 &&& S = 2147688460) :
    Touches S d0 (Device.jtagRelease d) ↔ Touches S d0 d := by
  refine Touches.lift (m := 2147688460) ?_ hS
  simp [Device.jtagRelease]

@[simp ↓] theorem Device.firstScan_touch {S : Nat} {d0 : Device} (d : Device) (hS : 8 &&& S = 8) :
    Touches S d0 (Device.firstScan d) ↔ Touches S d0 d := by
  refine Touches.lift (m := 8) ?_ hS
  simp [Device.firstScan]

@[simp ↓] theorem Device.autoStart_touch {S : Nat} {d0 : Device} (d : Device) (hS : 2149061614 &&& S = 2149061614) :
    Touches S d0 (Device.autoStart d) ↔ Touches S d0 d := by
  refine Touches.lift (m := 2149061614) ?_ hS
  simp [Device.autoStart]

@[simp ↓] theorem Device.coreInit_touch {S : Nat} {d0 : Device} (d : Device) (c : Vector (List (BitVec 16)) 9) (hS : 2147692556 &&& S = 2147692556) :
    Touches S d0 (Device.coreInit d c) ↔ Touches S d0 d := by
  refine Touches.lift (m := 2147692556) ?_ hS
  simp [Device.coreInit]

@[simp ↓] theorem Device.restartComplete_touch {S : Nat} {d0 : Device} (d : Device) (f : OtpArray) (c : Vector (List (BitVec 16)) 9) (hS : 19394670604 &&& S = 19394670604) :
    Touches S d0 (Device.restartComplete d f c) ↔ Touches S d0 d := by
  refine Touches.lift (m := 19394670604) ?_ hS
  simp [Device.restartComplete]

@[simp ↓] theorem Device.jtagReset_touch {S : Nat} {d0 : Device} (d : Device) (hS : 131080 &&& S = 131080) :
    Touches S d0 (Device.jtagReset d) ↔ Touches S d0 d := by
  refine Touches.lift (m := 131080) ?_ hS
  simp [Device.jtagReset]

@[simp ↓] theorem Device.tapHold_touch {S : Nat} {d0 : Device} (d : Device) (hS : 8 &&& S = 8) :
    Touches S d0 (Device.tapHold d) ↔ Touches S d0 d := by
  refine Touches.lift (m := 8) ?_ hS
  simp [Device.tapHold]

@[simp ↓] theorem Device.updPcie_touch {S : Nat} {d0 : Device} (d : Device) (f : Pcie → Pcie) (hS : 4194304 &&& S = 4194304) :
    Touches S d0 (Device.updPcie d f) ↔ Touches S d0 d := by
  refine Touches.lift (m := 4194304) ?_ hS
  simp [Device.updPcie]

@[simp ↓] theorem Device.complete_touch {S : Nat} {d0 : Device} (d : Device) (c : PcieCpl) (ws : List Word) (hS : 4194304 &&& S = 4194304) :
    Touches S d0 (Device.complete d c ws) ↔ Touches S d0 d := by
  refine Touches.lift (m := 4194304) ?_ hS
  simp [Device.complete]

@[simp ↓] theorem Device.tlpIn_touch {S : Nat} {d0 : Device} (d : Device) (hS : 2148536324 &&& S = 2148536324) :
    Touches S d0 (Device.tlpIn d) ↔ Touches S d0 d := by
  refine Touches.lift (m := 2148536324) ?_ hS
  simp [Device.tlpIn]

@[simp ↓] theorem Device.tlpOut_touch {S : Nat} {d0 : Device} (d : Device) (hS : 2148536324 &&& S = 2148536324) :
    Touches S d0 (Device.tlpOut d) ↔ Touches S d0 d := by
  refine Touches.lift (m := 2148536324) ?_ hS
  simp [Device.tlpOut]

@[simp ↓] theorem Device.msixFlush_touch {S : Nat} {d0 : Device} (d : Device) (hS : 36512468996 &&& S = 36512468996) :
    Touches S d0 (Device.msixFlush d) ↔ Touches S d0 d := by
  refine Touches.lift (m := 36512468996) ?_ hS
  simp [Device.msixFlush]

@[simp ↓] theorem Device.msixEnable_touch {S : Nat} {d0 : Device} (d : Device) (en fm : Bool) (hS : 36512468996 &&& S = 36512468996) :
    Touches S d0 (Device.msixEnable d en fm) ↔ Touches S d0 d := by
  refine Touches.lift (m := 36512468996) ?_ hS
  simp [Device.msixEnable]

@[simp ↓] theorem Device.hotReset_touch {S : Nat} {d0 : Device} (d : Device) (hS : 36512731142 &&& S = 36512731142) :
    Touches S d0 (Device.hotReset d) ↔ Touches S d0 d := by
  refine Touches.lift (m := 36512731142) ?_ hS
  simp [Device.hotReset]

@[simp ↓] theorem Device.d3hotEnter_touch {S : Nat} {d0 : Device} (d : Device) (hS : 36512731142 &&& S = 36512731142) :
    Touches S d0 (Device.d3hotEnter d) ↔ Touches S d0 d := by
  refine Touches.lift (m := 36512731142) ?_ hS
  simp [Device.d3hotEnter]

@[simp ↓] theorem Device.d0Enter_touch {S : Nat} {d0 : Device} (d : Device) (hS : 36512731142 &&& S = 36512731142) :
    Touches S d0 (Device.d0Enter d) ↔ Touches S d0 d := by
  refine Touches.lift (m := 36512731142) ?_ hS
  simp [Device.d0Enter]

@[simp ↓] theorem Device.cfgEffect_touch {S : Nat} {d0 : Device} (d : Device) (i : Nat) (v m : Word) (hS : 36512731142 &&& S = 36512731142) :
    Touches S d0 (Device.cfgEffect d i v m) ↔ Touches S d0 d := by
  refine Touches.lift (m := 36512731142) ?_ hS
  unfold Device.cfgEffect; (repeat' split) <;> simp

@[simp ↓] theorem Device.configRequest_touch {S : Nat} {d0 : Device} (d : Device) (i : Fin 1024) (write : Option Dw) (hS : 36512731142 &&& S = 36512731142) :
    Touches S d0 (Device.configRequest d i write) ↔ Touches S d0 d := by
  refine Touches.lift (m := 36512731142) ?_ hS
  unfold Device.configRequest; (repeat' split) <;> simp

@[simp ↓] theorem Device.msixUnmask_touch {S : Nat} {d0 : Device} (d : Device) (v : Option (Fin 16)) (hS : 36512468996 &&& S = 36512468996) :
    Touches S d0 (Device.msixUnmask d v) ↔ Touches S d0 d := by
  refine Touches.lift (m := 36512468996) ?_ hS
  simp [Device.msixUnmask]

@[simp ↓] theorem Device.bar4Write_touch {S : Nat} {d0 : Device} (d : Device) (i : Nat) (m v : Word) (hS : 36512468996 &&& S = 36512468996) :
    Touches S d0 (Device.bar4Write d i m v) ↔ Touches S d0 d := by
  refine Touches.lift (m := 36512468996) ?_ hS
  simp [Device.bar4Write]

@[simp ↓] theorem Device.dwAccess_touch {S : Nat} {d0 : Device} (d : Device) (f : OtpArray) (bar : Bar) (write : Bool) (o : Nat) (w : Dw) (hS : 55280926719 &&& S = 55280926719) :
    Touches S d0 (Device.dwAccess d f bar write o w).1 ↔ Touches S d0 d := by
  refine Touches.lift (m := 55280926719) ?_ hS
  simp [Device.dwAccess]

@[simp ↓] theorem Device.unaligned_touch {S : Nat} {d0 : Device} (d : Device) (src : Source) (a : Nat) (hS : 20 &&& S = 20) :
    Touches S d0 (Device.unaligned d src a) ↔ Touches S d0 d := by
  refine Touches.lift (m := 20) ?_ hS
  simp [Device.unaligned]

@[simp ↓] theorem Device.memRequest_touch {S : Nat} {d0 : Device} (d : Device) (f : OtpArray) (bar : Bar) (write : Bool) (offset : Nat) (dws : List Dw) (hS : 55280926719 &&& S = 55280926719) :
    Touches S d0 (Device.memRequest d f bar write offset dws) ↔ Touches S d0 d := by
  refine Touches.lift (m := 55280926719) ?_ hS
  unfold Device.memRequest; (repeat' split) <;> (try simp); repeat' first | (simp; done) | split

@[simp ↓] theorem Device.perst_touch {S : Nat} {d0 : Device} (d : Device) (low : Bool) (hS : 36512731150 &&& S = 36512731150) :
    Touches S d0 (Device.perst d low) ↔ Touches S d0 d := by
  refine Touches.lift (m := 36512731150) ?_ hS
  simp [Device.perst]

@[simp ↓] theorem Device.linkUp_touch {S : Nat} {d0 : Device} (d : Device) (hS : 36512731142 &&& S = 36512731142) :
    Touches S d0 (Device.linkUp d) ↔ Touches S d0 d := by
  refine Touches.lift (m := 36512731142) ?_ hS
  simp [Device.linkUp]

@[simp ↓] theorem Device.frameRead_touch {S : Nat} {d0 : Device} (d : Device) (src : Source) (a n : Nat) (hS : 2151354388 &&& S = 2151354388) :
    Touches S d0 (Device.frameRead d src a n).2 ↔ Touches S d0 d := by
  refine Touches.lift (m := 2151354388) ?_ hS
  simp [Device.frameRead]

@[simp ↓] theorem Device.frameWrite_touch {S : Nat} {d0 : Device} (d : Device) (f : OtpArray) (src : Source) (a : Nat) (ws : List Word) (hS : 55280926719 &&& S = 55280926719) :
    Touches S d0 (Device.frameWrite d f src a ws) ↔ Touches S d0 d := by
  refine Touches.lift (m := 55280926719) ?_ hS
  simp [Device.frameWrite]

@[simp ↓] theorem Device.runFrame_touch {S : Nat} {d0 : Device} (d : Device) (f : OtpArray) (p : HostPort) (l : FrameLimits) (reads : Bool) (lastWr : Nat) (bs : List Byte) (hS : 55280926719 &&& S = 55280926719) :
    Touches S d0 (Device.runFrame d f p l reads lastWr bs).dev ↔ Touches S d0 d := by
  refine Touches.lift (m := 55280926719) ?_ hS
  unfold Device.runFrame; (repeat' split) <;> simp

@[simp ↓] theorem Device.spiFrame_touch {S : Nat} {d0 : Device} (d : Device) (f : OtpArray) (dflt : Bool) (bs : List Byte) (lost : Bool) (hS : 55297703935 &&& S = 55297703935) :
    Touches S d0 (Device.spiFrame d f dflt bs lost) ↔ Touches S d0 d := by
  refine Touches.lift (m := 55297703935) ?_ hS
  simp [Device.spiFrame]

@[simp ↓] theorem Device.updI3c_touch {S : Nat} {d0 : Device} (d : Device) (p : Fin 2) (f : I3cPort → I3cPort) (hS : 8388608 &&& S = 8388608) :
    Touches S d0 (Device.updI3c d p f) ↔ Touches S d0 d := by
  refine Touches.lift (m := 8388608) ?_ hS
  simp [Device.updI3c]

@[simp ↓] theorem Device.busNack_touch {S : Nat} {d0 : Device} (d : Device) (p : Fin 2) (hS : 8388608 &&& S = 8388608) :
    Touches S d0 (Device.busNack d p) ↔ Touches S d0 d := by
  refine Touches.lift (m := 8388608) ?_ hS
  simp [Device.busNack]

@[simp ↓] theorem Device.busReply_touch {S : Nat} {d0 : Device} (d : Device) (p : Fin 2) (bs : List Byte) (hS : 8388608 &&& S = 8388608) :
    Touches S d0 (Device.busReply d p bs) ↔ Touches S d0 d := by
  refine Touches.lift (m := 8388608) ?_ hS
  simp [Device.busReply]

@[simp ↓] theorem Device.inI3c_touch {S : Nat} {d0 : Device} (d : Device) (p : Fin 2) (f : Device → Device) (hS : 8388608 &&& S = 8388608)
    (h : ∀ e, Touches S d0 (f e) ↔ Touches S d0 e) : Touches S d0 (Device.inI3c d p f) ↔ Touches S d0 d := by
  unfold Device.inI3c
  repeat' first | (simp [h, hS]; done) | split

@[simp ↓] theorem Device.modeSwitch_touch {S : Nat} {d0 : Device} (d : Device) (p : Fin 2) (hS : 8388608 &&& S = 8388608) :
    Touches S d0 (Device.modeSwitch d p) ↔ Touches S d0 d := by
  refine Touches.lift (m := 8388608) ?_ hS
  simp [Device.modeSwitch]

@[simp ↓] theorem Device.inFraming_touch {S : Nat} {d0 : Device} (d : Device) (p : Fin 2) (hdr : Option Byte) (code : Byte) (f : Device → Device) (hS : 8388608 &&& S = 8388608)
    (h : ∀ e, Touches S d0 (f e) ↔ Touches S d0 e) : Touches S d0 (Device.inFraming d p hdr code f) ↔ Touches S d0 d := by
  unfold Device.inFraming
  refine Device.inI3c_touch _ _ _ hS fun e => ?_
  repeat' first | (simp [h, hS]; done) | split

@[simp ↓] theorem Device.ccc_touch {S : Nat} {d0 : Device} (d : Device) (p : Fin 2) (f : I3cPort → I3cPort) (bs : List Byte) (hS : 8388608 &&& S = 8388608) :
    Touches S d0 (Device.ccc d p f bs) ↔ Touches S d0 d := by
  refine Touches.lift (m := 8388608) ?_ hS
  simp [Device.ccc]

@[simp ↓] theorem Device.busFrame_touch {S : Nat} {d0 : Device} (d : Device) (f : OtpArray) (p : Fin 2) (dflt : Bool) (bs : List Byte) (hS : 55280926719 &&& S = 55280926719) :
    Touches S d0 (Device.busFrame d f p dflt bs) ↔ Touches S d0 d := by
  refine Touches.lift (m := 55280926719) ?_ hS
  simp [Device.busFrame]

@[simp ↓] theorem Device.privateRead_touch {S : Nat} {d0 : Device} (d : Device) (p : Fin 2) (hdr : Option Byte) (hS : 8388608 &&& S = 8388608) :
    Touches S d0 (Device.privateRead d p hdr) ↔ Touches S d0 d := by
  refine Touches.lift (m := 8388608) ?_ hS
  unfold Device.privateRead
  refine (Device.inFraming_touch _ _ _ _ _ (by decide) fun e => ?_).2 (Touches.same d)
  split <;> simp

@[simp ↓] theorem Device.portFrame_touch {S : Nat} {d0 : Device} (d : Device) (f : OtpArray) (p : HostPort) (dflt : Bool) (hdr : Option Byte) (bs : List Byte) (hS : 55297703935 &&& S = 55297703935) :
    Touches S d0 (Device.portFrame d f p dflt hdr bs) ↔ Touches S d0 d := by
  refine Touches.lift (m := 55297703935) ?_ hS
  unfold Device.portFrame; (repeat' split) <;> simp

@[simp ↓] theorem Device.responseReady_touch {S : Nat} {d0 : Device} (d : Device) (p : HostPort) (hS : 25165824 &&& S = 25165824) :
    Touches S d0 (Device.responseReady d p) ↔ Touches S d0 d := by
  refine Touches.lift (m := 25165824) ?_ hS
  unfold Device.responseReady; (repeat' split) <;> simp

@[simp ↓] theorem Device.busPortReset_touch {S : Nat} {d0 : Device} (d : Device) (p : Fin 2) (hS : 8388608 &&& S = 8388608) :
    Touches S d0 (Device.busPortReset d p) ↔ Touches S d0 d := by
  refine Touches.lift (m := 8388608) ?_ hS
  simp [Device.busPortReset]

@[simp ↓] theorem Device.entdaa_touch {S : Nat} {d0 : Device} (d : Device) (p : Fin 2) (a : BitVec 7) (hS : 8388608 &&& S = 8388608) :
    Touches S d0 (Device.entdaa d p a) ↔ Touches S d0 d := by
  refine Touches.lift (m := 8388608) ?_ hS
  simp [Device.entdaa]

@[simp ↓] theorem Device.setdasa_touch {S : Nat} {d0 : Device} (d : Device) (p : Fin 2) (st a : BitVec 7) (hS : 8388608 &&& S = 8388608) :
    Touches S d0 (Device.setdasa d p st a) ↔ Touches S d0 d := by
  refine Touches.lift (m := 8388608) ?_ hS
  simp [Device.setdasa]

@[simp ↓] theorem Device.rstdaa_touch {S : Nat} {d0 : Device} (d : Device) (p : Fin 2) (hS : 8388608 &&& S = 8388608) :
    Touches S d0 (Device.rstdaa d p) ↔ Touches S d0 d := by
  refine Touches.lift (m := 8388608) ?_ hS
  simp [Device.rstdaa]

@[simp ↓] theorem Device.enthdr0_touch {S : Nat} {d0 : Device} (d : Device) (p : Fin 2) (hS : 8388608 &&& S = 8388608) :
    Touches S d0 (Device.enthdr0 d p) ↔ Touches S d0 d := by
  refine Touches.lift (m := 8388608) ?_ hS
  simp [Device.enthdr0]

@[simp ↓] theorem Device.ibi_touch {S : Nat} {d0 : Device} (d : Device) (p : Fin 2) (port : BusPort) (accepted : Bool) (hS : 34368126976 &&& S = 34368126976) :
    Touches S d0 (Device.ibi d p port accepted) ↔ Touches S d0 d := by
  refine Touches.lift (m := 34368126976) ?_ hS
  simp [Device.ibi]

@[simp ↓] theorem Device.hotJoinIdle_touch {S : Nat} {d0 : Device} (d : Device) (p : Fin 2) (port : BusPort) (hS : 34368126976 &&& S = 34368126976) :
    Touches S d0 (Device.hotJoinIdle d p port) ↔ Touches S d0 d := by
  refine Touches.lift (m := 34368126976) ?_ hS
  simp [Device.hotJoinIdle]

@[simp ↓] theorem Device.getstatus_touch {S : Nat} {d0 : Device} (d : Device) (p : Fin 2) (hS : 17188257792 &&& S = 17188257792) :
    Touches S d0 (Device.getstatus d p) ↔ Touches S d0 d := by
  refine Touches.lift (m := 17188257792) ?_ hS
  simp [Device.getstatus]

@[simp ↓] theorem Device.setCml_touch {S : Nat} {d0 : Device} (d : Device) (p : Fin 2) (i : Nat) (hS : 8388608 &&& S = 8388608) :
    Touches S d0 (Device.setCml d p i) ↔ Touches S d0 d := by
  refine Touches.lift (m := 8388608) ?_ hS
  simp [Device.setCml]

@[simp ↓] theorem Device.inSmbus_touch {S : Nat} {d0 : Device} (d : Device) (p : Fin 2) (f : Device → Device) (hS : 8388608 &&& S = 8388608)
    (h : ∀ e, Touches S d0 (f e) ↔ Touches S d0 e) : Touches S d0 (Device.inSmbus d p f) ↔ Touches S d0 d := by
  unfold Device.inSmbus
  repeat' first | (simp [h, hS]; done) | split

@[simp ↓] theorem Device.withPec_touch {S : Nat} {d0 : Device} (d : Device) (p : Fin 2) (pec : Pec) (f : Device → Device) (hS : 8388608 &&& S = 8388608)
    (h : ∀ e, Touches S d0 (f e) ↔ Touches S d0 e) : Touches S d0 (Device.withPec d p pec f) ↔ Touches S d0 d := by
  unfold Device.withPec
  repeat' first | (simp [h, hS]; done) | split

@[simp ↓] theorem Device.smbFrame_touch {S : Nat} {d0 : Device} (d : Device) (f : OtpArray) (x : SmbXfer) (bs : List Byte) (hS : 55280926719 &&& S = 55280926719) :
    Touches S d0 (Device.smbFrame d f x bs) ↔ Touches S d0 d := by
  refine Touches.lift (m := 55280926719) ?_ hS
  unfold Device.smbFrame
  refine (Device.inSmbus_touch _ _ _ (by decide) fun e => ?_).2 (Touches.same d)
  exact Device.withPec_touch _ _ _ _ (by decide) fun e => Device.busFrame_touch _ _ _ _ _ (by decide)

@[simp ↓] theorem Device.smbResponse_touch {S : Nat} {d0 : Device} (d : Device) (x : SmbXfer) (hS : 8388608 &&& S = 8388608) :
    Touches S d0 (Device.smbResponse d x) ↔ Touches S d0 d := by
  refine Touches.lift (m := 8388608) ?_ hS
  unfold Device.smbResponse
  refine (Device.inSmbus_touch _ _ _ (by decide) fun e => ?_).2 (Touches.same d)
  refine Device.withPec_touch _ _ _ _ (by decide) fun e => ?_
  split <;> simp

@[simp ↓] theorem Device.pmOpen_touch {S : Nat} {d0 : Device} (d : Device) (p : Fin 2) (hS : 2424311829 &&& S = 2424311829) :
    Touches S d0 (Device.pmOpen d p) ↔ Touches S d0 d := by
  refine Touches.lift (m := 2424311829) ?_ hS
  unfold Device.pmOpen; (repeat' split) <;> simp

@[simp ↓] theorem Device.pmCommand_touch {S : Nat} {d0 : Device} (d : Device) (x : SmbXfer) (f : Fin 2 → Source → Device → Device) (hS : 2424311829 &&& S = 2424311829)
    (h : ∀ p src e, Touches S d0 (f p src e) ↔ Touches S d0 e) : Touches S d0 (Device.pmCommand d x f) ↔ Touches S d0 d := by
  unfold Device.pmCommand
  dsimp only
  refine Device.inSmbus_touch _ _ _ (sub_mask (by decide) hS) fun e => ?_
  split
  · exact Device.busNack_touch _ _ (sub_mask (by decide) hS)
  · refine Device.withPec_touch _ _ _ _ (sub_mask (by decide) hS) fun e => ?_
    rw [h, Device.renew_touch _ _ (sub_mask (by decide) hS), Device.pmOpen_touch _ _ (sub_mask (by decide) hS)]

@[simp ↓] theorem Device.pmWrite_touch {S : Nat} {d0 : Device} (d : Device) (x : SmbXfer) (g : Source → Fin 16 → Device → Device × Bool) (hS : 2424311829 &&& S = 2424311829)
    (h : ∀ src n e, Touches S d0 (g src n e).1 ↔ Touches S d0 e) : Touches S d0 (Device.pmWrite d x g) ↔ Touches S d0 d := by
  unfold Device.pmWrite
  refine Device.pmCommand_touch _ _ _ hS fun p src e => ?_
  have h1 : 8388608 &&& S = 8388608 := sub_mask (by decide) hS
  split
  · simp [h1]
  · dsimp only
    have k : Touches S d0 ((e.pmLoops p).foldl (fun (y : Device × Bool) n => ((g src n y.1).1, y.2 && (g src n y.1).2)) (e, true)).1
        ↔ Touches S d0 e := touches_foldl_fst _ _ _ fun y n => h src n y.1
    rw [Device.busReply_touch _ _ _ h1]
    split
    · exact k
    · rw [Device.setCml_touch _ _ _ h1]; exact k

@[simp ↓] theorem Device.pmRead_touch {S : Nat} {d0 : Device} (d : Device) (x : SmbXfer) (g : Fin 16 → Device → List Byte × Device) (hS : 2424311829 &&& S = 2424311829)
    (h : ∀ n e, Touches S d0 (g n e).2 ↔ Touches S d0 e) : Touches S d0 (Device.pmRead d x g) ↔ Touches S d0 d := by
  unfold Device.pmRead
  refine Device.pmCommand_touch _ _ _ hS fun p src e => ?_
  have h1 : 8388608 &&& S = 8388608 := sub_mask (by decide) hS
  split <;> simp [h1, h]

@[simp ↓] theorem Device.pmPortRead_touch {S : Nat} {d0 : Device} (d : Device) (x : SmbXfer) (g : I3cPort → List Byte) (hS : 2424311829 &&& S = 2424311829) :
    Touches S d0 (Device.pmPortRead d x g) ↔ Touches S d0 d := by
  refine Touches.lift (m := 2424311829) ?_ hS
  simp [Device.pmPortRead]

@[simp ↓] theorem Device.pmField_touch {S : Nat} {d0 : Device} (d : Device) (f : OtpArray) (src : Source) (n : Fin 16) (o hi lo : Nat) (v : Int) (hS : 55280926719 &&& S = 55280926719) :
    Touches S d0 (Device.pmField d f src n o hi lo v).1 ↔ Touches S d0 d := by
  refine Touches.lift (m := 55280926719) ?_ hS
  simp [Device.pmField]

@[simp ↓] theorem Device.pmVolts_touch {S : Nat} {d0 : Device} (d : Device) (f : OtpArray) (src : Source) (n : Fin 16) (o hi lo : Nat) (v : BitVec 16) (hS : 55280926719 &&& S = 55280926719) :
    Touches S d0 (Device.pmVolts d f src n o hi lo v).1 ↔ Touches S d0 d := by
  refine Touches.lift (m := 55280926719) ?_ hS
  simp [Device.pmVolts]

@[simp ↓] theorem Device.pmFrequency_touch {S : Nat} {d0 : Device} (d : Device) (f : OtpArray) (src : Source) (n : Fin 16) (v : BitVec 16) (hS : 55280926719 &&& S = 55280926719) :
    Touches S d0 (Device.pmFrequency d f src n v).1 ↔ Touches S d0 d := by
  refine Touches.lift (m := 55280926719) ?_ hS
  simp [Device.pmFrequency]

@[simp ↓] theorem Device.pmWhole_touch {S : Nat} {d0 : Device} (d : Device) (f : OtpArray) (src : Source) (ok : Bool) (a : Nat) (w : Word) (hS : 55280926719 &&& S = 55280926719) :
    Touches S d0 (Device.pmWhole d f src ok a w) ↔ Touches S d0 d := by
  refine Touches.lift (m := 55280926719) ?_ hS
  simp [Device.pmWhole]

@[simp ↓] theorem Device.pmOperation_touch {S : Nat} {d0 : Device} (d : Device) (f : OtpArray) (src : Source) (n : Fin 16) (vsel : Option Nat) (op : Nat) (hS : 55280926719 &&& S = 55280926719) :
    Touches S d0 (Device.pmOperation d f src n vsel op).1 ↔ Touches S d0 d := by
  refine Touches.lift (m := 55280926719) ?_ hS
  unfold Device.pmOperation; (repeat' split) <;> simp

@[simp ↓] theorem Device.pmClear_touch {S : Nat} {d0 : Device} (d : Device) (f : OtpArray) (src : Source) (n : Fin 16) (hS : 55280926719 &&& S = 55280926719) :
    Touches S d0 (Device.pmClear d f src n).1 ↔ Touches S d0 d := by
  refine Touches.lift (m := 55280926719) ?_ hS
  simp [Device.pmClear]

@[simp ↓] theorem Device.pmOperationByte_touch {S : Nat} {d0 : Device} (d : Device) (f : OtpArray) (x : SmbXfer) (data : Option Byte) (hS : 55280926719 &&& S = 55280926719) :
    Touches S d0 (Device.pmOperationByte d f x data) ↔ Touches S d0 d := by
  refine Touches.lift (m := 55280926719) ?_ hS
  unfold Device.pmOperationByte; (repeat' split) <;> simp

@[simp ↓] theorem Device.pmTemperature_touch {S : Nat} {d0 : Device} (d : Device) (n : Fin 16) (hS : 17179869184 &&& S = 17179869184) :
    Touches S d0 (Device.pmTemperature d n).2 ↔ Touches S d0 d := by
  refine Touches.lift (m := 17179869184) ?_ hS
  unfold Device.pmTemperature; (repeat' split) <;> simp

@[simp ↓] theorem Device.pmUnsupported_touch {S : Nat} {d0 : Device} (d : Device) (x : SmbXfer) (code : Byte) (hS : 8388608 &&& S = 8388608) :
    Touches S d0 (Device.pmUnsupported d x code) ↔ Touches S d0 d := by
  refine Touches.lift (m := 8388608) ?_ hS
  simp [Device.pmUnsupported]

@[simp ↓] theorem Device.pmPageCommand_touch {S : Nat} {d0 : Device} (d : Device) (x : SmbXfer) (write : Option Byte) (hS : 2424311829 &&& S = 2424311829) :
    Touches S d0 (Device.pmPageCommand d x write) ↔ Touches S d0 d := by
  refine Touches.lift (m := 2424311829) ?_ hS
  unfold Device.pmPageCommand; (repeat' split) <;> simp

@[simp ↓] theorem Device.pmWord_touch {S : Nat} {d0 : Device} (d : Device) (x : SmbXfer) (write : Option (BitVec 16)) (rd : Fin 16 → Device → List Byte)
    (wr : Source → Fin 16 → Device → BitVec 16 → Device × Bool) (hS : 2424311829 &&& S = 2424311829)
    (h : ∀ src n e v, Touches S d0 (wr src n e v).1 ↔ Touches S d0 e) : Touches S d0 (Device.pmWord d x write rd wr) ↔ Touches S d0 d := by
  unfold Device.pmWord
  split
  · exact Device.pmRead_touch _ _ _ hS fun n e => Iff.rfl
  · exact Device.pmWrite_touch _ _ _ hS fun src n e => h src n e _

@[simp ↓] theorem Device.accumulate_touch {S : Nat} {d0 : Device} (d : Device) (hS : 524288 &&& S = 524288) :
    Touches S d0 (Device.accumulate d) ↔ Touches S d0 d := by
  refine Touches.lift (m := 524288) ?_ hS
  simp [Device.accumulate]

@[simp ↓] theorem Device.fillBuckets_touch {S : Nat} {d0 : Device} (d : Device) (hS : 262144 &&& S = 262144) :
    Touches S d0 (Device.fillBuckets d) ↔ Touches S d0 d := by
  refine Touches.lift (m := 262144) ?_ hS
  simp [Device.fillBuckets]

@[simp ↓] theorem Device.countCycle_touch {S : Nat} {d0 : Device} (d : Device) (hS : 2148536324 &&& S = 2148536324) :
    Touches S d0 (Device.countCycle d) ↔ Touches S d0 d := by
  refine Touches.lift (m := 2148536324) ?_ hS
  simp [Device.countCycle]

@[simp ↓] theorem Device.agePulses_touch {S : Nat} {d0 : Device} (d : Device) (hS : 96 &&& S = 96) :
    Touches S d0 (Device.agePulses d) ↔ Touches S d0 d := by
  refine Touches.lift (m := 96) ?_ hS
  simp [Device.agePulses]

@[simp ↓] theorem Device.ageCauses_touch {S : Nat} {d0 : Device} (d : Device) (hS : 131072 &&& S = 131072) :
    Touches S d0 (Device.ageCauses d) ↔ Touches S d0 d := by
  refine Touches.lift (m := 131072) ?_ hS
  simp [Device.ageCauses]

@[simp ↓] theorem Device.leasesOverdue_touch {S : Nat} {d0 : Device} (d : Device) (f : OtpArray) (hS : 53865149431 &&& S = 53865149431) :
    Touches S d0 (Device.leasesOverdue d f) ↔ Touches S d0 d := by
  refine Touches.lift (m := 53865149431) ?_ hS
  simp [Device.leasesOverdue]

@[simp ↓] theorem Device.tick_touch {S : Nat} {d0 : Device} (d : Device) (f : OtpArray) (hS : 66752279543 &&& S = 66752279543) :
    Touches S d0 (Device.tick d f) ↔ Touches S d0 d := by
  refine Touches.lift (m := 66752279543) ?_ hS
  simp [Device.tick]

@[simp ↓] theorem Device.inService_touch {S : Nat} {d0 : Device} (d : Device) (f : Device → Device)
    (h : ∀ e, Touches S d0 (f e) ↔ Touches S d0 e) : Touches S d0 (d.inService f) ↔ Touches S d0 d := by
  unfold Device.inService; split <;> simp [h]

@[simp ↓] theorem Device.loopsSettle_touch {S : Nat} {d0 : Device} (d : Device) (hS : 2149061607 &&& S = 2149061607) :
    Touches S d0 (Device.loopsSettle d) ↔ Touches S d0 d := by
  refine Touches.lift (m := 2149061607) ?_ hS
  simp [Device.loopsSettle]

@[simp ↓] theorem Device.drainDecay_touch {S : Nat} {d0 : Device} (d : Device) (k : Fin 64) (x0 x1 : Imon) (hS : 2149061607 &&& S = 2149061607) :
    Touches S d0 (Device.drainDecay d k x0 x1) ↔ Touches S d0 d := by
  refine Touches.lift (m := 2149061607) ?_ hS
  simp [Device.drainDecay]

@[simp ↓] theorem Device.drainExpiry_touch {S : Nat} {d0 : Device} (d : Device) (k : Fin 64) (hS : 2149061607 &&& S = 2149061607) :
    Touches S d0 (Device.drainExpiry d k) ↔ Touches S d0 d := by
  refine Touches.lift (m := 2149061607) ?_ hS
  simp [Device.drainExpiry]

@[simp ↓] theorem Device.phaseDetect_touch {S : Nat} {d0 : Device} (d : Device) (k : Fin 64) (dets : List PhaseDetect) (hS : 2149061607 &&& S = 2149061607) :
    Touches S d0 (Device.phaseDetect d k dets) ↔ Touches S d0 d := by
  refine Touches.lift (m := 2149061607) ?_ hS
  unfold Device.phaseDetect; dsimp only; (repeat' split) <;> simp

@[simp ↓] theorem Device.stageFault_touch {S : Nat} {d0 : Device} (d : Device) (k : Fin 64) (hS : 2149061607 &&& S = 2149061607) :
    Touches S d0 (Device.stageFault d k) ↔ Touches S d0 d := by
  refine Touches.lift (m := 2149061607) ?_ hS
  unfold Device.stageFault; (repeat' split) <;> simp

@[simp ↓] theorem Device.cuePinEdge_touch {S : Nat} {d0 : Device} (d : Device) (w : BitVec 7) (t : CueTiming) (hS : 2149060709 &&& S = 2149060709) :
    Touches S d0 (Device.cuePinEdge d w t) ↔ Touches S d0 d := by
  refine Touches.lift (m := 2149060709) ?_ hS
  simp [Device.cuePinEdge]

@[simp ↓] theorem Device.boundary_touch {S : Nat} {d0 : Device} (d : Device) (n : Fin 16) (per : PeriodSamples) (same : Coincident) (hS : 2149061607 &&& S = 2149061607) :
    Touches S d0 (Device.boundary d n per same) ↔ Touches S d0 d := by
  refine Touches.lift (m := 2149061607) ?_ hS
  simp [Device.boundary]

@[simp ↓] theorem Device.pgExpiry_touch {S : Nat} {d0 : Device} (d : Device) (i : Fin 128) (hS : 2149061606 &&& S = 2149061606) :
    Touches S d0 (Device.pgExpiry d i) ↔ Touches S d0 d := by
  refine Touches.lift (m := 2149061606) ?_ hS
  simp [Device.pgExpiry]

@[simp ↓] theorem Device.gaugeSecond_touch {S : Nat} {d0 : Device} (d : Device) (sec : GaugeSecond) (hS : 2149143527 &&& S = 2149143527) :
    Touches S d0 (Device.gaugeSecond d sec) ↔ Touches S d0 d := by
  refine Touches.lift (m := 2149143527) ?_ hS
  simp [Device.gaugeSecond]

@[simp ↓] theorem Device.rushEvent_touch {S : Nat} {d0 : Device} (d : Device) (c : RushCause) (hS : 2148007942 &&& S = 2148007942) :
    Touches S d0 (Device.rushEvent d c) ↔ Touches S d0 d := by
  refine Touches.lift (m := 2148007942) ?_ hS
  unfold Device.rushEvent; (repeat' split) <;> simp

end Sys2Proof.Machine
end

