-- ==== Sys2Proof/Laws/Store.lean ====
section
/-! SUPPORT. The register store and the memory: a read after a write, other places, and the canonical form. -/

namespace Sys2Proof.Machine
open Sys2Proof

/-! ## The register store -/

/-- In canonical form, every address after the first is above it. -/
theorem Store.wf_tail {dflt : Nat → Word} {x : Nat × Word} {r : Store} (h : Store.wf dflt (x :: r) = true) : Store.wf dflt r = true := by
  cases r with
  | nil => rfl
  | cons y r => simp [Store.wf] at h; exact h.2

theorem Store.wf_head {dflt : Nat → Word} {a : Nat} {w : Word} {r : Store} (h : Store.wf dflt ((a, w) :: r) = true) : w ≠ dflt a := by
  cases r with
  | nil => simpa [Store.wf] using h
  | cons y r => simp [Store.wf] at h; exact h.1.2

theorem Store.wf_above {dflt : Nat → Word} {a : Nat} {w : Word} {r : Store} (h : Store.wf dflt ((a, w) :: r) = true) :
    ∀ y ∈ r, a < y.1 := by
  induction r generalizing a w with
  | nil => simp
  | cons y r ih =>
    obtain ⟨b, v⟩ := y
    simp [Store.wf] at h
    intro z hz
    rcases List.mem_cons.1 hz with rfl | hz
    · exact h.1.1
    · exact Nat.lt_trans h.1.1 (ih h.2 z hz)

/-- An entry in front of a canonical store whose addresses all lie above it. -/
theorem Store.wf_cons {dflt : Nat → Word} {a : Nat} {w : Word} {r : Store} (hw : w ≠ dflt a) (ha : ∀ y ∈ r, a < y.1)
    (hr : Store.wf dflt r = true) : Store.wf dflt ((a, w) :: r) = true := by
  cases r with
  | nil => simpa [Store.wf] using hw
  | cons y r =>
    obtain ⟨b, v⟩ := y
    simp [Store.wf, hw, hr]
    exact ha (b, v) (by simp)

/-- The addresses of a store after a write are its own and the one written. -/
theorem storeSet_mem {s : Store} {x : Nat} {w d : Word} {y : Nat × Word} (h : y ∈ storeSet s x w d) : y ∈ s ∨ y = (x, w) := by
  induction s with
  | nil =>
    simp only [storeSet] at h
    split at h <;> simp_all
  | cons z r ih =>
    obtain ⟨a, v⟩ := z
    simp only [storeSet] at h
    (repeat' split at h) <;> simp_all <;> grind

/-- A write keeps the canonical form. -/
theorem storeSet_wf {dflt : Nat → Word} {s : Store} (x : Nat) (w : Word) (h : Store.wf dflt s = true) :
    Store.wf dflt (storeSet s x w (dflt x)) = true := by
  induction s with
  | nil =>
    simp only [storeSet]
    split <;> simp_all [Store.wf]
  | cons z r ih =>
    obtain ⟨a, v⟩ := z
    have hr := Store.wf_tail h
    have hab := Store.wf_above h
    simp only [storeSet]
    split
    · split
      · exact h
      · rename_i hx hw
        refine Store.wf_cons hw (fun y hy => ?_) h
        rcases List.mem_cons.1 hy with rfl | hy
        · exact hx
        · exact Nat.lt_trans hx (hab y hy)
    · split
      · rename_i hx
        split
        · exact hr
        · rename_i hw
          subst hx
          exact Store.wf_cons hw hab hr
      · rename_i h1 h2
        refine Store.wf_cons (Store.wf_head h) (fun y hy => ?_) (ih hr)
        rcases storeSet_mem hy with hy | rfl
        · exact hab y hy
        · exact Nat.lt_of_le_of_ne (Nat.not_lt.1 h1) (fun e => h2 e.symm)

/-- Dropping entries keeps the canonical form. -/
theorem Store.wf_filter {dflt : Nat → Word} {s : Store} (p : Nat × Word → Bool) (h : Store.wf dflt s = true) :
    Store.wf dflt (s.filter p) = true := by
  induction s with
  | nil => rfl
  | cons z r ih =>
    obtain ⟨a, v⟩ := z
    have hr := ih (Store.wf_tail h)
    simp only [List.filter_cons]
    split
    · exact Store.wf_cons (Store.wf_head h) (fun y hy => Store.wf_above h y (List.mem_filter.1 hy).1) hr
    · exact hr

/-- An address below all others is not found. -/
theorem storeFind_below {s : Store} {x : Nat} (h : ∀ y ∈ s, x < y.1) : storeFind s x = none := by
  induction s with
  | nil => rfl
  | cons z r ih =>
    obtain ⟨a, v⟩ := z
    have := h (a, v) (by simp)
    simp only [storeFind]
    rw [if_neg (by simp at this; omega)]
    exact ih fun y hy => h y (by simp [hy])

/-- A read of the address just written gives the word written. -/
theorem storeFind_set_same {dflt : Nat → Word} {s : Store} (x : Nat) (w : Word) (h : Store.wf dflt s = true) :
    (storeFind (storeSet s x w (dflt x)) x).getD (dflt x) = w := by
  induction s with
  | nil => simp only [storeSet]; split <;> simp_all [storeFind]
  | cons z r ih =>
    obtain ⟨a, v⟩ := z
    have hab := Store.wf_above h
    simp only [storeSet]
    split
    · rename_i hx
      split
      · rename_i hw
        rw [storeFind_below (s := (a, v) :: r)]
        · exact hw.symm
        · intro y hy
          rcases List.mem_cons.1 hy with rfl | hy
          · exact hx
          · exact Nat.lt_trans hx (hab y hy)
      · simp [storeFind]
    · split
      · rename_i hx
        split
        · rename_i hw
          subst hx
          rw [storeFind_below hab]
          exact hw.symm
        · simp [storeFind, hx]
      · rename_i h1 h2
        simp only [storeFind]
        rw [if_neg h2]
        exact ih (Store.wf_tail h)

/-- A write leaves every other address alone. -/
theorem storeFind_set_other (s : Store) (x : Nat) (w d : Word) {y : Nat} (hy : y ≠ x) : storeFind (storeSet s x w d) y = storeFind s y := by
  induction s with
  | nil => simp only [storeSet]; split <;> simp [storeFind, hy]
  | cons z r ih =>
    obtain ⟨a, v⟩ := z
    simp only [storeSet]
    (repeat' split) <;> simp_all [storeFind]

/-! ## Registers of the device -/

/-- A register just written reads the word written. -/
theorem Device.reg_setReg (d : Device) (a : Nat) (w : Word) (h : d.canonical = true) : (d.setReg a w).reg a = w := by
  have hs : Store.wf resetWord d.regs = true := by
    unfold Device.canonical at h
    simp only [Bool.and_eq_true] at h
    exact h.1
  exact storeFind_set_same a w hs

/-- A write leaves every other register alone. -/
theorem Device.reg_setReg_other (d : Device) (a : Nat) (w : Word) {b : Nat} (hb : b ≠ a) : (d.setReg a w).reg b = d.reg b := by
  show (storeFind (storeSet d.regs a w (resetWord a)) b).getD _ = _
  rw [storeFind_set_other _ _ _ _ hb]
  rfl

/-! ## Memory -/

theorem Memory.wf_tail {x : Nat × Byte} {r : Memory} (h : Memory.wf (x :: r) = true) : Memory.wf r = true := by
  cases r with
  | nil => rfl
  | cons y r => simp [Memory.wf] at h; exact h.2

theorem Memory.wf_head {a : Nat} {b : Byte} {r : Memory} (h : Memory.wf ((a, b) :: r) = true) : b ≠ memDefault := by
  cases r with
  | nil => simpa [Memory.wf] using h
  | cons y r => simp [Memory.wf] at h; exact h.1.2

theorem Memory.wf_above {a : Nat} {b : Byte} {r : Memory} (h : Memory.wf ((a, b) :: r) = true) : ∀ y ∈ r, a < y.1 := by
  induction r generalizing a b with
  | nil => simp
  | cons y r ih =>
    obtain ⟨c, v⟩ := y
    simp [Memory.wf] at h
    intro z hz
    rcases List.mem_cons.1 hz with rfl | hz
    · exact h.1.1
    · exact Nat.lt_trans h.1.1 (ih h.2 z hz)

theorem Memory.wf_cons {a : Nat} {b : Byte} {r : Memory} (hb : b ≠ memDefault) (ha : ∀ y ∈ r, a < y.1)
    (hr : Memory.wf r = true) : Memory.wf ((a, b) :: r) = true := by
  cases r with
  | nil => simpa [Memory.wf] using hb
  | cons y r =>
    obtain ⟨c, v⟩ := y
    simp [Memory.wf, hb, hr]
    exact ha (c, v) (by simp)

theorem memWrite_mem {s : Memory} {x : Nat} {b : Byte} {y : Nat × Byte} (h : y ∈ memWrite s x b) : y ∈ s ∨ y = (x, b) := by
  induction s with
  | nil =>
    simp only [memWrite] at h
    split at h <;> simp_all
  | cons z r ih =>
    obtain ⟨a, v⟩ := z
    simp only [memWrite] at h
    (repeat' split at h) <;> simp_all <;> grind

/-- A write of a byte keeps the canonical form. -/
theorem memWrite_wf {s : Memory} (x : Nat) (b : Byte) (h : Memory.wf s = true) : Memory.wf (memWrite s x b) = true := by
  induction s with
  | nil =>
    simp only [memWrite]
    split <;> simp_all [Memory.wf]
  | cons z r ih =>
    obtain ⟨a, v⟩ := z
    have hr := Memory.wf_tail h
    have hab := Memory.wf_above h
    simp only [memWrite]
    split
    · split
      · exact h
      · rename_i hx hw
        refine Memory.wf_cons hw (fun y hy => ?_) h
        rcases List.mem_cons.1 hy with rfl | hy
        · exact hx
        · exact Nat.lt_trans hx (hab y hy)
    · split
      · rename_i hx
        split
        · exact hr
        · rename_i hw
          subst hx
          exact Memory.wf_cons hw hab hr
      · rename_i h1 h2
        refine Memory.wf_cons (Memory.wf_head h) (fun y hy => ?_) (ih hr)
        rcases memWrite_mem hy with hy | rfl
        · exact hab y hy
        · exact Nat.lt_of_le_of_ne (Nat.not_lt.1 h1) (fun e => h2 e.symm)

/-- A write of a word keeps the canonical form. -/
theorem memPut_wf {s : Memory} (x : Nat) (w : Word) (h : Memory.wf s = true) : Memory.wf (memPut s x w) = true :=
  memWrite_wf _ _ (memWrite_wf _ _ (memWrite_wf _ _ (memWrite_wf _ _ h)))

/-- Dropping bytes keeps the canonical form. -/
theorem Memory.wf_filter {s : Memory} (p : Nat × Byte → Bool) (h : Memory.wf s = true) : Memory.wf (s.filter p) = true := by
  induction s with
  | nil => rfl
  | cons z r ih =>
    obtain ⟨a, v⟩ := z
    have hr := ih (Memory.wf_tail h)
    simp only [List.filter_cons]
    split
    · exact Memory.wf_cons (Memory.wf_head h) (fun y hy => Memory.wf_above h y (List.mem_filter.1 hy).1) hr
    · exact hr

theorem memRead_below {s : Memory} {x : Nat} (h : ∀ y ∈ s, x < y.1) : memRead s x = memDefault := by
  induction s with
  | nil => rfl
  | cons z r ih =>
    obtain ⟨a, v⟩ := z
    have := h (a, v) (by simp)
    simp only [memRead]
    rw [if_neg (by simp at this; omega)]
    exact ih fun y hy => h y (by simp [hy])

/-- A read of the byte just written gives it back. -/
theorem memRead_write_same {s : Memory} (x : Nat) (b : Byte) (h : Memory.wf s = true) : memRead (memWrite s x b) x = b := by
  induction s with
  | nil => simp only [memWrite]; split <;> simp_all [memRead]
  | cons z r ih =>
    obtain ⟨a, v⟩ := z
    have hab := Memory.wf_above h
    simp only [memWrite]
    split
    · rename_i hx
      split
      · rename_i hw
        rw [memRead_below (s := (a, v) :: r)]
        · exact hw.symm
        · intro y hy
          rcases List.mem_cons.1 hy with rfl | hy
          · exact hx
          · exact Nat.lt_trans hx (hab y hy)
      · simp [memRead]
    · split
      · rename_i hx
        split
        · rename_i hw
          subst hx
          rw [memRead_below hab]
          exact hw.symm
        · simp [memRead, hx]
      · rename_i h1 h2
        simp only [memRead]
        rw [if_neg h2]
        exact ih (Memory.wf_tail h)

/-- A write leaves every other byte alone. -/
theorem memRead_write_other (s : Memory) (x : Nat) (b : Byte) {y : Nat} (hy : y ≠ x) : memRead (memWrite s x b) y = memRead s y := by
  induction s with
  | nil => simp only [memWrite]; split <;> simp [memRead, hy]
  | cons z r ih =>
    obtain ⟨a, v⟩ := z
    simp only [memWrite]
    (repeat' split) <;> simp_all [memRead]

/-- The memory after reset is in canonical form. -/
theorem State.reset_ram_wf : Memory.wf State.reset.dev.ram = true := rfl

end Sys2Proof.Machine
end

