-- ==== Sys2Proof/Laws/Canonical.lean ====
section
/-! SUPPORT. Every operation keeps the registers and the addressed RAMs in canonical form: one lemma an operation. -/

set_option maxRecDepth 4000
set_option linter.unusedTactic false
set_option linter.unreachableTactic false

namespace Sys2Proof.Machine
open Sys2Proof

/-- An operation that writes neither leaves the canonical form as it was: 68719476732 is every kind of state but the registers and the RAMs. -/
theorem canonical_of {d e : Device} (h : Touches 68719476732 d e ↔ Touches 68719476732 d d) : e.canonical = d.canonical := by
  have t := h.2 (Touches.same d)
  have hr : e.regs = d.regs := t .regs (by decide)
  have hm : e.ram = d.ram := t .ram (by decide)
  unfold Device.canonical
  rw [hr, hm]

@[simp ↓] theorem canonical_ite {a b : Device} (c : Prop) [Decidable c] :
    (if c then a else b).canonical = (if c then a.canonical else b.canonical) := by split <;> rfl

@[simp ↓] theorem canonical_ite_fst {α : Type} {a b : Device × α} (c : Prop) [Decidable c] :
    (if c then a else b).1.canonical = (if c then a.1.canonical else b.1.canonical) := by split <;> rfl

theorem canonical_if {a b : Device} (c : Prop) [Decidable c] (ha : a.canonical = true) (hb : b.canonical = true) :
    (if c then a else b).canonical = true := by split <;> assumption

@[simp] theorem canonical_foldFin {n : Nat} (f : Device → Fin n → Device) (d : Device)
    (h : ∀ e i, e.canonical = true → (f e i).canonical = true) (hd : d.canonical = true) : (foldFin n f d).canonical = true := by
  unfold foldFin
  induction List.finRange n generalizing d with
  | nil => exact hd
  | cons a l ih => exact ih _ (h _ _ hd)

@[simp] theorem canonical_foldl {α : Type} (f : Device → α → Device) (l : List α) (d : Device)
    (h : ∀ e i, e.canonical = true → (f e i).canonical = true) (hd : d.canonical = true) : (l.foldl f d).canonical = true := by
  induction l generalizing d with
  | nil => exact hd
  | cons a l ih => exact ih _ (h _ _ hd)

@[simp] theorem canonical_foldl_fst {α β : Type} (f : Device × β → α → Device × β) (l : List α) (d : Device × β)
    (h : ∀ e i, e.1.canonical = true → (f e i).1.canonical = true) (hd : d.1.canonical = true) : (l.foldl f d).1.canonical = true := by
  induction l generalizing d with
  | nil => exact hd
  | cons a l ih => exact ih _ (h _ _ hd)

@[simp] theorem canonical_foldl_snd {α β : Type} (f : β × Device → α → β × Device) (l : List α) (d : β × Device)
    (h : ∀ e i, e.2.canonical = true → (f e i).2.canonical = true) (hd : d.2.canonical = true) : (l.foldl f d).2.canonical = true := by
  induction l generalizing d with
  | nil => exact hd
  | cons a l ih => exact ih _ (h _ _ hd)

@[simp] theorem canonical_foldl_load {α : Type} (f : LoadRun → α → LoadRun) (l : List α) (d : LoadRun)
    (h : ∀ e i, e.dev.canonical = true → (f e i).dev.canonical = true) (hd : d.dev.canonical = true) :
    (l.foldl f d).dev.canonical = true := by
  induction l generalizing d with
  | nil => exact hd
  | cons a l ih => exact ih _ (h _ _ hd)

@[simp] theorem canonical_foldl_funnel {α : Type} (f : FunnelRun → α → FunnelRun) (l : List α) (d : FunnelRun)
    (h : ∀ e i, e.dev.canonical = true → (f e i).dev.canonical = true) (hd : d.dev.canonical = true) :
    (l.foldl f d).dev.canonical = true := by
  induction l generalizing d with
  | nil => exact hd
  | cons a l ih => exact ih _ (h _ _ hd)

@[simp ↓] theorem canonical_with_hdr (d : Device) (v0 : type_of% d.hdr) : ({ d with hdr := v0 } : Device).canonical = d.canonical := rfl
@[simp ↓] theorem canonical_with_boot (d : Device) (v0 : type_of% d.boot) : ({ d with boot := v0 } : Device).canonical = d.canonical := rfl
@[simp ↓] theorem canonical_with_ctx (d : Device) (v0 : type_of% d.ctx) : ({ d with ctx := v0 } : Device).canonical = d.canonical := rfl
@[simp ↓] theorem canonical_with_phase (d : Device) (v0 : type_of% d.phase) : ({ d with phase := v0 } : Device).canonical = d.canonical := rfl
@[simp ↓] theorem canonical_with_loop (d : Device) (v0 : type_of% d.loop) : ({ d with loop := v0 } : Device).canonical = d.canonical := rfl
@[simp ↓] theorem canonical_with_entry (d : Device) (v0 : type_of% d.entry) : ({ d with entry := v0 } : Device).canonical = d.canonical := rfl
@[simp ↓] theorem canonical_with_seq (d : Device) (v0 : type_of% d.seq) : ({ d with seq := v0 } : Device).canonical = d.canonical := rfl
@[simp ↓] theorem canonical_with_rso (d : Device) (v0 : type_of% d.rso) : ({ d with rso := v0 } : Device).canonical = d.canonical := rfl
@[simp ↓] theorem canonical_with_thm (d : Device) (v0 : type_of% d.thm) : ({ d with thm := v0 } : Device).canonical = d.canonical := rfl
@[simp ↓] theorem canonical_with_flt (d : Device) (v0 : type_of% d.flt) : ({ d with flt := v0 } : Device).canonical = d.canonical := rfl
@[simp ↓] theorem canonical_with_evc (d : Device) (v0 : type_of% d.evc) : ({ d with evc := v0 } : Device).canonical = d.canonical := rfl
@[simp ↓] theorem canonical_with_wdt (d : Device) (v0 : type_of% d.wdt) : ({ d with wdt := v0 } : Device).canonical = d.canonical := rfl
@[simp ↓] theorem canonical_with_hup (d : Device) (v0 : type_of% d.hup) : ({ d with hup := v0 } : Device).canonical = d.canonical := rfl
@[simp ↓] theorem canonical_with_chg (d : Device) (v0 : type_of% d.chg) : ({ d with chg := v0 } : Device).canonical = d.canonical := rfl
@[simp ↓] theorem canonical_with_gau (d : Device) (v0 : type_of% d.gau) : ({ d with gau := v0 } : Device).canonical = d.canonical := rfl
@[simp ↓] theorem canonical_with_ao (d : Device) (v0 : type_of% d.ao) : ({ d with ao := v0 } : Device).canonical = d.canonical := rfl
@[simp ↓] theorem canonical_with_dma (d : Device) (v0 : type_of% d.dma) : ({ d with dma := v0 } : Device).canonical = d.canonical := rfl
@[simp ↓] theorem canonical_with_tlm (d : Device) (v0 : type_of% d.tlm) : ({ d with tlm := v0 } : Device).canonical = d.canonical := rfl
@[simp ↓] theorem canonical_with_pmc (d : Device) (v0 : type_of% d.pmc) : ({ d with pmc := v0 } : Device).canonical = d.canonical := rfl
@[simp ↓] theorem canonical_with_syn (d : Device) (v0 : type_of% d.syn) : ({ d with syn := v0 } : Device).canonical = d.canonical := rfl
@[simp ↓] theorem canonical_with_pcie (d : Device) (v0 : type_of% d.pcie) : ({ d with pcie := v0 } : Device).canonical = d.canonical := rfl
@[simp ↓] theorem canonical_with_i3c (d : Device) (v0 : type_of% d.i3c) : ({ d with i3c := v0 } : Device).canonical = d.canonical := rfl
@[simp ↓] theorem canonical_with_spi (d : Device) (v0 : type_of% d.spi) : ({ d with spi := v0 } : Device).canonical = d.canonical := rfl
@[simp ↓] theorem canonical_with_otp (d : Device) (v0 : type_of% d.otp) : ({ d with otp := v0 } : Device).canonical = d.canonical := rfl
@[simp ↓] theorem canonical_with_hkc (d : Device) (v0 : type_of% d.hkc) : ({ d with hkc := v0 } : Device).canonical = d.canonical := rfl
@[simp ↓] theorem canonical_with_claims (d : Device) (v0 : type_of% d.claims) : ({ d with claims := v0 } : Device).canonical = d.canonical := rfl
@[simp ↓] theorem canonical_with_openRes (d : Device) (v0 : type_of% d.openRes) : ({ d with openRes := v0 } : Device).canonical = d.canonical := rfl
@[simp ↓] theorem canonical_with_safe (d : Device) (v0 : type_of% d.safe) : ({ d with safe := v0 } : Device).canonical = d.canonical := rfl
@[simp ↓] theorem canonical_with_sheet (d : Device) (v0 : type_of% d.sheet) : ({ d with sheet := v0 } : Device).canonical = d.canonical := rfl
@[simp ↓] theorem canonical_with_cntSeq (d : Device) (v0 : type_of% d.cntSeq) : ({ d with cntSeq := v0 } : Device).canonical = d.canonical := rfl
@[simp ↓] theorem canonical_with_ts (d : Device) (v0 : type_of% d.ts) : ({ d with ts := v0 } : Device).canonical = d.canonical := rfl
@[simp ↓] theorem canonical_with_cycle (d : Device) (v0 : type_of% d.cycle) : ({ d with cycle := v0 } : Device).canonical = d.canonical := rfl
@[simp ↓] theorem canonical_with_freeCount (d : Device) (v0 : type_of% d.freeCount) : ({ d with freeCount := v0 } : Device).canonical = d.canonical := rfl
@[simp ↓] theorem canonical_with_out (d : Device) (v0 : type_of% d.out) : ({ d with out := v0 } : Device).canonical = d.canonical := rfl
@[simp ↓] theorem canonical_with_hdr_cntSeq (d : Device) (v0 : type_of% d.hdr) (v1 : type_of% d.cntSeq) : ({ d with hdr := v0, cntSeq := v1 } : Device).canonical = d.canonical := rfl
@[simp ↓] theorem canonical_with_entry_seq (d : Device) (v0 : type_of% d.entry) (v1 : type_of% d.seq) : ({ d with entry := v0, seq := v1 } : Device).canonical = d.canonical := rfl
@[simp ↓] theorem canonical_with_boot_wdt_hkc (d : Device) (v0 : type_of% d.boot) (v1 : type_of% d.wdt) (v2 : type_of% d.hkc) : ({ d with boot := v0, wdt := v1, hkc := v2 } : Device).canonical = d.canonical := rfl
@[simp ↓] theorem canonical_with_boot_ao_i3c (d : Device) (v0 : type_of% d.boot) (v1 : type_of% d.ao) (v2 : type_of% d.i3c) : ({ d with boot := v0, ao := v1, i3c := v2 } : Device).canonical = d.canonical := rfl
@[simp ↓] theorem canonical_with_boot_ts_cycle (d : Device) (v0 : type_of% d.boot) (v1 : type_of% d.ts) (v2 : type_of% d.cycle) : ({ d with boot := v0, ts := v1, cycle := v2 } : Device).canonical = d.canonical := rfl
@[simp ↓] theorem canonical_with_boot_ao (d : Device) (v0 : type_of% d.boot) (v1 : type_of% d.ao) : ({ d with boot := v0, ao := v1 } : Device).canonical = d.canonical := rfl
@[simp ↓] theorem canonical_with_flt_safe_sheet (d : Device) (v0 : type_of% d.flt) (v1 : type_of% d.safe) (v2 : type_of% d.sheet) : ({ d with flt := v0, safe := v1, sheet := v2 } : Device).canonical = d.canonical := rfl
@[simp ↓] theorem canonical_with_boot_hkc (d : Device) (v0 : type_of% d.boot) (v1 : type_of% d.hkc) : ({ d with boot := v0, hkc := v1 } : Device).canonical = d.canonical := rfl
@[simp ↓] theorem canonical_with_phase_loop (d : Device) (v0 : type_of% d.phase) (v1 : type_of% d.loop) : ({ d with phase := v0, loop := v1 } : Device).canonical = d.canonical := rfl
@[simp ↓] theorem canonical_with_syn_ts_cycle (d : Device) (v0 : type_of% d.syn) (v1 : type_of% d.ts) (v2 : type_of% d.cycle) : ({ d with syn := v0, ts := v1, cycle := v2 } : Device).canonical = d.canonical := rfl
@[simp] theorem Device.setReg_canon (d : Device) (a : Nat) (w : Word) (h : d.canonical = true) : (d.setReg a w).canonical = true := by
  unfold Device.canonical at h ⊢
  simp only [Bool.and_eq_true] at h ⊢
  exact ⟨storeSet_wf a w h.1, h.2⟩

@[simp] theorem Device.setRegBits_canon (d : Device) (a hi lo v : Nat) (h : d.canonical = true) : (Device.setRegBits d a hi lo v).canonical = true := by
  simp [Device.setRegBits, h]

@[simp] theorem Device.ramPut_canon (d : Device) (a : Nat) (w : Word) (h : d.canonical = true) : (d.ramPut a w).canonical = true := by
  unfold Device.canonical at h ⊢
  simp only [Bool.and_eq_true] at h ⊢
  exact ⟨h.1, memPut_wf a w h.2⟩

/-- Dropping registers and bytes keeps the canonical form. -/
theorem canonical_filter {d e : Device} (p : Nat × Word → Bool) (q : Nat × Byte → Bool) (hr : e.regs = d.regs.filter p)
    (hm : e.ram = d.ram.filter q) (h : d.canonical = true) : e.canonical = true := by
  unfold Device.canonical at h ⊢
  simp only [Bool.and_eq_true] at h ⊢
  rw [hr, hm]
  exact ⟨Store.wf_filter p h.1, Memory.wf_filter q h.2⟩

@[simp ↓] theorem Device.draw_canon (d : Device) : (Device.draw d).2.canonical = d.canonical :=
  canonical_of (Device.draw_touch d (by decide))

@[simp ↓] theorem Device.updHdr_canon (d : Device) (p : Fin 256) (f : PageHdr → PageHdr) : (Device.updHdr d p f).canonical = d.canonical :=
  canonical_of (Device.updHdr_touch d p f (by decide))

@[simp ↓] theorem Device.setErr_canon (d : Device) (p : Nat) (m : Word) : (Device.setErr d p m).canonical = d.canonical :=
  canonical_of (Device.setErr_touch d p m (by decide))

@[simp ↓] theorem Device.transition_canon (d : Device) (p : Nat) (c cause who : Nat) : (Device.transition d p c cause who).canonical = d.canonical :=
  canonical_of (Device.transition_touch d p c cause who (by decide))

@[simp ↓] theorem Device.syncState_canon (d : Device) (p : Nat) (c cause who : Nat) : (Device.syncState d p c cause who).canonical = d.canonical :=
  canonical_of (Device.syncState_touch d p c cause who (by decide))

@[simp] theorem Device.whenLive_canon (d : Device) (f : Device → Device)
    (h : ∀ e, e.canonical = true → (f e).canonical = true) (hd : d.canonical = true) : (Device.whenLive d f).canonical = true := by
  unfold Device.whenLive
  repeat' first | (simp [h, hd]; done) | split

@[simp] theorem Device.iff_canon (d : Device) (c : Bool) (f : Device → Device)
    (h : ∀ e, e.canonical = true → (f e).canonical = true) (hd : d.canonical = true) : (Device.iff d c f).canonical = true := by
  unfold Device.iff
  repeat' first | (simp [h, hd]; done) | split

@[simp ↓] theorem Device.send_canon (d : Device) (o : Outgoing) : (Device.send d o).canonical = d.canonical :=
  canonical_of (Device.send_touch d o (by decide))

@[simp ↓] theorem Device.latchCause_canon (d : Device) (i code : Nat) : (Device.latchCause d i code).canonical = d.canonical :=
  canonical_of (Device.latchCause_touch d i code (by decide))

@[simp ↓] theorem Device.latchInst_canon (d : Device) (k : Nat) : (Device.latchInst d k).canonical = d.canonical :=
  canonical_of (Device.latchInst_touch d k (by decide))

@[simp ↓] theorem Device.latchRequest_canon (d : Device) (q : ResetReq) : (Device.latchRequest d q).canonical = d.canonical :=
  canonical_of (Device.latchRequest_touch d q (by decide))

@[simp ↓] theorem Device.requestReset_canon (d : Device) (q : ResetReq) : (Device.requestReset d q).canonical = d.canonical :=
  canonical_of (Device.requestReset_touch d q (by decide))

@[simp ↓] theorem Device.evcSync_canon (d : Device) (cause : Nat) (who : Nat) : (Device.evcSync d cause who).canonical = d.canonical :=
  canonical_of (Device.evcSync_touch d cause who (by decide))

@[simp ↓] theorem Device.updSrc_canon (d : Device) (s : Fin 256) (f : EvSource → EvSource) : (Device.updSrc d s f).canonical = d.canonical :=
  canonical_of (Device.updSrc_touch d s f (by decide))

@[simp ↓] theorem Device.raise_canon (d : Device) (s : Nat) (p : Word) : (Device.raise d s p).canonical = d.canonical :=
  canonical_of (Device.raise_touch d s p (by decide))

@[simp ↓] theorem Device.pmcBump_canon (d : Device) (c : Fin 64) (n : Nat) : (Device.pmcBump d c n).1.canonical = d.canonical :=
  canonical_of (Device.pmcBump_touch d c n (by decide))

@[simp ↓] theorem Device.pmcAdd_canon (d : Device) (c : Fin 64) (n : Nat) : (Device.pmcAdd d c n).canonical = d.canonical :=
  canonical_of (Device.pmcAdd_touch d c n (by decide))

@[simp ↓] theorem Device.pmcCount_canon (d : Device) (ev inst n : Nat) : (Device.pmcCount d ev inst n).canonical = d.canonical :=
  canonical_of (Device.pmcCount_touch d ev inst n (by decide))

@[simp ↓] theorem Device.pmcCountAll_canon (d : Device) (ev n : Nat) : (Device.pmcCountAll d ev n).canonical = d.canonical :=
  canonical_of (Device.pmcCountAll_touch d ev n (by decide))

@[simp ↓] theorem Device.pmcOccupancy_canon (d : Device) (ev : Nat) (inst : Option Nat) (n cyc : Nat) : (Device.pmcOccupancy d ev inst n cyc).canonical = d.canonical :=
  canonical_of (Device.pmcOccupancy_touch d ev inst n cyc (by decide))

@[simp ↓] theorem Device.sendTlp_canon (d : Device) (o : Outgoing) : (Device.sendTlp d o).canonical = d.canonical :=
  canonical_of (Device.sendTlp_touch d o (by decide))

@[simp ↓] theorem Device.msix_canon (d : Device) (v : Fin 16) : (Device.msix d v).canonical = d.canonical :=
  canonical_of (Device.msix_touch d v (by decide))

@[simp ↓] theorem Device.updTlm_canon (d : Device) (f : Tlm → Tlm) : (Device.updTlm d f).canonical = d.canonical :=
  canonical_of (Device.updTlm_touch d f (by decide))

@[simp] theorem Device.putRecord_canon (d : Device) (a : Nat) (ws : Vector Word 8) (h : d.canonical = true) : (Device.putRecord d a ws).canonical = true := by
  unfold Device.putRecord; repeat' first | (simp_all (maxDischargeDepth := 40); done) | split | dsimp only | refine canonical_foldFin _ _ (fun e i he => ?_) ?_ | refine canonical_foldl _ _ _ (fun e i he => ?_) ?_

@[simp] theorem Device.rushPut_canon (d : Device) (ws : Vector Word 8) (h : d.canonical = true) : (Device.rushPut d ws).canonical = true := by
  simp [Device.rushPut, h]

@[simp] theorem Device.rushTrigger_canon (d : Device) (cause detail : Nat) (h : d.canonical = true) : (Device.rushTrigger d cause detail).canonical = true := by
  simp [Device.rushTrigger, h]

@[simp ↓] theorem Device.dayLoop_canon (d : Device) (n : Fin 16) (f : DailyLoop → DailyLoop) : (Device.dayLoop d n f).canonical = d.canonical :=
  canonical_of (Device.dayLoop_touch d n f (by decide))

@[simp ↓] theorem Device.dayDev_canon (d : Device) (f : DailyDev → DailyDev) : (Device.dayDev d f).canonical = d.canonical :=
  canonical_of (Device.dayDev_touch d f (by decide))

@[simp ↓] theorem Device.updPh_canon (d : Device) (k : Fin 64) (f : Phase → Phase) : (Device.updPh d k f).canonical = d.canonical :=
  canonical_of (Device.updPh_touch d k f (by decide))

@[simp ↓] theorem Device.updLp_canon (d : Device) (n : Fin 16) (f : Loop → Loop) : (Device.updLp d n f).canonical = d.canonical :=
  canonical_of (Device.updLp_touch d n f (by decide))

@[simp ↓] theorem Device.takeImon_canon (d : Device) (k : Fin 64) (x : Imon) : (Device.takeImon d k x).canonical = d.canonical :=
  canonical_of (Device.takeImon_touch d k x (by decide))

@[simp ↓] theorem Device.takeLast_canon (d : Device) (k : Fin 64) (l : List Imon) : (Device.takeLast d k l).canonical = d.canonical :=
  canonical_of (Device.takeLast_touch d k l (by decide))

@[simp ↓] theorem Device.takeSamples_canon (d : Device) (n : Fin 16) (x : LoopSamples) : (Device.takeSamples d n x).canonical = d.canonical :=
  canonical_of (Device.takeSamples_touch d n x (by decide))

@[simp ↓] theorem Device.lendEnded_canon (d : Device) (n : Fin 16) : (Device.lendEnded d n).canonical = d.canonical :=
  canonical_of (Device.lendEnded_touch d n (by decide))

@[simp ↓] theorem Device.lendRecord_canon (d : Device) (k : Fin 64) (r : LendResult) : (Device.lendRecord d k r).canonical = d.canonical :=
  canonical_of (Device.lendRecord_touch d k r (by decide))

@[simp ↓] theorem Device.phaseTo_canon (d : Device) (k : Fin 64) (st : PhaseState) (cause : Nat) (who : Nat) : (Device.phaseTo d k st cause who).canonical = d.canonical :=
  canonical_of (Device.phaseTo_touch d k st cause who (by decide))

@[simp ↓] theorem Device.phaseDisable_canon (d : Device) (k : Fin 64) (cause : Nat) (who : Nat) : (Device.phaseDisable d k cause who).canonical = d.canonical :=
  canonical_of (Device.phaseDisable_touch d k cause who (by decide))

@[simp ↓] theorem Device.phaseLend_canon (d : Device) (k : Fin 64) : (Device.phaseLend d k).canonical = d.canonical :=
  canonical_of (Device.phaseLend_touch d k (by decide))

@[simp ↓] theorem Device.phaseShed_canon (d : Device) (k : Fin 64) : (Device.phaseShed d k).canonical = d.canonical :=
  canonical_of (Device.phaseShed_touch d k (by decide))

@[simp ↓] theorem Device.phaseJoin_canon (d : Device) (k : Fin 64) : (Device.phaseJoin d k).canonical = d.canonical :=
  canonical_of (Device.phaseJoin_touch d k (by decide))

@[simp ↓] theorem Device.phaseFail_canon (d : Device) (k : Fin 64) (c cause : Nat) : (Device.phaseFail d k c cause).canonical = d.canonical :=
  canonical_of (Device.phaseFail_touch d k c cause (by decide))

@[simp ↓] theorem Device.phaseCrowbar_canon (d : Device) (k : Fin 64) : (Device.phaseCrowbar d k).canonical = d.canonical :=
  canonical_of (Device.phaseCrowbar_touch d k (by decide))

@[simp ↓] theorem Device.phaseForce_canon (d : Device) (k : Fin 64) (lv : Level) : (Device.phaseForce d k lv).canonical = d.canonical :=
  canonical_of (Device.phaseForce_touch d k lv (by decide))

@[simp ↓] theorem Device.loadPeak_canon (d : Device) (k : Fin 64) : (Device.loadPeak d k).canonical = d.canonical :=
  canonical_of (Device.loadPeak_touch d k (by decide))

@[simp ↓] theorem Device.loadPeaks_canon (d : Device) (n : Fin 16) : (Device.loadPeaks d n).canonical = d.canonical :=
  canonical_of (Device.loadPeaks_touch d n (by decide))

@[simp ↓] theorem Device.learn_canon (d : Device) (k : Fin 64) (off : OffTime) : (Device.learn d k off).canonical = d.canonical :=
  canonical_of (Device.learn_touch d k off (by decide))

@[simp ↓] theorem Device.offEnds_canon (d : Device) (k : Fin 64) (off : OffTime) : (Device.offEnds d k off).canonical = d.canonical :=
  canonical_of (Device.offEnds_touch d k off (by decide))

@[simp ↓] theorem Device.leadingEdge_canon (d : Device) (k : Fin 64) (off : OffTime) : (Device.leadingEdge d k off).canonical = d.canonical :=
  canonical_of (Device.leadingEdge_touch d k off (by decide))

@[simp ↓] theorem Device.judgeOpen_canon (d : Device) (k : Fin 64) (judged : List Rat) : (Device.judgeOpen d k judged).canonical = d.canonical :=
  canonical_of (Device.judgeOpen_touch d k judged (by decide))

@[simp ↓] theorem Device.trailingEdge_canon (d : Device) (k : Fin 64) (ton : Nat) (on : OnTime) (dmax : Bool) : (Device.trailingEdge d k ton on dmax).canonical = d.canonical :=
  canonical_of (Device.trailingEdge_touch d k ton on dmax (by decide))

@[simp ↓] theorem Device.comparatorTrip_canon (d : Device) (k : Fin 64) (ton : Nat) (diff : Int) (on : OnTime) : (Device.comparatorTrip d k ton diff on).canonical = d.canonical :=
  canonical_of (Device.comparatorTrip_touch d k ton diff on (by decide))

@[simp ↓] theorem Device.diodeZero_canon (d : Device) (k : Fin 64) (x : Imon) : (Device.diodeZero d k x).canonical = d.canonical :=
  canonical_of (Device.diodeZero_touch d k x (by decide))

@[simp ↓] theorem Device.earlyEdge_canon (d : Device) (k : Fin 64) (off : OffTime) : (Device.earlyEdge d k off).canonical = d.canonical :=
  canonical_of (Device.earlyEdge_touch d k off (by decide))

@[simp ↓] theorem Device.joinComplete_canon (d : Device) (k : Fin 64) : (Device.joinComplete d k).canonical = d.canonical :=
  canonical_of (Device.joinComplete_touch d k (by decide))

@[simp ↓] theorem Device.drainDone_canon (d : Device) (k : Fin 64) : (Device.drainDone d k).canonical = d.canonical :=
  canonical_of (Device.drainDone_touch d k (by decide))

@[simp ↓] theorem Device.handoffCheck_canon (d : Device) (k : Fin 64) : (Device.handoffCheck d k).canonical = d.canonical :=
  canonical_of (Device.handoffCheck_touch d k (by decide))

@[simp ↓] theorem Device.countDetect_canon (d : Device) (k : Fin 64) (det : PhaseDetect) : (Device.countDetect d k det).canonical = d.canonical :=
  canonical_of (Device.countDetect_touch d k det (by decide))

@[simp ↓] theorem Device.clrFail_canon (d : Device) (k : Fin 64) (x : Option FailSeen) (who : Nat) : (Device.clrFail d k x who).canonical = d.canonical :=
  canonical_of (Device.clrFail_touch d k x who (by decide))

@[simp ↓] theorem Device.takeOwn_canon (d : Device) (k : Fin 64) : (Device.takeOwn d k).canonical = d.canonical :=
  canonical_of (Device.takeOwn_touch d k (by decide))

@[simp ↓] theorem Device.countSlot_canon (d : Device) (ev inst : Nat) : (Device.countSlot d ev inst).canonical = d.canonical :=
  canonical_of (Device.countSlot_touch d ev inst (by decide))

@[simp ↓] theorem Device.useSlot_canon (d : Device) (w : Nat) : (Device.useSlot d w).canonical = d.canonical :=
  canonical_of (Device.useSlot_touch d w (by decide))

@[simp ↓] theorem Device.passSlot_canon (d : Device) (frame w : Nat) : (Device.passSlot d frame w).canonical = d.canonical :=
  canonical_of (Device.passSlot_touch d frame w (by decide))

@[simp ↓] theorem Device.passSlots_canon (d : Device) : (Device.passSlots d).canonical = d.canonical :=
  canonical_of (Device.passSlots_touch d (by decide))

@[simp ↓] theorem Device.targetStep_canon (d : Device) (n : Fin 16) : (Device.targetStep d n).canonical = d.canonical :=
  canonical_of (Device.targetStep_touch d n (by decide))

@[simp ↓] theorem Device.softStep_canon (d : Device) (n : Fin 16) : (Device.softStep d n).canonical = d.canonical :=
  canonical_of (Device.softStep_touch d n (by decide))

@[simp ↓] theorem Device.shortStep_canon (d : Device) (n : Fin 16) : (Device.shortStep d n).canonical = d.canonical :=
  canonical_of (Device.shortStep_touch d n (by decide))

@[simp ↓] theorem Device.updateWith_canon (d : Device) (n : Fin 16) (raw : List Int) : (Device.updateWith d n raw).canonical = d.canonical :=
  canonical_of (Device.updateWith_touch d n raw (by decide))

@[simp ↓] theorem Device.loopUpdate_canon (d : Device) (n : Fin 16) (u : UpdateSlot) : (Device.loopUpdate d n u).canonical = d.canonical :=
  canonical_of (Device.loopUpdate_touch d n u (by decide))

@[simp ↓] theorem Device.balance_canon (d : Device) (k : Fin 64) (frame : Nat) : (Device.balance d k frame).canonical = d.canonical :=
  canonical_of (Device.balance_touch d k frame (by decide))

@[simp] theorem Device.copyBank_canon (d : Device) (n : Fin 16) (h : d.canonical = true) : (Device.copyBank d n).canonical = true := by
  unfold Device.copyBank; (repeat' split) <;> simp (maxDischargeDepth := 40) [h]

@[simp ↓] theorem Device.bankCommit_canon (d : Device) (n : Fin 16) : (Device.bankCommit d n).canonical = d.canonical :=
  canonical_of (Device.bankCommit_touch d n (by decide))

@[simp] theorem Device.bankSwap_canon (d : Device) (n : Fin 16) (h : d.canonical = true) : (Device.bankSwap d n).canonical = true := by
  simp [Device.bankSwap, h]

@[simp] theorem Device.bankInit_canon (d : Device) (n : Fin 16) (h : d.canonical = true) : (Device.bankInit d n).canonical = true := by
  unfold Device.bankInit; (repeat' split) <;> simp (maxDischargeDepth := 40) [h]

@[simp] theorem Device.loopTo_canon (d : Device) (n : Fin 16) (st : LoopState) (cause : Nat) (who : Nat) (h : d.canonical = true) : (Device.loopTo d n st cause who).canonical = true := by
  simp [Device.loopTo, h]

@[simp ↓] theorem Device.loopDisablePhases_canon (d : Device) (n : Fin 16) (cause : Nat) : (Device.loopDisablePhases d n cause).canonical = d.canonical :=
  canonical_of (Device.loopDisablePhases_touch d n cause (by decide))

@[simp] theorem Device.enterRamp_canon (d : Device) (n : Fin 16) (vpb : Int) (cause : Nat) (h : d.canonical = true) : (Device.enterRamp d n vpb cause).canonical = true := by
  simp [Device.enterRamp, h]

@[simp] theorem Device.prebiasTake_canon (d : Device) (n : Fin 16) (code : Nat) (h : d.canonical = true) : (Device.prebiasTake d n code).canonical = true := by
  simp [Device.prebiasTake, h]

@[simp] theorem Device.prebiasDone_canon (d : Device) (n : Fin 16) (codes : List Nat) (h : d.canonical = true) : (Device.prebiasDone d n codes).canonical = true := by
  unfold Device.prebiasDone; repeat' first | (simp_all (maxDischargeDepth := 40); done) | split | dsimp only | refine canonical_foldFin _ _ (fun e i he => ?_) ?_ | refine canonical_foldl _ _ _ (fun e i he => ?_) ?_

@[simp ↓] theorem Device.fltSet_canon (d : Device) (n : Fin 16) (b : Nat) : (Device.fltSet d n b).canonical = d.canonical :=
  canonical_of (Device.fltSet_touch d n b (by decide))

@[simp ↓] theorem Device.cueSync_canon (d : Device) : (Device.cueSync d).canonical = d.canonical :=
  canonical_of (Device.cueSync_touch d (by decide))

@[simp] theorem Device.crowbarOne_canon (d : Device) (n : Fin 16) (h : d.canonical = true) : (Device.crowbarOne d n).canonical = true := by
  simp [Device.crowbarOne, h]

@[simp] theorem Device.crowbar_canon (d : Device) (n : Fin 16) (h : d.canonical = true) : (Device.crowbar d n).canonical = true := by
  unfold Device.crowbar; repeat' first | (simp_all (maxDischargeDepth := 40); done) | split | dsimp only | refine canonical_foldFin _ _ (fun e i he => ?_) ?_ | refine canonical_foldl _ _ _ (fun e i he => ?_) ?_

@[simp] theorem Device.loopStart_canon (d : Device) (n : Fin 16) (cause : Nat) (h : d.canonical = true) : (Device.loopStart d n cause).canonical = true := by
  simp [Device.loopStart, h]

@[simp] theorem Device.loopEnable_canon (d : Device) (n : Fin 16) (h : d.canonical = true) : (Device.loopEnable d n).canonical = true := by
  unfold Device.loopEnable; repeat' first | (simp (maxDischargeDepth := 40) [h]; done) | split | dsimp only | refine canonical_foldFin _ _ (fun e i he => ?_) ?_ | refine canonical_foldl _ _ _ (fun e i he => ?_) ?_

@[simp] theorem Device.loopDrain_canon (d : Device) (n : Fin 16) (cause : Nat) (h : d.canonical = true) : (Device.loopDrain d n cause).canonical = true := by
  simp [Device.loopDrain, h]

@[simp] theorem Device.loopSoftStop_canon (d : Device) (n : Fin 16) (h : d.canonical = true) : (Device.loopSoftStop d n).canonical = true := by
  unfold Device.loopSoftStop; repeat' first | (simp (maxDischargeDepth := 40) [h]; done) | split | dsimp only | refine canonical_foldFin _ _ (fun e i he => ?_) ?_ | refine canonical_foldl _ _ _ (fun e i he => ?_) ?_

@[simp] theorem Device.loopHardStop_canon (d : Device) (n : Fin 16) (h : d.canonical = true) : (Device.loopHardStop d n).canonical = true := by
  unfold Device.loopHardStop; repeat' first | (simp (maxDischargeDepth := 40) [h]; done) | split | dsimp only | refine canonical_foldFin _ _ (fun e i he => ?_) ?_ | refine canonical_foldl _ _ _ (fun e i he => ?_) ?_

@[simp] theorem Device.loopDrained_canon (d : Device) (n : Fin 16) (h : d.canonical = true) : (Device.loopDrained d n).canonical = true := by
  simp [Device.loopDrained, h]

@[simp] theorem Device.loopRestart_canon (d : Device) (n : Fin 16) (h : d.canonical = true) : (Device.loopRestart d n).canonical = true := by
  simp [Device.loopRestart, h]

@[simp] theorem Device.loopFaultCleared_canon (d : Device) (n : Fin 16) (h : d.canonical = true) : (Device.loopFaultCleared d n).canonical = true := by
  simp [Device.loopFaultCleared, h]

@[simp] theorem Device.fltClear_canon (d : Device) (n : Fin 16) (w : Word) (ov otActive extActive : Bool) (h : d.canonical = true) : (Device.fltClear d n w ov otActive extActive).canonical = true := by
  simp [Device.fltClear, h]

@[simp ↓] theorem Device.ovSample_canon (d : Device) (n : Fin 16) (uv : Nat) : (Device.ovSample d n uv).canonical = d.canonical :=
  canonical_of (Device.ovSample_touch d n uv (by decide))

@[simp ↓] theorem Device.releaseCount_canon (d : Device) (n : Fin 16) (codes : List Nat) : (Device.releaseCount d n codes).canonical = d.canonical :=
  canonical_of (Device.releaseCount_touch d n codes (by decide))

@[simp] theorem Device.releaseOne_canon (d : Device) (n : Fin 16) (forced : Fin 64 → Option Level) (h : d.canonical = true) : (Device.releaseOne d n forced).canonical = true := by
  unfold Device.releaseOne; repeat' first | (simp_all (maxDischargeDepth := 40); done) | split | dsimp only | refine canonical_foldFin _ _ (fun e i he => ?_) ?_ | refine canonical_foldl _ _ _ (fun e i he => ?_) ?_

@[simp ↓] theorem Device.requestPhases_canon (d : Device) (n : Fin 16) (l : List (Fin 64)) (add : Bool) : (Device.requestPhases d n l add).canonical = d.canonical :=
  canonical_of (Device.requestPhases_touch d n l add (by decide))

@[simp ↓] theorem Device.addPhases_canon (d : Device) (n : Fin 16) (cnt : Nat) : (Device.addPhases d n cnt).canonical = d.canonical :=
  canonical_of (Device.addPhases_touch d n cnt (by decide))

@[simp ↓] theorem Device.requestAll_canon (d : Device) (n : Fin 16) : (Device.requestAll d n).canonical = d.canonical :=
  canonical_of (Device.requestAll_touch d n (by decide))

@[simp ↓] theorem Device.assignSlots_canon (d : Device) (n : Fin 16) : (Device.assignSlots d n).canonical = d.canonical :=
  canonical_of (Device.assignSlots_touch d n (by decide))

@[simp ↓] theorem Device.countRescale_canon (d : Device) (n : Fin 16) : (Device.countRescale d n).canonical = d.canonical :=
  canonical_of (Device.countRescale_touch d n (by decide))

@[simp ↓] theorem Device.periodEnds_canon (d : Device) (n : Fin 16) (per : PeriodSamples) : (Device.periodEnds d n per).canonical = d.canonical :=
  canonical_of (Device.periodEnds_touch d n per (by decide))

@[simp ↓] theorem Device.boundaryJoins_canon (d : Device) (n : Fin 16) : (Device.boundaryJoins d n).canonical = d.canonical :=
  canonical_of (Device.boundaryJoins_touch d n (by decide))

@[simp ↓] theorem Device.shedDecide_canon (d : Device) (n : Fin 16) : (Device.shedDecide d n).canonical = d.canonical :=
  canonical_of (Device.shedDecide_touch d n (by decide))

@[simp ↓] theorem Device.autoAdd_canon (d : Device) (n : Fin 16) : (Device.autoAdd d n).canonical = d.canonical :=
  canonical_of (Device.autoAdd_touch d n (by decide))

@[simp ↓] theorem Device.shedCount_canon (d : Device) (n : Fin 16) : (Device.shedCount d n).canonical = d.canonical :=
  canonical_of (Device.shedCount_touch d n (by decide))

@[simp ↓] theorem Device.boundaryRequests_canon (d : Device) (n : Fin 16) : (Device.boundaryRequests d n).canonical = d.canonical :=
  canonical_of (Device.boundaryRequests_touch d n (by decide))

@[simp] theorem Device.cueReject_canon (d : Device) (n : Fin 16) (p : Nat) (sw drop : Bool) (h : d.canonical = true) : (Device.cueReject d n p sw drop).canonical = true := by
  simp [Device.cueReject, h]

@[simp] theorem Device.cueRequests_canon (d : Device) (n : Fin 16) (p : Nat) (sw : Bool) (t : Option CueTiming) (h : d.canonical = true) : (Device.cueRequests d n p sw t).canonical = true := by
  unfold Device.cueRequests; (repeat' split) <;> simp (maxDischargeDepth := 40) [h]

@[simp ↓] theorem Device.cueStep_canon (d : Device) (n : Fin 16) (p : Nat) : (Device.cueStep d n p).canonical = d.canonical :=
  canonical_of (Device.cueStep_touch d n p (by decide))

@[simp] theorem Device.cue_canon (d : Device) (n : Fin 16) (p : Nat) (sw : Bool) (t : Option CueTiming) (h : d.canonical = true) : (Device.cue d n p sw t).canonical = true := by
  unfold Device.cue; (repeat' split) <;> simp [h]

@[simp ↓] theorem Device.cueHoldEnd_canon (d : Device) (n : Fin 16) : (Device.cueHoldEnd d n).canonical = d.canonical :=
  canonical_of (Device.cueHoldEnd_touch d n (by decide))

@[simp] theorem Device.boundaryOpen_canon (d : Device) (n : Fin 16) (per : PeriodSamples) (same : Coincident) (h : d.canonical = true) : (Device.boundaryOpen d n per same).canonical = true := by
  unfold Device.boundaryOpen; repeat' first | (simp (maxDischargeDepth := 40) [h]; done) | split | dsimp only | refine canonical_foldFin _ _ (fun e i he => ?_) ?_ | refine canonical_foldl _ _ _ (fun e i he => ?_) ?_

@[simp] theorem Device.boundaryClose_canon (d : Device) (n : Fin 16) (same : Coincident) (h : d.canonical = true) : (Device.boundaryClose d n same).canonical = true := by
  unfold Device.boundaryClose; (repeat' split) <;> simp [h]

@[simp] theorem Device.putLoop_canon (d : Device) (n : Fin 16) (o : Nat) (w : Word) (h : d.canonical = true) : (Device.putLoop d n o w).canonical = true := by
  simp [Device.putLoop, h]

@[simp] theorem Device.loopSoftReset_canon (d : Device) (n : Fin 16) (otActive extActive : Bool) (h : d.canonical = true) : (Device.loopSoftReset d n otActive extActive).canonical = true := by
  simp [Device.loopSoftReset, h]

@[simp ↓] theorem Device.updCh_canon (d : Device) (c : Fin 88) (f : Chan → Chan) : (Device.updCh d c f).canonical = d.canonical :=
  canonical_of (Device.updCh_touch d c f (by decide))

@[simp ↓] theorem Device.chBreak_canon (d : Device) (c : Fin 88) (plaus : Bool) (ex : List (Fin 88)) : (Device.chBreak d c plaus ex).canonical = d.canonical :=
  canonical_of (Device.chBreak_touch d c plaus ex (by decide))

@[simp ↓] theorem Device.crossCheck_canon (d : Device) (c : Fin 88) : (Device.crossCheck d c).canonical = d.canonical :=
  canonical_of (Device.crossCheck_touch d c (by decide))

@[simp ↓] theorem Device.standinCheck_canon (d : Device) (c : Fin 88) : (Device.standinCheck d c).canonical = d.canonical :=
  canonical_of (Device.standinCheck_touch d c (by decide))

@[simp ↓] theorem Device.judgeChan_canon (d : Device) (c : Fin 88) : (Device.judgeChan d c).canonical = d.canonical :=
  canonical_of (Device.judgeChan_touch d c (by decide))

@[simp ↓] theorem Device.derate_canon (d : Device) (n : Fin 16) : (Device.derate d n).canonical = d.canonical :=
  canonical_of (Device.derate_touch d n (by decide))

@[simp ↓] theorem Device.tmonFalls_canon (d : Device) (x : ThermFrame) (due : List (Fin 88)) : (Device.tmonFalls d x due).canonical = d.canonical :=
  canonical_of (Device.tmonFalls_touch d x due (by decide))

@[simp ↓] theorem Device.thermalFrame_canon (d : Device) (x : ThermFrame) : (Device.thermalFrame d x).canonical = d.canonical :=
  canonical_of (Device.thermalFrame_touch d x (by decide))

@[simp ↓] theorem Device.thmClear_canon (d : Device) (c : Fin 88) (who : Nat) : (Device.thmClear d c who).canonical = d.canonical :=
  canonical_of (Device.thmClear_touch d c who (by decide))

@[simp] theorem Device.thmSoftReset_canon (d : Device) (who : Nat) (h : d.canonical = true) : (Device.thmSoftReset d who).canonical = true := by
  unfold Device.thmSoftReset; repeat' first | (simp_all (maxDischargeDepth := 40); done) | split | dsimp only | refine canonical_foldFin _ _ (fun e i he => ?_) ?_ | refine canonical_foldl _ _ _ (fun e i he => ?_) ?_

@[simp ↓] theorem Device.thmWritten_canon (d : Device) (p o : Nat) : (Device.thmWritten d p o).canonical = d.canonical :=
  canonical_of (Device.thmWritten_touch d p o (by decide))

@[simp ↓] theorem Device.updEn_canon (d : Device) (i : Fin 128) (f : Entry → Entry) : (Device.updEn d i f).canonical = d.canonical :=
  canonical_of (Device.updEn_touch d i f (by decide))

@[simp ↓] theorem Device.transitionEnded_canon (d : Device) (r : Nat) : (Device.transitionEnded d r).canonical = d.canonical :=
  canonical_of (Device.transitionEnded_touch d r (by decide))

@[simp ↓] theorem Device.seqTo_canon (d : Device) (st : SeqState) (cause : Nat) (who : Nat) : (Device.seqTo d st cause who).canonical = d.canonical :=
  canonical_of (Device.seqTo_touch d st cause who (by decide))

@[simp ↓] theorem Device.withRso_canon (d : Device) (f : Rso → Rso) : (Device.withRso d f).canonical = d.canonical :=
  canonical_of (Device.withRso_touch d f (by decide))

@[simp ↓] theorem Device.setPins_canon (d : Device) (p : BitVec 32) : (Device.setPins d p).canonical = d.canonical :=
  canonical_of (Device.setPins_touch d p (by decide))

@[simp ↓] theorem Device.rsoSync_canon (d : Device) : (Device.rsoSync d).canonical = d.canonical :=
  canonical_of (Device.rsoSync_touch d (by decide))

@[simp ↓] theorem Device.seqLinesSync_canon (d : Device) : (Device.seqLinesSync d).canonical = d.canonical :=
  canonical_of (Device.seqLinesSync_touch d (by decide))

@[simp ↓] theorem Device.enTo_canon (d : Device) (i : Fin 128) (st : EntryState) (cause : Nat) : (Device.enTo d i st cause).canonical = d.canonical :=
  canonical_of (Device.enTo_touch d i st cause (by decide))

@[simp] theorem Device.stopRail_canon (d : Device) (i : Fin 128) (hard fail : Bool) (cause reading : Nat) (h : d.canonical = true) : (Device.stopRail d i hard fail cause reading).canonical = true := by
  unfold Device.stopRail; (repeat' split) <;> simp [h]

@[simp ↓] theorem Device.holdCheck_canon (d : Device) : (Device.holdCheck d).canonical = d.canonical :=
  canonical_of (Device.holdCheck_touch d (by decide))

@[simp ↓] theorem Device.recordFail_canon (d : Device) (i : Fin 128) (c : Nat) : (Device.recordFail d i c).canonical = d.canonical :=
  canonical_of (Device.recordFail_touch d i c (by decide))

@[simp] theorem Device.cutOne_canon (d : Device) (j : Fin 128) (c : Nat) (fail : Bool) (h : d.canonical = true) : (Device.cutOne d j c fail).canonical = true := by
  unfold Device.cutOne; repeat' first | (simp (maxDischargeDepth := 40) [h]; done) | split | dsimp only | refine canonical_foldFin _ _ (fun e i he => ?_) ?_ | refine canonical_foldl _ _ _ (fun e i he => ?_) ?_

@[simp ↓] theorem Device.enterRetry_canon (d : Device) : (Device.enterRetry d).canonical = d.canonical :=
  canonical_of (Device.enterRetry_touch d (by decide))

@[simp ↓] theorem Device.failPolicy_canon (d : Device) (l : List (Fin 128)) : (Device.failPolicy d l).canonical = d.canonical :=
  canonical_of (Device.failPolicy_touch d l (by decide))

@[simp] theorem Device.railFail_canon (d : Device) (i : Fin 128) (c : Nat) (reading : Nat) (h : d.canonical = true) : (Device.railFail d i c reading).canonical = true := by
  unfold Device.railFail; repeat' first | (simp_all (maxDischargeDepth := 40); done) | split | dsimp only | refine canonical_foldFin _ _ (fun e i he => ?_) ?_ | refine canonical_foldl _ _ _ (fun e i he => ?_) ?_

@[simp] theorem Device.takeLook_canon (d : Device) (n : Nat) (h : d.canonical = true) : (Device.takeLook d n).canonical = true := by
  induction n generalizing d with
  | zero => exact h
  | succ n ih =>
    unfold Device.takeLook
    dsimp only
    split
    · split
      · split <;> simp [h]
      · (repeat' split) <;> simp [h, ih]
    · exact h

@[simp] theorem Device.takeProgress_canon (d : Device) (h : d.canonical = true) : (Device.takeProgress d).canonical = true := by
  simp [Device.takeProgress, h]

@[simp] theorem Device.takeStart_canon (d : Device) (cause : Nat) (h : d.canonical = true) : (d.takeStart cause).canonical = true := by
  unfold Device.takeStart
  generalize List.finRange 128 = l
  dsimp only
  refine Device.takeProgress_canon _ ?_
  rw [Device.holdCheck_canon, Device.seqTo_canon, canonical_with_seq]
  refine canonical_foldl _ _ _ (fun e i he => ?_) ?_
  · split
    · generalize h1 : (if ((e.en i).st == _) = true then e.enTo i _ cause else e) = e1
      have hc : e1.canonical = true := by subst h1; split <;> simp [he]
      generalize h2 : (if (!isRail i && (e1.en i).failCause == 6) = true then e1.updEn i _ else e1) = e2
      have hc2 : e2.canonical = true := by subst h2; split <;> simp [hc]
      split <;> simp [hc2]
    · exact he
  · rw [canonical_with_entry]; exact h

@[simp] theorem Device.firstTake_canon (d : Device) (h : d.canonical = true) : d.firstTake.canonical = true :=
  Device.takeStart_canon _ _ h

@[simp] theorem Device.wrapProgress_canon (d : Device) (h : d.canonical = true) : (Device.wrapProgress d).canonical = true := by
  unfold Device.wrapProgress; (repeat' split) <;> simp [h]

@[simp] theorem Device.startTransition_canon (d : Device) (s r : Nat) (fail : Bool) (who : Nat) (h : d.canonical = true) : (Device.startTransition d s r fail who).canonical = true := by
  simp [Device.startTransition, h]

@[simp] theorem Device.sceneRequest_canon (d : Device) (s r : Nat) (who : Nat) (safe : Bool) (h : d.canonical = true) : (Device.sceneRequest d s r who safe).canonical = true := by
  unfold Device.sceneRequest; (repeat' split) <;> simp [h]

@[simp] theorem Device.latchedStart_canon (d : Device) (h : d.canonical = true) : (Device.latchedStart d).canonical = true := by
  unfold Device.latchedStart; (repeat' split) <;> simp [h]

@[simp] theorem Device.loopRailFault_canon (d : Device) (n : Fin 16) (h : d.canonical = true) : (Device.loopRailFault d n).canonical = true := by
  unfold Device.loopRailFault; (repeat' split) <;> simp (maxDischargeDepth := 40) [h]

@[simp] theorem Device.crowbarsHeard_canon (d before : Device) (h : d.canonical = true) : (Device.crowbarsHeard d before).canonical = true := by
  unfold Device.crowbarsHeard; repeat' first | (simp_all (maxDischargeDepth := 40); done) | split | dsimp only | refine canonical_foldFin _ _ (fun e i he => ?_) ?_ | refine canonical_foldl _ _ _ (fun e i he => ?_) ?_

@[simp] theorem Device.entryStart_canon (d : Device) (i : Fin 128) (vmon : Nat) (h : d.canonical = true) : (Device.entryStart d i vmon).canonical = true := by
  unfold Device.entryStart; (repeat' split) <;> simp [h]

@[simp ↓] theorem Device.setVmon_canon (d : Device) (i : Fin 128) (code : Nat) : (Device.setVmon d i code).canonical = d.canonical :=
  canonical_of (Device.setVmon_touch d i code (by decide))

@[simp ↓] theorem Device.setReadings_canon (d : Device) (i : Fin 128) (readings : List Nat) : (Device.setReadings d i readings).canonical = d.canonical :=
  canonical_of (Device.setReadings_touch d i readings (by decide))

@[simp] theorem Device.railGood_canon (d : Device) (i : Fin 128) (readings : List Nat) (h : d.canonical = true) : (Device.railGood d i readings).canonical = true := by
  simp [Device.railGood, h]

@[simp] theorem Device.wrapStop_canon (d : Device) (i : Fin 128) (reading : Nat) (h : d.canonical = true) : (Device.wrapStop d i reading).canonical = true := by
  simp [Device.wrapStop, h]

@[simp] theorem Device.stopOver_canon (d : Device) (i : Fin 128) (cause : Nat) (h : d.canonical = true) : (Device.stopOver d i cause).canonical = true := by
  simp [Device.stopOver, h]

@[simp] theorem Device.railDischarged_canon (d : Device) (i : Fin 128) (readings : List Nat) (h : d.canonical = true) : (Device.railDischarged d i readings).canonical = true := by
  simp [Device.railDischarged, h]

@[simp] theorem Device.dischargeTimeout_canon (d : Device) (i : Fin 128) (h : d.canonical = true) : (Device.dischargeTimeout d i).canonical = true := by
  simp [Device.dischargeTimeout, h]

@[simp] theorem Device.enlatchRestart_canon (d : Device) (i : Fin 128) (h : d.canonical = true) : (Device.enlatchRestart d i).canonical = true := by
  simp [Device.enlatchRestart, h]

@[simp] theorem Device.monitorFault_canon (d : Device) (i : Fin 128) (det : RailDetect) (readings : List Nat) (h : d.canonical = true) : (Device.monitorFault d i det readings).canonical = true := by
  unfold Device.monitorFault; (repeat' split) <;> simp (maxDischargeDepth := 40) [h]

@[simp] theorem Device.retryExpiry_canon (d : Device) (h : d.canonical = true) : d.retryExpiry.canonical = true := by
  unfold Device.retryExpiry
  split
  · dsimp only
    split
    · refine Device.takeStart_canon _ _ ?_
      show (foldFin 16 _ d).canonical = true
      refine canonical_foldFin _ _ (fun e i he => ?_) h
      split
      · exact Device.crowbarsHeard_canon _ _ (Device.fltClear_canon _ _ _ _ _ _ he)
      · exact he
    · exact Device.startTransition_canon _ _ _ _ _ (by rw [Device.setErr_canon, Device.transitionEnded_canon]; exact h)
  · exact h

@[simp] theorem Device.railOnNow_canon (d : Device) (i : Fin 128) (h : d.canonical = true) : (Device.railOnNow d i).canonical = true := by
  simp [Device.railOnNow, h]

@[simp] theorem Device.railSoftOffNow_canon (d : Device) (i : Fin 128) (h : d.canonical = true) : (Device.railSoftOffNow d i).canonical = true := by
  simp [Device.railSoftOffNow, h]

@[simp] theorem Device.railImmOffNow_canon (d : Device) (i : Fin 128) (h : d.canonical = true) : (Device.railImmOffNow d i).canonical = true := by
  unfold Device.railImmOffNow; repeat' first | (simp_all (maxDischargeDepth := 40); done) | split | dsimp only | refine canonical_foldFin _ _ (fun e i he => ?_) ?_ | refine canonical_foldl _ _ _ (fun e i he => ?_) ?_

@[simp ↓] theorem Device.railClearNow_canon (d : Device) (i : Fin 128) : (Device.railClearNow d i).canonical = d.canonical :=
  canonical_of (Device.railClearNow_touch d i (by decide))

@[simp] theorem Device.railNow_canon (d : Device) (op : RailOp) (i : Fin 128) (h : d.canonical = true) : (Device.railNow d op i).canonical = true := by
  unfold Device.railNow; (repeat' split) <;> simp [h]

@[simp] theorem Device.railRequest_canon (d : Device) (op : RailOp) (i : Fin 128) (h : d.canonical = true) : (Device.railRequest d op i).canonical = true := by
  simp [Device.railRequest, h]

@[simp] theorem Device.heldStart_canon (d : Device) (h : d.canonical = true) : (Device.heldStart d).canonical = true := by
  unfold Device.heldStart; (repeat' split) <;> simp [h]

@[simp] theorem Device.seqForce_canon (d : Device) (w : Word) (h : d.canonical = true) : (Device.seqForce d w).canonical = true := by
  simp [Device.seqForce, h]

@[simp] theorem Device.stretchElapsed_canon (d : Device) (k : Fin 32) (h : d.canonical = true) : (Device.stretchElapsed d k).canonical = true := by
  simp [Device.stretchElapsed, h]

@[simp ↓] theorem Device.seqSoftReset_canon (d : Device) : (Device.seqSoftReset d).canonical = d.canonical :=
  canonical_of (Device.seqSoftReset_touch d (by decide))

@[simp] theorem Device.loopFault_canon (d : Device) (n : Fin 16) (b cause : Nat) (further : List Nat) (h : d.canonical = true) : (Device.loopFault d n b cause further).canonical = true := by
  simp [Device.loopFault, h]

@[simp ↓] theorem Device.loopCount_canon (d : Device) (n : Fin 16) (det : LoopDetect) : (Device.loopCount d n det).canonical = d.canonical :=
  canonical_of (Device.loopCount_touch d n det (by decide))

@[simp] theorem Device.loopDetect_canon (d : Device) (n : Fin 16) (dets : List LoopDetect) (h : d.canonical = true) : (Device.loopDetect d n dets).canonical = true := by
  unfold Device.loopDetect; repeat' first | (simp (maxDischargeDepth := 40) [h]; done) | split | dsimp only | refine canonical_foldFin _ _ (fun e i he => ?_) ?_ | refine canonical_foldl _ _ _ (fun e i he => ?_) ?_

@[simp] theorem Device.ovCrowbar_canon (d : Device) (n : Fin 16) (h : d.canonical = true) : (Device.ovCrowbar d n).canonical = true := by
  unfold Device.ovCrowbar; repeat' first | (simp_all (maxDischargeDepth := 40); done) | split | dsimp only | refine canonical_foldFin _ _ (fun e i he => ?_) ?_ | refine canonical_foldl _ _ _ (fun e i he => ?_) ?_

@[simp] theorem Device.ovIdle_canon (d : Device) (n : Fin 16) (h : d.canonical = true) : (Device.ovIdle d n).canonical = true := by
  simp [Device.ovIdle, h]

@[simp] theorem Device.ovAct_canon (d : Device) (n : Fin 16) (rose : Bool) (h : d.canonical = true) : (Device.ovAct d n rose).canonical = true := by
  unfold Device.ovAct; (repeat' split) <;> simp [h]

@[simp] theorem Device.ovWatch_canon (d : Device) (n : Fin 16) (volts : List Nat) (h : d.canonical = true) : (Device.ovWatch d n volts).canonical = true := by
  unfold Device.ovWatch; repeat' first | (simp_all (maxDischargeDepth := 40); done) | split | dsimp only | refine canonical_foldFin _ _ (fun e i he => ?_) ?_ | refine canonical_foldl _ _ _ (fun e i he => ?_) ?_

@[simp] theorem Device.crowbarRelease_canon (d : Device) (n : Fin 16) (x : List (Fin 16 × ReleaseSense)) (h : d.canonical = true) : (Device.crowbarRelease d n x).canonical = true := by
  unfold Device.crowbarRelease; repeat' first | (simp_all (maxDischargeDepth := 40); done) | split | dsimp only | refine canonical_foldFin _ _ (fun e i he => ?_) ?_ | refine canonical_foldl _ _ _ (fun e i he => ?_) ?_

@[simp ↓] theorem Device.loopWarn_canon (d : Device) (n : Fin 16) (x : LoopSamples) : (Device.loopWarn d n x).canonical = d.canonical :=
  canonical_of (Device.loopWarn_touch d n x (by decide))

@[simp ↓] theorem Device.forcePhases_canon (d : Device) (n : Fin 16) : (Device.forcePhases d n).canonical = d.canonical :=
  canonical_of (Device.forcePhases_touch d n (by decide))

@[simp] theorem Device.applyForces_canon (d before : Device) (h : d.canonical = true) : (Device.applyForces d before).canonical = true := by
  unfold Device.applyForces; repeat' first | (simp_all (maxDischargeDepth := 40); done) | split | dsimp only | refine canonical_foldFin _ _ (fun e i he => ?_) ?_ | refine canonical_foldl _ _ _ (fun e i he => ?_) ?_

@[simp] theorem Device.fltRecord_canon (d : Device) (c : Fin 64) (p : Nat) (w : Word) (opens : Bool) (h : d.canonical = true) : (Device.fltRecord d c p w opens).canonical = true := by
  simp [Device.fltRecord, h]

@[simp] theorem Device.faultLatch_canon (d : Device) (h : d.canonical = true) : d.faultLatch.canonical = true := by
  unfold Device.faultLatch
  dsimp only
  rw [Device.syncState_canon]
  generalize hl : List.foldl _ _ _ = d1
  have h1 : d1.canonical = true := by
    subst hl
    exact canonical_foldl _ _ _ (fun e i he => Device.fltRecord_canon _ _ _ _ _ he) h
  have h2 : ({ d1 with flt := { d1.flt with line := d.linesNow &&& ~~~(BitVec.ofNat 64 (2 ^ 63)), inject := false, seen := Vector.ofFn fun p => d1.unmasked p } } : Device).canonical = true := by
    rw [canonical_with_flt]; exact h1
  have h3 := Device.applyForces_canon _ d h2
  generalize Device.applyForces _ d = e at h3
  split
  · exact h3
  · exact Device.sceneRequest_canon _ _ _ _ _ h3

@[simp] theorem Device.faultLineFall_canon (d : Device) (c : Fin 64) (h : d.canonical = true) : (Device.faultLineFall d c).canonical = true := by
  simp [Device.faultLineFall, h]

@[simp] theorem Device.faultClear_canon (d : Device) (w : BitVec 64) (who : Nat) (h : d.canonical = true) : (Device.faultClear d w who).canonical = true := by
  simp [Device.faultClear, h]

@[simp ↓] theorem Device.fltSoftReset_canon (d : Device) : (Device.fltSoftReset d).canonical = d.canonical :=
  canonical_of (Device.fltSoftReset_touch d (by decide))

@[simp ↓] theorem Device.efiInput_canon (d : Device) (m : Fin 8) (high : Bool) (held : Nat) : (Device.efiInput d m high held).canonical = d.canonical :=
  canonical_of (Device.efiInput_touch d m high held (by decide))

@[simp ↓] theorem Device.updHup_canon (d : Device) (f : Hup → Hup) : (Device.updHup d f).canonical = d.canonical :=
  canonical_of (Device.updHup_touch d f (by decide))

@[simp ↓] theorem Device.updChg_canon (d : Device) (f : Chg → Chg) : (Device.updChg d f).canonical = d.canonical :=
  canonical_of (Device.updChg_touch d f (by decide))

@[simp ↓] theorem Device.setMeas_canon (d : Device) (m : HupMeas) : (Device.setMeas d m).canonical = d.canonical :=
  canonical_of (Device.setMeas_touch d m (by decide))

@[simp ↓] theorem Device.chgTo_canon (d : Device) (st : ChgState) (cause : Nat) (who : Nat) : (Device.chgTo d st cause who).canonical = d.canonical :=
  canonical_of (Device.chgTo_touch d st cause who (by decide))

@[simp ↓] theorem Device.hotCheck_canon (d : Device) : (Device.hotCheck d).canonical = d.canonical :=
  canonical_of (Device.hotCheck_touch d (by decide))

@[simp] theorem Device.rsvSync_canon (d : Device) (h : d.canonical = true) : (Device.rsvSync d).canonical = true := by
  simp [Device.rsvSync, h]

@[simp] theorem Device.hupSet_canon (d : Device) (st : PathState) (cause : Nat) (who : Nat) (h : d.canonical = true) : (Device.hupSet d st cause who).canonical = true := by
  simp [Device.hupSet, h]

@[simp ↓] theorem Device.chgStop_canon (d : Device) (st : ChgState) (cause : Nat) : (Device.chgStop d st cause).canonical = d.canonical :=
  canonical_of (Device.chgStop_touch d st cause (by decide))

@[simp ↓] theorem Device.chgDrain_canon (d : Device) (cause : Nat) : (Device.chgDrain d cause).canonical = d.canonical :=
  canonical_of (Device.chgDrain_touch d cause (by decide))

@[simp] theorem Device.handover_canon (d : Device) (iL0 : Int) (h : d.canonical = true) : (Device.handover d iL0).canonical = true := by
  simp [Device.handover, h]

@[simp] theorem Device.hupTo_canon (d : Device) (st : PathState) (cause : Nat) (who : Nat) (h : d.canonical = true) : (Device.hupTo d st cause who).canonical = true := by
  simp [Device.hupTo, h]

@[simp] theorem Device.pathFollow_canon (d : Device) (h : d.canonical = true) : (Device.pathFollow d).canonical = true := by
  simp [Device.pathFollow, h]

@[simp] theorem Device.enableDeferred_canon (d : Device) (h : d.canonical = true) : (Device.enableDeferred d).canonical = true := by
  simp [Device.enableDeferred, h]

@[simp] theorem Device.hupEnable_canon (d : Device) (on : Bool) (who : Nat) (h : d.canonical = true) : (Device.hupEnable d on who).canonical = true := by
  unfold Device.hupEnable; (repeat' split) <;> simp [h]

@[simp ↓] theorem Device.adoptClass_canon (d : Device) (mv : Vector Nat 4) : (Device.adoptClass d mv).canonical = d.canonical :=
  canonical_of (Device.adoptClass_touch d mv (by decide))

@[simp] theorem Device.shareEnter_canon (d : Device) (h : d.canonical = true) : (Device.shareEnter d).canonical = true := by
  simp [Device.shareEnter, h]

@[simp] theorem Device.throttleStep_canon (d : Device) (m : HupMeas) (h : d.canonical = true) : (Device.throttleStep d m).canonical = true := by
  simp [Device.throttleStep, h]

@[simp ↓] theorem Device.srcOverload_canon (d : Device) (m : HupMeas) : (Device.srcOverload d m).canonical = d.canonical :=
  canonical_of (Device.srcOverload_touch d m (by decide))

@[simp] theorem Device.shareEnd_canon (d : Device) (m : HupMeas) (h : d.canonical = true) : (Device.shareEnd d m).canonical = true := by
  simp [Device.shareEnd, h]

@[simp] theorem Device.detectEnd_canon (d : Device) (low : Bool) (m : HupMeas) (h : d.canonical = true) : (Device.detectEnd d low m).canonical = true := by
  simp [Device.detectEnd, h]

@[simp] theorem Device.packQual_canon (d : Device) (m : HupMeas) (h : d.canonical = true) : (Device.packQual d m).canonical = true := by
  simp [Device.packQual, h]

@[simp] theorem Device.pathInhibit_canon (d : Device) (m : HupMeas) (h : d.canonical = true) : (Device.pathInhibit d m).canonical = true := by
  unfold Device.pathInhibit; repeat' first | (simp (maxDischargeDepth := 40) [h]; done) | split | dsimp only | refine canonical_foldFin _ _ (fun e i he => ?_) ?_ | refine canonical_foldl _ _ _ (fun e i he => ?_) ?_

@[simp] theorem Device.converterFault_canon (d : Device) (m : HupMeas) (h : d.canonical = true) : (Device.converterFault d m).canonical = true := by
  simp [Device.converterFault, h]

@[simp] theorem Device.sagDetect_canon (d : Device) (m : HupMeas) (iL0 : Int) (low : Nat) (h : d.canonical = true) : (Device.sagDetect d m iL0 low).canonical = true := by
  simp [Device.sagDetect, h]

@[simp ↓] theorem Device.sagNoHandover_canon (d : Device) (m : HupMeas) (low : Nat) : (Device.sagNoHandover d m low).canonical = d.canonical :=
  canonical_of (Device.sagNoHandover_touch d m low (by decide))

@[simp ↓] theorem Device.pulseEnd_canon (d : Device) : (Device.pulseEnd d).canonical = d.canonical :=
  canonical_of (Device.pulseEnd_touch d (by decide))

@[simp] theorem Device.handoverDone_canon (d : Device) (m : HupMeas) (h : d.canonical = true) : (Device.handoverDone d m).canonical = true := by
  simp [Device.handoverDone, h]

@[simp] theorem Device.handoverTimeout_canon (d : Device) (h : d.canonical = true) : (Device.handoverTimeout d).canonical = true := by
  simp [Device.handoverTimeout, h]

@[simp] theorem Device.sourceQualified_canon (d : Device) (m : HupMeas) (h : d.canonical = true) : (Device.sourceQualified d m).canonical = true := by
  simp [Device.sourceQualified, h]

@[simp] theorem Device.returnDone_canon (d : Device) (m : HupMeas) (h : d.canonical = true) : (Device.returnDone d m).canonical = true := by
  simp [Device.returnDone, h]

@[simp] theorem Device.packEmpty_canon (d : Device) (m : HupMeas) (h : d.canonical = true) : (Device.packEmpty d m).canonical = true := by
  simp [Device.packEmpty, h]

@[simp] theorem Device.packRemoval_canon (d : Device) (how : Removal) (h : d.canonical = true) : (Device.packRemoval d how).canonical = true := by
  simp [Device.packRemoval, h]

@[simp] theorem Device.chgCommandWrite_canon (d : Device) (w : Word) (h : d.canonical = true) : (Device.chgCommandWrite d w).canonical = true := by
  simp [Device.chgCommandWrite, h]

@[simp ↓] theorem Device.chgFallback_canon (d : Device) : (Device.chgFallback d).canonical = d.canonical :=
  canonical_of (Device.chgFallback_touch d (by decide))

@[simp] theorem Device.chgQual_canon (d : Device) (m : HupMeas) (h : d.canonical = true) : (Device.chgQual d m).canonical = true := by
  simp [Device.chgQual, h]

@[simp ↓] theorem Device.prechgDone_canon (d : Device) (m : HupMeas) : (Device.prechgDone d m).canonical = d.canonical :=
  canonical_of (Device.prechgDone_touch d m (by decide))

@[simp] theorem Device.chgFault_canon (d : Device) (cause : Nat) (h : d.canonical = true) : (Device.chgFault d cause).canonical = true := by
  simp [Device.chgFault, h]

@[simp ↓] theorem Device.cvReached_canon (d : Device) (m : HupMeas) : (Device.cvReached d m).canonical = d.canonical :=
  canonical_of (Device.cvReached_touch d m (by decide))

@[simp] theorem Device.chgTerminated_canon (d : Device) (m : HupMeas) (h : d.canonical = true) : (Device.chgTerminated d m).canonical = true := by
  simp [Device.chgTerminated, h]

@[simp ↓] theorem Device.recharge_canon (d : Device) (m : HupMeas) : (Device.recharge d m).canonical = d.canonical :=
  canonical_of (Device.recharge_touch d m (by decide))

@[simp] theorem Device.chgOv_canon (d : Device) (m : HupMeas) (h : d.canonical = true) : (Device.chgOv d m).canonical = true := by
  simp [Device.chgOv, h]

@[simp ↓] theorem Device.chgSuspend_canon (d : Device) (m : HupMeas) : (Device.chgSuspend d m).canonical = d.canonical :=
  canonical_of (Device.chgSuspend_touch d m (by decide))

@[simp] theorem Device.chgDrained_canon (d : Device) (m : HupMeas) (late : Bool) (h : d.canonical = true) : (Device.chgDrained d m late).canonical = true := by
  simp [Device.chgDrained, h]

@[simp ↓] theorem Device.chgResume_canon (d : Device) (m : HupMeas) : (Device.chgResume d m).canonical = d.canonical :=
  canonical_of (Device.chgResume_touch d m (by decide))

@[simp ↓] theorem Device.bandChange_canon (d : Device) : (Device.bandChange d).canonical = d.canonical :=
  canonical_of (Device.bandChange_touch d (by decide))

@[simp ↓] theorem Device.chgEnable_canon (d : Device) (on : Bool) (who : Nat) : (Device.chgEnable d on who).canonical = d.canonical :=
  canonical_of (Device.chgEnable_touch d on who (by decide))

@[simp ↓] theorem Device.orHold_canon (d : Device) : (Device.orHold d).canonical = d.canonical :=
  canonical_of (Device.orHold_touch d (by decide))

@[simp ↓] theorem Device.updGau_canon (d : Device) (f : Gauge → Gauge) : (Device.updGau d f).canonical = d.canonical :=
  canonical_of (Device.updGau_touch d f (by decide))

@[simp ↓] theorem Device.gauBlank_canon (d : Device) : (Device.gauBlank d).canonical = d.canonical :=
  canonical_of (Device.gauBlank_touch d (by decide))

@[simp ↓] theorem Device.gauTo_canon (d : Device) (st : GauState) (cause : Nat) (who : Nat) : (Device.gauTo d st cause who).canonical = d.canonical :=
  canonical_of (Device.gauTo_touch d st cause who (by decide))

@[simp ↓] theorem Device.gauAnchor_canon (d : Device) : (Device.gauAnchor d).canonical = d.canonical :=
  canonical_of (Device.gauAnchor_touch d (by decide))

@[simp ↓] theorem Device.aoSecond_canon (d : Device) (s : GaugeSecond) : (Device.aoSecond d s).canonical = d.canonical :=
  canonical_of (Device.aoSecond_touch d s (by decide))

@[simp ↓] theorem Device.aoWake_canon (d : Device) (current : Bool) : (Device.aoWake d current).canonical = d.canonical :=
  canonical_of (Device.aoWake_touch d current (by decide))

@[simp ↓] theorem Device.gauAccess_canon (d : Device) : (Device.gauAccess d).canonical = d.canonical :=
  canonical_of (Device.gauAccess_touch d (by decide))

@[simp ↓] theorem Device.hibernate_canon (d : Device) : (Device.hibernate d).canonical = d.canonical :=
  canonical_of (Device.hibernate_touch d (by decide))

@[simp ↓] theorem Device.ocvSample_canon (d : Device) (v : Nat) : (Device.ocvSample d v).canonical = d.canonical :=
  canonical_of (Device.ocvSample_touch d v (by decide))

@[simp ↓] theorem Device.gauCommitStart_canon (d : Device) : (Device.gauCommitStart d).canonical = d.canonical :=
  canonical_of (Device.gauCommitStart_touch d (by decide))

@[simp] theorem Device.learnSpan_canon (d : Device) (start : Nat × Rat) (soc : Rat) (h : d.canonical = true) : (Device.learnSpan d start soc).canonical = true := by
  simp [Device.learnSpan, h]

@[simp] theorem Device.acceptAnchor_canon (d : Device) (soc u m : Rat) (cause : Nat) (h : d.canonical = true) : (Device.acceptAnchor d soc u m cause).canonical = true := by
  unfold Device.acceptAnchor; (repeat' split) <;> simp [h]

@[simp ↓] theorem Device.anchors_canon (d : Device) : (Device.anchors d).1.canonical = d.canonical :=
  canonical_of (Device.anchors_touch d (by decide))

@[simp] theorem Device.writeReserve_canon (d : Device) (soc u : Rat) (h : d.canonical = true) : (Device.writeReserve d soc u).canonical = true := by
  simp [Device.writeReserve, h]

@[simp] theorem Device.coreEstimate_canon (d : Device) (s : GaugeSecond) (h : d.canonical = true) : (Device.coreEstimate d s).canonical = true := by
  unfold Device.coreEstimate; repeat' first | (simp (maxDischargeDepth := 40) [h]; done) | split | dsimp only | refine canonical_foldFin _ _ (fun e i he => ?_) ?_ | refine canonical_foldl _ _ _ (fun e i he => ?_) ?_

@[simp ↓] theorem Device.gauStarve_canon (d : Device) : (Device.gauStarve d).canonical = d.canonical :=
  canonical_of (Device.gauStarve_touch d (by decide))

@[simp ↓] theorem Device.unloadNow_canon (d : Device) (cause who : Nat) : (Device.unloadNow d cause who).canonical = d.canonical :=
  canonical_of (Device.unloadNow_touch d cause who (by decide))

@[simp] theorem Device.commitDone_canon (d : Device) (inhibited : Bool) (h : d.canonical = true) : (Device.commitDone d inhibited).canonical = true := by
  unfold Device.commitDone; (repeat' split) <;> simp (maxDischargeDepth := 40) [h]

@[simp ↓] theorem Device.takeCapacity_canon (d : Device) : (Device.takeCapacity d).canonical = d.canonical :=
  canonical_of (Device.takeCapacity_touch d (by decide))

@[simp ↓] theorem Device.gauRestore_canon (d : Device) (packDet : Bool) (who : Nat) : (Device.gauRestore d packDet who).canonical = d.canonical :=
  canonical_of (Device.gauRestore_touch d packDet who (by decide))

@[simp ↓] theorem Device.gauUnload_canon (d : Device) (who : Nat) : (Device.gauUnload d who).canonical = d.canonical :=
  canonical_of (Device.gauUnload_touch d who (by decide))

@[simp ↓] theorem Device.gauReconcile_canon (d : Device) : (Device.gauReconcile d).canonical = d.canonical :=
  canonical_of (Device.gauReconcile_touch d (by decide))

@[simp ↓] theorem Device.gauNopack_canon (d : Device) : (Device.gauNopack d).canonical = d.canonical :=
  canonical_of (Device.gauNopack_touch d (by decide))

@[simp ↓] theorem Device.gauPackReturn_canon (d : Device) : (Device.gauPackReturn d).canonical = d.canonical :=
  canonical_of (Device.gauPackReturn_touch d (by decide))

@[simp ↓] theorem Device.gauSoftReset_canon (d : Device) : (Device.gauSoftReset d).canonical = d.canonical :=
  canonical_of (Device.gauSoftReset_touch d (by decide))

@[simp ↓] theorem Device.gauAccRead_canon (d : Device) : (Device.gauAccRead d).canonical = d.canonical :=
  canonical_of (Device.gauAccRead_touch d (by decide))

@[simp ↓] theorem Device.updDma_canon (d : Device) (f : Dma → Dma) : (Device.updDma d f).canonical = d.canonical :=
  canonical_of (Device.updDma_touch d f (by decide))

@[simp ↓] theorem Device.updRg_canon (d : Device) (r : Fin 32) (f : Ring → Ring) : (Device.updRg d r f).canonical = d.canonical :=
  canonical_of (Device.updRg_touch d r f (by decide))

@[simp ↓] theorem Device.updXlt_canon (d : Device) (f : Xlt → Xlt) : (Device.updXlt d f).canonical = d.canonical :=
  canonical_of (Device.updXlt_touch d f (by decide))

@[simp ↓] theorem Device.xltFault_canon (d : Device) (evt : Bool) (ring ctx : Nat) (f : XltFault) : (Device.xltFault d evt ring ctx f).canonical = d.canonical :=
  canonical_of (Device.xltFault_touch d evt ring ctx f (by decide))

@[simp ↓] theorem Device.ringTo_canon (d : Device) (r : Fin 32) (st : RingState) (cause : Nat) (who : Nat) : (Device.ringTo d r st cause who).canonical = d.canonical :=
  canonical_of (Device.ringTo_touch d r st cause who (by decide))

@[simp ↓] theorem Device.ringFault_canon (d : Device) (r : Fin 32) (f : XltFault) : (Device.ringFault d r f).canonical = d.canonical :=
  canonical_of (Device.ringFault_touch d r f (by decide))

@[simp] theorem Device.descWrite_canon (d : Device) (r : Fin 32) (w : Nat) (v : Word) (h : d.canonical = true) : (Device.descWrite d r w v).canonical = true := by
  unfold Device.descWrite; repeat' first | (simp (maxDischargeDepth := 40) [h]; done) | split | dsimp only | refine canonical_foldFin _ _ (fun e i he => ?_) ?_ | refine canonical_foldl _ _ _ (fun e i he => ?_) ?_

@[simp] theorem Device.writeStatus_canon (d : Device) (r : Fin 32) (res : Nat) (h : d.canonical = true) : (Device.writeStatus d r res).canonical = true := by
  simp [Device.writeStatus, h]

@[simp ↓] theorem Device.ringFetch_canon (d : Device) (r : Fin 32) (cause : Nat) (who : Nat) : (Device.ringFetch d r cause who).canonical = d.canonical :=
  canonical_of (Device.ringFetch_touch d r cause who (by decide))

@[simp ↓] theorem Device.ringRun_canon (d : Device) (r : Fin 32) (who : Nat) : (Device.ringRun d r who).canonical = d.canonical :=
  canonical_of (Device.ringRun_touch d r who (by decide))

@[simp ↓] theorem Device.ringResume_canon (d : Device) (r : Fin 32) (who : Nat) : (Device.ringResume d r who).canonical = d.canonical :=
  canonical_of (Device.ringResume_touch d r who (by decide))

@[simp ↓] theorem Device.ringLatched_canon (d : Device) (r : Fin 32) : (Device.ringLatched d r).canonical = d.canonical :=
  canonical_of (Device.ringLatched_touch d r (by decide))

@[simp] theorem Device.ringSettle_canon (d : Device) (r : Fin 32) (who : Nat) (h : d.canonical = true) : (Device.ringSettle d r who).canonical = true := by
  simp [Device.ringSettle, h]

@[simp] theorem Device.ringStop_canon (d : Device) (r : Fin 32) (who : Nat) (h : d.canonical = true) : (Device.ringStop d r who).canonical = true := by
  unfold Device.ringStop; repeat' first | (simp (maxDischargeDepth := 40) [h]; done) | split | dsimp only | refine canonical_foldFin _ _ (fun e i he => ?_) ?_ | refine canonical_foldl _ _ _ (fun e i he => ?_) ?_

@[simp] theorem Device.ringEnable_canon (d : Device) (r : Fin 32) (on : Bool) (who : Nat) (h : d.canonical = true) : (Device.ringEnable d r on who).canonical = true := by
  unfold Device.ringEnable; (repeat' split) <;> simp [h]

@[simp ↓] theorem Device.ringDoorbell_canon (d : Device) (r : Fin 32) (who : Nat) : (Device.ringDoorbell d r who).canonical = d.canonical :=
  canonical_of (Device.ringDoorbell_touch d r who (by decide))

@[simp] theorem Device.ringPause_canon (d : Device) (r : Fin 32) (who : Nat) (h : d.canonical = true) : (Device.ringPause d r who).canonical = true := by
  simp [Device.ringPause, h]

@[simp] theorem Device.ringLease_canon (d : Device) (r : Fin 32) (who : Nat) (h : d.canonical = true) : (Device.ringLease d r who).canonical = true := by
  simp [Device.ringLease, h]

@[simp] theorem Device.ringHost_canon (d : Device) (r : Fin 32) (h : d.canonical = true) : (Device.ringHost d r).canonical = true := by
  simp [Device.ringHost, h]

@[simp] theorem Device.ringSoftReset_canon (d : Device) (r : Fin 32) (who : Nat) (h : d.canonical = true) : (Device.ringSoftReset d r who).canonical = true := by
  simp [Device.ringSoftReset, h]

@[simp] theorem Device.descDone_canon (d : Device) (r : Fin 32) (h : d.canonical = true) : (Device.descDone d r).canonical = true := by
  simp [Device.descDone, h]

@[simp] theorem Device.ringNext_canon (d : Device) (r : Fin 32) (cause : Nat) (h : d.canonical = true) : (Device.ringNext d r cause).canonical = true := by
  simp [Device.ringNext, h]

@[simp] theorem Device.descFetch_canon (d : Device) (r : Fin 32) (host : Vector Word 8) (h : d.canonical = true) :
    (d.descFetch r host).canonical = true := by
  unfold Device.descFetch
  dsimp only
  generalize (if d.ringLoc r = true then Except.ok _ else d.translate _ _ false : Except Nat Nat) = xl
  by_cases hr : (!(d.rg r).reading) = true
  · rw [if_pos hr]; exact h
  · rw [if_neg hr]
    refine canonical_if _ (Device.ringSettle_canon _ _ _ (by rw [Device.updRg_canon]; exact h)) ?_
    cases xl
    · simp [h]
    · dsimp only
      generalize hl : (if (d.pmcCountAll _ _).ringLoc r = true then _ else _ : Device) = e
      have he : e.canonical = true := by subst hl; simp [h]
      generalize h1 : Device.updRg e _ _ = e1
      have h2 : e1.canonical = true := by subst h1; simp [he]
      refine canonical_if _ ?_ (canonical_if _ (canonical_if _ ?_ ?_) (canonical_if _ ?_ (canonical_if _ ?_ ?_)))
      · exact Device.ringSettle_canon _ _ _ (canonical_if _ h2 (by rw [Device.updRg_canon]; exact h2))
      · rw [Device.ringFetch_canon, Device.updRg_canon]; exact h2
      · rw [Device.ringTo_canon, Device.updRg_canon]; exact h2
      · rw [Device.ringTo_canon]
        exact Device.writeStatus_canon _ _ _ (by rw [Device.setErr_canon, Device.updRg_canon]; exact h2)
      · refine Device.ringNext_canon _ _ _ (Device.descDone_canon _ _ (canonical_if _ ?_ ?_))
        · rw [Device.updRg_canon, Device.ringTo_canon]; exact h2
        · rw [Device.ringTo_canon]; exact h2
      · exact Device.ringHost_canon _ _ (by rw [Device.ringTo_canon]; exact h2)

@[simp ↓] theorem Device.sampleRequests_canon (d : Device) : (Device.sampleRequests d).canonical = d.canonical :=
  canonical_of (Device.sampleRequests_touch d (by decide))

@[simp ↓] theorem Device.burstStart_canon (d : Device) (r : Fin 32) : (Device.burstStart d r).canonical = d.canonical :=
  canonical_of (Device.burstStart_touch d r (by decide))

@[simp ↓] theorem Device.dmaArbitrate_canon (d : Device) : (Device.dmaArbitrate d).canonical = d.canonical :=
  canonical_of (Device.dmaArbitrate_touch d (by decide))

@[simp ↓] theorem Device.burstOver_canon (d : Device) (r : Fin 32) : (Device.burstOver d r).canonical = d.canonical :=
  canonical_of (Device.burstOver_touch d r (by decide))

@[simp] theorem Device.windowWrite_canon (d : Device) (e : Nat) (one : Bool) (who : Nat) (admin : Bool) (w : Word) (h : d.canonical = true) : (Device.windowWrite d e one who admin w).canonical = true := by
  unfold Device.windowWrite; repeat' first | (simp (maxDischargeDepth := 40) [h]; done) | split | dsimp only | refine canonical_foldFin _ _ (fun e i he => ?_) ?_ | refine canonical_foldl _ _ _ (fun e i he => ?_) ?_

@[simp ↓] theorem Device.xltSync_canon (d : Device) (who : Nat) : (Device.xltSync d who).canonical = d.canonical :=
  canonical_of (Device.xltSync_touch d who (by decide))

@[simp ↓] theorem Device.xltSyncDone_canon (d : Device) : (Device.xltSyncDone d).canonical = d.canonical :=
  canonical_of (Device.xltSyncDone_touch d (by decide))

@[simp ↓] theorem Device.xltSoftReset_canon (d : Device) : (Device.xltSoftReset d).canonical = d.canonical :=
  canonical_of (Device.xltSoftReset_touch d (by decide))

@[simp ↓] theorem Device.updTg_canon (d : Device) (t : Fin 9) (f : EvTarget → EvTarget) : (Device.updTg d t f).canonical = d.canonical :=
  canonical_of (Device.updTg_touch d t f (by decide))

@[simp ↓] theorem Device.ibiSync_canon (d : Device) : (Device.ibiSync d).canonical = d.canonical :=
  canonical_of (Device.ibiSync_touch d (by decide))

@[simp ↓] theorem Device.tgSignal_canon (d : Device) (t : Fin 9) : (Device.tgSignal d t).canonical = d.canonical :=
  canonical_of (Device.tgSignal_touch d t (by decide))

@[simp ↓] theorem Device.evAdvance_canon (d : Device) (t : Fin 9) : (Device.evAdvance d t).canonical = d.canonical :=
  canonical_of (Device.evAdvance_touch d t (by decide))

@[simp] theorem Device.evWrite_canon (d : Device) (s : Fin 256) (t : Fin 9) (bcast : Bool) (h : d.canonical = true) : (Device.evWrite d s t bcast).1.canonical = true := by
  unfold Device.evWrite; (repeat' split) <;> simp (maxDischargeDepth := 40) [h]

@[simp] theorem Device.evUnicast_canon (d : Device) (s : Fin 256) (t : Fin 9) (h : d.canonical = true) :
    (d.evUnicast s t).canonical = true := by
  have hw := Device.evWrite_canon d s t false h
  unfold Device.evUnicast
  split <;> rename_i heq <;> rw [heq] at hw
  · rw [Device.updSrc_canon]; exact hw
  · exact hw

@[simp] theorem Device.evCopy_canon (d : Device) (s : Fin 256) (t : Fin 9) (h : d.canonical = true) : (Device.evCopy d s t).1.canonical = true := by
  simp [Device.evCopy, h]

@[simp] theorem Device.evBroadcast_canon (d : Device) (s : Fin 256) (h : d.canonical = true) : (Device.evBroadcast d s).canonical = true := by
  unfold Device.evBroadcast; repeat' first | (simp_all (maxDischargeDepth := 40); done) | split | dsimp only | refine canonical_foldFin _ _ (fun e i he => ?_) ?_ | refine canonical_foldl _ _ _ (fun e i he => ?_) ?_

@[simp] theorem Device.evSelect_canon (d : Device) (faulting : Bool) (h : d.canonical = true) : (Device.evSelect d faulting).canonical = true := by
  unfold Device.evSelect; (repeat' split) <;> simp [h]

@[simp ↓] theorem Device.evEoi_canon (d : Device) (t : Fin 9) (s : Fin 256) : (Device.evEoi d t s).canonical = d.canonical :=
  canonical_of (Device.evEoi_touch d t s (by decide))

@[simp ↓] theorem Device.evRdWrite_canon (d : Device) (t : Fin 9) (rd : Nat) : (Device.evRdWrite d t rd).canonical = d.canonical :=
  canonical_of (Device.evRdWrite_touch d t rd (by decide))

@[simp ↓] theorem Device.tgRelease_canon (d : Device) (t : Fin 9) : (Device.tgRelease d t).canonical = d.canonical :=
  canonical_of (Device.tgRelease_touch d t (by decide))

@[simp] theorem Device.tgZero_canon (d : Device) (t : Fin 9) (h : d.canonical = true) : (Device.tgZero d t).canonical = true := by
  unfold Device.tgZero; repeat' first | (simp_all (maxDischargeDepth := 40); done) | split | dsimp only | refine canonical_foldFin _ _ (fun e i he => ?_) ?_ | refine canonical_foldl _ _ _ (fun e i he => ?_) ?_

@[simp] theorem Device.tctlWrite_canon (d : Device) (t : Fin 9) (w : Word) (h : d.canonical = true) : (Device.tctlWrite d t w).canonical = true := by
  simp [Device.tctlWrite, h]

@[simp] theorem Device.tgReset_canon (d : Device) (t : Fin 9) (h : d.canonical = true) : (Device.tgReset d t).canonical = true := by
  unfold Device.tgReset; (repeat' split) <;> simp (maxDischargeDepth := 40) [h]

@[simp ↓] theorem Device.wfaultClear_canon (d : Device) (t : Fin 9) (who : Nat) : (Device.wfaultClear d t who).canonical = d.canonical :=
  canonical_of (Device.wfaultClear_touch d t who (by decide))

@[simp ↓] theorem Device.srcWritten_canon (d : Device) (s : Fin 256) (who : Nat) : (Device.srcWritten d s who).canonical = d.canonical :=
  canonical_of (Device.srcWritten_touch d s who (by decide))

@[simp ↓] theorem Device.evcSoftReset_canon (d : Device) (who : Nat) : (Device.evcSoftReset d who).canonical = d.canonical :=
  canonical_of (Device.evcSoftReset_touch d who (by decide))

@[simp ↓] theorem Device.updSch_canon (d : Device) (c : Fin 8) (f : StreamChan → StreamChan) : (Device.updSch d c f).canonical = d.canonical :=
  canonical_of (Device.updSch_touch d c f (by decide))

@[simp ↓] theorem Device.tlmSync_canon (d : Device) (cause who : Nat) : (Device.tlmSync d cause who).canonical = d.canonical :=
  canonical_of (Device.tlmSync_touch d cause who (by decide))

@[simp ↓] theorem Device.schPut_canon (d : Device) (c : Fin 8) (rec8 : Vector Word 8) (numbered : Bool) : (Device.schPut d c rec8 numbered).canonical = d.canonical :=
  canonical_of (Device.schPut_touch d c rec8 numbered (by decide))

@[simp ↓] theorem Device.schWindow_canon (d : Device) (w : WindowData) (c : Fin 8) : (Device.schWindow d w c).canonical = d.canonical :=
  canonical_of (Device.schWindow_touch d w c (by decide))

@[simp ↓] theorem Device.schStop_canon (d : Device) (c : Fin 8) : (Device.schStop d c).canonical = d.canonical :=
  canonical_of (Device.schStop_touch d c (by decide))

@[simp] theorem Device.schWrite_canon (d : Device) (c : Fin 8) (word : Fin 3) (v : Word) (who : Nat) (h : d.canonical = true) : (Device.schWrite d c word v who).canonical = true := by
  simp [Device.schWrite, h]

@[simp ↓] theorem Device.windowRegs_canon (d : Device) (w : WindowData) : (Device.windowRegs d w).canonical = d.canonical :=
  canonical_of (Device.windowRegs_touch d w (by decide))

@[simp ↓] theorem Device.windowPm_canon (d : Device) (w : WindowData) : (Device.windowPm d w).canonical = d.canonical :=
  canonical_of (Device.windowPm_touch d w (by decide))

@[simp] theorem Device.peakRead_canon (d : Device) (r : PeakReg) : (Device.peakRead d r).2.canonical = d.canonical :=
  canonical_of (Device.peakRead_touch d r (by decide))

@[simp] theorem Device.rushRecord_canon (d : Device) (ws : Vector Word 8) (h : d.canonical = true) : (Device.rushRecord d ws).canonical = true := by
  unfold Device.rushRecord; (repeat' split) <;> simp [h]

@[simp] theorem Device.rushWindow_canon (d : Device) (w : WindowData) (h : d.canonical = true) : (Device.rushWindow d w).canonical = true := by
  unfold Device.rushWindow; repeat' first | (simp_all (maxDischargeDepth := 40); done) | split | dsimp only | refine canonical_foldFin _ _ (fun e i he => ?_) ?_ | refine canonical_foldl _ _ _ (fun e i he => ?_) ?_

@[simp] theorem Device.windowEnd_canon (d : Device) (w : WindowData) (h : d.canonical = true) : (Device.windowEnd d w).canonical = true := by
  simp [Device.windowEnd, h]

@[simp] theorem Device.windowEnds_canon (d : Device) (x : WindowSamples) (h : d.canonical = true) : (Device.windowEnds d x).canonical = true := by
  simp [Device.windowEnds, h]

@[simp ↓] theorem Device.rushFreeze_canon (d : Device) : (Device.rushFreeze d).canonical = d.canonical :=
  canonical_of (Device.rushFreeze_touch d (by decide))

@[simp ↓] theorem Device.rushRearm_canon (d : Device) (who : Nat) : (Device.rushRearm d who).canonical = d.canonical :=
  canonical_of (Device.rushRearm_touch d who (by decide))

@[simp] theorem Device.rctlWrite_canon (d : Device) (v : Word) (who : Nat) (h : d.canonical = true) : (Device.rctlWrite d v who).canonical = true := by
  simp [Device.rctlWrite, h]

@[simp ↓] theorem Device.dayClear_canon (d : Device) : (Device.dayClear d).canonical = d.canonical :=
  canonical_of (Device.dayClear_touch d (by decide))

@[simp ↓] theorem Device.dayEnd_canon (d : Device) (meas : Vector DailyMeas 16) (battSecs : Nat) : (Device.dayEnd d meas battSecs).canonical = d.canonical :=
  canonical_of (Device.dayEnd_touch d meas battSecs (by decide))

@[simp] theorem Device.dayPut_canon (d : Device) (ws : Vector Word 8) (h : d.canonical = true) : (Device.dayPut d ws).canonical = true := by
  simp [Device.dayPut, h]

@[simp] theorem Device.dayWrite_canon (d : Device) (h : d.canonical = true) : d.dayWrite.canonical = true := by
  unfold Device.dayWrite
  split
  · exact h
  · split
    · dsimp only
      rw [Device.updTlm_canon]
      refine Device.dayPut_canon _ _ ?_
      refine canonical_foldFin _ _ (fun e i he => ?_) h
      split
      · refine Device.dayPut_canon _ _ ?_
        split
        · rw [Device.draw_canon]; exact he
        · exact he
      · exact he
    · exact h

@[simp ↓] theorem Device.tlmWritten_canon (d : Device) (p o : Nat) (old : Word) (who : Nat) : (Device.tlmWritten d p o old who).canonical = d.canonical :=
  canonical_of (Device.tlmWritten_touch d p o old who (by decide))

@[simp] theorem Device.tlmSoftReset_canon (d : Device) (who : Nat) (h : d.canonical = true) : (Device.tlmSoftReset d who).canonical = true := by
  unfold Device.tlmSoftReset; repeat' first | (simp_all (maxDischargeDepth := 40); done) | split | dsimp only | refine canonical_foldFin _ _ (fun e i he => ?_) ?_ | refine canonical_foldl _ _ _ (fun e i he => ?_) ?_

@[simp] theorem Device.rushSoftReset_canon (d : Device) (who : Nat) (h : d.canonical = true) : (Device.rushSoftReset d who).canonical = true := by
  unfold Device.rushSoftReset; repeat' first | (simp_all (maxDischargeDepth := 40); done) | split | dsimp only | refine canonical_foldFin _ _ (fun e i he => ?_) ?_ | refine canonical_foldl _ _ _ (fun e i he => ?_) ?_

@[simp ↓] theorem Device.pmcSync_canon (d : Device) (cause who : Nat) : (Device.pmcSync d cause who).canonical = d.canonical :=
  canonical_of (Device.pmcSync_touch d cause who (by decide))

@[simp ↓] theorem Device.pmcBuffer_canon (d : Device) (who : Nat) (b : PmcBuf) : (Device.pmcBuffer d who b).canonical = d.canonical :=
  canonical_of (Device.pmcBuffer_touch d who b (by decide))

@[simp ↓] theorem Device.pmcRead_canon (d : Device) (c : Fin 64) (hi : Bool) (who : Nat) : (Device.pmcRead d c hi who).2.canonical = d.canonical :=
  canonical_of (Device.pmcRead_touch d c hi who (by decide))

@[simp ↓] theorem Device.pmcWrite_canon (d : Device) (c : Fin 64) (hi : Bool) (m v : Word) : (Device.pmcWrite d c hi m v).canonical = d.canonical :=
  canonical_of (Device.pmcWrite_touch d c hi m v (by decide))

@[simp ↓] theorem Device.pmcWrap_canon (d : Device) (c : Fin 64) : (Device.pmcWrap d c).canonical = d.canonical :=
  canonical_of (Device.pmcWrap_touch d c (by decide))

@[simp] theorem Device.pmcStrobe_canon (d : Device) (h : d.canonical = true) : (Device.pmcStrobe d).canonical = true := by
  simp [Device.pmcStrobe, h]

@[simp] theorem Device.pmcSoftReset_canon (d : Device) (who : Nat) (h : d.canonical = true) : (Device.pmcSoftReset d who).canonical = true := by
  unfold Device.pmcSoftReset; repeat' first | (simp_all (maxDischargeDepth := 40); done) | split | dsimp only | refine canonical_foldFin _ _ (fun e i he => ?_) ?_ | refine canonical_foldl _ _ _ (fun e i he => ?_) ?_

@[simp ↓] theorem Device.updSyn_canon (d : Device) (f : Syn → Syn) : (Device.updSyn d f).canonical = d.canonical :=
  canonical_of (Device.updSyn_touch d f (by decide))

@[simp ↓] theorem Device.slateCommit_canon (d : Device) (b : Vector Word 328) (w0 : Word) (fine : Nat) : (Device.slateCommit d b w0 fine).canonical = d.canonical :=
  canonical_of (Device.slateCommit_touch d b w0 fine (by decide))

@[simp ↓] theorem Device.slateLocal_canon (d : Device) : (Device.slateLocal d).canonical = d.canonical :=
  canonical_of (Device.slateLocal_touch d (by decide))

@[simp ↓] theorem Device.snapPending_canon (d : Device) : (Device.snapPending d).canonical = d.canonical :=
  canonical_of (Device.snapPending_touch d (by decide))

@[simp ↓] theorem Device.snap_canon (d : Device) : (Device.snap d).canonical = d.canonical :=
  canonical_of (Device.snap_touch d (by decide))

@[simp] theorem Device.clapEdge_canon (d : Device) (fine : Nat) (h : d.canonical = true) : (Device.clapEdge d fine).canonical = true := by
  simp [Device.clapEdge, h]

@[simp ↓] theorem Device.clapCommit_canon (d : Device) (num : BitVec 16) : (Device.clapCommit d num).canonical = d.canonical :=
  canonical_of (Device.clapCommit_touch d num (by decide))

@[simp ↓] theorem Device.clapError_canon (d : Device) : (Device.clapError d).canonical = d.canonical :=
  canonical_of (Device.clapError_touch d (by decide))

@[simp] theorem Device.clapSend_canon (d : Device) (h : d.canonical = true) : (Device.clapSend d).canonical = true := by
  simp [Device.clapSend, h]

@[simp] theorem Device.clapDrive_canon (d : Device) (h : d.canonical = true) : (Device.clapDrive d).canonical = true := by
  simp [Device.clapDrive, h]

@[simp] theorem Device.clapAuto_canon (d : Device) (h : d.canonical = true) : (Device.clapAuto d).canonical = true := by
  simp [Device.clapAuto, h]

@[simp ↓] theorem Device.discTo_canon (d : Device) (st : DiscState) (cause : Nat) (who : Nat) : (Device.discTo d st cause who).canonical = d.canonical :=
  canonical_of (Device.discTo_touch d st cause who (by decide))

@[simp ↓] theorem Device.discFollow_canon (d : Device) (who : Nat) : (Device.discFollow d who).canonical = d.canonical :=
  canonical_of (Device.discFollow_touch d who (by decide))

@[simp ↓] theorem Device.timeStep_canon (d : Device) (e : Int) : (Device.timeStep d e).canonical = d.canonical :=
  canonical_of (Device.timeStep_touch d e (by decide))

@[simp ↓] theorem Device.timeSlew_canon (d : Device) (e : Int) : (Device.timeSlew d e).canonical = d.canonical :=
  canonical_of (Device.timeSlew_touch d e (by decide))

@[simp ↓] theorem Device.timeFrame_canon (d : Device) (t cap : BitVec 64) : (Device.timeFrame d t cap).canonical = d.canonical :=
  canonical_of (Device.timeFrame_touch d t cap (by decide))

@[simp ↓] theorem Device.timeHoldover_canon (d : Device) : (Device.timeHoldover d).canonical = d.canonical :=
  canonical_of (Device.timeHoldover_touch d (by decide))

@[simp ↓] theorem Device.timeSend_canon (d : Device) : (Device.timeSend d).canonical = d.canonical :=
  canonical_of (Device.timeSend_touch d (by decide))

@[simp ↓] theorem Device.tsRead_canon (d : Device) (who : Nat) : (Device.tsRead d who).2.canonical = d.canonical :=
  canonical_of (Device.tsRead_touch d who (by decide))

@[simp ↓] theorem Device.synSoftReset_canon (d : Device) (who : Nat) : (Device.synSoftReset d who).canonical = d.canonical :=
  canonical_of (Device.synSoftReset_touch d who (by decide))

@[simp ↓] theorem Device.drawScan_canon (d : Device) : (Device.drawScan d).2.canonical = d.canonical :=
  canonical_of (Device.drawScan_touch d (by decide))

@[simp ↓] theorem Device.updOtp_canon (d : Device) (f : Otp → Otp) : (Device.updOtp d f).canonical = d.canonical :=
  canonical_of (Device.updOtp_touch d f (by decide))

@[simp ↓] theorem Device.otpState_canon (d : Device) (c : Nat) : (Device.otpState d c).canonical = d.canonical :=
  canonical_of (Device.otpState_touch d c (by decide))

@[simp ↓] theorem Device.scanStart_canon (d : Device) : (Device.scanStart d).canonical = d.canonical :=
  canonical_of (Device.scanStart_touch d (by decide))

@[simp ↓] theorem Device.otpEnd_canon (d : Device) (result : Nat) : (Device.otpEnd d result).canonical = d.canonical :=
  canonical_of (Device.otpEnd_touch d result (by decide))

@[simp ↓] theorem Device.readStart_canon (d : Device) (i : Nat) : (Device.readStart d i).canonical = d.canonical :=
  canonical_of (Device.readStart_touch d i (by decide))

@[simp ↓] theorem Device.otpIdle_canon (d : Device) : (Device.otpIdle d).canonical = d.canonical :=
  canonical_of (Device.otpIdle_touch d (by decide))

@[simp ↓] theorem Device.runStart_canon (d : Device) (f : OtpArray) (r : OtpRun) : (Device.runStart d f r).canonical = d.canonical :=
  canonical_of (Device.runStart_touch d f r (by decide))

@[simp ↓] theorem Device.otpNext_canon (d : Device) (f : OtpArray) : (Device.otpNext d f).canonical = d.canonical :=
  canonical_of (Device.otpNext_touch d f (by decide))

@[simp ↓] theorem Device.otpAfterScan_canon (d : Device) (f : OtpArray) : (Device.otpAfterScan d f).canonical = d.canonical :=
  canonical_of (Device.otpAfterScan_touch d f (by decide))

@[simp ↓] theorem Device.scanRequest_canon (d : Device) (f : OtpArray) : (Device.scanRequest d f).canonical = d.canonical :=
  canonical_of (Device.scanRequest_touch d f (by decide))

@[simp ↓] theorem Device.tempScan_canon (d : Device) (f : OtpArray) : (Device.tempScan d f).canonical = d.canonical :=
  canonical_of (Device.tempScan_touch d f (by decide))

@[simp ↓] theorem Device.scanMargins_canon (d : Device) (f : OtpArray) : (Device.scanMargins d f).canonical = d.canonical :=
  canonical_of (Device.scanMargins_touch d f (by decide))

@[simp ↓] theorem Device.scanDone_canon (d : Device) (f : OtpArray) : (Device.scanDone d f).canonical = d.canonical :=
  canonical_of (Device.scanDone_touch d f (by decide))

@[simp ↓] theorem Device.otpRefuse_canon (d : Device) : (Device.otpRefuse d).canonical = d.canonical :=
  canonical_of (Device.otpRefuse_touch d (by decide))

@[simp ↓] theorem Device.otpRequest_canon (d : Device) (f : OtpArray) (k : OtpKind) (key : Nat) (noChk : Bool) : (Device.otpRequest d f k key noChk).canonical = d.canonical :=
  canonical_of (Device.otpRequest_touch d f k key noChk (by decide))

@[simp ↓] theorem Device.otpAbort_canon (d : Device) (f : OtpArray) : (Device.otpAbort d f).canonical = d.canonical :=
  canonical_of (Device.otpAbort_touch d f (by decide))

@[simp ↓] theorem Device.pulseStart_canon (d : Device) (f : OtpArray) (r : OtpRun) : (Device.pulseStart d f r).canonical = d.canonical :=
  canonical_of (Device.pulseStart_touch d f r (by decide))

@[simp ↓] theorem Device.supplyReady_canon (d : Device) (f : OtpArray) (ok : Bool) : (Device.supplyReady d f ok).canonical = d.canonical :=
  canonical_of (Device.supplyReady_touch d f ok (by decide))

@[simp ↓] theorem Device.afterPulse_canon (d : Device) (f : OtpArray) (r : OtpRun) (ok : Bool) : (Device.afterPulse d f r ok).canonical = d.canonical :=
  canonical_of (Device.afterPulse_touch d f r ok (by decide))

@[simp ↓] theorem Device.pulseDone_canon (d : Device) (f : OtpArray) (m1 ok : Bool) : (Device.pulseDone d f m1 ok).1.canonical = d.canonical :=
  canonical_of (Device.pulseDone_touch d f m1 ok (by decide))

@[simp ↓] theorem Device.pulseCut_canon (d : Device) (f : OtpArray) : (Device.pulseCut d f).1.canonical = d.canonical :=
  canonical_of (Device.pulseCut_touch d f (by decide))

@[simp ↓] theorem Device.otpRead_canon (d : Device) (f : OtpArray) (i : Nat) : (Device.otpRead d f i).canonical = d.canonical :=
  canonical_of (Device.otpRead_touch d f i (by decide))

@[simp ↓] theorem Device.otpReadDone_canon (d : Device) (f : OtpArray) : (Device.otpReadDone d f).canonical = d.canonical :=
  canonical_of (Device.otpReadDone_touch d f (by decide))

@[simp ↓] theorem Device.hkcSync_canon (d : Device) (cause : Nat) (who : Nat) : (Device.hkcSync d cause who).canonical = d.canonical :=
  canonical_of (Device.hkcSync_touch d cause who (by decide))

@[simp ↓] theorem Device.patchInstall_canon (d : Device) (s : List Word) : (Device.patchInstall d s).canonical = d.canonical :=
  canonical_of (Device.patchInstall_touch d s (by decide))

@[simp ↓] theorem Device.updCtx_canon (d : Device) (n : Fin 8) (f : Ctx → Ctx) : (Device.updCtx d n f).canonical = d.canonical :=
  canonical_of (Device.updCtx_touch d n f (by decide))

@[simp ↓] theorem Device.renew_canon (d : Device) (r : Requester) : (Device.renew d r).canonical = d.canonical :=
  canonical_of (Device.renew_touch d r (by decide))

@[simp ↓] theorem Device.updWd_canon (d : Device) (k : Fin 9) (f : Wdt → Wdt) : (Device.updWd d k f).canonical = d.canonical :=
  canonical_of (Device.updWd_touch d k f (by decide))

@[simp ↓] theorem Device.wdtTo_canon (d : Device) (k : Fin 9) (st : WdtState) (cause : Nat) (who : Nat) : (Device.wdtTo d k st cause who).canonical = d.canonical :=
  canonical_of (Device.wdtTo_touch d k st cause who (by decide))

@[simp ↓] theorem Device.wdtDisarm_canon (d : Device) (k : Fin 9) (cause : Nat) (who : Nat) : (Device.wdtDisarm d k cause who).canonical = d.canonical :=
  canonical_of (Device.wdtDisarm_touch d k cause who (by decide))

@[simp] theorem Device.safeLoop_canon (d : Device) (n : Fin 16) (h : d.canonical = true) : (Device.safeLoop d n).canonical = true := by
  unfold Device.safeLoop; (repeat' split) <;> simp (maxDischargeDepth := 40) [h]

@[simp] theorem Device.safeLoopStart_canon (d : Device) (n : Fin 16) (h : d.canonical = true) : (Device.safeLoopStart d n).canonical = true := by
  simp [Device.safeLoopStart, h]

@[simp] theorem Device.safeSettle_canon (d : Device) (h : d.canonical = true) : (Device.safeSettle d).canonical = true := by
  unfold Device.safeSettle; repeat' first | (simp_all (maxDischargeDepth := 40); done) | split | dsimp only | refine canonical_foldFin _ _ (fun e i he => ?_) ?_ | refine canonical_foldl _ _ _ (fun e i he => ?_) ?_

@[simp] theorem Device.applyExpiry_canon (d : Device) (p : Nat) (who : Nat) (h : d.canonical = true) : (Device.applyExpiry d p who).canonical = true := by
  unfold Device.applyExpiry; (repeat' split) <;> simp [h]

@[simp ↓] theorem Device.disown_canon (d : Device) (f : OtpArray) (p : Nat) : (Device.disown d f p).canonical = d.canonical :=
  canonical_of (Device.disown_touch d f p (by decide))

@[simp] theorem Device.ctxOpenOn_canon (d : Device) (p : HostPort) (smbus : Bool) (nonce : BitVec 16) (want : Nat) (h : d.canonical = true) : (Device.ctxOpenOn d p smbus nonce want).1.canonical = true := by
  unfold Device.ctxOpenOn; repeat' first | (simp (maxDischargeDepth := 40) [h]; done) | split | dsimp only | refine canonical_foldFin _ _ (fun e i he => ?_) ?_ | refine canonical_foldl _ _ _ (fun e i he => ?_) ?_

@[simp ↓] theorem Device.unfreeze_canon (d : Device) (n : Fin 8) : (Device.unfreeze d n).canonical = d.canonical :=
  canonical_of (Device.unfreeze_touch d n (by decide))

@[simp] theorem Device.ctxEnd_canon (d : Device) (f : OtpArray) (n : Fin 8) (e : Nat) (h : d.canonical = true) : (Device.ctxEnd d f n e).canonical = true := by
  unfold Device.ctxEnd; repeat' first | (simp_all (maxDischargeDepth := 40); done) | split | dsimp only | refine canonical_foldFin _ _ (fun e i he => ?_) ?_ | refine canonical_foldl _ _ _ (fun e i he => ?_) ?_

@[simp ↓] theorem Device.ctxQuarantine_canon (d : Device) (n : Fin 8) : (Device.ctxQuarantine d n).canonical = d.canonical :=
  canonical_of (Device.ctxQuarantine_touch d n (by decide))

@[simp ↓] theorem Device.ctxFree_canon (d : Device) (n : Fin 8) : (Device.ctxFree d n).canonical = d.canonical :=
  canonical_of (Device.ctxFree_touch d n (by decide))

@[simp] theorem Device.hcxOpen_canon (d : Device) (src : Source) (w : Word) (h : d.canonical = true) : (Device.hcxOpen d src w).canonical = true := by
  unfold Device.hcxOpen; (repeat' split) <;> simp [h]

@[simp] theorem Device.hcxClose_canon (d : Device) (f : OtpArray) (r : Requester) (w : Word) (h : d.canonical = true) : (Device.hcxClose d f r w).canonical = true := by
  unfold Device.hcxClose; (repeat' split) <;> simp [h]

@[simp] theorem Device.hcxEvict_canon (d : Device) (f : OtpArray) (r : Requester) (w : Word) (h : d.canonical = true) : (Device.hcxEvict d f r w).canonical = true := by
  unfold Device.hcxEvict; (repeat' split) <;> simp [h]

@[simp ↓] theorem Device.hcxLease_canon (d : Device) (r : Requester) (n : Fin 8) (m v : Word) : (Device.hcxLease d r n m v).canonical = d.canonical :=
  canonical_of (Device.hcxLease_touch d r n m v (by decide))

@[simp] theorem Device.leaseExpiry_canon (d : Device) (f : OtpArray) (n : Fin 8) (h : d.canonical = true) : (Device.leaseExpiry d f n).canonical = true := by
  simp [Device.leaseExpiry, h]

@[simp ↓] theorem Device.claimRequest_canon (d : Device) (r : Requester) (p : Nat) : (Device.claimRequest d r p).canonical = d.canonical :=
  canonical_of (Device.claimRequest_touch d r p (by decide))

@[simp ↓] theorem Device.claimRelease_canon (d : Device) (r : Requester) (p : Nat) : (Device.claimRelease d r p).canonical = d.canonical :=
  canonical_of (Device.claimRelease_touch d r p (by decide))

@[simp ↓] theorem Device.arbitratePage_canon (reqs : List ClaimReq) (d : Device) (p : Nat) : (Device.arbitratePage reqs d p).canonical = d.canonical :=
  canonical_of (Device.arbitratePage_touch reqs d p (by decide))

@[simp ↓] theorem Device.claimRound_canon (d : Device) (f : OtpArray) : (Device.claimRound d f).canonical = d.canonical :=
  canonical_of (Device.claimRound_touch d f (by decide))

@[simp ↓] theorem Device.policyWrite_canon (d : Device) (r : Requester) (p : Nat) (m v : Word) : (Device.policyWrite d r p m v).canonical = d.canonical :=
  canonical_of (Device.policyWrite_touch d r p m v (by decide))

@[simp ↓] theorem Device.ownerWrite_canon (d : Device) (r : Requester) (p : Nat) (m v : Word) : (Device.ownerWrite d r p m v).canonical = d.canonical :=
  canonical_of (Device.ownerWrite_touch d r p m v (by decide))

@[simp ↓] theorem Device.lockWrite_canon (d : Device) (r : Requester) (p : Nat) (m v : Word) : (Device.lockWrite d r p m v).canonical = d.canonical :=
  canonical_of (Device.lockWrite_touch d r p m v (by decide))

@[simp ↓] theorem Device.coreRestart_canon (d : Device) (f : OtpArray) (byWdt : Bool) (who : Nat) : (Device.coreRestart d f byWdt who).canonical = d.canonical :=
  canonical_of (Device.coreRestart_touch d f byWdt who (by decide))

@[simp ↓] theorem Device.wdtWindow_canon (d : Device) (k : Fin 9) (wcnt : Nat) : (Device.wdtWindow d k wcnt).canonical = d.canonical :=
  canonical_of (Device.wdtWindow_touch d k wcnt (by decide))

@[simp ↓] theorem Device.wdtLinesSync_canon (d : Device) : (Device.wdtLinesSync d).canonical = d.canonical :=
  canonical_of (Device.wdtLinesSync_touch d (by decide))

@[simp] theorem Device.wdtTrip_canon (d : Device) (f : OtpArray) (k : Fin 9) (h : d.canonical = true) : (Device.wdtTrip d f k).canonical = true := by
  unfold Device.wdtTrip; (repeat' split) <;> simp [h]

@[simp] theorem Device.wdtExpire_canon (d : Device) (f : OtpArray) (k : Fin 9) (reason : Nat) (h : d.canonical = true) : (Device.wdtExpire d f k reason).canonical = true := by
  unfold Device.wdtExpire; repeat' first | (simp (maxDischargeDepth := 40) [h]; done) | split | dsimp only | refine canonical_foldFin _ _ (fun e i he => ?_) ?_ | refine canonical_foldl _ _ _ (fun e i he => ?_) ?_

@[simp ↓] theorem Device.wdtArmNow_canon (d : Device) (k : Fin 9) (cause who : Nat) : (Device.wdtArmNow d k cause who).canonical = d.canonical :=
  canonical_of (Device.wdtArmNow_touch d k cause who (by decide))

@[simp ↓] theorem Device.wdtHoldEnd_canon (d : Device) (k : Fin 9) : (Device.wdtHoldEnd d k).canonical = d.canonical :=
  canonical_of (Device.wdtHoldEnd_touch d k (by decide))

@[simp] theorem Device.wdtRun_canon (f : OtpArray) (k : Fin 9) (n : Nat) (d : Device) (dt : Nat) (h : d.canonical = true) :
    (Device.wdtRun f k n d dt).canonical = true := by
  induction n generalizing d dt with
  | zero => exact h
  | succ n ih =>
    unfold Device.wdtRun
    dsimp only
    (repeat' split) <;> simp [h, ih]

@[simp] theorem Device.wdtAdvance_canon (d : Device) (f : OtpArray) (k : Fin 9) (dt : Nat) (h : d.canonical = true) : (Device.wdtAdvance d f k dt).canonical = true := by
  simp [Device.wdtAdvance, h]

@[simp] theorem Device.wdtService_canon (d : Device) (f : OtpArray) (k : Fin 9) (h : d.canonical = true) : (Device.wdtService d f k).canonical = true := by
  unfold Device.wdtService; repeat' first | (simp (maxDischargeDepth := 40) [h]; done) | split | dsimp only | refine canonical_foldFin _ _ (fun e i he => ?_) ?_ | refine canonical_foldl _ _ _ (fun e i he => ?_) ?_

@[simp] theorem Device.wdtCheckin_canon (d : Device) (f : OtpArray) (k : Fin 9) (task : BitVec 16) (h : d.canonical = true) : (Device.wdtCheckin d f k task).canonical = true := by
  simp [Device.wdtCheckin, h]

@[simp] theorem Device.wdtAnswer_canon (d : Device) (f : OtpArray) (k : Fin 9) (token : BitVec 16) (h : d.canonical = true) : (Device.wdtAnswer d f k token).canonical = true := by
  simp [Device.wdtAnswer, h]

@[simp ↓] theorem Device.wdtArm_canon (d : Device) (k : Fin 9) (who : Nat) : (Device.wdtArm d k who).canonical = d.canonical :=
  canonical_of (Device.wdtArm_touch d k who (by decide))

@[simp ↓] theorem Device.wdtDisarmWrite_canon (d : Device) (k : Fin 9) (key : Nat) (who : Nat) : (Device.wdtDisarmWrite d k key who).canonical = d.canonical :=
  canonical_of (Device.wdtDisarmWrite_touch d k key who (by decide))

@[simp ↓] theorem Device.wdtQueue_canon (d : Device) (k : Fin 9) (c : BitVec 16) : (Device.wdtQueue d k c).canonical = d.canonical :=
  canonical_of (Device.wdtQueue_touch d k c (by decide))

@[simp ↓] theorem Device.wdtFill_canon (d : Device) (chal : Vector (List (BitVec 16)) 9) : (Device.wdtFill d chal).canonical = d.canonical :=
  canonical_of (Device.wdtFill_touch d chal (by decide))

@[simp ↓] theorem Device.wdtSoftReset_canon (d : Device) (k : Fin 9) : (Device.wdtSoftReset d k).canonical = d.canonical :=
  canonical_of (Device.wdtSoftReset_touch d k (by decide))

@[simp ↓] theorem Device.gauTouch_canon (d : Device) (p : Nat) : (Device.gauTouch d p).canonical = d.canonical :=
  canonical_of (Device.gauTouch_touch d p (by decide))

@[simp ↓] theorem Device.accessed_canon (d : Device) (src : Source) (p : Nat) (quiet : Bool) : (Device.accessed d src p quiet).canonical = d.canonical :=
  canonical_of (Device.accessed_touch d src p quiet (by decide))

@[simp ↓] theorem Device.readPlain_canon (d : Device) (src : Source) (a : Nat) : (Device.readPlain d src a).2.canonical = d.canonical :=
  canonical_of (Device.readPlain_touch d src a (by decide))

@[simp ↓] theorem Device.readWord_canon (d : Device) (src : Source) (a : Nat) : (Device.readWord d src a).2.canonical = d.canonical :=
  canonical_of (Device.readWord_touch d src a (by decide))

theorem Device.loadHeader_canon (d : Device) (reload : Bool) (p o : Nat) (w : Word) (h : d.canonical = true)
    (e : Device) (he : d.loadHeader reload p o w = some e) : e.canonical = true := by
  unfold Device.loadHeader at he
  dsimp only at he
  (repeat' split at he) <;> (try cases he) <;> simp [h]

theorem Device.loadField_canon (d : Device) (p o : Nat) (w : Word) (h : d.canonical = true)
    (e : Device) (he : d.loadField p o w = some e) : e.canonical = true := by
  unfold Device.loadField at he
  dsimp only at he
  (repeat' split at he) <;> (try cases he) <;> simp [h]

theorem Device.loadWrite_canon (d : Device) (reload : Bool) (a : Nat) (w : Word) (h : d.canonical = true)
    (e : Device) (he : d.loadWrite reload a w = some e) : e.canonical = true := by
  unfold Device.loadWrite at he
  dsimp only at he
  (repeat' split at he) <;> first
    | exact Device.loadHeader_canon _ _ _ _ _ h _ he
    | exact Device.loadField_canon _ _ _ _ h _ he
    | (cases he; done)
    | (cases he; simp [h])

@[simp] theorem LoadRun.put_canon (l : LoadRun) (reload : Bool) (a : Nat) (w : Word) (h : l.dev.canonical = true) :
    (l.put reload a w).dev.canonical = true := by
  unfold LoadRun.put
  split
  · rename_i e he
    exact Device.loadWrite_canon _ _ _ _ h e he
  · exact h

@[simp] theorem loadRecords_canon (reload : Bool) (n : Nat) (ws : List Word) (l : LoadRun) (h : l.dev.canonical = true) :
    (loadRecords reload n ws l).dev.canonical = true := by
  induction n generalizing ws l with
  | zero => exact h
  | succ n ih =>
    cases ws with
    | nil => exact h
    | cons x r =>
      unfold loadRecords
      dsimp only
      split
      · exact ih _ _ (canonical_foldl_load _ _ _ (fun e i he => LoadRun.put_canon _ _ _ _ he) h)
      · split
        · exact ih _ _ (canonical_foldl_load _ _ _ (fun e i he => LoadRun.put_canon _ _ _ _ he) h)
        · exact h

@[simp] theorem Device.factoryRegs_canon (d : Device) (reload : Bool) (h : d.canonical = true) : (Device.factoryRegs d reload).canonical = true := by
  unfold Device.factoryRegs; repeat' first | (simp_all (maxDischargeDepth := 40); done) | split | dsimp only | refine canonical_foldFin _ _ (fun e i he => ?_) ?_ | refine canonical_foldl _ _ _ (fun e i he => ?_) ?_

@[simp] theorem Device.loadSheet_canon (d : Device) (reload : Bool) (v : Store) (g : Nat) (h : d.canonical = true) :
    (d.loadSheet reload v g).dev.canonical = true := by
  unfold Device.loadSheet
  generalize List.range 4096 = l
  generalize genRecords v g = rs
  refine loadRecords_canon _ _ _ _ ?_
  have hf := Device.factoryRegs_canon d reload h
  generalize d.factoryRegs reload = e at hf
  dsimp only
  split
  · refine canonical_foldl _ _ _ (fun e i he => Device.setReg_canon _ _ _ he) ?_
    rw [canonical_with_hdr]; exact hf
  · rw [canonical_with_hdr]; exact hf

@[simp ↓] theorem Device.judgeRegs_canon (d : Device) (reload : Bool) : (Device.judgeRegs d reload).canonical = d.canonical :=
  canonical_of (Device.judgeRegs_touch d reload (by decide))

@[simp ↓] theorem Device.judgeRings_canon (d : Device) : (Device.judgeRings d).canonical = d.canonical :=
  canonical_of (Device.judgeRings_touch d (by decide))

@[simp] theorem Device.judgeMaps_canon (d : Device) (h : d.canonical = true) : (Device.judgeMaps d).canonical = true := by
  unfold Device.judgeMaps; repeat' first | (simp_all (maxDischargeDepth := 40); done) | split | dsimp only | refine canonical_foldFin _ _ (fun e i he => ?_) ?_ | refine canonical_foldl _ _ _ (fun e i he => ?_) ?_

@[simp ↓] theorem Device.loadPhases_canon (d : Device) : (Device.loadPhases d).canonical = d.canonical :=
  canonical_of (Device.loadPhases_touch d (by decide))

@[simp] theorem Device.loadSync_canon (d old : Device) (h : d.canonical = true) : (Device.loadSync d old).canonical = true := by
  unfold Device.loadSync; (repeat' split) <;> simp (maxDischargeDepth := 40) [h]

@[simp] theorem Device.loadEnables_canon (d old : Device) (h : d.canonical = true) : (Device.loadEnables d old).canonical = true := by
  unfold Device.loadEnables; repeat' first | (simp_all (maxDischargeDepth := 40); done) | split | dsimp only | refine canonical_foldFin _ _ (fun e i he => ?_) ?_ | refine canonical_foldl _ _ _ (fun e i he => ?_) ?_

@[simp] theorem Device.reloadNow_canon (d : Device) (f : OtpArray) (h : d.canonical = true) : (Device.reloadNow d f).canonical = true := by
  unfold Device.reloadNow; repeat' first | (simp (maxDischargeDepth := 40) [h]; done) | split | dsimp only | refine canonical_foldFin _ _ (fun e i he => ?_) ?_ | refine canonical_foldl _ _ _ (fun e i he => ?_) ?_

@[simp] theorem Device.reloadWaiting_canon (d : Device) (f : OtpArray) (h : d.canonical = true) : (Device.reloadWaiting d f).canonical = true := by
  simp [Device.reloadWaiting, h]

@[simp] theorem Device.otpReload_canon (d : Device) (f : OtpArray) (w : Word) (h : d.canonical = true) : (Device.otpReload d f w).canonical = true := by
  simp [Device.otpReload, h]

@[simp] theorem Device.putIf_canon (d : Device) (ok : Bool) (e : Word) (p o : Nat) (m v : Word) (h : d.canonical = true) : (Device.putIf d ok e p o m v).canonical = true := by
  simp [Device.putIf, h]

@[simp] theorem Device.phaseReload_canon (d : Device) (k : Fin 64) (h : d.canonical = true) : (Device.phaseReload d k).canonical = true := by
  unfold Device.phaseReload; (repeat' split) <;> simp (maxDischargeDepth := 40) [h]

@[simp] theorem Device.phaseSoftReset_canon (d : Device) (k : Fin 64) (who : Nat) (h : d.canonical = true) : (Device.phaseSoftReset d k who).canonical = true := by
  unfold Device.phaseSoftReset; repeat' first | (simp (maxDischargeDepth := 40) [h]; done) | split | dsimp only | refine canonical_foldFin _ _ (fun e i he => ?_) ?_ | refine canonical_foldl _ _ _ (fun e i he => ?_) ?_

@[simp] theorem Device.phsSoftReset_canon (d : Device) (g : Nat) (who : Nat) (h : d.canonical = true) : (Device.phsSoftReset d g who).canonical = true := by
  unfold Device.phsSoftReset; repeat' first | (simp_all (maxDischargeDepth := 40); done) | split | dsimp only | refine canonical_foldFin _ _ (fun e i he => ?_) ?_ | refine canonical_foldl _ _ _ (fun e i he => ?_) ?_

@[simp] theorem Device.reloadPage_canon (d : Device) (p : Nat) (h : d.canonical = true) : (Device.reloadPage d p).canonical = true := by
  unfold Device.reloadPage; repeat' first | (simp_all (maxDischargeDepth := 40); done) | split | dsimp only | refine canonical_foldFin _ _ (fun e i he => ?_) ?_ | refine canonical_foldl _ _ _ (fun e i he => ?_) ?_

@[simp] theorem Device.hupSoftReset_canon (d : Device) (p : Nat) (h : d.canonical = true) : (Device.hupSoftReset d p).canonical = true := by
  simp [Device.hupSoftReset, h]

@[simp] theorem Device.softReset_canon (d : Device) (p : Nat) (who : Nat) (h : d.canonical = true) : (Device.softReset d p who).canonical = true := by
  unfold Device.softReset; (repeat' split) <;> simp [h]

@[simp] theorem Device.enableWrite_canon (d : Device) (p : Nat) (on : Bool) (who : Nat) (h : d.canonical = true) : (Device.enableWrite d p on who).canonical = true := by
  unfold Device.enableWrite; (repeat' split) <;> simp [h]

@[simp ↓] theorem Device.freezeWrite_canon (d : Device) (src : Source) (p : Nat) (on : Bool) : (Device.freezeWrite d src p on).canonical = d.canonical :=
  canonical_of (Device.freezeWrite_touch d src p on (by decide))

@[simp] theorem Device.ctlWrite_canon (d : Device) (src : Source) (p : Nat) (m v : Word) (h : d.canonical = true) : (Device.ctlWrite d src p m v).canonical = true := by
  simp [Device.ctlWrite, h]

@[simp] theorem Device.headerWrite_canon (d : Device) (src : Source) (p o : Nat) (m v : Word) (h : d.canonical = true) : (Device.headerWrite d src p o m v).canonical = true := by
  unfold Device.headerWrite; repeat' first | (simp (maxDischargeDepth := 40) [h]; done) | split | dsimp only | refine canonical_foldFin _ _ (fun e i he => ?_) ?_ | refine canonical_foldl _ _ _ (fun e i he => ?_) ?_

@[simp] theorem Device.glbWrite_canon (d : Device) (o : Nat) (m v : Word) (h : d.canonical = true) : (Device.glbWrite d o m v).canonical = true := by
  simp [Device.glbWrite, h]

@[simp] theorem Device.hcxWrite_canon (d : Device) (f : OtpArray) (src : Source) (o : Nat) (m v : Word) (h : d.canonical = true) : (Device.hcxWrite d f src o m v).canonical = true := by
  simp [Device.hcxWrite, h]

@[simp ↓] theorem Device.pctlWrite_canon (d : Device) (f : OtpArray) (r : Requester) (w : Word) : (Device.pctlWrite d f r w).canonical = d.canonical :=
  canonical_of (Device.pctlWrite_touch d f r w (by decide))

@[simp] theorem Device.otpWrite_canon (d : Device) (f : OtpArray) (r : Requester) (p o : Nat) (m v : Word) (h : d.canonical = true) : (Device.otpWrite d f r p o m v).canonical = true := by
  simp [Device.otpWrite, h]

@[simp ↓] theorem Device.hkcWrite_canon (d : Device) (f : OtpArray) (who o : Nat) (w : Word) : (Device.hkcWrite d f who o w).canonical = d.canonical :=
  canonical_of (Device.hkcWrite_touch d f who o w (by decide))

@[simp] theorem Device.loopWrite_canon (d : Device) (n : Fin 16) (o : Nat) (m v : Word) (x : WriteInfo) (h : d.canonical = true) : (Device.loopWrite d n o m v x).canonical = true := by
  unfold Device.loopWrite; (repeat' split) <;> simp [h]

@[simp] theorem Device.mapWrite_canon (d : Device) (r : Requester) (k : Fin 64) (m v : Word) (h : d.canonical = true) : (Device.mapWrite d r k m v).canonical = true := by
  unfold Device.mapWrite; repeat' first | (simp (maxDischargeDepth := 40) [h]; done) | split | dsimp only | refine canonical_foldFin _ _ (fun e i he => ?_) ?_ | refine canonical_foldl _ _ _ (fun e i he => ?_) ?_

@[simp ↓] theorem Device.lendArrive_canon (d : Device) (k : Fin 64) : (Device.lendArrive d k).canonical = d.canonical :=
  canonical_of (Device.lendArrive_touch d k (by decide))

@[simp] theorem Device.phsWrite_canon (d : Device) (r : Requester) (k : Fin 64) (p o : Nat) (m v : Word) (x : WriteInfo) (h : d.canonical = true) : (Device.phsWrite d r k p o m v x).canonical = true := by
  unfold Device.phsWrite; (repeat' split) <;> simp [h]

@[simp] theorem Device.seqWrite_canon (d : Device) (r : Requester) (o : Nat) (m v : Word) (h : d.canonical = true) : (Device.seqWrite d r o m v).canonical = true := by
  unfold Device.seqWrite; repeat' first | (simp (maxDischargeDepth := 40) [h]; done) | split | dsimp only | refine canonical_foldFin _ _ (fun e i he => ?_) ?_ | refine canonical_foldl _ _ _ (fun e i he => ?_) ?_

@[simp ↓] theorem Device.supWrite_canon (d : Device) (p o : Nat) (w : Word) : (Device.supWrite d p o w).canonical = d.canonical :=
  canonical_of (Device.supWrite_touch d p o w (by decide))

@[simp] theorem Device.rsoWrite_canon (d : Device) (o : Nat) (m v : Word) (h : d.canonical = true) : (Device.rsoWrite d o m v).canonical = true := by
  simp [Device.rsoWrite, h]

@[simp] theorem Device.hupWrite_canon (d : Device) (p o : Nat) (m v : Word) (h : d.canonical = true) : (Device.hupWrite d p o m v).canonical = true := by
  simp [Device.hupWrite, h]

@[simp] theorem Device.gauWrite_canon (d : Device) (r : Requester) (o : Nat) (m v : Word) (x : WriteInfo) (h : d.canonical = true) : (Device.gauWrite d r o m v x).canonical = true := by
  simp [Device.gauWrite, h]

@[simp] theorem Device.thmWrite_canon (d : Device) (r : Requester) (p o : Nat) (m v : Word) (h : d.canonical = true) : (Device.thmWrite d r p o m v).canonical = true := by
  simp [Device.thmWrite, h]

@[simp] theorem Device.fltWrite_canon (d : Device) (r : Requester) (o : Nat) (m v : Word) (h : d.canonical = true) : (Device.fltWrite d r o m v).canonical = true := by
  simp [Device.fltWrite, h]

@[simp] theorem Device.wdtWrite_canon (d : Device) (f : OtpArray) (r : Requester) (k : Fin 9) (o : Nat) (m v : Word) (x : WriteInfo) (h : d.canonical = true) : (Device.wdtWrite d f r k o m v x).canonical = true := by
  unfold Device.wdtWrite; (repeat' split) <;> simp [h]

@[simp] theorem Device.evcWrite_canon (d : Device) (r : Requester) (o : Nat) (m v : Word) (h : d.canonical = true) : (Device.evcWrite d r o m v).canonical = true := by
  unfold Device.evcWrite; (repeat' split) <;> simp [h]

@[simp] theorem Device.ringWrite_canon (d : Device) (r : Requester) (n : Fin 32) (o : Nat) (m v : Word) (h : d.canonical = true) : (Device.ringWrite d r n o m v).canonical = true := by
  simp [Device.ringWrite, h]

@[simp ↓] theorem Device.xltWrite_canon (d : Device) (r : Requester) (o : Nat) (m v : Word) : (Device.xltWrite d r o m v).canonical = d.canonical :=
  canonical_of (Device.xltWrite_touch d r o m v (by decide))

@[simp] theorem Device.apertureWrite_canon (d : Device) (r : Requester) (p o : Nat) (m v : Word) (h : d.canonical = true) : (Device.apertureWrite d r p o m v).canonical = true := by
  simp [Device.apertureWrite, h]

@[simp] theorem Device.tlmWrite_canon (d : Device) (r : Requester) (p o : Nat) (m v : Word) (h : d.canonical = true) : (Device.tlmWrite d r p o m v).canonical = true := by
  simp [Device.tlmWrite, h]

@[simp] theorem Device.pmcPageWrite_canon (d : Device) (r : Requester) (o : Nat) (m v : Word) (h : d.canonical = true) : (Device.pmcPageWrite d r o m v).canonical = true := by
  unfold Device.pmcPageWrite; (repeat' split) <;> simp [h]

@[simp] theorem Device.synWrite_canon (d : Device) (r : Requester) (o : Nat) (m v : Word) (h : d.canonical = true) : (Device.synWrite d r o m v).canonical = true := by
  simp [Device.synWrite, h]

@[simp] theorem Device.cueSwWrite_canon (d : Device) (r : Requester) (w : Word) (t : Option CueTiming) (h : d.canonical = true) : (Device.cueSwWrite d r w t).canonical = true := by
  unfold Device.cueSwWrite; repeat' first | (simp (maxDischargeDepth := 40) [h]; done) | split | dsimp only | refine canonical_foldFin _ _ (fun e i he => ?_) ?_ | refine canonical_foldl _ _ _ (fun e i he => ?_) ?_

@[simp] theorem Device.cueWrite_canon (d : Device) (r : Requester) (o : Nat) (m v : Word) (x : WriteInfo) (h : d.canonical = true) : (Device.cueWrite d r o m v x).canonical = true := by
  simp [Device.cueWrite, h]

@[simp] theorem Device.shotWrite_canon (d : Device) (p o : Nat) (m v : Word) (h : d.canonical = true) : (Device.shotWrite d p o m v).canonical = true := by
  unfold Device.shotWrite; repeat' first | (simp (maxDischargeDepth := 40) [h]; done) | split | dsimp only | refine canonical_foldFin _ _ (fun e i he => ?_) ?_ | refine canonical_foldl _ _ _ (fun e i he => ?_) ?_

@[simp] theorem Device.sourceWrite_canon (d : Device) (r : Requester) (o : Nat) (m v : Word) (h : d.canonical = true) : (Device.sourceWrite d r o m v).canonical = true := by
  simp [Device.sourceWrite, h]

@[simp] theorem Device.sramWrite_canon (d : Device) (o : Nat) (m v : Word) (h : d.canonical = true) : (Device.sramWrite d o m v).canonical = true := by
  simp [Device.sramWrite, h]

@[simp] theorem Device.blockWrite_canon (d : Device) (f : OtpArray) (src : Source) (p o : Nat) (m v : Word) (x : WriteInfo) (h : d.canonical = true) : (Device.blockWrite d f src p o m v x).canonical = true := by
  unfold Device.blockWrite; (repeat' split) <;> simp [h]

@[simp] theorem Device.writePlain_canon (d : Device) (f : OtpArray) (src : Source) (a : Nat) (m v : Word) (x : WriteInfo) (h : d.canonical = true) : (Device.writePlain d f src a m v x).canonical = true := by
  unfold Device.writePlain; (repeat' split) <;> simp [h]

@[simp] theorem Device.writeWord_canon (d : Device) (f : OtpArray) (src : Source) (a : Nat) (m v : Word) (x : WriteInfo) (h : d.canonical = true) : (Device.writeWord d f src a m v x).canonical = true := by
  simp [Device.writeWord, h]

@[simp ↓] theorem Device.tapLeaves_canon (d : Device) (src : Source) : (Device.tapLeaves d src).canonical = d.canonical :=
  canonical_of (Device.tapLeaves_touch d src (by decide))

@[simp] theorem Device.busWrite_canon (d : Device) (f : OtpArray) (src : Source) (addr : Nat) (be : BitVec 4) (v : Word) (x : WriteInfo) (h : d.canonical = true) : (Device.busWrite d f src addr be v x).canonical = true := by
  simp [Device.busWrite, h]

@[simp ↓] theorem Device.busRead_canon (d : Device) (src : Source) (addr : Nat) : (Device.busRead d src addr).canonical = d.canonical :=
  canonical_of (Device.busRead_touch d src addr (by decide))

@[simp] theorem FunnelRun.read_canon (u : FunnelRun) (src : Source) (x : Nat × Nat) : (u.read src x).dev.canonical = u.dev.canonical :=
  canonical_of (FunnelRun.read_touch u src x (by decide))

@[simp] theorem FunnelRun.write_canon (u : FunnelRun) (f : OtpArray) (src : Source) (bs : List Byte)
    (x : Nat × Nat) (h : u.dev.canonical = true) : (u.write f src bs x).dev.canonical = true := by
  unfold FunnelRun.write
  dsimp only
  repeat' first | (simp [h]; done) | split

@[simp ↓] theorem Device.burstRead_canon (d : Device) (r : Fin 32) (n : Nat) (data : List Byte) : (Device.burstRead d r n data).2.canonical = d.canonical :=
  canonical_of (Device.burstRead_touch d r n data (by decide))

@[simp] theorem Device.burstWrite_canon (d : Device) (f : OtpArray) (r : Fin 32) (host : Option Nat) (bs : List Byte) (h : d.canonical = true) : (Device.burstWrite d f r host bs).dev.canonical = true := by
  unfold Device.burstWrite; repeat' first | (simp_all (maxDischargeDepth := 40); done) | split | dsimp only | refine canonical_foldFin _ _ (fun e i he => ?_) ?_ | refine canonical_foldl _ _ _ (fun e i he => ?_) ?_

@[simp ↓] theorem Device.ringHostErr_canon (d : Device) (r : Fin 32) : (Device.ringHostErr d r).canonical = d.canonical :=
  canonical_of (Device.ringHostErr_touch d r (by decide))

@[simp] theorem Device.burstEnd_canon (d : Device) (f : OtpArray) (r : Fin 32) (b : Burst) (n : Nat) (data : List Byte) (hostErr : Bool) (h : d.canonical = true) : (Device.burstEnd d f r b n data hostErr).canonical = true := by
  unfold Device.burstEnd; (repeat' split) <;> simp [h]

@[simp] theorem Device.burstComplete_canon (d : Device) (f : OtpArray) (r : Fin 32) (moved : Nat) (data : List Byte) (h : d.canonical = true) : (Device.burstComplete d f r moved data).canonical = true := by
  unfold Device.burstComplete; (repeat' split) <;> simp [h]

@[simp] theorem Device.hostError_canon (d : Device) (f : OtpArray) (r : Fin 32) (moved : Nat) (data : List Byte) (h : d.canonical = true) : (Device.hostError d f r moved data).canonical = true := by
  unfold Device.hostError; (repeat' split) <;> simp [h]

@[simp ↓] theorem Device.stageTo_canon (d : Device) (s : Nat) : (Device.stageTo d s).canonical = d.canonical :=
  canonical_of (Device.stageTo_touch d s (by decide))

@[simp ↓] theorem Device.clkSync_canon (d : Device) : (Device.clkSync d).canonical = d.canonical :=
  canonical_of (Device.clkSync_touch d (by decide))

@[simp] theorem Device.ringsHost_canon (d : Device) (h : d.canonical = true) : (Device.ringsHost d).canonical = true := by
  unfold Device.ringsHost; repeat' first | (simp_all (maxDischargeDepth := 40); done) | split | dsimp only | refine canonical_foldFin _ _ (fun e i he => ?_) ?_ | refine canonical_foldl _ _ _ (fun e i he => ?_) ?_

@[simp] theorem Device.linkSet_canon (d : Device) (up : Bool) (h : d.canonical = true) : (Device.linkSet d up).canonical = true := by
  simp [Device.linkSet, h]

@[simp] theorem Device.pcieReset_canon (d : Device) (h : d.canonical = true) : (Device.pcieReset d).canonical = true := by
  simp [Device.pcieReset, h]

@[simp] theorem Device.resetOf_canon (d : Device) (h : d.canonical = true) : d.resetOf.canonical = true :=
  canonical_filter (fun x => aoAddr x.1) (fun x => aoAddr x.1) rfl rfl h

@[simp ↓] theorem Device.cutPulse_canon (d : Device) (f : OtpArray) : (Device.cutPulse d f).1.canonical = d.canonical :=
  canonical_of (Device.cutPulse_touch d f (by decide))

@[simp] theorem Device.resetEntry_canon (d : Device) (h : d.canonical = true) : (Device.resetEntry d).canonical = true := by
  simp [Device.resetEntry, h]

@[simp ↓] theorem Device.resetRelease_canon (d : Device) (s0 s1 s2 : BitVec 4) : (Device.resetRelease d s0 s1 s2).canonical = d.canonical :=
  canonical_of (Device.resetRelease_touch d s0 s1 s2 (by decide))

@[simp] theorem Device.aoDown_canon (d : Device) (h : d.canonical = true) : d.aoDown.canonical = true := by
  have hf : ({ d with regs := d.regs.filter fun x => !aoAddr x.1, ram := d.ram.filter fun x => !aoAddr x.1 } : Device).canonical = true :=
    canonical_filter (fun x => !aoAddr x.1) (fun x => !aoAddr x.1) rfl rfl h
  have hc : ∀ e : Device, e.regs = (d.regs.filter fun x => !aoAddr x.1) → e.ram = (d.ram.filter fun x => !aoAddr x.1) →
      e.canonical = true := by
    intro e h1 h2
    unfold Device.canonical at hf ⊢
    rw [h1, h2]
    exact hf
  unfold Device.aoDown
  dsimp only
  rw [Device.clkSync_canon]
  split
  · rw [Device.updHdr_canon]; exact hc _ rfl rfl
  · exact Device.whenLive_canon _ _ (fun e he => by rw [Device.syncState_canon]; exact he) (hc _ rfl rfl)

@[simp ↓] theorem Device.requiredDown_canon (d : Device) (f : OtpArray) (i code : Nat) (down : Supplies → Supplies) : (Device.requiredDown d f i code down).1.canonical = d.canonical :=
  canonical_of (Device.requiredDown_touch d f i code down (by decide))

@[simp] theorem Device.porAssert_canon (d : Device) (f : OtpArray) (dom : Domain) (h : d.canonical = true) : (Device.porAssert d f dom).1.canonical = true := by
  unfold Device.porAssert; (repeat' split) <;> simp [h]

@[simp ↓] theorem Device.causesAged_canon (d : Device) : (Device.causesAged d).canonical = d.canonical :=
  canonical_of (Device.causesAged_touch d (by decide))

@[simp] theorem Device.porRelease_canon (d : Device) (dom : Domain) (h : d.canonical = true) : (Device.porRelease d dom).canonical = true := by
  unfold Device.porRelease; (repeat' split) <;> simp [h]

@[simp ↓] theorem Device.lock_canon (d : Device) : (Device.lock d).canonical = d.canonical :=
  canonical_of (Device.lock_touch d (by decide))

@[simp ↓] theorem Device.clockFailure_canon (d : Device) (f : OtpArray) : (Device.clockFailure d f).1.canonical = d.canonical :=
  canonical_of (Device.clockFailure_touch d f (by decide))

@[simp ↓] theorem Device.lockTimeout_canon (d : Device) (f : OtpArray) : (Device.lockTimeout d f).1.canonical = d.canonical :=
  canonical_of (Device.lockTimeout_touch d f (by decide))

@[simp] theorem Device.trimLoad_canon (d : Device) (f : OtpArray) (h : d.canonical = true) : (d.trimLoad f).canonical = true := by
  unfold Device.trimLoad
  split
  · dsimp only
    rw [canonical_with_boot_ao]
    refine canonical_foldFin _ _ (fun e i he => Device.setRegBits_canon _ _ _ _ _ he) ?_
    simp [h]
  · exact h

@[simp ↓] theorem Device.bootScan_canon (d : Device) (f : OtpArray) : (Device.bootScan d f).canonical = d.canonical :=
  canonical_of (Device.bootScan_touch d f (by decide))

@[simp ↓] theorem Device.generationSelect_canon (d : Device) : (Device.generationSelect d).canonical = d.canonical :=
  canonical_of (Device.generationSelect_touch d (by decide))

@[simp ↓] theorem Device.i3cReset_canon (d : Device) (p : Fin 2) : (Device.i3cReset d p).canonical = d.canonical :=
  canonical_of (Device.i3cReset_touch d p (by decide))

@[simp ↓] theorem Device.spiReset_canon (d : Device) : (Device.spiReset d).canonical = d.canonical :=
  canonical_of (Device.spiReset_touch d (by decide))

@[simp] theorem Device.callSheetLoad_canon (d : Device) (h : d.canonical = true) : (Device.callSheetLoad d).canonical = true := by
  unfold Device.callSheetLoad; repeat' first | (simp_all (maxDischargeDepth := 40); done) | split | dsimp only | refine canonical_foldFin _ _ (fun e i he => ?_) ?_ | refine canonical_foldl _ _ _ (fun e i he => ?_) ?_

@[simp ↓] theorem Device.coreRelease_canon (d : Device) : (Device.coreRelease d).canonical = d.canonical :=
  canonical_of (Device.coreRelease_touch d (by decide))

@[simp ↓] theorem Device.patchLoad_canon (d : Device) (v : Store) : (Device.patchLoad d v).canonical = d.canonical :=
  canonical_of (Device.patchLoad_touch d v (by decide))

@[simp ↓] theorem Device.patchEvent_canon (d : Device) : (Device.patchEvent d).canonical = d.canonical :=
  canonical_of (Device.patchEvent_touch d (by decide))

@[simp ↓] theorem Device.jtagRelease_canon (d : Device) : (Device.jtagRelease d).canonical = d.canonical :=
  canonical_of (Device.jtagRelease_touch d (by decide))

@[simp ↓] theorem Device.firstScan_canon (d : Device) : (Device.firstScan d).canonical = d.canonical :=
  canonical_of (Device.firstScan_touch d (by decide))

@[simp] theorem Device.autoStart_canon (d : Device) (h : d.canonical = true) : (Device.autoStart d).canonical = true := by
  simp [Device.autoStart, h]

@[simp ↓] theorem Device.coreInit_canon (d : Device) (c : Vector (List (BitVec 16)) 9) : (Device.coreInit d c).canonical = d.canonical :=
  canonical_of (Device.coreInit_touch d c (by decide))

@[simp ↓] theorem Device.restartComplete_canon (d : Device) (f : OtpArray) (c : Vector (List (BitVec 16)) 9) : (Device.restartComplete d f c).canonical = d.canonical :=
  canonical_of (Device.restartComplete_touch d f c (by decide))

@[simp ↓] theorem Device.jtagReset_canon (d : Device) : (Device.jtagReset d).canonical = d.canonical :=
  canonical_of (Device.jtagReset_touch d (by decide))

@[simp ↓] theorem Device.tapHold_canon (d : Device) : (Device.tapHold d).canonical = d.canonical :=
  canonical_of (Device.tapHold_touch d (by decide))

@[simp ↓] theorem Device.updPcie_canon (d : Device) (f : Pcie → Pcie) : (Device.updPcie d f).canonical = d.canonical :=
  canonical_of (Device.updPcie_touch d f (by decide))

@[simp ↓] theorem Device.complete_canon (d : Device) (c : PcieCpl) (ws : List Word) : (Device.complete d c ws).canonical = d.canonical :=
  canonical_of (Device.complete_touch d c ws (by decide))

@[simp ↓] theorem Device.tlpIn_canon (d : Device) : (Device.tlpIn d).canonical = d.canonical :=
  canonical_of (Device.tlpIn_touch d (by decide))

@[simp ↓] theorem Device.tlpOut_canon (d : Device) : (Device.tlpOut d).canonical = d.canonical :=
  canonical_of (Device.tlpOut_touch d (by decide))

@[simp ↓] theorem Device.msixFlush_canon (d : Device) : (Device.msixFlush d).canonical = d.canonical :=
  canonical_of (Device.msixFlush_touch d (by decide))

@[simp ↓] theorem Device.msixEnable_canon (d : Device) (en fm : Bool) : (Device.msixEnable d en fm).canonical = d.canonical :=
  canonical_of (Device.msixEnable_touch d en fm (by decide))

@[simp] theorem Device.hotReset_canon (d : Device) (h : d.canonical = true) : (Device.hotReset d).canonical = true := by
  simp [Device.hotReset, h]

@[simp] theorem Device.d3hotEnter_canon (d : Device) (h : d.canonical = true) : (Device.d3hotEnter d).canonical = true := by
  simp [Device.d3hotEnter, h]

@[simp] theorem Device.d0Enter_canon (d : Device) (h : d.canonical = true) : (Device.d0Enter d).canonical = true := by
  simp [Device.d0Enter, h]

@[simp] theorem Device.cfgEffect_canon (d : Device) (i : Nat) (v m : Word) (h : d.canonical = true) : (Device.cfgEffect d i v m).canonical = true := by
  unfold Device.cfgEffect; (repeat' split) <;> simp [h]

@[simp] theorem Device.configRequest_canon (d : Device) (i : Fin 1024) (write : Option Dw) (h : d.canonical = true) : (Device.configRequest d i write).canonical = true := by
  unfold Device.configRequest; (repeat' split) <;> simp [h]

@[simp ↓] theorem Device.msixUnmask_canon (d : Device) (v : Option (Fin 16)) : (Device.msixUnmask d v).canonical = d.canonical :=
  canonical_of (Device.msixUnmask_touch d v (by decide))

@[simp ↓] theorem Device.bar4Write_canon (d : Device) (i : Nat) (m v : Word) : (Device.bar4Write d i m v).canonical = d.canonical :=
  canonical_of (Device.bar4Write_touch d i m v (by decide))

@[simp] theorem Device.dwAccess_canon (d : Device) (f : OtpArray) (bar : Bar) (write : Bool) (o : Nat) (w : Dw) (h : d.canonical = true) : (Device.dwAccess d f bar write o w).1.canonical = true := by
  simp [Device.dwAccess, h]

@[simp ↓] theorem Device.unaligned_canon (d : Device) (src : Source) (a : Nat) : (Device.unaligned d src a).canonical = d.canonical :=
  canonical_of (Device.unaligned_touch d src a (by decide))

@[simp] theorem Device.memRequest_canon (d : Device) (f : OtpArray) (bar : Bar) (write : Bool) (offset : Nat) (dws : List Dw) (h : d.canonical = true) : (Device.memRequest d f bar write offset dws).canonical = true := by
  unfold Device.memRequest; repeat' first | (simp_all (maxDischargeDepth := 40); done) | split | dsimp only | refine canonical_foldFin _ _ (fun e i he => ?_) ?_ | refine canonical_foldl _ _ _ (fun e i he => ?_) ?_

@[simp] theorem Device.perst_canon (d : Device) (low : Bool) (h : d.canonical = true) : (Device.perst d low).canonical = true := by
  simp [Device.perst, h]

@[simp] theorem Device.linkUp_canon (d : Device) (h : d.canonical = true) : (Device.linkUp d).canonical = true := by
  simp [Device.linkUp, h]

@[simp ↓] theorem Device.frameRead_canon (d : Device) (src : Source) (a n : Nat) : (Device.frameRead d src a n).2.canonical = d.canonical :=
  canonical_of (Device.frameRead_touch d src a n (by decide))

@[simp] theorem Device.frameWrite_canon (d : Device) (f : OtpArray) (src : Source) (a : Nat) (ws : List Word) (h : d.canonical = true) : (Device.frameWrite d f src a ws).canonical = true := by
  unfold Device.frameWrite; repeat' first | (simp_all (maxDischargeDepth := 40); done) | split | dsimp only | refine canonical_foldFin _ _ (fun e i he => ?_) ?_ | refine canonical_foldl _ _ _ (fun e i he => ?_) ?_

@[simp] theorem Device.runFrame_canon (d : Device) (f : OtpArray) (p : HostPort) (l : FrameLimits) (reads : Bool) (lastWr : Nat) (bs : List Byte) (h : d.canonical = true) : (Device.runFrame d f p l reads lastWr bs).dev.canonical = true := by
  unfold Device.runFrame; repeat' first | (simp (maxDischargeDepth := 40) [h]; done) | split | dsimp only | refine canonical_foldFin _ _ (fun e i he => ?_) ?_ | refine canonical_foldl _ _ _ (fun e i he => ?_) ?_

@[simp] theorem Device.spiFrame_canon (d : Device) (f : OtpArray) (dflt : Bool) (bs : List Byte) (lost : Bool) (h : d.canonical = true) : (Device.spiFrame d f dflt bs lost).canonical = true := by
  simp [Device.spiFrame, h]

@[simp ↓] theorem Device.updI3c_canon (d : Device) (p : Fin 2) (f : I3cPort → I3cPort) : (Device.updI3c d p f).canonical = d.canonical :=
  canonical_of (Device.updI3c_touch d p f (by decide))

@[simp ↓] theorem Device.busNack_canon (d : Device) (p : Fin 2) : (Device.busNack d p).canonical = d.canonical :=
  canonical_of (Device.busNack_touch d p (by decide))

@[simp ↓] theorem Device.busReply_canon (d : Device) (p : Fin 2) (bs : List Byte) : (Device.busReply d p bs).canonical = d.canonical :=
  canonical_of (Device.busReply_touch d p bs (by decide))

@[simp] theorem Device.inI3c_canon (d : Device) (p : Fin 2) (f : Device → Device)
    (h : ∀ e, e.canonical = true → (f e).canonical = true) (hd : d.canonical = true) : (Device.inI3c d p f).canonical = true := by
  unfold Device.inI3c
  repeat' first | (simp [h, hd]; done) | split

@[simp ↓] theorem Device.modeSwitch_canon (d : Device) (p : Fin 2) : (Device.modeSwitch d p).canonical = d.canonical :=
  canonical_of (Device.modeSwitch_touch d p (by decide))

@[simp] theorem Device.inFraming_canon (d : Device) (p : Fin 2) (hdr : Option Byte) (code : Byte) (f : Device → Device)
    (h : ∀ e, e.canonical = true → (f e).canonical = true) (hd : d.canonical = true) : (d.inFraming p hdr code f).canonical = true := by
  unfold Device.inFraming
  refine Device.inI3c_canon _ _ _ (fun e he => ?_) hd
  repeat' first | (simp [h, he]; done) | split

@[simp ↓] theorem Device.ccc_canon (d : Device) (p : Fin 2) (f : I3cPort → I3cPort) (bs : List Byte) : (Device.ccc d p f bs).canonical = d.canonical :=
  canonical_of (Device.ccc_touch d p f bs (by decide))

@[simp] theorem Device.busFrame_canon (d : Device) (f : OtpArray) (p : Fin 2) (dflt : Bool) (bs : List Byte) (h : d.canonical = true) : (Device.busFrame d f p dflt bs).canonical = true := by
  simp [Device.busFrame, h]

@[simp ↓] theorem Device.privateRead_canon (d : Device) (p : Fin 2) (hdr : Option Byte) : (Device.privateRead d p hdr).canonical = d.canonical :=
  canonical_of (Device.privateRead_touch d p hdr (by decide))

@[simp] theorem Device.portFrame_canon (d : Device) (f : OtpArray) (p : HostPort) (dflt : Bool) (hdr : Option Byte) (bs : List Byte) (h : d.canonical = true) :
    (d.portFrame f p dflt hdr bs).canonical = true := by
  unfold Device.portFrame
  cases p
  · exact h
  · exact Device.inFraming_canon _ _ _ _ _ (fun e he => Device.busFrame_canon _ _ _ _ _ he) h
  · exact Device.inFraming_canon _ _ _ _ _ (fun e he => Device.busFrame_canon _ _ _ _ _ he) h
  · exact Device.spiFrame_canon _ _ _ _ _ h

@[simp ↓] theorem Device.responseReady_canon (d : Device) (p : HostPort) : (Device.responseReady d p).canonical = d.canonical :=
  canonical_of (Device.responseReady_touch d p (by decide))

@[simp ↓] theorem Device.busPortReset_canon (d : Device) (p : Fin 2) : (Device.busPortReset d p).canonical = d.canonical :=
  canonical_of (Device.busPortReset_touch d p (by decide))

@[simp ↓] theorem Device.entdaa_canon (d : Device) (p : Fin 2) (a : BitVec 7) : (Device.entdaa d p a).canonical = d.canonical :=
  canonical_of (Device.entdaa_touch d p a (by decide))

@[simp ↓] theorem Device.setdasa_canon (d : Device) (p : Fin 2) (st a : BitVec 7) : (Device.setdasa d p st a).canonical = d.canonical :=
  canonical_of (Device.setdasa_touch d p st a (by decide))

@[simp ↓] theorem Device.rstdaa_canon (d : Device) (p : Fin 2) : (Device.rstdaa d p).canonical = d.canonical :=
  canonical_of (Device.rstdaa_touch d p (by decide))

@[simp ↓] theorem Device.enthdr0_canon (d : Device) (p : Fin 2) : (Device.enthdr0 d p).canonical = d.canonical :=
  canonical_of (Device.enthdr0_touch d p (by decide))

@[simp ↓] theorem Device.ibi_canon (d : Device) (p : Fin 2) (port : BusPort) (accepted : Bool) : (Device.ibi d p port accepted).canonical = d.canonical :=
  canonical_of (Device.ibi_touch d p port accepted (by decide))

@[simp ↓] theorem Device.hotJoinIdle_canon (d : Device) (p : Fin 2) (port : BusPort) : (Device.hotJoinIdle d p port).canonical = d.canonical :=
  canonical_of (Device.hotJoinIdle_touch d p port (by decide))

@[simp ↓] theorem Device.getstatus_canon (d : Device) (p : Fin 2) : (Device.getstatus d p).canonical = d.canonical :=
  canonical_of (Device.getstatus_touch d p (by decide))

@[simp ↓] theorem Device.setCml_canon (d : Device) (p : Fin 2) (i : Nat) : (Device.setCml d p i).canonical = d.canonical :=
  canonical_of (Device.setCml_touch d p i (by decide))

@[simp] theorem Device.inSmbus_canon (d : Device) (p : Fin 2) (f : Device → Device)
    (h : ∀ e, e.canonical = true → (f e).canonical = true) (hd : d.canonical = true) : (Device.inSmbus d p f).canonical = true := by
  unfold Device.inSmbus
  repeat' first | (simp [h, hd]; done) | split

@[simp] theorem Device.withPec_canon (d : Device) (p : Fin 2) (pec : Pec) (f : Device → Device)
    (h : ∀ e, e.canonical = true → (f e).canonical = true) (hd : d.canonical = true) : (Device.withPec d p pec f).canonical = true := by
  unfold Device.withPec
  repeat' first | (simp [h, hd]; done) | split

@[simp] theorem Device.smbFrame_canon (d : Device) (f : OtpArray) (x : SmbXfer) (bs : List Byte) (h : d.canonical = true) : (Device.smbFrame d f x bs).canonical = true := by
  unfold Device.smbFrame; repeat' first | (simp_all (maxDischargeDepth := 40); done) | split | dsimp only | refine canonical_foldFin _ _ (fun e i he => ?_) ?_ | refine canonical_foldl _ _ _ (fun e i he => ?_) ?_

@[simp ↓] theorem Device.smbResponse_canon (d : Device) (x : SmbXfer) : (Device.smbResponse d x).canonical = d.canonical :=
  canonical_of (Device.smbResponse_touch d x (by decide))

@[simp] theorem Device.pmOpen_canon (d : Device) (p : Fin 2) (h : d.canonical = true) : (Device.pmOpen d p).canonical = true := by
  unfold Device.pmOpen; (repeat' split) <;> simp [h]

@[simp] theorem Device.pmCommand_canon (d : Device) (x : SmbXfer) (f : Fin 2 → Source → Device → Device)
    (h : ∀ p s e, e.canonical = true → (f p s e).canonical = true) (hd : d.canonical = true) : (Device.pmCommand d x f).canonical = true := by
  unfold Device.pmCommand
  refine Device.inSmbus_canon _ _ _ (fun e he => ?_) hd
  split
  · simp [he]
  · exact Device.withPec_canon _ _ _ _ (fun e he => h _ _ _ (by simp [he])) he

@[simp] theorem Device.pmWrite_canon (d : Device) (x : SmbXfer) (g : Source → Fin 16 → Device → Device × Bool)
    (h : ∀ s n e, e.canonical = true → (g s n e).1.canonical = true) (hd : d.canonical = true) : (Device.pmWrite d x g).canonical = true := by
  unfold Device.pmWrite
  refine Device.pmCommand_canon _ _ _ (fun p s e he => ?_) hd
  split
  · simp [he]
  · dsimp only
    have hf := canonical_foldl_fst (fun (y : Device × Bool) n => ((g s n y.1).1, y.2 && (g s n y.1).2)) (e.pmLoops p) (e, true)
      (fun y n hy => h _ _ _ hy) he
    split <;> simp [hf]

@[simp] theorem Device.pmRead_canon (d : Device) (x : SmbXfer) (g : Fin 16 → Device → List Byte × Device)
    (h : ∀ n e, e.canonical = true → (g n e).2.canonical = true) (hd : d.canonical = true) : (Device.pmRead d x g).canonical = true := by
  unfold Device.pmRead
  refine Device.pmCommand_canon _ _ _ (fun p s e he => ?_) hd
  split
  · simp [he]
  · simp [h _ _ he]

@[simp] theorem Device.pmPortRead_canon (d : Device) (x : SmbXfer) (g : I3cPort → List Byte) (h : d.canonical = true) : (Device.pmPortRead d x g).canonical = true := by
  simp [Device.pmPortRead, h]

@[simp] theorem Device.pmField_canon (d : Device) (f : OtpArray) (src : Source) (n : Fin 16) (o hi lo : Nat) (v : Int) (h : d.canonical = true) : (Device.pmField d f src n o hi lo v).1.canonical = true := by
  simp [Device.pmField, h]

@[simp] theorem Device.pmVolts_canon (d : Device) (f : OtpArray) (src : Source) (n : Fin 16) (o hi lo : Nat) (v : BitVec 16) (h : d.canonical = true) : (Device.pmVolts d f src n o hi lo v).1.canonical = true := by
  simp [Device.pmVolts, h]

@[simp] theorem Device.pmFrequency_canon (d : Device) (f : OtpArray) (src : Source) (n : Fin 16) (v : BitVec 16) (h : d.canonical = true) : (Device.pmFrequency d f src n v).1.canonical = true := by
  simp [Device.pmFrequency, h]

@[simp] theorem Device.pmWhole_canon (d : Device) (f : OtpArray) (src : Source) (ok : Bool) (a : Nat) (w : Word) (h : d.canonical = true) : (Device.pmWhole d f src ok a w).canonical = true := by
  simp [Device.pmWhole, h]

@[simp] theorem Device.pmOperation_canon (d : Device) (f : OtpArray) (src : Source) (n : Fin 16) (vsel : Option Nat) (op : Nat) (h : d.canonical = true) : (Device.pmOperation d f src n vsel op).1.canonical = true := by
  unfold Device.pmOperation; (repeat' split) <;> simp [h]

@[simp] theorem Device.pmClear_canon (d : Device) (f : OtpArray) (src : Source) (n : Fin 16) (h : d.canonical = true) : (Device.pmClear d f src n).1.canonical = true := by
  simp [Device.pmClear, h]

@[simp] theorem Device.pmOperationByte_canon (d : Device) (f : OtpArray) (x : SmbXfer) (data : Option Byte) (h : d.canonical = true) : (Device.pmOperationByte d f x data).canonical = true := by
  unfold Device.pmOperationByte; repeat' first | (simp_all (maxDischargeDepth := 40); done) | split | dsimp only | refine canonical_foldFin _ _ (fun e i he => ?_) ?_ | refine canonical_foldl _ _ _ (fun e i he => ?_) ?_

@[simp ↓] theorem Device.pmTemperature_canon (d : Device) (n : Fin 16) : (Device.pmTemperature d n).2.canonical = d.canonical :=
  canonical_of (Device.pmTemperature_touch d n (by decide))

@[simp ↓] theorem Device.pmUnsupported_canon (d : Device) (x : SmbXfer) (code : Byte) : (Device.pmUnsupported d x code).canonical = d.canonical :=
  canonical_of (Device.pmUnsupported_touch d x code (by decide))

@[simp] theorem Device.pmPageCommand_canon (d : Device) (x : SmbXfer) (write : Option Byte) (h : d.canonical = true) : (Device.pmPageCommand d x write).canonical = true := by
  unfold Device.pmPageCommand; (repeat' split) <;> simp [h]

@[simp] theorem Device.pmWord_canon (d : Device) (x : SmbXfer) (write : Option (BitVec 16)) (rd : Fin 16 → Device → List Byte)
    (wr : Source → Fin 16 → Device → BitVec 16 → Device × Bool)
    (h : ∀ s n e v, e.canonical = true → (wr s n e v).1.canonical = true) (hd : d.canonical = true) :
    (Device.pmWord d x write rd wr).canonical = true := by
  unfold Device.pmWord
  split
  · exact Device.pmRead_canon _ _ _ (fun _ _ he => he) hd
  · exact Device.pmWrite_canon _ _ _ (fun _ _ _ he => h _ _ _ _ he) hd

@[simp ↓] theorem Device.accumulate_canon (d : Device) : (Device.accumulate d).canonical = d.canonical :=
  canonical_of (Device.accumulate_touch d (by decide))

@[simp ↓] theorem Device.fillBuckets_canon (d : Device) : (Device.fillBuckets d).canonical = d.canonical :=
  canonical_of (Device.fillBuckets_touch d (by decide))

@[simp ↓] theorem Device.countCycle_canon (d : Device) : (Device.countCycle d).canonical = d.canonical :=
  canonical_of (Device.countCycle_touch d (by decide))

@[simp ↓] theorem Device.agePulses_canon (d : Device) : (Device.agePulses d).canonical = d.canonical :=
  canonical_of (Device.agePulses_touch d (by decide))

@[simp ↓] theorem Device.ageCauses_canon (d : Device) : (Device.ageCauses d).canonical = d.canonical :=
  canonical_of (Device.ageCauses_touch d (by decide))

@[simp] theorem Device.leasesOverdue_canon (d : Device) (f : OtpArray) (h : d.canonical = true) : (Device.leasesOverdue d f).canonical = true := by
  unfold Device.leasesOverdue; repeat' first | (simp_all (maxDischargeDepth := 40); done) | split | dsimp only | refine canonical_foldFin _ _ (fun e i he => ?_) ?_ | refine canonical_foldl _ _ _ (fun e i he => ?_) ?_

@[simp] theorem Device.tick_canon (d : Device) (f : OtpArray) (h : d.canonical = true) : (Device.tick d f).canonical = true := by
  unfold Device.tick; (repeat' split) <;> simp [h]

@[simp] theorem Device.inService_canon (d : Device) (f : Device → Device)
    (h : ∀ e, e.canonical = true → (f e).canonical = true) (hd : d.canonical = true) : (Device.inService d f).canonical = true := by
  unfold Device.inService
  repeat' first | (simp [h, hd]; done) | split

@[simp] theorem Device.loopsSettle_canon (d : Device) (h : d.canonical = true) : d.loopsSettle.canonical = true :=
  Device.safeSettle_canon _ (Device.crowbarsHeard_canon _ _ (canonical_foldFin _ _ (fun _ _ he => Device.loopFaultCleared_canon _ _ he) h))

@[simp] theorem Device.drainDecay_canon (d : Device) (k : Fin 64) (x0 x1 : Imon) (h : d.canonical = true) : (d.drainDecay k x0 x1).canonical = true := by
  unfold Device.drainDecay
  split
  · exact Device.loopsSettle_canon _ (by simp [h])
  · simp [h]

@[simp] theorem Device.drainExpiry_canon (d : Device) (k : Fin 64) (h : d.canonical = true) : (d.drainExpiry k).canonical = true := by
  unfold Device.drainExpiry
  split
  · exact Device.loopsSettle_canon _ (by simp [h])
  · exact h

@[simp] theorem Device.phaseDetect_canon (d : Device) (k : Fin 64) (dets : List PhaseDetect) (h : d.canonical = true) : (d.phaseDetect k dets).canonical = true := by
  unfold Device.phaseDetect
  extract_lets e stage e2
  have h1 : e.canonical = true := canonical_foldl _ _ _ (fun e i hi => by simp [hi]) h
  have h3 : e2.canonical = true := canonical_if _ (by simp [h1]) h1
  split
  · exact h3
  · split
    · exact Device.loopsSettle_canon _ (by simp [h3])
    · exact h1

@[simp] theorem Device.stageFault_canon (d : Device) (k : Fin 64) (h : d.canonical = true) : (Device.stageFault d k).canonical = true := by
  unfold Device.stageFault; (repeat' split) <;> simp [h]

@[simp] theorem Device.cuePinEdge_canon (d : Device) (w : BitVec 7) (t : CueTiming) (h : d.canonical = true) : (Device.cuePinEdge d w t).canonical = true := by
  simp [Device.cuePinEdge, h]

@[simp] theorem Device.boundary_canon (d : Device) (n : Fin 16) (per : PeriodSamples) (same : Coincident) (h : d.canonical = true) : (Device.boundary d n per same).canonical = true := by
  unfold Device.boundary; (repeat' split) <;> simp (maxDischargeDepth := 40) [h]

@[simp] theorem Device.pgExpiry_canon (d : Device) (i : Fin 128) (h : d.canonical = true) : (Device.pgExpiry d i).canonical = true := by
  simp [Device.pgExpiry, h]

@[simp] theorem Device.gaugeSecond_canon (d : Device) (sec : GaugeSecond) (h : d.canonical = true) : (Device.gaugeSecond d sec).canonical = true := by
  unfold Device.gaugeSecond; repeat' first | (simp_all (maxDischargeDepth := 40); done) | split | dsimp only | refine canonical_foldFin _ _ (fun e i he => ?_) ?_ | refine canonical_foldl _ _ _ (fun e i he => ?_) ?_

@[simp] theorem Device.rushEvent_canon (d : Device) (c : RushCause) (h : d.canonical = true) : (Device.rushEvent d c).canonical = true := by
  unfold Device.rushEvent; (repeat' split) <;> simp [h]

end Sys2Proof.Machine
end

