-- ==== Sys2Proof/Laws/State.lean ====
section
/-! SUPPORT. One lemma for each field after each update of the state, all true by rfl; what an update of one element of a vector leaves; and
how the updates of one kind of state read back. -/

namespace Sys2Proof.Machine
open Sys2Proof

/-! ## One element of a vector -/

theorem upd_same {α : Type} {n : Nat} (v : Vector α n) (i : Fin n) (f : α → α) : (upd v i f)[i] = f v[i] := by simp [upd]
@[simp] theorem upd_same_val {α : Type} {n : Nat} (v : Vector α n) (i : Fin n) (f : α → α) : (upd v i f)[i.val] = f v[i.val] := upd_same v i f

theorem upd_other {α : Type} {n : Nat} (v : Vector α n) {i j : Fin n} (f : α → α) (h : j ≠ i) : (upd v i f)[j] = v[j] := by
  have h' : i.val ≠ j.val := fun e => h (Fin.ext e.symm)
  simp [upd, h']

theorem upd_get {α : Type} {n : Nat} (v : Vector α n) (i j : Fin n) (f : α → α) : (upd v i f)[j] = if j = i then f v[i] else v[j] := by
  split
  · subst_vars; exact upd_same v _ f
  · rename_i h; exact upd_other v f h

theorem mapFin_get {α : Type} {n : Nat} (v : Vector α n) (f : Fin n → α → α) (i : Fin n) : (mapFin v f)[i] = f i v[i] := by simp [mapFin]
@[simp] theorem mapFin_get_val {α : Type} {n : Nat} (v : Vector α n) (f : Fin n → α → α) (i : Fin n) : (mapFin v f)[i.val] = f i v[i.val] :=
  mapFin_get v f i

/-! ## updHdr -/

@[simp] theorem Device.updHdr_regs (d : Device) (p : Fin 256) (g : PageHdr → PageHdr) : (d.updHdr p g).regs = d.regs := rfl
@[simp] theorem Device.updHdr_ram (d : Device) (p : Fin 256) (g : PageHdr → PageHdr) : (d.updHdr p g).ram = d.ram := rfl
@[simp] theorem Device.updHdr_hdr (d : Device) (p : Fin 256) (g : PageHdr → PageHdr) : (d.updHdr p g).hdr = upd d.hdr p g := rfl
@[simp] theorem Device.updHdr_boot (d : Device) (p : Fin 256) (g : PageHdr → PageHdr) : (d.updHdr p g).boot = d.boot := rfl
@[simp] theorem Device.updHdr_ctx (d : Device) (p : Fin 256) (g : PageHdr → PageHdr) : (d.updHdr p g).ctx = d.ctx := rfl
@[simp] theorem Device.updHdr_phase (d : Device) (p : Fin 256) (g : PageHdr → PageHdr) : (d.updHdr p g).phase = d.phase := rfl
@[simp] theorem Device.updHdr_loop (d : Device) (p : Fin 256) (g : PageHdr → PageHdr) : (d.updHdr p g).loop = d.loop := rfl
@[simp] theorem Device.updHdr_entry (d : Device) (p : Fin 256) (g : PageHdr → PageHdr) : (d.updHdr p g).entry = d.entry := rfl
@[simp] theorem Device.updHdr_seq (d : Device) (p : Fin 256) (g : PageHdr → PageHdr) : (d.updHdr p g).seq = d.seq := rfl
@[simp] theorem Device.updHdr_rso (d : Device) (p : Fin 256) (g : PageHdr → PageHdr) : (d.updHdr p g).rso = d.rso := rfl
@[simp] theorem Device.updHdr_thm (d : Device) (p : Fin 256) (g : PageHdr → PageHdr) : (d.updHdr p g).thm = d.thm := rfl
@[simp] theorem Device.updHdr_flt (d : Device) (p : Fin 256) (g : PageHdr → PageHdr) : (d.updHdr p g).flt = d.flt := rfl
@[simp] theorem Device.updHdr_evc (d : Device) (p : Fin 256) (g : PageHdr → PageHdr) : (d.updHdr p g).evc = d.evc := rfl
@[simp] theorem Device.updHdr_wdt (d : Device) (p : Fin 256) (g : PageHdr → PageHdr) : (d.updHdr p g).wdt = d.wdt := rfl
@[simp] theorem Device.updHdr_hup (d : Device) (p : Fin 256) (g : PageHdr → PageHdr) : (d.updHdr p g).hup = d.hup := rfl
@[simp] theorem Device.updHdr_chg (d : Device) (p : Fin 256) (g : PageHdr → PageHdr) : (d.updHdr p g).chg = d.chg := rfl
@[simp] theorem Device.updHdr_gau (d : Device) (p : Fin 256) (g : PageHdr → PageHdr) : (d.updHdr p g).gau = d.gau := rfl
@[simp] theorem Device.updHdr_ao (d : Device) (p : Fin 256) (g : PageHdr → PageHdr) : (d.updHdr p g).ao = d.ao := rfl
@[simp] theorem Device.updHdr_dma (d : Device) (p : Fin 256) (g : PageHdr → PageHdr) : (d.updHdr p g).dma = d.dma := rfl
@[simp] theorem Device.updHdr_tlm (d : Device) (p : Fin 256) (g : PageHdr → PageHdr) : (d.updHdr p g).tlm = d.tlm := rfl
@[simp] theorem Device.updHdr_pmc (d : Device) (p : Fin 256) (g : PageHdr → PageHdr) : (d.updHdr p g).pmc = d.pmc := rfl
@[simp] theorem Device.updHdr_syn (d : Device) (p : Fin 256) (g : PageHdr → PageHdr) : (d.updHdr p g).syn = d.syn := rfl
@[simp] theorem Device.updHdr_pcie (d : Device) (p : Fin 256) (g : PageHdr → PageHdr) : (d.updHdr p g).pcie = d.pcie := rfl
@[simp] theorem Device.updHdr_i3c (d : Device) (p : Fin 256) (g : PageHdr → PageHdr) : (d.updHdr p g).i3c = d.i3c := rfl
@[simp] theorem Device.updHdr_spi (d : Device) (p : Fin 256) (g : PageHdr → PageHdr) : (d.updHdr p g).spi = d.spi := rfl
@[simp] theorem Device.updHdr_otp (d : Device) (p : Fin 256) (g : PageHdr → PageHdr) : (d.updHdr p g).otp = d.otp := rfl
@[simp] theorem Device.updHdr_hkc (d : Device) (p : Fin 256) (g : PageHdr → PageHdr) : (d.updHdr p g).hkc = d.hkc := rfl
@[simp] theorem Device.updHdr_claims (d : Device) (p : Fin 256) (g : PageHdr → PageHdr) : (d.updHdr p g).claims = d.claims := rfl
@[simp] theorem Device.updHdr_openRes (d : Device) (p : Fin 256) (g : PageHdr → PageHdr) : (d.updHdr p g).openRes = d.openRes := rfl
@[simp] theorem Device.updHdr_safe (d : Device) (p : Fin 256) (g : PageHdr → PageHdr) : (d.updHdr p g).safe = d.safe := rfl
@[simp] theorem Device.updHdr_sheet (d : Device) (p : Fin 256) (g : PageHdr → PageHdr) : (d.updHdr p g).sheet = d.sheet := rfl
@[simp] theorem Device.updHdr_cntSeq (d : Device) (p : Fin 256) (g : PageHdr → PageHdr) : (d.updHdr p g).cntSeq = d.cntSeq := rfl
@[simp] theorem Device.updHdr_ts (d : Device) (p : Fin 256) (g : PageHdr → PageHdr) : (d.updHdr p g).ts = d.ts := rfl
@[simp] theorem Device.updHdr_cycle (d : Device) (p : Fin 256) (g : PageHdr → PageHdr) : (d.updHdr p g).cycle = d.cycle := rfl
@[simp] theorem Device.updHdr_freeCount (d : Device) (p : Fin 256) (g : PageHdr → PageHdr) : (d.updHdr p g).freeCount = d.freeCount := rfl
@[simp] theorem Device.updHdr_out (d : Device) (p : Fin 256) (g : PageHdr → PageHdr) : (d.updHdr p g).out = d.out := rfl

/-! ## updCtx -/

@[simp] theorem Device.updCtx_regs (d : Device) (n : Fin 8) (g : Ctx → Ctx) : (d.updCtx n g).regs = d.regs := rfl
@[simp] theorem Device.updCtx_ram (d : Device) (n : Fin 8) (g : Ctx → Ctx) : (d.updCtx n g).ram = d.ram := rfl
@[simp] theorem Device.updCtx_hdr (d : Device) (n : Fin 8) (g : Ctx → Ctx) : (d.updCtx n g).hdr = d.hdr := rfl
@[simp] theorem Device.updCtx_boot (d : Device) (n : Fin 8) (g : Ctx → Ctx) : (d.updCtx n g).boot = d.boot := rfl
@[simp] theorem Device.updCtx_ctx (d : Device) (n : Fin 8) (g : Ctx → Ctx) : (d.updCtx n g).ctx = upd d.ctx n g := rfl
@[simp] theorem Device.updCtx_phase (d : Device) (n : Fin 8) (g : Ctx → Ctx) : (d.updCtx n g).phase = d.phase := rfl
@[simp] theorem Device.updCtx_loop (d : Device) (n : Fin 8) (g : Ctx → Ctx) : (d.updCtx n g).loop = d.loop := rfl
@[simp] theorem Device.updCtx_entry (d : Device) (n : Fin 8) (g : Ctx → Ctx) : (d.updCtx n g).entry = d.entry := rfl
@[simp] theorem Device.updCtx_seq (d : Device) (n : Fin 8) (g : Ctx → Ctx) : (d.updCtx n g).seq = d.seq := rfl
@[simp] theorem Device.updCtx_rso (d : Device) (n : Fin 8) (g : Ctx → Ctx) : (d.updCtx n g).rso = d.rso := rfl
@[simp] theorem Device.updCtx_thm (d : Device) (n : Fin 8) (g : Ctx → Ctx) : (d.updCtx n g).thm = d.thm := rfl
@[simp] theorem Device.updCtx_flt (d : Device) (n : Fin 8) (g : Ctx → Ctx) : (d.updCtx n g).flt = d.flt := rfl
@[simp] theorem Device.updCtx_evc (d : Device) (n : Fin 8) (g : Ctx → Ctx) : (d.updCtx n g).evc = d.evc := rfl
@[simp] theorem Device.updCtx_wdt (d : Device) (n : Fin 8) (g : Ctx → Ctx) : (d.updCtx n g).wdt = d.wdt := rfl
@[simp] theorem Device.updCtx_hup (d : Device) (n : Fin 8) (g : Ctx → Ctx) : (d.updCtx n g).hup = d.hup := rfl
@[simp] theorem Device.updCtx_chg (d : Device) (n : Fin 8) (g : Ctx → Ctx) : (d.updCtx n g).chg = d.chg := rfl
@[simp] theorem Device.updCtx_gau (d : Device) (n : Fin 8) (g : Ctx → Ctx) : (d.updCtx n g).gau = d.gau := rfl
@[simp] theorem Device.updCtx_ao (d : Device) (n : Fin 8) (g : Ctx → Ctx) : (d.updCtx n g).ao = d.ao := rfl
@[simp] theorem Device.updCtx_dma (d : Device) (n : Fin 8) (g : Ctx → Ctx) : (d.updCtx n g).dma = d.dma := rfl
@[simp] theorem Device.updCtx_tlm (d : Device) (n : Fin 8) (g : Ctx → Ctx) : (d.updCtx n g).tlm = d.tlm := rfl
@[simp] theorem Device.updCtx_pmc (d : Device) (n : Fin 8) (g : Ctx → Ctx) : (d.updCtx n g).pmc = d.pmc := rfl
@[simp] theorem Device.updCtx_syn (d : Device) (n : Fin 8) (g : Ctx → Ctx) : (d.updCtx n g).syn = d.syn := rfl
@[simp] theorem Device.updCtx_pcie (d : Device) (n : Fin 8) (g : Ctx → Ctx) : (d.updCtx n g).pcie = d.pcie := rfl
@[simp] theorem Device.updCtx_i3c (d : Device) (n : Fin 8) (g : Ctx → Ctx) : (d.updCtx n g).i3c = d.i3c := rfl
@[simp] theorem Device.updCtx_spi (d : Device) (n : Fin 8) (g : Ctx → Ctx) : (d.updCtx n g).spi = d.spi := rfl
@[simp] theorem Device.updCtx_otp (d : Device) (n : Fin 8) (g : Ctx → Ctx) : (d.updCtx n g).otp = d.otp := rfl
@[simp] theorem Device.updCtx_hkc (d : Device) (n : Fin 8) (g : Ctx → Ctx) : (d.updCtx n g).hkc = d.hkc := rfl
@[simp] theorem Device.updCtx_claims (d : Device) (n : Fin 8) (g : Ctx → Ctx) : (d.updCtx n g).claims = d.claims := rfl
@[simp] theorem Device.updCtx_openRes (d : Device) (n : Fin 8) (g : Ctx → Ctx) : (d.updCtx n g).openRes = d.openRes := rfl
@[simp] theorem Device.updCtx_safe (d : Device) (n : Fin 8) (g : Ctx → Ctx) : (d.updCtx n g).safe = d.safe := rfl
@[simp] theorem Device.updCtx_sheet (d : Device) (n : Fin 8) (g : Ctx → Ctx) : (d.updCtx n g).sheet = d.sheet := rfl
@[simp] theorem Device.updCtx_cntSeq (d : Device) (n : Fin 8) (g : Ctx → Ctx) : (d.updCtx n g).cntSeq = d.cntSeq := rfl
@[simp] theorem Device.updCtx_ts (d : Device) (n : Fin 8) (g : Ctx → Ctx) : (d.updCtx n g).ts = d.ts := rfl
@[simp] theorem Device.updCtx_cycle (d : Device) (n : Fin 8) (g : Ctx → Ctx) : (d.updCtx n g).cycle = d.cycle := rfl
@[simp] theorem Device.updCtx_freeCount (d : Device) (n : Fin 8) (g : Ctx → Ctx) : (d.updCtx n g).freeCount = d.freeCount := rfl
@[simp] theorem Device.updCtx_out (d : Device) (n : Fin 8) (g : Ctx → Ctx) : (d.updCtx n g).out = d.out := rfl

/-! ## updPh -/

@[simp] theorem Device.updPh_regs (d : Device) (k : Fin 64) (g : Phase → Phase) : (d.updPh k g).regs = d.regs := rfl
@[simp] theorem Device.updPh_ram (d : Device) (k : Fin 64) (g : Phase → Phase) : (d.updPh k g).ram = d.ram := rfl
@[simp] theorem Device.updPh_hdr (d : Device) (k : Fin 64) (g : Phase → Phase) : (d.updPh k g).hdr = d.hdr := rfl
@[simp] theorem Device.updPh_boot (d : Device) (k : Fin 64) (g : Phase → Phase) : (d.updPh k g).boot = d.boot := rfl
@[simp] theorem Device.updPh_ctx (d : Device) (k : Fin 64) (g : Phase → Phase) : (d.updPh k g).ctx = d.ctx := rfl
@[simp] theorem Device.updPh_phase (d : Device) (k : Fin 64) (g : Phase → Phase) : (d.updPh k g).phase = upd d.phase k g := rfl
@[simp] theorem Device.updPh_loop (d : Device) (k : Fin 64) (g : Phase → Phase) : (d.updPh k g).loop = d.loop := rfl
@[simp] theorem Device.updPh_entry (d : Device) (k : Fin 64) (g : Phase → Phase) : (d.updPh k g).entry = d.entry := rfl
@[simp] theorem Device.updPh_seq (d : Device) (k : Fin 64) (g : Phase → Phase) : (d.updPh k g).seq = d.seq := rfl
@[simp] theorem Device.updPh_rso (d : Device) (k : Fin 64) (g : Phase → Phase) : (d.updPh k g).rso = d.rso := rfl
@[simp] theorem Device.updPh_thm (d : Device) (k : Fin 64) (g : Phase → Phase) : (d.updPh k g).thm = d.thm := rfl
@[simp] theorem Device.updPh_flt (d : Device) (k : Fin 64) (g : Phase → Phase) : (d.updPh k g).flt = d.flt := rfl
@[simp] theorem Device.updPh_evc (d : Device) (k : Fin 64) (g : Phase → Phase) : (d.updPh k g).evc = d.evc := rfl
@[simp] theorem Device.updPh_wdt (d : Device) (k : Fin 64) (g : Phase → Phase) : (d.updPh k g).wdt = d.wdt := rfl
@[simp] theorem Device.updPh_hup (d : Device) (k : Fin 64) (g : Phase → Phase) : (d.updPh k g).hup = d.hup := rfl
@[simp] theorem Device.updPh_chg (d : Device) (k : Fin 64) (g : Phase → Phase) : (d.updPh k g).chg = d.chg := rfl
@[simp] theorem Device.updPh_gau (d : Device) (k : Fin 64) (g : Phase → Phase) : (d.updPh k g).gau = d.gau := rfl
@[simp] theorem Device.updPh_ao (d : Device) (k : Fin 64) (g : Phase → Phase) : (d.updPh k g).ao = d.ao := rfl
@[simp] theorem Device.updPh_dma (d : Device) (k : Fin 64) (g : Phase → Phase) : (d.updPh k g).dma = d.dma := rfl
@[simp] theorem Device.updPh_tlm (d : Device) (k : Fin 64) (g : Phase → Phase) : (d.updPh k g).tlm = d.tlm := rfl
@[simp] theorem Device.updPh_pmc (d : Device) (k : Fin 64) (g : Phase → Phase) : (d.updPh k g).pmc = d.pmc := rfl
@[simp] theorem Device.updPh_syn (d : Device) (k : Fin 64) (g : Phase → Phase) : (d.updPh k g).syn = d.syn := rfl
@[simp] theorem Device.updPh_pcie (d : Device) (k : Fin 64) (g : Phase → Phase) : (d.updPh k g).pcie = d.pcie := rfl
@[simp] theorem Device.updPh_i3c (d : Device) (k : Fin 64) (g : Phase → Phase) : (d.updPh k g).i3c = d.i3c := rfl
@[simp] theorem Device.updPh_spi (d : Device) (k : Fin 64) (g : Phase → Phase) : (d.updPh k g).spi = d.spi := rfl
@[simp] theorem Device.updPh_otp (d : Device) (k : Fin 64) (g : Phase → Phase) : (d.updPh k g).otp = d.otp := rfl
@[simp] theorem Device.updPh_hkc (d : Device) (k : Fin 64) (g : Phase → Phase) : (d.updPh k g).hkc = d.hkc := rfl
@[simp] theorem Device.updPh_claims (d : Device) (k : Fin 64) (g : Phase → Phase) : (d.updPh k g).claims = d.claims := rfl
@[simp] theorem Device.updPh_openRes (d : Device) (k : Fin 64) (g : Phase → Phase) : (d.updPh k g).openRes = d.openRes := rfl
@[simp] theorem Device.updPh_safe (d : Device) (k : Fin 64) (g : Phase → Phase) : (d.updPh k g).safe = d.safe := rfl
@[simp] theorem Device.updPh_sheet (d : Device) (k : Fin 64) (g : Phase → Phase) : (d.updPh k g).sheet = d.sheet := rfl
@[simp] theorem Device.updPh_cntSeq (d : Device) (k : Fin 64) (g : Phase → Phase) : (d.updPh k g).cntSeq = d.cntSeq := rfl
@[simp] theorem Device.updPh_ts (d : Device) (k : Fin 64) (g : Phase → Phase) : (d.updPh k g).ts = d.ts := rfl
@[simp] theorem Device.updPh_cycle (d : Device) (k : Fin 64) (g : Phase → Phase) : (d.updPh k g).cycle = d.cycle := rfl
@[simp] theorem Device.updPh_freeCount (d : Device) (k : Fin 64) (g : Phase → Phase) : (d.updPh k g).freeCount = d.freeCount := rfl
@[simp] theorem Device.updPh_out (d : Device) (k : Fin 64) (g : Phase → Phase) : (d.updPh k g).out = d.out := rfl

/-! ## updLp -/

@[simp] theorem Device.updLp_regs (d : Device) (n : Fin 16) (g : Loop → Loop) : (d.updLp n g).regs = d.regs := rfl
@[simp] theorem Device.updLp_ram (d : Device) (n : Fin 16) (g : Loop → Loop) : (d.updLp n g).ram = d.ram := rfl
@[simp] theorem Device.updLp_hdr (d : Device) (n : Fin 16) (g : Loop → Loop) : (d.updLp n g).hdr = d.hdr := rfl
@[simp] theorem Device.updLp_boot (d : Device) (n : Fin 16) (g : Loop → Loop) : (d.updLp n g).boot = d.boot := rfl
@[simp] theorem Device.updLp_ctx (d : Device) (n : Fin 16) (g : Loop → Loop) : (d.updLp n g).ctx = d.ctx := rfl
@[simp] theorem Device.updLp_phase (d : Device) (n : Fin 16) (g : Loop → Loop) : (d.updLp n g).phase = d.phase := rfl
@[simp] theorem Device.updLp_loop (d : Device) (n : Fin 16) (g : Loop → Loop) : (d.updLp n g).loop = upd d.loop n g := rfl
@[simp] theorem Device.updLp_entry (d : Device) (n : Fin 16) (g : Loop → Loop) : (d.updLp n g).entry = d.entry := rfl
@[simp] theorem Device.updLp_seq (d : Device) (n : Fin 16) (g : Loop → Loop) : (d.updLp n g).seq = d.seq := rfl
@[simp] theorem Device.updLp_rso (d : Device) (n : Fin 16) (g : Loop → Loop) : (d.updLp n g).rso = d.rso := rfl
@[simp] theorem Device.updLp_thm (d : Device) (n : Fin 16) (g : Loop → Loop) : (d.updLp n g).thm = d.thm := rfl
@[simp] theorem Device.updLp_flt (d : Device) (n : Fin 16) (g : Loop → Loop) : (d.updLp n g).flt = d.flt := rfl
@[simp] theorem Device.updLp_evc (d : Device) (n : Fin 16) (g : Loop → Loop) : (d.updLp n g).evc = d.evc := rfl
@[simp] theorem Device.updLp_wdt (d : Device) (n : Fin 16) (g : Loop → Loop) : (d.updLp n g).wdt = d.wdt := rfl
@[simp] theorem Device.updLp_hup (d : Device) (n : Fin 16) (g : Loop → Loop) : (d.updLp n g).hup = d.hup := rfl
@[simp] theorem Device.updLp_chg (d : Device) (n : Fin 16) (g : Loop → Loop) : (d.updLp n g).chg = d.chg := rfl
@[simp] theorem Device.updLp_gau (d : Device) (n : Fin 16) (g : Loop → Loop) : (d.updLp n g).gau = d.gau := rfl
@[simp] theorem Device.updLp_ao (d : Device) (n : Fin 16) (g : Loop → Loop) : (d.updLp n g).ao = d.ao := rfl
@[simp] theorem Device.updLp_dma (d : Device) (n : Fin 16) (g : Loop → Loop) : (d.updLp n g).dma = d.dma := rfl
@[simp] theorem Device.updLp_tlm (d : Device) (n : Fin 16) (g : Loop → Loop) : (d.updLp n g).tlm = d.tlm := rfl
@[simp] theorem Device.updLp_pmc (d : Device) (n : Fin 16) (g : Loop → Loop) : (d.updLp n g).pmc = d.pmc := rfl
@[simp] theorem Device.updLp_syn (d : Device) (n : Fin 16) (g : Loop → Loop) : (d.updLp n g).syn = d.syn := rfl
@[simp] theorem Device.updLp_pcie (d : Device) (n : Fin 16) (g : Loop → Loop) : (d.updLp n g).pcie = d.pcie := rfl
@[simp] theorem Device.updLp_i3c (d : Device) (n : Fin 16) (g : Loop → Loop) : (d.updLp n g).i3c = d.i3c := rfl
@[simp] theorem Device.updLp_spi (d : Device) (n : Fin 16) (g : Loop → Loop) : (d.updLp n g).spi = d.spi := rfl
@[simp] theorem Device.updLp_otp (d : Device) (n : Fin 16) (g : Loop → Loop) : (d.updLp n g).otp = d.otp := rfl
@[simp] theorem Device.updLp_hkc (d : Device) (n : Fin 16) (g : Loop → Loop) : (d.updLp n g).hkc = d.hkc := rfl
@[simp] theorem Device.updLp_claims (d : Device) (n : Fin 16) (g : Loop → Loop) : (d.updLp n g).claims = d.claims := rfl
@[simp] theorem Device.updLp_openRes (d : Device) (n : Fin 16) (g : Loop → Loop) : (d.updLp n g).openRes = d.openRes := rfl
@[simp] theorem Device.updLp_safe (d : Device) (n : Fin 16) (g : Loop → Loop) : (d.updLp n g).safe = d.safe := rfl
@[simp] theorem Device.updLp_sheet (d : Device) (n : Fin 16) (g : Loop → Loop) : (d.updLp n g).sheet = d.sheet := rfl
@[simp] theorem Device.updLp_cntSeq (d : Device) (n : Fin 16) (g : Loop → Loop) : (d.updLp n g).cntSeq = d.cntSeq := rfl
@[simp] theorem Device.updLp_ts (d : Device) (n : Fin 16) (g : Loop → Loop) : (d.updLp n g).ts = d.ts := rfl
@[simp] theorem Device.updLp_cycle (d : Device) (n : Fin 16) (g : Loop → Loop) : (d.updLp n g).cycle = d.cycle := rfl
@[simp] theorem Device.updLp_freeCount (d : Device) (n : Fin 16) (g : Loop → Loop) : (d.updLp n g).freeCount = d.freeCount := rfl
@[simp] theorem Device.updLp_out (d : Device) (n : Fin 16) (g : Loop → Loop) : (d.updLp n g).out = d.out := rfl

/-! ## updEn -/

@[simp] theorem Device.updEn_regs (d : Device) (i : Fin 128) (g : Entry → Entry) : (d.updEn i g).regs = d.regs := rfl
@[simp] theorem Device.updEn_ram (d : Device) (i : Fin 128) (g : Entry → Entry) : (d.updEn i g).ram = d.ram := rfl
@[simp] theorem Device.updEn_hdr (d : Device) (i : Fin 128) (g : Entry → Entry) : (d.updEn i g).hdr = d.hdr := rfl
@[simp] theorem Device.updEn_boot (d : Device) (i : Fin 128) (g : Entry → Entry) : (d.updEn i g).boot = d.boot := rfl
@[simp] theorem Device.updEn_ctx (d : Device) (i : Fin 128) (g : Entry → Entry) : (d.updEn i g).ctx = d.ctx := rfl
@[simp] theorem Device.updEn_phase (d : Device) (i : Fin 128) (g : Entry → Entry) : (d.updEn i g).phase = d.phase := rfl
@[simp] theorem Device.updEn_loop (d : Device) (i : Fin 128) (g : Entry → Entry) : (d.updEn i g).loop = d.loop := rfl
@[simp] theorem Device.updEn_entry (d : Device) (i : Fin 128) (g : Entry → Entry) : (d.updEn i g).entry = upd d.entry i g := rfl
@[simp] theorem Device.updEn_seq (d : Device) (i : Fin 128) (g : Entry → Entry) : (d.updEn i g).seq = d.seq := rfl
@[simp] theorem Device.updEn_rso (d : Device) (i : Fin 128) (g : Entry → Entry) : (d.updEn i g).rso = d.rso := rfl
@[simp] theorem Device.updEn_thm (d : Device) (i : Fin 128) (g : Entry → Entry) : (d.updEn i g).thm = d.thm := rfl
@[simp] theorem Device.updEn_flt (d : Device) (i : Fin 128) (g : Entry → Entry) : (d.updEn i g).flt = d.flt := rfl
@[simp] theorem Device.updEn_evc (d : Device) (i : Fin 128) (g : Entry → Entry) : (d.updEn i g).evc = d.evc := rfl
@[simp] theorem Device.updEn_wdt (d : Device) (i : Fin 128) (g : Entry → Entry) : (d.updEn i g).wdt = d.wdt := rfl
@[simp] theorem Device.updEn_hup (d : Device) (i : Fin 128) (g : Entry → Entry) : (d.updEn i g).hup = d.hup := rfl
@[simp] theorem Device.updEn_chg (d : Device) (i : Fin 128) (g : Entry → Entry) : (d.updEn i g).chg = d.chg := rfl
@[simp] theorem Device.updEn_gau (d : Device) (i : Fin 128) (g : Entry → Entry) : (d.updEn i g).gau = d.gau := rfl
@[simp] theorem Device.updEn_ao (d : Device) (i : Fin 128) (g : Entry → Entry) : (d.updEn i g).ao = d.ao := rfl
@[simp] theorem Device.updEn_dma (d : Device) (i : Fin 128) (g : Entry → Entry) : (d.updEn i g).dma = d.dma := rfl
@[simp] theorem Device.updEn_tlm (d : Device) (i : Fin 128) (g : Entry → Entry) : (d.updEn i g).tlm = d.tlm := rfl
@[simp] theorem Device.updEn_pmc (d : Device) (i : Fin 128) (g : Entry → Entry) : (d.updEn i g).pmc = d.pmc := rfl
@[simp] theorem Device.updEn_syn (d : Device) (i : Fin 128) (g : Entry → Entry) : (d.updEn i g).syn = d.syn := rfl
@[simp] theorem Device.updEn_pcie (d : Device) (i : Fin 128) (g : Entry → Entry) : (d.updEn i g).pcie = d.pcie := rfl
@[simp] theorem Device.updEn_i3c (d : Device) (i : Fin 128) (g : Entry → Entry) : (d.updEn i g).i3c = d.i3c := rfl
@[simp] theorem Device.updEn_spi (d : Device) (i : Fin 128) (g : Entry → Entry) : (d.updEn i g).spi = d.spi := rfl
@[simp] theorem Device.updEn_otp (d : Device) (i : Fin 128) (g : Entry → Entry) : (d.updEn i g).otp = d.otp := rfl
@[simp] theorem Device.updEn_hkc (d : Device) (i : Fin 128) (g : Entry → Entry) : (d.updEn i g).hkc = d.hkc := rfl
@[simp] theorem Device.updEn_claims (d : Device) (i : Fin 128) (g : Entry → Entry) : (d.updEn i g).claims = d.claims := rfl
@[simp] theorem Device.updEn_openRes (d : Device) (i : Fin 128) (g : Entry → Entry) : (d.updEn i g).openRes = d.openRes := rfl
@[simp] theorem Device.updEn_safe (d : Device) (i : Fin 128) (g : Entry → Entry) : (d.updEn i g).safe = d.safe := rfl
@[simp] theorem Device.updEn_sheet (d : Device) (i : Fin 128) (g : Entry → Entry) : (d.updEn i g).sheet = d.sheet := rfl
@[simp] theorem Device.updEn_cntSeq (d : Device) (i : Fin 128) (g : Entry → Entry) : (d.updEn i g).cntSeq = d.cntSeq := rfl
@[simp] theorem Device.updEn_ts (d : Device) (i : Fin 128) (g : Entry → Entry) : (d.updEn i g).ts = d.ts := rfl
@[simp] theorem Device.updEn_cycle (d : Device) (i : Fin 128) (g : Entry → Entry) : (d.updEn i g).cycle = d.cycle := rfl
@[simp] theorem Device.updEn_freeCount (d : Device) (i : Fin 128) (g : Entry → Entry) : (d.updEn i g).freeCount = d.freeCount := rfl
@[simp] theorem Device.updEn_out (d : Device) (i : Fin 128) (g : Entry → Entry) : (d.updEn i g).out = d.out := rfl

/-! ## updWd -/

@[simp] theorem Device.updWd_regs (d : Device) (k : Fin 9) (g : Wdt → Wdt) : (d.updWd k g).regs = d.regs := rfl
@[simp] theorem Device.updWd_ram (d : Device) (k : Fin 9) (g : Wdt → Wdt) : (d.updWd k g).ram = d.ram := rfl
@[simp] theorem Device.updWd_hdr (d : Device) (k : Fin 9) (g : Wdt → Wdt) : (d.updWd k g).hdr = d.hdr := rfl
@[simp] theorem Device.updWd_boot (d : Device) (k : Fin 9) (g : Wdt → Wdt) : (d.updWd k g).boot = d.boot := rfl
@[simp] theorem Device.updWd_ctx (d : Device) (k : Fin 9) (g : Wdt → Wdt) : (d.updWd k g).ctx = d.ctx := rfl
@[simp] theorem Device.updWd_phase (d : Device) (k : Fin 9) (g : Wdt → Wdt) : (d.updWd k g).phase = d.phase := rfl
@[simp] theorem Device.updWd_loop (d : Device) (k : Fin 9) (g : Wdt → Wdt) : (d.updWd k g).loop = d.loop := rfl
@[simp] theorem Device.updWd_entry (d : Device) (k : Fin 9) (g : Wdt → Wdt) : (d.updWd k g).entry = d.entry := rfl
@[simp] theorem Device.updWd_seq (d : Device) (k : Fin 9) (g : Wdt → Wdt) : (d.updWd k g).seq = d.seq := rfl
@[simp] theorem Device.updWd_rso (d : Device) (k : Fin 9) (g : Wdt → Wdt) : (d.updWd k g).rso = d.rso := rfl
@[simp] theorem Device.updWd_thm (d : Device) (k : Fin 9) (g : Wdt → Wdt) : (d.updWd k g).thm = d.thm := rfl
@[simp] theorem Device.updWd_flt (d : Device) (k : Fin 9) (g : Wdt → Wdt) : (d.updWd k g).flt = d.flt := rfl
@[simp] theorem Device.updWd_evc (d : Device) (k : Fin 9) (g : Wdt → Wdt) : (d.updWd k g).evc = d.evc := rfl
@[simp] theorem Device.updWd_wdt (d : Device) (k : Fin 9) (g : Wdt → Wdt) : (d.updWd k g).wdt = upd d.wdt k g := rfl
@[simp] theorem Device.updWd_hup (d : Device) (k : Fin 9) (g : Wdt → Wdt) : (d.updWd k g).hup = d.hup := rfl
@[simp] theorem Device.updWd_chg (d : Device) (k : Fin 9) (g : Wdt → Wdt) : (d.updWd k g).chg = d.chg := rfl
@[simp] theorem Device.updWd_gau (d : Device) (k : Fin 9) (g : Wdt → Wdt) : (d.updWd k g).gau = d.gau := rfl
@[simp] theorem Device.updWd_ao (d : Device) (k : Fin 9) (g : Wdt → Wdt) : (d.updWd k g).ao = d.ao := rfl
@[simp] theorem Device.updWd_dma (d : Device) (k : Fin 9) (g : Wdt → Wdt) : (d.updWd k g).dma = d.dma := rfl
@[simp] theorem Device.updWd_tlm (d : Device) (k : Fin 9) (g : Wdt → Wdt) : (d.updWd k g).tlm = d.tlm := rfl
@[simp] theorem Device.updWd_pmc (d : Device) (k : Fin 9) (g : Wdt → Wdt) : (d.updWd k g).pmc = d.pmc := rfl
@[simp] theorem Device.updWd_syn (d : Device) (k : Fin 9) (g : Wdt → Wdt) : (d.updWd k g).syn = d.syn := rfl
@[simp] theorem Device.updWd_pcie (d : Device) (k : Fin 9) (g : Wdt → Wdt) : (d.updWd k g).pcie = d.pcie := rfl
@[simp] theorem Device.updWd_i3c (d : Device) (k : Fin 9) (g : Wdt → Wdt) : (d.updWd k g).i3c = d.i3c := rfl
@[simp] theorem Device.updWd_spi (d : Device) (k : Fin 9) (g : Wdt → Wdt) : (d.updWd k g).spi = d.spi := rfl
@[simp] theorem Device.updWd_otp (d : Device) (k : Fin 9) (g : Wdt → Wdt) : (d.updWd k g).otp = d.otp := rfl
@[simp] theorem Device.updWd_hkc (d : Device) (k : Fin 9) (g : Wdt → Wdt) : (d.updWd k g).hkc = d.hkc := rfl
@[simp] theorem Device.updWd_claims (d : Device) (k : Fin 9) (g : Wdt → Wdt) : (d.updWd k g).claims = d.claims := rfl
@[simp] theorem Device.updWd_openRes (d : Device) (k : Fin 9) (g : Wdt → Wdt) : (d.updWd k g).openRes = d.openRes := rfl
@[simp] theorem Device.updWd_safe (d : Device) (k : Fin 9) (g : Wdt → Wdt) : (d.updWd k g).safe = d.safe := rfl
@[simp] theorem Device.updWd_sheet (d : Device) (k : Fin 9) (g : Wdt → Wdt) : (d.updWd k g).sheet = d.sheet := rfl
@[simp] theorem Device.updWd_cntSeq (d : Device) (k : Fin 9) (g : Wdt → Wdt) : (d.updWd k g).cntSeq = d.cntSeq := rfl
@[simp] theorem Device.updWd_ts (d : Device) (k : Fin 9) (g : Wdt → Wdt) : (d.updWd k g).ts = d.ts := rfl
@[simp] theorem Device.updWd_cycle (d : Device) (k : Fin 9) (g : Wdt → Wdt) : (d.updWd k g).cycle = d.cycle := rfl
@[simp] theorem Device.updWd_freeCount (d : Device) (k : Fin 9) (g : Wdt → Wdt) : (d.updWd k g).freeCount = d.freeCount := rfl
@[simp] theorem Device.updWd_out (d : Device) (k : Fin 9) (g : Wdt → Wdt) : (d.updWd k g).out = d.out := rfl

/-! ## withRso -/

@[simp] theorem Device.withRso_regs (d : Device) (g : Rso → Rso) : (d.withRso g).regs = d.regs := rfl
@[simp] theorem Device.withRso_ram (d : Device) (g : Rso → Rso) : (d.withRso g).ram = d.ram := rfl
@[simp] theorem Device.withRso_hdr (d : Device) (g : Rso → Rso) : (d.withRso g).hdr = d.hdr := rfl
@[simp] theorem Device.withRso_boot (d : Device) (g : Rso → Rso) : (d.withRso g).boot = d.boot := rfl
@[simp] theorem Device.withRso_ctx (d : Device) (g : Rso → Rso) : (d.withRso g).ctx = d.ctx := rfl
@[simp] theorem Device.withRso_phase (d : Device) (g : Rso → Rso) : (d.withRso g).phase = d.phase := rfl
@[simp] theorem Device.withRso_loop (d : Device) (g : Rso → Rso) : (d.withRso g).loop = d.loop := rfl
@[simp] theorem Device.withRso_entry (d : Device) (g : Rso → Rso) : (d.withRso g).entry = d.entry := rfl
@[simp] theorem Device.withRso_seq (d : Device) (g : Rso → Rso) : (d.withRso g).seq = d.seq := rfl
@[simp] theorem Device.withRso_rso (d : Device) (g : Rso → Rso) : (d.withRso g).rso = g d.rso := rfl
@[simp] theorem Device.withRso_thm (d : Device) (g : Rso → Rso) : (d.withRso g).thm = d.thm := rfl
@[simp] theorem Device.withRso_flt (d : Device) (g : Rso → Rso) : (d.withRso g).flt = d.flt := rfl
@[simp] theorem Device.withRso_evc (d : Device) (g : Rso → Rso) : (d.withRso g).evc = d.evc := rfl
@[simp] theorem Device.withRso_wdt (d : Device) (g : Rso → Rso) : (d.withRso g).wdt = d.wdt := rfl
@[simp] theorem Device.withRso_hup (d : Device) (g : Rso → Rso) : (d.withRso g).hup = d.hup := rfl
@[simp] theorem Device.withRso_chg (d : Device) (g : Rso → Rso) : (d.withRso g).chg = d.chg := rfl
@[simp] theorem Device.withRso_gau (d : Device) (g : Rso → Rso) : (d.withRso g).gau = d.gau := rfl
@[simp] theorem Device.withRso_ao (d : Device) (g : Rso → Rso) : (d.withRso g).ao = d.ao := rfl
@[simp] theorem Device.withRso_dma (d : Device) (g : Rso → Rso) : (d.withRso g).dma = d.dma := rfl
@[simp] theorem Device.withRso_tlm (d : Device) (g : Rso → Rso) : (d.withRso g).tlm = d.tlm := rfl
@[simp] theorem Device.withRso_pmc (d : Device) (g : Rso → Rso) : (d.withRso g).pmc = d.pmc := rfl
@[simp] theorem Device.withRso_syn (d : Device) (g : Rso → Rso) : (d.withRso g).syn = d.syn := rfl
@[simp] theorem Device.withRso_pcie (d : Device) (g : Rso → Rso) : (d.withRso g).pcie = d.pcie := rfl
@[simp] theorem Device.withRso_i3c (d : Device) (g : Rso → Rso) : (d.withRso g).i3c = d.i3c := rfl
@[simp] theorem Device.withRso_spi (d : Device) (g : Rso → Rso) : (d.withRso g).spi = d.spi := rfl
@[simp] theorem Device.withRso_otp (d : Device) (g : Rso → Rso) : (d.withRso g).otp = d.otp := rfl
@[simp] theorem Device.withRso_hkc (d : Device) (g : Rso → Rso) : (d.withRso g).hkc = d.hkc := rfl
@[simp] theorem Device.withRso_claims (d : Device) (g : Rso → Rso) : (d.withRso g).claims = d.claims := rfl
@[simp] theorem Device.withRso_openRes (d : Device) (g : Rso → Rso) : (d.withRso g).openRes = d.openRes := rfl
@[simp] theorem Device.withRso_safe (d : Device) (g : Rso → Rso) : (d.withRso g).safe = d.safe := rfl
@[simp] theorem Device.withRso_sheet (d : Device) (g : Rso → Rso) : (d.withRso g).sheet = d.sheet := rfl
@[simp] theorem Device.withRso_cntSeq (d : Device) (g : Rso → Rso) : (d.withRso g).cntSeq = d.cntSeq := rfl
@[simp] theorem Device.withRso_ts (d : Device) (g : Rso → Rso) : (d.withRso g).ts = d.ts := rfl
@[simp] theorem Device.withRso_cycle (d : Device) (g : Rso → Rso) : (d.withRso g).cycle = d.cycle := rfl
@[simp] theorem Device.withRso_freeCount (d : Device) (g : Rso → Rso) : (d.withRso g).freeCount = d.freeCount := rfl
@[simp] theorem Device.withRso_out (d : Device) (g : Rso → Rso) : (d.withRso g).out = d.out := rfl

/-! ## updHup -/

@[simp] theorem Device.updHup_regs (d : Device) (g : Hup → Hup) : (d.updHup g).regs = d.regs := rfl
@[simp] theorem Device.updHup_ram (d : Device) (g : Hup → Hup) : (d.updHup g).ram = d.ram := rfl
@[simp] theorem Device.updHup_hdr (d : Device) (g : Hup → Hup) : (d.updHup g).hdr = d.hdr := rfl
@[simp] theorem Device.updHup_boot (d : Device) (g : Hup → Hup) : (d.updHup g).boot = d.boot := rfl
@[simp] theorem Device.updHup_ctx (d : Device) (g : Hup → Hup) : (d.updHup g).ctx = d.ctx := rfl
@[simp] theorem Device.updHup_phase (d : Device) (g : Hup → Hup) : (d.updHup g).phase = d.phase := rfl
@[simp] theorem Device.updHup_loop (d : Device) (g : Hup → Hup) : (d.updHup g).loop = d.loop := rfl
@[simp] theorem Device.updHup_entry (d : Device) (g : Hup → Hup) : (d.updHup g).entry = d.entry := rfl
@[simp] theorem Device.updHup_seq (d : Device) (g : Hup → Hup) : (d.updHup g).seq = d.seq := rfl
@[simp] theorem Device.updHup_rso (d : Device) (g : Hup → Hup) : (d.updHup g).rso = d.rso := rfl
@[simp] theorem Device.updHup_thm (d : Device) (g : Hup → Hup) : (d.updHup g).thm = d.thm := rfl
@[simp] theorem Device.updHup_flt (d : Device) (g : Hup → Hup) : (d.updHup g).flt = d.flt := rfl
@[simp] theorem Device.updHup_evc (d : Device) (g : Hup → Hup) : (d.updHup g).evc = d.evc := rfl
@[simp] theorem Device.updHup_wdt (d : Device) (g : Hup → Hup) : (d.updHup g).wdt = d.wdt := rfl
@[simp] theorem Device.updHup_hup (d : Device) (g : Hup → Hup) : (d.updHup g).hup = g d.hup := rfl
@[simp] theorem Device.updHup_chg (d : Device) (g : Hup → Hup) : (d.updHup g).chg = d.chg := rfl
@[simp] theorem Device.updHup_gau (d : Device) (g : Hup → Hup) : (d.updHup g).gau = d.gau := rfl
@[simp] theorem Device.updHup_ao (d : Device) (g : Hup → Hup) : (d.updHup g).ao = d.ao := rfl
@[simp] theorem Device.updHup_dma (d : Device) (g : Hup → Hup) : (d.updHup g).dma = d.dma := rfl
@[simp] theorem Device.updHup_tlm (d : Device) (g : Hup → Hup) : (d.updHup g).tlm = d.tlm := rfl
@[simp] theorem Device.updHup_pmc (d : Device) (g : Hup → Hup) : (d.updHup g).pmc = d.pmc := rfl
@[simp] theorem Device.updHup_syn (d : Device) (g : Hup → Hup) : (d.updHup g).syn = d.syn := rfl
@[simp] theorem Device.updHup_pcie (d : Device) (g : Hup → Hup) : (d.updHup g).pcie = d.pcie := rfl
@[simp] theorem Device.updHup_i3c (d : Device) (g : Hup → Hup) : (d.updHup g).i3c = d.i3c := rfl
@[simp] theorem Device.updHup_spi (d : Device) (g : Hup → Hup) : (d.updHup g).spi = d.spi := rfl
@[simp] theorem Device.updHup_otp (d : Device) (g : Hup → Hup) : (d.updHup g).otp = d.otp := rfl
@[simp] theorem Device.updHup_hkc (d : Device) (g : Hup → Hup) : (d.updHup g).hkc = d.hkc := rfl
@[simp] theorem Device.updHup_claims (d : Device) (g : Hup → Hup) : (d.updHup g).claims = d.claims := rfl
@[simp] theorem Device.updHup_openRes (d : Device) (g : Hup → Hup) : (d.updHup g).openRes = d.openRes := rfl
@[simp] theorem Device.updHup_safe (d : Device) (g : Hup → Hup) : (d.updHup g).safe = d.safe := rfl
@[simp] theorem Device.updHup_sheet (d : Device) (g : Hup → Hup) : (d.updHup g).sheet = d.sheet := rfl
@[simp] theorem Device.updHup_cntSeq (d : Device) (g : Hup → Hup) : (d.updHup g).cntSeq = d.cntSeq := rfl
@[simp] theorem Device.updHup_ts (d : Device) (g : Hup → Hup) : (d.updHup g).ts = d.ts := rfl
@[simp] theorem Device.updHup_cycle (d : Device) (g : Hup → Hup) : (d.updHup g).cycle = d.cycle := rfl
@[simp] theorem Device.updHup_freeCount (d : Device) (g : Hup → Hup) : (d.updHup g).freeCount = d.freeCount := rfl
@[simp] theorem Device.updHup_out (d : Device) (g : Hup → Hup) : (d.updHup g).out = d.out := rfl

/-! ## updChg -/

@[simp] theorem Device.updChg_regs (d : Device) (g : Chg → Chg) : (d.updChg g).regs = d.regs := rfl
@[simp] theorem Device.updChg_ram (d : Device) (g : Chg → Chg) : (d.updChg g).ram = d.ram := rfl
@[simp] theorem Device.updChg_hdr (d : Device) (g : Chg → Chg) : (d.updChg g).hdr = d.hdr := rfl
@[simp] theorem Device.updChg_boot (d : Device) (g : Chg → Chg) : (d.updChg g).boot = d.boot := rfl
@[simp] theorem Device.updChg_ctx (d : Device) (g : Chg → Chg) : (d.updChg g).ctx = d.ctx := rfl
@[simp] theorem Device.updChg_phase (d : Device) (g : Chg → Chg) : (d.updChg g).phase = d.phase := rfl
@[simp] theorem Device.updChg_loop (d : Device) (g : Chg → Chg) : (d.updChg g).loop = d.loop := rfl
@[simp] theorem Device.updChg_entry (d : Device) (g : Chg → Chg) : (d.updChg g).entry = d.entry := rfl
@[simp] theorem Device.updChg_seq (d : Device) (g : Chg → Chg) : (d.updChg g).seq = d.seq := rfl
@[simp] theorem Device.updChg_rso (d : Device) (g : Chg → Chg) : (d.updChg g).rso = d.rso := rfl
@[simp] theorem Device.updChg_thm (d : Device) (g : Chg → Chg) : (d.updChg g).thm = d.thm := rfl
@[simp] theorem Device.updChg_flt (d : Device) (g : Chg → Chg) : (d.updChg g).flt = d.flt := rfl
@[simp] theorem Device.updChg_evc (d : Device) (g : Chg → Chg) : (d.updChg g).evc = d.evc := rfl
@[simp] theorem Device.updChg_wdt (d : Device) (g : Chg → Chg) : (d.updChg g).wdt = d.wdt := rfl
@[simp] theorem Device.updChg_hup (d : Device) (g : Chg → Chg) : (d.updChg g).hup = d.hup := rfl
@[simp] theorem Device.updChg_chg (d : Device) (g : Chg → Chg) : (d.updChg g).chg = g d.chg := rfl
@[simp] theorem Device.updChg_gau (d : Device) (g : Chg → Chg) : (d.updChg g).gau = d.gau := rfl
@[simp] theorem Device.updChg_ao (d : Device) (g : Chg → Chg) : (d.updChg g).ao = d.ao := rfl
@[simp] theorem Device.updChg_dma (d : Device) (g : Chg → Chg) : (d.updChg g).dma = d.dma := rfl
@[simp] theorem Device.updChg_tlm (d : Device) (g : Chg → Chg) : (d.updChg g).tlm = d.tlm := rfl
@[simp] theorem Device.updChg_pmc (d : Device) (g : Chg → Chg) : (d.updChg g).pmc = d.pmc := rfl
@[simp] theorem Device.updChg_syn (d : Device) (g : Chg → Chg) : (d.updChg g).syn = d.syn := rfl
@[simp] theorem Device.updChg_pcie (d : Device) (g : Chg → Chg) : (d.updChg g).pcie = d.pcie := rfl
@[simp] theorem Device.updChg_i3c (d : Device) (g : Chg → Chg) : (d.updChg g).i3c = d.i3c := rfl
@[simp] theorem Device.updChg_spi (d : Device) (g : Chg → Chg) : (d.updChg g).spi = d.spi := rfl
@[simp] theorem Device.updChg_otp (d : Device) (g : Chg → Chg) : (d.updChg g).otp = d.otp := rfl
@[simp] theorem Device.updChg_hkc (d : Device) (g : Chg → Chg) : (d.updChg g).hkc = d.hkc := rfl
@[simp] theorem Device.updChg_claims (d : Device) (g : Chg → Chg) : (d.updChg g).claims = d.claims := rfl
@[simp] theorem Device.updChg_openRes (d : Device) (g : Chg → Chg) : (d.updChg g).openRes = d.openRes := rfl
@[simp] theorem Device.updChg_safe (d : Device) (g : Chg → Chg) : (d.updChg g).safe = d.safe := rfl
@[simp] theorem Device.updChg_sheet (d : Device) (g : Chg → Chg) : (d.updChg g).sheet = d.sheet := rfl
@[simp] theorem Device.updChg_cntSeq (d : Device) (g : Chg → Chg) : (d.updChg g).cntSeq = d.cntSeq := rfl
@[simp] theorem Device.updChg_ts (d : Device) (g : Chg → Chg) : (d.updChg g).ts = d.ts := rfl
@[simp] theorem Device.updChg_cycle (d : Device) (g : Chg → Chg) : (d.updChg g).cycle = d.cycle := rfl
@[simp] theorem Device.updChg_freeCount (d : Device) (g : Chg → Chg) : (d.updChg g).freeCount = d.freeCount := rfl
@[simp] theorem Device.updChg_out (d : Device) (g : Chg → Chg) : (d.updChg g).out = d.out := rfl

/-! ## updGau -/

@[simp] theorem Device.updGau_regs (d : Device) (g : Gauge → Gauge) : (d.updGau g).regs = d.regs := rfl
@[simp] theorem Device.updGau_ram (d : Device) (g : Gauge → Gauge) : (d.updGau g).ram = d.ram := rfl
@[simp] theorem Device.updGau_hdr (d : Device) (g : Gauge → Gauge) : (d.updGau g).hdr = d.hdr := rfl
@[simp] theorem Device.updGau_boot (d : Device) (g : Gauge → Gauge) : (d.updGau g).boot = d.boot := rfl
@[simp] theorem Device.updGau_ctx (d : Device) (g : Gauge → Gauge) : (d.updGau g).ctx = d.ctx := rfl
@[simp] theorem Device.updGau_phase (d : Device) (g : Gauge → Gauge) : (d.updGau g).phase = d.phase := rfl
@[simp] theorem Device.updGau_loop (d : Device) (g : Gauge → Gauge) : (d.updGau g).loop = d.loop := rfl
@[simp] theorem Device.updGau_entry (d : Device) (g : Gauge → Gauge) : (d.updGau g).entry = d.entry := rfl
@[simp] theorem Device.updGau_seq (d : Device) (g : Gauge → Gauge) : (d.updGau g).seq = d.seq := rfl
@[simp] theorem Device.updGau_rso (d : Device) (g : Gauge → Gauge) : (d.updGau g).rso = d.rso := rfl
@[simp] theorem Device.updGau_thm (d : Device) (g : Gauge → Gauge) : (d.updGau g).thm = d.thm := rfl
@[simp] theorem Device.updGau_flt (d : Device) (g : Gauge → Gauge) : (d.updGau g).flt = d.flt := rfl
@[simp] theorem Device.updGau_evc (d : Device) (g : Gauge → Gauge) : (d.updGau g).evc = d.evc := rfl
@[simp] theorem Device.updGau_wdt (d : Device) (g : Gauge → Gauge) : (d.updGau g).wdt = d.wdt := rfl
@[simp] theorem Device.updGau_hup (d : Device) (g : Gauge → Gauge) : (d.updGau g).hup = d.hup := rfl
@[simp] theorem Device.updGau_chg (d : Device) (g : Gauge → Gauge) : (d.updGau g).chg = d.chg := rfl
@[simp] theorem Device.updGau_gau (d : Device) (g : Gauge → Gauge) : (d.updGau g).gau = g d.gau := rfl
@[simp] theorem Device.updGau_ao (d : Device) (g : Gauge → Gauge) : (d.updGau g).ao = d.ao := rfl
@[simp] theorem Device.updGau_dma (d : Device) (g : Gauge → Gauge) : (d.updGau g).dma = d.dma := rfl
@[simp] theorem Device.updGau_tlm (d : Device) (g : Gauge → Gauge) : (d.updGau g).tlm = d.tlm := rfl
@[simp] theorem Device.updGau_pmc (d : Device) (g : Gauge → Gauge) : (d.updGau g).pmc = d.pmc := rfl
@[simp] theorem Device.updGau_syn (d : Device) (g : Gauge → Gauge) : (d.updGau g).syn = d.syn := rfl
@[simp] theorem Device.updGau_pcie (d : Device) (g : Gauge → Gauge) : (d.updGau g).pcie = d.pcie := rfl
@[simp] theorem Device.updGau_i3c (d : Device) (g : Gauge → Gauge) : (d.updGau g).i3c = d.i3c := rfl
@[simp] theorem Device.updGau_spi (d : Device) (g : Gauge → Gauge) : (d.updGau g).spi = d.spi := rfl
@[simp] theorem Device.updGau_otp (d : Device) (g : Gauge → Gauge) : (d.updGau g).otp = d.otp := rfl
@[simp] theorem Device.updGau_hkc (d : Device) (g : Gauge → Gauge) : (d.updGau g).hkc = d.hkc := rfl
@[simp] theorem Device.updGau_claims (d : Device) (g : Gauge → Gauge) : (d.updGau g).claims = d.claims := rfl
@[simp] theorem Device.updGau_openRes (d : Device) (g : Gauge → Gauge) : (d.updGau g).openRes = d.openRes := rfl
@[simp] theorem Device.updGau_safe (d : Device) (g : Gauge → Gauge) : (d.updGau g).safe = d.safe := rfl
@[simp] theorem Device.updGau_sheet (d : Device) (g : Gauge → Gauge) : (d.updGau g).sheet = d.sheet := rfl
@[simp] theorem Device.updGau_cntSeq (d : Device) (g : Gauge → Gauge) : (d.updGau g).cntSeq = d.cntSeq := rfl
@[simp] theorem Device.updGau_ts (d : Device) (g : Gauge → Gauge) : (d.updGau g).ts = d.ts := rfl
@[simp] theorem Device.updGau_cycle (d : Device) (g : Gauge → Gauge) : (d.updGau g).cycle = d.cycle := rfl
@[simp] theorem Device.updGau_freeCount (d : Device) (g : Gauge → Gauge) : (d.updGau g).freeCount = d.freeCount := rfl
@[simp] theorem Device.updGau_out (d : Device) (g : Gauge → Gauge) : (d.updGau g).out = d.out := rfl

/-! ## updDma -/

@[simp] theorem Device.updDma_regs (d : Device) (g : Dma → Dma) : (d.updDma g).regs = d.regs := rfl
@[simp] theorem Device.updDma_ram (d : Device) (g : Dma → Dma) : (d.updDma g).ram = d.ram := rfl
@[simp] theorem Device.updDma_hdr (d : Device) (g : Dma → Dma) : (d.updDma g).hdr = d.hdr := rfl
@[simp] theorem Device.updDma_boot (d : Device) (g : Dma → Dma) : (d.updDma g).boot = d.boot := rfl
@[simp] theorem Device.updDma_ctx (d : Device) (g : Dma → Dma) : (d.updDma g).ctx = d.ctx := rfl
@[simp] theorem Device.updDma_phase (d : Device) (g : Dma → Dma) : (d.updDma g).phase = d.phase := rfl
@[simp] theorem Device.updDma_loop (d : Device) (g : Dma → Dma) : (d.updDma g).loop = d.loop := rfl
@[simp] theorem Device.updDma_entry (d : Device) (g : Dma → Dma) : (d.updDma g).entry = d.entry := rfl
@[simp] theorem Device.updDma_seq (d : Device) (g : Dma → Dma) : (d.updDma g).seq = d.seq := rfl
@[simp] theorem Device.updDma_rso (d : Device) (g : Dma → Dma) : (d.updDma g).rso = d.rso := rfl
@[simp] theorem Device.updDma_thm (d : Device) (g : Dma → Dma) : (d.updDma g).thm = d.thm := rfl
@[simp] theorem Device.updDma_flt (d : Device) (g : Dma → Dma) : (d.updDma g).flt = d.flt := rfl
@[simp] theorem Device.updDma_evc (d : Device) (g : Dma → Dma) : (d.updDma g).evc = d.evc := rfl
@[simp] theorem Device.updDma_wdt (d : Device) (g : Dma → Dma) : (d.updDma g).wdt = d.wdt := rfl
@[simp] theorem Device.updDma_hup (d : Device) (g : Dma → Dma) : (d.updDma g).hup = d.hup := rfl
@[simp] theorem Device.updDma_chg (d : Device) (g : Dma → Dma) : (d.updDma g).chg = d.chg := rfl
@[simp] theorem Device.updDma_gau (d : Device) (g : Dma → Dma) : (d.updDma g).gau = d.gau := rfl
@[simp] theorem Device.updDma_ao (d : Device) (g : Dma → Dma) : (d.updDma g).ao = d.ao := rfl
@[simp] theorem Device.updDma_dma (d : Device) (g : Dma → Dma) : (d.updDma g).dma = g d.dma := rfl
@[simp] theorem Device.updDma_tlm (d : Device) (g : Dma → Dma) : (d.updDma g).tlm = d.tlm := rfl
@[simp] theorem Device.updDma_pmc (d : Device) (g : Dma → Dma) : (d.updDma g).pmc = d.pmc := rfl
@[simp] theorem Device.updDma_syn (d : Device) (g : Dma → Dma) : (d.updDma g).syn = d.syn := rfl
@[simp] theorem Device.updDma_pcie (d : Device) (g : Dma → Dma) : (d.updDma g).pcie = d.pcie := rfl
@[simp] theorem Device.updDma_i3c (d : Device) (g : Dma → Dma) : (d.updDma g).i3c = d.i3c := rfl
@[simp] theorem Device.updDma_spi (d : Device) (g : Dma → Dma) : (d.updDma g).spi = d.spi := rfl
@[simp] theorem Device.updDma_otp (d : Device) (g : Dma → Dma) : (d.updDma g).otp = d.otp := rfl
@[simp] theorem Device.updDma_hkc (d : Device) (g : Dma → Dma) : (d.updDma g).hkc = d.hkc := rfl
@[simp] theorem Device.updDma_claims (d : Device) (g : Dma → Dma) : (d.updDma g).claims = d.claims := rfl
@[simp] theorem Device.updDma_openRes (d : Device) (g : Dma → Dma) : (d.updDma g).openRes = d.openRes := rfl
@[simp] theorem Device.updDma_safe (d : Device) (g : Dma → Dma) : (d.updDma g).safe = d.safe := rfl
@[simp] theorem Device.updDma_sheet (d : Device) (g : Dma → Dma) : (d.updDma g).sheet = d.sheet := rfl
@[simp] theorem Device.updDma_cntSeq (d : Device) (g : Dma → Dma) : (d.updDma g).cntSeq = d.cntSeq := rfl
@[simp] theorem Device.updDma_ts (d : Device) (g : Dma → Dma) : (d.updDma g).ts = d.ts := rfl
@[simp] theorem Device.updDma_cycle (d : Device) (g : Dma → Dma) : (d.updDma g).cycle = d.cycle := rfl
@[simp] theorem Device.updDma_freeCount (d : Device) (g : Dma → Dma) : (d.updDma g).freeCount = d.freeCount := rfl
@[simp] theorem Device.updDma_out (d : Device) (g : Dma → Dma) : (d.updDma g).out = d.out := rfl

/-! ## updRg -/

@[simp] theorem Device.updRg_regs (d : Device) (r : Fin 32) (g : Ring → Ring) : (d.updRg r g).regs = d.regs := rfl
@[simp] theorem Device.updRg_ram (d : Device) (r : Fin 32) (g : Ring → Ring) : (d.updRg r g).ram = d.ram := rfl
@[simp] theorem Device.updRg_hdr (d : Device) (r : Fin 32) (g : Ring → Ring) : (d.updRg r g).hdr = d.hdr := rfl
@[simp] theorem Device.updRg_boot (d : Device) (r : Fin 32) (g : Ring → Ring) : (d.updRg r g).boot = d.boot := rfl
@[simp] theorem Device.updRg_ctx (d : Device) (r : Fin 32) (g : Ring → Ring) : (d.updRg r g).ctx = d.ctx := rfl
@[simp] theorem Device.updRg_phase (d : Device) (r : Fin 32) (g : Ring → Ring) : (d.updRg r g).phase = d.phase := rfl
@[simp] theorem Device.updRg_loop (d : Device) (r : Fin 32) (g : Ring → Ring) : (d.updRg r g).loop = d.loop := rfl
@[simp] theorem Device.updRg_entry (d : Device) (r : Fin 32) (g : Ring → Ring) : (d.updRg r g).entry = d.entry := rfl
@[simp] theorem Device.updRg_seq (d : Device) (r : Fin 32) (g : Ring → Ring) : (d.updRg r g).seq = d.seq := rfl
@[simp] theorem Device.updRg_rso (d : Device) (r : Fin 32) (g : Ring → Ring) : (d.updRg r g).rso = d.rso := rfl
@[simp] theorem Device.updRg_thm (d : Device) (r : Fin 32) (g : Ring → Ring) : (d.updRg r g).thm = d.thm := rfl
@[simp] theorem Device.updRg_flt (d : Device) (r : Fin 32) (g : Ring → Ring) : (d.updRg r g).flt = d.flt := rfl
@[simp] theorem Device.updRg_evc (d : Device) (r : Fin 32) (g : Ring → Ring) : (d.updRg r g).evc = d.evc := rfl
@[simp] theorem Device.updRg_wdt (d : Device) (r : Fin 32) (g : Ring → Ring) : (d.updRg r g).wdt = d.wdt := rfl
@[simp] theorem Device.updRg_hup (d : Device) (r : Fin 32) (g : Ring → Ring) : (d.updRg r g).hup = d.hup := rfl
@[simp] theorem Device.updRg_chg (d : Device) (r : Fin 32) (g : Ring → Ring) : (d.updRg r g).chg = d.chg := rfl
@[simp] theorem Device.updRg_gau (d : Device) (r : Fin 32) (g : Ring → Ring) : (d.updRg r g).gau = d.gau := rfl
@[simp] theorem Device.updRg_ao (d : Device) (r : Fin 32) (g : Ring → Ring) : (d.updRg r g).ao = d.ao := rfl
@[simp] theorem Device.updRg_dma (d : Device) (r : Fin 32) (g : Ring → Ring) : (d.updRg r g).dma = { d.dma with ring := upd d.dma.ring r g } := rfl
@[simp] theorem Device.updRg_tlm (d : Device) (r : Fin 32) (g : Ring → Ring) : (d.updRg r g).tlm = d.tlm := rfl
@[simp] theorem Device.updRg_pmc (d : Device) (r : Fin 32) (g : Ring → Ring) : (d.updRg r g).pmc = d.pmc := rfl
@[simp] theorem Device.updRg_syn (d : Device) (r : Fin 32) (g : Ring → Ring) : (d.updRg r g).syn = d.syn := rfl
@[simp] theorem Device.updRg_pcie (d : Device) (r : Fin 32) (g : Ring → Ring) : (d.updRg r g).pcie = d.pcie := rfl
@[simp] theorem Device.updRg_i3c (d : Device) (r : Fin 32) (g : Ring → Ring) : (d.updRg r g).i3c = d.i3c := rfl
@[simp] theorem Device.updRg_spi (d : Device) (r : Fin 32) (g : Ring → Ring) : (d.updRg r g).spi = d.spi := rfl
@[simp] theorem Device.updRg_otp (d : Device) (r : Fin 32) (g : Ring → Ring) : (d.updRg r g).otp = d.otp := rfl
@[simp] theorem Device.updRg_hkc (d : Device) (r : Fin 32) (g : Ring → Ring) : (d.updRg r g).hkc = d.hkc := rfl
@[simp] theorem Device.updRg_claims (d : Device) (r : Fin 32) (g : Ring → Ring) : (d.updRg r g).claims = d.claims := rfl
@[simp] theorem Device.updRg_openRes (d : Device) (r : Fin 32) (g : Ring → Ring) : (d.updRg r g).openRes = d.openRes := rfl
@[simp] theorem Device.updRg_safe (d : Device) (r : Fin 32) (g : Ring → Ring) : (d.updRg r g).safe = d.safe := rfl
@[simp] theorem Device.updRg_sheet (d : Device) (r : Fin 32) (g : Ring → Ring) : (d.updRg r g).sheet = d.sheet := rfl
@[simp] theorem Device.updRg_cntSeq (d : Device) (r : Fin 32) (g : Ring → Ring) : (d.updRg r g).cntSeq = d.cntSeq := rfl
@[simp] theorem Device.updRg_ts (d : Device) (r : Fin 32) (g : Ring → Ring) : (d.updRg r g).ts = d.ts := rfl
@[simp] theorem Device.updRg_cycle (d : Device) (r : Fin 32) (g : Ring → Ring) : (d.updRg r g).cycle = d.cycle := rfl
@[simp] theorem Device.updRg_freeCount (d : Device) (r : Fin 32) (g : Ring → Ring) : (d.updRg r g).freeCount = d.freeCount := rfl
@[simp] theorem Device.updRg_out (d : Device) (r : Fin 32) (g : Ring → Ring) : (d.updRg r g).out = d.out := rfl

/-! ## updXlt -/

@[simp] theorem Device.updXlt_regs (d : Device) (g : Xlt → Xlt) : (d.updXlt g).regs = d.regs := rfl
@[simp] theorem Device.updXlt_ram (d : Device) (g : Xlt → Xlt) : (d.updXlt g).ram = d.ram := rfl
@[simp] theorem Device.updXlt_hdr (d : Device) (g : Xlt → Xlt) : (d.updXlt g).hdr = d.hdr := rfl
@[simp] theorem Device.updXlt_boot (d : Device) (g : Xlt → Xlt) : (d.updXlt g).boot = d.boot := rfl
@[simp] theorem Device.updXlt_ctx (d : Device) (g : Xlt → Xlt) : (d.updXlt g).ctx = d.ctx := rfl
@[simp] theorem Device.updXlt_phase (d : Device) (g : Xlt → Xlt) : (d.updXlt g).phase = d.phase := rfl
@[simp] theorem Device.updXlt_loop (d : Device) (g : Xlt → Xlt) : (d.updXlt g).loop = d.loop := rfl
@[simp] theorem Device.updXlt_entry (d : Device) (g : Xlt → Xlt) : (d.updXlt g).entry = d.entry := rfl
@[simp] theorem Device.updXlt_seq (d : Device) (g : Xlt → Xlt) : (d.updXlt g).seq = d.seq := rfl
@[simp] theorem Device.updXlt_rso (d : Device) (g : Xlt → Xlt) : (d.updXlt g).rso = d.rso := rfl
@[simp] theorem Device.updXlt_thm (d : Device) (g : Xlt → Xlt) : (d.updXlt g).thm = d.thm := rfl
@[simp] theorem Device.updXlt_flt (d : Device) (g : Xlt → Xlt) : (d.updXlt g).flt = d.flt := rfl
@[simp] theorem Device.updXlt_evc (d : Device) (g : Xlt → Xlt) : (d.updXlt g).evc = d.evc := rfl
@[simp] theorem Device.updXlt_wdt (d : Device) (g : Xlt → Xlt) : (d.updXlt g).wdt = d.wdt := rfl
@[simp] theorem Device.updXlt_hup (d : Device) (g : Xlt → Xlt) : (d.updXlt g).hup = d.hup := rfl
@[simp] theorem Device.updXlt_chg (d : Device) (g : Xlt → Xlt) : (d.updXlt g).chg = d.chg := rfl
@[simp] theorem Device.updXlt_gau (d : Device) (g : Xlt → Xlt) : (d.updXlt g).gau = d.gau := rfl
@[simp] theorem Device.updXlt_ao (d : Device) (g : Xlt → Xlt) : (d.updXlt g).ao = d.ao := rfl
@[simp] theorem Device.updXlt_dma (d : Device) (g : Xlt → Xlt) : (d.updXlt g).dma = { d.dma with xlt := g d.dma.xlt } := rfl
@[simp] theorem Device.updXlt_tlm (d : Device) (g : Xlt → Xlt) : (d.updXlt g).tlm = d.tlm := rfl
@[simp] theorem Device.updXlt_pmc (d : Device) (g : Xlt → Xlt) : (d.updXlt g).pmc = d.pmc := rfl
@[simp] theorem Device.updXlt_syn (d : Device) (g : Xlt → Xlt) : (d.updXlt g).syn = d.syn := rfl
@[simp] theorem Device.updXlt_pcie (d : Device) (g : Xlt → Xlt) : (d.updXlt g).pcie = d.pcie := rfl
@[simp] theorem Device.updXlt_i3c (d : Device) (g : Xlt → Xlt) : (d.updXlt g).i3c = d.i3c := rfl
@[simp] theorem Device.updXlt_spi (d : Device) (g : Xlt → Xlt) : (d.updXlt g).spi = d.spi := rfl
@[simp] theorem Device.updXlt_otp (d : Device) (g : Xlt → Xlt) : (d.updXlt g).otp = d.otp := rfl
@[simp] theorem Device.updXlt_hkc (d : Device) (g : Xlt → Xlt) : (d.updXlt g).hkc = d.hkc := rfl
@[simp] theorem Device.updXlt_claims (d : Device) (g : Xlt → Xlt) : (d.updXlt g).claims = d.claims := rfl
@[simp] theorem Device.updXlt_openRes (d : Device) (g : Xlt → Xlt) : (d.updXlt g).openRes = d.openRes := rfl
@[simp] theorem Device.updXlt_safe (d : Device) (g : Xlt → Xlt) : (d.updXlt g).safe = d.safe := rfl
@[simp] theorem Device.updXlt_sheet (d : Device) (g : Xlt → Xlt) : (d.updXlt g).sheet = d.sheet := rfl
@[simp] theorem Device.updXlt_cntSeq (d : Device) (g : Xlt → Xlt) : (d.updXlt g).cntSeq = d.cntSeq := rfl
@[simp] theorem Device.updXlt_ts (d : Device) (g : Xlt → Xlt) : (d.updXlt g).ts = d.ts := rfl
@[simp] theorem Device.updXlt_cycle (d : Device) (g : Xlt → Xlt) : (d.updXlt g).cycle = d.cycle := rfl
@[simp] theorem Device.updXlt_freeCount (d : Device) (g : Xlt → Xlt) : (d.updXlt g).freeCount = d.freeCount := rfl
@[simp] theorem Device.updXlt_out (d : Device) (g : Xlt → Xlt) : (d.updXlt g).out = d.out := rfl

/-! ## updTg -/

@[simp] theorem Device.updTg_regs (d : Device) (t : Fin 9) (g : EvTarget → EvTarget) : (d.updTg t g).regs = d.regs := rfl
@[simp] theorem Device.updTg_ram (d : Device) (t : Fin 9) (g : EvTarget → EvTarget) : (d.updTg t g).ram = d.ram := rfl
@[simp] theorem Device.updTg_hdr (d : Device) (t : Fin 9) (g : EvTarget → EvTarget) : (d.updTg t g).hdr = d.hdr := rfl
@[simp] theorem Device.updTg_boot (d : Device) (t : Fin 9) (g : EvTarget → EvTarget) : (d.updTg t g).boot = d.boot := rfl
@[simp] theorem Device.updTg_ctx (d : Device) (t : Fin 9) (g : EvTarget → EvTarget) : (d.updTg t g).ctx = d.ctx := rfl
@[simp] theorem Device.updTg_phase (d : Device) (t : Fin 9) (g : EvTarget → EvTarget) : (d.updTg t g).phase = d.phase := rfl
@[simp] theorem Device.updTg_loop (d : Device) (t : Fin 9) (g : EvTarget → EvTarget) : (d.updTg t g).loop = d.loop := rfl
@[simp] theorem Device.updTg_entry (d : Device) (t : Fin 9) (g : EvTarget → EvTarget) : (d.updTg t g).entry = d.entry := rfl
@[simp] theorem Device.updTg_seq (d : Device) (t : Fin 9) (g : EvTarget → EvTarget) : (d.updTg t g).seq = d.seq := rfl
@[simp] theorem Device.updTg_rso (d : Device) (t : Fin 9) (g : EvTarget → EvTarget) : (d.updTg t g).rso = d.rso := rfl
@[simp] theorem Device.updTg_thm (d : Device) (t : Fin 9) (g : EvTarget → EvTarget) : (d.updTg t g).thm = d.thm := rfl
@[simp] theorem Device.updTg_flt (d : Device) (t : Fin 9) (g : EvTarget → EvTarget) : (d.updTg t g).flt = d.flt := rfl
@[simp] theorem Device.updTg_evc (d : Device) (t : Fin 9) (g : EvTarget → EvTarget) : (d.updTg t g).evc = { d.evc with tgt := upd d.evc.tgt t g } := rfl
@[simp] theorem Device.updTg_wdt (d : Device) (t : Fin 9) (g : EvTarget → EvTarget) : (d.updTg t g).wdt = d.wdt := rfl
@[simp] theorem Device.updTg_hup (d : Device) (t : Fin 9) (g : EvTarget → EvTarget) : (d.updTg t g).hup = d.hup := rfl
@[simp] theorem Device.updTg_chg (d : Device) (t : Fin 9) (g : EvTarget → EvTarget) : (d.updTg t g).chg = d.chg := rfl
@[simp] theorem Device.updTg_gau (d : Device) (t : Fin 9) (g : EvTarget → EvTarget) : (d.updTg t g).gau = d.gau := rfl
@[simp] theorem Device.updTg_ao (d : Device) (t : Fin 9) (g : EvTarget → EvTarget) : (d.updTg t g).ao = d.ao := rfl
@[simp] theorem Device.updTg_dma (d : Device) (t : Fin 9) (g : EvTarget → EvTarget) : (d.updTg t g).dma = d.dma := rfl
@[simp] theorem Device.updTg_tlm (d : Device) (t : Fin 9) (g : EvTarget → EvTarget) : (d.updTg t g).tlm = d.tlm := rfl
@[simp] theorem Device.updTg_pmc (d : Device) (t : Fin 9) (g : EvTarget → EvTarget) : (d.updTg t g).pmc = d.pmc := rfl
@[simp] theorem Device.updTg_syn (d : Device) (t : Fin 9) (g : EvTarget → EvTarget) : (d.updTg t g).syn = d.syn := rfl
@[simp] theorem Device.updTg_pcie (d : Device) (t : Fin 9) (g : EvTarget → EvTarget) : (d.updTg t g).pcie = d.pcie := rfl
@[simp] theorem Device.updTg_i3c (d : Device) (t : Fin 9) (g : EvTarget → EvTarget) : (d.updTg t g).i3c = d.i3c := rfl
@[simp] theorem Device.updTg_spi (d : Device) (t : Fin 9) (g : EvTarget → EvTarget) : (d.updTg t g).spi = d.spi := rfl
@[simp] theorem Device.updTg_otp (d : Device) (t : Fin 9) (g : EvTarget → EvTarget) : (d.updTg t g).otp = d.otp := rfl
@[simp] theorem Device.updTg_hkc (d : Device) (t : Fin 9) (g : EvTarget → EvTarget) : (d.updTg t g).hkc = d.hkc := rfl
@[simp] theorem Device.updTg_claims (d : Device) (t : Fin 9) (g : EvTarget → EvTarget) : (d.updTg t g).claims = d.claims := rfl
@[simp] theorem Device.updTg_openRes (d : Device) (t : Fin 9) (g : EvTarget → EvTarget) : (d.updTg t g).openRes = d.openRes := rfl
@[simp] theorem Device.updTg_safe (d : Device) (t : Fin 9) (g : EvTarget → EvTarget) : (d.updTg t g).safe = d.safe := rfl
@[simp] theorem Device.updTg_sheet (d : Device) (t : Fin 9) (g : EvTarget → EvTarget) : (d.updTg t g).sheet = d.sheet := rfl
@[simp] theorem Device.updTg_cntSeq (d : Device) (t : Fin 9) (g : EvTarget → EvTarget) : (d.updTg t g).cntSeq = d.cntSeq := rfl
@[simp] theorem Device.updTg_ts (d : Device) (t : Fin 9) (g : EvTarget → EvTarget) : (d.updTg t g).ts = d.ts := rfl
@[simp] theorem Device.updTg_cycle (d : Device) (t : Fin 9) (g : EvTarget → EvTarget) : (d.updTg t g).cycle = d.cycle := rfl
@[simp] theorem Device.updTg_freeCount (d : Device) (t : Fin 9) (g : EvTarget → EvTarget) : (d.updTg t g).freeCount = d.freeCount := rfl
@[simp] theorem Device.updTg_out (d : Device) (t : Fin 9) (g : EvTarget → EvTarget) : (d.updTg t g).out = d.out := rfl

/-! ## updSrc -/

@[simp] theorem Device.updSrc_regs (d : Device) (s : Fin 256) (g : EvSource → EvSource) : (d.updSrc s g).regs = d.regs := rfl
@[simp] theorem Device.updSrc_ram (d : Device) (s : Fin 256) (g : EvSource → EvSource) : (d.updSrc s g).ram = d.ram := rfl
@[simp] theorem Device.updSrc_hdr (d : Device) (s : Fin 256) (g : EvSource → EvSource) : (d.updSrc s g).hdr = d.hdr := rfl
@[simp] theorem Device.updSrc_boot (d : Device) (s : Fin 256) (g : EvSource → EvSource) : (d.updSrc s g).boot = d.boot := rfl
@[simp] theorem Device.updSrc_ctx (d : Device) (s : Fin 256) (g : EvSource → EvSource) : (d.updSrc s g).ctx = d.ctx := rfl
@[simp] theorem Device.updSrc_phase (d : Device) (s : Fin 256) (g : EvSource → EvSource) : (d.updSrc s g).phase = d.phase := rfl
@[simp] theorem Device.updSrc_loop (d : Device) (s : Fin 256) (g : EvSource → EvSource) : (d.updSrc s g).loop = d.loop := rfl
@[simp] theorem Device.updSrc_entry (d : Device) (s : Fin 256) (g : EvSource → EvSource) : (d.updSrc s g).entry = d.entry := rfl
@[simp] theorem Device.updSrc_seq (d : Device) (s : Fin 256) (g : EvSource → EvSource) : (d.updSrc s g).seq = d.seq := rfl
@[simp] theorem Device.updSrc_rso (d : Device) (s : Fin 256) (g : EvSource → EvSource) : (d.updSrc s g).rso = d.rso := rfl
@[simp] theorem Device.updSrc_thm (d : Device) (s : Fin 256) (g : EvSource → EvSource) : (d.updSrc s g).thm = d.thm := rfl
@[simp] theorem Device.updSrc_flt (d : Device) (s : Fin 256) (g : EvSource → EvSource) : (d.updSrc s g).flt = d.flt := rfl
@[simp] theorem Device.updSrc_evc (d : Device) (s : Fin 256) (g : EvSource → EvSource) : (d.updSrc s g).evc = { d.evc with src := upd d.evc.src s g } := rfl
@[simp] theorem Device.updSrc_wdt (d : Device) (s : Fin 256) (g : EvSource → EvSource) : (d.updSrc s g).wdt = d.wdt := rfl
@[simp] theorem Device.updSrc_hup (d : Device) (s : Fin 256) (g : EvSource → EvSource) : (d.updSrc s g).hup = d.hup := rfl
@[simp] theorem Device.updSrc_chg (d : Device) (s : Fin 256) (g : EvSource → EvSource) : (d.updSrc s g).chg = d.chg := rfl
@[simp] theorem Device.updSrc_gau (d : Device) (s : Fin 256) (g : EvSource → EvSource) : (d.updSrc s g).gau = d.gau := rfl
@[simp] theorem Device.updSrc_ao (d : Device) (s : Fin 256) (g : EvSource → EvSource) : (d.updSrc s g).ao = d.ao := rfl
@[simp] theorem Device.updSrc_dma (d : Device) (s : Fin 256) (g : EvSource → EvSource) : (d.updSrc s g).dma = d.dma := rfl
@[simp] theorem Device.updSrc_tlm (d : Device) (s : Fin 256) (g : EvSource → EvSource) : (d.updSrc s g).tlm = d.tlm := rfl
@[simp] theorem Device.updSrc_pmc (d : Device) (s : Fin 256) (g : EvSource → EvSource) : (d.updSrc s g).pmc = d.pmc := rfl
@[simp] theorem Device.updSrc_syn (d : Device) (s : Fin 256) (g : EvSource → EvSource) : (d.updSrc s g).syn = d.syn := rfl
@[simp] theorem Device.updSrc_pcie (d : Device) (s : Fin 256) (g : EvSource → EvSource) : (d.updSrc s g).pcie = d.pcie := rfl
@[simp] theorem Device.updSrc_i3c (d : Device) (s : Fin 256) (g : EvSource → EvSource) : (d.updSrc s g).i3c = d.i3c := rfl
@[simp] theorem Device.updSrc_spi (d : Device) (s : Fin 256) (g : EvSource → EvSource) : (d.updSrc s g).spi = d.spi := rfl
@[simp] theorem Device.updSrc_otp (d : Device) (s : Fin 256) (g : EvSource → EvSource) : (d.updSrc s g).otp = d.otp := rfl
@[simp] theorem Device.updSrc_hkc (d : Device) (s : Fin 256) (g : EvSource → EvSource) : (d.updSrc s g).hkc = d.hkc := rfl
@[simp] theorem Device.updSrc_claims (d : Device) (s : Fin 256) (g : EvSource → EvSource) : (d.updSrc s g).claims = d.claims := rfl
@[simp] theorem Device.updSrc_openRes (d : Device) (s : Fin 256) (g : EvSource → EvSource) : (d.updSrc s g).openRes = d.openRes := rfl
@[simp] theorem Device.updSrc_safe (d : Device) (s : Fin 256) (g : EvSource → EvSource) : (d.updSrc s g).safe = d.safe := rfl
@[simp] theorem Device.updSrc_sheet (d : Device) (s : Fin 256) (g : EvSource → EvSource) : (d.updSrc s g).sheet = d.sheet := rfl
@[simp] theorem Device.updSrc_cntSeq (d : Device) (s : Fin 256) (g : EvSource → EvSource) : (d.updSrc s g).cntSeq = d.cntSeq := rfl
@[simp] theorem Device.updSrc_ts (d : Device) (s : Fin 256) (g : EvSource → EvSource) : (d.updSrc s g).ts = d.ts := rfl
@[simp] theorem Device.updSrc_cycle (d : Device) (s : Fin 256) (g : EvSource → EvSource) : (d.updSrc s g).cycle = d.cycle := rfl
@[simp] theorem Device.updSrc_freeCount (d : Device) (s : Fin 256) (g : EvSource → EvSource) : (d.updSrc s g).freeCount = d.freeCount := rfl
@[simp] theorem Device.updSrc_out (d : Device) (s : Fin 256) (g : EvSource → EvSource) : (d.updSrc s g).out = d.out := rfl

/-! ## updTlm -/

@[simp] theorem Device.updTlm_regs (d : Device) (g : Tlm → Tlm) : (d.updTlm g).regs = d.regs := rfl
@[simp] theorem Device.updTlm_ram (d : Device) (g : Tlm → Tlm) : (d.updTlm g).ram = d.ram := rfl
@[simp] theorem Device.updTlm_hdr (d : Device) (g : Tlm → Tlm) : (d.updTlm g).hdr = d.hdr := rfl
@[simp] theorem Device.updTlm_boot (d : Device) (g : Tlm → Tlm) : (d.updTlm g).boot = d.boot := rfl
@[simp] theorem Device.updTlm_ctx (d : Device) (g : Tlm → Tlm) : (d.updTlm g).ctx = d.ctx := rfl
@[simp] theorem Device.updTlm_phase (d : Device) (g : Tlm → Tlm) : (d.updTlm g).phase = d.phase := rfl
@[simp] theorem Device.updTlm_loop (d : Device) (g : Tlm → Tlm) : (d.updTlm g).loop = d.loop := rfl
@[simp] theorem Device.updTlm_entry (d : Device) (g : Tlm → Tlm) : (d.updTlm g).entry = d.entry := rfl
@[simp] theorem Device.updTlm_seq (d : Device) (g : Tlm → Tlm) : (d.updTlm g).seq = d.seq := rfl
@[simp] theorem Device.updTlm_rso (d : Device) (g : Tlm → Tlm) : (d.updTlm g).rso = d.rso := rfl
@[simp] theorem Device.updTlm_thm (d : Device) (g : Tlm → Tlm) : (d.updTlm g).thm = d.thm := rfl
@[simp] theorem Device.updTlm_flt (d : Device) (g : Tlm → Tlm) : (d.updTlm g).flt = d.flt := rfl
@[simp] theorem Device.updTlm_evc (d : Device) (g : Tlm → Tlm) : (d.updTlm g).evc = d.evc := rfl
@[simp] theorem Device.updTlm_wdt (d : Device) (g : Tlm → Tlm) : (d.updTlm g).wdt = d.wdt := rfl
@[simp] theorem Device.updTlm_hup (d : Device) (g : Tlm → Tlm) : (d.updTlm g).hup = d.hup := rfl
@[simp] theorem Device.updTlm_chg (d : Device) (g : Tlm → Tlm) : (d.updTlm g).chg = d.chg := rfl
@[simp] theorem Device.updTlm_gau (d : Device) (g : Tlm → Tlm) : (d.updTlm g).gau = d.gau := rfl
@[simp] theorem Device.updTlm_ao (d : Device) (g : Tlm → Tlm) : (d.updTlm g).ao = d.ao := rfl
@[simp] theorem Device.updTlm_dma (d : Device) (g : Tlm → Tlm) : (d.updTlm g).dma = d.dma := rfl
@[simp] theorem Device.updTlm_tlm (d : Device) (g : Tlm → Tlm) : (d.updTlm g).tlm = g d.tlm := rfl
@[simp] theorem Device.updTlm_pmc (d : Device) (g : Tlm → Tlm) : (d.updTlm g).pmc = d.pmc := rfl
@[simp] theorem Device.updTlm_syn (d : Device) (g : Tlm → Tlm) : (d.updTlm g).syn = d.syn := rfl
@[simp] theorem Device.updTlm_pcie (d : Device) (g : Tlm → Tlm) : (d.updTlm g).pcie = d.pcie := rfl
@[simp] theorem Device.updTlm_i3c (d : Device) (g : Tlm → Tlm) : (d.updTlm g).i3c = d.i3c := rfl
@[simp] theorem Device.updTlm_spi (d : Device) (g : Tlm → Tlm) : (d.updTlm g).spi = d.spi := rfl
@[simp] theorem Device.updTlm_otp (d : Device) (g : Tlm → Tlm) : (d.updTlm g).otp = d.otp := rfl
@[simp] theorem Device.updTlm_hkc (d : Device) (g : Tlm → Tlm) : (d.updTlm g).hkc = d.hkc := rfl
@[simp] theorem Device.updTlm_claims (d : Device) (g : Tlm → Tlm) : (d.updTlm g).claims = d.claims := rfl
@[simp] theorem Device.updTlm_openRes (d : Device) (g : Tlm → Tlm) : (d.updTlm g).openRes = d.openRes := rfl
@[simp] theorem Device.updTlm_safe (d : Device) (g : Tlm → Tlm) : (d.updTlm g).safe = d.safe := rfl
@[simp] theorem Device.updTlm_sheet (d : Device) (g : Tlm → Tlm) : (d.updTlm g).sheet = d.sheet := rfl
@[simp] theorem Device.updTlm_cntSeq (d : Device) (g : Tlm → Tlm) : (d.updTlm g).cntSeq = d.cntSeq := rfl
@[simp] theorem Device.updTlm_ts (d : Device) (g : Tlm → Tlm) : (d.updTlm g).ts = d.ts := rfl
@[simp] theorem Device.updTlm_cycle (d : Device) (g : Tlm → Tlm) : (d.updTlm g).cycle = d.cycle := rfl
@[simp] theorem Device.updTlm_freeCount (d : Device) (g : Tlm → Tlm) : (d.updTlm g).freeCount = d.freeCount := rfl
@[simp] theorem Device.updTlm_out (d : Device) (g : Tlm → Tlm) : (d.updTlm g).out = d.out := rfl

/-! ## updOtp -/

@[simp] theorem Device.updOtp_regs (d : Device) (g : Otp → Otp) : (d.updOtp g).regs = d.regs := rfl
@[simp] theorem Device.updOtp_ram (d : Device) (g : Otp → Otp) : (d.updOtp g).ram = d.ram := rfl
@[simp] theorem Device.updOtp_hdr (d : Device) (g : Otp → Otp) : (d.updOtp g).hdr = d.hdr := rfl
@[simp] theorem Device.updOtp_boot (d : Device) (g : Otp → Otp) : (d.updOtp g).boot = d.boot := rfl
@[simp] theorem Device.updOtp_ctx (d : Device) (g : Otp → Otp) : (d.updOtp g).ctx = d.ctx := rfl
@[simp] theorem Device.updOtp_phase (d : Device) (g : Otp → Otp) : (d.updOtp g).phase = d.phase := rfl
@[simp] theorem Device.updOtp_loop (d : Device) (g : Otp → Otp) : (d.updOtp g).loop = d.loop := rfl
@[simp] theorem Device.updOtp_entry (d : Device) (g : Otp → Otp) : (d.updOtp g).entry = d.entry := rfl
@[simp] theorem Device.updOtp_seq (d : Device) (g : Otp → Otp) : (d.updOtp g).seq = d.seq := rfl
@[simp] theorem Device.updOtp_rso (d : Device) (g : Otp → Otp) : (d.updOtp g).rso = d.rso := rfl
@[simp] theorem Device.updOtp_thm (d : Device) (g : Otp → Otp) : (d.updOtp g).thm = d.thm := rfl
@[simp] theorem Device.updOtp_flt (d : Device) (g : Otp → Otp) : (d.updOtp g).flt = d.flt := rfl
@[simp] theorem Device.updOtp_evc (d : Device) (g : Otp → Otp) : (d.updOtp g).evc = d.evc := rfl
@[simp] theorem Device.updOtp_wdt (d : Device) (g : Otp → Otp) : (d.updOtp g).wdt = d.wdt := rfl
@[simp] theorem Device.updOtp_hup (d : Device) (g : Otp → Otp) : (d.updOtp g).hup = d.hup := rfl
@[simp] theorem Device.updOtp_chg (d : Device) (g : Otp → Otp) : (d.updOtp g).chg = d.chg := rfl
@[simp] theorem Device.updOtp_gau (d : Device) (g : Otp → Otp) : (d.updOtp g).gau = d.gau := rfl
@[simp] theorem Device.updOtp_ao (d : Device) (g : Otp → Otp) : (d.updOtp g).ao = d.ao := rfl
@[simp] theorem Device.updOtp_dma (d : Device) (g : Otp → Otp) : (d.updOtp g).dma = d.dma := rfl
@[simp] theorem Device.updOtp_tlm (d : Device) (g : Otp → Otp) : (d.updOtp g).tlm = d.tlm := rfl
@[simp] theorem Device.updOtp_pmc (d : Device) (g : Otp → Otp) : (d.updOtp g).pmc = d.pmc := rfl
@[simp] theorem Device.updOtp_syn (d : Device) (g : Otp → Otp) : (d.updOtp g).syn = d.syn := rfl
@[simp] theorem Device.updOtp_pcie (d : Device) (g : Otp → Otp) : (d.updOtp g).pcie = d.pcie := rfl
@[simp] theorem Device.updOtp_i3c (d : Device) (g : Otp → Otp) : (d.updOtp g).i3c = d.i3c := rfl
@[simp] theorem Device.updOtp_spi (d : Device) (g : Otp → Otp) : (d.updOtp g).spi = d.spi := rfl
@[simp] theorem Device.updOtp_otp (d : Device) (g : Otp → Otp) : (d.updOtp g).otp = g d.otp := rfl
@[simp] theorem Device.updOtp_hkc (d : Device) (g : Otp → Otp) : (d.updOtp g).hkc = d.hkc := rfl
@[simp] theorem Device.updOtp_claims (d : Device) (g : Otp → Otp) : (d.updOtp g).claims = d.claims := rfl
@[simp] theorem Device.updOtp_openRes (d : Device) (g : Otp → Otp) : (d.updOtp g).openRes = d.openRes := rfl
@[simp] theorem Device.updOtp_safe (d : Device) (g : Otp → Otp) : (d.updOtp g).safe = d.safe := rfl
@[simp] theorem Device.updOtp_sheet (d : Device) (g : Otp → Otp) : (d.updOtp g).sheet = d.sheet := rfl
@[simp] theorem Device.updOtp_cntSeq (d : Device) (g : Otp → Otp) : (d.updOtp g).cntSeq = d.cntSeq := rfl
@[simp] theorem Device.updOtp_ts (d : Device) (g : Otp → Otp) : (d.updOtp g).ts = d.ts := rfl
@[simp] theorem Device.updOtp_cycle (d : Device) (g : Otp → Otp) : (d.updOtp g).cycle = d.cycle := rfl
@[simp] theorem Device.updOtp_freeCount (d : Device) (g : Otp → Otp) : (d.updOtp g).freeCount = d.freeCount := rfl
@[simp] theorem Device.updOtp_out (d : Device) (g : Otp → Otp) : (d.updOtp g).out = d.out := rfl

/-! ## updPcie -/

@[simp] theorem Device.updPcie_regs (d : Device) (g : Pcie → Pcie) : (d.updPcie g).regs = d.regs := rfl
@[simp] theorem Device.updPcie_ram (d : Device) (g : Pcie → Pcie) : (d.updPcie g).ram = d.ram := rfl
@[simp] theorem Device.updPcie_hdr (d : Device) (g : Pcie → Pcie) : (d.updPcie g).hdr = d.hdr := rfl
@[simp] theorem Device.updPcie_boot (d : Device) (g : Pcie → Pcie) : (d.updPcie g).boot = d.boot := rfl
@[simp] theorem Device.updPcie_ctx (d : Device) (g : Pcie → Pcie) : (d.updPcie g).ctx = d.ctx := rfl
@[simp] theorem Device.updPcie_phase (d : Device) (g : Pcie → Pcie) : (d.updPcie g).phase = d.phase := rfl
@[simp] theorem Device.updPcie_loop (d : Device) (g : Pcie → Pcie) : (d.updPcie g).loop = d.loop := rfl
@[simp] theorem Device.updPcie_entry (d : Device) (g : Pcie → Pcie) : (d.updPcie g).entry = d.entry := rfl
@[simp] theorem Device.updPcie_seq (d : Device) (g : Pcie → Pcie) : (d.updPcie g).seq = d.seq := rfl
@[simp] theorem Device.updPcie_rso (d : Device) (g : Pcie → Pcie) : (d.updPcie g).rso = d.rso := rfl
@[simp] theorem Device.updPcie_thm (d : Device) (g : Pcie → Pcie) : (d.updPcie g).thm = d.thm := rfl
@[simp] theorem Device.updPcie_flt (d : Device) (g : Pcie → Pcie) : (d.updPcie g).flt = d.flt := rfl
@[simp] theorem Device.updPcie_evc (d : Device) (g : Pcie → Pcie) : (d.updPcie g).evc = d.evc := rfl
@[simp] theorem Device.updPcie_wdt (d : Device) (g : Pcie → Pcie) : (d.updPcie g).wdt = d.wdt := rfl
@[simp] theorem Device.updPcie_hup (d : Device) (g : Pcie → Pcie) : (d.updPcie g).hup = d.hup := rfl
@[simp] theorem Device.updPcie_chg (d : Device) (g : Pcie → Pcie) : (d.updPcie g).chg = d.chg := rfl
@[simp] theorem Device.updPcie_gau (d : Device) (g : Pcie → Pcie) : (d.updPcie g).gau = d.gau := rfl
@[simp] theorem Device.updPcie_ao (d : Device) (g : Pcie → Pcie) : (d.updPcie g).ao = d.ao := rfl
@[simp] theorem Device.updPcie_dma (d : Device) (g : Pcie → Pcie) : (d.updPcie g).dma = d.dma := rfl
@[simp] theorem Device.updPcie_tlm (d : Device) (g : Pcie → Pcie) : (d.updPcie g).tlm = d.tlm := rfl
@[simp] theorem Device.updPcie_pmc (d : Device) (g : Pcie → Pcie) : (d.updPcie g).pmc = d.pmc := rfl
@[simp] theorem Device.updPcie_syn (d : Device) (g : Pcie → Pcie) : (d.updPcie g).syn = d.syn := rfl
@[simp] theorem Device.updPcie_pcie (d : Device) (g : Pcie → Pcie) : (d.updPcie g).pcie = g d.pcie := rfl
@[simp] theorem Device.updPcie_i3c (d : Device) (g : Pcie → Pcie) : (d.updPcie g).i3c = d.i3c := rfl
@[simp] theorem Device.updPcie_spi (d : Device) (g : Pcie → Pcie) : (d.updPcie g).spi = d.spi := rfl
@[simp] theorem Device.updPcie_otp (d : Device) (g : Pcie → Pcie) : (d.updPcie g).otp = d.otp := rfl
@[simp] theorem Device.updPcie_hkc (d : Device) (g : Pcie → Pcie) : (d.updPcie g).hkc = d.hkc := rfl
@[simp] theorem Device.updPcie_claims (d : Device) (g : Pcie → Pcie) : (d.updPcie g).claims = d.claims := rfl
@[simp] theorem Device.updPcie_openRes (d : Device) (g : Pcie → Pcie) : (d.updPcie g).openRes = d.openRes := rfl
@[simp] theorem Device.updPcie_safe (d : Device) (g : Pcie → Pcie) : (d.updPcie g).safe = d.safe := rfl
@[simp] theorem Device.updPcie_sheet (d : Device) (g : Pcie → Pcie) : (d.updPcie g).sheet = d.sheet := rfl
@[simp] theorem Device.updPcie_cntSeq (d : Device) (g : Pcie → Pcie) : (d.updPcie g).cntSeq = d.cntSeq := rfl
@[simp] theorem Device.updPcie_ts (d : Device) (g : Pcie → Pcie) : (d.updPcie g).ts = d.ts := rfl
@[simp] theorem Device.updPcie_cycle (d : Device) (g : Pcie → Pcie) : (d.updPcie g).cycle = d.cycle := rfl
@[simp] theorem Device.updPcie_freeCount (d : Device) (g : Pcie → Pcie) : (d.updPcie g).freeCount = d.freeCount := rfl
@[simp] theorem Device.updPcie_out (d : Device) (g : Pcie → Pcie) : (d.updPcie g).out = d.out := rfl

/-! ## updI3c -/

@[simp] theorem Device.updI3c_regs (d : Device) (p : Fin 2) (g : I3cPort → I3cPort) : (d.updI3c p g).regs = d.regs := rfl
@[simp] theorem Device.updI3c_ram (d : Device) (p : Fin 2) (g : I3cPort → I3cPort) : (d.updI3c p g).ram = d.ram := rfl
@[simp] theorem Device.updI3c_hdr (d : Device) (p : Fin 2) (g : I3cPort → I3cPort) : (d.updI3c p g).hdr = d.hdr := rfl
@[simp] theorem Device.updI3c_boot (d : Device) (p : Fin 2) (g : I3cPort → I3cPort) : (d.updI3c p g).boot = d.boot := rfl
@[simp] theorem Device.updI3c_ctx (d : Device) (p : Fin 2) (g : I3cPort → I3cPort) : (d.updI3c p g).ctx = d.ctx := rfl
@[simp] theorem Device.updI3c_phase (d : Device) (p : Fin 2) (g : I3cPort → I3cPort) : (d.updI3c p g).phase = d.phase := rfl
@[simp] theorem Device.updI3c_loop (d : Device) (p : Fin 2) (g : I3cPort → I3cPort) : (d.updI3c p g).loop = d.loop := rfl
@[simp] theorem Device.updI3c_entry (d : Device) (p : Fin 2) (g : I3cPort → I3cPort) : (d.updI3c p g).entry = d.entry := rfl
@[simp] theorem Device.updI3c_seq (d : Device) (p : Fin 2) (g : I3cPort → I3cPort) : (d.updI3c p g).seq = d.seq := rfl
@[simp] theorem Device.updI3c_rso (d : Device) (p : Fin 2) (g : I3cPort → I3cPort) : (d.updI3c p g).rso = d.rso := rfl
@[simp] theorem Device.updI3c_thm (d : Device) (p : Fin 2) (g : I3cPort → I3cPort) : (d.updI3c p g).thm = d.thm := rfl
@[simp] theorem Device.updI3c_flt (d : Device) (p : Fin 2) (g : I3cPort → I3cPort) : (d.updI3c p g).flt = d.flt := rfl
@[simp] theorem Device.updI3c_evc (d : Device) (p : Fin 2) (g : I3cPort → I3cPort) : (d.updI3c p g).evc = d.evc := rfl
@[simp] theorem Device.updI3c_wdt (d : Device) (p : Fin 2) (g : I3cPort → I3cPort) : (d.updI3c p g).wdt = d.wdt := rfl
@[simp] theorem Device.updI3c_hup (d : Device) (p : Fin 2) (g : I3cPort → I3cPort) : (d.updI3c p g).hup = d.hup := rfl
@[simp] theorem Device.updI3c_chg (d : Device) (p : Fin 2) (g : I3cPort → I3cPort) : (d.updI3c p g).chg = d.chg := rfl
@[simp] theorem Device.updI3c_gau (d : Device) (p : Fin 2) (g : I3cPort → I3cPort) : (d.updI3c p g).gau = d.gau := rfl
@[simp] theorem Device.updI3c_ao (d : Device) (p : Fin 2) (g : I3cPort → I3cPort) : (d.updI3c p g).ao = d.ao := rfl
@[simp] theorem Device.updI3c_dma (d : Device) (p : Fin 2) (g : I3cPort → I3cPort) : (d.updI3c p g).dma = d.dma := rfl
@[simp] theorem Device.updI3c_tlm (d : Device) (p : Fin 2) (g : I3cPort → I3cPort) : (d.updI3c p g).tlm = d.tlm := rfl
@[simp] theorem Device.updI3c_pmc (d : Device) (p : Fin 2) (g : I3cPort → I3cPort) : (d.updI3c p g).pmc = d.pmc := rfl
@[simp] theorem Device.updI3c_syn (d : Device) (p : Fin 2) (g : I3cPort → I3cPort) : (d.updI3c p g).syn = d.syn := rfl
@[simp] theorem Device.updI3c_pcie (d : Device) (p : Fin 2) (g : I3cPort → I3cPort) : (d.updI3c p g).pcie = d.pcie := rfl
@[simp] theorem Device.updI3c_i3c (d : Device) (p : Fin 2) (g : I3cPort → I3cPort) : (d.updI3c p g).i3c = upd d.i3c p g := rfl
@[simp] theorem Device.updI3c_spi (d : Device) (p : Fin 2) (g : I3cPort → I3cPort) : (d.updI3c p g).spi = d.spi := rfl
@[simp] theorem Device.updI3c_otp (d : Device) (p : Fin 2) (g : I3cPort → I3cPort) : (d.updI3c p g).otp = d.otp := rfl
@[simp] theorem Device.updI3c_hkc (d : Device) (p : Fin 2) (g : I3cPort → I3cPort) : (d.updI3c p g).hkc = d.hkc := rfl
@[simp] theorem Device.updI3c_claims (d : Device) (p : Fin 2) (g : I3cPort → I3cPort) : (d.updI3c p g).claims = d.claims := rfl
@[simp] theorem Device.updI3c_openRes (d : Device) (p : Fin 2) (g : I3cPort → I3cPort) : (d.updI3c p g).openRes = d.openRes := rfl
@[simp] theorem Device.updI3c_safe (d : Device) (p : Fin 2) (g : I3cPort → I3cPort) : (d.updI3c p g).safe = d.safe := rfl
@[simp] theorem Device.updI3c_sheet (d : Device) (p : Fin 2) (g : I3cPort → I3cPort) : (d.updI3c p g).sheet = d.sheet := rfl
@[simp] theorem Device.updI3c_cntSeq (d : Device) (p : Fin 2) (g : I3cPort → I3cPort) : (d.updI3c p g).cntSeq = d.cntSeq := rfl
@[simp] theorem Device.updI3c_ts (d : Device) (p : Fin 2) (g : I3cPort → I3cPort) : (d.updI3c p g).ts = d.ts := rfl
@[simp] theorem Device.updI3c_cycle (d : Device) (p : Fin 2) (g : I3cPort → I3cPort) : (d.updI3c p g).cycle = d.cycle := rfl
@[simp] theorem Device.updI3c_freeCount (d : Device) (p : Fin 2) (g : I3cPort → I3cPort) : (d.updI3c p g).freeCount = d.freeCount := rfl
@[simp] theorem Device.updI3c_out (d : Device) (p : Fin 2) (g : I3cPort → I3cPort) : (d.updI3c p g).out = d.out := rfl

/-! ## setReg -/

@[simp] theorem Device.setReg_regs (d : Device) (a : Nat) (w : Word) : (d.setReg a w).regs = storeSet d.regs a w (resetWord a) := rfl
@[simp] theorem Device.setReg_ram (d : Device) (a : Nat) (w : Word) : (d.setReg a w).ram = d.ram := rfl
@[simp] theorem Device.setReg_hdr (d : Device) (a : Nat) (w : Word) : (d.setReg a w).hdr = d.hdr := rfl
@[simp] theorem Device.setReg_boot (d : Device) (a : Nat) (w : Word) : (d.setReg a w).boot = d.boot := rfl
@[simp] theorem Device.setReg_ctx (d : Device) (a : Nat) (w : Word) : (d.setReg a w).ctx = d.ctx := rfl
@[simp] theorem Device.setReg_phase (d : Device) (a : Nat) (w : Word) : (d.setReg a w).phase = d.phase := rfl
@[simp] theorem Device.setReg_loop (d : Device) (a : Nat) (w : Word) : (d.setReg a w).loop = d.loop := rfl
@[simp] theorem Device.setReg_entry (d : Device) (a : Nat) (w : Word) : (d.setReg a w).entry = d.entry := rfl
@[simp] theorem Device.setReg_seq (d : Device) (a : Nat) (w : Word) : (d.setReg a w).seq = d.seq := rfl
@[simp] theorem Device.setReg_rso (d : Device) (a : Nat) (w : Word) : (d.setReg a w).rso = d.rso := rfl
@[simp] theorem Device.setReg_thm (d : Device) (a : Nat) (w : Word) : (d.setReg a w).thm = d.thm := rfl
@[simp] theorem Device.setReg_flt (d : Device) (a : Nat) (w : Word) : (d.setReg a w).flt = d.flt := rfl
@[simp] theorem Device.setReg_evc (d : Device) (a : Nat) (w : Word) : (d.setReg a w).evc = d.evc := rfl
@[simp] theorem Device.setReg_wdt (d : Device) (a : Nat) (w : Word) : (d.setReg a w).wdt = d.wdt := rfl
@[simp] theorem Device.setReg_hup (d : Device) (a : Nat) (w : Word) : (d.setReg a w).hup = d.hup := rfl
@[simp] theorem Device.setReg_chg (d : Device) (a : Nat) (w : Word) : (d.setReg a w).chg = d.chg := rfl
@[simp] theorem Device.setReg_gau (d : Device) (a : Nat) (w : Word) : (d.setReg a w).gau = d.gau := rfl
@[simp] theorem Device.setReg_ao (d : Device) (a : Nat) (w : Word) : (d.setReg a w).ao = d.ao := rfl
@[simp] theorem Device.setReg_dma (d : Device) (a : Nat) (w : Word) : (d.setReg a w).dma = d.dma := rfl
@[simp] theorem Device.setReg_tlm (d : Device) (a : Nat) (w : Word) : (d.setReg a w).tlm = d.tlm := rfl
@[simp] theorem Device.setReg_pmc (d : Device) (a : Nat) (w : Word) : (d.setReg a w).pmc = d.pmc := rfl
@[simp] theorem Device.setReg_syn (d : Device) (a : Nat) (w : Word) : (d.setReg a w).syn = d.syn := rfl
@[simp] theorem Device.setReg_pcie (d : Device) (a : Nat) (w : Word) : (d.setReg a w).pcie = d.pcie := rfl
@[simp] theorem Device.setReg_i3c (d : Device) (a : Nat) (w : Word) : (d.setReg a w).i3c = d.i3c := rfl
@[simp] theorem Device.setReg_spi (d : Device) (a : Nat) (w : Word) : (d.setReg a w).spi = d.spi := rfl
@[simp] theorem Device.setReg_otp (d : Device) (a : Nat) (w : Word) : (d.setReg a w).otp = d.otp := rfl
@[simp] theorem Device.setReg_hkc (d : Device) (a : Nat) (w : Word) : (d.setReg a w).hkc = d.hkc := rfl
@[simp] theorem Device.setReg_claims (d : Device) (a : Nat) (w : Word) : (d.setReg a w).claims = d.claims := rfl
@[simp] theorem Device.setReg_openRes (d : Device) (a : Nat) (w : Word) : (d.setReg a w).openRes = d.openRes := rfl
@[simp] theorem Device.setReg_safe (d : Device) (a : Nat) (w : Word) : (d.setReg a w).safe = d.safe := rfl
@[simp] theorem Device.setReg_sheet (d : Device) (a : Nat) (w : Word) : (d.setReg a w).sheet = d.sheet := rfl
@[simp] theorem Device.setReg_cntSeq (d : Device) (a : Nat) (w : Word) : (d.setReg a w).cntSeq = d.cntSeq := rfl
@[simp] theorem Device.setReg_ts (d : Device) (a : Nat) (w : Word) : (d.setReg a w).ts = d.ts := rfl
@[simp] theorem Device.setReg_cycle (d : Device) (a : Nat) (w : Word) : (d.setReg a w).cycle = d.cycle := rfl
@[simp] theorem Device.setReg_freeCount (d : Device) (a : Nat) (w : Word) : (d.setReg a w).freeCount = d.freeCount := rfl
@[simp] theorem Device.setReg_out (d : Device) (a : Nat) (w : Word) : (d.setReg a w).out = d.out := rfl

/-! ## ramPut -/

@[simp] theorem Device.ramPut_regs (d : Device) (a : Nat) (w : Word) : (d.ramPut a w).regs = d.regs := rfl
@[simp] theorem Device.ramPut_ram (d : Device) (a : Nat) (w : Word) : (d.ramPut a w).ram = memPut d.ram a w := rfl
@[simp] theorem Device.ramPut_hdr (d : Device) (a : Nat) (w : Word) : (d.ramPut a w).hdr = d.hdr := rfl
@[simp] theorem Device.ramPut_boot (d : Device) (a : Nat) (w : Word) : (d.ramPut a w).boot = d.boot := rfl
@[simp] theorem Device.ramPut_ctx (d : Device) (a : Nat) (w : Word) : (d.ramPut a w).ctx = d.ctx := rfl
@[simp] theorem Device.ramPut_phase (d : Device) (a : Nat) (w : Word) : (d.ramPut a w).phase = d.phase := rfl
@[simp] theorem Device.ramPut_loop (d : Device) (a : Nat) (w : Word) : (d.ramPut a w).loop = d.loop := rfl
@[simp] theorem Device.ramPut_entry (d : Device) (a : Nat) (w : Word) : (d.ramPut a w).entry = d.entry := rfl
@[simp] theorem Device.ramPut_seq (d : Device) (a : Nat) (w : Word) : (d.ramPut a w).seq = d.seq := rfl
@[simp] theorem Device.ramPut_rso (d : Device) (a : Nat) (w : Word) : (d.ramPut a w).rso = d.rso := rfl
@[simp] theorem Device.ramPut_thm (d : Device) (a : Nat) (w : Word) : (d.ramPut a w).thm = d.thm := rfl
@[simp] theorem Device.ramPut_flt (d : Device) (a : Nat) (w : Word) : (d.ramPut a w).flt = d.flt := rfl
@[simp] theorem Device.ramPut_evc (d : Device) (a : Nat) (w : Word) : (d.ramPut a w).evc = d.evc := rfl
@[simp] theorem Device.ramPut_wdt (d : Device) (a : Nat) (w : Word) : (d.ramPut a w).wdt = d.wdt := rfl
@[simp] theorem Device.ramPut_hup (d : Device) (a : Nat) (w : Word) : (d.ramPut a w).hup = d.hup := rfl
@[simp] theorem Device.ramPut_chg (d : Device) (a : Nat) (w : Word) : (d.ramPut a w).chg = d.chg := rfl
@[simp] theorem Device.ramPut_gau (d : Device) (a : Nat) (w : Word) : (d.ramPut a w).gau = d.gau := rfl
@[simp] theorem Device.ramPut_ao (d : Device) (a : Nat) (w : Word) : (d.ramPut a w).ao = d.ao := rfl
@[simp] theorem Device.ramPut_dma (d : Device) (a : Nat) (w : Word) : (d.ramPut a w).dma = d.dma := rfl
@[simp] theorem Device.ramPut_tlm (d : Device) (a : Nat) (w : Word) : (d.ramPut a w).tlm = d.tlm := rfl
@[simp] theorem Device.ramPut_pmc (d : Device) (a : Nat) (w : Word) : (d.ramPut a w).pmc = d.pmc := rfl
@[simp] theorem Device.ramPut_syn (d : Device) (a : Nat) (w : Word) : (d.ramPut a w).syn = d.syn := rfl
@[simp] theorem Device.ramPut_pcie (d : Device) (a : Nat) (w : Word) : (d.ramPut a w).pcie = d.pcie := rfl
@[simp] theorem Device.ramPut_i3c (d : Device) (a : Nat) (w : Word) : (d.ramPut a w).i3c = d.i3c := rfl
@[simp] theorem Device.ramPut_spi (d : Device) (a : Nat) (w : Word) : (d.ramPut a w).spi = d.spi := rfl
@[simp] theorem Device.ramPut_otp (d : Device) (a : Nat) (w : Word) : (d.ramPut a w).otp = d.otp := rfl
@[simp] theorem Device.ramPut_hkc (d : Device) (a : Nat) (w : Word) : (d.ramPut a w).hkc = d.hkc := rfl
@[simp] theorem Device.ramPut_claims (d : Device) (a : Nat) (w : Word) : (d.ramPut a w).claims = d.claims := rfl
@[simp] theorem Device.ramPut_openRes (d : Device) (a : Nat) (w : Word) : (d.ramPut a w).openRes = d.openRes := rfl
@[simp] theorem Device.ramPut_safe (d : Device) (a : Nat) (w : Word) : (d.ramPut a w).safe = d.safe := rfl
@[simp] theorem Device.ramPut_sheet (d : Device) (a : Nat) (w : Word) : (d.ramPut a w).sheet = d.sheet := rfl
@[simp] theorem Device.ramPut_cntSeq (d : Device) (a : Nat) (w : Word) : (d.ramPut a w).cntSeq = d.cntSeq := rfl
@[simp] theorem Device.ramPut_ts (d : Device) (a : Nat) (w : Word) : (d.ramPut a w).ts = d.ts := rfl
@[simp] theorem Device.ramPut_cycle (d : Device) (a : Nat) (w : Word) : (d.ramPut a w).cycle = d.cycle := rfl
@[simp] theorem Device.ramPut_freeCount (d : Device) (a : Nat) (w : Word) : (d.ramPut a w).freeCount = d.freeCount := rfl
@[simp] theorem Device.ramPut_out (d : Device) (a : Nat) (w : Word) : (d.ramPut a w).out = d.out := rfl

/-! ## send -/

@[simp] theorem Device.send_regs (d : Device) (o : Outgoing) : (d.send o).regs = d.regs := rfl
@[simp] theorem Device.send_ram (d : Device) (o : Outgoing) : (d.send o).ram = d.ram := rfl
@[simp] theorem Device.send_hdr (d : Device) (o : Outgoing) : (d.send o).hdr = d.hdr := rfl
@[simp] theorem Device.send_boot (d : Device) (o : Outgoing) : (d.send o).boot = d.boot := rfl
@[simp] theorem Device.send_ctx (d : Device) (o : Outgoing) : (d.send o).ctx = d.ctx := rfl
@[simp] theorem Device.send_phase (d : Device) (o : Outgoing) : (d.send o).phase = d.phase := rfl
@[simp] theorem Device.send_loop (d : Device) (o : Outgoing) : (d.send o).loop = d.loop := rfl
@[simp] theorem Device.send_entry (d : Device) (o : Outgoing) : (d.send o).entry = d.entry := rfl
@[simp] theorem Device.send_seq (d : Device) (o : Outgoing) : (d.send o).seq = d.seq := rfl
@[simp] theorem Device.send_rso (d : Device) (o : Outgoing) : (d.send o).rso = d.rso := rfl
@[simp] theorem Device.send_thm (d : Device) (o : Outgoing) : (d.send o).thm = d.thm := rfl
@[simp] theorem Device.send_flt (d : Device) (o : Outgoing) : (d.send o).flt = d.flt := rfl
@[simp] theorem Device.send_evc (d : Device) (o : Outgoing) : (d.send o).evc = d.evc := rfl
@[simp] theorem Device.send_wdt (d : Device) (o : Outgoing) : (d.send o).wdt = d.wdt := rfl
@[simp] theorem Device.send_hup (d : Device) (o : Outgoing) : (d.send o).hup = d.hup := rfl
@[simp] theorem Device.send_chg (d : Device) (o : Outgoing) : (d.send o).chg = d.chg := rfl
@[simp] theorem Device.send_gau (d : Device) (o : Outgoing) : (d.send o).gau = d.gau := rfl
@[simp] theorem Device.send_ao (d : Device) (o : Outgoing) : (d.send o).ao = d.ao := rfl
@[simp] theorem Device.send_dma (d : Device) (o : Outgoing) : (d.send o).dma = d.dma := rfl
@[simp] theorem Device.send_tlm (d : Device) (o : Outgoing) : (d.send o).tlm = d.tlm := rfl
@[simp] theorem Device.send_pmc (d : Device) (o : Outgoing) : (d.send o).pmc = d.pmc := rfl
@[simp] theorem Device.send_syn (d : Device) (o : Outgoing) : (d.send o).syn = d.syn := rfl
@[simp] theorem Device.send_pcie (d : Device) (o : Outgoing) : (d.send o).pcie = d.pcie := rfl
@[simp] theorem Device.send_i3c (d : Device) (o : Outgoing) : (d.send o).i3c = d.i3c := rfl
@[simp] theorem Device.send_spi (d : Device) (o : Outgoing) : (d.send o).spi = d.spi := rfl
@[simp] theorem Device.send_otp (d : Device) (o : Outgoing) : (d.send o).otp = d.otp := rfl
@[simp] theorem Device.send_hkc (d : Device) (o : Outgoing) : (d.send o).hkc = d.hkc := rfl
@[simp] theorem Device.send_claims (d : Device) (o : Outgoing) : (d.send o).claims = d.claims := rfl
@[simp] theorem Device.send_openRes (d : Device) (o : Outgoing) : (d.send o).openRes = d.openRes := rfl
@[simp] theorem Device.send_safe (d : Device) (o : Outgoing) : (d.send o).safe = d.safe := rfl
@[simp] theorem Device.send_sheet (d : Device) (o : Outgoing) : (d.send o).sheet = d.sheet := rfl
@[simp] theorem Device.send_cntSeq (d : Device) (o : Outgoing) : (d.send o).cntSeq = d.cntSeq := rfl
@[simp] theorem Device.send_ts (d : Device) (o : Outgoing) : (d.send o).ts = d.ts := rfl
@[simp] theorem Device.send_cycle (d : Device) (o : Outgoing) : (d.send o).cycle = d.cycle := rfl
@[simp] theorem Device.send_freeCount (d : Device) (o : Outgoing) : (d.send o).freeCount = d.freeCount := rfl
@[simp] theorem Device.send_out (d : Device) (o : Outgoing) : (d.send o).out = o :: d.out := rfl

/-! ## Reading back -/

@[simp] theorem Device.head_updHdr (d : Device) (i : Fin 256) (f : PageHdr → PageHdr) : (d.updHdr i f).head i = f (d.head i) := upd_same _ i f
theorem Device.head_updHdr_other (d : Device) {i j : Fin 256} (f : PageHdr → PageHdr) (h : j ≠ i) : (d.updHdr i f).head j = d.head j := upd_other _ f h
@[simp] theorem Device.ph_updPh (d : Device) (i : Fin 64) (f : Phase → Phase) : (d.updPh i f).ph i = f (d.ph i) := upd_same _ i f
theorem Device.ph_updPh_other (d : Device) {i j : Fin 64} (f : Phase → Phase) (h : j ≠ i) : (d.updPh i f).ph j = d.ph j := upd_other _ f h
@[simp] theorem Device.lp_updLp (d : Device) (i : Fin 16) (f : Loop → Loop) : (d.updLp i f).lp i = f (d.lp i) := upd_same _ i f
theorem Device.lp_updLp_other (d : Device) {i j : Fin 16} (f : Loop → Loop) (h : j ≠ i) : (d.updLp i f).lp j = d.lp j := upd_other _ f h
@[simp] theorem Device.en_updEn (d : Device) (i : Fin 128) (f : Entry → Entry) : (d.updEn i f).en i = f (d.en i) := upd_same _ i f
theorem Device.en_updEn_other (d : Device) {i j : Fin 128} (f : Entry → Entry) (h : j ≠ i) : (d.updEn i f).en j = d.en j := upd_other _ f h
@[simp] theorem Device.wd_updWd (d : Device) (i : Fin 9) (f : Wdt → Wdt) : (d.updWd i f).wd i = f (d.wd i) := upd_same _ i f
theorem Device.wd_updWd_other (d : Device) {i j : Fin 9} (f : Wdt → Wdt) (h : j ≠ i) : (d.updWd i f).wd j = d.wd j := upd_other _ f h
@[simp] theorem Device.rg_updRg (d : Device) (i : Fin 32) (f : Ring → Ring) : (d.updRg i f).rg i = f (d.rg i) := upd_same _ i f
theorem Device.rg_updRg_other (d : Device) {i j : Fin 32} (f : Ring → Ring) (h : j ≠ i) : (d.updRg i f).rg j = d.rg j := upd_other _ f h
@[simp] theorem Device.tg_updTg (d : Device) (i : Fin 9) (f : EvTarget → EvTarget) : (d.updTg i f).tg i = f (d.tg i) := upd_same _ i f
theorem Device.tg_updTg_other (d : Device) {i j : Fin 9} (f : EvTarget → EvTarget) (h : j ≠ i) : (d.updTg i f).tg j = d.tg j := upd_other _ f h

end Sys2Proof.Machine
end

