-- ==== Sys2Proof/Laws/Keeps.lean ====
section
/-! SUPPORT. One lemma for each kind of state: an operation that may change every other kind leaves this one. The premise is a goal for simp with
the lemmas named touch. -/

namespace Sys2Proof.Machine
open Sys2Proof

theorem keeps_regs {d e : Device} (h : Touches 68719476734 d e) : e.regs = d.regs := h .regs (by decide)
theorem keeps_ram {d e : Device} (h : Touches 68719476733 d e) : e.ram = d.ram := h .ram (by decide)
theorem keeps_hdr {d e : Device} (h : Touches 68719476731 d e) : e.hdr = d.hdr := h .hdr (by decide)
theorem keeps_boot {d e : Device} (h : Touches 68719476727 d e) : e.boot = d.boot := h .boot (by decide)
theorem keeps_ctx {d e : Device} (h : Touches 68719476719 d e) : e.ctx = d.ctx := h .ctx (by decide)
theorem keeps_phase {d e : Device} (h : Touches 68719476703 d e) : e.phase = d.phase := h .phase (by decide)
theorem keeps_loop {d e : Device} (h : Touches 68719476671 d e) : e.loop = d.loop := h .loop (by decide)
theorem keeps_entry {d e : Device} (h : Touches 68719476607 d e) : e.entry = d.entry := h .entry (by decide)
theorem keeps_seq {d e : Device} (h : Touches 68719476479 d e) : e.seq = d.seq := h .seq (by decide)
theorem keeps_rso {d e : Device} (h : Touches 68719476223 d e) : e.rso = d.rso := h .rso (by decide)
theorem keeps_thm {d e : Device} (h : Touches 68719475711 d e) : e.thm = d.thm := h .thm (by decide)
theorem keeps_flt {d e : Device} (h : Touches 68719474687 d e) : e.flt = d.flt := h .flt (by decide)
theorem keeps_evc {d e : Device} (h : Touches 68719472639 d e) : e.evc = d.evc := h .evc (by decide)
theorem keeps_wdt {d e : Device} (h : Touches 68719468543 d e) : e.wdt = d.wdt := h .wdt (by decide)
theorem keeps_hup {d e : Device} (h : Touches 68719460351 d e) : e.hup = d.hup := h .hup (by decide)
theorem keeps_chg {d e : Device} (h : Touches 68719443967 d e) : e.chg = d.chg := h .chg (by decide)
theorem keeps_gau {d e : Device} (h : Touches 68719411199 d e) : e.gau = d.gau := h .gau (by decide)
theorem keeps_ao {d e : Device} (h : Touches 68719345663 d e) : e.ao = d.ao := h .ao (by decide)
theorem keeps_dma {d e : Device} (h : Touches 68719214591 d e) : e.dma = d.dma := h .dma (by decide)
theorem keeps_tlm {d e : Device} (h : Touches 68718952447 d e) : e.tlm = d.tlm := h .tlm (by decide)
theorem keeps_pmc {d e : Device} (h : Touches 68718428159 d e) : e.pmc = d.pmc := h .pmc (by decide)
theorem keeps_syn {d e : Device} (h : Touches 68717379583 d e) : e.syn = d.syn := h .syn (by decide)
theorem keeps_pcie {d e : Device} (h : Touches 68715282431 d e) : e.pcie = d.pcie := h .pcie (by decide)
theorem keeps_i3c {d e : Device} (h : Touches 68711088127 d e) : e.i3c = d.i3c := h .i3c (by decide)
theorem keeps_spi {d e : Device} (h : Touches 68702699519 d e) : e.spi = d.spi := h .spi (by decide)
theorem keeps_otp {d e : Device} (h : Touches 68685922303 d e) : e.otp = d.otp := h .otp (by decide)
theorem keeps_hkc {d e : Device} (h : Touches 68652367871 d e) : e.hkc = d.hkc := h .hkc (by decide)
theorem keeps_claims {d e : Device} (h : Touches 68585259007 d e) : e.claims = d.claims := h .claims (by decide)
theorem keeps_openRes {d e : Device} (h : Touches 68451041279 d e) : e.openRes = d.openRes := h .openRes (by decide)
theorem keeps_safe {d e : Device} (h : Touches 68182605823 d e) : e.safe = d.safe := h .safe (by decide)
theorem keeps_sheet {d e : Device} (h : Touches 67645734911 d e) : e.sheet = d.sheet := h .sheet (by decide)
theorem keeps_cntSeq {d e : Device} (h : Touches 66571993087 d e) : e.cntSeq = d.cntSeq := h .cntSeq (by decide)
theorem keeps_ts {d e : Device} (h : Touches 64424509439 d e) : e.ts = d.ts := h .ts (by decide)
theorem keeps_cycle {d e : Device} (h : Touches 60129542143 d e) : e.cycle = d.cycle := h .cycle (by decide)
theorem keeps_freeCount {d e : Device} (h : Touches 51539607551 d e) : e.freeCount = d.freeCount := h .freeCount (by decide)
theorem keeps_out {d e : Device} (h : Touches 34359738367 d e) : e.out = d.out := h .out (by decide)

/-- What the clocked logic depends on is kept with the boot state. -/
theorem keeps_live {d e : Device} (h : Touches 68719476727 d e) : e.live = d.live := by
  unfold Device.live Device.powered
  rw [keeps_boot h]

end Sys2Proof.Machine
end

