-- ==== Sys2Proof/Laws/Writes.lean ====
section
/-! SUPPORT. A register write says once what it can do: taken, refused, or not reaching the fabric; and the device an access finds. -/

namespace Sys2Proof.Machine
open Sys2Proof

/-- The outcome of a command whose effect is on the device alone. -/
theorem State.onDev_next (s : State) (g : Device → Device) : s.onDev g = .next { s with dev := g s.dev } := rfl

theorem State.bus_next (s : State) (src : Source) (addr : Nat) (be : BitVec 4) (v : Word) (x : WriteInfo) :
    s.bus src addr be v x = .next { s with dev := s.dev.busWrite s.fuses src addr be v x } := rfl

theorem State.read_next (s : State) (src : Source) (addr : Nat) : s.read src addr = .next { s with dev := s.dev.busRead src addr } := rfl

/-! ## The device an access finds -/

/-- An access changes at most the TAP state, its context's lease, the gauge's page and the counters: hdr, boot, ctx, evc, gau, ao, pmc
and cntSeq. -/
@[simp ↓] theorem Device.arrive_touch {S : Nat} {d0 : Device} (d : Device) (src : Source) (a : Nat) (hS : 2148732956 &&& S = 2148732956) :
    Touches S d0 (d.arrive src a) ↔ Touches S d0 d := by
  refine Touches.lift (m := 2148732956) ?_ hS
  unfold Device.arrive
  simp

/-! ## What the clocks, the privileges and the pages see of it -/

theorem Device.arrive_touches (d : Device) (src : Source) (a : Nat) : Touches 2148732956 d (d.arrive src a) :=
  (Device.arrive_touch d src a (by decide)).2 (Touches.same d)

@[simp] theorem Device.arrive_regs (d : Device) (src : Source) (a : Nat) : (d.arrive src a).regs = d.regs :=
  (Device.arrive_touches d src a : Touches _ _ _) .regs (by decide)
@[simp] theorem Device.arrive_ram (d : Device) (src : Source) (a : Nat) : (d.arrive src a).ram = d.ram :=
  (Device.arrive_touches d src a : Touches _ _ _) .ram (by decide)
@[simp] theorem Device.arrive_phase (d : Device) (src : Source) (a : Nat) : (d.arrive src a).phase = d.phase :=
  (Device.arrive_touches d src a : Touches _ _ _) .phase (by decide)
@[simp] theorem Device.arrive_loop (d : Device) (src : Source) (a : Nat) : (d.arrive src a).loop = d.loop :=
  (Device.arrive_touches d src a : Touches _ _ _) .loop (by decide)
@[simp] theorem Device.arrive_entry (d : Device) (src : Source) (a : Nat) : (d.arrive src a).entry = d.entry :=
  (Device.arrive_touches d src a : Touches _ _ _) .entry (by decide)
@[simp] theorem Device.arrive_seq (d : Device) (src : Source) (a : Nat) : (d.arrive src a).seq = d.seq :=
  (Device.arrive_touches d src a : Touches _ _ _) .seq (by decide)
@[simp] theorem Device.arrive_rso (d : Device) (src : Source) (a : Nat) : (d.arrive src a).rso = d.rso :=
  (Device.arrive_touches d src a : Touches _ _ _) .rso (by decide)
@[simp] theorem Device.arrive_thm (d : Device) (src : Source) (a : Nat) : (d.arrive src a).thm = d.thm :=
  (Device.arrive_touches d src a : Touches _ _ _) .thm (by decide)
@[simp] theorem Device.arrive_flt (d : Device) (src : Source) (a : Nat) : (d.arrive src a).flt = d.flt :=
  (Device.arrive_touches d src a : Touches _ _ _) .flt (by decide)
@[simp] theorem Device.arrive_wdt (d : Device) (src : Source) (a : Nat) : (d.arrive src a).wdt = d.wdt :=
  (Device.arrive_touches d src a : Touches _ _ _) .wdt (by decide)
@[simp] theorem Device.arrive_hup (d : Device) (src : Source) (a : Nat) : (d.arrive src a).hup = d.hup :=
  (Device.arrive_touches d src a : Touches _ _ _) .hup (by decide)
@[simp] theorem Device.arrive_chg (d : Device) (src : Source) (a : Nat) : (d.arrive src a).chg = d.chg :=
  (Device.arrive_touches d src a : Touches _ _ _) .chg (by decide)
@[simp] theorem Device.arrive_dma (d : Device) (src : Source) (a : Nat) : (d.arrive src a).dma = d.dma :=
  (Device.arrive_touches d src a : Touches _ _ _) .dma (by decide)
@[simp] theorem Device.arrive_tlm (d : Device) (src : Source) (a : Nat) : (d.arrive src a).tlm = d.tlm :=
  (Device.arrive_touches d src a : Touches _ _ _) .tlm (by decide)
@[simp] theorem Device.arrive_syn (d : Device) (src : Source) (a : Nat) : (d.arrive src a).syn = d.syn :=
  (Device.arrive_touches d src a : Touches _ _ _) .syn (by decide)
@[simp] theorem Device.arrive_pcie (d : Device) (src : Source) (a : Nat) : (d.arrive src a).pcie = d.pcie :=
  (Device.arrive_touches d src a : Touches _ _ _) .pcie (by decide)
@[simp] theorem Device.arrive_i3c (d : Device) (src : Source) (a : Nat) : (d.arrive src a).i3c = d.i3c :=
  (Device.arrive_touches d src a : Touches _ _ _) .i3c (by decide)
@[simp] theorem Device.arrive_spi (d : Device) (src : Source) (a : Nat) : (d.arrive src a).spi = d.spi :=
  (Device.arrive_touches d src a : Touches _ _ _) .spi (by decide)
@[simp] theorem Device.arrive_otp (d : Device) (src : Source) (a : Nat) : (d.arrive src a).otp = d.otp :=
  (Device.arrive_touches d src a : Touches _ _ _) .otp (by decide)
@[simp] theorem Device.arrive_hkc (d : Device) (src : Source) (a : Nat) : (d.arrive src a).hkc = d.hkc :=
  (Device.arrive_touches d src a : Touches _ _ _) .hkc (by decide)
@[simp] theorem Device.arrive_claims (d : Device) (src : Source) (a : Nat) : (d.arrive src a).claims = d.claims :=
  (Device.arrive_touches d src a : Touches _ _ _) .claims (by decide)
@[simp] theorem Device.arrive_openRes (d : Device) (src : Source) (a : Nat) : (d.arrive src a).openRes = d.openRes :=
  (Device.arrive_touches d src a : Touches _ _ _) .openRes (by decide)
@[simp] theorem Device.arrive_safe (d : Device) (src : Source) (a : Nat) : (d.arrive src a).safe = d.safe :=
  (Device.arrive_touches d src a : Touches _ _ _) .safe (by decide)
@[simp] theorem Device.arrive_sheet (d : Device) (src : Source) (a : Nat) : (d.arrive src a).sheet = d.sheet :=
  (Device.arrive_touches d src a : Touches _ _ _) .sheet (by decide)
@[simp] theorem Device.arrive_ts (d : Device) (src : Source) (a : Nat) : (d.arrive src a).ts = d.ts :=
  (Device.arrive_touches d src a : Touches _ _ _) .ts (by decide)
@[simp] theorem Device.arrive_cycle (d : Device) (src : Source) (a : Nat) : (d.arrive src a).cycle = d.cycle :=
  (Device.arrive_touches d src a : Touches _ _ _) .cycle (by decide)
@[simp] theorem Device.arrive_freeCount (d : Device) (src : Source) (a : Nat) : (d.arrive src a).freeCount = d.freeCount :=
  (Device.arrive_touches d src a : Touches _ _ _) .freeCount (by decide)
@[simp] theorem Device.arrive_out (d : Device) (src : Source) (a : Nat) : (d.arrive src a).out = d.out :=
  (Device.arrive_touches d src a : Touches _ _ _) .out (by decide)

/-- Of the boot state an access changes the TAP flag alone. -/
theorem Device.arrive_boot (d : Device) (src : Source) (a : Nat) : (d.arrive src a).boot = (d.tapLeaves src).boot :=
  ((Device.accessed_touch (d.tapLeaves src) src (a / 0x1000) false (S := 2148732948) (by decide)).2 (Touches.same _) : Touches _ _ _) .boot (by decide)

theorem Device.tapLeaves_boot (d : Device) (src : Source) :
    (d.tapLeaves src).boot = { d.boot with tapReset := d.boot.tapReset && decide (src ≠ .jtag) } := by
  unfold Device.tapLeaves
  split <;> simp_all

@[simp] theorem Device.arrive_held (d : Device) (src : Source) (a : Nat) : (d.arrive src a).boot.held = d.boot.held := by
  rw [Device.arrive_boot, Device.tapLeaves_boot]
@[simp] theorem Device.arrive_stage (d : Device) (src : Source) (a : Nat) : (d.arrive src a).boot.stage = d.boot.stage := by
  rw [Device.arrive_boot, Device.tapLeaves_boot]
@[simp] theorem Device.arrive_coreUp (d : Device) (src : Source) (a : Nat) : (d.arrive src a).boot.coreUp = d.boot.coreUp := by
  rw [Device.arrive_boot, Device.tapLeaves_boot]
@[simp] theorem Device.arrive_up (d : Device) (src : Source) (a : Nat) : (d.arrive src a).boot.up = d.boot.up := by
  rw [Device.arrive_boot, Device.tapLeaves_boot]
@[simp] theorem Device.arrive_request (d : Device) (src : Source) (a : Nat) : (d.arrive src a).boot.request = d.boot.request := by
  rw [Device.arrive_boot, Device.tapLeaves_boot]
@[simp] theorem Device.arrive_live (d : Device) (src : Source) (a : Nat) : (d.arrive src a).live = d.live := by
  unfold Device.live Device.powered
  rw [Device.arrive_boot, Device.tapLeaves_boot]

@[simp] theorem Device.arrive_reg (d : Device) (src : Source) (a b : Nat) : (d.arrive src a).reg b = d.reg b := by
  unfold Device.reg
  rw [Device.arrive_regs]

/-! ## What counting a beat can do elsewhere -/

/-- A page header without its continuity record. -/
def PageHdr.fixed (h : PageHdr) : PageHdr := { h with prev := 0, cur := 0, cause := 0, byCode := 0, entry := 0, count := 0 }

/-- The page headers but EVC's own record, every event source but 123, and the targets. -/
def Device.besidePmc (d e : Device) : Prop :=
  (∀ p : Fin 256, p ≠ pg 0x060 → e.head p = d.head p) ∧ (∀ s : Fin 256, s.val ≠ 123 → e.evc.src[s] = d.evc.src[s]) ∧ e.evc.tgt = d.evc.tgt ∧
  ∀ p : Fin 256, (e.head p).fixed = (d.head p).fixed

theorem Device.besidePmc_refl (d : Device) : d.besidePmc d := ⟨fun _ _ => rfl, fun _ _ => rfl, rfl, fun _ => rfl⟩

theorem Device.besidePmc_trans {a b c : Device} (h : a.besidePmc b) (g : b.besidePmc c) : a.besidePmc c :=
  ⟨fun p hp => (g.1 p hp).trans (h.1 p hp), fun s hs => (g.2.1 s hs).trans (h.2.1 s hs), g.2.2.1.trans h.2.2.1,
    fun p => (g.2.2.2 p).trans (h.2.2.2 p)⟩

theorem Device.besidePmc_of {d e : Device} (h1 : e.hdr = d.hdr) (h2 : e.evc = d.evc) : d.besidePmc e := by
  refine ⟨fun p _ => ?_, fun s _ => ?_, ?_, fun p => ?_⟩
  · unfold Device.head; rw [h1]
  · rw [h2]
  · rw [h2]
  · unfold Device.head; rw [h1]

theorem Device.syncState_head_other (d : Device) (p c cause who : Nat) {q : Fin 256} (hq : q ≠ pg p) :
    (d.syncState p c cause who).head q = d.head q := by
  unfold Device.syncState
  split
  · rfl
  · exact upd_other _ _ hq

theorem Device.syncState_fixed (d : Device) (p c cause who : Nat) (q : Fin 256) : ((d.syncState p c cause who).head q).fixed = (d.head q).fixed := by
  by_cases hq : q = pg p
  · subst hq
    unfold Device.syncState
    split
    · rfl
    · show (PageHdr.fixed ((upd d.hdr (pg p) _)[pg p])) = _
      rw [upd_same]
      rfl
  · rw [Device.syncState_head_other _ _ _ _ _ hq]

theorem Device.syncState_evc (d : Device) (p c cause who : Nat) : (d.syncState p c cause who).evc = d.evc := by
  unfold Device.syncState
  split <;> rfl

theorem Device.evcSync_beside (d : Device) : d.besidePmc d.evcSync := by
  refine ⟨fun p hp => Device.syncState_head_other _ _ _ _ _ hp, fun s _ => ?_, ?_, fun p => Device.syncState_fixed _ _ _ _ _ p⟩
  · rw [show d.evcSync.evc = d.evc from Device.syncState_evc _ _ _ _ _]
  · rw [show d.evcSync.evc = d.evc from Device.syncState_evc _ _ _ _ _]

theorem Device.raise_beside (d : Device) (w : Word) : d.besidePmc (d.raise 123 w) := by
  unfold Device.raise
  dsimp only
  split
  · exact Device.besidePmc_refl d
  · refine Device.besidePmc_trans (b := d.updSrc _ _) ⟨fun _ _ => rfl, fun s hs => ?_, rfl, fun _ => rfl⟩ (Device.evcSync_beside _)
    refine upd_other _ _ fun e => hs ?_
    rw [e]
    rfl

theorem Device.pmcBump_beside (d : Device) (c : Fin 64) (n : Nat) : d.besidePmc (d.pmcBump c n).1 := by
  unfold Device.pmcBump
  dsimp only
  (repeat' split) <;> first
    | exact Device.besidePmc_of rfl rfl
    | exact Device.besidePmc_trans (Device.besidePmc_of rfl rfl) (Device.raise_beside _ _)

theorem Device.pmcAdd_beside (d : Device) (c : Fin 64) (n : Nat) : d.besidePmc (d.pmcAdd c n) := by
  unfold Device.pmcAdd
  dsimp only
  (repeat' split) <;> first
    | exact Device.pmcBump_beside _ _ _
    | exact Device.besidePmc_trans (Device.pmcBump_beside _ _ _) (Device.pmcBump_beside _ _ _)

theorem Device.pmcCountAll_beside (d : Device) (ev n : Nat) : d.besidePmc (d.pmcCountAll ev n) := by
  unfold Device.pmcCountAll
  by_cases hc : (d.pmcRun && decide (0 < n)) = true
  · rw [if_pos hc]
    clear hc
    unfold foldFin
    generalize List.finRange 64 = l
    induction l generalizing d with
    | nil => exact Device.besidePmc_refl d
    | cons c l ih =>
      rw [List.foldl_cons]
      refine Device.besidePmc_trans ?_ (ih _)
      split
      · exact Device.pmcAdd_beside _ _ _
      · exact Device.besidePmc_refl _
  · rw [if_neg hc]; exact Device.besidePmc_refl d

theorem Device.arrive_beside (d : Device) (src : Source) (a : Nat) : d.besidePmc (d.arrive src a) := by
  unfold Device.arrive Device.accessed
  dsimp only
  have h1 : ∀ e : Device, e.besidePmc (e.gauTouch (a / 0x1000)) := fun e =>
    have t : Touches _ e (e.gauTouch (a / 0x1000)) := (Device.gauTouch_touch e (a / 0x1000) (S := 196608) (by decide)).2 (Touches.same _)
    Device.besidePmc_of (t .hdr (by decide)) (t .evc (by decide))
  have h2 : ∀ (e : Device) r, e.besidePmc (e.renew r) := fun e r =>
    have t : Touches _ e (e.renew r) := (Device.renew_touch e r (S := 16) (by decide)).2 (Touches.same _)
    Device.besidePmc_of (t .hdr (by decide)) (t .evc (by decide))
  have h0 : d.besidePmc (d.tapLeaves src) :=
    have t : Touches _ d (d.tapLeaves src) := (Device.tapLeaves_touch d src (S := 8) (by decide)).2 (Touches.same _)
    Device.besidePmc_of (t .hdr (by decide)) (t .evc (by decide))
  exact Device.besidePmc_trans h0 (Device.besidePmc_trans (h2 _ _) (Device.besidePmc_trans (Device.pmcCountAll_beside _ _ _) (h1 _)))

theorem Device.arrive_head (d : Device) (src : Source) (a : Nat) (p : Fin 256) (hp : p ≠ pg 0x060) : (d.arrive src a).head p = d.head p :=
  (Device.arrive_beside d src a).1 p hp

theorem Device.arrive_src (d : Device) (src : Source) (a : Nat) (s : Fin 256) (hs : s.val ≠ 123) : (d.arrive src a).evc.src[s] = d.evc.src[s] :=
  (Device.arrive_beside d src a).2.1 s hs

@[simp] theorem Device.arrive_tgt (d : Device) (src : Source) (a : Nat) : (d.arrive src a).evc.tgt = d.evc.tgt := (Device.arrive_beside d src a).2.2.1

/-- Everything of a page header but its continuity record is as before the access. -/
theorem Device.arrive_fixed (d : Device) (src : Source) (a : Nat) (p : Fin 256) : ((d.arrive src a).head p).fixed = (d.head p).fixed :=
  (Device.arrive_beside d src a).2.2.2 p

/-- An access away from the GAU pages leaves the AO domain and the gauge alone. -/
theorem Device.arrive_ao (d : Device) (src : Source) (a : Nat) (h1 : a / 0x1000 ≠ 0x044) (h2 : a / 0x1000 ≠ 0x300) :
    (d.arrive src a).ao = d.ao ∧ (d.arrive src a).gau = d.gau := by
  unfold Device.arrive Device.accessed Device.gauTouch
  rw [if_neg (by intro h; rcases h.1 with h | h <;> contradiction)]
  have t : Touches 2148536348 d ((((d.tapLeaves src).renew ((d.tapLeaves src).requester src))).pmcCountAll 0x20 1) := by simp
  exact ⟨t .ao (by decide), t .gau (by decide)⟩

/-! ## Who asks -/

theorem Device.renew_ctx (d : Device) (r : Requester) (n : Fin 8) :
    (d.renew r).ctx[n] = { d.ctx[n] with
      renewed := if r = .ctx n then d.cycle else d.ctx[n].renewed, loaded := if r = .ctx n then d.ctx[n].leaseMs else d.ctx[n].loaded } := by
  unfold Device.renew
  cases r with
  | ctx m =>
    show (upd d.ctx m _)[n] = _
    rw [upd_get]
    by_cases h : n = m
    · subst h; simp
    · have h' : m ≠ n := fun e => h e.symm
      simp [h, h']
  | _ => simp

/-- What the checks read of a context is as before the access: its state, its port, its privilege and its PMC flag. -/
theorem Device.arrive_ctx (d : Device) (src : Source) (a : Nat) (n : Fin 8) :
    ∃ t l, (d.arrive src a).ctx[n] = { d.ctx[n] with renewed := t, loaded := l } := by
  unfold Device.arrive Device.accessed
  dsimp only
  generalize (d.tapLeaves src).requester src = r
  have h1 : ∀ e : Device, (e.gauTouch (a / 0x1000)).ctx = e.ctx := fun e =>
    ((Device.gauTouch_touch e (a / 0x1000) (S := 196608) (by decide)).2 (Touches.same _) : Touches _ _ _) .ctx (by decide)
  have h2 : ∀ e : Device, (e.pmcCountAll 0x20 1).ctx = e.ctx := fun e =>
    ((Device.pmcCountAll_touch e 0x20 1 (S := 2148536324) (by decide)).2 (Touches.same _) : Touches _ _ _) .ctx (by decide)
  have h3 : (d.tapLeaves src).ctx = d.ctx := ((Device.tapLeaves_touch d src (S := 8) (by decide)).2 (Touches.same _) : Touches _ _ _) .ctx (by decide)
  have hc : (((if false = true then (d.tapLeaves src).renew r else ((d.tapLeaves src).renew r).pmcCountAll 0x20 1)).gauTouch (a / 0x1000)).ctx =
      ((d.tapLeaves src).renew r).ctx := (h1 _).trans (h2 _)
  have hn : (d.tapLeaves src).ctx[n] = d.ctx[n] := congrArg (fun v : Vector Ctx 8 => v[n]) h3
  have hx := (congrArg (fun v : Vector Ctx 8 => v[n]) hc).trans (Device.renew_ctx (d.tapLeaves src) r n)
  rw [hn] at hx
  exact ⟨_, _, hx⟩

/-- The requester of an access is the same after it has arrived. -/
theorem Device.arrive_requester (d : Device) (src t : Source) (a : Nat) : (d.arrive src a).requester t = d.requester t := by
  unfold Device.requester
  split
  · rename_i p n
    obtain ⟨t, l, ht⟩ := Device.arrive_ctx d src a n
    unfold Device.openOn Device.ctxOpen
    rw [ht]
  · rfl
  · rfl
  · rfl

theorem Device.arrive_hasPriv (d : Device) (src : Source) (a : Nat) (r : Requester) (p : Priv) : (d.arrive src a).hasPriv r p = d.hasPriv r p := by
  unfold Device.hasPriv Device.privOf
  cases r with
  | ctx n =>
    obtain ⟨t, l, ht⟩ := Device.arrive_ctx d src a n
    simp only [ht]
  | _ => rfl

theorem Device.arrive_isAdmin (d : Device) (src : Source) (a : Nat) (r : Requester) : (d.arrive src a).isAdmin r = d.isAdmin r :=
  Device.arrive_hasPriv d src a r .admin


/-! ## The checks of a write judge the same before and after the access arrives -/

theorem PageHdr.fixed_eq {g h : PageHdr} (e : g.fixed = h.fixed) :
    g.owner = h.owner ∧ g.mode = h.mode ∧ g.expiry = h.expiry ∧ g.lockOtp = h.lockOtp ∧ g.lockAdmin = h.lockAdmin ∧ g.ctl = h.ctl ∧ g.err = h.err := by
  unfold PageHdr.fixed at e
  injection e with e1 e2 e3 e4 e5 e6 e7 e8 e9 e10 e11 e12 e13 e14 e15 e16 e17
  refine ⟨?_, ?_, ?_, ?_, ?_, ?_, ?_⟩ <;> assumption

theorem Device.arrive_mayOwn (d : Device) (src : Source) (a q : Nat) (r : Requester) : (d.arrive src a).mayOwn q r = d.mayOwn q r := by
  have h := PageHdr.fixed_eq (Device.arrive_fixed d src a (pg q))
  unfold Device.mayOwn Device.ownedBy Device.ownerOf
  rw [h.1, h.2.1]

theorem Device.arrive_ownCheck (d : Device) (src : Source) (a : Nat) (r : Requester) (p o : Nat) : (d.arrive src a).ownCheck r p o = d.ownCheck r p o := by
  unfold Device.ownCheck
  simp only [Device.arrive_mayOwn, Device.phMap, Device.preg, Device.arrive_reg]

theorem Device.arrive_locked (d : Device) (src : Source) (a p : Nat) : (d.arrive src a).locked p = d.locked p := by
  have h := PageHdr.fixed_eq (Device.arrive_fixed d src a (pg p))
  unfold Device.locked
  rw [h.2.2.2.1, h.2.2.2.2.1]

theorem Device.arrive_privCheck (d : Device) (src : Source) (a : Nat) (r : Requester) (p o : Nat) :
    (d.arrive src a).privCheck r p o = d.privCheck r p o := by
  unfold Device.privCheck
  cases r with
  | ctx n =>
    obtain ⟨t, l, ht⟩ := Device.arrive_ctx d src a n
    simp only [Device.arrive_isAdmin, Device.arrive_hasPriv, ht]
  | _ => simp only [Device.arrive_isAdmin, Device.arrive_hasPriv]

theorem Device.arrive_mayClaim (d : Device) (src : Source) (a p : Nat) (n : Fin 8) : (d.arrive src a).mayClaim p n = d.mayClaim p n := by
  unfold Device.mayClaim
  simp only [Device.arrive_isAdmin, Device.arrive_hasPriv]

theorem Device.arrive_writeCheck (d : Device) (src : Source) (a : Nat) (r : Requester) (p o : Nat) (rwl old m v : Word) :
    (d.arrive src a).writeCheck r p o rwl old m v = d.writeCheck r p o rwl old m v := by
  unfold Device.writeCheck
  rw [Device.arrive_privCheck, Device.arrive_ownCheck, Device.arrive_locked]

/-- RSO_POL is in the retention cell, which no access touches. -/
theorem Device.heldWord_reg (d : Device) {a : Nat} (h : a ≠ 0x037040) : d.heldWord a = d.reg a := if_neg h

theorem Device.arrive_heldWord (d : Device) (src : Source) (a b : Nat) : (d.arrive src a).heldWord b = d.heldWord b := by
  unfold Device.heldWord
  rw [Device.arrive_reg, show (d.arrive src a).rso = d.rso from keeps_rso (by unfold Device.arrive; simp)]

/-- The checks of R130 judge a write as they would have judged it before the access arrived. -/
theorem Device.arrive_writeBad (d : Device) (src : Source) (a b : Nat) (m v : Word) :
    (d.arrive src a).writeBad src b m v = d.writeBad src b m v := by
  unfold Device.writeBad Device.devrstBad Device.newWord
  simp only [Device.arrive_requester, Device.arrive_isAdmin, Device.arrive_reg, Device.arrive_heldWord, Device.arrive_writeCheck]

/-! ## A write is taken, refused or does not reach its page -/

/-- A taken write has its block's effect on the device that the access finds. -/
theorem Device.busWrite_taken (d : Device) (f : OtpArray) (src : Source) (addr : Nat) (be : BitVec 4) (v : Word) (x : WriteInfo)
    (ht : d.takes src addr (byteMask be) v = true) (ha : addr % 4 = 0) (hb : (blockOf (addr / 0x1000)).isSome = true)
    (hh : (isBlockPage (addr / 0x1000) && decide (addr % 0x1000 < 0x040)) = false) (hbe : alignedBe be = true) :
    d.busWrite f src addr be v x = (d.arrive src addr).blockWrite f src (addr / 0x1000) (addr % 0x1000) (byteMask be) v x := by
  have e : addr / 4 * 4 = addr := by omega
  unfold Device.takes Device.gets at ht
  rw [Bool.and_eq_true, Option.isNone_iff_eq_none] at ht
  unfold Device.busWrite
  dsimp only
  rw [ht.1, hbe, e]
  simp only [Bool.not_true, Bool.false_eq_true, if_false, if_true]
  unfold Device.writeWord Device.writePlain
  dsimp only
  rw [if_neg (by cases h : blockOf (addr / 0x1000) <;> simp_all), hh, if_neg (by decide)]
  have h2 := (Device.arrive_writeBad d src addr addr (byteMask be) v).trans ht.2
  unfold Device.arrive at h2
  rw [h2]
  rfl

/-- A refused write of a block-specific word sets one bit of PAGE_ERR and does nothing else (R130). -/
theorem Device.busWrite_refused (d : Device) (f : OtpArray) (src : Source) (addr : Nat) (be : BitVec 4) (v : Word) (x : WriteInfo)
    (e : Word) (hg : d.gets src addr = true) (hr : d.writeBad src addr (byteMask be) v = some e) (ha : addr % 4 = 0)
    (hb : (blockOf (addr / 0x1000)).isSome = true)
    (hh : (isBlockPage (addr / 0x1000) && decide (addr % 0x1000 < 0x040)) = false) (hbe : alignedBe be = true) :
    d.busWrite f src addr be v x = (d.arrive src addr).setErr (errPage (addr / 0x1000)) e := by
  have e' : addr / 4 * 4 = addr := by omega
  unfold Device.gets at hg
  unfold Device.busWrite
  dsimp only
  rw [hg, hbe, e']
  simp only [Bool.not_true, Bool.false_eq_true, if_false, if_true]
  unfold Device.writeWord Device.writePlain
  dsimp only
  rw [if_neg (by cases h : blockOf (addr / 0x1000) <;> simp_all), hh, if_neg (by decide)]
  have h2 := (Device.arrive_writeBad d src addr addr (byteMask be) v).trans hr
  unfold Device.arrive at h2
  rw [h2]
  rfl

/-- A write to the common header of a block page. -/
theorem Device.busWrite_header (d : Device) (f : OtpArray) (src : Source) (addr : Nat) (be : BitVec 4) (v : Word) (x : WriteInfo)
    (hg : d.gets src addr = true) (ha : addr % 4 = 0) (hb : (blockOf (addr / 0x1000)).isSome = true)
    (hh : (isBlockPage (addr / 0x1000) && decide (addr % 0x1000 < 0x040)) = true) (hbe : alignedBe be = true) :
    d.busWrite f src addr be v x = (d.arrive src addr).headerWrite src (addr / 0x1000) (addr % 0x1000) (byteMask be) v := by
  have e' : addr / 4 * 4 = addr := by omega
  unfold Device.gets at hg
  unfold Device.busWrite
  dsimp only
  rw [hg, hbe, e']
  simp only [Bool.not_true, Bool.false_eq_true, if_false, if_true]
  unfold Device.writeWord Device.writePlain
  dsimp only
  rw [if_neg (by cases h : blockOf (addr / 0x1000) <;> simp_all), hh, if_pos rfl]
  rfl

/-- A write that does not reach the fabric does nothing but take the TAP controller out of its reset state. -/
theorem Device.busWrite_deaf (d : Device) (f : OtpArray) (src : Source) (addr : Nat) (be : BitVec 4) (v : Word) (x : WriteInfo)
    (hg : d.gets src addr = false) : d.busWrite f src addr be v x = d.tapLeaves src := by
  unfold Device.gets at hg
  unfold Device.busWrite
  simp [hg]

end Sys2Proof.Machine
end

