-- ==== Sys2Proof/Laws/Pages.lean ====
section
/-! SUPPORT. The page map for pages given by an index, and what a taken write at an offset of a page does. -/

namespace Sys2Proof.Machine
open Sys2Proof

/-! ## Addresses -/

theorem pageAddr_div (p o : Nat) (h : o < 0x1000) : pageAddr p o / 0x1000 = p := by unfold pageAddr; omega
theorem pageAddr_mod (p o : Nat) (h : o < 0x1000) : pageAddr p o % 0x1000 = o := by unfold pageAddr; omega

/-! ## Blocks -/

theorem blockOf_loop (n : Fin 16) : blockOf (0x010 + n.val) = some .loop := by revert n; decide
theorem blockOf_phs (k : Fin 64) : blockOf (0x020 + k.val / 8) = some .phs := by revert k; decide
theorem blockOf_wdt (k : Fin 9) : blockOf (0x054 + k.val) = some .wdt := by revert k; decide
theorem blockOf_ring (r : Fin 32) : blockOf (0x080 + r.val) = some .ring := by revert r; decide
theorem isBlockPage_lt {p : Nat} (h : isBlockPage p = true) : p < 0x100 := by
  unfold isBlockPage at h
  rw [Bool.and_eq_true] at h
  exact of_decide_eq_true h.1

theorem phaseAt_phase (k : Fin 64) (o : Nat) (h : o < 0x40) : phaseAt (0x020 + k.val / 8) (0x100 + 0x40 * (k.val % 8) + o) = some k := by
  unfold phaseAt
  have := k.isLt
  rw [if_pos (by omega)]
  congr 1
  apply Fin.ext
  show (8 * (0x020 + k.val / 8 - 0x020) + (0x100 + 0x40 * (k.val % 8) + o - 0x100) / 0x40) % 64 = k.val
  omega

theorem targetAt_target (t : Fin 9) (o : Nat) (h : o < 0x20) : targetAt 0x060 (0x100 + 0x20 * t.val + o) = some t := by
  unfold targetAt
  have := t.isLt
  rw [if_pos (by omega)]
  congr 1
  apply Fin.ext
  show ((0x100 + 0x20 * t.val + o - 0x100) / 0x20) % 9 = t.val
  omega

theorem ofNat_loop (n : Fin 16) : Fin.ofNat 16 (0x010 + n.val - 0x010) = n := by
  apply Fin.ext; show (0x010 + n.val - 0x010) % 16 = n.val; have := n.isLt; omega
theorem ofNat_wdt (k : Fin 9) : Fin.ofNat 9 (0x054 + k.val - 0x054) = k := by
  apply Fin.ext; show (0x054 + k.val - 0x054) % 9 = k.val; have := k.isLt; omega
theorem ofNat_ring (r : Fin 32) : Fin.ofNat 32 (0x080 + r.val - 0x080) = r := by
  apply Fin.ext; show (0x080 + r.val - 0x080) % 32 = r.val; have := r.isLt; omega

/-! ## A taken write at an offset of a page -/

/-- A taken write at offset o of page p, past the common header. -/
theorem Device.busWrite_page (d : Device) (f : OtpArray) (src : Source) (p o : Nat) (be : BitVec 4) (v : Word) (x : WriteInfo)
    (ht : d.takes src (pageAddr p o) (byteMask be) v = true) (hb : (blockOf p).isSome = true) (hbe : alignedBe be = true)
    (ho : o < 0x1000) (h4 : o % 4 = 0) (hh : 0x100 ≤ p ∨ 0x040 ≤ o) :
    d.busWrite f src (pageAddr p o) be v x = (d.arrive src (pageAddr p o)).blockWrite f src p o (byteMask be) v x := by
  have e1 := pageAddr_div p o ho
  have e2 := pageAddr_mod p o ho
  have h := Device.busWrite_taken d f src (pageAddr p o) be v x ht (by unfold pageAddr; omega) (by rw [e1]; exact hb)
    (by rw [e1, e2]
        rcases hh with h | h
        · have : isBlockPage p = false := by
            cases hc : isBlockPage p
            · rfl
            · exact absurd (isBlockPage_lt hc) (by omega)
          rw [this]; rfl
        · have : decide (o < 0x40) = false := decide_eq_false (by omega)
          rw [this, Bool.and_false]) hbe
  rw [e1, e2] at h
  exact h

/-- A write of the common header of page p. -/
theorem Device.busWrite_head (d : Device) (f : OtpArray) (src : Source) (p o : Nat) (v : Word) (x : WriteInfo)
    (hg : d.gets src (pageAddr p o) = true) (hp : isBlockPage p = true) (ho : o < 0x040) (h4 : o % 4 = 0) :
    d.busWrite f src (pageAddr p o) 0xF v x = (d.arrive src (pageAddr p o)).headerWrite src p o 0xFFFFFFFF v := by
  have e1 := pageAddr_div p o (by omega)
  have e2 := pageAddr_mod p o (by omega)
  have hb : (blockOf p).isSome = true := by
    unfold isBlockPage at hp
    rw [Bool.and_eq_true] at hp
    exact hp.2
  have h := Device.busWrite_header d f src (pageAddr p o) 0xF v x hg (by unfold pageAddr; omega) (by rw [e1]; exact hb)
    (by rw [e1, e2, hp]; simp [ho]) (by decide)
  rw [e1, e2] at h
  exact h

/-- The full write of a word. -/
theorem byteMask_full : byteMask 0xF = 0xFFFFFFFF := by decide

/-! ## The block that takes it -/

theorem Device.blockWrite_loop (d : Device) (f : OtpArray) (src : Source) (n : Fin 16) (o : Nat) (m v : Word) (x : WriteInfo) :
    d.blockWrite f src (loopPage n) o m v x = d.loopWrite n o m v x := by
  unfold Device.blockWrite loopPage
  simp only [blockOf_loop, ofNat_loop]

theorem Device.blockWrite_phs (d : Device) (f : OtpArray) (src : Source) (k : Fin 64) (o : Nat) (ho : o < 0x40) (m v : Word) (x : WriteInfo) :
    d.blockWrite f src (0x020 + k.val / 8) (0x100 + 0x40 * (k.val % 8) + o) m v x =
      d.phsWrite (d.requester src) k (0x020 + k.val / 8) (0x100 + 0x40 * (k.val % 8) + o) m v x := by
  unfold Device.blockWrite
  simp only [blockOf_phs, phaseAt_phase k o ho]

theorem Device.blockWrite_wdt (d : Device) (f : OtpArray) (src : Source) (k : Fin 9) (o : Nat) (m v : Word) (x : WriteInfo) :
    d.blockWrite f src (wdtPage k) o m v x = d.wdtWrite f (d.requester src) k o m v x := by
  unfold Device.blockWrite wdtPage
  simp only [blockOf_wdt, ofNat_wdt]

theorem Device.blockWrite_ring (d : Device) (f : OtpArray) (src : Source) (r : Fin 32) (o : Nat) (m v : Word) (x : WriteInfo) :
    d.blockWrite f src (ringPage r) o m v x = d.ringWrite (d.requester src) r o m v := by
  unfold Device.blockWrite ringPage
  simp only [blockOf_ring, ofNat_ring]

end Sys2Proof.Machine
end

