-- ==== Sys2Proof/Laws/Commands.lean ====
section
/-! SUPPORT. A command's write of a full word, of the common header, and the small facts that every block's laws use. -/

namespace Sys2Proof.Machine
open Sys2Proof

theorem changes_of {m : Nat} {d e : Device} (h : Touches m d e) {l : List Field} (hl : ∀ f : Field, m.testBit f.idx = true → f ∈ l) : ChangesOnly l d e := by
  intro f hf
  refine h f ?_
  cases hb : m.testBit f.idx
  · rfl
  · exact absurd (hl f hb) hf

theorem and_full (v : Word) : v &&& (0xFFFFFFFF : Word) = v := by
  have : (0xFFFFFFFF : Word) = BitVec.allOnes 32 := by decide
  rw [this, BitVec.and_allOnes]

theorem bit_and_full (v : Word) (i : Nat) : bit (v &&& (0xFFFFFFFF : Word)) i = bit v i := by rw [and_full]

theorem merge_full (w v : Word) : mergeWord w v 0xFFFFFFFF = v := by
  unfold mergeWord; rw [and_full]; simp

theorem bits_or (a b : Word) (hi lo : Nat) : bits (a ||| b) hi lo = bits a hi lo ||| bits b hi lo := by
  apply Nat.eq_of_testBit_eq; intro i
  rw [Nat.testBit_or, bits_testBit, bits_testBit, bits_testBit, BitVec.getLsbD_or]
  cases decide (i < hi + 1 - lo) <;> simp

theorem bits_field (hi lo v h l : Nat) (hh : hi < 32) : bits (field hi lo v) h l = bits (setBits 0 hi lo v) h l := by
  unfold field setBits; simp

theorem bits_lt (w : Word) (hi lo : Nat) : bits w hi lo < 2 ^ (hi + 1 - lo) := Nat.mod_lt _ (Nat.two_pow_pos _)

theorem bits_setBit_other (w : Word) (i : Nat) (b : Bool) (h l : Nat) (hd : h < i ∨ i < l) : bits (setBit w i b) h l = bits w h l := by
  unfold setBit; exact bits_setBits_other _ _ _ _ _ _ hd

theorem upd_twice {α : Type} {n : Nat} (v : Vector α n) (i : Fin n) (f g : α → α) : upd (upd v i f) i g = upd v i (fun x => g (f x)) := by unfold upd; simp

theorem pg_val (p : Fin 256) : pg p.val = p := by apply Fin.ext; show p.val % 256 = p.val; have := p.isLt; omega

theorem updHdr_err (d : Device) (p : Nat) (m : Word) : (d.setErr p m).head (pg p) = { d.head (pg p) with err := (d.head (pg p)).err ||| m } := by
  unfold Device.setErr
  rw [Device.head_updHdr]

theorem whenLive_on {d : Device} (h : d.live = true) (g : Device → Device) : d.whenLive g = g d := by unfold Device.whenLive; rw [if_pos h]

theorem busReq (d : Device) (src t a) : (d.arrive src a).requester t = d.requester t := Device.arrive_requester d src t a

theorem arrive_ctx_st (d : Device) (src : Source) (a : Nat) (n : Fin 8) : (d.arrive src a).ctx[n].st = d.ctx[n].st := by
  obtain ⟨t, l, ht⟩ := Device.arrive_ctx d src a n
  rw [ht]

theorem raise_keeps (d : Device) (s : Nat) (w : Word) : Touches 2147487748 d (d.raise s w) :=
  (Device.raise_touch d s w (by decide)).2 (Touches.same d)

theorem fixed_all (d : Device) (src : Source) (a : Nat) (p : Fin 256) : ((d.arrive src a).head p).owner = (d.head p).owner ∧ ((d.arrive src a).head p).mode = (d.head p).mode ∧
    ((d.arrive src a).head p).expiry = (d.head p).expiry ∧ ((d.arrive src a).head p).lockOtp = (d.head p).lockOtp ∧ ((d.arrive src a).head p).lockAdmin = (d.head p).lockAdmin ∧ ((d.arrive src a).head p).ctl = (d.head p).ctl :=
  have h := PageHdr.fixed_eq (Device.arrive_fixed d src a p)
  ⟨h.1, h.2.1, h.2.2.1, h.2.2.2.1, h.2.2.2.2.1, h.2.2.2.2.2.1⟩

theorem headerWrite_owner (d : Device) (src p m v) : d.headerWrite src p 0x018 m v =
    if d.requester src == .anon || p == 0x003 then d.setErr p errAccvio else d.ownerWrite (d.requester src) p m v := rfl

theorem headerWrite_lock (d : Device) (src p m v) : d.headerWrite src p 0x01C m v =
    if !d.privCheck (d.requester src) p 0x01C || ((bit m 0 && bit v 0 != (d.head (pg p)).lockAdmin) && !d.isAdmin (d.requester src)) then d.setErr p errAccvio
    else if !d.ownCheck (d.requester src) p 0x01C then d.setErr p errOwnvio
    else d.lockWrite (d.requester src) p m v := rfl

theorem headerWrite_ctl (d : Device) (src p m v) : d.headerWrite src p 0x008 m v =
    match d.writeCheck (d.requester src) p 0x008 0 0 m v with
    | some e => d.setErr p e
    | none => d.ctlWrite src p m v := rfl

theorem takesHead_none (d : Device) (src p o v) (h : d.takesHead src p o v = true) : d.gets src (pageAddr p o) = true ∧ d.writeCheck (d.requester src) p o 0 0 0xFFFFFFFF v = none := by
  unfold Device.takesHead at h
  rw [Bool.and_eq_true, Option.isNone_iff_eq_none] at h
  exact h

theorem head_write_ctl (d : Device) (f : OtpArray) (src : Source) (p : Fin 256) (v : Word) (hp : isBlockPage p.val = true)
    (h : d.takesHead src p.val 0x008 v = true) :
    d.busWrite f src (pageAddr p.val 0x008) 0xF v {} = (d.arrive src (pageAddr p.val 0x008)).ctlWrite src p.val 0xFFFFFFFF v := by
  obtain ⟨hg, hw⟩ := takesHead_none _ _ _ _ _ h
  rw [Device.busWrite_head _ _ _ _ _ _ _ hg hp (by decide) (by decide), headerWrite_ctl, Device.arrive_writeCheck, Device.arrive_requester, hw]

theorem ctlWrite_full (d : Device) (src p v) : d.ctlWrite src p 0xFFFFFFFF v =
    let e := (d.enableWrite p (bit v 0) (d.requester src).code).freezeWrite src p (bit v 2)
    if bit v 1 then e.softReset p (d.requester src).code else e := by
  unfold Device.ctlWrite
  dsimp only
  rw [if_neg (by decide)]

theorem ctlWord_bit (d : Device) (p : Fin 256) (i : Nat) (h : i ≠ 1) : bit (d.ctlWord p) i = bit (d.head p).ctl i := by
  unfold Device.ctlWord; rw [bit_setBit _ _ _ _ (by decide), if_neg h]

theorem enable_same (d : Device) (p : Nat) (on : Bool) (who : Nat) (h : on = bit (d.head (pg p)).ctl 0) (hp : p = 0x040 → on = true) :
    (d.enableWrite p on who).hdr = d.hdr := by
  unfold Device.enableWrite
  dsimp only
  rw [if_pos h]
  split
  · rename_i h4; rw [hp h4]; rfl
  · rfl

theorem freeze_head (d : Device) (src : Source) (p : Nat) (on : Bool) : bit ((d.freezeWrite src p on).head (pg p)).ctl 2 = on ∧
    bit ((d.freezeWrite src p on).head (pg p)).ctl 0 = bit (d.head (pg p)).ctl 0 := by
  unfold Device.freezeWrite
  by_cases h : on = d.isFrozen p
  · rw [if_pos h]; exact ⟨by rw [h]; rfl, rfl⟩
  · rw [if_neg h]
    cases on
    · rw [if_neg (by decide), Device.head_updHdr]
      exact ⟨by dsimp only; rw [bit_setBit _ _ _ _ (by decide), if_pos rfl], by dsimp only; rw [bit_setBit _ _ _ _ (by decide), if_neg (by decide)]⟩
    · rw [if_pos rfl]; dsimp only; rw [Device.head_updHdr]
      exact ⟨by dsimp only; rw [bit_setBit _ _ _ _ (by decide), if_pos rfl], by dsimp only; rw [bit_setBit _ _ _ _ (by decide), if_neg (by decide)]⟩

theorem inService_on {d : Device} (h : d.hupRuns = true) (f : Device → Device) : d.inService f = f d := by unfold Device.inService; rw [if_pos h]

theorem canon_of {d e : Device} (hr : e.regs = d.regs) (hm : e.ram = d.ram) (h : d.canonical = true) : e.canonical = true := by
  unfold Device.canonical at *; rw [hr, hm]; exact h

theorem arrive_canon (d : Device) (src : Source) (a : Nat) (h : d.canonical = true) : (d.arrive src a).canonical = true :=
  canon_of (Device.arrive_regs d src a) (Device.arrive_ram d src a) h

theorem flag_bit (i j : Nat) (b : Bool) (h : i < 32) : bit (flag i b) j = (b && decide (j = i)) := by
  unfold flag bit
  cases b
  · simp
  · simp only [if_true, Bool.true_and, BitVec.getLsbD_ofNat, Nat.testBit_two_pow]
    rw [← Bool.decide_and]
    exact decide_eq_decide.2 (by omega)

end Sys2Proof.Machine
end

