-- ==== Sys2Proof/Laws/Fuses.lean ====
section
/-! SUPPORT. The one-time-programmable array: what a pulse does, and what a command can do to the array. -/

namespace Sys2Proof.Machine
open Sys2Proof

/-! ## Words without a bit outside another -/

theorem covered_iff (a b : Word) : a &&& ~~~b = 0 ↔ ∀ k, a.getLsbD k = true → b.getLsbD k = true := by
  constructor
  · intro h k hk
    have hb := congrArg (fun w : Word => w.getLsbD k) h
    have hlt := BitVec.lt_of_getLsbD hk
    simp only [BitVec.getLsbD_and, BitVec.getLsbD_not, hk, hlt, decide_true, Bool.true_and, BitVec.getLsbD_zero] at hb
    simpa using hb
  · intro h
    apply BitVec.eq_of_getLsbD_eq
    intro k hk
    have := h k
    simp [hk]
    exact this

theorem covered_self (a : Word) : a &&& ~~~a = 0 := by simp

theorem covered_trans {a b c : Word} (h : a &&& ~~~b = 0) (g : b &&& ~~~c = 0) : a &&& ~~~c = 0 := by
  rw [covered_iff] at *
  exact fun k hk => g k (h k hk)

theorem covered_or {a b m : Word} (h : a &&& ~~~b = 0) : a &&& ~~~(b ||| m) = 0 := by
  rw [covered_iff] at *
  intro k hk
  simp [h k hk]

theorem covered_or_or {a b m : Word} (h : a &&& ~~~b = 0) : (a ||| m) &&& ~~~(b ||| m) = 0 := by
  rw [covered_iff] at *
  intro k hk
  rw [BitVec.getLsbD_or, Bool.or_eq_true] at hk ⊢
  exact hk.imp (h k) id

/-! ## A pulse -/

theorem OtpArray.pulse_atM0 (f : OtpArray) (i b : Nat) (st : Bool) (h : Store.wf (fun _ => 0) f.m0 = true) (j : Nat) :
    (f.pulse i b st).atM0 j = if j = i then f.atM0 i ||| BitVec.ofNat 32 (2 ^ b) else f.atM0 j := by
  show (storeFind (storeSet f.m0 i _ 0) j).getD 0 = _
  by_cases hj : j = i
  · subst hj; rw [if_pos rfl]; exact storeFind_set_same (dflt := fun _ => 0) j _ h
  · rw [if_neg hj, storeFind_set_other _ _ _ _ hj]; rfl

theorem OtpArray.pulse_atM1 (f : OtpArray) (i b : Nat) (st : Bool) (h : Store.wf (fun _ => 0) f.m1 = true) (j : Nat) :
    (f.pulse i b st).atM1 j = if st = true ∧ j = i then f.atM1 i ||| BitVec.ofNat 32 (2 ^ b) else f.atM1 j := by
  cases st with
  | false => rw [if_neg (by simp)]; rfl
  | true =>
    show (storeFind (storeSet f.m1 i _ 0) j).getD 0 = _
    by_cases hj : j = i
    · subst hj; rw [if_pos ⟨rfl, rfl⟩]; exact storeFind_set_same (dflt := fun _ => 0) j _ h
    · rw [if_neg (by simp [hj]), storeFind_set_other _ _ _ _ hj]; rfl

theorem OtpArray.grows_refl (f : OtpArray) : f.grows f := fun _ => ⟨covered_self _, covered_self _⟩

theorem OtpArray.grows_trans {f g h : OtpArray} (h1 : f.grows g) (h2 : g.grows h) : f.grows h :=
  fun i => ⟨covered_trans (h1 i).1 (h2 i).1, covered_trans (h1 i).2 (h2 i).2⟩

/-- A pulse adds bits and takes none away (R657). -/
theorem OtpArray.pulse_grows {f : OtpArray} (i b : Nat) (st : Bool) (h : f.wf) : f.grows (f.pulse i b st) := by
  intro j
  rw [OtpArray.pulse_atM0 f i b st h.1, OtpArray.pulse_atM1 f i b st h.2.1]
  constructor
  · split
    · subst j; exact covered_or (covered_self _)
    · exact covered_self _
  · split
    · rename_i hj; rw [hj.2]; exact covered_or (covered_self _)
    · exact covered_self _

/-- A pulse keeps the array in canonical form. -/
theorem OtpArray.pulse_wf {f : OtpArray} (i b : Nat) (st : Bool) (h : f.wf) : (f.pulse i b st).wf := by
  refine ⟨storeSet_wf i _ h.1, ?_, fun j => ?_⟩
  · unfold OtpArray.pulse
    cases st
    · exact h.2.1
    · exact storeSet_wf i _ h.2.1
  · rw [OtpArray.pulse_atM0 f i b st h.1, OtpArray.pulse_atM1 f i b st h.2.1]
    have hj := h.2.2 j
    split
    · rename_i c
      rw [if_pos c.2]
      rw [c.2] at hj
      exact covered_or_or hj
    · split
      · rename_i c; rw [c] at hj ⊢; exact covered_or hj
      · exact hj

/-! ## What a command can do to the array -/

/-- The array stays, or one pulse acts on it. -/
def OtpArray.pulsedTo (f g : OtpArray) : Prop := g = f ∨ ∃ i b st, g = f.pulse i b st

theorem OtpArray.pulsedTo.wf {f g : OtpArray} (h : f.pulsedTo g) (hf : f.wf) : g.wf := by
  obtain rfl | ⟨i, b, st, rfl⟩ := h
  · exact hf
  · exact OtpArray.pulse_wf i b st hf

theorem OtpArray.pulsedTo.grows {f g : OtpArray} (h : f.pulsedTo g) (hf : f.wf) : f.grows g := by
  obtain rfl | ⟨i, b, st, rfl⟩ := h
  · exact OtpArray.grows_refl _
  · exact OtpArray.pulse_grows i b st hf

theorem Device.pulseDone_fuses (d : Device) (f : OtpArray) (m1 ok : Bool) : f.pulsedTo (d.pulseDone f m1 ok).2 := by
  unfold Device.pulseDone
  dsimp only
  (repeat' split) <;> first | exact .inl rfl | exact .inr ⟨_, _, _, rfl⟩

theorem Device.pulseCut_fuses (d : Device) (f : OtpArray) : f.pulsedTo (d.pulseCut f).2 := by
  unfold Device.pulseCut
  dsimp only
  (repeat' split) <;> first | exact .inl rfl | exact .inr ⟨_, _, _, rfl⟩

theorem Device.cutPulse_fuses (d : Device) (f : OtpArray) : f.pulsedTo (d.cutPulse f).2 := Device.pulseCut_fuses d f

theorem Device.requiredDown_fuses (d : Device) (f : OtpArray) (i code : Nat) (down : Supplies → Supplies) :
    f.pulsedTo (d.requiredDown f i code down).2 := Device.pulseCut_fuses d.orHold f

theorem Device.porAssert_fuses (d : Device) (f : OtpArray) (dom : Domain) : f.pulsedTo (d.porAssert f dom).2 := by
  unfold Device.porAssert
  cases dom <;> dsimp only <;> (repeat' split) <;> first | exact .inl rfl | exact Device.pulseCut_fuses d.orHold f

theorem Device.clockFailure_fuses (d : Device) (f : OtpArray) : f.pulsedTo (d.clockFailure f).2 := by
  unfold Device.clockFailure
  split
  · exact .inl rfl
  · exact Device.pulseCut_fuses d.orHold f

theorem Device.lockTimeout_fuses (d : Device) (f : OtpArray) : f.pulsedTo (d.lockTimeout f).2 := by
  unfold Device.lockTimeout
  split
  · exact .inl rfl
  · exact Device.clockFailure_fuses d f

end Sys2Proof.Machine
end

