-- ==== Sys2Proof/Laws/Boot.lean ====
section
/-! SUPPORT. Supplies, device reset and the boot stages: what each operation does to the boot state and to the AO domain. -/

namespace Sys2Proof.Machine
open Sys2Proof

theorem clkSync_boot (d : Device) : d.clkSync.boot = d.boot := keeps_boot (by simp)

theorem ringsHost_boot (d : Device) : d.ringsHost.boot = d.boot := keeps_boot (by simp)

theorem pcieReset_boot (d : Device) : d.pcieReset.boot = d.boot := keeps_boot (by simp)

theorem cutPulse_boot (d : Device) (f) : (d.cutPulse f).1.boot = d.boot := keeps_boot (by simp)

theorem orHold_boot (d : Device) : (d.orHold).boot = d.boot := rfl

theorem latchCause_boot (d : Device) (i c) : (d.latchCause i c).boot = d.boot := keeps_boot (by simp)

theorem syncState_boot (d : Device) (p c a b : Nat) : (d.syncState p c a b).boot = d.boot := keeps_boot (by simp)

theorem whenLive_boot (d : Device) (g : Device → Device) (h : ∀ d, (g d).boot = d.boot) : (d.whenLive g).boot = d.boot := by
  unfold Device.whenLive; split <;> simp_all

theorem resetEntry_up (d : Device) : d.resetEntry.boot.up = d.boot.up := by
  unfold Device.resetEntry; split <;> rfl

theorem aoDown_up (d : Device) : d.aoDown.boot.up = { d.boot.up with ao := false } := by
  unfold Device.aoDown
  dsimp only
  rw [clkSync_boot]
  split
  · rfl
  · exact congrArg Boot.up (whenLive_boot _ _ fun d => syncState_boot _ _ _ _ _)

theorem requiredDown_up (d : Device) (f i c down) : (d.requiredDown f i c down).1.boot.up = down d.boot.up := by
  unfold Device.requiredDown
  dsimp only
  rw [latchCause_boot, cutPulse_boot, orHold_boot]

theorem porAssert_up (d : Device) (f) (dom e : Domain) : (d.porAssert f dom).1.boot.up.level e = (d.boot.up.level e && e != dom) := by
  unfold Device.porAssert
  cases dom <;> dsimp only
  · split
    · rw [aoDown_up]; cases e <;> simp [Supplies.level]
    · cases e <;> simp_all [Supplies.level]
  · split
    · show Supplies.level ((d.requiredDown f 1 2 fun u => { u with hv := false }).1.boot.up) _ = _
      rw [requiredDown_up]
      cases e <;> simp [Supplies.level]
    · cases e <;> simp_all [Supplies.level]
  · split
    · rw [requiredDown_up]; cases e <;> simp [Supplies.level]
    · cases e <;> simp_all [Supplies.level]
  · split
    · rw [requiredDown_up]; cases e <;> simp [Supplies.level]
    · cases e <;> simp_all [Supplies.level]
  · split
    · rw [requiredDown_up]; cases e <;> simp [Supplies.level]
    · cases e <;> simp_all [Supplies.level]
  · split
    · rw [clkSync_boot, ringsHost_boot]
      dsimp only
      rw [pcieReset_boot]
      cases e <;> simp [Supplies.level]
    · cases e <;> simp_all [Supplies.level]

theorem porRelease_up (d : Device) (dom e : Domain) : (d.porRelease dom).boot.up.level e = (d.boot.up.level e || e == dom) := by
  unfold Device.porRelease
  cases dom <;> dsimp only
  all_goals (try rw [clkSync_boot])
  all_goals (try split)
  all_goals (try simp only [resetEntry_up])
  all_goals cases e <;> simp_all [Supplies.level]

theorem resetOf_lemma (d : Device) (a : Nat) (h : aoAddr a = true) : d.resetOf.reg a = d.reg a := by
  show (storeFind (d.regs.filter fun x => aoAddr x.1) a).getD _ = (storeFind d.regs a).getD _
  congr 1
  generalize d.regs = l
  induction l with
  | nil => rfl
  | cons x l ih =>
    rw [List.filter_cons]
    split
    · unfold storeFind; split <;> simp_all
    · rename_i hx
      rw [ih]
      obtain ⟨b, w⟩ := x
      show _ = if a = b then some w else storeFind l a
      rw [if_neg (by rintro rfl; exact hx h)]

theorem setBit_get (w : Word) (i : Nat) (h : i < 32) : bit (setBit w i true) i = true := by
  unfold bit setBit setBits fieldMask
  have h1 : (BitVec.ofNat 32 (2 ^ i)).getLsbD i = true := by
    rw [BitVec.getLsbD_ofNat, Nat.testBit_two_pow_self, decide_eq_true h]; rfl
  have e : (2 ^ (i + 1 - i) - 1) * 2 ^ i = 2 ^ i := by rw [Nat.add_sub_cancel_left]; simp
  simp only [e, if_true, Nat.one_mul, BitVec.getLsbD_or, BitVec.getLsbD_and, h1, Bool.and_true, Bool.or_true]

theorem latch_bit (d : Device) (i c) (h : i < 32) (hu : d.boot.up.ao = true) : bit (d.latchCause i c).ao.rstCause i = true := by
  unfold Device.latchCause; rw [if_pos hu]; exact setBit_get _ _ h

theorem cutPulse_ao (d : Device) (f) : (d.cutPulse f).1.ao = d.ao := keeps_ao (by simp)

theorem keeps_live' {d e : Device} (h : Touches 68719476727 d e) : e.live = d.live := keeps_live h

theorem clockless_held (d : Device) (f i c down) : (d.requiredDown f i c down).1.boot = { d.boot with up := down d.boot.up } := by
  unfold Device.requiredDown
  dsimp only
  rw [latchCause_boot, cutPulse_boot, orHold_boot]

theorem entry_of (d : Device) (h : d.boot.held = false) (hp : d.powered = false) : d.resetEntry.boot.held = true := by
  unfold Device.resetEntry
  rw [if_pos (by simp [h, hp])]
  rfl

theorem no_entry (d : Device) (h : d.boot.held = false) (hp : d.powered = true) (hr : d.boot.request = none) : d.resetEntry = d := by
  unfold Device.resetEntry Device.resetDue
  rw [if_neg (by simp [hp, hr])]

theorem stageTo_boot (d : Device) (n : Nat) : (d.stageTo n).boot = { d.boot with stage := n } := rfl

theorem transition_boot (d : Device) (a b c e) : (d.transition a b c e).boot = d.boot := rfl

theorem patchLoad_boot (d : Device) (v) : (d.patchLoad v).boot = d.boot ∨ (d.patchLoad v).boot = { d.boot with patchSkipped := true } := by
  unfold Device.patchLoad
  dsimp only
  split
  · left; rfl
  · split
    · left; rfl
    · right; rfl

theorem hkcSync_boot (d : Device) (a b) : (d.hkcSync a b).boot = d.boot := keeps_boot (by simp)

theorem wdtArmNow_boot (d : Device) (k a b) : (d.wdtArmNow k a b).boot = d.boot := keeps_boot (by simp)

theorem wdtFill_boot (d : Device) (c) : (d.wdtFill c).boot = d.boot := keeps_boot (by simp)

theorem gauReconcile_boot (d : Device) : (d.gauReconcile).boot = d.boot := keeps_boot (by simp)

theorem faultLatch_boot (d : Device) : (d.faultLatch).boot = d.boot := keeps_boot (by simp)

theorem coreRelease_boot (d : Device) : d.coreRelease.boot = { d.boot with coreUp := true, coreRestarting := false, stage := 6 } := by
  unfold Device.coreRelease
  dsimp only
  split
  · rw [wdtArmNow_boot, stageTo_boot, hkcSync_boot]
  · rw [stageTo_boot, hkcSync_boot]

theorem majority_bit (a b c : BitVec 4) (sp : Bool) : ∀ i, i < 4 → bit (field 3 0 (majority a b c).toNat ||| flag 8 sp) i =
    ((a.getLsbD i && b.getLsbD i) || (a.getLsbD i && c.getLsbD i) || (b.getLsbD i && c.getLsbD i)) := by
  intro i hi
  have h1 : ∀ m : BitVec 4, ∀ sp : Bool, ∀ i, i < 4 → bit (field 3 0 m.toNat ||| flag 8 sp) i = m.getLsbD i := by decide
  rw [h1 _ _ i hi]
  simp [majority]

theorem aoWake_boot (d : Device) (c) : (d.aoWake c).boot = d.boot := keeps_boot (by simp)

theorem aoWake_bc (d : Device) (c) : (d.aoWake c).ao.bootCount = d.ao.bootCount := by unfold Device.aoWake; (repeat' split) <;> rfl

theorem clkSync_ao (d : Device) : (d.clkSync).ao = d.ao := keeps_ao (by simp)

theorem atStage_of {d : Device} {n} (h : d.live = true) (h2 : d.boot.stage = n) : d.atStage n = true := by simp [Device.atStage, h, h2]

theorem call_otp (d e : Device) : (((((d.loadPhases).loadEnables e).loadSync e))).otp = d.otp := keeps_otp (by simp)

theorem bankInit_otp (d : Device) : (foldFin 16 (fun (d : Device) n => d.bankInit n) d).otp = d.otp := keeps_otp (by simp)

theorem faultLatch_otp (d : Device) : (d.faultLatch).otp = d.otp := keeps_otp (by simp)

theorem stage_live {d e : Device} (hb : e.boot = d.boot) : e.live = d.live := by unfold Device.live Device.powered; rw [hb]
def RunOr (k : Fin 9) (e : Device) : Prop := (e.wd k).st = .run ∨ ((e.wd k).st = .disarmed ∧ bit (e.wdtReg k 0x044) 29 = true)

theorem wdtWindow_other (d : Device) (i j : Fin 9) (w) (h : j ≠ i) : (d.wdtWindow i w).wd j = d.wd j := by
  unfold Device.wdtWindow
  dsimp only
  split
  · split
    · exact (Device.wd_updWd_other _ _ h).trans (Device.wd_updWd_other _ _ h)
    · exact (Device.wd_updWd_other _ _ h).trans (Device.wd_updWd_other _ _ h)
  · exact Device.wd_updWd_other _ _ h

theorem armNow_wdt (d : Device) (i j : Fin 9) (a b) : (d.wdtArmNow i a b).wd j =
    ((((d.updWd i fun x => { x with armlatch := false }).wdtWindow i 0).updWd i fun x => { x with prev := x.st, st := .run })).wd j := by
  unfold Device.wdtArmNow Device.wdtTo
  dsimp only
  have e1 : ∀ d : Device, ∀ c, (d.aoWake c).wdt = d.wdt := fun d c => keeps_wdt (by simp)
  show (Device.wdt _)[j] = _
  rw [e1]
  rfl

theorem armNow_other (d : Device) (i j : Fin 9) (a b) (h : j ≠ i) : (d.wdtArmNow i a b).wd j = d.wd j := by
  rw [armNow_wdt, Device.wd_updWd_other _ _ h, wdtWindow_other _ _ _ _ h, Device.wd_updWd_other _ _ h]

theorem armNow_run (d : Device) (i : Fin 9) (a b) : ((d.wdtArmNow i a b).wd i).st = .run := by
  rw [armNow_wdt, Device.wd_updWd]

theorem armNow_regs (d : Device) (i : Fin 9) (a b) : (d.wdtArmNow i a b).regs = d.regs := keeps_regs (by simp)
def armStep (d : Device) (k : Fin 8) : Device :=
      let j : Fin 9 := ⟨k.val, by omega⟩
      if bit (d.wdtReg j 0x044) 29 && (d.wd j).st == .disarmed then d.wdtArmNow j 0x10 byHw else d

theorem armStep_reg (d : Device) (i : Fin 8) (a) : (armStep d i).reg a = d.reg a := by
  unfold armStep Device.reg; dsimp only; split
  · rw [armNow_regs]
  · rfl

theorem armStep_boot (d : Device) (i : Fin 8) : (armStep d i).boot = d.boot := by
  unfold armStep; dsimp only; split
  · rw [wdtArmNow_boot]
  · rfl

theorem fold_boot (l : List (Fin 8)) (d : Device) : (l.foldl armStep d).boot = d.boot := by
  induction l generalizing d with
  | nil => rfl
  | cons a l ih => rw [List.foldl_cons, ih, armStep_boot]

theorem armStep_run (d : Device) (i : Fin 8) (j : Fin 9) (h : (d.wd j).st = .run) : ((armStep d i).wd j).st = .run := by
  unfold armStep; dsimp only; split
  · rename_i hc
    by_cases hj : j = ⟨i.val, by omega⟩
    · subst hj; exact armNow_run _ _ _ _
    · rw [armNow_other _ _ _ _ _ hj]; exact h
  · exact h

theorem fold_run (l : List (Fin 8)) (d : Device) (j : Fin 9) (h : (d.wd j).st = .run) : ((l.foldl armStep d).wd j).st = .run := by
  induction l generalizing d with
  | nil => exact h
  | cons a l ih => rw [List.foldl_cons]; exact ih _ (armStep_run _ _ _ h)

theorem fold_arm (l : List (Fin 8)) (d : Device) (k : Fin 8) (hk : k ∈ l) (j : Fin 9) (hj : j = ⟨k.val, by omega⟩) (h : (d.wd j).st = .disarmed) (hb : bit (d.wdtReg j 0x044) 29 = true) :
    ((l.foldl armStep d).wd j).st = .run := by
  induction l generalizing d with
  | nil => simp at hk
  | cons a l ih =>
    rw [List.foldl_cons]
    by_cases ha : a = k
    · subst ha
      apply fold_run
      unfold armStep
      dsimp only
      rw [if_pos (by subst hj; simp [h, hb])]
      subst hj
      exact armNow_run _ _ _ _
    · refine ih _ (by rcases List.mem_cons.1 hk with h | h; exact absurd h.symm ha; exact h) ?_ ?_
      · unfold armStep; dsimp only; split
        · rw [armNow_other _ _ _ _ _ (by subst hj; intro e; apply ha; apply Fin.ext; simpa using (congrArg Fin.val e).symm)]; exact h
        · exact h
      · unfold Device.wdtReg; rw [armStep_reg]; exact hb

theorem fill_st (d : Device) (chal) (j : Fin 9) : ((d.wdtFill chal).wd j).st = (d.wd j).st := by
  unfold Device.wdtFill foldFin
  generalize List.finRange 9 = l
  induction l generalizing d with
  | nil => rfl
  | cons a l ih =>
    rw [List.foldl_cons, ih]
    generalize chal[a] = q
    induction q generalizing d with
    | nil => rfl
    | cons x q ih2 =>
      rw [List.foldl_cons, ih2]
      unfold Device.wdtQueue
      by_cases hj : j = a
      · subst hj; rw [Device.wd_updWd]; split <;> rfl
      · rw [Device.wd_updWd_other _ _ hj]

theorem trim_boot (d : Device) (f) (h1 : d.live = true) (h2 : d.boot.stage = 2) (h3 : d.boot.trimJudged = false) :
    let v := f.values d.freeCount
    let ok := trimValid v (bit (wordOf v 2) 0)
    (d.trimLoad f).boot = { d.boot with
      trimDefault := !ok, trimJudged := true, anaTrim := Vector.ofFn fun i => if ok then wordOf v (8 + i.val) else Config.anaTrimDefault i } := by
  unfold Device.trimLoad
  rw [if_pos (by simp [atStage_of h1 h2, h3])]
  dsimp only
  generalize hf : foldFin 64 _ _ = e
  have he : e.boot = d.boot := by subst hf; exact keeps_boot (by simp)
  rw [he]
  rfl

theorem scanMargins_boot (d : Device) (f) : (d.scanMargins f).boot = d.boot := keeps_boot (by simp)

theorem scan_boot (d : Device) (f) (h1 : d.live = true) (h2 : d.boot.stage = 2) (h3 : d.boot.trimJudged = true) :
    (d.bootScan f).boot.stage = 3 ∧ (d.bootScan f).otp.bootVal = f.values d.freeCount ∧ (d.bootScan f).boot.marginal = decide (0 < (d.bootScan f).otp.nMarg) := by
  have hc : (d.atStage 2 && d.boot.trimJudged) = true := by simp [atStage_of h1 h2, h3]
  have key : ∀ (v : Store) (e : Device) (g : Vector Nat 5) (gs : BitVec 4) (a b c : Bool) (t : _),
      let d2 := e.updOtp fun o => { o with bootVal := v, gens := g, genSeal := gs, jtagLock := a, progLock := b, tScan := t, drift := o.drift || c }
      let d3 := ({ d2 with boot := { d2.boot with marginal := decide (0 < d2.otp.nMarg) } } : Device).stageTo 3
      d3.boot.stage = 3 ∧ d3.otp.bootVal = v ∧ d3.boot.marginal = decide (0 < d3.otp.nMarg) := fun _ _ _ _ _ _ _ _ => ⟨rfl, rfl, rfl⟩
  have e : d.bootScan f = _ := if_pos hc
  rw [e]
  exact key _ _ _ _ _ _ _ _

theorem sheet_load (d : Device) (h1 : d.live = true) (h2 : d.boot.stage = 4) :
    d.callSheetLoad.boot.stage = 5 ∧ d.callSheetLoad.otp.ldWrites = (d.loadSheet false d.otp.bootVal d.boot.gen).done % 65536 ∧
    d.callSheetLoad.otp.ldIgnored = (d.loadSheet false d.otp.bootVal d.boot.gen).ignored % 65536 := by
  unfold Device.callSheetLoad
  rw [if_pos (atStage_of h1 h2)]
  dsimp only
  generalize d.loadSheet false d.otp.bootVal d.boot.gen = l
  generalize ((l.dev.judgeRegs false).judgeRings).judgeMaps = e
  rw [faultLatch_boot, faultLatch_otp]
  have h : ∀ d : Device, (d.stageTo 5).otp = d.otp := fun _ => rfl
  rw [h]
  have hk : ∀ a b c dd (x : Device), x.otp = dd → (((({ x with safe := a, sheet := b, flt := c } : Device).i3cReset 0).i3cReset 1).spiReset).otp = dd := by
    intro a b c dd x hx; rw [← hx]; exact keeps_otp (by simp)
  refine ⟨rfl, ?_⟩
  rw [hk _ _ _ (e.updOtp fun o => { o with ldWrites := l.done % 65536, ldIgnored := l.ignored % 65536 }).otp _ (keeps_otp (by simp))]
  exact ⟨rfl, rfl⟩

theorem glb_block (d : Device) (f src o m v x) : d.blockWrite f src 0x000 o m v x = d.glbWrite o m v := rfl

theorem rst_write (d : Device) (f src be v x) (hbe : alignedBe be = true) (ht : d.takes src 0x000064 (byteMask be) v = true) :
    d.busWrite f src 0x000064 be v x = (d.arrive src 0x000064).glbWrite 0x064 (byteMask be) v :=
  Device.busWrite_page d f src 0x000 0x064 be v x ht (by decide) hbe (by decide) (by decide) (by decide)

theorem setBits_zero_bit (w : Word) (i : Nat) (hi : i < 28) : bit (setBits w 31 28 0) i = bit w i := bit_setBits_other _ _ _ _ _ (Or.inl hi)

theorem privCheck_glb (d : Device) (r o) : d.privCheck r 0x000 o = d.isAdmin r := by
  unfold Device.privCheck
  cases r <;> simp [Device.isAdmin, Device.hasPriv, Device.privOf]

theorem writeBad_glb (d : Device) (src : Source) (o : Nat) (ho : o < 0x1000) (hr : lockedMask o = 0) (m v : Word) :
    d.writeBad src o m v = if d.isAdmin (d.requester src) then none else some errAccvio := by
  unfold Device.writeBad Device.writeCheck
  have e1 : o / 0x1000 = 0 := by omega
  have e2 : o % 0x1000 = o := by omega
  dsimp only
  rw [e1, e2, hr, privCheck_glb]
  have hd : d.devrstBad (d.requester src) 0 o m v = false := by simp [Device.devrstBad]
  have ho : ∀ r, d.ownCheck r 0 o = true := fun r => by simp [Device.ownCheck, phaseAt, ownerPage]
  rw [hd, ho]
  cases d.isAdmin (d.requester src) <;> simp

theorem request_some (d : Device) (q) : (d.requestReset q).boot.request.isSome = true := rfl

end Sys2Proof.Machine
end

