-- ==== Sys2Proof/Laws/Phases.lean ====
section
/-! SUPPORT. Phases: what a move of one phase, a failure, a drain and a write of a phase's registers do. -/

namespace Sys2Proof.Machine
open Sys2Proof

theorem updPh_at (d : Device) (k : Fin 64) (f : Phase → Phase) : (d.updPh k f).ph k = f (d.ph k) := upd_same _ _ _

theorem updPh_beside (d : Device) (k : Fin 64) (f : Phase → Phase) {j : Fin 64} (h : j ≠ k) : (d.updPh k f).ph j = d.ph j := upd_other _ _ h

theorem ph_of {d e : Device} (h : e.phase = d.phase) (k : Fin 64) : e.ph k = d.ph k := by unfold Device.ph; rw [h]

/-- The end of a lend's record: a lend stays recorded until its phase is live, off or failed. -/
theorem lendRecord_ph (d : Device) (k : Fin 64) (r : LendResult) :
    (d.lendRecord k r).ph k = { d.ph k with lendFrom := if r.running then (d.ph k).lendFrom else none } ∧
    ∀ j, j ≠ k → (d.lendRecord k r).ph j = d.ph j := by
  unfold Device.lendRecord
  cases h : (d.ph k).lendFrom with
  | none =>
    dsimp only
    refine ⟨?_, fun j _ => rfl⟩
    rw [ite_self, ← h]
  | some n =>
    dsimp only
    by_cases hc : r.running = true
    · simp only [if_pos hc]
      exact ⟨by rw [← h]; rfl, fun j _ => rfl⟩
    · simp only [if_neg hc]
      have hl : ∀ e : Device, ∀ j, (e.lendEnded n).ph j = e.ph j := fun e j => ph_of (keeps_phase (by unfold Device.lendEnded; simp)) j
      exact ⟨by rw [hl, updPh_at]; rfl, fun j hj => by rw [hl, updPh_beside _ _ _ hj]; rfl⟩

/-- A phase that ends a lend on entry to st. -/
def endsLend : PhaseState → Bool
  | .live => true | .failed => true | .off => true | _ => false

/-- What entry to st leaves in phase k, and that it leaves the others alone. -/
theorem phaseTo_ph (d : Device) (k : Fin 64) (st : PhaseState) (cause who : Nat) :
    (d.phaseTo k st cause who).ph k =
      { (d.ph k).enter st cause who (d.ts % 2 ^ 48) (match (d.ph k).own with | some n => (d.lp n).sense.vs | none => 0) (bits (d.preg k 0x0C) 9 0)
          (d.phMap k) with lendFrom := if endsLend st then none else (d.ph k).lendFrom } ∧
    ∀ j, j ≠ k → (d.phaseTo k st cause who).ph j = d.ph j := by
  unfold Device.phaseTo
  have ht : ∀ (e : Device) p c w x, ∀ j, (((e.syncState p c cause w).pmcCount 0x16 x 1)).ph j = e.ph j :=
    fun e p c w x j => ph_of (keeps_phase (by simp)) j
  dsimp only
  refine ⟨?_, fun j hj => ?_⟩
  · rw [ht]
    cases st <;> first | exact updPh_at _ _ _ | exact (lendRecord_ph _ _ _).1.trans (by rw [updPh_at]; rfl)
  · rw [ht]
    cases st <;> first | exact updPh_beside _ _ _ hj | exact ((lendRecord_ph _ _ _).2 j hj).trans (updPh_beside _ _ _ hj)

/-- Entry to a state is a move. -/
theorem phaseTo_moves (d : Device) (k : Fin 64) (st : PhaseState) (cause who : Nat) : PhaseMoves d (d.phaseTo k st cause who) k st cause who := by
  have h := phaseTo_ph d k st cause who
  refine ⟨?_, ?_, ?_, ?_, ?_, ?_, h.2⟩ <;> rw [h.1] <;> rfl

theorem moves_of {d e a b : Device} {k : Fin 64} {st cause who} (h : PhaseMoves d e k st cause who) (ha : ∀ j, j ≠ k → d.ph j = a.ph j)
    (h1 : (d.ph k).st = (a.ph k).st) (h2 : (d.ph k).contCount = (a.ph k).contCount) (hts : d.ts = a.ts)
    (hb : ∀ j, j ≠ k → b.ph j = e.ph j) (h3 : (b.ph k).st = (e.ph k).st) (h4 : (b.ph k).prev = (e.ph k).prev) (h5 : (b.ph k).contCause = (e.ph k).contCause)
    (h6 : (b.ph k).contBy = (e.ph k).contBy) (h7 : (b.ph k).contCount = (e.ph k).contCount) (h8 : (b.ph k).entry = (e.ph k).entry) : PhaseMoves a b k st cause who := by
  obtain ⟨a1, a2, a3, a4, a5, a6, a7⟩ := h
  exact ⟨h3.trans a1, h4.trans (a2.trans h1), h5.trans a3, h6.trans a4, h7.trans (by rw [a5, h2]), h8.trans (by rw [a6, hts]),
    fun j hj => (hb j hj).trans ((a7 j hj).trans (ha j hj))⟩

theorem moves_then {d e b : Device} {k : Fin 64} {st cause who} (h : PhaseMoves d e k st cause who) (hb : b.phase = e.phase) : PhaseMoves d b k st cause who := by
  have := fun j => ph_of hb j
  exact moves_of h (fun _ _ => rfl) rfl rfl rfl (fun j _ => this j) (by rw [this]) (by rw [this]) (by rw [this]) (by rw [this]) (by rw [this]) (by rw [this])

theorem phaseFail_ph (d : Device) (k : Fin 64) (c cause : Nat) :
    (d.phaseFail k c cause).ph k = { (d.phaseTo k .failed cause).ph k with failCause := c } ∧ ∀ j, j ≠ k → (d.phaseFail k c cause).ph j = d.ph j := by
  have he : ∀ e : Device, e = (d.phaseTo k .failed cause).updPh k (fun p => { p with failCause := c }) →
      e.ph k = { (d.phaseTo k .failed cause).ph k with failCause := c } ∧ ∀ j, j ≠ k → e.ph j = d.ph j := by
    intro e h
    rw [h]
    exact ⟨updPh_at _ _ _, fun j hj => (updPh_beside _ _ _ hj).trans ((phaseTo_ph d k .failed cause byHw).2 j hj)⟩
  unfold Device.phaseFail
  dsimp only
  generalize hg : (d.phaseTo k .failed cause).updPh k (fun p => { p with failCause := c }) = e
  have h := he e hg.symm
  generalize (match (d.ph k).lendFrom with | some n => _ | none => (d.ph k).own) = src
  have ht : ∀ x : Device, x.phase = e.phase → x.ph k = { (d.phaseTo k .failed cause).ph k with failCause := c } ∧ ∀ j, j ≠ k → x.ph j = d.ph j :=
    fun x hx => ⟨(ph_of hx k).trans h.1, fun j hj => (ph_of hx j).trans (h.2 j hj)⟩
  apply ht
  refine keeps_phase ?_
  (repeat' split) <;> simp

theorem phaseFail_moves (d : Device) (k : Fin 64) (c cause : Nat) : PhaseMoves d (d.phaseFail k c cause) k .failed cause byHw ∧
    ((d.phaseFail k c cause).ph k).failCause = c ∧ ((d.phaseFail k c cause).ph k).pulse = .z ∧
    ((d.phaseFail k c cause).ph k).tmonHigh = (d.ph k).tmonHigh := by
  have h := phaseFail_ph d k c cause
  have hp := phaseTo_ph d k .failed cause byHw
  refine ⟨moves_of (phaseTo_moves d k .failed cause byHw) (fun _ _ => rfl) rfl rfl rfl (fun j hj => (h.2 j hj).trans (hp.2 j hj).symm) ?_ ?_ ?_ ?_ ?_ ?_, ?_, ?_, ?_⟩ <;>
    first | rw [h.1] | skip
  · rw [hp.1]; rfl
  · rw [hp.1]; rfl

theorem loop_of {d e : Device} (h : e.loop = d.loop) (n : Fin 16) : e.lp n = d.lp n := by unfold Device.lp; rw [h]

theorem preg_of {d e : Device} (h : e.regs = d.regs) (k : Fin 64) (o : Nat) : e.preg k o = d.preg k o := by
  unfold Device.preg Device.reg; rw [h]

theorem updPh_preg (d : Device) (k : Fin 64) (f : Phase → Phase) (j : Fin 64) (o : Nat) : (d.updPh k f).preg j o = d.preg j o := rfl

theorem phaseTo_regs (d : Device) (k : Fin 64) (st : PhaseState) (cause who : Nat) : (d.phaseTo k st cause who).regs = d.regs := keeps_regs (by simp)

theorem loopOfCode_eq {v : Nat} {n : Fin 16} (h : loopOfCode v = some n) : v = n.val := by
  unfold loopOfCode at h; split at h
  · injection h with h; rw [← h]
  · cases h

theorem updLp_get (d : Device) (m n : Fin 16) (f : Loop → Loop) : (d.updLp m f).lp n = if n = m then f (d.lp m) else d.lp n := by
  unfold Device.lp Device.updLp; exact upd_get _ _ _ _

theorem updLp_st (d : Device) (m n : Fin 16) (f : Loop → Loop) (h : ∀ l, (f l).st = l.st) : ((d.updLp m f).lp n).st = (d.lp n).st := by
  rw [updLp_get]; split
  · rename_i e; rw [h, e]
  · rfl

theorem lendEnded_loop (d : Device) (n : Fin 16) : (d.lendEnded n).loop = d.loop := keeps_loop (by unfold Device.lendEnded; simp)

theorem lendRecord_lpst (d : Device) (k : Fin 64) (r : LendResult) (n : Fin 16) : ((d.lendRecord k r).lp n).st = (d.lp n).st := by
  unfold Device.lendRecord
  split
  · rfl
  · dsimp only
    have h : ∀ m, ∀ g : Loop → Loop, (∀ l, (g l).st = l.st) → ((d.updLp m g).lp n).st = (d.lp n).st := fun m g hg => updLp_st d m n g hg
    split
    · exact h _ _ fun l => by split <;> rfl
    · rw [loop_of (lendEnded_loop _ _)]
      exact h _ _ fun l => by split <;> rfl

/-- A phase's move changes the state of no loop. -/
theorem phaseTo_lpst (d : Device) (k : Fin 64) (st : PhaseState) (cause who : Nat) (n : Fin 16) : ((d.phaseTo k st cause who).lp n).st = (d.lp n).st := by
  unfold Device.phaseTo
  dsimp only
  have ht : ∀ (e : Device) p c w x, ((e.syncState p c cause w).pmcCount 0x16 x 1).lp n = e.lp n := fun e p c w x => loop_of (keeps_loop (by simp)) n
  rw [ht]
  cases st <;> first | rfl | exact (lendRecord_lpst _ _ _ _).trans rfl

theorem handoff_done (s : State) (e : Device) (k : Fin 64) (h : (e.ph k).st = .draining ∧ (e.ph k).dest = .handoff ∧ (e.ph k).contCount = (s.dev.ph k).contCount ∧
    e.regs = s.dev.regs ∧ e.loop = s.dev.loop ∧ e.ts = s.dev.ts ∧ ∀ j, j ≠ k → e.ph j = s.dev.ph j) (hs : (s.dev.ph k).st = .draining) :
    let g := (e.drainDone k).handoffCheck k
    (g.ph k).pulse = .z ∧ (∀ j, j ≠ k → g.ph j = s.dev.ph j) ∧ (g.ph k).own = s.dev.phMap k ∧
      (s.dev.mapRegulates k = true → s.dev.phDisabled k = false → PhaseMoves s.dev g k .handoff 0x14 byHw) ∧
      (s.dev.mapRegulates k = false ∨ s.dev.phDisabled k = true → (g.ph k).st = .off) := by
  obtain ⟨es, hdest, ec, er, el, et, eo⟩ := h
  have hdd : e.drainDone k = (e.phaseTo k .handoff 0x14).updPh k fun p => { p with own := s.dev.phMap k } := by
    unfold Device.drainDone; dsimp only; rw [if_pos (by simp [es]), hdest]
    dsimp only
    have : e.phMap k = s.dev.phMap k := by unfold Device.phMap; rw [preg_of er]
    rw [this]
  have m := phaseTo_moves e k .handoff 0x14 byHw
  have hq : ((e.phaseTo k .handoff 0x14).ph k).pulse = .z := by rw [(phaseTo_ph _ _ _ _ _).1]; rfl
  have hls : ∀ n, ((e.phaseTo k .handoff 0x14).lp n).st = (e.lp n).st := phaseTo_lpst e k _ _ _
  have hre : (e.phaseTo k .handoff 0x14).regs = e.regs := phaseTo_regs e k _ _ _
  dsimp only
  rw [hdd]
  clear hdd
  generalize e.phaseTo k .handoff 0x14 = x at m hq hls hre
  generalize hg : (x.updPh k fun p => { p with own := s.dev.phMap k }) = g
  have gk : g.ph k = { x.ph k with own := s.dev.phMap k } := by rw [← hg, updPh_at]
  have go : ∀ j, j ≠ k → g.ph j = x.ph j := fun j hj => by rw [← hg, updPh_beside _ _ _ hj]
  have gst : (g.ph k).st = .handoff := by rw [gk]; exact m.1
  have gown : (g.ph k).own = s.dev.phMap k := by rw [gk]
  have gpulse : (g.ph k).pulse = .z := by rw [gk]; exact hq
  have gm : PhaseMoves s.dev g k .handoff 0x14 byHw :=
    moves_of m eo (es.trans hs.symm) ec et go (by rw [gk]) (by rw [gk]) (by rw [gk]) (by rw [gk]) (by rw [gk]) (by rw [gk])
  have greg : g.regs = s.dev.regs := by rw [← hg]; exact hre.trans er
  have gloop : ∀ n, (g.lp n).st = (s.dev.lp n).st := by
    intro n; rw [← hg]; exact (hls n).trans (by rw [loop_of el])
  have hreg : (match (g.ph k).own with | some n => (g.lp n).st.regulating | none => false) = s.dev.mapRegulates k := by
    rw [gown]; unfold Device.mapRegulates; cases s.dev.phMap k <;> simp [gloop]
  have hdis : g.phDisabled k = s.dev.phDisabled k := by unfold Device.phDisabled; rw [preg_of greg]
  have hc : g.handoffCheck k = if s.dev.mapRegulates k && !s.dev.phDisabled k then g else g.phaseTo k .off 0x02 := by
    unfold Device.handoffCheck; dsimp only; rw [if_pos (by simp [gst]), hdis, ← hreg] <;> rfl
  have mo := phaseTo_moves g k .off 0x02 byHw
  rw [hc]
  by_cases hok : (s.dev.mapRegulates k && !s.dev.phDisabled k) = true
  · rw [if_pos hok]
    refine ⟨gpulse, gm.2.2.2.2.2.2, gown, fun _ _ => gm, ?_⟩
    intro h; simp at hok; rcases h with h | h <;> simp [hok] at h
  · rw [if_neg hok]
    refine ⟨by rw [(phaseTo_ph _ _ _ _ _).1]; rfl, fun j hj => (mo.2.2.2.2.2.2 j hj).trans (gm.2.2.2.2.2.2 j hj), ?_, ?_, fun _ => mo.1⟩
    · rw [(phaseTo_ph _ _ _ _ _).1]
      show (if _ then g.phMap k else (g.ph k).own) = _
      have : g.phMap k = s.dev.phMap k := by unfold Device.phMap; rw [preg_of greg]
      rw [this, gown, ite_self]
    · intro h1 h2; simp [h1, h2] at hok

theorem learn_ph (d : Device) (k : Fin 64) (off : OffTime) : ((d.learn k off).ph k).st = (d.ph k).st ∧ ((d.learn k off).ph k).own = (d.ph k).own ∧
    ((d.learn k off).ph k).slopeHold = decide ((d.learnWindow k off).length < 4) ∧ ((d.learn k off).ph k).joinCyc = (d.ph k).joinCyc ∧
    ((d.learn k off).ph k).iBal = (d.ph k).iBal ∧ ((d.learn k off).ph k).pulse = (d.ph k).pulse ∧ ((d.learn k off).ph k).edgeDue = (d.ph k).edgeDue ∧
    ∀ j, j ≠ k → (d.learn k off).ph j = d.ph j := by
  unfold Device.learn
  dsimp only
  refine ⟨?_, ?_, ?_, ?_, ?_, ?_, ?_, fun j hj => updPh_beside _ _ _ hj⟩ <;> rw [updPh_at] <;> (repeat' split) <;> rfl

/-- The latest of a list of samples changes raw and cur of its phase alone. -/
theorem takeLast_ph (d : Device) (k : Fin 64) (l : List Imon) : ∃ a b, (d.takeLast k l).ph k = { d.ph k with raw := a, cur := b } := by
  unfold Device.takeLast Device.takeImon
  split
  · split
    · exact ⟨_, _, rfl⟩
    · exact ⟨_, _, updPh_at _ _ _⟩
  · exact ⟨_, _, rfl⟩

theorem takeLast_beside (d : Device) (k : Fin 64) (l : List Imon) {j : Fin 64} (h : j ≠ k) : (d.takeLast k l).ph j = d.ph j := by
  unfold Device.takeLast Device.takeImon
  split
  · split
    · rfl
    · exact updPh_beside _ _ _ h
  · rfl

/-- What every leading edge leaves of its phase: the learner and the samples touch nothing that the peak code depends on. -/
theorem offEnds_ph (d : Device) (k : Fin 64) (off : OffTime) : ((d.offEnds k off).ph k).st = (d.ph k).st ∧ ((d.offEnds k off).ph k).own = (d.ph k).own ∧
    ((d.offEnds k off).ph k).slopeHold = decide ((d.learnWindow k off).length < 4) ∧ ((d.offEnds k off).ph k).joinCyc = (d.ph k).joinCyc ∧
    ((d.offEnds k off).ph k).iBal = (d.ph k).iBal ∧ ((d.offEnds k off).ph k).pulse = (d.ph k).pulse ∧ ((d.offEnds k off).ph k).edgeDue = (d.ph k).edgeDue ∧
    ∀ j, j ≠ k → (d.offEnds k off).ph j = d.ph j := by
  obtain ⟨h1, h2, h3, h4, h5, h6, h7, h8⟩ := learn_ph d k off
  obtain ⟨a, b, ht⟩ := takeLast_ph (d.learn k off) k off.samples
  unfold Device.offEnds
  refine ⟨?_, ?_, ?_, ?_, ?_, ?_, ?_, fun j hj => ?_⟩
  · rw [updPh_at, ht]; exact h1
  · rw [updPh_at, ht]; exact h2
  · rw [updPh_at, ht]; exact h3
  · rw [updPh_at, ht]; exact h4
  · rw [updPh_at, ht]; exact h5
  · rw [updPh_at, ht]; exact h6
  · rw [updPh_at, ht]; exact h7
  · rw [updPh_beside _ _ _ hj, takeLast_beside _ _ _ hj]; exact h8 j hj

theorem offEnds_loop (d : Device) (k : Fin 64) (off : OffTime) : (d.offEnds k off).loop = d.loop := keeps_loop (by simp)

theorem offEnds_regs (d : Device) (k : Fin 64) (off : OffTime) : (d.offEnds k off).regs = d.regs := keeps_regs (by simp)

/-- What the detectors count of one detection changes no state of a phase, and no other phase. -/
theorem countDetect_ph (d : Device) (k : Fin 64) (det : PhaseDetect) : ((d.countDetect k det).ph k).st = (d.ph k).st ∧
    ((d.countDetect k det).ph k).contCount = (d.ph k).contCount ∧ ((d.countDetect k det).ph k).tmonHigh = (d.ph k).tmonHigh ∧
    (d.countDetect k det).ts = d.ts ∧ ∀ j, j ≠ k → (d.countDetect k det).ph j = d.ph j := by
  have hts : (d.countDetect k det).ts = d.ts := keeps_ts (by simp)
  refine ⟨?_, ?_, ?_, hts, fun j hj => ?_⟩
  all_goals unfold Device.countDetect; split
  all_goals first | rfl | skip
  all_goals split
  all_goals first | rfl | skip
  all_goals first | (rw [updPh_beside _ _ _ hj]; exact takeLast_beside _ _ _ hj) | skip
  all_goals rw [updPh_at]
  all_goals (obtain ⟨a, b, ht⟩ := takeLast_ph d k (by assumption); rw [ht])

theorem countDetects_ph (l : List PhaseDetect) (d : Device) (k : Fin 64) : ((l.foldl (fun d det => d.countDetect k det) d).ph k).st = (d.ph k).st ∧
    ((l.foldl (fun d det => d.countDetect k det) d).ph k).contCount = (d.ph k).contCount ∧
    ((l.foldl (fun d det => d.countDetect k det) d).ph k).tmonHigh = (d.ph k).tmonHigh ∧
    (l.foldl (fun d det => d.countDetect k det) d).ts = d.ts ∧ ∀ j, j ≠ k → (l.foldl (fun d det => d.countDetect k det) d).ph j = d.ph j := by
  induction l generalizing d with
  | nil => exact ⟨rfl, rfl, rfl, rfl, fun _ _ => rfl⟩
  | cons x l ih =>
    obtain ⟨a1, a2, a3, a4, a5⟩ := countDetect_ph d k x
    obtain ⟨b1, b2, b3, b4, b5⟩ := ih (d.countDetect k x)
    exact ⟨b1.trans a1, b2.trans a2, b3.trans a3, b4.trans a4, fun j hj => (b5 j hj).trans (a5 j hj)⟩

theorem peak_of {d e : Device} (k : Fin 64) (h1 : (e.ph k).own = (d.ph k).own) (h2 : (e.ph k).st = (d.ph k).st) (h3 : (e.ph k).joinCyc = (d.ph k).joinCyc)
    (h4 : (e.ph k).iBal = (d.ph k).iBal) (hl : e.loop = d.loop) (hr : e.regs = d.regs) : e.peakOf k = d.peakOf k := by
  unfold Device.peakOf
  simp only [h1, h2, h3, h4, preg_of hr, loop_of hl]

theorem phaseLend_active (d : Device) (k : Fin 64) (h : (d.ph k).st.active = true) :
    d.phaseLend k = (d.phaseTo k .draining 0x12).updPh k fun p => { p with dest := .handoff } := by
  unfold Device.phaseLend
  cases hs : (d.ph k).st <;> rw [hs] at h <;> first | rfl | cases h

theorem phs_write (d : Device) (f : OtpArray) (src : Source) (k : Fin 64) (o : Nat) (be : BitVec 4) (v : Word) (x : WriteInfo)
    (ho : o < 0x40) (h4 : o % 4 = 0) (hbe : alignedBe be = true) (ht : d.takes src (phaseAddr k o) (byteMask be) v = true) :
    d.busWrite f src (phaseAddr k o) be v x =
      (d.arrive src (phaseAddr k o)).phsWrite (d.requester src) k (0x020 + k.val / 8) (0x100 + 0x40 * (k.val % 8) + o) (byteMask be) v x := by
  have h := Device.busWrite_page d f src (0x020 + k.val / 8) (0x100 + 0x40 * (k.val % 8) + o) be v x ht (by rw [blockOf_phs]; rfl) hbe (by omega) (by omega) (by omega)
  refine h.trans ?_
  rw [Device.blockWrite_phs _ _ _ _ _ ho, Device.arrive_requester]; rfl

theorem phs_mod (k : Fin 64) (o : Nat) (h : o < 0x40) : (0x100 + 0x40 * (k.val % 8) + o) % 0x40 = o := by omega

theorem phs_clamp (k : Fin 64) (o : Nat) (h : o < 0x40) (h1 : o ≠ 0x10) (w : Word) : clampWord (0x020 + k.val / 8) (0x100 + 0x40 * (k.val % 8) + o) w = w := by
  unfold clampWord; rw [blockOf_phs]; dsimp only; rw [if_neg (by omega)]

theorem phs_ctl_mask (k : Fin 64) : bit (storedMask (phaseAddr k 0x18)) 1 = true ∧ bit (storedMask (phaseAddr k 0x18)) 0 = false := by
  revert k; decide

/-- The exit from FAILED of phase k in a device that differs from d at most in samples and the TMON comparator. -/
theorem leave_failed (d e : Device) (k : Fin 64) (active : Bool) (who : Nat) (s1 : (e.ph k).st = (d.ph k).st) (s2 : (e.ph k).contCount = (d.ph k).contCount)
    (s3 : (e.ph k).own = (d.ph k).own) (s4 : ∀ j, j ≠ k → e.ph j = d.ph j) (r1 : e.regs = d.regs) (r2 : e.loop = d.loop) (r3 : e.ts = d.ts) :
    let reg := match (e.ph k).own with
      | some n => (e.lp n).st.regulating
      | none => false
    let g := if (e.ph k).st == .failed && !active then e.phaseTo k (if reg then .parked else .off) 0x1D who else e
    ((d.ph k).st = .failed → active = false → PhaseMoves d g k (if d.ownRegulates k then .parked else .off) 0x1D who ∧ (g.ph k).failCause = 0) ∧
    ((d.ph k).st ≠ .failed ∨ active = true → (g.ph k).st = (d.ph k).st) ∧ (∀ j, j ≠ k → g.ph j = d.ph j) ∧ g.regs = d.regs := by
  have ho : (match (e.ph k).own with | some n => (e.lp n).st.regulating | none => false) = d.ownRegulates k := by
    rw [s3]; unfold Device.ownRegulates; cases (d.ph k).own <;> simp only [loop_of r2]
  dsimp only
  rw [ho, s1]
  by_cases hc : ((d.ph k).st == .failed && !active) = true
  · rw [if_pos hc]
    have m := phaseTo_moves e k (if d.ownRegulates k then .parked else .off) 0x1D who
    simp only [Bool.and_eq_true, beq_iff_eq, Bool.not_eq_true'] at hc
    have hfc : ((e.phaseTo k (if d.ownRegulates k then .parked else .off) 0x1D who).ph k).failCause = 0 := by
      refine (congrArg Phase.failCause (phaseTo_ph _ _ _ _ _).1).trans ?_
      show (if (e.ph k).st == .failed then 0 else (e.ph k).failCause) = 0
      rw [if_pos (by rw [s1, hc.1]; rfl)]
    refine ⟨fun _ _ => ⟨moves_of m s4 s1 s2 r3 (fun _ _ => rfl) rfl rfl rfl rfl rfl rfl, hfc⟩, fun h => ?_, fun j hj => (m.2.2.2.2.2.2 j hj).trans (s4 j hj),
      (phaseTo_regs _ _ _ _ _).trans r1⟩
    rcases h with h | h
    · exact absurd hc.1 h
    · rw [hc.2] at h; cases h
  · rw [if_neg hc]
    refine ⟨fun a b => absurd (by simp [a, b]) hc, fun _ => s1, s4, r1⟩

/-- CLR_FAIL leaves FAILED exactly when no failure cause is active (R230). -/
theorem clr_moves (d : Device) (k : Fin 64) (x : Option FailSeen) (who : Nat) :
    ((d.ph k).st = .failed → d.failActive k x = false → PhaseMoves d (d.clrFail k x who) k (if d.ownRegulates k then .parked else .off) 0x1D who ∧
      ((d.clrFail k x who).ph k).failCause = 0) ∧
    ((d.ph k).st ≠ .failed ∨ d.failActive k x = true → ((d.clrFail k x who).ph k).st = (d.ph k).st) ∧
    (∀ j, j ≠ k → (d.clrFail k x who).ph j = d.ph j) ∧ (d.clrFail k x who).regs = d.regs := by
  cases x with
  | none => exact leave_failed d d k (d.failActive k none) who rfl rfl rfl (fun _ _ => rfl) rfl rfl rfl
  | some x =>
    obtain ⟨a, b, ht⟩ := takeLast_ph d k x.samples
    refine leave_failed d ((d.takeLast k x.samples).updPh k fun p => { p with tmonHigh := x.tmon }) k (d.failActive k (some x)) who ?_ ?_ ?_
      (fun j hj => (updPh_beside _ _ _ hj).trans (takeLast_beside _ _ _ hj)) (keeps_regs (by simp)) (keeps_loop (by simp)) (keeps_ts (by simp)) <;>
      rw [updPh_at, ht]

theorem moves_from {d a b : Device} {k st cause who} (h : PhaseMoves d b k st cause who) (hp : d.phase = a.phase) (ht : d.ts = a.ts) : PhaseMoves a b k st cause who := by
  have := fun j => ph_of hp j
  exact moves_of h (fun j _ => this j) (by rw [this]) (by rw [this]) ht (fun _ _ => rfl) rfl rfl rfl rfl rfl rfl

theorem dis_moves (d : Device) (k : Fin 64) (who : Nat) :
    ((d.ph k).st.active = true → PhaseMoves d (d.phaseDisable k 0x01 who) k .draining 0x01 who ∧ ((d.phaseDisable k 0x01 who).ph k).dest = .off) ∧
    ((d.ph k).st = .parked ∨ (d.ph k).st = .handoff → PhaseMoves d (d.phaseDisable k 0x01 who) k .off 0x01 who) ∧
    (∀ j, j ≠ k → (d.phaseDisable k 0x01 who).ph j = d.ph j) ∧ (d.phaseDisable k 0x01 who).regs = d.regs := by
  have hupd : ∀ (e : Device) (f : Phase → Phase) st, PhaseMoves d e k st 0x01 who → (∀ p, (f p).st = p.st ∧ (f p).prev = p.prev ∧ (f p).contCause = p.contCause ∧
      (f p).contBy = p.contBy ∧ (f p).contCount = p.contCount ∧ (f p).entry = p.entry) → PhaseMoves d (e.updPh k f) k st 0x01 who := by
    intro e f st m hf
    obtain ⟨f1, f2, f3, f4, f5, f6⟩ := hf (e.ph k)
    exact moves_of m (fun _ _ => rfl) rfl rfl rfl (fun j hj => updPh_beside _ _ _ hj) (by rw [updPh_at, f1]) (by rw [updPh_at, f2]) (by rw [updPh_at, f3]) (by rw [updPh_at, f4]) (by rw [updPh_at, f5]) (by rw [updPh_at, f6])
  have b := phaseTo_moves d k .off 0x01 who
  have br := phaseTo_regs d k .off 0x01 who
  have a : PhaseMoves d ((d.phaseTo k .draining 0x01 who).updPh k (fun p => { p with dest := .off })) k .draining 0x01 who :=
    hupd _ _ _ (phaseTo_moves _ _ _ _ _) (fun _ => ⟨rfl, rfl, rfl, rfl, rfl, rfl⟩)
  have key : ∀ t : Device, t = d.phaseDisable k 0x01 who →
      ((d.ph k).st.active = true ∧ t = (d.phaseTo k .draining 0x01 who).updPh k (fun p => { p with dest := .off })) ∨
      (((d.ph k).st = .parked ∨ (d.ph k).st = .handoff) ∧ t = d.phaseTo k .off 0x01 who) ∨
      ((d.ph k).st.active = false ∧ (d.ph k).st ≠ .parked ∧ (d.ph k).st ≠ .handoff ∧ (∀ j, j ≠ k → t.ph j = d.ph j) ∧ t.regs = d.regs) := by
    intro t ht
    unfold Device.phaseDisable at ht
    cases hs : (d.ph k).st with
    | joining => rw [hs] at ht; exact Or.inl ⟨rfl, ht⟩
    | live => rw [hs] at ht; exact Or.inl ⟨rfl, ht⟩
    | parked => rw [hs] at ht; exact Or.inr (Or.inl ⟨Or.inl rfl, ht⟩)
    | handoff => rw [hs] at ht; exact Or.inr (Or.inl ⟨Or.inr rfl, ht⟩)
    | draining =>
      rw [hs] at ht; dsimp only at ht; rw [ht]
      exact Or.inr (Or.inr ⟨rfl, nofun, nofun, fun j hj => updPh_beside _ _ _ hj, rfl⟩)
    | unpop => rw [hs] at ht; dsimp only at ht; rw [ht]; exact Or.inr (Or.inr ⟨rfl, nofun, nofun, fun _ _ => rfl, rfl⟩)
    | off => rw [hs] at ht; dsimp only at ht; rw [ht]; exact Or.inr (Or.inr ⟨rfl, nofun, nofun, fun _ _ => rfl, rfl⟩)
    | failed => rw [hs] at ht; dsimp only at ht; rw [ht]; exact Or.inr (Or.inr ⟨rfl, nofun, nofun, fun _ _ => rfl, rfl⟩)
    | crowbar => rw [hs] at ht; dsimp only at ht; rw [ht]; exact Or.inr (Or.inr ⟨rfl, nofun, nofun, fun _ _ => rfl, rfl⟩)
    | forced => rw [hs] at ht; dsimp only at ht; rw [ht]; exact Or.inr (Or.inr ⟨rfl, nofun, nofun, fun _ _ => rfl, rfl⟩)
  have hk := key _ rfl
  generalize d.phaseDisable k 0x01 who = t at hk
  rcases hk with ⟨h1, h2⟩ | ⟨h1, h2⟩ | ⟨h1, h2, h3, h4, h5⟩
  · rw [h2]
    refine ⟨fun _ => ⟨a, by rw [updPh_at]⟩, fun h => ?_, a.2.2.2.2.2.2, by rw [Device.updPh_regs]; exact phaseTo_regs _ _ _ _ _⟩
    rcases h with h | h <;> rw [h] at h1 <;> cases h1
  · rw [h2]
    refine ⟨fun h => ?_, fun _ => b, b.2.2.2.2.2.2, br⟩
    rcases h1 with h1 | h1 <;> rw [h1] at h <;> cases h
  · refine ⟨fun h => ?_, fun h => ?_, h4, h5⟩
    · rw [h1] at h; cases h
    · rcases h with h | h
      · exact absurd h h2
      · exact absurd h h3

theorem own_regulates_of {d e : Device} (hp : e.phase = d.phase) (hl : e.loop = d.loop) (k : Fin 64) : e.ownRegulates k = d.ownRegulates k := by
  unfold Device.ownRegulates; rw [ph_of hp]; simp only [loop_of hl]

theorem imonAmps_of {d e : Device} (hr : e.regs = d.regs) (k : Fin 64) : e.imonAmps k = d.imonAmps k := by
  funext x; unfold Device.imonAmps; rw [preg_of hr]

theorem phOcf_of {d e : Device} (hp : e.phase = d.phase) (hr : e.regs = d.regs) (k : Fin 64) : e.phOcf k = d.phOcf k := by
  unfold Device.phOcf Device.lreg
  simp only [ph_of hp, Device.reg, hr]

theorem failActive_of {d e : Device} (hp : e.phase = d.phase) (hr : e.regs = d.regs) (k : Fin 64) (x : Option FailSeen) : e.failActive k x = d.failActive k x := by
  unfold Device.failActive
  cases x <;> simp only [ph_of hp, imonAmps_of hr, phOcf_of hp hr]

theorem arrive_ph (d : Device) (src a) (k : Fin 64) : (d.arrive src a).ph k = d.ph k := ph_of (Device.arrive_phase d src a) k

theorem phs_ctl (d : Device) (r : Requester) (k : Fin 64) (p o : Nat) (m v : Word) (x : WriteInfo) (h : o % 0x40 = 0x18) : d.phsWrite r k p o m v x =
    (let e := if bit m 1 && bit v 1 != d.phDisabled k then
        (let e := d.putIf true 0 p o m v
        if bit v 1 then e.phaseDisable k 0x01 r.code else e)
      else d
    if bit (v &&& m) 0 then e.clrFail k x.seen r.code else e) := by
  unfold Device.phsWrite
  rw [h]
  rfl

end Sys2Proof.Machine
end

