-- ==== Sys2Proof/Laws/LoopSlots.lean ====
section
/-! SUPPORT. Loops: what an update slot and an interleave boundary do. -/

namespace Sys2Proof.Machine
open Sys2Proof

theorem updLp_at (d : Device) (n : Fin 16) (f : Loop → Loop) : (d.updLp n f).lp n = f (d.lp n) := by rw [updLp_get, if_pos rfl]

theorem updLp_beside (d : Device) (n : Fin 16) (f : Loop → Loop) {m : Fin 16} (h : m ≠ n) : (d.updLp n f).lp m = d.lp m := by rw [updLp_get, if_neg h]

theorem updLp_ph (d : Device) (n : Fin 16) (f : Loop → Loop) (k : Fin 64) : (d.updLp n f).ph k = d.ph k := rfl

theorem lreg_of {d e : Device} (h : e.regs = d.regs) (n : Fin 16) (o : Nat) : e.lreg n o = d.lreg n o := by unfold Device.lreg Device.reg; rw [h]

theorem countSlot_keeps (d : Device) (ev i : Nat) : (d.countSlot ev i).loop = d.loop ∧ (d.countSlot ev i).phase = d.phase ∧ (d.countSlot ev i).regs = d.regs :=
  ⟨keeps_loop (by simp), keeps_phase (by simp), keeps_regs (by simp)⟩

theorem clampI_within (lo hi x : Int) (h : lo ≤ hi) : lo ≤ clampI lo hi x ∧ clampI lo hi x ≤ hi := by unfold clampI; omega

theorem iSat_pos (g : Nat) : 0 ≤ iSat g := by unfold iSat; exact Int.le_of_lt (Int.pow_pos (by decide))

theorem compensate_bounds (l : Loop) (c0 c1 c2 : Word) (g : Nat) (u v : Bool) (e : Int) :
    -(iSat g) ≤ (l.compensate c0 c1 c2 g u v e).integ ∧ (l.compensate c0 c1 c2 g u v e).integ ≤ iSat g ∧
    (l.compensate c0 c1 c2 g u v e).iCmd ≤ 32767 ∧ (l.compensate c0 c1 c2 g u v e).iCmd = cmdOf (l.compensate c0 c1 c2 g u v e).y2 g ∧
    (l.compensate c0 c1 c2 g u v e).st = l.st ∧ (l.compensate c0 c1 c2 g u v e).sense = l.sense ∧ (l.compensate c0 c1 c2 g u v e).vRef = l.vRef := by
  have h := iSat_pos g
  have hb := fun x => clampI_within (-(iSat g)) (iSat g) x (by omega)
  refine ⟨(hb _).1, (hb _).2, ?_, rfl, rfl, rfl, rfl⟩
  show cmdOf _ _ ≤ _
  unfold cmdOf
  dsimp only
  generalize hx : (2 * _ + _ : Int) / _ = x
  have := clampI_within 0 32767 x (by decide)
  omega

theorem foldl_inv {α : Type} (P : Device → Prop) (f : Device → α → Device) (l : List α) (d : Device) (h0 : P d) (h : ∀ e a, P e → P (f e a)) : P (l.foldl f d) := by
  induction l generalizing d with
  | nil => exact h0
  | cons a l ih => exact ih _ (h _ _ h0)

theorem updPh_field {α : Type} (F : Phase → α) (d : Device) (k j : Fin 64) (f : Phase → Phase) (h : ∀ p, F (f p) = F p) : F ((d.updPh k f).ph j) = F (d.ph j) := by
  by_cases e : j = k
  · subst e; rw [updPh_at, h]
  · rw [updPh_beside _ _ _ e]

theorem loadPeak_keeps (d : Device) (k : Fin 64) : (d.loadPeak k).loop = d.loop ∧ (d.loadPeak k).regs = d.regs ∧
    (∀ j, ((d.loadPeak k).ph j).st = (d.ph j).st ∧ ((d.loadPeak k).ph j).own = (d.ph j).own ∧ ((d.loadPeak k).ph j).iBal = (d.ph j).iBal ∧
      ((d.loadPeak k).ph j).perDone = (d.ph j).perDone) ∧ ∀ j, j ≠ k → (d.loadPeak k).ph j = d.ph j := by
  unfold Device.loadPeak
  split
  · refine ⟨rfl, rfl, fun j => ⟨?_, ?_, ?_, ?_⟩, fun j hj => updPh_beside _ _ _ hj⟩
    · rw [updPh_field Phase.st]; intro p; rfl
    · rw [updPh_field Phase.own]; intro p; rfl
    · rw [updPh_field Phase.iBal]; intro p; rfl
    · rw [updPh_field Phase.perDone]; intro p; rfl
  · exact ⟨rfl, rfl, fun _ => ⟨rfl, rfl, rfl, rfl⟩, fun _ _ => rfl⟩

theorem loadPeaks_keeps (d : Device) (n : Fin 16) : (d.loadPeaks n).loop = d.loop ∧ (d.loadPeaks n).regs = d.regs ∧
    ∀ k, ((d.loadPeaks n).ph k).st = (d.ph k).st ∧ ((d.loadPeaks n).ph k).own = (d.ph k).own := by
  unfold Device.loadPeaks
  refine foldl_inv (fun e => e.loop = d.loop ∧ e.regs = d.regs ∧ ∀ k, (e.ph k).st = (d.ph k).st ∧ (e.ph k).own = (d.ph k).own) _ _ _ ⟨rfl, rfl, fun _ => ⟨rfl, rfl⟩⟩ ?_
  intro e a ⟨h1, h2, h3⟩
  have k := loadPeak_keeps e a
  exact ⟨k.1.trans h1, k.2.1.trans h2, fun j => ⟨(k.2.2.1 j).1.trans (h3 j).1, (k.2.2.1 j).2.1.trans (h3 j).2⟩⟩

/-- What a loop keeps through an update besides its compensator and its reference. -/
def Loop.frame (l : Loop) : LoopState × LoopSense × Nat × Nat × Bool := (l.st, l.sense, l.nAct, l.liveBefore, l.cueSeen)

theorem frame_fields {l m : Loop} (h : l.frame = m.frame) : l.st = m.st ∧ l.sense = m.sense ∧ l.nAct = m.nAct ∧ l.liveBefore = m.liveBefore ∧ l.cueSeen = m.cueSeen :=
  ⟨congrArg (·.1) h, congrArg (·.2.1) h, congrArg (·.2.2.1) h, congrArg (·.2.2.2.1) h, congrArg (·.2.2.2.2) h⟩

theorem targetStep_lp (d : Device) (n : Fin 16) :
    ((d.targetStep n).lp n).vRef = slewTo (d.lp n).vRef ((d.setpoint n : Nat) * vCode) (d.slewStep n) ∧
    ((d.targetStep n).lp n).frame = (d.lp n).frame ∧ ((d.targetStep n).lp n).oldCfg = (d.lp n).oldCfg ∧ (∀ m, m ≠ n → (d.targetStep n).lp m = d.lp m) ∧
    (d.targetStep n).phase = d.phase ∧ (d.targetStep n).regs = d.regs := by
  unfold Device.targetStep
  dsimp only
  refine ⟨?_, ?_, ?_, fun m hm => updLp_beside _ _ _ hm, rfl, rfl⟩ <;> rw [updLp_at] <;> rfl

theorem softStep_lp (d : Device) (n : Fin 16) :
    ((d.softStep n).lp n).vRef = (d.lp n).vRef ∧ ((d.softStep n).lp n).frame = (d.lp n).frame ∧ ((d.softStep n).lp n).oldCfg = (d.lp n).oldCfg ∧
    (∀ m, m ≠ n → (d.softStep n).lp m = d.lp m) ∧ (d.softStep n).phase = d.phase ∧ (d.softStep n).regs = d.regs := by
  unfold Device.softStep
  dsimp only
  refine ⟨?_, ?_, ?_, fun m hm => updLp_beside _ _ _ hm, rfl, rfl⟩ <;> rw [updLp_at] <;> (repeat' split) <;> first | rfl | (rename_i h; unfold Loop.frame; rw [h])

theorem shortStep_lp (d : Device) (n : Fin 16) :
    ((d.shortStep n).lp n).vRef = (d.lp n).vRef ∧ ((d.shortStep n).lp n).frame = (d.lp n).frame ∧ ((d.shortStep n).lp n).oldCfg = (d.lp n).oldCfg ∧
    (∀ m, m ≠ n → (d.shortStep n).lp m = d.lp m) ∧ (d.shortStep n).phase = d.phase ∧ (d.shortStep n).regs = d.regs := by
  unfold Device.shortStep
  dsimp only
  refine ⟨?_, ?_, ?_, fun m hm => updLp_beside _ _ _ hm, rfl, rfl⟩ <;> rw [updLp_at] <;> (repeat' split) <;> rfl

/-- What an update that issues leaves of its loop (R246, R249, R254 to R258). -/
theorem updateWith_lp (d : Device) (n : Fin 16) (raw : List Int) : let e := d.updLp n fun l => { l with oldCfg := [] }
    let t := d.updateWith n raw
    (t.lp n).vRef = slewTo (d.lp n).vRef ((e.setpoint n : Nat) * vCode) (e.slewStep n) ∧ (t.lp n).frame = (d.lp n).frame ∧ (t.lp n).oldCfg = [] ∧
    -(iSat (d.gexp n)) ≤ (t.lp n).integ ∧ (t.lp n).integ ≤ iSat (d.gexp n) ∧ (t.lp n).iCmd ≤ 32767 ∧ (t.lp n).iCmd = cmdOf (t.lp n).y2 (d.gexp n) ∧
    (t.lp n).err = (raw.map (clampI (-512) 511)).headD 0 ∧ (t.lp n).sat = (raw.any fun e => decide (e < -512) || decide (511 < e)) ∧
    (∀ m, m ≠ n → t.lp m = d.lp m) ∧ t.regs = d.regs ∧ ∀ k, (t.ph k).st = (d.ph k).st ∧ (t.ph k).own = (d.ph k).own := by
  unfold Device.updateWith
  dsimp only
  generalize he : d.updLp n (fun l => { l with oldCfg := [] }) = e
  have e1 : (e.lp n).vRef = (d.lp n).vRef ∧ (e.lp n).frame = (d.lp n).frame ∧ (e.lp n).oldCfg = [] := by rw [← he, updLp_at]; exact ⟨rfl, rfl, rfl⟩
  have e2 : ∀ m, m ≠ n → e.lp m = d.lp m := fun m hm => by rw [← he, updLp_beside _ _ _ hm]
  have e3 : e.phase = d.phase ∧ e.regs = d.regs := by rw [← he]; exact ⟨rfl, rfl⟩
  clear he
  have a := targetStep_lp e n
  generalize e.targetStep n = x1 at a ⊢
  have b := softStep_lp x1 n
  generalize x1.softStep n = x2 at b ⊢
  have c := shortStep_lp x2 n
  generalize x2.shortStep n = x3 at c ⊢
  have gx : x3.gexp n = d.gexp n := by unfold Device.gexp; rw [lreg_of (c.2.2.2.2.2.trans (b.2.2.2.2.2.trans (a.2.2.2.2.2.trans e3.2)))]
  have cb := compensate_bounds (x3.lp n) (x3.lreg n 0x080) (x3.lreg n 0x084) (x3.lreg n 0x088) (x3.gexp n) (x3.freezeUp n) ((x3.lp n).iCmd == 0) (raw.map (clampI (-512) 511)).sum
  rw [gx] at cb
  have fin : ∀ (F : Loop → Loop) (l : Loop), l = Loop.compensate (x3.lp n) (x3.lreg n 0x080) (x3.lreg n 0x084) (x3.lreg n 0x088) (d.gexp n) (x3.freezeUp n) ((x3.lp n).iCmd == 0) (raw.map (clampI (-512) 511)).sum →
      F (x3.lp n) = { l with err := (raw.map (clampI (-512) 511)).headD 0, sat := raw.any fun e => decide (e < -512) || decide (511 < e) } → ∀ t : Device, t = (x3.updLp n F).loadPeaks n →
      (t.lp n).vRef = slewTo (d.lp n).vRef ((e.setpoint n : Nat) * vCode) (e.slewStep n) ∧ (t.lp n).frame = (d.lp n).frame ∧ (t.lp n).oldCfg = [] ∧
      -(iSat (d.gexp n)) ≤ (t.lp n).integ ∧ (t.lp n).integ ≤ iSat (d.gexp n) ∧ (t.lp n).iCmd ≤ 32767 ∧ (t.lp n).iCmd = cmdOf (t.lp n).y2 (d.gexp n) ∧
      (t.lp n).err = (raw.map (clampI (-512) 511)).headD 0 ∧ (t.lp n).sat = (raw.any fun e => decide (e < -512) || decide (511 < e)) ∧
      (∀ m, m ≠ n → t.lp m = d.lp m) ∧ t.regs = d.regs ∧ ∀ k, (t.ph k).st = (d.ph k).st ∧ (t.ph k).own = (d.ph k).own := by
    intro F l hl hF t ht
    have lk := loadPeaks_keeps (x3.updLp n F) n
    rw [← hl] at cb
    have cf : l.frame = (x3.lp n).frame ∧ l.oldCfg = (x3.lp n).oldCfg := by rw [hl]; exact ⟨rfl, rfl⟩
    rw [ht, loop_of lk.1 n, updLp_at, hF]
    refine ⟨?_, ?_, ?_, cb.1, cb.2.1, cb.2.2.1, cb.2.2.2.1, rfl, rfl, fun m hm => ?_, ?_, fun k => ?_⟩
    · refine cb.2.2.2.2.2.2.trans (c.1.trans (b.1.trans (a.1.trans ?_)))
      rw [e1.1]
    · exact cf.1.trans (c.2.1.trans (b.2.1.trans (a.2.1.trans e1.2.1)))
    · exact cf.2.trans (c.2.2.1.trans (b.2.2.1.trans (a.2.2.1.trans e1.2.2)))
    · rw [loop_of lk.1, updLp_beside _ _ _ hm, c.2.2.2.1 m hm, b.2.2.2.1 m hm, a.2.2.2.1 m hm, e2 m hm]
    · rw [lk.2.1]; show x3.regs = _; rw [c.2.2.2.2.2, b.2.2.2.2.2, a.2.2.2.2.2, e3.2]
    · rw [(lk.2.2 k).1, (lk.2.2 k).2]
      show (x3.ph k).st = _ ∧ (x3.ph k).own = _
      rw [ph_of c.2.2.2.2.1, ph_of b.2.2.2.2.1, ph_of a.2.2.2.2.1, ph_of e3.1]
      exact ⟨rfl, rfl⟩
  exact fin _ _ rfl (by rw [gx]) _ rfl

/-- The samples of a step change the converters' results of its loop and the latest samples of phases alone. -/
theorem takeSamples_lp (d : Device) (n : Fin 16) (x : LoopSamples) :
    (d.takeSamples n x).lp n = { d.lp n with sense := { (d.lp n).sense with raw := x.raw, iOut := d.iOutOf n x.imon } } ∧
    (∀ m, m ≠ n → (d.takeSamples n x).lp m = d.lp m) ∧ (d.takeSamples n x).regs = d.regs ∧
    ∀ k, ∃ a b, (d.takeSamples n x).ph k = { d.ph k with raw := a, cur := b } := by
  unfold Device.takeSamples
  dsimp only
  have hl : (x.imon.foldl (fun d y => d.takeLast y.1 y.2) d).loop = d.loop ∧ (x.imon.foldl (fun d y => d.takeLast y.1 y.2) d).regs = d.regs ∧
      ∀ k, ∃ a b, (x.imon.foldl (fun d y => d.takeLast y.1 y.2) d).ph k = { d.ph k with raw := a, cur := b } := by
    refine foldl_inv (fun e => e.loop = d.loop ∧ e.regs = d.regs ∧ ∀ k, ∃ a b, e.ph k = { d.ph k with raw := a, cur := b }) _ _ _ ⟨rfl, rfl, fun k => ⟨_, _, rfl⟩⟩ ?_
    intro e y ⟨h1, h2, h3⟩
    refine ⟨(keeps_loop (by simp) : (e.takeLast y.1 y.2).loop = e.loop).trans h1, (keeps_regs (by simp) : (e.takeLast y.1 y.2).regs = e.regs).trans h2, fun k => ?_⟩
    obtain ⟨a, b, h⟩ := h3 k
    by_cases hk : k = y.1
    · subst hk
      obtain ⟨a', b', h'⟩ := takeLast_ph e y.1 y.2
      exact ⟨a', b', by rw [h', h]⟩
    · exact ⟨a, b, by rw [takeLast_beside _ _ _ hk, h]⟩
  refine ⟨?_, fun m hm => by rw [updLp_beside _ _ _ hm, loop_of hl.1], hl.2.1, fun k => ?_⟩
  · rw [updLp_at, loop_of hl.1]
  · exact hl.2.2 k

/-- Nothing that an update slot counts touches a loop, a phase or a register. -/
theorem useSlot_lp (d : Device) (w : Nat) : (d.useSlot w).loop = d.loop ∧ (d.useSlot w).phase = d.phase ∧ (d.useSlot w).regs = d.regs := ⟨rfl, rfl, rfl⟩

theorem rat_within (mx v : Rat) (h : 0 ≤ mx) : -mx ≤ max (-mx) (min mx v) ∧ max (-mx) (min mx v) ≤ mx := by
  have h1 : -mx ≤ mx := by grind
  constructor <;> grind

theorem updLp_apart (d : Device) (m n : Fin 16) (f : Loop → Loop) (h : ∀ l, (f l).apart = l.apart) : ((d.updLp m f).lp n).apart = (d.lp n).apart := by
  rw [updLp_get]; split
  · rename_i e; rw [h, e]
  · rfl

theorem lendRecord_apart (d : Device) (k : Fin 64) (r : LendResult) (n : Fin 16) : ((d.lendRecord k r).lp n).apart = (d.lp n).apart := by
  unfold Device.lendRecord
  split
  · rfl
  · dsimp only
    have h : ∀ m, ∀ g : Loop → Loop, (∀ l, (g l).apart = l.apart) → ((d.updLp m g).lp n).apart = (d.lp n).apart := fun m g hg => updLp_apart d m n g hg
    split
    · exact h _ _ fun l => by split <;> rfl
    · rw [loop_of (lendEnded_loop _ _)]
      exact h _ _ fun l => by split <;> rfl

theorem phaseTo_apart (d : Device) (k : Fin 64) (st : PhaseState) (cause who : Nat) (n : Fin 16) : ((d.phaseTo k st cause who).lp n).apart = (d.lp n).apart := by
  unfold Device.phaseTo
  dsimp only
  have ht : ∀ (e : Device) p c w x, ((e.syncState p c cause w).pmcCount 0x16 x 1).lp n = e.lp n := fun e p c w x => loop_of (keeps_loop (by simp)) n
  rw [ht]
  cases st <;> first | rfl | exact (lendRecord_apart _ _ _ _).trans rfl

theorem phaseJoin_apart (d : Device) (k : Fin 64) (n : Fin 16) : ((d.phaseJoin k).lp n).apart = (d.lp n).apart := by
  unfold Device.phaseJoin
  (repeat' split) <;> first | rfl | exact phaseTo_apart _ _ _ _ _ _

theorem handoffCheck_apart (d : Device) (k : Fin 64) (n : Fin 16) : ((d.handoffCheck k).lp n).apart = (d.lp n).apart := by
  unfold Device.handoffCheck
  dsimp only
  (repeat' split) <;> first | rfl | exact phaseTo_apart _ _ _ _ _ _

theorem fold_apart {α : Type} (f : Device → α → Device) (l : List α) (d : Device) (n : Fin 16) (h : ∀ e a, ((f e a).lp n).apart = (e.lp n).apart) :
    ((l.foldl f d).lp n).apart = (d.lp n).apart :=
  foldl_inv (fun e => (e.lp n).apart = (d.lp n).apart) f l d rfl (fun e a he => (h e a).trans he)

/-- What a loop keeps of itself besides the record of a lend, the shed counter and the record of a cue. -/
def Loop.steady (l : Loop) : Loop := { l.apart with shedCnt := 0, cueCount := 0, cueLast := 0, cueAt := none, cueSeen := false }

theorem steady_of {l m : Loop} (h : l.apart = m.apart) : l.steady = m.steady := by unfold Loop.steady; rw [h]

/-- Loop n keeps its steady part from d to e, and the other loops theirs. -/
def Steady (n : Fin 16) (d e : Device) : Prop := (e.lp n).steady = (d.lp n).steady ∧ ∀ m, m ≠ n → (e.lp m).apart = (d.lp m).apart

theorem Steady.same (n : Fin 16) (d : Device) : Steady n d d := ⟨rfl, fun _ _ => rfl⟩

theorem Steady.trans {n : Fin 16} {a b e : Device} (h : Steady n a b) (g : Steady n b e) : Steady n a e :=
  ⟨g.1.trans h.1, fun m hm => (g.2 m hm).trans (h.2 m hm)⟩

theorem Steady.of_apart {n : Fin 16} {d e : Device} (h : ∀ m, (e.lp m).apart = (d.lp m).apart) : Steady n d e := ⟨steady_of (h n), fun m _ => h m⟩

theorem Steady.of_loop {n : Fin 16} {d e : Device} (h : e.loop = d.loop) : Steady n d e := Steady.of_apart fun m => by rw [loop_of h]

theorem Steady.upd (n : Fin 16) (d : Device) (f : Loop → Loop) (h : ∀ l, (f l).steady = l.steady) : Steady n d (d.updLp n f) :=
  ⟨by rw [updLp_at, h], fun m hm => by rw [updLp_beside _ _ _ hm]⟩

theorem Steady.ite {n : Fin 16} {d a b : Device} (q : Prop) [Decidable q] (ha : Steady n d a) (hb : Steady n d b) : Steady n d (if q then a else b) := by
  by_cases h : q
  · rw [if_pos h]; exact ha
  · rw [if_neg h]; exact hb

theorem updLp_steady (d : Device) (n m : Fin 16) (f : Loop → Loop) (h : ∀ l, (f l).steady = l.steady) : ((d.updLp m f).lp n).steady = (d.lp n).steady := by
  rw [updLp_get]; split
  · rename_i e; rw [h, e]
  · rfl

theorem ite_dev (P : Device → Prop) (c : Prop) [Decidable c] {a b : Device} (ha : P a) (hb : P b) : P (if c then a else b) := by
  by_cases h : c
  · rw [if_pos h]; exact ha
  · rw [if_neg h]; exact hb

theorem requestPhases_steady (d : Device) (n : Fin 16) (l : List (Fin 64)) (add : Bool) : Steady n d (d.requestPhases n l add) := by
  unfold Device.requestPhases
  have h : Steady n d (l.foldl (fun d k => d.phaseJoin k) d) := Steady.of_apart fun m => fold_apart _ _ _ _ fun e a => phaseJoin_apart e a m
  exact Steady.ite _ (h.trans (Steady.upd n _ _ fun _ => rfl)) h

theorem addPhases_steady (d : Device) (n : Fin 16) (c : Nat) : Steady n d (d.addPhases n c) := requestPhases_steady _ _ _ _

theorem requestAll_steady (d : Device) (n : Fin 16) : Steady n d (d.requestAll n) :=
  (requestPhases_steady _ _ _ _).trans (requestPhases_steady _ _ _ _)

theorem phaseDisable_apart (d : Device) (k : Fin 64) (c w : Nat) (n : Fin 16) : ((d.phaseDisable k c w).lp n).apart = (d.lp n).apart := by
  have hu : ∀ (x : Device) f, ((x.updPh k f).lp n).apart = (x.lp n).apart := fun _ _ => rfl
  have hd : ((d.phaseTo k .draining c w).lp n).apart = (d.lp n).apart := phaseTo_apart _ _ _ _ _ _
  have ho : ((d.phaseTo k .off c w).lp n).apart = (d.lp n).apart := phaseTo_apart _ _ _ _ _ _
  unfold Device.phaseDisable
  cases (d.ph k).st with
  | joining => exact (hu _ _).trans hd
  | live => exact (hu _ _).trans hd
  | parked => exact ho
  | handoff => exact ho
  | draining => exact hu _ _
  | unpop => rfl
  | off => rfl
  | failed => rfl
  | crowbar => rfl
  | forced => rfl

theorem phaseShed_apart (d : Device) (k : Fin 64) (n : Fin 16) : ((d.phaseShed k).lp n).apart = (d.lp n).apart := by
  unfold Device.phaseShed
  split
  · exact phaseTo_apart d k .draining 0x10 byHw n
  · rfl

theorem shedDecide_steady (d : Device) (n : Fin 16) : Steady n d (d.shedDecide n) := by
  unfold Device.shedDecide
  dsimp only
  refine Steady.ite _ ?_ (Steady.same _ _)
  split
  · exact (Steady.of_apart fun m => phaseShed_apart d _ m).trans (Steady.upd n _ _ fun _ => rfl)
  · exact Steady.same _ _

theorem autoAdd_steady (d : Device) (n : Fin 16) : Steady n d (d.autoAdd n) := by
  unfold Device.autoAdd
  dsimp only
  exact Steady.ite _ (addPhases_steady _ _ _) (Steady.same _ _)

theorem shedCount_steady (d : Device) (n : Fin 16) : Steady n d (d.shedCount n) := Steady.upd n _ _ fun _ => rfl

/-- The requests of a boundary change nothing of its loop but the shed counter and the record of a lend. -/
theorem boundaryRequests_steady (d : Device) (n : Fin 16) : Steady n d (d.boundaryRequests n) := by
  unfold Device.boundaryRequests
  dsimp only
  split
  · exact requestAll_steady d n
  · have h : Steady n d (if bit (d.leff n 0x0E4) 30 = true then d.addPhases n (d.lp n).replace else d) := Steady.ite _ (addPhases_steady _ _ _) (Steady.same _ _)
    generalize (if bit (d.leff n 0x0E4) 30 = true then d.addPhases n (d.lp n).replace else d) = x at h ⊢
    have g : Steady n d ((x.autoAdd n).shedCount n) := h.trans ((autoAdd_steady _ _).trans (shedCount_steady _ _))
    exact Steady.ite _ (h.trans (requestAll_steady _ _)) (Steady.ite _ g (g.trans (shedDecide_steady _ _)))
  · exact Steady.same _ _

theorem boundaryJoins_apart (d : Device) (n m : Fin 16) : ((d.boundaryJoins n).lp m).apart = (d.lp m).apart := by
  unfold Device.boundaryJoins
  dsimp only
  generalize hx : (d.phasesOf n (·.st == .handoff)).foldl _ d = x
  have hx' : (x.lp m).apart = (d.lp m).apart := by
    rw [← hx]
    refine fold_apart _ _ _ _ fun e a => ?_
    by_cases hc : ((e.lp n).st.regulating && !e.phDisabled a) = true
    · rw [if_pos hc]; exact phaseTo_apart _ _ _ _ _ _
    · rw [if_neg hc]; exact handoffCheck_apart _ _ _
  refine (fold_apart (fun (d : Device) k => d.updPh k fun p => { p with addReq := false }) _ _ _ fun e a => rfl).trans ?_
  split
  · exact (fold_apart _ _ _ _ fun e a => phaseJoin_apart e a m).trans hx'
  · exact hx'

theorem cueRequests_steady (d : Device) (n : Fin 16) (p : Nat) (sw : Bool) (t : Option CueTiming) : Steady n d (d.cueRequests n p sw t) := by
  unfold Device.cueRequests
  dsimp only
  generalize hx : ((d.earlyOrder n t).take _).foldl (fun d x => d.earlyEdge x.2 x.1) d = x
  have h1 : x.loop = d.loop := by
    rw [← hx]; exact foldl_inv (fun e => e.loop = d.loop) _ _ _ rfl fun e a he => (keeps_loop (by simp) : (e.earlyEdge a.2 a.1).loop = e.loop).trans he
  clear hx
  generalize hy : List.foldl (fun (d : Device) k => d.updPh k fun q => { q with addReq := true }) x _ = y
  have h2 : y.loop = d.loop := by rw [← hy]; exact foldl_inv (fun e => e.loop = d.loop) _ _ _ h1 fun e a he => he
  clear hy
  generalize hz : y.updLp n _ = z
  have h3 : Steady n y z := by rw [← hz]; exact Steady.upd n y _ fun _ => rfl
  exact (Steady.of_loop h2).trans (h3.trans (Steady.of_loop (keeps_loop (by simp))))

theorem cueReject_keeps (d : Device) (n : Fin 16) (p : Nat) (sw drop : Bool) : (d.cueReject n p sw drop).loop = d.loop ∧ (d.cueReject n p sw drop).phase = d.phase :=
  ⟨keeps_loop (by simp), keeps_phase (by simp)⟩

theorem periodEnds_lp (d : Device) (n : Fin 16) (per : PeriodSamples) : let l := (d.periodEnds n per).lp n
    l.period = bits (d.lreg n 0x090) 17 0 ∧ l.perPos = 0 ∧ l.st = (d.lp n).st ∧
    l.sense.vs = (if per.raws.isEmpty then (d.lp n).sense.vs else d.periodMean n per.raws) ∧
    l.iPer = ((if per.iOut.isEmpty then ((d.lp n).sense.iOut, 1) else (per.iOut.sum, per.iOut.length)) :: (d.lp n).iPer).take 16 := by
  unfold Device.periodEnds
  dsimp only
  rw [updLp_at]
  exact ⟨rfl, rfl, rfl, rfl, rfl⟩

/-- What the requests of a boundary leave of its loop (R226, R247, R305, R316). -/
theorem boundaryOpen_lp (d : Device) (n : Fin 16) (per : PeriodSamples) (same : Coincident) : let e := d.boundaryOpen n per same
    (e.lp n).period = bits (d.lreg n 0x090) 17 0 ∧ (e.lp n).perPos = 0 ∧ (e.lp n).st = (d.lp n).st ∧ (e.lp n).replace = 0 ∧
    (e.lp n).sense.vs = (if per.raws.isEmpty then (d.lp n).sense.vs else d.periodMean n per.raws) ∧
    (e.lp n).iPer = ((if per.iOut.isEmpty then ((d.lp n).sense.iOut, 1) else (per.iOut.sum, per.iOut.length)) :: (d.lp n).iPer).take 16 ∧
    ∀ m, m ≠ n → (e.lp m).apart = (d.lp m).apart := by
  have pe := periodEnds_lp d n per
  have po : ∀ m, m ≠ n → (d.periodEnds n per).lp m = d.lp m := fun m hm => updLp_beside _ _ _ hm
  unfold Device.boundaryOpen
  dsimp only at pe ⊢
  generalize d.periodEnds n per = x0 at pe po ⊢
  generalize hx1 : ({ x0 with phase := x0.phase.map fun (p : Phase) => p.countPeriod n } : Device) = x1
  have b1 : Steady n x0 x1 := Steady.of_loop (by rw [← hx1])
  clear hx1
  have fin : ∀ x2 : Device, Steady n x1 x2 → ∀ t : Device, t.loop = (((x2.boundaryJoins n).boundaryRequests n).updLp n fun l => { l with replace := 0 }).loop →
      (t.lp n).period = bits (d.lreg n 0x090) 17 0 ∧ (t.lp n).perPos = 0 ∧ (t.lp n).st = (d.lp n).st ∧ (t.lp n).replace = 0 ∧
      (t.lp n).sense.vs = (if per.raws.isEmpty then (d.lp n).sense.vs else d.periodMean n per.raws) ∧
      (t.lp n).iPer = ((if per.iOut.isEmpty then ((d.lp n).sense.iOut, 1) else (per.iOut.sum, per.iOut.length)) :: (d.lp n).iPer).take 16 ∧
      ∀ m, m ≠ n → (t.lp m).apart = (d.lp m).apart := by
    intro x2 b2 t ht
    have b3 : Steady n x2 ((x2.boundaryJoins n).boundaryRequests n) := (Steady.of_apart fun m => boundaryJoins_apart x2 n m).trans (boundaryRequests_steady _ _)
    generalize (x2.boundaryJoins n).boundaryRequests n = x3 at b3 ht
    have b := (b1.trans b2).trans b3
    have e : ∀ {α : Type} (F : Loop → α), F (x3.lp n).steady = F (x0.lp n).steady := fun F => congrArg F b.1
    refine ⟨?_, ?_, ?_, ?_, ?_, ?_, fun m hm => ?_⟩
    · rw [loop_of ht, updLp_at]; exact (e (·.period)).trans pe.1
    · rw [loop_of ht, updLp_at]; exact (e (·.perPos)).trans pe.2.1
    · rw [loop_of ht, updLp_at]; exact (e (·.st)).trans pe.2.2.1
    · rw [loop_of ht, updLp_at]
    · rw [loop_of ht, updLp_at]; exact (e (·.sense.vs)).trans pe.2.2.2.1
    · rw [loop_of ht, updLp_at]; exact (e (·.iPer)).trans pe.2.2.2.2
    · rw [loop_of ht, updLp_beside _ _ _ hm, b.2 m hm, po m hm]
  have cue : ∀ (o : Option (Fin 8 × Bool × CueTiming)), Steady n x1 (match o with
    | some (p, sw, t) =>
      if !sw && !bit (x1.reg (pageAddr cuePage 0x040)) 0 then x1
      else match x1.cueCheck n p.val with
        | some drop => x1.cueReject n p.val sw drop
        | none => (x1.cueRequests n p.val sw (some t)).updLp n fun l => { l with cueSeen := true }
    | none => x1) := by
    intro o
    split
    · refine Steady.ite _ (Steady.same _ _) ?_
      split
      · exact Steady.of_loop (cueReject_keeps _ _ _ _ _).1
      · exact (cueRequests_steady _ _ _ _ _).trans (Steady.upd n _ _ fun _ => rfl)
    · exact Steady.same _ _
  have hp : ∀ x : Device, (x.pmcCount 0x17 n.val 1).loop = x.loop := fun x => keeps_loop (by simp)
  have hd : ∀ (x : Device) f, (x.dayLoop n f).loop = x.loop := fun x f => keeps_loop (by simp)
  have hi : ∀ (q : Prop) [Decidable q] (a b : Device) l, a.loop = l → b.loop = l → (if q then a else b).loop = l := by
    intro q _ a b l ha hb; split
    · exact ha
    · exact hb
  exact fin _ (cue same.cue) _ (hi _ _ _ _ ((hd _ _).trans (hp _)) (hp _))

theorem assignSlots_keeps (d : Device) (n : Fin 16) : (d.assignSlots n).lp n = { d.lp n with nAct := d.activeN n } ∧ (∀ m, m ≠ n → (d.assignSlots n).lp m = d.lp m) ∧
    ∀ k, ((d.assignSlots n).ph k).st = (d.ph k).st ∧ ((d.assignSlots n).ph k).own = (d.ph k).own := by
  unfold Device.assignSlots
  dsimp only
  generalize hx : List.foldl _ d _ = x
  have h : x.loop = d.loop ∧ ∀ k, (x.ph k).st = (d.ph k).st ∧ (x.ph k).own = (d.ph k).own := by
    rw [← hx]
    refine foldl_inv (fun e => e.loop = d.loop ∧ ∀ k, (e.ph k).st = (d.ph k).st ∧ (e.ph k).own = (d.ph k).own) _ _ _ ⟨rfl, fun _ => ⟨rfl, rfl⟩⟩ ?_
    intro e a ⟨h1, h3⟩
    refine ⟨h1, fun k => ⟨?_, ?_⟩⟩
    · rw [updPh_field Phase.st]; exact (h3 k).1; intro p; rfl
    · rw [updPh_field Phase.own]; exact (h3 k).2; intro p; rfl
  refine ⟨by rw [updLp_at, loop_of h.1]; rfl, fun m hm => by rw [updLp_beside _ _ _ hm, loop_of h.1], h.2⟩

theorem liveN_of {d e : Device} (h : ∀ k, (e.ph k).st = (d.ph k).st ∧ (e.ph k).own = (d.ph k).own) (n : Fin 16) : e.liveN n = d.liveN n := by
  unfold Device.liveN Device.phasesOf
  simp only [(h _).1, (h _).2]

theorem rescale_lp (d : Device) (n : Fin 16) : ((d.countRescale n).lp n).liveBefore = d.liveN n ∧ ((d.countRescale n).lp n).st = (d.lp n).st ∧
    ((d.countRescale n).lp n).nAct = (d.lp n).nAct := by
  unfold Device.countRescale
  dsimp only
  refine ⟨?_, ?_, ?_⟩ <;> rw [updLp_at]
  all_goals split
  all_goals first | rfl | (rw [loop_of (loadPeaks_keeps _ _).1, updLp_at])

/-- An update slot keeps the state of its loop and the counts of its phases. -/
theorem loopUpdate_frame (d : Device) (n : Fin 16) (u : UpdateSlot) : ((d.loopUpdate n u).lp n).st = (d.lp n).st ∧ ((d.loopUpdate n u).lp n).nAct = (d.lp n).nAct ∧
    ((d.loopUpdate n u).lp n).liveBefore = (d.lp n).liveBefore := by
  have key : ∀ w, ∀ y : Device, y = (d.takeSamples n u.samples).useSlot w → (y.lp n).st = (d.lp n).st ∧ (y.lp n).nAct = (d.lp n).nAct ∧ (y.lp n).liveBefore = (d.lp n).liveBefore := by
    intro w y hy
    rw [hy, loop_of (useSlot_lp _ w).1 n, (takeSamples_lp d n u.samples).1]
    exact ⟨rfl, rfl, rfl⟩
  unfold Device.loopUpdate
  dsimp only
  generalize hy : (d.takeSamples n u.samples).useSlot _ = y
  have k := key _ y hy.symm
  have hc : ∀ ev, (y.countSlot ev n.val).lp n = y.lp n := fun ev => loop_of (countSlot_keeps _ _ _).1 n
  split
  · rw [hc]; exact k
  · split
    · rw [hc]; exact k
    · have hz := hc 0x03
      generalize y.countSlot 0x03 n.val = z at hz ⊢
      generalize (u.volts.take 8).map (y.errorOf n) = raw
      have f := updateWith_lp z n raw
      generalize z.updateWith n raw = t at f ⊢
      have e := frame_fields f.2.1
      rw [hz] at e
      exact ⟨e.1.trans k.1, e.2.2.1.trans k.2.1, e.2.2.2.1.trans k.2.2⟩

theorem cueStep_frame (d : Device) (n : Fin 16) (p : Nat) : ((d.cueStep n p).lp n).st = (d.lp n).st ∧ ((d.cueStep n p).lp n).nAct = (d.lp n).nAct ∧
    ((d.cueStep n p).lp n).liveBefore = (d.lp n).liveBefore := by
  have hs : ∀ x : Device, x.cueSync.lp n = x.lp n := fun x => loop_of (keeps_loop (by simp)) n
  unfold Device.cueStep
  dsimp only
  rw [hs, loop_of (loadPeaks_keeps _ _).1, updLp_at, updLp_at]
  exact ⟨rfl, rfl, rfl⟩

theorem bankSwap_frame (d : Device) (n : Fin 16) : ((d.bankSwap n).lp n).st = (d.lp n).st ∧ ((d.bankSwap n).lp n).nAct = (d.lp n).nAct ∧
    ((d.bankSwap n).lp n).liveBefore = (d.lp n).liveBefore := by
  unfold Device.bankSwap
  dsimp only
  split
  · have hl : ∀ x : Device, ((x.pmcCountAll 0x02 1).pmcCountAll 0x08 1).lp n = x.lp n := fun x => loop_of (keeps_loop (by simp)) n
    have hc : (d.copyBank n).loop = d.loop := keeps_loop (by simp)
    rw [updLp_at, hl]
    show ((d.copyBank n).lp n).st = _ ∧ ((d.copyBank n).lp n).nAct = _ ∧ ((d.copyBank n).lp n).liveBefore = _
    rw [loop_of hc]
    exact ⟨rfl, rfl, rfl⟩
  · exact ⟨rfl, rfl, rfl⟩

/-- What the rest of the LOOP cycle of a boundary leaves of its loop: N, the LIVE count of the next rescale, and its state (R228, R310, R316). -/
theorem boundaryClose_lp (d : Device) (n : Fin 16) (same : Coincident) : let f := d.boundaryClose n same
    (f.lp n).nAct = d.activeN n ∧ (f.lp n).liveBefore = d.liveN n ∧ (f.lp n).st = (d.lp n).st ∧ (f.lp n).cueSeen = false := by
  unfold Device.boundaryClose
  dsimp only
  have a := assignSlots_keeps d n
  have an : ((d.assignSlots n).lp n).st = (d.lp n).st ∧ ((d.assignSlots n).lp n).nAct = d.activeN n := by rw [a.1]; exact ⟨rfl, rfl⟩
  have al := liveN_of a.2.2 n
  generalize d.assignSlots n = x1 at an al ⊢
  clear a
  have b : ((if same.swap = true then x1.bankSwap n else x1 : Device).lp n).st = (d.lp n).st ∧ ((if same.swap = true then x1.bankSwap n else x1 : Device).lp n).nAct = d.activeN n ∧
      (if same.swap = true then x1.bankSwap n else x1 : Device).liveN n = d.liveN n := by
    split
    · have f := bankSwap_frame x1 n
      refine ⟨f.1.trans an.1, f.2.1.trans an.2, ?_⟩
      rw [← al]
      have hp : (x1.bankSwap n).phase = x1.phase := keeps_phase (by simp)
      exact liveN_of (fun k => by rw [ph_of hp]; exact ⟨rfl, rfl⟩) n
    · exact ⟨an.1, an.2, al⟩
  generalize (if same.swap = true then x1.bankSwap n else x1 : Device) = x2 at b ⊢
  have r := rescale_lp x2 n
  generalize x2.countRescale n = x3 at r ⊢
  have r' : (x3.lp n).st = (d.lp n).st ∧ (x3.lp n).nAct = d.activeN n ∧ (x3.lp n).liveBefore = d.liveN n := ⟨r.2.1.trans b.1, r.2.2.trans b.2.1, r.1.trans b.2.2⟩
  have upd : ∀ o : Option UpdateSlot, ∀ y : Device, y = (match o with | some u => x3.loopUpdate n u | none => x3) →
      (y.lp n).st = (d.lp n).st ∧ (y.lp n).nAct = d.activeN n ∧ (y.lp n).liveBefore = d.liveN n := by
    intro o y hy
    rw [hy]
    cases o with
    | none => exact r'
    | some v =>
      have f := loopUpdate_frame x3 n v
      exact ⟨f.1.trans r'.1, f.2.1.trans r'.2.1, f.2.2.trans r'.2.2⟩
  have last : ∀ x4 : Device, ((x4.lp n).st = (d.lp n).st ∧ (x4.lp n).nAct = d.activeN n ∧ (x4.lp n).liveBefore = d.liveN n) →
      ∀ (o : Option (Fin 8 × Bool × CueTiming)) (y : Device), y = (match o with
      | some (p, _, _) => if (x4.lp n).cueSeen && (x4.lp n).st.regulating then x4.cueStep n p.val else x4
      | none => x4) → (y.lp n).nAct = d.activeN n ∧ (y.lp n).liveBefore = d.liveN n ∧ (y.lp n).st = (d.lp n).st := by
    intro x4 u o y hy
    have h0 : ∀ q : Bool, ∀ p, ((if q then x4.cueStep n p else x4).lp n).nAct = d.activeN n ∧ ((if q then x4.cueStep n p else x4).lp n).liveBefore = d.liveN n ∧
        ((if q then x4.cueStep n p else x4).lp n).st = (d.lp n).st := by
      intro q p
      cases q
      · exact ⟨u.2.1, u.2.2, u.1⟩
      · have f := cueStep_frame x4 n p
        exact ⟨f.2.1.trans u.2.1, f.2.2.trans u.2.2, f.1.trans u.1⟩
    rw [hy]
    cases o with
    | none => exact ⟨u.2.1, u.2.2, u.1⟩
    | some v => exact h0 _ _
  have fin : ∀ y : Device, (y.lp n).nAct = d.activeN n ∧ (y.lp n).liveBefore = d.liveN n ∧ (y.lp n).st = (d.lp n).st →
      ((y.updLp n fun l => { l with cueSeen := false }).lp n).nAct = d.activeN n ∧ ((y.updLp n fun l => { l with cueSeen := false }).lp n).liveBefore = d.liveN n ∧
      ((y.updLp n fun l => { l with cueSeen := false }).lp n).st = (d.lp n).st ∧ ((y.updLp n fun l => { l with cueSeen := false }).lp n).cueSeen = false := by
    intro y h; rw [updLp_at]; exact ⟨h.1, h.2.1, h.2.2, rfl⟩
  exact fin _ (last _ (upd same.update _ rfl) same.cue _ rfl)

end Sys2Proof.Machine
end

