-- ==== Sys2Proof/Laws/Loops.lean ====
section
/-! SUPPORT. Loops: what a bank swap, a cue, a move of one loop, its faults and its crowbar do. -/

namespace Sys2Proof.Machine
open Sys2Proof

theorem setErr_bit (d : Device) (p : Nat) (i : Nat) (h : i < 32) : bit ((d.setErr p (errBit i)).head (pg p)).err i = true := by
  rw [updHdr_err]
  unfold errBit
  show bit ((d.head (pg p)).err ||| _) i = true
  rw [bit_or]
  have : bit (BitVec.ofNat 32 (2 ^ i)) i = true := by unfold bit; rw [BitVec.getLsbD_ofNat, Nat.testBit_two_pow]; simp [h]
  rw [this, Bool.or_true]

theorem loop_page (d : Device) (f : OtpArray) (src : Source) (n : Fin 16) (o : Nat) (be : BitVec 4) (v : Word) (x : WriteInfo)
    (ho : o < 0x1000) (h4 : o % 4 = 0) (hh : 0x040 ≤ o) (hbe : alignedBe be = true) (ht : d.takes src (pageAddr (loopPage n) o) (byteMask be) v = true) :
    d.busWrite f src (pageAddr (loopPage n) o) be v x = (d.arrive src (pageAddr (loopPage n) o)).loopWrite n o (byteMask be) v x := by
  have h := Device.busWrite_page d f src (loopPage n) o be v x ht (by unfold loopPage; rw [blockOf_loop]; rfl) hbe ho h4 (Or.inr hh)
  rw [h, Device.blockWrite_loop]

theorem bankValid_of {d e : Device} (h : e.regs = d.regs) (n : Fin 16) : e.bankValid n = d.bankValid n := by
  unfold Device.bankValid; simp only [lreg_of h]

theorem copyBank_reg (d : Device) (n : Fin 16) (hc : d.canonical = true) : (d.copyBank n).canonical = true ∧ (d.copyBank n).loop = d.loop ∧
    (∀ o, o ∈ [0x060, 0x064, 0x068, 0x06C, 0x070] → (d.copyBank n).lreg n (o + 0x20) = d.lreg n o) ∧
    (∀ a, (∀ o, o ∈ [0x060, 0x064, 0x068, 0x06C, 0x070] → a ≠ pageAddr (loopPage n) (o + 0x20)) → (d.copyBank n).reg a = d.reg a) := by
  have ad : ∀ x y : Nat, x ≠ y → pageAddr (loopPage n) x ≠ pageAddr (loopPage n) y := fun x y h => by unfold pageAddr; omega
  have lr : ∀ (e : Device) o, e.lreg n o = e.reg (pageAddr (loopPage n) o) := fun _ _ => rfl
  unfold Device.copyBank
  simp only [List.foldl_cons, List.foldl_nil, lr]
  have c1 := Device.setReg_canon d (pageAddr (loopPage n) (0x060 + 0x20)) (d.reg (pageAddr (loopPage n) 0x060)) hc
  have g1 := Device.reg_setReg d (pageAddr (loopPage n) (0x060 + 0x20)) (d.reg (pageAddr (loopPage n) 0x060)) hc
  have o1 := fun b hb => Device.reg_setReg_other d (pageAddr (loopPage n) (0x060 + 0x20)) (d.reg (pageAddr (loopPage n) 0x060)) (b := b) hb
  have l1 : (d.setReg (pageAddr (loopPage n) (0x060 + 0x20)) (d.reg (pageAddr (loopPage n) 0x060))).loop = d.loop := rfl
  generalize d.setReg (pageAddr (loopPage n) (0x060 + 0x20)) (d.reg (pageAddr (loopPage n) 0x060)) = d1 at *
  have c2 := Device.setReg_canon d1 (pageAddr (loopPage n) (0x064 + 0x20)) (d1.reg (pageAddr (loopPage n) 0x064)) c1
  have g2 := Device.reg_setReg d1 (pageAddr (loopPage n) (0x064 + 0x20)) (d1.reg (pageAddr (loopPage n) 0x064)) c1
  have o2 := fun b hb => Device.reg_setReg_other d1 (pageAddr (loopPage n) (0x064 + 0x20)) (d1.reg (pageAddr (loopPage n) 0x064)) (b := b) hb
  have l2 : (d1.setReg (pageAddr (loopPage n) (0x064 + 0x20)) (d1.reg (pageAddr (loopPage n) 0x064))).loop = d.loop := l1
  generalize d1.setReg (pageAddr (loopPage n) (0x064 + 0x20)) (d1.reg (pageAddr (loopPage n) 0x064)) = d2 at *
  have c3 := Device.setReg_canon d2 (pageAddr (loopPage n) (0x068 + 0x20)) (d2.reg (pageAddr (loopPage n) 0x068)) c2
  have g3 := Device.reg_setReg d2 (pageAddr (loopPage n) (0x068 + 0x20)) (d2.reg (pageAddr (loopPage n) 0x068)) c2
  have o3 := fun b hb => Device.reg_setReg_other d2 (pageAddr (loopPage n) (0x068 + 0x20)) (d2.reg (pageAddr (loopPage n) 0x068)) (b := b) hb
  have l3 : (d2.setReg (pageAddr (loopPage n) (0x068 + 0x20)) (d2.reg (pageAddr (loopPage n) 0x068))).loop = d.loop := l2
  generalize d2.setReg (pageAddr (loopPage n) (0x068 + 0x20)) (d2.reg (pageAddr (loopPage n) 0x068)) = d3 at *
  have c4 := Device.setReg_canon d3 (pageAddr (loopPage n) (0x06C + 0x20)) (d3.reg (pageAddr (loopPage n) 0x06C)) c3
  have g4 := Device.reg_setReg d3 (pageAddr (loopPage n) (0x06C + 0x20)) (d3.reg (pageAddr (loopPage n) 0x06C)) c3
  have o4 := fun b hb => Device.reg_setReg_other d3 (pageAddr (loopPage n) (0x06C + 0x20)) (d3.reg (pageAddr (loopPage n) 0x06C)) (b := b) hb
  have l4 : (d3.setReg (pageAddr (loopPage n) (0x06C + 0x20)) (d3.reg (pageAddr (loopPage n) 0x06C))).loop = d.loop := l3
  generalize d3.setReg (pageAddr (loopPage n) (0x06C + 0x20)) (d3.reg (pageAddr (loopPage n) 0x06C)) = d4 at *
  have c5 := Device.setReg_canon d4 (pageAddr (loopPage n) (0x070 + 0x20)) (d4.reg (pageAddr (loopPage n) 0x070)) c4
  have g5 := Device.reg_setReg d4 (pageAddr (loopPage n) (0x070 + 0x20)) (d4.reg (pageAddr (loopPage n) 0x070)) c4
  have o5 := fun b hb => Device.reg_setReg_other d4 (pageAddr (loopPage n) (0x070 + 0x20)) (d4.reg (pageAddr (loopPage n) 0x070)) (b := b) hb
  have l5 : (d4.setReg (pageAddr (loopPage n) (0x070 + 0x20)) (d4.reg (pageAddr (loopPage n) 0x070))).loop = d.loop := l4
  generalize d4.setReg (pageAddr (loopPage n) (0x070 + 0x20)) (d4.reg (pageAddr (loopPage n) 0x070)) = d5 at *
  refine ⟨c5, l5, fun o ho => ?_, fun a ha => ?_⟩
  · simp only [List.mem_cons, List.not_mem_nil, or_false] at ho
    rcases ho with h | h | h | h | h <;> subst h
    · rw [o5 _ (ad _ _ (by decide)), o4 _ (ad _ _ (by decide)), o3 _ (ad _ _ (by decide)), o2 _ (ad _ _ (by decide)), g1]
    · rw [o5 _ (ad _ _ (by decide)), o4 _ (ad _ _ (by decide)), o3 _ (ad _ _ (by decide)), g2, o1 _ (ad _ _ (by decide))]
    · rw [o5 _ (ad _ _ (by decide)), o4 _ (ad _ _ (by decide)), g3, o2 _ (ad _ _ (by decide)), o1 _ (ad _ _ (by decide))]
    · rw [o5 _ (ad _ _ (by decide)), g4, o3 _ (ad _ _ (by decide)), o2 _ (ad _ _ (by decide)), o1 _ (ad _ _ (by decide))]
    · rw [g5, o4 _ (ad _ _ (by decide)), o3 _ (ad _ _ (by decide)), o2 _ (ad _ _ (by decide)), o1 _ (ad _ _ (by decide))]
  · rw [o5 _ (ha 0x070 (by decide)), o4 _ (ha 0x06C (by decide)), o3 _ (ha 0x068 (by decide)), o2 _ (ha 0x064 (by decide)), o1 _ (ha 0x060 (by decide))]

theorem reg_of_same {d e : Device} (h : e.regs = d.regs) (a : Nat) : e.reg a = d.reg a := by unfold Device.reg; rw [h]

theorem earlyEdge_st (d : Device) (k j : Fin 64) (off : OffTime) : ((d.earlyEdge k off).ph j).st = (d.ph j).st := by
  have h1 : (((d.offEnds k off).loadPeak k).ph j).st = (d.ph j).st := by
    rw [((loadPeak_keeps _ _).2.2.1 j).1]
    by_cases h : j = k
    · subst h; exact (offEnds_ph d j off).1
    · rw [(offEnds_ph d k off).2.2.2.2.2.2.2 j h]
  unfold Device.earlyEdge
  split
  · generalize hy : ((d.offEnds k off).loadPeak k).updPh k _ = y
    have h2 : (y.ph j).st = (d.ph j).st := by
      rw [← hy, updPh_field Phase.st]
      · exact h1
      · intro p; rfl
    exact (congrArg Phase.st (ph_of (keeps_phase (by simp)) j)).trans h2
  · rfl

/-- The requests of a cue: its records, and no state of a phase (R275, R276, R300, R308). -/
theorem cueRequests_lp (d : Device) (n : Fin 16) (p : Nat) (sw : Bool) (t : Option CueTiming) : let e := d.cueRequests n p sw t
    e.lp n = { d.lp n with cueCount := satInc 255 (d.lp n).cueCount, cueLast := p, cueAt := some d.cycle, shedCnt := 0 } ∧
    (∀ m, m ≠ n → e.lp m = d.lp m) ∧ (∀ k, (e.ph k).st = (d.ph k).st) ∧ ∀ m o, o < 0x1000 → e.lreg m o = d.lreg m o := by
  unfold Device.cueRequests
  dsimp only
  generalize hx : ((d.earlyOrder n t).take _).foldl (fun d x => d.earlyEdge x.2 x.1) d = x
  have h1 : x.loop = d.loop ∧ x.regs = d.regs ∧ x.cycle = d.cycle ∧ ∀ k, (x.ph k).st = (d.ph k).st := by
    rw [← hx]
    exact foldl_inv (fun e => e.loop = d.loop ∧ e.regs = d.regs ∧ e.cycle = d.cycle ∧ ∀ k, (e.ph k).st = (d.ph k).st) _ _ _ ⟨rfl, rfl, rfl, fun _ => rfl⟩ fun e a he =>
      ⟨(keeps_loop (by simp) : (e.earlyEdge a.2 a.1).loop = e.loop).trans he.1, (keeps_regs (by simp) : (e.earlyEdge a.2 a.1).regs = e.regs).trans he.2.1,
        (keeps_cycle (by simp) : (e.earlyEdge a.2 a.1).cycle = e.cycle).trans he.2.2.1, fun k => (earlyEdge_st e a.2 k a.1).trans (he.2.2.2 k)⟩
  clear hx
  generalize hy : List.foldl (fun (d : Device) k => d.updPh k fun q => { q with addReq := true }) x _ = y
  have h2 : y.loop = d.loop ∧ y.regs = d.regs ∧ y.cycle = d.cycle ∧ ∀ k, (y.ph k).st = (d.ph k).st := by
    rw [← hy]
    refine foldl_inv (fun e => e.loop = d.loop ∧ e.regs = d.regs ∧ e.cycle = d.cycle ∧ ∀ k, (e.ph k).st = (d.ph k).st) _ _ _ h1 fun e a he => ⟨he.1, he.2.1, he.2.2.1, fun k => ?_⟩
    rw [updPh_field Phase.st]
    · exact he.2.2.2 k
    · intro q; rfl
  clear hy h1 x
  generalize hz : y.updLp n _ = z
  have h3 : z.lp n = { d.lp n with cueCount := satInc 255 (d.lp n).cueCount, cueLast := p, cueAt := some d.cycle, shedCnt := 0 } ∧ (∀ m, m ≠ n → z.lp m = d.lp m) ∧
      (∀ k, (z.ph k).st = (d.ph k).st) ∧ z.regs = d.regs := by
    rw [← hz]
    exact ⟨by rw [updLp_at, loop_of h2.1, h2.2.2.1], fun m hm => by rw [updLp_beside _ _ _ hm, loop_of h2.1], h2.2.2.2, h2.2.1⟩
  clear hz h2 y
  have a1 : ∀ m : Fin 16, ∀ o, o < 0x1000 → pageAddr (loopPage m) o ≠ cueStatAddr ∧ pageAddr (loopPage m) o ≠ cueLastAddr := by
    intro m o ho; unfold cueStatAddr cueLastAddr pageAddr loopPage; have := m.isLt; omega
  have hw : ∀ (w : Word) (u : Device), u.loop = (z.setReg cueStatAddr w).loop → u.phase = (z.setReg cueStatAddr w).phase → u.regs = (z.setReg cueStatAddr w).regs → ∀ v,
      let e := u.setReg cueLastAddr v
      e.lp n = { d.lp n with cueCount := satInc 255 (d.lp n).cueCount, cueLast := p, cueAt := some d.cycle, shedCnt := 0 } ∧
      (∀ m, m ≠ n → e.lp m = d.lp m) ∧ (∀ k, (e.ph k).st = (d.ph k).st) ∧ ∀ m o, o < 0x1000 → e.lreg m o = d.lreg m o := by
    intro w u hl hp hr v
    refine ⟨(loop_of hl n).trans h3.1, fun m hm => (loop_of hl m).trans (h3.2.1 m hm), fun k => ?_, fun m o ho => ?_⟩
    · show (u.ph k).st = _; rw [ph_of hp]; exact h3.2.2.1 k
    · show (u.setReg cueLastAddr v).reg (pageAddr (loopPage m) o) = d.reg (pageAddr (loopPage m) o)
      rw [Device.reg_setReg_other _ _ _ (a1 m o ho).2]
      have : u.reg (pageAddr (loopPage m) o) = (z.setReg cueStatAddr w).reg (pageAddr (loopPage m) o) := by unfold Device.reg; rw [hr]
      refine this.trans ?_
      rw [Device.reg_setReg_other _ _ _ (a1 m o ho).1]
      unfold Device.reg; rw [h3.2.2.2]
  generalize setBits (z.reg cueStatAddr) 15 0 _ = w
  exact hw w (((z.setReg cueStatAddr w).pmcCount 0x14 n.val 1).dayLoop n fun x => { x with cues := satInc 0xFFFF x.cues })
    (keeps_loop (by simp)) (keeps_phase (by simp)) (keeps_regs (by simp)) _

/-- The step of a cue: DI on I_CMD and the integrator (R274, R277, R278). -/
theorem cueStep_lp (d : Device) (n : Fin 16) (p : Nat) : let e := d.cueStep n p
    let di := sbits (d.lreg n (0x100 + 8 * p)) 15 0
    ((e.lp n).iCmd : Int) = clampI 0 32767 (((d.lp n).iCmd : Int) + di * 16) ∧
    (e.lp n).integ = clampI (-(iSat (d.gexp n))) (iSat (d.gexp n)) (sat40 ((d.lp n).integ + di * 2 ^ (23 - d.gexp n))) ∧
    (e.lp n).cueCount = (d.lp n).cueCount ∧ (e.lp n).cueLast = (d.lp n).cueLast ∧ (e.lp n).cueAt = (d.lp n).cueAt ∧ (e.lp n).st = (d.lp n).st ∧
    (∀ m, m ≠ n → e.lp m = d.lp m) ∧ ∀ k, (e.ph k).st = (d.ph k).st := by
  unfold Device.cueStep
  dsimp only
  generalize hd1 : d.updLp n _ = d1
  have h1 : ((d1.lp n).iCmd : Int) = clampI 0 32767 (((d.lp n).iCmd : Int) + sbits (d.lreg n (0x100 + 8 * p)) 15 0 * 16) ∧
    (d1.lp n).integ = clampI (-(iSat (d.gexp n))) (iSat (d.gexp n)) (sat40 ((d.lp n).integ + sbits (d.lreg n (0x100 + 8 * p)) 15 0 * 2 ^ (23 - d.gexp n))) ∧
    (d1.lp n).cueCount = (d.lp n).cueCount ∧ (d1.lp n).cueLast = (d.lp n).cueLast ∧ (d1.lp n).cueAt = (d.lp n).cueAt ∧ (d1.lp n).st = (d.lp n).st ∧
    (∀ m, m ≠ n → d1.lp m = d.lp m) ∧ d1.phase = d.phase := by
    rw [← hd1]
    refine ⟨?_, ?_, ?_, ?_, ?_, ?_, fun m hm => updLp_beside _ _ _ hm, rfl⟩ <;> rw [updLp_at]
    have := clampI_within 0 32767 (((d.lp n).iCmd : Int) + sbits (d.lreg n (0x100 + 8 * p)) 15 0 * 16) (by decide)
    show ((clampI 0 32767 _).toNat : Int) = _
    omega
  clear hd1
  generalize hd2 : d1.updLp n _ = d2
  have h2 : (d2.lp n).iCmd = (d1.lp n).iCmd ∧ (d2.lp n).integ = (d1.lp n).integ ∧ (d2.lp n).cueCount = (d1.lp n).cueCount ∧ (d2.lp n).cueLast = (d1.lp n).cueLast ∧
      (d2.lp n).cueAt = (d1.lp n).cueAt ∧ (d2.lp n).st = (d1.lp n).st ∧ (∀ m, m ≠ n → d2.lp m = d1.lp m) ∧ d2.phase = d1.phase := by
    rw [← hd2]
    refine ⟨?_, ?_, ?_, ?_, ?_, ?_, fun m hm => updLp_beside _ _ _ hm, rfl⟩ <;> rw [updLp_at]
  clear hd2
  have lk := loadPeaks_keeps d2 n
  generalize d2.loadPeaks n = d3 at lk ⊢
  have fin : ∀ t : Device, t.loop = d3.loop → t.phase = d3.phase →
      ((t.lp n).iCmd : Int) = clampI 0 32767 (((d.lp n).iCmd : Int) + sbits (d.lreg n (0x100 + 8 * p)) 15 0 * 16) ∧
      (t.lp n).integ = clampI (-(iSat (d.gexp n))) (iSat (d.gexp n)) (sat40 ((d.lp n).integ + sbits (d.lreg n (0x100 + 8 * p)) 15 0 * 2 ^ (23 - d.gexp n))) ∧
      (t.lp n).cueCount = (d.lp n).cueCount ∧ (t.lp n).cueLast = (d.lp n).cueLast ∧ (t.lp n).cueAt = (d.lp n).cueAt ∧ (t.lp n).st = (d.lp n).st ∧
      (∀ m, m ≠ n → t.lp m = d.lp m) ∧ ∀ k, (t.ph k).st = (d.ph k).st := by
    intro t h6 h7
    have hl : ∀ m, t.lp m = d2.lp m := fun m => (loop_of h6 m).trans (loop_of lk.1 m)
    rw [hl, h2.1, h2.2.1, h2.2.2.1, h2.2.2.2.1, h2.2.2.2.2.1, h2.2.2.2.2.2.1]
    refine ⟨h1.1, h1.2.1, h1.2.2.1, h1.2.2.2.1, h1.2.2.2.2.1, h1.2.2.2.2.2.1, fun m hm => by rw [hl, h2.2.2.2.2.2.2.1 m hm, h1.2.2.2.2.2.2.1 m hm], fun k => ?_⟩
    rw [ph_of h7, (lk.2.2 k).1, ph_of h2.2.2.2.2.2.2.2, ph_of h1.2.2.2.2.2.2.2]
  exact fin _ (keeps_loop (by simp)) (keeps_phase (by simp))

theorem cueAccept_acts (d : Device) (n : Fin 16) (p : Nat) (hp : p < 8) (sw : Bool) (t : Option CueTiming) :
    let e := (d.cueRequests n p sw t).cueStep n p
    let di := sbits (d.lreg n (0x100 + 8 * p)) 15 0
    ((e.lp n).iCmd : Int) = clampI 0 32767 (((d.lp n).iCmd : Int) + di * 16) ∧
    (e.lp n).integ = clampI (-(iSat (d.gexp n))) (iSat (d.gexp n)) (sat40 ((d.lp n).integ + di * 2 ^ (23 - d.gexp n))) ∧
    (e.lp n).cueCount = satInc 255 (d.lp n).cueCount ∧ (e.lp n).cueLast = p ∧ (e.lp n).cueAt = some d.cycle ∧ (e.lp n).st = (d.lp n).st ∧
    (∀ m, m ≠ n → e.lp m = d.lp m) ∧ ∀ k, (e.ph k).st = (d.ph k).st := by
  have r := cueRequests_lp d n p sw t
  dsimp only at r ⊢
  generalize d.cueRequests n p sw t = x at r ⊢
  have a := cueStep_lp x n p
  dsimp only at a
  have hg : x.gexp n = d.gexp n := by unfold Device.gexp; rw [r.2.2.2 _ _ (by decide)]
  rw [r.2.2.2 _ _ (by omega), hg, r.1] at a
  exact ⟨a.1, a.2.1, a.2.2.1, a.2.2.2.1, a.2.2.2.2.1, a.2.2.2.2.2.1, fun m hm => (a.2.2.2.2.2.2.1 m hm).trans (r.2.1 m hm),
    fun k => (a.2.2.2.2.2.2.2 k).trans (r.2.2.1 k)⟩

theorem cue_acts (d : Device) (n : Fin 16) (p : Nat) (hp : p < 8) (sw : Bool) (t : Option CueTiming) : CueActs d (d.cue n p sw t) n p := by
  have hk := fun drop => cueReject_keeps d n p sw drop
  have ha := cueAccept_acts d n p hp sw t
  have no : ∀ drop, d.cueTaken n p = false → CueActs d (d.cueReject n p sw drop) n p := fun drop h =>
    ⟨fun m _ => loop_of (hk drop).1 m, fun k => by rw [ph_of (hk drop).2], fun h' => (by rw [h] at h'; cases h'), fun _ => hk drop⟩
  have yes : d.cueTaken n p = true → CueActs d ((d.cueRequests n p sw t).cueStep n p) n p := fun h =>
    ⟨ha.2.2.2.2.2.2.1, ha.2.2.2.2.2.2.2, fun _ => ⟨ha.1, ha.2.1, ha.2.2.1, ha.2.2.2.1, ha.2.2.2.2.1, ha.2.2.2.2.2.1⟩, fun h' => by rw [h] at h'; cases h'⟩
  unfold Device.cue Device.cueCheck
  dsimp only
  generalize hok : (bit (d.reg (pageAddr 0x0C8 0x040)) (16 + n.val) && bit (d.lreg n (0x100 + 8 * p)) 31 && (d.lp n).st.regulating) = ok
  have ht : d.cueTaken n p = (ok && match (d.lp n).cueAt with | some c => decide (c + nsCycles 32 ≤ d.cycle) | none => true) := by
    unfold Device.cueTaken; rw [← hok] <;> rfl
  cases ok
  · rw [if_pos (by decide)]; exact no false (by rw [ht]; rfl)
  · rw [if_neg (by decide)]
    cases hc : (d.lp n).cueAt with
    | none =>
      dsimp only
      rw [if_neg (by decide)]
      exact yes (by rw [ht, hc]; rfl)
    | some c =>
      dsimp only
      by_cases hlt : d.cycle < c + nsCycles 32
      · rw [if_pos (decide_eq_true hlt)]; exact no true (by rw [ht, hc]; simp; omega)
      · rw [if_neg (by simpa using hlt)]; exact yes (by rw [ht, hc]; simp; omega)

theorem acts_from {d g e : Device} {n : Fin 16} {p : Nat} (h : CueActs g e n p) (hr : g.regs = d.regs) (hl : g.loop = d.loop) (hp : g.phase = d.phase)
    (hc : g.cycle = d.cycle) : CueActs d e n p := by
  obtain ⟨h1, h2, h3, h4⟩ := h
  have ht : g.cueTaken n p = d.cueTaken n p := by unfold Device.cueTaken; rw [reg_of_same hr, lreg_of hr, loop_of hl, hc]
  have hg : g.gexp n = d.gexp n := by unfold Device.gexp; rw [lreg_of hr]
  rw [ht, lreg_of hr, loop_of hl, hg, hc] at h3
  rw [ht, hl, hp] at h4
  exact ⟨fun m hm => (h1 m hm).trans (loop_of hl m), fun k => (h2 k).trans (by rw [ph_of hp]), h3, h4⟩

/-- What entry to a state leaves alone in its loop. -/
theorem enter_fields (l : Loop) (st : LoopState) (cause : Nat) : (l.enter st cause).st = st ∧ (l.enter st cause).prev = l.st ∧ (l.enter st cause).cause = cause ∧
    (l.enter st cause).en = l.en ∧ (l.enter st cause).enLatched = l.enLatched ∧ (l.enter st cause).flt = l.flt ∧ (l.enter st cause).first = l.first ∧
    (l.enter st cause).fltTs = l.fltTs ∧ (l.enter st cause).sense = l.sense ∧ (l.enter st cause).iLl = l.iLl ∧ (l.enter st cause).vLift = l.vLift ∧
    (l.enter st cause).vSs = l.vSs ∧ (l.enter st cause).vTarget = l.vTarget := by
  cases st <;> exact ⟨rfl, rfl, rfl, rfl, rfl, rfl, rfl, rfl, rfl, rfl, rfl, rfl, rfl⟩

/-- What entry to st leaves in loop n, and that it leaves the other loops and every phase alone. -/
theorem loopTo_lp (d : Device) (n : Fin 16) (st : LoopState) (cause who : Nat) :
    (d.loopTo n st cause who).lp n = (d.lp n).enter st cause ∧
    (∀ m, m ≠ n → (d.loopTo n st cause who).lp m = d.lp m) ∧ (d.loopTo n st cause who).phase = d.phase ∧ (d.loopTo n st cause who).regs = d.regs := by
  have h : ∀ x : Device, x = d.updLp n (fun l => l.enter st cause) → ∀ y : Device, y.loop = x.loop →
      y.lp n = (d.lp n).enter st cause ∧ ∀ m, m ≠ n → y.lp m = d.lp m := fun x hx y hy =>
    ⟨by rw [loop_of hy, hx, updLp_at], fun m hm => by rw [loop_of hy, hx, updLp_beside _ _ _ hm]⟩
  have hl : ∀ y : Device, y = d.loopTo n st cause who → y.loop = (d.updLp n (fun l => l.enter st cause)).loop := by
    intro y hy
    rw [hy]
    unfold Device.loopTo
    dsimp only
    generalize d.updLp n (fun l => l.enter st cause) = x
    exact keeps_loop (by simp)
  exact ⟨(h _ rfl _ (hl _ rfl)).1, (h _ rfl _ (hl _ rfl)).2, keeps_phase (by simp), keeps_regs (by simp)⟩

theorem loopTo_moves (d : Device) (n : Fin 16) (st : LoopState) (cause who : Nat) : LoopMoves d (d.loopTo n st cause who) n st cause := by
  have h := loopTo_lp d n st cause who
  have e := enter_fields (d.lp n) st cause
  exact ⟨by rw [h.1, e.1], by rw [h.1, e.2.1], by rw [h.1, e.2.2.1], fun m hm => by rw [h.2.1 m hm]⟩

theorem lmoves_of {d e a b : Device} {n : Fin 16} {st cause} (h : LoopMoves d e n st cause) (h1 : (d.lp n).st = (a.lp n).st) (ha : ∀ m, m ≠ n → (d.lp m).apart = (a.lp m).apart)
    (hb : (b.lp n).st = (e.lp n).st ∧ (b.lp n).prev = (e.lp n).prev ∧ (b.lp n).cause = (e.lp n).cause) (ho : ∀ m, m ≠ n → (b.lp m).apart = (e.lp m).apart) :
    LoopMoves a b n st cause :=
  ⟨hb.1.trans h.1, hb.2.1.trans (h.2.1.trans h1), hb.2.2.trans h.2.2.1, fun m hm => (ho m hm).trans ((h.2.2.2 m hm).trans (ha m hm))⟩

theorem disablePhases_apart (d : Device) (n : Fin 16) (c : Nat) (m : Fin 16) : ((d.loopDisablePhases n c).lp m).apart = (d.lp m).apart :=
  fold_apart _ _ _ _ (fun e a => phaseDisable_apart e a c byHw m)

theorem apart_fields {l m : Loop} (h : l.apart = m.apart) : l.st = m.st ∧ l.prev = m.prev ∧ l.cause = m.cause ∧ l.en = m.en ∧ l.enLatched = m.enLatched ∧ l.flt = m.flt ∧
    l.first = m.first ∧ l.fltTs = m.fltTs :=
  have e : ∀ {α : Type} (F : Loop → α), F l.apart = F m.apart := fun F => congrArg F h
  ⟨e (·.st), e (·.prev), e (·.cause), e (·.en), e (·.enLatched), e (·.flt), e (·.first), e (·.fltTs)⟩

theorem loopDrain_moves (d : Device) (n : Fin 16) (cause : Nat) : LoopMoves d (d.loopDrain n cause) n .draining cause ∧
    ((d.loopDrain n cause).lp n).en = (d.lp n).en ∧ ((d.loopDrain n cause).lp n).enLatched = (d.lp n).enLatched := by
  have h := loopTo_lp d n .draining cause byHw
  have a : ∀ m, ((d.loopDrain n cause).lp m).apart = ((d.loopTo n .draining cause).lp m).apart := fun m => disablePhases_apart (d.loopTo n .draining cause) n 0x02 m
  have f := apart_fields (a n)
  have en := enter_fields (d.lp n) .draining cause
  rw [h.1] at f
  exact ⟨⟨f.1.trans en.1, f.2.1.trans en.2.1, f.2.2.1.trans en.2.2.1, fun m hm => (a m).trans (by rw [h.2.1 m hm])⟩, f.2.2.2.1.trans en.2.2.2.1,
    f.2.2.2.2.1.trans en.2.2.2.2.1⟩

/-- A change of a loop's other fields before and after a move. -/
theorem lmoves_upd (d e : Device) (n : Fin 16) (st : LoopState) (cause : Nat) (f g : Loop → Loop) (hf : ∀ l, (f l).st = l.st)
    (hg : ∀ l, (g l).st = l.st ∧ (g l).prev = l.prev ∧ (g l).cause = l.cause) (h : LoopMoves (d.updLp n f) e n st cause) : LoopMoves d (e.updLp n g) n st cause := by
  refine lmoves_of h (by rw [updLp_at, hf]) (fun m hm => by rw [updLp_beside _ _ _ hm]) ?_ (fun m hm => by rw [updLp_beside _ _ _ hm])
  obtain ⟨h1, h2, h3⟩ := hg (e.lp n)
  rw [updLp_at]; exact ⟨h1, h2, h3⟩

theorem lmoves_pre {d e : Device} {n : Fin 16} {st cause} {f : Loop → Loop} (h : LoopMoves (d.updLp n f) e n st cause) (hf : ∀ l, (f l).st = l.st) : LoopMoves d e n st cause :=
  lmoves_of h (by rw [updLp_at, hf]) (fun m hm => by rw [updLp_beside _ _ _ hm]) ⟨rfl, rfl, rfl⟩ (fun _ _ => rfl)

theorem softStop_on (d : Device) (n : Fin 16) : let e := d.updLp n fun l => { l with en := false, enLatched := false }
    ((d.lp n).st = .prebias → d.loopSoftStop n = e.loopTo n .off 0x16) ∧
    ((d.lp n).st = .ramp ∨ (d.lp n).st = .run → d.loopSoftStop n =
      if bit (d.leff n 0x0E0) 31 then (e.loopTo n .rampdown 0x15).updLp n (fun l => { l with vSs := min l.vSs l.vTarget }) else e.loopDrain n 0x16) ∧
    ((d.lp n).st ≠ .prebias → (d.lp n).st ≠ .ramp → (d.lp n).st ≠ .run → d.loopSoftStop n = e) := by
  have hst : ((d.updLp n fun l => { l with en := false, enLatched := false }).lp n).st = (d.lp n).st := by rw [updLp_at]
  have hl : (d.updLp n fun l => { l with en := false, enLatched := false }).leff n 0x0E0 = d.leff n 0x0E0 := by unfold Device.leff; rw [updLp_at]; rfl
  dsimp only
  unfold Device.loopSoftStop
  dsimp only
  rw [hst, hl]
  refine ⟨fun h => by rw [h], fun h => ?_, fun h1 h2 h3 => ?_⟩
  · rcases h with h | h <;> rw [h]
  · generalize (d.lp n).st = st at *
    cases st with
    | prebias => exact absurd rfl h1
    | ramp => exact absurd rfl h2
    | run => exact absurd rfl h3
    | off => rfl
    | rampdown => rfl
    | draining => rfl
    | faulted => rfl
    | crowbar => rfl

theorem hardStop_on (d : Device) (n : Fin 16) : let e := d.updLp n fun l => { l with en := false, enLatched := false }
    ((d.lp n).st = .prebias → d.loopHardStop n = e.loopTo n .off 0x16) ∧
    ((d.lp n).st = .ramp ∨ (d.lp n).st = .run ∨ (d.lp n).st = .rampdown → d.loopHardStop n = e.loopDrain n 0x16) ∧
    ((d.lp n).st ≠ .prebias → (d.lp n).st ≠ .ramp → (d.lp n).st ≠ .run → (d.lp n).st ≠ .rampdown → d.loopHardStop n = e) := by
  have hst : ((d.updLp n fun l => { l with en := false, enLatched := false }).lp n).st = (d.lp n).st := by rw [updLp_at]
  dsimp only
  unfold Device.loopHardStop
  dsimp only
  rw [hst]
  refine ⟨fun h => by rw [h], fun h => ?_, fun h1 h2 h3 h4 => ?_⟩
  · rcases h with h | h | h <;> rw [h]
  · generalize (d.lp n).st = st at *
    cases st with
    | prebias => exact absurd rfl h1
    | ramp => exact absurd rfl h2
    | run => exact absurd rfl h3
    | rampdown => exact absurd rfl h4
    | off => rfl
    | draining => rfl
    | faulted => rfl
    | crowbar => rfl

/-- A write of PAGE_CTL that changes ENABLE alone is that change, where it leaves FREEZE as it was. -/
theorem enable_write (d : Device) (f : OtpArray) (src : Source) (p : Fin 256) (b : Bool) (hp : isBlockPage p.val = true)
    (ht : d.takesHead src p.val 0x008 (setBit (d.ctlWord p) 0 b) = true)
    (hf : bit (((d.arrive src (pageAddr p.val 0x008)).enableWrite p.val b (d.requester src).code).head p).ctl 2 = bit (d.head p).ctl 2) :
    d.busWrite f src (pageAddr p.val 0x008) 0xF (setBit (d.ctlWord p) 0 b) {} = (d.arrive src (pageAddr p.val 0x008)).enableWrite p.val b (d.requester src).code := by
  rw [head_write_ctl d f src p _ hp ht, ctlWrite_full]
  dsimp only
  have b0 : bit (setBit (d.ctlWord p) 0 b) 0 = b := by rw [bit_setBit _ _ _ _ (by decide), if_pos rfl]
  have b1 : bit (setBit (d.ctlWord p) 0 b) 1 = false := by
    rw [bit_setBit _ _ _ _ (by decide), if_neg (by decide)]; unfold Device.ctlWord; rw [bit_setBit _ _ _ _ (by decide), if_pos rfl]
  have b2 : bit (setBit (d.ctlWord p) 0 b) 2 = bit (d.head p).ctl 2 := by
    rw [bit_setBit _ _ _ _ (by decide), if_neg (by decide), ctlWord_bit _ _ _ (by decide)]
  rw [b0, b1, b2, if_neg (by decide), Device.arrive_requester]
  unfold Device.freezeWrite
  rw [if_pos]
  unfold Device.isFrozen
  rw [pg_val, hf]

theorem arrive_ctl (d : Device) (src : Source) (a : Nat) (p : Fin 256) : ((d.arrive src a).head p).ctl = (d.head p).ctl := (fixed_all d src a p).2.2.2.2.2

theorem keep_ctl (d : Device) (p : Fin 256) (b : Bool) : bit (((d.updHdr p fun h => { h with ctl := setBit h.ctl 0 b }).head p).ctl) 2 = bit (d.head p).ctl 2 ∧
    bit (((d.updHdr p fun h => { h with ctl := setBit h.ctl 0 b }).head p).ctl) 0 = b := by
  rw [Device.head_updHdr]
  exact ⟨by rw [bit_setBit _ _ _ _ (by decide), if_neg (by decide)], by rw [bit_setBit _ _ _ _ (by decide), if_pos rfl]⟩

theorem err_ctl (d : Device) (p : Nat) (m : Word) : ((d.setErr p m).head (pg p)).ctl = (d.head (pg p)).ctl := by rw [updHdr_err]

/-- A write of ENABLE of a loop's page. -/
theorem loop_enable (d : Device) (n : Fin 16) (b : Bool) (who : Nat) : let t := d.enableWrite (loopPage n) b who
    t.loop = d.loop ∧ t.phase = d.phase ∧ bit (t.head (pg (loopPage n))).ctl 2 = bit (d.head (pg (loopPage n))).ctl 2 ∧
    (b = true ∨ (d.lp n).st = .off ∨ (d.lp n).st = .faulted → t.loopPermitted n = b) ∧
    (b = false → (d.lp n).st ≠ .off → (d.lp n).st ≠ .faulted → d.loopPermitted n = true → t.loopPermitted n = true ∧ bit (t.head (pg (loopPage n))).err 8 = true) := by
  dsimp only
  unfold Device.enableWrite
  dsimp only
  by_cases h : b = bit (d.head (pg (loopPage n))).ctl 0
  · rw [if_pos h, if_neg (by unfold loopPage; have := n.isLt; omega)]
    refine ⟨rfl, rfl, rfl, fun _ => h.symm, fun h1 _ _ h2 => ?_⟩
    rw [h1] at h; unfold Device.loopPermitted at h2; rw [h2] at h; cases h
  · rw [if_neg h]
    rw [show blockOf (loopPage n) = some .loop from blockOf_loop n]
    dsimp only
    rw [show Fin.ofNat 16 (loopPage n - 0x010) = n from ofNat_loop n]
    have k := keep_ctl d (pg (loopPage n)) b
    by_cases hc : (!b && (d.lp n).st != .off && (d.lp n).st != .faulted) = true
    · rw [if_pos hc]
      simp at hc
      refine ⟨rfl, rfl, by rw [err_ctl], fun h1 => ?_, fun _ _ _ h2 => ⟨?_, setErr_bit _ _ _ (by decide)⟩⟩
      · rcases h1 with h1 | h1 | h1
        · rw [hc.1.1] at h1; cases h1
        · exact absurd h1 hc.1.2
        · exact absurd h1 hc.2
      · unfold Device.loopPermitted at h2 ⊢; rw [err_ctl]; exact h2
    · rw [if_neg hc]
      refine ⟨rfl, rfl, k.1, fun _ => k.2, fun h1 h2 h3 _ => ?_⟩
      rw [h1] at hc; simp [h2, h3] at hc

theorem fltSet_lp (d : Device) (n : Fin 16) (b : Nat) : (d.fltSet n b).lp n = { d.lp n with
      flt := setBit (d.lp n).flt b true, first := if bits (d.lp n).flt 8 0 == 0 && b ≤ 8 then b else (d.lp n).first,
      fltTs := if bits (d.lp n).flt 8 0 == 0 && b ≤ 8 then d.ts % 2 ^ 24 else (d.lp n).fltTs } ∧ ∀ m, m ≠ n → (d.fltSet n b).lp m = d.lp m := by
  unfold Device.fltSet
  refine ⟨?_, fun m hm => updLp_beside _ _ _ hm⟩
  rw [updLp_at]

theorem setBit_low (w : Word) (b : Nat) (h : b ≤ 8 ∨ bits w 8 0 ≠ 0) : bits (setBit w b true) 8 0 ≠ 0 := by
  intro hz
  rw [bits_zero] at hz
  rcases Nat.lt_or_ge 8 b with hb | hb
  · refine (h.resolve_left (by omega)) ((bits_zero _ _ _).2 fun i h0 h1 => ?_)
    rw [← hz i h0 h1]
    exact (bit_setBits_other _ _ _ _ _ (Or.inl (by omega))).symm
  · have := hz b (by omega) hb
    rw [bit_setBit _ _ _ _ (by omega), if_pos rfl] at this
    cases this

/-- Further fault bits of a word that already shows a fault leave its first fault as it is (R353). -/
theorem fltSets_lp (l : List Nat) (d : Device) (n : Fin 16) (h : bits (d.lp n).flt 8 0 ≠ 0) : let e := l.foldl (fun d b => d.fltSet n b) d
    e.lp n = { d.lp n with flt := l.foldl (fun w i => setBit w i true) (d.lp n).flt } ∧ ∀ m, m ≠ n → e.lp m = d.lp m := by
  induction l generalizing d with
  | nil => exact ⟨rfl, fun _ _ => rfl⟩
  | cons b l ih =>
    have s := fltSet_lp d n b
    have hz : (bits (d.lp n).flt 8 0 == 0 && decide (b ≤ 8)) = false := by simp [h]
    rw [hz] at s
    have i := ih (d.fltSet n b) (by rw [s.1]; exact setBit_low _ _ (Or.inr h))
    dsimp only at i ⊢
    rw [s.1] at i
    exact ⟨i.1, fun m hm => (i.2 m hm).trans (s.2 m hm)⟩

/-- What a loop fault does before the sequencer hears of it. -/
theorem loopFault_eq (d : Device) (n : Fin 16) (b cause : Nat) (further : List Nat) (hf : (d.lp n).st.faultable = true) (hb : b < 8) :
    ∃ e : Device, d.loopFault n b cause further = e.loopRailFault n ∧ LoopFaults d e n b cause further := by
  unfold Device.loopFault
  rw [if_pos hf]
  dsimp only
  rw [if_neg (by omega), if_neg (by omega)]
  refine ⟨_, rfl, ?_⟩
  have h := loopTo_lp d n .faulted cause byHw
  have hts : (d.loopTo n .faulted cause).ts = d.ts := keeps_ts (by simp)
  have en := enter_fields (d.lp n) .faulted cause
  generalize d.loopTo n .faulted cause = x1 at *
  generalize hx2 : x1.updLp n (fun l => { l with enLatched := false }) = x2
  have h2 : x2.lp n = { x1.lp n with enLatched := false } := by rw [← hx2, updLp_at]
  have h2o : ∀ m, m ≠ n → x2.lp m = d.lp m := fun m hm => by rw [← hx2, updLp_beside _ _ _ hm, h.2.1 m hm]
  have h2t : x2.ts = d.ts := by rw [← hx2]; exact hts
  clear hx2
  have a := fun m => disablePhases_apart x2 n 0x02 m
  have at3 : (x2.loopDisablePhases n 0x02).ts = d.ts := (keeps_ts (by simp) : _ = x2.ts).trans h2t
  generalize x2.loopDisablePhases n 0x02 = x3 at *
  have f := apart_fields (a n)
  rw [h2, h.1] at f
  have s := fltSet_lp x3 n b
  have low : bits (((x3.fltSet n b).lp n)).flt 8 0 ≠ 0 := by rw [s.1]; exact setBit_low _ _ (Or.inl (by omega))
  have g := fltSets_lp further (x3.fltSet n b) n low
  generalize x3.fltSet n b = x4 at *
  dsimp only at g
  generalize further.foldl (fun d b => d.fltSet n b) x4 = x5 at *
  have hlp : ∀ (y : Device) p m k, (y.setErr p m).lp k = y.lp k := fun _ _ _ _ => rfl
  rw [s.1] at g
  refine ⟨⟨?_, ?_, ?_, fun m hm => ?_⟩, ?_, ?_, fun hz => ⟨?_, ?_⟩, fun hz => ⟨?_, ?_⟩, setErr_bit _ _ _ (by decide)⟩
  · rw [hlp, g.1]; exact f.1.trans en.1
  · rw [hlp, g.1]; exact f.2.1.trans en.2.1
  · rw [hlp, g.1]; exact f.2.2.1.trans en.2.2.1
  · rw [hlp, g.2 m hm, s.2 m hm, a m, h2o m hm]
  · rw [hlp, g.1]; exact f.2.2.2.2.1
  · rw [hlp, g.1]; dsimp only; rw [f.2.2.2.2.2.1, en.2.2.2.2.2.1]
  · rw [hlp, g.1]
    dsimp only
    rw [if_pos]
    rw [f.2.2.2.2.2.1, en.2.2.2.2.2.1, hz]; simp; omega
  · rw [hlp, g.1]
    dsimp only
    rw [if_pos, at3]
    rw [f.2.2.2.2.2.1, en.2.2.2.2.2.1, hz]; simp; omega
  · rw [hlp, g.1]
    dsimp only
    rw [if_neg]
    · exact f.2.2.2.2.2.2.1.trans en.2.2.2.2.2.2.1
    · rw [f.2.2.2.2.2.1, en.2.2.2.2.2.1]; simp [hz]
  · rw [hlp, g.1]
    dsimp only
    rw [if_neg]
    · exact f.2.2.2.2.2.2.2.trans en.2.2.2.2.2.2.2.1
    · rw [f.2.2.2.2.2.1, en.2.2.2.2.2.1]; simp [hz]

theorem phaseCrowbar_keeps (d : Device) (k : Fin 64) : (∀ n, ((d.phaseCrowbar k).lp n).apart = (d.lp n).apart) ∧ (d.phaseCrowbar k).regs = d.regs ∧
    (∀ j, (d.ph j).st = .crowbar → ((d.phaseCrowbar k).ph j).st = .crowbar) ∧
    ((d.ph k).st ≠ .unpop → (d.ph k).st ≠ .failed → ((d.phaseCrowbar k).ph k).st = .crowbar) ∧
    (∀ j, (d.ph j).st = .unpop ∨ (d.ph j).st = .failed → ((d.phaseCrowbar k).ph j).st = (d.ph j).st) ∧
    (∀ j, ((d.phaseCrowbar k).ph j).st = (d.ph j).st ∨ ((d.phaseCrowbar k).ph j).st = .crowbar) := by
  have key : ∀ t : Device, t = d.phaseCrowbar k →
      (((d.ph k).st = .unpop ∨ (d.ph k).st = .failed ∨ (d.ph k).st = .crowbar) ∧ t = d) ∨
      ((d.ph k).st ≠ .unpop ∧ (d.ph k).st ≠ .failed ∧ (d.ph k).st ≠ .crowbar ∧
        t = (d.updPh k fun p => { p with mapHeld := p.mapHeld || p.lendFrom.isSome }).phaseTo k .crowbar 0x1A) := by
    intro t ht
    unfold Device.phaseCrowbar at ht
    generalize (d.ph k).st = st at *
    cases st with
    | unpop => exact Or.inl ⟨Or.inl rfl, ht⟩
    | failed => exact Or.inl ⟨Or.inr (Or.inl rfl), ht⟩
    | crowbar => exact Or.inl ⟨Or.inr (Or.inr rfl), ht⟩
    | off => exact Or.inr ⟨nofun, nofun, nofun, ht⟩
    | joining => exact Or.inr ⟨nofun, nofun, nofun, ht⟩
    | live => exact Or.inr ⟨nofun, nofun, nofun, ht⟩
    | draining => exact Or.inr ⟨nofun, nofun, nofun, ht⟩
    | parked => exact Or.inr ⟨nofun, nofun, nofun, ht⟩
    | handoff => exact Or.inr ⟨nofun, nofun, nofun, ht⟩
    | forced => exact Or.inr ⟨nofun, nofun, nofun, ht⟩
  have hk := key _ rfl
  generalize d.phaseCrowbar k = t at hk
  rcases hk with ⟨h1, h2⟩ | ⟨h1, h2, h3, h4⟩
  · subst h2
    refine ⟨fun _ => rfl, rfl, fun _ h => h, fun a b => ?_, fun _ _ => rfl, fun _ => Or.inl rfl⟩
    rcases h1 with h1 | h1 | h1
    · exact absurd h1 a
    · exact absurd h1 b
    · exact h1
  · have m := phaseTo_moves (d.updPh k fun p => { p with mapHeld := p.mapHeld || p.lendFrom.isSome }) k .crowbar 0x1A byHw
    have o : ∀ j, j ≠ k → t.ph j = d.ph j := fun j hj => by rw [h4, m.2.2.2.2.2.2 j hj, updPh_beside _ _ _ hj]
    have ks : (t.ph k).st = .crowbar := by rw [h4]; exact m.1
    refine ⟨fun n => by rw [h4]; exact phaseTo_apart _ _ _ _ _ _, by rw [h4]; exact phaseTo_regs _ _ _ _ _, fun j hj => ?_, fun _ _ => ks, fun j hj => ?_, fun j => ?_⟩
    · by_cases e : j = k
      · subst e; exact ks
      · rw [o j e]; exact hj
    · by_cases e : j = k
      · subst e; rcases hj with hj | hj
        · exact absurd hj h1
        · exact absurd hj h2
      · rw [o j e]
    · by_cases e : j = k
      · subst e; exact Or.inr ks
      · exact Or.inl (by rw [o j e])

theorem crowbarPhases (l : List (Fin 64)) (d : Device) : let e := l.foldl (fun d k => d.phaseCrowbar k) d
    (∀ n, (e.lp n).apart = (d.lp n).apart) ∧ e.regs = d.regs ∧ (∀ j, (d.ph j).st = .crowbar → (e.ph j).st = .crowbar) ∧
    (∀ k ∈ l, (d.ph k).st ≠ .unpop → (d.ph k).st ≠ .failed → (e.ph k).st = .crowbar) := by
  induction l generalizing d with
  | nil => exact ⟨fun _ => rfl, rfl, fun _ h => h, fun _ h => (nomatch h)⟩
  | cons a l ih =>
    have c := phaseCrowbar_keeps d a
    have i := ih (d.phaseCrowbar a)
    dsimp only at i ⊢
    rw [List.foldl_cons]
    refine ⟨fun n => (i.1 n).trans (c.1 n), i.2.1.trans c.2.1, fun j h => i.2.2.1 j (c.2.2.1 j h), fun k hk h1 h2 => ?_⟩
    rcases List.mem_cons.1 hk with hk | hk
    · subst hk; exact i.2.2.1 _ (c.2.2.2.1 h1 h2)
    · rcases c.2.2.2.2.2 k with h | h
      · exact i.2.2.2 k hk (by rw [h]; exact h1) (by rw [h]; exact h2)
      · exact i.2.2.1 k h

theorem crowbarOne_lp (d : Device) (n : Fin 16) : let e := d.crowbarOne n
    (∀ m, m ≠ n → (e.lp m).apart = (d.lp m).apart) ∧ (∀ j, (d.ph j).st = .crowbar → (e.ph j).st = .crowbar) ∧ e.regs = d.regs ∧
    ((d.lp n).st.faultable = true → (e.lp n).st = .crowbar ∧ bit (e.lp n).flt 0 = true ∧ (e.lp n).enLatched = false ∧
      ∀ k, (d.ph k).own = some n → (d.ph k).st ≠ .unpop → (d.ph k).st ≠ .failed → (e.ph k).st = .crowbar) := by
  dsimp only
  unfold Device.crowbarOne
  by_cases hf : (d.lp n).st.faultable = true
  · rw [if_pos hf]
    dsimp only
    have h := loopTo_lp d n .crowbar 0x19 byHw
    have en := enter_fields (d.lp n) .crowbar 0x19
    generalize d.loopTo n .crowbar 0x19 = x1 at *
    generalize hx2 : x1.updLp n (fun l => { l with enLatched := false, cueActive := false, vLift := 0, liftFall := false }) = x2
    have h2 : x2.lp n = { x1.lp n with enLatched := false, cueActive := false, vLift := 0, liftFall := false } := by rw [← hx2, updLp_at]
    have h2o : ∀ m, m ≠ n → x2.lp m = d.lp m := fun m hm => by rw [← hx2, updLp_beside _ _ _ hm, h.2.1 m hm]
    have h2p : ∀ j, x2.ph j = d.ph j := fun j => by rw [← hx2]; exact ph_of h.2.2.1 j
    have h2r : x2.regs = d.regs := by rw [← hx2]; exact h.2.2.2
    clear hx2
    have c := crowbarPhases (x2.phasesOf n fun _ => true) x2
    dsimp only at c
    have hmem : ∀ k, (d.ph k).own = some n → k ∈ x2.phasesOf n fun _ => true := by
      intro k hk; unfold Device.phasesOf; rw [List.mem_filter]; refine ⟨List.mem_finRange k, ?_⟩; rw [h2p, hk]; simp
    generalize (x2.phasesOf n fun _ => true).foldl (fun d k => d.phaseCrowbar k) x2 = x3 at c
    have sf := fltSet_lp x3 n 0
    have hfp : (x3.fltSet n 0).phase = x3.phase := rfl
    have hfr : (x3.fltSet n 0).regs = x3.regs := rfl
    generalize x3.fltSet n 0 = x4 at *
    have fin : ∀ y : Device, y.loop = (x4.updLp n fun l => { l with cbCount := satInc 15 l.cbCount }).loop → y.phase = x4.phase → y.regs = x4.regs →
        (∀ m, m ≠ n → (y.lp m).apart = (d.lp m).apart) ∧ (∀ j, (d.ph j).st = .crowbar → (y.ph j).st = .crowbar) ∧ y.regs = d.regs ∧
        ((d.lp n).st.faultable = true → (y.lp n).st = .crowbar ∧ bit (y.lp n).flt 0 = true ∧ (y.lp n).enLatched = false ∧
          ∀ k, (d.ph k).own = some n → (d.ph k).st ≠ .unpop → (d.ph k).st ≠ .failed → (y.ph k).st = .crowbar) := by
      intro y h1 hp hr
      have f := apart_fields (c.1 n)
      rw [h2, h.1] at f
      have yp : ∀ j, y.ph j = x3.ph j := fun j => (ph_of hp j).trans (ph_of hfp j)
      refine ⟨fun m hm => ?_, fun j hj => ?_, hr.trans (hfr.trans (c.2.1.trans h2r)), fun _ => ⟨?_, ?_, ?_, fun k ho a b => ?_⟩⟩
      · rw [loop_of h1, updLp_beside _ _ _ hm, sf.2 m hm, c.1 m, h2o m hm]
      · rw [yp]; exact c.2.2.1 j (by rw [h2p]; exact hj)
      · rw [loop_of h1, updLp_at, sf.1]; exact f.1.trans en.1
      · rw [loop_of h1, updLp_at, sf.1]; show bit (setBit _ 0 true) 0 = true; rw [bit_setBit _ _ _ _ (by decide), if_pos rfl]
      · rw [loop_of h1, updLp_at, sf.1]; exact f.2.2.2.2.1
      · rw [yp]; exact c.2.2.2 k (hmem k ho) (by rw [h2p]; exact a) (by rw [h2p]; exact b)
    exact fin _ (keeps_loop (by simp)) (keeps_phase (by simp)) (keeps_regs (by simp))
  · rw [if_neg hf]
    exact ⟨fun _ _ => rfl, fun _ h => h, rfl, fun h => absurd h hf⟩

theorem foldFin_inv (P : Device → Prop) {n : Nat} (f : Device → Fin n → Device) (d : Device) (h0 : P d) (h : ∀ e a, P e → P (f e a)) : P (foldFin n f d) := by
  unfold foldFin; exact foldl_inv P f _ d h0 h

theorem crowbar_lp (d : Device) (n : Fin 16) (hf : (d.lp n).st.faultable = true) : let e := d.crowbar n
    (e.lp n).st = .crowbar ∧ bit (e.lp n).flt 0 = true ∧ (e.lp n).enLatched = false ∧
      ∀ k, (d.ph k).own = some n → (d.ph k).st ≠ .unpop → (d.ph k).st ≠ .failed → (e.ph k).st = .crowbar := by
  dsimp only
  unfold Device.crowbar
  dsimp only
  generalize hx : d.updLp n (fun l => { l with sense := { l.sense with ov := true } }) = x
  have xs : (x.lp n).st.faultable = true := by rw [← hx, updLp_at]; exact hf
  have xp : ∀ k, x.ph k = d.ph k := fun k => by rw [← hx]; rfl
  rw [if_pos xs]
  have o := crowbarOne_lp x n
  dsimp only at o
  have o4 := o.2.2.2 xs
  generalize x.crowbarOne n = y at *
  have base : (y.lp n).st = .crowbar ∧ bit (y.lp n).flt 0 = true ∧ (y.lp n).enLatched = false ∧
      ∀ k, (d.ph k).own = some n → (d.ph k).st ≠ .unpop → (d.ph k).st ≠ .failed → (y.ph k).st = .crowbar :=
    ⟨o4.1, o4.2.1, o4.2.2.1, fun k h1 h2 h3 => o4.2.2.2 k (by rw [xp]; exact h1) (by rw [xp]; exact h2) (by rw [xp]; exact h3)⟩
  split
  · exact base
  · refine foldFin_inv (fun e => (e.lp n).st = .crowbar ∧ bit (e.lp n).flt 0 = true ∧ (e.lp n).enLatched = false ∧
      ∀ k, (d.ph k).own = some n → (d.ph k).st ≠ .unpop → (d.ph k).st ≠ .failed → (e.ph k).st = .crowbar) _ _ base ?_
    intro e m he
    by_cases hm : (m != n && e.lendGrp m == x.lendGrp n) = true
    · rw [if_pos hm]
      have c := crowbarOne_lp e m
      dsimp only at c
      have hmn : n ≠ m := by simp at hm; exact fun h => hm.1 h.symm
      have f := apart_fields (c.1 n hmn)
      exact ⟨f.1.trans he.1, by rw [f.2.2.2.2.2.1]; exact he.2.1, f.2.2.2.2.1.trans he.2.2.1, fun k h1 h2 h3 => c.2.1 k (he.2.2.2 k h1 h2 h3)⟩
    · rw [if_neg hm]; exact he

/-- A crowbar leaves the enables of the loops as they are. -/
theorem crowbarOne_en (d : Device) (n m : Fin 16) : ((d.crowbarOne n).lp m).en = (d.lp m).en := by
  unfold Device.crowbarOne
  split
  · dsimp only
    have h := loopTo_lp d n .crowbar 0x19 byHw
    have h1 : ((d.loopTo n .crowbar 0x19).lp m).en = (d.lp m).en := by
      by_cases hm : m = n
      · subst hm; rw [h.1]; exact (enter_fields _ _ _).2.2.2.1
      · rw [h.2.1 m hm]
    generalize d.loopTo n .crowbar 0x19 = x1 at *
    have up : ∀ (x : Device) (f : Loop → Loop), (∀ l, (f l).en = l.en) → ((x.updLp n f).lp m).en = (x.lp m).en := fun x f hf => by
      by_cases hm : m = n
      · subst hm; rw [updLp_at, hf]
      · rw [updLp_beside _ _ _ hm]
    have h2 := (up x1 (fun l => { l with enLatched := false, cueActive := false, vLift := 0, liftFall := false }) fun _ => rfl).trans h1
    generalize x1.updLp n (fun l => { l with enLatched := false, cueActive := false, vLift := 0, liftFall := false }) = x2 at *
    have h3 : (((x2.phasesOf n fun _ => true).foldl (fun d k => d.phaseCrowbar k) x2).lp m).en = (d.lp m).en :=
      ((apart_fields ((crowbarPhases _ x2).1 m)).2.2.2.1).trans h2
    generalize (x2.phasesOf n fun _ => true).foldl (fun d k => d.phaseCrowbar k) x2 = x3 at *
    have h4 : (((x3.fltSet n 0).updLp n fun l => { l with cbCount := satInc 15 l.cbCount }).lp m).en = (d.lp m).en :=
      (up _ (fun l => { l with cbCount := satInc 15 l.cbCount }) fun _ => rfl).trans ((by unfold Device.fltSet; exact up x3 _ fun _ => rfl : ((x3.fltSet n 0).lp m).en = (x3.lp m).en).trans h3)
    generalize (x3.fltSet n 0).updLp n (fun l => { l with cbCount := satInc 15 l.cbCount }) = x4 at *
    exact (congrArg Loop.en (loop_of (keeps_loop (by simp) : ((x4.setErr (loopPage n) (errBit 9)).cueSync).loop = x4.loop) m)).trans h4
  · rfl

theorem crowbar_en (d : Device) (n : Fin 16) : ((d.crowbar n).lp n).en = (d.lp n).en := by
  unfold Device.crowbar
  dsimp only
  generalize hx : d.updLp n (fun l => { l with sense := { l.sense with ov := true } }) = x
  have xe : (x.lp n).en = (d.lp n).en := by rw [← hx, updLp_at]
  clear hx
  split
  · have h := (crowbarOne_en x n n).trans xe
    generalize x.crowbarOne n = y at *
    split
    · exact h
    · refine foldFin_inv (fun e => (e.lp n).en = (d.lp n).en) _ _ h fun e m he => ?_
      split
      · exact (crowbarOne_en e m n).trans he
      · exact he
  · split
    · rw [(fltSet_lp x n 0).1]; exact xe
    · exact xe

theorem releaseOne_moves (d : Device) (n : Fin 16) (fc : Fin 64 → Option Level) : LoopMoves d (d.releaseOne n fc) n .faulted 0x1A ∧ ((d.releaseOne n fc).lp n).flt = (d.lp n).flt ∧
    ((d.releaseOne n fc).lp n).sense.ov = false := by
  unfold Device.releaseOne
  dsimp only
  generalize hx : d.updLp n (fun l => { l with ovCnt := 0, sense := { l.sense with ov := false } }) = x
  have xs : (x.lp n).st = (d.lp n).st ∧ (x.lp n).flt = (d.lp n).flt ∧ (x.lp n).sense.ov = false := by rw [← hx, updLp_at]; exact ⟨rfl, rfl, rfl⟩
  have xo : ∀ m, m ≠ n → x.lp m = d.lp m := fun m hm => by rw [← hx, updLp_beside _ _ _ hm]
  clear hx
  have h := loopTo_lp x n .faulted 0x1A byHw
  have mv := loopTo_moves x n .faulted 0x1A byHw
  have en := enter_fields (x.lp n) .faulted 0x1A
  generalize x.loopTo n .faulted 0x1A = y at *
  have a : ∀ m, (((y.phasesOf n (·.st == .crowbar)).foldl (fun d k => match fc k with
    | some lv => (d.phaseTo k .forced 0x1B).updPh k fun p => { p with pulse := lv }
    | none => d.phaseTo k .off 0x1B) y).lp m).apart = (y.lp m).apart := fun m => fold_apart _ _ _ _ (fun e k => by
      cases fc k with
      | none => exact phaseTo_apart _ _ _ _ _ _
      | some lv => exact phaseTo_apart e k .forced 0x1B byHw m)
  have f := apart_fields (a n)
  exact ⟨lmoves_of mv xs.1 (fun m hm => by rw [xo m hm]) ⟨f.1, f.2.1, f.2.2.1⟩ (fun m hm => a m), f.2.2.2.2.2.1.trans (by rw [h.1, en.2.2.2.2.2.1]; exact xs.2.1),
    (congrArg (·.sense.ov) (a n)).trans (by show (y.lp n).sense.ov = false; rw [h.1, en.2.2.2.2.2.2.2.2.1]; exact xs.2.2)⟩

theorem releaseGroup_alone (d : Device) (n : Fin 16) (h : (d.lp n).st = .crowbar) (hg : d.lendGrp n = 0) : d.releaseGroup n = [n] := by
  unfold Device.releaseGroup
  dsimp only
  rw [hg]
  have e : ∀ m ∈ List.finRange 16, ((d.lp m).st == .crowbar && (m == n || ((0 : Nat) != 0 && d.lendGrp m == 0))) = (m == n) := by
    intro m _
    by_cases hm : m = n
    · subst hm; rw [h]; simp
    · simp [hm]
  rw [List.filter_congr e]
  clear e h hg
  revert n
  decide

theorem flag_bits4 (a b c e : Bool) : let w := flag 17 a ||| flag 18 b ||| flag 19 c ||| flag 20 e
    (∀ i, i < 17 ∨ 20 < i → bit w i = false) ∧ bit w 17 = a ∧ bit w 18 = b ∧ bit w 19 = c ∧ bit w 20 = e := by
  have h : ∀ i, bit (flag 17 a ||| flag 18 b ||| flag 19 c ||| flag 20 e) i =
    ((a && decide (i = 17)) || (b && decide (i = 18)) || (c && decide (i = 19)) || (e && decide (i = 20))) := fun i => by
    rw [bit_or, bit_or, bit_or, flag_bit _ _ _ (by decide), flag_bit _ _ _ (by decide), flag_bit _ _ _ (by decide), flag_bit _ _ _ (by decide)]
  dsimp only
  refine ⟨fun i hi => ?_, ?_, ?_, ?_, ?_⟩ <;> rw [h]
  · have : ∀ j, 17 ≤ j → j ≤ 20 → decide (i = j) = false := fun j a b => by simp; omega
    rw [this 17 (by decide) (by decide), this 18 (by decide) (by decide), this 19 (by decide) (by decide), this 20 (by decide) (by decide)]; simp
  all_goals simp

theorem otActive_of {d e : Device} (h1 : e.regs = d.regs) (h2 : e.phase = d.phase) (h3 : e.thm = d.thm) (n : Fin 16) : e.otActive n = d.otActive n := by
  unfold Device.otActive Device.hottest Device.hottestOf Device.otLimit Device.phasesOf Device.ch
  simp only [lreg_of h1, ph_of h2, h3]

theorem extActive_of {d e : Device} (h1 : e.regs = d.regs) (h2 : e.flt = d.flt) (n : Fin 16) : e.extActive n = d.extActive n := by
  unfold Device.extActive Device.railForced Device.heldClasses Device.reactionHeld Device.namesRail Device.groupWord Device.rx
  simp only [reg_of_same h1, h2]

/-- OFF left for PREBIAS while the OV comparator is low, and while it is high (R324). -/
theorem loopStart_low (d : Device) (n : Fin 16) (cause : Nat) (h : (d.lp n).sense.ov = false) : d.loopStart n cause = d.loopTo n .prebias cause := by
  unfold Device.loopStart
  dsimp only
  rw [(loopTo_lp d n .prebias cause byHw).1, (enter_fields (d.lp n) .prebias cause).2.2.2.2.2.2.2.2.1, h, if_neg (by decide)]

theorem loopStart_high (d : Device) (n : Fin 16) (cause : Nat) (h : (d.lp n).sense.ov = true) : let e := d.loopStart n cause
    (e.lp n).st = .crowbar ∧ bit (e.lp n).flt 0 = true ∧
      ∀ k, (d.ph k).own = some n → (d.ph k).st ≠ .unpop → (d.ph k).st ≠ .failed → (e.ph k).st = .crowbar := by
  have l := loopTo_lp d n .prebias cause byHw
  have f := enter_fields (d.lp n) .prebias cause
  dsimp only
  unfold Device.loopStart
  dsimp only
  generalize d.loopTo n .prebias cause = x at *
  rw [l.1, f.2.2.2.2.2.2.2.2.1, h, if_pos rfl]
  have c := crowbar_lp x n (by rw [l.1, f.1]; rfl)
  dsimp only at c
  exact ⟨c.1, c.2.1, fun k h1 h2 h3 => c.2.2.2 k (by rw [ph_of l.2.2.1]; exact h1) (by rw [ph_of l.2.2.1]; exact h2) (by rw [ph_of l.2.2.1]; exact h3)⟩

/-- What an enable, or the end of the faults, leaves of loop n while its OV comparator is low: no crowbar, and the other loops alone. -/
def LoopQuiet (d e : Device) (n : Fin 16) : Prop :=
  (e.lp n).flt = (d.lp n).flt ∧ (e.lp n).first = (d.lp n).first ∧ ((e.lp n).st = (d.lp n).st ∨ (e.lp n).st ≠ .crowbar) ∧ (∀ m, m ≠ n → e.lp m = d.lp m) ∧
    (e.lp n).sense = (d.lp n).sense

theorem LoopQuiet.trans {d e f : Device} {n : Fin 16} (h : LoopQuiet d e n) (g : LoopQuiet e f n) : LoopQuiet d f n :=
  ⟨g.1.trans h.1, g.2.1.trans h.2.1, g.2.2.1.elim (fun x => h.2.2.1.elim (fun y => Or.inl (x.trans y)) fun y => Or.inr (by rw [x]; exact y)) Or.inr,
    fun m hm => (g.2.2.2.1 m hm).trans (h.2.2.2.1 m hm), g.2.2.2.2.trans h.2.2.2.2⟩

theorem LoopQuiet.upd (d : Device) (n : Fin 16) (f : Loop → Loop) (h : ∀ l, (f l).flt = l.flt ∧ (f l).first = l.first ∧ (f l).st = l.st ∧ (f l).sense = l.sense) : LoopQuiet d (d.updLp n f) n := by
  have k := h (d.lp n)
  exact ⟨by rw [updLp_at]; exact k.1, by rw [updLp_at]; exact k.2.1, Or.inl (by rw [updLp_at]; exact k.2.2.1), fun m hm => updLp_beside _ _ _ hm,
    by rw [updLp_at]; exact k.2.2.2⟩

theorem loopTo_quiet (d : Device) (n : Fin 16) (st : LoopState) (cause : Nat) (h : st ≠ .crowbar) : LoopQuiet d (d.loopTo n st cause) n := by
  have l := loopTo_lp d n st cause byHw
  have f := enter_fields (d.lp n) st cause
  exact ⟨by rw [l.1]; exact f.2.2.2.2.2.1, by rw [l.1]; exact f.2.2.2.2.2.2.1, Or.inr (by rw [l.1, f.1]; exact h), l.2.1,
    by rw [l.1]; exact f.2.2.2.2.2.2.2.2.1⟩

theorem loopEnable_en (d : Device) (n : Fin 16) (h : d.loopPermitted n = true) : ((d.loopEnable n).lp n).en = true := by
  unfold Device.loopEnable
  rw [if_pos h]
  dsimp only
  have b : ((d.updLp n fun l => { l with en := true }).lp n).en = true := by rw [updLp_at]
  generalize d.updLp n (fun l => { l with en := true }) = x at *
  have up : ∀ y : Device, y = x.updLp n (fun l => { l with enLatched := true }) → (y.lp n).en = true := by intro y hy; rw [hy, updLp_at]; exact b
  have l := (loopTo_lp x n .prebias 0x10 byHw).1
  have f := enter_fields (x.lp n) .prebias 0x10
  cases (x.lp n).st with
  | off =>
    dsimp only
    unfold Device.loopStart
    dsimp only
    split
    · rw [crowbar_en, l]; exact f.2.2.2.1.trans b
    · rw [l]; exact f.2.2.2.1.trans b
  | rampdown => exact up _ rfl
  | draining => exact up _ rfl
  | prebias => exact b
  | ramp => exact b
  | run => exact b
  | faulted => exact b
  | crowbar => exact b

/-- An enable of a loop that is not OFF moves no loop. -/
theorem loopEnable_notOff (d : Device) (n : Fin 16) (ho : (d.lp n).st ≠ .off) :
    ((d.loopEnable n).lp n).st = (d.lp n).st ∧ ∀ m, m ≠ n → ((d.loopEnable n).lp m).st = (d.lp m).st := by
  unfold Device.loopEnable
  by_cases h : d.loopPermitted n = true
  · rw [if_pos h]
    dsimp only
    have hs : ((d.updLp n fun l => { l with en := true }).lp n).st = (d.lp n).st := by rw [updLp_at]
    have hm : ∀ m, m ≠ n → ((d.updLp n fun l => { l with en := true }).lp m).st = (d.lp m).st := fun m h => by rw [updLp_beside _ _ _ h]
    generalize d.updLp n (fun l => { l with en := true }) = x at *
    have up : ((x.updLp n fun l => { l with enLatched := true }).lp n).st = (d.lp n).st ∧ ∀ m, m ≠ n → ((x.updLp n fun l => { l with enLatched := true }).lp m).st = (d.lp m).st :=
      ⟨by rw [updLp_at]; exact hs, fun m h => by rw [updLp_beside _ _ _ h]; exact hm m h⟩
    cases hx : (x.lp n).st with
    | off => exact absurd (hs.symm.trans hx) ho
    | rampdown => exact ⟨up.1.trans (hs.symm.trans hx ▸ rfl), up.2⟩
    | draining => exact ⟨up.1.trans (hs.symm.trans hx ▸ rfl), up.2⟩
    | _ => exact ⟨by dsimp only; first | exact hs | (rw [← hx]; exact hs), hm⟩
  · rw [if_neg h]
    exact ⟨rfl, fun _ _ => rfl⟩

theorem loopEnable_lp (d : Device) (n : Fin 16) (ho : (d.lp n).sense.ov = false) : LoopQuiet d (d.loopEnable n) n := by
  have same : LoopQuiet d d n := ⟨rfl, rfl, Or.inl rfl, fun _ _ => rfl, rfl⟩
  unfold Device.loopEnable
  by_cases h : d.loopPermitted n = true
  · rw [if_pos h]
    dsimp only
    have b := LoopQuiet.upd d n (fun l => { l with en := true }) fun _ => ⟨rfl, rfl, rfl, rfl⟩
    have hs : ((d.updLp n fun l => { l with en := true }).lp n).sense = (d.lp n).sense := by rw [updLp_at]
    generalize d.updLp n (fun l => { l with en := true }) = x at *
    have up := b.trans (LoopQuiet.upd x n (fun l => { l with enLatched := true }) fun _ => ⟨rfl, rfl, rfl, rfl⟩)
    cases (x.lp n).st with
    | off =>
      dsimp only
      rw [loopStart_low x n 0x10 (by rw [hs]; exact ho)]
      exact b.trans (loopTo_quiet x n .prebias 0x10 (by decide))
    | rampdown => exact up
    | draining => exact up
    | prebias => exact b
    | ramp => exact b
    | run => exact b
    | faulted => exact b
    | crowbar => exact b
  · rw [if_neg h]; exact same

theorem faultCleared_lp (d : Device) (n : Fin 16) : let e := d.loopFaultCleared n
    ((d.lp n).sense.ov = false ∨ (d.lp n).en = false → LoopQuiet d e n) ∧
    ((d.lp n).st = .faulted → bits (d.lp n).flt 8 0 = 0 → d.anyDraining n = false → (d.lp n).en = false → LoopMoves d e n .off 0x1C) ∧
    ((d.lp n).st ≠ .faulted ∨ bits (d.lp n).flt 8 0 ≠ 0 ∨ d.anyDraining n = true → e = d) := by
  dsimp only
  unfold Device.loopFaultCleared
  by_cases hc : ((d.lp n).st == .faulted && bits (d.lp n).flt 8 0 == 0 && !d.anyDraining n) = true
  · rw [if_pos hc]
    dsimp only
    have l := loopTo_lp d n .off 0x1C byHw
    have f := enter_fields (d.lp n) .off 0x1C
    have q := loopTo_quiet d n .off 0x1C (by decide)
    have le := loopEnable_lp (d.loopTo n .off 0x1C) n
    have mv := loopTo_moves d n .off 0x1C byHw
    generalize d.loopTo n .off 0x1C = x at *
    rw [l.1, f.2.2.2.2.2.2.2.2.1] at le
    rw [l.1, f.2.2.2.1]
    simp at hc
    refine ⟨fun h => ?_, fun _ _ _ h => by rw [h, if_neg (by decide)]; exact mv, fun h => ?_⟩
    · cases he : (d.lp n).en
      · rw [if_neg (by decide)]; exact q
      · rw [if_pos rfl]; exact q.trans (le (h.resolve_right (by rw [he]; decide)))
    · rcases h with h | h | h
      · exact absurd hc.1.1 h
      · exact absurd hc.1.2 h
      · rw [hc.2] at h; cases h
  · rw [if_neg hc]
    exact ⟨fun _ => ⟨rfl, rfl, Or.inl rfl, fun _ _ => rfl, rfl⟩, fun h1 h2 h3 => absurd (by simp [h1, h2, h3]) hc, fun _ => rfl⟩

/-- The sequencer hears of no loop where none has entered CROWBAR, and of the same loops from states that agree in the loops' states (R324, R366). -/
theorem crowbarsHeard_none (d b : Device) (h : ∀ m, (b.lp m).st = .crowbar ∨ (d.lp m).st ≠ .crowbar) : d.crowbarsHeard b = d := by
  unfold Device.crowbarsHeard
  refine foldFin_inv (fun e => e = d) _ _ rfl fun e m he => ?_
  rw [he, if_neg]
  intro hc
  simp at hc
  rcases h m with h | h
  · exact hc.1 h
  · exact h hc.2

theorem crowbarsHeard_of (d b c : Device) (h : ∀ m, (b.lp m).st = (c.lp m).st) : d.crowbarsHeard b = d.crowbarsHeard c := by
  unfold Device.crowbarsHeard; simp only [h]

/-- A detector whose condition holds names a bit below 8, in a state in which the loop can fault (R321). -/
theorem loopDetected_some (d : Device) (n : Fin 16) (det : LoopDetect) (x : Nat × Nat) (h : d.loopDetected n det = some x) : x.1 < 8 ∧ (d.lp n).st.faultable = true := by
  have hit : ∀ (c : Bool) (b k : Nat), b < 8 → (c = true → (d.lp n).st.faultable = true) → (if c then some (b, k) else none) = some x → x.1 < 8 ∧ (d.lp n).st.faultable = true := by
    intro c b k hb hc he
    cases c
    · cases he
    · rw [if_pos rfl] at he; injection he with he; subst he; exact ⟨hb, hc rfl⟩
  have st : ∀ s : LoopState, ((d.lp n).st == s) = true → s.faultable = true → (d.lp n).st.faultable = true := fun s e f => by rw [beq_iff_eq.1 e]; exact f
  unfold Device.loopDetected at h
  dsimp only at h
  cases det with
  | uv c => exact hit _ 1 _ (by decide) (fun e => by simp at e; rw [e.1]; rfl) h
  | oc c => exact hit _ 2 _ (by decide) (fun e => by simp at e; rcases e.1 with e | e <;> rw [e] <;> rfl) h
  | ssShort => exact hit _ 3 _ (by decide) (fun e => by unfold Device.ssShorted at e; simp at e; rw [e.1]; rfl) h
  | ssTmo => exact hit _ 4 _ (by decide) (fun e => st _ e rfl) h
  | pbTmo => exact hit _ 5 _ (by decide) (fun e => by simp at e; rw [e.1.1]; rfl) h
  | ot => exact hit _ 7 _ (by decide) (fun e => by simp at e; exact e.1) h

/-- Counting changes the running counts and the latest samples of its loop alone. -/
theorem loopCounts_lp (l : List LoopDetect) (d : Device) (n : Fin 16) : let c := l.foldl (fun d x => d.loopCount n x) d
    (c.lp n).st = (d.lp n).st ∧ (c.lp n).flt = (d.lp n).flt ∧ (∀ m, m ≠ n → c.lp m = d.lp m) ∧ c.phase = d.phase ∧ c.regs = d.regs := by
  refine foldl_inv (fun c => (c.lp n).st = (d.lp n).st ∧ (c.lp n).flt = (d.lp n).flt ∧ (∀ m, m ≠ n → c.lp m = d.lp m) ∧ c.phase = d.phase ∧ c.regs = d.regs) _ _ _
    ⟨rfl, rfl, fun _ _ => rfl, rfl, rfl⟩ fun e x h => ?_
  have up : ∀ f : Loop → Loop, (∀ l, (f l).st = l.st ∧ (f l).flt = l.flt) → ((e.updLp n f).lp n).st = (d.lp n).st ∧ ((e.updLp n f).lp n).flt = (d.lp n).flt ∧
      (∀ m, m ≠ n → (e.updLp n f).lp m = d.lp m) ∧ (e.updLp n f).phase = d.phase ∧ (e.updLp n f).regs = d.regs := fun f hf =>
    ⟨by rw [updLp_at, (hf _).1]; exact h.1, by rw [updLp_at, (hf _).2]; exact h.2.1, fun m hm => by rw [updLp_beside _ _ _ hm]; exact h.2.2.1 m hm, h.2.2.2⟩
  cases x <;> first | exact up _ (fun _ => ⟨rfl, rfl⟩) | exact h

/-- What detectors of one LOOP cycle do: the loop faults by the lowest bit whose condition holds, the others with it, or only the counts move (R350). -/
theorem loopDetect_eq (d : Device) (n : Fin 16) (dets : List LoopDetect) : LoopDetects d (d.loopDetect n dets) n dets := by
  unfold LoopDetects Device.loopDetect
  dsimp only
  generalize hc : dets.foldl (fun d x => d.loopCount n x) d = c
  generalize hh : dets.filterMap (c.loopDetected n) = hits
  generalize hl : ((List.range 9).filter fun b => hits.any fun x => x.1 == b) = l
  cases l with
  | nil => exact ⟨fun _ => rfl, fun b r h => (nomatch h)⟩
  | cons b r =>
    refine ⟨fun h => (nomatch h), fun b' r' h => ?_⟩
    injection h with h1 h2
    subst h1 h2
    dsimp only
    have hb : b ∈ (List.range 9).filter fun b => hits.any fun x => x.1 == b := by rw [hl]; exact List.mem_cons_self
    rw [List.mem_filter] at hb
    obtain ⟨x, hx, hxb⟩ := List.any_eq_true.1 hb.2
    cases hf : hits.find? fun x => x.1 == b with
    | none => rw [List.find?_eq_none] at hf; exact absurd hxb (hf x hx)
    | some y =>
      have hy := List.mem_of_find?_eq_some hf
      have hyb : y.1 = b := by have := List.find?_some hf; simpa using this
      rw [← hh, List.mem_filterMap] at hy
      obtain ⟨det, _, hd⟩ := hy
      have s := loopDetected_some c n det y hd
      obtain ⟨e, h1, h2⟩ := loopFault_eq c n b y.2 r s.2 (by rw [← hyb]; exact s.1)
      exact ⟨e, y.2, h1, by rw [← hyb]; exact List.mem_of_find?_eq_some hf, h2⟩

end Sys2Proof.Machine
end

