-- ==== Sys2Proof/Laws/Sequencer.lean ====
section
/-! SUPPORT. Sequencer: what one move of an entry, a stop, a cut, a failure, a single-rail request and a reset line do. -/

namespace Sys2Proof.Machine
open Sys2Proof

theorem en_of {d e : Device} (h : e.entry = d.entry) (i : Fin 128) : e.en i = d.en i := by unfold Device.en; rw [h]

theorem updEn_at (d : Device) (i : Fin 128) (f : Entry → Entry) : (d.updEn i f).en i = f (d.en i) := upd_same _ _ _

theorem updEn_beside (d : Device) (i : Fin 128) (f : Entry → Entry) {j : Fin 128} (h : j ≠ i) : (d.updEn i f).en j = d.en j := upd_other _ _ h

theorem seqLinesSync_keeps (d : Device) : d.seqLinesSync.entry = d.entry ∧ d.seqLinesSync.seq = d.seq ∧ d.seqLinesSync.loop = d.loop ∧ d.seqLinesSync.regs = d.regs ∧ d.seqLinesSync.hup = d.hup :=
  ⟨keeps_entry (by simp), keeps_seq (by simp), keeps_loop (by simp), keeps_regs (by simp), keeps_hup (by simp)⟩

/-- What entry to st leaves in entry i. -/
theorem enTo_en (d : Device) (i : Fin 128) (st : EntryState) (cause : Nat) :
    (d.enTo i st cause).en i = { d.en i with prev := (d.en i).st, st := st, cause := cause, inRail := (d.en i).inRail && (st != .faulted || (d.en i).enlatch) } ∧
    (∀ j, j ≠ i → (d.enTo i st cause).en j = d.en j) ∧ (d.enTo i st cause).seq = d.seq ∧ (d.enTo i st cause).loop = d.loop ∧
    (d.enTo i st cause).regs = d.regs ∧ (d.enTo i st cause).hup = d.hup := by
  unfold Device.enTo
  dsimp only
  generalize hx : d.updEn i (fun e => { e with prev := e.st, st := st, cause := cause, inRail := e.inRail && (st != .faulted || e.enlatch) }) = x
  have x1 : x.en i = { d.en i with prev := (d.en i).st, st := st, cause := cause, inRail := (d.en i).inRail && (st != .faulted || (d.en i).enlatch) } := by rw [← hx, updEn_at]
  have x2 : ∀ j, j ≠ i → x.en j = d.en j := fun j hj => by rw [← hx, updEn_beside _ _ _ hj]
  have x3 : x.seq = d.seq ∧ x.loop = d.loop ∧ x.regs = d.regs ∧ x.hup = d.hup := by rw [← hx]; exact ⟨rfl, rfl, rfl, rfl⟩
  split
  · exact ⟨x1, x2, x3.1, x3.2.1, x3.2.2.1, x3.2.2.2⟩
  · have k := seqLinesSync_keeps x
    exact ⟨(en_of k.1 i).trans x1, fun j hj => (en_of k.1 j).trans (x2 j hj), k.2.1.trans x3.1, k.2.2.1.trans x3.2.1, k.2.2.2.1.trans x3.2.2.1, k.2.2.2.2.trans x3.2.2.2⟩

theorem enTo_moves (d : Device) (i : Fin 128) (st : EntryState) (cause : Nat) : EntryMoves d (d.enTo i st cause) i st cause := by
  have h := enTo_en d i st cause
  exact ⟨by rw [h.1], by rw [h.1], by rw [h.1], h.2.1⟩

theorem hardStop_keeps (d : Device) (n : Fin 16) : (d.loopHardStop n).entry = d.entry ∧ (d.loopHardStop n).seq = d.seq := ⟨keeps_entry (by simp), keeps_seq (by simp)⟩

theorem softStop_keeps (d : Device) (n : Fin 16) : (d.loopSoftStop n).entry = d.entry ∧ (d.loopSoftStop n).seq = d.seq := ⟨keeps_entry (by simp), keeps_seq (by simp)⟩

theorem stopRail_en (d : Device) (i : Fin 128) (hard fail : Bool) (cause reading : Nat) : let e := d.stopRail i hard fail cause reading
    EntryMoves d e i .stopping cause ∧ (e.en i).stopFail = fail ∧ (e.en i).failCause = (d.en i).failCause ∧ (e.en i).heldOff = (d.en i).heldOff ∧ e.seq = d.seq := by
  dsimp only
  unfold Device.stopRail
  dsimp only
  have h := enTo_en d i .stopping cause
  generalize d.enTo i .stopping cause = x at h
  generalize hy : x.updEn i (fun e => { e with stopFail := fail, vStop := reading }) = y
  have y1 : y.en i = { x.en i with stopFail := fail, vStop := reading } := by rw [← hy, updEn_at]
  have y2 : ∀ j, j ≠ i → y.en j = d.en j := fun j hj => by rw [← hy, updEn_beside _ _ _ hj, h.2.1 j hj]
  have y3 : y.seq = d.seq := by rw [← hy]; exact h.2.2.1
  clear hy
  have fin : ∀ z : Device, z.entry = y.entry → z.seq = y.seq → EntryMoves d z i .stopping cause ∧ (z.en i).stopFail = fail ∧ (z.en i).failCause = (d.en i).failCause ∧
      (z.en i).heldOff = (d.en i).heldOff ∧ z.seq = d.seq := by
    intro z h1 h2
    have e := (en_of h1 i).trans y1
    refine ⟨⟨?_, ?_, ?_, fun j hj => (en_of h1 j).trans (y2 j hj)⟩, ?_, ?_, ?_, h2.trans y3⟩ <;> rw [e] <;> first | rfl | rw [h.1]
  cases loopOf i with
  | none => exact fin _ rfl rfl
  | some n =>
    dsimp only
    cases hard
    · rw [if_neg (by decide)]; exact fin _ (softStop_keeps y n).1 (softStop_keeps y n).2
    · rw [if_pos rfl]; exact fin _ (hardStop_keeps y n).1 (hardStop_keeps y n).2

theorem cutOne_en (d : Device) (j : Fin 128) (c : Nat) (fail : Bool) : (∀ i, i ≠ j → (d.cutOne j c fail).en i = d.en i) ∧ (d.cutOne j c fail).seq = d.seq ∧
    ((d.cutOne j c fail).en j).failCause = c ∧ ((d.cutOne j c fail).en j).heldOff = (d.en j).heldOff ∧
    (isRail j = true → (d.en j).st.up = true → ((d.cutOne j c fail).en j).st = .stopping) := by
  unfold Device.cutOne
  dsimp only
  generalize hx : d.updEn j _ = x
  have x1 : (x.en j).failCause = c ∧ (x.en j).heldOff = (d.en j).heldOff ∧ (x.en j).st = (d.en j).st := by rw [← hx, updEn_at]; exact ⟨rfl, rfl, rfl⟩
  have x2 : ∀ i, i ≠ j → x.en i = d.en i := fun i hi => by rw [← hx, updEn_beside _ _ _ hi]
  have x3 : x.seq = d.seq := by rw [← hx]; rfl
  clear hx
  rw [← x1.2.2]
  have stop : ∀ f cause r, (∀ i, i ≠ j → (x.stopRail j f fail cause r).en i = d.en i) ∧ (x.stopRail j f fail cause r).seq = d.seq ∧
      ((x.stopRail j f fail cause r).en j).failCause = c ∧ ((x.stopRail j f fail cause r).en j).heldOff = (d.en j).heldOff ∧ ((x.stopRail j f fail cause r).en j).st = .stopping := by
    intro f cause r
    have h := stopRail_en x j f fail cause r
    dsimp only at h
    exact ⟨fun i hi => (h.1.2.2.2 i hi).trans (x2 i hi), h.2.2.2.2.trans x3, h.2.2.1.trans x1.1, h.2.2.2.1.trans x1.2.1, h.1.1⟩
  have toSt : ∀ st cause, (∀ i, i ≠ j → (x.enTo j st cause).en i = d.en i) ∧ (x.enTo j st cause).seq = d.seq ∧
      ((x.enTo j st cause).en j).failCause = c ∧ ((x.enTo j st cause).en j).heldOff = (d.en j).heldOff := by
    intro st cause
    have h := enTo_en x j st cause
    exact ⟨fun i hi => (h.2.1 i hi).trans (x2 i hi), h.2.2.1.trans x3, by rw [h.1]; exact x1.1, by rw [h.1]; exact x1.2.1⟩
  have stay : ∀ y : Device, y.entry = x.entry → y.seq = x.seq → (∀ i, i ≠ j → y.en i = d.en i) ∧ y.seq = d.seq ∧ (y.en j).failCause = c ∧ (y.en j).heldOff = (d.en j).heldOff := by
    intro y h1 h2
    exact ⟨fun i hi => (en_of h1 i).trans (x2 i hi), h2.trans x3, by rw [en_of h1]; exact x1.1, by rw [en_of h1]; exact x1.2.1⟩
  have both : ∀ r, (∀ i, i ≠ j → (if isRail j then x.stopRail j true fail 0x16 r else x.enTo j .off 0x16).en i = d.en i) ∧
      (if isRail j then x.stopRail j true fail 0x16 r else x.enTo j .off 0x16).seq = d.seq ∧
      ((if isRail j then x.stopRail j true fail 0x16 r else x.enTo j .off 0x16).en j).failCause = c ∧
      ((if isRail j then x.stopRail j true fail 0x16 r else x.enTo j .off 0x16).en j).heldOff = (d.en j).heldOff ∧
      (isRail j = true → ((if isRail j then x.stopRail j true fail 0x16 r else x.enTo j .off 0x16).en j).st = .stopping) := by
    intro r
    cases hr : isRail j
    · rw [if_neg (by decide)]
      have h := toSt .off 0x16
      exact ⟨h.1, h.2.1, h.2.2.1, h.2.2.2, fun h => (nomatch h)⟩
    · rw [if_pos rfl]
      have h := stop true 0x16 r
      exact ⟨h.1, h.2.1, h.2.2.1, h.2.2.2.1, fun _ => h.2.2.2.2⟩
  cases hs : (x.en j).st with
  | starting => exact ⟨(both _).1, (both _).2.1, (both _).2.2.1, (both _).2.2.2.1, fun h _ => (both _).2.2.2.2 h⟩
  | on => exact ⟨(both _).1, (both _).2.1, (both _).2.2.1, (both _).2.2.2.1, fun h _ => (both _).2.2.2.2 h⟩
  | pending =>
    have h := toSt (if isRail j && fail then .faulted else .off) 0x16
    exact ⟨h.1, h.2.1, h.2.2.1, h.2.2.2, fun _ h => (nomatch h)⟩
  | stopping =>
    dsimp only
    cases loopOf j with
    | none => have h := stay x rfl rfl; exact ⟨h.1, h.2.1, h.2.2.1, h.2.2.2, fun _ h => (nomatch h)⟩
    | some n =>
      have h := stay _ (hardStop_keeps x n).1 (hardStop_keeps x n).2
      exact ⟨h.1, h.2.1, h.2.2.1, h.2.2.2, fun _ h => (nomatch h)⟩
  | off => have h := stay x rfl rfl; exact ⟨h.1, h.2.1, h.2.2.1, h.2.2.2, fun _ h => (nomatch h)⟩
  | stuck => have h := stay x rfl rfl; exact ⟨h.1, h.2.1, h.2.2.1, h.2.2.2, fun _ h => (nomatch h)⟩
  | faulted => have h := stay x rfl rfl; exact ⟨h.1, h.2.1, h.2.2.1, h.2.2.2, fun _ h => (nomatch h)⟩

theorem cutMembers_other (d : Device) (i j : Fin 128) (h : j ∈ d.cutMembers i) : j ≠ i := by
  unfold Device.cutMembers at h
  dsimp only at h
  rw [List.mem_filter] at h
  simpa using h.2

theorem cuts_en (l : List (Fin 128)) (c : Nat) (fail : Bool) (i : Fin 128) (h : ∀ j ∈ l, j ≠ i) (d : Device) :
    (l.foldl (fun d j => d.cutOne j c fail) d).en i = d.en i ∧ (l.foldl (fun d j => d.cutOne j c fail) d).seq = d.seq := by
  induction l generalizing d with
  | nil => exact ⟨rfl, rfl⟩
  | cons a l ih =>
    have x := ih (fun j hj => h j (List.mem_cons_of_mem _ hj)) (d.cutOne a c fail)
    have k := cutOne_en d a c fail
    rw [List.foldl_cons]
    exact ⟨x.1.trans (k.1 i (fun e => h a (List.mem_cons_self ..) e.symm)), x.2.trans k.2.1⟩

theorem shot_of {d e : Device} (h : e.regs = d.regs) (i : Fin 128) (o : Nat) : e.shot i o = d.shot i o := reg_of_same h _

theorem present_of {d e : Device} (h : e.regs = d.regs) (i : Fin 128) : e.present i = d.present i := by unfold Device.present; rw [shot_of h]

theorem stepOf_of {d e : Device} (h : e.regs = d.regs) (i : Fin 128) : e.stepOf i = d.stepOf i := by unfold Device.stepOf; rw [shot_of h]

theorem inScene_of {d e : Device} (h : e.regs = d.regs) (i : Fin 128) (x : Nat) : e.inScene i x = d.inScene i x := by
  unfold Device.inScene; rw [present_of h, shot_of h]

theorem deps_of {d e : Device} (h : e.regs = d.regs) (i : Fin 128) : e.deps i = d.deps i := by unfold Device.deps; rw [shot_of h]

theorem listOk_of {d e : Device} (h : e.regs = d.regs) (x : Nat) : e.listOk x = d.listOk x := by
  unfold Device.listOk
  congr 1
  funext i
  unfold Device.thresholdsOk Device.divOk
  dsimp only
  rw [inScene_of h, deps_of h, shot_of h, shot_of h, shot_of h, shot_of h, stepOf_of h]
  congr 2
  congr 1
  funext j
  rw [present_of h, stepOf_of h, inScene_of h]

theorem em_trans {a b c : Device} {i st cause} (h : EntryMoves a b i st cause) (hc : c.entry = b.entry) : EntryMoves a c i st cause := by
  obtain ⟨h1, h2, h3, h4⟩ := h
  exact ⟨by rw [en_of hc]; exact h1, by rw [en_of hc]; exact h2, by rw [en_of hc]; exact h3, fun j hj => by rw [en_of hc]; exact h4 j hj⟩

theorem em_upd {a b : Device} {i st cause} (h : EntryMoves a b i st cause) (f : Entry → Entry) (hf : ∀ e, (f e).st = e.st ∧ (f e).prev = e.prev ∧ (f e).cause = e.cause) :
    EntryMoves a (b.updEn i f) i st cause := by
  obtain ⟨h1, h2, h3, h4⟩ := h
  exact ⟨by rw [updEn_at, (hf _).1]; exact h1, by rw [updEn_at, (hf _).2.1]; exact h2, by rw [updEn_at, (hf _).2.2]; exact h3, fun j hj => by rw [updEn_beside _ _ _ hj]; exact h4 j hj⟩

theorem em_pre {a b c : Device} {i st cause} (h : EntryMoves b c i st cause) (h1 : (b.en i).st = (a.en i).st) (h2 : ∀ j, j ≠ i → b.en j = a.en j) : EntryMoves a c i st cause :=
  ⟨h.1, h.2.1.trans h1, h.2.2.1, fun j hj => (h.2.2.2 j hj).trans (h2 j hj)⟩

theorem loopEnable_keeps (d : Device) (n : Fin 16) : (d.loopEnable n).entry = d.entry := keeps_entry (by simp)

theorem enTo_rail (d : Device) (i : Fin 128) (st : EntryState) (cause : Nat) (h : isRail i = true) : ∃ f, d.enTo i st cause = d.updEn i f := by
  unfold Device.enTo; dsimp only; rw [if_pos h]; exact ⟨_, rfl⟩

theorem loopOf_rail {i : Fin 128} {n} (h : loopOf i = some n) : isRail i = true ∧ isExt i = false := by
  unfold loopOf at h
  split at h
  · rename_i hi
    exact ⟨decide_eq_true (by omega), by unfold isExt; rw [decide_eq_false (by omega)]; rfl⟩
  · cases h

theorem holdCheck_same (d : Device) (h : (d.seq.st = .take ∧ d.holdNeeded = false) ∨ (d.seq.st = .rail ∧ d.seq.railOn = true)) : d.holdCheck = d := by
  unfold Device.holdCheck
  rcases h with ⟨h, h'⟩ | ⟨h, _⟩
  · rw [h, h']; rfl
  · rw [h]

/-- An entry that starts (R364), and what the sequencer then hears of its loop (R324, R366). -/
theorem entryStart_moves (d : Device) (i : Fin 128) (vmon : Nat) (h : (d.seq.st = .take ∧ d.holdNeeded = false) ∨ (d.seq.st = .rail ∧ d.seq.railOn = true))
    (hp : (d.en i).st = .pending) (hs : d.stepOf i ≤ d.seq.step) (hd : ∀ j, j ∈ d.deps i → (d.en j).st = .on) :
    ∃ e : Device, d.entryStart i vmon = e.crowbarsHeard d ∧ EntryMoves d e i .starting 0x11 ∧ (∀ n, loopOf i = some n → d.loopPermitted n = true → (e.lp n).en = true) ∧
      (isExt i = true → (e.en i).prebias = vmon) ∧
      ((∀ n, loopOf i = some n → (d.lp n).sense.ov = false ∨ (d.lp n).st ≠ .off) → d.entryStart i vmon = e) := by
  unfold Device.entryStart
  dsimp only
  rw [holdCheck_same d h, if_pos]
  · have m := enTo_moves d i .starting 0x11
    have el : (d.enTo i .starting 0x11).loop = d.loop := keeps_loop (by simp)
    have hb : ∀ m, ((d.enTo i .starting 0x11).lp m).st = (d.lp m).st := fun m => by rw [loop_of el]
    cases hl : loopOf i with
    | some n =>
      have r := loopOf_rail hl
      dsimp only
      rw [if_neg (by rw [r.2]; decide)]
      refine ⟨_, crowbarsHeard_of _ _ _ hb, em_trans m (loopEnable_keeps _ n), fun n' hn hq => ?_, fun h => (by rw [r.2] at h; cases h), fun hov => ?_⟩
      · have : n = n' := Option.some.inj hn
        subst this
        obtain ⟨f, hf⟩ := enTo_rail d i .starting 0x11 r.1
        rw [hf]
        exact loopEnable_en _ n hq
      · refine crowbarsHeard_none _ _ fun m => ?_
        rw [hb]
        have st : ∀ x : Device, x.loop = d.loop → ∀ m, (d.lp m).st = .crowbar ∨ ((x.loopEnable n).lp m).st ≠ .crowbar := by
          intro x hx m
          have hn : ((x.loopEnable n).lp n).st = (x.lp n).st ∨ ((x.loopEnable n).lp n).st ≠ .crowbar := by
            rcases hov n rfl with ho | ho
            · exact (loopEnable_lp x n (by rw [loop_of hx]; exact ho)).2.2.1
            · exact Or.inl (loopEnable_notOff x n (by rw [loop_of hx]; exact ho)).1
          have hm : ∀ m, m ≠ n → ((x.loopEnable n).lp m).st = (x.lp m).st := fun m hm => by
            rcases hov n rfl with ho | ho
            · rw [(loopEnable_lp x n (by rw [loop_of hx]; exact ho)).2.2.2.1 m hm]
            · exact (loopEnable_notOff x n (by rw [loop_of hx]; exact ho)).2 m hm
          by_cases hc : (d.lp m).st = .crowbar
          · exact Or.inl hc
          · refine Or.inr ?_
            by_cases e : m = n
            · subst e
              exact hn.elim (fun h => by rw [h, loop_of hx]; exact hc) id
            · rw [hm m e, loop_of hx]; exact hc
        exact st _ el m
    | none =>
      dsimp only
      have same : ∀ x : Device, x.loop = d.loop → x.crowbarsHeard d = x := fun x hx => crowbarsHeard_none _ _ fun m => by
        rw [loop_of hx]
        by_cases h : (d.lp m).st = .crowbar
        · exact Or.inl h
        · exact Or.inr h
      refine ⟨_, (same _ ?_).symm, ?_, fun n h => (nomatch h), fun h => ?_, fun _ => rfl⟩
      · split
        · exact el
        · exact el
      · by_cases he : isExt i = true
        · rw [if_pos he]; exact em_upd m _ (fun _ => ⟨rfl, rfl, rfl⟩)
        · rw [if_neg he]; exact m
      · rw [if_pos h, updEn_at]
  · rw [hp, decide_eq_true hs]
    have hd' : ((d.deps i).all fun j => (d.en j).st == .on) = true := List.all_eq_true.mpr fun j hj => by rw [hd j hj]; rfl
    rw [hd']
    rcases h with ⟨h, _⟩ | ⟨h, h'⟩
    · rw [h]; rfl
    · rw [h, h']; rfl

theorem judges_ext (d : Device) (i : Fin 128) (h : d.judges i = true) : isExt i = true := by
  unfold Device.judges at h; rw [Bool.and_eq_true, Bool.and_eq_true] at h; exact h.1.1

theorem setVmon_en (d : Device) (i : Fin 128) (code : Nat) : ((d.setVmon i code).en i).st = (d.en i).st ∧ (∀ j, j ≠ i → (d.setVmon i code).en j = d.en j) ∧
    (d.setVmon i code).seq = d.seq ∧ ((d.setVmon i code).en i).stopFail = (d.en i).stopFail ∧ (d.setVmon i code).regs = d.regs ∧ (d.setVmon i code).hup = d.hup := by
  unfold Device.setVmon
  dsimp only
  have u : ∀ (x : Device) (f : Entry → Entry), (∀ e, (f e).st = e.st ∧ (f e).stopFail = e.stopFail) → (x.en i).st = (d.en i).st → (∀ j, j ≠ i → x.en j = d.en j) → x.seq = d.seq →
      (x.en i).stopFail = (d.en i).stopFail → x.regs = d.regs → x.hup = d.hup → ((x.updEn i f).en i).st = (d.en i).st ∧ (∀ j, j ≠ i → (x.updEn i f).en j = d.en j) ∧ (x.updEn i f).seq = d.seq ∧
      ((x.updEn i f).en i).stopFail = (d.en i).stopFail ∧ (x.updEn i f).regs = d.regs ∧ (x.updEn i f).hup = d.hup := by
    intro x f hf h1 h2 h3 h4 h5 h6
    exact ⟨by rw [updEn_at, (hf _).1, h1], fun j hj => by rw [updEn_beside _ _ _ hj, h2 j hj], h3, by rw [updEn_at, (hf _).2, h4], h5, h6⟩
  have a := u d (fun e => { e with vmon := code }) (fun _ => ⟨rfl, rfl⟩) rfl (fun _ _ => rfl) rfl rfl rfl rfl
  generalize d.updEn i (fun e => { e with vmon := code }) = x at *
  split
  · have b := u x (fun e => { e with wrnOv := e.wrnOv || decide (x.thrCode i (bits (x.shot i 0x14) 15 0) < code), wrnUv := e.wrnUv || decide (code < x.thrCode i (bits (x.shot i 0x18) 31 16)) })
      (fun _ => ⟨rfl, rfl⟩) a.1 a.2.1 a.2.2.1 a.2.2.2.1 a.2.2.2.2.1 a.2.2.2.2.2
    generalize x.updEn i (fun e => { e with wrnOv := e.wrnOv || decide (x.thrCode i (bits (x.shot i 0x14) 15 0) < code), wrnUv := e.wrnUv || decide (code < x.thrCode i (bits (x.shot i 0x18) 31 16)) }) = y at *
    split
    · have k : ∀ w, (y.raise 38 w).entry = y.entry ∧ (y.raise 38 w).seq = y.seq ∧ (y.raise 38 w).regs = y.regs ∧ (y.raise 38 w).hup = y.hup := fun w => ⟨keeps_entry (by simp), keeps_seq (by simp), keeps_regs (by simp), keeps_hup (by simp)⟩
      exact ⟨by rw [en_of (k _).1]; exact b.1, fun j hj => by rw [en_of (k _).1]; exact b.2.1 j hj, (k _).2.1.trans b.2.2.1, by rw [en_of (k _).1]; exact b.2.2.2.1,
        (k _).2.2.1.trans b.2.2.2.2.1, (k _).2.2.2.trans b.2.2.2.2.2⟩
    · exact b
  · exact a

theorem setReadings_en (d : Device) (i : Fin 128) (l : List Nat) : ((d.setReadings i l).en i).st = (d.en i).st ∧ (∀ j, j ≠ i → (d.setReadings i l).en j = d.en j) ∧
    (d.setReadings i l).seq = d.seq ∧ ((d.setReadings i l).en i).stopFail = (d.en i).stopFail ∧ (d.setReadings i l).regs = d.regs ∧ (d.setReadings i l).hup = d.hup := by
  unfold Device.setReadings
  split
  · exact setVmon_en d i _
  · exact ⟨rfl, fun _ _ => rfl, rfl, rfl, rfl, rfl⟩

theorem railGood_moves (d : Device) (i : Fin 128) (readings : List Nat) (hs : (d.en i).st = .starting)
    (hg : match loopOf i with
      | some n => (d.lp n).st = .run
      | none => d.judges i = true ∧ lastAll (d.filterLen i) readings (fun x =>
          decide (d.thrCode i (bits (d.shot i 0x1C) 31 16) ≤ x) && decide (x < d.thrCode i (bits (d.shot i 0x14) 31 16))) = true) :
    ∃ e : Device, d.railGood i readings = e.takeProgress ∧ EntryMoves d e i .on 0x12 := by
  unfold Device.railGood
  dsimp only
  have v := setReadings_en d i readings
  generalize d.setReadings i readings = y at *
  have fin : ∀ b : Bool, b = true → ∃ e : Device, (if (y.en i).st == .starting && b then (y.enTo i .on 0x12).takeProgress else y) = e.takeProgress ∧ EntryMoves d e i .on 0x12 := by
    intro b hb
    rw [v.1, hs, hb, if_pos (by decide)]
    exact ⟨_, rfl, em_pre (enTo_moves _ i .on 0x12) v.1 v.2.1⟩
  refine fin _ ?_
  cases hl : loopOf i with
  | some n => rw [hl] at hg; dsimp only at hg ⊢; rw [hg]; rfl
  | none => rw [hl] at hg; dsimp only at hg ⊢; rw [hg.1, hg.2]; rfl

theorem wrapStop_moves (d : Device) (i : Fin 128) (reading : Nat) (h1 : i ∈ d.wrapSet) (h2 : d.stepOf i = d.topStep d.wrapSet) (h3 : (d.en i).st.up = true) (h4 : d.dependantsDown i = true) :
    ∃ e : Device, d.wrapStop i reading = e.wrapProgress ∧ EntryMoves d e i (if isRail i then .stopping else .off) 0x11 := by
  unfold Device.wrapStop
  rw [if_pos (by rw [h2, h3, h4, List.contains_iff_mem.mpr h1]; simp)]
  refine ⟨_, rfl, ?_⟩
  cases isRail i
  · rw [if_neg (by decide), if_neg (by decide)]; exact enTo_moves d i .off 0x11
  · rw [if_pos rfl, if_pos rfl]; exact (stopRail_en d i false false 0x11 reading).1

theorem discharged_moves (d : Device) (i : Fin 128) (readings : List Nat) (hs : (d.en i).st = .stopping ∨ (d.en i).st = .stuck)
    (hg : match loopOf i with
      | some n => ((d.lp n).st = .off ∨ (d.lp n).st = .faulted ∨ (d.lp n).st = .crowbar) ∧
          lastAll 8 readings (fun x => decide (d.loopMicrovolts n x ≤ (bits (d.shot i 0x1C) 15 0 * 1000 : Nat))) = true
      | none => d.judges i = true ∧ lastAll (d.filterLen i) readings (fun x => decide (x < d.thrCode i (bits (d.shot i 0x1C) 15 0))) = true) :
    ∃ e : Device, d.railDischarged i readings = e.wrapProgress.takeProgress ∧ EntryMoves d e i (if (d.en i).stopFail then .faulted else .off) 0x13 := by
  unfold Device.railDischarged
  dsimp only
  have v := setReadings_en d i readings
  generalize d.setReadings i readings = y at *
  have fin : ∀ b : Bool, b = true → ∃ e : Device, (if ((y.en i).st == .stopping || (y.en i).st == .stuck) && b then y.stopOver i 0x13 else y) = e.wrapProgress.takeProgress ∧
      EntryMoves d e i (if (d.en i).stopFail then .faulted else .off) 0x13 := by
    intro b hb
    rw [v.1, hb, if_pos (by rcases hs with h | h <;> rw [h] <;> decide)]
    exact ⟨_, rfl, by rw [← v.2.2.2.1]; exact em_pre (enTo_moves _ i _ 0x13) v.1 v.2.1⟩
  refine fin _ ?_
  cases hl : loopOf i with
  | some n =>
    rw [hl] at hg
    dsimp only at hg ⊢
    rw [hg.2, Bool.and_true]
    rcases hg.1 with h | h | h <;> rw [h] <;> rfl
  | none => rw [hl] at hg; dsimp only at hg ⊢; rw [hg.1, hg.2]; rfl

theorem restart_moves (d : Device) (i : Fin 128) (h1 : (d.en i).enlatch = true) (h2 : (d.en i).st.down = true) :
    ∃ e : Device, d.enlatchRestart i = e.takeProgress ∧ EntryMoves d e i .pending 0x10 ∧ (e.en i).enlatch = false := by
  unfold Device.enlatchRestart
  dsimp only
  rw [h1, h2, if_pos (by decide)]
  exact ⟨_, rfl, em_upd (enTo_moves d i .pending 0x10) _ (fun _ => ⟨rfl, rfl, rfl⟩), by rw [updEn_at]⟩

theorem compat_of {d e : Device} (h : e.regs = d.regs) (i : Fin 128) : e.compatMode i = d.compatMode i := by unfold Device.compatMode; rw [shot_of h]

theorem timeout_moves (d : Device) (i : Fin 128) (h : (d.en i).st = .stopping) : ∃ e : Device, (e.en i).nodis = true ∧
      (d.compatMode i = true → d.dischargeTimeout i = e.wrapProgress ∧ EntryMoves d e i .stuck 0x14 ∧ bit (e.head (pg seqPage)).err 12 = true) ∧
      (d.compatMode i = false → d.dischargeTimeout i = e.wrapProgress.takeProgress ∧ EntryMoves d e i (if (d.en i).stopFail then .faulted else .off) 0x14) := by
  unfold Device.dischargeTimeout
  rw [h, if_pos (by decide)]
  dsimp only
  have u1 : ((d.updEn i fun e => { e with nodis := true }).en i).st = (d.en i).st := by rw [updEn_at]
  have u2 : ∀ j, j ≠ i → (d.updEn i fun e => { e with nodis := true }).en j = d.en j := fun j hj => updEn_beside _ _ _ hj
  have u3 : ((d.updEn i fun e => { e with nodis := true }).en i).nodis = true := by rw [updEn_at]
  have u4 : (d.updEn i fun e => { e with nodis := true }).regs = d.regs := rfl
  have u5 : ((d.updEn i fun e => { e with nodis := true }).en i).stopFail = (d.en i).stopFail := by rw [updEn_at]
  generalize d.updEn i (fun e => { e with nodis := true }) = x at *
  rw [compat_of u4]
  cases d.compatMode i
  · unfold Device.stopOver
    refine ⟨_, ?_, fun h => (nomatch h), fun _ => ⟨by rw [if_neg (by decide)], ?_⟩⟩
    · rw [(enTo_en x i _ 0x14).1]; exact u3
    · rw [u5]; exact em_pre (enTo_moves x i _ 0x14) u1 u2
  · refine ⟨(x.enTo i .stuck 0x14).setErr seqPage (errBit 12), ?_, fun _ => ⟨by rw [if_pos rfl], ?_, setErr_bit _ _ 12 (by decide)⟩, fun h => (nomatch h)⟩
    · rw [en_of (show ((x.enTo i .stuck 0x14).setErr seqPage (errBit 12)).entry = (x.enTo i .stuck 0x14).entry from rfl), (enTo_en x i _ 0x14).1]; exact u3
    · exact em_trans (em_pre (enTo_moves x i _ 0x14) u1 u2) rfl

/-- The take's progress does nothing where no take runs. -/
theorem takeProgress_idle (d : Device) (h : d.seq.st ≠ .take) (h2 : d.seq.st ≠ .hold) (h3 : d.seq.st ≠ .rail ∨ d.seq.railOn = false) : d.takeProgress = d := by
  unfold Device.takeProgress Device.takeLook
  rw [if_neg]
  intro hc
  simp at hc
  rcases hc with (hc | hc) | hc
  · exact h hc
  · exact h2 hc
  · rcases h3 with h3 | h3
    · exact h3 hc.1
    · rw [h3] at hc; cases hc.2

theorem inService_next (s : State) (g : Device → Device) (hr : s.dev.hupRuns = true) : s.onDev (fun d => d.inService g) = .next { s with dev := g s.dev } := by
  rw [State.onDev_next]; simp only [inService_on hr]

theorem seqTo_same (d : Device) (st : SeqState) (cause who : Nat) : (d.seqTo st cause who).seq = { d.seq with st := st } ∧ (d.seqTo st cause who).entry = d.entry ∧
    (d.seqTo st cause who).regs = d.regs ∧ (d.seqTo st cause who).loop = d.loop := by
  unfold Device.seqTo
  split
  · rename_i h; exact ⟨by rw [← h], rfl, rfl, rfl⟩
  · exact ⟨rfl, rfl, rfl, rfl⟩

theorem isEmpty_not {α : Type} {l : List α} (h : l ≠ []) : l.isEmpty = false := by cases l with | nil => exact absurd rfl h | cons _ _ => rfl

theorem advance_wrap (d : Device) (h1 : d.seq.st = .wrap) (h2 : d.wrapSet ≠ []) : d.wrapProgress.seq.step = d.topStep d.wrapSet ∧
    (d.wrapProgress.seq.st = .wrap ∨ d.wrapProgress.seq.st = .stalled) ∧ d.wrapProgress.entry = d.entry := by
  unfold Device.wrapProgress
  dsimp only
  generalize d.wrapSet = w at *
  rw [h1]
  dsimp only
  rw [if_neg (by simp), if_neg (by simp), if_neg (by rw [isEmpty_not h2]; decide), if_neg (by decide)]
  generalize (w.any fun i => _) = b
  cases b
  · rw [if_neg (by decide), if_neg (by decide)]; have k := fun x : Device => seqTo_same x .wrap 0x11 byHw
    exact ⟨by rw [(k _).1], .inl (by rw [(k _).1]), (k _).2.1⟩
  · rw [if_pos rfl, if_pos rfl]; have k := fun x : Device => seqTo_same x .stalled 0x14 byHw
    exact ⟨by rw [(k _).1], .inr (by rw [(k _).1]), (k _).2.1⟩

theorem advance_rail (d : Device) (h1 : d.seq.st = .rail) (h2 : d.seq.railOn = false) (h3 : d.wrapSet = []) :
    d.wrapProgress.seq = { d.seq with st := .idle } ∧ d.wrapProgress.entry = d.entry := by
  unfold Device.wrapProgress
  dsimp only
  rw [h3, h1]
  dsimp only
  rw [if_neg (by rw [h2]; decide), if_neg (by simp), if_pos (show ([] : List (Fin 128)).isEmpty = true from rfl)]
  have k := seqTo_same d .idle 0x02 byHw
  exact ⟨k.1, k.2.1⟩

theorem advance_retry (d : Device) (h1 : d.seq.st = .retry) (h2 : d.seq.waiting = false) (h3 : d.seq.latched = none) (h4 : d.wrapSet = []) :
    d.wrapProgress.seq = { d.seq with waiting := true } ∧ d.wrapProgress.entry = d.entry := by
  unfold Device.wrapProgress
  dsimp only
  rw [h4, h1]
  dsimp only
  rw [if_neg (by simp), if_neg (by rw [h2]; decide), if_pos (show ([] : List (Fin 128)).isEmpty = true from rfl), h3, if_neg (by decide)]
  exact ⟨by rw [← h1, ← h3], rfl⟩

theorem setPins_keeps (d : Device) (p : BitVec 32) : (d.setPins p).entry = d.entry ∧ (d.setPins p).rso = { d.rso with pin := p } := by
  unfold Device.setPins
  split
  · rename_i h; exact ⟨rfl, by rw [h]⟩
  · exact ⟨keeps_entry (by simp), (keeps_rso (by simp) : (Device.raise _ 39 p).rso = (d.withRso fun r => { r with pin := p }).rso)⟩

theorem lineMask (w : BitVec 32) (k m : Fin 32) : (w &&& ~~~(BitVec.ofNat 32 (2 ^ k.val))).getLsbD m.val = (w.getLsbD m.val && decide (m ≠ k)) := by
  have h : (BitVec.ofNat 32 (2 ^ k.val)).getLsbD m.val = decide (m = k) := by revert k m; decide
  rw [BitVec.getLsbD_and, BitVec.getLsbD_not, h, decide_eq_true m.isLt, Bool.true_and]
  by_cases e : m = k <;> simp [e]

theorem stretch_over (d : Device) (k : Fin 32) (h : d.rso.src.getLsbD k.val = false) : ∃ e : Device, e.rso.pin.getLsbD k.val = false ∧ e.rso.str.getLsbD k.val = false ∧
    (∀ m : Fin 32, m ≠ k → e.rso.pin.getLsbD m.val = d.rso.pin.getLsbD m.val ∧ e.rso.str.getLsbD m.val = d.rso.str.getLsbD m.val) ∧ e.entry = d.entry ∧
    ((d.en (rsoEntry k)).st ≠ .starting → d.stretchElapsed k = e) ∧
    ((d.en (rsoEntry k)).st = .starting → ∃ g : Device, d.stretchElapsed k = g.takeProgress ∧ EntryMoves d g (rsoEntry k) .on 0x12) := by
  unfold Device.stretchElapsed
  dsimp only
  rw [h, if_neg (show ¬ (false = true) by decide)]
  have p := setPins_keeps (d.withRso fun r => { r with str := r.str &&& ~~~(BitVec.ofNat 32 (2 ^ k.val)) }) (d.rso.pin &&& ~~~(BitVec.ofNat 32 (2 ^ k.val)))
  generalize Device.setPins (d.withRso fun r => { r with str := r.str &&& ~~~(BitVec.ofNat 32 (2 ^ k.val)) }) (d.rso.pin &&& ~~~(BitVec.ofNat 32 (2 ^ k.val))) = x at *
  have pe : x.entry = d.entry := p.1
  have pr : x.rso = { d.rso with str := d.rso.str &&& ~~~(BitVec.ofNat 32 (2 ^ k.val)), pin := d.rso.pin &&& ~~~(BitVec.ofNat 32 (2 ^ k.val)) } := p.2
  refine ⟨x, ?_, ?_, fun m hm => ⟨?_, ?_⟩, pe, fun hn => ?_, fun hy => ?_⟩
  · rw [pr, lineMask]; simp
  · rw [pr, lineMask]; simp
  · rw [pr, lineMask]; simp [hm]
  · rw [pr, lineMask]; simp [hm]
  · rw [en_of pe, if_neg (by simpa using hn)]
  · rw [en_of pe, hy, if_pos (by decide)]
    exact ⟨_, rfl, em_pre (enTo_moves x _ .on 0x12) (by rw [en_of pe]) (fun j _ => en_of pe j)⟩

theorem fltClear_keeps (d : Device) (n : Fin 16) (w : Word) (o a b : Bool) : (d.fltClear n w o a b).entry = d.entry ∧ (d.fltClear n w o a b).seq = d.seq := ⟨keeps_entry (by simp), keeps_seq (by simp)⟩

/-- A clear of LOOPn_FLT while the OV comparator is low: no crowbar follows it. -/
theorem fltClear_quiet (d : Device) (n : Fin 16) (w : Word) (o a b : Bool) (h : (d.lp n).sense.ov = false) :
    (d.fltClear n w o a b).crowbarsHeard d = d.fltClear n w o a b ∧ (∀ m, ((d.fltClear n w o a b).lp m).sense = (d.lp m).sense) := by
  unfold Device.fltClear
  dsimp only
  generalize hx : d.updLp n _ = x
  have x1 : (x.lp n).st = (d.lp n).st ∧ (x.lp n).sense = (d.lp n).sense := by rw [← hx, updLp_at]; exact ⟨rfl, rfl⟩
  have xo : ∀ m, m ≠ n → x.lp m = d.lp m := fun m hm => by rw [← hx, updLp_beside _ _ _ hm]
  have q := (faultCleared_lp x n).1 (Or.inl (by rw [x1.2]; exact h))
  refine ⟨crowbarsHeard_none _ _ fun m => ?_, fun m => ?_⟩
  · by_cases hc : (d.lp m).st = .crowbar
    · exact Or.inl hc
    · refine Or.inr ?_
      by_cases e : m = n
      · subst e; exact q.2.2.1.elim (fun h => by rw [h, x1.1]; exact hc) id
      · rw [q.2.2.2.1 m e, xo m e]; exact hc
  · by_cases e : m = n
    · subst e; exact q.2.2.2.2.trans x1.2
    · rw [q.2.2.2.1 m e, xo m e]

theorem retry_over (d : Device) (h1 : d.seq.st = .retry) (h2 : d.seq.waiting = true) : let w := d.reg (0x030060 + 4 * d.seq.tgt)
    (d.seq.takes ≤ bits w 26 24 → ∃ e : Device, d.retryExpiry = e.takeStart 0x10 ∧
      ((∀ n, (d.lp n).sense.ov = false) → e.seq = { d.seq with takes := d.seq.takes + 1, waiting := false } ∧ e.entry = d.entry)) ∧
    (bits w 26 24 < d.seq.takes → ∃ e : Device, d.retryExpiry = e.startTransition (if d.seq.isFail then 0 else bits w 10 8) d.seq.rank true ∧ e.seq = { d.seq with result := 3 } ∧
        e.entry = d.entry ∧ bit (e.head (pg seqPage)).err 11 = true) := by
  dsimp only
  unfold Device.retryExpiry
  rw [h1, h2, if_pos (by decide)]
  dsimp only
  have ha : pageAddr seqPage (0x060 + 4 * d.seq.tgt) = 0x030060 + 4 * d.seq.tgt := by unfold pageAddr seqPage; omega
  rw [ha]
  generalize d.reg (0x030060 + 4 * d.seq.tgt) = w
  refine ⟨fun h => ?_, fun h => ?_⟩
  · rw [if_pos h]
    refine ⟨_, rfl, fun hov => ?_⟩
    generalize hx : foldFin 16 _ d = x
    have key : x.seq = d.seq ∧ x.entry = d.entry ∧ ∀ m, (x.lp m).sense.ov = false := by
      rw [← hx]
      refine foldFin_inv (fun y => y.seq = d.seq ∧ y.entry = d.entry ∧ ∀ m, (y.lp m).sense.ov = false) _ d ⟨rfl, rfl, hov⟩ (fun y n hy => ?_)
      refine ite_dev (fun y : Device => y.seq = d.seq ∧ y.entry = d.entry ∧ ∀ m, (y.lp m).sense.ov = false) _ ?_ hy
      have q := fltClear_quiet y n 0xFFFFFFFF (y.lp n).sense.ov (y.otActive n) (y.extActive n) (hy.2.2 n)
      rw [q.1]
      exact ⟨(fltClear_keeps _ _ _ _ _ _).2.trans hy.1, (fltClear_keeps _ _ _ _ _ _).1.trans hy.2.1, fun m => by rw [q.2 m]; exact hy.2.2 m⟩
    exact ⟨by dsimp only; rw [key.1, h1], key.2.1⟩
  · rw [if_neg (by omega)]
    have k : ∀ w', (({ d with seq := { d.seq with result := 3 } } : Device).raise 36 w').seq = { d.seq with result := 3 } ∧ (({ d with seq := { d.seq with result := 3 } } : Device).raise 36 w').entry = d.entry :=
      fun w' => ⟨keeps_seq (d := ({ d with seq := { d.seq with result := 3 } } : Device)) (by simp), keeps_entry (by simp)⟩
    have e : ((d.transitionEnded 3).setErr seqPage (errBit 11)).seq = { d.seq with result := 3 } := (k _).1
    refine ⟨(d.transitionEnded 3).setErr seqPage (errBit 11), ?_, (by rw [e, ← h1, ← h2]), (k _).2, setErr_bit _ _ 11 (by decide)⟩
    rw [e]

theorem recordFail_keeps (d : Device) (i : Fin 128) (c : Nat) : (d.recordFail i c).entry = d.entry ∧
    (d.recordFail i c).seq.lastFail = (field 31 28 c ||| field 22 16 i.val ||| field 15 12 d.seq.takes ||| field 2 0 d.seq.tgt) :=
  ⟨keeps_entry (by simp), by unfold Device.recordFail; dsimp only; rw [keeps_seq (d := ({ d with seq := { d.seq with lastFail := field 31 28 c ||| field 22 16 i.val ||| field 15 12 d.seq.takes ||| field 2 0 d.seq.tgt, lastFailTs := BitVec.ofNat 32 d.ts } } : Device)) (by simp)]⟩

theorem cutMembers_of {d e : Device} (hr : e.regs = d.regs) (hs : ∀ j, (e.en j).st = (d.en j).st) (i : Fin 128) : e.cutMembers i = d.cutMembers i := by
  unfold Device.cutMembers
  dsimp only
  congr 2
  funext l _
  unfold Device.entriesWhere
  congr 2
  funext j
  dsimp only
  rw [hs j, deps_of hr]

theorem railFail_eq (d : Device) (i : Fin 128) (c reading : Nat) : ∃ e : Device, d.railFail i c reading = e.failPolicy (i :: d.cutMembers i) ∧ RailFails d e i c := by
  unfold Device.railFail
  dsimp only
  have r := recordFail_keeps d i c
  generalize hx : (d.recordFail i c).setErr seqPage (errBit 10) = x
  have x1 : x.entry = d.entry := by rw [← hx]; exact r.1
  have x2 : x.seq.lastFail = (field 31 28 c ||| field 22 16 i.val ||| field 15 12 d.seq.takes ||| field 2 0 d.seq.tgt) := by rw [← hx]; exact r.2
  have x3 : x.regs = d.regs := by rw [← hx]; exact (keeps_regs (by simp) : (d.recordFail i c).regs = d.regs)
  clear hx
  have hm := cutMembers_other d i
  rw [cutMembers_of x3 (fun j => by rw [en_of x1])]
  generalize d.cutMembers i = l at *
  have y1 : (x.rushTrigger 1 i.val).entry = d.entry := Eq.trans (keeps_entry (by simp)) x1
  have y2 : (x.rushTrigger 1 i.val).seq = x.seq := keeps_seq (by simp)
  generalize x.rushTrigger 1 i.val = y at *
  generalize hz : y.updEn i (fun e => { e with failCause := c }) = z
  have z1 : z.en i = { d.en i with failCause := c } := by rw [← hz, updEn_at, en_of y1]
  have z2 : z.seq = x.seq := by rw [← hz]; exact y2
  clear hz
  have fin : ∀ w : Device, w.seq = z.seq → (w.en i).failCause = c → ((d.en i).st = .starting ∨ (d.en i).st = .on → (w.en i).st = .stopping ∧ (w.en i).stopFail = true ∧ (w.en i).cause = 0x15) →
      ((d.en i).st = .off ∨ (d.en i).st = .pending → (w.en i).st = .faulted ∧ (w.en i).cause = 0x15) →
      ∃ e : Device, (l.foldl (fun d j => d.cutOne j 6 true) w).failPolicy (i :: l) = e.failPolicy (i :: l) ∧ RailFails d e i c := by
    intro w h1 h2 h3 h4
    have k := cuts_en l 6 true i (fun j hj => hm j hj) w
    exact ⟨_, rfl, by rw [k.2, h1, z2, x2], by rw [k.1]; exact h2, by rw [k.1]; exact h3, by rw [k.1]; exact h4⟩
  have st : (z.en i).st = (d.en i).st := by rw [z1]
  have stop := stopRail_en z i true true 0x15 reading
  have toSt := enTo_en z i .faulted 0x15
  rw [st]
  cases hs : (d.en i).st with
  | starting => exact fin _ stop.2.2.2.2 (by rw [stop.2.2.1, z1]) (fun _ => ⟨stop.1.1, stop.2.1, stop.1.2.2.1⟩) (fun h => by rw [hs] at h; rcases h with h | h <;> cases h)
  | on => exact fin _ stop.2.2.2.2 (by rw [stop.2.2.1, z1]) (fun _ => ⟨stop.1.1, stop.2.1, stop.1.2.2.1⟩) (fun h => by rw [hs] at h; rcases h with h | h <;> cases h)
  | off => exact fin _ toSt.2.2.1 (by rw [toSt.1, z1]) (fun h => by rw [hs] at h; rcases h with h | h <;> cases h) (fun _ => by rw [toSt.1]; exact ⟨rfl, rfl⟩)
  | pending => exact fin _ toSt.2.2.1 (by rw [toSt.1, z1]) (fun h => by rw [hs] at h; rcases h with h | h <;> cases h) (fun _ => by rw [toSt.1]; exact ⟨rfl, rfl⟩)
  | stuck => exact fin z rfl (by rw [z1]) (fun h => by rw [hs] at h; rcases h with h | h <;> cases h) (fun h => by rw [hs] at h; rcases h with h | h <;> cases h)
  | faulted => exact fin z rfl (by rw [z1]) (fun h => by rw [hs] at h; rcases h with h | h <;> cases h) (fun h => by rw [hs] at h; rcases h with h | h <;> cases h)
  | stopping =>
    dsimp only
    cases loopOf i with
    | none => exact fin z rfl (by rw [z1]) (fun h => by rw [hs] at h; rcases h with h | h <;> cases h) (fun h => by rw [hs] at h; rcases h with h | h <;> cases h)
    | some n =>
      have k := hardStop_keeps z n
      exact fin _ k.2 (by rw [en_of k.1, z1]) (fun h => by rw [hs] at h; rcases h with h | h <;> cases h) (fun h => by rw [hs] at h; rcases h with h | h <;> cases h)

theorem railWord (k n : Nat) (hk : k < 8) (hn : n < 128) : bits (field 31 29 k ||| field 6 0 n) 6 0 = n ∧ bits (field 31 29 k ||| field 6 0 n) 31 29 = k := by
  have a : ∀ k : Fin 8, bits (setBits 0 31 29 k.val) 6 0 = 0 ∧ bits (setBits 0 31 29 k.val) 31 29 = k.val := by decide
  have b : ∀ n : Fin 128, bits (setBits 0 6 0 n.val) 6 0 = n.val ∧ bits (setBits 0 6 0 n.val) 31 29 = 0 := by decide
  rw [bits_or, bits_or, bits_field 31 29 k 6 0 (by decide), bits_field 31 29 k 31 29 (by decide), bits_field 6 0 n 6 0 (by decide), bits_field 6 0 n 31 29 (by decide),
    (a ⟨k, hk⟩).1, (a ⟨k, hk⟩).2, (b ⟨n, hn⟩).1, (b ⟨n, hn⟩).2]
  simp

theorem clear_now (d : Device) (i : Fin 128) (h : (d.en i).st = .faulted) : EntryMoves d (d.railClearNow i) i .off 0x01 ∧ ((d.railClearNow i).en i).failCause = 0 := by
  unfold Device.railClearNow
  rw [h, if_pos (by decide)]
  exact ⟨em_upd (enTo_moves d i .off 0x01) _ (fun _ => ⟨rfl, rfl, rfl⟩), by rw [updEn_at]⟩

theorem on_now (d : Device) (i : Fin 128) (h : d.inScene i d.seq.cur = false) : (d.railOnNow i).seq = { d.seq with reqres := 5 } ∧ ((d.railOnNow i).en i).heldOff = false := by
  unfold Device.railOnNow
  dsimp only
  have u : ((d.updEn i fun e => { e with heldOff := false }).en i).heldOff = false := by rw [updEn_at]
  have v : (d.updEn i fun e => { e with heldOff := false }).inScene i (d.updEn i fun e => { e with heldOff := false }).seq.cur = false := by rw [inScene_of rfl]; exact h
  rw [v, if_pos (by decide)]
  exact ⟨rfl, u⟩

theorem soft_now (d : Device) (i : Fin 128) : ∃ e : Device, d.railSoftOffNow i = e.wrapProgress ∧ e.seq.st = .rail ∧ e.seq.railOn = false ∧ (e.en i).heldOff = true := by
  unfold Device.railSoftOffNow
  dsimp only
  refine ⟨_, rfl, by rw [(seqTo_same _ _ _ _).1], by rw [(seqTo_same _ _ _ _).1], ?_⟩
  rw [en_of (seqTo_same _ _ _ _).2.1]
  generalize Device.railWrapSet _ i = l
  refine foldl_inv (fun y => (y.en i).heldOff = true) (fun (d : Device) j => d.updEn j fun e => { e with inRail := true }) l _ (by rw [updEn_at]) (fun y j hy => ?_)
  by_cases e : i = j
  · subst e; rw [updEn_at]; exact hy
  · rw [updEn_beside _ _ _ e]; exact hy

theorem imm_now (d : Device) (i : Fin 128) (hr : isRail i = true) : ∃ e : Device, d.railImmOffNow i = e.wrapProgress.takeProgress ∧ (e.en i).heldOff = true ∧
    ((d.en i).st.up = true → (e.en i).st = .stopping ∧ (e.en i).failCause = 8) := by
  unfold Device.railImmOffNow
  dsimp only
  refine ⟨_, rfl, ?_⟩
  have hm := cutMembers_other d i
  generalize d.cutMembers i = l at *
  generalize hx : d.updEn i (fun e => { e with heldOff := true }) = x
  have x1 : x.en i = { d.en i with heldOff := true } := by rw [← hx, updEn_at]
  rw [List.foldl_cons]
  have c := cutOne_en x i 8 false
  have k := cuts_en l 8 false i (fun j hj => hm j hj) (x.cutOne i 8 false)
  rw [k.1]
  exact ⟨by rw [c.2.2.2.1, x1], fun hu => ⟨c.2.2.2.2 hr (by rw [x1]; exact hu), c.2.2.1⟩⟩

theorem force_fold (i : Fin 128) (b : Bool) (l : List (Fin 128)) (d : Device) (hb : (d.en i).stopFail = b)
    (h : i ∈ l ∨ ((d.en i).forced = true ∧ (d.en i).st = if b then .faulted else .off)) :
    let e := l.foldl (fun d i => (d.updEn i fun e => { e with forced := true }).enTo i (if (d.en i).stopFail then .faulted else .off) 0x1B) d
    (e.en i).forced = true ∧ (e.en i).st = if b then .faulted else .off := by
  induction l generalizing d with
  | nil => rcases h with h | h
           · cases h
           · exact h
  | cons a l ih =>
    dsimp only at ih ⊢
    rw [List.foldl_cons]
    have t := enTo_en (d.updEn a fun e => { e with forced := true }) a (if (d.en a).stopFail then .faulted else .off) 0x1B
    by_cases e : i = a
    · subst e
      refine ih _ ?_ (.inr ⟨?_, ?_⟩)
      · rw [t.1, updEn_at]; exact hb
      · rw [t.1, updEn_at]
      · rw [t.1]; dsimp only; rw [hb]
    · have q := (t.2.1 i e).trans (updEn_beside d a _ e)
      refine ih _ (by rw [q]; exact hb) ?_
      rw [q]
      rcases h with h | h
      · exact .inl ((List.mem_cons.mp h).resolve_left e)
      · exact .inr h

theorem entry_scene (d : Device) (l : Vector Entry 128) (i : Fin 128) (x : Nat) : ({ d with entry := l } : Device).inScene i x = d.inScene i x :=
  inScene_of (e := { d with entry := l }) (d := d) rfl i x

theorem seq_write (s : State) (src : Source) (o : Nat) (w : Word) (ho : o < 0x1000) (h4 : o % 4 = 0) (hh : 0x040 ≤ o) (ht : s.dev.takes src (pageAddr 0x030 o) 0xFFFFFFFF w = true) :
    s.dev.busWrite s.fuses src (pageAddr 0x030 o) 0xF w {} = (s.dev.arrive src (pageAddr 0x030 o)).seqWrite (s.dev.requester src) o 0xFFFFFFFF w := by
  have hw := Device.busWrite_page s.dev s.fuses src 0x030 o 0xF w {} ht (by decide) (by decide) ho h4 (Or.inr hh)
  have hq : (s.dev.arrive src (pageAddr 0x030 o)).blockWrite s.fuses src 0x030 o (byteMask 0xF) w {} =
      (s.dev.arrive src (pageAddr 0x030 o)).seqWrite ((s.dev.arrive src (pageAddr 0x030 o)).requester src) o (byteMask 0xF) w := rfl
  rw [hw, hq, Device.arrive_requester, byteMask_full]

theorem rail_request (d : Device) (op : RailOp) (i : Fin 128) :
    (isRail i = true → d.seq.st = .take → (d.railRequest op i).seq = { d.seq with held := d.seq.held ++ [(op, i.val)] } ∧ (d.railRequest op i).entry = d.entry) ∧
    (isRail i = true → d.seq.st = .idle → d.railRequest op i = d.railNow op i) := by
  refine ⟨fun h1 h2 => ?_, fun h1 h2 => ?_⟩
  · unfold Device.railRequest
    dsimp only
    rw [if_neg (by rw [h1]; decide), if_neg (by rw [h2]; cases op <;> decide)]
    exact ⟨rfl, rfl⟩
  · unfold Device.railRequest
    dsimp only
    rw [if_neg (by rw [h1]; decide), if_pos (by rw [h2]; rfl)]

theorem rail_word (s : State) (src : Source) (i : Fin 128) (op : RailOp) (k : Nat) (hk : k < 8) (hop : railOpOf k = some op)
    (ht : s.dev.takes src 0x03004C 0xFFFFFFFF (field 31 29 k ||| field 6 0 i.val) = true) :
    let d := s.dev.arrive src 0x03004C
    s.dev.busWrite s.fuses src 0x03004C 0xF (field 31 29 k ||| field 6 0 i.val) {} =
      if isRail i then d.railRequest op i else d.setErr seqPage (errBit 8) := by
  dsimp only
  rw [show (0x03004C : Nat) = pageAddr 0x030 0x04C from rfl, seq_write s src 0x04C _ (by decide) (by decide) (by decide) ht]
  unfold Device.seqWrite
  dsimp only
  rw [and_full, if_neg (by decide), if_pos rfl, (railWord k i.val hk i.isLt).1, (railWord k i.val hk i.isLt).2, hop]
  dsimp only
  rw [show Fin.ofNat 128 i.val = i from Fin.ext (Nat.mod_eq_of_lt i.isLt)]
  by_cases h : i.val < 96
  · rw [if_neg (by omega), if_pos (show isRail i = true from decide_eq_true h)]
  · rw [if_pos (by omega), if_neg (show ¬ isRail i = true from fun h' => h (of_decide_eq_true h'))]

end Sys2Proof.Machine
end

