-- ==== Sys2Proof/Laws/PowerPath.lean ====
section
/-! SUPPORT. Power path: what the means, entry to a state, a hand-over, ENABLE and a move of the charger do. -/

namespace Sys2Proof.Machine
open Sys2Proof

theorem raise_heads (d : Device) (n : Nat) (w : Word) (q : Fin 256) (hq : q ≠ pg 0x060) : (d.raise n w).head q = d.head q := by
  unfold Device.raise
  dsimp only
  split
  · rfl
  · unfold Device.evcSync
    exact Device.syncState_head_other _ 0x060 _ _ _ hq

theorem seqTo_heads (d : Device) (st : SeqState) (cause who : Nat) (q : Fin 256) (hq : q ≠ pg seqPage) : (d.seqTo st cause who).head q = d.head q := by
  unfold Device.seqTo
  split
  · rfl
  · unfold Device.transition
    exact upd_other _ _ hq

theorem holdCheck_keeps (d : Device) : d.holdCheck.hup = d.hup ∧ d.holdCheck.chg = d.chg ∧ d.holdCheck.regs = d.regs ∧ d.holdCheck.head (pg hupPage) = d.head (pg hupPage) := by
  refine ⟨keeps_hup (by simp), keeps_chg (by simp), keeps_regs (by simp), ?_⟩
  unfold Device.holdCheck
  split
  · split
    · exact seqTo_heads _ _ _ _ _ (by decide)
    · rfl
  · split
    · rfl
    · exact seqTo_heads _ _ _ _ _ (by decide)
  · rfl

theorem hreg_of {d e : Device} (h : e.regs = d.regs) (o : Nat) : e.hreg o = d.hreg o := reg_of_same h _

theorem creg_of {d e : Device} (h : e.regs = d.regs) (o : Nat) : e.creg o = d.creg o := reg_of_same h _

/-- What the reserve check leaves: only RESERVE_LOW among the path's own state. -/
theorem rsvSync_hup (d : Device) : d.rsvSync.hup = { d.hup with rsvLow := if d.hup.st = .detect then d.hup.rsvLow else d.reserveNow } ∧ d.rsvSync.chg = d.chg ∧
    d.rsvSync.regs = d.regs ∧ (bit (d.hreg 0x040) 23 = false → d.rsvSync.head (pg hupPage) = d.head (pg hupPage)) := by
  refine ⟨?_, keeps_chg (by simp), keeps_regs (by simp), fun hb => ?_⟩
  · unfold Device.rsvSync
    by_cases h : d.hup.st = .detect
    · rw [h, if_pos (by decide), if_pos rfl]
    · rw [if_neg (by simpa using h), if_neg h]
      dsimp only
      have base : (d.updHup fun h => { h with rsvLow := d.reserveNow }).hup = { d.hup with rsvLow := d.reserveNow } := rfl
      have r : ∀ (x : Device) (w : Word), (x.raise 43 w).hup = x.hup := fun x w => keeps_hup (by simp)
      have q : ∀ (x : Device) (a b : Nat) , (x.sceneRequest a b byHw).hup = x.hup := fun x a b => keeps_hup (by simp)
      split
      · split
        · rw [q, r]; exact base
        · rw [r]; exact base
      · exact base
  · unfold Device.rsvSync
    split
    · rfl
    · dsimp only
      split
      · have k : ∀ x : Device, x.regs = d.regs → bit (x.hreg 0x040) 23 = false := fun x h => by rw [hreg_of h]; exact hb
        rw [k _ ((keeps_regs (by simp) : (Device.raise _ 43 _).regs = (d.updHup fun h => { h with rsvLow := d.reserveNow }).regs)), if_neg (by simp), raise_heads _ _ _ _ (by decide)]
        rfl
      · rfl

theorem reserveNow_of (d : Device) (h : d.hup.st = .nopack ∨ d.hup.st = .inhibit ∨ d.hup.st = .empty) : d.reserveNow = true := by
  unfold Device.reserveNow
  rcases h with h | h | h <;> rw [h] <;> simp

/-- What entry to a state of the path leaves, before a sag that is already detected acts. -/
theorem hupSet_moves (d : Device) (st : PathState) (cause who : Nat) : let e := d.hupSet st cause who
    e.hup.st = st ∧ e.hup.prev = d.hup.st ∧ e.hup.legs = st.legs ∧ e.hup.qualifying = (d.hup.qualifying && st == .empty) ∧ e.hup.present = d.hup.present ∧ e.hup.en = d.hup.en ∧
    e.hup.meas = d.hup.meas ∧ e.hup.cls = d.hup.cls ∧ e.hup.sag = d.hup.sag ∧ e.hup.convFault = d.hup.convFault ∧ e.chg = d.chg ∧
    (st = .nopack ∨ st = .inhibit ∨ st = .empty → e.hup.rsvLow = true) ∧
    (bit (d.hreg 0x040) 23 = false → (e.head (pg hupPage)).cur = st.code ∧ (e.head (pg hupPage)).cause = cause) ∧ (st ≠ .nopack → e.regs = d.regs) := by
  dsimp only
  unfold Device.hupSet
  dsimp only
  generalize hx : (if st == .nopack then d.setRegBits (pageAddr hupPage 0x05C) 31 16 0 else d) = x
  have x1 : x.hup = d.hup ∧ x.chg = d.chg ∧ (st ≠ .nopack → x.regs = d.regs) ∧ x.hreg 0x040 = d.hreg 0x040 := by
    rw [← hx]
    by_cases h : st = .nopack
    · subst h; rw [if_pos (by decide)]; exact ⟨rfl, rfl, fun h => absurd rfl h, Device.reg_setReg_other _ _ _ (by decide)⟩
    · rw [if_neg (by simpa using h)]; exact ⟨rfl, rfl, fun _ => rfl, rfl⟩
  clear hx
  generalize hy : (x.updHup fun h => { h with
    prev := h.st, st := st, legs := st.legs
    srcHiz := st == .inhibit && (h.st == .handover || h.st == .batt)
    sagNoho := h.sagNoho && st != .standby
    qualifying := h.qualifying && st == .empty }).transition hupPage st.code cause who = y
  have y1 : y.hup = { d.hup with prev := d.hup.st, st := st, legs := st.legs, srcHiz := st == .inhibit && (d.hup.st == .handover || d.hup.st == .batt), sagNoho := d.hup.sagNoho && st != .standby, qualifying := d.hup.qualifying && st == .empty } := by rw [← hy, ← x1.1]; rfl
  have y2 : y.chg = d.chg ∧ (st ≠ .nopack → y.regs = d.regs) ∧ y.hreg 0x040 = d.hreg 0x040 := by rw [← hy]; exact ⟨x1.2.1, x1.2.2.1, x1.2.2.2⟩
  have y3 : (y.head (pg hupPage)).cur = st.code ∧ (y.head (pg hupPage)).cause = cause := by
    rw [← hy]; unfold Device.transition Device.head; dsimp only; rw [upd_same]; exact ⟨rfl, rfl⟩
  clear hy
  have r := rsvSync_hup y
  have k := holdCheck_keeps y.rsvSync
  have e1 : (y.rsvSync.holdCheck).hup = { y.hup with rsvLow := if y.hup.st = .detect then y.hup.rsvLow else y.reserveNow } := k.1.trans r.1
  rw [e1, y1]
  refine ⟨rfl, rfl, rfl, rfl, rfl, rfl, rfl, rfl, rfl, rfl, k.2.1.trans (r.2.1.trans y2.1), fun h => ?_, fun h => ?_, fun h => k.2.2.1.trans (r.2.2.1.trans (y2.2.1 h))⟩
  · dsimp only
    rw [if_neg (by rcases h with h | h | h <;> subst h <;> decide)]
    exact reserveNow_of y (by rw [y1]; exact h)
  · rw [k.2.2.2, r.2.2.2 (by rw [y2.2.2]; exact h)]; exact y3

theorem chgTo_hup (d : Device) (st : ChgState) (cause who : Nat) : (d.chgTo st cause who).hup = d.hup := keeps_hup (by simp)

theorem chgTo_chg (d : Device) (st : ChgState) (cause who : Nat) : (d.chgTo st cause who).chg = (if d.chg.st = st then d.chg else { d.chg with prev := d.chg.st, st := st }) ∧
    (d.chgTo st cause who).regs = d.regs ∧ (d.chgTo st cause who).gau = d.gau ∧
    (d.chg.st ≠ st → ((d.chgTo st cause who).head (pg chgPage)).cur = st.code ∧ ((d.chgTo st cause who).head (pg chgPage)).cause = cause) := by
  refine ⟨?_, keeps_regs (by simp), keeps_gau (by simp), fun h => ?_⟩
  · unfold Device.chgTo
    split
    · rfl
    · have r : ∀ (x : Device) (w : Word), (x.raise 44 w).chg = x.chg := fun x w => keeps_chg (by simp)
      exact r _ _
  · unfold Device.chgTo
    rw [if_neg h]
    dsimp only
    rw [raise_heads _ _ _ _ (by decide)]
    unfold Device.transition Device.head
    dsimp only
    rw [upd_same]
    exact ⟨rfl, rfl⟩

theorem chgStop_keeps (d : Device) (st : ChgState) (cause : Nat) : (d.chgStop st cause).hup = d.hup ∧ (d.chgStop st cause).regs = d.regs ∧
    (d.chgStop st cause).chg.st = st ∧ (d.chgStop st cause).chg.latched = false := by
  refine ⟨keeps_hup (by simp), keeps_regs (by simp), ?_, ?_⟩ <;> unfold Device.chgStop <;> rw [(chgTo_chg _ _ _ _).1] <;> split
  · rename_i h; exact h
  · rfl
  · rfl
  · rfl

/-- What a hand-over leaves (R415). -/
theorem handover_moves (d : Device) (iL0 : Int) : let e := d.handover iL0
    e.hup.st = .handover ∧ e.hup.prev = d.hup.st ∧ e.hup.legs = .startPulse ∧ e.hup.qualifying = false ∧ e.hup.present = d.hup.present ∧ e.hup.en = d.hup.en ∧
    e.hup.meas = d.hup.meas ∧ e.hup.cls = d.hup.cls ∧ e.hup.sag = d.hup.sag ∧ e.hup.convFault = d.hup.convFault ∧ e.hup.tStart ≤ 1800 ∧
    (d.chg.st.charging = true ∨ d.chg.st = .draining → e.chg.st = .suspend) ∧
    (d.chg.st.charging = false → d.chg.st ≠ .draining → e.chg = d.chg) := by
  dsimp only
  unfold Device.handover
  dsimp only
  generalize (ratDiv _ (d.hup.meas.vpack : Rat)) = ns
  generalize hx : (if d.chg.st.charging || d.chg.st == .draining then d.chgStop .suspend 0x02 else d) = x
  have x1 : x.hup = d.hup ∧ x.regs = d.regs ∧ (d.chg.st.charging = true ∨ d.chg.st = .draining → x.chg.st = .suspend) ∧ (d.chg.st.charging = false → d.chg.st ≠ .draining → x.chg = d.chg) := by
    rw [← hx]
    have k := chgStop_keeps d .suspend 0x02
    by_cases h : (d.chg.st.charging || d.chg.st == .draining) = true
    · rw [if_pos h]; exact ⟨k.1, k.2.1, fun _ => k.2.2.1, fun h1 h2 => by rw [h1, Bool.false_or, beq_iff_eq] at h; exact absurd h h2⟩
    · rw [if_neg h]; exact ⟨rfl, rfl, fun h' => absurd (by rcases h' with h' | h' <;> rw [h'] <;> simp) h, fun _ _ => rfl⟩
  clear hx
  have m := hupSet_moves x .handover 0x12 byHw
  dsimp only at m
  rw [x1.1] at m
  generalize x.hupSet .handover 0x12 = y at *
  have r : ∀ (z : Device) (w : Word), (z.raise 40 w).hup = z.hup ∧ (z.raise 40 w).chg = z.chg := fun z w => ⟨keeps_hup (by simp), keeps_chg (by simp)⟩
  have q : ∀ (z : Device) (f : DailyDev → DailyDev), (z.dayDev f).hup = z.hup ∧ (z.dayDev f).chg = z.chg := fun z f => ⟨keeps_hup (by simp), keeps_chg (by simp)⟩
  rw [(r _ _).1, (q _ _).1, (r _ _).2, (q _ _).2]
  have bound : (max 0 (min 1800 (ratOpen ns))).toNat ≤ 1800 := by omega
  obtain ⟨m1, m2, m3, m4, m5, m6, m7, m8, m9, m10, m11, m12, m13, m14⟩ := m
  exact ⟨m1, m2, m3, m4.trans (Bool.and_false _), m5, m6, m7, m8, m9, m10, bound, fun h => by rw [show (y.updHup fun h => { h with tStart := (max 0 (min 1800 (ratOpen ns))).toNat }).chg = y.chg from rfl, m11]; exact x1.2.2.1 h,
    fun h h' => by rw [show (y.updHup fun h => { h with tStart := (max 0 (min 1800 (ratOpen ns))).toNat }).chg = y.chg from rfl, m11]; exact x1.2.2.2 h h'⟩

theorem hupTo_moves (d : Device) (st : PathState) (cause who : Nat) : PathMoves d (d.hupTo st cause who) st cause := by
  have m := hupSet_moves d st cause who
  dsimp only at m
  unfold PathMoves Device.hupTo
  dsimp only
  obtain ⟨m1, m2, m3, m4, m5, m6, m7, m8, m9, m10, m11, m12, m13, m14⟩ := m
  rw [m9]
  cases ho : st.sagState && d.hup.sag
  · rw [if_neg (show ¬ false = true by decide), if_neg (show ¬ false = true by decide), if_neg (show ¬ false = true by decide)]
    exact ⟨m1, m2, by rw [m3, m1], m4, m5, m6, m7, m8, m9, m10, fun _ => m11, m12, fun _ => m13⟩
  · rw [if_pos rfl, if_pos rfl, if_pos rfl]
    have hs : st.sagState = true := by rw [Bool.and_eq_true] at ho; exact ho.1
    have h := handover_moves (d.hupSet st cause who) 0
    dsimp only at h
    obtain ⟨h1, h2, h3, h4, h5, h6, h7, h8, h9, h10, _⟩ := h
    refine ⟨h1, h2.trans m1, by rw [h3, h1]; rfl, h4.trans ?_, h5.trans m5, h6.trans m6, h7.trans m7, h8.trans m8, h9.trans m9, h10.trans m10, fun h => (nomatch h),
      (fun h => by rcases h with h | h | h <;> subst h <;> cases hs), fun h => (nomatch h)⟩
    have ne : (st == PathState.empty) = false := by cases st <;> first | rfl | cases hs
    rw [ne, Bool.and_false]

theorem setMeas_keeps (d : Device) (m : HupMeas) : (d.setMeas m).hup.st = d.hup.st ∧ (d.setMeas m).chg = d.chg ∧ (d.setMeas m).regs = d.regs ∧ (d.setMeas m).hup.meas = m ∧
    (d.setMeas m).boot = d.boot ∧ (d.setMeas m).hup.rsvLow = d.hup.rsvLow := ⟨rfl, rfl, rfl, rfl, rfl, rfl⟩

/-- A mean inside the window keeps a running qualification; QUAL_T after its start no time is left (R418). -/
theorem setMeas_qual (d : Device) (m : HupMeas) (h1 : d.hup.st = .batt ∨ d.hup.st = .empty) (h2 : d.inWindow m = true) (h3 : d.hup.qualifying = true)
    (h4 : bits (d.hreg 0x040) 10 0 ≤ (d.cycle - d.hup.qualStart) / 125000) : (d.setMeas m).hup.qualifying = true ∧ (d.setMeas m).qualLeft = 0 := by
  have q : (d.setMeas m).hup.qualifying = true := by
    unfold Device.setMeas Device.updHup
    dsimp only
    rw [h2]; rcases h1 with h | h <;> rw [h] <;> rfl
  refine ⟨q, ?_⟩
  unfold Device.qualLeft
  rw [q, if_pos rfl]
  have e : (d.setMeas m).hup.qualStart = d.hup.qualStart := by
    unfold Device.setMeas Device.updHup
    dsimp only
    rw [h3, if_neg (by simp)]
  rw [e]
  exact Nat.sub_eq_zero_of_le h4

theorem hotCheck_keeps (d : Device) : d.hotCheck.hup.st = d.hup.st ∧ d.hotCheck.chg = d.chg ∧ d.hotCheck.regs = d.regs ∧ d.hotCheck.boot = d.boot ∧ d.hotCheck.hup.present = d.hup.present := by
  unfold Device.hotCheck; split <;> exact ⟨rfl, rfl, rfl, rfl, rfl⟩

theorem pm_from {a b e : Device} {st cause} (h : PathMoves a e st cause) (h1 : b.hup = a.hup) (h2 : b.chg = a.chg) (h3 : b.regs = a.regs) : PathMoves b e st cause := by
  unfold PathMoves at h ⊢
  rw [h1, h2, hreg_of h3]
  exact h

/-- Raising an event later leaves what the path did. -/
theorem pm_then {a e f : Device} {st cause} (h : PathMoves a e st cause) (h1 : f.hup = e.hup) (h2 : f.chg = e.chg)
    (h3 : (f.head (pg hupPage)).cur = (e.head (pg hupPage)).cur ∧ (f.head (pg hupPage)).cause = (e.head (pg hupPage)).cause) : PathMoves a f st cause := by
  unfold PathMoves at h ⊢
  rw [h1, h2, h3.1, h3.2]
  exact h

theorem hupSet_rsv (d : Device) (cause who : Nat) (h : d.canonical = true) : bits ((d.hupSet .nopack cause who).hreg 0x05C) 31 16 = 0 := by
  unfold Device.hupSet
  dsimp only
  rw [if_pos (by decide)]
  generalize hy : Device.transition _ hupPage (PathState.nopack).code cause who = y
  have y1 : y.regs = (d.setRegBits (pageAddr hupPage 0x05C) 31 16 0).regs := by rw [← hy]; rfl
  clear hy
  rw [hreg_of (holdCheck_keeps y.rsvSync).2.2.1, hreg_of (rsvSync_hup y).2.2.1, hreg_of y1]
  unfold Device.hreg Device.setRegBits
  rw [Device.reg_setReg _ _ _ h, bits_setBits _ _ _ _ (by decide), Nat.zero_mod]

theorem chgDrain_keeps (d : Device) (c : Nat) : (d.chgDrain c).hup = d.hup ∧ (d.chgDrain c).regs = d.regs ∧ (d.chg.st.charging = true → (d.chgDrain c).chg.st = .draining) ∧
    (d.chg.st.charging = false → (d.chgDrain c).chg = d.chg) := by
  refine ⟨keeps_hup (by simp), keeps_regs (by simp), fun h => ?_, fun h => ?_⟩ <;> unfold Device.chgDrain <;> rw [h]
  · rw [if_pos rfl, (chgTo_chg _ _ _ _).1]
    split
    · rename_i h'; exact h'
    · rfl
  · rw [if_neg (by decide)]

theorem hupEnable_cases (d : Device) (on : Bool) (who : Nat) : let t := d.hupEnable on who
    (on = true → t.hup = { d.hup with en := true, enHeld := false, convFault := d.hup.convFault && !d.hup.convAck, convAck := false } ∧ t.chg = d.chg) ∧
    (on = false →
      (d.hup.st = .handover ∨ d.hup.st = .batt ∨ d.hup.st = .returning ∨ d.hup.st = .empty → t.hup = { d.hup with enHeld := true } ∧ t.chg = d.chg) ∧
      (d.hup.st = .detect ∨ d.hup.st = .inhibit → t.hup = { d.hup with en := false, convAck := true } ∧ t.chg = d.chg) ∧
      (d.hup.st = .nopack ∨ d.hup.st = .standby ∨ d.hup.st = .charge ∨ d.hup.st = .share →
        ∃ x : Device, PathMoves x t .inhibit 0x1A ∧ x.hup = { d.hup with en := false, convAck := true } ∧
          (d.chg.st.charging = true → x.chg.st = .draining) ∧ (d.chg.st.charging = false → x.chg = d.chg))) := by
  dsimp only
  refine ⟨fun h => ?_, fun h => ⟨fun hs => ?_, fun hs => ?_, fun hs => ?_⟩⟩ <;> subst h <;> unfold Device.hupEnable
  · rw [if_pos rfl]; exact ⟨rfl, rfl⟩
  · rw [if_neg (by decide)]
    rcases hs with h | h | h | h <;> rw [h] <;> exact ⟨by dsimp only [Device.updHup]; rw [h], rfl⟩
  · rw [if_neg (by decide)]
    rcases hs with h | h <;> rw [h] <;> exact ⟨by dsimp only [Device.updHup]; rw [h], rfl⟩
  · rw [if_neg (by decide)]
    have c := chgDrain_keeps (d.updHup fun h => { h with en := false, convAck := true }) 0x02
    have q : PathMoves ((d.updHup fun h => { h with en := false, convAck := true }).chgDrain 0x02) (((d.updHup fun h => { h with en := false, convAck := true }).chgDrain 0x02).hupTo .inhibit 0x1A who) .inhibit 0x1A := hupTo_moves _ _ _ _
    rcases hs with h | h | h | h <;> rw [h] <;> exact ⟨_, q, c.1.trans (by dsimp only [Device.updHup]; rw [h]), c.2.2.1, c.2.2.2⟩

/-- One step of the input limit in STANDBY or CHARGE (R406, R407). -/
theorem throttleStep_on (d : Device) (m : HupMeas) (hs : d.hup.st = .standby ∨ d.hup.st = .charge) : let h := (d.setMeas m).hotCheck
    let cut := (max 0 ((h.iApplied : Int) - ratOpen (ratDiv (((m.isrc - (h.iLim * 16 : Nat) : Int) : Rat) / 2 * (m.vbus : Rat)) (m.vpack : Rat)))).toNat
    d.throttleStep m =
      if h.overLimit then
        if h.iApplied = 0 then (h.updChg fun c => { c with throttle := some 0 }).shareEnter else h.updChg fun c => { c with throttle := some cut }
      else h.updChg fun c => { c with throttle := none } := by
  unfold Device.throttleStep
  dsimp only
  have key : ((d.setMeas m).hotCheck.hup.st == .standby || (d.setMeas m).hotCheck.hup.st == .charge) = true := by
    rw [(hotCheck_keeps _).1, (setMeas_keeps d m).1]; rcases hs with h | h <;> rw [h] <;> rfl
  exact if_pos key

/-- A sag that has lasted SAG_FILT (R404, R411, R414). -/
theorem sagDetect_seen (d : Device) (m : HupMeas) (iL0 : Int) (low : Nat) (h : d.sagSeen m low = true) :
    let e := (d.setMeas m).updHup fun h => { h with sag := true, sagNoho := h.sagNoho || h.st.noHandover }
    d.sagDetect m iL0 low = if d.hup.st.sagState then e.handover iL0 else e := by
  unfold Device.sagDetect
  exact if_pos h

end Sys2Proof.Machine
end

