-- ==== Sys2Proof/Laws/Gauge.lean ====
section
/-! SUPPORT. Charger and gauge: what a move, a fault, an anchor, an estimate, a commit and an access to the gauge do. -/

namespace Sys2Proof.Machine
open Sys2Proof

theorem bits_and (a b : Word) (hi lo : Nat) : bits (a &&& b) hi lo = bits a hi lo &&& bits b hi lo := by
  unfold bits
  rw [BitVec.toNat_and, Nat.and_div_two_pow, Nat.and_mod_two_pow]

theorem and_byte (v : Nat) (h : v < 256) : v &&& 255 = v := by
  rw [show (255 : Nat) = 2 ^ 8 - 1 from rfl, Nat.and_two_pow_sub_one_eq_mod]; exact Nat.mod_eq_of_lt h

theorem chg_moves (d : Device) (st : ChgState) (cause who : Nat) (h : d.chg.st ≠ st) : ChargerMoves d (d.chgTo st cause who) st cause ∧ (d.chgTo st cause who).hup = d.hup ∧
    (d.chgTo st cause who).gau = d.gau := by
  have c := chgTo_chg d st cause who
  refine ⟨?_, chgTo_hup d st cause who, c.2.2.1⟩
  unfold ChargerMoves
  rw [c.1, if_neg h]
  exact ⟨rfl, rfl, rfl, rfl, rfl, (c.2.2.2 h).1, (c.2.2.2 h).2⟩

theorem cm_err {d e : Device} {st cause} (h : ChargerMoves d e st cause) (m : Word) : ChargerMoves d (e.setErr chgPage m) st cause := by
  unfold ChargerMoves at h ⊢
  rw [updHdr_err]
  exact h

theorem pathFollow_follows (d : Device) : PathFollows d d.pathFollow := by
  refine ⟨fun h1 h2 => ?_, fun h1 h2 h3 => ?_, fun h1 h2 => ?_, keeps_gau (by simp)⟩ <;> unfold Device.pathFollow
  · rw [h1, h2, if_pos (by decide)]; exact hupTo_moves _ _ _ _
  · rw [h1, h2, if_neg (by decide), if_pos (by simpa using h3)]; exact hupTo_moves _ _ _ _
  · rw [if_neg (by simp [h1]), if_neg (by simp [h2])]

theorem chgFault_eq (d : Device) (cause : Nat) (h : d.chg.st ≠ .fault) : ∃ e : Device, d.chgFault cause = e.pathFollow ∧ ChargerMoves d e .fault cause ∧ e.hup = d.hup ∧
    bit (e.head (pg chgPage)).err 9 = true :=
  ⟨_, rfl, cm_err (chg_moves d .fault cause byHw h).1 _, (chg_moves d .fault cause byHw h).2.1, setErr_bit _ _ 9 (by decide)⟩

theorem charging_not_fault {st : ChgState} (h : st.charging = true) : st ≠ .fault ∧ st ≠ .draining := by cases st <;> simp_all [ChgState.charging]

theorem hup_write (s : State) (src : Source) (be : BitVec 4) (w : Word) (hb : alignedBe be = true) (ht : s.dev.takes src 0x041048 (byteMask be) w = true) :
    s.dev.busWrite s.fuses src 0x041048 be w {} = (s.dev.arrive src 0x041048).chgCommandWrite (mergeWord (s.dev.reg 0x041048) w (byteMask be)) := by
  have hw := Device.busWrite_page s.dev s.fuses src 0x041 0x048 be w {} ht (by decide) hb (by decide) (by decide) (Or.inr (by decide))
  rw [show pageAddr 0x041 0x048 = 0x041048 from rfl] at hw
  rw [hw]
  have hq : (s.dev.arrive src 0x041048).blockWrite s.fuses src 0x041 0x048 (byteMask be) w {} = (s.dev.arrive src 0x041048).hupWrite 0x041 0x048 (byteMask be) w := rfl
  rw [hq]
  unfold Device.hupWrite
  rw [if_pos ⟨rfl, rfl⟩, Device.arrive_reg]

theorem memRead_put_other (m : Memory) (x : Nat) (w : Word) (y : Nat) (h : y < x ∨ x + 4 ≤ y) : memRead (memPut m x w) y = memRead m y := by
  unfold memPut
  rw [memRead_write_other _ _ _ (by omega), memRead_write_other _ _ _ (by omega), memRead_write_other _ _ _ (by omega), memRead_write_other _ _ _ (by omega)]

theorem memWord_put_other (m : Memory) (x : Nat) (w : Word) (y : Nat) (h : y + 4 ≤ x ∨ x + 4 ≤ y) : memWord (memPut m x w) y = memWord m y := by
  unfold memWord
  rw [memRead_put_other _ _ _ _ (by omega), memRead_put_other _ _ _ _ (by omega), memRead_put_other _ _ _ _ (by omega), memRead_put_other _ _ _ _ (by omega)]

theorem bytes_word (w : Word) : bytesWord (wordByte w 0) (wordByte w 1) (wordByte w 2) (wordByte w 3) = w := by
  apply BitVec.eq_of_getLsbD_eq
  intro i hi
  have b : ∀ k j : Nat, j < 8 → k < 4 → (wordByte w k).getLsbD j = w.getLsbD (8 * k + j) := by
    intro k j h1 h2
    unfold wordByte
    rw [BitVec.getLsbD_ofNat, bits_testBit, decide_eq_true (by omega), decide_eq_true (show j < 8 * k + 7 + 1 - 8 * k by omega), Bool.true_and, Bool.true_and, Nat.add_comm]
  unfold bytesWord
  rw [BitVec.getLsbD_append, BitVec.getLsbD_append, BitVec.getLsbD_append]
  by_cases h1 : i < 8
  · rw [if_pos h1, b 0 i h1 (by omega)]; congr 1; omega
  · rw [if_neg h1]
    by_cases h2 : i - 8 < 8
    · rw [if_pos h2, b 1 _ h2 (by omega)]; congr 1; omega
    · rw [if_neg h2]
      by_cases h3 : i - 8 - 8 < 8
      · rw [if_pos h3, b 2 _ h3 (by omega)]; congr 1; omega
      · rw [if_neg h3, b 3 _ (by omega) (by omega)]; congr 1; omega

theorem memWord_put_same (m : Memory) (x : Nat) (w : Word) (h : Memory.wf m = true) : memWord (memPut m x w) x = w := by
  unfold memWord memPut
  have w1 := memWrite_wf x (wordByte w 0) h
  have w2 := memWrite_wf (x + 1) (wordByte w 1) w1
  have w3 := memWrite_wf (x + 2) (wordByte w 2) w2
  rw [memRead_write_other _ (x + 3) _ (show x ≠ x + 3 by omega), memRead_write_other _ (x + 2) _ (show x ≠ x + 2 by omega), memRead_write_other _ (x + 1) _ (show x ≠ x + 1 by omega), memRead_write_same _ _ h,
    memRead_write_other _ (x + 3) _ (show x + 1 ≠ x + 3 by omega), memRead_write_other _ (x + 2) _ (show x + 1 ≠ x + 2 by omega), memRead_write_same _ _ w1,
    memRead_write_other _ (x + 3) _ (show x + 2 ≠ x + 3 by omega), memRead_write_same _ _ w2, memRead_write_same _ _ w3]
  exact bytes_word w

theorem gauTo_moves (d : Device) (st : GauState) (cause who : Nat) : GaugeMoves d (d.gauTo st cause who) st cause ∧
    (d.gauTo st cause who).gau.commit = d.gau.commit ∧ (d.gauTo st cause who).gau.starved = d.gau.starved ∧ (d.gauTo st cause who).gau.packChanged = d.gau.packChanged ∧
    (d.gauTo st cause who).gau.result = d.gau.result ∧ (d.gauTo st cause who).gau.acc0 = d.gau.acc0 ∧ (d.gauTo st cause who).gau.slotB = d.gau.slotB ∧
    (d.gauTo st cause who).gau.fullPoint = (d.gau.fullPoint && st.runs) ∧ (d.gauTo st cause who).gau.commitFail = d.gau.commitFail ∧ (d.gauTo st cause who).ram = d.ram := by
  unfold Device.gauTo
  dsimp only
  generalize hx : (d.updGau fun g => { g with
    prev := g.st, st := st
    vRc := if st == .seeking || st == .starved then 0 else g.vRc
    spanStart := if st == .counting || st == .starved then g.spanStart else none
    ocvReady := g.ocvReady && st != .nopack, fullPoint := g.fullPoint && st.runs }).transition gauPage st.code cause who = x
  have x1 : x.gau = { d.gau with
    prev := d.gau.st, st := st
    vRc := if st == .seeking || st == .starved then 0 else d.gau.vRc
    spanStart := if st == .counting || st == .starved then d.gau.spanStart else none
    ocvReady := d.gau.ocvReady && st != .nopack, fullPoint := d.gau.fullPoint && st.runs } := by rw [← hx]; rfl
  have x2 : (x.head (pg gauPage)).cur = st.code ∧ (x.head (pg gauPage)).cause = cause := by
    rw [← hx]; unfold Device.transition Device.head; dsimp only; rw [upd_same]; exact ⟨rfl, rfl⟩
  have x3 : x.ram = d.ram := by rw [← hx]; rfl
  clear hx
  have b : x.gauBlank.gau = (if st = .notRestored then { x.gau with soc := 0xFFFF, u := 0xFFFF, conf := 0 } else if st = .nopack then { x.gau with soc := 0, u := 0xFFFF, conf := 0 } else x.gau) ∧ x.gauBlank.hdr = x.hdr ∧ x.gauBlank.ram = x.ram := by
    unfold Device.gauBlank
    rw [show x.gau.st = st by rw [x1]]
    cases st <;> exact ⟨rfl, rfl, rfl⟩
  have r : ∀ (y : Device) (w : Word), (y.raise 46 w).gau = y.gau ∧ (y.raise 46 w).ram = y.ram := fun y w => ⟨keeps_gau (by simp), keeps_ram (by simp)⟩
  have hh : ∀ (y : Device) (w : Word), (y.raise 46 w).head (pg gauPage) = y.head (pg gauPage) := fun y w => raise_heads _ _ _ _ (by decide)
  unfold GaugeMoves
  rw [hh, (r _ _).1, (r _ _).2, b.1]
  have hb : x.gauBlank.head (pg gauPage) = x.head (pg gauPage) := by unfold Device.head; rw [b.2.1]
  rw [hb, x1, b.2.2]
  cases st <;> simp [x2.1, x2.2, x3]

theorem aoSecond_keeps (d : Device) (x : GaugeSecond) : (d.aoSecond x).boot = d.boot ∧ (d.aoSecond x).gau.st = d.gau.st ∧ (d.aoSecond x).gau.fullPoint = d.gau.fullPoint ∧
    (d.aoSecond x).gau.ocvReady = d.gau.ocvReady := by
  unfold Device.aoSecond
  dsimp only
  split
  · exact ⟨rfl, rfl, rfl, rfl⟩
  · split <;> exact ⟨rfl, rfl, rfl, rfl⟩

theorem runs_of {d e : Device} (h : e.boot = d.boot) : e.hupRuns = d.hupRuns := by unfold Device.hupRuns Device.live Device.powered; rw [h]

theorem writeReserve_gau (d : Device) (x y : Rat) : (d.writeReserve x y).gau = d.gau := keeps_gau (by simp)

theorem commitStart_keeps (d : Device) : d.gauCommitStart.gau.acc = d.gau.acc ∧ d.gauCommitStart.gau.fullPoint = d.gau.fullPoint := by
  unfold Device.gauCommitStart
  split <;> exact ⟨rfl, rfl⟩

theorem learnSpan_keeps (d : Device) (a : Nat × Rat) (x : Rat) : (d.learnSpan a x).gau.acc = d.gau.acc ∧ (d.learnSpan a x).gau.fullPoint = d.gau.fullPoint := by
  unfold Device.learnSpan
  dsimp only
  generalize (if x < a.2 then a.2 - x else x - a.2) = q
  refine ite_dev (fun y : Device => y.gau.acc = d.gau.acc ∧ y.gau.fullPoint = d.gau.fullPoint) _ ?_ ⟨rfl, rfl⟩
  refine ite_dev (fun y : Device => y.gau.acc = d.gau.acc ∧ y.gau.fullPoint = d.gau.fullPoint) _ ?_ ⟨rfl, rfl⟩
  exact ⟨(commitStart_keeps _).1, (commitStart_keeps _).2⟩

theorem accept_rest (d x : Device) (h1 : x.gau.acc = d.gau.acc) (h2 : x.gau.fullPoint = d.gau.fullPoint) (a b : Rat) (c : Bool) (q : Rat) (cause : Nat) :
    let e := (x.updGau fun g => { g with soc0 := a, u0 := b, acc0 := g.acc, starved := false, flat := false, spanStart := if c then some (g.acc, q) else none }).gauAnchor.gauTo .counting cause
    e.gau.st = .counting ∧ e.gau.abs = 0 ∧ e.gau.age = 0 ∧ e.gau.hibt = 0 ∧ e.gau.acc = d.gau.acc ∧ e.gau.acc0 = d.gau.acc ∧ (d.gau.fullPoint = false → e.gau.fullPoint = false) := by
  dsimp only
  generalize hy : Device.gauAnchor _ = y
  have y1 : y.gau.abs = 0 ∧ y.gau.age = 0 ∧ y.gau.hibt = 0 ∧ y.gau.acc = x.gau.acc ∧ y.gau.acc0 = x.gau.acc ∧ y.gau.fullPoint = x.gau.fullPoint := by
    rw [← hy]; exact ⟨rfl, rfl, rfl, rfl, rfl, rfl⟩
  clear hy
  have t := gauTo_moves y .counting cause byHw
  obtain ⟨⟨t1, _, _, _, t5, t6, t7, t8, _⟩, _, _, _, _, t9, _, t10, _⟩ := t
  exact ⟨t1, t6.trans y1.1, t7.trans y1.2.1, t8.trans y1.2.2.1, t5.trans (y1.2.2.2.1.trans h1), t9.trans (y1.2.2.2.2.1.trans h1), fun h => by rw [t10, y1.2.2.2.2.2, h2, h]; rfl⟩

theorem accept_gau (d : Device) (soc u m : Rat) (cause : Nat) : let e := d.acceptAnchor soc u m cause
    e.gau.st = .counting ∧ e.gau.abs = 0 ∧ e.gau.age = 0 ∧ e.gau.hibt = 0 ∧ e.gau.acc = d.gau.acc ∧ e.gau.acc0 = d.gau.acc ∧ (d.gau.fullPoint = false → e.gau.fullPoint = false) := by
  dsimp only
  unfold Device.acceptAnchor
  dsimp only
  generalize hc : (d.gau.st == .counting || d.gau.st == .starved) = c
  cases d.gau.spanStart with
  | none =>
    dsimp only
    generalize (if u < d.uRep then soc else d.socRep m) = a
    generalize min u d.uRep = b
    have q := accept_rest d d rfl rfl a b c soc cause
    dsimp only at q
    exact q
  | some z =>
    dsimp only
    have fin : ∀ x : Device, x.gau.acc = d.gau.acc → x.gau.fullPoint = d.gau.fullPoint → _ := fun x k1 k2 => accept_rest d x k1 k2 (if u < x.uRep then soc else x.socRep m) (min u x.uRep) c soc cause
    cases c
    · have q := fin d rfl rfl
      dsimp only at q
      simp only [Bool.false_eq_true, if_false] at q ⊢
      exact q
    · have q := fin _ (learnSpan_keeps d z soc).1 (learnSpan_keeps d z soc).2
      dsimp only at q
      simp only [if_true] at q ⊢
      exact q

theorem estimate_plain (a : Device) (x : GaugeSecond) (h1 : a.gau.st = .counting) (h2 : a.gau.fullPoint = false) (h3 : a.gau.ocvReady = false) :
    (a.coreEstimate x).gau = { a.gau with soc := pctWord (clampR 0 10000 a.socC), u := pctWord a.uCount, conf := confOf a.uCount } := by
  have same : (a.updGau fun g => { g with fullPoint := false }) = a := by unfold Device.updGau; rw [← h2]
  have an : a.anchors = (a, none) := by
    unfold Device.anchors
    dsimp only
    rw [same, h2, h3, if_neg (by decide), if_neg (by decide)]
  unfold Device.coreEstimate
  dsimp only
  rw [if_neg (by rw [h1]; decide), if_pos (by rw [h1]; rfl), if_pos (by rw [h1]; rfl), an]
  dsimp only
  rw [writeReserve_gau]
  have e1 : ∀ m, a.socRep m = clampR 0 10000 a.socC := fun m => by unfold Device.socRep; rw [h1]
  have e2 : a.uRep = a.uCount := by unfold Device.uRep; rw [h1]
  rw [e1, e2]
  rfl

theorem estimate_full (a : Device) (x : GaugeSecond) (h1 : a.gau.st.runs = true) (h2 : a.gau.fullPoint = true) (h3 : a.gau.ocvReady = false) : let e := a.coreEstimate x
    e.gau.st = .counting ∧ e.gau.abs = 0 ∧ e.gau.age = 0 ∧ e.gau.hibt = 0 ∧ e.gau.fullPoint = false ∧ e.gau.acc = a.gau.acc ∧ e.gau.acc0 = a.gau.acc := by
  dsimp only
  unfold Device.coreEstimate
  dsimp only
  rw [if_neg (by intro h; rw [beq_iff_eq] at h; rw [h] at h1; cases h1), if_pos h1]
  generalize hb : (if a.gau.st == .counting then a else a.updGau fun g => { g with vRc := (a.modelStep x).2 }) = b
  have b1 : b.gau.fullPoint = true ∧ b.gau.ocvReady = false ∧ b.gau.acc = a.gau.acc := by
    rw [← hb]; split
    · exact ⟨h2, h3, rfl⟩
    · exact ⟨h2, h3, rfl⟩
  clear hb
  have an : b.anchors = ((b.updGau fun g => { g with fullPoint := false }, some ((10000 : Rat), (b.imgUFull : Rat), 0x12)) : Device × Option (Rat × Rat × Nat)) := by
    unfold Device.anchors
    dsimp only
    rw [b1.1, if_pos rfl, if_neg (by rw [show (b.updGau fun g => { g with fullPoint := false }).gau.ocvReady = b.gau.ocvReady from rfl, b1.2.1]; decide)]
  rw [an]
  dsimp only
  rw [writeReserve_gau]
  have k := accept_gau (b.updGau fun g => { g with fullPoint := false }) 10000 (b.imgUFull : Rat) (a.modelStep x).1 0x12
  dsimp only at k
  obtain ⟨k1, k2, k3, k4, k5, k6, k7⟩ := k
  exact ⟨k1, k2, k3, k4, k7 rfl, k5.trans b1.2.2, k6.trans b1.2.2⟩

theorem unload_gau (d : Device) (cause who : Nat) : (d.unloadNow cause who).gau.st = .notRestored ∧ (d.unloadNow cause who).gau.commit = d.gau.commit ∧ (d.unloadNow cause who).gau.commitFail = d.gau.commitFail ∧
    (d.unloadNow cause who).gau.commits = d.gau.commits ∧ (d.unloadNow cause who).gau.slotB = d.gau.slotB ∧ (d.unloadNow cause who).gau.fcc = d.gau.fcc ∧ (d.unloadNow cause who).ram = d.ram ∧
    (d.unloadNow cause who).gau.result = d.gau.result ∧ (d.unloadNow cause who).gau.soc = 0xFFFF := by
  unfold Device.unloadNow
  have t := gauTo_moves (d.updGau fun g => { g with unloadWait := false }) .notRestored cause who
  obtain ⟨⟨t1, _, _, _, _, _, _, _, _, t2, t3, t4, _⟩, t5, _, _, t6, _, t7, _, t8, t9⟩ := t
  exact ⟨t1, t5, t8, t3, t7, t2, t9, t6, (t4 rfl).1⟩

theorem sram_keeps {d e : Device} (h : e.ram = d.ram) (o : Nat) : e.sram o = d.sram o := by unfold Device.sram Device.ramWord; rw [h]

theorem commit_writes (m : Memory) (o : Nat) (w0 w1 w2 : Word) (b : Bool) (ho : o = 0x080 ∨ o = 0x090) (h : Memory.wf m = true) :
    let w := setBit (memWord m (sramAddr 0x0A0)) 0 b
    let n := memPut (memPut (memPut (memPut m (sramAddr o) w0) (sramAddr (o + 4)) w1) (sramAddr (o + 8)) w2) (sramAddr 0x0A0) w
    memWord n (sramAddr o) = w0 ∧ memWord n (sramAddr (o + 4)) = w1 ∧ memWord n (sramAddr (o + 8)) = w2 ∧ bit (memWord n (sramAddr 0x0A0)) 0 = b ∧
      ∀ x, (x < sramAddr o ∨ sramAddr (o + 12) ≤ x) → (x < sramAddr 0x0A0 ∨ sramAddr 0x0A4 ≤ x) → memRead n x = memRead m x := by
  dsimp only
  have h1 := memPut_wf (sramAddr o) w0 h
  have h2 := memPut_wf (sramAddr (o + 4)) w1 h1
  have h3 := memPut_wf (sramAddr (o + 8)) w2 h2
  have s : ∀ x, sramAddr x = 0x300000 + x := fun _ => rfl
  refine ⟨?_, ?_, ?_, ?_, fun x hx hy => ?_⟩
  · rw [memWord_put_other _ _ _ _ (by rw [s, s]; omega), memWord_put_other _ _ _ _ (by rw [s, s]; omega), memWord_put_other _ _ _ _ (by rw [s, s]; omega), memWord_put_same _ _ _ h]
  · rw [memWord_put_other _ _ _ _ (by rw [s, s]; omega), memWord_put_other _ _ _ _ (by rw [s, s]; omega), memWord_put_same _ _ _ h1]
  · rw [memWord_put_other _ _ _ _ (by rw [s, s]; omega), memWord_put_same _ _ _ h2]
  · rw [memWord_put_same _ _ _ h3, bit_setBit _ _ _ _ (by decide), if_pos rfl]
  · rw [s, s] at hx hy
    rw [memRead_put_other _ _ _ _ (by rw [s]; omega), memRead_put_other _ _ _ _ (by rw [s]; omega), memRead_put_other _ _ _ _ (by rw [s]; omega), memRead_put_other _ _ _ _ (by rw [s]; omega)]

/-- An access to a GAU page wakes the domain, and GAU_STAT.HIBERNATE remembers it. -/
theorem arrive_gau (d : Device) (src : Source) (a : Nat) (h : a / 0x1000 = 0x044) (hu : d.boot.up.ao = true) : (d.arrive src a).gau = d.gauSeen ∧ (d.arrive src a).boot.up = d.boot.up := by
  refine ⟨?_, Device.arrive_up d src a⟩
  unfold Device.arrive Device.accessed
  dsimp only
  rw [if_neg (by decide)]
  have t : Touches 2148536348 d ((((d.tapLeaves src).renew ((d.tapLeaves src).requester src))).pmcCountAll 0x20 1) := by simp
  have u : ((((d.tapLeaves src).renew ((d.tapLeaves src).requester src))).pmcCountAll 0x20 1).boot.up = d.boot.up := by
    have k : ((((d.tapLeaves src).renew ((d.tapLeaves src).requester src))).pmcCountAll 0x20 1).boot = (d.tapLeaves src).boot := keeps_boot (by simp)
    rw [k]; unfold Device.tapLeaves; split <;> rfl
  have hg := t .gau (by decide)
  have ha := t .ao (by decide)
  generalize ((((d.tapLeaves src).renew ((d.tapLeaves src).requester src))).pmcCountAll 0x20 1) = x at *
  have hg : x.gau = d.gau := hg
  have ha : x.ao = d.ao := ha
  unfold Device.gauTouch
  rw [if_pos ⟨.inl h, by rw [u]; exact hu⟩]
  unfold Device.gauAccess Device.aoWake Device.gauSeen
  rw [u, hu, ha]
  have e : (x.updGau fun g => { g with wasHib := true && !d.ao.active }).gau = { d.gau with wasHib := !d.ao.active } := by rw [← hg]; rfl
  refine ite_dev (fun y : Device => y.gau = { d.gau with wasHib := !d.ao.active }) _ ?_ e
  exact e

theorem gau_write (s : State) (src : Source) (o : Nat) (w : Word) (x : WriteInfo) (ho : o < 0x1000) (h4 : o % 4 = 0) (hh : 0x040 ≤ o)
    (ht : s.dev.takes src (pageAddr 0x044 o) 0xFFFFFFFF w = true) :
    s.dev.busWrite s.fuses src (pageAddr 0x044 o) 0xF w x = (s.dev.arrive src (pageAddr 0x044 o)).gauWrite (s.dev.requester src) o 0xFFFFFFFF w x := by
  have hw := Device.busWrite_page s.dev s.fuses src 0x044 o 0xF w x ht (by decide) (by decide) ho h4 (Or.inr hh)
  have hq : (s.dev.arrive src (pageAddr 0x044 o)).blockWrite s.fuses src 0x044 o (byteMask 0xF) w x =
      (s.dev.arrive src (pageAddr 0x044 o)).gauWrite ((s.dev.arrive src (pageAddr 0x044 o)).requester src) o (byteMask 0xF) w x := rfl
  rw [hw, hq, Device.arrive_requester, byteMask_full]

theorem key_word (key : BitVec 16) (n : Nat) (hn : n < 4) : bits (field 31 16 key.toNat ||| BitVec.ofNat 32 n) 31 16 = key.toNat ∧ bits (field 31 16 key.toNat ||| BitVec.ofNat 32 n) 1 0 = n := by
  have a : ∀ n : Fin 4, bits (BitVec.ofNat 32 n.val) 31 16 = 0 ∧ bits (BitVec.ofNat 32 n.val) 1 0 = n.val := by decide
  rw [bits_or, bits_or, bits_field _ _ _ _ _ (by decide), bits_field _ _ _ _ _ (by decide), (a ⟨n, hn⟩).1, (a ⟨n, hn⟩).2, bits_setBits _ _ _ _ (by decide),
    bits_setBits_other _ _ _ _ _ _ (by decide)]
  have : key.toNat < 2 ^ 16 := key.isLt
  exact ⟨by rw [Nat.or_zero]; exact Nat.mod_eq_of_lt this, by rw [show bits (0 : Word) 1 0 = 0 from rfl, Nat.zero_or]⟩

theorem gau_key (d : Device) (r : Requester) (x : WriteInfo) (key : BitVec 16) (n : Nat) (hn : n < 4) (hu : d.boot.up.ao = true) :
    d.gauWrite r 0x078 0xFFFFFFFF (field 31 16 key.toNat ||| BitVec.ofNat 32 n) x =
      if key.toNat ≠ 0x6A17 then d.setErr gauPage errAccvio
      else if n = 1 then d.gauRestore (x.packDet.getD (!d.hup.present)) r.code
      else if n = 2 then d.gauUnload r.code else d := by
  unfold Device.gauWrite
  dsimp only
  rw [hu, if_neg (show ¬ (!true) = true by decide), if_neg (show ¬ (0x078 : Nat) = 0x074 by decide), if_pos rfl, and_full, (key_word key n hn).1, (key_word key n hn).2]

theorem ramOf {d e : Device} (h : e.ram = d.ram) : (∀ o, e.sramH o = d.sramH o) ∧ (∀ o, e.sram o = d.sram o) ∧ ∀ o n, e.sramBytes o n = d.sramBytes o n := by
  refine ⟨fun o => ?_, fun o => ?_, fun o n => ?_⟩
  · unfold Device.sramH Device.ramWord; rw [h]
  · unfold Device.sram Device.ramWord; rw [h]
  · unfold Device.sramBytes; rw [h]

theorem capacity_of {d e : Device} (h : e.ram = d.ram) : e.capacity = d.capacity ∧ e.activeB = d.activeB ∧ e.imageOk = d.imageOk := by
  have r := ramOf h
  have a : e.activeB = d.activeB := by unfold Device.activeB; rw [r.2.1]
  refine ⟨?_, a, ?_⟩
  · unfold Device.capacity Device.slotOk Device.imgDesign
    dsimp only
    rw [a]
    simp only [r.1, r.2.2]
  · unfold Device.imageOk; rw [r.2.1, r.2.2, r.2.2]

theorem restore_of {d e : Device} (h : e.ram = d.ram) (hs : e.gau.st = d.gau.st) : e.restoreResult = d.restoreResult := by
  have r := ramOf h
  unfold Device.restoreResult Device.imgDesign Device.imgUModel Device.imgUOcv Device.imgUFull Device.imgT Device.rowAscends Device.ocvPt
  rw [hs, r.2.1, (capacity_of h).2.2]
  simp only [r.1, r.2.1]

theorem takeCapacity_gau (d : Device) : d.takeCapacity.gau = { d.gau with fcc := d.capacity.1, slotB := d.capacity.2.1 } ∧ d.takeCapacity.ram = d.ram := by
  unfold Device.takeCapacity
  dsimp only
  exact ite_dev (fun y : Device => y.gau = { d.gau with fcc := d.capacity.1, slotB := d.capacity.2.1 } ∧ y.ram = d.ram) _ ⟨rfl, rfl⟩ ⟨rfl, rfl⟩

end Sys2Proof.Machine
end

