-- ==== Sys2Proof/Laws/Thermal.lean ====
section
/-! SUPPORT. Thermal channels through a scan frame, and the fault collector: what a frame, THM_CLR, a latch, a fall and a clear do. -/

namespace Sys2Proof.Machine
open Sys2Proof

theorem updCh_ch (d : Device) (c j : Fin 88) (f : Chan → Chan) : (d.updCh c f).ch j = if j = c then f (d.ch c) else d.ch j := by
  unfold Device.ch Device.updCh
  exact upd_get _ _ _ _

theorem ch_of {d e : Device} (h : e.thm = d.thm) (c : Fin 88) : e.ch c = d.ch c := by unfold Device.ch; rw [h]

/-- A fold whose steps each change the channel of their own key only: a channel that no step names stays. -/
theorem fold_out {α : Type} (κ : α → Fin 88) (f : Device → α → Device) (c : Fin 88) (ho : ∀ e a, κ a ≠ c → (f e a).ch c = e.ch c) (l : List α) (d : Device)
    (hl : ∀ a ∈ l, κ a ≠ c) : (l.foldl f d).ch c = d.ch c := by
  induction l generalizing d with
  | nil => rfl
  | cons a r ih =>
    rw [List.foldl_cons, ih _ fun b hb => hl b (List.mem_cons_of_mem _ hb)]
    exact ho d a (hl a (List.mem_cons_self))

/-- A fold over distinct keys: a channel is changed by the step that names it alone. -/
theorem fold_at {α : Type} (κ : α → Fin 88) (f : Device → α → Device) (g : Chan → Chan) (c : Fin 88) (P : Device → Prop) (ho : ∀ e a, κ a ≠ c → (f e a).ch c = e.ch c)
    (hP : ∀ e a, P e → P (f e a)) (x : α) (hk : κ x = c) (hg : ∀ e, P e → (f e x).ch c = g (e.ch c)) (l : List α) (hn : (l.map κ).Nodup) (hx : x ∈ l) (d : Device)
    (hd : P d) : (l.foldl f d).ch c = g (d.ch c) := by
  induction l generalizing d with
  | nil => exact absurd hx (List.not_mem_nil)
  | cons a r ih =>
    rw [List.map_cons, List.nodup_cons] at hn
    rw [List.foldl_cons]
    by_cases e : κ a = c
    · have hr : ∀ b ∈ r, κ b ≠ c := fun b hb q => hn.1 (by rw [e, ← q]; exact List.mem_map_of_mem hb)
      have ha : a = x := by
        rcases List.mem_cons.1 hx with q | q
        · exact q.symm
        · exact absurd hk (hr x q)
      rw [fold_out κ f c ho r _ hr, ha, hg d hd]
    · have hx' : x ∈ r := by
        rcases List.mem_cons.1 hx with q | q
        · exact absurd (q ▸ hk) e
        · exact q
      rw [ih hn.2 hx' _ (hP _ _ hd), ho d a e]

theorem chBreak_other (d : Device) (c j : Fin 88) (p ex) (h : c ≠ j) : (d.chBreak c p ex).ch j = d.ch j := by
  have k : ∀ (e : Device) (w : Word), e.thm = d.thm → (e.raise 216 w).ch j = d.ch j := fun e w q => ch_of ((keeps_thm (by simp) : (e.raise 216 w).thm = e.thm).trans q) j
  unfold Device.chBreak
  dsimp only
  have q : (d.setErr 0x048 (errBit 10)).thm = d.thm := rfl
  have k0 := k _ (BitVec.ofNat 32 c.val) q
  generalize (d.setErr 0x048 (errBit 10)).raise 216 (BitVec.ofNat 32 c.val) = y at *
  cases median (y.neighbours c ex) with
  | some m => dsimp only; rw [updCh_ch, if_neg (Ne.symm h)]; exact k0
  | none =>
    dsimp only
    have k2 : ∀ (e : Device) (w : Word), (e.raise 217 w).thm = e.thm := fun e w => keeps_thm (by simp)
    rw [ch_of (k2 _ _)]
    show ((y.updCh c _).ch j) = _
    rw [updCh_ch, if_neg (Ne.symm h)]; exact k0

theorem crossCheck_other (d : Device) (c j : Fin 88) (h : c ≠ j) : (d.crossCheck c).ch j = d.ch j := by
  unfold Device.crossCheck
  dsimp only
  rw [updCh_ch, if_neg (Ne.symm h)]

theorem standin_other (d : Device) (c j : Fin 88) (h : c ≠ j ∨ ((d.ch c).st ≠ .standin ∧ (d.ch c).st ≠ .novalue)) : (d.standinCheck c).ch j = d.ch j := by
  have k : ∀ (e : Device) (w : Word), (e.raise 217 w).thm = e.thm := fun e w => keeps_thm (by simp)
  unfold Device.standinCheck
  split
  · rename_i m a b
    rcases h with h | h
    · rw [updCh_ch, if_neg (Ne.symm h)]
    · exact absurd a h.1
  · rename_i a b
    rcases h with h | h
    · rw [ch_of (k _ _)]; show ((d.updCh c _).ch j) = _; rw [updCh_ch, if_neg (Ne.symm h)]
    · exact absurd a h.1
  · rename_i m a b
    rcases h with h | h
    · rw [updCh_ch, if_neg (Ne.symm h)]
    · exact absurd a h.2
  · rfl

/-- What the limits of a channel leave alone. -/
def Chan.bare (p : Chan) : ChanState × Int × Option Int × Bool × Bool × Nat := (p.st, p.val, p.latest, p.broken, p.plaus, p.outCnt)

theorem judge_both (d : Device) (c j : Fin 88) : ((d.judgeChan c).ch j).bare = (d.ch j).bare ∧ (c ≠ j → (d.judgeChan c).ch j = d.ch j) := by
  unfold Device.judgeChan
  dsimp only
  split
  · have k : ∀ (e : Device) (w : Word), (e.raise (128 + c.val) w).thm = e.thm := fun e w => keeps_thm (by simp)
    generalize hg : d.updCh c _ = y
    have hy : (y.ch j).bare = (d.ch j).bare ∧ (c ≠ j → y.ch j = d.ch j) := by
      rw [← hg, updCh_ch]
      by_cases e : j = c
      · subst e; rw [if_pos rfl]; exact ⟨rfl, fun h => absurd rfl h⟩
      · rw [if_neg e]; exact ⟨rfl, fun _ => rfl⟩
    have hz : ∀ z : Device, z.thm = y.thm → (z.ch j).bare = (d.ch j).bare ∧ (c ≠ j → z.ch j = d.ch j) := by
      intro z q
      rw [ch_of q]; exact hy
    apply hz
    repeat' split
    all_goals first | rfl | exact k _ _ | exact (k _ _).trans rfl
  · exact ⟨rfl, fun _ => rfl⟩

theorem derate_chan (d : Device) (n : Fin 16) : (d.derate n).thm.chan = d.thm.chan ∧ ∀ m, m ≠ n → (d.derate n).thm.frac[m] = d.thm.frac[m] ∧ (d.derate n).thm.iDer[m] = d.thm.iDer[m] := by
  have k : ∀ (e : Device) (w : Word), (e.raise (80 + n.val) w).thm = e.thm := fun e w => keeps_thm (by simp)
  unfold Device.derate
  split
  · exact ⟨rfl, fun _ _ => ⟨rfl, rfl⟩⟩
  · dsimp only
    generalize hg : ({ d with thm := _ } : Device) = y
    have hy : y.thm.chan = d.thm.chan ∧ ∀ m, m ≠ n → y.thm.frac[m] = d.thm.frac[m] ∧ y.thm.iDer[m] = d.thm.iDer[m] := by
      rw [← hg]
      refine ⟨rfl, fun m h => ⟨?_, ?_⟩⟩
      · exact Vector.getElem_set_ne n.isLt m.isLt (fun q => h (Fin.ext q.symm))
      · exact Vector.getElem_set_ne n.isLt m.isLt (fun q => h (Fin.ext q.symm))
    have hz : ∀ z : Device, z.thm = y.thm → z.thm.chan = d.thm.chan ∧ ∀ m, m ≠ n → z.thm.frac[m] = d.thm.frac[m] ∧ z.thm.iDer[m] = d.thm.iDer[m] := fun z q => by rw [q]; exact hy
    apply hz
    repeat' split
    all_goals first | rfl | exact k _ _

theorem take_core (p : Chan) (s : Option Int) (f : Bool) (h1 : p.st ≠ .standin) (h2 : p.st ≠ .novalue) :
    (∀ v, s = some v → (p.take s f).st = .valid ∧ (p.take s f).val = v ∧ (p.take s f).broken = p.broken) ∧
    (s = none → p.st = .valid → (p.take s f).st = .hold ∧ (p.take s f).outCnt = 1 ∧ (p.take s f).val = p.val ∧ (p.take s f).plaus = p.plaus) := by
  unfold Chan.take
  constructor
  · rintro v rfl
    cases h : p.st <;> simp_all
  · rintro rfl h
    simp [h]

theorem sync_cur (d : Device) (p : Fin 256) (c cause who : Nat) : ((d.syncState p.val c cause who).head p).cur = c := by
  have hp := pg_val p
  unfold Device.syncState
  split
  · rename_i h; rw [hp] at h; exact h
  · unfold Device.transition
    dsimp only
    rw [hp]
    unfold Device.head
    dsimp only
    rw [upd_same]

/-- What a stage of the scan leaves of the machine: everything but the channels, the stage faults, the deratings, the page and the
event controller. -/
theorem scan_of {d e : Device} (h : Touches 2147488804 d e) : (∀ c, e.chPresent c = d.chPresent c) ∧ (∀ c, e.chGroup c = d.chGroup c) ∧ (∀ c x, e.chSample c x = d.chSample c x) ∧
    e.thmCfg = d.thmCfg ∧ (∀ c, e.siOfs c = d.siOfs c) := by
  have hr : e.regs = d.regs := h .regs (by decide)
  have r : ∀ a, e.reg a = d.reg a := fun a => by unfold Device.reg; rw [hr]
  refine ⟨fun c => ?_, fun c => ?_, fun c x => ?_, r _, fun c => ?_⟩
  · unfold Device.chPresent Device.ccfg Device.phPop Device.preg
    simp only [r]
  · unfold Device.chGroup Device.ccfg; rw [r]
  · unfold Device.chSample
    simp only [r]
  · unfold Device.siOfs Device.ccfg; rw [r]

theorem no_neighbours (d : Device) (c : Fin 88) (ex) (h : d.chGroup c = 31) : median (d.neighbours c ex) = none := by
  have : d.neighbours c ex = [] := by unfold Device.neighbours; dsimp only; rw [if_pos h]
  rw [this]; rfl

/-- A channel outside every group breaks to NOVALUE. -/
theorem chBreak_alone (d : Device) (c : Fin 88) (p ex) (h : d.chGroup c = 31) : (d.chBreak c p ex).ch c = { d.ch c with st := .novalue, broken := true, plaus := p, inCnt := 0, xCnt := 0 } := by
  unfold Device.chBreak
  dsimp only
  have t : Touches 2147487748 d ((d.setErr 0x048 (errBit 10)).raise 216 (BitVec.ofNat 32 c.val)) := by simp
  have hm := no_neighbours ((d.setErr 0x048 (errBit 10)).raise 216 (BitVec.ofNat 32 c.val)) c ex (by
    have hr := t .regs (by decide)
    unfold Device.chGroup Device.ccfg Device.reg at *
    rw [show ((d.setErr 0x048 (errBit 10)).raise 216 (BitVec.ofNat 32 c.val)).regs = d.regs from hr]; exact h)
  have ht : ((d.setErr 0x048 (errBit 10)).raise 216 (BitVec.ofNat 32 c.val)).thm = d.thm := t .thm (by decide)
  generalize (d.setErr 0x048 (errBit 10)).raise 216 (BitVec.ofNat 32 c.val) = y at *
  rw [hm]
  dsimp only
  have k2 : ∀ (e : Device) (w : Word), (e.raise 217 w).thm = e.thm := fun e w => keeps_thm (by simp)
  rw [ch_of (k2 _ _)]
  show ((y.updCh c _).ch c) = _
  rw [updCh_ch, if_pos rfl, ch_of ht]

theorem cross_alone (d : Device) (c : Fin 88) (h : d.chGroup c = 31) : (d.crossCheck c).ch c = { d.ch c with xCnt := 0 } := by
  unfold Device.crossCheck
  dsimp only
  rw [updCh_ch, if_pos rfl, no_neighbours d c [] h]

theorem standin_alone (d : Device) (c j : Fin 88) (h : d.chGroup j = 31) (hs : (d.ch j).st ≠ .standin) : (d.standinCheck c).ch j = d.ch j := by
  by_cases e : c = j
  · subst e
    unfold Device.standinCheck
    rw [no_neighbours d c [] h]
    split
    · rename_i q; exact absurd q (by simp)
    · rename_i q _; exact absurd q hs
    · rename_i q; exact absurd q (by simp)
    · rfl
  · exact standin_other d c j (.inl e)

/-- The end of a stage fault changes no owner and no channel (R222). -/
theorem tmonFalls_own (d : Device) (x : ThermFrame) (due : List (Fin 88)) : (∀ k, ((d.tmonFalls x due).ph k).own = (d.ph k).own) ∧ (d.tmonFalls x due).thm = d.thm := by
  unfold Device.tmonFalls
  refine foldl_inv (fun e : Device => (∀ k, (e.ph k).own = (d.ph k).own) ∧ e.thm = d.thm) _ due d ⟨fun _ => rfl, rfl⟩ fun e c q => ?_
  cases tmonPhase c with
  | none => exact q
  | some j =>
    refine ⟨fun k => ?_, q.2⟩
    by_cases h : k = j
    · subst h; rw [updPh_at]; exact q.1 k
    · rw [updPh_beside _ _ _ h]; exact q.1 k

/-- The stages of a frame (R482), after the absent channels. -/
theorem frame_stages (d : Device) (x : ThermFrame) : ∃ d1 d2 d2b d3 d4 d5 d6 d7 : Device,
    let due := (List.finRange 88).filter (d.chDue d.thm.frame)
    let broken := due.filterMap fun c => (d3.breakOf c).map fun b => (c, b)
    d1 = (List.finRange 88).foldl (fun d c => if d.chPresent c then d else d.updCh c fun _ => chan0) d ∧
    d2 = due.foldl (fun d c => let s := d.chSample c x; d.updCh c fun p => { p.take s.1 s.2 with siHeld := d.siOfs c }) d1 ∧
    d2b = d2.tmonFalls x due ∧
    d3 = due.foldl (fun d c => d.crossCheck c) d2b ∧
    d4 = broken.foldl (fun d cb => d.chBreak cb.1 cb.2 (broken.map (·.1))) d3 ∧
    d5 = (List.finRange 88).foldl (fun d c => d.standinCheck c) d4 ∧
    d6 = due.foldl (fun d c => d.judgeChan c) d5 ∧
    d7 = foldFin 16 (fun e n => if due.any (fun c => match tmonPhase c with
      | some k => (d6.ph k).own == some n
      | none => false) then e.derate n else e) d6 ∧
    d.thermalFrame x = ({ d7 with thm := { d7.thm with frame := d7.thm.frame + 1 } } : Device).syncState 0x048 ({ d7 with thm := { d7.thm with frame := d7.thm.frame + 1 } } : Device).thmCode 0x02 byHw :=
  ⟨_, _, _, _, _, _, _, _, rfl, rfl, rfl, rfl, rfl, rfl, rfl, rfl, rfl⟩

/-- The parts of the thermal block beside the channels. -/
def Thermal.rest (t : Thermal) : Nat × Vector Nat 16 × Vector Nat 16 := (t.frame, t.frac, t.iDer)

theorem chBreak_rest (d : Device) (c : Fin 88) (p ex) : (d.chBreak c p ex).thm.rest = d.thm.rest := by
  have k : ∀ (e : Device) (n : Nat) (w : Word), (e.raise n w).thm = e.thm := fun e n w => keeps_thm (by simp)
  unfold Device.chBreak
  dsimp only
  have q : (((d.setErr 0x048 (errBit 10)).raise 216 (BitVec.ofNat 32 c.val))).thm = d.thm := k _ _ _
  generalize (d.setErr 0x048 (errBit 10)).raise 216 (BitVec.ofNat 32 c.val) = y at *
  cases median (y.neighbours c ex) with
  | some m => show y.thm.rest = _; rw [q]
  | none => dsimp only; rw [k]; show y.thm.rest = _; rw [q]

theorem standin_rest (d : Device) (c : Fin 88) : (d.standinCheck c).thm.rest = d.thm.rest := by
  have k : ∀ (e : Device) (n : Nat) (w : Word), (e.raise n w).thm = e.thm := fun e n w => keeps_thm (by simp)
  unfold Device.standinCheck
  split
  · rfl
  · rw [k]; rfl
  · rfl
  · rfl

theorem judge_rest (d : Device) (c : Fin 88) : (d.judgeChan c).thm.rest = d.thm.rest := by
  have k : ∀ (e : Device) (n : Nat) (w : Word), (e.raise n w).thm = e.thm := fun e n w => keeps_thm (by simp)
  unfold Device.judgeChan
  dsimp only
  repeat' split
  all_goals first | rfl | (rw [k]; rfl)

theorem derate_frame (d : Device) (n : Fin 16) : (d.derate n).thm.frame = d.thm.frame := by
  have k : ∀ (e : Device) (n : Nat) (w : Word), (e.raise n w).thm = e.thm := fun e n w => keeps_thm (by simp)
  unfold Device.derate
  split
  · rfl
  · dsimp only
    repeat' split
    all_goals first | rfl | (rw [k])

theorem rest_fold {α : Type} (f : Device → α → Device) (l : List α) (d : Device) (h : ∀ e a, (f e a).thm.rest = e.thm.rest) : (l.foldl f d).thm.rest = d.thm.rest :=
  foldl_inv (fun e => e.thm.rest = d.thm.rest) f l d rfl fun e a q => (h e a).trans q

theorem frame_facts (d : Device) (x : ThermFrame) : let e := d.thermalFrame x
    e.thm.frame = d.thm.frame + 1 ∧ (e.head (pg 0x048)).cur = e.thmCode ∧ (∀ c, d.chPresent c = false → e.ch c = chan0) ∧
      (∀ c, d.chPresent c = true → d.chDue d.thm.frame c = false → (d.ch c).st ≠ .standin → (d.ch c).st ≠ .novalue → e.ch c = d.ch c) ∧
      (∀ c, d.chDue d.thm.frame c = true → d.chGroup c = 31 → (d.ch c).st ≠ .standin → (d.ch c).st ≠ .novalue →
        (∀ v, (d.chSample c x).1 = some v → (e.ch c).st = .valid ∧ (e.ch c).val = v ∧ (e.ch c).broken = (d.ch c).broken) ∧
        ((d.chSample c x).1 = none → (d.ch c).st = .valid →
          (bits d.thmCfg 31 28 ≤ 1 → (e.ch c).st = .novalue ∧ (e.ch c).broken = true ∧ (e.ch c).plaus = false) ∧
          (1 < bits d.thmCfg 31 28 → (e.ch c).st = .hold ∧ (e.ch c).outCnt = 1 ∧ (e.ch c).val = (d.ch c).val))) ∧
      ∀ n : Fin 16, (∀ k, (d.ph k).own = some n → d.chDue d.thm.frame (tmonChan k) = false) → e.thm.frac[n] = d.thm.frac[n] ∧ e.thm.iDer[n] = d.thm.iDer[n] := by
  obtain ⟨d1, d2, d2b, d3, d4, d5, d6, d7, h⟩ := frame_stages d x
  dsimp only at h
  generalize hdue : (List.finRange 88).filter (d.chDue d.thm.frame) = due at h
  generalize hbr : (due.filterMap fun c => (d3.breakOf c).map fun b => (c, b)) = br at h
  obtain ⟨h1, h2, h2b, h3, h4, h5, h6, h7, h8⟩ := h
  -- what every stage keeps
  have M : ∀ (l : List (Fin 88)) (f : Device → Fin 88 → Device) (y : Device), (∀ e a, Touches 2147488804 d (f e a) ↔ Touches 2147488804 d e) → Touches 2147488804 d y →
      Touches 2147488804 d (l.foldl f y) := fun l f y hf hy => (touches_foldl _ _ _ hf).2 hy
  have t1 : Touches 2147488804 d d1 := by
    rw [h1]; exact M _ _ _ (fun e a => by split <;> simp) (Touches.same d)
  have t2 : Touches 2147488804 d d2 := by rw [h2]; exact M _ _ _ (fun e a => by simp) t1
  have t2b : Touches 2147488804 d d2b := by rw [h2b]; simpa using t2
  have fb := tmonFalls_own d2 x due
  rw [← h2b] at fb
  have t3 : Touches 2147488804 d d3 := by rw [h3]; exact M _ _ _ (fun e a => by simp) t2b
  have t4 : Touches 2147488804 d d4 := by rw [h4]; exact (touches_foldl _ _ _ (fun e a => Device.chBreak_touch _ _ _ _ (by decide))).2 t3
  have t5 : Touches 2147488804 d d5 := by rw [h5]; exact M _ _ _ (fun e a => by simp) t4
  have t6 : Touches 2147488804 d d6 := by rw [h6]; exact M _ _ _ (fun e a => by simp) t5
  have mem : ∀ c, c ∈ due ↔ d.chDue d.thm.frame c = true := fun c => by rw [← hdue]; simp
  have nod : due.Nodup := by rw [← hdue]; exact (List.nodup_finRange 88).filter _
  have hmap : ∀ l : List (Fin 88), l.map id = l := fun l => List.map_id l
  -- absent channels
  have absent : ∀ c, d.chPresent c = false → d1.ch c = chan0 := by
    intro c hc
    rw [h1]
    refine fold_at id _ (fun _ => chan0) c (Touches 2147488804 d) ?_ ?_ c rfl ?_ _ (by rw [hmap]; exact List.nodup_finRange 88) (List.mem_finRange c) d (Touches.same d)
    · intro e a q; split
      · rfl
      · rw [updCh_ch, if_neg (fun w => q w.symm)]
    · intro e a q; split
      · exact q
      · simpa [Device.updCh] using q
    · intro e q
      rw [(scan_of q).1, hc, if_neg (by decide), updCh_ch, if_pos rfl]
  have present : ∀ c, d.chPresent c = true → d1.ch c = d.ch c := by
    intro c hc
    rw [h1]
    refine fold_at id _ (fun p => p) c (Touches 2147488804 d) ?_ ?_ c rfl ?_ _ (by rw [hmap]; exact List.nodup_finRange 88) (List.mem_finRange c) d (Touches.same d)
    · intro e a q; split
      · rfl
      · rw [updCh_ch, if_neg (fun w => q w.symm)]
    · intro e a q; split
      · exact q
      · simpa [Device.updCh] using q
    · intro e q
      rw [(scan_of q).1, hc, if_pos rfl]
  have duePresent : ∀ c, d.chDue d.thm.frame c = true → d.chPresent c = true := fun c q => by unfold Device.chDue at q; rw [Bool.and_eq_true] at q; exact q.1
  -- channels that are not due
  have out4 : ∀ c, d.chDue d.thm.frame c = false → d4.ch c = d1.ch c := by
    intro c hc
    have no : ∀ a ∈ due, a ≠ c := fun a ha q => by rw [mem, q, hc] at ha; exact absurd ha (by decide)
    have nb : ∀ a ∈ br, a.1 ≠ c := by
      intro a ha
      rw [← hbr, List.mem_filterMap] at ha
      obtain ⟨y, hy, q⟩ := ha
      cases hq : d3.breakOf y with
      | none => rw [hq] at q; exact absurd q (by simp)
      | some b => rw [hq] at q; injection q with q; rw [← q]; exact no y hy
    rw [h4, fold_out (·.1) _ c (fun e a q => chBreak_other e a.1 c _ _ q) br d3 nb, h3, fold_out id _ c (fun e a q => crossCheck_other e a c q) due d2b no, ch_of fb.2, h2,
      fold_out id _ c (fun e a q => by rw [updCh_ch, if_neg (fun w => q w.symm)]) due d1 no]
  have out6 : ∀ c, d.chDue d.thm.frame c = false → d6.ch c = d5.ch c := by
    intro c hc
    have no : ∀ a ∈ due, a ≠ c := fun a ha q => by rw [mem, q, hc] at ha; exact absurd ha (by decide)
    rw [h6]; exact fold_out id _ c (fun e a q => (judge_both e a c).2 q) due d5 no
  have calm5 : ∀ c, (d4.ch c).st ≠ .standin → (d4.ch c).st ≠ .novalue → d5.ch c = d4.ch c := by
    intro c p q
    rw [h5]
    have : ∀ (l : List (Fin 88)) (y : Device), y.ch c = d4.ch c → (l.foldl (fun d c => d.standinCheck c) y).ch c = d4.ch c := by
      intro l
      induction l with
      | nil => exact fun y hy => hy
      | cons a r ih =>
        intro y hy
        refine ih _ ?_
        by_cases e : a = c
        · subst e; rw [standin_other y a a (.inr (by rw [hy]; exact ⟨p, q⟩))]; exact hy
        · rw [standin_other y a c (.inl e)]; exact hy
    exact this _ _ rfl
  have alone5 : ∀ c, d.chGroup c = 31 → (d4.ch c).st ≠ .standin → d5.ch c = d4.ch c := by
    intro c g p
    rw [h5]
    have : ∀ (l : List (Fin 88)) (y : Device), Touches 2147488804 d y → y.ch c = d4.ch c → (l.foldl (fun d c => d.standinCheck c) y).ch c = d4.ch c := by
      intro l
      induction l with
      | nil => exact fun y _ hy => hy
      | cons a r ih =>
        intro y ty hy
        refine ih _ (by simpa using ty) ?_
        rw [standin_alone y a c (by rw [(scan_of ty).2.1]; exact g) (by rw [hy]; exact p)]; exact hy
    exact this _ _ t4 rfl
  -- deratings and the end
  have r1 : d1.thm.rest = d.thm.rest := by rw [h1]; exact rest_fold _ _ _ (fun e a => by split <;> rfl)
  have r2 : d2.thm.rest = d1.thm.rest := by rw [h2]; exact rest_fold _ _ _ (fun _ _ => rfl)
  have r3 : d3.thm.rest = d2.thm.rest := by rw [h3, rest_fold (fun (d : Device) c => d.crossCheck c) due d2b (fun _ _ => rfl), fb.2]
  have r4 : d4.thm.rest = d3.thm.rest := by rw [h4]; exact rest_fold _ _ _ (fun e a => chBreak_rest e a.1 _ _)
  have r5 : d5.thm.rest = d4.thm.rest := by rw [h5]; exact rest_fold _ _ _ standin_rest
  have r6 : d6.thm.rest = d.thm.rest := by rw [h6, rest_fold _ _ _ judge_rest, r5, r4, r3, r2, r1]
  have N : ∀ {z : Device} {α : Type} (l : List α) (f : Device → α → Device) (y : Device), (∀ e a, Touches 2147488772 z (f e a) ↔ Touches 2147488772 z e) → Touches 2147488772 z y →
      Touches 2147488772 z (l.foldl f y) := fun l f y hf hy => (touches_foldl _ _ _ hf).2 hy
  have pa : Touches 2147488772 d d2 := by
    rw [h2, h1]; exact N _ _ _ (fun e a => by simp) (N _ _ _ (fun e a => by split <;> simp) (Touches.same d))
  have pb : Touches 2147488772 d2b d6 := by
    rw [h6, h5, h4, h3]
    exact N _ _ _ (fun e a => by simp) (N _ _ _ (fun e a => by simp) (N _ _ _ (fun e a => Device.chBreak_touch _ _ _ _ (by decide)) (N _ _ _ (fun e a => by simp) (Touches.same d2b))))
  have p6 : ∀ k, (d6.ph k).own = (d.ph k).own := fun k => by
    have q : (d6.ph k) = d2b.ph k := by unfold Device.ph; rw [pb .phase (by decide)]
    have w : (d2.ph k) = d.ph k := by unfold Device.ph; rw [pa .phase (by decide)]
    rw [q, fb.1, w]
  have h7' : d7.thm.chan = d6.thm.chan ∧ d7.thm.frame = d6.thm.frame ∧ ∀ n : Fin 16, (∀ k, (d.ph k).own = some n → d.chDue d.thm.frame (tmonChan k) = false) →
      d7.thm.frac[n] = d6.thm.frac[n] ∧ d7.thm.iDer[n] = d6.thm.iDer[n] := by
    rw [h7]
    refine foldFin_inv (fun e => e.thm.chan = d6.thm.chan ∧ e.thm.frame = d6.thm.frame ∧ ∀ n : Fin 16, (∀ k, (d.ph k).own = some n → d.chDue d.thm.frame (tmonChan k) = false) →
      e.thm.frac[n] = d6.thm.frac[n] ∧ e.thm.iDer[n] = d6.thm.iDer[n]) _ d6 ⟨rfl, rfl, fun _ _ => ⟨rfl, rfl⟩⟩ ?_
    intro e m q
    split
    · rename_i hm
      obtain ⟨q1, q2, q3⟩ := q
      have dd := derate_chan e m
      refine ⟨dd.1.trans q1, (derate_frame e m).trans q2, fun n hn => ?_⟩
      have hne : n ≠ m := by
        rintro rfl
        rw [List.any_eq_true] at hm
        obtain ⟨c, hc, hw⟩ := hm
        cases hk : tmonPhase c with
        | none => rw [hk] at hw; exact absurd hw (show ¬ (false = true) by decide)
        | some k =>
          rw [hk] at hw
          dsimp only at hw
          rw [p6] at hw
          have hkc : tmonChan k = c := by
            unfold tmonPhase at hk
            split at hk
            · injection hk with hk
              rw [← hk]
              apply Fin.ext
              show c.val - 8 + 8 = c.val
              omega
            · exact absurd hk (by simp)
          have := hn k (by simpa using hw)
          rw [hkc] at this
          rw [(mem c).1 hc] at this
          exact absurd this (by decide)
      exact ⟨((dd.2 n hne).1).trans (q3 n hn).1, ((dd.2 n hne).2).trans (q3 n hn).2⟩
    · exact q
  have ht : ∀ (y : Device), (y.syncState 0x048 y.thmCode 0x02 byHw).thm = y.thm := fun y => keeps_thm (by simp)
  have c7 : ∀ c, (d.thermalFrame x).ch c = d6.ch c := by
    intro c
    rw [h8]
    unfold Device.ch
    rw [ht]
    show d7.thm.chan[c] = _
    rw [h7'.1]
  have hf : d6.thm.frame = d.thm.frame ∧ d6.thm.frac = d.thm.frac ∧ d6.thm.iDer = d.thm.iDer := by
    unfold Thermal.rest at r6
    injection r6 with a b
    injection b with b c
    exact ⟨a, b, c⟩
  refine ⟨?_, ?_, ?_, ?_, ?_, ?_⟩
  · rw [h8, ht]
    show d7.thm.frame + 1 = _
    rw [h7'.2.1, hf.1]
  · rw [h8]
    have q : ∀ y : Device, ((y.syncState 0x048 y.thmCode 0x02 byHw).head (pg 0x048)).cur = (y.syncState 0x048 y.thmCode 0x02 byHw).thmCode := by
      intro y
      refine (sync_cur y (pg 0x048) _ _ _).trans ?_
      unfold Device.thmCode
      rw [show (y.syncState 0x048 _ 0x02 byHw).thm = y.thm from keeps_thm (by simp)]
    exact q _
  · intro c hc
    have no : d.chDue d.thm.frame c = false := by
      cases q : d.chDue d.thm.frame c
      · rfl
      · rw [duePresent c q] at hc; exact absurd hc (by decide)
    have a : d4.ch c = chan0 := (out4 c no).trans (absent c hc)
    rw [c7, out6 c no, calm5 c (by rw [a]; decide) (by rw [a]; decide), a]
  · intro c hp hc q1 q2
    have a : d4.ch c = d.ch c := (out4 c hc).trans (present c hp)
    rw [c7, out6 c hc, calm5 c (by rw [a]; exact q1) (by rw [a]; exact q2), a]
  · intro c hc hg q1 q2
    have hp := duePresent c hc
    have hcd := (mem c).2 hc
    have a2 : d2.ch c = { (d.ch c).take (d.chSample c x).1 (d.chSample c x).2 with siHeld := d.siOfs c } := by
      rw [h2, ← present c hp]
      refine fold_at id _ (fun p => { p.take (d.chSample c x).1 (d.chSample c x).2 with siHeld := d.siOfs c }) c (Touches 2147488804 d) ?_ ?_ c rfl ?_ _ (by rw [hmap]; exact nod) hcd d1 t1
      · intro e a q; rw [updCh_ch, if_neg (fun w => q w.symm)]
      · intro e a q; simpa using q
      · intro e q; rw [updCh_ch, if_pos rfl, (scan_of q).2.2.1, (scan_of q).2.2.2.2]
    have a3 : d3.ch c = { d2.ch c with xCnt := 0 } := by
      rw [h3, show d2.ch c = d2b.ch c from (ch_of fb.2 c).symm]
      refine fold_at id _ (fun p => { p with xCnt := 0 }) c (Touches 2147488804 d) ?_ ?_ c rfl ?_ _ (by rw [hmap]; exact nod) hcd d2b t2b
      · exact fun e a q => crossCheck_other e a c q
      · intro e a q; simpa using q
      · intro e q; exact cross_alone e c (by rw [(scan_of q).2.1]; exact hg)
    have tk : (∀ v, (d.chSample c x).1 = some v → (d2.ch c).st = .valid ∧ (d2.ch c).val = v ∧ (d2.ch c).broken = (d.ch c).broken) ∧
        ((d.chSample c x).1 = none → (d.ch c).st = .valid → (d2.ch c).st = .hold ∧ (d2.ch c).outCnt = 1 ∧ (d2.ch c).val = (d.ch c).val ∧ (d2.ch c).plaus = (d.ch c).plaus) := by
      rw [a2]
      exact take_core (d.ch c) (d.chSample c x).1 (d.chSample c x).2 q1 q2
    have b6 : (d6.ch c).bare = (d5.ch c).bare := by
      rw [h6]
      have : ∀ (l : List (Fin 88)) (y : Device), ((l.foldl (fun d c => d.judgeChan c) y).ch c).bare = (y.ch c).bare := by
        intro l
        induction l with
        | nil => exact fun _ => rfl
        | cons a r ih => exact fun y => (ih _).trans (judge_both y a c).1
      exact this _ _
    have keys : (br.map (·.1)).Nodup := by
      have : ∀ l : List (Fin 88), l.Nodup → (((l.filterMap fun c => (d3.breakOf c).map fun b => (c, b))).map (·.1)).Nodup ∧
          ∀ a ∈ ((l.filterMap fun c => (d3.breakOf c).map fun b => (c, b))).map (·.1), a ∈ l := by
        intro l
        induction l with
        | nil => exact fun _ => ⟨List.nodup_nil, fun a h => h⟩
        | cons a r ih =>
          intro hl
          rw [List.nodup_cons] at hl
          have := ih hl.2
          rw [List.filterMap_cons]
          cases hq : d3.breakOf a with
          | none => exact ⟨this.1, fun y hy => List.mem_cons_of_mem _ (this.2 y hy)⟩
          | some b =>
            dsimp only [Option.map_some]
            rw [List.map_cons, List.nodup_cons]
            refine ⟨⟨fun hm => hl.1 (this.2 _ hm), this.1⟩, fun y hy => ?_⟩
            rcases List.mem_cons.1 hy with e | e
            · rw [e]; exact List.mem_cons_self
            · exact List.mem_cons_of_mem _ (this.2 y e)
      rw [← hbr]; exact (this due nod).1
    have whole : d3.breakOf c = none → d4.ch c = d3.ch c := by
      intro hb
      rw [h4]
      refine fold_out (·.1) _ c (fun e a q => chBreak_other e a.1 c _ _ q) br d3 ?_
      intro a ha q
      rw [← hbr, List.mem_filterMap] at ha
      obtain ⟨y, hy, w⟩ := ha
      cases hq : d3.breakOf y with
      | none => rw [hq] at w; exact absurd w (by simp)
      | some b =>
        rw [hq] at w
        injection w with w
        rw [← w] at q
        dsimp only at q
        rw [← q, hq] at hb
        exact absurd hb (by simp)
    have xz : (d3.ch c).xCnt = 0 := by rw [a3]
    have thm3 : d3.thmCfg = d.thmCfg := (scan_of t3).2.2.2.1
    constructor
    · intro v hv
      obtain ⟨w1, w2, w3⟩ := tk.1 v hv
      have hb : d3.breakOf c = none := by
        unfold Device.breakOf
        dsimp only
        rw [xz, a3]
        dsimp only
        rw [w1, if_neg (by simp), if_neg (by
          rw [Bool.and_eq_true]
          rintro ⟨_, q⟩
          have := of_decide_eq_true q
          omega)]
      have e4 := whole hb
      have e5 : d5.ch c = d4.ch c := alone5 c hg (by rw [e4, a3]; dsimp only; rw [w1]; decide)
      rw [e5, e4, a3] at b6
      unfold Chan.bare at b6
      dsimp only at b6
      rw [← c7] at b6
      injection b6 with b1 b6
      injection b6 with b2 b6
      injection b6 with b3 b6
      injection b6 with b4 b6
      exact ⟨b1.trans w1, b2.trans w2, b4.trans w3⟩
    · intro hv hst
      obtain ⟨w1, w2, w3, w4⟩ := tk.2 hv hst
      constructor
      · intro hm
        have hb : d3.breakOf c = some false := by
          unfold Device.breakOf
          dsimp only
          rw [a3, thm3]
          dsimp only
          rw [w1, w2, if_pos (by
            rw [Bool.and_eq_true]
            exact ⟨rfl, decide_eq_true (by omega)⟩)]
        have e4 : d4.ch c = { d3.ch c with st := .novalue, broken := true, plaus := false, inCnt := 0, xCnt := 0 } := by
          rw [h4]
          refine fold_at (·.1) _ (fun p => { p with st := .novalue, broken := true, plaus := false, inCnt := 0, xCnt := 0 }) c (Touches 2147488804 d) ?_ ?_ (c, false) rfl ?_ _ keys ?_ d3 t3
          · exact fun e a q => chBreak_other e a.1 c _ _ q
          · intro e a q; simpa using q
          · intro e q; exact chBreak_alone e c false _ (by rw [(scan_of q).2.1]; exact hg)
          · rw [← hbr, List.mem_filterMap]
            exact ⟨c, hcd, by rw [hb]; rfl⟩
        have e5 : d5.ch c = d4.ch c := alone5 c hg (by rw [e4]; exact fun w => nomatch w)
        rw [e5, e4] at b6
        unfold Chan.bare at b6
        dsimp only at b6
        rw [← c7] at b6
        injection b6 with b1 b6
        injection b6 with b2 b6
        injection b6 with b3 b6
        injection b6 with b4 b6
        injection b6 with b5 b6
        exact ⟨b1, b4, b5⟩
      · intro hm
        have hb : d3.breakOf c = none := by
          unfold Device.breakOf
          dsimp only
          rw [xz, a3, thm3]
          dsimp only
          rw [w1, w2, if_neg (by
            rw [Bool.and_eq_true]
            rintro ⟨_, q⟩
            have := of_decide_eq_true q
            omega), if_neg (by simp)]
        have e4 := whole hb
        have e5 : d5.ch c = d4.ch c := alone5 c hg (by rw [e4, a3]; dsimp only; rw [w1]; decide)
        rw [e5, e4, a3] at b6
        unfold Chan.bare at b6
        dsimp only at b6
        rw [← c7] at b6
        injection b6 with b1 b6
        injection b6 with b2 b6
        injection b6 with b3 b6
        injection b6 with b4 b6
        injection b6 with b5 b6
        exact ⟨b1.trans w1, b6.trans w2, b2.trans w3⟩
  · intro n hn
    have := h7'.2.2 n hn
    rw [h8, ht]
    show d7.thm.frac[n] = _ ∧ d7.thm.iDer[n] = _
    rw [this.1, this.2]
    exact ⟨by rw [hf.2.1], by rw [hf.2.2]⟩

theorem thmClear_facts (d : Device) (c : Fin 88) (who : Nat) : let e := d.thmClear c who
    e.thm.rest = d.thm.rest ∧ (∀ j, j ≠ c → e.ch j = d.ch j) ∧
    (∀ v, (d.ch c).latest = some v → (d.ch c).st = .standin ∨ (d.ch c).st = .novalue → (d.ch c).plaus = true →
      e.ch c = { d.ch c with st := .valid, val := v, broken := false, plaus := false } ∧ (e.head (pg 0x048)).cur = e.thmCode) ∧
    ((d.ch c).latest = none ∨ (d.ch c).plaus = false ∨ ((d.ch c).st ≠ .standin ∧ (d.ch c).st ≠ .novalue) → e.ch c = d.ch c) := by
  have ht : ∀ (y : Device) n, (y.syncState 0x048 n 0x01 who).thm = y.thm := fun y n => keeps_thm (by simp)
  dsimp only
  unfold Device.thmClear
  dsimp only
  cases hl : (d.ch c).latest with
  | none => exact ⟨rfl, fun _ _ => rfl, fun v h => (nomatch h), fun _ => rfl⟩
  | some v =>
    dsimp only
    by_cases hb : (((d.ch c).st == .standin || (d.ch c).st == .novalue) && (d.ch c).plaus) = true
    · rw [if_pos hb]
      generalize hy : d.updCh c _ = y
      have yr : y.thm.rest = d.thm.rest := by rw [← hy]; rfl
      have yc : ∀ j, y.ch j = if j = c then { d.ch c with st := .valid, val := v, broken := false, plaus := false } else d.ch j := fun j => by rw [← hy]; exact updCh_ch _ _ _ _
      refine ⟨by rw [ht]; exact yr, fun j hj => by rw [ch_of (ht y _), yc, if_neg hj], fun u hu _ _ => ⟨?_, ?_⟩, fun h => ?_⟩
      · injection hu with hu
        rw [ch_of (ht y _), yc, if_pos rfl, hu]
        simp only [hl, hu]
      · refine (sync_cur y (pg 0x048) _ _ _).trans ?_
        unfold Device.thmCode
        rw [ht]
      · exfalso
        rw [Bool.and_eq_true] at hb
        rcases h with h | h | h
        · exact absurd h (by simp)
        · rw [h] at hb; exact absurd hb.2 (by decide)
        · revert hb h; cases (d.ch c).st <;> simp
    · rw [if_neg hb]
      refine ⟨rfl, fun _ _ => rfl, fun u _ h1 h2 => absurd ?_ hb, fun _ => rfl⟩
      rw [h2]
      rcases h1 with h1 | h1 <;> rw [h1] <;> rfl

theorem forces_flt (d b : Device) : (d.applyForces b).flt = d.flt := keeps_flt (by simp)

theorem fltRecord_flt (d : Device) (c : Fin 64) (p : Nat) (w : Word) (o : Bool) : let e := d.fltRecord c p w o
    e.flt.stat = d.flt.stat ||| BitVec.ofNat 64 (2 ^ c.val) ∧ e.flt.seq = (d.flt.seq + 1) % 65536 ∧ e.ts = d.ts ∧
    e.flt.number = (if o then (d.flt.number + 1) % 65536 else d.flt.number) ∧
    e.flt.first = (if o then flag 31 true ||| field 29 24 c.val ||| field 23 16 p ||| field 15 0 ((d.flt.number + 1) % 65536) else d.flt.first) ∧
    e.flt.firstTs = if o then d.ts % 2 ^ 48 else d.flt.firstTs := by
  have h1 : ∀ (y : Device) n w m, ((y.raise 9 w).pmcCountAll n m).flt = y.flt ∧ ((y.raise 9 w).pmcCountAll n m).ts = y.ts := fun y n w m => ⟨keeps_flt (by simp), keeps_ts (by simp)⟩
  have h2 : ∀ (y : Device) f w a b, ((((y.dayDev f).rushTrigger 3 a).raise 8 w).msix b).flt = y.flt ∧ ((((y.dayDev f).rushTrigger 3 a).raise 8 w).msix b).ts = y.ts := fun y f w a b => ⟨keeps_flt (by simp), keeps_ts (by simp)⟩
  unfold Device.fltRecord
  dsimp only
  cases o
  · simp only [Bool.false_eq_true, if_false]
    rw [(h1 _ _ _ _).1, (h1 _ _ _ _).2]
    exact ⟨rfl, rfl, rfl, rfl, rfl, rfl⟩
  · simp only [if_true]
    rw [(h2 _ _ _ _ _).1, (h2 _ _ _ _ _).2, (h1 _ _ _ _).1, (h1 _ _ _ _).2]
    exact ⟨rfl, rfl, rfl, rfl, rfl, rfl⟩

/-- The records after the first open no incident. -/
theorem fltRecords (l : List (Fin 64 × Nat × Word)) (d : Device) (o : Bool) (m : Nat) (hm : o = true → m ≠ 0) :
    let e := (l.zip (List.range' m l.length)).foldl (fun d x => d.fltRecord x.1.1 x.1.2.1 x.1.2.2 (o && x.2 == 0)) d
    e.flt.stat = l.foldl (fun w e => w ||| BitVec.ofNat 64 (2 ^ e.1.val)) d.flt.stat ∧ (l ≠ [] ∨ d.flt.seq < 65536 → e.flt.seq = (d.flt.seq + l.length) % 65536) ∧
      e.flt.number = d.flt.number ∧ e.flt.first = d.flt.first ∧ e.flt.firstTs = d.flt.firstTs := by
  induction l generalizing d m with
  | nil => exact ⟨rfl, fun h => by rcases h with h | h; exact absurd rfl h; exact (Nat.mod_eq_of_lt h).symm, rfl, rfl, rfl⟩
  | cons a r ih =>
    have hf : (o && m == 0) = false := by
      cases o
      · rfl
      · simpa using hm rfl
    obtain ⟨a1, a2, a3, a4, a5, a6⟩ := fltRecord_flt d a.1 a.2.1 a.2.2 (o && m == 0)
    obtain ⟨i1, i2, i3, i4, i5⟩ := ih (d.fltRecord a.1 a.2.1 a.2.2 (o && m == 0)) (m + 1) (fun _ => Nat.succ_ne_zero m)
    rw [hf] at a1 a2 a3 a4 a5 a6 i1 i2 i3 i4 i5
    simp only [Bool.false_eq_true, if_false] at a4 a5 a6
    dsimp only
    rw [List.length_cons, List.range'_succ, List.zip_cons_cons, List.foldl_cons, List.foldl_cons, hf]
    refine ⟨i1.trans (by rw [a1]), fun _ => ?_, i3.trans a4, i4.trans a5, i5.trans a6⟩
    rw [i2 (.inr (by rw [a2]; exact Nat.mod_lt _ (by decide))), a2]
    omega

theorem latch_facts (d : Device) : let e := d.faultLatch
    let evs := (List.finRange 64).flatMap fun c => (d.latchEvents c d.linesNow).map fun e => (c, e)
    e.flt.stat = evs.foldl (fun w e => w ||| BitVec.ofNat 64 (2 ^ e.1.val)) d.flt.stat ∧ e.flt.inject = false ∧
        e.flt.line = d.linesNow &&& ~~~(BitVec.ofNat 64 (2 ^ 63)) ∧
        (evs = [] → e.flt.hist = d.flt.hist ∧ e.flt.seq = d.flt.seq ∧ e.flt.number = d.flt.number ∧ e.flt.first = d.flt.first) ∧
        (∀ x r, evs = x :: r → e.flt.seq = (d.flt.seq + evs.length) % 65536 ∧
          (d.flt.stat = 0 → e.flt.number = (d.flt.number + 1) % 65536 ∧ e.flt.firstTs = d.ts % 2 ^ 48 ∧
            e.flt.first = (flag 31 true ||| field 29 24 x.1.val ||| field 23 16 x.2.1 ||| field 15 0 ((d.flt.number + 1) % 65536))) ∧
          (d.flt.stat ≠ 0 → e.flt.number = d.flt.number ∧ e.flt.firstTs = d.flt.firstTs ∧ e.flt.first = d.flt.first)) := by
  dsimp only
  generalize hev : ((List.finRange 64).flatMap fun c => (d.latchEvents c d.linesNow).map fun e => (c, e)) = evs
  have hx : ∃ y : Device, y = (evs.zip (List.range evs.length)).foldl (fun e x => e.fltRecord x.1.1 x.1.2.1 x.1.2.2 (decide (d.flt.stat = 0) && x.2 == 0)) d ∧
      d.faultLatch.flt = { y.flt with line := d.linesNow &&& ~~~(BitVec.ofNat 64 (2 ^ 63)), inject := false, seen := Vector.ofFn fun p => y.unmasked p } := by
    refine ⟨_, rfl, ?_⟩
    unfold Device.faultLatch
    dsimp only
    rw [hev]
    generalize (evs.zip (List.range evs.length)).foldl _ d = y
    have hs : ∀ (z : Device) c a b, (z.syncState fltPage c a b).flt = z.flt := fun z c a b => keeps_flt (by simp)
    have hq : ∀ (z : Device) a b, (z.sceneRequest a 2 b).flt = z.flt := fun z a b => keeps_flt (by simp)
    rw [hs]
    split
    · rw [forces_flt]
    · rw [hq, forces_flt]
  obtain ⟨y, hy, hfl⟩ := hx
  rw [hfl]
  dsimp only
  cases evs with
  | nil =>
    have : y = d := hy
    rw [this]
    exact ⟨rfl, rfl, rfl, fun _ => ⟨rfl, rfl, rfl, rfl⟩, fun x r h => nomatch h⟩
  | cons a r =>
    rw [List.length_cons, List.range_eq_range', List.range'_succ, List.zip_cons_cons, List.foldl_cons] at hy
    dsimp only at hy
    obtain ⟨a1, a2, a3, a4, a5, a6⟩ := fltRecord_flt d a.1 a.2.1 a.2.2 (decide (d.flt.stat = 0) && (0 : Nat) == 0)
    obtain ⟨i1, i2, i3, i4, i5⟩ := fltRecords r (d.fltRecord a.1 a.2.1 a.2.2 (decide (d.flt.stat = 0) && (0 : Nat) == 0)) (decide (d.flt.stat = 0)) (0 + 1) (fun _ => by decide)
    rw [← hy] at i1 i2 i3 i4 i5
    have hb : (decide (d.flt.stat = 0) && (0 : Nat) == 0) = decide (d.flt.stat = 0) := by simp
    rw [hb] at *
    refine ⟨?_, rfl, rfl, fun h => (nomatch h), fun x q hxr => ?_⟩
    · rw [List.foldl_cons, i1, a1]
    · injection hxr with h1 h2
      subst h1
      refine ⟨?_, fun h0 => ?_, fun h0 => ?_⟩
      · rw [i2 (.inr (by rw [a2]; exact Nat.mod_lt _ (by decide))), a2, List.length_cons]; omega
      · rw [if_pos (show (decide (d.flt.stat = 0) && (0 : Nat) == 0) = true by rw [decide_eq_true h0]; rfl)] at a4 a5 a6
        exact ⟨i3.trans a4, i5.trans a6, i4.trans a5⟩
      · rw [if_neg (show ¬ (decide (d.flt.stat = 0) && (0 : Nat) == 0) = true by rw [decide_eq_false h0]; decide)] at a4 a5 a6
        exact ⟨i3.trans a4, i5.trans a6, i4.trans a5⟩

theorem clear_facts (d : Device) (w : BitVec 64) (who : Nat) : let e := d.faultClear w who
    let lines := ({ d with ao := { d.ao with clkFail := d.ao.clkFail && !w.getLsbD 56 } } : Device).linesNow
    e.flt.stat = d.flt.stat &&& ~~~(w &&& ~~~lines) ∧ e.flt.line = d.flt.line &&& lines ∧ e.ao.clkFail = (d.ao.clkFail && !w.getLsbD 56) ∧
        e.flt.hist = d.flt.hist ∧ e.flt.number = d.flt.number ∧ e.flt.cnt = d.flt.cnt := by
  dsimp only
  generalize hy : ({ d with ao := { d.ao with clkFail := d.ao.clkFail && !w.getLsbD 56 } } : Device) = y
  have e0 : (if w.getLsbD 56 then { d with ao := { d.ao with clkFail := false } } else d : Device) = y := by
    rw [← hy]
    cases w.getLsbD 56 <;> simp
  have f0 : y.flt = d.flt ∧ y.ao.clkFail = (d.ao.clkFail && !w.getLsbD 56) := by rw [← hy]; exact ⟨rfl, rfl⟩
  unfold Device.faultClear
  dsimp only
  rw [e0]
  have hs : ∀ (z : Device) c a b, (z.syncState fltPage c a b).flt = z.flt ∧ (z.syncState fltPage c a b).ao = z.ao := fun z c a b => ⟨keeps_flt (by simp), keeps_ao (by simp)⟩
  have hr : ∀ (z : Device) w, (z.raise 10 w).flt = z.flt ∧ (z.raise 10 w).ao = z.ao := fun z w => ⟨keeps_flt (by simp), keeps_ao (by simp)⟩
  have ha : ∀ (z b : Device), (z.applyForces b).ao = z.ao := fun z b => keeps_ao (by simp)
  rw [(hs _ _ _ _).1, (hs _ _ _ _).2, forces_flt, ha]
  rw [← f0.1, ← f0.2]
  have bv : ∀ a b l : BitVec 64, a &&& ~~~(b &&& ~~~l &&& a) = a &&& ~~~(b &&& ~~~l) := by
    intro a b l
    apply BitVec.eq_of_getLsbD_eq
    intro i hi
    simp only [BitVec.getLsbD_and, BitVec.getLsbD_not]
    cases a.getLsbD i <;> cases b.getLsbD i <;> cases l.getLsbD i <;> simp [hi]
  have hp : ∀ z : Device, (z.flt.stat = y.flt.stat &&& ~~~(w &&& ~~~y.linesNow &&& y.flt.stat) ∧ z.flt.line = y.flt.line &&& y.linesNow ∧ z.ao.clkFail = y.ao.clkFail ∧
        z.flt.hist = y.flt.hist ∧ z.flt.number = y.flt.number ∧ z.flt.cnt = y.flt.cnt) → z.flt.stat = y.flt.stat &&& ~~~(w &&& ~~~y.linesNow) ∧ z.flt.line = y.flt.line &&& y.linesNow ∧
        z.ao.clkFail = y.ao.clkFail ∧ z.flt.hist = y.flt.hist ∧ z.flt.number = y.flt.number ∧ z.flt.cnt = y.flt.cnt := fun z h => by rw [← bv]; exact h
  apply hp
  split
  · rw [(hr _ _).1, (hr _ _).2]; exact ⟨rfl, rfl, rfl, rfl, rfl, rfl⟩
  · exact ⟨rfl, rfl, rfl, rfl, rfl, rfl⟩

theorem fall_facts (d : Device) (c : Fin 64) :
    (d.flt.line.getLsbD c.val = true → d.lineNow c = false → (d.faultLineFall c).flt.line = d.flt.line &&& ~~~(BitVec.ofNat 64 (2 ^ c.val)) ∧
      (d.faultLineFall c).flt.stat = d.flt.stat ∧ (d.faultLineFall c).flt.hist = d.flt.hist) ∧
    (d.flt.line.getLsbD c.val = false ∨ d.lineNow c = true → d.faultLineFall c = d) := by
  unfold Device.faultLineFall
  dsimp only
  constructor
  · intro h1 h2
    rw [h1, h2, if_pos (by decide), forces_flt]
    exact ⟨rfl, rfl, rfl⟩
  · intro h
    rw [if_neg]
    rcases h with h | h <;> rw [h] <;> simp

theorem live_next (s : State) (f : Device → Device) (h : s.dev.live = true) :
    (s.onDev fun d => d.whenLive fun d => f d) = .next { s with dev := f s.dev } := by
  show Host.Outcome.next ({ s with dev := s.dev.whenLive f } : State) = _
  rw [whenLive_on h]

theorem efi_bits (v : BitVec 8) (m j : Fin 8) (act : Bool) :
    ((if act then v ||| BitVec.ofNat 8 (2 ^ m.val) else v &&& ~~~(BitVec.ofNat 8 (2 ^ m.val))) : BitVec 8).getLsbD j.val = if j = m then act else v.getLsbD j.val := by
  have h : (BitVec.ofNat 8 (2 ^ m.val)).getLsbD j.val = decide (j = m) := by
    rw [BitVec.getLsbD_ofNat, Nat.testBit_two_pow]
    have := j.isLt
    simp only [this, decide_true, Bool.true_and]
    by_cases e : j = m
    · subst e; simp
    · rw [decide_eq_false e, decide_eq_false (fun q => e (Fin.ext q.symm))]
  cases act
  · simp only [Bool.false_eq_true, if_false]
    rw [BitVec.getLsbD_and, BitVec.getLsbD_not, h]
    by_cases e : j = m <;> simp [e]
  · simp only [if_true]
    rw [BitVec.getLsbD_or, h]
    by_cases e : j = m <;> simp [e]

theorem flt_write (s : State) (src : Source) (o : Nat) (be : BitVec 4) (data : Word) (ho : o = 0x040 ∨ o = 0x044 ∨ o = 0x06C) (hb : alignedBe be = true)
    (hq : s.dev.takes src (pageAddr 0x050 o) (byteMask be) data = true) :
    s.dev.busWrite s.fuses src (pageAddr 0x050 o) be data {} = (s.dev.arrive src (pageAddr 0x050 o)).fltWrite ((s.dev.arrive src (pageAddr 0x050 o)).requester src) o (byteMask be) data := by
  have hw := Device.busWrite_page s.dev s.fuses src 0x050 o be data {} hq (by decide) hb (by rcases ho with e | e | e <;> rw [e] <;> decide) (by rcases ho with e | e | e <;> rw [e])
    (Or.inr (by rcases ho with e | e | e <;> rw [e] <;> decide))
  exact hw

end Sys2Proof.Machine
end

