-- ==== Sys2Proof/Laws/Watchdog.lean ====
section
/-! SUPPORT. Watchdogs: what time, arming, a window, a service, an expiry and a trip do. -/

namespace Sys2Proof.Machine
open Sys2Proof

theorem wd_of {d e : Device} (h : e.wdt = d.wdt) (k : Fin 9) : e.wd k = d.wd k := by unfold Device.wd; rw [h]

theorem wdtTo_wd (d : Device) (k : Fin 9) (st c w) : (d.wdtTo k st c w).wd = (d.updWd k fun x => { x with prev := x.st, st := st }).wd := by
  funext j
  unfold Device.wdtTo
  exact wd_of (keeps_wdt (by simp)) j

/-- What a window begins with, and what it leaves. -/
theorem wdtWindow_wd (d : Device) (k : Fin 9) (n : Nat) : let x := (d.wdtWindow k n).wd k
    x.tick = 0 ∧ x.served = false ∧ x.wcnt = n % 65536 ∧ x.done = 0 ∧ x.answered = false ∧ x.win = d.wdtReg k 0x040 ∧ x.cfg = d.wdtReg k 0x044 ∧ x.seed = (d.wd k).seedReg ∧
      x.st = (d.wd k).st ∧ x.prev = (d.wd k).prev ∧ x.armlatch = (d.wd k).armlatch ∧ x.trips = (d.wd k).trips ∧ x.warns = (d.wd k).warns ∧ x.exprec = (d.wd k).exprec ∧
      x.expWcnt = (d.wd k).expWcnt := by
  unfold Device.wdtWindow
  dsimp only
  split
  · split
    · rw [Device.wd_updWd, Device.wd_updWd]
      exact ⟨rfl, rfl, rfl, rfl, rfl, rfl, rfl, rfl, rfl, rfl, rfl, rfl, rfl, rfl, rfl⟩
    · rw [Device.wd_updWd, Device.wd_updWd]
      exact ⟨rfl, rfl, rfl, rfl, rfl, rfl, rfl, rfl, rfl, rfl, rfl, rfl, rfl, rfl, rfl⟩
  · rw [Device.wd_updWd]
    exact ⟨rfl, rfl, rfl, rfl, rfl, rfl, rfl, rfl, rfl, rfl, rfl, rfl, rfl, rfl, rfl⟩

/-- Time that ends no window. -/
theorem calm_advance (d : Device) (f : OtpArray) (k : Fin 9) (dt : Nat) (h : d.wdtCalm k dt) : ∃ e : Device, d.wdtAdvance f k dt = e ∧ e.wd k = d.wdtNow k dt ∧
    (∀ j, j ≠ k → e.wd j = d.wd j) ∧ Touches 8192 d e := by
  refine ⟨_, rfl, ?_⟩
  unfold Device.wdtAdvance Device.wdtRun Device.wdtNow Device.wdtHolding
  dsimp only
  by_cases ha : ((d.wd k).st.armed && d.boot.up.ao) = true
  · rw [if_pos ha, if_pos ha]
    rw [Bool.and_eq_true] at ha
    have c := h.1 ha.1 ha.2
    by_cases hs : (d.wd k).served = true
    · rw [if_pos hs] at c
      subst c
      rw [if_neg (by simp), if_pos (by simp [hs])]
      exact ⟨Device.wd_updWd _ _ _, fun j hj => Device.wd_updWd_other _ _ hj, by simp⟩
    · rw [if_neg hs] at c
      rw [if_neg (by simp [hs]), if_pos (Bool.or_eq_true_iff.2 (.inl (decide_eq_true c)))]
      exact ⟨Device.wd_updWd _ _ _, fun j hj => Device.wd_updWd_other _ _ hj, by simp⟩
  · rw [if_neg ha, if_neg ha]
    by_cases hh : ((d.wd k).st == .tripped && k.val != 8 && d.boot.up.ao) = true
    · have q := h.2 hh
      unfold Device.wdtHoldTicks at q
      rw [if_pos hh, if_pos hh, if_pos q]
      exact ⟨Device.wd_updWd _ _ _, fun j hj => Device.wd_updWd_other _ _ hj, by simp⟩
    · rw [if_neg hh, if_neg hh]
      exact ⟨rfl, fun _ _ => rfl, Touches.same d⟩

theorem wdtReg_of {d e : Device} (h : e.regs = d.regs) (k : Fin 9) (o : Nat) : e.wdtReg k o = d.wdtReg k o := by unfold Device.wdtReg Device.reg; rw [h]

/-- Arming an instance. -/
theorem armNow_facts (d : Device) (k : Fin 9) (c w : Nat) : let e := d.wdtArmNow k c w
    (∀ j, j ≠ k → e.wd j = d.wd j) ∧ (e.wd k).st = .run ∧ (e.wd k).prev = (d.wd k).st ∧ (e.wd k).armlatch = false ∧ WindowBegins d e k 0 ∧ (d.boot.up.ao = true → e.ao.active = true) ∧
      e.regs = d.regs := by
  have hw := wdtWindow_wd (d.updWd k fun x => { x with armlatch := false }) k 0
  simp only [Device.wd_updWd] at hw
  obtain ⟨h1, h2, h3, h4, h5, h6, h7, h8, h9, h10, h11, h12, h13, h14, h15⟩ := hw
  have e := armNow_wdt d k k c w
  rw [Device.wd_updWd] at e
  refine ⟨fun j hj => armNow_other d k j c w hj, armNow_run d k c w, ?_, ?_, ?_, ?_, armNow_regs d k c w⟩
  · rw [e]; exact h9
  · rw [e]; exact h11
  · unfold WindowBegins
    rw [e]
    exact ⟨h1, h2, h3, h4, h5, h6, h7, h8⟩
  · intro hu
    unfold Device.wdtArmNow
    dsimp only
    have hb : (((d.updWd k fun x => { x with armlatch := false }).wdtWindow k 0).wdtTo k .run c w).boot = d.boot := keeps_boot (by simp)
    generalize ((d.updWd k fun x => { x with armlatch := false }).wdtWindow k 0).wdtTo k .run c w = y at *
    unfold Device.aoWake
    rw [hb, hu]
    cases hq : y.ao.active
    · rw [if_pos (by rfl)]; split <;> rfl
    · exact hq

/-- A taken write of a word of a watchdog page. -/
theorem wdt_write (s : State) (src : Source) (k : Fin 9) (o : Nat) (w : Word) (x : WriteInfo) (ho : o < 0x1000) (h4 : o % 4 = 0) (hh : 0x040 ≤ o)
    (ht : s.dev.takes src (pageAddr (wdtPage k) o) 0xFFFFFFFF w = true) :
    s.dev.busWrite s.fuses src (pageAddr (wdtPage k) o) 0xF w x = (s.dev.arrive src (pageAddr (wdtPage k) o)).wdtWrite s.fuses (s.dev.requester src) k o 0xFFFFFFFF w x := by
  have hp : wdtPage k = 0x054 + k.val := rfl
  have hw := Device.busWrite_page s.dev s.fuses src (wdtPage k) o 0xF w x ht (by rw [hp, blockOf_wdt]; rfl) (by decide) ho h4 (Or.inr hh)
  rw [hw]
  unfold Device.blockWrite
  rw [hp, blockOf_wdt]
  dsimp only
  rw [ofNat_wdt, Device.arrive_requester, byteMask_full]

/-- A write of a watchdog page as it finds instance k after dt ticks that end no window. -/
theorem wdt_arrives (s : State) (src : Source) (k : Fin 9) (o dt : Nat) (w : Word) (h : s.dev.wdtCalm k dt) (ho : o < 0x1000) (h4 : o % 4 = 0) (hh : 0x040 ≤ o)
    (ht : s.dev.takes src (pageAddr (wdtPage k) o) 0xFFFFFFFF w = true) : ∃ A e : Device, A = s.dev.arrive src (pageAddr (wdtPage k) o) ∧ A.wdtAdvance s.fuses k dt = e ∧
      s.dev.busWrite s.fuses src (pageAddr (wdtPage k) o) 0xF w { dt := dt } = A.wdtWrite s.fuses (s.dev.requester src) k o 0xFFFFFFFF w { dt := dt } ∧
      e.wd k = s.dev.wdtNow k dt ∧ (∀ j, j ≠ k → e.wd j = s.dev.wd j) ∧ e.regs = s.dev.regs ∧ e.boot.up = s.dev.boot.up ∧ e.locked (wdtPage k) = s.dev.locked (wdtPage k) := by
  refine ⟨_, _, rfl, rfl, wdt_write s src k o w _ ho h4 hh ht, ?_⟩
  have hw := Device.arrive_wdt s.dev src (pageAddr (wdtPage k) o)
  have hr := Device.arrive_regs s.dev src (pageAddr (wdtPage k) o)
  have hu := Device.arrive_up s.dev src (pageAddr (wdtPage k) o)
  have hl := Device.arrive_locked s.dev src (pageAddr (wdtPage k) o) (wdtPage k)
  generalize s.dev.arrive src (pageAddr (wdtPage k) o) = y at *
  have c : y.wdtCalm k dt := by
    unfold Device.wdtCalm Device.wdtHolding Device.wdtHoldTicks at *
    rw [wd_of hw, hu, wdtReg_of hr]; exact h
  have n : y.wdtNow k dt = s.dev.wdtNow k dt := by
    unfold Device.wdtNow Device.wdtHolding
    rw [wd_of hw, hu]
  obtain ⟨e, he, h1, h2, h3⟩ := calm_advance y s.fuses k dt c
  rw [he]
  refine ⟨h1.trans n, fun j hj => (h2 j hj).trans (wd_of hw j), ?_, ?_, ?_⟩
  · exact (h3 .regs (by decide)).trans hr
  · have : e.boot = y.boot := h3 .boot (by decide)
    rw [this]; exact hu
  · have : e.hdr = y.hdr := h3 .hdr (by decide)
    rw [← hl]
    unfold Device.locked Device.head
    rw [this]

theorem err_bit (d : Device) (p : Fin 256) (i : Nat) (h : i < 32) : bit ((d.setErr p.val (errBit i)).head p).err i = true := by
  have := updHdr_err d p.val (errBit i)
  rw [pg_val] at this
  rw [this]
  dsimp only
  rw [bit_or]
  have : ∀ i : Fin 32, bit (errBit i.val) i.val = true := by decide
  have := this ⟨i, h⟩
  dsimp only at this
  rw [this, Bool.or_true]

theorem wdtPage_pg (k : Fin 9) : (pg (wdtPage k)).val = wdtPage k := by revert k; decide

theorem err_wdt (d : Device) (k : Fin 9) (i : Nat) (h : i < 32) : bit ((d.setErr (wdtPage k) (errBit i)).head (pg (wdtPage k))).err i = true := by
  have := err_bit d (pg (wdtPage k)) i h
  rw [wdtPage_pg] at this
  exact this

theorem begins_of {d d' e : Device} {k n} (h : WindowBegins d' e k n) (hr : d'.regs = d.regs) (hs : (d'.wd k).seedReg = (d.wd k).seedReg) : WindowBegins d e k n := by
  unfold WindowBegins at *
  rw [wdtReg_of hr, wdtReg_of hr, hs] at h
  exact h

theorem now_seed (d : Device) (k dt) : (d.wdtNow k dt).seedReg = (d.wd k).seedReg := by unfold Device.wdtNow; (repeat' split) <;> rfl

theorem disarm_key (key : BitVec 16) : bit (field 31 16 key.toNat ||| 2) 1 = true ∧ bit (field 31 16 key.toNat ||| 2) 0 = false ∧ bits (field 31 16 key.toNat ||| 2) 31 16 = key.toNat := by
  have b := bits_or (field 31 16 key.toNat) 2 31 16
  have f : ∀ i, i < 16 → bit (field 31 16 key.toNat) i = false := by
    intro i hi
    have q := bits_field 31 16 key.toNat i i (by decide)
    rw [bits_setBits_other _ _ _ _ _ _ (.inl (by omega))] at q
    have q0 : bits (0 : Word) i i = 0 := by unfold bits; simp
    rw [q0] at q
    exact (bits_zero _ _ _).1 q i (Nat.le_refl i) (Nat.le_refl i)
  rw [bit_or, bit_or, f 0 (by decide), f 1 (by decide)]
  exact ⟨rfl, rfl, (key_word key 2 (by decide)).1⟩

theorem low_field (v : BitVec 16) : (field 15 0 v.toNat : Word).setWidth 16 = v := by
  apply BitVec.eq_of_getLsbD_eq
  intro i hi
  unfold field
  rw [BitVec.getLsbD_setWidth, BitVec.getLsbD_and, fieldMask_bit, BitVec.getLsbD_ofNat, Nat.pow_zero, Nat.mul_one]
  have h1 : i < 32 := by omega
  have h2 : i - 0 < 15 + 1 - 0 := by omega
  simp only [hi, h1, h2, Nat.zero_le, decide_true, Bool.true_and, Bool.and_true]
  rfl

theorem calm_zero {d : Device} {k : Fin 9} {dt : Nat} (h : d.wdtCalm k dt) : d.wdtCalm k 0 := by
  unfold Device.wdtCalm at *
  refine ⟨fun a b => ?_, fun a => ?_⟩
  · have c := h.1 a b
    split
    · rfl
    · rename_i q
      rw [if_neg q] at c
      omega
  · have := h.2 a
    omega

theorem now_zero (d : Device) (k : Fin 9) : d.wdtNow k 0 = d.wd k := by unfold Device.wdtNow; (repeat' split) <;> rfl

/-- What a restart of the core leaves of an instance. -/
def Wdt.kept (x : Wdt) : WdtState × WdtState × Nat × Nat × Word × Nat := (x.st, x.prev, x.trips, x.hold, x.exprec, x.expWcnt)

theorem restart_wd (d : Device) (f : OtpArray) (b w) (k : Fin 9) : ((d.coreRestart f b w).wd k).kept = (d.wd k).kept := by
  unfold Device.coreRestart
  dsimp only
  split
  · have e : ∀ (y : Device) v, (((((y.tgRelease 8).otpAbort f).raise 2 v).hkcSync (if b then 0x05 else 0x01) w).evcSync).wdt = y.wdt := fun y v => keeps_wdt (by simp)
    rw [wd_of (e _ _)]
    unfold Device.wd
    show ((d.wdt.map fun (x : Wdt) => { x with queue := [] })[k]).kept = _
    simp [Wdt.kept]
  · rfl

theorem trip_wd (d : Device) (f : OtpArray) (k : Fin 9) (h : k.val = 8 ∨ bit (d.wdtReg k 0x048) 30 = false) :
    ((d.wdtTrip f k).wd k).kept = ((WdtState.tripped, (d.wd k).st, satInc 255 (d.wd k).trips, 0, (d.wd k).exprec, (d.wd k).expWcnt) : WdtState × WdtState × Nat × Nat × Word × Nat) := by
  unfold Device.wdtTrip
  dsimp only
  generalize h0 : (d.updWd k fun x => { x with trips := satInc 255 x.trips, hold := 0 }).wdtTo k .tripped 0x14 = y
  have y0 : (y.wd k).kept = (WdtState.tripped, (d.wd k).st, satInc 255 (d.wd k).trips, 0, (d.wd k).exprec, (d.wd k).expWcnt) := by
    rw [← h0, wdtTo_wd, Device.wd_updWd, Device.wd_updWd]; rfl
  have r0 : y.regs = d.regs := by rw [← h0]; exact keeps_regs (by simp)
  have t : ∀ (e : Device) n w, ((e.setErr (wdtPage k) (errBit 11)).raise n w).wdt = e.wdt ∧ ((e.setErr (wdtPage k) (errBit 11)).raise n w).regs = e.regs := fun e n w => ⟨keeps_wdt (by simp), keeps_regs (by simp)⟩
  generalize hz : (y.setErr (wdtPage k) (errBit 11)).raise (17 + 2 * k.val) _ = z
  have t1 : z.wdt = y.wdt ∧ z.regs = y.regs := by rw [← hz]; exact t _ _ _
  rw [← wd_of t1.1] at y0
  split
  · rename_i h8
    have hb : bit (z.wdtReg k 0x048) 30 = false := by
      rw [wdtReg_of (t1.2.trans r0)]
      rcases h with h | h
      · omega
      · exact h
    simp only [hb, Bool.false_eq_true, if_false]
    have s1 : z.wdtLinesSync.wdt = z.wdt := keeps_wdt (by simp)
    have s2 : ∀ (e : Device) q, (e.requestReset q).wdt = e.wdt := fun e q => keeps_wdt (by simp)
    split
    · rw [wd_of (s2 _ _), wd_of s1]; exact y0
    · rw [wd_of s1]; exact y0
  · rw [restart_wd]; exact y0

theorem expire_facts (d : Device) (f : OtpArray) (k : Fin 9) (reason : Nat) : WindowExpires d (d.wdtExpire f k reason) k reason := by
  unfold Device.wdtExpire
  dsimp only
  generalize h0 : d.updWd k (fun y => { y with exprec := _, expWcnt := _ }) = y
  have y0 : y.wd k = { d.wd k with exprec := field 31 28 reason ||| flag 27 ((d.wd k).st == .warn) ||| field 15 0 ((d.wd k).tasks &&& ~~~(d.wd k).done).toNat, expWcnt := (d.wd k).wcnt } := by
    rw [← h0, Device.wd_updWd]
  have r0 : y.regs = d.regs := by rw [← h0]; rfl
  clear h0
  have s1 : ∃ z : Device, z = (if reason = 4 ∨ reason = 5 then (if reason = 1 then y else y.setErr (wdtPage k) (errBit 9)).setErr (wdtPage k) (errBit 10)
      else if reason = 1 then y else y.setErr (wdtPage k) (errBit 9)) ∧ z.wdt = y.wdt ∧ z.regs = y.regs := by
    refine ⟨_, rfl, ?_, ?_⟩ <;> (repeat' split) <;> rfl
  obtain ⟨z, hz, zw, zr⟩ := s1
  rw [← hz]
  have z0 := (wd_of zw k).trans y0
  have zr0 := zr.trans r0
  clear hz y0 r0 zw zr
  unfold WindowExpires
  cases hst : (d.wd k).st with
  | run =>
    dsimp only
    generalize h1 : (z.wdtTo k .warn (if reason = 1 then 0x12 else 0x13)).setErr (wdtPage k) (errBit 8) = a
    have a0 : a.wd k = { z.wd k with prev := (z.wd k).st, st := .warn } := by
      rw [← h1]
      show (z.wdtTo k .warn (if reason = 1 then 0x12 else 0x13)).wd k = _
      rw [wdtTo_wd, Device.wd_updWd]
    have ar : a.regs = z.regs := by rw [← h1]; exact keeps_regs (by simp)
    have b0 : ∀ (e : Device) n w g, ((e.raise n w).dayDev g).wdt = e.wdt ∧ ((e.raise n w).dayDev g).regs = e.regs := fun e n w g => ⟨keeps_wdt (by simp), keeps_regs (by simp)⟩
    generalize hb : (a.raise _ _).dayDev _ = b
    have bw : b.wd k = a.wd k := by rw [← hb]; exact wd_of (b0 _ _ _ _).1 k
    have br : b.regs = a.regs := by rw [← hb]; exact (b0 _ _ _ _).2
    obtain ⟨w1, w2, w3, w4, w5, w6, w7, w8, w9, w10, w11, w12, w13, w14, w15⟩ := wdtWindow_wd b k ((d.wd k).wcnt + 1)
    have bq : b.wd k = { d.wd k with exprec := field 31 28 reason ||| flag 27 ((d.wd k).st == .warn) ||| field 15 0 ((d.wd k).tasks &&& ~~~(d.wd k).done).toNat, expWcnt := (d.wd k).wcnt, prev := (d.wd k).st, st := .warn } := by rw [bw, a0, z0]
    rw [bq] at w8 w9 w10 w12 w14 w15
    rw [wdtReg_of (br.trans (ar.trans zr0))] at w6 w7
    refine ⟨fun _ => ⟨w9, by rw [w10]; exact hst, ⟨w1, w2, w3, w4, w5, w6, w7, w8⟩, w12⟩, fun q => (nomatch q), fun _ => ⟨by rw [w14, hst], w15⟩⟩
  | warn =>
    dsimp only
    refine ⟨fun q => (nomatch q), fun _ hc => ?_, fun hc => ?_⟩
    · have := trip_wd z f k (by rw [wdtReg_of zr0]; exact hc)
      rw [z0] at this
      unfold Wdt.kept at this
      injection this with q1 this
      injection this with q2 this
      injection this with q3 this
      injection this with q4 this
      exact ⟨q1, q2.trans hst, q3, q4⟩
    · have := trip_wd z f k (by rw [wdtReg_of zr0]; rcases hc with q | q; exact absurd q (by simp); exact q)
      rw [z0] at this
      unfold Wdt.kept at this
      injection this with q1 this
      injection this with q2 this
      injection this with q3 this
      injection this with q4 this
      injection this with q5 this
      exact ⟨q5.trans (by rw [hst]), this⟩
  | disarmed =>
    dsimp only
    exact ⟨fun q => (nomatch q), fun q => (nomatch q), fun _ => ⟨by rw [z0, hst], by rw [z0]⟩⟩
  | tripped =>
    dsimp only
    exact ⟨fun q => (nomatch q), fun q => (nomatch q), fun _ => ⟨by rw [z0, hst], by rw [z0]⟩⟩

theorem expires_of {d e E : Device} {f : OtpArray} {k : Fin 9} {dt r : Nat} (hE : E = e.wdtExpire f k r) (h1 : e.wd k = d.wdtNow k dt) (h3 : e.regs = d.regs) : WindowExpires d E k r := by
  have q := expire_facts e f k r
  rw [← hE] at q
  have n : (d.wdtNow k dt).st = (d.wd k).st ∧ (d.wdtNow k dt).tasks = (d.wd k).tasks ∧ (d.wdtNow k dt).done = (d.wd k).done ∧ (d.wdtNow k dt).wcnt = (d.wd k).wcnt ∧
      (d.wdtNow k dt).trips = (d.wd k).trips ∧ (d.wdtNow k dt).seedReg = (d.wd k).seedReg := by
    unfold Device.wdtNow
    (repeat' split) <;> exact ⟨rfl, rfl, rfl, rfl, rfl, rfl⟩
  obtain ⟨n1, n2, n3, n4, n5, n6⟩ := n
  unfold WindowExpires WindowBegins at *
  dsimp only at q ⊢
  rw [wdtReg_of h3, wdtReg_of h3, wdtReg_of h3, h1, n1, n2, n3, n4, n5, n6] at q
  exact q

theorem serve_run (e : Device) (f : OtpArray) (k : Fin 9) (h : (e.wd k).st = .run) :
    ((e.wd k).openTick ≤ (e.wd k).tick → e.wdtService f k = e.updWd k fun x => { x with served := true }) ∧ ((e.wd k).tick < (e.wd k).openTick → e.wdtService f k = e.wdtExpire f k 2) := by
  unfold Device.wdtService
  dsimp only
  rw [h]
  dsimp only
  exact ⟨fun q => if_neg (by omega), fun q => if_pos q⟩

theorem serve_warn (e : Device) (f : OtpArray) (k : Fin 9) (h : (e.wd k).st = .warn) :
    (e.wdtService f k).wd k = { e.wd k with served := true, warns := satInc 255 (e.wd k).warns, prev := .warn, st := .run } := by
  unfold Device.wdtService
  dsimp only
  rw [h]
  dsimp only
  rw [wdtTo_wd, Device.wd_updWd, Device.wd_updWd]
  simp only [h]

theorem late_facts (d : Device) (f : OtpArray) (k : Fin 9) (dt : Nat) (ha : (d.wd k).st.armed = true) (hu : d.boot.up.ao = true) (hs : (d.wd k).served = false) (hc : (d.wd k).tick ≤ (d.wd k).close)
    (hd : dt = (d.wd k).close + 1 - (d.wd k).tick) : WindowExpires d (d.wdtAdvance f k dt) k 1 := by
  have h0 : (d.wd k).tick + dt = (d.wd k).close + 1 := by omega
  unfold Device.wdtAdvance
  rw [Device.wdtRun]
  rw [ha, hu, hs, if_pos (by decide), if_neg (by simp), if_neg (by simp; omega), h0, Nat.sub_self]
  generalize hy : d.updWd k (fun x => { x with tick := x.close + 1 }) = y
  have y0 : y.wd k = { d.wd k with tick := (d.wd k).close + 1 } := by rw [← hy, Device.wd_updWd]
  have yr : y.regs = d.regs := by rw [← hy]; rfl
  have ex := expire_facts y f k 1
  generalize y.wdtExpire f k 1 = z at *
  have exd : WindowExpires d z k 1 := by
    unfold WindowExpires WindowBegins at *
    dsimp only at ex ⊢
    rw [wdtReg_of yr, wdtReg_of yr, wdtReg_of yr, y0] at ex
    exact ex
  by_cases hq : (d.wd k).st = .warn ∧ ¬ (k.val = 8 ∨ bit (d.wdtReg k 0x048) 30 = false)
  · refine ⟨fun q => ?_, fun _ q => absurd q hq.2, fun q => ?_⟩
    · rw [hq.1] at q; exact nomatch q
    · rcases q with q | q
      · rw [hq.1] at q; exact nomatch q
      · exact absurd q hq.2
  rw [Device.wdtRun]
  by_cases hb : ((z.wd k).st.armed && z.boot.up.ao) = true
  · rw [if_pos hb, if_neg (by simp)]
    split
    · have hz : ∀ v : Device, v.wd k = z.wd k → WindowExpires d v k 1 := by
        intro v hv
        unfold WindowExpires WindowBegins at *
        rw [hv]; exact exd
      apply hz
      rw [Device.wd_updWd]; rfl
    · rename_i hn
      exfalso
      rw [Bool.or_eq_true, decide_eq_true_eq] at hn
      cases hst : (d.wd k).st with
      | disarmed => rw [hst] at ha; exact absurd ha (by decide)
      | run =>
        have w := (exd.1 hst).2.2.1.1
        rw [w] at hn
        exact hn (.inl (Nat.zero_le _))
      | warn =>
        have hc : k.val = 8 ∨ bit (d.wdtReg k 0x048) 30 = false := Classical.byContradiction fun q => hq ⟨hst, q⟩
        rw [(exd.2.1 hst hc).1] at hb
        exact absurd hb (by simp [WdtState.armed])
      | tripped => rw [hst] at ha; exact absurd ha (by decide)
  · rw [if_neg hb]
    split
    · rename_i ht
      have h0 : (z.wd k).hold = 0 := by
        rw [Bool.and_eq_true, Bool.and_eq_true, beq_iff_eq] at ht
        cases hst : (d.wd k).st with
        | disarmed => rw [hst] at ha; exact absurd ha (by decide)
        | run => have w := (exd.1 hst).1; rw [ht.1.1] at w; exact nomatch w
        | warn =>
          have hc : k.val = 8 ∨ bit (d.wdtReg k 0x048) 30 = false := Classical.byContradiction fun q => hq ⟨hst, q⟩
          exact (exd.2.1 hst hc).2.2.2
        | tripped => rw [hst] at ha; exact absurd ha (by decide)
      rw [if_pos (by rw [h0]; omega)]
      have hz : ∀ v : Device, v.wd k = z.wd k → WindowExpires d v k 1 := by
        intro v hv
        unfold WindowExpires WindowBegins at *
        rw [hv]; exact exd
      apply hz
      rw [Device.wd_updWd]; rfl
    · exact exd

/-- The HOLD of a tripped instance ends with dt ticks: it is armed or disarmed. -/
theorem hold_facts (d : Device) (f : OtpArray) (k : Fin 9) (dt : Nat) (hh : d.wdtHolding k = true) (hd : (d.wd k).hold + dt = d.wdtHoldTicks k) : let e := d.wdtAdvance f k dt
    (∀ j, j ≠ k → e.wd j = d.wd j) ∧ (e.wd k).prev = .tripped ∧
      (bit (d.wdtReg k 0x044) 30 = true ∨ (d.wd k).armlatch = true → (e.wd k).st = .run ∧ WindowBegins d e k 0) ∧
      (bit (d.wdtReg k 0x044) 30 = false → (d.wd k).armlatch = false → (e.wd k).st = .disarmed) := by
  have ht := hh
  unfold Device.wdtHolding at ht
  have hs : (d.wd k).st = .tripped := by
    rw [Bool.and_eq_true, Bool.and_eq_true, beq_iff_eq] at ht; exact ht.1.1
  have hu : d.boot.up.ao = true := by
    rw [Bool.and_eq_true] at ht; exact ht.2
  unfold Device.wdtHoldTicks at hd
  dsimp only
  unfold Device.wdtAdvance
  rw [Device.wdtRun]
  dsimp only
  rw [if_neg (by rw [hs]; simp [WdtState.armed]), if_pos ht, if_neg (by omega), hd, Nat.sub_self]
  have hl : ∀ (y : Device) (j : Fin 9), y.wdtLinesSync.wd j = y.wd j := fun y j => wd_of (keeps_wdt (by simp)) j
  have hr : ∀ (y : Device), y.wdtLinesSync.regs = y.regs := fun y => keeps_regs (by simp)
  have hb : ∀ (y : Device), y.wdtLinesSync.boot = y.boot := fun y => keeps_boot (by simp)
  unfold Device.wdtHoldEnd
  dsimp only
  rw [if_pos ht]
  by_cases ha : (bit (d.wdtReg k 0x044) 30 || (d.wd k).armlatch) = true
  · rw [if_pos ha]
    obtain ⟨a1, a2, a3, a4, a5, a6, a7⟩ := armNow_facts d k 0x16 byHw
    generalize d.wdtArmNow k 0x16 byHw = z at *
    rw [Device.wdtRun]
    dsimp only
    have e : ∀ v : Device, v.wd k = z.wd k → (∀ j, j ≠ k → v.wd j = z.wd j) → (∀ j, j ≠ k → v.wd j = d.wd j) ∧ (v.wd k).prev = .tripped ∧
        (bit (d.wdtReg k 0x044) 30 = true ∨ (d.wd k).armlatch = true → (v.wd k).st = .run ∧ WindowBegins d v k 0) ∧
        (bit (d.wdtReg k 0x044) 30 = false → (d.wd k).armlatch = false → (v.wd k).st = .disarmed) := by
      intro v v1 v2
      refine ⟨fun j hj => (v2 j hj).trans (a1 j hj), by rw [v1, a3, hs], fun _ => ⟨by rw [v1, a2], ?_⟩, fun q1 q2 => ?_⟩
      · unfold WindowBegins at *
        rw [v1]; exact a5
      · rw [q1, q2] at ha; exact nomatch ha
    split
    · rw [if_neg (by simp), if_pos (by rw [hl]; rw [a5.1]; simp)]
      exact e _ (by rw [Device.wd_updWd, hl]; rfl) (fun j hj => by rw [Device.wd_updWd_other _ _ hj, hl])
    · rw [if_neg (by rw [hl, a2]; simp)]
      exact e _ (hl _ _) (fun j _ => hl _ _)
  · rw [if_neg ha]
    have q : ∀ j, (d.wdtTo k .disarmed 0x16 byHw).wd j = (d.updWd k fun x => { x with prev := x.st, st := .disarmed }).wd j := fun j => by rw [wdtTo_wd]
    generalize d.wdtTo k .disarmed 0x16 byHw = z at *
    have qk := q k
    rw [Device.wd_updWd] at qk
    rw [Device.wdtRun]
    dsimp only
    rw [if_neg (by rw [hl, qk]; simp [WdtState.armed]), if_neg (by rw [hl, qk]; simp)]
    refine ⟨fun j hj => by rw [hl, q, Device.wd_updWd_other _ _ hj], by rw [hl, qk]; exact hs, fun w => ?_, fun _ _ => by rw [hl, qk]⟩
    rw [Bool.or_eq_true] at ha
    exact absurd w ha

end Sys2Proof.Machine
end

