-- ==== Sys2Proof/Laws/Events.lean ====
section
/-! SUPPORT. Events: what an arrival, a record, a selection and the commands of a target do. -/

namespace Sys2Proof.Machine
open Sys2Proof

theorem raise_zero (d : Device) (e : Fin 256) (w : Word) (h : d.srcPrio e = 0) : d.raise e.val w = d := by
  have : (Fin.ofNat 256 e.val : Fin 256) = e := by apply Fin.ext; show e.val % 256 = e.val; have := e.isLt; omega
  unfold Device.raise
  rw [this]
  exact if_pos h

theorem raise_src (d : Device) (e : Fin 256) (w : Word) (h : d.srcPrio e ≠ 0) :
    (d.raise e.val w).evc = { d.evc with src := upd d.evc.src e fun y => { y with pend := true, count := satInc 255 y.count, ts := d.ts, payload := w } } ∧
      ((d.raise e.val w).head (pg 0x060)).cur = (d.raise e.val w).evcCode := by
  have : (Fin.ofNat 256 e.val : Fin 256) = e := by apply Fin.ext; show e.val % 256 = e.val; have := e.isLt; omega
  unfold Device.raise
  rw [this]
  dsimp only
  rw [if_neg h]
  unfold Device.evcSync
  constructor
  · rw [Device.syncState_evc]; rfl
  · refine (sync_cur _ (pg 0x060) _ _ _).trans ?_
    unfold Device.evcCode
    rw [Device.syncState_evc]

/-- What an arrival leaves of every source: its pointer, and its service. -/
def EvSource.held (x : EvSource) : Nat × Bool × Option (Fin 9) := (x.rr, x.insvc, x.holder)

/-- From d to e, events may have arrived: a pending source is still pending, and the targets are the same. -/
def Arrivals (d e : Device) : Prop :=
  e.evc.tgt = d.evc.tgt ∧ ∀ j : Fin 256, e.evc.src[j].held = d.evc.src[j].held ∧ (d.evc.src[j].pend = true → e.evc.src[j].pend = true)

theorem Arrivals.refl (d : Device) : Arrivals d d := ⟨rfl, fun _ => ⟨rfl, id⟩⟩

theorem Arrivals.trans {a b c : Device} (h : Arrivals a b) (g : Arrivals b c) : Arrivals a c :=
  ⟨g.1.trans h.1, fun j => ⟨(g.2 j).1.trans (h.2 j).1, fun p => (g.2 j).2 ((h.2 j).2 p)⟩⟩

theorem Arrivals.of {d e : Device} (h : e.evc = d.evc) : Arrivals d e := ⟨by rw [h], fun j => by rw [h]; exact ⟨rfl, id⟩⟩

theorem raise_arrivals (d : Device) (n : Nat) (w : Word) : Arrivals d (d.raise n w) := by
  unfold Device.raise
  dsimp only
  generalize (Fin.ofNat 256 n : Fin 256) = e
  split
  · exact Arrivals.refl d
  · unfold Device.evcSync
    refine Arrivals.trans ?_ (Arrivals.of (Device.syncState_evc _ _ _ _ _))
    refine ⟨rfl, fun j => ?_⟩
    show (upd d.evc.src e _)[j].held = _ ∧ (_ → (upd d.evc.src e _)[j].pend = true)
    rw [upd_get]
    split
    · rename_i h; subst h; exact ⟨rfl, fun _ => rfl⟩
    · exact ⟨rfl, id⟩

theorem bump_arrivals (d : Device) (c : Fin 64) (n : Nat) : Arrivals d (d.pmcBump c n).1 := by
  unfold Device.pmcBump
  dsimp only
  split
  · exact Arrivals.of rfl
  · dsimp only
    split <;> split <;> first | exact Arrivals.of rfl | exact Arrivals.trans (Arrivals.of rfl) (raise_arrivals _ _ _)

theorem add_arrivals (d : Device) (c : Fin 64) (n : Nat) : Arrivals d (d.pmcAdd c n) := by
  unfold Device.pmcAdd
  dsimp only
  split
  · split
    · exact (bump_arrivals d c n).trans (bump_arrivals _ _ _)
    · exact bump_arrivals d c n
  · exact bump_arrivals d c n

theorem count_arrivals (d : Device) (ev i n : Nat) : Arrivals d (d.pmcCount ev i n) ∧ Arrivals d (d.pmcCountAll ev n) := by
  constructor
  · unfold Device.pmcCount
    split
    · refine foldFin_inv (Arrivals d) _ d (Arrivals.refl d) fun e a q => ?_
      split
      · exact q.trans (add_arrivals _ _ _)
      · exact q
    · exact Arrivals.refl d
  · unfold Device.pmcCountAll
    split
    · refine foldFin_inv (Arrivals d) _ d (Arrivals.refl d) fun e a q => ?_
      split
      · exact q.trans (add_arrivals _ _ _)
      · exact q
    · exact Arrivals.refl d

theorem tlp_arrivals (d : Device) (o : Outgoing) : Arrivals d (d.sendTlp o) := Arrivals.trans (Arrivals.of rfl) (count_arrivals (d.send o) 0x30 0 1).2

theorem msix_arrivals (d : Device) (v : Fin 16) : Arrivals d (d.msix v) := by
  unfold Device.msix
  split
  · exact Arrivals.refl d
  · split
    · exact Arrivals.of rfl
    · split
      · exact tlp_arrivals d _
      · exact Arrivals.refl d

theorem signal_arrivals (d : Device) (t : Fin 9) : Arrivals d (d.tgSignal t) := by
  unfold Device.tgSignal
  split
  · exact Arrivals.refl d
  · split
    · split
      · exact msix_arrivals d _
      · exact Arrivals.of rfl
      · exact Arrivals.of rfl
      · exact Arrivals.refl d
    · exact Arrivals.refl d

theorem ibi_evc (d : Device) : (d.ibiSync).evc = d.evc := keeps_evc (by simp)

theorem ibi_keeps (d : Device) : (d.ibiSync).hdr = d.hdr ∧ (d.ibiSync).regs = d.regs ∧ (d.ibiSync).ram = d.ram := ⟨keeps_hdr (by simp), keeps_regs (by simp), keeps_ram (by simp)⟩

theorem evcSync_keeps (d : Device) : (d.evcSync).evc = d.evc ∧ (d.evcSync).regs = d.regs ∧ (d.evcSync).ram = d.ram := ⟨Device.syncState_evc _ _ _ _ _, keeps_regs (by simp), keeps_ram (by simp)⟩

/-- A record advances its target (R554) and takes no other along. -/
theorem advance_facts (d : Device) (t : Fin 9) : let e := d.evAdvance t
    Arrivals (d.updTg t fun x => { x with wr := (x.wr + 1) % 65536, seq := (x.seq + 1) % 65536, lost := false }) e ∧ e.ram = d.ram ∧ e.regs = d.regs := by
  refine ⟨?_, keeps_ram (by simp), keeps_regs (by simp)⟩
  unfold Device.evAdvance
  dsimp only
  generalize (d.updTg t fun x => { x with wr := (x.wr + 1) % 65536, seq := (x.seq + 1) % 65536, lost := false }) = y
  have a := ((count_arrivals y 0x27 t.val 1).1).trans (count_arrivals (y.pmcCount 0x27 t.val 1) 0x21 0 1).2
  split
  · exact a
  · exact a.trans (signal_arrivals _ t)

theorem err_evc (d : Device) (i : Nat) (h : i < 32) : bit ((d.setErr evcPage (errBit i)).head (pg evcPage)).err i = true := err_bit d (pg evcPage) i h

theorem updTg_get (d : Device) (t j : Fin 9) (f : EvTarget → EvTarget) : (d.updTg t f).tg j = if j = t then f (d.tg t) else d.tg j := upd_get _ _ _ _

theorem tg_of {d e : Device} (h : e.evc.tgt = d.evc.tgt) (j : Fin 9) : e.tg j = d.tg j := by unfold Device.tg; rw [h]

/-- The four words of a record in an on-chip ring. -/
theorem record_words (m : Memory) (a : Nat) (w : Vector Word 4) (h : Memory.wf m = true) :
    let q := memPut (memPut (memPut (memPut m a w[0]) (a + 4) w[1]) (a + 8) w[2]) (a + 12) w[3]
    ∀ i : Fin 4, memWord q (a + 4 * i.val) = w[i] := by
  intro q i
  have h1 := memPut_wf a w[0] h
  have h2 := memPut_wf (a + 4) w[1] h1
  have h3 := memPut_wf (a + 8) w[2] h2
  match i with
  | 0 =>
    show memWord q a = w[0]
    rw [memWord_put_other _ _ _ _ (.inl (by omega)), memWord_put_other _ _ _ _ (.inl (by omega)), memWord_put_other _ _ _ _ (.inl (by omega)), memWord_put_same _ _ _ h]
  | 1 =>
    show memWord q (a + 4) = w[1]
    rw [memWord_put_other _ _ _ _ (.inl (by omega)), memWord_put_other _ _ _ _ (.inl (by omega)), memWord_put_same _ _ _ h1]
  | 2 =>
    show memWord q (a + 8) = w[2]
    rw [memWord_put_other _ _ _ _ (.inl (by omega)), memWord_put_same _ _ _ h2]
  | 3 =>
    show memWord q (a + 12) = w[3]
    rw [memWord_put_same _ _ _ h3]

theorem put4 (d : Device) (a : Nat) (w : Vector Word 4) : let z := (((d.ramPut a w[0]).ramPut (a + 4) w[1]).ramPut (a + 8) w[2]).ramPut (a + 12) w[3]
    z.evc = d.evc ∧ z.regs = d.regs ∧ (d.canonical = true → ∀ i : Fin 4, z.ramWord (a + 4 * i.val) = w[i]) := by
  intro z
  have hz : z.ram = memPut (memPut (memPut (memPut d.ram a w[0]) (a + 4) w[1]) (a + 8) w[2]) (a + 12) w[3] := by simp only [z, Device.ramPut_ram]
  have he : z.evc = d.evc := by simp only [z, Device.ramPut_evc]
  have hg : z.regs = d.regs := by simp only [z, Device.ramPut_regs]
  clear_value z
  refine ⟨he, hg, fun hc i => ?_⟩
  unfold Device.canonical at hc
  rw [Bool.and_eq_true] at hc
  have q := record_words d.ram a w hc.2
  dsimp only at q
  unfold Device.ramWord
  rw [hz]
  exact q i

/-- A record that is written (R549, R553, R554). -/
theorem write_facts (d : Device) (e : Fin 256) (t : Fin 9) (b : Bool) (h : d.evMeetsFault t = false) : ∃ y : Device, d.evWrite e t b = (y, true) ∧
    Arrivals (d.updTg t fun x => { x with wr := (x.wr + 1) % 65536, seq := (x.seq + 1) % 65536, lost := false }) y ∧ y.regs = d.regs ∧
    (d.tgLoc t = true → d.canonical = true → ∀ i : Fin 4, y.ramWord (ringSlot t ((d.tg t).wr % 32) + 4 * i.val) = (d.evRecord e t b)[i]) := by
  unfold Device.evWrite
  dsimp only
  by_cases hl : d.tgLoc t = true
  · rw [if_pos hl]
    generalize d.evRecord e t b = w
    generalize ringSlot t ((d.tg t).wr % 32) = a
    have p := put4 d a w
    dsimp only at p
    generalize (((d.ramPut a w[0]).ramPut (a + 4) w[1]).ramPut (a + 8) w[2]).ramPut (a + 12) w[3] = z at *
    obtain ⟨ze, zr, zw⟩ := p
    obtain ⟨a1, a2, a3⟩ := advance_facts z t
    refine ⟨_, rfl, ?_, a3.trans zr, fun _ hc i => ?_⟩
    · refine Arrivals.trans (Arrivals.of ?_) a1
      unfold Device.updTg
      dsimp only
      rw [ze]
    · have q := zw hc i
      unfold Device.ramWord at q ⊢
      rw [a2]
      exact q
  · rw [if_neg hl]
    unfold Device.evMeetsFault at h
    rw [Bool.eq_false_iff.2 hl] at h
    cases hx : d.evTranslate t with
    | error f => rw [hx] at h; exact absurd h (by simp)
    | ok a =>
      dsimp only
      generalize (wordBytes (d.evRecord e t b)[0] ++ wordBytes (d.evRecord e t b)[1] ++ wordBytes (d.evRecord e t b)[2] ++ wordBytes (d.evRecord e t b)[3]) = bs
      have k := tlp_arrivals d (.hostWrite a bs)
      have kr : (d.sendTlp (.hostWrite a bs)).regs = d.regs := keeps_regs (by simp)
      generalize d.sendTlp (.hostWrite a bs) = z at *
      obtain ⟨a1, _, a3⟩ := advance_facts z t
      refine ⟨_, rfl, Arrivals.trans ?_ a1, a3.trans kr, fun q => absurd q hl⟩
      refine ⟨?_, fun j => k.2 j⟩
      unfold Device.updTg
      dsimp only
      rw [k.1]

theorem xltFault_arrivals (d : Device) (a b : Nat) (f : XltFault) : Arrivals d (d.xltFault true a b f) := by
  unfold Device.xltFault
  dsimp only
  rw [if_pos rfl]
  generalize hy : (d.updXlt _).setErr 0x0A0 (errBit 9) = y
  have e : y.evc = d.evc := by rw [← hy]; exact keeps_evc (by simp)
  exact (Arrivals.of e).trans (count_arrivals y 0x26 0 1).2

theorem wfault_marks (z : Device) (t : Fin 9) : ∃ y : Device, y = (z.updTg t fun x => { x with wfault := true }).setErr evcPage (errBit 10) ∧
    y.evc = { z.evc with tgt := upd z.evc.tgt t fun x => { x with wfault := true } } ∧ bit (y.head (pg evcPage)).err 10 = true := by
  refine ⟨_, rfl, rfl, err_evc _ 10 (by decide)⟩

/-- A record whose write meets a translation fault (R560). -/
theorem fault_facts (d : Device) (e : Fin 256) (t : Fin 9) (b : Bool) (h : d.evMeetsFault t = true) : ∃ y : Device, d.evWrite e t b = (y, false) ∧
    y.evc.tgt = (d.updTg t fun x => { x with wfault := true }).evc.tgt ∧ (∀ j : Fin 256, y.evc.src[j].held = d.evc.src[j].held) ∧ bit (y.head (pg evcPage)).err 10 = true := by
  unfold Device.evMeetsFault at h
  rw [Bool.and_eq_true] at h
  unfold Device.evWrite
  dsimp only
  rw [if_neg (by intro q; rw [q] at h; exact absurd h.1 (by decide))]
  cases hx : d.evTranslate t with
  | ok a => rw [hx] at h; exact absurd h.2 (by simp)
  | error f =>
    dsimp only
    have k := xltFault_arrivals d t.val t.val f
    generalize d.xltFault true t.val t.val f = z at *
    obtain ⟨y, hy, y1, y2⟩ := wfault_marks z t
    refine ⟨y, by rw [hy], ?_, fun j => ?_, y2⟩
    · rw [y1]
      unfold Device.updTg
      dsimp only
      rw [k.1]
    · rw [y1]; exact (k.2 j).1

theorem src_upd (d : Device) (e j : Fin 256) (f : EvSource → EvSource) : (d.updSrc e f).evc.src[j] = if j = e then f d.evc.src[e] else d.evc.src[j] := upd_get _ _ _ _

theorem delivered (y : Device) : y.ibiSync.evcSync.evc = y.evc ∧ y.ibiSync.evcSync.ram = y.ram :=
  ⟨(evcSync_keeps _).1.trans (ibi_evc y), (evcSync_keeps _).2.2.trans (ibi_keeps y).2.2⟩

theorem delivered_head (y : Device) : (y.ibiSync.evcSync.head (pg evcPage)).err = (y.head (pg evcPage)).err := by
  have h := Device.syncState_fixed y.ibiSync 0x060 y.ibiSync.evcCode 0x02 byHw (pg evcPage)
  have q := congrArg PageHdr.err h
  have e : y.ibiSync.head (pg evcPage) = y.head (pg evcPage) := by unfold Device.head; rw [(ibi_keeps y).1]
  rw [← e]
  exact q

theorem translate_of {d e : Device} (h : e.regs = d.regs) (c a : Nat) (w : Bool) : e.translate c a w = d.translate c a w := by
  unfold Device.translate Device.reg
  rw [h]

theorem tgt_of {d e : Device} (h : e.regs = d.regs) (t : Fin 9) : e.tgLoc t = d.tgLoc t ∧ e.tgN t = d.tgN t ∧ e.tgBase t = d.tgBase t := by
  have l : e.tgLoc t = d.tgLoc t := by unfold Device.tgLoc Device.tctl Device.reg; rw [h]
  refine ⟨l, ?_, ?_⟩
  · unfold Device.tgN; rw [l]; unfold Device.tctl Device.reg; rw [h]
  · unfold Device.tgBase Device.reg; rw [h]

theorem meets_of {d e : Device} (h : e.regs = d.regs) (t : Fin 9) (ht : e.tg t = d.tg t) : e.evMeetsFault t = d.evMeetsFault t := by
  obtain ⟨l, n, b⟩ := tgt_of h t
  have f : e.translate = d.translate := by funext c a w; exact translate_of h c a w
  have x : e.evTranslate t = d.evTranslate t := by
    unfold Device.evTranslate Device.evAddr
    rw [n, b, ht, f]
  unfold Device.evMeetsFault
  rw [l, x]

theorem record_same (x : EvTarget) (u v : EvSource) (n p s : Nat) (b : Bool) (hc : u.count = v.count) (hs : u.ts = v.ts) (hp : u.payload = v.payload) :
    x.record u n p s b = x.record v n p s b := by
  obtain ⟨u1, u2, u3, u4, u5, u6, u7⟩ := u
  obtain ⟨v1, v2, v3, v4, v5, v6, v7⟩ := v
  dsimp only at hc hs hp
  subst hc hs hp
  rfl

theorem record_of {d e : Device} (h : e.regs = d.regs) (s : Fin 256) (t : Fin 9) (ht : e.tg t = d.tg t) (b : Bool) (hc : e.evc.src[s].count = d.evc.src[s].count)
    (hs : e.evc.src[s].ts = d.evc.src[s].ts) (hp : e.evc.src[s].payload = d.evc.src[s].payload) : e.evRecord s t b = d.evRecord s t b := by
  have n := (tgt_of h t).2.1
  have p : e.srcPrio s = d.srcPrio s := by unfold Device.srcPrio Device.srcWord Device.reg; rw [h]
  unfold Device.evRecord
  rw [n, ht, p]
  exact record_same _ _ _ _ _ _ _ hc hs hp

/-- The device as a selection finds it after RRPTR has moved. -/
theorem moved (d : Device) (e : Fin 256) (n : Nat) (t : Fin 9) : (d.updSrc e fun x => { x with rr := n }).evMeetsFault t = d.evMeetsFault t ∧ (d.updSrc e fun x => { x with rr := n }).tgLoc t = d.tgLoc t ∧
    (d.updSrc e fun x => { x with rr := n }).evRecord e t false = d.evRecord e t false ∧ (d.updSrc e fun x => { x with rr := n }).canonical = d.canonical := by
  have hr : (d.updSrc e fun x => { x with rr := n }).regs = d.regs := rfl
  have hm : (d.updSrc e fun x => { x with rr := n }).ram = d.ram := rfl
  have ht : (d.updSrc e fun x => { x with rr := n }).tg t = d.tg t := rfl
  have q : (d.updSrc e fun x => { x with rr := n }).evc.src[e] = { d.evc.src[e] with rr := n } := by rw [src_upd, if_pos rfl]
  generalize (d.updSrc e fun x => { x with rr := n }) = y at *
  refine ⟨meets_of hr t ht, (tgt_of hr t).1, record_of hr e t ht false (by rw [q]) (by rw [q]) (by rw [q]), ?_⟩
  unfold Device.canonical
  rw [hr, hm]

theorem select_run (d : Device) (e : Fin 256) (g : Fin 9) (b : Bool) (h1 : d.evcRuns = true) (h2 : d.selectedSource = some e) (h3 : d.selectedTarget e = some g) :
    d.evSelect b = if d.selectionFaults e g == b then
      (if (d.updSrc e fun x => { x with rr := (g.val + 1) % 9 }).isBcast e then (d.updSrc e fun x => { x with rr := (g.val + 1) % 9 }).evBroadcast e
        else (d.updSrc e fun x => { x with rr := (g.val + 1) % 9 }).evUnicast e g).ibiSync.evcSync else d := by
  unfold Device.evSelect
  rw [if_pos h1, h2]
  dsimp only
  rw [h3]

theorem evc_write (s : State) (src : Source) (o : Nat) (w : Word) (ho : o < 0x1000) (h4 : o % 4 = 0) (hh : 0x040 ≤ o) (ht : s.dev.takes src (pageAddr 0x060 o) 0xFFFFFFFF w = true) :
    s.dev.busWrite s.fuses src (pageAddr 0x060 o) 0xF w {} = (s.dev.arrive src (pageAddr 0x060 o)).evcWrite ((s.dev.arrive src (pageAddr 0x060 o)).requester src) o 0xFFFFFFFF w := by
  have hw := Device.busWrite_page s.dev s.fuses src 0x060 o 0xF w {} ht (by decide) (by decide) ho h4 (Or.inr hh)
  rw [hw, byteMask_full]
  unfold Device.blockWrite
  rw [show blockOf 0x060 = some .evc from rfl]
  dsimp only
  rw [if_pos rfl]

theorem tgt_write (s : State) (g : Fin 9) (src : Source) (k : Nat) (w : Word) (hk : k < 0x20) (h4 : k % 4 = 0) (ht : s.dev.takes src (tgtAddr g k) 0xFFFFFFFF w = true) :
    s.dev.busWrite s.fuses src (tgtAddr g k) 0xF w {} = (s.dev.arrive src (tgtAddr g k)).evcWrite ((s.dev.arrive src (tgtAddr g k)).requester src) (0x100 + 0x20 * g.val + k) 0xFFFFFFFF w := by
  have := g.isLt
  exact evc_write s src (0x100 + 0x20 * g.val + k) w (by omega) (by omega) (by omega) ht

theorem evcWrite_at (g : Fin 9) (k : Nat) (hk : k < 0x20) : ¬ 0x100 + 0x20 * g.val + k = 0x080 ∧ ¬ 0x100 + 0x20 * g.val + k = 0x084 ∧
    targetAt 0x060 (0x100 + 0x20 * g.val + k) = some g ∧ (0x100 + 0x20 * g.val + k - 0x100) % 0x20 = k :=
  ⟨by omega, by omega, targetAt_target g k hk, by omega⟩

theorem evcWrite_ctl (d : Device) (r : Requester) (g : Fin 9) (m w : Word) : d.evcWrite r (0x100 + 0x20 * g.val + 0) m w = d.tctlWrite g (d.newWord 0x060 (0x100 + 0x20 * g.val + 0) m w) := by
  obtain ⟨a, b, c, e⟩ := evcWrite_at g 0 (by decide)
  unfold Device.evcWrite
  dsimp only
  rw [if_neg a, if_neg b, c]
  dsimp only
  rw [e]
  rfl

theorem evcWrite_rd (d : Device) (r : Requester) (g : Fin 9) (m w : Word) : d.evcWrite r (0x100 + 0x20 * g.val + 0x0C) m w = d.evRdWrite g (bits (mergeWord (BitVec.ofNat 32 (d.tg g).rd) w m) 15 0) := by
  obtain ⟨a, b, c, e⟩ := evcWrite_at g 0x0C (by decide)
  unfold Device.evcWrite
  dsimp only
  rw [if_neg a, if_neg b, c]
  dsimp only
  rw [e]
  rfl

theorem evcWrite_eoi (d : Device) (r : Requester) (g : Fin 9) (m w : Word) : d.evcWrite r (0x100 + 0x20 * g.val + 0x18) m w = d.evEoi g (Fin.ofNat 256 (bits (w &&& m) 7 0)) := by
  obtain ⟨a, b, c, e⟩ := evcWrite_at g 0x18 (by decide)
  unfold Device.evcWrite
  dsimp only
  rw [if_neg a, if_neg b, c]
  dsimp only
  rw [e]
  rfl

/-- The word of EVC_TCTL that a write of ENABLE alone leaves. -/
theorem tctl_new (d : Device) (g : Fin 9) (b : Bool) : d.newWord 0x060 (0x100 + 0x20 * g.val + 0) 0xFFFFFFFF (setBit (d.tctl g) 0 b) = setBit (d.tctl g) 0 b := by
  have hm : ∀ g : Fin 9, bit (storedMask (pageAddr 0x060 (0x100 + 0x20 * g.val + 0))) 0 = true := by decide
  have hc : ∀ g : Fin 9, ∀ w, clampWord 0x060 (0x100 + 0x20 * g.val + 0) w = w := by
    intro g w
    unfold clampWord
    rw [show blockOf 0x060 = some .evc from rfl]
  have hh : d.heldWord (pageAddr 0x060 (0x100 + 0x20 * g.val + 0)) = d.tctl g := by
    unfold Device.heldWord Device.tctl
    have := g.isLt
    rw [if_neg (by unfold pageAddr; omega)]
    rfl
  unfold Device.newWord
  dsimp only
  rw [hc, hh]
  have q := hm g
  generalize storedMask (pageAddr 0x060 (0x100 + 0x20 * g.val + 0)) = k at *
  generalize d.tctl g = o
  apply BitVec.eq_of_getLsbD_eq
  intro i hi
  show bit (mergeWord o (setBit o 0 b) (0xFFFFFFFF &&& k)) i = bit (setBit o 0 b) i
  rw [bit_mergeWord, bit_and]
  by_cases h0 : i = 0
  · subst h0
    rw [q, show bit (0xFFFFFFFF : Word) 0 = true by decide]
    simp
  · rw [bit_setBit _ _ _ _ (by decide), if_neg h0]
    split <;> rfl

theorem byte_field (v : BitVec 8) : bits (field 7 0 v.toNat) 7 0 = v.toNat := by
  rw [bits_field _ _ _ _ _ (by decide), bits_setBits _ _ _ _ (by decide)]
  exact Nat.mod_eq_of_lt v.isLt

theorem half_field (v : BitVec 16) : bits (field 15 0 v.toNat) 15 0 = v.toNat := by
  rw [bits_field _ _ _ _ _ (by decide), bits_setBits _ _ _ _ (by decide)]
  exact Nat.mod_eq_of_lt v.isLt

theorem release_src (d : Device) (t : Fin 9) (e : Fin 256) : (d.tgRelease t).evc.src[e] =
    if d.evc.src[e].insvc && d.evc.src[e].holder == some t then { d.evc.src[e] with insvc := false, holder := none } else d.evc.src[e] := by
  unfold Device.tgRelease
  show (d.evc.src.map _)[e.val] = _
  rw [Vector.getElem_map]
  rfl

theorem zero_keeps (d : Device) (t : Fin 9) : (d.tgZero t).evc = d.evc ∧ (d.tgZero t).regs = d.regs := ⟨keeps_evc (by simp), keeps_regs (by simp)⟩

theorem setReg_evc (d : Device) (a : Nat) (w : Word) : (d.setReg a w).evc = d.evc := rfl

/-- The word of EVC_TCTL that a write with ENABLE on or off leaves, beside the other fields. -/
theorem tctl_fields (o : Word) (b : Bool) (q : Prop) [Decidable q] : let n := if q then setBit o 0 b ||| 2 else setBit o 0 b
    bit n 0 = b ∧ bits n 10 8 = bits o 10 8 ∧ bit n 1 = (bit o 1 || decide q) := by
  have h2 : bit (2 : Word) 0 = false ∧ bits (2 : Word) 10 8 = 0 ∧ bit (2 : Word) 1 = true := by decide
  dsimp only
  split
  · rename_i h
    rw [bit_or, bit_or, bits_or, h2.1, h2.2.1, h2.2.2, bit_setBit _ _ _ _ (by decide), bit_setBit _ _ _ _ (by decide), if_pos rfl, if_neg (by decide), bits_setBit_other _ _ _ _ _ (.inr (by decide)),
      decide_eq_true h]
    exact ⟨by simp, Nat.or_zero _, rfl⟩
  · rename_i h
    rw [bit_setBit _ _ _ _ (by decide), bit_setBit _ _ _ _ (by decide), if_pos rfl, if_neg (by decide), bits_setBit_other _ _ _ _ _ (.inr (by decide)), decide_eq_false h, Bool.or_false]
    exact ⟨rfl, rfl, rfl⟩

theorem canon_arrive (d : Device) (src : Source) (a : Nat) (h : d.canonical = true) : (d.arrive src a).canonical = true := arrive_canon d src a h

end Sys2Proof.Machine
end

