-- ==== Sys2Proof/Laws/Dma.lean ====
section
/-! SUPPORT. Rings, bursts and windows: what an entry of a state, a descriptor read, a stop, a burst and a window write do. -/

namespace Sys2Proof.Machine
open Sys2Proof

theorem rg_upd (d : Device) (r j : Fin 32) (f : Ring → Ring) : (d.updRg r f).rg j = if j = r then f (d.rg r) else d.rg j := upd_get _ _ _ _

theorem rg_of {d e : Device} (h : e.dma = d.dma) (j : Fin 32) : e.rg j = d.rg j := by unfold Device.rg; rw [h]

theorem ring_is {d e : Device} (r : Fin 32) (f : Ring → Ring) (h : e.dma = (d.updRg r f).dma) : RingIs d e r (f (d.rg r)) :=
  ⟨by rw [rg_of h, rg_upd, if_pos rfl], fun j hj => by rw [rg_of h, rg_upd, if_neg hj]⟩

theorem ringIs_trans {a b c : Device} {r : Fin 32} {x y : Ring} (h : RingIs a b r x) (g : RingIs b c r y) : RingIs a c r y :=
  ⟨g.1, fun j hj => (g.2 j hj).trans (h.2 j hj)⟩

theorem ringIs_of {a b c : Device} {r : Fin 32} {x : Ring} (h : RingIs b c r x) (g : b.dma = a.dma) : RingIs a c r x :=
  ⟨h.1, fun j hj => (h.2 j hj).trans (rg_of g j)⟩

/-- A ring after it has entered a state. -/
def Ring.entered (x : Ring) (st : RingState) : Ring :=
  { x with prev := x.st, st := st, work := match st with
    | .active => true | .waitreq => true | .fetch => false | .idle => false | .disabled => false | _ => x.work }

theorem raise_fixed (d : Device) (n : Nat) (w : Word) (p : Fin 256) : ((d.raise n w).head p).fixed = (d.head p).fixed := by
  unfold Device.raise
  dsimp only
  split
  · rfl
  · unfold Device.evcSync
    rw [Device.syncState_fixed]
    rfl

theorem ringTo_facts (d : Device) (r : Fin 32) (st : RingState) (c w : Nat) : (d.ringTo r st c w).dma = (d.updRg r fun x => x.entered st).dma ∧
    (∀ p, ((d.ringTo r st c w).head p).fixed = (d.head p).fixed) ∧ Touches 2147749892 d (d.ringTo r st c w) := by
  refine ⟨?_, fun p => ?_, by simp⟩
  · unfold Device.ringTo
    dsimp only
    generalize hy : (d.updRg r _).transition (ringPage r) st.code c w = y
    have e : y.dma = (d.updRg r fun x => x.entered st).dma := by rw [← hy]; rfl
    split
    · exact (keeps_dma (by simp) : (y.raise _ _).dma = y.dma).trans e
    · exact e
  · unfold Device.ringTo
    dsimp only
    generalize hy : (d.updRg r _).transition (ringPage r) st.code c w = y
    have e : ∀ p, (y.head p).fixed = (d.head p).fixed := by
      intro p
      rw [← hy]
      unfold Device.transition
      dsimp only
      show ((upd d.hdr (pg (ringPage r)) _)[p]).fixed = _
      rw [upd_get]
      split
      · rename_i q; subst q; rfl
      · rfl
    split
    · exact (raise_fixed y _ _ p).trans (e p)
    · exact e p

theorem ringTo_is (d : Device) (r : Fin 32) (st : RingState) (c w : Nat) : RingIs d (d.ringTo r st c w) r ((d.rg r).entered st) := ring_is r _ (ringTo_facts d r st c w).1

theorem fetch_is (d : Device) (r : Fin 32) (c w : Nat) : RingIs d (d.ringFetch r c w) r (d.rg r).fetching := by
  have h := ringTo_is d r .fetch c w
  unfold Device.ringFetch
  generalize d.ringTo r .fetch c w = y at *
  have q := ring_is (e := y.updRg r fun x => { x with db := false, reading := true }) r (fun x => { x with db := false, reading := true }) rfl
  rw [h.1] at q
  exact ringIs_trans h q

theorem upd_is (d : Device) (r : Fin 32) (f : Ring → Ring) : RingIs d (d.updRg r f) r (f (d.rg r)) := ring_is r f rfl

/-- A taken write of a word of a ring's page. -/
theorem ring_write (s : State) (src : Source) (r : Fin 32) (o : Nat) (w : Word) (ho : o < 0x1000) (h4 : o % 4 = 0) (hh : 0x040 ≤ o)
    (ht : s.dev.takes src (pageAddr (ringPage r) o) 0xFFFFFFFF w = true) :
    s.dev.busWrite s.fuses src (pageAddr (ringPage r) o) 0xF w {} = (s.dev.arrive src (pageAddr (ringPage r) o)).ringWrite (s.dev.requester src) r o 0xFFFFFFFF w := by
  have hp : ringPage r = 0x080 + r.val := rfl
  have hw := Device.busWrite_page s.dev s.fuses src (ringPage r) o 0xF w {} ht (by rw [hp, blockOf_ring]; rfl) (by decide) ho h4 (Or.inr hh)
  rw [hw]
  unfold Device.blockWrite
  rw [hp, blockOf_ring]
  dsimp only
  rw [ofNat_ring, Device.arrive_requester, byteMask_full]

theorem ringLoc_of {d e : Device} (h : e.regs = d.regs) (r : Fin 32) : e.ringLoc r = d.ringLoc r := by unfold Device.ringLoc Device.rcfg Device.reg; rw [h]

/-- A status word of an on-chip descriptor. -/
theorem status_loc (d : Device) (r : Fin 32) (res : Nat) (h : d.ringLoc r = true) : RingIs d (d.writeStatus r res) r { d.rg r with lastRes := res } := by
  unfold Device.writeStatus
  dsimp only
  refine ring_is r (fun x => { x with lastRes := res }) ?_
  generalize hy : (d.updRg r fun x => { x with lastRes := res }) = y
  have hl : y.ringLoc r = true := by rw [← hy]; exact h
  unfold Device.descWrite
  dsimp only
  have e : ∀ z : Device, (z.pmcCountAll 0x22 1).dma = z.dma ∧ (z.pmcCountAll 0x22 1).regs = z.regs := fun z => ⟨keeps_dma (by simp), keeps_regs (by simp)⟩
  rw [ringLoc_of (e y).2, hl, if_pos rfl]
  exact (e y).1

/-- Only ring r differs, and its cause SW does not. -/
def RingNear (d e : Device) (r : Fin 32) : Prop := (e.rg r).sw = (d.rg r).sw ∧ ∀ j, j ≠ r → e.rg j = d.rg j

/-- Only ring r differs, and neither its cause SW nor its state does. -/
def RingSame (d e : Device) (r : Fin 32) : Prop := (e.rg r).st = (d.rg r).st ∧ RingNear d e r

theorem near_of {d e : Device} (r : Fin 32) (h : e.dma.ring = d.dma.ring) : RingNear d e r := by
  have k : ∀ j, e.rg j = d.rg j := fun j => by unfold Device.rg; rw [h]
  exact ⟨by rw [k], fun j _ => k j⟩

theorem near_trans {a b c : Device} {r : Fin 32} (h : RingNear a b r) (g : RingNear b c r) : RingNear a c r := ⟨g.1.trans h.1, fun j q => (g.2 j q).trans (h.2 j q)⟩

theorem near_is {d e : Device} {r : Fin 32} {x : Ring} (h : RingIs d e r x) (g : x.sw = (d.rg r).sw) : RingNear d e r := ⟨by rw [h.1, g], h.2⟩

theorem near_to (d : Device) (r : Fin 32) (st : RingState) (c w : Nat) : RingNear d (d.ringTo r st c w) r := near_is (ringTo_is d r st c w) rfl

theorem near_ends (d : Device) (r : Fin 32) (st : RingState) (c w : Nat) : RingNear d (if (d.rg r).st = st then d else d.ringTo r st c w) r := by
  split
  · exact near_of r rfl
  · exact near_to d r st c w

theorem updXlt_ring (d : Device) (f : Xlt → Xlt) : (d.updXlt f).dma.ring = d.dma.ring := rfl

theorem same_trans {a b c : Device} {r : Fin 32} (h : RingSame a b r) (g : RingSame b c r) : RingSame a c r := ⟨g.1.trans h.1, near_trans h.2 g.2⟩

theorem same_of {d e : Device} (r : Fin 32) (h : e.dma.ring = d.dma.ring) : RingSame d e r := ⟨by unfold Device.rg; rw [h], near_of r h⟩

theorem same_is {d e : Device} {r : Fin 32} {x : Ring} (h : RingIs d e r x) (g : x.sw = (d.rg r).sw) (k : x.st = (d.rg r).st) : RingSame d e r := ⟨by rw [h.1, k], near_is h g⟩

theorem xltFault_ring (d : Device) (b : Bool) (n c : Nat) (f : XltFault) : (d.xltFault b n c f).dma.ring = d.dma.ring := by
  have e : ∀ z : Device, (z.pmcCountAll 0x26 1).dma = z.dma := fun z => keeps_dma (by simp)
  have g : ∀ (z : Device) n w, (z.raise n w).dma = z.dma := fun z n w => keeps_dma (by simp)
  have k : ∀ (z : Device) p w, (z.setErr p w).dma = z.dma := fun z p w => keeps_dma (by simp)
  unfold Device.xltFault
  dsimp only
  split
  · rw [e, k, updXlt_ring]
  · rw [g, e, k, updXlt_ring]

theorem ringFault_same (d : Device) (r : Fin 32) (f : XltFault) : RingSame d (d.ringFault r f) r := by
  have k : ∀ (z : Device) p w, (z.setErr p w).dma = z.dma := fun z p w => keeps_dma (by simp)
  unfold Device.ringFault
  dsimp only
  generalize hy : d.updRg r _ = y
  have a : RingSame d y r := by rw [← hy]; exact same_is (upd_is d r _) rfl rfl
  generalize hz : y.setErr (ringPage r) (errBit 9) = z
  have b : RingSame y z r := by rw [← hz]; exact same_of r (by rw [k])
  exact same_trans a (same_trans b (same_of r (xltFault_ring z _ _ _ _)))

theorem descWrite_same (d : Device) (r : Fin 32) (w : Nat) (v : Word) : RingSame d (d.descWrite r w v) r := by
  have e : ∀ z : Device, (z.pmcCountAll 0x22 1).dma = z.dma := fun z => keeps_dma (by simp)
  unfold Device.descWrite
  dsimp only
  generalize hy : d.pmcCountAll 0x22 1 = y
  have a : RingSame d y r := by rw [← hy]; exact same_of r (by rw [e])
  refine same_trans a ?_
  split
  · exact same_of r rfl
  · cases y.translate (y.rg r).xctx (d.descAddr r (d.rg r).head + 4 * w) true with
    | ok h =>
      dsimp only
      have o : ∀ x, (y.sendTlp x).dma = y.dma := fun x => keeps_dma (by simp)
      split
      · exact same_of r (by rw [o])
      · exact same_of r rfl
    | error c => exact ringFault_same y r _

theorem writeStatus_same (d : Device) (r : Fin 32) (res : Nat) : RingSame d (d.writeStatus r res) r := by
  unfold Device.writeStatus
  dsimp only
  generalize hy : d.updRg r _ = y
  have a : RingSame d y r := by rw [← hy]; exact same_is (upd_is d r _) rfl rfl
  exact same_trans a (descWrite_same y r 5 _)

theorem settle_near (d : Device) (r : Fin 32) (w : Nat) (hd : (d.rg r).st ≠ .draining) : (∀ j, j ≠ r → (d.ringSettle r w).rg j = d.rg j) ∧
    ((d.rg r).srst = false → ((d.ringSettle r w).rg r).sw = (d.rg r).sw) := by
  have nd : ((d.rg r).st == RingState.draining) = false := by simpa using hd
  unfold Device.ringSettle
  dsimp only
  rw [nd]
  simp only [Bool.false_eq_true, if_false]
  by_cases s : (d.rg r).srst = true
  · rw [if_pos s]
    refine ⟨fun j hj => ?_, fun q => by rw [s] at q; cases q⟩
    refine ((near_ends _ r _ _ _).2 j hj).trans ?_
    exact (upd_is d r _).2 j hj
  · rw [if_neg s]
    have N : ∀ z, RingNear d z r → (∀ j, j ≠ r → z.rg j = d.rg j) ∧ ((d.rg r).srst = false → (z.rg r).sw = (d.rg r).sw) := fun z h => ⟨h.2, fun _ => h.1⟩
    apply N
    have W : ∀ (b : Bool) n, RingNear d (if b then d.writeStatus r n else d) r := by
      intro b n
      cases b
      · exact near_of r rfl
      · exact (writeStatus_same d r n).2
    by_cases c : (!d.ringEnabled r || (d.rg r).enableWaits) = true
    · rw [if_pos c]
      exact near_trans (W _ _) (near_ends _ _ _ _ _)
    · rw [if_neg c]
      by_cases g : (d.rg r).caused = true
      · rw [if_pos g]
        have w := W ((d.rg r).work && !(d.rg r).st.isPaused) (d.rg r).pauseResult
        generalize (if ((d.rg r).work && !(d.rg r).st.isPaused) = true then d.writeStatus r (d.rg r).pauseResult else d) = z at *
        split
        · exact w
        · exact near_trans w (near_to _ _ _ _ _)
      · rw [if_neg g]
        exact near_of r rfl

theorem settle_pause (d : Device) (r : Fin 32) (who : Nat) (he : d.ringEnabled r = true) (hs : (d.rg r).srst = false) (hl : (d.rg r).latch = none) (hw : (d.rg r).work = false ∨ d.ringLoc r = true)
    (hc : (d.rg r).caused = true) (hp : (d.rg r).st.isPaused = false) (hd : (d.rg r).st ≠ .draining) :
    (∀ j, j ≠ r → (d.ringSettle r who).rg j = d.rg j) ∧ ((d.ringSettle r who).rg r).st = (d.rg r).pauseState ∧ ((d.ringSettle r who).rg r).prev = (d.rg r).st ∧ ((d.ringSettle r who).rg r).sw = (d.rg r).sw ∧
      ((d.rg r).work = false → RingIs d (d.ringSettle r who) r ((d.rg r).entered (d.rg r).pauseState)) := by
  have nd : ((d.rg r).st == RingState.draining) = false := by simpa using hd
  have ns : ∀ x : Ring, x.st.isPaused = false → ¬ x.pauseState = x.st := by
    intro x h q
    unfold Ring.pauseState at q
    rw [← q] at h
    revert h
    split
    · decide
    · split <;> decide
  unfold Device.ringSettle
  dsimp only
  rw [hs, he, hc, nd, hp]
  unfold Ring.enableWaits
  rw [hl]
  simp only [Bool.false_eq_true, if_false, Bool.not_true, Bool.or_self, if_true, Bool.not_false, Bool.and_true]
  by_cases w : (d.rg r).work = true
  · rw [if_pos w]
    have loc : d.ringLoc r = true := by
      rcases hw with q | q
      · rw [w] at q; exact absurd q (by decide)
      · exact q
    have st := status_loc d r (d.rg r).pauseResult loc
    generalize d.writeStatus r (d.rg r).pauseResult = z at *
    have zp : (z.rg r).pauseState = (d.rg r).pauseState := by rw [st.1]; rfl
    have zs : (z.rg r).st = (d.rg r).st := by rw [st.1]
    rw [zp, zs, if_neg (ns _ hp)]
    have t := ringIs_trans st (ringTo_is z r (d.rg r).pauseState 0x17 who)
    refine ⟨t.2, ?_, ?_, ?_, fun q => ?_⟩
    · rw [t.1]; rfl
    · rw [t.1]; exact zs
    · rw [t.1, st.1]; rfl
    · rw [w] at q; exact absurd q (by decide)
  · rw [if_neg w, if_neg (ns _ hp)]
    have t := ringTo_is d r (d.rg r).pauseState 0x17 who
    refine ⟨t.2, ?_, ?_, ?_, fun _ => t⟩ <;> rw [t.1] <;> rfl

theorem ringEnabled_of {d e : Device} {r : Fin 32} (h : (e.head (pg (ringPage r))).ctl = (d.head (pg (ringPage r))).ctl) : e.ringEnabled r = d.ringEnabled r := by
  unfold Device.ringEnabled; rw [h]

/-- The control words of every page are those of d. -/
def CtlSame (d e : Device) : Prop := ∀ p, (e.head p).ctl = (d.head p).ctl

theorem ctl_trans {a b c : Device} (h : CtlSame a b) (g : CtlSame b c) : CtlSame a c := fun p => (g p).trans (h p)

theorem ctl_of {d e : Device} (h : e.hdr = d.hdr) : CtlSame d e := fun p => by unfold Device.head; rw [h]

theorem ctl_fixed {d e : Device} (h : ∀ p, (e.head p).fixed = (d.head p).fixed) : CtlSame d e := fun p => (PageHdr.fixed_eq (h p)).2.2.2.2.2.1

theorem ctl_to (d : Device) (r : Fin 32) (st : RingState) (c w : Nat) : CtlSame d (d.ringTo r st c w) := ctl_fixed (ringTo_facts d r st c w).2.1

theorem head_at (d : Device) (p : Fin 256) (f : PageHdr → PageHdr) (q : Fin 256) : (d.updHdr p f).head q = if q = p then f (d.head p) else d.head q := upd_get _ _ _ _

theorem ctl_hdr (d : Device) (p : Fin 256) (f : PageHdr → PageHdr) (h : ∀ x, (f x).ctl = x.ctl) : CtlSame d (d.updHdr p f) := by
  intro q
  rw [head_at]
  split
  · rename_i e; rw [h, e]
  · rfl

theorem ctl_err (d : Device) (p : Nat) (w : Word) : CtlSame d (d.setErr p w) := ctl_hdr _ _ _ fun _ => rfl

theorem ctl_count (d : Device) (e n : Nat) : CtlSame d (d.pmcCountAll e n) := ctl_fixed (Device.pmcCountAll_beside d e n).2.2.2

theorem ctl_ends (d : Device) (r : Fin 32) (st : RingState) (c w : Nat) : CtlSame d (if (d.rg r).st = st then d else d.ringTo r st c w) := by
  split
  · exact fun _ => rfl
  · exact ctl_to d r st c w

theorem xltFault_ctl (d : Device) (b : Bool) (n c : Nat) (f : XltFault) : CtlSame d (d.xltFault b n c f) := by
  unfold Device.xltFault
  dsimp only
  have a : ∀ g, CtlSame d (d.updXlt g) := fun _ _ => rfl
  have a := a fun x => { x with
    finfo := field 31 28 f.cause ||| flag 25 b ||| flag 24 f.wr ||| field 11 8 c ||| field 4 0 n
    faddrLo := BitVec.ofNat 32 f.addr
    faddrHi := field 7 0 (f.addr / 2 ^ 32)
    fcount := satInc 0xFFFF x.fcount }
  generalize d.updXlt _ = y at *
  have k := ctl_trans (ctl_err y 0x0A0 (errBit 9)) (ctl_count (y.setErr 0x0A0 (errBit 9)) 0x26 1)
  generalize (y.setErr 0x0A0 (errBit 9)).pmcCountAll 0x26 1 = z at *
  refine ctl_trans a (ctl_trans k ?_)
  split
  · exact fun _ => rfl
  · exact ctl_fixed (raise_fixed z _ _)

theorem ringFault_ctl (d : Device) (r : Fin 32) (f : XltFault) : CtlSame d (d.ringFault r f) := by
  unfold Device.ringFault
  dsimp only
  generalize hy : d.updRg r _ = y
  have a : CtlSame d y := by rw [← hy]; exact fun _ => rfl
  generalize hz : y.setErr (ringPage r) (errBit 9) = z
  have b : CtlSame y z := by rw [← hz]; exact ctl_err _ _ _
  exact ctl_trans a (ctl_trans b (xltFault_ctl z _ _ _ _))

theorem descWrite_ctl (d : Device) (r : Fin 32) (w : Nat) (v : Word) : CtlSame d (d.descWrite r w v) := by
  unfold Device.descWrite
  dsimp only
  generalize hy : d.pmcCountAll 0x22 1 = y
  have a : CtlSame d y := by rw [← hy]; exact ctl_count _ _ _
  refine ctl_trans a ?_
  split
  · exact fun _ => rfl
  · cases y.translate (y.rg r).xctx (d.descAddr r (d.rg r).head + 4 * w) true with
    | ok h =>
      dsimp only
      split
      · exact ctl_trans (b := y.send _) (fun _ => rfl) (ctl_count _ _ _)
      · exact fun _ => rfl
    | error c => exact ringFault_ctl y r _

theorem writeStatus_ctl (d : Device) (r : Fin 32) (res : Nat) : CtlSame d (d.writeStatus r res) := by
  unfold Device.writeStatus
  dsimp only
  generalize hy : d.updRg r _ = y
  have a : CtlSame d y := by rw [← hy]; exact fun _ => rfl
  exact ctl_trans a (descWrite_ctl y r 5 _)

theorem settle_ctl (d : Device) (r : Fin 32) (w : Nat) (hd : (d.rg r).st ≠ .draining) : CtlSame d (d.ringSettle r w) := by
  have nd : ((d.rg r).st == RingState.draining) = false := by simpa using hd
  have W : ∀ (b : Bool) n, CtlSame d (if b then d.writeStatus r n else d) := by
    intro b n
    cases b
    · exact fun _ => rfl
    · exact writeStatus_ctl d r n
  unfold Device.ringSettle
  dsimp only
  rw [nd]
  simp only [Bool.false_eq_true, if_false]
  split
  · refine ctl_trans ?_ (ctl_ends _ _ _ _ _)
    refine ctl_trans (b := d.updRg r _) (fun _ => rfl) (ctl_hdr _ _ _ fun _ => rfl)
  · split
    · exact ctl_trans (W _ _) (ctl_ends _ _ _ _ _)
    · split
      · have w := W ((d.rg r).work && !(d.rg r).st.isPaused) (d.rg r).pauseResult
        generalize (if ((d.rg r).work && !(d.rg r).st.isPaused) = true then d.writeStatus r (d.rg r).pauseResult else d) = z at *
        split
        · exact w
        · exact ctl_trans w (ctl_to _ _ _ _ _)
      · exact fun _ => rfl

/-- A stop: the control words stay, and only ring r is touched. -/
theorem stop_facts (d : Device) (r : Fin 32) (w : Nat) : CtlSame d (d.ringStop r w) ∧ ∀ j, j ≠ r → (d.ringStop r w).rg j = d.rg j := by
  have S := settle_near d r w
  have C := settle_ctl d r w
  have T := ringTo_is d r .draining 0x17 w
  have K := ctl_to d r .draining 0x17 w
  have g : ∀ b c : Bool, (d.rg r).st ≠ .draining → CtlSame d (if b then d.ringTo r .draining 0x17 w else d.ringSettle r w) ∧
      ∀ j, j ≠ r → (if b then d.ringTo r .draining 0x17 w else d.ringSettle r w).rg j = d.rg j := by
    intro b _ h
    cases b
    · exact ⟨C h, (S h).1⟩
    · exact ⟨K, T.2⟩
  unfold Device.ringStop
  dsimp only
  cases hs : (d.rg r).st <;> dsimp only
  all_goals rw [hs] at S C g
  all_goals try exact g _ true (by decide)
  · split
    · exact ⟨C (by decide), (S (by decide)).1⟩
    · exact ⟨fun _ => rfl, fun _ _ => rfl⟩
  · exact ⟨fun _ => rfl, fun _ _ => rfl⟩

theorem freeze_ring (d : Device) (src : Source) (p : Nat) (on : Bool) : (d.freezeWrite src p on).dma = d.dma ∧
    bit ((d.freezeWrite src p on).head (pg p)).ctl 0 = bit (d.head (pg p)).ctl 0 ∧ ((d.freezeWrite src p on).head (pg p)).err = (d.head (pg p)).err := by
  refine ⟨?_, (freeze_head d src p on).2, ?_⟩
  · unfold Device.freezeWrite; (repeat' split) <;> rfl
  · unfold Device.freezeWrite
    split
    · rfl
    · split
      · dsimp only; rw [Device.head_updHdr]
      · rw [Device.head_updHdr]

theorem ring_of (d : Device) (r : Fin 32) (on : Bool) (who : Nat) : d.enableWrite (ringPage r) on who =
    if on = d.ringEnabled r then d else if on && d.ringEnableBad r then d.setErr (ringPage r) (errBit 8)
    else (d.updHdr (pg (ringPage r)) fun h => { h with ctl := setBit h.ctl 0 on }).ringEnable r on who := by
  have hp : ringPage r = 0x080 + r.val := rfl
  unfold Device.enableWrite Device.ringEnabled
  dsimp only
  by_cases e : on = bit (d.head (pg (ringPage r))).ctl 0
  · rw [if_pos e, if_pos e, if_neg (by rw [hp]; have := r.isLt; omega)]
  · rw [if_neg e, if_neg e]
    rw [hp, blockOf_ring]
    dsimp only
    rw [ofNat_ring]

theorem ring_page (r : Fin 32) : isBlockPage (ringPage r) = true := by revert r; decide

theorem tap_up (d : Device) (src : Source) : (d.tapLeaves src).boot.up = d.boot.up ∧ (d.tapLeaves src).boot.held = d.boot.held ∧ (d.tapLeaves src).boot.clkFailed = d.boot.clkFailed := by
  unfold Device.tapLeaves
  repeat' split
  all_goals exact ⟨rfl, rfl, rfl⟩

theorem win_block : ∀ n : Fin 2, blockOf (0x110 + n.val) = some .windowTable := by decide

/-- A taken write of a word of the aperture. -/
theorem win_write (s : State) (src : Source) (e : Fin 1024) (one : Bool) (data : Word) (ht : s.dev.takes src (0x110000 + 8 * e.val + 4 * b2n one) 0xFFFFFFFF data = true) :
    s.dev.busWrite s.fuses src (0x110000 + 8 * e.val + 4 * b2n one) 0xF data {} =
      (s.dev.arrive src (0x110000 + 8 * e.val + 4 * b2n one)).windowWrite (1024 * b2n s.dev.dma.xlt.bank[Fin.ofNat 16 (s.dev.requester src).code] + e.val) one (s.dev.requester src).code
        (s.dev.isAdmin (s.dev.requester src)) data := by
  have hb : b2n one ≤ 1 := by cases one <;> decide
  have he := e.isLt
  have hq : (0x110000 + 8 * e.val + 4 * b2n one) / 0x1000 = 0x110 + (8 * e.val) / 0x1000 := by omega
  have hlt : (8 * e.val) / 0x1000 < 2 := by omega
  have hblk : blockOf ((0x110000 + 8 * e.val + 4 * b2n one) / 0x1000) = some .windowTable := by rw [hq]; exact win_block ⟨_, hlt⟩
  have nb : isBlockPage ((0x110000 + 8 * e.val + 4 * b2n one) / 0x1000) = false := by
    cases hc : isBlockPage ((0x110000 + 8 * e.val + 4 * b2n one) / 0x1000)
    · rfl
    · have := isBlockPage_lt hc; omega
  have hw := Device.busWrite_taken s.dev s.fuses src (0x110000 + 8 * e.val + 4 * b2n one) 0xF data {} ht (by omega) (by rw [hblk]; rfl) (by rw [nb]; rfl) (by decide)
  rw [hw]
  unfold Device.blockWrite
  rw [hblk]
  dsimp only
  rw [Device.arrive_requester, byteMask_full]
  unfold Device.apertureWrite
  dsimp only
  have i1 : (0x1000 * ((0x110000 + 8 * e.val + 4 * b2n one) / 0x1000 - 0x110) + (0x110000 + 8 * e.val + 4 * b2n one) % 0x1000) / 8 = e.val := by omega
  have i2 : (0x110000 + 8 * e.val + 4 * b2n one) % 0x1000 / 4 % 2 = b2n one := by omega
  rw [i1, i2, Device.arrive_isAdmin, merge_full, Device.arrive_dma]
  have i3 : decide (b2n one = 1) = one := by cases one <;> decide
  rw [i3]

/-- A write of word 0 of window entry i. -/
theorem window_zero (y : Device) (i c : Nat) (ad : Bool) (data : Word) (hc : y.canonical = true) :
    (y.windowMay i c ad data = true → (y.windowWrite i false c ad data).dma = { y.dma with xlt := { y.dma.xlt with held := y.dma.xlt.held.set (Fin.ofNat 16 c) none } } ∧
      (y.windowWrite i false c ad data).reg (xltAddr i 0) = data ∧ (y.windowWrite i false c ad data).reg (xltAddr i 1) = y.dma.xlt.held[Fin.ofNat 16 c].getD (y.reg (xltAddr i 1)) ∧
      ∀ a, a ≠ xltAddr i 0 → a ≠ xltAddr i 1 → (y.windowWrite i false c ad data).reg a = y.reg a) ∧
    (y.windowMay i c ad data = false → (y.windowWrite i false c ad data).dma = y.dma ∧ (y.windowWrite i false c ad data).regs = y.regs ∧
      bit ((y.windowWrite i false c ad data).head (pg 0x0A0)).err 1 = true) := by
  have ne : xltAddr i 1 ≠ xltAddr i 0 := by unfold xltAddr; omega
  unfold Device.windowWrite
  dsimp only
  rw [if_neg (by decide)]
  cases h : y.windowMay i c ad data
  · rw [if_neg (by decide)]
    exact ⟨by simp, fun _ => ⟨rfl, rfl, err_bit y (pg 0x0A0) 1 (by decide)⟩⟩
  · rw [if_pos rfl]
    refine ⟨fun _ => ?_, by simp⟩
    have K : ∀ z : Device, z.canonical = true → z.dma = y.dma → (∀ a, a ≠ xltAddr i 1 → z.reg a = y.reg a) → ∀ v, z.reg (xltAddr i 1) = v →
        ((z.setReg (xltAddr i 0) data).updXlt fun x => { x with held := x.held.set (Fin.ofNat 16 c) none }).dma = { y.dma with xlt := { y.dma.xlt with held := y.dma.xlt.held.set (Fin.ofNat 16 c) none } } ∧
        ((z.setReg (xltAddr i 0) data).updXlt fun x => { x with held := x.held.set (Fin.ofNat 16 c) none }).reg (xltAddr i 0) = data ∧
        ((z.setReg (xltAddr i 0) data).updXlt fun x => { x with held := x.held.set (Fin.ofNat 16 c) none }).reg (xltAddr i 1) = v ∧
        ∀ a, a ≠ xltAddr i 0 → a ≠ xltAddr i 1 → ((z.setReg (xltAddr i 0) data).updXlt fun x => { x with held := x.held.set (Fin.ofNat 16 c) none }).reg a = y.reg a := by
      intro z zc zd zo v z1
      refine ⟨?_, ?_, ?_, fun a h0 h1 => ?_⟩
      · rw [← zd]; rfl
      · exact Device.reg_setReg z _ _ zc
      · exact (Device.reg_setReg_other z (xltAddr i 0) data ne).trans z1
      · exact (Device.reg_setReg_other z (xltAddr i 0) data h0).trans (zo a h1)
    cases y.dma.xlt.held[Fin.ofNat 16 c] with
    | none => exact K y hc rfl (fun _ _ => rfl) _ rfl
    | some v => exact K (y.setReg (xltAddr i 1) v) (Device.setReg_canon _ _ _ hc) rfl (fun a h1 => Device.reg_setReg_other y _ _ h1) v (Device.reg_setReg y _ _ hc)

/-- Only ring r differs. -/
def Others (d e : Device) (r : Fin 32) : Prop := ∀ j, j ≠ r → e.rg j = d.rg j

theorem others_trans {a b c : Device} {r : Fin 32} (h : Others a b r) (g : Others b c r) : Others a c r := fun j q => (g j q).trans (h j q)

theorem others_of {d e : Device} (r : Fin 32) (h : e.dma.ring = d.dma.ring) : Others d e r := fun j _ => by unfold Device.rg; rw [h]

theorem others_upd (d : Device) (r : Fin 32) (f : Ring → Ring) : Others d (d.updRg r f) r := (upd_is d r f).2

theorem others_to (d : Device) (r : Fin 32) (st : RingState) (c w : Nat) : Others d (d.ringTo r st c w) r := (ringTo_is d r st c w).2

theorem others_ends (d : Device) (r : Fin 32) (st : RingState) (c w : Nat) : Others d (if (d.rg r).st = st then d else d.ringTo r st c w) r := (near_ends d r st c w).2

theorem others_fetch (d : Device) (r : Fin 32) (c w : Nat) : Others d (d.ringFetch r c w) r := (fetch_is d r c w).2

theorem run_others (d : Device) (r : Fin 32) (w : Nat) : Others d (d.ringRun r w) r := by
  unfold Device.ringRun
  dsimp only
  generalize hy : d.updRg r _ = y
  have a : Others d y r := by rw [← hy]; exact others_upd d r _
  refine others_trans a ?_
  split
  · exact others_to _ _ _ _ _
  · exact others_fetch _ _ _ _

theorem resume_others (d : Device) (r : Fin 32) (w : Nat) : Others d (d.ringResume r w) r := by
  unfold Device.ringResume
  dsimp only
  split
  · generalize hy : (d.updRg r fun x => { x with sw := false, fault := false, err := false, lease := false, xctx := w }) = y
    have a : Others d y r := by rw [← hy]; exact others_upd d r _
    refine others_trans a ?_
    split
    · split
      · exact fun _ _ => rfl
      · exact others_to _ _ _ _ _
    · exact others_fetch _ _ _ _
  · split
    · exact others_upd d r _
    · exact fun _ _ => rfl

theorem latched_others (d : Device) (r : Fin 32) : Others d (d.ringLatched r) r := by
  unfold Device.ringLatched
  cases (d.rg r).latch with
  | none => exact fun _ _ => rfl
  | some l =>
    dsimp only
    generalize hy : (d.updRg r fun x => { x with latch := none }) = y
    have a : Others d y r := by rw [← hy]; exact others_upd d r _
    refine others_trans a ?_
    cases l with
    | enable w =>
      dsimp only
      split
      · exact run_others y r w
      · exact fun _ _ => rfl
    | resume w => exact resume_others y r w

theorem settle_others (d : Device) (r : Fin 32) (w : Nat := byHw) : Others d (d.ringSettle r w) r := by
  have W : ∀ (b : Bool) n, Others d (if b then d.writeStatus r n else d) r := by
    intro b n
    cases b
    · exact fun _ _ => rfl
    · exact (writeStatus_same d r n).2.2
  have L : ∀ (b : Bool) z, Others d z r → Others d (if b then z.ringLatched r else z) r := by
    intro b z h
    cases b
    · exact h
    · exact others_trans h (latched_others z r)
  unfold Device.ringSettle
  dsimp only
  apply L
  split
  · refine others_trans ?_ (others_ends _ _ _ _ _)
    exact others_trans (b := d.updRg r _) (others_upd d r _) fun _ _ => rfl
  · split
    · exact others_trans (W _ _) (others_ends _ _ _ _ _)
    · split
      · have w := W ((d.rg r).work && !(d.rg r).st.isPaused) (d.rg r).pauseResult
        generalize (if ((d.rg r).work && !(d.rg r).st.isPaused) = true then d.writeStatus r (d.rg r).pauseResult else d) = z at *
        split
        · exact w
        · exact others_trans w (others_to _ _ _ _ _)
      · exact fun _ _ => rfl

theorem host_others (d : Device) (r : Fin 32) : Others d (d.ringHost r) r := by
  unfold Device.ringHost
  dsimp only
  split
  · split
    · generalize hy : (d.updRg r fun x => { x with host := false }) = y
      have a : Others d y r := by rw [← hy]; exact others_upd d r _
      refine others_trans a ?_
      split
      · split
        · split
          · exact fun _ _ => rfl
          · exact others_to _ _ _ _ _
        · exact others_fetch _ _ _ _
      · exact fun _ _ => rfl
    · exact fun _ _ => rfl
  · split
    · exact others_trans (others_upd d r _) (stop_facts _ r byHw).2
    · exact fun _ _ => rfl

theorem done_others (d : Device) (r : Fin 32) : Others d (d.descDone r) r := by
  unfold Device.descDone
  dsimp only
  have a := others_trans (writeStatus_same d r 0).2.2 (descWrite_same (d.writeStatus r 0) r 0 (setBit (d.rg r).desc[0] 31 false)).2.2
  generalize (d.writeStatus r 0).descWrite r 0 (setBit (d.rg r).desc[0] 31 false) = y at *
  refine others_trans a ?_
  have b := others_upd y r fun x => { x with head := (x.head + 1) % max 1 (y.ringN r), offset := 0, done := (x.done + 1) % 65536, work := false }
  generalize (y.updRg r fun x => { x with head := (x.head + 1) % max 1 (y.ringN r), offset := 0, done := (x.done + 1) % 65536, work := false }) = z at *
  refine others_trans b ?_
  · split
    · exact others_of r (by rw [show ∀ (z : Device) n w, (z.raise n w).dma = z.dma from fun z n w => keeps_dma (by simp)])
    · exact fun _ _ => rfl

theorem next_others (d : Device) (r : Fin 32) (c : Nat) : Others d (d.ringNext r c) r := by
  unfold Device.ringNext
  dsimp only
  split
  · exact settle_others d r
  · exact others_fetch _ _ _ _

theorem burstMap_of {d e : Device} (h : e.dma = d.dma) : e.burstMap = d.burstMap := by unfold Device.burstMap Device.rg; rw [h]

/-- What follows a descriptor read that answered the words ws; m: the bursts in progress. -/
def Device.afterFetch (d : Device) (r : Fin 32) (ws : Vector Word 8) (m : BitVec 32) : Device :=
  let d := d.updRg r fun x => { x with reading := false, desc := ws, fence := m }
  let own := bit ws[0] 31
  if (d.rg r).st == .draining then
    let d := if own then d else d.updRg r fun x => { x with offset := 0 }
    d.ringSettle r
  else if !own then
    let d := d.updRg r fun x => { x with offset := 0 }
    if (d.rg r).db then d.ringFetch r 0x13 else d.ringTo r .idle 0x14
  else if !d.descValid r then
    let d := (d.updRg r fun x => { x with err := true, res := 5 }).setErr (ringPage r) (errBit 11)
    let d := d.writeStatus r 5
    d.ringTo r (d.rg r).pauseState 0x18
  else
    let wait := (d.rg r).isStream && !d.ringRequest r
    let d := d.ringTo r (if wait then .waitreq else .active) 0x12
    if (d.rg r).type == 0x1F || (d.rg r).length ≤ (d.rg r).offset then
      let d := if (d.rg r).type == 0x1F then d.updRg r fun x => { x with offset := 0 } else d
      (d.descDone r).ringNext r 0x15
    else d.ringHost r

theorem descFetch_loc (d : Device) (r : Fin 32) (host : Vector Word 8) (h : (d.rg r).reading = true) (hl : d.ringLoc r = true) :
    d.descFetch r host = (d.pmcCountAll 0x22 2).afterFetch r (Vector.ofFn fun i : Fin 8 => d.ramWord (d.descAddr r (d.rg r).head + 4 * i.val)) d.burstMap := by
  unfold Device.descFetch
  dsimp only
  rw [if_neg (by rw [h]; decide), if_neg (by rw [hl]; simp), if_pos hl]
  dsimp only
  have c1 : (d.pmcCountAll 0x22 2).dma = d.dma := keeps_dma (by simp)
  have c2 : (d.pmcCountAll 0x22 2).ram = d.ram := keeps_ram (by simp)
  have c3 : (d.pmcCountAll 0x22 2).regs = d.regs := keeps_regs (by simp)
  generalize d.pmcCountAll 0x22 2 = y at *
  have l1 : y.ringLoc r = true := (ringLoc_of c3 r).trans hl
  rw [if_pos l1, if_pos l1, burstMap_of c1]
  have rw1 : ∀ a, y.ramWord a = d.ramWord a := fun a => by unfold Device.ramWord; rw [c2]
  simp only [rw1]
  rfl

theorem after_others (y : Device) (r : Fin 32) (w : Vector Word 8) (m : BitVec 32) : Others y (y.afterFetch r w m) r := by
  unfold Device.afterFetch
  dsimp only
  have a := others_upd y r fun x => { x with reading := false, desc := w, fence := m }
  generalize (y.updRg r fun x => { x with reading := false, desc := w, fence := m }) = z at *
  refine others_trans a ?_
  split
  · split
    · exact settle_others z r
    · exact others_trans (others_upd z r _) (settle_others _ r)
  · split
    · have b := others_upd z r fun x => { x with offset := 0 }
      generalize (z.updRg r fun x => { x with offset := 0 }) = u at *
      refine others_trans b ?_
      split
      · exact others_fetch _ _ _ _
      · exact others_to _ _ _ _ _
    · split
      · have b := others_upd z r fun x => { x with err := true, res := 5 }
        generalize (z.updRg r fun x => { x with err := true, res := 5 }) = u at *
        have c := others_of r (show (u.setErr (ringPage r) (errBit 11)).dma.ring = u.dma.ring from rfl)
        generalize u.setErr (ringPage r) (errBit 11) = v at *
        exact others_trans b (others_trans c (others_trans (writeStatus_same v r 5).2.2 (others_to _ _ _ _ _)))
      · have b := others_to z r (if ((z.rg r).isStream && !z.ringRequest r) = true then RingState.waitreq else RingState.active) 0x12 byHw
        generalize z.ringTo r (if ((z.rg r).isStream && !z.ringRequest r) = true then RingState.waitreq else RingState.active) 0x12 = u at *
        refine others_trans b ?_
        split
        · split
          · exact others_trans (others_upd u r _) (others_trans (done_others _ r) (next_others _ r _))
          · exact others_trans (done_others _ r) (next_others _ r _)
        · exact host_others u r

theorem after_part (d : Device) (r : Fin 32) (w : Vector Word 8) (m : BitVec 32) (hst : (d.rg r).st ≠ .draining) (hl : d.ringLoc r = true) :
    let x := d.rg r
    let y := { x with reading := false, desc := w, fence := m }
    let e := d.afterFetch r w m
    (bit w[0] 31 = false → x.db = false → e.rg r = { y with offset := 0, prev := x.st, st := .idle, work := false }) ∧
      (bit w[0] 31 = false → x.db = true → e.rg r = { y with offset := 0 }.fetching) ∧
      (bit w[0] 31 = true → y.type = 0 → x.offset < y.length → d.pcieMayIssue = true → x.host = false → e.rg r = { y with prev := x.st, st := .active, work := true }) ∧
      (bit w[0] 31 = true → y.type ≠ 0 → y.type ≠ 1 → y.type ≠ 0x1F → (e.rg r).err = true ∧ (e.rg r).res = 5 ∧ (e.rg r).lastRes = 5 ∧
        (e.rg r).st = if x.fault then .pausedFault else .pausedErr) := by
  unfold Device.afterFetch
  dsimp only
  have u := upd_is d r fun x => { x with reading := false, desc := w, fence := m }
  have u3 : (d.updRg r fun x => { x with reading := false, desc := w, fence := m }).regs = d.regs := rfl
  have u4 : (d.updRg r fun x => { x with reading := false, desc := w, fence := m }).boot = d.boot := rfl
  have u5 : (d.updRg r fun x => { x with reading := false, desc := w, fence := m }).pcie = d.pcie := rfl
  generalize (d.updRg r fun x => { x with reading := false, desc := w, fence := m }) = z at *
  have zst : (z.rg r).st = (d.rg r).st := by rw [u.1]
  have zl : z.ringLoc r = true := by rw [ringLoc_of u3, hl]
  rw [zst, if_neg (by simpa using hst)]
  cases hb : bit w[0] 31
  · rw [if_pos (by rfl)]
    refine ⟨fun _ hdb => ?_, fun _ hdb => ?_, by simp, by simp⟩
    · have v := upd_is z r fun x => { x with offset := 0 }
      generalize (z.updRg r fun x => { x with offset := 0 }) = a at *
      have adb : (a.rg r).db = false := by rw [v.1, u.1]; exact hdb
      rw [adb, if_neg (by decide), (ringTo_is a r .idle 0x14 byHw).1, v.1, u.1]
      rfl
    · have v := upd_is z r fun x => { x with offset := 0 }
      generalize (z.updRg r fun x => { x with offset := 0 }) = a at *
      have adb : (a.rg r).db = true := by rw [v.1, u.1]; exact hdb
      rw [adb, if_pos rfl, (fetch_is a r 0x13 byHw).1, v.1, u.1]
  · rw [if_neg (by decide)]
    refine ⟨by simp, by simp, fun _ ht hlen hmay hh => ?_, fun _ n0 n1 n2 => ?_⟩
    · rw [← u.1] at ht hlen
      have hs : (z.rg r).isStream = false := by unfold Ring.isStream; rw [ht]; rfl
      have hv : z.descValid r = true := by unfold Device.descValid; dsimp only; rw [ht]; simp
      rw [hv, hs, if_neg (by decide), Bool.false_and, show (if false = true then RingState.waitreq else RingState.active) = .active from rfl]
      have zmay : z.pcieMayIssue = true := by unfold Device.pcieMayIssue at *; rw [u4, u5]; exact hmay
      have t := ringTo_is z r .active 0x12 byHw
      have k1 : (z.ringTo r .active 0x12).boot = z.boot := (ringTo_facts z r .active 0x12 byHw).2.2 .boot (by decide)
      have k2 : (z.ringTo r .active 0x12).pcie = z.pcie := (ringTo_facts z r .active 0x12 byHw).2.2 .pcie (by decide)
      generalize z.ringTo r .active 0x12 = v at *
      have vt : (v.rg r).type = 0 := by rw [t.1]; exact ht
      have vl : (v.rg r).length = (z.rg r).length := by rw [t.1]; rfl
      have vo : (v.rg r).offset = (d.rg r).offset := by rw [t.1, u.1]; rfl
      rw [vt, vl, vo, if_neg (by simp; exact hlen)]
      unfold Device.ringHost
      have vmay : v.pcieMayIssue = true := by unfold Device.pcieMayIssue at *; rw [k1, k2]; exact zmay
      have vh : (v.rg r).host = false := by rw [t.1, u.1]; exact hh
      rw [if_pos vmay, vh, if_neg (by decide), t.1, u.1]
      rfl
    · rw [← u.1] at n0 n1 n2
      have hv : z.descValid r = false := by
        unfold Device.descValid
        dsimp only
        have a0 : ((z.rg r).type == 0) = false := by simpa using n0
        have a1 : ((z.rg r).type == 1) = false := by simpa using n1
        have a2 : ((z.rg r).type == 31) = false := by simpa using n2
        rw [a0, a1, a2]
        rfl
      rw [hv, if_pos (by decide)]
      have v := upd_is z r fun x => { x with err := true, res := 5 }
      have v3 : (z.updRg r fun x => { x with err := true, res := 5 }).regs = z.regs := rfl
      generalize (z.updRg r fun x => { x with err := true, res := 5 }) = a at *
      have b : RingIs a (a.setErr (ringPage r) (errBit 11)) r (a.rg r) := ⟨rfl, fun _ _ => rfl⟩
      have b3 : (a.setErr (ringPage r) (errBit 11)).regs = a.regs := rfl
      generalize a.setErr (ringPage r) (errBit 11) = g at *
      have gl : g.ringLoc r = true := by rw [ringLoc_of b3, ringLoc_of v3, zl]
      have w1 := status_loc g r 5 gl
      generalize g.writeStatus r 5 = h at *
      have hc : (h.rg r).pauseState = if (d.rg r).fault then .pausedFault else .pausedErr := by
        rw [w1.1, b.1, v.1, u.1]; unfold Ring.pauseState; simp
      rw [(ringTo_is h r _ 0x18 byHw).1]
      refine ⟨?_, ?_, ?_, ?_⟩
      · show (h.rg r).err = true; rw [w1.1, b.1, v.1]
      · show (h.rg r).res = 5; rw [w1.1, b.1, v.1]
      · show (h.rg r).lastRes = 5; rw [w1.1]
      · exact hc

theorem start_facts (d : Device) (r : Fin 32) : RingIs d ((d.burstStart r).syncState 0x070 1 0x02 byHw) r ((d.rg r).begin (bits (d.rcfg r) 8 0) (d.burstPlan r)) ∧
    ((d.burstStart r).syncState 0x070 1 0x02 byHw).dma.lastStart = d.dma.lastStart.set (bits (d.rcfg r) 31 30) r.val (by unfold bits; omega) := by
  have k : ∀ z : Device, (z.syncState 0x070 1 0x02 byHw).dma = z.dma := fun z => keeps_dma (by simp)
  have u := upd_is d r fun x => x.begin (bits (d.rcfg r) 8 0) (d.burstPlan r)
  have F : ∀ (l : List (Nat × Nat)) (a b : Nat) (z : Device), (l.foldl (fun (d : Device) (p : Nat × Nat) =>
      if max a (p.1 * 65536) < min b ((p.1 + 1) * 65536) ∧ d.pcieMayIssue then (d.sendTlp (.hostRead (p.2 * 65536 + max a (p.1 * 65536) % 65536) (min b ((p.1 + 1) * 65536) - max a (p.1 * 65536)))).pmcCountAll 0x31 1 else d) z).dma = z.dma ∧
      (l.foldl (fun (d : Device) (p : Nat × Nat) =>
      if max a (p.1 * 65536) < min b ((p.1 + 1) * 65536) ∧ d.pcieMayIssue then (d.sendTlp (.hostRead (p.2 * 65536 + max a (p.1 * 65536) % 65536) (min b ((p.1 + 1) * 65536) - max a (p.1 * 65536)))).pmcCountAll 0x31 1 else d) z).regs = z.regs := by
    intro l a b
    induction l with
    | nil => exact fun z => ⟨rfl, rfl⟩
    | cons p l ih =>
      intro z
      rw [List.foldl_cons]
      refine ⟨(ih _).1.trans ?_, (ih _).2.trans ?_⟩
      · split
        · exact keeps_dma (by simp)
        · rfl
      · split
        · exact keeps_regs (by simp)
        · rfl
  have G : ∀ (c : Bool) (l : List (Nat × Nat)) (a b : Nat) (z : Device), z.regs = d.regs → RingIs d z r ((d.rg r).begin (bits (d.rcfg r) 8 0) (d.burstPlan r)) → z.dma.lastStart = d.dma.lastStart →
      ∀ w, w = (if c then z else l.foldl (fun (d : Device) (p : Nat × Nat) =>
      if max a (p.1 * 65536) < min b ((p.1 + 1) * 65536) ∧ d.pcieMayIssue then (d.sendTlp (.hostRead (p.2 * 65536 + max a (p.1 * 65536) % 65536) (min b ((p.1 + 1) * 65536) - max a (p.1 * 65536)))).pmcCountAll 0x31 1 else d) z) →
      RingIs d (w.updDma fun y => y.started (Fin.ofNat 4 (bits (w.rcfg r) 31 30)) r.val) r ((d.rg r).begin (bits (d.rcfg r) 8 0) (d.burstPlan r)) ∧
      (w.updDma fun y => y.started (Fin.ofNat 4 (bits (w.rcfg r) 31 30)) r.val).dma.lastStart = d.dma.lastStart.set (bits (d.rcfg r) 31 30) r.val (by unfold bits; omega) := by
    intro c l a b z zr zi zl w hw
    have wd : w.dma = z.dma ∧ w.regs = z.regs := by
      rw [hw]
      cases c
      · exact F l a b z
      · exact ⟨rfl, rfl⟩
    have cr : w.rcfg r = d.rcfg r := by unfold Device.rcfg Device.reg; rw [wd.2, zr]
    refine ⟨⟨?_, fun j hj => ?_⟩, ?_⟩
    · exact (rg_of wd.1 r).trans zi.1
    · exact (rg_of wd.1 j).trans (zi.2 j hj)
    · show w.dma.lastStart.set (Fin.ofNat 4 (bits (w.rcfg r) 31 30)).val r.val (Fin.isLt _) = _
      rw [cr, wd.1, zl]
      have q : (Fin.ofNat 4 (bits (d.rcfg r) 31 30)).val = bits (d.rcfg r) 31 30 := by
        show bits (d.rcfg r) 31 30 % 4 = _
        unfold bits; omega
      congr 1
  have g := G (d.rg r).isStream (d.burstPlan r).srcHost ((d.rg r).src + (d.rg r).offset) ((d.rg r).src + (d.rg r).offset + (d.burstPlan r).limit)
    (d.updRg r fun x => x.begin (bits (d.rcfg r) 8 0) (d.burstPlan r)) rfl u rfl _ rfl
  rw [k]
  refine ⟨ringIs_trans (x := (d.rg r).begin (bits (d.rcfg r) 8 0) (d.burstPlan r)) g.1 ⟨?_, fun j _ => rg_of (k _) j⟩, g.2⟩
  exact (rg_of (k _) r).trans g.1.1

theorem funnel_none (m n x : Nat) : funnel m n x (x + 0) = [] := by
  cases n with
  | zero => rfl
  | succ n => unfold funnel; rw [if_neg (by omega)]

/-- The source bytes of a burst that lies whole in host memory. -/
theorem read_host (d : Device) (r : Fin 32) (n : Nat) (data : List Byte) (hs : (d.rg r).isStream = false) (ha : 0x1000000 ≤ (d.rg r).src + (d.rg r).offset) :
    ∃ k, d.burstRead r n data = (data.take n, d.pmcCountAll 0x22 k) := by
  unfold Device.burstRead
  dsimp only
  rw [hs, if_neg (by decide)]
  have c : min n (0x1000000 - ((d.rg r).src + (d.rg r).offset)) = 0 := by omega
  rw [c]
  unfold accessesOf
  rw [funnel_none]
  exact ⟨_, rfl⟩

theorem over_ring (d : Device) (r : Fin 32) : (d.burstOver r).rg r = { d.rg r with burst := none, fence := (d.rg r).fence &&& ~~~(BitVec.ofNat 32 (2 ^ r.val)) } := by
  unfold Device.burstOver
  dsimp only
  have k : ∀ (z : Device) c, (z.syncState 0x070 c 0x02 byHw).dma = z.dma := fun z c => keeps_dma (by simp)
  rw [rg_of (k _ _)]
  unfold Device.updDma Device.rg mapFin
  dsimp only
  simp

theorem send_out (d : Device) (o : Outgoing) : (d.sendTlp o).dma = d.dma ∧ (d.sendTlp o).boot = d.boot ∧ (d.sendTlp o).pcie = d.pcie ∧ o ∈ (d.sendTlp o).out := by
  have k1 : ∀ z : Device, (z.pmcCountAll 0x30 1).out = z.out := fun z => keeps_out (by simp)
  refine ⟨keeps_dma (by simp), keeps_boot (by simp), keeps_pcie (by simp), ?_⟩
  unfold Device.sendTlp
  rw [k1]
  unfold Device.send
  simp

theorem write_host (d : Device) (f : OtpArray) (r : Fin 32) (h : Nat) (bs : List Byte) (hb : bs.isEmpty = false) (hm : d.pcieMayIssue = true) :
    ∃ k, d.burstWrite f r (some h) bs = { dev := (d.sendTlp (.hostWrite h bs)).pmcCountAll 0x22 k, bytes := bs, done := bs.length, refused := false } := by
  unfold Device.burstWrite
  dsimp only
  rw [hb, hm, if_neg (by decide)]
  exact ⟨_, rfl⟩

/-- The burst of ring r after its offset has moved by n: what follows when it met no error and its descriptor is not done. -/
theorem end_plain (v : Device) (f : OtpArray) (r : Fin 32) (b : Burst) (n : Nat) (data : List Byte) (u : FunnelRun) (hu : (v.burstRead r n data).2.burstWrite f r b.dstHost (v.burstRead r n data).1 = u)
    (hr : u.refused = false) (hf : b.fault = none) (hd : u.dev.dma = v.dma) (hmay : u.dev.pcieMayIssue = true) (hst : (v.rg r).st = .active) (hc : (v.rg r).caused = false)
    (hlen : (v.rg r).offset + u.done < (v.rg r).length) :
    v.burstEnd f r b n data false = ((u.dev.pmcCount 0x25 r.val u.done).updRg r fun x => { x with offset := x.offset + u.done }).burstOver r ∧
      ((v.burstEnd f r b n data false).rg r).burst = none ∧ ((v.burstEnd f r b n data false).rg r).offset = (v.rg r).offset + u.done ∧ ((v.burstEnd f r b n data false).rg r).st = .active := by
  unfold Device.burstEnd
  dsimp only
  rw [hu, hr, hf]
  dsimp only
  have p1 : (u.dev.pmcCount 0x25 r.val u.done).dma = v.dma := (keeps_dma (by simp) : _ = u.dev.dma).trans hd
  have p2 : (u.dev.pmcCount 0x25 r.val u.done).boot = u.dev.boot := keeps_boot (by simp)
  have p3 : (u.dev.pmcCount 0x25 r.val u.done).pcie = u.dev.pcie := keeps_pcie (by simp)
  generalize u.dev.pmcCount 0x25 r.val u.done = y at *
  have q := upd_is y r fun x => { x with offset := x.offset + u.done }
  have q2 : (y.updRg r fun x => { x with offset := x.offset + u.done }).boot = y.boot := rfl
  have q3 : (y.updRg r fun x => { x with offset := x.offset + u.done }).pcie = y.pcie := rfl
  rw [rg_of p1] at q
  generalize (y.updRg r fun x => { x with offset := x.offset + u.done }) = w at *
  have o1 := over_ring w r
  have o2 : (w.burstOver r).boot = w.boot := keeps_boot (by simp)
  have o3 : (w.burstOver r).pcie = w.pcie := keeps_pcie (by simp)
  generalize w.burstOver r = a at *
  simp only [Bool.false_eq_true, if_false]
  rw [q.1] at o1
  have cc := hc
  unfold Ring.caused at cc
  simp only [Bool.or_eq_false_iff] at cc
  have ah : (a.rg r).host = false := by rw [o1]; exact cc.1.1.2
  have am : a.pcieMayIssue = true := by unfold Device.pcieMayIssue at *; rw [o2, o3, q2, q3, p2, p3]; exact hmay
  have e : a.ringHost r = a := by
    unfold Device.ringHost
    rw [if_pos am, ah, if_neg (by decide)]
  rw [e]
  have ae : (a.rg r).err = false := by rw [o1]; exact cc.2
  have af : (a.rg r).fault = false := by rw [o1]; exact cc.1.2
  have al : ¬ (a.rg r).length ≤ (a.rg r).offset := by
    rw [o1]
    show ¬ (v.rg r).length ≤ (v.rg r).offset + u.done
    omega
  have as : (a.rg r).st = .active := by rw [o1]; exact hst
  rw [ae, af, decide_eq_false al, as]
  rw [if_neg (by decide), if_neg (by simp), if_neg (by decide)]
  exact ⟨rfl, by rw [o1], by rw [o1], as⟩

theorem settle_eq (d : Device) (r : Fin 32) (he : d.ringEnabled r = true) (hs : (d.rg r).srst = false) (hl : (d.rg r).latch = none) (hw : (d.rg r).work = false)
    (hc : (d.rg r).caused = true) (hn : ¬ (d.rg r).pauseState = (d.rg r).st) (hd : (d.rg r).st ≠ .draining) :
    d.ringSettle r = d.ringTo r (d.rg r).pauseState 0x17 := by
  have nd : ((d.rg r).st == RingState.draining) = false := by simpa using hd
  unfold Device.ringSettle
  dsimp only
  rw [hs, he, hc, nd]
  unfold Ring.enableWaits
  rw [hl, hw]
  simp only [Bool.false_eq_true, if_false, Bool.not_true, Bool.or_self, if_true, Bool.false_and]
  rw [if_neg hn]

end Sys2Proof.Machine
end

