-- ==== Sys2Proof/Laws/Telemetry.lean ====
section
/-! SUPPORT. Telemetry: what a record, a window end, a channel register, a trigger of the rushes, a daily period and a counter do. -/

namespace Sys2Proof.Machine
open Sys2Proof

/-- A read that reaches its page is counted as any access is, unless R109 forbids it. -/
theorem busRead_arrive (d : Device) (src : Source) (a : Nat) (hg : d.gets src a = true) (h4 : a % 4 = 0) (hq : quietRead (a / 0x1000) (a % 0x1000) = false) :
    d.busRead src a = ((d.arrive src a).readPlain src a).2 := by
  unfold Device.gets at hg
  unfold Device.busRead
  dsimp only
  rw [if_pos hg, show a / 4 * 4 = a by omega]
  unfold Device.readWord
  rw [hq]
  rfl

theorem read_peak (d : Device) (src : Source) (k : PeakReg) : (d.readPlain src (peakAddr k)).2 = (d.peakRead k).2 := by
  have h : peakAt (peakAddr k) = some k := by
    cases k with
    | lpeak n => revert n; decide
    | lipeak n => revert n; decide
    | ppeak n => revert n; decide
  unfold Device.readPlain
  dsimp only
  rw [h]

theorem peak_loud (k : PeakReg) : quietRead (peakAddr k / 0x1000) (peakAddr k % 0x1000) = false ∧ peakAddr k % 4 = 0 := by
  cases k with
  | lpeak n => revert n; decide
  | lipeak n => revert n; decide
  | ppeak n => revert n; decide

theorem put_tlm (d : Device) (a : Nat) (ws : Vector Word 8) : (d.putRecord a ws).tlm = d.tlm ∧ (d.putRecord a ws).regs = d.regs ∧ (d.putRecord a ws).hdr = d.hdr ∧ (d.putRecord a ws).evc = d.evc ∧
    (d.putRecord a ws).pmc = d.pmc ∧ (d.putRecord a ws).ts = d.ts :=
  ⟨keeps_tlm (by simp), keeps_regs (by simp), keeps_hdr (by simp), keeps_evc (by simp), keeps_pmc (by simp), keeps_ts (by simp)⟩

theorem trigger_on (d : Device) (c n : Nat) (he : (match c with
      | 1 => bit (d.reg 0x0B1044) 16
      | 2 => bit (d.reg 0x0B1044) 17
      | 3 => bit (d.reg 0x0B1044) 18
      | _ => true) = true) (ho : d.rushOn = true) (hs : d.tlm.rush.st = .recording) :
    (d.rushTrigger c n).tlm.rush.st = .triggered ∧ (d.rushTrigger c n).tlm.rush.mark = d.tlm.rush.next ∧ (d.rushTrigger c n).tlm.rush.next = (d.tlm.rush.next + 1) % 8192 ∧
      (d.rushTrigger c n).tlm.rush.left = bits (d.reg 0x0B1044) 12 0 ∧ (d.rushTrigger c n).tlm.sch = d.tlm.sch ∧ ((d.rushTrigger c n).head (pg rushPage)).cur = 2 := by
  unfold Device.rushTrigger
  dsimp only
  unfold Device.rushOn at ho
  rw [if_pos (by rw [Bool.and_eq_true, Bool.and_eq_true]; exact ⟨⟨he, ho⟩, by rw [hs]; decide⟩)]
  have P := put_tlm d (0x200000 + 32 * d.tlm.rush.next) #v[BitVec.ofNat 32 d.ts, BitVec.ofNat 32 (d.ts / 2 ^ 32), field 15 8 n ||| field 3 0 c, 0, 0, 0, field 31 16 d.tlm.rush.seq, 0x10]
  unfold Device.rushPut
  dsimp only
  generalize d.putRecord (0x200000 + 32 * d.tlm.rush.next) #v[BitVec.ofNat 32 d.ts, BitVec.ofNat 32 (d.ts / 2 ^ 32), field 15 8 n ||| field 3 0 c, 0, 0, 0, field 31 16 d.tlm.rush.seq, 0x10] = y at *
  have reg : ∀ (z : Device) f, (z.updTlm f).reg = z.reg := fun _ _ => rfl
  have yr : y.reg = d.reg := by funext a; unfold Device.reg; rw [P.2.1]
  rw [reg, yr]
  have k : ∀ (z : Device) c, (z.syncState 0x0B1 c 0x11 byHw).tlm = z.tlm := fun z c => keeps_tlm (by simp)
  rw [k]
  refine ⟨rfl, rfl, rfl, rfl, ?_, ?_⟩
  · show y.tlm.sch = d.tlm.sch; rw [P.1]
  · refine (sync_cur _ (pg 0x0B1) _ _ _).trans ?_
    unfold Device.rushCode
    rw [reg, reg, yr, ho]
    rfl

theorem trigger_off (d : Device) (c n : Nat) (h : (match c with
      | 1 => bit (d.reg 0x0B1044) 16
      | 2 => bit (d.reg 0x0B1044) 17
      | 3 => bit (d.reg 0x0B1044) 18
      | _ => true) = false ∨ d.rushOn = false ∨ d.tlm.rush.st ≠ .recording) : d.rushTrigger c n = d := by
  unfold Device.rushTrigger
  unfold Device.rushOn at h
  dsimp only
  rw [if_neg]
  intro q
  rw [Bool.and_eq_true, Bool.and_eq_true] at q
  rcases h with h | h | h
  · exact Bool.noConfusion (h.symm.trans q.1.1)
  · exact Bool.noConfusion (h.symm.trans q.1.2)
  · exact h (eq_of_beq q.2)

theorem service_next (s : State) (f : Device → Device) (h : s.dev.hupRuns = true) :
    (s.onDev fun d => d.inService fun d => f d) = .next { s with dev := f s.dev } := by
  show Host.Outcome.next ({ s with dev := s.dev.inService f } : State) = _
  rw [inService_on h]

theorem rctl_write (s : State) (src : Source) (v : Word) (ht : s.dev.takes src (pageAddr rushPage 0x054) 0xFFFFFFFF v = true) :
    s.dev.busWrite s.fuses src (pageAddr rushPage 0x054) 0xF v {} = (s.dev.arrive src (pageAddr rushPage 0x054)).rctlWrite v (s.dev.requester src).code := by
  have hw := Device.busWrite_page s.dev s.fuses src rushPage 0x054 0xF v {} ht (by decide) (by decide) (by decide) (by decide) (Or.inr (by decide))
  rw [hw]
  unfold Device.blockWrite
  rw [show blockOf rushPage = some .tlm by decide]
  dsimp only
  rw [Device.arrive_requester, byteMask_full]
  unfold Device.tlmWrite
  dsimp only
  rw [if_neg (by decide), if_pos ⟨rfl, rfl⟩]
  have : v &&& (0xFFFFFFFF : Word) = v := BitVec.and_allOnes
  rw [this]

/-- What a daily record leaves: the counts move on by one. -/
theorem dayPut_tlm (d : Device) (ws : Vector Word 8) : (d.dayPut ws).tlm.dSeq = (d.tlm.dSeq + 1) % 65536 ∧ (d.dayPut ws).tlm.dNext = (d.tlm.dNext + 1) % 32 ∧
    (d.dayPut ws).tlm.dailyLoop = d.tlm.dailyLoop ∧ (d.dayPut ws).tlm.rush = d.tlm.rush ∧ (d.dayPut ws).regs = d.regs := by
  unfold Device.dayPut
  dsimp only
  have P := put_tlm d (0x0B1100 + 32 * d.tlm.dNext) ws
  generalize d.putRecord (0x0B1100 + 32 * d.tlm.dNext) ws = y at *
  have R : ∀ (z : Device) n w, (z.raise n w).tlm = z.tlm ∧ (z.raise n w).regs = z.regs := fun z n w => ⟨keeps_tlm (by simp), keeps_regs (by simp)⟩
  rw [(R _ _ _).1, (R _ _ _).2]
  have Q : ∀ (b : Bool) (z : Device), (z = if b then y.schPut (Fin.ofNat 8 (bits (y.reg 0x0B1080) 26 24)) ws false else y) →
      z.tlm.dailyLoop = y.tlm.dailyLoop ∧ z.tlm.rush = y.tlm.rush ∧ z.regs = y.regs ∧ z.tlm.dSeq = y.tlm.dSeq ∧ z.tlm.dNext = y.tlm.dNext := by
    intro b z hz
    rw [hz]
    cases b
    · exact ⟨rfl, rfl, rfl, rfl, rfl⟩
    · rw [if_pos rfl]
      unfold Device.schPut
      dsimp only
      have k : ∀ (z : Device) e i n, (z.pmcCount e i n).tlm = z.tlm ∧ (z.pmcCount e i n).regs = z.regs := fun z e i n => ⟨keeps_tlm (by simp), keeps_regs (by simp)⟩
      split
      · rw [(k _ _ _ _).1, (k _ _ _ _).2]
        unfold Device.dayDev
        split <;> exact ⟨rfl, rfl, rfl, rfl, rfl⟩
      · exact ⟨rfl, rfl, rfl, rfl, rfl⟩
  have q := Q (bit (y.reg 0x0B1080) 30 && y.schOn (Fin.ofNat 8 (bits (y.reg 0x0B1080) 26 24))) _ rfl
  generalize (if (bit (y.reg 0x0B1080) 30 && y.schOn (Fin.ofNat 8 (bits (y.reg 0x0B1080) 26 24))) = true then y.schPut (Fin.ofNat 8 (bits (y.reg 0x0B1080) 26 24)) ws false else y) = z at *
  rw [P.1, P.2.1] at q
  refine ⟨?_, ?_, q.1, q.2.1, q.2.2.1⟩
  · show (z.tlm.dSeq + 1) % 65536 = _
    rw [q.2.2.2.1]
  · show (z.tlm.dNext + 1) % 32 = _
    rw [q.2.2.2.2]

theorem day_fold (c : DailyClosed) (l : List (Fin 16)) (d : Device) :
    let e := l.foldl (fun (d : Device) n =>
        if bit (d.reg 0x0B1084) n.val then
          let f := if c.loops[n].leastN = 255 then d.draw else (0, d)
          f.2.dayPut (loopDaily c n d.tlm.dSeq f.1)
        else d) d
    let k := (l.filter fun n => bit (d.reg 0x0B1084) n.val).length
    e.tlm.dSeq % 65536 = (d.tlm.dSeq + k) % 65536 ∧ e.tlm.dNext % 32 = (d.tlm.dNext + k) % 32 ∧ e.tlm.dailyLoop = d.tlm.dailyLoop ∧ e.tlm.rush = d.tlm.rush := by
  induction l generalizing d with
  | nil => exact ⟨rfl, rfl, rfl, rfl⟩
  | cons n l ih =>
    dsimp only
    rw [List.foldl_cons, List.filter_cons]
    by_cases h : bit (d.reg 0x0B1084) n.val = true
    · rw [if_pos h, if_pos h]
      have D : ∀ f : Word × Device, f.2.tlm = d.tlm → f.2.regs = d.regs → ∀ e, e = f.2.dayPut (loopDaily c n d.tlm.dSeq f.1) →
          e.tlm.dSeq = (d.tlm.dSeq + 1) % 65536 ∧ e.tlm.dNext = (d.tlm.dNext + 1) % 32 ∧ e.tlm.dailyLoop = d.tlm.dailyLoop ∧ e.tlm.rush = d.tlm.rush ∧ e.regs = d.regs := by
        intro f f1 f2 e he
        have p := dayPut_tlm f.2 (loopDaily c n d.tlm.dSeq f.1)
        rw [f1, f2] at p
        rw [he]
        exact p
      have E := D (if c.loops[n].leastN = 255 then d.draw else (0, d)) (by split <;> rfl) (by split <;> rfl) _ rfl
      generalize (if c.loops[n].leastN = 255 then d.draw else (0, d)).2.dayPut (loopDaily c n d.tlm.dSeq (if c.loops[n].leastN = 255 then d.draw else (0, d)).1) = e at *
      have i := ih e
      dsimp only at i
      have er : e.reg 0x0B1084 = d.reg 0x0B1084 := by unfold Device.reg; rw [E.2.2.2.2]
      rw [er, E.1, E.2.1, E.2.2.1, E.2.2.2.1] at i
      rw [List.length_cons]
      refine ⟨?_, ?_, i.2.2.1, i.2.2.2⟩
      · rw [i.1]; omega
      · rw [i.2.1]; omega
    · rw [if_neg h, if_neg h]
      exact ih d

/-- One count of counter c: its value, its overflow bit and whether it wrapped. -/
theorem bump_facts (d : Device) (c : Fin 64) (n : Nat) :
    (d.pmcBump c n).1.pmc.ctr = d.pmc.ctr.set c ((d.pmc.ctr[c] + n) % 2 ^ 48) ∧ (d.pmcBump c n).2 = decide (2 ^ 48 ≤ d.pmc.ctr[c] + n) ∧
      (d.pmcBump c n).1.pmc.ovf = (if 2 ^ 48 ≤ d.pmc.ctr[c] + n ∧ d.pmcLower c = false then d.pmc.ovf ||| BitVec.ofNat 64 (2 ^ c.val) else d.pmc.ovf) ∧
      (d.pmcBump c n).1.pmc.buf = d.pmc.buf ∧ (d.pmcBump c n).1.regs = d.regs := by
  unfold Device.pmcBump
  dsimp only
  by_cases h : d.pmc.ctr[c] + n < 2 ^ 48
  · rw [if_pos h, if_neg (fun q => by omega), decide_eq_false (by omega)]
    exact ⟨rfl, rfl, rfl, rfl, rfl⟩
  · rw [if_neg h, decide_eq_true (by omega)]
    have R : ∀ (z : Device) w, (z.raise 123 w).pmc = z.pmc ∧ (z.raise 123 w).regs = z.regs := fun z w => ⟨keeps_pmc (by simp), keeps_regs (by simp)⟩
    have S : ∀ (b : Bool) (z : Device) w, ((if b then z.raise 123 w else z)).pmc = z.pmc ∧ (if b then z.raise 123 w else z).regs = z.regs := by
      intro b z w
      cases b
      · exact ⟨rfl, rfl⟩
      · exact R z w
    dsimp only
    rw [(S _ _ _).1, (S _ _ _).2]
    have L : ∀ z : Device, z.regs = d.regs → z.pmcLower c = d.pmcLower c := by
      intro z hz
      unfold Device.pmcLower Device.pmcSel Device.reg
      rw [hz]
    generalize hy : ({ d with pmc := { d.pmc with ctr := d.pmc.ctr.set c ((d.pmc.ctr[c] + n) % 2 ^ 48) } } : Device) = y
    have y1 : y.pmc = { d.pmc with ctr := d.pmc.ctr.set c ((d.pmc.ctr[c] + n) % 2 ^ 48) } := by rw [← hy]
    have y2 : y.regs = d.regs := by rw [← hy]
    have l := L y y2
    clear hy
    rw [l]
    cases e : d.pmcLower c
    · rw [if_neg (by decide), if_pos ⟨by omega, rfl⟩]
      refine ⟨?_, rfl, ?_, ?_, ?_⟩ <;> dsimp only <;> first | exact y2 | rw [y1]
    · rw [if_pos rfl, if_neg (by simp)]
      refine ⟨?_, rfl, ?_, ?_, ?_⟩ <;> first | exact y2 | rw [y1]

theorem vec_at {u v : Vector Nat 64} (h : u = v) (j : Fin 64) : u[j] = v[j] := by rw [h]

theorem set_same {n : Nat} (v : Vector Nat n) (c : Fin n) (x : Nat) : (v.set c x)[c] = x := by simp

theorem set_other {n : Nat} (v : Vector Nat n) (c j : Fin n) (x : Nat) (h : j ≠ c) : (v.set c x)[j] = v[j] := by
  have : c.val ≠ j.val := fun q => h (Fin.ext q.symm)
  simp [this]

theorem ctr_at : ∀ (c : Fin 64) (hi : Bool), pmcCtrAt (pageAddr pmcPage (0x200 + 8 * c.val + 4 * b2n hi)) = some (c, hi) := by decide

theorem ctr_loud : ∀ c : Fin 64, quietRead (pageAddr pmcPage (0x200 + 8 * c.val) / 0x1000) (pageAddr pmcPage (0x200 + 8 * c.val) % 0x1000) = false ∧ pageAddr pmcPage (0x200 + 8 * c.val) % 4 = 0 ∧
    peakAt (pageAddr pmcPage (0x200 + 8 * c.val)) = none := by decide

theorem read_buf (y : Device) (c : Fin 64) (w : Nat) : (y.pmcRead c false w).2.pmc.ctr = y.pmc.ctr ∧
    ((∀ b, y.pmc.buf[Fin.ofNat 16 w] = some b → b.ctr = c.val ∨ b.ctr + 1 ≠ c.val) → (y.pmcRead c false w).2.pmc.buf[Fin.ofNat 16 w] = some { ctr := c.val, hi := y.pmcWord c true, pair := (y.pmcChained c).map fun c2 => (y.pmcWord c2 false, y.pmcWord c2 true) }) ∧
      ∀ j : Fin 16, j ≠ Fin.ofNat 16 w → (y.pmcRead c false w).2.pmc.buf[j] = y.pmc.buf[j] := by
  unfold Device.pmcRead
  dsimp only
  have B : ∀ b : PmcBuf, (∀ j : Fin 16, j ≠ Fin.ofNat 16 w → (y.pmcBuffer w b).pmc.buf[j] = y.pmc.buf[j]) ∧ (y.pmcBuffer w b).pmc.buf[Fin.ofNat 16 w] = some b ∧ (y.pmcBuffer w b).pmc.ctr = y.pmc.ctr := by
    intro b
    unfold Device.pmcBuffer
    refine ⟨fun j hj => ?_, ?_, rfl⟩
    · have : (Fin.ofNat 16 w).val ≠ j.val := fun q => hj (Fin.ext q.symm)
      simp only [Fin.getElem_fin, Vector.getElem_set, this, if_false]
    · simp
  have N : ∀ o : Option Word, ((∀ b, y.pmc.buf[Fin.ofNat 16 w] = some b → b.ctr = c.val ∨ b.ctr + 1 ≠ c.val) → o = none) →
      ∀ e : Device, e = (match o with
        | some x => (x, y)
        | none => if false = true then (y.pmcWord c true, y) else (y.pmcWord c false, y.pmcBuffer w { ctr := c.val, hi := y.pmcWord c true, pair := (y.pmcChained c).map fun c2 => (y.pmcWord c2 false, y.pmcWord c2 true) })).2 →
      e.pmc.ctr = y.pmc.ctr ∧ ((∀ b, y.pmc.buf[Fin.ofNat 16 w] = some b → b.ctr = c.val ∨ b.ctr + 1 ≠ c.val) → e.pmc.buf[Fin.ofNat 16 w] = some { ctr := c.val, hi := y.pmcWord c true, pair := (y.pmcChained c).map fun c2 => (y.pmcWord c2 false, y.pmcWord c2 true) }) ∧
        ∀ j : Fin 16, j ≠ Fin.ofNat 16 w → e.pmc.buf[j] = y.pmc.buf[j] := by
    intro o ho e he
    cases o with
    | some x =>
      rw [he]
      exact ⟨rfl, fun q => (nomatch ho q), fun _ _ => rfl⟩
    | none =>
      rw [he]
      exact ⟨(B _).2.2, fun _ => (B _).2.1, (B _).1⟩
  refine N _ ?_ _ rfl
  intro q
  cases hb : y.pmc.buf[Fin.ofNat 16 w] with
  | none => rfl
  | some b =>
    dsimp only
    rcases q b hb with r | r
    · rw [if_pos r]; rfl
    · by_cases z : b.ctr = c.val
      · rw [if_pos z]; rfl
      · rw [if_neg z, if_neg r]

theorem half_nat (n : Nat) : bits (field 15 0 n) 15 0 = n % 65536 := by
  unfold bits field fieldMask
  simp only [Nat.pow_zero, Nat.mul_one, Nat.div_one, BitVec.toNat_and, BitVec.toNat_ofNat]
  rw [show (2 ^ (15 + 1 - 0) - 1) % 2 ^ 32 = 2 ^ 16 - 1 by decide, Nat.and_two_pow_sub_one_eq_mod]
  omega

/-- The averages and the peaks are those of d. -/
def AvgSame (d e : Device) : Prop := e.tlm.lavg = d.tlm.lavg ∧ e.tlm.lpeak = d.tlm.lpeak ∧ e.tlm.lipeak = d.tlm.lipeak ∧ e.tlm.pavg = d.tlm.pavg ∧ e.tlm.ppeak = d.tlm.ppeak

theorem avg_refl (d : Device) : AvgSame d d := ⟨rfl, rfl, rfl, rfl, rfl⟩

theorem avg_trans {a b c : Device} (h : AvgSame a b) (g : AvgSame b c) : AvgSame a c := by
  unfold AvgSame at *
  simp only [g, h, and_self]

theorem avg_of {d e : Device} (h : e.tlm = d.tlm) : AvgSame d e := by unfold AvgSame; rw [h]; exact ⟨rfl, rfl, rfl, rfl, rfl⟩

theorem foldl_keeps {α : Type} (P : Device → Device → Prop) (refl : ∀ d, P d d) (trans : ∀ a b c, P a b → P b c → P a c) (f : Device → α → Device) (h : ∀ d x, P d (f d x)) :
    ∀ (l : List α) (d : Device), P d (l.foldl f d) := by
  intro l
  induction l with
  | nil => exact refl
  | cons x l ih => exact fun d => trans _ _ _ (h d x) (ih _)

/-- What a record entering channel c leaves: the averages, the other channels, and what records are made from. -/
structure SchBeside (c : Fin 8) (d e : Device) : Prop where
  avg : AvgSame d e
  sch : ∀ j, j ≠ c → e.tlm.sch[j] = d.tlm.sch[j]
  regs : e.regs = d.regs
  ts : e.ts = d.ts
  phase : e.phase = d.phase
  loop : e.loop = d.loop
  thm : e.thm = d.thm

theorem beside_refl (c : Fin 8) (d : Device) : SchBeside c d d := ⟨avg_refl d, fun _ _ => rfl, rfl, rfl, rfl, rfl, rfl⟩

theorem beside_trans (c : Fin 8) (x y z : Device) (h : SchBeside c x y) (g : SchBeside c y z) : SchBeside c x z :=
  ⟨avg_trans h.avg g.avg, fun j q => (g.sch j q).trans (h.sch j q), g.regs.trans h.regs, g.ts.trans h.ts, g.phase.trans h.phase, g.loop.trans h.loop, g.thm.trans h.thm⟩

theorem sch_upd (d : Device) (c j : Fin 8) (f : StreamChan → StreamChan) : (d.updSch c f).tlm.sch[j] = if j = c then f d.tlm.sch[c] else d.tlm.sch[j] := upd_get _ _ _ _

theorem put_beside (d : Device) (c : Fin 8) (ws : Vector Word 8) (b : Bool) : SchBeside c d (d.schPut c ws b) := by
  have t : (d.schPut c ws b).regs = d.regs ∧ (d.schPut c ws b).ts = d.ts ∧ (d.schPut c ws b).phase = d.phase ∧ (d.schPut c ws b).loop = d.loop ∧
      (d.schPut c ws b).thm = d.thm := ⟨keeps_regs (by simp), keeps_ts (by simp), keeps_phase (by simp), keeps_loop (by simp), keeps_thm (by simp)⟩
  have k : ∀ (z : Device) e i n, (z.pmcCount e i n).tlm = z.tlm := fun z e i n => keeps_tlm (by simp)
  have g : AvgSame d (d.schPut c ws b) ∧ ∀ j, j ≠ c → (d.schPut c ws b).tlm.sch[j] = d.tlm.sch[j] := by
    unfold Device.schPut
    dsimp only
    split
    · have y : ∀ (z : Device) u, AvgSame z (z.dayDev u) ∧ (z.dayDev u).tlm.sch = z.tlm.sch := by
        intro z u
        unfold Device.dayDev
        split
        · exact ⟨⟨rfl, rfl, rfl, rfl, rfl⟩, rfl⟩
        · exact ⟨avg_refl z, rfl⟩
      generalize hu : (d.updSch c fun x => { x with drops := satInc 255 x.drops, gap := true }).setErr tlmPage (errBit 9) = u
      have u1 : u.tlm = (d.updSch c fun x => { x with drops := satInc 255 x.drops, gap := true }).tlm := by rw [← hu]; rfl
      have u2 : AvgSame d u := avg_trans (b := d.updSch c fun x => { x with drops := satInc 255 x.drops, gap := true }) ⟨rfl, rfl, rfl, rfl, rfl⟩ (avg_of u1)
      have u3 : ∀ j, j ≠ c → u.tlm.sch[j] = d.tlm.sch[j] := fun j q => by rw [u1, sch_upd, if_neg q]
      generalize hz : (u.dayDev fun y => { y with drops := satInc 0xFFFF y.drops }) = z
      have z1 := y u fun y => { y with drops := satInc 0xFFFF y.drops }
      rw [hz] at z1
      refine ⟨avg_trans u2 (avg_trans z1.1 (avg_of (k _ _ _ _))), fun j q => ?_⟩
      exact (congrArg (fun v : Tlm => v.sch[j]) (k z 0x33 c.val 1)).trans ((congrArg (fun v : Vector StreamChan 8 => v[j]) z1.2).trans (u3 j q))
    · exact ⟨⟨rfl, rfl, rfl, rfl, rfl⟩, fun j q => by rw [sch_upd, if_neg q]⟩
  exact ⟨g.1, g.2, t.1, t.2.1, t.2.2.1, t.2.2.2.1, t.2.2.2.2⟩

theorem window_beside (d : Device) (w : WindowData) (c : Fin 8) : SchBeside c d (d.schWindow w c) := by
  unfold Device.schWindow foldFin
  dsimp only
  split
  · split
    · refine foldl_keeps (SchBeside c) (beside_refl c) (beside_trans c) _ (fun e k => ?_) _ d
      split
      · exact put_beside e c _ _
      · exact beside_refl c e
    · refine foldl_keeps (SchBeside c) (beside_refl c) (beside_trans c) _ (fun e k => ?_) _ d
      split
      · exact put_beside e c _ _
      · exact beside_refl c e
  · exact beside_refl c d

theorem window_idle (d : Device) (w : WindowData) (c : Fin 8) (h : bit (d.schCfg c) 31 = false ∨ bits (d.schCfg c) 20 16 ≠ w.code.val) : d.schWindow w c = d := by
  unfold Device.schWindow
  dsimp only
  rw [if_neg]
  intro q
  rw [Bool.and_eq_true] at q
  rcases h with h | h
  · rw [h] at q; exact absurd q.1 (by decide)
  · exact h (eq_of_beq q.2)

theorem record_shape (n : Fin 16) (w : WindowData) (q : Nat) (g : Bool) : ∃ G : Nat → Nat → Nat → Vector Word 8, ∀ d : Device, d.loopRecord n w q g = G d.ts (d.loopT n) (d.lp n).nAct :=
  ⟨fun a b c => #v[BitVec.ofNat 32 a, BitVec.ofNat 32 (a / 4294967296), field 31 16 (sat16 w.loops[n].iAvg) ||| field 15 0 (sat16 w.loops[n].vAvg),
    field 31 16 b ||| field 15 0 (sat16 w.loops[n].pAvg), field 31 16 (sat16 w.loops[n].vMin) ||| field 15 0 (sat16 w.loops[n].vMax),
    field 31 16 (flagsWord w.loops[n].flags w g) ||| field 15 0 (sat16 w.loops[n].iMax), field 31 16 q ||| field 15 8 c ||| field 7 0 n.val, field 12 8 w.code.val ||| 0x01], fun _ => rfl⟩

theorem loopRecord_of {d e : Device} (t : e.ts = d.ts) (p : e.phase = d.phase) (q : e.loop = d.loop) (h : e.thm = d.thm) (n : Fin 16) (w : WindowData) (sq : Nat) (g : Bool) :
    e.loopRecord n w sq g = d.loopRecord n w sq g := by
  have ho : e.hottest n = d.hottest n := by
    unfold Device.hottest Device.hottestOf Device.phasesOf Device.ch
    simp only [p, h, Device.ph]
  have a : e.lp n = d.lp n := by unfold Device.lp; rw [q]
  have l : e.loopT n = d.loopT n := by unfold Device.loopT; rw [ho]
  obtain ⟨G, hG⟩ := record_shape n w sq g
  rw [hG, hG, t, l, a]

theorem fold_one {α : Type} [DecidableEq α] (p : Device → α → Bool) (f : Device → α → Device) (n : α) (hf : ∀ d j, p (f d n) j = p d j) :
    ∀ (l : List α), l.Nodup → ∀ d : Device, (∀ j ∈ l, p d j = decide (j = n)) → l.foldl (fun d j => if p d j then f d j else d) d = if n ∈ l then f d n else d := by
  intro l
  induction l with
  | nil => intro _ d _; rfl
  | cons x l ih =>
    intro nd d h
    rw [List.foldl_cons]
    rw [List.nodup_cons] at nd
    have hx := h x (List.mem_cons_self ..)
    by_cases e : x = n
    · subst e
      rw [hx, if_pos (by simp), if_pos (List.mem_cons_self ..)]
      have := ih nd.2 (f d x) fun j hj => by rw [hf]; exact h j (List.mem_cons_of_mem _ hj)
      rw [this, if_neg nd.1]
    · rw [hx, if_neg (by simpa using e)]
      rw [ih nd.2 d fun j hj => h j (List.mem_cons_of_mem _ hj)]
      have : n ∈ x :: l ↔ n ∈ l := ⟨fun q => (List.mem_cons.1 q).resolve_left fun q => e q.symm, List.mem_cons_of_mem _⟩
      by_cases m : n ∈ l
      · rw [if_pos m, if_pos (this.2 m)]
      · rw [if_neg m, if_neg fun q => m (this.1 q)]

theorem window_single (d : Device) (w : WindowData) (c : Fin 8) (n : Fin 16) (h1 : bit (d.schCfg c) 31 = true) (h2 : bits (d.schCfg c) 20 16 = w.code.val) (h3 : bit (d.schCfg c) 30 = false)
    (hm : ∀ j : Fin 16, bit (d.schMask c false) j.val = decide (j = n)) (hl : d.tlm.sch[c].fifo.length + 32 ≤ 2048) :
    (d.schWindow w c).tlm.sch[c] = { d.tlm.sch[c] with
      fifo := d.tlm.sch[c].fifo ++ recordBytes (d.loopRecord n w d.tlm.sch[c].seq d.tlm.sch[c].gap), seq := (d.tlm.sch[c].seq + 1) % 65536, gap := false } := by
  unfold Device.schWindow
  dsimp only
  rw [h1, h2, h3, if_pos (by simp), if_neg (by decide)]
  unfold foldFin
  have f := fold_one (fun d n => bit (d.schMask c false) n.val) (fun d n => d.schPut c (d.loopRecord n w d.tlm.sch[c].seq d.tlm.sch[c].gap) true) n
    (fun d j => by unfold Device.schMask Device.reg; rw [(put_beside d c _ true).regs]) (List.finRange 16) (List.nodup_finRange 16) d fun j _ => hm j
  rw [if_pos (List.mem_finRange n)] at f
  rw [f]
  unfold Device.schPut
  dsimp only
  rw [if_neg (by omega), sch_upd, if_pos rfl]
  rfl

theorem windows_sch (w : WindowData) (c : Fin 8) (X : StreamChan) (R : Device → Prop) (hR : ∀ d j, j ≠ c → R d → R (d.schWindow w j)) (hX : ∀ d, R d → (d.schWindow w c).tlm.sch[c] = X) :
    ∀ (l : List (Fin 8)), l.Nodup → c ∈ l → ∀ d : Device, R d → (l.foldl (fun d c => d.schWindow w c) d).tlm.sch[c] = X := by
  have rest : ∀ (l : List (Fin 8)), c ∉ l → ∀ d : Device, (l.foldl (fun d c => d.schWindow w c) d).tlm.sch[c] = d.tlm.sch[c] := by
    intro l
    induction l with
    | nil => exact fun _ _ => rfl
    | cons x l ih =>
      intro hn d
      rw [List.foldl_cons, ih (fun q => hn (List.mem_cons_of_mem _ q))]
      exact (window_beside d w x).sch c fun q => hn (by rw [q]; exact List.mem_cons_self ..)
  intro l
  induction l with
  | nil => intro _ h; cases h
  | cons x l ih =>
    intro nd hm d r
    rw [List.nodup_cons] at nd
    rw [List.foldl_cons]
    by_cases e : x = c
    · subst e
      rw [rest l nd.1]; exact hX d r
    · have : c ∈ l := by
        rcases List.mem_cons.1 hm with q | q
        · exact absurd q.symm e
        · exact q
      exact ih nd.2 this _ (hR d x e r)

theorem rushWindow_facts (d : Device) (w : WindowData) : AvgSame d (d.rushWindow w) ∧ (d.rushWindow w).tlm.sch = d.tlm.sch := by
  have P : ∀ (d : Device) ws, AvgSame d (d.rushPut ws) ∧ (d.rushPut ws).tlm.sch = d.tlm.sch := by
    intro d ws
    unfold Device.rushPut
    dsimp only
    have p := put_tlm d (0x200000 + 32 * d.tlm.rush.next) ws
    generalize d.putRecord (0x200000 + 32 * d.tlm.rush.next) ws = y at *
    refine ⟨avg_trans (avg_of p.1) ⟨rfl, rfl, rfl, rfl, rfl⟩, ?_⟩
    show y.tlm.sch = _
    rw [p.1]
  have Q : ∀ (d : Device) ws, AvgSame d (d.rushRecord ws) ∧ (d.rushRecord ws).tlm.sch = d.tlm.sch := by
    intro d ws
    unfold Device.rushRecord
    cases d.tlm.rush.st <;> dsimp only
    · exact P d ws
    · split
      · exact ⟨avg_refl d, rfl⟩
      · exact ⟨avg_trans (P d ws).1 ⟨rfl, rfl, rfl, rfl, rfl⟩, (P d ws).2⟩
    · exact ⟨avg_refl d, rfl⟩
  have F : ∀ {α : Type} (l : List α) (p : Device → α → Bool) (f : Device → α → Vector Word 8) (d : Device),
      AvgSame d (l.foldl (fun d x => if p d x then d.rushRecord (f d x) else d) d) ∧ (l.foldl (fun d x => if p d x then d.rushRecord (f d x) else d) d).tlm.sch = d.tlm.sch := by
    intro α l p f d
    refine foldl_keeps (fun a b => AvgSame a b ∧ b.tlm.sch = a.tlm.sch) (fun d => ⟨avg_refl d, rfl⟩) (fun a b c h g => ⟨avg_trans h.1 g.1, g.2.trans h.2⟩) _ (fun d x => ?_) l d
    split
    · exact Q d _
    · exact ⟨avg_refl d, rfl⟩
  unfold Device.rushWindow foldFin
  dsimp only
  split
  · have A : ∀ b : Bool, AvgSame d (if b then (List.finRange 16).foldl (fun d n => if bit (d.reg 0x0B1048) n.val then d.rushRecord (d.loopRecord n w d.tlm.rush.seq false) else d) d else d) ∧
        (if b then (List.finRange 16).foldl (fun d n => if bit (d.reg 0x0B1048) n.val then d.rushRecord (d.loopRecord n w d.tlm.rush.seq false) else d) d else d).tlm.sch = d.tlm.sch := by
      intro b
      cases b
      · exact ⟨avg_refl d, rfl⟩
      · exact F (List.finRange 16) (fun d n => bit (d.reg 0x0B1048) n.val) (fun d n => d.loopRecord n w d.tlm.rush.seq false) d
    have a := A (decide (bits (d.reg 0x0B1040) 4 0 = w.code.val))
    simp only [decide_eq_true_eq] at a
    generalize (if bits (d.reg 0x0B1040) 4 0 = w.code.val then _ else d) = y at *
    split
    · have b := F (List.finRange 64) (fun d k => bit (d.reg (0x0B104C + 4 * (k.val / 32))) (k.val % 32)) (fun d k => d.phaseRecord k w d.tlm.rush.seq false) y
      exact ⟨avg_trans a.1 b.1, b.2.trans a.2⟩
    · exact a
  · exact ⟨avg_refl d, rfl⟩

theorem mapFin_at {α : Type} {n : Nat} (v : Vector α n) (f : Fin n → α → α) (i : Fin n) : (mapFin v f)[i] = f i v[i] := by
  unfold mapFin
  exact Vector.getElem_ofFn ..

theorem updTlm_at (d : Device) (f : Tlm → Tlm) : (d.updTlm f).tlm = f d.tlm := rfl

theorem pm_facts (d : Device) (w : WindowData) : AvgSame d (d.windowPm w) ∧ (d.windowPm w).tlm.sch = d.tlm.sch := by
  unfold Device.windowPm AvgSame
  by_cases h : w.code.val = 9
  · rw [if_pos h, updTlm_at]
    dsimp only
    exact ⟨⟨rfl, rfl, rfl, rfl, rfl⟩, rfl⟩
  · rw [if_neg h]
    exact ⟨avg_refl d, rfl⟩

theorem regs_facts (d : Device) (w : WindowData) :
    (∀ n : Fin 16, bits (d.reg 0x0B0040) 4 0 = w.code.val → (d.windowRegs w).tlm.lavg[n] = (field 31 16 (sat16 w.loops[n].iAvg) ||| field 15 0 (sat16 w.loops[n].vAvg)) ∧
        (d.windowRegs w).tlm.lpeak[n] = (field 31 16 (min (bits d.tlm.lpeak[n] 31 16) (sat16 w.loops[n].vMin)) ||| field 15 0 (max (bits d.tlm.lpeak[n] 15 0) (sat16 w.loops[n].vMax))) ∧
        (d.windowRegs w).tlm.lipeak[n] = field 15 0 (max (bits d.tlm.lipeak[n] 15 0) (sat16 w.loops[n].iMax))) ∧
      (bits (d.reg 0x0B0040) 4 0 ≠ w.code.val → (d.windowRegs w).tlm.lavg = d.tlm.lavg ∧ (d.windowRegs w).tlm.lpeak = d.tlm.lpeak ∧ (d.windowRegs w).tlm.lipeak = d.tlm.lipeak) ∧
      (bits (d.reg 0x0B0040) 12 8 ≠ w.code.val → (d.windowRegs w).tlm.pavg = d.tlm.pavg ∧ (d.windowRegs w).tlm.ppeak = d.tlm.ppeak) ∧ (d.windowRegs w).tlm.sch = d.tlm.sch := by
  have second : ∀ (z : Device) (p : Prop) [Decidable p] (f g : Tlm → Vector Word 64), (if p then z.updTlm fun t => { t with pavg := f t, ppeak := g t } else z).tlm =
      { z.tlm with pavg := if p then f z.tlm else z.tlm.pavg, ppeak := if p then g z.tlm else z.tlm.ppeak } := by
    intro z p _ f g
    by_cases h : p
    · rw [if_pos h, if_pos h, if_pos h, updTlm_at]
    · rw [if_neg h, if_neg h, if_neg h]
  have first : ∀ (z : Device) (p : Prop) [Decidable p] (f g h k : Tlm → Vector Word 16), (if p then z.updTlm fun t => { t with lavg := f t, lpt := g t, lpeak := h t, lipeak := k t } else z).tlm =
      { z.tlm with lavg := if p then f z.tlm else z.tlm.lavg, lpt := if p then g z.tlm else z.tlm.lpt, lpeak := if p then h z.tlm else z.tlm.lpeak, lipeak := if p then k z.tlm else z.tlm.lipeak } := by
    intro z p _ f g h k
    by_cases q : p
    · simp only [if_pos q, updTlm_at]
    · simp only [if_neg q]
  unfold Device.windowRegs
  dsimp only
  rw [second, first]
  dsimp only
  refine ⟨fun n h => ?_, fun h => ?_, fun h => ?_, rfl⟩
  · simp only [if_pos h]
    exact ⟨mapFin_at _ _ n, mapFin_at _ _ n, mapFin_at _ _ n⟩
  · simp only [if_neg h]
    exact ⟨trivial, trivial, trivial⟩
  · simp only [if_neg h]
    exact ⟨trivial, trivial⟩

theorem sch_write (s : State) (src : Source) (c : Fin 8) (word : Fin 3) (be : BitVec 4) (data : Word) (hbe : alignedBe be = true)
    (ht : s.dev.takes src (pageAddr tlmPage (0x080 + 0x10 * c.val + 4 * word.val)) (byteMask be) data = true) :
    s.dev.busWrite s.fuses src (pageAddr tlmPage (0x080 + 0x10 * c.val + 4 * word.val)) be data {} =
      (s.dev.arrive src (pageAddr tlmPage (0x080 + 0x10 * c.val + 4 * word.val))).schWrite c word (s.dev.newWord tlmPage (0x080 + 0x10 * c.val + 4 * word.val) (byteMask be) data) (s.dev.requester src).code := by
  have hc := c.isLt
  have hw' := word.isLt
  have hw := Device.busWrite_page s.dev s.fuses src tlmPage (0x080 + 0x10 * c.val + 4 * word.val) be data {} ht (by decide) hbe (by omega) (by omega) (Or.inr (by omega))
  rw [hw]
  unfold Device.blockWrite
  rw [show blockOf tlmPage = some .tlm by decide]
  dsimp only
  unfold Device.tlmWrite
  dsimp only
  rw [if_pos ⟨rfl, by omega, by omega, by omega⟩]
  have e1 : (Fin.ofNat 8 ((0x080 + 0x10 * c.val + 4 * word.val - 0x080) / 16) : Fin 8) = c := by
    apply Fin.ext; show (0x080 + 0x10 * c.val + 4 * word.val - 0x080) / 16 % 8 = c.val; omega
  have e2 : (Fin.ofNat 3 ((0x080 + 0x10 * c.val + 4 * word.val) % 16 / 4) : Fin 3) = word := by
    apply Fin.ext; show (0x080 + 0x10 * c.val + 4 * word.val) % 16 / 4 % 3 = word.val; omega
  rw [e1, e2, Device.arrive_requester]
  have e3 : (s.dev.arrive src (pageAddr tlmPage (0x080 + 0x10 * c.val + 4 * word.val))).newWord tlmPage (0x080 + 0x10 * c.val + 4 * word.val) (byteMask be) data = s.dev.newWord tlmPage (0x080 + 0x10 * c.val + 4 * word.val) (byteMask be) data := by
    unfold Device.newWord
    dsimp only
    rw [Device.arrive_heldWord]
  rw [e3]

theorem stop_sch (d : Device) (c : Fin 8) : (d.schStop c).regs = d.regs ∧ (∀ j, j ≠ c → (d.schStop c).tlm.sch[j] = d.tlm.sch[j]) ∧ (d.schStop c).tlm.sch[c].seq = 0 ∧
    (d.schStop c).tlm.sch[c].fifo = d.tlm.sch[c].fifo.take (d.schReserved c) := by
  unfold Device.schStop
  have u := fun j => sch_upd d c j fun x => { x with fifo := x.fifo.take (d.schReserved c), seq := 0 }
  have uc := (u c).trans (if_pos rfl)
  exact ⟨rfl, fun j q => (u j).trans (if_neg q), congrArg StreamChan.seq uc, congrArg StreamChan.fifo uc⟩

theorem reserved_of {d e : Device} (h : e.dma = d.dma) (c : Fin 8) (hr : ∀ r, e.rcfg r = d.rcfg r) : e.schReserved c = d.schReserved c := by
  unfold Device.schReserved Device.rg
  simp only [h, hr]

end Sys2Proof.Machine
end

