-- ==== Sys2Proof/Laws/Sync.lean ====
section
/-! SUPPORT. Claps, slates and the time code: what an edge, a commit, a driven frame and a valid time frame do. -/

namespace Sys2Proof.Machine
open Sys2Proof

theorem raise_at (d : Device) (e : Fin 256) (w : Word) (h : d.srcPrio e ≠ 0) : (d.raise e.val w).evc.src[e].pend = true ∧ (d.raise e.val w).evc.src[e].payload = w := by
  have r : (d.raise e.val w).evc.src[e] = { d.evc.src[e] with pend := true, count := satInc 255 d.evc.src[e].count, ts := d.ts, payload := w } := by
    rw [(raise_src d e w h).1]
    exact (upd_get _ _ _ _).trans (if_pos rfl)
  rw [r]
  exact ⟨rfl, rfl⟩

theorem raise_beside (d : Device) (n : Nat) (w : Word) : (d.raise n w).syn = d.syn ∧ (d.raise n w).tlm = d.tlm ∧ (d.raise n w).regs = d.regs ∧ (d.raise n w).out = d.out ∧ (d.raise n w).ts = d.ts ∧
    ∀ p, ((d.raise n w).head p).err = (d.head p).err :=
  ⟨keeps_syn (by simp), keeps_tlm (by simp), keeps_regs (by simp), keeps_out (by simp), keeps_ts (by simp), fun p => (PageHdr.fixed_eq (raise_fixed d n w p)).2.2.2.2.2.2⟩

theorem count_keeps (d : Device) (e n : Nat) : (d.pmcCountAll e n).syn = d.syn ∧ (d.pmcCountAll e n).evc.src[(120 : Fin 256)] = d.evc.src[(120 : Fin 256)] ∧ ∀ p, ((d.pmcCountAll e n).head p).err = (d.head p).err :=
  ⟨keeps_syn (by simp), (Device.pmcCountAll_beside d e n).2.1 120 (by decide), fun p => (PageHdr.fixed_eq ((Device.pmcCountAll_beside d e n).2.2.2 p)).2.2.2.2.2.2⟩

/-- The counter control word after a capture strobe. -/
theorem strobe_facts (d : Device) : d.pmcStrobe.syn = d.syn ∧ d.pmcStrobe.tlm = d.tlm ∧
    (bit (d.reg 0x0C0040) 1 = true → bit (d.reg 0x0C0040) 2 = false → d.canonical = true → d.pmcStrobe.pmcRun = true) ∧
    (bit (d.reg 0x0C0040) 1 = false → bit (d.reg 0x0C0040) 2 = true → d.canonical = true → d.pmcStrobe.pmcRun = false) ∧
    (bit (d.reg 0x0C0040) 1 = false → bit (d.reg 0x0C0040) 2 = false → d.pmcStrobe.regs = d.regs) := by
  have k : ∀ (z : Device) c w, (z.pmcSync c w).regs = z.regs := fun z c w => keeps_regs (by simp)
  have g : ∀ (v : Nat), v < 2 → d.canonical = true → ((d.setReg 0x0C0040 (setBits (d.reg 0x0C0040) 2 0 v)).pmcSync 0x02 byHw).pmcRun = bit (setBits (d.reg 0x0C0040) 2 0 v) 0 := by
    intro v _ c
    unfold Device.pmcRun
    have : ((d.setReg 0x0C0040 (setBits (d.reg 0x0C0040) 2 0 v)).pmcSync 0x02 byHw).reg 0x0C0040 = (d.setReg 0x0C0040 (setBits (d.reg 0x0C0040) 2 0 v)).reg 0x0C0040 := by unfold Device.reg; rw [k]
    rw [this, Device.reg_setReg d _ _ c]
  refine ⟨keeps_syn (by simp), keeps_tlm (by simp), fun a b c => ?_, fun a b c => ?_, fun a b => ?_⟩
  · unfold Device.pmcStrobe
    dsimp only
    rw [a, b, if_neg (by decide), if_pos rfl, g 1 (by decide) c]
    unfold bit
    rw [setBits_bit, if_pos (by decide)]
    decide
  · unfold Device.pmcStrobe
    dsimp only
    rw [a, b, if_neg (by decide), if_neg (by decide), if_pos rfl, g 0 (by decide) c]
    unfold bit
    rw [setBits_bit, if_pos (by decide)]
    decide
  · unfold Device.pmcStrobe
    dsimp only
    rw [a, b, if_neg (by decide), if_neg (by decide), if_neg (by decide)]

theorem updSyn_at (d : Device) (f : Syn → Syn) : (d.updSyn f).syn = f d.syn := rfl

theorem updSyn_prio (d : Device) (f : Syn → Syn) (e : Fin 256) : (d.updSyn f).srcPrio e = d.srcPrio e := rfl

theorem slate_at (d : Device) (b : Vector Word 328) (w0 : Word) (fine : Nat) : (d.slateCommit b w0 fine).syn.slates = d.syn.slates + 1 ∧ (d.slateCommit b w0 fine).syn.slate[(0 : Fin 328)] = w0 ∧
    (d.slateCommit b w0 fine).syn.slate[(1 : Fin 328)] = (field 19 16 fine ||| field 15 0 ((d.syn.slates + 1) % 65536)) ∧ (∀ i : Fin 328, 2 ≤ i.val → (d.slateCommit b w0 fine).syn.slate[i] = b[i]) ∧
    (d.slateCommit b w0 fine).syn.snapWait = d.syn.snapWait ∧ (d.slateCommit b w0 fine).syn.hidden = d.syn.hidden := by
  have e : ∀ i : Fin 328, (d.slateCommit b w0 fine).syn.slate[i] = if i.val = 0 then w0 else if i.val = 1 then field 19 16 fine ||| field 15 0 ((d.syn.slates + 1) % 65536) else b[i] := by
    intro i
    have g : ∀ f : Fin 328 → Word, (Vector.ofFn f)[i] = f i := fun f => Vector.getElem_ofFn ..
    exact g _
  have q : (d.slateCommit b w0 fine).syn.slates = d.syn.slates + 1 ∧ (d.slateCommit b w0 fine).syn.snapWait = d.syn.snapWait ∧ (d.slateCommit b w0 fine).syn.hidden = d.syn.hidden := by
    unfold Device.slateCommit
    rw [updSyn_at]
    exact ⟨rfl, rfl, rfl⟩
  refine ⟨q.1, ?_, ?_, fun i h => ?_, q.2.1, q.2.2⟩
  · exact (e 0).trans (if_pos (by decide))
  · exact (e 1).trans ((if_neg (by decide)).trans (if_pos (by decide)))
  · rw [e, if_neg (by omega), if_neg (by omega)]

theorem send_facts (d : Device) (hc : d.canonical = true) : .clapFrame (bits (d.reg 0x0C4048) 15 0) ∈ d.clapSend.out ∧ d.clapSend.reg 0x0C4048 = BitVec.ofNat 32 ((bits (d.reg 0x0C4048) 15 0 + 1) % 65536) ∧
    d.clapSend.syn = { d.syn with txAt := some d.cycle } := by
  unfold Device.clapSend
  dsimp only
  refine ⟨?_, ?_, rfl⟩
  · show Outgoing.clapFrame _ ∈ (d.send _).out
    unfold Device.send
    simp
  · show ((d.send (.clapFrame (bits (d.reg 0x0C4048) 15 0))).setReg 0x0C4048 _).reg 0x0C4048 = _
    exact Device.reg_setReg _ _ _ hc

theorem syn_write (s : State) (src : Source) (v : Word) (ht : s.dev.takes src (pageAddr synPage 0x04C) 0xFFFFFFFF v = true) :
    s.dev.busWrite s.fuses src (pageAddr synPage 0x04C) 0xF v {} = (let y := s.dev.arrive src (pageAddr synPage 0x04C)
      let d := if bit v 1 then y.snap else y;
      if bit v 0 then d.clapDrive else d) := by
  have hw := Device.busWrite_page s.dev s.fuses src synPage 0x04C 0xF v {} ht (by decide) (by decide) (by decide) (by decide) (Or.inr (by decide))
  rw [hw]
  unfold Device.blockWrite
  rw [show blockOf synPage = some .syn by decide]
  dsimp only
  rw [byteMask_full]
  unfold Device.synWrite
  dsimp only
  rw [if_pos rfl]
  have : v &&& (0xFFFFFFFF : Word) = v := BitVec.and_allOnes
  rw [this]

theorem trans_cur (d : Device) (p : Fin 256) (c cause who : Nat) : ((d.transition p.val c cause who).head p).cur = c := by
  have hp := pg_val p
  unfold Device.transition
  dsimp only
  rw [hp]
  exact congrArg PageHdr.cur ((upd_get _ _ _ _).trans (if_pos rfl))

theorem disc_facts (d : Device) (st : DiscState) (c w : Nat) : (d.discTo st c w).syn = { d.syn with st := st, good := 0 } ∧ (d.discTo st c w).ts = d.ts ∧ (d.discTo st c w).tlm = d.tlm ∧
    (d.discTo st c w).regs = d.regs ∧ ((d.discTo st c w).head (pg synPage)).cur = st.code :=
  ⟨rfl, rfl, rfl, rfl, trans_cur _ (pg synPage) _ _ _⟩

theorem step_facts (d : Device) (e : Int) : (d.timeStep e).syn = { d.syn with hold := (-e).toNat, slew := 0 } ∧ (d.timeStep e).ts = (if 0 < e then (d.ts + e.toNat) % 18446744073709551616 else d.ts) ∧
    (d.timeStep e).tlm.dailyDev = (if d.dayOn then { d.tlm.dailyDev with steps := satInc 255 d.tlm.dailyDev.steps } else d.tlm.dailyDev) := by
  unfold Device.timeStep Device.dayDev
  dsimp only
  have T : ∀ b : Bool, (if b then (d.updTlm fun t => { t with dailyDev := { t.dailyDev with steps := satInc 255 t.dailyDev.steps } }).tlm.dailyDev else d.tlm.dailyDev) =
      if b then { d.tlm.dailyDev with steps := satInc 255 d.tlm.dailyDev.steps } else d.tlm.dailyDev := by intro b; cases b <;> rfl
  by_cases h : 0 < e
  · rw [if_pos h, if_pos h]
    have on : (({ d with ts := (d.ts + e.toNat) % 18446744073709551616 } : Device).updSyn fun x => { x with hold := (-e).toNat, slew := 0 }).dayOn = d.dayOn := rfl
    rw [on]
    cases d.dayOn
    · exact ⟨rfl, rfl, rfl⟩
    · exact ⟨rfl, rfl, rfl⟩
  · rw [if_neg h, if_neg h]
    have on : (d.updSyn fun x => { x with hold := (-e).toNat, slew := 0 }).dayOn = d.dayOn := rfl
    rw [on]
    cases d.dayOn
    · exact ⟨rfl, rfl, rfl⟩
    · exact ⟨rfl, rfl, rfl⟩

end Sys2Proof.Machine
end

