-- ==== Sys2Proof/Laws/Otp.lean ====
section
/-! SUPPORT. The one-time-programmable array's controller, its programmer, the reload and the restart of the core. -/

namespace Sys2Proof.Machine
open Sys2Proof

/-- What temperature decisions rest on. -/
theorem heat_of {d e : Device} (ht : e.thm = d.thm) (hr : e.regs = d.regs) : e.dieVals = d.dieVals ∧ e.dieHot = d.dieHot ∧ e.dieMaxC = d.dieMaxC ∧ e.otpOk = d.otpOk := by
  have hc : ∀ c, e.ch c = d.ch c := fun c => by unfold Device.ch; rw [ht]
  have hg : ∀ a, e.reg a = d.reg a := fun a => by unfold Device.reg; rw [hr]
  have hp : ∀ c, e.chPresent c = d.chPresent c := fun c => by
    unfold Device.chPresent Device.ccfg Device.phPop Device.preg
    simp only [hg]
  have h1 : e.dieVals = d.dieVals := by unfold Device.dieVals; simp only [hc, hp]
  have h2 : e.dieHot = d.dieHot := by unfold Device.dieHot; simp only [hc, hp]
  exact ⟨h1, h2, by unfold Device.dieMaxC; rw [h2], by unfold Device.otpOk; rw [h1]⟩

theorem otpState_facts (d : Device) (c : Nat) : (d.otpState c).otp = d.otp ∧ ((d.otpState c).head (pg otpPage)).cur = c ∧ (d.otpState c).freeCount = d.freeCount ∧ (d.otpState c).thm = d.thm ∧
    (d.otpState c).regs = d.regs ∧ (d.otpState c).boot = d.boot :=
  ⟨keeps_otp (by simp), sync_cur d (pg otpPage) c 0x02 byHw, keeps_freeCount (by simp), keeps_thm (by simp), keeps_regs (by simp), keeps_boot (by simp)⟩

theorem updOtp_at (d : Device) (f : Otp → Otp) : (d.updOtp f).otp = f d.otp := rfl

/-- A free array with no operation waiting takes the next scan or read. -/
theorem next_free {d : Device} (f : OtpArray) (hb : d.otpBusy = false) (hr : d.otp.run = none) : d.otpNext f = d.otpIdle := by
  unfold Device.otpNext
  rw [if_neg (by rw [hb]; decide), hr]

theorem next_busy {d : Device} (f : OtpArray) (hb : d.otpBusy = true) : d.otpNext f = d := by
  unfold Device.otpNext
  rw [if_pos hb]

theorem next_run {d : Device} (f : OtpArray) {r : OtpRun} (hb : d.otpBusy = false) (hr : d.otp.run = some r) : d.otpNext f = d.runStart f r := by
  unfold Device.otpNext
  rw [if_neg (by rw [hb]; decide), hr]

theorem idle_none (d : Device) (hr : d.otp.run = none) : let e := d.otpIdle.otp
    e.run = none ∧ e.result = d.otp.result ∧ e.pulses = d.otp.pulses ∧ e.failBit = d.otp.failBit ∧ e.gens = d.otp.gens := by
  dsimp only
  unfold Device.otpIdle
  split
  · rw [show d.scanStart.otp = { d.otp with scanning := true, scanDue := false, tScan := d.dieMaxC } from (otpState_facts _ _).1]; exact ⟨hr, rfl, rfl, rfl, rfl⟩
  · rename_i i _ _
    rw [show (d.readStart i).otp = { d.otp with reading := some i, readDue := none } from (otpState_facts _ _).1]; exact ⟨hr, rfl, rfl, rfl, rfl⟩
  · rw [(otpState_facts _ _).1]; exact ⟨hr, rfl, rfl, rfl, rfl⟩

/-- With no operation waiting, what follows starts none and keeps the last result. -/
theorem next_none (d : Device) (f : OtpArray) (hr : d.otp.run = none) : let e := (d.otpNext f).otp
    e.run = none ∧ e.result = d.otp.result ∧ e.pulses = d.otp.pulses ∧ e.failBit = d.otp.failBit ∧ e.gens = d.otp.gens := by
  cases hb : d.otpBusy with
  | true => rw [next_busy f hb]; exact ⟨hr, rfl, rfl, rfl, rfl⟩
  | false => rw [next_free f hb hr]; exact idle_none d hr

/-- The end of an operation leaves its result and no operation. -/
theorem end_facts (d : Device) (c : Nat) : (d.otpEnd c).otp = { d.otp with run := none, result := c } ∧ (d.otpEnd c).freeCount = d.freeCount ∧ (d.otpEnd c).boot = d.boot := by
  have e : (d.otpEnd c).otp = (d.updOtp fun o => { o with run := none, result := c }).otp := by
    unfold Device.otpEnd
    dsimp only
    rw [(otpState_facts _ _).1]
    split <;> exact keeps_otp (by simp)
  refine ⟨e, keeps_freeCount (by simp), keeps_boot (by simp)⟩

/-- The end of an operation and what the array does next. -/
theorem ends_next (d : Device) (f : OtpArray) (c : Nat) : OtpEnds ((d.otpEnd c).otpNext f) c ∧ ((d.otpEnd c).otpNext f).otp.pulses = d.otp.pulses ∧ ((d.otpEnd c).otpNext f).otp.failBit = d.otp.failBit ∧
    ((d.otpEnd c).otpNext f).otp.gens = d.otp.gens := by
  have h := end_facts d c
  have n := next_none (d.otpEnd c) f (by rw [h.1])
  dsimp only at n
  rw [h.1] at n
  exact ⟨⟨n.1, n.2.1⟩, n.2.2.1, n.2.2.2.1, n.2.2.2.2⟩

/-- A requested scan. -/
theorem scan_facts (d : Device) (f : OtpArray) : (d.otpBusy = true → (d.scanRequest f).otp = { d.otp with scanDue := true }) ∧
    (d.otpBusy = false → d.otp.run = none → (d.scanRequest f).otp = { d.otp with scanning := true, scanDue := false, tScan := d.dieMaxC } ∧ ((d.scanRequest f).head (pg otpPage)).cur = 1) := by
  have key : ∀ y : Device, y.otp = { d.otp with scanDue := true } → y.otpBusy = d.otpBusy → y.dieMaxC = d.dieMaxC → (d.otpBusy = true → (y.otpNext f).otp = { d.otp with scanDue := true }) ∧
      (d.otpBusy = false → d.otp.run = none → (y.otpNext f).otp = { d.otp with scanning := true, scanDue := false, tScan := d.dieMaxC } ∧ ((y.otpNext f).head (pg otpPage)).cur = 1) := by
    intro y h1 h2 h3
    refine ⟨fun h => ?_, fun h r => ?_⟩
    · rw [next_busy f (h2.trans h)]; exact h1
    · rw [next_free f (h2.trans h) (by rw [h1]; exact r)]
      unfold Device.otpIdle
      rw [h1]
      have g := otpState_facts (y.updOtp fun o => { o with scanning := true, scanDue := false, tScan := y.dieMaxC }) 1
      refine ⟨g.1.trans ?_, g.2.1⟩
      rw [updOtp_at, h1, h3]
  exact key _ rfl rfl (heat_of rfl rfl).2.2.1

/-- A requested read. -/
theorem read_facts (d : Device) (f : OtpArray) (i : Nat) : (d.otpBusy = true → (d.otpRead f i).otp = { d.otp with readDue := some i }) ∧
    (d.otpBusy = false → d.otp.run = none → d.otp.scanDue = false → (d.otpRead f i).otp = { d.otp with reading := some i, readDue := none } ∧ ((d.otpRead f i).head (pg otpPage)).cur = 5) := by
  have key : ∀ y : Device, y.otp = { d.otp with readDue := some i } → y.otpBusy = d.otpBusy → (d.otpBusy = true → (y.otpNext f).otp = { d.otp with readDue := some i }) ∧
      (d.otpBusy = false → d.otp.run = none → d.otp.scanDue = false → (y.otpNext f).otp = { d.otp with reading := some i, readDue := none } ∧ ((y.otpNext f).head (pg otpPage)).cur = 5) := by
    intro y h1 h2
    refine ⟨fun h => ?_, fun h r u => ?_⟩
    · rw [next_busy f (h2.trans h)]; exact h1
    · rw [next_free f (h2.trans h) (by rw [h1]; exact r)]
      unfold Device.otpIdle
      rw [h1]
      dsimp only
      rw [u]
      dsimp only
      have g := otpState_facts (y.updOtp fun o => { o with reading := some i, readDue := none }) 5
      refine ⟨g.1.trans ?_, g.2.1⟩
      rw [updOtp_at, h1]
      dsimp only
      rw [u]
  exact key _ rfl rfl

/-- A free array with nothing due rests. -/
theorem idle_free (d : Device) (h1 : d.otp.scanDue = false) (h2 : d.otp.readDue = none) : d.otpIdle.otp = d.otp ∧ (d.otpIdle.head (pg otpPage)).cur = 0 := by
  unfold Device.otpIdle
  rw [h1, h2]
  exact ⟨(otpState_facts d 0).1, (otpState_facts d 0).2.1⟩

theorem rests {d : Device} (f : OtpArray) (h1 : d.otp.scanDue = false) (h2 : d.otp.readDue = none) (h3 : d.otp.run = none) (h4 : d.otp.scanning = false) (h5 : d.otp.reading = none) :
    (d.otpNext f).otp = d.otp ∧ ((d.otpNext f).head (pg otpPage)).cur = 0 := by
  have hb : d.otpBusy = false := by unfold Device.otpBusy; rw [h3, h4, h5]; rfl
  rw [next_free f hb h3]
  exact idle_free d h1 h2

theorem rests_after {d : Device} (f : OtpArray) (h1 : d.otp.scanDue = false) (h2 : d.otp.readDue = none) (h3 : d.otp.run = none) (h4 : d.otp.scanning = false) (h5 : d.otp.reading = none) :
    (d.otpAfterScan f).otp = d.otp ∧ ((d.otpAfterScan f).head (pg otpPage)).cur = 0 := by
  unfold Device.otpAfterScan
  rw [h2, h3]
  exact rests f h1 h2 h3 h4 h5

/-- A taken write of an OTP page. -/
theorem otp_write (s : State) (src : Source) (p o : Nat) (v : Word) (ht : s.dev.takes src (pageAddr p o) 0xFFFFFFFF v = true) (hb : blockOf p = some .otp) (ho : o < 0x1000) (h4 : o % 4 = 0)
    (hh : 0x040 ≤ o) : s.dev.busWrite s.fuses src (pageAddr p o) 0xF v {} = (s.dev.arrive src (pageAddr p o)).otpWrite s.fuses (s.dev.requester src) p o 0xFFFFFFFF v := by
  have hw := Device.busWrite_page s.dev s.fuses src p o 0xF v {} ht (by rw [hb]; rfl) (by decide) ho h4 (Or.inr hh)
  rw [hw]
  unfold Device.blockWrite
  rw [hb]
  dsimp only
  rw [byteMask_full, Device.arrive_requester]

/-- What an access leaves of what the controller rests on. -/
theorem arrive_otp (d : Device) (src : Source) (a : Nat) : (d.arrive src a).otp = d.otp ∧ (d.arrive src a).otpBusy = d.otpBusy ∧ (d.arrive src a).dieMaxC = d.dieMaxC ∧
    (d.arrive src a).freeCount = d.freeCount ∧ (d.arrive src a).regs = d.regs := by
  have h : (d.arrive src a).otp = d.otp := keeps_otp (by simp)
  have hr := Device.arrive_regs d src a
  exact ⟨h, by unfold Device.otpBusy; rw [h], (heat_of (keeps_thm (by simp)) hr).2.2.1, keeps_freeCount (by simp), hr⟩

/-- A fold that only raises events and sets error bits. -/
theorem marg_fold (l : List Nat) (d : Device) : (l.foldl (fun d i => (d.raise 4 (BitVec.ofNat 32 i)).setErr otpPage (errBit 11)) d).otp = d.otp ∧
    (l.foldl (fun d i => (d.raise 4 (BitVec.ofNat 32 i)).setErr otpPage (errBit 11)) d).boot = d.boot := by
  induction l generalizing d with
  | nil => exact ⟨rfl, rfl⟩
  | cons a l ih =>
    rw [List.foldl_cons]
    have := ih ((d.raise 4 (BitVec.ofNat 32 a)).setErr otpPage (errBit 11))
    exact ⟨this.1.trans (keeps_otp (by simp)), this.2.trans (keeps_boot (by simp))⟩

/-- The margins of a scan. -/
theorem margins_facts (d : Device) (f : OtpArray) : (d.scanMargins f).otp =
      { d.otp with marg := Vector.ofFn fun w => f.margWord w.val, nMarg := min 255 ((List.range 1024).filter f.marginal).length } ∧ (d.scanMargins f).boot = d.boot := by
  unfold Device.scanMargins
  dsimp only
  generalize (List.range 1024).filter f.marginal = found
  generalize (found.filter fun i => !bit d.otp.marg[Fin.ofNat 32 (i / 32)] (i % 32)) = fresh
  obtain ⟨h, g⟩ := marg_fold fresh (d.updOtp fun o => { o with marg := Vector.ofFn fun w => f.margWord w.val, nMarg := min 255 found.length })
  exact ⟨h, g⟩

theorem normal_firm (f : OtpArray) (w : Word) (i : Nat) (h : f.marginal i = false) : f.normal w i = f.atM1 i := by
  unfold OtpArray.marginal at h
  have e : f.atM0 i = f.atM1 i := by simpa using h
  unfold OtpArray.normal
  rw [e]
  simp

/-- The start of an accepted operation on the free array. -/
theorem runStart_facts (d : Device) (f : OtpArray) (r : OtpRun) : let v := f.values d.freeCount
    let todo := runTargets f v r
    (∀ c, earlyResult v r todo = some c → OtpEnds (d.runStart f r) c ∧ (d.runStart f r).otp.pulses = 0 ∧ (d.runStart f r).otp.failBit = 0) ∧
    (earlyResult v r todo = none → (d.runStart f r).otp = { d.otp with run := some { r with started := true, todo := todo, tries := 0 }, pulses := 0, failBit := 0 } ∧
      ((d.runStart f r).head (pg otpPage)).cur = 2) := by
  unfold Device.runStart
  dsimp only
  rw [show d.drawScan.1 = d.freeCount from rfl]
  generalize f.values d.freeCount = v
  generalize runTargets f v r = todo
  have hx : (d.drawScan.2.updOtp fun o => { o with pulses := 0, failBit := 0 }).otp = { d.otp with pulses := 0, failBit := 0 } := rfl
  generalize (d.drawScan.2.updOtp fun o => { o with pulses := 0, failBit := 0 }) = x at *
  refine ⟨fun c h => ?_, fun h => ?_⟩ <;> rw [h] <;> dsimp only
  · have e := end_facts x c
    have n := idle_none (x.otpEnd c) (by rw [e.1])
    rw [e.1, hx] at n
    exact ⟨⟨n.1, n.2.1⟩, n.2.2.1, n.2.2.2.1⟩
  · have g := otpState_facts (x.updOtp fun o => { o with run := some { r with started := true, todo := todo, tries := 0 } }) 2
    refine ⟨g.1.trans ?_, g.2.1⟩
    rw [updOtp_at, hx]

theorem newRun_started (k w g v n) : (newRun k w g v n).started = false := rfl

/-- A write of OTP_PCTL by the page's owner that names an operation. -/
theorem request_facts (d : Device) (f : OtpArray) (k : OtpKind) (key : BitVec 16) (chk noChk : Bool) (hn : chk = (decide (k = .seal) && noChk)) : let e := d.otpRequest f k key.toNat chk
    (key ≠ 0x07B5 ∨ d.otp.progLock = true → e.otp = d.otp ∧ bit (e.head (pg otpPage)).err 1 = true) ∧
    (key = 0x07B5 → d.otp.progLock = false →
      (d.otp.run ≠ none ∨ d.otpAdmitted k = false → e.otp = { d.otp with result := 6 } ∧ bit (e.head (pg otpPage)).err 8 = true) ∧
      (d.otp.run = none → d.otpAdmitted k = true →
        let r := d.otpAsked k noChk
        let v := f.values d.freeCount
        let todo := runTargets f v r
        (d.otpBusy = true → e.otp = { d.otp with run := some r }) ∧
        (d.otpBusy = false →
          (∀ c, earlyResult v r todo = some c → OtpEnds e c ∧ e.otp.pulses = 0 ∧ e.otp.failBit = 0) ∧
          (earlyResult v r todo = none → e.otp = { d.otp with run := some { r with started := true, todo := todo, tries := 0 }, pulses := 0, failBit := 0 } ∧ (e.head (pg otpPage)).cur = 2)))) := by
  have hk : ∀ q : Bool, (key.toNat != 0x07B5 || q) = true ↔ key ≠ 0x07B5 ∨ q = true := by
    intro q
    rw [Bool.or_eq_true, bne_iff_ne]
    constructor
    · exact fun h => h.imp (fun a b => a (by rw [b]; rfl)) id
    · exact fun h => h.imp (fun a b => a (BitVec.eq_of_toNat_eq b)) id
  dsimp only
  unfold Device.otpRequest
  dsimp only
  refine ⟨fun h => ?_, fun h1 h2 => ?_⟩
  · rw [if_pos ((hk _).2 h)]
    exact ⟨rfl, err_bit d (pg otpPage) 1 (by decide)⟩
  · rw [if_neg (fun h => by rcases (hk _).1 h with h | h; exact h h1; rw [h2] at h; exact absurd h (by decide))]
    refine ⟨fun h => ?_, fun h3 h4 => ?_⟩
    · rw [if_pos]
      · exact ⟨rfl, err_bit (d.updOtp fun o => { o with result := 6 }) (pg otpPage) 8 (by decide)⟩
      · rcases h with h | h
        · rw [Option.isSome_iff_ne_none.2 h]; rfl
        · unfold Device.otpAdmitted at h
          rw [h]; simp
    · unfold Device.otpAdmitted at h4
      rw [if_neg (by rw [h3, h4]; decide)]
      have hr : (newRun k (bits (d.reg 0x00404C) 8 0) (if k = .blow then bits (d.reg 0x00404C) 20 16 else bits (d.reg 0x00404C) 26 24) (d.reg 0x004050) chk) = d.otpAsked k noChk := by
        subst hn; rfl
      rw [hr]
      have hs : (d.otpAsked k noChk).started = false := rfl
      generalize d.otpAsked k noChk = r at *
      have key : ∀ y : Device, y.otp = { d.otp with run := some r } → y.freeCount = d.freeCount →
          (d.otpBusy = true → (y.otpNext f).otp = { d.otp with run := some r }) ∧
          (d.otpBusy = false → (∀ c, earlyResult (f.values d.freeCount) r (runTargets f (f.values d.freeCount) r) = some c → OtpEnds (y.otpNext f) c ∧ (y.otpNext f).otp.pulses = 0 ∧ (y.otpNext f).otp.failBit = 0) ∧
            (earlyResult (f.values d.freeCount) r (runTargets f (f.values d.freeCount) r) = none →
              (y.otpNext f).otp = { d.otp with run := some { r with started := true, todo := (runTargets f (f.values d.freeCount) r), tries := 0 }, pulses := 0, failBit := 0 } ∧ ((y.otpNext f).head (pg otpPage)).cur = 2)) := by
        intro y hy hf
        have hb : y.otpBusy = d.otpBusy := by
          unfold Device.otpBusy
          rw [hy, h3]
          dsimp only
          rw [hs]
        refine ⟨fun b => ?_, fun b => ?_⟩
        · rw [next_busy f (hb.trans b)]; exact hy
        · rw [next_run f (hb.trans b) (show y.otp.run = some r by rw [hy])]
          have g := runStart_facts y f r
          dsimp only at g
          rw [hf, hy] at g
          exact g
      exact key _ rfl rfl

theorem opWord_facts (key : BitVec 16) (noChk : Bool) (k : OtpKind) : otpKindOf (bits (otpOpWord key noChk k) 2 0) = some k ∧ bits (otpOpWord key noChk k) 31 16 = key.toNat ∧
    bit (otpOpWord key noChk k) 8 = (decide (k = .seal) && noChk) := by
  have f1 : ∀ h l, bits (field 31 16 key.toNat) h l = bits (setBits 0 31 16 key.toNat) h l := fun h l => bits_field 31 16 key.toNat h l (by decide)
  have f2 : bits (field 31 16 key.toNat) 2 0 = 0 := by
    rw [f1, bits_setBits_other _ _ _ _ _ _ (.inl (by decide))]; decide
  have f3 : bits (field 31 16 key.toNat) 31 16 = key.toNat := by
    rw [f1, bits_setBits _ _ _ _ (by decide)]; exact Nat.mod_eq_of_lt key.isLt
  have f4 : bits (field 31 16 key.toNat) 8 8 = 0 := by
    rw [f1, bits_setBits_other _ _ _ _ _ _ (.inl (by decide))]; decide
  have b8 : ∀ w : Word, bit w 8 = decide (bits w 8 8 = 1) := by
    intro w
    have := bits_testBit w 8 8 0
    rw [show (0 + 8 : Nat) = 8 from rfl] at this
    have lt := bits_lt w 8 8
    unfold bit
    rw [show w.getLsbD 8 = (bits w 8 8).testBit 0 by rw [this]; simp]
    revert lt
    generalize bits w 8 8 = n
    intro lt
    rcases (by omega : n = 0 ∨ n = 1) with h | h <;> subst h <;> decide
  rw [b8]
  cases k <;> unfold otpOpWord <;> cases noChk <;> simp only [bits_or, f2, f3, f4] <;> refine ⟨by decide, ?_, by decide⟩ <;>
    first | exact (Nat.or_zero _) | (show key.toNat ||| 0 ||| 0 = key.toNat; simp)

theorem stopWord_facts (key : BitVec 16) : bits (field 31 16 key.toNat) 2 0 = 0 ∧ bits (field 31 16 key.toNat) 31 16 = key.toNat := by
  constructor
  · rw [bits_field _ _ _ _ _ (by decide), bits_setBits_other _ _ _ _ _ _ (.inl (by decide))]; decide
  · rw [bits_field _ _ _ _ _ (by decide), bits_setBits _ _ _ _ (by decide)]; exact Nat.mod_eq_of_lt key.isLt

/-- A pulse starts, or the temperature ends the operation. -/
theorem pulseStart_facts (d : Device) (f : OtpArray) (r : OtpRun) : (d.otpOk = false → OtpEnds (d.pulseStart f r) 3) ∧
    (d.otpOk = true → (d.pulseStart f r).otp = { d.otp with run := some { r with pulsing := true }, pulses := satInc 0xFFFF d.otp.pulses } ∧ ((d.pulseStart f r).head (pg otpPage)).cur = 3) := by
  unfold Device.pulseStart
  refine ⟨fun h => ?_, fun h => ?_⟩
  · rw [if_neg (by rw [h]; decide)]; exact (ends_next d f 3).1
  · rw [if_pos h]
    have g := otpState_facts (d.updOtp fun o => { o with run := some { r with pulsing := true }, pulses := satInc 0xFFFF o.pulses }) 3
    exact ⟨g.1, g.2.1⟩

/-- The reload performed now. -/
theorem reloadNow_facts (d : Device) (f : OtpArray) : let v := f.values d.freeCount
    let find := selectGen v (bits d.boot.straps 1 0 == 0)
    (find = none → (d.reloadNow f).otp = { d.otp with reloadDue := false, rldResult := 3, rldGen := 7, rldWrites := 0 } ∧ (d.reloadNow f).regs = d.regs) ∧
    (∀ g, find = some g → (d.reloadNow f).otp.rldResult = 1 ∧ (d.reloadNow f).otp.rldGen = g ∧ (d.reloadNow f).otp.reloadDue = false) := by
  dsimp only
  unfold Device.reloadNow
  dsimp only
  rw [show d.drawScan.1 = d.freeCount from rfl, show d.drawScan.2.boot = d.boot from rfl]
  generalize f.values d.freeCount = v
  refine ⟨fun h => ?_, fun g h => ?_⟩ <;> rw [h]
  · exact ⟨rfl, rfl⟩
  · dsimp only
    rw [updOtp_at]
    exact ⟨rfl, rfl, rfl⟩

/-- The waiting reload. -/
theorem waiting_facts (d : Device) (f : OtpArray) : let v := f.values d.freeCount
    let find := selectGen v (bits d.boot.straps 1 0 == 0)
    (d.otp.reloadDue = false ∨ d.otpBusy = true → d.reloadWaiting f = d) ∧
    (d.otp.reloadDue = true → d.otpBusy = false →
      (d.seq.st ≠ .idle → (d.reloadWaiting f).otp = { d.otp with reloadDue := false, rldResult := 2 }) ∧
      (d.seq.st = .idle →
        (find = none → (d.reloadWaiting f).otp = { d.otp with reloadDue := false, rldResult := 3, rldGen := 7, rldWrites := 0 } ∧ (d.reloadWaiting f).regs = d.regs) ∧
        (∀ g, find = some g → (d.reloadWaiting f).otp.rldResult = 1 ∧ (d.reloadWaiting f).otp.rldGen = g ∧ (d.reloadWaiting f).otp.reloadDue = false))) := by
  dsimp only
  unfold Device.reloadWaiting
  refine ⟨fun h => ?_, fun a b => ⟨fun h => ?_, fun h => ?_⟩⟩
  · rw [if_neg]
    rcases h with h | h <;> rw [h] <;> simp
  · rw [if_pos (by rw [a, b]; rfl), if_neg (by simpa using h)]
    rfl
  · rw [if_pos (by rw [a, b]; rfl), if_pos (by rw [h]; rfl)]
    exact reloadNow_facts d f

theorem abort_run (d : Device) (f : OtpArray) (h : d.otp.run = none) : d.otpAbort f = d := by
  unfold Device.otpAbort
  rw [h]

theorem wd_map (v : Vector Wdt 9) (k : Fin 9) : ((v.map fun x : Wdt => { x with queue := [] })[k]).queue = [] := by
  have : (v.map fun x : Wdt => { x with queue := [] })[k] = { v[k] with queue := [] } := Vector.getElem_map ..
  rw [this]

/-- A restart takes the core down. -/
theorem restart_facts (d : Device) (f : OtpArray) (w : Bool) (who : Nat) (h : d.boot.coreUp = true ∨ d.boot.coreRestarting = true) : let e := d.coreRestart f w who
    e.boot.coreUp = false ∧ e.boot.coreRestarting = true ∧ e.hkc = { d.hkc with restarts := satInc 255 d.hkc.restarts, code := [] } ∧
        (∀ k, (e.wd k).queue = []) ∧ (d.otp.run = none → e.otp = d.otp) ∧ (e.head (pg 0x006)).cur = 3 := by
  dsimp only
  unfold Device.coreRestart
  rw [if_pos (by rw [Bool.or_eq_true]; exact h)]
  dsimp only
  have key : ∀ y : Device, y.boot = { d.boot with coreUp := false, coreRestarting := true } → y.wdt = (d.wdt.map fun x => { x with queue := [] }) →
      y.hkc = { d.hkc with restarts := satInc 255 d.hkc.restarts, code := [] } → y.otp = d.otp →
      let e := ((((y.tgRelease 8).otpAbort f).raise 2 (flag 0 w)).hkcSync (if w then 0x05 else 0x01) who).evcSync
      e.boot.coreUp = false ∧ e.boot.coreRestarting = true ∧ e.hkc = { d.hkc with restarts := satInc 255 d.hkc.restarts, code := [] } ∧
        (∀ k, (e.wd k).queue = []) ∧ (d.otp.run = none → e.otp = d.otp) ∧ (e.head (pg 0x006)).cur = 3 := by
    intro y h1 h2 h3 h4
    dsimp only
    have t1 : (y.tgRelease 8).otp = y.otp := keeps_otp (by simp)
    have b1 : (((y.tgRelease 8).otpAbort f).raise 2 (flag 0 w)).boot = y.boot := keeps_boot (by simp)
    have w1 : (((y.tgRelease 8).otpAbort f).raise 2 (flag 0 w)).wdt = y.wdt := keeps_wdt (by simp)
    have k1 : (((y.tgRelease 8).otpAbort f).raise 2 (flag 0 w)).hkc = y.hkc := keeps_hkc (by simp)
    have o1 : d.otp.run = none → (((y.tgRelease 8).otpAbort f).raise 2 (flag 0 w)).otp = d.otp := by
      intro hr
      rw [abort_run _ f (by rw [t1, h4]; exact hr)]
      have : ((y.tgRelease 8).raise 2 (flag 0 w)).otp = (y.tgRelease 8).otp := keeps_otp (by simp)
      exact this.trans (t1.trans h4)
    generalize ((y.tgRelease 8).otpAbort f).raise 2 (flag 0 w) = z at *
    have b2 : ((z.hkcSync (if w then 0x05 else 0x01) who).evcSync).boot = z.boot := keeps_boot (by simp)
    have w2 : ((z.hkcSync (if w then 0x05 else 0x01) who).evcSync).wdt = z.wdt := keeps_wdt (by simp)
    have k2 : ((z.hkcSync (if w then 0x05 else 0x01) who).evcSync).hkc = z.hkc := keeps_hkc (by simp)
    have o2 : ((z.hkcSync (if w then 0x05 else 0x01) who).evcSync).otp = z.otp := keeps_otp (by simp)
    have hcode : z.hkcCode = 3 := by unfold Device.hkcCode; rw [b1, h1]; rfl
    have c2 : (((z.hkcSync (if w then 0x05 else 0x01) who).evcSync).head (pg 0x006)).cur = 3 := by
      have e := (Device.evcSync_beside (z.hkcSync (if w then 0x05 else 0x01) who)).1 (pg 0x006) (by decide)
      rw [e]
      have s := sync_cur z (pg 0x006) z.hkcCode (if w then 0x05 else 0x01) who
      rw [hcode] at s
      unfold Device.hkcSync
      rw [hcode]
      exact s
    refine ⟨?_, ?_, ?_, fun k => ?_, fun hr => o2.trans (o1 hr), c2⟩
    · rw [b2, b1, h1]
    · rw [b2, b1, h1]
    · rw [k2, k1, h3]
    · unfold Device.wd
      rw [w2, w1, h2]
      exact wd_map _ k
  exact key _ rfl rfl rfl rfl

end Sys2Proof.Machine
end

