-- ==== Sys2Proof/Laws/Ports.lean ====
section
/-! SUPPORT. Ports: what a PCIe request, a frame, a command code and an event of a port do. -/

namespace Sys2Proof.Machine
open Sys2Proof

theorem tlp_keeps (d : Device) : Touches 2148536324 d d.tlpIn ∧ Touches 2148536324 d d.tlpOut := by
  constructor
  · unfold Device.tlpIn; simp
  · unfold Device.tlpOut; simp

theorem tlpIn_pcie (d : Device) : d.tlpIn.pcie = d.pcie := (tlp_keeps d).1 .pcie (by decide)

theorem tlpOut_pcie (d : Device) : d.tlpOut.pcie = d.pcie := (tlp_keeps d).2 .pcie (by decide)

theorem tlpIn_boot (d : Device) : d.tlpIn.boot = d.boot := (tlp_keeps d).1 .boot (by decide)

theorem tlpOut_boot (d : Device) : d.tlpOut.boot = d.boot := (tlp_keeps d).2 .boot (by decide)

theorem tlpIn_regs (d : Device) : d.tlpIn.regs = d.regs := (tlp_keeps d).1 .regs (by decide)

theorem tlpOut_regs (d : Device) : d.tlpOut.regs = d.regs := (tlp_keeps d).2 .regs (by decide)

theorem tlpIn_live (d : Device) : d.tlpIn.live = d.live := by unfold Device.live Device.powered; rw [tlpIn_boot]

theorem tlpOut_head (d : Device) (p : Fin 256) : (d.tlpOut.head p).err = (d.head p).err := by
  unfold Device.tlpOut Device.whenLive
  split
  · exact (PageHdr.fixed_eq ((Device.pmcCountAll_beside d 0x30 1).2.2.2 p)).2.2.2.2.2.2
  · rfl

theorem barOpen_tlp (d : Device) (bar : Bar) (o n : Nat) : d.tlpIn.barOpen bar o n = d.barOpen bar o n := by
  unfold Device.barOpen Device.fabricOpen
  rw [tlpIn_live, tlpIn_boot]

theorem countedIn_or (d : Device) (bar : Bar) (wr : Bool) (o : Nat) (x : Dw) : d.countedIn bar wr o x = d ∨ d.countedIn bar wr o x = d.tlpIn := by
  unfold Device.countedIn
  split
  · exact .inl rfl
  · exact .inr rfl

theorem countedIn_write (d : Device) (bar : Bar) (o : Nat) (x : Dw) : d.countedIn bar true o x = d.tlpIn := by
  unfold Device.countedIn quietRequest
  rfl

/-- The reply to a read of one DW, counted as its packet is. -/
def Device.countedOut (d : Device) (bar : Bar) (o : Nat) (x : Dw) : Device := if quietRequest bar false o [x] then d else d.tlpOut

theorem countedOut_or (d : Device) (bar : Bar) (o : Nat) (x : Dw) : d.countedOut bar o x = d ∨ d.countedOut bar o x = d.tlpOut := by
  unfold Device.countedOut
  split
  · exact .inl rfl
  · exact .inr rfl

theorem mem_one (d : Device) (f : OtpArray) (bar : Bar) (wr : Bool) (o : Nat) (x : Dw) (hp : d.pcieAnswers = true) (h4 : bar ≠ .bar4) (ho : o % 4 = 0)
    (hs : o + 4 ≤ barSize bar) (hb : x.be ≠ 0) (hop : d.barOpen bar o 1 = true) :
    d.memRequest f bar wr o [x] =
      if alignedBe x.be then
        if wr then (d.tlpIn.writeWord f (barTarget bar o).2 (barTarget bar o).1 (byteMask x.be) x.data).complete .none []
        else (((d.countedIn bar false o x).readWord (barTarget bar o).2 (barTarget bar o).1).2.countedOut bar o x).complete .success
          [((d.countedIn bar false o x).readWord (barTarget bar o).2 (barTarget bar o).1).1 &&& byteMask x.be]
      else
        let e := (d.countedIn bar wr o x).unaligned (barTarget bar o).2 (barTarget bar o).1
        if wr then (e.updPcie fun x => { x with aerCa := x.aerCa || !e.boot.clkFailed }).complete .none []
        else (e.countedOut bar o x).complete .completerAbort [] := by
  unfold Device.memRequest
  have e4 : o / 4 * 4 = o := by omega
  have hop' : (d.countedIn bar wr o x).barOpen bar o 1 = true := by
    rcases countedIn_or d bar wr o x with h | h
    · rw [h]; exact hop
    · rw [h, barOpen_tlp]; exact hop
  have hf : refusedAt o [x] = if alignedBe x.be then none else some o := by
    unfold refusedAt
    have hb' : ¬ x.be = 0#4 := hb
    cases ha : alignedBe x.be <;> simp [List.findIdx?_cons, hb', ha]
  dsimp only
  rw [e4, hp, if_neg (by simp; omega)]
  have hin : (if quietRequest bar wr o [x] = true then d else d.tlpIn) = d.countedIn bar wr o x := rfl
  rw [hin, if_neg (by rw [show [x].length = 1 from rfl, hop']; decide), hf]
  have hd : ∀ e : Device, e.dwAccess f bar wr o x = if wr then (e.writeWord f (barTarget bar o).2 (barTarget bar o).1 (byteMask x.be) x.data, 0)
      else ((e.readWord (barTarget bar o).2 (barTarget bar o).1).2, (e.readWord (barTarget bar o).2 (barTarget bar o).1).1 &&& byteMask x.be) := by
    intro e; unfold Device.dwAccess; rw [if_neg hb, if_neg h4]
  have hr : List.range 1 = [0] := rfl
  have h0 : o + 4 * 0 = o := by omega
  cases wr
  · have hout : ∀ e : Device, (if quietRequest bar false o [x] = true then e else e.tlpOut) = e.countedOut bar o x := fun _ => rfl
    cases ha : alignedBe x.be
    · simp [h4, hout]
    · simp only [List.length_singleton, hr, List.foldl_cons, List.foldl_nil, if_true, List.getElem?_cons_zero, Option.getD_some, h0, hd, hout]
      simp
  · rw [countedIn_write]
    cases ha : alignedBe x.be
    · simp [h4]
    · simp only [List.length_singleton, hr, List.foldl_cons, List.foldl_nil, if_true, List.getElem?_cons_zero, Option.getD_some, h0, hd]

theorem one_bit (n i : Nat) (hn : n < 16) : (BitVec.ofNat 16 (2 ^ n)).getLsbD i = decide (i = n) := by
  rw [BitVec.getLsbD_ofNat, Nat.testBit_two_pow]
  by_cases h : n = i
  · subst h; simp [hn]
  · have h' : ¬ i = n := fun e => h e.symm
    simp [h, h']

theorem mayIssue_of {d e : Device} (h : Touches 2148536324 d e ∨ Touches 36508274692 d e) : e.pcieMayIssue = d.pcieMayIssue := by
  unfold Device.pcieMayIssue
  rcases h with h | h
  · rw [h .boot (by decide), h .pcie (by decide)]
  · rw [h .boot (by decide), h .pcie (by decide)]

/-- What a flush leaves: every field of the endpoint but PENDING, of which no bit rises. -/
theorem flush_step (d : Device) (v : Fin 16) : ∃ p, (if d.pcie.msixEn && !d.pcie.funcMask && d.pcieMayIssue && d.pcie.pending.getLsbD v.val && !d.pcie.vecMask.getLsbD v.val then
      (d.updPcie fun x => { x with pending := x.pending &&& ~~~(BitVec.ofNat 16 (2 ^ v.val)) }).sendTlp (.msix v.val)
    else d).pcie = { d.pcie with pending := p } ∧ (∀ i, p.getLsbD i = true → d.pcie.pending.getLsbD i = true) ∧
    (d.pcie.msixEn = true → d.pcie.funcMask = false → d.pcieMayIssue = true → p.getLsbD v.val = true → d.pcie.vecMask.getLsbD v.val = true) := by
  split
  · have e : ∀ x : Device, (x.sendTlp (.msix v.val)).pcie = x.pcie := fun x => keeps_pcie (by simp)
    rw [e]
    refine ⟨_, rfl, fun i hi => ?_, fun _ _ _ hv => ?_⟩
    · rw [BitVec.getLsbD_and] at hi; exact (Bool.and_eq_true _ _ ▸ hi).1
    · rw [BitVec.getLsbD_and, BitVec.getLsbD_not] at hv
      rw [one_bit _ _ v.isLt] at hv; simp at hv
  · rename_i h
    refine ⟨d.pcie.pending, rfl, fun _ h => h, fun h1 h2 h3 h4 => ?_⟩
    rw [h1, h2, h3, h4] at h
    cases hv : d.pcie.vecMask.getLsbD v.val
    · rw [hv] at h; exact absurd rfl h
    · rfl

theorem flush_step_boot (d : Device) (v : Fin 16) : (if d.pcie.msixEn && !d.pcie.funcMask && d.pcieMayIssue && d.pcie.pending.getLsbD v.val && !d.pcie.vecMask.getLsbD v.val then
      (d.updPcie fun x => { x with pending := x.pending &&& ~~~(BitVec.ofNat 16 (2 ^ v.val)) }).sendTlp (.msix v.val)
    else d).boot = d.boot := by
  split
  · exact keeps_boot (by simp)
  · rfl

theorem mayIssue_pending {d e : Device} (hb : e.boot = d.boot) {p : BitVec 16} (hp : e.pcie = { d.pcie with pending := p }) : e.pcieMayIssue = d.pcieMayIssue := by
  unfold Device.pcieMayIssue; rw [hb, hp]

theorem flush_fold (l : List (Fin 16)) (d : Device) : ∃ p,
    (l.foldl (fun (d : Device) v => if d.pcie.msixEn && !d.pcie.funcMask && d.pcieMayIssue && d.pcie.pending.getLsbD v.val && !d.pcie.vecMask.getLsbD v.val then
      (d.updPcie fun x => { x with pending := x.pending &&& ~~~(BitVec.ofNat 16 (2 ^ v.val)) }).sendTlp (.msix v.val)
    else d) d).pcie = { d.pcie with pending := p } ∧ (∀ i, p.getLsbD i = true → d.pcie.pending.getLsbD i = true) ∧
    (∀ v ∈ l, d.pcie.msixEn = true → d.pcie.funcMask = false → d.pcieMayIssue = true → p.getLsbD v.val = true → d.pcie.vecMask.getLsbD v.val = true) ∧
    (l.foldl (fun (d : Device) v => if d.pcie.msixEn && !d.pcie.funcMask && d.pcieMayIssue && d.pcie.pending.getLsbD v.val && !d.pcie.vecMask.getLsbD v.val then
      (d.updPcie fun x => { x with pending := x.pending &&& ~~~(BitVec.ofNat 16 (2 ^ v.val)) }).sendTlp (.msix v.val)
    else d) d).boot = d.boot := by
  induction l generalizing d with
  | nil => exact ⟨d.pcie.pending, rfl, fun _ h => h, fun v h => (nomatch h), rfl⟩
  | cons v l ih =>
    rw [List.foldl_cons]
    obtain ⟨p, hp, hm, hv⟩ := flush_step d v
    have hb := flush_step_boot d v
    generalize (if d.pcie.msixEn && !d.pcie.funcMask && d.pcieMayIssue && d.pcie.pending.getLsbD v.val && !d.pcie.vecMask.getLsbD v.val then
      (d.updPcie fun x => { x with pending := x.pending &&& ~~~(BitVec.ofNat 16 (2 ^ v.val)) }).sendTlp (.msix v.val)
    else d) = e at hp hb
    obtain ⟨q, hq, hm2, hv2, hb2⟩ := ih e
    have hmi := mayIssue_pending hb hp
    rw [hp] at hq hm2 hv2
    refine ⟨q, hq, fun i h => hm i (hm2 i h), fun w hw h1 h2 h3 h4 => ?_, hb2.trans hb⟩
    rcases List.mem_cons.1 hw with h | h
    · subst h; exact hv h1 h2 h3 (hm2 _ h4)
    · exact hv2 w h h1 h2 (by rw [hmi]; exact h3) h4

theorem flush_pcie (d : Device) : ∃ p, d.msixFlush.pcie = { d.pcie with pending := p } ∧ (∀ i, p.getLsbD i = true → d.pcie.pending.getLsbD i = true) ∧
    (∀ v : Fin 16, d.pcie.msixEn = true → d.pcie.funcMask = false → d.pcieMayIssue = true → p.getLsbD v.val = true → d.pcie.vecMask.getLsbD v.val = true) ∧
    d.msixFlush.boot = d.boot := by
  obtain ⟨p, h1, h2, h3, h4⟩ := flush_fold (List.finRange 16) d
  exact ⟨p, h1, h2, fun v => h3 v (List.mem_finRange v), h4⟩

theorem ringsHost_pcie (d : Device) : d.ringsHost.pcie = d.pcie := keeps_pcie (by simp)

theorem linkSet_pcie (d : Device) (up : Bool) : (d.linkSet up).pcie = { d.pcie with linkUp := up } := by
  unfold Device.linkSet
  split
  · rename_i h; rw [ringsHost_pcie, h]
  · rw [ringsHost_pcie]
    exact keeps_pcie (d := ({ d with pcie := { d.pcie with linkUp := up } } : Device)) (by simp)

theorem pcieReset_pcie (d : Device) : d.pcieReset.pcie = pcie0 d.pcie.perstLow := by
  unfold Device.pcieReset
  dsimp only
  rw [linkSet_pcie]

theorem src_spi (bs) : ∃ c, frameSource .spi bs = .port .spi c := ⟨_, rfl⟩

theorem runFrame_read (d : Device) (f p l lw bs) : d.runFrame f p l true lw bs =
    let res := frameResult l true bs
    let e := if res = 1 then d.unaligned (frameSource p bs) (frameAddr bs) else d
    { dev := if res = 0 then (e.frameRead (frameSource p bs) (frameAddr bs) (frameWords bs)).2 else e, res := res
      rsp := some { bytes := frameResponse lw res (if res = 0 then (e.frameRead (frameSource p bs) (frameAddr bs) (frameWords bs)).1 else List.replicate (4 * frameWords bs) 0)
                    ready := !(res == 0 && frameSlow bs) } } := by
  unfold Device.runFrame
  dsimp only
  rw [if_pos rfl]
  by_cases h : frameResult l true bs = 0 <;> simp [h]

theorem runFrame_write (d : Device) (f p l lw bs) : d.runFrame f p l false lw bs =
    let res := frameResult l false bs
    let e := if res = 1 then d.unaligned (frameSource p bs) (frameAddr bs) else d
    { dev := if res = 0 then e.frameWrite f (frameSource p bs) (frameAddr bs) (wordsOfBytes (frameData bs)) else e, res := res, rsp := none } := by
  unfold Device.runFrame
  dsimp only
  rw [if_neg (by decide)]

theorem unaligned_regs (d : Device) (src a) : (d.unaligned src a).regs = d.regs := keeps_regs (by unfold Device.unaligned; simp)

theorem reads_of (bs : List Byte) (h : bs ≠ []) (dflt) : frameReads dflt bs = (frameCmd bs).getLsbD 3 := by
  unfold frameReads
  rw [if_neg (by simpa using h)]

theorem live_parts {d : Device} (h : d.live = true) : d.boot.held = false ∧ d.powered = true ∧ d.boot.clkFailed = false := by
  unfold Device.live at h
  simp only [Bool.and_eq_true, Bool.not_eq_true'] at h
  exact ⟨h.1.1.1, h.2, h.1.2⟩

theorem spi_run (d : Device) (f dflt bs lost) (hb : bs ≠ []) (hl : d.live = true) (h5 : 5 ≤ d.boot.stage) (hp : d.framePagesOpen bs = true)
    (he : d.spi.enabled = true) (hr : bs ≠ spiResetPattern) : d.spiFrame f dflt bs lost =
      let r := d.runFrame f .spi { words := 8, mwl := 64, mrl := 64, notReady := false } ((frameCmd bs).getLsbD 3) d.spi.lastWr bs
      { r.dev with spi := { r.dev.spi with lastWr := if (frameCmd bs).getLsbD 3 then r.dev.spi.lastWr else r.res, rsp := if lost then none else r.rsp } } := by
  obtain ⟨a, b, c⟩ := live_parts hl
  unfold Device.spiFrame
  rw [if_neg (by rw [a, b]; decide), if_neg hr, if_neg (by rw [he]; decide)]
  dsimp only
  rw [if_neg (by rw [hl]; decide), reads_of _ hb, hp, show decide (d.boot.stage < 5) = false from decide_eq_false (by omega)]
  rfl

theorem read_spi (d : Device) (src a n) : ((d.frameRead src a n).2).spi = d.spi := keeps_spi (by simp)

theorem bus_run (d : Device) (f) (p : Fin 2) (dflt bs) (hb : bs ≠ []) (hp : d.framePagesOpen bs = true) : d.busFrame f p dflt bs =
    let x := d.i3c[p]
    let rd := (frameCmd bs).getLsbD 3
    let r := d.runFrame f (busPort p) x.limits rd x.lastWr bs
    (r.dev.updI3c p fun x => { x with lastWr := if rd then x.lastWr else r.res, rsp := if rd then r.rsp else x.rsp }).busReply p [] := by
  unfold Device.busFrame
  rw [if_neg (by rw [hp]; decide)]
  dsimp only
  rw [reads_of _ hb]

theorem updI3c_get (d : Device) (p : Fin 2) (g : I3cPort → I3cPort) : (d.updI3c p g).i3c[p] = g d.i3c[p] := upd_same _ _ _

theorem busReply_get (d : Device) (p : Fin 2) (bs) : (d.busReply p bs).i3c[p] = { d.i3c[p] with acked := true, reply := bs } := upd_same _ _ _

theorem busReply_regs (d : Device) (p : Fin 2) (bs) : (d.busReply p bs).regs = d.regs := rfl

theorem read_i3c (d : Device) (src a n) : ((d.frameRead src a n).2).i3c = d.i3c := keeps_i3c (by simp)

theorem unal_i3c (d : Device) (src a) : (d.unaligned src a).i3c = d.i3c := keeps_i3c (by unfold Device.unaligned; simp)

theorem bus_write (d : Device) (f) (p : Fin 2) (dflt bs) (hb : bs ≠ []) (hp : d.framePagesOpen bs = true) (h : (frameCmd bs).getLsbD 3 = false) :
    let x := d.i3c[p]
    let res := frameResult x.limits false bs
    (d.busFrame f p dflt bs).i3c[p].acked = true ∧ (d.busFrame f p dflt bs).i3c[p].lastWr = res ∧
      (d.busFrame f p dflt bs).regs = if res = 0 then (d.frameWrite f (frameSource (busPort p) bs) (frameAddr bs) (wordsOfBytes (frameData bs))).regs else d.regs := by
  dsimp only
  rw [bus_run d f p dflt bs hb hp]
  dsimp only
  rw [h, runFrame_write]
  dsimp only
  rw [busReply_get, updI3c_get]
  refine ⟨rfl, rfl, ?_⟩
  show (if _ then _ else _ : Device).regs = _
  split
  · rename_i h0; rw [if_neg (by rw [h0]; decide)]
  · split
    · exact unaligned_regs _ _ _
    · rfl

theorem bus_read (d : Device) (f) (p : Fin 2) (dflt bs) (hb : bs ≠ []) (hp : d.framePagesOpen bs = true) (h : (frameCmd bs).getLsbD 3 = true) :
    let x := d.i3c[p]
    let res := frameResult x.limits true bs
    (d.busFrame f p dflt bs).i3c[p].acked = true ∧ (d.busFrame f p dflt bs).i3c[p].lastWr = x.lastWr ∧
      (res ≠ 0 → (d.busFrame f p dflt bs).regs = d.regs) ∧
      (d.busFrame f p dflt bs).i3c[p].rsp.map (·.bytes) = some (frameResponse x.lastWr res
            (if res = 0 then (d.frameRead (frameSource (busPort p) bs) (frameAddr bs) (frameWords bs)).1 else List.replicate (4 * frameWords bs) 0)) := by
  dsimp only
  rw [bus_run d f p dflt bs hb hp]
  dsimp only
  rw [h, runFrame_read]
  dsimp only
  rw [busReply_get, updI3c_get]
  dsimp only
  refine ⟨rfl, ?_, fun h0 => ?_, ?_⟩
  · rw [if_pos rfl]
    split
    · rename_i h0; rw [if_neg (by rw [h0]; decide)]
      exact congrArg (fun v : Vector I3cPort 2 => v[p].lastWr) (read_i3c _ _ _ _)
    · split
      · exact congrArg (fun v : Vector I3cPort 2 => v[p].lastWr) (unal_i3c _ _ _)
      · rfl
  · show (if _ then _ else _ : Device).regs = _
    rw [if_neg h0]
    split
    · exact unaligned_regs _ _ _
    · rfl
  · rw [if_pos rfl, Option.map_some]
    split
    · rename_i h0; rw [if_neg (by rw [h0]; decide)]
    · rfl

theorem inI3c_on {d : Device} {p : Fin 2} (ha : d.busAnswers p = true) (hm : d.i3c[p].mode = .i3c) (f) : d.inI3c p f = f d := by
  unfold Device.inI3c
  rw [if_pos (by rw [ha, hm]; rfl)]

theorem inSmbus_on {d : Device} {p : Fin 2} (ha : d.busAnswers p = true) (hm : d.i3c[p].mode = .smbus) (f) : d.inSmbus p f = f d := by
  unfold Device.inSmbus
  rw [if_pos (by rw [ha, hm]; rfl)]

theorem inFraming_sdr {d : Device} {p : Fin 2} (ha : d.busAnswers p = true) (hm : d.i3c[p].mode = .i3c) (code f) :
    d.inFraming p none code f = f (d.updI3c p fun x => { x with hdr := false }) := by
  unfold Device.inFraming
  rw [inI3c_on ha hm]

theorem inFraming_hdr {d : Device} {p : Fin 2} (ha : d.busAnswers p = true) (hm : d.i3c[p].mode = .i3c) (hh : d.i3c[p].hdr = true)
    (code f) : d.inFraming p (some code) code f = f d := by
  unfold Device.inFraming
  rw [inI3c_on ha hm]
  dsimp only
  rw [hh, beq_self_eq_true]
  rfl

theorem portFrame_bus (d : Device) (f p dflt hdr bs) :
    d.portFrame f (busPort p) dflt hdr bs = d.inFraming p hdr 0x40 fun d => d.busFrame f p dflt bs := by
  have : p = 0 ∨ p = 1 := by omega
  rcases this with h | h <;> subst h <;> rfl

theorem busFrame_dflt (d : Device) (f p bs) (hb : bs ≠ []) (dflt : Bool) : d.busFrame f p dflt bs = d.busFrame f p false bs := by
  unfold Device.busFrame
  rw [reads_of _ hb dflt, reads_of _ hb false]

theorem updI3c_twice (d : Device) (p : Fin 2) (f g : I3cPort → I3cPort) : (d.updI3c p f).updI3c p g = d.updI3c p fun x => g (f x) := by
  unfold Device.updI3c; dsimp only; rw [upd_twice]

theorem updI3c_const (d : Device) (p : Fin 2) (f : I3cPort → I3cPort) (y) (h : f d.i3c[p] = y) : d.updI3c p f = d.updI3c p fun _ => y := by
  unfold Device.updI3c upd; subst h; rfl

theorem ccc_on {d : Device} {p : Fin 2} (ha : d.busAnswers p = true) (hm : d.i3c[p].mode = .i3c) (f : I3cPort → I3cPort) (bs) :
    d.ccc p f bs = d.updI3c p fun _ => { f d.i3c[p] with hdr := false, acked := true, reply := bs } := by
  unfold Device.ccc
  rw [inI3c_on ha hm]
  unfold Device.busReply
  rw [updI3c_twice]
  exact updI3c_const _ _ _ _ rfl

theorem upd_same_self {α : Type} {n : Nat} (v : Vector α n) (i : Fin n) (f : α → α) (h : f v[i] = v[i]) : upd v i f = v := by
  unfold upd; rw [h]; exact Vector.set_getElem_self _

theorem modeSwitch_on {d : Device} {p : Fin 2} (hm : d.i3c[p].mode = .i3c) : d.modeSwitch p = d := by
  unfold Device.modeSwitch
  split
  · unfold Device.updI3c
    rw [upd_same_self]
    rw [← hm]
  · rfl

theorem reply_get (d : Device) (p : Fin 2) (bs) : (d.busReply p bs).i3c[p].acked = true ∧ (d.busReply p bs).i3c[p].reply = bs := by
  rw [busReply_get]; exact ⟨rfl, rfl⟩

theorem busIdx_port (b : BusPort) : (b = .a ∧ busIdx b = 0 ∧ busPort (busIdx b) = .i3cA) ∨ (b = .b ∧ busIdx b = 1 ∧ busPort (busIdx b) = .i3cB) := by
  cases b
  · exact Or.inl ⟨rfl, rfl, rfl⟩
  · exact Or.inr ⟨rfl, rfl, rfl⟩

end Sys2Proof.Machine
end

