-- ==== Sys2Proof/Laws/Pmbus.lean ====
section
/-! SUPPORT. PMBus: what a command takes, answers and stores. -/

namespace Sys2Proof.Machine
open Sys2Proof

theorem pmCommand_on {d : Device} {x : SmbXfer} (h : d.pmReady x = true) (g : Fin 2 → Source → Device → Device) :
    d.pmCommand x g = g (busIdx x.port) (d.pmSource (busIdx x.port)) (d.pmArrive (busIdx x.port)) := by
  unfold Device.pmReady at h
  simp only [Bool.and_eq_true, beq_iff_eq] at h
  obtain ⟨⟨⟨⟨⟨h1, h2⟩, h3⟩, h4⟩, h5⟩, h6⟩ := h
  unfold Device.pmCommand
  dsimp only
  rw [inSmbus_on h1 h2, if_neg (by rw [h3, h4]; decide)]
  have ho : d.pmOpen (busIdx x.port) = d := by
    unfold Device.pmOpen
    split
    · rfl
    · rename_i e; rw [e] at h6; cases h6
  have hp : ∀ f, d.withPec (busIdx x.port) x.pec f = f d := by
    intro f
    unfold Device.withPec
    cases hx : x.pec
    · rw [hx] at h5
      dsimp only
      rw [if_neg (by intro e; rw [e] at h5; simp at h5)]
    · rfl
    · rw [hx] at h5; simp at h5
  rw [hp, ho]
  rfl

theorem renew_i3c (d : Device) (r) : (d.renew r).i3c = d.i3c := by cases r <;> rfl

theorem renew_regs (d : Device) (r) : (d.renew r).regs = d.regs := by cases r <;> rfl

theorem pmArrive_i3c (d : Device) (p) : (d.pmArrive p).i3c = d.i3c := renew_i3c _ _

theorem pmArrive_port (d : Device) (p q : Fin 2) : (d.pmArrive p).i3c[q] = d.i3c[q] := congrArg (fun v : Vector I3cPort 2 => v[q]) (pmArrive_i3c d p)

theorem page_of {b : Byte} {n : Fin 16} (h : b.toNat = n.val) : b ≠ 0xFF ∧ Fin.ofNat 16 b.toNat = n := by
  refine ⟨fun e => ?_, ?_⟩
  · rw [e] at h; have : (0xFF : Byte).toNat = 255 := by decide
    have := n.isLt; omega
  · apply Fin.ext; show b.toNat % 16 = n.val; have := n.isLt; omega

theorem pmRead_on {s : State} {x : SmbXfer} {n : Fin 16} (h : s.dev.pmReady x = true) (hn : s.dev.i3c[busIdx x.port].pmPage.toNat = n.val) (g) (bs) (hg : (g n (s.dev.pmArrive (busIdx x.port))).1 = bs) (c : Instr)
    (hc : exec c s = .next { s with dev := s.dev.pmRead x g }) : Replies s c x bs := by
  refine ⟨_, hc, ?_⟩
  dsimp only
  unfold Device.pmRead
  rw [pmCommand_on h]
  obtain ⟨h1, h2⟩ := page_of hn
  rw [pmArrive_port, if_neg h1, h2]
  dsimp only
  rw [hg]
  exact reply_get _ _ _

theorem pmPort_on {s : State} {x : SmbXfer} (h : s.dev.pmReady x = true) (hp : s.dev.i3c[busIdx x.port].pmPage ≠ 0xFF) (g : I3cPort → List Byte) (bs) (hg : g s.dev.i3c[busIdx x.port] = bs) (c : Instr)
    (hc : exec c s = .next { s with dev := s.dev.pmPortRead x g }) : Replies s c x bs := by
  refine ⟨_, hc, ?_⟩
  dsimp only
  unfold Device.pmPortRead
  rw [pmCommand_on h, pmArrive_port, if_neg hp, hg]
  exact reply_get _ _ _

theorem pmArrive_eq (d : Device) (p : Fin 2) : (∃ m g, d.pmArrive p = d.updCtx m g) ∨ d.pmArrive p = d := by
  unfold Device.pmArrive
  generalize d.requester (d.pmSource p) = r
  cases r
  · exact Or.inl ⟨_, _, rfl⟩
  all_goals exact Or.inr rfl

theorem pmWrite_on {d : Device} {x : SmbXfer} {n : Fin 16} (h : d.pmReady x = true) (hn : d.i3c[busIdx x.port].pmPage.toNat = n.val) (g) :
    d.pmWrite x g =
      let z := g (d.pmSource (busIdx x.port)) n (d.pmArrive (busIdx x.port))
      (if z.2 then z.1 else z.1.setCml (busIdx x.port) 6).busReply (busIdx x.port) [] := by
  have h6 : d.i3c[busIdx x.port].pmCtx.isSome = true := by
    unfold Device.pmReady at h
    simp only [Bool.and_eq_true] at h
    exact h.2
  unfold Device.pmWrite
  rw [pmCommand_on h]
  obtain ⟨h1, h2⟩ := page_of hn
  have hl : (d.pmArrive (busIdx x.port)).pmLoops (busIdx x.port) = [n] := by
    unfold Device.pmLoops
    rw [pmArrive_port, if_neg h1, h2]
  rw [pmArrive_port, if_neg (by cases hc : d.i3c[busIdx x.port].pmCtx <;> simp_all), hl]
  simp only [List.foldl_cons, List.foldl_nil, Bool.true_and]

theorem loopWriteOk_ctx (d : Device) (m g n o w b) : (d.updCtx m g).loopWriteOk n o w b = d.loopWriteOk n o w b := by
  unfold Device.loopWriteOk
  rfl

theorem merge_set (w : Word) (hi lo v : Nat) (m : Word) (hm : m = fieldMask hi lo) : mergeWord w (setBits w hi lo v) m = setBits w hi lo v := by
  subst hm
  apply BitVec.eq_of_getLsbD_eq
  intro i hi'
  have h := bit_mergeWord w (setBits w hi lo v) (fieldMask hi lo) i
  unfold bit at h
  rw [h]
  split
  · rfl
  · rename_i hn
    rw [setBits_bit]
    rw [fieldMask_bit] at hn
    simp only [hi', decide_true, Bool.true_and, Bool.and_eq_true, decide_eq_true_eq, not_and] at hn
    by_cases hlo : lo ≤ i
    · have := hn hlo; simp [hlo, this]
    · simp [hlo]

theorem loopWrite_plain (d : Device) (n : Fin 16) (o : Nat) (m v : Word) (x : WriteInfo) (h1 : o ≠ 0x094) (h2 : o ≠ 0x0D8) :
    d.loopWrite n o m v x = if d.loopWriteOk n o (d.newWord (loopPage n) o m v) m then d.putLoop n o (d.newWord (loopPage n) o m v) else
      d.setErr (loopPage n) (errBit 8) := by
  unfold Device.loopWrite
  dsimp only
  rw [if_neg h1, if_neg h2]

theorem writePlain_loop (d : Device) (f src) (n : Fin 16) (o : Nat) (m v : Word) (ho : o < 0x1000) (hh : 0x040 ≤ o)
    (hw : d.writeBad src (pageAddr (loopPage n) o) m v = none) : d.writePlain f src (pageAddr (loopPage n) o) m v = d.loopWrite n o m v {} := by
  unfold Device.writePlain
  dsimp only
  rw [pageAddr_div _ _ ho, pageAddr_mod _ _ ho, hw]
  have hb : blockOf (loopPage n) = some .loop := blockOf_loop n
  rw [hb, if_neg (by simp), show decide (o < 0x40) = false from decide_eq_false (by omega), Bool.and_false, if_neg (by decide)]
  exact Device.blockWrite_loop _ _ _ _ _ _ _ _

theorem loop_not_pol (n : Fin 16) {o : Nat} (ho : o < 0x1000) : pageAddr (loopPage n) o ≠ 0x037040 := by
  unfold pageAddr loopPage
  have := n.isLt
  omega

/-- The stored registers after a write of one of loop n. -/
theorem putLoop_reg (d : Device) (n : Fin 16) (o : Nat) (w : Word) (b : Nat) :
    (d.putLoop n o w).reg b = (d.setReg (pageAddr (loopPage n) o) w).reg b := by
  unfold Device.putLoop
  dsimp only
  split <;> rfl

theorem pmField_fits (d : Device) (f : OtpArray) (p : Fin 2) (src) (n : Fin 16) (o hi lo : Nat) (v : Int) (ho : o < 0x1000) (hh : 0x040 ≤ o) (h1 : o ≠ 0x094) (h2 : o ≠ 0x0D8)
    (hm : ∀ n : Fin 16, fieldMask hi lo &&& storedMask (pageAddr (loopPage n) o) = fieldMask hi lo)
    (hf : 0 ≤ v ∧ v < (2 ^ (hi + 1 - lo) : Nat) ∧ clampWord (loopPage n) o (setBits (d.reg (pageAddr (loopPage n) o)) hi lo v.toNat) = setBits (d.reg (pageAddr (loopPage n) o)) hi lo v.toNat ∧
      d.loopWriteOk n o (setBits (d.reg (pageAddr (loopPage n) o)) hi lo v.toNat) (fieldMask hi lo) = true ∧
      d.writeBad src (pageAddr (loopPage n) o) (fieldMask hi lo) (setBits (d.reg (pageAddr (loopPage n) o)) hi lo v.toNat) = none) :
    d.pmField f src n o hi lo v = (d.putLoop n o (setBits (d.reg (pageAddr (loopPage n) o)) hi lo v.toNat), true) := by
  obtain ⟨a, b, c, e, g⟩ := hf
  unfold Device.pmField
  dsimp only
  rw [if_neg (by omega), if_neg (by simp [c]), writePlain_loop _ _ _ _ _ _ _ ho hh g, g, loopWrite_plain _ _ _ _ _ _ h1 h2]
  have hnw : d.newWord (loopPage n) o (fieldMask hi lo) (setBits (d.reg (pageAddr (loopPage n) o)) hi lo v.toNat) = setBits (d.reg (pageAddr (loopPage n) o)) hi lo v.toNat := by
    unfold Device.newWord
    dsimp only
    rw [hm, Device.heldWord_reg _ (loop_not_pol n ho), merge_set _ _ _ _ _ rfl, c]
  rw [hnw, e, if_pos rfl]
  rfl

/-- The checks of R130 read the registers, the page headers without their continuity, and the contexts without the lease's last renewal. -/
structure SameChecks (d e : Device) : Prop where
  regs : e.regs = d.regs
  rso : e.rso = d.rso
  head : ∀ q, (e.head q).fixed = (d.head q).fixed
  ctx : ∀ n : Fin 8, ∃ t l, e.ctx[n] = { d.ctx[n] with renewed := t, loaded := l }

theorem SameChecks.reg {d e : Device} (h : SameChecks d e) (a) : e.reg a = d.reg a := by unfold Device.reg; rw [h.regs]

theorem SameChecks.held {d e : Device} (h : SameChecks d e) (a) : e.heldWord a = d.heldWord a := by unfold Device.heldWord; rw [h.reg, h.rso]

theorem SameChecks.requester {d e : Device} (h : SameChecks d e) (t : Source) : e.requester t = d.requester t := by
  unfold Device.requester
  split
  · rename_i p n
    obtain ⟨t, l, ht⟩ := h.ctx n
    unfold Device.openOn Device.ctxOpen
    rw [ht]
  · rfl
  · rfl
  · rfl

theorem SameChecks.hasPriv {d e : Device} (h : SameChecks d e) (r p) : e.hasPriv r p = d.hasPriv r p := by
  unfold Device.hasPriv Device.privOf
  cases r with
  | ctx n =>
    obtain ⟨t, l, ht⟩ := h.ctx n
    simp only [ht]
  | _ => rfl

theorem SameChecks.isAdmin {d e : Device} (h : SameChecks d e) (r) : e.isAdmin r = d.isAdmin r := h.hasPriv r .admin

theorem SameChecks.mayOwn {d e : Device} (h : SameChecks d e) (q r) : e.mayOwn q r = d.mayOwn q r := by
  have k := PageHdr.fixed_eq (h.head (pg q))
  unfold Device.mayOwn Device.ownedBy Device.ownerOf
  rw [k.1, k.2.1]

theorem SameChecks.ownCheck {d e : Device} (h : SameChecks d e) (r p o) : e.ownCheck r p o = d.ownCheck r p o := by
  unfold Device.ownCheck
  simp only [h.mayOwn, Device.phMap, Device.preg, h.reg]

theorem SameChecks.locked {d e : Device} (h : SameChecks d e) (p) : e.locked p = d.locked p := by
  have k := PageHdr.fixed_eq (h.head (pg p))
  unfold Device.locked
  rw [k.2.2.2.1, k.2.2.2.2.1]

theorem SameChecks.privCheck {d e : Device} (h : SameChecks d e) (r p o) : e.privCheck r p o = d.privCheck r p o := by
  unfold Device.privCheck
  cases r with
  | ctx n =>
    obtain ⟨t, l, ht⟩ := h.ctx n
    simp only [h.isAdmin, h.hasPriv, ht]
  | _ => simp only [h.isAdmin, h.hasPriv]

theorem SameChecks.writeCheck {d e : Device} (h : SameChecks d e) (r p o) (rwl old m v : Word) : e.writeCheck r p o rwl old m v = d.writeCheck r p o rwl old m v := by
  unfold Device.writeCheck
  rw [h.privCheck, h.ownCheck, h.locked]

theorem SameChecks.writeBad {d e : Device} (h : SameChecks d e) (src b) (m v : Word) : e.writeBad src b m v = d.writeBad src b m v := by
  unfold Device.writeBad Device.devrstBad Device.newWord
  simp only [h.requester, h.isAdmin, h.reg, h.held, h.writeCheck]

theorem renew_checks (d : Device) (r) : SameChecks d (d.renew r) where
  regs := by cases r <;> rfl
  rso := by cases r <;> rfl
  head := fun q => by cases r <;> rfl
  ctx := fun n => ⟨_, _, Device.renew_ctx d r n⟩

theorem fits_arrive {d : Device} {p : Fin 2} {n : Fin 16} {o hi lo : Nat} {v : Int} (h : d.pmFits p n o hi lo v) :
    0 ≤ v ∧ v < (2 ^ (hi + 1 - lo) : Nat) ∧ clampWord (loopPage n) o (setBits ((d.pmArrive p).reg (pageAddr (loopPage n) o)) hi lo v.toNat) = setBits ((d.pmArrive p).reg (pageAddr (loopPage n) o)) hi lo v.toNat ∧
    (d.pmArrive p).loopWriteOk n o (setBits ((d.pmArrive p).reg (pageAddr (loopPage n) o)) hi lo v.toNat) (fieldMask hi lo) = true ∧
    (d.pmArrive p).writeBad (d.pmSource p) (pageAddr (loopPage n) o) (fieldMask hi lo) (setBits ((d.pmArrive p).reg (pageAddr (loopPage n) o)) hi lo v.toNat) = none := by
  have e := renew_checks d (d.requester (d.pmSource p))
  obtain ⟨h1, h2, h3, h4, h5⟩ := h
  have er : (d.pmArrive p).reg (pageAddr (loopPage n) o) = d.reg (pageAddr (loopPage n) o) := e.reg _
  rw [er]
  refine ⟨h1, h2, h3, ?_, (e.writeBad _ _ _ _).trans h5⟩
  rcases pmArrive_eq d p with ⟨m, g, e⟩ | e
  · rw [e, loopWriteOk_ctx]; exact h4
  · rw [e]; exact h4

theorem pmArrive_canon (d : Device) (p) (h : d.canonical = true) : (d.pmArrive p).canonical = true := by
  have e := renew_checks d (d.requester (d.pmSource p))
  unfold Device.canonical at h ⊢
  unfold Device.pmArrive
  rw [e.regs, show (d.renew (d.requester (d.pmSource p))).ram = d.ram from keeps_ram (by simp)]
  exact h

theorem stores_of {s : State} {x : SmbXfer} {n : Fin 16} (hr : s.dev.pmReady x = true) (hn : s.dev.i3c[busIdx x.port].pmPage.toNat = n.val) (hc : s.dev.canonical = true) (c : Instr)
    (o hi lo : Nat) (v : Int) (ho : o < 0x1000) (hh : 0x040 ≤ o) (h1 : o ≠ 0x094) (h2 : o ≠ 0x0D8)
    (hm : ∀ n : Fin 16, fieldMask hi lo &&& storedMask (pageAddr (loopPage n) o) = fieldMask hi lo)
    (he : exec c s = .next { s with dev := s.dev.pmWrite x fun src n d => d.pmField s.fuses src n o hi lo v }) (h : s.dev.pmFits (busIdx x.port) n o hi lo v) : Stores s c n o hi lo v := by
  have hf := fits_arrive h
  have er : ∀ a, (s.dev.pmArrive (busIdx x.port)).reg a = s.dev.reg a := fun a => (renew_checks s.dev _).reg a
  refine ⟨_, he, ?_⟩
  dsimp only
  rw [pmWrite_on hr hn]
  dsimp only
  rw [pmField_fits _ _ (busIdx x.port) _ _ _ _ _ _ ho hh h1 h2 hm hf]
  dsimp only
  rw [if_pos rfl]
  refine ⟨?_, fun b hb => ?_⟩
  · show (Device.putLoop _ _ _ _).reg _ = _
    rw [putLoop_reg, Device.reg_setReg _ _ _ (pmArrive_canon _ _ hc), er]
  · show (Device.putLoop _ _ _ _).reg _ = _
    rw [putLoop_reg, Device.reg_setReg_other _ _ _ hb, er]

theorem seq_same (d : Device) (p : Fin 2) (b : Bool) (e : Device) (h : d = e) : let t := (if b then d else d.setCml p 6).busReply p []
    t.seq = e.seq ∧ t.entry = e.entry ∧ t.regs = e.regs ∧ t.loop = e.loop := by
  subst h
  cases b <;> exact ⟨rfl, rfl, rfl, rfl⟩

theorem commit_write (d : Device) (f src) (n : Fin 16) : (d.writePlain f src (pageAddr (loopPage n) 0x094) 0xFFFFFFFF 1).regs = d.regs ∧
    (d.writeBad src (pageAddr (loopPage n) 0x094) 0xFFFFFFFF 1 = none → d.writePlain f src (pageAddr (loopPage n) 0x094) 0xFFFFFFFF 1 = d.bankCommit n) := by
  have key : d.writeBad src (pageAddr (loopPage n) 0x094) 0xFFFFFFFF 1 = none → d.writePlain f src (pageAddr (loopPage n) 0x094) 0xFFFFFFFF 1 = d.bankCommit n := by
    intro h
    rw [writePlain_loop _ _ _ _ _ _ _ (by decide) (by decide) h]
    rfl
  refine ⟨?_, key⟩
  cases hb : d.writeBad src (pageAddr (loopPage n) 0x094) 0xFFFFFFFF 1 with
  | none => rw [key hb]; exact keeps_regs (by simp)
  | some e =>
    unfold Device.writePlain
    dsimp only
    rw [pageAddr_div _ _ (by decide), pageAddr_mod _ _ (by decide), hb]
    have hbk : blockOf (loopPage n) = some .loop := blockOf_loop n
    rw [hbk, if_neg (by simp), show decide (0x094 < 0x40) = false from rfl, Bool.and_false, if_neg (by decide)]
    exact keeps_regs (by simp)

theorem reg_of_regs {d e : Device} (h : e.regs = d.regs) (a : Nat) : e.reg a = d.reg a := by unfold Device.reg; rw [h]

theorem freq_dev {s : State} {x : SmbXfer} {n : Fin 16} (hr : s.dev.pmReady x = true) (hn : s.dev.i3c[busIdx x.port].pmPage.toNat = n.val) (v : BitVec 16)
    (l0 : 0 < ofLinear11 v) (l1 : 8000 ≤ ratNear (32000000 / ofLinear11 v)) (l2 : ratNear (32000000 / ofLinear11 v) ≤ 160000)
    (h : s.dev.pmFits (busIdx x.port) n 0x070 17 0 (ratNear (32000000 / ofLinear11 v))) :
    let e := (s.dev.pmArrive (busIdx x.port)).putLoop n 0x070 (setBits ((s.dev.pmArrive (busIdx x.port)).reg (pageAddr (loopPage n) 0x070)) 17 0 (ratNear (32000000 / ofLinear11 v)).toNat)
    ∃ b : Bool, s.dev.pmWrite x (fun src n d => d.pmFrequency s.fuses src n v) =
      (if b then (e.writePlain s.fuses (s.dev.pmSource (busIdx x.port)) (pageAddr (loopPage n) 0x094) 0xFFFFFFFF 1) else (e.writePlain s.fuses (s.dev.pmSource (busIdx x.port)) (pageAddr (loopPage n) 0x094) 0xFFFFFFFF 1).setCml (busIdx x.port) 6).busReply (busIdx x.port) [] := by
  intro e
  refine ⟨(e.writeBad (s.dev.pmSource (busIdx x.port)) (pageAddr (loopPage n) 0x094) 0xFFFFFFFF 1).isNone, ?_⟩
  rw [pmWrite_on hr hn]
  dsimp only
  have hq : (s.dev.pmArrive (busIdx x.port)).pmFrequency s.fuses (s.dev.pmSource (busIdx x.port)) n v =
      (e.writePlain s.fuses (s.dev.pmSource (busIdx x.port)) (pageAddr (loopPage n) 0x094) 0xFFFFFFFF 1, (e.writeBad (s.dev.pmSource (busIdx x.port)) (pageAddr (loopPage n) 0x094) 0xFFFFFFFF 1).isNone) := by
    unfold Device.pmFrequency
    dsimp only
    rw [if_neg (Rat.not_le.2 l0), if_neg (by omega), pmField_fits _ _ (busIdx x.port) _ _ _ _ _ _ (by decide) (by decide) (by decide) (by decide) (by decide) (fits_arrive h)]
    rfl
  rw [hq]

end Sys2Proof.Machine
end

