-- ==== Sys2Proof/Laws/Frames.lean ====
section
/-! SUPPORT. What a write to one word of a page touches, and what one cycle of an empty queue does. -/

set_option maxRecDepth 4000
set_option linter.unusedTactic false
set_option linter.unreachableTactic false

namespace Sys2Proof.Machine
open Sys2Proof

/-! ## The frame of a bus write -/

/-- An access away from the gauge's pages touches the flag of the TAP controller, the lease, the counters and what they raise. -/
theorem arrive_in {S : Nat} (d : Device) (src : Source) (a : Nat) (h1 : a / 0x1000 ≠ 0x044) (h2 : a / 0x1000 ≠ 0x300) (hS : 2148536348 &&& S = 2148536348) : Touches S d (d.arrive src a) := by
  unfold Device.arrive Device.accessed Device.gauTouch
  rw [if_neg (by intro h; rcases h.1 with h | h <;> contradiction)]
  have t : Touches 2148536348 d ((((d.tapLeaves src).renew ((d.tapLeaves src).requester src))).pmcCountAll 0x20 1) := by simp
  exact t.mono hS

/-- What a write to a block-specific word touches: what the access touches, PAGE_ERR, and what the block does with it. -/
theorem bus_of {S : Nat} (d : Device) (f : OtpArray) (src : Source) (a : Nat) (be : BitVec 4) (v : Word) (x : WriteInfo) (h4 : a % 4 = 0)
    (hh : (isBlockPage (a / 0x1000) && decide (a % 0x1000 < 0x040)) = false) (hS : 2148536348 &&& S = 2148536348) (ha : Touches S d (d.arrive src a))
    (hw : ∀ e m, Touches S e (e.blockWrite f src (a / 0x1000) (a % 0x1000) m v x)) : Touches S d (d.busWrite f src a be v x) := by
  have e : a / 4 * 4 = a := by omega
  unfold Device.busWrite
  dsimp only
  have tl : Touches S d (d.tapLeaves src) := by
    have : Touches 8 d (d.tapLeaves src) := by simp
    exact this.mono (sub_mask (by decide : (8 : Nat) &&& 2148536348 = 8) hS)
  have er : ∀ (z : Device) p w, Touches S z (z.setErr p w) := fun z p w => by
    have : Touches 4 z (z.setErr p w) := by simp
    exact this.mono (sub_mask (by decide : (4 : Nat) &&& 2148536348 = 4) hS)
  split
  · exact tl
  · split
    · rw [e]
      unfold Device.writeWord Device.writePlain
      dsimp only
      show Touches S d (if (blockOf (a / 0x1000)).isNone = true then d.arrive src a else if (isBlockPage (a / 0x1000) && decide (a % 0x1000 < 0x040)) = true then (d.arrive src a).headerWrite src (a / 0x1000) (a % 0x1000) (byteMask be) v
        else match (d.arrive src a).writeBad src a (byteMask be) v with
          | some e => (d.arrive src a).setErr (errPage (a / 0x1000)) e
          | none => (d.arrive src a).blockWrite f src (a / 0x1000) (a % 0x1000) (byteMask be) v x)
      rw [hh]
      split
      · exact ha
      · rw [if_neg (by decide)]
        split
        · exact ha.trans (er _ _ _)
        · exact ha.trans (hw _ _)
    · have rn : Touches S d ((d.tapLeaves src).renew ((d.tapLeaves src).requester src)) := by
        have : Touches 24 d ((d.tapLeaves src).renew ((d.tapLeaves src).requester src)) := by simp
        exact this.mono (sub_mask (by decide : (24 : Nat) &&& 2148536348 = 24) hS)
      split
      · exact rn.trans (er _ _ _)
      · exact rn

/-- The same of a word of page p, away from the gauge's pages. -/
theorem bus_in {S : Nat} (d : Device) (f : OtpArray) (src : Source) (p o : Nat) (be : BitVec 4) (v : Word) (x : WriteInfo) (ho : o < 0x1000) (h4 : o % 4 = 0) (hh : 0x100 ≤ p ∨ 0x040 ≤ o)
    (h1 : p ≠ 0x044) (h2 : p ≠ 0x300) (hS : 2148536348 &&& S = 2148536348) (hw : ∀ e m, Touches S e (e.blockWrite f src p o m v x)) :
    Touches S d (d.busWrite f src (pageAddr p o) be v x) := by
  have e1 := pageAddr_div p o ho
  have e2 := pageAddr_mod p o ho
  refine bus_of d f src (pageAddr p o) be v x (by unfold pageAddr; omega) ?_ hS (arrive_in d src _ (by rw [e1]; exact h1) (by rw [e1]; exact h2) hS) (by rw [e1, e2]; exact hw)
  rw [e1, e2]
  rcases hh with h | h
  · have : isBlockPage p = false := by
      cases hc : isBlockPage p
      · rfl
      · exact absurd (isBlockPage_lt hc) (by omega)
    rw [this]; rfl
  · have : decide (o < 0x40) = false := decide_eq_false (by omega)
    rw [this, Bool.and_false]

/-- The same of a word of the gauge's page. -/
theorem bus_gau {S : Nat} (d : Device) (f : OtpArray) (src : Source) (o : Nat) (be : BitVec 4) (v : Word) (x : WriteInfo) (ho : o < 0x1000) (h4 : o % 4 = 0) (hh : 0x040 ≤ o)
    (hS : 2148732956 &&& S = 2148732956) (hw : ∀ e m, Touches S e (e.blockWrite f src 0x044 o m v x)) : Touches S d (d.busWrite f src (pageAddr 0x044 o) be v x) := by
  have e1 := pageAddr_div 0x044 o ho
  have e2 := pageAddr_mod 0x044 o ho
  refine bus_of d f src (pageAddr 0x044 o) be v x (by unfold pageAddr; omega) ?_ (sub_mask (by decide : (2148536348 : Nat) &&& 2148732956 = 2148536348) hS)
    ((Device.arrive_touches d src _).mono hS) (by rw [e1, e2]; exact hw)
  rw [e1, e2]
  have : decide (o < 0x40) = false := decide_eq_false (by omega)
  rw [this, Bool.and_false]

/-- What a write to a word of a common header touches. -/
theorem bus_head {S : Nat} (d : Device) (f : OtpArray) (src : Source) (p o : Nat) (be : BitVec 4) (v : Word) (x : WriteInfo) (hp : isBlockPage p = true) (ho : o < 0x040) (h4 : o % 4 = 0)
    (hS : 2148536348 &&& S = 2148536348) (ha : Touches S d (d.arrive src (pageAddr p o)))
    (hw : ∀ m, Touches S (d.arrive src (pageAddr p o)) ((d.arrive src (pageAddr p o)).headerWrite src p o m v)) : Touches S d (d.busWrite f src (pageAddr p o) be v x) := by
  have e1 := pageAddr_div p o (by omega)
  have e2 := pageAddr_mod p o (by omega)
  have e : pageAddr p o / 4 * 4 = pageAddr p o := by unfold pageAddr; omega
  have hb : (blockOf p).isSome = true := by
    unfold isBlockPage at hp
    rw [Bool.and_eq_true] at hp
    exact hp.2
  have tl : Touches S d (d.tapLeaves src) := by
    have : Touches 8 d (d.tapLeaves src) := by simp
    exact this.mono (sub_mask (by decide : (8 : Nat) &&& 2148536348 = 8) hS)
  unfold Device.busWrite
  dsimp only
  rw [e1, e]
  split
  · exact tl
  · split
    · unfold Device.writeWord Device.writePlain
      dsimp only
      rw [e1, e2]
      show Touches S d (if (blockOf p).isNone = true then (d.tapLeaves src).accessed src p else if (isBlockPage p && decide (o < 0x040)) = true then ((d.tapLeaves src).accessed src p).headerWrite src p o (byteMask be) v
        else _)
      have ea : (d.tapLeaves src).accessed src p = d.arrive src (pageAddr p o) := by unfold Device.arrive; rw [e1]
      rw [ea, hp, decide_eq_true ho]
      split
      · exact ha
      · rw [if_pos (by decide)]
        exact ha.trans (hw _)
    · have rn : Touches S d ((d.tapLeaves src).renew ((d.tapLeaves src).requester src)) := by
        have : Touches 24 d ((d.tapLeaves src).renew ((d.tapLeaves src).requester src)) := by simp
        exact this.mono (sub_mask (by decide : (24 : Nat) &&& 2148536348 = 24) hS)
      have er : ∀ (z : Device) p w, Touches S z (z.setErr p w) := fun z p w => by
        have : Touches 4 z (z.setErr p w) := by simp
        exact this.mono (sub_mask (by decide : (4 : Nat) &&& 2148536348 = 4) hS)
      exact rn.trans (er _ _ _)

/-- A write to a page that is not implemented, or past the blocks, is an access alone. -/
theorem bus_none {S : Nat} (d : Device) (f : OtpArray) (src : Source) (p o : Nat) (be : BitVec 4) (v : Word) (x : WriteInfo) (hp : isBlockPage p = false) (ho : o < 0x040) (h4 : o % 4 = 0)
    (hl : p < 0x100) (hS : 2148732956 &&& S = 2148732956) : Touches S d (d.busWrite f src (pageAddr p o) be v x) := by
  have e1 := pageAddr_div p o (by omega)
  have hb : blockOf p = none := by
    unfold isBlockPage at hp
    rw [decide_eq_true hl, Bool.true_and] at hp
    cases h : blockOf p with
    | none => rfl
    | some b => rw [h] at hp; cases hp
  have tl : Touches S d (d.tapLeaves src) := by
    have : Touches 8 d (d.tapLeaves src) := by simp
    exact this.mono (sub_mask (by decide : (8 : Nat) &&& 2148732956 = 8) hS)
  unfold Device.busWrite
  dsimp only
  have e : pageAddr p o / 4 * 4 = pageAddr p o := by unfold pageAddr; omega
  rw [e1, e]
  split
  · exact tl
  · split
    · unfold Device.writeWord Device.writePlain
      dsimp only
      rw [e1, hb]
      have ha := (Device.arrive_touches d src (pageAddr p o)).mono hS
      unfold Device.arrive at ha
      rw [e1] at ha
      exact ha
    · have rn : Touches S d ((d.tapLeaves src).renew ((d.tapLeaves src).requester src)) := by
        have : Touches 24 d ((d.tapLeaves src).renew ((d.tapLeaves src).requester src)) := by simp
        exact this.mono (sub_mask (by decide : (24 : Nat) &&& 2148732956 = 24) hS)
      rw [hb]
      exact rn

/-- A write of ENABLE alone: what the access touches, what ENABLE does, and the header. -/
theorem ctl_in {S : Nat} (d e : Device) (p : Fin 256) (src : Source) (m : Word) (b : Bool) (i : Nat) (hi : i ≠ 1) (hS : 4 &&& S = 4) (hw : ∀ who, Touches S e (e.enableWrite p.val (bit (setBit (d.ctlWord p) i b) 0) who)) :
    Touches S e (e.headerWrite src p.val 0x008 m (setBit (d.ctlWord p) i b)) := by
  have h1 : bit (setBit (d.ctlWord p) i b) 1 = false := by
    unfold bit setBit
    rw [setBits_bit]
    by_cases hc : 1 < 32 ∧ i ≤ 1 ∧ 1 - i < i + 1 - i
    · omega
    · rw [if_neg hc]
      unfold Device.ctlWord setBit
      rw [setBits_bit, if_pos (by decide)]
      rfl
  rw [headerWrite_ctl]
  have er : ∀ (z : Device) q w, Touches S z (z.setErr q w) := fun z q w => by
    have : Touches 4 z (z.setErr q w) := by simp
    exact this.mono hS
  have fr : ∀ (z : Device) on, Touches S z (z.freezeWrite src p.val on) := fun z on => by
    have : Touches 4 z (z.freezeWrite src p.val on) := by simp
    exact this.mono hS
  split
  · exact er _ _ _
  · unfold Device.ctlWrite
    dsimp only
    rw [h1]
    simp only [Bool.and_false, Bool.false_eq_true, if_false]
    split
    · exact Touches.same _
    · exact (hw _).trans (fr _ _)

/-! ## The frame of a PMBus write -/

/-- A write to a word of a loop's page past the header. -/
theorem plain_loop {S : Nat} {d0 : Device} (d : Device) (f : OtpArray) (src : Source) (n : Fin 16) (o : Nat) (m v : Word) (ho : o < 0x1000) (hh : 0x040 ≤ o) (hS : 2149061607 &&& S = 2149061607) :
    Touches S d0 (d.writePlain f src (pageAddr (loopPage n) o) m v) ↔ Touches S d0 d := by
  have hb : blockOf (loopPage n) = some .loop := blockOf_loop n
  refine Touches.lift (m := 2149061607) ?_ hS
  unfold Device.writePlain
  dsimp only
  rw [pageAddr_div _ _ ho, pageAddr_mod _ _ ho, hb, if_neg (by simp), show decide (o < 0x40) = false from decide_eq_false (by omega), Bool.and_false, if_neg (by decide)]
  split
  · simp
  · rw [Device.blockWrite_loop]; simp

/-- A write to a word of a loop's page past the header, away from LOOPn_FLT. -/
theorem plain_setting {S : Nat} {d0 : Device} (d : Device) (f : OtpArray) (src : Source) (n : Fin 16) (o : Nat) (m v : Word) (ho : o < 0x1000) (hh : 0x040 ≤ o)
    (hf : o ≠ 0x0D8) (hS : 69 &&& S = 69) : Touches S d0 (d.writePlain f src (pageAddr (loopPage n) o) m v) ↔ Touches S d0 d := by
  have hb : blockOf (loopPage n) = some .loop := blockOf_loop n
  refine Touches.lift (m := 69) ?_ hS
  unfold Device.writePlain
  dsimp only
  rw [pageAddr_div _ _ ho, pageAddr_mod _ _ ho, hb, if_neg (by simp), show decide (o < 0x40) = false from decide_eq_false (by omega), Bool.and_false, if_neg (by decide)]
  split
  · simp
  · rw [Device.blockWrite_loop]
    unfold Device.loopWrite
    dsimp only
    rw [if_neg hf]
    repeat' split
    all_goals simp

/-- A write of SEQ_RAILREQ. -/
theorem plain_rail {S : Nat} {d0 : Device} (d : Device) (f : OtpArray) (src : Source) (m v : Word) (hS : 2149061607 &&& S = 2149061607) : Touches S d0 (d.writePlain f src 0x03004C m v) ↔ Touches S d0 d := by
  refine Touches.lift (m := 2149061607) ?_ hS
  unfold Device.writePlain
  dsimp only
  rw [show (0x03004C : Nat) / 0x1000 = 0x030 from rfl, show blockOf 0x030 = some .seq by decide, if_neg (by simp), show (isBlockPage 0x030 && decide ((0x03004C : Nat) % 0x1000 < 0x040)) = false by decide, if_neg (by decide)]
  split
  · simp
  · unfold Device.blockWrite
    rw [show blockOf 0x030 = some .seq by decide]
    dsimp only
    simp

theorem field_in {S : Nat} {d0 : Device} (d : Device) (f : OtpArray) (src : Source) (n : Fin 16) (o hi lo : Nat) (v : Int) (ho : o < 0x1000) (hh : 0x040 ≤ o) (hf : o ≠ 0x0D8) (hS : 69 &&& S = 69) :
    Touches S d0 (d.pmField f src n o hi lo v).1 ↔ Touches S d0 d := by
  unfold Device.pmField
  dsimp only
  split
  · exact Iff.rfl
  · split
    · exact Iff.rfl
    · exact plain_setting d f src n o _ _ ho hh hf hS

theorem frequency_in {S : Nat} {d0 : Device} (d : Device) (f : OtpArray) (src : Source) (n : Fin 16) (v : BitVec 16) (hS : 69 &&& S = 69) :
    Touches S d0 (d.pmFrequency f src n v).1 ↔ Touches S d0 d := by
  unfold Device.pmFrequency
  dsimp only
  split
  · exact Iff.rfl
  · split
    · exact Iff.rfl
    · split
      · exact (plain_setting _ f src n 0x094 _ _ (by decide) (by decide) (by decide) hS).trans (field_in d f src n _ _ _ _ (by decide) (by decide) (by decide) hS)
      · exact field_in d f src n _ _ _ _ (by decide) (by decide) (by decide) hS

theorem operation_in {S : Nat} {d0 : Device} (d : Device) (f : OtpArray) (src : Source) (n : Fin 16) (vsel : Option Nat) (op : Nat) (hS : 2149061607 &&& S = 2149061607) :
    Touches S d0 (d.pmOperation f src n vsel op).1 ↔ Touches S d0 d := by
  unfold Device.pmOperation
  dsimp only
  cases vsel with
  | none => exact plain_rail _ f src _ _ hS
  | some v =>
    dsimp only
    have hf := field_in (d0 := d0) d f src n 0x040 1 0 v (by decide) (by decide) (by decide) (sub_mask (by decide) hS)
    split
    · exact (plain_rail _ f src _ _ hS).trans hf
    · exact hf

/-- A write of OPERATION. -/
theorem operation_byte_in {S : Nat} {d0 : Device} (d : Device) (f : OtpArray) (x : SmbXfer) (v : Byte) (hS : 2425885687 &&& S = 2425885687) :
    Touches S d0 (d.pmOperationByte f x (some v)) ↔ Touches S d0 d := by
  unfold Device.pmOperationByte
  dsimp only
  refine Device.pmWrite_touch _ _ _ (sub_mask (by decide) hS) fun src n e => ?_
  cases operationOf v with
  | none => exact Iff.rfl
  | some y =>
    dsimp only
    have ho := operation_in (d0 := d0) e f src n y.1 y.2 (sub_mask (by decide : (2149061607 : Nat) &&& 2425885687 = 2149061607) hS)
    split
    · refine Iff.trans ?_ ho
      exact Device.updLp_touch _ _ _ (sub_mask (by decide) hS)
    · exact ho

theorem clear_in {S : Nat} {d0 : Device} (d : Device) (f : OtpArray) (src : Source) (n : Fin 16) (hS : 2149061607 &&& S = 2149061607) : Touches S d0 (d.pmClear f src n).1 ↔ Touches S d0 d := by
  have w : ∀ (e : Device) ok a v, (∀ m, Touches S d0 (e.writePlain f src a m v) ↔ Touches S d0 e) → (Touches S d0 (e.pmWhole f src ok a v) ↔ Touches S d0 e) := by
    intro e ok a v h
    unfold Device.pmWhole
    split
    · exact h _
    · exact Iff.rfl
  unfold Device.pmClear
  dsimp only
  exact (w _ _ _ _ fun m => plain_rail _ f src m _ hS).trans (w _ _ _ _ fun m => plain_loop d f src n 0x0D8 m _ (by decide) (by decide) hS)

/-- PAGE_CTL with SRST 0 keeps ENABLE as the header of the accessed page holds it. -/
theorem enable_kept (d : Device) (src : Source) (p : Fin 256) (b : Bool) : bit (setBit (d.ctlWord p) 2 b) 0 = bit ((d.arrive src (pageAddr p.val 0x008)).head (pg p.val)).ctl 0 := by
  rw [bit_setBit _ _ _ _ (by decide), if_neg (by decide), ctlWord_bit _ _ _ (by decide), pg_val, (PageHdr.fixed_eq (Device.arrive_fixed d src _ p)).2.2.2.2.2.1]

/-! ## The empty queue's cycle -/

theorem vec_same {α : Type} {n : Nat} {u v : Vector α n} (h : u = v) (j : Fin n) : u[j] = v[j] := by rw [h]

theorem foldl_id {σ α : Type} {g : σ → α → σ} (s : σ) (l : List α) (h : ∀ x, g s x = s) : l.foldl g s = s := by
  induction l with
  | nil => rfl
  | cons x l ih => rw [List.foldl_cons, h x, ih]

/-- What one ADC cycle does after the timestamp has moved and before leases are judged. -/
theorem cycle_facts (y : Device) : let e := (y.accumulate.fillBuckets).countCycle.agePulses
    e.cycle = y.cycle ∧ e.syn = y.syn ∧ e.ts = y.ts ∧ e.ao = y.ao ∧
    (∀ n : Fin 16, e.tlm.energy[n] = (y.tlm.energy[n] + y.energyTerm n) % 2 ^ 64 ∧ e.tlm.charge[n] = (y.tlm.charge[n] + y.chargeTerm n) % 2 ^ 64) ∧
    (∀ r : Fin 32, e.rg r = { y.rg r with tokens := min 4096 ((y.rg r).tokens + 2 * bits (y.rcfg r) 8 0) }) ∧
    (∀ n : Fin 16, e.lp n = { y.lp n with perPos := (y.lp n).perPos + 256 }) ∧ (∀ k : Fin 64, e.ph k = { y.ph k with offAge := min 256 ((y.ph k).offAge + 1) }) := by
  dsimp only
  have c4 : ((y.accumulate.fillBuckets).countCycle.agePulses).tlm = (y.accumulate.fillBuckets).tlm := keeps_tlm (by simp)
  have c5 : ((y.accumulate.fillBuckets).countCycle.agePulses).dma = y.accumulate.fillBuckets.dma := keeps_dma (by simp)
  have c6 : (y.accumulate.fillBuckets).countCycle.loop = y.loop := keeps_loop (by simp)
  have c7 : (y.accumulate.fillBuckets).countCycle.phase = y.phase := keeps_phase (by simp)
  have a1 : (y.accumulate.fillBuckets).tlm.energy = mapFin y.tlm.energy fun n e => (e + y.energyTerm n) % 2 ^ 64 := rfl
  have a2 : (y.accumulate.fillBuckets).tlm.charge = mapFin y.tlm.charge fun n e => (e + y.chargeTerm n) % 2 ^ 64 := rfl
  have a3 : y.accumulate.fillBuckets.dma.ring = mapFin y.dma.ring fun r x => { x with tokens := min 4096 (x.tokens + 2 * bits (y.rcfg r) 8 0) } := rfl
  refine ⟨keeps_cycle (by simp), keeps_syn (by simp), keeps_ts (by simp), keeps_ao (by simp), fun n => ⟨?_, ?_⟩, fun r => ?_, fun n => ?_, fun k => ?_⟩
  · rw [vec_same ((congrArg Tlm.energy c4).trans a1) n, mapFin_at]
  · rw [vec_same ((congrArg Tlm.charge c4).trans a2) n, mapFin_at]
  · unfold Device.rg
    rw [vec_same ((congrArg Dma.ring c5).trans a3) r, mapFin_at]
  · unfold Device.agePulses Device.lp
    dsimp only
    rw [c6]
    exact Vector.getElem_map _ n.isLt
  · unfold Device.agePulses Device.ph
    dsimp only
    rw [c7]
    exact Vector.getElem_map _ k.isLt

/-- What one ADC cycle does while the clocks run: its own effects, and then what a lease that ran out and a SAFE that waited bring about. -/
theorem tick_facts (d : Device) (f : OtpArray) (h : d.live = true) : ∃ e : Device, d.tick f = (e.leasesOverdue f).safeSettle ∧ Touches 15036452964 d e ∧
    e.cycle = d.cycle + 1 ∧ (e.syn, e.ts) = d.syn.tick (d.cycle + 1) d.ts ∧ e.ao = d.ageCauses.ao ∧
    (∀ n : Fin 16, e.tlm.energy[n] = (d.tlm.energy[n] + d.energyTerm n) % 2 ^ 64 ∧ e.tlm.charge[n] = (d.tlm.charge[n] + d.chargeTerm n) % 2 ^ 64) ∧
    (∀ r : Fin 32, e.rg r = { d.rg r with tokens := min 4096 ((d.rg r).tokens + 2 * bits (d.rcfg r) 8 0) }) ∧
    (∀ n : Fin 16, e.lp n = { d.lp n with perPos := (d.lp n).perPos + 256 }) ∧ (∀ k : Fin 64, e.ph k = { d.ph k with offAge := min 256 ((d.ph k).offAge + 1) }) := by
  let y : Device := { d.ageCauses with cycle := d.cycle + 1, ts := (d.syn.tick (d.cycle + 1) d.ts).2, syn := (d.syn.tick (d.cycle + 1) d.ts).1 }
  obtain ⟨k1, k2, k3, k4, k5⟩ := cycle_facts y
  refine ⟨(y.accumulate.fillBuckets).countCycle.agePulses, ?_, ?_, k1, Prod.ext k2 k3, k4, k5⟩
  · unfold Device.tick
    dsimp only
    rw [if_pos (show d.ageCauses.live = true from h)]
    rfl
  · have T : Touches 15036452964 y ((y.accumulate.fillBuckets).countCycle.agePulses) := by simp
    have U : Touches 15036452964 d y := by
      intro f hf
      cases f <;> first | rfl | (exact absurd hf (by decide))
    exact U.trans T

/-- A cycle in which no lease is overdue and no SAFE waits. -/
theorem quiet_cycle (e : Device) (f : OtpArray) (h1 : ∀ n, e.leaseOverdue n = false) (h2 : ∀ n, (e.lp n).safeWait = false) : (e.leasesOverdue f).safeSettle = e := by
  have a : e.leasesOverdue f = e := by
    unfold Device.leasesOverdue foldFin
    refine foldl_id _ _ fun n => ?_
    rw [h1 n]; rfl
  rw [a]
  unfold Device.safeSettle foldFin
  refine foldl_id _ _ fun n => ?_
  rw [h2 n, Bool.false_and]; rfl

end Sys2Proof.Machine
end

