-- ==== Sys2Proof/Laws/CommandFrames.lean ====
section
/-! SUPPORT. The frame of each command: it answers a next state, in which only the fields of its mask may differ. -/

set_option maxRecDepth 4000

namespace Sys2Proof.Machine
open Sys2Proof

theorem execDomainPorAssert_frame (dom : Domain) (s : State) : ∃ u, exec (.domainPorAssert dom) s = .next u ∧ Touches 53726378511 s.dev u.dev := by
  refine ⟨_, rfl, ?_⟩
  dsimp only; simp

theorem execDomainPorRelease_frame (dom : Domain) (s : State) : ∃ u, exec (.domainPorRelease dom) s = .next u ∧ Touches 68719476735 s.dev u.dev := by
  refine ⟨_, rfl, ?_⟩
  dsimp only; simp

theorem execDeviceResetEntry_frame  (s : State) : ∃ u, exec (.deviceResetEntry ) s = .next u ∧ Touches 68719476735 s.dev u.dev := by
  refine ⟨_, rfl, ?_⟩
  dsimp only; simp

theorem execDeviceResetRelease_frame (s0 : BitVec 4) (s1 : BitVec 4) (s2 : BitVec 4) (s : State) : ∃ u, exec (.deviceResetRelease s0 s1 s2) s = .next u ∧ Touches 2156068876 s.dev u.dev := by
  refine ⟨_, rfl, ?_⟩
  dsimp only; simp

theorem execPllLock_frame  (s : State) : ∃ u, exec (.pllLock ) s = .next u ∧ Touches 15032385548 s.dev u.dev := by
  refine ⟨_, rfl, ?_⟩
  dsimp only; simp

theorem execPllLockTimeout_frame  (s : State) : ∃ u, exec (.pllLockTimeout ) s = .next u ∧ Touches 17213571080 s.dev u.dev := by
  refine ⟨_, rfl, ?_⟩
  dsimp only; simp

theorem execClockFailure_frame  (s : State) : ∃ u, exec (.clockFailure ) s = .next u ∧ Touches 17213571080 s.dev u.dev := by
  refine ⟨_, rfl, ?_⟩
  dsimp only; simp

theorem execTrimLoad_frame  (s : State) : ∃ u, exec (.trimLoad ) s = .next u ∧ Touches 17213554697 s.dev u.dev := by
  refine ⟨_, rfl, ?_⟩
  dsimp only; simp

theorem execOtpBootScanComplete_frame  (s : State) : ∃ u, exec (.otpBootScanComplete ) s = .next u ∧ Touches 19360911372 s.dev u.dev := by
  refine ⟨_, rfl, ?_⟩
  dsimp only; simp

theorem execGenerationSelect_frame  (s : State) : ∃ u, exec (.generationSelect ) s = .next u ∧ Touches 2147483660 s.dev u.dev := by
  refine ⟨_, rfl, ?_⟩
  dsimp only; simp

theorem execCallSheetLoad_frame  (s : State) : ∃ u, exec (.callSheetLoad ) s = .next u ∧ Touches 38184737791 s.dev u.dev := by
  refine ⟨_, rfl, ?_⟩
  dsimp only; simp

theorem execPatchInstall_frame  (s : State) : ∃ u, exec (.patchInstall ) s = .next u ∧ Touches 2214797324 s.dev u.dev := by
  refine ⟨_, rfl, ?_⟩
  dsimp only; simp

theorem execJtagCoreRelease_frame  (s : State) : ∃ u, exec (.jtagCoreRelease ) s = .next u ∧ Touches 2147688460 s.dev u.dev := by
  refine ⟨_, rfl, ?_⟩
  dsimp only; simp

theorem execFirstThermalScanComplete_frame  (s : State) : ∃ u, exec (.firstThermalScanComplete ) s = .next u ∧ Touches 8 s.dev u.dev := by
  refine ⟨_, rfl, ?_⟩
  dsimp only; simp

theorem execAutoStart_frame  (s : State) : ∃ u, exec (.autoStart ) s = .next u ∧ Touches 2149061614 s.dev u.dev := by
  refine ⟨_, rfl, ?_⟩
  dsimp only; simp

theorem execCoreInitComplete_frame (challenges : Vector (List (BitVec 16)) 9) (s : State) : ∃ u, exec (.coreInitComplete challenges) s = .next u ∧ Touches 2147692556 s.dev u.dev := by
  refine ⟨_, rfl, ?_⟩
  dsimp only; simp

theorem execGlbDevrstWrite_frame (src : Source) (data : Word) (s : State) : ∃ u, exec (.glbDevrstWrite src data) s = .next u ∧ Touches 2148667421 s.dev u.dev := by
  refine ⟨_, rfl, ?_⟩
  exact bus_in s.dev s.fuses src 0x000 0x06C _ _ _ (by decide) (by decide) (.inr (by decide)) (by decide) (by decide) (by decide) (fun e m => by unfold Device.blockWrite; rw [show blockOf 0x000 = some .glb by decide]; dsimp only; unfold Device.glbWrite; simp)

theorem execDeviceResetDeferred_frame  (s : State) : ∃ u, exec (.deviceResetDeferred ) s = .next u ∧ Touches 68719476735 s.dev u.dev := by
  refine ⟨_, rfl, ?_⟩
  dsimp only; simp

theorem execJtagDeviceReset_frame  (s : State) : ∃ u, exec (.jtagDeviceReset ) s = .next u ∧ Touches 131080 s.dev u.dev := by
  refine ⟨_, rfl, ?_⟩
  dsimp only; simp

theorem execTapReset_frame  (s : State) : ∃ u, exec (.tapReset ) s = .next u ∧ Touches 8 s.dev u.dev := by
  refine ⟨_, rfl, ?_⟩
  dsimp only; simp

theorem execRstcauseClear_frame (src : Source) (be : BitVec 4) (data : Word) (s : State) : ∃ u, exec (.rstcauseClear src be data) s = .next u ∧ Touches 2148667421 s.dev u.dev := by
  refine ⟨_, rfl, ?_⟩
  exact bus_in s.dev s.fuses src 0x000 0x064 _ _ _ (by decide) (by decide) (.inr (by decide)) (by decide) (by decide) (by decide) (fun e m => by unfold Device.blockWrite; rw [show blockOf 0x000 = some .glb by decide]; dsimp only; unfold Device.glbWrite; simp)

theorem execRegisterWrite_frame (src : Source) (addr : BitVec 24) (be : BitVec 4) (data : Word) (s : State) : ∃ u, exec (.registerWrite src addr be data) s = .next u ∧ Touches 55280926719 s.dev u.dev := by
  refine ⟨_, rfl, ?_⟩
  dsimp only; simp

theorem execHcxOpen_frame (src : Source) (data : Word) (s : State) : ∃ u, exec (.hcxOpen src data) s = .next u ∧ Touches 2425360413 s.dev u.dev := by
  refine ⟨_, rfl, ?_⟩
  exact bus_in s.dev s.fuses src 0x001 0x040 _ _ _ (by decide) (by decide) (.inr (by decide)) (by decide) (by decide) (by decide) (fun e m => by unfold Device.blockWrite; rw [show blockOf 0x001 = some .hcx by decide]; dsimp only; unfold Device.hcxWrite; simp)

theorem execHcxClose_frame (src : Source) (data : Word) (s : State) : ∃ u, exec (.hcxClose src data) s = .next u ∧ Touches 53865149439 s.dev u.dev := by
  refine ⟨_, rfl, ?_⟩
  exact bus_in s.dev s.fuses src 0x001 0x048 _ _ _ (by decide) (by decide) (.inr (by decide)) (by decide) (by decide) (by decide) (fun e m => by unfold Device.blockWrite; rw [show blockOf 0x001 = some .hcx by decide]; dsimp only; unfold Device.hcxWrite; simp)

theorem execHcxEvict_frame (src : Source) (data : Word) (s : State) : ∃ u, exec (.hcxEvict src data) s = .next u ∧ Touches 53865149439 s.dev u.dev := by
  refine ⟨_, rfl, ?_⟩
  exact bus_in s.dev s.fuses src 0x001 0x04C _ _ _ (by decide) (by decide) (.inr (by decide)) (by decide) (by decide) (by decide) (fun e m => by unfold Device.blockWrite; rw [show blockOf 0x001 = some .hcx by decide]; dsimp only; unfold Device.hcxWrite; simp)

theorem execHcxLeaseWrite_frame (src : Source) (n : Fin 8) (be : BitVec 4) (data : Word) (s : State) : ∃ u, exec (.hcxLeaseWrite src n be data) s = .next u ∧ Touches 2148536348 s.dev u.dev := by
  refine ⟨_, rfl, ?_⟩
  dsimp only; rw [show (0x001084 + 16 * n.val : Nat) = pageAddr 0x001 (0x084 + 16 * n.val) by unfold pageAddr; omega]; exact bus_in s.dev s.fuses src 0x001 (0x084 + 16 * n.val) _ _ _ (by omega) (by omega) (.inr (by omega)) (by decide) (by decide) (by decide) (fun e m => by unfold Device.blockWrite; rw [show blockOf 0x001 = some .hcx by decide]; dsimp only; unfold Device.hcxWrite; dsimp only; rw [if_neg (by omega), if_neg (by omega), if_neg (by omega), if_pos (by omega), if_neg (by omega), if_pos (by omega)]; simp)

theorem execLeaseExpiry_frame (n : Fin 8) (s : State) : ∃ u, exec (.leaseExpiry n) s = .next u ∧ Touches 53865149431 s.dev u.dev := by
  refine ⟨_, rfl, ?_⟩
  dsimp only; simp

theorem execContextQuarantine_frame (n : Fin 8) (s : State) : ∃ u, exec (.contextQuarantine n) s = .next u ∧ Touches 16 s.dev u.dev := by
  refine ⟨_, rfl, ?_⟩
  dsimp only; simp

theorem execContextFree_frame (n : Fin 8) (s : State) : ∃ u, exec (.contextFree n) s = .next u ∧ Touches 16 s.dev u.dev := by
  refine ⟨_, rfl, ?_⟩
  dsimp only; simp

theorem execClaimRequest_frame (src : Source) (page : Fin 256) (data : Word) (s : State) : ∃ u, exec (.claimRequest src page data) s = .next u ∧ Touches 2282950684 s.dev u.dev := by
  refine ⟨_, rfl, ?_⟩
  by_cases hp : isBlockPage page.val = true
  · exact bus_head s.dev s.fuses src page.val 0x018 _ _ _ (hp) (by decide) (by decide) (by decide) ((Device.arrive_touches s.dev src _).mono (by decide)) (fun m => by rw [headerWrite_owner]; simp)
  · exact bus_none s.dev s.fuses src page.val 0x018 _ _ _ (by simpa using hp) (by decide) (by decide) page.isLt (by decide)

theorem execClaimRelease_frame (src : Source) (page : Fin 256) (data : Word) (s : State) : ∃ u, exec (.claimRelease src page data) s = .next u ∧ Touches 2282950684 s.dev u.dev := by
  refine ⟨_, rfl, ?_⟩
  by_cases hp : isBlockPage page.val = true
  · exact bus_head s.dev s.fuses src page.val 0x018 _ _ _ (hp) (by decide) (by decide) (by decide) ((Device.arrive_touches s.dev src _).mono (by decide)) (fun m => by rw [headerWrite_owner]; simp)
  · exact bus_none s.dev s.fuses src page.val 0x018 _ _ _ (by simpa using hp) (by decide) (by decide) page.isLt (by decide)

theorem execOwnerPolicyWrite_frame (src : Source) (page : Fin 256) (be : BitVec 4) (data : Word) (s : State) : ∃ u, exec (.ownerPolicyWrite src page be data) s = .next u ∧ Touches 2282950684 s.dev u.dev := by
  refine ⟨_, rfl, ?_⟩
  by_cases hp : isBlockPage page.val = true
  · exact bus_head s.dev s.fuses src page.val 0x018 _ _ _ (hp) (by decide) (by decide) (by decide) ((Device.arrive_touches s.dev src _).mono (by decide)) (fun m => by rw [headerWrite_owner]; simp)
  · exact bus_none s.dev s.fuses src page.val 0x018 _ _ _ (by simpa using hp) (by decide) (by decide) page.isLt (by decide)

theorem execClaimArbitration_frame  (s : State) : ∃ u, exec (.claimArbitration ) s = .next u ∧ Touches 19495129092 s.dev u.dev := by
  refine ⟨_, rfl, ?_⟩
  dsimp only; simp

theorem execPageLockWrite_frame (src : Source) (page : Fin 256) (lock : Bool) (s : State) : ∃ u, exec (.pageLockWrite src page lock) s = .next u ∧ Touches 2148732956 s.dev u.dev := by
  refine ⟨_, rfl, ?_⟩
  by_cases hp : isBlockPage page.val = true
  · exact bus_head s.dev s.fuses src page.val 0x01C _ _ _ (hp) (by decide) (by decide) (by decide) ((Device.arrive_touches s.dev src _).mono (by decide)) (fun m => by rw [headerWrite_lock]; simp)
  · exact bus_none s.dev s.fuses src page.val 0x01C _ _ _ (by simpa using hp) (by decide) (by decide) page.isLt (by decide)

theorem execPageFreezeWrite_frame (src : Source) (page : Fin 256) (freeze : Bool) (s : State) : ∃ u, exec (.pageFreezeWrite src page freeze) s = .next u ∧ Touches 2149307391 s.dev u.dev := by
  refine ⟨_, rfl, ?_⟩
  by_cases hp : isBlockPage page.val = true
  · exact bus_head s.dev s.fuses src page.val 0x008 _ _ _ (hp) (by decide) (by decide) (by decide) ((Device.arrive_touches s.dev src _).mono (by decide)) (fun m => by exact ctl_in s.dev _ page src m freeze 2 (by decide) (by decide) (fun who => by have q := enable_kept s.dev src page freeze; unfold Device.enableWrite; dsimp only; rw [if_pos q]; split <;> simp))
  · exact bus_none s.dev s.fuses src page.val 0x008 _ _ _ (by simpa using hp) (by decide) (by decide) page.isLt (by decide)

theorem execBlockSoftReset_frame (src : Source) (page : Fin 256) (s : State) : ∃ u, exec (.blockSoftReset src page) s = .next u ∧ Touches 36511416319 s.dev u.dev := by
  refine ⟨_, rfl, ?_⟩
  by_cases hp : isBlockPage page.val = true
  · exact bus_head s.dev s.fuses src page.val 0x008 _ _ _ (hp) (by decide) (by decide) (by decide) ((Device.arrive_touches s.dev src _).mono (by decide)) (fun m => by rw [headerWrite_ctl]; split <;> simp)
  · exact bus_none s.dev s.fuses src page.val 0x008 _ _ _ (by simpa using hp) (by decide) (by decide) page.isLt (by decide)

theorem execPcieMemRequest_frame (bar : Bar) (write : Bool) (offset : Nat) (dws : List Dw) (s : State) : ∃ u, exec (.pcieMemRequest bar write offset dws) s = .next u ∧ Touches 55280926719 s.dev u.dev := by
  refine ⟨_, rfl, ?_⟩
  dsimp only; simp

theorem execPcieConfigRequest_frame (reg : Fin 1024) (write : Option Dw) (s : State) : ∃ u, exec (.pcieConfigRequest reg write) s = .next u ∧ Touches 36512731142 s.dev u.dev := by
  refine ⟨_, rfl, ?_⟩
  dsimp only; simp

theorem execPcieFundamentalReset_frame (low : Bool) (s : State) : ∃ u, exec (.pcieFundamentalReset low) s = .next u ∧ Touches 36512731150 s.dev u.dev := by
  refine ⟨_, rfl, ?_⟩
  dsimp only; simp

theorem execPcieHotReset_frame  (s : State) : ∃ u, exec (.pcieHotReset ) s = .next u ∧ Touches 36512731142 s.dev u.dev := by
  refine ⟨_, rfl, ?_⟩
  dsimp only; simp

theorem execPcieLinkUp_frame  (s : State) : ∃ u, exec (.pcieLinkUp ) s = .next u ∧ Touches 36512731142 s.dev u.dev := by
  refine ⟨_, rfl, ?_⟩
  dsimp only; simp

theorem execPcieD3hotEnter_frame  (s : State) : ∃ u, exec (.pcieD3hotEnter ) s = .next u ∧ Touches 36512731142 s.dev u.dev := by
  refine ⟨_, rfl, ?_⟩
  dsimp only; simp

theorem execMsixEnable_frame (en : Bool) (funcMask : Bool) (s : State) : ∃ u, exec (.msixEnable en funcMask) s = .next u ∧ Touches 36512468996 s.dev u.dev := by
  refine ⟨_, rfl, ?_⟩
  dsimp only; simp

theorem execMsixUnmask_frame (v : Option (Fin 16)) (s : State) : ∃ u, exec (.msixUnmask v) s = .next u ∧ Touches 36512468996 s.dev u.dev := by
  refine ⟨_, rfl, ?_⟩
  dsimp only; simp

theorem execWriteFrame_frame (p : HostPort) (frame : FrameIn) (s : State) : ∃ u, exec (.writeFrame p frame) s = .next u ∧ Touches 55297703935 s.dev u.dev := by
  refine ⟨_, rfl, ?_⟩
  dsimp only; simp

theorem execReadFrame_frame (p : HostPort) (frame : FrameIn) (s : State) : ∃ u, exec (.readFrame p frame) s = .next u ∧ Touches 55297703935 s.dev u.dev := by
  refine ⟨_, rfl, ?_⟩
  dsimp only; simp

theorem execReadResponseReady_frame (p : HostPort) (s : State) : ∃ u, exec (.readResponseReady p) s = .next u ∧ Touches 25165824 s.dev u.dev := by
  refine ⟨_, rfl, ?_⟩
  dsimp only; simp

theorem execI3cPrivateRead_frame (x : PrivateRead) (s : State) : ∃ u, exec (.i3cPrivateRead x) s = .next u ∧ Touches 8388608 s.dev u.dev := by
  refine ⟨_, rfl, ?_⟩
  dsimp only; simp

theorem execSpiFrameAbort_frame (frame : List Byte) (s : State) : ∃ u, exec (.spiFrameAbort frame) s = .next u ∧ Touches 55297703935 s.dev u.dev := by
  refine ⟨_, rfl, ?_⟩
  dsimp only; simp

theorem execSpiPortReset_frame  (s : State) : ∃ u, exec (.spiPortReset ) s = .next u ∧ Touches 16777216 s.dev u.dev := by
  refine ⟨_, rfl, ?_⟩
  dsimp only; simp

theorem execI3cTargetReset_frame (p : BusPort) (s : State) : ∃ u, exec (.i3cTargetReset p) s = .next u ∧ Touches 8388608 s.dev u.dev := by
  refine ⟨_, rfl, ?_⟩
  dsimp only; simp

theorem execSmbusTimeoutReset_frame (p : BusPort) (s : State) : ∃ u, exec (.smbusTimeoutReset p) s = .next u ∧ Touches 8388608 s.dev u.dev := by
  refine ⟨_, rfl, ?_⟩
  dsimp only; simp

theorem execEntdaa_frame (p : BusPort) (addr : BitVec 7) (s : State) : ∃ u, exec (.entdaa p addr) s = .next u ∧ Touches 8388608 s.dev u.dev := by
  refine ⟨_, rfl, ?_⟩
  dsimp only; simp

theorem execSetdasa_frame (p : BusPort) (static : BitVec 7) (addr : BitVec 7) (s : State) : ∃ u, exec (.setdasa p static addr) s = .next u ∧ Touches 8388608 s.dev u.dev := by
  refine ⟨_, rfl, ?_⟩
  dsimp only; simp

theorem execSetnewda_frame (p : BusPort) (addr : BitVec 7) (s : State) : ∃ u, exec (.setnewda p addr) s = .next u ∧ Touches 8388608 s.dev u.dev := by
  refine ⟨_, rfl, ?_⟩
  dsimp only; simp

theorem execRstdaa_frame (p : BusPort) (s : State) : ∃ u, exec (.rstdaa p) s = .next u ∧ Touches 8388608 s.dev u.dev := by
  refine ⟨_, rfl, ?_⟩
  dsimp only; simp

theorem execBroadcastCccModeSwitch_frame (p : BusPort) (s : State) : ∃ u, exec (.broadcastCccModeSwitch p) s = .next u ∧ Touches 8388608 s.dev u.dev := by
  refine ⟨_, rfl, ?_⟩
  dsimp only; simp

theorem execEnec_frame (p : BusPort) (intr : Bool) (hotJoin : Bool) (s : State) : ∃ u, exec (.enec p intr hotJoin) s = .next u ∧ Touches 8388608 s.dev u.dev := by
  refine ⟨_, rfl, ?_⟩
  dsimp only; simp

theorem execDisec_frame (p : BusPort) (intr : Bool) (hotJoin : Bool) (s : State) : ∃ u, exec (.disec p intr hotJoin) s = .next u ∧ Touches 8388608 s.dev u.dev := by
  refine ⟨_, rfl, ?_⟩
  dsimp only; simp

theorem execSetmwl_frame (p : BusPort) (len : BitVec 16) (s : State) : ∃ u, exec (.setmwl p len) s = .next u ∧ Touches 8388608 s.dev u.dev := by
  refine ⟨_, rfl, ?_⟩
  dsimp only; simp

theorem execSetmrl_frame (p : BusPort) (len : BitVec 16) (s : State) : ∃ u, exec (.setmrl p len) s = .next u ∧ Touches 8388608 s.dev u.dev := by
  refine ⟨_, rfl, ?_⟩
  dsimp only; simp

theorem execGetmwl_frame (p : BusPort) (s : State) : ∃ u, exec (.getmwl p) s = .next u ∧ Touches 8388608 s.dev u.dev := by
  refine ⟨_, rfl, ?_⟩
  dsimp only; simp

theorem execGetmrl_frame (p : BusPort) (s : State) : ∃ u, exec (.getmrl p) s = .next u ∧ Touches 8388608 s.dev u.dev := by
  refine ⟨_, rfl, ?_⟩
  dsimp only; simp

theorem execGetpid_frame (p : BusPort) (s : State) : ∃ u, exec (.getpid p) s = .next u ∧ Touches 8388608 s.dev u.dev := by
  refine ⟨_, rfl, ?_⟩
  dsimp only; simp

theorem execGetbcr_frame (p : BusPort) (s : State) : ∃ u, exec (.getbcr p) s = .next u ∧ Touches 8388608 s.dev u.dev := by
  refine ⟨_, rfl, ?_⟩
  dsimp only; simp

theorem execGetdcr_frame (p : BusPort) (s : State) : ∃ u, exec (.getdcr p) s = .next u ∧ Touches 8388608 s.dev u.dev := by
  refine ⟨_, rfl, ?_⟩
  dsimp only; simp

theorem execGetstatus_frame (p : BusPort) (s : State) : ∃ u, exec (.getstatus p) s = .next u ∧ Touches 17188257792 s.dev u.dev := by
  refine ⟨_, rfl, ?_⟩
  dsimp only; simp

theorem execGetmxds_frame (p : BusPort) (s : State) : ∃ u, exec (.getmxds p) s = .next u ∧ Touches 8388608 s.dev u.dev := by
  refine ⟨_, rfl, ?_⟩
  dsimp only; simp

theorem execRstact_frame (p : BusPort) (action : Byte) (s : State) : ∃ u, exec (.rstact p action) s = .next u ∧ Touches 8388608 s.dev u.dev := by
  refine ⟨_, rfl, ?_⟩
  dsimp only; simp

theorem execEnthdr0_frame (p : BusPort) (s : State) : ∃ u, exec (.enthdr0 p) s = .next u ∧ Touches 8388608 s.dev u.dev := by
  refine ⟨_, rfl, ?_⟩
  dsimp only; simp

theorem execIbiRequest_frame (x : IbiTry) (s : State) : ∃ u, exec (.ibiRequest x) s = .next u ∧ Touches 34368126976 s.dev u.dev := by
  refine ⟨_, rfl, ?_⟩
  dsimp only; simp

theorem execHotJoin_frame (p : BusPort) (s : State) : ∃ u, exec (.hotJoin p) s = .next u ∧ Touches 34368126976 s.dev u.dev := by
  refine ⟨_, rfl, ?_⟩
  dsimp only; simp

theorem execFrameWrite_frame (x : SmbXfer) (frame : List Byte) (s : State) : ∃ u, exec (.frameWrite x frame) s = .next u ∧ Touches 55280926719 s.dev u.dev := by
  refine ⟨_, rfl, ?_⟩
  dsimp only; simp

theorem execFrameRead_frame (x : SmbXfer) (s : State) : ∃ u, exec (.frameRead x) s = .next u ∧ Touches 8388608 s.dev u.dev := by
  refine ⟨_, rfl, ?_⟩
  dsimp only; simp

theorem execPmbusUnsupported_frame (x : SmbXfer) (y : ByteCommand) (s : State) : ∃ u, exec (.pmbusUnsupported x y) s = .next u ∧ Touches 55280926719 s.dev u.dev := by
  refine ⟨_, rfl, ?_⟩
  dsimp only; simp

theorem execPmbusPage_frame (x : SmbXfer) (write : Option Byte) (s : State) : ∃ u, exec (.pmbusPage x write) s = .next u ∧ Touches 2424311829 s.dev u.dev := by
  refine ⟨_, rfl, ?_⟩
  dsimp only; simp

theorem execOperationImmediateOff_frame (x : SmbXfer) (s : State) : ∃ u, exec (.operationImmediateOff x) s = .next u ∧ Touches 2425885687 s.dev u.dev := by
  refine ⟨_, rfl, ?_⟩
  dsimp only; exact (operation_byte_in _ _ _ _ (by decide)).2 (Touches.same _)

theorem execOperationSoftOff_frame (x : SmbXfer) (s : State) : ∃ u, exec (.operationSoftOff x) s = .next u ∧ Touches 2425885687 s.dev u.dev := by
  refine ⟨_, rfl, ?_⟩
  dsimp only; exact (operation_byte_in _ _ _ _ (by decide)).2 (Touches.same _)

theorem execOperationOn_frame (x : SmbXfer) (s : State) : ∃ u, exec (.operationOn x) s = .next u ∧ Touches 2425885687 s.dev u.dev := by
  refine ⟨_, rfl, ?_⟩
  dsimp only; exact (operation_byte_in _ _ _ _ (by decide)).2 (Touches.same _)

theorem execOperationMarginLow_frame (x : SmbXfer) (s : State) : ∃ u, exec (.operationMarginLow x) s = .next u ∧ Touches 2425885687 s.dev u.dev := by
  refine ⟨_, rfl, ?_⟩
  dsimp only; exact (operation_byte_in _ _ _ _ (by decide)).2 (Touches.same _)

theorem execOperationMarginHigh_frame (x : SmbXfer) (s : State) : ∃ u, exec (.operationMarginHigh x) s = .next u ∧ Touches 2425885687 s.dev u.dev := by
  refine ⟨_, rfl, ?_⟩
  dsimp only; exact (operation_byte_in _ _ _ _ (by decide)).2 (Touches.same _)

theorem execClearFaults_frame (x : SmbXfer) (s : State) : ∃ u, exec (.clearFaults x) s = .next u ∧ Touches 2425885687 s.dev u.dev := by
  refine ⟨_, rfl, ?_⟩
  dsimp only; exact (Device.pmWrite_touch _ _ _ (by decide) (fun src n e => clear_in e _ src n (by decide))).2 (Touches.same _)

theorem execVoutMode_frame (x : SmbXfer) (s : State) : ∃ u, exec (.voutMode x) s = .next u ∧ Touches 2424311829 s.dev u.dev := by
  refine ⟨_, rfl, ?_⟩
  dsimp only; simp

theorem execVoutCommand_frame (x : SmbXfer) (write : Option (BitVec 16)) (s : State) : ∃ u, exec (.voutCommand x write) s = .next u ∧ Touches 2424311893 s.dev u.dev := by
  refine ⟨_, rfl, ?_⟩
  dsimp only; exact (Device.pmWord_touch _ _ _ _ _ (by decide) (fun src n e v => field_in e _ src n _ _ _ _ (by decide) (by decide) (by decide) (by decide))).2 (Touches.same _)

theorem execVoutMax_frame (x : SmbXfer) (s : State) : ∃ u, exec (.voutMax x) s = .next u ∧ Touches 2424311829 s.dev u.dev := by
  refine ⟨_, rfl, ?_⟩
  dsimp only; simp

theorem execVoutMarginHigh_frame (x : SmbXfer) (write : Option (BitVec 16)) (s : State) : ∃ u, exec (.voutMarginHigh x write) s = .next u ∧ Touches 2424311893 s.dev u.dev := by
  refine ⟨_, rfl, ?_⟩
  dsimp only; exact (Device.pmWord_touch _ _ _ _ _ (by decide) (fun src n e v => field_in e _ src n _ _ _ _ (by decide) (by decide) (by decide) (by decide))).2 (Touches.same _)

theorem execVoutMarginLow_frame (x : SmbXfer) (write : Option (BitVec 16)) (s : State) : ∃ u, exec (.voutMarginLow x write) s = .next u ∧ Touches 2424311893 s.dev u.dev := by
  refine ⟨_, rfl, ?_⟩
  dsimp only; exact (Device.pmWord_touch _ _ _ _ _ (by decide) (fun src n e v => field_in e _ src n _ _ _ _ (by decide) (by decide) (by decide) (by decide))).2 (Touches.same _)

theorem execVoutTransitionRate_frame (x : SmbXfer) (write : Option (BitVec 16)) (s : State) : ∃ u, exec (.voutTransitionRate x write) s = .next u ∧ Touches 2424311893 s.dev u.dev := by
  refine ⟨_, rfl, ?_⟩
  dsimp only; exact (Device.pmWord_touch _ _ _ _ _ (by decide) (fun src n e v => field_in e _ src n _ _ _ _ (by decide) (by decide) (by decide) (by decide))).2 (Touches.same _)

theorem execVoutDroop_frame (x : SmbXfer) (write : Option (BitVec 16)) (s : State) : ∃ u, exec (.voutDroop x write) s = .next u ∧ Touches 2424311893 s.dev u.dev := by
  refine ⟨_, rfl, ?_⟩
  dsimp only; exact (Device.pmWord_touch _ _ _ _ _ (by decide) (fun src n e v => field_in e _ src n _ _ _ _ (by decide) (by decide) (by decide) (by decide))).2 (Touches.same _)

theorem execFrequencySwitch_frame (x : SmbXfer) (write : Option (BitVec 16)) (s : State) : ∃ u, exec (.frequencySwitch x write) s = .next u ∧ Touches 2424311893 s.dev u.dev := by
  refine ⟨_, rfl, ?_⟩
  dsimp only; exact (Device.pmWord_touch _ _ _ _ _ (by decide) (fun src n e v => frequency_in e _ src n _ (by decide))).2 (Touches.same _)

theorem execVoutOvFaultLimit_frame (x : SmbXfer) (write : Option (BitVec 16)) (s : State) : ∃ u, exec (.voutOvFaultLimit x write) s = .next u ∧ Touches 2424311893 s.dev u.dev := by
  refine ⟨_, rfl, ?_⟩
  dsimp only; exact (Device.pmWord_touch _ _ _ _ _ (by decide) (fun src n e v => field_in e _ src n _ _ _ _ (by decide) (by decide) (by decide) (by decide))).2 (Touches.same _)

theorem execVoutUvFaultLimit_frame (x : SmbXfer) (write : Option (BitVec 16)) (s : State) : ∃ u, exec (.voutUvFaultLimit x write) s = .next u ∧ Touches 2424311893 s.dev u.dev := by
  refine ⟨_, rfl, ?_⟩
  dsimp only; exact (Device.pmWord_touch _ _ _ _ _ (by decide) (fun src n e v => field_in e _ src n _ _ _ _ (by decide) (by decide) (by decide) (by decide))).2 (Touches.same _)

theorem execIoutOcFaultLimit_frame (x : SmbXfer) (write : Option (BitVec 16)) (s : State) : ∃ u, exec (.ioutOcFaultLimit x write) s = .next u ∧ Touches 2424311893 s.dev u.dev := by
  refine ⟨_, rfl, ?_⟩
  dsimp only; exact (Device.pmWord_touch _ _ _ _ _ (by decide) (fun src n e v => field_in e _ src n _ _ _ _ (by decide) (by decide) (by decide) (by decide))).2 (Touches.same _)

theorem execOtFaultLimit_frame (x : SmbXfer) (write : Option (BitVec 16)) (s : State) : ∃ u, exec (.otFaultLimit x write) s = .next u ∧ Touches 2424311893 s.dev u.dev := by
  refine ⟨_, rfl, ?_⟩
  dsimp only; exact (Device.pmWord_touch _ _ _ _ _ (by decide) (fun src n e v => field_in e _ src n _ _ _ _ (by decide) (by decide) (by decide) (by decide))).2 (Touches.same _)

theorem execStatusByte_frame (x : SmbXfer) (s : State) : ∃ u, exec (.statusByte x) s = .next u ∧ Touches 2424311829 s.dev u.dev := by
  refine ⟨_, rfl, ?_⟩
  dsimp only; simp

theorem execStatusWord_frame (x : SmbXfer) (s : State) : ∃ u, exec (.statusWord x) s = .next u ∧ Touches 2424311829 s.dev u.dev := by
  refine ⟨_, rfl, ?_⟩
  dsimp only; simp

theorem execStatusVout_frame (x : SmbXfer) (s : State) : ∃ u, exec (.statusVout x) s = .next u ∧ Touches 2424311829 s.dev u.dev := by
  refine ⟨_, rfl, ?_⟩
  dsimp only; simp

theorem execStatusIout_frame (x : SmbXfer) (s : State) : ∃ u, exec (.statusIout x) s = .next u ∧ Touches 2424311829 s.dev u.dev := by
  refine ⟨_, rfl, ?_⟩
  dsimp only; simp

theorem execStatusTemperature_frame (x : SmbXfer) (s : State) : ∃ u, exec (.statusTemperature x) s = .next u ∧ Touches 2424311829 s.dev u.dev := by
  refine ⟨_, rfl, ?_⟩
  dsimp only; simp

theorem execStatusCml_frame (x : SmbXfer) (s : State) : ∃ u, exec (.statusCml x) s = .next u ∧ Touches 2424311829 s.dev u.dev := by
  refine ⟨_, rfl, ?_⟩
  dsimp only; simp

theorem execReadVout_frame (x : SmbXfer) (s : State) : ∃ u, exec (.readVout x) s = .next u ∧ Touches 2424311829 s.dev u.dev := by
  refine ⟨_, rfl, ?_⟩
  dsimp only; simp

theorem execReadIout_frame (x : SmbXfer) (s : State) : ∃ u, exec (.readIout x) s = .next u ∧ Touches 2424311829 s.dev u.dev := by
  refine ⟨_, rfl, ?_⟩
  dsimp only; simp

theorem execReadTemperature1_frame (x : SmbXfer) (s : State) : ∃ u, exec (.readTemperature1 x) s = .next u ∧ Touches 19604181013 s.dev u.dev := by
  refine ⟨_, rfl, ?_⟩
  dsimp only; simp

theorem execReadPout_frame (x : SmbXfer) (s : State) : ∃ u, exec (.readPout x) s = .next u ∧ Touches 2424311829 s.dev u.dev := by
  refine ⟨_, rfl, ?_⟩
  dsimp only; simp

theorem execPmbusRevision_frame (x : SmbXfer) (s : State) : ∃ u, exec (.pmbusRevision x) s = .next u ∧ Touches 2424311829 s.dev u.dev := by
  refine ⟨_, rfl, ?_⟩
  dsimp only; simp

theorem execMfrId_frame (x : SmbXfer) (s : State) : ∃ u, exec (.mfrId x) s = .next u ∧ Touches 2424311829 s.dev u.dev := by
  refine ⟨_, rfl, ?_⟩
  dsimp only; simp

theorem execMfrModel_frame (x : SmbXfer) (s : State) : ∃ u, exec (.mfrModel x) s = .next u ∧ Touches 2424311829 s.dev u.dev := by
  refine ⟨_, rfl, ?_⟩
  dsimp only; simp

theorem execInterleaveBoundary_frame (n : Fin 16) (per : PeriodSamples) (same : Coincident) (s : State) : ∃ u, exec (.interleaveBoundary n per same) s = .next u ∧ Touches 2149061607 s.dev u.dev := by
  refine ⟨_, rfl, ?_⟩
  dsimp only; simp

theorem execShedDelayExpiry_frame (n : Fin 16) (s : State) : ∃ u, exec (.shedDelayExpiry n) s = .next u ∧ Touches 2148536420 s.dev u.dev := by
  refine ⟨_, rfl, ?_⟩
  dsimp only; simp

theorem execPulseLeadingEdge_frame (k : Fin 64) (off : OffTime) (s : State) : ∃ u, exec (.pulseLeadingEdge k off) s = .next u ∧ Touches 2148536356 s.dev u.dev := by
  refine ⟨_, rfl, ?_⟩
  dsimp only; simp

theorem execPeakComparatorTrip_frame (k : Fin 64) (ton : Nat) (diff : Int) (on : OnTime) (s : State) : ∃ u, exec (.peakComparatorTrip k ton diff on) s = .next u ∧ Touches 32 s.dev u.dev := by
  refine ⟨_, rfl, ?_⟩
  dsimp only; simp

theorem execDmaxLimit_frame (k : Fin 64) (first : Nat) (codes : List Nat) (irefs : List Nat) (s : State) : ∃ u, exec (.dmaxLimit k first codes irefs) s = .next u ∧ Touches 32 s.dev u.dev := by
  refine ⟨_, rfl, ?_⟩
  dsimp only; simp

theorem execDiodeEmulationZero_frame (k : Fin 64) (code : Nat) (iref : Nat) (s : State) : ∃ u, exec (.diodeEmulationZero k code iref) s = .next u ∧ Touches 32 s.dev u.dev := by
  refine ⟨_, rfl, ?_⟩
  dsimp only; simp

theorem execDelayLineCalibration_frame (k : Fin 64) (ok : Bool) (s : State) : ∃ u, exec (.delayLineCalibration k ok) s = .next u ∧ Touches 32 s.dev u.dev := by
  refine ⟨_, rfl, ?_⟩
  dsimp only; simp

theorem execPhaseMapWrite_frame (src : Source) (k : Fin 64) (be : BitVec 4) (data : Word) (s : State) : ∃ u, exec (.phaseMapWrite src k be data) s = .next u ∧ Touches 2148536445 s.dev u.dev := by
  refine ⟨_, rfl, ?_⟩
  exact bus_in s.dev s.fuses src (0x020 + k.val / 8) (0x100 + 0x40 * (k.val % 8) + 0x00) _ _ _ (by omega) (by omega) (.inr (by omega)) (by omega) (by omega) (by decide) (fun e m => by rw [Device.blockWrite_phs _ _ _ _ _ (by decide)]; unfold Device.phsWrite; rw [show (0x100 + 0x40 * (k.val % 8) + 0x00) % 0x40 = 0x00 by omega]; dsimp only; (repeat' split) <;> simp)

theorem execLendRequest_frame (k : Fin 64) (s : State) : ∃ u, exec (.lendRequest k) s = .next u ∧ Touches 2148536420 s.dev u.dev := by
  refine ⟨_, rfl, ?_⟩
  dsimp only; simp

theorem execPhaseDisableWrite_frame (src : Source) (k : Fin 64) (disable : Bool) (s : State) : ∃ u, exec (.phaseDisableWrite src k disable) s = .next u ∧ Touches 2148536445 s.dev u.dev := by
  refine ⟨_, rfl, ?_⟩
  exact bus_in s.dev s.fuses src (0x020 + k.val / 8) (0x100 + 0x40 * (k.val % 8) + 0x18) _ _ _ (by omega) (by omega) (.inr (by omega)) (by omega) (by omega) (by decide) (fun e m => by rw [Device.blockWrite_phs _ _ _ _ _ (by decide)]; unfold Device.phsWrite; rw [show (0x100 + 0x40 * (k.val % 8) + 0x18) % 0x40 = 0x18 by omega]; dsimp only; (repeat' split) <;> simp)

theorem execPhaseClrFail_frame (src : Source) (k : Fin 64) (x : FailSeen) (s : State) : ∃ u, exec (.phaseClrFail src k x) s = .next u ∧ Touches 2148536445 s.dev u.dev := by
  refine ⟨_, rfl, ?_⟩
  exact bus_in s.dev s.fuses src (0x020 + k.val / 8) (0x100 + 0x40 * (k.val % 8) + 0x18) _ _ _ (by omega) (by omega) (.inr (by omega)) (by omega) (by omega) (by decide) (fun e m => by rw [Device.blockWrite_phs _ _ _ _ _ (by decide)]; unfold Device.phsWrite; rw [show (0x100 + 0x40 * (k.val % 8) + 0x18) % 0x40 = 0x18 by omega]; dsimp only; (repeat' split) <;> simp)

theorem execJoinComplete_frame (k : Fin 64) (s : State) : ∃ u, exec (.joinComplete k) s = .next u ∧ Touches 2148536421 s.dev u.dev := by
  refine ⟨_, rfl, ?_⟩
  dsimp only; simp

theorem execDrainDecayComplete_frame (k : Fin 64) (code0 : Nat) (code1 : Nat) (irefs : Nat × Nat) (s : State) : ∃ u, exec (.drainDecayComplete k code0 code1 irefs) s = .next u ∧ Touches 2149061607 s.dev u.dev := by
  refine ⟨_, rfl, ?_⟩
  dsimp only; simp

theorem execDrainTimeout_frame (k : Fin 64) (s : State) : ∃ u, exec (.drainTimeout k) s = .next u ∧ Touches 2149061607 s.dev u.dev := by
  refine ⟨_, rfl, ?_⟩
  dsimp only; simp

theorem execStageFault_frame (k : Fin 64) (s : State) : ∃ u, exec (.stageFault k) s = .next u ∧ Touches 2149061607 s.dev u.dev := by
  refine ⟨_, rfl, ?_⟩
  dsimp only; simp

theorem execPhaseFailure_frame (k : Fin 64) (dets : List PhaseDetect) (s : State) : ∃ u, exec (.phaseFailure k dets) s = .next u ∧ Touches 2149061607 s.dev u.dev := by
  refine ⟨_, rfl, ?_⟩
  dsimp only; simp

theorem execLoopUpdate_frame (n : Fin 16) (frame : Fin 8) (slotB : Bool) (volts : List Int) (samples : LoopSamples) (s : State) : ∃ z, exec (.loopUpdate n frame slotB volts samples) s = .next z ∧ Touches 2148536420 s.dev z.dev := by
  refine ⟨_, rfl, ?_⟩
  dsimp only; simp

theorem execBalanceUpdate_frame (k : Fin 64) (frame : Fin 8) (s : State) : ∃ u, exec (.balanceUpdate k frame) s = .next u ∧ Touches 2148536356 s.dev u.dev := by
  refine ⟨_, rfl, ?_⟩
  dsimp only; simp

theorem execBankCommit_frame (src : Source) (n : Fin 16) (s : State) : ∃ u, exec (.bankCommit src n) s = .next u ∧ Touches 2148536412 s.dev u.dev := by
  refine ⟨_, rfl, ?_⟩
  exact bus_in s.dev s.fuses src (loopPage n) (0x094) _ _ _ (by decide) (by decide) (.inr (by decide)) (by have := n.isLt; unfold loopPage; omega) (by have := n.isLt; unfold loopPage; omega) (by decide) (fun e m => by rw [Device.blockWrite_loop]; unfold Device.loopWrite; simp)

theorem execBankSwap_frame (n : Fin 16) (s : State) : ∃ u, exec (.bankSwap n) s = .next u ∧ Touches 2148536389 s.dev u.dev := by
  refine ⟨_, rfl, ?_⟩
  dsimp only; simp

theorem execSetpointWrite_frame (src : Source) (n : Fin 16) (reg : Fin 3) (be : BitVec 4) (data : Word) (s : State) : ∃ u, exec (.setpointWrite src n reg be data) s = .next u ∧ Touches 2148536413 s.dev u.dev := by
  refine ⟨_, rfl, ?_⟩
  exact bus_in s.dev s.fuses src (loopPage n) (0x040 + 4 * reg.val) _ _ _ (by omega) (by omega) (.inr (by omega)) (by have := n.isLt; unfold loopPage; omega) (by have := n.isLt; unfold loopPage; omega) (by decide) (fun e m => by rw [Device.blockWrite_loop]; unfold Device.loopWrite; dsimp only; rw [if_neg (by omega), if_neg (by omega)]; split <;> simp)

theorem execCuePin_frame (pins : BitVec 7) (t : CueTiming) (s : State) : ∃ u, exec (.cuePin pins t) s = .next u ∧ Touches 2149060709 s.dev u.dev := by
  refine ⟨_, rfl, ?_⟩
  dsimp only; simp

theorem execCueSw_frame (src : Source) (data : Word) (t : CueTiming) (s : State) : ∃ u, exec (.cueSw src data t) s = .next u ∧ Touches 2149060733 s.dev u.dev := by
  refine ⟨_, rfl, ?_⟩
  exact bus_in s.dev s.fuses src 0x0C8 0x044 _ _ _ (by decide) (by decide) (.inr (by decide)) (by decide) (by decide) (by decide) (fun e m => by unfold Device.blockWrite; rw [show blockOf 0x0C8 = some .cue by decide]; dsimp only; unfold Device.cueWrite; simp)

theorem execCueHoldExpiry_frame (n : Fin 16) (s : State) : ∃ u, exec (.cueHoldExpiry n) s = .next u ∧ Touches 2147483717 s.dev u.dev := by
  refine ⟨_, rfl, ?_⟩
  dsimp only; simp

theorem execLoopEnable_frame (n : Fin 16) (s : State) : ∃ u, exec (.loopEnable n) s = .next u ∧ Touches 2149061606 s.dev u.dev := by
  refine ⟨_, rfl, ?_⟩
  dsimp only; simp

theorem execLoopSoftStop_frame (n : Fin 16) (s : State) : ∃ u, exec (.loopSoftStop n) s = .next u ∧ Touches 2149060710 s.dev u.dev := by
  refine ⟨_, rfl, ?_⟩
  dsimp only; simp

theorem execLoopHardStop_frame (n : Fin 16) (s : State) : ∃ u, exec (.loopHardStop n) s = .next u ∧ Touches 2149060710 s.dev u.dev := by
  refine ⟨_, rfl, ?_⟩
  dsimp only; simp

theorem execPrebiasComplete_frame (n : Fin 16) (codes : List Nat) (s : State) : ∃ u, exec (.prebiasComplete n codes) s = .next u ∧ Touches 2148012102 s.dev u.dev := by
  refine ⟨_, rfl, ?_⟩
  dsimp only; simp

theorem execPrebiasTimeout_frame (x : LoopAlso) (s : State) : ∃ u, exec (.prebiasTimeout x) s = .next u ∧ Touches 2149061606 s.dev u.dev := by
  refine ⟨_, rfl, ?_⟩
  dsimp only; simp

theorem execSoftStartComplete_frame (n : Fin 16) (s : State) : ∃ u, exec (.softStartComplete n) s = .next u ∧ Touches 2148012102 s.dev u.dev := by
  refine ⟨_, rfl, ?_⟩
  dsimp only; simp

theorem execSoftStartTimeout_frame (x : LoopAlso) (s : State) : ∃ u, exec (.softStartTimeout x) s = .next u ∧ Touches 2149061606 s.dev u.dev := by
  refine ⟨_, rfl, ?_⟩
  dsimp only; simp

theorem execRampdownComplete_frame (n : Fin 16) (s : State) : ∃ u, exec (.rampdownComplete n) s = .next u ∧ Touches 2149060710 s.dev u.dev := by
  refine ⟨_, rfl, ?_⟩
  dsimp only; simp

theorem execLoopDrainComplete_frame (n : Fin 16) (s : State) : ∃ u, exec (.loopDrainComplete n) s = .next u ∧ Touches 2148012102 s.dev u.dev := by
  refine ⟨_, rfl, ?_⟩
  dsimp only; simp

theorem execLoopLatchedRestart_frame (n : Fin 16) (s : State) : ∃ u, exec (.loopLatchedRestart n) s = .next u ∧ Touches 2149061606 s.dev u.dev := by
  refine ⟨_, rfl, ?_⟩
  dsimp only; simp

theorem execLoopEnableWrite_frame (src : Source) (n : Fin 16) (enable : Bool) (s : State) : ∃ u, exec (.loopEnableWrite src n enable) s = .next u ∧ Touches 2148536348 s.dev u.dev := by
  refine ⟨_, rfl, ?_⟩
  have hv : (pg (loopPage n)).val = loopPage n := by have := n.isLt; show (loopPage n) % 256 = _; unfold loopPage; omega
  have hb : isBlockPage (loopPage n) = true := by revert n; decide
  have h := bus_head (S := 2148536348) s.dev s.fuses src (loopPage n) 0x008 0xF (setBit (s.dev.ctlWord (pg (loopPage n))) 0 enable) {} hb (by decide) (by decide) (by decide) (arrive_in s.dev src _ (by rw [pageAddr_div _ _ (by decide)]; have := n.isLt; unfold loopPage; omega) (by rw [pageAddr_div _ _ (by decide)]; have := n.isLt; unfold loopPage; omega) (by decide)) (fun m => by have c := ctl_in (S := 2148536348) s.dev (s.dev.arrive src (pageAddr (loopPage n) 0x008)) (pg (loopPage n)) src m enable 0 (by decide) (by decide) (fun who => by rw [hv]; unfold Device.enableWrite loopPage; dsimp only; rw [blockOf_loop]; dsimp only; have := n.isLt; (repeat' split) <;> first | omega | simp); rw [hv] at c; exact c)
  exact h

theorem execOvCrowbar_frame (x : LoopVolts) (s : State) : ∃ u, exec (.ovCrowbar x) s = .next u ∧ Touches 2149061606 s.dev u.dev := by
  refine ⟨_, rfl, ?_⟩
  dsimp only; simp

theorem execOvIdle_frame (x : LoopVolts) (s : State) : ∃ u, exec (.ovIdle x) s = .next u ∧ Touches 2149061606 s.dev u.dev := by
  refine ⟨_, rfl, ?_⟩
  dsimp only; simp

theorem execCrowbarRelease_frame (n : Fin 16) (own : ReleaseSense) (others : List (Fin 16 × ReleaseSense)) (s : State) : ∃ u, exec (.crowbarRelease n own others) s = .next u ∧ Touches 2149061606 s.dev u.dev := by
  refine ⟨_, rfl, ?_⟩
  dsimp only; simp

theorem execUvFault_frame (x : UvSeen) (s : State) : ∃ u, exec (.uvFault x) s = .next u ∧ Touches 2149061606 s.dev u.dev := by
  refine ⟨_, rfl, ?_⟩
  dsimp only; simp

theorem execLoopOcFault_frame (x : OcSeen) (s : State) : ∃ u, exec (.loopOcFault x) s = .next u ∧ Touches 2149061606 s.dev u.dev := by
  refine ⟨_, rfl, ?_⟩
  dsimp only; simp

theorem execSsShortFault_frame (x : LoopAlso) (s : State) : ∃ u, exec (.ssShortFault x) s = .next u ∧ Touches 2149061606 s.dev u.dev := by
  refine ⟨_, rfl, ?_⟩
  dsimp only; simp

theorem execLoopOtFault_frame (x : LoopAlso) (s : State) : ∃ u, exec (.loopOtFault x) s = .next u ∧ Touches 2149061606 s.dev u.dev := by
  refine ⟨_, rfl, ?_⟩
  dsimp only; simp

theorem execLoopWarning_frame (n : Fin 16) (x : LoopSamples) (s : State) : ∃ u, exec (.loopWarning n x) s = .next u ∧ Touches 2147487844 s.dev u.dev := by
  refine ⟨_, rfl, ?_⟩
  dsimp only; simp

theorem execLoopFltClear_frame (src : Source) (n : Fin 16) (be : BitVec 4) (data : Word) (x : FltSense) (s : State) : ∃ u, exec (.loopFltClear src n be data x) s = .next u ∧ Touches 2149061630 s.dev u.dev := by
  refine ⟨_, rfl, ?_⟩
  exact bus_in s.dev s.fuses src (loopPage n) (0x0D8) _ _ _ (by decide) (by decide) (.inr (by decide)) (by have := n.isLt; unfold loopPage; omega) (by have := n.isLt; unfold loopPage; omega) (by decide) (fun e m => by rw [Device.blockWrite_loop]; unfold Device.loopWrite; dsimp only; rw [if_neg (by decide), if_pos rfl]; simp)

theorem execSceneRequest_frame (src : Source) (data : Word) (s : State) : ∃ u, exec (.sceneRequest src data) s = .next u ∧ Touches 2149061630 s.dev u.dev := by
  refine ⟨_, rfl, ?_⟩
  exact bus_in s.dev s.fuses src 0x030 0x044 _ _ _ (by decide) (by decide) (.inr (by decide)) (by decide) (by decide) (by decide) (fun e m => by unfold Device.blockWrite; rw [show blockOf 0x030 = some .seq by decide]; dsimp only; unfold Device.seqWrite; simp)

theorem execLatchedRequestStart_frame  (s : State) : ∃ u, exec (.latchedRequestStart ) s = .next u ∧ Touches 2149061606 s.dev u.dev := by
  refine ⟨_, rfl, ?_⟩
  dsimp only; simp

theorem execEntryStart_frame (i : Fin 128) (vmon : Nat) (s : State) : ∃ u, exec (.entryStart i vmon) s = .next u ∧ Touches 2149061606 s.dev u.dev := by
  refine ⟨_, rfl, ?_⟩
  dsimp only; simp

theorem execRailPowerGood_frame (i : Fin 96) (readings : List Nat) (s : State) : ∃ u, exec (.railPowerGood i readings) s = .next u ∧ Touches 2149061606 s.dev u.dev := by
  refine ⟨_, rfl, ?_⟩
  dsimp only; simp

theorem execWrapOffDelayExpiry_frame (i : Fin 128) (reading : Nat) (s : State) : ∃ u, exec (.wrapOffDelayExpiry i reading) s = .next u ∧ Touches 2149061606 s.dev u.dev := by
  refine ⟨_, rfl, ?_⟩
  dsimp only; simp

theorem execWrapStepAdvance_frame  (s : State) : ∃ u, exec (.wrapStepAdvance ) s = .next u ∧ Touches 2149061606 s.dev u.dev := by
  refine ⟨_, rfl, ?_⟩
  dsimp only; simp

theorem execRailDischarged_frame (i : Fin 96) (readings : List Nat) (s : State) : ∃ u, exec (.railDischarged i readings) s = .next u ∧ Touches 2149061606 s.dev u.dev := by
  refine ⟨_, rfl, ?_⟩
  dsimp only; simp

theorem execEnlatchRestart_frame (i : Fin 128) (s : State) : ∃ u, exec (.enlatchRestart i) s = .next u ∧ Touches 2149061606 s.dev u.dev := by
  refine ⟨_, rfl, ?_⟩
  dsimp only; simp

theorem execDischargeTimeout_frame (i : Fin 96) (s : State) : ∃ u, exec (.dischargeTimeout i) s = .next u ∧ Touches 2149061606 s.dev u.dev := by
  refine ⟨_, rfl, ?_⟩
  dsimp only; simp

theorem execPgTimeout_frame (i : Fin 96) (s : State) : ∃ u, exec (.pgTimeout i) s = .next u ∧ Touches 2149061606 s.dev u.dev := by
  refine ⟨_, rfl, ?_⟩
  dsimp only; simp

theorem execRailMonitorFault_frame (i : Fin 96) (det : RailDetect) (readings : List Nat) (s : State) : ∃ u, exec (.railMonitorFault i det readings) s = .next u ∧ Touches 2149061606 s.dev u.dev := by
  refine ⟨_, rfl, ?_⟩
  dsimp only; simp

theorem execRetryDelayExpiry_frame  (s : State) : ∃ u, exec (.retryDelayExpiry ) s = .next u ∧ Touches 2149061606 s.dev u.dev := by
  refine ⟨_, rfl, ?_⟩
  dsimp only; simp

theorem execRailOn_frame (src : Source) (i : Fin 128) (s : State) : ∃ u, exec (.railOn src i) s = .next u ∧ Touches 2149061630 s.dev u.dev := by
  refine ⟨_, rfl, ?_⟩
  exact bus_in s.dev s.fuses src 0x030 0x04C _ _ _ (by decide) (by decide) (.inr (by decide)) (by decide) (by decide) (by decide) (fun e m => by unfold Device.blockWrite; rw [show blockOf 0x030 = some .seq by decide]; dsimp only; unfold Device.seqWrite; dsimp only; rw [if_pos rfl, if_neg (show ¬ ((0x04C : Nat) = 0x044) by decide), if_pos (show (0x04C : Nat) = 0x04C from rfl)]; split <;> first | (simp; done) | (split <;> simp))

theorem execRailSoftOff_frame (src : Source) (i : Fin 128) (s : State) : ∃ u, exec (.railSoftOff src i) s = .next u ∧ Touches 2149061630 s.dev u.dev := by
  refine ⟨_, rfl, ?_⟩
  exact bus_in s.dev s.fuses src 0x030 0x04C _ _ _ (by decide) (by decide) (.inr (by decide)) (by decide) (by decide) (by decide) (fun e m => by unfold Device.blockWrite; rw [show blockOf 0x030 = some .seq by decide]; dsimp only; unfold Device.seqWrite; dsimp only; rw [if_pos rfl, if_neg (show ¬ ((0x04C : Nat) = 0x044) by decide), if_pos (show (0x04C : Nat) = 0x04C from rfl)]; split <;> first | (simp; done) | (split <;> simp))

theorem execRailImmediateOff_frame (src : Source) (i : Fin 128) (s : State) : ∃ u, exec (.railImmediateOff src i) s = .next u ∧ Touches 2149061630 s.dev u.dev := by
  refine ⟨_, rfl, ?_⟩
  exact bus_in s.dev s.fuses src 0x030 0x04C _ _ _ (by decide) (by decide) (.inr (by decide)) (by decide) (by decide) (by decide) (fun e m => by unfold Device.blockWrite; rw [show blockOf 0x030 = some .seq by decide]; dsimp only; unfold Device.seqWrite; dsimp only; rw [if_pos rfl, if_neg (show ¬ ((0x04C : Nat) = 0x044) by decide), if_pos (show (0x04C : Nat) = 0x04C from rfl)]; split <;> first | (simp; done) | (split <;> simp))

theorem execRailClear_frame (src : Source) (i : Fin 128) (s : State) : ∃ u, exec (.railClear src i) s = .next u ∧ Touches 2149061630 s.dev u.dev := by
  refine ⟨_, rfl, ?_⟩
  exact bus_in s.dev s.fuses src 0x030 0x04C _ _ _ (by decide) (by decide) (.inr (by decide)) (by decide) (by decide) (by decide) (fun e m => by unfold Device.blockWrite; rw [show blockOf 0x030 = some .seq by decide]; dsimp only; unfold Device.seqWrite; dsimp only; rw [if_pos rfl, if_neg (show ¬ ((0x04C : Nat) = 0x044) by decide), if_pos (show (0x04C : Nat) = 0x04C from rfl)]; split <;> first | (simp; done) | (split <;> simp))

theorem execHeldRailRequestStart_frame  (s : State) : ∃ u, exec (.heldRailRequestStart ) s = .next u ∧ Touches 2149061606 s.dev u.dev := by
  refine ⟨_, rfl, ?_⟩
  dsimp only; simp

theorem execSeqForce_frame (src : Source) (data : Word) (s : State) : ∃ u, exec (.seqForce src data) s = .next u ∧ Touches 2149061630 s.dev u.dev := by
  refine ⟨_, rfl, ?_⟩
  exact bus_in s.dev s.fuses src 0x030 0x050 _ _ _ (by decide) (by decide) (.inr (by decide)) (by decide) (by decide) (by decide) (fun e m => by unfold Device.blockWrite; rw [show blockOf 0x030 = some .seq by decide]; dsimp only; unfold Device.seqWrite; simp)

theorem execTakeResume_frame  (s : State) : ∃ u, exec (.takeResume ) s = .next u ∧ Touches 2149061606 s.dev u.dev := by
  refine ⟨_, rfl, ?_⟩
  dsimp only; simp

theorem execResetStretchElapsed_frame (k : Fin 32) (s : State) : ∃ u, exec (.resetStretchElapsed k) s = .next u ∧ Touches 2149061606 s.dev u.dev := by
  refine ⟨_, rfl, ?_⟩
  dsimp only; simp

theorem execSrcClassAdopt_frame (mv : Vector Nat 4) (s : State) : ∃ u, exec (.srcClassAdopt mv) s = .next u ∧ Touches 16388 s.dev u.dev := by
  refine ⟨_, rfl, ?_⟩
  dsimp only; simp

theorem execInputLimitThrottle_frame (x : HupPins) (s : State) : ∃ u, exec (.inputLimitThrottle x) s = .next u ∧ Touches 2149110759 s.dev u.dev := by
  refine ⟨_, rfl, ?_⟩
  dsimp only; simp

theorem execSourceOverloadTimeout_frame (x : HupPins) (s : State) : ∃ u, exec (.sourceOverloadTimeout x) s = .next u ∧ Touches 16388 s.dev u.dev := by
  refine ⟨_, rfl, ?_⟩
  dsimp only; simp

theorem execShareEnd_frame (x : HupPins) (s : State) : ∃ u, exec (.shareEnd x) s = .next u ∧ Touches 2149110759 s.dev u.dev := by
  refine ⟨_, rfl, ?_⟩
  dsimp only; simp

theorem execPowerPathDetectEnd_frame (low : Bool) (x : HupPins) (s : State) : ∃ u, exec (.powerPathDetectEnd low x) s = .next u ∧ Touches 2149110759 s.dev u.dev := by
  refine ⟨_, rfl, ?_⟩
  dsimp only; simp

theorem execPackQualified_frame (x : HupPins) (s : State) : ∃ u, exec (.packQualified x) s = .next u ∧ Touches 2149110759 s.dev u.dev := by
  refine ⟨_, rfl, ?_⟩
  dsimp only; simp

theorem execPowerPathInhibit_frame (x : HupPins) (s : State) : ∃ u, exec (.powerPathInhibit x) s = .next u ∧ Touches 2149110759 s.dev u.dev := by
  refine ⟨_, rfl, ?_⟩
  dsimp only; simp

theorem execConverterFault_frame (x : HupPins) (s : State) : ∃ u, exec (.converterFault x) s = .next u ∧ Touches 2149110759 s.dev u.dev := by
  refine ⟨_, rfl, ?_⟩
  dsimp only; simp

theorem execHupEnableWrite_frame (src : Source) (enable : Bool) (s : State) : ∃ u, exec (.hupEnableWrite src enable) s = .next u ∧ Touches 2149110783 s.dev u.dev := by
  refine ⟨_, rfl, ?_⟩
  exact bus_head s.dev s.fuses src 0x040 0x008 _ _ _ (by decide) (by decide) (by decide) (by decide) (arrive_in s.dev src _ (by decide) (by decide) (by decide)) (fun m => ctl_in s.dev _ (pg 0x040) src m enable 0 (by decide) (by decide) (fun who => by unfold Device.enableWrite; dsimp only; rw [show blockOf (pg 0x040).val = some .hup by decide]; dsimp only; (repeat' split) <;> first | simp; done | contradiction))

theorem execHupEnableDeferred_frame  (s : State) : ∃ u, exec (.hupEnableDeferred ) s = .next u ∧ Touches 2149110759 s.dev u.dev := by
  refine ⟨_, rfl, ?_⟩
  dsimp only; simp

theorem execSagDetect_frame (x : SagPins) (iL0 : Int) (s : State) : ∃ u, exec (.sagDetect x iL0) s = .next u ∧ Touches 2149110759 s.dev u.dev := by
  refine ⟨_, rfl, ?_⟩
  dsimp only; simp

theorem execSagNoHandover_frame (x : SagPins) (s : State) : ∃ u, exec (.sagNoHandover x) s = .next u ∧ Touches 16384 s.dev u.dev := by
  refine ⟨_, rfl, ?_⟩
  dsimp only; simp

theorem execStartPulseEnd_frame  (s : State) : ∃ u, exec (.startPulseEnd ) s = .next u ∧ Touches 16384 s.dev u.dev := by
  refine ⟨_, rfl, ?_⟩
  dsimp only; simp

theorem execHandoverComplete_frame (x : HupPins) (s : State) : ∃ u, exec (.handoverComplete x) s = .next u ∧ Touches 2149110759 s.dev u.dev := by
  refine ⟨_, rfl, ?_⟩
  dsimp only; simp

theorem execHandoverTimeout_frame  (s : State) : ∃ u, exec (.handoverTimeout ) s = .next u ∧ Touches 2149110759 s.dev u.dev := by
  refine ⟨_, rfl, ?_⟩
  dsimp only; simp

theorem execSourceQualified_frame (x : HupPins) (s : State) : ∃ u, exec (.sourceQualified x) s = .next u ∧ Touches 2149110759 s.dev u.dev := by
  refine ⟨_, rfl, ?_⟩
  dsimp only; simp

theorem execReturnComplete_frame (x : HupPins) (s : State) : ∃ u, exec (.returnComplete x) s = .next u ∧ Touches 2149110759 s.dev u.dev := by
  refine ⟨_, rfl, ?_⟩
  dsimp only; simp

theorem execPackEmpty_frame (x : HupPins) (s : State) : ∃ u, exec (.packEmpty x) s = .next u ∧ Touches 2149110759 s.dev u.dev := by
  refine ⟨_, rfl, ?_⟩
  dsimp only; simp

theorem execPackRemoval_frame (how : Removal) (s : State) : ∃ u, exec (.packRemoval how) s = .next u ∧ Touches 2149110759 s.dev u.dev := by
  refine ⟨_, rfl, ?_⟩
  dsimp only; simp

theorem execChargerCommandWrite_frame (src : Source) (be : BitVec 4) (data : Word) (s : State) : ∃ u, exec (.chargerCommandWrite src be data) s = .next u ∧ Touches 2148569117 s.dev u.dev := by
  refine ⟨_, rfl, ?_⟩
  exact bus_in s.dev s.fuses src 0x041 0x048 _ _ _ (by decide) (by decide) (.inr (by decide)) (by decide) (by decide) (by decide) (fun e m => by unfold Device.blockWrite; rw [show blockOf 0x041 = some .hup by decide]; dsimp only; unfold Device.hupWrite; simp)

theorem execChargerWatchdogExpiry_frame  (s : State) : ∃ u, exec (.chargerWatchdogExpiry ) s = .next u ∧ Touches 2147520516 s.dev u.dev := by
  refine ⟨_, rfl, ?_⟩
  dsimp only; simp

theorem execChargerQual_frame (x : HupPins) (s : State) : ∃ u, exec (.chargerQual x) s = .next u ∧ Touches 2149110759 s.dev u.dev := by
  refine ⟨_, rfl, ?_⟩
  dsimp only; simp

theorem execPrechargeDone_frame (x : HupPins) (s : State) : ∃ u, exec (.prechargeDone x) s = .next u ∧ Touches 2147536900 s.dev u.dev := by
  refine ⟨_, rfl, ?_⟩
  dsimp only; simp

theorem execPrechargeTimeout_frame  (s : State) : ∃ u, exec (.prechargeTimeout ) s = .next u ∧ Touches 2149110759 s.dev u.dev := by
  refine ⟨_, rfl, ?_⟩
  dsimp only; simp

theorem execCvReached_frame (x : HupPins) (s : State) : ∃ u, exec (.cvReached x) s = .next u ∧ Touches 2147536900 s.dev u.dev := by
  refine ⟨_, rfl, ?_⟩
  dsimp only; simp

theorem execChargeTerminated_frame (x : HupPins) (s : State) : ∃ u, exec (.chargeTerminated x) s = .next u ∧ Touches 2149176295 s.dev u.dev := by
  refine ⟨_, rfl, ?_⟩
  dsimp only; simp

theorem execRecharge_frame (x : HupPins) (s : State) : ∃ u, exec (.recharge x) s = .next u ∧ Touches 2147536900 s.dev u.dev := by
  refine ⟨_, rfl, ?_⟩
  dsimp only; simp

theorem execChargeTimeout_frame  (s : State) : ∃ u, exec (.chargeTimeout ) s = .next u ∧ Touches 2149110759 s.dev u.dev := by
  refine ⟨_, rfl, ?_⟩
  dsimp only; simp

theorem execChargerOvFault_frame (x : HupPins) (s : State) : ∃ u, exec (.chargerOvFault x) s = .next u ∧ Touches 2149110759 s.dev u.dev := by
  refine ⟨_, rfl, ?_⟩
  dsimp only; simp

theorem execChargerSuspend_frame (x : HupPins) (s : State) : ∃ u, exec (.chargerSuspend x) s = .next u ∧ Touches 2147536900 s.dev u.dev := by
  refine ⟨_, rfl, ?_⟩
  dsimp only; simp

theorem execChargerDrainComplete_frame (x : HupPins) (late : Bool) (s : State) : ∃ u, exec (.chargerDrainComplete x late) s = .next u ∧ Touches 2149110759 s.dev u.dev := by
  refine ⟨_, rfl, ?_⟩
  dsimp only; simp

theorem execChargerResume_frame (x : HupPins) (s : State) : ∃ u, exec (.chargerResume x) s = .next u ∧ Touches 2147536900 s.dev u.dev := by
  refine ⟨_, rfl, ?_⟩
  dsimp only; simp

theorem execChargeBandChange_frame  (s : State) : ∃ u, exec (.chargeBandChange ) s = .next u ∧ Touches 2147520516 s.dev u.dev := by
  refine ⟨_, rfl, ?_⟩
  dsimp only; simp

theorem execAoWake_frame (how : WakeCause) (s : State) : ∃ u, exec (.aoWake how) s = .next u ∧ Touches 196608 s.dev u.dev := by
  refine ⟨_, rfl, ?_⟩
  dsimp only; unfold Device.aoWakeBy; (repeat' split) <;> simp

theorem execHibernateEnter_frame  (s : State) : ∃ u, exec (.hibernateEnter ) s = .next u ∧ Touches 131072 s.dev u.dev := by
  refine ⟨_, rfl, ?_⟩
  dsimp only; simp

theorem execOcvSample_frame (pin : Rat) (s : State) : ∃ u, exec (.ocvSample pin) s = .next u ∧ Touches 65536 s.dev u.dev := by
  refine ⟨_, rfl, ?_⟩
  dsimp only; simp

theorem execGaugeAnchorWrite_frame (src : Source) (s : State) : ∃ u, exec (.gaugeAnchorWrite src) s = .next u ∧ Touches 2148732956 s.dev u.dev := by
  refine ⟨_, rfl, ?_⟩
  exact bus_gau s.dev s.fuses src 0x074 _ _ _ (by decide) (by decide) (by decide) (by decide) (fun e m => by unfold Device.blockWrite; rw [show blockOf 0x044 = some .gau by decide]; dsimp only; unfold Device.gauWrite; simp)

theorem execGaugeEstimateUpdate_frame (sec : GaugeSecond) (s : State) : ∃ u, exec (.gaugeEstimateUpdate sec) s = .next u ∧ Touches 2149143527 s.dev u.dev := by
  refine ⟨_, rfl, ?_⟩
  dsimp only; simp

theorem execGaugeStarved_frame  (s : State) : ∃ u, exec (.gaugeStarved ) s = .next u ∧ Touches 2147553284 s.dev u.dev := by
  refine ⟨_, rfl, ?_⟩
  dsimp only; simp

theorem execGaugeCommit_frame (src : Source) (s : State) : ∃ u, exec (.gaugeCommit src) s = .next u ∧ Touches 2148732956 s.dev u.dev := by
  refine ⟨_, rfl, ?_⟩
  exact bus_gau s.dev s.fuses src 0x074 _ _ _ (by decide) (by decide) (by decide) (by decide) (fun e m => by unfold Device.blockWrite; rw [show blockOf 0x044 = some .gau by decide]; dsimp only; unfold Device.gauWrite; simp)

theorem execGaugeCommitComplete_frame (inhibited : Bool) (s : State) : ∃ u, exec (.gaugeCommitComplete inhibited) s = .next u ∧ Touches 2147553286 s.dev u.dev := by
  refine ⟨_, rfl, ?_⟩
  dsimp only; simp

theorem execGaugeRestore_frame (src : Source) (key : BitVec 16) (packDet : Bool) (s : State) : ∃ u, exec (.gaugeRestore src key packDet) s = .next u ∧ Touches 2148732956 s.dev u.dev := by
  refine ⟨_, rfl, ?_⟩
  exact bus_gau s.dev s.fuses src 0x078 _ _ _ (by decide) (by decide) (by decide) (by decide) (fun e m => by unfold Device.blockWrite; rw [show blockOf 0x044 = some .gau by decide]; dsimp only; unfold Device.gauWrite; simp)

theorem execGaugeUnload_frame (src : Source) (key : BitVec 16) (s : State) : ∃ u, exec (.gaugeUnload src key) s = .next u ∧ Touches 2148732956 s.dev u.dev := by
  refine ⟨_, rfl, ?_⟩
  exact bus_gau s.dev s.fuses src 0x078 _ _ _ (by decide) (by decide) (by decide) (by decide) (fun e m => by unfold Device.blockWrite; rw [show blockOf 0x044 = some .gau by decide]; dsimp only; unfold Device.gauWrite; simp)

theorem execGaugeNopack_frame  (s : State) : ∃ u, exec (.gaugeNopack ) s = .next u ∧ Touches 2147553284 s.dev u.dev := by
  refine ⟨_, rfl, ?_⟩
  dsimp only; simp

theorem execGaugePackReturn_frame  (s : State) : ∃ u, exec (.gaugePackReturn ) s = .next u ∧ Touches 2147553284 s.dev u.dev := by
  refine ⟨_, rfl, ?_⟩
  dsimp only; simp

theorem execGauAccRead_frame (src : Source) (s : State) : ∃ u, exec (.gauAccRead src) s = .next u ∧ Touches 2151354396 s.dev u.dev := by
  refine ⟨_, rfl, ?_⟩
  dsimp only; simp

theorem execThermalScanFrame_frame (x : ThermFrame) (s : State) : ∃ u, exec (.thermalScanFrame x) s = .next u ∧ Touches 2147488804 s.dev u.dev := by
  refine ⟨_, rfl, ?_⟩
  dsimp only; simp

theorem execThmClr_frame (src : Source) (data : Word) (s : State) : ∃ u, exec (.thmClr src data) s = .next u ∧ Touches 2148537372 s.dev u.dev := by
  refine ⟨_, rfl, ?_⟩
  exact bus_in s.dev s.fuses src 0x048 0x084 _ _ _ (by decide) (by decide) (.inr (by decide)) (by decide) (by decide) (by decide) (fun e m => by unfold Device.blockWrite; rw [show blockOf 0x048 = some .thm by decide]; dsimp only; unfold Device.thmWrite; simp)

theorem execFaultLatch_frame  (s : State) : ∃ u, exec (.faultLatch ) s = .next u ∧ Touches 36512996326 s.dev u.dev := by
  refine ⟨_, rfl, ?_⟩
  dsimp only; simp

theorem execFaultLineRelease_frame (c : Fin 64) (s : State) : ∃ u, exec (.faultLineRelease c) s = .next u ∧ Touches 2149063654 s.dev u.dev := by
  refine ⟨_, rfl, ?_⟩
  dsimp only; simp

theorem execFaultClear_frame (src : Source) (hi : Bool) (be : BitVec 4) (data : Word) (s : State) : ∃ u, exec (.faultClear src hi be data) s = .next u ∧ Touches 2149194750 s.dev u.dev := by
  refine ⟨_, rfl, ?_⟩
  cases hi; exact bus_in s.dev s.fuses src 0x050 0x040 _ _ _ (by decide) (by decide) (.inr (by decide)) (by decide) (by decide) (by decide) (fun e m => by unfold Device.blockWrite; rw [show blockOf 0x050 = some .flt by decide]; dsimp only; unfold Device.fltWrite; simp); exact bus_in s.dev s.fuses src 0x050 0x044 _ _ _ (by decide) (by decide) (.inr (by decide)) (by decide) (by decide) (by decide) (fun e m => by unfold Device.blockWrite; rw [show blockOf 0x050 = some .flt by decide]; dsimp only; unfold Device.fltWrite; simp)

theorem execFaultInject_frame (src : Source) (data : Word) (s : State) : ∃ u, exec (.faultInject src data) s = .next u ∧ Touches 2148538396 s.dev u.dev := by
  refine ⟨_, rfl, ?_⟩
  exact bus_in s.dev s.fuses src 0x050 0x06C _ _ _ (by decide) (by decide) (.inr (by decide)) (by decide) (by decide) (by decide) (fun e m => by unfold Device.blockWrite; rw [show blockOf 0x050 = some .flt by decide]; dsimp only; unfold Device.fltWrite; simp)

theorem execEfiInput_frame (m : Fin 8) (x : EfiLevel) (s : State) : ∃ u, exec (.efiInput m x) s = .next u ∧ Touches 2048 s.dev u.dev := by
  refine ⟨_, rfl, ?_⟩
  dsimp only; simp

theorem execWdtArm_frame (k : Fin 9) (src : Source) (dt : Nat) (s : State) : ∃ u, exec (.wdtArm k src dt) s = .next u ∧ Touches 53932454911 s.dev u.dev := by
  refine ⟨_, rfl, ?_⟩
  exact bus_in s.dev s.fuses src (wdtPage k) 0x054 _ _ _ (by decide) (by decide) (.inr (by decide)) (by have := k.isLt; unfold wdtPage; omega) (by have := k.isLt; unfold wdtPage; omega) (by decide) (fun e m => by rw [Device.blockWrite_wdt]; unfold Device.wdtWrite; dsimp only; simp)

theorem execWdtDisarm_frame (k : Fin 9) (src : Source) (dt : Nat) (key : BitVec 16) (s : State) : ∃ u, exec (.wdtDisarm k src dt key) s = .next u ∧ Touches 53932454911 s.dev u.dev := by
  refine ⟨_, rfl, ?_⟩
  exact bus_in s.dev s.fuses src (wdtPage k) 0x054 _ _ _ (by decide) (by decide) (.inr (by decide)) (by have := k.isLt; unfold wdtPage; omega) (by have := k.isLt; unfold wdtPage; omega) (by decide) (fun e m => by rw [Device.blockWrite_wdt]; unfold Device.wdtWrite; dsimp only; simp)

theorem execWdtCheckin_frame (k : Fin 9) (src : Source) (dt : Nat) (task : BitVec 16) (s : State) : ∃ u, exec (.wdtCheckin k src dt task) s = .next u ∧ Touches 53932454911 s.dev u.dev := by
  refine ⟨_, rfl, ?_⟩
  exact bus_in s.dev s.fuses src (wdtPage k) 0x058 _ _ _ (by decide) (by decide) (.inr (by decide)) (by have := k.isLt; unfold wdtPage; omega) (by have := k.isLt; unfold wdtPage; omega) (by decide) (fun e m => by rw [Device.blockWrite_wdt]; unfold Device.wdtWrite; dsimp only; simp)

theorem execWdtAnswer_frame (k : Fin 9) (src : Source) (dt : Nat) (token : BitVec 16) (s : State) : ∃ u, exec (.wdtAnswer k src dt token) s = .next u ∧ Touches 53932454911 s.dev u.dev := by
  refine ⟨_, rfl, ?_⟩
  exact bus_in s.dev s.fuses src (wdtPage k) 0x060 _ _ _ (by decide) (by decide) (.inr (by decide)) (by have := k.isLt; unfold wdtPage; omega) (by have := k.isLt; unfold wdtPage; omega) (by decide) (fun e m => by rw [Device.blockWrite_wdt]; unfold Device.wdtWrite; dsimp only; simp)

theorem execWdtWindowLate_frame (k : Fin 9) (dt : Nat) (s : State) : ∃ u, exec (.wdtWindowLate k dt) s = .next u ∧ Touches 53932454911 s.dev u.dev := by
  refine ⟨_, rfl, ?_⟩
  dsimp only; simp

theorem execWdtHoldElapsed_frame (x : WdtTicks) (s : State) : ∃ u, exec (.wdtHoldElapsed x) s = .next u ∧ Touches 53932454911 s.dev u.dev := by
  refine ⟨_, rfl, ?_⟩
  dsimp only; simp

theorem execWdtChallengeQueue_frame (k : Fin 9) (src : Source) (chal : BitVec 16) (s : State) : ∃ u, exec (.wdtChallengeQueue k src chal) s = .next u ∧ Touches 53932454911 s.dev u.dev := by
  refine ⟨_, rfl, ?_⟩
  exact bus_in s.dev s.fuses src (wdtPage k) 0x078 _ _ _ (by decide) (by decide) (.inr (by decide)) (by have := k.isLt; unfold wdtPage; omega) (by have := k.isLt; unfold wdtPage; omega) (by decide) (fun e m => by rw [Device.blockWrite_wdt]; unfold Device.wdtWrite; dsimp only; simp)

theorem execEventArrival_frame (e : Fin 256) (payload : Word) (s : State) : ∃ u, exec (.eventArrival e payload) s = .next u ∧ Touches 2147487748 s.dev u.dev := by
  refine ⟨_, rfl, ?_⟩
  dsimp only; simp

theorem execEventSelect_frame  (s : State) : ∃ u, exec (.eventSelect ) s = .next u ∧ Touches 36521119750 s.dev u.dev := by
  refine ⟨_, rfl, ?_⟩
  dsimp only; simp

theorem execEventRecordFault_frame  (s : State) : ∃ u, exec (.eventRecordFault ) s = .next u ∧ Touches 36521119750 s.dev u.dev := by
  refine ⟨_, rfl, ?_⟩
  dsimp only; simp

theorem execEventEoi_frame (t : Fin 9) (src : Source) (e : BitVec 8) (s : State) : ∃ u, exec (.eventEoi t src e) s = .next u ∧ Touches 2148536348 s.dev u.dev := by
  refine ⟨_, rfl, ?_⟩
  exact bus_in s.dev s.fuses src 0x060 (0x100 + 0x20 * t.val + 0x18) _ _ _ (by omega) (by omega) (.inr (by omega)) (by decide) (by decide) (by decide) (fun e m => by unfold Device.blockWrite; rw [show blockOf 0x060 = some .evc by decide]; dsimp only; unfold Device.evcWrite; (try dsimp only); rw [if_neg (show ¬ (0x100 + 0x20 * t.val + 0x18 = 0x080) by omega), if_neg (show ¬ (0x100 + 0x20 * t.val + 0x18 = 0x084) by omega), targetAt_target t 0x18 (by decide)]; (try dsimp only); rw [show (0x100 + 0x20 * t.val + 0x18 - 0x100) % 0x20 = 0x18 by omega, if_pos rfl]; show Touches _ _ (e.evEoi _ _); simp)

theorem execEventRingRdWrite_frame (t : Fin 9) (src : Source) (rd : BitVec 16) (s : State) : ∃ u, exec (.eventRingRdWrite t src rd) s = .next u ∧ Touches 36520857628 s.dev u.dev := by
  refine ⟨_, rfl, ?_⟩
  exact bus_in s.dev s.fuses src 0x060 (0x100 + 0x20 * t.val + 0x0C) _ _ _ (by omega) (by omega) (.inr (by omega)) (by decide) (by decide) (by decide) (fun e m => by unfold Device.blockWrite; rw [show blockOf 0x060 = some .evc by decide]; dsimp only; unfold Device.evcWrite; (try dsimp only); rw [if_neg (show ¬ (0x100 + 0x20 * t.val + 0x0C = 0x080) by omega), if_neg (show ¬ (0x100 + 0x20 * t.val + 0x0C = 0x084) by omega), targetAt_target t 0x0C (by decide)]; (try dsimp only); rw [show (0x100 + 0x20 * t.val + 0x0C - 0x100) % 0x20 = 0x0C by omega, if_pos rfl]; show Touches _ _ (e.evRdWrite _ _); simp)

theorem execEventTargetEnable_frame (t : Fin 9) (src : Source) (s : State) : ∃ u, exec (.eventTargetEnable t src) s = .next u ∧ Touches 2156924959 s.dev u.dev := by
  refine ⟨_, rfl, ?_⟩
  exact bus_in s.dev s.fuses src 0x060 (0x100 + 0x20 * t.val + 0x00) _ _ _ (by omega) (by omega) (.inr (by omega)) (by decide) (by decide) (by decide) (fun e m => by unfold Device.blockWrite; rw [show blockOf 0x060 = some .evc by decide]; dsimp only; unfold Device.evcWrite; (try dsimp only); rw [if_neg (show ¬ (0x100 + 0x20 * t.val + 0x00 = 0x080) by omega), if_neg (show ¬ (0x100 + 0x20 * t.val + 0x00 = 0x084) by omega), targetAt_target t 0x00 (by decide)]; (try dsimp only); rw [show (0x100 + 0x20 * t.val + 0x00 - 0x100) % 0x20 = 0x00 by omega, if_pos rfl]; show Touches _ _ (e.tctlWrite _ _); simp)

theorem execEventTargetDisable_frame (t : Fin 9) (src : Source) (s : State) : ∃ u, exec (.eventTargetDisable t src) s = .next u ∧ Touches 2156924959 s.dev u.dev := by
  refine ⟨_, rfl, ?_⟩
  exact bus_in s.dev s.fuses src 0x060 (0x100 + 0x20 * t.val + 0x00) _ _ _ (by omega) (by omega) (.inr (by omega)) (by decide) (by decide) (by decide) (fun e m => by unfold Device.blockWrite; rw [show blockOf 0x060 = some .evc by decide]; dsimp only; unfold Device.evcWrite; (try dsimp only); rw [if_neg (show ¬ (0x100 + 0x20 * t.val + 0x00 = 0x080) by omega), if_neg (show ¬ (0x100 + 0x20 * t.val + 0x00 = 0x084) by omega), targetAt_target t 0x00 (by decide)]; (try dsimp only); rw [show (0x100 + 0x20 * t.val + 0x00 - 0x100) % 0x20 = 0x00 by omega, if_pos rfl]; show Touches _ _ (e.tctlWrite _ _); simp)

theorem execEvcRaise_frame (src : Source) (n : Fin 2) (data : Word) (s : State) : ∃ u, exec (.evcRaise src n data) s = .next u ∧ Touches 36520857631 s.dev u.dev := by
  refine ⟨_, rfl, ?_⟩
  exact bus_in s.dev s.fuses src 0x060 (0x080 + 4 * n.val) _ _ _ (by omega) (by omega) (.inr (by omega)) (by decide) (by decide) (by decide) (fun e m => by unfold Device.blockWrite; rw [show blockOf 0x060 = some .evc by decide]; dsimp only; unfold Device.evcWrite; dsimp only; (repeat' split) <;> simp)

theorem execRingEnable_frame (src : Source) (r : Fin 32) (enable : Bool) (s : State) : ∃ u, exec (.ringEnable src r enable) s = .next u ∧ Touches 36508536862 s.dev u.dev := by
  refine ⟨_, rfl, ?_⟩
  have hv : (pg (ringPage r)).val = ringPage r := by have := r.isLt; show (ringPage r) % 256 = _; unfold ringPage; omega
  have hb : isBlockPage (ringPage r) = true := by revert r; decide
  have h := bus_head (S := 36508536862) s.dev s.fuses src (ringPage r) 0x008 0xF (setBit (s.dev.ctlWord (pg (ringPage r))) 0 enable) {} hb (by decide) (by decide) (by decide) (arrive_in s.dev src _ (by rw [pageAddr_div _ _ (by decide)]; have := r.isLt; unfold ringPage; omega) (by rw [pageAddr_div _ _ (by decide)]; have := r.isLt; unfold ringPage; omega) (by decide)) (fun m => by have c := ctl_in (S := 36508536862) s.dev (s.dev.arrive src (pageAddr (ringPage r) 0x008)) (pg (ringPage r)) src m enable 0 (by decide) (by decide) (fun who => by rw [hv]; unfold Device.enableWrite ringPage; dsimp only; rw [blockOf_ring]; dsimp only; have := r.isLt; (repeat' split) <;> first | omega | simp); rw [hv] at c; exact c)
  exact h

theorem execRingDoorbell_frame (src : Source) (r : Fin 32) (s : State) : ∃ u, exec (.ringDoorbell src r) s = .next u ∧ Touches 2148798492 s.dev u.dev := by
  refine ⟨_, rfl, ?_⟩
  exact bus_in s.dev s.fuses src (ringPage r) 0x04C _ _ _ (by decide) (by decide) (.inr (by decide)) (by have := r.isLt; unfold ringPage; omega) (by have := r.isLt; unfold ringPage; omega) (by decide) (fun e m => by rw [Device.blockWrite_ring]; unfold Device.ringWrite; dsimp only; simp)

theorem execRingPause_frame (src : Source) (r : Fin 32) (s : State) : ∃ u, exec (.ringPause src r) s = .next u ∧ Touches 36508536862 s.dev u.dev := by
  refine ⟨_, rfl, ?_⟩
  exact bus_in s.dev s.fuses src (ringPage r) 0x050 _ _ _ (by decide) (by decide) (.inr (by decide)) (by have := r.isLt; unfold ringPage; omega) (by have := r.isLt; unfold ringPage; omega) (by decide) (fun e m => by rw [Device.blockWrite_ring]; unfold Device.ringWrite; dsimp only; simp)

theorem execRingResume_frame (src : Source) (r : Fin 32) (s : State) : ∃ u, exec (.ringResume src r) s = .next u ∧ Touches 36508536862 s.dev u.dev := by
  refine ⟨_, rfl, ?_⟩
  exact bus_in s.dev s.fuses src (ringPage r) 0x050 _ _ _ (by decide) (by decide) (.inr (by decide)) (by have := r.isLt; unfold ringPage; omega) (by have := r.isLt; unfold ringPage; omega) (by decide) (fun e m => by rw [Device.blockWrite_ring]; unfold Device.ringWrite; dsimp only; simp)

theorem execDescriptorFetch_frame (r : Fin 32) (host : Vector Word 8) (s : State) : ∃ u, exec (.descriptorFetch r host) s = .next u ∧ Touches 36508536838 s.dev u.dev := by
  refine ⟨_, rfl, ?_⟩
  dsimp only; simp

theorem execBurstStart_frame  (s : State) : ∃ u, exec (.burstStart ) s = .next u ∧ Touches 36508536836 s.dev u.dev := by
  refine ⟨_, rfl, ?_⟩
  dsimp only; simp

theorem execBurstComplete_frame (r : Fin 32) (moved : Nat) (data : List Byte) (s : State) : ∃ u, exec (.burstComplete r moved data) s = .next u ∧ Touches 55280926719 s.dev u.dev := by
  refine ⟨_, rfl, ?_⟩
  dsimp only; simp

theorem execWindowEntryWrite_frame (src : Source) (e : Fin 1024) (one : Bool) (data : Word) (s : State) : ∃ u, exec (.windowEntryWrite src e one data) s = .next u ∧ Touches 2148798493 s.dev u.dev := by
  refine ⟨_, rfl, ?_⟩
  have hb : b2n one ≤ 1 := by cases one <;> decide
  have h8 : (0x110000 + 8 * e.val + 4 * b2n one : Nat) = pageAddr (0x110 + (8 * e.val + 4 * b2n one) / 0x1000) ((8 * e.val + 4 * b2n one) % 0x1000) := by unfold pageAddr; omega
  dsimp only
  rw [h8]
  have hq : (8 * e.val + 4 * b2n one) / 0x1000 = 0 ∨ (8 * e.val + 4 * b2n one) / 0x1000 = 1 := by omega
  refine bus_in s.dev s.fuses src _ _ _ _ _ (by omega) (by omega) (.inl (by omega)) (by omega) (by omega) (by decide) (fun z m => ?_)
  unfold Device.blockWrite
  rw [show blockOf (0x110 + (8 * e.val + 4 * b2n one) / 0x1000) = some .windowTable by rcases hq with h | h <;> rw [h] <;> decide]
  dsimp only
  simp

theorem execXltSync_frame (src : Source) (s : State) : ∃ u, exec (.xltSync src) s = .next u ∧ Touches 2148798492 s.dev u.dev := by
  refine ⟨_, rfl, ?_⟩
  exact bus_in s.dev s.fuses src 0x0A0 0x044 _ _ _ (by decide) (by decide) (.inr (by decide)) (by decide) (by decide) (by decide) (fun e m => by unfold Device.blockWrite; rw [show blockOf 0x0A0 = some .xlt by decide]; dsimp only; unfold Device.xltWrite; simp)

theorem execXltSyncComplete_frame  (s : State) : ∃ u, exec (.xltSyncComplete ) s = .next u ∧ Touches 2147745796 s.dev u.dev := by
  refine ⟨_, rfl, ?_⟩
  dsimp only; simp

theorem execTimestampRead_frame (src : Source) (s : State) : ∃ u, exec (.timestampRead src) s = .next u ∧ Touches 2151354396 s.dev u.dev := by
  refine ⟨_, rfl, ?_⟩
  dsimp only; simp

theorem execTelemetryWindowEnd_frame (x : WindowSamples) (s : State) : ∃ u, exec (.telemetryWindowEnd x) s = .next u ∧ Touches 2149060614 s.dev u.dev := by
  refine ⟨_, rfl, ?_⟩
  dsimp only; simp

theorem execStreamChannelConfig_frame (src : Source) (c : Fin 8) (word : Fin 3) (be : BitVec 4) (data : Word) (s : State) : ∃ u, exec (.streamChannelConfig src c word be data) s = .next u ∧ Touches 2149060639 s.dev u.dev := by
  refine ⟨_, rfl, ?_⟩
  exact bus_in s.dev s.fuses src 0x0B0 (0x080 + 0x10 * c.val + 4 * word.val) _ _ _ (by omega) (by omega) (.inr (by omega)) (by decide) (by decide) (by decide) (fun e m => by unfold Device.blockWrite; rw [show blockOf 0x0B0 = some .tlm by decide]; dsimp only; simp)

theorem execPeakRegisterRead_frame (src : Source) (reg : PeakReg) (s : State) : ∃ u, exec (.peakRegisterRead src reg) s = .next u ∧ Touches 2151354396 s.dev u.dev := by
  refine ⟨_, rfl, ?_⟩
  dsimp only; simp

theorem execRushesTrigger_frame (cause : RushCause) (s : State) : ∃ u, exec (.rushesTrigger cause) s = .next u ∧ Touches 2149060638 s.dev u.dev := by
  
  cases cause with
  | freeze src => refine ⟨_, rfl, ?_⟩; exact bus_in s.dev s.fuses src 0x0B1 0x054 _ _ _ (by decide) (by decide) (.inr (by decide)) (by decide) (by decide) (by decide) (fun e m => by unfold Device.blockWrite; rw [show blockOf 0x0B1 = some .tlm by decide]; dsimp only; unfold Device.tlmWrite; dsimp only [tlmPage, rushPage]; simp)
  | cut v => exact ⟨_, rfl, by dsimp only; simp⟩
  | loopFault v => exact ⟨_, rfl, by dsimp only; simp⟩
  | incident v => exact ⟨_, rfl, by dsimp only; simp⟩

theorem execRushesFrozen_frame  (s : State) : ∃ u, exec (.rushesFrozen ) s = .next u ∧ Touches 2148012036 s.dev u.dev := by
  refine ⟨_, rfl, ?_⟩
  dsimp only; simp

theorem execRushesRearm_frame (src : Source) (s : State) : ∃ u, exec (.rushesRearm src) s = .next u ∧ Touches 2149060638 s.dev u.dev := by
  refine ⟨_, rfl, ?_⟩
  exact bus_in s.dev s.fuses src 0x0B1 0x054 _ _ _ (by decide) (by decide) (.inr (by decide)) (by decide) (by decide) (by decide) (fun e m => by unfold Device.blockWrite; rw [show blockOf 0x0B1 = some .tlm by decide]; dsimp only; unfold Device.tlmWrite; dsimp only [tlmPage, rushPage]; simp)

theorem execDailyPeriodEnd_frame (meas : Vector DailyMeas 16) (battSecs : Nat) (s : State) : ∃ u, exec (.dailyPeriodEnd meas battSecs) s = .next u ∧ Touches 524292 s.dev u.dev := by
  refine ⟨_, rfl, ?_⟩
  dsimp only; simp

theorem execDailyRecordWrite_frame  (s : State) : ∃ u, exec (.dailyRecordWrite ) s = .next u ∧ Touches 19328929798 s.dev u.dev := by
  refine ⟨_, rfl, ?_⟩
  dsimp only; simp

theorem execPmcCounterWrap_frame (c : Fin 64) (s : State) : ∃ u, exec (.pmcCounterWrap c) s = .next u ∧ Touches 2148536324 s.dev u.dev := by
  refine ⟨_, rfl, ?_⟩
  dsimp only; simp

theorem execPmcCounterRead_frame (src : Source) (c : Fin 64) (s : State) : ∃ u, exec (.pmcCounterRead src c) s = .next u ∧ Touches 2151354396 s.dev u.dev := by
  refine ⟨_, rfl, ?_⟩
  dsimp only; simp

theorem execPmcCounterWrite_frame (src : Source) (c : Fin 64) (hi : Bool) (be : BitVec 4) (data : Word) (s : State) : ∃ u, exec (.pmcCounterWrite src c hi be data) s = .next u ∧ Touches 2148536349 s.dev u.dev := by
  refine ⟨_, rfl, ?_⟩
  exact bus_in s.dev s.fuses src 0x0C0 (0x200 + 8 * c.val + 4 * b2n hi) _ _ _ (by cases hi <;> simp [b2n] <;> omega) (by cases hi <;> simp [b2n] <;> omega) (.inr (by omega)) (by decide) (by decide) (by decide) (fun e m => by unfold Device.blockWrite; rw [show blockOf 0x0C0 = some .pmc by decide]; dsimp only; simp)

theorem execClapEdge_frame (fine : Fin 16) (s : State) : ∃ u, exec (.clapEdge fine) s = .next u ∧ Touches 19329974277 s.dev u.dev := by
  refine ⟨_, rfl, ?_⟩
  dsimp only; simp

theorem execClapCommit_frame (num : BitVec 16) (s : State) : ∃ u, exec (.clapCommit num) s = .next u ∧ Touches 19330502660 s.dev u.dev := by
  refine ⟨_, rfl, ?_⟩
  dsimp only; simp

theorem execClapCodeError_frame  (s : State) : ∃ u, exec (.clapCodeError ) s = .next u ∧ Touches 19330502660 s.dev u.dev := by
  refine ⟨_, rfl, ?_⟩
  dsimp only; simp

theorem execClapDrive_frame (src : Source) (s : State) : ∃ u, exec (.clapDrive src) s = .next u ∧ Touches 53690241053 s.dev u.dev := by
  refine ⟨_, rfl, ?_⟩
  exact bus_in s.dev s.fuses src 0x0C4 0x04C _ _ _ (by decide) (by decide) (.inr (by decide)) (by decide) (by decide) (by decide) (fun e m => by unfold Device.blockWrite; rw [show blockOf 0x0C4 = some .syn by decide]; dsimp only; unfold Device.synWrite; simp)

theorem execClapAuto_frame  (s : State) : ∃ u, exec (.clapAuto ) s = .next u ∧ Touches 34361835521 s.dev u.dev := by
  refine ⟨_, rfl, ?_⟩
  dsimp only; simp

theorem execSlateSnap_frame (src : Source) (s : State) : ∃ u, exec (.slateSnap src) s = .next u ∧ Touches 53690241053 s.dev u.dev := by
  refine ⟨_, rfl, ?_⟩
  exact bus_in s.dev s.fuses src 0x0C4 0x04C _ _ _ (by decide) (by decide) (.inr (by decide)) (by decide) (by decide) (by decide) (fun e m => by unfold Device.blockWrite; rw [show blockOf 0x0C4 = some .syn by decide]; dsimp only; unfold Device.synWrite; simp)

theorem execTimeFrame_frame (t : BitVec 64) (cap : BitVec 64) (s : State) : ∃ u, exec (.timeFrame t cap) s = .next u ∧ Touches 6445072388 s.dev u.dev := by
  refine ⟨_, rfl, ?_⟩
  dsimp only; simp

theorem execTimeFrameError_frame  (s : State) : ∃ u, exec (.timeFrameError ) s = .next u ∧ Touches 4 s.dev u.dev := by
  refine ⟨_, rfl, ?_⟩
  dsimp only; simp

theorem execTimeHoldover_frame  (s : State) : ∃ u, exec (.timeHoldover ) s = .next u ∧ Touches 2149580804 s.dev u.dev := by
  refine ⟨_, rfl, ?_⟩
  dsimp only; simp

theorem execTimeFrameSend_frame  (s : State) : ∃ u, exec (.timeFrameSend ) s = .next u ∧ Touches 34359738368 s.dev u.dev := by
  refine ⟨_, rfl, ?_⟩
  dsimp only; simp

theorem execOtpRescan_frame (src : Source) (data : Word) (s : State) : ∃ u, exec (.otpRescan src data) s = .next u ∧ Touches 19361959964 s.dev u.dev := by
  refine ⟨_, rfl, ?_⟩
  exact bus_in s.dev s.fuses src 0x005 0x0C0 _ _ _ (by decide) (by decide) (.inr (by decide)) (by decide) (by decide) (by decide) (fun e m => by unfold Device.blockWrite; rw [show blockOf 0x005 = some .otp by decide]; dsimp only; unfold Device.otpWrite; simp)

theorem execOtpTempScan_frame  (s : State) : ∃ u, exec (.otpTempScan ) s = .next u ∧ Touches 19360911364 s.dev u.dev := by
  refine ⟨_, rfl, ?_⟩
  dsimp only; simp

theorem execOtpScanComplete_frame  (s : State) : ∃ u, exec (.otpScanComplete ) s = .next u ∧ Touches 19360911364 s.dev u.dev := by
  refine ⟨_, rfl, ?_⟩
  dsimp only; simp

theorem execOtpProgram_frame (src : Source) (key : BitVec 16) (s : State) : ∃ u, exec (.otpProgram src key) s = .next u ∧ Touches 19361959964 s.dev u.dev := by
  refine ⟨_, rfl, ?_⟩
  exact bus_in s.dev s.fuses src 0x004 0x054 _ _ _ (by decide) (by decide) (.inr (by decide)) (by decide) (by decide) (by decide) (fun e m => by unfold Device.blockWrite; rw [show blockOf 0x004 = some .otp by decide]; dsimp only; unfold Device.otpWrite; simp)

theorem execOtpTopup_frame (src : Source) (key : BitVec 16) (s : State) : ∃ u, exec (.otpTopup src key) s = .next u ∧ Touches 19361959964 s.dev u.dev := by
  refine ⟨_, rfl, ?_⟩
  exact bus_in s.dev s.fuses src 0x004 0x054 _ _ _ (by decide) (by decide) (.inr (by decide)) (by decide) (by decide) (by decide) (fun e m => by unfold Device.blockWrite; rw [show blockOf 0x004 = some .otp by decide]; dsimp only; unfold Device.otpWrite; simp)

theorem execOtpSeal_frame (src : Source) (key : BitVec 16) (noChk : Bool) (s : State) : ∃ u, exec (.otpSeal src key noChk) s = .next u ∧ Touches 19361959964 s.dev u.dev := by
  refine ⟨_, rfl, ?_⟩
  exact bus_in s.dev s.fuses src 0x004 0x054 _ _ _ (by decide) (by decide) (.inr (by decide)) (by decide) (by decide) (by decide) (fun e m => by unfold Device.blockWrite; rw [show blockOf 0x004 = some .otp by decide]; dsimp only; unfold Device.otpWrite; simp)

theorem execOtpBlow_frame (src : Source) (key : BitVec 16) (s : State) : ∃ u, exec (.otpBlow src key) s = .next u ∧ Touches 19361959964 s.dev u.dev := by
  refine ⟨_, rfl, ?_⟩
  exact bus_in s.dev s.fuses src 0x004 0x054 _ _ _ (by decide) (by decide) (.inr (by decide)) (by decide) (by decide) (by decide) (fun e m => by unfold Device.blockWrite; rw [show blockOf 0x004 = some .otp by decide]; dsimp only; unfold Device.otpWrite; simp)

theorem execOtpVerify_frame (src : Source) (key : BitVec 16) (s : State) : ∃ u, exec (.otpVerify src key) s = .next u ∧ Touches 19361959964 s.dev u.dev := by
  refine ⟨_, rfl, ?_⟩
  exact bus_in s.dev s.fuses src 0x004 0x054 _ _ _ (by decide) (by decide) (.inr (by decide)) (by decide) (by decide) (by decide) (fun e m => by unfold Device.blockWrite; rw [show blockOf 0x004 = some .otp by decide]; dsimp only; unfold Device.otpWrite; simp)

theorem execOtpStop_frame (src : Source) (key : BitVec 16) (s : State) : ∃ u, exec (.otpStop src key) s = .next u ∧ Touches 19361959964 s.dev u.dev := by
  refine ⟨_, rfl, ?_⟩
  exact bus_in s.dev s.fuses src 0x004 0x054 _ _ _ (by decide) (by decide) (.inr (by decide)) (by decide) (by decide) (by decide) (fun e m => by unfold Device.blockWrite; rw [show blockOf 0x004 = some .otp by decide]; dsimp only; unfold Device.otpWrite; simp)

theorem execOtpSupplyReady_frame (ok : Bool) (s : State) : ∃ u, exec (.otpSupplyReady ok) s = .next u ∧ Touches 19360911364 s.dev u.dev := by
  refine ⟨_, rfl, ?_⟩
  dsimp only; simp

theorem execOtpPulseComplete_frame (m1 : Bool) (ok : Bool) (s : State) : ∃ u, exec (.otpPulseComplete m1 ok) s = .next u ∧ Touches 19360911364 s.dev u.dev := by
  refine ⟨_, rfl, ?_⟩
  dsimp only; simp

theorem execOtpRead_frame (src : Source) (data : Word) (s : State) : ∃ u, exec (.otpRead src data) s = .next u ∧ Touches 19361959965 s.dev u.dev := by
  refine ⟨_, rfl, ?_⟩
  exact bus_in s.dev s.fuses src 0x004 0x05C _ _ _ (by decide) (by decide) (.inr (by decide)) (by decide) (by decide) (by decide) (fun e m => by unfold Device.blockWrite; rw [show blockOf 0x004 = some .otp by decide]; dsimp only; unfold Device.otpWrite; simp)

theorem execOtpReadComplete_frame  (s : State) : ∃ u, exec (.otpReadComplete ) s = .next u ∧ Touches 19360911364 s.dev u.dev := by
  refine ⟨_, rfl, ?_⟩
  dsimp only; simp

theorem execOtpReload_frame (src : Source) (data : Word) (s : State) : ∃ u, exec (.otpReload src data) s = .next u ∧ Touches 54806762495 s.dev u.dev := by
  refine ⟨_, rfl, ?_⟩
  exact bus_in s.dev s.fuses src 0x005 0x0C4 _ _ _ (by decide) (by decide) (.inr (by decide)) (by decide) (by decide) (by decide) (fun e m => by unfold Device.blockWrite; rw [show blockOf 0x005 = some .otp by decide]; dsimp only; unfold Device.otpWrite; simp)

theorem execOtpReloadDeferred_frame  (s : State) : ∃ u, exec (.otpReloadDeferred ) s = .next u ∧ Touches 54806762487 s.dev u.dev := by
  refine ⟨_, rfl, ?_⟩
  dsimp only; simp

theorem execHkcRestart_frame (src : Source) (data : Word) (s : State) : ∃ u, exec (.hkcRestart src data) s = .next u ∧ Touches 19429077020 s.dev u.dev := by
  refine ⟨_, rfl, ?_⟩
  exact bus_in s.dev s.fuses src 0x006 0x040 _ _ _ (by decide) (by decide) (.inr (by decide)) (by decide) (by decide) (by decide) (fun e m => by unfold Device.blockWrite; rw [show blockOf 0x006 = some .hkc by decide]; dsimp only; unfold Device.hkcWrite; simp)

theorem execCoreRestartComplete_frame (challenges : Vector (List (BitVec 16)) 9) (s : State) : ∃ u, exec (.coreRestartComplete challenges) s = .next u ∧ Touches 19394670604 s.dev u.dev := by
  refine ⟨_, rfl, ?_⟩
  dsimp only; simp

theorem execReserveLow_frame (x : HupPins) (s : State) : ∃ u, exec (.reserveLow x) s = .next u ∧ Touches 2149077990 s.dev u.dev := by
  refine ⟨_, rfl, ?_⟩
  dsimp only; simp

theorem execHostErr_frame (r : Fin 32) (moved : Nat) (data : List Byte) (s : State) : ∃ u, exec (.hostErr r moved data) s = .next u ∧ Touches 55280926719 s.dev u.dev := by
  refine ⟨_, rfl, ?_⟩
  dsimp only; simp

theorem execClkXfreqUpdate_frame (khz : BitVec 16) (s : State) : ∃ u, exec (.clkXfreqUpdate khz) s = .next u ∧ Touches 8 s.dev u.dev := by
  refine ⟨_, rfl, ?_⟩
  dsimp only; simp

end Sys2Proof.Machine
end

