-- ==== Sys2Proof/Laws/Contexts.lean ====
section
/-! SUPPORT. Contexts and claims: what an open, an end and a round of the arbiter do. -/

namespace Sys2Proof.Machine
open Sys2Proof

theorem plain_write (d : Device) (f : OtpArray) (src : Source) (a : Nat) (m v : Word) (x : WriteInfo)
    (h : a ∈ [0x000070, 0x000074, 0x000078, 0x001050, 0x001054, 0x0C4044, 0x0C4048, 0x0C8040]) :
    d.blockWrite f src (a / 0x1000) (a % 0x1000) m v x = d.setReg a (d.newWord (a / 0x1000) (a % 0x1000) m v) := by
  simp only [List.mem_cons, List.not_mem_nil, or_false] at h
  rcases h with h | h | h | h | h | h | h | h <;> subst h <;> rfl

theorem hcx_block (d : Device) (f src o m v x) : d.blockWrite f src 0x001 o m v x = d.hcxWrite f src o m v := rfl

theorem hcx_write (d : Device) (f src) (o : Nat) (be : BitVec 4) (v x) (hbe : alignedBe be = true) (ho : o < 0x1000) (h4 : o % 4 = 0) (hh : 0x040 ≤ o)
    (ht : d.takes src (0x001000 + o) (byteMask be) v = true) :
    d.busWrite f src (0x001000 + o) be v x = (d.arrive src (0x001000 + o)).hcxWrite f src o (byteMask be) v :=
  Device.busWrite_page d f src 0x001 o be v x ht (by decide) hbe ho h4 (Or.inr hh)

theorem open_bits (nonce c pr r : Nat) (h1 : nonce < 65536) (h2 : c < 16) (h4 : r < 8) :
    bits (openWord nonce c pr r) 31 16 = nonce ∧ bits (openWord nonce c pr r) 11 8 = c := by
  have z : ∀ h l, bits (0 : Word) h l = 0 := fun h l => by unfold bits; simp
  unfold openWord
  simp only [bits_or]
  rw [bits_field 31 16 _ _ _ (by decide), bits_field 11 8 _ _ _ (by decide), bits_field 5 4 _ _ _ (by decide), bits_field 2 0 _ _ _ (by decide)]
  rw [bits_field 31 16 _ _ _ (by decide), bits_field 11 8 _ _ _ (by decide), bits_field 5 4 _ _ _ (by decide), bits_field 2 0 _ _ _ (by decide)]
  rw [bits_setBits _ _ _ _ (by decide), bits_setBits_other _ _ _ _ _ _ (by decide), bits_setBits_other _ _ _ _ _ _ (by decide), bits_setBits_other _ _ _ _ _ _ (by decide)]
  rw [bits_setBits_other _ _ _ _ _ _ (by decide), bits_setBits _ _ _ _ (by decide), bits_setBits_other _ _ _ _ _ _ (by decide), bits_setBits_other _ _ _ _ _ _ (by decide)]
  simp only [z, Nat.or_zero, Nat.zero_or]
  exact ⟨Nat.mod_eq_of_lt h1, Nat.mod_eq_of_lt h2⟩

theorem find_first {p : Fin 8 → Bool} (n : Fin 8) (h : p n = true) (hl : ∀ m : Fin 8, m < n → p m = false) :
    (List.finRange 8).find? p = some n := by
  have : List.finRange 8 = [0,1,2,3,4,5,6,7] := by decide
  rw [this]
  have key : ∀ n : Fin 8, (∀ m : Fin 8, m < n → p m = false) → p n = true → [0,1,2,3,4,5,6,7].find? p = some n := by
    intro n hl h
    match n with
    | 0 => simp [h]
    | 1 => simp [h, hl 0 (by decide)]
    | 2 => simp [h, hl 0 (by decide), hl 1 (by decide)]
    | 3 => simp [h, hl 0 (by decide), hl 1 (by decide), hl 2 (by decide)]
    | 4 => simp [h, hl 0 (by decide), hl 1 (by decide), hl 2 (by decide), hl 3 (by decide)]
    | 5 => simp [h, hl 0 (by decide), hl 1 (by decide), hl 2 (by decide), hl 3 (by decide), hl 4 (by decide)]
    | 6 => simp [h, hl 0 (by decide), hl 1 (by decide), hl 2 (by decide), hl 3 (by decide), hl 4 (by decide), hl 5 (by decide)]
    | 7 => simp [h, hl 0 (by decide), hl 1 (by decide), hl 2 (by decide), hl 3 (by decide), hl 4 (by decide), hl 5 (by decide), hl 6 (by decide)]
  exact key n hl h

theorem tgReset_ctx (d : Device) (n) : (d.tgReset n).ctx = d.ctx := keeps_ctx (by simp)

theorem tgReset_openRes (d : Device) (n) : (d.tgReset n).openRes = d.openRes := keeps_openRes (by simp)

theorem open_effect (d : Device) (p : HostPort) (sm : Bool) (nonce : BitVec 16) (want : Nat) (n : Fin 8)
    (h1 : d.boot.stage = 7) (h2 : d.boot.coreUp = true) (h3 : d.ctx[n].st = .free) (h4 : ∀ m : Fin 8, m < n → d.ctx[m].st ≠ .free) :
    ∃ g w, (d.ctxOpenOn p sm nonce want).1.ctx = upd d.ctx n (fun c => { c with
        st := .opened, nonce := nonce, port := p, priv := g, pmcUser := false
        leaseMs := bits (d.reg 0x001054) 15 0, loaded := bits (d.reg 0x001054) 15 0, renewed := d.cycle, smbus := sm }) ∧
      (d.ctxOpenOn p sm nonce want).1.openRes = d.openRes.set (PortIdx p) w ∧ bits w 31 16 = nonce.toNat ∧ bits w 11 8 = n.val := by
  unfold Device.ctxOpenOn
  dsimp only
  rw [if_neg (by rw [h1]; decide), if_neg (by rw [h1, h2]; decide)]
  rw [find_first n (by rw [h3]; rfl) (fun m hm => by have := h4 m hm; cases hs : d.ctx[m].st <;> simp_all)]
  dsimp only
  generalize min (privOfCode want).rank _ = g
  refine ⟨privOfCode g, openWord nonce.toNat n.val g _,
    ((raise_keeps _ _ _ : Touches _ _ _) .ctx (by decide)).trans (tgReset_ctx _ _),
    ((raise_keeps _ _ _ : Touches _ _ _) .openRes (by decide)).trans (congrArg (fun v => Vector.set v (PortIdx p).val _ (PortIdx p).isLt) (tgReset_openRes _ _)),
    (open_bits _ _ _ _ nonce.isLt (by omega) (by split <;> decide)).1, (open_bits _ _ _ _ nonce.isLt (by omega) (by split <;> decide)).2⟩

theorem hcxOpen_port (d : Device) (p c w) : ∃ sm, d.hcxOpen (.port p c) w = (d.ctxOpenOn p sm (BitVec.ofNat 16 (bits w 31 16)) (bits w 9 8)).1 := ⟨_, rfl⟩

theorem ctxEnd_ctx (d : Device) (f : OtpArray) (n : Fin 8) (e : Nat) (h : d.ctx[n].st = .opened) :
    (d.ctxEnd f n e).ctx = upd d.ctx n (fun c => { c with st := .ending, endCode := e }) := by
  have ho : d.ctxOpen n = true := by unfold Device.ctxOpen; rw [h]; rfl
  unfold Device.ctxEnd
  rw [ho]
  refine (keeps_ctx (d := d.updCtx n fun c => { c with st := .ending, endCode := e }) ?_).trans rfl
  simp

theorem renew_upd (d : Device) (n) : (d.renew (.ctx n)).ctx = upd d.ctx n fun c => { c with loaded := c.leaseMs, renewed := d.cycle } := rfl

theorem fixed_at (d : Device) (src : Source) (a : Nat) (p : Fin 256) : ((d.arrive src a).head p).owner = (d.head p).owner ∧ ((d.arrive src a).head p).mode = (d.head p).mode :=
  have h := PageHdr.fixed_eq (Device.arrive_fixed d src a p)
  ⟨h.1, h.2.1⟩

theorem claimPages_mem (p : Fin 256) (h : (resourceOf p.val).isSome = true) : p.val ∈ claimPages := by
  unfold resourceOf at h
  simp only [claimPages, List.mem_append, List.mem_map, List.mem_range, List.mem_cons, List.not_mem_nil, or_false]
  split at h
  · exact Or.inl (Or.inl (Or.inl ⟨p.val - 0x010, by omega, by omega⟩))
  split at h
  · exact Or.inl (Or.inl (Or.inr ⟨p.val - 0x080, by omega, by omega⟩))
  split at h
  · exact Or.inl (Or.inr ⟨p.val - 0x054, by omega, by omega⟩)
  split at h
  · omega
  split at h
  · omega
  split at h
  · omega
  · cases h

theorem claimPages_nodup : claimPages.Nodup := by decide

theorem arb_skip (rs : List ClaimReq) (d : Device) (p : Nat) (h : ∀ q ∈ rs, q.page ≠ pg p) : d.arbitratePage rs p = d := by
  unfold Device.arbitratePage
  have : rs.filter (fun q => q.page == pg p) = [] := by
    rw [List.filter_eq_nil_iff]; intro q hq; simpa using h q hq
  rw [this]; rfl

theorem arb_fold_skip (rs : List ClaimReq) (l : List Nat) (d : Device) (h : ∀ p ∈ l, ∀ q ∈ rs, q.page ≠ pg p) :
    l.foldl (Device.arbitratePage rs) d = d := by
  induction l with
  | nil => rfl
  | cons a l ih => rw [List.foldl_cons, arb_skip _ _ _ (h a (by simp)), ih fun p hp => h p (by simp [hp])]

theorem claimPages_lt : ∀ p ∈ claimPages, p < 256 := by decide

theorem rot_find (ptr : Nat) (n : Fin 8) : ((List.range 8).map fun i => Fin.ofNat 8 (ptr + i)).find? (fun m => [n].contains m) = some n := by
  have hmem : n ∈ (List.range 8).map fun i => Fin.ofNat 8 (ptr + i) := by
    rw [List.mem_map]
    refine ⟨(n.val + 8 - ptr % 8) % 8, by rw [List.mem_range]; omega, ?_⟩
    apply Fin.ext
    show (ptr + (n.val + 8 - ptr % 8) % 8) % 8 = n.val
    have := n.isLt; omega
  cases hf : ((List.range 8).map fun i => Fin.ofNat 8 (ptr + i)).find? (fun m => [n].contains m) with
  | none => rw [List.find?_eq_none] at hf; have := hf n hmem; simp at this
  | some m => have := List.find?_some hf; simp at this; rw [this]

theorem arb_one (d : Device) (page : Fin 256) (n : Fin 8) (ho : (d.head page).owner = none) :
    ((d.arbitratePage [(⟨page, n⟩ : ClaimReq)] page.val).head page).owner = some (.ctx n) := by
  unfold Device.arbitratePage
  have : ([(⟨page, n⟩ : ClaimReq)].filter fun q => q.page == pg page.val).map (·.ctx) = [n] := by rw [pg_val]; simp
  dsimp only
  rw [this]
  have h1 : d.ownerOf page.val = none := by unfold Device.ownerOf; rw [pg_val]; exact ho
  rw [if_neg (by simp), h1, if_neg (by simp), rot_find, pg_val]
  dsimp only
  rw [if_pos (by simp)]
  show ((d.updHdr page _).head page).owner = _
  rw [Device.head_updHdr]

end Sys2Proof.Machine
end

