-- ==== Sys2Proof/Laws/PerInstr.lean ====
section
/-! SUPPORT. Per command: the list that frameOf gives it names each kind of state once, and names kinds of state only. -/

/-- The frame of the command is a list without repetition. -/
def Sys2Proof.Laws.FrameListed.Statement (i : Sys2Proof.Instr) : Prop :=
  decide ((Sys2Proof.Machine.frameOf i).Nodup) = true

namespace Sys2Proof.Laws.FrameListed
open Sys2Proof Sys2Proof.Machine

theorem domainPorAssert (dom : Domain) : Statement (.domainPorAssert dom) := rfl
theorem domainPorRelease (dom : Domain) : Statement (.domainPorRelease dom) := rfl
theorem deviceResetEntry : Statement (.deviceResetEntry) := rfl
theorem deviceResetRelease (s0 : BitVec 4) (s1 : BitVec 4) (s2 : BitVec 4) : Statement (.deviceResetRelease s0 s1 s2) := rfl
theorem pllLock : Statement (.pllLock) := rfl
theorem pllLockTimeout : Statement (.pllLockTimeout) := rfl
theorem clockFailure : Statement (.clockFailure) := rfl
theorem trimLoad : Statement (.trimLoad) := rfl
theorem otpBootScanComplete : Statement (.otpBootScanComplete) := rfl
theorem generationSelect : Statement (.generationSelect) := rfl
theorem callSheetLoad : Statement (.callSheetLoad) := rfl
theorem patchInstall : Statement (.patchInstall) := rfl
theorem jtagCoreRelease : Statement (.jtagCoreRelease) := rfl
theorem firstThermalScanComplete : Statement (.firstThermalScanComplete) := rfl
theorem autoStart : Statement (.autoStart) := rfl
theorem coreInitComplete (challenges : Vector (List (BitVec 16)) 9) : Statement (.coreInitComplete challenges) := rfl
theorem glbDevrstWrite (src : Source) (data : Word) : Statement (.glbDevrstWrite src data) := rfl
theorem deviceResetDeferred : Statement (.deviceResetDeferred) := rfl
theorem jtagDeviceReset : Statement (.jtagDeviceReset) := rfl
theorem tapReset : Statement (.tapReset) := rfl
theorem rstcauseClear (src : Source) (be : BitVec 4) (data : Word) : Statement (.rstcauseClear src be data) := rfl
theorem registerWrite (src : Source) (addr : BitVec 24) (be : BitVec 4) (data : Word) : Statement (.registerWrite src addr be data) := rfl
theorem hcxOpen (src : Source) (data : Word) : Statement (.hcxOpen src data) := rfl
theorem hcxClose (src : Source) (data : Word) : Statement (.hcxClose src data) := rfl
theorem hcxEvict (src : Source) (data : Word) : Statement (.hcxEvict src data) := rfl
theorem hcxLeaseWrite (src : Source) (n : Fin 8) (be : BitVec 4) (data : Word) : Statement (.hcxLeaseWrite src n be data) := rfl
theorem leaseExpiry (n : Fin 8) : Statement (.leaseExpiry n) := rfl
theorem contextQuarantine (n : Fin 8) : Statement (.contextQuarantine n) := rfl
theorem contextFree (n : Fin 8) : Statement (.contextFree n) := rfl
theorem claimRequest (src : Source) (page : Fin 256) (data : Word) : Statement (.claimRequest src page data) := rfl
theorem claimRelease (src : Source) (page : Fin 256) (data : Word) : Statement (.claimRelease src page data) := rfl
theorem ownerPolicyWrite (src : Source) (page : Fin 256) (be : BitVec 4) (data : Word) : Statement (.ownerPolicyWrite src page be data) := rfl
theorem claimArbitration : Statement (.claimArbitration) := rfl
theorem pageLockWrite (src : Source) (page : Fin 256) (lock : Bool) : Statement (.pageLockWrite src page lock) := rfl
theorem pageFreezeWrite (src : Source) (page : Fin 256) (freeze : Bool) : Statement (.pageFreezeWrite src page freeze) := rfl
theorem blockSoftReset (src : Source) (page : Fin 256) : Statement (.blockSoftReset src page) := rfl
theorem pcieMemRequest (bar : Bar) (write : Bool) (offset : Nat) (dws : List Dw) : Statement (.pcieMemRequest bar write offset dws) := rfl
theorem pcieConfigRequest (reg : Fin 1024) (write : Option Dw) : Statement (.pcieConfigRequest reg write) := rfl
theorem pcieFundamentalReset (low : Bool) : Statement (.pcieFundamentalReset low) := rfl
theorem pcieHotReset : Statement (.pcieHotReset) := rfl
theorem pcieLinkUp : Statement (.pcieLinkUp) := rfl
theorem pcieD3hotEnter : Statement (.pcieD3hotEnter) := rfl
theorem msixEnable (en : Bool) (funcMask : Bool) : Statement (.msixEnable en funcMask) := rfl
theorem msixUnmask (v : Option (Fin 16)) : Statement (.msixUnmask v) := rfl
theorem writeFrame (p : HostPort) (frame : FrameIn) : Statement (.writeFrame p frame) := rfl
theorem readFrame (p : HostPort) (frame : FrameIn) : Statement (.readFrame p frame) := rfl
theorem readResponseReady (p : HostPort) : Statement (.readResponseReady p) := rfl
theorem i3cPrivateRead (x : PrivateRead) : Statement (.i3cPrivateRead x) := rfl
theorem spiFrameAbort (frame : List Byte) : Statement (.spiFrameAbort frame) := rfl
theorem spiPortReset : Statement (.spiPortReset) := rfl
theorem i3cTargetReset (p : BusPort) : Statement (.i3cTargetReset p) := rfl
theorem smbusTimeoutReset (p : BusPort) : Statement (.smbusTimeoutReset p) := rfl
theorem entdaa (p : BusPort) (addr : BitVec 7) : Statement (.entdaa p addr) := rfl
theorem setdasa (p : BusPort) (static : BitVec 7) (addr : BitVec 7) : Statement (.setdasa p static addr) := rfl
theorem setnewda (p : BusPort) (addr : BitVec 7) : Statement (.setnewda p addr) := rfl
theorem rstdaa (p : BusPort) : Statement (.rstdaa p) := rfl
theorem broadcastCccModeSwitch (p : BusPort) : Statement (.broadcastCccModeSwitch p) := rfl
theorem enec (p : BusPort) (intr : Bool) (hotJoin : Bool) : Statement (.enec p intr hotJoin) := rfl
theorem disec (p : BusPort) (intr : Bool) (hotJoin : Bool) : Statement (.disec p intr hotJoin) := rfl
theorem setmwl (p : BusPort) (len : BitVec 16) : Statement (.setmwl p len) := rfl
theorem setmrl (p : BusPort) (len : BitVec 16) : Statement (.setmrl p len) := rfl
theorem getmwl (p : BusPort) : Statement (.getmwl p) := rfl
theorem getmrl (p : BusPort) : Statement (.getmrl p) := rfl
theorem getpid (p : BusPort) : Statement (.getpid p) := rfl
theorem getbcr (p : BusPort) : Statement (.getbcr p) := rfl
theorem getdcr (p : BusPort) : Statement (.getdcr p) := rfl
theorem getstatus (p : BusPort) : Statement (.getstatus p) := rfl
theorem getmxds (p : BusPort) : Statement (.getmxds p) := rfl
theorem rstact (p : BusPort) (action : Byte) : Statement (.rstact p action) := rfl
theorem enthdr0 (p : BusPort) : Statement (.enthdr0 p) := rfl
theorem ibiRequest (x : IbiTry) : Statement (.ibiRequest x) := rfl
theorem hotJoin (p : BusPort) : Statement (.hotJoin p) := rfl
theorem frameWrite (x : SmbXfer) (frame : List Byte) : Statement (.frameWrite x frame) := rfl
theorem frameRead (x : SmbXfer) : Statement (.frameRead x) := rfl
theorem pmbusUnsupported (x : SmbXfer) (y : ByteCommand) : Statement (.pmbusUnsupported x y) := rfl
theorem pmbusPage (x : SmbXfer) (write : Option Byte) : Statement (.pmbusPage x write) := rfl
theorem operationImmediateOff (x : SmbXfer) : Statement (.operationImmediateOff x) := rfl
theorem operationSoftOff (x : SmbXfer) : Statement (.operationSoftOff x) := rfl
theorem operationOn (x : SmbXfer) : Statement (.operationOn x) := rfl
theorem operationMarginLow (x : SmbXfer) : Statement (.operationMarginLow x) := rfl
theorem operationMarginHigh (x : SmbXfer) : Statement (.operationMarginHigh x) := rfl
theorem clearFaults (x : SmbXfer) : Statement (.clearFaults x) := rfl
theorem voutMode (x : SmbXfer) : Statement (.voutMode x) := rfl
theorem voutCommand (x : SmbXfer) (write : Option (BitVec 16)) : Statement (.voutCommand x write) := rfl
theorem voutMax (x : SmbXfer) : Statement (.voutMax x) := rfl
theorem voutMarginHigh (x : SmbXfer) (write : Option (BitVec 16)) : Statement (.voutMarginHigh x write) := rfl
theorem voutMarginLow (x : SmbXfer) (write : Option (BitVec 16)) : Statement (.voutMarginLow x write) := rfl
theorem voutTransitionRate (x : SmbXfer) (write : Option (BitVec 16)) : Statement (.voutTransitionRate x write) := rfl
theorem voutDroop (x : SmbXfer) (write : Option (BitVec 16)) : Statement (.voutDroop x write) := rfl
theorem frequencySwitch (x : SmbXfer) (write : Option (BitVec 16)) : Statement (.frequencySwitch x write) := rfl
theorem voutOvFaultLimit (x : SmbXfer) (write : Option (BitVec 16)) : Statement (.voutOvFaultLimit x write) := rfl
theorem voutUvFaultLimit (x : SmbXfer) (write : Option (BitVec 16)) : Statement (.voutUvFaultLimit x write) := rfl
theorem ioutOcFaultLimit (x : SmbXfer) (write : Option (BitVec 16)) : Statement (.ioutOcFaultLimit x write) := rfl
theorem otFaultLimit (x : SmbXfer) (write : Option (BitVec 16)) : Statement (.otFaultLimit x write) := rfl
theorem statusByte (x : SmbXfer) : Statement (.statusByte x) := rfl
theorem statusWord (x : SmbXfer) : Statement (.statusWord x) := rfl
theorem statusVout (x : SmbXfer) : Statement (.statusVout x) := rfl
theorem statusIout (x : SmbXfer) : Statement (.statusIout x) := rfl
theorem statusTemperature (x : SmbXfer) : Statement (.statusTemperature x) := rfl
theorem statusCml (x : SmbXfer) : Statement (.statusCml x) := rfl
theorem readVout (x : SmbXfer) : Statement (.readVout x) := rfl
theorem readIout (x : SmbXfer) : Statement (.readIout x) := rfl
theorem readTemperature1 (x : SmbXfer) : Statement (.readTemperature1 x) := rfl
theorem readPout (x : SmbXfer) : Statement (.readPout x) := rfl
theorem pmbusRevision (x : SmbXfer) : Statement (.pmbusRevision x) := rfl
theorem mfrId (x : SmbXfer) : Statement (.mfrId x) := rfl
theorem mfrModel (x : SmbXfer) : Statement (.mfrModel x) := rfl
theorem interleaveBoundary (n : Fin 16) (per : PeriodSamples) (same : Coincident) : Statement (.interleaveBoundary n per same) := rfl
theorem shedDelayExpiry (n : Fin 16) : Statement (.shedDelayExpiry n) := rfl
theorem pulseLeadingEdge (k : Fin 64) (off : OffTime) : Statement (.pulseLeadingEdge k off) := rfl
theorem peakComparatorTrip (k : Fin 64) (ton : Nat) (diff : Int) (on : OnTime) : Statement (.peakComparatorTrip k ton diff on) := rfl
theorem dmaxLimit (k : Fin 64) (first : Nat) (codes : List Nat) (irefs : List Nat) : Statement (.dmaxLimit k first codes irefs) := rfl
theorem diodeEmulationZero (k : Fin 64) (code : Nat) (iref : Nat) : Statement (.diodeEmulationZero k code iref) := rfl
theorem delayLineCalibration (k : Fin 64) (ok : Bool) : Statement (.delayLineCalibration k ok) := rfl
theorem phaseMapWrite (src : Source) (k : Fin 64) (be : BitVec 4) (data : Word) : Statement (.phaseMapWrite src k be data) := rfl
theorem lendRequest (k : Fin 64) : Statement (.lendRequest k) := rfl
theorem phaseDisableWrite (src : Source) (k : Fin 64) (disable : Bool) : Statement (.phaseDisableWrite src k disable) := rfl
theorem phaseClrFail (src : Source) (k : Fin 64) (x : FailSeen) : Statement (.phaseClrFail src k x) := rfl
theorem joinComplete (k : Fin 64) : Statement (.joinComplete k) := rfl
theorem drainDecayComplete (k : Fin 64) (code0 : Nat) (code1 : Nat) (irefs : Nat × Nat) : Statement (.drainDecayComplete k code0 code1 irefs) := rfl
theorem drainTimeout (k : Fin 64) : Statement (.drainTimeout k) := rfl
theorem stageFault (k : Fin 64) : Statement (.stageFault k) := rfl
theorem phaseFailure (k : Fin 64) (dets : List PhaseDetect) : Statement (.phaseFailure k dets) := rfl
theorem loopUpdate (n : Fin 16) (frame : Fin 8) (slotB : Bool) (volts : List Int) (samples : LoopSamples) : Statement (.loopUpdate n frame slotB volts samples) := rfl
theorem balanceUpdate (k : Fin 64) (frame : Fin 8) : Statement (.balanceUpdate k frame) := rfl
theorem bankCommit (src : Source) (n : Fin 16) : Statement (.bankCommit src n) := rfl
theorem bankSwap (n : Fin 16) : Statement (.bankSwap n) := rfl
theorem setpointWrite (src : Source) (n : Fin 16) (reg : Fin 3) (be : BitVec 4) (data : Word) : Statement (.setpointWrite src n reg be data) := rfl
theorem cuePin (pins : BitVec 7) (t : CueTiming) : Statement (.cuePin pins t) := rfl
theorem cueSw (src : Source) (data : Word) (t : CueTiming) : Statement (.cueSw src data t) := rfl
theorem cueHoldExpiry (n : Fin 16) : Statement (.cueHoldExpiry n) := rfl
theorem loopEnable (n : Fin 16) : Statement (.loopEnable n) := rfl
theorem loopSoftStop (n : Fin 16) : Statement (.loopSoftStop n) := rfl
theorem loopHardStop (n : Fin 16) : Statement (.loopHardStop n) := rfl
theorem prebiasComplete (n : Fin 16) (codes : List Nat) : Statement (.prebiasComplete n codes) := rfl
theorem prebiasTimeout (x : LoopAlso) : Statement (.prebiasTimeout x) := rfl
theorem softStartComplete (n : Fin 16) : Statement (.softStartComplete n) := rfl
theorem softStartTimeout (x : LoopAlso) : Statement (.softStartTimeout x) := rfl
theorem rampdownComplete (n : Fin 16) : Statement (.rampdownComplete n) := rfl
theorem loopDrainComplete (n : Fin 16) : Statement (.loopDrainComplete n) := rfl
theorem loopLatchedRestart (n : Fin 16) : Statement (.loopLatchedRestart n) := rfl
theorem loopEnableWrite (src : Source) (n : Fin 16) (enable : Bool) : Statement (.loopEnableWrite src n enable) := rfl
theorem ovCrowbar (x : LoopVolts) : Statement (.ovCrowbar x) := rfl
theorem ovIdle (x : LoopVolts) : Statement (.ovIdle x) := rfl
theorem crowbarRelease (n : Fin 16) (own : ReleaseSense) (others : List (Fin 16 × ReleaseSense)) : Statement (.crowbarRelease n own others) := rfl
theorem uvFault (x : UvSeen) : Statement (.uvFault x) := rfl
theorem loopOcFault (x : OcSeen) : Statement (.loopOcFault x) := rfl
theorem ssShortFault (x : LoopAlso) : Statement (.ssShortFault x) := rfl
theorem loopOtFault (x : LoopAlso) : Statement (.loopOtFault x) := rfl
theorem loopWarning (n : Fin 16) (x : LoopSamples) : Statement (.loopWarning n x) := rfl
theorem loopFltClear (src : Source) (n : Fin 16) (be : BitVec 4) (data : Word) (x : FltSense) : Statement (.loopFltClear src n be data x) := rfl
theorem sceneRequest (src : Source) (data : Word) : Statement (.sceneRequest src data) := rfl
theorem latchedRequestStart : Statement (.latchedRequestStart) := rfl
theorem entryStart (i : Fin 128) (vmon : Nat) : Statement (.entryStart i vmon) := rfl
theorem railPowerGood (i : Fin 96) (readings : List Nat) : Statement (.railPowerGood i readings) := rfl
theorem wrapOffDelayExpiry (i : Fin 128) (reading : Nat) : Statement (.wrapOffDelayExpiry i reading) := rfl
theorem wrapStepAdvance : Statement (.wrapStepAdvance) := rfl
theorem railDischarged (i : Fin 96) (readings : List Nat) : Statement (.railDischarged i readings) := rfl
theorem enlatchRestart (i : Fin 128) : Statement (.enlatchRestart i) := rfl
theorem dischargeTimeout (i : Fin 96) : Statement (.dischargeTimeout i) := rfl
theorem pgTimeout (i : Fin 96) : Statement (.pgTimeout i) := rfl
theorem railMonitorFault (i : Fin 96) (det : RailDetect) (readings : List Nat) : Statement (.railMonitorFault i det readings) := rfl
theorem retryDelayExpiry : Statement (.retryDelayExpiry) := rfl
theorem railOn (src : Source) (i : Fin 128) : Statement (.railOn src i) := rfl
theorem railSoftOff (src : Source) (i : Fin 128) : Statement (.railSoftOff src i) := rfl
theorem railImmediateOff (src : Source) (i : Fin 128) : Statement (.railImmediateOff src i) := rfl
theorem railClear (src : Source) (i : Fin 128) : Statement (.railClear src i) := rfl
theorem heldRailRequestStart : Statement (.heldRailRequestStart) := rfl
theorem seqForce (src : Source) (data : Word) : Statement (.seqForce src data) := rfl
theorem takeResume : Statement (.takeResume) := rfl
theorem resetStretchElapsed (k : Fin 32) : Statement (.resetStretchElapsed k) := rfl
theorem srcClassAdopt (mv : Vector Nat 4) : Statement (.srcClassAdopt mv) := rfl
theorem inputLimitThrottle (x : HupPins) : Statement (.inputLimitThrottle x) := rfl
theorem sourceOverloadTimeout (x : HupPins) : Statement (.sourceOverloadTimeout x) := rfl
theorem shareEnd (x : HupPins) : Statement (.shareEnd x) := rfl
theorem powerPathDetectEnd (low : Bool) (x : HupPins) : Statement (.powerPathDetectEnd low x) := rfl
theorem packQualified (x : HupPins) : Statement (.packQualified x) := rfl
theorem powerPathInhibit (x : HupPins) : Statement (.powerPathInhibit x) := rfl
theorem converterFault (x : HupPins) : Statement (.converterFault x) := rfl
theorem hupEnableWrite (src : Source) (enable : Bool) : Statement (.hupEnableWrite src enable) := rfl
theorem hupEnableDeferred : Statement (.hupEnableDeferred) := rfl
theorem sagDetect (x : SagPins) (iL0 : Int) : Statement (.sagDetect x iL0) := rfl
theorem sagNoHandover (x : SagPins) : Statement (.sagNoHandover x) := rfl
theorem startPulseEnd : Statement (.startPulseEnd) := rfl
theorem handoverComplete (x : HupPins) : Statement (.handoverComplete x) := rfl
theorem handoverTimeout : Statement (.handoverTimeout) := rfl
theorem sourceQualified (x : HupPins) : Statement (.sourceQualified x) := rfl
theorem returnComplete (x : HupPins) : Statement (.returnComplete x) := rfl
theorem packEmpty (x : HupPins) : Statement (.packEmpty x) := rfl
theorem packRemoval (how : Removal) : Statement (.packRemoval how) := rfl
theorem chargerCommandWrite (src : Source) (be : BitVec 4) (data : Word) : Statement (.chargerCommandWrite src be data) := rfl
theorem chargerWatchdogExpiry : Statement (.chargerWatchdogExpiry) := rfl
theorem chargerQual (x : HupPins) : Statement (.chargerQual x) := rfl
theorem prechargeDone (x : HupPins) : Statement (.prechargeDone x) := rfl
theorem prechargeTimeout : Statement (.prechargeTimeout) := rfl
theorem cvReached (x : HupPins) : Statement (.cvReached x) := rfl
theorem chargeTerminated (x : HupPins) : Statement (.chargeTerminated x) := rfl
theorem recharge (x : HupPins) : Statement (.recharge x) := rfl
theorem chargeTimeout : Statement (.chargeTimeout) := rfl
theorem chargerOvFault (x : HupPins) : Statement (.chargerOvFault x) := rfl
theorem chargerSuspend (x : HupPins) : Statement (.chargerSuspend x) := rfl
theorem chargerDrainComplete (x : HupPins) (late : Bool) : Statement (.chargerDrainComplete x late) := rfl
theorem chargerResume (x : HupPins) : Statement (.chargerResume x) := rfl
theorem chargeBandChange : Statement (.chargeBandChange) := rfl
theorem aoWake (how : WakeCause) : Statement (.aoWake how) := rfl
theorem hibernateEnter : Statement (.hibernateEnter) := rfl
theorem ocvSample (pin : Rat) : Statement (.ocvSample pin) := rfl
theorem gaugeAnchorWrite (src : Source) : Statement (.gaugeAnchorWrite src) := rfl
theorem gaugeEstimateUpdate (sec : GaugeSecond) : Statement (.gaugeEstimateUpdate sec) := rfl
theorem gaugeStarved : Statement (.gaugeStarved) := rfl
theorem gaugeCommit (src : Source) : Statement (.gaugeCommit src) := rfl
theorem gaugeCommitComplete (inhibited : Bool) : Statement (.gaugeCommitComplete inhibited) := rfl
theorem gaugeRestore (src : Source) (key : BitVec 16) (packDet : Bool) : Statement (.gaugeRestore src key packDet) := rfl
theorem gaugeUnload (src : Source) (key : BitVec 16) : Statement (.gaugeUnload src key) := rfl
theorem gaugeNopack : Statement (.gaugeNopack) := rfl
theorem gaugePackReturn : Statement (.gaugePackReturn) := rfl
theorem gauAccRead (src : Source) : Statement (.gauAccRead src) := rfl
theorem thermalScanFrame (x : ThermFrame) : Statement (.thermalScanFrame x) := rfl
theorem thmClr (src : Source) (data : Word) : Statement (.thmClr src data) := rfl
theorem faultLatch : Statement (.faultLatch) := rfl
theorem faultLineRelease (c : Fin 64) : Statement (.faultLineRelease c) := rfl
theorem faultClear (src : Source) (hi : Bool) (be : BitVec 4) (data : Word) : Statement (.faultClear src hi be data) := rfl
theorem faultInject (src : Source) (data : Word) : Statement (.faultInject src data) := rfl
theorem efiInput (m : Fin 8) (x : EfiLevel) : Statement (.efiInput m x) := rfl
theorem wdtArm (k : Fin 9) (src : Source) (dt : Nat) : Statement (.wdtArm k src dt) := rfl
theorem wdtDisarm (k : Fin 9) (src : Source) (dt : Nat) (key : BitVec 16) : Statement (.wdtDisarm k src dt key) := rfl
theorem wdtCheckin (k : Fin 9) (src : Source) (dt : Nat) (task : BitVec 16) : Statement (.wdtCheckin k src dt task) := rfl
theorem wdtAnswer (k : Fin 9) (src : Source) (dt : Nat) (token : BitVec 16) : Statement (.wdtAnswer k src dt token) := rfl
theorem wdtWindowLate (k : Fin 9) (dt : Nat) : Statement (.wdtWindowLate k dt) := rfl
theorem wdtHoldElapsed (x : WdtTicks) : Statement (.wdtHoldElapsed x) := rfl
theorem wdtChallengeQueue (k : Fin 9) (src : Source) (chal : BitVec 16) : Statement (.wdtChallengeQueue k src chal) := rfl
theorem eventArrival (e : Fin 256) (payload : Word) : Statement (.eventArrival e payload) := rfl
theorem eventSelect : Statement (.eventSelect) := rfl
theorem eventRecordFault : Statement (.eventRecordFault) := rfl
theorem eventEoi (t : Fin 9) (src : Source) (e : BitVec 8) : Statement (.eventEoi t src e) := rfl
theorem eventRingRdWrite (t : Fin 9) (src : Source) (rd : BitVec 16) : Statement (.eventRingRdWrite t src rd) := rfl
theorem eventTargetEnable (t : Fin 9) (src : Source) : Statement (.eventTargetEnable t src) := rfl
theorem eventTargetDisable (t : Fin 9) (src : Source) : Statement (.eventTargetDisable t src) := rfl
theorem evcRaise (src : Source) (n : Fin 2) (data : Word) : Statement (.evcRaise src n data) := rfl
theorem ringEnable (src : Source) (r : Fin 32) (enable : Bool) : Statement (.ringEnable src r enable) := rfl
theorem ringDoorbell (src : Source) (r : Fin 32) : Statement (.ringDoorbell src r) := rfl
theorem ringPause (src : Source) (r : Fin 32) : Statement (.ringPause src r) := rfl
theorem ringResume (src : Source) (r : Fin 32) : Statement (.ringResume src r) := rfl
theorem descriptorFetch (r : Fin 32) (host : Vector Word 8) : Statement (.descriptorFetch r host) := rfl
theorem burstStart : Statement (.burstStart) := rfl
theorem burstComplete (r : Fin 32) (moved : Nat) (data : List Byte) : Statement (.burstComplete r moved data) := rfl
theorem windowEntryWrite (src : Source) (e : Fin 1024) (one : Bool) (data : Word) : Statement (.windowEntryWrite src e one data) := rfl
theorem xltSync (src : Source) : Statement (.xltSync src) := rfl
theorem xltSyncComplete : Statement (.xltSyncComplete) := rfl
theorem timestampRead (src : Source) : Statement (.timestampRead src) := rfl
theorem telemetryWindowEnd (x : WindowSamples) : Statement (.telemetryWindowEnd x) := rfl
theorem streamChannelConfig (src : Source) (c : Fin 8) (word : Fin 3) (be : BitVec 4) (data : Word) : Statement (.streamChannelConfig src c word be data) := rfl
theorem peakRegisterRead (src : Source) (reg : PeakReg) : Statement (.peakRegisterRead src reg) := rfl
theorem rushesTrigger (cause : RushCause) : Statement (.rushesTrigger cause) := rfl
theorem rushesFrozen : Statement (.rushesFrozen) := rfl
theorem rushesRearm (src : Source) : Statement (.rushesRearm src) := rfl
theorem dailyPeriodEnd (meas : Vector DailyMeas 16) (battSecs : Nat) : Statement (.dailyPeriodEnd meas battSecs) := rfl
theorem dailyRecordWrite : Statement (.dailyRecordWrite) := rfl
theorem pmcCounterWrap (c : Fin 64) : Statement (.pmcCounterWrap c) := rfl
theorem pmcCounterRead (src : Source) (c : Fin 64) : Statement (.pmcCounterRead src c) := rfl
theorem pmcCounterWrite (src : Source) (c : Fin 64) (hi : Bool) (be : BitVec 4) (data : Word) : Statement (.pmcCounterWrite src c hi be data) := rfl
theorem clapEdge (fine : Fin 16) : Statement (.clapEdge fine) := rfl
theorem clapCommit (num : BitVec 16) : Statement (.clapCommit num) := rfl
theorem clapCodeError : Statement (.clapCodeError) := rfl
theorem clapDrive (src : Source) : Statement (.clapDrive src) := rfl
theorem clapAuto : Statement (.clapAuto) := rfl
theorem slateSnap (src : Source) : Statement (.slateSnap src) := rfl
theorem timeFrame (t : BitVec 64) (cap : BitVec 64) : Statement (.timeFrame t cap) := rfl
theorem timeFrameError : Statement (.timeFrameError) := rfl
theorem timeHoldover : Statement (.timeHoldover) := rfl
theorem timeFrameSend : Statement (.timeFrameSend) := rfl
theorem otpRescan (src : Source) (data : Word) : Statement (.otpRescan src data) := rfl
theorem otpTempScan : Statement (.otpTempScan) := rfl
theorem otpScanComplete : Statement (.otpScanComplete) := rfl
theorem otpProgram (src : Source) (key : BitVec 16) : Statement (.otpProgram src key) := rfl
theorem otpTopup (src : Source) (key : BitVec 16) : Statement (.otpTopup src key) := rfl
theorem otpSeal (src : Source) (key : BitVec 16) (noChk : Bool) : Statement (.otpSeal src key noChk) := rfl
theorem otpBlow (src : Source) (key : BitVec 16) : Statement (.otpBlow src key) := rfl
theorem otpVerify (src : Source) (key : BitVec 16) : Statement (.otpVerify src key) := rfl
theorem otpStop (src : Source) (key : BitVec 16) : Statement (.otpStop src key) := rfl
theorem otpSupplyReady (ok : Bool) : Statement (.otpSupplyReady ok) := rfl
theorem otpPulseComplete (m1 : Bool) (ok : Bool) : Statement (.otpPulseComplete m1 ok) := rfl
theorem otpRead (src : Source) (data : Word) : Statement (.otpRead src data) := rfl
theorem otpReadComplete : Statement (.otpReadComplete) := rfl
theorem otpReload (src : Source) (data : Word) : Statement (.otpReload src data) := rfl
theorem otpReloadDeferred : Statement (.otpReloadDeferred) := rfl
theorem hkcRestart (src : Source) (data : Word) : Statement (.hkcRestart src data) := rfl
theorem coreRestartComplete (challenges : Vector (List (BitVec 16)) 9) : Statement (.coreRestartComplete challenges) := rfl
theorem reserveLow (x : HupPins) : Statement (.reserveLow x) := rfl
theorem hostErr (r : Fin 32) (moved : Nat) (data : List Byte) : Statement (.hostErr r moved data) := rfl
theorem clkXfreqUpdate (khz : BitVec 16) : Statement (.clkXfreqUpdate khz) := rfl

end Sys2Proof.Laws.FrameListed
end

