-- ==== Sys2Proof/WellFormed.lean ====
section
/-! DEFINITION. Which commands can arise: converter codes lie in the range of their converter, a list of phases names each phase
or loop once, and a memory request is aligned to a DW and carries at least one. The meanings are total: they answer on other terms too. -/

namespace Sys2Proof

/-- A code of the IMON converter: 11 bits (R219). -/
def imonCode (c : Nat) : Bool := decide (c < 2048)

/-- A conversion of IMON with its conversion of IREF. -/
def imonOk (x : Imon) : Bool := imonCode x.code && imonCode x.iref

/-- Conversions of IMON. -/
def imonsOk (l : List Imon) : Bool := l.all imonOk

/-- A code of a 12-bit converter: the telemetry ADC (R242) or a VMON pin (R362). -/
def code12 (c : Nat) : Bool := decide (c < 4096)

/-- Codes of a 12-bit converter. -/
def codes12 (l : List Nat) : Bool := l.all code12

/-- A code of the shunt converter: signed, 24 bits (R439). -/
def shuntCode (c : Int) : Bool := decide (-8388608 ≤ c) && decide (c ≤ 8388607)

/-- What the converters give a loop lies in their ranges, and names a phase once (R219, R242). -/
def samplesOk (x : LoopSamples) : Bool := code12 x.raw && decide (x.imon.map (·.1)).Nodup && x.imon.all fun y => imonsOk y.2

/-- An off-time's conversions lie in their range. -/
def offOk (x : OffTime) : Bool := imonsOk x.samples

/-- A pulse's conversions lie in their range. -/
def onOk (x : OnTime) : Bool := imonsOk x.samples

/-- The conversions that show a phase failure lie in their range (R219). -/
def phaseDetectOk : PhaseDetect → Bool
  | .stage => true
  | .overCurrent l => imonsOk l
  | .imonRange l => imonsOk l
  | .openPhase => true
  | .imonModel => true

/-- A cue's timing names a phase once. -/
def cueOk (x : CueTiming) : Bool := decide (x.off.map (·.1)).Nodup && x.off.all fun y => offOk y.2

/-- What a loop detector judges lies in the range of its converter. -/
def loopDetectOk : LoopDetect → Bool
  | .uv codes => codes12 codes
  | .oc _ => true
  | .ssShort => true
  | .ssTmo => true
  | .pbTmo => true
  | .ot => true

/-- The other detectors of a LOOP cycle (R350). -/
def alsoOk (l : List LoopDetect) : Bool := l.all loopDetectOk

/-- What an update slot reads. -/
def slotOk (x : UpdateSlot) : Bool := samplesOk x.samples

/-- What falls in the LOOP cycle of a boundary (R316). -/
def coincidentOk (x : Coincident) : Bool :=
  (match x.cue with
   | some c => cueOk c.2.2
   | none => true) &&
  (match x.update with
   | some u => slotOk u
   | none => true)

/-- What the release of a crowbar reads names a loop once (R328, R330). -/
def releaseOk (x : List (Fin 16 × ReleaseSense)) : Bool := decide (x.map (·.1)).Nodup && x.all fun y => codes12 y.2.codes

/-- The samples of a window name a loop and a phase once (R616, R617). -/
def windowOk (x : WindowSamples) : Bool :=
  decide (x.loops.map (·.1)).Nodup && (x.loops.all fun y => codes12 y.2.codes && y.2.cycles.all fun c => code12 c.1) &&
    decide (x.phases.map (·.1)).Nodup && x.phases.all fun y => imonsOk y.2.imon

/-- The well-formed commands. -/
def WellFormed : Instr → Bool
  | .domainPorAssert .. => true
  | .domainPorRelease .. => true
  | .deviceResetEntry => true
  | .deviceResetRelease .. => true
  | .pllLock => true
  | .pllLockTimeout => true
  | .clockFailure => true
  | .trimLoad => true
  | .otpBootScanComplete => true
  | .generationSelect => true
  | .callSheetLoad => true
  | .patchInstall => true
  | .jtagCoreRelease => true
  | .firstThermalScanComplete => true
  | .autoStart => true
  | .coreInitComplete .. => true
  | .glbDevrstWrite .. => true
  | .deviceResetDeferred => true
  | .jtagDeviceReset => true
  | .tapReset => true
  | .rstcauseClear .. => true
  | .registerWrite .. => true
  | .hcxOpen .. => true
  | .hcxClose .. => true
  | .hcxEvict .. => true
  | .hcxLeaseWrite .. => true
  | .leaseExpiry .. => true
  | .contextQuarantine .. => true
  | .contextFree .. => true
  | .claimRequest .. => true
  | .claimRelease .. => true
  | .ownerPolicyWrite .. => true
  | .claimArbitration => true
  | .pageLockWrite .. => true
  | .pageFreezeWrite .. => true
  | .blockSoftReset .. => true
  | .pcieMemRequest _ _ offset dws => offset % 4 == 0 && decide (0 < dws.length)
  | .pcieConfigRequest .. => true
  | .pcieFundamentalReset .. => true
  | .pcieHotReset => true
  | .pcieLinkUp => true
  | .pcieD3hotEnter => true
  | .msixEnable .. => true
  | .msixUnmask .. => true
  | .writeFrame .. => true
  | .readFrame .. => true
  | .readResponseReady .. => true
  | .i3cPrivateRead .. => true
  | .spiFrameAbort .. => true
  | .spiPortReset => true
  | .i3cTargetReset .. => true
  | .smbusTimeoutReset .. => true
  | .entdaa .. => true
  | .setdasa .. => true
  | .setnewda .. => true
  | .rstdaa .. => true
  | .broadcastCccModeSwitch .. => true
  | .enec .. => true
  | .disec .. => true
  | .setmwl .. => true
  | .setmrl .. => true
  | .getmwl .. => true
  | .getmrl .. => true
  | .getpid .. => true
  | .getbcr .. => true
  | .getdcr .. => true
  | .getstatus .. => true
  | .getmxds .. => true
  | .rstact .. => true
  | .enthdr0 .. => true
  | .ibiRequest .. => true
  | .hotJoin .. => true
  | .frameWrite .. => true
  | .frameRead .. => true
  | .pmbusUnsupported .. => true
  | .pmbusPage .. => true
  | .operationImmediateOff .. => true
  | .operationSoftOff .. => true
  | .operationOn .. => true
  | .operationMarginLow .. => true
  | .operationMarginHigh .. => true
  | .clearFaults .. => true
  | .voutMode .. => true
  | .voutCommand .. => true
  | .voutMax .. => true
  | .voutMarginHigh .. => true
  | .voutMarginLow .. => true
  | .voutTransitionRate .. => true
  | .voutDroop .. => true
  | .frequencySwitch .. => true
  | .voutOvFaultLimit .. => true
  | .voutUvFaultLimit .. => true
  | .ioutOcFaultLimit .. => true
  | .otFaultLimit .. => true
  | .statusByte .. => true
  | .statusWord .. => true
  | .statusVout .. => true
  | .statusIout .. => true
  | .statusTemperature .. => true
  | .statusCml .. => true
  | .readVout .. => true
  | .readIout .. => true
  | .readTemperature1 .. => true
  | .readPout .. => true
  | .pmbusRevision .. => true
  | .mfrId .. => true
  | .mfrModel .. => true
  | .interleaveBoundary _ per same => codes12 per.raws && coincidentOk same
  | .shedDelayExpiry .. => true
  | .pulseLeadingEdge _ off => offOk off
  | .peakComparatorTrip _ _ _ on => onOk on
  | .dmaxLimit _ _ codes irefs => codes.all imonCode && irefs.all imonCode && codes.length == irefs.length
  | .diodeEmulationZero _ code iref => imonCode code && imonCode iref
  | .delayLineCalibration .. => true
  | .phaseMapWrite .. => true
  | .lendRequest .. => true
  | .phaseDisableWrite .. => true
  | .phaseClrFail _ _ x => imonsOk x.samples
  | .joinComplete .. => true
  | .drainDecayComplete _ code0 code1 irefs => imonCode code0 && imonCode code1 && imonCode irefs.1 && imonCode irefs.2
  | .drainTimeout .. => true
  | .stageFault .. => true
  | .phaseFailure _ dets => dets.all phaseDetectOk
  | .loopUpdate _ _ _ _ samples => samplesOk samples
  | .balanceUpdate .. => true
  | .bankCommit .. => true
  | .bankSwap .. => true
  | .setpointWrite .. => true
  | .cuePin _ t => cueOk t
  | .cueSw _ _ t => cueOk t
  | .cueHoldExpiry .. => true
  | .loopEnable .. => true
  | .loopSoftStop .. => true
  | .loopHardStop .. => true
  | .prebiasComplete _ codes => codes12 codes
  | .prebiasTimeout x => alsoOk x.also
  | .softStartComplete .. => true
  | .softStartTimeout x => alsoOk x.also
  | .rampdownComplete .. => true
  | .loopDrainComplete .. => true
  | .loopLatchedRestart .. => true
  | .loopEnableWrite .. => true
  | .ovCrowbar .. => true
  | .ovIdle .. => true
  | .crowbarRelease n own others => releaseOk ((n, own) :: others)
  | .uvFault x => codes12 x.codes && alsoOk x.also
  | .loopOcFault x => alsoOk x.also
  | .ssShortFault x => alsoOk x.also
  | .loopOtFault x => alsoOk x.also
  | .loopWarning _ x => samplesOk x
  | .loopFltClear _ _ _ _ x => samplesOk x.samples
  | .sceneRequest .. => true
  | .latchedRequestStart => true
  | .entryStart _ vmon => code12 vmon
  | .railPowerGood _ readings => codes12 readings
  | .wrapOffDelayExpiry _ reading => code12 reading
  | .wrapStepAdvance => true
  | .railDischarged _ readings => codes12 readings
  | .enlatchRestart .. => true
  | .dischargeTimeout .. => true
  | .pgTimeout .. => true
  | .railMonitorFault _ _ readings => codes12 readings
  | .retryDelayExpiry => true
  | .railOn .. => true
  | .railSoftOff .. => true
  | .railImmediateOff .. => true
  | .railClear .. => true
  | .heldRailRequestStart => true
  | .seqForce .. => true
  | .takeResume => true
  | .resetStretchElapsed .. => true
  | .srcClassAdopt .. => true
  | .inputLimitThrottle .. => true
  | .sourceOverloadTimeout .. => true
  | .shareEnd .. => true
  | .powerPathDetectEnd .. => true
  | .packQualified .. => true
  | .powerPathInhibit .. => true
  | .converterFault .. => true
  | .hupEnableWrite .. => true
  | .hupEnableDeferred => true
  | .sagDetect .. => true
  | .sagNoHandover .. => true
  | .startPulseEnd => true
  | .handoverComplete .. => true
  | .handoverTimeout => true
  | .sourceQualified .. => true
  | .returnComplete .. => true
  | .packEmpty .. => true
  | .packRemoval .. => true
  | .chargerCommandWrite .. => true
  | .chargerWatchdogExpiry => true
  | .chargerQual .. => true
  | .prechargeDone .. => true
  | .prechargeTimeout => true
  | .cvReached .. => true
  | .chargeTerminated .. => true
  | .recharge .. => true
  | .chargeTimeout => true
  | .chargerOvFault .. => true
  | .chargerSuspend .. => true
  | .chargerDrainComplete .. => true
  | .chargerResume .. => true
  | .chargeBandChange => true
  | .aoWake .. => true
  | .hibernateEnter => true
  | .ocvSample .. => true
  | .gaugeAnchorWrite .. => true
  | .gaugeEstimateUpdate sec => sec.codes.all shuntCode
  | .gaugeStarved => true
  | .gaugeCommit .. => true
  | .gaugeCommitComplete .. => true
  | .gaugeRestore .. => true
  | .gaugeUnload .. => true
  | .gaugeNopack => true
  | .gaugePackReturn => true
  | .gauAccRead .. => true
  | .thermalScanFrame .. => true
  | .thmClr .. => true
  | .faultLatch => true
  | .faultLineRelease .. => true
  | .faultClear .. => true
  | .faultInject .. => true
  | .efiInput .. => true
  | .wdtArm .. => true
  | .wdtDisarm .. => true
  | .wdtCheckin .. => true
  | .wdtAnswer .. => true
  | .wdtWindowLate .. => true
  | .wdtHoldElapsed .. => true
  | .wdtChallengeQueue .. => true
  | .eventArrival .. => true
  | .eventSelect => true
  | .eventRecordFault => true
  | .eventEoi .. => true
  | .eventRingRdWrite .. => true
  | .eventTargetEnable .. => true
  | .eventTargetDisable .. => true
  | .evcRaise .. => true
  | .ringEnable .. => true
  | .ringDoorbell .. => true
  | .ringPause .. => true
  | .ringResume .. => true
  | .descriptorFetch .. => true
  | .burstStart => true
  | .burstComplete .. => true
  | .windowEntryWrite .. => true
  | .xltSync .. => true
  | .xltSyncComplete => true
  | .timestampRead .. => true
  | .telemetryWindowEnd x => windowOk x
  | .streamChannelConfig .. => true
  | .peakRegisterRead .. => true
  | .rushesTrigger .. => true
  | .rushesFrozen => true
  | .rushesRearm .. => true
  | .dailyPeriodEnd .. => true
  | .dailyRecordWrite => true
  | .pmcCounterWrap .. => true
  | .pmcCounterRead .. => true
  | .pmcCounterWrite .. => true
  | .clapEdge .. => true
  | .clapCommit .. => true
  | .clapCodeError => true
  | .clapDrive .. => true
  | .clapAuto => true
  | .slateSnap .. => true
  | .timeFrame .. => true
  | .timeFrameError => true
  | .timeHoldover => true
  | .timeFrameSend => true
  | .otpRescan .. => true
  | .otpTempScan => true
  | .otpScanComplete => true
  | .otpProgram .. => true
  | .otpTopup .. => true
  | .otpSeal .. => true
  | .otpBlow .. => true
  | .otpVerify .. => true
  | .otpStop .. => true
  | .otpSupplyReady .. => true
  | .otpPulseComplete .. => true
  | .otpRead .. => true
  | .otpReadComplete => true
  | .otpReload .. => true
  | .otpReloadDeferred => true
  | .hkcRestart .. => true
  | .coreRestartComplete .. => true
  | .reserveLow .. => true
  | .hostErr .. => true
  | .clkXfreqUpdate .. => true

end Sys2Proof
end

