-- ==== Sys2Proof/Tests/Slice0.lean ====
section
/-! SUPPORT. Tests: states that meet the hypotheses of the statements (test_meets_<statement>), the ill-formed commands, and values that the
spec works out in its examples. -/

set_option maxRecDepth 100000
set_option Elab.async false

namespace Sys2Proof.Tests
open Sys2Proof Sys2Proof.Machine

/-! ## A running device, and small changes of it -/

/-- A state whose device is d, with the array as shipped and an empty queue. -/
def at_ (d : Device) : State := { State.reset with dev := d }

/-- A booted device: every supply is up, the clocks run, boot is at stage 7 and the core runs. -/
def up : Device := { device0 with boot := { boot0 supplies0 with held := false, pllLock := true, stage := 7, coreUp := true } }

/-- The booted device at another stage of boot. -/
def stage (n : Nat) : Device := { up with boot := { up.boot with stage := n } }

/-- The booted device with context n open on the PCIe port as an administrator. -/
def opened (n : Fin 8) : Device := up.updCtx n fun c => { c with st := .opened, port := .pcie, priv := .admin }

/-- An access through the PCIe port under context n. -/
def by' (n : Fin 8) : Source := .port .pcie (some n)

/-- The booted device with the AO domain without supply. -/
def noAo : Device := { up with boot := { up.boot with up := { supplies0 with ao := false } } }

/-! ## Hypotheses that states meet: supplies, reset, boot -/

theorem test_meets_SupplyAndClockEventsComplete :
    (up.boot.held = false ∧ up.boot.clkFailed = false ∧ up.powered = true ∧ up.boot.up.ao = true) ∧
    (let d := { up with boot := { up.boot with pllLock := false } }; d.boot.held = false ∧ d.boot.clkFailed = false ∧ d.powered = true ∧ d.boot.pllLock = false) := by
  decide +kernel

theorem test_meets_RequiredSupplyLossEntersDeviceReset :
    up.boot.held = false ∧ up.boot.request = none ∧ up.powered = true ∧ ∀ dom ∈ [Domain.ao, .hv, .io, .ana, .core, .pcie], up.boot.up.level dom = true := by decide +kernel

theorem test_meets_DeviceResetsComplete :
    (let d := { up with boot := { up.boot with up := { supplies0 with hv := false } } }; d.boot.held = false ∧ d.powered = false) ∧
    (let d := { up with boot := { up.boot with request := some .sw } };
      d.boot.held = false ∧ d.boot.request = some .sw ∧ d.otpPulsing = false ∧ d.boot.clkFailed = false ∧ d.boot.request.isSome = true ∧ d.powered = true ∧ d.boot.up.ao = true) ∧
    (let d := { up with boot := { up.boot with request := some .jtag, clkFailed := true } }; d.boot.held = false ∧ d.boot.request = some .jtag ∧ d.otpPulsing = false ∧ d.boot.clkFailed = true) ∧
    aoAddr 0x044040 = true := by decide +kernel

theorem test_meets_BootStagesComplete :
    (device0.boot.held = true ∧ device0.powered = true ∧ device0.boot.up.ao = true) ∧
    (let d := { up with boot := { up.boot with pllLock := false } }; d.boot.held = false ∧ d.boot.pllLock = false ∧ d.boot.clkFailed = false ∧ d.powered = true) ∧
    ((stage 2).live = true ∧ (stage 2).boot.stage = 2 ∧ (stage 2).boot.trimJudged = false) ∧
    (let d := { stage 2 with boot := { (stage 2).boot with trimJudged := true } }; d.live = true ∧ d.boot.stage = 2 ∧ d.boot.trimJudged = true) ∧
    ((stage 3).live = true ∧ (stage 3).boot.stage = 3) ∧ ((stage 4).live = true ∧ (stage 4).boot.stage = 4) ∧ ((stage 5).live = true ∧ (stage 5).boot.stage = 5) ∧
    (let d := { stage 5 with boot := { (stage 5).boot with straps := 3 } }; d.live = true ∧ d.boot.stage = 5 ∧ d.bootMode = 3 ∧ d.otp.jtagLock = false) ∧
    ((stage 0xD).live = true ∧ (stage 0xD).boot.stage = 0xD) ∧
    (let d := { stage 6 with boot := { (stage 6).boot with autoBlocked := true } }; d.live = true ∧ d.boot.stage = 6 ∧ d.boot.coreUp = true ∧ d.boot.autoBlocked = true) ∧
    (let d := (stage 6).setReg (pageAddr (wdtPage 0) 0x044) 0x20000000; d.live = true ∧ d.boot.stage = 6 ∧ (d.wd 0).st = .disarmed ∧ bit (d.wdtReg 0 0x044) 29 = true) := by
  decide +kernel

theorem test_meets_AutoStartCompletes :
    (let d := { stage 6 with boot := { (stage 6).boot with firstScan := true } }; d.live = true ∧ d.boot.stage = 6 ∧ d.boot.firstScan = true ∧ d.boot.autoRun = false ∧
      d.boot.autoBlocked = false ∧ d.autoStartOk = false) ∧
    (let d := { stage 6 with boot := { (stage 6).boot with gen := 0, firstScan := true }, otp := { otp0 with bootVal := [(67, 0x80000000)] } };
      d.live = true ∧ d.boot.firstScan = true ∧ d.boot.autoRun = false ∧ d.boot.autoBlocked = false ∧ d.autoStartOk = true) := by decide +kernel

theorem test_meets_ClearingTheLastCauseClearsFirst :
    alignedBe 0xF = true ∧ up.takes .jtag 0x000064 (byteMask 0xF) 0x1FF = true ∧ up.boot.up.ao = true ∧ bits (up.ao.rstCause &&& ~~~0x1FF) 8 0 = 0 ∧ bits up.ao.rstCause 8 0 ≠ 0 := by
  decide +kernel

theorem test_meets_DevrstNeedsKeyAndAdministrator :
    (up.gets .jtag 0x00006C = true ∧ bits (0xA5C3 : Word) 15 0 = 0xA5C3 ∧ up.isAdmin (up.requester .jtag) = true ∧ up.boot.up.ao = true) ∧
    (up.gets (.port .pcie none) 0x00006C = true ∧ up.isAdmin (up.requester (.port .pcie none)) = false) ∧ bits (0xA5C2 : Word) 15 0 ≠ 0xA5C3 := by decide +kernel

/-! ## Hypotheses that states meet: registers, contexts, headers -/

theorem test_meets_PlainRegisterWriteCompletes :
    up.canonical = true ∧ alignedBe 0x3 = true ∧ ∀ a ∈ [0x000070, 0x000074, 0x000078, 0x001050, 0x001054, 0x0C4044, 0x0C4048, 0x0C8040], up.takes .jtag a (byteMask 0x3) 1 = true := by
  decide +kernel

theorem test_meets_RefusedWriteOnlySetsItsError :
    (let src : Source := .port .pcie none; up.gets src 0x030044 = true ∧ 0x030044 % 4 = 0 ∧ alignedBe 0xF = true ∧ (blockOf 0x030).isSome = true ∧ 0x040 ≤ 0x030044 % 0x1000 ∧
      up.writeBad src 0x030044 (byteMask 0xF) 1 = some 2) ∧
    (isBlockPage 0x110 = false ∧ (blockOf 0x110).isSome = true) := by decide +kernel

theorem test_meets_UnreachedWriteChangesNothing : device0.gets (.port .pcie none) 0x000064 = false ∧ device0.gets .jtag 0x000064 = false := by decide +kernel

theorem test_meets_OpenTakesLowestFreeContext :
    (up.takes (.port .pcie none) 0x001040 0xFFFFFFFF 0x12340000 = true ∧ up.boot.stage = 7 ∧ up.boot.coreUp = true ∧ (up.ctx[0] : Ctx).st = .free) ∧
    (let d := { up with ctx := Vector.ofFn fun i : Fin 8 => if i.val < 7 then { ctx0 0 with st := .opened } else ctx0 0 };
      d.takes (.port .pcie none) 0x001040 0xFFFFFFFF 0x12340000 = true ∧ (d.ctx[7] : Ctx).st = .free ∧ ∀ m : Fin 8, m < 7 → d.ctx[m].st ≠ .free) := by decide +kernel

theorem test_meets_LeaseAndContextEndCommandsComplete :
    (alignedBe 0x3 = true ∧ (opened 7).takes (by' 7) (0x001084 + 16 * 7) (byteMask 0x3) 1000 = true ∧ (opened 7).requester (by' 7) = .ctx 7) ∧
    ((opened 0).takes (by' 0) 0x001048 0xFFFFFFFF 0x5A5A = true ∧ (opened 0).requester (by' 0) = .ctx 0 ∧ bits (0x5A5A : Word) 15 0 = 0x5A5A) ∧
    ((opened 7).takes .jtag 0x00104C 0xFFFFFFFF 0xE71C0007 = true ∧ (opened 7).isAdmin ((opened 7).requester .jtag) = true ∧ bits (0xE71C0007 : Word) 31 16 = 0xE71C ∧
      bits (0xE71C0007 : Word) 3 0 = 7 ∧ ((opened 7).ctx[7] : Ctx).st = .opened) ∧
    (let d := (opened 7).updCtx 7 fun c => { c with loaded := 0 }; d.live = true ∧ (d.ctx[7] : Ctx).st = .opened ∧ d.leaseCycles 7 = 0 ∧ ((opened 7).updCtx 7 fun c => { c with loaded := 1 }).leaseCycles 7 ≠ 0) ∧
    (let d := up.updCtx 0 fun c => { c with st := .ending }; d.live = true ∧ (d.ctx[0] : Ctx).st = .ending ∧ ∀ r : Fin 32, (d.rg r).st ≠ .draining) ∧
    (let d := up.updCtx 0 fun c => { c with st := .quarantine }; d.live = true ∧ (d.ctx[0] : Ctx).st = .quarantine) := by decide +kernel

theorem test_meets_ClaimCommandsComplete :
    ((opened 0).gets (by' 0) (pageAddr 0x010 0x018) = true ∧ isBlockPage 0x010 = true ∧ (0x010 : Nat) ≠ 0x003 ∧ (opened 0).requester (by' 0) = .ctx 0) ∧
    (let d := (opened 0).updHdr 0x010 fun h => { h with owner := some (.ctx 0) }; d.gets (by' 0) (pageAddr 0x010 0x018) = true ∧ d.requester (by' 0) = .ctx 0 ∧
      (resourceOf 0x010).isSome = true ∧ (d.head 0x010).owner = some (.ctx 0)) ∧
    (let d := (opened 0).updHdr 0x010 fun h => { h with mode := .shared }; let d := { d with claims := { d.claims with reqs := [{ page := 0x010, ctx := 0 }] } };
      d.live = true ∧ d.claims.frees = [] ∧ d.claims.reqs = [{ page := 0x010, ctx := 0 }] ∧
      (resourceOf 0x010).isSome = true ∧ (d.head 0x010).mode ≠ .free ∧ d.mayClaim 0x010 0 = true ∧ (d.head 0x010).owner = none) ∧
    (let d := { up with claims := { up.claims with reqs := [{ page := 0x010, ctx := 0 }] } }.updHdr 0x010 fun h => { h with mode := .free };
      d.live = true ∧ d.claims.reqs = [{ page := 0x010, ctx := 0 }] ∧ (d.head 0x010).mode = .free) ∧
    (let d := { up with claims := { up.claims with frees := [0x004] } }; d.live = true ∧ d.claims.frees = [0x004] ∧ d.claims.reqs = [] ∧ d.otp.run = none) := by decide +kernel

theorem test_meets_HeaderCommandsComplete :
    (isBlockPage 0x010 = true ∧ up.gets .jtag (pageAddr 0x010 0x018) = true ∧ up.isAdmin (up.requester .jtag) = true ∧ up.ownCheck (up.requester .jtag) 0x010 0x018 = true ∧
      up.locked 0x010 = false ∧ up.gets .jtag (pageAddr 0x010 0x01C) = true ∧ up.privCheck (up.requester .jtag) 0x010 0x01C = true ∧ up.ownCheck (up.requester .jtag) 0x010 0x01C = true) ∧
    (up.takesHead .jtag 0x010 0x008 (setBit (up.ctlWord 0x010) 2 true) = true ∧ up.takesHead .jtag 0x040 0x008 (setBit (up.ctlWord 0x040) 2 true) = true) ∧
    (let d := up.updHdr 0x040 fun h => { h with ctl := setBit h.ctl 0 true }; d.takesHead .jtag 0x040 0x008 (setBit (d.ctlWord 0x040) 2 true) = true ∧ bit (d.head 0x040).ctl 0 = true) ∧
    (isBlockPage 0x002 = true ∧ up.takesHead .jtag 0x002 0x008 (setBit (up.ctlWord 0x002) 1 true) = true) ∧
    (isBlockPage 0x0C8 = true ∧ up.takesHead .jtag 0x0C8 0x008 (setBit (up.ctlWord 0x0C8) 1 true) = true ∧ up.canonical = true) := by decide +kernel

/-! ## Hypotheses that states meet: the host ports -/

/-- The booted device with the link of the endpoint up. -/
def linked : Device := up.updPcie fun x => { x with linkUp := true, vecMask := 0, msixEn := true }

theorem test_meets_PcieCommandsComplete :
    (up.pcieAnswers = true ∧ 5 ≤ up.boot.stage ∧ (stage 4).pcieAnswers = true ∧ (stage 4).boot.stage < 5 ∧ (stage 4).boot.clkFailed = false) ∧
    (let d := { up with boot := { up.boot with clkFailed := true } }; d.pcieAnswers = true ∧ d.boot.clkFailed = true) ∧
    ((Bar.bar0 ≠ .bar4) ∧ 0x40 % 4 = 0 ∧ 0x40 + 4 ≤ barSize .bar0 ∧ up.barOpen .bar0 0x40 1 = true ∧ up.barOpen .bar0 (barSize .bar0 - 4) 1 = true ∧ up.barOpen .bar2 (barSize .bar2 - 4) 1 = true) ∧
    ((0x3 : BitVec 4) ≠ 0 ∧ alignedBe 0x3 = true ∧ (0x6 : BitVec 4) ≠ 0 ∧ alignedBe 0x6 = false ∧ (blockOf ((barTarget .bar0 0x40).1 / 0x1000)).isSome = true) ∧
    (up.pcie.perstLow = false ∧ (up.updPcie fun x => { x with perstLow := true }).pcie.perstLow = true) ∧
    (linked.pcieAnswers = true ∧ linked.pcieMayIssue = true ∧ linked.pcie.msixEn = true ∧ linked.pcie.funcMask = false) := by decide +kernel

/-- A write frame of one word to 0x000078, and a read frame of the same word. -/
def wr1 : List Byte := [0xF0, 0x00, 0x00, 0x78, crc8 [0xF0, 0x00, 0x00, 0x78], 1, 0, 0, 0, crc8 [1, 0, 0, 0]]
def rd1 : List Byte := [0xF8, 0x00, 0x00, 0x78, crc8 [0xF8, 0x00, 0x00, 0x78]]

theorem test_meets_FrameCommandsComplete :
    (wr1 ≠ [] ∧ rd1 ≠ [] ∧ up.live = true ∧ 5 ≤ up.boot.stage ∧ up.framePagesOpen wr1 = true ∧ up.framePagesOpen rd1 = true ∧ (stage 0xE).live = true ∧
      (stage 0xE).framePagesOpen rd1 = true ∧ up.spi.enabled = true ∧ wr1 ≠ spiResetPattern ∧ rd1 ≠ spiResetPattern) ∧
    ((frameCmd wr1).getLsbD 3 = false ∧ frameResult { words := 8, mwl := 64, mrl := 64, notReady := false } false wr1 = 0 ∧
      (frameCmd rd1).getLsbD 3 = true ∧ frameResult { words := 8, mwl := 64, mrl := 64, notReady := false } true rd1 = 0 ∧
      frameResult { words := 8, mwl := 64, mrl := 64, notReady := false } true (rd1.take 4 ++ [0]) = 3) ∧
    (up.busAnswers (busIdx .a) = true ∧ up.i3c[(busIdx .a : Fin 2)].mode = .smbus ∧ up.busResponse (busIdx .a) = some (frameResponse 0 5 [])) ∧
    (let d := up.updI3c 0 fun x => { x with mode := .i3c, hdr := true }; d.busAnswers (busIdx .a) = true ∧ d.i3c[(busIdx .a : Fin 2)].mode = .i3c ∧ d.i3c[(busIdx .a : Fin 2)].hdr = true ∧ (0x41 : Byte) ≠ 0x40) ∧
    (let h : List Byte := [0xF0, 0xFF, 0xFF, 0xFC]; (0 : Byte) ≠ crc8 h ∧ 1 ≤ 8 ∧ 0xFFFFFC + 4 * (1 - 1) ≤ 0xFFFFFC ∧ 0xFFFFFC % 4 = 0 ∧ 4 * 1 + 6 ≤ 10 ∧ 4 * 1 + 2 ≤ 6 ∧
      ([1, 2, 3, 4] : List Byte).length = 4 * 1 ∧ (0xF0 : Byte).getLsbD 3 = false ∧ (0xF8 : Byte).getLsbD 3 = true) := by decide +kernel

/-- The booted device with port A in I3C mode, with a dynamic address and an interrupt that waits. -/
def i3cUp : Device := up.updI3c 0 fun x => { x with mode := .i3c, dyn := some 9, ibiWait := true, rsp := some { bytes := [0x80, 0x89], ready := true } }

theorem test_meets_CccAndPortCommandsComplete :
    (i3cUp.busAnswers (busIdx .a) = true ∧ i3cUp.i3c[(busIdx .a : Fin 2)].mode = .i3c ∧ i3cUp.live = true ∧ i3cUp.addressable = true ∧
      i3cUp.i3c[(busIdx .a : Fin 2)].hdr = false ∧ (i3cUp.updI3c 0 fun x => { x with hdr := true }).i3c[(busIdx .a : Fin 2)].hdr = true) ∧
    (let d := (stage 0xE).updI3c 0 fun x => { x with mode := .i3c }; d.busAnswers (busIdx .a) = true ∧ d.i3c[(busIdx .a : Fin 2)].mode = .i3c ∧ d.addressable = false) ∧
    (let d := up.updI3c 0 fun x => { x with mode := .i3c }; d.i3c[(busIdx .a : Fin 2)].dyn = none ∧ d.i3c[(busIdx .a : Fin 2)].static = 0x30 ∧
      d.i3c[(busIdx .a : Fin 2)].rsp = none ∧ d.i3c[(busIdx .a : Fin 2)].hjDone = false ∧ d.i3c[(busIdx .a : Fin 2)].hjEn = true ∧ d.busAnswers (busIdx .a) = true) ∧
    (let d := (up.updI3c 0 fun x => { x with mode := .i3c }).setReg 0x000070 0x180; bit (d.hportCfg 0) 7 = true ∧ bit (d.hportCfg 0) 8 = true ∧ d.busAnswers (busIdx .a) = true ∧
      d.i3c[(busIdx .a : Fin 2)].mode = .i3c ∧ d.i3c[(busIdx .a : Fin 2)].dyn = none) ∧
    (up.busAnswers (busIdx .b) = true ∧ up.i3c[(busIdx .b : Fin 2)].modeCfg = 0 ∧ up.i3c[(busIdx .b : Fin 2)].mode ≠ .i3c ∧ up.i3c[(busIdx .b : Fin 2)].mode = .smbus) ∧
    (i3cUp.i3c[(busIdx .a : Fin 2)].rsp = some { bytes := [0x80, 0x89], ready := true } ∧ i3cUp.i3c[(busIdx .a : Fin 2)].ibiWait = true ∧
      i3cUp.i3c[(busIdx .a : Fin 2)].intEn = true ∧ i3cUp.i3c[(busIdx .a : Fin 2)].dyn.isSome = true) := by decide +kernel

/-- The booted device whose SMBus port A has context 0, an administrator, and PAGE n. -/
def pmUp (n : Byte) : Device :=
  (up.updI3c 0 fun x => { x with pmCtx := some 0, pmPage := n }).updCtx 0 fun c => { c with st := .opened, port := .i3cA, priv := .admin, smbus := true }

def pmX : SmbXfer := { port := .a, pec := .good }

/-- The same with set points and limits in loop 0. -/
def pmSet : Device :=
  let a := fun o => pageAddr (loopPage 0) o
  ((((pmUp 0).setReg (a 0x04C) 0x3000).setReg (a 0x044) 0x1000).setReg (a 0x048) 0x10001000).setReg (a 0x0C0) 0x38000400

theorem test_meets_PmbusFits :
    pmSet.pmFits 0 0 0x044 13 0 (codeOfU16 0x1800) ∧ pmSet.pmFits 0 0 0x048 29 16 (codeOfU16 0x1800) ∧ pmSet.pmFits 0 0 0x048 13 0 (codeOfU16 0x1000) ∧
    pmSet.pmFits 0 0 0x0C0 29 16 (codeOfU16 0x3800) ∧ pmSet.pmFits 0 0 0x0C0 13 0 (codeOfU16 0x0400) ∧ pmSet.pmFits 0 0 0x050 8 0 (ratOpen (ofLinear11 0x0008 * 10)) ∧
    pmSet.pmFits 0 0 0x054 31 16 (ratOpen (ofLinear11 0x0001 * 10000)) ∧ pmSet.pmFits 0 0 0x0C8 28 16 (ratNear (ofLinear11 0x03E8)) ∧ pmSet.pmFits 0 0 0x0D4 7 0 (ratNear (ofLinear11 0x0064)) ∧
    0 < ofLinear11 0x03E8 ∧ 8000 ≤ ratNear (32000000 / ofLinear11 0x03E8) ∧ ratNear (32000000 / ofLinear11 0x03E8) ≤ 160000 ∧
    pmSet.pmFits 0 0 0x070 17 0 (ratNear (32000000 / ofLinear11 0x03E8)) ∧ pmSet.pmReady pmX = true ∧ pmSet.canonical = true := by
  unfold Device.pmFits; decide +kernel

theorem test_meets_PmbusCommandsComplete :
    ((pmUp 0).pmReady pmX = true ∧ (pmUp 15).pmReady pmX = true ∧ (pmUp 15).i3c[(busIdx pmX.port : Fin 2)].pmPage.toNat = 15 ∧ (pmUp 0).hottestOf ((pmUp 0).phasesOf 0 (·.st == .live)) = none ∧ (pmUp 0).i3c[(busIdx pmX.port : Fin 2)].pmPage ≠ 0xFF ∧
      (pmUp 0xFF).pmReady pmX = true ∧ (pmUp 0xFF).i3c[(busIdx pmX.port : Fin 2)].pmPage = 0xFF ∧ (pmUp 0).canonical = true) ∧
    (let d := { (pmUp 0) with phase := upd (pmUp 0).phase 0 fun p => { p with st := .live, own := some 0 }, thm := { (pmUp 0).thm with chan := upd (pmUp 0).thm.chan (tmonChan 0) fun c => { c with st := .valid, val := 400 } } };
      d.pmReady pmX = true ∧ d.hottestOf (d.phasesOf 0 (·.st == .live)) = some 400) ∧
    pmCodes.contains 0xFF = false ∧ operationOf 0x94 = none ∧
    (let d := (pmUp 0).pmArrive 0; let f := State.reset.fuses; (d.pmField f (d.pmSource 0) 0 0x040 1 0 0).2 = true ∧
      (d.writeBad (d.pmSource 0) 0x03004C 0xFFFFFFFF (railReqWord 0 3)).isNone = true ∧ (d.writeBad (d.pmSource 0) (pageAddr (loopPage 0) 0x0D8) 0xFFFFFFFF 0xFFFFFFFF).isNone = true) ∧
    (let d := ((((pmUp 0).updHdr (pg (loopPage 0)) fun h => { h with owner := some (.ctx 1), mode := .exclusive }).updCtx 0 fun c => { c with priv := .operator }).pmArrive 0); let f := State.reset.fuses; (d.pmField f (d.pmSource 0) 0 0x040 1 0 0).2 = false ∧
      (d.writeBad (d.pmSource 0) (pageAddr (loopPage 0) 0x0D8) 0xFFFFFFFF 0xFFFFFFFF).isNone = false ∧
      ((d.writePlain f (d.pmSource 0) (pageAddr (loopPage 0) 0x0D8) 0xFFFFFFFF 0xFFFFFFFF).writeBad (d.pmSource 0) 0x03004C 0xFFFFFFFF (railReqWord 0 4)).isNone = true) := by decide +kernel

/-! ## Hypotheses that states meet: phases and loops -/

/-- The booted device with phase k, of loop 0, in state st. -/
def phaseUp (k : Fin 64) (st : PhaseState) : Device := up.updPh k fun p => { p with st := st, own := some 0 }

/-- The booted device with loop n in state st. -/
def loopUp (n : Fin 16) (st : LoopState) : Device := up.updLp n fun l => { l with st := st }

theorem test_meets_PhaseStateAndFailureEventsComplete :
    (let d := (phaseUp 63 .joining).updPh 63 fun p => { p with joinCyc := 1 }; d.hupRuns = true ∧ (d.ph 63).st = .joining ∧ max 1 (bits (d.preg 63 0x04) 23 20) ≤ (d.ph 63).joinCyc) ∧
    (let d := ((phaseUp 0 .draining).updPh 0 fun p => { p with dest := .handoff }).setReg (phaseAddr 0 0x10) 625;
      (d.ph 0).st = .draining ∧ d.decayed 0 ⟨400, 400⟩ ⟨400, 400⟩ = true ∧ (d.ph 0).dest = .handoff ∧ d.mapRegulates 0 = false) ∧
    (let d := (((phaseUp 0 .draining).updPh 0 fun p => { p with dest := .handoff }).setReg (phaseAddr 0 0) 0x100).updLp 0 fun l => { l with st := .run };
      (d.ph 0).dest = .handoff ∧ d.mapRegulates 0 = true ∧ d.phDisabled 0 = false) ∧
    (((phaseUp 0 .draining).updPh 0 fun p => { p with dest := .parked }).ph 0).dest = .parked ∧ (((phaseUp 0 .draining).updPh 0 fun p => { p with dest := .off }).ph 0).dest = .off ∧
    (let d := (phaseUp 0 .draining).updPh 0 fun p => { p with drainPer := 4 }; max 4 (bits (d.preg 0 0x04) 27 24) ≤ (d.ph 0).drainPer) ∧
    (let dets : List PhaseDetect := [.openPhase, .imonRange (List.replicate 4 ⟨0, 0⟩ ++ List.replicate 4 ⟨2000, 0⟩)];
      let d := (phaseUp 0 .live).updPh 0 fun p => { p with openCnt := 2 };
      (dets.foldl (fun d det => d.countDetect 0 det) d).firstDetected 0 dets = some (2, 0x17)) ∧
    (let dets : List PhaseDetect := [.imonRange (List.replicate 7 ⟨0, 0⟩)];
      (dets.foldl (fun d det => d.countDetect 0 det) (phaseUp 0 .live)).firstDetected 0 dets = none) ∧
    (phaseUp 63 .off).firstDetected 63 [.stage] = some (4, 0x19) ∧ ((phaseUp 0 .live).setReg (phaseAddr 0 0x10) 625).decayed 0 ⟨400, 400⟩ ⟨2000, 400⟩ = false ∧
    ((phaseUp 0 .live).ph 0).st ≠ .unpop ∧ ((phaseUp 0 .live).ph 0).st ≠ .failed ∧ ((phaseUp 0 .failed).ph 0).st = .failed := by decide +kernel

theorem test_meets_PulseLendAndCalibrationComplete :
    ((phaseUp 0 .live).hupRuns = true ∧ ((phaseUp 0 .live).ph 0).st.active = true ∧ ((phaseUp 0 .live).peakOf 0).1 = 0 ∧
      ((((phaseUp 0 .live).updLp 0 fun l => { l with iCmd := 32767 }).setReg (phaseAddr 0 0x14) 0x3FF).peakOf 0).1 ≠ 0) ∧
    (let d := (((phaseUp 0 .live).updPh 0 fun p => { p with pulse := .high, dac := 100, ramp := 10 }).setReg (phaseAddr 0 0x14) 0x80000000).updLp 0 fun l => { l with period := 40000 };
      let d := d.setReg (phaseAddr 0 0x04) 0x00000020;
      (d.ph 0).pulse = .high ∧ (d.ph 0).st.active = true ∧ 512 ≤ d.tBlank 0 ∧ d.tBlank 0 ≤ 600 ∧ (d.ph 0).trips 600 70000 = true ∧ (d.ph 0).trips 600 0 = false ∧
        d.dmaxTime 0 < 20001 ∧ 600 ≤ d.dmaxTime 0) ∧
    (let d := (((phaseUp 0 .live).updPh 0 fun p => { p with pulse := .low }).setReg (phaseAddr 0 0x10) 625).setReg (phaseAddr 0 0x04) 0x80000;
      (d.ph 0).pulse = .low ∧ d.demOn 0 = true ∧ d.imonAmps 0 ⟨400, 400⟩ ≤ 0) ∧
    (let d := (phaseUp 0 .live).updPh 0 fun p => { p with lendReq := true }; d.hupRuns = true ∧ (d.ph 0).lendReq = true ∧ (d.ph 0).st.active = true) ∧
    (let d := (phaseUp 0 .draining).updPh 0 fun p => { p with lendReq := true, dest := .parked }; (d.ph 0).lendReq = true ∧ (d.ph 0).st = .draining ∧ (d.ph 0).dest = .parked) ∧
    (let d := (phaseUp 0 .parked).updPh 0 fun p => { p with lendReq := true }; (d.ph 0).lendReq = true ∧ (d.ph 0).st = .parked) ∧ up.live = true := by decide +kernel

theorem test_meets_PhaseWritesComplete :
    (let d := phaseUp 0 .unpop; let w := mergeWord (d.preg 0 0x00) 0x100 (byteMask 0xF &&& storedMask (phaseAddr 0 0x00));
      d.canonical = true ∧ alignedBe 0xF = true ∧ d.takes .jtag (phaseAddr 0 0x00) (byteMask 0xF) 0x100 = true ∧ (d.ph 0).st = .unpop ∧ bits w 4 0 = 0 ∧ bit w 8 = true ∧
      d.ownerOf 0x010 = none ∧ d.mapCrowded 0 0 (bit w 8) = false) ∧
    (let d := phaseUp 0 .off; let w := mergeWord (d.preg 0 0x00) 0x1F (byteMask 0xF &&& storedMask (phaseAddr 0 0x00));
      d.takes .jtag (phaseAddr 0 0x00) (byteMask 0xF) 0x1F = true ∧ (d.ph 0).st = .off ∧ bits w 4 0 = 0x1F ∧ bit w 8 = false) ∧
    (∀ off : Bool, (phaseUp 0 .live).takes .jtag (phaseAddr 0 0x18) 0xFFFFFFFF (flag 1 off) = true) ∧ (phaseUp 0 .live).phDisabled 0 = false ∧ (phaseUp 0 .live).canonical = true ∧
    ((phaseUp 0 .parked).ph 0).st = .parked ∧ ((phaseUp 0 .handoff).ph 0).st = .handoff ∧ ((phaseUp 0 .live).setReg (phaseAddr 0 0x18) 2).phDisabled 0 = true ∧
    (let d := phaseUp 0 .failed; d.takes .jtag (phaseAddr 0 0x18) 0xFFFFFFFF (flag 1 (d.phDisabled 0) ||| flag 0 true) = true ∧ (d.ph 0).st = .failed ∧ d.failActive 0 (some ⟨false, []⟩) = false ∧ d.failActive 0 (some ⟨true, []⟩) = true) := by
  decide +kernel

theorem test_meets_LoopSlotsComplete :
    (up.hupRuns = true ∧ up.updates 0 0 false = false ∧ (loopUp 0 .run).updates 0 0 true = true ∧ 8 ≤ (List.replicate 8 (750000 : Int)).length ∧ (List.replicate 7 (0 : Int)).length < 8) ∧
    (let d := (phaseUp 0 .live).updPh 0 fun p => { p with perDone := true }; up.balances 0 0 = false ∧ d.balances 0 0 = true ∧ (d.ph 0).own = some 0) ∧
    (let d := (((phaseUp 63 .live).updPh 1 fun p => { p with st := .live, own := some 0 }).updLp 0 fun l => { l with st := .run, shedCnt := 1 }).setReg (pageAddr (loopPage 0) 0x0E4) 0x80000000;
      (d.lp 0).st = .run ∧ bit (d.leff 0 0x0E4) 31 = true ∧ max 1 (bits (d.leff 0 0x0E4) 7 0) ≤ (d.lp 0).shedCnt ∧ max 1 (bits (d.leff 0 0x0E4) 29 24) < d.activeN 0 ∧
      d.shedHold 0 = false ∧ (d.phasesOf 0 (·.st == .live)).getLast? = some 63) := by decide +kernel

/-- A valid shadow bank in loop 0. -/
def banked : Device :=
  let a := fun o => pageAddr (loopPage 0) o
  ((up.setReg (a 0x064) 0x00010000).setReg (a 0x068) 0x4000).setReg (a 0x070) 160000

theorem test_meets_BankSetpointAndCueCommandsComplete :
    (up.canonical = true ∧ banked.canonical = true ∧ up.takes .jtag (pageAddr (loopPage 0) 0x094) 0xFFFFFFFF 1 = true ∧ banked.takes .jtag (pageAddr (loopPage 0) 0x094) 0xFFFFFFFF 1 = true ∧
      banked.bankValid 0 = true ∧ up.bankValid 0 = false) ∧
    (up.hupRuns = true ∧ (up.lp 0).pending = false ∧ ((banked.updLp 0 fun l => { l with pending := true }).lp 0).pending = true) ∧
    (alignedBe 0xF = true ∧ up.takes .jtag (pageAddr (loopPage 15) (0x040 + 4 * 2)) (byteMask 0xF) 0 = true ∧ up.loopWriteOk 15 0x048 0 (byteMask 0xF) = false ∧ up.loopWriteOk 15 0x040 0 (byteMask 0xF) = true ∧ (up.lp 15).st.regulating = false ∧
      ((loopUp 15 .run).lp 15).st.regulating = true) ∧
    (bit (up.reg 0x0C8040) 0 = false ∧ bit ((up.setReg 0x0C8040 1).reg 0x0C8040) 0 = true ∧ (up.setReg 0x0C8040 1).hupRuns = true) ∧
    (up.takes .jtag 0x0C8044 0xFFFFFFFF 0x7F = true ∧ Fin.ofNat 16 (bits (0x7F : Word) 6 3) = 15 ∧ up.ownerOf (0x010 + 15) = none) ∧
    (let d := up.updHdr 0x01F fun h => { h with owner := some (.ctx 3) }; d.takes .jtag 0x0C8044 0xFFFFFFFF 0x7F = true ∧ d.ownerOf (0x010 + 15) = some (.ctx 3) ∧
      (.ctx 3 : Requester) ≠ d.requester .jtag) ∧
    ((up.updLp 0 fun l => { l with cueActive := true }).lp 0).cueActive = true := by decide +kernel

/-- The booted device with the page of loop n enabled and the loop in state st. -/
def loopOn (n : Fin 16) (st : LoopState) : Device := (loopUp n st).updHdr (pg (loopPage n)) fun h => { h with ctl := setBit h.ctl 0 true }

theorem test_meets_LoopStateCommandsComplete :
    (up.hupRuns = true ∧ up.loopPermitted 0 = false ∧ (loopOn 15 .off).loopPermitted 15 = true ∧ ((loopOn 15 .off).lp 15).st = .off ∧ ((loopOn 15 .rampdown).lp 15).st = .rampdown) ∧
    (((loopUp 0 .prebias).lp 0).st = .prebias ∧ ((loopUp 0 .run).lp 0).st = .run ∧ bit ((loopUp 0 .run).leff 0 0x0E0) 31 = false ∧
      bit (((loopUp 0 .ramp).setReg (pageAddr (loopPage 0) 0x0E0) 0x80000000).leff 0 0x0E0) 31 = true) ∧
    (∀ b : Bool, (loopOn 0 .run).takesHead .jtag (loopPage 0) 0x008 (setBit ((loopOn 0 .run).ctlWord (pg (loopPage 0))) 0 b) = true) ∧
    ((loopOn 0 .run).loopPermitted 0 = true ∧ ((loopOn 0 .run).lp 0).st ≠ .off ∧ ((loopOn 0 .run).lp 0).st ≠ .faulted) ∧
    (let d := ((loopUp 0 .prebias).setReg (pageAddr (loopPage 0) 0x044) 4000).updLp 0 fun l => { l with pbSum := 15, pbCnt := 15 };
      15 ≤ (d.lp 0).pbCnt ∧ (((15 + 1) * d.attenX 0 * 312500 : Nat) : Int) ≤ (d.setpoint 0 : Nat) * vCode ∧ (((15 + 1000) * d.attenX 0 * 312500 : Nat) : Int) ≤ (d.setpoint 0 : Nat) * vCode) ∧
    (((loopUp 0 .prebias).lp 0).pbCnt < 15 ∧ ((loopUp 0 .prebias).setpoint 0 : Nat) * vCode < ((1 * (loopUp 0 .prebias).attenX 0 * 312500 : Nat) : Int)) ∧
    (let d := (loopUp 0 .ramp).updLp 0 fun l => { l with ssDone := true, pgCnt := 8 }; (d.lp 0).st = .ramp ∧ (d.lp 0).ssDone = true ∧ 8 ≤ (d.lp 0).pgCnt) ∧
    (((loopUp 0 .rampdown).lp 0).vSs ≤ 0 ∧ ((loopUp 0 .draining).lp 0).st = .draining ∧ (loopUp 0 .draining).anyDraining 0 = false) ∧
    (let d := (loopOn 0 .off).updLp 0 fun l => { l with enLatched := true }; (d.lp 0).st = .off ∧ (d.lp 0).enLatched = true ∧ d.loopPermitted 0 = true ∧ (d.lp 0).sense.ov = false) ∧
    (let d := (loopOn 0 .off).updLp 0 fun l => { l with enLatched := true, sense := { l.sense with ov := true } }; (d.lp 0).sense.ov = true ∧ d.loopPermitted 0 = true) := by decide +kernel

/-- A loop whose hottest stage is at 100 °C, its over-temperature limit, in state st. -/
def hotLoop (st : LoopState) : Device :=
  let d := ((loopUp 0 st).updPh 0 fun p => { p with st := .live, own := some 0 }).setReg (pageAddr (loopPage 0) 0x0D4) 100
  { d with thm := { d.thm with chan := upd d.thm.chan (tmonChan 0) fun c => { c with st := .valid, val := 1600 } } }

theorem test_meets_LoopFaultCommandsComplete :
    (((loopUp 0 .run).lp 0).st = .run ∧ ((loopUp 0 .ramp).lp 0).st ≠ .run ∧ ((loopUp 0 .rampdown).lp 0).st = .rampdown ∧ ((loopUp 0 .prebias).lp 0).st = .prebias ∧ (loopUp 0 .run).hupRuns = true) ∧
    (let dets : List LoopDetect := [.uv (List.replicate 16 0), .oc (List.replicate 125 1024)];
      let d := (loopUp 0 .run).setReg (pageAddr (loopPage 0) 0x0C0) 1;
      let c := dets.foldl (fun d x => d.loopCount 0 x) d;
      ((List.range 9).filter fun b => (dets.filterMap (c.loopDetected 0)).any fun x => x.1 == b) = [1, 2]) ∧
    (let dets : List LoopDetect := [.uv [0]]; (dets.filterMap ((dets.foldl (fun d x => d.loopCount 0 x) (loopUp 0 .run)).loopDetected 0)) = []) ∧
    (hotLoop .run).otActive 0 = true ∧ ((hotLoop .run).lp 0).st.faultable = true ∧ (loopUp 0 .run).otActive 0 = false ∧
    ((loopUp 0 .off).lp 0).st = .off ∧ ((loopUp 0 .faulted).lp 0).st = .faulted ∧
    ((loopUp 0 .run).ovHigh 0 1000000 = true ∧ (up.setReg (pageAddr (loopPage 0) 0x0C0) 0x0FA00000).ovHigh 0 1000000 = false ∧
      (up.setReg (pageAddr (loopPage 0) 0x0C0) 0x0FA00000).ovHigh 0 1000001 = true) ∧
    (let d := ((loopUp 0 .crowbar).setReg (pageAddr (loopPage 0) 0x0CC) 0x100).setReg (pageAddr (loopPage 0) 0x0C0) 0x0FA00000;
      (d.lp 0).st = .crowbar ∧ d.lendGrp 0 = 0 ∧ (d.releaseCount 0 (List.replicate 7 0)).releaseReady 0 0 1 = false ∧ (d.releaseCount 0 (List.replicate 8 0)).releaseReady 0 0 1 = true ∧
        (d.releaseCount 0 (List.replicate 8 0)).releaseReady 0 1000001 1 = false) ∧
    (let d := loopUp 0 .run; (d.lp 0).st ≠ .crowbar ∧ d.releaseGroup 0 = []) ∧
    (((phaseUp 0 .live).ph 0).own = some 0 ∧ ((phaseUp 0 .live).ph 0).st ≠ .unpop ∧ ((phaseUp 0 .live).ph 0).st ≠ .failed) := by decide +kernel

theorem test_meets_LoopStatusCommandsComplete :
    up.hupRuns = true ∧ alignedBe 0xF = true ∧ up.takes .jtag (pageAddr (loopPage 0) 0x0D8) (byteMask 0xF) 0x1FF = true ∧
    ((loopUp 0 .faulted).lp 0).st = .faulted ∧ (loopUp 0 .faulted).anyDraining 0 = false ∧ ((loopUp 0 .faulted).lp 0).en = false ∧
    (loopUp 0 .faulted).takes .jtag (pageAddr (loopPage 0) 0x0D8) (byteMask 0xF) 0x1FF = true := by decide +kernel

/-! ## Hypotheses that states meet: the sequencer -/

/-- The booted device with the sequencer's page enabled and the sequencer in state st. -/
def seqUp (st : SeqState) : Device :=
  let d := up.updHdr (pg seqPage) fun h => { h with ctl := setBit h.ctl 0 true }
  { d with seq := { d.seq with st := st } }

/-- The same with scene 1 defined. -/
def sceneUp (st : SeqState) : Device := (seqUp st).setReg 0x030064 0x80000000

/-- The same with entry i, present at step 3 of no scene, in state e. -/
def entryUp (st : SeqState) (i : Fin 128) (e : EntryState) : Device :=
  ((seqUp st).setReg (0x100000 + 0x40 * i.val) 0x80030000).updEn i fun x => { x with st := e }

theorem test_meets_SceneRequestsComplete :
    (let d := up.updHdr (pg seqPage) fun h => { h with ctl := 0 }; d.takes .jtag 0x030044 0xFFFFFFFF 1 = true ∧ bit (d.head (pg 0x030)).ctl 0 = false) ∧
    ((seqUp .idle).takes .jtag 0x030044 0xFFFFFFFF 1 = true ∧ bit ((seqUp .idle).head (pg 0x030)).ctl 0 = true ∧ bit ((seqUp .idle).reg (0x030060 + 4 * 1)) 31 = false) ∧
    (let d := ((sceneUp .idle).setReg 0x100000 0x80000002).setReg 0x100004 0x00000081; d.takes .jtag 0x030044 0xFFFFFFFF 1 = true ∧ bit (d.reg (0x030060 + 4 * 1)) 31 = true ∧ d.listOk 1 = false) ∧
    ((sceneUp .idle).takes .jtag 0x030044 0xFFFFFFFF 1 = true ∧ bit ((sceneUp .idle).reg (0x030060 + 4 * 1)) 31 = true ∧ (sceneUp .idle).listOk 1 = true ∧ (sceneUp .idle).seq.st = .idle) ∧
    (let d := { sceneUp .wrap with seq := { (sceneUp .wrap).seq with rank := 4 } }; d.takes .jtag 0x030044 0xFFFFFFFF 1 = true ∧ d.listOk 1 = true ∧ d.seq.st = .wrap ∧ d.seq.rank = 4 ∧
      d.seq.latched = none) ∧
    ((seqUp .idle).hupRuns = true ∧ (seqUp .idle).seq.latched = none) ∧
    (let d := { sceneUp .wrap with seq := { (sceneUp .wrap).seq with latched := some (1, 4) } }; d.seq.latched = some (1, 4) ∧ d.seq.st = .wrap ∧ d.wrapSet = []) := by decide +kernel

theorem test_meets_EntryEventsComplete :
    (let d := entryUp .take 20 .pending; let d := { d with seq := { d.seq with step := 3 } }; d.hupRuns = true ∧ d.seq.st = .take ∧ d.holdNeeded = false ∧ (d.en 20).st = .pending ∧
      d.stepOf 20 ≤ d.seq.step ∧ ∀ j, j ∈ d.deps 20 → (d.en j).st = .on) ∧
    (let d := (entryUp .rail 0 .pending).updHdr (pg (loopPage 0)) fun h => { h with ctl := setBit h.ctl 0 true }
      let d := { d with seq := { d.seq with railOn := true, step := 63 } }; d.seq.st = .rail ∧ d.seq.railOn = true ∧ (d.en 0).st = .pending ∧ d.stepOf 0 ≤ d.seq.step ∧ d.deps 0 = [] ∧
        loopOf 0 = some 0 ∧ d.loopPermitted 0 = true) ∧
    (let d := (entryUp .take 0 .starting).updLp 0 fun l => { l with st := .run }; (d.en (railEntry 0)).st = .starting ∧ loopOf (railEntry 0) = some 0 ∧ (d.lp 0).st = .run) ∧
    (let d := (((entryUp .take 95 .starting).setReg (0x100000 + 0x40 * 95 + 0x10) 0x40000000).setReg (0x100000 + 0x40 * 95 + 0x1C) 0x01000000).setReg (0x100000 + 0x40 * 95 + 0x14) 0x08000000;
      (d.en (railEntry 95)).st = .starting ∧ loopOf (railEntry 95) = none ∧ d.judges (railEntry 95) = true ∧ lastAll (d.filterLen (railEntry 95)) [320, 320, 320, 320, 320, 320, 320, 320] (fun x =>
        decide (d.thrCode (railEntry 95) (bits (d.shot (railEntry 95) 0x1C) 31 16) ≤ x) && decide (x < d.thrCode (railEntry 95) (bits (d.shot (railEntry 95) 0x14) 31 16))) = true) ∧
    (let d := entryUp .wrap 20 .on; 20 ∈ d.wrapSet ∧ d.stepOf 20 = d.topStep d.wrapSet ∧ (d.en 20).st.up = true ∧ d.dependantsDown 20 = true) ∧
    (let d := (((entryUp .wrap 20 .stopping).setReg (0x100000 + 0x40 * 20 + 0x10) 0x40000000).setReg (0x100000 + 0x40 * 20 + 0x1C) 0x00000100);
      (d.en (railEntry 20)).st = .stopping ∧ loopOf (railEntry 20) = none ∧ d.judges (railEntry 20) = true ∧ lastAll (d.filterLen (railEntry 20)) [0, 0, 0, 0, 0, 0, 0, 0] (fun x => decide (x < d.thrCode (railEntry 20) (bits (d.shot (railEntry 20) 0x1C) 15 0))) = true) ∧
    (let d := entryUp .wrap 0 .stuck; (d.en (railEntry 0)).st = .stuck ∧ (d.lp 0).st = .off ∧ lastAll 8 [0, 0, 0, 0, 0, 0, 0, 0] (fun x => decide (d.loopMicrovolts 0 x ≤ (bits (d.shot (railEntry 0) 0x1C) 15 0 * 1000 : Nat))) = true) ∧
    (let d := (entryUp .take 20 .off).updEn 20 fun e => { e with enlatch := true }; (d.en 20).enlatch = true ∧ (d.en 20).st.down = true) ∧
    (let d := (entryUp .wrap 20 .stopping).setReg (0x100000 + 0x40 * 20) 0xA0030000; (d.en (railEntry 20)).st = .stopping ∧ d.compatMode (railEntry 20) = true ∧
      (entryUp .wrap 20 .stopping).compatMode (railEntry 20) = false) := by decide +kernel

theorem test_meets_SequencerEventsComplete :
    ((entryUp .wrap 20 .on).hupRuns = true ∧ (entryUp .wrap 20 .on).seq.st = .wrap ∧ (entryUp .wrap 20 .on).wrapSet ≠ []) ∧
    (let d := seqUp .rail; d.seq.st = .rail ∧ d.seq.railOn = false ∧ d.wrapSet = []) ∧
    (let d := seqUp .retry; d.seq.st = .retry ∧ d.seq.waiting = false ∧ d.seq.latched = none ∧ d.wrapSet = []) ∧
    ((seqUp .hold).seq.st = .hold ∧ (seqUp .hold).holdNeeded = false ∧ (seqUp .take).seq.st = .take) ∧
    (let d := { seqUp .take with hup := { (seqUp .take).hup with st := .batt } }; d.seq.st = .take ∧ d.holdNeeded = true) ∧
    (let d := { sceneUp .retry with seq := { (sceneUp .retry).seq with waiting := true, tgt := 1 } }; d.seq.st = .retry ∧ d.seq.waiting = true ∧
      d.seq.takes ≤ bits (d.reg (0x030060 + 4 * d.seq.tgt)) 26 24) ∧
    (let d := { sceneUp .retry with seq := { (sceneUp .retry).seq with waiting := true, tgt := 1, takes := 1 } }; bits (d.reg (0x030060 + 4 * d.seq.tgt)) 26 24 < d.seq.takes) ∧
    (({ up with rso := { up.rso with src := 0 } } : Device).rso.src.getLsbD (31 : Fin 32).val = false ∧ (up.en (rsoEntry 31)).st ≠ .starting ∧ (∀ n, (up.lp n).sense.ov = false) ∧ ((entryUp .take (rsoEntry 31) .starting).en (rsoEntry 31)).st = .starting) := by decide +kernel

theorem test_meets_RailCommandsComplete :
    (((entryUp .take 20 .starting).en (railEntry 20)).st = .starting ∧ (entryUp .take 20 .starting).hupRuns = true) ∧
    (let d := (((entryUp .idle 20 .on).setReg (0x100000 + 0x40 * 20 + 0x10) 0x40000000).setReg (0x100000 + 0x40 * 20 + 0x18) 0x00000100); d.monitorHolds (railEntry 20) .uv [0, 0, 0, 0, 0, 0, 0, 0] = some 2) ∧
    up.monitorHolds (railEntry 20) .uv [0, 0, 0, 0, 0, 0, 0, 0] = none ∧
    (∀ op ∈ [1, 2, 3, 4], up.takes .jtag 0x03004C 0xFFFFFFFF (field 31 29 op ||| field 6 0 127) = true) ∧ isRail 127 = false ∧ isRail 95 = true ∧ (seqUp .take).seq.st = .take ∧
    (∀ op ∈ [1, 2, 3, 4], (seqUp .take).takes .jtag 0x03004C 0xFFFFFFFF (field 31 29 op ||| field 6 0 95) = true) ∧
    (let d := entryUp .idle 95 .faulted; d.takes .jtag 0x03004C 0xFFFFFFFF (field 31 29 4 ||| field 6 0 95) = true ∧ d.seq.st = .idle ∧ (d.en 95).st = .faulted ∧ d.inScene 95 d.seq.cur = false) ∧
    (let d := entryUp .idle 0 .on; d.takes .jtag 0x03004C 0xFFFFFFFF (field 31 29 3 ||| field 6 0 0) = true ∧ (d.en 0).st.up = true) ∧
    ((seqUp .idle).seq.held = [] ∧ (let d := { seqUp .idle with seq := { (seqUp .idle).seq with held := [(.on, 95)] } }; d.seq.held = [(.on, 95)] ∧ d.seq.st = .idle ∧ d.seq.latched = none)) ∧
    (let d := entryUp .wrap 0 .stuck; d.takes .jtag 0x030050 0xFFFFFFFF 0xF0CE8000 = true ∧ bits (0xF0CE8000 : Word) 31 16 = 0xF0CE ∧ d.isAdmin (d.requester .jtag) = true ∧
      bit (0xF0CE8000 : Word) 15 = true ∧ (d.en 0).st = .stuck) ∧
    (let d := up.updCtx 0 fun c => { c with st := .opened, port := .pcie, priv := .operator }; d.takes (by' 0) 0x030050 0xFFFFFFFF 0xF0CE8000 = true ∧ d.isAdmin (d.requester (by' 0)) = false) ∧
    up.takes .jtag 0x030050 0xFFFFFFFF 0 = true ∧ bits (0 : Word) 31 16 ≠ 0xF0CE := by decide +kernel

/-! ## Hypotheses that states meet: hold-up path, charger, gauge -/

/-- Means of a source and a pack in range. -/
def mOk : HupMeas := { vbus := 1200, vpack := 1600, isrc := 0, ibat := 0 }

/-- The booted device with a pack of four cells at 25 °C, the path enabled and in state p, the charger in state c. -/
def packUp (p : PathState) (c : ChgState) : Device :=
  let d := ((up.setReg (pageAddr chgPage 0x040) 0x40000000).setReg (pageAddr hupPage 0x058) 0x3C000000).setReg (0x049100 + 8 * 72) 0xC0000000
  let d := (d.setReg (pageAddr hupPage 0x044) 0x10001000).setReg (pageAddr hupPage 0x048) 0x03E803E8
  { d with thm := { d.thm with chan := upd d.thm.chan 72 fun x => { x with st := .valid, val := 400 } }
           hup := { d.hup with st := p, en := true, present := true }, chg := { d.chg with st := c } }

/-- The pins that give the means m there: dividers of 1/16 and shunts of 1,000 µΩ. -/
def pinsOf (m : HupMeas) : HupPins := { vbus := m.vbus * 625, vpack := m.vpack * 625, isrc := m.isrc * 125 / 2, ibat := m.ibat * 125 / 2 }

/-- Every set of means below is what some pins give. -/
theorem test_means_come_from_pins :
    ∀ m ∈ [mOk, { mOk with vbus := 0, ibat := 16 }, { mOk with vpack := 0 }, { mOk with isrc := 2000 }, { mOk with vpack := 900 }, { mOk with vpack := 1000 }, { mOk with vpack := 1700 }],
      (packUp .standby .off).scaled (pinsOf m) = m := by decide +kernel

theorem test_meets_PowerPathCommandsComplete :
    ((packUp .share .off).hupRuns = true ∧ (packUp .share .off).hup.st = .share ∧ mOk.ibat.natAbs < 8 ∧ (packUp .detect .off).hup.st = .detect) ∧
    (let d := (packUp .nopack .off).setMeas mOk; let e := (d.updHup fun h => { h with present := h.present || d.boot.up.ao }).hotCheck; e.packQualified = true ∧ e.inhCause = 0) ∧
    (let d := (packUp .inhibit .off).setMeas mOk; let e := (d.updHup fun h => { h with present := h.present || d.boot.up.ao }).hotCheck; e.packQualified = true ∧ e.inhCause = 0) ∧
    (let d := (packUp .nopack .off).updHup fun h => { h with en := false }; (d.setMeas mOk).hotCheck.inhCause = 1) ∧
    (let d := (packUp .charge .cc).updHup fun h => { h with convFault := true }; (d.setMeas mOk).hotCheck.inhCause ≠ 0) ∧
    (let d := (packUp .batt .off).setReg (pageAddr hupPage 0x050) 400; let m := { mOk with vbus := 0, ibat := 16 };
      d.hup.st = .batt ∧ ((bits (d.hreg 0x058) 7 0 * 16 : Nat) : Int) ≤ m.ibat ∧ m.vbus < bits (d.hreg 0x050) 9 0 * 9) ∧
    (mOk.isrc ≤ ((bits ((packUp .handover .off).hreg 0x054) 7 0 * 2 : Nat) : Int)) ∧
    (let d := ((packUp .empty .off).setReg (pageAddr hupPage 0x04C) 0x03E80050).updHup fun h => { h with qualifying := true };
      d.inWindow mOk = true ∧ d.hup.qualifying = true ∧ bits (d.hreg 0x040) 10 0 ≤ (d.cycle - d.hup.qualStart) / 125000) ∧
    ((packUp .batt .off).setMeas { mOk with vpack := 0 }).belowCut = true ∧ (packUp .returning .off).hup.st = .returning ∧
    ((packUp .standby .off).removalSeen .det = true ∧ (packUp .charge .cc).removalSeen (.step 1000000 0) = true ∧ (packUp .nopack .off).removalSeen .det = false) ∧
    (∀ on : Bool, (packUp .charge .cc).takesHead .jtag hupPage 0x008 (setBit ((packUp .charge .cc).ctlWord (pg hupPage)) 0 on) = true) ∧
    (packUp .charge .cc).chg.st.charging = true ∧ (packUp .charge .off).chg.st.charging = false ∧ (packUp .standby .off).hup.enHeld = false ∧
    ((packUp .batt .off).updHup fun h => { h with enHeld := true }).hup.enHeld = true := by decide +kernel

theorem test_meets_SourceEventsComplete :
    (packUp .standby .off).hupRuns = true ∧ (∀ v, v ∈ (#v[1368, 1368, 5000, 1400] : Vector Nat 4).toList → srcBand v = srcBand (#v[1368, 1368, 5000, 1400] : Vector Nat 4)[0]) ∧
    ¬ (∀ v, v ∈ (#v[1367, 1368, 1368, 1368] : Vector Nat 4).toList → srcBand v = srcBand (#v[1367, 1368, 1368, 1368] : Vector Nat 4)[0]) ∧
    srcBand (#v[124, 0, 1, 2] : Vector Nat 4)[0] = 0 ∧
    (let h := ((packUp .standby .off).setMeas mOk).hotCheck; h.overLimit = false) ∧
    (let h := ((packUp .charge .off).setMeas { mOk with isrc := 2000 }).hotCheck; h.overLimit = true ∧ h.iApplied = 0 ∧ h.reserveNow = false ∧ h.packCool = true) ∧
    (let d := (packUp .standby .off).setReg (pageAddr hupPage 0x05C) 0x00000A00; let h := (d.setMeas { mOk with isrc := 2000 }).hotCheck; h.overLimit = true ∧ h.iApplied = 0 ∧ h.reserveNow = true) ∧
    (let d := (packUp .standby .off).setReg (pageAddr hupPage 0x05C) 0x00000A00; let e := d.setMeas { mOk with isrc := 2000 }; e.overLimit = true ∧ e.reserveNow = true) ∧
    (let d := (packUp .standby .cc).setReg (pageAddr hupPage 0x050) 0x03200000; mOk.vbus < bits (d.hreg 0x050) 25 16 * 10 ∧ d.hup.st.sagState = true ∧ d.chg.st.charging = true) ∧
    (bits ((packUp .standby .off).hreg 0x050) 25 16 * 10 ≤ mOk.vbus) ∧ (packUp .inhibit .off).hup.st.sagState = false ∧
    ((packUp .handover .off).updHup fun h => { h with legs := .startPulse }).hup.legs = .startPulse := by decide +kernel

theorem test_meets_ChargeCommandAndBandComplete :
    (alignedBe 0xF = true ∧ up.canonical = true ∧ up.takes .jtag 0x041048 (byteMask 0xF) 0x00FF00FF = true) ∧ up.hupRuns = true ∧ up.chg.fallback = false ∧ up.chg.safe = false ∧
    (up.updChg fun c => { c with safe := true }).chg.safe = true ∧ (up.updChg fun c => { c with fallback := true }).chg.fallback = true ∧ up.bandTemp = none ∧ (packUp .charge .cc).bandTemp = some 400 ∧
    (let d := ((((packUp .charge .cc).setReg (pageAddr chgPage 0x054) 0x18000000).setReg (pageAddr chgPage 0x058) 0x7F000000).setReg (pageAddr chgPage 0x05C) 0x7F000000).setReg (pageAddr chgPage 0x060) 0x7F000000;
      d.bandTemp = some 400 ∧ d.bandOf 400 = 1 ∧ d.chg.band < 1 ∧ sbits (d.bandWord 1) 31 24 * 16 + 16 ≤ 400 ∧ bits (d.bandWord 1) 23 16 = 0 ∧ d.chg.st.charging = true) ∧
    (let d := ((((packUp .charge .cc).setReg (pageAddr chgPage 0x054) 0x19000000).setReg (pageAddr chgPage 0x058) 0x7F000000).setReg (pageAddr chgPage 0x05C) 0x7F000000).setReg (pageAddr chgPage 0x060) 0x7F000000;
      d.bandTemp = some 400 ∧ d.bandOf 400 = 1 ∧ d.chg.band < 1 ∧ 400 < sbits (d.bandWord 1) 31 24 * 16 + 16) ∧
    (let d := ((((packUp .charge .cc).setReg (pageAddr chgPage 0x054) 0x1A000000).setReg (pageAddr chgPage 0x058) 0x7F000000).setReg (pageAddr chgPage 0x05C) 0x7F000000).setReg (pageAddr chgPage 0x060) 0x7F000000;
      let d := d.updChg fun c => { c with band := 1 }; d.bandTemp = some 400 ∧ d.bandOf 400 = 0 ∧ 400 ≤ sbits (d.bandWord 1) 31 24 * 16 - 16) ∧
    (let d := ((((packUp .charge .cc).setReg (pageAddr chgPage 0x054) 0x1A000000).setReg (pageAddr chgPage 0x058) 0x7F000000).setReg (pageAddr chgPage 0x05C) 0x7F000000).setReg (pageAddr chgPage 0x060) 0x7F000000;
      let d := { d with thm := { d.thm with chan := upd d.thm.chan 72 fun x => { x with val := 401 } } }; let d := d.updChg fun c => { c with band := 1 };
      d.bandTemp = some 401 ∧ d.bandOf 401 = 0 ∧ sbits (d.bandWord 1) 31 24 * 16 - 16 < 401) := by decide +kernel

/-- The same with a charge command and a band that allow a charge. -/
def chargeUp (p : PathState) (c : ChgState) : Device := ((packUp p c).setReg (pageAddr chgPage 0x048) 0x00100020).setReg (pageAddr chgPage 0x050) 0x80100020

theorem test_meets_ChargerEventsComplete :
    (let d := (packUp .standby .off).updHdr (pg chgPage) fun h => { h with ctl := setBit h.ctl 0 true }; d.chg.st = .off ∧ d.chgEnabled = true ∧ d.hup.st = .standby) ∧
    (let d := (packUp .charge .qual).setMeas mOk; d.suspCause ≠ 0 ∧ (packUp .charge .qual).chg.st = .qual ∧ (packUp .charge .qual).hupRuns = true) ∧
    (let d := (chargeUp .charge .qual).setMeas { mOk with vpack := 900 }; d.suspCause = 0 ∧ 900 < d.packAt (bits (d.creg 0x044) 7 0)) ∧
    (let d := (chargeUp .charge .qual).setMeas { mOk with vpack := 1700 }; d.suspCause = 0 ∧ d.packAt (bits (d.creg 0x044) 7 0) ≤ 1700 ∧ d.chgFull = true) ∧
    (let d := (chargeUp .charge .qual).setMeas { mOk with vpack := 1000 }; d.suspCause = 0 ∧ d.packAt (bits (d.creg 0x044) 7 0) ≤ 1000 ∧ d.chgFull = false) ∧
    (let d := (chargeUp .charge .cc).setMeas mOk; d.packCv d.vApplied ≤ 2 * mOk.vpack) ∧
    (let d := ((chargeUp .charge .cv).setReg (pageAddr chgPage 0x040) 0x40000100).setMeas mOk; mOk.ibat.natAbs < bits (d.creg 0x040) 15 8 * 2) ∧
    (let d := { (chargeUp .charge .cv) with gau := { gauge0 with st := .counting } }; d.gau.st = .counting ∧ d.chg.st = .cv) ∧
    (let d := (chargeUp .standby .done).setMeas { mOk with vpack := 1000 }; (chargeUp .standby .done).chg.st = .done ∧ d.chgFull = false) ∧
    (let d := (chargeUp .charge .cc).setMeas { mOk with vpack := 1700 }; (chargeUp .charge .cc).chg.st.charging = true ∧ d.packCv (d.vApplied + 10) < 2 * 1700) ∧
    ((chargeUp .charge .draining).chg.st = .draining ∧ mOk.ibat.natAbs < 4) ∧
    (let d := (chargeUp .standby .suspend).setMeas mOk; let e := if d.overLimit then d else d.updChg fun c => { c with throttle := none }; e.suspCause = 0 ∧
      (chargeUp .standby .suspend).chg.st = .suspend ∧ (chargeUp .standby .suspend).hup.st = .standby) ∧
    (let d := (chargeUp .charge .draining).updHdr (pg chgPage) fun h => { h with ctl := setBit h.ctl 0 true }; d.chgEnabled = true ∧ d.chg.st = .draining ∧ (d.setMeas mOk).suspCause = 0) := by
  decide +kernel

theorem test_meets_AlwaysOnEventsComplete :
    (up.boot.up.ao = true ∧ up.ao.active = false ∧ noAo.boot.up.ao = false ∧ (bits (up.reg 0x044040) 23 16 : Nat) < max (-101 : Rat) (-(-101))) ∧
    (max (100 : Rat) (-100) ≤ (bits (up.reg 0x044040) 23 16 : Nat)) ∧
    (let d := { (up.setReg 0x044040 1) with ao := { ao0 with active := true }, gau := { gauge0 with restS := 1 } };
      (d.boot.up.ao && d.ao.active && bit (d.reg 0x044040) 0 && decide (max 1 (bits (d.reg 0x044040) 31 24) ≤ d.gau.restS) && d.noneArmed) = true) ∧
    (up.boot.up.ao && up.ao.active && bit (up.reg 0x044040) 0 && decide (max 1 (bits (up.reg 0x044040) 31 24) ≤ up.gau.restS) && up.noneArmed) = false ∧
    (let d := { up with gau := { gauge0 with restS := 1800 } }; d.gau.restS = min 0xFFFF (60 * max 1 (bits (d.reg 0x044044) 23 16))) ∧
    up.gau.restS ≠ min 0xFFFF (60 * max 1 (bits (up.reg 0x044044) 23 16)) ∧
    (let d := { up with boot := { up.boot with coreUp := false }, ao := { ao0 with active := true } }; d.boot.up.ao = true ∧ d.boot.coreUp = false ∧ d.ao.active = true ∧
      (List.map (clampI (-(2 ^ 23)) (2 ^ 23 - 1)) [8388608]).all (fun c => decide ((c.natAbs : Rat) < d.restCode)) = false) ∧
    (let d := { (up.setReg 0x044040 0xFF00) with boot := { up.boot with coreUp := false }, ao := { ao0 with active := true } };
      (List.map (clampI (-(2 ^ 23)) (2 ^ 23 - 1)) [1, -1]).all (fun c => decide ((c.natAbs : Rat) < d.restCode)) = true) := by decide +kernel

/-- The booted device with the gauge in state st. -/
def gauUp (st : GauState) : Device := { up with gau := { gauge0 with st := st } }

theorem test_meets_GaugeEventsAndCommandsComplete :
    ((gauUp .counting).boot.up.ao = true ∧ (gauUp .counting).boot.coreUp = true ∧ (gauUp .counting).hupRuns = true ∧ (gauUp .counting).gau.fullPoint = false ∧ (gauUp .counting).gau.ocvReady = false) ∧
    (let d := (gauUp .starved).updGau fun g => { g with fullPoint := true }; d.gau.st.runs = true ∧ d.gau.fullPoint = true ∧ d.gau.ocvReady = false) ∧
    (3600 * bits (((gauUp .counting).setReg 0x044044 0).reg 0x044044) 31 24 ≤ ((gauUp .counting).setReg 0x044044 0).gau.age ∧ ((gauUp .counting).setReg 0x044044 0x01000000).gau.age < 3600 * bits (((gauUp .counting).setReg 0x044044 0x01000000).reg 0x044044) 31 24) ∧
    (gauUp .nopack).gau.st = .nopack ∧ (gauUp .nopack).gau.st.runs = false ∧ (gauUp .seeking).gau.st.runs = true ∧ (gauUp .seeking).gau.commit = none ∧
    (let d := (gauUp .counting).updGau fun g => { g with commit := some { slotB := true, fcc := 1, cycles := 2, seq := 3 } }; d.gau.commit = some { slotB := true, fcc := 1, cycles := 2, seq := 3 } ∧ d.canonical = true) ∧
    (∀ v ∈ [1, 4], (gauUp .counting).takes .jtag 0x044074 0xFFFFFFFF (BitVec.ofNat 32 v) = true) ∧ (gauUp .notRestored).takes .jtag 0x044074 0xFFFFFFFF 1 = true ∧
    (∀ k ∈ [1, 2], up.takes .jtag 0x044078 0xFFFFFFFF (field 31 16 (0x6A17 : BitVec 16).toNat ||| BitVec.ofNat 32 k) = true ∧
      up.takes .jtag 0x044078 0xFFFFFFFF (field 31 16 (0 : BitVec 16).toNat ||| BitVec.ofNat 32 k) = true ∧
      (gauUp .counting).takes .jtag 0x044078 0xFFFFFFFF (field 31 16 (0x6A17 : BitVec 16).toNat ||| BitVec.ofNat 32 k) = true) ∧
    up.restoreResult ≠ 1 ∧ up.gets .jtag 0x044050 = true := by decide +kernel

/-! ## Hypotheses that states meet: thermal, faults, watchdogs -/

/-- A scan frame in which every pin reads v µV and no on-die sensor converts. -/
def frameOf' (v : Nat) : ThermFrame := { die := Vector.replicate 8 none, tmon := Vector.replicate 64 v, ntc := Vector.replicate 16 v }

/-- The booted device with phase 0 populated, so that channel 8 is present, in no group, and due in frame 8. -/
def chanUp (st : ChanState) (hold : Nat) : Device :=
  let d := ((up.setReg (phaseAddr 0 0) 0x11F).setReg 0x048040 (field 31 28 hold)).setReg (0x049100 + 8 * 8) 0x1F000000
  { d with thm := { d.thm with frame := 8, chan := upd d.thm.chan 8 fun c => { c with st := st } } }

theorem test_meets_ThermalCommandsComplete :
    device0.hupRuns = false ∧ up.hupRuns = true ∧ up.chPresent 0 = false ∧
    (let d := { chanUp .valid 2 with thm := { (chanUp .valid 2).thm with frame := 9 } }; d.chPresent 8 = true ∧ d.chDue d.thm.frame 8 = false ∧ (d.ch 8).st ≠ .standin ∧ (d.ch 8).st ≠ .novalue) ∧
    (let d := chanUp .valid 2; d.chDue d.thm.frame 8 = true ∧ d.chGroup 8 = 31 ∧ (d.ch 8).st = .valid ∧ (d.chSample 8 (frameOf' 1700000)).1 = some 2200 ∧ (d.chSample 8 (frameOf' 199999)).1 = none ∧
      1 < bits d.thmCfg 31 28) ∧
    (let d := chanUp .valid 1; d.chDue d.thm.frame 8 = true ∧ d.chGroup 8 = 31 ∧ (d.ch 8).st = .valid ∧ bits d.thmCfg 31 28 ≤ 1) ∧
    (∀ k, (up.ph k).own = some 0 → up.chDue up.thm.frame (tmonChan k) = false) ∧
    up.takes .jtag 0x048084 0xFFFFFFFF 87 = true ∧
    (let d := up.updCh 87 fun c => { c with st := .novalue, plaus := true, latest := some 1 }; d.takes .jtag 0x048084 0xFFFFFFFF 87 = true ∧ (87 : Fin 88).val = bits (87 : Word) 6 0 ∧
      (d.ch 87).latest = some 1 ∧ (d.ch 87).st = .novalue ∧ (d.ch 87).plaus = true) := by decide +kernel

/-- The booted device whose fault collector judges, with class 63 enabled and its error injected. -/
def fltUp : Device :=
  let d := up.setReg (pageAddr fltPage (0x100 + 4 * 63)) 0x80000000
  { d with flt := { d.flt with judging := true, inject := true } }

theorem test_meets_FaultCommandsComplete :
    (fltUp.live = true ∧ fltUp.flt.stat = 0 ∧ ((List.finRange 64).flatMap fun c => (fltUp.latchEvents c fltUp.linesNow).map fun e => (c, e)) = [(63, (0xFF, 0))]) ∧
    (let d := { fltUp with flt := { fltUp.flt with stat := 1 } }; d.flt.stat ≠ 0 ∧ ((List.finRange 64).flatMap fun c => (d.latchEvents c d.linesNow).map fun e => (c, e)) = [(63, (0xFF, 0))]) ∧
    ((List.finRange 64).flatMap fun c => (up.latchEvents c up.linesNow).map fun e => (c, e)) = [] ∧
    (let d := { up with flt := { up.flt with line := 0x8000000000000000 } }; d.flt.line.getLsbD (63 : Fin 64).val = true ∧ d.lineNow 63 = false) ∧
    (up.flt.line.getLsbD (0 : Fin 64).val = false ∧ alignedBe 0xF = true) ∧
    (up.takes .jtag 0x050040 (byteMask 0xF) 0xFFFFFFFF = true ∧ up.takes .jtag 0x050044 (byteMask 0xF) 0xFFFFFFFF = true) ∧
    (up.takes .jtag 0x05006C 0xFFFFFFFF 0x1A7E0000 = true ∧ bits (0x1A7E0000 : Word) 31 16 = 0x1A7E ∧ up.takes .jtag 0x05006C 0xFFFFFFFF 0 = true ∧ bits (0 : Word) 31 16 ≠ 0x1A7E) ∧
    (fltUp.flt.judging = true ∧ up.flt.judging = false) := by decide +kernel

/-- The booted device with watchdog 0 in state st and its window open from tick 2 to tick 8, asking for the tasks of cfg. -/
def wdUp (st : WdtState) (tick : Nat) (cfg : Word) : Device := up.updWd 0 fun x => { x with st := st, tick := tick, win := 0x00080002, cfg := cfg }

/-- The same, tripped, with a HOLD of h ticks. -/
def held (h : Nat) : Device := (wdUp .tripped 0 0).setReg (pageAddr (wdtPage 0) 0x048) (field 15 0 h)

theorem test_meets_WatchdogCommandsComplete :
    ((up.takes .jtag (pageAddr (wdtPage 0) 0x054) 0xFFFFFFFF 1 = true ∧ (up.wdtNow 0 5).st = .disarmed ∧ up.boot.up.ao = true) ∧
      ((wdUp .run 0 0).wdtNow 0 8).st = .run ∧ ((wdUp .warn 0 0).wdtNow 0 8).st = .warn ∧ ((wdUp .tripped 0 0).wdtNow 0 8).st = .tripped) ∧
    (∀ x ∈ [(up, 5), (wdUp .run 0 0, 8), (wdUp .warn 0 0, 8), (held 10, 8)], x.1.wdtCalm 0 x.2) ∧
    (∀ d ∈ [up, wdUp .run 0 0, wdUp .warn 0 0, wdUp .tripped 0 0], d.takes .jtag (pageAddr (wdtPage 0) 0x054) 0xFFFFFFFF 1 = true) ∧
    (up.takes .jtag (pageAddr (wdtPage 0) 0x054) 0xFFFFFFFF (field 31 16 (0xD15A : BitVec 16).toNat ||| 2) = true ∧
      up.takes .jtag (pageAddr (wdtPage 0) 0x054) 0xFFFFFFFF (field 31 16 (0 : BitVec 16).toNat ||| 2) = true ∧ up.locked (wdtPage 0) = false) ∧
    (up.takes .core (pageAddr (wdtPage 8) 0x078) 0xFFFFFFFF (field 15 0 (0xFFFF : BitVec 16).toNat) = true) ∧
    (up.live = true ∧ up.wdtHolding 0 = false ∧ (held 10).live = true ∧ (held 10).wdtHolding 0 = true ∧ ((held 10).wd 0).hold + 9 < (held 10).wdtHoldTicks 0 ∧
      ((held 10).wd 0).hold + 10 = (held 10).wdtHoldTicks 0 ∧ ((held 10).wd 0).armlatch = false ∧ bit ((held 10).wdtReg 0 0x044) 30 = false ∧
      bit (((held 10).setReg (pageAddr (wdtPage 0) 0x044) 0x40000000).wdtReg 0 0x044) 30 = true) := by unfold Device.wdtCalm; decide +kernel

theorem test_meets_WatchdogService :
    ((wdUp .run 0 0).takes .jtag (pageAddr (wdtPage 0) 0x058) 0xFFFFFFFF (field 15 0 0xFFFF) = true ∧ (wdUp .run 0 0).takes .jtag (pageAddr (wdtPage 0) 0x060) 0xFFFFFFFF (field 15 0 0xFFFF) = true) ∧
    (let x := (wdUp .run 0 0).wdtNow 0 2; x.st.armed = true ∧ x.anyService = true ∧ x.served = false ∧ x.openTick ≤ x.tick) ∧
    (let x := (wdUp .run 0 0).wdtNow 0 1; x.st = .run ∧ x.anyService = true ∧ x.tick < x.openTick) ∧
    (let d := (wdUp .run 3 0).updWd 0 fun x => { x with served := true }; (d.wdtNow 0 0).served = true ∧ (d.wdtNow 0 0).st.armed = true ∧ (d.wdtNow 0 0).anyService = true) ∧
    (let x := (wdUp .warn 0 0).wdtNow 0 2; x.st = .warn ∧ x.anyService = true ∧ x.served = false) ∧
    (∀ x ∈ [(wdUp .run 0 0, 2), (wdUp .run 0 0, 1), ((wdUp .run 3 0).updWd 0 fun x => { x with served := true }, 0), (wdUp .warn 0 0, 2)], x.1.wdtCalm 0 x.2) := by unfold Device.wdtCalm; decide +kernel

theorem test_meets_WatchdogTasks :
    (let x := (wdUp .run 0 3).wdtNow 0 2; x.anyService = false ∧ x.complete = false ∧ x.openTick ≤ x.tick ∧ ({ x with done := x.done ||| (3 &&& x.tasks) } : Wdt).complete = true ∧
      ({ x with done := x.done ||| (1 &&& x.tasks) } : Wdt).complete = false) ∧
    (let x := (wdUp .run 0 0x80000000).wdtNow 0 2; x.chalEn = true ∧ x.answered = false ∧ x.tasks &&& ~~~x.done = 0 ∧ x.st = .run ∧ x.openTick ≤ x.tick ∧ (wdtToken x.chal x.seed x.wcnt ≠ 0 ∨ wdtToken x.chal x.seed x.wcnt ≠ 1)) ∧
    (let x := (wdUp .run 0 0x80000001).wdtNow 0 2; x.chalEn = true ∧ x.tasks &&& ~~~x.done ≠ 0) ∧
    (let d := (wdUp .run 0 0x80000000).updWd 0 fun x => { x with answered := true }; (d.wdtNow 0 2).chalEn = true ∧ (d.wdtNow 0 2).answered = true ∧ (d.wdtNow 0 2).st.armed = true) ∧
    ((wdUp .disarmed 0 0).wdtNow 0 2).st.armed = false ∧
    (let d := wdUp .run 0 0; d.live = true ∧ (d.wd 0).st.armed = true ∧ d.boot.up.ao = true ∧ (d.wd 0).served = false ∧ (d.wd 0).tick ≤ (d.wd 0).close ∧ 9 = (d.wd 0).close + 1 - (d.wd 0).tick) := by
  decide +kernel

/-! ## Hypotheses that states meet: events and DMA -/

/-- The booted device with the event controller enabled, target 8 enabled, and source e pending for it at priority 5. -/
def evUp (e : Fin 256) (w : Word) : Device :=
  let d := ((up.setReg (0x120000 + 8 * e.val) w).setReg (tgtAddr 8 0) 3).updHdr (pg evcPage) fun h => { h with ctl := setBit h.ctl 0 true }
  d.updSrc e fun x => { x with pend := true, count := 1 }

/-- The same with source e for target 0, whose context is open and whose ring lies in host memory at an address that no window maps. -/
def evHost : Device :=
  let d := (((linked.setReg (0x120000 + 8 * 200) 0x105).setReg (tgtAddr 0 0) 1).setReg (tgtAddr 0 8) 1).updHdr (pg evcPage) fun h => { h with ctl := setBit h.ctl 0 true }
  (d.updSrc 200 fun x => { x with pend := true, count := 1 }).updCtx 0 fun c => { c with st := .opened }

theorem test_meets_EventCommandsComplete :
    (up.live = true ∧ up.srcPrio 255 = 0 ∧ (evUp 255 0x10005).srcPrio 255 ≠ 0) ∧
    (let d := evUp 255 0x10005; d.evcRuns = true ∧ d.selectedSource = some 255 ∧ d.selectedTarget 255 = some 8 ∧ d.isBcast 255 = false ∧ d.evMeetsFault 8 = false ∧ d.tgLoc 8 = true ∧ d.canonical = true ∧
      d.selectionFaults 255 8 = false) ∧
    (let d := evUp 15 0x1010005; d.selectedSource = some 15 ∧ d.selectedTarget 15 = some 8 ∧ d.isBcast 15 = true ∧ ∀ j ∈ d.bcastTargets 15, d.tgLoc j = true) ∧
    (evHost.evcRuns = true ∧ evHost.selectedSource = some 200 ∧ evHost.selectedTarget 200 = some 0 ∧ evHost.isBcast 200 = false ∧ evHost.evMeetsFault 0 = true) ∧
    (up.selectedSource = none) ∧
    (up.takes .jtag (tgtAddr 0 0x18) 0xFFFFFFFF (field 7 0 (255 : BitVec 8).toNat) = true ∧ ((up.arrive .jtag (tgtAddr 0 0x18)).evc.src[Fin.ofNat 256 255]).insvc = false) ∧
    (let d := up.updSrc 255 fun x => { x with insvc := true, holder := some 0 }; d.takes .jtag (tgtAddr 0 0x18) 0xFFFFFFFF (field 7 0 (255 : BitVec 8).toNat) = true ∧
      ((d.arrive .jtag (tgtAddr 0 0x18)).evc.src[Fin.ofNat 256 255]).insvc = true ∧ ((d.arrive .jtag (tgtAddr 0 0x18)).evc.src[Fin.ofNat 256 255]).holder = some 0) ∧
    (let d := up.updTg 0 fun x => { x with wr := 3, rd := 65535 }; d.takes .jtag (tgtAddr 0 0x0C) 0xFFFFFFFF (field 15 0 (3 : BitVec 16).toNat) = true ∧ (3 + 65536 - (d.tg 0).rd) % 65536 ≤ (d.tg 0).held ∧
      ¬ (4 + 65536 - (d.tg 0).rd) % 65536 ≤ (d.tg 0).held) ∧
    (up.takes .jtag (tgtAddr 0 0) 0xFFFFFFFF (setBit (up.tctl 0) 0 true) = true ∧ up.tgEnabled 0 = false ∧ up.tgLoc 0 = false ∧ isHost (up.tgBase 0) = false ∧ up.tgLoc 8 = true ∧
      up.takes .core (tgtAddr 8 0) 0xFFFFFFFF (setBit (up.tctl 8) 0 true) = true ∧ up.tgEnabled 8 = false) ∧
    (let d := evUp 255 0x10005; d.takes .core (tgtAddr 8 0) 0xFFFFFFFF (setBit (d.tctl 8) 0 false) = true ∧ d.tgEnabled 8 = true ∧ bit (d.tctl 8) 1 = true ∧ d.canonical = true) ∧
    (up.takes .jtag (pageAddr evcPage (0x080 + 4 * 1)) 0xFFFFFFFF 5 = true ∧ up.srcPrio 7 = 0 ∧ (evUp 7 5).srcPrio 7 ≠ 0) := by decide +kernel

/-- The booted device with ring 31 changed by f, its page enabled and held by the debug bridge, its descriptors on-chip. -/
def ringUp (f : Ring → Ring) : Device :=
  let d := (linked.updRg 31 f).updHdr (pg (ringPage 31)) fun h => { h with ctl := setBit h.ctl 0 true, owner := some .jtag }
  d.setReg (pageAddr (ringPage 31) 0x040) 0x20000000

theorem test_meets_RingCommandsComplete :
    (let d := ringUp fun x => { x with st := .idle }; d.takes .jtag (pageAddr (ringPage 31) 0x04C) 0xFFFFFFFF 1 = true ∧ (d.rg 31).st = .idle ∧ d.takes .jtag (pageAddr (ringPage 31) 0x050) 0xFFFFFFFF 2 = true ∧
      d.takes .jtag (pageAddr (ringPage 31) 0x050) 0xFFFFFFFF 1 = true ∧ (d.rg 31).busy = false ∧ (d.rg 31).srst = false) ∧ (ringUp fun x => { x with st := .idle }).ringPlain 31 ∧
    ((ringUp fun x => { x with st := .active }).rg 31).st ≠ .idle ∧
    (let x := (ringUp fun x => { x with st := .fetch, reading := true }).rg 31; x.st ≠ .draining ∧ x.st ≠ .disabled ∧ x.busy = true) ∧
    (let x := (ringUp fun x => { x with st := .paused }).rg 31; x.st.isPaused = true ∧ x.host = false) ∧ (let x := (ringUp fun x => { x with st := .paused, host := true }).rg 31; x.st.isPaused = true ∧ x.host = true) ∧
    (∀ on : Bool, (ringUp id).takesHead .jtag (ringPage 31) 0x008 (setBit ((ringUp id).ctlWord (pg (ringPage 31))) 0 on) = true) ∧ (ringUp id).ringEnabled 31 = true ∧
    (let d := linked.updHdr (pg (ringPage 31)) fun h => { h with owner := some .jtag }; d.takesHead .jtag (ringPage 31) 0x008 (setBit (d.ctlWord (pg (ringPage 31))) 0 true) = true ∧ d.ringEnabled 31 = false ∧
      d.ringEnableBad 31 = true) ∧
    (let d := (linked.setReg (pageAddr (ringPage 31) 0x040) 0x20000000).updHdr (pg (ringPage 31)) fun h => { h with owner := some .jtag };
      d.takesHead .jtag (ringPage 31) 0x008 (setBit (d.ctlWord (pg (ringPage 31))) 0 true) = true ∧ d.ringEnabled 31 = false ∧ d.ringEnableBad 31 = false ∧ (d.rg 31).st = .disabled ∧ (d.rg 31).caused = false ∧
      (d.updRg 31 fun x => { x with sw := true }).ringEnableBad 31 = false ∧ ((d.updRg 31 fun x => { x with sw := true }).rg 31).caused = true) := by unfold Device.ringPlain; decide +kernel

theorem test_meets_DmaEventsComplete :
    (up.live = true ∧ (up.rg 0).reading = false ∧ (up.rg 0).burst = none) ∧
    (let d := ringUp fun x => { x with st := .fetch, reading := true }; (d.rg 31).reading = true ∧ (d.rg 31).st ≠ .draining ∧ d.ringLoc 31 = true ∧ bit (d.ramWord (d.descAddr 31 0)) 31 = false ∧ (d.rg 31).db = false) ∧
    (let d := ringUp fun x => { x with st := .fetch, reading := true, db := true }; (d.rg 31).db = true) ∧
    (let d := { (ringUp fun x => { x with st := .fetch, reading := true }) with ram := [⟨pageAddr (ringPage 31) 0x800, 16⟩, ⟨pageAddr (ringPage 31) 0x803, 0x80⟩] };
      bit (d.ramWord (d.descAddr 31 0)) 31 = true ∧ bits (d.ramWord (d.descAddr 31 0)) 28 24 = 0 ∧ (d.rg 31).offset < bits (d.ramWord (d.descAddr 31 0)) 23 0 ∧ d.pcieMayIssue = true ∧ (d.rg 31).host = false) ∧
    (let d := { (ringUp fun x => { x with st := .fetch, reading := true }) with ram := [⟨pageAddr (ringPage 31) 0x803, 0x82⟩] }; bit (d.ramWord (d.descAddr 31 0)) 31 = true ∧ bits (d.ramWord (d.descAddr 31 0)) 28 24 = 2) ∧
    (bit (up.head (pg 0x070)).ctl 0 = false ∧ (let d := up.updHdr (pg 0x070) fun h => { h with ctl := setBit h.ctl 0 true }; bit (d.head (pg 0x070)).ctl 0 = true ∧ d.burstCount < 8 ∧ d.sampleRequests.arbitrate = none)) ∧
    (let d := (ringUp fun x => { x with st := .active, desc := #v[0x80000010, 0x1000000, 0, 0x1001000, 0, 0, 0, 0] }).updHdr (pg 0x070) fun h => { h with ctl := setBit h.ctl 0 true };
      bit (d.head (pg 0x070)).ctl 0 = true ∧ d.burstCount < 8 ∧ d.sampleRequests.arbitrate = some 31) ∧
    (let d := ringUp fun x => { x with st := .active, desc := #v[0x80000020, 0x1000000, 0, 0x1001000, 0, 0, 0, 0], burst := some { len := 16, limit := 16, srcHost := [(0x1000, 0)], dstHost := some 4096, fault := none } };
      let x := d.rg 31; x.burst = some { len := 16, limit := 16, srcHost := [(0x1000, 0)], dstHost := some 4096, fault := none } ∧ x.isStream = false ∧ 0x1000000 ≤ x.src + x.offset ∧ 16 ≤ (List.replicate 16 (0 : Byte)).length ∧
      d.pcieMayIssue = true ∧ x.caused = false ∧ x.srst = false ∧ x.offset + 16 < x.length) ∧
    (let d := (ringUp fun x => { x with st := .fetch, reading := true }).setReg (pageAddr (ringPage 31) 0x040) 0; let x := d.rg 31; x.burst = none ∧ x.reading = true ∧ x.st = .fetch ∧ x.work = false ∧ x.fault = false ∧ d.ringLoc 31 = false) ∧
    ((ringUp fun x => { x with st := .fetch, reading := true }).setReg (pageAddr (ringPage 31) 0x040) 0).ringPlain 31 := by unfold Device.ringPlain; decide +kernel

theorem test_meets_WindowCommandsComplete :
    (∀ o ∈ [0, 4, 8 * 1023, 8 * 1023 + 4], up.takes .jtag (0x110000 + o) 0xFFFFFFFF 0x8000 = true) ∧ up.isAdmin (up.requester .jtag) = true ∧ up.canonical = true ∧
    (let d := (up.updCtx 1 fun c => { c with st := .opened, port := .pcie, priv := .operator }).setReg (xltAddr 1023 0) 0x8000;
      d.takes (by' 1) (0x110000 + 8 * 1023) 0xFFFFFFFF 0x8400 = true ∧ d.takes (by' 1) (0x110000 + 8 * 1023 + 4) 0xFFFFFFFF 0 = true ∧ d.isAdmin (d.requester (by' 1)) = false ∧
      d.windowMay 1023 (d.requester (by' 1)).code false 0x8400 = false ∧ bit (d.reg (xltAddr 1023 0)) 15 = true ∧ (bits (d.reg (xltAddr 1023 0)) 12 10 == (d.requester (by' 1)).code) = false ∧
      d.windowMay 0 (d.requester (by' 1)).code false 0x8400 = true) ∧
    up.takes .jtag 0x0A0044 0xFFFFFFFF 1 = true ∧ (up.updXlt fun x => { x with sync := some 0 }).dma.xlt.sync = some 0 ∧ up.dma.xlt.sync ≠ some 0 := by decide +kernel

/-- The example of 13_thermal.md: 35.0 °C, T = 560, at 0.6114 V with R_REF 10 kΩ and a thermistor of 10 kΩ and 3,435 K. -/
theorem test_ntc_35_degrees : (16 * (1 / ntcInverse 10000 10000 3435 611400 - 5463 / 20)).floor = 560 := by decide +kernel

/-! ## Hypotheses that states meet: telemetry, counters, synchronisation -/

/-- The booted device with stream channel 7 enabled for loop 15 and window code 3. -/
def streamUp : Device := (up.setReg (pageAddr tlmPage 0x0F0) 0x80030000).setReg (pageAddr tlmPage 0x0F4) 0x8000

theorem test_meets_TelemetryCommandsComplete :
    (up.hupRuns = true ∧ bits (up.reg 0x0B0040) 4 0 = (0 : Fin 19).val ∧ bits ((up.setReg 0x0B0040 0x0101).reg 0x0B0040) 4 0 ≠ (0 : Fin 19).val ∧ bits ((up.setReg 0x0B0040 0x0101).reg 0x0B0040) 12 8 ≠ (0 : Fin 19).val) ∧
    (bit (up.schCfg 7) 31 = false ∧ bit (streamUp.schCfg 7) 31 = true ∧ bits (streamUp.schCfg 7) 20 16 = (3 : Fin 19).val ∧ bits (streamUp.schCfg 7) 20 16 ≠ (4 : Fin 19).val ∧ bit (streamUp.schCfg 7) 30 = false ∧
      (∀ j : Fin 16, bit (streamUp.schMask 7 false) j.val = decide (j = 15)) ∧ streamUp.tlm.sch[(7 : Fin 8)].fifo.length + 32 ≤ 2048) ∧
    (alignedBe 0xF = true ∧ up.canonical = true ∧ streamUp.canonical = true ∧ (∀ w : Fin 3, up.takes .jtag (pageAddr tlmPage (0x080 + 0x10 * 7 + 4 * w.val)) (byteMask 0xF) 0x80120000 = true) ∧
      (∀ w : Fin 3, streamUp.takes .jtag (pageAddr tlmPage (0x080 + 0x10 * 7 + 4 * w.val)) (byteMask 0xF) 0x00030000 = true)) ∧
    (bits (up.newWord tlmPage (0x080 + 0x10 * 7) (byteMask 0xF) 0x80120000) 20 16 ≤ 18 ∧ 18 < bits (up.newWord tlmPage (0x080 + 0x10 * 7) (byteMask 0xF) 0x80130000) 20 16 ∧
      (let v := streamUp.newWord tlmPage (0x080 + 0x10 * 7) (byteMask 0xF) 0x00030000; bit v 30 = bit (streamUp.schCfg 7) 30 ∧ bits v 20 16 = bits (streamUp.schCfg 7) 20 16 ∧ bit v 31 = false)) ∧
    (up.gets .jtag (peakAddr (.lpeak 15)) = true ∧ up.gets .jtag (peakAddr (.lipeak 15)) = true ∧ up.gets .jtag (peakAddr (.ppeak 63)) = true ∧ up.gets .jtag 0x0C4060 = true) ∧
    (let d (a b : Nat) : Device := { up with ts := b, syn := { up.syn with tsPrev := a } }; (d 1249 1250).windowDue 3 = true ∧ (d 1250 1251).windowDue 3 = false ∧ (d 1249 9999).windowDue 3 = true ∧
      (d 1250 1251).hupRuns = true) := by decide +kernel

/-- The booted device with the rushes on and in state st, and the dailies on. -/
def rushUp (st : RushState) : Device :=
  let d := ((up.setReg 0x0B1040 0x80000000).setReg 0x0B1044 0x00070000).setReg 0x0B1080 0x80000000
  { d with tlm := { d.tlm with rush := { d.tlm.rush with st := st } } }

theorem test_meets_RushesAndDailyCommandsComplete :
    (up.hupRuns = true ∧ (rushUp .recording).rushEnabled (.cut 5) = true ∧ (rushUp .recording).rushOn = true ∧ (rushUp .recording).tlm.rush.st = .recording ∧ up.rushEnabled (.cut 5) = false ∧ up.rushOn = false ∧
      (rushUp .frozen).tlm.rush.st ≠ .recording) ∧
    ((rushUp .recording).takes .jtag (pageAddr rushPage 0x054) 0xFFFFFFFF 1 = true ∧ up.takes .jtag (pageAddr rushPage 0x054) 0xFFFFFFFF 1 = true) ∧
    ((rushUp .triggered).live = true ∧ (rushUp .triggered).tlm.rush.st = .triggered ∧ (rushUp .triggered).tlm.rush.left = 0 ∧ ((rushUp .triggered).setReg (0x120000 + 8 * 122) 5).srcPrio 122 ≠ 0) ∧
    ((rushUp .frozen).takes .jtag (pageAddr rushPage 0x054) 0xFFFFFFFF 2 = true ∧ (rushUp .frozen).tlm.rush.st = .frozen ∧ (rushUp .recording).takes .jtag (pageAddr rushPage 0x054) 0xFFFFFFFF 2 = true) ∧
    (up.dayDue = false ∧ ({ rushUp .recording with ts := 125000000 } : Device).dayDue = true ∧ up.dayOn = false ∧ (rushUp .recording).dayOn = true ∧ (rushUp .recording).tlm.closed = none ∧ up.boot.coreUp = true ∧
      (let z : DailyClosed := { ts := 0, periods := 255, meas := Vector.replicate 16 { energy := 0, vMax := 0, vMin := 0, iMax := 0, tMax := 0, run := 0 }, loops := Vector.replicate 16 dailyLoop0, dev := dailyDev0, battSecs := 0 };
        ({ up with tlm := { up.tlm with closed := some z } } : Device).tlm.closed = some z)) := by decide +kernel

/-- The booted device with the counters running and counter 62 enabled at its last value. -/
def pmcUp : Device :=
  let d := (up.setReg 0x0C0040 1).setReg (0x0C0100 + 4 * 62) 0x80000000
  { d with pmc := { d.pmc with ctr := d.pmc.ctr.set 62 0xFFFFFFFFFFFF } }

theorem test_meets_PmcCommandsComplete :
    (up.live = true ∧ up.pmcRun = false ∧ pmcUp.pmcRun = true ∧ bit (pmcUp.pmcSel 62) 31 = true ∧ pmcUp.pmc.ctr[(62 : Fin 64)] = 0xFFFFFFFFFFFF ∧ pmcUp.pmcChained 62 = none) ∧
    (let d := pmcUp.setReg (0x0C0100 + 4 * 63) 0xC0000000; d.pmcChained 62 = some 63 ∧ bit (d.pmcSel 63) 31 = true ∧ d.pmc.ctr[(63 : Fin 64)] < 0xFFFFFFFFFFFF) ∧
    (up.gets .jtag (pageAddr pmcPage (0x200 + 8 * 63)) = true ∧ (up.arrive .jtag (pageAddr pmcPage (0x200 + 8 * 63))).pmc.buf[Fin.ofNat 16 (up.requester .jtag).code] = none) ∧
    (∀ hi : Bool, up.takes .jtag (pageAddr pmcPage (0x200 + 8 * 62 + 4 * b2n hi)) (byteMask 0xF) 5 = true ∧ pmcUp.takes .jtag (pageAddr pmcPage (0x200 + 8 * 62 + 4 * b2n hi)) (byteMask 0xF) 5 = true) ∧
    bit (up.pmcSel 62) 31 = false ∧ alignedBe 0xF = true := by decide +kernel

/-- The booted device with SYN_CFG as w, and the synchronisation changed by f. -/
def synUp (w : Word) (f : Syn → Syn) : Device := (up.setReg 0x0C4040 w).updSyn f

theorem test_meets_ClapCommands :
    (up.live = true ∧ bit up.synCfg 31 = false ∧ bit (synUp 0x80000000 id).synCfg 31 = true ∧ (synUp 0x80000000 id).syn.rxBusy = false) ∧
    (let d := (synUp 0x80000000 id).setReg 0x0C0040 2; bit (d.reg 0x0C0040) 1 = true ∧ bit (d.reg 0x0C0040) 2 = false ∧ d.canonical = true) ∧
    (let d := (synUp 0x80000000 id).setReg 0x0C0040 4; bit (d.reg 0x0C0040) 1 = false ∧ bit (d.reg 0x0C0040) 2 = true ∧ d.canonical = true) ∧
    (let d := (synUp 0x80000000 fun x => { x with rxBusy := true, hidden := some (Vector.replicate 328 0) }).setReg (0x120000 + 8 * 120) 5; d.syn.hidden = some (Vector.replicate 328 0) ∧ d.syn.rxBusy = true ∧
      d.syn.snapWait = false ∧ d.srcPrio 120 ≠ 0) ∧
    (bit up.synCfg 30 = false ∧ up.clapDue = false ∧ (let d := (synUp 0x40000000 id).setReg 0x0C4044 0x80000005; ({ d with ts := 625 } : Device).clapDue = true ∧ d.canonical = true)) ∧
    (up.takes .jtag (pageAddr synPage 0x04C) 0xFFFFFFFF 1 = true ∧ (synUp 0x40000000 id).takes .jtag (pageAddr synPage 0x04C) 0xFFFFFFFF 1 = true ∧ up.takes .jtag (pageAddr synPage 0x04C) 0xFFFFFFFF 2 = true ∧ up.canonical = true) ∧
    (let d := synUp 0x40000000 fun x => { x with txAt := some 0 }; d.takes .jtag (pageAddr synPage 0x04C) 0xFFFFFFFF 1 = true ∧ bit d.synCfg 30 = true ∧ d.txBusy = true ∧ d.canonical = true) := by decide +kernel

theorem test_meets_TimeCommands :
    (bit up.synCfg 29 = false ∧ bit (synUp 0x20000000 id).synCfg 29 = true ∧ (synUp 0x20000000 id).syn.st = .free ∧ bit up.synCfg 28 = false ∧ bit (synUp 0x10000000 id).synCfg 28 = true) ∧
    (let d := synUp 0x10000000 id; (bit d.synCfg 28 && d.tsReached d.timePeriod) = false ∧ (let e : Device := { d with ts := d.timePeriod }; (bit e.synCfg 28 && e.tsReached e.timePeriod) = true)) ∧
    (let d := synUp 0x20000000 fun x => { x with st := .locked }; d.framesMissing = false ∧ ({ d with cycle := d.syn.frameAt + 3 * d.timePeriod } : Device).framesMissing = true) ∧
    (let d := (synUp 0x20000000 fun x => { x with st := .acquire, good := 2 }).setReg 0x0C4050 0x00050000; d.syn.st = .acquire ∧ 2 ≤ d.syn.good ∧ decide ((timeDiff 5 0).natAbs ≤ bits (d.reg 0x0C4050) 31 16) = true ∧
      decide ((timeDiff 6 0).natAbs ≤ bits (d.reg 0x0C4050) 31 16) = false) ∧
    (synUp 0x20000000 fun x => { x with st := .acquire, good := 1 }).syn.good < 2 ∧ (synUp 0x20000000 fun x => { x with st := .locked }).syn.st = .locked ∧
    (synUp 0x20000000 fun x => { x with st := .holdover }).syn.st = .holdover ∧ up.syn.st ≠ .locked := by decide +kernel

/-! ## Hypotheses that states meet: the array -/

/-- The booted device with die sensor 0 at 25 °C and the OTP controller changed by f. -/
def otpUp (f : Otp → Otp) : Device :=
  let d := (up.setReg (0x049100) 0x80000000).updHdr (pg otpPage) fun h => { h with owner := some .jtag }
  ({ d with thm := { d.thm with chan := upd d.thm.chan 0 fun c => { c with st := .valid, val := 400 } } }).updOtp f

/-- A run of PROGRAM that has one bit left, pulsing or not. -/
def runUp (pulsing stop : Bool) (todo : List (Nat × Nat)) : OtpRun :=
  { kind := .program, word := 100, gen := 0, data := 1, noChk := false, started := true, todo := todo, tries := 0, pulsing := pulsing, stop := stop }

theorem test_meets_OtpScanAndReadCommandsComplete :
    ((otpUp id).takes .jtag 0x0050C0 0xFFFFFFFF 1 = true ∧ (otpUp id).otpBusy = false ∧ (otpUp id).otp.run = none ∧ (otpUp fun o => { o with scanning := true }).otpBusy = true ∧
      (otpUp fun o => { o with scanning := true }).takes .jtag 0x0050C0 0xFFFFFFFF 1 = true) ∧
    (up.hupRuns = true ∧ up.dieVals = none ∧ (otpUp id).dieVals ≠ none ∧ (((otpUp fun o => { o with tScan := 100 }).dieHot.1 - 16 * 100).natAbs > 480) ∧ (otpUp id).otp.scanning = false) ∧
    (let d := otpUp fun o => { o with scanning := true }; d.live = true ∧ d.otp.scanning = true ∧ d.otp.reading = none ∧ d.otp.run = none ∧ d.otp.scanDue = false ∧ d.otp.readDue = none) ∧
    ((otpUp id).takes .jtag 0x00405C 0xFFFFFFFF 0x3FF = true ∧ (otpUp id).canonical = true) ∧
    (let d := otpUp fun o => { o with reading := some 1023 }; d.otp.reading = some 1023 ∧ d.otp.scanning = false) ∧ State.reset.fuses.marginal 1023 = false := by decide +kernel

theorem test_asks_program : AsksOtp (.otpProgram .jtag 0x07B5) .jtag 0x07B5 false .program := .inl ⟨rfl, rfl⟩

theorem test_meets_OtpProgrammerCommandsComplete :
    (let d := (otpUp id).setReg 0x00404C 100; d.takes .jtag 0x004054 0xFFFFFFFF (otpOpWord 0x07B5 false .program) = true ∧ d.ownedBy otpPage (d.requester .jtag) = true ∧ d.otp.progLock = false ∧ d.otp.run = none ∧
      d.otpAdmitted .program = true ∧ d.otpBusy = false) ∧
    ((otpUp id).otpAdmitted .program = false ∧ up.takes .jtag 0x004054 0xFFFFFFFF (otpOpWord 0x07B5 false .program) = true ∧ up.ownedBy otpPage (up.requester .jtag) = false) ∧
    ((otpUp id).takes .jtag 0x004054 0xFFFFFFFF (field 31 16 (0x07B5 : BitVec 16).toNat) = true ∧ (runUp true false []).pulsing = true ∧ (runUp false false []).pulsing = false) ∧
    (let d := otpUp fun o => { o with run := some (runUp false false [(100, 0)]) }; d.otp.run = some (runUp false false [(100, 0)]) ∧ d.live = true ∧ d.otpOk = true) ∧
    (up.otpOk = false) ∧
    (let d := otpUp fun o => { o with run := some (runUp true false [(100, 0), (612, 0)]) }; d.otp.run = some (runUp true false [(100, 0), (612, 0)]) ∧ d.boot.request = none ∧
      bit ((State.reset.fuses.pulse 100 0 true).atM1 100) 0 = true ∧ bit ((State.reset.fuses.pulse 100 0 false).atM1 100) 0 = false ∧ max 1 (bits ((d.setReg 0x004048 0x10000).reg 0x004048) 19 16) ≤ 0 + 1 ∧
      0 + 1 < max 1 (bits ((d.setReg 0x004048 0x20000).reg 0x004048) 19 16)) := by decide +kernel

theorem test_meets_ReloadAndRestartCommandsComplete :
    ((otpUp id).takes .jtag 0x0050C4 0xFFFFFFFF 0x5E7A0000 = true ∧ bits (0x5E7A0000 : Word) 31 16 = 0x5E7A ∧ (otpUp id).seq.st = .idle ∧ (otpUp id).otpBusy = false ∧ (otpUp id).takes .jtag 0x0050C4 0xFFFFFFFF 0 = true) ∧
    ((otpUp fun o => { o with reloadDue := true }).otp.reloadDue = true ∧ up.otp.reloadDue = false) ∧
    (up.takes .jtag 0x006040 0xFFFFFFFF 0x4B1C0001 = true ∧ bits (0x4B1C0001 : Word) 31 16 = 0x4B1C ∧ bit (0x4B1C0001 : Word) 0 = true ∧ up.boot.coreUp = true) ∧
    (let d := { up with boot := { up.boot with coreUp := false } }; d.takes .jtag 0x006040 0xFFFFFFFF 0x4B1C0001 = true ∧ d.boot.coreUp = false ∧ d.boot.coreRestarting = false) ∧
    (let d := { up with boot := { up.boot with coreUp := false, coreRestarting := true } }; d.live = true ∧ d.boot.coreRestarting = true) ∧
    (device0.boot.held = true ∧ up.boot.held = false ∧ up.boot.clkFailed = false ∧ ({ up with boot := { up.boot with clkFailed := true } } : Device).boot.clkFailed = true) ∧
    (let d := { up with boot := { up.boot with coreRestarting := true } }; d.live = true ∧ d.boot.coreRestarting = true) := by decide +kernel

theorem test_meets_invariants : State.reset.fuses.wf ∧ State.reset.dev.canonical = true ∧ up.canonical = true ∧ State.reset.pending = [] ∧ device0.live = false ∧ up.live = true ∧
    (0 < (synUp 0 fun x => { x with hold := 1 }).syn.hold ∧ up.syn.hold = 0 ∧ (up.cycle + 1) % 1024 ≠ 0) ∧
    (let d := { up with cycle := 1023 }; (d.cycle + 1) % 1024 = 0 ∧ 0 < (d.updSyn fun x => { x with slew := 1 }).syn.slew ∧ (d.updSyn fun x => { x with slew := -1 }).syn.slew < 0) := by
  refine ⟨⟨by decide +kernel, by decide +kernel, fun _ => BitVec.and_not_self _⟩, by decide +kernel⟩

/-! ## The queue, the word interface and the ill-formed commands -/

theorem test_meets_empty_queue : State.reset.pending = [] ∧ State.reset.dev.live = false ∧ (at_ up).pending = [] ∧ (at_ up).dev.live = true := by decide +kernel

/-- A command at the front of the queue is taken and performed. -/
theorem test_front_command_is_taken :
    ∃ t, step { State.reset with pending := [.tapReset, .pllLock] } = .next t ∧ t.pending = [.pllLock] ∧ t.dev.boot.tapReset = true :=
  ⟨_, rfl, rfl, rfl⟩

/-- No row of the table has bits. -/
theorem test_word_spells_none : decodeTableWord 32 0 = none ∧ (State.reset.withFetchWord 32 0) = State.reset := ⟨rfl, rfl⟩

/-- One term that each check of WellFormed refuses: IMON codes have 11 bits, telemetry and VMON codes 12, shunt codes 24; a list of phases or
loops names each once; a memory request is aligned and not empty. -/
theorem test_ill_formed_is_refused :
    WellFormed (.peakComparatorTrip 0 2500 0 { samples := [⟨2048, 0⟩], first := 0 }) = false ∧ WellFormed (.diodeEmulationZero 0 0 2048) = false ∧
    WellFormed (.loopUpdate 3 0 false [] { raw := 4096, imon := [] }) = false ∧
    WellFormed (.loopUpdate 3 0 false [] { raw := 0, imon := [(1, []), (1, [])] }) = false ∧
    WellFormed (.cuePin 0 { pos := 0, off := [(1, ⟨[], 0, 0⟩), (1, ⟨[], 0, 0⟩)] }) = false ∧
    WellFormed (.uvFault ⟨0, [4096], []⟩) = false ∧ WellFormed (.loopOcFault ⟨0, [0], [.uv [4096]]⟩) = false ∧
    WellFormed (.phaseFailure 0 [.imonRange [⟨2048, 0⟩]]) = false ∧ WellFormed (.crowbarRelease 0 ⟨0, [], 0⟩ [(0, ⟨0, [], 0⟩)]) = false ∧ WellFormed (.dmaxLimit 0 0 [1, 2] [0]) = false ∧
    WellFormed (.interleaveBoundary 0 { raws := [4096], iOut := [] } { cue := none, swap := false, update := none }) = false ∧
    WellFormed (.railPowerGood 0 [4096]) = false ∧
    WellFormed (.gaugeEstimateUpdate { codes := [8388608], vpack := 0 }) = false ∧
    WellFormed (.pcieMemRequest .bar0 false 2 [{ be := 15, data := 0 }]) = false ∧ WellFormed (.pcieMemRequest .bar0 false 4 []) = false := by decide

theorem test_well_formed_is_accepted :
    WellFormed (.peakComparatorTrip 0 2500 (-5) { samples := [⟨2047, 0⟩, ⟨0, 2047⟩], first := 0 }) = true ∧
    WellFormed (.loopUpdate 3 7 true [750000, -5] { raw := 4095, imon := [(1, []), (2, [⟨1, 1⟩])] }) = true ∧
    WellFormed (.gaugeEstimateUpdate { codes := [8388607, -8388608], vpack := 0 }) = true ∧
    WellFormed (.pcieMemRequest .bar0 false 4 [{ be := 15, data := 0 }]) = true ∧ WellFormed .pllLock = true := by decide

/-- The cycle of the worked example after R318, before its boundary: loop 3 in RUN at 50 A per phase, of PH 0 to PH 33 all LIVE but PH 12,
just FAILED, and PH 33, just DRAINING for its lend; PH 34 to PH 39 PARKED; SHED_EN and REPLACE set; profile 0 with DI 50 A, EARLY_N 4, ADD 2. -/
def cycleUp : Device :=
  let st (k : Nat) : PhaseState := if k = 12 then .failed else if k = 33 then .draining else if k < 34 then .live else .parked
  let d := (List.finRange 64).foldl (fun d k => if k.val < 40 then d.updPh k fun p => { p with st := st k.val, own := some 3, pulse := .low } else d) up
  let d := d.updLp 3 fun l => { l with st := .run, iCmd := 6400, nAct := 34, liveBefore := 34, period := 40000, shedCnt := 3, replace := 1 }
  ((d.setReg (pageAddr (loopPage 3) 0x0E4) 0xC1B40003).setReg (pageAddr (loopPage 3) 0x100) 0xC2000190).setReg 0x0C8040 0x00080001

/-- What that cycle does at its boundary: the cue's early edges go to the nearest eligible phases and its ADD to PH 34 and PH 35, REPLACE adds
PH 36, N is 35 and nothing is added or shed; the command is multiplied by 34/32 before DI is applied. -/
theorem test_cycle_of_example :
    let d := cycleUp.boundary 3 { raws := [], iOut := [2048000] } { cue := some (0, false, { pos := 0, off := [0, 1, 2, 3, 4, 12, 33].map fun k => (k, ⟨[], 0, 4000⟩) }), swap := true, update := none }
    ((List.finRange 64).filter fun k => (d.ph k).pulse == .high) = [0, 1, 2, 3] ∧ ((List.finRange 64).filter fun k => (d.ph k).st == .joining) = [34, 35, 36] ∧
      (d.ph 33).st = .draining ∧ (d.ph 12).st = .failed ∧ (d.lp 3).nAct = 35 ∧ (d.lp 3).shedCnt = 0 ∧ (d.lp 3).iCmd = 13200 := by decide +kernel

/-! ## Values that the spec works out -/

/-- The header CRC of the read frame in the example of R169. -/
theorem test_crc8_of_example_frame :
    crc8 [0x28] = 0xD8 ∧ crc8 [0x28, 0x00] = 0x06 ∧ crc8 [0x28, 0x00, 0x00] = 0x12 ∧ crc8 [0x28, 0x00, 0x00, 0x68] = 0x61 := by decide

/-- The summary word of the example of R156: 49,152 µs is coded with E 7 and M 3, and so is every time below 65,536 µs. -/
theorem test_tis_of_example : tisCode 49152 = (7, 3) ∧ tisCode 65535 = (7, 3) ∧ tisCode 65536 ≠ (7, 3) := by decide

/-- PHS17_SLOPE is at device address 0x0002_2148, and LOOP3_CFG at 0x0001_3040. -/
theorem test_addresses_of_examples : phaseAddr 17 0x08 = 0x022148 ∧ pageAddr (loopPage 3) 0x040 = 0x013040 := by decide

/-- The ramp of the example of chapter Phase Engine: 7.5 A/µs gives code 141, and 9.375 A/µs code 176, both in the fine range. -/
theorem test_ramp_of_example :
    rampOf 0x86006000 0x0C80C864 5000 3000 (15 / 2) = (141, false) ∧ rampOf 0x86006000 0x0C80C864 5000 3000 (75 / 8) = (176, false) := by decide +kernel

/-- CONF in the table of the worked example of chapter Battery Gauge. -/
theorem test_conf_of_example : confOf (335 / 2) = 93 ∧ confOf 500 = 80 ∧ confOf 675 = 73 := by decide +kernel

/-- U_count of that example: one hour after an anchor at 1.50 % it is 1.675 %. The shunt is 500 µΩ, so that 7,200 C are 36 × 2^33 counts. -/
def gaugeUp : Device :=
  let d := { (up.setReg 0x040048 500) with ram := [] }
  let d := { d with ram := [(sramAddr 0x00C, 0xF4), (sramAddr 0x00D, 0x01), (sramAddr 0x00E, 40)] }
  { d with gau := { d.gau with fcc := 8000, abs := 36 * 2 ^ 33, age := 3600, hibt := 0, u0 := 150 } }

theorem test_u_count_of_example : gaugeUp.uCount = 335 / 2 := by decide +kernel

/-- The WRITE record at LOOP3_CFG of the worked example of chapter One-Time-Programmable Memory and ROM Patching, by R668 to R670. -/
theorem test_call_sheet_record_of_example :
    (let l := loadRecords false 8 [0x05004C10, 0x03000100, 0x00000BB8, 0x0CE40C1C, 0x00000E10, 0x00000032, 0x00FA0028] { dev := up, done := 0, ignored := 0 }
     l.done + l.ignored = 6 ∧ l.dev.reg 0x013040 = 0x03000100 ∧ l.dev.reg 0x01304C = 0x00000E10 ∧ l.dev.reg 0x013050 = 0x00000032 ∧ l.dev.reg 0x013054 = 0x00FA0028) := by
  decide +kernel

/-- The FILL record of PHSk_MAP on page 0x020 of that example maps PH 0 to PH 7 alike and leaves the others. -/
theorem test_fill_record_of_example :
    (let l := loadRecords false 8 [0x47008040, 0x00000040, 0x00000103] { dev := up, done := 0, ignored := 0 }
     l.done + l.ignored = 8 ∧ (∀ k : Fin 64, l.dev.reg (phaseAddr k 0x00) = if k.val < 8 then 0x00000103 else up.reg (phaseAddr k 0x00))) := by decide +kernel

/-- Period 32,000,000 / 800 = 40,000 of the worked design of chapter Voltage Loop Control, as FREQUENCY_SWITCH 800 computes it (R195). -/
theorem test_period_of_example : ratNear (32000000 / ofLinear11 0x0320) = 40000 := by decide +kernel

/-- The CRC-32 of R665 over words 8 to 30 of a blank array is not the blank word 31: a shipped device with a seal and no CRC has no valid trim. -/
theorem test_crc32_of_blank_is_not_blank : crc32 (List.replicate 92 0) ≠ 0 := by decide +kernel

end Sys2Proof.Tests
end

section
/-! SUPPORT. Supply loss, the reset causes and the requested device reset: the settled statements of chapter Supplies, Reset and Boot. -/

namespace Sys2Proof.Machine
open Sys2Proof

/-! ## A supply loss and the device reset it requires (R83) -/

theorem aoDown_boot (d : Device) : ∃ a, d.aoDown.boot = { d.boot with up := { d.boot.up with ao := false }, aoLoss := a } := by
  unfold Device.aoDown
  dsimp only
  rw [clkSync_boot]
  split
  · exact ⟨_, rfl⟩
  · rw [whenLive_boot _ _ fun d => syncState_boot _ _ _ _ _]
    exact ⟨_, rfl⟩

/-- Of the boot state, the loss of a supply changes the levels and the loss counters alone. -/
theorem porAssert_boot (d : Device) (f : OtpArray) (dom : Domain) :
    ∃ u a p, (d.porAssert f dom).1.boot = { d.boot with up := u, aoLoss := a, pcieLoss := p } := by
  unfold Device.porAssert
  cases dom with
  | ao =>
    dsimp only
    split
    · obtain ⟨a, h⟩ := aoDown_boot d
      exact ⟨_, a, _, h⟩
    · exact ⟨_, _, _, rfl⟩
  | pcie =>
    dsimp only
    split
    · rw [clkSync_boot, ringsHost_boot]
      dsimp only
      rw [pcieReset_boot]
      exact ⟨_, _, _, rfl⟩
    · exact ⟨_, _, _, rfl⟩
  | hv =>
    dsimp only
    split
    · exact ⟨_, _, _, clockless_held d f 1 2 fun u => { u with hv := false }⟩
    · exact ⟨_, _, _, rfl⟩
  | io | ana | core =>
    dsimp only
    split
    · exact ⟨_, _, _, clockless_held _ _ _ _ _⟩
    · exact ⟨_, _, _, rfl⟩

theorem porAssert_held (d : Device) (f : OtpArray) (dom : Domain) : (d.porAssert f dom).1.boot.held = d.boot.held := by
  obtain ⟨_, _, _, h⟩ := porAssert_boot d f dom
  rw [h]

theorem porAssert_request (d : Device) (f : OtpArray) (dom : Domain) : (d.porAssert f dom).1.boot.request = d.boot.request := by
  obtain ⟨_, _, _, h⟩ := porAssert_boot d f dom
  rw [h]

theorem powered_eq_levels (d : Device) :
    d.powered = (d.boot.up.level .hv && d.boot.up.level .io && d.boot.up.level .ana && d.boot.up.level .core) := rfl

/-- The loss of one supply of a powered device leaves it without power exactly when the supply is VHV, VIO, VANA or VCORE. -/
theorem porAssert_powered (d : Device) (f : OtpArray) (dom : Domain) (h : d.powered = true) :
    (d.porAssert f dom).1.powered = false ↔ dom = .hv ∨ dom = .io ∨ dom = .ana ∨ dom = .core := by
  rw [powered_eq_levels] at h ⊢
  simp only [porAssert_up]
  cases dom <;> simp_all

/-- Where no reset is requested, only missing power enters device reset. -/
theorem resetEntry_held (d : Device) (hh : d.boot.held = false) (hr : d.boot.request = none) :
    d.resetEntry.boot.held = true ↔ d.powered = false := by
  cases hp : d.powered with
  | false => simp [entry_of d hh hp]
  | true => simp [no_entry d hh hp hr, hh]

theorem exec_domainPorAssert (dom : Domain) (s : State) :
    exec (.domainPorAssert dom) s = .next { s with dev := (s.dev.porAssert s.fuses dom).1, fuses := (s.dev.porAssert s.fuses dom).2 } := rfl

theorem exec_deviceResetEntry (s : State) : exec .deviceResetEntry s = .next { s with dev := s.dev.resetEntry } := rfl

/-- Settles O12: the loss keeps "not held" and "nothing requested", so the entry command follows the four required levels alone. -/
theorem requiredSupplyLossEntersDeviceReset : Obligations.RequiredSupplyLossEntersDeviceReset := by
  unfold Obligations.RequiredSupplyLossEntersDeviceReset
  intro s dom hheld hreq hpow _
  refine ⟨_, _, exec_domainPorAssert dom s, exec_deviceResetEntry _, ?_⟩
  have hheld' := (porAssert_held s.dev s.fuses dom).trans hheld
  have hreq' := (porAssert_request s.dev s.fuses dom).trans hreq
  exact (resetEntry_held _ hheld' hreq').trans (porAssert_powered s.dev s.fuses dom hpow)

/-! ## Clearing the reset causes (R88) -/

/-- GLB_RSTCAUSE w after software writes ones at c: the causes written go, and FIRST goes with the last of them. -/
def clearCauses (w c : Word) : Word :=
  let left := w &&& ~~~(c &&& 0x1FF)
  if bits left 8 0 = 0 then setBits left 31 28 0 else left

theorem glbWrite_rstcause (d : Device) (m v : Word) (h : d.boot.up.ao = true) :
    d.glbWrite 0x064 m v = { d with ao := { d.ao with rstCause := clearCauses d.ao.rstCause (v &&& m) } } := by
  unfold Device.glbWrite
  rw [if_pos rfl, if_pos h]
  rfl

theorem causeMask_bit (i : Nat) : bit (0x1FF : Word) i = decide (i < 9) := by
  rw [show (0x1FF : Word) = fieldMask 8 0 by decide, bit, fieldMask_bit, Bool.eq_iff_iff]
  simp
  omega

/-- A bit of GLB_RSTCAUSE below FIRST is cleared exactly where it is a cause and written 1. -/
theorem clearCauses_bit (w c : Word) (i : Nat) (hi : i < 28) : bit (clearCauses w c) i = (bit w i && !(bit c i && decide (i < 9))) := by
  have hleft : bit (w &&& ~~~(c &&& 0x1FF)) i = (bit w i && !(bit c i && decide (i < 9))) := by
    rw [bit_and, bit_not _ _ (by omega), bit_and, causeMask_bit]
  unfold clearCauses
  dsimp only
  split
  · rw [setBits_zero_bit _ _ hi, hleft]
  · exact hleft

/-- FIRST after the clear: 0 where no cause is left, and as before otherwise. -/
theorem clearCauses_first (w c : Word) :
    bits (clearCauses w c) 31 28 = if bits (clearCauses w c) 8 0 = 0 then 0 else bits w 31 28 := by
  unfold clearCauses
  dsimp only
  by_cases hlast : bits (w &&& ~~~(c &&& 0x1FF)) 8 0 = 0
  · have hnone : bits (setBits (w &&& ~~~(c &&& 0x1FF)) 31 28 0) 8 0 = 0 := (bits_setBits_other _ _ _ _ _ _ (.inl (by decide))).trans hlast
    rw [if_pos hlast, if_pos hnone, bits_setBits _ _ _ _ (by decide), Nat.zero_mod]
  · rw [if_neg hlast, if_neg hlast]
    refine bits_congr fun i hlo hhi => ?_
    rw [bit_and, bit_not _ _ (by omega), bit_and, causeMask_bit, decide_eq_false (by omega), Bool.and_false, Bool.not_false, Bool.and_true]

/-- A cause that finds none latched loads FIRST with its code (R87). -/
theorem latchCause_first (d : Device) (i code : Nat) (hup : d.boot.up.ao = true) (hnone : bits d.ao.rstCause 8 0 = 0) (hi : i < 28) (hcode : code < 16) :
    bits (d.latchCause i code).ao.rstCause 31 28 = code := by
  unfold Device.latchCause
  rw [if_pos hup]
  simp only [hnone, decide_true, Bool.true_or, if_true]
  rw [bits_setBit_other _ _ _ _ _ (.inr hi), bits_setBits _ _ _ _ (by decide)]
  exact Nat.mod_eq_of_lt hcode

theorem exec_rstcauseClear (src : Source) (be : BitVec 4) (data : Word) (s : State) :
    exec (.rstcauseClear src be data) s = .next { s with dev := s.dev.busWrite s.fuses src 0x000064 be data {} } := rfl

/-- A taken write of GLB_RSTCAUSE finds the AO domain as it was, and clears the causes that its enabled bytes name. -/
theorem rstcauseClear_write (d : Device) (f : OtpArray) (src : Source) (be : BitVec 4) (v : Word) (hbe : alignedBe be = true)
    (ht : d.takes src 0x000064 (byteMask be) v = true) (hup : d.boot.up.ao = true) :
    let e := d.busWrite f src 0x000064 be v {}
    e.ao.rstCause = clearCauses d.ao.rstCause (v &&& byteMask be) ∧ e.boot.up.ao = true := by
  have hup' : (d.arrive src 0x000064).boot.up.ao = true := by rw [Device.arrive_up]; exact hup
  have hao := (Device.arrive_ao d src 0x000064 (by decide) (by decide)).1
  dsimp only
  rw [rst_write d f src be v {} hbe ht, glbWrite_rstcause _ _ _ hup']
  exact ⟨by rw [hao], hup'⟩

/-- Settles O16, from what the clear leaves of each cause and of FIRST, and from what the next cause loads. -/
theorem clearingTheLastCauseClearsFirst : Obligations.ClearingTheLastCauseClearsFirst := by
  unfold Obligations.ClearingTheLastCauseClearsFirst
  intro s src be data hbe ht hup
  obtain ⟨hcause, hup'⟩ := rstcauseClear_write s.dev s.fuses src be data hbe ht hup
  refine ⟨_, exec_rstcauseClear src be data s, fun i hi => ?_, fun hnone => ?_, fun hsome => ?_, fun hnone i code hi hcode => ?_⟩
  · rw [hcause, clearCauses_bit _ _ _ (by omega), bit_and, decide_eq_true hi, Bool.and_true]
  · rw [hcause] at hnone ⊢
    rw [clearCauses_first, if_pos hnone]
  · rw [hcause] at hsome ⊢
    rw [clearCauses_first, if_neg hsome]
  · exact latchCause_first _ i code hup' hnone (by omega) hcode

/-! ## GLB_DEVRST (R89) -/

theorem glbWrite_devrst (d : Device) (v : Word) :
    d.glbWrite 0x06C 0xFFFFFFFF v = if bits v 15 0 = 0xA5C3 then d.requestReset .sw else d.setErr 0x000 errAccvio := by
  unfold Device.glbWrite
  rw [if_neg (by decide), if_pos rfl, and_full]

/-- A full write of GLB_DEVRST requests the reset with the key and an administrator, and otherwise sets the access violation of the GLB page. -/
theorem devrst_write (d : Device) (f : OtpArray) (src : Source) (v : Word) (hg : d.gets src 0x00006C = true) :
    d.busWrite f src 0x00006C 0xF v {} =
      if d.isAdmin (d.requester src) = true ∧ bits v 15 0 = 0xA5C3 then (d.arrive src 0x00006C).requestReset .sw
      else (d.arrive src 0x00006C).setErr 0x000 errAccvio := by
  have hbad := writeBad_glb d src 0x00006C (by decide) (by decide) (byteMask 0xF) v
  cases hadm : d.isAdmin (d.requester src) with
  | true =>
    rw [hadm, if_pos rfl] at hbad
    have ht : d.takes src 0x00006C (byteMask 0xF) v = true := by
      unfold Device.takes
      rw [hg, hbad]
      rfl
    have hwrite : d.busWrite f src 0x00006C 0xF v {} = (d.arrive src 0x00006C).glbWrite 0x06C (byteMask 0xF) v :=
      Device.busWrite_page d f src 0x000 0x06C 0xF v {} ht (by decide) (by decide) (by decide) (by decide) (.inr (by decide))
    rw [hwrite, byteMask_full, glbWrite_devrst]
    simp only [true_and]
  | false =>
    rw [hadm, if_neg (by decide)] at hbad
    rw [if_neg (by simp)]
    exact Device.busWrite_refused d f src 0x00006C 0xF v {} _ hg hbad (by decide) (by decide) (by decide) (by decide)

theorem exec_glbDevrstWrite (src : Source) (data : Word) (s : State) :
    exec (.glbDevrstWrite src data) s = .next { s with dev := s.dev.busWrite s.fuses src 0x00006C 0xF data {} } := rfl

/-- The software reset request latches bit 8 of GLB_RSTCAUSE (R87). -/
theorem requestReset_sw_cause (d : Device) (h : d.boot.up.ao = true) : bit (d.requestReset .sw).ao.rstCause 8 = true :=
  latch_bit d 8 9 (by decide) h

theorem setErr_accvio_bit (d : Device) (p : Nat) : bit ((d.setErr p errAccvio).head (pg p)).err 1 = true := by
  rw [updHdr_err]
  dsimp only
  rw [bit_or, show bit errAccvio 1 = true by decide, Bool.or_true]

/-- Settles O17: the two outcomes of the write are those of its one case distinction. -/
theorem devrstNeedsKeyAndAdministrator : Obligations.DevrstNeedsKeyAndAdministrator := by
  unfold Obligations.DevrstNeedsKeyAndAdministrator
  intro s src data hg
  refine ⟨_, exec_glbDevrstWrite src data s, fun hkey hadm => ?_, fun hbad => ?_⟩
  · dsimp only
    rw [devrst_write _ _ _ _ hg, if_pos ⟨hadm, hkey⟩]
    exact ⟨request_some _ _, fun hup => requestReset_sw_cause _ (by rw [Device.arrive_up]; exact hup)⟩
  · have hrefused : ¬ (s.dev.isAdmin (s.dev.requester src) = true ∧ bits data 15 0 = 0xA5C3) := by
      rintro ⟨hadm, hkey⟩
      exact hbad.elim (absurd hkey) fun h => by simp [hadm] at h
    dsimp only
    rw [devrst_write _ _ _ _ hg, if_neg hrefused]
    exact ⟨Device.arrive_request _ _ _, setErr_accvio_bit _ 0⟩

end Sys2Proof.Machine
end

section
/-! SUPPORT. Opening a context: the settled statement of chapter Register Model. -/

namespace Sys2Proof.Machine
open Sys2Proof

/-! ## HCX_OPEN takes the lowest-numbered free context (R133) -/

theorem exec_hcxOpen (src : Source) (data : Word) (s : State) :
    exec (.hcxOpen src data) s = .next { s with dev := s.dev.busWrite s.fuses src 0x001040 0xF data {} } := rfl

/-- A taken write of HCX_OPEN is the open that the arriving access asks for. -/
theorem hcxOpen_write (d : Device) (f : OtpArray) (src : Source) (v : Word) (ht : d.takes src 0x001040 0xFFFFFFFF v = true) :
    d.busWrite f src 0x001040 0xF v {} = (d.arrive src 0x001040).hcxOpen src v := by
  have hwrite := hcx_write d f src 0x040 0xF v {} (by decide) (by decide) (by decide) (by decide) ht
  rw [byteMask_full] at hwrite
  rw [hwrite]
  unfold Device.hcxWrite
  rw [if_pos rfl, and_full]

/-- The core is up and n is the lowest-numbered context in FREE. -/
structure Device.OpensAt (d : Device) (n : Fin 8) : Prop where
  stage : d.boot.stage = 7
  coreUp : d.boot.coreUp = true
  free : d.ctx[n].st = .free
  lower : ∀ m : Fin 8, m < n → d.ctx[m].st ≠ .free

/-- Of the contexts, an access renews a lease at most: the open that it brings finds the same ones free. -/
theorem Device.OpensAt.arrive {d : Device} {n : Fin 8} (h : d.OpensAt n) (src : Source) (a : Nat) : (d.arrive src a).OpensAt n where
  stage := (Device.arrive_stage d src a).trans h.stage
  coreUp := (Device.arrive_coreUp d src a).trans h.coreUp
  free := (arrive_ctx_st d src a n).trans h.free
  lower m hm := by
    rw [arrive_ctx_st]
    exact h.lower m hm

/-- The contexts and the port's result word after an open on port p that takes context n. -/
theorem Device.OpensAt.hcxOpen_effect {d : Device} {n : Fin 8} (h : d.OpensAt n) (p : HostPort) (c : Option (Fin 8)) (w : Word) :
    let e := d.hcxOpen (.port p c) w
    (e.ctx[n].st = .opened ∧ e.ctx[n].nonce.toNat = bits w 31 16 ∧ e.ctx[n].port = p ∧
      e.ctx[n].leaseMs = bits (d.reg 0x001054) 15 0 ∧ e.ctx[n].renewed = d.cycle) ∧
    (bits e.openRes[PortIdx p] 31 16 = bits w 31 16 ∧ bits e.openRes[PortIdx p] 11 8 = n.val) ∧
    ∀ m : Fin 8, m ≠ n → e.ctx[m] = d.ctx[m] := by
  have hnonce : (BitVec.ofNat 16 (bits w 31 16)).toNat = bits w 31 16 := by
    rw [BitVec.toNat_ofNat]
    exact Nat.mod_eq_of_lt (bits_lt w 31 16)
  obtain ⟨smbus, hopen⟩ := hcxOpen_port d p c w
  obtain ⟨g, r, hctx, hres, hrnonce, hrctx⟩ :=
    open_effect d p smbus (BitVec.ofNat 16 (bits w 31 16)) (bits w 9 8) n h.stage h.coreUp h.free h.lower
  dsimp only
  rw [hopen, hctx, hres, upd_same]
  refine ⟨⟨rfl, hnonce, rfl, rfl, rfl⟩, ?_, fun m hm => upd_other _ _ hm⟩
  have hset : (d.openRes.set (PortIdx p) r)[PortIdx p] = r := Vector.getElem_set_self ..
  rw [hset]
  exact ⟨hrnonce.trans hnonce, hrctx⟩

/-- Settles O21: the open of the arriving access takes the lowest-numbered free context, and neither of the two changes another's state. -/
theorem openTakesLowestFreeContext : Obligations.OpenTakesLowestFreeContext := by
  unfold Obligations.OpenTakesLowestFreeContext
  intro s p c data n htakes hstage hcore hfree hlower
  have hopens : s.dev.OpensAt n := ⟨hstage, hcore, hfree, hlower⟩
  obtain ⟨⟨hst, hnonce, hport, hlease, hrenewed⟩, ⟨hrnonce, hrctx⟩, hothers⟩ :=
    (hopens.arrive (.port p c) 0x001040).hcxOpen_effect p c data
  rw [Device.arrive_reg] at hlease
  rw [Device.arrive_cycle] at hrenewed
  refine ⟨_, exec_hcxOpen (.port p c) data s, ?_⟩
  dsimp only
  rw [hcxOpen_write _ _ _ _ htakes]
  refine ⟨hst, hnonce, hport, hlease, hrenewed, hrnonce, hrctx, fun m hm => ?_⟩
  rw [hothers m hm, arrive_ctx_st]

end Sys2Proof.Machine
end

section
/-! SUPPORT. The estimate's events and the commands to the gauge: the settled statement of chapter Gauge. -/

namespace Sys2Proof.Machine
open Sys2Proof

/-! ## One second of a running gauge (R447 to R455) -/

theorem exec_gaugeEstimateUpdate (sec : GaugeSecond) (s : State) :
    exec (.gaugeEstimateUpdate sec) s = .next { s with dev := s.dev.gaugeSecond sec } := rfl

/-- While VAO and the core are up and the block runs, a second is the always-on counters and then the core's estimate. -/
theorem gaugeSecond_running (d : Device) (sec : GaugeSecond) (hao : d.boot.up.ao = true) (hcore : d.boot.coreUp = true) (hrun : d.hupRuns = true) :
    d.gaugeSecond sec = (d.aoSecond sec).coreEstimate sec := by
  have hboot := (aoSecond_keeps d sec).1
  have hrun' : (d.aoSecond sec).hupRuns = true := (runs_of hboot).trans hrun
  unfold Device.gaugeSecond
  dsimp only
  rw [hboot, hao, hcore, if_pos (by decide), inService_on hrun']

/-- A counting gauge without a waiting anchor reports the count (R447, R449, R450). -/
theorem gaugeSecond_counting (d : Device) (sec : GaugeSecond) (hao : d.boot.up.ao = true) (hcore : d.boot.coreUp = true) (hrun : d.hupRuns = true)
    (hst : d.gau.st = .counting) (hfull : d.gau.fullPoint = false) (hocv : d.gau.ocvReady = false) :
    let a := d.aoSecond sec
    (d.gaugeSecond sec).gau = { a.gau with soc := pctWord (clampR 0 10000 a.socC), u := pctWord a.uCount, conf := confOf a.uCount } := by
  obtain ⟨_, hst', hfull', hocv'⟩ := aoSecond_keeps d sec
  dsimp only
  rw [gaugeSecond_running d sec hao hcore hrun]
  exact estimate_plain _ sec (hst'.trans hst) (hfull'.trans hfull) (hocv'.trans hocv)

/-- A full-charge point is an anchor in each state with an estimate (R452, R455). -/
theorem gaugeSecond_fullPoint (d : Device) (sec : GaugeSecond) (hao : d.boot.up.ao = true) (hcore : d.boot.coreUp = true) (hrun : d.hupRuns = true)
    (hst : d.gau.st.runs = true) (hfull : d.gau.fullPoint = true) (hocv : d.gau.ocvReady = false) :
    let e := d.gaugeSecond sec
    e.gau.st = .counting ∧ e.gau.abs = 0 ∧ e.gau.age = 0 ∧ e.gau.hibt = 0 ∧ e.gau.fullPoint = false ∧
      e.gau.acc = (d.aoSecond sec).gau.acc ∧ e.gau.acc0 = (d.aoSecond sec).gau.acc := by
  obtain ⟨_, hst', hfull', hocv'⟩ := aoSecond_keeps d sec
  dsimp only
  rw [gaugeSecond_running d sec hao hcore hrun]
  exact estimate_full _ sec (by rw [hst', hst]) (hfull'.trans hfull) (hocv'.trans hocv)

/-! ## STARVED, NOPACK and the return of the pack (R456, R470) -/

theorem exec_gaugeStarved (s : State) (hrun : s.dev.hupRuns = true) : exec .gaugeStarved s = .next { s with dev := s.dev.gauStarve } :=
  inService_next s _ hrun

theorem exec_gaugeNopack (s : State) (hrun : s.dev.hupRuns = true) : exec .gaugeNopack s = .next { s with dev := s.dev.gauNopack } :=
  inService_next s _ hrun

theorem exec_gaugePackReturn (s : State) (hrun : s.dev.hupRuns = true) : exec .gaugePackReturn s = .next { s with dev := s.dev.gauPackReturn } :=
  inService_next s _ hrun

theorem gauStarve_aged (d : Device) (hcore : d.boot.coreUp = true) (hst : d.gau.st = .counting) (hage : 3600 * bits (d.reg 0x044044) 31 24 ≤ d.gau.age) :
    GaugeMoves d d.gauStarve .starved 0x13 ∧ d.gauStarve.gau.starved = true := by
  have heq : d.gauStarve = (d.updGau fun g => { g with starved := true }).gauTo .starved 0x13 :=
    if_pos (by rw [hcore, hst]; exact decide_eq_true hage)
  obtain ⟨hmove, _, hstarved, _⟩ := gauTo_moves (d.updGau fun g => { g with starved := true }) .starved 0x13 byHw
  rw [heq]
  exact ⟨hmove, hstarved⟩

theorem gauStarve_young (d : Device) (hage : d.gau.age < 3600 * bits (d.reg 0x044044) 31 24) : d.gauStarve = d := by
  have hyoung : decide (3600 * bits (d.reg (pageAddr gauPage 0x044)) 31 24 ≤ d.gau.age) = false := decide_eq_false (Nat.not_le.2 hage)
  unfold Device.gauStarve
  dsimp only
  rw [hyoung, Bool.and_false, if_neg (by decide)]

theorem gauNopack_running (d : Device) (hst : d.gau.st.runs = true) : GaugeMoves d d.gauNopack .nopack 0x14 := by
  unfold Device.gauNopack
  rw [if_pos hst]
  exact (gauTo_moves d .nopack 0x14 byHw).1

theorem gauNopack_idle (d : Device) (hst : d.gau.st.runs = false) : d.gauNopack = d := by
  unfold Device.gauNopack
  rw [hst, if_neg (by decide)]

theorem gauPackReturn_nopack (d : Device) (hst : d.gau.st = .nopack) :
    GaugeMoves d d.gauPackReturn .seeking 0x15 ∧ d.gauPackReturn.gau.packChanged = true := by
  obtain ⟨hmove, _, _, hchanged, _⟩ := gauTo_moves (d.updGau fun g => { g with packChanged := true }) .seeking 0x15 byHw
  unfold Device.gauPackReturn
  rw [hst, if_pos (by decide)]
  exact ⟨hmove, hchanged⟩

theorem gauPackReturn_present (d : Device) (hst : d.gau.st ≠ .nopack) : d.gauPackReturn = d := by
  unfold Device.gauPackReturn
  rw [if_neg (by simpa using hst)]

/-! ## The end of a commit (R464 to R466) -/

theorem exec_gaugeCommitComplete (inhibited : Bool) (s : State) :
    exec (.gaugeCommitComplete inhibited) s = .next { s with dev := s.dev.commitDone inhibited } := rfl

/-- The slot word with the cycle count and the capacity (R471). -/
def GauCommit.word0 (c : GauCommit) : Word := field 31 16 c.cycles ||| field 15 0 c.fcc
/-- The slot word with the sequence number (R471). -/
def GauCommit.word1 (c : GauCommit) : Word := field 15 0 c.seq

/-- The CRC word of that slot. -/
def GauCommit.crcWord (c : GauCommit) : Word := (crc16 (wordBytes c.word0 ++ wordBytes c.word1)).setWidth 32

/-- The always-on RAM after commit c: its slot is written, and then ACTIVE names it. -/
def GauCommit.writes (c : GauCommit) (m : Memory) : Memory :=
  let o := slotOff c.slotB
  memPut (memPut (memPut (memPut m (sramAddr o) c.word0) (sramAddr (o + 4)) c.word1) (sramAddr (o + 8)) c.crcWord)
    (sramAddr 0x0A0) (setBit (memWord m (sramAddr 0x0A0)) 0 c.slotB)

theorem slotOff_cases (b : Bool) : slotOff b = 0x080 ∨ slotOff b = 0x090 := by cases b <;> decide

/-- What the RAM holds after the writes of commit c. -/
theorem writes_reads (c : GauCommit) (d e : Device) (hcanon : d.canonical = true) (hram : e.ram = c.writes d.ram) :
    let o := slotOff c.slotB
    e.sram o = c.word0 ∧ e.sram (o + 4) = c.word1 ∧ e.sram (o + 8) = c.crcWord ∧ e.activeB = c.slotB ∧
      ∀ x, (x < sramAddr o ∨ sramAddr (o + 12) ≤ x) → (x < sramAddr 0x0A0 ∨ sramAddr 0x0A4 ≤ x) → memRead e.ram x = memRead d.ram x := by
  have hwf : Memory.wf d.ram = true := (Bool.and_eq_true_iff.1 hcanon).2
  dsimp only
  unfold Device.activeB Device.sram Device.ramWord
  rw [hram]
  exact commit_writes d.ram _ _ _ _ c.slotB (slotOff_cases _) hwf

/-- What the event of a commit's end, and an unload that waited for it, leave of the commit's own changes. -/
theorem commitEvent_keeps (y : Device) (w : Word) :
    let z := y.raise 47 w
    let e := if z.gau.unloadWait then z.unloadNow 0x16 byHw else z
    e.gau.commit = y.gau.commit ∧ e.gau.commitFail = y.gau.commitFail ∧ e.gau.commits = y.gau.commits ∧ e.gau.slotB = y.gau.slotB ∧
      e.gau.fcc = y.gau.fcc ∧ e.ram = y.ram := by
  have hgau : (y.raise 47 w).gau = y.gau := keeps_gau (by simp)
  have hram : (y.raise 47 w).ram = y.ram := keeps_ram (by simp)
  dsimp only
  split
  · obtain ⟨_, hcommit, hfail, hcount, hslot, hfcc, hram', _⟩ := unload_gau (y.raise 47 w) 0x16 byHw
    rw [hcommit, hfail, hcount, hslot, hfcc, hram', hgau, hram]
    exact ⟨rfl, rfl, rfl, rfl, rfl, rfl⟩
  · rw [hgau, hram]
    exact ⟨rfl, rfl, rfl, rfl, rfl, rfl⟩

theorem commitDone_idle (d : Device) (inhibited : Bool) (h : d.gau.commit = none) : d.commitDone inhibited = d := by
  unfold Device.commitDone
  rw [h]

/-- What the end of commit c leaves: performed where it was not inhibited and VAO is up, and otherwise the failure alone. -/
theorem commitDone_effect (d : Device) (c : GauCommit) (inhibited : Bool) (h : d.gau.commit = some c) :
    let ok := !inhibited && d.boot.up.ao
    let e := d.commitDone inhibited
    e.gau.commit = none ∧ e.gau.commitFail = !ok ∧ e.gau.commits = (if ok then (d.gau.commits + 1) % 65536 else d.gau.commits) ∧
      e.gau.slotB = (if ok then c.slotB else d.gau.slotB) ∧ e.gau.fcc = (if ok then c.fcc else d.gau.fcc) ∧
      e.ram = if ok then c.writes d.ram else d.ram := by
  dsimp only
  unfold Device.commitDone
  rw [h]
  dsimp only
  cases (!inhibited && d.boot.up.ao) <;> exact commitEvent_keeps _ _

/-! ## GAU_COMMIT (R443, R464, R467) -/

theorem exec_gaugeAnchorWrite (src : Source) (s : State) :
    exec (.gaugeAnchorWrite src) s = .next { s with dev := s.dev.busWrite s.fuses src 0x044074 0xF 4 {} } := rfl

theorem exec_gaugeCommit (src : Source) (s : State) :
    exec (.gaugeCommit src) s = .next { s with dev := s.dev.busWrite s.fuses src 0x044074 0xF 1 {} } := rfl

theorem arrive_vao (d : Device) (src : Source) (a : Nat) (hao : d.boot.up.ao = true) : (d.arrive src a).boot.up.ao = true := by
  rw [Device.arrive_up]
  exact hao

theorem gauWrite_commitWord (d : Device) (r : Requester) (w : Word) (x : WriteInfo) (hao : d.boot.up.ao = true) :
    d.gauWrite r 0x074 0xFFFFFFFF w x =
      let e := if bit w 2 then d.gauAnchor else d
      if bit w 0 then e.gauCommitStart else e := by
  unfold Device.gauWrite
  rw [hao, if_neg (by decide), if_pos rfl, and_full]

/-- A taken write of GAU_COMMIT with 4 is the anchor of the device that the access finds. -/
theorem gauAnchor_write (s : State) (src : Source) (hao : s.dev.boot.up.ao = true) (ht : s.dev.takes src 0x044074 0xFFFFFFFF 4 = true) :
    s.dev.busWrite s.fuses src 0x044074 0xF 4 {} = (s.dev.arrive src 0x044074).gauAnchor := by
  exact (gau_write s src 0x074 4 {} (by decide) (by decide) (by decide) ht).trans (gauWrite_commitWord _ _ _ _ (arrive_vao _ _ _ hao))

/-- A taken write of GAU_COMMIT with 1 is the commit of the device that the access finds. -/
theorem gauCommit_write (s : State) (src : Source) (hao : s.dev.boot.up.ao = true) (ht : s.dev.takes src 0x044074 0xFFFFFFFF 1 = true) :
    s.dev.busWrite s.fuses src 0x044074 0xF 1 {} = (s.dev.arrive src 0x044074).gauCommitStart := by
  exact (gau_write s src 0x074 1 {} (by decide) (by decide) (by decide) ht).trans (gauWrite_commitWord _ _ _ _ (arrive_vao _ _ _ hao))

/-- A commit under way, or no image, refuses another commit (R467). -/
theorem commitStart_refused (d : Device) (h : d.gau.commit.isSome = true ∨ d.gau.st = .notRestored) :
    d.gauCommitStart.gau = d.gau ∧ bit (d.gauCommitStart.head (pg gauPage)).err 8 = true := by
  have hno : (d.gau.commit.isSome || d.gau.st == .notRestored) = true := by rcases h with h | h <;> simp [h]
  unfold Device.gauCommitStart
  rw [if_pos hno]
  exact ⟨rfl, setErr_bit d gauPage 8 (by decide)⟩

/-- The commit that GAU_STAGE and the active slot ask for: the other slot, and the next sequence number (R464). -/
theorem commitStart_begins (d : Device) (hfree : d.gau.commit = none) (hst : d.gau.st ≠ .notRestored) :
    d.gauCommitStart.gau = { d.gau with commit := some {
      slotB := !d.activeB, fcc := bits (d.reg 0x044070) 15 0, cycles := bits (d.reg 0x044070) 31 16,
      seq := (d.sramH (slotOff d.activeB + 4) + 1) % 65536 } } := by
  unfold Device.gauCommitStart
  rw [if_neg (by simp [hfree, hst])]
  rfl

/-! ## GAU_RESTORE (R473, R474) -/

theorem exec_gaugeRestore (src : Source) (key : BitVec 16) (packDet : Bool) (s : State) :
    exec (.gaugeRestore src key packDet) s =
      .next { s with dev := s.dev.busWrite s.fuses src 0x044078 0xF (field 31 16 key.toNat ||| 1) { packDet := some packDet } } := rfl

theorem exec_gaugeUnload (src : Source) (key : BitVec 16) (s : State) :
    exec (.gaugeUnload src key) s = .next { s with dev := s.dev.busWrite s.fuses src 0x044078 0xF (field 31 16 key.toNat ||| 2) {} } := rfl

theorem key_ne {key : BitVec 16} (h : key ≠ 0x6A17) : key.toNat ≠ 0x6A17 := fun heq => h (BitVec.eq_of_toNat_eq heq)

/-- A taken write of GAU_RESTORE with OP 1 restores with the key, and otherwise is an access violation. -/
theorem gauRestore_write (s : State) (src : Source) (key : BitVec 16) (packDet : Bool) (hao : s.dev.boot.up.ao = true)
    (ht : s.dev.takes src 0x044078 0xFFFFFFFF (field 31 16 key.toNat ||| 1) = true) :
    s.dev.busWrite s.fuses src 0x044078 0xF (field 31 16 key.toNat ||| 1) { packDet := some packDet } =
      if key = 0x6A17 then (s.dev.arrive src 0x044078).gauRestore packDet (s.dev.requester src).code
      else (s.dev.arrive src 0x044078).setErr gauPage errAccvio := by
  have hwrite := gau_write s src 0x078 _ { packDet := some packDet } (by decide) (by decide) (by decide) ht
  refine hwrite.trans ((gau_key _ _ _ key 1 (by decide) (arrive_vao _ _ _ hao)).trans ?_)
  by_cases hkey : key = 0x6A17
  · rw [if_pos hkey, hkey]
    rfl
  · rw [if_neg hkey]
    exact if_pos (key_ne hkey)

/-- A taken write of GAU_RESTORE with OP 2 unloads with the key, and otherwise is an access violation. -/
theorem gauUnload_write (s : State) (src : Source) (key : BitVec 16) (hao : s.dev.boot.up.ao = true)
    (ht : s.dev.takes src 0x044078 0xFFFFFFFF (field 31 16 key.toNat ||| 2) = true) :
    s.dev.busWrite s.fuses src 0x044078 0xF (field 31 16 key.toNat ||| 2) {} =
      if key = 0x6A17 then (s.dev.arrive src 0x044078).gauUnload (s.dev.requester src).code
      else (s.dev.arrive src 0x044078).setErr gauPage errAccvio := by
  have hwrite := gau_write s src 0x078 _ {} (by decide) (by decide) (by decide) ht
  refine hwrite.trans ((gau_key _ _ _ key 2 (by decide) (arrive_vao _ _ _ hao)).trans ?_)
  by_cases hkey : key = 0x6A17
  · rw [if_pos hkey, hkey]
    rfl
  · rw [if_neg hkey]
    exact if_pos (key_ne hkey)

/-- A RESTORE that does not answer OK writes RESULT alone (R473). -/
theorem gauRestore_refused (d : Device) (packDet : Bool) (who : Nat) (h : d.restoreResult ≠ 1) :
    (d.gauRestore packDet who).gau = { d.gau with result := d.restoreResult } := by
  unfold Device.gauRestore
  dsimp only
  rw [if_neg h]
  rfl

/-- A RESTORE that answers OK takes the capacity of R468 and leaves NOT_RESTORED (R470). -/
theorem gauRestore_ok (d : Device) (packDet : Bool) (who : Nat) (h : d.restoreResult = 1) :
    let e := d.gauRestore packDet who
    e.gau.result = 1 ∧ e.gau.st = (if packDet then .nopack else .seeking) ∧ e.gau.fcc = d.capacity.1 ∧ e.gau.slotB = d.capacity.2.1 ∧
      e.gau.packChanged = false := by
  dsimp only
  unfold Device.gauRestore
  dsimp only
  rw [if_pos h]
  generalize hx : d.updGau (fun g => { g with result := d.restoreResult }) = x
  have hcap : x.capacity = d.capacity := (capacity_of (by rw [← hx]; rfl)).1
  have hres : x.gau.result = 1 := by rw [← hx]; exact h
  have htake := (takeCapacity_gau x).1
  obtain ⟨⟨hst, _, _, _, _, _, _, _, _, hfcc, _⟩, _, _, hchanged, hresult, _, hslot, _⟩ :=
    gauTo_moves (x.takeCapacity.updGau fun g => { g with packChanged := false }) (if packDet then .nopack else .seeking) 0x10 who
  rw [Device.updGau_gau, htake] at hfcc hchanged hresult hslot
  rw [← hcap]
  exact ⟨hresult.trans hres, hst, hfcc, hslot, hchanged⟩

theorem gauUnload_notRestored (d : Device) (who : Nat) (h : d.gau.st = .notRestored) : (d.gauUnload who).gau = { d.gau with result := 5 } := by
  unfold Device.gauUnload
  rw [h, if_pos (by decide)]
  rfl

/-- An UNLOAD waits for the commit under way (R474). -/
theorem gauUnload_waits (d : Device) (who : Nat) (h : d.gau.st ≠ .notRestored) (hc : d.gau.commit.isSome = true) :
    (d.gauUnload who).gau = { d.gau with result := 1, unloadWait := true } := by
  unfold Device.gauUnload
  rw [if_neg (by simpa using h)]
  dsimp only
  rw [Device.updGau_gau, if_pos hc]
  rfl

theorem gauUnload_done (d : Device) (who : Nat) (h : d.gau.st ≠ .notRestored) (hc : d.gau.commit = none) :
    (d.gauUnload who).gau.st = .notRestored ∧ (d.gauUnload who).gau.result = 1 ∧ (d.gauUnload who).gau.soc = 0xFFFF := by
  unfold Device.gauUnload
  rw [if_neg (by simpa using h)]
  dsimp only
  rw [Device.updGau_gau, hc, if_neg (by decide)]
  obtain ⟨hst, _, _, _, _, _, _, hresult, hsoc⟩ := unload_gau (d.updGau fun g => { g with result := 1 }) 0x16 who
  exact ⟨hst, hresult, hsoc⟩

/-! ## The read of GAU_ACC_LO (R477) -/

theorem exec_gauAccRead (src : Source) (s : State) : exec (.gauAccRead src) s = .next { s with dev := s.dev.busRead src 0x044050 } := rfl

theorem readPlain_accLo (d : Device) (src : Source) (hao : d.boot.up.ao = true) : (d.readPlain src 0x044050).2 = d.gauAccRead := by
  have hpeak : peakAt 0x044050 = none := by decide
  have hctr : pmcCtrAt 0x044050 = none := by decide
  unfold Device.readPlain
  dsimp only
  rw [hpeak]
  dsimp only
  rw [hctr]
  dsimp only
  rw [if_neg (by decide), if_pos rfl, hao, if_pos rfl]

theorem accRead_read (d : Device) (src : Source) (hao : d.boot.up.ao = true) (hg : d.gets src 0x044050 = true) :
    d.busRead src 0x044050 = (d.arrive src 0x044050).gauAccRead := by
  rw [busRead_arrive d src 0x044050 hg (by decide) (by decide), readPlain_accLo _ _ (arrive_vao _ _ _ hao)]

/-! ## The commands, from the gauge that the access leaves -/

section
variable (s : State) (src : Source) (hao : s.dev.boot.up.ao = true)
include hao

theorem anchor_effect (ht : s.dev.takes src 0x044074 0xFFFFFFFF 4 = true) :
    (s.dev.busWrite s.fuses src 0x044074 0xF 4 {}).gau = { s.dev.gauSeen with abs := 0, age := 0, hibt := 0, ocvReady := false } := by
  have hseen := (arrive_gau s.dev src 0x044074 (by decide) hao).1
  rw [gauAnchor_write s src hao ht, ← hseen]
  rfl

theorem commit_effect (ht : s.dev.takes src 0x044074 0xFFFFFFFF 1 = true) :
    let e := s.dev.busWrite s.fuses src 0x044074 0xF 1 {}
    (s.dev.gau.commit.isSome = true ∨ s.dev.gau.st = .notRestored → e.gau = s.dev.gauSeen ∧ bit (e.head (pg gauPage)).err 8 = true) ∧
    (s.dev.gau.commit = none → s.dev.gau.st ≠ .notRestored → e.gau = { s.dev.gauSeen with commit := some {
      slotB := !s.dev.activeB, fcc := bits (s.dev.reg 0x044070) 15 0, cycles := bits (s.dev.reg 0x044070) 31 16,
      seq := (s.dev.sramH (slotOff s.dev.activeB + 4) + 1) % 65536 } }) := by
  have hseen := (arrive_gau s.dev src 0x044074 (by decide) hao).1
  have hram : (s.dev.arrive src 0x044074).ram = s.dev.ram := Device.arrive_ram ..
  dsimp only
  rw [gauCommit_write s src hao ht]
  refine ⟨fun hno => ?_, fun hfree hst => ?_⟩
  · obtain ⟨hgau, herr⟩ := commitStart_refused (s.dev.arrive src 0x044074) (by rw [hseen]; exact hno)
    exact ⟨hgau.trans hseen, herr⟩
  · rw [commitStart_begins _ (by rw [hseen]; exact hfree) (by rw [hseen]; exact hst), hseen, Device.arrive_reg,
      (capacity_of hram).2.1, (ramOf hram).1]

theorem restore_effect (key : BitVec 16) (packDet : Bool) (ht : s.dev.takes src 0x044078 0xFFFFFFFF (field 31 16 key.toNat ||| 1) = true) :
    let e := s.dev.busWrite s.fuses src 0x044078 0xF (field 31 16 key.toNat ||| 1) { packDet := some packDet }
    (key ≠ 0x6A17 → e.gau = s.dev.gauSeen ∧ bit (e.head (pg gauPage)).err 1 = true) ∧
    (key = 0x6A17 → e.gau.result = s.dev.restoreResult ∧ (s.dev.restoreResult ≠ 1 → e.gau = { s.dev.gauSeen with result := s.dev.restoreResult }) ∧
      (s.dev.restoreResult = 1 → e.gau.st = (if packDet then .nopack else .seeking) ∧ e.gau.fcc = s.dev.capacity.1 ∧
        e.gau.slotB = s.dev.capacity.2.1 ∧ e.gau.packChanged = false)) := by
  have hseen := (arrive_gau s.dev src 0x044078 (by decide) hao).1
  have hram : (s.dev.arrive src 0x044078).ram = s.dev.ram := Device.arrive_ram ..
  have hanswer : (s.dev.arrive src 0x044078).restoreResult = s.dev.restoreResult := restore_of hram (by rw [hseen]; rfl)
  dsimp only
  rw [gauRestore_write s src key packDet hao ht]
  refine ⟨fun hkey => ?_, fun hkey => ?_⟩
  · rw [if_neg hkey]
    exact ⟨hseen, setErr_accvio_bit _ gauPage⟩
  · rw [if_pos hkey]
    by_cases hok : s.dev.restoreResult = 1
    · obtain ⟨hresult, hst, hfcc, hslot, hchanged⟩ := gauRestore_ok (s.dev.arrive src 0x044078) packDet (s.dev.requester src).code (hanswer.trans hok)
      rw [(capacity_of hram).1] at hfcc hslot
      exact ⟨hresult.trans hok.symm, absurd hok, fun _ => ⟨hst, hfcc, hslot, hchanged⟩⟩
    · have hgau := gauRestore_refused (s.dev.arrive src 0x044078) packDet (s.dev.requester src).code (by rw [hanswer]; exact hok)
      rw [hgau, hanswer, hseen]
      exact ⟨rfl, fun _ => rfl, fun h => absurd h hok⟩

theorem unload_effect (key : BitVec 16) (ht : s.dev.takes src 0x044078 0xFFFFFFFF (field 31 16 key.toNat ||| 2) = true) :
    let e := s.dev.busWrite s.fuses src 0x044078 0xF (field 31 16 key.toNat ||| 2) {}
    (key ≠ 0x6A17 → e.gau = s.dev.gauSeen ∧ bit (e.head (pg gauPage)).err 1 = true) ∧
    (key = 0x6A17 → (s.dev.gau.st = .notRestored → e.gau = { s.dev.gauSeen with result := 5 }) ∧
      (s.dev.gau.st ≠ .notRestored → s.dev.gau.commit.isSome = true → e.gau = { s.dev.gauSeen with result := 1, unloadWait := true }) ∧
      (s.dev.gau.st ≠ .notRestored → s.dev.gau.commit = none → e.gau.st = .notRestored ∧ e.gau.result = 1 ∧ e.gau.soc = 0xFFFF)) := by
  have hseen := (arrive_gau s.dev src 0x044078 (by decide) hao).1
  dsimp only
  rw [gauUnload_write s src key hao ht]
  refine ⟨fun hkey => ?_, fun hkey => ?_⟩
  · rw [if_neg hkey]
    exact ⟨hseen, setErr_accvio_bit _ gauPage⟩
  · rw [if_pos hkey]
    refine ⟨fun hst => ?_, fun hst hc => ?_, fun hst hc => ?_⟩
    · rw [gauUnload_notRestored _ _ (by rw [hseen]; exact hst), hseen]
    · rw [gauUnload_waits _ _ (by rw [hseen]; exact hst) (by rw [hseen]; exact hc), hseen]
    · exact gauUnload_done _ _ (by rw [hseen]; exact hst) (by rw [hseen]; exact hc)

theorem accRead_effect (hg : s.dev.gets src 0x044050 = true) :
    (s.dev.busRead src 0x044050).gau = { s.dev.gauSeen with buf := #v[field 15 0 (s.dev.gau.acc / 2 ^ 32),
      BitVec.ofNat 32 s.dev.gau.abs, field 15 0 (s.dev.gau.abs / 2 ^ 32), BitVec.ofNat 32 s.dev.gau.age, BitVec.ofNat 32 s.dev.gau.hibt] } := by
  have hseen := (arrive_gau s.dev src 0x044050 (by decide) hao).1
  rw [accRead_read s.dev src hao hg]
  unfold Device.gauAccRead
  rw [Device.updGau_gau, hseen]
  rfl

end

/-- Settles O46: the events from what a second, a move and the end of a commit leave; the commands from what each write or read does to the gauge
that the access finds. -/
theorem gaugeEventsAndCommandsComplete : Obligations.GaugeEventsAndCommandsComplete := by
  unfold Obligations.GaugeEventsAndCommandsComplete
  refine ⟨fun s => ⟨fun sec hao hcore hrun => ⟨fun hst hfull hocv => ?_, fun hst hfull hocv => ?_⟩,
    fun hrun => ⟨fun hcore hst hage => ?_, fun hage => ?_, fun hst => ?_, fun hst => ?_, fun hst => ?_, fun hst => ?_⟩,
    fun inhibited => ⟨fun hnone => ?_, fun c hc hcanon => ⟨_, exec_gaugeCommitComplete inhibited s, ?_⟩⟩⟩,
    fun s src hao => ⟨fun ht => ?_, fun ht => ?_, fun key packDet ht => ?_, fun key ht => ?_, fun hg => ?_⟩⟩
  · exact ⟨_, exec_gaugeEstimateUpdate sec s, gaugeSecond_counting _ sec hao hcore hrun hst hfull hocv⟩
  · exact ⟨_, exec_gaugeEstimateUpdate sec s, gaugeSecond_fullPoint _ sec hao hcore hrun hst hfull hocv⟩
  · exact ⟨_, exec_gaugeStarved s hrun, gauStarve_aged _ hcore hst hage⟩
  · rw [exec_gaugeStarved s hrun, gauStarve_young _ hage]
  · exact ⟨_, exec_gaugeNopack s hrun, gauNopack_running _ hst⟩
  · rw [exec_gaugeNopack s hrun, gauNopack_idle _ hst]
  · exact ⟨_, exec_gaugePackReturn s hrun, gauPackReturn_nopack _ hst⟩
  · rw [exec_gaugePackReturn s hrun, gauPackReturn_present _ hst]
  · rw [exec_gaugeCommitComplete, commitDone_idle _ _ hnone]
  · obtain ⟨hcommit, hfail, hcount, hslot, hfcc, hram⟩ := commitDone_effect s.dev c inhibited hc
    refine ⟨hcommit, fun hin hao => ?_, fun hno => ?_⟩
    · rw [show (!inhibited && s.dev.boot.up.ao) = true by rw [hin, hao]; rfl] at hfail hcount hslot hfcc hram
      obtain ⟨hw0, hw1, hcrc, hactive, hother⟩ := writes_reads c s.dev _ hcanon hram
      exact ⟨hfail, hcount, hslot, hfcc, hw0, hw1, hcrc, hactive, hother⟩
    · rw [show (!inhibited && s.dev.boot.up.ao) = false by rcases hno with hno | hno <;> simp [hno]] at hfail hcount hfcc hram
      exact ⟨hfail, hcount, hfcc, hram⟩
  · exact ⟨_, exec_gaugeAnchorWrite src s, anchor_effect s src hao ht⟩
  · exact ⟨_, exec_gaugeCommit src s, commit_effect s src hao ht⟩
  · exact ⟨_, exec_gaugeRestore src key packDet s, restore_effect s src hao key packDet ht⟩
  · exact ⟨_, exec_gaugeUnload src key s, unload_effect s src hao key ht⟩
  · exact ⟨_, exec_gauAccRead src s, accRead_effect s src hao hg⟩

end Sys2Proof.Machine
end

section
/-! SUPPORT. Arming, service and expiry of a watchdog: the settled statement of chapter Watchdog. -/

namespace Sys2Proof.Machine
open Sys2Proof

/-! ## The watchdog that a command finds -/

/-- What a command on watchdog k meets: e is d after dt ticks that end nothing of watchdog k. -/
structure TicksPassed (d e : Device) (k : Fin 9) (dt : Nat) : Prop where
  now : e.wd k = d.wdtNow k dt
  others : ∀ j, j ≠ k → e.wd j = d.wd j
  regs : e.regs = d.regs
  up : e.boot.up = d.boot.up
  locked : e.locked (wdtPage k) = d.locked (wdtPage k)

/-- A taken write of a word of a watchdog page acts, by its effect g, on the device after the ticks. -/
theorem wdt_write_after_ticks (s : State) (src : Source) (k : Fin 9) (o dt : Nat) (w : Word) (g : Device → Device)
    (hg : ∀ d : Device, d.wdtWrite s.fuses (s.dev.requester src) k o 0xFFFFFFFF w { dt := dt } = g (d.wdtAdvance s.fuses k dt))
    (ho : o < 0x1000) (h4 : o % 4 = 0) (hh : 0x040 ≤ o) (hcalm : s.dev.wdtCalm k dt)
    (ht : s.dev.takes src (pageAddr (wdtPage k) o) 0xFFFFFFFF w = true) :
    ∃ e, TicksPassed s.dev e k dt ∧
      s.bus src (pageAddr (wdtPage k) o) 0xF w { dt := dt } = .next { s with dev := g e } := by
  obtain ⟨d, e, _, hadv, hwrite, hnow, hothers, hregs, hup, hlocked⟩ := wdt_arrives s src k o dt w hcalm ho h4 hh ht
  refine ⟨e, ⟨hnow, hothers, hregs, hup, hlocked⟩, ?_⟩
  rw [hg, hadv] at hwrite
  exact congrArg (fun d => Host.Outcome.next { s with dev := d }) hwrite

section
variable {d e : Device} {k : Fin 9} {dt : Nat}

theorem TicksPassed.expires (h : TicksPassed d e k dt) (f : OtpArray) (reason : Nat) :
    WindowExpires d (e.wdtExpire f k reason) k reason := expires_of rfl h.now h.regs

theorem TicksPassed.begins (h : TicksPassed d e k dt) {t : Device} {n : Nat} (hb : WindowBegins e t k n) : WindowBegins d t k n :=
  begins_of hb h.regs (by rw [h.now, now_seed])

end

/-! ## WDT_CTL (R537, R538) -/

section
variable (d : Device) (k : Fin 9) (who : Nat)

theorem wdtArm_tripped (h : (d.wd k).st = .tripped) : d.wdtArm k who = d.updWd k fun x => { x with armlatch := true } := by
  unfold Device.wdtArm
  rw [h]

theorem wdtArm_warn (h : (d.wd k).st = .warn) : d.wdtArm k who = d.setErr (wdtPage k) (errBit 12) := by
  unfold Device.wdtArm
  rw [h]

theorem wdtArm_arms (h : (d.wd k).st = .disarmed ∨ (d.wd k).st = .run) : d.wdtArm k who = d.wdtArmNow k 0x10 who := by
  unfold Device.wdtArm
  rcases h with h | h <;> rw [h]

theorem wdtDisarmWrite_refused (key : Nat) (h : key ≠ 0xD15A ∨ d.locked (wdtPage k) = true) :
    d.wdtDisarmWrite k key who = d.setErr (wdtPage k) errAccvio := by
  unfold Device.wdtDisarmWrite
  rw [if_pos (by simpa using h)]

theorem wdtDisarmWrite_taken (h : d.locked (wdtPage k) = false) :
    d.wdtDisarmWrite k 0xD15A who = if (d.wd k).st = .tripped then d else d.wdtDisarm k 0x15 who := by
  unfold Device.wdtDisarmWrite
  simp [h]

/-- Disarming moves the state and what PREV shows, and nothing else of the watchdog (R535, R538). -/
theorem wdtDisarm_wd (cause : Nat) : (d.wdtDisarm k cause who).wd k =
    if (d.wd k).st = .disarmed then d.wd k else { d.wd k with prev := (d.wd k).st, st := .disarmed } := by
  unfold Device.wdtDisarm
  by_cases h : (d.wd k).st = .disarmed
  · simp [h]
  · simp [h, wdtTo_wd]

theorem wdtDisarm_other (cause : Nat) {j : Fin 9} (hj : j ≠ k) : (d.wdtDisarm k cause who).wd j = d.wd j := by
  unfold Device.wdtDisarm
  split
  · rfl
  · rw [wdtTo_wd, Device.wd_updWd_other _ _ hj]

theorem wdtWrite_arm (f : OtpArray) (r : Requester) (dt : Nat) :
    d.wdtWrite f r k 0x054 0xFFFFFFFF 1 { dt := dt } = (d.wdtAdvance f k dt).wdtArm k r.code := rfl

theorem wdtWrite_disarm (f : OtpArray) (r : Requester) (dt : Nat) (key : BitVec 16) :
    d.wdtWrite f r k 0x054 0xFFFFFFFF (field 31 16 key.toNat ||| 2) { dt := dt } = (d.wdtAdvance f k dt).wdtDisarmWrite k key.toNat r.code := by
  obtain ⟨hdisarm, harm, hkey⟩ := disarm_key key
  unfold Device.wdtWrite
  simp only [and_full, hdisarm, harm, hkey, if_true, Bool.false_eq_true, if_false]

end

section
variable {d e : Device} {k : Fin 9} {dt : Nat}

theorem TicksPassed.arm (h : TicksPassed d e k dt) (who : Nat) :
    let x := d.wdtNow k dt
    let t := e.wdtArm k who
    (∀ j, j ≠ k → t.wd j = d.wd j) ∧
    (x.st = .tripped → t.wd k = { x with armlatch := true }) ∧
    (x.st = .warn → t.wd k = x ∧ bit (t.head (pg (wdtPage k))).err 12 = true) ∧
    (x.st = .disarmed ∨ x.st = .run → (t.wd k).st = .run ∧ (t.wd k).prev = x.st ∧ (t.wd k).armlatch = false ∧ WindowBegins d t k 0 ∧
      (d.boot.up.ao = true → t.ao.active = true)) := by
  obtain ⟨hother, hrun, hprev, hlatch, hbegins, hactive, _⟩ := armNow_facts e k 0x10 who
  dsimp only
  rw [← h.now]
  refine ⟨fun j hj => ?_, fun hst => ?_, fun hst => ?_, fun hst => ?_⟩
  · rw [← h.others j hj]
    cases hst : (e.wd k).st with
    | tripped => rw [wdtArm_tripped e k who hst, Device.wd_updWd_other _ _ hj]
    | warn => rw [wdtArm_warn e k who hst]; rfl
    | disarmed => rw [wdtArm_arms e k who (.inl hst)]; exact hother j hj
    | run => rw [wdtArm_arms e k who (.inr hst)]; exact hother j hj
  · rw [wdtArm_tripped e k who hst, Device.wd_updWd]
  · rw [wdtArm_warn e k who hst]
    exact ⟨rfl, err_wdt e k 12 (by decide)⟩
  · rw [wdtArm_arms e k who hst]
    exact ⟨hrun, hprev, hlatch, h.begins hbegins, fun hup => hactive (by rw [h.up]; exact hup)⟩

theorem TicksPassed.disarm (h : TicksPassed d e k dt) (key : BitVec 16) (who : Nat) :
    let x := d.wdtNow k dt
    let t := e.wdtDisarmWrite k key.toNat who
    (∀ j, j ≠ k → t.wd j = d.wd j) ∧
    (key ≠ 0xD15A ∨ d.locked (wdtPage k) = true → t.wd k = x ∧ bit (t.head (pg (wdtPage k))).err 1 = true) ∧
    (key = 0xD15A → d.locked (wdtPage k) = false →
      (x.st = .tripped → t.wd k = x) ∧
      (x.st ≠ .tripped → (t.wd k).st = .disarmed ∧ (t.wd k).exprec = x.exprec ∧ (t.wd k).expcnt = x.expcnt)) := by
  have hrefused : key ≠ 0xD15A ∨ e.locked (wdtPage k) = true → e.wdtDisarmWrite k key.toNat who = e.setErr (wdtPage k) errAccvio :=
    fun hr => wdtDisarmWrite_refused e k who _ (hr.imp_left fun hne heq => hne (BitVec.eq_of_toNat_eq heq))
  have htaken : key = 0xD15A → e.locked (wdtPage k) = false →
      e.wdtDisarmWrite k key.toNat who = if (e.wd k).st = .tripped then e else e.wdtDisarm k 0x15 who := by
    rintro rfl hl
    exact wdtDisarmWrite_taken e k who hl
  dsimp only
  rw [← h.now, ← h.locked]
  refine ⟨fun j hj => ?_, fun hr => ?_, fun hkey hl => ⟨fun hst => ?_, fun hst => ?_⟩⟩
  · rw [← h.others j hj]
    by_cases hr : key ≠ 0xD15A ∨ e.locked (wdtPage k) = true
    · rw [hrefused hr]; rfl
    · rw [htaken (by simpa using fun hne => hr (.inl hne)) (by simpa using fun hl => hr (.inr hl))]
      split
      · rfl
      · exact wdtDisarm_other e k who 0x15 hj
  · rw [hrefused hr]
    exact ⟨rfl, err_wdt e k 1 (by decide)⟩
  · rw [htaken hkey hl, if_pos hst]
  · rw [htaken hkey hl, if_neg hst, wdtDisarm_wd]
    split
    case isTrue hdis => exact ⟨hdis, rfl, rfl⟩
    case isFalse => exact ⟨rfl, rfl, rfl⟩

end

/-! ## The queue and the end of HOLD (R531, R544) -/

theorem wdtWrite_queue (d : Device) (k : Fin 9) (f : OtpArray) (r : Requester) (dt : Nat) (chal : BitVec 16) :
    d.wdtWrite f r k 0x078 0xFFFFFFFF (field 15 0 chal.toNat) { dt := dt } = (d.wdtAdvance f k dt).wdtQueue k chal := by
  show (d.wdtAdvance f k dt).wdtQueue k ((field 15 0 chal.toNat &&& 0xFFFFFFFF : Word).setWidth 16) = _
  rw [and_full, low_field]

theorem TicksPassed.queue {d e : Device} {k : Fin 9} (h : TicksPassed d e k 0) (chal : BitVec 16) :
    (∀ j, j ≠ k → (e.wdtQueue k chal).wd j = d.wd j) ∧
    (e.wdtQueue k chal).wd k = if (d.wd k).queue.length < 4 then { d.wd k with queue := (d.wd k).queue ++ [chal] } else d.wd k := by
  have hnow : e.wd k = d.wd k := h.now.trans (now_zero d k)
  unfold Device.wdtQueue
  refine ⟨fun j hj => ?_, ?_⟩
  · rw [Device.wd_updWd_other _ _ hj, h.others j hj]
  · rw [Device.wd_updWd, hnow]

section
variable {s : State} {k : Fin 9} {dt : Nat}

theorem exec_wdtHoldElapsed (hlive : s.dev.live = true) : exec (.wdtHoldElapsed ⟨k, dt⟩) s =
    .next { s with dev := if (s.dev.wd k).st == .tripped then s.dev.wdtAdvance s.fuses k dt else s.dev } :=
  live_next s (fun d => if (d.wd k).st == .tripped then d.wdtAdvance s.fuses k dt else d) hlive

theorem exec_wdtWindowLate (hlive : s.dev.live = true) :
    exec (.wdtWindowLate k dt) s = .next { s with dev := s.dev.wdtAdvance s.fuses k dt } :=
  live_next s (fun d => d.wdtAdvance s.fuses k dt) hlive

end

section
variable {d : Device} {k : Fin 9}

theorem tripped_of_holding (h : d.wdtHolding k = true) : (d.wd k).st = .tripped := by
  unfold Device.wdtHolding at h
  simp only [Bool.and_eq_true, beq_iff_eq] at h
  exact h.1.1

/-- Ticks do not count on a tripped watchdog whose HOLD does not run: watchdog 8, or any while VAO is down (R48, R534). -/
theorem wdtAdvance_not_holding (f : OtpArray) (dt : Nat) (hst : (d.wd k).st = .tripped) (h : d.wdtHolding k = false) :
    d.wdtAdvance f k dt = d := by
  unfold Device.wdtHolding at h
  unfold Device.wdtAdvance Device.wdtRun
  have harmed : ((d.wd k).st.armed && d.boot.up.ao) = false := by rw [hst]; rfl
  dsimp only
  rw [harmed, h]
  rfl

theorem calm_of_holding {dt : Nat} (h : d.wdtHolding k = true) (hlt : (d.wd k).hold + dt < d.wdtHoldTicks k) : d.wdtCalm k dt :=
  by
  refine ⟨fun harmed => ?_, fun _ => hlt⟩
  rw [tripped_of_holding h] at harmed
  exact nomatch harmed

theorem now_of_holding {dt : Nat} (h : d.wdtHolding k = true) : d.wdtNow k dt = { d.wd k with hold := (d.wd k).hold + dt } := by
  unfold Device.wdtNow
  have harmed : ((d.wd k).st.armed && d.boot.up.ao) = false := by rw [tripped_of_holding h]; rfl
  rw [harmed, h]
  rfl

end

/-! ## Check-ins and answers (R522 to R526, R529, R530, R532) -/

/-- The watchdog with a check-in of a task recorded (R522, R526). -/
def Wdt.collect (x : Wdt) (task : BitVec 16) : Wdt :=
  { x with done := x.done ||| (task &&& x.tasks), dup := x.dup || (task &&& x.tasks &&& x.done) != 0 }

section
variable (d : Device) (f : OtpArray) (k : Fin 9)

theorem wdtCheckin_unarmed (task : BitVec 16) (h : (d.wd k).st.armed = false) : d.wdtCheckin f k task = d := by
  unfold Device.wdtCheckin
  simp only [h, Bool.false_eq_true, if_false]

theorem wdtCheckin_any (task : BitVec 16) (h : (d.wd k).st.armed = true) (hany : (d.wd k).anyService = true) :
    d.wdtCheckin f k task = if (d.wd k).served = true then d.wdtExpire f k 3 else d.wdtService f k := by
  unfold Device.wdtCheckin
  simp only [h, hany, if_true]

/-- Where the window asks for tasks or an answer, the check-in that completes it is the service. -/
theorem wdtCheckin_collects (task : BitVec 16) (h : (d.wd k).st.armed = true) (hany : (d.wd k).anyService = false) :
    d.wdtCheckin f k task =
      if (d.wd k).complete = false ∧ ((d.wd k).collect task).complete = true then (d.updWd k (·.collect task)).wdtService f k
      else d.updWd k (·.collect task) := by
  have hcollect : (d.updWd k fun x => { x with done := x.done ||| (task &&& (d.wd k).tasks), dup := x.dup || (task &&& (d.wd k).tasks &&& x.done) != 0 }) =
      d.updWd k (·.collect task) := rfl
  unfold Device.wdtCheckin
  simp only [h, hany, if_true, Bool.false_eq_true, if_false, hcollect, Device.wd_updWd, Bool.and_eq_true, Bool.not_eq_true']

theorem wdtAnswer_ignored (token : BitVec 16) (h : (d.wd k).st.armed = false ∨ (d.wd k).chalEn = false) : d.wdtAnswer f k token = d := by
  unfold Device.wdtAnswer
  rw [if_neg (by rcases h with h | h <;> simp [h])]

theorem wdtAnswer_armed (token : BitVec 16) (h : (d.wd k).st.armed = true) (hen : (d.wd k).chalEn = true) :
    d.wdtAnswer f k token =
      if (d.wd k).answered = true then d.wdtExpire f k 5
      else if token = wdtToken (d.wd k).chal (d.wd k).seed (d.wd k).wcnt then
        if ({ d.wd k with answered := true } : Wdt).complete = true then (d.updWd k fun x => { x with answered := true }).wdtService f k
        else d.updWd k fun x => { x with answered := true }
      else d.wdtExpire f k 4 := by
  unfold Device.wdtAnswer
  simp only [h, hen, Bool.and_self, if_true, Device.wd_updWd]

/-- Once answered, a window is complete exactly when no task is left (R522). -/
theorem complete_of_answered (x : Wdt) : ({ x with answered := true } : Wdt).complete = true ↔ x.tasks &&& ~~~x.done = 0 := by
  unfold Wdt.complete
  rw [Bool.or_true, Bool.and_true, beq_iff_eq]
  rfl

/-- A service in RUN at or after OPEN serves the window (R522, R524). -/
theorem wdtService_updWd (g : Wdt → Wdt) (hst : (g (d.wd k)).st = .run) (hopen : (g (d.wd k)).openTick ≤ (g (d.wd k)).tick) :
    ((d.updWd k g).wdtService f k).wd k = { g (d.wd k) with served := true } := by
  rw [(serve_run (d.updWd k g) f k (by rw [Device.wd_updWd]; exact hst)).1 (by rw [Device.wd_updWd]; exact hopen), Device.wd_updWd, Device.wd_updWd]

theorem wdtWrite_checkin (r : Requester) (dt : Nat) (task : BitVec 16) :
    d.wdtWrite f r k 0x058 0xFFFFFFFF (field 15 0 task.toNat) { dt := dt } = (d.wdtAdvance f k dt).wdtCheckin f k task := by
  show (d.wdtAdvance f k dt).wdtCheckin f k ((field 15 0 task.toNat &&& 0xFFFFFFFF : Word).setWidth 16) = _
  rw [and_full, low_field]

theorem wdtWrite_answer (r : Requester) (dt : Nat) (token : BitVec 16) :
    d.wdtWrite f r k 0x060 0xFFFFFFFF (field 15 0 token.toNat) { dt := dt } = (d.wdtAdvance f k dt).wdtAnswer f k token := by
  show (d.wdtAdvance f k dt).wdtAnswer f k ((field 15 0 token.toNat &&& 0xFFFFFFFF : Word).setWidth 16) = _
  rw [and_full, low_field]

end

section
variable {d e : Device} {k : Fin 9} {dt : Nat}

theorem TicksPassed.checkin (h : TicksPassed d e k dt) (f : OtpArray) (task : BitVec 16) :
    let x := d.wdtNow k dt
    let y := x.collect task
    let t := e.wdtCheckin f k task
    (x.st.armed = false → t.wd k = x) ∧
    (x.st.armed = true → x.anyService = true → x.served = true → WindowExpires d t k 3) ∧
    (x.st = .run → x.anyService = true → x.served = false →
      (x.openTick ≤ x.tick → t.wd k = { x with served := true }) ∧ (x.tick < x.openTick → WindowExpires d t k 2)) ∧
    (x.st = .warn → x.anyService = true → x.served = false → t.wd k = { x with served := true, warns := satInc 255 x.warns, prev := .warn, st := .run }) ∧
    (x.st.armed = true → x.anyService = false →
      (y.complete = false ∨ x.complete = true → t.wd k = y) ∧
      (y.complete = true → x.complete = false → x.st = .run → x.openTick ≤ x.tick → t.wd k = { y with served := true })) := by
  dsimp only
  rw [← h.now]
  have hserves : (e.wd k).st.armed = true → (e.wd k).anyService = true → (e.wd k).served = false → e.wdtCheckin f k task = e.wdtService f k :=
    fun harmed hany hserved => by rw [wdtCheckin_any e f k task harmed hany, if_neg (by rw [hserved]; decide)]
  refine ⟨fun harmed => ?_, fun harmed hany hserved => ?_, fun hst hany hserved => ?_, fun hst hany hserved => ?_,
    fun harmed hany => ⟨fun hstays => ?_, fun hy hx hst hopen => ?_⟩⟩
  · rw [wdtCheckin_unarmed e f k task harmed]
  · rw [wdtCheckin_any e f k task harmed hany, if_pos hserved]
    exact h.expires f 3
  · obtain ⟨hinside, hearly⟩ := serve_run e f k hst
    rw [hserves (by rw [hst]; rfl) hany hserved]
    refine ⟨fun hopen => ?_, fun hlt => ?_⟩
    · rw [hinside hopen, Device.wd_updWd]
    · rw [hearly hlt]
      exact h.expires f 2
  · rw [hserves (by rw [hst]; rfl) hany hserved]
    exact serve_warn e f k hst
  · rw [wdtCheckin_collects e f k task harmed hany, if_neg (by rcases hstays with q | q <;> simp [q]), Device.wd_updWd]
  · rw [wdtCheckin_collects e f k task harmed hany, if_pos ⟨hx, hy⟩]
    exact wdtService_updWd e f k (·.collect task) hst hopen

theorem TicksPassed.answer (h : TicksPassed d e k dt) (f : OtpArray) (token : BitVec 16) :
    let x := d.wdtNow k dt
    let t := e.wdtAnswer f k token
    (x.st.armed = false ∨ x.chalEn = false → t.wd k = x) ∧
    (x.st.armed = true → x.chalEn = true → x.answered = true → WindowExpires d t k 5) ∧
    (x.st.armed = true → x.chalEn = true → x.answered = false →
      (token ≠ wdtToken x.chal x.seed x.wcnt → WindowExpires d t k 4) ∧
      (token = wdtToken x.chal x.seed x.wcnt → x.tasks &&& ~~~x.done ≠ 0 → t.wd k = { x with answered := true }) ∧
      (token = wdtToken x.chal x.seed x.wcnt → x.tasks &&& ~~~x.done = 0 → x.st = .run → x.openTick ≤ x.tick →
        t.wd k = { x with answered := true, served := true })) := by
  dsimp only
  rw [← h.now]
  refine ⟨fun hidle => ?_, fun harmed hen hanswered => ?_, fun harmed hen hanswered => ?_⟩
  · rw [wdtAnswer_ignored e f k token hidle]
  · rw [wdtAnswer_armed e f k token harmed hen, if_pos hanswered]
    exact h.expires f 5
  · rw [wdtAnswer_armed e f k token harmed hen, if_neg (by rw [hanswered]; decide)]
    refine ⟨fun htoken => ?_, fun htoken htasks => ?_, fun htoken htasks hst hopen => ?_⟩
    · rw [if_neg htoken]
      exact h.expires f 4
    · rw [if_pos htoken, if_neg (by rw [complete_of_answered]; exact htasks), Device.wd_updWd]
    · rw [if_pos htoken, if_pos ((complete_of_answered _).2 htasks)]
      exact wdtService_updWd e f k _ hst hopen

end

/-- Settles O49: a write meets the watchdog after its ticks, and its effect there is that of arming, disarming, a check-in or an answer;
a late window and the end of HOLD are what the ticks themselves do. -/
theorem watchdogCommandsComplete : Obligations.WatchdogCommandsComplete := by
  unfold Obligations.WatchdogCommandsComplete
  refine ⟨fun s k src dt hcalm => ⟨fun ht => ?arm, fun key ht => ?disarm, fun chal ht => ?queue⟩,
    fun s k dt hlive => ⟨fun hhold hlt => ?holdCounts, fun hhold heq => ?holdEnds, fun hhold => ?holdIdle⟩,
    fun s k src dt => ⟨fun hcalm => ⟨fun task ht => ?checkin, fun token ht => ?answer⟩,
      fun hlive => ⟨fun hcalm => ?ticks, fun harmed hup hserved hclose hdt => ?late⟩⟩⟩
  case arm =>
    obtain ⟨e, hpassed, hexec⟩ := wdt_write_after_ticks s src k 0x054 dt _ (·.wdtArm k _)
      (fun d => wdtWrite_arm d k _ _ dt) (by decide) (by decide) (by decide) hcalm ht
    exact ⟨_, hexec, hpassed.arm _⟩
  case disarm =>
    obtain ⟨e, hpassed, hexec⟩ := wdt_write_after_ticks s src k 0x054 dt _ (·.wdtDisarmWrite k key.toNat _)
      (fun d => wdtWrite_disarm d k _ _ dt key) (by decide) (by decide) (by decide) hcalm ht
    exact ⟨_, hexec, hpassed.disarm key _⟩
  case queue =>
    obtain ⟨e, hpassed, hexec⟩ := wdt_write_after_ticks s src k 0x078 0 _ (·.wdtQueue k chal)
      (fun d => wdtWrite_queue d k _ _ 0 chal) (by decide) (by decide) (by decide) (calm_zero hcalm) ht
    exact ⟨_, hexec, hpassed.queue chal⟩
  case holdCounts =>
    obtain ⟨e, hadv, hnow, hothers, _⟩ := calm_advance s.dev s.fuses k dt (calm_of_holding hhold hlt)
    refine ⟨_, exec_wdtHoldElapsed hlive, ?_⟩
    rw [if_pos (beq_iff_eq.2 (tripped_of_holding hhold)), hadv]
    exact ⟨hnow.trans (now_of_holding hhold), hothers⟩
  case holdEnds =>
    refine ⟨_, exec_wdtHoldElapsed hlive, ?_⟩
    rw [if_pos (beq_iff_eq.2 (tripped_of_holding hhold))]
    exact hold_facts s.dev s.fuses k dt hhold heq
  case holdIdle =>
    rw [exec_wdtHoldElapsed hlive]
    split
    case isTrue hst => rw [wdtAdvance_not_holding s.fuses dt (beq_iff_eq.1 hst) hhold]
    case isFalse => rfl
  case checkin =>
    obtain ⟨e, hpassed, hexec⟩ := wdt_write_after_ticks s src k 0x058 dt _ (·.wdtCheckin s.fuses k task)
      (fun d => wdtWrite_checkin d s.fuses k _ dt task) (by decide) (by decide) (by decide) hcalm ht
    exact ⟨_, hexec, hpassed.checkin s.fuses task⟩
  case answer =>
    obtain ⟨e, hpassed, hexec⟩ := wdt_write_after_ticks s src k 0x060 dt _ (·.wdtAnswer s.fuses k token)
      (fun d => wdtWrite_answer d s.fuses k _ dt token) (by decide) (by decide) (by decide) hcalm ht
    exact ⟨_, hexec, hpassed.answer s.fuses token⟩
  case ticks =>
    obtain ⟨e, hadv, hnow, _⟩ := calm_advance s.dev s.fuses k dt hcalm
    exact ⟨_, exec_wdtWindowLate hlive, by rw [hadv]; exact hnow⟩
  case late => exact ⟨_, exec_wdtWindowLate hlive, late_facts s.dev s.fuses k dt harmed hup hserved hclose hdt⟩

end Sys2Proof.Machine
end

section
/-! SUPPORT. The rushes and the dailies: the settled statement of chapter Telemetry and Synchronisation on their commands. -/

namespace Sys2Proof.Machine
open Sys2Proof

theorem Device.syncState_tlm (d : Device) (p c cause who : Nat) : (d.syncState p c cause who).tlm = d.tlm := keeps_tlm (by simp)

/-! ## A trigger of the rushes (R626, R627) -/

/-- From d to e the rushes wrote a marker, kept its place and began to count POST records down. -/
def MarkerWritten (d e : Device) : Prop :=
  e.tlm.rush.st = .triggered ∧ e.tlm.rush.mark = d.tlm.rush.next ∧ e.tlm.rush.next = (d.tlm.rush.next + 1) % 8192 ∧
    e.tlm.rush.left = bits (d.reg 0x0B1044) 12 0 ∧ e.tlm.sch = d.tlm.sch ∧ (e.head (pg rushPage)).cur = 2

theorem rushEvent_loopFault (d : Device) (n : Fin 16) :
    d.rushEvent (.loopFault n) = if bit (d.reg 0x0B1048) n.val = true then d.rushTrigger 2 n.val else d := by
  unfold Device.rushEvent Device.rushCauseOf
  dsimp only
  cases bit (d.reg 0x0B1048) n.val <;> rfl

theorem rushEvent_marks (d : Device) (cause : RushCause) (hen : d.rushEnabled cause = true) (hon : d.rushOn = true)
    (hst : d.tlm.rush.st = .recording) : MarkerWritten d (d.rushEvent cause) := by
  cases cause with
  | cut r => exact trigger_on d 1 r.val hen hon hst
  | loopFault n =>
    obtain ⟨hbit, hmask⟩ := Bool.and_eq_true_iff.1 hen
    rw [rushEvent_loopFault, if_pos hmask]
    exact trigger_on d 2 n.val hbit hon hst
  | incident c => exact trigger_on d 3 c.val hen hon hst
  | freeze src => exact trigger_on d 4 0 rfl hon hst

theorem rushEvent_ignored (d : Device) (cause : RushCause)
    (h : d.rushEnabled cause = false ∨ d.rushOn = false ∨ d.tlm.rush.st ≠ .recording) : d.rushEvent cause = d := by
  cases cause with
  | cut r => exact trigger_off d 1 r.val h
  | loopFault n =>
    rw [rushEvent_loopFault]
    split
    case isTrue hmask =>
      refine trigger_off d 2 n.val (h.imp_left fun hen => ?_)
      have hand : (bit (d.reg 0x0B1044) 17 && bit (d.reg 0x0B1048) n.val) = false := hen
      rwa [hmask, Bool.and_true] at hand
    case isFalse => rfl
  | incident c => exact trigger_off d 3 c.val h
  | freeze src => exact trigger_off d 4 0 (.inr (h.resolve_left Bool.noConfusion))

theorem exec_rushesTrigger {s : State} {cause : RushCause} (hevent : ∀ src, cause ≠ .freeze src) (hrun : s.dev.hupRuns = true) :
    exec (.rushesTrigger cause) s = .next { s with dev := s.dev.rushEvent cause } := by
  cases cause with
  | cut r => exact service_next s (·.rushEvent (.cut r)) hrun
  | loopFault n => exact service_next s (·.rushEvent (.loopFault n)) hrun
  | incident c => exact service_next s (·.rushEvent (.incident c)) hrun
  | freeze src => exact absurd rfl (hevent src)

theorem exec_rushesFreeze {s : State} {src : Source} (ht : s.dev.takes src (pageAddr rushPage 0x054) 0xFFFFFFFF 1 = true) :
    exec (.rushesTrigger (.freeze src)) s =
      .next { s with dev := (s.dev.arrive src (pageAddr rushPage 0x054)).rushEvent (.freeze src) } := by
  refine (State.bus_next s src _ 0xF 1 {}).trans ?_
  rw [rctl_write s src 1 ht]
  rfl

/-! ## The freeze and REARM (R627, R628) -/

theorem exec_rushesFrozen {s : State} (hlive : s.dev.live = true) : exec .rushesFrozen s = .next { s with dev := s.dev.rushFreeze } :=
  live_next s (·.rushFreeze) hlive

theorem exec_rushesRearm {s : State} {src : Source} (ht : s.dev.takes src (pageAddr rushPage 0x054) 0xFFFFFFFF 2 = true) :
    exec (.rushesRearm src) s =
      .next { s with dev := (s.dev.arrive src (pageAddr rushPage 0x054)).rushRearm (s.dev.requester src).code } := by
  refine (State.bus_next s src _ 0xF 2 {}).trans ?_
  rw [rctl_write s src 2 ht]
  rfl

section
variable (d : Device)

theorem rushFreeze_waits (h : ¬(d.tlm.rush.st = .triggered ∧ d.tlm.rush.left = 0)) : d.rushFreeze = d := by
  unfold Device.rushFreeze
  rw [if_neg (by simpa using h)]

/-- Frozen rushes change nothing else of the telemetry; event 122 carries the marker's place. -/
theorem rushFreeze_freezes (hst : d.tlm.rush.st = .triggered) (hleft : d.tlm.rush.left = 0) :
    let e := d.rushFreeze
    e.tlm = { d.tlm with rush := { d.tlm.rush with st := .frozen } } ∧ (e.head (pg rushPage)).cur = (if d.rushOn then 3 else 0) ∧
      (d.srcPrio 122 ≠ 0 → e.evc.src[(122 : Fin 256)].pend = true ∧ e.evc.src[(122 : Fin 256)].payload = field 12 0 d.tlm.rush.mark) := by
  unfold Device.rushFreeze
  rw [hst, hleft, if_pos (by decide)]
  dsimp only
  refine ⟨?_, ?_, fun hprio => ?_⟩
  · rw [Device.syncState_tlm, (raise_beside _ _ _).2.1]
    rfl
  · refine (sync_cur _ (pg rushPage) _ _ _).trans ?_
    show (if (!d.rushOn) = true then 0 else 3) = _
    cases d.rushOn <;> rfl
  · rw [Device.syncState_evc]
    exact raise_at (d.updTlm fun t => { t with rush := { t.rush with st := .frozen } }) 122 _ hprio

theorem rushRearm_frozen (who : Nat) (h : d.tlm.rush.st = .frozen) :
    (d.rushRearm who).tlm = { d.tlm with rush := { d.tlm.rush with st := .recording, wrapped := false, mark := 0, used := 0 } } := by
  unfold Device.rushRearm
  rw [h, if_pos (by decide)]
  dsimp only
  rw [Device.syncState_tlm]
  rfl

theorem rushRearm_ignored (who : Nat) (h : d.tlm.rush.st ≠ .frozen) : d.rushRearm who = d := by
  unfold Device.rushRearm
  rw [if_neg (by simpa using h)]

/-! ## The end of a daily period (R629, R631) -/

theorem dayEnd_early (meas : Vector DailyMeas 16) (batt : Nat) (h : d.dayDue = false) : d.dayEnd meas batt = d := by
  unfold Device.dayEnd
  rw [h, if_neg (by decide)]

/-- A period ends into an empty place: it is closed as it is. -/
theorem dayEnd_closes (meas : Vector DailyMeas 16) (batt : Nat) (hdue : d.dayDue = true) (hnone : d.tlm.closed = none) :
    (d.dayEnd meas batt).tlm = { d.tlm with
      dailyLoop := Vector.replicate 16 dailyLoop0, dailyDev := dailyDev0
      closed := some { ts := d.ts, periods := 1, meas := meas, loops := d.tlm.dailyLoop, dev := d.tlm.dailyDev, battSecs := batt } } := by
  unfold Device.dayEnd
  dsimp only
  rw [hdue, if_pos rfl, hnone]
  rfl

/-- The closed period o with the period that ends now merged into it (R631). -/
def Device.mergedPeriod (d : Device) (o : DailyClosed) (meas : Vector DailyMeas 16) (batt : Nat) : DailyClosed :=
  { ts := d.ts
    periods := satInc 255 o.periods
    meas := Vector.ofFn fun n => mergeMeas o.periods o.meas[n] meas[n]
    loops := Vector.ofFn fun n => mergeLoop o.loops[n] d.tlm.dailyLoop[n]
    dev := mergeDev o.dev d.tlm.dailyDev
    battSecs := min 0xFFFFFFFF (o.battSecs + batt) }

/-- A period ends before the core has written the one before it: the two merge, late. -/
theorem dayEnd_merges (meas : Vector DailyMeas 16) (batt : Nat) (o : DailyClosed) (hdue : d.dayDue = true) (hsome : d.tlm.closed = some o) :
    (d.dayEnd meas batt).tlm = { d.tlm with
      dailyLoop := Vector.replicate 16 dailyLoop0, dailyDev := dailyDev0
      closed := some (d.mergedPeriod o meas batt), dLate := satInc 255 d.tlm.dLate } ∧
    bit ((d.dayEnd meas batt).head (pg rushPage)).err 9 = true := by
  unfold Device.dayEnd
  dsimp only
  rw [hdue, if_pos rfl, hsome]
  exact ⟨rfl, setErr_bit _ rushPage 9 (by decide)⟩

theorem exec_dailyPeriodEnd {s : State} (meas : Vector DailyMeas 16) (batt : Nat) (hrun : s.dev.hupRuns = true) :
    exec (.dailyPeriodEnd meas batt) s = .next { s with dev := s.dev.dayEnd meas batt } :=
  service_next s (·.dayEnd meas batt) hrun

/-! ## The records of a period (R630) -/

theorem exec_dailyRecordWrite {s : State} (hlive : s.dev.live = true) : exec .dailyRecordWrite s = .next { s with dev := s.dev.dayWrite } :=
  live_next s (·.dayWrite) hlive

theorem dayWrite_waits (h : d.tlm.closed = none ∨ d.boot.coreUp = false) : d.dayWrite = d := by
  unfold Device.dayWrite
  split
  case h_1 => rfl
  case h_2 c hc =>
    have hcore : d.boot.coreUp = false := h.resolve_left (by simp [hc])
    rw [hcore, if_neg (by decide)]

/-- One record per selected loop, as day_fold counts them, and then the device's. -/
theorem dayWrite_numbers (c : DailyClosed) (hc : d.tlm.closed = some c) (hcore : d.boot.coreUp = true) :
    let e := d.dayWrite
    let k := ((List.finRange 16).filter fun n => bit (d.reg 0x0B1084) n.val).length + 1
    e.tlm.closed = none ∧ e.tlm.dSeq % 65536 = (d.tlm.dSeq + k) % 65536 ∧ e.tlm.dNext % 32 = (d.tlm.dNext + k) % 32 ∧
      e.tlm.dailyLoop = d.tlm.dailyLoop ∧ e.tlm.rush = d.tlm.rush := by
  obtain ⟨hseq, hnext, hloop, hrush⟩ := day_fold c (List.finRange 16) d
  unfold Device.dayWrite foldFin
  rw [hc]
  dsimp only
  rw [hcore, if_pos rfl]
  generalize (List.finRange 16).foldl _ d = y at hseq hnext hloop hrush ⊢
  obtain ⟨hseq', hnext', hloop', hrush', _⟩ := dayPut_tlm y (devDaily c y.tlm.dSeq)
  refine ⟨rfl, ?_, ?_, hloop'.trans hloop, hrush'.trans hrush⟩
  · show (y.dayPut (devDaily c y.tlm.dSeq)).tlm.dSeq % 65536 = _
    rw [hseq']
    omega
  · show (y.dayPut (devDaily c y.tlm.dSeq)).tlm.dNext % 32 = _
    rw [hnext']
    omega

end

/-- Settles O55: each command is its effect on the device, and a write of TLM_RCTL that of the device which the access finds. -/
theorem rushesAndDailyCommandsComplete : Obligations.RushesAndDailyCommandsComplete := by
  unfold Obligations.RushesAndDailyCommandsComplete
  refine ⟨fun s => ⟨fun hrun cause hevent => ?trigger, fun src ht => ?freeze, fun hlive => ?frozen, fun src ht => ?rearm⟩,
    fun s => ⟨fun hrun meas batt => ?periodEnd, fun hlive => ?records⟩⟩
  case trigger =>
    refine ⟨_, exec_rushesTrigger hevent hrun, fun hidle => ?_, fun ⟨hen, hon, hst⟩ => rushEvent_marks _ _ hen hon hst⟩
    have hignored : s.dev.rushEnabled cause = false ∨ s.dev.rushOn = false ∨ s.dev.tlm.rush.st ≠ .recording := by
      simpa only [not_and_or, Bool.not_eq_true] using hidle
    rw [rushEvent_ignored _ _ hignored]
  case freeze =>
    have hon' : (s.dev.arrive src (pageAddr rushPage 0x054)).rushOn = s.dev.rushOn := congrArg (bit · 31) (Device.arrive_reg ..)
    have htlm := Device.arrive_tlm s.dev src (pageAddr rushPage 0x054)
    refine ⟨_, exec_rushesFreeze ht, fun hon hst => ?_, fun hoff => ?_⟩
    · obtain ⟨hst', hmark, _⟩ := rushEvent_marks _ (.freeze src) rfl (hon'.trans hon) (by rw [htlm]; exact hst)
      exact ⟨hst', hmark.trans (by rw [htlm])⟩
    · dsimp only
      rw [rushEvent_ignored _ (.freeze src) (.inr (by rw [hon', htlm]; exact hoff)), htlm]
  case frozen =>
    refine ⟨_, exec_rushesFrozen hlive, fun hwait => ?_, fun ⟨hst, hleft⟩ => rushFreeze_freezes _ hst hleft⟩
    rw [rushFreeze_waits _ hwait]
  case rearm =>
    have htlm := Device.arrive_tlm s.dev src (pageAddr rushPage 0x054)
    refine ⟨_, exec_rushesRearm ht, fun hst => ?_, fun hst => ?_⟩
    · dsimp only
      rw [rushRearm_frozen _ _ (by rw [htlm]; exact hst), htlm]
    · dsimp only
      rw [rushRearm_ignored _ _ (by rw [htlm]; exact hst), htlm]
  case periodEnd =>
    refine ⟨_, exec_dailyPeriodEnd meas batt hrun, fun hearly => ?_, fun hdue => ?_⟩
    · rw [dayEnd_early _ _ _ hearly]
    · dsimp only
      cases hclosed : s.dev.tlm.closed with
      | none =>
        rw [dayEnd_closes _ _ _ hdue hclosed]
        exact ⟨rfl, rfl, fun _ => ⟨rfl, rfl⟩, fun o ho => nomatch ho⟩
      | some o =>
        obtain ⟨htlm, herr⟩ := dayEnd_merges s.dev meas batt o hdue hclosed
        rw [htlm]
        refine ⟨rfl, rfl, fun hnone => absurd hnone (Option.some_ne_none o), fun o' ho => ?_⟩
        obtain rfl := Option.some.inj ho
        exact ⟨⟨_, rfl, rfl, rfl, rfl, rfl, fun n => ⟨Vector.getElem_ofFn .., Vector.getElem_ofFn ..⟩⟩, rfl, herr⟩
  case records =>
    refine ⟨_, exec_dailyRecordWrite hlive, fun hwait => ?_, fun c hc hcore => dayWrite_numbers _ c hc hcore⟩
    rw [dayWrite_waits _ hwait]

end Sys2Proof.Machine
end

section
/-! SUPPORT. Claps, slates and the time code: the settled statement of chapter Telemetry and Synchronisation on their commands. -/

namespace Sys2Proof.Machine
open Sys2Proof

/-! ## The commands as effects on the device -/

section
variable {s : State}

theorem exec_clapEdge (fine : Fin 16) (hlive : s.dev.live = true) :
    exec (.clapEdge fine) s = .next { s with dev := s.dev.clapEdge fine.val } := live_next s (·.clapEdge fine.val) hlive

theorem exec_clapCommit (num : BitVec 16) (hlive : s.dev.live = true) :
    exec (.clapCommit num) s = .next { s with dev := s.dev.clapCommit num } := live_next s (·.clapCommit num) hlive

theorem exec_clapCodeError (hlive : s.dev.live = true) : exec .clapCodeError s = .next { s with dev := s.dev.clapError } :=
  live_next s (·.clapError) hlive

theorem exec_clapAuto (hlive : s.dev.live = true) : exec .clapAuto s = .next { s with dev := s.dev.clapAuto } :=
  live_next s (·.clapAuto) hlive

theorem exec_clapDrive {src : Source} (ht : s.dev.takes src (pageAddr synPage 0x04C) 0xFFFFFFFF 1 = true) :
    exec (.clapDrive src) s = .next { s with dev := (s.dev.arrive src (pageAddr synPage 0x04C)).clapDrive } := by
  refine (State.bus_next s src _ 0xF 1 {}).trans ?_
  rw [syn_write s src 1 ht]
  rfl

theorem exec_slateSnap {src : Source} (ht : s.dev.takes src (pageAddr synPage 0x04C) 0xFFFFFFFF 2 = true) :
    exec (.slateSnap src) s = .next { s with dev := (s.dev.arrive src (pageAddr synPage 0x04C)).snap } := by
  refine (State.bus_next s src _ 0xF 2 {}).trans ?_
  rw [syn_write s src 2 ht]
  rfl

theorem exec_timeFrame (t cap : BitVec 64) (hlive : s.dev.live = true) : exec (.timeFrame t cap) s =
    .next { s with dev := if bit s.dev.synCfg 29 then s.dev.timeFrame t cap else s.dev } :=
  live_next s (fun d => if bit d.synCfg 29 then d.timeFrame t cap else d) hlive

theorem exec_timeFrameError (hlive : s.dev.live = true) : exec .timeFrameError s =
    .next { s with dev := if bit s.dev.synCfg 29 then s.dev.setErr synPage (errBit 10) else s.dev } :=
  live_next s (fun d => if bit d.synCfg 29 then d.setErr synPage (errBit 10) else d) hlive

theorem exec_timeHoldover (hlive : s.dev.live = true) : exec .timeHoldover s = .next { s with dev := s.dev.timeHoldover } :=
  live_next s (·.timeHoldover) hlive

theorem exec_timeFrameSend (hlive : s.dev.live = true) : exec .timeFrameSend s = .next { s with dev := s.dev.timeSend } :=
  live_next s (·.timeSend) hlive

end

/-! ## The edge that starts a clap frame (R637, R642) -/

section
variable (d : Device)

theorem dayDev_dailyDev (f : DailyDev → DailyDev) :
    (d.dayDev f).tlm.dailyDev = if d.dayOn = true then f d.tlm.dailyDev else d.tlm.dailyDev := by
  unfold Device.dayDev
  split <;> rfl

theorem dayDev_syn (f : DailyDev → DailyDev) : (d.dayDev f).syn = d.syn := keeps_syn (by simp)

theorem dayDev_regs (f : DailyDev → DailyDev) : (d.dayDev f).regs = d.regs := keeps_regs (by simp)

theorem clapEdge_ignored (fine : Nat) (h : bit d.synCfg 31 = false ∨ d.syn.rxBusy = true) : d.clapEdge fine = d := by
  unfold Device.clapEdge
  rw [if_neg (by rcases h with h | h <;> simp [h])]

/-- An edge that starts a frame captures the slate, counts the clap for the dailies and strobes the counters. -/
theorem clapEdge_captures (fine : Nat) (hon : bit d.synCfg 31 = true) (hidle : d.syn.rxBusy = false) :
    let e := d.clapEdge fine
    e.syn = { d.syn with rxBusy := true, fine := fine, hidden := some d.slateNow } ∧
    e.tlm.dailyDev = (if d.dayOn then { d.tlm.dailyDev with claps := satInc 0xFFFF d.tlm.dailyDev.claps } else d.tlm.dailyDev) ∧
    (bit (d.reg 0x0C0040) 1 = true → bit (d.reg 0x0C0040) 2 = false → d.canonical = true → e.pmcRun = true) ∧
    (bit (d.reg 0x0C0040) 1 = false → bit (d.reg 0x0C0040) 2 = true → d.canonical = true → e.pmcRun = false) ∧
    (bit (d.reg 0x0C0040) 1 = false → bit (d.reg 0x0C0040) 2 = false → e.regs = d.regs) := by
  unfold Device.clapEdge
  rw [hon, hidle, if_pos (by decide)]
  dsimp only
  generalize hx : (d.updSyn fun x => { x with rxBusy := true, fine := fine, hidden := some d.slateNow }).dayDev
    (fun y => { y with claps := satInc 0xFFFF y.claps }) = x
  have hsyn : x.syn = { d.syn with rxBusy := true, fine := fine, hidden := some d.slateNow } := by
    rw [← hx]
    exact dayDev_syn ..
  have hday : x.tlm.dailyDev = if d.dayOn then { d.tlm.dailyDev with claps := satInc 0xFFFF d.tlm.dailyDev.claps } else d.tlm.dailyDev := by
    rw [← hx]
    exact dayDev_dailyDev ..
  have hregs : x.regs = d.regs := by
    rw [← hx]
    exact dayDev_regs ..
  have hcanon : x.canonical = d.canonical := by
    rw [← hx]
    exact Device.dayDev_canon ..
  have hctl : x.reg 0x0C0040 = d.reg 0x0C0040 := by
    unfold Device.reg
    rw [hregs]
  obtain ⟨hsyn', htlm', hstart, hstop, hnone⟩ := strobe_facts x
  rw [hctl, hcanon] at hstart hstop
  rw [hctl] at hnone
  exact ⟨hsyn'.trans hsyn, by rw [htlm', hday], hstart, hstop, fun h1 h2 => (hnone h1 h2).trans hregs⟩

/-! ## The end of a frame (R641 to R643) -/

theorem snapPending_idle (h : d.syn.snapWait = false) : d.snapPending = d := by
  unfold Device.snapPending
  rw [h, if_neg (by decide)]

theorem slateCommit_prio (b : Vector Word 328) (w0 : Word) (fine : Nat) (e : Fin 256) :
    (d.slateCommit b w0 fine).srcPrio e = d.srcPrio e := by
  unfold Device.slateCommit
  exact updSyn_prio ..

theorem clapCommit_ignored (num : BitVec 16) (h : d.syn.hidden = none ∨ d.syn.rxBusy = false) : d.clapCommit num = d := by
  unfold Device.clapCommit
  split
  case h_1 => rfl
  case h_2 b hb => rw [if_neg (by rw [h.resolve_left (by simp [hb])]; decide)]

/-- A valid frame shows the captured bank under its number, with GAP where the number is not the next one, and raises event 120. -/
theorem clapCommit_shows (num : BitVec 16) (b : Vector Word 328) (hb : d.syn.hidden = some b) (hbusy : d.syn.rxBusy = true)
    (hwait : d.syn.snapWait = false) :
    let e := d.clapCommit num
    e.syn.rxBusy = false ∧ e.syn.hidden = none ∧ e.syn.lastClap = num.toNat ∧ e.syn.slates = d.syn.slates + 1 ∧
    e.syn.slate[(0 : Fin 328)] = (flag 31 true ||| flag 29 (d.syn.slates != 0 && num.toNat != (d.syn.lastClap + 1) % 65536) ||| field 15 0 num.toNat) ∧
    e.syn.slate[(1 : Fin 328)] = (field 19 16 d.syn.fine ||| field 15 0 ((d.syn.slates + 1) % 65536)) ∧
    (∀ i : Fin 328, 2 ≤ i.val → e.syn.slate[i] = b[i]) ∧
    (d.srcPrio 120 ≠ 0 → e.evc.src[(120 : Fin 256)].pend = true ∧ e.evc.src[(120 : Fin 256)].payload = field 15 0 num.toNat) := by
  unfold Device.clapCommit
  rw [hb]
  dsimp only
  rw [if_pos hbusy]
  obtain ⟨hslates, hword0, hword1, hbank, hwait', _⟩ := slate_at d b
    (flag 31 true ||| flag 29 (d.syn.slates != 0 && num.toNat != (d.syn.lastClap + 1) % 65536) ||| field 15 0 num.toNat) d.syn.fine
  generalize hc : d.slateCommit b _ _ = c at hslates hword0 hword1 hbank hwait' ⊢
  have hprio : c.srcPrio 120 = d.srcPrio 120 := by
    rw [← hc, slateCommit_prio]
  generalize hv : c.updSyn (fun x => { x with rxBusy := false, hidden := none, lastClap := num.toNat }) = v
  obtain ⟨hsyn, hsrc, _⟩ := count_keeps (v.raise 120 (field 15 0 num.toNat)) 0x34 1
  have hsyn' : ((v.raise 120 (field 15 0 num.toNat)).pmcCountAll 0x34 1).syn =
      { c.syn with rxBusy := false, hidden := none, lastClap := num.toNat } := by
    rw [hsyn, (raise_beside _ _ _).1, ← hv]
    rfl
  rw [snapPending_idle _ (by rw [hsyn']; exact hwait'.trans hwait), hsyn', hsrc]
  refine ⟨rfl, rfl, rfl, hslates, hword0, hword1, hbank, fun h => raise_at v 120 _ ?_⟩
  rw [← hv, updSyn_prio, hprio]
  exact h

theorem clapError_off (h : bit d.synCfg 31 = false) : d.clapError = d := by
  unfold Device.clapError
  rw [h, if_neg (by decide)]

/-- A code error drops the frame and its bank, and counts. -/
theorem clapError_drops (hon : bit d.synCfg 31 = true) (hwait : d.syn.snapWait = false) :
    d.clapError.syn = { d.syn with rxBusy := false, hidden := none, codeErrs := satInc 255 d.syn.codeErrs } ∧
      bit (d.clapError.head (pg synPage)).err 9 = true := by
  unfold Device.clapError
  rw [if_pos hon]
  dsimp only
  generalize hx : d.updSyn (fun x => { x with rxBusy := false, hidden := none, codeErrs := satInc 255 x.codeErrs }) = x
  obtain ⟨hsyn, _, herr⟩ := count_keeps (x.setErr synPage (errBit 9)) 0x35 1
  have hsyn' : ((x.setErr synPage (errBit 9)).pmcCountAll 0x35 1).syn =
      { d.syn with rxBusy := false, hidden := none, codeErrs := satInc 255 d.syn.codeErrs } := by
    rw [hsyn, ← hx]
    rfl
  rw [snapPending_idle _ (by rw [hsyn']; exact hwait), herr]
  exact ⟨hsyn', setErr_bit x synPage 9 (by decide)⟩

/-! ## Driven frames (R644) -/

theorem clapAuto_early (h : d.clapDue = false) : d.clapAuto = d := by
  unfold Device.clapAuto
  rw [h, if_neg (by decide)]

theorem clapAuto_due (h : d.clapDue = true) : d.clapAuto = d.clapSend := by
  unfold Device.clapAuto
  rw [if_pos h]

theorem clapDrive_off (h : bit d.synCfg 30 = false) : d.clapDrive = d := by
  unfold Device.clapDrive
  rw [h, if_neg (by decide)]

theorem clapDrive_busy (hon : bit d.synCfg 30 = true) (hbusy : d.txBusy = true) : d.clapDrive = d.setErr synPage (errBit 8) := by
  unfold Device.clapDrive
  rw [if_pos hon, if_pos hbusy]

theorem clapDrive_sends (hon : bit d.synCfg 30 = true) (hfree : d.txBusy = false) : d.clapDrive = d.clapSend := by
  unfold Device.clapDrive
  rw [if_pos hon, hfree, if_neg (by decide)]

/-! ## Local slates (R648) -/

theorem snap_waits (h : d.syn.rxBusy = true) : d.snap.syn = { d.syn with snapWait := true } := by
  unfold Device.snap
  rw [if_pos h]
  rfl

theorem snap_local (h : d.syn.rxBusy = false) : d.snap = d.slateLocal := by
  unfold Device.snap
  rw [h, if_neg (by decide)]

theorem slateNow_at (i : Fin 328) : d.slateNow[i] = d.slateWord i.val := by
  unfold Device.slateNow
  exact Vector.getElem_ofFn ..

theorem slateWord_two : d.slateWord 2 = BitVec.ofNat 32 d.ts := rfl

/-- The low half of word 1 of a slate is its number, whatever its FINE. -/
theorem slate_number (fine n : Nat) : bits (field 19 16 fine ||| field 15 0 (n % 65536)) 15 0 = n % 65536 := by
  have hfine : bits (field 19 16 fine) 15 0 = 0 := by
    rw [bits_field 19 16 fine 15 0 (by decide), bits_setBits_other _ _ _ _ _ _ (.inl (by decide))]
    decide
  rw [bits_or, hfine, half_nat, Nat.zero_or, Nat.mod_mod]

theorem draw_prio (e : Fin 256) : d.draw.2.srcPrio e = d.srcPrio e := rfl

/-- A local slate is number 0xC0000000 with the timestamp of now, keeps the bank of a frame in progress, and raises event 120. -/
theorem slateLocal_shows :
    let e := d.slateLocal
    e.syn.slates = d.syn.slates + 1 ∧ e.syn.slate[(0 : Fin 328)] = 0xC0000000 ∧
    bits e.syn.slate[(1 : Fin 328)] 15 0 = (d.syn.slates + 1) % 65536 ∧ e.syn.slate[(2 : Fin 328)] = BitVec.ofNat 32 d.ts ∧
    e.syn.hidden = d.syn.hidden ∧
    (d.srcPrio 120 ≠ 0 → e.evc.src[(120 : Fin 256)].pend = true ∧ e.evc.src[(120 : Fin 256)].payload = 0x10000) := by
  unfold Device.slateLocal
  dsimp only
  obtain ⟨hslates, hword0, hword1, hbank, _, hhidden⟩ := slate_at d.draw.2 d.slateNow 0xC0000000 (bits d.draw.1 3 0)
  rw [(raise_beside _ _ _).1]
  refine ⟨hslates, hword0, ?_, (hbank 2 (by decide)).trans ((slateNow_at d 2).trans (slateWord_two d)), hhidden, fun h => raise_at _ 120 _ ?_⟩
  · rw [hword1]
    exact slate_number ..
  · rw [slateCommit_prio, draw_prio]
    exact h

/-! ## A valid time frame (R651 to R653) -/

/-- The device once the error e of a valid frame is noted. -/
def Device.noteFrame (d : Device) (e : Int) : Device :=
  d.updSyn fun x => { x with terr := clampI (-2147483648) 2147483647 e, frameAt := d.cycle }

/-- The error e lies within STEP_THR. -/
def Device.nearError (d : Device) (e : Int) : Bool := decide (e.natAbs ≤ bits (d.reg 0x0C4050) 31 16)

/-- From d to u the error e of a frame was noted, and the timestamp slews by it (R653). -/
structure TimeSlews (d u : Device) (e : Int) : Prop where
  terr : u.syn.terr = clampI (-2147483648) 2147483647 e
  slew : u.syn.slew = e
  hold : u.syn.hold = 0
  ts : u.ts = d.ts

/-- From d to u the error e of a frame was noted, and the timestamp stepped by it (R652). -/
structure TimeSteps (d u : Device) (e : Int) : Prop where
  terr : u.syn.terr = clampI (-2147483648) 2147483647 e
  slew : u.syn.slew = 0
  hold : u.syn.hold = (-e).toNat
  ts : u.ts = if 0 < e then (d.ts + e.toNat) % 18446744073709551616 else d.ts
  day : u.tlm.dailyDev = if d.dayOn then { d.tlm.dailyDev with steps := satInc 255 d.tlm.dailyDev.steps } else d.tlm.dailyDev

section
variable {t cap : BitVec 64}

theorem timeFrame_free (hst : d.syn.st = .free) : d.timeFrame t cap = d.noteFrame (timeDiff t cap) := by
  unfold Device.timeFrame
  simp only [updSyn_at, hst]
  rfl

theorem timeFrame_acquire_near (hst : d.syn.st = .acquire) (hnear : d.nearError (timeDiff t cap) = true) :
    d.timeFrame t cap =
      let y := ((d.noteFrame (timeDiff t cap)).timeSlew (timeDiff t cap)).updSyn fun x => { x with good := x.good + 1 }
      if 3 ≤ d.syn.good + 1 then y.discTo .locked 0x12 else y := by
  unfold Device.timeFrame
  simp only [updSyn_at, hst]
  exact if_pos hnear

theorem timeFrame_acquire_far (hst : d.syn.st = .acquire) (hfar : d.nearError (timeDiff t cap) = false) :
    d.timeFrame t cap = ((d.noteFrame (timeDiff t cap)).timeStep (timeDiff t cap)).updSyn fun x => { x with good := 0 } := by
  unfold Device.timeFrame
  simp only [updSyn_at, hst]
  exact if_neg (ne_true_of_eq_false hfar)

theorem timeFrame_locked_near (hst : d.syn.st = .locked) (hnear : d.nearError (timeDiff t cap) = true) :
    d.timeFrame t cap = (d.noteFrame (timeDiff t cap)).timeSlew (timeDiff t cap) := by
  unfold Device.timeFrame
  simp only [updSyn_at, hst]
  exact if_pos hnear

theorem timeFrame_locked_far (hst : d.syn.st = .locked) (hfar : d.nearError (timeDiff t cap) = false) :
    d.timeFrame t cap = (((d.noteFrame (timeDiff t cap)).timeStep (timeDiff t cap)).updSyn fun x =>
      { x with tsteps := satInc 255 x.tsteps }).setErr synPage (errBit 11) := by
  unfold Device.timeFrame
  simp only [updSyn_at, hst]
  exact if_neg (ne_true_of_eq_false hfar)

theorem timeFrame_holdover_near (hst : d.syn.st = .holdover) (hnear : d.nearError (timeDiff t cap) = true) :
    d.timeFrame t cap = ((d.noteFrame (timeDiff t cap)).discTo .locked 0x12).timeSlew (timeDiff t cap) := by
  unfold Device.timeFrame
  simp only [updSyn_at, hst]
  exact if_pos hnear

theorem timeFrame_holdover_far (hst : d.syn.st = .holdover) (hfar : d.nearError (timeDiff t cap) = false) :
    d.timeFrame t cap = ((d.noteFrame (timeDiff t cap)).discTo .acquire 0x11).timeStep (timeDiff t cap) := by
  unfold Device.timeFrame
  simp only [updSyn_at, hst]
  exact if_neg (ne_true_of_eq_false hfar)

theorem noteFrame_slew (e : Int) : TimeSlews d ((d.noteFrame e).timeSlew e) e := ⟨rfl, rfl, rfl, rfl⟩

/-- Outside FREE a frame within STEP_THR slews. -/
theorem timeFrame_slews (hst : d.syn.st ≠ .free) (hnear : d.nearError (timeDiff t cap) = true) :
    TimeSlews d (d.timeFrame t cap) (timeDiff t cap) := by
  obtain ⟨hterr, hslew, hhold, hts⟩ := noteFrame_slew d (timeDiff t cap)
  cases hst' : d.syn.st with
  | free => exact absurd hst' hst
  | acquire =>
    rw [timeFrame_acquire_near d hst' hnear]
    dsimp only
    split
    case isTrue =>
      obtain ⟨hsyn, hts', _⟩ := disc_facts
        (((d.noteFrame (timeDiff t cap)).timeSlew (timeDiff t cap)).updSyn fun x => { x with good := x.good + 1 }) .locked 0x12 byHw
      exact ⟨by rw [hsyn]; exact hterr, by rw [hsyn]; exact hslew, by rw [hsyn]; exact hhold, hts'.trans hts⟩
    case isFalse => exact ⟨hterr, hslew, hhold, hts⟩
  | locked =>
    rw [timeFrame_locked_near d hst' hnear]
    exact ⟨hterr, hslew, hhold, hts⟩
  | holdover =>
    rw [timeFrame_holdover_near d hst' hnear]
    exact ⟨rfl, rfl, rfl, rfl⟩

theorem noteFrame_step (e : Int) : TimeSteps d ((d.noteFrame e).timeStep e) e := by
  obtain ⟨hsyn, hts, hday⟩ := step_facts (d.noteFrame e) e
  exact ⟨by rw [hsyn]; rfl, by rw [hsyn], by rw [hsyn], hts, hday⟩

/-- Outside FREE a frame beyond STEP_THR steps. -/
theorem timeFrame_steps (hst : d.syn.st ≠ .free) (hfar : d.nearError (timeDiff t cap) = false) :
    TimeSteps d (d.timeFrame t cap) (timeDiff t cap) := by
  obtain ⟨hterr, hslew, hhold, hts, hday⟩ := noteFrame_step d (timeDiff t cap)
  cases hst' : d.syn.st with
  | free => exact absurd hst' hst
  | acquire =>
    rw [timeFrame_acquire_far d hst' hfar]
    exact ⟨hterr, hslew, hhold, hts, hday⟩
  | locked =>
    rw [timeFrame_locked_far d hst' hfar]
    exact ⟨hterr, hslew, hhold, hts, hday⟩
  | holdover =>
    obtain ⟨hsyn, hts', hday'⟩ := step_facts ((d.noteFrame (timeDiff t cap)).discTo .acquire 0x11) (timeDiff t cap)
    rw [timeFrame_holdover_far d hst' hfar]
    exact ⟨by rw [hsyn]; rfl, by rw [hsyn], by rw [hsyn], hts', hday'⟩

theorem timeFrame_terr : (d.timeFrame t cap).syn.terr = clampI (-2147483648) 2147483647 (timeDiff t cap) := by
  by_cases hst : d.syn.st = .free
  · rw [timeFrame_free d hst]
    rfl
  · cases hnear : d.nearError (timeDiff t cap) with
    | true => exact (timeFrame_slews d hst hnear).terr
    | false => exact (timeFrame_steps d hst hnear).terr

/-! ## The states of the discipline (R651) -/

theorem timeFrame_acquire_counts (hst : d.syn.st = .acquire) (hnear : d.nearError (timeDiff t cap) = true) (hgood : d.syn.good < 2) :
    (d.timeFrame t cap).syn.st = .acquire ∧ (d.timeFrame t cap).syn.good = d.syn.good + 1 := by
  rw [timeFrame_acquire_near d hst hnear]
  dsimp only
  rw [if_neg (by omega)]
  exact ⟨hst, rfl⟩

theorem timeFrame_acquire_locks (hst : d.syn.st = .acquire) (hnear : d.nearError (timeDiff t cap) = true) (hgood : 2 ≤ d.syn.good) :
    (d.timeFrame t cap).syn.st = .locked ∧ ((d.timeFrame t cap).head (pg synPage)).cur = 2 := by
  rw [timeFrame_acquire_near d hst hnear]
  dsimp only
  rw [if_pos (by omega)]
  obtain ⟨hsyn, _, _, _, hcur⟩ := disc_facts
    (((d.noteFrame (timeDiff t cap)).timeSlew (timeDiff t cap)).updSyn fun x => { x with good := x.good + 1 }) .locked 0x12 byHw
  exact ⟨by rw [hsyn], hcur⟩

theorem timeFrame_acquire_restarts (hst : d.syn.st = .acquire) (hfar : d.nearError (timeDiff t cap) = false) :
    (d.timeFrame t cap).syn.st = .acquire ∧ (d.timeFrame t cap).syn.good = 0 := by
  rw [timeFrame_acquire_far d hst hfar, updSyn_at, (step_facts _ _).1]
  exact ⟨hst, rfl⟩

theorem timeFrame_locked_stays (hst : d.syn.st = .locked) : (d.timeFrame t cap).syn.st = .locked ∧
    (d.nearError (timeDiff t cap) = false → (d.timeFrame t cap).syn.tsteps = satInc 255 d.syn.tsteps ∧
      bit ((d.timeFrame t cap).head (pg synPage)).err 11 = true) := by
  cases hnear : d.nearError (timeDiff t cap) with
  | true =>
    rw [timeFrame_locked_near d hst hnear]
    exact ⟨hst, fun hfar => nomatch hfar⟩
  | false =>
    rw [timeFrame_locked_far d hst hnear]
    have hsyn := (step_facts (d.noteFrame (timeDiff t cap)) (timeDiff t cap)).1
    generalize (d.noteFrame (timeDiff t cap)).timeStep (timeDiff t cap) = y at hsyn ⊢
    have hst' : y.syn.st = .locked := by rw [hsyn]; exact hst
    have htsteps : y.syn.tsteps = d.syn.tsteps := by rw [hsyn]; rfl
    exact ⟨hst', fun _ => ⟨congrArg (satInc 255) htsteps, setErr_bit _ synPage 11 (by decide)⟩⟩

theorem timeFrame_holdover_moves (hst : d.syn.st = .holdover) :
    (d.timeFrame t cap).syn.st = if d.nearError (timeDiff t cap) then .locked else .acquire := by
  cases hnear : d.nearError (timeDiff t cap) with
  | true =>
    rw [timeFrame_holdover_near d hst hnear]
    rfl
  | false =>
    rw [timeFrame_holdover_far d hst hnear, (step_facts _ _).1]
    rfl

end

/-! ## A missing frame, and frames sent (R651, R654) -/

theorem timeHoldover_idle (h : d.framesMissing = false) : d.timeHoldover = d := by
  unfold Device.timeHoldover
  rw [h, if_neg (by decide)]

theorem timeHoldover_moves (h : d.framesMissing = true) : d.timeHoldover = d.discTo .holdover 0x13 := by
  unfold Device.timeHoldover
  rw [if_pos h]

theorem timeSend_idle (h : (bit d.synCfg 28 && d.tsReached d.timePeriod) = false) : d.timeSend = d := by
  unfold Device.timeSend
  rw [h, if_neg (by decide)]

theorem timeSend_due (h : (bit d.synCfg 28 && d.tsReached d.timePeriod) = true) : d.timeSend = d.send (.timeFrame d.ts) := by
  unfold Device.timeSend
  rw [if_pos h]

theorem mem_send (o : Outgoing) : o ∈ (d.send o).out := List.mem_cons_self

end

/-! ## The writes of SYN_CTL, from the device that the access leaves -/

section
variable (d : Device) (src : Source) (a : Nat)

theorem arrive_synCfg : (d.arrive src a).synCfg = d.synCfg := Device.arrive_reg ..

theorem arrive_txBusy : (d.arrive src a).txBusy = d.txBusy := by
  unfold Device.txBusy
  rw [Device.arrive_syn, Device.arrive_cycle]

theorem arrive_srcPrio (e : Fin 256) : (d.arrive src a).srcPrio e = d.srcPrio e := by
  unfold Device.srcPrio Device.srcWord
  rw [Device.arrive_reg]

theorem arrive_clapDrive (hcanon : d.canonical = true) :
    let e := (d.arrive src a).clapDrive
    (bit d.synCfg 30 = false → e.syn = d.syn ∧ e.regs = d.regs) ∧
    (bit d.synCfg 30 = true → d.txBusy = true → e.syn = d.syn ∧ e.regs = d.regs ∧ bit (e.head (pg synPage)).err 8 = true) ∧
    (bit d.synCfg 30 = true → d.txBusy = false → .clapFrame (bits (d.reg 0x0C4048) 15 0) ∈ e.out ∧
      e.reg 0x0C4048 = BitVec.ofNat 32 ((bits (d.reg 0x0C4048) 15 0 + 1) % 65536) ∧ e.syn = { d.syn with txAt := some d.cycle }) := by
  have hsyn : (d.arrive src a).syn = d.syn := Device.arrive_syn ..
  have hregs : (d.arrive src a).regs = d.regs := Device.arrive_regs ..
  refine ⟨fun hoff => ?_, fun hon hbusy => ?_, fun hon hfree => ?_⟩
  · rw [clapDrive_off _ (by rw [arrive_synCfg]; exact hoff)]
    exact ⟨hsyn, hregs⟩
  · rw [clapDrive_busy _ (by rw [arrive_synCfg]; exact hon) (by rw [arrive_txBusy]; exact hbusy)]
    exact ⟨hsyn, hregs, setErr_bit _ synPage 8 (by decide)⟩
  · rw [clapDrive_sends _ (by rw [arrive_synCfg]; exact hon) (by rw [arrive_txBusy]; exact hfree)]
    obtain ⟨hout, hnum, hsyn'⟩ := send_facts (d.arrive src a) (arrive_canon d src a hcanon)
    rw [Device.arrive_reg] at hout hnum
    rw [hsyn, Device.arrive_cycle] at hsyn'
    exact ⟨hout, hnum, hsyn'⟩

theorem arrive_snap :
    let e := (d.arrive src a).snap
    (d.syn.rxBusy = true → e.syn = { d.syn with snapWait := true }) ∧
    (d.syn.rxBusy = false → e.syn.slates = d.syn.slates + 1 ∧ e.syn.slate[(0 : Fin 328)] = 0xC0000000 ∧
      bits e.syn.slate[(1 : Fin 328)] 15 0 = (d.syn.slates + 1) % 65536 ∧ e.syn.slate[(2 : Fin 328)] = BitVec.ofNat 32 d.ts ∧
      e.syn.hidden = d.syn.hidden ∧
      (d.srcPrio 120 ≠ 0 → e.evc.src[(120 : Fin 256)].pend = true ∧ e.evc.src[(120 : Fin 256)].payload = 0x10000)) := by
  have hsyn : (d.arrive src a).syn = d.syn := Device.arrive_syn ..
  refine ⟨fun hbusy => ?_, fun hidle => ?_⟩
  · rw [snap_waits _ (by rw [hsyn]; exact hbusy), hsyn]
  · have hshows := slateLocal_shows (d.arrive src a)
    rw [snap_local _ (by rw [hsyn]; exact hidle)]
    rw [hsyn, Device.arrive_ts, arrive_srcPrio] at hshows
    exact hshows

end

/-- Settles O57: an event is its effect on the device, and a write of SYN_CTL that of the device which the access finds; a valid time frame by the
state of the discipline and by whether its error lies within STEP_THR. -/
theorem clapAndTimeCommandsComplete : Obligations.ClapAndTimeCommandsComplete := by
  unfold Obligations.ClapAndTimeCommandsComplete
  refine ⟨fun s => ⟨fun hlive => ⟨fun fine => ⟨fun hidle => ?edgeIgnored, fun hon hidle => ?edge⟩,
      fun num => ⟨fun hidle => ?commitIgnored, fun b hb hbusy hwait => ?commit⟩, fun hoff => ?errorOff, fun hon hwait => ?error,
      fun hearly => ?autoEarly, fun hdue hcanon => ?auto⟩,
      fun src ht hcanon => ⟨_, exec_clapDrive ht, arrive_clapDrive s.dev src _ hcanon⟩, fun src ht => ⟨_, exec_slateSnap ht, arrive_snap s.dev src _⟩⟩,
    fun s hlive => ⟨fun t cap => ⟨fun hoff => ?frameOff, fun hon => ?frame⟩, fun hoff => ?frameErrorOff, fun hon => ?frameError,
      fun hkept => ?holdoverIdle, fun hmissing => ?holdover, fun hearly => ?sendIdle, fun hdue => ?send⟩⟩
  case edgeIgnored => rw [exec_clapEdge fine hlive, clapEdge_ignored _ _ hidle]
  case edge => exact ⟨_, exec_clapEdge fine hlive, clapEdge_captures _ _ hon hidle⟩
  case commitIgnored => rw [exec_clapCommit num hlive, clapCommit_ignored _ _ hidle]
  case commit => exact ⟨_, exec_clapCommit num hlive, clapCommit_shows _ num b hb hbusy hwait⟩
  case errorOff => rw [exec_clapCodeError hlive, clapError_off _ hoff]
  case error => exact ⟨_, exec_clapCodeError hlive, clapError_drops _ hon hwait⟩
  case autoEarly => rw [exec_clapAuto hlive, clapAuto_early _ hearly]
  case auto =>
    refine ⟨_, exec_clapAuto hlive, ?_⟩
    rw [clapAuto_due _ hdue]
    exact send_facts _ hcanon
  case frameOff => rw [exec_timeFrame t cap hlive, hoff, if_neg (by decide)]
  case frame =>
    refine ⟨_, exec_timeFrame t cap hlive, ?_⟩
    dsimp only
    rw [hon, if_pos rfl]
    refine ⟨timeFrame_terr _, fun hst => ?_, fun hst hnear => ?_, fun hst hfar => ?_, timeFrame_acquire_counts _, timeFrame_acquire_locks _,
      timeFrame_acquire_restarts _, timeFrame_locked_stays _, timeFrame_holdover_moves _⟩
    · rw [timeFrame_free _ hst]
      exact ⟨rfl, rfl⟩
    · obtain ⟨_, hslew, hhold, hts⟩ := timeFrame_slews s.dev hst hnear
      exact ⟨hslew, hhold, hts⟩
    · obtain ⟨_, hslew, hhold, hts, hday⟩ := timeFrame_steps s.dev hst hfar
      exact ⟨hslew, hhold, hts, hday⟩
  case frameErrorOff => rw [exec_timeFrameError hlive, hoff, if_neg (by decide)]
  case frameError =>
    refine ⟨_, exec_timeFrameError hlive, ?_⟩
    rw [hon, if_pos rfl]
    exact ⟨rfl, rfl, setErr_bit _ synPage 10 (by decide)⟩
  case holdoverIdle => rw [exec_timeHoldover hlive, timeHoldover_idle _ hkept]
  case holdover =>
    obtain ⟨hsyn, _, _, _, hcur⟩ := disc_facts s.dev .holdover 0x13 byHw
    refine ⟨_, exec_timeHoldover hlive, ?_⟩
    rw [timeHoldover_moves _ hmissing]
    exact ⟨hsyn, hcur⟩
  case sendIdle => rw [exec_timeFrameSend hlive, timeSend_idle _ hearly]
  case send =>
    refine ⟨_, exec_timeFrameSend hlive, ?_⟩
    rw [timeSend_due _ hdue]
    exact ⟨mem_send _ _, rfl⟩

end Sys2Proof.Machine
end

section
/-! SUPPORT. What every command and every step keep: the frame of each command, the array and the canonical forms. -/

namespace Sys2Proof.Machine
open Sys2Proof

/-! ## The frame of every command -/

/-- A mask of kinds of state that a list covers. -/
theorem changesOnly_of_touches {m : Nat} {l : List Field} {d e : Device} (h : Touches m d e)
    (hl : (allFields.all fun f => !m.testBit f.idx || decide (f ∈ l)) = true) : ChangesOnly l d e := by
  refine changes_of h fun f hf => ?_
  have hcover := List.all_eq_true.1 hl f (by cases f <;> decide)
  rw [hf, Bool.not_true, Bool.false_or] at hcover
  exact of_decide_eq_true hcover

/-- The command completes, and changes only what its frame names. -/
def Framed (c : Instr) (s : State) : Prop := ∃ u, exec c s = .next u ∧ ChangesOnly (frameOf c) s.dev u.dev

theorem framed {c : Instr} {s : State} {m : Nat} (h : ∃ u, exec c s = .next u ∧ Touches m s.dev u.dev)
    (hl : (allFields.all fun f => !m.testBit f.idx || decide (f ∈ frameOf c)) = true) : Framed c s := by
  obtain ⟨u, hu, ht⟩ := h
  exact ⟨u, hu, changesOnly_of_touches ht hl⟩

/-- Every command keeps within its frame: its mask of kinds of state is covered by the list that frameOf gives. -/
theorem exec_framed (c : Instr) (s : State) : Framed c s := by
  cases c with
  | domainPorAssert dom => exact framed (execDomainPorAssert_frame dom s) rfl
  | domainPorRelease dom => exact framed (execDomainPorRelease_frame dom s) rfl
  | deviceResetEntry => exact framed (execDeviceResetEntry_frame s) rfl
  | deviceResetRelease s0 s1 s2 => exact framed (execDeviceResetRelease_frame s0 s1 s2 s) rfl
  | pllLock => exact framed (execPllLock_frame s) rfl
  | pllLockTimeout => exact framed (execPllLockTimeout_frame s) rfl
  | clockFailure => exact framed (execClockFailure_frame s) rfl
  | trimLoad => exact framed (execTrimLoad_frame s) rfl
  | otpBootScanComplete => exact framed (execOtpBootScanComplete_frame s) rfl
  | generationSelect => exact framed (execGenerationSelect_frame s) rfl
  | callSheetLoad => exact framed (execCallSheetLoad_frame s) rfl
  | patchInstall => exact framed (execPatchInstall_frame s) rfl
  | jtagCoreRelease => exact framed (execJtagCoreRelease_frame s) rfl
  | firstThermalScanComplete => exact framed (execFirstThermalScanComplete_frame s) rfl
  | autoStart => exact framed (execAutoStart_frame s) rfl
  | coreInitComplete challenges => exact framed (execCoreInitComplete_frame challenges s) rfl
  | glbDevrstWrite src data => exact framed (execGlbDevrstWrite_frame src data s) rfl
  | deviceResetDeferred => exact framed (execDeviceResetDeferred_frame s) rfl
  | jtagDeviceReset => exact framed (execJtagDeviceReset_frame s) rfl
  | tapReset => exact framed (execTapReset_frame s) rfl
  | rstcauseClear src be data => exact framed (execRstcauseClear_frame src be data s) rfl
  | registerWrite src addr be data => exact framed (execRegisterWrite_frame src addr be data s) rfl
  | hcxOpen src data => exact framed (execHcxOpen_frame src data s) rfl
  | hcxClose src data => exact framed (execHcxClose_frame src data s) rfl
  | hcxEvict src data => exact framed (execHcxEvict_frame src data s) rfl
  | hcxLeaseWrite src n be data => exact framed (execHcxLeaseWrite_frame src n be data s) rfl
  | leaseExpiry n => exact framed (execLeaseExpiry_frame n s) rfl
  | contextQuarantine n => exact framed (execContextQuarantine_frame n s) rfl
  | contextFree n => exact framed (execContextFree_frame n s) rfl
  | claimRequest src page data => exact framed (execClaimRequest_frame src page data s) rfl
  | claimRelease src page data => exact framed (execClaimRelease_frame src page data s) rfl
  | ownerPolicyWrite src page be data => exact framed (execOwnerPolicyWrite_frame src page be data s) rfl
  | claimArbitration => exact framed (execClaimArbitration_frame s) rfl
  | pageLockWrite src page lock => exact framed (execPageLockWrite_frame src page lock s) rfl
  | pageFreezeWrite src page freeze => exact framed (execPageFreezeWrite_frame src page freeze s) rfl
  | blockSoftReset src page => exact framed (execBlockSoftReset_frame src page s) rfl
  | pcieMemRequest bar write offset dws => exact framed (execPcieMemRequest_frame bar write offset dws s) rfl
  | pcieConfigRequest reg write => exact framed (execPcieConfigRequest_frame reg write s) rfl
  | pcieFundamentalReset low => exact framed (execPcieFundamentalReset_frame low s) rfl
  | pcieHotReset => exact framed (execPcieHotReset_frame s) rfl
  | pcieLinkUp => exact framed (execPcieLinkUp_frame s) rfl
  | pcieD3hotEnter => exact framed (execPcieD3hotEnter_frame s) rfl
  | msixEnable en funcMask => exact framed (execMsixEnable_frame en funcMask s) rfl
  | msixUnmask v => exact framed (execMsixUnmask_frame v s) rfl
  | writeFrame p frame => exact framed (execWriteFrame_frame p frame s) rfl
  | readFrame p frame => exact framed (execReadFrame_frame p frame s) rfl
  | readResponseReady p => exact framed (execReadResponseReady_frame p s) rfl
  | i3cPrivateRead x => exact framed (execI3cPrivateRead_frame x s) rfl
  | spiFrameAbort frame => exact framed (execSpiFrameAbort_frame frame s) rfl
  | spiPortReset => exact framed (execSpiPortReset_frame s) rfl
  | i3cTargetReset p => exact framed (execI3cTargetReset_frame p s) rfl
  | smbusTimeoutReset p => exact framed (execSmbusTimeoutReset_frame p s) rfl
  | entdaa p addr => exact framed (execEntdaa_frame p addr s) rfl
  | setdasa p static addr => exact framed (execSetdasa_frame p static addr s) rfl
  | setnewda p addr => exact framed (execSetnewda_frame p addr s) rfl
  | rstdaa p => exact framed (execRstdaa_frame p s) rfl
  | broadcastCccModeSwitch p => exact framed (execBroadcastCccModeSwitch_frame p s) rfl
  | enec p intr hotJoin => exact framed (execEnec_frame p intr hotJoin s) rfl
  | disec p intr hotJoin => exact framed (execDisec_frame p intr hotJoin s) rfl
  | setmwl p len => exact framed (execSetmwl_frame p len s) rfl
  | setmrl p len => exact framed (execSetmrl_frame p len s) rfl
  | getmwl p => exact framed (execGetmwl_frame p s) rfl
  | getmrl p => exact framed (execGetmrl_frame p s) rfl
  | getpid p => exact framed (execGetpid_frame p s) rfl
  | getbcr p => exact framed (execGetbcr_frame p s) rfl
  | getdcr p => exact framed (execGetdcr_frame p s) rfl
  | getstatus p => exact framed (execGetstatus_frame p s) rfl
  | getmxds p => exact framed (execGetmxds_frame p s) rfl
  | rstact p action => exact framed (execRstact_frame p action s) rfl
  | enthdr0 p => exact framed (execEnthdr0_frame p s) rfl
  | ibiRequest x => exact framed (execIbiRequest_frame x s) rfl
  | hotJoin p => exact framed (execHotJoin_frame p s) rfl
  | frameWrite x frame => exact framed (execFrameWrite_frame x frame s) rfl
  | frameRead x => exact framed (execFrameRead_frame x s) rfl
  | pmbusUnsupported x y => exact framed (execPmbusUnsupported_frame x y s) rfl
  | pmbusPage x write => exact framed (execPmbusPage_frame x write s) rfl
  | operationImmediateOff x => exact framed (execOperationImmediateOff_frame x s) rfl
  | operationSoftOff x => exact framed (execOperationSoftOff_frame x s) rfl
  | operationOn x => exact framed (execOperationOn_frame x s) rfl
  | operationMarginLow x => exact framed (execOperationMarginLow_frame x s) rfl
  | operationMarginHigh x => exact framed (execOperationMarginHigh_frame x s) rfl
  | clearFaults x => exact framed (execClearFaults_frame x s) rfl
  | voutMode x => exact framed (execVoutMode_frame x s) rfl
  | voutCommand x write => exact framed (execVoutCommand_frame x write s) rfl
  | voutMax x => exact framed (execVoutMax_frame x s) rfl
  | voutMarginHigh x write => exact framed (execVoutMarginHigh_frame x write s) rfl
  | voutMarginLow x write => exact framed (execVoutMarginLow_frame x write s) rfl
  | voutTransitionRate x write => exact framed (execVoutTransitionRate_frame x write s) rfl
  | voutDroop x write => exact framed (execVoutDroop_frame x write s) rfl
  | frequencySwitch x write => exact framed (execFrequencySwitch_frame x write s) rfl
  | voutOvFaultLimit x write => exact framed (execVoutOvFaultLimit_frame x write s) rfl
  | voutUvFaultLimit x write => exact framed (execVoutUvFaultLimit_frame x write s) rfl
  | ioutOcFaultLimit x write => exact framed (execIoutOcFaultLimit_frame x write s) rfl
  | otFaultLimit x write => exact framed (execOtFaultLimit_frame x write s) rfl
  | statusByte x => exact framed (execStatusByte_frame x s) rfl
  | statusWord x => exact framed (execStatusWord_frame x s) rfl
  | statusVout x => exact framed (execStatusVout_frame x s) rfl
  | statusIout x => exact framed (execStatusIout_frame x s) rfl
  | statusTemperature x => exact framed (execStatusTemperature_frame x s) rfl
  | statusCml x => exact framed (execStatusCml_frame x s) rfl
  | readVout x => exact framed (execReadVout_frame x s) rfl
  | readIout x => exact framed (execReadIout_frame x s) rfl
  | readTemperature1 x => exact framed (execReadTemperature1_frame x s) rfl
  | readPout x => exact framed (execReadPout_frame x s) rfl
  | pmbusRevision x => exact framed (execPmbusRevision_frame x s) rfl
  | mfrId x => exact framed (execMfrId_frame x s) rfl
  | mfrModel x => exact framed (execMfrModel_frame x s) rfl
  | interleaveBoundary n per same => exact framed (execInterleaveBoundary_frame n per same s) rfl
  | shedDelayExpiry n => exact framed (execShedDelayExpiry_frame n s) rfl
  | pulseLeadingEdge k off => exact framed (execPulseLeadingEdge_frame k off s) rfl
  | peakComparatorTrip k ton diff on => exact framed (execPeakComparatorTrip_frame k ton diff on s) rfl
  | dmaxLimit k first codes irefs => exact framed (execDmaxLimit_frame k first codes irefs s) rfl
  | diodeEmulationZero k code iref => exact framed (execDiodeEmulationZero_frame k code iref s) rfl
  | delayLineCalibration k ok => exact framed (execDelayLineCalibration_frame k ok s) rfl
  | phaseMapWrite src k be data => exact framed (execPhaseMapWrite_frame src k be data s) rfl
  | lendRequest k => exact framed (execLendRequest_frame k s) rfl
  | phaseDisableWrite src k disable => exact framed (execPhaseDisableWrite_frame src k disable s) rfl
  | phaseClrFail src k x => exact framed (execPhaseClrFail_frame src k x s) rfl
  | joinComplete k => exact framed (execJoinComplete_frame k s) rfl
  | drainDecayComplete k code0 code1 irefs => exact framed (execDrainDecayComplete_frame k code0 code1 irefs s) rfl
  | drainTimeout k => exact framed (execDrainTimeout_frame k s) rfl
  | stageFault k => exact framed (execStageFault_frame k s) rfl
  | phaseFailure k dets => exact framed (execPhaseFailure_frame k dets s) rfl
  | loopUpdate n frame slotB volts samples => exact framed (execLoopUpdate_frame n frame slotB volts samples s) rfl
  | balanceUpdate k frame => exact framed (execBalanceUpdate_frame k frame s) rfl
  | bankCommit src n => exact framed (execBankCommit_frame src n s) rfl
  | bankSwap n => exact framed (execBankSwap_frame n s) rfl
  | setpointWrite src n reg be data => exact framed (execSetpointWrite_frame src n reg be data s) rfl
  | cuePin pins t => exact framed (execCuePin_frame pins t s) rfl
  | cueSw src data t => exact framed (execCueSw_frame src data t s) rfl
  | cueHoldExpiry n => exact framed (execCueHoldExpiry_frame n s) rfl
  | loopEnable n => exact framed (execLoopEnable_frame n s) rfl
  | loopSoftStop n => exact framed (execLoopSoftStop_frame n s) rfl
  | loopHardStop n => exact framed (execLoopHardStop_frame n s) rfl
  | prebiasComplete n codes => exact framed (execPrebiasComplete_frame n codes s) rfl
  | prebiasTimeout x => exact framed (execPrebiasTimeout_frame x s) rfl
  | softStartComplete n => exact framed (execSoftStartComplete_frame n s) rfl
  | softStartTimeout x => exact framed (execSoftStartTimeout_frame x s) rfl
  | rampdownComplete n => exact framed (execRampdownComplete_frame n s) rfl
  | loopDrainComplete n => exact framed (execLoopDrainComplete_frame n s) rfl
  | loopLatchedRestart n => exact framed (execLoopLatchedRestart_frame n s) rfl
  | loopEnableWrite src n enable => exact framed (execLoopEnableWrite_frame src n enable s) rfl
  | ovCrowbar x => exact framed (execOvCrowbar_frame x s) rfl
  | ovIdle x => exact framed (execOvIdle_frame x s) rfl
  | crowbarRelease n own others => exact framed (execCrowbarRelease_frame n own others s) rfl
  | uvFault x => exact framed (execUvFault_frame x s) rfl
  | loopOcFault x => exact framed (execLoopOcFault_frame x s) rfl
  | ssShortFault x => exact framed (execSsShortFault_frame x s) rfl
  | loopOtFault x => exact framed (execLoopOtFault_frame x s) rfl
  | loopWarning n x => exact framed (execLoopWarning_frame n x s) rfl
  | loopFltClear src n be data x => exact framed (execLoopFltClear_frame src n be data x s) rfl
  | sceneRequest src data => exact framed (execSceneRequest_frame src data s) rfl
  | latchedRequestStart => exact framed (execLatchedRequestStart_frame s) rfl
  | entryStart i vmon => exact framed (execEntryStart_frame i vmon s) rfl
  | railPowerGood i readings => exact framed (execRailPowerGood_frame i readings s) rfl
  | wrapOffDelayExpiry i reading => exact framed (execWrapOffDelayExpiry_frame i reading s) rfl
  | wrapStepAdvance => exact framed (execWrapStepAdvance_frame s) rfl
  | railDischarged i readings => exact framed (execRailDischarged_frame i readings s) rfl
  | enlatchRestart i => exact framed (execEnlatchRestart_frame i s) rfl
  | dischargeTimeout i => exact framed (execDischargeTimeout_frame i s) rfl
  | pgTimeout i => exact framed (execPgTimeout_frame i s) rfl
  | railMonitorFault i det readings => exact framed (execRailMonitorFault_frame i det readings s) rfl
  | retryDelayExpiry => exact framed (execRetryDelayExpiry_frame s) rfl
  | railOn src i => exact framed (execRailOn_frame src i s) rfl
  | railSoftOff src i => exact framed (execRailSoftOff_frame src i s) rfl
  | railImmediateOff src i => exact framed (execRailImmediateOff_frame src i s) rfl
  | railClear src i => exact framed (execRailClear_frame src i s) rfl
  | heldRailRequestStart => exact framed (execHeldRailRequestStart_frame s) rfl
  | seqForce src data => exact framed (execSeqForce_frame src data s) rfl
  | takeResume => exact framed (execTakeResume_frame s) rfl
  | resetStretchElapsed k => exact framed (execResetStretchElapsed_frame k s) rfl
  | srcClassAdopt mv => exact framed (execSrcClassAdopt_frame mv s) rfl
  | inputLimitThrottle x => exact framed (execInputLimitThrottle_frame x s) rfl
  | sourceOverloadTimeout x => exact framed (execSourceOverloadTimeout_frame x s) rfl
  | shareEnd x => exact framed (execShareEnd_frame x s) rfl
  | powerPathDetectEnd low x => exact framed (execPowerPathDetectEnd_frame low x s) rfl
  | packQualified x => exact framed (execPackQualified_frame x s) rfl
  | powerPathInhibit x => exact framed (execPowerPathInhibit_frame x s) rfl
  | converterFault x => exact framed (execConverterFault_frame x s) rfl
  | hupEnableWrite src enable => exact framed (execHupEnableWrite_frame src enable s) rfl
  | hupEnableDeferred => exact framed (execHupEnableDeferred_frame s) rfl
  | sagDetect x iL0 => exact framed (execSagDetect_frame x iL0 s) rfl
  | sagNoHandover x => exact framed (execSagNoHandover_frame x s) rfl
  | startPulseEnd => exact framed (execStartPulseEnd_frame s) rfl
  | handoverComplete x => exact framed (execHandoverComplete_frame x s) rfl
  | handoverTimeout => exact framed (execHandoverTimeout_frame s) rfl
  | sourceQualified x => exact framed (execSourceQualified_frame x s) rfl
  | returnComplete x => exact framed (execReturnComplete_frame x s) rfl
  | packEmpty x => exact framed (execPackEmpty_frame x s) rfl
  | packRemoval how => exact framed (execPackRemoval_frame how s) rfl
  | chargerCommandWrite src be data => exact framed (execChargerCommandWrite_frame src be data s) rfl
  | chargerWatchdogExpiry => exact framed (execChargerWatchdogExpiry_frame s) rfl
  | chargerQual x => exact framed (execChargerQual_frame x s) rfl
  | prechargeDone x => exact framed (execPrechargeDone_frame x s) rfl
  | prechargeTimeout => exact framed (execPrechargeTimeout_frame s) rfl
  | cvReached x => exact framed (execCvReached_frame x s) rfl
  | chargeTerminated x => exact framed (execChargeTerminated_frame x s) rfl
  | recharge x => exact framed (execRecharge_frame x s) rfl
  | chargeTimeout => exact framed (execChargeTimeout_frame s) rfl
  | chargerOvFault x => exact framed (execChargerOvFault_frame x s) rfl
  | chargerSuspend x => exact framed (execChargerSuspend_frame x s) rfl
  | chargerDrainComplete x late => exact framed (execChargerDrainComplete_frame x late s) rfl
  | chargerResume x => exact framed (execChargerResume_frame x s) rfl
  | chargeBandChange => exact framed (execChargeBandChange_frame s) rfl
  | aoWake how => exact framed (execAoWake_frame how s) rfl
  | hibernateEnter => exact framed (execHibernateEnter_frame s) rfl
  | ocvSample pin => exact framed (execOcvSample_frame pin s) rfl
  | gaugeAnchorWrite src => exact framed (execGaugeAnchorWrite_frame src s) rfl
  | gaugeEstimateUpdate sec => exact framed (execGaugeEstimateUpdate_frame sec s) rfl
  | gaugeStarved => exact framed (execGaugeStarved_frame s) rfl
  | gaugeCommit src => exact framed (execGaugeCommit_frame src s) rfl
  | gaugeCommitComplete inhibited => exact framed (execGaugeCommitComplete_frame inhibited s) rfl
  | gaugeRestore src key packDet => exact framed (execGaugeRestore_frame src key packDet s) rfl
  | gaugeUnload src key => exact framed (execGaugeUnload_frame src key s) rfl
  | gaugeNopack => exact framed (execGaugeNopack_frame s) rfl
  | gaugePackReturn => exact framed (execGaugePackReturn_frame s) rfl
  | gauAccRead src => exact framed (execGauAccRead_frame src s) rfl
  | thermalScanFrame x => exact framed (execThermalScanFrame_frame x s) rfl
  | thmClr src data => exact framed (execThmClr_frame src data s) rfl
  | faultLatch => exact framed (execFaultLatch_frame s) rfl
  | faultLineRelease c => exact framed (execFaultLineRelease_frame c s) rfl
  | faultClear src hi be data => exact framed (execFaultClear_frame src hi be data s) rfl
  | faultInject src data => exact framed (execFaultInject_frame src data s) rfl
  | efiInput m x => exact framed (execEfiInput_frame m x s) rfl
  | wdtArm k src dt => exact framed (execWdtArm_frame k src dt s) rfl
  | wdtDisarm k src dt key => exact framed (execWdtDisarm_frame k src dt key s) rfl
  | wdtCheckin k src dt task => exact framed (execWdtCheckin_frame k src dt task s) rfl
  | wdtAnswer k src dt token => exact framed (execWdtAnswer_frame k src dt token s) rfl
  | wdtWindowLate k dt => exact framed (execWdtWindowLate_frame k dt s) rfl
  | wdtHoldElapsed x => exact framed (execWdtHoldElapsed_frame x s) rfl
  | wdtChallengeQueue k src chal => exact framed (execWdtChallengeQueue_frame k src chal s) rfl
  | eventArrival e payload => exact framed (execEventArrival_frame e payload s) rfl
  | eventSelect => exact framed (execEventSelect_frame s) rfl
  | eventRecordFault => exact framed (execEventRecordFault_frame s) rfl
  | eventEoi t src e => exact framed (execEventEoi_frame t src e s) rfl
  | eventRingRdWrite t src rd => exact framed (execEventRingRdWrite_frame t src rd s) rfl
  | eventTargetEnable t src => exact framed (execEventTargetEnable_frame t src s) rfl
  | eventTargetDisable t src => exact framed (execEventTargetDisable_frame t src s) rfl
  | evcRaise src n data => exact framed (execEvcRaise_frame src n data s) rfl
  | ringEnable src r enable => exact framed (execRingEnable_frame src r enable s) rfl
  | ringDoorbell src r => exact framed (execRingDoorbell_frame src r s) rfl
  | ringPause src r => exact framed (execRingPause_frame src r s) rfl
  | ringResume src r => exact framed (execRingResume_frame src r s) rfl
  | descriptorFetch r host => exact framed (execDescriptorFetch_frame r host s) rfl
  | burstStart => exact framed (execBurstStart_frame s) rfl
  | burstComplete r moved data => exact framed (execBurstComplete_frame r moved data s) rfl
  | windowEntryWrite src e one data => exact framed (execWindowEntryWrite_frame src e one data s) rfl
  | xltSync src => exact framed (execXltSync_frame src s) rfl
  | xltSyncComplete => exact framed (execXltSyncComplete_frame s) rfl
  | timestampRead src => exact framed (execTimestampRead_frame src s) rfl
  | telemetryWindowEnd x => exact framed (execTelemetryWindowEnd_frame x s) rfl
  | streamChannelConfig src c word be data => exact framed (execStreamChannelConfig_frame src c word be data s) rfl
  | peakRegisterRead src reg => exact framed (execPeakRegisterRead_frame src reg s) rfl
  | rushesTrigger cause => exact framed (execRushesTrigger_frame cause s) rfl
  | rushesFrozen => exact framed (execRushesFrozen_frame s) rfl
  | rushesRearm src => exact framed (execRushesRearm_frame src s) rfl
  | dailyPeriodEnd meas battSecs => exact framed (execDailyPeriodEnd_frame meas battSecs s) rfl
  | dailyRecordWrite => exact framed (execDailyRecordWrite_frame s) rfl
  | pmcCounterWrap c => exact framed (execPmcCounterWrap_frame c s) rfl
  | pmcCounterRead src c => exact framed (execPmcCounterRead_frame src c s) rfl
  | pmcCounterWrite src c hi be data => exact framed (execPmcCounterWrite_frame src c hi be data s) rfl
  | clapEdge fine => exact framed (execClapEdge_frame fine s) rfl
  | clapCommit num => exact framed (execClapCommit_frame num s) rfl
  | clapCodeError => exact framed (execClapCodeError_frame s) rfl
  | clapDrive src => exact framed (execClapDrive_frame src s) rfl
  | clapAuto => exact framed (execClapAuto_frame s) rfl
  | slateSnap src => exact framed (execSlateSnap_frame src s) rfl
  | timeFrame t cap => exact framed (execTimeFrame_frame t cap s) rfl
  | timeFrameError => exact framed (execTimeFrameError_frame s) rfl
  | timeHoldover => exact framed (execTimeHoldover_frame s) rfl
  | timeFrameSend => exact framed (execTimeFrameSend_frame s) rfl
  | otpRescan src data => exact framed (execOtpRescan_frame src data s) rfl
  | otpTempScan => exact framed (execOtpTempScan_frame s) rfl
  | otpScanComplete => exact framed (execOtpScanComplete_frame s) rfl
  | otpProgram src key => exact framed (execOtpProgram_frame src key s) rfl
  | otpTopup src key => exact framed (execOtpTopup_frame src key s) rfl
  | otpSeal src key noChk => exact framed (execOtpSeal_frame src key noChk s) rfl
  | otpBlow src key => exact framed (execOtpBlow_frame src key s) rfl
  | otpVerify src key => exact framed (execOtpVerify_frame src key s) rfl
  | otpStop src key => exact framed (execOtpStop_frame src key s) rfl
  | otpSupplyReady ok => exact framed (execOtpSupplyReady_frame ok s) rfl
  | otpPulseComplete m1 ok => exact framed (execOtpPulseComplete_frame m1 ok s) rfl
  | otpRead src data => exact framed (execOtpRead_frame src data s) rfl
  | otpReadComplete => exact framed (execOtpReadComplete_frame s) rfl
  | otpReload src data => exact framed (execOtpReload_frame src data s) rfl
  | otpReloadDeferred => exact framed (execOtpReloadDeferred_frame s) rfl
  | hkcRestart src data => exact framed (execHkcRestart_frame src data s) rfl
  | coreRestartComplete challenges => exact framed (execCoreRestartComplete_frame challenges s) rfl
  | reserveLow x => exact framed (execReserveLow_frame x s) rfl
  | hostErr r moved data => exact framed (execHostErr_frame r moved data s) rfl
  | clkXfreqUpdate khz => exact framed (execClkXfreqUpdate_frame khz s) rfl

/-- Settles O7, from the frame of each command. -/
theorem commandsChangeOnlyTheirState : Obligations.CommandsChangeOnlyTheirState := by
  unfold Obligations.CommandsChangeOnlyTheirState
  intro c s t ht
  obtain ⟨u, hu, hframe⟩ := exec_framed c s
  rw [hu, Host.Outcome.next.injEq] at ht
  exact ht ▸ hframe

end Sys2Proof.Machine
end

section
/-! SUPPORT. What every step keeps of the array, the registers and the addressed RAMs. -/

set_option maxRecDepth 4000

namespace Sys2Proof.Machine
open Sys2Proof

/-! ## The array (R657) -/

/-- Every command leaves the array, or one pulse acts on it. -/
theorem exec_pulsedTo (c : Instr) (s : State) : ∃ u, exec c s = .next u ∧ s.fuses.pulsedTo u.fuses := by
  cases c with
  | domainPorAssert dom => exact ⟨_, rfl, Device.porAssert_fuses s.dev s.fuses dom⟩
  | pllLockTimeout => exact ⟨_, rfl, Device.lockTimeout_fuses s.dev s.fuses⟩
  | clockFailure => exact ⟨_, rfl, Device.clockFailure_fuses s.dev s.fuses⟩
  | otpPulseComplete m1 ok =>
    refine ⟨_, rfl, ?_⟩
    dsimp only
    split
    · exact Device.pulseDone_fuses s.dev s.fuses m1 ok
    · exact .inl rfl
  | rushesTrigger cause => cases cause <;> exact ⟨_, rfl, .inl rfl⟩
  | _ => exact ⟨_, rfl, .inl rfl⟩

theorem step_pulsedTo {s t : State} (h : step s = .next t) : s.fuses.pulsedTo t.fuses := by
  unfold step at h
  split at h
  · exact .inl (congrArg State.fuses (Host.Outcome.next.inj h)).symm
  · rename_i c rest _
    obtain ⟨u, hu, hp⟩ := exec_pulsedTo c { s with pending := rest }
    rw [hu, Host.Outcome.next.injEq] at h
    exact h ▸ hp

/-- Settles O9: what one pulse does to the array keeps its bits and its canonical form. -/
theorem programmedBitsStay : Obligations.ProgrammedBitsStay := by
  unfold Obligations.ProgrammedBitsStay
  intro s t hwf ht
  exact ⟨(step_pulsedTo ht).grows hwf, (step_pulsedTo ht).wf hwf⟩

/-! ## The canonical form -/

/-- The command completes, and the registers and the addressed RAMs are in canonical form after it. -/
def EndsCanonical (o : Host.Outcome State Fault Refusal) : Prop := ∃ u, o = .next u ∧ u.dev.canonical = true

/-- An event that occurs while the clocks run. -/
theorem whenLive_canonical {s : State} (g : Device → Device) (h : s.dev.canonical = true)
    (hg : ∀ d : Device, d.canonical = true → (g d).canonical = true) : EndsCanonical (s.onDev fun d => d.whenLive g) :=
  ⟨_, rfl, Device.whenLive_canon _ _ hg h⟩

/-- An event of the blocks that the call sheet configures. -/
theorem inService_canonical {s : State} (g : Device → Device) (h : s.dev.canonical = true)
    (hg : ∀ d : Device, d.canonical = true → (g d).canonical = true) : EndsCanonical (s.onDev fun d => d.inService g) :=
  ⟨_, rfl, Device.inService_canon _ _ hg h⟩

theorem bus_canonical {s : State} (h : s.dev.canonical = true) (src : Source) (a : Nat) (be : BitVec 4) (v : Word) (x : WriteInfo) :
    EndsCanonical (s.bus src a be v x) := ⟨_, rfl, Device.busWrite_canon _ _ _ _ _ _ _ h⟩

theorem read_canonical {s : State} (h : s.dev.canonical = true) (src : Source) (a : Nat) : EndsCanonical (s.read src a) :=
  ⟨_, rfl, by simp [h]⟩

/-- A PMBus read, write or word. -/
theorem pmRead_canonical {s : State} (x : SmbXfer) (g : Fin 16 → Device → List Byte × Device) (h : s.dev.canonical = true)
    (hg : ∀ n d, d.canonical = true → (g n d).2.canonical = true) : EndsCanonical (s.onDev fun d => d.pmRead x g) :=
  ⟨_, rfl, Device.pmRead_canon s.dev x g hg h⟩

theorem pmWrite_canonical {s : State} (x : SmbXfer) (g : Source → Fin 16 → Device → Device × Bool) (h : s.dev.canonical = true)
    (hg : ∀ src n d, d.canonical = true → (g src n d).1.canonical = true) : EndsCanonical (s.onDev fun d => d.pmWrite x g) :=
  ⟨_, rfl, Device.pmWrite_canon s.dev x g hg h⟩

theorem pmWord_canonical {s : State} (x : SmbXfer) (w : Option (BitVec 16)) (rd : Fin 16 → Device → List Byte)
    (wr : Source → Fin 16 → Device → BitVec 16 → Device × Bool) (h : s.dev.canonical = true)
    (hw : ∀ src n d v, d.canonical = true → (wr src n d v).1.canonical = true) : EndsCanonical (s.onDev fun d => d.pmWord x w rd wr) :=
  ⟨_, rfl, Device.pmWord_canon s.dev x w rd wr hw h⟩

/-- Every command keeps the canonical form: its operation does. -/
theorem exec_canonical (c : Instr) (s : State) (h : s.dev.canonical = true) : EndsCanonical (exec c s) := by
  cases c with
  | glbDevrstWrite | rstcauseClear | registerWrite | hcxOpen | hcxClose | hcxEvict | hcxLeaseWrite | claimRequest | claimRelease | ownerPolicyWrite
  | pageLockWrite | pageFreezeWrite | blockSoftReset | phaseMapWrite | phaseDisableWrite | phaseClrFail | bankCommit | setpointWrite | cueSw |
  loopEnableWrite | loopFltClear | sceneRequest | railOn | railSoftOff | railImmediateOff | railClear | seqForce | hupEnableWrite |
  chargerCommandWrite | gaugeAnchorWrite | gaugeCommit | gaugeRestore | gaugeUnload | thmClr | faultClear | faultInject | wdtArm | wdtDisarm |
  wdtCheckin | wdtAnswer | wdtChallengeQueue | eventEoi | eventRingRdWrite | eventTargetEnable | eventTargetDisable | evcRaise | ringEnable |
  ringDoorbell | ringPause | ringResume | windowEntryWrite | xltSync | streamChannelConfig | rushesRearm | pmcCounterWrite | clapDrive | slateSnap |
  otpRescan | otpProgram | otpTopup | otpSeal | otpBlow | otpVerify | otpStop | otpRead | otpReload | hkcRestart =>
    exact bus_canonical h _ _ _ _ _
  | gauAccRead | timestampRead | peakRegisterRead | pmcCounterRead =>
    exact read_canonical h _ _
  | interleaveBoundary | shedDelayExpiry | pulseLeadingEdge | peakComparatorTrip | dmaxLimit | diodeEmulationZero | lendRequest | joinComplete |
  drainDecayComplete | drainTimeout | stageFault | phaseFailure | loopUpdate | balanceUpdate | bankSwap | cuePin | cueHoldExpiry | loopEnable |
  loopSoftStop | loopHardStop | prebiasComplete | prebiasTimeout | softStartComplete | softStartTimeout | rampdownComplete | loopDrainComplete |
  loopLatchedRestart | ovCrowbar | ovIdle | crowbarRelease | uvFault | loopOcFault | ssShortFault | loopOtFault | loopWarning | latchedRequestStart
  | entryStart | railPowerGood | wrapOffDelayExpiry | wrapStepAdvance | railDischarged | enlatchRestart | dischargeTimeout | pgTimeout |
  railMonitorFault | retryDelayExpiry | heldRailRequestStart | takeResume | resetStretchElapsed | srcClassAdopt | inputLimitThrottle |
  sourceOverloadTimeout | shareEnd | powerPathDetectEnd | packQualified | powerPathInhibit | converterFault | hupEnableDeferred | sagDetect |
  sagNoHandover | startPulseEnd | handoverComplete | handoverTimeout | sourceQualified | returnComplete | packEmpty | packRemoval |
  chargerWatchdogExpiry | chargerQual | prechargeDone | prechargeTimeout | cvReached | chargeTerminated | recharge | chargeTimeout | chargerOvFault
  | chargerSuspend | chargerDrainComplete | chargerResume | chargeBandChange | gaugeStarved | gaugeNopack | gaugePackReturn | thermalScanFrame |
  telemetryWindowEnd | dailyPeriodEnd | otpTempScan | reserveLow =>
    exact inService_canonical _ h fun d hd => by simp [hd]
  | leaseExpiry | contextQuarantine | contextFree | claimArbitration | spiPortReset | delayLineCalibration | faultLatch | faultLineRelease |
  efiInput | wdtWindowLate | wdtHoldElapsed | eventArrival | eventSelect | eventRecordFault | descriptorFetch | burstStart | burstComplete |
  xltSyncComplete | rushesFrozen | dailyRecordWrite | pmcCounterWrap | clapEdge | clapCommit | clapCodeError | clapAuto | timeFrame | timeFrameError
  | timeHoldover | timeFrameSend | otpScanComplete | otpSupplyReady | otpReadComplete | otpReloadDeferred | hostErr =>
    exact whenLive_canonical _ h fun d hd => by simp [hd]
  | rushesTrigger cause =>
    cases cause with
    | freeze src => exact bus_canonical h _ _ _ _ _
    | cut | loopFault | incident => exact inService_canonical _ h fun d hd => by simp [hd]
  | otpPulseComplete m1 ok =>
    refine ⟨_, rfl, ?_⟩
    dsimp only
    split
    · simp [h]
    · exact h
  | aoWake how =>
    refine ⟨_, rfl, ?_⟩
    cases how <;> simp [Device.aoWakeBy, h]
  | clearFaults => exact pmWrite_canonical _ _ h fun src n d hd => Device.pmClear_canon d s.fuses src n hd
  | voutCommand | voutMarginHigh | voutMarginLow | voutTransitionRate | voutDroop | frequencySwitch | voutOvFaultLimit | voutUvFaultLimit |
  ioutOcFaultLimit | otFaultLimit =>
    exact pmWord_canonical _ _ _ _ h fun _ _ d _ hd => by simp [hd]
  | voutMode | voutMax | statusByte | statusWord | statusVout | statusIout | statusTemperature | readVout | readIout | readTemperature1 | readPout =>
    exact pmRead_canonical _ _ h fun _ d hd => by simp [hd]
  | domainPorAssert | pllLockTimeout | clockFailure | domainPorRelease | deviceResetEntry | deviceResetRelease | pllLock | trimLoad |
  otpBootScanComplete | generationSelect | callSheetLoad | patchInstall | jtagCoreRelease | firstThermalScanComplete | autoStart | coreInitComplete
  | deviceResetDeferred | jtagDeviceReset | tapReset | pcieMemRequest | pcieConfigRequest | pcieFundamentalReset | pcieHotReset | pcieLinkUp |
  pcieD3hotEnter | msixEnable | msixUnmask | writeFrame | readFrame | readResponseReady | i3cPrivateRead | spiFrameAbort | i3cTargetReset |
  smbusTimeoutReset | entdaa | setdasa | setnewda | rstdaa | broadcastCccModeSwitch | enec | disec | setmwl | setmrl | getmwl | getmrl | getpid |
  getbcr | getdcr | getstatus | getmxds | rstact | enthdr0 | ibiRequest | hotJoin | frameWrite | frameRead | pmbusUnsupported | pmbusPage |
  operationImmediateOff | operationSoftOff | operationOn | operationMarginLow | operationMarginHigh | statusCml | pmbusRevision | mfrId | mfrModel |
  hibernateEnter | ocvSample | gaugeEstimateUpdate | gaugeCommitComplete | coreRestartComplete | clkXfreqUpdate =>
    exact ⟨_, rfl, by simp [h]⟩

/-- Settles O10: the cycle of an empty queue keeps the canonical form, and so does every command. -/
theorem canonicalFormStays : Obligations.CanonicalFormStays := by
  unfold Obligations.CanonicalFormStays
  intro s t h ht
  unfold step at ht
  split at ht
  · exact Host.Outcome.next.inj ht ▸ Device.tick_canon s.dev s.fuses h
  · rename_i c rest _
    obtain ⟨u, hu, hcanon⟩ := exec_canonical c { s with pending := rest } h
    rw [hu, Host.Outcome.next.injEq] at ht
    exact ht ▸ hcanon

end Sys2Proof.Machine
end

section
/-! SUPPORT. The queue, the reset state and the word interface: what a step is, and what the machine holds before the first one. -/

set_option maxRecDepth 4000

namespace Sys2Proof.Machine
open Sys2Proof

/-! ## The queue -/

theorem step_cons (c : Instr) (s : State) (q : List Instr) : step { s with pending := c :: q } = exec c { s with pending := q } := rfl

/-- Settles O1: a step takes the command at the front of the queue. -/
theorem stepRunsTheFrontCommand : Obligations.StepRunsTheFrontCommand := by
  unfold Obligations.StepRunsTheFrontCommand
  exact fun c s => step_cons c s s.pending

/-- Every command completes and leaves the queue. -/
theorem exec_pending (c : Instr) (s : State) : ∃ t, exec c s = .next t ∧ t.pending = s.pending := by
  cases c with
  | rushesTrigger cause => cases cause <;> exact ⟨_, rfl, rfl⟩
  | _ => exact ⟨_, rfl, rfl⟩

/-- Settles O6: every command answers one next state, which keeps the queue. -/
theorem everyCommandIsSafe : Obligations.EveryCommandIsSafe := by
  unfold Obligations.EveryCommandIsSafe
  intro c s
  obtain ⟨u, hu, hp⟩ := exec_pending c s
  refine ⟨⟨u, hu⟩, fun t ht => ?_⟩
  rw [hu, Host.Outcome.next.injEq] at ht
  exact ht ▸ hp

/-! ## The word interface -/

/-- Settles O3: the command table has no row with bits. -/
theorem noWordSpellsACommand : Obligations.NoWordSpellsACommand := by
  unfold Obligations.NoWordSpellsACommand
  intro nbits w
  have hnone : decodeTableWord nbits w = none := rfl
  refine ⟨hnone, fun s => ?_⟩
  unfold State.withFetchWord
  rw [hnone]

/-! ## The state at reset -/

theorem device0_wd (k : Fin 9) : device0.wd k = wdt0 := Vector.getElem_replicate k.isLt

theorem device0_lp (n : Fin 16) : device0.lp n = loop0 := Vector.getElem_replicate n.isLt

theorem device0_ctx (n : Fin 8) : device0.ctx[n] = ctx0 0 := Vector.getElem_replicate n.isLt

/-- Each copy of the shipped array reads the same at M0 and at M1 (R659). -/
theorem shippedArray_margins (i : Nat) : shippedArray.atM1 i = shippedArray.atM0 i := rfl

/-- Settles O4, from the reset record of each block. -/
theorem resetState : Obligations.ResetState := by
  unfold Obligations.ResetState
  refine ⟨rfl, rfl, rfl, rfl, rfl, rfl, rfl, fun a => rfl, fun k => ?_, fun n => ?_, fun n => ?_, fun i => ?_⟩
  · exact congrArg Wdt.st (device0_wd k)
  · exact congrArg Ctx.st (device0_ctx n)
  · exact congrArg Loop.st (device0_lp n)
  · unfold OtpArray.marginal
    show (shippedArray.atM0 i != shippedArray.atM1 i) = false
    rw [shippedArray_margins, bne_self_eq_false]

/-- Settles O5: no register and no RAM byte is stored at reset, and both copies of the array are one strictly rising list. -/
theorem resetIsCanonical : Obligations.ResetIsCanonical := by
  unfold Obligations.ResetIsCanonical
  refine ⟨rfl, by decide, by decide, fun i => ?_⟩
  show shippedArray.atM1 i &&& ~~~shippedArray.atM0 i = 0
  rw [shippedArray_margins]
  exact covered_self _

/-! ## The cycle of an empty queue -/

/-- The timestamp and the discipline in one cycle (R612, R652, R653). -/
theorem Syn.tick_held (x : Syn) (c ts : Nat) (h : 0 < x.hold) : x.tick c ts = ({ x with tsPrev := ts, hold := x.hold - 1 }, ts) := by
  unfold Syn.tick
  dsimp only
  rw [if_pos h]

theorem Syn.tick_counts (x : Syn) (c ts : Nat) (h : x.hold = 0) (hs : c % 1024 ≠ 0 ∨ x.slew = 0) :
    x.tick c ts = ({ x with tsPrev := ts }, (ts + 1) % 2 ^ 64) := by
  unfold Syn.tick
  dsimp only
  rw [if_neg (by omega), if_neg (by omega), if_neg (by omega)]

theorem Syn.tick_ahead (x : Syn) (c ts : Nat) (h : x.hold = 0) (hc : c % 1024 = 0) (hs : 0 < x.slew) :
    x.tick c ts = ({ x with tsPrev := ts, slew := x.slew - 1 }, (ts + 2) % 2 ^ 64) := by
  unfold Syn.tick
  dsimp only
  rw [if_neg (by omega), if_pos ⟨hc, hs⟩]

theorem Syn.tick_behind (x : Syn) (c ts : Nat) (h : x.hold = 0) (hc : c % 1024 = 0) (hs : x.slew < 0) :
    x.tick c ts = ({ x with tsPrev := ts, slew := x.slew + 1 }, ts) := by
  unfold Syn.tick
  dsimp only
  rw [if_neg (by omega), if_neg (by omega), if_pos ⟨hc, hs⟩]

theorem step_nil (s : State) (h : s.pending = []) : step s = .next { s with dev := s.dev.tick s.fuses } := by
  unfold step
  rw [h]

theorem tick_stopped (d : Device) (f : OtpArray) (h : d.live = false) : d.tick f = d.ageCauses := by
  have hl : d.ageCauses.live = false := h
  unfold Device.tick
  dsimp only
  rw [hl]
  rfl

/-- Settles O2, from what one cycle does while the clocks run and while they do not. -/
theorem emptyQueueIsOneCycle : Obligations.EmptyQueueIsOneCycle := by
  unfold Obligations.EmptyQueueIsOneCycle
  intro s hq
  refine ⟨fun hstop => ?_, fun hlive => ?_⟩
  · rw [step_nil s hq, tick_stopped _ _ hstop]
    rfl
  · obtain ⟨e, htick, htouch, hcycle, hsyn, hao, hacc, htok, hper, hage⟩ := tick_facts s.dev s.fuses hlive
    have hsyn1 := congrArg Prod.fst hsyn
    have hsyn2 := congrArg Prod.snd hsyn
    dsimp only at hsyn1 hsyn2
    refine ⟨_, e, step_nil s hq, rfl, hq, htick, fun hlease hsafe => htick.trans (quiet_cycle e s.fuses hlease hsafe),
      changesOnly_of_touches htouch rfl, hcycle, hao, fun hhold => ?held, fun hhold hrun => ?counts, fun hhold hc hpos => ?ahead,
      fun hhold hc hneg => ?behind, hacc, htok, hper, hage⟩
    case held =>
      rw [hsyn1, hsyn2, Syn.tick_held _ _ _ hhold]
      exact ⟨rfl, rfl⟩
    case counts =>
      rw [hsyn1, hsyn2, Syn.tick_counts _ _ _ hhold hrun]
      exact ⟨rfl, rfl⟩
    case ahead =>
      rw [hsyn1, hsyn2, Syn.tick_ahead _ _ _ hhold hc hpos]
      exact ⟨rfl, rfl⟩
    case behind =>
      rw [hsyn1, hsyn2, Syn.tick_behind _ _ _ hhold hc hneg]
      exact ⟨rfl, rfl⟩

/-! ## An access that does not reach the fabric -/

theorem exec_registerWrite (src : Source) (a : BitVec 24) (be : BitVec 4) (data : Word) (s : State) :
    exec (.registerWrite src a be data) s = .next { s with dev := s.dev.busWrite s.fuses src a.toNat be data {} } := rfl

/-- Settles O20: the write is the arrival at the TAP controller alone. -/
theorem unreachedWriteChangesNothing : Obligations.UnreachedWriteChangesNothing := by
  unfold Obligations.UnreachedWriteChangesNothing
  intro s src a be data hg
  refine ⟨?_, fun hsrc => if_neg hsrc⟩
  rw [exec_registerWrite, Device.busWrite_deaf _ _ _ _ _ _ _ hg]

end Sys2Proof.Machine
end

section
/-! SUPPORT. Supplies, clocks, device reset and the boot stages: the settled statements of chapter Supplies, Reset and Boot. -/

set_option maxRecDepth 4000

namespace Sys2Proof.Machine
open Sys2Proof

/-! ## Supply and clock events (R35 to R37, R82, R91) -/

theorem exec_domainPorRelease (dom : Domain) (s : State) : exec (.domainPorRelease dom) s = .next { s with dev := s.dev.porRelease dom } := rfl

theorem exec_clockFailure (s : State) :
    exec .clockFailure s = .next { s with dev := (s.dev.clockFailure s.fuses).1, fuses := (s.dev.clockFailure s.fuses).2 } := rfl

theorem exec_pllLockTimeout (s : State) :
    exec .pllLockTimeout s = .next { s with dev := (s.dev.lockTimeout s.fuses).1, fuses := (s.dev.lockTimeout s.fuses).2 } := rfl

theorem lockTimeout_unlocked (d : Device) (f : OtpArray) (h : d.boot.pllLock = false) : d.lockTimeout f = d.clockFailure f := by
  unfold Device.lockTimeout
  rw [h]
  rfl

/-- Outside device reset, with power, a clock failure stops the clocks; the flag and the cause go to the AO domain. -/
theorem clockFailure_effect (d : Device) (f : OtpArray) (hheld : d.boot.held = false) (hclk : d.boot.clkFailed = false) (hpow : d.powered = true) :
    let e := (d.clockFailure f).1
    e.boot = { d.boot with clkFailed := true } ∧ (d.boot.up.ao = true → e.ao.clkFail = true ∧ bit e.ao.rstCause 5 = true) := by
  have hboot : (d.orHold.cutPulse f).1.boot = d.boot := cutPulse_boot d.orHold f
  unfold Device.clockFailure
  rw [if_neg (by simp [hheld, hclk, hpow])]
  dsimp only
  rw [latchCause_boot, hboot]
  refine ⟨rfl, fun hup => ?_⟩
  rw [if_pos hup]
  exact ⟨rfl, latch_bit _ 5 6 (by decide) (by rw [hboot]; exact hup)⟩

theorem live_false_of_clkFailed {d : Device} (h : d.boot.clkFailed = true) : d.live = false := by
  unfold Device.live
  simp [h]

/-- Settles O11, from the levels after a POR event and from what a clock failure does. -/
theorem supplyAndClockEventsComplete : Obligations.SupplyAndClockEventsComplete := by
  unfold Obligations.SupplyAndClockEventsComplete
  refine ⟨fun s dom => ⟨⟨_, exec_domainPorAssert dom s, porAssert_up s.dev s.fuses dom⟩, _, exec_domainPorRelease dom s, porRelease_up s.dev dom⟩,
    fun s hheld hclk hpow => ?_⟩
  obtain ⟨hboot, hao⟩ := clockFailure_effect s.dev s.fuses hheld hclk hpow
  have hfailed := congrArg Boot.clkFailed hboot
  refine ⟨⟨_, exec_clockFailure s, hfailed, live_false_of_clkFailed hfailed, hao⟩, fun hpll => ?_⟩
  rw [exec_pllLockTimeout, exec_clockFailure, lockTimeout_unlocked _ _ hpll]

/-! ## Device reset (R83 to R87) -/

theorem resetEntry_due (d : Device) (hheld : d.boot.held = false)
    (h : d.powered = false ∨ ∃ q, d.boot.request = some q ∧ d.otpPulsing = false ∧ (d.boot.clkFailed = false ∨ q = .jtag)) :
    d.resetEntry = d.orHold.resetOf := by
  unfold Device.resetEntry
  refine if_pos ?_
  rw [hheld]
  obtain hpow | ⟨q, hq, hpulse, hclk⟩ := h
  · simp [hpow]
  · unfold Device.resetDue
    rw [hq, hpulse]
    obtain hclk | rfl := hclk
    · simp [hclk]
    · simp

theorem resetOf_wd (d : Device) (k : Fin 9) : d.resetOf.wd k = (d.wd k).reset := Vector.getElem_map _ k.isLt

theorem resetOf_ctx (d : Device) (n : Fin 8) : d.resetOf.ctx[n] = d.ctx[n].reset := Vector.getElem_map _ n.isLt

theorem resetOf_lp (d : Device) (n : Fin 16) : d.resetOf.lp n = loop0 := Vector.getElem_replicate n.isLt

theorem exec_deviceResetDeferred (s : State) (h : s.dev.boot.request.isSome = true) :
    exec .deviceResetDeferred s = .next { s with dev := s.dev.resetEntry } := by
  show Host.Outcome.next { s with dev := if s.dev.boot.request.isSome then s.dev.resetEntry else s.dev } = _
  rw [if_pos h]

theorem exec_jtagDeviceReset (s : State) : exec .jtagDeviceReset s = .next { s with dev := s.dev.jtagReset } := rfl

/-- Outside device reset JTAG requests a device reset, in the state of R36 in place of any other request, and latches its cause. -/
theorem jtagReset_effect (d : Device) (hheld : d.boot.held = false) (hpow : d.powered = true) :
    d.jtagReset.boot.request.isSome = true ∧ (d.boot.clkFailed = true → d.jtagReset.boot.request = some .jtag) ∧
      (d.boot.up.ao = true → bit d.jtagReset.ao.rstCause 7 = true) := by
  have hclk : ((d.tapLeaves .jtag).requestReset .jtag).boot.clkFailed = d.boot.clkFailed := by
    have hlatch : ((d.tapLeaves .jtag).latchRequest .jtag).boot = (d.tapLeaves .jtag).boot := keeps_boot (by simp)
    show ((d.tapLeaves .jtag).latchRequest .jtag).boot.clkFailed = d.boot.clkFailed
    rw [hlatch]
    rfl
  have hcause : d.boot.up.ao = true → bit ((d.tapLeaves .jtag).requestReset .jtag).ao.rstCause 7 = true :=
    fun hup => latch_bit (d.tapLeaves .jtag) 7 _ (by decide) hup
  unfold Device.jtagReset
  rw [if_neg (by simp [hheld, hpow])]
  dsimp only
  rw [hclk]
  cases hf : d.boot.clkFailed with
  | true => exact ⟨rfl, fun _ => rfl, hcause⟩
  | false => exact ⟨request_some _ _, nofun, hcause⟩

/-- Settles O13: the entry takes each block's reset record and keeps the AO domain; JTAG's request is one more request. -/
theorem deviceResetsComplete : Obligations.DeviceResetsComplete := by
  unfold Obligations.DeviceResetsComplete
  refine ⟨fun s hheld hdue => ?entry, fun s => ⟨fun hheld hpow => ⟨_, exec_jtagDeviceReset s, jtagReset_effect s.dev hheld hpow⟩, rfl⟩⟩
  case entry =>
    have hentry := resetEntry_due s.dev hheld hdue
    refine ⟨_, exec_deviceResetEntry s, exec_deviceResetDeferred s, ?_⟩
    dsimp only
    rw [hentry]
    refine ⟨rfl, rfl, rfl, rfl, rfl, fun k => ?_, fun n => ?_, fun n => ?_, rfl, rfl, rfl, rfl, rfl, rfl, rfl, fun a ha => resetOf_lemma s.dev.orHold a ha, rfl⟩
    · rw [resetOf_wd]
      exact ⟨rfl, rfl⟩
    · rw [resetOf_ctx]
      rfl
    · rw [resetOf_lp]
      rfl

/-! ## The boot stages (R27, R61, R90, R92, R95) -/

theorem exec_deviceResetRelease (s0 s1 s2 : BitVec 4) (s : State) :
    exec (.deviceResetRelease s0 s1 s2) s = .next { s with dev := s.dev.resetRelease s0 s1 s2 } := rfl

theorem resetRelease_effect (d : Device) (s0 s1 s2 : BitVec 4) (hheld : d.boot.held = true) (hpow : d.powered = true) (hup : d.boot.up.ao = true) :
    let e := d.resetRelease s0 s1 s2
    e.boot = { d.boot with held := false, stage := 1, straps := field 3 0 (majority s0 s1 s2).toNat ||| flag 8 (s0 != s1 || s1 != s2) } ∧
      e.ao.bootCount = satInc 255 d.ao.bootCount := by
  unfold Device.resetRelease
  rw [if_pos (by simp [hheld, hpow, hup])]
  dsimp only
  rw [stageTo_boot, aoWake_boot]
  exact ⟨rfl, aoWake_bc _ _⟩

theorem exec_pllLock (s : State) : exec .pllLock s = .next { s with dev := s.dev.lock } := rfl

theorem locked_ts (d : Device) : (d.clkSync.stageTo 2).ts = d.ts := keeps_ts (by simp)

theorem lock_effect (d : Device) (hheld : d.boot.held = false) (hpll : d.boot.pllLock = false) (hclk : d.boot.clkFailed = false)
    (hpow : d.powered = true) : d.lock.boot = { d.boot with pllLock := true, stage := 2 } ∧ d.lock.ts = 0 := by
  unfold Device.lock
  rw [if_pos (by simp [hheld, hpll, hclk, hpow]), stageTo_boot, clkSync_boot]
  exact ⟨rfl, locked_ts _⟩

theorem exec_trimLoad (s : State) : exec .trimLoad s = .next { s with dev := s.dev.trimLoad s.fuses } := rfl

theorem exec_otpBootScanComplete (s : State) : exec .otpBootScanComplete s = .next { s with dev := s.dev.bootScan s.fuses } := rfl

theorem exec_generationSelect (s : State) : exec .generationSelect s = .next { s with dev := s.dev.generationSelect } := rfl

/-- The generation that the scan's words and the boot mode select is taken; without one the boot has failed (R92, R95). -/
theorem generationSelect_effect (d : Device) (hlive : d.live = true) (hst : d.boot.stage = 3) :
    match selectGen d.otp.bootVal (d.bootMode == 0) with
    | some g => d.generationSelect.boot.stage = 4 ∧ d.generationSelect.boot.gen = g
    | none => d.generationSelect.boot.stage = 0xE := by
  unfold Device.generationSelect
  rw [if_pos (atStage_of hlive hst)]
  cases selectGen d.otp.bootVal (d.bootMode == 0) with
  | some g => exact ⟨rfl, rfl⟩
  | none => rfl

theorem exec_callSheetLoad (s : State) : exec .callSheetLoad s = .next { s with dev := s.dev.callSheetLoad } := rfl

theorem exec_patchInstall (s : State) : exec .patchInstall s = .next { s with dev := s.dev.patchEvent } := rfl

theorem patchLoad_otp (d : Device) (v : Store) : (d.patchLoad v).otp = d.otp := keeps_otp (by simp)

/-- The patch section is installed; then the debug hold, or the core's release (R94, R96). -/
theorem patchEvent_effect (d : Device) (hlive : d.live = true) (hst : d.boot.stage = 5) :
    if d.bootMode = 3 ∧ d.otp.jtagLock = false then d.patchEvent.boot.stage = 0xD ∧ d.patchEvent.boot.coreUp = d.boot.coreUp
    else d.patchEvent.boot.stage = 6 ∧ d.patchEvent.boot.coreUp = true := by
  have hboot := patchLoad_boot d d.otp.bootVal
  have hmode : (d.patchLoad d.otp.bootVal).bootMode = d.bootMode := by
    unfold Device.bootMode
    obtain h | h := hboot <;> rw [h]
  have hcore : (d.patchLoad d.otp.bootVal).boot.coreUp = d.boot.coreUp := by
    obtain h | h := hboot <;> rw [h]
  unfold Device.patchEvent
  rw [if_pos (atStage_of hlive hst)]
  dsimp only
  rw [hmode, patchLoad_otp]
  by_cases hhold : d.bootMode = 3 ∧ d.otp.jtagLock = false
  · rw [if_pos hhold, if_pos (by simpa using hhold)]
    exact ⟨rfl, hcore⟩
  · rw [if_neg hhold, if_neg (by simpa using hhold), coreRelease_boot]
    exact ⟨rfl, rfl⟩

theorem exec_jtagCoreRelease (s : State) : exec .jtagCoreRelease s = .next { s with dev := s.dev.jtagRelease } := rfl

theorem jtagRelease_at (d : Device) (hlive : d.live = true) (hst : d.boot.stage = 0xD) : d.jtagRelease = d.coreRelease :=
  if_pos (atStage_of hlive hst)

theorem exec_firstThermalScanComplete (s : State) (hlive : s.dev.live = true) (hst : s.dev.boot.stage = 6) :
    exec .firstThermalScanComplete s = .next { s with dev := { s.dev with boot := { s.dev.boot with firstScan := true } } } := by
  have hscan : s.dev.firstScan = { s.dev with boot := { s.dev.boot with firstScan := true } } := if_pos (atStage_of hlive hst)
  show Host.Outcome.next { s with dev := s.dev.firstScan } = _
  rw [hscan]

theorem exec_coreInitComplete (c : Vector (List (BitVec 16)) 9) (s : State) :
    exec (.coreInitComplete c) s = .next { s with dev := s.dev.coreInit c } := rfl

/-- The core's initialisation fills the queues, reconciles the gauge, and arms what the call sheet arms. -/
theorem coreInit_at (d : Device) (c : Vector (List (BitVec 16)) 9) (hlive : d.live = true) (hst : d.boot.stage = 6) (hcore : d.boot.coreUp = true)
    (hauto : d.boot.autoRun = true ∨ d.boot.autoBlocked = true) :
    d.coreInit c = (List.finRange 8).foldl armStep (((d.wdtFill c).gauReconcile).stageTo 7) := by
  have hjudged : d.autoJudged = true := by
    unfold Device.autoJudged
    simpa using hauto
  exact if_pos (by rw [atStage_of hlive hst, hcore, hjudged]; rfl)

theorem filled_wd_st (d : Device) (c : Vector (List (BitVec 16)) 9) (j : Fin 9) :
    ((((d.wdtFill c).gauReconcile).stageTo 7).wd j).st = (d.wd j).st := by
  have hwdt : (((d.wdtFill c).gauReconcile).stageTo 7).wdt = (d.wdtFill c).wdt := keeps_wdt (d := d.wdtFill c) (by simp)
  unfold Device.wd
  rw [hwdt]
  exact fill_st d c j

theorem filled_wdtReg (d : Device) (c : Vector (List (BitVec 16)) 9) (j : Fin 9) (o : Nat) :
    (((d.wdtFill c).gauReconcile).stageTo 7).wdtReg j o = d.wdtReg j o := by
  have hregs : (((d.wdtFill c).gauReconcile).stageTo 7).regs = d.regs := keeps_regs (by simp)
  unfold Device.wdtReg Device.reg
  rw [hregs]

theorem coreInit_effect (d : Device) (c : Vector (List (BitVec 16)) 9) (hlive : d.live = true) (hst : d.boot.stage = 6) (hcore : d.boot.coreUp = true)
    (hauto : d.boot.autoRun = true ∨ d.boot.autoBlocked = true) :
    (d.coreInit c).boot.stage = 7 ∧
      ∀ k : Fin 9, k.val < 8 → (d.wd k).st = .disarmed → bit (d.wdtReg k 0x044) 29 = true → ((d.coreInit c).wd k).st = .run := by
  rw [coreInit_at d c hlive hst hcore hauto]
  refine ⟨by rw [fold_boot]; rfl, fun k hk hdis hsheet => ?_⟩
  exact fold_arm _ _ ⟨k.val, hk⟩ (List.mem_finRange _) k rfl ((filled_wd_st d c k).trans hdis) (by rw [filled_wdtReg]; exact hsheet)

/-- Settles O14, stage by stage. -/
theorem bootStagesComplete : Obligations.BootStagesComplete := by
  unfold Obligations.BootStagesComplete
  intro s
  refine ⟨fun s0 s1 s2 hheld hpow hup => ?release, fun hheld hpll hclk hpow => ?lock, fun hlive hst hjudged => ?trim,
    fun hlive hst hjudged => ⟨_, exec_otpBootScanComplete s, scan_boot s.dev s.fuses hlive hst hjudged⟩,
    fun hlive hst => ⟨_, exec_generationSelect s, generationSelect_effect s.dev hlive hst⟩,
    fun hlive hst => ⟨_, exec_callSheetLoad s, sheet_load s.dev hlive hst⟩,
    fun hlive hst => ⟨_, exec_patchInstall s, patchEvent_effect s.dev hlive hst⟩,
    fun hlive hst => ?core, exec_firstThermalScanComplete s,
    fun c hlive hst hcore hauto => ⟨_, exec_coreInitComplete c s, coreInit_effect s.dev c hlive hst hcore hauto⟩⟩
  case release =>
    obtain ⟨hboot, hcount⟩ := resetRelease_effect s.dev s0 s1 s2 hheld hpow hup
    refine ⟨_, exec_deviceResetRelease s0 s1 s2 s, congrArg Boot.held hboot, congrArg Boot.stage hboot, hcount, fun i hi => ?_⟩
    dsimp only
    rw [hboot]
    exact majority_bit s0 s1 s2 _ i hi
  case lock =>
    obtain ⟨hboot, hts⟩ := lock_effect s.dev hheld hpll hclk hpow
    exact ⟨_, exec_pllLock s, congrArg Boot.pllLock hboot, congrArg Boot.stage hboot, hts⟩
  case trim =>
    have hboot := trim_boot s.dev s.fuses hlive hst hjudged
    refine ⟨_, exec_trimLoad s, congrArg Boot.trimJudged hboot, congrArg Boot.trimDefault hboot, fun i => ?_⟩
    dsimp only
    rw [hboot]
    exact Vector.getElem_ofFn i.isLt
  case core =>
    refine ⟨_, exec_jtagCoreRelease s, ?_⟩
    dsimp only
    rw [jtagRelease_at _ hlive hst, coreRelease_boot]
    exact ⟨rfl, rfl⟩

/-! ## The auto-start (R90, R99, R100) -/

theorem exec_autoStart (s : State) : exec .autoStart s = .next { s with dev := s.dev.autoStart } := rfl

/-- The scene request of the auto-start: rank 4, by hardware. -/
def Device.autoRequest (d : Device) : Device :=
  d.sceneRequest (bits (wordOf d.otp.bootVal (genBase d.boot.gen + 3)) 26 24) 4 byHw

/-- The judgement of the auto-start, once, after the first thermal scan. -/
theorem autoStart_judged (d : Device) (hlive : d.live = true) (hst : d.boot.stage = 6) (hscan : d.boot.firstScan = true)
    (hrun : d.boot.autoRun = false) (hblk : d.boot.autoBlocked = false) :
    d.autoStart =
      if d.autoStartOk then
        { d.autoRequest with boot := { d.autoRequest.boot with
          autoRun := d.autoRequest.seq.reqres == 1 || d.autoRequest.seq.reqres == 2
          autoBlocked := !(d.autoRequest.seq.reqres == 1 || d.autoRequest.seq.reqres == 2) } }
      else { d with boot := { d.boot with autoBlocked := true } } := by
  have hjudged : d.autoJudged = false := by
    unfold Device.autoJudged
    rw [hrun, hblk]
    rfl
  exact if_pos (by rw [atStage_of hlive hst, hscan, hjudged]; rfl)

/-- Settles O15: the two outcomes of the judgement. -/
theorem autoStartCompletes : Obligations.AutoStartCompletes := by
  unfold Obligations.AutoStartCompletes
  intro s hlive hst hscan hrun hblk
  refine ⟨_, exec_autoStart s, ?_⟩
  dsimp only
  rw [autoStart_judged s.dev hlive hst hscan hrun hblk]
  cases hok : s.dev.autoStartOk with
  | true => exact ⟨rfl, nofun, fun _ => rfl⟩
  | false => exact ⟨by rw [if_neg (by decide)]; exact congrArg (! ·) hrun.symm, fun _ => ⟨hrun, rfl⟩, nofun⟩

end Sys2Proof.Machine
end

section
/-! SUPPORT. Refused writes, leases and the end of a context, claims and the common header: the settled statements of chapter Register Model. -/

set_option maxRecDepth 4000

namespace Sys2Proof.Machine
open Sys2Proof

/-! ## A refused write (R130) -/

theorem or_and_right_self (a e : Word) : (a ||| e) &&& e = e := by
  rw [BitVec.and_comm, BitVec.or_comm]
  apply BitVec.eq_of_getLsbD_eq
  intro i _
  simp only [BitVec.getLsbD_and, BitVec.getLsbD_or]
  cases e.getLsbD i <;> simp

/-- Settles O19: the refused write is the arrival of the access, and the error bit. -/
theorem refusedWriteOnlySetsItsError : Obligations.RefusedWriteOnlySetsItsError := by
  unfold Obligations.RefusedWriteOnlySetsItsError
  intro s src a be data e hg ha hbe hblock hspecific hbad
  have hheader : (isBlockPage (a.toNat / 0x1000) && decide (a.toNat % 0x1000 < 0x040)) = false := by
    obtain h | h := hspecific
    · rw [h, Bool.false_and]
    · rw [decide_eq_false (by omega), Bool.and_false]
  have hwrite := Device.busWrite_refused s.dev s.fuses src a.toNat be data {} e hg hbad ha hblock hheader hbe
  have htouch : Touches 2148732956 s.dev ((s.dev.arrive src a.toNat).setErr (errPage (a.toNat / 0x1000)) e) := by simp
  refine ⟨_, exec_registerWrite src a be data s, ?_⟩
  dsimp only
  rw [hwrite]
  refine ⟨?_, fun b => Device.arrive_reg s.dev src a.toNat b, rfl, changesOnly_of_touches htouch rfl⟩
  rw [updHdr_err]
  exact or_and_right_self _ e

/-! ## The contexts that an access finds (R137) -/

/-- Of the contexts, the arrival of an access renews the requester's. -/
theorem Device.arrive_ctx_renewed (d : Device) (src : Source) (a : Nat) : (d.arrive src a).ctx = (d.renew (d.requester src)).ctx := by
  have hreq : (d.tapLeaves src).requester src = d.requester src := by
    unfold Device.tapLeaves
    split <;> rfl
  have hrenew : ∀ r : Requester, ((d.tapLeaves src).renew r).ctx = (d.renew r).ctx := by
    intro r
    unfold Device.tapLeaves
    split
    · cases r <;> rfl
    · rfl
  have hcount : ∀ e : Device, ((e.pmcCountAll 0x20 1).gauTouch (a / 0x1000)).ctx = e.ctx := fun e => keeps_ctx (by simp)
  unfold Device.arrive Device.accessed
  rw [hreq]
  exact (hcount _).trans (hrenew _)

theorem Device.arrive_ctx_at (d : Device) (src : Source) (a : Nat) (n : Fin 8) :
    (d.arrive src a).ctx[n] = { d.ctx[n] with
      renewed := if d.requester src = .ctx n then d.cycle else d.ctx[n].renewed
      loaded := if d.requester src = .ctx n then d.ctx[n].leaseMs else d.ctx[n].loaded } := by
  rw [Device.arrive_ctx_renewed]
  exact Device.renew_ctx d _ n

/-- A port's access on behalf of a context comes through an open one. -/
theorem opened_of_requester {d : Device} {src : Source} {n : Fin 8} (h : d.requester src = .ctx n) : d.ctx[n].st = .opened := by
  unfold Device.requester at h
  split at h
  · split at h
    · rename_i hopen
      rw [Requester.ctx.injEq] at h
      subst h
      unfold Device.openOn Device.ctxOpen at hopen
      rw [Bool.and_eq_true] at hopen
      exact eq_of_beq hopen.1
    · cases h
  all_goals cases h

/-! ## The lease and the end of a context (R135, R137, R138, R146) -/

theorem exec_hcxLeaseWrite (src : Source) (n : Fin 8) (be : BitVec 4) (data : Word) (s : State) :
    exec (.hcxLeaseWrite src n be data) s = .next { s with dev := s.dev.busWrite s.fuses src (0x001084 + 16 * n.val) be data {} } := rfl

theorem hcxWrite_lease (d : Device) (f : OtpArray) (src : Source) (n : Fin 8) (m v : Word) :
    d.hcxWrite f src (0x084 + 16 * n.val) m v = d.hcxLease (d.requester src) n m v := by
  have hn : Fin.ofNat 8 ((0x084 + 16 * n.val - 0x080) / 16) = n := by
    apply Fin.ext
    show ((0x084 + 16 * n.val - 0x080) / 16) % 8 = n.val
    omega
  unfold Device.hcxWrite
  dsimp only
  rw [if_neg (by omega), if_neg (by omega), if_neg (by omega), if_pos (by omega), if_neg (by omega), if_pos (by omega), hn]

/-- HCX_CTXn_LEASE of context n after a write of v to the bits m. -/
def Ctx.leaseAfter (c : Ctx) (m v : Word) : Nat := clampN 1 60000 (bits (mergeWord (BitVec.ofNat 32 c.leaseMs) v m) 15 0)

theorem hcxLease_ctx_same (d : Device) (r : Requester) (n : Fin 8) (m v : Word) :
    (d.hcxLease r n m v).ctx[n] = { d.ctx[n] with
      leaseMs := d.ctx[n].leaseAfter m v
      renewed := if r = .ctx n then d.cycle else d.ctx[n].renewed
      loaded := if r = .ctx n then d.ctx[n].leaseAfter m v else d.ctx[n].loaded } := by
  unfold Device.hcxLease
  dsimp only
  by_cases hr : r = .ctx n
  · subst hr
    have hown : ∀ g : Ctx → Ctx, (d.updCtx n g).ctx[n] = g d.ctx[n] := fun g => upd_same _ _ _
    rw [if_pos rfl, if_pos rfl, if_pos rfl, Device.renew_ctx, if_pos rfl, if_pos rfl, hown]
    rfl
  · rw [if_neg hr, if_neg hr, if_neg hr]
    exact upd_same _ _ _

theorem hcxLease_ctx_other (d : Device) (r : Requester) {n j : Fin 8} (m v : Word) (h : j ≠ n) : (d.hcxLease r n m v).ctx[j] = d.ctx[j] := by
  unfold Device.hcxLease
  dsimp only
  by_cases hr : r = .ctx n
  · subst hr
    rw [if_pos rfl, renew_upd]
    exact (upd_other _ _ h).trans (upd_other _ _ h)
  · rw [if_neg hr]
    exact upd_other _ _ h

theorem exec_hcxClose (src : Source) (data : Word) (s : State) :
    exec (.hcxClose src data) s = .next { s with dev := s.dev.busWrite s.fuses src 0x001048 0xF data {} } := rfl

theorem exec_hcxEvict (src : Source) (data : Word) (s : State) :
    exec (.hcxEvict src data) s = .next { s with dev := s.dev.busWrite s.fuses src 0x00104C 0xF data {} } := rfl

theorem hcxClose_write (d : Device) (f : OtpArray) (src : Source) (v : Word) (ht : d.takes src 0x001048 0xFFFFFFFF v = true) :
    d.busWrite f src 0x001048 0xF v {} = (d.arrive src 0x001048).hcxClose f (d.requester src) v := by
  have hwrite := hcx_write d f src 0x048 0xF v {} (by decide) (by decide) (by decide) (by decide) ht
  rw [byteMask_full] at hwrite
  rw [hwrite]
  unfold Device.hcxWrite
  rw [if_neg (by decide), if_pos rfl, and_full, Device.arrive_requester]

theorem hcxEvict_write (d : Device) (f : OtpArray) (src : Source) (v : Word) (ht : d.takes src 0x00104C 0xFFFFFFFF v = true) :
    d.busWrite f src 0x00104C 0xF v {} = (d.arrive src 0x00104C).hcxEvict f (d.requester src) v := by
  have hwrite := hcx_write d f src 0x04C 0xF v {} (by decide) (by decide) (by decide) (by decide) ht
  rw [byteMask_full] at hwrite
  rw [hwrite]
  unfold Device.hcxWrite
  rw [if_neg (by decide), if_neg (by decide), if_pos rfl, and_full, Device.arrive_requester]

/-- An open context that ends shows its END code. -/
theorem ctxEnd_ending (d : Device) (f : OtpArray) (n : Fin 8) (code : Nat) (h : d.ctx[n].st = .opened) :
    (d.ctxEnd f n code).ctx[n].st = .ending ∧ (d.ctxEnd f n code).ctx[n].endCode = code := by
  rw [ctxEnd_ctx d f n code h, upd_same]
  exact ⟨rfl, rfl⟩

theorem hcxClose_key (d : Device) (f : OtpArray) (n : Fin 8) (v : Word) (hkey : bits v 15 0 = 0x5A5A) :
    d.hcxClose f (.ctx n) v = d.ctxEnd f n 2 := if_pos hkey

theorem hcxEvict_key (d : Device) (f : OtpArray) (r : Requester) (n : Fin 8) (v : Word) (hadm : d.isAdmin r = true) (hkey : bits v 31 16 = 0xE71C)
    (hn : bits v 3 0 = n.val) : d.hcxEvict f r v = d.ctxEnd f n (if r = .ctx n then 2 else 3) := by
  have hlt : bits v 3 0 < 8 := hn ▸ n.isLt
  have hfin : (⟨bits v 3 0, hlt⟩ : Fin 8) = n := Fin.ext hn
  unfold Device.hcxEvict
  rw [if_pos (by rw [hadm, hkey]; rfl), dif_pos hlt]
  dsimp only
  rw [hfin]

theorem exec_leaseExpiry {s : State} (n : Fin 8) (h : s.dev.live = true) :
    exec (.leaseExpiry n) s = .next { s with dev := s.dev.leaseExpiry s.fuses n } :=
  live_next s (fun d => d.leaseExpiry s.fuses n) h

theorem exec_contextQuarantine {s : State} (n : Fin 8) (h : s.dev.live = true) :
    exec (.contextQuarantine n) s = .next { s with dev := s.dev.ctxQuarantine n } :=
  live_next s (fun d => d.ctxQuarantine n) h

theorem exec_contextFree {s : State} (n : Fin 8) (h : s.dev.live = true) :
    exec (.contextFree n) s = .next { s with dev := s.dev.ctxFree n } :=
  live_next s (fun d => d.ctxFree n) h

theorem ctxQuarantine_drained (d : Device) (n : Fin 8) (hst : d.ctx[n].st = .ending) (hdr : ∀ r : Fin 32, (d.rg r).st ≠ .draining) :
    d.ctxQuarantine n = d.updCtx n fun c => { c with st := .quarantine } := by
  refine if_pos ?_
  rw [hst, Bool.and_eq_true, Bool.not_eq_true', List.any_eq_false]
  exact ⟨rfl, fun r _ => by simp [hdr r]⟩

/-- Settles O22: the lease by what a write leaves of each context, and each end by the END code of its command. -/
theorem leaseAndContextEndCommandsComplete : Obligations.LeaseAndContextEndCommandsComplete := by
  unfold Obligations.LeaseAndContextEndCommandsComplete
  refine ⟨fun s src n be data hbe ht => ?lease, fun s src data n => ⟨fun ht hreq hkey => ?close, fun ht hadm hkey hn hst => ?evict,
    fun hlive hst hover => ?expiry, fun hlive hleft => ?early, fun hlive hst hdr => ?quarantine, fun hlive hst => ?free⟩⟩
  case lease =>
    have haddr : 0x001084 + 16 * n.val = 0x001000 + (0x084 + 16 * n.val) := by omega
    have hwrite : s.dev.busWrite s.fuses src (0x001084 + 16 * n.val) be data {} =
        (s.dev.arrive src (0x001084 + 16 * n.val)).hcxLease (s.dev.requester src) n (byteMask be) data := by
      rw [haddr] at ht ⊢
      rw [hcx_write _ _ _ _ _ _ _ hbe (by omega) (by omega) (by omega) ht, hcxWrite_lease, Device.arrive_requester]
    refine ⟨_, exec_hcxLeaseWrite src n be data s, ?_⟩
    dsimp only
    rw [hwrite]
    have hself := hcxLease_ctx_same (s.dev.arrive src (0x001084 + 16 * n.val)) (s.dev.requester src) n (byteMask be) data
    rw [Device.arrive_ctx_at, Device.arrive_cycle] at hself
    rw [hself]
    refine ⟨rfl, fun hreq => ?_, fun hreq => ?_, rfl, fun m hm => ?_⟩
    · dsimp only
      rw [if_pos hreq, if_pos hreq]
      exact ⟨rfl, rfl⟩
    · dsimp only
      rw [if_neg hreq, if_neg hreq, if_neg hreq, if_neg hreq]
      exact ⟨rfl, rfl⟩
    · rw [hcxLease_ctx_other _ _ _ _ hm, Device.arrive_ctx_at]
  case close =>
    refine ⟨_, exec_hcxClose src data s, ?_⟩
    dsimp only
    rw [hcxClose_write _ _ _ _ ht, hreq, hcxClose_key _ _ _ _ hkey]
    exact ctxEnd_ending _ _ _ _ ((arrive_ctx_st _ _ _ _).trans (opened_of_requester hreq))
  case evict =>
    refine ⟨_, exec_hcxEvict src data s, ?_⟩
    dsimp only
    rw [hcxEvict_write _ _ _ _ ht, hcxEvict_key _ _ _ n _ (by rw [Device.arrive_isAdmin]; exact hadm) hkey hn]
    exact ctxEnd_ending _ _ _ _ ((arrive_ctx_st _ _ _ _).trans hst)
  case expiry =>
    have hend : s.dev.leaseExpiry s.fuses n = s.dev.ctxEnd s.fuses n 1 := if_pos hover
    refine ⟨_, exec_leaseExpiry n hlive, ?_⟩
    dsimp only
    rw [hend]
    exact ctxEnd_ending _ _ _ _ hst
  case early =>
    have hkeep : s.dev.leaseExpiry s.fuses n = s.dev := if_neg hleft
    rw [exec_leaseExpiry n hlive, hkeep]
  case quarantine => rw [exec_contextQuarantine n hlive, ctxQuarantine_drained _ _ hst hdr]
  case free =>
    have hfree : s.dev.ctxFree n = s.dev.updCtx n fun c => { c with st := .free } := if_pos (by rw [hst]; rfl)
    rw [exec_contextFree n hlive, hfree]

/-! ## Claims (R141 to R145) -/

theorem exec_claimRequest (src : Source) (page : Fin 256) (data : Word) (s : State) : exec (.claimRequest src page data) s =
    .next { s with dev := s.dev.busWrite s.fuses src (pageAddr page.val 0x018) 0xF (setBit (setBit data 8 true) 10 false) {} } := rfl

theorem exec_claimRelease (src : Source) (page : Fin 256) (data : Word) (s : State) : exec (.claimRelease src page data) s =
    .next { s with dev := s.dev.busWrite s.fuses src (pageAddr page.val 0x018) 0xF (setBit (setBit data 10 true) 8 false) {} } := rfl

theorem exec_ownerPolicyWrite (src : Source) (page : Fin 256) (data : Word) (s : State) : exec (.ownerPolicyWrite src page 0xF data) s =
    .next { s with dev := s.dev.busWrite s.fuses src (pageAddr page.val 0x018) 0xF (setBit (setBit data 10 false) 8 false) {} } := rfl

/-- A write of PAGE_OWNER by a known requester, on a page with an owner. -/
theorem owner_write (d : Device) (f : OtpArray) (src : Source) (page : Fin 256) (v : Word) (hg : d.gets src (pageAddr page.val 0x018) = true)
    (hp : isBlockPage page.val = true) (h3 : page.val ≠ 0x003) (hr : d.requester src ≠ .anon) :
    d.busWrite f src (pageAddr page.val 0x018) 0xF v {} =
      (d.arrive src (pageAddr page.val 0x018)).ownerWrite (d.requester src) page.val 0xFFFFFFFF v := by
  rw [Device.busWrite_head d f src page.val 0x018 v {} hg hp (by decide) (by decide), headerWrite_owner, Device.arrive_requester]
  exact if_neg (by simp [hr, h3])

theorem ownerWrite_claim (d : Device) (r : Requester) (p : Nat) (v : Word) :
    d.ownerWrite r p 0xFFFFFFFF (setBit (setBit v 8 true) 10 false) = d.claimRequest r p := by
  have h8 : bit (setBit (setBit v 8 true) 10 false) 8 = true := by simp [bit_setBit]
  have h10 : bit (setBit (setBit v 8 true) 10 false) 10 = false := by simp [bit_setBit]
  unfold Device.ownerWrite
  dsimp only
  rw [and_full, h8, h10]
  rfl

theorem ownerWrite_release (d : Device) (r : Requester) (p : Nat) (v : Word) :
    d.ownerWrite r p 0xFFFFFFFF (setBit (setBit v 10 true) 8 false) = d.claimRelease r p := by
  have h8 : bit (setBit (setBit v 10 true) 8 false) 8 = false := by simp [bit_setBit]
  have h10 : bit (setBit (setBit v 10 true) 8 false) 10 = true := by simp [bit_setBit]
  unfold Device.ownerWrite
  dsimp only
  rw [and_full, h8, h10]
  rfl

theorem ownerWrite_policy (d : Device) (r : Requester) (p : Nat) (v : Word) :
    d.ownerWrite r p 0xFFFFFFFF (setBit (setBit v 10 false) 8 false) = d.policyWrite r p 0xFFFFFFFF (setBit (setBit v 10 false) 8 false) := by
  have h8 : bit (setBit (setBit v 10 false) 8 false) 8 = false := by simp [bit_setBit]
  have h10 : bit (setBit (setBit v 10 false) 8 false) 10 = false := by simp [bit_setBit]
  unfold Device.ownerWrite
  dsimp only
  rw [and_full, h8, h10]
  rfl

theorem claimRequest_latched (d : Device) (n : Fin 8) (page : Fin 256) :
    let e := d.claimRequest (.ctx n) page.val
    { page := page, ctx := n } ∈ e.claims.reqs ∧ e.claims.frees = d.claims.frees := by
  dsimp only
  unfold Device.claimRequest
  dsimp only
  rw [pg_val]
  split
  · rename_i hin
    exact ⟨List.contains_iff_mem.1 hin, rfl⟩
  · exact ⟨List.mem_append_right _ (List.mem_singleton.2 rfl), rfl⟩

theorem claimRelease_latched (d : Device) (r : Requester) (page : Fin 256) (hown : d.ownedBy page.val r = true) (hres : (resourceOf page.val).isSome = true) :
    let e := d.claimRelease r page.val
    page ∈ e.claims.frees ∧ e.claims.reqs = d.claims.reqs := by
  dsimp only
  unfold Device.claimRelease
  rw [if_pos (by rw [hown, hres]; rfl), pg_val]
  split
  · rename_i hin
    exact ⟨List.contains_iff_mem.1 hin, rfl⟩
  · exact ⟨List.mem_append_right _ (List.mem_singleton.2 rfl), rfl⟩

theorem exec_claimArbitration {s : State} (h : s.dev.live = true) :
    exec .claimArbitration s = .next { s with dev := s.dev.claimRound s.fuses } :=
  live_next s (fun d => d.claimRound s.fuses) h

theorem arbitrate_none (d : Device) : claimPages.foldl (Device.arbitratePage []) d = d :=
  arb_fold_skip [] claimPages d fun _ _ _ hq => absurd hq List.not_mem_nil

/-- In a round with one request, every page but the one it is for is skipped. -/
theorem arbitrate_one (d : Device) (page : Fin 256) (n : Fin 8) (hres : (resourceOf page.val).isSome = true) :
    claimPages.foldl (Device.arbitratePage [(⟨page, n⟩ : ClaimReq)]) d = d.arbitratePage [(⟨page, n⟩ : ClaimReq)] page.val := by
  obtain ⟨before, after, hsplit⟩ := List.append_of_mem (claimPages_mem page hres)
  have hnodup := claimPages_nodup
  rw [hsplit, List.nodup_append] at hnodup
  obtain ⟨_, hafter, hapart⟩ := hnodup
  have hother : ∀ p ∈ claimPages, p ≠ page.val → ∀ q ∈ [(⟨page, n⟩ : ClaimReq)], q.page ≠ pg p := by
    intro p hp hne q hq heq
    rw [List.mem_singleton.1 hq] at heq
    have hval : page.val = p % 256 := congrArg Fin.val heq
    exact hne (by rw [hval, Nat.mod_eq_of_lt (claimPages_lt p hp)])
  rw [hsplit, List.foldl_append, List.foldl_cons, arb_fold_skip _ before, arb_fold_skip _ after]
  · intro p hp
    refine hother p (hsplit ▸ List.mem_append_right _ (List.mem_cons_of_mem _ hp)) ?_
    rintro rfl
    exact (List.nodup_cons.1 hafter).1 hp
  · intro p hp
    exact hother p (hsplit ▸ List.mem_append_left _ hp) fun heq => hapart p hp page.val List.mem_cons_self heq

theorem claimRound_granted (d : Device) (f : OtpArray) (page : Fin 256) (n : Fin 8) (hf : d.claims.frees = [])
    (hr : d.claims.reqs = [{ page := page, ctx := n }]) (hres : (resourceOf page.val).isSome = true) (hmode : (d.head page).mode ≠ .free)
    (hmay : d.mayClaim page.val n = true) (hown : (d.head page).owner = none) : ((d.claimRound f).head page).owner = some (.ctx n) := by
  have hok : d.claimRefused ⟨page, n⟩ = false := by
    unfold Device.claimRefused
    rw [hmay, beq_false_of_ne hmode, Option.isNone_eq_false_iff.2 hres]
    rfl
  unfold Device.claimRound
  simp only [hf, List.foldl_nil, hr, List.filter_cons, hok, Bool.not_false, List.filter_nil, if_true]
  show ((claimPages.foldl _ d).head page).owner = _
  rw [arbitrate_one d page n hres]
  exact arb_one d page n hown

theorem claimRound_refused (d : Device) (f : OtpArray) (page : Fin 256) (n : Fin 8) (hf : d.claims.frees = [])
    (hr : d.claims.reqs = [{ page := page, ctx := n }])
    (hbad : (resourceOf page.val).isNone = true ∨ (d.head page).mode = .free ∨ d.mayClaim page.val n = false) :
    ((d.claimRound f).head page).owner = (d.head page).owner ∧ bit ((d.claimRound f).head page).err 1 = true := by
  have href : d.claimRefused ⟨page, n⟩ = true := by
    unfold Device.claimRefused
    obtain h | h | h := hbad <;> simp [h]
  have hround : (d.claimRound f).head page = (d.setErr page.val errAccvio).head page := by
    unfold Device.claimRound
    simp only [hf, List.foldl_nil, hr, List.filter_cons, href, Bool.not_true, List.filter_nil, if_true, List.foldl_cons, Bool.false_eq_true, if_false]
    show (claimPages.foldl _ (d.setErr page.val errAccvio)).head page = _
    rw [arbitrate_none]
  have herr := setErr_accvio_bit d page.val
  have hhead := updHdr_err d page.val errAccvio
  rw [pg_val] at herr hhead
  rw [hround]
  exact ⟨by rw [hhead], herr⟩

theorem disown_owner (d : Device) (f : OtpArray) (page : Fin 256) (h4 : page.val = 0x004 → d.otp.run = none) :
    ((d.disown f page.val).head page).owner = none := by
  have hidle : page.val = 0x004 → (d.updHdr page fun h => { h with owner := none }).otpAbort f = d.updHdr page fun h => { h with owner := none } := by
    intro hp
    have hrun : (d.updHdr page fun h => { h with owner := none }).otp.run = none := h4 hp
    unfold Device.otpAbort
    rw [hrun]
  unfold Device.disown
  dsimp only
  rw [pg_val]
  split
  · rename_i hp
    rw [hidle hp, Device.head_updHdr]
  · rw [Device.head_updHdr]

theorem claimRound_released (d : Device) (f : OtpArray) (page : Fin 256) (hf : d.claims.frees = [page]) (hr : d.claims.reqs = [])
    (h4 : page.val = 0x004 → d.otp.run = none) : ((d.claimRound f).head page).owner = none := by
  have hreqs : (d.disown f page.val).claims.reqs = [] := by
    have hkeep : (d.disown f page.val).claims = d.claims := keeps_claims (by simp)
    rw [hkeep, hr]
  unfold Device.claimRound
  simp only [hf, List.foldl_cons, List.foldl_nil, hreqs, List.filter_nil]
  show ((claimPages.foldl _ (d.disown f page.val)).head page).owner = _
  rw [arbitrate_none]
  exact disown_owner d f page h4

/-- Settles O23: what a write of PAGE_OWNER latches, and what a round makes of it. -/
theorem claimCommandsComplete : Obligations.ClaimCommandsComplete := by
  unfold Obligations.ClaimCommandsComplete
  intro s src page data n
  refine ⟨fun hg hp h3 hreq => ?claim, fun hg hp h3 hreq hres hown => ?release, fun hlive => ?round⟩
  case claim =>
    refine ⟨_, exec_claimRequest src page data s, ?_⟩
    dsimp only
    rw [owner_write _ _ _ _ _ hg hp h3 (by rw [hreq]; nofun), ownerWrite_claim, hreq]
    have hlatch := claimRequest_latched (s.dev.arrive src (pageAddr page.val 0x018)) n page
    rw [Device.arrive_claims] at hlatch
    exact hlatch
  case release =>
    refine ⟨_, exec_claimRelease src page data s, ?_⟩
    dsimp only
    rw [owner_write _ _ _ _ _ hg hp h3 (by rw [hreq]; nofun), ownerWrite_release, hreq]
    have howned : (s.dev.arrive src (pageAddr page.val 0x018)).ownedBy page.val (.ctx n) = true := by
      unfold Device.ownedBy Device.ownerOf
      rw [pg_val, (fixed_at s.dev src _ page).1, hown]
      exact beq_self_eq_true _
    have hlatch := claimRelease_latched _ _ page howned hres
    rw [Device.arrive_claims] at hlatch
    exact hlatch
  case round =>
    exact ⟨_, exec_claimArbitration hlive, rfl, rfl,
      fun hf hr => ⟨fun hres hmode hmay hown => claimRound_granted _ _ page n hf hr hres hmode hmay hown,
        fun hbad => claimRound_refused _ _ page n hf hr hbad⟩,
      fun hf hr h4 => claimRound_released _ _ page hf hr h4⟩

/-! ## The common header (R84, R117, R120, R124) -/

theorem policyWrite_admin (d : Device) (r : Requester) (page : Fin 256) (v : Word) (hadm : d.isAdmin r = true)
    (hown : d.ownCheck r page.val 0x018 = true) (hlock : d.locked page.val = false) :
    let h := (d.policyWrite r page.val 0xFFFFFFFF v).head page
    h.expiry = expiryOf page.val (d.head page).expiry (bits v 15 14) ∧ h.mode = modeOf page.val (d.head page).mode (bits v 13 12) ∧
      h.owner = (d.head page).owner := by
  dsimp only
  unfold Device.policyWrite
  dsimp only
  rw [pg_val, merge_full, hadm, hown, hlock]
  split
  · rename_i hsame
    exact ⟨hsame.1.symm, hsame.2.symm, rfl⟩
  · simp only [Bool.not_true, Bool.false_eq_true, if_false]
    rw [Device.head_updHdr]
    exact ⟨rfl, rfl, rfl⟩

theorem anon_not_admin (d : Device) : d.isAdmin .anon = false := rfl

theorem exec_pageLockWrite (src : Source) (page : Fin 256) (b : Bool) (s : State) : exec (.pageLockWrite src page b) s =
    .next { s with dev := s.dev.busWrite s.fuses src (pageAddr page.val 0x01C) 0xF (flag 0 b) {} } := rfl

theorem lockWrite_admin (d : Device) (r : Requester) (page : Fin 256) (b : Bool) (hadm : d.isAdmin r = true) :
    let h := (d.lockWrite r page.val 0xFFFFFFFF (flag 0 b)).head page
    h.lockAdmin = b ∧ h.lockOtp = (d.head page).lockOtp := by
  have hb : (if bit (0xFFFFFFFF : Word) 0 then bit (flag 0 b) 0 else (d.head page).lockAdmin) = b := by
    rw [if_pos (by decide), flag_bit _ _ _ (by decide), decide_eq_true rfl, Bool.and_true]
  dsimp only
  unfold Device.lockWrite
  rw [pg_val]
  dsimp only
  rw [hb, hadm]
  split
  · rename_i hsame
    exact ⟨hsame.symm, rfl⟩
  · simp only [Bool.not_true, Bool.false_eq_true, if_false]
    rw [Device.head_updHdr]
    exact ⟨rfl, rfl⟩

theorem lock_write (d : Device) (f : OtpArray) (src : Source) (page : Fin 256) (b : Bool) (hg : d.gets src (pageAddr page.val 0x01C) = true)
    (hp : isBlockPage page.val = true) (hadm : d.isAdmin (d.requester src) = true) (hpriv : d.privCheck (d.requester src) page.val 0x01C = true)
    (hown : d.ownCheck (d.requester src) page.val 0x01C = true) :
    d.busWrite f src (pageAddr page.val 0x01C) 0xF (flag 0 b) {} =
      (d.arrive src (pageAddr page.val 0x01C)).lockWrite (d.requester src) page.val 0xFFFFFFFF (flag 0 b) := by
  rw [Device.busWrite_head d f src page.val 0x01C _ {} hg hp (by decide) (by decide), headerWrite_lock, Device.arrive_requester,
    Device.arrive_privCheck, Device.arrive_isAdmin, Device.arrive_ownCheck, hadm, hpriv, hown]
  simp

theorem exec_pageFreezeWrite (src : Source) (page : Fin 256) (b : Bool) (s : State) : exec (.pageFreezeWrite src page b) s =
    .next { s with dev := s.dev.busWrite s.fuses src (pageAddr page.val 0x008) 0xF (setBit (s.dev.ctlWord page) 2 b) {} } := rfl

theorem exec_blockSoftReset (src : Source) (page : Fin 256) (s : State) : exec (.blockSoftReset src page) s =
    .next { s with dev := s.dev.busWrite s.fuses src (pageAddr page.val 0x008) 0xF (setBit (s.dev.ctlWord page) 1 true) {} } := rfl

theorem ctlWord_srst (d : Device) (p : Fin 256) : bit (d.ctlWord p) 1 = false := by
  unfold Device.ctlWord
  rw [bit_setBit _ _ _ _ (by decide), if_pos rfl]

/-- A write of PAGE_CTL that keeps ENABLE and does not reset, with FREEZE at b. -/
theorem ctlWrite_freeze (d : Device) (src : Source) (page : Fin 256) (v : Word) (b : Bool) (hen : bit v 0 = bit (d.head page).ctl 0)
    (hsrst : bit v 1 = false) (hfr : bit v 2 = b) (h40 : page.val = 0x040 → bit v 0 = true) :
    let h := (d.ctlWrite src page.val 0xFFFFFFFF v).head page
    bit h.ctl 2 = b ∧ bit h.ctl 0 = bit (d.head page).ctl 0 := by
  have hhdr := enable_same d page.val (bit v 0) (d.requester src).code (by rw [pg_val]; exact hen) h40
  have hfreeze := freeze_head (d.enableWrite page.val (bit v 0) (d.requester src).code) src page.val b
  rw [pg_val] at hfreeze
  dsimp only
  rw [ctlWrite_full, hsrst, hfr]
  refine ⟨hfreeze.1, hfreeze.2.trans ?_⟩
  unfold Device.head
  rw [hhdr]

theorem softReset_clk (d : Device) (who : Nat) :
    d.softReset 0x002 who = { d with boot := { d.boot with aoLoss := 0, pcieLoss := 0, perst := 0 } } := rfl

theorem softReset_cue (d : Device) (who : Nat) : d.softReset 0x0C8 who = (d.setReg cueStatAddr 0).setReg cueLastAddr 0 := rfl

theorem ctlWrite_srst (d : Device) (src : Source) (p : Nat) (v : Word) (h : bit v 1 = true) :
    d.ctlWrite src p 0xFFFFFFFF v = ((d.enableWrite p (bit v 0) (d.requester src).code).freezeWrite src p (bit v 2)).softReset p (d.requester src).code := by
  rw [ctlWrite_full, h]
  rfl

/-- Settles O24, header register by header register. -/
theorem headerCommandsComplete : Obligations.HeaderCommandsComplete := by
  unfold Obligations.HeaderCommandsComplete
  intro s src page data b hp h3
  have hctl := fun a => (fixed_all s.dev src a page).2.2.2.2.2
  refine ⟨fun hg hadm hown hlock => ?policy, fun hg hadm hpriv hown => ?lock, fun ht h40 => ?freeze, fun ht => ?srst⟩
  case policy =>
    have hanon : s.dev.requester src ≠ .anon := by
      intro h
      rw [h, anon_not_admin] at hadm
      cases hadm
    have heffect := policyWrite_admin (s.dev.arrive src (pageAddr page.val 0x018)) (s.dev.requester src) page (setBit (setBit data 10 false) 8 false)
      (by rw [Device.arrive_isAdmin]; exact hadm) (by rw [Device.arrive_ownCheck]; exact hown) (by rw [Device.arrive_locked]; exact hlock)
    obtain ⟨hfo, hfm, hfe, -⟩ := fixed_all s.dev src (pageAddr page.val 0x018) page
    have hbits : ∀ h l, 10 < l → bits (setBit (setBit data 10 false) 8 false) h l = bits data h l := fun h l hl => by
      rw [bits_setBit_other _ _ _ _ _ (.inr (by omega)), bits_setBit_other _ _ _ _ _ (.inr hl)]
    rw [hbits 15 14 (by decide), hbits 13 12 (by decide), hfo, hfm, hfe] at heffect
    refine ⟨_, exec_ownerPolicyWrite src page data s, ?_⟩
    dsimp only
    rw [owner_write _ _ _ _ _ hg hp h3 hanon, ownerWrite_policy]
    exact heffect
  case lock =>
    have heffect := lockWrite_admin (s.dev.arrive src (pageAddr page.val 0x01C)) (s.dev.requester src) page b (by rw [Device.arrive_isAdmin]; exact hadm)
    rw [(fixed_all s.dev src (pageAddr page.val 0x01C) page).2.2.2.1] at heffect
    refine ⟨_, exec_pageLockWrite src page b s, ?_⟩
    dsimp only
    rw [lock_write _ _ _ _ _ hg hp hadm hpriv hown]
    exact heffect
  case freeze =>
    have hen : bit (setBit (s.dev.ctlWord page) 2 b) 0 = bit (s.dev.head page).ctl 0 := by
      rw [bit_setBit _ _ _ _ (by decide), if_neg (by decide), ctlWord_bit _ _ _ (by decide)]
    have heffect := ctlWrite_freeze (s.dev.arrive src (pageAddr page.val 0x008)) src page (setBit (s.dev.ctlWord page) 2 b) b
      (by rw [hctl]; exact hen) (by rw [bit_setBit _ _ _ _ (by decide), if_neg (by decide), ctlWord_srst])
      (by rw [bit_setBit _ _ _ _ (by decide), if_pos rfl]) (fun h => hen.trans (h40 h))
    rw [hctl] at heffect
    refine ⟨_, exec_pageFreezeWrite src page b s, ?_⟩
    dsimp only
    rw [head_write_ctl _ _ _ _ _ hp ht]
    exact heffect
  case srst =>
    have hsrst : bit (setBit (s.dev.ctlWord page) 1 true) 1 = true := by rw [bit_setBit _ _ _ _ (by decide), if_pos rfl]
    refine ⟨_, exec_blockSoftReset src page s, ?_⟩
    dsimp only
    rw [head_write_ctl _ _ _ _ _ hp ht, ctlWrite_srst _ _ _ _ hsrst]
    refine ⟨fun h2 => ?_, fun h8 hcanon => ?_⟩
    · rw [h2, softReset_clk]
      exact ⟨rfl, rfl, rfl⟩
    · rw [h8, softReset_cue]
      have hc := Device.setReg_canon (((s.dev.arrive src (pageAddr 0x0C8 0x008)).enableWrite 0x0C8 (bit (setBit (s.dev.ctlWord page) 1 true) 0)
        ((s.dev.arrive src (pageAddr 0x0C8 0x008)).requester src).code).freezeWrite src 0x0C8 (bit (setBit (s.dev.ctlWord page) 1 true) 2)) cueStatAddr 0
        (by simp [arrive_canon, hcanon])
      refine ⟨?_, Device.reg_setReg _ _ _ hc⟩
      rw [Device.reg_setReg_other _ _ _ (by decide)]
      exact Device.reg_setReg _ _ _ (by simp [arrive_canon, hcanon])

end Sys2Proof.Machine
end

section
/-! SUPPORT. The PCIe endpoint: the settled statement of its requests and events. -/

set_option maxRecDepth 4000

namespace Sys2Proof.Machine
open Sys2Proof

/-! ## The endpoint's own operations -/

theorem complete_pcie (d : Device) (c : PcieCpl) (ws : List Word) : (d.complete c ws).pcie = { d.pcie with cpl := c, data := ws } := rfl

theorem complete_regs (d : Device) (c : PcieCpl) (ws : List Word) : (d.complete c ws).regs = d.regs := rfl

theorem complete_head (d : Device) (c : PcieCpl) (ws : List Word) (p : Fin 256) : (d.complete c ws).head p = d.head p := rfl

/-- Whether a request reaches the endpoint depends on the supplies, the resets and PERSTn. -/
theorem pcieAnswers_of {d e : Device} (hb : e.boot = d.boot) (hp : e.pcie.perstLow = d.pcie.perstLow) : e.pcieAnswers = d.pcieAnswers := by
  unfold Device.pcieAnswers Device.powered
  rw [hb, hp]

theorem perstLow_of_answers {d : Device} (h : d.pcieAnswers = true) : d.pcie.perstLow = false := by
  unfold Device.pcieAnswers at h
  simp only [Bool.and_eq_true, Bool.not_eq_true'] at h
  exact h.1.1.2

theorem hotReset_pcie {d : Device} (h : d.pcieAnswers = true) : d.hotReset.pcie = pcie0 false := by
  unfold Device.hotReset
  rw [if_pos h, pcieReset_pcie, perstLow_of_answers h]

theorem d3hotEnter_pcie {d : Device} (h : d.pcieAnswers = true) : d.d3hotEnter.pcie = { d.pcie with d3hot := true } := by
  unfold Device.d3hotEnter
  rw [if_pos h, ringsHost_pcie]
  rfl

theorem d0Enter_pcie {d : Device} (h : d.pcieAnswers = true) : ∃ p, d.d0Enter.pcie = { d.pcie with d3hot := false, pending := p } := by
  unfold Device.d0Enter
  rw [if_pos h]
  obtain ⟨p, hp, -⟩ := flush_pcie (d.updPcie fun x => { x with d3hot := false }).ringsHost
  exact ⟨p, by rw [hp, ringsHost_pcie]; rfl⟩

/-- While Enable is 0 no vector is pending (R165). -/
theorem msixEnable_pcie {d : Device} (h : d.pcieAnswers = true) (en fm : Bool) :
    ∃ p, (d.msixEnable en fm).pcie = { d.pcie with msixEn := en, funcMask := fm, pending := p } ∧ (en = false → p = 0) := by
  unfold Device.msixEnable
  rw [if_pos h]
  obtain ⟨p, hp, hsub, -⟩ := flush_pcie (d.updPcie fun x => { x with msixEn := en, funcMask := fm, pending := if en then x.pending else 0 })
  refine ⟨p, hp, fun hen => ?_⟩
  subst hen
  apply BitVec.eq_of_getLsbD_eq
  intro i _
  show p.getLsbD i = (0#16).getLsbD i
  rw [BitVec.getLsbD_zero, Bool.eq_false_iff]
  intro hi
  have hpend : (0#16).getLsbD i = true := hsub i hi
  rw [BitVec.getLsbD_zero] at hpend
  exact absurd hpend (by decide)

theorem linkUp_pcie {d : Device} (h : d.pcieAnswers = true) : ∃ p, d.linkUp.pcie = { d.pcie with d3hot := false, linkUp := true, pending := p } := by
  unfold Device.linkUp
  rw [if_pos h]
  obtain ⟨p, hp, -⟩ := flush_pcie ((d.updPcie fun x => { x with d3hot := false }).linkSet true)
  exact ⟨p, by rw [hp, linkSet_pcie]; rfl⟩

/-! ## Configuration requests (R161, R162, R165, R167) -/

theorem byteMask_low {be : BitVec 4} (h : be.getLsbD 0 = true) {i : Nat} (hi : i < 8) : bit (byteMask be) i = true := by
  have : ∀ be : BitVec 4, be.getLsbD 0 = true → ∀ i : Fin 8, bit (byteMask be) i.val = true := by decide
  exact this be h ⟨i, hi⟩

theorem byteMask_high {be : BitVec 4} (h : be.getLsbD 3 = true) : bit (byteMask be) 30 = true ∧ bit (byteMask be) 31 = true := by
  have : ∀ be : BitVec 4, be.getLsbD 3 = true → bit (byteMask be) 30 = true ∧ bit (byteMask be) 31 = true := by decide
  exact this be h

/-- What the effect of a configuration write leaves of configuration space: all of it, unless it is a Function Level Reset. -/
theorem cfgEffect_cfg {d : Device} (h : d.pcieAnswers = true) (i : Nat) (v m : Word) (hflr : i ≠ 30 ∨ bit (v &&& m) 15 = false) :
    (d.cfgEffect i v m).pcie.cfg = d.pcie.cfg := by
  unfold Device.cfgEffect
  split
  · split
    · split
      · obtain ⟨p, hp⟩ := d0Enter_pcie h
        rw [hp]
      · rfl
    · split
      · rfl
      · rw [d3hotEnter_pcie h]
    · rfl
  · dsimp only
    obtain ⟨p, hp, -⟩ := msixEnable_pcie h (bit (mergeWord (d.cfgWord 20) v m) 31) (bit (mergeWord (d.cfgWord 20) v m) 30)
    rw [hp]
  · rw [if_neg (by rw [hflr.resolve_left (by omega)]; decide)]
  · split <;> rfl
  · rfl

theorem cfgEffect_flr {d : Device} (h : d.pcieAnswers = true) (v m : Word) (hb : bit (v &&& m) 15 = true) :
    (d.cfgEffect 30 v m).pcie = pcie0 false := by
  show (if bit (v &&& m) 15 then d.hotReset else d).pcie = _
  rw [if_pos hb, hotReset_pcie h]

/-- The power state of a write whose byte 0 is enabled (R167). -/
theorem cfgEffect_power {d : Device} (h : d.pcieAnswers = true) (v m : Word) (hm : ∀ i < 8, bit m i = true) :
    (bits v 1 0 = 3 → (d.cfgEffect 17 v m).pcie.d3hot = true) ∧ (bits v 1 0 = 0 → (d.cfgEffect 17 v m).pcie.d3hot = false) := by
  have hv : bits (mergeWord (d.cfgWord 17) v m) 1 0 = bits v 1 0 := bits_congr fun i _ hi => by
    rw [bit_mergeWord, if_pos (hm i (by omega))]
  show (_ → (match bits (mergeWord (d.cfgWord 17) v m) 1 0 with
      | 0 => if d.pcie.d3hot then d.d0Enter else d | 3 => if d.pcie.d3hot then d else d.d3hotEnter | _ => d).pcie.d3hot = true) ∧
    (_ → (match bits (mergeWord (d.cfgWord 17) v m) 1 0 with
      | 0 => if d.pcie.d3hot then d.d0Enter else d | 3 => if d.pcie.d3hot then d else d.d3hotEnter | _ => d).pcie.d3hot = false)
  rw [hv]
  refine ⟨fun h3 => ?_, fun h0 => ?_⟩
  · rw [h3]
    show (if d.pcie.d3hot then d else d.d3hotEnter).pcie.d3hot = true
    split
    · assumption
    · rw [d3hotEnter_pcie h]
  · rw [h0]
    show (if d.pcie.d3hot then d.d0Enter else d).pcie.d3hot = false
    split
    · obtain ⟨p, hp⟩ := d0Enter_pcie h
      rw [hp]
    · rename_i hd; exact Bool.eq_false_iff.2 hd

theorem cfgEffect_msix {d : Device} (h : d.pcieAnswers = true) (v m : Word) (hm : bit m 30 = true ∧ bit m 31 = true) :
    (d.cfgEffect 20 v m).pcie.msixEn = bit v 31 ∧ (d.cfgEffect 20 v m).pcie.funcMask = bit v 30 := by
  show (d.msixEnable (bit (mergeWord (d.cfgWord 20) v m) 31) (bit (mergeWord (d.cfgWord 20) v m) 30)).pcie.msixEn = _ ∧
    (d.msixEnable (bit (mergeWord (d.cfgWord 20) v m) 31) (bit (mergeWord (d.cfgWord 20) v m) 30)).pcie.funcMask = _
  obtain ⟨p, hp, -⟩ := msixEnable_pcie h (bit (mergeWord (d.cfgWord 20) v m) 31) (bit (mergeWord (d.cfgWord 20) v m) 30)
  rw [hp]
  dsimp only
  rw [bit_mergeWord, bit_mergeWord, if_pos hm.1, if_pos hm.2]
  exact ⟨rfl, rfl⟩

theorem cfgEffect_aer (d : Device) (v m : Word) (hb : bit (v &&& m) 15 = true) : (d.cfgEffect 65 v m).pcie.aerCa = false := by
  show (if bit (v &&& m) 15 then d.updPcie fun x => { x with aerCa := false } else d).pcie.aerCa = false
  rw [if_pos hb]
  rfl

/-- The device that a configuration request finds, with its packets counted. -/
theorem tlpBoth_pcie (d : Device) : d.tlpIn.tlpOut.pcie = d.pcie ∧ d.tlpIn.tlpOut.boot = d.boot := by
  rw [tlpOut_pcie, tlpIn_pcie, tlpOut_boot, tlpIn_boot]
  exact ⟨rfl, rfl⟩

theorem configRequest_retry {d : Device} (h : d.pcieAnswers = true) (i : Fin 1024) (w : Option Dw) (h5 : d.boot.stage < 5) (hc : d.boot.clkFailed = false) :
    d.configRequest i w = d.tlpIn.tlpOut.complete .retry [] := by
  unfold Device.configRequest
  rw [if_neg (by rw [h]; decide)]
  dsimp only
  rw [(tlpBoth_pcie d).2, if_pos (by simp [h5, hc])]

/-- The stored bits of a configuration write of x to DW i. -/
def Pcie.cfgStored (x : Pcie) (i : Nat) (w : Dw) : Pcie :=
  { x with cfg := storeSet x.cfg i (mergeWord ((storeFind x.cfg i).getD (cfgWord0 i)) w.data (byteMask w.be &&& cfgMask i)) (cfgWord0 i) }

theorem not_retried {d : Device} (h5 : 5 ≤ d.boot.stage ∨ d.boot.clkFailed = true) : ¬(decide (d.tlpIn.tlpOut.boot.stage < 5) && !d.tlpIn.tlpOut.boot.clkFailed) = true := by
  rw [(tlpBoth_pcie d).2]
  simp only [Bool.and_eq_true, decide_eq_true_eq, Bool.not_eq_true', not_and, Bool.not_eq_false]
  intro hlt
  exact h5.resolve_left (by omega)

section
variable {d : Device} (h : d.pcieAnswers = true) (i : Fin 1024) (h5 : 5 ≤ d.boot.stage ∨ d.boot.clkFailed = true)
include h h5

theorem configRequest_read : d.configRequest i none = d.tlpIn.tlpOut.complete .success [d.tlpIn.tlpOut.cfgWord i.val] := by
  unfold Device.configRequest
  rw [if_neg (by rw [h]; decide)]
  exact if_neg (not_retried h5)

theorem configRequest_write (w : Dw) : d.configRequest i (some w) =
    ((d.tlpIn.tlpOut.updPcie fun x => x.cfgStored i.val w).cfgEffect i.val w.data (byteMask w.be)).complete .success [] := by
  unfold Device.configRequest
  rw [if_neg (by rw [h]; decide)]
  exact if_neg (not_retried h5)
end

theorem cfgWord_of {d e : Device} (h : e.pcie = d.pcie) (i : Nat) : e.cfgWord i = d.cfgWord i := by
  unfold Device.cfgWord
  rw [h]

/-! ## Memory requests of one DW (R161, R164) -/

theorem countedIn_regs (d : Device) (bar : Bar) (wr : Bool) (o : Nat) (x : Dw) : (d.countedIn bar wr o x).regs = d.regs := by
  obtain h | h := countedIn_or d bar wr o x <;> rw [h]
  exact tlpIn_regs d

theorem countedOut_regs (d : Device) (bar : Bar) (o : Nat) (x : Dw) : (d.countedOut bar o x).regs = d.regs := by
  obtain h | h := countedOut_or d bar o x <;> rw [h]
  exact tlpOut_regs d

theorem countedOut_err (d : Device) (bar : Bar) (o : Nat) (x : Dw) (p : Fin 256) : ((d.countedOut bar o x).head p).err = (d.head p).err := by
  obtain h | h := countedOut_or d bar o x <;> rw [h]
  exact tlpOut_head d p

theorem unaligned_boot (d : Device) (src : Source) (a : Nat) : (d.unaligned src a).boot = d.boot := keeps_boot (by unfold Device.unaligned; simp)

/-- A refused access shows UNALIGNED on its page (R7). -/
theorem unaligned_bit (d : Device) (src : Source) (a : Nat) (h : (blockOf (a / 0x1000)).isSome = true) :
    bit ((d.unaligned src a).head (pg (errPage (a / 0x1000)))).err 0 = true := by
  unfold Device.unaligned
  dsimp only
  rw [if_pos h]
  exact setErr_bit _ _ 0 (by decide)

/-- One DW that lies in a BAR of register space, of which some byte is enabled, and that the fabric takes. -/
structure OneDw (d : Device) (bar : Bar) (o : Nat) (x : Dw) : Prop where
  answers : d.pcieAnswers = true
  registers : bar ≠ .bar4
  aligned : o % 4 = 0
  inside : o + 4 ≤ barSize bar
  enabled : x.be ≠ 0
  reached : d.barOpen bar o 1 = true

section
variable {d : Device} {bar : Bar} {o : Nat} {x : Dw} (h : OneDw d bar o x) (f : OtpArray)
include h

theorem memRequest_readOne (hbe : alignedBe x.be = true) : d.memRequest f bar false o [x] =
    (((d.countedIn bar false o x).readWord (barTarget bar o).2 (barTarget bar o).1).2.countedOut bar o x).complete .success
      [((d.countedIn bar false o x).readWord (barTarget bar o).2 (barTarget bar o).1).1 &&& byteMask x.be] := by
  rw [mem_one d f bar false o x h.answers h.registers h.aligned h.inside h.enabled h.reached, if_pos hbe, if_neg (by decide)]

theorem memRequest_writeOne (hbe : alignedBe x.be = true) : d.memRequest f bar true o [x] =
    (d.tlpIn.writeWord f (barTarget bar o).2 (barTarget bar o).1 (byteMask x.be) x.data).complete .none [] := by
  rw [mem_one d f bar true o x h.answers h.registers h.aligned h.inside h.enabled h.reached, if_pos hbe, if_pos rfl]

theorem memRequest_readUnaligned (hbe : alignedBe x.be = false) : d.memRequest f bar false o [x] =
    (((d.countedIn bar false o x).unaligned (barTarget bar o).2 (barTarget bar o).1).countedOut bar o x).complete .completerAbort [] := by
  rw [mem_one d f bar false o x h.answers h.registers h.aligned h.inside h.enabled h.reached, if_neg (by rw [hbe]; decide)]
  rfl

theorem memRequest_writeUnaligned (hbe : alignedBe x.be = false) : d.memRequest f bar true o [x] =
    ((d.tlpIn.unaligned (barTarget bar o).2 (barTarget bar o).1).updPcie fun y => { y with aerCa := y.aerCa || !d.boot.clkFailed }).complete .none [] := by
  rw [mem_one d f bar true o x h.answers h.registers h.aligned h.inside h.enabled h.reached, if_neg (by rw [hbe]; decide)]
  dsimp only
  rw [if_pos rfl, countedIn_write, unaligned_boot, tlpIn_boot]
end

/-! ## PERSTn and the masks of the vectors (R86, R166) -/

theorem perst_falls {d : Device} (h : d.pcie.perstLow = false) :
    (d.perst true).pcie = pcie0 true ∧
      (d.perst true).boot.perst = if d.boot.held || d.boot.clkFailed then d.boot.perst else satInc 255 d.boot.perst := by
  unfold Device.perst
  rw [h, if_neg (by decide)]
  dsimp only
  rw [if_pos rfl, pcieReset_pcie]
  refine ⟨rfl, ?_⟩
  have hb : ∀ e : Device, e.pcieReset.boot = e.boot := fun e => keeps_boot (by simp)
  rw [hb]
  rfl

theorem perst_rises {d : Device} (h : d.pcie.perstLow = true) : d.perst false = { d with pcie := { d.pcie with perstLow := false } } := by
  unfold Device.perst
  rw [h, if_neg (by decide)]
  rfl

/-- What the mask of a vector, or the Function Mask, cleared leaves of the endpoint (R166). -/
def Pcie.unmask (x : Pcie) (v : Option (Fin 16)) : Pcie :=
  match v with
  | some n => { x with vecMask := x.vecMask &&& ~~~(BitVec.ofNat 16 (2 ^ n.val)) }
  | none => { x with funcMask := false }

theorem msixUnmask_pcie {d : Device} (h : d.pcieAnswers = true) (v : Option (Fin 16)) :
    ∃ p, (d.msixUnmask v).pcie = { d.pcie.unmask v with pending := p } ∧
      ((d.msixUnmask v).pcieMayIssue = true → (d.pcie.unmask v).msixEn = true → (d.pcie.unmask v).funcMask = false →
        ∀ i, p.getLsbD i = true → (d.pcie.unmask v).vecMask.getLsbD i = true) := by
  have hrun : d.msixUnmask v = (d.updPcie fun x => x.unmask v).msixFlush := by
    unfold Device.msixUnmask
    rw [if_pos h]
    cases v <;> rfl
  rw [hrun]
  obtain ⟨p, hp, -, hsent, hb⟩ := flush_pcie (d.updPcie fun x => x.unmask v)
  refine ⟨p, hp, fun hissue hen hfm i hi => ?_⟩
  have hi16 : i < 16 := by
    by_contra hge
    rw [BitVec.getLsbD_of_ge _ _ (by omega)] at hi
    exact absurd hi (by decide)
  rw [mayIssue_pending hb hp] at hissue
  exact hsent ⟨i, hi16⟩ hen hfm hissue hi

theorem unmask_one (x : Pcie) (n : Fin 16) (i : Nat) : (x.unmask (some n)).vecMask.getLsbD i = (x.vecMask.getLsbD i && decide (i ≠ n.val)) := by
  show (x.vecMask &&& ~~~(BitVec.ofNat 16 (2 ^ n.val))).getLsbD i = _
  rw [BitVec.getLsbD_and, BitVec.getLsbD_not, one_bit _ _ n.isLt]
  by_cases hi : i < 16
  · simp [hi]
  · rw [BitVec.getLsbD_of_ge _ _ (by omega)]
    rfl

/-! ## The statement -/

theorem exec_pcieConfigRequest (reg : Fin 1024) (w : Option Dw) (s : State) :
    exec (.pcieConfigRequest reg w) s = .next { s with dev := s.dev.configRequest reg w } := rfl

theorem exec_pcieMemRequest (bar : Bar) (wr : Bool) (o : Nat) (dws : List Dw) (s : State) :
    exec (.pcieMemRequest bar wr o dws) s = .next { s with dev := s.dev.memRequest s.fuses bar wr o dws } := rfl

/-- A configuration write: the stored bits, and the effects of the words that have one. -/
theorem configWrite_effect {d : Device} (h : d.pcieAnswers = true) (reg : Fin 1024) (x : Dw) (h5 : 5 ≤ d.boot.stage ∨ d.boot.clkFailed = true) :
    let e := d.configRequest reg (some x)
    (reg.val ≠ 30 ∨ bit (x.data &&& byteMask x.be) 15 = false → e.pcie.cfg = storeSet d.pcie.cfg reg.val
      (mergeWord ((storeFind d.pcie.cfg reg.val).getD (cfgWord0 reg.val)) x.data (byteMask x.be &&& cfgMask reg.val)) (cfgWord0 reg.val)) ∧
    (reg.val = 30 → bit (x.data &&& byteMask x.be) 15 = true → e.pcie = { pcie0 false with cpl := .success }) ∧
    (reg.val = 17 → x.be.getLsbD 0 = true → (bits x.data 1 0 = 3 → e.pcie.d3hot = true) ∧ (bits x.data 1 0 = 0 → e.pcie.d3hot = false)) ∧
    (reg.val = 20 → x.be.getLsbD 3 = true → e.pcie.msixEn = bit x.data 31 ∧ e.pcie.funcMask = bit x.data 30) ∧
    (reg.val = 65 → bit (x.data &&& byteMask x.be) 15 = true → e.pcie.aerCa = false) := by
  dsimp only
  rw [configRequest_write h reg h5]
  obtain ⟨hp, hb⟩ := tlpBoth_pcie d
  have hcfg : (d.tlpIn.tlpOut.updPcie fun y => y.cfgStored reg.val x).pcie.cfg = (d.pcie.cfgStored reg.val x).cfg := by
    show (d.tlpIn.tlpOut.pcie.cfgStored reg.val x).cfg = _
    rw [hp]
  have ha : (d.tlpIn.tlpOut.updPcie fun y => y.cfgStored reg.val x).pcieAnswers = true :=
    (pcieAnswers_of (d := d) hb (congrArg Pcie.perstLow hp)).trans h
  generalize (d.tlpIn.tlpOut.updPcie _) = e at hcfg ha
  rw [complete_pcie]
  refine ⟨fun hflr => (cfgEffect_cfg ha _ _ _ hflr).trans hcfg, fun hr hset => ?_, fun hr hbe => ?_, fun hr hbe => ?_, fun hr hset => ?_⟩ <;> rw [hr]
  · rw [cfgEffect_flr ha _ _ hset]
    rfl
  · exact cfgEffect_power ha _ _ fun i hi => byteMask_low hbe hi
  · exact cfgEffect_msix ha _ _ (byteMask_high hbe)
  · exact cfgEffect_aer _ _ _ hset

/-- Settles O25: each request and event by the lemma of the operation it runs. -/
theorem pcieCommandsComplete : Obligations.PcieCommandsComplete := by
  unfold Obligations.PcieCommandsComplete
  refine ⟨fun s ha => ⟨fun reg w => ⟨_, exec_pcieConfigRequest reg w s, keeps_regs (by simp), ?retry, ?done⟩, fun bar o x h4 ho hs hb hop => ?mem⟩,
    fun s => ⟨fun hp => ⟨_, rfl, perst_falls hp⟩, fun hp => ?rises, fun ha => ⟨⟨_, rfl, hotReset_pcie ha⟩, ?linkUp, ⟨_, rfl, d3hotEnter_pcie ha⟩, ?enable, ?unmask⟩⟩⟩
  case retry =>
    rintro ⟨h5, hc⟩
    rw [configRequest_retry ha reg w h5 hc, complete_pcie, (tlpBoth_pcie _).1]
    exact ⟨rfl, rfl⟩
  case done =>
    refine fun h5 => ⟨?_, fun hw => ?_, fun x hw => ?_⟩
    · cases w with
      | none => rw [configRequest_read ha reg h5]; rfl
      | some x => rw [configRequest_write ha reg h5]; rfl
    · subst hw
      rw [configRequest_read ha reg h5, complete_pcie, cfgWord_of (tlpBoth_pcie s.dev).1, (tlpBoth_pcie s.dev).1]
      exact ⟨rfl, rfl⟩
    · subst hw
      exact configWrite_effect ha reg x h5
  case mem =>
    have hone : OneDw s.dev bar o x := ⟨ha, h4, ho, hs, hb, hop⟩
    refine ⟨fun hbe => ⟨⟨_, exec_pcieMemRequest .., ?_⟩, ⟨_, exec_pcieMemRequest .., memRequest_writeOne hone s.fuses hbe⟩⟩,
      fun hbe => ⟨⟨_, exec_pcieMemRequest .., ?_⟩, ⟨_, exec_pcieMemRequest .., ?_⟩⟩⟩ <;> dsimp only
    · rw [memRequest_readOne hone s.fuses hbe]
      exact ⟨rfl, rfl⟩
    · rw [memRequest_readUnaligned hone s.fuses hbe]
      refine ⟨rfl, ?_, fun hblock => ?_⟩
      · rw [complete_regs, countedOut_regs, unaligned_regs, countedIn_regs]
      · rw [complete_head, countedOut_err]
        exact unaligned_bit _ _ _ hblock
    · rw [memRequest_writeUnaligned hone s.fuses hbe]
      refine ⟨rfl, ?_, fun hc => ?_, fun hblock => unaligned_bit _ _ _ hblock⟩
      · rw [complete_regs]
        exact (unaligned_regs _ _ _).trans (tlpIn_regs _)
      · show (_ || !s.dev.boot.clkFailed) = true
        rw [hc]
        exact Bool.or_true _
  case rises => exact congrArg (fun e : Device => Host.Outcome.next ({ s with dev := e } : State)) (perst_rises hp)
  case linkUp =>
    obtain ⟨p, hp⟩ := linkUp_pcie ha
    exact ⟨_, rfl, by rw [hp], by rw [hp]⟩
  case enable =>
    intro en fm
    obtain ⟨p, hp, hoff⟩ := msixEnable_pcie ha en fm
    exact ⟨_, rfl, by rw [hp], by rw [hp], by rw [hp], fun hen => by rw [hp]; exact hoff hen⟩
  case unmask =>
    intro v
    obtain ⟨p, hp, hsent⟩ := msixUnmask_pcie ha v
    refine ⟨_, rfl, fun hv => ?_, fun n hv => ?_, ?_⟩ <;> dsimp only <;> rw [hp]
    · subst hv
      exact ⟨rfl, rfl⟩
    · subst hv
      exact ⟨rfl, unmask_one s.dev.pcie n⟩
    · exact hsent

end Sys2Proof.Machine
end

section
/-! SUPPORT. Register frames: the settled statement of their checks and of what they do. -/

set_option maxRecDepth 4000

namespace Sys2Proof.Machine
open Sys2Proof

/-! ## The failing conditions of a frame with its header (R170, R172, R726) -/

theorem frameResult_header (l : FrameLimits) (rd : Bool) (cmd a2 a1 a0 h : Byte) (rest : List Byte) (hready : l.notReady = false) :
    frameResult l rd (cmd :: a2 :: a1 :: a0 :: h :: rest) =
      let n := cmd.toNat % 8 + 1
      let a := a2.toNat * 65536 + a1.toNat * 256 + a0.toNat
      if crc8 [cmd, a2, a1, a0] ≠ h then 3
      else if l.words < n ∨ 0xFFFFFC < a + 4 * (n - 1) ∨ (if rd then l.mrl < 4 * n + 2 else l.mwl < 4 * n + 6) then 4
      else if a % 4 ≠ 0 then 1
      else if rd then 0
      else if rest.length < 4 * n + 1 then 4
      else if crc8 (rest.take (4 * n)) ≠ rest[4 * n]?.getD 0 then 3
      else 0 := by
  unfold frameResult
  rw [if_neg (by simp), hready, if_neg (c := false = true) (by decide)]
  have hlen : ((cmd :: a2 :: a1 :: a0 :: h :: rest).length < 4 * frameWords (cmd :: a2 :: a1 :: a0 :: h :: rest) + 6) =
      (rest.length < 4 * (cmd.toNat % 8 + 1) + 1) := by
    show (rest.length + 1 + 1 + 1 + 1 + 1 < 4 * (cmd.toNat % 8 + 1) + 6) = _
    exact propext ⟨fun h => by omega, fun h => by omega⟩
  simp only [hlen]
  rfl

/-- The header, its HCRC and what follows, as the bytes come. -/
theorem frame_bytes (cmd a2 a1 a0 h : Byte) (rest : List Byte) : [cmd, a2, a1, a0] ++ [h] ++ rest = cmd :: a2 :: a1 :: a0 :: h :: rest := rfl

theorem frameResult_badHeader (l : FrameLimits) (rd : Bool) (cmd a2 a1 a0 h : Byte) (rest : List Byte) (hready : l.notReady = false)
    (hh : h ≠ crc8 [cmd, a2, a1, a0]) : frameResult l rd (cmd :: a2 :: a1 :: a0 :: h :: rest) = 3 := by
  rw [frameResult_header l rd cmd a2 a1 a0 h rest hready]
  exact if_pos (Ne.symm hh)

/-- A header within the limits leaves the bytes of the data to be judged. -/
theorem frameResult_goodHeader (l : FrameLimits) (rd : Bool) (cmd a2 a1 a0 : Byte) (rest : List Byte) (hready : l.notReady = false)
    (hn : cmd.toNat % 8 + 1 ≤ l.words) (ha : a2.toNat * 65536 + a1.toNat * 256 + a0.toNat + 4 * (cmd.toNat % 8 + 1 - 1) ≤ 0xFFFFFC)
    (h4 : (a2.toNat * 65536 + a1.toNat * 256 + a0.toNat) % 4 = 0) (hw : 4 * (cmd.toNat % 8 + 1) + 6 ≤ l.mwl) (hr : 4 * (cmd.toNat % 8 + 1) + 2 ≤ l.mrl) :
    frameResult l rd (cmd :: a2 :: a1 :: a0 :: crc8 [cmd, a2, a1, a0] :: rest) =
      if rd then 0
      else if rest.length < 4 * (cmd.toNat % 8 + 1) + 1 then 4
      else if crc8 (rest.take (4 * (cmd.toNat % 8 + 1))) ≠ rest[4 * (cmd.toNat % 8 + 1)]?.getD 0 then 3
      else 0 := by
  rw [frameResult_header l rd cmd a2 a1 a0 _ rest hready]
  dsimp only
  have hlimit : ¬(if rd = true then l.mrl < 4 * (cmd.toNat % 8 + 1) + 2 else l.mwl < 4 * (cmd.toNat % 8 + 1) + 6) := by
    cases rd
    · rw [if_neg (by decide)]; omega
    · rw [if_pos rfl]; omega
  rw [if_neg (fun h => h rfl), if_neg (by
    rintro (h | h | h)
    · omega
    · omega
    · exact hlimit h), if_neg (fun h => h h4)]

theorem frame_judged (cmd a2 a1 a0 h c : Byte) (data : List Byte) (l : FrameLimits) (hready : l.notReady = false) :
    let head := [cmd, a2, a1, a0]
    let n := cmd.toNat % 8 + 1
    let a := a2.toNat * 65536 + a1.toNat * 256 + a0.toNat
    let rd := cmd.getLsbD 3
    (h ≠ crc8 head → frameResult l rd (head ++ [h] ++ data ++ [c]) = 3) ∧
    (n ≤ l.words → a + 4 * (n - 1) ≤ 0xFFFFFC → a % 4 = 0 → 4 * n + 6 ≤ l.mwl → 4 * n + 2 ≤ l.mrl → data.length = 4 * n →
      (rd = true → frameResult l rd (head ++ [crc8 head]) = 0) ∧
      (rd = false → frameResult l rd (head ++ [crc8 head] ++ data ++ [c]) = if c = crc8 data then 0 else 3) ∧
      (rd = false → frameResult l rd (head ++ [crc8 head] ++ data) = 4)) := by
  dsimp only
  simp only [List.cons_append, List.nil_append]
  refine ⟨frameResult_badHeader l _ cmd a2 a1 a0 h _ hready, fun hn ha h4 hw hr hdata => ⟨fun hrd => ?_, fun hrd => ?_, fun hrd => ?_⟩⟩ <;>
    rw [frameResult_goodHeader l _ cmd a2 a1 a0 _ hready hn ha h4 hw hr, hrd]
  · rfl
  · have hlen : (data ++ [c]).length = 4 * (cmd.toNat % 8 + 1) + 1 := by rw [List.length_append, hdata]; rfl
    rw [if_neg (by decide), if_neg (by omega), ← hdata, List.take_left' rfl, List.getElem?_append_right (Nat.le_refl _), Nat.sub_self]
    show (if crc8 data ≠ c then 3 else 0) = _
    by_cases hc : c = crc8 data
    · rw [if_pos hc, if_neg (fun h => h hc.symm)]
    · rw [if_neg hc, if_pos (Ne.symm hc)]
  · rw [if_neg (by decide), if_pos (by omega)]

/-! ## Frames on the SPI port (R192 to R195) -/

theorem exec_writeFrame (p : HostPort) (x : FrameIn) (s : State) :
    exec (.writeFrame p x) s = .next { s with dev := s.dev.portFrame s.fuses p false x.hdr x.bytes } := rfl

theorem exec_readFrame (p : HostPort) (x : FrameIn) (s : State) :
    exec (.readFrame p x) s = .next { s with dev := s.dev.portFrame s.fuses p true x.hdr x.bytes } := rfl

theorem exec_spiFrameAbort (bs : List Byte) (s : State) :
    exec (.spiFrameAbort bs) s = .next { s with dev := s.dev.spiFrame s.fuses true bs true } := rfl

/-- A write frame performs its words when it has no failing condition, and no other frame writes a register. -/
theorem runFrame_write_effect (d : Device) (f : OtpArray) (p : HostPort) (l : FrameLimits) (lw : Nat) (bs : List Byte) :
    (d.runFrame f p l false lw bs).dev.regs =
      if frameResult l false bs = 0 then (d.frameWrite f (frameSource p bs) (frameAddr bs) (wordsOfBytes (frameData bs))).regs else d.regs := by
  rw [runFrame_write]
  dsimp only
  by_cases h0 : frameResult l false bs = 0
  · rw [if_pos h0, if_pos h0, if_neg (by rw [h0]; decide)]
  · rw [if_neg h0, if_neg h0]
    split
    · exact unaligned_regs _ _ _
    · rfl

theorem unaligned_spi (d : Device) (src : Source) (a : Nat) : (d.unaligned src a).spi = d.spi := keeps_spi (by unfold Device.unaligned; simp)

/-- A read frame leaves the SPI port's record, and where it fails every register. -/
theorem runFrame_read_effect (d : Device) (f : OtpArray) (p : HostPort) (l : FrameLimits) (lw : Nat) (bs : List Byte) :
    (d.runFrame f p l true lw bs).dev.spi = d.spi ∧ (frameResult l true bs ≠ 0 → (d.runFrame f p l true lw bs).dev.regs = d.regs) ∧
      (d.runFrame f p l true lw bs).rsp.map (·.bytes) = some (frameResponse lw (frameResult l true bs)
        (if frameResult l true bs = 0 then (d.frameRead (frameSource p bs) (frameAddr bs) (frameWords bs)).1 else List.replicate (4 * frameWords bs) 0)) := by
  rw [runFrame_read]
  dsimp only
  by_cases h0 : frameResult l true bs = 0
  · simp only [if_pos h0]
    rw [if_neg (by rw [h0]; decide)]
    exact ⟨read_spi _ _ _ _, fun h => absurd h0 h, rfl⟩
  · simp only [if_neg h0]
    refine ⟨?_, fun _ => ?_, rfl⟩ <;> split
    · exact unaligned_spi _ _ _
    · rfl
    · exact unaligned_regs _ _ _
    · rfl

/-- The limits of the SPI port (R173). -/
def spiLimits : FrameLimits := { words := 8, mwl := 64, mrl := 64, notReady := false }

theorem spiFrame_complete (s : State) (bs : List Byte) (hb : bs ≠ []) (hl : s.dev.live = true) (h5 : 5 ≤ s.dev.boot.stage)
    (hp : s.dev.framePagesOpen bs = true) (he : s.dev.spi.enabled = true) (hr : bs ≠ spiResetPattern) (res : Nat)
    (hres : frameResult spiLimits ((frameCmd bs).getLsbD 3) bs = res) :
    ∃ t u, (∀ hdr, exec (.writeFrame .spi ⟨hdr, bs⟩) s = .next t ∧ exec (.readFrame .spi ⟨hdr, bs⟩) s = .next t) ∧ exec (.spiFrameAbort bs) s = .next u ∧
      u.dev.regs = t.dev.regs ∧ u.dev.spi.rsp = none ∧
      ((frameCmd bs).getLsbD 3 = false → t.dev.spi.lastWr = res ∧
        t.dev.regs = if res = 0 then (s.dev.frameWrite s.fuses (frameSource .spi bs) (frameAddr bs) (wordsOfBytes (frameData bs))).regs else s.dev.regs) ∧
      ((frameCmd bs).getLsbD 3 = true → t.dev.spi.lastWr = s.dev.spi.lastWr ∧ (res ≠ 0 → t.dev.regs = s.dev.regs) ∧
        t.dev.spi.rsp.map (·.bytes) = some (frameResponse s.dev.spi.lastWr res
          (if res = 0 then (s.dev.frameRead (frameSource .spi bs) (frameAddr bs) (frameWords bs)).1 else List.replicate (4 * frameWords bs) 0))) := by
  have hrun := fun dflt lost => spi_run s.dev s.fuses dflt bs lost hb hl h5 hp he hr
  have hkind : s.dev.spiFrame s.fuses true bs false = s.dev.spiFrame s.fuses false bs false := (hrun true false).trans (hrun false false).symm
  refine ⟨{ s with dev := s.dev.spiFrame s.fuses false bs false }, { s with dev := s.dev.spiFrame s.fuses true bs true }, fun hdr => ⟨rfl, ?_⟩, rfl, ?_, ?_, ?_, ?_⟩
  · rw [← hkind]
    rfl
  · dsimp only
    rw [hrun, hrun]
  · dsimp only
    rw [hrun]
    rfl
  · intro hrd
    subst hres
    dsimp only
    rw [hrun, hrd]
    refine ⟨?_, runFrame_write_effect ..⟩
    dsimp only
    rw [runFrame_write]
    rfl
  · intro hrd
    subst hres
    dsimp only
    rw [hrun, hrd]
    obtain ⟨hspi, hregs, hrsp⟩ := runFrame_read_effect s.dev s.fuses .spi spiLimits s.dev.spi.lastWr bs
    have hlast : (s.dev.runFrame s.fuses .spi spiLimits true s.dev.spi.lastWr bs).dev.spi.lastWr = s.dev.spi.lastWr := congrArg SpiPort.lastWr hspi
    exact ⟨hlast, hregs, hrsp⟩

/-! ## Frames on a bus port (R171, R177, R186) -/

theorem portFrame_refused (s : State) (p : Fin 2) (y : Byte) (bs : List Byte) (ha : s.dev.busAnswers p = true) (hm : s.dev.i3c[p].mode = .i3c)
    (hy : s.dev.i3c[p].hdr = false ∨ y ≠ 0x40) (dflt : Bool) :
    s.dev.portFrame s.fuses (busPort p) dflt (some y) bs = s.dev.busNack p := by
  rw [portFrame_bus]
  unfold Device.inFraming
  rw [inI3c_on ha hm]
  dsimp only
  rw [if_neg]
  rw [Bool.and_eq_true, beq_iff_eq, not_and]
  intro hh
  exact hy.resolve_left (by rw [hh]; decide)

/-- A frame that a bus port takes: on which device it acts, and by which command it comes. -/
theorem exec_busFrame (s : State) (bus : BusPort) (bs : List Byte) (hb : bs ≠ []) (ha : s.dev.busAnswers (busIdx bus) = true) (c : Instr) (e : Device)
    (hc : (s.dev.i3c[busIdx bus].mode = .i3c ∧ e = s.dev.updI3c (busIdx bus) (fun y => { y with hdr := false }) ∧
          (c = .writeFrame (busPort (busIdx bus)) ⟨none, bs⟩ ∨ c = .readFrame (busPort (busIdx bus)) ⟨none, bs⟩)) ∨
        (s.dev.i3c[busIdx bus].mode = .i3c ∧ s.dev.i3c[busIdx bus].hdr = true ∧ e = s.dev ∧
          (c = .writeFrame (busPort (busIdx bus)) ⟨some 0x40, bs⟩ ∨ c = .readFrame (busPort (busIdx bus)) ⟨some 0x40, bs⟩)) ∨
        (s.dev.i3c[busIdx bus].mode = .smbus ∧ e = s.dev ∧ c = .frameWrite { port := bus, pec := .good } bs)) :
    exec c s = .next { s with dev := e.busFrame s.fuses (busIdx bus) false bs } := by
  obtain ⟨hm, rfl, rfl | rfl⟩ | ⟨hm, hh, rfl, rfl | rfl⟩ | ⟨hm, rfl, rfl⟩ := hc
  · rw [exec_writeFrame]
    dsimp only
    rw [portFrame_bus, inFraming_sdr ha hm]
  · rw [exec_readFrame]
    dsimp only
    rw [portFrame_bus, inFraming_sdr ha hm, busFrame_dflt _ _ _ _ hb]
  · rw [exec_writeFrame]
    dsimp only
    rw [portFrame_bus, inFraming_hdr ha hm hh]
  · rw [exec_readFrame]
    dsimp only
    rw [portFrame_bus, inFraming_hdr ha hm hh, busFrame_dflt _ _ _ _ hb]
  · show Host.Outcome.next ({ s with dev := s.dev.smbFrame s.fuses { port := bus, pec := .good } bs } : State) = _
    unfold Device.smbFrame
    dsimp only
    rw [inSmbus_on ha hm]
    rfl

/-- What a frame on a bus port leaves, told of the device before HDR was left. -/
theorem busFrame_complete (d e : Device) (f : OtpArray) (p : Fin 2) (bs : List Byte) (hb : bs ≠ []) (hp : d.framePagesOpen bs = true)
    (he : e = d.updI3c p (fun y => { y with hdr := false }) ∨ e = d) (res : Nat) (hres : frameResult d.i3c[p].limits ((frameCmd bs).getLsbD 3) bs = res) :
    let t := e.busFrame f p false bs
    t.i3c[p].acked = true ∧
      ((frameCmd bs).getLsbD 3 = false → t.i3c[p].lastWr = res ∧
        t.regs = if res = 0 then (e.frameWrite f (frameSource (busPort p) bs) (frameAddr bs) (wordsOfBytes (frameData bs))).regs else d.regs) ∧
      ((frameCmd bs).getLsbD 3 = true → t.i3c[p].lastWr = d.i3c[p].lastWr ∧ (res ≠ 0 → t.regs = d.regs) ∧
        t.i3c[p].rsp.map (·.bytes) = some (frameResponse d.i3c[p].lastWr res
          (if res = 0 then (e.frameRead (frameSource (busPort p) bs) (frameAddr bs) (frameWords bs)).1 else List.replicate (4 * frameWords bs) 0))) := by
  dsimp only
  have hsame : e.i3c[p].limits = d.i3c[p].limits ∧ e.i3c[p].lastWr = d.i3c[p].lastWr ∧ e.regs = d.regs ∧ e.framePagesOpen bs = true := by
    obtain rfl | rfl := he
    · rw [updI3c_get]
      exact ⟨rfl, rfl, rfl, hp⟩
    · exact ⟨rfl, rfl, rfl, hp⟩
  obtain ⟨hlimits, hlast, hregs, hopen⟩ := hsame
  subst hres
  rw [← hlimits, ← hlast, ← hregs]
  cases hrd : (frameCmd bs).getLsbD 3
  · obtain ⟨hack, hlw, hw⟩ := bus_write e f p false bs hb hopen hrd
    exact ⟨hack, fun _ => ⟨hlw, hw⟩, fun h => absurd h (by decide)⟩
  · obtain ⟨hack, hlw, hr, hrsp⟩ := bus_read e f p false bs hb hopen hrd
    exact ⟨hack, fun h => absurd h (by decide), fun _ => ⟨hlw, hr, hrsp⟩⟩

/-- Settles O26: the conditions of R726 on the bytes, then the frames of the SPI port, of the bus ports, and the read of a response. -/
theorem frameCommandsComplete : Obligations.FrameCommandsComplete := by
  unfold Obligations.FrameCommandsComplete
  refine ⟨frame_judged, fun s bs hb hl h5 hp => ⟨fun he hr res hres => spiFrame_complete s bs hb hl h5 hp he hr res hres, fun bus ha =>
    ⟨fun y hm hy => ⟨?refusedWrite, ?refusedRead⟩, fun c e res hres hc => ?taken⟩, fun bus ha hm r hr => ?read⟩⟩
  case refusedWrite =>
    rw [exec_writeFrame]
    dsimp only
    rw [portFrame_refused s _ y bs ha hm hy]
  case refusedRead =>
    rw [exec_readFrame]
    dsimp only
    rw [portFrame_refused s _ y bs ha hm hy]
  case taken =>
    have he : e = s.dev.updI3c (busIdx bus) (fun y => { y with hdr := false }) ∨ e = s.dev := by
      obtain ⟨-, h, -⟩ | ⟨-, -, h, -⟩ | ⟨-, h, -⟩ := hc
      · exact .inl h
      · exact .inr h
      · exact .inr h
    exact ⟨_, exec_busFrame s bus bs hb ha c e hc, busFrame_complete s.dev e s.fuses _ bs hb hp he res hres⟩
  case read =>
    have hrun : s.dev.smbResponse { port := bus, pec := .good } = s.dev.busReply (busIdx bus) (blockBytes r) := by
      unfold Device.smbResponse
      dsimp only
      rw [inSmbus_on ha hm]
      show (match s.dev.busResponse (busIdx bus) with | some bs => s.dev.busReply (busIdx bus) (blockBytes bs) | none => s.dev.busNack (busIdx bus)) = _
      rw [hr]
    refine ⟨{ s with dev := s.dev.smbResponse { port := bus, pec := .good } }, rfl, ?_⟩
    dsimp only
    rw [hrun]
    exact reply_get _ _ _

end Sys2Proof.Machine
end

section
/-! SUPPORT. The common command codes, the resets and the interrupts of the bus ports: their settled statement. -/

set_option maxRecDepth 4000

namespace Sys2Proof.Machine
open Sys2Proof

/-! ## The common command codes (R174 to R184) -/

/-- A command's outcome, through what its effect on the device is. -/
theorem next_of (s : State) {e e' : Device} (h : e = e') :
    (Host.Outcome.next { s with dev := e } : Host.Outcome State Fault Refusal) = .next { s with dev := e' } := by rw [h]

/-- A CCC in I3C mode replaces the port's record, and leaves HDR. -/
theorem ccc_next (s : State) {p : Fin 2} (ha : s.dev.busAnswers p = true) (hm : s.dev.i3c[p].mode = .i3c) (f : I3cPort → I3cPort) (bs : List Byte) :
    (s.onDev fun d => d.ccc p f bs) =
      .next { s with dev := s.dev.updI3c p fun _ => { f s.dev.i3c[p] with hdr := false, acked := true, reply := bs } } := by
  rw [State.onDev_next, ccc_on ha hm]

theorem ccc_outside {d : Device} {p : Fin 2} (hm : d.i3c[p].mode ≠ .i3c) (f : I3cPort → I3cPort) (bs : List Byte) : d.ccc p f bs = d.busNack p := by
  unfold Device.ccc Device.inI3c
  rw [if_neg]
  rw [Bool.and_eq_true, beq_iff_eq]
  exact fun h => hm h.2

theorem busNack_const (d : Device) (p : Fin 2) : d.busNack p = d.updI3c p fun _ => { d.i3c[p] with acked := false, reply := [] } :=
  updI3c_const _ _ _ _ rfl

theorem entdaa_takes {d : Device} {p : Fin 2} (hm : d.i3c[p].mode = .i3c) (a : BitVec 7) (h : d.addressable = true) :
    d.entdaa p a = d.ccc p fun x => { x with dyn := some (x.dyn.getD a) } := by
  unfold Device.entdaa
  dsimp only
  rw [modeSwitch_on hm, if_pos h]

theorem entdaa_bootFailed {d : Device} {p : Fin 2} (hm : d.i3c[p].mode = .i3c) (a : BitVec 7) (h : d.addressable = false) :
    d.entdaa p a = d.busNack p := by
  unfold Device.entdaa
  dsimp only
  rw [modeSwitch_on hm, if_neg (by rw [h]; decide)]

theorem setdasa_takes {d : Device} {p : Fin 2} (hm : d.i3c[p].mode = .i3c) (st a : BitVec 7) (h : d.addressable = true) (hst : d.i3c[p].static = st)
    (hdyn : d.i3c[p].dyn = none) : d.setdasa p st a = d.ccc p fun x => { x with dyn := some a } := by
  unfold Device.setdasa
  rw [if_pos ⟨hst, hdyn, h⟩, modeSwitch_on hm]

theorem setdasa_bootFailed (d : Device) (p : Fin 2) (st a : BitVec 7) (h : d.addressable = false) : d.setdasa p st a = d.busNack p := by
  unfold Device.setdasa
  rw [if_neg]
  rintro ⟨-, -, ha⟩
  rw [h] at ha
  exact absurd ha (by decide)

theorem rstdaa_on {d : Device} {p : Fin 2} (hm : d.i3c[p].mode = .i3c) : d.rstdaa p = d.ccc p fun x => { x with dyn := none } := by
  unfold Device.rstdaa
  rw [modeSwitch_on hm]

theorem enthdr0_on {d : Device} {p : Fin 2} (ha : d.busAnswers p = true) (hm : d.i3c[p].mode = .i3c) (h : bit (d.hportCfg p) 7 = true) :
    d.enthdr0 p = d.updI3c p fun _ => { d.i3c[p] with hdr := true, acked := true, reply := [] } := by
  unfold Device.enthdr0
  dsimp only
  rw [modeSwitch_on hm, if_pos h, inI3c_on ha hm]
  unfold Device.busReply
  rw [updI3c_twice]
  exact updI3c_const _ _ _ _ rfl

/-- The content of GETSTATUS is open, and two bytes long. -/
theorem getstatus_on {d : Device} {p : Fin 2} (ha : d.busAnswers p = true) (hm : d.i3c[p].mode = .i3c) :
    ∃ v, (d.getstatus p).i3c[p] = { d.i3c[p] with hdr := false, acked := true, reply := bytes2 v } ∧ v < 65536 := by
  unfold Device.getstatus
  rw [inI3c_on ha hm]
  exact ⟨_, by rw [busReply_get, updI3c_get]; rfl, Nat.mod_lt _ (by decide)⟩

theorem modeSwitch_auto {d : Device} {p : Fin 2} (ha : d.busAnswers p = true) (hm : d.i3c[p].modeCfg = 0) :
    d.modeSwitch p = d.updI3c p fun _ => { d.i3c[p] with mode := .i3c } := by
  unfold Device.modeSwitch
  rw [if_pos (by rw [ha, hm]; rfl)]
  exact updI3c_const _ _ _ _ rfl

/-! ## Reads of a response (R172, R177, R178) -/

theorem responseReady_bus {d : Device} (hl : d.live = true) (p : Fin 2) :
    (d.responseReady (busPort p)).i3c[p] = { d.i3c[p] with rsp := d.i3c[p].rsp.map fun r => { r with ready := true } } := by
  unfold Device.responseReady
  dsimp only
  rw [whenLive_on hl]
  have h : p = 0 ∨ p = 1 := by omega
  obtain rfl | rfl := h <;> exact updI3c_get _ _ _

theorem responseReady_spi {d : Device} (hl : d.live = true) :
    (d.responseReady .spi).spi = { d.spi with rsp := d.spi.rsp.map fun r => { r with ready := true } } := by
  unfold Device.responseReady
  dsimp only
  rw [whenLive_on hl]

/-- A direct read in a framing that the port accepts (R177). -/
theorem privateRead_on {d : Device} {p : Fin 2} (ha : d.busAnswers p = true) (hm : d.i3c[p].mode = .i3c) (hdr : Option Byte)
    (hh : hdr = none ∨ (hdr = some 0xC0 ∧ d.i3c[p].hdr = true)) (bs : List Byte) (hr : d.busResponse p = some bs) :
    (d.privateRead p hdr).i3c[p].acked = true ∧ (d.privateRead p hdr).i3c[p].reply = bs := by
  unfold Device.privateRead
  obtain rfl | ⟨rfl, hhdr⟩ := hh
  · rw [inFraming_sdr ha hm]
    have he : (d.updI3c p fun x => { x with hdr := false }).busResponse p = some bs := by
      unfold Device.busResponse at hr ⊢
      rw [updI3c_get]
      exact hr
    rw [he]
    exact reply_get _ _ _
  · rw [inFraming_hdr ha hm hhdr, hr]
    exact reply_get _ _ _

theorem privateRead_refused {d : Device} {p : Fin 2} (ha : d.busAnswers p = true) (hm : d.i3c[p].mode = .i3c) (y : Byte)
    (hy : d.i3c[p].hdr = false ∨ y ≠ 0xC0) : d.privateRead p (some y) = d.busNack p := by
  unfold Device.privateRead Device.inFraming
  rw [inI3c_on ha hm]
  dsimp only
  rw [if_neg]
  rw [Bool.and_eq_true, beq_iff_eq, not_and]
  intro hh
  exact hy.resolve_left (by rw [hh]; decide)

theorem exec_i3cPrivateRead (x : PrivateRead) (s : State) :
    exec (.i3cPrivateRead x) s = .next { s with dev := s.dev.privateRead (busIdx x.port) x.hdr } := rfl

/-! ## Resets and interrupts of a port (R180, R181, R183, R185) -/

/-- A port's reset leaves it its protocol state at reset, in the mode that its configuration word gives. -/
theorem i3cReset_port (d : Device) (p : Fin 2) : ∃ st map wait,
    (d.i3cReset p).i3c[p] = { i3c0 (bits (d.reg (0x000070 + 4 * p.val)) 5 4) st with ibiMap := map, ibiWait := wait } :=
  ⟨_, _, _, Vector.getElem_set_self _⟩

theorem exec_i3cTargetReset (bus : BusPort) (s : State) (hl : s.dev.live = true) :
    exec (.i3cTargetReset bus) s = .next { s with dev := s.dev.i3cReset (busIdx bus) } := live_next s _ hl

theorem exec_smbusTimeoutReset (bus : BusPort) (s : State) (hl : s.dev.live = true) (hm : s.dev.i3c[busIdx bus].mode = .smbus) :
    exec (.smbusTimeoutReset bus) s = .next { s with dev := s.dev.i3cReset (busIdx bus) } := by
  show Host.Outcome.next ({ s with dev := if s.dev.i3c[busIdx bus].mode == .smbus then s.dev.busPortReset (busIdx bus) else s.dev } : State) = _
  rw [hm, if_pos (by decide)]
  exact live_next s (fun d => d.i3cReset (busIdx bus)) hl

theorem ibi_accepted {d : Device} {p : Fin 2} (bus : BusPort) (ha : d.busAnswers p = true) (hm : d.i3c[p].mode = .i3c) (hw : d.i3c[p].ibiWait = true)
    (he : d.i3c[p].intEn = true) (hd : d.i3c[p].dyn.isSome = true) :
    d.ibi p bus true = (d.updI3c p fun x => { x with ibiWait := false }).send (.ibi bus (d.ibiMapNow p)) := by
  unfold Device.ibi
  dsimp only
  rw [if_pos (by rw [ha, hm, hw, he, hd]; rfl)]

theorem ibi_refused (d : Device) (p : Fin 2) (bus : BusPort) : d.ibi p bus false = d := by
  unfold Device.ibi
  dsimp only
  rw [if_neg (by rw [Bool.and_false]; decide)]

theorem hotJoin_sent {d : Device} {p : Fin 2} (bus : BusPort) (ha : d.busAnswers p = true) (hadr : d.addressable = true) (hm : d.i3c[p].mode = .i3c)
    (hdyn : d.i3c[p].dyn = none) (hdone : d.i3c[p].hjDone = false) (he : d.i3c[p].hjEn = true) (hcfg : bit (d.hportCfg p) 8 = true) :
    d.hotJoinIdle p bus = (d.updI3c p fun x => { x with hjDone := true }).send (.hotJoin bus) := by
  unfold Device.hotJoinIdle
  dsimp only
  rw [if_pos (by rw [ha, hadr, hm, hdyn, hdone, he, hcfg]; rfl)]

/-! ## The statement -/

/-- Settles O27: each code by the record it leaves, then the reads, the resets and the interrupts of a port. -/
theorem cccAndPortCommandsComplete : Obligations.CccAndPortCommandsComplete := by
  unfold Obligations.CccAndPortCommandsComplete
  refine ⟨fun s bus a st len act ir hj => ⟨fun ha hm => ?inI3c, fun ha hm => ?auto, fun hm => ?outside⟩, fun s bus hl =>
    ⟨⟨_, rfl, responseReady_bus hl _⟩, ⟨_, rfl, responseReady_spi hl⟩, fun ha hm => ⟨fun hdr hh => ⟨fun r hr hready => ?response, fun hr => ?noFrame⟩,
      fun y hy => ?framing⟩, live_next s (fun d => d.spiReset) hl, ?reset, fun ha hm hw he hd => ?ibi, ?refused, fun ha hadr hm hdyn hdone he hcfg => ?hotJoin⟩⟩
  case inI3c =>
    refine ⟨fun h => ?entdaa, fun h => ⟨?entdaaFailed, ?setdasaFailed⟩, fun h hst hdyn => ?setdasa, ccc_next s ha hm _ _, ?rstdaa, ccc_next s ha hm _ _,
      ccc_next s ha hm _ _, ccc_next s ha hm _ _, ccc_next s ha hm _ _, ccc_next s ha hm _ _, ccc_next s ha hm _ _, ccc_next s ha hm _ _,
      ccc_next s ha hm _ _, ccc_next s ha hm _ _, ccc_next s ha hm _ _, ?status, ccc_next s ha hm _ _, fun h => ?enthdr0⟩
    case entdaa => exact next_of s ((entdaa_takes hm a h).trans (ccc_on ha hm _ _))
    case entdaaFailed => exact next_of s (entdaa_bootFailed hm a h)
    case setdasaFailed => exact next_of s (setdasa_bootFailed s.dev _ st a h)
    case setdasa => exact next_of s ((setdasa_takes hm st a h hst hdyn).trans (ccc_on ha hm _ _))
    case rstdaa => exact next_of s ((rstdaa_on hm).trans (ccc_on ha hm _ _))
    case status =>
      obtain ⟨v, hv, hlt⟩ := getstatus_on ha hm
      exact ⟨_, v, rfl, hv, hlt⟩
    case enthdr0 => exact next_of s (enthdr0_on ha hm h)
  case auto => exact next_of s (modeSwitch_auto ha hm)
  case outside => exact next_of s ((ccc_outside hm _ _).trans (busNack_const _ _))
  case response =>
    have hbytes : s.dev.busResponse (busIdx bus) = some r.bytes := by
      unfold Device.busResponse
      rw [hr]
      exact if_pos hready
    exact ⟨_, exec_i3cPrivateRead ⟨bus, hdr⟩ s, privateRead_on ha hm hdr hh _ hbytes⟩
  case noFrame =>
    have hbytes : s.dev.busResponse (busIdx bus) = some (frameResponse s.dev.i3c[busIdx bus].lastWr 5 []) := by
      unfold Device.busResponse
      rw [hr]
    exact ⟨_, exec_i3cPrivateRead ⟨bus, hdr⟩ s, privateRead_on ha hm hdr hh _ hbytes⟩
  case framing => exact next_of s (privateRead_refused ha hm y hy)
  case reset =>
    obtain ⟨st', map, wait, hport⟩ := i3cReset_port s.dev (busIdx bus)
    refine ⟨_, exec_i3cTargetReset bus s hl, exec_smbusTimeoutReset bus s hl, rfl, ?_⟩
    dsimp only
    rw [hport]
    exact ⟨rfl, rfl, rfl, rfl, rfl, rfl, rfl, rfl, rfl⟩
  case ibi => exact ⟨_, next_of s (ibi_accepted bus ha hm hw he hd), updI3c_get _ _ _, rfl⟩
  case refused => exact next_of s (ibi_refused s.dev (busIdx bus) bus)
  case hotJoin => exact ⟨_, next_of s (hotJoin_sent bus ha hadr hm hdyn hdone he hcfg), updI3c_get _ _ _, rfl⟩

end Sys2Proof.Machine
end

section
/-! SUPPORT. PMBus: the settled statement of its reads, its writes and what it refuses. -/

set_option maxRecDepth 4000

namespace Sys2Proof.Machine
open Sys2Proof

/-! ## Reads (R188, R189, R354) -/

/-- A read of the loop that PAGE names, of a value that no lease enters. -/
theorem pmRead_same {s : State} {x : SmbXfer} {n : Fin 16} (h : s.dev.pmReady x = true) (hn : s.dev.i3c[busIdx x.port].pmPage.toNat = n.val)
    {g : Fin 16 → Device → List Byte × Device} {c : Instr} (hc : exec c s = .next { s with dev := s.dev.pmRead x g }) {bs : List Byte}
    (hsame : (g n s.dev).1 = bs) (hctx : ∀ m u, (g n (s.dev.updCtx m u)).1 = bs) : Replies s c x bs := by
  refine pmRead_on h hn g bs ?_ c hc
  obtain ⟨m, u, e⟩ | e := pmArrive_eq s.dev (busIdx x.port) <;> rw [e]
  · exact hctx m u
  · exact hsame

/-- A read of a word that the port may also write. -/
theorem pmWordRead_same {s : State} {x : SmbXfer} {n : Fin 16} (h : s.dev.pmReady x = true) (hn : s.dev.i3c[busIdx x.port].pmPage.toNat = n.val)
    {rd : Fin 16 → Device → List Byte} {wr : Source → Fin 16 → Device → BitVec 16 → Device × Bool} {c : Instr}
    (hc : exec c s = .next { s with dev := s.dev.pmWord x none rd wr }) {bs : List Byte} (hsame : rd n s.dev = bs) (hctx : ∀ m u, rd n (s.dev.updCtx m u) = bs) :
    Replies s c x bs := pmRead_same h hn (g := fun n d => (rd n d, d)) hc hsame hctx

/-- A read of the port's own value. -/
theorem pmPort_same {s : State} {x : SmbXfer} (h : s.dev.pmReady x = true) (hp : s.dev.i3c[busIdx x.port].pmPage ≠ 0xFF) {g : I3cPort → List Byte}
    {c : Instr} (hc : exec c s = .next { s with dev := s.dev.pmPortRead x g }) {bs : List Byte} (hg : g s.dev.i3c[busIdx x.port] = bs) : Replies s c x bs :=
  pmPort_on h hp g bs hg c hc

theorem pmTemperature_some {d : Device} {n : Fin 16} {t : Int} (h : d.hottestOf (d.phasesOf n (·.st == .live)) = some t) :
    (d.pmTemperature n).1 = word2 (toLinear11 ((t : Rat) / 16)) := by
  unfold Device.pmTemperature
  rw [h]

/-- With no live stage the reading stays open. -/
theorem pmTemperature_none {d : Device} {n : Fin 16} (h : d.hottestOf (d.phasesOf n (·.st == .live)) = none) :
    (d.pmTemperature n).1 = word2 ((Config.freeWord d.freeCount).toNat % 65536) := by
  unfold Device.pmTemperature
  rw [h]
  rfl

/-! ## Writes (R190, R191, R271, R348, R383) -/

/-- The command c of loop n leaves the sequencer, the registers and the loops as e has them, with the OPERATION byte it records. -/
def PmLeaves (s : State) (n : Fin 16) (c : Instr) (e : Device) (oper : Option Byte) : Prop :=
  ∃ t, exec c s = .next t ∧ t.dev.seq = e.seq ∧ t.dev.entry = e.entry ∧ t.dev.regs = e.regs ∧
    t.dev.loop = (match oper with | some b => (e.updLp n fun l => { l with oper := b }).loop | none => e.loop)

/-- The device with the OPERATION byte of loop n recorded where there is one. -/
def Device.withOper (d : Device) (n : Fin 16) (oper : Option Byte) : Device :=
  match oper with
  | some b => d.updLp n fun l => { l with oper := b }
  | none => d

section
variable {s : State} {x : SmbXfer} {n : Fin 16} (hr : s.dev.pmReady x = true) (hn : s.dev.i3c[busIdx x.port].pmPage.toNat = n.val)
include hr hn

theorem pmLeaves_of {g : Source → Fin 16 → Device → Device × Bool} {c : Instr} (hc : exec c s = .next { s with dev := s.dev.pmWrite x g }) {e : Device}
    {oper : Option Byte} (hz : (g (s.dev.pmSource (busIdx x.port)) n (s.dev.pmArrive (busIdx x.port))).1 = e.withOper n oper) : PmLeaves s n c e oper := by
  refine ⟨_, hc, ?_⟩
  dsimp only
  rw [pmWrite_on hr hn]
  dsimp only
  obtain ⟨hseq, hentry, hregs, hloop⟩ := seq_same _ (busIdx x.port) (g (s.dev.pmSource (busIdx x.port)) n (s.dev.pmArrive (busIdx x.port))).2 _ hz
  rw [hseq, hentry, hregs, hloop]
  cases oper <;> exact ⟨rfl, rfl, rfl, rfl⟩

end

/-- OPERATION for loop n, where its value is one of the five. -/
theorem pmOperationByte_write (d : Device) (f : OtpArray) (x : SmbXfer) {v : Byte} {vsel : Option Nat} {op : Nat} (hv : operationOf v = some (vsel, op)) :
    d.pmOperationByte f x (some v) = d.pmWrite x fun src n d =>
      if (d.pmOperation f src n vsel op).2 then ((d.pmOperation f src n vsel op).1.updLp n fun l => { l with oper := v }, true)
      else d.pmOperation f src n vsel op := by
  unfold Device.pmOperationByte
  dsimp only
  rw [hv]

theorem withOper_ite {e : Device} (n : Fin 16) (v : Byte) {r : Device × Bool} (he : r.1 = e) :
    (if r.2 then (r.1.updLp n fun l => { l with oper := v }, true) else r).1 = e.withOper n (if r.2 then some v else none) := by
  subst he
  cases r.2 <;> rfl

/-- The request for rail n, with what became of its checks. -/
theorem pmOperation_plain (d : Device) (f : OtpArray) (src : Source) (n : Fin 16) (op : Nat) : d.pmOperation f src n none op =
    (d.writePlain f src 0x03004C 0xFFFFFFFF (railReqWord n op), (d.writeBad src 0x03004C 0xFFFFFFFF (railReqWord n op)).isNone) := by
  unfold Device.pmOperation
  dsimp only
  rw [if_pos rfl]

/-- Where the code names a VSEL the request comes after that write, unless it failed a check (R191). -/
theorem pmOperation_vsel (d : Device) (f : OtpArray) (src : Source) (n : Fin 16) (v op : Nat) : d.pmOperation f src n (some v) op =
    if (d.pmField f src n 0x040 1 0 v).2 then
      ((d.pmField f src n 0x040 1 0 v).1.writePlain f src 0x03004C 0xFFFFFFFF (railReqWord n op),
        ((d.pmField f src n 0x040 1 0 v).1.writeBad src 0x03004C 0xFFFFFFFF (railReqWord n op)).isNone)
    else d.pmField f src n 0x040 1 0 v := rfl

section
variable {s : State} {x : SmbXfer} {n : Fin 16} (hr : s.dev.pmReady x = true) (hn : s.dev.i3c[busIdx x.port].pmPage.toNat = n.val)
include hr hn

/-- An OPERATION that names no VSEL. -/
theorem operation_off {c : Instr} {v : Byte} (hc : exec c s = .next { s with dev := s.dev.pmOperationByte s.fuses x (some v) }) {op : Nat}
    (hv : operationOf v = some (none, op)) :
    PmLeaves s n c ((s.dev.pmArrive (busIdx x.port)).writePlain s.fuses (s.dev.pmSource (busIdx x.port)) 0x03004C 0xFFFFFFFF (railReqWord n op))
      (if ((s.dev.pmArrive (busIdx x.port)).writeBad (s.dev.pmSource (busIdx x.port)) 0x03004C 0xFFFFFFFF (railReqWord n op)).isNone then some v else none) := by
  rw [pmOperationByte_write _ _ _ hv] at hc
  refine pmLeaves_of hr hn hc ?_
  rw [pmOperation_plain]
  exact withOper_ite n v rfl

/-- An OPERATION that names a VSEL. -/
theorem operation_on {c : Instr} {v : Byte} (hc : exec c s = .next { s with dev := s.dev.pmOperationByte s.fuses x (some v) }) {k op : Nat}
    (hv : operationOf v = some (some k, op)) :
    let src := s.dev.pmSource (busIdx x.port)
    let z := (s.dev.pmArrive (busIdx x.port)).pmField s.fuses src n 0x040 1 0 k
    (z.2 = true → PmLeaves s n c (z.1.writePlain s.fuses src 0x03004C 0xFFFFFFFF (railReqWord n op))
      (if (z.1.writeBad src 0x03004C 0xFFFFFFFF (railReqWord n op)).isNone then some v else none)) ∧
    (z.2 = false → PmLeaves s n c z.1 none) := by
  rw [pmOperationByte_write _ _ _ hv] at hc
  dsimp only
  refine ⟨fun hz => pmLeaves_of hr hn hc ?_, fun hz => pmLeaves_of hr hn hc ?_⟩ <;> rw [pmOperation_vsel]
  · rw [if_pos hz]
    exact withOper_ite n v rfl
  · rw [hz, if_neg Bool.false_ne_true, hz]
    rfl

end

/-- The write of a word that is part of a whole, by what became of the whole's checks and of its own. -/
theorem pmWhole_ok (d : Device) (f : OtpArray) (src : Source) (a : Nat) (w : Word) : d.pmWhole f src true a w = d.writePlain f src a 0xFFFFFFFF w := rfl

theorem pmWhole_refused {d : Device} {src : Source} {a : Nat} {w : Word} (f : OtpArray) (ok : Bool) (h : (d.writeBad src a 0xFFFFFFFF w).isNone = false) :
    d.pmWhole f src ok a w = d.writePlain f src a 0xFFFFFFFF w := by
  unfold Device.pmWhole
  rw [if_pos]
  cases hb : d.writeBad src a 0xFFFFFFFF w
  · rw [hb] at h
    exact absurd h (by decide)
  · exact Bool.or_true ok

theorem pmWhole_kept {d : Device} {src : Source} {a : Nat} {w : Word} (f : OtpArray) (h : (d.writeBad src a 0xFFFFFFFF w).isNone = true) :
    d.pmWhole f src false a w = d := by
  unfold Device.pmWhole
  rw [if_neg]
  rw [Option.isNone_iff_eq_none.1 h]
  decide

section
variable (d : Device) (f : OtpArray) (src : Source) (n : Fin 16)

theorem pmClear_both (h1 : (d.writeBad src (pageAddr (loopPage n) 0x0D8) 0xFFFFFFFF 0xFFFFFFFF).isNone = true)
    (h2 : (d.writeBad src 0x03004C 0xFFFFFFFF (railReqWord n 4)).isNone = true) :
    (d.pmClear f src n).1 = (d.writePlain f src (pageAddr (loopPage n) 0x0D8) 0xFFFFFFFF 0xFFFFFFFF).writePlain f src 0x03004C 0xFFFFFFFF (railReqWord n 4) := by
  unfold Device.pmClear
  dsimp only
  rw [h1, h2]
  rfl

theorem pmClear_fltRefused (h1 : (d.writeBad src (pageAddr (loopPage n) 0x0D8) 0xFFFFFFFF 0xFFFFFFFF).isNone = false)
    (h2 : ((d.writePlain f src (pageAddr (loopPage n) 0x0D8) 0xFFFFFFFF 0xFFFFFFFF).writeBad src 0x03004C 0xFFFFFFFF (railReqWord n 4)).isNone = true) :
    (d.pmClear f src n).1 = d.writePlain f src (pageAddr (loopPage n) 0x0D8) 0xFFFFFFFF 0xFFFFFFFF := by
  unfold Device.pmClear
  dsimp only
  rw [h1, Bool.false_and, pmWhole_refused f false h1, pmWhole_kept f h2]

theorem pmClear_railRefused (h1 : (d.writeBad src (pageAddr (loopPage n) 0x0D8) 0xFFFFFFFF 0xFFFFFFFF).isNone = true)
    (h2 : (d.writeBad src 0x03004C 0xFFFFFFFF (railReqWord n 4)).isNone = false) :
    (d.pmClear f src n).1 = d.writePlain f src 0x03004C 0xFFFFFFFF (railReqWord n 4) := by
  unfold Device.pmClear
  dsimp only
  rw [h1, h2, Bool.and_false, pmWhole_kept f h1, pmWhole_refused f false h2]

end

/-- A word written to a field of a loop's register. -/
theorem pmWordWrite_stores {s : State} {x : SmbXfer} {n : Fin 16} (hr : s.dev.pmReady x = true) (hn : s.dev.i3c[busIdx x.port].pmPage.toNat = n.val)
    (hc : s.dev.canonical = true) {c : Instr} {v : BitVec 16} {rd : Fin 16 → Device → List Byte} (o hi lo : Nat) (val : BitVec 16 → Int)
    (he : exec c s = .next { s with dev := s.dev.pmWord x (some v) rd fun src n d v => d.pmField s.fuses src n o hi lo (val v) })
    (hplace : o < 0x1000 ∧ 0x040 ≤ o ∧ o ≠ 0x094 ∧ o ≠ 0x0D8) (hm : ∀ n : Fin 16, fieldMask hi lo &&& storedMask (pageAddr (loopPage n) o) = fieldMask hi lo)
    (h : s.dev.pmFits (busIdx x.port) n o hi lo (val v)) : Stores s c n o hi lo (val v) := by
  obtain ⟨ho, hh, h1, h2⟩ := hplace
  exact stores_of hr hn hc c o hi lo (val v) ho hh h1 h2 hm he h

/-- FREQUENCY_SWITCH stores the shadow PERIOD; its commit writes no register (R271). -/
theorem frequency_stores {s : State} {x : SmbXfer} {n : Fin 16} (hr : s.dev.pmReady x = true) (hn : s.dev.i3c[busIdx x.port].pmPage.toNat = n.val)
    (hc : s.dev.canonical = true) (v : BitVec 16) (hpos : 0 < ofLinear11 v) (hlo : 8000 ≤ ratNear (32000000 / ofLinear11 v))
    (hhi : ratNear (32000000 / ofLinear11 v) ≤ 160000) (hf : s.dev.pmFits (busIdx x.port) n 0x070 17 0 (ratNear (32000000 / ofLinear11 v))) :
    Stores s (.frequencySwitch x (some v)) n 0x070 17 0 (ratNear (32000000 / ofLinear11 v)) := by
  obtain ⟨b, hdev⟩ := freq_dev hr hn v hpos hlo hhi hf
  refine ⟨{ s with dev := s.dev.pmWrite x fun src n d => d.pmFrequency s.fuses src n v }, rfl, ?_⟩
  dsimp only
  have harrive : ∀ a, (s.dev.pmArrive (busIdx x.port)).reg a = s.dev.reg a := fun a => (renew_checks s.dev _).reg a
  have hregs : ∀ (e : Device) (p : Fin 2) (src : Source) (a : Nat),
      ((if b then e.writePlain s.fuses src (pageAddr (loopPage n) 0x094) 0xFFFFFFFF 1 else
        (e.writePlain s.fuses src (pageAddr (loopPage n) 0x094) 0xFFFFFFFF 1).setCml p 6).busReply p []).reg a = e.reg a := by
    intro e p src a
    obtain ⟨-, -, h, -⟩ := seq_same (e.writePlain s.fuses src (pageAddr (loopPage n) 0x094) 0xFFFFFFFF 1) p b _ rfl
    exact reg_of_regs (h.trans (commit_write e s.fuses src n).1) a
  rw [hdev]
  refine ⟨?_, fun a ha => ?_⟩ <;> rw [hregs, putLoop_reg]
  · rw [Device.reg_setReg _ _ _ (pmArrive_canon _ _ hc), harrive]
  · rw [Device.reg_setReg_other _ _ _ ha, harrive]

/-! ## What PAGE 0xFF refuses, and the port's own commands (R188, R189) -/

/-- A refused read: bit 6 of STATUS_CML, and no register. -/
def PmRefused (s : State) (x : SmbXfer) (c : Instr) : Prop :=
  ∃ t, exec c s = .next t ∧
    t.dev.i3c[busIdx x.port] = { s.dev.i3c[busIdx x.port] with cml := s.dev.i3c[busIdx x.port].cml ||| 0x40, acked := true, reply := [] } ∧
    t.dev.regs = s.dev.regs

theorem cml_reply (d : Device) (p : Fin 2) (i : Nat) : ((d.setCml p i).busReply p []).i3c[p] =
    { d.i3c[p] with cml := d.i3c[p].cml ||| BitVec.ofNat 8 (2 ^ i), acked := true, reply := [] } := by
  rw [busReply_get]
  unfold Device.setCml
  rw [updI3c_get]

theorem pmArrive_refused (d : Device) (p : Fin 2) : (((d.pmArrive p).setCml p 6).busReply p []).i3c[p] =
      { d.i3c[p] with cml := d.i3c[p].cml ||| 0x40, acked := true, reply := [] } ∧
    (((d.pmArrive p).setCml p 6).busReply p []).regs = d.regs := by
  rw [cml_reply, pmArrive_port]
  exact ⟨rfl, renew_regs _ _⟩

theorem pmRead_refused {s : State} {x : SmbXfer} (h : s.dev.pmReady x = true) (hp : s.dev.i3c[busIdx x.port].pmPage = 0xFF)
    {g : Fin 16 → Device → List Byte × Device} {c : Instr} (hc : exec c s = .next { s with dev := s.dev.pmRead x g }) : PmRefused s x c := by
  refine ⟨_, hc, ?_⟩
  dsimp only
  unfold Device.pmRead
  rw [pmCommand_on h, pmArrive_port, if_pos hp]
  exact pmArrive_refused _ _

theorem pmWordRead_refused {s : State} {x : SmbXfer} (h : s.dev.pmReady x = true) (hp : s.dev.i3c[busIdx x.port].pmPage = 0xFF)
    {rd : Fin 16 → Device → List Byte} {wr : Source → Fin 16 → Device → BitVec 16 → Device × Bool} {c : Instr}
    (hc : exec c s = .next { s with dev := s.dev.pmWord x none rd wr }) : PmRefused s x c := pmRead_refused h hp (g := fun n d => (rd n d, d)) hc

theorem pmPortRead_refused {s : State} {x : SmbXfer} (h : s.dev.pmReady x = true) (hp : s.dev.i3c[busIdx x.port].pmPage = 0xFF)
    {g : I3cPort → List Byte} {c : Instr} (hc : exec c s = .next { s with dev := s.dev.pmPortRead x g }) : PmRefused s x c := by
  refine ⟨_, hc, ?_⟩
  dsimp only
  unfold Device.pmPortRead
  rw [pmCommand_on h, pmArrive_port, if_pos hp]
  exact pmArrive_refused _ _

theorem pmReady_context {d : Device} {x : SmbXfer} (h : d.pmReady x = true) : d.i3c[busIdx x.port].pmCtx.isNone = false := by
  unfold Device.pmReady at h
  rw [Bool.and_eq_true] at h
  rw [← Option.not_isSome, h.2]
  rfl

theorem pageWrite_port {d : Device} {x : SmbXfer} (h : d.pmReady x = true) (b : Byte) :
    (d.pmPageCommand x (some b)).i3c[busIdx x.port] =
      if b.toNat < 16 ∨ b = 0xFF then { d.i3c[busIdx x.port] with pmPage := b, acked := true, reply := [] } else
        { d.i3c[busIdx x.port] with cml := d.i3c[busIdx x.port].cml ||| 0x40, acked := true, reply := [] } := by
  unfold Device.pmPageCommand
  dsimp only
  rw [pmCommand_on h, pmArrive_port, pmReady_context h, if_neg (by decide)]
  split
  · rw [busReply_get, updI3c_get, pmArrive_port]
  · exact (pmArrive_refused _ _).1

theorem pmUnsupported_port {d : Device} {x : SmbXfer} (h : d.pmReady x = true) (code : Byte) (hcode : pmCodes.contains code.toNat = false) :
    (d.pmUnsupported x code).i3c[busIdx x.port].acked = false ∧ (d.pmUnsupported x code).i3c[busIdx x.port].cml.getLsbD 7 = true := by
  unfold Device.pmReady at h
  simp only [Bool.and_eq_true, beq_iff_eq] at h
  obtain ⟨⟨⟨⟨⟨hanswers, hmode⟩, -⟩, -⟩, -⟩, -⟩ := h
  unfold Device.pmUnsupported
  dsimp only
  rw [if_neg (by rw [hcode]; decide), inSmbus_on hanswers hmode]
  unfold Device.busNack Device.setCml
  rw [updI3c_get, updI3c_get]
  refine ⟨rfl, ?_⟩
  dsimp only
  rw [BitVec.getLsbD_or, Bool.or_eq_true]
  exact .inr (by decide)

/-! ## The statement -/

theorem exec_operationRead (x : SmbXfer) (s : State) :
    exec (.pmbusUnsupported x ⟨0x01, none⟩) s = .next { s with dev := s.dev.pmRead x fun n d => ([(d.lp n).oper], d) } := rfl

theorem exec_pmbusPageRead (x : SmbXfer) (s : State) :
    exec (.pmbusPage x none) s = .next { s with dev := s.dev.pmPortRead x fun y => [y.pmPage] } := rfl

theorem exec_pmbusUnsupported (x : SmbXfer) (code : Byte) (data : Option Byte) (s : State) (h : pmCodes.contains code.toNat = false) :
    exec (.pmbusUnsupported x ⟨code, data⟩) s = .next { s with dev := s.dev.pmUnsupported x code } := by
  have hcode : code ≠ 0x01 := by
    rintro rfl
    exact absurd h (by decide)
  show Host.Outcome.next ({ s with dev := if code = 0x01 then s.dev.pmOperationByte s.fuses x data else s.dev.pmUnsupported x code } : State) = _
  rw [if_neg hcode]

/-- Settles O28: the reads of a loop, the writes, and what the port itself answers and refuses. -/
theorem pmbusCommandsComplete : Obligations.PmbusCommandsComplete := by
  unfold Obligations.PmbusCommandsComplete
  refine ⟨fun s x n hr => ?reads, fun s x n v hr hn => ⟨fun hc => ?stores, operation_off hr hn rfl rfl, operation_off hr hn rfl rfl, operation_on hr hn rfl rfl,
    operation_on hr hn rfl rfl, operation_on hr hn rfl rfl, fun h1 h2 => ?clearBoth, fun h1 h2 => ?clearRail, fun h1 h2 => ?clearFlt, fun b hb => ?other⟩,
    fun s x hr => ⟨fun hp => ⟨pmPort_same hr hp rfl rfl, pmPort_same hr hp (exec_pmbusPageRead x s) rfl, pmPort_same hr hp rfl rfl, pmPort_same hr hp rfl rfl,
      pmPort_same hr hp rfl rfl⟩, fun hp => ?refused, fun b => ⟨_, rfl, pageWrite_port hr b⟩,
      fun code data hcode => ⟨_, exec_pmbusUnsupported x code data s hcode, pmUnsupported_port hr code hcode⟩⟩⟩
  case clearBoth =>
    have h : PmLeaves s n (.clearFaults x) _ none := pmLeaves_of hr hn rfl (pmClear_both _ _ _ _ h1 h2)
    exact h
  case clearRail =>
    have h : PmLeaves s n (.clearFaults x) _ none := pmLeaves_of hr hn rfl (pmClear_fltRefused _ _ _ _ h1 h2)
    exact h
  case clearFlt =>
    have h : PmLeaves s n (.clearFaults x) _ none := pmLeaves_of hr hn rfl (pmClear_railRefused _ _ _ _ h1 h2)
    exact h
  case other =>
    have hrun : exec (.pmbusUnsupported x ⟨0x01, some b⟩) s = .next { s with dev := s.dev.pmWrite x fun _ _ d => (d, false) } := by
      show Host.Outcome.next ({ s with dev := s.dev.pmOperationByte s.fuses x (some b) } : State) = _
      unfold Device.pmOperationByte
      dsimp only
      rw [hb]
    have h : PmLeaves s n (.pmbusUnsupported x ⟨0x01, some b⟩) _ none := pmLeaves_of hr hn hrun rfl
    exact h
  case refused =>
    have h : ∀ c ∈ [Instr.voutMode x, .voutCommand x none, .voutMax x, .voutMarginHigh x none, .voutMarginLow x none, .voutOvFaultLimit x none,
        .voutUvFaultLimit x none, .voutTransitionRate x none, .voutDroop x none, .frequencySwitch x none, .ioutOcFaultLimit x none,
        .otFaultLimit x none, .statusByte x, .statusWord x, .statusVout x, .statusIout x, .statusTemperature x, .readVout x, .readIout x,
        .readPout x, .readTemperature1 x, .pmbusUnsupported x ⟨0x01, none⟩], PmRefused s x c := by
      simp only [List.forall_mem_cons, List.not_mem_nil, false_implies, implies_true, and_true]
      exact ⟨pmRead_refused hr hp rfl, pmWordRead_refused hr hp rfl, pmRead_refused hr hp rfl, pmWordRead_refused hr hp rfl,
        pmWordRead_refused hr hp rfl, pmWordRead_refused hr hp rfl, pmWordRead_refused hr hp rfl, pmWordRead_refused hr hp rfl,
        pmWordRead_refused hr hp rfl, pmWordRead_refused hr hp rfl, pmWordRead_refused hr hp rfl, pmWordRead_refused hr hp rfl,
        pmRead_refused hr hp rfl, pmRead_refused hr hp rfl, pmRead_refused hr hp rfl, pmRead_refused hr hp rfl,
        pmRead_refused hr hp rfl, pmRead_refused hr hp rfl, pmRead_refused hr hp rfl, pmRead_refused hr hp rfl,
        pmRead_refused hr hp rfl, pmRead_refused hr hp (exec_operationRead x s)⟩
    have hport : ∀ c ∈ [Instr.statusCml x, .pmbusPage x none, .pmbusRevision x, .mfrId x, .mfrModel x], PmRefused s x c := by
      simp only [List.forall_mem_cons, List.not_mem_nil, false_implies, implies_true, and_true]
      exact ⟨pmPortRead_refused hr hp rfl, pmPortRead_refused hr hp (exec_pmbusPageRead x s), pmPortRead_refused hr hp rfl, pmPortRead_refused hr hp rfl,
        pmPortRead_refused hr hp rfl⟩
    exact List.forall_mem_append.2 ⟨h, hport⟩
  case stores =>
    exact ⟨pmWordWrite_stores hr hn hc 0x044 13 0 (fun v => codeOfU16 v) rfl (by decide) (by decide),
      pmWordWrite_stores hr hn hc 0x048 29 16 (fun v => codeOfU16 v) rfl (by decide) (by decide),
      pmWordWrite_stores hr hn hc 0x048 13 0 (fun v => codeOfU16 v) rfl (by decide) (by decide),
      pmWordWrite_stores hr hn hc 0x0C0 29 16 (fun v => codeOfU16 v) rfl (by decide) (by decide),
      pmWordWrite_stores hr hn hc 0x0C0 13 0 (fun v => codeOfU16 v) rfl (by decide) (by decide),
      pmWordWrite_stores hr hn hc 0x050 8 0 (fun v => ratOpen (ofLinear11 v * 10)) rfl (by decide) (by decide),
      pmWordWrite_stores hr hn hc 0x054 31 16 (fun v => ratOpen (ofLinear11 v * 10000)) rfl (by decide) (by decide),
      pmWordWrite_stores hr hn hc 0x0C8 28 16 (fun v => ratNear (ofLinear11 v)) rfl (by decide) (by decide),
      pmWordWrite_stores hr hn hc 0x0D4 7 0 (fun v => ratNear (ofLinear11 v)) rfl (by decide) (by decide),
      frequency_stores hr hn hc v⟩
  case reads =>
    refine fun hn => ⟨pmRead_same hr hn rfl rfl fun _ _ => rfl, pmWordRead_same hr hn rfl rfl fun _ _ => rfl, pmRead_same hr hn rfl rfl fun _ _ => rfl,
      pmWordRead_same hr hn rfl rfl fun _ _ => rfl, pmWordRead_same hr hn rfl rfl fun _ _ => rfl, pmWordRead_same hr hn rfl rfl fun _ _ => rfl,
      pmWordRead_same hr hn rfl rfl fun _ _ => rfl, pmWordRead_same hr hn rfl rfl fun _ _ => rfl, pmWordRead_same hr hn rfl rfl fun _ _ => rfl,
      pmWordRead_same hr hn rfl rfl fun _ _ => rfl, pmWordRead_same hr hn rfl rfl fun _ _ => rfl, pmWordRead_same hr hn rfl rfl fun _ _ => rfl,
      pmRead_same hr hn rfl rfl fun _ _ => rfl, pmRead_same hr hn rfl rfl fun _ _ => rfl, pmRead_same hr hn rfl rfl fun _ _ => rfl,
      pmRead_same hr hn rfl rfl fun _ _ => rfl, pmRead_same hr hn rfl rfl fun _ _ => rfl, pmRead_same hr hn rfl rfl fun _ _ => rfl,
      pmRead_same hr hn rfl rfl fun _ _ => rfl, pmRead_same hr hn rfl rfl fun _ _ => rfl,
      fun t ht => ?hottest, fun hnone => ?noStage, pmRead_same hr hn (exec_operationRead x s) rfl fun _ _ => rfl⟩
    case hottest =>
      have hread : exec (.readTemperature1 x) s = .next { s with dev := s.dev.pmRead x fun n d => d.pmTemperature n } := rfl
      exact pmRead_same hr hn hread (pmTemperature_some ht) fun m u => pmTemperature_some (d := s.dev.updCtx m u) ht
    case noStage =>
      have hread : exec (.readTemperature1 x) s = .next { s with dev := s.dev.pmRead x fun n d => d.pmTemperature n } := rfl
      exact ⟨_, pmRead_same hr hn hread (pmTemperature_none hnone) fun m u => pmTemperature_none (d := s.dev.updCtx m u) hnone⟩

end Sys2Proof.Machine
end

section
/-! SUPPORT. The ends of a phase's states and its failures: their settled statement. -/

set_option maxRecDepth 4000

namespace Sys2Proof.Machine
open Sys2Proof

/-! ## The ends of a phase's states (R208, R229, R230, R233) -/

theorem exec_joinComplete (k : Fin 64) (s : State) (hrun : s.dev.hupRuns = true) :
    exec (.joinComplete k) s = .next { s with dev := (s.dev.joinComplete k).safeSettle } := service_next s (fun d => (d.joinComplete k).safeSettle) hrun

theorem exec_drainDecayComplete (k : Fin 64) (x0 x1 : Imon) (s : State) (hrun : s.dev.hupRuns = true) :
    exec (.drainDecayComplete k x0.code x1.code (x0.iref, x1.iref)) s = .next { s with dev := s.dev.drainDecay k x0 x1 } :=
  service_next s (fun d => d.drainDecay k x0 x1) hrun

theorem exec_drainTimeout (k : Fin 64) (s : State) (hrun : s.dev.hupRuns = true) :
    exec (.drainTimeout k) s = .next { s with dev := s.dev.drainExpiry k } := service_next s (fun d => d.drainExpiry k) hrun

theorem joinComplete_due {d : Device} {k : Fin 64} (hst : (d.ph k).st = .joining) (hcyc : max 1 (bits (d.preg k 0x04) 23 20) ≤ (d.ph k).joinCyc) :
    d.joinComplete k = d.phaseTo k .live 0x1C := by
  unfold Device.joinComplete
  dsimp only
  rw [if_pos (by rw [hst]; simpa using hcyc)]

/-- Of the states only OFF and FAILED take over a map write that was held. -/
theorem phaseTo_own (d : Device) (k : Fin 64) (st : PhaseState) (cause who : Nat) (h : (st == .off || st == .failed) = false) :
    ((d.phaseTo k st cause who).ph k).own = (d.ph k).own := by
  rw [(phaseTo_ph d k st cause who).1]
  show (if (d.ph k).mapHeld && (st == .off || st == .failed) then d.phMap k else (d.ph k).own) = _
  rw [h, Bool.and_false, if_neg (by decide)]

theorem phaseTo_pulse (d : Device) (k : Fin 64) {st : PhaseState} (cause who : Nat) (h : st = .parked ∨ st = .off) : ((d.phaseTo k st cause who).ph k).pulse = .z := by
  rw [(phaseTo_ph d k st cause who).1]
  obtain rfl | rfl := h <;> rfl

/-- The device with the second sample of a drain's decay taken. -/
structure SampleTaken (d e : Device) (k : Fin 64) : Prop where
  phase : ∃ a b, e.ph k = { d.ph k with raw := a, cur := b }
  beside : ∀ j, j ≠ k → e.ph j = d.ph j
  regs : e.regs = d.regs
  loop : e.loop = d.loop
  ts : e.ts = d.ts

theorem takeImon_taken (d : Device) (k : Fin 64) (x : Imon) : SampleTaken d (d.takeImon k x) k := by
  unfold Device.takeImon
  split
  · exact ⟨⟨_, _, rfl⟩, fun _ _ => rfl, rfl, rfl, rfl⟩
  · exact ⟨⟨_, _, updPh_at _ _ _⟩, fun j hj => updPh_beside _ _ _ hj, rfl, rfl, rfl⟩

/-- A phase that has left DRAINING for PARKED or OFF is not checked for HANDOFF. -/
theorem handoffCheck_other {d : Device} {k : Fin 64} (h : (d.ph k).st ≠ .handoff) : d.handoffCheck k = d := by
  unfold Device.handoffCheck
  dsimp only
  rw [if_neg (by rwa [beq_iff_eq])]

section
variable {d e : Device} {k : Fin 64} (h : SampleTaken d e k)
include h

/-- A move of a phase whose sample was taken just before is a move of the phase as it was. -/
theorem moves_taken {b : Device} {st : PhaseState} {cause who : Nat} (hm : PhaseMoves e b k st cause who) : PhaseMoves d b k st cause who := by
  obtain ⟨a, c, hk⟩ := h.phase
  exact moves_of hm h.beside (by rw [hk]) (by rw [hk]) h.ts (fun _ _ => rfl) rfl rfl rfl rfl rfl rfl

theorem drained_parked (hst : (d.ph k).st = .draining) (hdest : (d.ph k).dest = .parked) :
    ((e.drainDone k).handoffCheck k).ph k = (e.phaseTo k .parked 0x14).ph k ∧ PhaseMoves d ((e.drainDone k).handoffCheck k) k .parked 0x14 byHw := by
  obtain ⟨a, c, hk⟩ := h.phase
  have hdone : e.drainDone k = e.phaseTo k .parked 0x14 := by
    unfold Device.drainDone
    rw [hk]
    dsimp only
    rw [hst, hdest, if_pos (by decide)]
  have hmove := phaseTo_moves e k .parked 0x14 byHw
  rw [hdone, handoffCheck_other (by rw [hmove.1]; decide)]
  exact ⟨rfl, moves_taken h hmove⟩

theorem drained_off (hst : (d.ph k).st = .draining) (hdest : (d.ph k).dest = .off) :
    (((e.drainDone k).handoffCheck k).ph k).pulse = .z ∧ PhaseMoves d ((e.drainDone k).handoffCheck k) k .off 0x14 byHw := by
  obtain ⟨a, c, hk⟩ := h.phase
  obtain ⟨e', he', hdone⟩ : ∃ e', (e' = e ∨ e' = e.updPh k fun p => { p with mapHeld := true }) ∧ e.drainDone k = e'.phaseTo k .off 0x14 := by
    unfold Device.drainDone
    rw [hk]
    dsimp only
    rw [hst, hdest, if_pos (by decide)]
    refine ⟨_, ?_, rfl⟩
    split
    · exact .inr rfl
    · exact .inl rfl
  have hmove : PhaseMoves e (e'.phaseTo k .off 0x14) k .off 0x14 byHw := by
    obtain rfl | rfl := he'
    · exact phaseTo_moves _ _ _ _ _
    · exact moves_of (phaseTo_moves _ _ _ _ _) (fun j hj => updPh_beside _ _ _ hj) (by rw [updPh_at]) (by rw [updPh_at]) rfl (fun _ _ => rfl) rfl rfl rfl rfl rfl rfl
  rw [hdone, handoffCheck_other (by rw [hmove.1]; decide)]
  exact ⟨phaseTo_pulse _ _ _ _ (.inr rfl), moves_taken h hmove⟩
end

/-- Where a drain ends once it has decayed. -/
theorem drained_effect {s : State} {e : Device} {k : Fin 64} (h : SampleTaken s.dev e k) (hst : (s.dev.ph k).st = .draining) :
    let g := (e.drainDone k).handoffCheck k
    (g.ph k).pulse = .z ∧ (∀ j, j ≠ k → g.ph j = s.dev.ph j) ∧
      ((s.dev.ph k).dest = .parked → PhaseMoves s.dev g k .parked 0x14 byHw) ∧
      ((s.dev.ph k).dest = .off → PhaseMoves s.dev g k .off 0x14 byHw) ∧
      ((s.dev.ph k).dest = .handoff → (g.ph k).own = s.dev.phMap k ∧
        (s.dev.mapRegulates k = true → s.dev.phDisabled k = false → PhaseMoves s.dev g k .handoff 0x14 byHw) ∧
        (s.dev.mapRegulates k = false ∨ s.dev.phDisabled k = true → (g.ph k).st = .off)) := by
  dsimp only
  cases hdest : (s.dev.ph k).dest with
  | parked =>
    obtain ⟨hph, hmove⟩ := drained_parked h hst hdest
    exact ⟨by rw [hph]; exact phaseTo_pulse _ _ _ _ (.inl rfl), hmove.2.2.2.2.2.2, fun _ => hmove, nofun, nofun⟩
  | off =>
    obtain ⟨hpulse, hmove⟩ := drained_off h hst hdest
    exact ⟨hpulse, hmove.2.2.2.2.2.2, nofun, fun _ => hmove, nofun⟩
  | handoff =>
    obtain ⟨a, c, hk⟩ := h.phase
    obtain ⟨hpulse, hbeside, hown, hstay, hoff⟩ := handoff_done s e k
      ⟨by rw [hk]; exact hst, by rw [hk]; exact hdest, by rw [hk], h.regs, h.loop, h.ts, h.beside⟩ hst
    exact ⟨hpulse, hbeside, nofun, nofun, fun _ => ⟨hown, hstay, hoff⟩⟩

theorem drainDecay_done {d : Device} {k : Fin 64} {x0 x1 : Imon} (hst : (d.ph k).st = .draining) (hdec : d.decayed k x0 x1 = true) :
    d.drainDecay k x0 x1 = (((d.takeImon k x1).drainDone k).handoffCheck k).loopsSettle := by
  unfold Device.drainDecay
  rw [if_pos (by rw [hst, hdec]; rfl)]

theorem drainDecay_not {d : Device} {k : Fin 64} {x0 x1 : Imon} (h : (d.ph k).st ≠ .draining ∨ d.decayed k x0 x1 = false) :
    d.drainDecay k x0 x1 = d.takeImon k x1 := by
  unfold Device.drainDecay
  rw [if_neg]
  rw [Bool.and_eq_true, beq_iff_eq]
  rintro ⟨hst, hdec⟩
  obtain h | h := h
  · exact h hst
  · rw [hdec] at h
    exact absurd h (by decide)

theorem drainExpiry_due {d : Device} {k : Fin 64} (hst : (d.ph k).st = .draining) (hper : max 4 (bits (d.preg k 0x04) 27 24) ≤ (d.ph k).drainPer) :
    d.drainExpiry k = (d.phaseFail k 5 0x15).loopsSettle := by
  unfold Device.drainExpiry
  rw [if_pos (by rw [hst, decide_eq_true hper]; rfl)]

/-! ## Failures of a phase (R235, R240, R342 to R344) -/

theorem exec_phaseFailure (k : Fin 64) (dets : List PhaseDetect) (s : State) (hrun : s.dev.hupRuns = true) :
    exec (.phaseFailure k dets) s = .next { s with dev := s.dev.phaseDetect k dets } := service_next s (fun d => d.phaseDetect k dets) hrun

theorem exec_stageFault (k : Fin 64) (s : State) (hrun : s.dev.hupRuns = true) :
    exec (.stageFault k) s = .next { s with dev := s.dev.phaseDetect k [.stage] } := service_next s (fun d => d.stageFault k) hrun

/-- The device once the detections of a LOOP cycle are counted. -/
def Device.countDetects (d : Device) (k : Fin 64) (dets : List PhaseDetect) : Device := dets.foldl (fun d det => d.countDetect k det) d

/-- A stage fault among the detections leaves the TMON comparator high. -/
def Device.tmonOf (d : Device) (k : Fin 64) (dets : List PhaseDetect) : Device :=
  if dets.contains .stage && (d.ph k).st != .unpop then d.updPh k fun p => { p with tmonHigh := true } else d

theorem phaseDetect_eq (d : Device) (k : Fin 64) (dets : List PhaseDetect) : d.phaseDetect k dets =
    if ((d.countDetects k dets).ph k).st == .failed then (d.countDetects k dets).tmonOf k dets
    else match (d.countDetects k dets).firstDetected k dets with
      | some x => (((d.countDetects k dets).tmonOf k dets).phaseFail k x.1 x.2).loopsSettle
      | none => d.countDetects k dets := rfl

theorem tmonOf_ph (d : Device) (k : Fin 64) (dets : List PhaseDetect) :
    (d.tmonOf k dets).ph k = { d.ph k with tmonHigh := (d.ph k).tmonHigh || (dets.contains .stage && (d.ph k).st != .unpop) } ∧
      (∀ j, j ≠ k → (d.tmonOf k dets).ph j = d.ph j) ∧ (d.tmonOf k dets).ts = d.ts := by
  unfold Device.tmonOf
  by_cases h : (dets.contains .stage && (d.ph k).st != .unpop) = true
  · rw [if_pos h, updPh_at, h, Bool.or_true]
    exact ⟨rfl, fun j hj => updPh_beside _ _ _ hj, rfl⟩
  · rw [if_neg h, Bool.eq_false_iff.2 h, Bool.or_false]
    exact ⟨rfl, fun _ _ => rfl, rfl⟩

/-- A detection of which a condition holds fails the phase, and no other. -/
theorem phaseDetect_fails {d : Device} {k : Fin 64} {dets : List PhaseDetect} (hst : (d.ph k).st ≠ .failed) {fc cause : Nat}
    (h : (d.countDetects k dets).firstDetected k dets = some (fc, cause)) :
    ∃ e : Device, d.phaseDetect k dets = e.loopsSettle ∧ PhaseMoves d e k .failed cause byHw ∧ (e.ph k).failCause = fc ∧ (e.ph k).pulse = .z ∧
      (e.ph k).tmonHigh = ((d.ph k).tmonHigh || (dets.contains .stage && (d.ph k).st != .unpop)) := by
  obtain ⟨hcst, hccnt, hctmon, hcts, hcbeside⟩ := countDetects_ph dets d k
  obtain ⟨htk, htbeside, htts⟩ := tmonOf_ph (d.countDetects k dets) k dets
  obtain ⟨hmove, hcause, hpulse, htmon⟩ := phaseFail_moves ((d.countDetects k dets).tmonOf k dets) k fc cause
  refine ⟨_, ?_, moves_of hmove (fun j hj => (htbeside j hj).trans (hcbeside j hj)) ?_ ?_ (htts.trans hcts) (fun _ _ => rfl) rfl rfl rfl rfl rfl rfl, hcause, hpulse, ?_⟩
  · rw [phaseDetect_eq, if_neg, h]
    unfold Device.countDetects
    rw [hcst, beq_iff_eq]
    exact hst
  · rw [htk]; exact hcst
  · rw [htk]; exact hccnt
  · rw [htmon, htk]
    dsimp only
    unfold Device.countDetects
    rw [hctmon, hcst]

theorem phaseDetect_none {d : Device} {k : Fin 64} {dets : List PhaseDetect} (hst : (d.ph k).st ≠ .failed)
    (h : (d.countDetects k dets).firstDetected k dets = none) : d.phaseDetect k dets = d.countDetects k dets := by
  rw [phaseDetect_eq, if_neg, h]
  unfold Device.countDetects
  rw [(countDetects_ph dets d k).1, beq_iff_eq]
  exact hst

theorem countDetects_stage (d : Device) (k : Fin 64) : d.countDetects k [.stage] = d := by
  show d.countDetect k .stage = d
  unfold Device.countDetect
  exact ite_self _

theorem firstDetected_stage {d : Device} {k : Fin 64} (h : (d.ph k).st ≠ .unpop) : d.firstDetected k [.stage] = some (4, 0x19) := by
  have hdet : d.detected k .stage = some 4 := by
    unfold Device.detected
    exact if_pos (by rw [bne_iff_ne]; exact h)
  unfold Device.firstDetected failOrder
  simp [hdet]

/-- Settles O29: the ends of JOINING and DRAINING, then the detections of a LOOP cycle. -/
theorem phaseStateAndFailureEventsComplete : Obligations.PhaseStateAndFailureEventsComplete := by
  unfold Obligations.PhaseStateAndFailureEventsComplete
  refine ⟨fun s k hrun => ⟨fun hst hcyc => ?join, fun x0 x1 hst hdec => ?decay, fun x0 x1 h => ?noDecay, fun hst hper => ?expiry⟩,
    fun s k hrun => ⟨fun dets hst => ⟨fun fc cause h => ?failure, fun h => ?none⟩, fun hun hst => ?stage, fun hst => ?failed⟩⟩
  case join =>
    refine ⟨_, s.dev.phaseTo k .live 0x1C, exec_joinComplete k s hrun, ?_, phaseTo_moves _ _ _ _ _, phaseTo_own _ _ _ _ _ (by decide)⟩
    dsimp only
    rw [joinComplete_due hst hcyc]
  case decay =>
    exact ⟨_, _, exec_drainDecayComplete k x0 x1 s hrun, drainDecay_done hst hdec, drained_effect (takeImon_taken s.dev k x1) hst⟩
  case noDecay =>
    obtain ⟨⟨a, b, hk⟩, hbeside, -⟩ := takeImon_taken s.dev k x1
    refine ⟨_, exec_drainDecayComplete k x0 x1 s hrun, ?_⟩
    dsimp only
    rw [drainDecay_not h, hk]
    exact ⟨rfl, hbeside⟩
  case expiry =>
    obtain ⟨hmove, hcause, -⟩ := phaseFail_moves s.dev k 5 0x15
    exact ⟨_, _, exec_drainTimeout k s hrun, drainExpiry_due hst hper, hmove, hcause⟩
  case failure =>
    obtain ⟨e, he, heffect⟩ := phaseDetect_fails hst h
    exact ⟨_, e, exec_phaseFailure k dets s hrun, he, heffect⟩
  case none =>
    obtain ⟨hcst, -, -, -, hbeside⟩ := countDetects_ph dets s.dev k
    refine ⟨?_, hcst, hbeside⟩
    rw [exec_phaseFailure k dets s hrun, phaseDetect_none hst h]
    rfl
  case stage =>
    obtain ⟨e, he, hmove, hcause, -, htmon⟩ := phaseDetect_fails (dets := [.stage]) hst (by rw [countDetects_stage]; exact firstDetected_stage hun)
    refine ⟨_, e, exec_stageFault k s hrun, he, hmove, hcause, ?_⟩
    rw [htmon, bne_iff_ne.2 hun]
    exact Bool.or_true _
  case failed =>
    refine ⟨_, exec_stageFault k s hrun, ?_⟩
    dsimp only
    rw [phaseDetect_eq, countDetects_stage, if_pos (by rw [hst]; rfl)]
    obtain ⟨hk, hbeside, -⟩ := tmonOf_ph s.dev k [.stage]
    refine ⟨?_, hbeside⟩
    have hhigh : ([PhaseDetect.stage].contains .stage && (s.dev.ph k).st != .unpop) = true := by
      rw [hst]
      decide
    rw [hk, hhigh, Bool.or_true]

end Sys2Proof.Machine
end

section
/-! SUPPORT. A phase's pulse, its lending and its calibration: their settled statement. -/

set_option maxRecDepth 4000

namespace Sys2Proof.Machine
open Sys2Proof

/-! ## The leading edge (R203, R204, R210) -/

theorem exec_pulseLeadingEdge (k : Fin 64) (off : OffTime) (s : State) (hrun : s.dev.hupRuns = true) :
    exec (.pulseLeadingEdge k off) s = .next { s with dev := s.dev.leadingEdge k off } := service_next s (fun d => d.leadingEdge k off) hrun

theorem leadingEdge_waits {d : Device} {k : Fin 64} (off : OffTime) (hact : (d.ph k).st.active = true) (hp : (d.ph k).pulse = .high) :
    d.leadingEdge k off = d.updPh k fun p => { p with edgeDue := true } := by
  unfold Device.leadingEdge
  dsimp only
  rw [hact, hp, if_neg (by decide), if_pos (by decide)]

/-- The device whose off-time of phase k has ended. -/
def Device.offEnded (d : Device) (k : Fin 64) (off : OffTime) : Device :=
  (d.offEnds k off).updPh k fun p => p.endPeriod.judgeL (d.preg k 0x0C)

theorem offEnded_ph (d : Device) (k : Fin 64) (off : OffTime) :
    ((d.offEnded k off).ph k).st = (d.ph k).st ∧ ((d.offEnded k off).ph k).own = (d.ph k).own ∧
      ((d.offEnded k off).ph k).slopeHold = decide ((d.learnWindow k off).length < 4) ∧ ((d.offEnded k off).ph k).joinCyc = (d.ph k).joinCyc ∧
      ((d.offEnded k off).ph k).iBal = (d.ph k).iBal ∧ ((d.offEnded k off).ph k).pulse = (d.ph k).pulse ∧
      ((d.offEnded k off).ph k).edgeDue = (d.ph k).edgeDue ∧ ∀ j, j ≠ k → (d.offEnded k off).ph j = d.ph j := by
  obtain ⟨hst, hown, hhold, hjoin, hbal, hpulse, hdue, hbeside⟩ := offEnds_ph d k off
  unfold Device.offEnded
  rw [updPh_at]
  exact ⟨hst, hown, hhold, hjoin, hbal, hpulse, hdue, fun j hj => (updPh_beside _ _ _ hj).trans (hbeside j hj)⟩

theorem offEnded_peak (d : Device) (k : Fin 64) (off : OffTime) : (d.offEnded k off).peakOf k = d.peakOf k := by
  obtain ⟨hst, hown, -, hjoin, hbal, -⟩ := offEnded_ph d k off
  exact peak_of k hown hst hjoin hbal (offEnds_loop d k off) (offEnds_regs d k off)

/-- The leading edge of a phase in its off-time: counters apart, the off-time ends and the edge is made. -/
theorem leadingEdge_made {d : Device} {k : Fin 64} (off : OffTime) (hact : (d.ph k).st.active = true) (hp : (d.ph k).pulse ≠ .high) :
    ∃ g : Device, g.phase = (d.offEnded k { off with tOff := off.tOff + (d.tOffMin k - off.tOff) }).phase ∧
      d.leadingEdge k off = g.updPh k fun p => { p with
        dac := (d.peakOf k).1, ilim := (d.peakOf k).2, dmaxHit := false, edgeLate := d.tOffMin k - off.tOff
        onlyPulse := decide (0 < d.tOffMin k - off.tOff) || p.edgeDue, edgeDue := false
        pulse := if (d.peakOf k).1 = 0 then (if p.pulse == .high then .low else p.pulse) else .high } := by
  unfold Device.leadingEdge
  dsimp only
  rw [hact, if_neg (by decide), if_neg (by rwa [beq_iff_eq])]
  have hpeak := offEnded_peak d k { off with tOff := off.tOff + (d.tOffMin k - off.tOff) }
  unfold Device.offEnded at hpeak ⊢
  rw [hpeak]
  refine ⟨_, ?_, rfl⟩
  refine keeps_phase ?_
  (repeat' split) <;> simp

theorem leadingEdge_effect {d : Device} {k : Fin 64} (off : OffTime) (hact : (d.ph k).st.active = true) (hp : (d.ph k).pulse ≠ .high) :
    let late := d.tOffMin k - off.tOff
    let e := d.leadingEdge k off
    (e.ph k).st = (d.ph k).st ∧ (e.ph k).own = (d.ph k).own ∧ (e.ph k).dmaxHit = false ∧ (e.ph k).dac = (d.peakOf k).1 ∧ (e.ph k).ilim = (d.peakOf k).2 ∧
      ((d.peakOf k).1 ≠ 0 → (e.ph k).pulse = .high) ∧ ((d.peakOf k).1 = 0 → (e.ph k).pulse ≠ .high) ∧ (e.ph k).edgeLate = late ∧
      (e.ph k).onlyPulse = (decide (0 < late) || (d.ph k).edgeDue) ∧ (e.ph k).edgeDue = false ∧
      (e.ph k).slopeHold = decide ((d.learnWindow k { off with tOff := off.tOff + late }).length < 4) ∧ ∀ j, j ≠ k → e.ph j = d.ph j := by
  dsimp only
  obtain ⟨g, hg, he⟩ := leadingEdge_made off hact hp
  obtain ⟨hst, hown, hhold, -, -, hpulse, hdue, hbeside⟩ := offEnded_ph d k { off with tOff := off.tOff + (d.tOffMin k - off.tOff) }
  rw [he, updPh_at, ph_of hg]
  refine ⟨hst, hown, rfl, rfl, rfl, fun hc => if_neg hc, fun hc => ?_, rfl, ?_, rfl, hhold, fun j hj => ?_⟩
  · dsimp only
    rw [if_pos hc, hpulse, if_neg (by rwa [beq_iff_eq])]
    exact hp
  · dsimp only
    rw [hdue]
  · rw [updPh_beside _ _ _ hj, ph_of hg]
    exact hbeside j hj

/-! ## The trailing edge (R199 to R202, R205) -/

theorem exec_peakComparatorTrip (k : Fin 64) (ton : Nat) (diff : Int) (on : OnTime) (s : State) (hrun : s.dev.hupRuns = true) :
    exec (.peakComparatorTrip k ton diff on) s = .next { s with dev := s.dev.comparatorTrip k ton diff on } :=
  service_next s (fun d => d.comparatorTrip k ton diff on) hrun

theorem exec_dmaxLimit (k : Fin 64) (first : Nat) (codes irefs : List Nat) (s : State) (hrun : s.dev.hupRuns = true) :
    exec (.dmaxLimit k first codes irefs) s =
      .next { s with dev := s.dev.trailingEdge k (s.dev.dmaxTime k) { samples := List.zipWith Imon.mk codes irefs, first := first } true } :=
  service_next s (fun d => d.trailingEdge k (d.dmaxTime k) { samples := List.zipWith Imon.mk codes irefs, first := first } true) hrun

/-- The judgement of an open phase counts, and does no more. -/
theorem judgeOpen_ph (d : Device) (k : Fin 64) (l : List Rat) : (∃ c, (d.judgeOpen k l).ph k = { d.ph k with openCnt := c }) ∧
    ∀ j, j ≠ k → (d.judgeOpen k l).ph j = d.ph j := by
  unfold Device.judgeOpen
  split
  · split
    · exact ⟨⟨_, rfl⟩, fun _ _ => rfl⟩
    · exact ⟨⟨_, updPh_at _ _ _⟩, fun j hj => updPh_beside _ _ _ hj⟩
  · exact ⟨⟨_, rfl⟩, fun _ _ => rfl⟩

/-- A phase whose pulse ends ton after its leading edge, with the currents of that pulse. -/
def Phase.cutAt (p : Phase) (ton : Nat) (amps : List Rat) (dmax : Bool) : Phase :=
  { p.addCurrent amps with pulse := .low, ton := min 0xFFFF (p.grid ton), dmaxHit := p.dmaxHit || dmax, offAge := 0 }

theorem trailingEdge_effect {d : Device} {k : Fin 64} (ton : Nat) (on : OnTime) (dmax : Bool) (hact : (d.ph k).st.active = true) (hp : (d.ph k).pulse = .high) :
    let e := d.trailingEdge k ton on dmax
    (e.ph k).pulse = .low ∧ (e.ph k).ton = min 0xFFFF ((d.ph k).grid ton) ∧ (e.ph k).dmaxHit = ((d.ph k).dmaxHit || dmax) ∧ (e.ph k).st = (d.ph k).st ∧
      ∀ j, j ≠ k → e.ph j = d.ph j := by
  dsimp only
  obtain ⟨l, hedge⟩ : ∃ l, d.trailingEdge k ton on dmax =
      ((d.takeLast k on.samples).updPh k fun p => p.cutAt ton ((d.onSamples k on ton).map (·.2)) dmax).judgeOpen k l := by
    unfold Device.trailingEdge
    dsimp only
    rw [hact, hp, if_pos (by decide)]
    exact ⟨_, rfl⟩
  obtain ⟨a, b, htake⟩ := takeLast_ph d k on.samples
  obtain ⟨⟨c, hjudge⟩, hbeside⟩ := judgeOpen_ph ((d.takeLast k on.samples).updPh k fun p => p.cutAt ton ((d.onSamples k on ton).map (·.2)) dmax) k l
  rw [hedge, hjudge, updPh_at, htake]
  exact ⟨rfl, rfl, rfl, rfl, fun j hj => (hbeside j hj).trans ((updPh_beside _ _ _ hj).trans (takeLast_beside _ _ _ hj))⟩

theorem comparatorTrip_ends {d : Device} {k : Fin 64} {ton : Nat} {diff : Int} (on : OnTime)
    (h : d.dmaxTime k < ton ∨ (d.tBlank k ≤ ton ∧ (d.ph k).trips ton diff = true)) :
    d.comparatorTrip k ton diff on = d.trailingEdge k (min ton (d.dmaxTime k)) on (decide (d.dmaxTime k < ton)) := by
  unfold Device.comparatorTrip
  by_cases hd : d.dmaxTime k < ton
  · rw [if_pos hd, decide_eq_true hd, Nat.min_eq_right (by omega)]
  · obtain ⟨hblank, htrips⟩ := h.resolve_left hd
    rw [if_neg hd, decide_eq_false hd, if_pos (by rw [decide_eq_true hblank, htrips]; rfl), Nat.min_eq_left (by omega)]

theorem comparatorTrip_ignored {d : Device} {k : Fin 64} {ton : Nat} {diff : Int} (on : OnTime) (hd : ton ≤ d.dmaxTime k)
    (h : ton < d.tBlank k ∨ (d.ph k).trips ton diff = false) : d.comparatorTrip k ton diff on = d := by
  unfold Device.comparatorTrip
  rw [if_neg (by omega), if_neg]
  rw [Bool.and_eq_true, decide_eq_true_eq]
  rintro ⟨hblank, htrips⟩
  obtain h | h := h
  · omega
  · rw [htrips] at h
    exact absurd h (by decide)

theorem exec_diodeEmulationZero (k : Fin 64) (x : Imon) (s : State) (hrun : s.dev.hupRuns = true) :
    exec (.diodeEmulationZero k x.code x.iref) s = .next { s with dev := s.dev.diodeZero k x } := service_next s (fun d => d.diodeZero k x) hrun

theorem diodeZero_effect {d : Device} {k : Fin 64} {x : Imon} (hact : (d.ph k).st.active = true) (hp : (d.ph k).pulse = .low) (hdem : d.demOn k = true)
    (hx : d.imonAmps k x ≤ 0) :
    ((d.diodeZero k x).ph k).pulse = .z ∧ ((d.diodeZero k x).ph k).st = (d.ph k).st ∧ ∀ j, j ≠ k → (d.diodeZero k x).ph j = d.ph j := by
  obtain ⟨⟨a, b, hk⟩, hbeside, -⟩ := takeImon_taken d k x
  unfold Device.diodeZero
  dsimp only
  rw [hact, hp, hdem, if_pos (by simpa using hx), updPh_at, hk]
  exact ⟨rfl, rfl, fun j hj => (updPh_beside _ _ _ hj).trans (hbeside j hj)⟩

/-! ## Lending (R311, R313, R315, R727) -/

theorem exec_lendRequest (k : Fin 64) (s : State) (hrun : s.dev.hupRuns = true) :
    exec (.lendRequest k) s = .next { s with dev := s.dev.lendArrive k } := service_next s (fun d => d.lendArrive k) hrun

/-- A device in which the lend request of phase k has been taken, and no other phase has changed. -/
def LendTaken (d e : Device) (k : Fin 64) : Prop := (e.ph k).lendReq = false ∧ ∀ j, j ≠ k → e.ph j = d.ph j

section
variable {d e : Device} {k : Fin 64} (h : LendTaken d e k)
include h

theorem LendTaken.phaseTo (st : PhaseState) (cause who : Nat) : LendTaken d (e.phaseTo k st cause who) k := by
  obtain ⟨hk, hbeside⟩ := phaseTo_ph e k st cause who
  exact ⟨by rw [hk]; exact h.1, fun j hj => (hbeside j hj).trans (h.2 j hj)⟩

theorem LendTaken.updPh {f : Phase → Phase} (hf : ∀ p, (f p).lendReq = p.lendReq) : LendTaken d (e.updPh k f) k :=
  ⟨by rw [updPh_at, hf]; exact h.1, fun j hj => (updPh_beside _ _ _ hj).trans (h.2 j hj)⟩

theorem LendTaken.lendRecord (r : LendResult) : LendTaken d (e.lendRecord k r) k := by
  obtain ⟨hk, hbeside⟩ := lendRecord_ph e k r
  exact ⟨by rw [hk]; exact h.1, fun j hj => (hbeside j hj).trans (h.2 j hj)⟩

theorem LendTaken.takeOwn : LendTaken d (e.takeOwn k) k := h.updPh fun _ => rfl

end

/-- The device whose phase k takes the request that a map write has left. -/
def Device.lendAsked (d : Device) (k : Fin 64) : Device := d.updPh k fun p => { p with lendReq := false, lendFrom := p.own }

theorem lendAsked_ph (d : Device) (k : Fin 64) : (d.lendAsked k).ph k = { d.ph k with lendReq := false, lendFrom := (d.ph k).own } := updPh_at _ _ _

theorem lendAsked_taken (d : Device) (k : Fin 64) : LendTaken d (d.lendAsked k) k :=
  ⟨by rw [lendAsked_ph], fun j hj => updPh_beside _ _ _ hj⟩

/-- What a request that cannot be met does, by the state of its phase. -/
def Device.lendOther (d : Device) (k : Fin 64) (st : PhaseState) : Device :=
  match st with
  | .failed => (d.lendRecord k .failed).takeOwn k
  | .draining => (d.lendRecord k .endedOff).updPh k fun p => { p with mapHeld := true }
  | .crowbar => (d.lendRecord k .endedOff).updPh k fun p => { p with mapHeld := true }
  | .forced => (d.lendRecord k .endedOff).updPh k fun p => { p with mapHeld := true }
  | _ => (d.lendRecord k .endedOff).takeOwn k

theorem lendOther_taken {d e : Device} {k : Fin 64} (h : LendTaken d e k) (st : PhaseState) : LendTaken d (e.lendOther k st) k := by
  unfold Device.lendOther
  split
  · exact (h.lendRecord _).takeOwn
  · exact (h.lendRecord _).updPh fun _ => rfl
  · exact (h.lendRecord _).updPh fun _ => rfl
  · exact (h.lendRecord _).updPh fun _ => rfl
  · exact (h.lendRecord _).takeOwn

/-- A parked phase ends the request, and stays only where its new loop regulates. -/
def Device.lendParked (d : Device) (k : Fin 64) : Device :=
  let e := (d.lendRecord k .endedOff).takeOwn k
  if e.ownRegulates k then e else e.phaseTo k .off 0x12

section
variable {d : Device} {k : Fin 64} (hreq : (d.ph k).lendReq = true)
include hreq

theorem lendArrive_active (hact : (d.ph k).st.active = true) :
    d.lendArrive k = ((d.lendAsked k).phaseTo k .draining 0x12).updPh k fun p => { p with dest := .handoff } := by
  have hst : ((d.lendAsked k).ph k).st = (d.ph k).st := by rw [lendAsked_ph]
  rw [← phaseLend_active (d.lendAsked k) k (by rw [hst]; exact hact)]
  unfold Device.lendArrive
  rw [hreq, if_neg (by decide)]
  show (match ((d.lendAsked k).ph k).st with | .joining => _ | .live => _ | .draining => _ | .failed => _ | .parked => _ | .crowbar => _ | .forced => _ | _ => _ : Device) = _
  rw [hst]
  cases hs : (d.ph k).st with
  | joining => rfl
  | live => rfl
  | _ => rw [hs] at hact; exact absurd hact (by decide)

theorem lendArrive_parked (hs : (d.ph k).st = .parked) : d.lendArrive k = (d.lendAsked k).lendParked k := by
  have hst : ((d.lendAsked k).ph k).st = .parked := by rw [lendAsked_ph]; exact hs
  unfold Device.lendArrive
  rw [hreq, if_neg (by decide)]
  show (match ((d.lendAsked k).ph k).st with | .joining => _ | .live => _ | .draining => _ | .failed => _ | .parked => _ | .crowbar => _ | .forced => _ | _ => _ : Device) = _
  rw [hst]
  rfl

theorem lendArrive_draining (hs : (d.ph k).st = .draining) (hdest : (d.ph k).dest = .parked) :
    d.lendArrive k = (d.lendAsked k).updPh k fun p => { p with dest := .handoff } := by
  have hst : ((d.lendAsked k).ph k).st = .draining := by rw [lendAsked_ph]; exact hs
  have hde : ((d.lendAsked k).ph k).dest = .parked := by rw [lendAsked_ph]; exact hdest
  unfold Device.lendArrive
  rw [hreq, if_neg (by decide)]
  show (match ((d.lendAsked k).ph k).st with | .joining => _ | .live => _ | .draining => _ | .failed => _ | .parked => _ | .crowbar => _ | .forced => _ | _ => _ : Device) = _
  rw [hst]
  show (if ((d.lendAsked k).ph k).dest == .parked then (d.lendAsked k).phaseLend k else _) = _
  rw [hde, if_pos (by decide)]
  unfold Device.phaseLend
  rw [hst, hde]
  rfl

theorem lendArrive_other (hact : (d.ph k).st.active = false) (hp : (d.ph k).st ≠ .parked) (hd : (d.ph k).st = .draining → (d.ph k).dest ≠ .parked) :
    d.lendArrive k = (d.lendAsked k).lendOther k (d.ph k).st := by
  have hst : ((d.lendAsked k).ph k).st = (d.ph k).st := by rw [lendAsked_ph]
  have hde : ((d.lendAsked k).ph k).dest = (d.ph k).dest := by rw [lendAsked_ph]
  unfold Device.lendArrive
  rw [hreq, if_neg (by decide)]
  show (match ((d.lendAsked k).ph k).st with | .joining => _ | .live => _ | .draining => _ | .failed => _ | .parked => _ | .crowbar => _ | .forced => _ | _ => _ : Device) = _
  rw [hst]
  cases hs : (d.ph k).st with
  | joining => rw [hs] at hact; exact absurd hact (by decide)
  | live => rw [hs] at hact; exact absurd hact (by decide)
  | parked => exact absurd hs hp
  | draining =>
    show (if ((d.lendAsked k).ph k).dest == .parked then (d.lendAsked k).phaseLend k else _) = _
    rw [hde, if_neg (by rw [beq_iff_eq]; exact hd hs)]
    rfl
  | _ => rfl

end

/-- The request of every state takes the request and leaves the other phases. -/
theorem lendArrive_taken {d : Device} {k : Fin 64} (hreq : (d.ph k).lendReq = true) : LendTaken d (d.lendArrive k) k := by
  have hasked := lendAsked_taken d k
  by_cases hact : (d.ph k).st.active = true
  · rw [lendArrive_active hreq hact]
    exact (hasked.phaseTo _ _ _).updPh fun _ => rfl
  by_cases hp : (d.ph k).st = .parked
  · rw [lendArrive_parked hreq hp]
    unfold Device.lendParked
    dsimp only
    split
    · exact (hasked.lendRecord _).takeOwn
    · exact (hasked.lendRecord _).takeOwn.phaseTo _ _ _
  by_cases hd : (d.ph k).st = .draining ∧ (d.ph k).dest = .parked
  · rw [lendArrive_draining hreq hd.1 hd.2]
    exact hasked.updPh fun _ => rfl
  · rw [lendArrive_other hreq (Bool.not_eq_true _ ▸ hact) hp fun hs hdest => hd ⟨hs, hdest⟩]
    exact lendOther_taken hasked _

/-- An active phase drains towards HANDOFF, with the lend recorded. -/
theorem lendArrive_drains {d : Device} {k : Fin 64} (hreq : (d.ph k).lendReq = true) (hact : (d.ph k).st.active = true) :
    PhaseMoves d (d.lendArrive k) k .draining 0x12 byHw ∧ ((d.lendArrive k).ph k).dest = .handoff ∧ ((d.lendArrive k).ph k).lendFrom = (d.ph k).own := by
  rw [lendArrive_active hreq hact]
  have hmove := phaseTo_moves (d.lendAsked k) k .draining 0x12 byHw
  refine ⟨moves_of hmove (lendAsked_taken d k).2 (by rw [lendAsked_ph]) (by rw [lendAsked_ph]) rfl (fun j hj => updPh_beside _ _ _ hj) ?_ ?_ ?_ ?_ ?_ ?_, ?_, ?_⟩ <;>
    rw [updPh_at]
  rw [(phaseTo_ph _ _ _ _ _).1, lendAsked_ph]
  rfl

theorem lendArrive_redirects {d : Device} {k : Fin 64} (hreq : (d.ph k).lendReq = true) (hst : (d.ph k).st = .draining) (hdest : (d.ph k).dest = .parked) :
    ((d.lendArrive k).ph k).st = .draining ∧ ((d.lendArrive k).ph k).dest = .handoff := by
  rw [lendArrive_draining hreq hst hdest, updPh_at, lendAsked_ph]
  exact ⟨hst, rfl⟩

/-- A parked phase takes over the loop of its map, and stays parked where that regulates. -/
theorem lendArrive_takesMap {d : Device} {k : Fin 64} (hreq : (d.ph k).lendReq = true) (hst : (d.ph k).st = .parked) :
    ((d.lendArrive k).ph k).lendFrom = none ∧ ((d.lendArrive k).ph k).own = d.phMap k ∧
      ((d.lendArrive k).ph k).st = if d.mapRegulates k then .parked else .off := by
  rw [lendArrive_parked hreq hst]
  have hmap : ((d.lendAsked k).lendRecord k .endedOff).phMap k = d.phMap k := by
    unfold Device.phMap
    rw [preg_of (d := d) (keeps_regs (by unfold Device.lendAsked; simp))]
  have hph : (((d.lendAsked k).lendRecord k .endedOff).takeOwn k).ph k = { d.ph k with lendReq := false, lendFrom := none, own := d.phMap k } := by
    unfold Device.takeOwn
    rw [updPh_at, (lendRecord_ph _ _ _).1, lendAsked_ph, hmap]
    rfl
  have hmap' : (((d.lendAsked k).lendRecord k .endedOff).takeOwn k).phMap k = d.phMap k := hmap
  have hloop : ∀ n, ((((d.lendAsked k).lendRecord k .endedOff).takeOwn k).lp n).st = (d.lp n).st := fun n => lendRecord_lpst (d.lendAsked k) k .endedOff n
  unfold Device.lendParked
  dsimp only
  generalize ((d.lendAsked k).lendRecord k .endedOff).takeOwn k = e at hph hmap' hloop
  have hreg : e.ownRegulates k = d.mapRegulates k := by
    unfold Device.ownRegulates Device.mapRegulates
    rw [hph]
    dsimp only
    cases d.phMap k
    · rfl
    · exact congrArg LoopState.regulating (hloop _)
  rw [hreg]
  cases d.mapRegulates k
  · rw [if_neg (by decide), if_neg (by decide), (phaseTo_ph _ _ _ _ _).1, hph]
    refine ⟨rfl, ?_, rfl⟩
    show (if _ then e.phMap k else d.phMap k) = _
    rw [hmap', ite_self]
  · rw [if_pos rfl, if_pos rfl, hph]
    exact ⟨rfl, rfl, hst⟩

/-- Settles O30: the edges of a pulse, then the lend and the calibration. -/
theorem pulseLendAndCalibrationComplete : Obligations.PulseLendAndCalibrationComplete := by
  unfold Obligations.PulseLendAndCalibrationComplete
  refine ⟨fun s k hrun hact => ⟨fun off hp => ⟨_, exec_pulseLeadingEdge k off s hrun, leadingEdge_effect off hact hp⟩, fun off hp => ?waits,
    fun hp => ⟨fun ton diff on h => ?trip, fun ton diff on hd h => ?ignored, fun first codes irefs => ?dmax⟩,
    fun hp hdem x hx => ⟨_, exec_diodeEmulationZero k x s hrun, diodeZero_effect hact hp hdem hx⟩⟩,
    fun s k => ⟨fun hrun hreq => ?lend, fun hlive ok => live_next s (fun d => d.updPh k fun p => { p with dlcal := !ok }) hlive⟩⟩
  case waits => rw [exec_pulseLeadingEdge k off s hrun, leadingEdge_waits off hact hp]
  case trip =>
    refine ⟨_, exec_peakComparatorTrip k ton diff on s hrun, ?_⟩
    dsimp only
    rw [comparatorTrip_ends on h]
    exact trailingEdge_effect _ on _ hact hp
  case ignored => rw [exec_peakComparatorTrip k ton diff on s hrun, comparatorTrip_ignored on hd h]
  case dmax =>
    obtain ⟨hpulse, hton, hhit, hst, hbeside⟩ := trailingEdge_effect (s.dev.dmaxTime k) { samples := List.zipWith Imon.mk codes irefs, first := first } true hact hp
    exact ⟨_, exec_dmaxLimit k first codes irefs s hrun, hpulse, hton, hhit.trans (Bool.or_true _), hst, hbeside⟩
  case lend =>
    obtain ⟨htaken, hbeside⟩ := lendArrive_taken hreq
    exact ⟨_, exec_lendRequest k s hrun, htaken, hbeside, lendArrive_drains hreq, lendArrive_redirects hreq, lendArrive_takesMap hreq⟩

end Sys2Proof.Machine
end

section
/-! SUPPORT. The writes of a phase's page: their settled statement. -/

set_option maxRecDepth 4000

namespace Sys2Proof.Machine
open Sys2Proof

/-! ## PHSk_MAP (R222 to R225, R237) -/

theorem exec_phaseMapWrite (src : Source) (k : Fin 64) (be : BitVec 4) (data : Word) (s : State) :
    exec (.phaseMapWrite src k be data) s = .next { s with dev := s.dev.busWrite s.fuses src (phaseAddr k 0x00) be data {} } := rfl

/-- A map write of a phase outside service is refused neither for its owner nor for its loop's phases. -/
structure MapFits (d : Device) (r : Requester) (k : Fin 64) (w : Word) : Prop where
  state : (d.ph k).st = .unpop ∨ (d.ph k).st = .off ∨ (d.ph k).st = .failed
  code : bits w 4 0 < 16 ∨ bits w 4 0 = 0x1F
  loop : ∀ n : Fin 16, bits w 4 0 = n.val → (d.ownerOf (0x010 + n.val) = none ∨ d.ownerOf (0x010 + n.val) = some r) ∧ d.mapCrowded k n (bit w 8) = false

/-- The map word that a write of v to the bits m makes. -/
def Device.mapWord (d : Device) (k : Fin 64) (m v : Word) : Word := mergeWord (d.reg (phaseAddr k 0)) v (m &&& storedMask (phaseAddr k 0))

/-- The state of a phase outside service after a write of its POP. -/
def Device.popSet (d : Device) (k : Fin 64) (pop : Bool) (who : Nat) : Device :=
  if pop then (if (d.ph k).st = .unpop then d.phaseTo k .off 0x01 who else d)
  else (if (d.ph k).st = .unpop then d else d.phaseTo k .unpop 0x01 who)

/-- The requester of a fitting write is not kept from its loop, and the loop has room (R223, R225). -/
theorem MapFits.admitted {d : Device} {r : Requester} {k : Fin 64} {w : Word} (h : MapFits d r k w) {n : Fin 16} (hn : loopOfCode (bits w 4 0) = some n) :
    (∀ o, d.ownerOf (0x010 + n.val) = some o → (o != r) = false) ∧ d.mapCrowded k n (bit w 8) = false := by
  obtain ⟨howner, hroom⟩ := h.loop n (loopOfCode_eq hn)
  refine ⟨fun o ho => ?_, hroom⟩
  obtain hnone | hsome := howner
  · rw [hnone] at ho
    exact absurd ho (by nofun)
  · rw [ho] at hsome
    rw [Option.some.inj hsome, bne_self_eq_false]

theorem mapWrite_fits {d : Device} {r : Requester} {k : Fin 64} {m v : Word} (h : MapFits d r k (d.mapWord k m v)) :
    d.mapWrite r k m v = ((d.setReg (phaseAddr k 0) (d.mapWord k m v)).takeOwn k).popSet k (bit (d.mapWord k m v) 8) r.code := by
  have hst : (((d.setReg (phaseAddr k 0) (d.mapWord k m v)).takeOwn k).ph k).st = (d.ph k).st := by
    unfold Device.takeOwn
    rw [updPh_at]
    rfl
  have hcode : ¬(16 ≤ bits (d.mapWord k m v) 4 0 ∧ bits (d.mapWord k m v) 4 0 ≠ 0x1F) := by
    have := h.code
    omega
  have hadmitted := fun n hn => h.admitted (n := n) hn
  have hstate := h.state
  unfold Device.mapWrite
  dsimp only
  rw [show mergeWord (d.reg (phaseAddr k 0)) v (m &&& storedMask (phaseAddr k 0)) = d.mapWord k m v from rfl]
  generalize d.mapWord k m v = w at hst hcode hadmitted
  refine (if_neg ?foreign).trans ((if_neg ?refused).trans ((if_pos ?free).trans ?moves))
  case foreign =>
    cases hn : loopOfCode (bits w 4 0) with
    | none => exact Bool.false_ne_true
    | some n =>
      cases ho : d.ownerOf (0x010 + n.val) with
      | none => simp [ho]
      | some o => simpa [ho] using (hadmitted n hn).1 o ho
  case refused =>
    have hcrowded : ∀ n, loopOfCode (bits w 4 0) = some n → d.mapCrowded k n (bit w 8) = false := fun n hn => (hadmitted n hn).2
    cases hn : loopOfCode (bits w 4 0) with
    | none => obtain hs | hs | hs := hstate <;> simp [hs, hcode]
    | some n => obtain hs | hs | hs := hstate <;> simp [hs, hcode, hcrowded n hn]
  case free => obtain hs | hs | hs := hstate <;> rw [hs] <;> decide
  case moves =>
    unfold Device.popSet
    rw [hst]
    obtain hs | hs | hs := hstate <;> rw [hs] <;> cases bit w 8 <;> rfl

theorem mapCrowded_of {d e : Device} (h : e.regs = d.regs) (k : Fin 64) (n : Fin 16) (pop : Bool) : e.mapCrowded k n pop = d.mapCrowded k n pop := by
  unfold Device.mapCrowded Device.phPop Device.phMap
  simp only [preg_of h]

theorem popSet_regs (d : Device) (k : Fin 64) (pop : Bool) (who : Nat) : (d.popSet k pop who).regs = d.regs := by
  unfold Device.popSet
  split
  · split
    · exact phaseTo_regs _ _ _ _ _
    · rfl
  · split
    · rfl
    · exact phaseTo_regs _ _ _ _ _

/-- A phase whose owner is that of its map keeps it through a change of POP. -/
theorem popSet_own (d : Device) (k : Fin 64) (pop : Bool) (who : Nat) (h : (d.ph k).own = d.phMap k) : ((d.popSet k pop who).ph k).own = d.phMap k := by
  have hmove : ∀ st, ((d.phaseTo k st 0x01 who).ph k).own = d.phMap k := by
    intro st
    rw [(phaseTo_ph _ _ _ _ _).1]
    show (if _ then d.phMap k else (d.ph k).own) = _
    rw [h, ite_self]
  unfold Device.popSet
  split
  · split
    · exact hmove _
    · exact h
  · split
    · exact h
    · exact hmove _

theorem popSet_beside (d : Device) (k : Fin 64) (pop : Bool) (who : Nat) {j : Fin 64} (hj : j ≠ k) : (d.popSet k pop who).ph j = d.ph j := by
  unfold Device.popSet
  split
  · split
    · exact (phaseTo_ph _ _ _ _ _).2 j hj
    · rfl
  · split
    · rfl
    · exact (phaseTo_ph _ _ _ _ _).2 j hj

theorem popSet_populates {d : Device} {k : Fin 64} (who : Nat) (h : (d.ph k).st = .unpop) : d.popSet k true who = d.phaseTo k .off 0x01 who := by
  unfold Device.popSet
  rw [if_pos rfl, if_pos h]

theorem popSet_removes {d : Device} {k : Fin 64} (who : Nat) (h : (d.ph k).st ≠ .unpop) : d.popSet k false who = d.phaseTo k .unpop 0x01 who := by
  unfold Device.popSet
  rw [if_neg (by decide), if_neg h]

theorem popSet_same {d : Device} {k : Fin 64} {pop : Bool} (who : Nat) (h : (d.ph k).st = .unpop ↔ pop = false) : d.popSet k pop who = d := by
  unfold Device.popSet
  cases pop
  · rw [if_neg (by decide), if_pos (h.2 rfl)]
  · rw [if_pos rfl, if_neg fun hs => absurd (h.1 hs) (by decide)]

theorem phs_map (d : Device) (r : Requester) (k : Fin 64) (p : Nat) (m v : Word) (x : WriteInfo) :
    d.phsWrite r k p (0x100 + 0x40 * (k.val % 8) + 0x00) m v x = d.mapWrite r k m v := by
  unfold Device.phsWrite
  rw [phs_mod k 0x00 (by decide)]
  rfl

theorem mapWrite_effect {d : Device} {r : Requester} {k : Fin 64} {m v : Word} (hc : d.canonical = true) (h : MapFits d r k (d.mapWord k m v)) :
    let w := d.mapWord k m v
    let e := d.mapWrite r k m v
    e.preg k 0x00 = w ∧ (e.ph k).own = loopOfCode (bits w 4 0) ∧
      ((d.ph k).st = .unpop → bit w 8 = true → PhaseMoves d e k .off 0x01 r.code) ∧
      ((d.ph k).st ≠ .unpop → bit w 8 = false → PhaseMoves d e k .unpop 0x01 r.code) ∧
      (((d.ph k).st = .unpop ↔ bit w 8 = false) → (e.ph k).st = (d.ph k).st) ∧ ∀ j, j ≠ k → e.ph j = d.ph j := by
  dsimp only
  rw [mapWrite_fits h]
  generalize d.mapWord k m v = w
  have hreg : (d.setReg (phaseAddr k 0) w).reg (phaseAddr k 0) = w := Device.reg_setReg _ _ _ hc
  have hpreg : ((d.setReg (phaseAddr k 0) w).takeOwn k).preg k 0x00 = w := hreg
  have hmap : ((d.setReg (phaseAddr k 0) w).takeOwn k).phMap k = loopOfCode (bits w 4 0) := by
    unfold Device.phMap
    rw [hpreg]
  have hph : ((d.setReg (phaseAddr k 0) w).takeOwn k).ph k = { d.ph k with own := loopOfCode (bits w 4 0) } := by
    unfold Device.takeOwn
    rw [updPh_at, ← hmap]
    rfl
  have hbeside : ∀ j, j ≠ k → ((d.setReg (phaseAddr k 0) w).takeOwn k).ph j = d.ph j := fun j hj => updPh_beside _ _ _ hj
  have hts : ((d.setReg (phaseAddr k 0) w).takeOwn k).ts = d.ts := rfl
  generalize (d.setReg (phaseAddr k 0) w).takeOwn k = g at hpreg hmap hph hbeside hts
  have hst : (g.ph k).st = (d.ph k).st := by rw [hph]
  have hmoves : ∀ b st, PhaseMoves g b k st 0x01 r.code → PhaseMoves d b k st 0x01 r.code := fun b st hm =>
    moves_of hm hbeside hst (by rw [hph]) hts (fun _ _ => rfl) rfl rfl rfl rfl rfl rfl
  refine ⟨(preg_of (popSet_regs g k _ _) k 0).trans hpreg, (popSet_own g k _ _ (by rw [hph, hmap])).trans hmap, fun hs hb => ?_, fun hs hb => ?_, fun hs => ?_,
    fun j hj => (popSet_beside g k _ _ hj).trans (hbeside j hj)⟩
  · rw [hb, popSet_populates _ (hst.trans hs)]
    exact hmoves _ _ (phaseTo_moves _ _ _ _ _)
  · rw [hb, popSet_removes _ (by rw [hst]; exact hs)]
    exact hmoves _ _ (phaseTo_moves _ _ _ _ _)
  · rw [popSet_same _ (by rw [hst]; exact hs)]
    exact hst

/-! ## PHSk_CTL (R230, R232, R240) -/

theorem exec_phaseDisableWrite (src : Source) (k : Fin 64) (off : Bool) (s : State) :
    exec (.phaseDisableWrite src k off) s = .next { s with dev := s.dev.busWrite s.fuses src (phaseAddr k 0x18) 0xF (flag 1 off) {} } := rfl

theorem exec_phaseClrFail (src : Source) (k : Fin 64) (x : FailSeen) (s : State) :
    exec (.phaseClrFail src k x) s = .next { s with
      dev := s.dev.busWrite s.fuses src (phaseAddr k 0x18) 0xF (flag 1 (s.dev.phDisabled k) ||| flag 0 true) { seen := some x } } := rfl

/-- The device with DISABLE of phase k stored. -/
def Device.disableStored (d : Device) (k : Fin 64) (v : Word) : Device :=
  d.putIf true 0 (0x020 + k.val / 8) (0x100 + 0x40 * (k.val % 8) + 0x18) 0xFFFFFFFF v

theorem disableStored_bit {d : Device} (hc : d.canonical = true) (k : Fin 64) (v : Word) : (d.disableStored k v).phDisabled k = bit v 1 := by
  have haddr : phaseAddr k 0x18 ≠ 0x037040 := by
    unfold phaseAddr pageAddr
    have := k.isLt
    omega
  have hword : (d.disableStored k v).preg k 0x18 = mergeWord (d.reg (phaseAddr k 0x18)) v (0xFFFFFFFF &&& storedMask (phaseAddr k 0x18)) := by
    have hnew : d.newWord (0x020 + k.val / 8) (0x100 + 0x40 * (k.val % 8) + 0x18) 0xFFFFFFFF v =
        mergeWord (d.heldWord (phaseAddr k 0x18)) v (0xFFFFFFFF &&& storedMask (phaseAddr k 0x18)) := phs_clamp k 0x18 (by decide) (by decide) _
    rw [Device.heldWord_reg _ haddr] at hnew
    rw [← hnew]
    exact Device.reg_setReg _ _ _ hc
  unfold Device.phDisabled
  rw [hword, bit_mergeWord, if_pos]
  rw [bit_and, (phs_ctl_mask k).1]
  rfl

/-- A write that leaves DISABLE as it is and CLR_FAIL alone changes nothing. -/
theorem ctlWrite_disable (d : Device) (r : Requester) (k : Fin 64) (p : Nat) (off : Bool) (x : WriteInfo) :
    d.phsWrite r k p (0x100 + 0x40 * (k.val % 8) + 0x18) 0xFFFFFFFF (flag 1 off) x =
      if off = d.phDisabled k then d
      else if off then (d.putIf true 0 p (0x100 + 0x40 * (k.val % 8) + 0x18) 0xFFFFFFFF (flag 1 off)).phaseDisable k 0x01 r.code
      else d.putIf true 0 p (0x100 + 0x40 * (k.val % 8) + 0x18) 0xFFFFFFFF (flag 1 off) := by
  rw [phs_ctl _ _ _ _ _ _ _ _ (phs_mod k 0x18 (by decide))]
  have h1 : bit (flag 1 off) 1 = off := by cases off <;> rfl
  have h0 : bit (flag 1 off &&& 0xFFFFFFFF) 0 = false := by cases off <;> rfl
  dsimp only
  rw [h0, if_neg (by decide), h1]
  by_cases hoff : off = d.phDisabled k
  · rw [if_pos hoff, if_neg (by rw [hoff, bne_self_eq_false, Bool.and_false]; decide)]
  · rw [if_neg hoff, if_pos (by rw [bne_iff_ne.2 hoff]; rfl)]

theorem ctlWrite_clrFail (d : Device) (r : Requester) (k : Fin 64) (p : Nat) (x : WriteInfo) :
    d.phsWrite r k p (0x100 + 0x40 * (k.val % 8) + 0x18) 0xFFFFFFFF (flag 1 (d.phDisabled k) ||| flag 0 true) x = d.clrFail k x.seen r.code := by
  rw [phs_ctl _ _ _ _ _ _ _ _ (phs_mod k 0x18 (by decide))]
  have h1 : bit (flag 1 (d.phDisabled k) ||| flag 0 true) 1 = d.phDisabled k := by cases d.phDisabled k <;> rfl
  have h0 : bit ((flag 1 (d.phDisabled k) ||| flag 0 true) &&& 0xFFFFFFFF) 0 = true := by cases d.phDisabled k <;> rfl
  dsimp only
  rw [h0, if_pos rfl, h1, bne_self_eq_false, Bool.and_false, if_neg (by decide)]

theorem phDisabled_of {d e : Device} (h : e.regs = d.regs) (k : Fin 64) : e.phDisabled k = d.phDisabled k := by
  unfold Device.phDisabled
  rw [preg_of h]

/-- What a write of DISABLE does to its phase. -/
theorem disableWrite_effect {d : Device} (hc : d.canonical = true) (r : Requester) (k : Fin 64) (off : Bool) (x : WriteInfo) :
    let e := d.phsWrite r k (0x020 + k.val / 8) (0x100 + 0x40 * (k.val % 8) + 0x18) 0xFFFFFFFF (flag 1 off) x
    e.phDisabled k = off ∧ (∀ j, j ≠ k → e.ph j = d.ph j) ∧ (off = false ∨ d.phDisabled k = true → e.ph k = d.ph k) ∧
      (off = true → d.phDisabled k = false →
        ((d.ph k).st.active = true → PhaseMoves d e k .draining 0x01 r.code ∧ (e.ph k).dest = .off) ∧
        ((d.ph k).st = .parked ∨ (d.ph k).st = .handoff → PhaseMoves d e k .off 0x01 r.code)) := by
  have hbit : (d.disableStored k (flag 1 off)).phDisabled k = off := by
    rw [disableStored_bit hc]
    cases off <;> rfl
  dsimp only
  rw [ctlWrite_disable]
  by_cases hsame : off = d.phDisabled k
  · rw [if_pos hsame]
    refine ⟨hsame.symm, fun _ _ => rfl, fun _ => rfl, fun hon hoff => ?_⟩
    rw [hon, hoff] at hsame
    exact absurd hsame (by decide)
  · rw [if_neg hsame]
    cases off with
    | false => exact ⟨hbit, fun _ _ => rfl, fun _ => rfl, fun h => absurd h (by decide)⟩
    | true =>
      obtain ⟨hdrain, hoff, hbeside, hregs⟩ := dis_moves (d.disableStored k (flag 1 true)) k r.code
      refine ⟨(phDisabled_of hregs k).trans hbit, hbeside, fun h => ?_, fun _ _ => ⟨fun hact => ?_, fun hst => moves_from (hoff hst) rfl rfl⟩⟩
      · obtain h | h := h
        · exact absurd h (by decide)
        · exact absurd h.symm hsame
      · obtain ⟨hmove, hdest⟩ := hdrain hact
        exact ⟨moves_from hmove rfl rfl, hdest⟩

/-! ## The statement -/

/-- A move from the device that an access finds is one from the device before it. -/
theorem moves_arrive {d b : Device} {src : Source} {a : Nat} {k : Fin 64} {st : PhaseState} {cause who : Nat} (h : PhaseMoves (d.arrive src a) b k st cause who) :
    PhaseMoves d b k st cause who := moves_from h (Device.arrive_phase d src a) (Device.arrive_ts d src a)

section
variable {s : State} {src : Source} {k : Fin 64} (hc : s.dev.canonical = true)
include hc

theorem phaseMapWrite_effect {be : BitVec 4} {data : Word} (hbe : alignedBe be = true) (ht : s.dev.takes src (phaseAddr k 0x00) (byteMask be) data = true)
    (hfits : MapFits s.dev (s.dev.requester src) k (s.dev.mapWord k (byteMask be) data)) :
    let w := s.dev.mapWord k (byteMask be) data
    let e := s.dev.busWrite s.fuses src (phaseAddr k 0x00) be data {}
    e.preg k 0x00 = w ∧ (e.ph k).own = loopOfCode (bits w 4 0) ∧
      ((s.dev.ph k).st = .unpop → bit w 8 = true → PhaseMoves s.dev e k .off 0x01 (s.dev.requester src).code) ∧
      ((s.dev.ph k).st ≠ .unpop → bit w 8 = false → PhaseMoves s.dev e k .unpop 0x01 (s.dev.requester src).code) ∧
      (((s.dev.ph k).st = .unpop ↔ bit w 8 = false) → (e.ph k).st = (s.dev.ph k).st) ∧ ∀ j, j ≠ k → e.ph j = s.dev.ph j := by
  have hw : (s.dev.arrive src (phaseAddr k 0x00)).mapWord k (byteMask be) data = s.dev.mapWord k (byteMask be) data := by
    unfold Device.mapWord
    rw [Device.arrive_reg]
  have hfits' : MapFits (s.dev.arrive src (phaseAddr k 0x00)) (s.dev.requester src) k ((s.dev.arrive src (phaseAddr k 0x00)).mapWord k (byteMask be) data) := by
    rw [hw]
    refine ⟨by rw [arrive_ph]; exact hfits.state, hfits.code, fun n hn => ?_⟩
    obtain ⟨howner, hroom⟩ := hfits.loop n hn
    unfold Device.ownerOf at howner ⊢
    rw [(fixed_all s.dev src _ _).1, mapCrowded_of (Device.arrive_regs s.dev src _)]
    exact ⟨howner, hroom⟩
  obtain ⟨hreg, hown, hpop, hremove, hsame, hbeside⟩ := mapWrite_effect (arrive_canon _ _ _ hc) hfits'
  rw [hw] at hreg hown hpop hremove hsame
  rw [arrive_ph] at hpop hremove hsame
  dsimp only
  rw [phs_write _ _ _ _ _ _ _ _ (by decide) (by decide) hbe ht, phs_map]
  exact ⟨hreg, hown, fun hs hb => moves_arrive (hpop hs hb), fun hs hb => moves_arrive (hremove hs hb), hsame, fun j hj => (hbeside j hj).trans (arrive_ph _ _ _ _)⟩

theorem phaseDisableWrite_effect {off : Bool} (ht : s.dev.takes src (phaseAddr k 0x18) 0xFFFFFFFF (flag 1 off) = true) :
    let e := s.dev.busWrite s.fuses src (phaseAddr k 0x18) 0xF (flag 1 off) {}
    e.phDisabled k = off ∧ (∀ j, j ≠ k → e.ph j = s.dev.ph j) ∧ (off = false ∨ s.dev.phDisabled k = true → e.ph k = s.dev.ph k) ∧
      (off = true → s.dev.phDisabled k = false →
        ((s.dev.ph k).st.active = true → PhaseMoves s.dev e k .draining 0x01 (s.dev.requester src).code ∧ (e.ph k).dest = .off) ∧
        ((s.dev.ph k).st = .parked ∨ (s.dev.ph k).st = .handoff → PhaseMoves s.dev e k .off 0x01 (s.dev.requester src).code)) := by
  obtain ⟨hbit, hbeside, hkept, hmoves⟩ := disableWrite_effect (arrive_canon s.dev src (phaseAddr k 0x18) hc) (s.dev.requester src) k off {}
  rw [phDisabled_of (Device.arrive_regs s.dev src _)] at hkept hmoves
  rw [arrive_ph] at hkept hmoves
  dsimp only
  rw [phs_write _ _ _ _ _ _ _ _ (by decide) (by decide) (by decide) (by rw [byteMask_full]; exact ht), byteMask_full]
  refine ⟨hbit, fun j hj => (hbeside j hj).trans (arrive_ph _ _ _ _), hkept, fun hon hoff => ?_⟩
  obtain ⟨hdrain, hpark⟩ := hmoves hon hoff
  exact ⟨fun hact => ⟨moves_arrive (hdrain hact).1, (hdrain hact).2⟩, fun hst => moves_arrive (hpark hst)⟩
end

theorem phaseClrFail_effect {s : State} {src : Source} {k : Fin 64} {x : FailSeen}
    (ht : s.dev.takes src (phaseAddr k 0x18) 0xFFFFFFFF (flag 1 (s.dev.phDisabled k) ||| flag 0 true) = true) :
    let e := s.dev.busWrite s.fuses src (phaseAddr k 0x18) 0xF (flag 1 (s.dev.phDisabled k) ||| flag 0 true) { seen := some x }
    e.phDisabled k = s.dev.phDisabled k ∧ (∀ j, j ≠ k → e.ph j = s.dev.ph j) ∧
      ((s.dev.ph k).st = .failed → s.dev.failActive k (some x) = false →
        PhaseMoves s.dev e k (if s.dev.ownRegulates k then .parked else .off) 0x1D (s.dev.requester src).code ∧ (e.ph k).failCause = 0) ∧
      ((s.dev.ph k).st ≠ .failed ∨ s.dev.failActive k (some x) = true → (e.ph k).st = (s.dev.ph k).st) := by
  have hregs := Device.arrive_regs s.dev src (phaseAddr k 0x18)
  have hphase := Device.arrive_phase s.dev src (phaseAddr k 0x18)
  have hdis : (s.dev.arrive src (phaseAddr k 0x18)).phDisabled k = s.dev.phDisabled k := phDisabled_of hregs k
  obtain ⟨hleave, hstay, hbeside, hkept⟩ := clr_moves (s.dev.arrive src (phaseAddr k 0x18)) k (some x) (s.dev.requester src).code
  rw [own_regulates_of hphase (Device.arrive_loop s.dev src _), failActive_of hphase hregs, arrive_ph] at hleave
  rw [failActive_of hphase hregs, arrive_ph] at hstay
  dsimp only
  rw [phs_write _ _ _ _ _ _ _ _ (by decide) (by decide) (by decide) (by rw [byteMask_full]; exact ht), byteMask_full, ← hdis, ctlWrite_clrFail]
  exact ⟨phDisabled_of hkept k, fun j hj => (hbeside j hj).trans (arrive_ph _ _ _ _), fun hst hact => ⟨moves_arrive (hleave hst hact).1, (hleave hst hact).2⟩, hstay⟩

/-- Settles O31: each write reaches its register, and does there what the register's rule says. -/
theorem phaseWritesComplete : Obligations.PhaseWritesComplete := by
  unfold Obligations.PhaseWritesComplete
  exact fun s src k hc => ⟨fun be data hbe ht hst hcode hloop => ⟨_, exec_phaseMapWrite src k be data s, phaseMapWrite_effect hc hbe ht ⟨hst, hcode, hloop⟩⟩,
    fun off ht => ⟨_, exec_phaseDisableWrite src k off s, phaseDisableWrite_effect hc ht⟩, fun x ht => ⟨_, exec_phaseClrFail src k x s, phaseClrFail_effect ht⟩⟩

end Sys2Proof.Machine
end

section
/-! SUPPORT. A loop's banks, setpoints and cues: what BANK_COMMIT, BANK_SWAP, SETPOINT_WRITE, CUE_PIN, CUE_SW and CUE_HOLD_EXPIRY do. -/

set_option maxRecDepth 4000
namespace Sys2Proof.Machine
open Sys2Proof

/-! ## The commit of a shadow bank (R265, R268) -/

/-- What a committed loop page shows of the commit, and that no register and no other loop hears of it. -/
theorem bankCommit_effect (d : Device) (n : Fin 16) : (d.bankCommit n).regs = d.regs ∧ (∀ m, m ≠ n → (d.bankCommit n).lp m = d.lp m) ∧
    ((d.lp n).pending = true → d.bankCommit n = d) ∧
    ((d.lp n).pending = false → d.bankValid n = true → (d.bankCommit n).lp n = { d.lp n with pending := true }) ∧
    ((d.lp n).pending = false → d.bankValid n = false → (d.bankCommit n).lp n = d.lp n ∧ bit ((d.bankCommit n).head (pg (loopPage n))).err 8 = true) := by
  unfold Device.bankCommit
  cases hp : (d.lp n).pending with
  | true => exact ⟨rfl, fun _ _ => rfl, fun _ => rfl, fun h => absurd h (by decide), fun h => absurd h (by decide)⟩
  | false =>
    rw [if_neg (by decide)]
    cases hv : d.bankValid n with
    | true => exact ⟨rfl, fun m hm => updLp_beside _ _ _ hm, fun h => absurd h (by decide), fun _ _ => updLp_at _ _ _, fun _ h => absurd h (by decide)⟩
    | false => exact ⟨rfl, fun _ _ => rfl, fun h => absurd h (by decide), fun _ h => absurd h (by decide), fun _ _ => ⟨rfl, setErr_bit _ _ _ (by decide)⟩⟩

theorem arrive_lp (d : Device) (src : Source) (a : Nat) (n : Fin 16) : (d.arrive src a).lp n = d.lp n := loop_of (Device.arrive_loop d src a) n

theorem arrive_err (d : Device) (src : Source) (a : Nat) (p : Fin 256) : ((d.arrive src a).head p).err = (d.head p).err :=
  (PageHdr.fixed_eq (Device.arrive_fixed d src a p)).2.2.2.2.2.2

theorem bankCommit_write (d : Device) (f : OtpArray) (src : Source) (n : Fin 16) (ht : d.takes src (pageAddr (loopPage n) 0x094) 0xFFFFFFFF 1 = true) :
    d.busWrite f src (pageAddr (loopPage n) 0x094) 0xF 1 {} = (d.arrive src (pageAddr (loopPage n) 0x094)).bankCommit n :=
  loop_page d f src n 0x094 0xF 1 {} (by decide) (by decide) (by decide) (by decide) (by rw [byteMask_full]; exact ht)

/-- BANK_COMMIT is the access's arrival and then the commit. -/
theorem bankCommit_written {d : Device} {f : OtpArray} {src : Source} {n : Fin 16} (ht : d.takes src (pageAddr (loopPage n) 0x094) 0xFFFFFFFF 1 = true) :
    let e := d.busWrite f src (pageAddr (loopPage n) 0x094) 0xF 1 {}
    e.regs = d.regs ∧ (∀ m, m ≠ n → e.lp m = d.lp m) ∧
      ((d.lp n).pending = true → e.loop = d.loop ∧ (e.head (pg (loopPage n))).err = (d.head (pg (loopPage n))).err) ∧
      ((d.lp n).pending = false → d.bankValid n = true → e.lp n = { d.lp n with pending := true }) ∧
      ((d.lp n).pending = false → d.bankValid n = false → e.lp n = d.lp n ∧ bit (e.head (pg (loopPage n))).err 8 = true) := by
  dsimp only
  rw [bankCommit_write d f src n ht]
  obtain ⟨hregs, hbeside, hpending, hvalid, hinvalid⟩ := bankCommit_effect (d.arrive src (pageAddr (loopPage n) 0x094)) n
  rw [arrive_lp] at hpending hvalid hinvalid
  rw [bankValid_of (Device.arrive_regs d src _)] at hvalid hinvalid
  refine ⟨hregs.trans (Device.arrive_regs _ _ _), fun m hm => (hbeside m hm).trans (arrive_lp _ _ _ _), fun hp => ?_, hvalid, hinvalid⟩
  rw [hpending hp]
  exact ⟨Device.arrive_loop _ _ _, arrive_err _ _ _ _⟩

/-! ## The swap of the banks (R266, R270) -/

/-- A loop whose active bank was swapped, of integrator exponent g0 before and g1 after. -/
def Loop.bankSwapped (l : Loop) (g0 g1 : Nat) : Loop :=
  let f (x : Int) : Int := if g0 = g1 then x else rescale x (2 ^ g0) (2 ^ g1)
  { l with integ := clampI (-(iSat g1)) (iSat g1) (f l.integ), y1 := f l.y1, y2 := f l.y2, pending := false, swaps := (l.swaps + 1) % 65536 }

/-- The swap counts an event of the counters, which keeps registers and loops. -/
theorem bankSwap_eq (d : Device) (n : Fin 16) (h : (d.lp n).pending = true) :
    ∃ e : Device, e.regs = (d.copyBank n).regs ∧ e.loop = (d.copyBank n).loop ∧
      d.bankSwap n = e.updLp n fun l => l.bankSwapped (d.gexp n) ((d.copyBank n).gexp n) := by
  unfold Device.bankSwap
  rw [if_pos h]
  refine ⟨_, ?_, ?_, rfl⟩
  · exact keeps_regs (d := { d.copyBank n with pmc := { (d.copyBank n).pmc with service := (d.copyBank n).pmc.service + 1 } }) (by simp)
  · exact keeps_loop (d := { d.copyBank n with pmc := { (d.copyBank n).pmc with service := (d.copyBank n).pmc.service + 1 } }) (by simp)

theorem bankSwap_effect {d : Device} {n : Fin 16} (hc : d.canonical = true) (h : (d.lp n).pending = true) :
    let e := d.bankSwap n
    (∀ o, o ∈ [0x060, 0x064, 0x068, 0x06C, 0x070] → e.lreg n (o + 0x20) = d.lreg n o) ∧
      (∀ a, (∀ o, o ∈ [0x060, 0x064, 0x068, 0x06C, 0x070] → a ≠ pageAddr (loopPage n) (o + 0x20)) → e.reg a = d.reg a) ∧
      (e.lp n).pending = false ∧ (e.lp n).swaps = ((d.lp n).swaps + 1) % 65536 ∧ (e.lp n).st = (d.lp n).st ∧
      -(iSat (e.gexp n)) ≤ (e.lp n).integ ∧ (e.lp n).integ ≤ iSat (e.gexp n) ∧ ∀ m, m ≠ n → e.lp m = d.lp m := by
  obtain ⟨c, hregs, hloop, heq⟩ := bankSwap_eq d n h
  obtain ⟨-, hcloop, hcopied, hothers⟩ := copyBank_reg d n hc
  have hg : (c.updLp n fun l => l.bankSwapped (d.gexp n) ((d.copyBank n).gexp n)).gexp n = (d.copyBank n).gexp n := by
    unfold Device.gexp
    rw [lreg_of (d := d.copyBank n)]
    exact hregs
  have hlp : ∀ m, c.lp m = d.lp m := fun m => loop_of (hloop.trans hcloop) m
  have hpos := iSat_pos ((d.copyBank n).gexp n)
  dsimp only
  rw [heq, hg, updLp_at, hlp]
  refine ⟨fun o ho => (lreg_of hregs n _).trans (hcopied o ho), fun a ha => (reg_of_same hregs a).trans (hothers a ha), rfl, rfl, rfl,
    (clampI_within _ _ _ (by omega)).1, (clampI_within _ _ _ (by omega)).2, fun m hm => (updLp_beside _ _ _ hm).trans (hlp m)⟩

theorem bankSwap_idle {d : Device} {n : Fin 16} (h : (d.lp n).pending = false) : d.bankSwap n = d := by
  unfold Device.bankSwap
  rw [h, if_neg (by decide)]

/-! ## The setpoints (R253, R319) -/

/-- The offset of setpoint word r of a loop's page. -/
theorem setpoint_cases (P : Nat → Prop) (h0 : P 0x040) (h1 : P 0x044) (h2 : P 0x048) (r : Fin 3) : P (0x040 + 4 * r.val) := by
  match r with
  | 0 => exact h0
  | 1 => exact h1
  | 2 => exact h2

theorem drivesAny_of {d e : Device} (h : e.phase = d.phase) (n : Fin 16) : e.drivesAny n = d.drivesAny n := by
  unfold Device.drivesAny Device.phasesOf
  simp only [ph_of h]

theorem setpointOk_of {d e : Device} (h : e.regs = d.regs) (n : Fin 16) (c : Nat) : e.setpointOk n c = d.setpointOk n c := by
  unfold Device.setpointOk
  simp only [lreg_of h]

/-- What R253 allows of a setpoint word depends on the registers and the phases alone. -/
theorem setpointWriteOk_of {d e : Device} (hr : e.regs = d.regs) (hp : e.phase = d.phase) (n : Fin 16) (r : Fin 3) (w m : Word) :
    e.loopWriteOk n (0x040 + 4 * r.val) w m = d.loopWriteOk n (0x040 + 4 * r.val) w m := by
  refine setpoint_cases (fun o => e.loopWriteOk n o w m = d.loopWriteOk n o w m) ?_ ?_ ?_ r
  all_goals
    unfold Device.loopWriteOk
    simp only [lreg_of hr, drivesAny_of hp, setpointOk_of hr]

theorem loop_clampWord (n : Fin 16) (o : Nat) (w : Word) : clampWord (loopPage n) o w = loopClamp o w := by
  unfold clampWord loopPage
  rw [blockOf_loop]

/-- No limit of R8 holds for a setpoint word. -/
theorem setpoint_newWord (d : Device) (n : Fin 16) (r : Fin 3) (m v : Word) : d.newWord (loopPage n) (0x040 + 4 * r.val) m v =
    mergeWord (d.lreg n (0x040 + 4 * r.val)) v (m &&& storedMask (pageAddr (loopPage n) (0x040 + 4 * r.val))) := by
  have ho : 0x040 + 4 * r.val < 0x1000 := by omega
  unfold Device.newWord
  rw [loop_clampWord, Device.heldWord_reg _ (loop_not_pol n ho)]
  exact setpoint_cases (fun o => loopClamp o (mergeWord (d.lreg n (0x040 + 4 * r.val)) v _) = _) rfl rfl rfl r

theorem setpoint_write {d : Device} {src : Source} {n : Fin 16} {r : Fin 3} {be : BitVec 4} {data : Word} (f : OtpArray) (hbe : alignedBe be = true)
    (ht : d.takes src (pageAddr (loopPage n) (0x040 + 4 * r.val)) (byteMask be) data = true) :
    let o := 0x040 + 4 * r.val
    let w := mergeWord (d.lreg n o) data (byteMask be &&& storedMask (pageAddr (loopPage n) o))
    let a := d.arrive src (pageAddr (loopPage n) o)
    d.busWrite f src (pageAddr (loopPage n) o) be data {} = if d.loopWriteOk n o w (byteMask be) then a.putLoop n o w else a.setErr (loopPage n) (errBit 8) := by
  have hregs := Device.arrive_regs d src (pageAddr (loopPage n) (0x040 + 4 * r.val))
  dsimp only
  rw [loop_page d f src n _ be data {} (by omega) (by omega) (by omega) hbe ht, loopWrite_plain _ _ _ _ _ _ (by omega) (by omega), setpoint_newWord, lreg_of hregs,
    setpointWriteOk_of hregs (Device.arrive_phase _ _ _)]

theorem setpoint_updates (r : Fin 3) : updateOffsets.contains (0x040 + 4 * r.val) = true :=
  setpoint_cases (fun o => updateOffsets.contains o = true) rfl rfl rfl r

/-- A loop that goes on with the word it held at offset o until its next update. -/
def Loop.holds (l : Loop) (o : Nat) (old : Word) : Loop := { l with oldCfg := (o, old) :: l.oldCfg }

theorem holds_found (l : Loop) (o : Nat) (old : Word) : storeFind (l.holds o old).oldCfg o = some old := by
  unfold Loop.holds storeFind
  simp

theorem holds_only {l m : Loop} {o : Nat} {old : Word} (h : m = l.holds o old) : m = { l with oldCfg := m.oldCfg } := by
  subst h
  rfl

theorem holds_none {l m : Loop} (h : m = l) : m = { l with oldCfg := m.oldCfg } := by
  subst h
  rfl

theorem leff_found {d : Device} {n : Fin 16} {o : Nat} {old : Word} (h : storeFind (d.lp n).oldCfg o = some old) : d.leff n o = old := by
  unfold Device.leff
  rw [h]
  rfl

/-- A setpoint word that a regulating loop is given acts from its next update, the one of any other loop at once. -/
theorem putSetpoint_lp (d : Device) (n : Fin 16) (r : Fin 3) (w : Word) :
    let o := 0x040 + 4 * r.val
    let e := d.putLoop n o w
    (∀ m, m ≠ n → e.lp m = d.lp m) ∧ e.lp n = { d.lp n with oldCfg := (e.lp n).oldCfg } ∧ ((d.lp n).st.regulating = true → e.leff n o = d.leff n o) ∧
      ((d.lp n).st.regulating = false → e.loop = d.loop) := by
  dsimp only
  unfold Device.putLoop
  dsimp only
  rw [setpoint_updates, Bool.and_true]
  cases hreg : (d.lp n).st.regulating with
  | false => exact ⟨fun _ _ => rfl, rfl, fun h => absurd h (by decide), fun _ => rfl⟩
  | true =>
    rw [Bool.true_and]
    cases hold : storeFind (d.lp n).oldCfg (0x040 + 4 * r.val) with
    | some old =>
      exact ⟨fun _ _ => rfl, rfl, fun _ => (leff_found (d := d.setReg _ w) hold).trans (leff_found hold).symm, fun h => absurd h (by decide)⟩
    | none =>
      let e := (d.updLp n fun l => l.holds (0x040 + 4 * r.val) (d.lreg n (0x040 + 4 * r.val))).setReg (pageAddr (loopPage n) (0x040 + 4 * r.val)) w
      have hat : e.lp n = (d.lp n).holds (0x040 + 4 * r.val) (d.lreg n (0x040 + 4 * r.val)) := updLp_at _ _ _
      have hleff : e.leff n (0x040 + 4 * r.val) = d.leff n (0x040 + 4 * r.val) := by
        refine (leff_found (hat ▸ holds_found _ _ _)).trans ?_
        unfold Device.leff
        rw [hold]
        rfl
      exact ⟨fun m hm => updLp_beside _ _ _ hm, holds_only hat, fun _ => hleff, fun h => absurd h (by decide)⟩

theorem setpoint_effect {d : Device} {src : Source} {n : Fin 16} {r : Fin 3} {be : BitVec 4} {data : Word} (f : OtpArray) (hc : d.canonical = true)
    (hbe : alignedBe be = true) (ht : d.takes src (pageAddr (loopPage n) (0x040 + 4 * r.val)) (byteMask be) data = true) :
    let o := 0x040 + 4 * r.val
    let w := mergeWord (d.lreg n o) data (byteMask be &&& storedMask (pageAddr (loopPage n) o))
    let e := d.busWrite f src (pageAddr (loopPage n) o) be data {}
    (∀ m, m ≠ n → e.lp m = d.lp m) ∧ e.lp n = { d.lp n with oldCfg := (e.lp n).oldCfg } ∧ ((d.lp n).st.regulating = true → e.leff n o = d.leff n o) ∧
      ((d.lp n).st.regulating = false → e.loop = d.loop) ∧ (∀ a, a ≠ pageAddr (loopPage n) o → e.reg a = d.reg a) ∧
      (d.loopWriteOk n o w (byteMask be) = true → e.lreg n o = w) ∧
      (d.loopWriteOk n o w (byteMask be) = false → e.lreg n o = d.lreg n o ∧ bit (e.head (pg (loopPage n))).err 8 = true) := by
  have hwrite := setpoint_write f hbe ht
  dsimp only at hwrite ⊢
  rw [hwrite]
  clear hwrite
  have hloop := Device.arrive_loop d src (pageAddr (loopPage n) (0x040 + 4 * r.val))
  have hregs := Device.arrive_regs d src (pageAddr (loopPage n) (0x040 + 4 * r.val))
  have hac := arrive_canon d src (pageAddr (loopPage n) (0x040 + 4 * r.val)) hc
  generalize mergeWord _ _ _ = w
  generalize d.arrive src _ = a at hloop hregs hac
  have hleff : a.leff n (0x040 + 4 * r.val) = d.leff n (0x040 + 4 * r.val) := by
    unfold Device.leff
    rw [loop_of hloop, lreg_of hregs]
  by_cases hok : d.loopWriteOk n (0x040 + 4 * r.val) w (byteMask be) = true
  · rw [if_pos hok]
    obtain ⟨hbeside, hat, heff, hoff⟩ := putSetpoint_lp a n r w
    rw [loop_of hloop] at hat heff hoff
    refine ⟨fun m hm => (hbeside m hm).trans (loop_of hloop m), hat, fun h => (heff h).trans hleff, fun h => (hoff h).trans hloop, fun b hb => ?_, fun _ => ?_,
      fun h => absurd (hok.symm.trans h) (by decide)⟩
    · rw [putLoop_reg, Device.reg_setReg_other _ _ _ hb, reg_of_same hregs]
    · exact (putLoop_reg _ _ _ _ _).trans (Device.reg_setReg _ _ _ hac)
  · rw [if_neg hok]
    exact ⟨fun m _ => loop_of hloop m, holds_none (loop_of hloop n), fun _ => hleff, fun _ => hloop, fun b _ => reg_of_same hregs b, fun h => absurd h hok,
      fun _ => ⟨lreg_of hregs n _, setErr_bit _ _ _ (by decide)⟩⟩

/-! ## The cues (R273 to R283) -/

theorem cuePinEdge_off {d : Device} {w : BitVec 7} {t : CueTiming} (h : bit (d.reg 0x0C8040) 0 = false) : d.cuePinEdge w t = d :=
  if_neg (by rw [show d.reg (pageAddr cuePage 0x040) = d.reg 0x0C8040 from rfl, h]; decide)

theorem cuePinEdge_on {d : Device} {w : BitVec 7} {t : CueTiming} (h : bit (d.reg 0x0C8040) 0 = true) :
    d.cuePinEdge w t = d.cue (Fin.ofNat 16 (w.toNat / 8)) (w.toNat % 8) false (some t) := if_pos h

theorem cueSw_write {d : Device} {src : Source} {data : Word} (f : OtpArray) (c : CueTiming) (ht : d.takes src 0x0C8044 0xFFFFFFFF data = true) :
    d.busWrite f src 0x0C8044 0xF data { timing := some c } = (d.arrive src 0x0C8044).cueSwWrite (d.requester src) data (some c) := by
  have hw := Device.busWrite_page d f src 0x0C8 0x044 0xF data { timing := some c } (by rw [byteMask_full]; exact ht) (by decide) (by decide) (by decide) (by decide)
    (Or.inr (by decide))
  refine hw.trans ?_
  show Device.cueSwWrite _ _ (data &&& byteMask 0xF) _ = _
  rw [byteMask_full, and_full, Device.arrive_requester]
  rfl

theorem arrive_ownerOf (d : Device) (src : Source) (a p : Nat) : (d.arrive src a).ownerOf p = d.ownerOf p := (fixed_all d src a _).1

/-- Software's cue acts on a loop that nobody else has claimed. -/
theorem cueSw_acts {d : Device} {src : Source} {data : Word} {n : Fin 16} (f : OtpArray) (c : CueTiming) (ht : d.takes src 0x0C8044 0xFFFFFFFF data = true)
    (hn : n = Fin.ofNat 16 (bits data 6 3)) (hown : d.ownerOf (0x010 + n.val) = none ∨ d.ownerOf (0x010 + n.val) = some (d.requester src)) :
    CueActs d (d.busWrite f src 0x0C8044 0xF data { timing := some c }) n (bits data 2 0) := by
  subst hn
  have heq : (d.arrive src 0x0C8044).cueSwWrite (d.requester src) data (some c) =
      (d.arrive src 0x0C8044).cue (Fin.ofNat 16 (bits data 6 3)) (bits data 2 0) true (some c) := by
    unfold Device.cueSwWrite
    dsimp only
    rw [arrive_ownerOf]
    obtain h | h := hown <;> rw [h]
    exact if_pos rfl
  rw [cueSw_write f c ht, heq]
  exact acts_from (cue_acts _ _ _ (bits_lt data 2 0) _ _) (Device.arrive_regs _ _ _) (Device.arrive_loop _ _ _) (Device.arrive_phase _ _ _)
    (Device.arrive_cycle _ _ _)

/-- Software's cue for a loop that another requester has claimed is rejected. -/
theorem cueSw_rejected {d : Device} {src : Source} {data : Word} {n : Fin 16} {q : Requester} (f : OtpArray) (c : CueTiming)
    (ht : d.takes src 0x0C8044 0xFFFFFFFF data = true) (hn : n = Fin.ofNat 16 (bits data 6 3)) (hown : d.ownerOf (0x010 + n.val) = some q)
    (hq : q ≠ d.requester src) : let e := d.busWrite f src 0x0C8044 0xF data { timing := some c }
    e.loop = d.loop ∧ e.phase = d.phase ∧ bit (e.head (pg 0x0C8)).err 2 = true := by
  subst hn
  have heq : (d.arrive src 0x0C8044).cueSwWrite (d.requester src) data (some c) =
      ((d.arrive src 0x0C8044).cueReject (Fin.ofNat 16 (bits data 6 3)) (bits data 2 0) true false).setErr cuePage (errBit 2) := by
    unfold Device.cueSwWrite
    dsimp only
    rw [arrive_ownerOf, hown]
    exact if_neg hq
  dsimp only
  rw [cueSw_write f c ht, heq]
  obtain ⟨hloop, hphase⟩ := cueReject_keeps (d.arrive src 0x0C8044) (Fin.ofNat 16 (bits data 6 3)) (bits data 2 0) true false
  exact ⟨hloop.trans (Device.arrive_loop _ _ _), hphase.trans (Device.arrive_phase _ _ _), setErr_bit _ _ _ (by decide)⟩

theorem cueSync_keeps (d : Device) : d.cueSync.loop = d.loop ∧ d.cueSync.phase = d.phase := ⟨keeps_loop (by simp), keeps_phase (by simp)⟩

/-- The end of a cue's hold, before a SAFE that waited acts. -/
theorem cueHoldEnd_effect {d : Device} {n : Fin 16} (h : (d.lp n).cueActive = true) :
    (d.cueHoldEnd n).lp n = { d.lp n with cueActive := false, liftFall := true } ∧ (∀ m, m ≠ n → (d.cueHoldEnd n).lp m = d.lp m) ∧
      (d.cueHoldEnd n).phase = d.phase := by
  unfold Device.cueHoldEnd
  rw [if_pos h]
  obtain ⟨hloop, hphase⟩ := cueSync_keeps (d.updLp n fun l => { l with cueActive := false, liftFall := true })
  exact ⟨(loop_of hloop n).trans (updLp_at _ _ _), fun m hm => (loop_of hloop m).trans (updLp_beside _ _ _ hm), hphase⟩

/-! ## The statement -/

theorem exec_bankCommit (src : Source) (n : Fin 16) (s : State) :
    exec (.bankCommit src n) s = .next { s with dev := s.dev.busWrite s.fuses src (pageAddr (loopPage n) 0x094) 0xF 1 {} } := rfl

theorem exec_setpointWrite (src : Source) (n : Fin 16) (r : Fin 3) (be : BitVec 4) (data : Word) (s : State) :
    exec (.setpointWrite src n r be data) s = .next { s with dev := s.dev.busWrite s.fuses src (pageAddr (loopPage n) (0x040 + 4 * r.val)) be data {} } := rfl

theorem exec_cueSw (src : Source) (data : Word) (c : CueTiming) (s : State) :
    exec (.cueSw src data c) s = .next { s with dev := s.dev.busWrite s.fuses src 0x0C8044 0xF data { timing := some c } } := rfl

section
variable {s : State} (hrun : s.dev.hupRuns = true)
include hrun

theorem exec_bankSwap (n : Fin 16) : exec (.bankSwap n) s = .next { s with dev := s.dev.bankSwap n } := service_next s (fun d => d.bankSwap n) hrun

theorem exec_cuePin (pins : BitVec 7) (c : CueTiming) : exec (.cuePin pins c) s = .next { s with dev := s.dev.cuePinEdge pins c } :=
  service_next s (fun d => d.cuePinEdge pins c) hrun

theorem exec_cueHoldExpiry (n : Fin 16) : exec (.cueHoldExpiry n) s = .next { s with dev := (s.dev.cueHoldEnd n).safeSettle } :=
  service_next s (fun d => (d.cueHoldEnd n).safeSettle) hrun
end

/-- Settles O33: a bank, a setpoint or a cue acts on the page of its loop alone, and what the loop is told waits for its tick or its update. -/
theorem bankSetpointAndCueCommandsComplete : Obligations.BankSetpointAndCueCommandsComplete := by
  unfold Obligations.BankSetpointAndCueCommandsComplete
  refine ⟨fun s n hc => ⟨?commit, ?swap, ?setpoint⟩, fun s c => ⟨?pin, ?sw, ?hold⟩⟩
  case commit => exact fun src ht => ⟨_, exec_bankCommit src n s, bankCommit_written ht⟩
  case swap =>
    exact fun hrun => ⟨fun h => (exec_bankSwap hrun n).trans (next_of s (bankSwap_idle h)), fun h => ⟨_, exec_bankSwap hrun n, bankSwap_effect hc h⟩⟩
  case setpoint => exact fun src r be data hbe ht => ⟨_, exec_setpointWrite src n r be data s, setpoint_effect s.fuses hc hbe ht⟩
  case pin =>
    refine fun pins hrun => ⟨fun h => (exec_cuePin hrun pins c).trans (next_of s (cuePinEdge_off h)), fun h => ⟨_, exec_cuePin hrun pins c, ?_⟩⟩
    show CueActs s.dev (s.dev.cuePinEdge pins c) _ _
    rw [cuePinEdge_on h]
    exact cue_acts _ _ _ (Nat.mod_lt _ (by decide)) _ _
  case sw =>
    exact fun src data n ht hn => ⟨fun hown => ⟨_, exec_cueSw src data c s, cueSw_acts s.fuses c ht hn hown⟩,
      fun q hown hq => ⟨_, exec_cueSw src data c s, cueSw_rejected s.fuses c ht hn hown hq⟩⟩
  case hold =>
    intro n hrun h
    obtain ⟨hat, hbeside, hphase⟩ := cueHoldEnd_effect h
    refine ⟨_, s.dev.cueHoldEnd n, exec_cueHoldExpiry hrun n, hat, hbeside, hphase, ?_⟩
    dsimp only

end Sys2Proof.Machine
end

section
/-! SUPPORT. How a loop is enabled, stopped and carried through its states. -/

set_option maxRecDepth 4000
namespace Sys2Proof.Machine
open Sys2Proof

/-! ## Enabling a loop (R287, R292, R302, R324) -/

theorem loopEnable_refused {d : Device} {n : Fin 16} (h : d.loopPermitted n = false) : d.loopEnable n = d := by
  unfold Device.loopEnable
  rw [h, if_neg (by decide)]

section
variable {d : Device} {n : Fin 16} (h : d.loopPermitted n = true)
include h

theorem loopEnable_off (ho : (d.lp n).st = .off) : d.loopEnable n = (d.updLp n fun l => { l with en := true }).loopStart n 0x10 := by
  have hst : ((d.updLp n fun l => { l with en := true }).lp n).st = .off := by rw [updLp_at]; exact ho
  unfold Device.loopEnable
  rw [if_pos h]
  dsimp only
  rw [hst]

theorem loopEnable_stopping (ho : (d.lp n).st = .rampdown ∨ (d.lp n).st = .draining) :
    d.loopEnable n = (d.updLp n fun l => { l with en := true }).updLp n fun l => { l with enLatched := true } := by
  have hst : ((d.updLp n fun l => { l with en := true }).lp n).st = (d.lp n).st := by rw [updLp_at]
  unfold Device.loopEnable
  rw [if_pos h]
  dsimp only
  rw [hst]
  obtain ho | ho := ho <;> rw [ho]

theorem loopEnable_running (h0 : (d.lp n).st ≠ .off) (h1 : ¬ ((d.lp n).st = .rampdown ∨ (d.lp n).st = .draining)) :
    d.loopEnable n = d.updLp n fun l => { l with en := true } := by
  have hst : ((d.updLp n fun l => { l with en := true }).lp n).st = (d.lp n).st := by rw [updLp_at]
  unfold Device.loopEnable
  rw [if_pos h]
  dsimp only
  rw [hst]
  cases hs : (d.lp n).st with
  | off => exact absurd hs h0
  | rampdown => exact absurd (Or.inl hs) h1
  | draining => exact absurd (Or.inr hs) h1
  | _ => rfl
end

/-- The sequencer hears of no loop that had not entered CROWBAR (R324, R366). -/
theorem crowbarsHeard_quiet {d e : Device} {n : Fin 16} (h : LoopQuiet d e n) : e.crowbarsHeard d = e := by
  obtain ⟨-, -, hst, hbeside, -⟩ := h
  refine crowbarsHeard_none e d fun m => ?_
  by_cases hm : m = n
  · subst hm
    by_cases hc : (d.lp m).st = .crowbar
    · exact Or.inl hc
    · obtain hst | hst := hst
      · exact Or.inr (by rw [hst]; exact hc)
      · exact Or.inr hst
  · rw [hbeside m hm]
    exact Classical.em _

theorem crowbarsHeard_still {d e : Device} (h : ∀ m, (e.lp m).st = (d.lp m).st) : e.crowbarsHeard d = e := by
  refine crowbarsHeard_none e d fun m => ?_
  rw [h m]
  exact Classical.em _

/-- An enable that starts no loop with a high OV comparator is heard by nobody. -/
theorem loopEnable_heard {d : Device} {n : Fin 16} (h : (d.lp n).st ≠ .off ∨ (d.lp n).sense.ov = false) : (d.loopEnable n).crowbarsHeard d = d.loopEnable n := by
  by_cases ho : (d.lp n).st = .off
  · exact crowbarsHeard_quiet (loopEnable_lp d n (h.resolve_left (fun hn => hn ho)))
  · obtain ⟨hat, hbeside⟩ := loopEnable_notOff d n ho
    refine crowbarsHeard_still fun m => ?_
    by_cases hm : m = n
    · rw [hm]
      exact hat
    · exact hbeside m hm

theorem loopEnable_effect {d : Device} {n : Fin 16} (hp : d.loopPermitted n = true) (h : (d.lp n).st ≠ .off ∨ (d.lp n).sense.ov = false) :
    let e := d.loopEnable n
    (e.lp n).en = true ∧ e.phase = d.phase ∧ ((d.lp n).st = .off → LoopMoves d e n .prebias 0x10) ∧
      ((d.lp n).st = .rampdown ∨ (d.lp n).st = .draining → (e.lp n).enLatched = true ∧ (e.lp n).st = (d.lp n).st) := by
  refine ⟨loopEnable_en d n hp, ?_⟩
  by_cases ho : (d.lp n).st = .off
  · have hov : ((d.updLp n fun l => { l with en := true }).lp n).sense.ov = false := by
      rw [updLp_at]
      exact h.resolve_left (fun hn => hn ho)
    rw [loopEnable_off hp ho, loopStart_low _ _ _ hov]
    obtain ⟨-, -, hphase, -⟩ := loopTo_lp (d.updLp n fun l => { l with en := true }) n .prebias 0x10 byHw
    refine ⟨hphase, fun _ => lmoves_pre (loopTo_moves _ _ _ _ _) fun _ => rfl, fun hst => ?_⟩
    rw [ho] at hst
    exact absurd hst (by decide)
  · by_cases hs : (d.lp n).st = .rampdown ∨ (d.lp n).st = .draining
    · rw [loopEnable_stopping hp hs, updLp_at, updLp_at]
      exact ⟨rfl, fun hst => absurd hst ho, fun _ => ⟨rfl, rfl⟩⟩
    · rw [loopEnable_running hp ho hs]
      exact ⟨rfl, fun hst => absurd hst ho, fun hst => absurd hst hs⟩

/-- A loop that leaves OFF while its OV comparator is high goes on to CROWBAR, whatever was written to it with the start (R324). -/
theorem startHigh_effect {d : Device} {n : Fin 16} {f : Loop → Loop} (cause : Nat) (hov : (d.lp n).sense.ov = true) (hf : ∀ l, (f l).sense = l.sense) :
    let e := (d.updLp n f).loopStart n cause
    (e.lp n).st = .crowbar ∧ bit (e.lp n).flt 0 = true ∧
      ∀ k, (d.ph k).own = some n → (d.ph k).st ≠ .unpop → (d.ph k).st ≠ .failed → (e.ph k).st = .crowbar :=
  loopStart_high (d.updLp n f) n cause (by rw [updLp_at, hf]; exact hov)

/-! ## Stopping a loop (R292, R300, R301) -/

theorem stopped_lp (d : Device) (n : Fin 16) : (d.updLp n fun l => { l with en := false, enLatched := false }).lp n = { d.lp n with en := false, enLatched := false } :=
  updLp_at _ _ _

/-- Entry to a state keeps the enables. -/
theorem loopTo_enables (d : Device) (n : Fin 16) (st : LoopState) (cause : Nat) :
    ((d.loopTo n st cause).lp n).en = (d.lp n).en ∧ ((d.loopTo n st cause).lp n).enLatched = (d.lp n).enLatched := by
  obtain ⟨-, -, -, hen, hlatched, -⟩ := enter_fields (d.lp n) st cause
  rw [(loopTo_lp d n st cause byHw).1]
  exact ⟨hen, hlatched⟩

theorem updLp_phase (d : Device) (n : Fin 16) (f : Loop → Loop) : (d.updLp n f).phase = d.phase := rfl

/-- A soft stop of a loop that regulates ramps it down where its soft stop is on, and drains it where it is off. -/
theorem softStop_running {d : Device} {n : Fin 16} (h : (d.lp n).st = .ramp ∨ (d.lp n).st = .run) :
    let e := d.loopSoftStop n
    (e.lp n).en = false ∧ (e.lp n).enLatched = false ∧ (bit (d.leff n 0x0E0) 31 = true → LoopMoves d e n .rampdown 0x15 ∧ e.phase = d.phase) ∧
      (bit (d.leff n 0x0E0) 31 = false → LoopMoves d e n .draining 0x16) := by
  have hs := stopped_lp d n
  dsimp only
  rw [(softStop_on d n).2.1 h]
  cases hsoft : bit (d.leff n 0x0E0) 31 with
  | true =>
    obtain ⟨hen, hlatched⟩ := loopTo_enables (d.updLp n fun l => { l with en := false, enLatched := false }) n .rampdown 0x15
    obtain ⟨-, -, hphase, -⟩ := loopTo_lp (d.updLp n fun l => { l with en := false, enLatched := false }) n .rampdown 0x15 byHw
    rw [if_pos rfl, updLp_at]
    rw [hs] at hen hlatched
    refine ⟨hen, hlatched, fun _ => ⟨?_, by rw [updLp_phase, hphase, updLp_phase]⟩, fun h => absurd h (by decide)⟩
    exact lmoves_upd d _ n .rampdown 0x15 (fun l => { l with en := false, enLatched := false }) (fun l => { l with vSs := min l.vSs l.vTarget }) (fun _ => rfl)
      (fun _ => ⟨rfl, rfl, rfl⟩) (loopTo_moves _ _ _ _ _)
  | false =>
    obtain ⟨hmove, hen, hlatched⟩ := loopDrain_moves (d.updLp n fun l => { l with en := false, enLatched := false }) n 0x16
    rw [hs] at hen hlatched
    rw [if_neg (by decide)]
    exact ⟨hen, hlatched, fun h => absurd h (by decide), fun _ => lmoves_pre hmove fun _ => rfl⟩

/-- A stop in PREBIAS, where no phase works, ends in OFF. -/
theorem stopPrebias (d : Device) (n : Fin 16) :
    let e := (d.updLp n fun l => { l with en := false, enLatched := false }).loopTo n .off 0x16
    (e.lp n).en = false ∧ (e.lp n).enLatched = false ∧ LoopMoves d e n .off 0x16 := by
  obtain ⟨hen, hlatched⟩ := loopTo_enables (d.updLp n fun l => { l with en := false, enLatched := false }) n .off 0x16
  rw [stopped_lp] at hen hlatched
  exact ⟨hen, hlatched, lmoves_pre (loopTo_moves _ _ _ _ _) fun _ => rfl⟩

theorem softStop_effect (d : Device) (n : Fin 16) :
    let e := d.loopSoftStop n
    (e.lp n).en = false ∧ (e.lp n).enLatched = false ∧ ((d.lp n).st = .prebias → LoopMoves d e n .off 0x16) ∧
      ((d.lp n).st = .ramp ∨ (d.lp n).st = .run →
        (bit (d.leff n 0x0E0) 31 = true → LoopMoves d e n .rampdown 0x15 ∧ e.phase = d.phase) ∧
        (bit (d.leff n 0x0E0) 31 = false → LoopMoves d e n .draining 0x16)) ∧
      ((d.lp n).st = .rampdown ∨ (d.lp n).st = .draining ∨ (d.lp n).st = .off → (e.lp n).st = (d.lp n).st) := by
  obtain ⟨hprebias, -, hother⟩ := softStop_on d n
  by_cases hpre : (d.lp n).st = .prebias
  · obtain ⟨hen, hlatched, hmove⟩ := stopPrebias d n
    rw [hprebias hpre]
    refine ⟨hen, hlatched, fun _ => hmove, fun h => ?_, fun h => ?_⟩ <;> rw [hpre] at h <;> exact absurd h (by decide)
  · by_cases hrun : (d.lp n).st = .ramp ∨ (d.lp n).st = .run
    · obtain ⟨hen, hlatched, hsoft⟩ := softStop_running hrun
      refine ⟨hen, hlatched, fun h => absurd h hpre, fun _ => hsoft, fun h => ?_⟩
      obtain hrun | hrun := hrun <;> rw [hrun] at h <;> exact absurd h (by decide)
    · dsimp only
      rw [hother hpre (fun h => hrun (Or.inl h)) (fun h => hrun (Or.inr h)), stopped_lp]
      exact ⟨rfl, rfl, fun h => absurd h hpre, fun h => absurd h hrun, fun _ => rfl⟩

theorem hardStop_effect (d : Device) (n : Fin 16) :
    let e := d.loopHardStop n
    (e.lp n).en = false ∧ (e.lp n).enLatched = false ∧ ((d.lp n).st = .prebias → LoopMoves d e n .off 0x16) ∧
      ((d.lp n).st = .ramp ∨ (d.lp n).st = .run ∨ (d.lp n).st = .rampdown → LoopMoves d e n .draining 0x16) := by
  obtain ⟨hprebias, hrunning, hother⟩ := hardStop_on d n
  by_cases hpre : (d.lp n).st = .prebias
  · obtain ⟨hen, hlatched, hmove⟩ := stopPrebias d n
    rw [hprebias hpre]
    refine ⟨hen, hlatched, fun _ => hmove, fun h => ?_⟩
    rw [hpre] at h
    exact absurd h (by decide)
  · by_cases hrun : (d.lp n).st = .ramp ∨ (d.lp n).st = .run ∨ (d.lp n).st = .rampdown
    · obtain ⟨hmove, hen, hlatched⟩ := loopDrain_moves (d.updLp n fun l => { l with en := false, enLatched := false }) n 0x16
      rw [stopped_lp] at hen hlatched
      rw [hrunning hrun]
      exact ⟨hen, hlatched, fun h => absurd h hpre, fun _ => lmoves_pre hmove fun _ => rfl⟩
    · dsimp only
      rw [hother hpre (fun h => hrun (Or.inl h)) (fun h => hrun (Or.inr (Or.inl h))) (fun h => hrun (Or.inr (Or.inr h))), stopped_lp]
      exact ⟨rfl, rfl, fun h => absurd h hpre, fun h => absurd h hrun⟩

theorem loop_isBlock (n : Fin 16) : isBlockPage (loopPage n) = true := by
  revert n
  decide

/-- A write of ENABLE of a loop's page (R287). -/
theorem loopEnableWrite_effect {d : Device} {src : Source} {n : Fin 16} {b : Bool} (f : OtpArray)
    (ht : d.takesHead src (loopPage n) 0x008 (setBit (d.ctlWord (pg (loopPage n))) 0 b) = true) :
    let e := d.busWrite f src (pageAddr (loopPage n) 0x008) 0xF (setBit (d.ctlWord (pg (loopPage n))) 0 b) {}
    e.loop = d.loop ∧ e.phase = d.phase ∧ (b = true ∨ (d.lp n).st = .off ∨ (d.lp n).st = .faulted → e.loopPermitted n = b) ∧
      (b = false → (d.lp n).st ≠ .off → (d.lp n).st ≠ .faulted → d.loopPermitted n = true →
        e.loopPermitted n = true ∧ bit (e.head (pg (loopPage n))).err 8 = true) := by
  have hpg : (pg (loopPage n)).val = loopPage n := Nat.mod_eq_of_lt (by unfold loopPage; omega)
  obtain ⟨hloop, hphase, hfreeze, hset, hrefused⟩ := loop_enable (d.arrive src (pageAddr (loopPage n) 0x008)) n b (d.requester src).code
  have hperm : (d.arrive src (pageAddr (loopPage n) 0x008)).loopPermitted n = d.loopPermitted n := by
    unfold Device.loopPermitted
    rw [arrive_ctl]
  have hwrite := enable_write d f src (pg (loopPage n)) b (by rw [hpg]; exact loop_isBlock n) (by rw [hpg]; exact ht)
    (by rw [hpg, hfreeze, arrive_ctl])
  rw [hpg] at hwrite
  rw [arrive_lp] at hset hrefused
  rw [hperm] at hrefused
  dsimp only
  rw [hwrite]
  exact ⟨hloop.trans (Device.arrive_loop _ _ _), hphase.trans (Device.arrive_phase _ _ _), hset, hrefused⟩

/-! ## The progress of a loop through its states (R292, R295 to R297, R301) -/

/-- A loop in PREBIAS that has taken a conversion. -/
def Loop.preTaken (l : Loop) (code : Nat) : Loop :=
  { l with sense := { l.sense with raw := code }, pbSum := if l.pbCnt < 16 then l.pbSum + code else code, pbCnt := min 17 (l.pbCnt + 1) }

/-- What R296 makes of the first 16 conversions, and of each later one. -/
def Device.prebiasOf (d : Device) (n : Fin 16) (c : Nat) : Int :=
  ((if (d.lp n).pbCnt < 16 then (d.lp n).pbSum + c else c) * d.attenX n * (if (d.lp n).pbCnt < 16 then 312500 else 5000000) : Nat)

theorem attenX_of {d e : Device} {n : Fin 16} (h : e.leff n 0x040 = d.leff n 0x040) : e.attenX n = d.attenX n := by
  unfold Device.attenX Device.atten
  rw [h]

theorem setpoint_of {d e : Device} {n : Fin 16} (h : ∀ o, e.leff n o = d.leff n o) : e.setpoint n = d.setpoint n := by
  unfold Device.setpoint
  rw [h, h, h]

theorem leff_of {d e : Device} {n : Fin 16} (hr : e.regs = d.regs) (hl : (e.lp n).oldCfg = (d.lp n).oldCfg) (o : Nat) : e.leff n o = d.leff n o := by
  unfold Device.leff
  rw [hl, lreg_of hr]

theorem prebiasTake_idle {d : Device} {n : Fin 16} {c : Nat} (h : (d.lp n).st ≠ .prebias) : d.prebiasTake n c = d := by
  unfold Device.prebiasTake
  rw [if_pos (bne_iff_ne.2 h)]

section
variable {d : Device} {n : Fin 16} {c : Nat} (h : (d.lp n).st = .prebias)
include h

theorem prebiasTake_counts (hcnt : (d.lp n).pbCnt < 15) : d.prebiasTake n c = d.updLp n (·.preTaken c) := by
  have hst : ¬ ((d.lp n).st != .prebias) = true := by
    rw [h]
    decide
  have hcnt' : ((d.updLp n (·.preTaken c)).lp n).pbCnt < 16 := by
    rw [updLp_at]
    show min 17 _ < 16
    omega
  unfold Device.prebiasTake
  exact (if_neg hst).trans (if_pos hcnt')

/-- From the sixteenth conversion on, each judges the pre-bias voltage against the setpoint. -/
theorem prebiasTake_judges (hcnt : 15 ≤ (d.lp n).pbCnt) : d.prebiasTake n c =
    if d.prebiasOf n c ≤ (d.setpoint n : Nat) * vCode then (d.updLp n (·.preTaken c)).enterRamp n (d.prebiasOf n c) 0x11
    else (d.updLp n (·.preTaken c)).updLp n fun l => { l with vPb := d.prebiasOf n c } := by
  have hst : ¬ ((d.lp n).st != .prebias) = true := by
    rw [h]
    decide
  have hat : (d.updLp n (·.preTaken c)).lp n = (d.lp n).preTaken c := updLp_at _ _ _
  have hcnt' : ¬ ((d.updLp n (·.preTaken c)).lp n).pbCnt < 16 := by
    rw [hat]
    show ¬ min 17 _ < 16
    omega
  have hleff : ∀ o, (d.updLp n (·.preTaken c)).leff n o = d.leff n o := leff_of rfl (by rw [hat]; rfl)
  have hset := setpoint_of hleff
  have hv : (((d.updLp n (·.preTaken c)).lp n).pbSum * (d.updLp n (·.preTaken c)).attenX n * (if (d.lp n).pbCnt < 16 then 312500 else 5000000) : Nat) = d.prebiasOf n c := by
    rw [attenX_of (hleff _), hat]
    rfl
  unfold Device.prebiasTake
  refine (if_neg hst).trans ((if_neg hcnt').trans ?_)
  dsimp only
  rw [← hset, ← hv]
  rfl
end

/-- Entry to RAMP: the reference starts at the setpoint, and the soft start at the pre-bias voltage (R297). -/
theorem enterRamp_effect (d : Device) (n : Fin 16) (v : Int) :
    let e := d.enterRamp n v 0x11
    LoopMoves d e n .ramp 0x11 ∧ (e.lp n).vPb = v ∧ (e.lp n).vSs = v ∧ (e.lp n).integ = 0 ∧ (e.lp n).iCmd = 0 ∧ (e.lp n).vRef = (d.setpoint n : Nat) * vCode := by
  obtain ⟨hat, -, -, hregs⟩ := loopTo_lp d n .ramp 0x11 byHw
  have hset : (d.loopTo n .ramp 0x11).setpoint n = d.setpoint n := setpoint_of (leff_of hregs (by rw [hat]; rfl))
  have hmove := loopTo_moves d n .ramp 0x11 byHw
  obtain ⟨hst, hprev, hcause, hbeside⟩ := hmove
  dsimp only
  unfold Device.enterRamp
  dsimp only
  generalize d.loopTo n .ramp 0x11 = x at hset hst hprev hcause hbeside
  rw [updLp_at, hset]
  exact ⟨⟨by rw [updLp_at]; exact hst, by rw [updLp_at]; exact hprev, by rw [updLp_at]; exact hcause, fun m hm => by rw [updLp_beside _ _ _ hm]; exact hbeside m hm⟩,
    rfl, rfl, rfl, rfl, rfl⟩

theorem prebiasTake_phase (d : Device) (n : Fin 16) (c : Nat) : (d.prebiasTake n c).phase = d.phase := keeps_phase (by simp)

theorem prebiasTake_runs (d : Device) (n : Fin 16) (c : Nat) : (d.prebiasTake n c).hupRuns = d.hupRuns := by
  unfold Device.hupRuns
  rw [(keeps_live (by simp) : (d.prebiasTake n c).live = d.live), (keeps_boot (by simp) : (d.prebiasTake n c).boot = d.boot)]

theorem prebiasDone_phase (d : Device) (n : Fin 16) (codes : List Nat) : (d.prebiasDone n codes).phase = d.phase :=
  foldl_inv (fun e => e.phase = d.phase) _ _ _ rfl fun e c h => (prebiasTake_phase e n c).trans h

theorem prebiasTake_effect {d : Device} {n : Fin 16} {c : Nat} (h : (d.lp n).st = .prebias) :
    let l := d.lp n
    let sum := if l.pbCnt < 16 then l.pbSum + c else c
    let v : Int := (sum * d.attenX n * (if l.pbCnt < 16 then 312500 else 5000000) : Nat)
    let e := d.prebiasTake n c
    (l.pbCnt < 15 → e.lp n = { l with sense := { l.sense with raw := c }, pbSum := sum, pbCnt := l.pbCnt + 1 }) ∧
      (15 ≤ l.pbCnt → (e.lp n).vPb = v ∧
        (v ≤ (d.setpoint n : Nat) * vCode →
          LoopMoves d e n .ramp 0x11 ∧ (e.lp n).vSs = v ∧ (e.lp n).integ = 0 ∧ (e.lp n).iCmd = 0 ∧ (e.lp n).vRef = (d.setpoint n : Nat) * vCode) ∧
        ((d.setpoint n : Nat) * vCode < v → (e.lp n).st = .prebias)) := by
  dsimp only
  refine ⟨fun hcnt => ?_, fun hcnt => ?_⟩
  · rw [prebiasTake_counts h hcnt, updLp_at]
    unfold Loop.preTaken
    rw [Nat.min_eq_right (by omega)]
  · have hat : (d.updLp n (·.preTaken c)).lp n = (d.lp n).preTaken c := updLp_at _ _ _
    have hset : (d.updLp n (·.preTaken c)).setpoint n = d.setpoint n := setpoint_of (leff_of rfl (by rw [hat]; rfl))
    rw [prebiasTake_judges h hcnt]
    by_cases hv : d.prebiasOf n c ≤ (d.setpoint n : Nat) * vCode
    · obtain ⟨hmove, hpb, hss, hinteg, hcmd, href⟩ := enterRamp_effect (d.updLp n (·.preTaken c)) n (d.prebiasOf n c)
      rw [if_pos hv]
      exact ⟨hpb, fun _ => ⟨lmoves_pre hmove fun _ => rfl, hss, hinteg, hcmd, by rw [href, hset]⟩, fun hlt => absurd hlt (Int.not_lt.2 hv)⟩
    · rw [if_neg hv, updLp_at, updLp_at]
      exact ⟨rfl, fun hle => absurd hle hv, fun _ => h⟩

theorem rampdownDone_effect (d : Device) (n : Fin 16) : LoopMoves d (d.loopDrain n 0x17) n .draining 0x17 := (loopDrain_moves d n 0x17).1

theorem loopDrained_on {d : Device} {n : Fin 16} (hst : (d.lp n).st = .draining) (hp : d.anyDraining n = false) : d.loopDrained n = d.loopTo n .off 0x18 :=
  if_pos (by rw [hst, hp]; rfl)

/-! ## The latched restart (R302, R324) -/

section
variable {d : Device} {n : Fin 16}

theorem loopRestart_refused (hp : d.loopPermitted n = false) : d.loopRestart n = d := if_neg (by rw [hp, Bool.and_false]; decide)

theorem loopRestart_on (hst : (d.lp n).st = .off) (hl : (d.lp n).enLatched = true) (hp : d.loopPermitted n = true) :
    d.loopRestart n = (d.updLp n fun l => { l with enLatched := false }).loopStart n 0x1D := if_pos (by rw [hst, hl, hp]; rfl)

/-- A latched start with a low OV comparator is heard by nobody. -/
theorem loopRestart_effect (hst : (d.lp n).st = .off) (hl : (d.lp n).enLatched = true) (hp : d.loopPermitted n = true) (hov : (d.lp n).sense.ov = false) :
    let e := d.loopRestart n
    e.crowbarsHeard d = e ∧ LoopMoves d e n .prebias 0x1D ∧ (e.lp n).enLatched = false ∧ e.phase = d.phase := by
  have hat : (d.updLp n fun l => { l with enLatched := false }).lp n = { d.lp n with enLatched := false } := updLp_at _ _ _
  have heq : d.loopRestart n = (d.updLp n fun l => { l with enLatched := false }).loopTo n .prebias 0x1D := by
    rw [loopRestart_on hst hl hp, loopStart_low _ _ _ (by rw [hat]; exact hov)]
  obtain ⟨-, -, hphase, -⟩ := loopTo_lp (d.updLp n fun l => { l with enLatched := false }) n .prebias 0x1D byHw
  have hlatched := (loopTo_enables (d.updLp n fun l => { l with enLatched := false }) n .prebias 0x1D).2
  have hquiet := (LoopQuiet.upd d n (fun l => { l with enLatched := false }) fun _ => ⟨rfl, rfl, rfl, rfl⟩).trans
    (loopTo_quiet (d.updLp n fun l => { l with enLatched := false }) n .prebias 0x1D (by decide))
  dsimp only
  rw [heq]
  exact ⟨crowbarsHeard_quiet hquiet, lmoves_pre (loopTo_moves _ _ _ _ _) fun _ => rfl, hlatched.trans (by rw [hat]), hphase⟩
end

/-! ## The statement -/

theorem exec_loopEnableWrite (src : Source) (n : Fin 16) (b : Bool) (s : State) : exec (.loopEnableWrite src n b) s =
    .next { s with dev := s.dev.busWrite s.fuses src (pageAddr (loopPage n) 0x008) 0xF (setBit (s.dev.ctlWord (pg (loopPage n))) 0 b) {} } := rfl

section
variable {s : State} (hrun : s.dev.hupRuns = true) (n : Fin 16)
include hrun

theorem exec_loopEnable : exec (.loopEnable n) s = .next { s with dev := (s.dev.loopEnable n).crowbarsHeard s.dev } :=
  service_next s (fun d => (d.loopEnable n).crowbarsHeard d) hrun

theorem exec_loopSoftStop : exec (.loopSoftStop n) s = .next { s with dev := s.dev.loopSoftStop n } := service_next s (fun d => d.loopSoftStop n) hrun

theorem exec_loopHardStop : exec (.loopHardStop n) s = .next { s with dev := s.dev.loopHardStop n } := service_next s (fun d => d.loopHardStop n) hrun

theorem exec_prebiasComplete (codes : List Nat) : exec (.prebiasComplete n codes) s = .next { s with dev := s.dev.prebiasDone n codes } :=
  service_next s (fun d => d.prebiasDone n codes) hrun

theorem exec_softStartComplete (hst : (s.dev.lp n).st = .ramp) (hss : (s.dev.lp n).ssDone = true) (hpg : 8 ≤ (s.dev.lp n).pgCnt) :
    exec (.softStartComplete n) s = .next { s with dev := s.dev.loopTo n .run 0x13 } :=
  (service_next s (fun d => if (d.lp n).st == .ramp && (d.lp n).ssDone && decide (8 ≤ (d.lp n).pgCnt) then d.loopTo n .run 0x13 else d) hrun).trans
    (next_of s (if_pos (by rw [hst, hss, decide_eq_true hpg]; rfl)))

theorem exec_rampdownComplete (hst : (s.dev.lp n).st = .rampdown) (hss : (s.dev.lp n).vSs ≤ 0) :
    exec (.rampdownComplete n) s = .next { s with dev := s.dev.loopDrain n 0x17 } :=
  (service_next s (fun d => if (d.lp n).st == .rampdown && decide ((d.lp n).vSs ≤ 0) then d.loopDrain n 0x17 else d) hrun).trans
    (next_of s (if_pos (by rw [hst, decide_eq_true hss]; rfl)))

theorem exec_loopDrainComplete (hst : (s.dev.lp n).st = .draining) (hp : s.dev.anyDraining n = false) :
    exec (.loopDrainComplete n) s = .next { s with dev := s.dev.loopTo n .off 0x18 } :=
  (service_next s (fun d => d.loopDrained n) hrun).trans (next_of s (loopDrained_on hst hp))

theorem exec_loopLatchedRestart : exec (.loopLatchedRestart n) s = .next { s with dev := (s.dev.loopRestart n).crowbarsHeard s.dev } :=
  service_next s (fun d => (d.loopRestart n).crowbarsHeard d) hrun

/-- The conversions of PREBIAS are taken one after another. -/
theorem exec_prebiasComplete_cons (c : Nat) (codes : List Nat) {t : State} (ht : exec (.prebiasComplete n [c]) s = .next t) :
    exec (.prebiasComplete n (c :: codes)) s = exec (.prebiasComplete n codes) t := by
  rw [exec_prebiasComplete hrun] at ht ⊢
  injection ht with ht
  subst ht
  have hrun' : ({ s with dev := s.dev.prebiasDone n [c] } : State).dev.hupRuns = true := (prebiasTake_runs s.dev n c).trans hrun
  rw [exec_prebiasComplete hrun']
  exact next_of s rfl

/-- What LOOP_ENABLE does: refused, a start into CROWBAR, and any other. -/
theorem loopEnable_clause :
    (s.dev.loopPermitted n = false → exec (.loopEnable n) s = .next s) ∧
    (s.dev.loopPermitted n = true → (s.dev.lp n).st = .off → (s.dev.lp n).sense.ov = true →
      ∃ (t : State) (e : Device), exec (.loopEnable n) s = .next t ∧ t.dev = e.crowbarsHeard s.dev ∧ (e.lp n).st = .crowbar ∧ bit (e.lp n).flt 0 = true ∧
        ∀ k, (s.dev.ph k).own = some n → (s.dev.ph k).st ≠ .unpop → (s.dev.ph k).st ≠ .failed → (e.ph k).st = .crowbar) ∧
    (s.dev.loopPermitted n = true → (s.dev.lp n).st ≠ .off ∨ (s.dev.lp n).sense.ov = false → ∃ t, exec (.loopEnable n) s = .next t ∧ (t.dev.lp n).en = true ∧
      t.dev.phase = s.dev.phase ∧ ((s.dev.lp n).st = .off → LoopMoves s.dev t.dev n .prebias 0x10) ∧
      ((s.dev.lp n).st = .rampdown ∨ (s.dev.lp n).st = .draining → (t.dev.lp n).enLatched = true ∧ (t.dev.lp n).st = (s.dev.lp n).st)) := by
  refine ⟨fun hp => ?_, fun hp ho hov => ?_, fun hp hlow => ?_⟩
  · refine (exec_loopEnable hrun n).trans (next_of s (e' := s.dev) ?_)
    rw [loopEnable_refused hp]
    exact crowbarsHeard_still fun _ => rfl
  · refine ⟨_, s.dev.loopEnable n, exec_loopEnable hrun n, by dsimp only, ?_⟩
    rw [loopEnable_off hp ho]
    exact startHigh_effect 0x10 hov fun _ => rfl
  · exact ⟨_, (exec_loopEnable hrun n).trans (next_of s (loopEnable_heard hlow)), loopEnable_effect hp hlow⟩

/-- What LOOP_LATCHED_RESTART does with a loop that is OFF and has latched an enable. -/
theorem loopRestart_clause (hst : (s.dev.lp n).st = .off) (hl : (s.dev.lp n).enLatched = true) :
    (s.dev.loopPermitted n = false → exec (.loopLatchedRestart n) s = .next s) ∧
    (s.dev.loopPermitted n = true → (s.dev.lp n).sense.ov = false →
      ∃ t, exec (.loopLatchedRestart n) s = .next t ∧ LoopMoves s.dev t.dev n .prebias 0x1D ∧ (t.dev.lp n).enLatched = false ∧ t.dev.phase = s.dev.phase) ∧
    (s.dev.loopPermitted n = true → (s.dev.lp n).sense.ov = true →
      ∃ (t : State) (e : Device), exec (.loopLatchedRestart n) s = .next t ∧ t.dev = e.crowbarsHeard s.dev ∧ (e.lp n).st = .crowbar ∧
        bit (e.lp n).flt 0 = true ∧ ∀ k, (s.dev.ph k).own = some n → (s.dev.ph k).st ≠ .unpop → (s.dev.ph k).st ≠ .failed → (e.ph k).st = .crowbar) := by
  refine ⟨fun hp => ?_, fun hp hov => ?_, fun hp hov => ?_⟩
  · refine (exec_loopLatchedRestart hrun n).trans (next_of s (e' := s.dev) ?_)
    rw [loopRestart_refused hp]
    exact crowbarsHeard_still fun _ => rfl
  · obtain ⟨hheard, heffect⟩ := loopRestart_effect hst hl hp hov
    exact ⟨_, (exec_loopLatchedRestart hrun n).trans (next_of s hheard), heffect⟩
  · refine ⟨_, s.dev.loopRestart n, exec_loopLatchedRestart hrun n, by dsimp only, ?_⟩
    rw [loopRestart_on hst hl hp]
    exact startHigh_effect 0x1D hov fun _ => rfl
end

/-- Settles O34: each command of a loop acts on it as its state, its permission and its OV comparator say. -/
theorem loopStateCommandsComplete : Obligations.LoopStateCommandsComplete := by
  unfold Obligations.LoopStateCommandsComplete
  refine ⟨fun s n => ⟨fun hrun => ⟨?refused, ?high, ?low, ?soft, ?hard⟩, ?write⟩, fun s n hrun => ⟨⟨?none, ?phases, ?cons, ?take⟩, ?softStart, ?rampdown, ?drained, ?restart⟩⟩
  case refused => exact (loopEnable_clause hrun n).1
  case high => exact (loopEnable_clause hrun n).2.1
  case low => exact (loopEnable_clause hrun n).2.2
  case soft => exact ⟨_, exec_loopSoftStop hrun n, softStop_effect s.dev n⟩
  case hard => exact ⟨_, exec_loopHardStop hrun n, hardStop_effect s.dev n⟩
  case write => exact fun src b ht => ⟨_, exec_loopEnableWrite src n b s, loopEnableWrite_effect s.fuses ht⟩
  case none => exact exec_prebiasComplete hrun n []
  case phases => exact fun codes => ⟨_, exec_prebiasComplete hrun n codes, prebiasDone_phase s.dev n codes⟩
  case cons => exact fun c codes t ht => exec_prebiasComplete_cons hrun n c codes ht
  case take =>
    exact fun c => ⟨fun h => (exec_prebiasComplete hrun n [c]).trans (next_of s (prebiasTake_idle h)), fun h => ⟨_, exec_prebiasComplete hrun n [c], prebiasTake_effect h⟩⟩
  case softStart =>
    exact fun hst hss hpg => ⟨_, exec_softStartComplete hrun n hst hss hpg, loopTo_moves _ _ _ _ _, (loopTo_lp s.dev n .run 0x13 byHw).2.2.1⟩
  case rampdown => exact fun hst hss => ⟨_, exec_rampdownComplete hrun n hst hss, rampdownDone_effect s.dev n⟩
  case drained => exact fun hst hp => ⟨_, exec_loopDrainComplete hrun n hst hp, loopTo_moves _ _ _ _ _, (loopTo_lp s.dev n .off 0x18 byHw).2.2.1⟩
  case restart => exact fun hst hl => loopRestart_clause hrun n hst hl

end Sys2Proof.Machine
end

section
/-! SUPPORT. The loop faults and the crowbar: what each voltage of a loop and each conversion of a release does. -/

set_option maxRecDepth 4000
namespace Sys2Proof.Machine
open Sys2Proof

/-! ## One voltage of a loop (R324 to R326, R329, R332) -/

/-- A loop that has compared one voltage: the run of its OV filter, and the filtered output. -/
def Loop.ovSeen (l : Loop) (k : Nat) (high : Bool) : Loop := { l with ovCnt := k, sense := { l.sense with ov := high } }

/-- The run of the OV filter of loop n after voltage v, and whether it is then high. -/
def Device.ovRun (d : Device) (n : Fin 16) (v : Nat) : Nat := if d.ovHigh n v then satInc 15 (d.lp n).ovCnt else 0

def Device.ovThen (d : Device) (n : Fin 16) (v : Nat) : Bool := decide (max 1 (bits (d.lreg n 0x0CC) 27 24) ≤ d.ovRun n v)

theorem ovSample_lp (d : Device) (n : Fin 16) (v : Nat) : (d.ovSample n v).lp n = (d.lp n).ovSeen (d.ovRun n v) (d.ovThen n v) ∧
    (∀ m, m ≠ n → (d.ovSample n v).lp m = d.lp m) ∧ (d.ovSample n v).phase = d.phase := by
  unfold Device.ovSample
  exact ⟨updLp_at _ _ _, fun m hm => updLp_beside _ _ _ hm, rfl⟩

/-- The voltages are taken one after another. -/
theorem ovWatch_cons (d : Device) (n : Fin 16) (v : Nat) (volts : List Nat) : d.ovWatch n (v :: volts) = (d.ovWatch n [v]).ovWatch n volts := rfl

theorem ovWatch_low {d : Device} {n : Fin 16} {v : Nat} (h : d.ovThen n v = false) : d.ovWatch n [v] = d.ovSample n v :=
  if_neg (by rw [(ovSample_lp d n v).1]; show ¬ d.ovThen n v = true; rw [h]; decide)

theorem ovWatch_high {d : Device} {n : Fin 16} {v : Nat} (h : d.ovThen n v = true) : d.ovWatch n [v] = (d.ovSample n v).ovAct n (!(d.lp n).sense.ov) :=
  if_pos (by rw [(ovSample_lp d n v).1]; exact h)

/-! ## What a high comparator does, state by state (R324, R325, R332) -/

theorem ovAct_crowbar {d : Device} {n : Fin 16} {rose : Bool} (h : (d.lp n).st = .crowbar) : d.ovAct n rose = if rose then d.fltSet n 0 else d := by
  unfold Device.ovAct
  rw [h]

theorem ovAct_idle {d : Device} {n : Fin 16} {rose : Bool} (h : (d.lp n).st = .off ∨ (d.lp n).st = .faulted) :
    d.ovAct n rose = if rose || !bit (d.lp n).flt 16 then d.ovIdle n else d := by
  unfold Device.ovAct
  obtain h | h := h <;> rw [h]

theorem ovAct_faultable {d : Device} {n : Fin 16} {rose : Bool} (h : (d.lp n).st.faultable = true) : d.ovAct n rose = (d.crowbar n).crowbarsHeard d := by
  unfold Device.ovAct
  cases hs : (d.lp n).st with
  | off => rw [hs] at h; exact absurd h (by decide)
  | faulted => rw [hs] at h; exact absurd h (by decide)
  | crowbar => rw [hs] at h; exact absurd h (by decide)
  | _ => rfl

/-- A loop that is neither off nor faulted nor in CROWBAR can fault (R321). -/
theorem faultable_of {st : LoopState} (hi : (st == .off || st == .faulted) = false) (hc : st ≠ .crowbar) : st.faultable = true := by
  cases st with
  | off => exact absurd hi (by decide)
  | faulted => exact absurd hi (by decide)
  | crowbar => exact absurd rfl hc
  | _ => rfl

/-- An OV of a loop that is off is recorded, and the rail's monitor hears of it (R332). -/
theorem ovIdle_effect {d : Device} {n : Fin 16} (h : (d.lp n).st = .off ∨ (d.lp n).st = .faulted) :
    ∃ e : Device, d.ovIdle n = e.monitorFault ⟨n.val, by omega⟩ .powered [] ∧ (e.lp n).flt = setBit (d.lp n).flt 16 true ∧ (e.lp n).st = (d.lp n).st ∧
      bit (e.head (pg (loopPage n))).err 11 = true ∧ ∀ m, m ≠ n → e.lp m = d.lp m := by
  have hat : (d.updLp n fun l => { l with sense := { l.sense with ov := true } }).lp n = { d.lp n with sense := { (d.lp n).sense with ov := true } } := updLp_at _ _ _
  have hidle : ((((d.updLp n fun l => { l with sense := { l.sense with ov := true } }).lp n).st == .off) ||
      (((d.updLp n fun l => { l with sense := { l.sense with ov := true } }).lp n).st == .faulted)) = true := by
    rw [hat]
    obtain h | h := h <;> rw [h] <;> rfl
  refine ⟨((d.updLp n fun l => { l with sense := { l.sense with ov := true } }).updLp n fun l => { l with flt := setBit l.flt 16 true }).setErr (loopPage n) (errBit 11),
    if_pos hidle, ?_, ?_, setErr_bit _ _ _ (by decide), fun m hm => (updLp_beside _ _ _ hm).trans (updLp_beside _ _ _ hm)⟩
  · show (Device.lp (Device.updLp _ _ _) n).flt = _
    rw [updLp_at, hat]
  · show (Device.lp (Device.updLp _ _ _) n).st = _
    rw [updLp_at, hat]

section
variable {d : Device} {n : Fin 16} {v : Nat}

/-- A high comparator of a loop that can fault puts it and every phase that it drives into CROWBAR. -/
theorem ovWatch_crowbars (hi : ((d.lp n).st == .off || (d.lp n).st == .faulted) = false) (hh : d.ovThen n v = true) (hc : (d.lp n).st ≠ .crowbar) :
    ∃ e : Device, d.ovWatch n [v] = e.crowbarsHeard (d.ovSample n v) ∧ (e.lp n).st = .crowbar ∧ bit (e.lp n).flt 0 = true ∧ (e.lp n).enLatched = false ∧
      ∀ j, (d.ph j).own = some n → (d.ph j).st ≠ .unpop → (d.ph j).st ≠ .failed → (e.ph j).st = .crowbar := by
  have hf : ((d.ovSample n v).lp n).st.faultable = true := by
    rw [(ovSample_lp d n v).1]
    exact faultable_of hi hc
  exact ⟨(d.ovSample n v).crowbar n, by rw [ovWatch_high hh, ovAct_faultable hf], crowbar_lp (d.ovSample n v) n hf⟩

/-- A high comparator of a loop in CROWBAR records an OV where it has just risen. -/
theorem ovWatch_crowbarred (hh : d.ovThen n v = true) (hc : (d.lp n).st = .crowbar) : ((d.ovWatch n [v]).lp n).st = .crowbar ∧
    ((d.ovWatch n [v]).lp n).flt = if (d.lp n).sense.ov then (d.lp n).flt else setBit (d.lp n).flt 0 true := by
  have hat := (ovSample_lp d n v).1
  have hc' : ((d.ovSample n v).lp n).st = .crowbar := by
    rw [hat]
    exact hc
  rw [ovWatch_high hh, ovAct_crowbar hc']
  cases (d.lp n).sense.ov with
  | true =>
    rw [if_neg (by decide), if_pos rfl, hat]
    exact ⟨hc, rfl⟩
  | false =>
    rw [if_pos (by decide), if_neg (by decide), (fltSet_lp (d.ovSample n v) n 0).1, hat]
    exact ⟨hc, rfl⟩

/-- An OV of a loop that is off and that has recorded it already changes nothing but the comparator. -/
theorem ovWatch_idleKnown (hi : (d.lp n).st = .off ∨ (d.lp n).st = .faulted) (h : d.ovThen n v = false ∨ ((d.lp n).sense.ov = true ∧ bit (d.lp n).flt 16 = true)) :
    d.ovWatch n [v] = d.ovSample n v := by
  have hat := (ovSample_lp d n v).1
  by_cases hh : d.ovThen n v = true
  · obtain h | ⟨hov, hflt⟩ := h
    · exact absurd (hh.symm.trans h) (by decide)
    · rw [ovWatch_high hh, ovAct_idle (by rw [hat]; exact hi), hat, hov, show bit ((d.lp n).ovSeen (d.ovRun n v) (d.ovThen n v)).flt 16 = true from hflt]
      exact if_neg (by decide)
  · exact ovWatch_low (Bool.eq_false_iff.2 hh)

theorem ovWatch_idle (hi : (d.lp n).st = .off ∨ (d.lp n).st = .faulted) (hh : d.ovThen n v = true) (h : (d.lp n).sense.ov = false ∨ bit (d.lp n).flt 16 = false) :
    ∃ e : Device, d.ovWatch n [v] = e.monitorFault ⟨n.val, by omega⟩ .powered [] ∧ (e.lp n).flt = setBit (d.lp n).flt 16 true ∧ (e.lp n).st = (d.lp n).st ∧
      bit (e.head (pg (loopPage n))).err 11 = true ∧ ∀ m, m ≠ n → e.lp m = d.lp m := by
  obtain ⟨hat, hbeside, -⟩ := ovSample_lp d n v
  have hi' : ((d.ovSample n v).lp n).st = .off ∨ ((d.ovSample n v).lp n).st = .faulted := by
    rw [hat]
    exact hi
  have hacts : (!(d.lp n).sense.ov || !bit ((d.ovSample n v).lp n).flt 16) = true := by
    rw [hat]
    show (!(d.lp n).sense.ov || !bit (d.lp n).flt 16) = true
    obtain h | h := h <;> rw [h]
    · rfl
    · exact Bool.or_true _
  obtain ⟨e, heq, hflt, hst, herr, hothers⟩ := ovIdle_effect hi'
  rw [hat] at hflt hst
  exact ⟨e, by rw [ovWatch_high hh, ovAct_idle hi', if_pos hacts, heq], hflt, hst, herr, fun m hm => (hothers m hm).trans (hbeside m hm)⟩
end

/-! ## The release of a crowbar (R328 to R330, R349) -/

section
variable {d : Device} {n : Fin 16} (own : ReleaseSense) (others : List (Fin 16 × ReleaseSense))

theorem releaseCount_lp (codes : List Nat) : ∃ k s, (d.releaseCount n codes).lp n = { d.lp n with relCnt := k, sense := s } := ⟨_, _, updLp_at _ _ _⟩

theorem releaseCount_beside (codes : List Nat) {m : Fin 16} (h : m ≠ n) : (d.releaseCount n codes).lp m = d.lp m := updLp_beside _ _ _ h

theorem releaseCount_st (codes : List Nat) (m : Fin 16) : ((d.releaseCount n codes).lp m).st = (d.lp m).st := by
  by_cases hm : m = n
  · subst hm
    obtain ⟨k, s, h⟩ := releaseCount_lp (d := d) (n := m) codes
    rw [h]
  · rw [releaseCount_beside codes hm]

theorem releaseSeen_own : (((n, own) :: others).find? fun y => y.1 == n).map (·.2) = some own := by
  have h : ((n, own) :: others).find? (fun y => y.1 == n) = some (n, own) := List.find?_cons_of_pos (beq_self_eq_true n)
  rw [h]
  rfl

/-- The release of a loop that is in CROWBAR, and in no lend group. -/
theorem crowbarRelease_alone (hst : (d.lp n).st = .crowbar) (hg : d.lendGrp n = 0) : d.crowbarRelease n ((n, own) :: others) =
    let c := d.releaseCount n own.codes
    if c.releaseReady n own.uv own.us then (c.releaseOne n c.phaseForcedLevel).loopFaultCleared n else c := by
  have hst' : (((d.releaseCount n own.codes).lp n).st == .crowbar) = true := by
    rw [releaseCount_st, hst]
    rfl
  unfold Device.crowbarRelease
  dsimp only
  rw [releaseGroup_alone d n hst hg]
  simp only [List.foldl_cons, List.foldl_nil, List.all_cons, List.all_nil, releaseSeen_own, hst', Bool.true_and, Bool.and_true]

theorem crowbarRelease_off (hst : (d.lp n).st ≠ .crowbar) (hg : d.releaseGroup n = []) : d.crowbarRelease n ((n, own) :: others) = d := by
  unfold Device.crowbarRelease
  rw [hg]
  have hoff : ((d.lp n).st == LoopState.crowbar) = false := beq_eq_false_iff_ne.2 hst
  simp only [List.foldl_nil, hoff, Bool.false_and, if_neg Bool.false_ne_true]

theorem releaseOne_effect (codes : List Nat) (forced : Fin 64 → Option Level) : let e := (d.releaseCount n codes).releaseOne n forced
    LoopMoves d e n .faulted 0x1A ∧ (e.lp n).flt = (d.lp n).flt ∧ (e.lp n).sense.ov = false := by
  obtain ⟨hmove, hflt, hov⟩ := releaseOne_moves (d.releaseCount n codes) n forced
  obtain ⟨k, s, hat⟩ := releaseCount_lp (d := d) (n := n) codes
  refine ⟨lmoves_of hmove (releaseCount_st codes n) (fun m hm => by rw [releaseCount_beside codes hm]) ⟨rfl, rfl, rfl⟩ (fun _ _ => rfl), ?_, hov⟩
  rw [hflt, hat]
end

/-! ## The statement -/

section
variable {s : State} (hrun : s.dev.hupRuns = true)
include hrun

theorem exec_uvFault (n : Fin 16) (codes : List Nat) (also : List LoopDetect) : exec (.uvFault ⟨n, codes, also⟩) s = .next { s with dev := s.dev.loopDetect n (.uv codes :: also) } :=
  service_next s (fun d => d.loopDetect n (.uv codes :: also)) hrun

theorem exec_loopOcFault (n : Fin 16) (iOut : List Int) (also : List LoopDetect) : exec (.loopOcFault ⟨n, iOut, also⟩) s = .next { s with dev := s.dev.loopDetect n (.oc iOut :: also) } :=
  service_next s (fun d => d.loopDetect n (.oc iOut :: also)) hrun

theorem exec_ssShortFault (n : Fin 16) (also : List LoopDetect) : exec (.ssShortFault ⟨n, also⟩) s = .next { s with dev := s.dev.loopDetect n (.ssShort :: also) } :=
  service_next s (fun d => d.loopDetect n (.ssShort :: also)) hrun

theorem exec_softStartTimeout (n : Fin 16) (also : List LoopDetect) : exec (.softStartTimeout ⟨n, also⟩) s = .next { s with dev := s.dev.loopDetect n (.ssTmo :: also) } :=
  service_next s (fun d => d.loopDetect n (.ssTmo :: also)) hrun

theorem exec_prebiasTimeout (n : Fin 16) (also : List LoopDetect) : exec (.prebiasTimeout ⟨n, also⟩) s = .next { s with dev := s.dev.loopDetect n (.pbTmo :: also) } :=
  service_next s (fun d => d.loopDetect n (.pbTmo :: also)) hrun

theorem exec_loopOtFault (n : Fin 16) (also : List LoopDetect) : exec (.loopOtFault ⟨n, also⟩) s = .next { s with dev := s.dev.loopDetect n (.ot :: also) } :=
  service_next s (fun d => d.loopDetect n (.ot :: also)) hrun

theorem exec_ovCrowbar (n : Fin 16) (volts : List Nat) : exec (.ovCrowbar ⟨n, volts⟩) s =
    .next { s with dev := if (s.dev.lp n).st == .off || (s.dev.lp n).st == .faulted then s.dev else s.dev.ovWatch n volts } :=
  service_next s (fun d => if (d.lp n).st == .off || (d.lp n).st == .faulted then d else d.ovWatch n volts) hrun

theorem exec_ovIdle (n : Fin 16) (volts : List Nat) : exec (.ovIdle ⟨n, volts⟩) s =
    .next { s with dev := if (s.dev.lp n).st == .off || (s.dev.lp n).st == .faulted then s.dev.ovWatch n volts else s.dev } :=
  service_next s (fun d => if (d.lp n).st == .off || (d.lp n).st == .faulted then d.ovWatch n volts else d) hrun

theorem exec_crowbarRelease (n : Fin 16) (own : ReleaseSense) (others : List (Fin 16 × ReleaseSense)) : exec (.crowbarRelease n own others) s =
    .next { s with dev := (s.dev.crowbarRelease n ((n, own) :: others)).crowbarsHeard s.dev } :=
  service_next s (fun d => (d.crowbarRelease n ((n, own) :: others)).crowbarsHeard d) hrun

/-- A high voltage of a loop that is neither off nor faulted. -/
theorem ovCrowbar_clause {n : Fin 16} {v : Nat} {volts : List Nat} (hi : ((s.dev.lp n).st == .off || (s.dev.lp n).st == .faulted) = false) :
    (s.dev.ovThen n v = false → ∃ t, exec (.ovCrowbar ⟨n, v :: volts⟩) s = .next t ∧ t.dev = (s.dev.ovSample n v).ovWatch n volts) ∧
    (s.dev.ovThen n v = true → (s.dev.lp n).st ≠ .crowbar → ∃ (t : State) (e : Device), exec (.ovCrowbar ⟨n, v :: volts⟩) s = .next t ∧
      t.dev = (e.crowbarsHeard (s.dev.ovSample n v)).ovWatch n volts ∧ (e.lp n).st = .crowbar ∧ bit (e.lp n).flt 0 = true ∧ (e.lp n).enLatched = false ∧
      ∀ j, (s.dev.ph j).own = some n → (s.dev.ph j).st ≠ .unpop → (s.dev.ph j).st ≠ .failed → (e.ph j).st = .crowbar) ∧
    (s.dev.ovThen n v = true → (s.dev.lp n).st = .crowbar → ∃ (t : State) (e : Device), exec (.ovCrowbar ⟨n, v :: volts⟩) s = .next t ∧
      t.dev = e.ovWatch n volts ∧ (e.lp n).st = .crowbar ∧ (e.lp n).flt = if (s.dev.lp n).sense.ov then (s.dev.lp n).flt else setBit (s.dev.lp n).flt 0 true) := by
  have hexec : exec (.ovCrowbar ⟨n, v :: volts⟩) s = .next { s with dev := (s.dev.ovWatch n [v]).ovWatch n volts } :=
    (exec_ovCrowbar hrun n _).trans (next_of s (if_neg (by rw [hi]; decide)))
  refine ⟨fun hl => ⟨_, hexec, by dsimp only; rw [ovWatch_low hl]⟩, fun hh hc => ?_, fun hh hc => ⟨_, s.dev.ovWatch n [v], hexec, by dsimp only, ovWatch_crowbarred hh hc⟩⟩
  obtain ⟨e, heq, heffect⟩ := ovWatch_crowbars hi hh hc
  exact ⟨_, e, hexec, by dsimp only; rw [heq], heffect⟩

/-- A voltage of a loop that is off or faulted. -/
theorem ovIdle_clause {n : Fin 16} {v : Nat} {volts : List Nat} (hi : ((s.dev.lp n).st == .off || (s.dev.lp n).st == .faulted) = true) :
    (s.dev.ovThen n v = false ∨ ((s.dev.lp n).sense.ov = true ∧ bit (s.dev.lp n).flt 16 = true) →
      ∃ t, exec (.ovIdle ⟨n, v :: volts⟩) s = .next t ∧ t.dev = (s.dev.ovSample n v).ovWatch n volts) ∧
    (s.dev.ovThen n v = true → (s.dev.lp n).sense.ov = false ∨ bit (s.dev.lp n).flt 16 = false →
      ∃ (t : State) (e : Device), exec (.ovIdle ⟨n, v :: volts⟩) s = .next t ∧
        t.dev = (e.monitorFault ⟨n.val, by omega⟩ .powered []).ovWatch n volts ∧ (e.lp n).flt = setBit (s.dev.lp n).flt 16 true ∧
        (e.lp n).st = (s.dev.lp n).st ∧ bit (e.head (pg (loopPage n))).err 11 = true ∧ ∀ m, m ≠ n → e.lp m = s.dev.lp m) := by
  have hexec : exec (.ovIdle ⟨n, v :: volts⟩) s = .next { s with dev := (s.dev.ovWatch n [v]).ovWatch n volts } :=
    (exec_ovIdle hrun n _).trans (next_of s (if_pos hi))
  have hst : (s.dev.lp n).st = .off ∨ (s.dev.lp n).st = .faulted := by
    rw [Bool.or_eq_true, beq_iff_eq, beq_iff_eq] at hi
    exact hi
  refine ⟨fun h => ⟨_, hexec, by dsimp only; rw [ovWatch_idleKnown hst h]⟩, fun hh h => ?_⟩
  obtain ⟨e, heq, heffect⟩ := ovWatch_idle hst hh h
  exact ⟨_, e, hexec, by dsimp only; rw [heq], heffect⟩

/-- The release of a loop in no lend group counts, and ends in FAULTED once it is ready. -/
theorem crowbarRelease_clause {n : Fin 16} (own : ReleaseSense) (others : List (Fin 16 × ReleaseSense)) (hst : (s.dev.lp n).st = .crowbar) (hg : s.dev.lendGrp n = 0) :
    let c := s.dev.releaseCount n own.codes
    (c.releaseReady n own.uv own.us = false → exec (.crowbarRelease n own others) s = .next { s with dev := c }) ∧
    (c.releaseReady n own.uv own.us = true → ∃ (t : State) (e : Device), exec (.crowbarRelease n own others) s = .next t ∧
      t.dev = (e.loopFaultCleared n).crowbarsHeard s.dev ∧ LoopMoves s.dev e n .faulted 0x1A ∧ (e.lp n).flt = (s.dev.lp n).flt ∧ (e.lp n).sense.ov = false) := by
  have heq := crowbarRelease_alone own others hst hg
  refine ⟨fun hr => ?_, fun hr => ⟨_, _, exec_crowbarRelease hrun n own others, ?_, releaseOne_effect own.codes (s.dev.releaseCount n own.codes).phaseForcedLevel⟩⟩
  · refine (exec_crowbarRelease hrun n own others).trans (next_of s ?_)
    dsimp only at heq
    rw [heq, if_neg (by rw [hr]; decide)]
    exact crowbarsHeard_still fun m => releaseCount_st own.codes m
  · dsimp only at heq ⊢
    rw [heq, if_pos hr]
end

/-- Settles O35: a fault or an OV acts on its loop by its filter and its state. -/
theorem loopFaultCommandsComplete : Obligations.LoopFaultCommandsComplete := by
  unfold Obligations.LoopFaultCommandsComplete
  refine ⟨fun s n also hrun => ⟨?uv, ?oc, ?ssShort, ?ssTmo, ?pbTmo, ?ot⟩, fun s n hrun => ⟨?offCrowbar, ?onIdle, ?noneCrowbar, ?noneIdle, ?volts, ?noRelease, ?release⟩⟩
  case uv => exact fun codes => ⟨_, exec_uvFault hrun n codes also, loopDetect_eq _ _ _⟩
  case oc => exact fun iOut => ⟨_, exec_loopOcFault hrun n iOut also, loopDetect_eq _ _ _⟩
  case ssShort => exact ⟨_, exec_ssShortFault hrun n also, loopDetect_eq _ _ _⟩
  case ssTmo => exact ⟨_, exec_softStartTimeout hrun n also, loopDetect_eq _ _ _⟩
  case pbTmo => exact ⟨_, exec_prebiasTimeout hrun n also, loopDetect_eq _ _ _⟩
  case ot => exact ⟨_, exec_loopOtFault hrun n also, loopDetect_eq _ _ _⟩
  case offCrowbar => exact fun hi volts => (exec_ovCrowbar hrun n volts).trans (next_of s (if_pos hi))
  case onIdle => exact fun hi volts => (exec_ovIdle hrun n volts).trans (next_of s (if_neg (by rw [hi]; decide)))
  case noneCrowbar => exact (exec_ovCrowbar hrun n []).trans (next_of s (ite_self _))
  case noneIdle => exact (exec_ovIdle hrun n []).trans (next_of s (ite_self _))
  case volts =>
    intro v volts
    obtain ⟨hat, hbeside, hphase⟩ := ovSample_lp s.dev n v
    exact ⟨s.dev.ovSample n v, hat, hbeside, hphase, fun hi => ovCrowbar_clause hrun hi, fun hi => ovIdle_clause hrun hi⟩
  case noRelease =>
    refine fun own others hst hg => (exec_crowbarRelease hrun n own others).trans (next_of s (e' := s.dev) ?_)
    rw [crowbarRelease_off own others hst hg]
    exact crowbarsHeard_still fun _ => rfl
  case release => exact fun own others hst hg => crowbarRelease_clause hrun own others hst hg

end Sys2Proof.Machine
end

section
/-! SUPPORT. A loop's warnings, and the clear of its faults. -/

set_option maxRecDepth 4000
namespace Sys2Proof.Machine
open Sys2Proof

/-! ## What the converters' samples leave alone -/

/-- From d to e, nothing that the limits of a loop's faults are made of has changed: the registers, the temperatures, the collector's lines, and the
state and the owner of each phase. -/
structure SameLimits (d e : Device) : Prop where
  regs : e.regs = d.regs
  thm : e.thm = d.thm
  flt : e.flt = d.flt
  phase : ∀ k, (e.ph k).own = (d.ph k).own ∧ (e.ph k).st = (d.ph k).st

namespace SameLimits
variable {d e : Device} (h : SameLimits d e) (n : Fin 16)
include h

theorem phasesOf (c : PhaseState → Bool) : (e.phasesOf n fun p => c p.st) = d.phasesOf n fun p => c p.st := by
  unfold Device.phasesOf
  simp only [(h.phase _).1, (h.phase _).2]

theorem hottest : e.hottest n = d.hottest n := by
  unfold Device.hottest Device.hottestOf Device.ch
  rw [h.thm, h.phasesOf n (· != .unpop)]

theorem otActive : e.otActive n = d.otActive n := by
  unfold Device.otActive Device.otLimit
  rw [h.hottest, lreg_of h.regs]

theorem otWarn : e.otWarn n = d.otWarn n := by
  unfold Device.otWarn Device.otLimit
  rw [h.hottest, lreg_of h.regs]

theorem extActive : e.extActive n = d.extActive n := extActive_of h.regs h.flt n

theorem anyDraining : e.anyDraining n = d.anyDraining n := by
  unfold Device.anyDraining
  rw [h.phasesOf n (· == .draining)]

/-- The scale of a conversion also depends on what the loop goes on with until its update (R319). -/
theorem attenX (hl : (e.lp n).oldCfg = (d.lp n).oldCfg) : e.attenX n = d.attenX n := attenX_of (leff_of h.regs hl _)

theorem ovHigh (hl : (e.lp n).oldCfg = (d.lp n).oldCfg) (uv : Nat) : e.ovHigh n uv = d.ovHigh n uv := by
  unfold Device.ovHigh
  rw [h.attenX n hl, lreg_of h.regs]

theorem loopMicrovolts (hl : (e.lp n).oldCfg = (d.lp n).oldCfg) (raw : Nat) : e.loopMicrovolts n raw = d.loopMicrovolts n raw := by
  unfold Device.loopMicrovolts
  rw [h.attenX n hl]
end SameLimits

theorem SameLimits.trans {d e f : Device} (h : SameLimits d e) (g : SameLimits e f) : SameLimits d f :=
  ⟨g.regs.trans h.regs, g.thm.trans h.thm, g.flt.trans h.flt, fun k => ⟨(g.phase k).1.trans (h.phase k).1, (g.phase k).2.trans (h.phase k).2⟩⟩

theorem takeSamples_limits (d : Device) (n : Fin 16) (x : LoopSamples) : SameLimits d (d.takeSamples n x) := by
  obtain ⟨-, -, hregs, hphase⟩ := takeSamples_lp d n x
  refine ⟨hregs, keeps_thm (by simp), keeps_flt (by simp), fun k => ?_⟩
  obtain ⟨a, b, hk⟩ := hphase k
  rw [hk]
  exact ⟨rfl, rfl⟩

theorem arrive_limits (d : Device) (src : Source) (a : Nat) : SameLimits d (d.arrive src a) :=
  ⟨Device.arrive_regs d src a, keeps_thm (by unfold Device.arrive; simp), keeps_flt (by unfold Device.arrive; simp), fun k => by rw [arrive_ph]; exact ⟨rfl, rfl⟩⟩

theorem updLp_limits (d : Device) (n : Fin 16) (f : Loop → Loop) : SameLimits d (d.updLp n f) := ⟨rfl, rfl, rfl, fun _ => ⟨rfl, rfl⟩⟩

/-! ## The warnings (R251, R323) -/

/-- The warning bits that one conversion sets. -/
def Device.warnWord (d : Device) (n : Fin 16) (raw : Nat) : Word :=
  flag 17 ((d.lp n).st.faultable && decide (((bits (d.lreg n 0x0C4) 29 16 * 250 : Nat) : Rat) < d.loopMicrovolts n raw)) |||
    flag 18 ((d.lp n).st == .run && decide (d.loopMicrovolts n raw < ((bits (d.lreg n 0x0C4) 13 0 * 250 : Nat) : Rat))) |||
    flag 19 (((d.lp n).st == .run || (d.lp n).st == .rampdown) && decide (((bits (d.lreg n 0x0C8) 12 0 * 1024 : Nat) : Int) ≤ (d.lp n).sense.iOut)) |||
    flag 20 ((d.lp n).st.faultable && d.otWarn n)

/-- A warning raises the loop's event, which touches no loop, no phase and no register. -/
theorem loopWarn_eq (d : Device) (n : Fin 16) (x : LoopSamples) : ∃ e : Device, e = (d.takeSamples n x).updLp n (fun l => { l with flt := l.flt ||| (d.takeSamples n x).warnWord n x.raw }) ∧
    (d.loopWarn n x).loop = e.loop ∧ (d.loopWarn n x).phase = e.phase ∧ (d.loopWarn n x).regs = e.regs := by
  refine ⟨_, rfl, ?_⟩
  unfold Device.loopWarn
  dsimp only
  generalize hw : flag 17 _ ||| flag 18 _ ||| flag 19 _ ||| flag 20 _ = w
  have hww : (d.takeSamples n x).warnWord n x.raw = w := hw
  rw [hww]
  split
  · exact ⟨rfl, rfl, rfl⟩
  · exact ⟨keeps_loop (by simp), keeps_phase (by simp), keeps_regs (by simp)⟩

/-- The warnings are those of the conversion, in the loop's limits before it. -/
theorem warnWord_bits (d : Device) (n : Fin 16) (x : LoopSamples) :
    let w := (d.takeSamples n x).warnWord n x.raw
    (∀ i, i < 17 ∨ 20 < i → bit w i = false) ∧
      bit w 17 = ((d.lp n).st.faultable && decide (((bits (d.lreg n 0x0C4) 29 16 * 250 : Nat) : Rat) < d.loopMicrovolts n x.raw)) ∧
      bit w 18 = ((d.lp n).st == .run && decide (d.loopMicrovolts n x.raw < ((bits (d.lreg n 0x0C4) 13 0 * 250 : Nat) : Rat))) ∧
      bit w 19 = (((d.lp n).st == .run || (d.lp n).st == .rampdown) && decide (((bits (d.lreg n 0x0C8) 12 0 * 1024 : Nat) : Int) ≤ d.iOutOf n x.imon)) ∧
      bit w 20 = ((d.lp n).st.faultable && d.otWarn n) := by
  obtain ⟨hat, -, hregs, -⟩ := takeSamples_lp d n x
  have hlim := takeSamples_limits d n x
  have hold : ((d.takeSamples n x).lp n).oldCfg = (d.lp n).oldCfg := by rw [hat]
  dsimp only
  unfold Device.warnWord
  rw [hlim.loopMicrovolts n hold, lreg_of hregs, lreg_of hregs, hlim.otWarn, hat]
  exact flag_bits4 _ _ _ _

theorem loopWarn_effect (d : Device) (n : Fin 16) (x : LoopSamples) :
    let sense := { (d.lp n).sense with raw := x.raw, iOut := d.iOutOf n x.imon }
    let e := d.loopWarn n x
    (e.lp n).st = (d.lp n).st ∧ (e.lp n).sense = sense ∧ (∀ i, i < 17 ∨ 20 < i → bit (e.lp n).flt i = bit (d.lp n).flt i) ∧
      bit (e.lp n).flt 17 = (bit (d.lp n).flt 17 || ((d.lp n).st.faultable &&
        decide (((bits (d.lreg n 0x0C4) 29 16 * 250 : Nat) : Rat) < d.loopMicrovolts n x.raw))) ∧
      bit (e.lp n).flt 18 = (bit (d.lp n).flt 18 || ((d.lp n).st == .run &&
        decide (d.loopMicrovolts n x.raw < ((bits (d.lreg n 0x0C4) 13 0 * 250 : Nat) : Rat)))) ∧
      bit (e.lp n).flt 19 = (bit (d.lp n).flt 19 || (((d.lp n).st == .run || (d.lp n).st == .rampdown) &&
        decide (((bits (d.lreg n 0x0C8) 12 0 * 1024 : Nat) : Int) ≤ sense.iOut))) ∧
      bit (e.lp n).flt 20 = (bit (d.lp n).flt 20 || ((d.lp n).st.faultable && d.otWarn n)) ∧
      (∀ m, m ≠ n → e.lp m = d.lp m) ∧ (∀ k, (e.ph k).st = (d.ph k).st) ∧ e.regs = d.regs := by
  obtain ⟨hat, hbeside, hregs, -⟩ := takeSamples_lp d n x
  have hlim := takeSamples_limits d n x
  obtain ⟨e, rfl, hloop, hphase, hkept⟩ := loopWarn_eq d n x
  obtain ⟨hlow, h17, h18, h19, h20⟩ := warnWord_bits d n x
  have hflt : ((d.loopWarn n x).lp n) = { d.lp n with sense := { (d.lp n).sense with raw := x.raw, iOut := d.iOutOf n x.imon },
                                                      flt := (d.lp n).flt ||| (d.takeSamples n x).warnWord n x.raw } := by
    rw [loop_of hloop, updLp_at, hat]
  dsimp only
  rw [hflt]
  dsimp only
  refine ⟨rfl, rfl, fun i hi => ?_, ?_, ?_, ?_, ?_, fun m hm => (loop_of hloop m).trans ((updLp_beside _ _ _ hm).trans (hbeside m hm)), fun k => ?_, hkept.trans hregs⟩
  · rw [bit_or, hlow i hi, Bool.or_false]
  · rw [bit_or, h17]
  · rw [bit_or, h18]
  · rw [bit_or, h19]
  · rw [bit_or, h20]
  · rw [ph_of hphase, updLp_ph]
    exact (hlim.phase k).2

/-! ## The clear of the fault bits (R347, R349, R353) -/

/-- A loop whose fault word is now w (R347). -/
def Loop.cleared (l : Loop) (w : Word) : Loop := { l with flt := w, first := if bits w 8 0 = 0 then 0xF else l.first }

theorem iOutOf_of {d e : Device} (hr : e.regs = d.regs) (hp : e.phase = d.phase) (n : Fin 16) (l : List (Fin 64 × List Imon)) : e.iOutOf n l = d.iOutOf n l := by
  have hmean : ∀ k, e.imonMean k l = d.imonMean k l := fun k => by
    unfold Device.imonMean
    rw [show e.imonAmps k = d.imonAmps k from funext fun x => by rw [imonAmps_of hr], ph_of hp]
  unfold Device.iOutOf Device.phasesOf
  simp only [ph_of hp, hmean]

/-- The write of LOOPn_FLT takes the samples that come with it, clears, and lets the sequencer hear of a crowbar. -/
theorem fltClear_write {d : Device} {src : Source} {n : Fin 16} {be : BitVec 4} {data : Word} (f : OtpArray) (uv : Nat) (x : LoopSamples) (hbe : alignedBe be = true)
    (ht : d.takes src (pageAddr (loopPage n) 0x0D8) (byteMask be) data = true) :
    let a := (d.arrive src (pageAddr (loopPage n) 0x0D8)).takeSamples n x
    d.busWrite f src (pageAddr (loopPage n) 0x0D8) be data { fltSense := some (uv, x) } =
      (a.fltClear n (data &&& byteMask be) (a.ovHigh n uv) (a.otActive n) (a.extActive n)).crowbarsHeard a :=
  loop_page d f src n 0x0D8 be data { fltSense := some (uv, x) } (by decide) (by decide) (by decide) hbe ht

theorem fltClear_eq (d : Device) (n : Fin 16) (w : Word) (ov ot ext : Bool) : d.fltClear n w ov ot ext =
    (d.updLp n fun l => l.cleared (l.flt &&& ~~~(w &&& 0x003F01FF &&& ~~~(flag 0 ov ||| flag 2 (decide (((bits (d.lreg n 0x0C8) 28 16 * 1024 : Nat) : Int) ≤ l.sense.iOut)) |||
      flag 7 ot ||| flag 8 ext)))).loopFaultCleared n := rfl

/-- What is left of a fault word by a clear, with the samples that come with it. -/
def Device.fltLeft (d : Device) (n : Fin 16) (m : Word) (uv : Nat) (x : LoopSamples) : Word := (d.lp n).flt &&& ~~~(m &&& 0x003F01FF &&& ~~~(d.fltHeld n uv x))

/-- The device before a loop leaves FAULTED: a SAFE or the sequencer has not yet heard of the clear. -/
theorem fltClear_left {d : Device} {src : Source} {n : Fin 16} {be : BitVec 4} {data : Word} (f : OtpArray) (uv : Nat) (x : LoopSamples) (hbe : alignedBe be = true)
    (ht : d.takes src (pageAddr (loopPage n) 0x0D8) (byteMask be) data = true) :
    ∃ e : Device, d.busWrite f src (pageAddr (loopPage n) 0x0D8) be data { fltSense := some (uv, x) } = (e.loopFaultCleared n).crowbarsHeard d ∧
      e.lp n = ({ d.lp n with sense := { (d.lp n).sense with raw := x.raw, iOut := d.iOutOf n x.imon } } : Loop).cleared (d.fltLeft n (data &&& byteMask be) uv x) ∧
      (∀ m, m ≠ n → e.lp m = d.lp m) ∧ SameLimits d e := by
  have hwrite := fltClear_write f uv x hbe ht
  dsimp only at hwrite
  rw [hwrite]
  clear hwrite
  have hal := arrive_limits d src (pageAddr (loopPage n) 0x0D8)
  have hloop := Device.arrive_loop d src (pageAddr (loopPage n) 0x0D8)
  have hphase := Device.arrive_phase d src (pageAddr (loopPage n) 0x0D8)
  generalize d.arrive src _ = a at hal hloop hphase
  obtain ⟨hat, hbeside, -, -⟩ := takeSamples_lp a n x
  have hlim := hal.trans (takeSamples_limits a n x)
  rw [loop_of hloop, iOutOf_of hal.regs hphase] at hat
  have hbeside' : ∀ m, m ≠ n → (a.takeSamples n x).lp m = d.lp m := fun m hm => (hbeside m hm).trans (loop_of hloop m)
  generalize a.takeSamples n x = b at hat hbeside' hlim
  have hold : (b.lp n).oldCfg = (d.lp n).oldCfg := by rw [hat]
  have hst : ∀ m, (b.lp m).st = (d.lp m).st := fun m => by
    by_cases hm : m = n
    · rw [hm, hat]
    · rw [hbeside' m hm]
  refine ⟨_, (congrArg (Device.crowbarsHeard · b) (fltClear_eq b n _ _ _ _)).trans (crowbarsHeard_of _ _ _ hst), ?_,
    fun m hm => (updLp_beside _ _ _ hm).trans (hbeside' m hm), hlim.trans (updLp_limits _ _ _)⟩
  rw [updLp_at, hat, hlim.ovHigh n hold, hlim.otActive, hlim.extActive, lreg_of hlim.regs]
  rfl

theorem loopFltClear_effect {d : Device} {src : Source} {n : Fin 16} {be : BitVec 4} {data : Word} (f : OtpArray) (uv : Nat) (x : LoopSamples) (hbe : alignedBe be = true)
    (ht : d.takes src (pageAddr (loopPage n) 0x0D8) (byteMask be) data = true) :
    let w := (d.lp n).flt &&& ~~~(data &&& byteMask be &&& 0x003F01FF &&& ~~~(d.fltHeld n uv x))
    let t := d.busWrite f src (pageAddr (loopPage n) 0x0D8) be data { fltSense := some (uv, x) }
    ∃ e : Device, t = (e.loopFaultCleared n).crowbarsHeard d ∧ (e.lp n).flt = w ∧ (e.lp n).first = (if bits w 8 0 = 0 then 0xF else (d.lp n).first) ∧
      (e.lp n).st = (d.lp n).st ∧ (∀ m, m ≠ n → e.lp m = d.lp m) ∧
      ((d.lp n).sense.ov = false ∨ (d.lp n).en = false → (t.lp n).flt = w ∧ (t.lp n).first = (e.lp n).first) ∧
      ((d.lp n).st = .faulted → bits w 8 0 = 0 → d.anyDraining n = false → (d.lp n).en = false → LoopMoves d t n .off 0x1C) ∧
      ((d.lp n).st ≠ .faulted ∨ bits w 8 0 ≠ 0 ∨ d.anyDraining n = true → t = e) := by
  obtain ⟨e, heq, hat, hbeside, hlim⟩ := fltClear_left f uv x hbe ht
  obtain ⟨hquiet, hleaves, hstays⟩ := faultCleared_lp e n
  have hst : (e.lp n).st = (d.lp n).st := by
    rw [hat]
    rfl
  have hsame : ∀ m, (e.lp m).st = (d.lp m).st := fun m => by
    by_cases hm : m = n
    · rw [hm, hst]
    · rw [hbeside m hm]
  have hflt : (e.lp n).flt = d.fltLeft n (data &&& byteMask be) uv x := by
    rw [hat]
    rfl
  have hen : (e.lp n).en = (d.lp n).en := by
    rw [hat]
    rfl
  have hov : (e.lp n).sense.ov = (d.lp n).sense.ov := by
    rw [hat]
    rfl
  rw [hov, hen] at hquiet
  rw [hst, hflt, hlim.anyDraining, hen] at hleaves
  rw [hst, hflt, hlim.anyDraining] at hstays
  have hheard : (d.lp n).sense.ov = false ∨ (d.lp n).en = false → (e.loopFaultCleared n).crowbarsHeard d = e.loopFaultCleared n := fun h =>
    (crowbarsHeard_of _ _ _ fun m => (hsame m).symm).trans (crowbarsHeard_quiet (hquiet h))
  refine ⟨e, heq, hflt, by rw [hat]; rfl, hst, hbeside, fun h => ?_, fun h1 h2 h3 h4 => ?_, fun h => ?_⟩
  · obtain ⟨hq, hfirst, -⟩ := hquiet h
    rw [heq, hheard h]
    exact ⟨hq.trans hflt, hfirst⟩
  · rw [heq, hheard (Or.inr h4)]
    exact lmoves_of (hleaves h1 h2 h3 h4) hst (fun m hm => by rw [hbeside m hm]) ⟨rfl, rfl, rfl⟩ (fun _ _ => rfl)
  · rw [heq, hstays h]
    exact crowbarsHeard_still hsame

/-! ## The statement -/

theorem exec_loopWarning {s : State} (hrun : s.dev.hupRuns = true) (n : Fin 16) (x : LoopSamples) : exec (.loopWarning n x) s = .next { s with dev := s.dev.loopWarn n x } :=
  service_next s (fun d => d.loopWarn n x) hrun

theorem exec_loopFltClear (src : Source) (n : Fin 16) (be : BitVec 4) (data : Word) (uv : Nat) (x : LoopSamples) (s : State) : exec (.loopFltClear src n be data ⟨uv, x⟩) s =
    .next { s with dev := s.dev.busWrite s.fuses src (pageAddr (loopPage n) 0x0D8) be data { fltSense := some (uv, x) } } := rfl

/-- Settles O36: a conversion sets the warning bits of its limits, and a clear leaves the fault bits whose causes hold. -/
theorem loopStatusCommandsComplete : Obligations.LoopStatusCommandsComplete := by
  unfold Obligations.LoopStatusCommandsComplete
  refine fun s n x => ⟨fun hrun => ⟨_, exec_loopWarning hrun n x, loopWarn_effect s.dev n x⟩, fun src be data uv hbe ht => ?_⟩
  obtain ⟨e, heq, heffect⟩ := loopFltClear_effect s.fuses uv x hbe ht
  exact ⟨_, e, exec_loopFltClear src n be data uv x s, heq, heffect⟩

end Sys2Proof.Machine
end

section
/-! SUPPORT. The requests of scenes: what each result leaves in the sequencer. -/

set_option maxRecDepth 4000
namespace Sys2Proof.Machine
open Sys2Proof

/-! ## A request of software (R361, R371, R374, R397) -/

/-- The device with the result of a request in SEQ_STAT. -/
def Device.answered (d : Device) (r : Nat) : Device := { d with seq := { d.seq with reqres := r } }

/-- A scene that a request may name (R361). -/
def Device.sceneKnown (d : Device) (x : Nat) : Bool := x == 0 || bit (d.reg (0x030060 + 4 * x)) 31

theorem sceneAddr (x : Nat) : pageAddr seqPage (0x060 + 4 * x) = 0x030060 + 4 * x := by
  unfold pageAddr seqPage
  omega

section
variable {d : Device} {x who : Nat}

theorem sceneRequest_disabled (hon : bit (d.head (pg seqPage)).ctl 0 = false) : d.sceneRequest x 4 who = d.answered 6 := by
  unfold Device.sceneRequest
  exact if_pos (by rw [hon]; rfl)

variable (hon : bit (d.head (pg seqPage)).ctl 0 = true)
include hon

theorem enabled_on : ¬ ((4 == 4 && !bit (d.head (pg seqPage)).ctl 0) = true) := by
  rw [hon]
  decide

theorem sceneRequest_unknown (hk : d.sceneKnown x = false) : d.sceneRequest x 4 who = d.answered 5 := by
  unfold Device.sceneKnown at hk
  unfold Device.sceneRequest
  refine (if_neg (enabled_on hon)).trans (if_pos ?_)
  rw [sceneAddr, hk]
  rfl

omit hon in
theorem known_on (hk : d.sceneKnown x = true) : ¬ ((!(x == 0 || bit (d.reg (pageAddr seqPage (0x060 + 4 * x))) 31)) = true) := by
  unfold Device.sceneKnown at hk
  rw [sceneAddr, hk]
  decide

variable (hk : d.sceneKnown x = true)
include hk

theorem sceneRequest_bad (hl : d.listOk x = false) : d.sceneRequest x 4 who = d.answered 4 := by
  unfold Device.sceneRequest
  exact (if_neg (enabled_on hon)).trans ((if_neg (known_on hk)).trans (if_pos (by rw [hl]; rfl)))

variable (hl : d.listOk x = true)
include hl

theorem sceneRequest_idle (hst : d.seq.st = .idle) : d.sceneRequest x 4 who = (d.answered 1).startTransition x 4 false who := by
  unfold Device.sceneRequest
  refine (if_neg (enabled_on hon)).trans ((if_neg (known_on hk)).trans ((if_neg (by rw [hl]; decide)).trans ?_))
  unfold Device.answered
  dsimp only
  rw [hst]

/-- While a wrap of rank 4 runs, a request of software is latched in the place of another of rank 4. -/
theorem sceneRequest_wrap (hst : d.seq.st = .wrap) (hr : d.seq.rank = 4) (hla : ∀ y, d.seq.latched = some y → y.2 = 4) :
    d.sceneRequest x 4 who = ({ d with seq := { d.seq with latched := some (x, 4) } } : Device).answered 2 := by
  unfold Device.sceneRequest
  refine (if_neg (enabled_on hon)).trans ((if_neg (known_on hk)).trans ((if_neg (by rw [hl]; decide)).trans ?_))
  unfold Device.answered
  dsimp only
  rw [hst]
  cases hq : d.seq.latched with
  | none =>
    rw [hr]
    rfl
  | some y =>
    obtain ⟨z, rank⟩ := y
    obtain rfl : rank = 4 := hla _ hq
    rw [hr]
    rfl
end

theorem sceneRequest_write {s : State} {src : Source} {data : Word} (ht : s.dev.takes src 0x030044 0xFFFFFFFF data = true) :
    s.dev.busWrite s.fuses src 0x030044 0xF data {} = (s.dev.arrive src 0x030044).sceneRequest (bits data 2 0) 4 (s.dev.requester src).code := by
  refine (seq_write s src 0x044 data (by decide) (by decide) (by decide) ht).trans ?_
  unfold Device.seqWrite
  dsimp only
  rw [and_full, if_pos rfl]
  rfl

/-- The device that an access of SEQ_REQ finds agrees with the one before it in what a request depends on. -/
theorem arrive_seqState (d : Device) (src : Source) (a : Nat) : (d.arrive src a).seq = d.seq ∧ (d.arrive src a).entry = d.entry ∧ (d.arrive src a).loop = d.loop :=
  ⟨keeps_seq (by unfold Device.arrive; simp), keeps_entry (by unfold Device.arrive; simp), Device.arrive_loop d src a⟩

theorem sceneRequest_effect {s : State} {src : Source} {data : Word} (ht : s.dev.takes src 0x030044 0xFFFFFFFF data = true) :
    let x := bits data 2 0
    let on := bit (s.dev.head (pg 0x030)).ctl 0
    let known := x == 0 || bit (s.dev.reg (0x030060 + 4 * x)) 31
    let e := s.dev.busWrite s.fuses src 0x030044 0xF data {}
    (on = false → e.seq = { s.dev.seq with reqres := 6 } ∧ e.entry = s.dev.entry ∧ e.loop = s.dev.loop) ∧
      (on = true → known = false → e.seq = { s.dev.seq with reqres := 5 } ∧ e.entry = s.dev.entry ∧ e.loop = s.dev.loop) ∧
      (on = true → known = true → s.dev.listOk x = false → e.seq = { s.dev.seq with reqres := 4 } ∧ e.entry = s.dev.entry ∧ e.loop = s.dev.loop) ∧
      (on = true → known = true → s.dev.listOk x = true →
        (s.dev.seq.st = .idle → ∃ g : Device, e = g.startTransition x 4 false (s.dev.requester src).code ∧
          g.seq = { s.dev.seq with reqres := 1 } ∧ g.entry = s.dev.entry ∧ g.loop = s.dev.loop ∧ g.regs = s.dev.regs) ∧
        (s.dev.seq.st = .wrap → s.dev.seq.rank = 4 → (∀ y, s.dev.seq.latched = some y → y.2 = 4) →
          e.seq = { s.dev.seq with reqres := 2, latched := some (x, 4) } ∧ e.entry = s.dev.entry ∧ e.loop = s.dev.loop)) := by
  obtain ⟨hseq, hentry, hloop⟩ := arrive_seqState s.dev src 0x030044
  have hregs := Device.arrive_regs s.dev src 0x030044
  have hctl := arrive_ctl s.dev src 0x030044 (pg 0x030)
  dsimp only
  rw [sceneRequest_write ht, ← hctl, ← reg_of_same hregs, ← listOk_of hregs, ← hseq, ← hentry, ← hloop, ← hregs]
  generalize s.dev.arrive src 0x030044 = a
  have hanswer : ∀ r e, e = a.answered r → e.seq = { a.seq with reqres := r } ∧ e.entry = a.entry ∧ e.loop = a.loop := by
    rintro r _ rfl
    exact ⟨rfl, rfl, rfl⟩
  refine ⟨fun hon => hanswer 6 _ (sceneRequest_disabled hon), fun hon hk => hanswer 5 _ (sceneRequest_unknown hon hk), fun hon hk hl => hanswer 4 _ (sceneRequest_bad hon hk hl),
    fun hon hk hl => ⟨fun hst => ⟨a.answered 1, sceneRequest_idle hon hk hl hst, rfl, rfl, rfl, rfl⟩, fun hst hr hla => ?_⟩⟩
  rw [sceneRequest_wrap hon hk hl hst hr hla]
  exact ⟨rfl, rfl, rfl⟩

/-! ## The latched request (R371) -/

theorem latchedStart_none {d : Device} (h : d.seq.latched = none) : d.latchedStart = d := by
  unfold Device.latchedStart
  rw [h]

theorem latchedStart_some {d : Device} {x r : Nat} (h : d.seq.latched = some (x, r)) (hst : d.seq.st = .idle ∨ (d.seq.st = .wrap ∧ d.wrapSet = [])) :
    d.latchedStart = ({ d with seq := { d.seq with latched := none } } : Device).startTransition x r false := by
  have hfree : (d.seq.st == .idle || ((d.seq.st == .wrap || d.seq.st == .stalled || d.seq.st == .retry) && d.wrapSet.isEmpty)) = true := by
    obtain hst | ⟨hst, hset⟩ := hst
    · rw [hst]
      rfl
    · rw [hst, hset]
      rfl
  unfold Device.latchedStart
  rw [h]
  exact if_pos hfree

theorem exec_sceneRequest (src : Source) (data : Word) (s : State) : exec (.sceneRequest src data) s = .next { s with dev := s.dev.busWrite s.fuses src 0x030044 0xF data {} } := rfl

theorem exec_latchedRequestStart {s : State} (hrun : s.dev.hupRuns = true) : exec .latchedRequestStart s = .next { s with dev := s.dev.latchedStart } :=
  service_next s (fun d => d.latchedStart) hrun

/-- Settles O37: a request is answered by the first of the conditions that hold, and a latched one waits for the wrap. -/
theorem sceneRequestsComplete : Obligations.SceneRequestsComplete := by
  unfold Obligations.SceneRequestsComplete
  refine fun s => ⟨fun src data ht => ⟨_, exec_sceneRequest src data s, sceneRequest_effect ht⟩, fun hrun => ⟨fun h => ?_, fun x r h hst => ?_⟩⟩
  · exact (exec_latchedRequestStart hrun).trans (next_of s (latchedStart_none h))
  · exact ⟨_, _, (exec_latchedRequestStart hrun).trans (next_of s (latchedStart_some h hst)), rfl, rfl, rfl⟩

end Sys2Proof.Machine
end

section
/-! SUPPORT. The entries of the sequencer and the sequencer itself: the events of a take, of a wrap and of the single rails. -/

set_option maxRecDepth 4000
namespace Sys2Proof.Machine
open Sys2Proof

/-! ## The events of an entry -/

section
variable {s : State} (hrun : s.dev.hupRuns = true)
include hrun

theorem exec_entryStart (i : Fin 128) (vmon : Nat) : exec (.entryStart i vmon) s = .next { s with dev := s.dev.entryStart i vmon } :=
  service_next s (fun d => d.entryStart i vmon) hrun

theorem exec_railPowerGood (i : Fin 96) (readings : List Nat) : exec (.railPowerGood i readings) s = .next { s with dev := s.dev.railGood (railEntry i) readings } :=
  service_next s (fun d => d.railGood (railEntry i) readings) hrun

theorem exec_wrapOffDelayExpiry (i : Fin 128) (reading : Nat) : exec (.wrapOffDelayExpiry i reading) s = .next { s with dev := s.dev.wrapStop i reading } :=
  service_next s (fun d => d.wrapStop i reading) hrun

theorem exec_railDischarged (i : Fin 96) (readings : List Nat) : exec (.railDischarged i readings) s = .next { s with dev := s.dev.railDischarged (railEntry i) readings } :=
  service_next s (fun d => d.railDischarged (railEntry i) readings) hrun

theorem exec_enlatchRestart (i : Fin 128) : exec (.enlatchRestart i) s = .next { s with dev := s.dev.enlatchRestart i } :=
  service_next s (fun d => d.enlatchRestart i) hrun

theorem exec_dischargeTimeout (i : Fin 96) : exec (.dischargeTimeout i) s = .next { s with dev := s.dev.dischargeTimeout (railEntry i) } :=
  service_next s (fun d => d.dischargeTimeout (railEntry i)) hrun
end

/-- Settles O38: each event moves its entry alone, and the transition then looks on. -/
theorem entryEventsComplete : Obligations.EntryEventsComplete := by
  unfold Obligations.EntryEventsComplete
  refine fun s hrun => ⟨?start, ?good, ?wrap, ?discharged, ?restart, ?timeout⟩
  case start =>
    intro i vmon htake hp hs hd
    obtain ⟨e, heq, hmove, hen, hprebias, hquiet⟩ := entryStart_moves s.dev i vmon htake hp hs hd
    exact ⟨_, e, exec_entryStart hrun i vmon, heq, hmove, hen, hprebias, hquiet⟩
  case good =>
    intro i readings hs hg
    obtain ⟨e, heq, hmove⟩ := railGood_moves s.dev (railEntry i) readings hs hg
    exact ⟨_, e, exec_railPowerGood hrun i readings, heq, hmove⟩
  case wrap =>
    intro i reading hset hstep hup hdown
    obtain ⟨e, heq, hmove⟩ := wrapStop_moves s.dev i reading hset hstep hup hdown
    exact ⟨_, e, exec_wrapOffDelayExpiry hrun i reading, heq, hmove⟩
  case discharged =>
    intro i readings hs hg
    obtain ⟨e, heq, hmove⟩ := discharged_moves s.dev (railEntry i) readings hs hg
    exact ⟨_, e, exec_railDischarged hrun i readings, heq, hmove⟩
  case restart =>
    intro i hlatch hdown
    obtain ⟨e, heq, hmove, hclear⟩ := restart_moves s.dev i hlatch hdown
    exact ⟨_, e, exec_enlatchRestart hrun i, heq, hmove, hclear⟩
  case timeout =>
    intro i hs
    obtain ⟨e, hnodis, hcompat, hother⟩ := timeout_moves s.dev (railEntry i) hs
    exact ⟨_, e, exec_dischargeTimeout hrun i, hnodis, hcompat, hother⟩

/-! ## The events of the sequencer -/

section
variable {s : State} (hrun : s.dev.hupRuns = true)
include hrun

theorem exec_wrapStepAdvance : exec .wrapStepAdvance s = .next { s with dev := s.dev.wrapProgress.takeProgress } :=
  service_next s (fun d => d.wrapProgress.takeProgress) hrun

theorem exec_takeResume : exec .takeResume s = .next { s with dev := s.dev.holdCheck.takeProgress } := service_next s (fun d => d.holdCheck.takeProgress) hrun

theorem exec_retryDelayExpiry : exec .retryDelayExpiry s = .next { s with dev := s.dev.retryExpiry } := service_next s (fun d => d.retryExpiry) hrun

theorem exec_resetStretchElapsed (k : Fin 32) : exec (.resetStretchElapsed k) s = .next { s with dev := s.dev.stretchElapsed k } :=
  service_next s (fun d => d.stretchElapsed k) hrun
end

section
variable {d : Device}

/-- Outside a take, a hold and a start of single rails the take does not look on. -/
theorem wrapProgress_alone (h : d.wrapProgress.seq.st = .wrap ∨ d.wrapProgress.seq.st = .stalled ∨ d.wrapProgress.seq.st = .idle ∨ d.wrapProgress.seq.st = .retry) :
    d.wrapProgress.takeProgress = d.wrapProgress := by
  refine takeProgress_idle _ ?_ ?_ (Or.inl ?_)
  all_goals obtain h | h | h | h := h <;> rw [h] <;> decide

theorem stepAdvance_wrap (hst : d.seq.st = .wrap) (hset : d.wrapSet ≠ []) : let e := d.wrapProgress.takeProgress
    e.seq.step = d.topStep d.wrapSet ∧ (e.seq.st = .wrap ∨ e.seq.st = .stalled) ∧ e.entry = d.entry := by
  obtain ⟨hstep, hthen, hentry⟩ := advance_wrap d hst hset
  dsimp only
  rw [wrapProgress_alone (hthen.imp_right Or.inl)]
  exact ⟨hstep, hthen, hentry⟩

theorem stepAdvance_rail (hst : d.seq.st = .rail) (hon : d.seq.railOn = false) (hset : d.wrapSet = []) : let e := d.wrapProgress.takeProgress
    e.seq = { d.seq with st := .idle } ∧ e.entry = d.entry := by
  obtain ⟨hseq, hentry⟩ := advance_rail d hst hon hset
  dsimp only
  rw [wrapProgress_alone (Or.inr (Or.inr (Or.inl (by rw [hseq]))))]
  exact ⟨hseq, hentry⟩

theorem stepAdvance_retry (hst : d.seq.st = .retry) (hw : d.seq.waiting = false) (hl : d.seq.latched = none) (hset : d.wrapSet = []) :
    let e := d.wrapProgress.takeProgress
    e.seq = { d.seq with waiting := true } ∧ e.entry = d.entry := by
  obtain ⟨hseq, hentry⟩ := advance_retry d hst hw hl hset
  dsimp only
  rw [wrapProgress_alone (Or.inr (Or.inr (Or.inr (by rw [hseq]; exact hst))))]
  exact ⟨hseq, hentry⟩

theorem holdCheck_resumes (hst : d.seq.st = .hold) (hn : d.holdNeeded = false) : d.holdCheck.seq = { d.seq with st := .take } ∧ d.holdCheck.entry = d.entry := by
  have heq : d.holdCheck = d.seqTo .take 0x1A := by
    unfold Device.holdCheck
    rw [hst, hn]
    rfl
  obtain ⟨hseq, hentry, -⟩ := seqTo_same d .take 0x1A byHw
  rw [heq]
  exact ⟨hseq, hentry⟩

theorem holdCheck_holds (hst : d.seq.st = .take) (hn : d.holdNeeded = true) : d.holdCheck.seq = { d.seq with st := .hold } ∧ d.holdCheck.entry = d.entry := by
  have heq : d.holdCheck = d.seqTo .hold 0x19 := by
    unfold Device.holdCheck
    rw [hst, hn]
    rfl
  obtain ⟨hseq, hentry, -⟩ := seqTo_same d .hold 0x19 byHw
  rw [heq]
  exact ⟨hseq, hentry⟩
end

/-- Settles O39: a step of the sequencer, by its state. -/
theorem sequencerEventsComplete : Obligations.SequencerEventsComplete := by
  unfold Obligations.SequencerEventsComplete
  refine fun s hrun => ⟨⟨?wrap, ?rail, ?retry⟩, ⟨?resume, ?holds⟩, ?expiry, ?stretch⟩
  case wrap => exact fun hst hset => ⟨_, exec_wrapStepAdvance hrun, stepAdvance_wrap hst hset⟩
  case rail => exact fun hst hon hset => ⟨_, exec_wrapStepAdvance hrun, stepAdvance_rail hst hon hset⟩
  case retry => exact fun hst hw hl hset => ⟨_, exec_wrapStepAdvance hrun, stepAdvance_retry hst hw hl hset⟩
  case resume => exact fun hst hn => ⟨_, s.dev.holdCheck, exec_takeResume hrun, by dsimp only, holdCheck_resumes hst hn⟩
  case holds => exact fun hst hn => ⟨_, s.dev.holdCheck, exec_takeResume hrun, by dsimp only, holdCheck_holds hst hn⟩
  case expiry =>
    intro hst hw
    obtain ⟨hagain, hends⟩ := retry_over s.dev hst hw
    refine ⟨fun h => ?_, fun h => ?_⟩
    · obtain ⟨e, heq, heffect⟩ := hagain h
      exact ⟨_, e, exec_retryDelayExpiry hrun, heq, heffect⟩
    · obtain ⟨e, heq, heffect⟩ := hends h
      exact ⟨_, e, exec_retryDelayExpiry hrun, heq, heffect⟩
  case stretch =>
    intro k h
    obtain ⟨e, heffect⟩ := stretch_over s.dev k h
    exact ⟨_, e, exec_resetStretchElapsed hrun k, heffect⟩

/-! ## The failures of a rail and the single-rail requests (R366, R375, R383, R384, R387) -/

section
variable {s : State} (hrun : s.dev.hupRuns = true)
include hrun

theorem exec_pgTimeout (i : Fin 96) : exec (.pgTimeout i) s = .next { s with dev := s.dev.pgExpiry (railEntry i) } :=
  service_next s (fun d => d.pgExpiry (railEntry i)) hrun

theorem exec_railMonitorFault (i : Fin 96) (det : RailDetect) (readings : List Nat) : exec (.railMonitorFault i det readings) s =
    .next { s with dev := s.dev.monitorFault (railEntry i) det readings } := service_next s (fun d => d.monitorFault (railEntry i) det readings) hrun

theorem exec_heldRailRequestStart : exec .heldRailRequestStart s = .next { s with dev := s.dev.heldStart } := service_next s (fun d => d.heldStart) hrun
end

theorem exec_seqForce (src : Source) (data : Word) (s : State) : exec (.seqForce src data) s = .next { s with dev := s.dev.busWrite s.fuses src 0x030050 0xF data {} } := rfl

/-- A rail that does not rise in its time fails. -/
theorem pgExpiry_fails {d : Device} {i : Fin 128} (h : (d.en i).st = .starting) : ∃ e : Device, d.pgExpiry i = e.failPolicy (i :: d.cutMembers i) ∧ RailFails d e i 1 := by
  have heq : ∃ reading, d.pgExpiry i = d.railFail i 1 reading := ⟨_, if_pos (by rw [h]; rfl)⟩
  obtain ⟨reading, heq⟩ := heq
  rw [heq]
  exact railFail_eq d i 1 reading

/-- The readings of a monitor change nothing that a failure depends on. -/
theorem railFails_from {d a e : Device} {i : Fin 128} {c : Nat} (h : RailFails a e i c) (hst : (a.en i).st = (d.en i).st) (hseq : a.seq = d.seq) : RailFails d e i c := by
  obtain ⟨hlast, hcause, hup, hdown⟩ := h
  rw [hseq] at hlast
  rw [hst] at hup hdown
  exact ⟨hlast, hcause, hup, hdown⟩

theorem monitorFault_fails {d : Device} {i : Fin 128} {det : RailDetect} {readings : List Nat} {c : Nat} (h : d.monitorHolds i det readings = some c) :
    ∃ e : Device, d.monitorFault i det readings = (e.failPolicy (i :: d.cutMembers i)).wrapProgress.takeProgress ∧ RailFails d e i c := by
  obtain ⟨hst, hbeside, hseq, -, hregs, -⟩ := setReadings_en d i readings
  have hall : ∀ j, ((d.setReadings i readings).en j).st = (d.en j).st := fun j => by
    by_cases hj : j = i
    · rw [hj, hst]
    · rw [hbeside j hj]
  obtain ⟨e, heq, hfails⟩ := railFail_eq (d.setReadings i readings) i c (readings.getLastD 0)
  rw [cutMembers_of hregs hall] at heq
  refine ⟨e, ?_, railFails_from hfails hst hseq⟩
  unfold Device.monitorFault
  rw [h]
  dsimp only
  rw [heq]

theorem monitorFault_none {d : Device} {i : Fin 128} {det : RailDetect} {readings : List Nat} (h : d.monitorHolds i det readings = none) :
    d.monitorFault i det readings = d := by
  unfold Device.monitorFault
  rw [h]

theorem heldStart_none {d : Device} (h : d.seq.held = []) : d.heldStart = d := by
  unfold Device.heldStart
  rw [h]
  exact ite_self _

theorem heldStart_some {d : Device} {op : RailOp} {i : Fin 128} {r : List (RailOp × Nat)} (h : d.seq.held = (op, i.val) :: r) (hst : d.seq.st = .idle)
    (hl : d.seq.latched = none) : d.heldStart = ({ d with seq := { d.seq with held := r } } : Device).railNow op i := by
  unfold Device.heldStart
  rw [h, if_pos (by rw [hst, hl]; rfl)]
  dsimp only
  rw [show Fin.ofNat 128 i.val = i from Fin.ext (Nat.mod_eq_of_lt i.isLt)]

/-- The code of a single-rail request in SEQ_RAIL (R383). -/
def RailOp.code : RailOp → Nat
  | .on => 1 | .softOff => 2 | .immOff => 3 | .clear => 4

theorem railOpOf_code (op : RailOp) : railOpOf op.code = some op := by cases op <;> rfl

theorem railOp_code_lt (op : RailOp) : op.code < 8 := by cases op <;> decide

/-- The word of a single-rail request for entry i. -/
def railWordOf (op : RailOp) (i : Fin 128) : Word := field 31 29 op.code ||| field 6 0 i.val

theorem exec_railOp {src : Source} {i : Fin 128} {op : RailOp} {c : Instr}
    (h : (op, c) ∈ [(RailOp.on, Instr.railOn src i), (.softOff, .railSoftOff src i), (.immOff, .railImmediateOff src i), (.clear, .railClear src i)]) (s : State) :
    exec c s = .next { s with dev := s.dev.busWrite s.fuses src 0x03004C 0xF (railWordOf op i) {} } := by
  simp only [List.mem_cons, List.not_mem_nil, or_false, Prod.mk.injEq] at h
  obtain ⟨rfl, rfl⟩ | ⟨rfl, rfl⟩ | ⟨rfl, rfl⟩ | ⟨rfl, rfl⟩ := h <;> rfl

/-- What a single-rail request does in IDLE (R383, R384). -/
theorem railNow_effect (d : Device) (op : RailOp) {i : Fin 128} (hr : isRail i = true) : let e := d.railNow op i
    (op = .clear → (d.en i).st = .faulted → EntryMoves d e i .off 0x01 ∧ (e.en i).failCause = 0) ∧
      (op = .on → d.inScene i d.seq.cur = false → e.seq = { d.seq with reqres := 5 } ∧ (e.en i).heldOff = false) ∧
      (op = .softOff → ∃ g : Device, e = g.wrapProgress ∧ g.seq.st = .rail ∧ g.seq.railOn = false ∧ (g.en i).heldOff = true) ∧
      (op = .immOff → ∃ g : Device, e = g.wrapProgress.takeProgress ∧ (g.en i).heldOff = true ∧
        ((d.en i).st.up = true → (g.en i).st = .stopping ∧ (g.en i).failCause = 8)) := by
  refine ⟨?clear, ?on, ?soft, ?imm⟩
  case clear =>
    rintro rfl h
    exact clear_now d i h
  case on =>
    rintro rfl h
    exact on_now { d with entry := mapFin d.entry fun _ e => { e with inRail := false } } i ((entry_scene d _ i _).trans h)
  case soft =>
    rintro rfl
    exact soft_now { d with entry := mapFin d.entry fun _ e => { e with inRail := false } } i
  case imm =>
    rintro rfl
    exact imm_now d i hr

theorem railOp_effect {s : State} {src : Source} {i : Fin 128} {op : RailOp} (ht : s.dev.takes src 0x03004C 0xFFFFFFFF (railWordOf op i) = true) :
    let e := s.dev.busWrite s.fuses src 0x03004C 0xF (railWordOf op i) {}
    (isRail i = false → bit (e.head (pg seqPage)).err 8 = true ∧ e.seq = s.dev.seq ∧ e.entry = s.dev.entry) ∧
      (isRail i = true → s.dev.seq.st = .take → e.seq = { s.dev.seq with held := s.dev.seq.held ++ [(op, i.val)] } ∧ e.entry = s.dev.entry) ∧
      (isRail i = true → s.dev.seq.st = .idle →
        (op = .clear → (s.dev.en i).st = .faulted → EntryMoves s.dev e i .off 0x01 ∧ (e.en i).failCause = 0) ∧
        (op = .on → s.dev.inScene i s.dev.seq.cur = false → e.seq = { s.dev.seq with reqres := 5 } ∧ (e.en i).heldOff = false) ∧
        (op = .softOff → ∃ g : Device, e = g.wrapProgress ∧ g.seq.st = .rail ∧ g.seq.railOn = false ∧ (g.en i).heldOff = true) ∧
        (op = .immOff → ∃ g : Device, e = g.wrapProgress.takeProgress ∧ (g.en i).heldOff = true ∧
          ((s.dev.en i).st.up = true → (g.en i).st = .stopping ∧ (g.en i).failCause = 8))) := by
  obtain ⟨hseq, hentry, -⟩ := arrive_seqState s.dev src 0x03004C
  have hregs := Device.arrive_regs s.dev src 0x03004C
  have hwrite := rail_word s src i op op.code (railOp_code_lt op) (railOpOf_code op) ht
  dsimp only at hwrite ⊢
  rw [show s.dev.busWrite s.fuses src 0x03004C 0xF (railWordOf op i) {} = _ from hwrite, ← hseq, ← hentry, ← inScene_of hregs]
  have hmoves : ∀ {e st cause}, EntryMoves (s.dev.arrive src 0x03004C) e i st cause → EntryMoves s.dev e i st cause := fun h =>
    em_pre h (by rw [en_of hentry]) fun j _ => en_of hentry j
  have hen := en_of hentry i
  generalize s.dev.arrive src 0x03004C = a at *
  obtain ⟨hheld, hidle⟩ := rail_request a op i
  refine ⟨fun hr => ?_, fun hr hst => ?_, fun hr hst => ?_⟩
  · rw [if_neg (by rw [hr]; decide)]
    exact ⟨setErr_bit _ _ _ (by decide), rfl, rfl⟩
  · rw [if_pos hr]
    exact hheld hr hst
  · rw [if_pos hr, hidle hr hst, ← hen]
    obtain ⟨hclear, hon, hsoft, himm⟩ := railNow_effect a op hr
    exact ⟨fun hop hs => ⟨hmoves (hclear hop hs).1, (hclear hop hs).2⟩, hon, hsoft, himm⟩

/-! ## SEQ_FORCE (R387) -/

theorem seqForce_write {s : State} {src : Source} {data : Word} (ht : s.dev.takes src 0x030050 0xFFFFFFFF data = true) :
    let a := s.dev.arrive src 0x030050
    s.dev.busWrite s.fuses src 0x030050 0xF data {} = if bits data 31 16 = 0xF0CE ∧ s.dev.isAdmin (s.dev.requester src) then a.seqForce data else a.setErr seqPage (errBit 1) := by
  refine (seq_write s src 0x050 data (by decide) (by decide) (by decide) ht).trans ?_
  unfold Device.seqWrite
  dsimp only
  rw [and_full, if_neg (by decide), if_neg (by decide), if_pos rfl, Device.arrive_isAdmin]
  rfl

/-- A forced entry, where the word names every stuck one. -/
theorem seqForce_all {d : Device} {i : Fin 128} {w : Word} (hall : bit w 15 = true) (h : (d.en i).st = .stuck) :
    ∃ e : Device, d.seqForce w = e.wrapProgress.takeProgress ∧ (e.en i).forced = true ∧ (e.en i).st = if (d.en i).stopFail then .faulted else .off := by
  have hmem : i ∈ d.entriesWhere fun i e => e.st == .stuck && (bit w 15 || i.val == bits w 6 0) := by
    unfold Device.entriesWhere
    refine List.mem_filter.2 ⟨List.mem_finRange i, ?_⟩
    rw [hall]
    show ((d.en i).st == .stuck && _) = true
    rw [h]
    rfl
  have hfold := force_fold i (d.en i).stopFail _ d rfl (Or.inl hmem)
  unfold Device.seqForce
  dsimp only
  generalize d.entriesWhere _ = l at hmem hfold
  exact ⟨_, if_neg (by rw [isEmpty_not (List.ne_nil_of_mem hmem)]; decide), hfold⟩

theorem seqForce_effect {s : State} {src : Source} {i : Fin 128} {data : Word} (ht : s.dev.takes src 0x030050 0xFFFFFFFF data = true) :
    let t := s.dev.busWrite s.fuses src 0x030050 0xF data {}
    (bits data 31 16 = 0xF0CE → s.dev.isAdmin (s.dev.requester src) = true → bit data 15 = true → (s.dev.en i).st = .stuck →
      ∃ e : Device, t = e.wrapProgress.takeProgress ∧ (e.en i).forced = true ∧ (e.en i).st = if (s.dev.en i).stopFail then .faulted else .off) ∧
    (bits data 31 16 ≠ 0xF0CE ∨ s.dev.isAdmin (s.dev.requester src) = false → bit (t.head (pg seqPage)).err 1 = true ∧ t.seq = s.dev.seq ∧ t.entry = s.dev.entry) := by
  obtain ⟨hseq, hentry, -⟩ := arrive_seqState s.dev src 0x030050
  have hen := en_of hentry i
  have hwrite := seqForce_write ht
  dsimp only at hwrite ⊢
  rw [hwrite]
  refine ⟨fun hkey hadmin hall hst => ?_, fun h => ?_⟩
  · rw [if_pos ⟨hkey, hadmin⟩, ← hen]
    exact seqForce_all hall (by rw [hen]; exact hst)
  · have hno : ¬ (bits data 31 16 = 0xF0CE ∧ s.dev.isAdmin (s.dev.requester src) = true) := by
      rintro ⟨hkey, hadmin⟩
      obtain h | h := h
      · exact h hkey
      · exact absurd (hadmin.symm.trans h) (by decide)
    rw [if_neg hno]
    exact ⟨setErr_bit _ _ _ (by decide), hseq, hentry⟩

/-- Settles O40: a failure of a rail, a single-rail request and a forced release, each by the sequencer's state. -/
theorem railCommandsComplete : Obligations.RailCommandsComplete := by
  unfold Obligations.RailCommandsComplete
  refine ⟨fun s i hrun => ⟨?pg, ?fault, ?none⟩, fun s src i => ⟨?op, fun hrun => ⟨?heldNone, ?heldSome⟩, ?force⟩⟩
  case pg =>
    intro h
    obtain ⟨e, heq, hfails⟩ := pgExpiry_fails h
    exact ⟨_, e, exec_pgTimeout hrun i, heq, hfails⟩
  case fault =>
    intro det readings c h
    obtain ⟨e, heq, hfails⟩ := monitorFault_fails h
    exact ⟨_, e, exec_railMonitorFault hrun i det readings, heq, hfails⟩
  case none => exact fun det readings h => (exec_railMonitorFault hrun i det readings).trans (next_of s (monitorFault_none h))
  case op =>
    intro op c hc w hw ht
    obtain rfl : w = railWordOf op i := by cases op <;> exact hw
    exact ⟨_, exec_railOp hc s, railOp_effect ht⟩
  case heldNone => exact fun h => (exec_heldRailRequestStart hrun).trans (next_of s (heldStart_none h))
  case heldSome => exact fun op r h hst hl => ⟨_, _, (exec_heldRailRequestStart hrun).trans (next_of s (heldStart_some h hst hl)), rfl, rfl, rfl⟩
  case force => exact fun data ht => ⟨_, exec_seqForce src data s, seqForce_effect ht⟩

end Sys2Proof.Machine
end

section
/-! SUPPORT. The hold-up path: what each event does in the state of R409 from which it acts. -/

set_option maxRecDepth 4000
namespace Sys2Proof.Machine
open Sys2Proof

/-! ## The events of the path, each from its own state -/

section
variable {d : Device} {m : HupMeas}

theorem shareEnd_moves (hst : d.hup.st = .share) (hi : m.ibat.natAbs < 8) : PathMoves (d.setMeas m) (d.shareEnd m) .standby 0x19 := by
  have heq : d.shareEnd m = (d.setMeas m).hupTo .standby 0x19 := if_pos (by rw [(setMeas_keeps d m).1, hst, decide_eq_true hi]; rfl)
  rw [heq]
  exact hupTo_moves _ _ _ _

/-- The path's own record of a missing reserve is none of what a move shows. -/
theorem pm_rsvLow {a e : Device} {st : PathState} {cause : Nat} {b : Bool} (h : PathMoves (a.updHup fun h => { h with rsvLow := b }) e st cause) : PathMoves a e st cause := h

theorem detectEnd_moves (low : Bool) (hst : d.hup.st = .detect) :
    let e := ((d.setMeas m).updHup fun h => { h with present := low }).hotCheck
    PathMoves e (d.detectEnd low m) (if e.packQualified then .standby else if !low then .nopack else .inhibit) 0x10 := by
  have hdet : (((d.setMeas m).updHup fun h => { h with present := low }).hotCheck).hup.st = .detect := (hotCheck_keeps _).1.trans hst
  unfold Device.detectEnd
  dsimp only
  generalize ((d.setMeas m).updHup fun h => { h with present := low }).hotCheck = e at hdet
  rw [hdet, if_pos (beq_self_eq_true PathState.detect)]
  exact pm_rsvLow (hupTo_moves _ _ _ _)

/-- A pack that is qualified and no inhibit takes the path to STANDBY. -/
theorem packQual_moves : let e := ((d.setMeas m).updHup fun h => { h with present := h.present || d.boot.up.ao }).hotCheck
    e.packQualified = true → e.inhCause = 0 → (d.hup.st = .nopack → PathMoves e (d.packQual m) .standby 0x10) ∧ (d.hup.st = .inhibit → PathMoves e (d.packQual m) .standby 0x1B) := by
  have hst : (((d.setMeas m).updHup fun h => { h with present := h.present || d.boot.up.ao }).hotCheck).hup.st = d.hup.st := (hotCheck_keeps _).1
  unfold Device.packQual
  dsimp only
  generalize ((d.setMeas m).updHup fun h => { h with present := h.present || d.boot.up.ao }).hotCheck = e at hst
  intro hq hi
  rw [hst, hq, hi]
  refine ⟨fun h => ?_, fun h => ?_⟩ <;> rw [h] <;> exact hupTo_moves _ _ _ _

theorem pathInhibit_eq (d : Device) (m : HupMeas) (st : PathState) (h : d.hup.st = st) : ((d.setMeas m).hotCheck).hup.st = st :=
  (hotCheck_keeps _).1.trans h

theorem pathInhibit_nopack (hst : d.hup.st = .nopack) (hc : (d.setMeas m).hotCheck.inhCause = 1) : PathMoves (d.setMeas m).hotCheck (d.pathInhibit m) .inhibit 0x1A := by
  have heq : d.pathInhibit m = (d.setMeas m).hotCheck.hupTo .inhibit 0x1A := by
    unfold Device.pathInhibit
    dsimp only
    rw [pathInhibit_eq d m _ hst, hc]
    rfl
  rw [heq]
  exact hupTo_moves _ _ _ _

theorem pathInhibit_standby (hst : d.hup.st = .standby ∨ d.hup.st = .share) (hc : (d.setMeas m).hotCheck.inhCause ≠ 0) :
    PathMoves (d.setMeas m).hotCheck (d.pathInhibit m) .inhibit 0x1A := by
  have heq : d.pathInhibit m = (d.setMeas m).hotCheck.hupTo .inhibit 0x1A := by
    unfold Device.pathInhibit
    dsimp only
    obtain hst | hst := hst <;> rw [pathInhibit_eq d m _ hst] <;> exact if_pos (bne_iff_ne.2 hc)
  rw [heq]
  exact hupTo_moves _ _ _ _

theorem pathInhibit_charge (hst : d.hup.st = .charge) (hc : (d.setMeas m).hotCheck.inhCause ≠ 0) :
    PathMoves ((d.setMeas m).hotCheck.chgDrain 0x02) (d.pathInhibit m) .inhibit 0x1A := by
  have heq : d.pathInhibit m = ((d.setMeas m).hotCheck.chgDrain 0x02).hupTo .inhibit 0x1A := by
    unfold Device.pathInhibit
    dsimp only
    rw [pathInhibit_eq d m _ hst]
    exact if_pos (bne_iff_ne.2 hc)
  rw [heq]
  exact hupTo_moves _ _ _ _

theorem converterFault_moves (hst : d.hup.st = .handover ∨ d.hup.st = .batt ∨ d.hup.st = .share) (hi : ((bits (d.hreg 0x058) 7 0 * 16 : Nat) : Int) ≤ m.ibat)
    (hv : m.vbus < bits (d.hreg 0x050) 9 0 * 9) : ∃ e : Device, PathMoves e (d.converterFault m) .inhibit 0x1A ∧
      e.hup = { (d.setMeas m).hup with convFault := true, convAck := false } ∧ bit (e.head (pg hupPage)).err 10 = true := by
  have heq : d.converterFault m = (((d.setMeas m).updHup fun h => { h with convFault := true, convAck := false }).setErr hupPage (errBit 10)).hupTo .inhibit 0x1A := by
    refine if_pos ?_
    rw [show (d.setMeas m).hup.st = d.hup.st from rfl, hreg_of (setMeas_keeps d m).2.2.1, hreg_of (setMeas_keeps d m).2.2.1, decide_eq_true hi, decide_eq_true hv]
    obtain h | h | h := hst <;> rw [h] <;> rfl
  refine ⟨((d.setMeas m).updHup fun h => { h with convFault := true, convAck := false }).setErr hupPage (errBit 10), ?_, rfl, setErr_bit _ _ _ (by decide)⟩
  rw [heq]
  exact hupTo_moves _ _ _ _

theorem handoverDone_moves (hst : d.hup.st = .handover) (hi : m.isrc ≤ ((bits (d.hreg 0x054) 7 0 * 2 : Nat) : Int)) : PathMoves (d.setMeas m) (d.handoverDone m) .batt 0x13 := by
  have heq : d.handoverDone m = (d.setMeas m).hupTo .batt 0x13 :=
    if_pos (by rw [show (d.setMeas m).hup.st = d.hup.st from rfl, hreg_of (setMeas_keeps d m).2.2.1, hst, decide_eq_true hi]; rfl)
  rw [heq]
  exact hupTo_moves _ _ _ _

theorem handoverTimeout_moves (hst : d.hup.st = .handover) : ∃ e : Device, PathMoves d e .batt 0x14 ∧ d.handoverTimeout.hup = e.hup ∧ d.handoverTimeout.chg = e.chg ∧
    bit (d.handoverTimeout.head (pg hupPage)).err 9 = true := by
  have heq : d.handoverTimeout = (d.hupTo .batt 0x14).setErr hupPage (errBit 9) := if_pos (by rw [hst]; rfl)
  rw [heq]
  exact ⟨d.hupTo .batt 0x14, hupTo_moves _ _ _ _, rfl, rfl, setErr_bit _ _ _ (by decide)⟩

/-- An event of another page leaves what the path did. -/
theorem pm_raise {a e : Device} {st : PathState} {cause : Nat} (h : PathMoves a e st cause) (n : Nat) (w : Word) : PathMoves a (e.raise n w) st cause :=
  pm_then h (keeps_hup (by simp)) (keeps_chg (by simp)) (by rw [raise_heads _ _ _ _ (by decide)]; exact ⟨rfl, rfl⟩)

theorem pm_setErr {a e : Device} {st : PathState} {cause : Nat} (h : PathMoves a e st cause) (w : Word) : PathMoves a (e.setErr hupPage w) st cause :=
  pm_then h rfl rfl (by rw [updHdr_err]; exact ⟨rfl, rfl⟩)

theorem sourceQualified_moves (hst : d.hup.st = .batt ∨ d.hup.st = .empty) (hw : d.inWindow m = true) (hq : d.hup.qualifying = true)
    (ht : bits (d.hreg 0x040) 10 0 ≤ (d.cycle - d.hup.qualStart) / 125000) : PathMoves (d.setMeas m) (d.sourceQualified m) .returning 0x15 := by
  obtain ⟨hqual, hleft⟩ := setMeas_qual d m hst hw hq ht
  have heq : d.sourceQualified m = ((d.setMeas m).hupTo .returning 0x15).raise 41 (measWord0 m) := if_pos (by rw [hqual, hleft]; rfl)
  rw [heq]
  exact pm_raise (hupTo_moves _ _ _ _) _ _

theorem returnDone_moves (hst : d.hup.st = .returning) :
    PathMoves (d.setMeas m).hotCheck (d.returnDone m) (if (d.setMeas m).hotCheck.packQualified then .standby else .inhibit) 0x16 := by
  have heq : d.returnDone m = (d.setMeas m).hotCheck.hupTo (if (d.setMeas m).hotCheck.packQualified then .standby else .inhibit) 0x16 :=
    if_pos (by rw [pathInhibit_eq d m _ hst]; rfl)
  rw [heq]
  exact hupTo_moves _ _ _ _

theorem packEmpty_moves (hst : d.hup.st = .batt) (hc : (d.setMeas m).belowCut = true) : PathMoves (d.setMeas m) (d.packEmpty m) .empty 0x17 := by
  have heq : d.packEmpty m = (d.setMeas m).hupTo .empty 0x17 := if_pos (by rw [show (d.setMeas m).hup.st = d.hup.st from rfl, hst, hc]; rfl)
  rw [heq]
  exact hupTo_moves _ _ _ _
end

/-- A removal of the pack (R421, R422): the path is in NOPACK, the charger off, the reserve's charge 0. -/
theorem packRemoval_moves {d : Device} {how : Removal} (h : d.removalSeen how = true) : ∃ e : Device, PathMoves e (d.packRemoval how) .nopack 0x11 ∧
    e.hup = { d.hup with present := d.hup.present && !d.boot.up.ao } ∧ (d.packRemoval how).chg.st = .off ∧
    (d.canonical = true → bits ((d.packRemoval how).hreg 0x05C) 31 16 = 0) ∧ bit ((d.packRemoval how).head (pg hupPage)).err 13 = true := by
  obtain ⟨hhup, hregs, hchg, -⟩ := chgStop_keeps d .off 0x02
  have hboot : (d.chgStop .off 0x02).boot = d.boot := keeps_boot (by simp)
  have hcanon : d.canonical = true → (d.chgStop .off 0x02).canonical = true := canon_of hregs (keeps_ram (by simp))
  have heq : ∃ w e, e = (d.chgStop .off 0x02).updHup (fun h => { h with present := h.present && !(d.chgStop .off 0x02).boot.up.ao }) ∧
      d.packRemoval how = ((e.hupTo .nopack 0x11).setErr hupPage (errBit 13)).raise 42 w := ⟨_, _, rfl, if_pos h⟩
  obtain ⟨w, e, he, heq⟩ := heq
  have hmove := hupTo_moves e .nopack 0x11 byHw
  have hehup : e.hup = { d.hup with present := d.hup.present && !d.boot.up.ao } := by
    subst he
    rw [← hhup, ← hboot]
    rfl
  rw [heq]
  refine ⟨e, pm_raise (pm_setErr hmove _) _ _, hehup, ?_, fun hc => ?_, ?_⟩
  · have hmchg := hmove.2.2.2.2.2.2.2.2.2.2.1 rfl
    have hraise : (((e.hupTo .nopack 0x11).setErr hupPage (errBit 13)).raise 42 w).chg = (e.hupTo .nopack 0x11).chg := keeps_chg (d := (e.hupTo .nopack 0x11).setErr hupPage (errBit 13)) (by simp)
    rw [hraise, hmchg]
    subst he
    exact hchg
  · have hec : e.canonical = true := by
      subst he
      exact canon_of rfl rfl (hcanon hc)
    have hraise : (((e.hupTo .nopack 0x11).setErr hupPage (errBit 13)).raise 42 w).regs = (e.hupTo .nopack 0x11).regs := keeps_regs (d := (e.hupTo .nopack 0x11).setErr hupPage (errBit 13)) (by simp)
    rw [hreg_of hraise]
    exact hupSet_rsv e 0x11 byHw hec
  · rw [raise_heads _ _ _ _ (by decide)]
    exact setErr_bit _ _ _ (by decide)

/-! ## ENABLE of the path (R412, R413) -/

/-- A write of a bit of PAGE_CTL's ENABLE keeps FREEZE's effect off the path and the charger. -/
theorem ctlEnable_write {d : Device} {src : Source} {p : Fin 256} {on : Bool} (f : OtpArray) (hp : isBlockPage p.val = true)
    (ht : d.takesHead src p.val 0x008 (setBit (d.ctlWord p) 0 on) = true) :
    ∃ e : Device, d.busWrite f src (pageAddr p.val 0x008) 0xF (setBit (d.ctlWord p) 0 on) {} = e ∧
      Touches 4 ((d.arrive src (pageAddr p.val 0x008)).enableWrite p.val on (d.requester src).code) e := by
  have h0 : bit (setBit (d.ctlWord p) 0 on) 0 = on := by rw [bit_setBit _ _ _ _ (by decide), if_pos rfl]
  have h1 : bit (setBit (d.ctlWord p) 0 on) 1 = false := by
    rw [bit_setBit _ _ _ _ (by decide), if_neg (by decide)]
    unfold Device.ctlWord
    rw [bit_setBit _ _ _ _ (by decide), if_pos rfl]
  refine ⟨_, rfl, ?_⟩
  rw [head_write_ctl d f src p _ hp ht, ctlWrite_full]
  dsimp only
  rw [h0, h1, if_neg (by decide), Device.arrive_requester]
  exact (Device.freezeWrite_touch _ _ _ _ (by decide)).2 (Touches.same _)

/-- A write of ENABLE of page 0x040 acts on the path as R412 and R413 say, whether the bit changes or not. -/
theorem enableWrite_hup (d : Device) (on : Bool) (who : Nat) : ∃ e : Device, e.hup = d.hup ∧ e.chg = d.chg ∧ d.enableWrite hupPage on who = e.hupEnable on who := by
  unfold Device.enableWrite
  dsimp only
  by_cases h : on = bit (d.head (pg hupPage)).ctl 0
  · rw [if_pos h]
    exact ⟨d, rfl, rfl, if_pos rfl⟩
  · rw [if_neg h]
    exact ⟨d.updHdr (pg hupPage) fun h => { h with ctl := setBit h.ctl 0 on }, rfl, rfl, rfl⟩

theorem arrive_hup (d : Device) (src : Source) (a : Nat) : (d.arrive src a).hup = d.hup ∧ (d.arrive src a).chg = d.chg :=
  ⟨Device.arrive_hup d src a, Device.arrive_chg d src a⟩

theorem hupEnableWrite_effect {d : Device} {src : Source} {on : Bool} (f : OtpArray) (ht : d.takesHead src hupPage 0x008 (setBit (d.ctlWord (pg hupPage)) 0 on) = true) :
    let t := d.busWrite f src (pageAddr hupPage 0x008) 0xF (setBit (d.ctlWord (pg hupPage)) 0 on) {}
    (on = true → t.hup = { d.hup with en := true, enHeld := false, convFault := d.hup.convFault && !d.hup.convAck, convAck := false } ∧ t.chg = d.chg) ∧
      (on = false →
        (d.hup.st = .handover ∨ d.hup.st = .batt ∨ d.hup.st = .returning ∨ d.hup.st = .empty → t.hup = { d.hup with enHeld := true } ∧ t.chg = d.chg) ∧
        (d.hup.st = .detect ∨ d.hup.st = .inhibit → t.hup = { d.hup with en := false, convAck := true } ∧ t.chg = d.chg) ∧
        (d.hup.st = .nopack ∨ d.hup.st = .standby ∨ d.hup.st = .charge ∨ d.hup.st = .share →
          ∃ x e : Device, PathMoves x e .inhibit 0x1A ∧ x.hup = { d.hup with en := false, convAck := true } ∧
            (d.chg.st.charging = true → x.chg.st = .draining) ∧ (d.chg.st.charging = false → x.chg = d.chg) ∧ t.hup = e.hup ∧ t.chg = e.chg)) := by
  obtain ⟨t, heq, htouch⟩ := ctlEnable_write (p := pg hupPage) f (by decide) ht
  obtain ⟨b, hbhup, hbchg, hb⟩ := enableWrite_hup (d.arrive src (pageAddr hupPage 0x008)) on (d.requester src).code
  obtain ⟨hahup, hachg⟩ := arrive_hup d src (pageAddr hupPage 0x008)
  have hthup : t.hup = (b.hupEnable on (d.requester src).code).hup := by
    rw [← hb]
    exact keeps_hup (Touches.mono htouch (by decide))
  have htchg : t.chg = (b.hupEnable on (d.requester src).code).chg := by
    rw [← hb]
    exact keeps_chg (Touches.mono htouch (by decide))
  obtain ⟨hon, hoff⟩ := hupEnable_cases b on (d.requester src).code
  rw [hbhup, hbchg, hahup, hachg, ← hthup, ← htchg] at hon hoff
  dsimp only
  rw [show d.busWrite f src (pageAddr hupPage 0x008) 0xF (setBit (d.ctlWord (pg hupPage)) 0 on) {} = t from heq]
  refine ⟨hon, fun h => ?_⟩
  obtain ⟨hwaits, hidle, hinhibits⟩ := hoff h
  refine ⟨hwaits, hidle, fun hst => ?_⟩
  obtain ⟨x, hmove, hx, hdrain, hkept⟩ := hinhibits hst
  exact ⟨x, _, hmove, hx, hdrain, hkept, hthup, htchg⟩

theorem enableDeferred_waits {d : Device} (h : ¬ (d.hup.enHeld && (d.hup.st == .standby || d.hup.st == .nopack || d.hup.st == .inhibit)) = true) :
    d.enableDeferred = d := if_neg h

theorem enableDeferred_inhibit {d : Device} (hh : d.hup.enHeld = true) (hst : d.hup.st = .inhibit) :
    d.enableDeferred.hup = { d.hup with en := false, enHeld := false, convAck := true } := by
  unfold Device.enableDeferred
  rw [if_pos (by rw [hh, hst]; rfl)]
  dsimp only
  rw [if_pos (by show (d.hup.st == _) = true; rw [hst]; rfl)]
  rfl

theorem enableDeferred_inhibits {d : Device} (hh : d.hup.enHeld = true) (hst : d.hup.st = .standby ∨ d.hup.st = .nopack) :
    ∃ x : Device, PathMoves x d.enableDeferred .inhibit 0x1A ∧ x.hup = { d.hup with en := false, enHeld := false, convAck := true } := by
  refine ⟨d.updHup fun h => { h with en := false, enHeld := false, convAck := true }, ?_, rfl⟩
  unfold Device.enableDeferred
  rw [if_pos (by rw [hh]; obtain h | h := hst <;> rw [h] <;> rfl)]
  dsimp only
  rw [if_neg (by show ¬ (d.hup.st == _) = true; obtain h | h := hst <;> rw [h] <;> decide)]
  exact hupTo_moves _ _ _ _

/-! ## The statement -/

theorem exec_hupEnableWrite (src : Source) (on : Bool) (s : State) : exec (.hupEnableWrite src on) s =
    .next { s with dev := s.dev.busWrite s.fuses src (pageAddr hupPage 0x008) 0xF (setBit (s.dev.ctlWord (pg hupPage)) 0 on) {} } := rfl

section
variable {s : State} (hrun : s.dev.hupRuns = true) (x : HupPins)
include hrun

theorem exec_shareEnd : exec (.shareEnd x) s = .next { s with dev := s.dev.shareEnd (s.dev.scaled x) } := service_next s (fun d => d.shareEnd (d.scaled x)) hrun
theorem exec_powerPathDetectEnd (low : Bool) : exec (.powerPathDetectEnd low x) s = .next { s with dev := s.dev.detectEnd low (s.dev.scaled x) } :=
  service_next s (fun d => d.detectEnd low (d.scaled x)) hrun
theorem exec_packQualified : exec (.packQualified x) s = .next { s with dev := s.dev.packQual (s.dev.scaled x) } := service_next s (fun d => d.packQual (d.scaled x)) hrun
theorem exec_powerPathInhibit : exec (.powerPathInhibit x) s = .next { s with dev := s.dev.pathInhibit (s.dev.scaled x) } :=
  service_next s (fun d => d.pathInhibit (d.scaled x)) hrun
theorem exec_converterFault : exec (.converterFault x) s = .next { s with dev := s.dev.converterFault (s.dev.scaled x) } :=
  service_next s (fun d => d.converterFault (d.scaled x)) hrun
theorem exec_handoverComplete : exec (.handoverComplete x) s = .next { s with dev := s.dev.handoverDone (s.dev.scaled x) } :=
  service_next s (fun d => d.handoverDone (d.scaled x)) hrun
theorem exec_sourceQualified : exec (.sourceQualified x) s = .next { s with dev := s.dev.sourceQualified (s.dev.scaled x) } :=
  service_next s (fun d => d.sourceQualified (d.scaled x)) hrun
theorem exec_returnComplete : exec (.returnComplete x) s = .next { s with dev := s.dev.returnDone (s.dev.scaled x) } :=
  service_next s (fun d => d.returnDone (d.scaled x)) hrun
theorem exec_packEmpty : exec (.packEmpty x) s = .next { s with dev := s.dev.packEmpty (s.dev.scaled x) } := service_next s (fun d => d.packEmpty (d.scaled x)) hrun

omit x in
theorem exec_handoverTimeout : exec .handoverTimeout s = .next { s with dev := s.dev.handoverTimeout } := service_next s (fun d => d.handoverTimeout) hrun
omit x in
theorem exec_packRemoval (how : Removal) : exec (.packRemoval how) s = .next { s with dev := s.dev.packRemoval how } := service_next s (fun d => d.packRemoval how) hrun
omit x in
theorem exec_hupEnableDeferred : exec .hupEnableDeferred s = .next { s with dev := s.dev.enableDeferred } := service_next s (fun d => d.enableDeferred) hrun

omit x in
theorem enableDeferred_clause : (s.dev.hup.enHeld = false → exec .hupEnableDeferred s = .next s) ∧
    (s.dev.hup.enHeld = true → ∃ t, exec .hupEnableDeferred s = .next t ∧
      (s.dev.hup.st = .handover ∨ s.dev.hup.st = .batt ∨ s.dev.hup.st = .returning ∨ s.dev.hup.st = .empty → t = s) ∧
      (s.dev.hup.st = .inhibit → t.dev.hup = { s.dev.hup with en := false, enHeld := false, convAck := true }) ∧
      (s.dev.hup.st = .standby ∨ s.dev.hup.st = .nopack →
        ∃ x : Device, PathMoves x t.dev .inhibit 0x1A ∧ x.hup = { s.dev.hup with en := false, enHeld := false, convAck := true })) := by
  refine ⟨fun h => (exec_hupEnableDeferred hrun).trans (next_of s (enableDeferred_waits (by rw [h, Bool.false_and]; decide))),
    fun h => ⟨_, exec_hupEnableDeferred hrun, fun hst => ?_, fun hst => enableDeferred_inhibit h hst, fun hst => enableDeferred_inhibits h hst⟩⟩
  rw [enableDeferred_waits (by rw [h]; obtain hst | hst | hst | hst := hst <;> rw [hst] <;> decide)]
end

/-- Settles O41: each event of the path moves it from its own state, and ENABLE acts by the state. -/
theorem powerPathCommandsComplete : Obligations.PowerPathCommandsComplete := by
  unfold Obligations.PowerPathCommandsComplete
  refine ⟨fun s x hrun => ⟨?share, ?detect, ?qualified, ⟨?nopack, ?standby, ?charge⟩, ?converter, ?done, ?late, ?source, ?returned, ?empty, ?removal⟩,
    fun s => ⟨fun src on ht => ⟨_, exec_hupEnableWrite src on s, hupEnableWrite_effect s.fuses ht⟩, fun hrun => enableDeferred_clause hrun⟩⟩
  case share => exact fun hst hi => ⟨_, exec_shareEnd hrun x, shareEnd_moves hst hi⟩
  case detect => exact fun low hst => ⟨_, exec_powerPathDetectEnd hrun x low, detectEnd_moves low hst⟩
  case qualified =>
    intro e hq hi
    obtain ⟨hnopack, hinhibit⟩ := packQual_moves hq hi
    exact ⟨fun hst => ⟨_, exec_packQualified hrun x, hnopack hst⟩, fun hst => ⟨_, exec_packQualified hrun x, hinhibit hst⟩⟩
  case nopack => exact fun hst hc => ⟨_, exec_powerPathInhibit hrun x, pathInhibit_nopack hst hc⟩
  case standby => exact fun hst hc => ⟨_, exec_powerPathInhibit hrun x, pathInhibit_standby hst hc⟩
  case charge => exact fun hst hc => ⟨_, exec_powerPathInhibit hrun x, pathInhibit_charge hst hc⟩
  case converter =>
    intro hst hi hv
    obtain ⟨e, heffect⟩ := converterFault_moves hst hi hv
    exact ⟨_, e, exec_converterFault hrun x, heffect⟩
  case done => exact fun hst hi => ⟨_, exec_handoverComplete hrun x, handoverDone_moves hst hi⟩
  case late =>
    intro hst
    obtain ⟨e, heffect⟩ := handoverTimeout_moves hst
    exact ⟨_, e, exec_handoverTimeout hrun, heffect⟩
  case source => exact fun hst hw hq ht => ⟨_, exec_sourceQualified hrun x, sourceQualified_moves hst hw hq ht⟩
  case returned => exact fun hst => ⟨_, exec_returnComplete hrun x, returnDone_moves hst⟩
  case empty => exact fun hst hc => ⟨_, exec_packEmpty hrun x, packEmpty_moves hst hc⟩
  case removal =>
    intro how h
    obtain ⟨e, heffect⟩ := packRemoval_moves h
    exact ⟨_, e, exec_packRemoval hrun how, heffect⟩

end Sys2Proof.Machine
end

section
/-! SUPPORT. What the source does to the hold-up path: its class, the input limit, a sag and the reserve. -/

set_option maxRecDepth 4000
namespace Sys2Proof.Machine
open Sys2Proof

/-! ## The class of the source (R404, R405) -/

section
variable {d : Device} {mv : Vector Nat 4}

theorem adoptClass_one {b : Nat} (h : ∀ v, v ∈ mv.toList → srcBand v = b) :
    (d.adoptClass mv).hup = { d.hup with cls := b } ∧ (d.adoptClass mv).chg = d.chg ∧ (b = 0 → bit ((d.adoptClass mv).head (pg hupPage)).err 11 = true) := by
  have h0 : srcBand mv[0] = b := h _ (by simp)
  have hall : (mv.toList.all fun v => srcBand v == srcBand mv[0]) = true := List.all_eq_true.2 fun v hv => beq_iff_eq.2 ((h v hv).trans h0.symm)
  unfold Device.adoptClass
  dsimp only
  rw [hall, if_pos rfl, h0]
  by_cases hb : b = 0
  · rw [if_pos hb]
    exact ⟨rfl, rfl, fun _ => setErr_bit _ _ _ (by decide)⟩
  · rw [if_neg hb]
    exact ⟨rfl, rfl, fun h => absurd h hb⟩

theorem adoptClass_none {v : Nat} (hv : v ∈ mv.toList) (h : srcBand v ≠ srcBand mv[0]) : d.adoptClass mv = d := by
  refine if_neg fun hall => h ?_
  exact beq_iff_eq.1 (List.all_eq_true.1 hall v hv)
end

/-! ## The input limit (R406, R407, R408) -/

/-- The charge current that the excess of the input current leaves (R407). -/
def Device.cutTo (h : Device) (m : HupMeas) : Nat :=
  (max 0 ((h.iApplied : Int) - ratOpen (ratDiv (((m.isrc - (h.iLim * 16 : Nat) : Int) : Rat) / 2 * (m.vbus : Rat)) (m.vpack : Rat)))).toNat

theorem throttleStep_off {d : Device} {m : HupMeas} (h1 : d.hup.st ≠ .standby) (h2 : d.hup.st ≠ .charge) : d.throttleStep m = (d.setMeas m).hotCheck := by
  have hst : ((d.setMeas m).hotCheck).hup.st = d.hup.st := (hotCheck_keeps _).1
  refine if_neg ?_
  rw [hst, beq_eq_false_iff_ne.2 h1, beq_eq_false_iff_ne.2 h2]
  decide

/-- The start of a share of the load, from a device whose charge is already cut to 0. -/
theorem shareEnter_cases (e : Device) : (e.reserveNow = false → e.packCool = true → PathMoves (e.chgDrain 0x02) e.shareEnter .share 0x18) ∧
    (e.reserveNow = true ∨ e.packCool = false → e.shareEnter = e) := by
  unfold Device.shareEnter
  refine ⟨fun hr hp => ?_, fun h => if_neg ?_⟩
  · rw [if_pos (by rw [hr, hp]; rfl)]
    exact hupTo_moves _ _ _ _
  · obtain h | h := h <;> rw [h]
    · rw [Bool.not_true, Bool.false_and]
      decide
    · rw [Bool.and_false]
      decide

theorem throttleStep_effect {d : Device} {m : HupMeas} (hst : d.hup.st = .standby ∨ d.hup.st = .charge) :
    let h := (d.setMeas m).hotCheck
    let t := d.throttleStep m
    (h.overLimit = false → t.hup = h.hup ∧ t.chg = { d.chg with throttle := none }) ∧
      (h.overLimit = true → h.iApplied ≠ 0 → t.hup = h.hup ∧ t.chg = { d.chg with throttle := some (h.cutTo m) }) ∧
      (h.overLimit = true → h.iApplied = 0 → h.reserveNow = false → h.packCool = true →
        ∃ e : Device, PathMoves (e.chgDrain 0x02) t .share 0x18 ∧ e.hup = h.hup ∧ e.chg = { d.chg with throttle := some 0 }) ∧
      (h.overLimit = true → h.iApplied = 0 → h.reserveNow = true ∨ h.packCool = false → t.hup = h.hup ∧ t.chg = { d.chg with throttle := some 0 }) := by
  have heq := throttleStep_on d m hst
  have hchg : ((d.setMeas m).hotCheck).chg = d.chg := (hotCheck_keeps _).2.1
  dsimp only at heq ⊢
  rw [heq]
  clear heq
  generalize (d.setMeas m).hotCheck = h at hchg
  obtain ⟨hshares, hnot⟩ := shareEnter_cases (h.updChg fun c => { c with throttle := some 0 })
  refine ⟨fun ho => ?_, fun ho hi => ?_, fun ho hi hr hp => ?_, fun ho hi hrp => ?_⟩
  · rw [if_neg (by rw [ho]; decide), ← hchg]
    exact ⟨rfl, rfl⟩
  · rw [if_pos ho, if_neg hi, ← hchg]
    exact ⟨rfl, rfl⟩
  · rw [if_pos ho, if_pos hi, ← hchg]
    exact ⟨_, hshares hr hp, rfl, rfl⟩
  · rw [if_pos ho, if_pos hi, hnot hrp, ← hchg]
    exact ⟨rfl, rfl⟩

/-- The states from which the path may relieve a source past its limit (R408). -/
def Device.mayShare (d : Device) : Prop := (d.hup.st = .standby ∨ d.hup.st = .charge ∨ d.hup.st = .share) ∧ d.reserveNow = false ∧ d.packCool = true

theorem mayShare_iff (d : Device) : ((d.hup.st == .standby || d.hup.st == .charge || d.hup.st == .share) && !d.reserveNow && d.packCool) = true ↔ d.mayShare := by
  unfold Device.mayShare
  rw [Bool.and_eq_true, Bool.and_eq_true, Bool.or_eq_true, Bool.or_eq_true, beq_iff_eq, beq_iff_eq, beq_iff_eq, Bool.not_eq_true', or_assoc, and_assoc]

theorem srcOverload_effect (d : Device) (m : HupMeas) : let e := d.setMeas m
    let t := d.srcOverload m
    (e.overLimit = true → ¬ e.mayShare → t.hup = e.hup ∧ t.chg = d.chg ∧ bit (t.head (pg hupPage)).err 12 = true) ∧
      (e.overLimit = false ∨ e.mayShare → t = e) := by
  unfold Device.srcOverload
  dsimp only
  refine ⟨fun ho hn => ?_, fun h => if_neg ?_⟩
  · rw [← mayShare_iff, Bool.not_eq_true] at hn
    rw [ho, hn, if_pos (by decide)]
    exact ⟨rfl, rfl, setErr_bit _ _ _ (by decide)⟩
  · obtain h | h := h
    · rw [h, Bool.false_and]
      decide
    · rw [(mayShare_iff _).2 h, Bool.not_true, Bool.and_false]
      decide

/-! ## A sag (R404, R411, R414, R415) -/

section
variable {d : Device} {m : HupMeas} {low : Nat}

theorem sagSeen_iff : d.sagSeen m low = true ↔ m.vbus < bits (d.hreg 0x050) 25 16 * 10 ∧ max 1 (bits (d.hreg 0x040) 31 24) ≤ low := by
  unfold Device.sagSeen
  rw [Bool.and_eq_true, decide_eq_true_iff, decide_eq_true_iff]

theorem sagDetect_hands (iL0 : Int) (h : d.sagSeen m low = true) (hs : d.hup.st.sagState = true) : let t := d.sagDetect m iL0 low
    t.hup.st = .handover ∧ t.hup.prev = d.hup.st ∧ t.hup.legs = .startPulse ∧ t.hup.tStart ≤ 1800 ∧ t.hup.sag = true ∧ t.hup.meas = m ∧
      (d.chg.st.charging = true ∨ d.chg.st = .draining → t.chg.st = .suspend) := by
  have heq := sagDetect_seen d m iL0 low h
  dsimp only at heq ⊢
  rw [heq, if_pos hs]
  obtain ⟨hst, hprev, hlegs, -, -, -, hmeas, -, hsag, -, hstart, hchg, -⟩ :=
    handover_moves ((d.setMeas m).updHup fun h => { h with sag := true, sagNoho := h.sagNoho || h.st.noHandover }) iL0
  exact ⟨hst, hprev, hlegs, hstart, hsag, hmeas, hchg⟩

theorem sagDetect_records (iL0 : Int) (h : d.sagSeen m low = true) (hs : d.hup.st.sagState = false) :
    (d.sagDetect m iL0 low).hup = { (d.setMeas m).hup with sag := true, sagNoho := d.hup.sagNoho || d.hup.st.noHandover } ∧ (d.sagDetect m iL0 low).chg = d.chg := by
  have heq := sagDetect_seen d m iL0 low h
  dsimp only at heq
  rw [heq, if_neg (by rw [hs]; decide)]
  exact ⟨rfl, rfl⟩

theorem sagDetect_none (iL0 : Int) (h : ¬ d.sagSeen m low = true) : d.sagDetect m iL0 low = d := if_neg h

theorem sagNoHandover_records (h : d.sagSeen m low = true) (hs : d.hup.st = .nopack ∨ d.hup.st = .inhibit ∨ d.hup.st = .empty ∨ d.hup.st = .detect) :
    (d.sagNoHandover m low).hup = { (d.setMeas m).hup with sag := true, sagNoho := true } ∧ (d.sagNoHandover m low).chg = d.chg := by
  have heq : d.sagNoHandover m low = (d.setMeas m).updHup fun h => { h with sag := true, sagNoho := true } := by
    refine if_pos ?_
    rw [h]
    obtain hs | hs | hs | hs := hs <;> rw [hs] <;> rfl
  rw [heq]
  exact ⟨rfl, rfl⟩

theorem sagNoHandover_none (h : ¬ d.sagSeen m low = true) : d.sagNoHandover m low = d := if_neg fun hc => h (Bool.and_eq_true _ _ ▸ hc).1

theorem pulseEnd_holds (hst : d.hup.st = .handover) (hl : d.hup.legs = .startPulse) : d.pulseEnd = d.updHup fun h => { h with legs := .holding } :=
  if_pos (by rw [hst, hl]; rfl)

theorem pulseEnd_none (h : d.hup.st ≠ .handover ∨ d.hup.legs ≠ .startPulse) : d.pulseEnd = d := by
  refine if_neg fun hc => ?_
  rw [Bool.and_eq_true, beq_iff_eq, beq_iff_eq] at hc
  obtain ⟨hst, hl⟩ := hc
  obtain h | h := h
  · exact h hst
  · exact h hl
end

/-! ## The statement -/

section
variable {s : State} (hrun : s.dev.hupRuns = true) (x : HupPins)
include hrun

omit x in
theorem exec_srcClassAdopt (mv : Vector Nat 4) : exec (.srcClassAdopt mv) s = .next { s with dev := s.dev.adoptClass mv } := service_next s (fun d => d.adoptClass mv) hrun

theorem exec_inputLimitThrottle : exec (.inputLimitThrottle x) s = .next { s with dev := s.dev.throttleStep (s.dev.scaled x) } :=
  service_next s (fun d => d.throttleStep (d.scaled x)) hrun

theorem exec_sourceOverloadTimeout : exec (.sourceOverloadTimeout x) s = .next { s with dev := s.dev.srcOverload (s.dev.scaled x) } :=
  service_next s (fun d => d.srcOverload (d.scaled x)) hrun

theorem exec_sagDetect (low : Nat) (iL0 : Int) : exec (.sagDetect ⟨x, low⟩ iL0) s = .next { s with dev := s.dev.sagDetect (s.dev.scaled x) iL0 low } :=
  service_next s (fun d => d.sagDetect (d.scaled x) iL0 low) hrun

theorem exec_sagNoHandover (low : Nat) : exec (.sagNoHandover ⟨x, low⟩) s = .next { s with dev := s.dev.sagNoHandover (s.dev.scaled x) low } :=
  service_next s (fun d => d.sagNoHandover (d.scaled x) low) hrun

omit x in
theorem exec_startPulseEnd : exec .startPulseEnd s = .next { s with dev := s.dev.pulseEnd } := service_next s (fun d => d.pulseEnd) hrun

theorem exec_reserveLow : exec (.reserveLow x) s = .next { s with dev := (s.dev.setMeas (s.dev.scaled x)).rsvSync } :=
  service_next s (fun d => (d.setMeas (d.scaled x)).rsvSync) hrun
end

/-- Settles O42: what the source shows acts on the path by its state, and is otherwise only recorded. -/
theorem sourceEventsComplete : Obligations.SourceEventsComplete := by
  unfold Obligations.SourceEventsComplete
  refine fun s x hrun => ⟨?adopt, ?limit, ?overload, fun low => ⟨?sag, ?noHandover⟩, ?pulse, ?reserve⟩
  case adopt =>
    refine fun mv => ⟨_, exec_srcClassAdopt hrun mv, fun b h => adoptClass_one h, fun v hv h => ?_⟩
    rw [adoptClass_none hv h]
  case limit =>
    refine ⟨_, exec_inputLimitThrottle hrun x, fun h1 h2 => ?_, fun hst => throttleStep_effect hst⟩
    rw [throttleStep_off h1 h2]
  case overload =>
    obtain ⟨herr, hok⟩ := srcOverload_effect s.dev (s.dev.scaled x)
    refine ⟨_, exec_sourceOverloadTimeout hrun x, herr, fun h => ?_⟩
    rw [hok h]
  case sag =>
    refine fun iL0 => ⟨_, exec_sagDetect hrun x low iL0, fun h hs => sagDetect_hands iL0 (sagSeen_iff.2 h) hs, fun h hs => sagDetect_records iL0 (sagSeen_iff.2 h) hs, fun h => ?_⟩
    rw [sagDetect_none iL0 (fun hc => h (sagSeen_iff.1 hc))]
  case noHandover =>
    refine ⟨_, exec_sagNoHandover hrun x low, fun h hs => sagNoHandover_records (sagSeen_iff.2 h) hs, fun h => ?_⟩
    rw [sagNoHandover_none (fun hc => h (sagSeen_iff.1 hc))]
  case pulse =>
    refine ⟨_, exec_startPulseEnd hrun, fun hst hl => ?_, fun h => ?_⟩
    · rw [pulseEnd_holds hst hl]
      exact ⟨rfl, rfl⟩
    · rw [pulseEnd_none h]
  case reserve =>
    obtain ⟨hhup, hchg, -, -⟩ := rsvSync_hup (s.dev.setMeas (s.dev.scaled x))
    exact ⟨_, exec_reserveLow hrun x, hhup, hchg⟩

end Sys2Proof.Machine
end

section
/-! SUPPORT. The charger: its command, its watchdog, its temperature band and the events that move it. -/

set_option maxRecDepth 4000
namespace Sys2Proof.Machine
open Sys2Proof

/-! ## The command and its watchdog (R428, R429) -/

/-- The fields of the stored command are the bytes that its limits leave. -/
theorem chargeWord_fields (w : Word) {i v : Nat} (hi : i < 256) (hv : v < 256) :
    bits (setBits (setBits w 23 16 i) 7 0 v &&& 0x00FF00FF) 23 16 = i ∧ bits (setBits (setBits w 23 16 i) 7 0 v &&& 0x00FF00FF) 7 0 = v := by
  rw [bits_and, bits_and, bits_setBits_other _ _ _ _ _ _ (by decide), bits_setBits _ _ _ _ (by decide), bits_setBits _ _ _ _ (by decide)]
  rw [Nat.mod_eq_of_lt (by omega), Nat.mod_eq_of_lt (by omega)]
  exact ⟨and_byte i hi, and_byte v hv⟩

theorem chargeCommand_effect {s : State} {src : Source} {be : BitVec 4} {data : Word} (hbe : alignedBe be = true) (hc : s.dev.canonical = true)
    (ht : s.dev.takes src 0x041048 (byteMask be) data = true) :
    let w := mergeWord (s.dev.reg 0x041048) data (byteMask be)
    let e := s.dev.busWrite s.fuses src 0x041048 be data {}
    e.chg = { s.dev.chg with fallback := false, safe := false } ∧ e.hup = s.dev.hup ∧ bits (e.reg 0x041048) 23 16 = min 160 (bits w 23 16) ∧
      bits (e.reg 0x041048) 7 0 = min 140 (bits w 7 0) ∧ ∀ a, a ≠ 0x041048 → e.reg a = s.dev.reg a := by
  obtain ⟨hhup, hchg⟩ := arrive_hup s.dev src 0x041048
  dsimp only
  rw [hup_write s src be data hbe ht]
  generalize mergeWord _ _ _ = w
  obtain ⟨hi, hv⟩ := chargeWord_fields w (i := min 160 (bits w 23 16)) (v := min 140 (bits w 7 0)) (by omega) (by omega)
  have hreg := Device.reg_setReg (s.dev.arrive src 0x041048) 0x041048
    (setBits (setBits w 23 16 (min 160 (bits w 23 16))) 7 0 (min 140 (bits w 7 0)) &&& 0x00FF00FF) (arrive_canon _ _ _ hc)
  refine ⟨?_, hhup, (congrArg (bits · 23 16) hreg).trans hi, (congrArg (bits · 7 0) hreg).trans hv, fun a ha => ?_⟩
  · rw [← hchg]
    rfl
  · exact (Device.reg_setReg_other _ _ _ ha).trans (Device.arrive_reg _ _ _ _)

theorem chgFallback_none {d : Device} (h : d.chg.fallback = true ∨ d.chg.safe = true) : d.chgFallback = d :=
  if_pos (by rw [Bool.or_eq_true]; exact h)

theorem chgFallback_starts {d : Device} (hf : d.chg.fallback = false) (hs : d.chg.safe = false) :
    d.chgFallback.chg = { d.chg with fallback := true } ∧ d.chgFallback.hup = d.hup ∧ bit (d.chgFallback.head (pg chgPage)).err 10 = true := by
  have heq : ∃ w, d.chgFallback = ((d.updChg fun c => { c with fallback := true }).setErr chgPage (errBit 10)).raise 45 w :=
    ⟨_, if_neg (by rw [hf, hs]; decide)⟩
  obtain ⟨w, heq⟩ := heq
  rw [heq]
  exact ⟨keeps_chg (d := (d.updChg fun c => { c with fallback := true }).setErr chgPage (errBit 10)) (by simp),
    keeps_hup (d := (d.updChg fun c => { c with fallback := true }).setErr chgPage (errBit 10)) (by simp),
    by rw [raise_heads _ _ _ _ (by decide)]; exact setErr_bit _ _ _ (by decide)⟩

/-! ## The temperature band (R426, R427) -/

/-- The band that a temperature leads to, with 1 °C of hysteresis. -/
def Device.bandNext (d : Device) (v : Int) : Nat :=
  if d.chg.band < d.bandOf v then (if sbits (d.bandWord (d.chg.band + 1)) 31 24 * 16 + 16 ≤ v then d.bandOf v else d.chg.band)
  else if d.bandOf v < d.chg.band then (if v ≤ sbits (d.bandWord d.chg.band) 31 24 * 16 - 16 then d.bandOf v else d.chg.band)
  else d.chg.band

theorem bandChange_eq {d : Device} {v : Int} (h : d.bandTemp = some v) :
    let e := d.updChg fun c => { c with band := d.bandNext v }
    d.bandChange = if d.bandNext v = d.chg.band then e else if bits (d.bandWord (d.bandNext v)) 23 16 = 0 then e.chgDrain 0x25 else e := by
  unfold Device.bandChange
  rw [h]
  rfl

theorem chgDrain_band (d : Device) (cause : Nat) : (d.chgDrain cause).chg.band = d.chg.band := by
  unfold Device.chgDrain
  split
  · rw [(chgTo_chg _ _ _ _).1]
    split <;> rfl
  · rfl

theorem bandChange_next {d : Device} {v : Int} (h : d.bandTemp = some v) : let t := d.bandChange
    t.hup = d.hup ∧ t.chg.band = d.bandNext v ∧ (d.bandNext v = d.chg.band → t.chg = d.chg) ∧
      (d.bandNext v ≠ d.chg.band → bits (d.bandWord (d.bandNext v)) 23 16 = 0 → d.chg.st.charging = true → t.chg.st = .draining) := by
  have heq := bandChange_eq h
  dsimp only at heq ⊢
  rw [heq]
  clear heq
  generalize d.bandNext v = n
  obtain ⟨hhup, -, hdrains, -⟩ := chgDrain_keeps (d.updChg fun c => { c with band := n }) 0x25
  by_cases hn : n = d.chg.band
  · subst hn
    rw [if_pos rfl]
    exact ⟨rfl, rfl, fun _ => rfl, fun h => absurd rfl h⟩
  · rw [if_neg hn]
    by_cases h0 : bits (d.bandWord n) 23 16 = 0
    · rw [if_pos h0]
      exact ⟨hhup, chgDrain_band _ _, fun h => absurd h hn, fun _ _ hcharge => hdrains hcharge⟩
    · rw [if_neg h0]
      exact ⟨rfl, rfl, fun h => absurd h hn, fun _ h => absurd h h0⟩

section
variable {d : Device} {v : Int}

theorem bandNext_same (h : d.bandOf v = d.chg.band) : d.bandNext v = d.chg.band := by
  unfold Device.bandNext
  rw [h, if_neg (Nat.lt_irrefl _), if_neg (Nat.lt_irrefl _)]

theorem bandNext_up (h : d.chg.band < d.bandOf v) (hv : sbits (d.bandWord (d.chg.band + 1)) 31 24 * 16 + 16 ≤ v) : d.bandNext v = d.bandOf v :=
  (if_pos h).trans (if_pos hv)

theorem bandNext_notUp (h : d.chg.band < d.bandOf v) (hv : v < sbits (d.bandWord (d.chg.band + 1)) 31 24 * 16 + 16) : d.bandNext v = d.chg.band :=
  (if_pos h).trans (if_neg (by omega))

theorem bandNext_down (h : d.bandOf v < d.chg.band) (hv : v ≤ sbits (d.bandWord d.chg.band) 31 24 * 16 - 16) : d.bandNext v = d.bandOf v :=
  (if_neg (by omega)).trans ((if_pos h).trans (if_pos hv))

theorem bandNext_notDown (h : d.bandOf v < d.chg.band) (hv : sbits (d.bandWord d.chg.band) 31 24 * 16 - 16 < v) : d.bandNext v = d.chg.band :=
  (if_neg (by omega)).trans ((if_pos h).trans (if_neg (by omega)))
end

theorem bandChange_effect {d : Device} {v : Int} (h : d.bandTemp = some v) : let t := d.bandChange
    t.hup = d.hup ∧ (d.bandOf v = d.chg.band → t.chg = d.chg) ∧
      (d.chg.band < d.bandOf v → sbits (d.bandWord (d.chg.band + 1)) 31 24 * 16 + 16 ≤ v → t.chg.band = d.bandOf v) ∧
      (d.chg.band < d.bandOf v → v < sbits (d.bandWord (d.chg.band + 1)) 31 24 * 16 + 16 → t.chg = d.chg) ∧
      (d.bandOf v < d.chg.band → v ≤ sbits (d.bandWord d.chg.band) 31 24 * 16 - 16 → t.chg.band = d.bandOf v) ∧
      (d.bandOf v < d.chg.band → sbits (d.bandWord d.chg.band) 31 24 * 16 - 16 < v → t.chg = d.chg) ∧
      (t.chg.band ≠ d.chg.band → bits (d.bandWord t.chg.band) 23 16 = 0 → d.chg.st.charging = true → t.chg.st = .draining) := by
  obtain ⟨hhup, hband, hsame, hdrain⟩ := bandChange_next h
  dsimp only
  exact ⟨hhup, fun h => hsame (bandNext_same h), fun h hv => hband.trans (bandNext_up h hv), fun h hv => hsame (bandNext_notUp h hv),
    fun h hv => hband.trans (bandNext_down h hv), fun h hv => hsame (bandNext_notDown h hv), fun hne h0 => hdrain (by rw [← hband]; exact hne) (by rw [← hband]; exact h0)⟩

theorem exec_chargerCommandWrite (src : Source) (be : BitVec 4) (data : Word) (s : State) : exec (.chargerCommandWrite src be data) s =
    .next { s with dev := s.dev.busWrite s.fuses src 0x041048 be data {} } := rfl

section
variable {s : State} (hrun : s.dev.hupRuns = true)
include hrun

theorem exec_chargerWatchdogExpiry : exec .chargerWatchdogExpiry s = .next { s with dev := s.dev.chgFallback } := service_next s (fun d => d.chgFallback) hrun

theorem exec_chargeBandChange : exec .chargeBandChange s = .next { s with dev := s.dev.bandChange } := service_next s (fun d => d.bandChange) hrun
end

theorem bandChange_none {d : Device} (h : d.bandTemp = none) : d.bandChange = d := by
  unfold Device.bandChange
  rw [h]

/-- Settles O43: the command, the watchdog and the band each act on the charger alone. -/
theorem chargeCommandAndBandComplete : Obligations.ChargeCommandAndBandComplete := by
  unfold Obligations.ChargeCommandAndBandComplete
  exact fun s => ⟨fun src be data hbe hc ht => ⟨_, exec_chargerCommandWrite src be data s, chargeCommand_effect hbe hc ht⟩,
    fun hrun => ⟨fun h => (exec_chargerWatchdogExpiry hrun).trans (next_of s (chgFallback_none h)),
      fun hf hs => ⟨_, exec_chargerWatchdogExpiry hrun, chgFallback_starts hf hs⟩,
      fun h => (exec_chargeBandChange hrun).trans (next_of s (bandChange_none h)), fun v h => ⟨_, exec_chargeBandChange hrun, bandChange_effect h⟩⟩⟩

/-! ## The events that move the charger (R430, R431, R452) -/

/-- The state of the charger that a qualification leads to, and its cause. -/
def Device.qualTo (y : Device) (m : HupMeas) : ChgState :=
  if y.suspCause != 0 then .suspend else if m.vpack < y.packAt (bits (y.creg 0x044) 7 0) then .prechg else if y.chgFull then .done else .cc

section
variable {d : Device} {m : HupMeas}

theorem setMeas_chg : (d.setMeas m).chg = d.chg := (setMeas_keeps d m).2.1

/-- The qualification itself, from a device whose charger is in QUAL. -/
theorem qual_follows {y : Device} (hy : y.chg.st = .qual) :
    ∃ e : Device, (y.chgTo (y.qualTo m) (if y.qualTo m = .suspend then 0x02 else 0x20)).pathFollow = e.pathFollow ∧ e.hup = y.hup ∧
      (y.suspCause ≠ 0 → ChargerMoves y e .suspend 0x02) ∧
      (y.suspCause = 0 → m.vpack < y.packAt (bits (y.creg 0x044) 7 0) → ChargerMoves y e .prechg 0x20) ∧
      (y.suspCause = 0 → y.packAt (bits (y.creg 0x044) 7 0) ≤ m.vpack → y.chgFull = true → ChargerMoves y e .done 0x20) ∧
      (y.suspCause = 0 → y.packAt (bits (y.creg 0x044) 7 0) ≤ m.vpack → y.chgFull = false → ChargerMoves y e .cc 0x20) := by
  refine ⟨_, rfl, chgTo_hup _ _ _ _, fun hs => ?_, fun hs hv => ?_, fun hs hv hf => ?_, fun hs hv hf => ?_⟩
  · have h : y.qualTo m = .suspend := if_pos (bne_iff_ne.2 hs)
    rw [h, if_pos rfl]
    exact (chg_moves y .suspend 0x02 byHw (by rw [hy]; decide)).1
  · have h : y.qualTo m = .prechg := (if_neg (by rw [hs]; decide)).trans (if_pos hv)
    rw [h, if_neg (by decide)]
    exact (chg_moves y .prechg 0x20 byHw (by rw [hy]; decide)).1
  · have h : y.qualTo m = .done := (if_neg (by rw [hs]; decide)).trans ((if_neg (Nat.not_lt.2 hv)).trans (if_pos hf))
    rw [h, if_neg (by decide)]
    exact (chg_moves y .done 0x20 byHw (by rw [hy]; decide)).1
  · have h : y.qualTo m = .cc := (if_neg (by rw [hs]; decide)).trans ((if_neg (Nat.not_lt.2 hv)).trans (if_neg (by rw [hf]; decide)))
    rw [h, if_neg (by decide)]
    exact (chg_moves y .cc 0x20 byHw (by rw [hy]; decide)).1

/-- The charger that the qualification finds: in QUAL already, or moved there from OFF. -/
theorem chgQual_eq (h : d.chg.st = .qual ∨ (d.chg.st = .off ∧ d.chgEnabled = true ∧ d.hup.st = .standby)) :
    ∃ y : Device, (d.chg.st = .qual → y = d.setMeas m) ∧ (d.chg.st = .off → ChargerMoves (d.setMeas m) y .qual 0x02) ∧ y.hup = (d.setMeas m).hup ∧ y.chg.st = .qual ∧
      d.chgQual m = (y.chgTo (y.qualTo m) (if y.qualTo m = .suspend then 0x02 else 0x20)).pathFollow := by
  obtain h | ⟨hst, hen, hhup⟩ := h
  · have hoff : ¬ ((d.setMeas m).chg.st == .off && (d.setMeas m).chgEnabled && (d.setMeas m).hup.st == .standby) = true := by
      rw [setMeas_chg, h]
      exact Bool.false_ne_true
    refine ⟨d.setMeas m, fun _ => rfl, fun ho => absurd (h.symm.trans ho) (by decide), rfl, h, ?_⟩
    unfold Device.chgQual
    dsimp only
    rw [if_neg hoff, if_pos (by rw [setMeas_chg, h]; rfl)]
    rfl
  · have hon : ((d.setMeas m).chg.st == .off && (d.setMeas m).chgEnabled && (d.setMeas m).hup.st == .standby) = true := by
      rw [setMeas_chg, hst, show (d.setMeas m).chgEnabled = d.chgEnabled from rfl, hen, (setMeas_keeps d m).1, hhup]
      rfl
    obtain ⟨hmove, hkept, -⟩ := chg_moves (d.setMeas m) .qual 0x02 byHw (by rw [setMeas_chg, hst]; decide)
    refine ⟨(d.setMeas m).chgTo .qual 0x02, fun hq => absurd (hst.symm.trans hq) (by decide), fun _ => hmove, hkept, hmove.1, ?_⟩
    unfold Device.chgQual
    dsimp only
    rw [if_pos hon, if_pos (by rw [hmove.1]; rfl)]
    rfl

theorem prechgDone_moves (hst : d.chg.st = .prechg) (hv : (d.setMeas m).packAt (bits ((d.setMeas m).creg 0x044) 7 0) ≤ m.vpack) :
    ChargerMoves (d.setMeas m) (d.prechgDone m) .cc 0x21 ∧ (d.prechgDone m).hup = (d.setMeas m).hup := by
  have heq : d.prechgDone m = (d.setMeas m).chgTo .cc 0x21 := if_pos (by rw [setMeas_chg, hst, decide_eq_true hv]; rfl)
  obtain ⟨hmove, hhup, -⟩ := chg_moves (d.setMeas m) .cc 0x21 byHw (by rw [setMeas_chg, hst]; decide)
  rw [heq]
  exact ⟨hmove, hhup⟩

theorem cvReached_moves (hst : d.chg.st = .cc) (hv : (d.setMeas m).packCv (d.setMeas m).vApplied ≤ 2 * m.vpack) :
    ChargerMoves (d.setMeas m) (d.cvReached m) .cv 0x22 ∧ (d.cvReached m).hup = (d.setMeas m).hup := by
  have heq : d.cvReached m = (d.setMeas m).chgTo .cv 0x22 := if_pos (by rw [setMeas_chg, hst, decide_eq_true hv]; rfl)
  obtain ⟨hmove, hhup, -⟩ := chg_moves (d.setMeas m) .cv 0x22 byHw (by rw [setMeas_chg, hst]; decide)
  rw [heq]
  exact ⟨hmove, hhup⟩

/-- A charge that ends tells the gauge so, where the gauge runs (R452). -/
theorem chgTerminated_moves (hst : d.chg.st = .cv) (hi : m.ibat.natAbs < bits ((d.setMeas m).creg 0x040) 15 8 * 2) : let t := d.chgTerminated m
    ∃ e g : Device, ChargerMoves (d.setMeas m) e .done 0x23 ∧ e.hup = (d.setMeas m).hup ∧ PathFollows e g ∧
      t = { g with gau := { d.gau with fullPoint := t.gau.fullPoint } } ∧
      (d.gau.st = .seeking ∨ d.gau.st = .counting ∨ d.gau.st = .starved → t.gau.fullPoint = true) := by
  obtain ⟨hmove, hhup, hgau⟩ := chg_moves (d.setMeas m) .done 0x23 byHw (by rw [setMeas_chg, hst]; decide)
  have hfollow := pathFollow_follows ((d.setMeas m).chgTo .done 0x23)
  have hg : ((d.setMeas m).chgTo .done 0x23).pathFollow.gau = d.gau := hfollow.2.2.2.trans hgau
  have heq : d.chgTerminated m = (fun g : Device => { g with gau := { g.gau with fullPoint := g.gau.fullPoint || (g.gau.st == .seeking || g.gau.st == .counting || g.gau.st == .starved) } })
      ((d.setMeas m).chgTo .done 0x23).pathFollow := if_pos (by rw [setMeas_chg, hst, decide_eq_true hi]; rfl)
  refine ⟨_, _, hmove, hhup, hfollow, ?_, fun hruns => ?_⟩
  · rw [heq, ← hg]
  · rw [heq]
    dsimp only
    rw [hg]
    obtain h | h | h := hruns <;> rw [h] <;> exact Bool.or_true _

theorem recharge_moves (hst : d.chg.st = .done) (hf : (d.setMeas m).chgFull = false) :
    ChargerMoves (d.setMeas m) (d.recharge m) .qual 0x24 ∧ (d.recharge m).hup = (d.setMeas m).hup := by
  have heq : d.recharge m = (d.setMeas m).chgTo .qual 0x24 := if_pos (by rw [setMeas_chg, hst, hf]; rfl)
  obtain ⟨hmove, hhup, -⟩ := chg_moves (d.setMeas m) .qual 0x24 byHw (by rw [setMeas_chg, hst]; decide)
  rw [heq]
  exact ⟨hmove, hhup⟩

theorem chgFault_moves {cause : Nat} (h : d.chg.st ≠ .fault) : ∃ e : Device, ChargerMoves d e .fault cause ∧ e.hup = d.hup ∧ bit (e.head (pg chgPage)).err 9 = true ∧
    PathFollows e (d.chgFault cause) := by
  obtain ⟨e, heq, hmove, hhup, herr⟩ := chgFault_eq d cause h
  rw [heq]
  exact ⟨e, hmove, hhup, herr, pathFollow_follows e⟩

theorem chgOv_eq (hst : d.chg.st.charging = true) (hv : (d.setMeas m).packCv ((d.setMeas m).vApplied + 10) < 2 * m.vpack) : d.chgOv m = (d.setMeas m).chgFault 0x02 :=
  if_pos (by rw [setMeas_chg, hst, decide_eq_true hv]; rfl)

theorem chgSuspend_effect (hs : (d.setMeas m).suspCause ≠ 0) : (d.chgSuspend m).hup = (d.setMeas m).hup ∧
    (d.chg.st.charging = true → ChargerMoves (d.setMeas m) (d.chgSuspend m) .draining 0x02) ∧
    (d.chg.st = .qual → ChargerMoves (d.setMeas m) (d.chgSuspend m) .suspend 0x02) := by
  have heq : d.chgSuspend m = if d.chg.st.charging then (d.setMeas m).chgTo .draining 0x02
      else if d.chg.st == .qual then (d.setMeas m).chgTo .suspend 0x02 else d.setMeas m := if_neg hs
  rw [heq]
  cases hc : d.chg.st.charging with
  | true =>
    obtain ⟨hmove, hhup, -⟩ := chg_moves (d.setMeas m) .draining 0x02 byHw (by rw [setMeas_chg]; exact (charging_not_fault hc).2)
    refine ⟨hhup, fun _ => hmove, fun hq => ?_⟩
    rw [hq] at hc
    exact absurd hc (by decide)
  | false =>
    rw [if_neg (by decide)]
    by_cases hq : d.chg.st = .qual
    · obtain ⟨hmove, hhup, -⟩ := chg_moves (d.setMeas m) .suspend 0x02 byHw (by rw [setMeas_chg, hq]; decide)
      rw [if_pos (by rw [hq]; rfl)]
      exact ⟨hhup, fun h => absurd h (by decide), fun _ => hmove⟩
    · rw [if_neg (by rw [beq_eq_false_iff_ne.2 hq]; decide)]
      exact ⟨rfl, fun h => absurd h (by decide), fun h => absurd h hq⟩

theorem chgDrained_moves {late : Bool} (hst : d.chg.st = .draining) (hl : late = true ∨ m.ibat.natAbs < 4) :
    ∃ e : Device, ChargerMoves (d.setMeas m) e (if d.chg.latched then .qual else if d.chgEnabled then .suspend else .off) 0x26 ∧ e.chg.latched = false ∧
      e.hup = (d.setMeas m).hup ∧ PathFollows e (d.chgDrained m late) := by
  have heq : d.chgDrained m late = (((d.setMeas m).updChg fun c => { c with latched := false }).chgTo
      (if d.chg.latched then .qual else if d.chgEnabled then .suspend else .off) 0x26).pathFollow := by
    refine if_pos ?_
    rw [setMeas_chg, hst]
    obtain h | h := hl
    · rw [h]
      rfl
    · rw [decide_eq_true h, Bool.or_true]
      rfl
  have hne : ((d.setMeas m).updChg fun c => { c with latched := false }).chg.st ≠ (if d.chg.latched then .qual else if d.chgEnabled then .suspend else .off) := by
    show d.chg.st ≠ _
    rw [hst]
    split
    · decide
    · split <;> decide
  obtain ⟨hmove, hhup, -⟩ := chg_moves _ _ 0x26 byHw hne
  rw [heq]
  refine ⟨_, hmove, ?_, hhup, pathFollow_follows _⟩
  rw [(chgTo_chg _ _ _ _).1, if_neg hne]
  rfl
end

/-- The device that a resume finds: without a throttle where the source is within its limit (R431). -/
def Device.resumeAt (d : Device) : Device := if d.overLimit then d else d.updChg fun c => { c with throttle := none }

theorem resumeAt_keeps (d : Device) : d.resumeAt.hup = d.hup ∧ d.resumeAt.chg.st = d.chg.st ∧ d.resumeAt.chgEnabled = d.chgEnabled := by
  unfold Device.resumeAt
  split <;> exact ⟨rfl, rfl, rfl⟩

theorem chgResume_effect {d : Device} {m : HupMeas} (hs : (d.setMeas m).resumeAt.suspCause = 0) :
    (d.chg.st = .suspend → d.hup.st = .standby → ChargerMoves (d.setMeas m).resumeAt (d.chgResume m) .qual 0x02 ∧ (d.chgResume m).hup = (d.setMeas m).hup) ∧
      (d.chg.st = .draining → d.chgEnabled = true → (d.chgResume m).chg = { (d.setMeas m).resumeAt.chg with latched := true } ∧ (d.chgResume m).hup = (d.setMeas m).hup) := by
  obtain ⟨hhup, hst, hen⟩ := resumeAt_keeps (d.setMeas m)
  have heq : d.chgResume m = (fun d : Device => if d.chg.st == .suspend && d.hup.st == .standby then d.chgTo .qual 0x02
      else if d.chg.st == .draining && d.chgEnabled then d.updChg fun c => { c with latched := true } else d) (d.setMeas m).resumeAt := if_pos hs
  rw [heq]
  dsimp only
  refine ⟨fun hsus hstby => ?_, fun hdrain henabled => ?_⟩
  · obtain ⟨hmove, hkept, -⟩ := chg_moves (d.setMeas m).resumeAt .qual 0x02 byHw (by rw [hst, setMeas_chg, hsus]; decide)
    rw [if_pos (by rw [hst, setMeas_chg, hsus, hhup, (setMeas_keeps d m).1, hstby]; rfl)]
    exact ⟨hmove, hkept.trans hhup⟩
  · rw [if_neg (by rw [hst, setMeas_chg, hdrain]; exact Bool.false_ne_true),
      if_pos (by rw [hst, setMeas_chg, hdrain, hen, show (d.setMeas m).chgEnabled = true from henabled]; rfl)]
    exact ⟨rfl, hhup⟩

section
variable {s : State} (hrun : s.dev.hupRuns = true) (x : HupPins)
include hrun

theorem exec_chargerQual : exec (.chargerQual x) s = .next { s with dev := s.dev.chgQual (s.dev.scaled x) } := service_next s (fun d => d.chgQual (d.scaled x)) hrun
theorem exec_prechargeDone : exec (.prechargeDone x) s = .next { s with dev := s.dev.prechgDone (s.dev.scaled x) } := service_next s (fun d => d.prechgDone (d.scaled x)) hrun
theorem exec_cvReached : exec (.cvReached x) s = .next { s with dev := s.dev.cvReached (s.dev.scaled x) } := service_next s (fun d => d.cvReached (d.scaled x)) hrun
theorem exec_chargeTerminated : exec (.chargeTerminated x) s = .next { s with dev := s.dev.chgTerminated (s.dev.scaled x) } :=
  service_next s (fun d => d.chgTerminated (d.scaled x)) hrun
theorem exec_recharge : exec (.recharge x) s = .next { s with dev := s.dev.recharge (s.dev.scaled x) } := service_next s (fun d => d.recharge (d.scaled x)) hrun
theorem exec_chargerOvFault : exec (.chargerOvFault x) s = .next { s with dev := s.dev.chgOv (s.dev.scaled x) } := service_next s (fun d => d.chgOv (d.scaled x)) hrun
theorem exec_chargerSuspend : exec (.chargerSuspend x) s = .next { s with dev := s.dev.chgSuspend (s.dev.scaled x) } := service_next s (fun d => d.chgSuspend (d.scaled x)) hrun
theorem exec_chargerDrainComplete (late : Bool) : exec (.chargerDrainComplete x late) s = .next { s with dev := s.dev.chgDrained (s.dev.scaled x) late } :=
  service_next s (fun d => d.chgDrained (d.scaled x) late) hrun
theorem exec_chargerResume : exec (.chargerResume x) s = .next { s with dev := s.dev.chgResume (s.dev.scaled x) } := service_next s (fun d => d.chgResume (d.scaled x)) hrun

omit x in
theorem exec_prechargeTimeout (hst : s.dev.chg.st = .prechg) : exec .prechargeTimeout s = .next { s with dev := s.dev.chgFault 0x27 } :=
  (service_next s (fun d => if d.chg.st == .prechg then d.chgFault 0x27 else d) hrun).trans (next_of s (if_pos (by rw [hst]; rfl)))
omit x in
theorem exec_chargeTimeout (hst : s.dev.chg.st.charging = true) : exec .chargeTimeout s = .next { s with dev := s.dev.chgFault 0x27 } :=
  (service_next s (fun d => if d.chg.st.charging then d.chgFault 0x27 else d) hrun).trans (next_of s (if_pos hst))
end

/-- Settles O44: each event moves the charger from its own state, and the path follows. -/
theorem chargerEventsComplete : Obligations.ChargerEventsComplete := by
  unfold Obligations.ChargerEventsComplete
  refine fun s x hrun => ⟨?qual, ?precharged, ?preTime, ?cv, ?terminated, ?recharge, ?time, ?ov, ?suspend, ?drained, ?resume⟩
  case qual =>
    intro h
    obtain ⟨y, hqual, hoff, hyhup, hyst, heq⟩ := chgQual_eq (m := s.dev.scaled x) h
    obtain ⟨e, hfollow, hehup, hsusp, hpre, hdone, hcc⟩ := qual_follows (m := s.dev.scaled x) hyst
    refine ⟨_, y, e, exec_chargerQual hrun x, hqual, hoff, hyhup, hehup.trans hyhup, ?_, hsusp, hpre, hdone, hcc⟩
    dsimp only
    rw [heq, hfollow]
    exact pathFollow_follows e
  case precharged => exact fun hst hv => ⟨_, exec_prechargeDone hrun x, prechgDone_moves hst hv⟩
  case preTime =>
    intro hst
    obtain ⟨e, heffect⟩ := chgFault_moves (d := s.dev) (cause := 0x27) (by rw [hst]; decide)
    exact ⟨_, e, exec_prechargeTimeout hrun hst, heffect⟩
  case cv => exact fun hst hv => ⟨_, exec_cvReached hrun x, cvReached_moves hst hv⟩
  case terminated =>
    intro hst hi
    obtain ⟨e, g, heffect⟩ := chgTerminated_moves hst hi
    exact ⟨_, e, g, exec_chargeTerminated hrun x, heffect⟩
  case recharge => exact fun hst hf => ⟨_, exec_recharge hrun x, recharge_moves hst hf⟩
  case time =>
    intro hst
    obtain ⟨e, heffect⟩ := chgFault_moves (d := s.dev) (cause := 0x27) (charging_not_fault hst).1
    exact ⟨_, e, exec_chargeTimeout hrun hst, heffect⟩
  case ov =>
    intro hst hv
    obtain ⟨e, heffect⟩ := chgFault_moves (d := s.dev.setMeas (s.dev.scaled x)) (cause := 0x02) (charging_not_fault hst).1
    rw [← chgOv_eq hst hv] at heffect
    exact ⟨_, e, exec_chargerOvFault hrun x, heffect⟩
  case suspend => exact fun hs => ⟨_, exec_chargerSuspend hrun x, chgSuspend_effect hs⟩
  case drained =>
    intro late hst hl
    obtain ⟨e, heffect⟩ := chgDrained_moves hst hl
    exact ⟨_, e, exec_chargerDrainComplete hrun x late, heffect⟩
  case resume =>
    intro e hs
    obtain ⟨hsuspended, hdraining⟩ := chgResume_effect hs
    exact ⟨fun hst hhup => ⟨_, exec_chargerResume hrun x, hsuspended hst hhup⟩, fun hst hen => ⟨_, exec_chargerResume hrun x, hdraining hst hen⟩⟩

end Sys2Proof.Machine
end

section
/-! SUPPORT. The always-on domain's own events: waking, hibernation, the open-circuit sample and the counters' second. -/

set_option maxRecDepth 4000
namespace Sys2Proof.Machine
open Sys2Proof

section
variable {d : Device}

/-! ## Waking and hibernating (R105, R106) -/

theorem aoWake_on (current : Bool) (hao : d.boot.up.ao = true) (hs : d.ao.active = false) :
    (d.aoWake current).ao = { d.ao with active := true } ∧ (d.aoWake current).gau = if current then { d.gau with restS := 0 } else d.gau := by
  unfold Device.aoWake
  rw [if_pos (by rw [hao, hs]; rfl)]
  cases current <;> exact ⟨rfl, rfl⟩

theorem aoWake_off (current : Bool) (h : d.boot.up.ao = false ∨ d.ao.active = true) : d.aoWake current = d := by
  refine if_neg ?_
  obtain h | h := h <;> rw [h]
  · exact Bool.false_ne_true
  · rw [Bool.not_true, Bool.and_false]
    exact Bool.false_ne_true

theorem aoWakeBy_current {uv : Rat} (h : (bits (d.reg 0x044040) 23 16 : Nat) < max uv (-uv)) : d.aoWakeBy (.current uv) = d.aoWake true := if_pos h

theorem aoWakeBy_small {uv : Rat} (h : max uv (-uv) ≤ (bits (d.reg 0x044040) 23 16 : Nat)) : d.aoWakeBy (.current uv) = d := if_neg (not_lt.2 h)

theorem aoWakeBy_off (how : WakeCause) (h : d.boot.up.ao = false ∨ d.ao.active = true) : d.aoWakeBy how = d := by
  cases how with
  | packDet => exact aoWake_off false h
  | current uv =>
    unfold Device.aoWakeBy
    dsimp only
    rw [aoWake_off true h]
    exact ite_self _

/-- The conditions of R106 for sleep. -/
def Device.maySleep (d : Device) : Bool :=
  d.boot.up.ao && d.ao.active && bit (d.reg 0x044040) 0 && decide (max 1 (bits (d.reg 0x044040) 31 24) ≤ d.gau.restS) && d.noneArmed

theorem hibernate_eq : d.hibernate = if d.maySleep then { d with ao := { d.ao with active := false } } else d := rfl

/-! ## The open-circuit sample (R445) -/

/-- The rest after which the open-circuit voltage is sampled. -/
def Device.ocvRest (d : Device) : Nat := min 0xFFFF (60 * max 1 (bits (d.reg 0x044044) 23 16))

theorem ocvSample_takes (v : Nat) (hao : d.boot.up.ao = true) (h : d.gau.restS = d.ocvRest) :
    d.ocvSample v = d.updGau fun g => { g with vOcv := v % 65536, ocvReady := true } :=
  if_pos (by rw [hao, Bool.true_and]; exact decide_eq_true h.symm)

theorem ocvSample_none (v : Nat) (h : d.gau.restS ≠ d.ocvRest) : d.ocvSample v = d :=
  if_neg (by rw [Bool.and_eq_true, decide_eq_true_iff]; exact fun hc => h hc.2.symm)

/-! ## One second of the counters (R439 to R446) -/

theorem gaugeSecond_down (sec : GaugeSecond) (hao : d.boot.up.ao = false) : d.gaugeSecond sec = d := by
  have heq : d.aoSecond sec = d := if_pos (by rw [hao]; rfl)
  unfold Device.gaugeSecond
  dsimp only
  rw [heq, hao]
  exact if_neg Bool.false_ne_true

/-- While the core is down only the domain's own counters go on. -/
theorem gaugeSecond_coreless (sec : GaugeSecond) (hcore : d.boot.coreUp = false) : d.gaugeSecond sec = d.aoSecond sec := by
  have hboot := (aoSecond_keeps d sec).1
  exact if_neg (by rw [hboot, hcore, Bool.and_false]; exact Bool.false_ne_true)

theorem aoSecond_awake (sec : GaugeSecond) (hao : d.boot.up.ao = true) (hs : d.ao.active = true) :
    let codes := sec.codes.map (clampI (-(2 ^ 23)) (2 ^ 23 - 1))
    let g := (d.aoSecond sec).gau
    g.acc = (((d.gau.acc : Int) + codes.sum) % 2 ^ 48).toNat ∧ g.abs = min (2 ^ 48 - 1) (d.gau.abs + (codes.map Int.natAbs).sum) ∧
      g.age = min 0xFFFFFFFF (d.gau.age + 1) ∧ g.hibt = d.gau.hibt ∧ g.vPack = d.packVolts sec.vpack ∧
      (codes.all (fun c => decide ((c.natAbs : Rat) < d.restCode)) = true → g.restS = min 0xFFFF (d.gau.restS + 1)) ∧
      (codes.all (fun c => decide ((c.natAbs : Rat) < d.restCode)) = false → g.restS = 0) := by
  dsimp only
  unfold Device.aoSecond
  rw [if_neg (by rw [hao]; decide), if_pos hs]
  exact ⟨rfl, rfl, rfl, rfl, rfl, fun h => if_pos h, fun h => if_neg (by rw [h]; exact Bool.false_ne_true)⟩

theorem aoSecond_asleep (sec : GaugeSecond) (hao : d.boot.up.ao = true) (hs : d.ao.active = false) : (d.aoSecond sec).gau =
    { d.gau with age := min 0xFFFFFFFF (d.gau.age + 1), hibt := min 0xFFFFFFFF (d.gau.hibt + 1), restS := min 0xFFFF (d.gau.restS + 1) } := by
  unfold Device.aoSecond
  rw [if_neg (by rw [hao]; decide), if_neg (by rw [hs]; decide)]
  rfl
end

theorem exec_aoWake (how : WakeCause) (s : State) : exec (.aoWake how) s = .next { s with dev := s.dev.aoWakeBy how } := rfl
theorem exec_hibernateEnter (s : State) : exec .hibernateEnter s = .next { s with dev := s.dev.hibernate } := rfl
theorem exec_ocvSample (pin : Rat) (s : State) : exec (.ocvSample pin) s = .next { s with dev := s.dev.ocvSample (s.dev.packVolts pin) } := rfl

/-- Settles O45: the always-on domain wakes, sleeps, samples and counts while its supply is up. -/
theorem alwaysOnEventsComplete : Obligations.AlwaysOnEventsComplete := by
  unfold Obligations.AlwaysOnEventsComplete
  refine fun s => ⟨⟨fun hao hs => ⟨?det, ?current⟩, ?small, ?stays⟩, ⟨?sleeps, ?wakeful⟩, fun pin => ⟨?sampled, ?unsampled⟩, fun sec => ⟨?down, ?second⟩⟩
  case det => exact ⟨_, exec_aoWake .packDet s, aoWake_on false hao hs⟩
  case current =>
    refine fun uv h => ⟨_, exec_aoWake (.current uv) s, ?_⟩
    rw [aoWakeBy_current h]
    exact aoWake_on true hao hs
  case small => exact fun uv h => (exec_aoWake (.current uv) s).trans (next_of s (aoWakeBy_small h))
  case stays => exact fun how h => (exec_aoWake how s).trans (next_of s (aoWakeBy_off how h))
  case sleeps => exact fun h => ⟨_, (exec_hibernateEnter s).trans (next_of s (if_pos h)), rfl, rfl⟩
  case wakeful => exact fun h => (exec_hibernateEnter s).trans (next_of s (if_neg (Bool.eq_false_iff.1 h)))
  case sampled => exact fun hao h => ⟨_, (exec_ocvSample pin s).trans (next_of s (ocvSample_takes _ hao h)), rfl, rfl⟩
  case unsampled => exact fun h => (exec_ocvSample pin s).trans (next_of s (ocvSample_none _ h))
  case down => exact fun hao => (exec_gaugeEstimateUpdate sec s).trans (next_of s (gaugeSecond_down sec hao))
  case second =>
    exact fun hao hcore => ⟨_, (exec_gaugeEstimateUpdate sec s).trans (next_of s (gaugeSecond_coreless sec hcore)), fun hs => aoSecond_awake sec hao hs,
      fun hs => aoSecond_asleep sec hao hs⟩

end Sys2Proof.Machine
end

section
/-! SUPPORT. The thermal scan and its clear; the fault collector's latch, fall, clear, injection and EFI pins. -/

set_option maxRecDepth 4000
namespace Sys2Proof.Machine
open Sys2Proof

/-! ## The thermal scan and THM_CLR (R481, R482, R486, R488, R494) -/

theorem exec_thermalScanFrame {s : State} (x : ThermFrame) (h : s.dev.hupRuns = true) :
    exec (.thermalScanFrame x) s = .next { s with dev := s.dev.thermalFrame x } := service_next s (fun d => d.thermalFrame x) h

theorem inService_off {d : Device} (h : d.hupRuns = false) (f : Device → Device) : d.inService f = d := by
  unfold Device.inService
  rw [if_neg (by rw [h]; exact Bool.false_ne_true)]

theorem exec_thermalScanFrame_off {s : State} (x : ThermFrame) (h : s.dev.hupRuns = false) : exec (.thermalScanFrame x) s = .next s :=
  next_of s (e' := s.dev) (inService_off h _)

theorem exec_thmClr (src : Source) (data : Word) (s : State) :
    exec (.thmClr src data) s = .next { s with dev := s.dev.busWrite s.fuses src 0x048084 0xF data {} } := rfl

/-- A write of THM_CLR clears the channel of its low bits, where there is one. -/
theorem thmClr_write {s : State} {src : Source} {data : Word} (ht : s.dev.takes src 0x048084 0xFFFFFFFF data = true) :
    s.dev.busWrite s.fuses src 0x048084 0xF data {} =
      if bits data 6 0 < 88 then (s.dev.arrive src 0x048084).thmClear (Fin.ofNat 88 (bits data 6 0)) (s.dev.requester src).code else s.dev.arrive src 0x048084 := by
  have hw := Device.busWrite_page s.dev s.fuses src 0x048 0x084 0xF data {} ht (by decide) (by decide) (by decide) (by decide) (Or.inr (by decide))
  have hq : (s.dev.arrive src 0x048084).blockWrite s.fuses src 0x048 0x084 (byteMask 0xF) data {} =
      (s.dev.arrive src 0x048084).thmWrite ((s.dev.arrive src 0x048084).requester src) 0x048 0x084 (byteMask 0xF) data := rfl
  rw [show pageAddr 0x048 0x084 = 0x048084 from rfl, hq] at hw
  rw [hw, Device.arrive_requester, byteMask_full]
  unfold Device.thmWrite
  rw [if_pos ⟨rfl, rfl⟩, and_full]

theorem arrive_ch (d : Device) (src : Source) (a : Nat) (c : Fin 88) : (d.arrive src a).ch c = d.ch c := ch_of (Device.arrive_thm d src a) c

theorem thmClr_effect {s : State} {src : Source} {data : Word} (ht : s.dev.takes src 0x048084 0xFFFFFFFF data = true) :
    let e := s.dev.busWrite s.fuses src 0x048084 0xF data {}
    e.thm.frame = s.dev.thm.frame ∧ e.thm.frac = s.dev.thm.frac ∧ (∀ c : Fin 88, c.val ≠ bits data 6 0 → e.ch c = s.dev.ch c) ∧
      ∀ c : Fin 88, c.val = bits data 6 0 →
        (∀ v, (s.dev.ch c).latest = some v → (s.dev.ch c).st = .standin ∨ (s.dev.ch c).st = .novalue → (s.dev.ch c).plaus = true →
          e.ch c = { s.dev.ch c with st := .valid, val := v, broken := false, plaus := false } ∧ (e.head (pg 0x048)).cur = e.thmCode) ∧
        ((s.dev.ch c).latest = none ∨ (s.dev.ch c).plaus = false ∨ ((s.dev.ch c).st ≠ .standin ∧ (s.dev.ch c).st ≠ .novalue) → e.ch c = s.dev.ch c) := by
  dsimp only
  rw [thmClr_write ht]
  by_cases hn : bits data 6 0 < 88
  · rw [if_pos hn]
    obtain ⟨hrest, hothers, hends, hkept⟩ := thmClear_facts (s.dev.arrive src 0x048084) (Fin.ofNat 88 (bits data 6 0)) (s.dev.requester src).code
    have hval : (Fin.ofNat 88 (bits data 6 0)).val = bits data 6 0 := Nat.mod_eq_of_lt hn
    have hrest' := hrest.trans (congrArg Thermal.rest (Device.arrive_thm s.dev src 0x048084))
    refine ⟨congrArg (·.1) hrest', congrArg (·.2.1) hrest', fun c hc => (hothers c fun h => hc (h ▸ hval)).trans (arrive_ch ..), fun c hc => ?_⟩
    have hcc : Fin.ofNat 88 (bits data 6 0) = c := Fin.ext (hval.trans hc.symm)
    rw [hcc, arrive_ch] at hends hkept
    rw [hcc]
    exact ⟨hends, hkept⟩
  · rw [if_neg hn]
    refine ⟨by rw [Device.arrive_thm], by rw [Device.arrive_thm], fun c _ => arrive_ch .., fun c hc => absurd (hc ▸ c.isLt) hn⟩

/-- Settles O47: a frame samples the channels that are due and keeps the others, and THM_CLR ends a plausibility break of its channel. -/
theorem thermalCommandsComplete : Obligations.ThermalCommandsComplete := by
  unfold Obligations.ThermalCommandsComplete
  exact fun s => ⟨fun x h => exec_thermalScanFrame_off x h, fun x h => ⟨_, exec_thermalScanFrame x h, frame_facts s.dev x⟩,
    fun src data ht => ⟨_, exec_thmClr src data s, thmClr_effect ht⟩⟩

/-! ## The fault collector (R499, R502 to R505, R510, R512, R517) -/

theorem exec_faultLatch {s : State} (h : s.dev.live = true) : exec .faultLatch s = .next { s with dev := s.dev.faultLatch } :=
  live_next s (fun d => d.faultLatch) h
theorem exec_faultLineRelease {s : State} (c : Fin 64) (h : s.dev.live = true) :
    exec (.faultLineRelease c) s = .next { s with dev := s.dev.faultLineFall c } := live_next s (fun d => d.faultLineFall c) h
theorem exec_efiInput {s : State} (m : Fin 8) (x : EfiLevel) (h : s.dev.live = true) :
    exec (.efiInput m x) s = .next { s with dev := s.dev.efiInput m x.high x.held } := live_next s (fun d => d.efiInput m x.high x.held) h
theorem exec_faultInject (src : Source) (data : Word) (s : State) :
    exec (.faultInject src data) s = .next { s with dev := s.dev.busWrite s.fuses src 0x05006C 0xF data {} } := rfl
theorem exec_faultClear (src : Source) (hi : Bool) (be : BitVec 4) (data : Word) (s : State) :
    exec (.faultClear src hi be data) s = .next { s with dev := s.dev.busWrite s.fuses src (if hi then 0x050044 else 0x050040) be data {} } := rfl

/-- The W1C words are the two halves of the fault mask. -/
theorem faultClear_write {s : State} {src : Source} {hi : Bool} {be : BitVec 4} {data : Word} (hb : alignedBe be = true)
    (ht : s.dev.takes src (if hi then 0x050044 else 0x050040) (byteMask be) data = true) :
    let d := s.dev.arrive src (if hi then 0x050044 else 0x050040)
    s.dev.busWrite s.fuses src (if hi then 0x050044 else 0x050040) be data {} =
      d.faultClear (if hi then (data &&& byteMask be).setWidth 64 <<< 32 else (data &&& byteMask be).setWidth 64) (d.requester src).code := by
  dsimp only
  cases hi with
  | true =>
    refine (flt_write s src 0x044 be data (.inr (.inl rfl)) hb ht).trans ?_
    unfold Device.fltWrite
    dsimp only
    rw [if_neg (by decide), if_pos rfl]
    rfl
  | false =>
    refine (flt_write s src 0x040 be data (.inl rfl) hb ht).trans ?_
    unfold Device.fltWrite
    dsimp only
    rw [if_pos rfl]
    rfl

theorem faultClear_effect {s : State} {src : Source} {hi : Bool} {be : BitVec 4} {data : Word} (hb : alignedBe be = true)
    (ht : s.dev.takes src (if hi then 0x050044 else 0x050040) (byteMask be) data = true) :
    let a := if hi then 0x050044 else 0x050040
    let w : BitVec 64 := if hi then (data &&& byteMask be).setWidth 64 <<< 32 else (data &&& byteMask be).setWidth 64
    let d := s.dev.arrive src a
    let lines := ({ d with ao := { d.ao with clkFail := d.ao.clkFail && !w.getLsbD 56 } } : Device).linesNow
    let e := s.dev.busWrite s.fuses src a be data {}
    e.flt.stat = s.dev.flt.stat &&& ~~~(w &&& ~~~lines) ∧ e.flt.line = s.dev.flt.line &&& lines ∧ e.ao.clkFail = (d.ao.clkFail && !w.getLsbD 56) ∧
      e.flt.hist = s.dev.flt.hist ∧ e.flt.number = s.dev.flt.number ∧ e.flt.cnt = s.dev.flt.cnt := by
  dsimp only
  rw [faultClear_write hb ht]
  rw [← Device.arrive_flt s.dev src (if hi then 0x050044 else 0x050040)]
  exact clear_facts _ _ _

/-- FLT_INJECT injects under its key, and records an access violation under any other. -/
theorem faultInject_effect {s : State} {src : Source} {data : Word} (ht : s.dev.takes src 0x05006C 0xFFFFFFFF data = true) :
    let e := s.dev.busWrite s.fuses src 0x05006C 0xF data {}
    (bits data 31 16 = 0x1A7E → e.flt = { s.dev.flt with inject := true }) ∧
      (bits data 31 16 ≠ 0x1A7E → e.flt = s.dev.flt ∧ bit (e.head (pg fltPage)).err 1 = true) := by
  have hw := flt_write s src 0x06C 0xF data (.inr (.inr rfl)) (by decide) ht
  rw [show pageAddr 0x050 0x06C = 0x05006C from rfl, byteMask_full] at hw
  dsimp only
  rw [hw]
  unfold Device.fltWrite
  dsimp only
  rw [if_neg (by decide), if_neg (by decide), if_neg (by decide), if_pos rfl, and_full]
  constructor
  · intro hk
    rw [if_pos hk, Device.arrive_flt]
  · intro hk
    rw [if_neg hk]
    exact ⟨Device.arrive_flt s.dev src 0x05006C, setErr_bit _ _ 1 (by decide)⟩

/-- A level of an EFI pin that has held for EFI_FILT replaces that pin's bit. -/
theorem efiInput_filtered {d : Device} (m : Fin 8) (high : Bool) {held : Nat} (hj : d.flt.judging = true) (hf : max 1 (bits (d.reg 0x050064) 31 24) ≤ held) :
    let e := d.efiInput m high held
    e = { d with flt := { d.flt with efi := e.flt.efi } } ∧
      ∀ j : Fin 8, e.flt.efi.getLsbD j.val = if j = m then (high == bit (d.reg 0x050064) (8 + m.val)) else d.flt.efi.getLsbD j.val := by
  dsimp only
  unfold Device.efiInput
  rw [if_pos (by rw [hj]; exact decide_eq_true hf)]
  exact ⟨rfl, fun j => efi_bits _ _ _ _⟩

theorem efiInput_ignored {d : Device} (m : Fin 8) (high : Bool) {held : Nat} (h : d.flt.judging = false ∨ held < max 1 (bits (d.reg 0x050064) 31 24)) :
    d.efiInput m high held = d := by
  unfold Device.efiInput
  rw [if_neg]
  intro hc
  obtain ⟨hj, hf⟩ := Bool.and_eq_true _ _ ▸ hc
  rcases h with h | h
  · exact Bool.false_ne_true (h.symm.trans hj)
  · exact absurd (of_decide_eq_true hf) (Nat.not_le.2 h)

/-- Settles O48: the latch, the fall of a line, the W1C clear, the injection and the EFI pins. -/
theorem faultCommandsComplete : Obligations.FaultCommandsComplete := by
  unfold Obligations.FaultCommandsComplete
  refine fun s => ⟨fun hl => ⟨_, exec_faultLatch hl, latch_facts s.dev⟩, fun c hl => ⟨?falls, ?stays⟩,
    fun src hi be data hb ht => ⟨_, exec_faultClear src hi be data s, faultClear_effect hb ht⟩,
    fun src data ht => ⟨_, exec_faultInject src data s, faultInject_effect ht⟩, fun m high held hl => ⟨?filtered, ?ignored⟩⟩
  case falls => exact fun h1 h2 => ⟨_, exec_faultLineRelease c hl, (fall_facts s.dev c).1 h1 h2⟩
  case stays => exact fun h => (exec_faultLineRelease c hl).trans (next_of s (e' := s.dev) ((fall_facts s.dev c).2 h))
  case filtered =>
    intro hj hf
    obtain ⟨heq, hbits⟩ := efiInput_filtered m high hj hf
    exact ⟨_, exec_efiInput m ⟨high, held⟩ hl, congrArg (fun d => ({ s with dev := d } : State)) heq, hbits⟩
  case ignored => exact fun h => (exec_efiInput m ⟨high, held⟩ hl).trans (next_of s (e' := s.dev) (efiInput_ignored m high h))

end Sys2Proof.Machine
end

section
/-! SUPPORT. The event controller: arrival, selection, a broadcast to rings on chip, and the commands of the targets. -/

set_option maxRecDepth 4000
namespace Sys2Proof.Machine
open Sys2Proof

/-! ## Arrival (R545, R546) -/

theorem exec_eventArrival {s : State} (e : Fin 256) (payload : Word) (h : s.dev.live = true) :
    exec (.eventArrival e payload) s = .next { s with dev := s.dev.raise e.val payload } := live_next s (fun d => d.raise e.val payload) h
theorem exec_eventSelect {s : State} (h : s.dev.live = true) : exec .eventSelect s = .next { s with dev := s.dev.evSelect false } :=
  live_next s (fun d => d.evSelect false) h
theorem exec_eventRecordFault {s : State} (h : s.dev.live = true) : exec .eventRecordFault s = .next { s with dev := s.dev.evSelect true } :=
  live_next s (fun d => d.evSelect true) h

theorem arrival_effect {d : Device} {e : Fin 256} (payload : Word) (hp : d.srcPrio e ≠ 0) :
    let x := d.raise e.val payload
    x.evc.tgt = d.evc.tgt ∧ (∀ j, j ≠ e → x.evc.src[j] = d.evc.src[j]) ∧
      x.evc.src[e] = { d.evc.src[e] with pend := true, count := satInc 255 d.evc.src[e].count, ts := d.ts, payload := payload } ∧
      (x.head (pg evcPage)).cur = x.evcCode := by
  obtain ⟨hevc, hcur⟩ := raise_src d e payload hp
  dsimp only
  refine ⟨by rw [hevc], fun j hj => ?_, ?_, hcur⟩
  · rw [hevc]
    exact (upd_get _ _ _ _).trans (if_neg hj)
  · rw [hevc]
    exact (upd_get _ _ _ _).trans (if_pos rfl)

/-! ## Selection (R548 to R550, R553, R554, R560) -/

theorem evSelect_idle {d : Device} (b : Bool) (h : d.evcRuns = false ∨ d.selectedSource = none) : d.evSelect b = d := by
  unfold Device.evSelect
  rcases h with h | h
  · rw [if_neg (by rw [h]; exact Bool.false_ne_true)]
  · rw [h]
    exact ite_self d

/-- A selection whose faults are not the ones asked for does nothing. -/
theorem evSelect_other {d : Device} {e : Fin 256} {g : Fin 9} {b : Bool} (h1 : d.evcRuns = true) (h2 : d.selectedSource = some e) (h3 : d.selectedTarget e = some g)
    (h : d.selectionFaults e g ≠ b) : d.evSelect b = d := by
  rw [select_run d e g b h1 h2 h3, if_neg (by rw [beq_eq_false_iff_ne.2 h]; exact Bool.false_ne_true)]

/-- The device of a selection after RRPTR of source e has moved past target g (R548). -/
def Device.pointerMoved (d : Device) (e : Fin 256) (g : Fin 9) : Device := d.updSrc e fun x => { x with rr := (g.val + 1) % 9 }

theorem unicast_faults {d : Device} {e : Fin 256} (g : Fin 9) (hb : d.isBcast e = false) : d.selectionFaults e g = d.evMeetsFault g := by
  unfold Device.selectionFaults
  rw [if_neg (by rw [hb]; exact Bool.false_ne_true)]

/-- A selection for one target is the record and then the target's signals. -/
theorem evSelect_unicast {d : Device} {e : Fin 256} {g : Fin 9} (h1 : d.evcRuns = true) (h2 : d.selectedSource = some e) (h3 : d.selectedTarget e = some g)
    (hb : d.isBcast e = false) : d.evSelect (d.evMeetsFault g) = ((d.pointerMoved e g).evUnicast e g).ibiSync.evcSync := by
  rw [select_run d e g _ h1 h2 h3, if_pos (by rw [unicast_faults g hb]; exact beq_self_eq_true _),
    if_neg (by rw [show (d.updSrc e fun x => { x with rr := (g.val + 1) % 9 }).isBcast e = d.isBcast e from rfl, hb]; exact Bool.false_ne_true)]
  rfl

theorem unicast_delivers {d : Device} {e : Fin 256} {g : Fin 9} (h1 : d.evcRuns = true) (h2 : d.selectedSource = some e) (h3 : d.selectedTarget e = some g)
    (hb : d.isBcast e = false) (hf : d.evMeetsFault g = false) :
    let x := d.evSelect false
    x.evc.src[e].pend = false ∧ x.evc.src[e].count = 0 ∧ x.evc.src[e].insvc = true ∧ x.evc.src[e].holder = some g ∧
      x.tg g = { d.tg g with wr := ((d.tg g).wr + 1) % 65536, seq := ((d.tg g).seq + 1) % 65536, lost := false } ∧ (∀ j, j ≠ g → x.tg j = d.tg j) ∧
      (d.tgLoc g = true → d.canonical = true → ∀ i : Fin 4, x.ramWord (ringSlot g ((d.tg g).wr % 32) + 4 * i.val) = (d.evRecord e g false)[i]) := by
  have hsel := evSelect_unicast h1 h2 h3 hb
  rw [hf] at hsel
  obtain ⟨mfault, mloc, mrec, mcanon⟩ := moved d e ((g.val + 1) % 9) g
  obtain ⟨z, hz, harr, -, hwords⟩ := write_facts (d.pointerMoved e g) e g false (mfault.trans hf)
  have huni : (d.pointerMoved e g).evUnicast e g = z.updSrc e fun x => { x with count := 0, pend := false, insvc := true, holder := some g } := by
    unfold Device.evUnicast
    rw [hz]
  obtain ⟨dev, dram⟩ := delivered (z.updSrc e fun x => { x with count := 0, pend := false, insvc := true, holder := some g })
  have hsrc : ∀ p : EvSource → Prop, p { z.evc.src[e] with count := 0, pend := false, insvc := true, holder := some g } →
      p (z.updSrc e fun x => { x with count := 0, pend := false, insvc := true, holder := some g }).ibiSync.evcSync.evc.src[e] := by
    intro p hp
    rw [dev, src_upd, if_pos rfl]
    exact hp
  have htg : ∀ j, (z.updSrc e fun x => { x with count := 0, pend := false, insvc := true, holder := some g }).ibiSync.evcSync.tg j =
      if j = g then { d.tg g with wr := ((d.tg g).wr + 1) % 65536, seq := ((d.tg g).seq + 1) % 65536, lost := false } else d.tg j := fun j =>
    (tg_of (congrArg Evc.tgt dev) j).trans ((tg_of harr.1 j).trans (updTg_get _ _ _ _))
  dsimp only
  rw [hsel, huni]
  refine ⟨hsrc (fun y => y.pend = false) rfl, hsrc (fun y => y.count = 0) rfl, hsrc (fun y => y.insvc = true) rfl, hsrc (fun y => y.holder = some g) rfl,
    (htg g).trans (if_pos rfl), fun j hj => (htg j).trans (if_neg hj), fun hl hc i => ?_⟩
  have hw := hwords (mloc.trans hl) (mcanon.trans hc) i
  unfold Device.ramWord at hw ⊢
  rw [dram]
  refine hw.trans ?_
  unfold Device.pointerMoved
  rw [mrec]

/-- A record for one target that meets a translation fault marks the target and leaves its source (R560). -/
theorem unicast_faulted {d : Device} {e : Fin 256} {g : Fin 9} (h1 : d.evcRuns = true) (h2 : d.selectedSource = some e) (h3 : d.selectedTarget e = some g)
    (hb : d.isBcast e = false) (hf : d.evMeetsFault g = true) :
    let x := d.evSelect true
    x.evc.tgt = (d.updTg g fun x => { x with wfault := true }).evc.tgt ∧ bit (x.head (pg evcPage)).err 10 = true ∧ x.evc.src[e].insvc = d.evc.src[e].insvc := by
  have hsel := evSelect_unicast h1 h2 h3 hb
  rw [hf] at hsel
  obtain ⟨z, hz, ztgt, zheld, zerr⟩ := fault_facts (d.pointerMoved e g) e g false ((moved d e ((g.val + 1) % 9) g).1.trans hf)
  have huni : (d.pointerMoved e g).evUnicast e g = z := by
    unfold Device.evUnicast
    rw [hz]
  obtain ⟨dev, -⟩ := delivered z
  have hsrc : (d.pointerMoved e g).evc.src[e].insvc = d.evc.src[e].insvc := by
    unfold Device.pointerMoved
    rw [src_upd, if_pos rfl]
  dsimp only
  rw [hsel, huni]
  refine ⟨(congrArg Evc.tgt dev).trans ztgt, ?_, ?_⟩
  · rw [delivered_head]
    exact zerr
  · rw [dev]
    exact (congrArg (·.2.1) (zheld e)).trans hsrc

/-! ## A broadcast to rings on chip (R550) -/

/-- Target j after its copy of a broadcast. -/
def Device.copied (d : Device) (j : Fin 9) : EvTarget :=
  if d.copyDrops j then { d.tg j with lost := true }
  else { d.tg j with wr := ((d.tg j).wr + 1) % 65536, seq := ((d.tg j).seq + 1) % 65536, lost := false }

theorem local_meets_no_fault {d : Device} {j : Fin 9} (h : d.tgLoc j = true) : d.evMeetsFault j = false := by
  unfold Device.evMeetsFault
  rw [h]
  rfl

theorem copied_of {d y : Device} (hr : y.regs = d.regs) {j : Fin 9} (ht : y.tg j = d.tg j) (hl : d.tgLoc j = true) : y.copied j = d.copied j := by
  obtain ⟨hloc, hn, -⟩ := tgt_of hr j
  have hdrop : y.copyDrops j = d.copyDrops j := by
    unfold Device.copyDrops Device.tgFull Device.hostWait
    rw [ht, hn, hloc, hl, Bool.not_true, Bool.false_and, Bool.false_and]
  unfold Device.copied
  rw [hdrop, ht]

/-- A copy to a ring on chip changes its target alone. -/
theorem evCopy_local {d : Device} (e : Fin 256) {g : Fin 9} (hl : d.tgLoc g = true) :
    ∃ y : Device, d.evCopy e g = (y, false) ∧ y.regs = d.regs ∧ ∀ j, y.tg j = if j = g then d.copied g else d.tg j := by
  unfold Device.evCopy Device.copied
  by_cases hd : d.copyDrops g = true
  · rw [if_pos hd, if_pos hd]
    exact ⟨_, rfl, rfl, fun j => updTg_get _ _ _ _⟩
  · rw [if_neg hd, if_neg hd]
    obtain ⟨y, hy, harr, hregs, -⟩ := write_facts d e g true (local_meets_no_fault hl)
    rw [hy]
    exact ⟨y, rfl, hregs, fun j => (tg_of harr.1 j).trans (updTg_get _ _ _ _)⟩

/-- Copies to different rings on chip do not meet. -/
theorem evCopies_local (e : Fin 256) : ∀ (l : List (Fin 9)) (d : Device), l.Nodup → (∀ j ∈ l, d.tgLoc j = true) →
    ∃ y : Device, l.foldl (fun (a : Device × Bool) t => ((a.1.evCopy e t).1, a.2 || (a.1.evCopy e t).2)) (d, false) = (y, false) ∧
      ∀ j, y.tg j = if j ∈ l then d.copied j else d.tg j := by
  intro l
  induction l with
  | nil => exact fun d _ _ => ⟨d, rfl, fun j => (if_neg List.not_mem_nil).symm⟩
  | cons g l ih =>
    intro d hn hl
    obtain ⟨hg, hn⟩ := List.nodup_cons.1 hn
    obtain ⟨x, hx, xregs, xtg⟩ := evCopy_local e (hl g List.mem_cons_self)
    have keeps : ∀ j ∈ l, x.tg j = d.tg j := fun j hj => (xtg j).trans (if_neg fun h : j = g => hg (h ▸ hj))
    obtain ⟨y, hy, ytg⟩ := ih x hn fun j hj => (tgt_of xregs j).1.trans (hl j (List.mem_cons_of_mem _ hj))
    refine ⟨y, ?_, fun j => (ytg j).trans ?_⟩
    · rw [List.foldl_cons]
      simp only [hx, Bool.or_self]
      exact hy
    · by_cases hj : j ∈ l
      · rw [if_pos hj, if_pos (List.mem_cons_of_mem _ hj)]
        exact copied_of xregs (keeps j hj) (hl j (List.mem_cons_of_mem _ hj))
      · rw [if_neg hj, xtg]
        by_cases hjg : j = g
        · rw [if_pos hjg, if_pos (hjg ▸ List.mem_cons_self), hjg]
        · rw [if_neg hjg, if_neg fun h => (List.mem_cons.1 h).elim hjg hj]

theorem bcastTargets_nodup (d : Device) (e : Fin 256) : (d.bcastTargets e).Nodup := (List.nodup_finRange 9).filter _

theorem broadcast_delivers {d : Device} {e : Fin 256} {g : Fin 9} (h1 : d.evcRuns = true) (h2 : d.selectedSource = some e) (h3 : d.selectedTarget e = some g)
    (hb : d.isBcast e = true) (hl : ∀ j ∈ d.bcastTargets e, d.tgLoc j = true) :
    let x := d.evSelect false
    x.evc.src[e].pend = false ∧ x.evc.src[e].count = 0 ∧
      ∀ j, x.tg j = if j ∈ d.bcastTargets e then
          (if d.copyDrops j then { d.tg j with lost := true } else
            { d.tg j with wr := ((d.tg j).wr + 1) % 65536, seq := ((d.tg j).seq + 1) % 65536, lost := false })
        else d.tg j := by
  have hnone : d.selectionFaults e g = false := by
    unfold Device.selectionFaults
    rw [if_pos hb, List.any_eq_false]
    intro j hj
    rw [local_meets_no_fault (hl j hj), Bool.and_false]
    exact Bool.false_ne_true
  have hsel : d.evSelect false = ((d.pointerMoved e g).evBroadcast e).ibiSync.evcSync := by
    rw [select_run d e g _ h1 h2 h3, if_pos (by rw [hnone]; rfl)]
    exact congrArg (fun x : Device => x.ibiSync.evcSync) (if_pos hb)
  obtain ⟨y, hy, ytg⟩ := evCopies_local e (d.bcastTargets e) (d.pointerMoved e g) (bcastTargets_nodup d e) hl
  have hbc : (d.pointerMoved e g).evBroadcast e = y.updSrc e fun x => { x with count := 0, pend := false } := by
    unfold Device.evBroadcast
    dsimp only
    rw [show (d.pointerMoved e g).bcastTargets e = d.bcastTargets e from rfl, hy]
    exact if_neg Bool.false_ne_true
  obtain ⟨dev, -⟩ := delivered (y.updSrc e fun x => { x with count := 0, pend := false })
  have htg : ∀ j, (y.updSrc e fun x => { x with count := 0, pend := false }).ibiSync.evcSync.tg j = y.tg j := fun j => tg_of (congrArg Evc.tgt dev) j
  dsimp only
  rw [hsel, hbc]
  refine ⟨?_, ?_, fun j => (htg j).trans (ytg j)⟩
  · rw [dev, src_upd, if_pos rfl]
  · rw [dev, src_upd, if_pos rfl]

end Sys2Proof.Machine
end

section
/-! SUPPORT. The event controller: what the consumers of a target write, and EVC_RAISE. -/

set_option maxRecDepth 4000
namespace Sys2Proof.Machine
open Sys2Proof

theorem exec_eventEoi (g : Fin 9) (src : Source) (e : BitVec 8) (s : State) :
    exec (.eventEoi g src e) s = .next { s with dev := s.dev.busWrite s.fuses src (tgtAddr g 0x18) 0xF (field 7 0 e.toNat) {} } := rfl
theorem exec_eventRingRdWrite (g : Fin 9) (src : Source) (rd : BitVec 16) (s : State) :
    exec (.eventRingRdWrite g src rd) s = .next { s with dev := s.dev.busWrite s.fuses src (tgtAddr g 0x0C) 0xF (field 15 0 rd.toNat) {} } := rfl
theorem exec_eventTargetEnable (g : Fin 9) (src : Source) (s : State) :
    exec (.eventTargetEnable g src) s = .next { s with dev := s.dev.busWrite s.fuses src (tgtAddr g 0) 0xF (setBit (s.dev.tctl g) 0 true) {} } := rfl
theorem exec_eventTargetDisable (g : Fin 9) (src : Source) (s : State) :
    exec (.eventTargetDisable g src) s = .next { s with dev := s.dev.busWrite s.fuses src (tgtAddr g 0) 0xF (setBit (s.dev.tctl g) 0 false) {} } := rfl
theorem exec_evcRaise (src : Source) (n : Fin 2) (data : Word) (s : State) :
    exec (.evcRaise src n data) s = .next { s with dev := s.dev.busWrite s.fuses src (pageAddr evcPage (0x080 + 4 * n.val)) 0xF data {} } := rfl

theorem arrive_tg (d : Device) (src : Source) (a : Nat) (j : Fin 9) : (d.arrive src a).tg j = d.tg j := tg_of (Device.arrive_tgt d src a) j
theorem arrive_tctl (d : Device) (src : Source) (a : Nat) (g : Fin 9) : (d.arrive src a).tctl g = d.tctl g := Device.arrive_reg ..

/-! ## EOI (R551) -/

theorem evEoi_facts (d : Device) (g : Fin 9) (i : Fin 256) :
    (d.evEoi g i).evc.tgt = d.evc.tgt ∧
      (d.evc.src[i].insvc = true → d.evc.src[i].holder = some g → (d.evEoi g i).evc.src = upd d.evc.src i fun y => { y with insvc := false, holder := none }) ∧
      (d.evc.src[i].insvc = false ∨ d.evc.src[i].holder ≠ some g → (d.evEoi g i).evc.src = d.evc.src ∧ bit ((d.evEoi g i).head (pg evcPage)).err 9 = true) := by
  unfold Device.evEoi
  by_cases h : (d.evc.src[i].insvc && d.evc.src[i].holder == some g) = true
  · rw [if_pos h]
    obtain ⟨hin, hho⟩ := Bool.and_eq_true _ _ ▸ h
    exact ⟨rfl, fun _ _ => rfl, fun hn => absurd hn (by rw [hin, beq_iff_eq.1 hho]; simp)⟩
  · rw [if_neg h]
    exact ⟨rfl, fun hin hho => absurd (by rw [hin, hho]; exact beq_self_eq_true _) h, fun _ => ⟨rfl, err_evc d 9 (by decide)⟩⟩

theorem eoi_effect {s : State} {g : Fin 9} {src : Source} {e : BitVec 8} (ht : s.dev.takes src (tgtAddr g 0x18) 0xFFFFFFFF (field 7 0 e.toNat) = true) :
    let d := s.dev.arrive src (tgtAddr g 0x18)
    let i := Fin.ofNat 256 e.toNat
    let y := s.dev.busWrite s.fuses src (tgtAddr g 0x18) 0xF (field 7 0 e.toNat) {}
    y.evc.tgt = s.dev.evc.tgt ∧
      (d.evc.src[i].insvc = true → d.evc.src[i].holder = some g → y.evc.src = upd d.evc.src i fun y => { y with insvc := false, holder := none }) ∧
      (d.evc.src[i].insvc = false ∨ d.evc.src[i].holder ≠ some g → y.evc.src = d.evc.src ∧ bit (y.head (pg evcPage)).err 9 = true) := by
  dsimp only
  rw [tgt_write s g src 0x18 _ (by decide) (by decide) ht, evcWrite_eoi, and_full, byte_field]
  rw [← Device.arrive_tgt s.dev src (tgtAddr g 0x18)]
  exact evEoi_facts _ g _

/-! ## The write of RD (R556, R557) -/

theorem rdWrite_accepted {d : Device} (g : Fin 9) {rd : Nat} (hlt : rd < 65536) (h : (rd + 65536 - (d.tg g).rd) % 65536 ≤ (d.tg g).held) (j : Fin 9) :
    (d.evRdWrite g rd).tg j = if j = g then { d.tg g with rd := rd } else d.tg j := by
  unfold Device.evRdWrite
  dsimp only
  rw [if_pos h, Nat.mod_eq_of_lt hlt]
  refine (tg_of (congrArg Evc.tgt (ibi_evc _)) j).trans ?_
  refine Eq.trans ?_ (updTg_get d g j fun x => { x with rd := rd })
  split
  · exact tg_of (signal_arrivals _ g).1 j
  · rfl

theorem rdWrite_refused {d : Device} (g : Fin 9) {rd : Nat} (h : ¬ (rd + 65536 - (d.tg g).rd) % 65536 ≤ (d.tg g).held) :
    d.evRdWrite g rd = d.setErr evcPage (errBit 8) := by
  unfold Device.evRdWrite
  exact if_neg h

theorem rdWrite_effect {s : State} {g : Fin 9} {src : Source} {rd : BitVec 16} (ht : s.dev.takes src (tgtAddr g 0x0C) 0xFFFFFFFF (field 15 0 rd.toNat) = true) :
    let ok := (rd.toNat + 65536 - (s.dev.tg g).rd) % 65536 ≤ (s.dev.tg g).held
    let y := s.dev.busWrite s.fuses src (tgtAddr g 0x0C) 0xF (field 15 0 rd.toNat) {}
    (∀ j, j ≠ g → y.tg j = s.dev.tg j) ∧ (ok → y.tg g = { s.dev.tg g with rd := rd.toNat }) ∧
      (¬ ok → y.tg g = s.dev.tg g ∧ bit (y.head (pg evcPage)).err 8 = true) := by
  have htg := arrive_tg s.dev src (tgtAddr g 0x0C)
  dsimp only
  rw [tgt_write s g src 0x0C _ (by decide) (by decide) ht, evcWrite_rd, merge_full, half_field]
  by_cases h : (rd.toNat + 65536 - (s.dev.tg g).rd) % 65536 ≤ (s.dev.tg g).held
  · have hy := rdWrite_accepted (d := s.dev.arrive src (tgtAddr g 0x0C)) g rd.isLt (by rw [htg]; exact h)
    refine ⟨fun j hj => (hy j).trans ((if_neg hj).trans (htg j)), fun _ => (hy g).trans ((if_pos rfl).trans (by rw [htg])), fun hn => absurd h hn⟩
  · rw [rdWrite_refused (d := s.dev.arrive src (tgtAddr g 0x0C)) g (by rw [htg]; exact h)]
    exact ⟨fun j _ => htg j, fun hy => absurd hy h, fun _ => ⟨htg g, err_evc _ 8 (by decide)⟩⟩

/-! ## ENABLE of a target (R556, R562, R563) -/

/-- The word that EVC_TCTLt takes: the ring of target 8 is on chip. -/
def tctlWord (g : Fin 9) (w : Word) : Word := if g.val = 8 then w ||| 2 else w

theorem tctlWord_fields (d : Device) (g : Fin 9) (b : Bool) : let n := tctlWord g (setBit (d.tctl g) 0 b)
    bit n 0 = b ∧ bits n 10 8 = bits (d.tctl g) 10 8 ∧ bit n 1 = d.tgLoc g := by
  obtain ⟨h0, h8, h1⟩ := tctl_fields (d.tctl g) b (g.val = 8)
  refine ⟨h0, h8, h1.trans ?_⟩
  unfold Device.tgLoc
  rw [Bool.beq_eq_decide_eq]

/-- What judges a write of EVC_TCTLt before it is stored (R562). -/
def Device.tctlBad (d : Device) (g : Fin 9) (n : Word) : Bool :=
  if bit (d.tctl g) 0 then (bits n 10 8 != bits (d.tctl g) 10 8 || bit n 1 != d.tgLoc g)
  else bit n 0 && !bit n 1 && (!isHost (d.tgBase g) || d.tgBase g % (16 * (32 * 2 ^ bits n 10 8)) != 0)

/-- What storing EVC_TCTLt starts or ends (R556, R563). -/
def Device.tctlTaken (d : Device) (g : Fin 9) (n : Word) : Device :=
  if !bit (d.tctl g) 0 && bit n 0 then
    if ((d.setReg (tgtAddr g 0) n).updTg g fun x => { x with wr := 0, rd := 0, seq := 0, lost := false }).tgLoc g then
      ((d.setReg (tgtAddr g 0) n).updTg g fun x => { x with wr := 0, rd := 0, seq := 0, lost := false }).tgZero g
    else (d.setReg (tgtAddr g 0) n).updTg g fun x => { x with wr := 0, rd := 0, seq := 0, lost := false }
  else d.setReg (tgtAddr g 0) n

theorem tctlWrite_refused {d : Device} {g : Fin 9} {w : Word} (h : d.tctlBad g (tctlWord g w) = true) : d.tctlWrite g w = d.setErr evcPage (errBit 8) := by
  unfold Device.tctlWrite
  exact if_pos h

theorem tctlWrite_taken {d : Device} {g : Fin 9} {w : Word} (h : d.tctlBad g (tctlWord g w) = false) :
    d.tctlWrite g w = (if bit (d.tctl g) 0 && !bit (tctlWord g w) 0 then (d.tctlTaken g (tctlWord g w)).tgRelease g else d.tctlTaken g (tctlWord g w)).ibiSync := by
  unfold Device.tctlWrite
  exact if_neg (by rw [← Bool.not_eq_true] at h; exact h)

theorem tctl_stored {d e : Device} {g : Fin 9} {n : Word} (hc : d.canonical = true) (h : e.regs = (d.setReg (tgtAddr g 0) n).regs) : e.tctl g = n :=
  (reg_of_same h _).trans (Device.reg_setReg d _ n hc)

/-- A target that is enabled again stays as it is. -/
theorem tctlWrite_again {d : Device} {g : Fin 9} (hc : d.canonical = true) (hen : d.tgEnabled g = true) :
    let y := d.tctlWrite g (setBit (d.tctl g) 0 true)
    y.tgEnabled g = true ∧ y.evc = d.evc := by
  have ho : bit (d.tctl g) 0 = true := hen
  obtain ⟨h0, h8, h1⟩ := tctlWord_fields d g true
  have hgood : d.tctlBad g (tctlWord g (setBit (d.tctl g) 0 true)) = false := by
    unfold Device.tctlBad
    rw [if_pos ho, h8, h1, bne_self_eq_false, bne_self_eq_false, Bool.or_self]
  have htaken : d.tctlTaken g (tctlWord g (setBit (d.tctl g) 0 true)) = d.setReg (tgtAddr g 0) (tctlWord g (setBit (d.tctl g) 0 true)) := by
    unfold Device.tctlTaken
    exact if_neg (by rw [ho]; exact Bool.false_ne_true)
  dsimp only
  rw [tctlWrite_taken hgood, if_neg (by rw [h0, Bool.not_true, Bool.and_false]; exact Bool.false_ne_true), htaken]
  refine ⟨?_, ibi_evc _⟩
  unfold Device.tgEnabled
  rw [tctl_stored hc (ibi_keeps _).2.1]
  exact h0

/-- A disabled target judges its ring's base address, which an on-chip ring does not need. -/
theorem tctlBad_enable {d : Device} {g : Fin 9} (hen : d.tgEnabled g = false) :
    d.tctlBad g (tctlWord g (setBit (d.tctl g) 0 true)) = false ↔ d.tgLoc g = true ∨ (isHost (d.tgBase g) = true ∧ d.tgBase g % (16 * d.tgN g) = 0) := by
  have ho : bit (d.tctl g) 0 = false := hen
  obtain ⟨h0, h8, h1⟩ := tctlWord_fields d g true
  unfold Device.tctlBad
  rw [if_neg (by rw [ho]; exact Bool.false_ne_true), h0, h1, h8, Bool.true_and]
  cases hl : d.tgLoc g with
  | true => simp
  | false =>
    unfold Device.tgN
    rw [if_neg (by rw [hl]; exact Bool.false_ne_true)]
    simp

/-- A target that begins has an empty ring (R556). -/
theorem tctlWrite_begins {d : Device} {g : Fin 9} (hc : d.canonical = true) (hen : d.tgEnabled g = false)
    (hok : d.tgLoc g = true ∨ (isHost (d.tgBase g) = true ∧ d.tgBase g % (16 * d.tgN g) = 0)) :
    let y := d.tctlWrite g (setBit (d.tctl g) 0 true)
    y.tgEnabled g = true ∧ ∀ j, y.tg j = if j = g then { d.tg g with wr := 0, rd := 0, seq := 0, lost := false } else d.tg j := by
  have ho : bit (d.tctl g) 0 = false := hen
  obtain ⟨h0, -, -⟩ := tctlWord_fields d g true
  have hgood := (tctlBad_enable hen).2 hok
  generalize hn : tctlWord g (setBit (d.tctl g) 0 true) = n at *
  have htaken : (d.tctlTaken g n).evc = ((d.setReg (tgtAddr g 0) n).updTg g fun x => { x with wr := 0, rd := 0, seq := 0, lost := false }).evc ∧
      (d.tctlTaken g n).regs = (d.setReg (tgtAddr g 0) n).regs := by
    unfold Device.tctlTaken
    rw [if_pos (by rw [ho, h0]; rfl)]
    split
    · exact zero_keeps _ g
    · exact ⟨rfl, rfl⟩
  dsimp only
  rw [tctlWrite_taken (by rw [hn]; exact hgood), hn, if_neg (by rw [ho]; exact Bool.false_ne_true)]
  refine ⟨?_, fun j => (tg_of (congrArg Evc.tgt ((ibi_evc _).trans htaken.1)) j).trans (updTg_get _ _ _ _)⟩
  unfold Device.tgEnabled
  rw [tctl_stored hc ((ibi_keeps _).2.1.trans htaken.2)]
  exact h0

/-- A target that ends releases what it held (R563). -/
theorem tctlWrite_ends {d : Device} {g : Fin 9} (hc : d.canonical = true) :
    let y := d.tctlWrite g (setBit (d.tctl g) 0 false)
    y.tgEnabled g = false ∧ y.evc.tgt = d.evc.tgt ∧ (d.tgEnabled g = false → y.evc.src = d.evc.src) ∧
      (d.tgEnabled g = true → ∀ e : Fin 256, y.evc.src[e] =
        if d.evc.src[e].insvc && d.evc.src[e].holder == some g then { d.evc.src[e] with insvc := false, holder := none } else d.evc.src[e]) := by
  obtain ⟨h0, h8, h1⟩ := tctlWord_fields d g false
  generalize hn : tctlWord g (setBit (d.tctl g) 0 false) = n at *
  have hgood : d.tctlBad g n = false := by
    unfold Device.tctlBad
    rw [h8, h1, h0, bne_self_eq_false, bne_self_eq_false]
    exact ite_self false
  have htaken : d.tctlTaken g n = d.setReg (tgtAddr g 0) n := by
    unfold Device.tctlTaken
    exact if_neg (by rw [h0, Bool.and_false]; exact Bool.false_ne_true)
  dsimp only
  rw [tctlWrite_taken (by rw [hn]; exact hgood), hn, htaken, h0, Bool.not_false, Bool.and_true]
  unfold Device.tgEnabled
  by_cases ho : bit (d.tctl g) 0 = true
  · rw [if_pos ho]
    refine ⟨?_, by rw [ibi_evc]; rfl, fun h => absurd (h.symm.trans ho) Bool.false_ne_true, fun _ e => ?_⟩
    · rw [tctl_stored (g := g) (n := n) hc ((ibi_keeps ((d.setReg (tgtAddr g 0) n).tgRelease g)).2.1.trans rfl)]
      exact h0
    · rw [ibi_evc]
      exact release_src (d.setReg (tgtAddr g 0) n) g e
  · rw [if_neg ho]
    refine ⟨?_, congrArg Evc.tgt (ibi_evc _), fun _ => congrArg Evc.src (ibi_evc _), fun h => absurd h ho⟩
    rw [tctl_stored (n := n) hc (ibi_keeps _).2.1]
    exact h0

/-- A write of ENABLE of target g is the target's own write. -/
theorem targetCtl_write {s : State} {g : Fin 9} {src : Source} {b : Bool} (ht : s.dev.takes src (tgtAddr g 0) 0xFFFFFFFF (setBit (s.dev.tctl g) 0 b) = true) :
    s.dev.busWrite s.fuses src (tgtAddr g 0) 0xF (setBit (s.dev.tctl g) 0 b) {} =
      (s.dev.arrive src (tgtAddr g 0)).tctlWrite g (setBit ((s.dev.arrive src (tgtAddr g 0)).tctl g) 0 b) := by
  rw [tgt_write s g src 0 _ (by decide) (by decide) ht, evcWrite_ctl, ← arrive_tctl s.dev src (tgtAddr g 0) g, tctl_new]

theorem targetEnable_effect {s : State} {g : Fin 9} {src : Source} (ht : s.dev.takes src (tgtAddr g 0) 0xFFFFFFFF (setBit (s.dev.tctl g) 0 true) = true)
    (hc : s.dev.canonical = true) :
    let ok := s.dev.tgLoc g = true ∨ (isHost (s.dev.tgBase g) = true ∧ s.dev.tgBase g % (16 * s.dev.tgN g) = 0)
    let y := s.dev.busWrite s.fuses src (tgtAddr g 0) 0xF (setBit (s.dev.tctl g) 0 true) {}
    (∀ j, j ≠ g → y.tg j = s.dev.tg j) ∧ (s.dev.tgEnabled g = true → y.tgEnabled g = true ∧ y.tg g = s.dev.tg g) ∧
      (s.dev.tgEnabled g = false → ok → y.tgEnabled g = true ∧ y.tg g = { s.dev.tg g with wr := 0, rd := 0, seq := 0, lost := false }) ∧
      (s.dev.tgEnabled g = false → ¬ ok → y.tctl g = s.dev.tctl g ∧ y.tg g = s.dev.tg g ∧ bit (y.head (pg evcPage)).err 8 = true) := by
  have hcan := canon_arrive s.dev src (tgtAddr g 0) hc
  have hwrite := targetCtl_write ht
  have htg := arrive_tg s.dev src (tgtAddr g 0)
  have hctl := arrive_tctl s.dev src (tgtAddr g 0) g
  obtain ⟨hloc, hn, hbase⟩ := tgt_of (Device.arrive_regs s.dev src (tgtAddr g 0)) g
  have hen : (s.dev.arrive src (tgtAddr g 0)).tgEnabled g = s.dev.tgEnabled g := congrArg (bit · 0) hctl
  dsimp only
  rw [hwrite, ← hloc, ← hn, ← hbase, ← hen, ← hctl]
  simp only [← htg]
  clear hwrite htg hctl hloc hn hbase hen
  generalize s.dev.arrive src (tgtAddr g 0) = d at *
  cases hon : d.tgEnabled g with
  | true =>
    obtain ⟨hen, hevc⟩ := tctlWrite_again hcan hon
    have htg := tg_of (congrArg Evc.tgt hevc)
    exact ⟨fun j _ => htg j, fun _ => ⟨hen, htg g⟩, fun h => (nomatch h), fun h => (nomatch h)⟩
  | false =>
    by_cases hok : d.tgLoc g = true ∨ (isHost (d.tgBase g) = true ∧ d.tgBase g % (16 * d.tgN g) = 0)
    · obtain ⟨hen, htg⟩ := tctlWrite_begins hcan hon hok
      exact ⟨fun j hj => (htg j).trans (if_neg hj), fun h => (nomatch h), fun _ _ => ⟨hen, (htg g).trans (if_pos rfl)⟩, fun _ h => absurd hok h⟩
    · rw [tctlWrite_refused ((Bool.not_eq_false _).mp fun h => hok ((tctlBad_enable hon).1 h))]
      exact ⟨fun j _ => rfl, fun h => (nomatch h), fun _ h => absurd h hok, fun _ _ => ⟨rfl, rfl, err_evc d 8 (by decide)⟩⟩

theorem targetDisable_effect {s : State} {g : Fin 9} {src : Source} (ht : s.dev.takes src (tgtAddr g 0) 0xFFFFFFFF (setBit (s.dev.tctl g) 0 false) = true)
    (hc : s.dev.canonical = true) :
    let d := s.dev.arrive src (tgtAddr g 0)
    let y := s.dev.busWrite s.fuses src (tgtAddr g 0) 0xF (setBit (s.dev.tctl g) 0 false) {}
    y.tgEnabled g = false ∧ y.evc.tgt = s.dev.evc.tgt ∧ (s.dev.tgEnabled g = false → y.evc.src = d.evc.src) ∧
      (s.dev.tgEnabled g = true → ∀ e : Fin 256, y.evc.src[e] =
        if d.evc.src[e].insvc && d.evc.src[e].holder == some g then { d.evc.src[e] with insvc := false, holder := none } else d.evc.src[e]) := by
  have hen : (s.dev.arrive src (tgtAddr g 0)).tgEnabled g = s.dev.tgEnabled g := congrArg (bit · 0) (arrive_tctl s.dev src (tgtAddr g 0) g)
  dsimp only
  rw [targetCtl_write ht, ← hen, ← Device.arrive_tgt s.dev src (tgtAddr g 0)]
  exact tctlWrite_ends (canon_arrive s.dev src (tgtAddr g 0) hc)

/-! ## EVC_RAISE (R547) -/

theorem evcRaise_write {s : State} {src : Source} {n : Fin 2} {data : Word} (ht : s.dev.takes src (pageAddr evcPage (0x080 + 4 * n.val)) 0xFFFFFFFF data = true) :
    s.dev.busWrite s.fuses src (pageAddr evcPage (0x080 + 4 * n.val)) 0xF data {} = (s.dev.arrive src (pageAddr evcPage (0x080 + 4 * n.val))).raise (6 + n.val) data := by
  refine (evc_write s src (0x080 + 4 * n.val) data (by omega) (by omega) (by omega) ht).trans ?_
  unfold Device.evcWrite
  dsimp only
  rw [and_full]
  match n with
  | 0 => exact if_pos rfl
  | 1 => exact (if_neg (by decide)).trans (if_pos rfl)

theorem evcRaise_effect {s : State} {src : Source} {n : Fin 2} {data : Word} (ht : s.dev.takes src (pageAddr evcPage (0x080 + 4 * n.val)) 0xFFFFFFFF data = true) :
    let d := s.dev.arrive src (pageAddr evcPage (0x080 + 4 * n.val))
    let i : Fin 256 := ⟨6 + n.val, by omega⟩
    let y := s.dev.busWrite s.fuses src (pageAddr evcPage (0x080 + 4 * n.val)) 0xF data {}
    (s.dev.srcPrio i = 0 → y.evc = d.evc) ∧
      (s.dev.srcPrio i ≠ 0 → y.evc.src = upd d.evc.src i fun y => { y with pend := true, count := satInc 255 y.count, ts := s.dev.ts, payload := data }) := by
  dsimp only
  rw [evcRaise_write ht, ← arrive_srcPrio s.dev src (pageAddr evcPage (0x080 + 4 * n.val)), ← Device.arrive_ts s.dev src (pageAddr evcPage (0x080 + 4 * n.val))]
  exact ⟨fun h => congrArg Device.evc (raise_zero _ ⟨6 + n.val, by omega⟩ data h), fun h => congrArg Evc.src (raise_src _ ⟨6 + n.val, by omega⟩ data h).1⟩

/-- Settles O50: an arrival, a selection for one target or for a broadcast on chip, a translation fault, and the commands of the targets. -/
theorem eventCommandsComplete : Obligations.EventCommandsComplete := by
  unfold Obligations.EventCommandsComplete
  refine ⟨fun s e payload hl => ⟨_, exec_eventArrival e payload hl, fun hp => congrArg (fun d => ({ s with dev := d } : State)) (raise_zero s.dev e payload hp),
      fun hp => arrival_effect payload hp⟩,
    fun s hl => ⟨_, exec_eventSelect hl, fun h => congrArg (fun d => ({ s with dev := d } : State)) (evSelect_idle false h), fun e g h1 h2 h3 => ⟨?one, ?all, ?faults⟩⟩,
    fun s hl => ⟨_, exec_eventRecordFault hl, fun h => congrArg (fun d => ({ s with dev := d } : State)) (evSelect_idle true h), fun e g h1 h2 h3 => ⟨?marks, ?clean⟩⟩,
    fun s g src => ⟨?eoi, ?rd, ?enable, ?disable, ?raise⟩⟩
  case one => exact fun hb hf => unicast_delivers h1 h2 h3 hb hf
  case all => exact fun hb hloc => broadcast_delivers h1 h2 h3 hb hloc
  case faults =>
    exact fun hb hf => congrArg (fun d => ({ s with dev := d } : State)) (evSelect_other h1 h2 h3 (by rw [unicast_faults g hb, hf]; exact Bool.false_ne_true.symm))
  case marks => exact fun hb hf => unicast_faulted h1 h2 h3 hb hf
  case clean => exact fun hf => congrArg (fun d => ({ s with dev := d } : State)) (evSelect_other h1 h2 h3 (by rw [hf]; exact Bool.false_ne_true))
  case eoi => exact fun e ht => ⟨_, exec_eventEoi g src e s, eoi_effect ht⟩
  case rd => exact fun rd ht => ⟨_, exec_eventRingRdWrite g src rd s, rdWrite_effect ht⟩
  case enable => exact fun ht hc => ⟨_, exec_eventTargetEnable g src s, targetEnable_effect ht hc⟩
  case disable => exact fun ht hc => ⟨_, exec_eventTargetDisable g src s, targetDisable_effect ht hc⟩
  case raise => exact fun n data ht => ⟨_, exec_evcRaise src n data s, evcRaise_effect ht⟩

end Sys2Proof.Machine
end

section
/-! SUPPORT. The commands of a DMA ring: the doorbell, PAUSE, RESUME and ENABLE. -/

set_option maxRecDepth 4000
namespace Sys2Proof.Machine
open Sys2Proof

theorem exec_ringDoorbell (src : Source) (r : Fin 32) (s : State) :
    exec (.ringDoorbell src r) s = .next { s with dev := s.dev.busWrite s.fuses src (pageAddr (ringPage r) 0x04C) 0xF 1 {} } := rfl
theorem exec_ringPause (src : Source) (r : Fin 32) (s : State) :
    exec (.ringPause src r) s = .next { s with dev := s.dev.busWrite s.fuses src (pageAddr (ringPage r) 0x050) 0xF 2 {} } := rfl
theorem exec_ringResume (src : Source) (r : Fin 32) (s : State) :
    exec (.ringResume src r) s = .next { s with dev := s.dev.busWrite s.fuses src (pageAddr (ringPage r) 0x050) 0xF 1 {} } := rfl
theorem exec_ringEnable (src : Source) (r : Fin 32) (on : Bool) (s : State) :
    exec (.ringEnable src r on) s =
      .next { s with dev := s.dev.busWrite s.fuses src (pageAddr (ringPage r) 0x008) 0xF (setBit (s.dev.ctlWord (pg (ringPage r))) 0 on) {} } := rfl

theorem arrive_rg (d : Device) (src : Source) (a : Nat) (j : Fin 32) : (d.arrive src a).rg j = d.rg j := rg_of (Device.arrive_dma d src a) j

theorem arrive_ringEnabled (d : Device) (src : Source) (a : Nat) (r : Fin 32) : (d.arrive src a).ringEnabled r = d.ringEnabled r :=
  ringEnabled_of (arrive_ctl d src a _)

theorem arrive_ringLoc (d : Device) (src : Source) (a : Nat) (r : Fin 32) : (d.arrive src a).ringLoc r = d.ringLoc r := ringLoc_of (Device.arrive_regs d src a) r

theorem arrive_ringPlain {d : Device} {r : Fin 32} (src : Source) (a : Nat) (h : d.ringPlain r) : (d.arrive src a).ringPlain r := by
  unfold Device.ringPlain at *
  rw [arrive_ringEnabled, arrive_rg, arrive_ringLoc]
  exact h

theorem arrive_pcieMayIssue (d : Device) (src : Source) (a : Nat) : (d.arrive src a).pcieMayIssue = d.pcieMayIssue := by
  obtain ⟨hup, hheld, hclk⟩ := tap_up d src
  unfold Device.pcieMayIssue
  rw [Device.arrive_boot, Device.arrive_pcie, hup, hheld, hclk]

theorem arrive_ringNeedsHost (d : Device) (src : Source) (a : Nat) (r : Fin 32) : (d.arrive src a).ringNeedsHost r = d.ringNeedsHost r := by
  unfold Device.ringNeedsHost
  dsimp only
  rw [arrive_rg, arrive_ringLoc]

theorem arrive_ringEnableBad (d : Device) (src : Source) (a : Nat) (r : Fin 32) : (d.arrive src a).ringEnableBad r = d.ringEnableBad r := by
  have hreg : (d.arrive src a).reg = d.reg := funext fun b => Device.arrive_reg d src a b
  unfold Device.ringEnableBad Device.rbase Device.ringN Device.rcfg
  rw [arrive_ringLoc, (fixed_all d src a _).1, hreg]

/-! ## The doorbell (R576, R577) -/

theorem doorbell_effect {s : State} {src : Source} {r : Fin 32} (ht : s.dev.takes src (pageAddr (ringPage r) 0x04C) 0xFFFFFFFF 1 = true) :
    let y := s.dev.busWrite s.fuses src (pageAddr (ringPage r) 0x04C) 0xF 1 {}
    ((s.dev.rg r).st = .idle → RingIs s.dev y r (s.dev.rg r).fetching) ∧ ((s.dev.rg r).st ≠ .idle → RingIs s.dev y r { s.dev.rg r with db := true }) := by
  have hdma := Device.arrive_dma s.dev src (pageAddr (ringPage r) 0x04C)
  have hrg := arrive_rg s.dev src (pageAddr (ringPage r) 0x04C) r
  have hw : s.dev.busWrite s.fuses src (pageAddr (ringPage r) 0x04C) 0xF 1 {} =
      (s.dev.arrive src (pageAddr (ringPage r) 0x04C)).ringDoorbell r (s.dev.requester src).code := by
    rw [ring_write s src r 0x04C 1 (by decide) (by decide) (by decide) ht]
    unfold Device.ringWrite
    exact (if_neg (by decide)).trans (if_pos rfl)
  have hupd := upd_is (s.dev.arrive src (pageAddr (ringPage r) 0x04C)) r fun x => { x with db := true }
  dsimp only
  rw [hw, ← hrg]
  refine ⟨fun hst => ringIs_of (?_ : RingIs (s.dev.arrive src (pageAddr (ringPage r) 0x04C)) _ r _) hdma,
    fun hst => ringIs_of (?_ : RingIs (s.dev.arrive src (pageAddr (ringPage r) 0x04C)) _ r _) hdma⟩
  · unfold Device.ringDoorbell
    dsimp only
    rw [if_pos (by rw [hupd.1]; exact beq_iff_eq.2 hst)]
    have hf := ringIs_trans hupd (fetch_is _ r 0x11 (s.dev.requester src).code)
    rw [hupd.1] at hf
    exact hf
  · unfold Device.ringDoorbell
    dsimp only
    rw [if_neg (by rw [hupd.1]; exact fun h => hst (beq_iff_eq.1 h))]
    exact hupd

/-! ## PAUSE (R590, R591, R595) -/

/-- A ring in one of the states in which a stop acts at once. -/
theorem stop_running {d : Device} {r : Fin 32} (who : Nat) (h1 : (d.rg r).st ≠ .draining) (h2 : (d.rg r).st ≠ .disabled) :
    d.ringStop r who = if (d.rg r).busy then d.ringTo r .draining 0x17 who else d.ringSettle r who := by
  unfold Device.ringStop
  dsimp only
  cases hst : (d.rg r).st with
  | draining => exact absurd hst h1
  | disabled => exact absurd hst h2
  | _ => rfl

theorem stop_still {d : Device} {r : Fin 32} (who : Nat) (h : (d.rg r).st = .draining ∨ ((d.rg r).st = .disabled ∧ (d.rg r).srst = false)) : d.ringStop r who = d := by
  unfold Device.ringStop
  dsimp only
  rcases h with h | ⟨h, hs⟩
  · rw [h]
  · rw [h]
    exact if_neg (by rw [hs]; exact Bool.false_ne_true)

theorem stop_sw {d : Device} {r : Fin 32} (who : Nat) (hs : (d.rg r).srst = false) : ((d.ringStop r who).rg r).sw = (d.rg r).sw := by
  by_cases h : (d.rg r).st = .draining ∨ (d.rg r).st = .disabled
  · rw [stop_still who (h.imp id fun h => ⟨h, hs⟩)]
  · rw [stop_running who (fun q => h (.inl q)) fun q => h (.inr q)]
    split
    · exact (near_to d r .draining 0x17 who).1
    · exact (settle_near d r who fun q => h (.inl q)).2 hs

theorem stop_busy {d : Device} {r : Fin 32} (who : Nat) (h1 : (d.rg r).st ≠ .draining) (h2 : (d.rg r).st ≠ .disabled) (hb : (d.rg r).busy = true) :
    ((d.ringStop r who).rg r).st = .draining ∧ ((d.ringStop r who).rg r).prev = (d.rg r).st := by
  rw [stop_running who h1 h2, if_pos hb, (ringTo_is d r .draining 0x17 who).1]
  exact ⟨rfl, rfl⟩

/-- A ring that runs plainly and has nothing in progress pauses at once. -/
theorem stop_pauses {d : Device} {r : Fin 32} (who : Nat) (hst : (d.rg r).st = .idle ∨ (d.rg r).st = .active ∨ (d.rg r).st = .waitreq) (hb : (d.rg r).busy = false)
    (hc : (d.rg r).caused = true) (hp : d.ringPlain r) :
    ((d.ringStop r who).rg r).st = (d.rg r).pauseState ∧ ((d.ringStop r who).rg r).prev = (d.rg r).st := by
  obtain ⟨hen, hs, hl, hw⟩ := hp
  obtain ⟨h1, h2, h3⟩ : (d.rg r).st ≠ .draining ∧ (d.rg r).st ≠ .disabled ∧ (d.rg r).st.isPaused = false := by
    rcases hst with h | h | h <;> rw [h] <;> decide
  rw [stop_running who h1 h2, if_neg (by rw [hb]; exact Bool.false_ne_true)]
  obtain ⟨-, hto, hprev, -, -⟩ := settle_pause d r who hen hs hl hw hc h3 h1
  exact ⟨hto, hprev⟩

theorem ctl_word_write {s : State} {src : Source} {r : Fin 32} {w : Word} (ht : s.dev.takes src (pageAddr (ringPage r) 0x050) 0xFFFFFFFF w = true) :
    let d := s.dev.arrive src (pageAddr (ringPage r) 0x050)
    let e := if bit w 1 then d.ringPause r (s.dev.requester src).code else d
    s.dev.busWrite s.fuses src (pageAddr (ringPage r) 0x050) 0xF w {} = if bit w 0 then e.ringResume r (s.dev.requester src).code else e := by
  dsimp only
  rw [ring_write s src r 0x050 w (by decide) (by decide) (by decide) ht]
  unfold Device.ringWrite
  dsimp only
  rw [if_neg (by decide), if_neg (by decide), if_pos rfl, and_full]

theorem pause_effect {s : State} {src : Source} {r : Fin 32} (ht : s.dev.takes src (pageAddr (ringPage r) 0x050) 0xFFFFFFFF 2 = true) :
    let x := s.dev.rg r
    let y := s.dev.busWrite s.fuses src (pageAddr (ringPage r) 0x050) 0xF 2 {}
    (x.srst = false → (y.rg r).sw = true) ∧ (∀ j, j ≠ r → y.rg j = s.dev.rg j) ∧
      (x.st = .draining ∨ (x.st = .disabled ∧ x.srst = false) → (y.rg r).st = x.st) ∧
      (x.st ≠ .draining → x.st ≠ .disabled → x.busy = true → (y.rg r).st = .draining ∧ (y.rg r).prev = x.st) ∧
      (x.st = .idle ∨ x.st = .active ∨ x.st = .waitreq → x.busy = false → s.dev.ringPlain r → (y.rg r).st = x.pauseState ∧ (y.rg r).prev = x.st) := by
  have hrg := arrive_rg s.dev src (pageAddr (ringPage r) 0x050)
  have hplain := arrive_ringPlain (d := s.dev) (r := r) src (pageAddr (ringPage r) 0x050)
  dsimp only
  rw [ctl_word_write ht, if_neg (by decide), if_pos (by decide)]
  simp only [← hrg]
  clear hrg
  generalize s.dev.arrive src (pageAddr (ringPage r) 0x050) = d at *
  unfold Device.ringPause
  have hupd := upd_is d r fun x => { x with sw := true }
  have hplain' : d.ringPlain r → (d.updRg r fun x => { x with sw := true }).ringPlain r := fun h => by
    unfold Device.ringPlain at *
    rw [hupd.1]
    exact h
  generalize d.updRg r (fun x => { x with sw := true }) = e at *
  have hst : (e.rg r).st = (d.rg r).st := by rw [hupd.1]
  have hsr : (e.rg r).srst = (d.rg r).srst := by rw [hupd.1]
  have hsw : (e.rg r).sw = true := by rw [hupd.1]
  have hbusy : (e.rg r).busy = (d.rg r).busy := by rw [hupd.1]; rfl
  have hpause : (e.rg r).pauseState = (d.rg r).pauseState := by rw [hupd.1]; rfl
  have hcaused : (e.rg r).caused = true := by unfold Ring.caused; rw [hsw]; rfl
  rw [← hst, ← hsr, ← hbusy, ← hpause]
  refine ⟨fun hs => (stop_sw _ hs).trans hsw, fun j hj => ((stop_facts e r _).2 j hj).trans (hupd.2 j hj), fun h => ?_, fun h1 h2 hb => stop_busy _ h1 h2 hb,
    fun h hb hp => stop_pauses _ h hb hcaused (hplain' (hplain hp))⟩
  rw [stop_still _ h]

/-! ## RESUME (R590, R591, R595) -/

theorem resume_facts (d : Device) (r : Fin 32) (who : Nat) :
    let x := d.rg r
    let y := d.ringResume r who
    (x.st.isPaused = true → x.host = false → y.rg r = { x with sw := false, fault := false, err := false, lease := false, xctx := who }.fetching) ∧
      (x.st.isPaused = true → x.host = true → (y.rg r).st = .paused ∧ (y.rg r).caused = true ∧ (y.rg r).sw = false ∧ (y.rg r).lease = false ∧ (y.rg r).xctx = who) ∧
      (x.st = .draining → y.rg r = { x with latch := some (.resume who) }) ∧ (x.st.isPaused = false → x.st ≠ .draining → y.rg r = x) := by
  have hupd := upd_is d r fun x => { x with sw := false, fault := false, err := false, lease := false, xctx := who }
  have hcaused : ((d.updRg r fun x => { x with sw := false, fault := false, err := false, lease := false, xctx := who }).rg r).caused = (d.rg r).host := by
    rw [hupd.1]
    unfold Ring.caused
    simp
  have hpause : ((d.updRg r fun x => { x with sw := false, fault := false, err := false, lease := false, xctx := who }).rg r).pauseState = .paused := by
    rw [hupd.1]
    rfl
  unfold Device.ringResume
  dsimp only
  refine ⟨fun hp hh => ?_, fun hp hh => ?_, fun hd => ?_, fun hp hd => ?_⟩
  · rw [if_pos hp, if_neg (by rw [hcaused, hh]; exact Bool.false_ne_true), (fetch_is _ r 0x1B who).1, hupd.1]
  · rw [if_pos hp, if_pos (hcaused.trans hh), hpause]
    generalize d.updRg r (fun x => { x with sw := false, fault := false, err := false, lease := false, xctx := who }) = e at *
    by_cases hs : RingState.paused = (d.rg r).st
    · rw [if_pos hs]
      exact ⟨by rw [hupd.1]; exact hs.symm, hcaused.trans hh, by rw [hupd.1], by rw [hupd.1], by rw [hupd.1]⟩
    · rw [if_neg hs, (ringTo_is e r .paused 0x17 who).1]
      exact ⟨rfl, hcaused.trans hh, congrArg Ring.sw hupd.1, congrArg Ring.lease hupd.1, congrArg Ring.xctx hupd.1⟩
  · rw [if_neg (by rw [hd]; decide), if_pos (by rw [hd]; decide)]
    exact (upd_is d r fun x => { x with latch := some (.resume who) }).1
  · rw [if_neg (by rw [hp]; exact Bool.false_ne_true), if_neg fun h => hd (beq_iff_eq.1 h)]

theorem resume_effect {s : State} {src : Source} {r : Fin 32} (ht : s.dev.takes src (pageAddr (ringPage r) 0x050) 0xFFFFFFFF 1 = true) :
    s.dev.busWrite s.fuses src (pageAddr (ringPage r) 0x050) 0xF 1 {} =
      (s.dev.arrive src (pageAddr (ringPage r) 0x050)).ringResume r (s.dev.requester src).code := by
  rw [ctl_word_write ht, if_pos (by decide), if_neg (by decide)]

/-! ## ENABLE (R569, R591, R595) -/

/-- A write of ENABLE of a ring's page acts as the ring does; FREEZE touches neither the rings nor ENABLE. -/
theorem ringEnable_write {d : Device} {src : Source} {r : Fin 32} {on : Bool} (f : OtpArray)
    (ht : d.takesHead src (ringPage r) 0x008 (setBit (d.ctlWord (pg (ringPage r))) 0 on) = true) :
    let e := d.busWrite f src (pageAddr (ringPage r) 0x008) 0xF (setBit (d.ctlWord (pg (ringPage r))) 0 on) {}
    let y := (d.arrive src (pageAddr (ringPage r) 0x008)).enableWrite (ringPage r) on (d.requester src).code
    (∀ j, e.rg j = y.rg j) ∧ e.ringEnabled r = y.ringEnabled r ∧ (e.head (pg (ringPage r))).err = (y.head (pg (ringPage r))).err := by
  have h0 : bit (setBit (d.ctlWord (pg (ringPage r))) 0 on) 0 = on := by rw [bit_setBit _ _ _ _ (by decide), if_pos rfl]
  have h1 : bit (setBit (d.ctlWord (pg (ringPage r))) 0 on) 1 = false := by
    rw [bit_setBit _ _ _ _ (by decide), if_neg (by decide)]
    unfold Device.ctlWord
    rw [bit_setBit _ _ _ _ (by decide), if_pos rfl]
  have hval : (pg (ringPage r)).val = ringPage r := Nat.mod_eq_of_lt (by unfold ringPage; omega)
  have hw := head_write_ctl d f src (pg (ringPage r)) (setBit (d.ctlWord (pg (ringPage r))) 0 on) (by rw [hval]; exact ring_page r) (by rw [hval]; exact ht)
  rw [hval, ctlWrite_full] at hw
  dsimp only at hw ⊢
  rw [h0, h1, if_neg (by decide), Device.arrive_requester] at hw
  rw [hw]
  obtain ⟨hdma, hctl, herr⟩ := freeze_ring ((d.arrive src (pageAddr (ringPage r) 0x008)).enableWrite (ringPage r) on (d.requester src).code) src (ringPage r)
    (bit (setBit (d.ctlWord (pg (ringPage r))) 0 on) 2)
  exact ⟨fun j => rg_of hdma j, hctl, herr⟩

/-- What a write of ENABLE does to its own ring and to ENABLE. -/
def RingEnables (d y : Device) (r : Fin 32) (on : Bool) (who : Nat) : Prop :=
  let x := d.rg r
  (∀ j, j ≠ r → y.rg j = d.rg j) ∧
    (on = true → d.ringEnabled r = false →
      (d.ringEnableBad r = true → y.ringEnabled r = false ∧ y.rg r = x ∧ bit (y.head (pg (ringPage r))).err 8 = true) ∧
      (d.ringEnableBad r = false → y.ringEnabled r = true ∧ (x.st = .disabled →
        let z := { x with xctx := who, host := !d.pcieMayIssue && d.ringNeedsHost r }
        (z.caused = false → y.rg r = z.fetching) ∧ (z.caused = true → (y.rg r).st = z.pauseState ∧ (y.rg r).prev = .disabled)))) ∧
    (on = false → d.ringEnabled r = true → y.ringEnabled r = false ∧
      (x.st = .idle → x.busy = false → x.srst = false → (y.rg r).st = .disabled ∧ (y.rg r).prev = .idle) ∧
      (x.st ≠ .draining → x.st ≠ .disabled → x.busy = true → (y.rg r).st = .draining))

theorem run_ctl (d : Device) (r : Fin 32) (who : Nat) : CtlSame d (d.ringRun r who) := by
  unfold Device.ringRun
  dsimp only
  refine ctl_trans (b := d.updRg r fun x => { x with xctx := who, host := !d.pcieMayIssue && d.ringNeedsHost r }) (fun _ => rfl) ?_
  split
  · exact ctl_to _ _ _ _ _
  · exact ctl_trans (ctl_to _ r .fetch 0x10 who) fun _ => rfl

theorem ringEnable_ctl (d : Device) (r : Fin 32) (on : Bool) (who : Nat) : CtlSame d (d.ringEnable r on who) := by
  unfold Device.ringEnable
  cases on with
  | false => exact (stop_facts d r who).1
  | true =>
    cases (d.rg r).st with
    | disabled => exact run_ctl d r who
    | _ => exact fun _ => rfl

theorem ringEnable_others (d : Device) (r : Fin 32) (on : Bool) (who : Nat) : Others d (d.ringEnable r on who) r := by
  unfold Device.ringEnable
  cases on with
  | false => exact (stop_facts d r who).2
  | true =>
    cases (d.rg r).st with
    | disabled => exact run_others d r who
    | draining => exact others_upd d r _
    | _ => exact fun _ _ => rfl

/-- A disabled ring that is enabled reads its first descriptor, or pauses with its causes. -/
theorem run_facts (d : Device) (r : Fin 32) (who : Nat) (hst : (d.rg r).st = .disabled) :
    let z := { d.rg r with xctx := who, host := !d.pcieMayIssue && d.ringNeedsHost r }
    (z.caused = false → (d.ringRun r who).rg r = z.fetching) ∧ (z.caused = true → ((d.ringRun r who).rg r).st = z.pauseState ∧ ((d.ringRun r who).rg r).prev = .disabled) := by
  have hupd := upd_is d r fun x => { x with xctx := who, host := !d.pcieMayIssue && d.ringNeedsHost r }
  unfold Device.ringRun
  dsimp only
  refine ⟨fun hc => ?_, fun hc => ?_⟩
  · rw [if_neg (by rw [hupd.1, hc]; exact Bool.false_ne_true), (fetch_is _ r 0x10 who).1, hupd.1]
  · rw [if_pos (by rw [hupd.1]; exact hc), (ringTo_is _ r _ 0x10 who).1, hupd.1]
    exact ⟨rfl, hst⟩

theorem ringEnable_runs {d : Device} {r : Fin 32} (who : Nat) (hst : (d.rg r).st = .disabled) : d.ringEnable r true who = d.ringRun r who := by
  unfold Device.ringEnable
  rw [hst]
  exact if_pos rfl

/-- An idle ring whose ENABLE is 0 is disabled where nothing is in progress. -/
theorem settle_disables {d : Device} {r : Fin 32} (who : Nat) (hen : d.ringEnabled r = false) (hst : (d.rg r).st = .idle) (hs : (d.rg r).srst = false) :
    ((d.ringSettle r who).rg r).st = .disabled ∧ ((d.ringSettle r who).rg r).prev = .idle := by
  unfold Device.ringSettle
  dsimp only
  rw [hst, if_neg (by decide), hs, if_neg Bool.false_ne_true, hen, if_pos (by rw [Bool.not_false, Bool.true_or])]
  generalize hz : (if ((d.rg r).work && !RingState.idle.isPaused) = true then d.writeStatus r 7 else d) = z
  have hzst : (z.rg r).st = .idle := by
    rw [← hz]
    split
    · exact (writeStatus_same d r 7).1.trans hst
    · exact hst
  rw [hzst, if_neg (by decide), (ringTo_is z r .disabled 0x1A who).1]
  exact ⟨rfl, hzst⟩

theorem enabled_head (d : Device) (r : Fin 32) (on : Bool) : (d.updHdr (pg (ringPage r)) fun h => { h with ctl := setBit h.ctl 0 on }).ringEnabled r = on :=
  (keep_ctl d (pg (ringPage r)) on).2

theorem enableWrite_ring (d : Device) (r : Fin 32) (on : Bool) (who : Nat) : RingEnables d (d.enableWrite (ringPage r) on who) r on who := by
  unfold RingEnables
  rw [ring_of]
  have hctl : (((d.updHdr (pg (ringPage r)) fun h => { h with ctl := setBit h.ctl 0 on }).ringEnable r on who)).ringEnabled r = on :=
    (ringEnabled_of (ringEnable_ctl _ r on who _)).trans (enabled_head d r on)
  have hoth := ringEnable_others (d.updHdr (pg (ringPage r)) fun h => { h with ctl := setBit h.ctl 0 on }) r on who
  by_cases hsame : on = d.ringEnabled r
  · rw [if_pos hsame]
    exact ⟨fun _ _ => rfl, fun h1 h2 => absurd (h1.symm.trans (hsame.trans h2)) Bool.false_ne_true.symm,
      fun h1 h2 => absurd (h1.symm.trans (hsame.trans h2)) Bool.false_ne_true⟩
  rw [if_neg hsame]
  cases on with
  | true =>
    cases hbad : d.ringEnableBad r with
    | true =>
      rw [if_pos (by decide)]
      exact ⟨fun _ _ => rfl, fun _ hen => ⟨fun _ => ⟨(ringEnabled_of (ctl_err d (ringPage r) (errBit 8) _)).trans hen, rfl, setErr_bit d (ringPage r) 8 (by decide)⟩, fun h => (nomatch h)⟩, fun h => (nomatch h)⟩
    | false =>
      rw [if_neg (by decide)]
      refine ⟨hoth, fun _ _ => ⟨fun h => (nomatch h), fun _ => ⟨hctl, fun hst => ?_⟩⟩, fun h => (nomatch h)⟩
      rw [ringEnable_runs (d := d.updHdr (pg (ringPage r)) fun h => { h with ctl := setBit h.ctl 0 true }) who hst]
      exact run_facts (d.updHdr (pg (ringPage r)) fun h => { h with ctl := setBit h.ctl 0 true }) r who hst
  | false =>
    rw [if_neg (by rw [Bool.false_and]; exact Bool.false_ne_true)]
    refine ⟨hoth, fun h => (nomatch h), fun _ _ => ⟨hctl, fun hst hb hs => ?_, fun h1 h2 hb => ?_⟩⟩
    · refine Eq.mpr (congrArg (fun e : Device => (e.rg r).st = .disabled ∧ (e.rg r).prev = .idle) ?_) (settle_disables who (enabled_head d r false) hst hs)
      exact (stop_running who (by rw [show (Device.updHdr _ _ _).rg r = d.rg r from rfl, hst]; decide) (by rw [show (Device.updHdr _ _ _).rg r = d.rg r from rfl, hst]; decide)).trans
        (if_neg (by rw [show (Device.updHdr _ _ _).rg r = d.rg r from rfl, hb]; exact Bool.false_ne_true))
    · exact (stop_busy (d := d.updHdr (pg (ringPage r)) fun h => { h with ctl := setBit h.ctl 0 false }) who h1 h2 hb).1

theorem ringEnable_effect {s : State} {src : Source} {r : Fin 32} {on : Bool} (ht : s.dev.takesHead src (ringPage r) 0x008 (setBit (s.dev.ctlWord (pg (ringPage r))) 0 on) = true) :
    RingEnables s.dev (s.dev.busWrite s.fuses src (pageAddr (ringPage r) 0x008) 0xF (setBit (s.dev.ctlWord (pg (ringPage r))) 0 on) {}) r on (s.dev.requester src).code := by
  obtain ⟨hrg, hen, herr⟩ := ringEnable_write s.fuses ht
  have h := enableWrite_ring (s.dev.arrive src (pageAddr (ringPage r) 0x008)) r on (s.dev.requester src).code
  unfold RingEnables at *
  dsimp only at *
  simp only [arrive_rg, arrive_ringEnabled, arrive_ringEnableBad, arrive_pcieMayIssue, arrive_ringNeedsHost, ← hrg, ← hen, ← herr] at h
  exact h

/-- Settles O51: a doorbell, PAUSE, RESUME and ENABLE of a ring. -/
theorem ringCommandsComplete : Obligations.RingCommandsComplete := by
  unfold Obligations.RingCommandsComplete
  refine fun s r src => ⟨fun ht => ⟨_, exec_ringDoorbell src r s, doorbell_effect ht⟩, fun ht => ⟨_, exec_ringPause src r s, pause_effect ht⟩, fun ht => ?resume,
    fun on ht => ⟨_, exec_ringEnable src r on s, ringEnable_effect ht⟩⟩
  case resume =>
    refine ⟨_, (exec_ringResume src r s).trans (next_of s (resume_effect ht)), fun j hj => ((resume_others _ r _ j hj).trans (arrive_rg ..)), ?_⟩
    have h := resume_facts (s.dev.arrive src (pageAddr (ringPage r) 0x050)) r (s.dev.requester src).code
    dsimp only at h
    rw [arrive_rg] at h
    exact h

end Sys2Proof.Machine
end

section
/-! SUPPORT. The DMA engine's own events: a descriptor read, the arbiter's burst, a burst's end and a host error. -/

set_option maxRecDepth 4000
namespace Sys2Proof.Machine
open Sys2Proof

theorem exec_descriptorFetch {s : State} (r : Fin 32) (host : Vector Word 8) (h : s.dev.live = true) :
    exec (.descriptorFetch r host) s = .next { s with dev := s.dev.descFetch r host } := live_next s (fun d => d.descFetch r host) h
theorem exec_burstStart {s : State} (h : s.dev.live = true) : exec .burstStart s = .next { s with dev := s.dev.dmaArbitrate } :=
  live_next s (fun d => d.dmaArbitrate) h
theorem exec_burstComplete {s : State} (r : Fin 32) (moved : Nat) (data : List Byte) (h : s.dev.live = true) :
    exec (.burstComplete r moved data) s = .next { s with dev := s.dev.burstComplete s.fuses r moved data } :=
  live_next s (fun d => d.burstComplete s.fuses r moved data) h
theorem exec_hostErr {s : State} (r : Fin 32) (moved : Nat) (data : List Byte) (h : s.dev.live = true) :
    exec (.hostErr r moved data) s = .next { s with dev := s.dev.hostError s.fuses r moved data } :=
  live_next s (fun d => d.hostError s.fuses r moved data) h

theorem pcieMayIssue_of {d e : Device} (hb : e.boot = d.boot) (hp : e.pcie = d.pcie) : e.pcieMayIssue = d.pcieMayIssue := by
  unfold Device.pcieMayIssue
  rw [hb, hp]

/-! ## A descriptor read that returns (R575, R591, R592) -/

theorem descFetch_none {d : Device} {r : Fin 32} (host : Vector Word 8) (h : (d.rg r).reading = false) : d.descFetch r host = d := by
  unfold Device.descFetch
  exact if_pos (by rw [h]; rfl)

theorem descFetch_effect {d : Device} {r : Fin 32} (host : Vector Word 8) (h : (d.rg r).reading = true) (hst : (d.rg r).st ≠ .draining) (hl : d.ringLoc r = true) :
    let x := d.rg r
    let w : Vector Word 8 := Vector.ofFn fun i => d.ramWord (d.descAddr r x.head + 4 * i.val)
    let y := { x with reading := false, desc := w, fence := d.burstMap }
    let e := d.descFetch r host
    (∀ j, j ≠ r → e.rg j = d.rg j) ∧
      (bit w[0] 31 = false → x.db = false → e.rg r = { y with offset := 0, prev := x.st, st := .idle, work := false }) ∧
      (bit w[0] 31 = false → x.db = true → e.rg r = { y with offset := 0 }.fetching) ∧
      (bit w[0] 31 = true → y.type = 0 → x.offset < y.length → d.pcieMayIssue = true → x.host = false → e.rg r = { y with prev := x.st, st := .active, work := true }) ∧
      (bit w[0] 31 = true → y.type ≠ 0 → y.type ≠ 1 → y.type ≠ 0x1F → (e.rg r).err = true ∧ (e.rg r).res = 5 ∧ (e.rg r).lastRes = 5 ∧
        (e.rg r).st = if x.fault then .pausedFault else .pausedErr) := by
  have hrg : ∀ j, (d.pmcCountAll 0x22 2).rg j = d.rg j := fun j => rg_of (keeps_dma (by simp)) j
  have hregs : (d.pmcCountAll 0x22 2).regs = d.regs := keeps_regs (by simp)
  have hmay : (d.pmcCountAll 0x22 2).pcieMayIssue = d.pcieMayIssue := pcieMayIssue_of (keeps_boot (by simp)) (keeps_pcie (by simp))
  dsimp only
  rw [descFetch_loc d r host h hl]
  refine ⟨fun j hj => (after_others _ r _ _ j hj).trans (hrg j), ?_⟩
  have hpart := after_part (d.pmcCountAll 0x22 2) r (Vector.ofFn fun i : Fin 8 => d.ramWord (d.descAddr r (d.rg r).head + 4 * i.val)) d.burstMap
    (by rw [hrg]; exact hst) ((ringLoc_of hregs r).trans hl)
  dsimp only at hpart
  rw [hrg, hmay] at hpart
  exact hpart

/-! ## The arbiter's burst (R585, R603) -/

theorem arbitrate_off {d : Device} (h : bit (d.head (pg 0x070)).ctl 0 = false ∨ 8 ≤ d.burstCount) : d.dmaArbitrate = d := by
  unfold Device.dmaArbitrate
  refine if_neg fun hc => ?_
  obtain ⟨hen, hlt⟩ := Bool.and_eq_true _ _ ▸ hc
  rcases h with h | h
  · exact Bool.false_ne_true (h.symm.trans hen)
  · exact absurd (of_decide_eq_true hlt) (Nat.not_lt.2 h)

theorem arbitrate_on {d : Device} (hen : bit (d.head (pg 0x070)).ctl 0 = true) (hlt : d.burstCount < 8) :
    (d.sampleRequests.arbitrate = none → d.dmaArbitrate = d.sampleRequests) ∧
      ∀ r, d.sampleRequests.arbitrate = some r → d.dmaArbitrate = (d.sampleRequests.burstStart r).syncState 0x070 1 0x02 byHw := by
  unfold Device.dmaArbitrate
  rw [if_pos (by rw [hen]; exact decide_eq_true hlt)]
  refine ⟨fun h => ?_, fun r h => ?_⟩
  · dsimp only
    rw [h]
  · dsimp only
    rw [h]

/-! ## The end of a burst (R580, R587) -/

theorem burstComplete_none {d : Device} {r : Fin 32} (f : OtpArray) (moved : Nat) (data : List Byte) (h : (d.rg r).burst = none) : d.burstComplete f r moved data = d := by
  unfold Device.burstComplete
  rw [h]

/-- The bytes of a burst between host addresses go out in one posted write. -/
theorem host_funnel {d : Device} {r : Fin 32} {n h : Nat} {data : List Byte} (f : OtpArray) (hs : (d.rg r).isStream = false)
    (ha : 0x1000000 ≤ (d.rg r).src + (d.rg r).offset) (hle : n ≤ data.length) (hpos : 0 < n) (hmay : d.pcieMayIssue = true) :
    ∃ u : FunnelRun, (d.burstRead r n data).2.burstWrite f r (some h) (d.burstRead r n data).1 = u ∧ u.refused = false ∧ u.done = n ∧ u.dev.dma = d.dma ∧
      u.dev.pcieMayIssue = true ∧ .hostWrite h (data.take n) ∈ u.dev.out := by
  have hdone : (data.take n).length = n := by rw [List.length_take]; omega
  have hne : (data.take n).isEmpty = false := by
    rw [← Bool.not_eq_true, List.isEmpty_iff_length_eq_zero, hdone]
    omega
  obtain ⟨k, hread⟩ := read_host d r n data hs ha
  rw [hread]
  have hydma : (d.pmcCountAll 0x22 k).dma = d.dma := keeps_dma (by simp)
  have hymay : (d.pmcCountAll 0x22 k).pcieMayIssue = true := (pcieMayIssue_of (keeps_boot (by simp)) (keeps_pcie (by simp))).trans hmay
  generalize d.pmcCountAll 0x22 k = y at *
  obtain ⟨m, hwrite⟩ := write_host y f r h (data.take n) hne hymay
  obtain ⟨sdma, sboot, spcie, sout⟩ := send_out y (.hostWrite h (data.take n))
  generalize y.sendTlp (.hostWrite h (data.take n)) = z at *
  have hdma : (z.pmcCountAll 0x22 m).dma = z.dma := keeps_dma (by simp)
  have hmayz : (z.pmcCountAll 0x22 m).pcieMayIssue = z.pcieMayIssue := pcieMayIssue_of (keeps_boot (by simp)) (keeps_pcie (by simp))
  have hout : (z.pmcCountAll 0x22 m).out = z.out := keeps_out (by simp)
  refine ⟨_, hwrite, rfl, hdone, hdma.trans (sdma.trans hydma), hmayz.trans ((pcieMayIssue_of sboot spcie).trans hymay), ?_⟩
  show Outgoing.hostWrite h (data.take n) ∈ (z.pmcCountAll 0x22 m).out
  rw [hout]
  exact sout

theorem burst_out (y : Device) (r : Fin 32) (n : Nat) (g : Ring → Ring) : (((y.pmcCount 0x25 r.val n).updRg r g).burstOver r).out = y.out := keeps_out (by simp)

theorem burstComplete_host_eq {d : Device} {r : Fin 32} {b : Burst} (f : OtpArray) (moved : Nat) (data : List Byte) (hb : (d.rg r).burst = some b)
    (hmay : d.pcieMayIssue = true) : d.burstComplete f r moved data = d.burstEnd f r b b.limit data false := by
  have hbytes : d.burstBytes b moved = b.limit := if_neg (by rw [hmay, Bool.not_true, Bool.and_false]; exact Bool.false_ne_true)
  unfold Device.burstComplete
  rw [hb]
  dsimp only
  rw [hbytes]

/-- A burst between host addresses moves what its lookups reach, while its descriptor has more. -/
theorem burstComplete_host {d : Device} {r : Fin 32} {b : Burst} {h : Nat} {data : List Byte} (f : OtpArray) (moved : Nat) (hb : (d.rg r).burst = some b)
    (hdst : b.dstHost = some h) (hf : b.fault = none) (hs : (d.rg r).isStream = false) (ha : 0x1000000 ≤ (d.rg r).src + (d.rg r).offset) (hle : b.limit ≤ data.length)
    (hpos : 0 < b.limit) (hmay : d.pcieMayIssue = true) (hst : (d.rg r).st = .active) (hc : (d.rg r).caused = false) (hmore : (d.rg r).offset + b.limit < (d.rg r).length) :
    let e := d.burstComplete f r moved data
    (e.rg r).burst = none ∧ (e.rg r).offset = (d.rg r).offset + b.limit ∧ (e.rg r).st = .active ∧ .hostWrite h (data.take b.limit) ∈ e.out := by
  obtain ⟨u, hu, hrefused, hdone, hdma, humay, hout⟩ := host_funnel (h := h) f hs ha hle hpos hmay
  rw [← hdst] at hu
  obtain ⟨heq, hnone, hoff, hact⟩ := end_plain d f r b b.limit data u hu hrefused hf hdma humay hst hc (by rw [hdone]; exact hmore)
  dsimp only
  rw [burstComplete_host_eq f moved data hb hmay]
  rw [hdone] at hoff
  refine ⟨hnone, hoff, hact, ?_⟩
  rw [heq, burst_out]
  exact hout

/-! ## An error of a host read (R592) -/

theorem hostErr_none {d : Device} {r : Fin 32} (f : OtpArray) (moved : Nat) (data : List Byte) (hb : (d.rg r).burst = none) (h : (d.rg r).reading = false ∨ d.ringLoc r = true) :
    d.hostError f r moved data = d := by
  unfold Device.hostError
  rw [hb]
  refine if_neg fun hc => ?_
  obtain ⟨hr, hl⟩ := Bool.and_eq_true _ _ ▸ hc
  rcases h with h | h
  · exact Bool.false_ne_true (h.symm.trans hr)
  · rw [h] at hl
    exact Bool.false_ne_true hl

theorem pg_ring_ne (r : Fin 32) : pg (ringPage r) ≠ pg 0x070 ∧ pg (ringPage r) ≠ pg 0x060 := by revert r; decide

/-- A host error sets cause ERR with RESULT 4, HOSTERR of the ring's page and of the engine's. -/
theorem ringHostErr_facts (d : Device) (r : Fin 32) :
    let e := d.ringHostErr r
    RingIs d e r { d.rg r with err := true, res := 4 } ∧ e.ringEnabled r = d.ringEnabled r ∧ bit (e.head (pg (ringPage r))).err 10 = true ∧ bit (e.head (pg 0x070)).err 9 = true := by
  obtain ⟨hdma, hevc⟩ := pg_ring_ne r
  have hupd := upd_is d r fun x => { x with err := true, res := 4 }
  unfold Device.ringHostErr
  dsimp only
  generalize hy : d.updRg r (fun x => { x with err := true, res := 4 }) = y at *
  have hctl : CtlSame d ((y.setErr (ringPage r) (errBit 10)).setErr 0x070 (errBit 9)) := by
    rw [← hy]
    exact ctl_trans (ctl_err _ _ _) (ctl_err _ _ _)
  have hring : bit (((y.setErr (ringPage r) (errBit 10)).setErr 0x070 (errBit 9)).head (pg (ringPage r))).err 10 = true := by
    refine Eq.trans ?_ (setErr_bit y (ringPage r) 10 (by decide))
    exact congrArg (fun h : PageHdr => bit h.err 10) (Device.head_updHdr_other _ _ hdma)
  have hengine := setErr_bit (y.setErr (ringPage r) (errBit 10)) 0x070 9 (by decide)
  generalize hz : (y.setErr (ringPage r) (errBit 10)).setErr 0x070 (errBit 9) = z at *
  have hzrg : ∀ j, z.rg j = y.rg j := fun j => by rw [← hz]; rfl
  have hraise : ∀ w j, (z.raise 126 w).rg j = z.rg j := fun w j => rg_of (keeps_dma (by simp)) j
  refine ⟨⟨(hraise _ r).trans ((hzrg r).trans hupd.1), fun j hj => (hraise _ j).trans ((hzrg j).trans (hupd.2 j hj))⟩,
    (ringEnabled_of (ctl_fixed (raise_fixed z _ _) _)).trans (ringEnabled_of (hctl _)), ?_, ?_⟩
  · rw [raise_heads _ _ _ _ hevc]
    exact hring
  · rw [raise_heads _ _ _ _ (by decide)]
    exact hengine

theorem hostErr_read {d : Device} {r : Fin 32} (f : OtpArray) (moved : Nat) (data : List Byte) (hb : (d.rg r).burst = none) (hr : (d.rg r).reading = true)
    (hst : (d.rg r).st = .fetch) (hw : (d.rg r).work = false) (hf : (d.rg r).fault = false) (hp : d.ringPlain r) (hl : d.ringLoc r = false) :
    let e := d.hostError f r moved data
    RingIs d e r { d.rg r with reading := false, err := true, res := 4, prev := .fetch, st := .pausedErr } ∧
      bit (e.head (pg (ringPage r))).err 10 = true ∧ bit (e.head (pg 0x070)).err 9 = true := by
  obtain ⟨hen, hsr, hlatch, -⟩ := hp
  have hupd := upd_is d r fun x => { x with reading := false }
  have henu : (d.updRg r fun x => { x with reading := false }).ringEnabled r = true := hen
  dsimp only
  unfold Device.hostError
  rw [hb]
  dsimp only
  rw [hr, hl, if_pos (by decide)]
  generalize d.updRg r (fun x => { x with reading := false }) = y at *
  obtain ⟨hz, hzen, herr, hengine⟩ := ringHostErr_facts y r
  have hzr := ringIs_trans hupd hz
  rw [hupd.1] at hzr
  generalize y.ringHostErr r = z at *
  have hpause : (z.rg r).pauseState = .pausedErr := by
    rw [hzr.1]
    unfold Ring.pauseState
    rw [if_neg (by rw [hf]; exact Bool.false_ne_true)]
    exact if_pos rfl
  have hzst : (z.rg r).st = .fetch := by rw [hzr.1]; exact hst
  have hsettle := settle_eq z r (hzen.trans henu) (by rw [hzr.1]; exact hsr) (by rw [hzr.1]; exact hlatch) (by rw [hzr.1]; exact hw)
    (by rw [hzr.1]; unfold Ring.caused; simp) (by rw [hpause, hzst]; decide) (by rw [hzst]; decide)
  rw [hsettle, hpause]
  have hto := ringIs_trans hzr (ringTo_is z r .pausedErr 0x17 byHw)
  have herrs : ∀ p, ((z.ringTo r .pausedErr 0x17).head p).err = (z.head p).err := fun p => (PageHdr.fixed_eq ((ringTo_facts z r .pausedErr 0x17 byHw).2.1 p)).2.2.2.2.2.2
  refine ⟨⟨hto.1.trans ?_, hto.2⟩, (congrArg (bit · 10) (herrs _)).trans herr, (congrArg (bit · 9) (herrs _)).trans hengine⟩
  show { z.rg r with prev := (z.rg r).st, st := .pausedErr, work := (z.rg r).work } = _
  rw [hzr.1]
  dsimp only
  rw [hst, hb]

/-- Settles O52: a descriptor read that returns, the arbiter's burst, a burst's end between host addresses, and a host error. -/
theorem dmaEventsComplete : Obligations.DmaEventsComplete := by
  unfold Obligations.DmaEventsComplete
  refine fun s r hl => ⟨fun host => ⟨?unread, ?read⟩, ⟨?off, fun hen hlt => ⟨?lost, ?won⟩⟩, fun moved data => ⟨?idle, ?moves⟩, fun moved data => ⟨?clean, ?error⟩⟩
  case unread => exact fun h => (exec_descriptorFetch r host hl).trans (next_of s (e' := s.dev) (descFetch_none host h))
  case read => exact fun h hst hloc => ⟨_, exec_descriptorFetch r host hl, descFetch_effect host h hst hloc⟩
  case off => exact fun h => (exec_burstStart hl).trans (next_of s (e' := s.dev) (arbitrate_off h))
  case lost => exact fun h => (exec_burstStart hl).trans (next_of s ((arbitrate_on hen hlt).1 h))
  case won => exact fun h => ⟨_, (exec_burstStart hl).trans (next_of s ((arbitrate_on hen hlt).2 r h)), start_facts s.dev.sampleRequests r⟩
  case idle => exact fun h => (exec_burstComplete r moved data hl).trans (next_of s (e' := s.dev) (burstComplete_none s.fuses moved data h))
  case moves =>
    exact fun b h hb hdst hf hs ha hle hpos hmay hst hc _ hmore =>
      ⟨_, exec_burstComplete r moved data hl, burstComplete_host s.fuses moved hb hdst hf hs ha hle hpos hmay hst hc hmore⟩
  case clean => exact fun hb h => (exec_hostErr r moved data hl).trans (next_of s (e' := s.dev) (hostErr_none s.fuses moved data hb h))
  case error => exact fun hb hr hst hw hf hp hloc => ⟨_, exec_hostErr r moved data hl, hostErr_read s.fuses moved data hb hr hst hw hf hp hloc⟩

end Sys2Proof.Machine
end

section
/-! SUPPORT. The window table: the two words of an entry, and the synchronisation. -/

set_option maxRecDepth 4000
namespace Sys2Proof.Machine
open Sys2Proof

theorem exec_windowEntryWrite (src : Source) (e : Fin 1024) (one : Bool) (data : Word) (s : State) :
    exec (.windowEntryWrite src e one data) s = .next { s with dev := s.dev.busWrite s.fuses src (0x110000 + 8 * e.val + 4 * b2n one) 0xF data {} } := rfl
theorem exec_xltSync (src : Source) (s : State) : exec (.xltSync src) s = .next { s with dev := s.dev.busWrite s.fuses src 0x0A0044 0xF 1 {} } := rfl
theorem exec_xltSyncComplete {s : State} (h : s.dev.live = true) : exec .xltSyncComplete s = .next { s with dev := s.dev.xltSyncDone } :=
  live_next s (fun d => d.xltSyncDone) h

/-! ## The words of an entry (R601, R602) -/

/-- Word 1 is held for its requester, where the entry is its own. -/
theorem windowOne_facts (d : Device) (i who : Nat) (admin : Bool) (w : Word) :
    let mine := admin || !bit (d.reg (xltAddr i 0)) 15 || bits (d.reg (xltAddr i 0)) 12 10 == who
    let y := d.windowWrite i true who admin w
    y.regs = d.regs ∧ (mine = true → y.dma = { d.dma with xlt := { d.dma.xlt with held := d.dma.xlt.held.set (Fin.ofNat 16 who) (some w) } }) ∧
      (mine = false → y.dma = d.dma ∧ bit (y.head (pg 0x0A0)).err 1 = true) := by
  unfold Device.windowWrite
  dsimp only
  rw [if_pos rfl]
  cases h : (admin || !bit (d.reg (xltAddr i 0)) 15 || bits (d.reg (xltAddr i 0)) 12 10 == who) with
  | true => exact ⟨rfl, fun _ => rfl, fun q => (nomatch q)⟩
  | false => exact ⟨rfl, fun q => (nomatch q), fun _ => ⟨rfl, err_bit d (pg 0x0A0) 1 (by decide)⟩⟩

theorem windowOne_effect {s : State} {src : Source} {e : Fin 1024} {data : Word} (ht : s.dev.takes src (0x110000 + 8 * e.val + 4) 0xFFFFFFFF data = true) :
    let who : Fin 16 := Fin.ofNat 16 (s.dev.requester src).code
    let i := 1024 * b2n s.dev.dma.xlt.bank[who] + e.val
    let admin := s.dev.isAdmin (s.dev.requester src)
    let mine := admin || !bit (s.dev.reg (xltAddr i 0)) 15 || bits (s.dev.reg (xltAddr i 0)) 12 10 == (s.dev.requester src).code
    let y := s.dev.busWrite s.fuses src (0x110000 + 8 * e.val + 4 * b2n true) 0xF data {}
    y.regs = s.dev.regs ∧ (mine = true → y.dma = { s.dev.dma with xlt := { s.dev.dma.xlt with held := s.dev.dma.xlt.held.set who (some data) } }) ∧
      (mine = false → y.dma = s.dev.dma ∧ bit (y.head (pg 0x0A0)).err 1 = true) := by
  dsimp only
  rw [win_write s src e true data ht]
  have h := windowOne_facts (s.dev.arrive src (0x110000 + 8 * e.val + 4 * b2n true))
    (1024 * b2n s.dev.dma.xlt.bank[Fin.ofNat 16 (s.dev.requester src).code] + e.val) (s.dev.requester src).code (s.dev.isAdmin (s.dev.requester src)) data
  dsimp only at h
  rw [Device.arrive_reg, Device.arrive_regs, Device.arrive_dma] at h
  exact h

theorem arrive_windowMay (d : Device) (src : Source) (a i who : Nat) (admin : Bool) (w : Word) :
    (d.arrive src a).windowMay i who admin w = d.windowMay i who admin w := by
  unfold Device.windowMay
  rw [Device.arrive_reg]

/-- Word 0 stores both words of an entry that the requester may write. -/
theorem windowZero_effect {s : State} {src : Source} {e : Fin 1024} {data : Word} (ht : s.dev.takes src (0x110000 + 8 * e.val) 0xFFFFFFFF data = true)
    (hc : s.dev.canonical = true) :
    let who : Fin 16 := Fin.ofNat 16 (s.dev.requester src).code
    let i := 1024 * b2n s.dev.dma.xlt.bank[who] + e.val
    let admin := s.dev.isAdmin (s.dev.requester src)
    let y := s.dev.busWrite s.fuses src (0x110000 + 8 * e.val + 4 * b2n false) 0xF data {}
    (s.dev.windowMay i (s.dev.requester src).code admin data = true →
      y.dma = { s.dev.dma with xlt := { s.dev.dma.xlt with held := s.dev.dma.xlt.held.set who none } } ∧ y.reg (xltAddr i 0) = data ∧
      y.reg (xltAddr i 1) = s.dev.dma.xlt.held[who].getD (s.dev.reg (xltAddr i 1)) ∧ ∀ a, a ≠ xltAddr i 0 → a ≠ xltAddr i 1 → y.reg a = s.dev.reg a) ∧
    (s.dev.windowMay i (s.dev.requester src).code admin data = false → y.dma = s.dev.dma ∧ y.regs = s.dev.regs ∧ bit (y.head (pg 0x0A0)).err 1 = true) := by
  dsimp only
  rw [win_write s src e false data ht]
  have h := window_zero (s.dev.arrive src (0x110000 + 8 * e.val + 4 * b2n false))
    (1024 * b2n s.dev.dma.xlt.bank[Fin.ofNat 16 (s.dev.requester src).code] + e.val) (s.dev.requester src).code (s.dev.isAdmin (s.dev.requester src)) data
    (arrive_canon _ _ _ hc)
  simp only [arrive_windowMay, Device.arrive_reg, Device.arrive_regs, Device.arrive_dma] at h
  exact h

/-! ## XLT_SYNC (R604) -/

theorem xltSync_write {s : State} {src : Source} (ht : s.dev.takes src 0x0A0044 0xFFFFFFFF 1 = true) :
    s.dev.busWrite s.fuses src 0x0A0044 0xF 1 {} = (s.dev.arrive src 0x0A0044).xltSync (s.dev.requester src).code := by
  have hw := Device.busWrite_page s.dev s.fuses src 0x0A0 0x044 0xF 1 {} ht (by decide) (by decide) (by decide) (by decide) (Or.inr (by decide))
  have hq : (s.dev.arrive src 0x0A0044).blockWrite s.fuses src 0x0A0 0x044 (byteMask 0xF) 1 {} =
      (s.dev.arrive src 0x0A0044).xltWrite ((s.dev.arrive src 0x0A0044).requester src) 0x044 (byteMask 0xF) 1 := rfl
  rw [show pageAddr 0x0A0 0x044 = 0x0A0044 from rfl, hq] at hw
  rw [hw, Device.arrive_requester, byteMask_full]
  unfold Device.xltWrite
  rw [if_neg (by decide), if_pos rfl, if_pos (by decide)]

theorem xltState_dma (d : Device) (c cause who : Nat) : (d.syncState 0x0A0 c cause who).dma = d.dma := keeps_dma (by simp)

theorem xltSync_effect {s : State} {src : Source} (ht : s.dev.takes src 0x0A0044 0xFFFFFFFF 1 = true) :
    let y := s.dev.busWrite s.fuses src 0x0A0044 0xF 1 {}
    y.dma = { s.dev.dma with xlt := { s.dev.dma.xlt with sync := some (s.dev.dma.xlt.sync.getD 0 ||| s.dev.burstMap) } } ∧ (y.head (pg 0x0A0)).cur = 1 := by
  dsimp only
  rw [xltSync_write ht, ← burstMap_of (Device.arrive_dma s.dev src 0x0A0044), ← Device.arrive_dma s.dev src 0x0A0044]
  exact ⟨xltState_dma _ 1 0x01 _, sync_cur _ (pg 0x0A0) 1 0x01 _⟩

theorem xltSync_ends {d : Device} (h : d.dma.xlt.sync = some 0) :
    d.xltSyncDone.dma = { d.dma with xlt := { d.dma.xlt with sync := none } } ∧ (d.xltSyncDone.head (pg 0x0A0)).cur = 0 := by
  have hdone : d.xltSyncDone = (d.updXlt fun x => { x with sync := none }).syncState 0x0A0 0 0x02 byHw := by
    unfold Device.xltSyncDone
    exact if_pos (by rw [h]; rfl)
  rw [hdone]
  exact ⟨xltState_dma _ 0 0x02 byHw, sync_cur _ (pg 0x0A0) 0 0x02 byHw⟩

theorem xltSync_waits {d : Device} (h : d.dma.xlt.sync ≠ some 0) : d.xltSyncDone = d := by
  unfold Device.xltSyncDone
  exact if_neg fun q => h (beq_iff_eq.1 q)

/-- Settles O53: word 1 of an entry is held until word 0 stores both, and the synchronisation waits for the bursts in progress. -/
theorem windowCommandsComplete : Obligations.WindowCommandsComplete := by
  unfold Obligations.WindowCommandsComplete
  refine fun s src => ⟨fun e data => ⟨fun ht => ⟨_, exec_windowEntryWrite src e true data s, windowOne_effect ht⟩,
      fun ht hc => ⟨_, exec_windowEntryWrite src e false data s, windowZero_effect ht hc⟩⟩,
    fun ht => ⟨_, exec_xltSync src s, xltSync_effect ht⟩, fun hl => ⟨fun h => ⟨_, exec_xltSyncComplete hl, xltSync_ends h⟩, fun h => ?waits⟩⟩
  case waits => exact (exec_xltSyncComplete hl).trans (next_of s (e' := s.dev) (xltSync_waits h))

end Sys2Proof.Machine
end

section
/-! SUPPORT. The performance counters: the wrap of a running counter, and the reads and writes of its words. -/

set_option maxRecDepth 4000
namespace Sys2Proof.Machine
open Sys2Proof

theorem exec_pmcCounterWrap {s : State} (c : Fin 64) (h : s.dev.live = true) : exec (.pmcCounterWrap c) s = .next { s with dev := s.dev.pmcWrap c } :=
  live_next s (fun d => d.pmcWrap c) h
theorem exec_pmcCounterRead (src : Source) (c : Fin 64) (s : State) :
    exec (.pmcCounterRead src c) s = .next { s with dev := s.dev.busRead src (pageAddr pmcPage (0x200 + 8 * c.val)) } := rfl
theorem exec_pmcCounterWrite (src : Source) (c : Fin 64) (hi : Bool) (be : BitVec 4) (data : Word) (s : State) :
    exec (.pmcCounterWrite src c hi be data) s = .next { s with dev := s.dev.busWrite s.fuses src (pageAddr pmcPage (0x200 + 8 * c.val + 4 * b2n hi)) be data {} } := rfl

/-! ## The wrap (R636) -/

/-- A running counter at its last value is about to wrap. -/
def Device.pmcWraps (d : Device) (c : Fin 64) : Prop := d.pmcRun = true ∧ bit (d.pmcSel c) 31 = true ∧ d.pmc.ctr[c] = 0xFFFFFFFFFFFF

theorem pmcWrap_idle {d : Device} {c : Fin 64} (h : ¬ d.pmcWraps c) : d.pmcWrap c = d := by
  unfold Device.pmcWrap
  refine if_neg fun q => h ?_
  rw [Bool.and_eq_true, Bool.and_eq_true, decide_eq_true_eq] at q
  exact ⟨q.1.1, q.1.2, q.2⟩

theorem pmcWrap_runs {d : Device} {c : Fin 64} (h : d.pmcWraps c) : d.pmcWrap c = d.pmcAdd c 1 := by
  obtain ⟨hrun, hsel, hctr⟩ := h
  unfold Device.pmcWrap
  exact if_pos (by rw [hrun, hsel, decide_eq_true hctr]; rfl)

/-- The second counter of a pair is the next one, and chained. -/
theorem pmcChained_some {d : Device} {c c2 : Fin 64} (h : d.pmcChained c = some c2) :
    c2.val = c.val + 1 ∧ c.val % 2 = 0 ∧ bit (d.pmcSel c2) 30 = true ∧ d.pmcLower c = true := by
  unfold Device.pmcChained at h
  unfold Device.pmcLower
  by_cases he : c.val % 2 = 0
  · rw [dif_pos he] at h
    dsimp only at h
    split at h
    · rename_i hb
      injection h with h
      subst h
      exact ⟨rfl, he, hb, by rw [dif_pos he]; exact hb⟩
    · exact nomatch h
  · rw [dif_neg he] at h
    exact nomatch h

theorem pmcChained_none {d : Device} {c : Fin 64} (h : d.pmcChained c = none) : d.pmcLower c = false := by
  unfold Device.pmcChained at h
  unfold Device.pmcLower
  by_cases he : c.val % 2 = 0
  · rw [dif_pos he] at h ⊢
    dsimp only at h
    split at h
    · exact nomatch h
    · rename_i hb
      exact Bool.eq_false_iff.2 hb
  · rw [dif_neg he]

/-- A counter that nothing is chained to wraps alone. -/
theorem pmcAdd_alone {d : Device} {c : Fin 64} (n : Nat) (h : d.pmcChained c = none) : d.pmcAdd c n = (d.pmcBump c n).1 := by
  have hl := pmcChained_none h
  unfold Device.pmcLower at hl
  unfold Device.pmcAdd
  dsimp only
  split
  · rename_i hw
    rw [dif_pos hw.2] at hl
    rw [hl, Bool.false_and]
    exact if_neg Bool.false_ne_true
  · rfl

/-- A wrap of the lower counter of a running pair carries into the upper one. -/
theorem pmcAdd_carries {d : Device} {c c2 : Fin 64} {n : Nat} (h : d.pmcChained c = some c2) (hrun : bit (d.pmcSel c2) 31 = true) (hw : (d.pmcBump c n).2 = true) :
    d.pmcAdd c n = ((d.pmcBump c n).1.pmcBump c2 1).1 := by
  obtain ⟨hval, heven, hchain, -⟩ := pmcChained_some h
  have hc2 : (⟨c.val + 1, by have := c2.isLt; omega⟩ : Fin 64) = c2 := Fin.ext hval.symm
  unfold Device.pmcAdd
  dsimp only
  rw [dif_pos ⟨hw, heven⟩, hc2, hchain, hrun]
  rfl

/-- A wrap below an upper counter that does not run is no carry. -/
theorem pmcAdd_stops {d : Device} {c c2 : Fin 64} {n : Nat} (h : d.pmcChained c = some c2) (hrun : bit (d.pmcSel c2) 31 = false) :
    d.pmcAdd c n = (d.pmcBump c n).1 := by
  obtain ⟨hval, -, -, -⟩ := pmcChained_some h
  have hc2 : (⟨c.val + 1, by have := c2.isLt; omega⟩ : Fin 64) = c2 := Fin.ext hval.symm
  unfold Device.pmcAdd
  dsimp only
  split
  · rw [hc2, hrun, Bool.and_false]
    exact if_neg Bool.false_ne_true
  · rfl

theorem pmcWrap_effect {d : Device} {c : Fin 64} (h : d.pmcWraps c) :
    let e := d.pmcWrap c
    e.pmc.ctr[c] = 0 ∧
      (d.pmcChained c = none → (∀ j, j ≠ c → e.pmc.ctr[j] = d.pmc.ctr[j]) ∧ e.pmc.ovf = d.pmc.ovf ||| BitVec.ofNat 64 (2 ^ c.val)) ∧
      (∀ c2, d.pmcChained c = some c2 → bit (d.pmcSel c2) 31 = true → d.pmc.ctr[c2] < 0xFFFFFFFFFFFF → e.pmc.ctr[c2] = d.pmc.ctr[c2] + 1 ∧ e.pmc.ovf = d.pmc.ovf) := by
  have hctr : d.pmc.ctr[c] = 2 ^ 48 - 1 := h.2.2
  obtain ⟨bctr, bwrap, bovf, -, bregs⟩ := bump_facts d c 1
  have hfull : 2 ^ 48 ≤ d.pmc.ctr[c] + 1 := by omega
  have hwrap : (d.pmcBump c 1).2 = true := bwrap.trans (decide_eq_true hfull)
  have hzero : (d.pmcBump c 1).1.pmc.ctr[c] = 0 := by
    rw [vec_at bctr, set_same, hctr]
    rfl
  have hothers : ∀ j, j ≠ c → (d.pmcBump c 1).1.pmc.ctr[j] = d.pmc.ctr[j] := fun j hj => (vec_at bctr j).trans (set_other _ _ _ _ hj)
  have hrest : ∀ c2, d.pmcChained c = some c2 → ∀ n, ((d.pmcBump c 1).1.pmcBump c2 n).1.pmc.ctr[c] = 0 := fun c2 hch n => by
    have hne : c ≠ c2 := fun q => by have := (pmcChained_some hch).1; rw [← q] at this; omega
    exact (vec_at (bump_facts _ c2 n).1 c).trans ((set_other _ _ _ _ hne).trans hzero)
  dsimp only
  rw [pmcWrap_runs h]
  refine ⟨?_, fun hn => ?_, fun c2 hch hrun hlt => ?_⟩
  · cases hch : d.pmcChained c with
    | none => rw [pmcAdd_alone 1 hch]; exact hzero
    | some c2 =>
      cases hrun : bit (d.pmcSel c2) 31 with
      | true => rw [pmcAdd_carries hch hrun hwrap]; exact hrest c2 hch 1
      | false =>
        rw [pmcAdd_stops hch hrun]
        exact hzero
  · rw [pmcAdd_alone 1 hn]
    exact ⟨hothers, bovf.trans (if_pos ⟨hfull, pmcChained_none hn⟩)⟩
  · obtain ⟨hval, -, -, hlow⟩ := pmcChained_some hch
    have hne : c2 ≠ c := fun q => by rw [q] at hval; omega
    rw [pmcAdd_carries hch hrun hwrap]
    obtain ⟨cctr, -, covf, -, -⟩ := bump_facts (d.pmcBump c 1).1 c2 1
    have hupper := hothers c2 hne
    refine ⟨?_, ?_⟩
    · rw [vec_at cctr, set_same, hupper, Nat.mod_eq_of_lt (by omega)]
    · rw [covf, if_neg (by rw [hupper]; omega), bovf, if_neg (by rw [hlow]; simp)]

/-! ## The read of a low word (R635) -/

theorem counterRead_effect {d : Device} {src : Source} {c : Fin 64} (hg : d.gets src (pageAddr pmcPage (0x200 + 8 * c.val)) = true) :
    d.busRead src (pageAddr pmcPage (0x200 + 8 * c.val)) =
      ((d.arrive src (pageAddr pmcPage (0x200 + 8 * c.val))).pmcRead c false (d.requester src).code).2 := by
  obtain ⟨hloud, haligned, hpeak⟩ := ctr_loud c
  rw [busRead_arrive d src _ hg haligned hloud]
  have hctr := ctr_at c false
  rw [show pageAddr pmcPage (0x200 + 8 * c.val + 4 * b2n false) = pageAddr pmcPage (0x200 + 8 * c.val) from rfl] at hctr
  unfold Device.readPlain
  dsimp only
  rw [hpeak, hctr, Device.arrive_requester]

/-! ## The write of a word (R635) -/

theorem counterWrite_takes {s : State} {src : Source} {c : Fin 64} {hi : Bool} {be : BitVec 4} {data : Word} (hb : alignedBe be = true)
    (ht : s.dev.takes src (pageAddr pmcPage (0x200 + 8 * c.val + 4 * b2n hi)) (byteMask be) data = true) :
    s.dev.busWrite s.fuses src (pageAddr pmcPage (0x200 + 8 * c.val + 4 * b2n hi)) be data {} =
      (s.dev.arrive src (pageAddr pmcPage (0x200 + 8 * c.val + 4 * b2n hi))).pmcWrite c hi (byteMask be) data := by
  have hlt := c.isLt
  have hone : b2n hi ≤ 1 := by cases hi <;> decide
  rw [Device.busWrite_page s.dev s.fuses src pmcPage (0x200 + 8 * c.val + 4 * b2n hi) be data {} ht (by decide) hb (by omega) (by omega) (Or.inr (by omega))]
  refine Eq.trans (b := Device.pmcPageWrite _ (Device.requester _ src) (0x200 + 8 * c.val + 4 * b2n hi) (byteMask be) data) rfl ?_
  unfold Device.pmcPageWrite
  dsimp only
  rw [ctr_at]

theorem pmcWrite_running {d : Device} {c : Fin 64} (hi : Bool) (m v : Word) (h : bit (d.pmcSel c) 31 = true) :
    (d.pmcWrite c hi m v).pmc = d.pmc ∧ bit ((d.pmcWrite c hi m v).head (pg pmcPage)).err 8 = true := by
  unfold Device.pmcWrite
  rw [if_pos h]
  exact ⟨rfl, setErr_bit d pmcPage 8 (by decide)⟩

/-- The low word of a stopped counter takes the bytes written, and its high word stays. -/
theorem pmcWrite_low {d : Device} {c : Fin 64} (m v : Word) (h : bit (d.pmcSel c) 31 = false) :
    (d.pmcWrite c false m v).pmc = { d.pmc with ctr := d.pmc.ctr.set c (d.pmc.ctr[c] / 4294967296 * 4294967296 + (mergeWord (d.pmcWord c false) v m).toNat) } := by
  unfold Device.pmcWrite
  exact congrArg Device.pmc (if_neg (by rw [h]; exact Bool.false_ne_true))

theorem pmcWrite_high {d : Device} {c : Fin 64} (m v : Word) (h : bit (d.pmcSel c) 31 = false) :
    (d.pmcWrite c true m v).pmc =
      { d.pmc with ctr := d.pmc.ctr.set c ((mergeWord (d.pmcWord c true) v (m &&& 0xFFFF)).toNat * 4294967296 + d.pmc.ctr[c] % 4294967296) } := by
  unfold Device.pmcWrite
  exact congrArg Device.pmc (if_neg (by rw [h]; exact Bool.false_ne_true))

theorem low_word (n : Nat) (w : Word) : BitVec.ofNat 32 (n / 4294967296 * 4294967296 + w.toNat) = w := by
  refine BitVec.eq_of_toNat_eq ?_
  rw [BitVec.toNat_ofNat]
  have := w.isLt
  omega

theorem pmcWord_set {d e : Device} {c : Fin 64} {n : Nat} (h : e.pmc.ctr = d.pmc.ctr.set c n) (hi : Bool) :
    e.pmcWord c hi = if hi then field 15 0 (n / 4294967296) else BitVec.ofNat 32 n := by
  unfold Device.pmcWord
  rw [vec_at h, set_same]

/-- A field that a write's mask covers whole is the field of the word written. -/
theorem bits_mergeWord (w v : Word) {m : Word} {hi lo : Nat} (hm : ∀ i, i < hi + 1 - lo → bit m (i + lo) = true) : bits (mergeWord w v m) hi lo = bits v hi lo := by
  apply Nat.eq_of_testBit_eq
  intro i
  rw [bits_testBit, bits_testBit]
  by_cases hi' : i < hi + 1 - lo
  · exact congrArg (decide (i < hi + 1 - lo) && ·) ((bit_mergeWord w v m (i + lo)).trans (if_pos (hm i hi')))
  · rw [decide_eq_false hi', Bool.false_and, Bool.false_and]

/-- The high word of a counter whose high half is w. -/
theorem high_word (w : Word) (n : Nat) : bits (field 15 0 ((w.toNat * 4294967296 + n % 4294967296) / 4294967296)) 15 0 = bits w 15 0 := by
  have hdiv : (w.toNat * 4294967296 + n % 4294967296) / 4294967296 = w.toNat := by omega
  rw [hdiv, half_nat]
  unfold bits
  rw [Nat.pow_zero, Nat.div_one]
  rfl

theorem pmcWrite_stopped {d : Device} {c : Fin 64} (hi : Bool) (m v : Word) (h : bit (d.pmcSel c) 31 = false) :
    let e := d.pmcWrite c hi m v
    (∀ j, j ≠ c → e.pmc.ctr[j] = d.pmc.ctr[j]) ∧ e.pmc.buf = d.pmc.buf ∧ e.pmc.ovf = d.pmc.ovf ∧
      (hi = false → e.pmcWord c false = mergeWord (d.pmcWord c false) v m) ∧ (hi = true → m = 0xFFFFFFFF → bits (e.pmcWord c true) 15 0 = bits v 15 0) := by
  cases hi with
  | false =>
    have hw := pmcWrite_low m v h
    refine ⟨fun j hj => (vec_at (congrArg Pmc.ctr hw) j).trans (set_other _ _ _ _ hj), by rw [hw], by rw [hw], fun _ => ?_, fun q => (nomatch q)⟩
    rw [pmcWord_set (congrArg Pmc.ctr hw)]
    exact low_word _ _
  | true =>
    have hw := pmcWrite_high m v h
    refine ⟨fun j hj => (vec_at (congrArg Pmc.ctr hw) j).trans (set_other _ _ _ _ hj), by rw [hw], by rw [hw], fun q => (nomatch q), fun _ hm => ?_⟩
    rw [pmcWord_set (congrArg Pmc.ctr hw), if_pos rfl, high_word, hm]
    exact bits_mergeWord _ v (by decide)

theorem arrive_pmcSel (d : Device) (src : Source) (a : Nat) (c : Fin 64) : (d.arrive src a).pmcSel c = d.pmcSel c := Device.arrive_reg ..

/-- Settles O56: a counter wraps, its low word is read with its high word kept, and a stopped counter takes what is written. -/
theorem pmcCommandsComplete : Obligations.PmcCommandsComplete := by
  unfold Obligations.PmcCommandsComplete
  refine fun s c => ⟨fun hl => ⟨_, exec_pmcCounterWrap c hl, fun h => ?idle, fun h => pmcWrap_effect h⟩, fun src hg => ?read, fun src hi be data hb ht => ?write⟩
  case idle => exact congrArg (fun d => ({ s with dev := d } : State)) (pmcWrap_idle h)
  case read => exact ⟨_, (exec_pmcCounterRead src c s).trans (next_of s (counterRead_effect hg)), read_buf _ c _⟩
  case write =>
    refine ⟨_, (exec_pmcCounterWrite src c hi be data s).trans (next_of s (counterWrite_takes hb ht)), ?_⟩
    dsimp only
    rw [← arrive_pmcSel s.dev src (pageAddr pmcPage (0x200 + 8 * c.val + 4 * b2n hi))]
    refine ⟨fun h => pmcWrite_running hi _ data h, fun h => ?_⟩
    obtain ⟨hothers, hbuf, hovf, hlow, hhigh⟩ := pmcWrite_stopped hi (byteMask be) data h
    exact ⟨hothers, hbuf, hovf, hlow, fun h1 h2 => hhigh h1 (by rw [h2]; exact byteMask_full)⟩

end Sys2Proof.Machine
end

section
/-! SUPPORT. The array's scans and reads: a request, the temperature's, and what their ends show. -/

set_option maxRecDepth 4000
namespace Sys2Proof.Machine
open Sys2Proof

theorem exec_otpRescan (src : Source) (data : Word) (s : State) :
    exec (.otpRescan src data) s = .next { s with dev := s.dev.busWrite s.fuses src 0x0050C0 0xF data {} } := rfl
theorem exec_otpRead (src : Source) (data : Word) (s : State) :
    exec (.otpRead src data) s = .next { s with dev := s.dev.busWrite s.fuses src 0x00405C 0xF data {} } := rfl
theorem exec_otpTempScan {s : State} (h : s.dev.hupRuns = true) : exec .otpTempScan s = .next { s with dev := s.dev.tempScan s.fuses } :=
  service_next s (fun d => d.tempScan s.fuses) h
theorem exec_otpScanComplete {s : State} (h : s.dev.live = true) : exec .otpScanComplete s = .next { s with dev := s.dev.scanDone s.fuses } :=
  live_next s (fun d => d.scanDone s.fuses) h
theorem exec_otpReadComplete {s : State} (h : s.dev.live = true) : exec .otpReadComplete s = .next { s with dev := s.dev.otpReadDone s.fuses } :=
  live_next s (fun d => d.otpReadDone s.fuses) h

/-! ## Requested scans (R660) -/

theorem rescan_write {s : State} {src : Source} {data : Word} (ht : s.dev.takes src 0x0050C0 0xFFFFFFFF data = true) :
    s.dev.busWrite s.fuses src 0x0050C0 0xF data {} =
      if bit data 0 then (s.dev.arrive src 0x0050C0).scanRequest s.fuses else s.dev.arrive src 0x0050C0 := by
  refine (otp_write s src 0x005 0x0C0 data ht (by decide) (by decide) (by decide) (by decide)).trans ?_
  unfold Device.otpWrite
  rw [if_neg (by decide), if_pos rfl, and_full]
  rfl

theorem rescan_effect {s : State} {src : Source} {data : Word} (ht : s.dev.takes src 0x0050C0 0xFFFFFFFF data = true) :
    let o := s.dev.otp
    let y := s.dev.busWrite s.fuses src 0x0050C0 0xF data {}
    (bit data 0 = false → y.otp = o) ∧ (bit data 0 = true → s.dev.otpBusy = true → y.otp = { o with scanDue := true }) ∧
      (bit data 0 = true → s.dev.otpBusy = false → o.run = none → y.otp = { o with scanning := true, scanDue := false, tScan := s.dev.dieMaxC } ∧ (y.head (pg otpPage)).cur = 1) := by
  obtain ⟨hotp, hbusy, hmax, -, -⟩ := arrive_otp s.dev src 0x0050C0
  dsimp only
  rw [rescan_write ht, ← hotp, ← hbusy, ← hmax]
  obtain ⟨hwaits, hstarts⟩ := scan_facts (s.dev.arrive src 0x0050C0) s.fuses
  refine ⟨fun h => ?_, fun h => ?_, fun h => ?_⟩
  · rw [if_neg (by rw [h]; exact Bool.false_ne_true)]
  · rw [if_pos h]
    exact hwaits
  · rw [if_pos h]
    exact hstarts

theorem tempScan_still {d : Device} (f : OtpArray) (h : d.dieVals = none ∨ (d.dieHot.1 - 16 * d.otp.tScan).natAbs ≤ 480 ∨ d.otp.scanning = true) :
    d.tempScan f = d := by
  unfold Device.tempScan
  refine if_neg fun q => ?_
  rw [Bool.and_eq_true, Bool.and_eq_true, decide_eq_true_eq] at q
  obtain ⟨⟨hsome, hmoved⟩, hfree⟩ := q
  rcases h with h | h | h
  · rw [h] at hsome
    exact Bool.false_ne_true hsome
  · exact absurd hmoved (Nat.not_lt.2 h)
  · rw [h] at hfree
    exact Bool.false_ne_true hfree

theorem tempScan_asks {d : Device} (f : OtpArray) (h1 : d.dieVals ≠ none) (h2 : 480 < (d.dieHot.1 - 16 * d.otp.tScan).natAbs) (h3 : d.otp.scanning = false) :
    d.tempScan f = d.scanRequest f := by
  unfold Device.tempScan
  exact if_pos (by rw [Option.isSome_iff_ne_none.2 h1, decide_eq_true h2, h3]; rfl)

/-! ## The end of a scan (R660, R661) -/

/-- The device of a scan's end before it judges the drift. -/
def Device.scanned (d : Device) (f : OtpArray) : Device :=
  (d.drawScan.2.scanMargins f).updOtp fun o => { o with scanning := false, gens := gensOf (f.values d.freeCount) }

theorem scanned_facts (d : Device) (f : OtpArray) :
    (d.scanned f).otp = { d.otp with
      marg := Vector.ofFn fun w => f.margWord w.val, nMarg := min 255 ((List.range 1024).filter f.marginal).length, scanning := false, gens := gensOf (f.values d.freeCount) } ∧
    (d.scanned f).watchedWords = d.watchedWords := by
  obtain ⟨hotp, hboot⟩ := margins_facts d.drawScan.2 f
  refine ⟨?_, ?_⟩
  · unfold Device.scanned
    rw [updOtp_at, hotp]
    rfl
  · unfold Device.watchedWords
    rw [show (d.scanned f).boot = d.boot from hboot]

/-- The device of a scan's end with the drift judged. -/
def Device.driftJudged (d : Device) (v : Store) : Device :=
  if d.watchedWords.all fun w => wordOf v w == wordOf d.otp.bootVal w then d
  else (d.updOtp fun o => { o with drift := true }).setErr otpPage (errBit 10)

theorem driftJudged_otp (d : Device) (v : Store) :
    (d.driftJudged v).otp = { d.otp with drift := d.otp.drift || d.watchedWords.any fun w => wordOf v w != wordOf d.otp.bootVal w } := by
  have hany : (d.watchedWords.any fun w => wordOf v w != wordOf d.otp.bootVal w) = !(d.watchedWords.all fun w => wordOf v w == wordOf d.otp.bootVal w) := by
    rw [List.not_all_eq_any_not]
    rfl
  rw [hany]
  unfold Device.driftJudged
  cases (d.watchedWords.all fun w => wordOf v w == wordOf d.otp.bootVal w) with
  | true => rw [if_pos rfl, Bool.not_true, Bool.or_false]
  | false =>
    rw [if_neg Bool.false_ne_true, Bool.not_false, Bool.or_true]
    rfl

theorem scanDone_idle {d : Device} (f : OtpArray) (h : d.otp.scanning = false) : d.scanDone f = d := by
  unfold Device.scanDone
  exact if_neg (by rw [h]; exact Bool.false_ne_true)

theorem scanDone_runs {d : Device} (f : OtpArray) (h : d.otp.scanning = true) : d.scanDone f = ((d.scanned f).driftJudged (f.values d.freeCount)).otpAfterScan f := by
  unfold Device.scanDone
  exact if_pos h

theorem scanDone_effect {d : Device} (f : OtpArray) (hscan : d.otp.scanning = true) (hread : d.otp.reading = none) (hrun : d.otp.run = none) (hdue : d.otp.scanDue = false)
    (hrdue : d.otp.readDue = none) :
    let e := d.scanDone f
    e.otp.scanning = false ∧ e.otp.run = none ∧ e.otp.gens = gensOf (f.values d.freeCount) ∧ (∀ w : Fin 32, e.otp.marg[w] = f.margWord w.val) ∧
      e.otp.nMarg = min 255 ((List.range 1024).filter f.marginal).length ∧
      e.otp.drift = (d.otp.drift || d.watchedWords.any fun w => wordOf (f.values d.freeCount) w != wordOf d.otp.bootVal w) ∧ (e.head (pg otpPage)).cur = 0 := by
  obtain ⟨hotp, hwords⟩ := scanned_facts d f
  have hjudged := driftJudged_otp (d.scanned f) (f.values d.freeCount)
  rw [hwords, hotp] at hjudged
  dsimp only at hjudged
  dsimp only
  rw [scanDone_runs f hscan]
  generalize (d.scanned f).driftJudged (f.values d.freeCount) = y at *
  obtain ⟨hend, hcur⟩ := rests_after (d := y) f (by rw [hjudged]; exact hdue) (by rw [hjudged]; exact hrdue) (by rw [hjudged]; exact hrun) (by rw [hjudged])
    (by rw [hjudged]; exact hread)
  rw [hend, hjudged]
  refine ⟨rfl, hrun, rfl, fun w => ?_, rfl, rfl, hcur⟩
  exact Vector.getElem_ofFn ..

/-! ## Reads (R684) -/

/-- The address field of OTP_RADDR is stored whole. -/
theorem raddr_stored (d : Device) (data : Word) (hc : d.canonical = true) :
    bits ((d.putIf true 0 0x004 0x05C 0xFFFFFFFF data).reg 0x00405C) 9 0 = bits data 9 0 := by
  have hm : ∀ i, i < 9 + 1 - 0 → bit (0xFFFFFFFF &&& storedMask (pageAddr 0x004 0x05C)) (i + 0) = true := by decide
  have hclamp : ∀ w, clampWord 0x004 0x05C w = w := by
    intro w
    unfold clampWord
    rw [show blockOf 0x004 = some .otp from rfl]
    exact (if_pos rfl).trans (if_neg (by decide))
  have hreg : (d.putIf true 0 0x004 0x05C 0xFFFFFFFF data).reg 0x00405C = d.newWord 0x004 0x05C 0xFFFFFFFF data := Device.reg_setReg d _ _ hc
  rw [hreg]
  unfold Device.newWord
  dsimp only
  rw [hclamp]
  exact bits_mergeWord _ data hm

theorem read_write {s : State} {src : Source} {data : Word} (ht : s.dev.takes src 0x00405C 0xFFFFFFFF data = true) (hc : s.dev.canonical = true) :
    s.dev.busWrite s.fuses src 0x00405C 0xF data {} = ((s.dev.arrive src 0x00405C).putIf true 0 0x004 0x05C 0xFFFFFFFF data).otpRead s.fuses (bits data 9 0) := by
  refine (otp_write s src 0x004 0x05C data ht (by decide) (by decide) (by decide) (by decide)).trans ?_
  unfold Device.otpWrite
  rw [if_pos rfl, if_neg (by decide), if_pos rfl]
  dsimp only
  rw [raddr_stored _ data (arrive_canon _ _ _ hc)]
  rfl

theorem readRequest_effect {s : State} {src : Source} {data : Word} (ht : s.dev.takes src 0x00405C 0xFFFFFFFF data = true) (hc : s.dev.canonical = true) :
    let o := s.dev.otp
    let y := s.dev.busWrite s.fuses src 0x00405C 0xF data {}
    (s.dev.otpBusy = true → y.otp = { o with readDue := some (bits data 9 0) }) ∧
      (s.dev.otpBusy = false → o.run = none → o.scanDue = false → y.otp = { o with reading := some (bits data 9 0), readDue := none } ∧ (y.head (pg otpPage)).cur = 5) := by
  obtain ⟨hotp, hbusy, -, -, -⟩ := arrive_otp s.dev src 0x00405C
  dsimp only
  rw [read_write ht hc, ← hotp, ← hbusy]
  exact read_facts ((s.dev.arrive src 0x00405C).putIf true 0 0x004 0x05C 0xFFFFFFFF data) s.fuses (bits data 9 0)

theorem readDone_none {d : Device} (f : OtpArray) (h : d.otp.reading = none) : d.otpReadDone f = d := by
  unfold Device.otpReadDone
  rw [h]

/-- A read's end shows the bits at both margins, and as read a firm bit as it is. -/
theorem readDone_effect {d : Device} {i : Nat} (f : OtpArray) (hread : d.otp.reading = some i) (hscan : d.otp.scanning = false) (hrun : d.otp.run = none)
    (hdue : d.otp.scanDue = false) (hrdue : d.otp.readDue = none) :
    ∃ w, (d.otpReadDone f).otp = { d.otp with reading := none, rNorm := w, rM0 := f.atM0 i, rM1 := f.atM1 i } ∧ (f.marginal i = false → w = f.atM1 i) ∧
      ((d.otpReadDone f).head (pg otpPage)).cur = 0 := by
  have hdone : d.otpReadDone f = (d.draw.2.updOtp fun o => { o with reading := none, rNorm := f.normal d.draw.1 i, rM0 := f.atM0 i, rM1 := f.atM1 i }).otpNext f := by
    unfold Device.otpReadDone
    rw [hread]
  have hy : (d.draw.2.updOtp fun o => { o with reading := none, rNorm := f.normal d.draw.1 i, rM0 := f.atM0 i, rM1 := f.atM1 i }).otp =
      { d.otp with reading := none, rNorm := f.normal d.draw.1 i, rM0 := f.atM0 i, rM1 := f.atM1 i } := rfl
  generalize (d.draw.2.updOtp fun o => { o with reading := none, rNorm := f.normal d.draw.1 i, rM0 := f.atM0 i, rM1 := f.atM1 i }) = y at *
  obtain ⟨hend, hcur⟩ := rests (d := y) f (by rw [hy]; exact hdue) (by rw [hy]; exact hrdue) (by rw [hy]; exact hrun) (by rw [hy]; exact hscan) (by rw [hy])
  rw [hdone]
  exact ⟨_, hend.trans hy, normal_firm f _ i, hcur⟩

/-- Settles O58: a requested scan or read starts on a free array or waits, and the end of each shows what it found. -/
theorem otpScanAndReadCommandsComplete : Obligations.OtpScanAndReadCommandsComplete := by
  unfold Obligations.OtpScanAndReadCommandsComplete
  refine fun s => ⟨fun src data ht => ⟨_, exec_otpRescan src data s, rfl, rescan_effect ht⟩, fun hr => ⟨fun h => ?steady, fun h1 h2 h3 => ?moved⟩, fun hl h => ?unscanned,
    fun hl h1 h2 h3 h4 h5 => ⟨_, exec_otpScanComplete hl, rfl, scanDone_effect s.fuses h1 h2 h3 h4 h5⟩, fun src data ht hc => ⟨_, exec_otpRead src data s, rfl, readRequest_effect ht hc⟩,
    fun hl h => ?unread, fun i hl h1 h2 h3 h4 h5 => ?shown⟩
  case steady => exact (exec_otpTempScan hr).trans (next_of s (e' := s.dev) (tempScan_still s.fuses h))
  case moved =>
    obtain ⟨hwaits, hstarts⟩ := scan_facts s.dev s.fuses
    exact ⟨_, (exec_otpTempScan hr).trans (next_of s (tempScan_asks s.fuses h1 h2 h3)), rfl, hwaits, fun hb hn => (hstarts hb hn).1⟩
  case unscanned => exact (exec_otpScanComplete hl).trans (next_of s (e' := s.dev) (scanDone_idle s.fuses h))
  case unread => exact (exec_otpReadComplete hl).trans (next_of s (e' := s.dev) (readDone_none s.fuses h))
  case shown =>
    obtain ⟨w, hshown⟩ := readDone_effect s.fuses h1 h2 h3 h4 h5
    exact ⟨_, w, exec_otpReadComplete hl, rfl, hshown⟩

end Sys2Proof.Machine
end

section
/-! SUPPORT. The array's programmer: a request, a stop, the supply start and the end of a pulse. -/

set_option maxRecDepth 4000
namespace Sys2Proof.Machine
open Sys2Proof

/-- Every request is the write of its word to OTP_PCTL. -/
theorem exec_asksOtp {c : Instr} {src : Source} {key : BitVec 16} {noChk : Bool} {k : OtpKind} (s : State) (h : AsksOtp c src key noChk k) :
    exec c s = .next { s with dev := s.dev.busWrite s.fuses src 0x004054 0xF (otpOpWord key noChk k) {} } := by
  rcases h with ⟨rfl, rfl⟩ | ⟨rfl, rfl⟩ | ⟨rfl, rfl⟩ | ⟨rfl, rfl⟩ | ⟨rfl, rfl⟩
  · rfl
  · rfl
  · rfl
  · rfl
  · rfl

theorem exec_otpStop (src : Source) (key : BitVec 16) (s : State) :
    exec (.otpStop src key) s = .next { s with dev := s.dev.busWrite s.fuses src 0x004054 0xF (field 31 16 key.toNat) {} } := rfl
theorem exec_otpSupplyReady {s : State} (ok : Bool) (h : s.dev.live = true) : exec (.otpSupplyReady ok) s = .next { s with dev := s.dev.supplyReady s.fuses ok } :=
  live_next s (fun d => d.supplyReady s.fuses ok) h

theorem exec_otpPulseComplete {s : State} (m1 ok : Bool) (h : s.dev.live = true) :
    exec (.otpPulseComplete m1 ok) s = .next { s with dev := (s.dev.pulseDone s.fuses m1 ok).1, fuses := (s.dev.pulseDone s.fuses m1 ok).2 } := by
  show s.onBoth (fun d f => if d.live then d.pulseDone f m1 ok else (d, f)) = _
  unfold State.onBoth
  dsimp only
  rw [if_pos h]

/-! ## A write of OTP_PCTL (R676 to R678, R682) -/

theorem arrive_ownedBy (d : Device) (src : Source) (a p : Nat) (r : Requester) : (d.arrive src a).ownedBy p r = d.ownedBy p r := by
  unfold Device.ownedBy
  rw [arrive_ownerOf]

theorem pctl_write {s : State} {src : Source} {w : Word} (ht : s.dev.takes src 0x004054 0xFFFFFFFF w = true) :
    s.dev.busWrite s.fuses src 0x004054 0xF w {} = (s.dev.arrive src 0x004054).pctlWrite s.fuses (s.dev.requester src) w := by
  refine (otp_write s src 0x004 0x054 w ht (by decide) (by decide) (by decide) (by decide)).trans ?_
  unfold Device.otpWrite
  rw [if_pos rfl, if_pos rfl, and_full]
  rfl

theorem pctl_foreign {d : Device} {r : Requester} (f : OtpArray) (w : Word) (h : d.ownedBy otpPage r = false) :
    (d.pctlWrite f r w).otp = d.otp ∧ bit ((d.pctlWrite f r w).head (pg otpPage)).err 2 = true := by
  have hw : d.pctlWrite f r w = d.setErr otpPage (errBit 2) := if_pos (congrArg (! ·) h)
  rw [hw]
  exact ⟨rfl, setErr_bit d otpPage 2 (by decide)⟩

theorem pctl_request {d : Device} {r : Requester} (f : OtpArray) (key : BitVec 16) (noChk : Bool) (k : OtpKind) (h : d.ownedBy otpPage r = true) :
    d.pctlWrite f r (otpOpWord key noChk k) = d.otpRequest f k key.toNat (decide (k = .seal) && noChk) := by
  obtain ⟨hkind, hkey, hchk⟩ := opWord_facts key noChk k
  unfold Device.pctlWrite
  rw [show d.ownedBy 0x004 r = true from h, if_neg (by decide), hkind]
  dsimp only
  rw [hkey, hchk]

theorem otpRequest_effect {s : State} {src : Source} {key : BitVec 16} {noChk : Bool} {k : OtpKind}
    (ht : s.dev.takes src 0x004054 0xFFFFFFFF (otpOpWord key noChk k) = true) :
    let o := s.dev.otp
    let y := s.dev.busWrite s.fuses src 0x004054 0xF (otpOpWord key noChk k) {}
    (s.dev.ownedBy otpPage (s.dev.requester src) = false → y.otp = o ∧ bit (y.head (pg otpPage)).err 2 = true) ∧
      (s.dev.ownedBy otpPage (s.dev.requester src) = true →
        (key ≠ 0x07B5 ∨ o.progLock = true → y.otp = o ∧ bit (y.head (pg otpPage)).err 1 = true) ∧
        (key = 0x07B5 → o.progLock = false →
          (o.run ≠ none ∨ s.dev.otpAdmitted k = false → y.otp = { o with result := 6 } ∧ bit (y.head (pg otpPage)).err 8 = true) ∧
          (o.run = none → s.dev.otpAdmitted k = true →
            let r := s.dev.otpAsked k noChk
            let v := s.fuses.values s.dev.freeCount
            let todo := runTargets s.fuses v r
            (s.dev.otpBusy = true → y.otp = { o with run := some r }) ∧
            (s.dev.otpBusy = false →
              (∀ c, earlyResult v r todo = some c → OtpEnds y c ∧ y.otp.pulses = 0 ∧ y.otp.failBit = 0) ∧
              (earlyResult v r todo = none → y.otp = { o with run := some { r with started := true, todo := todo, tries := 0 }, pulses := 0, failBit := 0 } ∧
                (y.head (pg otpPage)).cur = 2))))) := by
  obtain ⟨hotp, hbusy, -, hcount, -⟩ := arrive_otp s.dev src 0x004054
  have hown := arrive_ownedBy s.dev src 0x004054 otpPage (s.dev.requester src)
  have hadm : (s.dev.arrive src 0x004054).otpAdmitted k = s.dev.otpAdmitted k := by
    unfold Device.otpAdmitted Device.otpAdmits
    rw [hotp, Device.arrive_reg]
  have hask : (s.dev.arrive src 0x004054).otpAsked k noChk = s.dev.otpAsked k noChk := by
    unfold Device.otpAsked
    rw [Device.arrive_reg, Device.arrive_reg]
  dsimp only
  rw [pctl_write ht, ← hotp, ← hbusy, ← hcount, ← hown, ← hadm, ← hask]
  clear hotp hbusy hcount hown hadm hask
  generalize s.dev.arrive src 0x004054 = d
  refine ⟨pctl_foreign s.fuses _, fun h => ?_⟩
  rw [pctl_request s.fuses key noChk k h]
  exact request_facts d s.fuses k key _ noChk rfl

theorem pctl_stop {d : Device} {r : Requester} (f : OtpArray) (key : BitVec 16) (h : d.ownedBy otpPage r = true) :
    d.pctlWrite f r (field 31 16 key.toNat) = if key.toNat ≠ 0x07B5 ∨ d.otp.progLock then d.setErr otpPage (errBit 1) else d.otpAbort f := by
  obtain ⟨hop, hkey⟩ := stopWord_facts key
  unfold Device.pctlWrite
  rw [show d.ownedBy 0x004 r = true from h, if_neg (by decide), hop, hkey]
  rfl

theorem abort_facts (d : Device) (f : OtpArray) :
    (d.otp.run = none → (d.otpAbort f).otp = d.otp) ∧
      (∀ r, d.otp.run = some r → r.pulsing = true → (d.otpAbort f).otp = { d.otp with run := some { r with stop := true } }) ∧
      (∀ r, d.otp.run = some r → r.pulsing = false → OtpEnds (d.otpAbort f) 5) := by
  unfold Device.otpAbort
  refine ⟨fun h => ?_, fun r h hp => ?_, fun r h hp => ?_⟩
  · rw [h]
  · rw [h]
    exact congrArg Device.otp (if_pos hp)
  · rw [h]
    dsimp only
    rw [if_neg (by rw [hp]; exact Bool.false_ne_true)]
    exact (ends_next d f 5).1

theorem otpStop_effect {s : State} {src : Source} {key : BitVec 16} (ht : s.dev.takes src 0x004054 0xFFFFFFFF (field 31 16 key.toNat) = true)
    (hown : s.dev.ownedBy otpPage (s.dev.requester src) = true) :
    let o := s.dev.otp
    let y := s.dev.busWrite s.fuses src 0x004054 0xF (field 31 16 key.toNat) {}
    (key ≠ 0x07B5 ∨ o.progLock = true → y.otp = o ∧ bit (y.head (pg otpPage)).err 1 = true) ∧
      (key = 0x07B5 → o.progLock = false →
        (o.run = none → y.otp = o) ∧ (∀ r, o.run = some r → r.pulsing = true → y.otp = { o with run := some { r with stop := true } }) ∧
        (∀ r, o.run = some r → r.pulsing = false → OtpEnds y 5)) := by
  have hotp := (arrive_otp s.dev src 0x004054).1
  rw [← arrive_ownedBy s.dev src 0x004054] at hown
  have hnat : key.toNat ≠ 0x07B5 ↔ key ≠ 0x07B5 := not_congr ⟨fun h => BitVec.eq_of_toNat_eq h, fun h => by rw [h]; rfl⟩
  dsimp only
  rw [pctl_write ht, pctl_stop s.fuses key hown, ← hotp]
  clear hotp hown
  generalize s.dev.arrive src 0x004054 = d
  refine ⟨fun h => ?_, fun hk hl => ?_⟩
  · rw [if_pos (h.imp hnat.2 id)]
    exact ⟨rfl, setErr_bit d otpPage 1 (by decide)⟩
  · rw [if_neg fun h => h.elim (fun q => hnat.1 q hk) fun q => Bool.false_ne_true (hl.symm.trans q)]
    exact abort_facts d s.fuses

/-! ## The supply start (R680, R681) -/

theorem supplyReady_still {d : Device} (f : OtpArray) (ok : Bool) (h : d.otp.run = none ∨ ∃ r, d.otp.run = some r ∧ (r.started = false ∨ r.pulsing = true)) :
    d.supplyReady f ok = d := by
  unfold Device.supplyReady
  rcases h with h | ⟨r, h, hr⟩
  · rw [h]
  · rw [h]
    refine if_neg fun q => ?_
    obtain ⟨hs, hp⟩ := Bool.and_eq_true _ _ ▸ q
    rcases hr with hr | hr
    · exact Bool.false_ne_true (hr.symm.trans hs)
    · rw [hr] at hp
      exact Bool.false_ne_true hp

/-- A supply that is ready starts the first pulse, where the temperature allows it. -/
theorem supplyReady_acts {d : Device} {r : OtpRun} (f : OtpArray) (ok : Bool) (h : d.otp.run = some r) (hs : r.started = true) (hp : r.pulsing = false) :
    let e := d.supplyReady f ok
    (ok = false → OtpEnds e 4) ∧ (ok = true → d.otpOk = false → OtpEnds e 3) ∧
      (ok = true → d.otpOk = true → e.otp = { d.otp with run := some { r with pulsing := true }, pulses := satInc 0xFFFF d.otp.pulses } ∧ (e.head (pg otpPage)).cur = 3) := by
  obtain ⟨hcold, hruns⟩ := pulseStart_facts d f r
  have he : d.supplyReady f ok = if ok then d.pulseStart f r else (d.otpEnd 4).otpNext f := by
    unfold Device.supplyReady
    rw [h]
    exact if_pos (by rw [hs, hp]; rfl)
  dsimp only
  rw [he]
  refine ⟨fun hok => ?_, fun hok => ?_, fun hok => ?_⟩
  · rw [if_neg (by rw [hok]; exact Bool.false_ne_true)]
    exact (ends_next d f 4).1
  · rw [if_pos hok]
    exact hcold
  · rw [if_pos hok]
    exact hruns

/-! ## The end of a pulse (R657, R679 to R682) -/

theorem pulseDone_still {d : Device} (f : OtpArray) (m1 ok : Bool) (h : d.otp.run = none ∨ ∃ r, d.otp.run = some r ∧ r.pulsing = false) :
    d.pulseDone f m1 ok = (d, f) := by
  unfold Device.pulseDone
  rcases h with h | ⟨r, h, hr⟩
  · rw [h]
  · rw [h]
    exact if_neg (by rw [hr]; exact Bool.false_ne_true)

/-- The operation as the reading of its first copy finds it. -/
def OtpRun.pulsed (r : OtpRun) : OtpRun := { r with pulsing := false, tries := r.tries + 1 }

theorem pulseDone_first {d : Device} {r : OtpRun} {i b : Nat} {rest : List (Nat × Nat)} (f : OtpArray) (m1 ok : Bool) (h : d.otp.run = some r) (hp : r.pulsing = true)
    (ht : r.todo = (i, b) :: rest) : d.pulseDone f m1 ok = (d.afterPulse (f.pulse i b m1) r.pulsed ok, f.pulse i b m1) := by
  unfold Device.pulseDone
  rw [h]
  dsimp only
  rw [if_pos hp, ht]
  unfold OtpRun.pulsed
  rw [ht]

/-- What follows the reading of one copy, on the device that shows state 4. -/
def Device.judgeCopy (d : Device) (f : OtpArray) (r : OtpRun) (i b : Nat) (rest : List (Nat × Nat)) (ok : Bool) : Device :=
  if r.stop || d.boot.request.isSome then (d.otpEnd 5).otpNext f
  else if bit (f.atM1 i) b then
    if rest.isEmpty then
      (if r.kind = .seal then (d.otpEnd 1).drawScan.2.updOtp fun o => { o with gens := gensOf (f.values (d.otpEnd 1).drawScan.1) } else d.otpEnd 1).otpNext f
    else if !ok then (d.otpEnd 4).otpNext f
    else d.pulseStart f { r with todo := rest, tries := 0 }
  else if max 1 (bits (d.reg 0x004048) 19 16) ≤ r.tries then ((d.updOtp fun o => { o with failBit := b }).otpEnd 2).otpNext f
  else if !ok then (d.otpEnd 4).otpNext f
  else d.pulseStart f r

theorem afterPulse_first {d : Device} {r : OtpRun} {i b : Nat} {rest : List (Nat × Nat)} (f : OtpArray) (ok : Bool) (ht : r.todo = (i, b) :: rest) :
    d.afterPulse f r ok = (d.otpState 4).judgeCopy f r i b rest ok := by
  unfold Device.afterPulse
  dsimp only
  rw [ht]
  rfl

/-- A target that reads 1 at M1 is done; the last one ends the operation, and a seal judges the generations again. -/
theorem lastCopy_ends (d : Device) (f : OtpArray) (k : OtpKind) :
    let e := (if k = .seal then (d.otpEnd 1).drawScan.2.updOtp fun o => { o with gens := gensOf (f.values (d.otpEnd 1).drawScan.1) } else d.otpEnd 1).otpNext f
    OtpEnds e 1 ∧ (k = .seal → ∃ n, e.otp.gens = gensOf (f.values n)) := by
  obtain ⟨hend, -, -⟩ := end_facts d 1
  dsimp only
  by_cases hk : k = .seal
  · rw [if_pos hk]
    have hy : ((d.otpEnd 1).drawScan.2.updOtp fun o => { o with gens := gensOf (f.values (d.otpEnd 1).drawScan.1) }).otp =
        { (d.otpEnd 1).otp with gens := gensOf (f.values (d.otpEnd 1).drawScan.1) } := rfl
    rw [hend] at hy
    generalize ((d.otpEnd 1).drawScan.2.updOtp fun o => { o with gens := gensOf (f.values (d.otpEnd 1).drawScan.1) }) = y at *
    obtain ⟨hrun, hres, -, -, hgens⟩ := next_none y f (by rw [hy])
    rw [hy] at hres hgens
    exact ⟨⟨hrun, hres⟩, fun _ => ⟨_, hgens⟩⟩
  · rw [if_neg hk]
    exact ⟨(ends_next d f 1).1, fun h => absurd h hk⟩

theorem judgeCopy_stops {d : Device} {r : OtpRun} {i b : Nat} {rest : List (Nat × Nat)} (f : OtpArray) (ok : Bool) (h : r.stop = true ∨ d.boot.request ≠ none) :
    OtpEnds (d.judgeCopy f r i b rest ok) 5 := by
  unfold Device.judgeCopy
  rw [if_pos (by rcases h with h | h; rw [h, Bool.true_or]; rw [Option.isSome_iff_ne_none.2 h, Bool.or_true])]
  exact (ends_next d f 5).1

theorem judgeCopy_programmed {d : Device} {r : OtpRun} {i b : Nat} {rest : List (Nat × Nat)} (f : OtpArray) (ok : Bool) (hs : r.stop = false) (hq : d.boot.request = none)
    (hb : bit (f.atM1 i) b = true) :
    let e := d.judgeCopy f r i b rest ok
    (rest = [] → OtpEnds e 1 ∧ (r.kind = .seal → ∃ n, e.otp.gens = gensOf (f.values n))) ∧
      (rest ≠ [] → ok = false → OtpEnds e 4) ∧ (rest ≠ [] → ok = true → d.otpOk = false → OtpEnds e 3) ∧
      (rest ≠ [] → ok = true → d.otpOk = true →
        e.otp = { d.otp with run := some { r with todo := rest, tries := 0, pulsing := true }, pulses := satInc 0xFFFF d.otp.pulses }) := by
  obtain ⟨hcold, hruns⟩ := pulseStart_facts d f { r with todo := rest, tries := 0 }
  have hmore : rest ≠ [] → ¬ rest.isEmpty = true := fun h q => h (List.isEmpty_iff.1 q)
  unfold Device.judgeCopy
  rw [if_neg (by rw [hs, hq]; decide), if_pos hb]
  refine ⟨fun h => ?_, fun h hok => ?_, fun h hok hcool => ?_, fun h hok hcool => ?_⟩
  · rw [if_pos (List.isEmpty_iff.2 h)]
    exact lastCopy_ends d f r.kind
  · rw [if_neg (hmore h), if_pos (by rw [hok]; rfl)]
    exact (ends_next d f 4).1
  · rw [if_neg (hmore h), if_neg (by rw [hok]; decide)]
    exact hcold hcool
  · rw [if_neg (hmore h), if_neg (by rw [hok]; decide)]
    exact (hruns hcool).1

theorem judgeCopy_unprogrammed {d : Device} {r : OtpRun} {i b : Nat} {rest : List (Nat × Nat)} (f : OtpArray) (ok : Bool) (hs : r.stop = false) (hq : d.boot.request = none)
    (hb : bit (f.atM1 i) b = false) :
    let e := d.judgeCopy f r i b rest ok
    (max 1 (bits (d.reg 0x004048) 19 16) ≤ r.tries → OtpEnds e 2 ∧ e.otp.failBit = b) ∧
      (r.tries < max 1 (bits (d.reg 0x004048) 19 16) →
        (ok = false → OtpEnds e 4) ∧ (ok = true → d.otpOk = false → OtpEnds e 3) ∧
        (ok = true → d.otpOk = true → e.otp = { d.otp with run := some { r with pulsing := true }, pulses := satInc 0xFFFF d.otp.pulses })) := by
  obtain ⟨hcold, hruns⟩ := pulseStart_facts d f r
  unfold Device.judgeCopy
  rw [if_neg (by rw [hs, hq]; decide), if_neg (by rw [hb]; exact Bool.false_ne_true)]
  refine ⟨fun h => ?_, fun h => ⟨fun hok => ?_, fun hok hcool => ?_, fun hok hcool => ?_⟩⟩
  · rw [if_pos h]
    obtain ⟨hend, -, hfail, -⟩ := ends_next (d.updOtp fun o => { o with failBit := b }) f 2
    exact ⟨hend, hfail⟩
  · rw [if_neg (Nat.not_le.2 h), if_pos (by rw [hok]; rfl)]
    exact (ends_next d f 4).1
  · rw [if_neg (Nat.not_le.2 h), if_neg (by rw [hok]; decide)]
    exact hcold hcool
  · rw [if_neg (Nat.not_le.2 h), if_neg (by rw [hok]; decide)]
    exact (hruns hcool).1

theorem pulseDone_effect {d : Device} {r : OtpRun} {i b : Nat} {rest : List (Nat × Nat)} (f : OtpArray) (m1 ok : Bool) (h : d.otp.run = some r) (hp : r.pulsing = true)
    (ht : r.todo = (i, b) :: rest) :
    let o := d.otp
    let e := (d.pulseDone f m1 ok).1
    let g := (d.pulseDone f m1 ok).2
    g = f.pulse i b m1 ∧ (r.stop = true ∨ d.boot.request ≠ none → OtpEnds e 5) ∧
      (r.stop = false → d.boot.request = none →
        (bit (g.atM1 i) b = true →
          (rest = [] → OtpEnds e 1 ∧ (r.kind = .seal → ∃ n, e.otp.gens = gensOf (g.values n))) ∧
          (rest ≠ [] → ok = false → OtpEnds e 4) ∧ (rest ≠ [] → ok = true → d.otpOk = false → OtpEnds e 3) ∧
          (rest ≠ [] → ok = true → d.otpOk = true → e.otp = { o with run := some { r with todo := rest, tries := 0 }, pulses := satInc 0xFFFF o.pulses })) ∧
        (bit (g.atM1 i) b = false →
          (max 1 (bits (d.reg 0x004048) 19 16) ≤ r.tries + 1 → OtpEnds e 2 ∧ e.otp.failBit = b) ∧
          (r.tries + 1 < max 1 (bits (d.reg 0x004048) 19 16) →
            (ok = false → OtpEnds e 4) ∧ (ok = true → d.otpOk = false → OtpEnds e 3) ∧
            (ok = true → d.otpOk = true → e.otp = { o with run := some { r with tries := r.tries + 1 }, pulses := satInc 0xFFFF o.pulses })))) := by
  obtain ⟨hotp, -, -, hthm, hregs, hboot⟩ := otpState_facts d 4
  have hok : (d.otpState 4).otpOk = d.otpOk := (heat_of hthm hregs).2.2.2
  have hreg : (d.otpState 4).reg 0x004048 = d.reg 0x004048 := reg_of_same hregs _
  have hagain : ∀ l n, ({ r.pulsed with todo := l, tries := n, pulsing := true } : OtpRun) = { r with todo := l, tries := n } := fun l n => by
    unfold OtpRun.pulsed
    rw [← hp]
  dsimp only
  rw [pulseDone_first f m1 ok h hp ht, afterPulse_first (r := r.pulsed) _ ok ht, ← hotp, ← hok, ← hreg, ← hboot]
  generalize f.pulse i b m1 = g
  refine ⟨rfl, fun hq => judgeCopy_stops g ok hq, fun hs hq => ⟨fun hb => ?_, fun hb => ?_⟩⟩
  · have hj := judgeCopy_programmed (r := r.pulsed) (rest := rest) g ok hs hq hb
    dsimp only at hj
    rw [hagain] at hj
    exact hj
  · have hj := judgeCopy_unprogrammed (r := r.pulsed) (rest := rest) g ok hs hq hb
    dsimp only at hj
    rw [hagain] at hj
    exact hj

/-- Settles O59: the programmer's requests, its stop, its supply start and its pulses. -/
theorem otpProgrammerCommandsComplete : Obligations.OtpProgrammerCommandsComplete := by
  unfold Obligations.OtpProgrammerCommandsComplete
  refine fun s => ⟨fun c src key noChk k h ht => ⟨_, exec_asksOtp s h, rfl, otpRequest_effect ht⟩, fun src key ht hown => ⟨_, exec_otpStop src key s, rfl, otpStop_effect ht hown⟩,
    fun hl => ⟨fun ok => ⟨fun h => ?norun, fun r h hr => ?notready, fun r h hs hp => ⟨_, exec_otpSupplyReady ok hl, rfl, supplyReady_acts s.fuses ok h hs hp⟩⟩,
      fun m1 ok => ⟨fun h => ?nopulse, fun r h hr => ?between, fun r i b rest h hp ht => ⟨_, exec_otpPulseComplete m1 ok hl, pulseDone_effect s.fuses m1 ok h hp ht⟩⟩⟩⟩
  case norun => exact (exec_otpSupplyReady ok hl).trans (next_of s (e' := s.dev) (supplyReady_still s.fuses ok (.inl h)))
  case notready => exact (exec_otpSupplyReady ok hl).trans (next_of s (e' := s.dev) (supplyReady_still s.fuses ok (.inr ⟨r, h, hr⟩)))
  case nopulse => rw [exec_otpPulseComplete m1 ok hl, pulseDone_still s.fuses m1 ok (.inl h)]
  case between => rw [exec_otpPulseComplete m1 ok hl, pulseDone_still s.fuses m1 ok (.inr ⟨r, h, hr⟩)]

end Sys2Proof.Machine
end

section
/-! SUPPORT. The reload of the call sheet, the restart of the core, and the count of the reference clock. -/

set_option maxRecDepth 4000
namespace Sys2Proof.Machine
open Sys2Proof

theorem exec_otpReload (src : Source) (data : Word) (s : State) :
    exec (.otpReload src data) s = .next { s with dev := s.dev.busWrite s.fuses src 0x0050C4 0xF data {} } := rfl
theorem exec_hkcRestart (src : Source) (data : Word) (s : State) :
    exec (.hkcRestart src data) s = .next { s with dev := s.dev.busWrite s.fuses src 0x006040 0xF data {} } := rfl
theorem exec_otpReloadDeferred {s : State} (h : s.dev.live = true) : exec .otpReloadDeferred s = .next { s with dev := s.dev.reloadWaiting s.fuses } :=
  live_next s (fun d => d.reloadWaiting s.fuses) h
theorem exec_coreRestartComplete (challenges : Vector (List (BitVec 16)) 9) (s : State) :
    exec (.coreRestartComplete challenges) s = .next { s with dev := s.dev.restartComplete s.fuses challenges } := rfl
theorem exec_clkXfreqUpdate (khz : BitVec 16) (s : State) :
    exec (.clkXfreqUpdate khz) s =
      .next { s with dev := if s.dev.boot.held || s.dev.boot.clkFailed then s.dev else { s.dev with boot := { s.dev.boot with xfreq := khz.toNat } } } := rfl

/-! ## The reload (R673 to R675) -/

theorem arrive_straps (d : Device) (src : Source) (a : Nat) : (d.arrive src a).boot.straps = d.boot.straps := by rw [Device.arrive_boot, Device.tapLeaves_boot]

theorem reload_write {s : State} {src : Source} {data : Word} (ht : s.dev.takes src 0x0050C4 0xFFFFFFFF data = true) :
    s.dev.busWrite s.fuses src 0x0050C4 0xF data {} = (s.dev.arrive src 0x0050C4).otpReload s.fuses data := by
  refine (otp_write s src 0x005 0x0C4 data ht (by decide) (by decide) (by decide) (by decide)).trans ?_
  unfold Device.otpWrite
  rw [if_neg (by decide), if_neg (by decide), if_pos rfl, and_full]
  rfl

theorem otpReload_facts (d : Device) (f : OtpArray) (w : Word) :
    let e := d.otpReload f w
    let find := selectGen (f.values d.freeCount) (bits d.boot.straps 1 0 == 0)
    (bits w 31 16 ≠ 0x5E7A → e.otp = d.otp ∧ bit (e.head (pg 0x005)).err 1 = true) ∧
      (bits w 31 16 = 0x5E7A → d.seq.st ≠ .idle → e.otp = { d.otp with rldResult := 2 }) ∧
      (bits w 31 16 = 0x5E7A → d.seq.st = .idle → d.otpBusy = true → e.otp = { d.otp with reloadDue := true }) ∧
      (bits w 31 16 = 0x5E7A → d.seq.st = .idle → d.otpBusy = false →
        (find = none → e.otp = { d.otp with reloadDue := false, rldResult := 3, rldGen := 7, rldWrites := 0 } ∧ e.regs = d.regs) ∧
        (∀ g, find = some g → e.otp.rldResult = 1 ∧ e.otp.rldGen = g ∧ e.otp.reloadDue = false)) := by
  obtain ⟨hwaits, hreloads⟩ := waiting_facts (d.updOtp fun o => { o with reloadDue := true }) f
  unfold Device.otpReload
  refine ⟨fun hk => ?_, fun hk hs => ?_, fun hk hs hb => ?_, fun hk hs hb => ?_⟩
  · rw [if_pos hk]
    exact ⟨rfl, setErr_bit d 0x005 1 (by decide)⟩
  · rw [if_neg fun q => q hk, if_pos (bne_iff_ne.2 hs)]
    rfl
  · rw [if_neg fun q => q hk, if_neg fun q => bne_iff_ne.1 q hs, hwaits (.inr hb)]
    rfl
  · rw [if_neg fun q => q hk, if_neg fun q => bne_iff_ne.1 q hs]
    exact (hreloads rfl hb).2 hs

theorem reload_effect {s : State} {src : Source} {data : Word} (ht : s.dev.takes src 0x0050C4 0xFFFFFFFF data = true) :
    let o := s.dev.otp
    let find := selectGen (s.fuses.values s.dev.freeCount) (bits s.dev.boot.straps 1 0 == 0)
    let y := s.dev.busWrite s.fuses src 0x0050C4 0xF data {}
    (bits data 31 16 ≠ 0x5E7A → y.otp = o ∧ bit (y.head (pg 0x005)).err 1 = true) ∧
      (bits data 31 16 = 0x5E7A → s.dev.seq.st ≠ .idle → y.otp = { o with rldResult := 2 }) ∧
      (bits data 31 16 = 0x5E7A → s.dev.seq.st = .idle → s.dev.otpBusy = true → y.otp = { o with reloadDue := true }) ∧
      (bits data 31 16 = 0x5E7A → s.dev.seq.st = .idle → s.dev.otpBusy = false →
        (find = none → y.otp = { o with reloadDue := false, rldResult := 3, rldGen := 7, rldWrites := 0 } ∧ y.regs = (s.dev.arrive src 0x0050C4).regs) ∧
        (∀ g, find = some g → y.otp.rldResult = 1 ∧ y.otp.rldGen = g ∧ y.otp.reloadDue = false)) := by
  obtain ⟨hotp, hbusy, -, hcount, -⟩ := arrive_otp s.dev src 0x0050C4
  dsimp only
  rw [reload_write ht, ← hotp, ← hbusy, ← hcount, ← arrive_straps s.dev src 0x0050C4, ← Device.arrive_seq s.dev src 0x0050C4]
  exact otpReload_facts _ _ _

/-! ## The restart of the core (R687) -/

theorem arrive_coreRestarting (d : Device) (src : Source) (a : Nat) : (d.arrive src a).boot.coreRestarting = d.boot.coreRestarting := by
  rw [Device.arrive_boot, Device.tapLeaves_boot]

theorem hkc_write {s : State} {src : Source} {data : Word} (ht : s.dev.takes src 0x006040 0xFFFFFFFF data = true) :
    s.dev.busWrite s.fuses src 0x006040 0xF data {} =
      if bits data 31 16 = 0x4B1C ∧ bit data 0 then (s.dev.arrive src 0x006040).coreRestart s.fuses false (s.dev.requester src).code
      else (s.dev.arrive src 0x006040).setErr 0x006 (errBit 1) := by
  have hw := Device.busWrite_page s.dev s.fuses src 0x006 0x040 0xF data {} ht (by decide) (by decide) (by decide) (by decide) (Or.inr (by decide))
  have hq : (s.dev.arrive src 0x006040).blockWrite s.fuses src 0x006 0x040 (byteMask 0xF) data {} =
      (s.dev.arrive src 0x006040).hkcWrite s.fuses ((s.dev.arrive src 0x006040).requester src).code 0x040 (data &&& byteMask 0xF) := rfl
  rw [show pageAddr 0x006 0x040 = 0x006040 from rfl, hq, Device.arrive_requester, byteMask_full, and_full] at hw
  rw [hw]
  unfold Device.hkcWrite
  rw [if_pos rfl]
  rfl

theorem coreRestart_down {d : Device} (f : OtpArray) (w : Bool) (who : Nat) (h1 : d.boot.coreUp = false) (h2 : d.boot.coreRestarting = false) : d.coreRestart f w who = d := by
  unfold Device.coreRestart
  exact if_neg (by rw [h1, h2]; decide)

theorem hkcRestart_effect {s : State} {src : Source} {data : Word} (ht : s.dev.takes src 0x006040 0xFFFFFFFF data = true) :
    let o := s.dev.otp
    let y := s.dev.busWrite s.fuses src 0x006040 0xF data {}
    (bits data 31 16 ≠ 0x4B1C ∨ bit data 0 = false → y.boot.coreUp = s.dev.boot.coreUp ∧ y.hkc = s.dev.hkc ∧ bit (y.head (pg 0x006)).err 1 = true) ∧
      (bits data 31 16 = 0x4B1C → bit data 0 = true → s.dev.boot.coreUp = true ∨ s.dev.boot.coreRestarting = true →
        y.boot.coreUp = false ∧ y.boot.coreRestarting = true ∧ y.hkc = { s.dev.hkc with restarts := satInc 255 s.dev.hkc.restarts, code := [] } ∧
        (∀ k, (y.wd k).queue = []) ∧ (o.run = none → y.otp = o) ∧ (y.head (pg 0x006)).cur = 3) ∧
      (bits data 31 16 = 0x4B1C → bit data 0 = true → s.dev.boot.coreUp = false → s.dev.boot.coreRestarting = false →
        y.boot.coreUp = false ∧ y.boot.coreRestarting = false ∧ y.hkc = s.dev.hkc ∧ y.otp = o) := by
  obtain ⟨hotp, -, -, -, -⟩ := arrive_otp s.dev src 0x006040
  dsimp only
  rw [hkc_write ht, ← hotp, ← Device.arrive_coreUp s.dev src 0x006040, ← arrive_coreRestarting s.dev src 0x006040, ← Device.arrive_hkc s.dev src 0x006040]
  generalize s.dev.arrive src 0x006040 = d
  refine ⟨fun h => ?_, fun hk hb h => ?_, fun hk hb h1 h2 => ?_⟩
  · rw [if_neg fun q => h.elim (fun n => n q.1) fun n => Bool.false_ne_true (n.symm.trans q.2)]
    exact ⟨rfl, rfl, setErr_bit d 0x006 1 (by decide)⟩
  · rw [if_pos ⟨hk, hb⟩]
    exact restart_facts d s.fuses false _ h
  · rw [if_pos ⟨hk, hb⟩, coreRestart_down s.fuses false _ h1 h2]
    exact ⟨h1, h2, rfl, rfl⟩

/-! ## The restart completes (R687) -/

/-- What a restart loads of the patch section: nothing where there is none, its code, or no comparator where it is not valid. -/
def Device.patchReloaded (d : Device) (v : Store) (g : Nat) : Device :=
  if (patchSection v g).isEmpty then d
  else if patchValid v g then { d with hkc := { d.hkc with code := patchCode (patchSection v g) } }
  else { d with hkc := { d.hkc with cmp := Vector.replicate 64 none, code := [], skipped := true, dup := false } }

theorem patchReloaded_facts (d : Device) (v : Store) (g : Nat) :
    let e := d.patchReloaded v g
    (patchSection v g = [] → e.hkc = d.hkc) ∧
      (patchSection v g ≠ [] → patchValid v g = true → e.hkc = { d.hkc with code := patchCode (patchSection v g) }) ∧
      (patchSection v g ≠ [] → patchValid v g = false → e.hkc = { d.hkc with cmp := Vector.replicate 64 none, code := [], skipped := true, dup := false }) := by
  unfold Device.patchReloaded
  refine ⟨fun h => ?_, fun h hv => ?_, fun h hv => ?_⟩
  · rw [if_pos (List.isEmpty_iff.2 h)]
  · rw [if_neg fun q => h (List.isEmpty_iff.1 q), if_pos hv]
  · rw [if_neg fun q => h (List.isEmpty_iff.1 q), if_neg (by rw [hv]; exact Bool.false_ne_true)]

/-- What the restarted core does first: its window, its watchdogs and the gauge. -/
def Device.coreResumed (d : Device) (c : Vector (List (BitVec 16)) 9) : Device :=
  ((if (((d.hkcSync 0x02).evcSync).wd 8).st == .tripped then ((d.hkcSync 0x02).evcSync).wdtArmNow 8 0x16 byHw else (d.hkcSync 0x02).evcSync).wdtFill c).gauReconcile

theorem coreResumed_keeps (d : Device) (c : Vector (List (BitVec 16)) 9) : (d.coreResumed c).boot = d.boot ∧ (d.coreResumed c).hkc = d.hkc := by
  unfold Device.coreResumed
  split
  · exact ⟨keeps_boot (by simp), keeps_hkc (by simp)⟩
  · exact ⟨keeps_boot (by simp), keeps_hkc (by simp)⟩

theorem restartComplete_still {d : Device} (f : OtpArray) (c : Vector (List (BitVec 16)) 9) (h : d.live = false ∨ d.boot.coreRestarting = false) :
    d.restartComplete f c = d := by
  unfold Device.restartComplete
  refine if_neg fun q => ?_
  obtain ⟨hl, hr⟩ := Bool.and_eq_true _ _ ▸ q
  rcases h with h | h
  · exact Bool.false_ne_true (h.symm.trans hl)
  · exact Bool.false_ne_true (h.symm.trans hr)

theorem restartComplete_runs {d : Device} (f : OtpArray) (c : Vector (List (BitVec 16)) 9) (hl : d.live = true) (hr : d.boot.coreRestarting = true) :
    d.restartComplete f c =
      ({ d.drawScan.2.patchReloaded (f.values d.freeCount) d.boot.gen with
          boot := { (d.drawScan.2.patchReloaded (f.values d.freeCount) d.boot.gen).boot with coreUp := true, coreRestarting := false } } : Device).coreResumed c := by
  unfold Device.restartComplete
  exact if_pos (by rw [hl, hr]; rfl)

theorem restartComplete_effect {d : Device} (f : OtpArray) (c : Vector (List (BitVec 16)) 9) (hl : d.live = true) (hr : d.boot.coreRestarting = true) :
    let v := f.values d.freeCount
    let e := d.restartComplete f c
    e.boot.coreUp = true ∧ e.boot.coreRestarting = false ∧ (patchSection v d.boot.gen = [] → e.hkc = d.hkc) ∧
      (patchSection v d.boot.gen ≠ [] → patchValid v d.boot.gen = true → e.hkc = { d.hkc with code := patchCode (patchSection v d.boot.gen) }) ∧
      (patchSection v d.boot.gen ≠ [] → patchValid v d.boot.gen = false →
        e.hkc = { d.hkc with cmp := Vector.replicate 64 none, code := [], skipped := true, dup := false }) := by
  have hpatch := patchReloaded_facts d.drawScan.2 (f.values d.freeCount) d.boot.gen
  dsimp only
  rw [restartComplete_runs f c hl hr]
  generalize d.drawScan.2.patchReloaded (f.values d.freeCount) d.boot.gen = y at *
  obtain ⟨hboot, hhkc⟩ := coreResumed_keeps ({ y with boot := { y.boot with coreUp := true, coreRestarting := false } } : Device) c
  rw [hboot, hhkc]
  exact ⟨rfl, rfl, hpatch⟩

/-- Settles O60: the reload and its wait, the restart of the core and its end, and the count of the reference clock. -/
theorem reloadAndRestartCommandsComplete : Obligations.ReloadAndRestartCommandsComplete := by
  unfold Obligations.ReloadAndRestartCommandsComplete
  refine fun s => ⟨fun src data ht => ⟨_, exec_otpReload src data s, rfl, reload_effect ht⟩, fun hl => ⟨fun h => ?waits, fun h1 h2 => ?due⟩,
    fun src data ht => ⟨_, exec_hkcRestart src data s, rfl, hkcRestart_effect ht⟩, fun c => ⟨fun h => ?still, fun hl hr => ?back⟩, fun khz => ⟨fun h => ?stopped, fun h1 h2 => ?counts⟩⟩
  case waits => exact (exec_otpReloadDeferred hl).trans (next_of s (e' := s.dev) ((waiting_facts s.dev s.fuses).1 h))
  case due => exact ⟨_, exec_otpReloadDeferred hl, rfl, (waiting_facts s.dev s.fuses).2 h1 h2⟩
  case still => exact (exec_coreRestartComplete c s).trans (next_of s (e' := s.dev) (restartComplete_still s.fuses c h))
  case back => exact ⟨_, exec_coreRestartComplete c s, rfl, restartComplete_effect s.fuses c hl hr⟩
  case stopped => exact (exec_clkXfreqUpdate khz s).trans (next_of s (e' := s.dev) (if_pos (by rcases h with h | h; rw [h, Bool.true_or]; rw [h, Bool.or_true])))
  case counts => exact (exec_clkXfreqUpdate khz s).trans (next_of s (if_neg (by rw [h1, h2]; decide)))

end Sys2Proof.Machine
end
